-- ==== Sys2Proof/Word.lean ====
section
/-! DEFINITION. The word types of the block and the plainest arithmetic on them (00_scope.md, Conventions:
every register is 64 bits wide, bit 0 is the least significant, fields are written [msb:lsb]). -/
namespace Sys2Proof

/-- One byte. -/
abbrev Byte := BitVec 8

/-- A 64-bit word: a register, a scratchpad word, a program-store word. -/
abbrev Word := BitVec 64

/-- A sparse map by natural key: a list of (key, value) pairs, keys strictly rising, no value equal to what an
unlisted key reads as.  The operations on it are in Machine/Map.lean. -/
abbrev SMap (α : Type) := List (Nat × α)

end Sys2Proof
end

