-- ==== Sys2Proof/Syntax.lean ====
section
/-! DEFINITION. The commands the block takes, whole: the operations and events of spec/opcode_table.json.  An Ifeom
instruction carries the face that issues it and its words; an event
carries what the outside world supplies to it (the bytes of a message, the result of a check made outside the digital
part, an analogue error).  Log entry 5. -/
namespace Sys2Proof

/-- An instruction's words (R255): CLASS, OP, LEN, the guard, bits [41:0] of word 0, and words 1 to 3. -/
structure IWord where
  cls : Nat
  op : Nat
  len : Nat
  pneg : Bool
  pred : Nat
  ops : BitVec 42
  w1 : Word
  w2 : Word
  w3 : Word
  deriving DecidableEq, Repr

/-- A parcel (R430) as it arrives: its header fields, the data words with nothing altered on the way or altered
(`seal_`: the seal it carries, R431). -/
structure Parcel where
  kind : Nat
  poison : Bool
  vl1 : Bool
  dst : Nat
  src : Nat
  face : Nat
  win : Nat
  offset : Nat
  lines : Nat
  hand : Nat
  seq : Nat
  epoch : Nat
  ctr : Nat
  amount : Nat
  slot : Nat
  model : Nat
  data : List Word
  seal_ : Nat := 0
  deriving DecidableEq, Repr

/-- A window entry of a COMMIT message (R440). -/
structure WinEntry where
  face : Nat
  win : Nat
  bytes : Nat
  slotLo : Nat
  stampLo : Nat
  stampHi : Nat
  deriving DecidableEq, Repr


/-- A stock share as the page mover reads it back from host memory (R490), word by word: its header, its tag area, its enciphered seal
area and its enciphered body. -/
structure Share where
  header : List Word
  tags : List Word
  seals : List Word
  body : List Word
  deriving DecidableEq, Repr

/-- The limits of a sampling block (R404), as bytes 64 to 127 of an ante give them: BF16 codes and counts. -/
structure Samp where
  temp : Nat := 0
  topP : Nat := 0x3F80
  minP : Nat := 0
  rep : Nat := 0x3F80
  freq : Nat := 0
  pres : Nat := 0
  topK : Nat := 0
  window : Nat := 0
  ignoreEos : Bool := false
  lookupN : Nat := 1
  deriving DecidableEq, Repr

/-- The part of a seat record that the front sends (R402): sampling block, bias list (id, BF16 bias), stop sequences, the last
prompt tokens, and the ante's fields that the dealer needs. -/
structure SeatRec where
  samp : Samp := {}
  bias : List (Nat × Nat) := []
  stops : List (List Nat) := []
  hist : List Nat := []
  seed : Nat := 0
  maxTokens : Nat := 0
  grammar : Nat := 255
  draftMax : Nat := 0
  draftMode : Nat := 0
  deadline : Nat := 0
  handle : Nat := 0
  front : Nat := 0
  /-- generated tokens of a carried seat, over which the grammar runs again (R466) -/
  generated : List Nat := []
  deriving DecidableEq, Repr

/-- A seat's place in a slot (R386): index, KIND (0 decode, 1 prefill chunk, 2 last chunk), drafts carried, NTOK, POSITION, token
identifiers at the head, prefix set (4,096: none), and whether it has become VOID. -/
structure SlotSeat where
  seat : Nat
  kind : Nat
  drafts : Nat
  ntok : Nat
  pos : Nat
  toks : List Nat
  prefixSet : Nat
  void : Bool
  deriving DecidableEq, Repr

/-- An ante or fold as its front reads it from host memory: the 128-byte entry as words, the prompt, the bias list and the stop
sequences (R366, R404). -/
structure Entry where
  words : List Word
  prompt : List Nat
  bias : List Word
  stops : List (List Nat)
  deriving DecidableEq, Repr

/-- Control-lane messages (R437), with the fields each carries. -/
inductive Msg where
  | tick (hand due period : Nat)
  | commit (hand : Nat) (wins : List WinEntry) (more : Bool)
  | abort (hand : Nat)
  /-- a ROLE message: its sub-type and fields (R458) -/
  | role (kind : Nat) (body : List Nat)
  | time (step t1 t2 t3 : Nat)
  | ident (port device lanes rate epoch : Nat)
  | lane (proposal hand width spared : Nat) (hard : Bool)
  | play (trick hand : Nat)
  /-- a round's release, or (`refused`) the manager's answer to a play on a trick that is not created -/
  | release (trick hand : Nat) (refused : Bool)
  | answer (result seq count : Nat)
  | tokens (hand handle position counts endCode flags stampHi : Nat) (toks drafts : List Nat)
  | trim (hand handle count : Nat)
  | report (outcome hand slack widths rates backlog : Nat)
  | missed (lastHand : Nat)
  | tally (layer hand version : Nat) (digest : List Word)
  deriving DecidableEq, Repr

/-- A port of the haul mesh (R51): of physical face p, of stack p, fabric port n (by the index of R419), serving-unit port n, the host interface. -/
inductive MPort where
  | face (p : Nat)
  | stack (p : Nat)
  | fabric (n : Nat)
  | serving (n : Nat)
  | host
  deriving DecidableEq, Repr

/-- What a packet of the haul mesh carries (R55). -/
inductive MKind where
  | readRequest | write | readData | writeAck
  deriving DecidableEq, Repr

/-- A packet of the haul mesh (R54): source and destination port, what it carries, beats. -/
structure MPacket where
  src : MPort
  dst : MPort
  kind : MKind
  beats : Nat
  deriving DecidableEq, Repr

/-- Messages of the call ring, by the class table of R68. -/
inductive RKind where
  | tick | commit | abort | role
  | sig | debit | play | release | arrival
  | doorbell | hostCall | faultReport | calibration | housekeeping
  deriving DecidableEq, Repr

/-- A message of the call ring (R65, R66): its kind, source stop, destination stop (none: a broadcast), flits. -/
structure RingMsg where
  kind : RKind
  src : Nat
  dst : Option Nat
  flits : Nat
  deriving DecidableEq, Repr

/-- An entry of an image's MAP section (R335): weight set, the images of ARF_WSMAP_LO and _HI, of ARF_SPALL for both copies, the group. -/
structure MapEnt where
  w : Nat
  lo : Word
  hi : Word
  spA : Word
  spB : Word
  group : Nat
  deriving DecidableEq, Repr

/-- A block of a FINE section (R335, R348): its group, its HBM byte address or, resident, its face-local address, and its words. -/
structure FineBlk where
  group : Nat
  addr : Nat
  resident : Bool
  words : List Word
  deriving DecidableEq, Repr

/-- A line of a face's fine table as a copy's cut writes it (R356): group, copy, face-local line, its sixteen words. -/
structure FineLine where
  group : Nat
  copy : Nat
  line : Nat
  words : List Word
  deriving DecidableEq, Repr

/-- Contents of a section of an image (R335), parsed: several layouts inside a section are not given (log entry 15).  A spall part is a weight
set, a copy, the words of its table and of its shadow rows in the table's order. -/
inductive SecData where
  | manifest (devs : List (Nat × Nat × Nat)) (seatMax : Nat)
  | program (words : List Word)
  | map (sets : List MapEnt)
  | arrays (w : Nat) (recs : List (List Word))
  | columns (w : Nat) (scales biases : List Nat)
  | spall (parts : List (Nat × Nat × List Word × List (List Word)))
  | fine (blocks : List FineBlk) (lines : List FineLine)
  | digests (layers : List (Nat × List Word))
  | cutplan (groups : List (Nat × List (Nat × Nat)))
  deriving DecidableEq, Repr

/-- An entry of an image's section table (R335): TYPE, FACE, DEVICE, LENGTH, OFFSET and the six words of DIGEST as they stand. -/
structure SecEnt where
  typ : Nat
  face : Nat
  dev : Nat
  len : Nat
  offset : Nat
  digest : List Word
  deriving DecidableEq, Repr

/-- What an open reads of an image (R334 to R338): the words of the header and of the section table, the bytes of the signature block, and the words
of the MANIFEST section.  Beside it what no register holds: the devices per X ring, the X rings and the blocks that the deal domain is cabled with
(R450), and where the staging region lies and its bytes. -/
structure ImgOpen where
  header : List Word
  table : List Word
  sig : List Nat
  manifest : List Word
  cabled : Nat × Nat × Nat
  base : Nat
  room : Nat
  deriving DecidableEq, Repr

/-- What a boot finds outside the device (R598): the device address that the board controller holds, the self-calibration's factors, whether VIO came
late (R621), whether a rail is out of tolerance at B5, the PCIe link that trained, the cells that have moved to other levels (by array of BLK_ARRAY_STATE: position and
pair), and the milliseconds to READY. -/
structure Boot where
  addr : Nat
  factors : List (Nat × Nat)
  vioLate : Bool
  badRail : Bool
  rate : Nat
  width : Nat
  flit : Bool
  drift : List (Nat × List (Nat × Nat))
  ms : Nat
  deriving DecidableEq, Repr

/-- The commands of the block: one constructor for each row of spec/opcode_table.json, with what the outside
world supplies as its operands (log entry 5). -/
inductive Instr where
  /-- POWER_ON (R598): VAON reaches good and the device runs its boot sequence B1 to B9 up to READY. -/
  | powerOn (b : Boot)
  /-- COLD_RESET (R592): SYS_RESET_N held low for at least 10 µs, or a board-controller request over I3C, makes a cold reset. -/
  | coldReset (b : Boot)
  /-- COLD_RESET_REQ (R592): A management write of PLT_RESET_CTL.COLD makes a cold reset. -/
  | coldResetReq (b : Boot)
  /-- WARM_RESET (R595): A write of PLT_RESET_CTL.WARM starts a warm reset, which first waits for write-verifies in progress to end. -/
  | warmReset
  /-- WARM_RESET_DRAINED (R595): Once the write-verifies in progress have ended, the warm reset resets the state that R593 gives. -/
  | warmResetDrained
  /-- HOST_RESET (R594): PERST_N goes low: the PCIe link goes down and the effects of the FLRs of all three functions apply. -/
  | hostReset
  /-- FUNCTION_LEVEL_RESET (R594): A function-level reset of one function stops that function's requests and resets its state. -/
  | functionLevelReset (fn : Nat)
  /-- FACE_RESET (R596): A write of PLT_FACE_RESET starts a face reset: the hand misdeals, DOWN is set and issue stops. -/
  | faceReset (mask : Nat)
  /-- FACE_RESET_DONE (R596): After the face's started operations end, the face's sequencer, queues, scoreboard and counters are reset. -/
  | faceResetDone (f : Nat)
  /-- AUTO_FACE_RESET (R552): The AUTO_RESET delay after a face fault of cause 1, 2 or 3 expires and the face is reset. -/
  | autoFaceReset (f : Nat)
  /-- CONFIG_REQUEST (R600): A PCIe configuration request is answered with Request Retry Status until the host interface is ready. -/
  | configRequest (fn : Nat)
  /-- VAON_LOSS (R443): VAON falls below 0.70 V and the XP/XN bypass closes. -/
  | vaonLoss
  /-- BYP_FORCE (R443): BYP_FORCE_N goes low, closing the bypass and cancelling any scheduled open. -/
  | bypForce
  /-- THERMAL_TRIP (R576): A comparator or converted reading reaches 115 °C: clocks stop and THERMTRIP_N and FAULT_N are asserted. -/
  | thermalTrip (c : Nat)
  /-- DROOP (R573): VCORE at a face sense point falls below target minus T1 or T2 and the face clock is stretched. -/
  | droop (p : Nat) (half : Bool) (sag : Nat)
  /-- DROOP_RECOVER (R573): VCORE stays above target minus T1 for 64 cycles and the face clock period is restored. -/
  | droopRecover (p us : Nat)
  /-- TICK_ANNOUNCE (R14): The manager announces tick H at least SYN_TICK_LEAD before its due time and applies its admission and batch decisions for H. -/
  | tickAnnounce
  /-- SEAT_LIMIT_REGROW (R46): After REGROW consecutive clean hands, the manager raises the pipeline's seat limit by one seat. -/
  | seatLimitRegrow (r : Nat)
  /-- HAND_ENTRY (R239): At a tick's due time each face with an ACTIVE program enters vector 0, or vector 1 for a host call, with its entry registers set. -/
  | handEntry (desc : List SlotSeat) (told : List (Nat × Bool × Bool))
  /-- MISSED_TICK (R19): No announcement for hand H is held at its expected due time, so the device does not start the hand. -/
  | missedTick
  /-- MISSED_TICK_ABORT (R19): At the due time of a missed tick plus the hand budget, the device sends abort notices for the hand. -/
  | missedTickAbort
  /-- HAND_BUDGET_WARNING (R25): At E minus MARGIN, a face that has not reached END takes the warning trap. -/
  | handBudgetWarning (f : Nat)
  /-- BUDGET_EXPIRY (R24): At budget expiry E the device decides whether hand H commits or misdeals, and applies the changes scheduled for the boundary. -/
  | budgetExpiry
  /-- PIN_EVALUATION (R129): Every WINDOW hands the face evaluates each layer's escalation rate and may pin it. -/
  | pinEvaluation (f : Nat)
  /-- VECTOR_ISSUE_CHECK (R90): Once a block holds a vector's input, it spalls, clips, tests uniformity, computes masses and chooses the bench. -/
  | vectorIssueCheck (f q v : Nat) (drawn : Bool)
  /-- PHASE_END (R124): A conversion phase ends; if the pass has trouble, it stops and schedules a repeat at a higher bench. -/
  | phaseEnd (f i v : Nat) (errs chk : List (Nat × Int)) (tally : List (Nat × Nat)) (sat : Option Nat)
  /-- BENCH3_START (R121): Bench-3 work takes the fine engine at its next step boundary, pre-empting FINE work, and reads levels back. -/
  | bench3Start (f i : Nat)
  /-- ENGINE_OP_START (R245): An operation leaves its engine queue and the checks made at that point apply. -/
  | engineOpStart (f e : Nat)
  /-- ENGINE_OP_COMPLETE (R286): An engine, mover or serving operation finishes with its writes in place and signals its CTR. -/
  | engineOpComplete (f e : Nat) (share : Option Share) (drawn : List Nat)
  /-- FINE_CHECK_RESULT (R536): The check partner returns the CRC-64 of a sampled fine tile and the issuing face compares it. -/
  | fineCheckResult (f : Nat) (crc : Word)
  /-- NOP (R244): Control instruction with no effect. -/
  | nop (f : Nat) (w : IWord)
  /-- BR (R260): Branch to TARGET. -/
  | br (f : Nat) (w : IWord)
  /-- JAL (R260): Store pc + 1 in RD and branch to TARGET. -/
  | jal (f : Nat) (w : IWord)
  /-- JR (R260): Branch to the address in RA. -/
  | jr (f : Nat) (w : IWord)
  /-- LSET (R261): Set loop counter L to RA + IMM32. -/
  | lset (f : Nat) (w : IWord)
  /-- LBR (R261): Decrement a loop counter and branch if the result is not zero. -/
  | lbr (f : Nat) (w : IWord)
  /-- TWAIT (R262): Stall issue until device time reaches min(RA, E). -/
  | twait (f : Nat) (w : IWord)
  /-- END (R243): End the hand program after every engine operation completes and the balance check passes. -/
  | endProg (f : Nat) (w : IWord)
  /-- RTE (R249): Return from a warning or software handler to TPC, delivering any held trap. -/
  | rte (f : Nat) (w : IWord)
  /-- ADD (R264): Scalar add of two registers. -/
  | add (f : Nat) (w : IWord)
  /-- ADDI (R264): Scalar add of a register and an immediate. -/
  | addi (f : Nat) (w : IWord)
  /-- SUB (R264): Scalar subtract of two registers. -/
  | sub (f : Nat) (w : IWord)
  /-- SUBI (R264): Scalar subtract of an immediate. -/
  | subi (f : Nat) (w : IWord)
  /-- AND (R264): Scalar bitwise AND of two registers. -/
  | and (f : Nat) (w : IWord)
  /-- ANDI (R264): Scalar bitwise AND with an immediate. -/
  | andi (f : Nat) (w : IWord)
  /-- OR (R264): Scalar bitwise OR of two registers. -/
  | or (f : Nat) (w : IWord)
  /-- ORI (R264): Scalar bitwise OR with an immediate. -/
  | ori (f : Nat) (w : IWord)
  /-- XOR (R264): Scalar bitwise XOR of two registers. -/
  | xor (f : Nat) (w : IWord)
  /-- XORI (R264): Scalar bitwise XOR with an immediate. -/
  | xori (f : Nat) (w : IWord)
  /-- SHL (R264): Shift left by a register amount. -/
  | shl (f : Nat) (w : IWord)
  /-- SHLI (R264): Shift left by an immediate amount. -/
  | shli (f : Nat) (w : IWord)
  /-- SHR (R264): Logical shift right by a register amount. -/
  | shr (f : Nat) (w : IWord)
  /-- SHRI (R264): Logical shift right by an immediate amount. -/
  | shri (f : Nat) (w : IWord)
  /-- SRA (R264): Arithmetic shift right by a register amount. -/
  | sra (f : Nat) (w : IWord)
  /-- SRAI (R264): Arithmetic shift right by an immediate amount. -/
  | srai (f : Nat) (w : IWord)
  /-- MUL (R264): Low 64 bits of the product of two registers. -/
  | mul (f : Nat) (w : IWord)
  /-- MULI (R264): Low 64 bits of the product of a register and an immediate. -/
  | muli (f : Nat) (w : IWord)
  /-- MULHU (R264): High 64 bits of the unsigned product of two registers. -/
  | mulhu (f : Nat) (w : IWord)
  /-- MIN (R264): Signed minimum of two registers. -/
  | min (f : Nat) (w : IWord)
  /-- MINI (R264): Signed minimum of a register and an immediate. -/
  | mini (f : Nat) (w : IWord)
  /-- MAX (R264): Signed maximum of two registers. -/
  | max (f : Nat) (w : IWord)
  /-- MAXI (R264): Signed maximum of a register and an immediate. -/
  | maxi (f : Nat) (w : IWord)
  /-- MINU (R264): Unsigned minimum of two registers. -/
  | minu (f : Nat) (w : IWord)
  /-- MINUI (R264): Unsigned minimum of a register and an immediate. -/
  | minui (f : Nat) (w : IWord)
  /-- MAXU (R264): Unsigned maximum of two registers. -/
  | maxu (f : Nat) (w : IWord)
  /-- MAXUI (R264): Unsigned maximum of a register and an immediate. -/
  | maxui (f : Nat) (w : IWord)
  /-- LI (R264): Load a 64-bit immediate from word 1 into RD. -/
  | li (f : Nat) (w : IWord)
  /-- CMPEQ (R264): Set PD to whether two registers are equal. -/
  | cmpeq (f : Nat) (w : IWord)
  /-- CMPEQI (R264): Set PD to whether a register equals an immediate. -/
  | cmpeqi (f : Nat) (w : IWord)
  /-- CMPNE (R264): Set PD to whether two registers differ. -/
  | cmpne (f : Nat) (w : IWord)
  /-- CMPNEI (R264): Set PD to whether a register differs from an immediate. -/
  | cmpnei (f : Nat) (w : IWord)
  /-- CMPLT (R264): Set PD to a signed less-than of two registers. -/
  | cmplt (f : Nat) (w : IWord)
  /-- CMPLTI (R264): Set PD to a signed less-than against an immediate. -/
  | cmplti (f : Nat) (w : IWord)
  /-- CMPLTU (R264): Set PD to an unsigned less-than of two registers. -/
  | cmpltu (f : Nat) (w : IWord)
  /-- CMPLTUI (R264): Set PD to an unsigned less-than against an immediate. -/
  | cmpltui (f : Nat) (w : IWord)
  /-- CMPLE (R264): Set PD to a signed less-or-equal of two registers. -/
  | cmple (f : Nat) (w : IWord)
  /-- CMPLEI (R264): Set PD to a signed less-or-equal against an immediate. -/
  | cmplei (f : Nat) (w : IWord)
  /-- CMPLEU (R264): Set PD to an unsigned less-or-equal of two registers. -/
  | cmpleu (f : Nat) (w : IWord)
  /-- CMPLEUI (R264): Set PD to an unsigned less-or-equal against an immediate. -/
  | cmpleui (f : Nat) (w : IWord)
  /-- PAND (R264): Set PD to PA AND PB. -/
  | pand (f : Nat) (w : IWord)
  /-- POR (R264): Set PD to PA OR PB. -/
  | por (f : Nat) (w : IWord)
  /-- PXOR (R264): Set PD to PA XOR PB. -/
  | pxor (f : Nat) (w : IWord)
  /-- PNOT (R264): Set PD to NOT PA. -/
  | pnot (f : Nat) (w : IWord)
  /-- TBIT (R264): Set PD to a selected bit of RA. -/
  | tbit (f : Nat) (w : IWord)
  /-- RDS (R264): Read a special register such as HN, DT or TINFO into RD. -/
  | rds (f : Nat) (w : IWord)
  /-- LD (R265): Load one aligned 64-bit scratchpad word into RD. -/
  | ld (f : Nat) (w : IWord)
  /-- ST (R265): Store RD to one aligned 64-bit scratchpad word. -/
  | st (f : Nat) (w : IWord)
  /-- RSET (R266): Build a range register from registers and GROUPS. -/
  | rset (f : Nat) (w : IWord)
  /-- RSETI (R266): Load a range register from an immediate image. -/
  | rseti (f : Nat) (w : IWord)
  /-- RSLICE (R266): Build a sub-range of an existing range register. -/
  | rslice (f : Nat) (w : IWord)
  /-- RRD (R266): Read a range register's image into a scalar register. -/
  | rrd (f : Nat) (w : IWord)
  /-- MOVL (R267): Copy a scratchpad range within the face. -/
  | movl (f : Nat) (w : IWord)
  /-- MOVF (R271): Copy a range to the scratchpads of several faces of the device, signalling RCTR per copy. -/
  | movf (f : Nat) (w : IWord)
  /-- HRD (R270): Read HBM into a scratchpad range. -/
  | hrd (f : Nat) (w : IWord)
  /-- HWR (R270): Write a scratchpad range to HBM. -/
  | hwr (f : Nat) (w : IWord)
  /-- HGATHER (R272): Gather indexed HBM rows into scratchpad. -/
  | hgather (f : Nat) (w : IWord)
  /-- STKOUT (R492): Move one cache-page share from HBM to the stockpile by ticket. -/
  | stkout (f : Nat) (w : IWord)
  /-- STKIN (R493): Move one stocked share back into an HBM frame by ticket, with checks. -/
  | stkin (f : Nat) (w : IWord)
  /-- SEND (R274): Send a range as parcels to a remote window over a fabric port. -/
  | send (f : Nat) (w : IWord)
  /-- SIG (R311): Add N to a counter of this face. -/
  | sig (f : Nat) (w : IWord)
  /-- SIGF (R311): Add N to a counter on other faces of the device over the call ring. -/
  | sigf (f : Nat) (w : IWord)
  /-- SIGR (R277): Signal a counter on another device, applied at that device after the hand's commit notice. -/
  | sigr (f : Nat) (w : IWord)
  /-- WAIT (R276): Stall until a counter reaches N, then subtract N. -/
  | wait (f : Nat) (w : IWord)
  /-- DEBIT (R311): Subtract N from a counter of this face. -/
  | debit (f : Nat) (w : IWord)
  /-- PLAY (R319): Play on a die or domain trick. -/
  | play (f : Nat) (w : IWord)
  /-- WAITT (R319): Stall until the round of the face's play on a trick releases. -/
  | waitt (f : Nat) (w : IWord)
  /-- BAL (R276): Run the balance check of END without ending. -/
  | bal (f : Nat) (w : IWord)
  /-- DOORBELL (R278): Record a counter's value for publication to its host mirror at commit. -/
  | doorbell (f : Nat) (w : IWord)
  /-- SLOT (R386): Write the released slot's seat descriptors, tokens and stock tickets into scratchpad. -/
  | slot (f : Nat) (w : IWord)
  /-- PLIST (R385): Write the slot's page lists, allocating frames for pages the appends enter. -/
  | plist (f : Nat) (w : IWord)
  /-- DEAL (R400): Hand a share of logits and its header to the dealer, which draws tokens. -/
  | deal (f : Nat) (w : IWord)
  /-- FENCE (R280): Stall issue until prior operations of the named queues complete. -/
  | fence (f : Nat) (w : IWord)
  /-- TRAP (R281): Take a software trap to vector 32 + N. -/
  | trap (f : Nat) (w : IWord)
  /-- MVM (R289): Matrix-vector multiply of input vector records on a weight set's live copy. -/
  | mvm (f : Nat) (w : IWord)
  /-- APROG (R294): Stream an array record into a block of a granted copy being built and write a status line. -/
  | aprog (f : Nat) (w : IWord)
  /-- AREAD (R298): Read one array's levels or digest line back through the readback path. -/
  | aread (f : Nat) (w : IWord)
  /-- FINE (R301): Digital matrix multiply C = A × B with optional scales and bias. -/
  | fine (f : Nat) (w : IWord)
  /-- SCORE (R304): Attention over a seat's paged cache for the query rows of one key/value head. -/
  | score (f : Nat) (w : IWord)
  /-- APPEND (R171): Quantise and write new key and value rows and the non-committed seal slot. -/
  | append (f : Nat) (w : IWord)
  /-- VOP_ADD (R306): Vector element-wise add. -/
  | vopAdd (f : Nat) (w : IWord)
  /-- VOP_SUB (R306): Vector element-wise subtract. -/
  | vopSub (f : Nat) (w : IWord)
  /-- VOP_MUL (R306): Vector element-wise multiply. -/
  | vopMul (f : Nat) (w : IWord)
  /-- SCALE (R306): Per-channel gain and bias. -/
  | scale (f : Nat) (w : IWord)
  /-- RMSNORM (R191): RMS normalisation of each row. -/
  | rmsnorm (f : Nat) (w : IWord)
  /-- LAYERNORM (R191): Layer normalisation of each row. -/
  | layernorm (f : Nat) (w : IWord)
  /-- SWIGLU (R306): silu(gate) × up. -/
  | swiglu (f : Nat) (w : IWord)
  /-- GEGLU (R306): gelu_tanh(gate) × up. -/
  | geglu (f : Nat) (w : IWord)
  /-- EXP (R189): Element-wise exponential. -/
  | exp (f : Nat) (w : IWord)
  /-- RECIP (R189): Element-wise reciprocal. -/
  | recip (f : Nat) (w : IWord)
  /-- RSQRT (R189): Element-wise reciprocal square root. -/
  | rsqrt (f : Nat) (w : IWord)
  /-- SIGMOID (R189): Element-wise sigmoid. -/
  | sigmoid (f : Nat) (w : IWord)
  /-- REDUCE (R306): Per-row sum, maximum or minimum. -/
  | reduce (f : Nat) (w : IWord)
  /-- CONVERT (R306): Convert elements between accepted formats. -/
  | convert (f : Nat) (w : IWord)
  /-- QUANT (R192): Quantise BF16 rows into vector records for the arrays. -/
  | quant (f : Nat) (w : IWord)
  /-- DEQUANT (R306): Convert INT8 or vector records to BF16. -/
  | dequant (f : Nat) (w : IWord)
  /-- TOPK (R193): The k largest values of each row with indices, with optional softmax. -/
  | topk (f : Nat) (w : IWord)
  /-- STATS (R190): Accumulate per-channel sums, squares, minima and maxima. -/
  | stats (f : Nat) (w : IWord)
  /-- SDRAIN (R307): Write out and clear the STATS channel registers. -/
  | sdrain (f : Nat) (w : IWord)
  /-- PLOAD (R308): Load per-channel parameters into the parameter buffer. -/
  | pload (f : Nat) (w : IWord)
  /-- PROGRAM_LOAD (R227): FCE_PROG_CTL.LOAD starts transferring a program into the program store. -/
  | programLoad (f : Nat)
  /-- PROGRAM_LOAD_DONE (R232): The program transfer completes and the load checks make it READY or refuse it. -/
  | programLoadDone (f : Nat) (words : List Word) (uncorr pcieErr : Bool)
  /-- PROGRAM_ACTIVATE (R225): Request that a READY program become ACTIVE at the next boundary. -/
  | programActivate (f : Nat)
  /-- PROGRAM_HOLD (R225): Request that an ACTIVE program return to READY at the next boundary. -/
  | programHold (f : Nat)
  /-- PROGRAM_UNLOAD (R225): Return a READY program to EMPTY. -/
  | programUnload (f : Nat)
  /-- HOST_CALL (R241): FCE_HOST_CALL.REQ posts a host call that runs at vector 1 in the next hand. -/
  | hostCall (f : Nat)
  /-- SYN_CTR_SIG (R314): A host write adds to or subtracts from a counter, at once or at the next boundary. -/
  | synCtrSig (f k : Nat) (sub : Bool) (amount fn : Nat)
  /-- WINDOW_OPEN (R324): SYN_WIN_CFG.OPEN requests a window open at the next boundary, subject to the refusals. -/
  | windowOpen (f w : Nat)
  /-- WINDOW_CLOSE (R330): SYN_WIN_CFG.CLOSE makes the window CLOSING until no uncommitted hand holds a released slot. -/
  | windowClose (f w : Nat)
  /-- TRICK_CFG (R318): A write of SYN_TRICK_CFG creates or changes a die trick from the next boundary. -/
  | trickCfg (i parties home : Nat)
  /-- DTRICK_CFG (R318): A write of SYN_DTRICK_CFG on the manager creates or changes a domain trick. -/
  | dtrickCfg (i parties : Nat)
  /-- WIMG_OPEN (R338): Open a Wynor image from host memory and run its open checks. -/
  | wimgOpen (o : ImgOpen)
  /-- WIMG_DISCARD (R342): Free the staging region of the open image. -/
  | wimgDiscard
  /-- SECTION_STAGED (R342): A section's last byte arrives and its SHA-384 is checked; the image becomes STAGED when all are. -/
  | sectionStaged (i : Nat) (words : List Word) (data : SecData)
  /-- PUT (R343): PLT_PUT_CTL.START starts copying host bytes into the weight region. -/
  | put
  /-- PUT_DONE (R343): A put finishes writing, sets DONE and signals PF1 vector 5. -/
  | putDone (words : List Word)
  /-- BUILD (R347): PLT_BUILD_CTL.START builds a copy of a group from the staged sections. -/
  | build
  /-- WRITE_VERIFY_DONE (R345): Write-verify of one array ends; its digest is checked and a copy may become READY. -/
  | writeVerifyDone (f b a : Nat) (ok_ : Bool) (cells : List (Nat × Nat))
  /-- CUT_REQ (R353): PLT_CUT_CTL.REQ schedules a cut of a group after PLT_CUT_HAND. -/
  | cutReq
  /-- BACKGROUND_READ (R349): The background reader reads an array back, records its current digest and margin count. -/
  | backgroundRead (f b a : Nat) (cells : List (Nat × Nat)) (drift : List Nat)
  /-- TALLY_SNAPSHOT (R362): Every INTERVAL hands the device snapshots its layer digests and sends TALLY messages. -/
  | tallySnapshot
  /-- RESTORE (R604): PLT_BOOT_CTL.RESTORE rebuilds the resident parts and fine blocks of live copies from the staged image. -/
  | restore
  /-- RESTORE_DONE (R604): A RESTORE completes and sets DONE. -/
  | restoreDone
  /-- SQ_DOORBELL (R590): A write of a ring's submission tail submits entries. -/
  | sqDoorbell (r v : Nat)
  /-- CQ_DOORBELL (R590): A write of a ring's completion head returns completion space. -/
  | cqDoorbell (r v : Nat)
  /-- ANTE (R367): The front reads an ANTE entry, copies and seals its prompt and lists, and forwards it to the manager. -/
  | ante (r : Nat) (e copy : Entry)
  /-- FOLD (R393): The front reads a FOLD entry and the manager acts on it at the next boundary. -/
  | fold (r : Nat) (e : Entry)
  /-- SRV_MODE (R379): A write of SRV_MODE changes the serving mode at the next boundary, subject to refusal. -/
  | srvMode (m : Nat)
  /-- PFX_INSTALL (R387): SRV_PFX_CTL.INSTALL reads a prefix set into free frames. -/
  | pfxInstall
  /-- PREFIX_INSTALLED (R387): The prefix set's pages are read and it becomes INSTALLED at the next boundary. -/
  | prefixInstalled (p : Nat) (shares : List (List Word × List Word))
  /-- PFX_REMOVE (R388): SRV_PFX_CTL.REMOVE makes a prefix set REMOVING until its references reach zero. -/
  | pfxRemove
  /-- TTL_EXPIRY (R391): A stocked seat's time to live expires and it is freed with an EXPIRED record. -/
  | ttlExpiry (i : Nat)
  /-- DEADLINE (R395): A seat's or ante's deadline passes at E and it ends with LATE. -/
  | deadline (held : Bool) (i : Nat)
  /-- GRAMMAR_LOAD (R410): DLR_GRAM_CTL.LOAD reads an automaton into a grammar slot. -/
  | grammarLoad
  /-- GRAMMAR_LOAD_DONE (R410): The automaton is read and checked, and becomes RESIDENT or is refused. -/
  | grammarLoadDone (g : Nat) (states trans : List Word)
  /-- GRAMMAR_UNLOAD (R410): DLR_GRAM_CTL.UNLOAD makes a resident slot UNLOADING. -/
  | grammarUnload
  /-- MESH_PACKET (R56): A haul-mesh packet is routed column first, checked and delivered. -/
  | meshPacket (i : Option Nat) (p : MPacket) (stop : Option Nat) (stalls : List (Nat × Nat)) (words : List (Nat × Nat × Nat))
      (op : Option (Nat × Nat × Nat × Nat))
  /-- CALL_RING_MESSAGE (R66): A call-ring message is carried and delivered at its stop. -/
  | callRingMessage (i : Option Nat) (m : RingMsg) (waits : List (Nat × Nat)) (fixed : List Nat) (bad : Option Nat)
  /-- FLIT (R428): A flit is received and checked, acknowledged or replayed. -/
  | flit (p : Nat) (ws : List Word) (replay : Bool)
  /-- DATA_PARCEL (R326): A DATA parcel is received and checked into a window slot or refused. -/
  | dataParcel (port : Nat) (p : Parcel)
  /-- SIGR_PARCEL (R624): A SIGR parcel is received, checked and held with its hand. -/
  | sigrParcel (port : Nat) (p : Parcel)
  /-- LOAD_PARCEL (R340): A load parcel is forwarded or written into the staging region. -/
  | loadParcel (port : Nat) (p : Parcel) (open_ : Option ImgOpen)
  /-- TICK (R16): A TICK message is received, relayed on the tree and passed to every face. -/
  | tick (port hand due period : Nat)
  /-- COMMIT (R328): A commit notice makes the named window slots ready and applies held SIGRs. -/
  | commit (port dst src hand : Nat) (wins : List WinEntry) (more : Bool)
  /-- ABORT (R29): An abort notice drops the slot and SIGRs of the named hand. -/
  | abort (port dst src hand : Nat)
  /-- ANSWER (R433): A parcel answer reaches the sender, completing or flagging its SEND. -/
  | answer (port dst src result seq count : Nat)
  /-- TOKENS (R370): A token notice reaches the front, which writes TOKENS records. -/
  | tokens (port dst src hand handle pos : Nat) (toks drafts : List Nat) (code flags stampHi : Nat)
  /-- TRIM (R416): A trim notice lowers a seat's committed length at the next boundary. -/
  | trim (port dst src hand handle count : Nat)
  /-- REPORT (R459): The manager receives a hand report with outcome, slack, port widths and backlogs. -/
  | report (port dst src outcome hand slack widths rates backlog : Nat)
  /-- MISSED (R456): The standby receives a missed-tick message from a worker. -/
  | missed (port dst src lastHand : Nat)
  /-- TALLY (R363): The manager receives layer digests and compares replicas, possibly expelling one. -/
  | tally (port dst src layer hand version : Nat) (digest expected : List Word)
  /-- RELEASE (R319): A domain trick's release reaches the playing devices; `refused`: the manager refuses the play (R320, R623 ORIGIN 6). -/
  | release (port : Nat) (tree : Bool) (dst src trick hand : Nat) (refused : Bool)
  /-- TIME (R442): A TIME message is received and device time is steered towards the parent. -/
  | time (port step t1 t2 t3 t4 : Nat)
  /-- TIME_EXCHANGE (R442): Every 100 µs the device starts a TIME exchange with its tree parent. -/
  | timeExchange
  /-- TIME_SYNC_LOST (R442): No TIME from the parent for 2 ms, so device time is marked unsynchronised. -/
  | timeSyncLost
  /-- IDENT (R422): An IDENT message is exchanged during training. -/
  | ident (p peerPort peerDev lanes : Nat)
  /-- LANE (R425): A LANE message agrees a remap of a port's lanes. -/
  | lane (p proposal hand width spared : Nat) (hard : Bool)
  /-- LANE_FAIL (R424): A lane loses FEC lock or shows uncorrectable codewords and is failed. -/
  | laneFail (p i : Nat)
  /-- LANE_ERROR_WINDOW (R424): A 1 ms lane window closes and its corrected-symbol count is judged. -/
  | laneErrorWindow (p i corrected uncorr : Nat)
  /-- HOLDOFF_EXPIRY (R422): HOLDOFF after a loss of link expires and the port trains. -/
  | holdoffExpiry (p : Nat)
  /-- PORT_RETRAIN (R422): LNK_PORT_CTL.RETRAIN retrains the port. -/
  | portRetrain (p : Nat)
  /-- BYPASS_CLOSE (R443): LNK_BYP_CTL.CLOSE closes the bypass at once. -/
  | bypassClose
  /-- BYPASS_OPEN (R444): LNK_BYP_CTL.OPEN opens the bypass at once or schedules it for a hand. -/
  | bypassOpen
  /-- CLAIM (R457): A CLAIM of a higher term makes the device obey the new manager. -/
  | claim (port term tree first claimant : Nat)
  /-- ROSTER (R454): A ROSTER message records manager, standby and term. -/
  | roster (port term manager standby : Nat) (valid : Bool) (tree : Nat)
  /-- ROSTER_PUBLISH (R454): At least every 4,096 hands the manager publishes the roster. -/
  | rosterPublish
  /-- MIRROR (R455): The standby receives a changed record of the manager's state. -/
  | mirror (port dst src term kind i : Nat) (w : Word) (e : Entry) (hand : Nat)
  /-- MIRROR_ACK (R455): The manager receives the standby's acknowledgement of mirrored changes. -/
  | mirrorAck (port dst src term hand : Nat)
  /-- MIRROR_ACK_TIMEOUT (R455): No MIRROR_ACK by the due time less the lead: the manager drops the standby. -/
  | mirrorAckTimeout
  /-- TAKEOVER (R456): The standby, after three missed ticks and a majority of MISSED, becomes manager. -/
  | takeover
  /-- STATE (R468): The manager receives a device's state report. -/
  | state (port dst src term hand version flags : Nat)
  /-- HOLD (R460): A HOLD message holds or lifts a device's replica. -/
  | hold (port term r : Nat) (on : Bool) (first : Nat)
  /-- REPLICA (R463): A REPLICA message gives a device its replica's new state. -/
  | replica (port term r st first : Nat)
  /-- REPLICA_HOLD (R459): A stage unavailable for HOLD_HANDS hands makes the manager hold the replica. -/
  | replicaHold (r : Nat)
  /-- HOLD_LIFT (R461): Every stage reports commit for HOLD_HANDS hands and the hold is lifted. -/
  | holdLift (r : Nat)
  /-- REPLICA_DOWN (R463): A stage unavailable for FAIL_HANDS hands makes the replica DOWN and its seats are carried. -/
  | replicaDown (r : Nat)
  /-- JOIN (R468): SYN_JOIN_CTL.REQ joins a replica after the manager's checks. -/
  | join
  /-- REPLICA_RETIRE (R469): SYN_RETIRE_CTL.REQ stops admission to a replica and finishes or carries its seats. -/
  | replicaRetire
  /-- SP_PATROL (R221): The scratchpad patrol scrub reads and corrects a line. -/
  | spPatrol (f line : Nat) (flips : List (Nat × Nat)) (last : Bool)
  /-- HBM_PATROL (R484): The HBM patrol scrub reads and corrects a row segment. -/
  | hbmPatrol (p seg : Nat) (flips metas : List (Nat × Nat)) (last : Bool)
  /-- ROTATE (R485): KEY_ROT_CTL.ROTATE requests a key rotation at the next boundary. -/
  | rotate
  /-- SWEEP_SEGMENT (R486): The key sweep locks, re-encrypts and writes back one row segment. -/
  | sweepSegment (p wait : Nat) (share : Option (Nat × Nat × Nat × Share))
  /-- SESSION_OPEN (R497): KEY_SESSION_CTL.OPEN opens a tenant session and generates its key set. -/
  | sessionOpen
  /-- SESSION_RELEASE (R499): KEY_SESSION_CTL.RELEASE requests a release at a boundary. -/
  | sessionRelease
  /-- RELEASE_SCRUB_DONE (R504): The HBM scrub ends; written bits clear, resident regions are restored and the state becomes CLEAN. -/
  | releaseScrubDone (failed : List (Nat × Nat))
  /-- MGMT_HANDSHAKE (R511): A TLS 1.3 handshake on the management transport is accepted or failed. -/
  | mgmtHandshake (i : Nat) (client : Option Nat) (proto : Bool)
  /-- MGMT_RETRANSMIT (R510): An unacknowledged management datagram is repeated after 50 ms, or the session dropped. -/
  | mgmtRetransmit (i : Nat)
  /-- MGMT_IDLE_TIMEOUT (R510): A management session idle for 300 s is closed. -/
  | mgmtIdleTimeout (i : Nat)
  /-- READ_REG (R513): Management read of a register. -/
  | readReg (i acks off : Nat)
  /-- WRITE_REG (R513): Management write of a field marked writable through management. -/
  | writeReg (i acks off : Nat) (v : Word)
  /-- READ_LOG (R513): Management read of fault records and history. -/
  | readLog (i acks what n : Nat)
  /-- ENROLL_OP (R512): Fill a free operator credential slot. -/
  | enrollOp (i acks cred : Nat)
  /-- REVOKE_OP (R512): Empty an operator credential slot. -/
  | revokeOp (i acks cred : Nat)
  /-- ENROLL_IMGKEY (R513): Enrol an image key by KEY_ID. -/
  | enrollImgkey (i acks key x y : Nat)
  /-- REVOKE_IMGKEY (R513): Revoke an image key. -/
  | revokeImgkey (i acks key : Nat)
  /-- SET_FLOOR (R513): Raise the image version floor. -/
  | setFloor (i acks v : Nat)
  /-- MGMT_RELEASE (R499): Management request for a session release. -/
  | mgmtRelease (i acks : Nat)
  /-- DEPLOY (R507): Move the lifecycle from open to deployed. -/
  | deploy (i acks : Nat)
  /-- RETIRE (R507): Move the lifecycle to retired after a release. -/
  | retire (i acks : Nat)
  /-- FIRMWARE (R599): Write a signed firmware image to the slot not running. -/
  | firmware (i acks version : Nat) (image : List Word) (key sig : Nat × Nat)
  /-- PROBE_DECK (R560): Load a signed probe deck into the probe stores. -/
  | probeDeck (i acks : Nat) (deck : List Word)
  /-- INJECT (R558): Write an injection slot over the management network. -/
  | inject (i acks n : Nat) (ctl unit : Word)
  /-- GET_VERSION (R514): SPDM GET_VERSION request. -/
  | getVersion (via acks : Nat)
  /-- GET_CAPABILITIES (R514): SPDM GET_CAPABILITIES request. -/
  | getCapabilities (via acks : Nat)
  /-- NEGOTIATE_ALGORITHMS (R514): SPDM NEGOTIATE_ALGORITHMS request. -/
  | negotiateAlgorithms (via acks : Nat) (offered : Bool)
  /-- GET_DIGESTS (R514): SPDM GET_DIGESTS request. -/
  | getDigests (via acks : Nat)
  /-- GET_CERTIFICATE (R514): SPDM GET_CERTIFICATE request. -/
  | getCertificate (via acks offset len : Nat)
  /-- CHALLENGE (R514): SPDM CHALLENGE request signed with the identity key. -/
  | challenge (via acks : Nat) (nonce : List Nat)
  /-- GET_MEASUREMENTS (R514): SPDM GET_MEASUREMENTS request, measured at request time. -/
  | getMeasurements (via acks index : Nat) (nonce : List Nat) (sign : Bool)
  /-- DBG_READ (R516): A write of PLT_DBG_CTL reads one scratchpad line in the open state. -/
  | dbgRead (f addr : Nat)
  /-- CAL_REQ (R518): A write of CAL_REQ.REQ requests a block or lane calibration. -/
  | calReq (f b : Nat) (all : Bool) (port : Nat) (lanes : Bool)
  /-- CAL_AGE (R518): MAX_AGE since a block's last PASS expires and a calibration is requested. -/
  | calAge (f b : Nat) (port : Option Nat)
  /-- CAL_RETRY (R518): RETRY seconds after a FAIL expire and a calibration is requested. -/
  | calRetry (f b : Nat)
  /-- GATHER_CLOSE (R520): Enough converters have delivered 2^GATHER codes and the gathering window closes. -/
  | gatherClose (f b : Nat)
  /-- GATHER_TIMEOUT (R520): MAX_WAIT expires without the window closing; the outcome is IDLE. -/
  | gatherTimeout (f b : Nat)
  /-- CAL_FIT_DONE (R523): The fitter finishes and the block's calibration passes or fails. -/
  | calFitDone (f b : Nat) (port : Option (Nat × List (Nat × Nat)))
  /-- MONITOR_WINDOW_CLOSE (R530): A monitor window of 32,768 conversions closes and columns are tested and flagged. -/
  | monitorWindowClose (f b a bench : Nat) (late : Bool)
  /-- TOUR_START (R534): Every PERIOD hours the platform controller starts a tour in each block. -/
  | tourStart
  /-- DWELL_FIT (R533): After 1,024 sampled passes, the check array's converters are fitted. -/
  | dwellFit (f b : Nat) (bad : Option Nat)
  /-- DWELL_END (R534): The dwell expires and the slot is remapped to the check array. -/
  | dwellEnd (f b : Nat)
  /-- FAULT_RECORD_PROCESS (R542): The platform controller takes a queued fault record, updates history, schedules actions and logs it. -/
  | faultRecordProcess (powered : Nat) (queueOk histOk logOk hostOk : Bool)
  /-- HIST_CLEAR (R557): FLT_HIST_CLEAR.CLEAR removes one unit's history entry. -/
  | histClear (unit : Nat) (mgmt : Bool)
  /-- HIST_CLEAR_ALL (R557): FLT_HIST_CLEAR.ALL removes every entry and empties the non-volatile store. -/
  | histClearAll (mgmt : Bool)
  /-- HIST_QUERY (R553): A write of FLT_HIST_QUERY.UNIT loads that unit's history fields. -/
  | histQuery (unit : Nat)
  /-- LOG_READ (R546): A write of FLT_LOG_READ copies a log-ring slot into FLT_LOG_DATA. -/
  | logRead (slot : Nat)
  /-- INJ_ARM (R558): A write of an injection slot arms it from the next boundary. -/
  | injArm (i : Nat) (ctl unit : Word) (path : Nat)
  /-- PROBE_STEP (R561): After END in a qualifying hand, a face runs the next probe step and checks it. -/
  | probeStep (f end_ : Nat) (left : List (Nat × List Word))
  /-- PWR_DOM_REQ (R566): A write of PWR_DOM_REQ requests domain state changes at the next boundary. -/
  | pwrDomReq (w : Word) (mgmt : Bool)
  /-- DOMAIN_CHANGE_DONE (R566): A domain finishes turning on or off, and the next change of the boundary starts. -/
  | domainChangeDone (rate width : Nat) (flit : Bool)
  /-- HOUSEKEEPING_ROUND (R581): A housekeeping round runs; the governor, thermal controller and rail checks act on its results. -/
  | housekeepingRound (took : Nat) (codes : List (Nat × Bool)) (vals : List (Nat × Int)) (silent ports : List Nat)
  /-- SELFCAL (R582): HKC_CTL.SELFCAL starts a 40 ms self-calibration of the housekeeping converter. -/
  | selfcal
  /-- SELFCAL_DONE (R582): Self-calibration completes and stores its factors. -/
  | selfcalDone (factors : List (Nat × Nat))
  /-- REF_READY (R582): REF_EN has been 1 for 5 ms and the reference is ready. -/
  | refReady
  /-- REGISTER_WRITE (R13): A host write to a register with no row of its own, with width and function checks. -/
  | registerWrite (fn off width : Nat) (v : Word)
  /-- PORT_TRAINING_STEP_END (R422): A step of port training (PMD training at a rate, FEC lock, deskew) completes or exceeds its bound, leading to the next step, a retry at 100 Gbit/s, or FAILED. -/
  | portTrainingStepEnd (p ok skew : Nat)
  /-- PERST_RELEASE (R600): PERST_N rises, PCIe training starts and configuration becomes ready within the stated bound, followed by a Device Readiness Status message. -/
  | perstRelease (rate width : Nat) (flit : Bool)
  /-- BYP_FORCE_RELEASE (R444): BYP_FORCE_N returns high, so FORCE clears and a later or scheduled bypass open can take effect. -/
  | bypForceRelease
  /-- TWAIT_EXPIRY (R262): Device time reaches min(RA, E) for a stalled TWAIT and issue resumes. -/
  | twaitExpiry (f : Nat)
  /-- DOMAIN_TRICK_PLAY (R322): A control-lane PLAY message reaches the manager, is counted for its hand number, and may release the round or be released alone. -/
  | domainTrickPlay (src trick hand : Nat)
  /-- FORWARDED_ANTE (R367): An ANTE or FOLD forwarded by a front that is not the manager reaches the manager and enters its held queue or fold handling. -/
  | forwardedAnte (src r : Nat) (fold : Bool) (e copy : Entry) (vocab ttl : Nat)
  /-- SEAT_RECORD_LOAD (R402): A seat record sent by the front arrives at the dealer's device, its seal is checked and it is acknowledged, allowing the manager to form the seat's last-chunk slot. -/
  | seatRecordLoad (r copy : SeatRec)
  /-- DEALER_ROWS_DRAWN (R417): The dealer finishes drawing the rows of a slot's shares, within 160 fc of the last logit or range, so the hand's dealing is complete. -/
  | dealerRowsDrawn
  /-- BENCH3_DONE (R121): A bench-3 run ends and adds its exact product to the wide accumulator, resolving the pass or recording bench-3 trouble. -/
  | bench3Done (f i : Nat) (bad : List (Nat × Nat)) (sat : Option Nat)
  /-- VPROG_LOSS (R617): VPROG is lost while write-verifies run, cutting them short and leaving their arrays in WRITING. -/
  | vprogLoss
  /-- THERMAL_COOL (R576): Every comparator falls below 105 °C, so a cold reset held back after a thermal trip can complete. -/
  | thermalCool (b : Boot)
  deriving DecidableEq, Repr

end Sys2Proof
end

