-- ==== Sys2Proof/Decode.lean ====
section
/-! DEFINITION. Commands that a word spells.  No row of spec/opcode_table.json gives bits (the commands are named, not encoded), so no
word spells one.  The words of an Ifeom instruction are taken apart here (R255) and decoded where they are issued (Machine/Operands.lean,
`Form.decodes`, R256, R257). -/
namespace Sys2Proof

/-- An instruction's words as the program store holds them, by the layout of R255; words beyond LEN are no part of it. -/
def IWord.ofStore (w0 w1 w2 w3 : Word) : IWord :=
  let len := (w0.extractLsb' 46 2).toNat
  { cls := (w0.extractLsb' 58 6).toNat, op := (w0.extractLsb' 48 10).toNat, len := len, pneg := w0.getLsbD 45
    pred := (w0.extractLsb' 42 3).toNat, ops := w0.extractLsb' 0 42
    w1 := if 1 ≤ len then w1 else 0#64, w2 := if 2 ≤ len then w2 else 0#64, w3 := if 3 ≤ len then w3 else 0#64 }

/-- The command that the low `nbits` bits of `w` spell by the table's bits: the table gives none. -/
def decodeTableWord (_nbits _w : Nat) : Option Instr := none

end Sys2Proof
end

