-- ==== Sys2Proof/Config.lean ====
section
/-! DEFINITION. What an implementation fixes, and the FREE VALUES: constants without a body, which nothing in Lean
can evaluate, standing for the values that the spec leaves open (log entries 3 and 4). -/
namespace Sys2Proof.Config

/-- A fresh value nobody chose: the n-th draw of whatever the spec leaves open without a bound on its choice.
The step reads the counter `freeCount` of the state and advances it (log entry 3). -/
opaque freeValue : Nat → Nat

/-- Which of the results that an error bound allows a unit returns: function code, first and second operand bits (R180, R189,
R191, R405).  A function of the operands, since equal operands give equal bits on every face (R143); the model takes it
modulo the number of allowed results (log entry 4). -/
opaque ulpChoice : Nat → Nat → Nat → Nat

/-- VCORE target in mV that the fuses give for the highest clock among the good faces, by that face's level (R570; log entry 17). -/
opaque vcoreMv : Nat → Nat

/-- Nominal voltage of the stack supply in mV, by which R571 multiplies a stack's current (log entry 17). -/
opaque stackMv : Nat

/-- The certificate chain that the SPI NOR holds, as bytes, and the SHA-384 of the boot ROM (R511, R514; log entry 18). -/
opaque certChain : List Nat
opaque romDigest : List Nat

/-- The SHA-384 of Gorsitha's firmware key that the boot ROM holds (R599; log entry 18). -/
opaque firmwareKey : List Word

/-- The identity key's signature over a message, the n-th one made (R514; log entry 18). -/
opaque signature : Nat → List Nat → List Nat

/-- The 256-bit keys that the key unit generated: cold resets before the set, its epoch plus one or 0 for the platform set, and which key, K1, K2
or KT (R478; log entry 7).  The model takes them modulo 2^256. -/
opaque keyBits : Nat → Nat → Nat → Nat

/-- The stockpile compressor's form of a share, and the share that a form stands for: the spec gives neither (R492, R493; log entry 7). -/
opaque compress : List Word → List Word
opaque expand : List Word → List Word

/-- Half widths of the ranges of a converter's trims (R521): 0 a tap, 1 the offset, in 1/256 code, 2 the gain, in 1/65,536 (log entry 77). -/
opaque trimRange : Nat → Nat

end Sys2Proof.Config
end

