-- ==== Sys2Proof/Machine/Map.lean ====
section
/-! DEFINITION. Reading and writing a sparse map (`SMap`): the one form in which this model holds everything indexed
by a number (registers, scratchpad words, HBM words, counters, windows, seats ...).  A map is kept in ONE canonical
form: keys strictly rising and no entry equal to what an unlisted key reads as, so that equal contents are equal data. -/
namespace Sys2Proof.Machine

/-- The value at key `k`; an unlisted key reads as `d`. -/
def mget {α : Type} (d : α) : SMap α → Nat → α
  | [], _ => d
  | (a, v) :: m, k => if k = a then v else mget d m k

/-- Write `v` at key `k`, keeping the keys rising; writing the default removes the entry (and any other of that key, where a map is not
in canonical form). -/
def mset {α : Type} [DecidableEq α] (d : α) : SMap α → Nat → α → SMap α
  | [], k, v => if v = d then [] else [(k, v)]
  | (a, w) :: m, k, v =>
    if k < a then (if v = d then (a, w) :: mset d m k v else (k, v) :: (a, w) :: m)
    else if k = a then (if v = d then mset d m k v else (k, v) :: m)
    else (a, w) :: mset d m k v

/-- Drop every entry whose key satisfies `q`: those keys read as the default again. -/
def mdrop {α : Type} (q : Nat → Bool) (m : SMap α) : SMap α := m.filter (fun e => !q e.1)

/-- Canonical form: keys strictly rising, and no listed value equals the default of its key. -/
def mwf {α : Type} [DecidableEq α] (d : Nat → α) (m : SMap α) : Bool :=
  m.all (fun e => decide (e.2 ≠ d e.1)) && decide (List.Pairwise (fun x y => x.1 < y.1) m)

end Sys2Proof.Machine
end

