-- ==== Sys2Proof/Machine/State.lean ====
section
/-! DEFINITION. The state of one Veseryn device, as plain data: every register (in `regs`, by Machine/Regs.lean), and
beside them whatever the spec names that no register shows.  Anything indexed by a number is a sparse map in canonical
form (Machine/Map.lean), so a device right after reset lists almost nothing. -/
namespace Sys2Proof.Machine

/-- Why the block stops with a fault.  Raised by no command of this model: every effect the spec names, refusals and traps
included, is a next state.  Kept as a closed type because the host's interface asks for one; safe. -/
inductive Fault where
  /-- An access the spec calls impossible; raised by nothing at present; safe (the block stops). -/
  | noSuchPlace
  deriving DecidableEq, Repr

/-- Why the block refuses a command. -/
inductive Refusal where
  /-- The command has no meaning in the model yet; raised only by Machine/Dispatch.lean; safe (the block stops). -/
  | notModelled (mnemonic : String)
  deriving DecidableEq, Repr

/-- One 64-bit scratchpad or HBM word: its data, its poison bit, and the mask of the positions of the stored codeword that
have flipped (R219, R476; 0: none). -/
structure PWord where
  data : Word := 0#64
  poison : Bool := false
  flips : Nat := 0
  /-- uncorrectable, and the patrol scrub has reported it (R221, R484) -/
  seen : Bool := false
  deriving DecidableEq, Repr

/-- A counter of a face (R229, R310, R316): value, ceiling, whether the active program declares it and has it checked,
ERR, the value at hand entry, the value last mirrored, and the DOORBELL record of this hand. -/
structure Ctr where
  value : Nat := 0
  ceil : Nat := 0
  declared : Bool := false
  check : Bool := false
  err : Bool := false
  entry : Nat := 0
  mirrored : Nat := 0
  bell : Option Nat := none
  deriving DecidableEq, Repr

/-- A trick handle (R230, R319): listed by the program, scope (true: domain), trick number, the hand number of the
face's unreleased play, whether the face has played on it in this hand, and the address of its last PLAY. -/
structure Handle where
  listed : Bool := false
  domain : Bool := false
  trick : Nat := 0
  play : Option Nat := none
  played : Bool := false
  pc : Nat := 0
  deriving DecidableEq, Repr

/-- What holds up issue on a face (R262, R276, R319, R280, R23). -/
inductive Stall where
  | twait (until_ : Nat)
  | wait (k n : Nat)
  | waitt (t : Nat)
  | fence (mask : Nat)
  | ending
  deriving DecidableEq, Repr

/-- What the sequencer of a face is doing: no hand, issuing, stalled, END retired, or stopped by a double fault. -/
inductive Run where
  | off
  | issuing
  | stalled (why : Stall)
  | ended
  deriving DecidableEq, Repr

/-- Which kind of handler runs (R250). -/
inductive Handler where
  | none
  | warning
  | software
  | fault
  deriving DecidableEq, Repr

/-- The queues of a face (R244), in the bit order of FENCE's MASK (R280). -/
inductive Eng where
  | array
  | fine
  | score
  | vector
  | mover
  | serving
  deriving DecidableEq, Repr

/-- An operation in an engine queue, or started: the instruction words, the ranges and scalar operands as they
stood at its issue (R266), and the weight-set map as it stood at its issue (R107). -/
structure QOp where
  id : Nat
  eng : Eng
  cls : Nat
  op : Nat
  pc : Nat
  w0 : Word
  w1 : Word
  w2 : Word
  w3 : Word
  /-- images of the range registers AL, AR, and the third and fourth ranges -/
  al : Word
  ar : Word
  ra3 : Word
  ra4 : Word
  /-- the scalar operand (RA of HRD, HWR, HGATHER; the ticket of STKOUT and STKIN) -/
  sc : Word
  hand : Nat
  /-- ARF_WSMAP_LO, ARF_WSMAP_HI and ARF_SPALL of the copy at issue -/
  mapLo : Word
  mapHi : Word
  spall : Word
  /-- MVM: the physical arrays of its tile, the pin of its layer and the blocks with an array pinned to bench 3, at issue (R107, R109, R136) -/
  arrs : List Nat
  pin : Nat
  pin3 : List Nat
  /-- results and signals are discarded (R41) -/
  discard : Bool
  /-- SEND: first sequence number, parcels not yet answered, a NACK was received -/
  seq0 : Nat
  left : Nat
  nacked : Bool
  /-- words of the operation that a router found uncorrectable on the way (R72): of a move, its face or MOVF's destination and the word of the
  operation; of a SCORE the page-list entry, of an APPEND the new token, and the word -/
  bad : List (Nat × Nat)
  deriving DecidableEq, Repr

/-- A packet in the buffer of a router input (R55): the place on its route where it waits, the words poisoned on the way so far. -/
structure MWait where
  pkt : MPacket
  place : Nat
  bad : List Nat
  deriving DecidableEq, Repr

/-- Call-ring messages in flight between faces of this device (R37, R68, R319): a SIGF's signal, a PLAY to its home, the release
of a round to one face. -/
inductive RMsg where
  | sig (src dst k amount : Nat)
  | play (src home trick : Nat)
  | release (src dst trick : Nat)
  deriving DecidableEq, Repr

/-- Plays on a domain trick, by hand number on its manager (R322): the devices that played, and the hand numbers whose round
has released. -/
structure DTrick where
  counts : SMap (List Nat) := []
  released : List Nat := []
  deriving DecidableEq, Repr

/-- A scoreboard entry (R200): the operation, whether the range is written, and the lines it covers. -/
structure SbEntry where
  op : Nat
  write : Bool
  lo : Nat
  hi : Nat
  deriving DecidableEq, Repr

/-- A granule of HBM (R473, R480 to R483): its words as plaintext, and what its metadata and tag say: PRESENT, POISON, whether
it is under the platform set, the cold resets before its key set was made and that set's full epoch, and whether anything but
the controller has altered the stored tag or ciphertext.  The ciphertext and the tag themselves are Gran.cipher and Gran.tag. -/
structure Gran where
  words : SMap PWord := []
  present : Bool := false
  poison : Bool := false
  plat : Bool := false
  gen : Nat := 0
  epoch : Nat := 0
  tagBad : Bool := false
  deriving DecidableEq, Repr

/-- STATS registers of a channel (R190): FP32 bits of the sum, the sum of squares, the minimum and the maximum, the rows, and
whether a poisoned word went in (R220). -/
structure StatCh where
  sum : BitVec 32 := 0#32
  sq : BitVec 32 := 0#32
  lo : BitVec 32 := 0#32
  hi : BitVec 32 := 0#32
  rows : Nat := 0
  poison : Bool := false
  deriving DecidableEq, Repr

/-- State of a pass (R124 to R127). -/
inductive PassSt where
  /-- running: the number of phases already done -/
  | running (phase : Nat)
  /-- waiting for a bench-3 run (false), or in one (true) -/
  | bench3 (taken : Bool)
  | done
  | unresolved
  deriving DecidableEq, Repr

/-- A pass: one vector of one MVM in one block (R110 to R127, R155 to R161): its block's place in the tile, its bench and floor; the
applied values of each depth's used rows, which depths are uniform (R92), benches 0 to 2 found admissible (R96); exact and
promoted analogue contributions, and the narrow adders with the entries they hold, by column (R110 to R113); codes of the
conversion group in progress, by depth × 65,536 + column, combined (R89); what the phase found (R122); the duplicate
comparison: partials of the checked array and of the check array in products (R127). -/
structure Pass where
  block : Nat
  vector : Nat
  bench : Nat
  floor : Nat
  st : PassSt
  applied : List (List Nat)
  uniform : List Bool
  admissible : List Bool
  exact : SMap Int := []
  analogue : SMap Int := []
  narrow : SMap Int := []
  count : Nat := 0
  held : SMap Int := []
  ovr : Bool := false
  /-- an over-range flag of this vector and block has been counted (R98) -/
  ovrSeen : Bool := false
  mon : Bool := false
  late : Bool := false
  /-- a column of the wide accumulator that saturated (R114) -/
  sat : Option Nat := none
  repeated : Bool := false
  escalated : Bool := false
  sampled : Bool := false
  /-- the block reached its spalled and header words poisoned (R220) -/
  poisoned : Bool := false
  /-- the array (depth × 64 + width) that bench 3 decides (R127) -/
  mismatch : Option Nat := none
  chkHeld : SMap Int := []
  chkA : SMap Int := []
  chkB : SMap Int := []
  deriving DecidableEq, Repr

/-- The MVM in progress in an array field: its passes, newest first. -/
structure MvmRun where
  op : Nat
  passes : List Pass
  /-- a FINE has been pre-empted by bench-3 work that is not over (R148) -/
  preempted : Bool := false
  deriving DecidableEq, Repr

/-- A copy of a weight set, beside its registers: column scales and biases (R117), and by AIDX the digest held for the weight set
and whether the array has been written with it (R295, R347). -/
structure WsCopy where
  scale : SMap Nat := []
  bias : SMap Nat := []
  hasBias : Bool := false
  digest : SMap Word := []
  good : SMap Bool := []
  /-- group of the weight set in the image that built the copy (R335) -/
  group : Nat := 0
  deriving DecidableEq, Repr

/-- A physical array's cells and what is stored with them (R74, R80, R360): level pairs by physical row (0 to 519) × 264 + weight position
(4 × positive + negative; a pair not listed is (L0, L0), R78), its repair map (R99): by logical row the spare row that took it plus 1,
by group the logical column of the group that its spare column took plus 1; column sums, the CRC-64 expected, and the current digest of the
background reader (R349). -/
structure ArrMem where
  cells : SMap Nat := []
  rowMap : SMap Nat := []
  colMap : SMap Nat := []
  sums : SMap Int := []
  expected : Word := 0#64
  current : Word := 0#64
  deriving DecidableEq, Repr

/-- A write-verify waiting for or holding a write slot (R344): its array, priority, kind (0 build, 1 retirement copy, 2 re-dress,
3 restore, 4 tour), the array it copies and the logical slot it serves, the weight set, copy and AIDX it writes, and the record. -/
structure WJob where
  face : Nat
  block : Nat
  arr : Nat
  prio : Nat
  kind : Nat
  src : Nat := 0
  slot : Nat := 0
  w : Nat := 0
  copy : Nat := 0
  idx : Nat := 0
  cells : SMap Nat := []
  sums : SMap Int := []
  massA : Word := 0#64
  massB : Word := 0#64
  digest : Word := 0#64
  started : Bool := false
  again : Bool := false
  /-- of a build that host software directed (R347) -/
  host : Bool := false
  deriving DecidableEq, Repr

/-- An action due at the next hand boundary (R100 to R104, R351, R534, R556): a retirement's start, a slot's switch to a new array
(kind as in `WJob`), an array's loss, a converter's replacement, a dwell, the fit of a check array, a permanent unit, a write that takes
the check array for want of another spare (R103), a re-dress's start (R350), a retirement that found no spare (R104). -/
inductive BAct where
  | retire (f b a : Nat)
  | switch (f b slot new old kind : Nat)
  | lost (f b a : Nat)
  | converter (f b a g : Nat)
  | dwell (f b a : Nat)
  | fit (f b : Nat)
  | unit (u : Nat)
  | respare (j : WJob)
  | redress (f b a : Nat)
  | stuck (f b a : Nat)
  deriving DecidableEq, Repr

/-- A column's monitor at a bench (R528): conversions since the restart, μ and v in units of 2^-40, the flag. -/
structure MonCol where
  n : Nat := 0
  mu : Int := 0
  v : Int := 0
  flag : Bool := false
  deriving DecidableEq, Repr

/-- An array's monitors at a bench (R528, R530): by column; the open window's conversions, K_r by row, Σ code × LSB by column. -/
structure Mon where
  cols : SMap MonCol := []
  conv : Nat := 0
  krow : SMap Nat := []
  sums : SMap Int := []
  deriving DecidableEq, Repr

/-- Trims of a column converter (R521): weight trims of the eight taps, tap 0 first, and the offset, in 1/256 code, and the gain in 1/65,536. -/
structure ConvTrim where
  taps : List Int := []
  offset : Int := 0
  gain : Int := 65536
  deriving DecidableEq, Repr

/-- Trims of a block: by converter (array × 16 + converter), and of wordline levels 1 to 15 in µV (R82, R522). -/
structure Trims where
  conv : SMap ConvTrim := []
  level : List Int := []
  deriving DecidableEq, Repr

/-- Calibration of a block beside CAL_BLK_STATE (R518 to R525): the request waiting (trigger, priority, order), gathering since,
the histograms by converter, of its codes plus 128, and the normal equations of the window (R520, R522), the converters whose last fit failed, a fit
under way, the T_cal of trims made ready and those trims, the trims in use, device time of the last PASS, of the RETRY due, the calibration count,
T_cal of the last PASS in 1/8 °C, a PASS since the domain came on (R525), and an IDLE block's request waiting for a conversion. -/
structure CalBlk where
  req : Option (Nat × Nat × Nat) := none
  gather : Option Nat := none
  hists : SMap (SMap Nat) := []
  normal : SMap Int := []
  failed : List Nat := []
  next : Trims := {}
  trims : Trims := {}
  fitting : Option Int := none
  ready : Option Int := none
  passAt : Option Nat := none
  retryAt : Option Nat := none
  count : Nat := 0
  tcal : Int := 0
  fresh : Bool := false
  idle : Bool := false
  deriving DecidableEq, Repr

/-- A block's tour (R533, R534): 0 none, 1 writing, 2 waiting for the boundary, 3 dwelling, 4 dwell over; the slot, the second
attempt of step 1, the end of the dwell, sampled passes of the dwell, its fit, a sample that a uniform slice passed on (R136). -/
structure Tour where
  step : Nat := 0
  slot : Nat := 0
  again : Bool := false
  until_ : Nat := 0
  sampled : Nat := 0
  fitted : Bool := false
  owed : Bool := false
  deriving DecidableEq, Repr

/-- A fine tile that waits for its check partner's answer (R536): face, the partner's physical face, the CRC-64 of its own output. -/
structure FineChk where
  face : Nat
  partner : Nat
  crc : Word
  deriving DecidableEq, Repr

/-- A section of the open image (R339, R342): its table entry, where it stands in the staging region, whether it is addressed to this device
and staged, the offsets of the load parcels of it that have arrived, and its contents. -/
structure ImgSec where
  ent : SecEnt
  addr : Nat
  mine : Bool
  staged : Bool := false
  got : List Nat := []
  data : Option SecData := none
  deriving DecidableEq, Repr

/-- An enrolled image key (R336, R513): its KEY_ID and the point that is the public key. -/
structure ImgKey where
  id : Nat
  x : Nat
  y : Nat
  deriving DecidableEq, Repr

/-- The open image: version, model, whether this device's host opened it (and not load parcels), its staging region, its sections, the devices its
manifest names, and how many sections the loader has worked through (R339). -/
structure Img where
  version : Nat
  model : Nat
  own : Bool
  base : Nat
  room : Nat
  secs : List ImgSec
  devs : List Nat := []
  worked : Nat := 0
  deriving DecidableEq, Repr

/-- State of a receive-window slot (R324 to R330). -/
inductive SlotSt where
  | free
  | staged
  | ready
  | released
  deriving DecidableEq, Repr

/-- A parcel written into a slot: its offset in the slot, its lines, sequence number, its port of arrival, and the CRC-32C of its data (R431). -/
structure PRec where
  offset : Nat
  lines : Nat
  seq : Nat
  port : Nat
  crc : Nat
  deriving DecidableEq, Repr

/-- A slot of a window: sending hand, bytes received, notified empty, the slot's number and stamp, its parcels, and the faces whose
arrival signal was lost as a revoke (R312). -/
structure WSlot where
  st : SlotSt := .free
  hand : Nat := 0
  bytes : Nat := 0
  empty : Bool := false
  number : Nat := 0
  stampLo : Nat := 0
  stampHi : Nat := 0
  parcels : List PRec := []
  lost : List Nat := []
  /-- a parcel of it was addressed to a quarter in cache mode (R222): the owner's counter is not signalled -/
  unmapped : Bool := false
  deriving DecidableEq, Repr

/-- A receive window beside its registers: its slots, the index the next new slot takes, an empty slot held pending
(hand, number, stamps), and open and close requests waiting for the boundary. -/
structure Win where
  /-- its STATE is not CLOSED -/
  live : Bool := false
  slots : SMap WSlot := []
  next : Nat := 0
  pendEmpty : List (Nat × Nat × Nat × Nat) := []
  openReq : Bool := false
  closeReq : Bool := false
  deriving DecidableEq, Repr

/-- Requests on a face's program that wait for the boundary (R225). -/
inductive ProgReq where
  | activate
  | hold
  deriving DecidableEq, Repr

/-- A line of the hardware cache (R215): its HBM line (address / 128), what the fill delivered, and the words as they stood in HBM then. -/
structure CLine where
  g : Nat
  line : List (Word × Bool)
  raw : List (Word × Bool)
  deriving DecidableEq, Repr

/-- A face (R235 and the chapters of its units). -/
structure Face where
  pc : Nat := 0
  s : SMap Word := []
  a : SMap Word := []
  p : SMap Bool := []
  l : SMap Nat := []
  hn : Nat := 0
  tpc : Nat := 0
  tcause : Nat := 0
  tinfo : Word := 0#64
  /-- program store (R223): words, and bit errors of stored codewords (R224) -/
  store : SMap Word := []
  storeErr : SMap Nat := []
  /-- words to load, as FCE_PROG_CTL had them when LOAD was set -/
  loadWords : Nat := 0
  run : Run := .off
  handler : Handler := .none
  heldWarn : Bool := false
  heldSoft : Option (Nat × Word) := none
  /-- the hand's warning has been delivered, held or dropped (R25) -/
  warned : Bool := false
  /-- a fault-class trap marks the face as failing R24 (R248) -/
  failed : Bool := false
  endTime : Option Nat := none
  /-- entered at vector 1 (R239), and s31 at the retirement of END (R241) -/
  hostCall : Bool := false
  result : Word := 0#64
  /-- s3 at hand entry had bit 0 set (R239, R561) -/
  probeOk : Bool := false
  progReq : Option ProgReq := none
  /-- host signals held to the boundary (R234): counter, amount, function (0 PF0, 1 PF1, 7 management) -/
  hostSigs : List (Nat × Int × Nat) := []
  ctr : SMap Ctr := []
  handles : SMap Handle := []
  queue : List QOp := []
  started : List QOp := []
  sb : List SbEntry := []
  mvm : Option MvmRun := none
  /-- scratchpad words by address / 8, and written lines by address / 128 (R195, R206) -/
  pad : SMap PWord := []
  written : SMap Bool := []
  /-- STATS registers, by channel (R190) -/
  stats : SMap StatCh := []
  /-- vector parameter buffer (R187): BF16 codes, and which are poisoned -/
  params : SMap Nat := []
  paramPoison : SMap Bool := []
  /-- G3 hardware cache: by set, the lines held, most recently used first (R215); a change of the quarters in cache mode that waits for a draining
  gather (R222) -/
  cache : SMap (List CLine) := []
  cacheDue : Bool := false
  /-- resident lines written during the hand that its reads do not see yet, in order (R212): line, words -/
  resLate : List (Nat × List Word) := []
  /-- bytes moved since the last whole KiB counted: HBM, mesh, gathers; gathered cache hits since the last thousand -/
  hbmBytes : Nat := 0
  meshBytes : Nat := 0
  gatherBytes : Nat := 0
  gatherHits : Nat := 0
  /-- lines invalidated since the last whole thousand counted -/
  invLines : Nat := 0
  wins : SMap Win := []
  wsets : SMap WsCopy := []
  /-- lines that a program wrote inside a slot of an open window not released to it (R331) -/
  raced : SMap Bool := []
  /-- TINFO of revokes to take at the next hand entry (R312) -/
  entryTraps : List Word := []
  /-- PIN writes waiting for the boundary (R131): layer, pin -/
  pinWrites : List (Nat × Nat) := []
  /-- automatic pins waiting for the boundary (R130) -/
  autoPins : List (Nat × Nat) := []
  pinHands : Nat := 0
  /-- an evaluation at the end of the hand that runs has counted it already (R129) -/
  pinCounted : Bool := false
  /-- resident-region registers waiting for the boundary (R210) -/
  resReq : Option (Word × Word) := none
  /-- shape of the runs that APPENDs wrote, by run index: 1 for KV4, D, TPP (log entry 12) -/
  runShape : SMap (Nat × Nat × Nat) := []
  /-- the partner that differed in the hand before: every FINE of the re-deal is checked (R537) -/
  recheck : Option Nat := none
  /-- fine-table lines that builds brought, with their image version (R356), and the version of each line as it stands (R358) -/
  fineLines : List (Nat × FineLine) := []
  fineLive : SMap Nat := []
  /-- fine blocks written: base and bytes (R348) -/
  fineBlks : List (Nat × Nat) := []
  /-- started a face reset that awaits its started operations (R596), and DOWN waiting to clear at the boundary -/
  inReset : Bool := false
  resetDone : Bool := false
  /-- causes of face faults that hold it down: 4 (R102), 5 (R549), 6 (R556) -/
  heldFor : List Nat := []
  /-- automatic reset due at (R552), and powered times of automatic resets -/
  autoReset : Option Nat := none
  autoTimes : List Nat := []
  deriving DecidableEq, Repr

/-- A fault record in the queue (R541, R544): `cls` is the CLASS byte, `detail` the 16 DETAIL bytes as words 40-47 and
48-55, `hist` whether it counts in history (R554), `taken` whether the platform controller has taken it. -/
structure FRec where
  time : Nat
  hand : Nat
  unit : Nat
  det : Nat
  cls : Nat
  count : Nat
  opcode : Nat
  lface : Nat
  addr : Nat
  detail0 : Word
  detail1 : Word
  last : Nat
  hist : Bool
  /-- record number, temperature and rail, added as the record is written -/
  seq : Nat := 0
  temp : Nat := 0
  rail : Nat := 0
  deriving DecidableEq, Repr

/-- A history entry (R553): permanent, counted events, and the powered times of the two latest events, the later first. -/
structure HEnt where
  perm : Bool := false
  count : Nat := 0
  t1 : Nat := 0
  t2 : Nat := 0
  deriving DecidableEq, Repr

/-- An injection slot beside its registers (R558, R559): waiting for the boundary, armed, and the first hand for which a PERIODIC slot fires
again. -/
structure Inj where
  waits : Bool := false
  armed : Bool := false
  next : Nat := 0
  deriving DecidableEq, Repr

/-- A step of a probe deck (R560): mask of logical faces, unit named by a failure, the program in the faces' probe stores, input lines and their
address, the range checked, CHECK, EXPECT, the elements expected, TOL, and the bound in fc. -/
structure DeckStep where
  faces : Nat
  unit : Nat
  code : List Word
  input : List Word
  inAt : Nat
  outAt : Nat
  outLen : Nat
  check : Nat
  expect : Word
  want : List Word
  tol : Nat
  bound : Nat
  deriving DecidableEq, Repr

/-- A probe deck (R560, R561): identifier, mode (1 IDLE, 2 MAINT), steps, repetitions (none: until stopped), and by logical face the next step
and the repetitions made. -/
structure Deck where
  id : Nat
  mode : Nat
  steps : List DeckStep
  repeats : Option Nat
  next : SMap Nat := []
  rounds : SMap Nat := []
  deriving DecidableEq, Repr

/-- A SIGR held with its hand (R37, R624). -/
structure HeldSigr where
  src : Nat
  hand : Nat
  face : Nat
  ctr : Nat
  amount : Nat
  committed : Bool
  deriving DecidableEq, Repr

/-- A window a hand of this device wrote elsewhere, with the bytes it sent there (R625, R440). -/
structure SentWin where
  dev : Nat
  face : Nat
  win : Nat
  bytes : Nat
  deriving DecidableEq, Repr

/-- An ante in the manager's queue (R366, R375). -/
structure Ante where
  ring : Nat
  front : Nat
  flags : Nat
  prefixSet : Nat
  tag : Nat
  base : Nat
  prompt : List Nat
  maxTokens : Nat
  ttl : Nat
  deadline : Nat
  rec_ : SeatRec
  /-- refused before anything else, with this reason: a field that breaks R366 or R404, or a failed seal -/
  bad : Nat := 0
  /-- hand for which it was first considered -/
  first : Option Nat := none
  /-- a carried seat (R466): its handle, its tokens so far, and the first hand for which it may be considered -/
  carried : Option (Nat × Nat × Nat) := none
  /-- the resume has become a re-prefill (R392, R396) -/
  stale : Bool := false
  /-- the front has written its HELD record -/
  heldWritten : Bool := false
  /-- CRC-32C of the prompt as the front read it (R367) -/
  crc : Nat := 0
  deriving DecidableEq, Repr

/-- States of a seat, as SRV_SEAT numbers them (R373). -/
inductive SeatSt where
  | free | prefill | decode | drain | stocking | stocked | recall
  /-- carried and waiting in the held queue (R466) -/
  | carried
  deriving DecidableEq, Repr

/-- A seat (R369 to R395): what the manager, its front and every stage keep of it. -/
structure Seat where
  st : SeatSt := .free
  gen : Nat := 0
  ring : Nat := 0
  front : Nat := 0
  replica : Nat := 0
  tag : Nat := 0
  flags : Nat := 0
  prefixSet : Nat := 4096
  prompt : Nat := 0
  /-- CRC-32C of the prompt as the front read it (R367) -/
  crc : Nat := 0
  /-- the handle that its resume named (R378) -/
  base : Option Nat := none
  maxTokens : Nat := 0
  ttl : Nat := 0
  deadline : Nat := 0
  rec_ : SeatRec := {}
  lane : Nat := 0
  cost : Nat := 0
  order : Nat := 0
  /-- history: prompt, then released tokens (R465) -/
  toks : List Nat := []
  /-- prompt tokens placed in slots so far -/
  placed : Nat := 0
  /-- drafts for the next round (R414) -/
  drafts : List Nat := []
  /-- numbers of slots in flight that carry it -/
  inFlight : List Nat := []
  /-- the dealer's device has acknowledged its record (R402) -/
  acked : Bool := false
  recalled : Bool := false
  reprefilled : Bool := false
  mixed : Bool := false
  stamp : Option (Nat × Nat) := none
  /-- time to live ends at (R391) -/
  expires : Nat := 0
  /-- code of the END record due when it is freed, and whether it waits to be freed at the next commit -/
  endCode : Nat := 0
  freeing : Bool := false
  /-- freed without a record (R464) -/
  silent : Bool := false
  deriving DecidableEq, Repr

/-- An entry of a page table (R383): KIND, frame, stock slot and CMP. -/
structure Pte where
  kind : Nat := 0
  frame : Nat := 0
  stock : Nat := 0
  cmp : Bool := false
  /-- key epoch of the stocked shares' headers (R490) -/
  key : Nat := 0
  deriving DecidableEq, Repr

/-- A page-table entry as its word in HBM (R383). -/
def Pte.word (e : Pte) : Word :=
  BitVec.ofNat 64 (e.frame % 2 ^ 20 + e.kind % 8 * 2 ^ 20 + (if e.cmp then 2 ^ 23 else 0) + e.stock % 2 ^ 25 * 2 ^ 24)

/-- What a stage holds of a seat's cache (R383, R386): committed length, and its page table by position. -/
structure Cache where
  len : Nat := 0
  pages : SMap Pte := []
  /-- prefix pages at the front of the table -/
  pre : Nat := 0
  /-- rows to trim at the next boundary (R416) -/
  trim : Nat := 0
  /-- the mark that this stage has seen cause for, and the stamp of its last commit for the seat (R359) -/
  mixed : Bool := false
  stamp : Option (Nat × Nat) := none
  deriving DecidableEq, Repr

/-- A seat record of the dealer (R402). -/
structure Drec where
  held : Bool := false
  r : SeatRec := {}
  hist : List Nat := []
  gen : Nat := 0
  gstate : Nat := 0
  drafts : List Nat := []
  /-- generated tokens, of which the last 32 matter to the stop matcher (R412) -/
  tail : List Nat := []
  /-- slot in which its row was last poisoned (R413) -/
  poisoned : Option Nat := none
  deriving DecidableEq, Repr

/-- An automaton (R409): states as (FIRST, COUNT, ACCEPT), transitions as (LO, HI, NEXT). -/
structure Gram where
  states : List (Nat × Nat × Bool) := []
  trans : List (Nat × Nat × Nat) := []
  /-- loaded, to become RESIDENT at the boundary -/
  ready : Bool := false
  deriving DecidableEq, Repr

/-- A share that the dealer has taken (R398): stream, SHARES, SHARE, VBASE, VCOUNT and its rows of BF16 codes with poison. -/
structure DealShare where
  sel : Nat
  shares : Nat
  index : Nat
  vbase : Nat
  vcount : Nat
  rows : List (List (Nat × Bool))
  deriving DecidableEq, Repr

/-- What the dealer drew for a seat in the running hand (R405 to R416). -/
structure Draw where
  seat : Nat
  pos : Nat
  toks : List Nat
  code : Nat
  drafts : Nat
  accepted : Nat
  deriving DecidableEq, Repr

/-- A ring beside its registers (R365, R368, R371): the submission tail last written, the completion head last written, records
written in all, and the backlog. -/
structure Ring where
  tail : Nat := 0
  head : Nat := 0
  written : Nat := 0
  backlog : List (List Word) := []
  deriving DecidableEq, Repr

/-- A prefix set (R387, R388): its frames, read and waiting for the boundary. -/
structure Prefix where
  frames : List Nat := []
  ready : Bool := false
  deriving DecidableEq, Repr

/-- A replica as the manager keeps it beside SYN_REPLICA (R459 to R469), by stage: consecutive hands unavailable, consecutive
reports of outcome 0, the last hand reported; seat limit (R45), its clean hands (R46) and the last hand counted there, empty
slots owed; the first hand of a declaration whose fates are still due and the lost device; a retirement (carry, and the hand
after which what remains is carried); a join (JOIN_HAND, passed) and the state before it, and the STATE reports of its devices: address, and last
committed hand, live image version, flags. -/
structure Rep where
  missing : SMap Nat := []
  clean : SMap Nat := []
  seen : SMap Nat := []
  limit : Option Nat := none
  cleanHands : Nat := 0
  dirty : Bool := false
  emptyOwed : Nat := 0
  /-- decided at the announcement for the slot formed next (R45): empty, and its seat limit -/
  emptyNext : Bool := false
  limitNext : Nat := 0
  down : Option Nat := none
  lost : Option Nat := none
  retire : Option (Bool × Nat) := none
  join : Option (Nat × Bool) := none
  prior : Nat := 0
  states : SMap (Nat × Nat × Nat) := []
  /-- takes no new seats (R363) -/
  noNew : Bool := false
  deriving DecidableEq, Repr

/-- A completion record decided and not yet written (R370): its ring, its place within the ring (0, or one more than the seat's place in
the order of admission), the hand at whose commit it is written, its words. -/
structure QRec where
  ring : Nat
  key : Nat
  hand : Nat
  ws : List Word
  deriving DecidableEq, Repr

/-- A fabric port beside its registers (R422 to R428): training step (0 none, 1 PMD at 200 Gbit/s, 2 PMD at 100, 3 FEC lock, 4
deskew, 5 IDENT), retries, lanes that passed the steps so far, waiting for HOLDOFF, waiting for the boundary (width); next SEQ
expected, last ACK received; times of replays; consecutive windows with uncorrectable codewords, by lane; number of the last
LANE proposal made here; a soft remap waiting: earliest time, and width and spared lane where the peer proposed it. -/
structure Port where
  step : Nat := 0
  tries : Nat := 0
  good : Nat := 0
  holdoff : Bool := false
  ready : Option Nat := none
  linked : Bool := false
  /-- SEQ expected next; SEQ of the next flit sent, and the last that the peer has acknowledged (R426, R428) -/
  rxSeq : Nat := 0
  txSeq : Nat := 0
  acked : Nat := 4095
  /-- credit left on VL0 and VL1, in flits (R427) -/
  cred0 : Nat := 128
  cred1 : Nat := 128
  replays : List Nat := []
  errs : SMap Nat := []
  proposal : Nat := 0
  proposed : Option (Nat × Nat × Bool) := none
  /-- control messages sent and not yet acknowledged, each by the SEQ of its last flit (R441) -/
  unacked : List Nat := []
  remap : Option (Nat × Option (Nat × Nat)) := none
  deriving DecidableEq, Repr

/-- What the device puts out: writes to host memory, interrupts, parcels, control-lane messages of a port (routed to a device,
along the tree, or link-local), management answers and PCIe answers. -/
inductive Out where
  | hostWrite (fn addr : Nat) (words : List Word)
  | msix (fn vec : Nat)
  | parcel (port : Nat) (p : Parcel)
  | ctl (port dst src : Nat) (m : Msg)
  | tree (port : Nat) (m : Msg)
  | local_ (port : Nat) (m : Msg)
  | mgmt (session : Nat) (body : List Nat)
  | pcie (body : List Nat)
  /-- serving traffic between devices, for which the spec gives no message: to a device, its kind and fields -/
  | serve (dst : Nat) (body : List Nat)
  deriving DecidableEq, Repr

/-- The hand in progress and what the device keeps between hands (01_ticks_and_hands.md). -/
structure HandSt where
  running : Bool := false
  /-- the tick has passed and the device runs no hand in it (R48, R226, R500): its boundary is still to come -/
  idle : Bool := false
  due : Nat := 0
  expiry : Nat := 0
  redeal : Bool := false
  redealOf : Nat := 0
  redealNext : Bool := false
  /-- announcement held: hand, due time, period (R14, R18) -/
  ann : Option (Nat × Nat × Nat) := none
  /-- due time of the last tick, and whether one has passed -/
  lastDue : Nat := 0
  ticked : Bool := false
  /-- period of the last tick, as it was announced, and of the last tick that this device announced as manager (R18) -/
  period : Nat := 0
  annPeriod : Nat := 0
  missedRow : Nat := 0
  stopped : Bool := false
  /-- a missed tick whose abort notices are still owed (R19): the hand -/
  abortOwed : Option Nat := none
  outSet : List (Nat × Nat × Nat) := []
  sent : List SentWin := []
  sigrDevs : List Nat := []
  failedBefore : List Nat := []
  slotEmpty : Bool := false
  slotNum : Nat := 0
  formed : Bool := false
  /-- the replica is held: an empty hand that touches no slot (R460) -/
  held : Bool := false
  resetMisdeal : Bool := false
  /-- the re-deal to come follows a face reset: it takes the oldest slot not consumed (R48) -/
  redealReset : Bool := false
  nackFull : Bool := false
  tileTrouble : Bool := false
  /-- released an empty slot, or formed one, and passes it on; its number (R625) -/
  emptyPass : Bool := false
  /-- ports that lost link, or were not ACTIVE, in the hand (R462) -/
  linkLost : Nat := 0
  /-- faces that were down at the last boundary (R71) -/
  downMask : Nat := 0
  /-- descriptors of the hand's slot (R386) -/
  desc : List SlotSeat := []
  /-- stock tickets issued (face, ticket) and the moves that completed, and those that failed (R389) -/
  tickets : List (Nat × Nat) := []
  moved : List (Nat × Nat) := []
  sealFail : List Nat := []
  /-- frames that PLIST allocated in the hand: seat, page, frame (R384) -/
  alloc : List (Nat × Nat × Nat) := []
  freeListFault : Bool := false
  /-- the dealer's shares of the slot, whether a DEAL was issued, and what was drawn (R400, R401) -/
  shares : List DealShare := []
  dealt : Bool := false
  shareBad : Bool := false
  draws : Option (List Draw) := none
  dealPoison : List Nat := []
  noRecord : List Nat := []
  stampLo : Nat := 0
  stampHi : Nat := 0
  /-- counter mirrors of the hand committed last, which wait for the TOKENS records of that hand to come from another device's dealer (R35) -/
  posted : Option (List Out) := none
  deriving DecidableEq, Repr

/-- A tally report that the manager holds (R363): device, layer, hand, version, digest, and the expected digest it knows (none: empty). -/
structure Tally where
  dev : Nat
  layer : Nat
  hand : Nat
  version : Nat
  digest : List Word
  expected : List Word
  deriving DecidableEq, Repr

/-- What the thermal controller keeps of a sensor (R577): its last code, rounds for which the code has stayed the same, the neighbours' mean
when that began, consecutive rounds far from the neighbours, without an answer, and plausible while ignored; the comparator has tripped,
and the place reads 105 °C or more. -/
structure Sens where
  code : Int := 0
  same : Nat := 0
  base : List (Nat × Int) := []
  far : Nat := 0
  silent : Nat := 0
  good : Nat := 0
  hot : Bool := false
  deriving DecidableEq, Repr

/-- Power and heat beside their registers (21_power_thermal_housekeeping.md): domain requests waiting (domain, state), the changes of one
boundary still to be made and whether the first is under way; package power of the last rounds in mW, the rounds below the margin, faces
in droop since the round began; rounds since a face left throttle, and throttle time below a millisecond; VCORE as the last round showed
it; a self-calibration that waits for REF_READY. -/
structure Power where
  domReq : SMap (Option Nat) := []
  domRun : List (Nat × Nat) := []
  domBusy : Bool := false
  hist : List Nat := []
  low : Nat := 0
  drooped : List Nat := []
  stretch : SMap Nat := []
  calm : SMap Nat := []
  thrRest : SMap Nat := []
  vcore : Option Nat := none
  calWaits : Bool := false
  /-- state that the domain under change has left -/
  domFrom : Nat := 0
  /-- rounds completed -/
  round : Nat := 0
  sens : SMap Sens := []
  /-- voltages of the last round by channel, in mV -/
  rails : SMap Int := []
  deriving DecidableEq, Repr

/-- The key unit and the session beside their registers: an open, a rotation, and a release (after a hand, at or past which it begins)
accepted and waiting for the boundary; the lifecycle state that follows the release (R507); the sweep's next row segment by stack, and the
stocked shares left to the stock pass (seat, page, face), with the bytes that the pass has moved in this hand (R486, R488); metadata
words that the patrol has reported, with the flipped bits they had then (R484). -/
structure KeyWork where
  open_ : Bool := false
  rotate : Bool := false
  release : Option Nat := none
  after : Option Nat := none
  sweep : SMap Nat := []
  left : List (Nat × Nat × Nat) := []
  passed : Nat := 0
  metaSeen : SMap Nat := []
  deriving DecidableEq, Repr

/-- A management session (R510, R511): opened under a client certificate of an enrolled credential; time of its last datagram; datagrams
sent and not yet acknowledged, oldest first (sequence number, body), the next number, and repeats of the oldest. -/
structure MSess where
  live : Bool := false
  cred : Bool := false
  last : Nat := 0
  out : List (Nat × List Nat) := []
  next : Nat := 0
  repeats : Nat := 0
  deriving DecidableEq, Repr

/-- A firmware slot of the SPI NOR (R599): version, SHA-384, and whether its signature verifies. -/
structure Firm where
  version : Nat := 0
  digest : List Word := []
  good : Bool := true
  deriving DecidableEq, Repr

/-- The management side (18_tenancy_and_management.md, 22_host_reset_startup.md R599): sessions by identifier, the operator credentials
enrolled, an enrolment has been made, firmware slots A and B, and the rollback fuse. -/
structure Mgmt where
  sessions : SMap MSess := []
  ops : List Nat := []
  used : Bool := false
  fw : SMap Firm := []
  rollback : Nat := 0
  deriving DecidableEq, Repr

/-- The host interface and the resets under way (22_host_reset_startup.md): PERST_N is low; configuration requests are answered (R600); a warm
reset waits for write-verifies, or runs (R595); the folds of a function-level reset of PF0 wait for the boundary (R594). -/
structure Hif where
  perstLow : Bool := false
  ready : Bool := false
  warm : Bool := false
  flrFold : Bool := false
  deriving DecidableEq, Repr

/-- The device. -/
structure State where
  /-- commands waiting, first in, first out -/
  pending : List Instr := []
  /-- device time, ns -/
  now : Nat := 0
  /-- draws made from `Config.freeValue` (the model's own field, log entry 3) -/
  freeCount : Nat := 0
  regs : SMap Word := []
  faces : SMap Face := []
  arrays : SMap ArrMem := []
  /-- write-verifies, in order of arrival (R344), and actions due at the boundary -/
  writes : List WJob := []
  acts : List BAct := []
  /-- monitors by array × 4 + bench, calibrations and tours by block, the next request's order (R518), and hours' base of the tours -/
  monitors : SMap Mon := []
  cals : SMap CalBlk := []
  calOrder : Nat := 0
  tours : SMap Tour := []
  tourAt : Nat := 0
  /-- array passes compared since the last whole thousand counted (CAL_DUP_STAT.ARRAY_SAMPLED) -/
  dupRest : Nat := 0
  fineChecks : List FineChk := []
  hand : HandSt := {}
  /-- next operation identifier (the model's own field) -/
  opId : Nat := 0
  sigrs : List HeldSigr := []
  /-- commit and abort notices acted on or held: source device, hand -/
  commits : List (Nat × Nat) := []
  aborts : List (Nat × Nat) := []
  /-- COMMIT sequences not yet complete (R440) -/
  partials : List (Nat × Nat × List WinEntry) := []
  /-- sequence numbers of parcels, by destination (R430) -/
  seqs : SMap Nat := []
  /-- HBM granules by address / 128 (stack in the bits above the offset), and flipped bits of metadata words by stack,
  row segment and word (R473) -/
  hbm : SMap Gran := []
  hbmMeta : SMap Nat := []
  /-- cold resets so far: which keys the session and platform sets hold (R478, R479) -/
  keyGen : Nat := 0
  ring : List RMsg := []
  /-- messages of the call ring that a stop dropped before their command (R73), with the destination stop (for a broadcast the stop that dropped it) -/
  ringLost : List (RKind × Nat) := []
  /-- packets that wait in the buffers of the haul mesh's routers, in the order of their coming (R55) -/
  mesh : List MWait := []
  /-- faces with an unreleased play in the current round of each die trick (R319) -/
  plays : SMap (List Nat) := []
  dtricks : SMap DTrick := []
  /-- trick configuration writes waiting for the boundary (R318): parties and home; parties of domain tricks -/
  trickReq : SMap (Option (Nat × Nat)) := []
  dtrickReq : SMap (Option Nat) := []
  /-- parcels and messages waiting at a port that is not ACTIVE (R428, R441) -/
  txq : SMap (List Out) := []
  ports : SMap Port := []
  /-- TIME exchanges completed since time was lost, device time of the last TIME message of the parent (R442) -/
  timeGood : Nat := 0
  timeLast : Nat := 0
  /-- bypass open scheduled (R444); VAON below 0.70 V (R443) -/
  bypOpen : Bool := false
  vaonLow : Bool := false
  /-- this device's place in the image's manifest (R335): stage, replica, stages of the replica; devices of the manifest
  (address, stage, replica) -/
  place : Option (Nat × Nat × Nat) := none
  manifest : List (Nat × Nat × Nat) := []
  /-- largest seat limit that the image declares (R46; log entry 14) -/
  seatMax : Nat := 4095
  /-- serving state -/
  rings : SMap Ring := []
  antes : List Ante := []
  folds : List (Nat × Nat × Nat) := []
  lastRing : Nat := 16383
  admitted : Nat := 0
  seats : SMap Seat := []
  caches : SMap Cache := []
  /-- caches of carried seats, freed at the next commit (R464) -/
  limbo : List Cache := []
  /-- bytes saved by compression since the last whole MiB counted (MEM_STOCK_STAT.CMP_MIB) -/
  cmpRest : Nat := 0
  /-- frames and stock slots that are not free -/
  usedFrames : SMap Bool := []
  usedStock : SMap Bool := []
  /-- MSI-X vectors of PF0 due at the end of the commit (R372) -/
  irqs : List Nat := []
  /-- vectors signalled in this hand (R372) -/
  irqDone : List Nat := []
  /-- histories of carried seats that have arrived, by the device that sends them (R466) -/
  histIn : SMap (List Word) := []
  prefixes : SMap Prefix := []
  slots : SMap (List SlotSeat) := []
  /-- slots formed at the head and not yet run, oldest first: number, and whether the manager made it empty -/
  headQ : List (Nat × Bool) := []
  /-- records decided, to be written at the next commit: ring, record without PHASE -/
  recs : List QRec := []
  /-- stage stops running hands: its serving unit is permanent (R384, R556) -/
  unitDown : Bool := false
  drecs : SMap Drec := []
  grams : SMap Gram := []
  /-- NaN logits read since the last whole thousand counted (DLR_STAT.NAN) -/
  nanRest : Nat := 0
  modeReq : Option Nat := none
  /-- manager state: replicas; senders of MISSED since the last TICK; a ROLE message has been obeyed; the first hand a new
  manager announces; the highest hand whose changes the standby holds -/
  reps : SMap Rep := []
  missedFrom : List Nat := []
  obeys : Bool := false
  claims : Option Nat := none
  acked : Nat := 0
  /-- last hand decided, last hand announced and its due time, an announcement waiting for its MIRROR_ACK, a candidate to which
  the manager's state is being copied (R455) -/
  decided : Nat := 0
  announced : Nat := 0
  annDue : Nat := 0
  waitAck : Bool := false
  copyTo : Option Nat := none
  /-- last tally of this device differed from its expected digests (R362) -/
  digestBad : Bool := false
  /-- holds (true) and lifts (false) of this device's replica, with their first hands, oldest first (R460, R463) -/
  holds : List (Nat × Bool) := []
  faultq : List FRec := []
  /-- history store (R553), by unit identifier -/
  hist : SMap HEnt := []
  /-- a logging-path error named no face: no hands (R549) -/
  logStop : Bool := false
  /-- time of the last interrupt of the host ring (R547) -/
  hostIrqAt : Option Nat := none
  /-- injection slots, and injected conditions whose records are still to come: detector, unit, HIST -/
  injs : SMap Inj := []
  injLive : List (Nat × Nat × Bool) := []
  /-- code offsets that fired injections add: unit, offset, conversions left (R559) -/
  injOff : List (Nat × Int × Nat) := []
  /-- the deck that runs, and one that waits for the boundary; steps passed since the last whole hundred counted -/
  deck : Option Deck := none
  deckWaits : Option Deck := none
  probeRest : Nat := 0
  /-- last 16 FATAL or PERMANENT records, in non-volatile memory (R548) -/
  nvLog : List FRec := []
  /-- the open image, a DISCARD that waits for a restore, MODEL_ID and message digest of the last image opened (R514), enrolled image
  keys (R513), and a put in progress: destination and bytes -/
  img : Option Img := none
  discardWaits : Bool := false
  lastImg : Option (Nat × List Word) := none
  imgKeys : List ImgKey := []
  /-- version of the image that was built last (R353) -/
  lastVer : Nat := 0
  put : Option (Nat × Nat) := none
  tallies : List Tally := []
  power : Power := {}
  key : KeyWork := {}
  mgmt : Mgmt := {}
  hif : Hif := {}
  /-- THERMTRIP has stopped every clock outside the platform domain; a cold reset waits for the comparators (R576) -/
  dead : Bool := false
  coldHeld : Bool := false
  out : List Out := []
  deriving DecidableEq, Repr

/-- The machine right after reset: every map empty, so every register and every memory reads as its reset value. -/
def State.reset : State := {}

end Sys2Proof.Machine
end

