-- ==== Sys2Proof/Machine/Fit.lean ====
section
/-! DEFINITION. What the fitter computes from what a gathering window accumulated (19_calibration_and_monitoring.md R520 to R522): a converter's trims
and the distance of its code distribution from its pool's, and the wordline trims that the normal equations give.  Positions on the code axis
are in 1/256 of a code, codes counted from 0 to 255.  The spec gives no interpolation and no range for the converter trims: log entry 77. -/
namespace Sys2Proof.Machine

/-- A histogram's codes below a boundary (R521), their number in all, and the sum of histograms. -/
def Hist.below (h : SMap Nat) (x : Nat) : Nat := h.foldl (fun a e => if e.1 < x then a + e.2 else a) 0
def Hist.total (h : SMap Nat) : Nat := h.foldl (fun a e => a + e.2) 0
def Hist.plus (h g : SMap Nat) : SMap Nat := g.foldl (fun m e => mset 0 m e.1 (mget 0 m e.1 + e.2)) h

/-- Position at which a histogram's cumulative distribution reaches p / q, straight within a code. -/
def Hist.at_ (h : SMap Nat) (p q : Nat) : Int :=
  let n := Hist.total h
  match (List.range 256).find? (fun c => decide (p * n ≤ Hist.below h (c + 1) * q)) with
  | none => 256 * 256
  | some c =>
    let k := mget 0 h c * q
    256 * (c : Int) + (if k = 0 then 0 else (((p * n - Hist.below h c * q) * 256 / k : Nat) : Int))

/-- The cumulative count at a position, times 256. -/
def Hist.upTo (h : SMap Nat) (z : Int) : Nat :=
  if z ≤ 0 then 0 else if z ≥ 65536 then 256 * Hist.total h
  else 256 * Hist.below h (z.toNat / 256) + mget 0 h (z.toNat / 256) * (z.toNat % 256)

/-- Where the taps' weight trims, tap 0 first, put a code boundary, and a position. -/
def tapValue (taps : List Int) (x : Nat) : Int :=
  (List.range 8).foldl (fun a k => if x / 2 ^ k % 2 = 1 then a + taps.getD k 0 else a) (256 * (x : Int))
def tapPos (taps : List Int) (z : Int) : Int := tapValue taps (z / 256).toNat + z % 256

/-- Displacement of a boundary that the trims so far put at `at_`: to where the pool's distribution equals the converter's; none where the
converter has no code on one side, or the two agree there. -/
def displacement (h pool : SMap Nat) (x : Nat) (at_ : Int) : Int :=
  let n := Hist.below h x
  if n = 0 ∨ n = Hist.total h ∨ Hist.upTo pool at_ * Hist.total h = 256 * n * Hist.total pool then 0
  else Hist.at_ pool n (Hist.total h) - at_

/-- Step 1 of the fit: from tap 7 to tap 0, the mean displacement at the boundaries where that bit of the code changes. -/
def fitTaps (h pool : SMap Nat) : List Int :=
  (List.range 8).foldl (fun taps i =>
    let k := 7 - i
    let d := (List.range (2 ^ i)).foldl (fun a m =>
      let x := (2 * m + 1) * 2 ^ k
      a + displacement h pool x (tapValue taps x)) 0
    taps.set k (d / (2 ^ i : Nat))) (List.replicate 8 0)

/-- The trims of a converter's fit against its pool: taps, offset by the medians, gain by the spans of the 5th to the 95th percentile, in 1/65,536. -/
def fitTrims (h pool : SMap Nat) : ConvTrim :=
  let taps := fitTaps h pool
  let pos (p : Nat) : Int := tapPos taps (Hist.at_ h p 100)
  let span := pos 95 - pos 5
  { taps := taps, offset := Hist.at_ pool 50 100 - pos 50
    gain := if span = 0 then 65536 else 65536 * (Hist.at_ pool 95 100 - Hist.at_ pool 5 100) / span }

/-- Where the trims put a code boundary: taps, offset, and gain about the pool's median. -/
def ConvTrim.place (t : ConvTrim) (pool : SMap Nat) (x : Nat) : Int :=
  let m := Hist.at_ pool 50 100
  m + (tapValue t.taps x + t.offset - m) * t.gain / 65536

/-- The largest |F_j − F_pool| after trimming, over 256 times the two counts. -/
def fitDistance (h pool : SMap Nat) (t : ConvTrim) : Nat :=
  (List.range 257).foldl (fun a x => max a
    (((Hist.below h x * Hist.total pool * 256 : Nat) : Int) - ((Hist.upTo pool (t.place pool x) * Hist.total h : Nat) : Int)).natAbs) 0

/-- A trim within its range: the implementation's, for taps, offset and gain (Config.trimRange). -/
def ConvTrim.inRange (t : ConvTrim) : Bool :=
  t.taps.all (fun d => decide (d.natAbs ≤ Config.trimRange 0)) && decide (t.offset.natAbs ≤ Config.trimRange 1) &&
  decide ((t.gain - 65536).natAbs ≤ Config.trimRange 2)

/-- A converter's fit: its trims, whether it passes, and its distance in 1/1,024.  With no code in the pool there is nothing to pass against. -/
def fitConv (limit : Nat) (h pool : SMap Nat) : ConvTrim × Bool × Nat :=
  let t := fitTrims h pool
  let den := 256 * Hist.total h * Hist.total pool
  let d := fitDistance h pool t
  (t, decide (den ≠ 0) && decide (d * 1024 ≤ limit * den) && t.inRange, if den = 0 then 1024 else d * 1024 / den)

/-- The pool of a converter (R521). -/
def CalBlk.pool (x : CalBlk) (j : Nat) : SMap Nat :=
  x.hists.foldl (fun m e => if e.1 = j ∨ x.failed.contains e.1 = true then m else Hist.plus m e.2) []

/-- Converters that delivered at least a quarter of 2^gather codes, with their fits. -/
def CalBlk.fits (x : CalBlk) (gather limit : Nat) : List (Nat × ConvTrim × Bool × Nat) :=
  (x.hists.filter (fun e => decide (2 ^ gather ≤ 4 * Hist.total e.2))).map (fun e => (e.1, fitConv limit e.2 (x.pool e.1)))

/-! ### Wordline levels (R522) -/

/-- One phase conversion enters the normal equations: a_1 to a_15, and m less what the nominal gains explain (key 16 k). -/
def normalAdd (eq : SMap Int) (a : List Int) (m : Int) : SMap Int :=
  let rest := m - (List.range 15).foldl (fun x k => x + ((k + 1 : Nat) : Int) * a.getD k 0) 0
  (List.range 15).foldl (fun e k =>
    if a.getD k 0 = 0 then e
    else (List.range 15).foldl (fun e2 l => mset 0 e2 (16 * (k + 1) + (l + 1)) (mget 0 e2 (16 * (k + 1) + (l + 1)) + a.getD k 0 * a.getD l 0))
      (mset 0 e (16 * (k + 1)) (mget 0 e (16 * (k + 1)) + a.getD k 0 * rest))) eq

/-- One elimination of the normal equations on pivot k, exact in integers: every other row is cleared at k and divided by the pivot before. -/
def eliminate (st : List (List Int) × Int) (k : Nat) : List (List Int) × Int :=
  let piv := st.1.getD k []
  let p := piv.getD (k + 1) 0
  if p = 0 then st
  else ((st.1.zip (List.range 15)).map (fun r => if r.2 = k then r.1 else
      (r.1.zip piv).map (fun e => (p * e.1 - r.1.getD (k + 1) 0 * e.2) / st.2)), p)

/-- The error of each level's gain, as a numerator and the common denominator; a level that no conversion drove has none. -/
def levelErrors (eq : SMap Int) : List Int × Int :=
  let rows := (List.range 15).map (fun k => (List.range 16).map (fun l => mget 0 eq (16 * (k + 1) + l)))
  let r := (List.range 15).foldl eliminate (rows, 1)
  ((r.1.zip (List.range 15)).map (fun e => if e.1.getD (e.2 + 1) 0 = 0 then 0 else e.1.getD 0 0), r.2)

/-- The wordline trims in µV, level 1 first: a gain error of one level step is 16 mV (R82); and the mask of the levels beyond ±1.5 mV. -/
def levelTrims (eq : SMap Int) : List Int × Nat :=
  let e := levelErrors eq
  (e.1.map (fun v => -(16000 * v) / e.2),
   (e.1.zip (List.range 15)).foldl (fun a v => if 32 * v.1.natAbs > 3 * e.2.natAbs then a + 2 ^ v.2 else a) 0)

end Sys2Proof.Machine
end

