-- ==== Sys2Proof/Machine/Num.lean ====
section
/-! DEFINITION. Exact arithmetic and the roundings of the digital engines: the formats of R137, rne32 and rne16 of
R117, the chunk sums of R141, the conversion table of R142, the FP4 and E8M0 codes of R164.  A finite value is a sign,
a magnitude and a power of two, so no product and no sum is ever rounded before the spec rounds it. -/
namespace Sys2Proof.Machine

/-- A floating-point value: not a number, an infinity (true: negative), or (−1)^neg × m × 2^e. -/
inductive FV where
  | nan
  | inf (neg : Bool)
  | fin (neg : Bool) (m : Nat) (e : Int)
  deriving DecidableEq, Repr

/-- Number of significant bits of a magnitude; 0 for 0. -/
def bitLen (m : Nat) : Nat := if m = 0 then 0 else Nat.log2 m + 1

/-- Round m × 2^e (plus, when `sticky`, something smaller than any remaining bit) to `prec` significant bits with
no bit below 2^emin, to nearest, ties to even.  Answers the magnitude and its exponent. -/
def rneMag (prec : Nat) (emin : Int) (m : Nat) (e : Int) (sticky : Bool) : Nat × Int :=
  if m = 0 then (0, emin) else
  let l : Int := max (e + (bitLen m : Int) - (prec : Int)) emin
  if l ≤ e then (m <<< (e - l).toNat, l)
  else
    let d := (l - e).toNat
    let q := m >>> d
    let r := m % 2 ^ d
    let h := 2 ^ (d - 1)
    if r > h ∨ (r = h ∧ (sticky ∨ q % 2 = 1)) then (q + 1, l) else (q, l)

/-- The magnitude m × 2^e is at least 2^k. -/
def magGe (m : Nat) (e : Int) (k : Int) : Bool :=
  decide (m ≠ 0 ∧ e + (bitLen m : Int) > k)

/-- rne32 (R117, R141): round into FP32; too large becomes infinity. -/
def rne32s (neg : Bool) (m : Nat) (e : Int) (sticky : Bool) : FV :=
  let (q, l) := rneMag 24 (-149) m e sticky
  if magGe q l 128 then .inf neg else .fin neg q l

/-- rne32 of a value. -/
def rne32 : FV → FV
  | .fin n m e => rne32s n m e false
  | v => v

/-- Exact negation. -/
def FV.neg : FV → FV
  | .nan => .nan
  | .inf n => .inf (!n)
  | .fin n m e => .fin (!n) m e

/-- Exact product; zero times infinity is not a number. -/
def FV.mul : FV → FV → FV
  | .nan, _ => .nan
  | _, .nan => .nan
  | .inf a, .inf b => .inf (a != b)
  | .inf a, .fin b m _ => if m = 0 then .nan else .inf (a != b)
  | .fin a m _, .inf b => if m = 0 then .nan else .inf (a != b)
  | .fin a m e, .fin b k g => .fin (a != b) (m * k) (e + g)

/-- The signed integer of a finite value scaled to the exponent `e0`, which is at most its own. -/
def FV.scaled (e0 : Int) (neg : Bool) (m : Nat) (e : Int) : Int :=
  let k : Nat := m <<< (e - e0).toNat
  if neg then -(k : Int) else (k : Int)

/-- A signed integer at an exponent, as a value; zero is +0 (R139). -/
def FV.ofInt (i : Int) (e : Int) : FV := .fin (decide (i < 0)) i.natAbs e

/-- Exact sum; a sum that is exactly zero is +0 (R139; elsewhere the model's choice, log entry 73). -/
def FV.add : FV → FV → FV
  | .nan, _ => .nan
  | _, .nan => .nan
  | .inf a, .inf b => if a = b then .inf a else .nan
  | .inf a, .fin .. => .inf a
  | .fin .., .inf b => .inf b
  | .fin a m e, .fin b k g =>
    let e0 := min e g
    FV.ofInt (FV.scaled e0 a m e + FV.scaled e0 b k g) e0

/-- Positive zero. -/
def FV.zero : FV := .fin false 0 0

/-- The exact integer i. -/
def FV.int (i : Int) : FV := FV.ofInt i 0

/-- rne32 of the exact quotient; x/0 is an infinity, 0/0 and ∞/∞ are not numbers. -/
def divRne32 : FV → FV → FV
  | .nan, _ => .nan
  | _, .nan => .nan
  | .inf _, .inf _ => .nan
  | .inf a, .fin b _ _ => .inf (a != b)
  | .fin a _ _, .inf b => .fin (a != b) 0 0
  | .fin a m e, .fin b k g =>
    if k = 0 then (if m = 0 then .nan else .inf (a != b))
    else
      let sh := 64 + bitLen k
      let q := (m <<< sh) / k
      let r := (m <<< sh) % k
      rne32s (a != b) q (e - g - (sh : Int)) (decide (r ≠ 0))

/-- x < y on values that are not NaN (infinities and zeros as usual). -/
def FV.lt : FV → FV → Bool
  | .nan, _ => false
  | _, .nan => false
  | .inf a, .inf b => a && !b
  | .inf a, .fin .. => a
  | .fin .., .inf b => !b
  | .fin a m e, .fin b k g =>
    let e0 := min e g
    decide (FV.scaled e0 a m e < FV.scaled e0 b k g)

/-- The larger of two values; NaN if either is. -/
def FV.maxv (x y : FV) : FV :=
  match x, y with
  | .nan, _ => .nan
  | _, .nan => .nan
  | _, _ => if FV.lt x y then y else x

/-- The smaller of two values; NaN if either is. -/
def FV.minv (x y : FV) : FV :=
  match x, y with
  | .nan, _ => .nan
  | _, .nan => .nan
  | _, _ => if FV.lt y x then y else x

/-- True for NaN. -/
def FV.isNan : FV → Bool
  | .nan => true
  | _ => false

/-- True for a finite value. -/
def FV.isFin : FV → Bool
  | .fin .. => true
  | _ => false

/-- True for a zero of either sign. -/
def FV.isZero : FV → Bool
  | .fin _ m _ => decide (m = 0)
  | _ => false

/-- Decode a BF16 code (R137). -/
def ofBf16 (c : Nat) : FV :=
  let s := decide (c / 32768 % 2 = 1)
  let ex := c / 128 % 256
  let mt := c % 128
  if ex = 255 then (if mt = 0 then .inf s else .nan)
  else if ex = 0 then .fin s mt (-133)
  else .fin s (128 + mt) ((ex : Int) - 134)

/-- Decode an E4M3 code (R137): only mantissa 0b111 with exponent 0b1111 is NaN. -/
def ofE4m3 (c : Nat) : FV :=
  let s := decide (c / 128 % 2 = 1)
  let ex := c / 8 % 16
  let mt := c % 8
  if ex = 15 ∧ mt = 7 then .nan
  else if ex = 0 then .fin s mt (-9)
  else .fin s (8 + mt) ((ex : Int) - 10)

/-- Decode an E5M2 code (R137). -/
def ofE5m2 (c : Nat) : FV :=
  let s := decide (c / 128 % 2 = 1)
  let ex := c / 4 % 32
  let mt := c % 4
  if ex = 31 then (if mt = 0 then .inf s else .nan)
  else if ex = 0 then .fin s mt (-16)
  else .fin s (4 + mt) ((ex : Int) - 17)

/-- Decode an INT8 code: two's complement. -/
def ofInt8 (c : Nat) : Int := if c % 256 < 128 then ((c % 256 : Nat) : Int) else ((c % 256 : Nat) : Int) - 256

/-- Decode an FP4 E2M1 code (R164). -/
def ofE2m1 (c : Nat) : FV :=
  let s := decide (c / 8 % 2 = 1)
  let ex := c / 2 % 4
  let mt := c % 2
  if ex = 0 then .fin s mt (-1) else .fin s (2 + mt) ((ex : Int) - 2)

/-- Decode FP32 bits. -/
def ofFp32 (b : BitVec 32) : FV :=
  let c := b.toNat
  let s := decide (c / 2147483648 % 2 = 1)
  let ex := c / 8388608 % 256
  let mt := c % 8388608
  if ex = 255 then (if mt = 0 then .inf s else .nan)
  else if ex = 0 then .fin s mt (-149)
  else .fin s (8388608 + mt) ((ex : Int) - 150)

/-- Code bits of an already rounded magnitude: `mb` mantissa bits, subnormal exponent `emin`, top at `mb + 1` bits. -/
def packMag (mb : Nat) (emin : Int) (q : Nat) (l : Int) : Nat :=
  if q = 0 then 0
  else
    let q' := if bitLen q ≤ mb + 1 then q else q / 2 ^ (bitLen q - (mb + 1))
    let l' := l + ((bitLen q : Int) - (bitLen q' : Int))
    -- bring to exactly mb + 1 bits when that does not pass emin
    let up := min (mb + 1 - bitLen q') (l' - emin).toNat
    let q2 := q' <<< up
    let l2 := l' - (up : Int)
    if q2 < 2 ^ mb then q2 else ((l2 - emin).toNat + 1) * 2 ^ mb + (q2 - 2 ^ mb)

/-- FP32 bits of a value (rounded first). -/
def toFp32 (v : FV) : BitVec 32 :=
  match rne32 v with
  | .nan => 0x7FC00000#32
  | .inf n => if n then 0xFF800000#32 else 0x7F800000#32
  | .fin n m e =>
    let (q, l) := rneMag 24 (-149) m e false
    BitVec.ofNat 32 ((if n then 2147483648 else 0) + packMag 23 (-149) q l)

/-- What a conversion of R142 counts. -/
inductive Conv where
  | plain
  | sat
  | toNan
  | toInf
  deriving DecidableEq, Repr

/-- Element formats: the codes of IFMT and OFMT in R305 (BF16, E4M3, E5M2, INT8). -/
inductive Fmt where
  | bf16
  | e4m3
  | e5m2
  | int8
  deriving DecidableEq, Repr

/-- Bytes of an element (R137). -/
def Fmt.size : Fmt → Nat
  | .bf16 => 2
  | _ => 1

/-- Round half to even to an integer. -/
def roundEven : FV → Int
  | .fin n m e =>
    let q : Nat :=
      if 0 ≤ e then m <<< e.toNat
      else
        let d := (-e).toNat
        let q := m >>> d
        let r := m % 2 ^ d
        let h := 2 ^ (d - 1)
        if r > h ∨ (r = h ∧ q % 2 = 1) then q + 1 else q
    if n then -(q : Int) else (q : Int)
  | _ => 0

/-- rne16 into BF16 with the saturation of R117: overflow becomes ±0x7F7F. -/
def toBf16 : FV → Nat × Conv
  | .nan => (0x7FC0, .toNan)
  | .inf n => (if n then 0xFF80 else 0x7F80, .toInf)
  | .fin n m e =>
    let (q, l) := rneMag 8 (-133) m e false
    let sg := if n then 0x8000 else 0
    if magGe q l 128 then (sg + 0x7F7F, .sat) else (sg + packMag 7 (-133) q l, .plain)

/-- Conversion into E4M3 (R142): beyond 448 after rounding saturates, infinities too. -/
def toE4m3 : FV → Nat × Conv
  | .nan => (0x7F, .toNan)
  | .inf n => (if n then 0xFE else 0x7E, .sat)
  | .fin n m e =>
    let (q, l) := rneMag 4 (-9) m e false
    let sg := if n then 0x80 else 0
    if FV.lt (.fin false 448 0) (.fin false q l) then (sg + 0x7E, .sat) else (sg + packMag 3 (-9) q l, .plain)

/-- Conversion into E5M2 (R142). -/
def toE5m2 : FV → Nat × Conv
  | .nan => (0x7F, .toNan)
  | .inf n => (if n then 0xFC else 0x7C, .toInf)
  | .fin n m e =>
    let (q, l) := rneMag 3 (-16) m e false
    let sg := if n then 0x80 else 0
    if FV.lt (.fin false 57344 0) (.fin false q l) then (sg + 0x7B, .sat) else (sg + packMag 2 (-16) q l, .plain)

/-- Clamp of an integer. -/
def clampInt (lo hi i : Int) : Int := if i < lo then lo else if hi < i then hi else i

/-- Conversion into INT8 (R142): ties to even, clamped; NaN becomes 0.  The output path's use of it on a NaN is log entry 73. -/
def toInt8 : FV → Nat × Conv
  | .nan => (0, .toNan)
  | .inf n => (if n then 0x80 else 0x7F, .sat)
  | v =>
    let i := roundEven v
    let c := clampInt (-128) 127 i
    ((c % 256).toNat, if c = i then .plain else .sat)

/-- Conversion by R142's table into format `t`: the code and what it counts. -/
def convertTo (t : Fmt) (v : FV) : Nat × Conv :=
  match t with
  | .bf16 => toBf16 v
  | .e4m3 => toE4m3 v
  | .e5m2 => toE5m2 v
  | .int8 => toInt8 v

/-- Decode an element of format `t`. -/
def ofFmt (t : Fmt) (c : Nat) : FV :=
  match t with
  | .bf16 => ofBf16 c
  | .e4m3 => ofE4m3 c
  | .e5m2 => ofE5m2 c
  | .int8 => FV.int (ofInt8 c)

/-- Exact sum of a list of values. -/
def sumExact (xs : List FV) : FV := xs.foldl FV.add FV.zero

/-- Cut a list into chunks of `n` (fuel: the list's own length). -/
def chunksOf {α : Type} (n : Nat) : Nat → List α → List (List α)
  | 0, _ => []
  | _ + 1, [] => []
  | k + 1, xs => xs.take n :: chunksOf n k (xs.drop n)

/-- The accumulation of R141 over chunks: acc := rne32(acc + rne32(exact chunk sum)), from `acc0`. -/
def chunkSum (acc0 : FV) (chunks : List (List FV)) : FV :=
  chunks.foldl (fun acc c => rne32 (FV.add acc (rne32 (sumExact c)))) acc0

/-- R141's sum of terms taken 32 at a time from the start of the list, from +0. -/
def chunked32 (xs : List FV) : FV := chunkSum FV.zero (chunksOf 32 xs.length xs)

/-- ⌊log₂ x⌋ of a finite non-zero magnitude. -/
def floorLog2 (m : Nat) (e : Int) : Int := (Nat.log2 m : Int) + e

/-- rne_e2m1 of R173: round a finite value to FP4, beyond ±6 after rounding becomes ±6 (true: clamped). -/
def toE2m1 : FV → Nat × Bool
  | .fin n m e =>
    let (q, l) := rneMag 2 (-1) m e false
    let sg := if n then 8 else 0
    if FV.lt (.fin false 6 0) (.fin false q l) then (sg + 7, true) else (sg + packMag 1 (-1) q l, false)
  | .inf n => (if n then 15 else 7, true)
  | .nan => (7, false)

end Sys2Proof.Machine
end

