-- ==== Sys2Proof/Machine/Code.lean ====
section
/-! DEFINITION. The word code of R476 and R477, and the cyclic codes of R360 and R431.  A stored word carries the mask of its
flipped positions (bits 0 to 78 the codeword's positions, bit 79 the parity bit p); the syndromes of the received word
are those of the mask, since a codeword's own are zero. -/
namespace Sys2Proof.Machine

/-- XOR of naturals, bit by bit. -/
def nxor (a b : Nat) : Nat := Nat.xor a b

/-- Multiply by α in GF(2^7), α^7 = α^3 + 1 (R477). -/
def gfX (a : Nat) : Nat := if a * 2 < 128 then a * 2 else nxor (a * 2) 0x89

/-- Multiply in GF(2^7). -/
def gfMul (a b : Nat) : Nat :=
  ((List.range 7).foldl (fun (acc : Nat × Nat) i =>
    (if b / 2 ^ i % 2 = 1 then nxor acc.1 acc.2 else acc.1, gfX acc.2)) (0, a)).1

/-- α^0 … α^126. -/
def gfPowers : List Nat := ((List.range 127).foldl (fun (acc : List Nat × Nat) _ => (acc.2 :: acc.1, gfX acc.2)) ([], 1)).1.reverse

/-- α^j. -/
def gfPow (j : Nat) : Nat := gfPowers.getD (j % 127) 1

/-- What the checker of R477 finds. -/
inductive Finding where
  | clean
  /-- corrected: the positions still wrong after the correction (0 unless four or more bits were flipped) -/
  | fixed (rest : Nat)
  | bad
  deriving DecidableEq, Repr

/-- Positions of a mask that are set, of the first `n`. -/
def maskBits (m n : Nat) : List Nat := (List.range n).filter (fun i => decide (m / 2 ^ i % 2 = 1))

/-- The checker of R477 on the mask of flipped positions. -/
def checkCode (m : Nat) : Finding :=
  if m = 0 then .clean else
  let ps := maskBits m 79
  let s1 := ps.foldl (fun a j => nxor a (gfPow j)) 0
  let s3 := ps.foldl (fun a j => nxor a (gfPow (3 * j))) 0
  let e := (maskBits m 80).length % 2
  let cube := gfMul s1 (gfMul s1 s1)
  if s1 = 0 ∧ s3 = 0 then
    if e = 0 then .clean else .fixed (nxor m (2 ^ 79))
  else if s1 ≠ 0 ∧ s3 = cube then
    match (List.range 79).find? (fun j => decide (gfPow j = s1)) with
    | some j => .fixed (nxor (nxor m (2 ^ j)) (if e = 1 then 0 else 2 ^ 79))
    | none => .bad
  else if s1 ≠ 0 ∧ e = 0 then
    match (List.range 79).find? (fun j =>
        let o := nxor s1 (gfPow j)
        decide (o ≠ 0) && decide (nxor (gfPow (3 * j)) (gfMul o (gfMul o o)) = s3)) with
    | some j =>
      match (List.range 79).find? (fun k => decide (gfPow k = nxor s1 (gfPow j))) with
      | some k => .fixed (nxor (nxor m (2 ^ j)) (2 ^ k))
      | none => .bad
    | none => .bad
  else .bad

/-- Check bits of a word with its poison bit: the remainder of R476, and the 16-bit code field (p in bit 14, b in bit 15). -/
def wordCode (data : Word) (poison : Bool) : Nat :=
  let info := data.toNat * 2 ^ 14 + (if poison then 2 ^ 78 else 0)
  let r := (List.range 65).foldl (fun a i =>
    let p := 78 - i
    if a / 2 ^ p % 2 = 1 then nxor a (0x4377 * 2 ^ (p - 14)) else a) info
  let ones := (maskBits (info + r) 79).length
  r + (if ones % 2 = 1 then 2 ^ 14 else 0) + (if poison then 2 ^ 15 else 0)

/-- One byte into a CRC-64 (ECMA-182, most significant bit first, initial value 0, R360). -/
def crc64Byte (c b : Nat) : Nat :=
  (List.range 8).foldl (fun a _ =>
    if a / 2 ^ 63 % 2 = 1 then nxor (a * 2 % 2 ^ 64) 0x42F0E1EBA9EA3693 else a * 2 % 2 ^ 64) (nxor c (b * 2 ^ 56))

/-- CRC-64 of bytes. -/
def crc64 (bs : List Nat) : Nat := bs.foldl crc64Byte 0

/-- One byte into a CRC-32C (Castagnoli, reflected). -/
def crc32cByte (c b : Nat) : Nat :=
  (List.range 8).foldl (fun a _ => if a % 2 = 1 then nxor (a / 2) 0x82F63B78 else a / 2) (nxor c b)

/-- CRC-32C of bytes (initial value and final complement all ones). -/
def crc32c (bs : List Nat) : Nat := nxor (bs.foldl crc32cByte 0xFFFFFFFF) 0xFFFFFFFF

/-- Little-endian bytes of a number; the number of a list of bytes, most significant first, and least significant first. -/
def leBytes (v n : Nat) : List Nat := (List.range n).map (fun i => v / 256 ^ i % 256)
def numBE (bs : List Nat) : Nat := bs.foldl (fun a b => a * 256 + b) 0
def numLE (bs : List Nat) : Nat := numBE bs.reverse

end Sys2Proof.Machine
end

