-- ==== Sys2Proof/Machine/Cipher.lean ====
section
/-! DEFINITION. The cipher and the tag of a granule (17_memory_protection.md R478, R480, R481): AES-256, its XTS mode over the eight blocks of a granule
with the locator as tweak, and the GHASH tag.  The keys are what the key unit's generator gave, which nobody reads. -/
namespace Sys2Proof.Machine

/-! ### AES-256 on a block of sixteen bytes -/

/-- A byte times x, and the product of two bytes, in the field of AES. -/
def aesDouble (a : Nat) : Nat := nxor (a * 2 % 256) (if 128 ≤ a then 0x1B else 0)
def aesMul (a b : Nat) : Nat :=
  (List.range 8).foldl (fun p i => nxor (aesDouble p) (if b / 2 ^ (7 - i) % 2 = 1 then a else 0)) 0

/-- The power 254 of a byte: its inverse, and 0 for 0. -/
def aesInv (a : Nat) : Nat :=
  let p := (List.range 7).foldl (fun p _ => aesMul (aesMul p p) a) 1
  aesMul p p

/-- Exclusive or of a byte's left rotations by the numbers given. -/
def rotations (a : Nat) (rs : List Nat) : Nat := rs.foldl (fun x r => nxor x (a * 2 ^ r % 256 + a * 2 ^ r / 256)) 0

/-- Substitution of a byte, and its inverse. -/
def aesSub (a : Nat) : Nat := nxor (rotations (aesInv a) [0, 1, 2, 3, 4]) 0x63
def aesUnsub (a : Nat) : Nat := aesInv (nxor (rotations a [1, 3, 6]) 0x05)

/-- Byte by byte exclusive or. -/
def xorBytes (a b : List Nat) : List Nat := (a.zip b).map (fun p => nxor p.1 p.2)

/-- Row i mod 4 of column i / 4 of the block turned `k` columns for each row. -/
def turnRows (k : Nat) (b : List Nat) : List Nat := (List.range 16).map (fun i => b.getD ((i + 4 * k * (i % 4)) % 16) 0)

/-- Each column multiplied by the circulant matrix of a first row. -/
def mixColumns (m b : List Nat) : List Nat :=
  (List.range 16).map (fun i => (List.range 4).foldl (fun x k =>
    nxor x (aesMul (b.getD (i / 4 * 4 + (i + k) % 4) 0) (m.getD k 0))) 0)

/-- Key schedule: the words of four bytes that follow the last eight, latest first (`n` of them), and the whole, in order. -/
def aesExpand : Nat → List (List Nat) → List (List Nat)
  | 0, ws => ws
  | n + 1, ws =>
    let i := ws.length
    let t := ws.headD []
    let u := if i % 8 = 0 then
        let r := (t.drop 1 ++ t.take 1).map aesSub
        xorBytes r [(List.range (i / 8 - 1)).foldl (fun a _ => aesDouble a) 1, 0, 0, 0]
      else if i % 8 = 4 then t.map aesSub else t
    aesExpand n (xorBytes (ws.getD 7 []) u :: ws)

/-- The fifteen round keys of a key of 256 bits, taken with its first byte most significant. -/
def aesKeys (key : Nat) : List (List Nat) :=
  let ws := (List.range 8).map (fun i => (List.range 4).map (fun j => key / 256 ^ (31 - (4 * i + j)) % 256))
  let all := (aesExpand 52 ws.reverse).reverse
  (List.range 15).map (fun r => ((all.drop (4 * r)).take 4).flatten)

/-- A block enciphered, and deciphered, under the round keys. -/
def aesEncrypt (ks : List (List Nat)) (b : List Nat) : List Nat :=
  let mid := (List.range 13).foldl (fun x r =>
    xorBytes (mixColumns [2, 3, 1, 1] (turnRows 1 (x.map aesSub))) (ks.getD (r + 1) [])) (xorBytes b (ks.headD []))
  xorBytes (turnRows 1 (mid.map aesSub)) (ks.getD 14 [])
def aesDecrypt (ks : List (List Nat)) (b : List Nat) : List Nat :=
  let mid := (List.range 13).foldl (fun x r =>
    mixColumns [14, 11, 13, 9] (xorBytes ((turnRows 3 x).map aesUnsub) (ks.getD (13 - r) []))) (xorBytes b (ks.getD 14 []))
  xorBytes ((turnRows 3 mid).map aesUnsub) (ks.headD [])

/-! ### XTS and GHASH -/

/-- The bytes of a number, most significant first. -/
def beBytes (v n : Nat) : List Nat := (leBytes v n).reverse

/-- The tweak of the next block: times α. -/
def tweakNext (t : Nat) : Nat := nxor (t * 2 % 2 ^ 128) (if 2 ^ 127 ≤ t then 0x87 else 0)

/-- Blocks of sixteen bytes. -/
def blocks16 (n : Nat) (bs : List Nat) : List (List Nat) := (List.range n).map (fun i => (bs.drop (16 * i)).take 16)

/-- The 128 bytes of a granule through XTS at a locator; `way` is the cipher's direction (R480). -/
def xts (way : List (List Nat) → List Nat → List Nat) (k1 k2 loc : Nat) (bs : List Nat) : List Nat :=
  let ks := aesKeys k1
  ((blocks16 8 bs).foldl (fun (a : List Nat × Nat) b =>
      let t := leBytes a.2 16
      (a.1 ++ xorBytes (way ks (xorBytes b t)) t, tweakNext a.2))
    ([], numLE (aesEncrypt (aesKeys k2) (leBytes loc 16)))).1

/-- Product of two blocks in the field of GHASH, whose first bit is the coefficient of 1. -/
def ghashMul (x h : Nat) : Nat :=
  ((List.range 128).foldl (fun (a : Nat × Nat) i =>
      (if x / 2 ^ (127 - i) % 2 = 1 then nxor a.1 a.2 else a.1, nxor (a.2 / 2) (if a.2 % 2 = 1 then 0xE1 * 2 ^ 120 else 0)))
    (0, h)).1
def ghash (h : Nat) (xs : List Nat) : Nat := xs.foldl (fun y x => ghashMul (nxor y x) h) 0

/-- The tag of a granule's ciphertext at a locator under an epoch: the first 64 bits, as the word they are stored as (R481). -/
def tagOf (kt loc epoch : Nat) (cipher : List Nat) : Word :=
  let ks := aesKeys kt
  let x9 := beBytes loc 8 ++ beBytes epoch 4 ++ [0, 0, 0, 0]
  let y := ghash (numBE (aesEncrypt ks (List.replicate 16 0))) ((blocks16 8 cipher ++ [x9]).map numBE)
  BitVec.ofNat 64 (numLE ((aesEncrypt ks (beBytes y 16)).take 8))

/-! ### Key sets and granules -/

/-- A key set: the cold resets before it, and the session epoch it carries, or the platform set, which tags with epoch 0 (R478, R479, R481). -/
structure KeySet where
  gen : Nat
  plat : Bool
  epoch : Nat
  deriving DecidableEq, Repr

/-- The keys K1, K2 and KT of a set (R478): whatever the generator gave, K2 never K1 (log entry 7). -/
def KeySet.key (k : KeySet) (n : Nat) : Nat :=
  let d (i : Nat) : Nat := Config.keyBits k.gen (if k.plat then 0 else k.epoch + 1) i % 2 ^ 256
  if n = 1 ∧ d 1 = d 0 then nxor (d 1) 1 else d n

/-- The bytes of words, and back. -/
def wordBytes (ws : List Word) : List Nat := ws.flatMap (fun w => leBytes w.toNat 8)
def bytesWords (n : Nat) (bs : List Nat) : List Word := (List.range n).map (fun i => BitVec.ofNat 64 (numLE ((bs.drop (8 * i)).take 8)))

/-- The `n` bytes at byte offset `at_` of a word list, little-endian; they lie in one word. -/
def wordsFld (ws : List Word) (at_ n : Nat) : Nat := (ws.getD (at_ / 8) 0#64).toNat / 2 ^ (8 * (at_ % 8)) % 2 ^ (8 * n)

/-- A granule of sixteen words enciphered, deciphered and tagged at a locator. -/
def KeySet.seal (k : KeySet) (loc : Nat) (ws : List Word) : List Word := bytesWords 16 (xts aesEncrypt (k.key 0) (k.key 1) loc (wordBytes ws))
def KeySet.open_ (k : KeySet) (loc : Nat) (ws : List Word) : List Word := bytesWords 16 (xts aesDecrypt (k.key 0) (k.key 1) loc (wordBytes ws))
def KeySet.tag (k : KeySet) (loc : Nat) (cipher : List Word) : Word := tagOf (k.key 2) loc (if k.plat then 0 else k.epoch) (wordBytes cipher)

/-- The sixteen words of granule j of a longer list, with zeros beyond its end. -/
def granWords (ws : List Word) (j : Nat) : List Word := (List.range 16).map (fun i => ws.getD (16 * j + i) 0#64)

/-- The first `n` granules of a list through `op` at the locators from `loc` on, and their tags (R491). -/
def granRun (n loc : Nat) (op : Nat → List Word → List Word) (ws : List Word) : List Word :=
  (List.range n).flatMap (fun j => op (loc + j) (granWords ws j))
def KeySet.tags (k : KeySet) (n loc : Nat) (cipher : List Word) : List Word :=
  (List.range n).map (fun j => k.tag (loc + j) (granWords cipher j))

end Sys2Proof.Machine
end

