-- ==== Sys2Proof/Machine/Regs.lean ====
section
/-! DEFINITION. The registers of the block, written from the register tables of spec/ (each chapter's "Registers"
section): offset, reset domain, every field's place, access code and reset value.  Values that the spec marks "fuse" or
"nv" have no number in the spec: the numbers here are those of log entries 1 (fuses) and 2 (nv).  The access codes
are those of 00_scope.md; who may write a field is R589 of 22_host_reset_startup.md. -/
namespace Sys2Proof.Machine

/-- Access codes of 00_scope.md. -/
inductive Acc where
  | ro | rw | w1c | w1s | wo | rc
  deriving DecidableEq, Repr

/-- Through which function a write of a field takes effect (R589 and the field's own table). -/
inductive Path where
  /-- PF0 only: every field that no other mark names. -/
  | pf0
  /-- PF0 and PF1: the registers that R589 names. -/
  | pf01
  /-- PF1 only. -/
  | pf1
  /-- PF1, or WRITE_REG over the management network (22_host_reset_startup.md, Registers). -/
  | pf1m
  /-- WRITE_REG over the management network only. -/
  | mgmt
  /-- PF0 and PF2: the registers that R589 names. -/
  | pf02
  /-- PF2 only: the PF2 function page. -/
  | pf2
  /-- As R558 states for the injection slots. -/
  | inj
  deriving DecidableEq, Repr

/-- Reset domains (R593). -/
inductive Dom where
  | cold | warm | function | face | link
  deriving DecidableEq, Repr

/-- The registers. -/
inductive RegId where
  | PLT_CAP_FACES
  | PLT_CAP_UNITS
  | PLT_FACE_MAP
  | SYN_TICK_PERIOD
  | SYN_COMMIT_WINDOW
  | SYN_TICK_LEAD
  | SYN_HAND_NUM
  | SYN_HAND_COMMITTED
  | SYN_HAND_COUNTS
  | SYN_BATCH_CTL
  | FCE_HAND_WARN
  | FCE_HAND_STATE
  | MSH_CFG
  | MSH_PAIR_SHARE
  | MSH_ERR
  | MSH_RING_STAT
  | MSH_ROUTER_STAT
  | ARF_CFG
  | ARF_VEC_STAT
  | ARF_SPLIT_STAT
  | ARF_WSMAP_LO
  | ARF_WSMAP_HI
  | BLK_ARRAY_MAP
  | BLK_SPARE
  | BLK_ARRAY_STATE
  | BLK_MASS_A
  | BLK_MASS_B
  | ARF_ESC_STAT
  | ARF_REPEAT_STAT
  | ARF_OUT_STAT
  | ARF_PIN_CTL
  | ARF_PIN_STAT
  | ARF_PIN
  | ARF_LAYER_STAT
  | BLK_ACC_STAT
  | ARF_SPALL
  | ARF_SPALL_STAT
  | FIN_OP_STAT
  | FIN_NUM_STAT
  | FIN_BUSY
  | SCO_OP_STAT
  | SCO_NUM_STAT
  | SCO_GATHER_STAT
  | SCO_BUSY
  | VEC_OP_STAT
  | VEC_NUM_STAT
  | SPD_CACHE_CFG
  | SPD_RES_G0
  | SPD_RES_G1
  | SPD_SB_STAT
  | SPD_CONFLICT
  | SPD_CACHE_STAT
  | SPD_ERR
  | SPD_SCRUB
  | FCE_PROG_CTL
  | FCE_PROG_SRC
  | FCE_PROG_STATE
  | FCE_TRAP_STAT
  | FCE_HOST_CALL
  | FCE_HOST_CALL_ARG
  | FCE_HOST_CALL_RESULT
  | FCE_ISSUE_STAT
  | FCE_STORE_ERR
  | FCE_MOVE_STAT
  | ARF_PROG_GRANT
  | ARF_PROG_STAT
  | SYN_CTR_SIG
  | SYN_MIRROR
  | SYN_FACE_STAT
  | SYN_CTR_VAL
  | SYN_CTR_NOTIFY
  | SYN_WIN_CFG
  | SYN_WIN_EPOCH
  | SYN_WIN_STATE
  | SYN_WIN_STAT
  | SYN_TRICK_CFG
  | SYN_DTRICK_CFG
  | PLT_WIMG_CTL
  | PLT_WIMG_SRC
  | PLT_WIMG_STATE
  | PLT_PUT_SRC
  | PLT_PUT_DST
  | PLT_PUT_CTL
  | PLT_BUILD_CTL
  | PLT_CUT_CTL
  | PLT_CUT_HAND
  | PLT_CUT_STATE
  | PLT_PROG_STAT
  | PLT_DIGEST_CFG
  | PLT_TALLY_STAT
  | ARF_WSVER
  | BLK_WEAR
  | SRV_MODE
  | SRV_ADMIT
  | SRV_MODEL
  | SRV_VOCAB
  | SRV_PAGE_CFG
  | SRV_FACE_PAGES
  | SRV_FACE_SEALS
  | SRV_STOCK_CFG
  | SRV_STOCK_BASE
  | SRV_STOCK_SLOTS
  | SRV_FREE
  | SRV_HELD
  | SRV_STAT
  | SRV_PFX_CTL
  | SRV_PFX_SRC
  | SRV_PFX_STATE
  | SRV_RING_SQ
  | SRV_RING_CQ
  | SRV_RING_CTL
  | SRV_RING_STAT
  | SRV_SEAT
  | DLR_CFG
  | DLR_EOS
  | DLR_GRAM_SRC
  | DLR_GRAM_CTL
  | DLR_GRAM_STATE
  | DLR_STAT
  | DLR_DRAFT_STAT
  | DLR_BUSY
  | LNK_DEV_ADDR
  | LNK_TREE
  | LNK_TIME_STAT
  | LNK_BYP_CTL
  | LNK_BYP_HAND
  | LNK_ROUTE
  | LNK_PORT_CTL
  | LNK_PORT_STATE
  | LNK_LANE_STATE
  | LNK_LANE_CFG
  | LNK_PORT_STAT
  | LNK_PARCEL_STAT
  | SYN_ROLE
  | SYN_ROLE_CAND
  | SYN_DOMAIN_CFG
  | SYN_JOIN_CTL
  | SYN_JOIN_HAND
  | SYN_RETIRE_CTL
  | SYN_DOMAIN_STAT
  | SYN_REPLICA
  | MEM_WREG
  | MEM_SREG
  | MEM_ERR
  | MEM_SCRUB
  | MEM_STOCK_META
  | MEM_STOCK_STAT
  | KEY_STATE
  | KEY_ROT_CTL
  | KEY_SWEEP_CFG
  | KEY_SWEEP_STAT
  | KEY_SESSION
  | KEY_SESSION_CTL
  | KEY_RELEASE_HAND
  | PLT_LIFECYCLE
  | PLT_WIMG_FLOOR
  | PLT_DBG_CTL
  | PLT_DBG_DATA
  | CAL_CFG
  | CAL_REQ
  | CAL_STAT
  | CAL_MON_CFG
  | CAL_DUP_CFG
  | CAL_DUP_STAT
  | CAL_LANE_CFG
  | CAL_BLK_STATE
  | CAL_LANE_STATE
  | FLT_CFG
  | FLT_STATUS
  | FLT_FATAL
  | FLT_LOG_CFG
  | FLT_LOG_NEXT
  | FLT_LOG_READ
  | FLT_LOG_DATA
  | FLT_HOST_RING
  | FLT_HOST_HEAD
  | FLT_HIST_STAT
  | FLT_HIST_QUERY
  | FLT_HIST_CLEAR
  | FLT_INJ_CTL
  | FLT_INJ_UNIT
  | FLT_PROBE_STAT
  | PWR_DOM_REQ
  | PWR_DOM_STATE
  | PWR_DOM_STAT
  | PWR_LIMIT
  | PWR_GOV
  | PWR_STAT
  | PWR_FACE_CLK
  | PWR_DROOP_CFG
  | PWR_DROOP_STAT
  | THM_CFG
  | THM_STATUS
  | THM_SENSOR
  | HKC_CTL
  | HKC_STAT
  | HKC_SEQ
  | HKC_RESULT
  | HKC_CAL
  | PLT_BOOT_STATE
  | PLT_BOOT_CTL
  | PLT_RESET_CTL
  | PLT_FACE_RESET
  | HIF_LINK
  | HIF_DB_STAT
  | HIF_RESET_STAT
  | HIF_PF2_APERTURE
  | PLT_RAIL_STAT
  deriving DecidableEq, Repr

/-- A field: its register, its lowest bit and its width. -/
structure Fld where
  reg : RegId
  lo : Nat
  wd : Nat
  deriving DecidableEq, Repr

/-- One row of a register table. -/
structure FieldInfo where
  lo : Nat
  wd : Nat
  acc : Acc
  path : Path
  deriving DecidableEq, Repr

/-- A register table's heading: PF0 BAR0 offset of instance 0, (count, stride) of each index from the outermost, reset
domain; and its fields. -/
structure RegInfo where
  base : Nat
  dims : List (Nat × Nat)
  dom : Dom
  fields : List FieldInfo
  deriving DecidableEq, Repr

/-- `n` fields of one shape, `st` bits apart. -/
def repFields (n st : Nat) (f : FieldInfo) : List FieldInfo :=
  (List.range n).map (fun j => { f with lo := f.lo + j * st })

namespace R
def PLT_CAP_FACES.LOGICAL : Fld := ⟨.PLT_CAP_FACES, 0, 8⟩
def PLT_CAP_FACES.FUSED : Fld := ⟨.PLT_CAP_FACES, 8, 8⟩
def PLT_CAP_FACES.COUNT : Fld := ⟨.PLT_CAP_FACES, 16, 4⟩
def PLT_CAP_FACES.DOWN : Fld := ⟨.PLT_CAP_FACES, 24, 8⟩
def PLT_CAP_UNITS.REACH : Fld := ⟨.PLT_CAP_UNITS, 0, 1⟩
def PLT_CAP_UNITS.HBM_SECOND : Fld := ⟨.PLT_CAP_UNITS, 1, 1⟩
def PLT_CAP_UNITS.STACKS : Fld := ⟨.PLT_CAP_UNITS, 8, 8⟩
def PLT_CAP_UNITS.LANES : Fld := ⟨.PLT_CAP_UNITS, 16, 8⟩
def PLT_CAP_UNITS.PORTS : Fld := ⟨.PLT_CAP_UNITS, 24, 8⟩
def PLT_FACE_MAP.PHYS (j : Nat) : Fld := ⟨.PLT_FACE_MAP, 0 + 8 * j, 3⟩
def PLT_FACE_MAP.HOME (j : Nat) : Fld := ⟨.PLT_FACE_MAP, 4 + 8 * j, 3⟩
def PLT_FACE_MAP.VALID (j : Nat) : Fld := ⟨.PLT_FACE_MAP, 7 + 8 * j, 1⟩
def SYN_TICK_PERIOD.PERIOD : Fld := ⟨.SYN_TICK_PERIOD, 0, 24⟩
def SYN_COMMIT_WINDOW.WINDOW : Fld := ⟨.SYN_COMMIT_WINDOW, 0, 24⟩
def SYN_TICK_LEAD.LEAD : Fld := ⟨.SYN_TICK_LEAD, 0, 15⟩
def SYN_HAND_NUM.HAND : Fld := ⟨.SYN_HAND_NUM, 0, 64⟩
def SYN_HAND_COMMITTED.HAND : Fld := ⟨.SYN_HAND_COMMITTED, 0, 64⟩
def SYN_HAND_COUNTS.MISDEALS : Fld := ⟨.SYN_HAND_COUNTS, 0, 16⟩
def SYN_HAND_COUNTS.MISSED : Fld := ⟨.SYN_HAND_COUNTS, 16, 16⟩
def SYN_HAND_COUNTS.LATE_NOTICE : Fld := ⟨.SYN_HAND_COUNTS, 32, 16⟩
def SYN_HAND_COUNTS.WINDOW_FULL : Fld := ⟨.SYN_HAND_COUNTS, 48, 16⟩
def SYN_BATCH_CTL.SHRINK : Fld := ⟨.SYN_BATCH_CTL, 0, 4⟩
def SYN_BATCH_CTL.REGROW : Fld := ⟨.SYN_BATCH_CTL, 8, 16⟩
def SYN_BATCH_CTL.MIN_SEATS : Fld := ⟨.SYN_BATCH_CTL, 24, 12⟩
def SYN_BATCH_CTL.EMPTY_EN : Fld := ⟨.SYN_BATCH_CTL, 36, 1⟩
def FCE_HAND_WARN.MARGIN : Fld := ⟨.FCE_HAND_WARN, 0, 20⟩
def FCE_HAND_STATE.SLACK : Fld := ⟨.FCE_HAND_STATE, 0, 24⟩
def FCE_HAND_STATE.OVERRUN : Fld := ⟨.FCE_HAND_STATE, 24, 1⟩
def FCE_HAND_STATE.REPEAT : Fld := ⟨.FCE_HAND_STATE, 25, 1⟩
def FCE_HAND_STATE.OVERRUNS : Fld := ⟨.FCE_HAND_STATE, 32, 16⟩
def MSH_CFG.REMOTE_MIN : Fld := ⟨.MSH_CFG, 0, 4⟩
def MSH_PAIR_SHARE.PAIR (j : Nat) : Fld := ⟨.MSH_PAIR_SHARE, 0 + 8 * j, 4⟩
def MSH_ERR.CORRECTED : Fld := ⟨.MSH_ERR, 0, 16⟩
def MSH_ERR.POISONED : Fld := ⟨.MSH_ERR, 16, 16⟩
def MSH_ERR.UNCORRECTABLE : Fld := ⟨.MSH_ERR, 32, 16⟩
def MSH_ERR.LAST_ROUTER : Fld := ⟨.MSH_ERR, 48, 3⟩
def MSH_ERR.LAST_VALID : Fld := ⟨.MSH_ERR, 51, 1⟩
def MSH_RING_STAT.MAX_WAIT : Fld := ⟨.MSH_RING_STAT, 0, 6⟩
def MSH_RING_STAT.MESSAGES : Fld := ⟨.MSH_RING_STAT, 16, 32⟩
def MSH_RING_STAT.CORRECTED : Fld := ⟨.MSH_RING_STAT, 48, 8⟩
def MSH_ROUTER_STAT.BEATS : Fld := ⟨.MSH_ROUTER_STAT, 0, 32⟩
def MSH_ROUTER_STAT.STALLS : Fld := ⟨.MSH_ROUTER_STAT, 32, 32⟩
def ARF_CFG.MASS_EN : Fld := ⟨.ARF_CFG, 0, 1⟩
def ARF_CFG.UNIFORM_EN : Fld := ⟨.ARF_CFG, 1, 1⟩
def ARF_VEC_STAT.VECTORS : Fld := ⟨.ARF_VEC_STAT, 0, 32⟩
def ARF_VEC_STAT.UNIFORM : Fld := ⟨.ARF_VEC_STAT, 32, 32⟩
def ARF_SPLIT_STAT.TO_B1 : Fld := ⟨.ARF_SPLIT_STAT, 0, 16⟩
def ARF_SPLIT_STAT.TO_B2 : Fld := ⟨.ARF_SPLIT_STAT, 16, 16⟩
def ARF_SPLIT_STAT.TO_B3 : Fld := ⟨.ARF_SPLIT_STAT, 32, 16⟩
def ARF_SPLIT_STAT.OVR_VECTORS : Fld := ⟨.ARF_SPLIT_STAT, 48, 16⟩
def ARF_WSMAP_LO.VALID : Fld := ⟨.ARF_WSMAP_LO, 0, 1⟩
def ARF_WSMAP_LO.LIVE : Fld := ⟨.ARF_WSMAP_LO, 1, 1⟩
def ARF_WSMAP_LO.A_READY : Fld := ⟨.ARF_WSMAP_LO, 2, 1⟩
def ARF_WSMAP_LO.B_READY : Fld := ⟨.ARF_WSMAP_LO, 3, 1⟩
def ARF_WSMAP_LO.FORMAT : Fld := ⟨.ARF_WSMAP_LO, 4, 2⟩
def ARF_WSMAP_LO.K : Fld := ⟨.ARF_WSMAP_LO, 6, 7⟩
def ARF_WSMAP_LO.N : Fld := ⟨.ARF_WSMAP_LO, 13, 7⟩
def ARF_WSMAP_LO.BLOCKS : Fld := ⟨.ARF_WSMAP_LO, 20, 6⟩
def ARF_WSMAP_LO.ROWS_LAST : Fld := ⟨.ARF_WSMAP_LO, 26, 10⟩
def ARF_WSMAP_LO.COLS_LAST : Fld := ⟨.ARF_WSMAP_LO, 36, 9⟩
def ARF_WSMAP_LO.LAYER : Fld := ⟨.ARF_WSMAP_LO, 45, 8⟩
def ARF_WSMAP_HI.A_BLOCK : Fld := ⟨.ARF_WSMAP_HI, 0, 6⟩
def ARF_WSMAP_HI.A_SLOT : Fld := ⟨.ARF_WSMAP_HI, 6, 6⟩
def ARF_WSMAP_HI.B_BLOCK : Fld := ⟨.ARF_WSMAP_HI, 32, 6⟩
def ARF_WSMAP_HI.B_SLOT : Fld := ⟨.ARF_WSMAP_HI, 38, 6⟩
def BLK_ARRAY_MAP.PHYS (j : Nat) : Fld := ⟨.BLK_ARRAY_MAP, 0 + 8 * j, 7⟩
def BLK_ARRAY_MAP.VALID (j : Nat) : Fld := ⟨.BLK_ARRAY_MAP, 7 + 8 * j, 1⟩
def BLK_SPARE.CHECK : Fld := ⟨.BLK_SPARE, 0, 7⟩
def BLK_SPARE.CHECK_VALID : Fld := ⟨.BLK_SPARE, 7, 1⟩
def BLK_SPARE.UNDER : Fld := ⟨.BLK_SPARE, 8, 7⟩
def BLK_SPARE.UNDER_VALID : Fld := ⟨.BLK_SPARE, 15, 1⟩
def BLK_SPARE.FREE : Fld := ⟨.BLK_SPARE, 16, 4⟩
def BLK_SPARE.EXHAUSTED : Fld := ⟨.BLK_SPARE, 20, 1⟩
def BLK_ARRAY_STATE.STATE : Fld := ⟨.BLK_ARRAY_STATE, 0, 3⟩
def BLK_ARRAY_STATE.ROWS_SPARED : Fld := ⟨.BLK_ARRAY_STATE, 3, 4⟩
def BLK_ARRAY_STATE.COLS_SPARED : Fld := ⟨.BLK_ARRAY_STATE, 7, 8⟩
def BLK_ARRAY_STATE.CONV_SPARED : Fld := ⟨.BLK_ARRAY_STATE, 15, 1⟩
def BLK_ARRAY_STATE.CONV_REPLACED : Fld := ⟨.BLK_ARRAY_STATE, 16, 3⟩
def BLK_ARRAY_STATE.PIN3 : Fld := ⟨.BLK_ARRAY_STATE, 19, 1⟩
def BLK_ARRAY_STATE.CONV_SPARE_BAD : Fld := ⟨.BLK_ARRAY_STATE, 20, 1⟩
def BLK_ARRAY_STATE.OVR_COLUMNS : Fld := ⟨.BLK_ARRAY_STATE, 32, 16⟩
def BLK_MASS_A.B0 : Fld := ⟨.BLK_MASS_A, 0, 13⟩
def BLK_MASS_A.B1G0 : Fld := ⟨.BLK_MASS_A, 16, 12⟩
def BLK_MASS_A.B1G1 : Fld := ⟨.BLK_MASS_A, 32, 12⟩
def BLK_MASS_B.B2G0 : Fld := ⟨.BLK_MASS_B, 0, 9⟩
def BLK_MASS_B.B2G1 : Fld := ⟨.BLK_MASS_B, 16, 9⟩
def BLK_MASS_B.B2G2 : Fld := ⟨.BLK_MASS_B, 32, 9⟩
def BLK_MASS_B.B2G3 : Fld := ⟨.BLK_MASS_B, 48, 9⟩
def ARF_ESC_STAT.OVR : Fld := ⟨.ARF_ESC_STAT, 0, 16⟩
def ARF_ESC_STAT.MONITOR : Fld := ⟨.ARF_ESC_STAT, 16, 16⟩
def ARF_ESC_STAT.DUP_MISMATCH : Fld := ⟨.ARF_ESC_STAT, 32, 16⟩
def ARF_ESC_STAT.LATE_MASS : Fld := ⟨.ARF_ESC_STAT, 48, 16⟩
def ARF_REPEAT_STAT.TO_B1 : Fld := ⟨.ARF_REPEAT_STAT, 0, 16⟩
def ARF_REPEAT_STAT.TO_B2 : Fld := ⟨.ARF_REPEAT_STAT, 16, 16⟩
def ARF_REPEAT_STAT.TO_B3 : Fld := ⟨.ARF_REPEAT_STAT, 32, 16⟩
def ARF_REPEAT_STAT.UNRESOLVED : Fld := ⟨.ARF_REPEAT_STAT, 48, 16⟩
def ARF_OUT_STAT.BF16_SAT : Fld := ⟨.ARF_OUT_STAT, 0, 16⟩
def ARF_OUT_STAT.INT8_SAT : Fld := ⟨.ARF_OUT_STAT, 16, 16⟩
def ARF_OUT_STAT.BAD_SCALE : Fld := ⟨.ARF_OUT_STAT, 32, 16⟩
def ARF_PIN_CTL.WINDOW : Fld := ⟨.ARF_PIN_CTL, 0, 16⟩
def ARF_PIN_CTL.RATE : Fld := ⟨.ARF_PIN_CTL, 16, 16⟩
def ARF_PIN_CTL.MIN_PASSES : Fld := ⟨.ARF_PIN_CTL, 32, 24⟩
def ARF_PIN_CTL.PIN_MAX : Fld := ⟨.ARF_PIN_CTL, 56, 2⟩
def ARF_PIN_STAT.LAST_LAYER : Fld := ⟨.ARF_PIN_STAT, 0, 8⟩
def ARF_PIN_STAT.LAST_BENCH : Fld := ⟨.ARF_PIN_STAT, 8, 2⟩
def ARF_PIN_STAT.VALID : Fld := ⟨.ARF_PIN_STAT, 10, 1⟩
def ARF_PIN_STAT.CAPPED : Fld := ⟨.ARF_PIN_STAT, 11, 1⟩
def ARF_PIN_STAT.PINS : Fld := ⟨.ARF_PIN_STAT, 16, 16⟩
def ARF_PIN_STAT.CAPS : Fld := ⟨.ARF_PIN_STAT, 32, 16⟩
def ARF_PIN.PIN (j : Nat) : Fld := ⟨.ARF_PIN, 0 + 2 * j, 2⟩
def ARF_LAYER_STAT.PASSES : Fld := ⟨.ARF_LAYER_STAT, 0, 32⟩
def ARF_LAYER_STAT.ESCALATIONS : Fld := ⟨.ARF_LAYER_STAT, 32, 32⟩
def BLK_ACC_STAT.CARRY_WAIT : Fld := ⟨.BLK_ACC_STAT, 0, 32⟩
def BLK_ACC_STAT.REPEATS : Fld := ⟨.BLK_ACC_STAT, 32, 16⟩
def BLK_ACC_STAT.WIDE_SAT : Fld := ⟨.BLK_ACC_STAT, 48, 1⟩
def ARF_SPALL.COUNT : Fld := ⟨.ARF_SPALL, 0, 7⟩
def ARF_SPALL.CLIP : Fld := ⟨.ARF_SPALL, 7, 8⟩
def ARF_SPALL.CLIP_LIMIT : Fld := ⟨.ARF_SPALL, 15, 10⟩
def ARF_SPALL.TABLE : Fld := ⟨.ARF_SPALL, 32, 18⟩
def ARF_SPALL.LOADED : Fld := ⟨.ARF_SPALL, 63, 1⟩
def ARF_SPALL_STAT.SPALLED : Fld := ⟨.ARF_SPALL_STAT, 0, 16⟩
def ARF_SPALL_STAT.CLIPPED : Fld := ⟨.ARF_SPALL_STAT, 16, 16⟩
def ARF_SPALL_STAT.CLIP_ESC : Fld := ⟨.ARF_SPALL_STAT, 32, 16⟩
def ARF_SPALL_STAT.SPALL_WAIT : Fld := ⟨.ARF_SPALL_STAT, 48, 16⟩
def FIN_OP_STAT.FINES : Fld := ⟨.FIN_OP_STAT, 0, 16⟩
def FIN_OP_STAT.BENCH3 : Fld := ⟨.FIN_OP_STAT, 16, 16⟩
def FIN_OP_STAT.PREEMPT : Fld := ⟨.FIN_OP_STAT, 32, 16⟩
def FIN_NUM_STAT.NAN_OUT : Fld := ⟨.FIN_NUM_STAT, 0, 16⟩
def FIN_NUM_STAT.SAT_OUT : Fld := ⟨.FIN_NUM_STAT, 16, 16⟩
def FIN_NUM_STAT.INT32_SAT : Fld := ⟨.FIN_NUM_STAT, 32, 16⟩
def FIN_NUM_STAT.INF_OUT : Fld := ⟨.FIN_NUM_STAT, 48, 16⟩
def FIN_BUSY.BUSY : Fld := ⟨.FIN_BUSY, 0, 32⟩
def FIN_BUSY.PORT_STALL : Fld := ⟨.FIN_BUSY, 32, 32⟩
def SCO_OP_STAT.SCORES : Fld := ⟨.SCO_OP_STAT, 0, 16⟩
def SCO_OP_STAT.APPENDS : Fld := ⟨.SCO_OP_STAT, 16, 16⟩
def SCO_OP_STAT.TOKENS : Fld := ⟨.SCO_OP_STAT, 32, 32⟩
def SCO_NUM_STAT.NAN_ROWS : Fld := ⟨.SCO_NUM_STAT, 0, 16⟩
def SCO_NUM_STAT.EMPTY_ROWS : Fld := ⟨.SCO_NUM_STAT, 16, 16⟩
def SCO_NUM_STAT.FP8_SAT : Fld := ⟨.SCO_NUM_STAT, 32, 16⟩
def SCO_NUM_STAT.KV4_CLAMP : Fld := ⟨.SCO_NUM_STAT, 48, 16⟩
def SCO_GATHER_STAT.KIB : Fld := ⟨.SCO_GATHER_STAT, 0, 32⟩
def SCO_GATHER_STAT.CACHE_HITS : Fld := ⟨.SCO_GATHER_STAT, 32, 16⟩
def SCO_GATHER_STAT.SEAL_FAIL : Fld := ⟨.SCO_GATHER_STAT, 48, 8⟩
def SCO_GATHER_STAT.POISONED : Fld := ⟨.SCO_GATHER_STAT, 56, 8⟩
def SCO_BUSY.BUSY : Fld := ⟨.SCO_BUSY, 0, 32⟩
def SCO_BUSY.GATHER_WAIT : Fld := ⟨.SCO_BUSY, 32, 32⟩
def VEC_OP_STAT.OPS : Fld := ⟨.VEC_OP_STAT, 0, 16⟩
def VEC_OP_STAT.BUSY : Fld := ⟨.VEC_OP_STAT, 16, 32⟩
def VEC_NUM_STAT.NAN_OUT : Fld := ⟨.VEC_NUM_STAT, 0, 16⟩
def VEC_NUM_STAT.SAT_OUT : Fld := ⟨.VEC_NUM_STAT, 16, 16⟩
def VEC_NUM_STAT.QUANT_CLAMP : Fld := ⟨.VEC_NUM_STAT, 32, 16⟩
def VEC_NUM_STAT.INF_OUT : Fld := ⟨.VEC_NUM_STAT, 48, 16⟩
def SPD_CACHE_CFG.REQ : Fld := ⟨.SPD_CACHE_CFG, 0, 4⟩
def SPD_CACHE_CFG.ACTIVE : Fld := ⟨.SPD_CACHE_CFG, 4, 4⟩
def SPD_CACHE_CFG.PENDING : Fld := ⟨.SPD_CACHE_CFG, 8, 1⟩
def SPD_RES_G0.SEG : Fld := ⟨.SPD_RES_G0, 0, 48⟩
def SPD_RES_G1.SEG : Fld := ⟨.SPD_RES_G1, 0, 48⟩
def SPD_SB_STAT.HAZARD : Fld := ⟨.SPD_SB_STAT, 0, 32⟩
def SPD_SB_STAT.FULL : Fld := ⟨.SPD_SB_STAT, 32, 24⟩
def SPD_SB_STAT.MAX_USED : Fld := ⟨.SPD_SB_STAT, 56, 7⟩
def SPD_CONFLICT.G (j : Nat) : Fld := ⟨.SPD_CONFLICT, 0 + 16 * j, 16⟩
def SPD_CACHE_STAT.HITS : Fld := ⟨.SPD_CACHE_STAT, 0, 24⟩
def SPD_CACHE_STAT.MISSES : Fld := ⟨.SPD_CACHE_STAT, 24, 24⟩
def SPD_CACHE_STAT.INVALIDATES : Fld := ⟨.SPD_CACHE_STAT, 48, 16⟩
def SPD_ERR.CORRECTED : Fld := ⟨.SPD_ERR, 0, 16⟩
def SPD_ERR.UNCORRECTABLE : Fld := ⟨.SPD_ERR, 16, 12⟩
def SPD_ERR.POISON_READ : Fld := ⟨.SPD_ERR, 28, 12⟩
def SPD_ERR.UNMAPPED : Fld := ⟨.SPD_ERR, 40, 8⟩
def SPD_ERR.RESIDENT_WRITE : Fld := ⟨.SPD_ERR, 48, 8⟩
def SPD_SCRUB.INTERVAL : Fld := ⟨.SPD_SCRUB, 0, 16⟩
def SPD_SCRUB.LAP : Fld := ⟨.SPD_SCRUB, 16, 1⟩
def FCE_PROG_CTL.LOAD : Fld := ⟨.FCE_PROG_CTL, 0, 1⟩
def FCE_PROG_CTL.ACTIVATE : Fld := ⟨.FCE_PROG_CTL, 1, 1⟩
def FCE_PROG_CTL.HOLD : Fld := ⟨.FCE_PROG_CTL, 2, 1⟩
def FCE_PROG_CTL.UNLOAD : Fld := ⟨.FCE_PROG_CTL, 3, 1⟩
def FCE_PROG_CTL.WORDS : Fld := ⟨.FCE_PROG_CTL, 4, 18⟩
def FCE_PROG_SRC.ADDR : Fld := ⟨.FCE_PROG_SRC, 12, 52⟩
def FCE_PROG_STATE.STATE : Fld := ⟨.FCE_PROG_STATE, 0, 3⟩
def FCE_PROG_STATE.PENDING : Fld := ⟨.FCE_PROG_STATE, 3, 1⟩
def FCE_PROG_STATE.REFUSE : Fld := ⟨.FCE_PROG_STATE, 8, 4⟩
def FCE_PROG_STATE.REFUSE_DETAIL : Fld := ⟨.FCE_PROG_STATE, 16, 16⟩
def FCE_PROG_STATE.HANDS : Fld := ⟨.FCE_PROG_STATE, 32, 32⟩
def FCE_TRAP_STAT.LAST_VECTOR : Fld := ⟨.FCE_TRAP_STAT, 0, 8⟩
def FCE_TRAP_STAT.LAST_PC : Fld := ⟨.FCE_TRAP_STAT, 8, 17⟩
def FCE_TRAP_STAT.VALID : Fld := ⟨.FCE_TRAP_STAT, 25, 1⟩
def FCE_TRAP_STAT.DOUBLE : Fld := ⟨.FCE_TRAP_STAT, 26, 1⟩
def FCE_TRAP_STAT.FAULTS : Fld := ⟨.FCE_TRAP_STAT, 32, 16⟩
def FCE_TRAP_STAT.WARNINGS : Fld := ⟨.FCE_TRAP_STAT, 48, 16⟩
def FCE_HOST_CALL.REQ : Fld := ⟨.FCE_HOST_CALL, 0, 1⟩
def FCE_HOST_CALL.PENDING : Fld := ⟨.FCE_HOST_CALL, 1, 1⟩
def FCE_HOST_CALL.DONE : Fld := ⟨.FCE_HOST_CALL, 2, 1⟩
def FCE_HOST_CALL_ARG.ARG : Fld := ⟨.FCE_HOST_CALL_ARG, 0, 64⟩
def FCE_HOST_CALL_RESULT.RESULT : Fld := ⟨.FCE_HOST_CALL_RESULT, 0, 64⟩
def FCE_ISSUE_STAT.ISSUED : Fld := ⟨.FCE_ISSUE_STAT, 0, 32⟩
def FCE_ISSUE_STAT.QUEUE_FULL : Fld := ⟨.FCE_ISSUE_STAT, 32, 32⟩
def FCE_STORE_ERR.CORRECTED : Fld := ⟨.FCE_STORE_ERR, 0, 16⟩
def FCE_STORE_ERR.UNCORRECTABLE : Fld := ⟨.FCE_STORE_ERR, 16, 16⟩
def FCE_MOVE_STAT.HBM_KIB : Fld := ⟨.FCE_MOVE_STAT, 0, 24⟩
def FCE_MOVE_STAT.MESH_KIB : Fld := ⟨.FCE_MOVE_STAT, 24, 20⟩
def FCE_MOVE_STAT.CLOSED_NACK : Fld := ⟨.FCE_MOVE_STAT, 44, 8⟩
def FCE_MOVE_STAT.FULL_NACK : Fld := ⟨.FCE_MOVE_STAT, 52, 8⟩
def ARF_PROG_GRANT.W : Fld := ⟨.ARF_PROG_GRANT, 0, 12⟩
def ARF_PROG_GRANT.COPY : Fld := ⟨.ARF_PROG_GRANT, 12, 1⟩
def ARF_PROG_GRANT.OPEN : Fld := ⟨.ARF_PROG_GRANT, 13, 1⟩
def ARF_PROG_STAT.ACCEPTED : Fld := ⟨.ARF_PROG_STAT, 0, 16⟩
def ARF_PROG_STAT.BUSY : Fld := ⟨.ARF_PROG_STAT, 16, 16⟩
def ARF_PROG_STAT.PRESENT : Fld := ⟨.ARF_PROG_STAT, 32, 16⟩
def ARF_PROG_STAT.REFUSED : Fld := ⟨.ARF_PROG_STAT, 48, 16⟩
def SYN_CTR_SIG.INDEX : Fld := ⟨.SYN_CTR_SIG, 0, 10⟩
def SYN_CTR_SIG.SUB : Fld := ⟨.SYN_CTR_SIG, 15, 1⟩
def SYN_CTR_SIG.AMOUNT : Fld := ⟨.SYN_CTR_SIG, 32, 32⟩
def SYN_MIRROR.EN : Fld := ⟨.SYN_MIRROR, 0, 1⟩
def SYN_MIRROR.ADDR : Fld := ⟨.SYN_MIRROR, 12, 52⟩
def SYN_FACE_STAT.REVOKES : Fld := ⟨.SYN_FACE_STAT, 0, 16⟩
def SYN_FACE_STAT.HOST_REVOKES : Fld := ⟨.SYN_FACE_STAT, 16, 16⟩
def SYN_FACE_STAT.ERR_SET : Fld := ⟨.SYN_FACE_STAT, 32, 16⟩
def SYN_CTR_VAL.VALUE : Fld := ⟨.SYN_CTR_VAL, 0, 32⟩
def SYN_CTR_VAL.CEIL : Fld := ⟨.SYN_CTR_VAL, 32, 32⟩
def SYN_CTR_NOTIFY.AUTO : Fld := ⟨.SYN_CTR_NOTIFY, 0, 1⟩
def SYN_CTR_NOTIFY.ARMED : Fld := ⟨.SYN_CTR_NOTIFY, 1, 1⟩
def SYN_CTR_NOTIFY.VECTOR : Fld := ⟨.SYN_CTR_NOTIFY, 2, 11⟩
def SYN_CTR_NOTIFY.THRESH : Fld := ⟨.SYN_CTR_NOTIFY, 32, 32⟩
def SYN_WIN_CFG.BASE : Fld := ⟨.SYN_WIN_CFG, 0, 18⟩
def SYN_WIN_CFG.SLOT_BYTES : Fld := ⟨.SYN_WIN_CFG, 18, 15⟩
def SYN_WIN_CFG.DEPTH : Fld := ⟨.SYN_WIN_CFG, 33, 3⟩
def SYN_WIN_CFG.PIPE : Fld := ⟨.SYN_WIN_CFG, 36, 1⟩
def SYN_WIN_CFG.CTR : Fld := ⟨.SYN_WIN_CFG, 37, 10⟩
def SYN_WIN_CFG.FANOUT : Fld := ⟨.SYN_WIN_CFG, 47, 8⟩
def SYN_WIN_CFG.OPEN : Fld := ⟨.SYN_WIN_CFG, 55, 1⟩
def SYN_WIN_CFG.CLOSE : Fld := ⟨.SYN_WIN_CFG, 56, 1⟩
def SYN_WIN_EPOCH.EPOCH : Fld := ⟨.SYN_WIN_EPOCH, 0, 64⟩
def SYN_WIN_STATE.STATE : Fld := ⟨.SYN_WIN_STATE, 0, 2⟩
def SYN_WIN_STATE.REFUSE : Fld := ⟨.SYN_WIN_STATE, 2, 1⟩
def SYN_WIN_STATE.SRC : Fld := ⟨.SYN_WIN_STATE, 16, 12⟩
def SYN_WIN_STATE.STAGED : Fld := ⟨.SYN_WIN_STATE, 32, 4⟩
def SYN_WIN_STATE.RELEASED : Fld := ⟨.SYN_WIN_STATE, 36, 4⟩
def SYN_WIN_STAT.CLOSED : Fld := ⟨.SYN_WIN_STAT, 0, 12⟩
def SYN_WIN_STAT.RANGE : Fld := ⟨.SYN_WIN_STAT, 12, 12⟩
def SYN_WIN_STAT.FULL : Fld := ⟨.SYN_WIN_STAT, 24, 12⟩
def SYN_WIN_STAT.SHORT : Fld := ⟨.SYN_WIN_STAT, 36, 8⟩
def SYN_WIN_STAT.AFTER_ABORT : Fld := ⟨.SYN_WIN_STAT, 44, 8⟩
def SYN_WIN_STAT.DROPPED_READY : Fld := ⟨.SYN_WIN_STAT, 52, 8⟩
def SYN_TRICK_CFG.PARTIES : Fld := ⟨.SYN_TRICK_CFG, 0, 4⟩
def SYN_TRICK_CFG.HOME : Fld := ⟨.SYN_TRICK_CFG, 4, 3⟩
def SYN_TRICK_CFG.COUNT : Fld := ⟨.SYN_TRICK_CFG, 32, 4⟩
def SYN_TRICK_CFG.ROUNDS : Fld := ⟨.SYN_TRICK_CFG, 36, 28⟩
def SYN_DTRICK_CFG.PARTIES : Fld := ⟨.SYN_DTRICK_CFG, 0, 16⟩
def SYN_DTRICK_CFG.COUNT : Fld := ⟨.SYN_DTRICK_CFG, 32, 16⟩
def PLT_WIMG_CTL.OPEN : Fld := ⟨.PLT_WIMG_CTL, 0, 1⟩
def PLT_WIMG_CTL.DISCARD : Fld := ⟨.PLT_WIMG_CTL, 1, 1⟩
def PLT_WIMG_CTL.ACCEPT : Fld := ⟨.PLT_WIMG_CTL, 2, 1⟩
def PLT_WIMG_CTL.LOADER : Fld := ⟨.PLT_WIMG_CTL, 3, 1⟩
def PLT_WIMG_CTL.SHARE : Fld := ⟨.PLT_WIMG_CTL, 4, 4⟩
def PLT_WIMG_SRC.ADDR : Fld := ⟨.PLT_WIMG_SRC, 12, 52⟩
def PLT_WIMG_STATE.STATE : Fld := ⟨.PLT_WIMG_STATE, 0, 2⟩
def PLT_WIMG_STATE.REFUSE : Fld := ⟨.PLT_WIMG_STATE, 8, 4⟩
def PLT_WIMG_STATE.DETAIL : Fld := ⟨.PLT_WIMG_STATE, 12, 20⟩
def PLT_WIMG_STATE.DROPPED : Fld := ⟨.PLT_WIMG_STATE, 32, 16⟩
def PLT_PUT_SRC.ADDR : Fld := ⟨.PLT_PUT_SRC, 0, 64⟩
def PLT_PUT_DST.ADDR : Fld := ⟨.PLT_PUT_DST, 0, 48⟩
def PLT_PUT_CTL.LEN : Fld := ⟨.PLT_PUT_CTL, 0, 32⟩
def PLT_PUT_CTL.START : Fld := ⟨.PLT_PUT_CTL, 32, 1⟩
def PLT_PUT_CTL.BUSY : Fld := ⟨.PLT_PUT_CTL, 33, 1⟩
def PLT_PUT_CTL.DONE : Fld := ⟨.PLT_PUT_CTL, 34, 1⟩
def PLT_PUT_CTL.REFUSE : Fld := ⟨.PLT_PUT_CTL, 35, 1⟩
def PLT_PUT_CTL.REASON : Fld := ⟨.PLT_PUT_CTL, 36, 3⟩
def PLT_BUILD_CTL.GROUP : Fld := ⟨.PLT_BUILD_CTL, 0, 12⟩
def PLT_BUILD_CTL.ALL : Fld := ⟨.PLT_BUILD_CTL, 12, 1⟩
def PLT_BUILD_CTL.COPY : Fld := ⟨.PLT_BUILD_CTL, 13, 1⟩
def PLT_BUILD_CTL.START : Fld := ⟨.PLT_BUILD_CTL, 14, 1⟩
def PLT_BUILD_CTL.BUSY : Fld := ⟨.PLT_BUILD_CTL, 15, 1⟩
def PLT_CUT_CTL.GROUP : Fld := ⟨.PLT_CUT_CTL, 0, 12⟩
def PLT_CUT_CTL.ALL : Fld := ⟨.PLT_CUT_CTL, 12, 1⟩
def PLT_CUT_CTL.REQ : Fld := ⟨.PLT_CUT_CTL, 13, 1⟩
def PLT_CUT_HAND.HAND : Fld := ⟨.PLT_CUT_HAND, 0, 64⟩
def PLT_CUT_STATE.LAST_HAND : Fld := ⟨.PLT_CUT_STATE, 0, 48⟩
def PLT_CUT_STATE.LAST_GROUP : Fld := ⟨.PLT_CUT_STATE, 48, 12⟩
def PLT_CUT_STATE.REFUSE : Fld := ⟨.PLT_CUT_STATE, 60, 1⟩
def PLT_CUT_STATE.LAST_ALL : Fld := ⟨.PLT_CUT_STATE, 61, 1⟩
def PLT_PROG_STAT.SLOTS : Fld := ⟨.PLT_PROG_STAT, 0, 4⟩
def PLT_PROG_STAT.QUEUED : Fld := ⟨.PLT_PROG_STAT, 4, 16⟩
def PLT_PROG_STAT.REDRESSES : Fld := ⟨.PLT_PROG_STAT, 20, 16⟩
def PLT_PROG_STAT.RESTORES : Fld := ⟨.PLT_PROG_STAT, 36, 16⟩
def PLT_DIGEST_CFG.PERIOD : Fld := ⟨.PLT_DIGEST_CFG, 0, 16⟩
def PLT_DIGEST_CFG.REDRESS : Fld := ⟨.PLT_DIGEST_CFG, 16, 5⟩
def PLT_DIGEST_CFG.INTERVAL : Fld := ⟨.PLT_DIGEST_CFG, 32, 21⟩
def PLT_TALLY_STAT.TALLIES : Fld := ⟨.PLT_TALLY_STAT, 0, 16⟩
def PLT_TALLY_STAT.EXPECTED_FAIL : Fld := ⟨.PLT_TALLY_STAT, 16, 16⟩
def PLT_TALLY_STAT.SKIPPED : Fld := ⟨.PLT_TALLY_STAT, 32, 16⟩
def PLT_TALLY_STAT.EXPELLED : Fld := ⟨.PLT_TALLY_STAT, 48, 16⟩
def ARF_WSVER.A_VERSION : Fld := ⟨.ARF_WSVER, 0, 32⟩
def ARF_WSVER.B_VERSION : Fld := ⟨.ARF_WSVER, 32, 32⟩
def BLK_WEAR.CYCLES : Fld := ⟨.BLK_WEAR, 0, 14⟩
def BLK_WEAR.WORN : Fld := ⟨.BLK_WEAR, 14, 1⟩
def BLK_WEAR.MARGIN : Fld := ⟨.BLK_WEAR, 16, 16⟩
def SRV_MODE.MODE : Fld := ⟨.SRV_MODE, 0, 3⟩
def SRV_ADMIT.SCORE_BUDGET : Fld := ⟨.SRV_ADMIT, 0, 24⟩
def SRV_ADMIT.DECODE_FRAC : Fld := ⟨.SRV_ADMIT, 24, 4⟩
def SRV_ADMIT.PER_HAND : Fld := ⟨.SRV_ADMIT, 28, 8⟩
def SRV_ADMIT.CHUNK_MAX : Fld := ⟨.SRV_ADMIT, 36, 13⟩
def SRV_ADMIT.LANES : Fld := ⟨.SRV_ADMIT, 49, 10⟩
def SRV_MODEL.BPT : Fld := ⟨.SRV_MODEL, 0, 16⟩
def SRV_MODEL.MQ : Fld := ⟨.SRV_MODEL, 16, 16⟩
def SRV_MODEL.K0 : Fld := ⟨.SRV_MODEL, 32, 16⟩
def SRV_MODEL.RATE : Fld := ⟨.SRV_MODEL, 48, 11⟩
def SRV_VOCAB.VOCAB : Fld := ⟨.SRV_VOCAB, 0, 19⟩
def SRV_PAGE_CFG.FRAMES : Fld := ⟨.SRV_PAGE_CFG, 0, 20⟩
def SRV_PAGE_CFG.SHARE : Fld := ⟨.SRV_PAGE_CFG, 20, 12⟩
def SRV_PAGE_CFG.RUNS : Fld := ⟨.SRV_PAGE_CFG, 32, 12⟩
def SRV_PAGE_CFG.TPPL : Fld := ⟨.SRV_PAGE_CFG, 44, 4⟩
def SRV_FACE_PAGES.SHARE_BASE : Fld := ⟨.SRV_FACE_PAGES, 0, 36⟩
def SRV_FACE_SEALS.SEAL_BASE : Fld := ⟨.SRV_FACE_SEALS, 0, 36⟩
def SRV_STOCK_CFG.TTL_DEFAULT : Fld := ⟨.SRV_STOCK_CFG, 0, 20⟩
def SRV_STOCK_CFG.RECALL : Fld := ⟨.SRV_STOCK_CFG, 20, 12⟩
def SRV_STOCK_CFG.OUT : Fld := ⟨.SRV_STOCK_CFG, 32, 12⟩
def SRV_STOCK_BASE.ADDR : Fld := ⟨.SRV_STOCK_BASE, 12, 52⟩
def SRV_STOCK_SLOTS.SLOTS : Fld := ⟨.SRV_STOCK_SLOTS, 0, 26⟩
def SRV_FREE.FRAMES : Fld := ⟨.SRV_FREE, 0, 20⟩
def SRV_FREE.SLOTS : Fld := ⟨.SRV_FREE, 20, 26⟩
def SRV_HELD.DEPTH : Fld := ⟨.SRV_HELD, 0, 15⟩
def SRV_HELD.OLDEST : Fld := ⟨.SRV_HELD, 32, 16⟩
def SRV_STAT.ADMITTED : Fld := ⟨.SRV_STAT, 0, 16⟩
def SRV_STAT.HELD : Fld := ⟨.SRV_STAT, 16, 16⟩
def SRV_STAT.REFUSED : Fld := ⟨.SRV_STAT, 32, 16⟩
def SRV_STAT.EXPIRED : Fld := ⟨.SRV_STAT, 48, 16⟩
def SRV_PFX_CTL.SET : Fld := ⟨.SRV_PFX_CTL, 0, 12⟩
def SRV_PFX_CTL.PAGES : Fld := ⟨.SRV_PFX_CTL, 12, 7⟩
def SRV_PFX_CTL.INSTALL : Fld := ⟨.SRV_PFX_CTL, 19, 1⟩
def SRV_PFX_CTL.REMOVE : Fld := ⟨.SRV_PFX_CTL, 20, 1⟩
def SRV_PFX_SRC.ADDR : Fld := ⟨.SRV_PFX_SRC, 12, 52⟩
def SRV_PFX_STATE.STATE : Fld := ⟨.SRV_PFX_STATE, 0, 2⟩
def SRV_PFX_STATE.PAGES : Fld := ⟨.SRV_PFX_STATE, 2, 7⟩
def SRV_PFX_STATE.REFS : Fld := ⟨.SRV_PFX_STATE, 9, 15⟩
def SRV_PFX_STATE.FAILED : Fld := ⟨.SRV_PFX_STATE, 24, 1⟩
def SRV_RING_SQ.SIZE : Fld := ⟨.SRV_RING_SQ, 0, 5⟩
def SRV_RING_SQ.ADDR : Fld := ⟨.SRV_RING_SQ, 12, 52⟩
def SRV_RING_CQ.SIZE : Fld := ⟨.SRV_RING_CQ, 0, 5⟩
def SRV_RING_CQ.ADDR : Fld := ⟨.SRV_RING_CQ, 12, 52⟩
def SRV_RING_CTL.EN : Fld := ⟨.SRV_RING_CTL, 0, 1⟩
def SRV_RING_CTL.IRQ : Fld := ⟨.SRV_RING_CTL, 1, 1⟩
def SRV_RING_CTL.VECTOR : Fld := ⟨.SRV_RING_CTL, 2, 11⟩
def SRV_RING_STAT.SQ_HEAD : Fld := ⟨.SRV_RING_STAT, 0, 16⟩
def SRV_RING_STAT.CQ_TAIL : Fld := ⟨.SRV_RING_STAT, 16, 16⟩
def SRV_RING_STAT.BACKLOG : Fld := ⟨.SRV_RING_STAT, 32, 13⟩
def SRV_RING_STAT.STALLED : Fld := ⟨.SRV_RING_STAT, 45, 1⟩
def SRV_SEAT.STATE : Fld := ⟨.SRV_SEAT, 0, 3⟩
def SRV_SEAT.GEN : Fld := ⟨.SRV_SEAT, 3, 18⟩
def SRV_SEAT.RING : Fld := ⟨.SRV_SEAT, 21, 14⟩
def SRV_SEAT.FRONT : Fld := ⟨.SRV_SEAT, 35, 12⟩
def SRV_SEAT.PAGES : Fld := ⟨.SRV_SEAT, 47, 12⟩
def DLR_CFG.VOCAB : Fld := ⟨.DLR_CFG, 0, 19⟩
def DLR_EOS.ID0 : Fld := ⟨.DLR_EOS, 0, 18⟩
def DLR_EOS.V0 : Fld := ⟨.DLR_EOS, 18, 1⟩
def DLR_EOS.ID1 : Fld := ⟨.DLR_EOS, 32, 18⟩
def DLR_EOS.V1 : Fld := ⟨.DLR_EOS, 50, 1⟩
def DLR_GRAM_SRC.ADDR : Fld := ⟨.DLR_GRAM_SRC, 12, 52⟩
def DLR_GRAM_CTL.SLOT : Fld := ⟨.DLR_GRAM_CTL, 0, 6⟩
def DLR_GRAM_CTL.STATES : Fld := ⟨.DLR_GRAM_CTL, 6, 15⟩
def DLR_GRAM_CTL.TRANS : Fld := ⟨.DLR_GRAM_CTL, 21, 21⟩
def DLR_GRAM_CTL.LOAD : Fld := ⟨.DLR_GRAM_CTL, 42, 1⟩
def DLR_GRAM_CTL.UNLOAD : Fld := ⟨.DLR_GRAM_CTL, 43, 1⟩
def DLR_GRAM_STATE.STATE : Fld := ⟨.DLR_GRAM_STATE, 0, 2⟩
def DLR_GRAM_STATE.REFS : Fld := ⟨.DLR_GRAM_STATE, 2, 15⟩
def DLR_GRAM_STATE.FAILED : Fld := ⟨.DLR_GRAM_STATE, 17, 1⟩
def DLR_GRAM_STATE.REASON : Fld := ⟨.DLR_GRAM_STATE, 18, 4⟩
def DLR_STAT.ROWS : Fld := ⟨.DLR_STAT, 0, 24⟩
def DLR_STAT.NAN : Fld := ⟨.DLR_STAT, 24, 16⟩
def DLR_STAT.LATE_DEAL : Fld := ⟨.DLR_STAT, 40, 8⟩
def DLR_STAT.POISON : Fld := ⟨.DLR_STAT, 48, 8⟩
def DLR_DRAFT_STAT.PROPOSED : Fld := ⟨.DLR_DRAFT_STAT, 0, 24⟩
def DLR_DRAFT_STAT.ACCEPTED : Fld := ⟨.DLR_DRAFT_STAT, 24, 24⟩
def DLR_DRAFT_STAT.TRIMS : Fld := ⟨.DLR_DRAFT_STAT, 48, 16⟩
def DLR_BUSY.BUSY : Fld := ⟨.DLR_BUSY, 0, 32⟩
def DLR_BUSY.RANGE_WAIT : Fld := ⟨.DLR_BUSY, 32, 32⟩
def LNK_DEV_ADDR.ADDR : Fld := ⟨.LNK_DEV_ADDR, 0, 12⟩
def LNK_TREE.PARENT : Fld := ⟨.LNK_TREE, 0, 3⟩
def LNK_TREE.PARENT_VALID : Fld := ⟨.LNK_TREE, 3, 1⟩
def LNK_TREE.CHILDREN : Fld := ⟨.LNK_TREE, 8, 6⟩
def LNK_TIME_STAT.OFFSET : Fld := ⟨.LNK_TIME_STAT, 0, 16⟩
def LNK_TIME_STAT.SYNCED : Fld := ⟨.LNK_TIME_STAT, 16, 1⟩
def LNK_TIME_STAT.TREE : Fld := ⟨.LNK_TIME_STAT, 17, 1⟩
def LNK_TIME_STAT.LOST : Fld := ⟨.LNK_TIME_STAT, 32, 16⟩
def LNK_BYP_CTL.CLOSE : Fld := ⟨.LNK_BYP_CTL, 0, 1⟩
def LNK_BYP_CTL.OPEN : Fld := ⟨.LNK_BYP_CTL, 1, 1⟩
def LNK_BYP_CTL.AT_HAND : Fld := ⟨.LNK_BYP_CTL, 2, 1⟩
def LNK_BYP_CTL.CLOSED : Fld := ⟨.LNK_BYP_CTL, 3, 1⟩
def LNK_BYP_CTL.FORCE : Fld := ⟨.LNK_BYP_CTL, 4, 1⟩
def LNK_BYP_HAND.HAND : Fld := ⟨.LNK_BYP_HAND, 0, 64⟩
def LNK_ROUTE.PORT (j : Nat) : Fld := ⟨.LNK_ROUTE, 0 + 8 * j, 3⟩
def LNK_ROUTE.VALID (j : Nat) : Fld := ⟨.LNK_ROUTE, 3 + 8 * j, 1⟩
def LNK_ROUTE.DATELINE (j : Nat) : Fld := ⟨.LNK_ROUTE, 4 + 8 * j, 1⟩
def LNK_PORT_CTL.EN : Fld := ⟨.LNK_PORT_CTL, 0, 1⟩
def LNK_PORT_CTL.RETRAIN : Fld := ⟨.LNK_PORT_CTL, 1, 1⟩
def LNK_PORT_CTL.RATE_MAX : Fld := ⟨.LNK_PORT_CTL, 2, 1⟩
def LNK_PORT_CTL.WIDTH_MIN : Fld := ⟨.LNK_PORT_CTL, 3, 5⟩
def LNK_PORT_CTL.HOLDOFF : Fld := ⟨.LNK_PORT_CTL, 8, 8⟩
def LNK_PORT_STATE.STATE : Fld := ⟨.LNK_PORT_STATE, 0, 3⟩
def LNK_PORT_STATE.WIDTH : Fld := ⟨.LNK_PORT_STATE, 3, 5⟩
def LNK_PORT_STATE.RATE : Fld := ⟨.LNK_PORT_STATE, 8, 1⟩
def LNK_PORT_STATE.PEER_DEV : Fld := ⟨.LNK_PORT_STATE, 16, 12⟩
def LNK_PORT_STATE.PEER_PORT : Fld := ⟨.LNK_PORT_STATE, 28, 3⟩
def LNK_LANE_STATE.FAILED : Fld := ⟨.LNK_LANE_STATE, 0, 17⟩
def LNK_LANE_STATE.SPARED : Fld := ⟨.LNK_LANE_STATE, 17, 5⟩
def LNK_LANE_STATE.SPARE_USED : Fld := ⟨.LNK_LANE_STATE, 22, 1⟩
def LNK_LANE_CFG.CORR_THRESH : Fld := ⟨.LNK_LANE_CFG, 0, 32⟩
def LNK_PORT_STAT.REPLAYS : Fld := ⟨.LNK_PORT_STAT, 0, 16⟩
def LNK_PORT_STAT.RETRAINS : Fld := ⟨.LNK_PORT_STAT, 16, 8⟩
def LNK_PORT_STAT.REMAPS : Fld := ⟨.LNK_PORT_STAT, 24, 8⟩
def LNK_PORT_STAT.UNCORR : Fld := ⟨.LNK_PORT_STAT, 32, 16⟩
def LNK_PORT_STAT.BAD_MSG : Fld := ⟨.LNK_PORT_STAT, 48, 8⟩
def LNK_PORT_STAT.RESENT : Fld := ⟨.LNK_PORT_STAT, 56, 8⟩
def LNK_PARCEL_STAT.PARCELS : Fld := ⟨.LNK_PARCEL_STAT, 0, 32⟩
def LNK_PARCEL_STAT.SEAL_FAIL : Fld := ⟨.LNK_PARCEL_STAT, 32, 8⟩
def LNK_PARCEL_STAT.UNROUTABLE : Fld := ⟨.LNK_PARCEL_STAT, 40, 8⟩
def LNK_PARCEL_STAT.EPOCH_DROP : Fld := ⟨.LNK_PARCEL_STAT, 48, 16⟩
def SYN_ROLE.ROLE : Fld := ⟨.SYN_ROLE, 0, 2⟩
def SYN_ROLE.MANAGER : Fld := ⟨.SYN_ROLE, 4, 12⟩
def SYN_ROLE.STANDBY : Fld := ⟨.SYN_ROLE, 16, 12⟩
def SYN_ROLE.STANDBY_VALID : Fld := ⟨.SYN_ROLE, 28, 1⟩
def SYN_ROLE.TERM : Fld := ⟨.SYN_ROLE, 32, 32⟩
def SYN_ROLE_CAND.C0 : Fld := ⟨.SYN_ROLE_CAND, 0, 12⟩
def SYN_ROLE_CAND.C1 : Fld := ⟨.SYN_ROLE_CAND, 12, 12⟩
def SYN_ROLE_CAND.C2 : Fld := ⟨.SYN_ROLE_CAND, 24, 12⟩
def SYN_ROLE_CAND.C3 : Fld := ⟨.SYN_ROLE_CAND, 36, 12⟩
def SYN_ROLE_CAND.COUNT : Fld := ⟨.SYN_ROLE_CAND, 48, 3⟩
def SYN_DOMAIN_CFG.FAIL_HANDS : Fld := ⟨.SYN_DOMAIN_CFG, 0, 16⟩
def SYN_DOMAIN_CFG.HOLD_HANDS : Fld := ⟨.SYN_DOMAIN_CFG, 16, 4⟩
def SYN_DOMAIN_CFG.CARRY_PER_HAND : Fld := ⟨.SYN_DOMAIN_CFG, 20, 8⟩
def SYN_JOIN_CTL.REPLICA : Fld := ⟨.SYN_JOIN_CTL, 0, 8⟩
def SYN_JOIN_CTL.REQ : Fld := ⟨.SYN_JOIN_CTL, 8, 1⟩
def SYN_JOIN_CTL.REFUSE : Fld := ⟨.SYN_JOIN_CTL, 9, 1⟩
def SYN_JOIN_CTL.CODE : Fld := ⟨.SYN_JOIN_CTL, 10, 3⟩
def SYN_JOIN_HAND.HAND : Fld := ⟨.SYN_JOIN_HAND, 0, 64⟩
def SYN_RETIRE_CTL.REPLICA : Fld := ⟨.SYN_RETIRE_CTL, 0, 8⟩
def SYN_RETIRE_CTL.MODE : Fld := ⟨.SYN_RETIRE_CTL, 8, 1⟩
def SYN_RETIRE_CTL.REQ : Fld := ⟨.SYN_RETIRE_CTL, 9, 1⟩
def SYN_RETIRE_CTL.DONE : Fld := ⟨.SYN_RETIRE_CTL, 10, 1⟩
def SYN_RETIRE_CTL.TIMEOUT : Fld := ⟨.SYN_RETIRE_CTL, 32, 32⟩
def SYN_DOMAIN_STAT.TAKEOVERS : Fld := ⟨.SYN_DOMAIN_STAT, 0, 8⟩
def SYN_DOMAIN_STAT.DECLARED : Fld := ⟨.SYN_DOMAIN_STAT, 8, 8⟩
def SYN_DOMAIN_STAT.CARRIED : Fld := ⟨.SYN_DOMAIN_STAT, 16, 16⟩
def SYN_DOMAIN_STAT.LOST_FRONT : Fld := ⟨.SYN_DOMAIN_STAT, 32, 16⟩
def SYN_DOMAIN_STAT.HOLDS : Fld := ⟨.SYN_DOMAIN_STAT, 48, 16⟩
def SYN_REPLICA.STATE : Fld := ⟨.SYN_REPLICA, 0, 3⟩
def SYN_REPLICA.HEAD : Fld := ⟨.SYN_REPLICA, 3, 12⟩
def SYN_REPLICA.DEPTH : Fld := ⟨.SYN_REPLICA, 15, 12⟩
def SYN_REPLICA.CAUSE : Fld := ⟨.SYN_REPLICA, 27, 12⟩
def SYN_REPLICA.CAUSE_VALID : Fld := ⟨.SYN_REPLICA, 39, 1⟩
def MEM_WREG.BASE : Fld := ⟨.MEM_WREG, 0, 16⟩
def MEM_WREG.LIMIT : Fld := ⟨.MEM_WREG, 16, 16⟩
def MEM_SREG.BASE : Fld := ⟨.MEM_SREG, 0, 16⟩
def MEM_SREG.LIMIT : Fld := ⟨.MEM_SREG, 16, 16⟩
def MEM_ERR.CORRECTED : Fld := ⟨.MEM_ERR, 0, 16⟩
def MEM_ERR.UNCORRECTABLE : Fld := ⟨.MEM_ERR, 16, 8⟩
def MEM_ERR.TAG_FAIL : Fld := ⟨.MEM_ERR, 24, 8⟩
def MEM_ERR.KEY_MISS : Fld := ⟨.MEM_ERR, 32, 8⟩
def MEM_ERR.POISON_READ : Fld := ⟨.MEM_ERR, 40, 8⟩
def MEM_ERR.NO_KEY : Fld := ⟨.MEM_ERR, 48, 8⟩
def MEM_ERR.DRAM_ECC : Fld := ⟨.MEM_ERR, 56, 8⟩
def MEM_SCRUB.INTERVAL : Fld := ⟨.MEM_SCRUB, 0, 20⟩
def MEM_SCRUB.LAP : Fld := ⟨.MEM_SCRUB, 20, 1⟩
def MEM_STOCK_META.ADDR : Fld := ⟨.MEM_STOCK_META, 12, 52⟩
def MEM_STOCK_STAT.OUT : Fld := ⟨.MEM_STOCK_STAT, 0, 20⟩
def MEM_STOCK_STAT.IN : Fld := ⟨.MEM_STOCK_STAT, 20, 20⟩
def MEM_STOCK_STAT.IN_FAIL : Fld := ⟨.MEM_STOCK_STAT, 40, 8⟩
def MEM_STOCK_STAT.CMP_MIB : Fld := ⟨.MEM_STOCK_STAT, 48, 16⟩
def KEY_STATE.EPOCH : Fld := ⟨.KEY_STATE, 0, 32⟩
def KEY_STATE.CUR_VALID : Fld := ⟨.KEY_STATE, 32, 1⟩
def KEY_STATE.PREV_VALID : Fld := ⟨.KEY_STATE, 33, 1⟩
def KEY_STATE.SWEEPING : Fld := ⟨.KEY_STATE, 34, 1⟩
def KEY_STATE.PLATFORM_VALID : Fld := ⟨.KEY_STATE, 35, 1⟩
def KEY_ROT_CTL.ROTATE : Fld := ⟨.KEY_ROT_CTL, 0, 1⟩
def KEY_ROT_CTL.REFUSE : Fld := ⟨.KEY_ROT_CTL, 1, 1⟩
def KEY_ROT_CTL.REASON : Fld := ⟨.KEY_ROT_CTL, 2, 2⟩
def KEY_ROT_CTL.DONE : Fld := ⟨.KEY_ROT_CTL, 4, 1⟩
def KEY_SWEEP_CFG.SHARE : Fld := ⟨.KEY_SWEEP_CFG, 0, 5⟩
def KEY_SWEEP_CFG.STOCK_MIB : Fld := ⟨.KEY_SWEEP_CFG, 5, 11⟩
def KEY_SWEEP_STAT.STACKS_DONE : Fld := ⟨.KEY_SWEEP_STAT, 0, 8⟩
def KEY_SWEEP_STAT.STOCK_LEFT : Fld := ⟨.KEY_SWEEP_STAT, 8, 24⟩
def KEY_SWEEP_STAT.LOCK_WAIT : Fld := ⟨.KEY_SWEEP_STAT, 32, 32⟩
def KEY_SESSION.STATE : Fld := ⟨.KEY_SESSION, 0, 3⟩
def KEY_SESSION.DONE : Fld := ⟨.KEY_SESSION, 3, 1⟩
def KEY_SESSION.STEP : Fld := ⟨.KEY_SESSION, 4, 3⟩
def KEY_SESSION.EPOCH : Fld := ⟨.KEY_SESSION, 32, 32⟩
def KEY_SESSION_CTL.OPEN : Fld := ⟨.KEY_SESSION_CTL, 0, 1⟩
def KEY_SESSION_CTL.RELEASE : Fld := ⟨.KEY_SESSION_CTL, 1, 1⟩
def KEY_SESSION_CTL.AT_HAND : Fld := ⟨.KEY_SESSION_CTL, 2, 1⟩
def KEY_SESSION_CTL.REFUSE : Fld := ⟨.KEY_SESSION_CTL, 3, 1⟩
def KEY_SESSION_CTL.REASON : Fld := ⟨.KEY_SESSION_CTL, 4, 3⟩
def KEY_SESSION_CTL.IRQ : Fld := ⟨.KEY_SESSION_CTL, 7, 1⟩
def KEY_SESSION_CTL.VECTOR : Fld := ⟨.KEY_SESSION_CTL, 8, 11⟩
def KEY_RELEASE_HAND.HAND : Fld := ⟨.KEY_RELEASE_HAND, 0, 64⟩
def PLT_LIFECYCLE.STATE : Fld := ⟨.PLT_LIFECYCLE, 0, 2⟩
def PLT_LIFECYCLE.ENROLLED : Fld := ⟨.PLT_LIFECYCLE, 2, 1⟩
def PLT_LIFECYCLE.DEBUG : Fld := ⟨.PLT_LIFECYCLE, 3, 1⟩
def PLT_LIFECYCLE.SESSIONS : Fld := ⟨.PLT_LIFECYCLE, 8, 3⟩
def PLT_LIFECYCLE.AUTH_FAIL : Fld := ⟨.PLT_LIFECYCLE, 16, 16⟩
def PLT_WIMG_FLOOR.FLOOR : Fld := ⟨.PLT_WIMG_FLOOR, 0, 32⟩
def PLT_WIMG_FLOOR.IMGKEYS : Fld := ⟨.PLT_WIMG_FLOOR, 32, 4⟩
def PLT_DBG_CTL.ADDR : Fld := ⟨.PLT_DBG_CTL, 0, 25⟩
def PLT_DBG_CTL.FACE : Fld := ⟨.PLT_DBG_CTL, 25, 3⟩
def PLT_DBG_DATA.DATA : Fld := ⟨.PLT_DBG_DATA, 0, 64⟩
def CAL_CFG.DELTA_T : Fld := ⟨.CAL_CFG, 0, 4⟩
def CAL_CFG.MAX_AGE : Fld := ⟨.CAL_CFG, 4, 12⟩
def CAL_CFG.GATHER : Fld := ⟨.CAL_CFG, 16, 5⟩
def CAL_CFG.MAX_WAIT : Fld := ⟨.CAL_CFG, 21, 8⟩
def CAL_CFG.RETRY : Fld := ⟨.CAL_CFG, 29, 8⟩
def CAL_CFG.KS_LIMIT : Fld := ⟨.CAL_CFG, 37, 10⟩
def CAL_REQ.FACE : Fld := ⟨.CAL_REQ, 0, 3⟩
def CAL_REQ.BLOCK : Fld := ⟨.CAL_REQ, 3, 6⟩
def CAL_REQ.ALL : Fld := ⟨.CAL_REQ, 9, 1⟩
def CAL_REQ.PORT : Fld := ⟨.CAL_REQ, 10, 3⟩
def CAL_REQ.LANES : Fld := ⟨.CAL_REQ, 13, 1⟩
def CAL_REQ.REQ : Fld := ⟨.CAL_REQ, 14, 1⟩
def CAL_STAT.PASSES : Fld := ⟨.CAL_STAT, 0, 16⟩
def CAL_STAT.FAILS : Fld := ⟨.CAL_STAT, 16, 16⟩
def CAL_STAT.IDLES : Fld := ⟨.CAL_STAT, 32, 16⟩
def CAL_STAT.DISCARDED : Fld := ⟨.CAL_STAT, 48, 16⟩
def CAL_MON_CFG.SHIFT : Fld := ⟨.CAL_MON_CFG, 0, 4⟩
def CAL_MON_CFG.K : Fld := ⟨.CAL_MON_CFG, 4, 5⟩
def CAL_MON_CFG.VAR_RATIO : Fld := ⟨.CAL_MON_CFG, 9, 4⟩
def CAL_MON_CFG.EN : Fld := ⟨.CAL_MON_CFG, 13, 1⟩
def CAL_DUP_CFG.LOG2 : Fld := ⟨.CAL_DUP_CFG, 0, 5⟩
def CAL_DUP_CFG.DWELL : Fld := ⟨.CAL_DUP_CFG, 5, 8⟩
def CAL_DUP_CFG.PERIOD : Fld := ⟨.CAL_DUP_CFG, 13, 10⟩
def CAL_DUP_CFG.TOUR_EN : Fld := ⟨.CAL_DUP_CFG, 23, 1⟩
def CAL_DUP_STAT.ARRAY_SAMPLED : Fld := ⟨.CAL_DUP_STAT, 0, 16⟩
def CAL_DUP_STAT.FINE_SAMPLED : Fld := ⟨.CAL_DUP_STAT, 16, 16⟩
def CAL_DUP_STAT.FINE_DIFF : Fld := ⟨.CAL_DUP_STAT, 32, 16⟩
def CAL_DUP_STAT.MISSED : Fld := ⟨.CAL_DUP_STAT, 48, 16⟩
def CAL_LANE_CFG.EYE_MIN : Fld := ⟨.CAL_LANE_CFG, 0, 8⟩
def CAL_BLK_STATE.RESULT : Fld := ⟨.CAL_BLK_STATE, 0, 2⟩
def CAL_BLK_STATE.PENDING : Fld := ⟨.CAL_BLK_STATE, 2, 1⟩
def CAL_BLK_STATE.TRIGGER : Fld := ⟨.CAL_BLK_STATE, 3, 3⟩
def CAL_BLK_STATE.STALE : Fld := ⟨.CAL_BLK_STATE, 6, 1⟩
def CAL_BLK_STATE.T_CAL : Fld := ⟨.CAL_BLK_STATE, 8, 8⟩
def CAL_BLK_STATE.AGE : Fld := ⟨.CAL_BLK_STATE, 16, 16⟩
def CAL_BLK_STATE.FLAGGED : Fld := ⟨.CAL_BLK_STATE, 32, 9⟩
def CAL_BLK_STATE.TOUR_SLOT : Fld := ⟨.CAL_BLK_STATE, 41, 6⟩
def CAL_BLK_STATE.TOURING : Fld := ⟨.CAL_BLK_STATE, 47, 1⟩
def CAL_BLK_STATE.EXCURSIONS : Fld := ⟨.CAL_BLK_STATE, 48, 16⟩
def CAL_LANE_STATE.PASS : Fld := ⟨.CAL_LANE_STATE, 0, 17⟩
def CAL_LANE_STATE.FAIL : Fld := ⟨.CAL_LANE_STATE, 32, 17⟩
def CAL_LANE_STATE.PENDING : Fld := ⟨.CAL_LANE_STATE, 49, 1⟩
def FLT_CFG.AUTO_RESET : Fld := ⟨.FLT_CFG, 0, 16⟩
def FLT_CFG.AUTO_MAX : Fld := ⟨.FLT_CFG, 16, 4⟩
def FLT_STATUS.QUEUED : Fld := ⟨.FLT_STATUS, 0, 7⟩
def FLT_STATUS.OVERFLOW : Fld := ⟨.FLT_STATUS, 7, 1⟩
def FLT_STATUS.DISCARDED : Fld := ⟨.FLT_STATUS, 8, 16⟩
def FLT_STATUS.REPLACE : Fld := ⟨.FLT_STATUS, 24, 1⟩
def FLT_STATUS.HIST_FULL : Fld := ⟨.FLT_STATUS, 25, 1⟩
def FLT_FATAL.LOG_PATH : Fld := ⟨.FLT_FATAL, 0, 1⟩
def FLT_FATAL.RING_CLASS0 : Fld := ⟨.FLT_FATAL, 1, 1⟩
def FLT_FATAL.OTHER : Fld := ⟨.FLT_FATAL, 2, 6⟩
def FLT_FATAL.ASSERTED : Fld := ⟨.FLT_FATAL, 8, 1⟩
def FLT_LOG_CFG.STACK : Fld := ⟨.FLT_LOG_CFG, 0, 3⟩
def FLT_LOG_CFG.SIZE : Fld := ⟨.FLT_LOG_CFG, 3, 5⟩
def FLT_LOG_CFG.BASE : Fld := ⟨.FLT_LOG_CFG, 8, 16⟩
def FLT_LOG_NEXT.NEXT : Fld := ⟨.FLT_LOG_NEXT, 0, 64⟩
def FLT_LOG_READ.SLOT : Fld := ⟨.FLT_LOG_READ, 0, 20⟩
def FLT_LOG_DATA.DATA : Fld := ⟨.FLT_LOG_DATA, 0, 64⟩
def FLT_HOST_RING.EN : Fld := ⟨.FLT_HOST_RING, 0, 1⟩
def FLT_HOST_RING.SIZE : Fld := ⟨.FLT_HOST_RING, 1, 5⟩
def FLT_HOST_RING.ADDR : Fld := ⟨.FLT_HOST_RING, 12, 52⟩
def FLT_HOST_HEAD.HEAD : Fld := ⟨.FLT_HOST_HEAD, 0, 16⟩
def FLT_HOST_HEAD.TAIL : Fld := ⟨.FLT_HOST_HEAD, 16, 16⟩
def FLT_HOST_HEAD.DROPPED : Fld := ⟨.FLT_HOST_HEAD, 32, 16⟩
def FLT_HOST_HEAD.IRQ : Fld := ⟨.FLT_HOST_HEAD, 48, 1⟩
def FLT_HOST_HEAD.VECTOR : Fld := ⟨.FLT_HOST_HEAD, 49, 6⟩
def FLT_HIST_STAT.ENTRIES : Fld := ⟨.FLT_HIST_STAT, 0, 17⟩
def FLT_HIST_STAT.PERMANENT : Fld := ⟨.FLT_HIST_STAT, 17, 15⟩
def FLT_HIST_STAT.POWERED : Fld := ⟨.FLT_HIST_STAT, 32, 32⟩
def FLT_HIST_QUERY.UNIT : Fld := ⟨.FLT_HIST_QUERY, 0, 32⟩
def FLT_HIST_QUERY.FOUND : Fld := ⟨.FLT_HIST_QUERY, 32, 1⟩
def FLT_HIST_QUERY.PERM : Fld := ⟨.FLT_HIST_QUERY, 33, 1⟩
def FLT_HIST_QUERY.EVENTS : Fld := ⟨.FLT_HIST_QUERY, 48, 16⟩
def FLT_HIST_CLEAR.UNIT : Fld := ⟨.FLT_HIST_CLEAR, 0, 32⟩
def FLT_HIST_CLEAR.CLEAR : Fld := ⟨.FLT_HIST_CLEAR, 32, 1⟩
def FLT_HIST_CLEAR.ALL : Fld := ⟨.FLT_HIST_CLEAR, 33, 1⟩
def FLT_INJ_CTL.DETECTOR : Fld := ⟨.FLT_INJ_CTL, 0, 8⟩
def FLT_INJ_CTL.MODE : Fld := ⟨.FLT_INJ_CTL, 8, 2⟩
def FLT_INJ_CTL.HIST : Fld := ⟨.FLT_INJ_CTL, 10, 1⟩
def FLT_INJ_CTL.ARM : Fld := ⟨.FLT_INJ_CTL, 11, 1⟩
def FLT_INJ_CTL.PERIOD : Fld := ⟨.FLT_INJ_CTL, 12, 20⟩
def FLT_INJ_CTL.COUNT : Fld := ⟨.FLT_INJ_CTL, 32, 16⟩
def FLT_INJ_CTL.FIRED : Fld := ⟨.FLT_INJ_CTL, 48, 16⟩
def FLT_INJ_UNIT.UNIT : Fld := ⟨.FLT_INJ_UNIT, 0, 32⟩
def FLT_INJ_UNIT.PARAM : Fld := ⟨.FLT_INJ_UNIT, 32, 32⟩
def FLT_PROBE_STAT.DECK_ID : Fld := ⟨.FLT_PROBE_STAT, 0, 32⟩
def FLT_PROBE_STAT.STATE : Fld := ⟨.FLT_PROBE_STAT, 32, 2⟩
def FLT_PROBE_STAT.REFUSE : Fld := ⟨.FLT_PROBE_STAT, 34, 4⟩
def FLT_PROBE_STAT.FAILED : Fld := ⟨.FLT_PROBE_STAT, 38, 10⟩
def FLT_PROBE_STAT.ABANDONED : Fld := ⟨.FLT_PROBE_STAT, 48, 8⟩
def FLT_PROBE_STAT.PASSED : Fld := ⟨.FLT_PROBE_STAT, 56, 8⟩
def PWR_DOM_REQ.REQ (j : Nat) : Fld := ⟨.PWR_DOM_REQ, 0 + 2 * j, 2⟩
def PWR_DOM_STATE.STATE (j : Nat) : Fld := ⟨.PWR_DOM_STATE, 0 + 2 * j, 2⟩
def PWR_DOM_STAT.DOMAIN : Fld := ⟨.PWR_DOM_STAT, 0, 5⟩
def PWR_DOM_STAT.REFUSE : Fld := ⟨.PWR_DOM_STAT, 5, 1⟩
def PWR_DOM_STAT.REASON : Fld := ⟨.PWR_DOM_STAT, 6, 3⟩
def PWR_DOM_STAT.CHANGES : Fld := ⟨.PWR_DOM_STAT, 32, 16⟩
def PWR_LIMIT.WATTS : Fld := ⟨.PWR_LIMIT, 0, 10⟩
def PWR_GOV.WINDOW : Fld := ⟨.PWR_GOV, 0, 4⟩
def PWR_GOV.RAISE : Fld := ⟨.PWR_GOV, 4, 8⟩
def PWR_GOV.HEADROOM : Fld := ⟨.PWR_GOV, 12, 8⟩
def PWR_STAT.POWER : Fld := ⟨.PWR_STAT, 0, 10⟩
def PWR_STAT.GOV_LEVEL : Fld := ⟨.PWR_STAT, 10, 5⟩
def PWR_STAT.LIMITED : Fld := ⟨.PWR_STAT, 15, 1⟩
def PWR_STAT.VCORE_MV : Fld := ⟨.PWR_STAT, 16, 16⟩
def PWR_STAT.OVER : Fld := ⟨.PWR_STAT, 32, 16⟩
def PWR_FACE_CLK.LEVEL : Fld := ⟨.PWR_FACE_CLK, 0, 5⟩
def PWR_FACE_CLK.THERM_LEVEL : Fld := ⟨.PWR_FACE_CLK, 5, 5⟩
def PWR_FACE_CLK.THROTTLE_MS : Fld := ⟨.PWR_FACE_CLK, 32, 32⟩
def PWR_DROOP_CFG.T1 : Fld := ⟨.PWR_DROOP_CFG, 0, 8⟩
def PWR_DROOP_CFG.T2 : Fld := ⟨.PWR_DROOP_CFG, 8, 8⟩
def PWR_DROOP_CFG.EN : Fld := ⟨.PWR_DROOP_CFG, 16, 1⟩
def PWR_DROOP_STAT.QUARTER : Fld := ⟨.PWR_DROOP_STAT, 0, 16⟩
def PWR_DROOP_STAT.HALF : Fld := ⟨.PWR_DROOP_STAT, 16, 16⟩
def PWR_DROOP_STAT.STRETCH_US : Fld := ⟨.PWR_DROOP_STAT, 32, 32⟩
def THM_CFG.VECTOR : Fld := ⟨.THM_CFG, 0, 6⟩
def THM_CFG.IRQ : Fld := ⟨.THM_CFG, 6, 1⟩
def THM_STATUS.WARN : Fld := ⟨.THM_STATUS, 0, 8⟩
def THM_STATUS.THROTTLE : Fld := ⟨.THM_STATUS, 8, 8⟩
def THM_STATUS.STACK_WARN : Fld := ⟨.THM_STATUS, 16, 8⟩
def THM_STATUS.STACK_THROTTLE : Fld := ⟨.THM_STATUS, 24, 8⟩
def THM_STATUS.BLIND : Fld := ⟨.THM_STATUS, 32, 8⟩
def THM_STATUS.HOTTEST : Fld := ⟨.THM_STATUS, 40, 8⟩
def THM_SENSOR.TEMP : Fld := ⟨.THM_SENSOR, 0, 12⟩
def THM_SENSOR.VALID : Fld := ⟨.THM_SENSOR, 12, 1⟩
def THM_SENSOR.IGNORED : Fld := ⟨.THM_SENSOR, 13, 1⟩
def THM_SENSOR.PERM : Fld := ⟨.THM_SENSOR, 14, 1⟩
def HKC_CTL.REF_EN : Fld := ⟨.HKC_CTL, 0, 1⟩
def HKC_CTL.SELFCAL : Fld := ⟨.HKC_CTL, 1, 1⟩
def HKC_CTL.RUN : Fld := ⟨.HKC_CTL, 2, 1⟩
def HKC_CTL.PERIOD : Fld := ⟨.HKC_CTL, 7, 16⟩
def HKC_CTL.LENGTH : Fld := ⟨.HKC_CTL, 23, 8⟩
def HKC_STAT.REF_READY : Fld := ⟨.HKC_STAT, 0, 1⟩
def HKC_STAT.CAL_DONE : Fld := ⟨.HKC_STAT, 1, 1⟩
def HKC_STAT.CAL_BUSY : Fld := ⟨.HKC_STAT, 2, 1⟩
def HKC_STAT.ROUNDS : Fld := ⟨.HKC_STAT, 16, 32⟩
def HKC_STAT.OVERRUNS : Fld := ⟨.HKC_STAT, 48, 16⟩
def HKC_SEQ.CHANNEL : Fld := ⟨.HKC_SEQ, 0, 7⟩
def HKC_SEQ.ORDER : Fld := ⟨.HKC_SEQ, 7, 2⟩
def HKC_SEQ.D : Fld := ⟨.HKC_SEQ, 9, 12⟩
def HKC_SEQ.GAIN : Fld := ⟨.HKC_SEQ, 21, 2⟩
def HKC_RESULT.CODE : Fld := ⟨.HKC_RESULT, 0, 24⟩
def HKC_RESULT.VALID : Fld := ⟨.HKC_RESULT, 24, 1⟩
def HKC_RESULT.CAL : Fld := ⟨.HKC_RESULT, 25, 1⟩
def HKC_RESULT.CLIP : Fld := ⟨.HKC_RESULT, 26, 1⟩
def HKC_RESULT.ROUND : Fld := ⟨.HKC_RESULT, 32, 32⟩
def HKC_CAL.OFFSET : Fld := ⟨.HKC_CAL, 0, 24⟩
def HKC_CAL.GAIN : Fld := ⟨.HKC_CAL, 32, 24⟩
def PLT_BOOT_STATE.STEP : Fld := ⟨.PLT_BOOT_STATE, 0, 4⟩
def PLT_BOOT_STATE.FW_SLOT : Fld := ⟨.PLT_BOOT_STATE, 4, 1⟩
def PLT_BOOT_STATE.FALLBACK : Fld := ⟨.PLT_BOOT_STATE, 5, 1⟩
def PLT_BOOT_STATE.HBM_READY : Fld := ⟨.PLT_BOOT_STATE, 6, 1⟩
def PLT_BOOT_STATE.DIGESTS_OK : Fld := ⟨.PLT_BOOT_STATE, 7, 1⟩
def PLT_BOOT_STATE.READY : Fld := ⟨.PLT_BOOT_STATE, 8, 1⟩
def PLT_BOOT_STATE.LOST : Fld := ⟨.PLT_BOOT_STATE, 16, 8⟩
def PLT_BOOT_STATE.BOOT_MS : Fld := ⟨.PLT_BOOT_STATE, 32, 32⟩
def PLT_BOOT_CTL.RESTORE : Fld := ⟨.PLT_BOOT_CTL, 0, 1⟩
def PLT_BOOT_CTL.BUSY : Fld := ⟨.PLT_BOOT_CTL, 1, 1⟩
def PLT_BOOT_CTL.REFUSE : Fld := ⟨.PLT_BOOT_CTL, 2, 1⟩
def PLT_BOOT_CTL.REASON : Fld := ⟨.PLT_BOOT_CTL, 3, 2⟩
def PLT_BOOT_CTL.DONE : Fld := ⟨.PLT_BOOT_CTL, 5, 1⟩
def PLT_RESET_CTL.WARM : Fld := ⟨.PLT_RESET_CTL, 0, 1⟩
def PLT_RESET_CTL.COLD : Fld := ⟨.PLT_RESET_CTL, 1, 1⟩
def PLT_FACE_RESET.FACES : Fld := ⟨.PLT_FACE_RESET, 0, 8⟩
def PLT_FACE_RESET.BUSY : Fld := ⟨.PLT_FACE_RESET, 8, 8⟩
def PLT_FACE_RESET.COUNT : Fld := ⟨.PLT_FACE_RESET, 16, 16⟩
def HIF_LINK.RATE : Fld := ⟨.HIF_LINK, 0, 3⟩
def HIF_LINK.WIDTH : Fld := ⟨.HIF_LINK, 3, 5⟩
def HIF_LINK.FLIT : Fld := ⟨.HIF_LINK, 8, 1⟩
def HIF_LINK.RETRAINS : Fld := ⟨.HIF_LINK, 16, 16⟩
def HIF_LINK.AER_CORR : Fld := ⟨.HIF_LINK, 32, 16⟩
def HIF_LINK.AER_UNCORR : Fld := ⟨.HIF_LINK, 48, 16⟩
def HIF_DB_STAT.WRITES : Fld := ⟨.HIF_DB_STAT, 0, 32⟩
def HIF_DB_STAT.BAD : Fld := ⟨.HIF_DB_STAT, 32, 16⟩
def HIF_DB_STAT.DISABLED : Fld := ⟨.HIF_DB_STAT, 48, 16⟩
def HIF_RESET_STAT.FLR0 : Fld := ⟨.HIF_RESET_STAT, 0, 16⟩
def HIF_RESET_STAT.FLR1 : Fld := ⟨.HIF_RESET_STAT, 16, 16⟩
def HIF_RESET_STAT.FLR2 : Fld := ⟨.HIF_RESET_STAT, 32, 16⟩
def HIF_RESET_STAT.HOST : Fld := ⟨.HIF_RESET_STAT, 48, 16⟩
def HIF_PF2_APERTURE.BASE : Fld := ⟨.HIF_PF2_APERTURE, 0, 6⟩
def PLT_RAIL_STAT.OUT : Fld := ⟨.PLT_RAIL_STAT, 0, 8⟩
def PLT_RAIL_STAT.SEEN : Fld := ⟨.PLT_RAIL_STAT, 8, 8⟩
def PLT_RAIL_STAT.ROUNDS_OUT : Fld := ⟨.PLT_RAIL_STAT, 16, 16⟩
def PLT_RAIL_STAT.PROG_HELD : Fld := ⟨.PLT_RAIL_STAT, 32, 1⟩
end R

/-- The heading and fields of each register. -/
def regInfo : RegId → RegInfo
  | .PLT_CAP_FACES => ⟨0x8, [], .cold, [⟨0, 8, .ro, .pf0⟩, ⟨8, 8, .ro, .pf0⟩, ⟨16, 4, .ro, .pf0⟩, ⟨24, 8, .ro, .pf0⟩]⟩
  | .PLT_CAP_UNITS => ⟨0x10, [], .cold, [⟨0, 1, .ro, .pf0⟩, ⟨1, 1, .ro, .pf0⟩, ⟨8, 8, .ro, .pf0⟩, ⟨16, 8, .ro, .pf0⟩, ⟨24, 8, .ro, .pf0⟩]⟩
  | .PLT_FACE_MAP => ⟨0x18, [], .cold, repFields 8 8 ⟨0, 3, .ro, .pf0⟩ ++ repFields 8 8 ⟨4, 3, .ro, .pf0⟩ ++ repFields 8 8 ⟨7, 1, .ro, .pf0⟩⟩
  | .SYN_TICK_PERIOD => ⟨0x2010000, [], .warm, [⟨0, 24, .rw, .pf0⟩]⟩
  | .SYN_COMMIT_WINDOW => ⟨0x2010008, [], .warm, [⟨0, 24, .rw, .pf0⟩]⟩
  | .SYN_TICK_LEAD => ⟨0x2010010, [], .warm, [⟨0, 15, .rw, .pf0⟩]⟩
  | .SYN_HAND_NUM => ⟨0x2010018, [], .warm, [⟨0, 64, .ro, .pf0⟩]⟩
  | .SYN_HAND_COMMITTED => ⟨0x2010020, [], .warm, [⟨0, 64, .ro, .pf0⟩]⟩
  | .SYN_HAND_COUNTS => ⟨0x2010028, [], .warm, [⟨0, 16, .rc, .pf0⟩, ⟨16, 16, .rc, .pf0⟩, ⟨32, 16, .rc, .pf0⟩, ⟨48, 16, .rc, .pf0⟩]⟩
  | .SYN_BATCH_CTL => ⟨0x2010030, [], .warm, [⟨0, 4, .rw, .pf0⟩, ⟨8, 16, .rw, .pf0⟩, ⟨24, 12, .rw, .pf0⟩, ⟨36, 1, .rw, .pf0⟩]⟩
  | .FCE_HAND_WARN => ⟨0x1000400, [(8, 0x100000)], .face, [⟨0, 20, .rw, .pf0⟩]⟩
  | .FCE_HAND_STATE => ⟨0x1000408, [(8, 0x100000)], .face, [⟨0, 24, .ro, .pf0⟩, ⟨24, 1, .ro, .pf0⟩, ⟨25, 1, .ro, .pf0⟩, ⟨32, 16, .rc, .pf0⟩]⟩
  | .MSH_CFG => ⟨0x4000, [], .warm, [⟨0, 4, .rw, .pf0⟩]⟩
  | .MSH_PAIR_SHARE => ⟨0x4008, [], .warm, repFields 4 8 ⟨0, 4, .rw, .pf0⟩⟩
  | .MSH_ERR => ⟨0x4010, [], .warm, [⟨0, 16, .rc, .pf0⟩, ⟨16, 16, .rc, .pf0⟩, ⟨32, 16, .rc, .pf0⟩, ⟨48, 3, .ro, .pf0⟩, ⟨51, 1, .rc, .pf0⟩]⟩
  | .MSH_RING_STAT => ⟨0x4040, [], .warm, [⟨0, 6, .rc, .pf0⟩, ⟨16, 32, .rc, .pf0⟩, ⟨48, 8, .rc, .pf0⟩]⟩
  | .MSH_ROUTER_STAT => ⟨0x4100, [(8, 0x8)], .warm, [⟨0, 32, .rc, .pf0⟩, ⟨32, 32, .rc, .pf0⟩]⟩
  | .ARF_CFG => ⟨0x1010000, [(8, 0x100000)], .face, [⟨0, 1, .rw, .pf0⟩, ⟨1, 1, .rw, .pf0⟩]⟩
  | .ARF_VEC_STAT => ⟨0x1010008, [(8, 0x100000)], .face, [⟨0, 32, .rc, .pf0⟩, ⟨32, 32, .rc, .pf0⟩]⟩
  | .ARF_SPLIT_STAT => ⟨0x1010010, [(8, 0x100000)], .face, [⟨0, 16, .rc, .pf0⟩, ⟨16, 16, .rc, .pf0⟩, ⟨32, 16, .rc, .pf0⟩, ⟨48, 16, .rc, .pf0⟩]⟩
  | .ARF_WSMAP_LO => ⟨0x1020000, [(8, 0x100000), (4096, 0x10)], .cold, [⟨0, 1, .ro, .pf0⟩, ⟨1, 1, .ro, .pf0⟩, ⟨2, 1, .ro, .pf0⟩, ⟨3, 1, .ro, .pf0⟩, ⟨4, 2, .ro, .pf0⟩, ⟨6, 7, .ro, .pf0⟩, ⟨13, 7, .ro, .pf0⟩, ⟨20, 6, .ro, .pf0⟩, ⟨26, 10, .ro, .pf0⟩, ⟨36, 9, .ro, .pf0⟩, ⟨45, 8, .ro, .pf0⟩]⟩
  | .ARF_WSMAP_HI => ⟨0x1020008, [(8, 0x100000), (4096, 0x10)], .cold, [⟨0, 6, .ro, .pf0⟩, ⟨6, 6, .ro, .pf0⟩, ⟨32, 6, .ro, .pf0⟩, ⟨38, 6, .ro, .pf0⟩]⟩
  | .BLK_ARRAY_MAP => ⟨0x1040000, [(8, 0x100000), (64, 0x1000), (8, 0x8)], .cold, repFields 8 8 ⟨0, 7, .ro, .pf0⟩ ++ repFields 8 8 ⟨7, 1, .ro, .pf0⟩⟩
  | .BLK_SPARE => ⟨0x1040040, [(8, 0x100000), (64, 0x1000)], .cold, [⟨0, 7, .ro, .pf0⟩, ⟨7, 1, .ro, .pf0⟩, ⟨8, 7, .ro, .pf0⟩, ⟨15, 1, .ro, .pf0⟩, ⟨16, 4, .ro, .pf0⟩, ⟨20, 1, .w1c, .pf0⟩]⟩
  | .BLK_ARRAY_STATE => ⟨0x1040200, [(8, 0x100000), (64, 0x1000), (72, 0x20)], .cold, [⟨0, 3, .ro, .pf0⟩, ⟨3, 4, .ro, .pf0⟩, ⟨7, 8, .ro, .pf0⟩, ⟨15, 1, .ro, .pf0⟩, ⟨16, 3, .ro, .pf0⟩, ⟨19, 1, .ro, .pf0⟩, ⟨20, 1, .ro, .pf0⟩, ⟨32, 16, .rc, .pf0⟩]⟩
  | .BLK_MASS_A => ⟨0x1040208, [(8, 0x100000), (64, 0x1000), (72, 0x20)], .cold, [⟨0, 13, .ro, .pf0⟩, ⟨16, 12, .ro, .pf0⟩, ⟨32, 12, .ro, .pf0⟩]⟩
  | .BLK_MASS_B => ⟨0x1040210, [(8, 0x100000), (64, 0x1000), (72, 0x20)], .cold, [⟨0, 9, .ro, .pf0⟩, ⟨16, 9, .ro, .pf0⟩, ⟨32, 9, .ro, .pf0⟩, ⟨48, 9, .ro, .pf0⟩]⟩
  | .ARF_ESC_STAT => ⟨0x1010018, [(8, 0x100000)], .face, [⟨0, 16, .rc, .pf0⟩, ⟨16, 16, .rc, .pf0⟩, ⟨32, 16, .rc, .pf0⟩, ⟨48, 16, .rc, .pf0⟩]⟩
  | .ARF_REPEAT_STAT => ⟨0x1010020, [(8, 0x100000)], .face, [⟨0, 16, .rc, .pf0⟩, ⟨16, 16, .rc, .pf0⟩, ⟨32, 16, .rc, .pf0⟩, ⟨48, 16, .rc, .pf0⟩]⟩
  | .ARF_OUT_STAT => ⟨0x1010028, [(8, 0x100000)], .face, [⟨0, 16, .rc, .pf0⟩, ⟨16, 16, .rc, .pf0⟩, ⟨32, 16, .rc, .pf0⟩]⟩
  | .ARF_PIN_CTL => ⟨0x1010040, [(8, 0x100000)], .warm, [⟨0, 16, .rw, .pf0⟩, ⟨16, 16, .rw, .pf0⟩, ⟨32, 24, .rw, .pf0⟩, ⟨56, 2, .rw, .pf0⟩]⟩
  | .ARF_PIN_STAT => ⟨0x1010048, [(8, 0x100000)], .warm, [⟨0, 8, .ro, .pf0⟩, ⟨8, 2, .ro, .pf0⟩, ⟨10, 1, .rc, .pf0⟩, ⟨11, 1, .w1c, .pf0⟩, ⟨16, 16, .rc, .pf0⟩, ⟨32, 16, .rc, .pf0⟩]⟩
  | .ARF_PIN => ⟨0x1010080, [(8, 0x100000), (8, 0x8)], .cold, repFields 32 2 ⟨0, 2, .rw, .pf0⟩⟩
  | .ARF_LAYER_STAT => ⟨0x1011000, [(8, 0x100000), (256, 0x8)], .warm, [⟨0, 32, .ro, .pf0⟩, ⟨32, 32, .ro, .pf0⟩]⟩
  | .BLK_ACC_STAT => ⟨0x1040048, [(8, 0x100000), (64, 0x1000)], .face, [⟨0, 32, .rc, .pf0⟩, ⟨32, 16, .rc, .pf0⟩, ⟨48, 1, .w1c, .pf0⟩]⟩
  | .ARF_SPALL => ⟨0x1030000, [(8, 0x100000), (4096, 0x10), (2, 0x8)], .cold, [⟨0, 7, .ro, .pf0⟩, ⟨7, 8, .ro, .pf0⟩, ⟨15, 10, .ro, .pf0⟩, ⟨32, 18, .ro, .pf0⟩, ⟨63, 1, .ro, .pf0⟩]⟩
  | .ARF_SPALL_STAT => ⟨0x1010030, [(8, 0x100000)], .face, [⟨0, 16, .rc, .pf0⟩, ⟨16, 16, .rc, .pf0⟩, ⟨32, 16, .rc, .pf0⟩, ⟨48, 16, .rc, .pf0⟩]⟩
  | .FIN_OP_STAT => ⟨0x1090000, [(8, 0x100000)], .face, [⟨0, 16, .rc, .pf0⟩, ⟨16, 16, .rc, .pf0⟩, ⟨32, 16, .rc, .pf0⟩]⟩
  | .FIN_NUM_STAT => ⟨0x1090008, [(8, 0x100000)], .face, [⟨0, 16, .rc, .pf0⟩, ⟨16, 16, .rc, .pf0⟩, ⟨32, 16, .rc, .pf0⟩, ⟨48, 16, .rc, .pf0⟩]⟩
  | .FIN_BUSY => ⟨0x1090010, [(8, 0x100000)], .face, [⟨0, 32, .rc, .pf0⟩, ⟨32, 32, .rc, .pf0⟩]⟩
  | .SCO_OP_STAT => ⟨0x10a0000, [(8, 0x100000)], .face, [⟨0, 16, .rc, .pf0⟩, ⟨16, 16, .rc, .pf0⟩, ⟨32, 32, .rc, .pf0⟩]⟩
  | .SCO_NUM_STAT => ⟨0x10a0008, [(8, 0x100000)], .face, [⟨0, 16, .rc, .pf0⟩, ⟨16, 16, .rc, .pf0⟩, ⟨32, 16, .rc, .pf0⟩, ⟨48, 16, .rc, .pf0⟩]⟩
  | .SCO_GATHER_STAT => ⟨0x10a0010, [(8, 0x100000)], .face, [⟨0, 32, .rc, .pf0⟩, ⟨32, 16, .rc, .pf0⟩, ⟨48, 8, .rc, .pf0⟩, ⟨56, 8, .rc, .pf0⟩]⟩
  | .SCO_BUSY => ⟨0x10a0018, [(8, 0x100000)], .face, [⟨0, 32, .rc, .pf0⟩, ⟨32, 32, .rc, .pf0⟩]⟩
  | .VEC_OP_STAT => ⟨0x10b0000, [(8, 0x100000)], .face, [⟨0, 16, .rc, .pf0⟩, ⟨16, 32, .rc, .pf0⟩]⟩
  | .VEC_NUM_STAT => ⟨0x10b0008, [(8, 0x100000)], .face, [⟨0, 16, .rc, .pf0⟩, ⟨16, 16, .rc, .pf0⟩, ⟨32, 16, .rc, .pf0⟩, ⟨48, 16, .rc, .pf0⟩]⟩
  | .SPD_CACHE_CFG => ⟨0x10c0000, [(8, 0x100000)], .warm, [⟨0, 4, .rw, .pf0⟩, ⟨4, 4, .ro, .pf0⟩, ⟨8, 1, .ro, .pf0⟩]⟩
  | .SPD_RES_G0 => ⟨0x10c0008, [(8, 0x100000)], .cold, [⟨0, 48, .rw, .pf1⟩]⟩
  | .SPD_RES_G1 => ⟨0x10c0010, [(8, 0x100000)], .cold, [⟨0, 48, .rw, .pf1⟩]⟩
  | .SPD_SB_STAT => ⟨0x10c0018, [(8, 0x100000)], .face, [⟨0, 32, .rc, .pf0⟩, ⟨32, 24, .rc, .pf0⟩, ⟨56, 7, .rc, .pf0⟩]⟩
  | .SPD_CONFLICT => ⟨0x10c0020, [(8, 0x100000)], .face, repFields 4 16 ⟨0, 16, .rc, .pf0⟩⟩
  | .SPD_CACHE_STAT => ⟨0x10c0028, [(8, 0x100000)], .face, [⟨0, 24, .rc, .pf0⟩, ⟨24, 24, .rc, .pf0⟩, ⟨48, 16, .rc, .pf0⟩]⟩
  | .SPD_ERR => ⟨0x10c0030, [(8, 0x100000)], .warm, [⟨0, 16, .rc, .pf0⟩, ⟨16, 12, .rc, .pf0⟩, ⟨28, 12, .rc, .pf0⟩, ⟨40, 8, .rc, .pf0⟩, ⟨48, 8, .rc, .pf0⟩]⟩
  | .SPD_SCRUB => ⟨0x10c0038, [(8, 0x100000)], .warm, [⟨0, 16, .rw, .pf0⟩, ⟨16, 1, .rc, .pf0⟩]⟩
  | .FCE_PROG_CTL => ⟨0x1000410, [(8, 0x100000)], .warm, [⟨0, 1, .w1s, .pf1⟩, ⟨1, 1, .w1s, .pf1⟩, ⟨2, 1, .w1s, .pf1⟩, ⟨3, 1, .w1s, .pf1⟩, ⟨4, 18, .rw, .pf1⟩]⟩
  | .FCE_PROG_SRC => ⟨0x1000418, [(8, 0x100000)], .warm, [⟨12, 52, .rw, .pf1⟩]⟩
  | .FCE_PROG_STATE => ⟨0x1000420, [(8, 0x100000)], .warm, [⟨0, 3, .ro, .pf0⟩, ⟨3, 1, .ro, .pf0⟩, ⟨8, 4, .ro, .pf0⟩, ⟨16, 16, .ro, .pf0⟩, ⟨32, 32, .ro, .pf0⟩]⟩
  | .FCE_TRAP_STAT => ⟨0x1000428, [(8, 0x100000)], .face, [⟨0, 8, .ro, .pf0⟩, ⟨8, 17, .ro, .pf0⟩, ⟨25, 1, .rc, .pf0⟩, ⟨26, 1, .w1c, .pf0⟩, ⟨32, 16, .rc, .pf0⟩, ⟨48, 16, .rc, .pf0⟩]⟩
  | .FCE_HOST_CALL => ⟨0x1000430, [(8, 0x100000)], .face, [⟨0, 1, .w1s, .pf1⟩, ⟨1, 1, .ro, .pf1⟩, ⟨2, 1, .w1c, .pf1⟩]⟩
  | .FCE_HOST_CALL_ARG => ⟨0x1000438, [(8, 0x100000)], .face, [⟨0, 64, .rw, .pf1⟩]⟩
  | .FCE_HOST_CALL_RESULT => ⟨0x1000440, [(8, 0x100000)], .face, [⟨0, 64, .ro, .pf0⟩]⟩
  | .FCE_ISSUE_STAT => ⟨0x1000448, [(8, 0x100000)], .face, [⟨0, 32, .rc, .pf0⟩, ⟨32, 32, .rc, .pf0⟩]⟩
  | .FCE_STORE_ERR => ⟨0x1000450, [(8, 0x100000)], .warm, [⟨0, 16, .rc, .pf0⟩, ⟨16, 16, .rc, .pf0⟩]⟩
  | .FCE_MOVE_STAT => ⟨0x1000458, [(8, 0x100000)], .face, [⟨0, 24, .rc, .pf0⟩, ⟨24, 20, .rc, .pf0⟩, ⟨44, 8, .rc, .pf0⟩, ⟨52, 8, .rc, .pf0⟩]⟩
  | .ARF_PROG_GRANT => ⟨0x1010100, [(8, 0x100000), (4, 0x8)], .warm, [⟨0, 12, .rw, .pf1⟩, ⟨12, 1, .rw, .pf1⟩, ⟨13, 1, .rw, .pf1⟩]⟩
  | .ARF_PROG_STAT => ⟨0x1010120, [(8, 0x100000)], .face, [⟨0, 16, .rc, .pf0⟩, ⟨16, 16, .rc, .pf0⟩, ⟨32, 16, .rc, .pf0⟩, ⟨48, 16, .rc, .pf0⟩]⟩
  | .SYN_CTR_SIG => ⟨0x1008000, [(8, 0x100000)], .warm, [⟨0, 10, .wo, .pf01⟩, ⟨15, 1, .wo, .pf01⟩, ⟨32, 32, .wo, .pf01⟩]⟩
  | .SYN_MIRROR => ⟨0x1008008, [(8, 0x100000)], .warm, [⟨0, 1, .rw, .pf0⟩, ⟨12, 52, .rw, .pf0⟩]⟩
  | .SYN_FACE_STAT => ⟨0x1008010, [(8, 0x100000)], .face, [⟨0, 16, .rc, .pf0⟩, ⟨16, 16, .rc, .pf0⟩, ⟨32, 16, .rc, .pf0⟩]⟩
  | .SYN_CTR_VAL => ⟨0x100a000, [(8, 0x100000), (1024, 0x8)], .warm, [⟨0, 32, .ro, .pf0⟩, ⟨32, 32, .ro, .pf0⟩]⟩
  | .SYN_CTR_NOTIFY => ⟨0x100c000, [(8, 0x100000), (1024, 0x8)], .warm, [⟨0, 1, .rw, .pf0⟩, ⟨1, 1, .w1s, .pf0⟩, ⟨2, 11, .rw, .pf0⟩, ⟨32, 32, .rw, .pf0⟩]⟩
  | .SYN_WIN_CFG => ⟨0x100e000, [(8, 0x100000), (256, 0x20)], .warm, [⟨0, 18, .rw, .pf0⟩, ⟨18, 15, .rw, .pf0⟩, ⟨33, 3, .rw, .pf0⟩, ⟨36, 1, .rw, .pf0⟩, ⟨37, 10, .rw, .pf0⟩, ⟨47, 8, .rw, .pf0⟩, ⟨55, 1, .w1s, .pf0⟩, ⟨56, 1, .w1s, .pf0⟩]⟩
  | .SYN_WIN_EPOCH => ⟨0x100e008, [(8, 0x100000), (256, 0x20)], .warm, [⟨0, 64, .rw, .pf0⟩]⟩
  | .SYN_WIN_STATE => ⟨0x100e010, [(8, 0x100000), (256, 0x20)], .warm, [⟨0, 2, .ro, .pf0⟩, ⟨2, 1, .w1c, .pf0⟩, ⟨16, 12, .rw, .pf0⟩, ⟨32, 4, .ro, .pf0⟩, ⟨36, 4, .ro, .pf0⟩]⟩
  | .SYN_WIN_STAT => ⟨0x100e018, [(8, 0x100000), (256, 0x20)], .warm, [⟨0, 12, .rc, .pf0⟩, ⟨12, 12, .rc, .pf0⟩, ⟨24, 12, .rc, .pf0⟩, ⟨36, 8, .rc, .pf0⟩, ⟨44, 8, .rc, .pf0⟩, ⟨52, 8, .rc, .pf0⟩]⟩
  | .SYN_TRICK_CFG => ⟨0x2011000, [(256, 0x8)], .warm, [⟨0, 4, .rw, .pf0⟩, ⟨4, 3, .rw, .pf0⟩, ⟨32, 4, .ro, .pf0⟩, ⟨36, 28, .ro, .pf0⟩]⟩
  | .SYN_DTRICK_CFG => ⟨0x2011800, [(64, 0x8)], .warm, [⟨0, 16, .rw, .pf0⟩, ⟨32, 16, .ro, .pf0⟩]⟩
  | .PLT_WIMG_CTL => ⟨0x6000, [], .warm, [⟨0, 1, .w1s, .pf01⟩, ⟨1, 1, .w1s, .pf01⟩, ⟨2, 1, .rw, .pf1⟩, ⟨3, 1, .rw, .pf1⟩, ⟨4, 4, .rw, .pf1⟩]⟩
  | .PLT_WIMG_SRC => ⟨0x6008, [], .warm, [⟨12, 52, .rw, .pf1⟩]⟩
  | .PLT_WIMG_STATE => ⟨0x6010, [], .warm, [⟨0, 2, .ro, .pf0⟩, ⟨8, 4, .ro, .pf0⟩, ⟨12, 20, .ro, .pf0⟩, ⟨32, 16, .rc, .pf0⟩]⟩
  | .PLT_PUT_SRC => ⟨0x6058, [], .warm, [⟨0, 64, .rw, .pf1⟩]⟩
  | .PLT_PUT_DST => ⟨0x6060, [], .warm, [⟨0, 48, .rw, .pf1⟩]⟩
  | .PLT_PUT_CTL => ⟨0x6068, [], .warm, [⟨0, 32, .rw, .pf1⟩, ⟨32, 1, .w1s, .pf1⟩, ⟨33, 1, .ro, .pf0⟩, ⟨34, 1, .w1c, .pf0⟩, ⟨35, 1, .w1c, .pf0⟩, ⟨36, 3, .ro, .pf0⟩]⟩
  | .PLT_BUILD_CTL => ⟨0x6018, [], .warm, [⟨0, 12, .rw, .pf1⟩, ⟨12, 1, .rw, .pf1⟩, ⟨13, 1, .rw, .pf1⟩, ⟨14, 1, .w1s, .pf01⟩, ⟨15, 1, .ro, .pf0⟩]⟩
  | .PLT_CUT_CTL => ⟨0x6020, [], .warm, [⟨0, 12, .rw, .pf1⟩, ⟨12, 1, .rw, .pf1⟩, ⟨13, 1, .w1s, .pf01⟩]⟩
  | .PLT_CUT_HAND => ⟨0x6028, [], .warm, [⟨0, 64, .rw, .pf1⟩]⟩
  | .PLT_CUT_STATE => ⟨0x6030, [], .warm, [⟨0, 48, .ro, .pf0⟩, ⟨48, 12, .ro, .pf0⟩, ⟨60, 1, .w1c, .pf0⟩, ⟨61, 1, .ro, .pf0⟩]⟩
  | .PLT_PROG_STAT => ⟨0x6038, [], .warm, [⟨0, 4, .ro, .pf0⟩, ⟨4, 16, .ro, .pf0⟩, ⟨20, 16, .rc, .pf0⟩, ⟨36, 16, .rc, .pf0⟩]⟩
  | .PLT_DIGEST_CFG => ⟨0x6040, [], .warm, [⟨0, 16, .rw, .pf1⟩, ⟨16, 5, .rw, .pf1⟩, ⟨32, 21, .rw, .pf1⟩]⟩
  | .PLT_TALLY_STAT => ⟨0x6048, [], .warm, [⟨0, 16, .rc, .pf0⟩, ⟨16, 16, .rc, .pf0⟩, ⟨32, 16, .rc, .pf0⟩, ⟨48, 16, .rc, .pf0⟩]⟩
  | .ARF_WSVER => ⟨0x1080000, [(8, 0x100000), (4096, 0x8)], .cold, [⟨0, 32, .ro, .pf0⟩, ⟨32, 32, .ro, .pf0⟩]⟩
  | .BLK_WEAR => ⟨0x1040218, [(8, 0x100000), (64, 0x1000), (72, 0x20)], .cold, [⟨0, 14, .ro, .pf0⟩, ⟨14, 1, .ro, .pf0⟩, ⟨16, 16, .ro, .pf0⟩]⟩
  | .SRV_MODE => ⟨0x2020000, [], .warm, [⟨0, 3, .rw, .pf0⟩]⟩
  | .SRV_ADMIT => ⟨0x2020008, [], .warm, [⟨0, 24, .rw, .pf0⟩, ⟨24, 4, .rw, .pf0⟩, ⟨28, 8, .rw, .pf0⟩, ⟨36, 13, .rw, .pf0⟩, ⟨49, 10, .rw, .pf0⟩]⟩
  | .SRV_MODEL => ⟨0x2020010, [], .warm, [⟨0, 16, .rw, .pf1⟩, ⟨16, 16, .rw, .pf1⟩, ⟨32, 16, .rw, .pf1⟩, ⟨48, 11, .rw, .pf1⟩]⟩
  | .SRV_VOCAB => ⟨0x2020018, [], .warm, [⟨0, 19, .rw, .pf1⟩]⟩
  | .SRV_PAGE_CFG => ⟨0x2020020, [], .warm, [⟨0, 20, .rw, .pf1⟩, ⟨20, 12, .rw, .pf1⟩, ⟨32, 12, .rw, .pf1⟩, ⟨44, 4, .rw, .pf1⟩]⟩
  | .SRV_FACE_PAGES => ⟨0x2020040, [(8, 0x8)], .warm, [⟨0, 36, .rw, .pf1⟩]⟩
  | .SRV_FACE_SEALS => ⟨0x2020080, [(8, 0x8)], .warm, [⟨0, 36, .rw, .pf1⟩]⟩
  | .SRV_STOCK_CFG => ⟨0x20200c0, [], .warm, [⟨0, 20, .rw, .pf0⟩, ⟨20, 12, .rw, .pf0⟩, ⟨32, 12, .rw, .pf0⟩]⟩
  | .SRV_STOCK_BASE => ⟨0x20200c8, [], .warm, [⟨12, 52, .rw, .pf0⟩]⟩
  | .SRV_STOCK_SLOTS => ⟨0x20200d0, [], .warm, [⟨0, 26, .rw, .pf0⟩]⟩
  | .SRV_FREE => ⟨0x20200d8, [], .warm, [⟨0, 20, .ro, .pf0⟩, ⟨20, 26, .ro, .pf0⟩]⟩
  | .SRV_HELD => ⟨0x20200e0, [], .warm, [⟨0, 15, .ro, .pf0⟩, ⟨32, 16, .ro, .pf0⟩]⟩
  | .SRV_STAT => ⟨0x20200e8, [], .warm, [⟨0, 16, .rc, .pf0⟩, ⟨16, 16, .rc, .pf0⟩, ⟨32, 16, .rc, .pf0⟩, ⟨48, 16, .rc, .pf0⟩]⟩
  | .SRV_PFX_CTL => ⟨0x2020100, [], .warm, [⟨0, 12, .rw, .pf0⟩, ⟨12, 7, .rw, .pf0⟩, ⟨19, 1, .w1s, .pf0⟩, ⟨20, 1, .w1s, .pf0⟩]⟩
  | .SRV_PFX_SRC => ⟨0x2020108, [], .warm, [⟨12, 52, .rw, .pf0⟩]⟩
  | .SRV_PFX_STATE => ⟨0x2040000, [(4096, 0x8)], .warm, [⟨0, 2, .ro, .pf0⟩, ⟨2, 7, .ro, .pf0⟩, ⟨9, 15, .ro, .pf0⟩, ⟨24, 1, .w1c, .pf0⟩]⟩
  | .SRV_RING_SQ => ⟨0x2100000, [(16384, 0x20)], .function, [⟨0, 5, .rw, .pf0⟩, ⟨12, 52, .rw, .pf0⟩]⟩
  | .SRV_RING_CQ => ⟨0x2100008, [(16384, 0x20)], .function, [⟨0, 5, .rw, .pf0⟩, ⟨12, 52, .rw, .pf0⟩]⟩
  | .SRV_RING_CTL => ⟨0x2100010, [(16384, 0x20)], .function, [⟨0, 1, .rw, .pf0⟩, ⟨1, 1, .rw, .pf0⟩, ⟨2, 11, .rw, .pf0⟩]⟩
  | .SRV_RING_STAT => ⟨0x2100018, [(16384, 0x20)], .function, [⟨0, 16, .ro, .pf0⟩, ⟨16, 16, .ro, .pf0⟩, ⟨32, 13, .ro, .pf0⟩, ⟨45, 1, .w1c, .pf0⟩]⟩
  | .SRV_SEAT => ⟨0x2180000, [(16384, 0x8)], .warm, [⟨0, 3, .ro, .pf0⟩, ⟨3, 18, .ro, .pf0⟩, ⟨21, 14, .ro, .pf0⟩, ⟨35, 12, .ro, .pf0⟩, ⟨47, 12, .ro, .pf0⟩]⟩
  | .DLR_CFG => ⟨0x2060000, [(16, 0x8)], .warm, [⟨0, 19, .rw, .pf1⟩]⟩
  | .DLR_EOS => ⟨0x2060080, [(16, 0x8)], .warm, [⟨0, 18, .rw, .pf1⟩, ⟨18, 1, .rw, .pf1⟩, ⟨32, 18, .rw, .pf1⟩, ⟨50, 1, .rw, .pf1⟩]⟩
  | .DLR_GRAM_SRC => ⟨0x2060100, [], .warm, [⟨12, 52, .rw, .pf0⟩]⟩
  | .DLR_GRAM_CTL => ⟨0x2060108, [], .warm, [⟨0, 6, .rw, .pf0⟩, ⟨6, 15, .rw, .pf0⟩, ⟨21, 21, .rw, .pf0⟩, ⟨42, 1, .w1s, .pf0⟩, ⟨43, 1, .w1s, .pf0⟩]⟩
  | .DLR_GRAM_STATE => ⟨0x2060200, [(64, 0x8)], .warm, [⟨0, 2, .ro, .pf0⟩, ⟨2, 15, .ro, .pf0⟩, ⟨17, 1, .w1c, .pf0⟩, ⟨18, 4, .ro, .pf0⟩]⟩
  | .DLR_STAT => ⟨0x2060400, [], .warm, [⟨0, 24, .rc, .pf0⟩, ⟨24, 16, .rc, .pf0⟩, ⟨40, 8, .rc, .pf0⟩, ⟨48, 8, .rc, .pf0⟩]⟩
  | .DLR_DRAFT_STAT => ⟨0x2060408, [], .warm, [⟨0, 24, .rc, .pf0⟩, ⟨24, 24, .rc, .pf0⟩, ⟨48, 16, .rc, .pf0⟩]⟩
  | .DLR_BUSY => ⟨0x2060410, [], .warm, [⟨0, 32, .rc, .pf0⟩, ⟨32, 32, .rc, .pf0⟩]⟩
  | .LNK_DEV_ADDR => ⟨0x3000000, [], .cold, [⟨0, 12, .rw, .pf1⟩]⟩
  | .LNK_TREE => ⟨0x3000008, [(2, 0x8)], .warm, [⟨0, 3, .rw, .pf1m⟩, ⟨3, 1, .rw, .pf1m⟩, ⟨8, 6, .rw, .pf1m⟩]⟩
  | .LNK_TIME_STAT => ⟨0x3000018, [], .warm, [⟨0, 16, .ro, .pf0⟩, ⟨16, 1, .ro, .pf0⟩, ⟨17, 1, .ro, .pf0⟩, ⟨32, 16, .rc, .pf0⟩]⟩
  | .LNK_BYP_CTL => ⟨0x3000020, [], .cold, [⟨0, 1, .w1s, .pf1⟩, ⟨1, 1, .w1s, .pf1⟩, ⟨2, 1, .rw, .pf1⟩, ⟨3, 1, .ro, .pf0⟩, ⟨4, 1, .ro, .pf0⟩]⟩
  | .LNK_BYP_HAND => ⟨0x3000028, [], .cold, [⟨0, 64, .rw, .pf1⟩]⟩
  | .LNK_ROUTE => ⟨0x3010000, [(512, 0x8)], .warm, repFields 8 8 ⟨0, 3, .rw, .pf1m⟩ ++ repFields 8 8 ⟨3, 1, .rw, .pf1m⟩ ++ repFields 8 8 ⟨4, 1, .rw, .pf1m⟩⟩
  | .LNK_PORT_CTL => ⟨0x3020000, [(6, 0x100)], .warm, [⟨0, 1, .rw, .pf1⟩, ⟨1, 1, .w1s, .pf0⟩, ⟨2, 1, .rw, .pf1⟩, ⟨3, 5, .rw, .pf1⟩, ⟨8, 8, .rw, .pf1⟩]⟩
  | .LNK_PORT_STATE => ⟨0x3020008, [(6, 0x100)], .link, [⟨0, 3, .ro, .pf0⟩, ⟨3, 5, .ro, .pf0⟩, ⟨8, 1, .ro, .pf0⟩, ⟨16, 12, .ro, .pf0⟩, ⟨28, 3, .ro, .pf0⟩]⟩
  | .LNK_LANE_STATE => ⟨0x3020010, [(6, 0x100)], .link, [⟨0, 17, .ro, .pf0⟩, ⟨17, 5, .ro, .pf0⟩, ⟨22, 1, .ro, .pf0⟩]⟩
  | .LNK_LANE_CFG => ⟨0x3020018, [(6, 0x100)], .warm, [⟨0, 32, .rw, .pf1⟩]⟩
  | .LNK_PORT_STAT => ⟨0x3020020, [(6, 0x100)], .link, [⟨0, 16, .rc, .pf0⟩, ⟨16, 8, .rc, .pf0⟩, ⟨24, 8, .rc, .pf0⟩, ⟨32, 16, .rc, .pf0⟩, ⟨48, 8, .rc, .pf0⟩, ⟨56, 8, .rc, .pf0⟩]⟩
  | .LNK_PARCEL_STAT => ⟨0x3020028, [(6, 0x100)], .link, [⟨0, 32, .rc, .pf0⟩, ⟨32, 8, .rc, .pf0⟩, ⟨40, 8, .rc, .pf0⟩, ⟨48, 16, .rc, .pf0⟩]⟩
  | .SYN_ROLE => ⟨0x2012000, [], .warm, [⟨0, 2, .ro, .pf0⟩, ⟨4, 12, .ro, .pf0⟩, ⟨16, 12, .ro, .pf0⟩, ⟨28, 1, .ro, .pf0⟩, ⟨32, 32, .ro, .pf0⟩]⟩
  | .SYN_ROLE_CAND => ⟨0x2012008, [], .warm, [⟨0, 12, .rw, .mgmt⟩, ⟨12, 12, .rw, .mgmt⟩, ⟨24, 12, .rw, .mgmt⟩, ⟨36, 12, .rw, .mgmt⟩, ⟨48, 3, .rw, .mgmt⟩]⟩
  | .SYN_DOMAIN_CFG => ⟨0x2012010, [], .warm, [⟨0, 16, .rw, .pf0⟩, ⟨16, 4, .rw, .pf0⟩, ⟨20, 8, .rw, .pf0⟩]⟩
  | .SYN_JOIN_CTL => ⟨0x2012018, [], .warm, [⟨0, 8, .rw, .pf0⟩, ⟨8, 1, .w1s, .pf0⟩, ⟨9, 1, .w1c, .pf0⟩, ⟨10, 3, .ro, .pf0⟩]⟩
  | .SYN_JOIN_HAND => ⟨0x2012020, [], .warm, [⟨0, 64, .rw, .pf0⟩]⟩
  | .SYN_RETIRE_CTL => ⟨0x2012028, [], .warm, [⟨0, 8, .rw, .pf0⟩, ⟨8, 1, .rw, .pf0⟩, ⟨9, 1, .w1s, .pf0⟩, ⟨10, 1, .w1c, .pf0⟩, ⟨32, 32, .rw, .pf0⟩]⟩
  | .SYN_DOMAIN_STAT => ⟨0x2012030, [], .warm, [⟨0, 8, .rc, .pf0⟩, ⟨8, 8, .rc, .pf0⟩, ⟨16, 16, .rc, .pf0⟩, ⟨32, 16, .rc, .pf0⟩, ⟨48, 16, .rc, .pf0⟩]⟩
  | .SYN_REPLICA => ⟨0x2012400, [(256, 0x8)], .warm, [⟨0, 3, .ro, .pf0⟩, ⟨3, 12, .ro, .pf0⟩, ⟨15, 12, .ro, .pf0⟩, ⟨27, 12, .ro, .pf0⟩, ⟨39, 1, .ro, .pf0⟩]⟩
  | .MEM_WREG => ⟨0x2800000, [(8, 0x10)], .warm, [⟨0, 16, .rw, .pf1⟩, ⟨16, 16, .rw, .pf1⟩]⟩
  | .MEM_SREG => ⟨0x2800008, [(8, 0x10)], .warm, [⟨0, 16, .rw, .pf1⟩, ⟨16, 16, .rw, .pf1⟩]⟩
  | .MEM_ERR => ⟨0x2800100, [(8, 0x8)], .warm, [⟨0, 16, .rc, .pf0⟩, ⟨16, 8, .rc, .pf0⟩, ⟨24, 8, .rc, .pf0⟩, ⟨32, 8, .rc, .pf0⟩, ⟨40, 8, .rc, .pf0⟩, ⟨48, 8, .rc, .pf0⟩, ⟨56, 8, .rc, .pf0⟩]⟩
  | .MEM_SCRUB => ⟨0x2800200, [], .warm, [⟨0, 20, .rw, .pf0⟩, ⟨20, 1, .rc, .pf0⟩]⟩
  | .MEM_STOCK_META => ⟨0x2800208, [], .warm, [⟨12, 52, .rw, .pf0⟩]⟩
  | .MEM_STOCK_STAT => ⟨0x2800210, [], .warm, [⟨0, 20, .rc, .pf0⟩, ⟨20, 20, .rc, .pf0⟩, ⟨40, 8, .rc, .pf0⟩, ⟨48, 16, .rc, .pf0⟩]⟩
  | .KEY_STATE => ⟨0x2880000, [], .cold, [⟨0, 32, .ro, .pf0⟩, ⟨32, 1, .ro, .pf0⟩, ⟨33, 1, .ro, .pf0⟩, ⟨34, 1, .ro, .pf0⟩, ⟨35, 1, .ro, .pf0⟩]⟩
  | .KEY_ROT_CTL => ⟨0x2880008, [], .cold, [⟨0, 1, .w1s, .pf0⟩, ⟨1, 1, .w1c, .pf0⟩, ⟨2, 2, .ro, .pf0⟩, ⟨4, 1, .w1c, .pf0⟩]⟩
  | .KEY_SWEEP_CFG => ⟨0x2880010, [], .cold, [⟨0, 5, .rw, .pf0⟩, ⟨5, 11, .rw, .pf0⟩]⟩
  | .KEY_SWEEP_STAT => ⟨0x2880018, [], .cold, [⟨0, 8, .ro, .pf0⟩, ⟨8, 24, .ro, .pf0⟩, ⟨32, 32, .rc, .pf0⟩]⟩
  | .KEY_SESSION => ⟨0x2880020, [], .cold, [⟨0, 3, .ro, .pf0⟩, ⟨3, 1, .w1c, .pf0⟩, ⟨4, 3, .ro, .pf0⟩, ⟨32, 32, .rw, .pf0⟩]⟩
  | .KEY_SESSION_CTL => ⟨0x2880028, [], .cold, [⟨0, 1, .w1s, .pf0⟩, ⟨1, 1, .w1s, .pf0⟩, ⟨2, 1, .rw, .pf0⟩, ⟨3, 1, .w1c, .pf0⟩, ⟨4, 3, .ro, .pf0⟩, ⟨7, 1, .rw, .pf0⟩, ⟨8, 11, .rw, .pf0⟩]⟩
  | .KEY_RELEASE_HAND => ⟨0x2880030, [], .cold, [⟨0, 64, .rw, .pf0⟩]⟩
  | .PLT_LIFECYCLE => ⟨0x20, [], .cold, [⟨0, 2, .ro, .pf0⟩, ⟨2, 1, .ro, .pf0⟩, ⟨3, 1, .ro, .pf0⟩, ⟨8, 3, .ro, .pf0⟩, ⟨16, 16, .rc, .pf0⟩]⟩
  | .PLT_WIMG_FLOOR => ⟨0x6050, [], .cold, [⟨0, 32, .rw, .mgmt⟩, ⟨32, 4, .ro, .pf0⟩]⟩
  | .PLT_DBG_CTL => ⟨0x800, [], .warm, [⟨0, 25, .rw, .pf0⟩, ⟨25, 3, .rw, .pf0⟩]⟩
  | .PLT_DBG_DATA => ⟨0x880, [(16, 0x8)], .warm, [⟨0, 64, .ro, .pf0⟩]⟩
  | .CAL_CFG => ⟨0x7000, [], .warm, [⟨0, 4, .rw, .pf0⟩, ⟨4, 12, .rw, .pf0⟩, ⟨16, 5, .rw, .pf0⟩, ⟨21, 8, .rw, .pf0⟩, ⟨29, 8, .rw, .pf0⟩, ⟨37, 10, .rw, .pf0⟩]⟩
  | .CAL_REQ => ⟨0x7008, [], .warm, [⟨0, 3, .rw, .pf0⟩, ⟨3, 6, .rw, .pf0⟩, ⟨9, 1, .rw, .pf0⟩, ⟨10, 3, .rw, .pf0⟩, ⟨13, 1, .rw, .pf0⟩, ⟨14, 1, .w1s, .pf0⟩]⟩
  | .CAL_STAT => ⟨0x7010, [], .warm, [⟨0, 16, .rc, .pf0⟩, ⟨16, 16, .rc, .pf0⟩, ⟨32, 16, .rc, .pf0⟩, ⟨48, 16, .rc, .pf0⟩]⟩
  | .CAL_MON_CFG => ⟨0x7018, [], .warm, [⟨0, 4, .rw, .pf0⟩, ⟨4, 5, .rw, .pf0⟩, ⟨9, 4, .rw, .pf0⟩, ⟨13, 1, .rw, .pf0⟩]⟩
  | .CAL_DUP_CFG => ⟨0x7020, [], .warm, [⟨0, 5, .rw, .pf0⟩, ⟨5, 8, .rw, .pf0⟩, ⟨13, 10, .rw, .pf0⟩, ⟨23, 1, .rw, .pf0⟩]⟩
  | .CAL_DUP_STAT => ⟨0x7028, [], .warm, [⟨0, 16, .rc, .pf0⟩, ⟨16, 16, .rc, .pf0⟩, ⟨32, 16, .rc, .pf0⟩, ⟨48, 16, .rc, .pf0⟩]⟩
  | .CAL_LANE_CFG => ⟨0x7030, [], .warm, [⟨0, 8, .rw, .pf0⟩]⟩
  | .CAL_BLK_STATE => ⟨0x1040050, [(8, 0x100000), (64, 0x1000)], .warm, [⟨0, 2, .ro, .pf0⟩, ⟨2, 1, .ro, .pf0⟩, ⟨3, 3, .ro, .pf0⟩, ⟨6, 1, .ro, .pf0⟩, ⟨8, 8, .ro, .pf0⟩, ⟨16, 16, .ro, .pf0⟩, ⟨32, 9, .ro, .pf0⟩, ⟨41, 6, .ro, .pf0⟩, ⟨47, 1, .ro, .pf0⟩, ⟨48, 16, .rc, .pf0⟩]⟩
  | .CAL_LANE_STATE => ⟨0x3020030, [(6, 0x100)], .link, [⟨0, 17, .ro, .pf0⟩, ⟨32, 17, .ro, .pf0⟩, ⟨49, 1, .ro, .pf0⟩]⟩
  | .FLT_CFG => ⟨0x8000, [], .warm, [⟨0, 16, .rw, .pf0⟩, ⟨16, 4, .rw, .pf0⟩]⟩
  | .FLT_STATUS => ⟨0x8008, [], .warm, [⟨0, 7, .ro, .pf0⟩, ⟨7, 1, .w1c, .pf0⟩, ⟨8, 16, .rc, .pf0⟩, ⟨24, 1, .ro, .pf0⟩, ⟨25, 1, .w1c, .pf0⟩]⟩
  | .FLT_FATAL => ⟨0x8010, [], .warm, [⟨0, 1, .ro, .pf0⟩, ⟨1, 1, .w1c, .pf0⟩, ⟨2, 6, .ro, .pf0⟩, ⟨8, 1, .ro, .pf0⟩]⟩
  | .FLT_LOG_CFG => ⟨0x8018, [], .cold, [⟨0, 3, .rw, .pf1⟩, ⟨3, 5, .rw, .pf1⟩, ⟨8, 16, .rw, .pf1⟩]⟩
  | .FLT_LOG_NEXT => ⟨0x8020, [], .cold, [⟨0, 64, .ro, .pf0⟩]⟩
  | .FLT_LOG_READ => ⟨0x8028, [], .warm, [⟨0, 20, .rw, .pf02⟩]⟩
  | .FLT_LOG_DATA => ⟨0x8040, [(8, 0x8)], .warm, [⟨0, 64, .ro, .pf0⟩]⟩
  | .FLT_HOST_RING => ⟨0x8030, [], .function, [⟨0, 1, .rw, .pf02⟩, ⟨1, 5, .rw, .pf02⟩, ⟨12, 52, .rw, .pf02⟩]⟩
  | .FLT_HOST_HEAD => ⟨0x8038, [], .function, [⟨0, 16, .rw, .pf02⟩, ⟨16, 16, .ro, .pf02⟩, ⟨32, 16, .rc, .pf02⟩, ⟨48, 1, .rw, .pf02⟩, ⟨49, 6, .rw, .pf02⟩]⟩
  | .FLT_HIST_STAT => ⟨0x8080, [], .cold, [⟨0, 17, .ro, .pf0⟩, ⟨17, 15, .ro, .pf0⟩, ⟨32, 32, .ro, .pf0⟩]⟩
  | .FLT_HIST_QUERY => ⟨0x8088, [], .warm, [⟨0, 32, .rw, .pf0⟩, ⟨32, 1, .ro, .pf0⟩, ⟨33, 1, .ro, .pf0⟩, ⟨48, 16, .ro, .pf0⟩]⟩
  | .FLT_HIST_CLEAR => ⟨0x8098, [], .warm, [⟨0, 32, .rw, .mgmt⟩, ⟨32, 1, .rw, .mgmt⟩, ⟨33, 1, .rw, .mgmt⟩]⟩
  | .FLT_INJ_CTL => ⟨0x8100, [(8, 0x18)], .warm, [⟨0, 8, .rw, .inj⟩, ⟨8, 2, .rw, .inj⟩, ⟨10, 1, .rw, .inj⟩, ⟨11, 1, .rw, .inj⟩, ⟨12, 20, .rw, .inj⟩, ⟨32, 16, .rw, .inj⟩, ⟨48, 16, .rc, .pf0⟩]⟩
  | .FLT_INJ_UNIT => ⟨0x8108, [(8, 0x18)], .warm, [⟨0, 32, .rw, .inj⟩, ⟨32, 32, .rw, .inj⟩]⟩
  | .FLT_PROBE_STAT => ⟨0x8200, [], .warm, [⟨0, 32, .ro, .pf0⟩, ⟨32, 2, .ro, .pf0⟩, ⟨34, 4, .ro, .pf0⟩, ⟨38, 10, .rc, .pf0⟩, ⟨48, 8, .rc, .pf0⟩, ⟨56, 8, .rc, .pf0⟩]⟩
  | .PWR_DOM_REQ => ⟨0x9000, [], .warm, repFields 30 2 ⟨0, 2, .rw, .pf1m⟩⟩
  | .PWR_DOM_STATE => ⟨0x9008, [], .warm, repFields 30 2 ⟨0, 2, .ro, .pf0⟩⟩
  | .PWR_DOM_STAT => ⟨0x9010, [], .warm, [⟨0, 5, .ro, .pf0⟩, ⟨5, 1, .w1c, .pf0⟩, ⟨6, 3, .ro, .pf0⟩, ⟨32, 16, .rc, .pf0⟩]⟩
  | .PWR_LIMIT => ⟨0x9018, [], .warm, [⟨0, 10, .rw, .pf1m⟩]⟩
  | .PWR_GOV => ⟨0x9020, [], .warm, [⟨0, 4, .rw, .pf1m⟩, ⟨4, 8, .rw, .pf1m⟩, ⟨12, 8, .rw, .pf1m⟩]⟩
  | .PWR_STAT => ⟨0x9028, [], .warm, [⟨0, 10, .ro, .pf0⟩, ⟨10, 5, .ro, .pf0⟩, ⟨15, 1, .ro, .pf0⟩, ⟨16, 16, .ro, .pf0⟩, ⟨32, 16, .rc, .pf0⟩]⟩
  | .PWR_FACE_CLK => ⟨0x9030, [(8, 0x8)], .warm, [⟨0, 5, .ro, .pf0⟩, ⟨5, 5, .ro, .pf0⟩, ⟨32, 32, .rc, .pf0⟩]⟩
  | .PWR_DROOP_CFG => ⟨0x9080, [], .warm, [⟨0, 8, .rw, .pf1m⟩, ⟨8, 8, .rw, .pf1m⟩, ⟨16, 1, .rw, .pf1m⟩]⟩
  | .PWR_DROOP_STAT => ⟨0x9088, [(8, 0x8)], .warm, [⟨0, 16, .rc, .pf0⟩, ⟨16, 16, .rc, .pf0⟩, ⟨32, 32, .rc, .pf0⟩]⟩
  | .THM_CFG => ⟨0x9800, [], .warm, [⟨0, 6, .rw, .pf02⟩, ⟨6, 1, .rw, .pf02⟩]⟩
  | .THM_STATUS => ⟨0x9808, [], .warm, [⟨0, 8, .ro, .pf0⟩, ⟨8, 8, .ro, .pf0⟩, ⟨16, 8, .ro, .pf0⟩, ⟨24, 8, .ro, .pf0⟩, ⟨32, 8, .ro, .pf0⟩, ⟨40, 8, .ro, .pf0⟩]⟩
  | .THM_SENSOR => ⟨0x9900, [(72, 0x8)], .warm, [⟨0, 12, .ro, .pf0⟩, ⟨12, 1, .ro, .pf0⟩, ⟨13, 1, .ro, .pf0⟩, ⟨14, 1, .ro, .pf0⟩]⟩
  | .HKC_CTL => ⟨0xa000, [], .warm, [⟨0, 1, .rw, .pf1m⟩, ⟨1, 1, .w1s, .pf1⟩, ⟨2, 1, .rw, .pf1m⟩, ⟨7, 16, .rw, .pf1m⟩, ⟨23, 8, .rw, .pf1m⟩]⟩
  | .HKC_STAT => ⟨0xa008, [], .warm, [⟨0, 1, .ro, .pf0⟩, ⟨1, 1, .ro, .pf0⟩, ⟨2, 1, .ro, .pf0⟩, ⟨16, 32, .rc, .pf0⟩, ⟨48, 16, .rc, .pf0⟩]⟩
  | .HKC_SEQ => ⟨0xa100, [(128, 0x8)], .warm, [⟨0, 7, .rw, .pf1m⟩, ⟨7, 2, .rw, .pf1m⟩, ⟨9, 12, .rw, .pf1m⟩, ⟨21, 2, .rw, .pf1m⟩]⟩
  | .HKC_RESULT => ⟨0xa500, [(128, 0x8)], .warm, [⟨0, 24, .ro, .pf0⟩, ⟨24, 1, .ro, .pf0⟩, ⟨25, 1, .ro, .pf0⟩, ⟨26, 1, .ro, .pf0⟩, ⟨32, 32, .ro, .pf0⟩]⟩
  | .HKC_CAL => ⟨0xa900, [(4, 0x8)], .warm, [⟨0, 24, .ro, .pf0⟩, ⟨32, 24, .ro, .pf0⟩]⟩
  | .PLT_BOOT_STATE => ⟨0x28, [], .cold, [⟨0, 4, .ro, .pf0⟩, ⟨4, 1, .ro, .pf0⟩, ⟨5, 1, .ro, .pf0⟩, ⟨6, 1, .ro, .pf0⟩, ⟨7, 1, .ro, .pf0⟩, ⟨8, 1, .ro, .pf0⟩, ⟨16, 8, .ro, .pf0⟩, ⟨32, 32, .ro, .pf0⟩]⟩
  | .PLT_BOOT_CTL => ⟨0x30, [], .warm, [⟨0, 1, .w1s, .pf1m⟩, ⟨1, 1, .ro, .pf0⟩, ⟨2, 1, .w1c, .pf0⟩, ⟨3, 2, .ro, .pf0⟩, ⟨5, 1, .w1c, .pf0⟩]⟩
  | .PLT_RESET_CTL => ⟨0x38, [], .cold, [⟨0, 1, .w1s, .pf1m⟩, ⟨1, 1, .w1s, .mgmt⟩]⟩
  | .PLT_FACE_RESET => ⟨0x40, [], .warm, [⟨0, 8, .w1s, .pf1m⟩, ⟨8, 8, .ro, .pf0⟩, ⟨16, 16, .rc, .pf0⟩]⟩
  | .HIF_LINK => ⟨0x3810000, [], .cold, [⟨0, 3, .ro, .pf0⟩, ⟨3, 5, .ro, .pf0⟩, ⟨8, 1, .ro, .pf0⟩, ⟨16, 16, .rc, .pf0⟩, ⟨32, 16, .rc, .pf0⟩, ⟨48, 16, .rc, .pf0⟩]⟩
  | .HIF_DB_STAT => ⟨0x3810008, [], .function, [⟨0, 32, .rc, .pf0⟩, ⟨32, 16, .rc, .pf0⟩, ⟨48, 16, .rc, .pf0⟩]⟩
  | .HIF_RESET_STAT => ⟨0x3810010, [], .cold, [⟨0, 16, .rc, .pf0⟩, ⟨16, 16, .rc, .pf0⟩, ⟨32, 16, .rc, .pf0⟩, ⟨48, 16, .rc, .pf0⟩]⟩
  | .HIF_PF2_APERTURE => ⟨0x4000000, [], .function, [⟨0, 6, .rw, .pf2⟩]⟩
  | .PLT_RAIL_STAT => ⟨0xb000, [], .warm, [⟨0, 8, .ro, .pf0⟩, ⟨8, 8, .w1c, .pf0⟩, ⟨16, 16, .rc, .pf0⟩, ⟨32, 1, .ro, .pf0⟩]⟩

/-- The reset value of instance `i` of each register (an index runs over all dims, the innermost fastest). -/
def resetWord (r : RegId) (i : Nat) : BitVec 64 :=
  match r with
  | .PLT_CAP_FACES => 0x800ff#64
  | .PLT_CAP_UNITS => 0x3f50ff03#64
  | .PLT_FACE_MAP => 0xf7e6d5c4b3a29180#64
  | .SYN_COMMIT_WINDOW => 0xfa0#64
  | .SYN_TICK_LEAD => 0x1388#64
  | .SYN_BATCH_CTL => 0x1001010002#64
  | .MSH_CFG => 0x2#64
  | .MSH_PAIR_SHARE => 0x8080808#64
  | .ARF_CFG => 0x3#64
  | .BLK_ARRAY_MAP => BitVec.ofNat 64 (0x8080808080808080 + 8 * (i % 8) * 0x0101010101010101 + 0x0706050403020100)
  | .BLK_SPARE => 0x700c0#64
  | .BLK_ARRAY_STATE => if i % 72 < 64 then 1#64 else if i % 72 = 64 then 2#64 else 0#64
  | .ARF_PIN_CTL => 0x200100001000100#64
  | .SPD_SCRUB => 0x3e8#64
  | .PLT_WIMG_CTL => 0x40#64
  | .PLT_DIGEST_CFG => 0x1000000e003c#64
  | .SRV_ADMIT => 0x300040c000000#64
  | .SRV_MODEL => 0x500000000000000#64
  | .SRV_STOCK_CFG => 0x1801800708#64
  | .LNK_BYP_CTL => 0x8#64
  | .LNK_PORT_CTL => 0x50d#64
  | .LNK_LANE_CFG => 0x3d0900#64
  | .SYN_DOMAIN_CFG => 0x1020fa0#64
  | .MEM_SCRUB => 0x15180#64
  | .KEY_SWEEP_CFG => 0x381#64
  | .KEY_SESSION => 0x4#64
  | .PLT_LIFECYCLE => 0x9#64
  | .CAL_CFG => 0x28147902584#64
  | .CAL_MON_CFG => 0x30ac#64
  | .CAL_DUP_CFG => 0x83014c#64
  | .CAL_LANE_CFG => 0x14#64
  | .CAL_BLK_STATE => 0x40#64
  | .FLT_CFG => 0x30064#64
  | .FLT_LOG_CFG => 0xa0#64
  | .PWR_LIMIT => 0x352#64
  | .PWR_GOV => 0x1e108#64
  | .PWR_DROOP_CFG => 0x13c23#64
  | .HKC_CTL => 0x40020000#64
  | .HKC_SEQ => BitVec.ofNat 64 (0x4100 + i % 128)
  | _ => 0#64

/-- Every register, in the order of the tables. -/
def allRegs : List RegId := [
  .PLT_CAP_FACES,
  .PLT_CAP_UNITS,
  .PLT_FACE_MAP,
  .SYN_TICK_PERIOD,
  .SYN_COMMIT_WINDOW,
  .SYN_TICK_LEAD,
  .SYN_HAND_NUM,
  .SYN_HAND_COMMITTED,
  .SYN_HAND_COUNTS,
  .SYN_BATCH_CTL,
  .FCE_HAND_WARN,
  .FCE_HAND_STATE,
  .MSH_CFG,
  .MSH_PAIR_SHARE,
  .MSH_ERR,
  .MSH_RING_STAT,
  .MSH_ROUTER_STAT,
  .ARF_CFG,
  .ARF_VEC_STAT,
  .ARF_SPLIT_STAT,
  .ARF_WSMAP_LO,
  .ARF_WSMAP_HI,
  .BLK_ARRAY_MAP,
  .BLK_SPARE,
  .BLK_ARRAY_STATE,
  .BLK_MASS_A,
  .BLK_MASS_B,
  .ARF_ESC_STAT,
  .ARF_REPEAT_STAT,
  .ARF_OUT_STAT,
  .ARF_PIN_CTL,
  .ARF_PIN_STAT,
  .ARF_PIN,
  .ARF_LAYER_STAT,
  .BLK_ACC_STAT,
  .ARF_SPALL,
  .ARF_SPALL_STAT,
  .FIN_OP_STAT,
  .FIN_NUM_STAT,
  .FIN_BUSY,
  .SCO_OP_STAT,
  .SCO_NUM_STAT,
  .SCO_GATHER_STAT,
  .SCO_BUSY,
  .VEC_OP_STAT,
  .VEC_NUM_STAT,
  .SPD_CACHE_CFG,
  .SPD_RES_G0,
  .SPD_RES_G1,
  .SPD_SB_STAT,
  .SPD_CONFLICT,
  .SPD_CACHE_STAT,
  .SPD_ERR,
  .SPD_SCRUB,
  .FCE_PROG_CTL,
  .FCE_PROG_SRC,
  .FCE_PROG_STATE,
  .FCE_TRAP_STAT,
  .FCE_HOST_CALL,
  .FCE_HOST_CALL_ARG,
  .FCE_HOST_CALL_RESULT,
  .FCE_ISSUE_STAT,
  .FCE_STORE_ERR,
  .FCE_MOVE_STAT,
  .ARF_PROG_GRANT,
  .ARF_PROG_STAT,
  .SYN_CTR_SIG,
  .SYN_MIRROR,
  .SYN_FACE_STAT,
  .SYN_CTR_VAL,
  .SYN_CTR_NOTIFY,
  .SYN_WIN_CFG,
  .SYN_WIN_EPOCH,
  .SYN_WIN_STATE,
  .SYN_WIN_STAT,
  .SYN_TRICK_CFG,
  .SYN_DTRICK_CFG,
  .PLT_WIMG_CTL,
  .PLT_WIMG_SRC,
  .PLT_WIMG_STATE,
  .PLT_PUT_SRC,
  .PLT_PUT_DST,
  .PLT_PUT_CTL,
  .PLT_BUILD_CTL,
  .PLT_CUT_CTL,
  .PLT_CUT_HAND,
  .PLT_CUT_STATE,
  .PLT_PROG_STAT,
  .PLT_DIGEST_CFG,
  .PLT_TALLY_STAT,
  .ARF_WSVER,
  .BLK_WEAR,
  .SRV_MODE,
  .SRV_ADMIT,
  .SRV_MODEL,
  .SRV_VOCAB,
  .SRV_PAGE_CFG,
  .SRV_FACE_PAGES,
  .SRV_FACE_SEALS,
  .SRV_STOCK_CFG,
  .SRV_STOCK_BASE,
  .SRV_STOCK_SLOTS,
  .SRV_FREE,
  .SRV_HELD,
  .SRV_STAT,
  .SRV_PFX_CTL,
  .SRV_PFX_SRC,
  .SRV_PFX_STATE,
  .SRV_RING_SQ,
  .SRV_RING_CQ,
  .SRV_RING_CTL,
  .SRV_RING_STAT,
  .SRV_SEAT,
  .DLR_CFG,
  .DLR_EOS,
  .DLR_GRAM_SRC,
  .DLR_GRAM_CTL,
  .DLR_GRAM_STATE,
  .DLR_STAT,
  .DLR_DRAFT_STAT,
  .DLR_BUSY,
  .LNK_DEV_ADDR,
  .LNK_TREE,
  .LNK_TIME_STAT,
  .LNK_BYP_CTL,
  .LNK_BYP_HAND,
  .LNK_ROUTE,
  .LNK_PORT_CTL,
  .LNK_PORT_STATE,
  .LNK_LANE_STATE,
  .LNK_LANE_CFG,
  .LNK_PORT_STAT,
  .LNK_PARCEL_STAT,
  .SYN_ROLE,
  .SYN_ROLE_CAND,
  .SYN_DOMAIN_CFG,
  .SYN_JOIN_CTL,
  .SYN_JOIN_HAND,
  .SYN_RETIRE_CTL,
  .SYN_DOMAIN_STAT,
  .SYN_REPLICA,
  .MEM_WREG,
  .MEM_SREG,
  .MEM_ERR,
  .MEM_SCRUB,
  .MEM_STOCK_META,
  .MEM_STOCK_STAT,
  .KEY_STATE,
  .KEY_ROT_CTL,
  .KEY_SWEEP_CFG,
  .KEY_SWEEP_STAT,
  .KEY_SESSION,
  .KEY_SESSION_CTL,
  .KEY_RELEASE_HAND,
  .PLT_LIFECYCLE,
  .PLT_WIMG_FLOOR,
  .PLT_DBG_CTL,
  .PLT_DBG_DATA,
  .CAL_CFG,
  .CAL_REQ,
  .CAL_STAT,
  .CAL_MON_CFG,
  .CAL_DUP_CFG,
  .CAL_DUP_STAT,
  .CAL_LANE_CFG,
  .CAL_BLK_STATE,
  .CAL_LANE_STATE,
  .FLT_CFG,
  .FLT_STATUS,
  .FLT_FATAL,
  .FLT_LOG_CFG,
  .FLT_LOG_NEXT,
  .FLT_LOG_READ,
  .FLT_LOG_DATA,
  .FLT_HOST_RING,
  .FLT_HOST_HEAD,
  .FLT_HIST_STAT,
  .FLT_HIST_QUERY,
  .FLT_HIST_CLEAR,
  .FLT_INJ_CTL,
  .FLT_INJ_UNIT,
  .FLT_PROBE_STAT,
  .PWR_DOM_REQ,
  .PWR_DOM_STATE,
  .PWR_DOM_STAT,
  .PWR_LIMIT,
  .PWR_GOV,
  .PWR_STAT,
  .PWR_FACE_CLK,
  .PWR_DROOP_CFG,
  .PWR_DROOP_STAT,
  .THM_CFG,
  .THM_STATUS,
  .THM_SENSOR,
  .HKC_CTL,
  .HKC_STAT,
  .HKC_SEQ,
  .HKC_RESULT,
  .HKC_CAL,
  .PLT_BOOT_STATE,
  .PLT_BOOT_CTL,
  .PLT_RESET_CTL,
  .PLT_FACE_RESET,
  .HIF_LINK,
  .HIF_DB_STAT,
  .HIF_RESET_STAT,
  .HIF_PF2_APERTURE,
  .PLT_RAIL_STAT]

/-- The map key of instance `i` of register `r`. -/
def regKey (r : RegId) (i : Nat) : Nat := i * 256 + r.ctorIdx

/-- Index of register `r`'s instance at face `f` and inner index `k` of `n`. -/
def ix (n f k : Nat) : Nat := f * n + k

/-- Index of a per-block register: face f, block b. -/
def ixB (f b : Nat) : Nat := f * 64 + b

/-- Index of a per-array register: face f, block b, physical array a. -/
def ixA (f b a : Nat) : Nat := (f * 64 + b) * 72 + a

/-- Find the linear index of an offset remainder under (count, stride) pairs; none where no instance lies there. -/
def splitDims : List (Nat × Nat) → Nat → Nat → Option Nat
  | [], acc, rem => if rem = 0 then some acc else none
  | (c, st) :: ds, acc, rem => if rem / st < c then splitDims ds (acc * c + rem / st) (rem % st) else none

/-- The register instance at a PF0 BAR0 offset. -/
def regAt (off : Nat) : Option (RegId × Nat) :=
  allRegs.findSome? (fun r =>
    let n := regInfo r
    if n.base ≤ off then (splitDims n.dims 0 (off - n.base)).map (fun i => (r, i)) else none)

/-- The PF0 BAR0 offset of an instance. -/
def offDims : List (Nat × Nat) → Nat → Nat
  | [], _ => 0
  | (_, st) :: ds, i =>
    let n := ds.foldl (fun a d => a * d.1) 1
    (i / n) * st + offDims ds (i % n)

/-- The reset value at a key of the register map. -/
def resetAt (k : Nat) : BitVec 64 :=
  match allRegs[k % 256]? with
  | some r => resetWord r (k / 256)
  | none => 0#64

end Sys2Proof.Machine
end

