-- ==== Sys2Proof/Machine/Flags.lean ====
section
/-! DEFINITION. Registers and their fields: the one place where a register is read or written by the device, the
saturating counts, and the flag bits (RC, W1C, W1S) of 00_scope.md. -/
namespace Sys2Proof.Machine

/-- Field bits [lo + wd − 1 : lo] of a word. -/
def fget (w : Word) (lo wd : Nat) : Nat := (w.extractLsb' lo wd).toNat

/-- Replace field bits [lo + wd − 1 : lo] of a word; a value too large keeps its low bits. -/
def fput (w : Word) (lo wd : Nat) (v : Nat) : Word :=
  let m : Word := BitVec.ofNat 64 (2 ^ wd - 1)
  (w &&& ~~~ (m <<< lo)) ||| ((BitVec.ofNat 64 v &&& m) <<< lo)

/-- The word of instance `i` of a register. -/
def State.reg (s : State) (r : RegId) (i : Nat) : Word := mget (resetWord r i) s.regs (regKey r i)

/-- Set the word of instance `i` of a register. -/
def State.setReg (s : State) (r : RegId) (i : Nat) (v : Word) : State :=
  { s with regs := mset (resetWord r i) s.regs (regKey r i) v }

/-- Read a field. -/
def State.rd (s : State) (f : Fld) (i : Nat) : Nat := fget (s.reg f.reg i) f.lo f.wd

/-- Set a field. -/
def State.wr (s : State) (f : Fld) (i v : Nat) : State := s.setReg f.reg i (fput (s.reg f.reg i) f.lo f.wd v)

/-- A one-bit field is 1. -/
def State.flag (s : State) (f : Fld) (i : Nat) : Bool := decide (s.rd f i = 1)

/-- Set a one-bit field from a Bool. -/
def State.wrB (s : State) (f : Fld) (i : Nat) (b : Bool) : State := s.wr f i (if b then 1 else 0)

/-- Add to a saturating count. -/
def State.bumpBy (s : State) (f : Fld) (i n : Nat) : State := s.wr f i (min (s.rd f i + n) (2 ^ f.wd - 1))

/-- Add one to a saturating count. -/
def State.bump (s : State) (f : Fld) (i : Nat) : State := s.bumpBy f i 1

/-- Mask of the bits of a register's fields that satisfy `q`. -/
def fieldMask (q : FieldInfo → Bool) (fs : List FieldInfo) : Word :=
  fs.foldl (fun m f => if q f then m ||| ((BitVec.ofNat 64 (2 ^ f.wd - 1)) <<< f.lo) else m) 0#64

/-- What a host read returns: write-only fields and reserved bits read zero. -/
def readImage (r : RegId) (w : Word) : Word := w &&& fieldMask (fun f => f.acc != .wo) (regInfo r).fields

/-- What a host read leaves: read-and-clear fields are zero (00_scope.md, access codes). -/
def afterRead (r : RegId) (w : Word) : Word := w &&& ~~~ fieldMask (fun f => f.acc == .rc) (regInfo r).fields

/-- The word after a host write of `v` through a path that may write the fields `q` names: RW fields take the value,
W1C fields clear where 1 is written; RO, RC, WO and W1S fields keep theirs (a W1S bit is a request, acted on by its
command), and reserved bits are ignored (R13). -/
def writeImage (r : RegId) (q : FieldInfo → Bool) (old v : Word) : Word :=
  let fs := (regInfo r).fields
  let rw := fieldMask (fun f => q f && f.acc == .rw) fs
  let wc := fieldMask (fun f => q f && f.acc == .w1c) fs
  ((old &&& ~~~ rw) ||| (v &&& rw)) &&& ~~~ (v &&& wc)

/-- Mask of a list of fields. -/
def fldMask (fs : List Fld) : Word := fs.foldl (fun m f => m ||| ((BitVec.ofNat 64 (2 ^ f.wd - 1)) <<< f.lo)) 0#64

/-- Fields that no reset touches: fuses and non-volatile values (R593, "Fuses, nv values"). -/
def keepMask : RegId → Word
  | .PLT_CAP_FACES => fldMask [R.PLT_CAP_FACES.LOGICAL, R.PLT_CAP_FACES.FUSED, R.PLT_CAP_FACES.COUNT]
  | .PLT_CAP_UNITS | .PLT_FACE_MAP | .ARF_WSMAP_LO | .ARF_WSMAP_HI | .BLK_ARRAY_MAP | .BLK_MASS_A | .BLK_MASS_B | .ARF_WSVER =>
    BitVec.allOnes 64
  | .BLK_SPARE => fldMask [R.BLK_SPARE.CHECK, R.BLK_SPARE.CHECK_VALID, R.BLK_SPARE.FREE, R.BLK_SPARE.EXHAUSTED]
  | .BLK_ARRAY_STATE =>
    fldMask [R.BLK_ARRAY_STATE.STATE, R.BLK_ARRAY_STATE.ROWS_SPARED, R.BLK_ARRAY_STATE.COLS_SPARED, R.BLK_ARRAY_STATE.CONV_SPARED,
             R.BLK_ARRAY_STATE.CONV_REPLACED, R.BLK_ARRAY_STATE.CONV_SPARE_BAD]
  | .ARF_SPALL => fldMask [R.ARF_SPALL.COUNT, R.ARF_SPALL.CLIP, R.ARF_SPALL.CLIP_LIMIT, R.ARF_SPALL.TABLE]
  | .BLK_WEAR => fldMask [R.BLK_WEAR.CYCLES, R.BLK_WEAR.WORN]
  | .PLT_LIFECYCLE => fldMask [R.PLT_LIFECYCLE.STATE, R.PLT_LIFECYCLE.ENROLLED, R.PLT_LIFECYCLE.DEBUG]
  | .PLT_WIMG_FLOOR => fldMask [R.PLT_WIMG_FLOOR.FLOOR, R.PLT_WIMG_FLOOR.IMGKEYS]
  | .FLT_STATUS => fldMask [R.FLT_STATUS.REPLACE]
  | .FLT_HIST_STAT => fldMask [R.FLT_HIST_STAT.ENTRIES, R.FLT_HIST_STAT.PERMANENT, R.FLT_HIST_STAT.POWERED]
  | _ => 0#64

/-- Position of an instance within its outermost index: the face, or the port, of a register that has one. -/
def outerIx (r : RegId) (i : Nat) : Nat := i / ((regInfo r).dims.drop 1).foldl (fun a d => a * d.1) 1

/-- The listed word of an instance after a reset of its register. -/
def resetKeep (r : RegId) (i : Nat) (w : Word) : Word := (resetWord r i &&& ~~~ keepMask r) ||| (w &&& keepMask r)

/-- Register instances that satisfy `q` take their reset values, but for what no reset touches. -/
def State.resetWhere (s : State) (q : RegId → Nat → Bool) : State :=
  { s with regs := s.regs.filterMap (fun e => match allRegs[e.1 % 256]? with
      | none => some e
      | some r =>
        if q r (e.1 / 256) then
          let v := resetKeep r (e.1 / 256) e.2
          if v = resetWord r (e.1 / 256) then none else some (e.1, v)
        else some e) }

/-- Registers of a reset domain whose instance satisfies `q` take their reset values (R593). -/
def State.resetDomain (s : State) (d : Dom) (q : RegId → Nat → Bool) : State :=
  s.resetWhere (fun r i => decide ((regInfo r).dom = d) && q r i)

end Sys2Proof.Machine
end

