-- ==== Sys2Proof/Machine/Lane.lean ====
section
/-! DEFINITION. What the link layer carries (15_links_and_lanes.md): parcel headers and their seal (R430, R431), the head slot, class and length of a
control-lane message (R435 to R437), and the flits that both take (R426 to R428). -/
namespace Sys2Proof
open Sys2Proof.Machine

/-! ### Parcels (R430, R431) -/

/-- A parcel's header words before its seal, with FLAGS bit 1 as given. -/
def Parcel.head (p : Parcel) (vl : Bool) : List Word :=
  [p.kind % 256 + (if p.poison then 2 ^ 8 else 0) + (if vl then 2 ^ 9 else 0) + p.dst % 4096 * 2 ^ 16 + p.src % 4096 * 2 ^ 32 + p.face % 8 * 2 ^ 48 +
     p.win % 256 * 2 ^ 56,
   p.offset % 2 ^ 32 + p.lines % 2 ^ 16 * 2 ^ 32, p.hand, p.seq % 2 ^ 32 + p.epoch % 2 ^ 32 * 2 ^ 32, p.ctr % 1024 + p.amount % 2 ^ 32 * 2 ^ 32, p.slot,
   p.model].map (BitVec.ofNat 64)

/-- The seal: CRC-32C of header bytes 0 to 55 and 60 to 63, FLAGS bit 1 taken as 0, and of the data (R431). -/
def Parcel.crc (p : Parcel) : Nat := crc32c (wordBytes (p.head false) ++ [0, 0, 0, 0] ++ wordBytes p.data)

/-- The parcel as its sender seals it, and whether its seal holds. -/
def Parcel.sealed (p : Parcel) : Parcel := { p with seal_ := p.crc }
def Parcel.sealOk (p : Parcel) : Bool := decide (p.seal_ = p.crc)

/-- A parcel's 64-byte header (R430). -/
def Parcel.header (p : Parcel) : List Word := p.head p.vl1 ++ [BitVec.ofNat 64 p.seal_]

/-- Flits of a parcel: header and data, 288 bytes in each (R426). -/
def Parcel.flits (p : Parcel) : Nat := (64 + 128 * p.lines + 287) / 288

/-! ### Control-lane messages (R435 to R437) -/

/-- PARAM of a ROLE message (R458): subtype, replica, and the field at bit 12. -/
def roleParam (kind : Nat) (b : List Nat) : Nat :=
  kind % 16 + (if kind = 6 ∨ kind = 7 then b.getD 1 0 % 256 * 16 + b.getD 2 0 % 65536 * 4096
               else if kind = 1 ∨ kind = 3 then b.getD 1 0 % 65536 * 4096 else 0)

/-- TYPE, class, slots, PARAM and ARG of a message (R437). -/
def Msg.row : Msg → Nat × Nat × Nat × Nat × Nat
  | .tick h _ _ => (0x01, 0, 2, 0, h)
  | .commit h ws more => (0x02, 0, 1 + ws.length, ws.length % 8 + (if more then 2 ^ 27 else 0), h)
  | .abort h => (0x03, 0, 1, 0, h)
  | .role k b => (0x04, 0, if k = 3 then min 4 (max 2 ((b.length + 1) / 2)) else 2, roleParam k b, b.headD 0)
  | .time st t1 _ _ => (0x05, 0, 2, st, t1)
  | .ident p d _ _ _ => (0x06, 0, 2, p, d)
  | .lane n h _ _ _ => (0x07, 0, 2, n, h)
  | .play t h => (0x10, 1, 1, t, h)
  | .release t h _ => (0x11, 1, 1, t, h)
  | .answer r q _ => (0x12, 1, 2, r, q)
  | .tokens h _ _ _ _ _ _ ts ds => (0x13, 1, 2 + max 1 ((ts.length + ds.length + 3) / 4), 0, h)
  | .trim h _ _ => (0x14, 1, 2, 0, h)
  | .report o h _ _ _ _ => (0x15, 1, 2, o, h)
  | .missed h => (0x16, 1, 1, 0, h)
  | .tally l h _ _ => (0x20, 2, 5, l, h)

def Msg.cls (m : Msg) : Nat := m.row.2.1
def Msg.slots (m : Msg) : Nat := m.row.2.2.1

/-- The head slot of a message (R435): TYPE, SLOTS − 1, TREE, DST, SRC, PARAM; then ARG. -/
def Msg.head (m : Msg) (tree : Bool) (dst src : Nat) : Word × Word :=
  (BitVec.ofNat 64 (m.row.1 + (m.slots - 1) % 8 * 2 ^ 8 + (if tree then 2 ^ 11 else 0) + dst % 4096 * 2 ^ 12 + src % 4096 * 2 ^ 24 +
    m.row.2.2.2.1 % 2 ^ 28 * 2 ^ 36), BitVec.ofNat 64 m.row.2.2.2.2)

end Sys2Proof

namespace Sys2Proof.Machine

/-! ### Flits (R426 to R428) -/

/-- The message of an output of the control lane. -/
def Out.msg : Out → Option Msg
  | .ctl _ _ _ m | .tree _ m | .local_ _ m => some m
  | _ => none

/-- Flits sent and not acknowledged: the sender holds at most 1,024 (R428). -/
def Port.pending (x : Port) : Nat := (x.txSeq + 4095 - x.acked) % 4096

/-- A parcel goes when its virtual lane has credit for all its flits and the replay buffer room for them (R427, R428); the control lane, which owns a
slot of every flit, waits for neither. -/
def Port.room (x : Port) : Out → Bool
  | .parcel _ p => decide (p.flits ≤ (if p.vl1 then x.cred1 else x.cred0) ∧ x.pending + p.flits ≤ 1024)
  | _ => true

/-- The port once an output has left through it. -/
def Port.take (x : Port) : Out → Port
  | .parcel _ p =>
    let y := { x with txSeq := (x.txSeq + p.flits) % 4096 }
    if p.vl1 then { y with cred1 := x.cred1 - p.flits } else { y with cred0 := x.cred0 - p.flits }
  | o => match o.msg with
    | some m => let q := (x.txSeq + m.slots) % 4096
                { x with txSeq := q, unacked := x.unacked ++ [(q + 4095) % 4096] }
    | none => x

/-- Flit q is among those that an acknowledgement of a covers, with the buffer in flight. -/
def ackedBy (a q : Nat) : Bool := decide ((a + 4096 - q) % 4096 < 2048)

/-- What a flit's link header says (R426): SEQ, ACK, credit returns of VL0 and VL1, VL, IDLE. -/
structure FlitHead where
  seq : Nat
  ack : Nat
  cred0 : Nat
  cred1 : Nat
  vl1 : Bool
  idle : Bool
  deriving DecidableEq, Repr

def flitHead (ws : List Word) : FlitHead :=
  let w := ws.headD 0#64
  { seq := fget w 0 12, ack := fget w 12 12, cred0 := fget w 24 8, cred1 := fget w 32 8, vl1 := decide (fget w 40 1 = 1), idle := decide (fget w 41 1 = 1) }

/-- The check of a flit's forty words: CRC-64 over bytes 0 to 311 (R426). -/
def flitOk (ws : List Word) : Bool :=
  decide (ws.length = 40) && decide (BitVec.ofNat 64 (crc64 (wordBytes (ws.take 39))) = ws.getD 39 0#64)

/-- The port after a good flit: the acknowledged messages and flits are done with, and credit returns (R427, R428). -/
def Port.gotFlit (x : Port) (h : FlitHead) : Port :=
  { x with rxSeq := (h.seq + 1) % 4096, acked := h.ack, cred0 := min 128 (x.cred0 + h.cred0), cred1 := min 128 (x.cred1 + h.cred1)
           unacked := x.unacked.filter (fun q => !ackedBy h.ack q) }

end Sys2Proof.Machine
end

