-- ==== Sys2Proof/Machine/Parts.lean ====
section
/-! DEFINITION. The six orderable parts (R1), where their stacks stand (R2, R3), how their good faces are numbered (R5), and the words
that their fuses load (R4, R10). -/
namespace Sys2Proof.Machine

/-- The orderable parts (R1). -/
inductive Part where
  | vsn88X | vsn78X | vsn68X | vsn84F | vsn74F | vsn64F
  deriving DecidableEq, Repr

/-- What a part has (R1): good faces, active arrays, weights in units of 2^28, array peak in tenths of a P MAC/s, stacks, usable HBM in GB,
HBM bandwidth in tenths of a TB/s, the reach set, active lanes and physical lanes. -/
structure Resources where
  faces : Nat
  arrays : Nat
  weights : Nat
  peak : Nat
  hbms : Nat
  hbm : Nat
  bandwidth : Nat
  reach : Bool
  lanes : Nat
  physLanes : Nat
  deriving DecidableEq, Repr

/-- The table of R1. -/
def Part.has : Part → Resources
  | .vsn88X => ⟨8, 32768, 16, 159, 8, 288, 164, true, 80, 86⟩
  | .vsn78X => ⟨7, 28672, 14, 139, 8, 288, 164, true, 80, 86⟩
  | .vsn68X => ⟨6, 24576, 12, 119, 8, 288, 164, true, 80, 86⟩
  | .vsn84F => ⟨8, 32768, 16, 159, 4, 144, 82, false, 64, 68⟩
  | .vsn74F => ⟨7, 28672, 14, 139, 4, 144, 82, false, 64, 68⟩
  | .vsn64F => ⟨6, 24576, 12, 119, 4, 144, 82, false, 64, 68⟩

/-- A device as it was made: its part, and the mask of the physical faces fused off at test. -/
structure Made where
  part : Part
  fused : Nat
  deriving DecidableEq, Repr

/-- Physical faces that are not fused off, ascending: logical face f is the f-th of them (R5). -/
def goodFaces (fused : Nat) : List Nat := (List.range 8).filter (fun p => decide (fused / 2 ^ p % 2 = 0))

/-- Home stack of a physical face (R2, R3): its own on an eight-stack part, the even one of its pair on a four-stack part. -/
def homeOf (eight : Bool) (p : Nat) : Nat := if eight then p else p / 2 * 2

/-- The device is one of the six parts: as many faces are good as the part has. -/
def Made.legal (m : Made) : Bool := decide (m.fused < 256) && decide ((goodFaces m.fused).length = m.part.has.faces)

/-- PLT_CAP_FACES with no face down: LOGICAL, FUSED and COUNT. -/
def facesWord (fused : Nat) : Word :=
  let n := (goodFaces fused).length
  BitVec.ofNat 64 (2 ^ n - 1 + fused * 2 ^ 8 + n * 2 ^ 16)

/-- PLT_CAP_UNITS: REACH, HBM_SECOND, STACKS, LANES and PORTS. -/
def Resources.unitsWord (x : Resources) : Word :=
  BitVec.ofNat 64 ((if x.reach then 1 else 0) + (if x.hbms = 8 then 2 + 0xFF * 2 ^ 8 else 0x55 * 2 ^ 8) + x.lanes * 2 ^ 16 +
    (if x.reach then 0x3F else 0x0F) * 2 ^ 24)

/-- PLT_FACE_MAP: an entry of PHYS, HOME and VALID for each logical face that exists. -/
def faceMapWord (eight : Bool) (fused : Nat) : Word :=
  BitVec.ofNat 64 ((goodFaces fused).zipIdx.foldl (fun w e => w + (e.1 + homeOf eight e.1 * 16 + 128) * 2 ^ (8 * e.2)) 0)

/-- The words that the fuses of a device load: PLT_FACE_MAP, PLT_CAP_UNITS, and the fuse fields of PLT_CAP_FACES. -/
def Made.words (m : Made) : Word × Word × Nat :=
  (faceMapWord (decide (m.part.has.hbms = 8)) m.fused, m.part.has.unitsWord, fget (facesWord m.fused) 0 20)

/-- Cold reset numbers the good faces from what is fused off, and gives each its home stack (R5, R2, R3). -/
def State.numberFaces (s : State) : State :=
  let fused := s.rd R.PLT_CAP_FACES.FUSED 0
  let n := (goodFaces fused).length
  ((s.wr R.PLT_CAP_FACES.LOGICAL 0 (2 ^ n - 1)).wr R.PLT_CAP_FACES.COUNT 0 n).setReg .PLT_FACE_MAP 0
    (faceMapWord (s.flag R.PLT_CAP_UNITS.HBM_SECOND 0) fused)

/-- A state with the fuses of another device in it; State.reset is that of a VSN-88X (log entry 1). -/
def State.asMade (s : State) (m : Made) : State :=
  ((s.setReg .PLT_FACE_MAP 0 m.words.1).setReg .PLT_CAP_UNITS 0 m.words.2.1).setReg .PLT_CAP_FACES 0
    (fput (s.reg .PLT_CAP_FACES 0) 0 20 m.words.2.2)

end Sys2Proof.Machine
end

