-- ==== Sys2Proof/Machine/Ops.lean ====
section
/-! DEFINITION. The operations the meanings share: faces and units (00_scope.md), the detectors and the fault queue
(20_faults.md), outputs, the scratchpad (07_scratchpad.md), counters (11_synchronisation.md), and taking a trap with what
follows from it (08_ifeom_programming_model.md). -/
namespace Sys2Proof.Machine

/-! ### Small helpers -/

/-- The outcome of a meaning that goes on. -/
abbrev ok (s : State) : Host.Outcome State Fault Refusal := .next s

/-- Test a bit of a natural. -/
def bit (n i : Nat) : Bool := decide (n / 2 ^ i % 2 = 1)

/-- Set or clear a bit of a natural. -/
def setBit (n i : Nat) (b : Bool) : Nat :=
  if bit n i = b then n else if b then n + 2 ^ i else n - 2 ^ i

/-- Field [lo + wd − 1 : lo] of a natural. -/
def nf (n lo wd : Nat) : Nat := n / 2 ^ lo % 2 ^ wd

/-- ⌈a / b⌉. -/
def cdiv (a b : Nat) : Nat := (a + b - 1) / b

/-- Fold over 0 … n−1. -/
def loop {σ : Type} (n : Nat) (init : σ) (f : σ → Nat → σ) : σ := (List.range n).foldl f init

/-- A draw nobody chose: the next value of `Config.freeValue`, and the state with the draw counted. -/
def State.draw (s : State) : Nat × State := (Config.freeValue s.freeCount, { s with freeCount := s.freeCount + 1 })

/-! ### Faces, stacks and ports -/

/-- A face (its record). -/
def State.face (s : State) (f : Nat) : Face := mget {} s.faces f

/-- Replace a face. -/
def State.setFace (s : State) (f : Nat) (x : Face) : State := { s with faces := mset {} s.faces f x }

/-- Change a face. -/
def State.modFace (s : State) (f : Nat) (g : Face → Face) : State := s.setFace f (g (s.face f))

/-- n, the number of good faces (R5). -/
def State.nFaces (s : State) : Nat := s.rd R.PLT_CAP_FACES.COUNT 0

/-- Physical face of a logical face (R6). -/
def State.phys (s : State) (f : Nat) : Nat := s.rd (R.PLT_FACE_MAP.PHYS f) 0

/-- Logical number of a good physical face. -/
def State.logicalOf (s : State) (p : Nat) : Option Nat := (List.range s.nFaces).find? (fun f => decide (s.phys f = p))

/-- Home stack of a logical face (R2, R3). -/
def State.home (s : State) (f : Nat) : Nat := s.rd (R.PLT_FACE_MAP.HOME f) 0

/-- The face's DOWN bit (R11). -/
def State.isDown (s : State) (f : Nat) : Bool := bit (s.rd R.PLT_CAP_FACES.DOWN 0) f

/-- Set or clear a DOWN bit. -/
def State.setDown (s : State) (f : Nat) (b : Bool) : State :=
  s.wr R.PLT_CAP_FACES.DOWN 0 (setBit (s.rd R.PLT_CAP_FACES.DOWN 0) f b)

/-- A stack is present (PLT_CAP_UNITS.STACKS). -/
def State.stackPresent (s : State) (p : Nat) : Bool := bit (s.rd R.PLT_CAP_UNITS.STACKS 0) p

/-- A fabric port is present (PLT_CAP_UNITS.PORTS). -/
def State.portPresent (s : State) (p : Nat) : Bool := bit (s.rd R.PLT_CAP_UNITS.PORTS 0) p

/-- State of power domain d (R565): 0 off, 1 on, 2 retain-resident, 3 changing. -/
def State.domain (s : State) (d : Nat) : Nat := s.rd (R.PWR_DOM_STATE.STATE d) 0

/-- Domain d is on. -/
def State.domOn (s : State) (d : Nat) : Bool := decide (s.domain d = 1)

/-- The device's own address. -/
def State.devAddr (s : State) : Nat := s.rd R.LNK_DEV_ADDR.ADDR 0

/-! ### Outputs -/

/-- Append an output. -/
def State.emit (s : State) (o : Out) : State := { s with out := s.out ++ [o] }

/-- Signal an MSI-X vector of a function. -/
def State.msix (s : State) (fn vec : Nat) : State := s.emit (.msix fn vec)

/-- Write words to host memory under a function. -/
def State.hostWrite (s : State) (fn addr : Nat) (ws : List Word) : State := s.emit (.hostWrite fn addr ws)

/-- A parcel waits behind one that waits on its virtual lane: parcels on one VL keep their order (R430). -/
def behind (waiting : List Out) : Out → Bool
  | .parcel _ p => waiting.any (fun w => match w with
    | .parcel _ q => decide (q.vl1 = p.vl1)
    | _ => false)
  | _ => false

/-- Offer an output to a port: it leaves at once when the port is ACTIVE and has room for it, and waits otherwise (R427, R428, R441). -/
def State.portOut (s : State) (p : Nat) (o : Out) : State :=
  let x := mget {} s.ports p
  let q := mget [] s.txq p
  if s.rd R.LNK_PORT_STATE.STATE p = 4 ∧ x.room o = true ∧ behind q o = false then
    ({ s with ports := mset {} s.ports p (x.take o) } : State).emit o
  else { s with txq := mset [] s.txq p (q ++ [o]) }

/-- What waited at a port is offered again: control messages by class, class 0 first, and in each in order of arrival; then parcels (R436). -/
def State.portFlush (s : State) (p : Nat) : State :=
  let q := mget [] s.txq p
  let cls (c : Nat) : List Out := q.filter (fun o => decide (o.msg.map Msg.cls = some c))
  (cls 0 ++ cls 1 ++ cls 2 ++ q.filter (fun o => decide (o.msg = none))).foldl (fun t o => t.portOut p o) { s with txq := mset [] s.txq p [] }

/-- Output port of a device address, and whether its entry has DATELINE; none when unroutable (R432). -/
def State.route (s : State) (dst : Nat) : Option (Nat × Bool) :=
  let j := dst % 8
  let i := dst / 8
  let p := s.rd (R.LNK_ROUTE.PORT j) i
  if s.rd (R.LNK_ROUTE.VALID j) i = 1 ∧ p < 6 ∧ s.portPresent p = true ∧ s.rd R.LNK_PORT_STATE.STATE p ≠ 5 then
    some (p, decide (s.rd (R.LNK_ROUTE.DATELINE j) i = 1))
  else none

/-- Send a routed control message of this device; unroutable, it is dropped (R432). -/
def State.sendCtl (s : State) (dst : Nat) (m : Msg) : State :=
  match s.route dst with
  | some (p, _) => s.portOut p (.ctl p dst s.devAddr m)
  | none => s

/-- Forward a routed control message that arrived on `port` (R432, R433). -/
def State.forwardCtl (s : State) (port dst src : Nat) (m : Msg) : State :=
  match s.route dst with
  | some (p, _) => s.portOut p (.ctl p dst src m)
  | none => s.bump R.LNK_PARCEL_STAT.UNROUTABLE port

/-- Send a message along the tree in use, to every child port (R439). -/
def State.sendTree (s : State) (m : Msg) : State :=
  let c := s.rd R.LNK_TREE.CHILDREN (s.rd R.LNK_TIME_STAT.TREE 0)
  loop 6 s (fun t p => if bit c p then t.portOut p (.tree p m) else t)

/-- A TREE message arrived on the port towards the tree's root (R439). -/
def State.fromParent (s : State) (port : Nat) : Bool :=
  let t := s.rd R.LNK_TIME_STAT.TREE 0
  decide (s.rd R.LNK_TREE.PARENT_VALID t = 1 ∧ s.rd R.LNK_TREE.PARENT t = port)

/-- A control message that is dropped is counted (R437, R439, R457). -/
def State.badMsg (s : State) (port : Nat) : State := s.bump R.LNK_PORT_STAT.BAD_MSG port

/-- A time-driven event moves device time on to its time. -/
def State.advance (s : State) (t : Nat) : State := { s with now := max s.now t }

/-- Ticks run on this device, or the last hand is not over (R22, R602, R603). -/
def State.ticking (s : State) : Bool := decide (s.rd R.SYN_TICK_PERIOD.PERIOD 0 ≠ 0) || s.hand.running || s.hand.idle

/-! ### Units and detectors (R539, R540) -/

/-- A unit identifier (R539). -/
def unitId (kind place block array sub : Nat) : Nat :=
  kind * 2 ^ 26 + place * 2 ^ 23 + block * 2 ^ 17 + array * 2 ^ 10 + sub

/-- KIND of a unit identifier. -/
def unitKind (u : Nat) : Nat := nf u 26 6

/-- Detectors (R540). -/
inductive Det where
  | calFailConv | calFailLevel | columnFlag | dupMismatch | dwellFit | wideSat | bench3Fault | arrayLost | repair
  | retired | exhausted | pin | bench3NoEngine | spareConvBad | fineDiff | sealGather | spUncorr | storeUncorr | trap
  | revoke | winShort | noticeClash | faceFault | meshUncorr | ringUncorr | hbmUncorr | tagFail | keyMiss | scrubFail
  | stockFail | portFailed | laneFail | laneCal | parcelSeal | dealShares | tallyExpected | tallyExpel | mirrorLost
  | imageRefused | tallyStop | freeList | dealNoRecord | sensorBad | droop | thermtrip | logPath | probeFail
  deriving DecidableEq, Repr

/-- Code, severity (0 INFO, 1 FAULT, 2 FATAL) and hardness of a detector (the table of R540). -/
def Det.row : Det → Nat × Nat × Bool
  | .calFailConv => (0x01, 1, false) | .calFailLevel => (0x02, 1, false) | .columnFlag => (0x03, 1, false)
  | .dupMismatch => (0x04, 1, false) | .dwellFit => (0x05, 1, false) | .wideSat => (0x06, 1, true)
  | .bench3Fault => (0x07, 1, false) | .arrayLost => (0x08, 1, true) | .repair => (0x09, 0, false)
  | .retired => (0x0A, 0, false) | .exhausted => (0x0B, 0, false) | .pin => (0x0C, 0, false)
  | .bench3NoEngine => (0x0D, 0, false) | .spareConvBad => (0x0E, 0, false) | .fineDiff => (0x10, 1, false)
  | .sealGather => (0x11, 1, false) | .spUncorr => (0x12, 1, false) | .storeUncorr => (0x13, 1, false)
  | .trap => (0x14, 0, false) | .revoke => (0x15, 0, false) | .winShort => (0x16, 0, false)
  | .noticeClash => (0x17, 0, false) | .faceFault => (0x18, 0, false) | .meshUncorr => (0x20, 1, false)
  | .ringUncorr => (0x21, 1, false) | .hbmUncorr => (0x30, 1, false) | .tagFail => (0x31, 1, false)
  | .keyMiss => (0x32, 0, false) | .scrubFail => (0x33, 1, true) | .stockFail => (0x34, 0, false)
  | .portFailed => (0x40, 1, false) | .laneFail => (0x41, 1, false) | .laneCal => (0x42, 1, false)
  | .parcelSeal => (0x43, 1, false) | .dealShares => (0x50, 0, false) | .tallyExpected => (0x51, 0, false)
  | .tallyExpel => (0x52, 0, false) | .mirrorLost => (0x53, 0, false) | .imageRefused => (0x54, 0, false)
  | .tallyStop => (0x55, 0, false) | .freeList => (0x56, 1, true) | .dealNoRecord => (0x57, 0, false)
  | .sensorBad => (0x60, 1, false) | .droop => (0x61, 0, false) | .thermtrip => (0x62, 2, false)
  | .logPath => (0x70, 2, false) | .probeFail => (0x72, 1, false)

/-- An event as a detector reports it: the fields of its record that the detector gives. -/
structure Event where
  det : Det
  unit : Nat
  addr : Nat := 0
  d0 : Word := 0#64
  d1 : Word := 0#64
  opcode : Nat := 0
  lface : Nat := 0xFF
  /-- a class-0 call-ring message: FATAL (R540) -/
  fatal : Bool := false
  /-- fired by an injection slot, with HIST set or clear (R559) -/
  injected : Bool := false
  hist : Bool := true
  deriving DecidableEq, Repr

/-- FAULT_N follows the cause bits of FLT_FATAL (R550). -/
def State.faultN (s : State) : State :=
  let c := s.rd R.FLT_FATAL.LOG_PATH 0 + s.rd R.FLT_FATAL.RING_CLASS0 0 + s.rd R.FLT_FATAL.OTHER 0
  s.wrB R.FLT_FATAL.ASSERTED 0 (decide (c ≠ 0))

/-- The fresh record of an event (R541). -/
def Event.record (e : Event) (s : State) : FRec :=
  let row := e.det.row
  let sev := if e.fatal then 2 else row.2.1
  { time := s.now, hand := s.rd R.SYN_HAND_NUM.HAND 0, unit := e.unit, det := row.1
    cls := sev + (if row.2.2 then 4 else 0) + (if e.injected then 32 else 0)
    count := 1, opcode := e.opcode, lface := e.lface, addr := e.addr, detail0 := e.d0, detail1 := e.d1
    last := 0, hist := !e.injected || e.hist }

/-- Merge an event into the queued records, if one has its unit, detector and INJECTED bit (R544). -/
def mergeRec (now : Nat) (r : FRec) : List FRec → Option (List FRec)
  | [] => none
  | q :: qs =>
    if q.unit = r.unit ∧ q.det = r.det ∧ q.cls / 32 % 2 = r.cls / 32 % 2 then
      some ({ q with count := min (q.count + 1) 65535, last := min ((now - q.time) / 1000) (2 ^ 32 - 1) } :: qs)
    else (mergeRec now r qs).map (fun t => q :: t)

/-- Set the OVERFLOW bit of the newest queued record (R545). -/
def markOverflow : List FRec → List FRec
  | [] => []
  | [q] => [{ q with cls := setBit q.cls 4 true }]
  | q :: qs => q :: markOverflow qs

/-- Non-volatile store: the last 16 records (R548). -/
def State.nvPut (s : State) (r : FRec) : State :=
  { s with nvLog := (s.nvLog ++ [r]).drop ((s.nvLog.length + 1) - 16) }

/-- The slot that fires for a detector and unit now (R559). -/
def State.injSlot (s : State) (d : Det) (u : Nat) : Option Nat :=
  (List.range 8).find? (fun i =>
    let x := mget {} s.injs i
    x.armed && decide (s.rd R.FLT_INJ_CTL.DETECTOR i = d.row.1 ∧ s.rd R.FLT_INJ_UNIT.UNIT i = u) &&
    (decide (s.rd R.FLT_INJ_CTL.MODE i = 1) || (decide (s.rd R.FLT_INJ_CTL.MODE i = 2) && decide (x.next ≤ s.rd R.SYN_HAND_NUM.HAND 0))))

/-- An opportunity of a detector on a unit (R559): where an armed slot fires, its parameter, and the state with the firing counted;
`rec_` says for the parameter whether a record will follow. -/
def State.inject (s : State) (d : Det) (u : Nat) (rec_ : Nat → Bool) : Option (Nat × State) :=
  match s.injSlot d u with
  | none => none
  | some i =>
    let p := s.rd R.FLT_INJ_UNIT.PARAM i
    let x := mget {} s.injs i
    let n := s.rd R.FLT_INJ_CTL.COUNT i
    let last := decide (s.rd R.FLT_INJ_CTL.MODE i = 1) || decide (n = 1)
    let y : Inj := { x with armed := !last, next := s.rd R.SYN_HAND_NUM.HAND 0 + s.rd R.FLT_INJ_CTL.PERIOD i }
    let s1 : State := { s with injs := mset {} s.injs i y
                               injLive := if rec_ p then s.injLive ++ [(d.row.1, u, s.flag R.FLT_INJ_CTL.HIST i)] else s.injLive }
    let s2 := s1.bump R.FLT_INJ_CTL.FIRED i
    let s3 := if last then s2.wr R.FLT_INJ_CTL.ARM i 0 else s2
    some (p, if s.rd R.FLT_INJ_CTL.MODE i = 2 ∧ n ≠ 0 then s3.wr R.FLT_INJ_CTL.COUNT i (n - 1) else s3)

/-- Codeword positions that a flip parameter names (R559). -/
def flipMask (p : Nat) : Nat := ((List.range (p % 4)).foldl (fun m i => m + 2 ^ (nf p 8 8 + i)) 0)

/-- A detector's check whose only injected effect is to report failure once. -/
def State.forced (s : State) (d : Det) (u : Nat) : Bool × State :=
  match s.inject d u (fun _ => true) with
  | some r => (true, r.2)
  | none => (false, s)

/-- An event as its detector reports it, marked where an injection slot forced it: by a firing whose record was to follow, or because a
slot armed for the detector and the unit fires with this check (R559). -/
def State.marked (s : State) (e : Event) : State × Event :=
  match s.injLive.find? (fun i => decide (i.1 = e.det.row.1 ∧ i.2.1 = e.unit)) with
  | some i => ({ s with injLive := s.injLive.erase i }, { e with injected := true, hist := i.2.2 })
  | none =>
    match s.injSlot e.det e.unit, s.inject e.det e.unit (fun _ => false) with
    | some i, some r => (r.2, { e with injected := true, hist := s.flag R.FLT_INJ_CTL.HIST i })
    | _, _ => (s, e)

/-- An event enters the fault queue (R542), merges (R544), or is discarded (R545, R549). -/
def State.raise (s0 : State) (e0 : Event) : State :=
  let s := (s0.marked e0).1
  let r := (s0.marked e0).2.record s
  if s.flag R.FLT_FATAL.LOG_PATH 0 then s.bump R.FLT_STATUS.DISCARDED 0
  else match mergeRec s.now r s.faultq with
  | some q => { s with faultq := q }
  | none =>
    if s.faultq.length < 64 then
      ({ s with faultq := s.faultq ++ [r] }).wr R.FLT_STATUS.QUEUED 0 (s.faultq.length + 1)
    else
      let s1 : State := { s with faultq := markOverflow s.faultq }
      let s2 := if r.cls % 4 = 2 then s1.nvPut r else s1
      (s2.bump R.FLT_STATUS.DISCARDED 0).wr R.FLT_STATUS.OVERFLOW 0 1

/-- The open lifecycle state (R507). -/
def State.lifeOpen (s : State) : Bool := decide (s.rd R.PLT_LIFECYCLE.STATE 0 = 1)

/-- The unit is permanent (R554). -/
def State.isPerm (s : State) (u : Nat) : Bool := (mget {} s.hist u).perm

/-- Unit of a face, and of an engine of a face (R539). -/
def State.unitFace (s : State) (f : Nat) : Nat := unitId 1 (s.phys f) 0 0 0
def State.unitEngine (s : State) (f sub : Nat) : Nat := unitId 7 (s.phys f) 0 0 sub
def State.unitBlock (s : State) (f b : Nat) : Nat := unitId 6 (s.phys f) b 0 0
def State.unitArray (s : State) (f b a : Nat) : Nat := unitId 2 (s.phys f) b a 0

/-! ### Face faults (R551) -/

/-- Operations that have not started leave the queues and the scoreboard (R41 step 1, R205). -/
def Face.dropQueued (x : Face) : Face :=
  { x with queue := [], sb := x.sb.filter (fun e => !(x.queue.any (fun q => decide (q.id = e.op)))) }

/-- Die trick i, whose home face f is lost, is back in its creation state: no plays counted, no rounds (R333). -/
def State.trickGone (s : State) (f i : Nat) : State :=
  if s.rd R.SYN_TRICK_CFG.HOME i = f ∧ (s.rd R.SYN_TRICK_CFG.COUNT i ≠ 0 ∨ s.rd R.SYN_TRICK_CFG.ROUNDS i ≠ 0) then
    { (s.wr R.SYN_TRICK_CFG.COUNT i 0).wr R.SYN_TRICK_CFG.ROUNDS i 0 with plays := mset [] s.plays i [] }
  else s

/-- The home face f of die tricks goes down while no hand runs (R333; a hand that runs misdeals, R41). -/
def State.homeLost (s : State) (f : Nat) : State := if s.hand.running then s else loop 256 s (fun t i => t.trickGone f i)

/-- A face fault: issue stops (a face that no hand runs on stays off), queued entries are discarded, DOWN is set, a FACE_FAULT record is written, and for causes
1 to 3 an automatic reset is due (R551, R552). -/
def State.faceFault (s : State) (f cause : Nat) : State :=
  let s1 := s.modFace f (fun x =>
    { x.dropQueued with run := if x.run = .off then .off else .ended, failed := true
                        heldFor := if cause ≥ 4 then x.heldFor ++ [cause] else x.heldFor })
  let s2 := ((s1.setDown f true).homeLost f).raise
    { det := .faceFault, unit := s.unitFace f, d0 := BitVec.ofNat 64 cause, lface := f }
  let delay := s.rd R.FLT_CFG.AUTO_RESET 0
  if cause ≤ 3 ∧ delay ≠ 0 then
    let powered := s.rd R.FLT_HIST_STAT.POWERED 0
    let recent := (s.face f).autoTimes.filter (fun t => decide (t + 86400 ≥ powered))
    if recent.length < s.rd R.FLT_CFG.AUTO_MAX 0 then
      s2.modFace f (fun x => { x with autoReset := some (s.now + delay * 1000000) })
    else s2
  else s2

/-! ### Scratchpad words (R195, R206, R219) -/

/-- The stored word at word index `w` of face `f`; a line not written reads as zeros with a valid code. -/
def Face.padWord (x : Face) (w : Nat) : PWord := if mget false x.written (w / 16) then mget {} x.pad w else {}

/-- The word with the positions of a mask flipped (R476). -/
def PWord.flip (p : PWord) (m : Nat) : PWord :=
  if m = 0 then p
  else { data := p.data ^^^ BitVec.ofNat 64 (m / 2 ^ 14), poison := xor p.poison (bit m 78), flips := 0 }

/-- What a read of a word delivers: data, and whether it is delivered poisoned (R219, R477). -/
def PWord.deliver (p : PWord) : Word × Bool :=
  match checkCode p.flips with
  | .clean => (p.data, p.poison)
  | .fixed r => ((p.flip r).data, (p.flip r).poison)
  | .bad => (p.data, true)

/-- The word's code cannot be corrected. -/
def PWord.uncorr (p : PWord) : Bool := decide (checkCode p.flips = .bad)

/-- Unit of the bank holding byte address a (R195, R539). -/
def State.unitBank (s : State) (f a : Nat) : Nat :=
  let g := a / 0x600000
  unitId 8 (s.phys f) 0 0 (8 * g + (a - g * 0x600000) / 128 % 8)

/-- The counts, the record and the write-back that a read of word `w` causes (R219). -/
def State.padTouch (s : State) (f w : Nat) : State :=
  let p := (s.face f).padWord w
  match checkCode p.flips with
  | .clean => if p.poison then s.bump R.SPD_ERR.POISON_READ f else s
  | .fixed r =>
    let t := (s.modFace f (fun x => { x with pad := mset {} x.pad w { p.flip r with flips := 0 } })).bump R.SPD_ERR.CORRECTED f
    if p.poison then t.bump R.SPD_ERR.POISON_READ f else t
  | .bad =>
    (s.bump R.SPD_ERR.UNCORRECTABLE f).raise
      { det := .spUncorr, unit := s.unitBank f (w * 8), addr := w * 8, d0 := BitVec.ofNat 64 (w % 16), lface := f }

/-- Touch every word of a byte range. -/
def State.padTouchRange (s : State) (f base len : Nat) : State :=
  if len = 0 then s else
  loop ((base + len - 1) / 8 + 1 - base / 8) s (fun t i => t.padTouch f (base / 8 + i))

/-- Open a line for writing: a line whose written bit was clear becomes zeros (R206). -/
def Face.padOpen (x : Face) (line : Nat) : Face :=
  if mget false x.written line then x
  else { x with pad := mdrop (fun k => decide (k / 16 = line)) x.pad, written := mset false x.written line true }

/-- Write a whole word, storing the poison bit given. -/
def Face.padPut (x : Face) (w : Nat) (v : Word) (poison : Bool) : Face :=
  let y := x.padOpen (w / 16)
  { y with pad := mset {} y.pad w { data := v, poison := poison, flips := 0 } }

/-- Byte k of a word. -/
def byteOf (v : Word) (k : Nat) : Nat := (v.extractLsb' (8 * k) 8).toNat

/-- Replace byte k of a word. -/
def putByte (v : Word) (k b : Nat) : Word := fput v (8 * k) 8 b

/-- Merge bytes into word `w` from byte `k`: full coverage stores the poison given, else poison gathers (R219). -/
def Face.padMerge (x : Face) (w k : Nat) (bs : List Nat) (poison : Bool) : Face :=
  let y := x.padOpen (w / 16)
  let old := y.padWord w
  let v := (bs.foldl (fun (a : Word × Nat) b => (putByte a.1 a.2 b, a.2 + 1)) (old.deliver.1, k)).1
  let full := decide (k = 0 ∧ bs.length = 8)
  let pz := if full then poison else poison || old.poison || old.uncorr
  { y with pad := mset {} y.pad w { data := v, poison := pz, flips := 0 } }

/-- Write a run of bytes with one poison bit (fuel: the number of bytes). -/
def padRun (x : Face) (a : Nat) (bs : List Nat) (poison : Bool) : Nat → Face
  | 0 => x
  | k + 1 =>
    match bs with
    | [] => x
    | _ =>
      let n := 8 - a % 8
      padRun (x.padMerge (a / 8) (a % 8) (bs.take n) poison) (a + n) (bs.drop n) poison k

/-- Write bytes at a face-local address. -/
def Face.padBytes (x : Face) (a : Nat) (bs : List Nat) (poison : Bool) : Face := padRun x a bs poison bs.length

/-- Words `w` to `w + n - 1` of face f have been stored: a slot armed for the bank of one of them flips bits of the first such word
(R559). -/
def State.injStored (s : State) (f w n : Nat) : State :=
  loop 8 s (fun t i =>
    if !(mget {} t.injs i).armed || decide (t.rd R.FLT_INJ_CTL.DETECTOR i ≠ Det.spUncorr.row.1) then t
    else match (List.range n).find? (fun k => decide (t.unitBank f ((w + k) * 8) = t.rd R.FLT_INJ_UNIT.UNIT i)) with
      | none => t
      | some k =>
        match t.inject .spUncorr (t.unitBank f ((w + k) * 8)) (fun p => decide (p % 4 = 3)) with
        | none => t
        | some r => r.2.modFace f (fun x => { x with pad := mset {} x.pad (w + k) { mget {} x.pad (w + k) with flips := flipMask r.1 } }))

/-- The same of `n` bytes from address `a`. -/
def State.injBytes (s : State) (f a n : Nat) : State := if n = 0 then s else s.injStored f (a / 8) ((a + n - 1) / 8 + 1 - a / 8)

/-- Write bytes at a face-local address, with what the reads of partly covered words leave (R219). -/
def State.padWrite (s : State) (f a : Nat) (bs : List Nat) (poison : Bool) : State :=
  let e := a + bs.length
  let touch (t : State) (w : Nat) : State := if mget false (t.face f).written (w / 16) then t.padTouch f w else t
  let s1 := if a % 8 ≠ 0 then touch s (a / 8) else s
  let s2 := if e % 8 ≠ 0 ∧ (a % 8 = 0 ∨ e / 8 ≠ a / 8) then touch s1 (e / 8) else s1
  (s2.modFace f (fun x => x.padBytes a bs poison)).injBytes f a bs.length

/-- Write a run of bytes, each with the poison of what it was computed from: a word is poisoned by any of its bytes (R220; fuel:
the number of bytes). -/
def storeRun (x : Face) (a : Nat) (bs : List (Nat × Bool)) : Nat → Face
  | 0 => x
  | k + 1 =>
    match bs with
    | [] => x
    | _ =>
      let n := 8 - a % 8
      let h := bs.take n
      storeRun (x.padMerge (a / 8) (a % 8) (h.map Prod.fst) (h.any Prod.snd)) (a + n) (bs.drop n) k

/-- An engine's write of bytes with their poison. -/
def State.padStore (s : State) (f a : Nat) (bs : List (Nat × Bool)) : State :=
  let e := a + bs.length
  let touch (t : State) (w : Nat) : State := if mget false (t.face f).written (w / 16) then t.padTouch f w else t
  let s1 := if a % 8 ≠ 0 then touch s (a / 8) else s
  let s2 := if e % 8 ≠ 0 ∧ (a % 8 = 0 ∨ e / 8 ≠ a / 8) then touch s1 (e / 8) else s1
  (s2.modFace f (fun x => storeRun x a bs bs.length)).injBytes f a bs.length

/-- One byte as delivered. -/
def Face.padByte (x : Face) (a : Nat) : Nat × Bool :=
  let d := (x.padWord (a / 8)).deliver
  (byteOf d.1 (a % 8), d.2)

/-- `n` bytes (at most 8) as a little-endian number, and whether a word of them is poisoned. -/
def Face.padNum (x : Face) (a n : Nat) : Nat × Bool :=
  loop n (0, false) (fun acc i => let b := x.padByte (a + i); (acc.1 + b.1 * 256 ^ i, acc.2 || b.2))

/-- The words of a whole-line range, as delivered. -/
def Face.padWords (x : Face) (a len : Nat) : List (Word × Bool) :=
  (List.range (len / 8)).map (fun i => (x.padWord (a / 8 + i)).deliver)

/-- The stamp of the hand takes in an image version (R358). -/
def State.stampWith (s : State) (v : Nat) : State :=
  { s with hand := { s.hand with stampLo := if s.hand.stampLo = 0 then v else min s.hand.stampLo v, stampHi := max s.hand.stampHi v } }

/-! ### Range images (R236) and the checks of R198 -/

/-- BASE, LEN and GROUPS of a range image. -/
def rngBase (v : Word) : Nat := fget v 0 25
def rngLen (v : Word) : Nat := fget v 25 25
def rngGroups (v : Word) : Nat := fget v 50 4

/-- Lowest common line of two line intervals, if they meet. -/
def meet (lo hi a b : Nat) : Option Nat := if max lo a ≤ min hi b then some (max lo a) else none

/-- Lowest of the lines given. -/
def lowest (xs : List (Option Nat)) : Option Nat :=
  xs.foldl (fun acc x => match acc, x with
    | none, y => y
    | some a, none => some a
    | some a, some b => some (min a b)) none

/-- Lines of group g. -/
def groupLo (g : Nat) : Nat := g * 49152
def groupHi (g : Nat) : Nat := g * 49152 + 49151

/-- Configured slot geometry of a window: base and slot length in lines, slots. -/
def State.winGeom (s : State) (f w : Nat) : Nat × Nat × Nat :=
  (s.rd R.SYN_WIN_CFG.BASE (ix 256 f w), s.rd R.SYN_WIN_CFG.SLOT_BYTES (ix 256 f w), s.rd R.SYN_WIN_CFG.DEPTH (ix 256 f w))

/-- Line intervals of face f that released receive slots hold: those of every window, of any owner, whose FANOUT names f
(R30, R325). -/
def State.releasedLines (s : State) (f : Nat) : List (Nat × Nat) :=
  s.faces.flatMap (fun e => e.2.wins.flatMap (fun we =>
    let g := s.winGeom e.1 we.1
    if bit (s.rd R.SYN_WIN_CFG.FANOUT (ix 256 e.1 we.1)) f then
      we.2.slots.filterMap (fun sl =>
        if sl.2.st = .released then
          some (g.1 + sl.1 * g.2.1, g.1 + sl.1 * g.2.1 + g.2.1 - 1) else none)
    else []))

/-- Line intervals of face f's resident segments (R210): a segment is 1,024 lines. -/
def State.residentLines (s : State) (f : Nat) : List (Nat × Nat) :=
  let g0 := s.rd R.SPD_RES_G0.SEG f
  let g1 := s.rd R.SPD_RES_G1.SEG f
  (List.range 48).filterMap (fun i => if bit g0 i then some (i * 1024, i * 1024 + 1023) else none) ++
  (List.range 48).filterMap (fun i =>
    if bit g1 i then some (49152 + i * 1024, 49152 + i * 1024 + 1023) else none)

/-- Line intervals of G3 quarters in cache mode (R214): a quarter is 12,288 lines. -/
def State.cacheLines (s : State) (f : Nat) : List (Nat × Nat) :=
  let a := s.rd R.SPD_CACHE_CFG.ACTIVE f
  (List.range 4).filterMap (fun q =>
    if bit a q then some (147456 + q * 12288, 147456 + q * 12288 + 12287) else none)

/-- First failing check of R198 for a range on face f through a port reaching `reach`: CHECK 1 to 5 of R622 and the address of
the first failing line; none when the range passes. -/
def State.rangeCheck (s : State) (f : Nat) (r : Word) (reach : Nat) (write : Bool) : Option (Nat × Nat) :=
  if rngLen r = 0 then none else
  let lo := rngBase r / 128
  let hi := (rngBase r + rngLen r - 1) / 128
  let c1 := lowest ((List.range 4).map (fun g => if bit reach g then none else meet lo hi (groupLo g) (groupHi g)))
  let c2 := meet lo hi 196608 262143
  let c3 := lowest ((s.cacheLines f).map (fun i => meet lo hi i.1 i.2))
  let c4 := if write then lowest ((s.releasedLines f).map (fun i => meet lo hi i.1 i.2)) else none
  let c5 := if write then lowest ((s.residentLines f).map (fun i => meet lo hi i.1 i.2)) else none
  match c1, c2, c3, c4, c5 with
  | some l, _, _, _, _ => some (1, l * 128)
  | _, some l, _, _, _ => some (2, l * 128)
  | _, _, some l, _, _ => some (3, l * 128)
  | _, _, _, some l, _ => some (4, l * 128)
  | _, _, _, _, some l => some (5, l * 128)
  | _, _, _, _, _ => none

/-- A program's writes into lines of a slot that is not released to it (R331): where the slot already holds arriving data the
line ends with either. -/
def State.raceWrite (s : State) (before : Face) (f lo hi : Nat) : State :=
  s.faces.foldl (fun t e => e.2.wins.foldl (fun u we =>
    let i := ix 256 e.1 we.1
    let g := s.winGeom e.1 we.1
    if s.rd R.SYN_WIN_STATE.STATE i ≥ 2 ∧ bit (s.rd R.SYN_WIN_CFG.FANOUT i) f = true then
      loop g.2.2 u (fun v k =>
        let a := max lo (g.1 + k * g.2.1)
        let b := min hi (g.1 + k * g.2.1 + g.2.1 - 1)
        let o := mget {} we.2.slots k
        if o.st = .released ∨ b < a then v
        else loop (b + 1 - a) v (fun z l =>
          let line := a + l
          let z1 := z.modFace f (fun y => { y with raced := mset false y.raced line true })
          let arrived := o.parcels.any (fun p => decide (g.1 + k * g.2.1 + p.offset / 128 ≤ line ∧
            line < g.1 + k * g.2.1 + p.offset / 128 + p.lines))
          if arrived then
            let d := z1.draw
            if d.1 % 2 = 0 then d.2
            else d.2.modFace f (fun y => (List.range 16).foldl (fun (q : Face) j =>
              { q with pad := mset {} q.pad (line * 16 + j) (before.padWord (line * 16 + j)) }) y)
          else z1))
    else u) t) s

/-- A program's store of bytes in its own scratchpad, each with its poison (R219, R220, R331). -/
def State.progStore (s : State) (f a : Nat) (bs : List (Nat × Bool)) : State :=
  if bs = [] then s else (s.padStore f a bs).raceWrite (s.face f) f (a / 128) ((a + bs.length - 1) / 128)

/-- What becomes of a line arriving from outside the face (a remote copy or a window arrival): stored, dropped as unmapped or
cache-mode (R196, R222), or dropped at the resident region (R211). -/
inductive Arrival where
  | stored
  | unmapped
  | resident
  deriving DecidableEq, Repr

def State.arrival (s : State) (f line : Nat) : Arrival :=
  if line ≥ 196608 then .unmapped
  else if (s.cacheLines f).any (fun i => decide (i.1 ≤ line ∧ line ≤ i.2)) then .unmapped
  else if (s.residentLines f).any (fun i => decide (i.1 ≤ line ∧ line ≤ i.2)) then .resident
  else .stored

/-- Write one line (16 words) that arrives from outside the face. -/
def State.putArrival (s : State) (f line : Nat) (ws : List (Word × Bool)) : State :=
  match s.arrival f line with
  | .unmapped => s.bump R.SPD_ERR.UNMAPPED f
  | .resident => s.bump R.SPD_ERR.RESIDENT_WRITE f
  | .stored => s.modFace f (fun x =>
      (ws.foldl (fun (a : Face × Nat) v => (a.1.padPut a.2 v.1 v.2, a.2 + 1)) (x, line * 16)).1)

/-! ### Counters (R310 to R313) -/

/-- Change a counter of face f by n; none where that would leave its range (a revoke, R312). -/
def State.ctrAdd (s : State) (f k : Nat) (n : Int) : Option State :=
  let c := mget {} (s.face f).ctr k
  let v := (c.value : Int) + n
  if 0 ≤ v ∧ v ≤ (c.ceil : Int) then
    some (s.modFace f (fun x => { x with ctr := mset {} x.ctr k { c with value := v.toNat } }))
  else none

/-- The image of R623: INDEX, TRICK, ORIGIN, DEV, FACE, AMOUNT. -/
def revokeImage (index : Nat) (trick : Bool) (origin dev face : Nat) (amount : Int) : Word :=
  BitVec.ofNat 64 (index % 1024 + (if trick then 1024 else 0) + origin % 16 * 4096 + dev % 4096 * 65536
    + face % 8 * 2 ^ 28) ||| (BitVec.ofInt 64 amount <<< 32)

/-- The record of a revoke and its count (R312, R623). -/
def State.revokeRecord (s : State) (owner : Nat) (img : Word) : State :=
  (s.bump R.SYN_FACE_STAT.REVOKES owner).raise
    { det := .revoke, unit := s.unitFace owner, d0 := img
      d1 := BitVec.ofNat 64 (s.devAddr + owner * 65536), lface := owner }

/-! ### The program in the store (R228, R237) -/

/-- A header word. -/
def Face.hdr (x : Face) (i : Nat) : Word := mget 0#64 x.store i

/-- CODE_END and ENTRY (R228). -/
def Face.codeEnd (x : Face) : Nat := fget (x.hdr 1) 17 18
def Face.entry (x : Face) : Nat := fget (x.hdr 1) 0 17

/-- Target of a vector, if its VALID bit is set (R237). -/
def Face.vector (x : Face) (v : Nat) : Option Nat :=
  let w := mget 0#64 x.store (x.entry + v)
  if fget w 63 1 = 1 then some (fget w 0 17) else none

/-! ### Balance check (R243) -/

/-- First difference the balance check finds: the image of R623 with ORIGIN 5. -/
def State.imbalance (s : State) (f : Nat) : Option Word :=
  let x := s.face f
  match x.ctr.find? (fun e => e.2.declared && e.2.check && decide (e.2.value ≠ e.2.entry)) with
  | some e => some (revokeImage e.1 false 5 s.devAddr f ((e.2.value : Int) - (e.2.entry : Int)))
  | none =>
    match x.handles.find? (fun e => e.2.listed && decide (e.2.play ≠ none)) with
    | some e => some (revokeImage e.1 true 5 s.devAddr f 0)
    | none => none

/-- Every operation that the face issued in this hand has completed (R23). -/
def Face.drained (x : Face) : Bool := x.queue.isEmpty && !(x.started.any (fun q => !q.discard))

/-! ### Taking a trap (R246 to R250) -/

/-- The class of a vector (R237). -/
def isFaultVector (v : Nat) : Bool := decide (3 ≤ v ∧ v ≤ 8)

/-- END retires (R242, R241): nothing more issues in this hand. -/
def State.retireEnd (s : State) (f : Nat) : State :=
  s.modFace f (fun x => { x with run := .ended, endTime := some s.now, result := mget 0#64 x.s 31 })

/-- Enter a handler: the saved registers, and the branch to its target (R246). -/
def Face.enter (x : Face) (h : Handler) (vec tpc target : Nat) (info : Word) : Face :=
  { x with tcause := vec, tinfo := info, tpc := tpc, pc := target, handler := h, run := .issuing }

/-- A trap that FCE_TRAP_STAT shows. -/
def State.trapStat (s : State) (f vec tpc : Nat) : State :=
  ((s.wr R.FCE_TRAP_STAT.LAST_VECTOR f vec).wr R.FCE_TRAP_STAT.LAST_PC f tpc).wr R.FCE_TRAP_STAT.VALID f 1

/-- The fault record of a trap of face f (R248); of the traps of one instruction all but the first come to no more than this (R251). -/
def State.trapRecord (s : State) (f vec : Nat) (info : Word) (tpc : Nat) : State :=
  s.raise { det := .trap, unit := s.unitFace f, addr := tpc, d0 := BitVec.ofNat 64 vec, d1 := info, lface := f }

/-- What TPC holds for a trap of an instruction at `pc`: that address, or the waiting instruction's while TWAIT, WAIT, WAITT or FENCE stalls (R246,
R263). -/
def Face.trapPc (x : Face) (pc : Nat) : Nat :=
  match x.run with
  | .stalled .ending => pc
  | .stalled _ => x.pc
  | _ => pc

/-- Take a fault-class trap on face f: vector, TINFO, and the trapping instruction's address (R246, R248, R250, R254, R263). -/
def State.takeFault (s : State) (f vec : Nat) (info : Word) (at_ : Nat) : State :=
  let x := s.face f
  let tpc := x.trapPc at_
  let s1 := ((s.trapStat f vec tpc).bump R.FCE_TRAP_STAT.FAULTS f).modFace f (fun y => { y with failed := true })
  let s2 := s1.trapRecord f vec info tpc
  match x.run with
  | .off | .ended => s2
  | _ =>
    if x.handler = .fault then
      (s2.wr R.FCE_TRAP_STAT.DOUBLE f 1).faceFault f 2
    else match x.vector vec with
    | some t => s2.modFace f (fun y => y.enter .fault vec tpc t info)
    | none => s2.modFace f (fun y => { y with handler := .fault, run := .stalled .ending })

/-- Deliver the hand-budget warning, hold it in a handler, or drop it for want of a vector (R25, R238, R250). -/
def State.takeWarning (s : State) (f : Nat) (left : Nat) : State :=
  let x := s.face f
  match x.run with
  | .off | .ended => s
  | _ =>
    let s1 := s.modFace f (fun y => { y with warned := true })
    if x.handler ≠ .none then s1.modFace f (fun y => { y with heldWarn := true })
    else
      let s2 := s1.bump R.FCE_TRAP_STAT.WARNINGS f
      match x.vector 2 with
      | some t => (s2.trapStat f 2 x.pc).modFace f (fun y => y.enter .warning 2 x.pc t (BitVec.ofNat 64 left))
      | none => s2

/-- Retire an END that waited, once its operations have completed: the balance check of R243, which an END in a fault
handler does not make (R249). -/
def State.tryEnd (s : State) (f : Nat) : State :=
  let x := s.face f
  if x.drained = false then s
  else if x.handler = .fault then s.retireEnd f
  else match s.imbalance f with
  | some img => (s.revokeRecord f img).takeFault f 3 img x.pc
  | none => s.retireEnd f

/-- Resume a stalled face where its wait is over (R276, R319, R280, R23). -/
def State.wake (s : State) (f : Nat) : State :=
  let x := s.face f
  match x.run with
  | .stalled (.wait k n) =>
    if n ≤ (mget {} x.ctr k).value then
      match s.ctrAdd f k (-(n : Int)) with
      | some t => t.modFace f (fun y => { y with run := .issuing, pc := y.pc + 1 })
      | none => s
    else s
  | .stalled (.waitt t) =>
    let h := mget {} x.handles t
    if x.handles.all (fun e => decide (¬(e.2.listed = true ∧ e.2.domain = h.domain ∧ e.2.trick = h.trick)) || decide (e.2.play = none)) then s.modFace f (fun y => { y with run := .issuing, pc := y.pc + 1 }) else s
  | .stalled (.fence m) =>
    let busy := (x.queue ++ x.started).any (fun q => !q.discard && (decide (m = 0) || bit m q.eng.ctorIdx))
    if busy then s else s.modFace f (fun y => { y with run := .issuing, pc := y.pc + 1 })
  | .stalled .ending =>
    let t := s.tryEnd f
    match (t.face f).run with
    | .stalled .ending => if (t.face f).handler = .fault then t.tryEnd f else t
    | _ => t
  | _ => s

/-- Take a fault-class trap and let an END it leads to retire where nothing is outstanding. -/
def State.trapFault (s : State) (f vec : Nat) (info : Word) (tpc : Nat) : State := (s.takeFault f vec info tpc).wake f

/-- Signal a counter of face f by n; a revoke writes its record and, where `trap` gives the trapping address, takes the
revoke trap (R312). -/
def State.signal (s : State) (f k : Nat) (n : Int) (origin dev issuer : Nat) (tpc : Nat) : State :=
  match s.ctrAdd f k n with
  | some t => t.wake f
  | none =>
    let img := revokeImage k false origin dev issuer n
    (s.revokeRecord f img).trapFault f 3 img tpc

/-- SET ERR of a counter (R313). -/
def State.setErr (s : State) (f k : Nat) : State :=
  (s.modFace f (fun x => { x with ctr := mset {} x.ctr k { mget {} x.ctr k with err := true } })).bump
    R.SYN_FACE_STAT.ERR_SET f

end Sys2Proof.Machine
end

