-- ==== Sys2Proof/Machine/Operands.lean ====
section
/-! DEFINITION. Operands of Ifeom instructions: the fields of the instruction words (09_ifeom_control_and_movement.md), the
scalar, predicate, loop and range registers with their hard-wired members (R235), the decoding checks of R257, the guard of
R258, and issue itself. -/
namespace Sys2Proof.Machine

/-! ### Fields of word 0 -/

/-- Operand field [lo + wd − 1 : lo] of word 0. -/
def opf (w : IWord) (lo wd : Nat) : Nat := (w.ops.extractLsb' lo wd).toNat

/-- Fields named in the tables of R255 to R266. -/
def fRD (w : IWord) : Nat := opf w 37 5
def fRA (w : IWord) : Nat := opf w 32 5
def fRB (w : IWord) : Nat := opf w 27 5
def fPD (w : IWord) : Nat := opf w 39 3
def fPA (w : IWord) : Nat := opf w 36 3
def fPB (w : IWord) : Nat := opf w 33 3
def fTarget (w : IWord) : Nat := opf w 0 17
def fL (w : IWord) : Nat := opf w 40 2
def fIMM32 (w : IWord) : Nat := opf w 0 32
def fSPEC (w : IWord) : Nat := opf w 24 8
def fAL (w : IWord) : Nat := opf w 38 4
def fAR (w : IWord) : Nat := opf w 34 4
def fCTR (w : IWord) : Nat := opf w 24 10
def fCEN (w : IWord) : Bool := decide (opf w 23 1 = 1)
def fK (w : IWord) : Nat := opf w 32 10
def fT (w : IWord) : Nat := opf w 34 8

/-- IMM16 of the immediate forms, sign-extended to 64 bits (R264). -/
def imm16 (w : IWord) : Word := (w.ops.extractLsb' 16 16).signExtend 64

/-! ### Registers of a face (R235) -/

/-- Scalar register; s0 reads 0. -/
def Face.sreg (x : Face) (i : Nat) : Word := if i = 0 then 0#64 else mget 0#64 x.s i

/-- Write a scalar register; a write to s0 is discarded. -/
def Face.setS (x : Face) (i : Nat) (v : Word) : Face := if i = 0 then x else { x with s := mset 0#64 x.s i v }

/-- Predicate; p0 reads 1. -/
def Face.preg (x : Face) (i : Nat) : Bool := if i = 0 then true else mget false x.p i

/-- Write a predicate; a write to p0 is discarded. -/
def Face.setP (x : Face) (i : Nat) (b : Bool) : Face := if i = 0 then x else { x with p := mset false x.p i b }

/-- Loop counter. -/
def Face.lreg (x : Face) (i : Nat) : Nat := mget 0 x.l i

/-- Write a loop counter (32 bits). -/
def Face.setL (x : Face) (i v : Nat) : Face := { x with l := mset 0 x.l i (v % 2 ^ 32) }

/-- Range register. -/
def Face.areg (x : Face) (i : Nat) : Word := mget 0#64 x.a i

/-- Write a range register. -/
def Face.setA (x : Face) (i : Nat) (v : Word) : Face := { x with a := mset 0#64 x.a i v }

/-- The amount N of the synchronisation class: RA + IMM16, IMM16 zero-extended, modulo 2^32. -/
def amountN (x : Face) (w : IWord) : Nat := ((x.sreg (opf w 27 5)).toNat + opf w 0 16) % 2 ^ 32

/-! ### Decoding (R257) -/

/-- An operation's shape: class, operation, LEN, and the (lowest bit, width) of the fields its layout names in word 0 and in
words 1 to 3; every other bit must be zero. -/
structure Form where
  cls : Nat
  op : Nat
  len : Nat
  f0 : List (Nat × Nat)
  f1 : List (Nat × Nat) := []
  f2 : List (Nat × Nat) := []
  f3 : List (Nat × Nat) := []
  deriving DecidableEq, Repr

/-- The 16 bits OPCODE of a fault record: CLASS in [15:10], OP in [9:0] (R541). -/
def Form.opcode (m : Form) : Nat := m.cls * 1024 + m.op

/-- Bits that a list of fields covers. -/
def coverW (fs : List (Nat × Nat)) : Word :=
  fs.foldl (fun m f => m ||| ((BitVec.ofNat 64 (2 ^ f.2 - 1)) <<< f.1)) 0#64

/-- CLASS and OP name the operation. -/
def Form.names (m : Form) (w : IWord) : Bool := decide (w.cls = m.cls ∧ w.op = m.op)

/-- The operations of each class (R256, and the tables of its classes). -/
def assignedOps : List (Nat × List Nat) :=
  [(0x01, List.range 9),
   (0x02, List.range 14 ++ [0x040, 0x041, 0x042, 0x043, 0x044, 0x045, 0x046, 0x047, 0x048, 0x04A, 0x04B, 0x04C, 0x04D, 0x080] ++
     [0x090, 0x091, 0x092, 0x093, 0x094, 0x095, 0x0A0, 0x0A1, 0x0A2, 0x0A3, 0x0A8, 0x0B0, 0x0C0, 0x0C1] ++
     [0x0D0, 0x0D1, 0x0D2, 0x0D3, 0x0D4, 0x0D5]),
   (0x03, List.range 4), (0x04, List.range 7 ++ [0x010]), (0x08, [0x000, 0x010, 0x011]), (0x09, [0x000]), (0x0A, [0x000, 0x001]),
   (0x0B, List.range 20), (0x10, List.range 9), (0x11, List.range 3), (0x3F, [0x000, 0x001])]

/-- CLASS and OP name an operation at all; any other code is undecodable (R256, R257). -/
def assigned (cls op : Nat) : Bool := assignedOps.any (fun c => decide (c.1 = cls) && c.2.contains op)

/-- CLASS and OP are the operation's, LEN is, and every bit its layout does not name is zero (R257). -/
def Form.decodes (m : Form) (w : IWord) : Bool :=
  m.names w && decide (w.len = m.len) &&
  decide ((w.ops.setWidth 64) &&& ~~~ coverW m.f0 = 0#64) &&
  (decide (m.len < 1) || decide (w.w1 &&& ~~~ coverW m.f1 = 0#64)) &&
  (decide (m.len < 2) || decide (w.w2 &&& ~~~ coverW m.f2 = 0#64)) &&
  (decide (m.len < 3) || decide (w.w3 &&& ~~~ coverW m.f3 = 0#64))

/-- The guard of R258. -/
def guardTrue (x : Face) (w : IWord) : Bool := xor (x.preg w.pred) w.pneg

/-! ### Issue -/

/-- What executing an instruction whose guard is true comes to. -/
inductive Done where
  /-- executed; issue goes on behind it -/
  | next (s : State)
  /-- executed; issue goes on at an address -/
  | jump (s : State) (pc : Nat)
  /-- a precise fault-class trap: vector and TINFO; the instruction has no effect (R247) -/
  | trap (vec : Nat) (info : Word)
  /-- several traps of one instruction, in the order of R251: the first is taken, the others are recorded only -/
  | traps (vec : Nat) (info : Word) (rest : List (Nat × Word))
  /-- as `trap`, with a state that holds the trap's own record (a revoke) -/
  | trapIn (s : State) (vec : Nat) (info : Word)
  /-- cannot issue yet (a full queue or a hazard, R201, R244): the stall counts, and nothing else happens -/
  | hold (s : State)
  /-- issue stalls at the instruction -/
  | stall (s : State) (why : Stall)
  /-- executed; the state holds all that follows, the program counter included -/
  | whole (s : State)

/-- A check that answers a trap, else what follows it. -/
def Done.orElse (o : Option Done) (d : Done) : Done :=
  match o with
  | some e => e
  | none => d

/-- A hazard that holds the instruction (R201), else what follows. -/
def Done.orHold (o : Option State) (d : Done) : Done :=
  match o with
  | some s => .hold s
  | none => d

/-- Of the traps that an instruction raises (vector, TINFO), in the order of R251, the first is taken and the rest are recorded; with none, what
follows. -/
def Done.orTraps (ts : List (Option (Nat × Word))) (d : Done) : Done :=
  match ts.filterMap id with
  | [] => d
  | t :: rest => .traps t.1 t.2 rest

/-- The traps of an instruction that a false guard would hide nothing of, as a list in the order of R251: those before an uncorrectable word of the
program store, and the revoke behind it. -/
def Done.found (d : Done) : List (Nat × Word) × List (Nat × Word) :=
  match d with
  | .trap v i => ([(v, i)], [])
  | .traps v i rest => ((v, i) :: rest, [])
  | .trapIn _ v i => ([], [(v, i)])
  | _ => ([], [])

/-- The illegal-instruction trap (vector 8) with a cause. -/
def illegal (cause : Nat) : Done := .trap 8 (BitVec.ofNat 64 cause)

/-- The absent-unit trap (vector 4): unit code and stack or port number (R237). -/
def absentUnit (unit number : Nat) : Done := .trap 4 (BitVec.ofNat 64 (unit + number * 256))

/-- The range-fault trap (vector 5) with the fields of R622. -/
def rangeInfo (check operand range where_ : Nat) : Word :=
  BitVec.ofNat 64 (check + operand * 256 + range * 4096 + where_ * 65536)
def rangeFault (check operand range where_ : Nat) : Done := .trap 5 (rangeInfo check operand range where_)

/-- First uncorrectable word among the `n` words at `pc` (R224). -/
def Face.badWord (x : Face) (pc n : Nat) : Option Nat :=
  (List.range n).findSome? (fun i => if checkCode (mget 0 x.storeErr (pc + i)) = .bad then some (pc + i) else none)

/-- Words among the `n` at `pc` that a fetch corrects (R224). -/
def Face.fixedWords (x : Face) (pc n : Nat) : Nat :=
  ((List.range n).filter (fun i => decide (mget 0 x.storeErr (pc + i) ≠ 0) && decide (checkCode (mget 0 x.storeErr (pc + i)) ≠ .bad))).length

/-- Take the first of an instruction's traps, and record the rest (R251). -/
def State.takeTraps (s : State) (f pc : Nat) (ts : List (Nat × Word)) : State :=
  match ts with
  | [] => s
  | t :: rest => (rest.foldl (fun u r => u.trapRecord f r.1 r.2 pc) s).trapFault f t.1 t.2 pc

/-- Issue an instruction on face f: nothing on a face that is not issuing, nor of words that name another operation (log entry 11); CODE_END (R242); the fetch of R224 with R257 cause 1 before it and, of an
instruction that the guard (R258) lets execute, the other traps in the order of R251; then `body` on the state. -/
def issue (s : State) (f : Nat) (w : IWord) (m : Form) (body : State → Face → Done) : State :=
  let x := s.face f
  if x.run ≠ .issuing ∨ (m.names w = false ∧ assigned w.cls w.op = true) then s
  else if x.pc ≥ x.codeEnd then s.trapFault f 8 4#64 x.pc
  else match x.badWord x.pc (m.len + 1) with
  | some a =>
    let t := (s.bump R.FCE_STORE_ERR.UNCORRECTABLE f).raise
      { det := .storeUncorr, unit := s.unitEngine f 3, d0 := BitVec.ofNat 64 a, lface := f }
    let found := if m.decodes w = false then ([(8, 1#64)], []) else if guardTrue x w then (body t x).found else ([], [])
    t.takeTraps f x.pc (found.1 ++ [(6, BitVec.ofNat 64 a)] ++ found.2)
  | none =>
    let s1 := s.bumpBy R.FCE_STORE_ERR.CORRECTED f (x.fixedWords x.pc (m.len + 1))
    if m.decodes w = false then s1.trapFault f 8 1#64 x.pc
    else if guardTrue x w = false then s1.modFace f (fun y => { y with pc := y.pc + m.len + 1 })
    else match body s1 x with
    | .next t => (t.bump R.FCE_ISSUE_STAT.ISSUED f).modFace f (fun y => { y with pc := y.pc + m.len + 1 })
    | .jump t a => (t.bump R.FCE_ISSUE_STAT.ISSUED f).modFace f (fun y => { y with pc := a })
    | .trap v i => s1.trapFault f v i x.pc
    | .traps v i rest => s1.takeTraps f x.pc ((v, i) :: rest)
    | .trapIn t v i => t.trapFault f v i x.pc
    | .hold t => t
    | .stall t why => ((t.bump R.FCE_ISSUE_STAT.ISSUED f).modFace f (fun y => { y with run := .stalled why })).wake f
    | .whole t => t.bump R.FCE_ISSUE_STAT.ISSUED f

/-- A scalar instruction that writes RD with a value of the face's registers. -/
def issueRD (s : State) (f : Nat) (w : IWord) (m : Form) (v : Face → Word) : State :=
  issue s f w m (fun t x => .next (t.modFace f (fun y => y.setS (fRD w) (v x))))

/-- A scalar instruction that writes PD with a truth value of the face's registers. -/
def issuePD (s : State) (f : Nat) (w : IWord) (m : Form) (v : Face → Bool) : State :=
  issue s f w m (fun t x => .next (t.modFace f (fun y => y.setP (fPD w) (v x))))

/-- The line interval of a range image. -/
def rngLines (r : Word) : Nat × Nat := (rngBase r / 128, (rngBase r + rngLen r - 1) / 128)

/-- A range waits for an in-flight one that shares a line with it, unless both are read (R201). -/
def Face.hazard (x : Face) (write : Bool) (lo hi : Nat) : Bool :=
  x.sb.any (fun e => (write || e.write) && decide (max lo e.lo ≤ min hi e.hi))

/-- Whether the declared ranges (image, whether written) may issue: none, or the state in which the stall has counted
(R200, R201, R203; log entry 6 for what one count stands for).  An access of G3 waits for a change of the cache's quarters that a draining gather
holds up (R222); it counts as a hazard (DESIGN CHOICE, log entry 74). -/
def State.sbStall (s : State) (f : Nat) (rs : List (Word × Bool)) : Option State :=
  let x := s.face f
  if rs.any (fun r => decide (rngLen r.1 ≠ 0) && x.hazard r.2 (rngLines r.1).1 (rngLines r.1).2) then
    some (s.bump R.SPD_SB_STAT.HAZARD f)
  else if x.cacheDue && rs.any (fun r => decide (rngLen r.1 ≠ 0 ∧ 147456 ≤ (rngLines r.1).2)) then some (s.bump R.SPD_SB_STAT.HAZARD f)
  else if x.sb.length + (rs.filter (fun r => decide (rngLen r.1 ≠ 0))).length > 64 then some (s.bump R.SPD_SB_STAT.FULL f)
  else none

/-- The scoreboard holds `n` more entries: the greatest number held (SPD_SB_STAT.MAX_USED). -/
def State.sbNote (s : State) (f n : Nat) : State :=
  s.wr R.SPD_SB_STAT.MAX_USED f (max (s.rd R.SPD_SB_STAT.MAX_USED f) ((s.face f).sb.length + n))

/-- Layouts of word 0 that several operations share. -/
def formRRR (op : Nat) : Form := ⟨0x02, op, 0, [(37, 5), (32, 5), (27, 5)], [], [], []⟩
def formRRI (op : Nat) : Form := ⟨0x02, op, 0, [(37, 5), (32, 5), (16, 16)], [], [], []⟩
def formPRR (op : Nat) : Form := ⟨0x02, op, 0, [(39, 3), (32, 5), (27, 5)], [], [], []⟩
def formPRI (op : Nat) : Form := ⟨0x02, op, 0, [(39, 3), (32, 5), (16, 16)], [], [], []⟩
def formPPP (op : Nat) : Form := ⟨0x02, op, 0, [(39, 3), (36, 3), (33, 3)], [], [], []⟩
def formPP (op : Nat) : Form := ⟨0x02, op, 0, [(39, 3), (36, 3)], [], [], []⟩

end Sys2Proof.Machine
end

