-- ==== Sys2Proof/Machine/Hbm.lean ====
section
/-! DEFINITION. HBM as a unit of the device reads and writes it (17_memory_protection.md): addresses, regions, the read path of
R482 and the write path of R483, and the G3 hardware cache in front of a face's reads (R215 to R218).  A granule is
held as its plaintext with the key set it is under, which say what ciphertext and tag the stack stores (log entry 7). -/
namespace Sys2Proof.Machine

/-- Stack named by an HBM byte address, and the offset within it (R472). -/
def hStack (a : Nat) : Nat := nf a 36 3
def hOff (a : Nat) : Nat := nf a 0 36

/-- The stack is present and powered on (R8, R565): stacks 0 to 3 on HBM_N, 4 to 7 on HBM_S. -/
def State.stackOn (s : State) (p : Nat) : Bool := s.stackPresent p && s.domOn (if p < 4 then 24 else 25)

/-- The address is usable (R472). -/
def State.usable (s : State) (a : Nat) : Bool :=
  decide (a < 2 ^ 39) && s.stackPresent (hStack a) && decide (hOff a < 36000000000)

/-- The address lies in the weight region of its stack; in its serving region (R474). -/
def State.inWreg (s : State) (a : Nat) : Bool :=
  let u := hOff a / 2 ^ 21
  decide (s.rd R.MEM_WREG.BASE (hStack a) ≤ u ∧ u < s.rd R.MEM_WREG.LIMIT (hStack a))
def State.inSreg (s : State) (a : Nat) : Bool :=
  let u := hOff a / 2 ^ 21
  decide (s.rd R.MEM_SREG.BASE (hStack a) ≤ u ∧ u < s.rd R.MEM_SREG.LIMIT (hStack a))

/-- A granule. -/
def State.gran (s : State) (g : Nat) : Gran := mget {} s.hbm g

/-- Replace a granule. -/
def State.setGran (s : State) (g : Nat) (x : Gran) : State := { s with hbm := mset {} s.hbm g x }

/-- Unit of the pseudo-channel of a granule (R473, R539). -/
def chanUnit (g : Nat) : Nat := unitId 13 (g / 2 ^ 29) 0 0 (g % 2 ^ 29 / 12 % 64)

/-- Key of the metadata word that holds a granule's entry: four granules share a word (R473). -/
def metaKey (g : Nat) : Nat := (g / 2 ^ 29) * 2 ^ 28 + (g % 2 ^ 29 / 12) * 3 + g % 2 ^ 29 % 12 / 4

/-- A metadata word that cannot be corrected: the four granules that share it read poisoned, and the word is written anew
(R482 step 2, R494). -/
def State.metaPoison (s : State) (g : Nat) : State :=
  let b := g - g % 2 ^ 29 % 12 % 4
  loop 4 { s with hbmMeta := mset 0 s.hbmMeta (metaKey g) 0 } (fun t i =>
    t.setGran (b + i) { t.gran (b + i) with present := true, poison := true })

/-- All words of a granule poisoned, or zero. -/
def poisonLine : List (Word × Bool) := List.replicate 16 (0#64, true)
def zeroLine : List (Word × Bool) := List.replicate 16 (0#64, false)

/-- Step 1 of R482: words of the granule corrected in place, and how many were. -/
def Gran.correct (x : Gran) : Gran × Nat :=
  loop 16 (x, 0) (fun acc i =>
    let p := mget {} acc.1.words i
    match checkCode p.flips with
    | .fixed r => ({ acc.1 with words := mset {} acc.1.words i { p.flip r with flips := 0 }
                                tagBad := acc.1.tagBad || decide (r / 2 ^ 14 % 2 ^ 64 ≠ 0) }, acc.2 + 1)
    | _ => acc)

/-- The key set a granule is under, and its EPOCH (R473). -/
def Gran.set (x : Gran) : KeySet := ⟨x.gen, x.plat, if x.plat then 0 else x.epoch⟩
def Gran.epochField (x : Gran) : Nat := if x.plat then 0 else x.epoch % 4

/-- What the stack holds of granule g: the ciphertext of R480, whose locator is the byte address divided by 128, and the tag of R481. -/
def Gran.cipher (x : Gran) (g : Nat) : List Word := x.set.seal g ((List.range 16).map (fun i => (mget {} x.words i).data))
def Gran.tag (x : Gran) (g : Nat) : Word := x.set.tag g (x.cipher g)

/-- The key set of an epoch of the session, and the platform set. -/
def State.sessionSet (s : State) (e : Nat) : KeySet := ⟨s.keyGen, false, e⟩
def State.platformSet (s : State) : KeySet := ⟨s.keyGen, true, 0⟩

/-- Which key set step 5 of R482 chooses: platform, current or previous; none: a key miss. -/
def State.keyFor (s : State) (g : Nat) (x : Gran) : Option KeySet :=
  let e := s.rd R.KEY_STATE.EPOCH 0
  if s.inWreg (g * 128) then
    if s.flag R.KEY_STATE.PLATFORM_VALID 0 then some s.platformSet else none
  else if s.flag R.KEY_STATE.CUR_VALID 0 ∧ x.epochField = e % 4 then some (s.sessionSet e)
  else if s.flag R.KEY_STATE.PREV_VALID 0 ∧ x.epochField = (e + 3) % 4 then some (s.sessionSet (e - 1))
  else none

/-- The tag of a granule fails under a set (R482 step 6): its stored bits were altered, or another set wrote it and the tags differ. -/
def Gran.tagFails (x : Gran) (g : Nat) (k : KeySet) : Bool :=
  x.tagBad || (decide (k ≠ x.set) && decide (k.tag g (x.cipher g) ≠ x.tag g))

/-- The words of a granule deciphered under a set, each with its poison bit (R482 step 7). -/
def Gran.deliver (x : Gran) (g : Nat) (k : KeySet) : List (Word × Bool) :=
  let raw := (List.range 16).map (fun i => let p := mget {} x.words i; (p.data, p.poison))
  if k = x.set then raw else (k.open_ g (x.cipher g)).zip (raw.map Prod.snd)

/-- A stack register's instance. -/
def stk (g : Nat) : Nat := g / 2 ^ 29

/-- Read a granule (R482): the sixteen words as delivered, with the counts, records and marks that the read leaves. -/
def State.hbmRead (s : State) (g : Nat) : State × List (Word × Bool) :=
  let c := (s.gran g).correct
  let mf := mget 0 s.hbmMeta (metaKey g)
  let mfix := decide (mf ≠ 0) && decide (checkCode mf ≠ .bad)
  let n := c.2 + (if mfix then 1 else 0)
  let s1 := ({ s.setGran g c.1 with hbmMeta := if mfix then mset 0 s.hbmMeta (metaKey g) 0 else s.hbmMeta }).bumpBy
              R.MEM_ERR.CORRECTED (stk g) n
  let x := c.1
  if x.words.any (fun e => e.2.uncorr) || decide (checkCode mf = .bad) then
    let s2 := if checkCode mf = .bad then s1.metaPoison g else s1
    (((s2.setGran g { x with poison := true, present := true, words := x.words.map (fun e => (e.1, { e.2 with flips := 0 })) }).bump
        R.MEM_ERR.UNCORRECTABLE (stk g)).raise
        { det := .hbmUncorr, unit := chanUnit g, addr := g * 128
          d0 := BitVec.ofNat 64 ((x.words.find? (fun e => e.2.uncorr)).elim 16 (fun e => e.1)) }, poisonLine)
  else if x.present = false then (s1, zeroLine)
  else if x.poison then (s1.bump R.MEM_ERR.POISON_READ (stk g), poisonLine)
  else
    let fk := if s.flag R.KEY_STATE.CUR_VALID 0 then s1.forced .keyMiss (chanUnit g) else (false, s1)
    match (if fk.1 then none else s1.keyFor g x) with
  | none =>
    let s2 := fk.2.bump R.MEM_ERR.KEY_MISS (stk g)
    (if s.flag R.KEY_STATE.CUR_VALID 0 then
       s2.raise { det := .keyMiss, unit := chanUnit g, addr := g * 128, d0 := BitVec.ofNat 64 x.epoch } else s2, poisonLine)
  | some k =>
    let ft := s1.forced .tagFail (chanUnit g)
    if x.tagFails g k || ft.1 then
      (((ft.2.setGran g { x with poison := true }).bump R.MEM_ERR.TAG_FAIL (stk g)).raise
        { det := .tagFail, unit := chanUnit g, addr := g * 128 }, poisonLine)
    else (s1, x.deliver g k)

/-- The words a list of sixteen makes. -/
def wordsOf (ws : List (Word × Bool)) : SMap PWord :=
  (ws.foldl (fun (a : SMap PWord × Nat) w => (mset {} a.1 a.2 { data := w.1, poison := w.2, flips := 0 }, a.2 + 1)) ([], 0)).1

/-- Store a granule under the current set, or the platform set in the weight region (R483). -/
def State.hbmPut (s : State) (g : Nat) (ws : List (Word × Bool)) : State :=
  let pl := s.inWreg (g * 128)
  let s0 := if checkCode (mget 0 s.hbmMeta (metaKey g)) = .bad then s.metaPoison g
            else { s with hbmMeta := mset 0 s.hbmMeta (metaKey g) 0 }
  let e := if pl then 0 else s.rd R.KEY_STATE.EPOCH 0
  let x : Gran := ⟨wordsOf ws, true, false, pl, s.keyGen, e, false⟩
  -- an armed HBM_UNCORR slot flips bits of the first word stored (R559)
  match s0.inject .hbmUncorr (chanUnit g) (fun p => decide (p % 4 = 3)) with
  | none => s0.setGran g x
  | some r => r.2.setGran g { x with words := mset {} x.words 0 { mget {} x.words 0 with flips := flipMask r.1 } }

/-- Whether a write to a granule finds a key (R483). -/
def State.hasKey (s : State) (g : Nat) : Bool :=
  if s.inWreg (g * 128) then s.flag R.KEY_STATE.PLATFORM_VALID 0 else s.flag R.KEY_STATE.CUR_VALID 0

/-- A write by a unit that is no program: with no current set it stores nothing and is counted (R483). -/
def State.hbmWrite (s : State) (g : Nat) (ws : List (Word × Bool)) : State :=
  if s.hasKey g then s.hbmPut g ws else s.bump R.MEM_ERR.NO_KEY (stk g)

/-- Read a run of granules. -/
def State.hbmReadRun (s : State) (g n : Nat) : State × List (Word × Bool) :=
  loop n (s, []) (fun acc i => let r := acc.1.hbmRead (g + i); (r.1, acc.2 ++ r.2))

/-! ### The hardware cache -/

/-- Quarters of G3 in cache mode. -/
def State.cacheQuarters (s : State) (f : Nat) : Nat :=
  ((List.range 4).filter (bit (s.rd R.SPD_CACHE_CFG.ACTIVE f))).length

/-- Set of a line (R215). -/
def cacheSet (c g : Nat) : Nat := g % (768 * c)

/-- The words of a granule as last written. -/
def Gran.raw (x : Gran) : List (Word × Bool) := (List.range 16).map (fun i => let p := mget {} x.words i; (p.data, p.poison))

/-- A read of a line through the cache of face f (R215, R216): a hit delivers the line as it was filled; where HBM has
been written under it, the old or the new line, nobody says which (R218); a miss fills, replacing the least recently used way. -/
def State.cacheRead (s : State) (f g : Nat) : State × List (Word × Bool) :=
  let c := s.cacheQuarters f
  if c = 0 then s.hbmRead g
  else
    let k := cacheSet c g
    let ways := mget [] (s.face f).cache k
    match ways.find? (fun e => decide (e.g = g)) with
    | some e =>
      let s1 := (s.modFace f (fun x => { x with cache := mset [] x.cache k (e :: ways.filter (fun y => decide (y.g ≠ g))) })).bump
                  R.SPD_CACHE_STAT.HITS f
      if (s.gran g).raw = e.raw then (s1, e.line)
      else
        let d := s1.draw
        if d.1 % 2 = 0 then (d.2, e.line) else d.2.hbmRead g
    | none =>
      let r := s.hbmRead g
      ((r.1.modFace f (fun x => { x with cache := mset [] x.cache k (⟨g, r.2, (s.gran g).raw⟩ :: ways.take 15) })).bump
        R.SPD_CACHE_STAT.MISSES f, r.2)

/-- Count `n` invalidated lines; the register counts thousands (SPD_CACHE_STAT.INVALIDATES). -/
def State.invalidated (s : State) (f n : Nat) : State :=
  let k := (s.face f).invLines + n
  (s.modFace f (fun x => { x with invLines := k % 1000 })).bumpBy R.SPD_CACHE_STAT.INVALIDATES f (k / 1000)

/-- Empty the cache of a face where R217 does not count it. -/
def State.cacheEmpty (s : State) (f : Nat) : State := s.modFace f (fun x => { x with cache := [] })

/-- Invalidate the whole cache of a face (R217). -/
def State.cacheClear (s : State) (f : Nat) : State :=
  let n := (s.face f).cache.foldl (fun a e => a + e.2.length) 0
  (s.modFace f (fun x => { x with cache := [] })).invalidated f n

/-- Invalidate a line in the cache of face f (R217). -/
def State.cacheDrop (s : State) (f g : Nat) : State :=
  let c := s.cacheQuarters f
  if c = 0 then s
  else
    let ways := mget [] (s.face f).cache (cacheSet c g)
    if ways.any (fun e => decide (e.g = g)) then
      (s.modFace f (fun x => { x with cache := mset [] x.cache (cacheSet c g) (ways.filter (fun y => decide (y.g ≠ g))) })).invalidated f 1
    else s

/-- A program's HBM write of one line, with the cache kept coherent (R217). -/
def State.hbmProgWrite (s : State) (f g : Nat) (ws : List (Word × Bool)) : State := (s.cacheDrop f g).hbmPut g ws

/-- The lines satisfying `q` lose their contents and written bits. -/
def Face.dropLines (x : Face) (q : Nat → Bool) : Face :=
  { x with pad := mdrop (fun k => q (k / 16)) x.pad, written := mdrop q x.written }

/-- Quarter of G3 that holds a line. -/
def quarterOf (line : Nat) : Option Nat := if 147456 ≤ line ∧ line < 196608 then some ((line - 147456) / 12288) else none

/-- A gather of an aborted hand still drains on the face (R222). -/
def Face.draining (x : Face) : Bool := x.started.any (fun q => q.discard && decide (q.eng = .score))

/-- A change of the quarters in cache mode at a boundary (R214): contents of quarters that change mode are gone, and the cache is emptied; while a
gather of the aborted hand still drains through the cache it waits (R222). -/
def State.bdyCacheCfg (s : State) (f : Nat) : State :=
  let old := s.rd R.SPD_CACHE_CFG.ACTIVE f
  let new := s.rd R.SPD_CACHE_CFG.REQ f
  if old = new then (s.wr R.SPD_CACHE_CFG.PENDING f 0).modFace f (fun x => { x with cacheDue := false })
  else if (s.face f).draining then s.modFace f (fun x => { x with cacheDue := true })
  else
    let q (line : Nat) : Bool := match quarterOf line with
      | some k => decide (bit old k ≠ bit new k)
      | none => false
    (((s.cacheEmpty f).modFace f (fun x => { x.dropLines q with cacheDue := false })).wr R.SPD_CACHE_CFG.ACTIVE f new).wr R.SPD_CACHE_CFG.PENDING f 0

/-- The change that waited for a draining gather applies when it ends (R222). -/
def State.cacheSettle (s : State) (f : Nat) : State := if (s.face f).cacheDue then s.bdyCacheCfg f else s

end Sys2Proof.Machine
end

