-- ==== Sys2Proof/Machine/Queue.lean ====
section
/-! DEFINITION. Issue of an instruction to an engine queue (R244, R283 to R285): the unit checks, the range checks in the order of
R622, the scoreboard and the queue entry itself. -/
namespace Sys2Proof.Machine

/-- A range check's failure: CHECK, OPERAND, RANGE, WHERE (R622). -/
abbrev RFail := Nat × Nat × Nat × Nat

/-- The range-fault trap of a failure: vector and TINFO. -/
def RFail.trap (c : RFail) : Nat × Word := (5, rangeInfo c.1 c.2.1 c.2.2.1 c.2.2.2)

/-- The absent-unit trap and the illegal-instruction trap, where a condition holds. -/
def absentIf (b : Bool) (unit number : Nat) : Option (Nat × Word) := if b then some (4, BitVec.ofNat 64 (unit + number * 256)) else none
def illegalIf (cs : List (Bool × Nat)) : Option (Nat × Word) := (cs.find? (fun c => c.1)).map (fun c => (8, BitVec.ofNat 64 c.2))

/-- The traps of an instruction for a queue (R251): absent unit, illegal instruction with the first cause that holds, range fault; with none, its place
in the queue. -/
def checked (absent : Option (Nat × Word)) (causes : List (Bool × Nat)) (fail : Option RFail) (d : Done) : Done :=
  .orTraps [absent, illegalIf causes, fail.map RFail.trap] d

/-- The first failure, in the order that the operation's rules give. -/
def firstFail (xs : List (Option RFail)) : Option RFail := xs.findSome? id

/-- The failure with the lowest CHECK code, the earliest on a tie (R622, where the rules give no order). -/
def lowFail (xs : List (Option RFail)) : Option RFail :=
  xs.foldl (fun acc x => match acc, x with
    | none, y => y
    | some a, none => some a
    | some a, some b => if b.1 < a.1 then some b else some a) none

/-- R198 on a declared range, as a failure. -/
def portFail (s : State) (f : Nat) (r : Word) (reach : Nat) (write : Bool) (operand reg : Nat) : Option RFail :=
  (s.rangeCheck f r reach write).map (fun c => (c.1, operand, reg, c.2))

/-- CHECK 4 on a range written on the faces of a mask other than the issuing one: the lowest line of it that a released slot holds there (R30). -/
def remoteFail (s : State) (f mask : Nat) (r : Word) (operand reg : Nat) : Option RFail :=
  if rngLen r = 0 then none
  else (lowest ((List.range s.nFaces).flatMap (fun d =>
    if d ≠ f ∧ bit mask d then (s.releasedLines d).map (fun i => meet (rngLines r).1 (rngLines r).2 i.1 i.2) else []))).map
      (fun l => (4, operand, reg, l * 128))

/-- CHECK 7: base or length not a multiple of 128 (R267). -/
def lineFail (r : Word) (operand reg : Nat) : Option RFail :=
  if rngBase r % 128 = 0 ∧ rngLen r % 128 = 0 then none else some (7, operand, reg, 0)

/-- CHECK 9: a range shorter than `need` (or a condition on its length broken). -/
def shortFail (bad : Bool) (operand reg : Nat) : Option RFail := if bad then some (9, operand, reg, 0) else none

/-- The ranges share a line. -/
def sharesLine (a b : Word) : Bool :=
  decide (rngLen a ≠ 0 ∧ rngLen b ≠ 0) &&
  decide (max (rngLines a).1 (rngLines b).1 ≤ min (rngLines a).2 (rngLines b).2)

/-- CHECK 10: a write range shares a line with a read range of the same instruction (R285). -/
def overlapFail (wr rd : Word) (operand reg : Nat) : Option RFail :=
  if sharesLine wr rd then some (10, operand, reg, 0) else none

/-- Units that a program's header declares (R228 word 2): bit i. -/
def Face.uses (x : Face) (i : Nat) : Bool := (x.hdr 2).getLsbD i

/-- The check partner's and every engine's power: the array field's domain, and the engines' domain (R565). -/
def State.arrayOn (s : State) (f : Nat) : Bool := s.domOn (s.phys f)
def State.engOn (s : State) (f : Nat) : Bool := s.domOn (8 + s.phys f)

/-- CTR is examined only when CEN is 1, and must then name a declared counter (R268, R283). -/
def ctrBad (x : Face) (w : IWord) : Bool := fCEN w && !(mget {} x.ctr (fCTR w)).declared

/-- Number of entries of a queue. -/
def Face.inQueue (x : Face) (e : Eng) : Nat := (x.queue.filter (fun q => decide (q.eng = e))).length

/-- A queue entry with what every operation keeps. -/
def mkOp (s : State) (x : Face) (e : Eng) (cls op : Nat) (w : IWord) : QOp :=
  ⟨s.opId, e, cls, op, x.pc, w.ops.setWidth 64, w.w1, w.w2, w.w3, x.areg (fAL w), x.areg (fAR w), 0#64, 0#64, 0#64,
   s.rd R.SYN_HAND_NUM.HAND 0, 0#64, 0#64, 0#64, [], 0, [], false, 0, 0, false, []⟩

/-- The scoreboard entries that an operation with ranges `rs` takes: one for each range that is not empty (R200). -/
def sbEntries (op : Nat) (rs : List (Word × Bool)) : List SbEntry :=
  (rs.filter (fun r => decide (rngLen r.1 ≠ 0))).map (fun r => ⟨op, r.2, (rngLines r.1).1, (rngLines r.1).2⟩)

/-- The operation takes its scoreboard entries and its place in the queue. -/
def State.queueOp (s : State) (f : Nat) (q : QOp) (rs : List (Word × Bool)) : State :=
  { (s.sbNote f (sbEntries q.id rs).length).modFace f (fun y => { y with queue := y.queue ++ [q], sb := y.sb ++ sbEntries q.id rs }) with
    opId := s.opId + 1 }

/-- The engine still runs an operation of an aborted hand: the face's first issue to it stalls (R41). -/
def Face.stillRuns (x : Face) (e : Eng) : Bool := x.started.any (fun q => q.discard && decide (q.eng = e))

/-- Steps 5 and 6 of R284: the scoreboard and the queue; then the operation takes its entries and its place. -/
def enqueue (s : State) (f : Nat) (q : QOp) (rs : List (Word × Bool)) : Done :=
  .orHold (s.sbStall f rs)
    (if (s.face f).stillRuns q.eng then .hold s
    else if (s.face f).inQueue q.eng ≥ 32 then .hold (s.bump R.FCE_ISSUE_STAT.QUEUE_FULL f) else .next (s.queueOp f q rs))

/-- Bits of word 0 as an operation in a queue holds them. -/
def QOp.f0 (q : QOp) (lo wd : Nat) : Nat := fget q.w0 lo wd
def QOp.ctr (q : QOp) : Nat := q.f0 24 10
def QOp.cen (q : QOp) : Bool := decide (q.f0 23 1 = 1)

end Sys2Proof.Machine
end

