-- ==== Sys2Proof/Machine/Engines.lean ====
section
/-! DEFINITION. Issue of the engine classes of 10_ifeom_engine_instructions.md: array (0x08), FINE (0x09), SCORE and APPEND (0x0A) and VOP
(0x0B), with the checks of R284 in their order. -/
namespace Sys2Proof.Machine

/-- Fields of every engine word (R283). -/
def engFields (extra : List (Nat × Nat)) : List (Nat × Nat) := [(38, 4), (34, 4), (24, 10), (23, 1)] ++ extra

/-- Issue of an engine instruction (R284): the unit present and powered (vector 4) and declared (cause 6, R233), the field
values (cause 2), the ranges, maps and loaded state, then the scoreboard and the queue. -/
def engineIssue (t : State) (f : Nat) (x : Face) (w : IWord) (unit : Nat) (on : Bool) (need : Nat) (badValue : Bool)
    (fail : Option RFail) (q : QOp) (rs : List (Word × Bool)) : Done :=
  checked (absentIf (!on) unit 0) [(!x.uses need, 6), (badValue || ctrBad x w, 2)] fail (enqueue t f q rs)

/-! ### Weight sets -/

/-- Entry of the weight-set map of face f (R105), by field. -/
def State.ws (s : State) (fld : Fld) (f w : Nat) : Nat := s.rd fld (ix 4096 f w)

/-- The live copy is ready (R107). -/
def State.wsReady (s : State) (f w : Nat) : Bool :=
  decide (s.ws R.ARF_WSMAP_LO.VALID f w = 1) &&
  (if s.ws R.ARF_WSMAP_LO.LIVE f w = 0 then decide (s.ws R.ARF_WSMAP_LO.A_READY f w = 1)
   else decide (s.ws R.ARF_WSMAP_LO.B_READY f w = 1))

/-- Instance of ARF_SPALL of a copy. -/
def spallIx (f w c : Nat) : Nat := ix 4096 f w * 2 + c

/-- W is in the program's weight-set list (R231). -/
def Face.lists (x : Face) (w : Nat) : Bool :=
  let base := fget (x.hdr 6) 0 17
  (List.range (fget (x.hdr 6) 17 13)).any (fun i => decide (fget (mget 0#64 x.store (base + i)) 0 12 = w))

/-- Slices and input length of a tile (R287). -/
def tileSlices (k blocks : Nat) : Nat := k * (blocks + 1)
def tileLen (k blocks rowsLast : Nat) : Nat := (tileSlices k blocks - 1) * 512 + rowsLast

/-- Length of a vector record (R287) and of an output row (R289). -/
def recordLen (u : Nat) : Nat := 128 + 128 * cdiv u 128
def outRowLen (n colsLast b : Nat) : Nat := 128 * cdiv (((n - 1) * 256 + colsLast) * b) 128

/-- A stride field in lines; 0 is packed. -/
def strideOf (fld packed : Nat) : Nat := if fld = 0 then packed else fld * 128

/-- The block and logical slot of array AIDX of a copy (R106, R294). -/
def State.copySlot (s : State) (f ws copy aidx : Nat) : Nat × Nat :=
  let kn := s.ws R.ARF_WSMAP_LO.K f ws * s.ws R.ARF_WSMAP_LO.N f ws
  let b := if copy = 0 then s.ws R.ARF_WSMAP_HI.A_BLOCK f ws else s.ws R.ARF_WSMAP_HI.B_BLOCK f ws
  let sl := if copy = 0 then s.ws R.ARF_WSMAP_HI.A_SLOT f ws else s.ws R.ARF_WSMAP_HI.B_SLOT f ws
  (b + aidx / kn, sl + aidx % kn)

/-- The physical array behind a logical slot, if mapped (BLK_ARRAY_MAP). -/
def State.slotPhys (s : State) (f b slot : Nat) : Option Nat :=
  let i := ix 8 (ixB f b) (slot / 8)
  if s.rd (R.BLK_ARRAY_MAP.VALID (slot % 8)) i = 1 then some (s.rd (R.BLK_ARRAY_MAP.PHYS (slot % 8)) i) else none

/-- Arrays of a copy of a weight set: (BLOCKS + 1) × K × N. -/
def State.copyArrays (s : State) (f ws : Nat) : Nat :=
  (s.ws R.ARF_WSMAP_LO.BLOCKS f ws + 1) * s.ws R.ARF_WSMAP_LO.K f ws * s.ws R.ARF_WSMAP_LO.N f ws

/-- The physical arrays of a copy as the block array maps stand, by AIDX (R106); an unmapped one is 71. -/
def State.tileArrays (s : State) (f ws copy : Nat) : List Nat :=
  (List.range (s.copyArrays f ws)).map (fun i => let p := s.copySlot f ws copy i; (s.slotPhys f p.1 p.2).getD 71)

/-- Blocks of a copy, counted from its first, with an array pinned to bench 3 (R96, R101). -/
def State.tilePinned (s : State) (f ws copy : Nat) : List Nat :=
  let kn := s.ws R.ARF_WSMAP_LO.K f ws * s.ws R.ARF_WSMAP_LO.N f ws
  let arrs := s.tileArrays f ws copy
  let b0 := (s.copySlot f ws copy 0).1
  (List.range (s.ws R.ARF_WSMAP_LO.BLOCKS f ws + 1)).filter (fun i => (List.range kn).any (fun e =>
    s.flag R.BLK_ARRAY_STATE.PIN3 (ixA f (b0 + i) (arrs.getD (i * kn + e) 71))))

/-- Pin of a layer in effect. -/
def State.pinOf (s : State) (f layer : Nat) : Nat := s.rd (R.ARF_PIN.PIN (layer % 32)) (ix 8 f (layer / 32))

/-- MVM (R288, R289).  It keeps the maps and the pins of its issue (R107, R109, R136). -/
def execMvm (f : Nat) (w : IWord) (s : State) : Host.Outcome State Fault Refusal :=
  ok (issue s f w ⟨0x08, 0x000, 2, engFields [(21, 2), (20, 1), (18, 2), (17, 1), (16, 1), (8, 8)],
      [(0, 12), (12, 8), (20, 13), (33, 16)], [(0, 7), (7, 7), (14, 6), (20, 12), (32, 12)], []⟩ (fun t x =>
    let ws := fget w.w1 0 12
    let k := t.ws R.ARF_WSMAP_LO.K f ws
    let n := t.ws R.ARF_WSMAP_LO.N f ws
    let bl := t.ws R.ARF_WSMAP_LO.BLOCKS f ws
    let u := tileLen k bl (t.ws R.ARF_WSMAP_LO.ROWS_LAST f ws)
    let irec := recordLen u
    let orec := outRowLen n (t.ws R.ARF_WSMAP_LO.COLS_LAST f ws) (if opf w 20 1 = 1 then 1 else 2)
    let ist := fget w.w2 20 12
    let ost := fget w.w2 32 12
    let v := fget w.w1 20 13
    let live := t.ws R.ARF_WSMAP_LO.LIVE f ws
    let al := x.areg (fAL w)
    let ar := x.areg (fAR w)
    let bad := decide (fget w.w1 12 8 > 128 ∨ v = 0 ∨ v > 4096 ∨ opf w 18 2 ≥ 2) ||
      (decide (opf w 20 1 = 1) && !(ofBf16 (fget w.w1 33 16)).isFin) ||
      decide ((ist ≠ 0 ∧ ist * 128 < irec) ∨ (ost ≠ 0 ∧ ost * 128 < orec)) || !x.lists ws
    let fail := firstFail [
      if t.wsReady f ws then none else some (11, 7, 0, 0),
      if fget w.w2 0 7 = k ∧ fget w.w2 7 7 = n ∧ fget w.w2 14 6 = bl then none else some (12, 7, 0, 0),
      if opf w 17 1 = 0 ∧ t.rd R.ARF_SPALL.COUNT (spallIx f ws live) > 0 ∧ t.rd R.ARF_SPALL.LOADED (spallIx f ws live) = 0
        then some (13, 7, 0, 0) else none,
      shortFail (decide (rngLen al < (v - 1) * strideOf ist irec + irec)) 1 (fAL w),
      shortFail (decide (rngLen ar < (v - 1) * strideOf ost orec + orec)) 2 (fAR w),
      lowFail [portFail t f al 3 false 1 (fAL w), portFail t f ar 3 true 2 (fAR w)],
      overlapFail ar al 2 (fAR w)]
    engineIssue t f x w 0 (t.arrayOn f) 0 bad fail
      { mkOp t x .array 8 0 w with mapLo := t.reg .ARF_WSMAP_LO (ix 4096 f ws), mapHi := t.reg .ARF_WSMAP_HI (ix 4096 f ws)
                                   spall := t.reg .ARF_SPALL (spallIx f ws live), arrs := t.tileArrays f ws live
                                   pin := t.pinOf f (t.ws R.ARF_WSMAP_LO.LAYER f ws), pin3 := t.tilePinned f ws live }
      [(al, false), (ar, true)]))

/-- A grant names W and COPY with OPEN set (R294). -/
def State.granted (s : State) (f ws copy : Nat) : Bool :=
  (List.range 4).any (fun i => decide (s.rd R.ARF_PROG_GRANT.W (ix 4 f i) = ws ∧ s.rd R.ARF_PROG_GRANT.COPY (ix 4 f i) = copy ∧
    s.rd R.ARF_PROG_GRANT.OPEN (ix 4 f i) = 1))

/-- APROG (R294). -/
def execAprog (f : Nat) (w : IWord) (s : State) : Host.Outcome State Fault Refusal :=
  ok (issue s f w ⟨0x08, 0x010, 1, engFields [], [(0, 12), (12, 1), (13, 12)], [], []⟩ (fun t x =>
    let ws := fget w.w1 0 12
    let al := x.areg (fAL w)
    let ar := x.areg (fAR w)
    let fail := firstFail [
      if t.granted f ws (fget w.w1 12 1) then none else some (27, 7, 0, 0),
      if fget w.w1 13 12 ≥ t.copyArrays f ws then some (27, 7, 0, 0) else none,
      shortFail (decide (rngLen al ≠ 33408)) 1 (fAL w),
      shortFail (decide (rngBase ar % 128 ≠ 0 ∨ rngLen ar ≠ 128)) 2 (fAR w),
      lowFail [portFail t f al 3 false 1 (fAL w), portFail t f ar 3 true 2 (fAR w)],
      overlapFail ar al 2 (fAR w)]
    engineIssue t f x w 0 (t.arrayOn f) 0 false fail (mkOp t x .array 8 16 w) [(al, false), (ar, true)]))

/-- AREAD (R298, R299): the physical array is the one that the map names at issue. -/
def execAread (f : Nat) (w : IWord) (s : State) : Host.Outcome State Fault Refusal :=
  ok (issue s f w ⟨0x08, 0x011, 1, [(38, 4), (24, 10), (23, 1), (22, 1)], [(0, 12), (12, 1), (13, 12)], [], []⟩ (fun t x =>
    let ws := fget w.w1 0 12
    let copy := fget w.w1 12 1
    let al := x.areg (fAL w)
    let valid := decide (t.ws R.ARF_WSMAP_LO.VALID f ws = 1)
    let live := valid && decide (t.ws R.ARF_WSMAP_LO.LIVE f ws = copy)
    let ready := valid && decide ((if copy = 0 then t.ws R.ARF_WSMAP_LO.A_READY f ws else t.ws R.ARF_WSMAP_LO.B_READY f ws) = 1)
    let bs := t.copySlot f ws copy (fget w.w1 13 12)
    let fail := firstFail [
      if (live || ready) && !t.granted f ws copy then none else some (28, 7, 0, 0),
      if fget w.w1 13 12 ≥ t.copyArrays f ws then some (28, 7, 0, 0) else none,
      shortFail (decide (rngLen al ≠ (if opf w 22 1 = 1 then 128 else 32896))) 1 (fAL w),
      portFail t f al 3 true 1 (fAL w)]
    engineIssue t f x w 0 (t.arrayOn f) 0 false fail
      { mkOp t x .array 8 17 w with sc := BitVec.ofNat 64 (bs.1 * 256 + (t.slotPhys f bs.1 bs.2).getD 255)
                                    mapLo := t.reg .ARF_WSMAP_LO (ix 4096 f ws) }
      [(al, true)]))

/-! ### FINE -/

/-- Bytes of an element of a FINE format code: 0 INT8, 1 E4M3, 2 E5M2, 3 BF16. -/
def fineBytes (c : Nat) : Nat := if c = 3 then 2 else 1

/-- Bytes of an element of a FINE output code: 0 BF16, 1 E4M3, 2 E5M2, 3 INT8. -/
def fineOutBytes (c : Nat) : Nat := if c = 0 then 2 else 1

/-- The operand pairs of R138. -/
def finePair (a b : Nat) : Bool :=
  decide (a = 0 ∧ b = 0) || decide (a = 3 ∧ b = 3) || (decide (a = 1 ∨ a = 2) && decide (b = 1 ∨ b = 2))

/-- Offsets of the parameter sections (R301): row scales, column scales, biases, and the end of the last section. -/
def fineParams (xs ss bs : Bool) (m n : Nat) : Nat × Nat × Nat × Nat :=
  let a := if xs then 2 * m else 0
  let o1 := 128 * cdiv a 128
  let b := if ss then 2 * n else 0
  let o2 := o1 + 128 * cdiv b 128
  let e := if bs then o2 + 2 * n else if ss then o1 + 2 * n else a
  (0, o1, o2, e)

/-- FINE (R300, R301). -/
def execFine (f : Nat) (w : IWord) (s : State) : Host.Outcome State Fault Refusal :=
  ok (issue s f w ⟨0x09, 0x000, 2, engFields [(21, 2), (19, 2), (17, 2), (16, 1), (15, 1), (14, 1), (12, 2)],
      [(0, 4), (4, 4), (8, 16), (24, 17), (41, 17)], [(0, 16), (16, 16), (32, 16)], []⟩ (fun t x =>
    let fa := opf w 21 2
    let fb := opf w 19 2
    let m := fget w.w1 8 16
    let n := fget w.w1 24 17
    let k := fget w.w1 41 17
    let xs := decide (opf w 16 1 = 1)
    let ss := decide (opf w 15 1 = 1)
    let bs := decide (opf w 14 1 = 1)
    let any := xs || ss || bs
    let la := 128 * fget w.w2 0 16
    let lb := 128 * fget w.w2 16 16
    let lc := 128 * fget w.w2 32 16
    let co := fineOutBytes (opf w 17 2)
    let cr := fget w.w1 0 4
    let pr := fget w.w1 4 4
    let a := x.areg (fAL w)
    let b := x.areg (fAR w)
    let c := x.areg cr
    let p := x.areg pr
    let bad := !finePair fa fb || decide (m = 0 ∨ n = 0 ∨ k = 0 ∨ opf w 12 2 ≥ 2) ||
      decide (la < k * fineBytes fa ∨ lb < n * fineBytes fb ∨ lc < n * co) || (decide (pr ≠ 0) && !any)
    let short := [
      shortFail (decide (rngLen a < (m - 1) * la + k * fineBytes fa)) 1 (fAL w),
      shortFail (decide (rngLen b < (k - 1) * lb + n * fineBytes fb)) 2 (fAR w),
      shortFail (decide (rngLen c < (m - 1) * lc + n * co)) 3 cr,
      shortFail (any && decide (rngLen p < (fineParams xs ss bs m n).2.2.2)) 4 pr]
    let port := [portFail t f a 6 false 1 (fAL w), portFail t f b 6 false 2 (fAR w), portFail t f c 6 true 3 cr,
      if any then portFail t f p 6 false 4 pr else none]
    let overlap := [overlapFail c a 3 cr, overlapFail c b 3 cr, if any then overlapFail c p 3 cr else none]
    engineIssue t f x w 1 (t.engOn f) 1 bad (firstFail [firstFail short, lowFail port, firstFail overlap])
      { mkOp t x .fine 9 0 w with ra3 := c, ra4 := p }
      ([(a, false), (b, false)] ++ (if any then [(p, false)] else []) ++ [(c, true)])))

/-! ### SCORE and APPEND -/

/-- Head dimension D and log₂ TPP of a SCORE or APPEND word (R303). -/
def scoreD (w0 : Word) : Nat := 32 * (fget w0 19 3 + 1)

/-- Values that the shared layout allows (R304). -/
def scoreBad (w : IWord) (append : Bool) : Bool :=
  let nt := fget w.w1 23 13
  let g := fget w.w1 16 7
  let rot := opf w 12 2
  let d := 32 * (opf w 19 3 + 1)
  let drh := fget w.w2 48 8
  let th := fget w.w3 0 25
  decide (nt = 0 ∨ nt > 4096) ||
  (!append && decide (g = 0 ∨ g > 64 ∨ nt * g > 8192)) ||
  decide (opf w 15 4 < 4) || decide (fget w.w1 36 25 > 2 ^ 24) || decide (rot = 3) ||
  (if rot = 0 then decide (drh ≠ 0 ∨ th ≠ 0) else decide (drh = 0 ∨ drh > d / 2 ∨ th = 0 ∨ th > 2 ^ 24)) ||
  !(ofBf16 (fget w.w2 16 16)).isFin || !(ofBf16 (fget w.w2 32 16)).isFin || !(ofBf16 (fget w.w2 0 16)).isFin

/-- SCORE (R303, R304). -/
def execScore (f : Nat) (w : IWord) (s : State) : Host.Outcome State Fault Refusal :=
  ok (issue s f w ⟨0x0A, 0x000, 3, engFields [(22, 1), (19, 3), (15, 4), (14, 1), (12, 2), (8, 4)],
      [(0, 16), (16, 7), (23, 13), (36, 25)], [(0, 16), (16, 16), (32, 16), (48, 8)], [(0, 25)]⟩ (fun t x =>
    let rows := fget w.w1 23 13 * fget w.w1 16 7 * 2 * (32 * (opf w 19 3 + 1))
    let orr := opf w 8 4
    let al := x.areg (fAL w)
    let ar := x.areg (fAR w)
    let o := x.areg orr
    engineIssue t f x w 2 (t.engOn f) 2 (scoreBad w false)
      (firstFail [shortFail (decide (rngLen ar < rows)) 2 (fAR w), shortFail (decide (rngLen o < rows)) 3 orr,
        shortFail (decide (rngLen al % 16 ≠ 0)) 1 (fAL w),
        lowFail [portFail t f al 12 false 1 (fAL w), portFail t f ar 12 false 2 (fAR w), portFail t f o 12 true 3 orr],
        overlapFail o al 3 orr, overlapFail o ar 3 orr])
      { mkOp t x .score 10 0 w with ra3 := o } [(al, false), (ar, false), (o, true)]))

/-- APPEND (R171, R303, R304). -/
def execAppend (f : Nat) (w : IWord) (s : State) : Host.Outcome State Fault Refusal :=
  ok (issue s f w ⟨0x0A, 0x001, 3, engFields [(22, 1), (19, 3), (15, 4), (12, 2), (8, 4)],
      [(0, 16), (23, 13)], [(16, 16), (32, 16), (48, 8)], [(0, 25)]⟩ (fun t x =>
    let rows := fget w.w1 23 13 * 2 * (32 * (opf w 19 3 + 1))
    let orr := opf w 8 4
    let al := x.areg (fAL w)
    let ar := x.areg (fAR w)
    let o := x.areg orr
    engineIssue t f x w 2 (t.engOn f) 2 (scoreBad w true)
      (firstFail [shortFail (decide (rngLen ar < rows)) 2 (fAR w), shortFail (decide (rngLen o < rows)) 3 orr,
        shortFail (decide (rngLen al % 16 ≠ 0)) 1 (fAL w),
        lowFail [portFail t f al 12 false 1 (fAL w), portFail t f ar 12 false 2 (fAR w), portFail t f o 12 false 3 orr]])
      { mkOp t x .score 10 1 w with ra3 := o } [(al, false), (ar, false), (o, false)]))

/-! ### VOP -/

/-- Element size of a format code of R305: 0 BF16, 1 E4M3, 2 E5M2, 3 INT8. -/
def vopBytes (c : Nat) : Nat := if c = 0 then 2 else 1

/-- Row stride of an operand of `cols` elements in format c (4: vector records), and the bytes that its last row reaches. -/
def vopStride (c cols : Nat) : Nat := if c = 4 then recordLen cols else 128 * cdiv (cols * vopBytes c) 128
def vopReach (c rows cols : Nat) : Nat :=
  (rows - 1) * vopStride c cols + (if c = 4 then 128 + cols else cols * vopBytes c)

/-- What a row of the operation table of R306 says: operands used, formats accepted, modes, parameters read, in-place. -/
structure VopRow where
  useX : Bool
  useY : Bool
  useZ : Bool
  inOk : Nat → Bool
  outOk : Nat → Bool
  modeOk : Nat → Bool
  /-- number of parameter vectors of COLS values at PO -/
  params : Nat
  inPlace : Bool

/-- "Elem" formats. -/
def vElem (c : Nat) : Bool := decide (c < 4)
def vIs (k c : Nat) : Bool := decide (c = k)

/-- The operation table of R306. -/
def vopRow (op : Nat) : VopRow :=
  if op ≤ 2 then ⟨true, true, true, vElem, vElem, vIs 0, 0, true⟩
  else if op = 3 then ⟨true, false, true, vElem, vElem, vIs 0, 2, true⟩
  else if op = 4 then ⟨true, false, true, vIs 0, vElem, vIs 0, 1, true⟩
  else if op = 5 then ⟨true, false, true, vIs 0, vElem, vIs 0, 2, true⟩
  else if op ≤ 7 then ⟨true, true, true, vIs 0, vElem, vIs 0, 0, true⟩
  else if op ≤ 11 then ⟨true, false, true, vIs 0, vElem, vIs 0, 0, true⟩
  else if op = 12 then ⟨true, false, true, vElem, vIs 0, fun m => decide (m ≤ 2), 0, false⟩
  else if op = 13 then ⟨true, false, true, vElem, vElem, vIs 0, 0, true⟩
  else if op = 14 then ⟨true, false, true, vIs 0, vIs 4, fun m => decide (m ≤ 1), 0, false⟩
  else if op = 15 then ⟨true, false, true, fun c => decide (c = 3 ∨ c = 4), vIs 0, fun m => decide (m ≤ 1), 0, false⟩
  else if op = 16 then ⟨true, false, true, vIs 0, fun c => decide (c = 0 ∨ c = 5), fun m => decide (m ≤ 1), 0, false⟩
  else if op = 17 then ⟨true, false, false, vElem, vIs 0, vIs 0, 0, false⟩
  else if op = 18 then ⟨false, false, true, vIs 0, vIs 0, vIs 0, 0, false⟩
  else ⟨true, false, false, vIs 0, vIs 0, vIs 0, 1, false⟩

/-- The output of an operation reaches this many bytes (R305, R306, R307). -/
def vopOutReach (op ofmt rows cols : Nat) : Nat :=
  if op = 12 then 2 * rows else if op = 16 then 128 * rows else if op = 18 then 16 * cols else vopReach ofmt rows cols

/-- A VOP (R305, R306): the checks of its row, then its place in the vector queue. -/
def vopIssue (op f : Nat) (w : IWord) (s : State) : State :=
  issue s f w ⟨0x0B, op, 2, engFields [(19, 4), (16, 3), (13, 3), (8, 5)], [(0, 16), (16, 16), (32, 14)],
      [(0, 16), (16, 8), (24, 8), (32, 5)], []⟩ (fun t x =>
    let r := vopRow op
    let fi := opf w 16 3
    let fo := opf w 13 3
    let mode := opf w 8 5
    let rows := fget w.w1 0 16
    let cols := fget w.w1 16 16
    let kt := fget w.w2 32 5
    let zr := opf w 19 4
    let a := x.areg (fAL w)
    let b := x.areg (fAR w)
    let z := x.areg zr
    let bad := !r.inOk fi || !r.outOk fo || !r.modeOk mode || decide (rows = 0 ∨ cols = 0) ||
      (!r.useX && decide (fAL w ≠ 0)) || (!r.useY && decide (fAR w ≠ 0)) || (!r.useZ && decide (zr ≠ 0)) ||
      (if op = 16 then decide (kt = 0 ∨ kt > 16 ∨ cols > 512) else decide (kt ≠ 0)) ||
      (decide (op = 17 ∨ op = 18) && decide (cols > 4096)) ||
      (decide (op = 19) && decide (rows ≠ 1)) ||
      (decide (op = 15) && decide ((mode = 0 ∧ fi ≠ 4) ∨ (mode = 1 ∧ fi ≠ 3)))
    let same (i : Word) : Bool := r.inPlace && decide (vopBytes fi = vopBytes fo) && decide (rngBase i = rngBase z ∧ rngLen i = rngLen z)
    let fail := firstFail [
      if decide (r.params ≠ 0) && decide (fget w.w1 32 14 + r.params * cols > 16384) then some (9, 0, 0, 0) else none,
      shortFail (r.useX && decide (rngLen a < vopReach fi rows cols)) 1 (fAL w),
      shortFail (r.useY && decide (rngLen b < vopReach fi rows cols)) 2 (fAR w),
      shortFail (r.useZ && decide (rngLen z < vopOutReach op fo rows cols)) 3 zr,
      lowFail [if r.useX then portFail t f a 15 false 1 (fAL w) else none,
        if r.useY then portFail t f b 15 false 2 (fAR w) else none,
        if r.useZ then portFail t f z 15 true 3 zr else none],
      if r.useX && r.useZ && !same a then overlapFail z a 3 zr else none,
      if r.useY && r.useZ && !same b then overlapFail z b 3 zr else none]
    engineIssue t f x w 3 (t.engOn f) 3 bad fail { mkOp t x .vector 11 op w with ra3 := z }
      ((if r.useX then [(a, false)] else []) ++ (if r.useY then [(b, false)] else []) ++ (if r.useZ then [(z, true)] else [])))

/-- VOP ADD (a + b): issue; the arithmetic is in Machine/VectorRun.lean. -/
def execVopAdd (f : Nat) (w : IWord) (s : State) : Host.Outcome State Fault Refusal := ok (vopIssue 0x000 f w s)

/-- VOP SUB (a − b): issue; the arithmetic is in Machine/VectorRun.lean. -/
def execVopSub (f : Nat) (w : IWord) (s : State) : Host.Outcome State Fault Refusal := ok (vopIssue 0x001 f w s)

/-- VOP MUL (a × b): issue; the arithmetic is in Machine/VectorRun.lean. -/
def execVopMul (f : Nat) (w : IWord) (s : State) : Host.Outcome State Fault Refusal := ok (vopIssue 0x002 f w s)

/-- VOP SCALE (x × g + b, per channel): issue; the arithmetic is in Machine/VectorRun.lean. -/
def execScale (f : Nat) (w : IWord) (s : State) : Host.Outcome State Fault Refusal := ok (vopIssue 0x003 f w s)

/-- VOP RMSNORM (R191): issue; the arithmetic is in Machine/VectorRun.lean. -/
def execRmsnorm (f : Nat) (w : IWord) (s : State) : Host.Outcome State Fault Refusal := ok (vopIssue 0x004 f w s)

/-- VOP LAYERNORM (R191): issue; the arithmetic is in Machine/VectorRun.lean. -/
def execLayernorm (f : Nat) (w : IWord) (s : State) : Host.Outcome State Fault Refusal := ok (vopIssue 0x005 f w s)

/-- VOP SWIGLU (silu(gate) × up): issue; the arithmetic is in Machine/VectorRun.lean. -/
def execSwiglu (f : Nat) (w : IWord) (s : State) : Host.Outcome State Fault Refusal := ok (vopIssue 0x006 f w s)

/-- VOP GEGLU (gelu_tanh(gate) × up): issue; the arithmetic is in Machine/VectorRun.lean. -/
def execGeglu (f : Nat) (w : IWord) (s : State) : Host.Outcome State Fault Refusal := ok (vopIssue 0x007 f w s)

/-- VOP EXP (R189): issue; the arithmetic is in Machine/VectorRun.lean. -/
def execExp (f : Nat) (w : IWord) (s : State) : Host.Outcome State Fault Refusal := ok (vopIssue 0x008 f w s)

/-- VOP RECIP (R189): issue; the arithmetic is in Machine/VectorRun.lean. -/
def execRecip (f : Nat) (w : IWord) (s : State) : Host.Outcome State Fault Refusal := ok (vopIssue 0x009 f w s)

/-- VOP RSQRT (R189): issue; the arithmetic is in Machine/VectorRun.lean. -/
def execRsqrt (f : Nat) (w : IWord) (s : State) : Host.Outcome State Fault Refusal := ok (vopIssue 0x00A f w s)

/-- VOP SIGMOID (R189): issue; the arithmetic is in Machine/VectorRun.lean. -/
def execSigmoid (f : Nat) (w : IWord) (s : State) : Host.Outcome State Fault Refusal := ok (vopIssue 0x00B f w s)

/-- VOP REDUCE (per-row sum, maximum or minimum): issue; the arithmetic is in Machine/VectorRun.lean. -/
def execReduce (f : Nat) (w : IWord) (s : State) : Host.Outcome State Fault Refusal := ok (vopIssue 0x00C f w s)

/-- VOP CONVERT (R142): issue; the arithmetic is in Machine/VectorRun.lean. -/
def execConvert (f : Nat) (w : IWord) (s : State) : Host.Outcome State Fault Refusal := ok (vopIssue 0x00D f w s)

/-- VOP QUANT (R192): issue; the arithmetic is in Machine/VectorRun.lean. -/
def execQuant (f : Nat) (w : IWord) (s : State) : Host.Outcome State Fault Refusal := ok (vopIssue 0x00E f w s)

/-- VOP DEQUANT (R188): issue; the arithmetic is in Machine/VectorRun.lean. -/
def execDequant (f : Nat) (w : IWord) (s : State) : Host.Outcome State Fault Refusal := ok (vopIssue 0x00F f w s)

/-- VOP TOPK (R193, R307): issue; the arithmetic is in Machine/VectorRun.lean. -/
def execTopk (f : Nat) (w : IWord) (s : State) : Host.Outcome State Fault Refusal := ok (vopIssue 0x010 f w s)

/-- VOP STATS (R190): issue; the arithmetic is in Machine/VectorRun.lean. -/
def execStats (f : Nat) (w : IWord) (s : State) : Host.Outcome State Fault Refusal := ok (vopIssue 0x011 f w s)

/-- VOP SDRAIN (R307): issue; the arithmetic is in Machine/VectorRun.lean. -/
def execSdrain (f : Nat) (w : IWord) (s : State) : Host.Outcome State Fault Refusal := ok (vopIssue 0x012 f w s)

/-- VOP PLOAD (R308): issue; the arithmetic is in Machine/VectorRun.lean. -/
def execPload (f : Nat) (w : IWord) (s : State) : Host.Outcome State Fault Refusal := ok (vopIssue 0x013 f w s)

end Sys2Proof.Machine
end

