-- ==== Sys2Proof/Machine/Approx.lean ====
section
/-! DEFINITION. The functions that the spec gives only to within an error: exp2b (R180), exp2f (R406), the element-wise functions of R189,
rsqrt of R191.  Each computes the exact value to far more bits than the error, and takes one of the results that the
error allows, by `Config.ulpChoice` (log entry 4). -/
namespace Sys2Proof.Machine

/-- Integer square root (Newton from above; the fuel covers every size used here). -/
def isqrtFrom (n : Nat) : Nat → Nat → Nat
  | 0, x => x
  | k + 1, x => let y := (x + n / x) / 2; if y < x then isqrtFrom n k y else x

/-- ⌊√n⌋. -/
def isqrt (n : Nat) : Nat := if n = 0 then 0 else isqrtFrom n 20 (2 ^ (bitLen n / 2 + 1))

/-- Fraction bits of the fixed-point numbers of this file. -/
def fpBits : Nat := 128

/-- 2^(2^-k) for k = 1 … 128, in fixed point. -/
def rootTable : List Nat :=
  ((List.range fpBits).foldl (fun (acc : List Nat × Nat) _ =>
    let r := isqrt (acc.2 * 2 ^ fpBits); (r :: acc.1, r)) ([], 2 * 2 ^ fpBits)).1.reverse

/-- 2^f for a fixed-point fraction f < 1, in fixed point. -/
def exp2Frac (f : Nat) : Nat :=
  ((rootTable.foldl (fun (acc : Nat × Nat) r =>
      (if f / 2 ^ (fpBits - 1 - acc.2) % 2 = 1 then acc.1 * r / 2 ^ fpBits else acc.1, acc.2 + 1)) (2 ^ fpBits, 0))).1

/-- 2^t for a fixed-point t: magnitude and exponent.  Beyond ±2^16 the result is far outside every format used. -/
def exp2Fix (t : Int) : Nat × Int :=
  let n := t / (2 ^ fpBits : Int)
  let f := (t % (2 ^ fpBits : Int)).toNat
  if n > 65536 then (1, 65536) else if n < -65536 then (1, -65536) else (exp2Frac f, n - fpBits)

/-- log₂ e and √(2/π) in fixed point. -/
def log2eFix : Int := 490923683258796565746369346286093237521
def sqrt2piFix : Int := 271506046879672464325182014351570923903

/-- A finite value in fixed point, rounded towards minus infinity. -/
def toFix (neg : Bool) (m : Nat) (e : Int) : Int :=
  let k := e + fpBits
  let a : Int := if 0 ≤ k then ((m <<< k.toNat : Nat) : Int) else ((m >>> (-k).toNat : Nat) : Int)
  if neg then -a else a

/-- Largest magnitude of at most `prec` bits with no bit below 2^emin that is at most m × 2^e. -/
def floorMag (prec : Nat) (emin : Int) (m : Nat) (e : Int) : Nat × Int :=
  if m = 0 then (0, emin) else
  let l : Int := max (e + (bitLen m : Int) - (prec : Int)) emin
  if l ≤ e then (m <<< (e - l).toNat, l) else (m >>> (l - e).toNat, l)

/-- Precision, least exponent, mantissa bits, code of the largest finite magnitude, sign bit of a floating format. -/
def Fmt.shape : Fmt → Nat × Int × Nat × Nat × Nat
  | .bf16 => (8, -133, 7, 0x7F7F, 0x8000)
  | .e4m3 => (4, -9, 3, 0x7E, 0x80)
  | .e5m2 => (3, -16, 2, 0x7B, 0x80)
  | .int8 => (8, 0, 7, 127, 0x80)

/-- The largest code magnitude of a floating format that is at most m × 2^e, and whether the value is beyond the format. -/
def floorCode (t : Fmt) (m : Nat) (e : Int) : Nat × Bool :=
  let p := t.shape
  let (q, l) := floorMag p.1 p.2.1 m e
  let c := if magGe q l 130 then p.2.2.2.1 + 1 else packMag p.2.2.1 p.2.1 q l
  if c > p.2.2.2.1 then (p.2.2.2.1, true) else (c, false)

/-- The value m × 2^e is q × 2^l. -/
def sameMag (m : Nat) (e : Int) (q : Nat) (l : Int) : Bool :=
  if l ≤ e then decide (m <<< (e - l).toNat = q) else decide (q <<< (l - e).toNat = m)

/-- A neighbour within one unit in the last place: of an exact value c the choice takes c − 1, c or c + 1, of one above c only c or c + 1. -/
def nearby (exact : Bool) (c d : Nat) : Nat := if exact then c + d % 3 - 1 else c + d % 2

/-- A result within one unit in the last place of the exact ±m × 2^e in format t, as the choice `d` takes it; beyond the
format it saturates as R142 states. -/
def nearUlp (t : Fmt) (neg : Bool) (m : Nat) (e : Int) (d : Nat) : Nat × Conv :=
  match t with
  | .int8 =>
    let w := floorMag 40 0 m e
    let i : Nat := if 20 < e + (bitLen m : Int) then 1000 else w.1 <<< w.2.toNat
    let y : Int := if sameMag m e i 0 then (i : Int) + (d % 3 : Nat) - 1 else (i : Int) + (d % 2 : Nat)
    let j : Int := if neg then -y else y
    let c := clampInt (-128) 127 j
    ((c % 256).toNat, if c = j then .plain else .sat)
  | _ =>
    let p := t.shape
    let sg := if neg then p.2.2.2.2 else 0
    let f := floorCode t m e
    if f.2 then (sg + p.2.2.2.1, .sat)
    else
      let w := floorMag p.1 p.2.1 m e
      let c := nearby (sameMag m e w.1 w.2) f.1 d
      if c > p.2.2.2.1 then (sg + p.2.2.2.1, .sat) else (sg + c, .plain)

/-- exp2b (R180): 1.0 at 0, +0 below −126, within 1 ulp of 2^x in BF16 between. -/
def exp2b (x : FV) : FV :=
  match x with
  | .nan => .nan
  | .inf _ => FV.zero
  | .fin n m e =>
    if m = 0 then .fin false 1 0
    else if FV.lt x (.fin true 126 0) then FV.zero
    else
      let r := exp2Fix (toFix n m e)
      -- below 1 for every negative x
      let c := if n ∧ magGe r.1 r.2 0 then 0x3F7F else (floorCode .bf16 r.1 r.2).1
      let w := floorMag 8 (-133) r.1 r.2
      ofBf16 (nearby (sameMag r.1 r.2 w.1 w.2) c (Config.ulpChoice 0 (toFp32 x).toNat 0))

/-- exp2f (R406): within 1 ulp of 2^x in FP32. -/
def exp2f (x : FV) : FV :=
  match x with
  | .nan => .nan
  | .inf n => if n then FV.zero else x
  | .fin n m e =>
    if m = 0 then .fin false 1 0
    else
      let r := exp2Fix (toFix n m e)
      let w := if n ∧ magGe r.1 r.2 0 then (2 ^ 24 - 1, -24) else floorMag 24 (-149) r.1 r.2
      ofFp32 (BitVec.ofNat 32 (nearby (sameMag r.1 r.2 w.1 w.2) (packMag 23 (-149) w.1 w.2) (Config.ulpChoice 71 (toFp32 x).toNat 0)))

/-- e^x of a finite x, as a magnitude. -/
def expMag (neg : Bool) (m : Nat) (e : Int) : Nat × Int :=
  if magGe m e 20 then (1, if neg then -65536 else 65536)
  else exp2Fix (toFix neg m e * log2eFix / (2 ^ fpBits : Int))

/-- Reciprocal of a magnitude, to more than 128 bits. -/
def recipMag (m : Nat) (e : Int) : Nat × Int :=
  let sh := 160 + bitLen m
  (2 ^ sh / m, -e - (sh : Int))

/-- Reciprocal square root of a magnitude. -/
def rsqrtMag (m : Nat) (e : Int) : Nat × Int :=
  -- √(2^(2k) / (m 2^e)) × 2^-k, with e made even
  let m2 := if e % 2 = 0 then m else m * 2
  let e2 := if e % 2 = 0 then e else e - 1
  let k := 160 + bitLen m2
  (isqrt (2 ^ (2 * k) / m2), -(k : Int) - e2 / 2)

/-- 1/(1 + e^(−t)) of a fixed-point t. -/
def sigmoidMag (t : Int) : Nat × Int :=
  let u := -t * log2eFix / (2 ^ fpBits : Int)
  if u > 300 * (2 ^ fpBits : Int) then exp2Fix (-u)
  else if u < -300 * (2 ^ fpBits : Int) then (1, 0)
  else
    let r := exp2Fix u
    -- 1 + r over a common exponent
    let s := FV.add (.fin false 1 0) (.fin false r.1 r.2)
    match s with
    | .fin _ m e => recipMag m e
    | _ => (1, 0)

/-- Bits that name an operand to `Config.ulpChoice`. -/
def opBits (v : FV) : Nat := (toFp32 v).toNat

/-- An element-wise function of R189 (VOP operation code) on its operands, into format t. -/
def elemFn (op : Nat) (t : Fmt) (a b : FV) : Nat × Conv :=
  let d := Config.ulpChoice (op * 4 + t.ctorIdx + 1) (opBits a) (opBits b)
  match op, a with
  | 8, .fin n m e => let r := expMag n m e; nearUlp t false r.1 r.2 d
  | 8, .inf n => if n then convertTo t FV.zero else convertTo t (.inf false)
  | 9, .fin n m e => if m = 0 then convertTo t (.inf n) else let r := recipMag m e; nearUlp t n r.1 r.2 d
  | 9, .inf n => convertTo t (.fin n 0 0)
  | 10, .fin n m e =>
    if m = 0 then convertTo t (.inf n) else if n then convertTo t .nan else let r := rsqrtMag m e; nearUlp t false r.1 r.2 d
  | 10, .inf n => if n then convertTo t .nan else convertTo t FV.zero
  | 11, .fin n m e =>
    if magGe m e 20 then (if n then convertTo t FV.zero else convertTo t (FV.int 1))
    else let r := sigmoidMag (toFix n m e); nearUlp t false r.1 r.2 d
  | 11, .inf n => if n then convertTo t FV.zero else convertTo t (FV.int 1)
  | 6, .fin n m e =>
    match b with
    | .fin k p g =>
      let r := if magGe m e 20 then (if n then (0, 0) else (1, 0)) else sigmoidMag (toFix n m e)
      nearUlp t (n != k) (m * p * r.1) (e + g + r.2) d
    | _ => convertTo t (FV.mul a b)
  | 7, .fin n m e =>
    match b with
    | .fin k p g =>
      let z := toFix n m e
      let cube := z * z / (2 ^ fpBits : Int) * z / (2 ^ fpBits : Int)
      let in_ := (z + cube * 44715 / 1000000) * sqrt2piFix / (2 ^ fpBits : Int)
      let r := if magGe m e 20 then (if n then (0, 0) else (1, 0)) else sigmoidMag (2 * in_)
      nearUlp t (n != k) (m * p * r.1) (e + g + r.2) d
    | _ => convertTo t (FV.mul a b)
  | 6, .inf n => if n then convertTo t (FV.mul (.fin true 0 0) b) else convertTo t (FV.mul a b)
  | 7, .inf n => if n then convertTo t (FV.mul (.fin true 0 0) b) else convertTo t (FV.mul a b)
  | _, _ => convertTo t .nan

/-- rsqrt of R191: an FP32 value within 2^-22 of 1/√x, relative. -/
def rsqrt32 (x : FV) : FV :=
  match x with
  | .nan => .nan
  | .inf n => if n then .nan else FV.zero
  | .fin n m e =>
    if m = 0 then .inf n
    else if n then .nan
    else
      let r := rsqrtMag m e
      let f := floorMag 24 (-149) r.1 r.2
      let q := f.1 + Config.ulpChoice 64 (opBits x) 0 % 9 - 4
      -- (1 − 2^-22)² ≤ q² 2^(2l) x ≤ (1 + 2^-22)²
      let lhs := FV.mul (.fin false (q * q) (2 * f.2)) x
      let lo : FV := .fin false ((2 ^ 22 - 1) * (2 ^ 22 - 1)) (-44)
      let hi : FV := .fin false ((2 ^ 22 + 1) * (2 ^ 22 + 1)) (-44)
      if FV.lt lhs lo || FV.lt hi lhs then rne32 (.fin false r.1 r.2) else rne32 (.fin false q f.2)

/-! ### The angle of a rotary term (R183) -/

/-- Fraction bits of an angle. -/
def angBits : Nat := 192

/-- 2π in fixed point of `angBits`. -/
def twoPiFix : Nat := 2 * 19720096697726538562396133364228268891463450865190089732560

/-- ⌊n^(1/k)⌋ by bits from 2^b down (k > 0). -/
def rootFloor (n k : Nat) : Nat → Nat → Nat
  | 0, x => x
  | b + 1, x => if (x + 2 ^ b) ^ k ≤ n then rootFloor n k b (x + 2 ^ b) else rootFloor n k b x

/-- φ = p × θ^(−i/h), h half the rotary dimension, in fixed point: within 2^-40 of the exact angle, relative, as the unit takes it
(log entry 4). -/
def rotAngle (p θ i h : Nat) : Nat :=
  let r := rootFloor (θ ^ i * 2 ^ (angBits * h)) h (angBits + 26) 0
  let phi := p * 2 ^ (2 * angBits) / r
  let d := Config.ulpChoice 70 (p * 2 ^ 32 + θ) (i * 256 + h) % 2097153
  (phi * 2 ^ 60 + phi * d - phi * 1048576) / 2 ^ 60

/-- Σ (−1)^k x^(2k+o)/(2k+o)! of a fixed-point x below 2π, 40 terms: cos for o = 0, sin for o = 1. -/
def trigSeries (x o : Nat) : Int :=
  ((List.range 40).foldl (fun (acc : Int × Nat) k =>
      (if k % 2 = 0 then acc.1 + (acc.2 : Int) else acc.1 - (acc.2 : Int),
       acc.2 * x / 2 ^ angBits * x / 2 ^ angBits / ((2 * k + o + 1) * (2 * k + o + 2))))
    (0, if o = 0 then 2 ^ angBits else x)).1

/-- cos φ and sin φ. -/
def cosOf (phi : Nat) : FV := FV.ofInt (trigSeries (phi % twoPiFix) 0) (-(angBits : Int))
def sinOf (phi : Nat) : FV := FV.ofInt (trigSeries (phi % twoPiFix) 1) (-(angBits : Int))

end Sys2Proof.Machine
end

