-- ==== Sys2Proof/Machine/Sync.lean ====
section
/-! DEFINITION. The synchronisation class (0x10) of 09_ifeom_control_and_movement.md with the counters and tricks of
11_synchronisation.md, and the call ring of 02_faces_and_networks.md that carries SIGFs and plays between faces. -/
namespace Sys2Proof.Machine

/-- Counter k is declared by the face's program (R229, R276). -/
def Face.declares (x : Face) (k : Nat) : Bool := (mget {} x.ctr k).declared

/-- A change to a counter of the issuing face by one of its instructions: the change, or the precise revoke trap (R312). -/
def ownChange (s : State) (f k : Nat) (n : Int) : Done :=
  match s.ctrAdd f k n with
  | some t => .next t
  | none =>
    let img := revokeImage k false 0 s.devAddr f n
    .trapIn (s.revokeRecord f img) 3 img

/-- Layout of SIG, DEBIT and WAIT: K, RA, IMM16. -/
def formKN (op : Nat) : Form := ⟨0x10, op, 0, [(32, 10), (27, 5), (0, 16)], [], [], []⟩

/-- SIG: k_K += N on this face, at once. -/
def execSig (f : Nat) (w : IWord) (s : State) : Host.Outcome State Fault Refusal :=
  ok (issue s f w (formKN 0x000) (fun t x =>
    if x.declares (fK w) = false then illegal 2 else ownChange t f (fK w) (amountN x w)))

/-- DEBIT: k_K −= N, at once. -/
def execDebit (f : Nat) (w : IWord) (s : State) : Host.Outcome State Fault Refusal :=
  ok (issue s f w (formKN 0x004) (fun t x =>
    if x.declares (fK w) = false then illegal 2 else ownChange t f (fK w) (-(amountN x w : Int))))

/-- WAIT: stall until k_K ≥ N, then subtract N; an N above the ceiling is cause 2 (R276). -/
def execWait (f : Nat) (w : IWord) (s : State) : Host.Outcome State Fault Refusal :=
  ok (issue s f w (formKN 0x003) (fun t x =>
    if x.declares (fK w) = false then illegal 2
    else if amountN x w > (mget {} x.ctr (fK w)).ceil then illegal 2
    else .stall t (.wait (fK w) (amountN x w))))

/-- SIGF (R37, R271, R276, R311): a signal of N to counter K on each face of FMASK, on its arrival over the call ring. -/
def execSigf (f : Nat) (w : IWord) (s : State) : Host.Outcome State Fault Refusal :=
  ok (issue s f w ⟨0x10, 0x001, 0, [(32, 10), (27, 5), (16, 8), (0, 16)], [], [], []⟩ (fun t x =>
    let m := opf w 16 8
    if m ≥ 2 ^ t.nFaces then illegal 2
    else if bit m f && !x.declares (fK w) then illegal 2
    else .next { t with ring := t.ring ++ ((List.range 8).filter (bit m)).map (fun d => .sig f d (fK w) (amountN x w)) }))

/-- DOORBELL (R278): the value of k_K is recorded for publication at commit. -/
def execDoorbell (f : Nat) (w : IWord) (s : State) : Host.Outcome State Fault Refusal :=
  ok (issue s f w ⟨0x10, 0x008, 0, [(32, 10)], [], [], []⟩ (fun t x =>
    let c := mget {} x.ctr (fK w)
    if c.declared = false then illegal 2
    else .next (t.modFace f (fun y => { y with ctr := mset {} y.ctr (fK w) { c with bell := some c.value } }))))

/-- BAL (R276): the balance check of R243 without ending; a difference is the revoke trap with BAL trapping. -/
def execBal (f : Nat) (w : IWord) (s : State) : Host.Outcome State Fault Refusal :=
  ok (issue s f w ⟨0x10, 0x007, 0, [], [], [], []⟩ (fun t _ =>
    match t.imbalance f with
    | some img => .trapIn (t.revokeRecord f img) 3 img
    | none => .next t))

/-! ### The call ring (R65 to R68, R73) -/

/-- Stops of the call ring, clockwise (R65): 0 the platform controller, 1 to 4 physical faces 0 to 3, 5 the link subsystem, 6 to 9 physical faces 7 to
4, 10 the serving unit, 11 the host interface. -/
def stopOfFace (p : Nat) : Nat := if p < 4 then 1 + p else 13 - p

/-- Physical face of a stop. -/
def faceOfStop (k : Nat) : Option Nat := if 1 ≤ k ∧ k ≤ 4 then some (k - 1) else if 6 ≤ k ∧ k ≤ 9 then some (13 - k) else none

/-- Hops from stop a to stop b clockwise, and in the direction that a message takes: fewer hops, clockwise where both have six (R66). -/
def ringCw (a b : Nat) : Nat := (b + 12 - a) % 12
def ringHops (a b : Nat) : Nat := min (ringCw a b) (12 - ringCw a b)
def ringClockwise (a b : Nat) : Bool := decide (ringCw a b ≤ 6)

/-- The stops from a on, `n` hops in one direction. -/
def ringRun (clockwise : Bool) (a n : Nat) : List Nat := (List.range (n + 1)).map (fun i => if clockwise then (a + i) % 12 else (a + 12 - i) % 12)

/-- The stops that a message passes, source and destination included; a broadcast goes six hops clockwise and five the other way (R66). -/
def ringRoutes (m : RingMsg) : List (List Nat) :=
  match m.dst with
  | some b => [ringRun (ringClockwise m.src b) m.src (ringHops m.src b)]
  | none => [ringRun true m.src 6, ringRun false m.src 5]

/-- The class table (R68). -/
def ringClass : RKind → Nat
  | .tick | .commit | .abort | .role => 0
  | .sig | .debit | .play | .release | .arrival => 1
  | .doorbell | .hostCall | .faultReport | .calibration | .housekeeping => 2

/-- What a command does whose message came over the call ring: nothing where a stop has dropped the message (R73). -/
def State.ringGuard (s : State) (k : RKind) (here : Nat → Bool) (go : State → State) : State :=
  match s.ringLost.findIdx? (fun e => decide (e.1 = k) && here e.2) with
  | some i => { s with ringLost := s.ringLost.eraseIdx i }
  | none => go s

/-- The stop of logical face f. -/
def State.stopOf (s : State) (f : Nat) : Nat := stopOfFace (s.phys f)

/-! ### Tricks (R318 to R322) -/

/-- The manager's device address, and whether this device is the manager (R454): a device without a role is the manager of a domain of
itself alone, until it obeys another's ticks (R603). -/
def State.manager (s : State) : Nat := s.rd R.SYN_ROLE.MANAGER 0
def State.isManager (s : State) : Bool := decide (s.rd R.SYN_ROLE.ROLE 0 = 2) || (decide (s.rd R.SYN_ROLE.ROLE 0 = 0) && !s.obeys)
def State.isStandby (s : State) : Bool := decide (s.rd R.SYN_ROLE.ROLE 0 = 3)

/-- The handles of face f that hold an unreleased play on a trick lose their record (R319): `hand` restricts a domain trick's
release to plays of that hand number. -/
def Face.releaseTrick (x : Face) (domain : Bool) (trick : Nat) (hand : Option Nat) : Face :=
  { x with handles := x.handles.map (fun e =>
      if e.2.listed && (e.2.domain == domain) && decide (e.2.trick = trick) &&
          (match hand, e.2.play with
           | some h, some p => decide (h = p)
           | none, some _ => true
           | _, none => false)
      then (e.1, { e.2 with play := none }) else e) }

/-- A release of a die trick reaches face d. -/
def State.trickReleased (s : State) (d trick : Nat) : State := (s.modFace d (fun x => x.releaseTrick false trick none)).wake d

/-- A play of face `src` reaches the home of die trick i: it counts, and at PARTIES the round releases (R319). -/
def State.trickPlay (s : State) (src home i : Nat) : State :=
  let r := R.SYN_TRICK_CFG.COUNT
  let c := s.rd r i + 1
  let who := mget [] s.plays i ++ [src]
  if c ≥ s.rd R.SYN_TRICK_CFG.PARTIES i then
    let s1 : State := { (s.wr r i 0).wr R.SYN_TRICK_CFG.ROUNDS i (s.rd R.SYN_TRICK_CFG.ROUNDS i + 1) with
                        plays := mset [] s.plays i [] }
    let s2 : State := { s1 with ring := s1.ring ++ (who.filter (fun d => decide (d ≠ home))).map (fun d => .release home d i) }
    if who.contains home then s2.trickReleased home i else s2
  else { s.wr r i c with plays := mset [] s.plays i who }

/-- The plays that the manager holds for hand h on domain trick i. -/
def State.dtrickPlays (s : State) (i h : Nat) : List Nat := mget [] (mget {} s.dtricks i).counts h

/-- SYN_DTRICK_CFG.COUNT of trick i shows the plays of the current hand number. -/
def State.dtrickShow (s : State) (i : Nat) : State :=
  s.wr R.SYN_DTRICK_CFG.COUNT i (s.dtrickPlays i (s.rd R.SYN_HAND_NUM.HAND 0)).length

/-- The same of every trick with plays, as a hand begins. -/
def State.dtrickShows (s : State) : State := s.dtricks.foldl (fun t e => t.dtrickShow e.1) s

/-- The release of domain trick i for hand number h reaches this device (R319, R322). -/
def State.dtrickReleased (s : State) (i h : Nat) : State :=
  loop 8 s (fun t d => (t.modFace d (fun x => x.releaseTrick true i (some h))).wake d)

/-- The manager refuses the plays of hand h that this device's faces hold on domain trick i, whose PARTIES is 0 (R320): each is withdrawn, and the revoke
trap names the manager (R623, ORIGIN 6). -/
def State.dtrickRefused (s : State) (mgr i h : Nat) : State :=
  loop 8 s (fun t d =>
    match (t.face d).handles.find? (fun e => e.2.listed && e.2.domain && decide (e.2.trick = i ∧ e.2.play = some h)) with
    | none => t
    | some e =>
      let img := revokeImage e.1 true 6 mgr 0 1
      ((t.modFace d (fun x => x.releaseTrick true i (some h))).revokeRecord d img).trapFault d 3 img e.2.pc)

/-- A play on domain trick i with hand number h reaches the manager (R322): counted for its hand number; at PARTIES the round releases, over the tree
and here, and the next begins.  A re-deal's play (its hand number lies behind the current one) for a hand whose round has already released is released
at once, alone. -/
def State.dtrickPlay (s : State) (src i h : Nat) : State :=
  let dt := mget {} s.dtricks i
  let parties := s.rd R.SYN_DTRICK_CFG.PARTIES i
  if parties = 0 then (if src = s.devAddr then s.dtrickRefused src i h else s.sendCtl src (.release i h true))
  else if dt.released.contains h = true ∧ h < s.rd R.SYN_HAND_NUM.HAND 0 then
    if src = s.devAddr then s.dtrickReleased i h else s.sendCtl src (.release i h false)
  else
    let who := mget [] dt.counts h ++ [src]
    if who.length ≥ parties then
      let s1 : State := { s with dtricks := mset {} s.dtricks i
                                   { counts := mset [] dt.counts h [], released := if dt.released.contains h then dt.released else dt.released ++ [h] } }
      (((s1.dtrickShow i).sendTree (.release i h false)).dtrickReleased i h)
    else ({ s with dtricks := mset {} s.dtricks i { dt with counts := mset [] dt.counts h who } } : State).dtrickShow i

/-- A device that misdealt withdraws its plays from every domain trick that has not released (R41). -/
def State.withdrawPlays (s : State) (src : Nat) : State :=
  s.dtricks.foldl (fun t e =>
    if e.2.counts.any (fun c => c.2.contains src) then
      let cs := (e.2.counts.map (fun c => (c.1, c.2.filter (fun d => decide (d ≠ src))))).filter (fun c => decide (c.2 ≠ []))
      ({ t with dtricks := mset {} t.dtricks e.1 { e.2 with counts := cs } }).dtrickShow e.1
    else t) s

/-- Handles of face x that name the trick of a handle: one trick may stand under several (R230, R320). -/
def Face.sameTrick (x : Face) (h : Handle) : List Handle :=
  (x.handles.map Prod.snd).filter (fun g => g.listed && (g.domain == h.domain) && decide (g.trick = h.trick))

/-- Hand number that a domain-trick play carries: that of the hand, or of the hand being repeated (R322). -/
def State.playHand (s : State) : Nat := if s.hand.redeal then s.hand.redealOf else s.rd R.SYN_HAND_NUM.HAND 0

/-- The revoke of a PLAY or WAITT (R320, R623): amount 1 for a PLAY, 0 for a WAITT. -/
def trickRevoke (s : State) (f handle : Nat) (amount : Int) : Done :=
  let img := revokeImage handle true 0 s.devAddr f amount
  .trapIn (s.revokeRecord f img) 3 img

/-- The revoke of a PLAY that the manager, this device itself, refuses (R623, ORIGIN 6). -/
def managerRevoke (s : State) (f handle : Nat) : Done :=
  let img := revokeImage handle true 6 s.devAddr 0 1
  .trapIn (s.revokeRecord f img) 3 img

/-- PLAY (R319, R320, R322). -/
def execPlay (f : Nat) (w : IWord) (s : State) : Host.Outcome State Fault Refusal :=
  ok (issue s f w ⟨0x10, 0x005, 0, [(34, 8)], [], [], []⟩ (fun t x =>
    let h := mget {} x.handles (fT w)
    if h.listed = false then illegal 3
    else if (x.sameTrick h).any (fun g => g.play.isSome) then trickRevoke t f (fT w) 1
    else
      let t1 := t.modFace f (fun y => { y with handles := mset {} y.handles (fT w)
                                                 { h with play := some t.playHand, played := true, pc := x.pc } })
      if h.domain then
        if t.isManager then
          if t.rd R.SYN_DTRICK_CFG.PARTIES h.trick = 0 then managerRevoke t f (fT w)
          else .next (t1.dtrickPlay t.devAddr h.trick t.playHand)
        else .next (t1.sendCtl t.manager (.play h.trick t.playHand))
      else if t.rd R.SYN_TRICK_CFG.PARTIES h.trick = 0 then trickRevoke t f (fT w) 1
      else
        let home := t.rd R.SYN_TRICK_CFG.HOME h.trick
        if home = f then .next (t1.trickPlay f home h.trick)
        else .next { t1 with ring := t1.ring ++ [.play f home h.trick] }))

/-- WAITT (R319, R320): stall until the round of the face's unreleased play releases. -/
def execWaitt (f : Nat) (w : IWord) (s : State) : Host.Outcome State Fault Refusal :=
  ok (issue s f w ⟨0x10, 0x006, 0, [(34, 8)], [], [], []⟩ (fun t x =>
    let h := mget {} x.handles (fT w)
    if h.listed = false then illegal 3
    else if (x.sameTrick h).all (fun g => !g.played) then trickRevoke t f (fT w) 0
    else .stall t (.waitt (fT w))))

/-- DOMAIN_TRICK_PLAY (R322): a PLAY message of device `src` reaches this device; the manager counts it, another device
ignores it. -/
def execDomainTrickPlay (src trick hand : Nat) (s : State) : Host.Outcome State Fault Refusal :=
  ok (if s.isManager then s.dtrickPlay src trick hand else s)

/-- Trick configuration writes take effect (R318): a new round with a count of 0. -/
def State.bdyTricks (s : State) : State :=
  let s1 := s.trickReq.foldl (fun t e => match e.2 with
    | some (p, h) =>
      let i := e.1
      { (((t.wr R.SYN_TRICK_CFG.PARTIES i p).wr R.SYN_TRICK_CFG.HOME i h).wr R.SYN_TRICK_CFG.COUNT i 0).wr
          R.SYN_TRICK_CFG.ROUNDS i 0 with plays := mset [] t.plays i [] }
    | none => t) s
  let s2 := s1.dtrickReq.foldl (fun t e => match e.2 with
    | some p => { (t.wr R.SYN_DTRICK_CFG.PARTIES e.1 p).wr R.SYN_DTRICK_CFG.COUNT e.1 0 with
                  dtricks := mset {} t.dtricks e.1 {} }
    | none => t) s1
  { s2 with trickReq := [], dtrickReq := [] }

/-- A change marked for the next hand boundary takes effect at once on a device that runs no ticks (R602). -/
def State.orNow (s : State) (g : State → State) : State := if s.ticking then s else g s

/-- TRICK_CFG (R318): a write of SYN_TRICK_CFG; a HOME of n or more is refused, and so is a PARTIES above 8; the change waits
for the boundary. -/
def execTrickCfg (i parties home : Nat) (s : State) : Host.Outcome State Fault Refusal :=
  ok (if home ≥ s.nFaces ∨ parties > 8 ∨ i ≥ 256 then s
      else State.orNow { s with trickReq := mset none s.trickReq i (some (parties, home)) } State.bdyTricks)

/-- DTRICK_CFG (R318): a write of SYN_DTRICK_CFG on the manager; the change waits for the boundary. -/
def execDtrickCfg (i parties : Nat) (s : State) : Host.Outcome State Fault Refusal :=
  ok (if parties > 32768 ∨ i ≥ 64 then s else State.orNow { s with dtrickReq := mset none s.dtrickReq i (some parties) } State.bdyTricks)

/-- A call-ring message arrives at its stop. -/
def State.ringApply (s : State) (m : RMsg) : State :=
  match m with
  | .sig src dst k n => s.signal dst k (n : Int) (if src = dst then 0 else 1) s.devAddr src (s.face dst).pc
  | .play src home i => s.trickPlay src home i
  | .release _ dst i => s.trickReleased dst i

/-- Source and destination stop of a message. -/
def RMsg.ends : RMsg → Nat × Nat
  | .sig a b _ _ => (a, b)
  | .play a b _ => (a, b)
  | .release a b _ => (a, b)

/-- Every message in flight arrives, in order: at most 150 ns after its offer (R68), so before any decision at E. -/
def State.ringDrain (s : State) : State :=
  -- a play may send releases, which arrive in a second round
  let s1 := s.ring.foldl (fun t m => t.ringApply m) { s with ring := [] }
  s1.ring.foldl (fun t m => t.ringApply m) { s1 with ring := [] }

/-- The message that a command in flight between faces makes on the ring. -/
def State.ringMsgOf (s : State) (m : RMsg) : RingMsg :=
  { kind := match m with
      | .sig _ _ _ _ => .sig
      | .play _ _ _ => .play
      | .release _ _ _ => .release
    src := s.stopOf m.ends.1, dst := some (s.stopOf m.ends.2), flits := 1 }

/-- Logical faces that a message no longer reaches when stop k drops it: its destination; of a broadcast the faces from k on. -/
def State.ringMissed (s : State) (m : RingMsg) (k : Nat) : List Nat :=
  let stops := match m.dst with
    | some b => [b]
    | none => (ringRoutes m).flatMap (fun (r : List Nat) => r.drop (r.findIdx (fun x => decide (x = k))))
  (stops.filterMap faceOfStop).filterMap s.logicalOf

/-- Stop k detects an uncorrectable flit (R73): the message is dropped, recorded, and faults the destination face; a class-0 message also raises
FAULT_N.  A destination that is no face faults none, and the record's detail holds the destination's logical face, 0xFF where there is none or the
message is a broadcast, whose remaining faces all fault (DESIGN CHOICE, log entry 75). -/
def State.ringBad (s : State) (m : RingMsg) (k : Nat) : State :=
  let dst := ((m.dst.bind faceOfStop).bind s.logicalOf).getD 0xFF
  let s1 := s.raise { det := .ringUncorr, unit := unitId 10 0 0 0 k, d0 := BitVec.ofNat 64 (ringClass m.kind), fatal := decide ((ringClass m.kind) = 0)
                      d1 := BitVec.ofNat 64 dst, lface := dst }
  let s2 := if (ringClass m.kind) = 0 then (s1.wr R.FLT_FATAL.RING_CLASS0 0 1).faultN else s1
  (s.ringMissed m k).foldl (fun t f => t.faceFault f 3) s2

/-- What the stops of a message's route find of its flits: corrected at `fixed`, uncorrectable at `bad`, and as an injection slot has it (R559). -/
def State.ringChecks (s : State) (m : RingMsg) (fixed : List Nat) (bad : Option Nat) : State × Option Nat :=
  let route := (ringRoutes m).flatten.eraseDups
  let s1 := (fixed.filter (fun k => route.contains k)).foldl (fun t _ => t.bump R.MSH_RING_STAT.CORRECTED 0) s
  let b := bad.filter (fun k => route.contains k)
  route.foldl (fun (a : State × Option Nat) k =>
    if a.2.isSome then a
    else match a.1.inject .ringUncorr (unitId 10 0 0 0 k) (fun p => decide (p % 4 ≥ 2)) with
    | none => a
    | some r => if r.1 % 4 ≥ 2 then (r.2, some k) else if r.1 % 4 = 1 then (r.2.bump R.MSH_RING_STAT.CORRECTED 0, none) else (r.2, none)) (s1, b)

/-- CALL_RING_MESSAGE (R65 to R68, R73): message m is carried from its source stop, in the direction of R66, and delivered.  `waits`: its waits in fc, by
stop, at most 40 each; `fixed`, `bad`: stops that correct a flit, and one that detects an uncorrectable one.  `i` names a message in flight between
faces, which m then follows; one that would overtake an earlier message of the same two stops does not arrive (R67).  With `i` none the effect
belongs to a command of its own, which has none if the message is dropped. -/
def execCallRingMessage (i : Option Nat) (m : RingMsg) (waits : List (Nat × Nat)) (fixed : List Nat) (bad : Option Nat) (s : State) :
    Host.Outcome State Fault Refusal :=
  let flying := i.bind (fun j => s.ring[j]?)
  let n := (flying.map s.ringMsgOf).getD m
  let route := (ringRoutes n).flatten
  let s0 := (waits.filter (fun w => route.contains w.1)).foldl
    (fun t w => t.wr R.MSH_RING_STAT.MAX_WAIT 0 (max (t.rd R.MSH_RING_STAT.MAX_WAIT 0) (min w.2 40))) s
  let c := s0.ringChecks n fixed bad
  ok (match i, flying with
  | some _, none => s
  | none, _ =>
    if n.src ≥ 12 ∨ n.dst.getD 0 ≥ 12 ∨ n.flits = 0 ∨ n.flits > 2 then s
    else match c.2 with
    | some k => ({ c.1 with ringLost := c.1.ringLost ++ [(n.kind, n.dst.getD k)] } : State).ringBad n k
    | none => c.1.bump R.MSH_RING_STAT.MESSAGES 0
  | some j, some e =>
    if (s.ring.take j).any (fun x => decide (x.ends = e.ends)) then s
    else
      let s1 : State := { c.1 with ring := s.ring.eraseIdx j }
      match c.2 with
      | some k => s1.ringBad n k
      | none => (s1.bump R.MSH_RING_STAT.MESSAGES 0).ringApply e)

/-! ### Host signals (R311, R314) -/

/-- A host or management change to a counter (R312, R314): a revoke is recorded and counted, and raises no trap.  `fn` is 0 for
PF0, 1 for PF1 and 7 for the management network (R623). -/
def State.hostSignal (s : State) (f k : Nat) (n : Int) (fn : Nat) : State :=
  match s.ctrAdd f k n with
  | some t => t
  | none =>
    (s.bump R.SYN_FACE_STAT.HOST_REVOKES f).raise
      { det := .revoke, unit := s.unitFace f, d0 := revokeImage k false 4 s.devAddr fn n
        d1 := BitVec.ofNat 64 (s.devAddr + f * 65536), lface := f }

/-- SYN_CTR_SIG (R311, R314, R234): at once when no hand runs on the face, otherwise at the next hand boundary. -/
def execSynCtrSig (f k : Nat) (sub : Bool) (amount fn : Nat) (s : State) : Host.Outcome State Fault Refusal :=
  let n : Int := if sub then -((amount % 2 ^ 32 : Nat) : Int) else ((amount % 2 ^ 32 : Nat) : Int)
  ok (if f ≥ s.nFaces ∨ k ≥ 1024 then s
      else if s.hand.running = false then s.hostSignal f k n fn
      else s.modFace f (fun x => { x with hostSigs := x.hostSigs ++ [(k, n, fn)] }))

end Sys2Proof.Machine
end

