-- ==== Sys2Proof/Machine/Windows.lean ====
section
/-! DEFINITION. Receive windows (11_synchronisation.md R324 to R331), the parcels that land in them (R326, R624, R431, R433),
and the commit and abort notices that make their slots ready or drop them (R28, R29, R328, R440). -/
namespace Sys2Proof.Machine

/-- A window of face f beside its registers. -/
def State.win (s : State) (f w : Nat) : Win := mget {} (s.face f).wins w

/-- Status bits of a window's slots (SYN_WIN_STATE). -/
def State.winSync (s : State) (f w : Nat) : State :=
  let x := s.win f w
  let mask (q : SlotSt → Bool) : Nat := x.slots.foldl (fun a e => if q e.2.st then setBit a e.1 true else a) 0
  (s.wr R.SYN_WIN_STATE.STAGED (ix 256 f w) (mask (fun t => decide (t = .staged ∨ t = .ready)))).wr
    R.SYN_WIN_STATE.RELEASED (ix 256 f w) (mask (fun t => decide (t = .released)))

/-- Replace a window, with its status bits. -/
def State.setWin (s : State) (f w : Nat) (x : Win) : State :=
  (s.modFace f (fun y => { y with wins := mset {} y.wins w x })).winSync f w

/-- Slots of a window; its STATE. -/
def State.winDepth (s : State) (f w : Nat) : Nat := s.rd R.SYN_WIN_CFG.DEPTH (ix 256 f w)
def State.winState (s : State) (f w : Nat) : Nat := s.rd R.SYN_WIN_STATE.STATE (ix 256 f w)

/-- The slot index that a new slot takes: the first free one from `next`, ascending modulo DEPTH (R325). -/
def Win.freeIx (x : Win) (depth : Nat) : Option Nat :=
  ((List.range depth).map (fun i => (x.next + i) % depth)).find? (fun i => decide ((mget {} x.slots i).st = .free))

/-- The slot that holds a hand's parcels. -/
def Win.ofHand (x : Win) (hand : Nat) : Option Nat :=
  (x.slots.find? (fun e => decide (e.2.st ≠ .free ∧ e.2.hand = hand) && !e.2.empty)).map Prod.fst

/-- Give the oldest pending empty slot the first slot that frees (R328). -/
def Win.placePending (x : Win) (depth : Nat) : Win :=
  match x.pendEmpty, x.freeIx depth with
  | (h, n, lo, hi) :: rest, some i =>
    { x with slots := mset {} x.slots i { st := .ready, hand := h, empty := true, number := n, stampLo := lo, stampHi := hi }
             next := (i + 1) % depth, pendEmpty := rest }
  | _, _ => x

/-- Free a slot; lines of it are no longer contended. -/
def State.freeSlot (s : State) (f w i : Nat) : State :=
  let g := s.winGeom f w
  let x := s.win f w
  let lo := g.1 + i * g.2.1
  let fan := s.rd R.SYN_WIN_CFG.FANOUT (ix 256 f w)
  let s1 := loop 8 s (fun t d => if bit fan d then
      t.modFace d (fun y => { y with raced := mdrop (fun k => decide (lo ≤ k ∧ k < lo + g.2.1)) y.raced }) else t)
  s1.setWin f w (({ x with slots := mset {} x.slots i {} }).placePending (s.winDepth f w))

/-! ### Opening and closing -/

/-- Why an open is refused (R324). -/
def State.openBad (s : State) (f w : Nat) : Bool :=
  let i := ix 256 f w
  let g := s.winGeom f w
  let fan := s.rd R.SYN_WIN_CFG.FANOUT i
  let pipe := decide (s.rd R.SYN_WIN_CFG.PIPE i = 1)
  let lo := g.1
  let hi := g.1 + g.2.1 * g.2.2 - 1
  decide (g.2.1 = 0 ∨ g.2.1 > 24576 ∨ g.2.2 = 0 ∨ g.2.2 > 4 ∨ hi ≥ 196608 ∨ lo / 49152 ≠ hi / 49152) ||
  (s.residentLines f).any (fun r => decide (max lo r.1 ≤ min hi r.2)) ||
  (s.cacheLines f).any (fun r => decide (max lo r.1 ≤ min hi r.2)) ||
  !bit fan f || decide (fan ≥ 2 ^ s.nFaces) ||
  (pipe && decide (g.2.2 ≠ 3 ∧ g.2.2 ≠ 4)) || (!pipe && decide (g.2.2 ≠ 1)) ||
  (pipe && s.faces.any (fun e => e.2.wins.any (fun we =>
    decide (¬(e.1 = f ∧ we.1 = w)) && decide (s.winState e.1 we.1 ≥ 2) &&
    decide (s.rd R.SYN_WIN_CFG.PIPE (ix 256 e.1 we.1) = 1) &&
    (List.range 8).any (fun d => bit fan d && bit (s.rd R.SYN_WIN_CFG.FANOUT (ix 256 e.1 we.1)) d))))

/-- Drop every staged and ready slot of a window, counting the ready ones (R330). -/
def State.dropSlots (s : State) (f w : Nat) : State :=
  let x := s.win f w
  let n := (x.slots.filter (fun e => decide (e.2.st = .ready))).length
  (s.setWin f w { x with slots := x.slots.filter (fun e => decide (e.2.st = .released)), pendEmpty := [] }).bumpBy
    R.SYN_WIN_STAT.DROPPED_READY (ix 256 f w) n

/-- Open and close requests of one window at a boundary (R324, R330). -/
def State.bdyWindow (s : State) (f w : Nat) : State :=
  let i := ix 256 f w
  let x := s.win f w
  if x.openReq then
    let s1 := s.modFace f (fun y => { y with wins := mset {} y.wins w { x with openReq := false, live := !s.openBad f w } })
    if s.openBad f w then (s1.wr R.SYN_WIN_STATE.REFUSE i 1).wr R.SYN_WIN_STATE.STATE i 0
    else s1.wr R.SYN_WIN_STATE.STATE i 2
  else if s.winState f w = 3 ∧ (x.slots.any (fun e => decide (e.2.st = .released))) = false then
    let s1 := (s.dropSlots f w).wr R.SYN_WIN_STATE.STATE i 0
    s1.setWin f w {}
  else s

/-- All windows at a boundary; a face's windows are those that its map names. -/
def State.bdyWindows (s : State) : State :=
  s.faces.foldl (fun t e => e.2.wins.foldl (fun u we => u.bdyWindow e.1 we.1) t) s

/-- WINDOW_OPEN (R324): SYN_WIN_CFG.OPEN of a CLOSED window; the later of an open and a close wins (R333).  A window that is
open, or closing, has nothing to open. -/
def execWindowOpen (f w : Nat) (s : State) : Host.Outcome State Fault Refusal :=
  ok (if f ≥ s.nFaces ∨ w ≥ 256 then s
      else if s.winState f w = 0 then
        State.orNow ((s.modFace f (fun y => { y with wins := mset {} y.wins w { mget {} y.wins w with openReq := true, live := true } })).wr
          R.SYN_WIN_STATE.STATE (ix 256 f w) 1) State.bdyWindows
      else if s.winState f w = 3 then s.wr R.SYN_WIN_STATE.STATE (ix 256 f w) 2
      else s)

/-- WINDOW_CLOSE (R330): CLOSING from the write; an open still waiting is undone. -/
def execWindowClose (f w : Nat) (s : State) : Host.Outcome State Fault Refusal :=
  ok (if f ≥ s.nFaces ∨ w ≥ 256 then s
      else if s.winState f w = 1 then
        (s.modFace f (fun y => { y with wins := mset {} y.wins w { mget {} y.wins w with openReq := false, live := false } })).wr
          R.SYN_WIN_STATE.STATE (ix 256 f w) 0
      else if s.winState f w = 2 then State.orNow (s.wr R.SYN_WIN_STATE.STATE (ix 256 f w) 3) State.bdyWindows
      else s)

/-! ### Parcels -/

/-- Hand number now running, or of the last tick. -/
def State.handNum (s : State) : Nat := s.rd R.SYN_HAND_NUM.HAND 0

/-- The slot number that parcels carry. -/
def State.parcelSlot (s : State) : Nat := if s.hand.slotNum ≠ 0 then s.hand.slotNum else s.handNum

/-- A parcel of this device, sealed as its data are read (R431). -/
def State.parcelOf (s : State) (kind dst face win offset ctr amount : Nat) (port : Nat) (ws : List (Word × Bool)) : Parcel :=
  let p : Parcel :=
    { kind := kind, poison := ws.any Prod.snd
      vl1 := (match s.route dst with
        | some (p, dl) => decide (p = port) && dl
        | none => false)
      dst := dst, src := s.devAddr, face := face, win := win, offset := offset, lines := ws.length / 16, hand := s.handNum
      seq := mget 0 s.seqs dst, epoch := s.rd R.KEY_SESSION.EPOCH 0, ctr := ctr, amount := amount
      slot := if kind = 1 then s.parcelSlot else 0, model := 0, data := ws.map Prod.fst }
  p.sealed

/-- A parcel leaves through a port, and its sequence number is taken. -/
def State.putParcel (s : State) (port : Nat) (p : Parcel) : State :=
  ({ s with seqs := mset 0 s.seqs p.dst ((p.seq + 1) % 2 ^ 32) }).portOut port (.parcel port p)

/-- Answer a parcel or SIGR of device `src` that arrived on `port` (R433): 0 ACK, 1 CLOSED, 2 SOURCE, 3 RANGE, 4 FULL, 5 SEAL,
6 UNROUTABLE.  An answer that cannot be routed is dropped and counted. -/
def State.answer (s : State) (port src result seq : Nat) : State :=
  s.forwardCtl port src s.devAddr (.answer result seq 1)

/-- Write a parcel's data into its slot on every face of FANOUT (R325); with POISON every word is poisoned (R431).  A line that
a program wrote while the slot was not released ends with the program's data or the parcel's, nobody says which (R331). -/
def State.landParcel (s : State) (f w i : Nat) (p : Parcel) : State :=
  let g := s.winGeom f w
  let fan := s.rd R.SYN_WIN_CFG.FANOUT (ix 256 f w)
  let base := g.1 + i * g.2.1 + p.offset / 128
  loop 8 s (fun t d =>
    if bit fan d then
      loop p.lines t (fun u l =>
        let ws := ((p.data.drop (16 * l)).take 16).map (fun v => (v, p.poison))
        if mget false (u.face d).raced (base + l) then
          let r := u.draw
          if r.1 % 2 = 0 then r.2.putArrival d (base + l) ws else r.2
        else u.putArrival d (base + l) ws)
    else t)

/-- A DATA parcel at its destination: the checks of R326, the seal (R431), the answer (R433). -/
def State.windowParcel (s : State) (port : Nat) (p : Parcel) : State :=
  let f := p.face
  let w := p.win
  let i := ix 256 f w
  let g := s.winGeom f w
  let x := s.win f w
  if p.epoch ≠ s.rd R.KEY_SESSION.EPOCH 0 then s.bump R.LNK_PARCEL_STAT.EPOCH_DROP port
  else if f ≥ s.nFaces ∨ w ≥ 256 then s.answer port p.src 1 p.seq
  else if s.winState f w ≠ 2 ∨ p.hand < s.rd R.SYN_WIN_EPOCH.EPOCH i then
    (s.bump R.SYN_WIN_STAT.CLOSED i).answer port p.src 1 p.seq
  else if p.src ≠ s.rd R.SYN_WIN_STATE.SRC i then (s.bump R.SYN_WIN_STAT.CLOSED i).answer port p.src 2 p.seq
  else if s.aborts.contains (p.src, p.hand) then s.bump R.SYN_WIN_STAT.AFTER_ABORT i
  else if p.offset + p.lines * 128 > g.2.1 * 128 ∨ s.commits.contains (p.src, p.hand) then
    (s.bump R.SYN_WIN_STAT.RANGE i).answer port p.src 3 p.seq
  else
    let place := match x.ofHand p.hand with
      | some k => some k
      | none => if x.pendEmpty.isEmpty then x.freeIx g.2.2 else none
    match place with
    | none => ((s.bump R.SYN_WIN_STAT.FULL i).bump R.SYN_HAND_COUNTS.WINDOW_FULL 0).answer port p.src 4 p.seq
    | some k =>
      if p.sealOk = false then (s.bump R.LNK_PARCEL_STAT.SEAL_FAIL port).answer port p.src 5 p.seq
      else
        let o := mget {} x.slots k
        let fresh := decide (o.st = .free)
        -- a parcel addressed to a quarter in cache mode: the owner's counter is not signalled (R222)
        let gone := (List.range 8).any (fun d => bit (s.rd R.SYN_WIN_CFG.FANOUT i) d &&
          (List.range p.lines).any (fun l => decide (s.arrival d (g.1 + k * g.2.1 + p.offset / 128 + l) = .unmapped)))
        let o1 : WSlot := { o with unmapped := o.unmapped || gone, st := .staged, hand := p.hand, bytes := o.bytes + p.lines * 128, number := p.slot
                                   parcels := o.parcels ++ [(⟨p.offset, p.lines, p.seq, port, crc32c (wordBytes p.data)⟩ : PRec)] }
        let s1 := s.setWin f w { x with slots := mset {} x.slots k o1, next := if fresh then (k + 1) % g.2.2 else x.next }
        (s1.landParcel f w k p).answer port p.src 0 p.seq

/-- A SIGR parcel at its destination (R624, R431, R433). -/
def State.sigrParcel (s : State) (port : Nat) (p : Parcel) : State :=
  if p.epoch ≠ s.rd R.KEY_SESSION.EPOCH 0 then s.bump R.LNK_PARCEL_STAT.EPOCH_DROP port
  else if s.aborts.contains (p.src, p.hand) then s
  else if p.face ≥ s.nFaces ∨ s.commits.contains (p.src, p.hand) = true then s.answer port p.src 3 p.seq
  else if p.sealOk = false then (s.bump R.LNK_PARCEL_STAT.SEAL_FAIL port).answer port p.src 5 p.seq
  else ({ s with sigrs := s.sigrs ++ [⟨p.src, p.hand, p.face, p.ctr, p.amount, false⟩] } : State).answer port p.src 0 p.seq

/-- Forward a parcel for another device (R432): by LNK_ROUTE, to VL1 across a dateline; unroutable, it is dropped and counted,
and DATA and SIGR parcels are answered UNROUTABLE. -/
def State.forwardParcel (s : State) (port : Nat) (p : Parcel) : State :=
  match s.route p.dst with
  | some (o, dl) => s.portOut o (.parcel o { p with vl1 := p.vl1 || dl })
  | none =>
    let s1 := s.bump R.LNK_PARCEL_STAT.UNROUTABLE port
    if p.kind = 3 then s1 else s1.answer port p.src 6 p.seq

/-- A parcel of a carried seat's history, addressed to face 0, window 255 of the head while its serving unit serves: it goes to the serving unit, which
writes it into its serving region (R466). -/
def State.historyParcel (s : State) (port : Nat) (p : Parcel) : State :=
  if p.epoch ≠ s.rd R.KEY_SESSION.EPOCH 0 then s.bump R.LNK_PARCEL_STAT.EPOCH_DROP port
  else if p.sealOk = false then (s.bump R.LNK_PARCEL_STAT.SEAL_FAIL port).answer port p.src 5 p.seq
  else ({ s with histIn := mset [] s.histIn p.src ((mget [] s.histIn p.src).take (p.offset / 8) ++ p.data) } : State).answer port p.src 0 p.seq

/-- DATA_PARCEL (R326, R430 to R433, R466): a DATA parcel received on `port`. -/
def execDataParcel (port : Nat) (p : Parcel) (s : State) : Host.Outcome State Fault Refusal :=
  let s1 := s.bump R.LNK_PARCEL_STAT.PARCELS port
  ok (if p.dst = s.devAddr then s1.ringGuard .arrival (fun k => decide (k = s.stopOf p.face)) (fun t =>
        if p.face = 0 ∧ p.win = 255 ∧ t.rd R.SRV_MODE.MODE 0 ≥ 2 then t.historyParcel port p else t.windowParcel port p)
      else s1.forwardParcel port p)

/-- SIGR_PARCEL (R624): a SIGR parcel received on `port`. -/
def execSigrParcel (port : Nat) (p : Parcel) (s : State) : Host.Outcome State Fault Refusal :=
  let s1 := s.bump R.LNK_PARCEL_STAT.PARCELS port
  ok (if p.dst = s.devAddr then s1.sigrParcel port p else s1.forwardParcel port p)

/-! ### Notices -/

/-- The largest number not above the sending hand's whose bits [30:0] equal SLOT_LO (R440); where there is none the spec states
no number. -/
def slotNumber (hand lo : Nat) : Option Nat :=
  let d := (hand + 2 ^ 31 - lo % 2 ^ 31) % 2 ^ 31
  if d ≤ hand then some (hand - d) else none

/-- One window entry of a commit notice (R328). -/
def State.noticeEntry (s : State) (src hand : Nat) (e : WinEntry) : State :=
  let f := e.face
  let w := e.win
  let i := ix 256 f w
  let x := s.win f w
  let num := (slotNumber hand e.slotLo).getD s.draw.1
  let s0 := if (slotNumber hand e.slotLo).isSome then s else s.draw.2
  if f ≥ s.nFaces then s
  else if s.winState f w ≠ 2 then s.bump R.SYN_WIN_STAT.DROPPED_READY i
  else
    -- a window of another sender holds nothing of this hand
    let mine := if s.rd R.SYN_WIN_STATE.SRC i = src then x.ofHand hand else none
    let short (t : State) (got : Nat) : State :=
      (t.bump R.SYN_WIN_STAT.SHORT i).raise { det := .winShort, unit := s.unitFace f, d0 := BitVec.ofNat 64 w
                                              d1 := BitVec.ofNat 64 (got + e.bytes * 2 ^ 32), lface := f }
    match mine with
    | some k =>
      let o := mget {} x.slots k
      let fx := s0.forced .winShort (s.unitFace f)
      if o.bytes = e.bytes ∧ fx.1 = false then
        s0.setWin f w { x with slots := mset {} x.slots k { o with st := .ready, number := num, stampLo := e.stampLo, stampHi := e.stampHi } }
      else (short (if fx.1 then fx.2 else s) o.bytes).freeSlot f w k
    | none =>
      if e.bytes = 0 then
        s0.setWin f w (({ x with pendEmpty := x.pendEmpty ++ [(hand, num, e.stampLo, e.stampHi)] }).placePending (s.winDepth f w))
      else short s 0

/-- Act on a whole commit notice (R328, R37): windows, then the hand's SIGRs wait for the boundary.  A notice later than the
tick it was meant for is counted (R29). -/
def State.commitNotice (s : State) (port src hand : Nat) (wins : List WinEntry) : State :=
  if s.aborts.contains (src, hand) then
    s.raise { det := .noticeClash, unit := unitId 12 port 0 0 0, d0 := BitVec.ofNat 64 hand, d1 := BitVec.ofNat 64 src }
  else if s.commits.contains (src, hand) then s
  else
    let s1 : State := { s with commits := s.commits ++ [(src, hand)]
                               sigrs := s.sigrs.map (fun g => if g.src = src ∧ g.hand = hand then { g with committed := true } else g) }
    let s2 := wins.foldl (fun t e => t.noticeEntry src hand e) s1
    if s.ticking = true ∧ s.rd R.SYN_HAND_NUM.HAND 0 > hand then s2.bump R.SYN_HAND_COUNTS.LATE_NOTICE 0 else s2

/-- Collected parts of a notice sent as a sequence (R440). -/
def State.partOf (s : State) (src hand : Nat) : List WinEntry :=
  (s.partials.filter (fun e => decide (e.1 = src ∧ e.2.1 = hand))).flatMap (fun e => e.2.2)

/-- Apply committed SIGRs at a hand boundary (R37, R312, R624): a revoke is recorded, and its trap is taken at the entry of the
next hand. -/
def State.bdySigrs (s : State) : State :=
  s.sigrs.foldl (fun t g =>
    if g.committed then
      match (if (mget {} (t.face g.face).ctr g.ctr).declared then t.ctrAdd g.face g.ctr (g.amount : Int) else none) with
      | some u => u
      | none =>
        let img := revokeImage g.ctr false 2 g.src 0 (g.amount : Int)
        (t.revokeRecord g.face img).modFace g.face (fun y => { y with entryTraps := y.entryTraps ++ [img] })
    else t) { s with sigrs := s.sigrs.filter (fun g => !g.committed) }

/-- COMMIT (R328, R440): a COMMIT message received on `port`. -/
def execCommit (port dst src hand : Nat) (wins : List WinEntry) (more : Bool) (s : State) : Host.Outcome State Fault Refusal :=
  ok (if dst ≠ s.devAddr then s.forwardCtl port dst src (.commit hand wins more)
      else s.ringGuard .commit (fun _ => true) (fun s =>
        if more then { s with partials := s.partials ++ [(src, hand, wins)] }
        else
          let all := s.partOf src hand ++ wins
          let s1 : State := { s with partials := s.partials.filter (fun e => !decide (e.1 = src ∧ e.2.1 = hand)) }
          State.orNow (s1.commitNotice port src hand all) State.bdySigrs))

/-- Drop the slot of a hand in every window of a sender (R29). -/
def State.dropHand (s : State) (src hand : Nat) : State :=
  s.faces.foldl (fun t e => e.2.wins.foldl (fun u we =>
    if u.rd R.SYN_WIN_STATE.SRC (ix 256 e.1 we.1) = src then
      let x := u.win e.1 we.1
      let u1 := u.setWin e.1 we.1 { x with pendEmpty := x.pendEmpty.filter (fun q => decide (q.1 ≠ hand)) }
      match (x.slots.find? (fun q => decide (q.2.hand = hand ∧ (q.2.st = .staged ∨ q.2.st = .ready)))).map Prod.fst with
      | some k => u1.freeSlot e.1 we.1 k
      | none => u1
    else u) t) s

/-- An abort notice (R29, R37, R440): the slot it names is dropped, its SIGRs and any part of a sequence discarded; a commit
notice already held for the hand is a clash, and the abort prevails (R333). -/
def State.abortNotice (s : State) (port src hand : Nat) : State :=
  let s1 := if s.commits.contains (src, hand) then
      s.raise { det := .noticeClash, unit := unitId 12 port 0 0 0, d0 := BitVec.ofNat 64 hand, d1 := BitVec.ofNat 64 src }
    else s
  let s2 : State := { s1 with
    aborts := if s1.aborts.contains (src, hand) then s1.aborts else s1.aborts ++ [(src, hand)]
    sigrs := s1.sigrs.filter (fun g => !decide (g.src = src ∧ g.hand = hand))
    partials := s1.partials.filter (fun e => !decide (e.1 = src ∧ e.2.1 = hand)) }
  s2.dropHand src hand

/-- ABORT (R29): an ABORT message received on `port`. -/
def execAbort (port dst src hand : Nat) (s : State) : Host.Outcome State Fault Refusal :=
  ok (if dst ≠ s.devAddr then s.forwardCtl port dst src (.abort hand)
      else s.ringGuard .abort (fun _ => true) (fun t => t.abortNotice port src hand))

/-! ### Release (R28, R47, R325, R431) -/

/-- Whether a parcel's data in face d's scratchpad still matches its seal; lines that R331 leaves open do not count. -/
def State.sealHolds (s : State) (d base : Nat) (p : PRec) : Bool :=
  let lo := base + p.offset / 128
  (List.range p.lines).any (fun l => mget false (s.face d).raced (lo + l) || decide (s.arrival d (lo + l) ≠ .stored)) ||
  decide (crc32c (wordBytes ((s.face d).padWords (lo * 128) (p.lines * 128) |>.map Prod.fst)) = p.crc)

/-- The seal checked again at release: a failure poisons every word of the parcel and writes a record. -/
def State.sealCheck (s : State) (d base src : Nat) (p : PRec) : State :=
  let fx := s.forced .parcelSeal (unitId 12 p.port 0 0 0)
  if s.sealHolds d base p && !fx.1 then s
  else
    let lo := base + p.offset / 128
    let s1 := loop (16 * p.lines) fx.2 (fun t k => t.modFace d (fun y =>
      { y with pad := mset {} y.pad (lo * 16 + k) { mget {} y.pad (lo * 16 + k) with poison := true } }))
    (s1.bump R.LNK_PARCEL_STAT.SEAL_FAIL p.port).raise
      { det := .parcelSeal, unit := unitId 12 p.port 0 0 0, addr := lo * 128, d0 := BitVec.ofNat 64 src
        d1 := BitVec.ofNat 64 p.seq, lface := d }

/-- The ready slot of the lowest sending hand number. -/
def Win.front (x : Win) : Option Nat :=
  (x.slots.foldl (fun acc e =>
    if e.2.st = .ready then
      match acc with
      | some (k, h) => if e.2.hand < h then some (e.1, e.2.hand) else some (k, h)
      | none => some (e.1, e.2.hand)
    else acc) none).map Prod.fst

/-- Skip empty slots at the front of a pipeline window that holds a backlog (R47). -/
def State.skipEmpty (s : State) (f w : Nat) : Nat → State
  | 0 => s
  | n + 1 =>
    let x := s.win f w
    let ready := (x.slots.filter (fun e => decide (e.2.st = .ready))).length
    match x.front with
    | some k => if (mget {} x.slots k).empty = true ∧ ready ≥ 2 then (s.freeSlot f w k).skipEmpty f w n else s
    | none => s

/-- The signal of window w's slot n on face d is lost: a re-deal does not give it again (R312). -/
def State.signalLost (s : State) (f w n d : Nat) : State :=
  let x := s.win f w
  let o := mget {} x.slots n
  s.modFace f (fun y => { y with wins := mset {} y.wins w { x with slots := mset {} x.slots n { o with lost := o.lost ++ [d] } } })

/-- The arrival signal of slot n: +1 to the arrival counter on each face of FANOUT (R325); a revoke is taken at entry, and the signal is
lost (R312). -/
def State.arrivalSignal (s : State) (f w n : Nat) : State :=
  let i := ix 256 f w
  let k := s.rd R.SYN_WIN_CFG.CTR i
  let fan := s.rd R.SYN_WIN_CFG.FANOUT i
  loop 8 s (fun t d =>
    if bit fan d && !(decide (d = f) && (mget {} (s.win f w).slots n).unmapped) && !(mget {} (s.win f w).slots n).lost.contains d then
      match t.ctrAdd d k 1 with
      | some u => u
      | none =>
        let img := revokeImage k false 3 (t.rd R.SYN_WIN_STATE.SRC i) d 1
        ((t.revokeRecord d img).modFace d (fun y => { y with entryTraps := y.entryTraps ++ [img] })).signalLost f w n d
    else t)

/-- Release a window's slot at a tick, or give a released slot's signal again in a re-deal (R28, R329, R333). DESIGN CHOICE (log entry 72): a
re-deal of a hand to which no slot was released runs without one again, and releases none that has become ready since; after a face reset it
takes the oldest slot not consumed (R48; `State.takeSlot`). -/
def State.releaseWindow (s : State) (redeal : Bool) (f w : Nat) : State :=
  let x := s.win f w
  let g := s.winGeom f w
  let fan := s.rd R.SYN_WIN_CFG.FANOUT (ix 256 f w)
  match (x.slots.find? (fun e => decide (e.2.st = .released))) with
  | some o => if o.2.empty then s else s.arrivalSignal f w o.1
  | none =>
    if redeal || decide (s.winState f w ≠ 2) then s
    else
      let s1 := if s.rd R.SYN_WIN_CFG.PIPE (ix 256 f w) = 1 then s.skipEmpty f w 4 else s
      let x1 := s1.win f w
      match x1.front with
      | none => s1
      | some k =>
        let o := mget {} x1.slots k
        let s2 := s1.setWin f w { x1 with slots := mset {} x1.slots k { o with st := .released } }
        if o.empty then s2
        else
          let base := g.1 + k * g.2.1
          let s3 := loop 8 s2 (fun t d => if bit fan d then
              o.parcels.foldl (fun u p => u.sealCheck d base (s.rd R.SYN_WIN_STATE.SRC (ix 256 f w)) p) t else t)
          s3.arrivalSignal f w k

/-- Step 3 of a hand over all windows. -/
def State.releaseWindows (s : State) (redeal : Bool) : State :=
  s.faces.foldl (fun t e => e.2.wins.foldl (fun u we => u.releaseWindow redeal e.1 we.1) t) s

/-- The released slot of the PIPE window that names face d: base, bytes, number, empty, stamps (R239, R325). -/
def State.pipeSlot (s : State) (d : Nat) : Option (Nat × WSlot) :=
  s.faces.findSome? (fun e => e.2.wins.findSome? (fun we =>
    if s.rd R.SYN_WIN_CFG.PIPE (ix 256 e.1 we.1) = 1 ∧ bit (s.rd R.SYN_WIN_CFG.FANOUT (ix 256 e.1 we.1)) d = true then
      (we.2.slots.find? (fun q => decide (q.2.st = .released))).map (fun q =>
        let g := s.winGeom e.1 we.1
        ((g.1 + q.1 * g.2.1) * 128, q.2))
    else none))

/-- Released slots are consumed at a commit (R30, R329). -/
def State.consumeSlots (s : State) : State :=
  s.faces.foldl (fun t e => e.2.wins.foldl (fun u we =>
    match ((u.win e.1 we.1).slots.find? (fun q => decide (q.2.st = .released))).map Prod.fst with
    | some k => u.freeSlot e.1 we.1 k
    | none => u) t) s

end Sys2Proof.Machine
end

