-- ==== Sys2Proof/Machine/Rings.lean ====
section
/-! DEFINITION. Rings, antes as the front reads them, and the records the front writes (13_requests_and_pages.md R365 to R372,
R404): the host's side of the serving unit. -/
namespace Sys2Proof.Machine

/-! ### Completion records (R368, R370 to R372) -/

/-- A ring. -/
def State.ring_ (s : State) (r : Nat) : Ring := mget {} s.rings r
def State.setRing (s : State) (r : Nat) (x : Ring) : State :=
  ({ s with rings := mset {} s.rings r x }).wr R.SRV_RING_STAT.BACKLOG r (min x.backlog.length 4096)

/-- Entries of a queue whose SIZE field is given. -/
def queueSize (n : Nat) : Nat := 2 ^ n

/-- Set PHASE in a record for the pass of the queue at which it is written (R368). -/
def phased (ws : List Word) (written size : Nat) : List Word :=
  match ws with
  | a :: b :: rest => a :: fput b 31 1 (if written / size % 2 = 0 then 1 else 0) :: rest
  | l => l

/-- Write a record that has space. -/
def State.cqWrite (s : State) (r : Nat) (ws : List Word) : State :=
  let x := s.ring_ r
  let size := queueSize (s.rd R.SRV_RING_CQ.SIZE r)
  let a := s.rd R.SRV_RING_CQ.ADDR r * 4096 + x.written % size * 64
  let s1 := (s.hostWrite 0 a (phased ws x.written size)).setRing r { x with written := x.written + 1 }
  let s2 := s1.wr R.SRV_RING_STAT.CQ_TAIL r ((x.written + 1) % 65536)
  if s.rd R.SRV_RING_CTL.IRQ r = 1 ∧ s2.irqs.contains (s.rd R.SRV_RING_CTL.VECTOR r) = false then
    { s2 with irqs := s2.irqs ++ [s.rd R.SRV_RING_CTL.VECTOR r] }
  else s2

/-- Space in the completion queue. -/
def State.cqSpace (s : State) (r : Nat) : Bool :=
  let x := s.ring_ r
  decide (x.written - x.head < queueSize (s.rd R.SRV_RING_CQ.SIZE r))

/-- A record for ring r: written, or behind the backlog (R371); dropped where no completion queue is set up, as after a function-level
reset (R594). -/
def State.cqPut (s : State) (r : Nat) (ws : List Word) : State :=
  let x := s.ring_ r
  if s.rd R.SRV_RING_CQ.SIZE r = 0 then s
  else if x.backlog.isEmpty && s.cqSpace r then s.cqWrite r ws
  else
    let s1 := s.setRing r { x with backlog := x.backlog ++ [ws] }
    if x.backlog.length + 1 ≥ 4096 then s1.wr R.SRV_RING_STAT.STALLED r 1 else s1

/-- Drain a backlog while there is space (fuel: its length). -/
def State.cqDrain (s : State) (r : Nat) : Nat → State
  | 0 => s
  | n + 1 =>
    let x := s.ring_ r
    match x.backlog with
    | [] => s
    | w :: rest => if s.cqSpace r then ((s.setRing r { x with backlog := rest }).cqWrite r w).cqDrain r n else s

/-- The ring's backlog is full (R371). -/
def State.ringFull (s : State) (r : Nat) : Bool := decide ((s.ring_ r).backlog.length ≥ 4096)

/-- Signal the vectors due, each at most once in a hand: one that has been signalled in it stays due (R372). -/
def State.ringIrqs (s : State) : State :=
  let now := s.irqs.filter (fun v => !s.irqDone.contains v)
  now.foldl (fun t v => t.msix 0 v) { s with irqs := s.irqs.filter s.irqDone.contains, irqDone := s.irqDone ++ now }

/-- The vectors due go out unless they wait, behind the mirrors of their hand, for records still to come (R35). -/
def State.irqsDue (s : State) : State := if s.hand.posted.isSome then s else s.ringIrqs

/-- What waited behind a hand's records goes out: mirrors, then vectors (R35). -/
def State.flushPosted (s : State) : State :=
  match s.hand.posted with
  | none => s
  | some os => (os.foldl State.emit { s with hand := { s.hand with posted := none } }).ringIrqs

/-- A completion record (R368), PHASE clear. -/
def mkRecord (tag handle kind code flags stampHi hand pos : Nat) (toks : List Nat) : List Word :=
  let t (i : Nat) : Nat := toks.getD i 0
  [BitVec.ofNat 64 (tag % 2 ^ 32 + handle % 2 ^ 32 * 2 ^ 32),
   BitVec.ofNat 64 (kind + code * 256 + toks.length * 65536 + flags * 2 ^ 24 + stampHi % 2 ^ 32 * 2 ^ 32),
   BitVec.ofNat 64 hand,
   BitVec.ofNat 64 (pos % 2 ^ 32 + t 0 * 2 ^ 32)] ++
  (List.range 4).map (fun i => BitVec.ofNat 64 (t (2 * i + 1) + t (2 * i + 2) * 2 ^ 32))

def handleIx (h : Nat) : Nat := h % 2 ^ 14

/-- A record decided for a ring of front `front`: written at the commit, or sent to that front.  Between a function-level reset of PF0 and
the boundary that folds its seats there is none (R594). -/
def State.record (s : State) (front r : Nat) (ws : List Word) : State :=
  let h := fget (ws.headD 0#64) 32 32
  let key := if h = 0xFFFFFFFF then 0 else (mget {} s.seats (handleIx h)).order + 1
  if front = s.devAddr ∧ s.hif.flrFold = true then s
  else if front = s.devAddr then { s with recs := s.recs ++ [{ ring := r, key := key, hand := (ws.getD 2 0#64).toNat, ws := ws }] }
  else s.emit (.serve front (1 :: r :: ws.map BitVec.toNat))

/-- A record as it is written at the commit of hand h: that hand produced it, but for a TOKENS record, which names its tokens' own. -/
def QRec.atCommit (q : QRec) (h : Nat) : List Word :=
  if fget (q.ws.getD 1 0#64) 0 8 = 3 then q.ws else q.ws.set 2 (BitVec.ofNat 64 h)

/-- Write the records that hands up to `upTo` decided, at the commit of hand h: ring by ring in ring order, and within a ring in the
order in which the seats were admitted (R370). -/
def State.writeRecs (s : State) (upTo h : Nat) : State :=
  let due := s.recs.filter (fun q => decide (q.hand ≤ upTo))
  let rs := (due.map (fun q => q.ring)).eraseDups.mergeSort
  let put (t : State) (r : Nat) : State :=
    ((due.filter (fun q => decide (q.ring = r))).mergeSort (fun a b => decide (a.key ≤ b.key))).foldl (fun u q => u.cqPut r (q.atCommit h)) t
  rs.foldl put { s with recs := s.recs.filter (fun q => decide (q.hand > upTo)) }

/-! ### Reading entries (R366, R367, R404) -/

/-- Bits of entry word i. -/
def entFld (e : Entry) (i lo wd : Nat) : Nat := fget (e.words.getD i 0#64) lo wd

/-- A BF16 code in a range: `q` on its value. -/
def bfOk (c : Nat) (q : FV → Bool) : Bool := q (ofBf16 c)

/-- ≥ 0, and finite. -/
def FV.nonneg (v : FV) : Bool := v.isFin && !(FV.lt v FV.zero)

/-- 1.0. -/
def FV.one : FV := FV.int 1

/-- The sampling block's ranges (R404). -/
def entSampleOk (e : Entry) (vocab : Nat) : Bool :=
  bfOk (entFld e 8 0 16) FV.nonneg &&
  bfOk (entFld e 8 16 16) (fun v => v.isFin && FV.lt FV.zero v && !(FV.lt FV.one v)) &&
  bfOk (entFld e 8 32 16) (fun v => v.nonneg && FV.lt v FV.one) &&
  bfOk (entFld e 8 48 16) (fun v => v.isFin && !(FV.lt v FV.one)) &&
  bfOk (entFld e 9 0 16) FV.isFin && bfOk (entFld e 9 16 16) FV.isFin &&
  decide (entFld e 9 32 16 ≤ 1024 ∧ entFld e 9 48 16 ≤ 4096 ∧ entFld e 10 0 16 ≤ 256 ∧ entFld e 10 16 8 ≤ 8) &&
  decide (entFld e 10 25 1 = 0 ∧ entFld e 10 28 4 = 0 ∧ entFld e 10 32 32 = 0) &&
  decide (entFld e 11 0 3 = 0 ∧ entFld e 12 0 2 = 0) &&
  decide (entFld e 13 0 64 = 0 ∧ entFld e 14 0 64 = 0 ∧ entFld e 15 0 64 = 0) &&
  (e.bias.take (entFld e 10 0 16)).all (fun b =>
    decide (fget b 0 18 < vocab ∧ fget b 18 14 = 0 ∧ fget b 48 16 = 0) &&
    (match ofBf16 (fget b 32 16) with
     | .nan => false
     | .inf n => n
     | _ => true)) &&
  (e.stops.take (entFld e 10 16 8)).all (fun q =>
    decide (1 ≤ q.headD 0 ∧ q.headD 0 ≤ 32) && ((q.drop 1).take (q.headD 0)).all (fun t => decide (t < vocab)))

/-- The fields of an ANTE that R366 bounds. -/
def entAnteOk (e : Entry) (vocab : Nat) : Bool :=
  decide (entFld e 0 0 8 = 1) && decide (entFld e 0 12 4 = 0) &&
  decide (entFld e 0 16 16 < 4096 ∨ entFld e 0 16 16 = 0xFFFF) &&
  (bit (entFld e 0 8 8) 1 != decide (entFld e 1 0 32 = 0xFFFFFFFF)) &&
  decide (1 ≤ entFld e 1 32 32 ∧ entFld e 1 32 32 ≤ 524288 ∧ 1 ≤ entFld e 2 0 32 ∧ entFld e 2 0 32 ≤ 524288) &&
  decide (entFld e 2 32 32 ≤ 604800) && decide (entFld e 3 0 2 = 0) &&
  decide (entFld e 6 0 8 < 64 ∨ entFld e 6 0 8 = 255) && decide (entFld e 6 8 8 ≤ 8 ∧ entFld e 6 16 8 ≤ 3) &&
  decide (entFld e 6 24 40 = 0 ∧ entFld e 7 0 64 = 0) && entSampleOk e vocab

/-- The fields of a FOLD: OPCODE, TAG and SEAT only (R366). -/
def entFoldOk (e : Entry) : Bool :=
  decide (entFld e 0 0 8 = 2 ∧ entFld e 0 8 24 = 0 ∧ entFld e 1 32 32 = 0) &&
  ((List.range 14).all (fun i => decide (entFld e (i + 2) 0 64 = 0)))

/-- CRC-32C of tokens: a history seal, and the seal of a prompt (R367). -/
def tokenSeal (ts : List Nat) : Nat := crc32c (ts.flatMap (fun t => leBytes t 4))

/-- The seal that the front takes of an entry as it reads it: entry, prompt and both lists (R367, R404). -/
def entrySeal (e : Entry) : Nat :=
  crc32c (wordBytes e.words ++ (e.prompt ++ e.stops.flatten).flatMap (fun t => leBytes t 4) ++ wordBytes e.bias)

/-- The ante that an entry of ring r makes (R366). -/
def entAnte (e : Entry) (r front ttlDefault : Nat) : Ante :=
  let p := e.prompt.take (entFld e 1 32 32)
  { ring := r, front := front, flags := entFld e 0 8 8
    prefixSet := if entFld e 0 16 16 = 0xFFFF then 4096 else entFld e 0 16 16
    tag := entFld e 0 32 32, base := entFld e 1 0 32, prompt := p, crc := tokenSeal p, maxTokens := entFld e 2 0 32
    ttl := if entFld e 2 32 32 = 0 then ttlDefault else entFld e 2 32 32
    deadline := entFld e 4 0 64
    rec_ :=
      { samp := { temp := entFld e 8 0 16, topP := entFld e 8 16 16, minP := entFld e 8 32 16, rep := entFld e 8 48 16
                  freq := entFld e 9 0 16, pres := entFld e 9 16 16, topK := entFld e 9 32 16, window := entFld e 9 48 16
                  ignoreEos := decide (entFld e 10 24 1 = 1), lookupN := entFld e 10 26 2 + 1 }
        bias := (e.bias.take (entFld e 10 0 16)).map (fun b => (fget b 0 18, fget b 32 16))
        stops := (e.stops.take (entFld e 10 16 8)).map (fun q => (q.drop 1).take (q.headD 0))
        hist := p.drop (p.length - 65536), seed := entFld e 5 0 64, maxTokens := entFld e 2 0 32
        grammar := entFld e 6 0 8, draftMax := entFld e 6 8 8, draftMode := entFld e 6 16 8, deadline := entFld e 4 0 64
        handle := 0, front := front, generated := [] } }

/-! ### Doorbells -/

/-- The index that a doorbell write of value v carries for a queue of `size` entries; none: malformed (R590). -/
def dbIndex (v size : Nat) : Option Nat := if v < size then some v else none

/-- SQ_DOORBELL (R365, R590): a write of v at offset 0 of ring r's doorbell, the new submission tail. -/
def execSqDoorbell (r v : Nat) (s : State) : Host.Outcome State Fault Refusal :=
  ok (if r ≥ 16384 then s
      else if s.rd R.SRV_RING_CTL.EN r = 0 then s.bump R.HIF_DB_STAT.DISABLED 0
      else match dbIndex v (queueSize (s.rd R.SRV_RING_SQ.SIZE r)) with
      | none => s.bump R.HIF_DB_STAT.BAD 0
      | some i => s.ringGuard .doorbell (fun _ => true) (fun t => (t.setRing r { t.ring_ r with tail := i }).bump R.HIF_DB_STAT.WRITES 0))

/-- CQ_DOORBELL (R365, R371, R590): a write of v at offset 8, the new completion head, returns space, and the backlog drains into it. -/
def execCqDoorbell (r v : Nat) (s : State) : Host.Outcome State Fault Refusal :=
  let size := queueSize (s.rd R.SRV_RING_CQ.SIZE r)
  ok (if r ≥ 16384 then s
      else if s.rd R.SRV_RING_CTL.EN r = 0 then s.bump R.HIF_DB_STAT.DISABLED 0
      else match dbIndex v size with
      | none => s.bump R.HIF_DB_STAT.BAD 0
      | some i => s.ringGuard .doorbell (fun _ => true) (fun s =>
        let x := s.ring_ r
        let t := s.bump R.HIF_DB_STAT.WRITES 0
        let d := (i + size - x.head % size) % size
        if d > x.written - x.head then t
        else ((t.setRing r { x with head := x.head + d }).cqDrain r x.backlog.length).irqsDue))

/-- The front takes the next submission entry of ring r, if one is submitted (R367). -/
def State.sqNext (s : State) (r : Nat) : Option State :=
  if r ≥ 16384 ∨ s.rd R.SRV_RING_CTL.EN r = 0 ∨ s.rd R.SRV_RING_STAT.SQ_HEAD r % queueSize (s.rd R.SRV_RING_SQ.SIZE r) = (s.ring_ r).tail then none
  else some (s.wr R.SRV_RING_STAT.SQ_HEAD r ((s.rd R.SRV_RING_STAT.SQ_HEAD r + 1) % 65536))

/-! ### The manager's queue -/

/-- An ante joins the held queue; with 16,384 held already it is refused HELD_FULL, unless an earlier reason holds. -/
def State.hold_ (s : State) (a : Ante) : State :=
  if s.antes.length ≥ 16384 ∧ a.bad = 0 then { s with antes := s.antes ++ [{ a with bad := 11 }] }
  else { s with antes := s.antes ++ [a] }

/-- A ring of a front, among all rings of the domain, in the order of the fronts' addresses. -/
def ringKey (front r : Nat) : Nat := front * 16384 + r
def Ante.key (a : Ante) : Nat := ringKey a.front a.ring

/-- A fold reaches the manager: handle, ring and TAG (R393). -/
def State.foldReq (s : State) (handle key tag : Nat) : State := { s with folds := s.folds ++ [(handle, key, tag)] }

/-- ANTE (R367): the front reads the next entry of ring r as an ante, with its prompt and lists, and forwards it to the manager.
`copy`: what its serving region of HBM then gives back; one whose seal differs refuses the ante. -/
def execAnte (r : Nat) (e copy : Entry) (s : State) : Host.Outcome State Fault Refusal :=
  ok (match s.sqNext r with
  | none => s
  | some t =>
    let a0 := entAnte e r s.devAddr (s.rd R.SRV_STOCK_CFG.TTL_DEFAULT 0)
    let a := { a0 with bad := if entAnteOk e (s.rd R.SRV_VOCAB.VOCAB 0) = false then 3 else if entrySeal copy = entrySeal e then 0 else 4 }
    if s.isManager then t.hold_ a
    else t.emit (.serve s.manager (2 :: r :: a.tag :: a.bad :: a.base :: a.prompt)))

/-- FOLD (R393): the front reads the next entry of ring r as a fold.  One that breaks R366 is answered REFUSED with BAD_FIELD and
acts on nothing. -/
def execFold (r : Nat) (e : Entry) (s : State) : Host.Outcome State Fault Refusal :=
  ok (match s.sqNext r with
  | none => s
  | some t =>
    if entFoldOk e = false then
      t.record s.devAddr r (mkRecord (entFld e 0 32 32) (entFld e 1 0 32) 6 3 0 0 s.handNum 0 [])
    else if s.isManager then t.foldReq (entFld e 1 0 32) (ringKey s.devAddr r) (entFld e 0 32 32)
    else t.emit (.serve s.manager [3, r, entFld e 0 32 32, entFld e 1 0 32]))

/-- FORWARDED_ANTE (R367, R393): an ante or a fold that another front forwarded reaches this device; the manager takes it. -/
def execForwardedAnte (src r : Nat) (fold : Bool) (e copy : Entry) (vocab ttl : Nat) (s : State) :
    Host.Outcome State Fault Refusal :=
  ok (if s.isManager = false then s
      else if fold then s.foldReq (entFld e 1 0 32) (ringKey src r) (entFld e 0 32 32)
      else s.hold_ { entAnte e r src ttl with bad := if entAnteOk e vocab = false then 3 else if entrySeal copy = entrySeal e then 0 else 4 })

end Sys2Proof.Machine
end

