-- ==== Sys2Proof/Machine/Serving.lean ====
section
/-! DEFINITION. The manager's seats: admission (R374 to R378), serving modes (R379), lanes and slots (R380, R381), folds, deadlines
and times to live (R391 to R395), and prefix sets (R387, R388). -/
namespace Sys2Proof.Machine

/-! ### Seats -/

def State.seat (s : State) (i : Nat) : Seat := mget {} s.seats i
def State.setSeat (s : State) (i : Nat) (x : Seat) : State := { s with seats := mset {} s.seats i x }
def State.modSeat (s : State) (i : Nat) (g : Seat → Seat) : State := s.setSeat i (g (s.seat i))

/-- Handle of a seat (R369). -/
def Seat.handle (x : Seat) (i : Nat) : Nat := i + x.gen % 2 ^ 18 * 2 ^ 14
def handleGen (h : Nat) : Nat := h / 2 ^ 14 % 2 ^ 18

/-- A handle is current (R369). -/
def State.current (s : State) (h : Nat) : Bool :=
  decide (h ≠ 0xFFFFFFFF) && decide ((s.seat (handleIx h)).gen % 2 ^ 18 = handleGen h) && decide ((s.seat (handleIx h)).st ≠ .free)

/-- Number of a state in SRV_SEAT. -/
def SeatSt.num : SeatSt → Nat
  | .free => 0 | .prefill => 1 | .decode => 2 | .drain => 3 | .stocking => 4 | .stocked => 5 | .recall => 6 | .carried => 1

/-- Own pages of a cache that are in HBM. -/
def Cache.hbmPages (c : Cache) : Nat := (c.pages.filter (fun e => decide (e.2.kind = 1 ∨ e.2.kind = 4))).length

def State.cacheOf (s : State) (i : Nat) : Cache := mget {} s.caches i
def State.setCache (s : State) (i : Nat) (c : Cache) : State := { s with caches := mset {} s.caches i c }

/-- The seat's committed state shows in SRV_SEAT (R373, R38). -/
def State.seatReg (s : State) (i : Nat) : State :=
  let x := s.seat i
  ((((s.wr R.SRV_SEAT.STATE i x.st.num).wr R.SRV_SEAT.GEN i x.gen).wr R.SRV_SEAT.RING i x.ring).wr R.SRV_SEAT.FRONT i x.front).wr
    R.SRV_SEAT.PAGES i (s.cacheOf i).hbmPages

/-- Every seat's register, at a commit; and the free counts (SRV_FREE). -/
def State.seatRegs (s : State) : State :=
  let t := s.seats.foldl (fun u e => u.seatReg e.1) s
  (t.wr R.SRV_FREE.FRAMES 0 (s.rd R.SRV_PAGE_CFG.FRAMES 0 - s.usedFrames.length)).wr
    R.SRV_FREE.SLOTS 0 (s.rd R.SRV_STOCK_SLOTS.SLOTS 0 - s.usedStock.length)

/-- The k-th number that a rising list does not hold. -/
def kthFree (used : List Nat) (k : Nat) : Nat := used.foldl (fun a u => if u ≤ a then a + 1 else a) k

/-- Tokens of a page, and of a prefix set. -/
def State.tpp (s : State) : Nat := 2 ^ s.rd R.SRV_PAGE_CFG.TPPL 0
def State.pfxTokens (s : State) (p : Nat) : Nat :=
  if p ≥ 4096 then 0 else s.rd R.SRV_PFX_STATE.PAGES p * s.tpp

/-- Committed length of a slot's seat, prefix included. -/
def State.lenOf (s : State) (d : SlotSeat) : Nat :=
  if (s.cacheOf d.seat).len = 0 then s.pfxTokens d.prefixSet else (s.cacheOf d.seat).len

/-- Declared own pages (R376). -/
def State.ownPages (s : State) (p m : Nat) : Nat := cdiv (p + m) s.tpp

/-- Decode cost (R377). -/
def State.costOf (s : State) (c n : Nat) : Nat :=
  max (cdiv (c * s.rd R.SRV_MODEL.BPT 0) (s.rd R.SRV_MODEL.RATE 0)) (cdiv (n * c) 1024 * s.rd R.SRV_MODEL.MQ 0) + s.rd R.SRV_MODEL.K0 0

/-- Decode share of the score budget of a lane (R377). -/
def State.decodeCap (s : State) : Nat := s.rd R.SRV_ADMIT.SCORE_BUDGET 0 * s.rd R.SRV_ADMIT.DECODE_FRAC 0 / 16

/-- The seat counts for its reservation and its lane (R374). -/
def Seat.active (x : Seat) : Bool := decide (x.st = .prefill ∨ x.st = .decode ∨ x.st = .drain ∨ x.st = .recall)

/-- Frames reserved of replica r's pipeline (R374), and frames of installed prefix sets. -/
def State.reserved (s : State) (r : Nat) : Nat :=
  s.seats.foldl (fun a e => a + (if e.2.replica ≠ r then 0 else if e.2.active then s.ownPages e.2.prompt e.2.maxTokens
    else if e.2.st = .stocking then (s.cacheOf e.1).hbmPages else 0)) 0
def State.pfxFrames (s : State) : Nat := s.prefixes.foldl (fun a e => a + e.2.frames.length) 0

/-- Lane total of a lane of a replica. -/
def State.laneTotal (s : State) (r l : Nat) : Nat :=
  s.seats.foldl (fun a e => if e.2.active && decide (e.2.replica = r ∧ e.2.lane = l) then a + e.2.cost else a) 0

/-- The lane that a cost takes: the smallest total within the cap, the lowest number on a tie. -/
def State.pickLane (s : State) (r cost : Nat) : Option Nat :=
  let best := (List.range (s.rd R.SRV_ADMIT.LANES 0)).foldl (fun (acc : Option (Nat × Nat)) l =>
    let t := s.laneTotal r l
    match acc with
    | none => some (l, t)
    | some (b, u) => if t < u then some (l, t) else some (b, u)) none
  match best with
  | some (l, t) => if t + cost ≤ s.decodeCap then some l else none
  | none => none

/-- Replica whose head is a device: by SYN_REPLICA, of those the manifest names. -/
def State.replicaOf (s : State) (front : Nat) : Option Nat :=
  (s.manifest.find? (fun d => decide (d.1 = front ∧ d.2.1 = 0))).map (fun d => d.2.2)

/-- The serving mode. -/
def State.mode (s : State) : Nat := s.rd R.SRV_MODE.MODE 0

/-- The seat behind a resume, where its handle is current. -/
def State.resumeBase (s : State) (a : Ante) : Option Nat :=
  if bit a.flags 1 && !a.stale && s.current a.base then some (handleIx a.base) else none

/-- Committed own length of a base: cache rows behind the prefix. -/
def State.ownLen (s : State) (i : Nat) : Nat := (s.cacheOf i).len - s.pfxTokens (s.seat i).prefixSet

/-- BAD_PREFIX or BAD_GRAMMAR (R378): the set or the automaton that an ante names is not there (0: both are).  A held ante is refused so
whenever it is considered (R396, R410). -/
def State.namedCode (s : State) (a : Ante) : Nat :=
  if a.prefixSet < 4096 ∧ s.rd R.SRV_PFX_STATE.STATE a.prefixSet ≠ 2 then 5
  else if a.rec_.grammar < 64 ∧ s.rd R.DLR_GRAM_STATE.STATE a.rec_.grammar ≠ 2 then 6
  else 0

/-- Reason of R378 for an ante (0: none), in the table's order; `prior`: antes held ahead of it. -/
def State.anteCode (s : State) (a : Ante) (prior : List Ante) : Nat :=
  let base := s.resumeBase a
  let baseSt := base.map (fun i => (s.seat i).st)
  let parked := decide (baseSt = some .stocking ∨ baseSt = some .stocked)
  let q := s.pfxTokens a.prefixSet
  let own := s.ownPages a.prompt.length a.maxTokens
  let c := q + a.prompt.length + a.maxTokens
  if s.rd R.KEY_SESSION.STATE 0 ≠ 2 ∨ s.mode ≤ 1 ∨ (s.mode = 4 ∧ a.carried = none ∧ parked = false) then 1
  else if (s.replicaOf a.front).isNone then 2
  else if a.bad = 3 then 3
  else if a.bad = 4 then 4
  else if s.namedCode a ≠ 0 then s.namedCode a
  else if q / s.tpp + own > 2048 then 7
  else if s.costOf c (1 + a.rec_.draftMax) > s.decodeCap then 8
  else if bit a.flags 1 && s.seats.any (fun e => decide (e.2.base = some a.base)) then 9
  else if base.isSome && (!parked || prior.any (fun b => bit b.flags 1 && !b.stale && decide (b.base = a.base))) then 9
  else match base with
    | some i =>
      let l := s.ownLen i
      if a.prompt.length ≤ l ∨ tokenSeal (a.prompt.take l) ≠ tokenSeal ((s.seat i).toks.take l) then 10
      else if a.bad = 11 then 11 else 0
    | none => if a.bad = 11 then 11 else 0

/-- The replica that admits an ante: its front's, IN; a carried seat's, any that is IN. -/
def State.carrier (s : State) (a : Ante) : Option Nat :=
  let isIn (r : Nat) : Bool := decide (s.rd R.SYN_REPLICA.STATE r = 2) && !(mget {} s.reps r).noNew
  match s.replicaOf a.front with
  | some r => if isIn r then some r
              else if a.carried.isSome then (s.manifest.find? (fun d => decide (d.2.1 = 0) && isIn d.2.2)).map (fun d => d.2.2)
              else none
  | none => none

/-- A seat index that is free; which one is not specified (R375). -/
def State.freeSeat (s : State) : Option (Nat × State) :=
  let used := (s.seats.filter (fun e => decide (e.2.st ≠ .free))).map Prod.fst
  if used.length ≥ 16384 then none
  else let d := s.draw; some (kthFree used (d.1 % (16384 - used.length)), d.2)

/-- The backlog of a ring of this front is full (R371); a front tells no other device of its backlogs. -/
def State.backedUp (s : State) (front r : Nat) : Bool := decide (front = s.devAddr) && s.ringFull r

/-- An ante fits (R377): replica and lane. -/
def State.fits (s : State) (a : Ante) (hand : Nat) : Option (Nat × Nat) :=
  let own := s.ownPages a.prompt.length a.maxTokens
  let c := s.pfxTokens a.prefixSet + a.prompt.length + a.maxTokens
  let cost := s.costOf c (1 + a.rec_.draftMax)
  let early := match a.carried with
    | some (_, _, h) => decide (hand < h)
    | none => false
  if early || s.backedUp a.front a.ring ||
     decide ((s.seats.filter (fun e => decide (e.2.st ≠ .free))).length ≥ 16384 ∧ (s.resumeBase a).isNone = true ∧ a.carried = none) then none
  else match s.carrier a with
    | some r =>
      if s.rd R.SRV_PAGE_CFG.FRAMES 0 < s.reserved r + s.pfxFrames + own then none else (s.pickLane r cost).map (fun l => (r, l))
    | none => none

/-- The last stage of replica r: the device whose dealer serves it. -/
def State.dealerOf (s : State) (r : Nat) : Nat :=
  ((s.manifest.filter (fun m => decide (m.2.2 = r))).foldl (fun a m => if a.2 ≤ m.2.1 then (m.1, m.2.1) else a) (s.devAddr, 0)).1

/-- What a seat record carries, in numbers (R402), and the seal under which the front sends it (R367). -/
def recNums (r : SeatRec) : List Nat :=
  let p := r.samp
  [r.handle, r.front, r.seed, r.maxTokens, r.grammar, r.draftMax, r.draftMode, r.deadline, p.temp, p.topP, p.minP, p.rep, p.freq, p.pres, p.topK,
   p.window, if p.ignoreEos then 1 else 0, p.lookupN] ++ r.bias.flatMap (fun b => [b.1, b.2]) ++ r.stops.flatten ++ r.hist ++ r.generated
def recSeal (r : SeatRec) : Nat := crc32c ((recNums r).flatMap (fun v => leBytes v 8))

/-- The front of a seat sends its record to the dealer's device when it is admitted (R402). -/
def State.sendRecord (s : State) (x : Seat) : State :=
  if x.front = s.devAddr then s.emit (.serve (s.dealerOf x.replica) (8 :: recSeal x.rec_ :: recNums x.rec_)) else s

/-- Admit an ante into hand `hand` (R375, R392): the seat, and its ADMITTED record. -/
def State.admitSeat (s : State) (a : Ante) (hand replica lane : Nat) : State :=
  let c := s.pfxTokens a.prefixSet + a.prompt.length + a.maxTokens
  let n := s.admitted
  let mk (x : Seat) (resume : Bool) : Seat :=
    { st := if resume then .recall else .prefill, gen := x.gen, ring := a.ring, front := a.front, replica := replica, tag := a.tag
      flags := a.flags, prefixSet := a.prefixSet, prompt := a.prompt.length, crc := a.crc, maxTokens := a.maxTokens, ttl := a.ttl
      deadline := a.deadline, rec_ := a.rec_, lane := lane, cost := s.costOf c (1 + a.rec_.draftMax), order := n
      toks := a.prompt, recalled := resume, base := if resume then some a.base else none
      reprefilled := a.carried.isSome || (bit a.flags 1 && !resume)
      -- the mark lasts for the life of the seat, resumed or carried (R359)
      mixed := x.mixed, stamp := x.stamp }
  let go (t : State) (i : Nat) (y : Seat) : State :=
    let h := y.handle i
    let y1 := { y with rec_ := { y.rec_ with handle := h } }
    let t1 := ({ t with admitted := n + 1, lastRing := a.key }).setSeat i y1
    let t2 := t1.bump R.SRV_STAT.ADMITTED 0
    (t2.sendRecord y1).record a.front a.ring (mkRecord a.tag h 1 0 ((if y.mixed then 1 else 0) + (if y.recalled then 4 else 0) + (if y.reprefilled then 2 else 0))
      ((y.stamp.map Prod.snd).getD 0) hand 0 [])
  match s.resumeBase a with
  | some i =>
    let x := s.seat i
    let y := mk { x with gen := x.gen + 1 } true
    let placed := s.ownLen i
    -- outbound moves stop: their pages are own again, and their stock slots free
    let cc := s.cacheOf i
    let all := cc.pages.all (fun e => decide (e.2.kind ≠ 3))
    go (s.setCache i cc) i { y with placed := placed, st := if all then .prefill else .recall }
  | none =>
    match a.carried with
    | some (h, _, _) => go s (handleIx h) (mk { s.seat (handleIx h) with gen := handleGen h } false)
    | none => match s.freeSeat with
      | some (i, t) => go t i (mk (t.seat i) false)
      | none => s

/-- Drop the i-th held ante. -/
def State.dropAnte (s : State) (i : Nat) : State := { s with antes := s.antes.eraseIdx i }

/-- A carried seat whose ante leaves the queue is freed at the next commit, without a record of its own. -/
def State.freeCarried (s : State) (a : Ante) : State :=
  match a.carried with
  | some (h, _, _) => s.modSeat (handleIx h) (fun x => { x with freeing := true, silent := true })
  | none => s

/-- Refuse a held ante in hand `hand`: REFUSED with its reason (R378). -/
def State.refuse (s : State) (i code hand : Nat) : State :=
  match s.antes[i]? with
  | none => s
  | some a => (((s.dropAnte i).freeCarried a).bump R.SRV_STAT.REFUSED 0).record a.front a.ring (mkRecord a.tag 0xFFFFFFFF 6 code 0 0 hand 0 [])

/-- First consideration of held antes: reasons of R378, before any fits (fuel: their number). -/
def State.screenAntes (s : State) (hand i : Nat) : Nat → State
  | 0 => s
  | n + 1 =>
    match s.antes[i]? with
    | none => s
    | some a =>
      let code := if a.first.isNone then s.anteCode a (s.antes.take i) else s.namedCode a
      if code ≠ 0 then (s.refuse i code hand).screenAntes hand i n else s.screenAntes hand (i + 1) n

/-- Oldest held ante of a ring, and rings that hold antes, ascending from the one after `r`. -/
def State.oldestOf (s : State) (r : Nat) : Option Nat := s.antes.findIdx? (fun a => decide (a.key = r))
def State.ringsFrom (s : State) (r : Nat) : List Nat :=
  let rs := ((s.antes.map Ante.key).eraseDups).mergeSort
  rs.filter (fun x => decide (x > r)) ++ rs.filter (fun x => decide (x ≤ r))

/-- The loop of R375 (fuel: antes and rings). -/
def State.admitLoop (s : State) (hand : Nat) (rings : List Nat) (visits done : Nat) : Nat → State
  | 0 => s
  | n + 1 =>
    match rings with
    | [] => s
    | r :: rest =>
      if done ≥ s.rd R.SRV_ADMIT.PER_HAND 0 ∨ visits ≥ ((s.antes.map Ante.key).eraseDups).length then s
      else match s.oldestOf r with
        | none => s.admitLoop hand rest visits done n
        | some i =>
          match s.antes[i]? with
          | none => s
          | some a =>
            match s.fits a hand with
            | some (rep, lane) =>
              let t := (s.dropAnte i).admitSeat a hand rep lane
              t.admitLoop hand (t.ringsFrom r) 0 (done + 1) n
            | none => s.admitLoop hand (rest ++ [r]) (visits + 1) done n

/-- Antes not admitted when first considered: HELD once, or REFUSED FULL where HOLD is clear (R375). -/
def State.heldRecords (s : State) (hand i : Nat) : Nat → State
  | 0 => s
  | n + 1 =>
    match s.antes[i]? with
    | none => s
    | some a =>
      if a.first.isSome then s.heldRecords hand (i + 1) n
      else if bit a.flags 0 = false ∧ a.carried = none then (s.refuse i 12 hand).heldRecords hand i n
      else
        let t : State := { s with antes := s.antes.set i { a with first := some hand, heldWritten := true } }
        let u := if a.carried.isSome then t
          else (t.bump R.SRV_STAT.HELD 0).record a.front a.ring (mkRecord a.tag 0xFFFFFFFF 2 0 0 0 hand 0 [])
        u.heldRecords hand (i + 1) n

/-- SRV_HELD (R375), which host software reads as the last commit left it (R38). -/
def State.heldReg (s : State) (hand : Nat) : State :=
  let old := s.antes.foldl (fun a x => max a (match x.first with
    | some h => hand - h
    | none => 0)) 0
  (s.wr R.SRV_HELD.DEPTH 0 (min s.antes.length 16384)).wr R.SRV_HELD.OLDEST 0 (min old 65535)

/-- Admission for hand `hand` (R375). -/
def State.admission (s : State) (hand : Nat) : State :=
  let s1 := s.screenAntes hand 0 s.antes.length
  let s2 := s1.admitLoop hand (s1.ringsFrom s1.lastRing) 0 0 (2 * s1.antes.length * (s1.antes.length + 1) + 1)
  s2.heldRecords hand 0 s2.antes.length

/-! ### Slots (R380, R381) -/

/-- A decode seat's place. -/
def Seat.decodeDesc (x : Seat) (i len : Nat) : SlotSeat :=
  { seat := i, kind := 0, drafts := x.drafts.length, ntok := 1 + x.drafts.length, pos := len
    toks := (x.toks.drop (x.toks.length - 1)) ++ x.drafts, prefixSet := x.prefixSet, void := false }

/-- Largest chunk whose cost fits in what is left (R381); n falls from its bound (fuel). -/
def State.chunkFit (s : State) (l left : Nat) : Nat → Nat
  | 0 => 0
  | n + 1 => if s.costOf (l + n + 1) (n + 1) ≤ left then n + 1 else s.chunkFit l left n

/-- Seats of a replica by admission. -/
def State.byOrder (s : State) (r : Nat) : List (Nat × Seat) :=
  (s.seats.filter (fun e => e.2.active && decide (e.2.replica = r))).mergeSort (fun a b => decide (a.2.order ≤ b.2.order))

/-- The slot that replica r's head forms in hand `hand` with at most `limit` seats (R380, R381). -/
def State.formSlot (s : State) (r hand limit : Nat) : State :=
  let lanes := s.rd R.SRV_ADMIT.LANES 0
  let seats := s.byOrder r
  let dec := (seats.filter (fun e => decide (e.2.st = .decode ∧ e.2.lane = hand % lanes) && e.2.inFlight.isEmpty &&
    !s.backedUp e.2.front e.2.ring && !e.2.freeing)).take limit
  let cost := dec.foldl (fun a e => a + e.2.cost) 0
  let descs := dec.map (fun e => e.2.decodeDesc e.1 (s.cacheOf e.1).len)
  let s1 := dec.foldl (fun t e => t.modSeat e.1 (fun x => { x with inFlight := x.inFlight ++ [hand] })) s
  let fill := (seats.filter (fun e => decide (e.2.st = .prefill) && !e.2.freeing && !s.backedUp e.2.front e.2.ring)).foldl
    (fun (acc : State × Nat × List SlotSeat) e =>
      let x := e.2
      let rest := x.prompt - x.placed
      let l := s.pfxTokens x.prefixSet + x.placed
      let n := s.chunkFit l acc.2.1 (min rest (s.rd R.SRV_ADMIT.CHUNK_MAX 0))
      if acc.2.2.length ≥ limit ∨ n = 0 ∨ (n = rest ∧ x.acked = false) then acc
      else
        let d : SlotSeat := { seat := e.1, kind := if n = rest then 2 else 1, drafts := 0, ntok := n, pos := l
                              toks := (x.toks.drop x.placed).take n, prefixSet := x.prefixSet, void := false }
        let used := s.costOf (l + n) n
        (acc.1.modSeat e.1 (fun y => { y with placed := y.placed + n, inFlight := y.inFlight ++ [hand] }),
         acc.2.1 - used, acc.2.2 ++ [d]))
    (s1, s.rd R.SRV_ADMIT.SCORE_BUDGET 0 - cost, descs)
  { fill.1 with slots := mset [] fill.1.slots hand fill.2.2 }

/-! ### Freeing, folds, deadlines, times to live -/

/-- Return the frames and stock slots of a cache to their free lists. -/
def State.freeCache (s : State) (c : Cache) : State :=
  c.pages.foldl (fun t e =>
    let t1 := if e.2.kind = 1 ∨ e.2.kind = 4 then { t with usedFrames := mset false t.usedFrames e.2.frame false } else t
    if e.2.kind ≥ 3 then { t1 with usedStock := mset false t1.usedStock e.2.stock false } else t1) s

/-- Return a seat's frames and stock slots, and drop what the device holds of its cache (R373). -/
def State.freePages (s : State) (i : Nat) : State := (s.freeCache (s.cacheOf i)).setCache i {}

/-- The record that goes with a freed seat: EXPIRED, or END with its code (R373). -/
def State.endRecord (s : State) (i kind code : Nat) : State :=
  let x := s.seat i
  let fl := (if x.mixed then 1 else 0) + (if x.reprefilled then 2 else 0) + (if x.recalled then 4 else 0)
  s.record x.front x.ring (mkRecord x.tag (x.handle i) kind code fl ((x.stamp.map Prod.snd).getD 0) s.handNum 0 [])

/-- A seat takes the stamp of a slot that released tokens or advanced its cache length: mixed where the stamp spans versions or differs
from the one recorded before (R359).  A hand that read no image has no stamp. -/
def stampSeen (mixed : Bool) (was : Option (Nat × Nat)) (lo hi : Nat) : Bool × Option (Nat × Nat) :=
  if hi = 0 then (mixed, was) else (mixed || decide (lo < hi) || decide (was ≠ none ∧ was ≠ some (lo, hi)), some (lo, hi))
def Seat.seeStamp (x : Seat) (lo hi : Nat) : Seat :=
  let r := stampSeen x.mixed x.stamp lo hi
  { x with mixed := r.1, stamp := r.2 }
def Cache.seeStamp (c : Cache) (lo hi : Nat) : Cache :=
  let r := stampSeen c.mixed c.stamp lo hi
  { c with mixed := r.1, stamp := r.2 }

/-- Free a seat: a new generation; references to its prefix set and grammar fall. -/
def State.freeSeatNow (s : State) (i : Nat) : State :=
  let x := s.seat i
  let s1 := s.freePages i
  { s1.setSeat i { gen := x.gen + 1 } with drecs := mset {} s1.drecs i {} }

/-- Seats whose freeing is due at this commit (R373, R391, R394, R395): the END or EXPIRED record, then FREE. -/
def State.freeDue (s : State) : State :=
  s.seats.foldl (fun t e =>
    let x := e.2
    if x.freeing then
      let t1 := if x.silent then t
        else if x.endCode = 255 then (t.bump R.SRV_STAT.EXPIRED 0).endRecord e.1 5 0
        else if x.endCode = 0 then t else t.endRecord e.1 4 x.endCode
      t1.freeSeatNow e.1
    else t) ({ s.limbo.foldl (fun t c => t.freeCache c) s with limbo := [] })

/-- A draining seat whose last hand in flight has committed leaves at the commit of the next hand (R373). -/
def State.drainDue (s : State) : State :=
  s.seats.foldl (fun t e =>
    if e.2.st = .drain ∧ e.2.inFlight = [] then t.modSeat e.1 (fun x => { x with freeing := true }) else t) s

/-- Make the descriptors of a seat VOID in slots already formed (R394). -/
def State.voidSeat (s : State) (i : Nat) : State :=
  { s with slots := s.slots.map (fun e => (e.1, e.2.map (fun d => if d.seat = i then { d with void := true } else d))) }

/-- Cancel a seat with an END code (R394, R395): by state and mode. -/
def State.cancelSeat (s : State) (i code : Nat) : State :=
  let x := s.seat i
  match x.st with
  | .prefill | .decode =>
    if s.mode = 2 then s.modSeat i (fun y => { y with st := .drain, endCode := code })
    else (s.modSeat i (fun y => { y with endCode := code, freeing := true })).voidSeat i
  | .recall | .stocking | .stocked => s.modSeat i (fun y => { y with endCode := code, freeing := true })
  | _ => s

/-- A fold at a boundary (R393, R394): a seat's, or the oldest held ante of a ring with a TAG. -/
def State.foldNow (s : State) (q : Nat × Nat × Nat) : State :=
  if q.1 = 0xFFFFFFFF then
    match s.antes.findIdx? (fun a => decide (a.key = q.2.1 ∧ a.tag = q.2.2)) with
    | some i => match s.antes[i]? with
      | some a => ((s.dropAnte i).freeCarried a).record a.front a.ring
          (mkRecord a.tag (match a.carried with | some (h, _, _) => h | none => 0xFFFFFFFF) 4 7 0 0 s.handNum 0 [])
      | none => s
    | none => s
  else if s.current q.1 = false then s
  else if (s.seat (handleIx q.1)).st ≠ .carried then s.cancelSeat (handleIx q.1) 7
  else
    -- a carried seat that waits is folded as a held ante (R470)
    match s.antes.findIdx? (fun a => match a.carried with | some (h, _, _) => decide (h = q.1) | none => false) with
    | some i => match s.antes[i]? with
      | some a => ((s.dropAnte i).freeCarried a).record a.front a.ring (mkRecord a.tag q.1 4 7 2 0 s.handNum 0 [])
      | none => s
    | none => s

/-- Folds held by the manager at a boundary; a base that is freed turns a held resume into a re-prefill (R396). -/
def State.bdyFolds (s : State) : State :=
  let s1 := s.folds.foldl (fun t q => t.foldNow q) { s with folds := [] }
  { s1 with antes := s1.antes.map (fun a => if bit a.flags 1 && (!s1.current a.base || (s1.seat (handleIx a.base)).freeing) then
      { a with stale := true } else a) }

/-- Times to live at a boundary: seats whose expiry is at or before E of the next hand are freed at its commit (R391). -/
def State.bdyTtl (s : State) (e : Nat) : State :=
  s.seats.foldl (fun t x =>
    if (x.2.st = .stocking ∨ x.2.st = .stocked) ∧ x.2.freeing = false ∧ x.2.expires ≤ e then
      t.modSeat x.1 (fun y => { y with endCode := 255, freeing := true })
    else t) s

/-- Deadlines of held antes at a commit with E (R395). -/
def State.heldLate (s : State) (e i : Nat) : Nat → State
  | 0 => s
  | n + 1 =>
    match s.antes[i]? with
    | none => s
    | some a => if a.deadline ≠ 0 ∧ e > a.deadline then (s.refuse i 13 s.handNum).heldLate e i n else s.heldLate e (i + 1) n

/-- Deadlines at a commit with E (R395): held antes; PREFILL and RECALL seats; a DECODE seat ends in the dealer's hand. -/
def State.deadlines (s : State) (e : Nat) : State :=
  let s1 := s.heldLate e 0 s.antes.length
  s1.seats.foldl (fun t x =>
    let late := decide (x.2.deadline ≠ 0 ∧ e > x.2.deadline) && !x.2.freeing
    if late then
      match x.2.st with
      | .prefill => t.cancelSeat x.1 8
      | .recall => t.modSeat x.1 (fun y => { y with endCode := 8, freeing := true })
      | _ => t
    else t) s1

/-- TTL_EXPIRY (R391): a stocked seat's time to live has passed; it is freed with EXPIRED at the commit of the next hand. -/
def execTtlExpiry (i : Nat) (s : State) : Host.Outcome State Fault Refusal :=
  let x := s.seat i
  ok (if (x.st = .stocking ∨ x.st = .stocked) ∧ x.freeing = false ∧ x.expires ≤ s.now then
        s.modSeat i (fun y => { y with endCode := 255, freeing := true })
      else s)

/-- DEADLINE (R395): the deadline of seat i, or of held ante i, has passed at E. -/
def execDeadline (held : Bool) (i : Nat) (s : State) : Host.Outcome State Fault Refusal :=
  ok (if held then
        match s.antes[i]? with
        | some a => if a.deadline ≠ 0 ∧ s.now > a.deadline then s.refuse i 13 s.handNum else s
        | none => s
      else
        let x := s.seat i
        if x.deadline = 0 ∨ s.now ≤ x.deadline ∨ x.freeing = true then s
        else match x.st with
          | .prefill => s.cancelSeat i 8
          | .recall => s.modSeat i (fun y => { y with endCode := 8, freeing := true })
          -- every token of the hand is dropped and the seat ends, never stocked; freed at the commit of the next hand
          | .decode => s.modSeat i (fun y => { y with endCode := 8, freeing := true })
          | _ => s)

/-! ### Modes and prefix sets -/

/-- A new serving mode at a boundary (R379); on leaving SERVE, draining seats are freed at the commit of the next hand (R396). -/
def State.bdyMode (s : State) : State :=
  match s.modeReq with
  | none => s
  | some m =>
    let s1 := { s with modeReq := none }.wr R.SRV_MODE.MODE 0 m
    if s.mode = 2 ∧ m ≠ 2 then
      s1.seats.foldl (fun t e => if e.2.st = .drain then t.modSeat e.1 (fun x => { x with freeing := true }) else t) s1
    else s1

/-- SRV_MODE (R379): values above 4 are refused, and OFF or STARTUP while a seat of the device's rings is not FREE or an ante of
them is held. -/
def execSrvMode (m : Nat) (s : State) : Host.Outcome State Fault Refusal :=
  let busy := s.seats.any (fun e => decide (e.2.st ≠ .free ∧ e.2.front = s.devAddr)) ||
    s.antes.any (fun a => decide (a.front = s.devAddr))
  ok (if m > 4 ∨ (m ≤ 1 ∧ busy = true) then s else State.orNow { s with modeReq := some m } State.bdyMode)

/-- Take k free frames, whichever they are. -/
def State.takeFrames (s : State) : Nat → State × List Nat
  | 0 => (s, [])
  | k + 1 =>
    let used := s.usedFrames.map Prod.fst
    let d := s.draw
    let x := kthFree used (d.1 % (s.rd R.SRV_PAGE_CFG.FRAMES 0 - used.length))
    let r := State.takeFrames { d.2 with usedFrames := mset false d.2.usedFrames x true } k
    (r.1, x :: r.2)

/-- Prefix sets at a boundary: read ones become INSTALLED (R387). -/
def State.bdyPrefix (s : State) : State :=
  s.prefixes.foldl (fun t e => if e.2.ready then
      (({ t with prefixes := mset {} t.prefixes e.1 { e.2 with ready := false } }).wr R.SRV_PFX_STATE.STATE e.1 2) else t) s

/-- References to a prefix set: seats in any state but FREE. -/
def State.pfxRefs (s : State) (p : Nat) : Nat :=
  (s.seats.filter (fun e => decide (e.2.st ≠ .free ∧ e.2.prefixSet = p))).length

/-- Prefix sets at a commit: REFS; a REMOVING set with no references frees its frames and becomes ABSENT (R388). -/
def State.commitPrefix (s : State) : State :=
  s.prefixes.foldl (fun t e =>
    let n := t.pfxRefs e.1
    let t1 := t.wr R.SRV_PFX_STATE.REFS e.1 n
    if t.rd R.SRV_PFX_STATE.STATE e.1 = 3 ∧ n = 0 then
      let t2 := (t1.wr R.SRV_PFX_STATE.STATE e.1 0).wr R.SRV_PFX_STATE.PAGES e.1 0
      { t2 with usedFrames := e.2.frames.foldl (fun m x => mset false m x false) t2.usedFrames
                prefixes := mset {} t2.prefixes e.1 {} }
    else t1) s

/-- PFX_INSTALL (R387): SRV_PFX_CTL.INSTALL for SET and PAGES. -/
def execPfxInstall (s : State) : Host.Outcome State Fault Refusal :=
  let p := s.rd R.SRV_PFX_CTL.SET 0
  let n := s.rd R.SRV_PFX_CTL.PAGES 0
  let free := s.rd R.SRV_PAGE_CFG.FRAMES 0
  ok (if n = 0 ∨ n > 64 ∨ s.rd R.SRV_PFX_STATE.STATE p ≠ 0 ∨ free < s.reserved ((s.place.map (fun q => q.2.1)).getD 0) + s.pfxFrames + n ∨ free < s.usedFrames.length + n then
        s.wr R.SRV_PFX_STATE.FAILED p 1
      else
        let t := s.takeFrames n
        ({ t.1 with prefixes := mset {} t.1.prefixes p { frames := t.2, ready := false } }.wr R.SRV_PFX_STATE.STATE p 1).wr
          R.SRV_PFX_STATE.PAGES p n)

/-- HBM granules of a run's seal table, and of a share, are written by the serving unit word by word. -/
def State.hbmPatch (s : State) (a : Nat) (v : Word) : State :=
  let g := a / 128
  let r := s.hbmRead g
  r.1.hbmWrite g (r.2.set (a / 8 % 16) (v, false))

/-- Where frame x's share and seal table lie on face f (R382). -/
def State.shareAddr (s : State) (f x : Nat) : Nat :=
  (s.rd R.SRV_FACE_PAGES.SHARE_BASE f + x * s.rd R.SRV_PAGE_CFG.SHARE 0) * 4096
def State.sealAddr (s : State) (f x : Nat) : Nat :=
  (s.rd R.SRV_FACE_SEALS.SEAL_BASE f + x * s.rd R.SRV_PAGE_CFG.RUNS 0) * 16

/-- Write a share's words, `bad` of them poisoned, and its seal entries, both slots equal (R387, R493). -/
def State.putShare (s : State) (f x : Nat) (body seals : List Word) (bad : Nat → Bool) : State :=
  let a := s.shareAddr f x
  let s1 := loop (s.rd R.SRV_PAGE_CFG.SHARE 0 * 32) s (fun t j =>
    t.hbmWrite (a / 128 + j) ((List.range 16).map (fun k => (body.getD (16 * j + k) 0#64, bad (16 * j + k)))))
  loop (s.rd R.SRV_PAGE_CFG.RUNS 0) s1 (fun t r =>
    let e := s.sealAddr f x + 16 * r
    (t.hbmPatch e (seals.getD r 0#64)).hbmPatch (e + 8) (seals.getD r 0#64))

/-- PREFIX_INSTALLED (R387): the set's shares have been read from the host (by page, then face; words and run seals, which the
device computes over full runs); it becomes INSTALLED at the next boundary. -/
def execPrefixInstalled (p : Nat) (shares : List (List Word × List Word)) (s : State) : Host.Outcome State Fault Refusal :=
  let x := mget {} s.prefixes p
  ok (if s.rd R.SRV_PFX_STATE.STATE p ≠ 1 then s
      else
        let n := s.nFaces
        let t := (x.frames.zip (List.range x.frames.length)).foldl (fun t e => loop n t (fun u f =>
          let sh := shares.getD (e.2 * n + f) ([], [])
          u.putShare f e.1 sh.1 sh.2 (fun _ => false))) s
        State.orNow { t with prefixes := mset {} t.prefixes p { x with ready := true } } State.bdyPrefix)

/-- PFX_REMOVE (R388): SRV_PFX_CTL.REMOVE makes an INSTALLED set REMOVING. -/
def execPfxRemove (s : State) : Host.Outcome State Fault Refusal :=
  let p := s.rd R.SRV_PFX_CTL.SET 0
  ok (if s.rd R.SRV_PFX_STATE.STATE p ≠ 2 then s
      else
        let t := s.wr R.SRV_PFX_STATE.STATE p 3
        if t.ticking then t else t.commitPrefix)

end Sys2Proof.Machine
end

