-- ==== Sys2Proof/Machine/VectorRun.lean ====
section
/-! DEFINITION. What a VOP computes (06_score_and_vector_engines.md R187 to R193, 10_ifeom_engine_instructions.md R305 to R308), applied to
the face when the operation completes. -/
namespace Sys2Proof.Machine

/-- Format of a code of R305 that names elements. -/
def vFmt (c : Nat) : Fmt := if c = 0 then .bf16 else if c = 1 then .e4m3 else if c = 2 then .e5m2 else .int8

/-- An element read: its value and whether its word was delivered poisoned. -/
abbrev VE := FV × Bool

/-- Row r of a plain operand. -/
def Face.rowAt (x : Face) (base c r cols : Nat) : List VE :=
  let b := base + r * vopStride c cols
  (List.range cols).map (fun i =>
    let n := x.padNum (b + i * vopBytes c) (vopBytes c)
    (ofFmt (vFmt c) n.1, n.2))

/-- An output element: code, what its conversion counts, poison. -/
abbrev VO := (Nat × Conv) × Bool

/-- Bytes of output elements. -/
def voBytes (size : Nat) (os : List VO) : List (Nat × Bool) :=
  os.flatMap (fun o => (leBytes o.1.1 size).map (fun b => (b, o.2)))

/-- Count the conversions of outputs (VEC_NUM_STAT, R142). -/
def State.vecCount (s : State) (f : Nat) (cs : List Conv) : State :=
  ((s.bumpBy R.VEC_NUM_STAT.NAN_OUT f (cs.filter (· = .toNan)).length).bumpBy R.VEC_NUM_STAT.SAT_OUT f
    (cs.filter (· = .sat)).length).bumpBy R.VEC_NUM_STAT.INF_OUT f (cs.filter (· = .toInf)).length

/-- Write a row of outputs and count. -/
def State.vecRow (s : State) (f a size : Nat) (os : List VO) : State :=
  (s.progStore f a (voBytes size os)).vecCount f (os.map (fun o => o.1.2))

/-- A parameter of the buffer: BF16 value and poison. -/
def Face.param (x : Face) (i : Nat) : VE := (ofBf16 (mget 0 x.params i), mget false x.paramPoison i)

/-- Poison of a whole row. -/
def anyP (xs : List VE) : Bool := xs.any Prod.snd

/-- An element-wise function of two rows (the second empty where one operand is used). -/
def zipRow (g : FV → FV → Nat × Conv) : List VE → List VE → List VO
  | a :: as, b :: bs => (g a.1 b.1, a.2 || b.2) :: zipRow g as bs
  | _, _ => []

/-- The element-wise function of an operation code that is not per-channel (R188, R189). -/
def vopElem (op : Nat) (t : Fmt) (a b : FV) : Nat × Conv :=
  if op = 0 then convertTo t (rne32 (FV.add a b))
  else if op = 1 then convertTo t (rne32 (FV.add a b.neg))
  else if op = 2 then convertTo t (rne32 (FV.mul a b))
  else if op = 13 then convertTo t a
  else elemFn op t a b

/-- One row of a per-channel or per-row operation: SCALE, RMSNORM, LAYERNORM (R188, R191). -/
def normRow (op : Nat) (t : Fmt) (eps : FV) (x : Face) (po cols : Nat) (row : List VE) : List VO :=
  let g (i : Nat) : VE := x.param (po + i)
  let b (i : Nat) : VE := x.param (po + cols + i)
  let n := FV.int cols
  let sq := row.map (fun v => FV.mul v.1 v.1)
  let p := anyP row
  let idx := row.zip (List.range cols)
  if op = 3 then
    idx.map (fun e => (convertTo t (rne32 (FV.add (rne32 (FV.mul e.1.1 (g e.2).1)) (b e.2).1)), e.1.2 || (g e.2).2 || (b e.2).2))
  else if op = 4 then
    let ms := divRne32 (chunked32 sq) n
    let r := rsqrt32 (rne32 (FV.add ms eps))
    idx.map (fun e => (convertTo t (rne32 (FV.mul (rne32 (FV.mul e.1.1 r)) (g e.2).1)), p || (g e.2).2))
  else
    let mu := divRne32 (chunked32 (row.map Prod.fst)) n
    let v0 := rne32 (FV.add (divRne32 (chunked32 sq) n) (FV.mul mu mu).neg)
    let va := if FV.lt v0 FV.zero then FV.zero else v0
    let r := rsqrt32 (rne32 (FV.add va eps))
    idx.map (fun e =>
      (convertTo t (rne32 (FV.add (rne32 (FV.mul (rne32 (FV.mul (rne32 (FV.add e.1.1 mu.neg)) r)) (g e.2).1)) (b e.2).1)),
       p || (g e.2).2 || (b e.2).2))

/-- REDUCE of a row: 0 sum, 1 maximum, 2 minimum. -/
def reduceRow (mode : Nat) (row : List VE) : VO :=
  let vs := row.map Prod.fst
  let v := match vs with
    | [] => FV.zero
    | a :: as => if mode = 0 then chunked32 vs else as.foldl (if mode = 1 then FV.maxv else FV.minv) a
  (convertTo .bf16 v, anyP row)

/-- Round half to even of a quotient of finite values (den not zero). -/
def roundQuot (num den : FV) : Int :=
  match num, den with
  | .fin a m e, .fin b k g =>
    let sh := e - g
    let n := if 0 ≤ sh then m <<< sh.toNat else m
    let d := if 0 ≤ sh then k else k <<< (-sh).toNat
    if d = 0 then 0
    else
      let q := n / d
      let r := 2 * (n % d)
      let c := if r > d ∨ (r = d ∧ q % 2 = 1) then q + 1 else q
      if a != b then -(c : Int) else (c : Int)
  | _, _ => 0

/-- The smallest BF16 code of a positive value at least v. -/
def ceilBf16 (v : FV) : Nat :=
  match v with
  | .fin _ m e =>
    let f := floorCode .bf16 m e
    if f.2 then 0x7F80 else if FV.lt (ofBf16 f.1) v then f.1 + 1 else f.1
  | .inf _ => 0x7F80
  | .nan => 0x7FC0

/-- QUANT of a row (R192): z, xs (BF16 code), and the values u with whether each was clamped.  Where the row holds a NaN, or an
infinity in MINMAX mode, the spec states no result, and the values are free. -/
def quantRow (fixed : Bool) (imm0 imm1 : Nat) (row : List FV) : Nat × Nat × List (Nat × Bool) :=
  let open_ := row.any (fun v => v.isNan || (!fixed && !v.isFin))
  let lo := row.foldl FV.minv FV.zero
  let hi := row.foldl FV.maxv FV.zero
  let span := rne32 (FV.add hi lo.neg)
  let same := decide (FV.lt lo hi = false)
  let xs := if fixed then imm0 else if open_ then Config.ulpChoice 65 row.length 0 % 65536
    else if same then 0x3F80 else ceilBf16 (divRne32 span (FV.int 255))
  let z := if fixed then imm1 else if open_ then Config.ulpChoice 66 row.length 0 % 256
    else if same then 0 else (clampInt 0 255 (roundQuot lo.neg (ofBf16 xs))).toNat
  (z, xs, (row.zip (List.range row.length)).map (fun e =>
    if e.1.isNan || (!fixed && open_) then (Config.ulpChoice 67 (opBits e.1) e.2 % 256, false)
    else
      let q := divRne32 e.1 (ofBf16 xs)
      match q with
      | .nan => (Config.ulpChoice 67 (opBits e.1) e.2 % 256, false)
      | .inf n => (if n then 0 else 255, true)
      | _ =>
        let i := roundEven q + (z : Int)
        let c := clampInt 0 255 i
        (c.toNat, decide (c ≠ i))))

/-- The order of TOPK: larger first, equal values by ascending index (R193). -/
def topkPick (xs : List (FV × Nat)) : Nat → List (FV × Nat)
  | 0 => []
  | k + 1 =>
    match xs with
    | [] => []
    | a :: as =>
      let best := as.foldl (fun b c => if FV.lt b.1 c.1 then c else b) a
      best :: topkPick (xs.filter (fun e => decide (e.2 ≠ best.2))) k

/-- rne32 of log₂ e. -/
def log2e32 : FV := ofFp32 0x3FB8AA3B#32

/-- TOPK of a row: k values and indices, with the optional softmax; where the row has fewer than k values the spec states no
result for the rest, and they are free. -/
def topkRow (k : Nat) (soft : Bool) (row : List FV) : List ((Nat × Conv) × Nat) :=
  if row.any FV.isNan then List.replicate k ((0x7FC0, .toNan), 0xFFFF)
  else
    let t := topkPick (row.zip (List.range row.length)) k
    let vals : List FV :=
      if soft then
        let s := t.map (fun e => rne32 (FV.mul e.1 log2e32))
        let m := s.foldl FV.maxv (.inf true)
        let p := s.map (fun v => exp2b (rne32 (FV.add v m.neg)))
        let l := chunked32 p
        p.map (fun v => divRne32 v l)
      else t.map Prod.fst
    (vals.zip t).map (fun e => (toBf16 e.1, e.2.2)) ++
      (List.range (k - t.length)).map (fun i => ((Config.ulpChoice 68 i 0 % 65536, .plain), Config.ulpChoice 69 i 0 % 65536))

/-- Accumulate a run of rows into a channel's registers (R190), in chunks of 32 rows. -/
def statAdd (c : StatCh) (xs : List VE) : StatCh :=
  let vs := xs.map Prod.fst
  let ch := chunksOf 32 vs.length
  let sum := chunkSum (ofFp32 c.sum) (ch vs)
  let sq := chunkSum (ofFp32 c.sq) (ch (vs.map (fun v => FV.mul v v)))
  match vs with
  | [] => c
  | v :: rest =>
    let l0 := if c.rows = 0 then v else FV.minv (ofFp32 c.lo) v
    let h0 := if c.rows = 0 then v else FV.maxv (ofFp32 c.hi) v
    { sum := toFp32 sum, sq := toFp32 sq, lo := toFp32 (rest.foldl FV.minv l0), hi := toFp32 (rest.foldl FV.maxv h0)
      rows := c.rows + vs.length, poison := c.poison || anyP xs }

/-- The 16 bytes of a drained channel (R307). -/
def statBytes (c : StatCh) : List VO × List (Nat × Bool) :=
  let pair (b : BitVec 32) : List VO :=
    let hi := toBf16 (ofFp32 b)
    [(hi, c.poison), (toBf16 (rne32 (FV.add (ofFp32 b) (ofBf16 hi.1).neg)), c.poison)]
  let os := pair c.sum ++ pair c.sq ++ [(toBf16 (ofFp32 c.lo), c.poison), (toBf16 (ofFp32 c.hi), c.poison)]
  (os, voBytes 2 os ++ (leBytes (c.rows % 2 ^ 32) 4).map (fun b => (b, c.poison)))

/-- Fields of a VOP in its queue. -/
def QOp.vIn (q : QOp) : Nat := q.f0 16 3
def QOp.vOut (q : QOp) : Nat := q.f0 13 3
def QOp.vMode (q : QOp) : Nat := q.f0 8 5
def QOp.vRows (q : QOp) : Nat := fget q.w1 0 16
def QOp.vCols (q : QOp) : Nat := fget q.w1 16 16
def QOp.vPo (q : QOp) : Nat := fget q.w1 32 14

/-- A vector record read (R287): z, x, and the u values with the poison of their words; a poisoned header poisons all. -/
def Face.record (x : Face) (a u : Nat) : Nat × FV × List (Nat × Bool) :=
  let h := x.padNum a 4
  let hp := (List.range 16).any (fun i => (x.padByte (a + 8 * i)).2)
  (h.1 % 256, ofBf16 (h.1 / 65536), (List.range u).map (fun i => let b := x.padByte (a + 128 + i); (b.1, b.2 || hp)))

/-- Effect of a VOP on the face: outputs, registers and counts. -/
def State.vopRun (s : State) (f : Nat) (q : QOp) : State :=
  let op := q.op
  let x := s.face f
  let fi := q.vIn
  let fo := q.vOut
  let rows := q.vRows
  let cols := q.vCols
  let bx := rngBase q.al
  let bz := rngBase q.ra3
  let r := vopRow op
  -- every word is read once: counts and corrections of R219
  let s0 := if r.useX then s.padTouchRange f bx (vopReach fi rows cols) else s
  let s1 := if r.useY then s0.padTouchRange f (rngBase q.ar) (vopReach fi rows cols) else s0
  if op ≤ 2 ∨ (6 ≤ op ∧ op ≤ 11) ∨ op = 13 then
    loop rows s1 (fun t i =>
      let a := x.rowAt bx fi i cols
      let b := if r.useY then x.rowAt (rngBase q.ar) fi i cols else a
      t.vecRow f (bz + i * vopStride fo cols) (vopBytes fo) (zipRow (vopElem op (vFmt fo)) a b))
  else if op ≤ 5 then
    loop rows s1 (fun t i =>
      t.vecRow f (bz + i * vopStride fo cols) (vopBytes fo)
        (normRow op (vFmt fo) (ofBf16 (fget q.w2 0 16)) x q.vPo cols (x.rowAt bx fi i cols)))
  else if op = 12 then
    loop rows s1 (fun t i => t.vecRow f (bz + 2 * i) 2 [reduceRow q.vMode (x.rowAt bx fi i cols)])
  else if op = 14 then
    let fixed := decide (q.vMode = 1)
    loop rows s1 (fun t i =>
      let row := x.rowAt bx fi i cols
      let p := anyP row
      let u := quantRow fixed (fget q.w2 0 16) (fget q.w2 16 8) (row.map Prod.fst)
      let head := leBytes (u.1 + fget q.w2 24 8 * 256 + u.2.1 * 65536) 128
      let bytes := (head.map (fun b => (b, p && !fixed))) ++
        (u.2.2.zip row).map (fun e => (e.1.1, if fixed then e.2.2 else p))
      (t.progStore f (bz + i * recordLen cols) bytes).bumpBy R.VEC_NUM_STAT.QUANT_CLAMP f
        (u.2.2.filter Prod.snd).length)
  else if op = 15 then
    loop rows s1 (fun t i =>
      let os : List VO :=
        if q.vMode = 0 then
          let rec_ := x.record (bx + i * recordLen cols) cols
          rec_.2.2.map (fun b => (toBf16 (FV.mul rec_.2.1 (FV.int ((b.1 : Int) - (rec_.1 : Int)))), b.2))
        else (x.rowAt bx fi i cols).map (fun e => (toBf16 (FV.mul (ofBf16 (fget q.w2 0 16)) e.1), e.2))
      t.vecRow f (bz + i * vopStride 0 cols) 2 os)
  else if op = 16 then
    loop rows s1 (fun t i =>
      let row := x.rowAt bx fi i cols
      let p := anyP row
      let k := fget q.w2 32 5
      let o := topkRow k (bit q.vMode 0) (row.map Prod.fst)
      let vals := o.flatMap (fun e => leBytes e.1.1 2)
      let idxs := o.flatMap (fun e => leBytes e.2 2)
      let line := vals ++ List.replicate (32 - 2 * k) 0 ++ idxs ++ List.replicate (96 - 2 * k) 0
      (t.progStore f (bz + 128 * i) (line.map (fun b => (b, p)))).vecCount f (o.map (fun e => e.1.2)))
  else if op = 17 then
    let rs := (List.range rows).map (fun i => x.rowAt bx fi i cols)
    loop cols s1 (fun t c =>
      t.modFace f (fun y => { y with stats := mset {} y.stats c (statAdd (mget {} y.stats c)
        (rs.map (fun row => row.getD c (FV.zero, false)))) }))
  else if op = 18 then
    let s2 := loop cols s1 (fun t c =>
      let b := statBytes (mget {} x.stats c)
      (t.progStore f (bz + 16 * c) b.2).vecCount f (b.1.map (fun o => o.1.2)))
    s2.modFace f (fun y => { y with stats := mdrop (fun c => decide (c < cols)) y.stats })
  else
    loop cols s1 (fun t c =>
      let n := x.padNum (bx + 2 * c) 2
      t.modFace f (fun y => { y with params := mset 0 y.params (q.vPo + c) n.1
                                     paramPoison := mset false y.paramPoison (q.vPo + c) n.2 }))

end Sys2Proof.Machine
end

