-- ==== Sys2Proof/Machine/Dealer.lean ====
section
/-! DEFINITION. The dealer (14_the_dealer.md): what it takes from a DEAL (R398 to R400), the draw of a row (R405 to R408), grammars
(R409 to R411), endings (R412, R413), drafts (R414, R415), and what a commit releases (R370, R403). -/
namespace Sys2Proof.Machine

/-! ### Grammars (R409) -/

/-- Transitions of a state. -/
def Gram.row (g : Gram) (q : Nat) : List (Nat × Nat × Nat) :=
  let e := g.states.getD q (0, 0, false)
  (g.trans.drop e.1).take e.2.1

/-- Where a token leads, if a range holds it. -/
def Gram.next (g : Gram) (q v : Nat) : Option Nat :=
  ((g.row q).find? (fun t => decide (t.1 ≤ v ∧ v ≤ t.2.1))).map (fun t => t.2.2)

/-- ACCEPT of a state; ACCEPT with no transition (R411). -/
def Gram.accept (g : Gram) (q : Nat) : Bool := (g.states.getD q (0, 0, false)).2.2
def Gram.closed (g : Gram) (q : Nat) : Bool := g.accept q && decide ((g.states.getD q (0, 0, false)).2.1 = 0)

/-! ### A row (R405) -/

/-- End tokens of a stream. -/
def State.endTokens (s : State) (stream : Nat) : List Nat :=
  (if s.rd R.DLR_EOS.V0 stream = 1 then [s.rd R.DLR_EOS.ID0 stream] else []) ++
  (if s.rd R.DLR_EOS.V1 stream = 1 then [s.rd R.DLR_EOS.ID1 stream] else [])

/-- What a row is drawn with: the sampling limits, bias list, history in view, end tokens, grammar and its state. -/
structure RowCtx where
  samp : Samp
  bias : List (Nat × Nat)
  window : List Nat
  ends : List Nat
  gram : Option (Gram × Nat)

/-- Adjusted logit of id v (R405): penalties, then bias, then grammar. -/
def adjust (c : RowCtx) (v code : Nat) : FV :=
  let g0 := match ofBf16 code with
    | .nan => FV.inf true
    | x => x
  let n := (c.window.filter (· = v)).length
  let g1 := if n = 0 then g0
    else
      let rep := ofBf16 c.samp.rep
      let a := if FV.lt FV.zero g0 then divRne32 g0 rep else rne32 (FV.mul g0 rep)
      let b := rne32 (FV.add a (rne32 (FV.mul (ofBf16 c.samp.freq) (FV.int n))).neg)
      rne32 (FV.add b (ofBf16 c.samp.pres).neg)
  let g2 := c.bias.foldl (fun g e => if e.1 = v then rne32 (FV.add g (ofBf16 e.2)) else g) g1
  if c.ends.contains v then
    let allowed := !c.samp.ignoreEos && (match c.gram with
      | some (g, q) => g.accept q
      | none => true)
    if allowed then g2 else FV.inf true
  else match c.gram with
    | some (g, q) => if (g.next q v).isNone then FV.inf true else g2
    | none => g2

/-- Larger value first, lower id on a tie. -/
def rowBefore (a b : FV × Nat) : Bool := FV.lt b.1 a.1 || (!(FV.lt a.1 b.1) && decide (a.2 ≤ b.2))

/-- The uniform value of position p (R407). -/
def uniform (seed p : Nat) : FV :=
  let m := 2 ^ 64
  let x0 := nxor seed (p * 0x9E3779B97F4A7C15 % m)
  let x1 := nxor x0 (x0 / 2 ^ 30) * 0xBF58476D1CE4E5B9 % m
  let x2 := nxor x1 (x1 / 2 ^ 27) * 0x94D049BB133111EB % m
  let x3 := nxor x2 (x2 / 2 ^ 31)
  .fin false (x3 / 2 ^ 40) (-24)

/-- The token of a list of weights that the uniform value picks: the first whose running sum exceeds t, else the last. -/
def pickBy (t : FV) : FV → List (FV × Nat) → Option Nat
  | _, [] => none
  | _, [(_, v)] => some v
  | acc, (w, v) :: rest =>
    let s := rne32 (FV.add acc w)
    if FV.lt t s then some v else pickBy t s rest

/-- Candidates kept by TOP_P: until the running sum reaches it. -/
def keepTopP (topP : FV) : FV → List (FV × FV × Nat) → List (FV × FV × Nat)
  | _, [] => []
  | acc, e :: rest =>
    let s := rne32 (FV.add acc e.2.1)
    e :: (if FV.lt s topP then keepTopP topP s rest else [])

/-- Draw a token from a row (R405, R406): none when no candidate is finite. -/
def drawRow (c : RowCtx) (u : FV) (row : List Nat) : Option Nat :=
  let gs := ((row.zip (List.range row.length)).map (fun e => (adjust c e.2 e.1, e.2))).filter (fun e => e.1.isFin)
  let temp := ofBf16 c.samp.temp
  if temp.isZero then ((gs.mergeSort rowBefore).head?).map Prod.snd
  else
    let hs := (gs.map (fun e => (divRne32 e.1 temp, e.2))).filter (fun e => e.1.isFin)
    let k := if c.samp.topK = 0 then 1024 else min c.samp.topK 1024
    let cand := (hs.mergeSort rowBefore).take k
    match cand with
    | [] => none
    | h0 :: _ =>
      let ws := cand.map (fun e =>
        if e.2 = h0.2 then (FV.one, e.2) else (exp2f (rne32 (FV.mul (FV.add e.1 h0.1.neg) log2e32)), e.2))
      let z := ws.foldl (fun a e => rne32 (FV.add a e.1)) FV.zero
      let ps := ws.map (fun e => (e.1, divRne32 e.1 z, e.2))
      let kept := keepTopP (ofBf16 c.samp.topP) FV.zero ps
      let p0 := (kept.headD (FV.zero, FV.zero, 0)).2.1
      let lim := rne32 (FV.mul (ofBf16 c.samp.minP) p0)
      let kept1 := match kept with
        | [] => []
        | a :: rest => a :: rest.filter (fun e => !(FV.lt e.2.1 lim))
      let z2 := kept1.foldl (fun a e => rne32 (FV.add a e.1)) FV.zero
      let t := rne32 (FV.mul u z2)
      pickBy t FV.zero (kept1.map (fun e => (e.1, e.2.2)))

/-! ### A seat's rows (R412 to R415) -/

/-- A list ends with another. -/
def endsWith (xs ys : List Nat) : Bool := decide (xs.drop (xs.length - ys.length) = ys) && decide (ys.length ≤ xs.length)

/-- The record's automaton and its state. -/
def State.gramOf (s : State) (d : Drec) (q : Nat) : Option (Gram × Nat) :=
  if d.r.grammar < 64 then some (mget {} s.grams d.r.grammar, q) else none

/-- The row context after the tokens `more`, grammar state q. -/
def State.rowCtx (s : State) (d : Drec) (stream q : Nat) (more : List Nat) : RowCtx :=
  let h := d.hist ++ more
  { samp := d.r.samp, bias := d.r.bias, window := h.drop (h.length - d.r.samp.window)
    ends := s.endTokens stream, gram := s.gramOf d q }

/-- End code of a token just drawn (R412): 0 none.  `gen`: generated tokens with it; q: grammar state after it. -/
def State.endOf (s : State) (d : Drec) (stream v q count : Nat) (gen : List Nat) : Nat :=
  if (s.endTokens stream).contains v then 1
  else if d.r.stops.any (fun st => decide (st ≠ []) && endsWith gen st) then 2
  else if (match s.gramOf d q with
    | some (g, p) => g.closed p
    | none => false) then 3
  else if count ≥ d.r.maxTokens then 4
  else 0

/-- Walk the rows of a seat (R415, R412): tokens released so far, rows examined, and the end code. -/
def State.walkRows (s : State) (d : Drec) (stream pos : Nat) :
    (rows : List (List Nat)) → (drafts more : List Nat) → (q n : Nat) → List Nat × Nat × Nat
  | [], _, _, _, n => ([], n, 0)
  | row :: rest, drafts, more, q, n =>
    match drawRow (s.rowCtx d stream q more) (uniform d.r.seed (pos + n)) row with
    | none => ([], n + 1, 5)
    | some v =>
      let q1 := match s.gramOf d q with
        | some (g, p) => (g.next p v).getD p
        | none => q
      let code := s.endOf d stream v q1 (d.gen + n + 1) (d.tail ++ more ++ [v])
      if code = 1 then ([], n + 1, 1)
      else if code ≠ 0 then ([v], n + 1, code)
      else match drafts with
        | dr :: ds =>
          if dr = v then
            let r := s.walkRows d stream pos rest ds (more ++ [v]) q1 (n + 1)
            (v :: r.1, r.2)
          else ([v], n + 1, 0)
        | [] => ([v], n + 1, 0)

/-- The whole row r of the slot from its shares: BF16 codes by id, and whether any is poisoned. -/
def slotRow (shares : List DealShare) (vocab r : Nat) : List Nat × Bool :=
  let at_ (v : Nat) : Nat × Bool :=
    match shares.find? (fun h => decide (h.vbase ≤ v ∧ v < h.vbase + h.vcount)) with
    | some h => (h.rows.getD r []).getD (v - h.vbase) (0, false)
    | none => (0, false)
  let xs := (List.range vocab).map at_
  (xs.map Prod.fst, xs.any Prod.snd)

/-- Rows that a descriptor has (R399). -/
def seatRows (d : SlotSeat) : Nat := if d.void then 0 else if d.kind = 0 then 1 + d.drafts else if d.kind = 2 then 1 else 0

/-- Rows of a slot. -/
def slotRows (ds : List SlotSeat) : Nat := ds.foldl (fun a d => a + seatRows d) 0

/-- The checks of R400 on the shares of a slot that are all in. -/
def sharesOk (shares : List DealShare) (vocab : Nat) : Bool :=
  match shares with
  | [] => false
  | a :: _ =>
    decide (shares.length = a.shares) && shares.all (fun h => decide (h.shares = a.shares)) &&
    decide ((shares.map (fun h => h.index)).eraseDups.length = shares.length) &&
    (List.range vocab).all (fun v => decide ((shares.filter (fun h => decide (h.vbase ≤ v ∧ v < h.vbase + h.vcount))).length = 1)) &&
    shares.all (fun h => decide (h.vbase + h.vcount ≤ vocab))

/-- Whether every share of the slot has been taken. -/
def State.sharesIn (s : State) : Bool :=
  match s.hand.shares with
  | [] => false
  | a :: _ => decide (s.hand.shares.length ≥ a.shares)

/-- Count NaN logits, in thousands (DLR_STAT.NAN). -/
def State.nanCount (s : State) (n : Nat) : State :=
  let k := s.nanRest + n
  { s with nanRest := k % 1000 }.bumpBy R.DLR_STAT.NAN 0 (k / 1000)

/-- Draw one seat of the slot; `first`: its first row in the slot. -/
def State.dealSeat (s : State) (stream vocab slot first : Nat) (d : SlotSeat) : State :=
  let n := seatRows d
  if n = 0 then s
  else
    let rec_ := mget {} s.drecs d.seat
    let rows := (List.range n).map (fun i => slotRow s.hand.shares vocab (first + i))
    let s1 := s.bumpBy R.DLR_STAT.ROWS 0 n
    let s2 := s1.nanCount (rows.foldl (fun a r => a + (r.1.filter (fun c => (ofBf16 c).isNan)).length) 0)
    let pos := s.lenOf d + (if d.kind = 2 then d.ntok else 1)
    let put (t : State) (w : Draw) : State := { t with hand := { t.hand with draws := some (t.hand.draws.getD [] ++ [w]) } }
    if rec_.held = false then
      put { s2 with hand := { s2.hand with noRecord := s2.hand.noRecord ++ [d.seat] } } ⟨d.seat, pos, [], 9, d.drafts, d.drafts⟩
    else if rows.any Prod.snd then
      let k := (rows.filter Prod.snd).length
      let s3 := s2.bumpBy R.DLR_STAT.POISON 0 k
      if rec_.poisoned = some slot then put s3 ⟨d.seat, pos, [], 6, d.drafts, 0⟩
      else { s3 with hand := { s3.hand with dealPoison := s3.hand.dealPoison ++ [d.seat] } }
    else
      let drafts := if d.kind = 0 then d.toks.drop 1 else []
      let r := s2.walkRows rec_ stream pos (rows.map Prod.fst) drafts [] rec_.gstate 0
      put s2 ⟨d.seat, pos, r.1, r.2.2, d.drafts, r.2.1 - 1⟩

/-- Draw every row of the slot (R399, R400, R405). -/
def State.dealAll (s : State) : State :=
  match s.hand.shares with
  | [] => s
  | a :: _ =>
    let vocab := s.rd R.DLR_CFG.VOCAB a.sel
    if s.hand.shareBad || !sharesOk s.hand.shares vocab || (s.injSlot .dealShares (unitId 15 0 0 0 1)).isSome then
      ({ s with hand := { s.hand with shareBad := true } }).raise
        { det := .dealShares, unit := unitId 15 0 0 0 1, d0 := BitVec.ofNat 64 s.hand.slotNum }
    else
      let s1 : State := { s with hand := { s.hand with draws := some [] } }
      (s.hand.desc.foldl (fun (acc : State × Nat) d => (acc.1.dealSeat a.sel vocab s.hand.slotNum acc.2 d, acc.2 + seatRows d)) (s1, 0)).1

/-- DEALER_ROWS_DRAWN (R417): the dealer finishes drawing the rows of the slot's shares, once all of them are in. -/
def execDealerRowsDrawn (s : State) : Host.Outcome State Fault Refusal :=
  ok (if s.hand.running && s.hand.draws.isNone && s.sharesIn && !s.hand.shareBad then s.dealAll else s)

/-! ### Proposals (R414) -/

/-- Forced ids from a grammar state (fuel: the most wanted). -/
def Gram.forced (g : Gram) (q : Nat) : Nat → List Nat
  | 0 => []
  | n + 1 =>
    match g.row q with
    | [(lo, hi, nx)] => if g.accept q = false ∧ lo = hi then lo :: g.forced nx n else []
    | _ => []

/-- Tokens that followed the most recent earlier occurrence of the last n tokens of a history (fuel: its length). -/
def lookupFrom (h key : List Nat) : Nat → List Nat
  | 0 => []
  | i + 1 => if (h.drop i).take key.length = key then h.drop (i + key.length) else lookupFrom h key i

def lookupDrafts (h : List Nat) (n : Nat) : List Nat :=
  if h.length ≤ n then [] else lookupFrom h (h.drop (h.length - n)) (h.length - n)

/-- Drafts before the first that the grammar would forbid; an end token is allowed in an accepting state, and nothing follows it (R405, R409). -/
def Gram.allowed (g : Gram) (ends : List Nat) : Nat → List Nat → List Nat
  | _, [] => []
  | q, v :: rest =>
    if ends.contains v then (if g.accept q then [v] else [])
    else match g.next q v with
    | some p => v :: g.allowed ends p rest
    | none => []

/-- The drafts proposed for the next round (R414). -/
def State.propose (s : State) (d : Drec) (stream : Nat) : List Nat :=
  let most := min d.r.draftMax (d.r.maxTokens - d.gen - 1)
  let forced := match s.gramOf d d.gstate with
    | some (g, q) => g.forced q most
    | none => []
  let look := (lookupDrafts d.hist d.r.samp.lookupN).take most
  let look1 := match s.gramOf d d.gstate with
    | some (g, q) => g.allowed (s.endTokens stream) q look
    | none => look
  if d.r.draftMode = 2 then forced
  else if d.r.draftMode = 1 then look1
  else if d.r.draftMode = 3 then (if forced.isEmpty then look1 else forced)
  else []

/-! ### The front and the manager (R370, R373) -/

/-- Flags of a seat's records: MIXED, REPREFILLED, RECALLED (R368). -/
def Seat.recFlags (x : Seat) : Nat := (if x.mixed then 1 else 0) + (if x.reprefilled then 2 else 0) + (if x.recalled then 4 else 0)

/-- A seat's tokens reach its front (R370): a TOKENS record, and the seat's state.  A handle that is not current is dropped
(R506); a draining seat's tokens are dropped (R394). -/
def State.tokensIn (s : State) (handle hand pos : Nat) (toks drafts : List Nat) (code stampHi : Nat) : State :=
  let i := handleIx handle
  let x := s.seat i
  if s.current handle = false then s
  else if x.st = .drain then s.modSeat i (fun y => { y with inFlight := [] })
  else
    let s1 := if toks.isEmpty then s
      else s.record x.front x.ring (mkRecord x.tag handle 3 0 x.recFlags stampHi hand pos toks)
    let stock := bit x.flags 2 && decide (code ≠ 0 ∧ code ≠ 8 ∧ code ≠ 9)
    let y := { x with toks := x.toks ++ toks, drafts := drafts, inFlight := []
                      st := if code ≠ 0 ∧ stock then .stocking else if x.st = .prefill then .decode else x.st
                      endCode := if stock then 0 else code, freeing := x.freeing || (decide (code ≠ 0) && !stock)
                      expires := if stock then s.hand.expiry + x.ttl * 1000000000 else x.expires }
    let s2 := s1.setSeat i y
    if stock then s2.record x.front x.ring (mkRecord x.tag handle 4 (code + 128) x.recFlags stampHi hand 0 []) else s2

/-- TOKENS (R35, R370): a token notice reaches this device, or passes through it.  What waits behind the records of an earlier hand goes out before it. -/
def execTokens (port dst src hand handle pos : Nat) (toks drafts : List Nat) (code flags stampHi : Nat) (s : State) :
    Host.Outcome State Fault Refusal :=
  ok (if dst ≠ s.devAddr then
        s.forwardCtl port dst src (.tokens hand handle pos (toks.length + 16 * drafts.length) code flags stampHi toks drafts)
      else
        let lo := if bit flags 0 then 0 else stampHi
        let t := s.modSeat (handleIx handle) (fun x => x.seeStamp lo stampHi)
        let u := if hand > s.rd R.SYN_HAND_COMMITTED.HAND 0 then t.flushPosted else t
        if s.current handle then ((u.tokensIn handle hand pos toks drafts code stampHi).writeRecs hand hand).irqsDue else s)

/-- What a commit releases for one seat (R403, R412 to R416, step C3); a deadline passed drops every token (R395). -/
def State.releaseSeat (s : State) (e : Nat) (w : Draw) : State :=
  let d := mget {} s.drecs w.seat
  let late := decide (d.held = true ∧ d.r.deadline ≠ 0 ∧ e > d.r.deadline)
  let toks := if late then [] else w.toks
  let code := if late then 8 else w.code
  let q := toks.foldl (fun q v => match s.gramOf d q with
    | some (g, p) => (g.next p v).getD p
    | none => q) d.gstate
  let h := d.hist ++ toks
  let d1 := { d with hist := h.drop (h.length - 65536), gen := d.gen + toks.length, gstate := q
                     tail := (d.tail ++ toks).drop ((d.tail ++ toks).length - 32), poisoned := none }
  let drafts := if code = 0 ∧ toks ≠ [] then s.propose d1 ((s.hand.shares.head?.map DealShare.sel).getD 0) else []
  let s1 : State := { s with drecs := if d.held then mset {} s.drecs w.seat { d1 with drafts := drafts } else s.drecs }
  let s2 := (s1.bumpBy R.DLR_DRAFT_STAT.PROPOSED 0 drafts.length).bumpBy R.DLR_DRAFT_STAT.ACCEPTED 0 w.accepted
  let x := s.seat w.seat
  let handle := if d.held then d.r.handle else x.handle w.seat
  let front := if d.held then d.r.front else x.front
  let s3 := if w.code = 9 then
      s2.raise { det := .dealNoRecord, unit := unitId 15 0 0 0 1, d0 := BitVec.ofNat 64 w.seat, d1 := BitVec.ofNat 64 s.hand.slotNum }
    else s2
  let hi := s.hand.stampHi
  -- the mark takes in what this stage has seen in slots that released no token (R359)
  let marked := decide (s.hand.stampLo < hi) || (s.cacheOf w.seat).mixed
  let s4 := if front = s.devAddr then
      (s3.modSeat (handleIx handle) (fun y => y.seeStamp (if marked then 0 else s.hand.stampLo) hi)).tokensIn handle s.handNum w.pos toks drafts code hi
    else s3.sendCtl front (.tokens s.handNum handle w.pos (toks.length + 16 * drafts.length) code
      (if marked then 1 else 0) hi toks drafts)
  -- the trim notice goes to every stage, itself included (R416)
  let cut := w.drafts - w.accepted
  if cut = 0 ∨ late = true ∨ w.code = 9 ∨ w.code = 6 then s4
  else
    let stages := match s.place with
      | some (_, r, _) => (s.manifest.filter (fun (m : Nat × Nat × Nat) => decide (m.2.2 = r))).map Prod.fst
      | none => []
    let s5 := (stages.filter (fun a => decide (a ≠ s.devAddr))).foldl (fun (t : State) a => t.sendCtl a (.trim s.handNum handle cut))
      (s4.bump R.DLR_DRAFT_STAT.TRIMS 0)
    s5.setCache w.seat { s5.cacheOf w.seat with trim := (s5.cacheOf w.seat).trim + cut }

/-- Step C3 at the dealer (R33, R403). -/
def State.dealerCommit (s : State) (e : Nat) : State :=
  ((s.hand.draws.getD []).foldl (fun t w => t.releaseSeat e w) s)

/-- A poisoned row in a hand that misdeals is remembered for the re-deal (R413). -/
def State.dealerMisdeal (s : State) : State :=
  s.hand.dealPoison.foldl (fun t i => { t with drecs := mset {} t.drecs i { mget {} t.drecs i with poisoned := some s.hand.slotNum } }) s

/-! ### Seat records and grammars -/

/-- SEAT_RECORD_LOAD (R402, R466): a seat record arrives at the dealer's device; its seal is checked; it is held and
acknowledged.  A carried seat's grammar runs again over its generated tokens.  `copy`: what is loaded. -/
def execSeatRecordLoad (r copy : SeatRec) (s : State) : Host.Outcome State Fault Refusal :=
  let i := handleIx r.handle
  ok (if recSeal copy ≠ recSeal r then
        -- the seat ends with SEAL (R367)
        if s.current r.handle then s.cancelSeat i 9 else s
      else
        let g := mget {} s.grams r.grammar
        let q := if r.grammar < 64 then r.generated.foldl (fun q v => (g.next q v).getD q) 0 else 0
        let d : Drec := { held := true, r := r, hist := r.hist, gen := 0, gstate := q, tail := [] }
        let t : State := { s with drecs := mset {} s.drecs i d }
        if r.front = s.devAddr ∨ s.isManager then
          if s.current r.handle then t.modSeat i (fun x => { x with acked := true }) else t
        else t.emit (.serve s.manager [4, r.handle]))

/-- Grammars at a boundary: loaded ones become RESIDENT (R410). -/
def State.bdyGrams (s : State) : State :=
  s.grams.foldl (fun t e => if e.2.ready then
      (({ t with grams := mset {} t.grams e.1 { e.2 with ready := false } }).wr R.DLR_GRAM_STATE.STATE e.1 2) else t) s

/-- Seats naming a grammar slot. -/
def State.gramRefs (s : State) (g : Nat) : Nat :=
  (s.seats.filter (fun e => decide (e.2.st ≠ .free ∧ e.2.rec_.grammar = g))).length

/-- Grammars at a commit: REFS; an UNLOADING slot with no references becomes ABSENT (R410). -/
def State.commitGrams (s : State) : State :=
  loop 64 s (fun t g =>
    let n := t.gramRefs g
    let t1 := t.wr R.DLR_GRAM_STATE.REFS g n
    if t.rd R.DLR_GRAM_STATE.STATE g = 3 ∧ n = 0 then
      ({ t1 with grams := mset {} t1.grams g {} }).wr R.DLR_GRAM_STATE.STATE g 0
    else t1)

/-- A refused load (R410). -/
def State.gramRefuse (s : State) (g reason : Nat) : State := (s.wr R.DLR_GRAM_STATE.FAILED g 1).wr R.DLR_GRAM_STATE.REASON g reason

/-- GRAMMAR_LOAD (R410): DLR_GRAM_CTL.LOAD for SLOT. -/
def execGrammarLoad (s : State) : Host.Outcome State Fault Refusal :=
  let g := s.rd R.DLR_GRAM_CTL.SLOT 0
  let n := s.rd R.DLR_GRAM_CTL.STATES 0
  ok (if s.rd R.DLR_GRAM_STATE.STATE g ≠ 0 then s.gramRefuse g 1
      else if n = 0 ∨ n > 16384 ∨ s.rd R.DLR_GRAM_CTL.TRANS 0 > 2 ^ 20 then s.gramRefuse g 2
      else s.wr R.DLR_GRAM_STATE.STATE g 1)

/-- Ranges of a state: ascending, disjoint, HI not below LO (R410). -/
def rangesOk : List (Nat × Nat × Nat) → Bool
  | [] => true
  | [(a, b, _)] => decide (a ≤ b)
  | (a, b, _) :: (c, d, e) :: rest => decide (a ≤ b ∧ b < c) && rangesOk ((c, d, e) :: rest)

/-- The first failure of an automaton as read (R410): 0 none. -/
def gramBad (states trans : List Word) : Nat :=
  let st := states.map (fun w => (fget w 0 20, fget w 20 21, decide (fget w 41 1 = 1)))
  let tr := trans.map (fun w => (fget w 0 18, fget w 18 18, fget w 36 14))
  if states.any (fun w => decide (fget w 42 22 ≠ 0)) || trans.any (fun w => decide (fget w 50 14 ≠ 0)) then 3
  else if st.any (fun e => decide (e.1 + e.2.1 > trans.length)) then 4
  else if st.any (fun e => !rangesOk ((tr.drop e.1).take e.2.1)) then 5
  else if tr.any (fun e => decide (e.2.2 ≥ states.length)) then 6
  else if st.any (fun e => decide (e.2.1 = 0) && !e.2.2) then 7
  else 0

/-- GRAMMAR_LOAD_DONE (R410): the automaton of slot g has been read; it becomes RESIDENT at the next boundary, or is refused. -/
def execGrammarLoadDone (g : Nat) (states trans : List Word) (s : State) : Host.Outcome State Fault Refusal :=
  ok (if s.rd R.DLR_GRAM_STATE.STATE g ≠ 1 then s
      else
        let bad := gramBad states trans
        if bad ≠ 0 then (s.wr R.DLR_GRAM_STATE.STATE g 0).gramRefuse g bad
        else
          let x : Gram := { states := states.map (fun w => (fget w 0 20, fget w 20 21, decide (fget w 41 1 = 1)))
                            trans := trans.map (fun w => (fget w 0 18, fget w 18 18, fget w 36 14)), ready := true }
          State.orNow { s with grams := mset {} s.grams g x } State.bdyGrams)

/-- GRAMMAR_UNLOAD (R410): DLR_GRAM_CTL.UNLOAD makes a RESIDENT slot UNLOADING; otherwise nothing. -/
def execGrammarUnload (s : State) : Host.Outcome State Fault Refusal :=
  let g := s.rd R.DLR_GRAM_CTL.SLOT 0
  ok (if s.rd R.DLR_GRAM_STATE.STATE g ≠ 2 then s
      else
        let t := s.wr R.DLR_GRAM_STATE.STATE g 3
        if t.ticking then t else t.commitGrams)

end Sys2Proof.Machine
end

