-- ==== Sys2Proof/Machine/Finish.lean ====
section
/-! DEFINITION. How a started operation leaves its engine (R205, R268, R283, R41), and the answers that end a SEND (R275, R433). -/
namespace Sys2Proof.Machine

/-- A started operation leaves its engine: its scoreboard entries free (R205). -/
def State.opLeave (s : State) (f : Nat) (q : QOp) : State :=
  s.modFace f (fun x => { x with started := x.started.filter (fun r => decide (r.id ≠ q.id))
                                 sb := x.sb.filter (fun e => decide (e.op ≠ q.id)) })

/-- An operation completes: it leaves, and signals CTR by one when CEN is 1 and its results are not discarded (R268, R283, R41). -/
def State.opDone (s : State) (f : Nat) (q : QOp) : State :=
  let t := s.opLeave f q
  let u := if q.discard || !q.cen then t else t.signal f q.ctr 1 0 s.devAddr f q.pc
  (u.wake f).cacheSettle f

/-- Replace a started operation. -/
def State.setOp (s : State) (f : Nat) (q : QOp) : State :=
  s.modFace f (fun x => { x with started := x.started.map (fun r => if r.id = q.id then q else r) })

/-- A SEND of the mover. -/
def QOp.isSend (q : QOp) : Bool := decide (q.cls = 4 ∧ q.op = 16)

/-- Parcels of a SEND: at most 4,096 bytes each (R430). -/
def QOp.sendParcels (q : QOp) : Nat := cdiv (rngLen q.al) 4096

/-- How many of the numbers a … a + n − 1 are among b … b + m − 1, modulo 2³². -/
def seqOverlap (a n b m : Nat) : Nat :=
  ((List.range n).filter (fun i => decide ((a + i + 2 ^ 32 - b % 2 ^ 32) % 2 ^ 32 < m))).length

/-- The last answer of a SEND brings a revoke with it, of its completion signal or of the balance check of an END that waits: the revoke goes before a
window error (R251, R254). -/
def State.sendRevokes (s : State) (f : Nat) (q : QOp) : Bool :=
  decide (q.left = 0) && (match (s.opLeave f q).ctrAdd f q.ctr 1 with
  | none => true
  | some t => decide ((s.face f).run = .stalled .ending ∧ (s.face f).handler ≠ .fault) && (t.face f).drained && (t.imbalance f).isSome)

/-- An answer on a SEND (R275, R327, R433): 1, 2, 3, 5 and 6 are window-closed NACKs, 4 a window-full NACK; the last answer signals CTR
once. -/
def State.sendAnswer (s : State) (f : Nat) (q : QOp) (result n : Nat) : State :=
  let k := min n q.left
  let q1 := { q with left := q.left - k, nacked := q.nacked || decide (result ≠ 0) }
  let s1 := s.setOp f q1
  let s2 := if result = 0 then s1
    else if result = 4 then
      let t := (s1.setErr f q.ctr).bump R.FCE_MOVE_STAT.FULL_NACK f
      { t with hand := { t.hand with nackFull := true } }
    else
      let t := (s1.setErr f q.ctr).bump R.FCE_MOVE_STAT.CLOSED_NACK f
      if t.sendRevokes f q1 then t.trapRecord f 7 (BitVec.ofNat 64 q.ctr) q.pc
      else t.trapFault f 7 (BitVec.ofNat 64 q.ctr) q.pc
  if q1.left = 0 then s2.opDone f q1 else s2

/-- An ANSWER from device src on count consecutive sequence numbers: every SEND outstanding there takes what is its own; an UNROUTABLE
comes from a device on the way (R432). -/
def State.answerTo (s : State) (src result seq count : Nat) : State :=
  s.faces.foldl (fun t e => e.2.started.foldl (fun u q =>
    let n := seqOverlap q.seq0 q.sendParcels seq count
    if q.isSend && !q.discard && decide (n ≠ 0 ∧ (result = 6 ∨ fget q.w1 0 12 = src)) then u.sendAnswer e.1 q result n
    else if q.isSend && q.discard && decide (n ≠ 0 ∧ (result = 6 ∨ fget q.w1 0 12 = src)) then
      if q.left ≤ n then u.opLeave e.1 q else u.setOp e.1 { q with left := q.left - n }
    else u) t) s

/-- ANSWER (R433): an ANSWER message received on `port` for `dst`. -/
def execAnswer (port dst src result seq count : Nat) (s : State) : Host.Outcome State Fault Refusal :=
  ok (if dst ≠ s.devAddr then s.forwardCtl port dst src (.answer result seq count)
      else s.answerTo src result seq count)

end Sys2Proof.Machine
end

