-- ==== Sys2Proof/Machine/Links.lean ====
section
/-! DEFINITION. Ports, lanes, control-lane messages of the link layer, device time and the bypass (15_links_and_lanes.md). -/
namespace Sys2Proof.Machine

/-! ### Lanes and widths (R419, R423 to R425) -/

def State.port (s : State) (p : Nat) : Port := mget {} s.ports p
def State.setPort (s : State) (p : Nat) (x : Port) : State := { s with ports := mset {} s.ports p x }
def State.modPort (s : State) (p : Nat) (g : Port → Port) : State := s.setPort p (g (s.port p))

/-- Physical lanes of a port, its spare, and its widths from the largest. -/
def laneCount (p : Nat) : Nat := if p < 4 then 17 else 9
def spareLane (p : Nat) : Nat := laneCount p - 1
def portWidths (p : Nat) : List Nat := if p < 4 then [16, 12, 8, 4, 2, 1] else [8, 4, 2, 1]

/-- The port can run: present and powered, enabled, and its SerDes not isolated by the bypass (R443, R444). -/
def State.portCan (s : State) (p : Nat) : Bool :=
  s.portPresent p && s.domOn (if p < 4 then 26 else 27) && decide (s.rd R.LNK_PORT_CTL.EN p = 1) &&
  !(decide (p < 2) && decide (s.rd R.LNK_BYP_CTL.CLOSED 0 = 1))

/-- Lanes of a port outside a mask, ascending, the spare last. -/
def lanesOutside (p failed : Nat) : List Nat := (List.range (laneCount p)).filter (fun i => !bit failed i)

/-- The width of R423 for a number of good lanes: none below WIDTH_MIN. -/
def State.widthFor (s : State) (p good : Nat) : Option Nat :=
  match (portWidths p).find? (fun w => decide (w ≤ good)) with
  | some w => if s.rd R.LNK_PORT_CTL.WIDTH_MIN p ≤ w then some w else none
  | none => none

/-- The lanes that carry flits now. -/
def State.activeLanes (s : State) (p : Nat) : List Nat :=
  (lanesOutside p (s.rd R.LNK_LANE_STATE.FAILED p)).take (s.rd R.LNK_PORT_STATE.WIDTH p)

/-- Record which lane's place the spare holds (LNK_LANE_STATE): the lane held before, or the lowest failed one. -/
def State.spareReg (s : State) (p w : Nat) : State :=
  let failed := s.rd R.LNK_LANE_STATE.FAILED p
  let used := ((lanesOutside p failed).take w).contains (spareLane p)
  if used then
    if s.rd R.LNK_LANE_STATE.SPARE_USED p = 1 then s
    else (s.wr R.LNK_LANE_STATE.SPARE_USED p 1).wr R.LNK_LANE_STATE.SPARED p
      (((List.range (spareLane p)).find? (fun i => bit failed i)).getD 0)
  else (s.wr R.LNK_LANE_STATE.SPARE_USED p 0).wr R.LNK_LANE_STATE.SPARED p 0

/-! ### Training (R422) -/

/-- The link is lost (or given up): the port is DOWN, and its link reset restores the port's registers (R592, R597); it trains again once
HOLDOFF has passed. -/
def State.portDown (s : State) (p : Nat) (holdoff : Bool) : State :=
  let was := decide (s.rd R.LNK_PORT_STATE.STATE p = 4)
  let s0 := if was then s.resetDomain .link (fun r i => decide (outerIx r i = p)) else s
  let s1 := (s0.wr R.LNK_PORT_STATE.STATE p 0).wr R.LNK_PORT_STATE.WIDTH p 0
  let s2 := s1.modPort p (fun x => { x with step := 0, holdoff := holdoff, ready := none, remap := none, proposed := none, errs := [] })
  if was then { s2 with hand := { s2.hand with linkLost := setBit s2.hand.linkLost p true } } else s2

/-- Training begins at step 1, on every lane; failed lanes are good again (R422, R424). -/
def State.trainStart (s : State) (p : Nat) : State :=
  let s0 := s.portDown p false
  if s.portCan p = false then s0
  -- a permanent port is held in FAILED (R556)
  else if s.isPerm (unitId 12 p 0 0 0) then s0.wr R.LNK_PORT_STATE.STATE p 5
  else
    let x := s0.port p
    let s1 := ((s0.wr R.LNK_PORT_STATE.STATE p 1).wr R.LNK_LANE_STATE.FAILED p 0).wr R.LNK_LANE_STATE.SPARE_USED p 0
    let s2 := (s1.wr R.LNK_LANE_STATE.SPARED p 0).setPort p
      { x with step := if s.rd R.LNK_PORT_CTL.RATE_MAX p = 1 then 1 else 2, tries := 0, good := 2 ^ laneCount p - 1 }
    if x.linked then s2.bump R.LNK_PORT_STAT.RETRAINS p else s2

/-- A training step that fails: another try, up to three; then FAILED, with a record of the step (R422). -/
def State.trainFail (s : State) (p step : Nat) : State :=
  let x := s.port p
  if x.tries < 3 then
    (s.wr R.LNK_PORT_STATE.STATE p 1).setPort p
      { x with step := if s.rd R.LNK_PORT_CTL.RATE_MAX p = 1 then 1 else 2, tries := x.tries + 1, good := 2 ^ laneCount p - 1 }
  else
    ((s.wr R.LNK_PORT_STATE.STATE p 5).setPort p { x with step := 0 }).raise
      { det := .portFailed, unit := unitId 12 p 0 0 0, d0 := BitVec.ofNat 64 step }

/-- Lanes that drop out of training are failed (R424). -/
def State.trainLanes (s : State) (p ok : Nat) : State :=
  let x := s.port p
  let perm := loop (laneCount p) 0 (fun m i => if s.isPerm (unitId 11 p 0 0 i) then m + 2 ^ i else m)
  let good := Nat.land x.good ok - Nat.land (Nat.land x.good ok) perm
  (s.wr R.LNK_LANE_STATE.FAILED p (2 ^ laneCount p - 1 - good)).setPort p { x with good := good }

/-- The port enters ACTIVE at a width; what waited at it leaves in order, and unacknowledged messages are sent again (R422, R428,
R441). -/
def State.activate (s : State) (p w : Nat) : State :=
  let x := s.port p
  -- every retrain is followed by a calibration of the lanes (R526)
  let s1 := (((s.wr R.LNK_PORT_STATE.STATE p 4).wr R.LNK_PORT_STATE.WIDTH p w).spareReg p w).wr R.CAL_LANE_STATE.PENDING p 1
  let s2 := if x.linked then s1.bumpBy R.LNK_PORT_STAT.RESENT p x.unacked.length else s1
  (s2.setPort p { x with step := 0, ready := none, linked := true }).portFlush p

/-- PORT_TRAINING_STEP_END (R421, R422): the running step of a port's training ends, or reaches its bound, with the lanes `ok` through and, at the
alignment step, a lane-to-lane skew in ns, of which the receiver tolerates 64. -/
def execPortTrainingStepEnd (p ok skew : Nat) (s : State) : Host.Outcome State Fault Refusal :=
  let x := s.port p
  -- an armed PORT_FAILED slot fails the training (R559)
  let any := decide (Nat.land x.good ok ≠ 0) && (s.injSlot .portFailed (unitId 12 p 0 0 0)).isNone
  let next (t : State) (n : Nat) : State := t.modPort p (fun y => { y with step := n })
  Sys2Proof.Machine.ok (
    if x.step = 1 then
      if any then (next ((s.trainLanes p ok).wr R.LNK_PORT_STATE.RATE p 1) 3).wr R.LNK_PORT_STATE.STATE p 2
      else next s 2
    else if x.step = 2 then
      if any then (next ((s.trainLanes p ok).wr R.LNK_PORT_STATE.RATE p 0) 3).wr R.LNK_PORT_STATE.STATE p 2
      else s.trainFail p 1
    else if x.step = 3 then
      if any then next (s.trainLanes p ok) 4 else s.trainFail p 2
    else if x.step = 4 then
      if any ∧ skew ≤ 64 then
        let t := (next s 5).wr R.LNK_PORT_STATE.STATE p 3
        t.emit (.local_ p (.ident p s.devAddr (t.port p).good (t.rd R.LNK_PORT_STATE.RATE p) (t.rd R.KEY_SESSION.EPOCH 0)))
      else s.trainFail p 3
    else if x.step = 5 ∧ x.ready = none then s.trainFail p 4
    else s)

/-- IDENT (R422, R423, R446): the peer's address, port and good lanes; both ends choose the width, and the port enters ACTIVE at once,
or at the next boundary where ticks run. -/
def execIdent (p peerPort peerDev lanes : Nat) (s : State) : Host.Outcome State Fault Refusal :=
  let x := s.port p
  ok (if x.step ≠ 5 then s
      else
        let t := (((s.trainLanes p lanes).wr R.LNK_PORT_STATE.PEER_DEV p peerDev).wr R.LNK_PORT_STATE.PEER_PORT p peerPort)
        match t.widthFor p (lanesOutside p (t.rd R.LNK_LANE_STATE.FAILED p)).length with
        | none => (t.wr R.LNK_PORT_STATE.STATE p 5).modPort p (fun y => { y with step := 0 })
        | some w => if s.ticking then t.modPort p (fun y => { y with ready := some w }) else t.activate p w)

/-- HOLDOFF_EXPIRY (R422): HOLDOFF after a loss of link has passed, and the port trains. -/
def execHoldoffExpiry (p : Nat) (s : State) : Host.Outcome State Fault Refusal :=
  ok (if (s.port p).holdoff then s.trainStart p else s)

/-- PORT_RETRAIN (R422, R597): LNK_PORT_CTL.RETRAIN, a link reset of the port. -/
def execPortRetrain (p : Nat) (s : State) : Host.Outcome State Fault Refusal :=
  ok (if p < 6 ∧ s.portCan p = true then (s.resetDomain .link (fun r i => decide (outerIx r i = p))).trainStart p else s)

/-! ### Failing lanes (R424, R425) -/

/-- Remap a port onto its good lanes: the spare takes the place, or the port narrows; with none left the link is lost, and below
WIDTH_MIN the port is FAILED. -/
def State.remapNow (s : State) (p : Nat) : State :=
  let good := lanesOutside p (s.rd R.LNK_LANE_STATE.FAILED p)
  let s1 := s.modPort p (fun x => { x with remap := none })
  if good = [] then s1.portDown p true
  else match s1.widthFor p good.length with
  | none => (s1.portDown p false).wr R.LNK_PORT_STATE.STATE p 5
  | some w => ((s1.wr R.LNK_PORT_STATE.WIDTH p w).spareReg p w).bump R.LNK_PORT_STAT.REMAPS p

/-- The hand at whose boundary a proposal made now may apply: the first at least 10 µs on. -/
def State.remapHand (s : State) : Nat :=
  if s.hand.running = true ∧ s.hand.expiry ≥ s.now + 10000 then s.handNum else s.handNum + 1

/-- Propose a remap to the peer (R425): the width and spared lane that result (31: no spare). -/
def State.propose_ (s : State) (p : Nat) (hard : Bool) : State :=
  let t := s.remapNow p
  if t.rd R.LNK_PORT_STATE.STATE p ≠ 4 then s
  else
    let w := t.rd R.LNK_PORT_STATE.WIDTH p
    let sp := if t.rd R.LNK_LANE_STATE.SPARE_USED p = 1 then t.rd R.LNK_LANE_STATE.SPARED p else 31
    let n := (s.port p).proposal + 1
    (s.modPort p (fun x => { x with proposal := n, proposed := some (w, sp, hard) })).portOut p
      (.local_ p (.lane n s.remapHand w sp hard))

/-- Fail lane i (R424), hard or soft, for a cause (1 loss of FEC lock, 2 uncorrectable codewords, 3 corrected symbols): a record; if the
lane was active the port is remapped, at once or at a boundary. -/
def State.failLane (s : State) (p i : Nat) (hard : Bool) (cause : Nat) : State :=
  let failed := s.rd R.LNK_LANE_STATE.FAILED p
  if p ≥ 6 ∨ i ≥ laneCount p ∨ bit failed i = true then s
  else
    let active := decide (s.rd R.LNK_PORT_STATE.STATE p = 4) && (s.activeLanes p).contains i
    let s1 := (s.wr R.LNK_LANE_STATE.FAILED p (setBit failed i true)).raise
      { det := .laneFail, unit := unitId 11 p 0 0 i, d0 := BitVec.ofNat 64 cause }
    if active = false then s1
    else if hard then (s1.propose_ p true).remapNow p
    else (s1.propose_ p false).modPort p (fun x => { x with remap := some (s.now + 10000, none) })

/-- LANE_FAIL (R424): a lane loses FEC lock. -/
def execLaneFail (p i : Nat) (s : State) : Host.Outcome State Fault Refusal := ok (s.failLane p i true 1)

/-- LANE_ERROR_WINDOW (R424): a 1 ms window of a lane closes with its corrected symbols and uncorrectable codewords. -/
def execLaneErrorWindow (p i corrected uncorr : Nat) (s : State) : Host.Outcome State Fault Refusal :=
  let n := if uncorr = 0 then 0 else mget 0 (s.port p).errs i + 1
  let s1 := (s.bumpBy R.LNK_PORT_STAT.UNCORR p uncorr).modPort p (fun x => { x with errs := mset 0 x.errs i n })
  ok (if p ≥ 6 ∨ i ≥ laneCount p then s
      -- an armed LANE_FAIL slot forces a loss of FEC lock (R559)
      else if (s.injSlot .laneFail (unitId 11 p 0 0 i)).isSome then s1.failLane p i true 1
      else if n ≥ 3 then s1.failLane p i true 2
      else if corrected > s.rd R.LNK_LANE_CFG.CORR_THRESH p then s1.failLane p i false 3
      else s1)

/-- A remap as the peer proposed it. -/
def State.peerRemap (s : State) (p w spared : Nat) : State :=
  let s1 := (s.wr R.LNK_PORT_STATE.WIDTH p w).modPort p (fun x => { x with remap := none })
  (if spared < 31 then (s1.wr R.LNK_LANE_STATE.SPARED p spared).wr R.LNK_LANE_STATE.SPARE_USED p 1 else s1).bump
    R.LNK_PORT_STAT.REMAPS p

/-- LANE (R425): the peer's proposal, agreed to and applied at once or at a boundary; its agreement to a proposal made here changes
nothing more. -/
def execLane (p proposal hand width spared : Nat) (hard : Bool) (s : State) : Host.Outcome State Fault Refusal :=
  let x := s.port p
  ok (if s.rd R.LNK_PORT_STATE.STATE p ≠ 4 then s
      else if x.proposed = some (width, spared, hard) ∧ x.proposal = proposal then s.setPort p { x with proposed := none }
      else
        let t := s.portOut p (.local_ p (.lane proposal hand width spared hard))
        if hard then t.peerRemap p width spared
        else t.modPort p (fun y => { y with remap := some (s.now + 10000, some (width, spared)) }))

/-! ### Flits (R426 to R428) -/

/-- FLIT (R426 to R428): the forty words of a flit received on an ACTIVE port, discarded where its check fails or its SEQ is out of order, and whether
it shows that the peer discarded a flit of this port, which then replays; more than 16 replays in 1 ms retrain the port.  What waited for credit or for the
replay buffer leaves. -/
def execFlit (p : Nat) (ws : List Word) (replay : Bool) (s : State) : Host.Outcome State Fault Refusal :=
  let x := s.port p
  let h := flitHead ws
  ok (if s.rd R.LNK_PORT_STATE.STATE p ≠ 4 then s
      else if flitOk ws = false ∨ h.seq ≠ x.rxSeq then s
      else
        let t := (s.setPort p (x.gotFlit h)).portFlush p
        if replay = false then t
        else
          let times := s.now :: x.replays.filter (fun q => decide (q + 1000000 > s.now))
          let u := (t.bump R.LNK_PORT_STAT.REPLAYS p).modPort p (fun y => { y with replays := times })
          if times.length > 16 then (u.trainStart p).modPort p (fun y => { y with replays := [] }) else u)

/-! ### The tick, the release and the trim on the control lane -/

/-- TICK (R14, R16, R439, R441, R603): relayed, held for its due time; one whose due time has passed is discarded, and so is one from
anywhere but the tree parent.  A device without a role takes that domain's ticks. -/
def execTick (port hand due period : Nat) (s : State) : Host.Outcome State Fault Refusal :=
  ok (if s.fromParent port = false then s.badMsg port
      else
        let t := s.sendTree (.tick hand due period)
        if due < s.now then t
        else t.ringGuard .tick (fun _ => true) (fun u =>
          { u with hand := { u.hand with ann := some (hand, due, period), stopped := false }, missedFrom := []
                   obeys := u.obeys || decide (u.rd R.SYN_ROLE.ROLE 0 = 0) }))

/-- RELEASE (R319, R320, R439): a domain trick's release, relayed along the tree or addressed to this device, or the manager's refusal of a play. -/
def execRelease (port : Nat) (tree : Bool) (dst src trick hand : Nat) (refused : Bool) (s : State) : Host.Outcome State Fault Refusal :=
  ok (if tree then
        if s.fromParent port then (s.sendTree (.release trick hand refused)).dtrickReleased trick hand else s.badMsg port
      else if dst ≠ s.devAddr then s.forwardCtl port dst src (.release trick hand refused)
      else if refused then s.dtrickRefused src trick hand
      else s.dtrickReleased trick hand)

/-- TRIM (R416): a trim notice; the rows leave the seat's cache at the next boundary. -/
def execTrim (port dst src hand handle count : Nat) (s : State) : Host.Outcome State Fault Refusal :=
  let i := handleIx handle
  ok (if dst ≠ s.devAddr then s.forwardCtl port dst src (.trim hand handle count)
      else s.setCache i { s.cacheOf i with trim := (s.cacheOf i).trim + count })

/-! ### Device time (R442) -/

/-- Device time is synchronised: at the root always, elsewhere by LNK_TIME_STAT. -/
def State.synced (s : State) : Bool :=
  decide (s.rd R.LNK_TREE.PARENT_VALID (s.rd R.LNK_TIME_STAT.TREE 0) = 0 ∨ s.rd R.LNK_TIME_STAT.SYNCED 0 = 1)

/-- TIME_EXCHANGE (R442): a request with the departure time goes to the tree parent, if its port runs. -/
def execTimeExchange (s : State) : Host.Outcome State Fault Refusal :=
  let t := s.rd R.LNK_TIME_STAT.TREE 0
  let p := s.rd R.LNK_TREE.PARENT t
  ok (if s.rd R.LNK_TREE.PARENT_VALID t = 1 ∧ s.rd R.LNK_PORT_STATE.STATE p = 4 then s.emit (.local_ p (.time 1 s.now 0 0)) else s)

/-- A signed number of nanoseconds in 16 bits, held at the ends of the field. -/
def offset16 (d : Int) : Nat := (clampInt (-32768) 32767 d % 65536).toNat

/-- TIME (R442): a request (step 1) is answered with its arrival and departure; the parent's answer (step 2), arriving at t4, steers
device time towards the parent's by at most 1 ns per µs of the 100 µs between exchanges. -/
def execTime (port step t1 t2 t3 t4 : Nat) (s : State) : Host.Outcome State Fault Refusal :=
  ok (if step = 1 then s.emit (.local_ port (.time 2 t1 t4 s.now))
      else if step ≠ 2 ∨ s.fromParent port = false then s
      else
        let delay : Int := (((t4 : Int) - t1) - ((t3 : Int) - t2)) / 2
        -- own time at arrival less the parent's
        let off : Int := (t4 : Int) - ((t3 : Int) + delay)
        let steer := clampInt (-100) 100 (-off)
        let good := s.timeGood + 1
        let s1 : State := { s with now := ((s.now : Int) + steer).toNat, timeGood := good, timeLast := s.now }
        let s2 := s1.wr R.LNK_TIME_STAT.OFFSET 0 (offset16 off)
        if good ≥ 2 then s2.wr R.LNK_TIME_STAT.SYNCED 0 1 else s2)

/-- TIME_SYNC_LOST (R442): no TIME from the parent for 2 ms; the device starts no hands until two exchanges have completed. -/
def execTimeSyncLost (s : State) : Host.Outcome State Fault Refusal :=
  ok (if s.rd R.LNK_TREE.PARENT_VALID (s.rd R.LNK_TIME_STAT.TREE 0) = 0 then s
      else
        let t : State := { s.advance (s.timeLast + 2000000) with timeGood := 0 }
        (t.wr R.LNK_TIME_STAT.SYNCED 0 0).bump R.LNK_TIME_STAT.LOST 0)

/-! ### The bypass (R443, R444) -/

/-- Close the bypass: XP and XN go DOWN and do not train. -/
def State.bypClose (s : State) : State :=
  ((s.wr R.LNK_BYP_CTL.CLOSED 0 1).portDown 0 false).portDown 1 false

/-- Open the bypass: XP and XN train. -/
def State.bypOpenNow (s : State) : State :=
  let t : State := { s.wr R.LNK_BYP_CTL.CLOSED 0 0 with bypOpen := false }
  (t.trainStart 0).trainStart 1

/-- BYPASS_CLOSE (R443): LNK_BYP_CTL.CLOSE; a scheduled open is cancelled. -/
def execBypassClose (s : State) : Host.Outcome State Fault Refusal := ok ({ s with bypOpen := false } : State).bypClose

/-- BYPASS_OPEN (R444): LNK_BYP_CTL.OPEN, at once or scheduled; with BYP_FORCE_N low or VAON down nothing opens at once. -/
def execBypassOpen (s : State) : Host.Outcome State Fault Refusal :=
  ok (if s.rd R.LNK_BYP_CTL.AT_HAND 0 = 1 then { s with bypOpen := true }
      else if s.rd R.LNK_BYP_CTL.FORCE 0 = 1 ∨ s.vaonLow = true then s
      else s.bypOpenNow)

/-- BYP_FORCE (R443): BYP_FORCE_N goes low. -/
def execBypForce (s : State) : Host.Outcome State Fault Refusal := ok (s.wr R.LNK_BYP_CTL.FORCE 0 1).bypClose

/-- BYP_FORCE_RELEASE (R444): BYP_FORCE_N returns high; the bypass stays closed until an open takes effect. -/
def execBypForceRelease (s : State) : Host.Outcome State Fault Refusal := ok (s.wr R.LNK_BYP_CTL.FORCE 0 0)

/-- VAON_LOSS (R443): VAON falls below 0.70 V; the bypass closes, and a scheduled open is cancelled at its boundary. -/
def execVaonLoss (s : State) : Host.Outcome State Fault Refusal := ok ({ s with vaonLow := true } : State).bypClose

/-- A scheduled open at the boundary after its hand (R444): it takes effect, or is cancelled for good. -/
def State.bdyBypass (s : State) : State :=
  if s.bypOpen = true ∧ s.handNum ≥ s.rd R.LNK_BYP_HAND.HAND 0 then
    if s.rd R.LNK_BYP_CTL.FORCE 0 = 1 ∨ s.vaonLow = true then { s with bypOpen := false } else s.bypOpenNow
  else s

/-- Ports at a boundary (R422, R425): trained ports enter ACTIVE, and soft remaps at least 10 µs old apply. -/
def State.bdyPorts (s : State) : State :=
  loop 6 s (fun t p =>
    let x := t.port p
    match x.ready with
    | some w => t.activate p w
    | none => match x.remap with
      | some (at_, r) =>
        if at_ > t.now then t
        else match r with
        | some (w, sp) => t.peerRemap p w sp
        | none => t.remapNow p
      | none => t)

end Sys2Proof.Machine
end

