-- ==== Sys2Proof/Machine/Domain.lean ====
section
/-! DEFINITION. Roles, replicas and seats across a domain: the manager's announcements, mirrors and takeover, holds, declarations and
carrying, joining and retiring (16_many_devices.md), and the manager's answers to reports (R45, R46). -/
namespace Sys2Proof.Machine

/-! ### ROLE messages and roles (R454, R457, R458) -/

/-- A TREE message arrived on the port towards the root of tree t; sending along tree t. -/
def State.fromParentOf (s : State) (t port : Nat) : Bool :=
  decide (s.rd R.LNK_TREE.PARENT_VALID t = 1 ∧ s.rd R.LNK_TREE.PARENT t = port)
def State.sendTreeOf (s : State) (t : Nat) (m : Msg) : State :=
  let c := s.rd R.LNK_TREE.CHILDREN t
  loop 6 s (fun u p => if bit c p then u.portOut p (.tree p m) else u)

/-- The present term. -/
def State.term (s : State) : Nat := s.rd R.SYN_ROLE.TERM 0

/-- Record manager, standby and term, the own role that follows, and the tree in use (R454). -/
def State.setRoles (s : State) (manager standby : Nat) (valid : Bool) (term tree : Nat) : State :=
  let role := if manager = s.devAddr then 2 else if valid = true ∧ standby = s.devAddr then 3 else 1
  let s1 := if s.rd R.SYN_ROLE.ROLE 0 ≠ 0 ∧ s.manager ≠ manager then s.bump R.SYN_DOMAIN_STAT.TAKEOVERS 0 else s
  (((((s1.wr R.SYN_ROLE.ROLE 0 role).wr R.SYN_ROLE.MANAGER 0 manager).wr R.SYN_ROLE.STANDBY 0 standby).wrB R.SYN_ROLE.STANDBY_VALID 0
    valid).wr R.SYN_ROLE.TERM 0 term).wr R.LNK_TIME_STAT.TREE 0 tree

/-- Candidates for the role of manager, in order. -/
def State.candidates (s : State) : List Nat :=
  ([s.rd R.SYN_ROLE_CAND.C0 0, s.rd R.SYN_ROLE_CAND.C1 0, s.rd R.SYN_ROLE_CAND.C2 0, s.rd R.SYN_ROLE_CAND.C3 0]).take
    (s.rd R.SYN_ROLE_CAND.COUNT 0)

/-- A domain starts when the candidates are first written (R454): the first is manager with term 1, the second standby; 0 candidates
are no domain. -/
def State.domainStart (s : State) : State :=
  match s.candidates with
  | [] => (s.wr R.SYN_ROLE.ROLE 0 0).wr R.SYN_ROLE.STANDBY_VALID 0 0
  | c :: rest => if s.term = 0 then s.setRoles c (rest.headD 0) (!rest.isEmpty) 1 0 else s

/-- ROSTER (R458) over the manager's tree. -/
def State.sendRoster (s : State) : State :=
  s.sendTree (.role 2 [s.term, s.manager, s.rd R.SYN_ROLE.STANDBY 0, s.rd R.SYN_ROLE.STANDBY_VALID 0, s.rd R.LNK_TIME_STAT.TREE 0])

/-- ROSTER (R454): received along the tree; relayed and obeyed. -/
def execRoster (port term manager standby : Nat) (valid : Bool) (tree : Nat) (s : State) : Host.Outcome State Fault Refusal :=
  ok (if term < s.term ∨ s.fromParent port = false then s.badMsg port
      else
        let t := s.sendTree (.role 2 [term, manager, standby, if valid then 1 else 0, tree])
        t.ringGuard .role (fun _ => true) (fun t => { t.setRoles manager standby valid term tree with obeys := true }))

/-- ROSTER_PUBLISH (R454): the manager publishes the roster, at least every 4,096 hands. -/
def execRosterPublish (s : State) : Host.Outcome State Fault Refusal := ok (if s.rd R.SYN_ROLE.ROLE 0 = 2 then s.sendRoster else s)

/-! ### What a device reports of itself (R468) -/

/-- The live image version: the highest among live copies. -/
def State.liveVersion (s : State) : Nat :=
  s.regs.foldl (fun a e =>
    if e.1 % 256 = RegId.ctorIdx .ARF_WSMAP_LO then
      let i := e.1 / 256
      if s.rd R.ARF_WSMAP_LO.VALID i = 1 then
        max a (if s.rd R.ARF_WSMAP_LO.LIVE i = 0 then s.rd R.ARF_WSVER.A_VERSION i else s.rd R.ARF_WSVER.B_VERSION i)
      else a
    else a) 0

/-- Flags of a STATE message: SYNCED, programs ACTIVE, digests agree, pipeline windows open. -/
def State.stateFlags (s : State) : Nat :=
  let active := (List.range s.nFaces).all (fun f => decide (s.rd R.FCE_PROG_STATE.STATE f = 3))
  let windows := s.faces.all (fun e => e.2.wins.all (fun w =>
    decide (s.rd R.SYN_WIN_CFG.PIPE (ix 256 e.1 w.1) ≠ 1 ∨ s.winState e.1 w.1 = 2)))
  (if s.synced then 1 else 0) + (if active then 2 else 0) + (if s.digestBad then 0 else 4) + (if windows then 8 else 0)

/-- Replica and stage of a device, by the manifest. -/
def State.stageOf (s : State) (dev : Nat) : Option (Nat × Nat) :=
  (s.manifest.find? (fun (d : Nat × Nat × Nat) => decide (d.1 = dev))).map (fun d => (d.2.1, d.2.2))
def State.stagesOf (s : State) (r : Nat) : List (Nat × Nat × Nat) :=
  s.manifest.filter (fun (d : Nat × Nat × Nat) => decide (d.2.2 = r))
/-- The replicas that the manifest names. -/
def State.replicas (s : State) : List Nat := (s.manifest.map (fun (d : Nat × Nat × Nat) => d.2.2)).eraseDups
def State.rep (s : State) (r : Nat) : Rep := mget {} s.reps r
def State.modRep (s : State) (r : Nat) (g : Rep → Rep) : State := { s with reps := mset {} s.reps r (g (s.rep r)) }
def State.repState (s : State) (r : Nat) : Nat := s.rd R.SYN_REPLICA.STATE r

/-- The checks 3 to 7 of a join, in order, over the STATE reports of its devices (R468): 0 passes. -/
def joinCode (expelled : Bool) (xs : List (Nat × Nat × Nat)) : Nat :=
  let all_ (b : Nat) : Bool := xs.all (fun x => bit x.2.2 b)
  if all_ 0 = false then 3
  else if all_ 1 = false then 4
  else if (xs.map (fun x => x.2.1)).eraseDups.length > 1 then 5
  else if expelled = true ∧ all_ 2 = false then 6
  else if all_ 3 = false then 7
  else 0

/-- A refused join (R468). -/
def State.joinRefuse (s : State) (code : Nat) : State := (s.wr R.SYN_JOIN_CTL.REFUSE 0 1).wr R.SYN_JOIN_CTL.CODE 0 code

/-- Once every device of a joining replica has reported, the join passes or is refused. -/
def State.joinCheck (s : State) (r : Nat) : State :=
  let x := s.rep r
  let devs := s.stagesOf r
  match x.join with
  | some (h, false) =>
    if devs.all (fun d => x.states.any (fun e => decide (e.1 = d.1))) then
      let code := joinCode (decide (x.prior = 5)) (x.states.map Prod.snd)
      if code = 0 then s.modRep r (fun y => { y with join := some (h, true) })
      else ((s.joinRefuse code).modRep r (fun y => { y with join := none })).wr R.SYN_REPLICA.STATE r x.prior
    else s
  | _ => s

/-- A STATE report reaches the manager. -/
def State.stateReport (s : State) (src hand version flags : Nat) : State :=
  match s.stageOf src with
  | some (_, r) => (s.modRep r (fun x => { x with states := mset (0, 0, 0) x.states src (hand, version, flags + 16) })).joinCheck r
  | none => s

/-- Report this device's own state to the manager. -/
def State.sendState (s : State) : State :=
  let h := s.rd R.SYN_HAND_COMMITTED.HAND 0
  if s.isManager then s.stateReport s.devAddr h s.liveVersion s.stateFlags
  else s.sendCtl s.manager (.role 5 [s.term, h, s.liveVersion, s.stateFlags])

/-- STATE (R468): a device's state report reaches the manager. -/
def execState (port dst src term hand version flags : Nat) (s : State) : Host.Outcome State Fault Refusal :=
  ok (if dst ≠ s.devAddr then s.forwardCtl port dst src (.role 5 [term, hand, version, flags])
      else if term < s.term then s.badMsg port
      else if s.isManager then s.ringGuard .role (fun _ => true) (fun t => t.stateReport src hand version flags)
      else s)

/-! ### Holds on this device (R460, R463) -/

/-- The replica of this device is held in hand h. -/
def State.heldIn (s : State) (h : Nat) : Bool := s.holds.foldl (fun b e => if e.1 ≤ h then e.2 else b) false

/-- A hold or lift of replica r from hand `first` reaches this device. -/
def State.takeHold (s : State) (r : Nat) (on : Bool) (first : Nat) : State :=
  match s.place with
  | some (_, own, _) => if own = r then { s with holds := s.holds ++ [(first, on)] } else s
  | none => s

/-- HOLD (R460): received along the tree. -/
def execHold (port term r : Nat) (on : Bool) (first : Nat) (s : State) : Host.Outcome State Fault Refusal :=
  ok (if term < s.term ∨ s.fromParent port = false then s.badMsg port
      else (s.sendTree (.role 6 [term, r, if on then 1 else 0, first])).ringGuard .role (fun _ => true) (fun t =>
        ({ t with obeys := true } : State).takeHold r on first))

/-- A new state of replica r from hand `first` reaches this device (R463, R468). -/
def State.takeReplica (s : State) (r st first : Nat) : State :=
  match s.place with
  | some (_, own, _) =>
    if own ≠ r then s
    else if st = 1 then s.sendState
    else if st = 4 ∨ st = 5 then s.takeHold r true first
    else if st = 2 then s.takeHold r false first
    else s
  | none => s

/-- REPLICA (R463): received along the tree. -/
def execReplica (port term r st first : Nat) (s : State) : Host.Outcome State Fault Refusal :=
  ok (if term < s.term ∨ s.fromParent port = false then s.badMsg port
      else (s.sendTree (.role 7 [term, r, st, first])).ringGuard .role (fun _ => true) (fun t =>
        ({ t with obeys := true } : State).takeReplica r st first))

/-- The manager tells every device of a new state of replica r from hand `first`. -/
def State.sayReplica (s : State) (r st first : Nat) : State :=
  ((s.wr R.SYN_REPLICA.STATE r st).sendTree (.role 7 [s.term, r, st, first])).takeReplica r st first

/-! ### Reports (R45, R46, R459) -/

/-- The manager takes a report: availability and clean hands of the stage, and on a misdeal the seat limit falls and an empty slot is
owed (R45); the misdealt device's plays are withdrawn. DESIGN CHOICE (log entry 72): a report of a missed tick is no misdeal report here; it
neither lowers the limit nor owes an empty slot. -/
def State.managerReport (s : State) (src outcome hand : Nat) : State :=
  match s.stageOf src with
  | none => s
  | some (k, r) =>
    -- a report that comes after the announcement of the hand after next has been judged missing (R459)
    let s1 := if hand + 2 ≤ s.announced then s else s.modRep r (fun x =>
      { x with seen := mset 0 x.seen k (hand + 1)
               missing := mset 0 x.missing k (if outcome = 2 then mget 0 x.missing k + 1 else 0)
               clean := mset 0 x.clean k (if outcome = 0 then mget 0 x.clean k + 1 else 0) })
    if outcome ≠ 1 then s1
    else
      let sh := s.rd R.SYN_BATCH_CTL.SHRINK 0
      let s2 := s1.modRep r (fun x =>
        let cur := x.limit.getD s.seatMax
        { x with dirty := true, cleanHands := 0
                 limit := if sh = 0 then x.limit else some (min cur (max (s.rd R.SYN_BATCH_CTL.MIN_SEATS 0) (cur - max 1 (cur * sh / 16))))
                 emptyOwed := if s.rd R.SYN_BATCH_CTL.EMPTY_EN 0 = 1 then x.emptyOwed + 1 else x.emptyOwed })
      s2.withdrawPlays src

/-- Width codes of a report: a 7 is a bad message (R438). -/
def badWidths (widths : Nat) : Bool := (List.range 6).any (fun p => decide (nf widths (3 * p) 3 = 7))

/-- REPORT (R459, R438): a hand report reaches the manager. -/
def execReport (port dst src outcome hand slack widths rates backlog : Nat) (s : State) : Host.Outcome State Fault Refusal :=
  ok (if dst ≠ s.devAddr then s.forwardCtl port dst src (.report outcome hand slack widths rates backlog)
      else
        let t := if badWidths widths then s.badMsg port else s
        if t.isManager then t.managerReport src outcome hand else t)

/-- SEAT_LIMIT_REGROW (R46): after REGROW clean hands the limit of replica r rises by one seat, up to the image's maximum. -/
def execSeatLimitRegrow (r : Nat) (s : State) : Host.Outcome State Fault Refusal :=
  let x := s.rep r
  let n := s.rd R.SYN_BATCH_CTL.REGROW 0
  ok (if s.isManager = true ∧ n ≠ 0 ∧ x.cleanHands ≥ n then
        s.modRep r (fun y => { y with cleanHands := y.cleanHands - n
                                      limit := y.limit.map (fun l => min s.seatMax (l + 1)) })
      else s)

/-- A stage of replica r with a count of at least n hands. -/
def stageOver (m : SMap Nat) (n : Nat) : Option Nat := (m.find? (fun e => decide (e.2 ≥ n))).map Prod.fst

/-- REPLICA_HOLD (R459): a stage unavailable for HOLD_HANDS hands; the replica is held from the next tick announced. -/
def execReplicaHold (r : Nat) (s : State) : Host.Outcome State Fault Refusal :=
  let first := s.announced + 1
  ok (if s.isManager = false ∨ (s.repState r ≠ 2 ∧ s.repState r ≠ 6) then s
      else match stageOver (s.rep r).missing (s.rd R.SYN_DOMAIN_CFG.HOLD_HANDS 0) with
      | none => s
      | some _ =>
        (((s.wr R.SYN_REPLICA.STATE r 3).bump R.SYN_DOMAIN_STAT.HOLDS 0).sendTree (.role 6 [s.term, r, 1, first])).takeHold r true first)

/-- HOLD_LIFT (R461): every stage has reported outcome 0 for HOLD_HANDS hands. -/
def execHoldLift (r : Nat) (s : State) : Host.Outcome State Fault Refusal :=
  let first := s.announced + 1
  let x := s.rep r
  ok (if s.isManager = true ∧ s.repState r = 3 ∧
         (s.stagesOf r).all (fun d => decide (mget 0 x.clean d.2.1 ≥ s.rd R.SYN_DOMAIN_CFG.HOLD_HANDS 0)) = true then
        ((s.wr R.SYN_REPLICA.STATE r (if x.retire.isSome then 6 else 2)).sendTree (.role 6 [s.term, r, 0, first])).takeHold r false first
      else s)

/-! ### Declarations and carrying (R463 to R466) -/

/-- Declare replica r DOWN (4) or EXPELLED (5) because of a stage. -/
def State.declare (s : State) (r st stage : Nat) : State :=
  let first := s.announced + 1
  let dev := ((s.stagesOf r).find? (fun d => decide (d.2.1 = stage))).map (fun d => d.1)
  let s1 := ((s.bump R.SYN_DOMAIN_STAT.DECLARED 0).wr R.SYN_REPLICA.CAUSE r stage).wr R.SYN_REPLICA.CAUSE_VALID r 1
  (s1.modRep r (fun x => { x with down := some first, lost := dev, retire := none, join := none })).sayReplica r st first

/-- REPLICA_DOWN (R463): a stage unavailable for FAIL_HANDS hands. -/
def execReplicaDown (r : Nat) (s : State) : Host.Outcome State Fault Refusal :=
  ok (if s.isManager = false ∨ (s.repState r ≠ 2 ∧ s.repState r ≠ 3 ∧ s.repState r ≠ 6) then s
      else match stageOver (s.rep r).missing (s.rd R.SYN_DOMAIN_CFG.FAIL_HANDS 0) with
      | none => s
      | some k => s.declare r 4 k)

/-- Fates at the first boundary of a declaration (R464). -/
def State.fates (s : State) (r : Nat) : State :=
  let lost (d : Nat) : Bool := decide ((s.rep r).lost = some d)
  let s1 := s.seats.foldl (fun t e =>
    let x := e.2
    if x.replica ≠ r ∨ x.st = .free ∨ x.st = .carried then t
    else if lost x.front then (t.modSeat e.1 (fun y => { y with freeing := true, silent := true })).bump R.SYN_DOMAIN_STAT.LOST_FRONT 0
    else match x.st with
      | .drain => t.modSeat e.1 (fun y => { y with freeing := true, endCode := 7 })
      | .stocking | .stocked => t.modSeat e.1 (fun y => { y with freeing := true, endCode := 255 })
      | _ => t) s
  let gone := s1.antes.filter (fun a => lost a.front)
  let s2 := gone.foldl (fun t a => t.freeCarried a) { s1 with antes := s1.antes.filter (fun a => !lost a.front) }
  (s2.bumpBy R.SYN_DOMAIN_STAT.LOST_FRONT 0 gone.length).modRep r (fun x => { x with down := none })

/-- The ante that a carried seat i becomes (R466): its prompt is its history, and what is left of MAX_TOKENS; `first`: the first hand for which it may
be considered. -/
def Seat.carryAnte (x : Seat) (i first : Nat) : Ante :=
  let gen := x.toks.drop x.prompt
  let left := x.maxTokens - gen.length
  { ring := x.ring, front := x.front, flags := x.flags, prefixSet := x.prefixSet, tag := x.tag, base := 0xFFFFFFFF, prompt := x.toks
    crc := tokenSeal x.toks, maxTokens := left, ttl := x.ttl, deadline := x.deadline
    rec_ := { x.rec_ with generated := x.rec_.generated ++ gen, maxTokens := left, hist := x.toks.drop (x.toks.length - 65536) }
    carried := some (x.handle i, gen.length, first) }

/-- An ante enters its ring's held queue ahead of that ring's new antes (R466). -/
def State.holdFirst (s : State) (a : Ante) : State :=
  { s with antes := s.antes.insertIdx (s.antes.findIdx (fun b => decide (b.key = a.key) && b.carried.isNone)) a }

/-- The front sends a carried seat's history to the head that is to serve it, in sealed DATA parcels addressed to face 0, window 255 (R466). -/
def State.sendHistory (s : State) (head : Nat) (toks : List Nat) : State :=
  match s.route head with
  | none => s
  | some (port, _) =>
    let bytes := toks.flatMap (fun t => leBytes t 4)
    let ws := (List.range (16 * cdiv bytes.length 128)).map (fun i => (BitVec.ofNat 64 (numLE ((bytes.drop (8 * i)).take 8)), false))
    loop (cdiv ws.length 512) s (fun t k => t.putParcel port (t.parcelOf 1 head 0 255 (4096 * k) 0 0 port ((ws.drop (512 * k)).take 512)))

/-- Carry seat i (R466).  DESIGN CHOICE (log entry 81): a history that travels leaves in the next hand, so the seat is considered from the third. -/
def State.carrySeat (s : State) (i : Nat) : State :=
  let x := s.seat i
  let home := decide (s.replicaOf x.front = some x.replica ∧ s.repState x.replica = 2)
  let a := x.carryAnte i (if home then 0 else s.handNum + 3)
  let s1 : State := { s.holdFirst a with limbo := s.limbo ++ [s.cacheOf i] }
  let s2 := ((s1.setCache i {}).setSeat i { x with st := .carried, inFlight := [], drafts := [], mixed := x.mixed, reprefilled := true }).bump
    R.SYN_DOMAIN_STAT.CARRIED 0
  match s2.carrier a with
  | some r =>
    let head := s2.rd R.SYN_REPLICA.HEAD r
    if x.front = s.devAddr ∧ head ≠ x.front then s2.sendHistory head x.toks else s2
  | none => s2

/-- Replica r's seats are being carried: it is DOWN or EXPELLED, or retiring in CARRY mode or past its TIMEOUT. -/
def State.carrying (s : State) (r : Nat) : Bool :=
  decide (s.repState r = 4 ∨ s.repState r = 5) ||
  (match (s.rep r).retire with
   | some (m, h) => m || decide (h ≠ 0 ∧ s.handNum ≥ h)
   | none => false)

/-- The seats carried at a boundary: in order of admission, at most CARRY_PER_HAND. -/
def State.bdyCarry (s : State) : State :=
  let due := (s.seats.filter (fun e => s.carrying e.2.replica && !e.2.freeing &&
    decide (e.2.st = .prefill ∨ e.2.st = .decode ∨ e.2.st = .recall))).mergeSort (fun a b => decide (a.2.order ≤ b.2.order))
  (due.take (s.rd R.SYN_DOMAIN_CFG.CARRY_PER_HAND 0)).foldl (fun t e => t.carrySeat e.1) s

/-- Retirements at a boundary (R469): the replica is RETIRING, and with no seat left it is OUT and DONE. -/
def State.bdyRetire (s : State) (r : Nat) : State :=
  match (s.rep r).retire with
  | none => s
  | some _ =>
    let s1 := if s.repState r = 2 then s.sayReplica r 6 (s.handNum + 1) else s
    if s1.seats.any (fun e => decide (e.2.replica = r ∧ e.2.st ≠ .free ∧ e.2.st ≠ .carried)) then s1
    else ((s1.modRep r (fun x => { x with retire := none })).sayReplica r 0 (s.handNum + 1)).wr R.SYN_RETIRE_CTL.DONE 0 1

/-- A passed join takes effect at the boundary after JOIN_HAND (R468). -/
def State.bdyJoin (s : State) (r : Nat) : State :=
  match (s.rep r).join with
  | some (h, true) =>
    if s.handNum ≥ h then
      let devs := s.stagesOf r
      let head := ((devs.find? (fun d => decide (d.2.1 = 0))).map (fun d => d.1)).getD 0
      (((s.modRep r (fun x => { x with join := none, missing := [], clean := [], seen := [], lost := none })).wr R.SYN_REPLICA.HEAD r head).wr
        R.SYN_REPLICA.DEPTH r devs.length).sayReplica r 2 (h + 1)
    else s
  | _ => s

/-- The domain at a boundary, on the manager. -/
def State.bdyDomain (s : State) : State :=
  if s.isManager = false then s
  else
    let s1 := s.replicas.foldl (fun t r =>
      let t1 := match (t.rep r).down with
        | some h => if t.handNum + 1 ≥ h ∨ t.ticking = false then t.fates r else t
        | none => t
      (t1.bdyJoin r).bdyRetire r) s
    s1.bdyCarry

/-- JOIN (R468): SYN_JOIN_CTL.REQ on the manager. -/
def execJoin (s : State) : Host.Outcome State Fault Refusal :=
  let r := s.rd R.SYN_JOIN_CTL.REPLICA 0
  let h := s.rd R.SYN_JOIN_HAND.HAND 0
  let st := s.repState r
  ok (if s.isManager = false then s
      else if st ≠ 0 ∧ st ≠ 4 ∧ st ≠ 5 then s.joinRefuse 1
      else if s.ticking = true ∧ h ≤ s.announced + 1 then s.joinRefuse 2
      else
        let t := s.modRep r (fun x => { x with join := some (h, false), prior := st, states := [] })
        State.orNow (t.sayReplica r 1 (s.announced + 1)) State.bdyDomain)

/-- REPLICA_RETIRE (R469): SYN_RETIRE_CTL.REQ on the manager, for a replica that serves. -/
def execReplicaRetire (s : State) : Host.Outcome State Fault Refusal :=
  let r := s.rd R.SYN_RETIRE_CTL.REPLICA 0
  let st := s.repState r
  let t := s.rd R.SYN_RETIRE_CTL.TIMEOUT 0
  ok (if s.isManager = false ∨ (st ≠ 2 ∧ st ≠ 3) then s
      else State.orNow (s.modRep r (fun x =>
        { x with retire := some (decide (s.rd R.SYN_RETIRE_CTL.MODE 0 = 1), if t = 0 then 0 else s.handNum + t) })) State.bdyDomain)

/-! ### Mirrors and the standby (R455, R456, R458) -/

/-- Send a MIRROR record to the standby, or to the candidate being copied: its kind, index and words. -/
def State.mirror (s : State) (dst kind i : Nat) (ws : List Nat) : State := s.sendCtl dst (.role 3 (s.term :: kind :: i :: ws))

/-- A seat as a MIRROR carries it (log entry 81): its numbers as words, its history, its bias list and its stop sequences; and the seat of such an
image. -/
def seatImage (x : Seat) : Entry :=
  let r := x.rec_
  let p := r.samp
  let b (v : Bool) : Nat := if v then 1 else 0
  { words := ([(if x.st = .carried then 7 else x.st.num), x.gen, x.ring, x.front, x.replica, x.tag, x.flags, x.prefixSet, x.prompt, x.crc,
        (match x.base with | some h => h + 1 | none => 0), x.maxTokens, x.ttl, x.deadline, x.lane, x.cost, x.order, x.placed, b x.acked, b x.recalled,
        b x.reprefilled, b x.mixed, (x.stamp.getD (0, 0)).1, (x.stamp.getD (0, 0)).2, x.expires, x.endCode, b x.freeing, b x.silent,
        r.seed, r.maxTokens, r.grammar, r.draftMax, r.draftMode, r.deadline, r.handle, r.generated.length,
        p.temp, p.topP, p.minP, p.rep, p.freq, p.pres, p.topK, p.window, b p.ignoreEos, p.lookupN] ++ x.drafts).map (BitVec.ofNat 64)
    prompt := x.toks
    bias := r.bias.map (fun e => BitVec.ofNat 64 (e.1 + e.2 * 2 ^ 32))
    stops := r.stops }
def seatOf (e : Entry) : Seat :=
  let n (i : Nat) : Nat := (e.words.getD i 0#64).toNat
  let f (i : Nat) : Bool := decide (n i ≠ 0)
  { st := (match n 0 with | 1 => .prefill | 2 => .decode | 3 => .drain | 4 => .stocking | 5 => .stocked | 6 => .recall | 7 => .carried | _ => .free)
    gen := n 1, ring := n 2, front := n 3, replica := n 4, tag := n 5, flags := n 6, prefixSet := n 7, prompt := n 8, crc := n 9
    base := if n 10 = 0 then none else some (n 10 - 1)
    maxTokens := n 11, ttl := n 12, deadline := n 13, lane := n 14, cost := n 15, order := n 16, placed := n 17, acked := f 18, recalled := f 19
    reprefilled := f 20, mixed := f 21, stamp := if n 23 = 0 then none else some (n 22, n 23), expires := n 24, endCode := n 25, freeing := f 26
    silent := f 27, toks := e.prompt, drafts := (e.words.drop 46).map BitVec.toNat
    rec_ :=
      { samp := { temp := n 36, topP := n 37, minP := n 38, rep := n 39, freq := n 40, pres := n 41, topK := n 42, window := n 43, ignoreEos := f 44
                  lookupN := n 45 }
        bias := e.bias.map (fun w => (fget w 0 32, fget w 32 32)), stops := e.stops, hist := e.prompt.drop (e.prompt.length - 65536)
        seed := n 28, maxTokens := n 29, grammar := n 30, draftMax := n 31, draftMode := n 32, deadline := n 33, handle := n 34, front := n 3
        generated := (e.prompt.take (n 8)).drop (n 8 - n 35) } }

/-- The numbers of an image, as they go out. -/
def imageNums (e : Entry) : List Nat := e.words.map BitVec.toNat ++ e.prompt ++ e.bias.map BitVec.toNat ++ e.stops.flatten

/-- The word that names a held ante: its front, whether it has left the queue, whether it is a carried seat's, and its TAG. -/
def anteWord (a : Ante) (gone : Bool) : Nat := a.front + (if gone then 2 ^ 12 else 0) + (if a.carried.isSome then 2 ^ 13 else 0) + a.tag % 2 ^ 32 * 2 ^ 32

/-- Send a MIRROR for everything of the manager's state that differs between two states (R455): 0 a seat, 1 a held ante (or that it has left the queue),
2 a lane total, 3 a batch limit, 4 a domain trick's register (R318), 5 a replica, 6 the plays of one hand on a domain trick: the hand, then a device
for each. -/
def State.mirrorDiff (new old : State) (dst : Nat) : State :=
  let t1 := (new.seats.map Prod.fst ++ old.seats.map Prod.fst).eraseDups.foldl (fun t i =>
    if new.seat i = old.seat i then t else t.mirror dst 0 i (imageNums (seatImage (new.seat i)))) new
  let t2 := (old.antes.filter (fun a => !new.antes.contains a)).foldl (fun t a => t.mirror dst 1 a.ring [anteWord a true]) t1
  let t2 := (new.antes.filter (fun a => !old.antes.contains a)).foldl (fun t a =>
    t.mirror dst 1 a.ring ([anteWord a false, a.flags, a.prefixSet, a.base, a.maxTokens, a.ttl, a.deadline] ++ recNums a.rec_ ++ a.prompt)) t2
  let t3 := new.replicas.foldl (fun (t : State) r =>
    let t0 := if (new.rep r).limit = (old.rep r).limit then t else t.mirror dst 3 r [(new.rep r).limit.getD new.seatMax]
    let t4 := if new.reg .SYN_REPLICA r = old.reg .SYN_REPLICA r then t0
      else t0.mirror dst 5 r [(new.reg .SYN_REPLICA r).toNat]
    loop (new.rd R.SRV_ADMIT.LANES 0) t4 (fun u l =>
      if new.laneTotal r l = old.laneTotal r l then u else u.mirror dst 2 (r * 65536 + l) [new.laneTotal r l])) t2
  let t5 := loop 64 t3 (fun t i => if new.reg .SYN_DTRICK_CFG i = old.reg .SYN_DTRICK_CFG i then t else t.mirror dst 4 i [(new.reg .SYN_DTRICK_CFG i).toNat])
  new.dtricks.foldl (fun t e =>
    (e.2.counts.map Prod.fst ++ (mget {} old.dtricks e.1).counts.map Prod.fst).eraseDups.foldl (fun u h =>
      if new.dtrickPlays e.1 h = old.dtrickPlays e.1 h then u else u.mirror dst 6 e.1 (h :: new.dtrickPlays e.1 h)) t) t5

/-- A held ante that the standby is told of: one that has left the queue, a carried seat's (by its seat), or a new one by its entry. -/
def State.mirrorAnte (s : State) (ring : Nat) (w : Word) (e : Entry) : State :=
  let front := fget w 0 12
  let tag := fget w 32 32
  if fget w 12 1 = 1 then
    match s.antes.findIdx? (fun a => decide (a.key = ringKey front ring ∧ a.tag = tag)) with
    | some k => s.dropAnte k
    | none => s
  else if fget w 13 1 = 1 then
    match s.seats.find? (fun q => decide (q.2.st = .carried ∧ q.2.ring = ring ∧ q.2.front = front ∧ q.2.tag = tag)) with
    | some q => s.holdFirst (q.2.carryAnte q.1 0)
    | none => s
  else s.hold_ (entAnte e ring front (s.rd R.SRV_STOCK_CFG.TTL_DEFAULT 0))

/-- MIRROR (R455): a changed record of the manager's state reaches the standby (a seat by its image, from which its lane's total follows; a held ante with
its entry; plays with their devices as the entry's words); `hand`: the highest hand whose changes it now holds all of, if one became so. -/
def execMirror (port dst src term kind i : Nat) (w : Word) (e : Entry) (hand : Nat) (s : State) : Host.Outcome State Fault Refusal :=
  ok (if dst ≠ s.devAddr then s.forwardCtl port dst src (.role 3 [term, kind, i, w.toNat])
      else if term < s.term then s.badMsg port
      else s.ringGuard .role (fun _ => true) (fun s =>
        let t := if kind = 0 then
            let x := seatOf e
            let u := (s.setSeat i x).seatReg i
            { u with admitted := max u.admitted (x.order + 1) }
          else if kind = 1 then s.mirrorAnte i w e
          else if kind = 3 then s.modRep i (fun x => { x with limit := some (fget w 0 12) })
          else if kind = 4 then s.setReg .SYN_DTRICK_CFG i w
          else if kind = 5 then s.setReg .SYN_REPLICA i w
          else if kind = 6 then
            let dt := mget {} s.dtricks i
            { s with dtricks := mset {} s.dtricks i { dt with counts := mset [] dt.counts w.toNat (e.words.map BitVec.toNat) } }
          else s
        if hand = 0 then t else t.sendCtl src (.role 4 [t.term, hand])))

/-- The announcement of the hand decided leaves (R14), with the period it begins, due one period of the tick before it after that tick (R18):
along the tree, and to this device's own faces. -/
def State.announce (s : State) : State :=
  let h := s.decided
  let p := s.rd R.SYN_TICK_PERIOD.PERIOD 0
  let lead := s.rd R.SYN_TICK_LEAD.LEAD 0
  let due := if s.annDue = 0 then s.now + lead else max (s.annDue + s.hand.annPeriod) (s.now + lead)
  let t : State := { s with announced := h, annDue := due, waitAck := false, claims := none }
  ({ t with hand := { t.hand with ann := some (h, due, p), annPeriod := p, stopped := false } } : State).sendTree (.tick h due p)

/-- MIRROR_ACK (R455): the standby holds every change of a hand; an announcement that waited leaves. A candidate that acknowledges the
copy is named standby. -/
def execMirrorAck (port dst src term hand : Nat) (s : State) : Host.Outcome State Fault Refusal :=
  ok (if dst ≠ s.devAddr then s.forwardCtl port dst src (.role 4 [term, hand])
      else if term < s.term then s.badMsg port
      else if s.isManager = false then s
      else s.ringGuard .role (fun _ => true) (fun s =>
        if s.copyTo = some src then
        ({ s.setRoles s.manager src true s.term (s.rd R.LNK_TIME_STAT.TREE 0) with copyTo := none, acked := max s.acked hand }).sendRoster
      else
        let t : State := { s with acked := max s.acked hand }
        if t.waitAck = true ∧ t.acked ≥ t.decided then t.announce else t))

/-- The next live candidate (R455): in the order of the list, neither this device nor the one given, and reporting where it holds a
stage. -/
def State.nextCandidate (s : State) (not_ : Nat) : Option Nat :=
  let live (d : Nat) : Bool := match s.stageOf d with
    | some (k, r) => decide (mget 0 (s.rep r).missing k < s.rd R.SYN_DOMAIN_CFG.HOLD_HANDS 0)
    | none => true
  s.candidates.find? (fun d => decide (d ≠ s.devAddr ∧ d ≠ not_) && live d)

/-- Copy the whole state to the next live candidate (R455). -/
def State.copyState (s : State) (not_ : Nat) : State :=
  match s.nextCandidate not_ with
  | none => { s with copyTo := none }
  | some d => ({ s with copyTo := some d } : State).mirrorDiff { s with seats := [], antes := [], reps := [], dtricks := [], regs := [] } d

/-- MIRROR_ACK_TIMEOUT (R455): no acknowledgement by the due time less the lead; the manager announces without it, drops the standby and
copies its state to the next candidate. -/
def execMirrorAckTimeout (s : State) : Host.Outcome State Fault Refusal :=
  let sb := s.rd R.SYN_ROLE.STANDBY 0
  ok (if s.isManager = false ∨ s.waitAck = false then s
      else
        let t := (s.announce.setRoles s.manager sb false s.term (s.rd R.LNK_TIME_STAT.TREE 0)).raise
          { det := .mirrorLost, unit := unitId 21 0 0 0 0 + sb, d0 := BitVec.ofNat 64 sb }
        (t.sendRoster).copyState sb)

/-- MISSED (R456): a device that missed ticks reports to the standby. -/
def execMissed (port dst src lastHand : Nat) (s : State) : Host.Outcome State Fault Refusal :=
  ok (if dst ≠ s.devAddr then s.forwardCtl port dst src (.missed lastHand)
      else if s.isStandby = true ∧ s.missedFrom.contains src = false then { s with missedFrom := s.missedFrom ++ [src] }
      else s)

/-- The first hand of the old schedule due at least a lead after now (R457; fuel). -/
def firstAfter (h due p t : Nat) : Nat → Nat × Nat
  | 0 => (h, due)
  | n + 1 => if due ≥ t ∨ p = 0 then (h, due) else firstAfter (h + 1) (due + p) p t n

/-- TAKEOVER (R456, R457): the standby, after three ticks missed and MISSED from more than half of the manifest's devices, itself
counted, claims the role. -/
def execTakeover (s : State) : Host.Outcome State Fault Refusal :=
  ok (if s.isStandby = false ∨ s.hand.missedRow < 3 ∨ 2 * (s.missedFrom.length + 1) ≤ s.manifest.length then s
      else
        let p := s.hand.period
        let tree := 1 - s.rd R.LNK_TIME_STAT.TREE 0
        let term := s.term + 1
        let h0 := s.handNum + 1
        let due0 := s.hand.lastDue + p
        let first := firstAfter h0 due0 p (s.now + s.rd R.SYN_TICK_LEAD.LEAD 0) (s.now + 2)
        let t := s.setRoles s.devAddr 0 false term tree
        let u : State := { t with
          claims := some first.1
          decided := first.1 - 1
          announced := first.1 - 1
          annDue := first.2 - p
          hand := { t.hand with annPeriod := p }
          missedFrom := []
          waitAck := false
          obeys := true }
        (u.sendTree (.role 1 [term, tree, first.1, s.devAddr])).copyState s.manager)

/-- CLAIM (R457): the claimant of a higher term is obeyed, by its tree, and told of this device's state; a manager becomes a worker. -/
def execClaim (port term tree first claimant : Nat) (s : State) : Host.Outcome State Fault Refusal :=
  ok (if term < s.term ∨ s.fromParentOf tree port = false then s.badMsg port
      else if term = s.term then s
      else
        s.ringGuard .role (fun _ => true) (fun s =>
          let t := s.setRoles claimant 0 false term tree
          ({ (t.sendTree (.role 1 [term, tree, first, claimant])) with obeys := true, waitAck := false, copyTo := none }).sendState))

/-! ### Announcing (R14, R375, R380, R45, R459) -/

/-- Stages that have not reported hand h count one more hand unavailable (R459). -/
def State.judge (s : State) (h : Nat) : State :=
  s.replicas.foldl (fun t r =>
    (s.stagesOf r).foldl (fun u d =>
      if mget 0 (u.rep r).seen d.2.1 < h + 1 then
        u.modRep r (fun x => { x with missing := mset 0 x.missing d.2.1 (mget 0 x.missing d.2.1 + 1),
                                      clean := mset 0 x.clean d.2.1 0 })
      else u)
    (t.modRep r (fun x => if x.dirty then { x with dirty := false, cleanHands := 0 } else { x with cleanHands := x.cleanHands + 1 }))) s

/-- What the announcement decides of replica r's next slot: an owed empty slot, and the seat limit (R45). -/
def State.decideSlot (s : State) (r : Nat) : State :=
  s.modRep r (fun x => { x with emptyNext := decide (x.emptyOwed > 0), emptyOwed := x.emptyOwed - 1, limitNext := x.limit.getD s.seatMax })

/-- The slot that the manager forms in hand h for replica r's head: empty where one was owed, else R380's (R45, R380). -/
def State.headSlot (s : State) (r h : Nat) : State :=
  if s.repState r ≠ 2 ∧ s.repState r ≠ 6 then s
  else
    let x := s.rep r
    let own := decide (s.place.map (fun p => (p.1, p.2.1)) = some (0, r))
    let push (t : State) (e : Bool) : State := if own then { t with headQ := t.headQ ++ [(h, e)] } else t.emit (.serve (t.rd R.SYN_REPLICA.HEAD r) [5, h, if e then 1 else 0])
    if x.emptyNext then push s true
    else
      let t := s.formSlot r h x.limitNext
      push (if own then t else { t with slots := s.slots }) false

/-- The slots of hand h, of every replica (R380): the manager forms them as the hand begins, after the commit of the hand before. -/
def State.formSlots (s : State) (h : Nat) : State := if s.isManager then s.replicas.foldl (fun t r => t.headSlot r h) s else s

/-- Decide hand h: availability, admission, what R45 changes of its slots (R375). -/
def State.decide_ (s : State) (h : Nat) : State :=
  let s1 := if h ≥ 2 then s.judge (h - 2) else s
  let s2 := s1.admission h
  let s3 := s2.replicas.foldl (fun t r => t.decideSlot r) s2
  { s3 with decided := h }

/-- TICK_ANNOUNCE (R14, R455, R603): the manager decides the next hand and announces it, once the standby holds the changes; until then the
announcement waits for MIRROR_ACK or its timeout. -/
def execTickAnnounce (s : State) : Host.Outcome State Fault Refusal :=
  let p := s.rd R.SYN_TICK_PERIOD.PERIOD 0
  let lead := s.rd R.SYN_TICK_LEAD.LEAD 0
  ok (if s.isManager = false ∨ p = 0 ∨ s.waitAck = true then s
      else
        let t := if s.annDue = 0 then s else s.advance (s.annDue + s.hand.annPeriod - lead)
        let u := t.decide_ (max t.announced t.handNum + 1)
        if s.rd R.SYN_ROLE.STANDBY_VALID 0 = 0 then u.announce
        else
          let v := u.mirrorDiff s (s.rd R.SYN_ROLE.STANDBY 0)
          if v.out = u.out ∧ v.txq = u.txq then v.announce else { v with waitAck := true })

end Sys2Proof.Machine
end

