-- ==== Sys2Proof/Machine/Movement.lean ====
section
/-! DEFINITION. Issue of the movement class (0x04) and of the serving class (0x11): 09_ifeom_control_and_movement.md, R267 to
R275 and R279.  What the operations do when they leave their queue and when they complete is in Machine/MoveRun.lean. -/
namespace Sys2Proof.Machine

/-- Fields that every movement word names: AL, AR, CTR, CEN. -/
def moveFields (extra : List (Nat × Nat)) : List (Nat × Nat) := [(38, 4), (24, 10), (23, 1)] ++ extra

/-- MOVL (R267): AL to AR within the face. -/
def execMovl (f : Nat) (w : IWord) (s : State) : Host.Outcome State Fault Refusal :=
  ok (issue s f w ⟨0x04, 0x000, 0, moveFields [(34, 4)], [], [], []⟩ (fun t x =>
    let al := x.areg (fAL w)
    let ar := x.areg (fAR w)
    checked none [(ctrBad x w || decide (rngLen al ≠ rngLen ar), 2)]
      (lowFail [portFail t f al 15 false 1 (fAL w), lineFail al 1 (fAL w),
                portFail t f ar 15 true 2 (fAR w), lineFail ar 2 (fAR w)])
      (enqueue t f (mkOp t x .mover 4 0 w) [(al, false), (ar, true)])))

/-- ROWS of MOVF; 0 is taken as 1. -/
def movfRows (w1 : Word) : Nat := if fget w1 0 16 = 0 then 1 else fget w1 0 16

/-- MOVF (R267, R268, R271). -/
def execMovf (f : Nat) (w : IWord) (s : State) : Host.Outcome State Fault Refusal :=
  ok (issue s f w ⟨0x04, 0x001, 1, moveFields [(34, 4), (14, 8), (4, 10), (3, 1)], [(0, 16), (16, 24)], [], []⟩ (fun t x =>
    let al := x.areg (fAL w)
    let ar := x.areg (fAR w)
    let rows := movfRows w.w1
    let stride := fget w.w1 16 24
    let own := bit (opf w 14 8) f
    let bad := ctrBad x w || decide (opf w 14 8 ≥ 2 ^ t.nFaces) ||
      decide (stride % 128 ≠ 0 ∨ rngLen al % rows ≠ 0 ∨ (rngLen al / rows) % 128 ≠ 0) ||
      decide (rngLen ar ≠ (rows - 1) * stride + rngLen al / rows)
    checked none [(bad, 2)]
      (lowFail [portFail t f al 15 false 1 (fAL w), lineFail al 1 (fAL w),
                if own then portFail t f ar 15 true 2 (fAR w) else none,
                remoteFail t f (opf w 14 8) ar 2 (fAR w), lineFail ar 2 (fAR w)])
      (enqueue t f (mkOp t x .mover 4 1 w) (if own then [(al, false), (ar, true)] else [(al, false)]))))

/-- The byte address RA + DISP of an HBM move, modulo 2^64 (word 1). -/
def hbmAddr (x : Face) (w1 : Word) : Nat := (x.sreg (fget w1 48 5) + BitVec.ofNat 64 (fget w1 0 48)).toNat

/-- The stack of an HBM access is absent or off: the absent-unit trap at issue (R270). -/
def hbmAbsent (t : State) (a : Nat) : Option (Nat × Word) := absentIf (!t.stackOn (hStack a)) 6 (hStack a)

/-- The stack of an HBM access is not declared (R233). -/
def hbmUndeclared (t : State) (f : Nat) (x : Face) (a : Nat) : Bool := !(if hStack a = t.home f then x.uses 6 else x.uses (8 + hStack a))

/-- Check 23 to 25 of a run of granules (R270, R472, R474, R483, R622): beyond the usable size, or a write into a region or without a key. -/
def State.hbmFail (s : State) (a len : Nat) (write : Bool) : Option (Nat × Nat) :=
  let gs := (List.range (len / 128)).map (fun i => a + 128 * i)
  match (if write then gs.find? (fun g => s.inWreg g || s.inSreg g) else none),
        gs.find? (fun g => !s.usable g),
        (if write then gs.find? (fun g => !s.hasKey (g / 128)) else none) with
  | some g, _, _ => some (23, g)
  | none, some g, _ => some (24, g)
  | none, none, some g => some (25, g)
  | none, none, none => none

/-- The unit checks of an HBM access at issue: the stack on, and declared. -/
def hbmUnit (t : State) (f : Nat) (x : Face) (a : Nat) : Option (Nat × Word) :=
  [hbmAbsent t a, illegalIf [(hbmUndeclared t f x a, 6)]].findSome? id

/-- The range fault of an HBM address, which an instruction that meets an absent stack at issue has as well, and which is recorded (R251, R282). -/
def hbmAlso (t : State) (a len : Nat) (write : Bool) : Option RFail :=
  if t.stackOn (hStack a) then none else (t.hbmFail a len write).map (fun c => (c.1, 6, 0, c.2))

/-- HRD (R270): HBM to AL. -/
def execHrd (f : Nat) (w : IWord) (s : State) : Host.Outcome State Fault Refusal :=
  ok (issue s f w ⟨0x04, 0x002, 1, moveFields [(22, 1)], [(0, 48), (48, 5)], [], []⟩ (fun t x =>
    let al := x.areg (fAL w)
    let a := hbmAddr x w.w1
    checked (hbmAbsent t a) [(hbmUndeclared t f x a, 6), (ctrBad x w || decide (a % 128 ≠ 0), 2)]
      (lowFail [portFail t f al 15 true 1 (fAL w), lineFail al 1 (fAL w), hbmAlso t a (rngLen al) false])
      (enqueue t f { mkOp t x .mover 4 2 w with sc := BitVec.ofNat 64 a } [(al, true)])))

/-- HWR (R270): AL to HBM. -/
def execHwr (f : Nat) (w : IWord) (s : State) : Host.Outcome State Fault Refusal :=
  ok (issue s f w ⟨0x04, 0x003, 1, moveFields [], [(0, 48), (48, 5)], [], []⟩ (fun t x =>
    let al := x.areg (fAL w)
    let a := hbmAddr x w.w1
    checked (hbmAbsent t a) [(hbmUndeclared t f x a, 6), (ctrBad x w || decide (a % 128 ≠ 0), 2)]
      (lowFail [portFail t f al 15 false 1 (fAL w), lineFail al 1 (fAL w), hbmAlso t a (rngLen al) true])
      (enqueue t f { mkOp t x .mover 4 3 w with sc := BitVec.ofNat 64 a } [(al, false)])))

/-- HGATHER (R272): the HBM rows that the index list AR names to AL. -/
def execHgather (f : Nat) (w : IWord) (s : State) : Host.Outcome State Fault Refusal :=
  ok (issue s f w ⟨0x04, 0x004, 2, moveFields [(34, 4)], [(0, 48), (48, 5)], [(0, 24)], []⟩ (fun t x =>
    let al := x.areg (fAL w)
    let ar := x.areg (fAR w)
    let a := hbmAddr x w.w1
    let rb := fget w.w2 0 24
    checked (hbmAbsent t a)
      [(hbmUndeclared t f x a, 6), (ctrBad x w || decide (a % 128 ≠ 0 ∨ rb % 128 ≠ 0 ∨ rngLen al ≠ rngLen ar / 4 * rb), 2)]
      (lowFail [portFail t f al 15 true 1 (fAL w), lineFail al 1 (fAL w),
                portFail t f ar 15 false 2 (fAR w), lineFail ar 2 (fAR w)])
      (enqueue t f { mkOp t x .mover 4 4 w with sc := BitVec.ofNat 64 a } [(ar, false), (al, true)])))

/-- The dealer is off: the absent-unit trap of an instruction that needs it (R8, R233, R254). -/
def dealerAbsent (t : State) : Option (Nat × Word) := absentIf (!t.domOn 29) 4 0

/-- Issue of a stock move: the dealer's unit on and declared (R233, R254). -/
def stockIssue (f : Nat) (w : IWord) (op : Nat) (s : State) : State :=
  issue s f w ⟨0x04, op, 1, [(24, 10), (23, 1)], [(0, 5)], [], []⟩ (fun t x =>
    checked (dealerAbsent t) [(!x.uses 4, 6), (ctrBad x w, 2)] none
      (enqueue t f { mkOp t x .mover 4 op w with sc := x.sreg (fget w.w1 0 5) } []))

/-- STKOUT (R273): an HBM page to the stockpile, as the ticket directs. -/
def execStkout (f : Nat) (w : IWord) (s : State) : Host.Outcome State Fault Refusal := ok (stockIssue f w 0x005 s)

/-- STKIN (R273): the stockpile to an HBM page, as the ticket directs. -/
def execStkin (f : Nat) (w : IWord) (s : State) : Host.Outcome State Fault Refusal := ok (stockIssue f w 0x006 s)

/-- A fabric port is powered (R565). -/
def State.portOn (s : State) (p : Nat) : Bool := s.domOn (if p < 4 then 26 else 27)

/-- A port named by SEND or SIGR is absent or off: the absent-unit trap (R8); one out of range is no port. -/
def portAbsent (t : State) (p : Nat) : Option (Nat × Word) := absentIf (decide (p < 6) && !(t.portPresent p && t.portOn p)) 7 p

/-- The causes of an illegal instruction that a port gives: undeclared (R233), out of range (R274, R277). -/
def portCauses (x : Face) (p : Nat) : List (Bool × Nat) := [(decide (p < 6) && !x.uses (16 + p), 6), (decide (p ≥ 6), 2)]

/-- The checks of a port named by SEND or SIGR: absent or off (vector 4), undeclared (cause 6), out of range (cause 2). -/
def portUse (t : State) (x : Face) (p : Nat) : Option (Nat × Word) := [portAbsent t p, illegalIf (portCauses x p)].findSome? id

/-- SEND (R274): AL to a remote window over a fabric port. -/
def execSend (f : Nat) (w : IWord) (s : State) : Host.Outcome State Fault Refusal :=
  ok (issue s f w ⟨0x04, 0x010, 1, moveFields [(35, 3)], [(0, 12), (12, 3), (15, 8), (23, 25)], [], []⟩ (fun t x =>
    let al := x.areg (fAL w)
    checked (portAbsent t (opf w 35 3))
      (portCauses x (opf w 35 3) ++ [(fCEN w = false || ctrBad x w || decide (fget w.w1 23 25 % 128 ≠ 0), 2)])
      (lowFail [portFail t f al 15 false 1 (fAL w), lineFail al 1 (fAL w)]) (enqueue t f (mkOp t x .mover 4 16 w) [(al, false)])))

/-- SIGR (R277): a signal for a counter of another device, queued with the mover so that it follows the parcels issued before
it on its port (log entry 8). -/
def execSigr (f : Nat) (w : IWord) (s : State) : Host.Outcome State Fault Refusal :=
  ok (issue s f w ⟨0x10, 0x002, 1, [(32, 10), (27, 5), (0, 16)], [(0, 12), (12, 3), (16, 3)], [], []⟩ (fun t x =>
    checked (portAbsent t (fget w.w1 16 3)) (portCauses x (fget w.w1 16 3)) none (enqueue t f { mkOp t x .mover 0x10 2 w with sc := BitVec.ofNat 64 ((x.sreg (opf w 27 5)).toNat + opf w 0 16) } [])))

/-! ### Serving class -/

/-- SLOT (R279, R386): the released slot's seat descriptors into AL. -/
def execSlot (f : Nat) (w : IWord) (s : State) : Host.Outcome State Fault Refusal :=
  ok (issue s f w ⟨0x11, 0x000, 0, moveFields [(0, 16)], [], [], []⟩ (fun t x =>
    let al := x.areg (fAL w)
    checked (dealerAbsent t) [(!x.uses 4, 6), (ctrBad x w, 2)] (portFail t f al 15 true 1 (fAL w))
      (enqueue t f (mkOp t x .serving 0x11 0 w) [(al, true)])))

/-- A range lies in G2 and G3 (R167, R279): CHECK 21 otherwise. -/
def g23Fail (r : Word) (operand reg : Nat) : Option RFail :=
  if rngBase r < 0xC00000 then some (21, operand, reg, 0) else none

/-- PLIST (R279, R385): the committed page lists of the slot's seats into AL. -/
def execPlist (f : Nat) (w : IWord) (s : State) : Host.Outcome State Fault Refusal :=
  ok (issue s f w ⟨0x11, 0x001, 0, moveFields [(0, 16)], [], [], []⟩ (fun t x =>
    let al := x.areg (fAL w)
    checked (dealerAbsent t) [(!x.uses 4, 6), (ctrBad x w || decide (opf w 0 16 ≥ 2), 2)]
      (lowFail [portFail t f al 15 true 1 (fAL w), g23Fail al 1 (fAL w)])
      (enqueue t f (mkOp t x .serving 0x11 1 w) [(al, true)])))

/-- DEAL (R279, R400): the logits in AL and the header in AR to the dealer. -/
def execDeal (f : Nat) (w : IWord) (s : State) : Host.Outcome State Fault Refusal :=
  ok (issue s f w ⟨0x11, 0x002, 0, moveFields [(34, 4), (0, 16)], [], [], []⟩ (fun t x =>
    let al := x.areg (fAL w)
    let ar := x.areg (fAR w)
    checked (dealerAbsent t) [(!x.uses 4, 6), (ctrBad x w, 2)]
      (lowFail [portFail t f al 15 false 1 (fAL w), portFail t f ar 15 false 2 (fAR w),
                shortFail (decide (rngLen ar < 128)) 2 (fAR w)])
      (enqueue t f (mkOp t x .serving 0x11 2 w) [(al, false), (ar, false)])))

end Sys2Proof.Machine
end

