-- ==== Sys2Proof/Machine/Runs.lean ====
section
/-! DEFINITION. Runs and seals of the cache (06_score_and_vector_engines.md R165, R166), and bytes of HBM that are not whole
granules. -/
namespace Sys2Proof.Machine

/-- Shape of a run: KV4, head dimension D, tokens per page. -/
structure RunShape where
  kv4 : Bool
  d : Nat
  tpp : Nat
  deriving DecidableEq, Repr

/-- Round up to a multiple of 128. -/
def up128 (n : Nat) : Nat := 128 * cdiv n 128

/-- Bytes of an element row, and of a scale row. -/
def RunShape.er (h : RunShape) : Nat := if h.kv4 then h.d / 2 else h.d
def RunShape.sr (h : RunShape) : Nat := if h.kv4 then h.d / 32 else 0

/-- Offsets of the four parts, and RUN_BYTES (R165). -/
def RunShape.keyScale (h : RunShape) : Nat := up128 (h.tpp * h.er)
def RunShape.value (h : RunShape) : Nat := h.keyScale + up128 (h.tpp * h.sr)
def RunShape.valueScale (h : RunShape) : Nat := h.value + up128 (h.tpp * h.er)
def RunShape.bytes (h : RunShape) : Nat := h.valueScale + up128 (h.tpp * h.sr)

/-- Read bytes of HBM: as delivered, and whether any of them is poisoned. -/
def State.hbmBytes (s : State) (a n : Nat) : State × List Nat × Bool :=
  if n = 0 then (s, [], false)
  else
    let g0 := a / 128
    let k := (a + n - 1) / 128 + 1 - g0
    let r := s.hbmReadRun g0 k
    let bs := r.2.flatMap (fun w => (leBytes w.1.toNat 8).map (fun b => (b, w.2)))
    let xs := (bs.drop (a % 128)).take n
    (r.1, xs.map Prod.fst, xs.any Prod.snd)

/-- Replace bytes in a granule's words from byte k; a word written whole takes the poison given, another gathers it (R219). -/
def patchLine (ws : List (Word × Bool)) (k : Nat) (bs : List (Nat × Bool)) : List (Word × Bool) :=
  (List.range ws.length).map (fun i =>
    let w := ws.getD i (0#64, false)
    let hit := (List.range 8).filter (fun b => decide (k ≤ 8 * i + b ∧ 8 * i + b < k + bs.length))
    let v := hit.foldl (fun v b => putByte v b (bs.getD (8 * i + b - k) (0, false)).1) w.1
    let p := hit.any (fun b => (bs.getD (8 * i + b - k) (0, false)).2)
    if hit.length = 8 then (v, p) else (v, w.2 || p))

/-- Write bytes of HBM for a program, granule by granule (fuel: granules touched). -/
def State.hbmStore (s : State) (f a : Nat) (bs : List (Nat × Bool)) : Nat → State
  | 0 => s
  | n + 1 =>
    match bs with
    | [] => s
    | _ =>
      let k := 128 - a % 128
      let r := s.hbmRead (a / 128)
      (r.1.hbmProgWrite f (a / 128) (patchLine r.2 (a % 128) (bs.take k))).hbmStore f (a + k) (bs.drop k) n

/-- Seal CRC-32C over the first c tokens of a run whose bytes are given (R166). -/
def runCrc (h : RunShape) (part : Nat → Nat → List Nat) (c : Nat) : Nat :=
  crc32c (part 0 (c * h.er) ++ part h.keyScale (c * h.sr) ++ part h.value (c * h.er) ++ part h.valueScale (c * h.sr))

/-- The seal CRC over the first c tokens of the run at an HBM address, and whether a word of them is poisoned. -/
def State.runSeal (s : State) (h : RunShape) (a c : Nat) : State × Nat × Bool :=
  let r1 := s.hbmBytes a (c * h.er)
  let r2 := r1.1.hbmBytes (a + h.keyScale) (c * h.sr)
  let r3 := r2.1.hbmBytes (a + h.value) (c * h.er)
  let r4 := r3.1.hbmBytes (a + h.valueScale) (c * h.sr)
  (r4.1, crc32c (r1.2.1 ++ r2.2.1 ++ r3.2.1 ++ r4.2.1), r1.2.2 || r2.2.2 || r3.2.2 || r4.2.2)

/-- COUNT and CRC of a seal slot, and a slot from them (R166). -/
def slotCount (w : Word) : Nat := fget w 0 16
def slotCrc (w : Word) : Nat := fget w 32 32
def mkSlot (count crc : Nat) : Word := BitVec.ofNat 64 (count + crc * 2 ^ 32)

/-- The two slots of a seal entry at an HBM address. -/
def State.sealSlots (s : State) (a : Nat) : State × Word × Word × Bool :=
  let r := s.hbmRead (a / 128)
  let w (i : Nat) : Word × Bool := r.2.getD (a / 8 % 16 + i) (0#64, false)
  (r.1, (w 0).1, (w 1).1, (w 0).2 || (w 1).2)

/-- Shape of run r of face f, as its APPENDs wrote it (log entry 12). -/
def Face.shapeOf (x : Face) (r : Nat) : Option RunShape :=
  let h := mget (0, 0, 0) x.runShape r
  if h.2.1 = 0 then none else some { kv4 := decide (h.1 = 1), d := h.2.1, tpp := h.2.2 }

/-! ### Trims (R416) -/

/-- Trim one page's runs on face f from `old` committed tokens to c: the seal slot that is not committed takes the new count and the
CRC over the remaining rows. -/
def State.trimPage (s : State) (f frame old c : Nat) : State :=
  loop (s.rd R.SRV_PAGE_CFG.RUNS 0) s (fun t r =>
    match (t.face f).shapeOf r with
    | none => t
    | some h =>
      let e := t.sealAddr f frame + 16 * r
      let q := t.sealSlots e
      let z := q.1.runSeal h (t.shareAddr f frame + r * h.bytes) c
      let at_ := if slotCount q.2.1 ≠ old ∧ slotCount q.2.2.1 = old then e else e + 8
      z.1.hbmPatch at_ (mkSlot c z.2.1))

/-- Trims at a boundary: the rows of rejected drafts leave the seat's committed length and seal counts, and a frame left with no
committed row is free again. -/
def State.bdyTrim (s : State) : State :=
  s.caches.foldl (fun t e =>
    let c := e.2
    if c.trim = 0 then t
    else
      let n := c.len - c.trim
      let tpp := t.tpp
      let u := c.pages.foldl (fun v p =>
        let lo := p.1 * tpp
        let before := min tpp (c.len - lo)
        let after := min tpp (n - lo)
        if before = after ∨ p.2.kind ≠ 1 then v
        else if after = 0 then { v with usedFrames := mset false v.usedFrames p.2.frame false }
        else loop v.nFaces v (fun z f => z.trimPage f p.2.frame before after)) t
      u.setCache e.1 { c with len := n, trim := 0
                              pages := c.pages.filter (fun p => !(decide (p.2.kind = 1) && decide (n ≤ p.1 * tpp))) }) s

end Sys2Proof.Machine
end

