-- ==== Sys2Proof/Machine/MoveRun.lean ====
section
/-! DEFINITION. The mover at work (09_ifeom_control_and_movement.md R267 to R277; 17_memory_protection.md R490 to R493): what each queued operation
checks when it leaves its queue, and what it has done when it completes. -/
namespace Sys2Proof.Machine

/-- An operation leaves its queue in trouble: it is gone, and the face takes the trap (R247); an operation of the engine classes
signals CTR all the same (R286). -/
def State.opTrap (s : State) (f : Nat) (q : QOp) (vec : Nat) (info : Word) : State :=
  (if 8 ≤ q.cls ∧ q.cls ≤ 11 then s.opDone f q else s.opLeave f q).trapFault f vec info q.pc

/-- Write whole words from a line-aligned address of the face's own scratchpad, for its program (R219, R331). -/
def State.putWords (s : State) (f a : Nat) (ws : List (Word × Bool)) : State :=
  let before := s.face f
  let s1 := s.modFace f (fun x => (ws.foldl (fun (c : Face × Nat) w => (c.1.padPut c.2 w.1 w.2, c.2 + 1)) (x, a / 8)).1)
  if ws = [] then s1 else (s1.injBytes f a (8 * ws.length)).raceWrite before f (a / 128) ((a + 8 * ws.length - 1) / 128)

/-- Read a whole-line range: the words as delivered, with what the reads leave (R219). -/
def State.takeWords (s : State) (f a len : Nat) : State × List (Word × Bool) :=
  let ws := (s.face f).padWords a len
  (s.padTouchRange f a len, ws)

/-- Store bytes for the face's program, each with its poison (R220, R331). -/
def State.putBytes (s : State) (f a : Nat) (bs : List (Nat × Bool)) : State := s.progStore f a bs

/-- Count bytes moved to or from HBM, and over the mesh, in whole KiB (FCE_MOVE_STAT). -/
def State.countHbm (s : State) (f n : Nat) : State :=
  let k := (s.face f).hbmBytes + n
  (s.modFace f (fun x => { x with hbmBytes := k % 1024 })).bumpBy R.FCE_MOVE_STAT.HBM_KIB f (k / 1024)
def State.countMesh (s : State) (f n : Nat) : State :=
  let k := (s.face f).meshBytes + n
  (s.modFace f (fun x => { x with meshBytes := k % 1024 })).bumpBy R.FCE_MOVE_STAT.MESH_KIB f (k / 1024)

/-! ### MOVL and MOVF -/

/-- MOVL: AL to AR, all read before any is written. -/
def State.movlDone (s : State) (f : Nat) (q : QOp) : State :=
  let r := s.takeWords f (rngBase q.al) (rngLen q.al)
  r.1.putWords f (rngBase q.ar) r.2

/-- Words of a move, from its word `at_` on, with those that a router found uncorrectable on the way poisoned (R72). -/
def markFrom (q : QOp) (d at_ : Nat) (ws : List (Word × Bool)) : List (Word × Bool) :=
  if q.bad = [] then ws
  else (ws.zip (List.range ws.length)).map (fun e => (e.1.1, e.1.2 || q.bad.contains (d, at_ + e.2)))
def markBad (q : QOp) (d : Nat) (ws : List (Word × Bool)) : List (Word × Bool) := markFrom q d 0 ws

/-- The lines of one copy of MOVF as they arrive on face d (R271). -/
def State.movfCopy (s : State) (f d : Nat) (q : QOp) (ws : List (Word × Bool)) : State :=
  let rows := movfRows q.w1
  let stride := fget q.w1 16 24
  let per := rngLen q.al / rows / 8
  let base := rngBase q.ar
  loop rows s (fun t i =>
    let row := (ws.drop (i * per)).take per
    if d = f then t.putWords f (base + i * stride) row
    else loop (per / 16) t (fun u l => u.putArrival d ((base + i * stride) / 128 + l) ((row.drop (16 * l)).take 16)))

/-- The counter that MOVF signals on a destination, by one for its copy (R268). -/
def State.movfSignal (s : State) (f d : Nat) (q : QOp) : State :=
  if q.f0 3 1 = 1 then
    s.signal d (q.f0 4 10) 1 (if d = f then 0 else 1) s.devAddr f (if d = f then q.pc else (s.face d).pc)
  else s

/-- MOVF: remote copies from the next face on, ascending modulo n, then the own copy (R271). -/
def State.movfDone (s : State) (f : Nat) (q : QOp) : State :=
  let n := s.nFaces
  let r := s.takeWords f (rngBase q.al) (rngLen q.al)
  let order := (List.range (n - 1)).map (fun i => (f + 1 + i) % n) ++ [f]
  order.foldl (fun t d =>
    if bit (q.f0 14 8) d then
      let u := (t.movfCopy f d q (markBad q d r.2)).movfSignal f d q
      if d = f then u else u.countMesh f (rngLen q.al)
    else t) r.1

/-! ### HBM moves -/

/-- Trap of a failed HBM check: operand 6, the HBM address. -/
def hbmInfo (c : Nat × Nat) : Word := rangeInfo c.1 6 0 c.2

/-- HRD. -/
def State.hrdDone (s : State) (f : Nat) (q : QOp) : State :=
  let g := q.sc.toNat / 128
  let n := rngLen q.al / 128
  let r := if q.f0 22 1 = 1 then
      loop n (s, ([] : List (Word × Bool))) (fun acc i => let z := acc.1.cacheRead f (g + i); (z.1, acc.2 ++ z.2))
    else s.hbmReadRun g n
  (r.1.putWords f (rngBase q.al) (markBad q f r.2)).countHbm f (rngLen q.al)

/-- HWR. -/
def State.hwrDone (s : State) (f : Nat) (q : QOp) : State :=
  let g := q.sc.toNat / 128
  let r := s.takeWords f (rngBase q.al) (rngLen q.al)
  let ws := markBad q f r.2
  (loop (rngLen q.al / 128) r.1 (fun t i => t.hbmProgWrite f (g + i) ((ws.drop (16 * i)).take 16))).countHbm f (rngLen q.al)

/-- Rows of a gather, and the HBM address of row j (R272). -/
def gatherRows (q : QOp) : Nat := rngLen q.ar / 4
def State.gatherAt (s : State) (f : Nat) (q : QOp) (j : Nat) : Nat :=
  q.sc.toNat + ((s.face f).padNum (rngBase q.ar + 4 * j) 4).1 * fget q.w2 0 24

/-- HGATHER's first k rows. -/
def State.gatherDone (s : State) (f : Nat) (q : QOp) (k : Nat) : State :=
  let rb := fget q.w2 0 24
  let s1 := s.padTouchRange f (rngBase q.ar) (rngLen q.ar)
  (loop k s1 (fun t j =>
    let r := t.hbmReadRun (s.gatherAt f q j / 128) (rb / 128)
    r.1.putWords f (rngBase q.al + j * rb) (markFrom q f (j * (rb / 8)) r.2))).countHbm f (k * rb)

/-- The first row beyond the usable size, with the address. -/
def State.gatherBad (s : State) (f : Nat) (q : QOp) : Option (Nat × Nat) :=
  (List.range (gatherRows q)).findSome? (fun j => (s.hbmFail (s.gatherAt f q j) (fget q.w2 0 24) false).map (fun c => (j, c.2)))

/-! ### SEND and SIGR (R274, R277, R430) -/

/-- Note bytes sent to a window (R625, R440). -/
def State.noteSent (s : State) (dev face win bytes : Nat) : State :=
  let has := s.hand.sent.any (fun w => decide (w.dev = dev ∧ w.face = face ∧ w.win = win))
  { s with hand := { s.hand with sent := if has then s.hand.sent.map (fun w =>
        if w.dev = dev ∧ w.face = face ∧ w.win = win then { w with bytes := w.bytes + bytes } else w)
      else s.hand.sent ++ [⟨dev, face, win, bytes⟩] } }

/-- SEND leaves its queue: its parcels, at most 4,096 bytes each, in ascending offset. -/
def State.sendStart (s : State) (f : Nat) (q : QOp) : State :=
  let dst := fget q.w1 0 12
  let face := fget q.w1 12 3
  let win := fget q.w1 15 8
  let off := fget q.w1 23 25
  let port := q.f0 35 3
  let r0 := s.takeWords f (rngBase q.al) (rngLen q.al)
  let r := (r0.1, markBad q f r0.2)
  -- the words are taken: the read range's entry frees (R202)
  let s1 := (r.1.setOp f { q with seq0 := mget 0 s.seqs dst, left := q.sendParcels }).modFace f
    (fun x => { x with sb := x.sb.filter (fun e => decide (e.op ≠ q.id) || e.write) })
  (loop q.sendParcels s1 (fun t i =>
    t.putParcel port (t.parcelOf 1 dst face win (off + 4096 * i) 0 0 port ((r.2.drop (512 * i)).take 512)))).noteSent dst face win (rngLen q.al)

/-- SIGR leaves its queue: a lone parcel behind those sent before it; nothing waits for its answer. -/
def State.sigrStart (s : State) (f : Nat) (q : QOp) : State :=
  let dst := fget q.w1 0 12
  let port := fget q.w1 16 3
  let t := s.putParcel port (s.parcelOf 2 dst (fget q.w1 12 3) 0 0 (q.f0 32 10) (q.sc.toNat % 2 ^ 32) port [])
  let u : State := { t with hand := { t.hand with sigrDevs := if t.hand.sigrDevs.contains dst then t.hand.sigrDevs else t.hand.sigrDevs ++ [dst] } }
  (u.opLeave f q).wake f

/-! ### The page mover (R273, R390, R490 to R493) -/

/-- Fields of a stock ticket (R390). -/
def tkSeat (t : Nat) : Nat := nf t 0 14
def tkPage (t : Nat) : Nat := nf t 14 11
def tkIn (t : Nat) : Bool := bit t 25
def tkCmp (t : Nat) : Bool := bit t 26
def tkSlot (t : Nat) : Nat := nf t 27 25

/-- Host addresses of face f's share and metadata entry of stock slot y (R389, R490). -/
def State.stockAddr (s : State) (y f : Nat) : Nat :=
  s.rd R.SRV_STOCK_BASE.ADDR 0 * 4096 + (y * s.nFaces + f) * s.rd R.SRV_PAGE_CFG.SHARE 0 * 4096
/-- B, S and T of R490: body granules, seal-area granules and bytes of tag area. -/
def State.stockB (s : State) : Nat := 32 * s.rd R.SRV_PAGE_CFG.SHARE 0
def State.stockS (s : State) : Nat := cdiv (s.rd R.SRV_PAGE_CFG.RUNS 0 * 8) 128
def State.stockT (s : State) : Nat := 128 * cdiv ((s.stockB + s.stockS) * 8) 128
def State.stockMeta (s : State) (y f : Nat) : Nat :=
  s.rd R.MEM_STOCK_META.ADDR 0 * 4096 + (y * s.nFaces + f) * (128 + s.stockT + 128 * s.stockS)

/-- Locators of a stocked share's body and seal area (R491). -/
def stockLoc (y f : Nat) : Nat := 2 ^ 63 + y * 2 ^ 23 + f * 2 ^ 20
def sealLoc (y f : Nat) : Nat := 2 ^ 62 + stockLoc y f

/-- The tag area of a share of `n` body granules: their tags, zeros up to B, the seal area's tags, and zeros (R490). -/
def State.stockTags (s : State) (k : KeySet) (y f n : Nat) (body seals : List Word) : List Word :=
  let used := k.tags n (stockLoc y f) body ++ List.replicate (s.stockB - n) 0#64 ++ k.tags s.stockS (sealLoc y f) seals
  used ++ List.replicate (s.stockT / 8 - used.length) 0#64

/-- A share's ciphertext, tags and seal area go to the stockpile, and its header last (R488, R492). -/
def State.stockWrite (s : State) (k : KeySet) (y f n : Nat) (plain seals header : List Word) : State :=
  let body := granRun n (stockLoc y f) k.seal plain
  let sc := granRun s.stockS (sealLoc y f) k.seal seals
  (((s.hostWrite 0 (s.stockAddr y f) body).hostWrite 0 (s.stockMeta y f + 128 + s.stockT) sc).hostWrite 0 (s.stockMeta y f + 128)
    (s.stockTags k y f n body sc)).hostWrite 0 (s.stockMeta y f) header

/-- Committed count of page i of a seat. -/
def State.pageCount (s : State) (seat i : Nat) : Nat := min s.tpp ((s.cacheOf seat).len - i * s.tpp)

/-- The frame that holds a page in this hand: allocated in it, or by the page table. -/
def State.frameOf (s : State) (seat page : Nat) : Option Nat :=
  match s.hand.alloc.find? (fun a => decide (a.1 = seat ∧ a.2.1 = page)) with
  | some a => some a.2.2
  | none =>
    let e := mget {} (s.cacheOf seat).pages page
    if e.kind = 1 ∨ e.kind = 2 ∨ e.kind = 4 then some e.frame else none

/-- The committed seal slot of each run of a frame on face f. -/
def State.committedSeals (s : State) (f frame count : Nat) : State × List Word :=
  loop (s.rd R.SRV_PAGE_CFG.RUNS 0) (s, []) (fun acc r =>
    let q := acc.1.sealSlots (acc.1.sealAddr f frame + 16 * r)
    (q.1, acc.2 ++ [if slotCount q.2.1 = count then q.2.1 else q.2.2.1]))

/-- Fifteen header words with the sixteenth, the CRC-32C of bytes 0 to 123 in its upper half (R490). -/
def headerSeal (ws : List Word) : List Word :=
  ws.take 15 ++ [BitVec.ofNat 64 (crc32c (wordBytes (ws.take 15) ++ [0, 0, 0, 0]) * 2 ^ 32)]

/-- A field of a share's header: byte offset, and bytes. -/
def shareFld (h : Share) (at_ n : Nat) : Nat := wordsFld h.header at_ n

/-- The header of a stocked share (R490). -/
def State.stockHeader (s : State) (f y seat page bytes : Nat) (cmp : Bool) : List Word :=
  let w0 := 0x5653544B + s.devAddr * 2 ^ 32 + f * 2 ^ 48 + (if cmp then 2 ^ 56 else 0)
  let ws := [w0, (s.seat seat).handle seat + page * 2 ^ 32, y + s.rd R.KEY_SESSION.EPOCH 0 * 2 ^ 32,
    s.rd R.KEY_STATE.EPOCH 0 + bytes * 2 ^ 32, s.rd R.SRV_PAGE_CFG.SHARE 0 * 4096 + s.rd R.SRV_PAGE_CFG.RUNS 0 * 2 ^ 32,
    s.handNum, 0, 0, 0, 0, 0, 0, 0, 0, 0]
  headerSeal (ws.map (BitVec.ofNat 64))

/-- A ticket of face f for the running hand, in the direction the instruction moves (R273). -/
def State.ticketOk (s : State) (f : Nat) (q : QOp) (inward : Bool) : Bool :=
  s.hand.tickets.contains (f, q.sc.toNat) && decide (tkIn q.sc.toNat = inward)

/-- Note a completed move. -/
def State.noteMoved (s : State) (f t : Nat) : State := { s with hand := { s.hand with moved := s.hand.moved ++ [(f, t)] } }

/-- The stockpile compressor is there, and its domain on (R492, R568). -/
def State.compressorOn (s : State) : Bool := decide (s.rd R.PLT_CAP_UNITS.REACH 0 = 1) && s.domOn 27

/-- STKOUT (R492): body, seal area, tags, header; a poisoned word fails the move.  What the compressor makes of a share the spec does not
say (Config.compress, log entry 7). -/
def State.stkoutDone (s : State) (f : Nat) (q : QOp) : State :=
  let t := q.sc.toNat
  let seat := tkSeat t
  let page := tkPage t
  match s.frameOf seat page with
  | none => s
  | some x =>
    let full := s.rd R.SRV_PAGE_CFG.SHARE 0 * 4096
    let r := s.hbmReadRun (s.shareAddr f x / 128) (full / 128)
    let z := r.1.committedSeals f x (s.pageCount seat page)
    let s1 := z.1.countHbm f full
    if (markBad q f r.2).any Prod.snd then s1
    else
      let plain := r.2.map Prod.fst
      let small := Config.compress plain
      let cmp := tkCmp t && (s.face f).uses 5 && s.compressorOn && decide (cdiv small.length 16 < s.stockB)
      let n := if cmp then cdiv small.length 16 else s.stockB
      let y := tkSlot t
      let save := s1.cmpRest + (full - 128 * n)
      let s2 : State := { s1 with cmpRest := save % 2 ^ 20 }
      (((s2.bumpBy R.MEM_STOCK_STAT.CMP_MIB 0 (save / 2 ^ 20)).stockWrite (s.sessionSet (s.rd R.KEY_STATE.EPOCH 0)) y f n
        (if cmp then small else plain) z.2 (s.stockHeader f y seat page (128 * n) cmp)).bump R.MEM_STOCK_STAT.OUT 0).noteMoved f t

/-- A share read back: the key set its header names, its body granules, and its words and its runs' seal slots in the clear (R490, R493). -/
def State.shareSet (s : State) (h : Share) : KeySet := s.sessionSet (shareFld h 24 4)
def shareGrans (h : Share) : Nat := shareFld h 28 4 / 128
def State.shareStored (s : State) (f y : Nat) (h : Share) : List Word := granRun (shareGrans h) (stockLoc y f) (s.shareSet h).open_ h.body
def State.sharePlain (s : State) (f y : Nat) (h : Share) : List Word :=
  let x := s.shareStored f y h
  if bit (shareFld h 7 1) 0 then Config.expand x else x
def State.shareSeals (s : State) (f y : Nat) (h : Share) : List Word := granRun s.stockS (sealLoc y f) (s.shareSet h).open_ h.seals

/-- The first step of R493 at which a share fails: 0 none. -/
def State.stkinStep (s : State) (f : Nat) (t : Nat) (h : Share) : Nat :=
  let e := s.rd R.KEY_STATE.EPOCH 0
  let seat := tkSeat t
  let y := tkSlot t
  let k := s.shareSet h
  if headerSeal h.header ≠ h.header ∨ shareFld h 0 4 ≠ 0x5653544B ∨ shareFld h 4 2 % 4096 ≠ s.devAddr ∨ shareFld h 6 1 ≠ f ∨
     -- a resume has given the seat a new generation (R392): the index is compared (log entry 7)
     shareFld h 8 4 % 2 ^ 14 ≠ seat ∨ shareFld h 12 2 ≠ tkPage t ∨ shareFld h 16 4 ≠ y ∨ shareFld h 20 4 ≠ s.rd R.KEY_SESSION.EPOCH 0 then 1
  else if ¬((s.rd R.KEY_STATE.CUR_VALID 0 = 1 ∧ k.epoch = e) ∨ (s.rd R.KEY_STATE.PREV_VALID 0 = 1 ∧ k.epoch + 1 = e)) then 2
  else if k.tags (shareGrans h) (stockLoc y f) h.body ≠ h.tags.take (shareGrans h) ∨
     k.tags s.stockS (sealLoc y f) h.seals ≠ (h.tags.drop s.stockB).take s.stockS then 3
  else if
    let bytes := wordBytes (s.sharePlain f y h)
    let seals := s.shareSeals f y h
    (List.range (s.rd R.SRV_PAGE_CFG.RUNS 0)).any (fun r =>
      match (s.face f).shapeOf r with
      | none => false
      | some sh =>
        let w := seals.getD r 0#64
        decide (runCrc sh (fun o n => (bytes.drop (r * sh.bytes + o)).take n) (slotCount w) ≠ slotCrc w)) then 4
  else 0

/-- The cached lines of a share and its seals that the face's mover has written go (R217). -/
def State.dropShare (s : State) (f x : Nat) : State :=
  let drop (t : State) (a n : Nat) : State := if n = 0 then t else loop ((a + n - 1) / 128 + 1 - a / 128) t (fun u i => u.cacheDrop f (a / 128 + i))
  drop (drop s (s.shareAddr f x) (s.rd R.SRV_PAGE_CFG.SHARE 0 * 4096)) (s.sealAddr f x) (16 * s.rd R.SRV_PAGE_CFG.RUNS 0)

/-- STKIN (R493): the checks, then the share into its new frame with both seal slots equal; a failure is recorded and ends the seat at the
commit. -/
def State.stkinDone (s : State) (f : Nat) (q : QOp) (h : Share) : State :=
  let t := q.sc.toNat
  let fx := s.forced .stockFail (unitId 15 0 0 0 2)
  let step := if fx.1 then 3 else s.stkinStep f t h
  if step ≠ 0 then
    let s1 := (fx.2.bump R.MEM_STOCK_STAT.IN_FAIL 0).raise
      { det := .stockFail, unit := unitId 15 0 0 0 2, addr := s.stockAddr (tkSlot t) f, d0 := BitVec.ofNat 64 step, lface := f }
    { s1 with hand := { s1.hand with sealFail := s1.hand.sealFail ++ [tkSeat t] } }
  else match s.frameOf (tkSeat t) (tkPage t) with
  | none => s
  | some x => ((((s.putShare f x (s.sharePlain f (tkSlot t) h) (s.shareSeals f (tkSlot t) h) (fun k => q.bad.contains (f, k))).dropShare f x).countHbm f (s.rd R.SRV_PAGE_CFG.SHARE 0 * 4096)).bump R.MEM_STOCK_STAT.IN 0).noteMoved f t

/-! ### Leaving the queue, and completing -/

/-- A mover operation leaves its queue: the imprecise checks (R247, R270, R272, R273), and for SEND and SIGR the parcels. -/
def State.moverStart (s : State) (f : Nat) (q : QOp) : State :=
  let a := q.sc.toNat
  let hbm (write : Bool) : State :=
    if s.stackOn (hStack a) = false then s.opTrap f q 4 (BitVec.ofNat 64 (6 + hStack a * 256))
    else match s.hbmFail a (rngLen q.al) write with
    | some c => s.opTrap f q 5 (hbmInfo c)
    | none => s
  let port (p : Nat) (go : State) : State :=
    if s.portOn p then go else s.opTrap f q 4 (BitVec.ofNat 64 (7 + p * 256))
  if q.cls = 0x10 then port (fget q.w1 16 3) (s.sigrStart f q)
  else if q.op = 2 then hbm false
  else if q.op = 3 then hbm true
  else if q.op = 4 then
    if s.stackOn (hStack a) = false then s.opTrap f q 4 (BitVec.ofNat 64 (6 + hStack a * 256))
    else match s.gatherBad f q with
    -- the rows before the one that fails are still copied, and CTR is not signalled
    | some (j, w) => (s.setOp f { q with left := j + 1, w0 := fput q.w0 23 1 0 }).trapFault f 5 (hbmInfo (24, w)) q.pc
    | none => s
  else if q.op = 5 ∨ q.op = 6 then
    if s.domOn 29 = false then s.opTrap f q 4 4#64
    else if s.ticketOk f q (decide (q.op = 6)) then s else s.opTrap f q 5 (rangeInfo 26 0 0 0)
  else if q.op = 16 then port (q.f0 35 3) (s.sendStart f q)
  else s

/-- What a started mover operation has done when it completes; a SEND completes by its answers. -/
def State.moverDone (s : State) (f : Nat) (q : QOp) (share : Option Share) : State :=
  if q.op = 0 then s.movlDone f q
  else if q.op = 1 then s.movfDone f q
  else if q.op = 2 then s.hrdDone f q
  else if q.op = 3 then s.hwrDone f q
  else if q.op = 4 then s.gatherDone f q (if q.left = 0 then gatherRows q else q.left - 1)
  -- a function-level reset of PF0 fails the stock moves in progress (R594)
  else if (q.op = 5 ∨ q.op = 6) ∧ q.nacked = true then s
  else if q.op = 5 then s.stkoutDone f q
  else if q.op = 6 then
    match share with
    | some h => s.stkinDone f q h
    | none => s
  else s

end Sys2Proof.Machine
end

