-- ==== Sys2Proof/Machine/Blocks.lean ====
section
/-! DEFINITION. Arrays and what is stored with them (03_array_field.md R74 to R78, R99 to R108), write-verify, retirement and
loss (12_weights.md R344 to R351), and requests for calibration (19_calibration_and_monitoring.md R518). -/
namespace Sys2Proof.Machine

/-! ### Cells and codes (R76) -/

/-- Level pair of a weight code: 4 × positive + negative; format 0 B1, 1 T, 2 Q2. -/
def codePair (fmt code : Nat) : Nat :=
  if fmt = 2 then (if code = 0 then 3 else if code = 1 then 6 else if code = 2 then 9 else 12)
  else if code = 1 then 4 else if code = 3 then 1 else 0

/-- Weight code of a level pair; none where the pair is none of the format's. -/
def pairCode (fmt pair : Nat) : Option Nat :=
  if fmt = 2 then (if pair = 3 then some 0 else if pair = 6 then some 1 else if pair = 9 then some 2 else if pair = 12 then some 3 else none)
  else if pair = 4 then some 1 else if pair = 1 then some 3 else if pair = 0 ∧ fmt = 1 then some 0 else none

/-- A code that R77 forbids in a format. -/
def badCode (fmt code : Nat) : Bool := (decide (fmt = 0) && decide (code = 0 ∨ code = 2)) || (decide (fmt = 1) && decide (code = 2))

/-- Weight of a level pair, in conductance steps (R74). -/
def pairWeight (pair : Nat) : Int := ((pair / 4 % 4 : Nat) : Int) - ((pair % 4 : Nat) : Int)

/-- Weight of a code (R76). -/
def codeWeight (fmt code : Nat) : Int := pairWeight (codePair fmt code)

/-- Weight that the readback path delivers for a pair (R120, R298): a pair that is none of the format's reads as code 0b00. -/
def readWeight (fmt pair : Nat) : Int := codeWeight fmt ((pairCode fmt pair).getD 0)

/-- An array. -/
def State.arr (s : State) (f b a : Nat) : ArrMem := mget {} s.arrays (ixA f b a)
def State.setArr (s : State) (f b a : Nat) (x : ArrMem) : State := { s with arrays := mset {} s.arrays (ixA f b a) x }
def State.modArr (s : State) (f b a : Nat) (g : ArrMem → ArrMem) : State := s.setArr f b a (g (s.arr f b a))

/-- Physical row and weight position that hold a logical row and column: a spare's, where a repair has moved it (R84, R99). -/
def ArrMem.rowAt (x : ArrMem) (r : Nat) : Nat := let k := mget 0 x.rowMap r; if k = 0 then r else 511 + k
def ArrMem.posAt (x : ArrMem) (c : Nat) : Nat :=
  33 * (c / 32) + (if mget 0 x.colMap (c / 32) = c % 32 + 1 then 32 else c % 32)

/-- Level pair at a logical row and column: no result depends on the physical row or position that holds it (R99). -/
def ArrMem.pair (x : ArrMem) (r c : Nat) : Nat := mget 0 x.cells (x.rowAt r * 264 + x.posAt c)

/-- Logical row that a physical row holds, and logical column that a position holds, if any. -/
def ArrMem.rowOf (x : ArrMem) (p : Nat) : Option Nat := (List.range 512).find? (fun r => decide (x.rowAt r = p))
def ArrMem.colOf (x : ArrMem) (p : Nat) : Option Nat := (List.range 256).find? (fun c => decide (x.posAt c = p))

/-- Write logical level pairs (by row × 256 + column) into the rows and positions that the repair map gives them; every other pair is
(L0, L0) (R78). -/
def ArrMem.lay (x : ArrMem) (pairs : SMap Nat) : ArrMem :=
  { x with cells := pairs.foldl (fun m e => mset 0 m (x.rowAt (e.1 / 256) * 264 + x.posAt (e.1 % 256)) e.2) [] }

/-- The logical level pairs of an array, by row × 256 + column. -/
def ArrMem.logical (x : ArrMem) : SMap Nat :=
  (List.range 131072).foldl (fun m e => mset 0 m e (x.pair (e / 256) (e % 256))) []

/-- STATE of an array: 0 SPARE, 1 ACTIVE, 2 CHECK, 3 WRITING, 4 RETIRING, 5 RETIRED, 6 LOST. -/
def State.aState (s : State) (f b a : Nat) : Nat := s.rd R.BLK_ARRAY_STATE.STATE (ixA f b a)

/-- Set an array's state; BLK_SPARE.FREE follows. -/
def State.setAState (s : State) (f b a v : Nat) : State :=
  let t := s.wr R.BLK_ARRAY_STATE.STATE (ixA f b a) v
  t.wr R.BLK_SPARE.FREE (ixB f b) ((List.range 72).filter (fun k => decide (t.aState f b k = 0))).length

/-- An array that is being copied by a retirement or a re-dress (R101, R109). -/
def State.isRetiring (s : State) (f b a : Nat) : Bool := decide (s.aState f b a = 4)

/-- The array's endurance is used up (R346). -/
def State.worn (s : State) (f b a : Nat) : Bool := s.flag R.BLK_WEAR.WORN (ixA f b a)

/-! ### Weight sets, copies and slots (R105, R106) -/

/-- A field of a word. -/
def fw (w : Word) (d : Fld) : Nat := fget w d.lo d.wd

/-- Fields of a weight set. -/
def State.wsK (s : State) (f w : Nat) : Nat := s.ws R.ARF_WSMAP_LO.K f w
def State.wsN (s : State) (f w : Nat) : Nat := s.ws R.ARF_WSMAP_LO.N f w
def State.wsBlocks (s : State) (f w : Nat) : Nat := s.ws R.ARF_WSMAP_LO.BLOCKS f w
def State.wsLive (s : State) (f w : Nat) : Nat := s.ws R.ARF_WSMAP_LO.LIVE f w
def State.wsValid (s : State) (f w : Nat) : Bool := decide (s.ws R.ARF_WSMAP_LO.VALID f w = 1)

/-- READY of a copy. -/
def readyFld (c : Nat) : Fld := if c = 0 then R.ARF_WSMAP_LO.A_READY else R.ARF_WSMAP_LO.B_READY
def State.copyIsReady (s : State) (f w c : Nat) : Bool := decide (s.ws (readyFld c) f w = 1)
def State.setReady (s : State) (f w c : Nat) (b : Bool) : State := s.wrB (readyFld c) (ix 4096 f w) b

/-- First block and slot of a copy. -/
def State.copyAt (s : State) (f w c : Nat) : Nat × Nat :=
  if c = 0 then (s.ws R.ARF_WSMAP_HI.A_BLOCK f w, s.ws R.ARF_WSMAP_HI.A_SLOT f w)
  else (s.ws R.ARF_WSMAP_HI.B_BLOCK f w, s.ws R.ARF_WSMAP_HI.B_SLOT f w)

/-- AIDX of a copy's array at a block and slot, if it lies there (R106, R294). -/
def State.copyIdx (s : State) (f w c b slot : Nat) : Option Nat :=
  let at_ := s.copyAt f w c
  let kn := s.wsK f w * s.wsN f w
  if at_.1 ≤ b ∧ b ≤ at_.1 + s.wsBlocks f w ∧ at_.2 ≤ slot ∧ slot < at_.2 + kn then some ((b - at_.1) * kn + (slot - at_.2)) else none

/-- A copy that a build has written (its version stands in ARF_WSVER), or that is ready. -/
def verFld (c : Nat) : Fld := if c = 0 then R.ARF_WSVER.A_VERSION else R.ARF_WSVER.B_VERSION
def State.copyVer (s : State) (f w c : Nat) : Nat := s.rd (verFld c) (ix 4096 f w)
def State.built (s : State) (f w c : Nat) : Bool := s.wsValid f w && (decide (s.copyVer f w c ≠ 0) || s.copyIsReady f w c)

/-- The valid weight set and copy whose array stands at a slot: a live copy's, else a READY copy's, else that of one being built. -/
def State.slotOwner (s : State) (f b slot : Nat) : Option (Nat × Nat × Nat) :=
  let find (live ready : Bool) : Option (Nat × Nat × Nat) :=
    (List.range 4096).findSome? (fun w =>
      if s.wsValid f w then
        let c := if live then s.wsLive f w else 1 - s.wsLive f w
        if s.built f w c && (!ready || s.copyIsReady f w c) then (s.copyIdx f w c b slot).map (fun i => (w, c, i)) else none
      else none)
  [find true false, find false true, find false false].findSome? id

/-- The slot belongs to a live copy. -/
def State.slotLive (s : State) (f b slot : Nat) : Bool :=
  (List.range 4096).any (fun w => s.built f w (s.wsLive f w) && (s.copyIdx f w (s.wsLive f w) b slot).isSome)

/-- The logical slot that maps a physical array. -/
def State.slotOf (s : State) (f b a : Nat) : Option Nat := (List.range 64).find? (fun sl => decide (s.slotPhys f b sl = some a))

/-- Map a logical slot. -/
def State.mapSlot (s : State) (f b slot a : Nat) : State :=
  let i := ix 8 (ixB f b) (slot / 8)
  (s.wr (R.BLK_ARRAY_MAP.PHYS (slot % 8)) i a).wr (R.BLK_ARRAY_MAP.VALID (slot % 8)) i 1

/-- Used rows and columns of the array of an AIDX (R83, R105). -/
def State.usedRows (s : State) (f w idx : Nat) : Nat :=
  let k := s.wsK f w
  let kn := k * s.wsN f w
  if idx / kn * k + idx % kn / s.wsN f w + 1 = tileSlices k (s.wsBlocks f w) then s.ws R.ARF_WSMAP_LO.ROWS_LAST f w else 512
def State.usedCols (s : State) (f w idx : Nat) : Nat :=
  if idx % s.wsN f w + 1 = s.wsN f w then s.ws R.ARF_WSMAP_LO.COLS_LAST f w else 256

/-- A copy. -/
def State.wcopy (s : State) (f w c : Nat) : WsCopy := mget {} (s.face f).wsets (2 * w + c)
def State.modCopy (s : State) (f w c : Nat) (g : WsCopy → WsCopy) : State :=
  s.modFace f (fun x => { x with wsets := mset {} x.wsets (2 * w + c) (g (mget {} x.wsets (2 * w + c))) })

/-- Code bytes of an array as the readback path reads them (R298), with the used positions whose pair is none of the format's. -/
def ArrMem.codes (x : ArrMem) (fmt rows cols : Nat) : List Nat × Nat :=
  let at_ (r c : Nat) : Nat := if r < rows ∧ c < cols then (pairCode fmt (x.pair r c)).getD 0 else 0
  ((List.range 32768).map (fun j => let r := j / 64; let c := 4 * (j % 64)
      at_ r c + 4 * at_ r (c + 1) + 16 * at_ r (c + 2) + 64 * at_ r (c + 3)),
   (List.range rows).foldl (fun a r => a + ((List.range cols).filter (fun c => (pairCode fmt (x.pair r c)).isNone)).length) 0)

/-- Digest of an array's cells for the weight set that owns it (R360). -/
def State.cellDigest (s : State) (f b a w idx : Nat) : Word :=
  BitVec.ofNat 64 (crc64 ((s.arr f b a).codes (s.ws R.ARF_WSMAP_LO.FORMAT f w) (s.usedRows f w idx) (s.usedCols f w idx)).1)

/-- The digest as a check computes it: an armed ARRAY_LOST slot on the array inverts its bit 0 (R559). -/
def State.digestNow (s : State) (f b a w idx : Nat) : Word × State :=
  let g := s.forced .arrayLost (s.unitArray f b a)
  (if g.1 then s.cellDigest f b a w idx ^^^ 1#64 else s.cellDigest f b a w idx, g.2)

/-- A copy is ready once every array has been written with an agreeing digest, its spall data is loaded, and no grant is open
(R347; ARF_PROG_GRANT). -/
def State.checkReady (s : State) (f w c : Nat) : State :=
  let x := s.wcopy f w c
  let sp := spallIx f w c
  let all := (List.range (s.copyArrays f w)).all (fun i => mget false x.good i)
  if all && decide (s.copyArrays f w ≠ 0) && !s.granted f w c && (decide (s.rd R.ARF_SPALL.COUNT sp = 0) || s.flag R.ARF_SPALL.LOADED sp)
  then s.setReady f w c true else s

/-! ### Write-verify (R344 to R346) -/

/-- Write slots there are (R344, R572). -/
def State.writeSlots (s : State) : Nat := if s.flag R.PWR_STAT.LIMITED 0 then 4 else 8

/-- Write slots held. -/
def State.slotsHeld (s : State) : Nat := (s.writes.filter (fun j => j.started)).length

/-- A block writes one array at a time (R297). -/
def State.blockBusy (s : State) (f b : Nat) : Bool := s.writes.any (fun j => j.started && decide (j.face = f ∧ j.block = b))

/-- VPROG is in its range (R617). -/
def State.progOk (s : State) : Bool := decide (s.rd R.PLT_RAIL_STAT.PROG_HELD 0 = 0)

/-- SLOTS and QUEUED follow the list. -/
def State.noteSlots (s : State) : State :=
  (s.wr R.PLT_PROG_STAT.SLOTS 0 s.slotsHeld).wr R.PLT_PROG_STAT.QUEUED 0 (min 65535 (s.writes.filter (fun j => !j.started)).length)

/-- Two jobs are the same array's. -/
def WJob.same (j k : WJob) : Bool := decide (j.face = k.face ∧ j.block = k.block ∧ j.arr = k.arr)

/-- Start a job: its array is WRITING, and its repair map is empty (R99). -/
def State.startJob (s : State) (j : WJob) : State :=
  let i := ixA j.face j.block j.arr
  let t : State := ({ s with writes := s.writes.map (fun (k : WJob) => if k.same j then { k with started := true } else k) } : State).modArr
    j.face j.block j.arr (fun x => { x with rowMap := [], colMap := [] })
  ((t.setAState j.face j.block j.arr 3).wr R.BLK_ARRAY_STATE.ROWS_SPARED i 0).wr R.BLK_ARRAY_STATE.COLS_SPARED i 0

/-- Grant free slots by priority, then arrival (R344). -/
def State.grantWrites (s : State) : State :=
  (loop 8 s (fun t _ =>
    if t.slotsHeld < t.writeSlots ∧ t.progOk = true then
      let free (p : Nat) : Option WJob := t.writes.find? (fun j => !j.started && decide (j.prio = p) && !t.blockBusy j.face j.block)
      match [free 1, free 2, free 3].findSome? id with
      | some j => t.startJob j
      | none => t
    else t)).noteSlots

/-- Ask for a write. -/
def State.queueWrite (s : State) (j : WJob) : State := ({ s with writes := s.writes ++ [j] }).grantWrites

/-- A spare that may be written (R346).  Of several the lowest-numbered is taken: the spec does not say which (DESIGN CHOICE, log entry 73). -/
def State.freeSpare (s : State) (f b : Nat) : Option Nat :=
  (List.range 72).find? (fun a => decide (s.aState f b a = 0) && !s.worn f b a &&
    !s.writes.any (fun j => decide (j.face = f ∧ j.block = b ∧ j.arr = a)))

/-- A write-verify has been completed on an array: its wear (R346). -/
def State.wear (s : State) (f b a : Nat) : State :=
  let t := s.wr R.BLK_WEAR.CYCLES (ixA f b a) (min 10000 (s.rd R.BLK_WEAR.CYCLES (ixA f b a) + 1))
  if t.rd R.BLK_WEAR.CYCLES (ixA f b a) = 10000 then t.wr R.BLK_WEAR.WORN (ixA f b a) 1 else t

/-- Flags, estimates and open windows of an array go (R531). -/
def State.clearMon (s : State) (f b a : Nat) : State := { s with monitors := mdrop (fun k => decide (k / 4 = ixA f b a)) s.monitors }

/-- Columns flagged in a block (CAL_BLK_STATE.FLAGGED). -/
def State.noteFlags (s : State) (f b : Nat) : State :=
  let n := (s.monitors.filter (fun e => decide (e.1 / 4 / 72 = ixB f b))).foldl
    (fun a e => a + (e.2.cols.filter (fun c => c.2.flag)).length) 0
  s.wr R.CAL_BLK_STATE.FLAGGED (ixB f b) (min 511 n)

/-! ### Requests for calibration (R518) -/

/-- Priority of a trigger. -/
def calPriority (t : Nat) : Nat := if t ≤ 2 then 1 else if t ≤ 4 then 2 else if t = 5 then 3 else 4

/-- Calibration of a block. -/
def State.cal (s : State) (f b : Nat) : CalBlk := mget {} s.cals (ixB f b)
def State.modCal (s : State) (f b : Nat) (g : CalBlk → CalBlk) : State :=
  { s with cals := mset {} s.cals (ixB f b) (g (s.cal f b)) }

/-- The face's fitter is taken. -/
def State.fitterBusy (s : State) (f : Nat) : Bool := s.cals.any (fun e => decide (e.1 / 64 = f) && (e.2.gather.isSome || e.2.fitting.isSome))

/-- A free fitter takes the waiting request of highest priority, the oldest among equals, and its block starts gathering (R520). -/
def State.calPick (s : State) (f : Nat) : State :=
  if s.fitterBusy f then s
  else
    let best := s.cals.foldl (fun (acc : Option (Nat × Nat × Nat)) e =>
      match e.2.req with
      | some r => if e.1 / 64 = f ∧ e.2.idle = false ∧ (match acc with
            | none => true
            | some a => decide (r.2.1 < a.1 ∨ (r.2.1 = a.1 ∧ r.2.2 < a.2.1))) = true then some (r.2.1, r.2.2, e.1) else acc
      | none => acc) none
    match best with
    | some a => s.modCal f (a.2.2 % 64) (fun x => { x with gather := some s.now, hists := [], normal := [] })
    | none => s

/-- Request a calibration of a block: a new request, a raised priority, or a merge. -/
def State.calRequest (s : State) (f b trig : Nat) : State :=
  let x := s.cal f b
  let p := calPriority trig
  let t := match x.req with
    | some r => if p < r.2.1 then (s.modCal f b (fun y => { y with req := some (trig, p, r.2.2) })).wr R.CAL_BLK_STATE.TRIGGER (ixB f b) trig else s
    | none => (({ s with calOrder := s.calOrder + 1 }).modCal f b (fun y => { y with req := some (trig, p, s.calOrder) })).wr
        R.CAL_BLK_STATE.TRIGGER (ixB f b) trig
  (t.wr R.CAL_BLK_STATE.PENDING (ixB f b) 1).calPick f

/-! ### Retirement, re-dress, loss (R100 to R104, R350, R351) -/

/-- Copy an array's contents into a job. -/
def State.copyJob (s : State) (f b src dst prio kind slot : Nat) : WJob :=
  let x := s.arr f b src
  let o := (s.slotOwner f b slot).getD (0, 0, 0)
  { face := f, block := b, arr := dst, prio := prio, kind := kind, src := src, slot := slot, w := o.1, copy := o.2.1, idx := o.2.2
    cells := x.logical, sums := x.sums, massA := s.reg .BLK_MASS_A (ixA f b src), massB := s.reg .BLK_MASS_B (ixA f b src), digest := x.expected }

/-- The roving check array gives up its role (R103). -/
def State.dropCheck (s : State) (f b : Nat) : State :=
  let t := (s.wr R.BLK_SPARE.CHECK_VALID (ixB f b) 0).wr R.BLK_SPARE.UNDER_VALID (ixB f b) 0
  { (t.wr R.CAL_BLK_STATE.TOURING (ixB f b) 0) with tours := mset {} t.tours (ixB f b) {} }

/-- A spare for a retirement: a free one, or the check array; none: the block is exhausted (R103, R104). -/
def State.spareFor (s : State) (f b : Nat) : State × Option Nat :=
  match s.freeSpare f b with
  | some a => (s, some a)
  | none =>
    let c := s.rd R.BLK_SPARE.CHECK (ixB f b)
    if s.rd R.BLK_SPARE.CHECK_VALID (ixB f b) = 1 ∧ s.worn f b c = false then
      ((({ s with writes := s.writes.filter (fun j => !decide (j.face = f ∧ j.block = b ∧ j.arr = c)) }).dropCheck f b).setAState f b c 0, some c)
    else
      ((s.wr R.BLK_SPARE.EXHAUSTED (ixB f b) 1).raise { det := .exhausted, unit := s.unitBlock f b }, none)

/-- R351 and R102 at the boundary: the array is LOST and the face down; with the image that built the copy staged it is restored
from its record (`rec_`) into a spare. -/
def State.loseArray (s : State) (f b a : Nat) (rec_ : Option WJob) : State :=
  let x := s.arr f b a
  let t := ((s.setAState f b a 6).raise { det := .arrayLost, unit := s.unitArray f b a, d0 := x.current, d1 := x.expected }).faceFault f 4
  match rec_ with
  | none => t
  | some j =>
    let r := t.spareFor f b
    match r.2 with
    | some d => r.1.queueWrite { j with arr := d, src := a, prio := 1, kind := 3 }
    | none => r.1

/-- Start of a retirement at the boundary (R101 steps 1 to 3), or with `dress` of a re-dress (R350), whose array takes no pin and which only a free
spare serves; a block retires one array at a time.  A retirement that finds no spare stays as it is (R104). -/
def State.startRetire (s : State) (f b a : Nat) (dress : Bool) : State :=
  if s.aState f b a ≥ 5 ∨ (dress = true ∧ s.aState f b a ≠ 1) then s
  else if (List.range 72).any (fun k => decide (k ≠ a) && s.isRetiring f b k) then
    { s with acts := s.acts ++ [if dress then .redress f b a else .retire f b a] }
  else match s.slotOf f b a with
  | none =>
    let t := if s.rd R.BLK_SPARE.CHECK (ixB f b) = a ∧ s.rd R.BLK_SPARE.CHECK_VALID (ixB f b) = 1 then s.dropCheck f b else s
    if dress then s else (t.setAState f b a 5).raise { det := .retired, unit := s.unitArray f b a }
  | some slot =>
    if dress && (s.freeSpare f b).isNone then s
    else
      let t0 := (s.setAState f b a 4).wrB R.BLK_ARRAY_STATE.PIN3 (ixA f b a) (!dress)
      let o := (s.slotOwner f b slot).getD (0, 0, 0)
      let g := t0.digestNow f b a o.1 o.2.2
      let u := g.2.modArr f b a (fun x => { x with current := g.1 })
      if g.1 ≠ (s.arr f b a).expected then { u with acts := u.acts ++ [.lost f b a] }
      else if u.writes.any (fun j => decide (j.face = f ∧ j.block = b ∧ j.src = a ∧ j.kind = 2)) then
        -- a re-dress under way becomes the retirement's copy
        { u with writes := u.writes.map (fun (j : WJob) => if j.face = f ∧ j.block = b ∧ j.src = a ∧ j.kind = 2 then { j with prio := 1, kind := 1 } else j) }
      else if dress then
        match u.freeSpare f b with
        | some dst => u.queueWrite (u.copyJob f b a dst 2 2 slot)
        | none => u
      else
        let r := u.spareFor f b
        match r.2 with
        | some dst => r.1.queueWrite (r.1.copyJob f b a dst 1 1 slot)
        | none => { r.1 with acts := r.1.acts ++ [.stuck f b a] }

/-- R104 at a boundary: an array that found no spare stays RETIRING and pinned until its weights have been reprogrammed elsewhere by a new
layout, so that no live copy's slot maps it; it is then RETIRED and its pin cleared. -/
def State.stuckArray (s : State) (f b a : Nat) : State :=
  if s.isRetiring f b a = false then s
  else if (match s.slotOf f b a with
    | some slot => s.slotLive f b slot
    | none => false) then { s with acts := s.acts ++ [.stuck f b a] }
  else ((s.setAState f b a 5).wr R.BLK_ARRAY_STATE.PIN3 (ixA f b a) 0).raise { det := .retired, unit := s.unitArray f b a }

/-- A slot moves to its new array at a boundary (R101 step 4, R350, R351, R534 step 4): kinds as in `WJob`, 5 for a build's array that
could not be written. -/
def State.switchSlot (s : State) (f b slot new old kind : Nat) : State :=
  let t := ((s.mapSlot f b slot new).setAState f b new 1).setAState f b old
    (if kind = 2 then 0 else if kind = 4 then (if s.worn f b old then 0 else 2) else 5)
  let u := (((t.wr R.BLK_ARRAY_STATE.PIN3 (ixA f b old) 0).clearMon f b old).clearMon f b new).noteFlags f b
  if kind = 1 then u.raise { det := .retired, unit := s.unitArray f b old, d0 := BitVec.ofNat 64 new }
  else if kind = 2 then u.bump R.PLT_PROG_STAT.REDRESSES 0
  else if kind = 3 then
    let v := u.bump R.PLT_PROG_STAT.RESTORES 0
    if (List.range 4608).any (fun i => decide (v.rd R.BLK_ARRAY_STATE.STATE (f * 4608 + i) = 6)) then v
    else
      let z := v.modFace f (fun x => { x with heldFor := x.heldFor.filter (fun c => decide (c ≠ 4)) })
      if (z.face f).heldFor = [] ∧ (z.face f).inReset = false then z.setDown f false else z
  else u

/-- The spare converter takes a group (R100); a second failure, or a spare marked unusable, retires the array (R556). -/
def State.swapConv (s : State) (f b a g : Nat) : State :=
  let i := ixA f b a
  if s.rd R.BLK_ARRAY_STATE.CONV_SPARED i = 1 ∨ s.rd R.BLK_ARRAY_STATE.CONV_SPARE_BAD i = 1 then s.startRetire f b a false
  else ((s.wr R.BLK_ARRAY_STATE.CONV_SPARED i 1).wr R.BLK_ARRAY_STATE.CONV_REPLACED i g)

/-- Schedule an action for the next boundary, or do it now where no ticks run (R602). -/
def State.schedule (s : State) (a : BAct) (g : State → State) : State := if s.ticking then { s with acts := s.acts ++ [a] } else g s

/-- A dwell begins (R534 step 3): UNDER names the array for CAL_DUP_CFG.DWELL seconds. -/
def State.startDwell (s : State) (f b a : Nat) : State :=
  let i := ixB f b
  let x := mget {} s.tours i
  if x.step ≠ 2 then s
  else
    let y : Tour := { step := 3, slot := x.slot, until_ := s.now + s.rd R.CAL_DUP_CFG.DWELL 0 * 1000000000 }
    (({ s with tours := mset {} s.tours i y }).wr R.BLK_SPARE.UNDER i a).wr R.BLK_SPARE.UNDER_VALID i 1

/-! ### The end of a write-verify (R99, R345) -/

/-- Repair a cell at a logical row and column (R99): a spare row takes the row, else its group's spare column the column; false: neither is
free.  Of several free spare rows the lowest-numbered is taken: the spec does not say which (DESIGN CHOICE, log entry 73). -/
def State.repair (s : State) (f b a r c : Nat) : State × Bool :=
  let i := ixA f b a
  let g := c / 32
  let n := s.rd R.BLK_ARRAY_STATE.ROWS_SPARED i
  let cs := s.rd R.BLK_ARRAY_STATE.COLS_SPARED i
  let x := s.arr f b a
  if n < 8 then
    (((s.modArr f b a (fun y => { y with rowMap := mset 0 y.rowMap r (n + 1) })).wr R.BLK_ARRAY_STATE.ROWS_SPARED i (n + 1)).raise
      { det := .repair, unit := unitId 4 (s.phys f) b a (x.rowAt r), d0 := BitVec.ofNat 64 (512 + n) }, true)
  else if bit cs g = false then
    (((s.modArr f b a (fun y => { y with colMap := mset 0 y.colMap g (c % 32 + 1) })).wr R.BLK_ARRAY_STATE.COLS_SPARED i (setBit cs g true)).raise
      { det := .repair, unit := unitId 5 (s.phys f) b a (x.posAt c), d0 := BitVec.ofNat 64 (33 * g + 32) }, true)
  else (s, false)

/-- A permanent wordline (kind 4) or column of an array is moved to a free spare (R556, R99 steps 1 and 2), with what it holds; false: none is
free. -/
def State.moveUnit (s : State) (f b a k sub : Nat) : State × Bool :=
  let i := ixA f b a
  let x := s.arr f b a
  let n := s.rd R.BLK_ARRAY_STATE.ROWS_SPARED i
  let cs := s.rd R.BLK_ARRAY_STATE.COLS_SPARED i
  let g := sub / 33
  if k = 4 then
    if n < 8 then
      ((s.setArr f b a (match x.rowOf sub with
        | some r => { x with rowMap := mset 0 x.rowMap r (n + 1) }.lay x.logical
        | none => x)).wr R.BLK_ARRAY_STATE.ROWS_SPARED i (n + 1), true)
    else (s, false)
  else if bit cs g = false then
    ((s.setArr f b a (match x.colOf sub with
      | some c => { x with colMap := mset 0 x.colMap g (c % 32 + 1) }.lay x.logical
      | none => x)).wr R.BLK_ARRAY_STATE.COLS_SPARED i (setBit cs g true), true)
  else (s, false)

/-- Do all the repairs. -/
def State.repairs (s : State) (f b a : Nat) (rc : List (Nat × Nat)) : State × Bool :=
  rc.foldl (fun (acc : State × Bool) p => if acc.2 then acc.1.repair f b a p.1 p.2 else acc) (s, true)

/-- What a written array holds from now on. -/
def State.storeJob (s : State) (j : WJob) : State :=
  ((s.modArr j.face j.block j.arr (fun x => { x.lay j.cells with sums := j.sums, expected := j.digest, current := j.digest })).setReg
    .BLK_MASS_A (ixA j.face j.block j.arr) j.massA).setReg .BLK_MASS_B (ixA j.face j.block j.arr) j.massB

/-- The last array of a host's build has been written: BUSY falls and PF1 vector 1 is signalled (R347, R591). -/
def State.buildEnd (s : State) : State :=
  if s.flag R.PLT_BUILD_CTL.BUSY 0 && !s.writes.any (fun j => j.host) && !s.acts.any (fun a => match a with
      | .respare j => j.host
      | _ => false) then (s.wr R.PLT_BUILD_CTL.BUSY 0 0).msix 1 1 else s

/-- A job's array is written and its digest agrees: what follows, by kind.  The spare of a retirement, a re-dress or a restore stays WRITING
until the boundary makes it ACTIVE (R101 step 4), so that no other job takes it; the spec names no state for that time (DESIGN CHOICE, log
entry 73). -/
def State.jobGood (s : State) (j : WJob) : State :=
  let f := j.face
  let b := j.block
  let t := ((s.storeJob j).clearMon f b j.arr).noteFlags f b
  if j.kind = 0 then
    let u := t.setAState f b j.arr 1
    let v := if u.slotPhys f b j.slot = some j.arr then u
      else u.schedule (.switch f b j.slot j.arr j.src 5) (fun z => z.switchSlot f b j.slot j.arr j.src 5)
    (v.modCopy f j.w j.copy (fun x => { x with digest := mset 0#64 x.digest j.idx j.digest, good := mset false x.good j.idx true })).checkReady
      f j.w j.copy
  else if j.kind = 4 then
    -- the check array holds a's levels: the dwell begins at the boundary (R534 step 3)
    let u := (t.setAState f b j.arr 2)
    let v : State := { u with tours := mset {} u.tours (ixB f b) { mget {} u.tours (ixB f b) with step := 2 } }
    v.schedule (.dwell f b j.src) (fun z => z.startDwell f b j.src)
  else t.schedule (.switch f b j.slot j.arr j.src j.kind) (fun z => z.switchSlot f b j.slot j.arr j.src j.kind)

/-- A job goes to a spare, the check array where there is no other (R103). -/
def State.respare (s : State) (j : WJob) : State :=
  let r := s.spareFor j.face j.block
  match r.2 with
  | some d => r.1.queueWrite { j with arr := d, src := if j.kind = 0 then j.arr else j.src, started := false, again := false }
  | none => r.1

/-- A job's array cannot be written: it is retired, and the record goes to a spare (R345, R99 step 3), at the next hand boundary where that is the
check array (R103). -/
def State.jobBad (s : State) (j : WJob) : State :=
  let t := (s.setAState j.face j.block j.arr 5).raise { det := .retired, unit := s.unitArray j.face j.block j.arr }
  if j.kind = 4 then t.dropCheck j.face j.block
  else if (t.freeSpare j.face j.block).isSome then t.respare j
  else t.schedule (.respare j) (fun u => u.respare j)

end Sys2Proof.Machine
end

