-- ==== Sys2Proof/Machine/Records.lean ====
section
/-! DEFINITION. Array records and the sections of the open image (12_weights.md R335, 10_ifeom_engine_instructions.md R295), and the loss and
restoration of an array (R102, R351). -/
namespace Sys2Proof.Machine

/-- First position of a record that breaks R77 or holds a code outside the used region. -/
def badPosition (fmt rows cols : Nat) (code : Nat → Nat) : Option Nat :=
  (List.range 131072).find? (fun e =>
    if e / 256 < rows ∧ e % 256 < cols then badCode fmt (code e) else decide (code e ≠ 0))

/-- Level pairs of a record (R76, R78). -/
def pairsOf (fmt rows cols : Nat) (code : Nat → Nat) : SMap Nat :=
  (List.range (rows * 256)).foldl (fun m e => if e % 256 < cols then mset 0 m e (codePair fmt (code e)) else m) []

/-- An array record in a section (R295), as `Face.recordAt` reads one in scratchpad. -/
def recordOf (ws : List Word) : (Nat → Nat) × SMap Int × Word × Word × Word × Word :=
  let a := ws.toArray
  let byte (i : Nat) : Nat := byteOf (a.getD (i / 8) 0#64) (i % 8)
  let u16 (i : Nat) : Nat := byte i + 256 * byte (i + 1)
  let m (i : Nat) : Nat := u16 (33280 + 2 * i)
  ((fun e => byte (e / 4) / 4 ^ (e % 4) % 4),
   loop 256 [] (fun s c => let v := u16 (32768 + 2 * c); mset 0 s c (if v < 32768 then (v : Int) else (v : Int) - 65536)),
   BitVec.ofNat 64 (m 0 % 8192 + m 1 % 4096 * 2 ^ 16 + m 2 % 4096 * 2 ^ 32),
   BitVec.ofNat 64 (m 3 % 512 + m 4 % 512 * 2 ^ 16 + m 5 % 512 * 2 ^ 32 + m 6 % 512 * 2 ^ 48),
   a.getD (33296 / 8) 0#64,
   BitVec.ofNat 64 (crc64 ((List.range 32768).map byte)))

/-- Staged sections of a face, with their indices. -/
def Img.faceSecs (x : Img) (f : Nat) : List (Nat × SecData) :=
  (x.secs.zip (List.range x.secs.length)).filterMap (fun e =>
    if e.1.mine = true ∧ e.1.staged = true ∧ (e.1.ent.face = f ∨ e.1.ent.face = 0xFF) then e.1.data.map (fun d => (e.2, d)) else none)

/-- MAP entries of a face, with their section's index. -/
def Img.entries (x : Img) (f : Nat) : List (Nat × MapEnt) :=
  (x.faceSecs f).flatMap (fun e => match e.2 with
    | .map sets => sets.map (fun m => (e.1, m))
    | _ => [])

/-- ARRAYS, COLUMNS and spall parts of a weight set of a face. -/
def Img.recordsOf (x : Img) (f w : Nat) : List (Nat × List Word) :=
  (x.faceSecs f).flatMap (fun e => match e.2 with
    | .arrays v recs => if v = w then recs.map (fun r => (e.1, r)) else []
    | _ => [])
def Img.columnsOf (x : Img) (f w : Nat) : Option (Nat × List Nat × List Nat) :=
  (x.faceSecs f).findSome? (fun e => match e.2 with
    | .columns v sc bi => if v = w then some (e.1, sc, bi) else none
    | _ => none)
def Img.spallOf (x : Img) (f w c : Nat) : Option (Nat × List Word × List (List Word)) :=
  (x.faceSecs f).findSome? (fun e => match e.2 with
    | .spall parts => (parts.find? (fun p => decide (p.1 = w ∧ p.2.1 = c))).map (fun p => (e.1, p.2.2.1, p.2.2.2))
    | _ => none)

/-- FINE blocks and fine-table lines of a face. -/
def Img.fineOf (x : Img) (f : Nat) : List FineBlk × List FineLine :=
  (x.faceSecs f).foldl (fun a e => match e.2 with
    | .fine bs ls => (a.1 ++ bs, a.2 ++ ls)
    | _ => a) ([], [])

end Sys2Proof.Machine

namespace Sys2Proof
open Machine

/-- Fields of a map entry. -/
def MapEnt.k (m : MapEnt) : Nat := fw m.lo R.ARF_WSMAP_LO.K
def MapEnt.n (m : MapEnt) : Nat := fw m.lo R.ARF_WSMAP_LO.N
def MapEnt.blocks (m : MapEnt) : Nat := fw m.lo R.ARF_WSMAP_LO.BLOCKS
def MapEnt.fmt (m : MapEnt) : Nat := fw m.lo R.ARF_WSMAP_LO.FORMAT
def MapEnt.at_ (m : MapEnt) (c : Nat) : Nat × Nat :=
  if c = 0 then (fw m.hi R.ARF_WSMAP_HI.A_BLOCK, fw m.hi R.ARF_WSMAP_HI.A_SLOT)
  else (fw m.hi R.ARF_WSMAP_HI.B_BLOCK, fw m.hi R.ARF_WSMAP_HI.B_SLOT)
def MapEnt.spall (m : MapEnt) (c : Nat) : Word := if c = 0 then m.spA else m.spB
def MapEnt.count (m : MapEnt) : Nat := (m.blocks + 1) * m.k * m.n

/-- Block and slot of an AIDX of a copy. -/
def MapEnt.place (m : MapEnt) (c idx : Nat) : Nat × Nat :=
  let p := m.at_ c
  (p.1 + idx / (m.k * m.n), p.2 + idx % (m.k * m.n))

/-- Used rows and columns of an array (R83, R105). -/
def MapEnt.rows (m : MapEnt) (idx : Nat) : Nat :=
  let kn := m.k * m.n
  if idx / kn * m.k + idx % kn / m.n + 1 = tileSlices m.k m.blocks then fw m.lo R.ARF_WSMAP_LO.ROWS_LAST else 512
def MapEnt.cols (m : MapEnt) (idx : Nat) : Nat := if idx % m.n + 1 = m.n then fw m.lo R.ARF_WSMAP_LO.COLS_LAST else 256

end Sys2Proof

namespace Sys2Proof.Machine

/-- The job that writes array `idx` of a weight set of the staged image. -/
def Img.job (x : Img) (f c idx a prio kind slot : Nat) (b : Nat) (m : MapEnt) : Option WJob :=
  ((x.recordsOf f m.w)[idx]?).map (fun e =>
    let r := recordOf e.2
    { face := f, block := b, arr := a, prio := prio, kind := kind, slot := slot, w := m.w, copy := c, idx := idx
      cells := pairsOf m.fmt (m.rows idx) (m.cols idx) r.1, sums := r.2.1, massA := r.2.2.1, massB := r.2.2.2.1, digest := r.2.2.2.2.1
      host := decide (kind = 0) })

/-- The record from which a lost array is restored (R351): the image that built its live copy is STAGED. -/
def State.recordFor (s : State) (f b a : Nat) : Option WJob :=
  match s.img, s.slotOf f b a with
  | some x, some slot =>
    match s.slotOwner f b slot with
    | some (w, c, idx) =>
      if s.rd R.PLT_WIMG_STATE.STATE 0 = 2 ∧ s.copyVer f w c = x.version ∧ s.wsLive f w = c then
        match (x.entries f).find? (fun e => decide (e.2.w = w)) with
        | some e => x.job f c idx a 1 3 slot b e.2
        | none => none
      else none
    | none => none
  | _, _ => none

/-- An array is LOST (R102, R351), and restored from its record where the image that built its copy is STAGED. -/
def State.lose (s : State) (f b a : Nat) : State := s.loseArray f b a (s.recordFor f b a)

/-! ### STATE of the image -/

/-- PLT_WIMG_STATE.STATE changes: PF1 vector 0 (R591). -/
def State.wimgState (s : State) (v : Nat) : State :=
  if s.rd R.PLT_WIMG_STATE.STATE 0 = v then s else (s.wr R.PLT_WIMG_STATE.STATE 0 v).msix 1 0

/-- A restore reads the staged records. -/
def State.restoring (s : State) : Bool := s.writes.any (fun j => decide (j.kind = 3))

/-- Free the staging region. -/
def State.discard (s : State) : State := ({ s with img := none, discardWaits := false } : State).wimgState 0

/-- A DISCARD that waited for a restore (R364). -/
def State.discardEnd (s : State) : State := if s.discardWaits && !s.restoring then s.discard else s

end Sys2Proof.Machine
end

