-- ==== Sys2Proof/Machine/ArrayRun.lean ====
section
/-! DEFINITION. The array field at work: the examination at issue (03_array_field.md R80 to R98; 05_fine_engine_and_spall.md R150 to R161),
phases, conversions, repeats and bench 3 (04_precision_ladder.md R110 to R128), the output path (R117, R118), duplicate
comparison (R122, R127, R533), monitors (R528, R529), and APROG and AREAD (10_ifeom_engine_instructions.md R294 to R299).  An analogue current is
the nominal one of R88 plus the error that the event supplies, in 1/256 of a unit current. -/
namespace Sys2Proof.Machine

/-! ### The tile of an MVM -/

/-- Geometry of an MVM, from the map as it stood at its issue (R107). -/
structure Tile where
  w : Nat
  k : Nat
  n : Nat
  blocks : Nat
  rowsLast : Nat
  colsLast : Nat
  fmt : Nat
  layer : Nat
  copy : Nat
  block0 : Nat
  slot0 : Nat
  /-- physical arrays by AIDX, the layer's pin, and the blocks pinned to bench 3, at issue -/
  arrs : List Nat
  pin : Nat
  pin3 : List Nat
  deriving DecidableEq, Repr

/-- Tile of a queued MVM. -/
def QOp.tile (q : QOp) : Tile :=
  let c := fw q.mapLo R.ARF_WSMAP_LO.LIVE
  { w := fget q.w1 0 12, k := fw q.mapLo R.ARF_WSMAP_LO.K, n := fw q.mapLo R.ARF_WSMAP_LO.N
    blocks := fw q.mapLo R.ARF_WSMAP_LO.BLOCKS, rowsLast := fw q.mapLo R.ARF_WSMAP_LO.ROWS_LAST
    colsLast := fw q.mapLo R.ARF_WSMAP_LO.COLS_LAST, fmt := fw q.mapLo R.ARF_WSMAP_LO.FORMAT
    layer := fw q.mapLo R.ARF_WSMAP_LO.LAYER, copy := c
    block0 := if c = 0 then fw q.mapHi R.ARF_WSMAP_HI.A_BLOCK else fw q.mapHi R.ARF_WSMAP_HI.B_BLOCK
    slot0 := if c = 0 then fw q.mapHi R.ARF_WSMAP_HI.A_SLOT else fw q.mapHi R.ARF_WSMAP_HI.B_SLOT
    arrs := q.arrs, pin := q.pin, pin3 := q.pin3 }

/-- Used rows of depth k in block i; used columns of width n; all output columns. -/
def Tile.rows (t : Tile) (i k : Nat) : Nat := if i * t.k + k + 1 = tileSlices t.k t.blocks then t.rowsLast else 512
def Tile.cols (t : Tile) (n : Nat) : Nat := if n + 1 = t.n then t.colsLast else 256
def Tile.outCols (t : Tile) : Nat := (t.n - 1) * 256 + t.colsLast

/-- Physical array at depth k and width n of block i, as the maps stood at the MVM's issue (R107, R109). -/
def Tile.arr (t : Tile) (i k n : Nat) : Nat := t.arrs.getD ((i * t.k + k) * t.n + n) 71

/-- Addresses of vector v's record and output row (R287, R289). -/
def QOp.recAt (q : QOp) (t : Tile) (v : Nat) : Nat :=
  rngBase q.al + v * strideOf (fget q.w2 20 12) (recordLen (tileLen t.k t.blocks t.rowsLast))
def QOp.outAt (q : QOp) (t : Tile) (v : Nat) : Nat :=
  rngBase q.ar + v * strideOf (fget q.w2 32 12) (outRowLen t.n t.colsLast (if q.f0 20 1 = 1 then 1 else 2))

/-! ### Pieces, masses and limits (R81, R94, R95) -/

/-- Pieces of an input, rows of a conversion group, groups, LSB in unit currents, promotion shift, by bench (R81, R87, R110). -/
def benchPieces (b : Nat) : Nat := if b = 2 then 4 else 2
def benchRows (b : Nat) : Nat := if b = 0 then 512 else if b = 1 then 256 else 128
def benchPhases (b : Nat) : Nat := if b = 0 then 2 else if b = 1 then 4 else 16
def benchLsb (b : Nat) : Nat := if b = 0 then 16 else if b = 1 then 8 else 2
def benchBase (b : Nat) : Nat := if b = 2 then 4 else 16

/-- Piece number j of an input (R81). -/
def pieceOf (b j u : Nat) : Nat := if b = 2 then u / 4 ^ (3 - j) % 4 else if j = 0 then u / 16 else u % 16

/-- Pieces driven in a phase: (row, piece) over the group's used rows. -/
def phasePieces (b phase : Nat) (applied : List Nat) : List (Nat × Nat) :=
  let g := phase / benchPieces b
  let j := phase % benchPieces b
  ((applied.zip (List.range applied.length)).drop (g * benchRows b)).take (benchRows b) |>.map (fun e => (e.2, pieceOf b j e.1))

/-- Mass of a phase (R94). -/
def phaseMass (b phase : Nat) (applied : List Nat) : Nat := (phasePieces b phase applied).foldl (fun a e => a + e.2) 0

/-- Programmed limit of a bench and group of an array. -/
def State.massLimit (s : State) (f b a bench g : Nat) : Nat :=
  let i := ixA f b a
  if bench = 0 then s.rd R.BLK_MASS_A.B0 i
  else if bench = 1 then (if g = 0 then s.rd R.BLK_MASS_A.B1G0 i else s.rd R.BLK_MASS_A.B1G1 i)
  else if g = 0 then s.rd R.BLK_MASS_B.B2G0 i else if g = 1 then s.rd R.BLK_MASS_B.B2G1 i
  else if g = 2 then s.rd R.BLK_MASS_B.B2G2 i else s.rd R.BLK_MASS_B.B2G3 i

/-- A mass of a phase is at most its effective limit (R95, R96). -/
def State.massAdmits (s : State) (f b a bench phase : Nat) (applied : List Nat) (mass : Nat) : Bool :=
  let g := phase / benchPieces bench
  let used := min (benchRows bench) (applied.length - g * benchRows bench)
  if used = 0 then true
  else decide (mass ≤ min (s.massLimit f b a bench g) (if bench = 2 then 3 * used else 15 * used - 1))

/-- The same of the mass that the check at issue computes (R94). -/
def State.phaseAdmits (s : State) (f b a bench phase : Nat) (applied : List Nat) : Bool :=
  s.massAdmits f b a bench phase applied (phaseMass bench phase applied)

/-- An addition into a wide accumulator, by column: 32 bits, two's complement, saturating (R114); the first column that saturates is kept. -/
def wideAdd (m : SMap Int × Option Nat) (j : Nat) (d : Int) : SMap Int × Option Nat :=
  let v := mget 0 m.1 j + d
  let w := clampInt (-2 ^ 31) (2 ^ 31 - 1) v
  (mset 0 m.1 j w, if v = w then m.2 else some (m.2.getD j))

/-- A saturation of a wide accumulator of block b (R114): WIDE_SAT and a record of a hard detector. -/
def State.wideSat (s : State) (f b c : Nat) : State :=
  (s.wr R.BLK_ACC_STAT.WIDE_SAT (ixB f b) 1).raise
    { det := .wideSat, unit := s.unitBlock f b, d0 := BitVec.ofNat 64 c, lface := f, opcode := 0x2000 }

/-! ### Issue (R90 to R98, R155 to R161) -/

/-- A spall-table entry: channel and address of its shadow row (R151). -/
def Face.spallTable (x : Face) (sp : Word) : List (Nat × Nat) :=
  (List.range (fw sp R.ARF_SPALL.COUNT)).map (fun i =>
    let v := (x.padNum (fw sp R.ARF_SPALL.TABLE * 128 + 8 * i) 8).1
    (nf v 0 21, nf v 24 18 * 128))

/-- Weight of column j in a shadow row (R152). -/
def Face.shadowWeight (x : Face) (fmt row j : Nat) : Int :=
  codeWeight fmt ((x.padNum (row + 8 * (j / 32)) 8).1 / 4 ^ (j % 32) % 4)

/-- What step 1 leaves of a slice: applied values, and the spalled differences with their shadow rows. -/
def spallSlice (z thr : Nat) (table : List (Nat × Nat)) (base : Nat) (us : List Nat) : List Nat × List (Int × Nat) :=
  (us.zip (List.range us.length)).foldl (fun (acc : List Nat × List (Int × Nat)) e =>
    let d : Int := (e.1 : Int) - (z : Int)
    match table.find? (fun t => decide (t.1 = base + e.2)) with
    | some t => if d.natAbs > thr then (acc.1 ++ [z], acc.2 ++ [(d, t.2)]) else (acc.1 ++ [e.1], acc.2)
    | none => (acc.1 ++ [e.1], acc.2)) ([], [])

/-- Step 2 on a value (R156). -/
def clipValue (z c u : Nat) : Nat := min (max u (z - c)) (z + c)

/-- A slice all of whose used rows carry one value (R92). -/
def isUniform (us : List Nat) : Bool := us.all (fun u => decide (u = us.headD 0))

/-- Benches 0 to 2 that the masses of a block allow (R96). -/
def State.benchesOk (s : State) (f : Nat) (t : Tile) (i : Nat) (applied : List (List Nat)) (uni : List Bool) : List Bool :=
  (List.range 3).map (fun b => (List.range t.k).all (fun k =>
    uni.getD k false || (List.range t.n).all (fun n => (List.range (benchPhases b)).all (fun p =>
      s.phaseAdmits f (t.block0 + i) (t.arr i k n) b p (applied.getD k [])))))

/-- The lowest admissible bench from `lo` on, or 3. -/
def lowestBench (adm : List Bool) (lo : Nat) : Nat := ((List.range 3).find? (fun b => decide (lo ≤ b) && adm.getD b false)).getD 3

/-- Exact results of the uniform slices of a block: v × S_c (R92). -/
def State.uniformSums (s : State) (f : Nat) (t : Tile) (i : Nat) (applied : List (List Nat)) (uni : List Bool) : SMap Int × Option Nat :=
  loop t.k ([], none) (fun m k =>
    if uni.getD k false then
      let v := (applied.getD k []).headD 0
      loop t.n m (fun m2 n =>
        let x := s.arr f (t.block0 + i) (t.arr i k n)
        loop (t.cols n) m2 (fun m3 c => wideAdd m3 (n * 256 + c) ((v : Int) * mget 0 x.sums c)))
    else m)

/-- The spall unit's contributions (R159). -/
def spallSums (x : Face) (t : Tile) (ds : List (Int × Nat)) (m : SMap Int × Option Nat) : SMap Int × Option Nat :=
  ds.foldl (fun a d => loop t.outCols a (fun b j => wideAdd b j (d.1 * x.shadowWeight t.fmt d.2 j))) m

/-- Layer counts (R128). -/
def State.layerCount (s : State) (f layer : Nat) (pass esc : Bool) : State :=
  let i := ix 256 f layer
  let t := if pass then s.bump R.ARF_LAYER_STAT.PASSES i else s
  if esc then t.bump R.ARF_LAYER_STAT.ESCALATIONS i else t

/-- The array under check, where it stands in a block of the tile (R292): depth and width. -/
def State.underCheck (s : State) (f : Nat) (t : Tile) (i : Nat) : Option (Nat × Nat) :=
  let b := ixB f (t.block0 + i)
  if s.rd R.BLK_SPARE.CHECK_VALID b = 1 ∧ s.rd R.BLK_SPARE.UNDER_VALID b = 1 then
    ((List.range (t.k * t.n)).find? (fun e => decide (t.arr i (e / t.n) (e % t.n) = s.rd R.BLK_SPARE.UNDER b))).map
      (fun e => (e / t.n, e % t.n))
  else none

/-- Replace a pass. -/
def State.putPass (s : State) (f : Nat) (p : Pass) : State :=
  s.modFace f (fun x => { x with mvm := x.mvm.map (fun r => { r with passes := r.passes.map (fun (o : Pass) =>
    if o.block = p.block ∧ o.vector = p.vector then p else o) }) })

/-- A pass leaves trouble unresolved (R125): the hand cannot commit, and the face fails R24. -/
def State.unresolved (s : State) (f : Nat) (q : QOp) (p : Pass) : State :=
  let t := (s.putPass f { p with st := .unresolved }).bump R.ARF_REPEAT_STAT.UNRESOLVED f
  if q.discard then t else ({ t with hand := { t.hand with tileTrouble := true } }).modFace f (fun x => { x with failed := true })

/-- Steps 1 to 5 of R90 for vector v in block i; `drawn`: the sampling decision (R532).  COUNT = 0 turns the spall path off, its clipping with it
(R150).  A pass whose clipping R157 cancels still counts its clips in CLIPPED: the spec does not say (DESIGN CHOICE, log entry 73). -/
def State.issueCheck (s : State) (f : Nat) (q : QOp) (r : MvmRun) (i v : Nat) (drawn : Bool) : State :=
  let x := s.face f
  let t := q.tile
  let a := q.recAt t v
  let z := (x.padNum a 1).1
  let spl := decide (q.f0 17 1 = 0 ∧ fw q.spall R.ARF_SPALL.COUNT ≠ 0)
  let thr := if q.f0 16 1 = 1 then q.f0 8 8 else (x.padNum (a + 1) 1).1
  let table := if spl then x.spallTable q.spall else []
  let slices := (List.range t.k).map (fun k =>
    let base := (i * t.k + k) * 512
    spallSlice z thr table base ((List.range (t.rows i k)).map (fun e => (x.padNum (a + 128 + base + e) 1).1)))
  let step1 := slices.map Prod.fst
  let ds := slices.flatMap Prod.snd
  let c := fw q.spall R.ARF_SPALL.CLIP
  -- clipping leaves a spalled row at z, which it cannot change
  let step2 := if spl ∧ c < 255 then step1.map (fun us => us.map (clipValue z c)) else step1
  let clips := ((step1.zip step2).map (fun e => ((e.1.zip e.2).filter (fun p => decide (p.1 ≠ p.2))).length)).foldl (· + ·) 0
  let cancel := decide (clips > fw q.spall R.ARF_SPALL.CLIP_LIMIT)
  let applied := if cancel then step1 else step2
  let uni := applied.map (fun us => s.flag R.ARF_CFG.UNIFORM_EN f && isUniform us)
  let adm := s.benchesOk f t i applied uni
  let b := t.block0 + i
  let floor_ := max (max (q.f0 21 2) t.pin) (if t.pin3.contains i then 3 else 0)
  let bench := if cancel then (if floor_ ≥ 3 then 3 else lowestBench adm (floor_ + 1))
    else if s.flag R.ARF_CFG.MASS_EN f then lowestBench adm floor_ else floor_
  let allUni := uni.all id
  let esc := cancel || (!allUni && decide (bench > floor_))
  let poison := (List.range 16).any (fun e => (x.padByte (a + 8 * e)).2) ||
    (List.range t.k).any (fun k => (List.range ((t.rows i k + 7) / 8)).any (fun e => (x.padByte (a + 128 + (i * t.k + k) * 512 + 8 * e)).2)) ||
    ds.any (fun d => (List.range ((t.outCols + 31) / 32)).any (fun e => (x.padByte (d.2 + 8 * e)).2))
  let ex := spallSums x t ds (s.uniformSums f t i applied uni)
  let tr := mget {} s.tours (ixB f b)
  let under := s.underCheck f t i
  let want := drawn || decide (q.f0 18 2 = 1) || tr.owed
  let skip := under.any (fun kn => uni.getD kn.1 false)
  let sampled := want && under.isSome && !skip && decide (bench < 3) && !allUni
  let p : Pass :=
    { block := i, vector := v, bench := if allUni && !cancel then floor_ else bench, floor := floor_
      st := if allUni then .done else if bench = 3 then .bench3 false else .running 0
      applied := applied, uniform := uni, admissible := adm
      exact := ex.1, sat := ex.2, escalated := esc, sampled := sampled, poisoned := poison }
  let s1 := ((s.bumpBy R.ARF_VEC_STAT.VECTORS f (t.k * t.n)).bumpBy R.ARF_VEC_STAT.UNIFORM f ((uni.filter id).length * t.n))
  let s2 := (s1.bumpBy R.ARF_SPALL_STAT.SPALLED f ds.length).bumpBy R.ARF_SPALL_STAT.CLIPPED f clips
  let s3 := if cancel then s2.bump R.ARF_SPALL_STAT.CLIP_ESC f
    else if allUni = true ∨ bench ≤ floor_ then s2
    else s2.bump (if bench = 1 then R.ARF_SPLIT_STAT.TO_B1 else if bench = 2 then R.ARF_SPLIT_STAT.TO_B2 else R.ARF_SPLIT_STAT.TO_B3) f
  let s4 := (s3.layerCount f t.layer true esc).padTouchRange f a 128
  let s4a := if spl then (ds.map Prod.snd).foldl (fun u row => u.padTouchRange f row (8 * ((t.outCols + 31) / 32)))
    (s4.padTouchRange f (fw q.spall R.ARF_SPALL.TABLE * 128) (8 * fw q.spall R.ARF_SPALL.COUNT)) else s4
  let s5 := loop t.k s4a (fun u k => u.padTouchRange f (a + 128 + (i * t.k + k) * 512) (t.rows i k))
  let s6 := s5.modFace f (fun y => { y with mvm := some { r with passes := p :: r.passes } })
  -- a sample that falls on a uniform slice of the checked array passes to the next pass (R136)
  let s7 : State := if under.isSome && want && (skip || sampled) then { s6 with tours := mset {} s6.tours (ixB f b) { tr with owed := skip } } else s6
  match ex.2 with
  | some c => (s7.wideSat f b c).unresolved f q p
  | none => s7

/-- The MVM in progress on a face: the oldest started array operation that is an MVM. -/
def Face.mvmOp (x : Face) : Option QOp := x.started.find? (fun q => decide (q.eng = .array ∧ q.op = 0))

/-- The pass of a block and vector. -/
def MvmRun.pass (r : MvmRun) (i v : Nat) : Option Pass := r.passes.find? (fun p => decide (p.block = i ∧ p.vector = v))

/-- VECTOR_ISSUE_CHECK (R90): block i of the tile holds vector v of the MVM in progress on face f.  Vectors come in order. -/
def execVectorIssueCheck (f i v : Nat) (drawn : Bool) (s : State) : Host.Outcome State Fault Refusal :=
  ok (match (s.face f).mvmOp, (s.face f).mvm with
    | some q, some r =>
      if r.op = q.id ∧ i ≤ q.tile.blocks ∧ v < fget q.w1 20 13 ∧ (r.pass i v).isNone = true ∧ (v = 0 ∨ (r.pass i (v - 1)).isSome = true)
      then s.issueCheck f q r i v drawn else s
    | _, _ => s)

/-! ### Conversions (R87 to R89, R110, R528, R529) -/

/-- Nominal current of a column in a phase, in unit currents. -/
def nominal (x : ArrMem) (pieces : List (Nat × Nat)) (c : Nat) : Int :=
  pieces.foldl (fun a e => if e.2 = 0 then a else a + (e.2 : Int) * pairWeight (x.pair e.1 c)) 0

/-- A conversion (R88) of a current in 1/256 of a unit current: code and over-range flag. -/
def convert88 (lsb : Nat) (i256 : Int) : Int × Bool :=
  let n := (i256 + 128 * (lsb : Int)) / (256 * (lsb : Int))
  if n > 127 then (127, true) else if n < -128 then (-128, true) else (n, false)

/-- Scale of the monitors' fixed point. -/
def monUnit : Int := 2 ^ 40

/-- A code lies outside its monitor's window (R529). -/
def MonCol.outside (m : MonCol) (shift k : Nat) (code : Int) : Bool :=
  let d : Int := (code * monUnit - m.mu).natAbs
  m.flag || (decide (m.n ≥ 2 ^ shift) && decide (d > 2 * monUnit ∧ (d - 2 * monUnit) * (d - 2 * monUnit) > (k : Int) * (k : Int) * m.v * monUnit))

/-- A code enters μ and v (R528). -/
def MonCol.enter (m : MonCol) (shift : Nat) (code : Int) : MonCol :=
  if m.n = 0 then { m with n := 1, mu := code * monUnit }
  else
    let d := code * monUnit - m.mu
    { m with n := m.n + 1, mu := m.mu + d / 2 ^ shift, v := m.v + (d * d / monUnit - m.v) / 2 ^ shift }

/-- What an array's conversions of one phase give: codes by column, whether any is over range, excursions, the monitors after. -/
structure Conv1 where
  codes : List Int
  ovr : Nat
  exc : Nat
  mon : Mon
  deriving DecidableEq, Repr

/-- The conversions of one array in one phase: the 32 logical columns of each group (R84); `err` by column.  The first `used` columns have
monitors (R528). -/
def State.convertArray (s : State) (x : ArrMem) (bench used : Nat) (pieces : List (Nat × Nat)) (err : Nat → Int) (m : Mon) : Conv1 :=
  let lsb := benchLsb bench
  let en := s.flag R.CAL_MON_CFG.EN 0
  let shift := s.rd R.CAL_MON_CFG.SHIFT 0
  let k := s.rd R.CAL_MON_CFG.K 0
  let m0 : Mon := { m with conv := m.conv + 1, krow := pieces.foldl (fun a e => mset 0 a e.1 (mget 0 a e.1 + e.2)) m.krow }
  (List.range 256).foldl (fun (acc : Conv1) c =>
    let r := convert88 lsb (256 * nominal x pieces c + err c)
    let mc := mget {} acc.mon.cols c
    let en := en && decide (c < used)
    let out := en && mc.outside shift k r.1
    { codes := acc.codes ++ [r.1], ovr := acc.ovr + (if r.2 then 1 else 0), exc := acc.exc + (if out then 1 else 0)
      mon := if r.2 || !en then acc.mon
        else { acc.mon with cols := mset {} acc.mon.cols c (mc.enter shift r.1)
                            sums := mset 0 acc.mon.sums c (mget 0 acc.mon.sums c + r.1 * (lsb : Int)) } })
    ⟨[], 0, 0, if en then m0 else m⟩

/-- The converter that serves group g of an array (R85). -/
def State.convOf (s : State) (f b a g : Nat) : Nat :=
  let i := ixA f b a
  if s.rd R.BLK_ARRAY_STATE.CONV_SPARED i = 1 ∧ s.rd R.BLK_ARRAY_STATE.CONV_REPLACED i = g then 8 else g

/-- Row sum of an array over its used columns (R522). -/
def ArrMem.rowSum (x : ArrMem) (cols r : Nat) : Int := loop cols 0 (fun a c => a + pairWeight (x.pair r c))

/-- a_1 to a_15 of a phase conversion (R522): for each level, the sum of the row sums of the rows driven at it. -/
def ArrMem.levelSums (x : ArrMem) (cols : Nat) (pieces : List (Nat × Nat)) : List Int :=
  let byRow := pieces.map (fun e => (e.2, if e.2 = 0 then 0 else x.rowSum cols e.1))
  (List.range 15).map (fun k => byRow.foldl (fun a e => if e.1 = k + 1 then a + e.2 else a) 0)

/-- What an array's conversions of a phase give to a gathering window (R520, R522): each active converter's codes enter its histogram, the spare's
those of the group that the calibration count names, and the phase enters the normal equations.  `codes` by column, `spare` by place in the
group. -/
def State.gatherCodes (s0 : State) (f b a cols lsb : Nat) (pieces : List (Nat × Nat)) (codes spare : List Int) : State :=
  let s := if (s0.cal f b).idle then (s0.modCal f b (fun x => { x with idle := false })).calPick f else s0
  if (s.cal f b).gather.isNone ∨ (s.rd R.BLK_SPARE.CHECK (ixB f b) = a ∧ s.rd R.BLK_SPARE.CHECK_VALID (ixB f b) = 1) then s
  else
    let i := ixA f b a
    let enter (m : SMap (SMap Nat)) (v : Nat) (cs : List Int) : SMap (SMap Nat) :=
      mset [] m (a * 16 + v) (cs.foldl (fun h c => mset 0 h (c + 128).toNat (mget 0 h (c + 128).toNat + 1)) (mget [] m (a * 16 + v)))
    let m := ((codes.take cols).foldl (fun (x : Int) c => x + c * (lsb : Int)) 0)
    s.modCal f b (fun x =>
      let h := loop 8 x.hists (fun h g => enter h (s.convOf f b a g) ((codes.drop (32 * g)).take 32))
      { x with hists := if s.flag R.BLK_ARRAY_STATE.CONV_SPARED i then h else enter h 8 spare
               normal := normalAdd x.normal ((s.arr f b a).levelSums cols pieces) m })

/-- Add codes to what a conversion group holds, combined (R89, R110). -/
def addCodes (b key : Nat) (first : Bool) (codes : List Int) (m : SMap Int) : SMap Int :=
  (codes.zip (List.range codes.length)).foldl (fun a e =>
    mset 0 a (key + e.2) ((if first then 0 else mget 0 a (key + e.2)) * (benchBase b : Int) + e.1)) m

/-- The units of the converter of a group, and of a column: its weight position (R84, R99). -/
def State.unitConv (s : State) (f b a g : Nat) : Nat := unitId 3 (s.phys f) b a (s.convOf f b a g)
def State.unitCol (s : State) (f b a c : Nat) : Nat := unitId 5 (s.phys f) b a ((s.arr f b a).posAt c)

/-- Units whose conversions an array's are: the array, the converters that serve its groups, the positions of its columns. -/
def State.convUnits (s : State) (f b a : Nat) : List (Det × Nat) :=
  (.dupMismatch, s.unitArray f b a) ::
    ((List.range 8).map (fun g => (Det.columnFlag, s.unitConv f b a g)) ++
     (List.range 256).map (fun c => (Det.columnFlag, s.unitCol f b a c)))

/-- Armed slots on an array's conversions fire: PARAM's code offset, for that many conversions (R559). -/
def State.fireConv (s : State) (f b a : Nat) : State :=
  if s.injs.all (fun e => !e.2.armed) then s
  else (s.convUnits f b a).foldl (fun t u =>
    match t.inject u.1 u.2 (fun _ => true) with
    | none => t
    | some r =>
      let o : Int := if r.1 % 256 < 128 then (r.1 % 256 : Nat) else (r.1 % 256 : Nat) - 256
      { r.2 with injOff := r.2.injOff ++ [(u.2, o, nf r.1 16 16)] }) s

/-- The code offset of column c of an array. -/
def State.convOff (s : State) (f b a c : Nat) : Int :=
  s.injOff.foldl (fun x e =>
    if e.1 = s.unitArray f b a ∨ e.1 = s.unitCol f b a c ∨ e.1 = s.unitConv f b a (c / 32)
    then x + e.2.1 else x) 0

/-- A conversion of an array has used up one of those that an offset affects. -/
def State.convSpent (s : State) (f b a : Nat) : State :=
  if s.injOff = [] then s
  else
    let us := (s.convUnits f b a).map Prod.snd
    { s with injOff := (s.injOff.map (fun e => if us.contains e.1 then (e.1, e.2.1, e.2.2 - 1) else e)).filter (fun e => decide (e.2.2 ≠ 0)) }

/-- One phase of a pass: the conversions of every non-uniform array of the block; `tally`: the mass that the wordline drivers found, by depth × 64 +
width, where it is not the mass of the check at issue (R123). -/
def State.phaseArrays (s : State) (f : Nat) (t : Tile) (p : Pass) (phase : Nat) (errs : SMap Int) (tally : List (Nat × Nat)) : State × Pass :=
  let b := t.block0 + p.block
  loop (t.k * t.n) (s, p) (fun acc e =>
    let k := e / t.n
    let n := e % t.n
    if p.uniform.getD k false then acc
    else
      let a := t.arr p.block k n
      let s0 := acc.1.fireConv f b a
      let key := ixA f b a * 4 + p.bench
      let pieces := phasePieces p.bench phase (p.applied.getD k [])
      let r := s0.convertArray (s0.arr f b a) p.bench (t.cols n) pieces
        (fun c => mget 0 errs ((k * 64 + n) * 256 + c) + s0.convOff f b a c * (256 * benchLsb p.bench : Nat)) (mget {} s0.monitors key)
      let mass := match tally.find? (fun e => decide (e.1 = k * 64 + n)) with
        | some e => e.2
        | none => phaseMass p.bench phase (p.applied.getD k [])
      let late := !acc.1.massAdmits f b a p.bench phase (p.applied.getD k []) mass
      let s1 := ({ s0 with monitors := mset {} s0.monitors key r.mon }).bumpBy R.BLK_ARRAY_STATE.OVR_COLUMNS (ixA f b a) r.ovr
      let g := (s.cal f b).count % 8
      let spare := (List.range 32).map (fun j => (convert88 (benchLsb p.bench) (256 * nominal (s0.arr f b a) pieces (32 * g + j) +
        mget 0 errs (2 ^ 20 + (k * 64 + n) * 32 + j))).1)
      let s2 := (s1.gatherCodes f b a (t.cols n) (benchLsb p.bench) pieces r.codes spare).bumpBy R.CAL_BLK_STATE.EXCURSIONS (ixB f b) r.exc
      let s3 := if r.exc = 0 then s2 else s2.calRequest f b 2
      (s3.convSpent f b a, { acc.2 with
        held := addCodes p.bench (k * 65536 + n * 256) (decide (phase % benchPieces p.bench = 0)) r.codes acc.2.held
        ovr := acc.2.ovr || decide (r.ovr ≠ 0), mon := acc.2.mon || decide (r.exc ≠ 0), late := acc.2.late || late }))

/-- The check array's conversions in a sampled pass (R533). -/
def State.phaseCheck (s : State) (f : Nat) (t : Tile) (p : Pass) (phase : Nat) (chk : SMap Int) : Pass :=
  match p.sampled, s.underCheck f t p.block with
  | true, some kn =>
    let b := t.block0 + p.block
    let ca := s.rd R.BLK_SPARE.CHECK (ixB f b)
    let x := s.arr f b ca
    let pieces := phasePieces p.bench phase (p.applied.getD kn.1 [])
    let codes := (List.range (t.cols kn.2)).map (fun c => (convert88 (benchLsb p.bench) (256 * nominal x pieces c + mget 0 chk c + s.convOff f b ca c * (256 * benchLsb p.bench : Nat))).1)
    { p with chkHeld := addCodes p.bench 0 (decide (phase % benchPieces p.bench = 0)) codes p.chkHeld }
  | _, _ => p

/-- Promote the narrow adders (R110, R111). -/
def Pass.promote (p : Pass) : Pass :=
  let r := p.narrow.foldl (fun a e => wideAdd a e.1 (e.2 * (benchLsb p.bench : Int))) (p.analogue, p.sat)
  { p with analogue := r.1, sat := r.2, narrow := [], count := 0 }

/-- A conversion group is complete: its entries go into the narrow adders, depth by depth, with promotion after `int` of them. -/
def Pass.groupEnd (p : Pass) (t : Tile) (int : Nat) : Pass :=
  loop t.k p (fun o k =>
    if p.uniform.getD k false then o
    else
      let o1 : Pass := { o with count := o.count + (if p.bench = 2 then 4 else 1)
                                narrow := loop t.outCols o.narrow (fun m j => mset 0 m j (mget 0 m j + mget 0 p.held (k * 65536 + j))) }
      if o1.count ≥ int then o1.promote else o1)

/-- Per-partial bound of R133, in products. -/
def partialBound (fmt bench : Nat) : Nat :=
  if fmt = 2 then (if bench = 0 then 1746 else if bench = 1 then 1167 else 918)
  else if bench = 0 then 1126 else if bench = 1 then 713 else 621

/-- Partials of a group, of the checked and of the check array, in products, by group × 256 + column. -/
def Pass.notePartials (p : Pass) (t : Tile) (kn : Nat × Nat) (g : Nat) : Pass :=
  let sc : Int := benchLsb p.bench
  loop (t.cols kn.2) p (fun o c =>
    { o with chkA := mset 0 o.chkA (g * 256 + c) (mget 0 p.held (kn.1 * 65536 + kn.2 * 256 + c) * sc)
             chkB := mset 0 o.chkB (g * 256 + c) (mget 0 p.chkHeld c * sc) })

/-- Some partial differs by more than twice the bound (R122). -/
def Pass.clash (p : Pass) (fmt : Nat) : Bool :=
  (p.chkA ++ p.chkB).any (fun e => decide ((mget 0 p.chkA e.1 - mget 0 p.chkB e.1).natAbs > 2 * partialBound fmt p.bench))

/-- R124: discard the analogue part and start again at a higher bench.  A saturation is repeated like any other trouble of R122; ARF_ESC_STAT has
no field for it (DESIGN CHOICE of the two readings of R114, log entry 44). -/
def State.repeatPass (s : State) (f : Nat) (q : QOp) (p : Pass) : State :=
  let t := q.tile
  let nb := lowestBench p.admissible (p.bench + 1)
  let s1 := (s.bump (if nb = 1 then R.ARF_REPEAT_STAT.TO_B1 else if nb = 2 then R.ARF_REPEAT_STAT.TO_B2 else R.ARF_REPEAT_STAT.TO_B3) f).bump
    R.BLK_ACC_STAT.REPEATS (ixB f (t.block0 + p.block))
  let s2 := if p.ovr then s1.bump R.ARF_ESC_STAT.OVR f else s1
  let s3 := if p.ovr = true ∧ p.ovrSeen = false ∧ s.flag R.ARF_CFG.MASS_EN f = true then s2.bump R.ARF_SPLIT_STAT.OVR_VECTORS f else s2
  let s4 := if p.mon then s3.bump R.ARF_ESC_STAT.MONITOR f else s3
  let s5 := if p.late then s4.bump R.ARF_ESC_STAT.LATE_MASS f else s4
  (if p.escalated then s5 else s5.layerCount f t.layer false true).putPass f
    { p with bench := nb, st := if nb = 3 then .bench3 false else .running 0, analogue := [], narrow := [], count := 0, held := []
             ovr := false, ovrSeen := p.ovrSeen || p.ovr, mon := false, late := false, sat := none, repeated := true, escalated := true, sampled := false
             chkHeld := [], chkA := [], chkB := [] }

/-- The last phase of a pass has ended without trouble: the duplicate comparison.  The first 1,024 sampled passes of a dwell are not compared
(R533, R135). -/
def State.passEnd (s : State) (f : Nat) (q : QOp) (p : Pass) : State :=
  let t := q.tile
  match p.sampled, s.underCheck f t p.block with
  | true, some kn =>
    let i := ixB f (t.block0 + p.block)
    let x := mget {} s.tours i
    let s1 : State := { s with tours := mset {} s.tours i { x with sampled := x.sampled + 1 } }
    if x.sampled < 1024 then s1.putPass f { p with st := .done }
    else
      let n := s1.dupRest + 1
      let s2 := ({ s1 with dupRest := n % 1000 }).bumpBy R.CAL_DUP_STAT.ARRAY_SAMPLED 0 (n / 1000)
      if p.clash t.fmt then
        ((s2.bump R.ARF_ESC_STAT.DUP_MISMATCH f).bump R.ARF_REPEAT_STAT.TO_B3 f).putPass f
          { p with st := .bench3 false, mismatch := some (kn.1 * 64 + kn.2) }
      else s2.putPass f { p with st := .done }
  | _, _ => s.putPass f { p with st := .done }

/-- Partials of a group that a phase ends enter the narrow adders, with promotion, and the last promotion of the pass (R111). -/
def State.phaseAdd (s : State) (f : Nat) (q : QOp) (p : Pass) (phase : Nat) : Pass :=
  let t := q.tile
  let o := match p.sampled, s.underCheck f t p.block with
    | true, some kn => p.notePartials t kn (phase / benchPieces p.bench)
    | _, _ => p
  let p1 := if (phase + 1) % benchPieces p.bench = 0 then o.groupEnd t (if fget q.w1 12 8 = 0 then 64 else fget q.w1 12 8) else p
  if phase + 1 = benchPhases p.bench then p1.promote else p1

/-- A phase of a running pass ends. -/
def State.phaseEnd (s : State) (f : Nat) (q : QOp) (p : Pass) (phase : Nat) (errs chk : SMap Int) (tally : List (Nat × Nat)) (sat : Option Nat) :
    State :=
  let t := q.tile
  let b := t.block0 + p.block
  let r0 := s.phaseArrays f t p phase errs tally
  let ca := r0.1.rd R.BLK_SPARE.CHECK (ixB f b)
  let c0 := if p.sampled then r0.1.fireConv f b ca else r0.1
  let p1 := c0.phaseCheck f t r0.2 phase chk
  let s1 := if p.sampled then c0.convSpent f b ca else c0
  let bad := p1.ovr || p1.mon || p1.late
  let p2 := if bad then p1 else s1.phaseAdd f q p1 phase
  -- an armed WIDE_SAT slot forces a saturation at a promotion, of a column nobody names (R559)
  let fx := if (phase + 1) % benchPieces p.bench = 0 then s1.forced .wideSat (s.unitBlock f b) else (false, s1)
  let col := match sat, p2.sat with
    | some c, _ => some c
    | none, some c => some c
    | none, none => if fx.1 then some (fx.2.draw.1 % t.outCols) else none
  let s2 := if fx.1 then fx.2.draw.2 else s1
  match col with
  | some c => (s2.wideSat f b c).repeatPass f q p1
  | none =>
    if bad then s2.repeatPass f q p1
    else if phase + 1 = benchPhases p.bench then s2.passEnd f q p2
    else s2.putPass f { p2 with st := .running (phase + 1) }

/-- PHASE_END (R86, R124): the phase in progress of the pass of vector v in block i ends, with the analogue errors of its conversions
(key: (depth × 64 + width) × 256 + column) and of the check array's (by column), in 1/256 unit current, the masses that the wordline drivers
tallied where they are not those of the issue check (R123; by depth × 64 + width), and a saturated column of the wide accumulator, which only a
hardware fault makes (R114). -/
def execPhaseEnd (f i v : Nat) (errs chk : List (Nat × Int)) (tally : List (Nat × Nat)) (sat : Option Nat) (s : State) : Host.Outcome State Fault Refusal :=
  ok (match (s.face f).mvmOp, (s.face f).mvm with
    | some q, some r =>
      match r.pass i v with
      | some p =>
        match p.st with
        | .running phase => if r.op = q.id then s.phaseEnd f q p phase errs chk tally sat else s
        | _ => s
      | none => s
    | _, _ => s)

/-! ### Bench 3 (R120, R121, R126, R127, R149) -/

/-- Passes of a block that wait for bench 3 (taken = false), or are in it. -/
def MvmRun.waiting (r : MvmRun) (i : Nat) (taken : Bool) : List Pass :=
  r.passes.filter (fun p => decide (p.block = i ∧ p.st = .bench3 taken))

/-- Bench-3 work holds the fine engine, or waits for it (R121). -/
def MvmRun.holdsFine (r : MvmRun) : Bool := r.passes.any (fun p => decide (p.st = .bench3 true))
def MvmRun.wantsFine (r : MvmRun) : Bool := r.passes.any (fun p => match p.st with
  | .bench3 _ => true
  | _ => false)

/-- BENCH3_START (R121, R136, R148, R149): the bench-3 work of block i takes the fine engine; of several blocks the lowest goes first, and one runs
at a time.  A FINE in progress is pre-empted until no bench-3 work is left. -/
def execBench3Start (f i : Nat) (s : State) : Host.Outcome State Fault Refusal :=
  ok (match (s.face f).mvmOp, (s.face f).mvm with
    | some q, some r =>
      let ps := r.waiting i false
      if ps = [] then s
      else if s.engOn f = false then
        ps.foldl (fun t p => (t.raise { det := .bench3NoEngine, unit := s.unitBlock f (q.tile.block0 + i)
                                        d0 := BitVec.ofNat 64 (f + q.tile.w * 2 ^ 16 + p.vector * 2 ^ 32), lface := f, opcode := 0x2000 }).unresolved f q p) s
      else if r.holdsFine = true ∨ r.passes.any (fun p => decide (p.block < i ∧ p.st = .bench3 false)) = true then s
      else
        let fine := (s.face f).started.any (fun o => decide (o.eng = .fine))
        let t := if fine && !r.preempted then s.bump R.FIN_OP_STAT.PREEMPT f else s
        ps.foldl (fun u p => u.putPass f { p with st := .bench3 true })
          (t.modFace f (fun x => { x with mvm := x.mvm.map (fun (m : MvmRun) => { m with preempted := m.preempted || fine }) }))
    | _, _ => s)

/-- The pre-empted FINE resumes once no bench-3 work is left (R148). -/
def State.fineResume (s : State) (f : Nat) : State :=
  s.modFace f (fun x => { x with mvm := x.mvm.map (fun (m : MvmRun) => { m with preempted := m.preempted && m.wantsFine }) })

/-- Exact product of an array's used rows with a vector (R120), by column. -/
def State.exactCol (s : State) (f b a : Nat) (fmt : Nat) (applied : List Nat) (lo n c : Nat) : Int :=
  let x := s.arr f b a
  (((applied.zip (List.range applied.length)).drop lo).take n).foldl (fun acc e => acc + (e.1 : Int) * readWeight fmt (x.pair e.2 c)) 0

/-- A whole block's bench-3 product of a pass, added to its exact contributions. -/
def State.bench3Sums (s : State) (f : Nat) (t : Tile) (p : Pass) : SMap Int × Option Nat :=
  loop (t.k * t.n) (p.exact, none) (fun m e =>
    let k := e / t.n
    let n := e % t.n
    if p.uniform.getD k false then m
    else loop (t.cols n) m (fun m2 c =>
      wideAdd m2 (n * 256 + c) (s.exactCol f (t.block0 + p.block) (t.arr p.block k n) t.fmt (p.applied.getD k []) 0 512 c)))

/-- Largest difference of an array's partials from the exact ones (R127 step 4). -/
def State.worstPartial (s : State) (f : Nat) (t : Tile) (p : Pass) (kn : Nat × Nat) (m : SMap Int) : Int :=
  let a := t.arr p.block kn.1 kn.2
  loop (benchPhases p.bench / benchPieces p.bench) 0 (fun w g => loop (t.cols kn.2) w (fun w2 c =>
    let d := mget 0 m (g * 256 + c) - s.exactCol f (t.block0 + p.block) a t.fmt (p.applied.getD kn.1 []) (g * benchRows p.bench) (benchRows p.bench) c
    if d.natAbs > w2.natAbs then d else w2))

/-- The duplicate decision (R127): the checked array's partials give way to the exact product, and each array whose partial is off is named. -/
def State.decideDup (s : State) (f : Nat) (q : QOp) (p : Pass) (e : Nat) : State :=
  let t := q.tile
  let kn := (e / 64, e % 64)
  let b := t.block0 + p.block
  let a := t.arr p.block kn.1 kn.2
  let groups := benchPhases p.bench / benchPieces p.bench
  let col (c : Nat) : Int := loop groups 0 (fun w g => w + mget 0 p.chkA (g * 256 + c))
  let p1 : Pass := loop (t.cols kn.2) { p with st := .done, mismatch := none } (fun o c =>
    let j := kn.2 * 256 + c
    { o with analogue := mset 0 o.analogue j (mget 0 o.analogue j - col c)
             exact := mset 0 o.exact j (mget 0 o.exact j + s.exactCol f b a t.fmt (p.applied.getD kn.1 []) 0 512 c) })
  let name (u : State) (arr : Nat) (m : SMap Int) : State :=
    let w := s.worstPartial f t p kn m
    if w.natAbs > partialBound t.fmt p.bench then
      u.raise { det := .dupMismatch, unit := s.unitArray f b arr, d0 := BitVec.ofNat 64 p.bench, d1 := BitVec.ofInt 64 w, lface := f, opcode := 0x2000 }
    else u
  (name (name (s.putPass f p1) a p.chkA) (s.rd R.BLK_SPARE.CHECK (ixB f b)) p.chkB).bump R.FIN_OP_STAT.BENCH3 f

/-- BENCH3_DONE (R120, R121, R126): the bench-3 run of block i ends; `bad`: arrays whose readback failed, with the syndrome; `sat`: a column whose
wide accumulator saturated, which only a hardware fault makes (R114). -/
def execBench3Done (f i : Nat) (bad : List (Nat × Nat)) (sat : Option Nat) (s : State) : Host.Outcome State Fault Refusal :=
  ok (match (s.face f).mvmOp, (s.face f).mvm with
    | some q, some r =>
      let t := q.tile
      ((r.waiting i true).foldl (fun u0 p =>
        let mine := (List.range (t.k * t.n)).map (fun e => t.arr i (e / t.n) (e % t.n))
        -- an armed slot fails the readback of its array, with a syndrome nobody names (R559)
        let inj := mine.filter (fun a => (u0.injSlot .bench3Fault (s.unitArray f (t.block0 + i) a)).isSome)
        let dr := u0.draw
        let hit := bad.filter (fun e => mine.contains e.1 && !inj.contains e.1) ++ inj.map (fun a => (a, dr.1))
        let u := if inj = [] then u0 else dr.2
        if hit ≠ [] then
          (hit.foldl (fun v e => v.raise { det := .bench3Fault, unit := s.unitArray f (t.block0 + i) e.1
                                           d0 := BitVec.ofNat 64 e.2, lface := f, opcode := 0x2000 }) u).unresolved f q p
        else match p.mismatch with
        | some e =>
          match sat with
          | some c => (u.wideSat f (t.block0 + i) c).unresolved f q p
          | none => u.decideDup f q p e
        | none =>
          let ex := s.bench3Sums f t p
          match sat, ex.2 with
          | none, none =>
            (u.putPass f { p with st := .done, exact := ex.1 }).bumpBy R.FIN_OP_STAT.BENCH3 f ((p.uniform.filter (fun b => !b)).length * t.n)
          | some c, _ | none, some c => (u.wideSat f (t.block0 + i) c).unresolved f q p) s).fineResume f
    | _, _ => s)

/-! ### The output path (R115 to R118, R289, R290) -/

/-- Column sums of the whole tile (R116). -/
def State.tileSum (s : State) (f : Nat) (t : Tile) (j : Nat) : Int :=
  loop ((t.blocks + 1) * t.k) 0 (fun a e =>
    a + mget 0 (s.arr f (t.block0 + e / t.k) (t.arr (e / t.k) (e % t.k) (j / 256))).sums (j % 256))

/-- R117 on one column: output code, and 1 where BF16 saturated, 2 where INT8 was clamped.  An INT8 output whose product is NaN (an infinite factor
and a sum of 0) is written as 0 and counts no clamp, and a sum of product and bias that is exactly zero is +0 whatever the signs; the spec states
neither (DESIGN CHOICE, log entry 73). -/
def outPath (int8 : Bool) (a : Int) (sc xv : FV) (bias : Option FV) (r : FV) : Nat × Nat :=
  let f0 := rne32 (FV.mul (rne32 (FV.int a)) (FV.mul sc xv))
  let f1 := match bias with
    | some b => rne32 (FV.add f0 b)
    | none => f0
  if int8 then
    let y := toInt8 (rne32 (FV.mul f1 r))
    (y.1, if y.2 = .sat then 2 else 0)
  else
    match f1 with
    | .inf n => (if n then 0xFF7F else 0x7F7F, 1)
    | v => let y := toBf16 v; (y.1, if y.2 = .sat then 1 else 0)

/-- Output row of vector v. -/
def State.mvmRow (s : State) (f : Nat) (q : QOp) (r : MvmRun) (v : Nat) : State :=
  let t := q.tile
  let x := s.face f
  let a := q.recAt t v
  let z := (x.padNum a 1).1
  let xv := ofBf16 (x.padNum (a + 2) 2).1
  let int8 := decide (q.f0 20 1 = 1)
  let ps := r.passes.filter (fun p => decide (p.vector = v))
  let w := s.wcopy f t.w t.copy
  let poison := ps.any (fun p => p.poisoned || decide (p.st = .unresolved))
  -- the block carry adds each block's accumulator, exact and analogue parts, in 32 bits (R114)
  let carry := (List.range t.outCols).foldl (fun m j => ps.foldl (fun (a : SMap Int × Option Nat) p =>
    wideAdd (wideAdd a j (mget 0 p.exact j)) j (mget 0 p.analogue j)) m) (([], none) : SMap Int × Option Nat)
  let sumOf (j : Nat) : Int := mget 0 carry.1 j
  let cols := (List.range t.outCols).map (fun j =>
    if xv.isFin then
      outPath int8 (sumOf j - (z : Int) * s.tileSum f t j) (ofBf16 (mget 0 w.scale j)) xv
        (if w.hasBias then some (ofBf16 (mget 0 w.bias j)) else none) (ofBf16 (fget q.w1 33 16))
    else (if int8 then 0 else 0x7FC0, 0))
  let s1 := s.putBytes f (q.outAt t v) (cols.flatMap (fun c => (leBytes c.1 (if int8 then 1 else 2)).map (fun b => (b, poison))))
  let s2 := (s1.bumpBy R.ARF_OUT_STAT.BF16_SAT f (cols.filter (fun c => decide (c.2 = 1))).length).bumpBy R.ARF_OUT_STAT.INT8_SAT f
    (cols.filter (fun c => decide (c.2 = 2))).length
  let s3 := match carry.2 with
    | none => s2
    | some c =>
      let u := s2.wideSat f (t.block0 + t.blocks) c
      if q.discard then u else ({ u with hand := { u.hand with tileTrouble := true } }).modFace f (fun y => { y with failed := true })
  if xv.isFin then s3 else s3.bump R.ARF_OUT_STAT.BAD_SCALE f

/-- Every pass of the MVM has finished (R290). -/
def MvmRun.finished (r : MvmRun) (q : QOp) : Bool :=
  (List.range (q.tile.blocks + 1)).all (fun i => (List.range (fget q.w1 20 13)).all (fun v =>
    match r.pass i v with
    | some p => decide (p.st = .done ∨ p.st = .unresolved)
    | none => false))

/-- All rows of an MVM. -/
def State.mvmDone (s : State) (f : Nat) (q : QOp) : State :=
  match (s.face f).mvm with
  | some r => loop (fget q.w1 20 13) s (fun t v => t.mvmRow f q r v)
  | none => s

/-! ### APROG and AREAD (R294 to R299) -/

/-- An array record in scratchpad (R295): codes by row × 256 + column, sums, limit words, expected digest, the CRC of its code bytes. -/
def Face.recordAt (x : Face) (a : Nat) : (Nat → Nat) × SMap Int × Word × Word × Word × Word :=
  let m (i : Nat) : Nat := (x.padNum (a + 33280 + 2 * i) 2).1
  ((fun e => (x.padByte (a + e / 4)).1 / 4 ^ (e % 4) % 4),
   loop 256 [] (fun s c =>
     let v := (x.padNum (a + 32768 + 2 * c) 2).1
     mset 0 s c (if v < 32768 then (v : Int) else (v : Int) - 65536)),
   BitVec.ofNat 64 (m 0 % 8192 + m 1 % 4096 * 2 ^ 16 + m 2 % 4096 * 2 ^ 32),
   BitVec.ofNat 64 (m 3 % 512 + m 4 % 512 * 2 ^ 16 + m 5 % 512 * 2 ^ 32 + m 6 % 512 * 2 ^ 48),
   BitVec.ofNat 64 (x.padNum (a + 33296) 8).1,
   BitVec.ofNat 64 (crc64 ((List.range 32768).map (fun e => (x.padByte (a + e)).1))))

/-- The slot holds a record of a digest, or is being written with one, on whatever array that write has moved to (R296, R297). -/
def State.holdsRecord (s : State) (f b slot a : Nat) (d : Word) : Bool :=
  (decide ((s.arr f b a).expected = d) && decide (s.aState f b a = 1 ∨ s.aState f b a = 4)) ||
  s.writes.any (fun j => decide (j.face = f ∧ j.block = b ∧ j.slot = slot ∧ j.digest = d ∧ j.kind ≠ 4)) ||
  s.acts.any (fun x => match x with
    | .switch g c sl new _ _ => decide (g = f ∧ c = b ∧ sl = slot ∧ (s.arr f b new).expected = d)
    | .respare j => decide (j.face = f ∧ j.block = b ∧ j.slot = slot ∧ j.digest = d)
    | _ => false)

/-- An array that the programmer does not write (R108, R109): one of a live copy, the check array, one whose copy is in progress or that has been
retired. -/
def State.mayNotWrite (s : State) (f b slot a : Nat) : Bool :=
  s.slotLive f b slot || decide (s.aState f b a ≥ 4) ||
  decide (s.rd R.BLK_SPARE.CHECK (ixB f b) = a ∧ s.rd R.BLK_SPARE.CHECK_VALID (ixB f b) = 1)

/-- Status of an APROG (R296), with the position for BAD_CODE; 0 accepted, and the job it makes.  R296 names no status for an array that R108
forbids to write; BUSY is answered, after the other statuses (DESIGN CHOICE, log entry 73). -/
def State.aprogStatus (s : State) (f : Nat) (q : QOp) : Nat × Nat × Option WJob :=
  let w := fget q.w1 0 12
  let c := fget q.w1 12 1
  let idx := fget q.w1 13 12
  let bs := s.copySlot f w c idx
  let r := (s.face f).recordAt (rngBase q.al)
  let fmt := s.ws R.ARF_WSMAP_LO.FORMAT f w
  let rows := s.usedRows f w idx
  let cols := s.usedCols f w idx
  match s.slotPhys f bs.1 bs.2 with
  | none => (1, 0, none)
  | some a =>
    if s.holdsRecord f bs.1 bs.2 a r.2.2.2.2.1 then (2, 0, none)
    else match badPosition fmt rows cols r.1 with
    | some e => (3, e, none)
    | none =>
      if r.2.2.2.2.1 ≠ r.2.2.2.2.2 then (4, 0, none)
      else if s.worn f bs.1 a then (5, 0, none)
      else if s.slotsHeld ≥ s.writeSlots ∨ s.blockBusy f bs.1 = true ∨ s.progOk = false ∨ s.mayNotWrite f bs.1 bs.2 a = true then (1, 0, none)
      else (0, 0, some { face := f, block := bs.1, arr := a, prio := 3, kind := 0, slot := bs.2, w := w, copy := c, idx := idx
                         cells := pairsOf fmt rows cols r.1, sums := r.2.1, massA := r.2.2.1, massB := r.2.2.2.1, digest := r.2.2.2.2.1 })

/-- APROG completes: the status line, and with ACCEPTED the write-verify starts (R296, R297). -/
def State.aprogDone (s : State) (f : Nat) (q : QOp) : State :=
  let r := s.aprogStatus f q
  let line := [r.1, 0] ++ leBytes (r.2.1 / 256) 2 ++ leBytes (r.2.1 % 256) 2 ++ List.replicate 122 0
  let s1 := (s.padTouchRange f (rngBase q.al) (rngLen q.al)).putBytes f (rngBase q.ar) (line.map (fun b => (b, false)))
  let s2 := match r.2.2 with
    | some j => s1.queueWrite j
    | none => s1
  s2.bump (if r.1 = 0 then R.ARF_PROG_STAT.ACCEPTED else if r.1 = 1 then R.ARF_PROG_STAT.BUSY
    else if r.1 = 2 then R.ARF_PROG_STAT.PRESENT else R.ARF_PROG_STAT.REFUSED) f

/-- AREAD completes (R298): the codes unless DIG, and the digest line. -/
def State.areadDone (s : State) (f : Nat) (q : QOp) : State :=
  let w := fget q.w1 0 12
  let c := fget q.w1 12 1
  let idx := fget q.w1 13 12
  let b := q.sc.toNat / 256
  let r := (s.arr f b (q.sc.toNat % 256)).codes (fw q.mapLo R.ARF_WSMAP_LO.FORMAT) (s.usedRows f w idx) (s.usedCols f w idx)
  let crc := crc64 r.1
  let held := (mget 0#64 (s.wcopy f w c).digest idx).toNat
  let line := leBytes crc 8 ++ leBytes held 8 ++ [if crc = held ∧ r.2 = 0 then 1 else 0, 0, 0, 0] ++ leBytes r.2 4 ++ List.replicate 104 0
  s.putBytes f (rngBase q.al) (((if q.f0 22 1 = 1 then [] else r.1) ++ line).map (fun v => (v, false)))

/-- An operation of the array field completes. -/
def State.arrayDone (s : State) (f : Nat) (q : QOp) : State :=
  if q.op = 0 then s.mvmDone f q else if q.op = 16 then s.aprogDone f q else s.areadDone f q

end Sys2Proof.Machine
end

