-- ==== Sys2Proof/Machine/Calibration.lean ====
section
/-! DEFINITION. Calibration, monitors and tours (19_calibration_and_monitoring.md R518 to R535), the end of a write-verify (12_weights.md
R345), pins (04_precision_ladder.md R129 to R131), and the temperatures that calibration reads (21_power_thermal_housekeeping.md R574 to
R578). -/
namespace Sys2Proof.Machine

/-! ### Temperatures, in 1/8 °C -/

/-- A field read as two's complement. -/
def signedOf (v w : Nat) : Int := if v < 2 ^ (w - 1) then (v : Int) else (v : Int) - 2 ^ w

/-- Last reading of sensor channel c; one that is not ignored and holds a calibrated result is plausible. -/
def State.sensorTemp (s : State) (c : Nat) : Int := signedOf (s.rd R.THM_SENSOR.TEMP c) 12
def State.plausible (s : State) (c : Nat) : Bool := decide (s.rd R.THM_SENSOR.VALID c = 1 ∧ s.rd R.THM_SENSOR.IGNORED c = 0)

/-- Mean of some readings. -/
def meanOf (xs : List Int) : Option Int := if xs = [] then none else some (xs.foldl (· + ·) 0 / (xs.length : Int))

/-- Plausible neighbours of sensor r of physical face p. -/
def State.neighbours (s : State) (p r : Nat) : List Int :=
  ((if r = 0 then [] else [r - 1]) ++ (if r = 7 then [] else [r + 1])).filterMap (fun k =>
    if s.plausible (8 * p + k) then some (s.sensorTemp (8 * p + k)) else none)

/-- Reading of sensor r of face p, or its neighbours' mean where it is ignored (R519, R578). -/
def State.rowTemp (s : State) (p r : Nat) : Option Int :=
  if s.plausible (8 * p + r) then some (s.sensorTemp (8 * p + r)) else meanOf (s.neighbours p r)

/-- Highest of some readings. -/
def highest (xs : List (Option Int)) : Option Int :=
  xs.foldl (fun a x => match a, x with
    | none, y => y
    | some v, none => some v
    | some v, some w => some (max v w)) none

/-- Face temperature (R574); none: the face is blind. -/
def State.faceTemp (s : State) (p : Nat) : Option Int := highest ((List.range 8).map (s.rowTemp p))

/-- Temperature of block b of face f (R519). -/
def State.blockTemp (s : State) (f b : Nat) : Option Int :=
  match s.rowTemp (s.phys f) (b / 8) with
  | some t => some t
  | none => s.faceTemp (s.phys f)

/-- Good physical faces. -/
def State.goodFaces (s : State) : List Nat := (List.range s.nFaces).map s.phys

/-- Temperature of a stack: its sensor, or its stand-in (R578). -/
def State.stackTemp (s : State) (p : Nat) : Option Int :=
  if s.plausible (64 + p) then some (s.sensorTemp (64 + p))
  else if s.goodFaces.contains p then (s.faceTemp p).map (· + 40)
  else (highest ((List.range 64).map (fun c => if s.plausible c then some (s.sensorTemp c) else none))).map (· + 40)

/-- STALE follows the temperature and the last PASS (R525). -/
def State.noteStale (s : State) (f b : Nat) : State :=
  let x := s.cal f b
  let far := match s.blockTemp f b with
    | some t => decide ((t - x.tcal).natAbs > 32)
    | none => false
  s.wrB R.CAL_BLK_STATE.STALE (ixB f b) (!x.fresh || far)

/-! ### Requests and gathering (R518, R520) -/

/-- A lane calibration of an ACTIVE port is in progress (R526). -/
def State.laneCalStart (s : State) (p : Nat) : State :=
  if p < 6 ∧ s.portPresent p = true ∧ s.rd R.LNK_PORT_STATE.STATE p = 4 then s.wr R.CAL_LANE_STATE.PENDING p 1 else s

/-- CAL_REQ (R518): a write of the register with REQ set. -/
def execCalReq (f b : Nat) (all : Bool) (port : Nat) (lanes : Bool) (s : State) : Host.Outcome State Fault Refusal :=
  let t := ((((s.wr R.CAL_REQ.FACE 0 (f % 8)).wr R.CAL_REQ.BLOCK 0 (b % 64)).wrB R.CAL_REQ.ALL 0 all).wr R.CAL_REQ.PORT 0 (port % 8)).wrB
    R.CAL_REQ.LANES 0 lanes
  ok (if lanes then t.laneCalStart (port % 8)
      else if all then loop t.nFaces t (fun u g => loop 64 u (fun v k => v.calRequest g k 6))
      else if f < t.nFaces then t.calRequest f (b % 64) 6 else t)

/-- CAL_AGE (R518, R526): MAX_AGE seconds have gone by since the last PASS of block b of face f, or, with `port`, since that of a port's lanes. -/
def execCalAge (f b : Nat) (port : Option Nat) (s : State) : Host.Outcome State Fault Refusal :=
  ok (match port with
    | some p => s.laneCalStart p
    | none =>
      match (s.cal f b).passAt with
      | some t => (s.advance (t + s.rd R.CAL_CFG.MAX_AGE 0 * 1000000000)).calRequest f b 5
      | none => s)

/-- CAL_RETRY (R518): RETRY seconds after a FAIL. -/
def execCalRetry (f b : Nat) (s : State) : Host.Outcome State Fault Refusal :=
  ok (match (s.cal f b).retryAt with
    | some t => ((s.advance t).modCal f b (fun x => { x with retryAt := none })).calRequest f b 4
    | none => s)

/-- Active converters of a block that have each delivered 2^GATHER codes. -/
def State.fullConverters (s : State) (f b : Nat) : Nat :=
  ((s.cal f b).hists.filter (fun e => decide (Hist.total e.2 ≥ 2 ^ s.rd R.CAL_CFG.GATHER 0) &&
    (decide (e.1 % 16 < 8) || s.flag R.BLK_ARRAY_STATE.CONV_SPARED (ixA f b (e.1 / 16))))).length

/-- GATHER_CLOSE (R520): the window closes, and the fit of what it gathered begins. -/
def execGatherClose (f b : Nat) (s : State) : Host.Outcome State Fault Refusal :=
  ok (if (s.cal f b).gather.isSome ∧ s.fullConverters f b ≥ 32 then
      s.modCal f b (fun x => { x with gather := none, fitting := some ((s.blockTemp f b).getD 0) })
    else s)

/-- GATHER_TIMEOUT (R520): MAX_WAIT seconds without the window closing; the block keeps its request. -/
def execGatherTimeout (f b : Nat) (s : State) : Host.Outcome State Fault Refusal :=
  ok (match (s.cal f b).gather with
    | none => s
    | some t0 =>
      if s.fullConverters f b ≥ 32 then s
      else
        let t := (s.advance (t0 + s.rd R.CAL_CFG.MAX_WAIT 0 * 1000000000)).modCal f b (fun x => { x with gather := none, hists := [], normal := [], idle := true })
        ((t.wr R.CAL_BLK_STATE.RESULT (ixB f b) 3).bump R.CAL_STAT.IDLES 0).calPick f)

/-! ### Fits (R521 to R525) -/

/-- Flags and estimates of every array of a block restart (R531). -/
def State.restartMons (s : State) (f b : Nat) : State :=
  ({ s with monitors := mdrop (fun k => decide (k / 4 / 72 = ixB f b)) s.monitors }).noteFlags f b

/-- The trims of a PASS apply (R524). -/
def State.calApply (s : State) (f b : Nat) : State :=
  match (s.cal f b).ready with
  | none => s
  | some t =>
    let u := s.modCal f b (fun x => { x with ready := none, trims := x.next, tcal := t, passAt := some s.now, fresh := true })
    ((u.wr R.CAL_BLK_STATE.T_CAL (ixB f b) ((t / 8) % 256).toNat).restartMons f b).noteStale f b

/-- Step C5: every block whose trims are ready. -/
def State.commitCal (s : State) : State :=
  s.cals.foldl (fun t e => t.calApply (e.1 / 64) (e.1 % 64)) s

/-- The lanes of a port have been calibrated (R526, R527): the opening of each, in mV. -/
def State.laneCalDone (s : State) (p : Nat) (open_ : List (Nat × Nat)) : State :=
  if s.rd R.CAL_LANE_STATE.PENDING p = 0 then s
  else
    let lim := s.rd R.CAL_LANE_CFG.EYE_MIN 0
    open_.foldl (fun t e =>
      let good := decide (e.2 ≥ lim) && (t.injSlot .laneCal (unitId 11 p 0 0 e.1)).isNone
      let u := (t.wr R.CAL_LANE_STATE.PASS p (setBit (t.rd R.CAL_LANE_STATE.PASS p) e.1 good)).wr R.CAL_LANE_STATE.FAIL p
        (setBit (t.rd R.CAL_LANE_STATE.FAIL p) e.1 (!good))
      if good then u else u.raise { det := .laneCal, unit := unitId 11 p 0 0 e.1, d0 := BitVec.ofNat 64 e.2 })
      (s.wr R.CAL_LANE_STATE.PENDING p 0)

/-- The fits of a block's converters, and those that fail (array × 16 + converter, distance in 1/1,024) (R521). -/
def State.blockFits (s : State) (f b : Nat) : List (Nat × ConvTrim × Bool × Nat) :=
  (s.cal f b).fits (s.rd R.CAL_CFG.GATHER 0) (s.rd R.CAL_CFG.KS_LIMIT 0)
def State.failedConvs (s : State) (f b : Nat) : List (Nat × Nat) :=
  ((s.blockFits f b).filter (fun e => !e.2.2.1)).map (fun e => (e.1, e.2.2.2))

/-- CAL_FIT_DONE (R521 to R523, R527): the fitter of face f ends with block b; or, with `port`, a port's lane calibration ends with the openings of
its lanes. -/
def execCalFitDone (f b : Nat) (port : Option (Nat × List (Nat × Nat))) (s : State) : Host.Outcome State Fault Refusal :=
  ok (match port with
    | some p => s.laneCalDone p.1 p.2
    | none =>
      match (s.cal f b).fitting with
      | none => s
      | some tc =>
        let i := ixB f b
        -- armed slots fail the fits of the block's converters, and its levels (R559)
        let fits := s.blockFits f b
        let convs0 := s.failedConvs f b
        let wl := levelTrims (s.cal f b).normal
        let extra := (List.range 72).flatMap (fun a => (List.range 9).filterMap (fun v =>
          if (s.injSlot .calFailConv (unitId 3 (s.phys f) b a v)).isSome && !convs0.any (fun c => decide (c.1 = a * 16 + v)) then some (a * 16 + v, s.draw.1)
          else none))
        let lev := (s.injSlot .calFailLevel (s.unitBlock f b)).isSome
        let convs := convs0 ++ extra
        let levels := if lev ∧ wl.2 = 0 then s.draw.1 % 15 + 1 else wl.2
        let s := if extra = [] ∧ lev = false then s else s.draw.2
        let pass := decide (convs = [] ∧ levels = 0)
        let s1 := s.modCal f b (fun x => { x with req := none, fitting := none, hists := [], normal := [], count := x.count + 1
                                                  failed := x.failed.filter (fun j => !fits.any (fun e => decide (e.1 = j))) ++ convs.map Prod.fst
                                                  next := if pass then ⟨fits.foldl (fun m e => mset {} m e.1 e.2.1) x.trims.conv, wl.1⟩ else x.next
                                                  ready := if pass then some tc else x.ready
                                                  retryAt := if pass then none else some (s.now + s.rd R.CAL_CFG.RETRY 0 * 1000000000) })
        let s2 := ((s1.wr R.CAL_BLK_STATE.PENDING i 0).wr R.CAL_BLK_STATE.TRIGGER i 0).wr R.CAL_BLK_STATE.RESULT i (if pass then 1 else 2)
        let s3 := s2.bump (if pass then R.CAL_STAT.PASSES else R.CAL_STAT.FAILS) 0
        let s4 := convs.foldl (fun t c => t.raise
          { det := .calFailConv, unit := unitId 3 (s.phys f) b (c.1 / 16) (c.1 % 16), d0 := BitVec.ofNat 64 c.2 }) s3
        let s5 := if levels = 0 then s4 else s4.raise { det := .calFailLevel, unit := s.unitBlock f b, d0 := BitVec.ofNat 64 levels }
        let s6 := if pass ∧ s.ticking = false then s5.calApply f b else s5
        s6.calPick f)

/-! ### Monitor windows (R530, R531, R555) -/

/-- Used rows and columns of a mapped array. -/
def State.usedOf (s : State) (f b a : Nat) : Option (Nat × Nat) :=
  match s.slotOf f b a with
  | none => none
  | some slot => (s.slotOwner f b slot).map (fun o => (s.usedRows f o.1 o.2.2, s.usedCols f o.1 o.2.2))

/-- Insertion into a rising list. -/
def insertRat (v : Rat) : List Rat → List Rat
  | [] => [v]
  | a :: as => if v ≤ a then v :: a :: as else a :: insertRat v as

/-- The median: the mean of the two in the middle, where there are two. -/
def median (xs : List Rat) : Rat :=
  let ys := xs.foldl (fun acc v => insertRat v acc) []
  let n := ys.length
  if n % 2 = 1 then ys.getD (n / 2) 0 else (ys.getD (n / 2 - 1) 0 + ys.getD (n / 2) 0) / 2

/-- Sum of the squares of a column's weights, and its expected sum. -/
def ArrMem.colE (x : ArrMem) (rows c : Nat) : Int := loop rows 0 (fun a r => a + pairWeight (x.pair r c) * pairWeight (x.pair r c))
def ArrMem.colX (x : ArrMem) (k : SMap Nat) (c : Nat) : Int := k.foldl (fun a e => a + (e.2 : Int) * pairWeight (x.pair e.1 c)) 0

/-- Columns that a window finds outside R530, with the residual sum and v / E in units of 2^-64 codes². -/
def Mon.tested (m : Mon) (x : ArrMem) (rows cols lsb ratio : Nat) : List (Nat × Int × Int) :=
  let q := (List.range cols).filterMap (fun c =>
    let e := x.colE rows c
    if e = 0 then none else some (c, ((mget {} m.cols c).v : Rat) / e))
  let p := median (q.map Prod.snd)
  q.filterMap (fun e =>
    let r := mget 0 m.sums e.1 - x.colX m.krow e.1
    if 2 * r.natAbs > lsb * 32768 ∨ e.2 * ratio < p ∨ e.2 > p * ratio then some (e.1, r, (e.2 * 2 ^ 24).floor) else none)

/-- MONITOR_WINDOW_CLOSE (R530): the monitors of array a at a bench close a window of 32,768 conversions; `late`: its expected sums are not
complete in time. -/
def execMonitorWindowClose (f b a bench : Nat) (late : Bool) (s : State) : Host.Outcome State Fault Refusal :=
  let key := ixA f b a * 4 + bench
  let m := mget {} s.monitors key
  ok (if m.conv < 32768 then s
    else
      let restart (t : State) (flags : List Nat) : State :=
        { t with monitors := mset {} t.monitors key
                  { m with conv := 0, krow := [], sums := []
                           cols := flags.foldl (fun cs c => mset {} cs c { mget {} cs c with flag := true }) m.cols } }
      if late then (restart s []).bump R.CAL_STAT.DISCARDED 0
      else match s.usedOf f b a with
      | none => restart s []
      | some rc =>
        let bad := m.tested (s.arr f b a) rc.1 rc.2 (if bench = 0 then 16 else if bench = 1 then 8 else 2) (s.rd R.CAL_MON_CFG.VAR_RATIO 0)
        let t := (restart s (bad.map Prod.fst)).noteFlags f b
        if bad = [] then t
        else
          let swapped := s.flag R.BLK_ARRAY_STATE.CONV_SPARED (ixA f b a)
          let u := (List.range 8).foldl (fun v g =>
            match bad.filter (fun e => decide (e.1 / 32 = g)) with
            | [] => v
            | e :: rest =>
              let conv := if swapped ∧ s.rd R.BLK_ARRAY_STATE.CONV_REPLACED (ixA f b a) = g then 8 else g
              v.raise { det := .columnFlag
                        unit := if rest = [] then unitId 5 (s.phys f) b a ((s.arr f b a).posAt e.1) else unitId 3 (s.phys f) b a conv
                        d0 := BitVec.ofNat 64 bench ||| (BitVec.ofInt 64 (e.2.1 / 32768) <<< 32), d1 := BitVec.ofInt 64 e.2.2 }) t
          u.calRequest f b 2)

/-! ### Tours (R533 to R535) -/

/-- The check role passes to a free spare that is not worn, or nobody has it (R534, R535). -/
def State.newCheck (s : State) (f b : Nat) : State :=
  let i := ixB f b
  match s.freeSpare f b with
  | some d => ((s.setAState f b d 2).wr R.BLK_SPARE.CHECK i d).wr R.BLK_SPARE.CHECK_VALID i 1
  | none => s.wr R.BLK_SPARE.CHECK_VALID i 0

/-- Before step 1: a check array that is not worn, if there is one. -/
def State.soundCheck (s : State) (f b : Nat) : State :=
  let i := ixB f b
  let c := s.rd R.BLK_SPARE.CHECK i
  if s.rd R.BLK_SPARE.CHECK_VALID i = 0 then s.newCheck f b
  else if s.worn f b c then (s.setAState f b c 0).newCheck f b else s

/-- The tour's next slot at or after `lo`: the first mapped slot of a live copy; none: the tour of the block ends. -/
def State.tourNext (s : State) (f b lo : Nat) (again : Bool) : State :=
  let i := ixB f b
  let stop (t : State) : State :=
    { (((t.wr R.CAL_BLK_STATE.TOURING i 0).wr R.BLK_SPARE.UNDER_VALID i 0)) with tours := mset {} t.tours i {} }
  match (List.range 64).find? (fun sl => decide (lo ≤ sl) && s.slotLive f b sl && (s.slotPhys f b sl).isSome) with
  | none => stop s
  | some slot =>
    let t := s.soundCheck f b
    if t.rd R.BLK_SPARE.CHECK_VALID i = 0 then stop t
    else match t.slotPhys f b slot with
    | none => stop t
    | some a =>
      let u : State := { t with tours := mset {} t.tours i { step := 1, slot := slot, again := again } }
      ((u.wr R.CAL_BLK_STATE.TOURING i 1).wr R.CAL_BLK_STATE.TOUR_SLOT i slot).queueWrite
        (u.copyJob f b a (u.rd R.BLK_SPARE.CHECK i) 2 4 slot)

/-- TOUR_START (R534): PERIOD hours after the start of the tour before. -/
def execTourStart (s : State) : Host.Outcome State Fault Refusal :=
  ok (if s.rd R.CAL_DUP_CFG.TOUR_EN 0 = 0 then s
    else
      let t := s.advance (s.tourAt + s.rd R.CAL_DUP_CFG.PERIOD 0 * 3600000000000)
      loop t.nFaces { t with tourAt := t.now } (fun u f => loop 64 u (fun v b =>
        if v.rd R.CAL_BLK_STATE.TOURING (ixB f b) = 1 then v else v.tourNext f b 0 false)))

/-- The check array's fit applies at the boundary after it (R533): comparisons begin. -/
def State.fitApply (s : State) (f b : Nat) : State :=
  let i := ixB f b
  let x := mget {} s.tours i
  if x.step = 3 then { s with tours := mset {} s.tours i { x with fitted := true } } else s

/-- DWELL_FIT (R533): after 1,024 sampled passes the check array's converters are fitted; `bad`: the converter whose fit fails. -/
def execDwellFit (f b : Nat) (bad : Option Nat) (s : State) : Host.Outcome State Fault Refusal :=
  let i := ixB f b
  let x := mget {} s.tours i
  ok (if x.step ≠ 3 ∨ x.fitted = true ∨ x.sampled < 1024 then s
    else match (if (s.injSlot .dwellFit (s.unitArray f b (s.rd R.BLK_SPARE.CHECK i))).isSome then some (bad.getD (s.draw.1 % 9)) else bad) with
    | none => s.schedule (.fit f b) (fun t => t.fitApply f b)
    | some c =>
      (s.raise { det := .dwellFit, unit := s.unitArray f b (s.rd R.BLK_SPARE.CHECK i), d0 := BitVec.ofNat 64 c }).dropCheck f b)

/-- Step 4 of R534, at the boundary: the slot maps to the check array, and the array it leaves takes the check role, unless it is worn. -/
def State.tourSwitch (s : State) (f b slot new old : Nat) : State :=
  let i := ixB f b
  if s.slotPhys f b slot ≠ some old ∨ s.rd R.BLK_SPARE.CHECK i ≠ new ∨ s.rd R.BLK_SPARE.CHECK_VALID i = 0 then s.tourNext f b (slot + 1) false
  else
    let t := (s.switchSlot f b slot new old 4).wr R.BLK_SPARE.UNDER_VALID i 0
    let u := if s.worn f b old then t.newCheck f b else t.wr R.BLK_SPARE.CHECK i old
    u.tourNext f b (slot + 1) false

/-- DWELL_END (R534): the dwell's seconds are over; the switch waits for the boundary. -/
def execDwellEnd (f b : Nat) (s : State) : Host.Outcome State Fault Refusal :=
  let i := ixB f b
  let x := mget {} s.tours i
  ok (if x.step ≠ 3 then s
    else
      let t : State := { s.advance x.until_ with tours := mset {} s.tours i { x with step := 4 } }
      let slot := x.slot
      let new := s.rd R.BLK_SPARE.CHECK i
      let old := s.rd R.BLK_SPARE.UNDER i
      t.schedule (.switch f b slot new old 4) (fun u => u.tourSwitch f b slot new old))

/-! ### The end of a write-verify -/

/-- A tour's write ends (R534 step 2): where the digests differ and the array's own is not its weight set's, it is LOST; else step 1 runs
once more, and then the slot is abandoned. -/
def State.tourWritten (s : State) (j : WJob) (good : Bool) : State :=
  let f := j.face
  let b := j.block
  let i := ixB f b
  let x := mget {} s.tours i
  if s.slotPhys f b j.slot ≠ some j.src then s.tourNext f b j.slot false
  else if good then s.jobGood j
  else
    let o := (s.slotOwner f b j.slot).getD (0, 0, 0)
    let g := s.digestNow f b j.src o.1 o.2.2
    if g.1 ≠ (s.arr f b j.src).expected then
      (g.2.schedule (.lost f b j.src) (fun t => t.lose f b j.src)).tourNext f b (j.slot + 1) false
    else if x.again then s.tourNext f b (j.slot + 1) false
    else s.tourNext f b j.slot true

/-- WRITE_VERIFY_DONE (R345): write-verify of array a ends after repairing the cells (row, column) listed; `ok_`: the array reads back with
the record's digest. -/
def execWriteVerifyDone (f b a : Nat) (ok_ : Bool) (cells : List (Nat × Nat)) (s : State) : Host.Outcome State Fault Refusal :=
  ok (match s.writes.find? (fun j => j.started && decide (j.face = f ∧ j.block = b ∧ j.arr = a)) with
    | none => s
    | some j =>
      let r := (s.wear f b a).repairs f b a cells
      let t : State := { r.1 with writes := r.1.writes.filter (fun (k : WJob) => !k.same j) }
      let u :=
        if j.kind = 4 ∧ r.2 = true then t.tourWritten j ok_
        else if r.2 && !ok_ && !j.again && !r.1.worn f b a then
          { r.1 with writes := r.1.writes.map (fun (k : WJob) => if k.same j then { k with again := true } else k) }
        else if r.2 && ok_ then t.jobGood j else t.jobBad j
      u.grantWrites.buildEnd.discardEnd)

/-! ### Pins (R129 to R131) -/

/-- PIN_EVALUATION (R129, R130): at the end of WINDOW hands face f judges each layer that has run enough passes; a hand that runs is at its
end, and is counted, so that a pin takes effect at its boundary. -/
def execPinEvaluation (f : Nat) (s : State) : Host.Outcome State Fault Refusal :=
  let mine := s.hand.running && !(s.face f).pinCounted
  ok (if (s.face f).pinHands + (if mine then 1 else 0) < s.rd R.ARF_PIN_CTL.WINDOW f then s
    else
      let rate := s.rd R.ARF_PIN_CTL.RATE f
      loop 256 (s.modFace f (fun x => { x with pinHands := 0, pinCounted := s.hand.running })) (fun t l =>
        let i := ix 256 f l
        let p := t.rd R.ARF_LAYER_STAT.PASSES i
        let e := t.rd R.ARF_LAYER_STAT.ESCALATIONS i
        if p < t.rd R.ARF_PIN_CTL.MIN_PASSES f ∨ p = 0 then t
        else
          let u := (t.wr R.ARF_LAYER_STAT.PASSES i 0).wr R.ARF_LAYER_STAT.ESCALATIONS i 0
          if rate = 0 ∨ e * 65536 ≤ rate * p then u
          else
            let now_ := t.pinOf f l
            let rec_ (v : State) (bench : Nat) (capped : Bool) : State :=
              v.raise { det := .pin, unit := s.unitFace f, lface := f
                        d0 := BitVec.ofNat 64 (l + bench * 2 ^ 16 + (if capped then 2 ^ 32 else 0)) }
            if now_ < t.rd R.ARF_PIN_CTL.PIN_MAX f then
              rec_ ((((u.wr R.ARF_PIN_STAT.LAST_LAYER f l).wr R.ARF_PIN_STAT.LAST_BENCH f (now_ + 1)).wr R.ARF_PIN_STAT.VALID f 1).bump
                R.ARF_PIN_STAT.PINS f |>.modFace f (fun x => { x with autoPins := x.autoPins ++ [(l, now_ + 1)] })) (now_ + 1) false
            else rec_ ((((u.wr R.ARF_PIN_STAT.LAST_LAYER f l).wr R.ARF_PIN_STAT.CAPPED f 1)).bump R.ARF_PIN_STAT.CAPS f) now_ true))

/-- Set a layer's pin. -/
def State.setPin (s : State) (f l v : Nat) : State := s.wr (R.ARF_PIN.PIN (l % 32)) (ix 8 f (l / 32)) v

/-- Pins at a boundary: automatic ones, then writes, which clear the layer's counts and prevail (R130, R131). -/
def State.bdyPins (s : State) : State :=
  loop s.nFaces s (fun t f =>
    let x := t.face f
    let a := x.autoPins.foldl (fun u e => u.setPin f e.1 e.2) t
    let b := x.pinWrites.foldl (fun u e =>
      let i := ix 256 f e.1
      ((u.setPin f e.1 e.2).wr R.ARF_LAYER_STAT.PASSES i 0).wr R.ARF_LAYER_STAT.ESCALATIONS i 0) a
    b.modFace f (fun y => { y with autoPins := [], pinWrites := [] }))

end Sys2Proof.Machine
end

