-- ==== Sys2Proof/Machine/Control.lean ====
section
/-! DEFINITION. The control class (0x01), the range class (0x03) and the system class (0x3F) of
09_ifeom_control_and_movement.md, with the waits they make (R261 to R263, R280), END and RTE (R23, R242, R243, R249,
R250), and the expiry of TWAIT. -/
namespace Sys2Proof.Machine

/-- NOP: no effect. -/
def execNop (f : Nat) (w : IWord) (s : State) : Host.Outcome State Fault Refusal :=
  ok (issue s f w ⟨0x01, 0x000, 0, [], [], [], []⟩ (fun t _ => .next t))

/-- A branch to `t`: the illegal-instruction trap with cause 4 at or beyond CODE_END (R260). -/
def branchTo (s : State) (x : Face) (t : Nat) : Done := if t ≥ x.codeEnd then illegal 4 else .jump s t

/-- BR: pc := TARGET. -/
def execBr (f : Nat) (w : IWord) (s : State) : Host.Outcome State Fault Refusal :=
  ok (issue s f w ⟨0x01, 0x001, 0, [(0, 17)], [], [], []⟩ (fun t x => branchTo t x (fTarget w)))

/-- JAL: RD := pc + 1; pc := TARGET. -/
def execJal (f : Nat) (w : IWord) (s : State) : Host.Outcome State Fault Refusal :=
  ok (issue s f w ⟨0x01, 0x002, 0, [(0, 17), (37, 5)], [], [], []⟩ (fun t x =>
    branchTo (t.modFace f (fun y => y.setS (fRD w) (BitVec.ofNat 64 (x.pc + 1)))) x (fTarget w)))

/-- JR: pc := RA; no bit of RA above bit 16 wraps. -/
def execJr (f : Nat) (w : IWord) (s : State) : Host.Outcome State Fault Refusal :=
  ok (issue s f w ⟨0x01, 0x003, 0, [(32, 5)], [], [], []⟩ (fun t x => branchTo t x (x.sreg (fRA w)).toNat))

/-- LSET: l_L := (RA + IMM32) mod 2^32. -/
def execLset (f : Nat) (w : IWord) (s : State) : Host.Outcome State Fault Refusal :=
  ok (issue s f w ⟨0x01, 0x004, 0, [(40, 2), (32, 5), (0, 32)], [], [], []⟩ (fun t x =>
    .next (t.modFace f (fun y => y.setL (fL w) ((x.sreg (fRA w)).toNat + fIMM32 w)))))

/-- LBR (R261): decrement l_L and branch if the result is not zero; at 0 neither.  The target is checked first (R260). -/
def execLbr (f : Nat) (w : IWord) (s : State) : Host.Outcome State Fault Refusal :=
  ok (issue s f w ⟨0x01, 0x005, 0, [(40, 2), (0, 17)], [], [], []⟩ (fun t x =>
    let n := x.lreg (fL w)
    if fTarget w ≥ x.codeEnd then illegal 4
    else if n = 0 then .next t
    else
      let t1 := t.modFace f (fun y => y.setL (fL w) (n - 1))
      if n - 1 = 0 then .next t1 else .jump t1 (fTarget w)))

/-- TWAIT (R262): stall until min(RA, E); past that instant it does nothing. -/
def execTwait (f : Nat) (w : IWord) (s : State) : Host.Outcome State Fault Refusal :=
  ok (issue s f w ⟨0x01, 0x006, 0, [(32, 5)], [], [], []⟩ (fun t x =>
    let u := min (x.sreg (fRA w)).toNat t.hand.expiry
    if u ≤ t.now then .next t else .stall t (.twait u)))

/-- TWAIT_EXPIRY (R262): device time reaches the instant a TWAIT of face f waits for, and issue goes on behind it.  Nothing
where no TWAIT waits. -/
def execTwaitExpiry (f : Nat) (s : State) : Host.Outcome State Fault Refusal :=
  ok (match (s.face f).run with
  | .stalled (.twait u) =>
    ({ s with now := max s.now u }).modFace f (fun y => { y with run := .issuing, pc := y.pc + 1 })
  | _ => s)

/-- END (R23, R242, R243): stalls until every operation of the hand has completed, then makes the balance check and
retires; where the check finds a difference, the revoke trap.  In a fault-class handler no check is made (R249). -/
def execEndProg (f : Nat) (w : IWord) (s : State) : Host.Outcome State Fault Refusal :=
  ok (issue s f w ⟨0x01, 0x007, 0, [], [], [], []⟩ (fun t _ => .stall t .ending))

/-- Where a warning or software handler's RTE leaves the face (R249, R250): a held warning, else a held software trap, is
delivered with the address at which RTE would have resumed; else issue resumes there.  A held warning whose vector is invalid
counts and is not delivered (R238). -/
def State.rteResume (s : State) (f : Nat) : State :=
  let x := s.face f
  let s1 := if x.heldWarn then s.bump R.FCE_TRAP_STAT.WARNINGS f else s
  let y : Face := { x with heldWarn := false }
  match (if x.heldWarn then x.vector 2 else none) with
  | some t =>
    (s1.trapStat f 2 x.tpc).setFace f (y.enter .warning 2 x.tpc t (BitVec.ofNat 64 (s.hand.expiry - s.now)))
  | none =>
    match y.heldSoft with
    | some h =>
      match y.vector h.1 with
      | some t =>
        (s1.trapStat f h.1 x.tpc).setFace f ({ y with heldSoft := none }.enter .software h.1 x.tpc t h.2)
      | none => s1.setFace f { y with heldSoft := none, handler := .none, pc := x.tpc }
    | none => s1.setFace f { y with handler := .none, pc := x.tpc }

/-- RTE: resumes issue at TPC; in a fault-class handler it is executed as END; outside a handler it is the
illegal-instruction trap with cause 5 (R237, R249, R250). -/
def execRte (f : Nat) (w : IWord) (s : State) : Host.Outcome State Fault Refusal :=
  ok (issue s f w ⟨0x01, 0x008, 0, [], [], [], []⟩ (fun t x =>
    match x.handler with
    | .none => illegal 5
    | .fault => .stall t .ending
    | .warning => .whole (t.rteResume f)
    | .software => .whole (t.rteResume f)))

/-! ### Range setup (R236, R266) -/

/-- BASE or LEN outside the limits of R266. -/
def rangeLimitFault (base len : Nat) : Bool := decide (len = 0 ∨ len > 25165824 ∨ base ≥ 2 ^ 25)

/-- A line of the range in a group that GROUPS does not name (R236). -/
def rangeGroupFault (base len groups : Nat) : Bool :=
  (List.range 4).any (fun g => !bit groups g && (meet (base / 128) ((base + len - 1) / 128) (groupLo g) (groupHi g)).isSome)

/-- The image of R236. -/
def rangeImage (base len groups : Nat) : Word := BitVec.ofNat 64 (base + len * 2 ^ 25 + groups * 2 ^ 50)

/-- Write a range register, or raise the range-fault trap and leave it unchanged (R236, R266): CHECK 2 with the first line that is
unpopulated, else CHECK 6; `bad`: a further fault of CHECK 6 (R622: of several checks, the lowest). -/
def setRange (s : State) (f ad base len groups : Nat) (bad : Bool) : Done :=
  if len ≠ 0 ∧ (base + len - 1) / 128 ≥ 196608 then rangeFault 2 1 ad (128 * max (base / 128) 196608)
  else if bad || rangeLimitFault base len || rangeGroupFault base len groups then rangeFault 6 1 ad 0
  else .next (s.modFace f (fun y => y.setA ad (rangeImage base len groups)))

/-- RSET: AD := BASE RA, LEN RB, GROUPS. -/
def execRset (f : Nat) (w : IWord) (s : State) : Host.Outcome State Fault Refusal :=
  ok (issue s f w ⟨0x03, 0x000, 0, [(38, 4), (29, 5), (24, 5), (0, 4)], [], [], []⟩ (fun t x =>
    setRange t f (fAL w) (x.sreg (opf w 29 5)).toNat (x.sreg (opf w 24 5)).toNat (opf w 0 4) false))

/-- RSETI: AD := word 1, taken as a range image. -/
def execRseti (f : Nat) (w : IWord) (s : State) : Host.Outcome State Fault Refusal :=
  ok (issue s f w ⟨0x03, 0x001, 1, [(38, 4)], [(0, 64)], [], []⟩ (fun t _ =>
    setRange t f (fAL w) (rngBase w.w1) (rngLen w.w1) (rngGroups w.w1) (decide (fget w.w1 54 10 ≠ 0))))

/-- RSLICE: AD := BASE AS.BASE + RA, LEN RB, GROUPS AS.GROUPS; the slice lies wholly within AS. -/
def execRslice (f : Nat) (w : IWord) (s : State) : Host.Outcome State Fault Refusal :=
  ok (issue s f w ⟨0x03, 0x002, 0, [(38, 4), (34, 4), (29, 5), (24, 5)], [], [], []⟩ (fun t x =>
    let src := x.areg (fAR w)
    let off := (x.sreg (opf w 29 5)).toNat
    let len := (x.sreg (opf w 24 5)).toNat
    setRange t f (fAL w) (rngBase src + off) len (rngGroups src) (decide (off + len > rngLen src))))

/-- RRD: RD := the image of AS. -/
def execRrd (f : Nat) (w : IWord) (s : State) : Host.Outcome State Fault Refusal :=
  ok (issueRD s f w ⟨0x03, 0x003, 0, [(37, 5), (28, 4)], [], [], []⟩ (fun x => x.areg (opf w 28 4)))

/-! ### System -/

/-- FENCE (R280): stall until every operation issued before it to the queues of MASK has completed; MASK 0 names all. -/
def execFence (f : Nat) (w : IWord) (s : State) : Host.Outcome State Fault Refusal :=
  ok (issue s f w ⟨0x3F, 0x000, 0, [(0, 6)], [], [], []⟩ (fun t _ => .stall t (.fence (opf w 0 6))))

/-- TRAP (R281, R246, R250): a software trap to vector 32 + N with TINFO IMM32 and TPC the next instruction; held while a
warning or software handler runs; cause 2 for an invalid vector (R238) or where one is already held.  In a fault-class handler,
which never returns, it is held and never delivered. -/
def execTrap (f : Nat) (w : IWord) (s : State) : Host.Outcome State Fault Refusal :=
  ok (issue s f w ⟨0x3F, 0x001, 0, [(32, 5), (0, 32)], [], [], []⟩ (fun t x =>
    let v := 32 + fRA w
    let info := BitVec.ofNat 64 (fIMM32 w)
    match x.vector v with
    | none => illegal 2
    | some target =>
      if x.handler = .none then
        .whole ((t.trapStat f v (x.pc + 1)).modFace f (fun y => y.enter .software v (x.pc + 1) target info))
      else if x.heldSoft.isSome then illegal 2
      else .next (t.modFace f (fun y => { y with heldSoft := some (v, info) }))))

end Sys2Proof.Machine
end

