-- ==== Sys2Proof/Machine/FineRun.lean ====
section
/-! DEFINITION. The fine engine at work (05_fine_engine_and_spall.md R138 to R143; 10_ifeom_engine_instructions.md R300 to R302), and its duplicate
check (19_calibration_and_monitoring.md R532, R536, R537). -/
namespace Sys2Proof.Machine

/-- Element format of a FINE format code: 0 INT8, 1 E4M3, 2 E5M2, 3 BF16. -/
def fineFmt (c : Nat) : Fmt := if c = 0 then .int8 else if c = 1 then .e4m3 else if c = 2 then .e5m2 else .bf16

/-- An element with the poison of its word. -/
abbrev FE := FV × Bool

/-- A row of a matrix whose rows lie `ld` bytes apart. -/
def Face.fineRow (x : Face) (base ld c i cols : Nat) : List FE :=
  (List.range cols).map (fun j =>
    let n := x.padNum (base + ld * i + j * fineBytes c) (fineBytes c)
    (ofFmt (fineFmt c) n.1, n.2))

/-- The INT8 accumulator (R140): the value, and the additions that saturated. -/
def int8Acc (chunks : List (List FV)) : Int × Nat :=
  chunks.foldl (fun (a : Int × Nat) c =>
    let v := a.1 + roundEven (sumExact c)
    let w := clampInt (-2 ^ 31) (2 ^ 31 - 1) v
    (w, if v = w then a.2 else a.2 + 1)) (0, 0)

/-- An element of C before conversion (R140 to R142), and its saturating additions. -/
def fineElem (int8 : Bool) (row col : List FE) (xs ss bs : Option FV) : FV × Nat :=
  let terms := (row.zip col).map (fun p => FV.mul p.1.1 p.2.1)
  let acc : FV × Nat :=
    if int8 then
      let a := int8Acc (chunksOf 32 terms.length terms)
      (rne32 (FV.int a.1), a.2)
    else (chunked32 terms, 0)
  let one : FV := .fin false 1 0
  let f1 := match xs, ss with
    | none, none => acc.1
    | _, _ => rne32 (FV.mul acc.1 (rne32 (FV.mul (xs.getD one) (ss.getD one))))
  (match bs with
    | some b => rne32 (FV.add f1 b)
    | none => f1, acc.2)

/-- Fields of a FINE in its queue. -/
def QOp.fm (q : QOp) : Nat := fget q.w1 8 16
def QOp.fn (q : QOp) : Nat := fget q.w1 24 17
def QOp.fk (q : QOp) : Nat := fget q.w1 41 17
def QOp.fOut (q : QOp) : Fmt := vFmtOf (q.f0 17 2)
where vFmtOf (c : Nat) : Fmt := if c = 0 then .bf16 else if c = 1 then .e4m3 else if c = 2 then .e5m2 else .int8

/-- A parameter of a section (R301), if the section is present. -/
def Face.fineParam (x : Face) (present : Bool) (base i : Nat) : Option FE :=
  if present then let n := x.padNum (base + 2 * i) 2; some (ofBf16 n.1, n.2) else none

/-- An output element: its code, what its conversion counts, saturating additions, poison. -/
structure FineOut where
  code : Nat
  conv : Conv
  sat : Nat
  poison : Bool
  deriving DecidableEq, Repr

/-- Row i of C. -/
def Face.fineOutRow (x : Face) (q : QOp) (b : List (List FE)) (i : Nat) : List FineOut :=
  let xs := decide (q.f0 16 1 = 1)
  let ss := decide (q.f0 15 1 = 1)
  let bs := decide (q.f0 14 1 = 1)
  let off := fineParams xs ss bs q.fm q.fn
  let p := rngBase q.ra4
  let a := x.fineRow (rngBase q.al) (128 * fget q.w2 0 16) (q.f0 21 2) i q.fk
  let xi := x.fineParam xs (p + off.1) i
  (List.range q.fn).map (fun j =>
    let col := b.map (fun r => r.getD j (FV.zero, false))
    let sj := x.fineParam ss (p + off.2.1) j
    let bj := x.fineParam bs (p + off.2.2.1) j
    let v := fineElem (decide (q.f0 21 2 = 0)) a col (xi.map Prod.fst) (sj.map Prod.fst) (bj.map Prod.fst)
    let c := convertTo q.fOut v.1
    { code := c.1, conv := c.2, sat := v.2
      poison := a.any Prod.snd || col.any Prod.snd || (xi.map Prod.snd).getD false || (sj.map Prod.snd).getD false ||
        (bj.map Prod.snd).getD false })

/-! ### The duplicate check -/

/-- Mesh hops between physical faces (R58, Latency). -/
def hops (p q : Nat) : Nat := (max (p % 4) (q % 4) - min (p % 4) (q % 4)) + (max (p / 4) (q / 4) - min (p / 4) (q / 4))

/-- Insertion by a key, keeping the order of equals. -/
def insertBy {α : Type} (key : α → Nat) (a : α) : List α → List α
  | [] => [a]
  | b :: bs => if key a < key b then a :: b :: bs else b :: insertBy key a bs

/-- Physical faces in R71's order for physical face p, those fused or down at the last boundary left out. -/
def State.partners (s : State) (p : Nat) : List Nat :=
  let good (q : Nat) : Bool := decide (q ≠ p) && (match s.logicalOf q with
    | some g => !bit s.hand.downMask g
    | none => false)
  let first := [p ^^^ 4, p ^^^ 1].filter good
  let rest := (List.range 8).filter (fun q => good q && !first.contains q)
  first ++ rest.foldl (fun acc q => insertBy (hops p) q acc) []

/-- The check partner of face f: in a re-deal after a difference, the one after the face that differed (R537). -/
def State.partnerOf (s : State) (f : Nat) : Option Nat :=
  let ps := s.partners (s.phys f)
  match (s.face f).recheck with
  | some d => if s.hand.redeal then ((ps.dropWhile (fun q => decide (q ≠ d))).drop 1).head? else ps.head?
  | none => ps.head?

/-- Output tiles of a FINE (R145, R536): tiles of columns, and groups of rows. -/
def QOp.fineTileW (q : QOp) : Nat := if q.f0 21 2 = 3 then 64 else 128
def QOp.fineTilesN (q : QOp) : Nat := cdiv q.fn q.fineTileW
def QOp.fineTiles (q : QOp) : Nat := cdiv q.fm 4032 * q.fineTilesN

/-- CRC-64 of the output words of a tile. -/
def QOp.tileCrc (q : QOp) (out : List (List FineOut)) (t : Nat) : Word :=
  let rows := (out.drop (t / q.fineTilesN * 4032)).take 4032
  BitVec.ofNat 64 (crc64 (rows.flatMap (fun r => ((r.drop (t % q.fineTilesN * q.fineTileW)).take q.fineTileW).flatMap (fun o =>
    leBytes o.code q.fOut.size))))

/-- The tiles of a FINE that are sent to the check partner: those drawn, or all with CHK = 1 and in the re-deal after a difference;
without a partner, one missed check. -/
def State.fineSample (s : State) (f : Nat) (q : QOp) (out : List (List FineOut)) (drawn : List Nat) : State :=
  let all := decide (q.f0 12 2 = 1) || (s.hand.redeal && (s.face f).recheck.isSome)
  let ts := (List.range q.fineTiles).filter (fun t => all || drawn.contains t)
  if ts = [] then s
  else match s.partnerOf f with
  | none => s.bump R.CAL_DUP_STAT.MISSED 0
  | some p => { s with fineChecks := s.fineChecks ++ ts.map (fun t => ⟨f, p, q.tileCrc out t⟩) }

/-- A FINE completes: C, its counts, and the tiles sent for checking. -/
def State.fineDone (s : State) (f : Nat) (q : QOp) (drawn : List Nat) : State :=
  let x := s.face f
  let fa := q.f0 21 2
  let fb := q.f0 19 2
  let la := 128 * fget q.w2 0 16
  let lb := 128 * fget q.w2 16 16
  let lc := 128 * fget q.w2 32 16
  let b := (List.range q.fk).map (fun k => x.fineRow (rngBase q.ar) lb fb k q.fn)
  let out := (List.range q.fm).map (fun i => x.fineOutRow q b i)
  let s1 := loop q.fm s (fun t i => t.padTouchRange f (rngBase q.al + la * i) (q.fk * fineBytes fa))
  let s2 := loop q.fk s1 (fun t k => t.padTouchRange f (rngBase q.ar + lb * k) (q.fn * fineBytes fb))
  let xs := decide (q.f0 16 1 = 1)
  let ss := decide (q.f0 15 1 = 1)
  let bs := decide (q.f0 14 1 = 1)
  let s3 := if xs || ss || bs then s2.padTouchRange f (rngBase q.ra4) (fineParams xs ss bs q.fm q.fn).2.2.2 else s2
  let s4 := (out.zip (List.range q.fm)).foldl (fun t e =>
    t.putBytes f (rngBase q.ra3 + lc * e.2) (e.1.flatMap (fun o => (leBytes o.code q.fOut.size).map (fun v => (v, o.poison))))) s3
  let flat := out.flatMap id
  let count (c : Conv) : Nat := (flat.filter (fun o => decide (o.conv = c))).length
  let s5 := (((s4.bumpBy R.FIN_NUM_STAT.NAN_OUT f (count .toNan)).bumpBy R.FIN_NUM_STAT.SAT_OUT f (count .sat)).bumpBy
    R.FIN_NUM_STAT.INF_OUT f (count .toInf)).bumpBy R.FIN_NUM_STAT.INT32_SAT f (flat.foldl (fun a o => a + o.sat) 0)
  (s5.fineSample f q out drawn).bump R.FIN_OP_STAT.FINES f

/-- FINE_CHECK_RESULT (R536, R537): the check partner answers face f's oldest waiting tile with its CRC-64; a partner that has gone down
since answers nothing, and the check is missed. -/
def execFineCheckResult (f : Nat) (crc : Word) (s : State) : Host.Outcome State Fault Refusal :=
  ok (match s.fineChecks.find? (fun c => decide (c.face = f)) with
    | none => s
    | some c =>
      let t : State := { s with fineChecks := s.fineChecks.erase c }
      let gone := match s.logicalOf c.partner with
        | some g => s.isDown g
        | none => true
      if gone then t.bump R.CAL_DUP_STAT.MISSED 0
      else
        let u := t.bump R.CAL_DUP_STAT.FINE_SAMPLED 0
        let fa := u.forced .fineDiff (unitId 7 (s.phys f) 0 0 0)
        let fb := fa.2.forced .fineDiff (unitId 7 c.partner 0 0 0)
        if crc = c.crc ∧ fa.1 = false ∧ fb.1 = false then u
        else
          let rec_ (v : State) (p : Nat) : State :=
            v.raise { det := .fineDiff, unit := unitId 7 p 0 0 0, d0 := c.crc, d1 := crc, lface := f, opcode := 0x2400 }
          (rec_ (rec_ (fb.2.bump R.CAL_DUP_STAT.FINE_DIFF 0) (s.phys f)) c.partner).modFace f
            (fun x => { x with failed := true, recheck := some c.partner }))

/-- Checks not complete at the commit decision are abandoned (R536). -/
def State.dropChecks (s : State) : State :=
  { (s.bumpBy R.CAL_DUP_STAT.MISSED 0 s.fineChecks.length) with fineChecks := [] }

end Sys2Proof.Machine
end

