-- ==== Sys2Proof/Machine/ScoreRun.lean ====
section
/-! DEFINITION. The score engine at work (06_score_and_vector_engines.md R163 to R185): the check of the page list, APPEND and
SCORE. -/
namespace Sys2Proof.Machine

/-! ### Fields and page lists -/

/-- Shape of the runs that an operation names (R303). -/
def QOp.shape (q : QOp) : RunShape :=
  { kv4 := decide (q.f0 22 1 = 1), d := 32 * (q.f0 19 3 + 1), tpp := 2 ^ q.f0 15 4 }

/-- Run index, new or query tokens, query group, window (R303). -/
def QOp.runIx (q : QOp) : Nat := fget q.w1 0 16
def QOp.nt (q : QOp) : Nat := fget q.w1 23 13
def QOp.group (q : QOp) : Nat := fget q.w1 16 7
def QOp.window (q : QOp) : Nat := fget q.w1 36 25
def QOp.isAppend (q : QOp) : Bool := decide (q.op = 1)

/-- A page-list entry (R167): HBM addresses of the share and of the seal table, COUNT, VALID, PREFIX, CACHE, and whether a reserved
field is not zero. -/
structure PEnt where
  share : Nat
  sealB : Nat
  count : Nat
  valid : Bool
  pre : Bool
  cache : Bool
  junk : Bool
  deriving DecidableEq, Repr

/-- The entry that 16 bytes hold. -/
def mkPEnt (v : Nat) : PEnt :=
  { share := nf v 0 36 * 4096, sealB := nf v 64 36 * 16, count := nf v 36 16, valid := bit v 52, pre := bit v 53
    cache := bit v 54, junk := decide (nf v 55 9 ≠ 0 ∨ nf v 100 28 ≠ 0) }

/-- The page list of an operation. -/
def Face.pageList (x : Face) (q : QOp) : List PEnt :=
  (List.range (rngLen q.al / 16)).map (fun e => mkPEnt (x.padNum (rngBase q.al + 16 * e) 16).1)

/-- L: the sum of the COUNT fields. -/
def listLength (es : List PEnt) : Nat := es.foldl (fun a e => a + e.count) 0

/-- Index of the append entry: the first with a COUNT below TPP. -/
def appendIx (tpp : Nat) (es : List PEnt) : Nat := (es.takeWhile (fun e => decide (e.count ≥ tpp))).length

/-- HBM addresses of an entry's run and of its seal entry (R165, R166). -/
def PEnt.run (e : PEnt) (h : RunShape) (r : Nat) : Nat := e.share + r * h.bytes
def PEnt.sealAt (e : PEnt) (r : Nat) : Nat := e.sealB + 16 * r

/-- First index of a list that satisfies a test of index and element. -/
def firstIx {α : Type} (es : List α) (t : Nat → α → Bool) : Option Nat :=
  ((es.zip (List.range es.length)).find? (fun e => t e.2 e.1)).map Prod.snd

/-- The entries that an APPEND writes: its first and one past its last index. -/
def appendSpan (h : RunShape) (es : List PEnt) (n : Nat) : Nat × Nat :=
  (listLength es / h.tpp, cdiv (listLength es + n) h.tpp)

/-- The trap of R168, R174, R233, R270 and R474 when an operation leaves its queue: vector and TINFO. -/
def State.scoreFail (s : State) (f : Nat) (q : QOp) : Option (Nat × Word) :=
  let x := s.face f
  let h := q.shape
  let r := q.runIx
  let es := x.pageList q
  let a := appendIx h.tpp es
  let reg := q.f0 38 4
  let span := appendSpan h es q.nt
  let inf (c : Nat) (i : Option Nat) : Option (Nat × Word) := i.map (fun e => (5, rangeInfo c 1 reg e))
  let wr := (es.take span.2).drop span.1
  let used (p : Nat) : Bool := if p = s.home f then x.uses 6 else x.uses (8 + p)
  let spans := es.flatMap (fun e => [e.run h r, e.run h r + h.bytes - 1, e.sealAt r])
  -- an entry with VALID = 0 names no page
  let named := (es.filter (fun e => e.valid)).flatMap (fun e => [e.run h r, e.run h r + h.bytes - 1, e.sealAt r])
  let wspans := wr.flatMap (fun e => [e.run h r, e.run h r + h.bytes - 1, e.sealAt r])
  let addr (c : Nat) (o : Option Nat) : Option (Nat × Word) := o.map (fun w => (5, hbmInfo (c, w)))
  (([
    (named.find? (fun w => decide (w < 2 ^ 39) && !s.stackOn (hStack w))).map (fun w => (4, BitVec.ofNat 64 (6 + hStack w * 256))),
    inf 14 (firstIx es (fun _ e => !e.valid)),
    inf 15 (firstIx es (fun i e => decide (e.count > h.tpp) || decide (i > a ∧ e.count ≠ 0))),
    inf 16 (firstIx es (fun _ e => e.junk)),
    inf 17 (if es.length > 2048 then some 2048 else firstIx es (fun _ e => decide (e.run h r + h.bytes > 2 ^ 48))),
    inf 18 (firstIx es (fun _ e => !used (hStack e.share))),
    if q.isAppend then inf 19 (firstIx es (fun i e => decide (span.1 ≤ i ∧ i < span.2) && e.pre)) else none,
    if q.isAppend ∧ span.2 > es.length then inf 20 (some es.length) else none,
    if q.isAppend then addr 23 (wspans.find? (fun w => s.inWreg w || s.inSreg w)) else none,
    addr 24 (spans.find? (fun w => !s.usable w)),
    if q.isAppend then addr 25 (wspans.find? (fun w => !s.hasKey (w / 128))) else none] : List (Option (Nat × Word))).findSome? id)

/-! ### Rotary terms (R183) -/

/-- A value with the poison of what it was computed from. -/
abbrev PV := FV × Bool

/-- BF16 values of a scratchpad row. -/
def Face.bfRow (x : Face) (a n : Nat) : List PV :=
  (List.range n).map (fun i => let b := x.padNum (a + 2 * i) 2; (ofBf16 b.1, b.2))

/-- Rotate one pair. -/
def rotPair (c s : FV) (a b : PV) : PV × PV :=
  let p := a.2 || b.2
  ((rne32 (FV.add (rne32 (FV.mul a.1 c)) (rne32 (FV.mul b.1 s)).neg), p),
   (rne32 (FV.add (rne32 (FV.mul a.1 s)) (rne32 (FV.mul b.1 c))), p))

/-- The rotary transform of a row at a position: mode 1 HALF, 2 ADJACENT, 0 none; h pairs. -/
def rotate (mode h θ p : Nat) (row : List PV) : List PV :=
  if mode = 0 then row
  else (List.range h).foldl (fun r i =>
    let j := if mode = 1 then i else 2 * i
    let k := if mode = 1 then i + h else 2 * i + 1
    let phi := rotAngle p θ i h
    let y := rotPair (cosOf phi) (sinOf phi) (r.getD j (FV.zero, false)) (r.getD k (FV.zero, false))
    (r.set j y.1).set k y.2) row

/-- The rotation that an operation names. -/
def QOp.rot (q : QOp) (p : Nat) (row : List PV) : List PV := rotate (q.f0 12 2) (fget q.w2 48 8) (fget q.w3 0 25) p row

/-! ### APPEND (R171 to R174) -/

/-- A quantised row: element bytes, scale bytes, saturations or clamps, whether a NaN stood in it. -/
structure QRow where
  elems : List (Nat × Bool)
  scales : List (Nat × Bool)
  sat : Nat
  nan : Bool
  deriving DecidableEq, Repr

/-- E4M3 elements (R172). -/
def quantFp8 (row : List PV) : QRow :=
  let cs := row.map (fun v => (toE4m3 v.1, v.2))
  { elems := cs.map (fun c => (c.1.1, c.2)), scales := [], sat := (cs.filter (fun c => decide (c.1.2 = .sat))).length
    nan := row.any (fun v => v.1.isNan) }

/-- The largest finite FP32 magnitude. -/
def maxFp32 : FV := .fin false 16777215 104

/-- Magnitude in which an infinity counts as the largest finite value. -/
def absCap : FV → FV
  | .fin _ m e => .fin false m e
  | .inf _ => maxFp32
  | .nan => .nan

/-- The exponent sx of a block without NaN (R173). -/
def blockScale (b : List PV) : Int :=
  match b.foldl (fun a v => FV.maxv a (absCap v.1)) FV.zero with
  | .fin _ m e => if m = 0 then -127 else max (floorLog2 m e - 2) (-127)
  | _ => -127

/-- A KV4 block (R173): 32 element codes, scale code, clamps, NaN. -/
def quantBlock (b : List PV) : List Nat × Nat × Nat × Bool :=
  if b.any (fun v => v.1.isNan) then (b.map (fun _ => 7), 0xFE, 0, true)
  else
    let sx := blockScale b
    let cs := b.map (fun v => toE2m1 (match v.1 with
      | .fin n m e => .fin n m (e - sx)
      | w => w))
    (cs.map Prod.fst, (sx + 127).toNat, (cs.filter Prod.snd).length, false)

/-- Pairs of nibbles as bytes, the even element low (R165). -/
def packNibbles : List Nat → List Nat
  | a :: b :: rest => (a + 16 * b) :: packNibbles rest
  | [a] => [a]
  | [] => []

/-- A KV4 row (R173). -/
def quantKv4 (row : List PV) : QRow :=
  let bs := (chunksOf 32 row.length row).map (fun b => (quantBlock b, b.any Prod.snd))
  { elems := bs.flatMap (fun b => (packNibbles b.1.1).map (fun v => (v, b.2)))
    scales := bs.map (fun b => (b.1.2.1, b.2))
    sat := bs.foldl (fun a b => a + b.1.2.2.1) 0
    nan := bs.any (fun b => b.1.2.2.2) }

/-- Quantise a row in the run's format. -/
def RunShape.quant (h : RunShape) (row : List PV) : QRow := if h.kv4 then quantKv4 row else quantFp8 row

/-- Divide a row by a head scale with rne32. -/
def scaleRow (sc : FV) (row : List PV) : List PV := row.map (fun v => (divRne32 v.1 sc, v.2))

/-- Store bytes of a run through the granules they touch. -/
def State.runStore (s : State) (f a : Nat) (bs : List (Nat × Bool)) : State := s.hbmStore f a bs (bs.length / 128 + 2)

/-- One new token (R171 steps 1 to 4) at a position. -/
def State.appendToken (s : State) (f : Nat) (q : QOp) (es : List PEnt) (listBad : Bool) (i : Nat) : State :=
  let x := s.face f
  let h := q.shape
  let pos := listLength es + i
  let e := es.getD (pos / h.tpp) (mkPEnt 0)
  let t := pos % h.tpp
  let a := e.run h q.runIx
  let spoil (r : List (Nat × Bool)) : List (Nat × Bool) := r.map (fun b => (b.1, b.2 || listBad || q.bad.any (fun m => decide (m.1 = i))))
  let k := h.quant (scaleRow (ofBf16 (fget q.w2 16 16)) (q.rot pos (x.bfRow (rngBase q.ar + 2 * h.d * i) h.d)))
  let v := h.quant (scaleRow (ofBf16 (fget q.w2 32 16)) (x.bfRow (rngBase q.ra3 + 2 * h.d * i) h.d))
  let s1 := (s.runStore f (a + t * h.er) (spoil k.elems)).runStore f (a + h.keyScale + t * h.sr) (spoil k.scales)
  let s2 := (s1.runStore f (a + h.value + t * h.er) (spoil v.elems)).runStore f (a + h.valueScale + t * h.sr) (spoil v.scales)
  let s3 := s2.bumpBy (if h.kv4 then R.SCO_NUM_STAT.KV4_CLAMP else R.SCO_NUM_STAT.FP8_SAT) f (k.sat + v.sat)
  if k.nan || v.nan then s3.bump R.SCO_NUM_STAT.NAN_ROWS f else s3

/-- Seal slot of a page that an APPEND wrote: COUNT and CRC over all its tokens in the slot that is not committed (R166, R171). -/
def State.appendSeal (s : State) (f : Nat) (q : QOp) (e : PEnt) (cnt : Nat) : State :=
  let h := q.shape
  let at_ := e.sealAt q.runIx
  let sl := s.sealSlots at_
  let z := sl.1.runSeal h (e.run h q.runIx) cnt
  let p := if slotCount sl.2.1 = e.count then at_ + 8 else at_
  let w := mkSlot cnt z.2.1
  z.1.hbmStore f p ((leBytes w.toNat 8).map (fun b => (b, false))) 2

/-- Poison of an operation's page list. -/
def Face.listBad (x : Face) (q : QOp) : Bool := (x.padWords (rngBase q.al) (rngLen q.al)).any Prod.snd

/-- APPEND at its completion. -/
def State.appendDone (s : State) (f : Nat) (q : QOp) : State :=
  let h := q.shape
  let es := (s.face f).pageList q
  let bad := (s.face f).listBad q
  let l := listLength es
  let rows := q.nt * 2 * h.d
  let s0 := ((s.padTouchRange f (rngBase q.al) (rngLen q.al)).padTouchRange f (rngBase q.ar) rows).padTouchRange f (rngBase q.ra3) rows
  let s1 := loop q.nt s0 (fun t i => t.appendToken f q es bad i)
  let span := appendSpan h es q.nt
  let s2 := loop (span.2 - span.1) s1 (fun t j =>
    let i := span.1 + j
    t.appendSeal f q (es.getD i (mkPEnt 0)) (min h.tpp (l + q.nt - i * h.tpp)))
  (s2.modFace f (fun x => { x with runShape := mset (0, 0, 0) x.runShape q.runIx (if h.kv4 then 1 else 0, h.d, h.tpp) })).bump
    R.SCO_OP_STAT.APPENDS f

/-! ### SCORE (R169, R170, R177 to R182) -/

/-- A token row of the cache: keys and values as held, block scales applied, before the head scales. -/
structure CTok where
  k : List FV
  v : List FV
  deriving DecidableEq, Repr

/-- Read bytes for a gather: through the hardware cache where the entry asks for it, direct otherwise (R169); bytes, poison, and lines
that hit. -/
def State.gatherBytes (s : State) (f : Nat) (cached : Bool) (a n : Nat) : State × List Nat × Bool × Nat :=
  if n = 0 then (s, [], false, 0)
  else
    let g0 := a / 128
    let k := (a + n - 1) / 128 + 1 - g0
    let use := cached && decide (s.cacheQuarters f ≠ 0)
    let r := loop k (s, ([] : List (Word × Bool)), 0) (fun acc i =>
      let g := g0 + i
      if use then
        let hit := (mget [] (acc.1.face f).cache (cacheSet (acc.1.cacheQuarters f) g)).any (fun e => decide (e.g = g))
        let z := acc.1.cacheRead f g
        (z.1, acc.2.1 ++ z.2, acc.2.2 + if hit then 1 else 0)
      else let z := acc.1.hbmRead g; (z.1, acc.2.1 ++ z.2, acc.2.2))
    let bs := r.2.1.flatMap (fun w => (leBytes w.1.toNat 8).map (fun b => (b, w.2)))
    let xs := (bs.drop (a % 128)).take n
    (r.1, xs.map Prod.fst, xs.any Prod.snd, r.2.2)

/-- The four parts of a run over its first n tokens. -/
structure Parts where
  ke : List Nat
  ks : List Nat
  ve : List Nat
  vs : List Nat
  bad : Bool
  hits : Nat
  deriving DecidableEq, Repr

/-- Gather a run's first n tokens. -/
def State.gatherRun (s : State) (f : Nat) (h : RunShape) (cached : Bool) (a n : Nat) : State × Parts :=
  let r1 := s.gatherBytes f cached a (n * h.er)
  let r2 := r1.1.gatherBytes f cached (a + h.keyScale) (n * h.sr)
  let r3 := r2.1.gatherBytes f cached (a + h.value) (n * h.er)
  let r4 := r3.1.gatherBytes f cached (a + h.valueScale) (n * h.sr)
  (r4.1, { ke := r1.2.1, ks := r2.2.1, ve := r3.2.1, vs := r4.2.1
           bad := r1.2.2.1 || r2.2.2.1 || r3.2.2.1 || r4.2.2.1
           hits := r1.2.2.2 + r2.2.2.2 + r3.2.2.2 + r4.2.2.2 })

/-- Seal CRC over the first c tokens of what was gathered (R166). -/
def Parts.crc (p : Parts) (h : RunShape) (c : Nat) : Nat :=
  crc32c (p.ke.take (c * h.er) ++ p.ks.take (c * h.sr) ++ p.ve.take (c * h.er) ++ p.vs.take (c * h.sr))

/-- An E8M0 block scale times an element; 0xFF is NaN (R164). -/
def scaleE8m0 (code : Nat) (v : FV) : FV :=
  if code = 0xFF then .nan
  else match v with
    | .fin n m e => .fin n m (e + (code : Int) - 127)
    | w => w

/-- Element row t: values with their block scale. -/
def RunShape.decode (h : RunShape) (els scs : List Nat) (t : Nat) : List FV :=
  (List.range h.d).map (fun i =>
    if h.kv4 then
      let b := els.getD (t * h.er + i / 2) 0
      scaleE8m0 (scs.getD (t * h.sr + i / 32) 0) (ofE2m1 (if i % 2 = 0 then b % 16 else b / 16))
    else ofE4m3 (els.getD (t * h.er + i) 0))

/-- Token t of what was gathered. -/
def Parts.tok (p : Parts) (h : RunShape) (t : Nat) : CTok := { k := h.decode p.ke p.ks t, v := h.decode p.ve p.vs t }

/-- First and one past the last unmasked position of query token j (R178). -/
def attendSpan (q : QOp) (l pages tpp j : Nat) : Nat × Nat :=
  let top := min (l + q.nt) (pages * tpp)
  (if q.window = 0 then 0 else l + j + 1 - q.window, if q.f0 14 1 = 1 then min top (l + j + 1) else top)

/-- The seal check of R170 on a gathered run: cause, or 0. -/
def sealCause (h : RunShape) (p : Parts) (a b : Word) (slotBad : Bool) (c m : Nat) : Nat :=
  let first := decide (slotCount a = c)
  let own := if first then a else b
  let other := if first then b else a
  if slotCount a ≠ c ∧ slotCount b ≠ c then 1
  else if p.bad || slotBad then 3
  else if slotCrc own ≠ p.crc h c then 2
  else if m > c ∧ (slotCount other < m ∨ slotCount other > h.tpp ∨ slotCrc other ≠ p.crc h (slotCount other)) then 2
  else 0

/-- What a gather of one entry leaves: tokens by position, the positions of a run that failed its check. -/
structure Gathered where
  toks : List (Nat × CTok) := []
  failed : List (Nat × Nat) := []
  deriving DecidableEq, Repr

/-- Gather entry i: m tokens are attended there (R169, R170).  A word that a router of the haul mesh found uncorrectable on the way counts as
gathered uncorrectable (R72).  The spec gives the record's detail no layout; the entry stands in bits [15:0], the run index in [31:16] and the cause
from bit 32 (DESIGN CHOICE, log entry 73). -/
def State.gatherEntry (s : State) (f : Nat) (q : QOp) (e : PEnt) (i m : Nat) (g : Gathered) : State × Gathered :=
  let h := q.shape
  let a := e.run h q.runIx
  let sl := s.sealSlots (e.sealAt q.runIx)
  let other := if slotCount sl.2.1 = e.count then sl.2.2.1 else sl.2.1
  let n := max m (max e.count (if m > e.count ∧ slotCount other ≤ h.tpp then slotCount other else 0))
  let r0 := sl.1.gatherRun f h e.cache a n
  let fx := r0.1.forced .sealGather (s.unitEngine f 1)
  let r := (fx.2, r0.2)
  let p := { r.2 with bad := r.2.bad || q.bad.any (fun b => decide (b.1 = i)) }
  let c0 := sealCause h p sl.2.1 sl.2.2.1 sl.2.2.2 e.count m
  let c := if c0 = 0 ∧ fx.1 = true then 2 else c0
  let bytes := (r.1.face f).gatherBytes + n * (2 * h.er + 2 * h.sr)
  let hits := (r.1.face f).gatherHits + r.2.hits
  let s1 := ((((r.1.modFace f (fun x => { x with gatherBytes := bytes % 1024, gatherHits := hits % 1000 })).bumpBy
    R.SCO_GATHER_STAT.KIB f (bytes / 1024)).bumpBy R.SCO_GATHER_STAT.CACHE_HITS f (hits / 1000)).bumpBy R.SCO_OP_STAT.TOKENS f n)
  let s2 := if c = 0 then s1
    else (s1.bump (if c = 3 then R.SCO_GATHER_STAT.POISONED else R.SCO_GATHER_STAT.SEAL_FAIL) f).raise
      { det := .sealGather, unit := s.unitEngine f 1, addr := a
        d0 := BitVec.ofNat 64 (i % 65536 + q.runIx * 65536 + c * 2 ^ 32), lface := f, opcode := q.cls * 1024 + q.op }
  (s2, { toks := g.toks ++ (List.range m).map (fun t => (i * h.tpp + t, r.2.tok h t))
         failed := if c = 0 then g.failed else g.failed ++ [(i * h.tpp, i * h.tpp + m)] })

/-- Gather every entry of which some query row needs a token. -/
def State.gatherAll (s : State) (f : Nat) (q : QOp) (es : List PEnt) : State × Gathered :=
  let h := q.shape
  let l := listLength es
  let lo := (attendSpan q l es.length h.tpp 0).1
  let hi := (attendSpan q l es.length h.tpp (q.nt - 1)).2
  (es.zip (List.range es.length)).foldl (fun (acc : State × Gathered) e =>
    let m := min h.tpp (l + q.nt - e.2 * h.tpp)
    if m = 0 ∨ e.2 * h.tpp + m ≤ lo ∨ hi ≤ e.2 * h.tpp then acc else acc.1.gatherEntry f q e.1 e.2 m acc.2) (s, {})

/-- rne32(rne32(σ × s_k) × log₂ e) (R177). -/
def QOp.scoreScale (q : QOp) : FV :=
  rne32 (FV.mul (rne32 (FV.mul (ofBf16 (fget q.w2 0 16)) (ofBf16 (fget q.w2 16 16)))) (ofFp32 0x3FB8AA3B#32))

/-- Score of a query row and a token (R177). -/
def scoreOf (c : FV) (row : List FV) (t : CTok) : FV := rne32 (FV.mul (chunked32 (List.zipWith FV.mul row t.k)) c)

/-- m, l and o of a query row (R179). -/
structure Soft where
  m : FV
  l : FV
  o : List FV
  deriving DecidableEq, Repr

/-- A tile's unmasked tokens (position, score, values) into m, l and o. -/
def Soft.tile (z : Soft) (ts : List (Nat × FV × List FV)) : Soft :=
  match ts with
  | [] => z
  | _ =>
    let mx := ts.foldl (fun a t => FV.maxv a t.2.1) z.m
    let f := if z.m = mx then .fin false 1 0 else exp2b (rne32 (FV.add z.m mx.neg))
    let ps := ts.map (fun t => (t.1, exp2b (rne32 (FV.add t.2.1 mx.neg)), t.2.2))
    let half (b : Bool) : List (Nat × FV × List FV) := ps.filter (fun p => decide (p.1 % 64 < 32) == b)
    let cs := [half true, half false].filter (fun c => !c.isEmpty)
    { m := mx
      l := rne32 (FV.add (rne32 (FV.mul z.l f)) (chunkSum FV.zero (cs.map (fun c => c.map (fun p => p.2.1)))))
      o := (z.o.zip (List.range z.o.length)).map (fun e =>
        rne32 (FV.add (rne32 (FV.mul e.1 f))
          (chunkSum FV.zero (cs.map (fun c => c.map (fun p => FV.mul p.2.1 (p.2.2.getD e.2 FV.zero))))))) }

/-- All tiles in ascending order. -/
def Soft.run (z : Soft) (ts : List (Nat × FV × List FV)) (tiles : Nat) : Soft :=
  loop tiles z (fun a i => a.tile (ts.filter (fun t => decide (t.1 / 64 = i))))

/-- Output codes of a query row, and 1 for an empty row, 2 for a NaN row (R179, R182). -/
def attendRow (c sv : FV) (row : List FV) (ts : List (Nat × CTok)) (tiles : Nat) : List Nat × Nat :=
  let sc := ts.map (fun t => (t.1, scoreOf c row t.2, t.2.v))
  if ts.isEmpty then (row.map (fun _ => 0), 1)
  else if sc.any (fun t => !t.2.1.isFin || t.2.2.any FV.isNan) then (row.map (fun _ => 0x7FC0), 2)
  else
    let z := ({ m := .inf true, l := FV.zero, o := row.map (fun _ => FV.zero) } : Soft).run sc tiles
    (z.o.map (fun o => (toBf16 (rne32 (FV.mul (divRne32 o z.l) sv))).1), 0)

/-- One query row (j, g): its output (R304), its counts, its poison (R170, R220). -/
def State.scoreRow (s : State) (f : Nat) (q : QOp) (x : Face) (l pages : Nat) (bad : Bool) (z : Gathered) (j g : Nat) : State :=
  let h := q.shape
  let off := (j * q.group + g) * 2 * h.d
  let raw := x.bfRow (rngBase q.ar + off) h.d
  let row := q.rot (l + j) raw
  let sp := attendSpan q l pages h.tpp j
  let ts := z.toks.filter (fun t => decide (sp.1 ≤ t.1 ∧ t.1 < sp.2))
  let y := attendRow q.scoreScale (ofBf16 (fget q.w2 32 16)) (row.map Prod.fst) ts ((l + q.nt) / 64 + 1)
  let p := bad || raw.any Prod.snd || z.failed.any (fun r => decide (max r.1 sp.1 < min r.2 sp.2))
  let s1 := s.putBytes f (rngBase q.ra3 + off) (y.1.flatMap (fun v => (leBytes v 2).map (fun b => (b, p))))
  if y.2 = 1 then s1.bump R.SCO_NUM_STAT.EMPTY_ROWS f else if y.2 = 2 then s1.bump R.SCO_NUM_STAT.NAN_ROWS f else s1

/-- SCORE at its completion. -/
def State.scoreDone (s : State) (f : Nat) (q : QOp) : State :=
  let x := s.face f
  let es := x.pageList q
  let l := listLength es
  let s0 := (s.padTouchRange f (rngBase q.al) (rngLen q.al)).padTouchRange f (rngBase q.ar) (q.nt * q.group * 2 * q.shape.d)
  let r := s0.gatherAll f q es
  let s1 := loop q.nt r.1 (fun t j => loop q.group t (fun u g => u.scoreRow f q x l es.length (x.listBad q) r.2 j g))
  s1.bump R.SCO_OP_STAT.SCORES f

/-- A SCORE or APPEND leaves its queue (R168, R174). -/
def State.scoreStart (s : State) (f : Nat) (q : QOp) : State :=
  match s.scoreFail f q with
  | some c => s.opTrap f q c.1 c.2
  | none => s

/-- A SCORE or APPEND completes. -/
def State.scoreRunDone (s : State) (f : Nat) (q : QOp) : State := if q.isAppend then s.appendDone f q else s.scoreDone f q

end Sys2Proof.Machine
end

