-- ==== Sys2Proof/Machine/ServingRun.lean ====
section
/-! DEFINITION. The serving unit within a hand (13_requests_and_pages.md R384 to R390, 14_the_dealer.md R398 to R400): SLOT, PLIST and
DEAL, stock tickets, and what of it a commit publishes or a misdeal takes back. -/
namespace Sys2Proof.Machine

/-- This device is a pipeline head. -/
def State.isHead (s : State) : Bool := decide (s.place.map (fun p => p.1) = some 0)

/-! ### SLOT (R386) -/

/-- The seats of the slot whose prompt fails its seal as SLOT writes its tokens (R367); `flipped`: those whose copy in HBM reads back changed. -/
def State.promptFails (s : State) (flipped : List Nat) : List Nat :=
  (s.hand.desc.filter (fun d => !d.void && decide (d.kind ≠ 0) && (
    let x := s.seat d.seat
    let copy := x.toks.take x.prompt
    decide (tokenSeal (if flipped.contains d.seat then copy.modify 0 (nxor 1) else copy) ≠ x.crc)))).map SlotSeat.seat

/-- Tickets of face f in this hand. -/
def State.faceTickets (s : State) (f : Nat) : List Nat := (s.hand.tickets.filter (fun t => decide (t.1 = f))).map Prod.snd

/-- Offsets of the seats' token identifiers at the head, from `at_`; 0 where there are none. -/
def tokOffsets : List SlotSeat → Nat → List Nat
  | [], _ => []
  | d :: rest, at_ => (if d.toks = [] then 0 else at_) :: tokOffsets rest (at_ + 4 * d.toks.length)

/-- SLOT's output for face f: header, descriptors, token identifiers at the head, tickets on an 8-byte boundary. -/
def State.slotBytes (s : State) (f : Nat) : List Nat :=
  let ds := if s.isHead then s.hand.desc else s.hand.desc.map (fun d => { d with toks := [] })
  let tk := s.faceTickets f
  let toks := ds.flatMap (fun d => d.toks)
  let t0 := 16 + 16 * ds.length
  let t1 := 8 * cdiv (t0 + 4 * toks.length) 8
  leBytes ds.length 2 ++ leBytes tk.length 2 ++ leBytes t1 4 ++ leBytes s.hand.slotNum 8 ++
  ((ds.zip (tokOffsets ds t0)).flatMap (fun e =>
    let d := e.1
    leBytes (d.seat + if d.void then 32768 else 0) 2 ++ [d.kind, d.drafts] ++ leBytes d.ntok 2 ++ [0, 0] ++
    leBytes (if d.void then d.pos else s.lenOf d) 4 ++ leBytes e.2 4)) ++
  toks.flatMap (fun v => leBytes v 4) ++ List.replicate (t1 - (t0 + 4 * toks.length)) 0 ++ tk.flatMap (fun t => leBytes t 8)

/-! ### PLIST (R384, R385) -/

/-- Pages that a seat's list spans: up to the last position that the hand's appends write. -/
def State.listPages (s : State) (d : SlotSeat) : Nat := if d.void then 0 else (s.lenOf d + d.ntok - 1) / s.tpp + 1

/-- Prefix pages of a set. -/
def State.pfxPages (s : State) (p : Nat) : Nat := if p ≥ 4096 then 0 else s.rd R.SRV_PFX_STATE.PAGES p

/-- Entry i of a seat's page table (R383): the prefix set's pages come first, and a page allocated in this hand is the seat's own. -/
def State.pte (s : State) (d : SlotSeat) (i : Nat) : Pte :=
  if i < s.pfxPages d.prefixSet then { kind := 2, frame := (mget {} s.prefixes d.prefixSet).frames.getD i 0 }
  else match s.hand.alloc.find? (fun a => decide (a.1 = d.seat ∧ a.2.1 = i)) with
    | some a => { kind := 1, frame := a.2.2 }
    | none => mget {} (s.cacheOf d.seat).pages i

/-- Frame of page i of a slot's seat, and whether it is a prefix page. -/
def State.listFrame (s : State) (d : SlotSeat) (i : Nat) : Option (Nat × Bool) :=
  let e := s.pte d i
  if e.kind = 1 ∨ e.kind = 2 ∨ e.kind = 4 then some (e.frame, decide (e.kind = 2)) else none

/-- One page-list entry (R167, R382). -/
def State.listEntry (s : State) (f : Nat) (d : SlotSeat) (cache : Bool) (i : Nat) : List Nat :=
  let n := min s.tpp (s.lenOf d - i * s.tpp)
  match s.listFrame d i with
  | none => leBytes (n * 2 ^ 36) 16
  | some (x, pre) =>
    leBytes (s.shareAddr f x / 4096 + n * 2 ^ 36 + 2 ^ 52 + (if pre then 2 ^ 53 else 0) + (if cache then 2 ^ 54 else 0)) 8 ++
    leBytes (s.sealAddr f x / 16) 8

/-- Entries of a seat's list: without allocation only those that have a frame. -/
def State.listLen (s : State) (d : SlotSeat) (alloc : Bool) : Nat :=
  if alloc then s.listPages d
  else ((List.range (s.listPages d)).takeWhile (fun i => (s.listFrame d i).isSome)).length

/-- Offsets of the lists, each a multiple of 128, and the end of the last. -/
def listOffsets : List Nat → Nat → List Nat × Nat
  | [], at_ => ([], at_)
  | n :: rest, at_ =>
    let o := up128 at_
    let r := listOffsets rest (o + 16 * n)
    (o :: r.1, r.2)

/-- Bytes that PLIST writes. -/
def State.plistLen (s : State) (alloc : Bool) : Nat :=
  (listOffsets (s.hand.desc.map (fun d => s.listLen d alloc)) (16 * s.hand.desc.length)).2

/-- Allocate a frame for a page of a seat (R384); with none free the serving unit is permanent and the hand misdeals. -/
def State.allocPage (s : State) (seat page : Nat) : State :=
  if s.usedFrames.length ≥ s.rd R.SRV_PAGE_CFG.FRAMES 0 ∨ (s.injSlot .freeList (unitId 15 0 0 0 0)).isSome = true then
    let t := s.raise { det := .freeList, unit := unitId 15 0 0 0 0, d0 := BitVec.ofNat 64 seat, d1 := BitVec.ofNat 64 page }
    { t with unitDown := true, hand := { t.hand with freeListFault := true } }
  else
    let r := s.takeFrames 1
    let x := r.2.headD 0
    let t : State := { r.1 with hand := { r.1.hand with alloc := r.1.hand.alloc ++ [(seat, page, x)] } }
    loop t.nFaces t (fun u f => loop (u.rd R.SRV_PAGE_CFG.RUNS 0) u (fun v r =>
      let e := v.sealAddr f x + 16 * r
      (v.hbmPatch e 0#64).hbmPatch (e + 8) 0#64))

/-- Allocate every page that the slot's appends enter and that has no frame. -/
def State.allocPages (s : State) : State :=
  s.hand.desc.foldl (fun t d => loop (s.listPages d) t (fun u i => if (u.listFrame d i).isSome then u else u.allocPage d.seat i)) s

/-- PLIST's output for face f. -/
def State.plistBytes (s : State) (f : Nat) (alloc cache : Bool) : List Nat :=
  let ns := s.hand.desc.map (fun d => s.listLen d alloc)
  let os := (listOffsets ns (16 * s.hand.desc.length)).1
  let dir := (os.zip ns).flatMap (fun e => leBytes e.1 4 ++ leBytes e.2 4 ++ leBytes 0 8)
  ((s.hand.desc.zip (os.zip ns)).foldl (fun (acc : List Nat) e =>
    let pad := List.replicate (e.2.1 - acc.length) 0
    acc ++ pad ++ (List.range e.2.2).flatMap (fun i => s.listEntry f e.1 cache i)) dir)

/-! ### DEAL (R398 to R400) -/

/-- A field of DEAL's header in AR. -/
def dealFld (x : Face) (q : QOp) (o n : Nat) : Nat := (x.padNum (rngBase q.ar + o) n).1

/-- The check that a DEAL fails when it leaves its queue: 29, or 9 where AL is too short. -/
def State.dealFail (s : State) (f : Nat) (q : QOp) : Option (Nat × Nat) :=
  let x := s.face f
  let v := s.rd R.DLR_CFG.VOCAB (q.f0 0 16)
  let vbase := dealFld x q 0 4
  let vcount := dealFld x q 4 4
  let rows := dealFld x q 8 4
  let ldl := dealFld x q 12 2
  let shares := dealFld x q 14 1
  if v = 0 ∨ vcount = 0 ∨ vcount > v ∨ vbase + vcount > v ∨ ldl < cdiv (vcount * 2) 128 ∨ shares = 0 ∨ shares > 16 ∨
     dealFld x q 15 1 ≥ shares ∨ (List.range 104).any (fun i => decide (dealFld x q (24 + i) 1 ≠ 0)) = true then some (29, 2)
  else if rngLen q.al < (rows - 1) * ldl * 128 + vcount * 2 then some (9, 1)
  else if rows ≠ slotRows s.hand.desc ∨ dealFld x q 16 8 ≠ s.hand.slotNum then some (29, 2)
  else none

/-- DEAL completes: the dealer holds the share; one beyond the share count breaks the check. -/
def State.dealDone (s : State) (f : Nat) (q : QOp) : State :=
  let x := s.face f
  let vcount := dealFld x q 4 4
  let ldl := dealFld x q 12 2
  let rows := (List.range (dealFld x q 8 4)).map (fun r =>
    (List.range vcount).map (fun v =>
      let c := x.padNum (rngBase q.al + r * ldl * 128 + 2 * v) 2
      (c.1, c.2 || q.bad.contains (f, (r * ldl * 128 + 2 * v) / 8))))
  let sh : DealShare := { sel := q.f0 0 16, shares := dealFld x q 14 1, index := dealFld x q 15 1, vbase := dealFld x q 0 4
                          vcount := vcount, rows := rows }
  let s1 := (s.padTouchRange f (rngBase q.al) (rngLen q.al)).padTouchRange f (rngBase q.ar) 128
  if s1.sharesIn then
    ({ s1 with hand := { s1.hand with shareBad := true } }).raise
      { det := .dealShares, unit := unitId 15 0 0 0 1, d0 := BitVec.ofNat 64 s.hand.slotNum }
  else { s1 with hand := { s1.hand with shares := s1.hand.shares ++ [sh] } }

/-! ### Leaving the queue, and completing -/

/-- A serving operation leaves its queue. -/
def State.servingStart (s : State) (f : Nat) (q : QOp) : State :=
  if s.domOn 29 = false then s.opTrap f q 4 (BitVec.ofNat 64 4)
  else if q.op = 0 then
    if (s.slotBytes f).length > rngLen q.al then s.opTrap f q 5 (rangeInfo 22 1 (q.f0 38 4) 0) else s
  else if q.op = 1 then
    if s.plistLen (decide (q.f0 0 1 = 1)) > rngLen q.al then s.opTrap f q 5 (rangeInfo 22 1 (q.f0 38 4) 0) else s
  else match s.dealFail f q with
  | some (c, o) => s.opTrap f q 5 (rangeInfo c o (if o = 1 then q.f0 38 4 else q.f0 34 4) 0)
  | none => { s with hand := { s.hand with dealt := true } }

/-- What a serving operation has done when it completes. -/
def State.servingDone (s : State) (f : Nat) (q : QOp) (flipped : List Nat) : State :=
  let put (t : State) (bs : List Nat) : State := t.putBytes f (rngBase q.al) (bs.zipIdx.map (fun b => (b.1, q.bad.contains (f, b.2 / 8))))
  if q.op = 0 then
    let t := put s (s.slotBytes f)
    if s.isHead then { t with hand := { t.hand with sealFail := t.hand.sealFail ++ s.promptFails flipped } } else t
  else if q.op = 1 then
    let alloc := decide (q.f0 0 1 = 1)
    let t := if alloc then s.allocPages else s
    -- the spec does not say how CACHE is written
    let d := t.draw
    put d.2 (d.2.plistBytes f alloc (decide (d.1 % 2 = 1)))
  else s.dealDone f q

/-! ### Stock tickets (R389) -/

/-- Bytes of a page on the device. -/
def State.pageBytes (s : State) : Nat := s.nFaces * s.rd R.SRV_PAGE_CFG.SHARE 0 * 4096

/-- A stock slot that is free, the lowest. -/
def State.takeStock (s : State) : Option (Nat × State) :=
  let y := kthFree (s.usedStock.map Prod.fst) 0
  if y < s.rd R.SRV_STOCK_SLOTS.SLOTS 0 then some (y, { s with usedStock := mset false s.usedStock y true }) else none

/-- Change one page-table entry. -/
def State.setPte (s : State) (seat page : Nat) (e : Pte) : State :=
  let c := s.cacheOf seat
  s.setCache seat { c with pages := mset {} c.pages page e }

/-- Issue the tickets of a page, one per face. -/
def State.issueTicket (s : State) (seat page y : Nat) (inward cmp : Bool) : State :=
  let t := seat + page * 2 ^ 14 + (if inward then 2 ^ 25 else 0) + (if cmp then 2 ^ 26 else 0) + y * 2 ^ 27 + s.handNum % 4096 * 2 ^ 52
  { s with hand := { s.hand with tickets := s.hand.tickets ++ (List.range s.nFaces).map (fun f => (f, t)) } }

/-- Outbound tickets of a seat, in page-table order, while the budget of pages lasts. -/
def State.ticketsOut (s : State) (seat : Nat) (cmp : Bool) (left : Nat) : State × Nat :=
  (s.cacheOf seat).pages.foldl (fun acc p =>
    if p.2.kind ≠ 1 ∨ acc.2 = 0 then acc
    else match acc.1.takeStock with
      | none => acc
      | some (y, t) => ((t.setPte seat p.1 { p.2 with kind := 4, stock := y, cmp := cmp }).issueTicket seat p.1 y false cmp, acc.2 - 1))
    (s, left)

/-- Inbound tickets of a seat, each with a frame for its page; while the compressor is off a seat with compressed shares is held (R568). -/
def State.ticketsIn (s : State) (seat : Nat) (left : Nat) : State × Nat :=
  if !s.compressorOn && (s.cacheOf seat).pages.any (fun p => decide (p.2.kind = 3) && p.2.cmp) then (s, left)
  else (s.cacheOf seat).pages.foldl (fun acc p =>
    if p.2.kind ≠ 3 ∨ acc.2 = 0 ∨ acc.1.usedFrames.length ≥ acc.1.rd R.SRV_PAGE_CFG.FRAMES 0 then acc
    else
      let r := acc.1.takeFrames 1
      let t : State := { r.1 with hand := { r.1.hand with alloc := r.1.hand.alloc ++ [(seat, p.1, r.2.headD 0)] } }
      ((t.setPte seat p.1 { p.2 with kind := 5 }).issueTicket seat p.1 p.2.stock true p.2.cmp, acc.2 - 1))
    (s, left)

/-- The seats whose pages move, in their order: STOCKING by their end, RECALL by admission; (seat, inward, compressed).  The manager knows
them; another stage is told (`told`). -/
def State.movingSeats (s : State) (told : List (Nat × Bool × Bool)) : List (Nat × Bool × Bool) :=
  if s.isManager then
    let out := (s.seats.filter (fun e => decide (e.2.st = .stocking) && !e.2.freeing)).mergeSort
      (fun a b => decide (a.2.expires - a.2.ttl * 1000000000 ≤ b.2.expires - b.2.ttl * 1000000000))
    let inn := (s.seats.filter (fun e => decide (e.2.st = .recall) && !e.2.freeing)).mergeSort (fun a b => decide (a.2.order ≤ b.2.order))
    out.map (fun e => (e.1, false, bit e.2.flags 3 && decide (s.rd R.PLT_CAP_UNITS.REACH 0 = 1))) ++ inn.map (fun e => (e.1, true, false))
  else told

/-- The tickets of a hand, up to its budgets. -/
def State.issueTickets (s : State) (told : List (Nat × Bool × Bool)) : State :=
  let per := max 1 s.pageBytes
  let xs := s.movingSeats told
  let o := (xs.filter (fun e => !e.2.1)).foldl (fun acc e => acc.1.ticketsOut e.1 (e.2.2 && s.compressorOn) acc.2)
    (s, s.rd R.SRV_STOCK_CFG.OUT 0 * 2 ^ 20 / per)
  ((xs.filter (fun e => e.2.1)).foldl (fun acc e => acc.1.ticketsIn e.1 acc.2) (o.1, s.rd R.SRV_STOCK_CFG.RECALL 0 * 2 ^ 20 / per)).1

/-! ### At the end of the hand (R33, R41) -/

/-- The tickets of face 0: one for each page that moves. -/
def State.pageTickets (s : State) : List Nat := s.faceTickets 0

/-- Every face completed the move of a ticket. -/
def State.movedAll (s : State) (t : Nat) : Bool := (List.range s.nFaces).all (fun f => s.hand.moved.contains (f, t))

/-- A page's moves end: completed, it changes kind; else it is left as it was. -/
def State.ticketEnd (s : State) (done : Bool) (t : Nat) : State :=
  let seat := tkSeat t
  let page := tkPage t
  let e := mget {} (s.cacheOf seat).pages page
  let frame := (s.hand.alloc.find? (fun a => decide (a.1 = seat ∧ a.2.1 = page))).map (fun a => a.2.2)
  let freeF (u : State) (x : Nat) : State := { u with usedFrames := mset false u.usedFrames x false }
  let freeS (u : State) (y : Nat) : State := { u with usedStock := mset false u.usedStock y false }
  if e.kind = 4 then
    if done ∧ (s.seat seat).st ≠ .recall then freeF (s.setPte seat page { e with kind := 3, frame := 0, key := s.rd R.KEY_STATE.EPOCH 0 }) e.frame
    else freeS (s.setPte seat page { e with kind := 1, stock := 0, cmp := false }) e.stock
  else if e.kind = 5 then
    match frame with
    | some x => if done then freeS (s.setPte seat page { kind := 1, frame := x }) e.stock
                else freeF (s.setPte seat page { e with kind := 3 }) x
    | none => s
  else s

/-- Seats whose last page has moved (R373): STOCKING becomes STOCKED, RECALL becomes PREFILL. -/
def State.seatsMoved (s : State) : State :=
  s.seats.foldl (fun t e =>
    let ps := (t.cacheOf e.1).pages
    if e.2.st = .stocking ∧ ps.all (fun p => decide (p.2.kind ≠ 1 ∧ p.2.kind ≠ 4)) then t.modSeat e.1 (fun x => { x with st := .stocked })
    else if e.2.st = .recall ∧ ps.all (fun p => decide (p.2.kind ≠ 3 ∧ p.2.kind ≠ 5)) then t.modSeat e.1 (fun x => { x with st := .prefill })
    else t) s

/-- Step C2: the committed length of each seat of the slot advances by its NTOK, and the seat takes the slot's stamp (R359), on every stage beside
what it holds of the seat's cache. -/
def State.advanceLens (s : State) : State :=
  s.hand.desc.foldl (fun t d => if d.void then t
    else
      let u := t.setCache d.seat ({ t.cacheOf d.seat with len := s.lenOf d + d.ntok, pre := s.pfxPages d.prefixSet }.seeStamp s.hand.stampLo s.hand.stampHi)
      if s.isManager then u.modSeat d.seat (fun x => x.seeStamp s.hand.stampLo s.hand.stampHi) else u) s

/-- Step C4: pages allocated are published, pages that moved change kind, and seats whose recall failed end (R384, R389, R493). -/
def State.commitPages (s : State) : State :=
  let inbound (a : Nat × Nat × Nat) : Bool := decide ((mget {} (s.cacheOf a.1).pages a.2.1).kind = 5)
  let s1 := (s.hand.alloc.filter (fun a => !inbound a)).foldl (fun t a => t.setPte a.1 a.2.1 { kind := 1, frame := a.2.2 }) s
  let s2 := s1.pageTickets.foldl (fun t k => t.ticketEnd (s1.movedAll k) k) s1
  let s3 := (s2.hand.sealFail.eraseDups).foldl (fun t i =>
    if t.isManager then t.modSeat i (fun x => { x with endCode := 9, freeing := true }) else t.emit (.serve t.manager [6, i])) s2
  s3.seatsMoved

/-- A misdeal takes back the hand's frames and leaves every page as it was (R41, R384, R389). -/
def State.misdealPages (s : State) : State :=
  let inbound (a : Nat × Nat × Nat) : Bool := decide ((mget {} (s.cacheOf a.1).pages a.2.1).kind = 5)
  let s1 := (s.hand.alloc.filter (fun a => !inbound a)).foldl
    (fun (t : State) a => { t with usedFrames := mset false t.usedFrames a.2.2 false }) s
  s1.pageTickets.foldl (fun t k => t.ticketEnd false k) s1

end Sys2Proof.Machine
end

