-- ==== Sys2Proof/Machine/EngineOps.lean ====
section
/-! DEFINITION. Operations leave their queues and complete (08_ifeom_programming_model.md R244, R245; 10_ifeom_engine_instructions.md R286). -/
namespace Sys2Proof.Machine

/-- The queue of number e, in the order of FENCE's MASK. -/
def engOf (e : Nat) : Eng :=
  if e = 0 then .array else if e = 1 then .fine else if e = 2 then .score else if e = 3 then .vector else if e = 4 then .mover else .serving

/-- An engine that runs one operation at a time has one started; bench-3 work goes ahead of queued FINE instructions (R121). -/
def Face.engBusy (x : Face) (e : Eng) : Bool :=
  match e with
  | .mover | .serving => false
  | .fine => x.started.any (fun q => decide (q.eng = .fine)) || x.mvm.any MvmRun.wantsFine
  | _ => x.started.any (fun q => decide (q.eng = e))

/-- An engine's unit code (R237) and power. -/
def State.engPower (s : State) (f : Nat) (e : Eng) : Option (Nat × Bool) :=
  match e with
  | .array => some (0, s.arrayOn f)
  | .fine => some (1, s.engOn f)
  | .score => some (2, s.engOn f)
  | .vector => some (3, s.engOn f)
  | _ => none

/-- An MVM starts: no vector has been examined yet, and the hand's stamp takes in the version of its set's live copy (R358). -/
def State.mvmStart (s : State) (f : Nat) (q : QOp) : State :=
  let i := ix 4096 f (fget q.w1 0 12)
  (s.modFace f (fun x => { x with mvm := some { op := q.id, passes := [] } })).stampWith
    (if fw q.mapLo R.ARF_WSMAP_LO.LIVE = 0 then s.rd R.ARF_WSVER.A_VERSION i else s.rd R.ARF_WSVER.B_VERSION i)

/-- The checks made as an operation leaves its queue (R247). -/
def State.opStart (s : State) (f : Nat) (q : QOp) : State :=
  match s.engPower f q.eng with
  | some (u, false) => s.opTrap f q 4 (BitVec.ofNat 64 u)
  | _ =>
    match q.eng with
    | .array => if q.op = 0 then s.mvmStart f q else s
    | .score => s.scoreStart f q
    | .mover => s.moverStart f q
    | .serving => s.servingStart f q
    | _ => s

/-- ENGINE_OP_START (R245): the oldest operation of face f's queue `e` leaves it, once its engine is free. -/
def execEngineOpStart (f e : Nat) (s : State) : Host.Outcome State Fault Refusal :=
  let x := s.face f
  ok (match x.queue.find? (fun q => decide (q.eng = engOf e)) with
    | none => s
    | some q =>
      if x.engBusy q.eng then s
      else (s.modFace f (fun y => { y with queue := y.queue.filter (fun r => decide (r.id ≠ q.id)), started := y.started ++ [q] })).opStart f q)

/-- What a completing operation has done (R286); the results of a hand that did not commit are discarded (R41). -/
def State.opEffect (s : State) (f : Nat) (q : QOp) (share : Option Share) (drawn : List Nat) : State :=
  match q.eng with
  | .array => s.arrayDone f q
  | .fine => s.fineDone f q drawn
  | .score => s.scoreRunDone f q
  | .vector => s.vopRun f q
  | .mover => s.moverDone f q share
  | .serving => s.servingDone f q drawn

/-- A started operation that can complete: a SEND completes by its answers, an MVM once every pass is done (R290), a FINE while no bench-3 work holds the
engine (R148). -/
def Face.completable (x : Face) (q : QOp) : Bool :=
  !q.isSend && !(decide (q.eng = .fine) && x.mvm.any MvmRun.holdsFine) && (!(decide (q.eng = .array ∧ q.op = 0)) || q.discard || (match x.mvm with
    | some r => decide (r.op = q.id) && r.finished q
    | none => false))

/-- ENGINE_OP_COMPLETE (R286): the oldest started operation of face f's engine `e` that can complete does so; `share`: what a STKIN reads from
the stockpile; `drawn`: output tiles of a FINE that the sampling draws (R532); of a SLOT, the seats whose prompt reads back changed from the front's copy (R367). -/
def execEngineOpComplete (f e : Nat) (share : Option Share) (drawn : List Nat) (s : State) : Host.Outcome State Fault Refusal :=
  let x := s.face f
  ok (match x.started.find? (fun q => decide (q.eng = engOf e) && x.completable q) with
    | none => s
    | some q =>
      let t := if q.discard then s else s.opEffect f q share drawn
      (t.modFace f (fun y => { y with mvm := match y.mvm with
        | some r => if r.op = q.id then none else some r
        | none => none })).opDone f q)

end Sys2Proof.Machine
end

