-- ==== Sys2Proof/Machine/Sha.lean ====
section
/-! DEFINITION. SHA-384, by which the spec names sections, messages and layer digests (R335, R336, R361, R514): the function of FIPS
180-4 over a list of bytes, as six words. -/
namespace Sys2Proof.Machine

/-- The first primes, as many as SHA-384 has rounds. -/
def shaPrimes : List Nat := (List.range 410).filter (fun n => decide (2 ≤ n) && (List.range 19).all (fun d => decide (d + 2 ≥ n ∨ n % (d + 2) ≠ 0)))

/-- The first 64 bits of the fraction of the k-th root of a prime: the root of p × 2^(64 k), found from its highest bit down. -/
def rootBits (k p : Nat) : Word :=
  BitVec.ofNat 64 ((List.range 70).foldl (fun x i => let y := x + 2 ^ (69 - i); if y ^ k ≤ p * 2 ^ (64 * k) then y else x) 0)

/-- Round constants: cube roots of the first 80 primes. -/
def shaK : List Word := shaPrimes.map (rootBits 3)

/-- Initial chaining value: square roots of the ninth to the sixteenth prime. -/
def shaInit : List Word := ((shaPrimes.drop 8).take 8).map (rootBits 2)

/-- The four mixing functions of a word. -/
def shaMix (a b : Nat) (c : Word → Word) (x : Word) : Word := x.rotateRight a ^^^ x.rotateRight b ^^^ c x

/-- Message schedule: the last 16 words, and the round constants still to use, with the working variables. -/
def shaRounds (w : List Word) (h : List Word) : List Word → List Word
  | [] => h
  | k :: ks =>
    match h, w with
    | [a, b, c, d, e, f, g, i], w0 :: rest =>
      let t1 := i + shaMix 14 18 (fun x => x.rotateRight 41) e + ((e &&& f) ^^^ (~~~ e &&& g)) + k + w0
      let t2 := shaMix 28 34 (fun x => x.rotateRight 39) a + ((a &&& b) ^^^ (a &&& c) ^^^ (b &&& c))
      let nw := w0 + shaMix 1 8 (fun x => x >>> 7) (rest.getD 0 0#64) + rest.getD 8 0#64
        + shaMix 19 61 (fun x => x >>> 6) (rest.getD 13 0#64)
      shaRounds (rest ++ [nw]) [t1 + t2, a, b, c, d + t1, e, f, g] ks
    | _, _ => h

/-- A block of sixteen words. -/
def shaBlock (h w : List Word) : List Word := (h.zip (shaRounds w h shaK)).map (fun p => p.1 + p.2)

/-- Big-endian words of a byte list (fuel: its length). -/
def shaWords : Nat → List Nat → List Word
  | 0, _ => []
  | _ + 1, [] => []
  | n + 1, bs => BitVec.ofNat 64 ((bs.take 8).foldl (fun a b => a * 256 + b) 0) :: shaWords n (bs.drop 8)

/-- Blocks of a word list (fuel: its length). -/
def shaBlocks : Nat → List Word → List Word → List Word
  | 0, h, _ => h
  | _ + 1, h, [] => h
  | n + 1, h, ws => shaBlocks n (shaBlock h (ws.take 16)) (ws.drop 16)

/-- The message with its padding. -/
def shaPad (bs : List Nat) : List Nat :=
  let n := bs.length
  bs ++ [0x80] ++ List.replicate ((239 - n % 128) % 128) 0 ++ ((List.range 16).map (fun i => 8 * n / 256 ^ (15 - i) % 256))

/-- SHA-384 of a byte string. -/
def sha384 (bs : List Nat) : List Word :=
  let p := shaPad bs
  let ws := shaWords p.length p
  (shaBlocks ws.length shaInit ws).take 6

end Sys2Proof.Machine
end

