-- ==== Sys2Proof/Machine/Curve.lean ====
section
/-! DEFINITION. Verification of a signature of ECDSA over P-384 with SHA-384 (12_weights.md R336): the curve of FIPS 186-4 over its prime field. -/
namespace Sys2Proof.Machine

/-- The prime of the field, and the order of the base point. -/
def p384 : Nat := 2 ^ 384 - 2 ^ 128 - 2 ^ 96 + 2 ^ 32 - 1
def n384 : Nat := 0xFFFFFFFFFFFFFFFFFFFFFFFFFFFFFFFFFFFFFFFFFFFFFFFFC7634D81F4372DDF581A0DB248B0A77AECEC196ACCC52973

/-- The base point. -/
def base384 : Nat × Nat :=
  (0xAA87CA22BE8B05378EB1C71EF320AD746E1D3B628BA79B9859F741E082542A385502F25DBF55296C3A545E3872760AB7,
   0x3617DE4A96262C6F5D9E98BF9292DC29F8F41DBD289A147CE9DA3113B5F0B8C00A60B1CE1D7E819D7A431D7C90EA0E5F)

/-- The inverse of a number modulo a prime below 2^384, by its power p − 2, highest bit first. -/
def invMod (p a : Nat) : Nat :=
  (List.range 384).foldl (fun r i => let q := r * r % p; if (p - 2) / 2 ^ (383 - i) % 2 = 1 then q * a % p else q) 1

/-- The third point on the line of slope m through P and Q, mirrored. -/
def chord (m : Nat) (a b : Nat × Nat) : Nat × Nat :=
  let x := (m * m + 2 * p384 - a.1 - b.1) % p384
  (x, (m * (a.1 + p384 - x) + p384 - a.2) % p384)

/-- Sum of two points; `none` is the point at infinity.  The curve's coefficient a is −3. -/
def addPt : Option (Nat × Nat) → Option (Nat × Nat) → Option (Nat × Nat)
  | none, q => q
  | p, none => p
  | some a, some b =>
    if a.1 ≠ b.1 then some (chord ((b.2 + p384 - a.2) * invMod p384 ((b.1 + p384 - a.1) % p384) % p384) a b)
    else if a.2 ≠ b.2 ∨ a.2 = 0 then none
    else some (chord ((3 * a.1 * a.1 + p384 - 3) * invMod p384 (2 * a.2 % p384) % p384) a b)

/-- A multiple of a point, highest bit first. -/
def mulPt (k : Nat) (a : Nat × Nat) : Option (Nat × Nat) :=
  (List.range 384).foldl (fun r i => let d := addPt r r; if k / 2 ^ (383 - i) % 2 = 1 then addPt d (some a) else d) none

/-- The signature (r, s) of a message, given as bytes, verifies under a public key. -/
def verify384 (key : Nat × Nat) (msg : List Nat) (r s : Nat) : Bool :=
  let e := (sha384 msg).foldl (fun a w => a * 2 ^ 64 + w.toNat) 0
  let w := invMod n384 s
  decide (0 < r ∧ r < n384 ∧ 0 < s ∧ s < n384) &&
  (match addPt (mulPt (e * w % n384) base384) (mulPt (r * w % n384) key) with
    | none => false
    | some p => decide (p.1 % n384 = r))

end Sys2Proof.Machine
end

