-- ==== Sys2Proof/Machine/Faults.lean ====
section
/-! DEFINITION. The path of a fault record (20_faults.md R541 to R549), history and permanent units (R553 to R557), injection slots (R558) and
probe decks (R560 to R563). -/
namespace Sys2Proof.Machine

/-! ### Records -/

/-- The eight words of a record (R541), with PHASE in CLASS. -/
def FRec.words (r : FRec) (phase : Nat) : List Word :=
  let body := leBytes r.time 8 ++ leBytes r.hand 8 ++ leBytes r.unit 4 ++ [r.det, r.cls % 128 + 128 * phase] ++ leBytes r.count 2 ++
    leBytes r.opcode 2 ++ [r.lface, r.temp % 256] ++ leBytes r.rail 2 ++ leBytes r.seq 2 ++ leBytes r.addr 8 ++ leBytes r.detail0.toNat 8 ++ leBytes r.detail1.toNat 8 ++
    leBytes r.last 4
  let all := body ++ leBytes (crc32c body) 4
  (List.range 8).map (fun i => BitVec.ofNat 64 (((all.drop (8 * i)).take 8).foldr (fun b a => b + 256 * a) 0))

/-! ### History (R553, R554) -/

/-- The record counts in history. -/
def FRec.counts (r : FRec) : Bool :=
  decide (r.cls % 4 = 1) && r.hist && !([1, 18, 20, 21].contains (unitKind r.unit))

/-- ENTRIES and PERMANENT follow the store. -/
def State.noteHist (s : State) : State :=
  (s.wr R.FLT_HIST_STAT.ENTRIES 0 (min s.hist.length 65536)).wr R.FLT_HIST_STAT.PERMANENT 0
    (min 32767 (s.hist.filter (fun e => e.2.perm)).length)

/-- The entry that a new unit takes when the store is full: that of the non-permanent unit whose latest event is oldest. -/
def oldestEntry (h : SMap HEnt) : Option Nat :=
  (h.foldl (fun (a : Option (Nat × Nat)) e =>
    if e.2.perm then a
    else match a with
      | none => some (e.1, e.2.t1)
      | some b => if e.2.t1 < b.2 then some (e.1, e.2.t1) else some b) none).map Prod.fst

/-- What history makes of a counted record: the state, whether the unit becomes permanent with it, and whether it was not tracked. -/
def State.history (s : State) (r : FRec) : State × Bool × Bool :=
  let now := s.rd R.FLT_HIST_STAT.POWERED 0
  let known := s.hist.any (fun e => decide (e.1 = r.unit))
  let room : Option (SMap HEnt) :=
    if known || decide (s.hist.length < 65536) then some s.hist
    else (oldestEntry s.hist).map (fun u => mset {} s.hist u {})
  match room with
  | none => (s.wr R.FLT_STATUS.HIST_FULL 0 1, false, true)
  | some h =>
    let x := mget {} h r.unit
    let new := !x.perm && (bit r.cls 2 || decide (x.count ≥ 2 ∧ x.t2 + 86400 ≥ now))
    let y : HEnt := { perm := x.perm || new, count := min 65535 (x.count + 1), t1 := now, t2 := x.t1 }
    (({ s with hist := mset {} h r.unit y }).noteHist, new, false)

/-! ### Permanent units (R556) -/

/-- An array's retirement is on its way, or over. -/
def State.retiring (s : State) (f b a : Nat) : Bool :=
  decide (s.aState f b a ≥ 4) || s.acts.contains (.retire f b a)

/-- A unit without a spare is permanent. -/
def State.replaceUnit (s : State) : State := s.wr R.FLT_STATUS.REPLACE 0 1

/-- The action of R556 on a unit of no face. -/
def State.unitOther (s : State) (k place sub : Nat) : State :=
  if [9, 10, 13, 14, 15, 16, 17].contains k then { s.replaceUnit with unitDown := true }
  else if k = 12 then (s.portDown place false).wr R.LNK_PORT_STATE.STATE place 5
  else if k = 19 then (s.wr R.THM_SENSOR.IGNORED sub 1).wr R.THM_SENSOR.PERM sub 1
  else s

/-- The action of R556 on a unit that has become permanent. -/
def State.unitAction (s : State) (u : Nat) : State :=
  let k := unitKind u
  let place := nf u 23 3
  let b := nf u 17 6
  let a := nf u 10 7
  let sub := nf u 0 10
  match s.logicalOf place with
  | some f =>
    if k = 2 then s.startRetire f b a false
    else if k = 3 then
      if s.retiring f b a then s
      else if sub < 8 then s.swapConv f b a sub
      else if s.flag R.BLK_ARRAY_STATE.CONV_SPARED (ixA f b a) then s.startRetire f b a false
      else (s.wr R.BLK_ARRAY_STATE.CONV_SPARE_BAD (ixA f b a) 1).raise { det := .spareConvBad, unit := u }
    else if k = 4 ∨ k = 5 then
      if s.retiring f b a then s
      else
        let r := s.moveUnit f b a k sub
        if r.2 then r.1.startRetire f b a true else s.startRetire f b a false
    else if k = 6 ∨ k = 7 ∨ k = 8 then s.replaceUnit.faceFault f 6
    else s.unitOther k place sub
  | none => s.unitOther k place sub

/-! ### Logging (R546 to R549) -/

/-- HBM address of a slot of the log ring. -/
def State.logSlot (s : State) (i : Nat) : Nat :=
  s.rd R.FLT_LOG_CFG.STACK 0 * 2 ^ 36 + s.rd R.FLT_LOG_CFG.BASE 0 * 2 ^ 21 + 64 * (i % 2 ^ s.rd R.FLT_LOG_CFG.SIZE 0)

/-- Write a record into its slot of the log ring; false: the write is refused, or reads back poisoned. -/
def State.logWrite (s : State) (m : Nat) (ws : List Word) : State × Bool :=
  let a := s.logSlot m
  let g := a / 128
  if s.stackOn (hStack a) = false ∨ s.hasKey g = false then (s, false)
  else
    let r := s.hbmRead g
    let line := (List.range 16).map (fun i =>
      if a / 8 % 16 ≤ i ∧ i < a / 8 % 16 + 8 then (ws.getD (i - a / 8 % 16) 0#64, false) else r.2.getD i (0#64, false))
    let t := r.1.hbmWrite g line
    let back := t.hbmRead g
    (back.1, !(((back.2.drop (a / 8 % 16)).take 8).any Prod.snd))

/-- Write a record to the host ring (R547), sealed with the phase of this pass; `good`: the PCIe write succeeds. -/
def State.hostRing (s : State) (m : Nat) (r : FRec) (good : Bool) : State :=
  if s.rd R.FLT_HOST_RING.EN 0 = 0 then s
  else
    let size := s.rd R.FLT_HOST_RING.SIZE 0
    let used := (s.rd R.FLT_HOST_HEAD.TAIL 0 + 65536 - s.rd R.FLT_HOST_HEAD.HEAD 0) % 65536
    if used ≥ 2 ^ size ∨ good = false then s.bump R.FLT_HOST_HEAD.DROPPED 0
    else
      let t := (s.hostWrite 2 (s.rd R.FLT_HOST_RING.ADDR 0 * 4096 + 64 * (m % 2 ^ size)) (r.words (if m / 2 ^ size % 2 = 0 then 1 else 0))).wr R.FLT_HOST_HEAD.TAIL 0
        ((s.rd R.FLT_HOST_HEAD.TAIL 0 + 1) % 65536)
      let due := match s.hostIrqAt with
        | some at_ => decide (at_ + 10000 ≤ s.now)
        | none => true
      if s.rd R.FLT_HOST_HEAD.IRQ 0 = 1 ∧ due = true then { (t.msix 2 (s.rd R.FLT_HOST_HEAD.VECTOR 0)) with hostIrqAt := some s.now } else t

/-- A logging-path error while a record is handled (R549): the face it names stops, or the device starts no hands; nothing more is logged. -/
def State.logError (s : State) (r : FRec) (sub : Nat) : State :=
  let named : Option Nat :=
    if 1 ≤ unitKind r.unit ∧ unitKind r.unit ≤ 8 then s.logicalOf (nf r.unit 23 3) else none
  let t := match named with
    | some f => s.faceFault f 5
    | none => { s with logStop := true }
  let mk := t.marked { det := .logPath, unit := unitId 18 0 0 0 sub }
  let e : FRec := { time := s.now, hand := s.rd R.SYN_HAND_NUM.HAND 0, unit := unitId 18 0 0 0 sub, det := Det.logPath.row.1
                    cls := 2 + (if mk.2.injected then 32 else 0)
                    count := 1, opcode := 0, lface := 0xFF, addr := 0, detail0 := 0#64, detail1 := 0#64, last := 0, hist := false }
  ((mk.1.nvPut e).wr R.FLT_FATAL.LOG_PATH 0 1).faultN

/-- The reading nearest a unit in the last round, in °C (R541): T_b of a block, a sensor's own, a stack's own; which sensor is nearest another
unit the spec does not say: a reading of its face, or of the die (log entry 83). -/
def State.tempNear (s : State) (u : Nat) : State × Int :=
  let k := unitKind u
  let p := nf u 23 3
  let d := s.draw
  let deg (t : Option Int) : Int := t.getD 0 / 8
  if 2 ≤ k ∧ k ≤ 6 then (s, deg (match s.logicalOf p with
    | some f => s.blockTemp f (nf u 17 6)
    | none => none))
  else if k = 19 then (s, s.sensorTemp (nf u 0 10) / 8)
  else if k = 13 ∨ k = 14 then (s, deg (s.stackTemp p))
  else if k = 1 ∨ k = 7 ∨ k = 8 ∨ k = 9 ∨ k = 20 then (d.2, deg (s.rowTemp p (d.1 % 8)))
  else (d.2, deg (s.rowTemp (d.1 / 8 % 8) (d.1 % 8)))

/-- A unit's rail in the last round, in mV (R541): VARR, VSER 0.75 V, the nominal stack supply, VAON or VCORE. -/
def State.railOf (s : State) (u : Nat) : Nat :=
  let k := unitKind u
  let mv (c : Nat) : Nat := (mget 0 s.power.rails c).toNat
  if 2 ≤ k ∧ k ≤ 4 then mv 73
  else if k = 11 ∨ k = 12 then mv 76
  else if k = 13 ∨ k = 14 then Config.stackMv
  else if k = 18 then mv 78
  else mv 72

/-- FAULT_RECORD_PROCESS (R542): the platform controller takes the oldest queued record; `powered`: powered time in s; whether the storage of
the queue, the history store and the log ring are sound (R549), and the host ring's PCIe write. -/
def execFaultRecordProcess (powered : Nat) (queueOk histOk logOk hostOk : Bool) (s0 : State) : Host.Outcome State Fault Refusal :=
  ok (match s0.faultq with
    | [] => s0
    | r :: rest =>
      if s0.flag R.FLT_FATAL.LOG_PATH 0 then s0
      -- the report's message was dropped on the call ring (R73): the record does not come to the platform controller
      else if s0.ringLost.any (fun e => decide (e.1 = .faultReport)) then
        (({ s0 with faultq := rest } : State).wr R.FLT_STATUS.QUEUED 0 rest.length).ringGuard .faultReport (fun _ => true) id
      else
        let s : State := s0.wr R.FLT_HIST_STAT.POWERED 0 (max powered (s0.rd R.FLT_HIST_STAT.POWERED 0))
        let t : State := ({ s with faultq := rest }).wr R.FLT_STATUS.QUEUED 0 rest.length
        let hit (z : State) (sub : Nat) : Bool := (z.injSlot .logPath (unitId 18 0 0 0 sub)).isSome
        if queueOk = false ∨ hit t 0 = true then t.logError r 0
        else
          let h := if r.counts then t.history r else (t, false, false)
          if (histOk = false ∨ hit t 1 = true) ∧ r.counts = true then h.1.logError r 1
          else
            let cls := r.cls + (if h.2.1 then 8 else 0) + (if h.2.2 then 64 else 0)
            let near := h.1.tempNear r.unit
            let u := if h.2.1 then near.1.schedule (.unit r.unit) (fun z => z.unitAction r.unit) else near.1
            let m := u.rd R.FLT_LOG_NEXT.NEXT 0
            let x : FRec := { r with cls := cls, seq := m, temp := (near.2 % 256).toNat, rail := s.railOf r.unit }
            let v := u.logWrite m (x.words 0)
            let w := if r.cls % 4 = 2 ∨ h.2.1 = true then v.1.nvPut x else v.1
            if v.2 = false ∨ logOk = false ∨ hit w 2 = true then w.logError r 2
            else (w.hostRing m x hostOk).wr R.FLT_LOG_NEXT.NEXT 0 (m + 1))

/-! ### Reading and clearing -/

/-- HIST_QUERY (R553): a write of FLT_HIST_QUERY.UNIT. -/
def execHistQuery (unit : Nat) (s : State) : Host.Outcome State Fault Refusal :=
  let x := mget {} s.hist (unit % 2 ^ 32)
  ok ((((s.wr R.FLT_HIST_QUERY.UNIT 0 unit).wrB R.FLT_HIST_QUERY.FOUND 0 (s.hist.any (fun e => decide (e.1 = unit % 2 ^ 32)))).wrB
    R.FLT_HIST_QUERY.PERM 0 x.perm).wr R.FLT_HIST_QUERY.EVENTS 0 x.count)

/-- HIST_CLEAR (R557): a WRITE_REG of FLT_HIST_CLEAR with CLEAR set; writes through other paths are ignored. -/
def execHistClear (unit : Nat) (mgmt : Bool) (s : State) : Host.Outcome State Fault Refusal :=
  ok (if mgmt then
      let t := (({ s with hist := mset {} s.hist unit {} }).noteHist).wr R.FLT_HIST_CLEAR.UNIT 0 unit
      if unitKind unit = 19 then t.wr R.THM_SENSOR.PERM (nf unit 0 10) 0 else t
    else s)

/-- HIST_CLEAR_ALL (R557): a WRITE_REG of FLT_HIST_CLEAR with ALL set. -/
def execHistClearAll (mgmt : Bool) (s : State) : Host.Outcome State Fault Refusal :=
  ok (if mgmt then
      let t := ({ s with hist := [], nvLog := [] }).noteHist
      loop 72 t (fun u c => u.wr R.THM_SENSOR.PERM c 0)
    else s)

/-- LOG_READ (R546): a write of FLT_LOG_READ copies a slot of the log ring into FLT_LOG_DATA. -/
def execLogRead (slot : Nat) (s : State) : Host.Outcome State Fault Refusal :=
  let a := s.logSlot (slot % 2 ^ 20)
  let t := s.wr R.FLT_LOG_READ.SLOT 0 slot
  ok (if s.stackOn (hStack a) then
      let r := t.hbmRead (a / 128)
      loop 8 r.1 (fun u i => u.setReg .FLT_LOG_DATA i (r.2.getD (a / 8 % 16 + i) (0#64, false)).1)
    else t)

/-! ### Injection slots (R558) -/

/-- The slot arms at a boundary: LOG_PATH, and a hard detector that counts in history, only in the open state. -/
def State.armInj (s : State) (i : Nat) : State :=
  let x := mget {} s.injs i
  let d := s.rd R.FLT_INJ_CTL.DETECTOR i
  let hard := [0x06, 0x08, 0x33, 0x56].contains d
  if x.waits = false ∨ s.rd R.FLT_INJ_CTL.ARM i = 0 then s
  else if (d = 0x70 ∨ (hard = true ∧ s.rd R.FLT_INJ_CTL.HIST i = 1)) ∧ s.lifeOpen = false then s
  else { s with injs := mset {} s.injs i { waits := false, armed := true, next := 0 } }

/-- All slots at a boundary. -/
def State.bdyInj (s : State) : State := loop 8 s (fun t i => t.armInj i)

/-- A write of a slot is taken (R558): `path` is 0 for PF0, 1 for PF1, 2 for PF2, 7 for WRITE_REG. -/
def State.injAllowed (s : State) (path : Nat) : Bool :=
  if s.lifeOpen then decide (path = 1 ∨ path = 7)
  else decide (s.rd R.PLT_LIFECYCLE.STATE 0 = 2) && decide (path = 7) && decide (s.rd R.SRV_MODE.MODE 0 = 3)

/-- Write an injection slot. -/
def State.writeInj (s : State) (i : Nat) (ctl unit : Word) (path : Nat) : State :=
  if i ≥ 8 ∨ s.injAllowed path = false then s
  else
    let t := (s.setReg .FLT_INJ_CTL i (writeImage .FLT_INJ_CTL (fun _ => true) (s.reg .FLT_INJ_CTL i) ctl)).setReg .FLT_INJ_UNIT i unit
    let u : State := { t with injs := mset {} t.injs i (if t.rd R.FLT_INJ_CTL.ARM i = 1 then { waits := true } else {}) }
    u.orNow State.bdyInj

/-- INJ_ARM (R558): a write of slot i. -/
def execInjArm (i : Nat) (ctl unit : Word) (path : Nat) (s : State) : Host.Outcome State Fault Refusal := ok (s.writeInj i ctl unit path)

/-! ### Probe decks (R560 to R563) -/

/-- The waiting deck replaces the one that runs, at a boundary (R564). -/
def State.bdyDeck (s : State) : State :=
  match s.deckWaits with
  | none => s
  | some d => ({ s with deck := some d, deckWaits := none }).wr R.FLT_PROBE_STAT.STATE 0 1

/-- The `n` bytes of a deck at byte offset `at_`, and the words of a section there. -/
def deckBytes (ws : List Word) (at_ n : Nat) : List Nat := ((wordBytes ws).drop at_).take n
def deckSec (ws : List Word) (at_ n : Nat) : List Word := bytesWords ((n + 7) / 8) (deckBytes ws at_ n)

/-- A step entry of 128 bytes, with its sections (R560; lengths are bytes, log entry 82). -/
def deckStep (deck e : List Word) : DeckStep :=
  let g := wordsFld e
  { faces := g 0 1, unit := g 4 4, code := deckSec deck (g 8 4) (8 * g 12 4), input := deckSec deck (g 16 4) (g 20 4), inAt := g 24 4
    outAt := g 28 4, outLen := g 32 4, check := g 36 1, expect := BitVec.ofNat 64 (g 40 8)
    want := if g 36 1 = 1 then deckSec deck (g 40 8) (g 32 4) else [], tol := g 48 2, bound := g 52 4 }

/-- The sizes of a step entry hold: a program of at most 8,192 words, and every section within the deck. -/
def deckStepFits (bytes : Nat) (e : List Word) : Bool :=
  let g := wordsFld e
  decide (g 12 4 ≤ 8192 ∧ g 8 4 + 8 * g 12 4 ≤ bytes ∧ g 16 4 + g 20 4 ≤ bytes ∧ (g 36 1 = 1 → g 40 8 + g 32 4 ≤ bytes))

/-- SHA-384 as the words of a DIGEST. -/
def digestWords (bytes : List Nat) : List Word := (sha384 bytes).map (fun w => BitVec.ofNat 64 (numLE (beBytes w.toNat 8)))

/-- A step's DIGEST is that of its sections, one after the other (log entry 82). -/
def deckProven (deck e : List Word) : Bool :=
  let g := wordsFld e
  decide (digestWords (deckBytes deck (g 8 4) (8 * g 12 4) ++ deckBytes deck (g 16 4) (g 20 4) ++
    if g 36 1 = 1 then deckBytes deck (g 40 8) (g 32 4) else []) = (e.drop 8).take 6)

/-- The signature block at a byte offset verifies over a message under an enrolled image key (R336). -/
def State.signedAt (s : State) (ws : List Word) (at_ : Nat) (msg : List Nat) : Bool :=
  let num (i n : Nat) : Nat := numLE (deckBytes ws (at_ + i) n)
  match s.imgKeys.find? (fun k => decide (k.id = num 0 8)) with
  | none => false
  | some k => decide (num 8 1 = 1) && verify384 (k.x, k.y) msg (num 9 48) (num 57 48)

/-- Why a deck is refused (R560): 1 MAGIC or FORMAT, 2 signature, 3 digest, 4 size; 0 not. -/
def State.deckRefusal (s : State) (ws : List Word) : Nat :=
  let n := wordsFld ws 20 2
  let steps := (List.range n).map (fun i => (ws.drop (8 + 16 * i)).take 16)
  if wordsFld ws 0 4 ≠ 0x5650524B ∨ wordsFld ws 4 2 ≠ 1 then 1
  else if s.signedAt ws (wordsFld ws 24 8) (wordBytes (ws.take (8 + 16 * n))) = false then 2
  else if steps.any (fun e => !deckProven ws e) then 3
  else if n = 0 ∨ n > 64 ∨ 8 * ws.length < wordsFld ws 24 8 + 105 ∨ (wordsFld ws 12 1 ≠ 1 ∧ wordsFld ws 12 1 ≠ 2) ∨
    steps.any (fun e => !deckStepFits (8 * ws.length) e) = true then 4
  else 0

/-- The deck that a byte string holds, given as little-endian words (R560). -/
def deckOf (ws : List Word) : Deck :=
  { id := wordsFld ws 8 4, mode := wordsFld ws 12 1, repeats := if wordsFld ws 16 4 = 0 then none else some (wordsFld ws 16 4)
    steps := (List.range (wordsFld ws 20 2)).map (fun i => deckStep ws ((ws.drop (8 + 16 * i)).take 16)) }

/-- A deck is checked and loaded (R560). -/
def State.loadDeck (s : State) (ws : List Word) : State :=
  let bad := s.deckRefusal ws
  if bad ≠ 0 then (s.wr R.FLT_PROBE_STAT.STATE 0 3).wr R.FLT_PROBE_STAT.REFUSE 0 bad
  else
    let t := ({ s with deckWaits := some (deckOf ws) }).wr R.FLT_PROBE_STAT.DECK_ID 0 (deckOf ws).id
    (t.wr R.FLT_PROBE_STAT.REFUSE 0 0).orNow State.bdyDeck

/-- The next step of a deck on a face, with its place: the first from its place on that names the face. -/
def Deck.nextFor (d : Deck) (f : Nat) : Option (Nat × DeckStep) :=
  ((d.steps.zip (List.range d.steps.length)).find? (fun e => decide (mget 0 d.next f ≤ e.2) && bit e.1.faces f)).map (fun e => (e.2, e.1))

/-- The face has run the step: its place moves on, and starts the sequence again while repetitions are left. -/
def Deck.advance (d : Deck) (f i : Nat) : Deck :=
  let later := (d.steps.zip (List.range d.steps.length)).any (fun e => decide (i < e.2) && bit e.1.faces f)
  if later then { d with next := mset 0 d.next f (i + 1) }
  else { d with next := mset 0 d.next f 0, rounds := mset 0 d.rounds f (mget 0 d.rounds f + 1) }

/-- The face's repetitions are used up. -/
def Deck.overFor (d : Deck) (f : Nat) : Bool :=
  match d.repeats with
  | none => false
  | some n => decide (mget 0 d.rounds f ≥ n)

/-- Every face that a step names has finished. -/
def Deck.over (d : Deck) : Bool :=
  (List.range 8).all (fun f => d.overFor f || !(d.steps.any (fun e => bit e.faces f)))

/-- A BF16 code as an integer, so that neighbours in value differ by one. -/
def bfOrder (c : Nat) : Int := if c < 32768 then (c : Int) else 32768 - (c : Int)

/-- A BF16 element lies within `tol` ulp of another (R560); a NaN lies near none. -/
def bfNear (tol a b : Nat) : Bool :=
  decide (a % 32768 ≤ 0x7F80 ∧ b % 32768 ≤ 0x7F80) && decide ((bfOrder a - bfOrder b).natAbs ≤ tol)

/-- The lines that a step has written in this run: its input, and what its program left; all others read as zeros (R562). -/
def DeckStep.lines (d : DeckStep) (left : List (Nat × List Word)) : List (Nat × List Word) :=
  (List.range ((d.input.length + 15) / 16)).map (fun i => (d.inAt / 128 + i, (d.input.drop (16 * i)).take 16)) ++ left

/-- CHECK at the program's END (R560): CRC-64 of the range checked, or every element near the one expected. -/
def DeckStep.holds (d : DeckStep) (left : List (Nat × List Word)) : Bool :=
  let mem := (d.lines left).foldl (fun (m : SMap Nat) l =>
    (l.2.take 16).foldl (fun (c : SMap Nat × Nat) w => (mset 0 c.1 c.2 w.toNat, c.2 + 1)) (m, l.1 * 16) |>.1) []
  let byte (a : Nat) : Nat := mget 0 mem (a / 8) / 256 ^ (a % 8) % 256
  let out := (List.range d.outLen).map (fun i => byte (d.outAt + i))
  if d.check = 0 then decide (BitVec.ofNat 64 (crc64 out) = d.expect)
  else (List.range (d.outLen / 2)).all (fun i =>
    bfNear d.tol (out.getD (2 * i) 0 + 256 * out.getD (2 * i + 1) 0) (wordsFld d.want (2 * i) 2))

/-- PROBE_STEP (R561 to R563): face f runs its next step.  `end_`: 0 its program reaches END, 2 it traps, 3 the bound is exceeded, 4 it is not
complete at E and is abandoned; `left`: the lines of scratchpad that the program wrote, as it left them (address / 128, words; log entry 82). -/
def execProbeStep (f end_ : Nat) (left : List (Nat × List Word)) (s : State) : Host.Outcome State Fault Refusal :=
  let x := s.face f
  ok (match s.deck with
    | none => s
    | some d =>
      let fits := if d.mode = 1 then x.probeOk else decide (s.rd R.SRV_MODE.MODE 0 = 3)
      match d.nextFor f with
      | none => s
      | some st =>
        if fits = false ∨ x.run ≠ .ended ∨ x.endTime = none ∨ d.overFor f = true ∨ s.isDown f = true then s
        -- the bound must end 2 µs before E; fc of 0.625 ns
        else if s.now + st.2.bound * 5 / 8 + 2000 > s.hand.expiry then s
        else
          -- the resident region and lines that are no scratchpad stay as they are (R212)
          let t := s.modFace f (fun y => ((st.2.lines left).filter (fun l => decide (s.arrival f l.1 = .stored))).foldl (fun z l =>
            (l.2.take 16).foldl (fun (c : Face × Nat) w => (c.1.padPut c.2 w false, c.2 + 1)) (z, l.1 * 16) |>.1) y)
          if end_ ≥ 4 then t.bump R.FLT_PROBE_STAT.ABANDONED 0
          else
            let result := if end_ ≠ 0 then end_ else if !st.2.holds left || (t.injSlot .probeFail st.2.unit).isSome then 1 else 0
            let d1 := d.advance f st.1
            let u : State := { t with deck := some d1 }
            let v := if d1.over then u.wr R.FLT_PROBE_STAT.STATE 0 2 else u
            if result = 0 then
              let n := v.probeRest + 1
              ({ v with probeRest := n % 100 }).bumpBy R.FLT_PROBE_STAT.PASSED 0 (n / 100)
            else
              (v.bump R.FLT_PROBE_STAT.FAILED 0).raise
                { det := .probeFail, unit := st.2.unit, lface := f
                  d0 := BitVec.ofNat 64 (d.id + st.1 * 2 ^ 32 + result * 2 ^ 48) })

end Sys2Proof.Machine
end

