-- ==== Sys2Proof/Machine/Images.lean ====
section
/-! DEFINITION. Weight images (12_weights.md): opening and staging, load parcels, puts, builds, cuts, the background reader, tallies, and
RESTORE (22_host_reset_startup.md R604, 18_tenancy_and_management.md R505).  What the layout of a section's bytes leaves
open comes parsed (log entry 15). -/
namespace Sys2Proof
open Machine

/-- Words in runs of n. -/
def runsOf (n : Nat) (ws : List Word) : List (List Word) := (List.range (ws.length / n)).map (fun i => (ws.drop (n * i)).take n)

/-- A field of the header (R334), and the section table (R335). -/
def ImgOpen.fld (o : ImgOpen) (at_ n : Nat) : Nat := wordsFld o.header at_ n
def secEntry (ws : List Word) : SecEnt :=
  ⟨wordsFld ws 0 1, wordsFld ws 1 1, wordsFld ws 2 2, wordsFld ws 4 4, wordsFld ws 8 8, (ws.drop 2).take 6⟩
def ImgOpen.secs (o : ImgOpen) : List SecEnt := (runsOf 8 o.table).take (o.fld 36 4) |>.map secEntry

/-- Devices of a MANIFEST section: address, stage, replica (R335). -/
def manifestOf (ws : List Word) : List (Nat × Nat × Nat) := ws.map (fun w => (fget w 0 12, fget w 16 12, fget w 32 8))

/-- The signed message, and the fields of the signature block, taken one after the other (R336; log entry 78). -/
def ImgOpen.message (o : ImgOpen) : List Nat := wordBytes (o.header ++ o.table)
def ImgOpen.sigFld (o : ImgOpen) (at_ n : Nat) : Nat := numLE ((o.sig.drop at_).take n)

/-- The bytes that R334 and R336 do not name are zero. -/
def ImgOpen.zeros (o : ImgOpen) : Bool :=
  decide (o.fld 6 2 = 0 ∧ o.fld 12 4 = 0 ∧ o.fld 27 1 = 0 ∧ o.fld 34 2 = 0) && (o.header.drop 7).all (fun w => decide (w = 0#64)) &&
  (o.sig.drop 105).all (fun x => decide (x = 0))

/-- The first bytes of a word list, and whether they have the SHA-384 of a DIGEST (R335, R342). -/
def SecEnt.proven (e : SecEnt) (ws : List Word) : Bool :=
  decide (digestWords ((wordBytes ws).take e.len) = e.digest)

end Sys2Proof

namespace Sys2Proof.Machine

/-! ### STATE and refusals (R337) -/

/-- The report of a refusal: REFUSE, DETAIL and an information record. -/
def State.imageRefused (s : State) (code detail : Nat) : State :=
  ((s.wr R.PLT_WIMG_STATE.REFUSE 0 code).wr R.PLT_WIMG_STATE.DETAIL 0 (min detail (2 ^ 20 - 1))).raise
    { det := .imageRefused, unit := unitId 18 0 0 0 0, d0 := BitVec.ofNat 64 code, d1 := BitVec.ofNat 64 detail }

/-- A refusal at open or arrival leaves no image open. -/
def State.openRefused (s : State) (code detail : Nat) : State :=
  (({ s with img := none } : State).imageRefused code detail).wimgState 3

/-- First code whose need is unmet. -/
def firstCode (xs : List (Nat × Nat × Bool)) : Option (Nat × Nat) := (xs.find? (fun x => !x.2.2)).map (fun x => (x.1, x.2.1))

/-! ### Opening and staging (R338 to R342) -/

/-- The staging address after a section: sections start on 4,096-byte boundaries. -/
def stageNext (addr len : Nat) : Nat := addr + 4096 * cdiv len 4096

/-- Lay this device's sections out in the staging region, in the order of the table. -/
def laySections (dev : Nat) (addr : Nat) : List SecEnt → List ImgSec × Nat
  | [] => ([], addr)
  | e :: es =>
    let mine := decide (e.dev = 0xFFFF ∨ e.dev % 4096 = dev)
    let r := laySections dev (if mine then stageNext addr e.len else addr) es
    ({ ent := e, addr := addr, mine := mine } :: r.1, r.2)

/-- Present stacks. -/
def State.stackCount (s : State) : Nat := ((List.range 8).filter s.stackPresent).length

/-- A build, or a write of one, is in progress. -/
def State.building (s : State) : Bool := s.flag R.PLT_BUILD_CTL.BUSY 0

/-- The signature verifies under an enrolled key whose KEY_ID matches (R336). -/
def State.signedBy (s : State) (o : ImgOpen) : Bool :=
  match s.imgKeys.find? (fun k => decide (k.id = o.sigFld 0 8)) with
  | none => false
  | some k => decide (o.sigFld 8 1 = 1) && verify384 (k.x, k.y) o.message (o.sigFld 9 48) (o.sigFld 57 48)

/-- The deal domain, as cabled, has the shape that the header asks for, and the manifest names the device (code 7). -/
def State.domainMeets (s : State) (o : ImgOpen) : Bool :=
  decide (o.cabled.1 = o.fld 28 2 ∧ o.fld 30 2 ≤ o.cabled.2.1 ∧ o.fld 32 2 ≤ o.cabled.2.2) &&
  (manifestOf o.manifest).any (fun d => decide (d.1 = s.devAddr))

/-- The open checks (codes 1 to 8). -/
def State.openChecks (s : State) (o : ImgOpen) (stop : Nat) : List (Nat × Nat × Bool) :=
  let badTyp := (o.secs.findIdx? (fun e => decide (e.typ > 8)))
  [(1, 0, decide (o.fld 0 4 = 0x57594E52 ∧ o.fld 4 2 = 1)),
   (2, badTyp.getD 0, s.signedBy o && badTyp.isNone && o.zeros),
   (3, 0, decide (s.rd R.PLT_WIMG_FLOOR.FLOOR 0 ≤ o.fld 8 4)),
   (4, 0, decide (o.fld 24 1 ≤ s.nFaces)),
   (5, 0, decide (o.fld 25 1 ≤ s.stackCount)),
   (6, 0, decide (o.fld 26 1 = 0 ∨ s.rd R.PLT_CAP_UNITS.REACH 0 = 1)),
   (7, 0, s.domainMeets o),
   (8, 0, decide (stop ≤ o.base + o.room) && s.inWreg o.base && s.inWreg (o.base + o.room - 1))]

/-- Every section addressed to the device is staged: STAGED. -/
def State.stagedCheck (s : State) : State :=
  match s.img with
  | some x => if x.secs.all (fun e => !e.mine || e.staged) then s.wimgState 2 else s
  | none => s

/-- Load parcels of the words of a section to a device (R339): at most 32 lines each, routed like any parcel. -/
def State.sendLoad (s : State) (x : Img) (dst i : Nat) (ws : List Word) : State :=
  loop (cdiv ws.length 512) s (fun t k =>
    match t.route dst with
    | none => t.bump R.LNK_PARCEL_STAT.UNROUTABLE 0
    | some (port, dl) =>
      let d := (ws.drop (512 * k)).take 512
      let pad := d ++ List.replicate (16 * cdiv d.length 16 - d.length) 0#64
      let p : Parcel := { kind := 3, poison := false, vl1 := dl, dst := dst, src := t.devAddr, face := 0, win := 0, offset := i
                          lines := pad.length / 16, hand := 0, seq := 0, epoch := 0, ctr := 0, amount := x.version
                          slot := 4096 * k, model := x.model, data := pad }
      t.portOut port (.parcel port p.sealed))

/-- Section index of the header and table in load parcels, which the spec does not give (log entry 16). -/
def headSection : Nat := 2 ^ 32 - 1

/-- Devices to which the loader sends a section addressed to `dev`. -/
def State.loadTo (s : State) (x : Img) (dev : Nat) : List Nat :=
  (if dev = 0xFFFF then x.devs else [dev % 4096]).filter (fun d => decide (d ≠ s.devAddr))

/-- Open an image: the checks, the layout of the staging region, and on a loader the header and table to the other devices. -/
def State.openImage (s : State) (o : ImgOpen) (own : Bool) : State :=
  let l := laySections s.devAddr o.base o.secs
  match firstCode (s.openChecks o l.2) with
  | some c => s.openRefused c.1 c.2
  | none =>
    let x : Img := { version := o.fld 8 4, model := o.fld 16 8, own := own, base := o.base, room := o.room, secs := l.1
                     devs := (manifestOf o.manifest).map Prod.fst }
    let s1 : State := { s with img := some x, discardWaits := false, lastImg := some (o.fld 16 8, sha384 o.message) }
    let s2 := s1.wimgState 1
    let s3 := if own = true ∧ s.rd R.PLT_WIMG_CTL.LOADER 0 = 1 then
        ((o.secs.flatMap (fun e => s.loadTo x e.dev)).eraseDups).foldl (fun t d => t.sendLoad x d headSection (o.header ++ o.table)) s2 else s2
    s3.stagedCheck

/-- WIMG_OPEN (R338): PLT_WIMG_CTL.OPEN, with what the device reads at PLT_WIMG_SRC; refused under code 15 while a build runs from the
staged image and on a retired device. -/
def execWimgOpen (o : ImgOpen) (s : State) : Host.Outcome State Fault Refusal :=
  ok (if s.building = true ∨ s.rd R.PLT_LIFECYCLE.STATE 0 = 3 then s.imageRefused 15 0 else s.openImage o true)

/-- WIMG_DISCARD (R342, R364): PLT_WIMG_CTL.DISCARD; it waits for a restore in progress. -/
def execWimgDiscard (s : State) : Host.Outcome State Fault Refusal :=
  ok (if s.restoring then { s with discardWaits := true } else s.discard)

/-- Change a section of the open image. -/
def Img.modSec (x : Img) (i : Nat) (g : ImgSec → ImgSec) : Img := { x with secs := x.secs.modify i g }

/-- Write words to consecutive granules. -/
def State.hbmWords (s : State) (a : Nat) (ws : List Word) : State :=
  loop (cdiv ws.length 16) s (fun t k =>
    let d := (ws.drop (16 * k)).take 16
    t.hbmWrite (a / 128 + k) ((d ++ List.replicate (16 - d.length) 0#64).map (fun w => (w, false))))

/-- What a staged manifest tells the device: its place and the devices of the domain (R335). -/
def State.takeManifest (s : State) (devs : List (Nat × Nat × Nat)) (seatMax : Nat) : State :=
  let own := devs.find? (fun d => decide (d.1 = s.devAddr))
  { s with manifest := devs, seatMax := seatMax
           place := own.map (fun d => (d.2.1, d.2.2, (devs.filter (fun e => decide (e.2.2 = d.2.2))).length)) }

/-- What a section of a TYPE holds: from its bytes as far as R335 gives their layout, the rest as parsed; a TYPE and contents that do not go together
give none. -/
def secHolds (typ : Nat) (ws : List Word) (data : SecData) : Option SecData :=
  match data with
  | .manifest _ n => if typ = 0 then some (.manifest (manifestOf ws) n) else none
  | .program _ => if typ = 1 then some (.program ws) else none
  | .map sets => if typ = 2 then some (.map sets) else none
  | .arrays w _ => if typ = 3 then some (.arrays w (runsOf 4176 ws)) else none
  | .columns w sc bi => if typ = 4 then some (.columns w sc bi) else none
  | .spall parts => if typ = 5 then some (.spall parts) else none
  | .fine bs ls => if typ = 6 then some (.fine bs ls) else none
  | .digests _ => if typ = 7 then
      some (.digests (((runsOf 6 ws).zip (List.range ws.length)).map (fun e => (e.2, e.1.map (fun w => BitVec.ofNat 64 (numBE (leBytes w.toNat 8))))))) else none
  | .cutplan gs => if typ = 8 then some (.cutplan gs) else none

/-- The last byte of a section has arrived by load parcels of at most 4,096 bytes (R342, R430). -/
def ImgSec.whole (e : ImgSec) : Bool := (List.range (cdiv e.ent.len 4096)).all (fun k => e.got.contains (4096 * k))

/-- A section's words, as they stand in the staging region, read back with what the reads leave; an unreadable word reads as an altered one. -/
def State.stagedWords (s : State) (e : ImgSec) : State × List Word :=
  let r := s.hbmReadRun (e.addr / 128) (cdiv e.ent.len 128)
  (r.1, r.2.map (fun w => if w.2 then ~~~ w.1 else w.1))

/-- A loader works through the sections in the order of the table (R339); another device's sections come as they come. -/
def State.loads (s : State) (x : Img) : Bool := x.own && decide (s.rd R.PLT_WIMG_CTL.LOADER 0 = 1)

/-- SECTION_STAGED (R339, R342): the last byte of section i has arrived: at the device that opened the image it has been read over PCIe as `words`, else
load parcels have brought it into the staging region.  A loader sends it on.  With another SHA-384 than DIGEST the image is refused under code 9. -/
def execSectionStaged (i : Nat) (words : List Word) (data : SecData) (s : State) : Host.Outcome State Fault Refusal :=
  ok (match s.img with
    | none => s
    | some x0 =>
      match x0.secs[i]? with
      | none => s
      | some e =>
        if e.staged = true ∨ (s.loads x0 = true ∧ i ≠ x0.worked) ∨ (x0.own = false ∧ (e.mine && e.whole) = false) then s
        else
          let x := if s.loads x0 then { x0 with worked := i + 1 } else x0
          let s0 : State := { s with img := some x }
          let s1 := if s.loads x then (s.loadTo x e.ent.dev).foldl (fun t d => t.sendLoad x d i words) s0 else s0
          if e.mine = false then s1
          else
            let r := if x.own then (s1.hbmWords e.addr words, words) else s1.stagedWords e
            let ws := r.2.take (cdiv e.ent.len 8)
            if e.ent.proven ws = false then r.1.openRefused 9 i
            else
              let held := secHolds e.ent.typ ws data
              let s2 := match held with
                | some (.manifest devs n) => r.1.takeManifest devs n
                | _ => r.1
              ({ s2 with img := some (x.modSec i (fun y => { y with staged := true, data := held })) } : State).stagedCheck)

/-- LOAD_PARCEL (R340): forwarded, or written at its section's offset in the staging region; one of another image, and one with none open and
ACCEPT 0, are dropped and counted in DROPPED, and one whose seal fails is dropped and counted as a seal failure (R431); the parcel that completes
header and table opens the image (`open_`). -/
def execLoadParcel (port : Nat) (p : Parcel) (open_ : Option ImgOpen) (s0 : State) : Host.Outcome State Fault Refusal :=
  let s := s0.bump R.LNK_PARCEL_STAT.PARCELS port
  let drop := s.bump R.PLT_WIMG_STATE.DROPPED 0
  ok (if p.dst ≠ s.devAddr then s.forwardParcel port p
      else if p.sealOk = false then s.bump R.LNK_PARCEL_STAT.SEAL_FAIL port
      else match s.img with
      | none =>
        if s.rd R.PLT_WIMG_CTL.ACCEPT 0 = 0 ∨ s.rd R.PLT_LIFECYCLE.STATE 0 = 3 then drop
        else match open_ with
          | some o => s.openImage o false
          | none => s
      | some x =>
        if x.model ≠ p.model ∨ x.version ≠ p.amount then drop
        else match x.secs[p.offset]? with
          | some e => if e.mine = true ∧ e.staged = false then
              { s.hbmWords (e.addr + p.slot) p.data with img := some (x.modSec p.offset (fun y => { y with got := y.got ++ [p.slot] })) } else s
          | none => s)

/-! ### Puts (R343) -/

/-- Two byte ranges meet. -/
def rangesMeet (a n b m : Nat) : Bool := decide (n ≠ 0 ∧ m ≠ 0 ∧ a < b + m ∧ b < a + n)

/-- Reason for which a put is refused. -/
def State.putReason (s : State) : Option Nat :=
  let d := s.rd R.PLT_PUT_DST.ADDR 0
  let n := s.rd R.PLT_PUT_CTL.LEN 0
  let p := hStack d
  let staging := match s.img with
    | some x => rangesMeet d n x.base x.room
    | none => false
  if d % 128 ≠ 0 ∨ s.rd R.PLT_PUT_SRC.ADDR 0 % 128 ≠ 0 ∨ n % 128 ≠ 0 ∨ n = 0 then some 1
  else if hStack (d + n - 1) ≠ p ∨ s.usable d = false ∨ s.inWreg d = false ∨ s.inWreg (d + n - 1) = false then some 2
  else if staging || rangesMeet d n (s.logSlot 0) (64 * 2 ^ s.rd R.FLT_LOG_CFG.SIZE 0) then some 3
  else if s.rd R.PLT_PUT_CTL.BUSY 0 = 1 then some 4
  else none

/-- PUT (R343): PLT_PUT_CTL.START. -/
def execPut (s : State) : Host.Outcome State Fault Refusal :=
  ok (match s.putReason with
    | some r => ((s.wr R.PLT_PUT_CTL.REFUSE 0 1).wr R.PLT_PUT_CTL.REASON 0 r).msix 1 5
    | none => { s.wr R.PLT_PUT_CTL.BUSY 0 1 with put := some (s.rd R.PLT_PUT_DST.ADDR 0, s.rd R.PLT_PUT_CTL.LEN 0) })

/-- PUT_DONE (R343): the put's last granule is written, with what was read at its source. -/
def execPutDone (words : List Word) (s : State) : Host.Outcome State Fault Refusal :=
  ok (match s.put with
    | none => s
    | some (d, n) =>
      let ws := (words ++ List.replicate (n / 8 - words.length) 0#64).take (n / 8)
      ((({ s with put := none } : State).hbmWords d ws).wr R.PLT_PUT_CTL.BUSY 0 0).wr R.PLT_PUT_CTL.DONE 0 1 |>.msix 1 5)

/-! ### Array records and builds (R347, R348) -/

/-- Code 10 on a weight set: each record's CRC-64 agrees, and its codes obey R77 and R78. -/
def Img.recordsBad (x : Img) (f : Nat) (m : MapEnt) : Option Nat :=
  let rs := x.recordsOf f m.w
  if rs.length ≠ m.count then some ((rs.head?.map Prod.fst).getD 0)
  else (rs.zip (List.range rs.length)).findSome? (fun e =>
    let r := recordOf e.1.2
    if r.2.2.2.2.1 ≠ r.2.2.2.2.2 ∨ (badPosition m.fmt (m.rows e.2) (m.cols e.2) r.1).isSome = true then some e.2 else none)

/-- Code 11: scales and biases are finite. -/
def Img.columnsBad (x : Img) (f : Nat) (m : MapEnt) : Option Nat :=
  match x.columnsOf f m.w with
  | none => none
  | some (i, sc, bi) => if (sc ++ bi).all (fun v => (ofBf16 v).isFin) then none else some i

/-- A line of a face lies in its resident region. -/
def State.isResident (s : State) (f line : Nat) : Bool := (s.residentLines f).any (fun i => decide (i.1 ≤ line ∧ line ≤ i.2))

/-- Code 12: the spall table and shadow rows obey R153. -/
def State.spallBad (s : State) (x : Img) (f c : Nat) (m : MapEnt) : Option Nat :=
  let sp := m.spall c
  let n := fw sp R.ARF_SPALL.COUNT
  if n = 0 then none
  else match x.spallOf f m.w c with
  | none => some 0
  | some (i, tab, rows) =>
    let es := (tab.take n).map (fun v => (fget v 0 21, fget v 24 18))
    let len := tileLen m.k m.blocks (fw m.lo R.ARF_WSMAP_LO.ROWS_LAST)
    let rowLines := cdiv (m.n * 64) 128
    let cols := (m.n - 1) * 256 + fw m.lo R.ARF_WSMAP_LO.COLS_LAST
    let sorted := decide (es.length = n ∧ rows.length = n) && (es.zip (es.drop 1)).all (fun p => decide (p.1.1 < p.2.1))
    let inside := es.all (fun e => decide (e.1 < len))
    let codes := rows.all (fun r =>
      let a := r.toArray
      (List.range cols).all (fun j => !badCode m.fmt ((a.getD (j / 32) 0#64).toNat / 4 ^ (j % 32) % 4)))
    let lines := (List.range (cdiv (8 * n) 128)).map (fun l => fw sp R.ARF_SPALL.TABLE + l) ++
      es.flatMap (fun e => (List.range rowLines).map (fun l => e.2 + l))
    if sorted && inside && codes && lines.all (s.isResident f) then none else some i

/-- Arrays of a live copy of this image that are LOST, by AIDX, which a build of the live copy restores (R351). -/
def State.lostOf (s : State) (f c : Nat) (m : MapEnt) : List Nat :=
  (List.range m.count).filter (fun i =>
    match s.slotPhys f (m.place c i).1 (m.place c i).2 with
    | some a => decide (s.aState f (m.place c i).1 a = 6)
    | none => false)

/-- A weight set whose target is its live copy. -/
def State.targetLive (s : State) (f c : Nat) (m : MapEnt) : Bool := s.built f m.w c && decide (s.wsLive f m.w = c)

/-- Fields of an entry that both copies share. -/
def sharedMask : Word := BitVec.ofNat 64 ((2 ^ 49 - 1) * 16)

/-- Code 13: the entry is valid, and no target slot is a live copy's, the roving check array's, or one whose array is being copied (R108, R109). -/
def State.mapBad (s : State) (f c : Nat) (m : MapEnt) : Bool :=
  let p := m.at_ c
  let kn := m.k * m.n
  decide (m.w ≥ 4096 ∨ m.k = 0 ∨ m.n = 0 ∨ kn > 64 ∨ p.1 + m.blocks > 63 ∨ p.2 + kn > 64 ∨ m.fmt = 3) ||
  (s.built f m.w (1 - c) && decide (s.wsLive f m.w = 1 - c) &&
    decide ((s.reg .ARF_WSMAP_LO (ix 4096 f m.w) &&& sharedMask) ≠ (m.lo &&& sharedMask))) ||
  (List.range m.count).any (fun i =>
    let q := m.place c i
    match s.slotPhys f q.1 q.2 with
    | none => true
    | some a => s.slotLive f q.1 q.2 || s.isRetiring f q.1 a ||
      (decide (s.rd R.BLK_SPARE.CHECK (ixB f q.1) = a) && s.flag R.BLK_SPARE.CHECK_VALID (ixB f q.1)))

/-- Code 14: a worn array stands behind a target slot. -/
def State.wornAt (s : State) (f c : Nat) (m : MapEnt) : Option Nat :=
  (List.range m.count).find? (fun i =>
    match s.slotPhys f (m.place c i).1 (m.place c i).2 with
    | some a => s.worn f (m.place c i).1 a
    | none => false)

/-- Weight sets that a build of a group (none: ALL) covers: face, section, entry. -/
def State.buildSets (s : State) (x : Img) (group : Option Nat) : List (Nat × Nat × MapEnt) :=
  (List.range s.nFaces).flatMap (fun f =>
    (x.entries f).filterMap (fun e => if group = none ∨ group = some e.2.group then some (f, e.1, e.2) else none))

/-- First unmet need of a build into copy c (codes 10 to 14), all weight sets under one code before the next. -/
def State.buildCheck (s : State) (x : Img) (c : Nat) (sets : List (Nat × Nat × MapEnt)) : Option (Nat × Nat) :=
  let fresh := sets.filter (fun e => !s.targetLive e.1 c e.2.2)
  let live := sets.filter (fun e => s.targetLive e.1 c e.2.2)
  let first (code : Nat) (g : Nat × Nat × MapEnt → Option Nat) : Option (Nat × Nat) := (sets.findSome? g).map (fun d => (code, d))
  [first 10 (fun e => x.recordsBad e.1 e.2.2),
   first 11 (fun e => x.columnsBad e.1 e.2.2),
   first 12 (fun e => s.spallBad x e.1 c e.2.2),
   (fresh.find? (fun e => s.mapBad e.1 c e.2.2)).map (fun e => (13, e.2.1)),
   -- a build of a live copy only restores arrays it has lost (R351)
   if live ≠ [] ∧ live.all (fun e => (s.lostOf e.1 c e.2.2).isEmpty || decide (s.copyVer e.1 e.2.2.w c ≠ x.version)) = true then
     some (13, (live.head?.map (fun e => e.2.1)).getD 0) else none,
   (fresh.findSome? (fun e => s.wornAt e.1 c e.2.2)).map (fun d => (14, d))].findSome? id

/-- A line of the resident region with new words. -/
def Face.resLine (x : Face) (line : Nat) (ws : List Word) : Face :=
  ((ws.take 16).foldl (fun (a : Face × Nat) v => (a.1.padPut a.2 v false, a.2 + 1)) (x, line * 16)).1

/-- Write a line of the resident region (R212).  Reads in a hand that runs return its old or its new contents: a draw says which, and the old ones
stand until the hand ends (DESIGN CHOICE: one draw per line and write, log entry 74). -/
def State.putResident (s : State) (f line : Nat) (ws : List Word) : State :=
  let late := s.hand.running && decide (s.draw.1 % 2 = 1)
  let t := if s.hand.running then s.draw.2 else s
  if late then t.modFace f (fun x => { x with resLate := x.resLate ++ [(line, ws)] })
  else
    (t.modFace f (fun x => { x.resLine line ws with resLate := x.resLate.filter (fun e => decide (e.1 ≠ line)) })).injBytes f
      (line * 128) (8 * (ws.take 16).length)

/-- Every resident line stands as last written. -/
def Face.settleRes (x : Face) : Face := { x.resLate.foldl (fun y e => y.resLine e.1 e.2) x with resLate := [] }

/-- At the end of a hand the lines written in it stand. -/
def State.bdyResident (s : State) : State := loop s.nFaces s (fun t f => t.modFace f Face.settleRes)

/-- Write words from a line on. -/
def State.putResidentRun (s : State) (f line : Nat) (ws : List Word) : State :=
  loop (cdiv ws.length 16) s (fun t k => t.putResident f (line + k) ((ws.drop (16 * k)).take 16))

/-- Write the spall table and shadow rows of a copy, and set LOADED (R153, R154). -/
def State.loadSpall (s : State) (x : Img) (f w c : Nat) : State :=
  let i := spallIx f w c
  if s.rd R.ARF_SPALL.COUNT i = 0 then s
  else match x.spallOf f w c with
  | none => s
  | some (_, tab, rows) =>
    let n := s.rd R.ARF_SPALL.COUNT i
    let s1 := s.putResidentRun f (s.rd R.ARF_SPALL.TABLE i) (tab.take n)
    (((tab.take n).zip rows).foldl (fun t e => t.putResidentRun f (fget e.1 24 18) e.2) s1).wr R.ARF_SPALL.LOADED i 1

/-- Copies of other weight sets, not live, whose slots overlap a target's lose READY, and the target does (R347 step 2). -/
def State.clearReady (s : State) (f c : Nat) (m : MapEnt) : State :=
  let s1 := (s.setReady f m.w c false).modCopy f m.w c (fun _ => {})
  (List.range m.count).foldl (fun t i =>
    (List.range 4096).foldl (fun u w =>
      if w ≠ m.w ∧ u.wsValid f w = true ∧ u.copyIsReady f w (1 - u.wsLive f w) = true ∧
          (u.copyIdx f w (1 - u.wsLive f w) (m.place c i).1 (m.place c i).2).isSome = true
      then u.setReady f w (1 - u.wsLive f w) false else u) t) s1

/-- Step 6 of R347: the map entry's copy fields, with the shared ones, ARF_SPALL and the version; a weight set that had no live copy takes
its other copy as live until a cut (R353). -/
def State.writeEntry (s : State) (f c version : Nat) (m : MapEnt) : State :=
  let i := ix 4096 f m.w
  let p := m.at_ c
  let fresh := !s.built f m.w (s.wsLive f m.w)
  let keep := s.reg .ARF_WSMAP_LO i &&& 12#64
  let live := if fresh then 1 - c else s.wsLive f m.w
  let s1 := ((s.setReg .ARF_WSMAP_LO i ((m.lo &&& sharedMask) ||| keep)).wr R.ARF_WSMAP_LO.VALID i 1).wr R.ARF_WSMAP_LO.LIVE i live
  let s2 := if c = 0 then (s1.wr R.ARF_WSMAP_HI.A_BLOCK i p.1).wr R.ARF_WSMAP_HI.A_SLOT i p.2
            else (s1.wr R.ARF_WSMAP_HI.B_BLOCK i p.1).wr R.ARF_WSMAP_HI.B_SLOT i p.2
  ((s2.setReg .ARF_SPALL (spallIx f m.w c) (m.spall c)).wr R.ARF_SPALL.LOADED (spallIx f m.w c) 0).wr (verFld c) i version

/-- Build one weight set into copy c. -/
def State.buildSet (s : State) (x : Img) (c : Nat) (f : Nat) (m : MapEnt) : State :=
  let s1 := (s.clearReady f c m).writeEntry f c x.version m
  let cb := x.columnsOf f m.w
  let s2 := s1.modCopy f m.w c (fun y =>
    match cb with
    | some (_, sc, bi) => { y with group := m.group, hasBias := !bi.isEmpty
                                   scale := loop sc.length [] (fun a j => mset 0 a j (sc.getD j 0))
                                   bias := loop bi.length [] (fun a j => mset 0 a j (bi.getD j 0)) }
    | none => { y with group := m.group })
  (List.range m.count).foldl (fun t i =>
    let q := m.place c i
    match t.slotPhys f q.1 q.2 with
    | some a => match x.job f c i a 3 0 q.2 q.1 m with
      | some j => { t with writes := t.writes ++ [j] }
      | none => t
    | none => t) (s2.loadSpall x f m.w c)

/-- Restore the lost arrays of a live copy (R351). -/
def State.restoreLost (s : State) (c : Nat) (f : Nat) (m : MapEnt) : State :=
  (s.lostOf f c m).foldl (fun t i =>
    let q := m.place c i
    match t.slotPhys f q.1 q.2 with
    | some a => match t.recordFor f q.1 a with
      | some j =>
        let r := t.spareFor f q.1
        match r.2 with
        | some d => { r.1 with writes := r.1.writes ++ [{ j with arr := d, src := a, host := true }] }
        | none => r.1
      | none => t
    | none => t) s

/-- Bytes that a live fine table refers to (R356): each base it holds, to the end of the block written there. -/
def Face.fineRefs (x : Face) : List (Nat × Nat) :=
  (x.fineLive.flatMap (fun l => (List.range 16).map (fun k => (x.padWord (l.1 * 16 + k)).data.toNat))).map (fun a =>
    (a, max 1 (((x.fineBlks.find? (fun e => decide (e.1 = a))).map Prod.snd).getD 1)))

/-- FINE blocks of the groups built, to HBM or to resident segments of G1; one that meets what a live fine table refers to is not written, nor is a
resident block outside the segments of SPD_RES_G1 (R348; log entry 79). -/
def State.writeFine (s : State) (x : Img) (f : Nat) (inGroup : Nat → Bool) : State :=
  let fl := x.fineOf f
  let refs := (s.face f).fineRefs
  let s1 := fl.1.foldl (fun t0 b =>
    if inGroup b.group = false ∨ refs.any (fun r => decide (r.1 < b.addr + 8 * b.words.length ∧ b.addr < r.1 + r.2)) = true then t0
    else
    let t := t0.modFace f (fun y => { y with fineBlks := y.fineBlks.filter (fun e => decide (e.1 ≠ b.addr)) ++ [(b.addr, 8 * b.words.length)] })
    if b.resident then
      let l0 := b.addr / 128
      let n := cdiv b.words.length 16
      if (List.range n).all (fun k => decide (49152 ≤ l0 + k ∧ l0 + k < 98304) && t.isResident f (l0 + k)) then t.putResidentRun f l0 b.words else t
    else t.hbmWords b.addr b.words) s
  s1.modFace f (fun y => { y with fineLines := y.fineLines.filter (fun l => !fl.2.any (fun k => inGroup k.group &&
      decide (k.group = l.2.group ∧ k.copy = l.2.copy ∧ k.line = l.2.line))) ++ (fl.2.filter (fun k => inGroup k.group)).map (fun k => (x.version, k)) })

/-- BUILD (R347): PLT_BUILD_CTL.START. -/
def execBuild (s : State) : Host.Outcome State Fault Refusal :=
  let c := s.rd R.PLT_BUILD_CTL.COPY 0
  let group : Option Nat := if s.rd R.PLT_BUILD_CTL.ALL 0 = 1 then none else some (s.rd R.PLT_BUILD_CTL.GROUP 0)
  ok (match s.img with
    | none => s.imageRefused 15 0
    | some x =>
      if s.rd R.PLT_WIMG_STATE.STATE 0 ≠ 2 ∨ s.building = true ∨ s.rd R.PLT_BOOT_CTL.BUSY 0 = 1 ∨ s.rd R.PLT_LIFECYCLE.STATE 0 = 3 then
        s.imageRefused 15 0
      else
        let sets := s.buildSets x group
        match s.buildCheck x c sets with
        | some e => s.imageRefused e.1 e.2
        | none =>
          let s1 := sets.foldl (fun t e =>
            if s.targetLive e.1 c e.2.2 then t.restoreLost c e.1 e.2.2 else t.buildSet x c e.1 e.2.2) (s.wr R.PLT_BUILD_CTL.BUSY 0 1)
          let s2 := loop s.nFaces { s1 with lastVer := x.version } (fun t f => t.writeFine x f (fun g => decide (group = none ∨ group = some g)))
          s2.grantWrites.buildEnd)

/-! ### Cuts (R353 to R356) -/

/-- CUT_REQ (R353): PLT_CUT_CTL.REQ; the request waits for its boundary. -/
def execCutReq (s : State) : Host.Outcome State Fault Refusal := ok (s.wr R.PLT_CUT_CTL.REQ 0 1)

/-- A copy of a weight set is of the image that was built last, in a group (none: in any). -/
def State.ofBuild (s : State) (group : Option Nat) (f w c : Nat) : Bool :=
  s.built f w c && decide (s.copyVer f w c = s.lastVer) && (match group with
    | none => true
    | some g => decide ((s.wcopy f w c).group = g))

/-- The map of the staged image names a weight set in a group; it counts while that image is the one built last. -/
def State.planned (s : State) (g f w : Nat) : Bool :=
  match s.img with
  | none => false
  | some x => decide (x.version = s.lastVer) && (x.entries f).any (fun e => decide (e.2.w = w ∧ e.2.group = g))

/-- Weight sets of a cut, face and W (R353, R357): a group's are those of the image built last, built or not; ALL takes every set of which that image
brought a copy, and every set with another copy ready that no image brought (R297).  The spec does not say which image's groups a cut
means (DEDUCED, log entry 79). -/
def State.cutSets (s : State) (group : Option Nat) : List (Nat × Nat) :=
  (List.range s.nFaces).flatMap (fun f => ((List.range 4096).filter (fun w =>
    let other := 1 - s.wsLive f w
    s.ofBuild group f w 0 || s.ofBuild group f w 1 ||
    (match group with
      | some g => s.planned g f w
      | none => s.wsValid f w && s.copyIsReady f w other && decide (s.copyVer f w other = 0)))).map (fun w => (f, w)))

/-- Copy that a group's cut makes live on a face: that of its weight sets, else the other one. -/
def State.cutCopy (s : State) (f g : Nat) (sets : List (Nat × Nat)) : Nat :=
  match sets.find? (fun e => decide (e.1 = f) && decide ((s.wcopy f e.2 (s.wsLive f e.2)).group = g)) with
  | some e => s.wsLive f e.2
  | none => if (s.face f).fineLines.any (fun l => decide (l.2.group = g ∧ l.2.copy = 1)) &&
              (s.face f).fineLines.any (fun l => decide (l.2.group = g ∧ l.2.copy = 0)) then
              (match (s.face f).fineLines.find? (fun l => decide (l.2.group = g ∧ l.2.copy = 0)) with
               | some l => if (l.2.words.zip (List.range 16)).all (fun k => decide (((s.face f).padWord (l.2.line * 16 + k.2)).data = k.1)) then 1 else 0
               | none => 0)
            else (((s.face f).fineLines.find? (fun l => decide (l.2.group = g))).map (fun l => l.2.copy)).getD 0

/-- Write the fine-table lines of a group for a copy (R356). -/
def State.writeLines (s : State) (f g c : Nat) : State :=
  ((s.face f).fineLines.filter (fun l => decide (l.2.group = g ∧ l.2.copy = c))).foldl (fun t l =>
    (t.putResident f l.2.line l.2.words).modFace f (fun y => { y with fineLive := mset 0 y.fineLive l.2.line l.1 })) s

/-- A cut at the boundary after its hand: every weight set flips, or none. -/
def State.bdyCut (s : State) : State :=
  let h := s.rd R.SYN_HAND_NUM.HAND 0
  if s.rd R.PLT_CUT_CTL.REQ 0 = 0 ∨ h < s.rd R.PLT_CUT_HAND.HAND 0 then s
  else
    let s0 := (s.wr R.PLT_CUT_CTL.REQ 0 0).msix 1 2
    let all := decide (s.rd R.PLT_CUT_CTL.ALL 0 = 1)
    let group : Option Nat := if all then none else some (s.rd R.PLT_CUT_CTL.GROUP 0)
    let sets := s.cutSets group
    if h > s.rd R.PLT_CUT_HAND.HAND 0 ∨ sets.any (fun e => !s.copyIsReady e.1 e.2 (1 - s.wsLive e.1 e.2)) = true then
      s0.wr R.PLT_CUT_STATE.REFUSE 0 1
    else
      let s1 := sets.foldl (fun t e => t.wr R.ARF_WSMAP_LO.LIVE (ix 4096 e.1 e.2) (1 - t.wsLive e.1 e.2)) s0
      let s2 := loop s.nFaces s1 (fun t f =>
        let gs := (((t.face f).fineLines.map (fun l => l.2.group)).eraseDups).filter (fun g => decide (group = none ∨ group = some g))
        gs.foldl (fun u g => u.writeLines f g (u.cutCopy f g sets)) t)
      ((s2.wr R.PLT_CUT_STATE.LAST_HAND 0 (h % 2 ^ 48)).wr R.PLT_CUT_STATE.LAST_GROUP 0 (group.getD 0)).wrB R.PLT_CUT_STATE.LAST_ALL 0 all

/-! ### Drift and loss (R349 to R351) -/

/-- BACKGROUND_READ (R349 to R351): the background reader reads back array a, whose cells listed now stand at other levels (position, pair), with the
distances of cells from their levels' nominal conductance, in 1/100 of a per cent of a step. -/
def execBackgroundRead (f b a : Nat) (cells : List (Nat × Nat)) (drift : List Nat) (s0 : State) : Host.Outcome State Fault Refusal :=
  let margin := (drift.filter (fun d => decide (100 * s0.rd R.PLT_DIGEST_CFG.REDRESS 0 < d))).length
  let s := s0.modArr f b a (fun x => { x with cells := cells.foldl (fun m c => mset 0 m c.1 c.2) x.cells })
  ok (match s.slotOf f b a with
    | none => s
    | some slot =>
      match s.slotOwner f b slot with
      | none => s
      | some (w, c, idx) =>
        let live := decide (s.wsLive f w = c)
        if !live && !s.copyIsReady f w c then s
        else
          let g := s.digestNow f b a w idx
          let d := g.1
          let s1 := (g.2.modArr f b a (fun x => { x with current := d })).wr R.BLK_WEAR.MARGIN (ixA f b a) (min 65535 margin)
          if d ≠ (s.arr f b a).expected then
            if live then s1.schedule (.lost f b a) (fun t => t.lose f b a) else s1.setReady f w c false
          else if margin ≠ 0 ∧ s.writes.any (fun j => decide (j.face = f ∧ j.block = b ∧ j.src = a ∧ (j.kind = 1 ∨ j.kind = 2))) = false then
            s1.schedule (.redress f b a) (fun t => t.startRetire f b a true)
          else s1)

/-! ### Tallies (R361 to R363) -/

/-- Weight sets of a layer, by face and W. -/
def State.layerSets (s : State) (l : Nat) : List (Nat × Nat) :=
  (List.range s.nFaces).flatMap (fun f => ((List.range 4096).filter (fun w =>
    s.built f w (s.wsLive f w) && decide (s.ws R.ARF_WSMAP_LO.LAYER f w = l))).map (fun w => (f, w)))

/-- Digest of a layer, and the highest image version of its live copies; none: the device holds no array of it (R361). -/
def State.layerDigest (s : State) (l : Nat) : Option (List Word × Nat) :=
  match s.layerSets l with
  | [] => none
  | ws =>
    let bytes := ws.flatMap (fun e => (List.range (s.copyArrays e.1 e.2)).flatMap (fun i =>
      let q := s.copySlot e.1 e.2 (s.wsLive e.1 e.2) i
      match s.slotPhys e.1 q.1 q.2 with
      | some a => leBytes (s.arr e.1 q.1 a).current.toNat 8
      | none => leBytes 0 8))
    some (sha384 bytes, ws.foldl (fun a e => max a (s.copyVer e.1 e.2 (s.wsLive e.1 e.2))) 0)

/-- Expected digest of a layer, from the staged DIGESTS section. -/
def State.expectedDigest (s : State) (l : Nat) : Option (List Word) :=
  match s.img with
  | some x =>
    if s.rd R.PLT_WIMG_STATE.STATE 0 ≠ 2 then none
    else x.secs.findSome? (fun e => if e.mine then (match e.data with
        | some (.digests ls) => (ls.find? (fun d => decide (d.1 = l))).map Prod.snd
        | _ => none) else none)
  | none => none

/-- A replica is expelled on the manager: declared EXPELLED because of a stage, counted and recorded, once. -/
def State.expel (s : State) (dev stage r layer : Nat) : State :=
  if s.repState r = 5 then s
  else ((s.declare r 5 stage).bump R.PLT_TALLY_STAT.EXPELLED 0).raise
    { det := .tallyExpel, unit := unitId 21 0 0 0 0 + dev, d0 := BitVec.ofNat 64 r, d1 := BitVec.ofNat 64 layer }

/-- A replica takes no new seats (R363), with the record. -/
def State.stopSeats (s : State) (dev r layer : Nat) : State :=
  (s.modRep r (fun x => { x with noNew := true })).raise
    { det := .tallyStop, unit := unitId 21 0 0 0 0 + dev, d0 := BitVec.ofNat 64 r, d1 := BitVec.ofNat 64 layer }

/-- A report differs from the expected digest, where the manager knows one. -/
def Tally.off (t : Tally) : Bool := decide (t.expected ≠ [] ∧ t.digest ≠ t.expected)

/-- The manager judges the reports of a stage's replicas on one layer (R363). -/
def State.tallyJudge (s : State) (xs : List Tally) : State :=
  let rep (t : Tally) : Nat := ((s.stageOf t.dev).map Prod.snd).getD 0
  let stage (t : Tally) : Nat := ((s.stageOf t.dev).map Prod.fst).getD 0
  let out (u : State) (t : Tally) : State := u.expel t.dev (stage t) (rep t) t.layer
  let stop (u : State) (t : Tally) : State := u.stopSeats t.dev (rep t) t.layer
  match xs with
  | [] => s
  | x :: rest =>
    if rest.any (fun t => decide (t.version ≠ x.version)) then s.bump R.PLT_TALLY_STAT.SKIPPED 0
    else if rest.all (fun t => decide (t.digest = x.digest)) && !rest.isEmpty then s
    else match rest with
    | [] => if x.off then stop s x else s
    | [_] => if xs.all Tally.off then xs.foldl stop s else (xs.filter Tally.off).foldl out s
    | _ =>
      match xs.find? (fun t => decide ((xs.filter (fun u => decide (u.digest = t.digest))).length = xs.length - 1)) with
      | some m => (xs.filter (fun t => decide (t.digest ≠ m.digest))).foldl out s
      | none => (xs.filter Tally.off).foldl out s

/-- A tally report reaches the manager.  A stage's reports on a layer are judged together once every replica that is IN, HELD or RETIRING has sent its
own, or when a report of a later hand comes, which finds the earlier ones as complete as they will be (R363; DEDUCED, log entry 79). -/
def State.tallyReport (s : State) (t : Tally) : State :=
  match s.stageOf t.dev with
  | none => s
  | some (k, _) =>
    let ours (u : Tally) : Bool := decide (u.layer = t.layer) && decide ((s.stageOf u.dev).map Prod.fst = some k)
    let old := s.tallies.filter (fun u => ours u && decide (u.hand ≠ t.hand))
    let s1 := ({ s with tallies := s.tallies.filter (fun u => !old.contains u) } : State).tallyJudge old
    let all := (s1.tallies.filter (fun u => !decide (u.dev = t.dev ∧ u.layer = t.layer))) ++ [t]
    let peers := s1.manifest.filter (fun d => decide (d.2.1 = k) &&
      (decide (s1.repState d.2.2 = 2 ∨ s1.repState d.2.2 = 3 ∨ s1.repState d.2.2 = 6)))
    let mine := all.filter ours
    if peers.all (fun d => mine.any (fun u => decide (u.dev = d.1))) then
      ({ s1 with tallies := all.filter (fun u => !mine.contains u) } : State).tallyJudge mine
    else { s1 with tallies := all }

/-- TALLY (R363): a tally report on the control lane, with the digest the manager expects of that device's layer, where it holds one. -/
def execTally (port dst src layer hand version : Nat) (digest expected : List Word) (s : State) : Host.Outcome State Fault Refusal :=
  ok (if dst ≠ s.devAddr then s.forwardCtl port dst src (.tally layer hand version digest)
      else if s.isManager then s.tallyReport ⟨src, layer, hand, version, digest, expected⟩ else s)

/-- One layer of a snapshot: reported, and compared with the expected digest. -/
def State.tallyLayer (s : State) (h l : Nat) : State :=
  match s.layerDigest l with
  | none => s
  | some (d, v) =>
    let e := s.expectedDigest l
    let s0 := s.bump R.PLT_TALLY_STAT.TALLIES 0
    let s1 := if s0.isManager then s0.tallyReport ⟨s0.devAddr, l, h, v, d, e.getD []⟩ else s0.sendCtl s0.manager (.tally l h v d)
    match e with
    | some x => if x = d then s1
        else ({ (s1.bump R.PLT_TALLY_STAT.EXPECTED_FAIL 0) with digestBad := true } : State).raise
          { det := .tallyExpected, unit := unitId 1 0 0 0 0, d0 := BitVec.ofNat 64 l, d1 := BitVec.ofNat 64 h }
    | none => s1

/-- TALLY_SNAPSHOT (R362): at the boundary after a hand that INTERVAL divides. -/
def execTallySnapshot (s : State) : Host.Outcome State Fault Refusal :=
  let h := s.rd R.SYN_HAND_NUM.HAND 0
  let n := s.rd R.PLT_DIGEST_CFG.INTERVAL 0
  ok (if s.hand.running = true ∨ n = 0 ∨ h % n ≠ 0 ∨ h = 0 then s
      else loop 256 ({ s with digestBad := false } : State) (fun t l => t.tallyLayer h l))

/-! ### RESTORE (R604, R505) -/

/-- Fine-table lines of the live copies are written again. -/
def State.relines (s : State) (f : Nat) : State :=
  let live := (s.face f).fineLines.filter (fun l => decide (mget 0 (s.face f).fineLive l.2.line = l.1))
  live.foldl (fun t l =>
    let sets := t.cutSets (some l.2.group)
    match sets.find? (fun e => decide (e.1 = f)) with
    | some e => if t.wsLive f e.2 = l.2.copy then t.putResident f l.2.line l.2.words else t
    | none => t.putResident f l.2.line l.2.words) s

/-- What a staged image puts back into resident regions (R505): spall data of the live copies it built, resident fine blocks, table lines. -/
def State.putBack (s : State) (everyBlock : Bool) : State :=
  match s.img with
  | none => s
  | some x =>
    if s.rd R.PLT_WIMG_STATE.STATE 0 ≠ 2 then s
    else loop s.nFaces s (fun t f =>
      let t1 := (List.range 4096).foldl (fun u w =>
        if u.built f w (u.wsLive f w) = true ∧ u.copyVer f w (u.wsLive f w) = x.version then u.loadSpall x f w (u.wsLive f w) else u) t
      let t2 := (x.fineOf f).1.foldl (fun u b =>
        if b.resident then u.putResidentRun f (b.addr / 128) b.words else if everyBlock then u.hbmWords b.addr b.words else u) t1
      t2.relines f)

/-- Reason for which a RESTORE is refused (R604). -/
def State.restoreReason (s : State) : Option Nat :=
  let v := (s.img.map (fun x => x.version)).getD 0
  if s.rd R.PLT_WIMG_STATE.STATE 0 ≠ 2 then some 1
  else if (List.range s.nFaces).any (fun f => (List.range 4096).any (fun w => s.wsValid f w && decide (s.copyVer f w (s.wsLive f w) ≠ v))) then some 2
  else if s.building = true ∨ s.rd R.PLT_BOOT_CTL.BUSY 0 = 1 then some 3 else none

/-- RESTORE (R604): PLT_BOOT_CTL.RESTORE. -/
def execRestore (s : State) : Host.Outcome State Fault Refusal :=
  ok (match s.restoreReason with
    | some r => (s.wr R.PLT_BOOT_CTL.REFUSE 0 1).wr R.PLT_BOOT_CTL.REASON 0 r
    | none => s.wr R.PLT_BOOT_CTL.BUSY 0 1)

/-- RESTORE_DONE (R604): its last write is made; DONE and PF1 vector 4. -/
def execRestoreDone (s : State) : Host.Outcome State Fault Refusal :=
  ok (if s.rd R.PLT_BOOT_CTL.BUSY 0 = 0 then s
      else (((s.putBack true).wr R.PLT_BOOT_CTL.BUSY 0 0).wr R.PLT_BOOT_CTL.DONE 0 1).msix 1 4)

end Sys2Proof.Machine
end

