-- ==== Sys2Proof/Machine/Mesh.lean ====
section
/-! DEFINITION. The haul mesh (02_faces_and_networks.md R50 to R63, R72): where its ports stand, the routes and channels of its packets, the buffers they
wait in, and what its routers find of their words. -/
namespace Sys2Proof.Machine

/-- The router at which a port stands (R51, R62, R63). -/
def portRouter : MPort → Nat
  | .face p => p
  | .stack p => p
  | .fabric n => ([3, 0, 7, 4, 0, 3].getD n 8)
  | .serving n => ([1, 2, 5, 6].getD n 8)
  | .host => 4

/-- The port exists and carries traffic: a stack's where the stack is present, so that on a four-stack part router 2j + 1's carries nothing (R63); LA and
LB on parts with the reach set (R51); those of a fused face all the same (R69). -/
def State.meshPort (s : State) : MPort → Bool
  | .face p => decide (p < 8)
  | .stack p => decide (p < 8) && s.stackPresent p
  | .fabric n => decide (n < 6) && s.portPresent n
  | .serving n => decide (n < 4)
  | .host => true

/-- Traffic between a face and its home stack: it goes by the home path and the pair switch, not over the mesh (R62, R63). -/
def State.homePath (s : State) (a b : MPort) : Bool :=
  match a, b with
  | .face p, .stack q => decide (homeOf (s.flag R.PLT_CAP_UNITS.HBM_SECOND 0) p = q)
  | .stack q, .face p => decide (homeOf (s.flag R.PLT_CAP_UNITS.HBM_SECOND 0) p = q)
  | _, _ => false

/-- The virtual channel of a packet: RSP for read data and write acknowledgements, else REQ (R55). -/
def isRsp : MKind → Bool
  | .readRequest | .write => false
  | .readData | .writeAck => true

/-- Routers from p to q, by column first and then by row (R56). -/
def meshPath (p q : Nat) : List Nat :=
  let c := p % 4
  let d := q % 4
  let cols := if c ≤ d then (List.range (d - c + 1)).map (fun i => c + i) else (List.range (c - d + 1)).map (fun i => c - i)
  let row := cols.map (fun k => k + 4 * (p / 4))
  if p / 4 = q / 4 then row else row ++ [d + 4 * (q / 4)]

/-- The route of a packet. -/
def packetRoute (m : MPacket) : List Nat := meshPath (portRouter m.src) (portRouter m.dst)

/-- Input of a router: from its west, east, north or south neighbour (0 to 3), or from its face (4), its stack (5) or the attach port given (6 on).  The
spec numbers no inputs (DESIGN CHOICE, log entry 75). -/
def portInput : MPort → Nat
  | .face _ => 4
  | .stack _ => 5
  | .fabric n => 6 + n
  | .serving n => 12 + n
  | .host => 16

/-- Router and input at place i of a packet's route. -/
def packetAt (m : MPacket) (i : Nat) : Nat × Nat :=
  let r := (packetRoute m).getD i 0
  if i = 0 then (r, portInput m.src)
  else
    let b := (packetRoute m).getD (i - 1) 0
    (r, if b + 1 = r then 0 else if b = r + 1 then 1 else if b < r then 2 else 3)

/-- Places that a packet enters from `left` on, and the one where it stays: the buffer of a place holds an earlier packet of its channel, or its output is
busy there.  At its destination RSP traffic never waits (R55). -/
def meshGo (waits : Nat → Bool) : List Nat → List Nat × Option Nat
  | [] => ([], none)
  | i :: rest =>
    if waits i then ([i], some i)
    else let g := meshGo waits rest; (i :: g.1, g.2)

/-- One of the packets given waits in the buffer that packet m finds at place i: the same router, input and channel (R55, R57). -/
def meshHeld (others : List MWait) (m : MPacket) (i : Nat) : Bool :=
  others.any (fun w => decide (packetAt w.pkt w.place = packetAt m i) && (isRsp w.pkt.kind == isRsp m.kind))

/-- The router at place i checks the words it receives (R72): those poisoned already, those that `words` says (word, place, 0 correctable, 1 poisoned, 2
uncorrectable), and as an injection slot has it (R559); the words poisoned then. -/
def State.meshCheck (s : State) (m : MPacket) (words : List (Nat × Nat × Nat)) (bad : List Nat) (i : Nat) : State × List Nat :=
  let r := packetAt m i
  let here (k : Nat) : List Nat := (words.filter (fun w => decide (w.2.1 = i ∧ w.2.2 = k ∧ w.1 < 32 * m.beats) && !bad.contains w.1)).map Prod.fst
  let inj := s.inject .meshUncorr (unitId 9 r.1 0 0 0) (fun p => decide (p % 4 = 3))
  let s0 := (inj.map Prod.snd).getD s
  let hit (k : Nat) : Nat := match inj with
    | some v => if (if v.1 % 4 = 3 then 2 else 0) = k ∧ v.1 % 4 ≠ 0 then 1 else 0
    | none => 0
  let lost := here 2 ++ (if hit 2 = 1 then [0] else [])
  let s1 := (s0.bumpBy R.MSH_ERR.CORRECTED 0 ((here 0).length + hit 0)).bumpBy R.MSH_ERR.POISONED 0 (bad.length + (here 1).length)
  let s2 := lost.foldl (fun t _ => (((t.bump R.MSH_ERR.UNCORRECTABLE 0).wr R.MSH_ERR.LAST_ROUTER 0 r.1).wr R.MSH_ERR.LAST_VALID 0 1).raise
    { det := .meshUncorr, unit := unitId 9 r.1 0 0 0, d0 := BitVec.ofNat 64 r.2 }) s1
  (s2, bad ++ here 1 ++ lost)

/-- A packet that waited at place `from_` (none: it is new) goes on: beats sent and cycles waited at its routers, what they find, and then it waits again or
is delivered, with its poisoned words. -/
def State.meshMove (s : State) (m : MPacket) (from_ : Option Nat) (bad : List Nat) (others : List MWait) (stop : Option Nat)
    (stalls : List (Nat × Nat)) (words : List (Nat × Nat × Nat)) : State × Option Nat × List Nat :=
  let n := (packetRoute m).length
  let first := match from_ with
    | some i => i + 1
    | none => 0
  let g := meshGo (fun i => meshHeld others m i || (decide (stop = some i) && !(isRsp m.kind && decide (i + 1 = n))))
    ((List.range (n - first)).map (fun i => first + i))
  let sent := (from_.toList ++ g.1).filter (fun i => decide (g.2 ≠ some i))
  let s1 := sent.foldl (fun t i => t.bumpBy R.MSH_ROUTER_STAT.BEATS (packetAt m i).1 m.beats) s
  let s2 := (stalls.filter (fun e => (from_.toList ++ g.1).contains e.1)).foldl (fun t e => t.bumpBy R.MSH_ROUTER_STAT.STALLS (packetAt m e.1).1 e.2) s1
  let c := g.1.foldl (fun (a : State × List Nat) i => a.1.meshCheck m words a.2 i) (s2, bad)
  (c.1, g.2, c.2)

/-- Words of a delivered packet are marked in the operation that they belong to: (face, place among its started and then its queued operations, first
component of the mark, first word). -/
def State.meshMark (s : State) (bad : List Nat) (op : Option (Nat × Nat × Nat × Nat)) : State :=
  match op with
  | none => s
  | some (f, j, d, first) =>
    s.modFace f (fun x =>
      let add (q : QOp) : QOp := { q with bad := q.bad ++ bad.map (fun w => (d, first + w)) }
      if j < x.started.length then { x with started := x.started.modify j add } else { x with queue := x.queue.modify (j - x.started.length) add })

/-- MESH_PACKET (R51, R54 to R57, R72): packet p enters the mesh, or the packet that waits at place `i` of the buffers goes on; it stays at place `stop` of its
route, or behind a packet of its channel in a buffer, or is delivered.  `stalls`: cycles that its beats waited, by place; `words`: words in which a
router finds errors, as (word, place, kind); `op`: the operation whose words it carries.  Traffic between a face and its home stack does not come
here, nor does any of a port that is not there. -/
def execMeshPacket (i : Option Nat) (p : MPacket) (stop : Option Nat) (stalls : List (Nat × Nat)) (words : List (Nat × Nat × Nat))
    (op : Option (Nat × Nat × Nat × Nat)) (s : State) : Host.Outcome State Fault Refusal :=
  ok (match i with
    | none =>
      if s.meshPort p.src = false ∨ s.meshPort p.dst = false ∨ s.homePath p.src p.dst = true ∨ p.beats = 0 ∨ p.beats > 16 then s
      else match s.meshMove p none [] s.mesh stop stalls words with
      | (t, some k, bad) => { t with mesh := t.mesh ++ [⟨p, k, bad⟩] }
      | (t, none, bad) => t.meshMark bad op
    | some j =>
      match s.mesh[j]? with
      | none => s
      | some w =>
        if meshHeld (s.mesh.take j) w.pkt w.place then s
        else match s.meshMove w.pkt (some w.place) w.bad (s.mesh.eraseIdx j) stop stalls words with
        | (t, some k, bad) => { t with mesh := t.mesh.eraseIdx j ++ [⟨w.pkt, k, bad⟩] }
        | (t, none, bad) => ({ t with mesh := t.mesh.eraseIdx j } : State).meshMark bad op)

end Sys2Proof.Machine
end

