-- ==== Sys2Proof/Machine/Programs.lean ====
section
/-! DEFINITION. Programs of the faces (08_ifeom_programming_model.md R223 to R232), host calls (R241), and the resident and cache regions
of the scratchpad at a boundary (07_scratchpad.md R207, R210, R214; 05_fine_engine_and_spall.md R154). -/
namespace Sys2Proof.Machine

/-! ### States (R225) -/

def State.progState (s : State) (f : Nat) : Nat := s.rd R.FCE_PROG_STATE.STATE f

/-- The program of a face changes state: PF1 vector 8 + f (R591). -/
def State.setProg (s : State) (f v : Nat) : State :=
  if s.progState f = v then s else (s.wr R.FCE_PROG_STATE.STATE f v).msix 1 (8 + f)

/-- A refusal's code and detail. -/
def State.progRefuse (s : State) (f code detail : Nat) : State :=
  (s.wr R.FCE_PROG_STATE.REFUSE f code).wr R.FCE_PROG_STATE.REFUSE_DETAIL f (min detail 65535)

/-- Requests waiting for the boundary go. -/
def State.dropReq (s : State) (f : Nat) : State := (s.modFace f (fun x => { x with progReq := none })).wr R.FCE_PROG_STATE.PENDING f 0

/-! ### Checks (R232): each answers the offending field, entry or unit -/

/-- Bits of header words that must be zero (R228). -/
def hdrReserved : List (Nat × Word) :=
  [(0, 0xFFFFFF0000000000#64), (1, 0xFFFFFFF800000000#64), (2, 0xFFFFFFFFFC000080#64), (3, 0xFFFF000000000000#64),
   (4, 0xFFFF000000000000#64), (5, 0xFFC0000000000000#64), (6, 0xFFFFFFFFC0000000#64)] ++
  (List.range 9).map (fun i => (7 + i, BitVec.ofNat 64 (2 ^ 64 - 1)))

/-- Lists of a header: word address, count, largest count, the reserved bits of its words (R229 to R231). -/
def Face.lists3 (x : Face) : List (Nat × Nat × Nat × Word) :=
  [(fget (x.hdr 5) 0 17, fget (x.hdr 5) 17 11, 1024, 0x00000000FFFFF800#64),
   (fget (x.hdr 5) 28 17, fget (x.hdr 5) 45 9, 256, 0xFFFFFFFFFFFE0000#64),
   (fget (x.hdr 6) 0 17, fget (x.hdr 6) 17 13, 4096, 0xFFFFFFFFFFFFF000#64)]

/-- Words of list k of the header. -/
def Face.listWords (x : Face) (k : Nat) : List Word :=
  match x.lists3[k]? with
  | some l => (List.range l.2.1).map (fun i => mget 0#64 x.store (l.1 + i))
  | none => []

/-- Code 2. -/
def Face.layoutBad (x : Face) (words : Nat) : Option Nat :=
  if x.entry % 64 ≠ 0 then some 1
  else if x.codeEnd < 16 ∨ x.codeEnd > words ∨ x.codeEnd > 131072 ∨ x.entry + 64 > x.codeEnd then some 1
  else match (List.range 3).find? (fun k => match x.lists3[k]? with
      | some l => decide (l.2.1 > l.2.2.1 ∨ (l.2.1 ≠ 0 ∧ l.1 + l.2.1 > x.codeEnd))
      | none => false) with
  | some k => some (if k = 2 then 6 else 5)
  | none => match hdrReserved.find? (fun r => decide (x.hdr r.1 &&& r.2 ≠ 0#64)) with
    | some r => some r.1
    | none => match (List.range 64).find? (fun v => decide (fget (mget 0#64 x.store (x.entry + v)) 17 46 ≠ 0)) with
    | some v => some v
    | none => (List.range 3).findSome? (fun k => match x.lists3[k]? with
      | some l => (x.listWords k).findIdx? (fun w => decide (w &&& l.2.2.2 ≠ 0#64))
      | none => none)

/-- Code 4: units in word 2, bits [5:0], that are absent or off. -/
def State.unitsBad (s : State) (f : Nat) (x : Face) : Option Nat :=
  (List.range 6).find? (fun u =>
    x.uses u && (
      if u = 0 then !s.arrayOn f || !s.engOn f
      else if u ≤ 3 then !s.engOn f
      else if u = 4 then !s.domOn 29
      else !(decide (s.rd R.PLT_CAP_UNITS.REACH 0 = 1)) || !s.domOn 27))

/-- Code 5: the home stack and every stack in STACKS present. -/
def State.stacksBad (s : State) (f : Nat) (x : Face) : Option Nat :=
  if !s.stackPresent (s.home f) then some (s.home f)
  else (List.range 8).find? (fun p => x.uses (8 + p) && !s.stackPresent p)

/-- Code 9: no index repeated, no CEIL of 0. -/
def Face.countersBad (x : Face) : Option Nat :=
  let ws := x.listWords 0
  (List.range ws.length).find? (fun i => match ws[i]? with
    | some w => decide (fget w 32 32 = 0) || (ws.take i).any (fun v => decide (fget v 0 10 = fget w 0 10))
    | none => false)

/-- Code 10: no handle repeated, ID within its scope. -/
def Face.tricksBad (x : Face) : Option Nat :=
  let ws := x.listWords 1
  (List.range ws.length).find? (fun i => match ws[i]? with
    | some w => (w.getLsbD 8 && decide (fget w 9 8 ≥ 64)) || (ws.take i).any (fun v => decide (fget v 0 8 = fget w 0 8))
    | none => false)

/-- A check as an option of its detail. -/
def asCode (code : Nat) (d : Option Nat) : Option (Nat × Nat) := d.map (fun n => (code, n))

/-- The load checks, in the order of R232. -/
def State.loadCheck (s : State) (f words : Nat) (uncorr pcieErr : Bool) : Option (Nat × Nat) :=
  let x := s.face f
  [asCode 1 (if fget (x.hdr 0) 0 32 = 0x1F0E1F0E ∧ fget (x.hdr 0) 32 8 = 1 then none else some 0),
   asCode 2 (x.layoutBad words),
   asCode 3 (match x.vector 0 with
     | some t => if t < x.codeEnd then none else some 0
     | none => some 0),
   asCode 4 (s.unitsBad f x),
   asCode 5 (s.stacksBad f x),
   asCode 6 ((List.range 6).find? (fun p => x.uses (16 + p) && !s.portPresent p)),
   asCode 9 x.countersBad,
   asCode 10 x.tricksBad,
   if uncorr then some (11, 0) else none,
   if pcieErr then some (12, 0) else none].findSome? id

/-- Code 7: segments to be resident, quarters in cache mode. -/
def State.regionsBad (s : State) (f : Nat) (x : Face) : Option Nat :=
  if (List.range 48).any (fun i => (x.hdr 3).getLsbD i && !bit (s.rd R.SPD_RES_G0.SEG f) i) then some 3
  else if (List.range 48).any (fun i => (x.hdr 4).getLsbD i && !bit (s.rd R.SPD_RES_G1.SEG f) i) then some 4
  else if (List.range 4).any (fun q => x.uses (22 + q) && !bit (s.rd R.SPD_CACHE_CFG.ACTIVE f) q) then some 2 else none

/-- Code 8: every listed weight set usable. -/
def State.setsBad (s : State) (f : Nat) (x : Face) : Option Nat :=
  (x.listWords 2).findIdx? (fun v =>
    let w := fget v 0 12
    let sp := spallIx f w (s.wsLive f w)
    !s.wsReady f w || (decide (s.rd R.ARF_SPALL.COUNT sp > 0) && !s.flag R.ARF_SPALL.LOADED sp))

/-- The activation checks. -/
def State.activateCheck (s : State) (f : Nat) : Option (Nat × Nat) :=
  let x := s.face f
  [asCode 4 (s.unitsBad f x), asCode 5 (s.stacksBad f x), asCode 7 (s.regionsBad f x), asCode 8 (s.setsBad f x)].findSome? id

/-! ### Requests -/

/-- PROGRAM_LOAD (R225, R227): FCE_PROG_CTL.LOAD. -/
def execProgramLoad (f : Nat) (s : State) : Host.Outcome State Fault Refusal :=
  let n := s.rd R.FCE_PROG_CTL.WORDS f
  ok (if s.progState f ≠ 0 ∧ s.progState f ≠ 2 then s.progRefuse f 13 0
      else
        let t := (((s.dropReq f).progRefuse f 0 0).setProg f 1).modFace f (fun x => { x with loadWords := n })
        if n < 16 ∨ n > 131072 then (t.progRefuse f 2 0).setProg f 0 else t)

/-- Put a transferred program into the store from word 0, clearing the words above (R227). -/
def Face.fill (x : Face) (words : List Word) : Face :=
  { x with store := (words.foldl (fun (a : SMap Word × Nat) w => (mset 0#64 a.1 a.2 w, a.2 + 1)) ([], 0)).1, storeErr := [] }

/-- PROGRAM_LOAD_DONE (R225, R232): the transfer ends with the words read, whether one of them is uncorrectable, and whether PCIe failed. -/
def execProgramLoadDone (f : Nat) (words : List Word) (uncorr pcieErr : Bool) (s : State) : Host.Outcome State Fault Refusal :=
  let n := (s.face f).loadWords
  ok (if s.progState f ≠ 1 then s
      else
        let s0 := s.modFace f (fun x => x.fill (words.take n))
        let inj := s0.inject .storeUncorr (s0.unitEngine f 3) (fun p => decide (p % 4 = 3))
        let t := (inj.map Prod.snd).getD s0
        let bad := uncorr || (match inj with
          | some i => decide (i.1 % 4 = 3)
          | none => false)
        let t1 := if bad && !uncorr then t.raise { det := .storeUncorr, unit := t.unitEngine f 3, lface := f } else t
        match t1.loadCheck f n bad pcieErr with
        | some c => (t1.progRefuse f c.1 c.2).setProg f 0
        | none => t1.setProg f 2)

/-- Counters and tricks as a program's activation sets them (R229, R310; R230). -/
def Face.activate (x : Face) : Face :=
  { x with
    ctr := (x.listWords 0).foldl (fun m w =>
      mset {} m (fget w 0 10) { ceil := fget w 32 32, declared := true, check := w.getLsbD 10, mirrored := (mget {} x.ctr (fget w 0 10)).mirrored })
      (x.ctr.filterMap (fun e => if e.2.mirrored = 0 then none else some (e.1, { mirrored := e.2.mirrored })))
    handles := (x.listWords 1).foldl (fun m w =>
      mset {} m (fget w 0 8) { listed := true, domain := w.getLsbD 8, trick := fget w 9 8 }) [] }

/-- A request on a program at the boundary (R225). -/
def State.bdyProg (s : State) (f : Nat) : State :=
  match (s.face f).progReq with
  | none => s
  | some .hold => if s.progState f = 3 then (s.dropReq f).setProg f 2 else s.dropReq f
  | some .activate =>
    let t := s.dropReq f
    if s.progState f ≠ 2 then t
    else match t.activateCheck f with
    | some c => t.progRefuse f c.1 c.2
    | none =>
      let u := ((t.modFace f (fun x => x.activate)).wr R.FCE_PROG_STATE.HANDS f 0).setProg f 3
      -- the output set is emptied (R625)
      { u with hand := { u.hand with outSet := [] } }
def State.bdyProgs (s : State) : State := loop s.nFaces s (fun t f => t.bdyProg f)

/-- Note a request, at once where no ticks run. -/
def State.progRequest (s : State) (f : Nat) (r : ProgReq) : State :=
  ((s.modFace f (fun x => { x with progReq := some r })).wr R.FCE_PROG_STATE.PENDING f 1).orNow (fun t => t.bdyProg f)

/-- PROGRAM_ACTIVATE (R225): FCE_PROG_CTL.ACTIVATE; of it and a HOLD before one boundary the later wins (R254). -/
def execProgramActivate (f : Nat) (s : State) : Host.Outcome State Fault Refusal :=
  ok (if s.progState f = 2 ∨ (s.progState f = 3 ∧ (s.face f).progReq ≠ none) then s.progRequest f .activate else s.progRefuse f 13 0)

/-- PROGRAM_HOLD (R225): FCE_PROG_CTL.HOLD; of it and an ACTIVATE before one boundary the later wins (R254). -/
def execProgramHold (f : Nat) (s : State) : Host.Outcome State Fault Refusal :=
  ok (if s.progState f = 3 ∨ (s.progState f = 2 ∧ (s.face f).progReq ≠ none) then s.progRequest f .hold else s.progRefuse f 13 0)

/-- PROGRAM_UNLOAD (R225): FCE_PROG_CTL.UNLOAD. -/
def execProgramUnload (f : Nat) (s : State) : Host.Outcome State Fault Refusal :=
  ok (if s.progState f = 2 then (s.dropReq f).setProg f 0 else s.progRefuse f 13 0)

/-- HOST_CALL (R238, R241): FCE_HOST_CALL.REQ; one call is pending at most, and a face whose store holds no program with vector 1 takes none. -/
def execHostCall (f : Nat) (s : State) : Host.Outcome State Fault Refusal :=
  ok (if 2 ≤ s.progState f ∧ ((s.face f).vector 1).isSome = true ∧ s.rd R.FCE_HOST_CALL.PENDING f = 0 then
        s.ringGuard .hostCall (fun k => decide (k = s.stopOf f)) (fun t => t.wr R.FCE_HOST_CALL.PENDING f 1)
      else s)

/-! ### Regions of the scratchpad -/

/-- Lines of a copy's spall table and shadow rows, as the table stands (R151 to R154). -/
def State.spallLines (s : State) (f w c : Nat) : List Nat :=
  let sp := s.reg .ARF_SPALL (spallIx f w c)
  let n := fw sp R.ARF_SPALL.COUNT
  (List.range (cdiv (8 * n) 128)).map (fun l => fw sp R.ARF_SPALL.TABLE + l) ++
  ((s.face f).spallTable sp).flatMap (fun e => (List.range (cdiv (s.wsN f w * 64) 128)).map (fun l => e.2 / 128 + l))

/-- LOADED clears for every copy of face f whose spall data is no longer covered (R154). -/
def State.uncover (s : State) (f : Nat) : State :=
  (List.range 8192).foldl (fun t k =>
    let i := spallIx f (k / 2) (k % 2)
    if t.flag R.ARF_SPALL.LOADED i && !((t.spallLines f (k / 2) (k % 2)).all (t.isResident f)) then t.wr R.ARF_SPALL.LOADED i 0 else t) s

/-- LOADED clears for every copy of a face (R154, R213). -/
def State.unload (s : State) (f : Nat) : State :=
  (List.range 8192).foldl (fun t k =>
    let i := spallIx f (k / 2) (k % 2)
    if t.flag R.ARF_SPALL.LOADED i then t.wr R.ARF_SPALL.LOADED i 0 else t) s

/-- The regions of face f at a boundary (R210, R214). -/
def State.bdyRegion (s : State) (f : Nat) : State :=
  let s1 := match (s.face f).resReq with
    | some (a, b) => ((((s.setReg .SPD_RES_G0 f a).setReg .SPD_RES_G1 f b)).modFace f (fun x => { x with resReq := none })).uncover f
    | none => s
  s1.bdyCacheCfg f
def State.bdyRegions (s : State) : State := loop s.nFaces s (fun t f => t.bdyRegion f)

end Sys2Proof.Machine
end

