-- ==== Sys2Proof/Machine/Power.lean ====
section
/-! DEFINITION. Power domains, the face clocks, the governor, droop, heat and the housekeeping converter (21_power_thermal_housekeeping.md),
and the rails of 23_package_and_electrical.md R613 and R617. -/
namespace Sys2Proof.Machine

/-! ### Domain requests (R565 to R567) -/

def State.modPower (s : State) (g : Power → Power) : State := { s with power := g s.power }

/-- A domain that is permanently off: that of a fused face, and REACH on F parts. -/
def State.neverOn (s : State) (d : Nat) : Bool :=
  (decide (d < 24) && bit (s.rd R.PLT_CAP_FACES.FUSED 0) (d % 8)) || (decide (d = 27) && decide (s.rd R.PLT_CAP_UNITS.REACH 0 = 0))

/-- Some face's program is ACTIVE. -/
def State.anyActive (s : State) : Bool := (List.range s.nFaces).any (fun f => decide (s.progState f = 3))

/-- A refusal's reason for a change of domain d to v, when its turn comes (R567); 6 is judged at the request. -/
def State.domReason (s : State) (d v : Nat) : Option Nat :=
  let spd := d - 16
  let isSpd := decide (16 ≤ d ∧ d < 24)
  if s.neverOn d then some 1
  else if (decide (d < 16 ∧ v = 1) && !s.domOn (16 + d % 8)) || (isSpd && decide (v ≠ 1) && (s.domOn spd || s.domOn (8 + spd))) then some 2
  else if isSpd && decide (v ≠ 1) && (match s.logicalOf spd with
      | some f => decide (s.progState f ≠ 0) || (s.face f).wins.any (fun w => w.2.live)
      | none => false) then some 3
  else if [24, 25, 26, 29].contains d && decide (v = 0) && (decide (s.mode ≠ 0) || s.anyActive) then some 4
  else if decide (v = 0) && ((decide (d = 24) && decide (s.rd R.FLT_LOG_CFG.STACK 0 < 4)) ||
      (decide (d = 25) && decide (s.rd R.FLT_LOG_CFG.STACK 0 ≥ 4))) then some 5
  else if v = 2 ∧ isSpd = false then some 7 else none

/-- Record a refusal: PF1 vector 3. -/
def State.domRefuse (s : State) (d r : Nat) : State :=
  (((s.wr R.PWR_DOM_STAT.REFUSE 0 1).wr R.PWR_DOM_STAT.DOMAIN 0 d).wr R.PWR_DOM_STAT.REASON 0 r).msix 1 3

/-- What a change waits for (R566, R568): writes, readbacks and retirements in the face's blocks; tickets with CMP. -/
def State.domWaits (s : State) (d v : Nat) : Bool :=
  if v = 1 then false
  else if d < 8 then
    match s.logicalOf d with
    | some f => s.writes.any (fun j => j.started && decide (j.face = f)) ||
        (List.range 4608).any (fun i => decide (s.rd R.BLK_ARRAY_STATE.STATE (f * 4608 + i) = 4)) ||
        ((s.face f).started.any (fun q => decide (q.eng = .array)))
    | none => false
  else if d = 27 then s.hand.tickets.any (fun t => bit t.2 26)
  else false

/-- HBM contents of the stacks of a group are lost (R568); so is an image with a staged section there. -/
def State.loseStacks (s : State) (lo : Nat) : State :=
  let gone (p : Nat) : Bool := decide (lo ≤ p ∧ p < lo + 4)
  let t : State := { s with hbm := mdrop (fun g => gone (g / 2 ^ 29)) s.hbm, hbmMeta := mdrop (fun k => gone (k / 2 ^ 28)) s.hbmMeta }
  match s.img with
  | some x => if x.secs.any (fun e => e.mine && gone (hStack e.addr)) then t.discard else t
  | none => t

/-- Effects of a domain that leaves on (R568, R213). -/
def State.domOffEffects (s : State) (d v : Nat) : State :=
  if d < 8 then
    match s.logicalOf d with
    | some f => loop 64 s (fun t b => ((t.modCal f b (fun x => { x with fresh := false })).noteStale f b).restartMons f b)
    | none => s
  else if d < 16 then
    match s.logicalOf (d - 8) with
    | some f => s.modFace f (fun x => { x with params := [], paramPoison := [], stats := [] })
    | none => s
  else if d < 24 then
    match s.logicalOf (d - 16) with
    | some f =>
      let t := (s.cacheEmpty f).modFace f (fun x =>
        { (x.dropLines (fun l => decide (v = 0) || !s.isResident f l)) with
          ctr := [], handles := [], sb := [], queue := [], store := [], storeErr := [] })
      (if v = 0 then t.unload f else t).homeLost f
    | none => s
  else if d = 24 then s.loseStacks 0
  else if d = 25 then s.loseStacks 4
  else if d = 26 then ((s.bypClose.portDown 2 false).portDown 3 false)
  else if d = 27 then (s.portDown 4 false).portDown 5 false
  else if d = 28 then ((s.wr R.HIF_LINK.RATE 0 0).wr R.HIF_LINK.WIDTH 0 0).wr R.HIF_LINK.FLIT 0 0
  else s

/-- Effects of a domain that has come on from state v: calibrations (R518), lines of scratchpad that v did not keep (R207, R213), training (R422). -/
def State.domOnEffects (s : State) (d v : Nat) : State :=
  if d < 8 then
    match s.logicalOf d with
    | some f => loop 64 s (fun t b => t.calRequest f b 1)
    | none => s
  else if 16 ≤ d ∧ d < 24 then
    match s.logicalOf (d - 16) with
    | some f => s.modFace f (fun x => x.dropLines (fun l => decide (v = 0) || !s.isResident f l))
    | none => s
  else if d = 26 then loop 4 s (fun t p => t.trainStart p)
  else if d = 27 then (s.trainStart 4).trainStart 5
  else s

/-- Judge and start the changes at the head of the list until one is under way or waits (fuel: the length of the list). -/
def domStep (s : State) : Nat → State
  | 0 => s
  | n + 1 =>
    match s.power.domRun with
    | [] => s
    | (d, v) :: rest =>
      if s.power.domBusy then s
      else
        let pop : State := s.modPower (fun x => { x with domRun := rest })
        match s.domReason d v with
        | some r => domStep (pop.domRefuse d r) n
        | none =>
          if s.domain d = v then domStep pop n
          else if s.domWaits d v then s
          else
            let t := if v ≠ 1 ∧ s.domain d ≠ 0 then s.domOffEffects d v else s
            (t.wr (R.PWR_DOM_STATE.STATE d) 0 3).modPower (fun x => { x with domBusy := true, domFrom := s.domain d })
def State.domNext (s : State) : State := domStep s (s.power.domRun.length + 1)

/-- Orders of R566. -/
def offOrder : List Nat := List.range 24 ++ [25, 24, 29, 27, 26, 28]
def onOrder : List Nat :=
  [28] ++ (List.range 8).map (· + 16) ++ (List.range 8).map (· + 8) ++ List.range 8 ++ [26, 27, 29, 24, 25]

/-- The changes that a boundary carries, in order. -/
def State.bdyPower (s : State) : State :=
  let want (d : Nat) : Option Nat := mget none s.power.domReq d
  let offs := offOrder.filterMap (fun d => match want d with
    | some v => if v = 1 then none else some (d, v)
    | none => none)
  let ons := onOrder.filterMap (fun d => match want d with
    | some v => if v = 1 then some (d, v) else none
    | none => none)
  (s.modPower (fun x => { x with domReq := [], domRun := x.domRun ++ offs ++ ons })).domNext

/-- One field of a write of PWR_DOM_REQ: 3 is reserved and ignored; HOST takes a new value over the management network only. -/
def State.domWrite (s : State) (d v : Nat) (mgmt : Bool) : State :=
  let old := s.rd (R.PWR_DOM_REQ.REQ d) 0
  if v = 3 then s
  else if d = 28 ∧ mgmt = false ∧ v ≠ old then s.domRefuse 28 6
  else
    (s.wr (R.PWR_DOM_REQ.REQ d) 0 v).modPower (fun x =>
      { x with domReq := mset none x.domReq d (if s.domain d = v then none else some v) })

/-- PWR_DOM_REQ (R566): a write of the register, through a PCIe function or (`mgmt`) by WRITE_REG. -/
def execPwrDomReq (w : Word) (mgmt : Bool) (s : State) : Host.Outcome State Fault Refusal :=
  ok ((loop 30 s (fun t d => t.domWrite d (fget w (2 * d) 2) mgmt)).orNow State.bdyPower)

/-- DOMAIN_CHANGE_DONE (R566): the change under way completes (with the PCIe link that trained, for HOST), and the next begins. -/
def execDomainChangeDone (rate width : Nat) (flit : Bool) (s : State) : Host.Outcome State Fault Refusal :=
  ok (match s.power.domRun with
    | [] => s
    | (d, v) :: rest =>
      if s.power.domBusy = false then s.domNext
      else
        let t := ((s.wr (R.PWR_DOM_STATE.STATE d) 0 v).bump R.PWR_DOM_STAT.CHANGES 0).modPower (fun x => { x with domRun := rest, domBusy := false })
        let u := if v = 1 then t.domOnEffects d s.power.domFrom else t
        let w := if d = 28 ∧ v = 1 then ((u.wr R.HIF_LINK.RATE 0 rate).wr R.HIF_LINK.WIDTH 0 width).wrB R.HIF_LINK.FLIT 0 flit else u
        (w.msix 1 3).domNext)

/-! ### Levels and VCORE (R570) -/

/-- Level asked of a physical face. -/
def State.levelFor (s : State) (p : Nat) : Nat := max (s.rd R.PWR_STAT.GOV_LEVEL 0) (s.rd R.PWR_FACE_CLK.THERM_LEVEL p)

/-- The VCORE target follows the highest clock there is or is to be; a new target waits for a round to show it. -/
def State.noteVcore (s : State) : State :=
  let m := s.goodFaces.foldl (fun a p => min a (min (s.levelFor p) (s.rd R.PWR_FACE_CLK.LEVEL p))) 16
  let v := Config.vcoreMv m % 65536
  if s.rd R.PWR_STAT.VCORE_MV 0 = v then s
  else (s.wr R.PWR_STAT.VCORE_MV 0 v).modPower (fun x => { x with vcore := none })

/-- VCORE has been shown within 10 mV of its target. -/
def State.vcoreSettled (s : State) : Bool :=
  match s.power.vcore with
  | some v => decide (v ≤ s.rd R.PWR_STAT.VCORE_MV 0 + 10 ∧ s.rd R.PWR_STAT.VCORE_MV 0 ≤ v + 10)
  | none => false

/-- Levels at a boundary: lower clocks at once, higher ones once VCORE has settled. -/
def State.bdyLevels (s0 : State) : State :=
  let s := s0.noteVcore
  (s.goodFaces.foldl (fun t p =>
    let l := t.levelFor p
    if t.rd R.PWR_FACE_CLK.LEVEL p ≤ l ∨ s.vcoreSettled = true then t.wr R.PWR_FACE_CLK.LEVEL p l else t) s).noteVcore

/-! ### Shutdown (R576) -/

/-- Every clock outside the platform domain stops; THERMTRIP and FAULT_N, and the record in the non-volatile store. -/
def State.thermTrip (s : State) (c : Nat) (temp : Int) : State :=
  if s.dead then s
  else
    let e : Event := { det := .thermtrip, unit := unitId 19 0 0 0 c, d0 := BitVec.ofInt 64 temp }
    let t := (s.wr R.FLT_FATAL.OTHER 0 (setBit (s.rd R.FLT_FATAL.OTHER 0) 0 true)).faultN
    let u := t.nvPut (e.record t)
    let v := loop 6 u (fun x p => x.portDown p false)
    { (((v.wr R.HIF_LINK.RATE 0 0).wr R.HIF_LINK.WIDTH 0 0).wr R.HIF_LINK.FLIT 0 0) with dead := true, hand := { v.hand with running := false } }

/-- THERMAL_TRIP (R576, R577): the comparator of on-die sensor c reaches 115 °C; that of an ignored sensor is disarmed. -/
def execThermalTrip (c : Nat) (s : State) : Host.Outcome State Fault Refusal :=
  ok (if c ≥ 64 ∨ s.flag R.THM_SENSOR.IGNORED c = true then s
      else (s.thermTrip c 920).modPower (fun x => { x with sens := mset {} x.sens c { mget {} x.sens c with hot := true } }))

/-! ### Droop (R573) -/

/-- A stretch is entered. -/
def State.droopEntry (s : State) (p : Nat) (half : Bool) (sag : Nat) : State :=
  let t := (if half then s.bump R.PWR_DROOP_STAT.HALF p else s.bump R.PWR_DROOP_STAT.QUARTER p).modPower
    (fun x => { x with stretch := mset 0 x.stretch p (if half then 2 else 1) })
  let e : Event := { det := .droop, unit := unitId 20 p 0 0 0, d0 := if half then 2#64 else 1#64, d1 := BitVec.ofNat 64 sag }
  if s.power.drooped.contains p then
    match mergeRec t.now (e.record t) t.faultq with
    | some q => { t with faultq := q }
    | none => t
  else (t.raise e).modPower (fun x => { x with drooped := p :: x.drooped })

/-- DROOP (R573): VCORE at the sense point of physical face p falls below target − T1, or (`half`) below target − T2, by `sag` mV. -/
def execDroop (p : Nat) (half : Bool) (sag : Nat) (s : State) : Host.Outcome State Fault Refusal :=
  ok (if p < 8 ∧ s.rd R.PWR_DROOP_CFG.EN 0 = 1 ∧ mget 0 s.power.stretch p < (if half then 2 else 1) then s.droopEntry p half sag else s)

/-- DROOP_RECOVER (R573): VCORE has stayed above target − T1 for 64 cycles, after `us` microseconds of stretching. -/
def execDroopRecover (p us : Nat) (s : State) : Host.Outcome State Fault Refusal :=
  ok (if mget 0 s.power.stretch p = 0 then s
      else (s.bumpBy R.PWR_DROOP_STAT.STRETCH_US p us).modPower (fun x => { x with stretch := mset 0 x.stretch p 0 }))

/-! ### Self-calibration (R582) -/

/-- SELFCAL (R582): HKC_CTL.SELFCAL, once after each power-up of VAON; it waits until REF_EN has been 1 for 5 ms. -/
def execSelfcal (s : State) : Host.Outcome State Fault Refusal :=
  ok (if s.rd R.HKC_STAT.CAL_DONE 0 = 1 ∨ s.rd R.HKC_STAT.CAL_BUSY 0 = 1 then s
      else if s.rd R.HKC_STAT.REF_READY 0 = 1 then s.wr R.HKC_STAT.CAL_BUSY 0 1
      else s.modPower (fun x => { x with calWaits := true }))

/-- REF_READY (R582): REF_EN has been 1 for 5 ms; a self-calibration that waited starts. -/
def execRefReady (s : State) : Host.Outcome State Fault Refusal :=
  ok (if s.rd R.HKC_CTL.REF_EN 0 = 0 then s
      else
        let t := s.wr R.HKC_STAT.REF_READY 0 1
        if s.power.calWaits then (t.wr R.HKC_STAT.CAL_BUSY 0 1).modPower (fun x => { x with calWaits := false }) else t)

/-- SELFCAL_DONE (R582): after 40 ms, an offset and a gain factor for each gain range. -/
def execSelfcalDone (factors : List (Nat × Nat)) (s : State) : Host.Outcome State Fault Refusal :=
  ok (if s.rd R.HKC_STAT.CAL_BUSY 0 = 0 then s
      else
        let t := loop 4 s (fun u g =>
          let x := factors.getD g (0, 0)
          (u.wr R.HKC_CAL.OFFSET g (x.1 % 2 ^ 24)).wr R.HKC_CAL.GAIN g (x.2 % 2 ^ 24))
        (t.wr R.HKC_STAT.CAL_BUSY 0 0).wr R.HKC_STAT.CAL_DONE 0 1)

/-! ### Sensors (R574, R577) -/

/-- A reading in 1/8 °C as a register field. -/
def tempField (v : Int) : Nat := (v % 4096).toNat

/-- Neighbours of an on-die sensor whose readings are plausible in this round: channel and reading. -/
def State.near (s : State) (vals : Nat → Int) (c : Nat) : List (Nat × Int) :=
  if c ≥ 64 then []
  else ((if c % 8 = 0 then [] else [c - 1]) ++ (if c % 8 = 7 then [] else [c + 1])).filterMap (fun k =>
    if s.flag R.THM_SENSOR.IGNORED k then none else some (k, vals k))

/-- What R577 makes of a sensor in a round: its record, and whether the round speaks against it. -/
def Sens.judge (x : Sens) (c : Nat) (v code : Int) (near : List (Nat × Int)) (answers : Bool) : Sens × Bool :=
  let outside := decide (v < -320 ∨ 1200 < v)
  let away := match meanOf (near.map Prod.snd) with
    | some m => decide ((v - m).natAbs > 120)
    | none => false
  let same := if code = x.code ∧ x.base ≠ [] then x.same + 1 else 0
  let base := if same = 0 then near else x.base
  let moved := near.any (fun n => base.any (fun b => decide (b.1 = n.1) && decide ((n.2 - b.2).natAbs ≥ 24)))
  let y : Sens := { x with code := code, same := same, base := base, far := if away then x.far + 1 else 0
                           silent := if answers then 0 else x.silent + 1 }
  (y, outside || (decide (c < 64) && decide (y.far ≥ 3)) || (decide (c < 64) && decide (same ≥ 1024) && moved) || (decide (c ≥ 64) && decide (y.silent ≥ 3)))

/-- One sensor in a round: its reading, and whether it is ignored from now on or returns. -/
def State.sensorRound (s : State) (vals : Nat → Int) (code : Nat → Int) (silent : List Nat) (c : Nat) : State :=
  let x := mget {} s.power.sens c
  let answers := decide (c < 64) || !silent.contains (c - 64)
  let u := unitId 19 0 0 0 c
  let fi := s.forced .sensorBad u
  let j := x.judge c (vals c) (code c) (s.near vals c) answers
  let bad := j.2 || fi.1
  let keep (t : State) (y : Sens) : State := t.modPower (fun p => { p with sens := mset {} p.sens c y })
  let t := if answers then ((fi.2.wr R.THM_SENSOR.TEMP c (tempField (vals c))).wr R.THM_SENSOR.VALID c 1) else fi.2
  if s.flag R.THM_SENSOR.IGNORED c then
    let n := if bad then 0 else x.good + 1
    if n ≥ 1024 ∧ s.flag R.THM_SENSOR.PERM c = false then keep (t.wr R.THM_SENSOR.IGNORED c 0) { j.1 with good := 0 }
    else keep t { j.1 with good := min n 1024 }
  else if bad then
    keep ((t.wr R.THM_SENSOR.IGNORED c 1).raise { det := .sensorBad, unit := u, d0 := BitVec.ofInt 64 (vals c) }) { j.1 with good := 0 }
  else keep t { j.1 with good := 0 }

/-- Sensors there are: those of the good faces, and the present stacks'. -/
def State.sensors (s : State) : List Nat :=
  (List.range 64).filter (fun c => s.goodFaces.contains (c / 8)) ++ ((List.range 8).filter s.stackPresent).map (· + 64)

/-! ### Thermal states (R575, R578) -/

/-- A state with hysteresis. -/
def hyst (on : Bool) (t enter leave : Int) : Bool := if on then decide (leave ≤ t) else decide (enter ≤ t)

/-- A warning is signalled once on entry. -/
def State.warnIrq (s : State) (was is_ : Bool) : State :=
  if !was && is_ && s.flag R.THM_CFG.IRQ 0 then s.msix 2 (s.rd R.THM_CFG.VECTOR 0) else s

/-- A physical face after a round of `us` microseconds. -/
def State.faceHeat (s : State) (us p : Nat) : State :=
  let lv := s.rd R.PWR_FACE_CLK.THERM_LEVEL p
  let setB (t : State) (fl : Fld) (b : Bool) : State := t.wr fl 0 (setBit (t.rd fl 0) p b)
  match s.faceTemp p with
  | none => (setB s R.THM_STATUS.BLIND true).wr R.PWR_FACE_CLK.THERM_LEVEL p 16
  | some t =>
    let w0 := bit (s.rd R.THM_STATUS.WARN 0) p
    let h0 := bit (s.rd R.THM_STATUS.THROTTLE 0) p
    let w1 := hyst w0 t 760 728
    let h1 := hyst h0 t 816 784
    let s1 := ((setB (setB (setB s R.THM_STATUS.BLIND false) R.THM_STATUS.WARN w1) R.THM_STATUS.THROTTLE h1)).warnIrq w0 w1
    if h1 then
      let ms := mget 0 s.power.thrRest p + us
      (((s1.wr R.PWR_FACE_CLK.THERM_LEVEL p (min 16 (lv + 1))).bumpBy R.PWR_FACE_CLK.THROTTLE_MS p (ms / 1000))).modPower
        (fun x => { x with calm := mset 0 x.calm p 0, thrRest := mset 0 x.thrRest p (ms % 1000) })
    else
      let c := mget 0 s.power.calm p + 1
      if lv = 0 then s1
      else if c ≥ s.rd R.PWR_GOV.RAISE 0 then
        (s1.wr R.PWR_FACE_CLK.THERM_LEVEL p (lv - 1)).modPower (fun x => { x with calm := mset 0 x.calm p 0 })
      else s1.modPower (fun x => { x with calm := mset 0 x.calm p c })

/-- A stack after a round. -/
def State.stackHeat (s : State) (p : Nat) : State :=
  match s.stackTemp p with
  | none => s
  | some t =>
    let w0 := bit (s.rd R.THM_STATUS.STACK_WARN 0) p
    let h0 := bit (s.rd R.THM_STATUS.STACK_THROTTLE 0) p
    let w1 := hyst w0 t 760 728
    ((s.wr R.THM_STATUS.STACK_WARN 0 (setBit (s.rd R.THM_STATUS.STACK_WARN 0) p w1)).wr R.THM_STATUS.STACK_THROTTLE 0
      (setBit (s.rd R.THM_STATUS.STACK_THROTTLE 0) p (hyst h0 t 816 784))).warnIrq w0 w1

/-- The thermal controller after a round. -/
def State.heatRound (s : State) (us : Nat) : State :=
  let s1 := s.goodFaces.foldl (fun t p => t.faceHeat us p) s
  let s2 := ((List.range 8).filter s.stackPresent).foldl State.stackHeat s1
  match highest (s.goodFaces.map s2.faceTemp) with
  | some t => s2.wr R.THM_STATUS.HOTTEST 0 ((t / 8) % 256).toNat
  | none => s2

/-! ### The governor (R571, R572) -/

/-- Package power of a round, in µW: volts in mV, currents in mA. -/
def State.roundPower (s : State) (vals : Nat → Int) : Nat :=
  (List.range 8).foldl (fun a k => a + (vals (72 + k)).toNat * (vals (80 + k)).toNat) 0 +
  ((List.range 8).filter s.stackPresent).foldl (fun a p => a + Config.stackMv * (vals (88 + p)).toNat) 0

/-- The governor after a round. -/
def State.govern (s : State) (vals : Nat → Int) : State :=
  let w := s.rd R.PWR_LIMIT.WATTS 0 * 1000000
  let now := s.roundPower vals
  let h := (now :: s.power.hist).take 15
  let n := max 1 (s.rd R.PWR_GOV.WINDOW 0)
  let win := h.take n
  let mean := win.foldl (· + ·) 0 / win.length
  let lv := s.rd R.PWR_STAT.GOV_LEVEL 0
  let below := decide (mean + s.rd R.PWR_GOV.HEADROOM 0 * 1000000 < w)
  let low := if below then s.power.low + 1 else 0
  let hard := decide (now * 16 > w * 17) || decide (vals 80 > 900000)
  let down := !hard && !decide (mean > w) && decide (low ≥ s.rd R.PWR_GOV.RAISE 0)
  let lv1 := if hard then min 16 (lv + 2) else if mean > w then min 16 (lv + 1) else if down then lv - 1 else lv
  let lim0 := s.flag R.PWR_STAT.LIMITED 0
  let lim := if lv1 = 16 ∧ mean > w then true else if below then false else lim0
  let t := s.modPower (fun x => { x with hist := h, low := if down then 0 else low })
  let u := ((t.wr R.PWR_STAT.POWER 0 (min 1023 (mean / 1000000))).wr R.PWR_STAT.GOV_LEVEL 0 lv1).wrB R.PWR_STAT.LIMITED 0 lim
  if now > w then u.bump R.PWR_STAT.OVER 0 else u

/-! ### Rails (R613, R617) -/

/-- Nominal voltage in mV and tolerance in thousandths of rail k. -/
def State.railRange (s : State) (k : Nat) : Nat × Nat :=
  ([(s.rd R.PWR_STAT.VCORE_MV 0, 25), (900, 20), (2800, 30), (750, 30), (750, 20), (1200, 30), (800, 50), (1800, 50)]).getD k (0, 0)

/-- Rail k is outside its operating range. -/
def State.railOut (s : State) (vals : Nat → Int) (k : Nat) : Bool :=
  let r := s.railRange k
  decide ((vals (72 + k) - (r.1 : Int)).natAbs * 1000 > r.1 * r.2)

/-- The platform controller's comparison. -/
def State.railRound (s : State) (vals : Nat → Int) : State :=
  let out := (List.range 8).foldl (fun m k => if s.railOut vals k then m + 2 ^ k else m) 0
  let t := ((s.wr R.PLT_RAIL_STAT.OUT 0 out).wr R.PLT_RAIL_STAT.SEEN 0 (Nat.lor (s.rd R.PLT_RAIL_STAT.SEEN 0) out)).wrB
    R.PLT_RAIL_STAT.PROG_HELD 0 (bit out 2)
  (if out ≠ 0 then t.bump R.PLT_RAIL_STAT.ROUNDS_OUT 0 else t).grantWrites

/-! ### A round (R579 to R582) -/

/-- The results of a round. -/
def State.writeResults (s : State) (codes : List (Nat × Bool)) : State :=
  let n := s.rd R.HKC_CTL.LENGTH 0
  loop 128 s (fun t e =>
    if e < n then
      let c := codes.getD e (0, false)
      ((((t.wr R.HKC_RESULT.CODE e (c.1 % 2 ^ 24)).wr R.HKC_RESULT.VALID e 1).wr R.HKC_RESULT.CAL e (s.rd R.HKC_STAT.CAL_DONE 0)).wrB
        R.HKC_RESULT.CLIP e c.2).wr R.HKC_RESULT.ROUND e (s.power.round % 2 ^ 32)
    else t.wr R.HKC_RESULT.VALID e 0)

/-- Code of a channel: that of the first entry that names it. -/
def State.channelCode (s : State) (codes : List (Nat × Bool)) (c : Nat) : Int :=
  match (List.range (s.rd R.HKC_CTL.LENGTH 0)).find? (fun e => decide (s.rd R.HKC_SEQ.CHANNEL e = c)) with
  | some e => ((codes.getD e (0, false)).1 : Int)
  | none => 0

/-- Temperature triggers (R518): blocks that have passed and whose temperature has moved by more than DELTA_T, and ports. -/
def State.calTriggers (s : State) (ports : List Nat) : State :=
  let s1 := loop s.nFaces s (fun t f => loop 64 t (fun u b =>
    let x := u.cal f b
    let far := match u.blockTemp f b with
      | some v => x.passAt.isSome && decide ((v - x.tcal).natAbs > 8 * u.rd R.CAL_CFG.DELTA_T 0)
      | none => false
    (if far then u.calRequest f b 3 else u).noteStale f b))
  ports.foldl State.laneCalStart s1

/-- HOUSEKEEPING_ROUND (R571 to R582, R617): a round ends after `took` µs with its codes by entry; `vals` gives by channel the temperature in 1/8 °C
(0 to 71), the voltage in mV (72 to 79) and the current in mA (80 to 95) they stand for; stacks that did not answer; ports whose edge
sensor calls for a lane calibration. -/
def execHousekeepingRound (took : Nat) (codes : List (Nat × Bool)) (vals : List (Nat × Int)) (silent ports : List Nat) (s : State) :
    Host.Outcome State Fault Refusal :=
  let val (c : Nat) : Int := ((vals.find? (fun v => decide (v.1 = c))).map Prod.snd).getD 0
  let period := s.rd R.HKC_CTL.PERIOD 0
  ok (if s.rd R.HKC_CTL.RUN 0 = 0 ∨ s.rd R.HKC_STAT.REF_READY 0 = 0 ∨ s.rd R.HKC_STAT.CAL_BUSY 0 = 1 then s
      else
        let s1 := (s.bump R.HKC_STAT.ROUNDS 0).modPower (fun x => { x with round := x.round + 1, drooped := [] })
        let s2 := ((if took > period then s1.bump R.HKC_STAT.OVERRUNS 0 else s1).writeResults codes).railRound val
        let s3 := s2.modPower (fun x => { x with vcore := some (val 72).toNat
                                                 rails := [72, 73, 74, 75, 76, 77, 78, 79].foldl (fun m c => mset 0 m c (val c)) [] })
        if s.rd R.HKC_STAT.CAL_DONE 0 = 0 then s3
        else
          let trip := s.sensors.find? (fun c => !s.flag R.THM_SENSOR.IGNORED c && decide (val c ≥ 920) && !(decide (c ≥ 64) && silent.contains (c - 64)))
          let s4 := s.sensors.foldl (fun t c => t.sensorRound val (s.channelCode codes) silent c) s3
          let s5 := ((s4.heatRound (max took period)).govern val).noteVcore
          let s6 := ((s5.orNow State.bdyLevels).calTriggers ports).domNext
          let s7 := s6.grantWrites
          match trip with
          | some c => s7.thermTrip c (val c)
          | none => s7)

/-! ### Loss of VPROG (R617, R601) -/

/-- VPROG_LOSS (R617, R601): VPROG is lost; write-verifies under way are cut short, and their arrays stay WRITING. -/
def execVprogLoss (s : State) : Host.Outcome State Fault Refusal :=
  ok (({ s with writes := s.writes.filter (fun j => !j.started) } : State).noteSlots.buildEnd.discardEnd)

end Sys2Proof.Machine
end

