-- ==== Sys2Proof/Machine/Keys.lean ====
section
/-! DEFINITION. The patrol scrubs (07_scratchpad.md R221, 17_memory_protection.md R484), key rotation (R485 to R489), and tenant sessions
with their release (18_tenancy_and_management.md R497 to R506). -/
namespace Sys2Proof.Machine

/-- Change the key unit's own state. -/
def State.modKey (s : State) (g : KeyWork → KeyWork) : State := { s with key := g s.key }

/-! ### Patrol scrubs -/

/-- One word under a patrol: what is stored after it, whether it was corrected, and whether it is reported. -/
def PWord.patrol (p : PWord) : PWord × Bool × Bool :=
  match checkCode p.flips with
  | .clean => (p, false, false)
  | .fixed r => ({ p.flip r with flips := 0 }, true, false)
  | .bad => ({ p with seen := true }, false, !p.seen)

/-- SP_PATROL (R221): the patrol scrub of face f reads a line whose words carry the bit errors `flips` (word of the line, flipped positions of
the stored codeword) beside those already there: correctable words are corrected, each uncorrectable word is reported once. `last`: a
full patrol is complete. -/
def execSpPatrol (f line : Nat) (flips : List (Nat × Nat)) (last : Bool) (s : State) : Host.Outcome State Fault Refusal :=
  ok (if f ≥ s.nFaces ∨ line ≥ 196608 ∨ s.domOn (16 + s.phys f) = false then s
      else
        let s1 := if mget false (s.face f).written line = false then s
          else s.modFace f (fun x => flips.foldl (fun y e =>
            if e.1 < 16 then
              let p := mget {} y.pad (line * 16 + e.1)
              { y with pad := mset {} y.pad (line * 16 + e.1) { p with flips := nxor p.flips (e.2 % 2 ^ 80) } }
            else y) x)
        if s.rd R.SPD_SCRUB.INTERVAL f = 0 then s1
        else
          let s2 := loop 16 s1 (fun t i =>
            let w := line * 16 + i
            let r := ((t.face f).padWord w).patrol
            if r.2.1 then (t.modFace f (fun x => { x with pad := mset {} x.pad w r.1 })).bump R.SPD_ERR.CORRECTED f
            else if r.2.2 then
              ((t.modFace f (fun x => { x with pad := mset {} x.pad w r.1 })).bump R.SPD_ERR.UNCORRECTABLE f).raise
                { det := .spUncorr, unit := t.unitBank f (w * 8), addr := w * 8, d0 := BitVec.ofNat 64 i, lface := f }
            else t)
          if last then s2.wr R.SPD_SCRUB.LAP f 1 else s2)

/-- Row segments of a stack, and the first granule of one (R473). -/
def segments : Nat := 23437500
def segGran (p seg : Nat) : Nat := p * 2 ^ 29 + 12 * seg

/-- The patrol of one granule's words. -/
def State.patrolGran (s : State) (g : Nat) : State :=
  loop 16 s (fun t i =>
    let x := t.gran g
    let p := mget {} x.words i
    let r := p.patrol
    if r.2.1 then
      let c := x.correct
      (t.setGran g c.1).bumpBy R.MEM_ERR.CORRECTED (stk g) c.2
    else if r.2.2 then
      (t.setGran g { x with words := mset {} x.words i r.1 }).raise
        { det := .hbmUncorr, unit := chanUnit g, addr := g * 128, d0 := BitVec.ofNat 64 i }
    else t)

/-- The patrol of a metadata word, which the first granule g of its four names. -/
def State.patrolMeta (s : State) (g : Nat) : State :=
  let k := metaKey g
  let m := mget 0 s.hbmMeta k
  if m = 0 then s
  else if checkCode m = .bad then
    if mget 0 s.key.metaSeen k = m then s
    else (s.modKey (fun x => { x with metaSeen := mset 0 x.metaSeen k m })).raise
      { det := .hbmUncorr, unit := chanUnit g, addr := g * 128, d0 := 16#64 }
  else ({ s with hbmMeta := mset 0 s.hbmMeta k 0 }).bump R.MEM_ERR.CORRECTED (stk g)

/-- HBM_PATROL (R484): the patrol scrub of stack p reads a row segment whose data words carry the bit errors `flips` (word 0 to 191, flipped
positions) and its metadata words `metas` (word 0 to 2) beside those already there. It is suspended while a release scrubs (R504). -/
def execHbmPatrol (p seg : Nat) (flips metas : List (Nat × Nat)) (last : Bool) (s : State) : Host.Outcome State Fault Refusal :=
  ok (if s.stackOn p = false ∨ p ≥ 8 ∨ seg ≥ segments then s
      else
        let g := segGran p seg
        let s1 := flips.foldl (fun t e =>
          if e.1 < 192 then
            let h := g + e.1 / 16
            let x := t.gran h
            let w := mget {} x.words (e.1 % 16)
            t.setGran h { x with words := mset {} x.words (e.1 % 16) { w with flips := nxor w.flips (e.2 % 2 ^ 80) } }
          else t) s
        let s2 : State := metas.foldl (fun t e =>
          if e.1 < 3 then
            let k := metaKey (g + 4 * e.1)
            { t with hbmMeta := mset 0 t.hbmMeta k (nxor (mget 0 t.hbmMeta k) (e.2 % 2 ^ 80)) }
          else t) s1
        if s.rd R.MEM_SCRUB.INTERVAL 0 = 0 ∨ s.rd R.KEY_SESSION.STATE 0 = 4 then s2
        else
          let s3 := loop 12 s2 (fun t i => t.patrolGran (g + i))
          let s4 := loop 3 s3 (fun t i => t.patrolMeta (g + 4 * i))
          if last then s4.wr R.MEM_SCRUB.LAP 0 1 else s4)

/-! ### Rotation (R485 to R489) -/

/-- Stocked shares whose headers carry key epoch e, face by face. -/
def State.stockedAt (s : State) (e : Nat) : List (Nat × Nat × Nat) :=
  s.caches.flatMap (fun c => (c.2.pages.filter (fun p => decide (p.2.kind = 3 ∧ p.2.key = e))).flatMap (fun p =>
    (List.range s.nFaces).map (fun f => (c.1, p.1, f))))

/-- A stack is left out of the sweep: absent. -/
def State.sweepStacks (s : State) : Nat := (List.range 8).foldl (fun m p => if s.stackPresent p then m + 2 ^ p else m) 0

/-- The rotation takes effect at a boundary (R485): current becomes previous, a new current set takes the next epoch, and sweep and stock pass
begin. -/
def State.bdyRotate (s : State) : State :=
  if s.key.rotate = false then s
  else
    let e := s.rd R.KEY_STATE.EPOCH 0
    let l := s.stockedAt e
    let s1 := s.modKey (fun x => { x with rotate := false, sweep := [], left := l })
    (((((s1.wr R.KEY_STATE.EPOCH 0 (e + 1)).wr R.KEY_STATE.CUR_VALID 0 1).wr R.KEY_STATE.PREV_VALID 0 1).wr R.KEY_STATE.SWEEPING 0 1).wr
      R.KEY_SWEEP_STAT.STACKS_DONE 0 0).wr R.KEY_SWEEP_STAT.STOCK_LEFT 0 (min (2 ^ 24 - 1) l.length)

/-- Shares that the committed page tables no longer name as stocked under the previous set leave the stock pass (R488). -/
def State.passPrune (s : State) : State :=
  let l := s.key.left.filter (fun q =>
    let p := mget {} (s.cacheOf q.1).pages q.2.1
    decide (p.kind = 3 ∧ p.key + 1 = s.rd R.KEY_STATE.EPOCH 0))
  (s.modKey (fun x => { x with left := l })).wr R.KEY_SWEEP_STAT.STOCK_LEFT 0 (min (2 ^ 24 - 1) l.length)

/-- The previous set goes at the first boundary after sweep and stock pass are complete (R489). -/
def State.bdySweepEnd (s : State) : State :=
  if s.rd R.KEY_STATE.SWEEPING 0 = 0 then s
  else
    let t := s.passPrune
    if t.rd R.KEY_SWEEP_STAT.STACKS_DONE 0 = t.sweepStacks ∧ t.key.left = [] then
      ((t.wr R.KEY_STATE.PREV_VALID 0 0).wr R.KEY_STATE.SWEEPING 0 0).wr R.KEY_ROT_CTL.DONE 0 1
    else t

/-- ROTATE (R485): KEY_ROT_CTL.ROTATE; accepted, it takes effect at the next boundary. -/
def execRotate (s : State) : Host.Outcome State Fault Refusal :=
  let refuse (r : Nat) : State := (s.wr R.KEY_ROT_CTL.REFUSE 0 1).wr R.KEY_ROT_CTL.REASON 0 r
  let st := s.rd R.KEY_SESSION.STATE 0
  ok (if st = 3 ∨ st = 4 then refuse 3
      else if st ≠ 2 then refuse 1
      else if s.rd R.KEY_STATE.PREV_VALID 0 = 1 then refuse 2
      else (s.modKey (fun x => { x with rotate := true })).orNow State.bdyRotate)

/-- A granule rewritten under the current set with every word poisoned (R486). -/
def State.poisonGran (s : State) (g : Nat) : State :=
  s.setGran g ⟨wordsOf poisonLine, true, true, false, s.keyGen, s.rd R.KEY_STATE.EPOCH 0, false⟩

/-- The sweep of a granule (R486): one that fails steps 1, 2 or 6 of R482 is poisoned; one present under the previous set is re-encrypted. -/
def State.sweepGran (s : State) (g : Nat) : State :=
  if s.inWreg (g * 128) then s
  else
    let c := (s.gran g).correct
    let x := c.1
    let e := s.rd R.KEY_STATE.EPOCH 0
    let m := mget 0 s.hbmMeta (metaKey g)
    let fixM := decide (m ≠ 0) && decide (checkCode m ≠ .bad)
    let s1 := ({ s.setGran g x with hbmMeta := if fixM then mset 0 s.hbmMeta (metaKey g) 0 else s.hbmMeta }).bumpBy
      R.MEM_ERR.CORRECTED (stk g) (c.2 + if fixM then 1 else 0)
    if x.words.any (fun w => w.2.uncorr) || decide (checkCode m = .bad) then
      let s2 := if checkCode m = .bad then s1.metaPoison g else s1
      ((s2.poisonGran g).bump R.MEM_ERR.UNCORRECTABLE (stk g)).raise
        { det := .hbmUncorr, unit := chanUnit g, addr := g * 128
          d0 := BitVec.ofNat 64 ((x.words.find? (fun w => w.2.uncorr)).elim 16 (fun w => w.1)) }
    else if x.present = false ∨ x.epochField ≠ (e + 3) % 4 then s1
    else if x.poison then s1.poisonGran g
    else if x.tagFails g (s.sessionSet (e - 1)) || (s1.injSlot .tagFail (chanUnit g)).isSome then
      ((s1.poisonGran g).bump R.MEM_ERR.TAG_FAIL (stk g)).raise { det := .tagFail, unit := chanUnit g, addr := g * 128 }
    else s1.setGran g { x with plat := false, gen := s.keyGen, epoch := e
                               words := wordsOf (x.deliver g (s.sessionSet (e - 1))) }

/-- The share of a page table entry that a face's stock pass step handles (R488): read and checked as STKIN would, then stored again under the
current set; one that fails is left with a record. -/
def State.passShare (s : State) (seat page f : Nat) (h : Share) : State :=
  let t := s.modKey (fun x => { x with left := x.left.erase (seat, page, f) })
  let u := t.wr R.KEY_SWEEP_STAT.STOCK_LEFT 0 (min (2 ^ 24 - 1) t.key.left.length)
  let e := mget {} (s.cacheOf seat).pages page
  let tk := seat + page * 2 ^ 14 + 2 ^ 25 + e.stock * 2 ^ 27
  let step := if (u.injSlot .stockFail (unitId 15 0 0 0 2)).isSome then 3 else s.stkinStep f tk h
  if step ≠ 0 then
    u.raise { det := .stockFail, unit := unitId 15 0 0 0 2, addr := s.stockAddr e.stock f, d0 := BitVec.ofNat 64 step, lface := f }
  else
    let now := s.rd R.KEY_STATE.EPOCH 0
    let v := u.stockWrite (s.sessionSet now) e.stock f (shareGrans h) (s.shareStored f e.stock h) (s.shareSeals f e.stock h)
      (headerSeal (h.header.set 3 (BitVec.ofNat 64 (now % 2 ^ 32 + shareFld h 28 4 * 2 ^ 32))))
    let w := v.modKey (fun x => { x with passed := x.passed + s.rd R.SRV_PAGE_CFG.SHARE 0 * 4096 })
    if w.key.left.any (fun q => decide (q.1 = seat ∧ q.2.1 = page)) then w
    else w.setPte seat page { e with key := s.rd R.KEY_STATE.EPOCH 0 }

/-- The stock pass may handle a share now (R488): within the hand's cap less its recall tickets, and holding no ticket. -/
def State.passMay (s : State) (seat page f : Nat) : Bool :=
  let e := mget {} (s.cacheOf seat).pages page
  let recalls := (s.hand.tickets.filter (fun t => tkIn t.2)).length * s.rd R.SRV_PAGE_CFG.SHARE 0 * 4096
  decide (s.rd R.KEY_STATE.SWEEPING 0 = 1) && s.key.left.contains (seat, page, f) && decide (e.kind = 3) &&
  !s.hand.tickets.any (fun t => decide (tkSeat t.2 = seat ∧ tkPage t.2 = page)) &&
  decide (s.key.passed + s.rd R.SRV_PAGE_CFG.SHARE 0 * 4096 + recalls ≤ s.rd R.KEY_SWEEP_CFG.STOCK_MIB 0 * 2 ^ 20)

/-- SWEEP_SEGMENT (R486, R488): stack p's sweep locks, re-encrypts and writes back its next row segment, while requests waited `wait` fc in all for
the lock; beside it the stock pass handles the share given (seat, page, face, what is read of it), if one. -/
def execSweepSegment (p wait : Nat) (share : Option (Nat × Nat × Nat × Share)) (s : State) : Host.Outcome State Fault Refusal :=
  let n := mget 0 s.key.sweep p
  ok (if s.rd R.KEY_STATE.SWEEPING 0 = 0 then s
      else
        let s1 := if p ≥ 8 ∨ s.stackOn p = false ∨ n ≥ segments then s
          else
            let t := (loop 12 s (fun t i => t.sweepGran (segGran p n + i))).bumpBy R.KEY_SWEEP_STAT.LOCK_WAIT 0 wait
            let u := t.modKey (fun x => { x with sweep := mset 0 x.sweep p (n + 1) })
            if n + 1 = segments then
              u.wr R.KEY_SWEEP_STAT.STACKS_DONE 0 (setBit (u.rd R.KEY_SWEEP_STAT.STACKS_DONE 0) p true) else u
        match share with
        | some (seat, page, f, h) => if s1.passMay seat page f then s1.passShare seat page f h else s1
        | none => s1)

/-! ### Release (R499 to R505) -/

/-- Step 1: admission stops; seats and held antes of the device's rings get their records; seats, prefix sets, grammars and host calls go. -/
def State.releaseSeats (s : State) : State :=
  let s1 := s.seats.foldl (fun t e =>
    if e.2.st = .free then t
    else
      let u := if e.2.front = s.devAddr then t.endRecord e.1 4 7 else t
      u.setSeat e.1 { gen := e.2.gen + 1 }) s
  let s2 := s1.antes.foldl (fun t a =>
    if a.front = s.devAddr then
      (t.bump R.SRV_STAT.REFUSED 0).record a.front a.ring (mkRecord a.tag 0xFFFFFFFF 6 1 0 0 s.handNum 0 []) else t) s1
  let s3 := s2.prefixes.foldl (fun t e =>
    ((t.wr R.SRV_PFX_STATE.STATE e.1 0).wr R.SRV_PFX_STATE.PAGES e.1 0).wr R.SRV_PFX_STATE.REFS e.1 0) s2
  let s4 := loop 64 s3 (fun t g => (t.wr R.DLR_GRAM_STATE.STATE g 0).wr R.DLR_GRAM_STATE.REFS g 0)
  let s5 := loop s.nFaces s4 (fun t f => t.wr R.FCE_HOST_CALL.PENDING f 0)
  let s6 : State := { s5 with antes := [], folds := [], prefixes := [], grams := [], caches := [], limbo := [], drecs := [], slots := []
                              headQ := [], usedFrames := [], usedStock := []
                              hand := { s5.hand with running := false, desc := [], tickets := [], moved := [], alloc := [], shares := [], draws := none } }
  (((s6.writeRecs (2 ^ 64) s.handNum).ringIrqs).seatRegs).heldReg s.handNum

/-- Step 2: movers stop, and what other engines complete is discarded. -/
def Face.releaseOps (x : Face) : Face :=
  let y := x.dropQueued
  let gone := y.started.filter (fun q => decide (q.eng = .mover))
  { y with started := (y.started.filter (fun q => decide (q.eng ≠ .mover))).map (fun q => { q with discard := true })
           sb := y.sb.filter (fun e => !(gone.any (fun q => decide (q.id = e.op)))), run := .off, handler := .none }

/-- Counters after a release (R333): value 0 and ERR clear; one that an ACTIVE program declares keeps its ceiling. -/
def Face.releaseCtrs (x : Face) (active : Bool) : Face :=
  { x with ctr := x.ctr.filterMap (fun e => if e.2.declared && active then
               some (e.1, { ceil := e.2.ceil, declared := true, check := e.2.check }) else none)
           handles := x.handles.map (fun e => (e.1, { e.2 with play := none, played := false })), hostSigs := [], entryTraps := [] }

/-- Registers of the kinds named return to reset. -/
def State.resetRegs (s : State) (rs : List RegId) : State :=
  { s with regs := s.regs.filter (fun e => !(rs.any (fun r => decide (r.ctorIdx = e.1 % 256)))) }

/-- Step 3: the session epoch rises, windows close, and counters, mirrors, tricks and the output set are as after reset. -/
def State.releaseSync (s : State) : State :=
  let s1 := s.wr R.KEY_SESSION.EPOCH 0 (s.rd R.KEY_SESSION.EPOCH 0 + 1)
  let s2 := s1.faces.foldl (fun t e => e.2.wins.foldl (fun u w =>
    ((u.dropSlots e.1 w.1).setWin e.1 w.1 {}).wr R.SYN_WIN_STATE.STATE (ix 256 e.1 w.1) 0) t) s1
  let s3 := loop s.nFaces s2 (fun t f => t.modFace f (fun x => { x.releaseCtrs (decide (s.progState f = 3)) with raced := [] }))
  let s4 := s3.resetRegs [.SYN_MIRROR, .SYN_TRICK_CFG, .SYN_DTRICK_CFG]
  { s4 with ring := [], plays := [], dtricks := [], trickReq := [], dtrickReq := [], sigrs := [], partials := []
            hand := { s4.hand with outSet := [], sent := [], sigrDevs := [] } }

/-- Step 4: both session sets go, and a sweep or stock pass stops. -/
def State.releaseKeys (s : State) : State :=
  let t := s.modKey (fun x => { x with open_ := false, rotate := false, release := none, sweep := [], left := [] })
  (((t.wr R.KEY_STATE.CUR_VALID 0 0).wr R.KEY_STATE.PREV_VALID 0 0).wr R.KEY_STATE.SWEEPING 0 0).wr R.KEY_SWEEP_STAT.STOCK_LEFT 0 0

/-- A release begins (R502 steps 1 to 4): the scrub follows. -/
def State.startRelease (s : State) : State :=
  let s1 := (s.wr R.KEY_SESSION.STATE 0 3).releaseSeats
  let s2 := loop s.nFaces s1 (fun t f => t.modFace f Face.releaseOps)
  ((s2.releaseSync.releaseKeys).wr R.KEY_SESSION.STATE 0 4).wr R.KEY_SESSION.STEP 0 4

/-- An accepted open takes effect (R497): a current set of the next epoch, and the session is OPEN. -/
def State.openSession (s : State) : State :=
  (((s.modKey (fun x => { x with open_ := false })).wr R.KEY_STATE.EPOCH 0 (s.rd R.KEY_STATE.EPOCH 0 + 1)).wr R.KEY_STATE.CUR_VALID 0 1).wr
    R.KEY_SESSION.STATE 0 2

/-- Opens and releases at a boundary: a release begins after the commit steps of the boundary after its hand. -/
def State.bdySession (s : State) : State :=
  let s1 := if s.key.open_ then s.openSession else s
  match s1.key.release with
  | some h => if s1.ticking = false ∨ s1.handNum ≥ h then s1.startRelease else s1
  | none => s1

/-- The key unit at a boundary. -/
def State.bdyKeys (s : State) : State := s.bdySweepEnd.bdyRotate.bdySession

/-- A refused session request. -/
def State.sessionRefuse (s : State) (r : Nat) : State := (s.wr R.KEY_SESSION_CTL.REFUSE 0 1).wr R.KEY_SESSION_CTL.REASON 0 r

/-- SESSION_OPEN (R497): KEY_SESSION_CTL.OPEN. -/
def execSessionOpen (s : State) : Host.Outcome State Fault Refusal :=
  let st := s.rd R.KEY_SESSION.STATE 0
  let life := s.rd R.PLT_LIFECYCLE.STATE 0
  ok (if st = 1 ∨ st = 2 then s.sessionRefuse 3
      else if st ≠ 0 then s.sessionRefuse 1
      else if (life ≠ 1 ∧ life ≠ 2) ∨ s.rd R.KEY_STATE.PLATFORM_VALID 0 = 0 then s.sessionRefuse 2
      else ((s.wr R.KEY_SESSION.STATE 0 1).modKey (fun x => { x with open_ := true })).orNow State.bdyKeys)

/-- The boundary after hand h is over. -/
def State.boundaryPast (s : State) (h : Nat) : Bool := decide (h < s.handNum) || (decide (h = s.handNum) && !s.hand.running)

/-- Why a request for a release is refused (R499, R517): 0 not, 3 one is in progress, 4 its hand has passed. -/
def State.releaseReason (s : State) : Nat :=
  let st := s.rd R.KEY_SESSION.STATE 0
  if st = 3 ∨ st = 4 then 3
  else if s.rd R.KEY_SESSION_CTL.AT_HAND 0 = 1 ∧ s.ticking = true ∧ s.boundaryPast (s.rd R.KEY_RELEASE_HAND.HAND 0) = true then 4
  else 0

/-- A release is requested through PF0 or over the management network (R499). -/
def State.requestRelease (s : State) : State :=
  let h := if s.rd R.KEY_SESSION_CTL.AT_HAND 0 = 1 then s.rd R.KEY_RELEASE_HAND.HAND 0 else 0
  if s.releaseReason ≠ 0 then s.sessionRefuse s.releaseReason
  else (s.modKey (fun x => { x with release := some (match x.release with
    | some k => min k h
    | none => h) })).orNow State.bdyKeys

/-- SESSION_RELEASE (R499): KEY_SESSION_CTL.RELEASE. -/
def execSessionRelease (s : State) : Host.Outcome State Fault Refusal := ok s.requestRelease

/-- Every granule of a row segment lies in the weight region. -/
def State.segInWreg (s : State) (p seg : Nat) : Bool := (List.range 12).all (fun i => s.inWreg ((segGran p seg + i) * 128))

/-- Step 5's contents (R504): granules outside the weight region hold nothing, and rewritten segments have valid codes. -/
def State.scrubHbm (s : State) : State :=
  { s with hbm := s.hbm.filter (fun e => s.inWreg (e.1 * 128))
           hbmMeta := s.hbmMeta.filter (fun e => s.segInWreg (e.1 / 2 ^ 28) (e.1 % 2 ^ 28 / 3)) }

/-- A segment that fails its read-back for the third time: POISON 1 outside the weight region, and a record. -/
def State.scrubFail (s : State) (p seg : Nat) : State :=
  let g := segGran p seg
  (loop 12 s (fun t i => if t.inWreg ((g + i) * 128) then t else t.setGran (g + i) { poison := true })).raise
    { det := .scrubFail, unit := chanUnit g, addr := g * 128 }

/-- An injected failure of a read-back check, which the rewrite mends (R504, R559). -/
def State.scrubInject (s : State) : State :=
  loop 8 s (fun t i =>
    let u := t.rd R.FLT_INJ_UNIT.UNIT i
    if t.rd R.FLT_INJ_CTL.DETECTOR i = Det.scrubFail.row.1 then ((t.inject .scrubFail u (fun _ => false)).map Prod.snd).getD t else t)

/-- Step 6: scratchpads, caches and STATS are cleared on every face, and resident regions come back from a staged image (R505). -/
def State.releaseFaces (s : State) : State :=
  let keep := decide (s.rd R.PLT_WIMG_STATE.STATE 0 = 2)
  let t := loop s.nFaces s (fun u f =>
    ((u.cacheClear f).unload f).modFace f (fun x =>
      { x.dropLines (fun _ => true) with stats := [], fineLive := if keep then x.fineLive else [] }))
  t.putBack false

/-- The lifecycle moves (R507): outside the open state the debug paths are closed, and what they read reads zero (R516). -/
def State.setLife (s : State) (v : Nat) : State :=
  ((s.wr R.PLT_LIFECYCLE.STATE 0 v).wr R.PLT_LIFECYCLE.DEBUG 0 0).resetRegs [.PLT_DBG_DATA]

/-- Step 7: CLEAN and DONE; a lifecycle transition that waited follows (R507). -/
def State.releaseEnd (s : State) : State :=
  let t := ((s.wr R.KEY_SESSION.STATE 0 0).wr R.KEY_SESSION.DONE 0 1).wr R.KEY_SESSION.STEP 0 7
  let u := if t.rd R.KEY_SESSION_CTL.IRQ 0 = 1 then t.msix 0 (t.rd R.KEY_SESSION_CTL.VECTOR 0) else t
  match u.key.after with
  | some v => (u.setLife v).modKey (fun x => { x with after := none })
  | none => u

/-- RELEASE_SCRUB_DONE (R502 steps 5 to 7, R504): the scrub ends, with the row segments (stack, segment) that failed their third read-back. -/
def execReleaseScrubDone (failed : List (Nat × Nat)) (s : State) : Host.Outcome State Fault Refusal :=
  ok (if s.rd R.KEY_SESSION.STATE 0 ≠ 4 then s
      else
        let t := failed.foldl (fun u e => if e.1 < 8 ∧ e.2 < segments ∧ s.stackPresent e.1 = true then u.scrubFail e.1 e.2 else u)
          s.scrubHbm.scrubInject
        ((t.wr R.KEY_SESSION.STEP 0 5).releaseFaces.wr R.KEY_SESSION.STEP 0 6).releaseEnd)

end Sys2Proof.Machine
end

