-- ==== Sys2Proof/Machine/Mgmt.lean ====
section
/-! DEFINITION. The management network, its operations and attestation (18_tenancy_and_management.md R507 to R516).  An answer is an output of
the session: the operation's code (R513), 0 accepted or 1 refused, and what it reports (log entry 19). -/
namespace Sys2Proof.Machine

/-! ### Sessions (R510, R511) -/

def State.msess (s : State) (i : Nat) : MSess := mget {} s.mgmt.sessions i

/-- Change a session; SESSIONS follows. -/
def State.setMsess (s : State) (i : Nat) (x : MSess) : State :=
  let t : State := { s with mgmt := { s.mgmt with sessions := mset {} s.mgmt.sessions i x } }
  t.wr R.PLT_LIFECYCLE.SESSIONS 0 (min 4 (t.mgmt.sessions.filter (fun e => e.2.live)).length)

/-- Send a datagram on a session: it stays unacknowledged until its number is. -/
def State.mgmtSend (s : State) (i : Nat) (body : List Nat) : State :=
  let x := s.msess i
  if x.live then
    (s.setMsess i { x with out := x.out ++ [(x.next, body)], next := (x.next + 1) % 2 ^ 32 }).emit (.mgmt i body)
  else s

/-- A datagram of the peer arrives on a session, acknowledging the first `acks` outstanding ones. -/
def State.mgmtTake (s : State) (i acks : Nat) : State :=
  let x := s.msess i
  if x.live then s.setMsess i { x with last := s.now, out := x.out.drop acks, repeats := if acks = 0 then x.repeats else 0 } else s

/-- MGMT_HANDSHAKE (R510, R511): a handshake for session i; `client`: the enrolled credential whose key signed the client's certificate, if it
sent one; `proto`: TLS 1.3 with the one suite, group and signature.  A fifth session is refused. -/
def execMgmtHandshake (i : Nat) (client : Option Nat) (proto : Bool) (s : State) : Host.Outcome State Fault Refusal :=
  let open_ := (s.mgmt.sessions.filter (fun e => e.2.live)).length
  let known := match client with
    | some c => s.mgmt.ops.contains c
    | none => false
  ok (if (s.msess i).live = true ∨ open_ ≥ 4 then s
      else if proto = false ∨ (s.mgmt.ops ≠ [] ∧ known = false) then s.bump R.PLT_LIFECYCLE.AUTH_FAIL 0
      else s.setMsess i { live := true, cred := known, last := s.now })

/-- MGMT_RETRANSMIT (R510): the oldest datagram of a session has gone unacknowledged for 50 ms: it is repeated, and after eight repeats the
session is dropped. -/
def execMgmtRetransmit (i : Nat) (s : State) : Host.Outcome State Fault Refusal :=
  let x := s.msess i
  ok (match x.out with
    | [] => s
    | d :: _ =>
      if x.live = false then s
      else if x.repeats ≥ 8 then s.setMsess i {}
      else (s.setMsess i { x with repeats := x.repeats + 1 }).emit (.mgmt i d.2))

/-- MGMT_IDLE_TIMEOUT (R510): 300 s after its last datagram a session is closed. -/
def execMgmtIdleTimeout (i : Nat) (s : State) : Host.Outcome State Fault Refusal :=
  let x := s.msess i
  ok (if x.live then (s.advance (x.last + 300000000000)).setMsess i {} else s)

/-! ### Operations (R513) -/

/-- Lifecycle states: 0 raw, 1 open, 2 deployed, 3 retired. -/
def State.life (s : State) : Nat := s.rd R.PLT_LIFECYCLE.STATE 0

/-- An operation under the operator credential is accepted on session i in the lifecycle states given. -/
def State.mayOp (s : State) (i : Nat) (states : List Nat) : Bool := (s.msess i).live && (s.msess i).cred && states.contains s.life

/-- Carry out an operation, or refuse it, and answer. -/
def State.mgmtOp (s : State) (i acks code : Nat) (may : Bool) (g : State → Option (State × List Nat)) : State :=
  let t := s.mgmtTake i acks
  if may then
    match g t with
    | some r => r.1.mgmtSend i (code :: 0 :: r.2)
    | none => t.mgmtSend i [code, 1]
  else t.mgmtSend i [code, 1]

/-- What READ_LOG reads: 0 a slot of the HBM log ring, 1 a unit's history entry, 2 a record of the non-volatile store. -/
def State.readLog (s : State) (what n : Nat) : State × List Nat :=
  if what = 0 then
    let a := s.logSlot n
    if s.stackOn (hStack a) then
      let r := s.hbmRead (a / 128)
      (r.1, (List.range 8).map (fun i => (r.2.getD (a / 8 % 16 + i) (0#64, false)).1.toNat))
    else (s, [])
  else if what = 1 then
    let x := mget {} s.hist n
    (s, [if s.hist.any (fun e => decide (e.1 = n)) then 1 else 0, if x.perm then 1 else 0, x.count, x.t1, x.t2])
  else match s.nvLog[n]? with
    | some r => (s, (r.words 0).map BitVec.toNat)
    | none => (s, [])

/-- READ_LOG (R513): reads fault records and history. -/
def execReadLog (i acks what n : Nat) (s : State) : Host.Outcome State Fault Refusal :=
  ok (s.mgmtOp i acks 4 (s.mayOp i [1, 2, 3]) (fun t => some (t.readLog what n)))

/-- The credentials enrolled. -/
def State.setOps (s : State) (xs : List Nat) : State :=
  ({ s with mgmt := { s.mgmt with ops := xs, used := true } } : State).wrB R.PLT_LIFECYCLE.ENROLLED 0 (decide (xs ≠ []))

/-- ENROLL_OP (R512, R508): fills a free slot of two; without a credential once only, in the open state. -/
def execEnrollOp (i acks cred : Nat) (s : State) : Host.Outcome State Fault Refusal :=
  let first := (s.msess i).live && decide (s.life = 1) && !s.mgmt.used && decide (s.mgmt.ops = [])
  ok (s.mgmtOp i acks 5 (s.mayOp i [1, 2] || first) (fun t =>
    if t.mgmt.ops.length ≥ 2 ∨ t.mgmt.ops.contains cred = true then none else some (t.setOps (t.mgmt.ops ++ [cred]), [])))

/-- REVOKE_OP (R512): empties a slot, but not the last of a deployed device. -/
def execRevokeOp (i acks cred : Nat) (s : State) : Host.Outcome State Fault Refusal :=
  ok (s.mgmtOp i acks 5 (s.mayOp i [1, 2]) (fun t =>
    if t.mgmt.ops.contains cred = false ∨ (t.life = 2 ∧ t.mgmt.ops.length = 1) then none else some (t.setOps (t.mgmt.ops.erase cred), [])))

/-- The image keys enrolled; IMGKEYS counts them. -/
def State.setImgKeys (s : State) (xs : List ImgKey) : State := ({ s with imgKeys := xs } : State).wr R.PLT_WIMG_FLOOR.IMGKEYS 0 xs.length

/-- ENROLL_IMGKEY (R513): up to eight image keys. -/
def execEnrollImgkey (i acks key x y : Nat) (s : State) : Host.Outcome State Fault Refusal :=
  ok (s.mgmtOp i acks 6 (s.mayOp i [1, 2]) (fun t =>
    if t.imgKeys.any (fun k => decide (k.id = key)) then some (t, [])
    else if t.imgKeys.length ≥ 8 then none else some (t.setImgKeys (t.imgKeys ++ [⟨key, x, y⟩]), [])))

/-- REVOKE_IMGKEY (R513): affects only later opens. -/
def execRevokeImgkey (i acks key : Nat) (s : State) : Host.Outcome State Fault Refusal :=
  ok (s.mgmtOp i acks 6 (s.mayOp i [1, 2]) (fun t =>
    if t.imgKeys.any (fun k => decide (k.id = key)) then some (t.setImgKeys (t.imgKeys.filter (fun k => decide (k.id ≠ key))), []) else none))

/-- SET_FLOOR (R513): raises PLT_WIMG_FLOOR; a lower value is refused. -/
def execSetFloor (i acks v : Nat) (s : State) : Host.Outcome State Fault Refusal :=
  ok (s.mgmtOp i acks 7 (s.mayOp i [1, 2]) (fun t =>
    if v < t.rd R.PLT_WIMG_FLOOR.FLOOR 0 ∨ v ≥ 2 ^ 32 then none else some (t.wr R.PLT_WIMG_FLOOR.FLOOR 0 v, [])))

/-- MGMT_RELEASE (R499, R513): the answer says whether the request is refused. -/
def execMgmtRelease (i acks : Nat) (s : State) : Host.Outcome State Fault Refusal :=
  let t := s.mgmtTake i acks
  ok (if s.mayOp i [1, 2] then t.requestRelease.mgmtSend i [8, min 1 t.releaseReason] else t.mgmtSend i [8, 1])

/-- A release at the next boundary, with the lifecycle state that follows it; a release in progress is that release. -/
def State.releaseThen (s : State) (v : Nat) : State :=
  let t := s.modKey (fun x => { x with after := some (max v (x.after.getD 0)) })
  if t.rd R.KEY_SESSION.STATE 0 ≥ 3 then t else (t.modKey (fun x => { x with release := some 0 })).orNow State.bdyKeys

/-- DEPLOY (R507, R517): open to deployed, with a credential enrolled; a session that is OPEN is released first. -/
def execDeploy (i acks : Nat) (s : State) : Host.Outcome State Fault Refusal :=
  ok (s.mgmtOp i acks 9 (s.mayOp i [1]) (fun t =>
    if t.mgmt.ops = [] then none
    else if t.rd R.KEY_SESSION.STATE 0 = 0 then some (t.setLife 2, [])
    else some (t.releaseThen 2, [])))

/-- RETIRE (R507): open or deployed to retired, after a release. -/
def execRetire (i acks : Nat) (s : State) : Host.Outcome State Fault Refusal :=
  ok (s.mgmtOp i acks 9 (s.mayOp i [1, 2]) (fun t => some (t.releaseThen 3, [])))

/-- A firmware slot verifies (R599): the key's SHA-384 is the one in the boot ROM, and its signature over the image's SHA-384 holds. -/
def fwVerifies (image : List Word) (key sig : Nat × Nat) : Bool :=
  decide (digestWords (beBytes key.1 48 ++ beBytes key.2 48) = Config.firmwareKey) && verify384 key (wordBytes image) sig.1 sig.2

/-- FIRMWARE (R513, R599): a firmware image with its version, key and signature goes into the slot that is not running, used from the next cold
reset. -/
def execFirmware (i acks version : Nat) (image : List Word) (key sig : Nat × Nat) (s : State) : Host.Outcome State Fault Refusal :=
  ok (s.mgmtOp i acks 10 (s.mayOp i [1, 2]) (fun t =>
    let slot := 1 - t.rd R.PLT_BOOT_STATE.FW_SLOT 0
    let digest := digestWords (wordBytes image)
    let good := fwVerifies image key sig
    some ({ t with mgmt := { t.mgmt with fw := mset {} t.mgmt.fw slot { version := version, digest := digest, good := good } } }, [])))

/-- PROBE_DECK (R513, R560): a signed probe deck, as little-endian words. -/
def execProbeDeck (i acks : Nat) (deck : List Word) (s : State) : Host.Outcome State Fault Refusal :=
  ok (s.mgmtOp i acks 11 (s.mayOp i [1, 2]) (fun t =>
    some (t.loadDeck deck, [])))

/-- INJECT (R513, R558): writes injection slot n. -/
def execInject (i acks n : Nat) (ctl unit : Word) (s : State) : Host.Outcome State Fault Refusal :=
  ok (s.mgmtOp i acks 11 (s.mayOp i [1, 2]) (fun t => some (t.writeInj n ctl unit 7, [])))

/-! ### Attestation (R514) -/

/-- Answer an SPDM request where it came from: `via` 0 to 3 a management session, 8 and 10 the DOE mailboxes of PF0 and PF2. -/
def State.spdmAnswer (s : State) (via : Nat) (body : List Nat) : State :=
  if via < 8 then s.mgmtSend via (1 :: 0 :: body)
  else if via = 8 ∨ via = 10 then s.emit (.pcie ((via - 8) :: body)) else s

/-- A request arrives: on a management session it needs no credential. -/
def State.spdmTake (s : State) (via acks : Nat) : State := if via < 8 then s.mgmtTake via acks else s

/-- Lowest live image version. -/
def State.lowVersion (s : State) : Nat :=
  (s.regs.foldl (fun (a : Option Nat) e =>
    if e.1 % 256 = RegId.ctorIdx .ARF_WSMAP_LO then
      let i := e.1 / 256
      if s.rd R.ARF_WSMAP_LO.VALID i = 1 then
        let v := if s.rd R.ARF_WSMAP_LO.LIVE i = 0 then s.rd R.ARF_WSVER.A_VERSION i else s.rd R.ARF_WSVER.B_VERSION i
        some (match a with
          | some b => min b v
          | none => v)
      else a
    else a) none).getD 0

/-- Measurement i at the time of the request. -/
def State.measure (s : State) (i : Nat) : List Nat :=
  let img := s.lastImg.getD (0, [])
  let fw := mget {} s.mgmt.fw (s.rd R.PLT_BOOT_STATE.FW_SLOT 0)
  match i with
  | 1 => Config.romDigest
  | 2 => fw.version :: fw.digest.map BitVec.toNat
  | 3 => [s.life, (s.reg .PLT_CAP_FACES 0).toNat, (s.reg .PLT_CAP_UNITS 0).toNat]
  | 4 => img.1 :: s.lowVersion :: s.liveVersion :: img.2.map BitVec.toNat
  | 5 => s.rd R.PLT_WIMG_FLOOR.FLOOR 0 :: s.imgKeys.map ImgKey.id
  | 6 => [s.rd R.KEY_SESSION.STATE 0, s.rd R.KEY_SESSION.EPOCH 0, s.rd R.KEY_STATE.EPOCH 0]
  | _ => []

/-- An answer with the identity key's signature over it. -/
def State.signed (s : State) (body : List Nat) : State × List Nat :=
  let d := s.draw
  (d.2, body ++ Config.signature d.1 body)

/-- GET_VERSION (R514): SPDM 1.3. -/
def execGetVersion (via acks : Nat) (s : State) : Host.Outcome State Fault Refusal := ok ((s.spdmTake via acks).spdmAnswer via [1, 3])

/-- GET_CAPABILITIES (R514): certificates, challenges and signed measurements; no secured-message session. -/
def execGetCapabilities (via acks : Nat) (s : State) : Host.Outcome State Fault Refusal :=
  ok ((s.spdmTake via acks).spdmAnswer via [2, 1, 1, 1, 0])

/-- NEGOTIATE_ALGORITHMS (R514): ECDSA P-384 with SHA-384 only (1), where the requester offers it; otherwise nothing is agreed (0). -/
def execNegotiateAlgorithms (via acks : Nat) (offered : Bool) (s : State) : Host.Outcome State Fault Refusal :=
  ok ((s.spdmTake via acks).spdmAnswer via [3, if offered then 1 else 0])

/-- GET_DIGESTS (R514): the SHA-384 of the certificate chain. -/
def execGetDigests (via acks : Nat) (s : State) : Host.Outcome State Fault Refusal :=
  ok ((s.spdmTake via acks).spdmAnswer via (4 :: (sha384 Config.certChain).map BitVec.toNat))

/-- GET_CERTIFICATE (R514): a part of the certificate chain. -/
def execGetCertificate (via acks offset len : Nat) (s : State) : Host.Outcome State Fault Refusal :=
  ok ((s.spdmTake via acks).spdmAnswer via (5 :: (Config.certChain.drop offset).take len))

/-- CHALLENGE (R514): the chain's digest and the requester's nonce, signed with the identity key. -/
def execChallenge (via acks : Nat) (nonce : List Nat) (s : State) : Host.Outcome State Fault Refusal :=
  let r := (s.spdmTake via acks).signed (6 :: (sha384 Config.certChain).map BitVec.toNat ++ nonce)
  ok (r.1.spdmAnswer via r.2)

/-- GET_MEASUREMENTS (R514): measurement `index` (0: how many there are; 255: all), signed where asked. -/
def execGetMeasurements (via acks index : Nat) (nonce : List Nat) (sign : Bool) (s : State) : Host.Outcome State Fault Refusal :=
  let t := s.spdmTake via acks
  let body := 7 :: (if index = 0 then [6] else if index = 255 then (List.range 6).flatMap (fun i => t.measure (i + 1)) else t.measure index)
  let r := if sign then t.signed (body ++ nonce) else (t, body)
  ok (r.1.spdmAnswer via r.2)

/-! ### Debug reads (R516) -/

/-- DBG_READ (R516): a write of PLT_DBG_CTL through PF0, in the open state only. -/
def execDbgRead (f addr : Nat) (s : State) : Host.Outcome State Fault Refusal :=
  ok (if s.life ≠ 1 then s
      else
        let a := addr % 2 ^ 25
        let t := (s.wr R.PLT_DBG_CTL.ADDR 0 a).wr R.PLT_DBG_CTL.FACE 0 f
        if f % 8 ≥ s.nFaces then loop 16 t (fun u i => u.setReg .PLT_DBG_DATA i 0#64)
        else
          let u := t.padTouchRange (f % 8) (a / 128 * 128) 128
          let ws := (t.face (f % 8)).padWords (a / 128 * 128) 128
          loop 16 u (fun v i => v.setReg .PLT_DBG_DATA i (ws.getD i (0#64, false)).1))

end Sys2Proof.Machine
end

