-- ==== Sys2Proof/Machine/Resets.lean ====
section
/-! DEFINITION. Resets and boot (22_host_reset_startup.md R592 to R605). -/
namespace Sys2Proof.Machine

def State.modHif (s : State) (g : Hif → Hif) : State := { s with hif := g s.hif }

/-! ### Face reset (R596) -/

/-- Steps 1 and 2 of a face reset: DOWN, issue stops, what has not started is discarded; a hand that runs misdeals. -/
def State.startFaceReset (s : State) (f : Nat) : State :=
  if f ≥ s.nFaces ∨ (s.face f).inReset = true ∨ s.domOn (16 + s.phys f) = false ∨ s.hif.warm = true then s
  else
    let run := s.hand.running
    let t := ((s.setDown f true).homeLost f).modFace f (fun x =>
      { x.dropQueued with
        started := (x.dropQueued).started.map (fun q => { q with discard := true })
        run := if run then .ended else .off
        failed := x.failed || run
        inReset := true
        resetDone := false
        autoReset := none })
    let u : State := if run then { t with hand := { t.hand with resetMisdeal := true } } else t
    u.wr R.PLT_FACE_RESET.BUSY 0 (setBit (u.rd R.PLT_FACE_RESET.BUSY 0) f true)

/-- Counters and tricks of a face as at the entry of the hand (R41 step 3). -/
def Face.rollback (x : Face) : Face :=
  { x with ctr := x.ctr.map (fun e => (e.1, if e.2.declared then { e.2 with value := e.2.entry, bell := none } else { e.2 with bell := none }))
           handles := x.handles.map (fun e => (e.1, { e.2 with play := none, played := false })) }

/-- The sequencer of a face, its queues and its scoreboard, reset; its program, windows and weights stay. -/
def Face.resetSeq (x : Face) (running : Bool) : Face :=
  { x with pc := 0, s := [], a := [], p := [], l := [], hn := 0, tpc := 0, tcause := 0, tinfo := 0#64
           run := if running then .ended else .off, handler := .none, heldWarn := false, heldSoft := none, warned := false, endTime := none
           hostCall := false, result := 0#64, probeOk := false, queue := [], started := [], sb := [], mvm := none, stats := [], params := []
           paramPoison := [] }

/-- DOWN clears at the first boundary after a reset, unless something holds the face down (R596 step 4). -/
def State.bdyDown (s : State) : State :=
  loop s.nFaces s (fun t f =>
    let x := t.face f
    if x.resetDone then
      let u := t.modFace f (fun y => { y with resetDone := false })
      if x.heldFor = [] then u.setDown f false else u
    else t)

/-- Step 3 of a face reset, after the last of its started operations has ended. -/
def State.endFaceReset (s : State) (f : Nat) : State :=
  let run := s.hand.running
  let t := s.modFace f (fun x =>
    { (if run then x.rollback else x).resetSeq run with failed := x.failed, inReset := false, resetDone := true, endTime := none })
  let u := ((t.resetDomain .face (fun r i => decide (outerIx r i = f))).cacheClear f)
  (u.wr R.PLT_FACE_RESET.BUSY 0 (setBit (u.rd R.PLT_FACE_RESET.BUSY 0) f false)).bump R.PLT_FACE_RESET.COUNT 0

/-- FACE_RESET (R596): PLT_FACE_RESET; each face of the mask is reset. -/
def execFaceReset (mask : Nat) (s : State) : Host.Outcome State Fault Refusal :=
  ok (loop 8 s (fun t f => if bit mask f then t.startFaceReset f else t))

/-- FACE_RESET_DONE (R596). -/
def execFaceResetDone (f : Nat) (s : State) : Host.Outcome State Fault Refusal :=
  ok (if (s.face f).inReset = true ∧ (s.face f).started = [] then (s.endFaceReset f).orNow State.bdyDown else s)

/-- AUTO_FACE_RESET (R552): AUTO_RESET ms after a face fault of cause 1, 2 or 3. -/
def execAutoFaceReset (f : Nat) (s : State) : Host.Outcome State Fault Refusal :=
  ok (match (s.face f).autoReset with
    | none => s
    | some t =>
      ((s.advance t).modFace f (fun x => { x with autoReset := none, autoTimes := x.autoTimes ++ [s.rd R.FLT_HIST_STAT.POWERED 0] })).startFaceReset f)

/-! ### Function-level resets (R594) -/

/-- Function-domain registers of function fn. -/
def regOfFn (fn : Nat) (r : RegId) : Bool :=
  let pf2 := decide (r = .FLT_HOST_RING ∨ r = .FLT_HOST_HEAD ∨ r = .HIF_PF2_APERTURE)
  if fn = 0 then !pf2 else decide (fn = 2) && pf2

/-- Folds of a function-level reset of PF0 at the boundary: every seat and held ante of the device's rings, without records. -/
def State.bdyFlr (s : State) : State :=
  if s.hif.flrFold = false then s
  else if s.isManager = false ∧ s.rd R.SYN_ROLE.ROLE 0 ≠ 0 then
    (s.modHif (fun x => { x with flrFold := false })).emit (.serve s.manager [7])
  else
    let own := (s.antes.filter (fun a => decide (a.front = s.devAddr)))
    let s1 := own.foldl (fun t a => t.freeCarried a) s
    let s2 : State := { s1 with antes := s1.antes.filter (fun a => decide (a.front ≠ s.devAddr)) }
    let s3 := s2.seats.foldl (fun t e =>
      if e.2.st ≠ .free ∧ e.2.st ≠ .carried ∧ e.2.front = s.devAddr then (t.modSeat e.1 (fun x => { x with silent := true })).cancelSeat e.1 7 else t) s2
    s3.modHif (fun x => { x with flrFold := false })

/-- Installs in progress end with FAILED set; sets and slots return to ABSENT. -/
def State.dropInstalls (s : State) : State :=
  let s1 := s.prefixes.foldl (fun t e =>
    if t.rd R.SRV_PFX_STATE.STATE e.1 = 1 then
      let u := (((t.wr R.SRV_PFX_STATE.STATE e.1 0).wr R.SRV_PFX_STATE.PAGES e.1 0).wr R.SRV_PFX_STATE.FAILED e.1 1)
      { u with usedFrames := e.2.frames.foldl (fun m x => mset false m x false) u.usedFrames, prefixes := mset {} u.prefixes e.1 {} }
    else t) s
  loop 64 s1 (fun t g =>
    if t.rd R.DLR_GRAM_STATE.STATE g = 1 then
      ({ t with grams := mset {} t.grams g {} } : State).gramRefuse g 0 |>.wr R.DLR_GRAM_STATE.STATE g 0
    else t)

/-- Stock moves in progress fail. -/
def Face.failMoves (x : Face) : Face :=
  { x with started := x.started.map (fun q => if q.cls = 4 ∧ (q.op = 5 ∨ q.op = 6) then { q with nacked := true } else q) }

/-- The effects of a function-level reset of PF0. -/
def State.flr0 (s : State) : State :=
  let s1 : State := { s with rings := [], irqs := [], recs := [] }
  let s2 := s1.resetDomain .function (fun r _ => regOfFn 0 r)
  let s3 := loop 8 s2 (fun t f => (t.wr R.SYN_MIRROR.EN f 0).modFace f Face.failMoves)
  (s3.dropInstalls.modHif (fun x => { x with flrFold := true })).orNow State.bdyFlr

/-- Those of PF1. -/
def State.flr1 (s : State) : State :=
  let t := loop s.nFaces s (fun u f => if u.progState f = 1 then (u.progRefuse f 12 0).setProg f 0 else u)
  if t.rd R.PLT_WIMG_STATE.STATE 0 = 1 then t.discard else t

/-- Those of PF2. -/
def State.flr2 (s : State) : State := ({ s with hostIrqAt := none } : State).resetDomain .function (fun r _ => regOfFn 2 r)

/-- FUNCTION_LEVEL_RESET (R594): an FLR of function fn. -/
def execFunctionLevelReset (fn : Nat) (s : State) : Host.Outcome State Fault Refusal :=
  ok (if s.hif.perstLow = true ∨ s.dead = true then s
      else if fn = 0 then s.flr0.bump R.HIF_RESET_STAT.FLR0 0
      else if fn = 1 then s.flr1.bump R.HIF_RESET_STAT.FLR1 0
      else if fn = 2 then s.flr2.bump R.HIF_RESET_STAT.FLR2 0
      else s)

/-- HOST_RESET (R594): PERST_N goes low; the link is down and all three functions are reset. -/
def execHostReset (s : State) : Host.Outcome State Fault Refusal :=
  ok (if s.hif.perstLow then s
      else
        let t := s.modHif (fun x => { x with perstLow := true, ready := false })
        (((((t.wr R.HIF_LINK.RATE 0 0).wr R.HIF_LINK.WIDTH 0 0).wr R.HIF_LINK.FLIT 0 0).flr0.flr1.flr2)).bump R.HIF_RESET_STAT.HOST 0)

/-- The PCIe link trains, and the host interface becomes ready: a Device Readiness Status message (R600). -/
def State.linkUp (s : State) (rate width : Nat) (flit : Bool) : State :=
  if s.hif.perstLow = true ∨ s.domOn 28 = false then s
  else
    let t := ((s.wr R.HIF_LINK.RATE 0 rate).wr R.HIF_LINK.WIDTH 0 width).wrB R.HIF_LINK.FLIT 0 flit
    (t.modHif (fun x => { x with ready := true })).emit (.pcie [1])

/-- PERST_RELEASE (R600): PERST_N rises, and the link trains to a rate, a width and a mode. -/
def execPerstRelease (rate width : Nat) (flit : Bool) (s : State) : Host.Outcome State Fault Refusal :=
  ok (if s.hif.perstLow then (s.modHif (fun x => { x with perstLow := false })).linkUp rate width flit else s)

/-- A function as configuration space shows it (R586): device identifier, class code, bytes of BAR0 and of BAR2, MSI-X vectors. -/
def pcieFn : Nat → List Nat
  | 0 => [0x5E80, 0x120000, 2 ^ 26, 2 ^ 20, 2048]
  | 1 => [0x5E81, 0x120000, 2 ^ 24, 0, 64]
  | 2 => [0x5E82, 0x088000, 2 ^ 22, 0, 64]
  | _ => []

/-- CONFIG_REQUEST (R586, R600): a configuration request to function fn is answered with Request Retry Status until the interface is ready, and
then as R586 describes the function. -/
def execConfigRequest (fn : Nat) (s : State) : Host.Outcome State Fault Refusal :=
  ok (if s.hif.perstLow = true ∨ s.dead = true then s
      else if s.hif.ready then s.emit (.pcie (0 :: fn :: 1 :: pcieFn fn)) else s.emit (.pcie [0, fn, 0]))

/-! ### Permanent units after a reset (R556) -/

/-- What R556 gives a unit that is permanent in history, where a reset has cleared it: faces held down, no hands, sensors ignored, a
retirement cut short. -/
def State.permAgain (s : State) : State :=
  s.hist.foldl (fun t e =>
    if e.2.perm then
      let k := unitKind e.1
      let place := nf e.1 23 3
      match t.logicalOf place with
      | some f =>
        if k = 2 then
          if t.aState f (nf e.1 17 6) (nf e.1 10 7) = 4 then t.startRetire f (nf e.1 17 6) (nf e.1 10 7) false else t
        else if k = 6 ∨ k = 7 ∨ k = 8 then
          (t.setDown f true).modFace f (fun x => { x with heldFor := if x.heldFor.contains 6 then x.heldFor else x.heldFor ++ [6] })
        else if k ≤ 5 then t
        else t.unitOther k place (nf e.1 0 10)
      | none => if k ≤ 8 then t else t.unitOther k place (nf e.1 0 10)
    else t) s

/-! ### Warm reset (R595) -/

/-- What a warm reset leaves of a face: lines of the resident region, weight sets, fine lines, and what holds it down (R593, R207). -/
def Face.warm (x : Face) (keep : Nat → Bool) : Face :=
  { pad := mdrop (fun k => !keep (k / 16)) x.pad, written := mdrop (fun k => !keep k) x.written
    wsets := x.wsets, runShape := x.runShape, fineLines := x.fineLines, fineLive := x.fineLive, fineBlks := x.fineBlks
    resetDone := x.resetDone || x.inReset, heldFor := x.heldFor, autoReset := x.autoReset, autoTimes := x.autoTimes }

/-- Sensors of which the shutdown comparators read 105 °C or more. -/
def hotSens (m : SMap Sens) : SMap Sens := (m.filter (fun e => e.2.hot)).map (fun e => (e.1, { hot := true }))

/-- An action due at a boundary (R101, R351, R534, R556, R523). -/
def State.doAct (s : State) (a : BAct) : State :=
  match a with
  | .retire f b x => s.startRetire f b x false
  | .redress f b x => s.startRetire f b x true
  | .stuck f b x => s.stuckArray f b x
  | .respare j => s.respare j
  | .switch f b slot new old kind => if kind = 4 then s.tourSwitch f b slot new old else s.switchSlot f b slot new old kind
  | .lost f b x => s.lose f b x
  | .converter f b x g => s.swapConv f b x g
  | .dwell f b x => s.startDwell f b x
  | .fit f b => s.fitApply f b
  | .unit u => s.unitAction u

/-- The actions due. -/
def State.bdyActs (s : State) : State := s.acts.foldl (fun t a => t.doAct a) { s with acts := [] }

/-- The state that a warm reset leaves (R593, R595), before READY. -/
def State.warmState (s : State) : State :=
  let faces := (List.range 8).foldl (fun (m : SMap Face) f =>
    mset {} m f ((s.face f).settleRes.warm (fun l => (s.residentLines f).any (fun i => decide (i.1 ≤ l ∧ l ≤ i.2))))) []
  let regs := (s.resetWhere (fun r _ =>
    (decide ((regInfo r).dom = .warm ∨ (regInfo r).dom = .function ∨ (regInfo r).dom = .face)) && decide (r ≠ .PWR_DOM_STATE))).regs
  { pending := s.pending, now := s.now, freeCount := s.freeCount, regs := regs, faces := faces, arrays := s.arrays
    writes := s.writes.filter (fun j => j.started), acts := s.acts, monitors := s.monitors
    -- trims, as they do at a power-down of their domain (R568), survive in the platform domain
    cals := s.cals.map (fun e => (e.1, { trims := e.2.trims, failed := e.2.failed, count := e.2.count }))
    tours := s.tours.filter (fun e => decide (e.2.step ≥ 2)), tourAt := s.tourAt, opId := s.opId, seqs := s.seqs, hbm := s.hbm, hbmMeta := s.hbmMeta
    keyGen := s.keyGen, txq := s.txq, ports := s.ports, bypOpen := s.bypOpen, vaonLow := s.vaonLow, faultq := s.faultq, hist := s.hist
    nvLog := s.nvLog, lastImg := s.lastImg, imgKeys := s.imgKeys, lastVer := s.lastVer
    power := { domRun := s.power.domRun, domBusy := s.power.domBusy, vcore := s.power.vcore, round := s.power.round, sens := hotSens s.power.sens }
    key := s.key, mgmt := s.mgmt, hif := { s.hif with warm := false, flrFold := false }, dead := s.dead, coldHeld := s.coldHeld, out := s.out }

/-- A warm reset ends: the state of R593, what waited for a boundary takes effect at once (R602), and READY. -/
def State.warmEnd (s : State) : State :=
  let t := (s.warmState.wr R.FLT_STATUS.QUEUED 0 s.faultq.length).permAgain
  let u := s.tours.foldl (fun v e => if e.2.step ≥ 2 then v.wr R.CAL_BLK_STATE.TOURING e.1 1 else v) t
  let w := u.bdyActs.bdyPorts.bdyKeys.bdyDown.noteSlots.domNext
  (w.wr R.PLT_BOOT_STATE.READY 0 1).msix 1 4

/-- WARM_RESET (R595): PLT_RESET_CTL.WARM: no hands start, programmer work that has not started is dropped, and the write-verifies in
progress are awaited. -/
def execWarmReset (s : State) : Host.Outcome State Fault Refusal :=
  ok (if s.dead = true ∨ s.hif.warm = true then s
      else
        -- the array of a re-dress that is dropped stays in service
        let t := (s.writes.filter (fun j => !j.started && decide (j.kind = 2))).foldl (fun (u : State) j => u.setAState j.face j.block j.src 1) s
        ({ t.wr R.PLT_BOOT_STATE.READY 0 0 with writes := s.writes.filter (fun j => j.started) } : State).modHif
          (fun x => { x with warm := true }))

/-- WARM_RESET_DRAINED (R595). -/
def execWarmResetDrained (s : State) : Host.Outcome State Fault Refusal :=
  ok (if s.hif.warm = false ∨ s.writes.any (fun j => j.started) = true then s else s.warmEnd)

/-! ### Cold reset and boot (R592, R593, R598 to R601) -/

/-- What a cold reset leaves: fuses, nv values, cell levels, repair maps, wear and history (R593). -/
def State.coldBase (s : State) : State :=
  let faces := (List.range 8).foldl (fun (m : SMap Face) f => mset {} m f { wsets := (s.face f).wsets }) []
  { pending := s.pending, freeCount := s.freeCount, regs := (s.resetWhere (fun _ _ => true)).regs, faces := faces, arrays := s.arrays
    opId := s.opId, keyGen := s.keyGen, hist := s.hist, nvLog := s.nvLog, imgKeys := s.imgKeys, lastVer := s.lastVer
    power := { sens := hotSens s.power.sens }
    mgmt := { ops := s.mgmt.ops, used := s.mgmt.used, fw := s.mgmt.fw, rollback := s.mgmt.rollback }
    hif := { perstLow := s.hif.perstLow }, out := s.out }

/-- The state after a cold reset, before its boot: the good faces are numbered anew from the fuses (R5), and a forced bypass stays (R593). -/
def State.coldState (s : State) : State :=
  s.coldBase.numberFaces.wr R.LNK_BYP_CTL.FORCE 0 (s.rd R.LNK_BYP_CTL.FORCE 0)

/-- Boot step n is complete. -/
def State.bootStep (s : State) (n : Nat) : State := s.wr R.PLT_BOOT_STATE.STEP 0 n

/-- The firmware slot that starts, and whether it is the fallback; none: no slot verifies (R599). -/
def State.fwPick (s : State) : Option (Nat × Bool) :=
  let x (i : Nat) : Firm := mget {} s.mgmt.fw i
  let good (i : Nat) : Bool := (x i).good && decide ((x i).version ≥ s.mgmt.rollback)
  let first := if (x 1).version > (x 0).version then 1 else 0
  if good first then some (first, false) else if good (1 - first) then some (1 - first, true) else none

/-- A present domain comes on (R598 B6, B7). -/
def State.bootDomain (s : State) (d : Nat) : State :=
  if s.neverOn d then s else (s.wr (R.PWR_DOM_STATE.STATE d) 0 1).wr (R.PWR_DOM_REQ.REQ d) 0 1

/-- B4: the reference, the self-calibration, and rounds. -/
def State.bootConverter (s : State) (factors : List (Nat × Nat)) : State :=
  let t := (((s.wr R.HKC_CTL.REF_EN 0 1).wr R.HKC_CTL.RUN 0 1).wr R.HKC_STAT.REF_READY 0 1).wr R.HKC_STAT.CAL_DONE 0 1
  loop 4 t (fun u g =>
    let x := factors.getD g (0, 0)
    (u.wr R.HKC_CAL.OFFSET g (x.1 % 2 ^ 24)).wr R.HKC_CAL.GAIN g (x.2 % 2 ^ 24))

/-- B8: one array of a live copy is read back; a digest that differs makes it LOST (R351). -/
def State.bootArray (s : State) (f w idx : Nat) : State :=
  let q := s.copySlot f w (s.wsLive f w) idx
  match s.slotPhys f q.1 q.2 with
  | none => s
  | some a =>
    let g := s.digestNow f q.1 a w idx
    let d := g.1
    let t := g.2.modArr f q.1 a (fun x => { x with current := d })
    if d = (t.arr f q.1 a).expected ∧ t.aState f q.1 a ≠ 6 then t
    else
      let u := t.lose f q.1 a
      (u.wr R.PLT_BOOT_STATE.DIGESTS_OK 0 0).bump R.PLT_BOOT_STATE.LOST 0

/-- B8: the arrays found in state WRITING belong to copies that are not live, which are built again (R601). -/
def State.bootWriting (s : State) : State :=
  loop s.nFaces s (fun t f => loop 64 t (fun u b => loop 64 u (fun v slot =>
    match v.slotPhys f b slot with
    | none => v
    | some a =>
      if v.aState f b a = 3 then
        match v.slotOwner f b slot with
        | some (w, c, _) => v.setReady f w c false
        | none => v
      else v)))

/-- B8: every live copy is read back, and a POWER calibration is requested for every block. -/
def State.bootCopies (s : State) (drift : List (Nat × List (Nat × Nat))) : State :=
  let s1 : State := { s with arrays := drift.foldl (fun m d =>
    mset {} m d.1 { mget {} m d.1 with cells := d.2.foldl (fun c e => mset 0 c e.1 e.2) (mget {} m d.1).cells }) s.arrays }
  let s2 := s1.bootWriting.wr R.PLT_BOOT_STATE.DIGESTS_OK 0 1
  let s3 := loop s.nFaces s2 (fun t f => loop 4096 t (fun u w =>
    if u.built f w (u.wsLive f w) then loop (u.copyArrays f w) u (fun v i => v.bootArray f w i) else u))
  loop s.nFaces s3 (fun t f => loop 64 t (fun u b => u.calRequest f b 1))

/-- B6: domains, PCIe training, and the ports but XP and XN. -/
def State.bootDomains (s : State) (b : Boot) : State :=
  let s1 := ([28] ++ (List.range 8).map (· + 16) ++ (List.range 8).map (· + 8) ++ List.range 8 ++ [26, 27, 29]).foldl State.bootDomain s
  let s2 := s1.linkUp b.rate b.width b.flit
  if s2.devAddr = 0 then s2 else [2, 3, 4, 5].foldl State.trainStart s2

/-- B7: HBM, the platform key set (R478), and every row segment written (R504). -/
def State.bootMemory (s : State) : State :=
  let t := (s.bootDomain 24).bootDomain 25
  let u : State := { t with keyGen := t.keyGen + 1, hbm := [], hbmMeta := [] }
  (u.wr R.KEY_STATE.PLATFORM_VALID 0 1).wr R.PLT_BOOT_STATE.HBM_READY 0 1

/-- B9: READY; the rollback fuse rises to the version that has completed its boot (R599). -/
def State.bootEnd (s : State) (b : Boot) : State :=
  let v := (mget {} s.mgmt.fw (s.rd R.PLT_BOOT_STATE.FW_SLOT 0)).version
  let t : State := { s with mgmt := { s.mgmt with rollback := max s.mgmt.rollback v }, now := s.now + b.ms * 1000000 }
  (((t.wr R.PLT_BOOT_STATE.BOOT_MS 0 b.ms).wr R.PLT_BOOT_STATE.READY 0 1).bootStep 9).msix 1 4

/-- The boot of R598, from the state after a cold reset. -/
def State.boot (s : State) (b : Boot) : State :=
  let s2 := s.bootStep 2
  -- with VIO late, B3 cannot read the SPI NOR (R621)
  match (if b.vioLate then none else s2.fwPick) with
  | none => s2
  | some (slot, fb) =>
    let s3 := (((s2.wr R.PLT_BOOT_STATE.FW_SLOT 0 slot).wrB R.PLT_BOOT_STATE.FALLBACK 0 fb).wr R.LNK_DEV_ADDR.ADDR 0 b.addr).bootStep 3
    let s4 := (s3.bootConverter b.factors).bootStep 4
    if b.badRail then s4
    else
      let s6 := ((s4.bootStep 5).bootDomains b).bootStep 6
      let s7 := s6.bootMemory.bootStep 7
      let s8 := ((s7.bootCopies b.drift).permAgain).bootStep 8
      s8.bootEnd b

/-- A comparator reads 105 °C or more. -/
def State.anyHot (s : State) : Bool := s.power.sens.any (fun e => e.2.hot)

/-- A cold reset: after a shutdown it is not complete while a comparator reads 105 °C or more (R576). -/
def State.coldReset (s : State) (b : Boot) : State :=
  if s.dead = true ∧ s.anyHot = true then { s with coldHeld := true } else s.coldState.boot b

/-- POWER_ON (R592, R598): VAON rises to good. -/
def execPowerOn (b : Boot) (s : State) : Host.Outcome State Fault Refusal := ok (s.coldReset b)

/-- COLD_RESET (R592): SYS_RESET_N, or the board controller. -/
def execColdReset (b : Boot) (s : State) : Host.Outcome State Fault Refusal := ok (s.coldReset b)

/-- COLD_RESET_REQ (R592): PLT_RESET_CTL.COLD by WRITE_REG. -/
def execColdResetReq (b : Boot) (s : State) : Host.Outcome State Fault Refusal := ok (s.coldReset b)

/-- THERMAL_COOL (R576): every comparator reads less than 105 °C; a cold reset that was held back completes. -/
def execThermalCool (b : Boot) (s : State) : Host.Outcome State Fault Refusal :=
  let t := s.modPower (fun x => { x with sens := x.sens.foldl (fun m e => mset {} m e.1 { e.2 with hot := false }) [] })
  ok (if t.coldHeld then t.coldState.boot b else t)

end Sys2Proof.Machine
end

