-- ==== Sys2Proof/Machine/Hand.lean ====
section
/-! DEFINITION. Ticks, hands, the commit and the misdeal (01_ticks_and_hands.md R14 to R49, R625), hand entry (08_ifeom_programming_model.md
R239 to R241), counter mirrors (11_synchronisation.md R316, R317) and empty hands of a held replica (16_many_devices.md R460). -/
namespace Sys2Proof.Machine

def State.modHand (s : State) (g : HandSt → HandSt) : State := { s with hand := g s.hand }

/-! ### Ticks that run no hand (R19, R48, R226, R500) -/

/-- Budget expiry of a tick due at `due`: E = T + P − W, by the period announced with the tick (R18). -/
def State.expiryOf (s : State) (due : Nat) : Nat :=
  due + s.hand.period - s.rd R.SYN_COMMIT_WINDOW.WINDOW 0

/-- Every good face is in service with an ACTIVE program, and nothing else holds the device's hands back (R48, R226, R549, R556). -/
def State.canRun (s : State) : Bool :=
  (List.range s.nFaces).all (fun f => !s.isDown f && decide (s.progState f = 3)) && !s.unitDown && !s.logStop

/-- A release or a warm reset is in progress, or device time is not synchronised: every tick is missed (R442, R500, R595). -/
def State.handsStopped (s : State) : Bool :=
  decide (s.rd R.KEY_SESSION.STATE 0 = 3 ∨ s.rd R.KEY_SESSION.STATE 0 = 4) || s.hif.warm || !s.synced

/-- Devices that an abort notice of the hand goes to (R625). -/
def State.abortDevs (s : State) : List Nat :=
  (((s.hand.outSet.map (fun w => w.1)) ++ s.hand.sent.map (fun w => w.dev) ++ s.hand.sigrDevs).eraseDups).mergeSort

/-- Abort notices for hand h. -/
def State.sendAborts (s : State) (h : Nat) : State := s.abortDevs.foldl (fun t d => t.sendCtl d (.abort h)) s

/-- The tick of hand h is missed: counted, and its abort notices are owed at E (R19). -/
def State.missTick (s : State) (h : Nat) : State :=
  (s.bump R.SYN_HAND_COUNTS.MISSED 0).modHand (fun x =>
    { x with idle := true, abortOwed := some h, sent := [], sigrDevs := [], expiry := s.expiryOf x.lastDue })

/-! ### Hand entry (R28, R239, R43, R47, R460) -/

/-- A slot of the head is empty: the manager made it so (R45), or it carries no seat (R379). -/
def State.headEmpty (s : State) (q : Nat × Bool) : Bool := q.2 || (mget [] s.slots q.1).isEmpty

/-- The head skips an empty slot while another waits behind it (R47; fuel). -/
def State.headSkip (s : State) : Nat → State
  | 0 => s
  | n + 1 =>
    match s.headQ with
    | q :: r :: rest => if s.headEmpty q then ({ s with headQ := r :: rest, slots := mset [] s.slots q.1 [] } : State).headSkip n else s
    | _ => s

/-- Counters and handles as the hand finds them: values at entry, ERR clear (R310), no doorbell, no play of this hand; the parameter buffer of the vector
engine is zero (R308). -/
def Face.snapshot (x : Face) : Face :=
  { x with ctr := x.ctr.foldl (fun m e => mset {} m e.1 { e.2 with entry := e.2.value, bell := none, err := false }) []
           params := [], paramPoison := []
           handles := x.handles.foldl (fun m e => mset {} m e.1 { e.2 with played := false }) [] }

/-- The number of the released pipeline slot, if there is one, and whether it is empty. -/
def State.releasedPipe (s : State) : Option (Nat × Bool) :=
  s.faces.findSome? (fun e => e.2.wins.findSome? (fun we =>
    if s.rd R.SYN_WIN_CFG.PIPE (ix 256 e.1 we.1) = 1 then
      (we.2.slots.find? (fun q => decide (q.2.st = .released))).map (fun q => (q.2.number, q.2.empty))
    else none))

/-- The hand takes in the stamps of every slot released to it (R358, R440). -/
def State.takeStamps (s : State) : State :=
  s.faces.foldl (fun t e => e.2.wins.foldl (fun u we => we.2.slots.foldl (fun v q =>
    if q.2.st = .released ∧ q.2.stampHi ≠ 0 then (v.stampWith q.2.stampLo).stampWith q.2.stampHi else v) u) t) s

/-- What a new hand starts without. -/
def HandSt.fresh (x : HandSt) (due expiry : Nat) (lost down : Nat) (held : Bool) : HandSt :=
  { running := true, idle := false, due := due, expiry := expiry, redeal := x.redealNext && !held, held := held, redealOf := x.redealOf
    redealNext := x.redealNext, ann := none, lastDue := due, period := x.period, annPeriod := x.annPeriod, ticked := true, missedRow := 0, stopped := false, abortOwed := none
    redealReset := x.redealReset
    outSet := x.outSet, failedBefore := x.failedBefore, linkLost := lost, downMask := down, desc := x.desc, slotNum := x.slotNum }

/-- Ports that are not ACTIVE. -/
def State.portsLost (s : State) : Nat :=
  loop 6 0 (fun m p => if s.rd R.LNK_PORT_STATE.STATE p = 4 then m else setBit m p true)

/-- The slot of the hand: released to it (R28), or the oldest that the head has formed (R380); its number, whether it is empty, and whether
there is one.  The descriptors of a slot come with it at the head; on another stage the manager tells them (`desc`). -/
def State.takeSlot (s : State) (held : Bool) (desc : List SlotSeat) : State :=
  let old := s.hand.slotNum
  if held then s.modHand (fun x => { x with slotEmpty := true, slotNum := 0, desc := [] })
  else
    let s1 := s.releaseWindows (s.hand.redeal && !s.hand.redealReset)
    if s1.isHead then
      let s2 := if s1.hand.redeal then s1 else s1.headSkip s1.headQ.length
      match s2.headQ with
      | [] => s2.modHand (fun x => { x with slotEmpty := true, slotNum := 0, desc := [] })
      | q :: _ =>
        let e := s2.headEmpty q
        s2.modHand (fun x => { x with formed := true, slotEmpty := e, emptyPass := e, slotNum := q.1, desc := mget [] s2.slots q.1 })
    else match s1.releasedPipe with
      | none => s1.modHand (fun x => { x with slotEmpty := true, slotNum := 0, desc := [] })
      | some (n, e) =>
        let d := if e then [] else if s1.hand.redeal = true ∧ old = n ∧ s.hand.desc ≠ [] then s.hand.desc else desc
        s1.modHand (fun x => { x with slotEmpty := e, emptyPass := e, slotNum := n, desc := d })

/-- Face f enters hand h (R239): its registers, and the branch to vector 0, or to vector 1 where a host call waits.  Of several revokes that wait for
the entry the first is taken (R251). -/
def State.enterFace (s : State) (f h : Nat) (held : Bool) : State :=
  let x := s.face f
  let call := s.flag R.FCE_HOST_CALL.PENDING f && (x.vector 1).isSome
  let arg := s.reg .FCE_HOST_CALL_ARG f
  let slot := if held then none else s.pipeSlot f
  let empty := s.hand.slotEmpty
  let data := match slot with
    | some (b, q) => if q.empty then (0, 0, q.number) else (b, q.bytes, q.number)
    | none => (0, 0, 0)
  let num := if s.isHead then s.hand.slotNum else data.2.2
  let s3 := (if empty then 1 else 0) + (if s.hand.redeal then 2 else 0) + (if call then 4 else 0)
  let w (n : Nat) : Word := BitVec.ofNat 64 n
  let regs := (((((([] : SMap Word) |> (mset 0#64 · 1 (w data.1))) |> (mset 0#64 · 2 (w data.2.1))) |> (mset 0#64 · 3 (w s3))) |>
    (mset 0#64 · 4 (if call then arg else 0#64))) |> (mset 0#64 · 5 (w num))) |> (mset 0#64 · 6 (w s.hand.expiry))
  let traps := x.entryTraps
  let t := s.setFace f
    { x with pc := (x.vector (if call then 1 else 0)).getD 0, s := regs, a := [], p := [], l := [], hn := h, tpc := 0, tcause := 0
             tinfo := if call then arg else 0#64, run := .issuing, handler := .none, heldWarn := false, heldSoft := none, warned := false
             failed := false, endTime := none, hostCall := call, result := 0#64, probeOk := empty, entryTraps := [] }
  t.takeTraps f (t.face f).pc (traps.map (fun i => (3, i)))

/-- A hand that the device runs starts. -/
def State.startHand (s : State) (h due : Nat) (desc : List SlotSeat) (told : List (Nat × Bool × Bool)) : State :=
  let held := s.heldIn h
  let lost := s.portsLost
  let down := s.rd R.PLT_CAP_FACES.DOWN 0
  let s1 := s.modHand (fun x => x.fresh due (s.expiryOf due) lost down held)
  let s2 := loop s1.nFaces s1 (fun t f => t.modFace f Face.snapshot)
  let s3 := s2.takeSlot held desc
  let s4 := if held then s3 else s3.takeStamps.issueTickets told
  loop s4.nFaces s4 (fun t f => t.enterFace f h held)

/-- HAND_ENTRY (R16, R239, R28, R43, R48, R226, R460, R500, R603): the tick announced falls due.  `desc`: the descriptors of a slot
released on a stage that is no head; `told`: the seats whose pages move, on a device that is not the manager. -/
def execHandEntry (desc : List SlotSeat) (told : List (Nat × Bool × Bool)) (s : State) : Host.Outcome State Fault Refusal :=
  ok (match s.hand.ann with
    | none => s
    | some (h, due, period) =>
      if s.dead = true ∨ s.hand.running = true ∨ s.hand.idle = true then s
      -- ticks of the device's own stop with a period of 0
      else if s.rd R.SYN_TICK_PERIOD.PERIOD 0 = 0 ∧ s.isManager = true then s.modHand (fun x => { x with ann := none, ticked := false })
      else
        -- the manager's register may already hold the period of a later tick (R18)
        let s0 := (s.flushPosted.advance due).wr R.SYN_HAND_NUM.HAND 0 h
        let s1 := if s.isManager then s0 else s0.wr R.SYN_TICK_PERIOD.PERIOD 0 period
        let s2 := (s1.modKey (fun x => { x with passed := 0 })).modHand (fun x =>
          { x with ann := none, lastDue := due, period := period, ticked := true, missedRow := 0, due := due, sent := [], sigrDevs := [] })
        let s3 := s2.dtrickShows.formSlots h
        if s3.handsStopped then s3.missTick h
        else if s3.canRun then s3.startHand h due desc told
        else (s3.sendAborts h).modHand (fun x => { x with idle := true, expiry := s3.expiryOf due }))

/-- MISSED_TICK (R19, R20): no announcement is held when the next tick was to fall due, which is recorded each time; after three in a row the
standby is told, and no more hands start until an announcement comes. -/
def execMissedTick (s : State) : Host.Outcome State Fault Refusal :=
  let x := s.hand
  let p := x.period
  ok (if s.dead = true ∨ x.ticked = false ∨ p = 0 ∨ x.ann ≠ none ∨ x.running = true ∨ x.idle = true then s
      else
        let h := s.handNum + 1
        let due := x.lastDue + p
        let s1 := ((s.flushPosted.advance due).wr R.SYN_HAND_NUM.HAND 0 h).modHand (fun y =>
          { y with lastDue := due, due := due, missedRow := y.missedRow + 1, redeal := false })
        let s2 := s1.missTick h
        if x.missedRow + 1 < 3 ∨ x.stopped = true then s2
        else
          let s3 := s2.modHand (fun y => { y with stopped := true })
          if s.flag R.SYN_ROLE.STANDBY_VALID 0 = true ∧ s.isStandby = false then s3.sendCtl (s.rd R.SYN_ROLE.STANDBY 0) (.missed (h - 3)) else s3)

/-- HAND_BUDGET_WARNING (R25): E − MARGIN comes on face f, which has not reached END. -/
def execHandBudgetWarning (f : Nat) (s : State) : Host.Outcome State Fault Refusal :=
  let m := s.rd R.FCE_HAND_WARN.MARGIN f
  let x := s.face f
  ok (if s.hand.running = false ∨ m = 0 ∨ x.warned = true ∨ s.dead = true then s
      else
        let t := s.advance (s.hand.expiry - m)
        t.takeWarning f (s.hand.expiry - t.now))

/-! ### The report (R438, R459) -/

/-- Code of a port's width. -/
def widthCode (w : Nat) : Nat :=
  if w = 1 then 1 else if w = 2 then 2 else if w = 4 then 3 else if w = 8 then 4 else if w = 12 then 5 else if w = 16 then 6 else 0

/-- Widths and rates of the ports: 0 for one that is not ACTIVE; bit p for 100 Gbit/s. -/
def State.reportWidths (s : State) : Nat :=
  loop 6 0 (fun a p => a + (if s.rd R.LNK_PORT_STATE.STATE p = 4 then widthCode (s.rd R.LNK_PORT_STATE.WIDTH p) else 0) * 8 ^ p)
def State.reportRates (s : State) : Nat :=
  loop 6 0 (fun a p => if s.rd R.LNK_PORT_STATE.STATE p = 4 ∧ s.rd R.LNK_PORT_STATE.RATE p = 0 then setBit a p true else a)

/-- Ready slots of the first eight pipeline windows, 4 bits each. -/
def State.reportBacklog (s : State) : Nat :=
  let ns := s.faces.flatMap (fun e => e.2.wins.filterMap (fun we =>
    if s.rd R.SYN_WIN_CFG.PIPE (ix 256 e.1 we.1) = 1 then
      some (min 15 (we.2.slots.filter (fun q => decide (q.2.st = .ready))).length)
    else none))
  ((ns.take 8).zip (List.range 8)).foldl (fun a e => a + e.1 * 16 ^ e.2) 0

/-- The hand report, to the manager. -/
def State.sendReport (s : State) (outcome h slack : Nat) : State :=
  if s.isManager then s.managerReport s.devAddr outcome h
  else if s.rd R.SYN_ROLE.ROLE 0 = 0 then s
  else s.sendCtl s.manager (.report outcome h slack s.reportWidths s.reportRates s.reportBacklog)

/-! ### The boundary -/

/-- SIGs of the host and the management network that waited (R234). -/
def State.bdyHostSigs (s : State) : State :=
  loop 8 s (fun t f => (t.face f).hostSigs.foldl (fun u g => u.hostSignal f g.1 g.2.1 g.2.2) (t.modFace f (fun x => { x with hostSigs := [] })))

/-- Everything that waits for the hand boundary, after any rollback; `e`: E of the next hand. -/
def State.boundary (s : State) (e : Nat) : State :=
  let s1 := s.bdyResident.bdyHostSigs.bdySigrs.bdyWindows.bdyTricks
  let s2 := (s1.bdyFolds.bdyTtl e).bdyMode.bdyPrefix.bdyGrams.bdyTrim
  let s3 := s2.bdyPorts.bdyBypass.bdyDomain.bdyPins.bdyInj.bdyDeck.bdyActs
  let s4 := s3.bdyPower.bdyLevels.bdyCut.bdyProgs.bdyRegions
  s4.bdyFlr.bdyKeys.bdyDown

/-- The hand, run or not, is over, and its boundary passes. -/
def State.endHand (s : State) : State :=
  let run := s.hand.running
  let s1 := s.modHand (fun x => { x with running := false, idle := false, abortOwed := none, linkLost := 0 })
  let s2 := loop s1.nFaces s1 (fun t f => t.modFace f (fun x =>
    { x with run := .off, handler := .none, pinHands := if run && !x.pinCounted then x.pinHands + 1 else x.pinHands
             pinCounted := false }))
  s2.boundary (s.hand.expiry + s.hand.period)

/-- A tick without a hand ends at E: the abort notices that a missed tick owes, the report, the boundary. -/
def State.idleEnd (s : State) : State :=
  let s1 := ({ s with irqDone := [] } : State).advance s.hand.expiry
  let s2 := match s.hand.abortOwed with
    | some h => s1.sendAborts h
    | none => s1
  (s2.sendReport 2 s.handNum 0).endHand

/-- MISSED_TICK_ABORT (R19): the due time of a missed tick plus the hand budget. -/
def execMissedTickAbort (s : State) : Host.Outcome State Fault Refusal :=
  ok (if s.dead = false ∧ s.hand.idle = true ∧ s.hand.abortOwed ≠ none then s.idleEnd else s)

/-! ### The decision (R24) -/

/-- A pass of the hand whose trouble is unresolved at E (R125): it was repeated, or waits for the decision of a duplicate mismatch, and is not done. -/
def Pass.open_ (p : Pass) : Bool :=
  match p.st with
  | .running _ => p.repeated
  | .bench3 _ => p.repeated || p.mismatch.isSome
  | _ => false

/-- Troubled passes still running at E are counted; such a tile leaves the hand uncommittable. -/
def State.openTiles (s : State) : State :=
  loop s.nFaces s (fun t f =>
    let x := t.face f
    match x.mvm with
    | none => t
    | some m =>
      if x.started.any (fun q => decide (q.id = m.op) && !q.discard) then
        t.bumpBy R.ARF_REPEAT_STAT.UNRESOLVED f (m.passes.filter Pass.open_).length
      else t)

/-- Face f fails R24: no END by E, a fault-class trap, or a tile in trouble. -/
def State.fails (s : State) (f : Nat) : Bool := (s.face f).failed || (s.face f).endTime.isNone

/-- Face f fails only because SENDs stand unanswered, whose port of first hop lost link in the hand or was not ACTIVE (R462). -/
def State.linkOnly (s : State) (f : Nat) : Bool :=
  let x := s.face f
  let own := x.started.filter (fun q => !q.discard)
  !x.failed && x.endTime.isNone && x.queue.isEmpty && !own.isEmpty &&
    own.all (fun q => q.isSend && bit s.hand.linkLost (q.f0 35 3))

/-- The dealer has not drawn every row of every DEAL of the hand (R401). -/
def State.lateDeal (s : State) : Bool := s.hand.dealt && s.hand.draws.isNone && !s.hand.shareBad

/-- Something of the device, not of a face, keeps the hand from committing (R24, R32, R48, R384, R400, R401, R413). -/
def State.blocked (s : State) : Bool :=
  s.hand.tileTrouble || s.hand.nackFull || s.lateDeal || s.hand.shareBad || s.hand.freeListFault ||
    !s.hand.dealPoison.isEmpty || s.hand.resetMisdeal

/-! ### The commit (R33 to R38) -/

/-- Lines of freed frames leave every face's cache (R217). -/
def State.dropFreed (s : State) (old : SMap Bool) : State :=
  let freed := (old.filter (fun e => !mget false s.usedFrames e.1)).map Prod.fst
  let inFreed (g : Nat) : Bool := freed.any (fun x => (List.range s.nFaces).any (fun f =>
    let a := s.shareAddr f x / 128
    decide (a ≤ g ∧ g < a + s.rd R.SRV_PAGE_CFG.SHARE 0 * 32)))
  if freed = [] then s
  else loop s.nFaces s (fun t f =>
    let gone := ((t.face f).cache.flatMap (fun e => e.2.map (fun (l : CLine) => l.g))).filter inFreed
    gone.foldl (fun u g => u.cacheDrop f g) t)

/-- Slots in flight of seats that draw no tokens from them: the manager counts a slot as through once every stage has had its hand. -/
def State.landed (s : State) (h : Nat) : State :=
  s.seats.foldl (fun t e =>
    if e.2.st = .prefill ∨ e.2.st = .drain then
      t.modSeat e.1 (fun x => { x with inFlight := x.inFlight.filter (fun n => decide (n + s.rd R.SYN_REPLICA.DEPTH x.replica > h)) })
    else t) s

/-- Windows that a device's commit notice names: those written, and on an empty pass those of the output set with no bytes (R625). -/
def State.noticeWins (s : State) (dev : Nat) : List SentWin :=
  let own := s.hand.sent.filter (fun w => decide (w.dev = dev))
  let more := if s.hand.emptyPass then
      (s.hand.outSet.filter (fun w => decide (w.1 = dev) && !own.any (fun o => decide (o.face = w.2.1 ∧ o.win = w.2.2)))).map
        (fun w => ({ dev := dev, face := w.2.1, win := w.2.2, bytes := 0 } : SentWin))
    else []
  own ++ more

/-- A notice of more than seven windows goes as a sequence (R440; fuel). -/
def State.sendNotice (s : State) (dev h : Nat) (ws : List WinEntry) : Nat → State
  | 0 => s
  | n + 1 =>
    let rest := ws.drop 7
    if rest.isEmpty then s.sendCtl dev (.commit h ws false)
    else (s.sendCtl dev (.commit h (ws.take 7) true)).sendNotice dev h rest n

/-- Commit notices (R625), and the new output set. -/
def State.commitNotices (s : State) (h : Nat) : State :=
  let devs := (((if s.hand.emptyPass then s.hand.outSet.map (fun w => w.1) else []) ++ s.hand.sent.map (fun w => w.dev) ++
    s.hand.sigrDevs).eraseDups).mergeSort
  let t := devs.foldl (fun u d =>
    let ws := (s.noticeWins d).map (fun w => ({ face := w.face, win := w.win, bytes := w.bytes, slotLo := s.parcelSlot % 2 ^ 31
                                                stampLo := s.hand.stampLo, stampHi := s.hand.stampHi } : WinEntry))
    u.sendNotice d h ws (ws.length + 1)) s
  if s.hand.sent = [] then t else t.modHand (fun x => { x with outSet := s.hand.sent.map (fun w => (w.dev, w.face, w.win)) })

/-- The mirror of one counter (R316, R317). -/
def State.mirrorCtr (s : State) (f h k : Nat) (c : Ctr) : State :=
  let i := ix 1024 f k
  let go (v : Nat) : State :=
    let a := s.rd R.SYN_MIRROR.ADDR f * 4096 + 8 * k
    let t := (s.hostWrite 0 a [BitVec.ofNat 64 (v % 2 ^ 32 + h % 2 ^ 32 * 2 ^ 32)]).modFace f (fun x =>
      { x with ctr := mset {} x.ctr k { mget {} x.ctr k with mirrored := v } })
    if s.flag R.SYN_CTR_NOTIFY.ARMED i = true ∧ v ≥ s.rd R.SYN_CTR_NOTIFY.THRESH i then
      (t.msix 0 (s.rd R.SYN_CTR_NOTIFY.VECTOR i)).wr R.SYN_CTR_NOTIFY.ARMED i 0
    else t
  match c.bell with
  | some v => go v
  | none => if s.flag R.SYN_CTR_NOTIFY.AUTO i = true ∧ c.value ≠ c.mirrored then go c.value else s

/-- The mirrors of every face. -/
def State.mirrors (s : State) (h : Nat) : State :=
  loop s.nFaces s (fun t f => if t.flag R.SYN_MIRROR.EN f then (t.face f).ctr.foldl (fun u e => u.mirrorCtr f h e.1 e.2) t else t)

/-- A face's part in the commit: its state register, a host call that ran, its hands (R241). -/
def State.commitFace (s : State) (f : Nat) : State :=
  let x := s.face f
  let slack := (s.hand.expiry - x.endTime.getD s.hand.expiry) / 16
  let t := (((s.wr R.FCE_HAND_STATE.SLACK f (min slack (2 ^ 24 - 1))).wr R.FCE_HAND_STATE.OVERRUN f 0).wr R.FCE_HAND_STATE.REPEAT f 0).bump
    R.FCE_PROG_STATE.HANDS f
  let u := t.modFace f (fun y => { y with recheck := none })
  if x.hostCall then
    ((u.setReg .FCE_HOST_CALL_RESULT f x.result).wr R.FCE_HOST_CALL.PENDING f 0).wr R.FCE_HOST_CALL.DONE f 1
  else u

/-- Slack of the slowest face, in units of 16 ns. -/
def State.slackMin (s : State) : Nat :=
  (List.range s.nFaces).foldl (fun a f => min a ((s.hand.expiry - (s.face f).endTime.getD s.hand.expiry) / 16)) (2 ^ 24 - 1)

/-- A seat of this front has its dealer on another device, so TOKENS records of a hand may come after the hand has committed here (R370). -/
def State.awaitsTokens (s : State) : Bool :=
  s.seats.any (fun e => decide (e.2.st ≠ .free ∧ e.2.front = s.devAddr ∧ s.dealerOf e.2.replica ≠ s.devAddr))

/-- Mirrors and vectors of hand h at step C6, behind every completion record of h (R35): where records of h are still to come, they wait for the next
tick. -/
def State.publish (s : State) (h : Nat) : State :=
  if s.awaitsTokens then
    let t := ({ s with out := [] } : State).mirrors h
    { t with out := s.out, hand := { t.hand with posted := some t.out } }
  else (s.mirrors h).ringIrqs

/-- The hand commits: steps C1 to C6 (R33). -/
def State.commitHand (s : State) : State :=
  let h := s.handNum
  let e := s.hand.expiry
  let old := s.usedFrames
  -- C2, C3
  let s2 := s.advanceLens.dealerCommit e
  let s3 := (((s2.freeDue).deadlines e).landed h).drainDue.writeRecs h h
  -- C4, C5
  let s4 := (s3.commitPages.commitPrefix.commitGrams).dropFreed old
  let s5 := (((s4.seatRegs).heldReg h).commitCal).bdyCut
  -- C6
  let s6 := ((s5.wr R.SYN_HAND_COMMITTED.HAND 0 h).commitNotices h).publish h
  let s7 := if s.hand.held then s6 else s6.consumeSlots
  let s8 := if s.hand.formed then { s7 with slots := mset [] s7.slots s.hand.slotNum [], headQ := s7.headQ.drop 1 } else s7
  let s9 := loop s8.nFaces s8 (fun t f => t.commitFace f)
  (s9.modHand (fun x => if s.hand.held then x else { x with redealNext := false, redealReset := false, failedBefore := [] })).sendReport 0 h s.slackMin

/-! ### The misdeal (R41 to R44, R48) -/

/-- Each die trick returns to its creation state (R41 step 3). -/
def State.resetTricks (s : State) : State :=
  let t : State := { s with ring := [], plays := [] }
  loop 256 t (fun u i =>
    if u.rd R.SYN_TRICK_CFG.COUNT i ≠ 0 ∨ u.rd R.SYN_TRICK_CFG.ROUNDS i ≠ 0 then
      (u.wr R.SYN_TRICK_CFG.COUNT i 0).wr R.SYN_TRICK_CFG.ROUNDS i 0
    else u)

/-- Plays of this device on domain tricks are withdrawn (R41 step 4): by the manager itself, or on its report. -/
def State.withdrawOwn (s : State) : State := if s.isManager then s.withdrawPlays s.devAddr else s

/-- A face's part in the misdeal: its state register, its queues, its counters; `again`: it also overran in the hand that this one repeats. -/
def State.misdealFace (s : State) (f : Nat) (again : Bool) : State :=
  let bad := s.fails f
  let slack := match (s.face f).endTime with
    | some t => min ((s.hand.expiry - t) / 16) (2 ^ 24 - 1)
    | none => 0
  let t := ((s.wr R.FCE_HAND_STATE.SLACK f slack).wrB R.FCE_HAND_STATE.OVERRUN f bad).wrB R.FCE_HAND_STATE.REPEAT f again
  (if bad then t.bump R.FCE_HAND_STATE.OVERRUNS f else t).modFace f (fun x =>
    let y := x.dropQueued
    { (y.rollback) with started := y.started.map (fun q => { q with discard := true }), handler := .none })

/-- The hand misdeals. -/
def State.misdealHand (s : State) : State :=
  let h := s.handNum
  let reset (f : Nat) : Bool := (s.face f).inReset || (s.face f).resetDone
  let bad := (List.range s.nFaces).filter (fun f => s.fails f && !reset f)
  let exempt := bad.all (fun f => s.linkOnly f)
  let counted := if exempt then [] else bad
  let twice := if s.hand.redeal then counted.filter (fun f => s.hand.failedBefore.contains f) else []
  let s1 := if s.lateDeal then s.bump R.DLR_STAT.LATE_DEAL 0 else s
  let s2 := loop s1.nFaces (s1.bump R.SYN_HAND_COUNTS.MISDEALS 0) (fun t f =>
    t.misdealFace f (s.hand.redeal && s.fails f && s.hand.failedBefore.contains f))
  let s3 := s2.resetTricks.misdealPages.dealerMisdeal.withdrawOwn
  let s4 := twice.foldl (fun t f => t.faceFault f 1) s3
  let s5 := s4.sendAborts h
  let again := if s.hand.redeal then s.hand.redealOf else h
  (s5.modHand (fun x =>
    { x with redealNext := x.redealNext || !x.held, redealReset := x.redealReset || x.resetMisdeal, redealOf := if x.held then x.redealOf else again, sent := [], sigrDevs := []
             failedBefore := if counted = [] ∨ x.held = true then x.failedBefore else counted })).sendReport 1 h
    ((List.range s.nFaces).foldl (fun a f => min a (match (s.face f).endTime with
      | some t => (s.hand.expiry - t) / 16
      | none => 0)) (2 ^ 24 - 1))

/-- BUDGET_EXPIRY (R24, R33, R41): E comes. The hand commits or misdeals, and its boundary passes; a tick without a hand has its boundary. -/
def execBudgetExpiry (s : State) : Host.Outcome State Fault Refusal :=
  ok (if s.dead then s
      else if s.hand.idle then s.idleEnd
      else if s.hand.running = false then s
      else
        let t := (({ s with irqDone := [] } : State).advance s.hand.expiry).ringDrain.openTiles.dropChecks
        let bad := (List.range t.nFaces).any (fun f => t.fails f)
        (if bad || t.blocked then t.misdealHand else t.commitHand).endHand)

end Sys2Proof.Machine
end

