-- ==== Sys2Proof/Machine/RegWrite.lean ====
section
/-! DEFINITION. Register accesses from outside: which function reaches which register (R588, R589, R7, R12, R600), which values a write
leaves (R13, the access codes of 00_scope.md, and the limits that the chapters state), and what a write sets off. -/
namespace Sys2Proof.Machine

/-- The state a meaning ends in. -/
def after (s : State) (o : Host.Outcome State Fault Refusal) : State :=
  match o with
  | .next t => t
  | _ => s

/-! ### Where an access lands (R588) -/

/-- PF0 BAR0 offset that an offset of a function's BAR0 reaches; HIF_PF2_APERTURE, which PF0 does not map, has its own place past the
end of PF0's BAR0.  The aperture only reads (R589). -/
def hostOff (fn off : Nat) : Option Nat :=
  if fn = 0 then (if off < 0x4000000 then some off else none)
  else if fn = 1 then
    if off < 0xFE000 then some off
    else if 0x100000 ≤ off ∧ off < 0x900000 then some (off + 0xF00000)
    else if 0x900000 ≤ off ∧ off < 0xB00000 then some (off + 0x1700000)
    else if 0xB00000 ≤ off ∧ off < 0xC00000 then some (off + 0x1D00000)
    else if 0xC00000 ≤ off ∧ off < 0xD00000 then some (off + 0x2400000)
    else if 0xD00000 ≤ off ∧ off < 0xE00000 then some (off + 0x2B00000)
    else none
  else if fn = 2 then
    if off < 0xFE000 then some off else if off = 0xFF000 then some 0x4000000 else none
  else none

/-- Functions through which fields of a path are written (R589): 0 to 2, and 7 for WRITE_REG. -/
def Path.mayFn : Path → Nat → Bool
  | .pf0, fn => decide (fn = 0)
  | .pf01, fn => decide (fn = 0 ∨ fn = 1)
  | .pf1, fn => decide (fn = 1)
  | .pf1m, fn => decide (fn = 1 ∨ fn = 7)
  | .mgmt, fn => decide (fn = 7)
  | .pf02, fn => decide (fn = 0 ∨ fn = 2)
  | .pf2, fn => decide (fn = 2)
  | .inj, fn => decide (fn = 1 ∨ fn = 7)

/-- A register of a face window whose face the device does not have (R7). -/
def State.noFace (s : State) (r : RegId) (i : Nat) : Bool :=
  let b := (regInfo r).base
  decide (0x1000000 ≤ b ∧ b < 0x1800000 ∧ outerIx r i ≥ s.nFaces)

/-- The host reaches the register (R597, R600): before READY, only the platform window; in a host reset or a warm reset only by a read of PF0's
first 64 bytes. -/
def State.hostReaches (s : State) (fn off : Nat) (write : Bool) : Bool :=
  !s.dead && (
    if s.hif.perstLow || s.hif.warm then !write && decide (fn = 0 ∧ off < 0x40)
    else decide (off < 0x1000000) || (decide (fn = 2) && decide (off = 0x4000000)) || decide (s.rd R.PLT_BOOT_STATE.READY 0 = 1))

/-! ### Values a write may leave -/

/-- Fields whose table states a range and that a write outside it is refused: the previous value is kept. -/
def hardRange : RegId → List (Fld × (Nat → Bool))
  | .SYN_TICK_LEAD => [(R.SYN_TICK_LEAD.LEAD, fun v => decide (1000 ≤ v ∧ v ≤ 20000))]
  | .MSH_CFG => [(R.MSH_CFG.REMOTE_MIN, fun v => decide (v ≤ 8))]
  | .MSH_PAIR_SHARE => (List.range 4).map (fun j => (R.MSH_PAIR_SHARE.PAIR j, fun v => decide (v ≠ 0)))
  | .ARF_PIN_CTL => [(R.ARF_PIN_CTL.WINDOW, fun v => decide (v ≠ 0)), (R.ARF_PIN_CTL.PIN_MAX, fun v => decide (v ≠ 0))]
  | .SPD_SCRUB => [(R.SPD_SCRUB.INTERVAL, fun v => decide (v = 0 ∨ 10 ≤ v))]
  | .MEM_SCRUB => [(R.MEM_SCRUB.INTERVAL, fun v => decide (v = 0 ∨ 600 ≤ v))]
  | .PLT_DIGEST_CFG => [(R.PLT_DIGEST_CFG.REDRESS, fun v => decide (9 ≤ v ∧ v ≤ 19))]
  | .SRV_ADMIT =>
    [(R.SRV_ADMIT.DECODE_FRAC, fun v => decide (v ≠ 0)), (R.SRV_ADMIT.PER_HAND, fun v => decide (v ≠ 0)),
     (R.SRV_ADMIT.CHUNK_MAX, fun v => decide (1 ≤ v ∧ v ≤ 4096)), (R.SRV_ADMIT.LANES, fun v => decide (v ≠ 0))]
  | .SRV_MODEL => [(R.SRV_MODEL.RATE, fun v => decide (1 ≤ v ∧ v ≤ 1280))]
  | .SRV_VOCAB => [(R.SRV_VOCAB.VOCAB, fun v => decide (v ≠ 1 ∧ v ≤ 262144))]
  | .DLR_CFG => [(R.DLR_CFG.VOCAB, fun v => decide (v ≠ 1 ∧ v ≤ 262144))]
  | .SRV_STOCK_SLOTS => [(R.SRV_STOCK_SLOTS.SLOTS, fun v => decide (v ≤ 2 ^ 25))]
  | .KEY_SWEEP_CFG => [(R.KEY_SWEEP_CFG.SHARE, fun v => decide (1 ≤ v ∧ v ≤ 16))]
  | .CAL_CFG => [(R.CAL_CFG.DELTA_T, fun v => decide (v ≠ 0))]
  | .CAL_DUP_CFG => [(R.CAL_DUP_CFG.LOG2, fun v => decide (6 ≤ v ∧ v ≤ 16))]
  | .PWR_LIMIT => [(R.PWR_LIMIT.WATTS, fun v => decide (300 ≤ v ∧ v ≤ 850))]
  | .HIF_PF2_APERTURE => [(R.HIF_PF2_APERTURE.BASE, fun v => decide (v ≤ 61))]
  | _ => []

/-- Fields whose table states a range and not what becomes of a write outside it: whether such a value is stored is a free value (log
entry 20). -/
def softRange : RegId → List (Fld × (Nat → Bool))
  | .SYN_BATCH_CTL => [(R.SYN_BATCH_CTL.MIN_SEATS, fun v => decide (v ≠ 0))]
  | .FCE_HAND_WARN => [(R.FCE_HAND_WARN.MARGIN, fun v => decide (v ≤ 1000000))]
  | .ARF_PIN_CTL => [(R.ARF_PIN_CTL.MIN_PASSES, fun v => decide (v ≠ 0))]
  | .PLT_WIMG_CTL => [(R.PLT_WIMG_CTL.SHARE, fun v => decide (v ≠ 0))]
  | .PLT_DIGEST_CFG =>
    [(R.PLT_DIGEST_CFG.PERIOD, fun v => decide (10 ≤ v)), (R.PLT_DIGEST_CFG.INTERVAL, fun v => decide (64 ≤ v ∧ v ≤ 2 ^ 20))]
  | .SRV_PAGE_CFG =>
    [(R.SRV_PAGE_CFG.SHARE, fun v => decide (v ≠ 0)), (R.SRV_PAGE_CFG.RUNS, fun v => decide (v ≠ 0)),
     (R.SRV_PAGE_CFG.TPPL, fun v => decide (4 ≤ v))]
  | .SRV_STOCK_CFG => [(R.SRV_STOCK_CFG.TTL_DEFAULT, fun v => decide (1 ≤ v ∧ v ≤ 604800))]
  | .LNK_PORT_CTL => [(R.LNK_PORT_CTL.HOLDOFF, fun v => decide (v ≠ 0))]
  | .SYN_ROLE_CAND => [(R.SYN_ROLE_CAND.COUNT, fun v => decide (v ≤ 4))]
  | .SYN_DOMAIN_CFG =>
    [(R.SYN_DOMAIN_CFG.FAIL_HANDS, fun v => decide (16 ≤ v)), (R.SYN_DOMAIN_CFG.HOLD_HANDS, fun v => decide (v ≠ 0)),
     (R.SYN_DOMAIN_CFG.CARRY_PER_HAND, fun v => decide (v ≠ 0))]
  | .CAL_CFG =>
    [(R.CAL_CFG.MAX_AGE, fun v => decide (60 ≤ v ∧ v ≤ 3600)), (R.CAL_CFG.GATHER, fun v => decide (12 ≤ v ∧ v ≤ 20)),
     (R.CAL_CFG.MAX_WAIT, fun v => decide (v ≠ 0)), (R.CAL_CFG.RETRY, fun v => decide (v ≠ 0)),
     (R.CAL_CFG.KS_LIMIT, fun v => decide (v ≠ 0))]
  | .CAL_MON_CFG =>
    [(R.CAL_MON_CFG.SHIFT, fun v => decide (8 ≤ v)), (R.CAL_MON_CFG.K, fun v => decide (4 ≤ v)),
     (R.CAL_MON_CFG.VAR_RATIO, fun v => decide (2 ≤ v))]
  | .CAL_DUP_CFG =>
    [(R.CAL_DUP_CFG.DWELL, fun v => decide (v ≠ 0)), (R.CAL_DUP_CFG.PERIOD, fun v => decide (1 ≤ v ∧ v ≤ 720))]
  | .FLT_CFG => [(R.FLT_CFG.AUTO_MAX, fun v => decide (v ≠ 0))]
  | .FLT_LOG_CFG => [(R.FLT_LOG_CFG.SIZE, fun v => decide (10 ≤ v ∧ v ≤ 20))]
  | .FLT_HOST_RING => [(R.FLT_HOST_RING.SIZE, fun v => decide (4 ≤ v ∧ v ≤ 16))]
  | .PWR_GOV => [(R.PWR_GOV.WINDOW, fun v => decide (v ≠ 0)), (R.PWR_GOV.RAISE, fun v => decide (v ≠ 0))]
  | .PWR_DROOP_CFG =>
    [(R.PWR_DROOP_CFG.T1, fun v => decide (10 ≤ v ∧ v ≤ 200)), (R.PWR_DROOP_CFG.T2, fun v => decide (v ≤ 250))]
  | .HKC_CTL =>
    [(R.HKC_CTL.PERIOD, fun v => decide (256 ≤ v)), (R.HKC_CTL.LENGTH, fun v => decide (1 ≤ v ∧ v ≤ 128))]
  | _ => []

/-- A field keeps its previous value. -/
def keepFld (f : Fld) (old new : Word) : Word := fput new f.lo f.wd (fw old f)

/-- A field keeps its previous value where `c` holds. -/
def keepIf (c : Bool) (f : Fld) (old new : Word) : Word := if c then keepFld f old new else new

/-- Channels that R583 wants named by some entry of the sequence. -/
def State.hkcNamed (s : State) : Bool :=
  let names := (List.range (s.rd R.HKC_CTL.LENGTH 0)).map (fun e => s.rd R.HKC_SEQ.CHANNEL e)
  (List.range 96 ++ (List.range 16).map (· + 112)).all (fun c => names.contains c)

/-- Two ranges of 2 MiB units of one stack overlap (R474): neither is empty, and they meet. -/
def regionsMeet (a b : Word) : Bool :=
  let l := fun (w : Word) => (fget w 0 16, fget w 16 16)
  decide (max (l a).1 (l b).1 < min (l a).2 (l b).2)

/-- Number of bits set in the low 48. -/
def bits48 (w : Word) : Nat := ((List.range 48).filter (fun i => w.getLsbD i)).length

/-- A write of a register that its chapter refuses, or ignores, as a whole: everything keeps its previous value. -/
def State.refusedWrite (s : State) (r : RegId) (i : Nat) (new : Word) : Bool :=
  let old := s.reg r i
  let mode := s.rd R.SRV_MODE.MODE 0
  match r with
  | .SYN_TICK_PERIOD =>
    let p := fw new R.SYN_TICK_PERIOD.PERIOD
    !s.isManager || decide (p ≠ 0 ∧ (p < 20000 ∨ p > 10000000 ∨ p < 4 * s.rd R.SYN_COMMIT_WINDOW.WINDOW 0))
  | .SYN_COMMIT_WINDOW =>
    let w := fw new R.SYN_COMMIT_WINDOW.WINDOW
    let p := s.rd R.SYN_TICK_PERIOD.PERIOD 0
    decide (w < 2000 ∨ 4 * w > (if p = 0 then 10000000 else p))
  | .ARF_PROG_GRANT =>
    let f := i / 4
    let w := fw new R.ARF_PROG_GRANT.W
    decide (fw new R.ARF_PROG_GRANT.OPEN = 1) && s.wsValid f w && decide (s.wsLive f w = fw new R.ARF_PROG_GRANT.COPY)
  | .SYN_WIN_CFG | .SYN_WIN_EPOCH => decide (s.rd R.SYN_WIN_STATE.STATE i ≠ 0)
  | .SRV_PAGE_CFG | .SRV_FACE_PAGES | .SRV_FACE_SEALS | .SRV_STOCK_BASE | .MEM_STOCK_META | .DLR_CFG => decide (mode ≠ 1)
  | .SRV_STOCK_SLOTS => decide (mode ≠ 1 ∨ fw new R.SRV_STOCK_SLOTS.SLOTS * s.pageBytes > 2 ^ 44)
  | .MEM_WREG => decide (mode > 1) || regionsMeet new (s.reg .MEM_SREG i)
  | .MEM_SREG => decide (mode > 1) || regionsMeet new (s.reg .MEM_WREG i)
  | .LNK_DEV_ADDR => (List.range 6).any (fun p => decide (s.rd R.LNK_PORT_STATE.STATE p = 4))
  | .HKC_SEQ => decide (fw new R.HKC_SEQ.D < 16) || !(s.setReg r i new).hkcNamed
  | .PLT_WIMG_FLOOR => decide (fw new R.PLT_WIMG_FLOOR.FLOOR < fw old R.PLT_WIMG_FLOOR.FLOOR)
  | _ => false

/-- Single fields that keep their previous value by a rule of their chapter. -/
def State.keepSome (s : State) (r : RegId) (i : Nat) (new : Word) : Word :=
  let old := s.reg r i
  match r with
  | .ARF_CFG =>
    let c (f : Fld) : Bool := !s.lifeOpen && decide (fw new f = 0)
    keepIf (c R.ARF_CFG.UNIFORM_EN) R.ARF_CFG.UNIFORM_EN old (keepIf (c R.ARF_CFG.MASS_EN) R.ARF_CFG.MASS_EN old new)
  | .CAL_MON_CFG => keepIf (!s.lifeOpen && decide (fw new R.CAL_MON_CFG.EN = 0)) R.CAL_MON_CFG.EN old new
  | .PWR_DROOP_CFG => keepIf (!s.lifeOpen && decide (fw new R.PWR_DROOP_CFG.EN = 0)) R.PWR_DROOP_CFG.EN old new
  | .SYN_WIN_STATE => keepIf (decide (s.rd R.SYN_WIN_STATE.STATE i ≠ 0)) R.SYN_WIN_STATE.SRC old new
  | .SRV_RING_CTL =>
    let bad (n : Nat) : Bool := decide (n < 4 ∨ n > 16)
    keepIf (decide (fw new R.SRV_RING_CTL.EN = 1) && (bad (s.rd R.SRV_RING_SQ.SIZE i) || bad (s.rd R.SRV_RING_CQ.SIZE i))) R.SRV_RING_CTL.EN old new
  | .KEY_SESSION =>
    keepIf (decide (s.rd R.KEY_SESSION.STATE 0 ≠ 0 ∨ fw new R.KEY_SESSION.EPOCH < fw old R.KEY_SESSION.EPOCH)) R.KEY_SESSION.EPOCH old new
  | .FLT_LOG_CFG =>
    keepIf (!(s.inWreg (fw new R.FLT_LOG_CFG.STACK * 2 ^ 36 + fw new R.FLT_LOG_CFG.BASE * 2 ^ 21))) R.FLT_LOG_CFG.BASE old new
  | .HKC_CTL => keepIf (!(s.setReg r i new).hkcNamed) R.HKC_CTL.LENGTH old new
  | _ => new

/-- The word that a write leaves: what the access codes give, less what is refused; a value outside a range about which the spec says
nothing is stored or not by a free value. -/
def State.legal (s : State) (r : RegId) (i : Nat) (new : Word) : State × Word :=
  let old := s.reg r i
  let rw := fieldMask (fun f => f.acc == .rw) (regInfo r).fields
  let new1 := if s.refusedWrite r i new then (new &&& ~~~ rw) ||| (old &&& rw) else s.keepSome r i new
  let new2 := (hardRange r).foldl (fun w e => keepIf (!e.2 (fw w e.1)) e.1 old w) new1
  (softRange r).foldl (fun (a : State × Word) e =>
    if e.2 (fw a.2 e.1) = false ∧ fw a.2 e.1 ≠ fw old e.1 then
      let d := a.1.draw
      (d.2, keepIf (decide (d.1 % 2 = 0)) e.1 old a.2)
    else a) (s, new2)

/-! ### What a write sets off -/

/-- A bit that is written 1 through a function that may write it. -/
def pressed (fn : Nat) (v : Word) (f : Fld) : Bool :=
  decide (fw v f = 1) && (regInfo f.reg).fields.any (fun x => decide (x.lo = f.lo) && x.path.mayFn fn)

/-- Run a command's meaning where `c` holds. -/
def State.andThen (s : State) (c : Bool) (m : State → Host.Outcome State Fault Refusal) : State := if c then after s (m s) else s

/-- What a stored write of `v` sets off; `old` is the word before (the bits of one write act in the order of their places). -/
def State.writeEffects (s : State) (fn : Nat) (r : RegId) (i : Nat) (old v : Word) : State :=
  let hit := pressed fn v
  match r with
  | .SPD_CACHE_CFG => (s.wrB R.SPD_CACHE_CFG.PENDING i (decide (s.rd R.SPD_CACHE_CFG.REQ i ≠ s.rd R.SPD_CACHE_CFG.ACTIVE i))).orNow (fun t => t.bdyCacheCfg i)
  | .FCE_PROG_CTL =>
    (((s.andThen (hit R.FCE_PROG_CTL.LOAD) (execProgramLoad i)).andThen (hit R.FCE_PROG_CTL.ACTIVATE) (execProgramActivate i)).andThen
      (hit R.FCE_PROG_CTL.HOLD) (execProgramHold i)).andThen (hit R.FCE_PROG_CTL.UNLOAD) (execProgramUnload i)
  | .FCE_HOST_CALL => s.andThen (hit R.FCE_HOST_CALL.REQ) (execHostCall i)
  | .ARF_PROG_GRANT =>
    let w := s.reg r i
    -- opening a grant clears READY; closing one, or naming another copy, judges the copy it named again
    let t := if fw old R.ARF_PROG_GRANT.OPEN = 1 ∧ fn = 1 then s.checkReady (i / 4) (fw old R.ARF_PROG_GRANT.W) (fw old R.ARF_PROG_GRANT.COPY) else s
    if fw w R.ARF_PROG_GRANT.OPEN = 1 ∧ fn = 1 then t.setReady (i / 4) (fw w R.ARF_PROG_GRANT.W) (fw w R.ARF_PROG_GRANT.COPY) false else t
  | .SYN_MIRROR =>
    if fw old R.SYN_MIRROR.EN = 0 ∧ s.rd R.SYN_MIRROR.EN i = 1 then
      s.modFace i (fun x => { x with ctr := x.ctr.map (fun e => (e.1, { e.2 with mirrored := 0 })) })
    else s
  | .SYN_CTR_NOTIFY => if hit R.SYN_CTR_NOTIFY.ARMED then s.wr R.SYN_CTR_NOTIFY.ARMED i 1 else s
  | .SYN_WIN_CFG =>
    (s.andThen (hit R.SYN_WIN_CFG.OPEN) (execWindowOpen (i / 256) (i % 256))).andThen (hit R.SYN_WIN_CFG.CLOSE) (execWindowClose (i / 256) (i % 256))
  | .PLT_WIMG_CTL => s.andThen (hit R.PLT_WIMG_CTL.DISCARD) execWimgDiscard
  | .PLT_PUT_CTL => s.andThen (hit R.PLT_PUT_CTL.START) execPut
  | .PLT_BUILD_CTL => s.andThen (hit R.PLT_BUILD_CTL.START) execBuild
  | .PLT_CUT_CTL => s.andThen (hit R.PLT_CUT_CTL.REQ) execCutReq
  | .SRV_PFX_CTL => (s.andThen (hit R.SRV_PFX_CTL.INSTALL) execPfxInstall).andThen (hit R.SRV_PFX_CTL.REMOVE) execPfxRemove
  | .DLR_GRAM_CTL => (s.andThen (hit R.DLR_GRAM_CTL.LOAD) execGrammarLoad).andThen (hit R.DLR_GRAM_CTL.UNLOAD) execGrammarUnload
  | .LNK_BYP_CTL => (s.andThen (hit R.LNK_BYP_CTL.CLOSE) execBypassClose).andThen (hit R.LNK_BYP_CTL.OPEN) execBypassOpen
  | .LNK_PORT_CTL =>
    let en := s.rd R.LNK_PORT_CTL.EN i
    let t := if fw old R.LNK_PORT_CTL.EN = 0 ∧ en = 1 then s.trainStart i
             else if fw old R.LNK_PORT_CTL.EN = 1 ∧ en = 0 then s.portDown i false else s
    t.andThen (hit R.LNK_PORT_CTL.RETRAIN) (execPortRetrain i)
  | .SYN_ROLE_CAND => if fn = 7 then s.domainStart else s
  | .SYN_JOIN_CTL => s.andThen (hit R.SYN_JOIN_CTL.REQ) execJoin
  | .SYN_RETIRE_CTL => s.andThen (hit R.SYN_RETIRE_CTL.REQ) execReplicaRetire
  | .KEY_ROT_CTL => s.andThen (hit R.KEY_ROT_CTL.ROTATE) execRotate
  | .KEY_SESSION_CTL =>
    (s.andThen (hit R.KEY_SESSION_CTL.OPEN) execSessionOpen).andThen (hit R.KEY_SESSION_CTL.RELEASE) execSessionRelease
  | .CAL_REQ =>
    s.andThen (hit R.CAL_REQ.REQ) (execCalReq (fw v R.CAL_REQ.FACE) (fw v R.CAL_REQ.BLOCK) (decide (fw v R.CAL_REQ.ALL = 1)) (fw v R.CAL_REQ.PORT)
      (decide (fw v R.CAL_REQ.LANES = 1)))
  | .FLT_FATAL => s.faultN
  | .HKC_CTL =>
    let t := if s.rd R.HKC_CTL.REF_EN 0 = 0 then s.wr R.HKC_STAT.REF_READY 0 0 else s
    t.andThen (hit R.HKC_CTL.SELFCAL) execSelfcal
  | .PLT_BOOT_CTL => s.andThen (hit R.PLT_BOOT_CTL.RESTORE) execRestore
  | .PLT_RESET_CTL => s.andThen (hit R.PLT_RESET_CTL.WARM) execWarmReset
  | .PLT_FACE_RESET => s.andThen (Path.mayFn .pf1m fn) (execFaceReset (fw v R.PLT_FACE_RESET.FACES))
  | _ => s

/-- Registers whose write is a request and stores nothing itself: the present values change when the request takes effect. -/
def State.writeRequest (s : State) (fn : Nat) (r : RegId) (i : Nat) (v : Word) : Option State :=
  match r with
  | .SYN_CTR_SIG =>
    some (s.andThen (decide (fn = 0 ∨ fn = 1 ∨ fn = 7))
      (execSynCtrSig i (fw v R.SYN_CTR_SIG.INDEX) (decide (fw v R.SYN_CTR_SIG.SUB = 1)) (fw v R.SYN_CTR_SIG.AMOUNT) fn))
  | .SYN_TRICK_CFG => some (s.andThen (decide (fn = 0)) (execTrickCfg i (fw v R.SYN_TRICK_CFG.PARTIES) (fw v R.SYN_TRICK_CFG.HOME)))
  | .SYN_DTRICK_CFG => some (s.andThen (decide (fn = 0)) (execDtrickCfg i (fw v R.SYN_DTRICK_CFG.PARTIES)))
  | .SRV_MODE => some (s.andThen (decide (fn = 0)) (execSrvMode (fw v R.SRV_MODE.MODE)))
  | .SPD_RES_G0 | .SPD_RES_G1 =>
    if fn ≠ 1 then some s
    else
      let now_ := ((s.face i).resReq).getD (s.reg .SPD_RES_G0 i, s.reg .SPD_RES_G1 i)
      let w := v &&& BitVec.ofNat 64 (2 ^ 48 - 1)
      let q := if r = .SPD_RES_G0 then (w, now_.2) else (now_.1, w)
      if bits48 q.1 + bits48 q.2 > 64 then some s
      else some ((s.modFace i (fun x => { x with resReq := some q })).orNow (fun t => t.bdyRegion i))
  | .PLT_DBG_CTL => some (s.andThen (decide (fn = 0)) (execDbgRead (fw v R.PLT_DBG_CTL.FACE) (fw v R.PLT_DBG_CTL.ADDR)))
  | .FLT_HIST_QUERY => some (s.andThen (decide (fn = 0)) (execHistQuery (fw v R.FLT_HIST_QUERY.UNIT)))
  | .FLT_LOG_READ => some (s.andThen (decide (fn = 0 ∨ fn = 2)) (execLogRead (fw v R.FLT_LOG_READ.SLOT)))
  | .FLT_HIST_CLEAR =>
    if fn ≠ 7 then some s
    else
      let t := s.wr R.FLT_HIST_CLEAR.UNIT 0 (fw v R.FLT_HIST_CLEAR.UNIT)
      some ((t.andThen (decide (fw v R.FLT_HIST_CLEAR.CLEAR = 1)) (execHistClear (fw v R.FLT_HIST_CLEAR.UNIT) true)).andThen
        (decide (fw v R.FLT_HIST_CLEAR.ALL = 1)) (execHistClearAll true))
  | .ARF_PIN =>
    -- a write sets the 32 pins of its register at the next boundary (R131)
    let ws := (List.range 32).map (fun j => (i % 8 * 32 + j, fget v (2 * j) 2))
    if fn ≠ 0 then some s else some ((s.modFace (i / 8) (fun x => { x with pinWrites := x.pinWrites ++ ws })).orNow State.bdyPins)
  | .FLT_INJ_CTL => some (s.writeInj i v (s.reg .FLT_INJ_UNIT i) fn)
  | .FLT_INJ_UNIT => some (s.writeInj i (s.reg .FLT_INJ_CTL i) v fn)
  | .PWR_DOM_REQ => some (s.andThen (Path.mayFn .pf1m fn) (execPwrDomReq v (decide (fn = 7))))
  | _ => none

/-- A 64-bit write of `v` to instance i of register r through function fn (7: WRITE_REG). -/
def State.writeReg (s : State) (fn : Nat) (r : RegId) (i : Nat) (v : Word) : State :=
  if s.noFace r i then s
  else match s.writeRequest fn r i v with
  | some t => t
  | none =>
    let old := s.reg r i
    let n := writeImage r (fun f => f.path.mayFn fn) old v
    if (regInfo r).fields.all (fun f => !f.path.mayFn fn) = true then s
    else
      let l := s.legal r i n
      (l.1.setReg r i l.2).writeEffects fn r i old v

/-- REGISTER_WRITE (R7, R12, R13, R588, R589, R600): a write of `width` bytes at an offset of function fn's BAR0. DESIGN CHOICE (log entry
71): a 64-bit write that is not naturally aligned, of which R12 says only that software must not make it, is dropped like a narrower one. -/
def execRegisterWrite (fn off width : Nat) (v : Word) (s : State) : Host.Outcome State Fault Refusal :=
  ok (if width ≠ 8 ∨ off % 8 ≠ 0 then s
      else match hostOff fn off with
      | none => s
      | some o =>
        if s.hostReaches fn o true = false then s
        else match regAt o with
        | none => s
        | some (r, i) => s.writeReg fn r i v)

/-- WRITE_REG (R513): a management write at a PF0 BAR0 offset; it changes the fields marked as written through management, and no others. -/
def execWriteReg (i acks off : Nat) (v : Word) (s : State) : Host.Outcome State Fault Refusal :=
  ok (s.mgmtOp i acks 3 (s.mayOp i [1, 2]) (fun t =>
    match regAt off with
    | none => some (t, [])
    | some (r, j) => some (if r = .HIF_PF2_APERTURE then t else t.writeReg 7 r j v, [])))

/-! ### Reads -/

/-- A register as it reads now: the values that the device keeps elsewhere are filled in (R311, R525, R516). -/
def State.freshReg (s : State) (r : RegId) (i : Nat) : Word :=
  let w := s.reg r i
  match r with
  | .SYN_CTR_VAL =>
    let c := mget {} (s.face (i / 1024)).ctr (i % 1024)
    let v := match (s.face (i / 1024)).run with
      | .off => c.value
      | _ => c.entry
    fput (fput w 0 32 v) 32 32 c.ceil
  | .CAL_BLK_STATE =>
    match (s.cal (i / 64) (i % 64)).passAt with
    | some t => fput w R.CAL_BLK_STATE.AGE.lo R.CAL_BLK_STATE.AGE.wd (min 65535 ((s.now - t) / 1000000000))
    | none => w
  | .PLT_DBG_DATA => if s.lifeOpen then w else 0#64
  | _ => w

/-- Read instance i of register r: its value, with read-and-clear fields cleared. -/
def State.readReg (s : State) (r : RegId) (i : Nat) : State × Word :=
  if s.noFace r i then (s, 0#64) else (s.setReg r i (afterRead r (s.reg r i)), readImage r (s.freshReg r i))

/-- PF0 BAR0 offset that a read at an offset of a function's BAR0 reaches: PF2's aperture reads 3 MiB of PF0's BAR0 (R588). -/
def State.readOff (s : State) (fn off : Nat) : Option Nat :=
  if fn = 2 ∧ 0x100000 ≤ off ∧ off < 0x400000 then
    let o := s.rd R.HIF_PF2_APERTURE.BASE 0 * 2 ^ 20 + (off - 0x100000)
    if o < 0x4000000 then some o else none
  else hostOff fn off

/-- What a host read of `width` bytes at an offset of function fn's BAR0 returns, and the state it leaves (R7, R10, R12, R588, R589, R600): a
narrower read returns the addressed bytes. The opcode table has no row for a host read, so no command calls this. DESIGN CHOICE (log entry
71): a narrower read clears the RC fields that lie, in part or whole, in the bytes it addresses; one that crosses the register's end returns
zero there. -/
def State.hostRead (s : State) (fn off width : Nat) : State × Nat :=
  match s.readOff fn (off / 8 * 8) with
  | none => (s, 0)
  | some o =>
    if s.hostReaches fn o false = false then (s, 0)
    else match regAt o with
    | none => (s, 0)
    | some (r, i) =>
      if s.noFace r i then (s, 0)
      else
        let lo := 8 * (off % 8)
        let hi := lo + 8 * width
        let rc := fieldMask (fun f => f.acc == .rc && decide (f.lo < hi ∧ lo < f.lo + f.wd)) (regInfo r).fields
        (s.setReg r i (s.reg r i &&& ~~~ rc), (readImage r (s.freshReg r i)).toNat / 2 ^ lo % 2 ^ (8 * width))

/-- READ_REG (R513): a management read of any register of PF0 BAR0; where none lies, zero. -/
def execReadReg (i acks off : Nat) (s : State) : Host.Outcome State Fault Refusal :=
  ok (s.mgmtOp i acks 2 (s.mayOp i [1, 2, 3]) (fun t =>
    match regAt off with
    | none => some (t, [0])
    | some (r, j) =>
      if r = .HIF_PF2_APERTURE then some (t, [0])
      else
        let x := t.readReg r j
        some (x.1, [x.2.toNat])))

end Sys2Proof.Machine
end

