-- ==== Sys2Proof/Machine/Scalar.lean ====
section
/-! DEFINITION. The scalar class (0x02) of 09_ifeom_control_and_movement.md: R264 (arithmetic modulo 2^64, IMM16
sign-extended), the compares and predicate operations, RDS, and the scalar load and store of R265. -/
namespace Sys2Proof.Machine

/-- The operands of the register forms. -/
def vRA (x : Face) (w : IWord) : Word := x.sreg (fRA w)
def vRB (x : Face) (w : IWord) : Word := x.sreg (fRB w)

/-- The scalar operations on two words. -/
def opShl (a b : Word) : Word := a <<< (b.toNat % 64)
def opShr (a b : Word) : Word := a >>> (b.toNat % 64)
def opSra (a b : Word) : Word := a.sshiftRight (b.toNat % 64)
def opMulhu (a b : Word) : Word := BitVec.ofNat 64 (a.toNat * b.toNat / 2 ^ 64)
def opMin (a b : Word) : Word := if a.slt b then a else b
def opMax (a b : Word) : Word := if a.slt b then b else a
def opMinu (a b : Word) : Word := if a.ult b then a else b
def opMaxu (a b : Word) : Word := if a.ult b then b else a

/-- ADD: RD := RA + RB (R264). -/
def execAdd (f : Nat) (w : IWord) (s : State) : Host.Outcome State Fault Refusal :=
  ok (issueRD s f w (formRRR 0x000) (fun x => (vRA x w) + (vRB x w)))

/-- ADDI: ADD with IMM16 in place of RB (R264). -/
def execAddi (f : Nat) (w : IWord) (s : State) : Host.Outcome State Fault Refusal :=
  ok (issueRD s f w (formRRI 0x040) (fun x => (vRA x w) + (imm16 w)))

/-- SUB: RD := RA − RB (R264). -/
def execSub (f : Nat) (w : IWord) (s : State) : Host.Outcome State Fault Refusal :=
  ok (issueRD s f w (formRRR 0x001) (fun x => (vRA x w) - (vRB x w)))

/-- SUBI: SUB with IMM16 in place of RB (R264). -/
def execSubi (f : Nat) (w : IWord) (s : State) : Host.Outcome State Fault Refusal :=
  ok (issueRD s f w (formRRI 0x041) (fun x => (vRA x w) - (imm16 w)))

/-- AND: RD := RA AND RB (R264). -/
def execAnd (f : Nat) (w : IWord) (s : State) : Host.Outcome State Fault Refusal :=
  ok (issueRD s f w (formRRR 0x002) (fun x => (vRA x w) &&& (vRB x w)))

/-- ANDI: AND with IMM16 in place of RB (R264). -/
def execAndi (f : Nat) (w : IWord) (s : State) : Host.Outcome State Fault Refusal :=
  ok (issueRD s f w (formRRI 0x042) (fun x => (vRA x w) &&& (imm16 w)))

/-- OR: RD := RA OR RB (R264). -/
def execOr (f : Nat) (w : IWord) (s : State) : Host.Outcome State Fault Refusal :=
  ok (issueRD s f w (formRRR 0x003) (fun x => (vRA x w) ||| (vRB x w)))

/-- ORI: OR with IMM16 in place of RB (R264). -/
def execOri (f : Nat) (w : IWord) (s : State) : Host.Outcome State Fault Refusal :=
  ok (issueRD s f w (formRRI 0x043) (fun x => (vRA x w) ||| (imm16 w)))

/-- XOR: RD := RA XOR RB (R264). -/
def execXor (f : Nat) (w : IWord) (s : State) : Host.Outcome State Fault Refusal :=
  ok (issueRD s f w (formRRR 0x004) (fun x => (vRA x w) ^^^ (vRB x w)))

/-- XORI: XOR with IMM16 in place of RB (R264). -/
def execXori (f : Nat) (w : IWord) (s : State) : Host.Outcome State Fault Refusal :=
  ok (issueRD s f w (formRRI 0x044) (fun x => (vRA x w) ^^^ (imm16 w)))

/-- SHL: RD := RA shifted left by RB mod 64 (R264). -/
def execShl (f : Nat) (w : IWord) (s : State) : Host.Outcome State Fault Refusal :=
  ok (issueRD s f w (formRRR 0x005) (fun x => opShl (vRA x w) (vRB x w)))

/-- SHLI: SHL with IMM16 in place of RB (R264). -/
def execShli (f : Nat) (w : IWord) (s : State) : Host.Outcome State Fault Refusal :=
  ok (issueRD s f w (formRRI 0x045) (fun x => opShl (vRA x w) (imm16 w)))

/-- SHR: RD := RA shifted right logically by RB mod 64 (R264). -/
def execShr (f : Nat) (w : IWord) (s : State) : Host.Outcome State Fault Refusal :=
  ok (issueRD s f w (formRRR 0x006) (fun x => opShr (vRA x w) (vRB x w)))

/-- SHRI: SHR with IMM16 in place of RB (R264). -/
def execShri (f : Nat) (w : IWord) (s : State) : Host.Outcome State Fault Refusal :=
  ok (issueRD s f w (formRRI 0x046) (fun x => opShr (vRA x w) (imm16 w)))

/-- SRA: RD := RA shifted right arithmetically by RB mod 64 (R264). -/
def execSra (f : Nat) (w : IWord) (s : State) : Host.Outcome State Fault Refusal :=
  ok (issueRD s f w (formRRR 0x007) (fun x => opSra (vRA x w) (vRB x w)))

/-- SRAI: SRA with IMM16 in place of RB (R264). -/
def execSrai (f : Nat) (w : IWord) (s : State) : Host.Outcome State Fault Refusal :=
  ok (issueRD s f w (formRRI 0x047) (fun x => opSra (vRA x w) (imm16 w)))

/-- MUL: RD := the low 64 bits of RA × RB (R264). -/
def execMul (f : Nat) (w : IWord) (s : State) : Host.Outcome State Fault Refusal :=
  ok (issueRD s f w (formRRR 0x008) (fun x => (vRA x w) * (vRB x w)))

/-- MULI: MUL with IMM16 in place of RB (R264). -/
def execMuli (f : Nat) (w : IWord) (s : State) : Host.Outcome State Fault Refusal :=
  ok (issueRD s f w (formRRI 0x048) (fun x => (vRA x w) * (imm16 w)))

/-- MULHU: RD := the high 64 bits of the unsigned RA × RB (R264). -/
def execMulhu (f : Nat) (w : IWord) (s : State) : Host.Outcome State Fault Refusal :=
  ok (issueRD s f w (formRRR 0x009) (fun x => opMulhu (vRA x w) (vRB x w)))

/-- MIN: RD := the signed minimum (R264). -/
def execMin (f : Nat) (w : IWord) (s : State) : Host.Outcome State Fault Refusal :=
  ok (issueRD s f w (formRRR 0x00A) (fun x => opMin (vRA x w) (vRB x w)))

/-- MINI: MIN with IMM16 in place of RB (R264). -/
def execMini (f : Nat) (w : IWord) (s : State) : Host.Outcome State Fault Refusal :=
  ok (issueRD s f w (formRRI 0x04A) (fun x => opMin (vRA x w) (imm16 w)))

/-- MAX: RD := the signed maximum (R264). -/
def execMax (f : Nat) (w : IWord) (s : State) : Host.Outcome State Fault Refusal :=
  ok (issueRD s f w (formRRR 0x00B) (fun x => opMax (vRA x w) (vRB x w)))

/-- MAXI: MAX with IMM16 in place of RB (R264). -/
def execMaxi (f : Nat) (w : IWord) (s : State) : Host.Outcome State Fault Refusal :=
  ok (issueRD s f w (formRRI 0x04B) (fun x => opMax (vRA x w) (imm16 w)))

/-- MINU: RD := the unsigned minimum (R264). -/
def execMinu (f : Nat) (w : IWord) (s : State) : Host.Outcome State Fault Refusal :=
  ok (issueRD s f w (formRRR 0x00C) (fun x => opMinu (vRA x w) (vRB x w)))

/-- MINUI: MINU with IMM16 in place of RB (R264). -/
def execMinui (f : Nat) (w : IWord) (s : State) : Host.Outcome State Fault Refusal :=
  ok (issueRD s f w (formRRI 0x04C) (fun x => opMinu (vRA x w) (imm16 w)))

/-- MAXU: RD := the unsigned maximum (R264). -/
def execMaxu (f : Nat) (w : IWord) (s : State) : Host.Outcome State Fault Refusal :=
  ok (issueRD s f w (formRRR 0x00D) (fun x => opMaxu (vRA x w) (vRB x w)))

/-- MAXUI: MAXU with IMM16 in place of RB (R264). -/
def execMaxui (f : Nat) (w : IWord) (s : State) : Host.Outcome State Fault Refusal :=
  ok (issueRD s f w (formRRI 0x04D) (fun x => opMaxu (vRA x w) (imm16 w)))

/-- CMPEQ: PD := (RA = RB). -/
def execCmpeq (f : Nat) (w : IWord) (s : State) : Host.Outcome State Fault Refusal :=
  ok (issuePD s f w (formPRR 0x090) (fun x => decide ((vRA x w) = (vRB x w))))

/-- CMPEQI: CMPEQ with IMM16 in place of RB. -/
def execCmpeqi (f : Nat) (w : IWord) (s : State) : Host.Outcome State Fault Refusal :=
  ok (issuePD s f w (formPRI 0x0D0) (fun x => decide ((vRA x w) = (imm16 w))))

/-- CMPNE: PD := (RA ≠ RB). -/
def execCmpne (f : Nat) (w : IWord) (s : State) : Host.Outcome State Fault Refusal :=
  ok (issuePD s f w (formPRR 0x091) (fun x => decide ((vRA x w) ≠ (vRB x w))))

/-- CMPNEI: CMPNE with IMM16 in place of RB. -/
def execCmpnei (f : Nat) (w : IWord) (s : State) : Host.Outcome State Fault Refusal :=
  ok (issuePD s f w (formPRI 0x0D1) (fun x => decide ((vRA x w) ≠ (imm16 w))))

/-- CMPLT: PD := (RA < RB, signed). -/
def execCmplt (f : Nat) (w : IWord) (s : State) : Host.Outcome State Fault Refusal :=
  ok (issuePD s f w (formPRR 0x092) (fun x => BitVec.slt (vRA x w) (vRB x w)))

/-- CMPLTI: CMPLT with IMM16 in place of RB. -/
def execCmplti (f : Nat) (w : IWord) (s : State) : Host.Outcome State Fault Refusal :=
  ok (issuePD s f w (formPRI 0x0D2) (fun x => BitVec.slt (vRA x w) (imm16 w)))

/-- CMPLTU: PD := (RA < RB, unsigned). -/
def execCmpltu (f : Nat) (w : IWord) (s : State) : Host.Outcome State Fault Refusal :=
  ok (issuePD s f w (formPRR 0x093) (fun x => BitVec.ult (vRA x w) (vRB x w)))

/-- CMPLTUI: CMPLTU with IMM16 in place of RB. -/
def execCmpltui (f : Nat) (w : IWord) (s : State) : Host.Outcome State Fault Refusal :=
  ok (issuePD s f w (formPRI 0x0D3) (fun x => BitVec.ult (vRA x w) (imm16 w)))

/-- CMPLE: PD := (RA ≤ RB, signed). -/
def execCmple (f : Nat) (w : IWord) (s : State) : Host.Outcome State Fault Refusal :=
  ok (issuePD s f w (formPRR 0x094) (fun x => BitVec.sle (vRA x w) (vRB x w)))

/-- CMPLEI: CMPLE with IMM16 in place of RB. -/
def execCmplei (f : Nat) (w : IWord) (s : State) : Host.Outcome State Fault Refusal :=
  ok (issuePD s f w (formPRI 0x0D4) (fun x => BitVec.sle (vRA x w) (imm16 w)))

/-- CMPLEU: PD := (RA ≤ RB, unsigned). -/
def execCmpleu (f : Nat) (w : IWord) (s : State) : Host.Outcome State Fault Refusal :=
  ok (issuePD s f w (formPRR 0x095) (fun x => BitVec.ule (vRA x w) (vRB x w)))

/-- CMPLEUI: CMPLEU with IMM16 in place of RB. -/
def execCmpleui (f : Nat) (w : IWord) (s : State) : Host.Outcome State Fault Refusal :=
  ok (issuePD s f w (formPRI 0x0D5) (fun x => BitVec.ule (vRA x w) (imm16 w)))

/-- PAND: PD := PA AND PB. -/
def execPand (f : Nat) (w : IWord) (s : State) : Host.Outcome State Fault Refusal :=
  ok (issuePD s f w (formPPP 0x0A0) (fun x => x.preg (fPA w) && x.preg (fPB w)))

/-- POR: PD := PA OR PB. -/
def execPor (f : Nat) (w : IWord) (s : State) : Host.Outcome State Fault Refusal :=
  ok (issuePD s f w (formPPP 0x0A1) (fun x => x.preg (fPA w) || x.preg (fPB w)))

/-- PXOR: PD := PA XOR PB. -/
def execPxor (f : Nat) (w : IWord) (s : State) : Host.Outcome State Fault Refusal :=
  ok (issuePD s f w (formPPP 0x0A2) (fun x => xor (x.preg (fPA w)) (x.preg (fPB w))))

/-- PNOT: PD := NOT PA. -/
def execPnot (f : Nat) (w : IWord) (s : State) : Host.Outcome State Fault Refusal :=
  ok (issuePD s f w (formPP 0x0A3) (fun x => !x.preg (fPA w)))

/-- TBIT: PD := RA[IMM16 mod 64]. -/
def execTbit (f : Nat) (w : IWord) (s : State) : Host.Outcome State Fault Refusal :=
  ok (issuePD s f w (formPRI 0x0A8) (fun x => (vRA x w).getLsbD ((imm16 w).toNat % 64)))

/-- LI: RD := word 1. -/
def execLi (f : Nat) (w : IWord) (s : State) : Host.Outcome State Fault Refusal :=
  ok (issueRD s f w ⟨0x02, 0x080, 1, [(37, 5)], [(0, 64)], [], []⟩ (fun _ => w.w1))

/-- The special registers that RDS reads (R264); none for another SPEC. -/
def special (s : State) (f : Nat) (x : Face) (spec : Nat) : Option Word :=
  match spec with
  | 0 => some (BitVec.ofNat 64 x.hn)
  | 1 => some (BitVec.ofNat 64 s.now)
  | 2 => some (BitVec.ofNat 64 f)
  | 3 => some (BitVec.ofNat 64 s.devAddr)
  | 4 => some (BitVec.ofNat 64 x.tpc)
  | 5 => some (BitVec.ofNat 64 x.tcause)
  | 6 => some x.tinfo
  | 8 => some (BitVec.ofNat 64 (x.lreg 0))
  | 9 => some (BitVec.ofNat 64 (x.lreg 1))
  | 10 => some (BitVec.ofNat 64 (x.lreg 2))
  | 11 => some (BitVec.ofNat 64 (x.lreg 3))
  | _ => none

/-- RDS: RD := special register SPEC; any other SPEC is out of range (R264). -/
def execRds (f : Nat) (w : IWord) (s : State) : Host.Outcome State Fault Refusal :=
  ok (issue s f w ⟨0x02, 0x0B0, 0, [(37, 5), (24, 8)], [], [], []⟩ (fun t x =>
    match special t f x (fSPEC w) with
    | some v => .next (t.modFace f (fun y => y.setS (fRD w) v))
    | none => illegal 2))

/-- The checks of a scalar load or store at an address (R265, R198), lowest CHECK code first: the trap, or none.  An address
beyond the 25 bits of R195 is not populated. -/
def wordFault (s : State) (f : Nat) (addr : Word) (write : Bool) : Option Done :=
  let a := addr.toNat
  if a ≥ 2 ^ 25 then some (rangeFault 2 5 0 (a % 2 ^ 48))
  else match s.rangeCheck f (BitVec.ofNat 64 (a + 8 * 2 ^ 25)) 15 write with
  | some c => some (rangeFault c.1 5 0 c.2)
  | none => if a % 8 ≠ 0 then some (rangeFault 8 5 0 a) else none

/-- The 8-byte range of a scalar load or store. -/
def wordRange (addr : Word) : Word := BitVec.ofNat 64 (addr.toNat % 2 ^ 25 + 8 * 2 ^ 25)

/-- The word at `addr` delivered to RD; a poisoned word raises the uncorrectable-word trap (R220, R265). -/
def loadWord (f : Nat) (w : IWord) (addr : Word) (t : State) (x : Face) : Done :=
  let d := (x.padWord (addr.toNat / 8)).deliver
  let t0 := (t.sbNote f 1).padTouch f (addr.toNat / 8)
  -- a line of the fine table: its version enters the hand's stamp (R358)
  let v := mget 0 x.fineLive (addr.toNat / 128)
  let t1 := if v = 0 then t0 else t0.stampWith v
  if d.2 then .trapIn t1 6 addr else .next (t1.modFace f (fun y => y.setS (fRD w) d.1))

/-- LD: RD := the 64-bit word at RA + IMM16; a poisoned word raises the uncorrectable-word trap (R220, R265). -/
def execLd (f : Nat) (w : IWord) (s : State) : Host.Outcome State Fault Refusal :=
  ok (issue s f w ⟨0x02, 0x0C0, 0, [(37, 5), (32, 5), (16, 16)], [], [], []⟩ (fun t x =>
    let addr := vRA x w + imm16 w
    .orElse (wordFault t f addr false) (.orHold (t.sbStall f [(wordRange addr, false)]) (loadWord f w addr t x))))

/-- ST: the word at RA + IMM16 := RD (R265, R331). -/
def execSt (f : Nat) (w : IWord) (s : State) : Host.Outcome State Fault Refusal :=
  ok (issue s f w ⟨0x02, 0x0C1, 0, [(37, 5), (32, 5), (16, 16)], [], [], []⟩ (fun t x =>
    let addr := vRA x w + imm16 w
    .orElse (wordFault t f addr true) (.orHold (t.sbStall f [(wordRange addr, true)])
      (.next ((((t.sbNote f 1).modFace f (fun y => y.padPut (addr.toNat / 8) (x.sreg (fRD w)) false)).injStored f (addr.toNat / 8) 1).raceWrite
        (t.face f) f (addr.toNat / 128) (addr.toNat / 128))))))

end Sys2Proof.Machine
end

