-- ==== Sys2Proof/Machine/Dispatch.lean ====
section
/-! DEFINITION. One arm per command: each a direct call of its meaning. -/
namespace Sys2Proof.Machine

def exec (i : Instr) (s : State) : Host.Outcome State Fault Refusal :=
  match i with
  | .powerOn b => Sys2Proof.Machine.execPowerOn b s
  | .coldReset b => Sys2Proof.Machine.execColdReset b s
  | .coldResetReq b => Sys2Proof.Machine.execColdResetReq b s
  | .warmReset => Sys2Proof.Machine.execWarmReset s
  | .warmResetDrained => Sys2Proof.Machine.execWarmResetDrained s
  | .hostReset => Sys2Proof.Machine.execHostReset s
  | .functionLevelReset fn => Sys2Proof.Machine.execFunctionLevelReset fn s
  | .faceReset mask => Sys2Proof.Machine.execFaceReset mask s
  | .faceResetDone f => Sys2Proof.Machine.execFaceResetDone f s
  | .autoFaceReset f => Sys2Proof.Machine.execAutoFaceReset f s
  | .configRequest fn => Sys2Proof.Machine.execConfigRequest fn s
  | .vaonLoss => Sys2Proof.Machine.execVaonLoss s
  | .bypForce => Sys2Proof.Machine.execBypForce s
  | .thermalTrip c => Sys2Proof.Machine.execThermalTrip c s
  | .droop p half sag => Sys2Proof.Machine.execDroop p half sag s
  | .droopRecover p us => Sys2Proof.Machine.execDroopRecover p us s
  | .tickAnnounce => Sys2Proof.Machine.execTickAnnounce s
  | .seatLimitRegrow r => Sys2Proof.Machine.execSeatLimitRegrow r s
  | .handEntry desc told => Sys2Proof.Machine.execHandEntry desc told s
  | .missedTick => Sys2Proof.Machine.execMissedTick s
  | .missedTickAbort => Sys2Proof.Machine.execMissedTickAbort s
  | .handBudgetWarning f => Sys2Proof.Machine.execHandBudgetWarning f s
  | .budgetExpiry => Sys2Proof.Machine.execBudgetExpiry s
  | .pinEvaluation f => Sys2Proof.Machine.execPinEvaluation f s
  | .vectorIssueCheck f q v drawn => Sys2Proof.Machine.execVectorIssueCheck f q v drawn s
  | .phaseEnd f idx v errs chk tally sat => Sys2Proof.Machine.execPhaseEnd f idx v errs chk tally sat s
  | .bench3Start f idx => Sys2Proof.Machine.execBench3Start f idx s
  | .engineOpStart f e => Sys2Proof.Machine.execEngineOpStart f e s
  | .engineOpComplete f e share drawn => Sys2Proof.Machine.execEngineOpComplete f e share drawn s
  | .fineCheckResult f crc => Sys2Proof.Machine.execFineCheckResult f crc s
  | .nop f w => Sys2Proof.Machine.execNop f w s
  | .br f w => Sys2Proof.Machine.execBr f w s
  | .jal f w => Sys2Proof.Machine.execJal f w s
  | .jr f w => Sys2Proof.Machine.execJr f w s
  | .lset f w => Sys2Proof.Machine.execLset f w s
  | .lbr f w => Sys2Proof.Machine.execLbr f w s
  | .twait f w => Sys2Proof.Machine.execTwait f w s
  | .endProg f w => Sys2Proof.Machine.execEndProg f w s
  | .rte f w => Sys2Proof.Machine.execRte f w s
  | .add f w => Sys2Proof.Machine.execAdd f w s
  | .addi f w => Sys2Proof.Machine.execAddi f w s
  | .sub f w => Sys2Proof.Machine.execSub f w s
  | .subi f w => Sys2Proof.Machine.execSubi f w s
  | .and f w => Sys2Proof.Machine.execAnd f w s
  | .andi f w => Sys2Proof.Machine.execAndi f w s
  | .or f w => Sys2Proof.Machine.execOr f w s
  | .ori f w => Sys2Proof.Machine.execOri f w s
  | .xor f w => Sys2Proof.Machine.execXor f w s
  | .xori f w => Sys2Proof.Machine.execXori f w s
  | .shl f w => Sys2Proof.Machine.execShl f w s
  | .shli f w => Sys2Proof.Machine.execShli f w s
  | .shr f w => Sys2Proof.Machine.execShr f w s
  | .shri f w => Sys2Proof.Machine.execShri f w s
  | .sra f w => Sys2Proof.Machine.execSra f w s
  | .srai f w => Sys2Proof.Machine.execSrai f w s
  | .mul f w => Sys2Proof.Machine.execMul f w s
  | .muli f w => Sys2Proof.Machine.execMuli f w s
  | .mulhu f w => Sys2Proof.Machine.execMulhu f w s
  | .min f w => Sys2Proof.Machine.execMin f w s
  | .mini f w => Sys2Proof.Machine.execMini f w s
  | .max f w => Sys2Proof.Machine.execMax f w s
  | .maxi f w => Sys2Proof.Machine.execMaxi f w s
  | .minu f w => Sys2Proof.Machine.execMinu f w s
  | .minui f w => Sys2Proof.Machine.execMinui f w s
  | .maxu f w => Sys2Proof.Machine.execMaxu f w s
  | .maxui f w => Sys2Proof.Machine.execMaxui f w s
  | .li f w => Sys2Proof.Machine.execLi f w s
  | .cmpeq f w => Sys2Proof.Machine.execCmpeq f w s
  | .cmpeqi f w => Sys2Proof.Machine.execCmpeqi f w s
  | .cmpne f w => Sys2Proof.Machine.execCmpne f w s
  | .cmpnei f w => Sys2Proof.Machine.execCmpnei f w s
  | .cmplt f w => Sys2Proof.Machine.execCmplt f w s
  | .cmplti f w => Sys2Proof.Machine.execCmplti f w s
  | .cmpltu f w => Sys2Proof.Machine.execCmpltu f w s
  | .cmpltui f w => Sys2Proof.Machine.execCmpltui f w s
  | .cmple f w => Sys2Proof.Machine.execCmple f w s
  | .cmplei f w => Sys2Proof.Machine.execCmplei f w s
  | .cmpleu f w => Sys2Proof.Machine.execCmpleu f w s
  | .cmpleui f w => Sys2Proof.Machine.execCmpleui f w s
  | .pand f w => Sys2Proof.Machine.execPand f w s
  | .por f w => Sys2Proof.Machine.execPor f w s
  | .pxor f w => Sys2Proof.Machine.execPxor f w s
  | .pnot f w => Sys2Proof.Machine.execPnot f w s
  | .tbit f w => Sys2Proof.Machine.execTbit f w s
  | .rds f w => Sys2Proof.Machine.execRds f w s
  | .ld f w => Sys2Proof.Machine.execLd f w s
  | .st f w => Sys2Proof.Machine.execSt f w s
  | .rset f w => Sys2Proof.Machine.execRset f w s
  | .rseti f w => Sys2Proof.Machine.execRseti f w s
  | .rslice f w => Sys2Proof.Machine.execRslice f w s
  | .rrd f w => Sys2Proof.Machine.execRrd f w s
  | .movl f w => Sys2Proof.Machine.execMovl f w s
  | .movf f w => Sys2Proof.Machine.execMovf f w s
  | .hrd f w => Sys2Proof.Machine.execHrd f w s
  | .hwr f w => Sys2Proof.Machine.execHwr f w s
  | .hgather f w => Sys2Proof.Machine.execHgather f w s
  | .stkout f w => Sys2Proof.Machine.execStkout f w s
  | .stkin f w => Sys2Proof.Machine.execStkin f w s
  | .send f w => Sys2Proof.Machine.execSend f w s
  | .sig f w => Sys2Proof.Machine.execSig f w s
  | .sigf f w => Sys2Proof.Machine.execSigf f w s
  | .sigr f w => Sys2Proof.Machine.execSigr f w s
  | .wait f w => Sys2Proof.Machine.execWait f w s
  | .debit f w => Sys2Proof.Machine.execDebit f w s
  | .play f w => Sys2Proof.Machine.execPlay f w s
  | .waitt f w => Sys2Proof.Machine.execWaitt f w s
  | .bal f w => Sys2Proof.Machine.execBal f w s
  | .doorbell f w => Sys2Proof.Machine.execDoorbell f w s
  | .slot f w => Sys2Proof.Machine.execSlot f w s
  | .plist f w => Sys2Proof.Machine.execPlist f w s
  | .deal f w => Sys2Proof.Machine.execDeal f w s
  | .fence f w => Sys2Proof.Machine.execFence f w s
  | .trap f w => Sys2Proof.Machine.execTrap f w s
  | .mvm f w => Sys2Proof.Machine.execMvm f w s
  | .aprog f w => Sys2Proof.Machine.execAprog f w s
  | .aread f w => Sys2Proof.Machine.execAread f w s
  | .fine f w => Sys2Proof.Machine.execFine f w s
  | .score f w => Sys2Proof.Machine.execScore f w s
  | .append f w => Sys2Proof.Machine.execAppend f w s
  | .vopAdd f w => Sys2Proof.Machine.execVopAdd f w s
  | .vopSub f w => Sys2Proof.Machine.execVopSub f w s
  | .vopMul f w => Sys2Proof.Machine.execVopMul f w s
  | .scale f w => Sys2Proof.Machine.execScale f w s
  | .rmsnorm f w => Sys2Proof.Machine.execRmsnorm f w s
  | .layernorm f w => Sys2Proof.Machine.execLayernorm f w s
  | .swiglu f w => Sys2Proof.Machine.execSwiglu f w s
  | .geglu f w => Sys2Proof.Machine.execGeglu f w s
  | .exp f w => Sys2Proof.Machine.execExp f w s
  | .recip f w => Sys2Proof.Machine.execRecip f w s
  | .rsqrt f w => Sys2Proof.Machine.execRsqrt f w s
  | .sigmoid f w => Sys2Proof.Machine.execSigmoid f w s
  | .reduce f w => Sys2Proof.Machine.execReduce f w s
  | .convert f w => Sys2Proof.Machine.execConvert f w s
  | .quant f w => Sys2Proof.Machine.execQuant f w s
  | .dequant f w => Sys2Proof.Machine.execDequant f w s
  | .topk f w => Sys2Proof.Machine.execTopk f w s
  | .stats f w => Sys2Proof.Machine.execStats f w s
  | .sdrain f w => Sys2Proof.Machine.execSdrain f w s
  | .pload f w => Sys2Proof.Machine.execPload f w s
  | .programLoad f => Sys2Proof.Machine.execProgramLoad f s
  | .programLoadDone f words uncorr pcieErr => Sys2Proof.Machine.execProgramLoadDone f words uncorr pcieErr s
  | .programActivate f => Sys2Proof.Machine.execProgramActivate f s
  | .programHold f => Sys2Proof.Machine.execProgramHold f s
  | .programUnload f => Sys2Proof.Machine.execProgramUnload f s
  | .hostCall f => Sys2Proof.Machine.execHostCall f s
  | .synCtrSig f k sub amount fn => Sys2Proof.Machine.execSynCtrSig f k sub amount fn s
  | .windowOpen f w => Sys2Proof.Machine.execWindowOpen f w s
  | .windowClose f w => Sys2Proof.Machine.execWindowClose f w s
  | .trickCfg idx parties home => Sys2Proof.Machine.execTrickCfg idx parties home s
  | .dtrickCfg idx parties => Sys2Proof.Machine.execDtrickCfg idx parties s
  | .wimgOpen o => Sys2Proof.Machine.execWimgOpen o s
  | .wimgDiscard => Sys2Proof.Machine.execWimgDiscard s
  | .sectionStaged idx words data => Sys2Proof.Machine.execSectionStaged idx words data s
  | .put => Sys2Proof.Machine.execPut s
  | .putDone words => Sys2Proof.Machine.execPutDone words s
  | .build => Sys2Proof.Machine.execBuild s
  | .writeVerifyDone f b a ok_ cells => Sys2Proof.Machine.execWriteVerifyDone f b a ok_ cells s
  | .cutReq => Sys2Proof.Machine.execCutReq s
  | .backgroundRead f b a cells margin => Sys2Proof.Machine.execBackgroundRead f b a cells margin s
  | .tallySnapshot => Sys2Proof.Machine.execTallySnapshot s
  | .restore => Sys2Proof.Machine.execRestore s
  | .restoreDone => Sys2Proof.Machine.execRestoreDone s
  | .sqDoorbell r v => Sys2Proof.Machine.execSqDoorbell r v s
  | .cqDoorbell r v => Sys2Proof.Machine.execCqDoorbell r v s
  | .ante r e copy => Sys2Proof.Machine.execAnte r e copy s
  | .fold r e => Sys2Proof.Machine.execFold r e s
  | .srvMode m => Sys2Proof.Machine.execSrvMode m s
  | .pfxInstall => Sys2Proof.Machine.execPfxInstall s
  | .prefixInstalled p shares => Sys2Proof.Machine.execPrefixInstalled p shares s
  | .pfxRemove => Sys2Proof.Machine.execPfxRemove s
  | .ttlExpiry idx => Sys2Proof.Machine.execTtlExpiry idx s
  | .deadline held idx => Sys2Proof.Machine.execDeadline held idx s
  | .grammarLoad => Sys2Proof.Machine.execGrammarLoad s
  | .grammarLoadDone g states moves => Sys2Proof.Machine.execGrammarLoadDone g states moves s
  | .grammarUnload => Sys2Proof.Machine.execGrammarUnload s
  | .meshPacket idx p stop stalls words op => Sys2Proof.Machine.execMeshPacket idx p stop stalls words op s
  | .callRingMessage idx m waits fixed bad => Sys2Proof.Machine.execCallRingMessage idx m waits fixed bad s
  | .flit p ws replay => Sys2Proof.Machine.execFlit p ws replay s
  | .dataParcel port p => Sys2Proof.Machine.execDataParcel port p s
  | .sigrParcel port p => Sys2Proof.Machine.execSigrParcel port p s
  | .loadParcel port p open_ => Sys2Proof.Machine.execLoadParcel port p open_ s
  | .tick port hand due period => Sys2Proof.Machine.execTick port hand due period s
  | .commit port dst src hand wins more => Sys2Proof.Machine.execCommit port dst src hand wins more s
  | .abort port dst src hand => Sys2Proof.Machine.execAbort port dst src hand s
  | .answer port dst src result seq count => Sys2Proof.Machine.execAnswer port dst src result seq count s
  | .tokens port dst src hand handle pos toks drafts code flags stampHi => Sys2Proof.Machine.execTokens port dst src hand handle pos toks drafts code flags stampHi s
  | .trim port dst src hand handle count => Sys2Proof.Machine.execTrim port dst src hand handle count s
  | .report port dst src outcome hand slack widths rates backlog => Sys2Proof.Machine.execReport port dst src outcome hand slack widths rates backlog s
  | .missed port dst src lastHand => Sys2Proof.Machine.execMissed port dst src lastHand s
  | .tally port dst src layer hand version digest expected => Sys2Proof.Machine.execTally port dst src layer hand version digest expected s
  | .release port tree dst src trick hand refused => Sys2Proof.Machine.execRelease port tree dst src trick hand refused s
  | .time port step t1 t2 t3 t4 => Sys2Proof.Machine.execTime port step t1 t2 t3 t4 s
  | .timeExchange => Sys2Proof.Machine.execTimeExchange s
  | .timeSyncLost => Sys2Proof.Machine.execTimeSyncLost s
  | .ident p peerPort peerDev lanes => Sys2Proof.Machine.execIdent p peerPort peerDev lanes s
  | .lane p proposal hand width spared hard => Sys2Proof.Machine.execLane p proposal hand width spared hard s
  | .laneFail p idx => Sys2Proof.Machine.execLaneFail p idx s
  | .laneErrorWindow p idx corrected uncorr => Sys2Proof.Machine.execLaneErrorWindow p idx corrected uncorr s
  | .holdoffExpiry p => Sys2Proof.Machine.execHoldoffExpiry p s
  | .portRetrain p => Sys2Proof.Machine.execPortRetrain p s
  | .bypassClose => Sys2Proof.Machine.execBypassClose s
  | .bypassOpen => Sys2Proof.Machine.execBypassOpen s
  | .claim port term tree first claimant => Sys2Proof.Machine.execClaim port term tree first claimant s
  | .roster port term manager standby valid tree => Sys2Proof.Machine.execRoster port term manager standby valid tree s
  | .rosterPublish => Sys2Proof.Machine.execRosterPublish s
  | .mirror port dst src term kind idx w e hand => Sys2Proof.Machine.execMirror port dst src term kind idx w e hand s
  | .mirrorAck port dst src term hand => Sys2Proof.Machine.execMirrorAck port dst src term hand s
  | .mirrorAckTimeout => Sys2Proof.Machine.execMirrorAckTimeout s
  | .takeover => Sys2Proof.Machine.execTakeover s
  | .state port dst src term hand version flags => Sys2Proof.Machine.execState port dst src term hand version flags s
  | .hold port term r on first => Sys2Proof.Machine.execHold port term r on first s
  | .replica port term r st first => Sys2Proof.Machine.execReplica port term r st first s
  | .replicaHold r => Sys2Proof.Machine.execReplicaHold r s
  | .holdLift r => Sys2Proof.Machine.execHoldLift r s
  | .replicaDown r => Sys2Proof.Machine.execReplicaDown r s
  | .join => Sys2Proof.Machine.execJoin s
  | .replicaRetire => Sys2Proof.Machine.execReplicaRetire s
  | .spPatrol f line flips last => Sys2Proof.Machine.execSpPatrol f line flips last s
  | .hbmPatrol p seg flips metas last => Sys2Proof.Machine.execHbmPatrol p seg flips metas last s
  | .rotate => Sys2Proof.Machine.execRotate s
  | .sweepSegment p wait share => Sys2Proof.Machine.execSweepSegment p wait share s
  | .sessionOpen => Sys2Proof.Machine.execSessionOpen s
  | .sessionRelease => Sys2Proof.Machine.execSessionRelease s
  | .releaseScrubDone failed => Sys2Proof.Machine.execReleaseScrubDone failed s
  | .mgmtHandshake idx client proto => Sys2Proof.Machine.execMgmtHandshake idx client proto s
  | .mgmtRetransmit idx => Sys2Proof.Machine.execMgmtRetransmit idx s
  | .mgmtIdleTimeout idx => Sys2Proof.Machine.execMgmtIdleTimeout idx s
  | .readReg idx acks off => Sys2Proof.Machine.execReadReg idx acks off s
  | .writeReg idx acks off v => Sys2Proof.Machine.execWriteReg idx acks off v s
  | .readLog idx acks what n => Sys2Proof.Machine.execReadLog idx acks what n s
  | .enrollOp idx acks cred => Sys2Proof.Machine.execEnrollOp idx acks cred s
  | .revokeOp idx acks cred => Sys2Proof.Machine.execRevokeOp idx acks cred s
  | .enrollImgkey idx acks key x y => Sys2Proof.Machine.execEnrollImgkey idx acks key x y s
  | .revokeImgkey idx acks key => Sys2Proof.Machine.execRevokeImgkey idx acks key s
  | .setFloor idx acks v => Sys2Proof.Machine.execSetFloor idx acks v s
  | .mgmtRelease idx acks => Sys2Proof.Machine.execMgmtRelease idx acks s
  | .deploy idx acks => Sys2Proof.Machine.execDeploy idx acks s
  | .retire idx acks => Sys2Proof.Machine.execRetire idx acks s
  | .firmware idx acks version image key sig => Sys2Proof.Machine.execFirmware idx acks version image key sig s
  | .probeDeck idx acks deck => Sys2Proof.Machine.execProbeDeck idx acks deck s
  | .inject idx acks n ctl unit => Sys2Proof.Machine.execInject idx acks n ctl unit s
  | .getVersion via acks => Sys2Proof.Machine.execGetVersion via acks s
  | .getCapabilities via acks => Sys2Proof.Machine.execGetCapabilities via acks s
  | .negotiateAlgorithms via acks offered => Sys2Proof.Machine.execNegotiateAlgorithms via acks offered s
  | .getDigests via acks => Sys2Proof.Machine.execGetDigests via acks s
  | .getCertificate via acks offset len => Sys2Proof.Machine.execGetCertificate via acks offset len s
  | .challenge via acks nonce => Sys2Proof.Machine.execChallenge via acks nonce s
  | .getMeasurements via acks index nonce sign => Sys2Proof.Machine.execGetMeasurements via acks index nonce sign s
  | .dbgRead f addr => Sys2Proof.Machine.execDbgRead f addr s
  | .calReq f b all port lanes => Sys2Proof.Machine.execCalReq f b all port lanes s
  | .calAge f b port => Sys2Proof.Machine.execCalAge f b port s
  | .calRetry f b => Sys2Proof.Machine.execCalRetry f b s
  | .gatherClose f b => Sys2Proof.Machine.execGatherClose f b s
  | .gatherTimeout f b => Sys2Proof.Machine.execGatherTimeout f b s
  | .calFitDone f b port => Sys2Proof.Machine.execCalFitDone f b port s
  | .monitorWindowClose f b a bench late => Sys2Proof.Machine.execMonitorWindowClose f b a bench late s
  | .tourStart => Sys2Proof.Machine.execTourStart s
  | .dwellFit f b bad => Sys2Proof.Machine.execDwellFit f b bad s
  | .dwellEnd f b => Sys2Proof.Machine.execDwellEnd f b s
  | .faultRecordProcess powered queueOk histOk logOk hostOk => Sys2Proof.Machine.execFaultRecordProcess powered queueOk histOk logOk hostOk s
  | .histClear unit mgmt => Sys2Proof.Machine.execHistClear unit mgmt s
  | .histClearAll mgmt => Sys2Proof.Machine.execHistClearAll mgmt s
  | .histQuery unit => Sys2Proof.Machine.execHistQuery unit s
  | .logRead slot => Sys2Proof.Machine.execLogRead slot s
  | .injArm idx ctl unit path => Sys2Proof.Machine.execInjArm idx ctl unit path s
  | .probeStep f end_ left => Sys2Proof.Machine.execProbeStep f end_ left s
  | .pwrDomReq w mgmt => Sys2Proof.Machine.execPwrDomReq w mgmt s
  | .domainChangeDone rate width flit => Sys2Proof.Machine.execDomainChangeDone rate width flit s
  | .housekeepingRound took codes vals silent ports => Sys2Proof.Machine.execHousekeepingRound took codes vals silent ports s
  | .selfcal => Sys2Proof.Machine.execSelfcal s
  | .selfcalDone factors => Sys2Proof.Machine.execSelfcalDone factors s
  | .refReady => Sys2Proof.Machine.execRefReady s
  | .registerWrite fn off width v => Sys2Proof.Machine.execRegisterWrite fn off width v s
  | .portTrainingStepEnd p ok skew => Sys2Proof.Machine.execPortTrainingStepEnd p ok skew s
  | .perstRelease rate width flit => Sys2Proof.Machine.execPerstRelease rate width flit s
  | .bypForceRelease => Sys2Proof.Machine.execBypForceRelease s
  | .twaitExpiry f => Sys2Proof.Machine.execTwaitExpiry f s
  | .domainTrickPlay src trick hand => Sys2Proof.Machine.execDomainTrickPlay src trick hand s
  | .forwardedAnte src r fold e copy vocab ttl => Sys2Proof.Machine.execForwardedAnte src r fold e copy vocab ttl s
  | .seatRecordLoad r copy => Sys2Proof.Machine.execSeatRecordLoad r copy s
  | .dealerRowsDrawn => Sys2Proof.Machine.execDealerRowsDrawn s
  | .bench3Done f idx bad sat => Sys2Proof.Machine.execBench3Done f idx bad sat s
  | .vprogLoss => Sys2Proof.Machine.execVprogLoss s
  | .thermalCool b => Sys2Proof.Machine.execThermalCool b s

end Sys2Proof.Machine
end

