-- ==== Sys2Proof/Safety.lean ====
section
/-! DEFINITION. What counts as a sound state, how a step may move what the spec says moves one way only, and the words in which claims
say what a command leaves: the frame of a command, and the issue of an Ifeom instruction. -/
namespace Sys2Proof.Machine

/-- The step goes on. -/
def goesOn (o : Host.Outcome State Fault Refusal) : Prop := ∃ t, o = .next t

/-- What the fuses say of the parts of the die (R4, R5, R593): faces, stacks, ports and their maps, as the device was fused. -/
def State.fuses (s : State) : Word × Word × Nat :=
  (s.reg .PLT_FACE_MAP 0, s.reg .PLT_CAP_UNITS 0, fget (s.reg .PLT_CAP_FACES 0) 0 20)

/-- The rollback floor of image versions (R513). -/
def State.floor (s : State) : Nat := s.rd R.PLT_WIMG_FLOOR.FLOOR 0

/-- What holds in every state that a run from reset reaches: the register map, the faces and HBM are in canonical form; at most 64 records
wait in the fault queue (R542) and 16 lie in the non-volatile store (R548); at most two operator credentials are enrolled (R512) and eight
image keys (R513); the fuses are those of a device of one of the six parts (R1); and a release that is to end in another lifecycle state ends in no earlier one (R507). -/
structure State.Sound (s : State) : Prop where
  regs : mwf resetAt s.regs = true
  faces : mwf (fun _ => {}) s.faces = true
  hbm : mwf (fun _ => {}) s.hbm = true
  faultq : s.faultq.length ≤ 64
  nvLog : s.nvLog.length ≤ 16
  ops : s.mgmt.ops.length ≤ 2
  keys : s.imgKeys.length ≤ 8
  fuses : ∃ m : Made, m.legal = true ∧ s.fuses = m.words
  life : ∀ v, s.key.after = some v → s.life ≤ v ∧ 2 ≤ v ∧ v ≤ 3

/-- What never moves back: the lifecycle state (R507), the floor of image versions (R513), and the rollback fuse (R599). -/
structure State.Onward (s t : State) : Prop where
  life : s.life ≤ t.life
  floor : s.floor ≤ t.floor
  rollback : s.mgmt.rollback ≤ t.mgmt.rollback

/-! ### Frames -/

/-- Every bit of every register instance that no field of `fs` covers is in `t` as in `s`. -/
def State.RegsBut (s t : State) (fs : List (Fld × Nat)) : Prop :=
  ∀ r i b, (∀ e ∈ fs, ¬ (r = e.1.reg ∧ i = e.2 ∧ e.1.lo ≤ b ∧ b < e.1.lo + e.1.wd)) → (t.reg r i).getLsbD b = (s.reg r i).getLsbD b

/-- The whole of instance i of a register, as a field. -/
def whole (r : RegId) (i : Nat) : Fld × Nat := (⟨r, 0, 64⟩, i)

/-- The frame of a command: of all that `s` holds, `t` has changed only the fields `fs` and the faces `gs`. -/
structure State.Frame (s t : State) (fs : List (Fld × Nat)) (gs : List Nat) : Prop where
  regs : s.RegsBut t fs
  faces : ∀ g, g ∉ gs → t.face g = s.face g
  rest : { t with regs := s.regs, faces := s.faces } = s

/-- Of all that `s` holds, `t` has changed at most what leaves the device or waits at a port. -/
def State.Sends (s t : State) : Prop := { t with out := s.out, txq := s.txq, ports := s.ports } = s

/-! ### Issue -/

/-- Face f issues the words `w`, whose layout is `m`, at its program counter: the program counter lies below CODE_END, the fetched words can
be read (R224, R242), the words decode (R257), and the guard is true (R258). -/
structure Issues (s : State) (f : Nat) (w : IWord) (m : Form) : Prop where
  run : (s.face f).run = .issuing
  code : (s.face f).pc < (s.face f).codeEnd
  words : (s.face f).badWord (s.face f).pc (m.len + 1) = none
  decodes : m.decodes w = true
  guard : guardTrue (s.face f) w = true

/-- The program counter behind an instruction of face f with layout m (LEN is the words minus one). -/
def State.pcNext (s : State) (f : Nat) (m : Form) : Nat := (s.face f).pc + m.len + 1

/-- The fields that the issue of any instruction counts in (R224, R251). -/
def issueFields (f : Nat) : List (Fld × Nat) := [(R.FCE_ISSUE_STAT.ISSUED, f), (R.FCE_STORE_ERR.CORRECTED, f)]

/-- The instruction at face f's program counter has been counted as issued, and its correctable words as corrected. -/
structure Counted (s : State) (f : Nat) (m : Form) (t : State) : Prop where
  issued : t.rd R.FCE_ISSUE_STAT.ISSUED f = min (s.rd R.FCE_ISSUE_STAT.ISSUED f + 1) (2 ^ R.FCE_ISSUE_STAT.ISSUED.wd - 1)
  fixed : t.rd R.FCE_STORE_ERR.CORRECTED f =
    min (s.rd R.FCE_STORE_ERR.CORRECTED f + (s.face f).fixedWords (s.face f).pc (m.len + 1)) (2 ^ R.FCE_STORE_ERR.CORRECTED.wd - 1)

/-- The instruction is done with no effect outside its face: the face is `x`, the counts are made, and all else is as in `s`. -/
structure Retires (s : State) (f : Nat) (m : Form) (x : Face) (t : State) : Prop extends Counted s f m t where
  face : t.face f = x
  frame : s.Frame t (issueFields f) [f]

/-- The layout of an Ifeom instruction (R255 to R257, and the operation tables of 09 and 10): face, words, and what its words must be; none
for a command that no program issues. -/
def ifeomForm (i : Instr) : Option (Nat × IWord × Form) :=
  match i with
  | .nop f w => some (f, w, ⟨0x01, 0x000, 0, [], [], [], []⟩)
  | .br f w => some (f, w, ⟨0x01, 0x001, 0, [(0, 17)], [], [], []⟩)
  | .jal f w => some (f, w, ⟨0x01, 0x002, 0, [(0, 17), (37, 5)], [], [], []⟩)
  | .jr f w => some (f, w, ⟨0x01, 0x003, 0, [(32, 5)], [], [], []⟩)
  | .lset f w => some (f, w, ⟨0x01, 0x004, 0, [(40, 2), (32, 5), (0, 32)], [], [], []⟩)
  | .lbr f w => some (f, w, ⟨0x01, 0x005, 0, [(40, 2), (0, 17)], [], [], []⟩)
  | .twait f w => some (f, w, ⟨0x01, 0x006, 0, [(32, 5)], [], [], []⟩)
  | .endProg f w => some (f, w, ⟨0x01, 0x007, 0, [], [], [], []⟩)
  | .rte f w => some (f, w, ⟨0x01, 0x008, 0, [], [], [], []⟩)
  | .add f w => some (f, w, formRRR 0x000)
  | .addi f w => some (f, w, formRRI 0x040)
  | .sub f w => some (f, w, formRRR 0x001)
  | .subi f w => some (f, w, formRRI 0x041)
  | .and f w => some (f, w, formRRR 0x002)
  | .andi f w => some (f, w, formRRI 0x042)
  | .or f w => some (f, w, formRRR 0x003)
  | .ori f w => some (f, w, formRRI 0x043)
  | .xor f w => some (f, w, formRRR 0x004)
  | .xori f w => some (f, w, formRRI 0x044)
  | .shl f w => some (f, w, formRRR 0x005)
  | .shli f w => some (f, w, formRRI 0x045)
  | .shr f w => some (f, w, formRRR 0x006)
  | .shri f w => some (f, w, formRRI 0x046)
  | .sra f w => some (f, w, formRRR 0x007)
  | .srai f w => some (f, w, formRRI 0x047)
  | .mul f w => some (f, w, formRRR 0x008)
  | .muli f w => some (f, w, formRRI 0x048)
  | .mulhu f w => some (f, w, formRRR 0x009)
  | .min f w => some (f, w, formRRR 0x00A)
  | .mini f w => some (f, w, formRRI 0x04A)
  | .max f w => some (f, w, formRRR 0x00B)
  | .maxi f w => some (f, w, formRRI 0x04B)
  | .minu f w => some (f, w, formRRR 0x00C)
  | .minui f w => some (f, w, formRRI 0x04C)
  | .maxu f w => some (f, w, formRRR 0x00D)
  | .maxui f w => some (f, w, formRRI 0x04D)
  | .li f w => some (f, w, ⟨0x02, 0x080, 1, [(37, 5)], [(0, 64)], [], []⟩)
  | .cmpeq f w => some (f, w, formPRR 0x090)
  | .cmpeqi f w => some (f, w, formPRI 0x0D0)
  | .cmpne f w => some (f, w, formPRR 0x091)
  | .cmpnei f w => some (f, w, formPRI 0x0D1)
  | .cmplt f w => some (f, w, formPRR 0x092)
  | .cmplti f w => some (f, w, formPRI 0x0D2)
  | .cmpltu f w => some (f, w, formPRR 0x093)
  | .cmpltui f w => some (f, w, formPRI 0x0D3)
  | .cmple f w => some (f, w, formPRR 0x094)
  | .cmplei f w => some (f, w, formPRI 0x0D4)
  | .cmpleu f w => some (f, w, formPRR 0x095)
  | .cmpleui f w => some (f, w, formPRI 0x0D5)
  | .pand f w => some (f, w, formPPP 0x0A0)
  | .por f w => some (f, w, formPPP 0x0A1)
  | .pxor f w => some (f, w, formPPP 0x0A2)
  | .pnot f w => some (f, w, formPP 0x0A3)
  | .tbit f w => some (f, w, formPRI 0x0A8)
  | .rds f w => some (f, w, ⟨0x02, 0x0B0, 0, [(37, 5), (24, 8)], [], [], []⟩)
  | .ld f w => some (f, w, ⟨0x02, 0x0C0, 0, [(37, 5), (32, 5), (16, 16)], [], [], []⟩)
  | .st f w => some (f, w, ⟨0x02, 0x0C1, 0, [(37, 5), (32, 5), (16, 16)], [], [], []⟩)
  | .rset f w => some (f, w, ⟨0x03, 0x000, 0, [(38, 4), (29, 5), (24, 5), (0, 4)], [], [], []⟩)
  | .rseti f w => some (f, w, ⟨0x03, 0x001, 1, [(38, 4)], [(0, 64)], [], []⟩)
  | .rslice f w => some (f, w, ⟨0x03, 0x002, 0, [(38, 4), (34, 4), (29, 5), (24, 5)], [], [], []⟩)
  | .rrd f w => some (f, w, ⟨0x03, 0x003, 0, [(37, 5), (28, 4)], [], [], []⟩)
  | .movl f w => some (f, w, ⟨0x04, 0x000, 0, moveFields [(34, 4)], [], [], []⟩)
  | .movf f w => some (f, w, ⟨0x04, 0x001, 1, moveFields [(34, 4), (14, 8), (4, 10), (3, 1)], [(0, 16), (16, 24)], [], []⟩)
  | .hrd f w => some (f, w, ⟨0x04, 0x002, 1, moveFields [(22, 1)], [(0, 48), (48, 5)], [], []⟩)
  | .hwr f w => some (f, w, ⟨0x04, 0x003, 1, moveFields [], [(0, 48), (48, 5)], [], []⟩)
  | .hgather f w => some (f, w, ⟨0x04, 0x004, 2, moveFields [(34, 4)], [(0, 48), (48, 5)], [(0, 24)], []⟩)
  | .stkout f w => some (f, w, ⟨0x04, 0x005, 1, [(24, 10), (23, 1)], [(0, 5)], [], []⟩)
  | .stkin f w => some (f, w, ⟨0x04, 0x006, 1, [(24, 10), (23, 1)], [(0, 5)], [], []⟩)
  | .send f w => some (f, w, ⟨0x04, 0x010, 1, moveFields [(35, 3)], [(0, 12), (12, 3), (15, 8), (23, 25)], [], []⟩)
  | .sig f w => some (f, w, formKN 0x000)
  | .sigf f w => some (f, w, ⟨0x10, 0x001, 0, [(32, 10), (27, 5), (16, 8), (0, 16)], [], [], []⟩)
  | .sigr f w => some (f, w, ⟨0x10, 0x002, 1, [(32, 10), (27, 5), (0, 16)], [(0, 12), (12, 3), (16, 3)], [], []⟩)
  | .wait f w => some (f, w, formKN 0x003)
  | .debit f w => some (f, w, formKN 0x004)
  | .play f w => some (f, w, ⟨0x10, 0x005, 0, [(34, 8)], [], [], []⟩)
  | .waitt f w => some (f, w, ⟨0x10, 0x006, 0, [(34, 8)], [], [], []⟩)
  | .bal f w => some (f, w, ⟨0x10, 0x007, 0, [], [], [], []⟩)
  | .doorbell f w => some (f, w, ⟨0x10, 0x008, 0, [(32, 10)], [], [], []⟩)
  | .slot f w => some (f, w, ⟨0x11, 0x000, 0, moveFields [(0, 16)], [], [], []⟩)
  | .plist f w => some (f, w, ⟨0x11, 0x001, 0, moveFields [(0, 16)], [], [], []⟩)
  | .deal f w => some (f, w, ⟨0x11, 0x002, 0, moveFields [(34, 4), (0, 16)], [], [], []⟩)
  | .fence f w => some (f, w, ⟨0x3F, 0x000, 0, [(0, 6)], [], [], []⟩)
  | .trap f w => some (f, w, ⟨0x3F, 0x001, 0, [(32, 5), (0, 32)], [], [], []⟩)
  | .mvm f w => some (f, w, ⟨0x08, 0x000, 2, engFields [(21, 2), (20, 1), (18, 2), (17, 1), (16, 1), (8, 8)], [(0, 12), (12, 8), (20,
      13), (33, 16)], [(0, 7), (7, 7), (14, 6), (20, 12), (32, 12)], []⟩)
  | .aprog f w => some (f, w, ⟨0x08, 0x010, 1, engFields [], [(0, 12), (12, 1), (13, 12)], [], []⟩)
  | .aread f w => some (f, w, ⟨0x08, 0x011, 1, [(38, 4), (24, 10), (23, 1), (22, 1)], [(0, 12), (12, 1), (13, 12)], [], []⟩)
  | .fine f w => some (f, w, ⟨0x09, 0x000, 2, engFields [(21, 2), (19, 2), (17, 2), (16, 1), (15, 1), (14, 1), (12, 2)], [(0, 4), (4,
      4), (8, 16), (24, 17), (41, 17)], [(0, 16), (16, 16), (32, 16)], []⟩)
  | .score f w => some (f, w, ⟨0x0A, 0x000, 3, engFields [(22, 1), (19, 3), (15, 4), (14, 1), (12, 2), (8, 4)], [(0, 16), (16, 7), (23,
      13), (36, 25)], [(0, 16), (16, 16), (32, 16), (48, 8)], [(0, 25)]⟩)
  | .append f w => some (f, w, ⟨0x0A, 0x001, 3, engFields [(22, 1), (19, 3), (15, 4), (12, 2), (8, 4)], [(0, 16), (23, 13)], [(16, 16),
      (32, 16), (48, 8)], [(0, 25)]⟩)
  | .vopAdd f w => some (f, w, ⟨0x0B, 0x000, 2, engFields [(19, 4), (16, 3), (13, 3), (8, 5)], [(0, 16), (16, 16), (32, 14)], [(0, 16),
      (16, 8), (24, 8), (32, 5)], []⟩)
  | .vopSub f w => some (f, w, ⟨0x0B, 0x001, 2, engFields [(19, 4), (16, 3), (13, 3), (8, 5)], [(0, 16), (16, 16), (32, 14)], [(0, 16),
      (16, 8), (24, 8), (32, 5)], []⟩)
  | .vopMul f w => some (f, w, ⟨0x0B, 0x002, 2, engFields [(19, 4), (16, 3), (13, 3), (8, 5)], [(0, 16), (16, 16), (32, 14)], [(0, 16),
      (16, 8), (24, 8), (32, 5)], []⟩)
  | .scale f w => some (f, w, ⟨0x0B, 0x003, 2, engFields [(19, 4), (16, 3), (13, 3), (8, 5)], [(0, 16), (16, 16), (32, 14)], [(0, 16),
      (16, 8), (24, 8), (32, 5)], []⟩)
  | .rmsnorm f w => some (f, w, ⟨0x0B, 0x004, 2, engFields [(19, 4), (16, 3), (13, 3), (8, 5)], [(0, 16), (16, 16), (32, 14)], [(0,
      16), (16, 8), (24, 8), (32, 5)], []⟩)
  | .layernorm f w => some (f, w, ⟨0x0B, 0x005, 2, engFields [(19, 4), (16, 3), (13, 3), (8, 5)], [(0, 16), (16, 16), (32, 14)], [(0,
      16), (16, 8), (24, 8), (32, 5)], []⟩)
  | .swiglu f w => some (f, w, ⟨0x0B, 0x006, 2, engFields [(19, 4), (16, 3), (13, 3), (8, 5)], [(0, 16), (16, 16), (32, 14)], [(0, 16),
      (16, 8), (24, 8), (32, 5)], []⟩)
  | .geglu f w => some (f, w, ⟨0x0B, 0x007, 2, engFields [(19, 4), (16, 3), (13, 3), (8, 5)], [(0, 16), (16, 16), (32, 14)], [(0, 16),
      (16, 8), (24, 8), (32, 5)], []⟩)
  | .exp f w => some (f, w, ⟨0x0B, 0x008, 2, engFields [(19, 4), (16, 3), (13, 3), (8, 5)], [(0, 16), (16, 16), (32, 14)], [(0, 16),
      (16, 8), (24, 8), (32, 5)], []⟩)
  | .recip f w => some (f, w, ⟨0x0B, 0x009, 2, engFields [(19, 4), (16, 3), (13, 3), (8, 5)], [(0, 16), (16, 16), (32, 14)], [(0, 16),
      (16, 8), (24, 8), (32, 5)], []⟩)
  | .rsqrt f w => some (f, w, ⟨0x0B, 0x00A, 2, engFields [(19, 4), (16, 3), (13, 3), (8, 5)], [(0, 16), (16, 16), (32, 14)], [(0, 16),
      (16, 8), (24, 8), (32, 5)], []⟩)
  | .sigmoid f w => some (f, w, ⟨0x0B, 0x00B, 2, engFields [(19, 4), (16, 3), (13, 3), (8, 5)], [(0, 16), (16, 16), (32, 14)], [(0,
      16), (16, 8), (24, 8), (32, 5)], []⟩)
  | .reduce f w => some (f, w, ⟨0x0B, 0x00C, 2, engFields [(19, 4), (16, 3), (13, 3), (8, 5)], [(0, 16), (16, 16), (32, 14)], [(0, 16),
      (16, 8), (24, 8), (32, 5)], []⟩)
  | .convert f w => some (f, w, ⟨0x0B, 0x00D, 2, engFields [(19, 4), (16, 3), (13, 3), (8, 5)], [(0, 16), (16, 16), (32, 14)], [(0,
      16), (16, 8), (24, 8), (32, 5)], []⟩)
  | .quant f w => some (f, w, ⟨0x0B, 0x00E, 2, engFields [(19, 4), (16, 3), (13, 3), (8, 5)], [(0, 16), (16, 16), (32, 14)], [(0, 16),
      (16, 8), (24, 8), (32, 5)], []⟩)
  | .dequant f w => some (f, w, ⟨0x0B, 0x00F, 2, engFields [(19, 4), (16, 3), (13, 3), (8, 5)], [(0, 16), (16, 16), (32, 14)], [(0,
      16), (16, 8), (24, 8), (32, 5)], []⟩)
  | .topk f w => some (f, w, ⟨0x0B, 0x010, 2, engFields [(19, 4), (16, 3), (13, 3), (8, 5)], [(0, 16), (16, 16), (32, 14)], [(0, 16),
      (16, 8), (24, 8), (32, 5)], []⟩)
  | .stats f w => some (f, w, ⟨0x0B, 0x011, 2, engFields [(19, 4), (16, 3), (13, 3), (8, 5)], [(0, 16), (16, 16), (32, 14)], [(0, 16),
      (16, 8), (24, 8), (32, 5)], []⟩)
  | .sdrain f w => some (f, w, ⟨0x0B, 0x012, 2, engFields [(19, 4), (16, 3), (13, 3), (8, 5)], [(0, 16), (16, 16), (32, 14)], [(0, 16),
      (16, 8), (24, 8), (32, 5)], []⟩)
  | .pload f w => some (f, w, ⟨0x0B, 0x013, 2, engFields [(19, 4), (16, 3), (13, 3), (8, 5)], [(0, 16), (16, 16), (32, 14)], [(0, 16),
      (16, 8), (24, 8), (32, 5)], []⟩)
  | _ => none

end Sys2Proof.Machine
end

