-- ==== Sys2Proof/Certificates/Slice0/Obligations.lean ====
section
/-! DEFINITION. The statements for the provers, and the words and tables in which they are said. -/
open Sys2Proof Sys2Proof.Machine

namespace Sys2Proof.Claims

/-- No injection slot is armed, the logging path works, and the fault queue is empty. -/
structure Quiet (s : State) : Prop where
  slots : s.injs = []
  live : s.injLive = []
  path : s.rd R.FLT_FATAL.LOG_PATH 0 = 0
  queue : s.faultq = []

/-- Face f has taken a fault-class trap at its program counter (R246, R248): the face stops, TCAUSE, TINFO and TPC are saved, it branches to
the vector's target in the fault handler, and it is marked as failing R24; FCE_TRAP_STAT shows the trap; no other face has changed. -/
structure FaultTrap (s : State) (f v : Nat) (info : Word) (target : Nat) (t : State) : Prop where
  face : t.face f = { s.face f with
    failed := true, tcause := v, tinfo := info, tpc := (s.face f).pc, pc := target, handler := .fault, run := .issuing }
  others : ∀ g, g ≠ f → t.face g = s.face g
  vector : t.rd R.FCE_TRAP_STAT.LAST_VECTOR f = v % 2 ^ R.FCE_TRAP_STAT.LAST_VECTOR.wd
  pc : t.rd R.FCE_TRAP_STAT.LAST_PC f = (s.face f).pc % 2 ^ R.FCE_TRAP_STAT.LAST_PC.wd
  valid : t.rd R.FCE_TRAP_STAT.VALID f = 1
  faults : t.rd R.FCE_TRAP_STAT.FAULTS f = min (s.rd R.FCE_TRAP_STAT.FAULTS f + 1) (2 ^ R.FCE_TRAP_STAT.FAULTS.wd - 1)

/-- One record is queued: it names the face, the vector, TPC and TINFO (R248). -/
def TrapRecord (s : State) (f v : Nat) (info : Word) (t : State) : Prop :=
  ∃ r, t.faultq = [r] ∧ r.unit = s.unitFace f ∧ r.det = 0x14 ∧ r.lface = f ∧ r.addr = (s.face f).pc ∧
    r.detail0 = BitVec.ofNat 64 v ∧ r.detail1 = info ∧ r.time = s.now ∧ r.count = 1

/-! The tables of 09_ifeom_control_and_movement.md, each row with the operation's register and immediate forms. -/

/-- R264: OP of the register form, and the result for RA and RB or IMM16; the immediate form has OP + 0x40. -/
def scalarOps : List ((Nat → IWord → Instr) × Option (Nat → IWord → Instr) × Nat × (Word → Word → Word)) :=
  [(.add, some .addi, 0x000, fun a b => BitVec.ofNat 64 (a.toNat + b.toNat)),
   (.sub, some .subi, 0x001, fun a b => BitVec.ofInt 64 (a.toNat - b.toNat)),
   (.and, some .andi, 0x002, fun a b => a &&& b),
   (.or, some .ori, 0x003, fun a b => a ||| b),
   (.xor, some .xori, 0x004, fun a b => a ^^^ b),
   (.shl, some .shli, 0x005, fun a b => BitVec.ofNat 64 (a.toNat * 2 ^ (b.toNat % 64))),
   (.shr, some .shri, 0x006, fun a b => BitVec.ofNat 64 (a.toNat / 2 ^ (b.toNat % 64))),
   (.sra, some .srai, 0x007, fun a b => BitVec.ofInt 64 (a.toInt / 2 ^ (b.toNat % 64))),
   (.mul, some .muli, 0x008, fun a b => BitVec.ofNat 64 (a.toNat * b.toNat)),
   (.mulhu, none, 0x009, fun a b => BitVec.ofNat 64 (a.toNat * b.toNat / 2 ^ 64)),
   (.min, some .mini, 0x00A, fun a b => if a.toInt ≤ b.toInt then a else b),
   (.max, some .maxi, 0x00B, fun a b => if a.toInt ≤ b.toInt then b else a),
   (.minu, some .minui, 0x00C, fun a b => if a.toNat ≤ b.toNat then a else b),
   (.maxu, some .maxui, 0x00D, fun a b => if a.toNat ≤ b.toNat then b else a)]

/-- The compares: OP of the register form, and the truth value; the immediate form has OP + 0x40. -/
def compareOps : List ((Nat → IWord → Instr) × (Nat → IWord → Instr) × Nat × (Word → Word → Bool)) :=
  [(.cmpeq, .cmpeqi, 0x090, fun a b => decide (a.toNat = b.toNat)),
   (.cmpne, .cmpnei, 0x091, fun a b => decide (a.toNat ≠ b.toNat)),
   (.cmplt, .cmplti, 0x092, fun a b => decide (a.toInt < b.toInt)),
   (.cmpltu, .cmpltui, 0x093, fun a b => decide (a.toNat < b.toNat)),
   (.cmple, .cmplei, 0x094, fun a b => decide (a.toInt ≤ b.toInt)),
   (.cmpleu, .cmpleui, 0x095, fun a b => decide (a.toNat ≤ b.toNat))]

/-- RD := v, and issue goes on behind the instruction. -/
def setsRD (s : State) (f : Nat) (w : IWord) (m : Form) (v : Word) (t : State) : Prop :=
  Retires s f m { (s.face f).setS (fRD w) v with pc := s.pcNext f m } t

/-- PD := b, and issue goes on behind the instruction. -/
def setsPD (s : State) (f : Nat) (w : IWord) (m : Form) (b : Bool) (t : State) : Prop :=
  Retires s f m { (s.face f).setP (fPD w) b with pc := s.pcNext f m } t

/-- The special register SPEC of R264, if there is one. -/
def specialValue (s : State) (f : Nat) : List (Nat × Word) :=
  let x := s.face f
  [(0, BitVec.ofNat 64 x.hn), (1, BitVec.ofNat 64 s.now), (2, BitVec.ofNat 64 f), (3, BitVec.ofNat 64 s.devAddr),
   (4, BitVec.ofNat 64 x.tpc), (5, BitVec.ofNat 64 x.tcause), (6, x.tinfo), (8, BitVec.ofNat 64 (x.lreg 0)),
   (9, BitVec.ofNat 64 (x.lreg 1)), (10, BitVec.ofNat 64 (x.lreg 2)), (11, BitVec.ofNat 64 (x.lreg 3))]

/-! Layouts of the operations that the tables above leave (09_ifeom_control_and_movement.md). -/

def ldForm : Form := ⟨0x02, 0x0C0, 0, [(37, 5), (32, 5), (16, 16)], [], [], []⟩
def stForm : Form := ⟨0x02, 0x0C1, 0, [(37, 5), (32, 5), (16, 16)], [], [], []⟩
def ctlForm (op : Nat) (fs : List (Nat × Nat)) : Form := ⟨0x01, op, 0, fs, [], [], []⟩
def rsetForm : Form := ⟨0x03, 0x000, 0, [(38, 4), (29, 5), (24, 5), (0, 4)], [], [], []⟩
def rsetiForm : Form := ⟨0x03, 0x001, 1, [(38, 4)], [(0, 64)], [], []⟩
def rsliceForm : Form := ⟨0x03, 0x002, 0, [(38, 4), (34, 4), (29, 5), (24, 5)], [], [], []⟩
def sysForm (op : Nat) (fs : List (Nat × Nat)) : Form := ⟨0x3F, op, 0, fs, [], [], []⟩
def syncForm (op : Nat) (fs : List (Nat × Nat)) : Form := ⟨0x10, op, 0, fs, [], [], []⟩

/-- RA + IMM16 of a scalar load or store. -/
def wordAddr (s : State) (f : Nat) (w : IWord) : Word := (s.face f).sreg (fRA w) + (w.ops.extractLsb' 16 16).signExtend 64

/-- No window of the die has a slot at scratchpad line `line` of face f that is not released (R331). -/
def Unraced (s : State) (f line : Nat) : Prop :=
  ∀ e ∈ s.faces, ∀ n ∈ e.2.wins, s.winState e.1 n.1 < 2 ∨ (s.rd R.SYN_WIN_CFG.FANOUT (ix 256 e.1 n.1)).testBit f = false ∨
    ∀ k < (s.winGeom e.1 n.1).2.2, (mget {} n.2.slots k).st = .released ∨
      min line ((s.winGeom e.1 n.1).1 + k * (s.winGeom e.1 n.1).2.1 + (s.winGeom e.1 n.1).2.1 - 1) <
        max line ((s.winGeom e.1 n.1).1 + k * (s.winGeom e.1 n.1).2.1)

/-- The 8-byte range of a scalar load or store passes the checks of R198, R222 and R265, and no operation in flight holds it (R200, R201). -/
structure WordClear (s : State) (f : Nat) (w : IWord) (write : Bool) : Prop where
  populated : (wordAddr s f w).toNat < 2 ^ 25
  aligned : (wordAddr s f w).toNat % 8 = 0
  allowed : s.rangeCheck f (BitVec.ofNat 64 ((wordAddr s f w).toNat + 8 * 2 ^ 25)) 15 write = none
  idle : s.sbStall f [(wordRange (wordAddr s f w), write)] = none

/-- A scalar load or store is done: the face is `x`, the scoreboard's greatest use is noted, `more` fields may have changed. -/
structure AccessDone (s : State) (f : Nat) (m : Form) (x : Face) (more : List (Fld × Nat)) (t : State) : Prop extends Counted s f m t where
  face : t.face f = x
  used : t.rd R.SPD_SB_STAT.MAX_USED f = max (s.rd R.SPD_SB_STAT.MAX_USED f) ((s.face f).sb.length + 1) % 2 ^ R.SPD_SB_STAT.MAX_USED.wd
  frame : s.Frame t (issueFields f ++ (R.SPD_SB_STAT.MAX_USED, f) :: more) [f]

/-- The instruction has been counted as issued, and issue stalls at it. -/
def stallsAt (s : State) (f : Nat) (m : Form) (why : Stall) (t : State) : Prop :=
  Retires s f m { s.face f with run := .stalled why } t

/-- Issue goes on at an address, and nothing else changes. -/
def goesTo (s : State) (f : Nat) (m : Form) (pc : Nat) (t : State) : Prop := Retires s f m { s.face f with pc := pc } t

/-- The limits of R236 and R266 on a range: not empty, at most 24 MiB, within the 24 MiB that are populated, and in the groups named. -/
def RangeOk (base len groups : Nat) : Prop :=
  0 < len ∧ len ≤ 25165824 ∧ base + len ≤ 25165824 ∧
  ∀ g < 4, groups.testBit g = false → (base + len - 1) / 128 < 49152 * g ∨ 49152 * g + 49151 < base / 128

/-- AD := the image of BASE, LEN and GROUPS. -/
def setsRange (s : State) (f : Nat) (w : IWord) (m : Form) (base len groups : Nat) (t : State) : Prop :=
  Retires s f m
    { s.face f with a := mset 0#64 (s.face f).a (fAL w) (BitVec.ofNat 64 (base + len * 2 ^ 25 + groups * 2 ^ 50)), pc := s.pcNext f m } t

/-! The queues of a face (R244, R284), and the checks before them. -/

/-- Every one of the checks passes. -/
def AllPass (cs : List (Option RFail)) : Prop := ∀ c ∈ cs, c = none

/-- No hazard holds an operation with ranges `rs` (R201), its engine runs nothing of an aborted hand (R41), and its queue has a place free (R244). -/
structure Room (s : State) (f : Nat) (e : Eng) (rs : List (Word × Bool)) : Prop where
  clear : s.sbStall f rs = none
  done : (s.face f).stillRuns e = false
  place : (s.face f).inQueue e < 32

/-- Port p of SEND or SIGR is one of the device's, powered, and declared by the program (R8, R233, R274). -/
structure PortOk (s : State) (x : Face) (p : Nat) : Prop where
  number : p < 6
  there : s.portPresent p = true ∧ s.portOn p = true
  declared : x.uses (16 + p) = true

/-- The operation `q` is last in its queue with its scoreboard entries, one for each range that is not empty, and issue goes on behind the
instruction (R200, R244). -/
structure Queues (s : State) (f : Nat) (m : Form) (q : QOp) (rs : List (Word × Bool)) (t : State) : Prop extends Counted s f m t where
  face : t.face f = { s.face f with
    queue := (s.face f).queue ++ [q], sb := (s.face f).sb ++ sbEntries q.id rs, pc := s.pcNext f m }
  used : t.rd R.SPD_SB_STAT.MAX_USED f =
    max (s.rd R.SPD_SB_STAT.MAX_USED f) ((s.face f).sb.length + (sbEntries q.id rs).length) % 2 ^ R.SPD_SB_STAT.MAX_USED.wd
  next : t.opId = s.opId + 1
  frame : s.Frame { t with opId := s.opId } (issueFields f ++ [(R.SPD_SB_STAT.MAX_USED, f)]) [f]

def sigfForm : Form := ⟨0x10, 0x001, 0, [(32, 10), (27, 5), (16, 8), (0, 16)], [], [], []⟩
def sigrForm : Form := ⟨0x10, 0x002, 1, [(32, 10), (27, 5), (0, 16)], [(0, 12), (12, 3), (16, 3)], [], []⟩
def movlForm : Form := ⟨0x04, 0x000, 0, moveFields [(34, 4)], [], [], []⟩
def movfForm : Form := ⟨0x04, 0x001, 1, moveFields [(34, 4), (14, 8), (4, 10), (3, 1)], [(0, 16), (16, 24)], [], []⟩
def hrdForm : Form := ⟨0x04, 0x002, 1, moveFields [(22, 1)], [(0, 48), (48, 5)], [], []⟩
def hwrForm : Form := ⟨0x04, 0x003, 1, moveFields [], [(0, 48), (48, 5)], [], []⟩
def hgatherForm : Form := ⟨0x04, 0x004, 2, moveFields [(34, 4)], [(0, 48), (48, 5)], [(0, 24)], []⟩
def stockForm (op : Nat) : Form := ⟨0x04, op, 1, [(24, 10), (23, 1)], [(0, 5)], [], []⟩
def sendForm : Form := ⟨0x04, 0x010, 1, moveFields [(35, 3)], [(0, 12), (12, 3), (15, 8), (23, 25)], [], []⟩
def serveForm (op : Nat) (fs : List (Nat × Nat)) : Form := ⟨0x11, op, 0, moveFields fs, [], [], []⟩
def mvmForm : Form := ⟨0x08, 0x000, 2, engFields [(21, 2), (20, 1), (18, 2), (17, 1), (16, 1), (8, 8)],
  [(0, 12), (12, 8), (20, 13), (33, 16)], [(0, 7), (7, 7), (14, 6), (20, 12), (32, 12)], []⟩
def aprogForm : Form := ⟨0x08, 0x010, 1, engFields [], [(0, 12), (12, 1), (13, 12)], [], []⟩
def areadForm : Form := ⟨0x08, 0x011, 1, [(38, 4), (24, 10), (23, 1), (22, 1)], [(0, 12), (12, 1), (13, 12)], [], []⟩
def fineForm : Form := ⟨0x09, 0x000, 2, engFields [(21, 2), (19, 2), (17, 2), (16, 1), (15, 1), (14, 1), (12, 2)],
  [(0, 4), (4, 4), (8, 16), (24, 17), (41, 17)], [(0, 16), (16, 16), (32, 16)], []⟩
def scoreForm : Form := ⟨0x0A, 0x000, 3, engFields [(22, 1), (19, 3), (15, 4), (14, 1), (12, 2), (8, 4)],
  [(0, 16), (16, 7), (23, 13), (36, 25)], [(0, 16), (16, 16), (32, 16), (48, 8)], [(0, 25)]⟩
def appendForm : Form := ⟨0x0A, 0x001, 3, engFields [(22, 1), (19, 3), (15, 4), (12, 2), (8, 4)],
  [(0, 16), (23, 13)], [(16, 16), (32, 16), (48, 8)], [(0, 25)]⟩
def vopForm (op : Nat) : Form := ⟨0x0B, op, 2, engFields [(19, 4), (16, 3), (13, 3), (8, 5)], [(0, 16), (16, 16), (32, 14)],
  [(0, 16), (16, 8), (24, 8), (32, 5)], []⟩

/-- OP of the vector operations (R306). -/
def vopOps : List ((Nat → IWord → Instr) × Nat) :=
  [(.vopAdd, 0), (.vopSub, 1), (.vopMul, 2), (.scale, 3), (.rmsnorm, 4), (.layernorm, 5), (.swiglu, 6), (.geglu, 7), (.exp, 8), (.recip, 9),
   (.rsqrt, 10), (.sigmoid, 11), (.reduce, 12), (.convert, 13), (.quant, 14), (.dequant, 15), (.topk, 16), (.stats, 17), (.sdrain, 18),
   (.pload, 19)]

/-- The engine instructions: layout, unit code of the absent-unit trap (R237), bit of the USES word (R233), and whether the unit is powered. -/
def engineOps : List ((Nat → IWord → Instr) × Form × Nat × Nat × (State → Nat → Bool)) :=
  [(.mvm, mvmForm, 0, 0, State.arrayOn), (.aprog, aprogForm, 0, 0, State.arrayOn), (.aread, areadForm, 0, 0, State.arrayOn),
   (.fine, fineForm, 1, 1, State.engOn), (.score, scoreForm, 2, 2, State.engOn), (.append, appendForm, 2, 2, State.engOn)] ++
  vopOps.map (fun e => (e.1, vopForm e.2, 3, 3, State.engOn))

/-- The unit of an engine instruction is powered and declared, and its CTR field is in order (R233, R268, R284). -/
structure UnitOk (s : State) (f : Nat) (w : IWord) (need : Nat) (on : State → Nat → Bool) : Prop where
  on : on s f = true
  uses : (s.face f).uses need = true
  ctr : ctrBad (s.face f) w = false

/-- No firmware slot holds a good image whose version is at or above the rollback fuse (R599). -/
def NoFirmware (s : State) : Prop := ∀ i < 2, (mget {} s.mgmt.fw i).good = true → (mget {} s.mgmt.fw i).version < s.mgmt.rollback

/-- The boot has run to its end: STEP 9, READY and the time it took, and vector 4 of PF1 (R598, R591). -/
structure Booted (b : Boot) (t : State) : Prop where
  step : t.rd R.PLT_BOOT_STATE.STEP 0 = 9
  ready : t.rd R.PLT_BOOT_STATE.READY 0 = 1
  took : t.rd R.PLT_BOOT_STATE.BOOT_MS 0 = b.ms % 2 ^ R.PLT_BOOT_STATE.BOOT_MS.wd
  told : ∃ o, t.out = o ++ [.msix 1 4]

/-- Nothing waits for the hand boundary that the end of a warm reset stands for (R602): no action, port, key, face or domain; no tour has swapped
its arrays, and no unit is permanent in the fault history. -/
structure NothingWaits (s : State) : Prop where
  acts : s.acts = []
  ports : ∀ p < 6, (s.port p).ready = none ∧ (s.port p).remap = none
  keys : s.rd R.KEY_STATE.SWEEPING 0 = 0 ∧ s.key.rotate = false ∧ s.key.open_ = false ∧ s.key.release = none
  faces : ∀ f < 8, (s.face f).resetDone = false ∧ (s.face f).inReset = false
  domains : s.power.domRun = []
  tours : ∀ e ∈ s.tours, e.2.step < 2
  units : ∀ e ∈ s.hist, e.2.perm = false

/-- What a warm reset leaves (R593, R595). -/
structure WarmLeft (s t : State) : Prop where
  ended : t.hif = { s.hif with warm := false, flrFold := false }
  work : t.hand = {} ∧ t.seats = [] ∧ t.antes = [] ∧ t.rings = [] ∧ t.irqs = [] ∧ t.recs = [] ∧ t.writes = []
  faces : ∀ f < 8, (t.face f).store = [] ∧ (t.face f).queue = [] ∧ (t.face f).started = [] ∧ (t.face f).run = .off ∧
    (t.face f).wsets = (s.face f).wsets
  kept : t.now = s.now ∧ t.arrays = s.arrays ∧ t.hbm = s.hbm ∧ t.key = s.key ∧ t.mgmt = s.mgmt ∧ t.hist = s.hist ∧ t.nvLog = s.nvLog ∧
    t.faultq = s.faultq ∧ t.ports = s.ports
  ready : t.rd R.PLT_BOOT_STATE.READY 0 = 1
  regs : ∀ r i, r ∉ [.PLT_BOOT_STATE, .FLT_STATUS, .PLT_PROG_STAT] → t.reg r i =
    if ((regInfo r).dom = .warm ∨ (regInfo r).dom = .function ∨ (regInfo r).dom = .face) ∧ r ≠ .PWR_DOM_STATE then resetKeep r i (s.reg r i)
    else s.reg r i
  told : t.out = s.out ++ [.msix 1 4]

/-- Nothing that a function-level reset of PF0 or PF1 would cut short is in progress, and ticks run: no prefix set or grammar is being installed,
no program is LOADING, and no image is open. -/
structure NothingOpen (s : State) : Prop where
  prefixes : s.prefixes = []
  grams : ∀ g < 64, s.rd R.DLR_GRAM_STATE.STATE g ≠ 1
  programs : ∀ f < s.nFaces, s.rd R.FCE_PROG_STATE.STATE f ≠ 1
  image : s.rd R.PLT_WIMG_STATE.STATE 0 ≠ 1
  ticks : s.rd R.SYN_TICK_PERIOD.PERIOD 0 ≠ 0

/-- What a function-level reset of PF0 leaves (R594). -/
structure Flr0 (s t : State) : Prop where
  rings : t.rings = []
  irqs : t.irqs = []
  recs : t.recs = []
  fold : t.hif.flrFold = true
  mirror : ∀ f < 8, t.rd R.SYN_MIRROR.EN f = 0
  regs : ∀ r i, (regInfo r).dom = .function → r ≠ .FLT_HOST_RING → r ≠ .FLT_HOST_HEAD → r ≠ .HIF_PF2_APERTURE → t.reg r i = resetKeep r i (s.reg r i)

/-- Counts and rounds of the die tricks at home on face f, which its loss resets while no hand runs (R333). -/
def homeFields (s : State) (f : Nat) : List (Fld × Nat) :=
  if s.hand.running then []
  else ((List.range 256).filter (fun i => decide (s.rd R.SYN_TRICK_CFG.HOME i = f))).flatMap (fun i =>
    [(R.SYN_TRICK_CFG.COUNT, i), (R.SYN_TRICK_CFG.ROUNDS, i)])

/-- The die tricks at home on face f are in their creation state, where no hand runs, and the plays of the others stand (R333). -/
structure HomeGone (s : State) (f : Nat) (t : State) : Prop where
  reset : s.hand.running = false → ∀ i < 256, s.rd R.SYN_TRICK_CFG.HOME i = f →
    t.rd R.SYN_TRICK_CFG.COUNT i = 0 ∧ t.rd R.SYN_TRICK_CFG.ROUNDS i = 0
  plays : ∀ i, s.hand.running = true ∨ s.rd R.SYN_TRICK_CFG.HOME i ≠ f → mget [] t.plays i = mget [] s.plays i

/-- A face reset of face f may begin (R596). -/
structure MayReset (s : State) (f : Nat) : Prop where
  face : f < 8 ∧ f < s.nFaces
  not : (s.face f).inReset = false
  powered : s.domOn (16 + s.phys f) = true
  warm : s.hif.warm = false

/-- The first two steps of a face reset of face f, whose face is `x` before them: it is DOWN and busy, issues nothing, and has only what was
started; a hand that runs misdeals (R596). -/
structure ResetBegun (s : State) (f : Nat) (x : Face) (t : State) : Prop where
  face : t.face f = { x with
    queue := [], sb := x.sb.filter (fun e => !(x.queue.any (fun q => decide (q.id = e.op))))
    started := x.started.map (fun q => { q with discard := true }), run := if s.hand.running then .ended else .off
    failed := x.failed || s.hand.running, inReset := true, resetDone := false, autoReset := none }
  down : t.rd R.PLT_CAP_FACES.DOWN 0 = setBit (s.rd R.PLT_CAP_FACES.DOWN 0) f true % 2 ^ R.PLT_CAP_FACES.DOWN.wd
  busy : t.rd R.PLT_FACE_RESET.BUSY 0 = setBit (s.rd R.PLT_FACE_RESET.BUSY 0) f true % 2 ^ R.PLT_FACE_RESET.BUSY.wd
  misdeal : s.hand.running = true → t.hand.resetMisdeal = true

/-- A record of the event `e` would be queued and not merged, marked or discarded: no slot is armed, logging works, no queued record has its
unit and detector, and there is room (R542, R544, R545). -/
structure Recordable (s : State) (e : Event) : Prop where
  slots : s.injs = []
  live : s.injLive = []
  path : s.rd R.FLT_FATAL.LOG_PATH 0 = 0
  fresh : ∀ q ∈ s.faultq, ¬ (q.unit = e.unit ∧ q.det = e.det.row.1)
  room : s.faultq.length < 64

/-- The record of `e`, with the time and hand of `s`, is last in the fault queue, and QUEUED counts it (R541, R542). -/
structure Recorded (s : State) (e : Event) (t : State) : Prop where
  last : t.faultq = s.faultq ++ [e.record s]
  count : t.rd R.FLT_STATUS.QUEUED 0 = (s.faultq.length + 1) % 2 ^ R.FLT_STATUS.QUEUED.wd

/-- Where the control-lane message `m` goes from port p: out at once where the port is ACTIVE, and behind what waits at it where not (R441). -/
def SentLocal (s : State) (p : Nat) (m : Msg) (t : State) : Prop :=
  if s.rd R.LNK_PORT_STATE.STATE p = 4 then t.out = s.out ++ [.local_ p m] else mget [] t.txq p = mget [] s.txq p ++ [.local_ p m]

/-- A face whose domain trick has been released: a WAITT on a trick whose handles now hold no play goes on (R319). -/
def released (x : Face) (trick hand : Nat) : Face :=
  let y := x.releaseTrick true trick (some hand)
  match x.run with
  | .stalled (.waitt t) => if ∀ g ∈ y.sameTrick (mget {} y.handles t), g.play = none then { y with run := .issuing, pc := y.pc + 1 } else y
  | _ => y

/-- Training of port p has begun at step 1, with every lane good (R422, R424). -/
structure Trains (s : State) (p : Nat) (t : State) : Prop where
  state : t.rd R.LNK_PORT_STATE.STATE p = 1
  width : t.rd R.LNK_PORT_STATE.WIDTH p = 0
  lanes : t.rd R.LNK_LANE_STATE.FAILED p = 0
  spare : t.rd R.LNK_LANE_STATE.SPARE_USED p = 0
  step : (t.port p).step = if s.rd R.LNK_PORT_CTL.RATE_MAX p = 1 then 1 else 2
  tries : (t.port p).tries = 0
  good : (t.port p).good = 2 ^ laneCount p - 1

/-- XP and XN are DOWN behind the closed bypass (R443). -/
structure BypassShut (t : State) : Prop where
  closed : t.rd R.LNK_BYP_CTL.CLOSED 0 = 1
  down : ∀ p < 2, t.rd R.LNK_PORT_STATE.STATE p = 0 ∧ t.rd R.LNK_PORT_STATE.WIDTH p = 0

/-- A tick announced falls due on a device that is not the manager: the announcement, and nothing in the way of its hand (R16). -/
structure FallsDue (s : State) (h due period : Nat) : Prop where
  ann : s.hand.ann = some (h, due, period)
  free : s.hand.running = false ∧ s.hand.idle = false
  alive : s.dead = false
  worker : s.isManager = false

/-- The tick has passed: the device's time, its hand number and its period are the announcement's, which is no longer held. -/
structure TickPassed (s : State) (h due period : Nat) (t : State) : Prop where
  now : t.now = max s.now due
  ann : t.hand.ann = none
  last : t.hand.lastDue = due
  hand : t.rd R.SYN_HAND_NUM.HAND 0 = h % 2 ^ R.SYN_HAND_NUM.HAND.wd
  period : t.rd R.SYN_TICK_PERIOD.PERIOD 0 = period % 2 ^ R.SYN_TICK_PERIOD.PERIOD.wd

/-- Face x as it enters hand h with a slot that is empty (R239): its registers, and the branch to vector 0, or to vector 1 where a host call
waits with argument `arg`. -/
structure Entered (x : Face) (call : Bool) (arg : Word) (h expiry : Nat) (y : Face) : Prop where
  pc : y.pc = (x.vector (if call then 1 else 0)).getD 0
  run : y.run = .issuing
  hn : y.hn = h
  sregs : y.sreg 1 = 0#64 ∧ y.sreg 2 = 0#64 ∧ y.sreg 3 = (if call then 5#64 else 1#64) ∧ y.sreg 4 = (if call then arg else 0#64) ∧
    y.sreg 5 = 0#64 ∧ y.sreg 6 = BitVec.ofNat 64 expiry
  others : ∀ n, n = 0 ∨ (7 ≤ n ∧ n < 32) → y.sreg n = 0#64
  clear : y.a = [] ∧ y.p = [] ∧ y.l = [] ∧ y.handler = .none ∧ y.failed = false ∧ y.endTime = none

/-- What becomes of a hand at its budget expiry: the state with every message in flight landed, and whether every face has retired END and
nothing has failed (R24). -/
def atExpiry (s : State) : State := (s.advance s.hand.expiry).ringDrain.openTiles.dropChecks
def HandGood (t : State) : Prop := t.blocked = false ∧ ∀ f < t.nFaces, (t.face f).failed = false ∧ (t.face f).endTime ≠ none

/-- No message of kind k that brings a command has been lost on the call ring (R73). -/
def NoneLost (s : State) (k : RKind) : Prop := ∀ e ∈ s.ringLost, e.1 ≠ k

/-- A control message of this device leaves at once through the port of its route (R432, R441). -/
structure RoutedNow (s : State) (dst port : Nat) : Prop where
  route : ∃ d, s.route dst = some (port, d)
  active : s.rd R.LNK_PORT_STATE.STATE port = 4

/-- The hand, or the tick without one, is over on the device (R33, R41): no face runs. -/
structure HandOver (t : State) : Prop where
  running : t.hand.running = false
  idle : t.hand.idle = false
  owed : t.hand.abortOwed = none
  faces : ∀ f < t.nFaces, (t.face f).run = .off

/-- The roles that `s` holds have become these, and the tree in use (R454). -/
structure RolesAre (s : State) (manager standby : Nat) (valid : Bool) (term tree : Nat) (t : State) : Prop where
  role : t.rd R.SYN_ROLE.ROLE 0 = if manager = s.devAddr then 2 else if valid = true ∧ standby = s.devAddr then 3 else 1
  manager : t.rd R.SYN_ROLE.MANAGER 0 = manager % 2 ^ 12
  standby : t.rd R.SYN_ROLE.STANDBY 0 = standby % 2 ^ 12
  valid : t.rd R.SYN_ROLE.STANDBY_VALID 0 = if valid then 1 else 0
  term : t.rd R.SYN_ROLE.TERM 0 = term % 2 ^ 32
  tree : t.rd R.LNK_TIME_STAT.TREE 0 = tree % 2

/-- A message of the manager arrives along the tree, of a term that is not older (R454, R457). -/
structure FromManager (s : State) (port term : Nat) : Prop where
  term : s.term ≤ term
  parent : s.fromParent port = true

/-- A hold or its lift for hand `first` on is the last that this device keeps; otherwise only messages have left (R460). -/
structure TakesHold (s : State) (on : Bool) (first : Nat) (t : State) : Prop where
  holds : t.holds = s.holds ++ [(first, on)]
  frame : s.Sends { t with holds := s.holds, obeys := s.obeys }

/-- What the replica r, whose stage this device is, is told. -/
def OwnReplica (s : State) (r : Nat) : Prop := ∃ k n, s.place = some (k, r, n)

/-- This device holds no stage of replica r. -/
def NotOwn (s : State) (r : Nat) : Prop := ∀ k n, s.place ≠ some (k, r, n)

/-- The reading of channel c in a housekeeping round: a temperature in eighths of a degree, a voltage in mV, or a current in mA. -/
def roundVal (vals : List (Nat × Int)) (c : Nat) : Int := ((vals.find? (fun v => decide (v.1 = c))).map Prod.snd).getD 0

/-- The block waits for a calibration that `trig` asked for: the request, in its place in the order, and CAL_BLK_STATE (R518). -/
structure Requested (s : State) (f b trig : Nat) (t : State) : Prop where
  req : (t.cal f b).req = some (trig, calPriority trig, s.calOrder)
  pending : t.rd R.CAL_BLK_STATE.PENDING (ixB f b) = 1
  trigger : t.rd R.CAL_BLK_STATE.TRIGGER (ixB f b) = trig % 2 ^ R.CAL_BLK_STATE.TRIGGER.wd

/-- No calibration of the block has been requested. -/
def Unrequested (s : State) (f b : Nat) : Prop := (s.cal f b).req = none

/-- A layer of face f has run enough passes since its counts were cleared for R129 to judge it, and too many of them escalated. -/
structure Escalates (s : State) (f l : Nat) : Prop where
  layer : l < 256
  enough : s.rd R.ARF_PIN_CTL.MIN_PASSES f ≤ s.rd R.ARF_LAYER_STAT.PASSES (ix 256 f l) ∧ s.rd R.ARF_LAYER_STAT.PASSES (ix 256 f l) ≠ 0
  rate : s.rd R.ARF_PIN_CTL.RATE f ≠ 0 ∧
    s.rd R.ARF_PIN_CTL.RATE f * s.rd R.ARF_LAYER_STAT.PASSES (ix 256 f l) < s.rd R.ARF_LAYER_STAT.ESCALATIONS (ix 256 f l) * 65536

/-- The record of a pin, or of a cap, of layer l at a bench (R130). -/
def pinEvent (s : State) (f l bench : Nat) (capped : Bool) : Event :=
  { det := .pin, unit := s.unitFace f, lface := f, d0 := BitVec.ofNat 64 (l + bench * 2 ^ 16 + (if capped then 2 ^ 32 else 0)) }

/-- Layer l has been judged: its counts and the hands of the window start over (R129). -/
structure Judged (s : State) (f l : Nat) (t : State) : Prop where
  hands : (t.face f).pinHands = 0 ∧ (t.face f).pinCounted = s.hand.running
  passes : t.rd R.ARF_LAYER_STAT.PASSES (ix 256 f l) = 0
  escalations : t.rd R.ARF_LAYER_STAT.ESCALATIONS (ix 256 f l) = 0

/-- A write-verify of array a of block b that has started and is the only one there is; nobody waits for its end, and the array's endurance
will not be used up by it (R344 to R346). -/
structure OnlyWrite (s : State) (f b a : Nat) (j : WJob) : Prop where
  only : s.writes = [j]
  started : j.started = true
  place : j.face = f ∧ j.block = b ∧ j.arr = a
  idle : s.rd R.PLT_BUILD_CTL.BUSY 0 = 0 ∧ s.discardWaits = false
  sound : s.rd R.BLK_WEAR.CYCLES (ixA f b a) < 9999 ∧ s.rd R.BLK_WEAR.WORN (ixA f b a) = 0

/-- The tour of block (f, b) can start with `slot`, whose array is `a`; every other block of the device has one under way (R534). -/
structure TourAt (s : State) (f b slot a : Nat) : Prop where
  place : f < s.nFaces ∧ b < 64
  idle : s.rd R.CAL_BLK_STATE.TOURING (ixB f b) = 0
  others : ∀ g c, g < s.nFaces → c < 64 → ixB g c ≠ ixB f b → s.rd R.CAL_BLK_STATE.TOURING (ixB g c) = 1
  next : (List.range 64).find? (fun sl => decide (0 ≤ sl) && s.slotLive f b sl && (s.slotPhys f b sl).isSome) = some slot
  array : s.slotPhys f b slot = some a
  check : s.rd R.BLK_SPARE.CHECK_VALID (ixB f b) = 1 ∧ s.worn f b (s.rd R.BLK_SPARE.CHECK (ixB f b)) = false

/-- Face f has an MVM in progress: the started operation q, and its run r (R90, R286). -/
structure Multiplies (s : State) (f : Nat) (q : QOp) (r : MvmRun) : Prop where
  op : (s.face f).mvmOp = some q
  run : (s.face f).mvm = some r
  same : r.op = q.id

/-- The pass of the same block and vector as p' gives way to p'. -/
def MvmRun.with_ (r : MvmRun) (p' : Pass) : MvmRun :=
  { r with passes := r.passes.map (fun (o : Pass) => if o.block = p'.block ∧ o.vector = p'.vector then p' else o) }

/-- The oldest operation that waits for engine e of face f is q, and the engine is free and powered (R245, R247). -/
structure MayStart (s : State) (f e : Nat) (q : QOp) : Prop where
  oldest : (s.face f).queue.find? (fun o => decide (o.eng = engOf e)) = some q
  free : (s.face f).engBusy q.eng = false
  powered : (q.eng = .array ∧ s.arrayOn f = true) ∨ ((q.eng = .fine ∨ q.eng = .vector) ∧ s.engOn f = true)

/-- A packet may enter the mesh: its ports are there, it is not on a home path, and it has 1 to 16 beats (R51, R54, R62, R63). -/
structure Routable (s : State) (p : MPacket) : Prop where
  ports : s.meshPort p.src = true ∧ s.meshPort p.dst = true
  mesh : s.homePath p.src p.dst = false
  beats : 1 ≤ p.beats ∧ p.beats ≤ 16

/-- An AREAD with DIG set has started, with a status range on word bounds, and can complete; it signals no counter, issue is not stalled, and nobody
has a window open on the device (R298). -/
structure ReadsDigest (s : State) (f : Nat) (q : QOp) : Prop where
  oldest : (s.face f).started.find? (fun o => decide (o.eng = engOf 0) && (s.face f).completable o) = some q
  op : q.eng = .array ∧ q.op = 17 ∧ q.f0 22 1 = 1 ∧ q.cen = false ∧ q.discard = false
  word : rngBase q.al % 8 = 0
  face : (s.face f).run = .issuing
  quiet : s.injs = [] ∧ (∀ e ∈ s.faces, e.2.wins = []) ∧ (s.face f).cacheDue = false

/-- The digest line of an AREAD: the CRC-64 of the codes, the digest held, whether they agree and no code is none of the format's, how many are
not, and zeros (R298). -/
def digestLine (s : State) (f : Nat) (q : QOp) : List Nat :=
  let r := (s.arr f (q.sc.toNat / 256) (q.sc.toNat % 256)).codes (fw q.mapLo R.ARF_WSMAP_LO.FORMAT)
    (s.usedRows f (fget q.w1 0 12) (fget q.w1 13 12)) (s.usedCols f (fget q.w1 0 12) (fget q.w1 13 12))
  let held := (mget 0#64 (s.wcopy f (fget q.w1 0 12) (fget q.w1 12 1)).digest (fget q.w1 13 12)).toNat
  leBytes (crc64 r.1) 8 ++ leBytes held 8 ++ [if crc64 r.1 = held ∧ r.2 = 0 then 1 else 0, 0, 0, 0] ++ leBytes r.2 4 ++ List.replicate 104 0

/-- A fine tile of face f waits for the answer of its check partner, which is up (R536). -/
structure AwaitsFine (s : State) (f : Nat) (c : FineChk) : Prop where
  check : s.fineChecks.find? (fun c => decide (c.face = f)) = some c
  up : ∃ g, s.logicalOf c.partner = some g ∧ s.isDown g = false
  slots : s.injs = []

/-- The words that were transferred stand in the program store of face f (R227). -/
def loaded (s : State) (f : Nat) (words : List Word) : State := s.modFace f (fun x => x.fill (words.take (s.face f).loadWords))

/-- The program of face f has changed to state `v`, with REFUSE `code`, and the change is signalled on vector 8 + f of PF1 (R225, R232, R591). -/
structure ProgramIs (s : State) (f v code : Nat) (t : State) : Prop where
  state : t.rd R.FCE_PROG_STATE.STATE f = v
  refuse : t.rd R.FCE_PROG_STATE.REFUSE f = code
  signal : t.out = s.out ++ [.msix 1 (8 + f)]

/-- A request on a face's program is refused: code 13, and nothing else happens (R225, R232). -/
def refusedState (s : State) (f : Nat) (t : State) : Prop :=
  t.rd R.FCE_PROG_STATE.REFUSE f = 13 ∧ s.Frame t [(R.FCE_PROG_STATE.REFUSE, f), (R.FCE_PROG_STATE.REFUSE_DETAIL, f)] []

/-- A request on a face's program waits for the boundary (R225). -/
def requestWaits (s : State) (f : Nat) (r : ProgReq) (t : State) : Prop :=
  (t.face f).progReq = some r ∧ t.rd R.FCE_PROG_STATE.PENDING f = 1 ∧ s.Frame t [(R.FCE_PROG_STATE.PENDING, f)] [f] ∧
  { t.face f with progReq := (s.face f).progReq } = s.face f

/-- A DATA parcel for this device passes every check of R326 and R431: window w = p.win of face f = p.face is OPEN for its sender and its hand, it
lies within a slot, no notice has closed its hand, and slot k is its own or the one that a new slot takes. -/
structure Lands (s : State) (p : Parcel) (k : Nat) : Prop where
  here : p.dst = s.devAddr
  epoch : p.epoch = s.rd R.KEY_SESSION.EPOCH 0
  window : p.face < s.nFaces ∧ p.win < 256
  isOpen : s.winState p.face p.win = 2 ∧ s.rd R.SYN_WIN_EPOCH.EPOCH (ix 256 p.face p.win) ≤ p.hand
  sender : p.src = s.rd R.SYN_WIN_STATE.SRC (ix 256 p.face p.win)
  notice : s.aborts.contains (p.src, p.hand) = false ∧ s.commits.contains (p.src, p.hand) = false
  range : p.offset + p.lines * 128 ≤ (s.winGeom p.face p.win).2.1 * 128
  slot : (s.win p.face p.win).ofHand p.hand = some k ∨ ((s.win p.face p.win).ofHand p.hand = none ∧
    (s.win p.face p.win).pendEmpty = [] ∧ (s.win p.face p.win).freeIx (s.winGeom p.face p.win).2.2 = some k)
  sealed : p.sealOk = true
  kept : NoneLost s .arrival ∧ ¬ (p.face = 0 ∧ p.win = 255 ∧ 2 ≤ s.rd R.SRV_MODE.MODE 0)
  mapped : ∀ d < 8, (s.rd R.SYN_WIN_CFG.FANOUT (ix 256 p.face p.win)).testBit d = true →
    ∀ l < p.lines, s.arrival d ((s.winGeom p.face p.win).1 + k * (s.winGeom p.face p.win).2.1 + p.offset / 128 + l) ≠ .unmapped

/-- `u`, answered with `result` to the sender of the parcel (R433). -/
def Answered (u : State) (port : Nat) (p : Parcel) (result : Nat) (t : State) : Prop := t = u.answer port p.src result p.seq

/-- A parcel received on the port has been counted. -/
def CountsParcel (s : State) (port : Nat) (u : State) : Prop :=
  u.rd R.LNK_PARCEL_STAT.PARCELS port = min (s.rd R.LNK_PARCEL_STAT.PARCELS port + 1) (2 ^ R.LNK_PARCEL_STAT.PARCELS.wd - 1)

/-- A commit notice of one window entry finds its slot k complete: the window is OPEN for the sender, all bytes have come, and the number that the
entry gives is `n` (R328, R440). -/
structure Completes (s : State) (src hand : Nat) (e : WinEntry) (k n : Nat) : Prop where
  fresh : s.aborts.contains (src, hand) = false ∧ s.commits.contains (src, hand) = false ∧ s.partOf src hand = []
  face : e.face < s.nFaces
  window : s.winState e.face e.win = 2 ∧ s.rd R.SYN_WIN_STATE.SRC (ix 256 e.face e.win) = src
  slot : (s.win e.face e.win).ofHand hand = some k
  bytes : (mget {} (s.win e.face e.win).slots k).bytes = e.bytes
  number : slotNumber hand e.slotLo = some n
  quiet : s.injs = [] ∧ s.ticking = true ∧ NoneLost s .commit

/-- One SEND is outstanding on the device: q, on face f, not discarded, to device `src` (R275, R433). -/
structure OneSend (s : State) (f : Nat) (x : Face) (q : QOp) (src : Nat) : Prop where
  faces : s.faces = [(f, x)]
  started : x.started = [q]
  send : q.isSend = true ∧ q.discard = false ∧ q.cen = false ∧ fget q.w1 0 12 = src
  run : x.run = .issuing

/-- PLT_WIMG_STATE.STATE is v; a change from another state signals vector 0 of PF1 (R342, R591). -/
structure ImageState (s : State) (v : Nat) (t : State) : Prop where
  state : t.rd R.PLT_WIMG_STATE.STATE 0 = v
  signal : t.out = if s.rd R.PLT_WIMG_STATE.STATE 0 = v then s.out else s.out ++ [.msix 1 0]

/-- An image passes the open checks 1 to 8 (R337): magic and format; key, signature, types and zeros; the floor; the faces, stacks and reach that it
needs; its domain; and room for its sections, which end at `stop`, in the weight region. -/
structure MayOpen (s : State) (o : ImgOpen) (stop : Nat) : Prop where
  format : o.fld 0 4 = 0x57594E52 ∧ o.fld 4 2 = 1
  signed : s.signedBy o = true ∧ (∀ e ∈ o.secs, e.typ ≤ 8) ∧ o.zeros = true
  floor : s.rd R.PLT_WIMG_FLOOR.FLOOR 0 ≤ o.fld 8 4
  needs : o.fld 24 1 ≤ s.nFaces ∧ o.fld 25 1 ≤ s.stackCount ∧ (o.fld 26 1 = 0 ∨ s.rd R.PLT_CAP_UNITS.REACH 0 = 1)
  domain : s.domainMeets o = true
  room : stop ≤ o.base + o.room ∧ s.inWreg o.base = true ∧ s.inWreg (o.base + o.room - 1) = true

/-- HBM holds the words `ws` from the line of byte a on: present, not poisoned, with valid codes. -/
def HbmHolds (t : State) (a : Nat) (ws : List Word) : Prop :=
  ∀ j w, ws[j]? = some w → (t.gran (a / 128 + j / 16)).present = true ∧ (t.gran (a / 128 + j / 16)).poison = false ∧
    mget {} (t.gran (a / 128 + j / 16)).words (j % 16) = { data := w, poison := false, flips := 0 }

/-- n words can be stored from the line of byte a on (R483): it is weight region, the platform set is valid, the metadata can be read, and no slot is
armed. -/
structure Storable (s : State) (a n : Nat) : Prop where
  region : ∀ k < cdiv n 16, s.inWreg ((a / 128 + k) * 128) = true
  key : s.rd R.KEY_STATE.PLATFORM_VALID 0 = 1
  metas : ∀ k < cdiv n 16, checkCode (mget 0 s.hbmMeta (metaKey (a / 128 + k))) ≠ .bad
  quiet : s.injs = []

/-- Section i of the open image x has arrived whole (R339, R342): e is its entry, it is for this device and not staged yet, and `ws` are its words, as
this device's host gave them, or as load parcels left them in the staging region. -/
structure Arrives (s : State) (x : Img) (i : Nat) (e : ImgSec) (words ws : List Word) : Prop where
  img : s.img = some x
  sec : x.secs[i]? = some e
  fresh : e.staged = false ∧ e.mine = true
  loader : s.rd R.PLT_WIMG_CTL.LOADER 0 = 0
  arrived : (x.own = true ∧ ws = words.take (cdiv e.ent.len 8) ∧ Storable s e.addr words.length) ∨
    (x.own = false ∧ e.whole = true ∧ ∃ r, s.hbmReadRun (e.addr / 128) (cdiv e.ent.len 128) = (s, r) ∧ r.all (fun w => !w.2) = true ∧
      ws = (r.map Prod.fst).take (cdiv e.ent.len 8))

/-- The image with section i staged, and what it holds. -/
def withStaged (x : Img) (i : Nat) (data : Option SecData) : Img :=
  { x with secs := x.secs.modify i (fun y => { y with staged := true, data := data }) }

/-- A put of n bytes to d may begin (R343): line bounds, one stack, the weight region, clear of the staging region and the fault log, and no put busy. -/
structure MayPut (s : State) (d n : Nat) : Prop where
  dst : s.rd R.PLT_PUT_DST.ADDR 0 = d
  len : s.rd R.PLT_PUT_CTL.LEN 0 = n
  lines : d % 128 = 0 ∧ s.rd R.PLT_PUT_SRC.ADDR 0 % 128 = 0 ∧ n % 128 = 0 ∧ 0 < n
  place : hStack (d + n - 1) = hStack d ∧ s.usable d = true ∧ s.inWreg d = true ∧ s.inWreg (d + n - 1) = true
  clear : (∀ x, s.img = some x → rangesMeet d n x.base x.room = false) ∧
    rangesMeet d n (s.logSlot 0) (64 * 2 ^ s.rd R.FLT_LOG_CFG.SIZE 0) = false
  free : s.rd R.PLT_PUT_CTL.BUSY 0 = 0

/-- A build of the open image may be asked for (R347): it is STAGED, and neither a build nor a restore is in progress on a device not retired. -/
structure MayBuild (s : State) (x : Img) : Prop where
  img : s.img = some x
  staged : s.rd R.PLT_WIMG_STATE.STATE 0 = 2
  idle : s.rd R.PLT_BUILD_CTL.BUSY 0 = 0 ∧ s.rd R.PLT_BOOT_CTL.BUSY 0 = 0
  live : s.rd R.PLT_LIFECYCLE.STATE 0 ≠ 3

/-- Array a of block (f, b), once the cells listed stand at other levels. -/
def drifted (s : State) (f b a : Nat) (cells : List (Nat × Nat)) : State :=
  s.modArr f b a (fun x => { x with cells := cells.foldl (fun m c => mset 0 m c.1 c.2) x.cells })

/-- Array a of block (f, b) serves slot `slot` of copy c of weight set w, which is live or ready; no slot of the fault injection is armed. -/
structure Serves (s : State) (f b a slot w c idx : Nat) : Prop where
  serves : s.slotOf f b a = some slot
  owner : s.slotOwner f b slot = some (w, c, idx)
  stands : s.wsLive f w = c ∨ s.copyIsReady f w c = true
  quiet : s.injs = []

/-- This device is the manager, and the devices of stage k are `src`, of replica r, and `other`, of replica q, whose replicas are both IN (R363). -/
structure TwoPeers (s : State) (k src r other q : Nat) : Prop where
  manager : s.isManager = true
  stage : s.stageOf src = some (k, r) ∧ s.stageOf other = some (k, q) ∧ src ≠ other
  peers : s.manifest.filter (fun d => decide (d.2.1 = k)) = [(src, k, r), (other, k, q)]
  states : s.repState r = 2 ∧ s.repState q = 2

/-- Entries of ring r's queue whose SIZE field is `n` (R365). -/
def ringSize (s : State) (g : Fld) (r : Nat) : Nat := 2 ^ s.rd g r

/-- Ring r is enabled and an entry is submitted in it (R365, R367). -/
structure Submitted (s : State) (r : Nat) : Prop where
  ring : r < 16384 ∧ s.rd R.SRV_RING_CTL.EN r = 1
  entry : s.rd R.SRV_RING_STAT.SQ_HEAD r % ringSize s R.SRV_RING_SQ.SIZE r ≠ (s.ring_ r).tail

/-- The front has read one entry of ring r. -/
def HeadMoves (s : State) (r : Nat) (t : State) : Prop :=
  t.rd R.SRV_RING_STAT.SQ_HEAD r = (s.rd R.SRV_RING_STAT.SQ_HEAD r + 1) % 65536

/-- The ante of entry e as the manager holds it: with the reason for which it will be refused, 3 or 4, if any: a field
out of its bounds, or a seal that differs from that of the copy in HBM (R367, R378). -/
def heldAnte (e : Entry) (copy : Entry) (r front ttl vocab : Nat) : Ante :=
  { entAnte e r front ttl with bad := if entAnteOk e vocab = false then 3 else if entrySeal copy = entrySeal e then 0 else 4 }

/-- Prefix set p may be installed with n pages (R387): it is ABSENT, and n frames, at most 64, are free beyond what is reserved and installed. -/
structure MayInstall (s : State) (p n : Nat) : Prop where
  set : s.rd R.SRV_PFX_CTL.SET 0 = p
  pages : s.rd R.SRV_PFX_CTL.PAGES 0 = n ∧ 0 < n ∧ n ≤ 64
  absent : s.rd R.SRV_PFX_STATE.STATE p = 0
  frames : s.reserved ((s.place.map (fun q => q.2.1)).getD 0) + s.pfxFrames + n ≤ s.rd R.SRV_PAGE_CFG.FRAMES 0 ∧ s.usedFrames.length + n ≤ s.rd R.SRV_PAGE_CFG.FRAMES 0

/-- The automaton that these words give (R409). -/
def automaton (states trans : List Word) (ready : Bool) : Gram :=
  { states := states.map (fun w => (fget w 0 20, fget w 20 21, decide (fget w 41 1 = 1)))
    trans := trans.map (fun w => (fget w 0 18, fget w 18 18, fget w 36 14)), ready := ready }

/-- Every share of the running hand's slot is in, and nothing is wrong with them (R399, R400): the first names `stream`. -/
structure SharesIn (s : State) (stream : Nat) (shares : List DealShare) : Prop where
  hand : s.hand.running = true ∧ s.hand.draws = none ∧ s.hand.shareBad = false
  taken : s.hand.shares = shares ∧ ∃ a, shares.head? = some a ∧ a.sel = stream ∧ a.shares ≤ shares.length
  agree : sharesOk shares (s.rd R.DLR_CFG.VOCAB stream) = true
  slots : s.injs = []

/-- A record of seat x can be written at once: this device is its front, nothing waits before it, and the ring's completion queue has space (R368,
R370, R371). -/
structure Recording (s : State) (x : Seat) : Prop where
  front : x.front = s.devAddr ∧ s.hif.flrFold = false
  first : s.recs = [] ∧ s.hand.posted = none
  space : s.rd R.SRV_RING_CQ.SIZE x.ring ≠ 0 ∧ s.cqSpace x.ring = true ∧ (s.ring_ x.ring).backlog = []

/-- What the dealer has drawn for seat d of the slot, whose record is `r` (R405, R412, R415): tokens below VOCAB, at most one for a row; after the
accepted drafts, at most one more; and an end code that the walk gives. -/
structure Drawn (s : State) (d : SlotSeat) (vocab : Nat) (w : Draw) : Prop where
  seat : w.seat = d.seat ∧ w.drafts = d.drafts
  pos : w.pos = s.lenOf d + if d.kind = 2 then d.ntok else 1
  tokens : (∀ v ∈ w.toks, v < vocab) ∧ w.toks.length ≤ w.accepted + 1 ∧ w.accepted < seatRows d
  accepted : w.toks.take w.accepted = ((if d.kind = 0 then d.toks.drop 1 else []).take w.accepted)
  code : w.code ≤ 5 ∧ (w.code = 0 → w.toks.length = w.accepted + 1)

/-- Of the words of a scratchpad line, only word k may have wrong bits. -/
def CleanBut (s : State) (f line k : Nat) : Prop := ∀ i < 16, i ≠ k → checkCode ((s.face f).padWord (line * 16 + i)).flips = .clean

/-- The patrol scrub of face f reads a populated line (R221): the face is powered and the scrub enabled. -/
structure Patrols (s : State) (f line : Nat) : Prop where
  line : f < s.nFaces ∧ line < 196608
  on : s.domOn (16 + s.phys f) = true
  due : s.rd R.SPD_SCRUB.INTERVAL f ≠ 0

/-- The patrol scrub of stack p reads a row segment whose metadata words have no wrong bit (R484): the stack is powered, the scrub enabled, and
no release is scrubbing. -/
structure StackPatrols (s : State) (p seg : Nat) : Prop where
  row : p < 8 ∧ seg < segments
  on : s.stackOn p = true
  due : s.rd R.MEM_SCRUB.INTERVAL 0 ≠ 0 ∧ s.rd R.KEY_SESSION.STATE 0 ≠ 4
  metas : ∀ i < 3, mget 0 s.hbmMeta (metaKey (segGran p seg + 4 * i)) = 0

/-- Every word of granule g is clean. -/
def GranClean (s : State) (g : Nat) : Prop := ∀ i < 16, checkCode (mget {} (s.gran g).words i).flips = .clean

/-- Granule g is whole under the previous key set: outside the weight region, present, not poisoned, under the session's set of the previous
epoch with a good tag (R482, R486). -/
structure UnderPrev (s : State) (g : Nat) : Prop where
  out : s.inWreg (g * 128) = false
  clean : ∀ e ∈ (s.gran g).words, checkCode e.2.flips = .clean
  info : mget 0 s.hbmMeta (metaKey g) = 0
  here : (s.gran g).present = true ∧ (s.gran g).poison = false
  tag : (s.gran g).tagBad = false ∧ (s.gran g).plat = false ∧ (s.gran g).gen = s.keyGen
  epoch : (s.gran g).epoch + 1 = s.rd R.KEY_STATE.EPOCH 0

/-- Granule g stands again, with the words it had and no flipped bit, under the session's set of the current epoch with a good tag (R486). -/
structure Resealed (s : State) (g : Nat) (t : State) : Prop where
  here : (t.gran g).present = true ∧ (t.gran g).poison = false
  tag : (t.gran g).tagBad = false ∧ (t.gran g).plat = false ∧ (t.gran g).gen = s.keyGen
  epoch : (t.gran g).epoch = s.rd R.KEY_STATE.EPOCH 0
  words : ∀ i < 16, mget {} (t.gran g).words i = { data := (mget {} (s.gran g).words i).data, poison := (mget {} (s.gran g).words i).poison, flips := 0 }

/-- Stack p's sweep takes row segment n, each of whose granules lies in the weight region or is whole under the previous set. -/
structure Sweeps (s : State) (p n : Nat) : Prop where
  busy : s.rd R.KEY_STATE.SWEEPING 0 = 1
  on : p < 8 ∧ s.stackOn p = true
  next : mget 0 s.key.sweep p = n ∧ n < segments
  grans : ∀ i < 12, s.inWreg ((segGran p n + i) * 128) = true ∨ UnderPrev s (segGran p n + i)
  slots : s.injs = []

/-- A request to the key unit is refused with reason v, and nothing else changes. -/
def KeyRefused (s : State) (refuse reason : Fld) (v : Nat) (t : State) : Prop :=
  t.rd refuse 0 = 1 ∧ t.rd reason 0 = v ∧ s.Frame t [(refuse, 0), (reason, 0)] []

/-- The hand at whose boundary a release is asked for (R499). -/
def releaseHand (s : State) : Nat := if s.rd R.KEY_SESSION_CTL.AT_HAND 0 = 1 then s.rd R.KEY_RELEASE_HAND.HAND 0 else 0

/-- A release is scrubbing, no failure of a read-back is injected, and no image is STAGED (R502, R504, R505). -/
structure Scrubbing (s : State) : Prop where
  state : s.rd R.KEY_SESSION.STATE 0 = 4
  slots : ∀ i < 8, s.rd R.FLT_INJ_CTL.DETECTOR i ≠ Det.scrubFail.row.1
  image : s.rd R.PLT_WIMG_STATE.STATE 0 ≠ 2

/-- The session is CLEAN again: every face's scratchpad, caches and STATS are empty, and HBM holds only weight-region granules (R502, R504). -/
structure Scrubbed (s t : State) : Prop where
  state : t.rd R.KEY_SESSION.STATE 0 = 0 ∧ t.rd R.KEY_SESSION.DONE 0 = 1 ∧ t.rd R.KEY_SESSION.STEP 0 = 7
  pads : ∀ f < s.nFaces, (t.face f).pad = [] ∧ (t.face f).written = [] ∧ (t.face f).cache = [] ∧ (t.face f).stats = []
  hbm : t.hbm = s.hbm.filter (fun e => s.inWreg (e.1 * 128))
  told : t.out = s.out ++ (if s.rd R.KEY_SESSION_CTL.IRQ 0 = 1 then [.msix 0 (s.rd R.KEY_SESSION_CTL.VECTOR 0)] else [])

/-! ### Management and attestation -/

/-- Of the management sessions only session i has changed, to x; SESSIONS counts those that are live (R510). -/
structure OnlySession (u : State) (i : Nat) (x : MSess) (t : State) : Prop where
  session : t.msess i = x
  others : ∀ j, j ≠ i → t.msess j = u.msess j
  count : t.rd R.PLT_LIFECYCLE.SESSIONS 0 = min 4 (t.mgmt.sessions.filter (fun e => e.2.live)).length
  creds : { t.mgmt with sessions := u.mgmt.sessions } = u.mgmt
  frame : u.Frame { t with mgmt := u.mgmt } [(R.PLT_LIFECYCLE.SESSIONS, 0)] []

/-- Session x once its peer's datagram has acknowledged its first `acks` datagrams and another with `body` has gone out (R510). -/
def replied (x : MSess) (now acks : Nat) (body : List Nat) : MSess :=
  { x with last := now, out := x.out.drop acks ++ [(x.next, body)], next := (x.next + 1) % 2 ^ 32, repeats := if acks = 0 then x.repeats else 0 }

/-- Session i takes a datagram of its peer and answers it with `body`; the device is otherwise as `u`. -/
structure Replies (s u : State) (i acks : Nat) (body : List Nat) (t : State) : Prop where
  out : t.out = u.out ++ [.mgmt i body]
  ends : OnlySession u i (replied (s.msess i) s.now acks body) { t with out := u.out }

/-- Session i is live, under an operator's credential, and the lifecycle state is one of these (R511, R513). -/
structure Operator (s : State) (i : Nat) (lives : List Nat) : Prop where
  live : (s.msess i).live = true
  cred : (s.msess i).cred = true
  life : s.rd R.PLT_LIFECYCLE.STATE 0 ∈ lives

/-- Registers whose write is a request, and stores nothing itself. -/
def requestRegs : List RegId :=
  [.SYN_CTR_SIG, .SYN_TRICK_CFG, .SYN_DTRICK_CFG, .SRV_MODE, .SPD_RES_G0, .SPD_RES_G1, .PLT_DBG_CTL, .FLT_HIST_QUERY, .FLT_LOG_READ, .FLT_HIST_CLEAR,
   .ARF_PIN, .FLT_INJ_CTL, .FLT_INJ_UNIT, .PWR_DOM_REQ]

/-- The words `ws` of a granule of the weight region are read as they stand (R482): it is present and not poisoned, under the valid platform set with
a good tag, and no word of it or of its metadata has a wrong bit. -/
structure ReadsClean (s : State) (g : Nat) (ws : List Word) : Prop where
  place : s.inWreg (g * 128) = true ∧ s.stackOn (hStack (g * 128)) = true
  key : s.rd R.KEY_STATE.PLATFORM_VALID 0 = 1 ∧ (s.gran g).plat = true ∧ (s.gran g).gen = s.keyGen
  here : (s.gran g).present = true ∧ (s.gran g).poison = false ∧ (s.gran g).tagBad = false
  clean : mget 0 s.hbmMeta (metaKey g) = 0 ∧ ∀ e ∈ (s.gran g).words, checkCode e.2.flips = .clean
  words : ∀ i < 16, (mget {} (s.gran g).words i).data = ws.getD i 0#64 ∧ (mget {} (s.gran g).words i).poison = false
  quiet : s.injs = [] ∧ mwf (fun _ => {}) s.hbm = true

/-- The platform's injection slot n waits for the boundary to be armed, or is cleared (R558). -/
structure SlotWritten (s : State) (n : Nat) (ctl unit : Word) (t : State) : Prop where
  ctl : t.reg .FLT_INJ_CTL n = writeImage .FLT_INJ_CTL (fun _ => true) (s.reg .FLT_INJ_CTL n) ctl
  unit : t.reg .FLT_INJ_UNIT n = unit
  waits : mget {} t.injs n = if t.rd R.FLT_INJ_CTL.ARM n = 1 then { waits := true } else {}
  others : ∀ j, j ≠ n → mget {} t.injs j = mget {} s.injs j
  frame : s.Frame { t with injs := s.injs } [whole .FLT_INJ_CTL n, whole .FLT_INJ_UNIT n] []

/-- The device is deployed: debug reads are closed, and PLT_DBG_DATA reads zero (R507, R516). -/
structure Deployed (s t : State) : Prop where
  state : t.rd R.PLT_LIFECYCLE.STATE 0 = 2
  debug : t.rd R.PLT_LIFECYCLE.DEBUG 0 = 0 ∧ ∀ i < 16, t.reg .PLT_DBG_DATA i = 0#64
  regs : ∀ r i, r ≠ .PLT_LIFECYCLE → r ≠ .PLT_DBG_DATA → t.reg r i = s.reg r i
  rest : { t with regs := s.regs } = s

/-- Command c is one of the seven attestation requests; `body` answers it before a signature, if it is `signed` (R514). -/
def Attests (s : State) (via acks : Nat) (c : Instr) (body : List Nat) (signed : Bool) : Prop :=
  let digest := (sha384 Config.certChain).map BitVec.toNat
  (c = .getVersion via acks ∧ body = [1, 3] ∧ signed = false) ∨ (c = .getCapabilities via acks ∧ body = [2, 1, 1, 1, 0] ∧ signed = false) ∨
  (∃ offered, c = .negotiateAlgorithms via acks offered ∧ body = [3, if offered then 1 else 0] ∧ signed = false) ∨
  (c = .getDigests via acks ∧ body = 4 :: digest ∧ signed = false) ∨
  (∃ offset len, c = .getCertificate via acks offset len ∧ body = 5 :: (Config.certChain.drop offset).take len ∧ signed = false) ∨
  (∃ nonce, c = .challenge via acks nonce ∧ body = 6 :: digest ++ nonce ∧ signed = true) ∨
  ∃ index nonce sign, c = .getMeasurements via acks index nonce sign ∧ signed = sign ∧
    body = (7 :: (if index = 0 then [6] else if index = 255 then (List.range 6).flatMap (fun i => s.measure (i + 1)) else s.measure index)) ++
      if sign then nonce else []

/-- Command c is a management operation of session i that needs an operator's credential, with its code and the lifecycle states in which it is
accepted (R513). -/
def Operates (i acks : Nat) (c : Instr) (code : Nat) (lives : List Nat) : Prop :=
  (∃ off, c = .readReg i acks off ∧ code = 2 ∧ lives = [1, 2, 3]) ∨ (∃ off v, c = .writeReg i acks off v ∧ code = 3 ∧ lives = [1, 2]) ∨
  (∃ what n, c = .readLog i acks what n ∧ code = 4 ∧ lives = [1, 2, 3]) ∨ (∃ n, c = .revokeOp i acks n ∧ code = 5 ∧ lives = [1, 2]) ∨
  (∃ n x y, c = .enrollImgkey i acks n x y ∧ code = 6 ∧ lives = [1, 2]) ∨ (∃ n, c = .revokeImgkey i acks n ∧ code = 6 ∧ lives = [1, 2]) ∨
  (∃ v, c = .setFloor i acks v ∧ code = 7 ∧ lives = [1, 2]) ∨ (c = .mgmtRelease i acks ∧ code = 8 ∧ lives = [1, 2]) ∨
  (c = .deploy i acks ∧ code = 9 ∧ lives = [1]) ∨ (c = .retire i acks ∧ code = 9 ∧ lives = [1, 2]) ∨
  (∃ v ws key sig, c = .firmware i acks v ws key sig ∧ code = 10 ∧ lives = [1, 2]) ∨
  (∃ ws, c = .probeDeck i acks ws ∧ code = 11 ∧ lives = [1, 2]) ∨ ∃ n x y, c = .inject i acks n x y ∧ code = 11 ∧ lives = [1, 2]

/-- A record of the queue's front that the platform controller can log (R542, R546): no slot is armed, the logging path works, the record's slot of
the log ring can be read and written, the host ring is off, and no message is lost. -/
structure Loggable (s : State) (r : FRec) (rest : List FRec) (ws : List Word) : Prop where
  queue : s.faultq = r :: rest ∧ rest.length < 64
  path : s.rd R.FLT_FATAL.LOG_PATH 0 = 0 ∧ s.ringLost = []
  slot : ReadsClean s (s.logSlot (s.rd R.FLT_LOG_NEXT.NEXT 0) / 128) ws
  host : s.rd R.FLT_HOST_RING.EN 0 = 0

/-! ### Records, history, injection, decks and register writes -/

/-- What HIST_QUERY, HIST_CLEAR and the logging of a record hold of a unit: its entry, and whether it has one. -/
def known (s : State) (u : Nat) : Prop := ∃ e ∈ s.hist, e.1 = u

/-- A record of the log ring: `ws` the words of its granule before, `x` the record, whose eight words now stand at its slot (R541, R546). -/
structure Logged (s : State) (x : FRec) (ws : List Word) (t : State) : Prop where
  slot : ∀ i < 8, (mget {} (t.gran (s.logSlot x.seq / 128)).words (s.logSlot x.seq / 8 % 16 + i)).data = (x.words 0).getD i 0#64
  beside : ∀ i < 16, i < s.logSlot x.seq / 8 % 16 ∨ s.logSlot x.seq / 8 % 16 + 8 ≤ i →
    (mget {} (t.gran (s.logSlot x.seq / 128)).words i).data = ws.getD i 0#64
  others : ∀ g, g ≠ s.logSlot x.seq / 128 → t.gran g = s.gran g
  next : t.rd R.FLT_LOG_NEXT.NEXT 0 = (x.seq + 1) % 2 ^ R.FLT_LOG_NEXT.NEXT.wd
  queue : ∀ r rest, s.faultq = r :: rest → t.faultq = rest ∧ t.rd R.FLT_STATUS.QUEUED 0 = rest.length

/-- Step st, at place k of the deck, is the next for face f, whose hand has ended, may run it in the deck's MODE and has the time (R561). -/
structure RunsStep (s : State) (f : Nat) (d : Deck) (k : Nat) (st : DeckStep) : Prop where
  deck : s.deck = some d
  step : d.nextFor f = some (k, st)
  left : d.overFor f = false
  mode : (d.mode = 1 → (s.face f).probeOk = true) ∧ (d.mode ≠ 1 → s.rd R.SRV_MODE.MODE 0 = 3)
  ended : (s.face f).run = .ended ∧ (s.face f).endTime ≠ none ∧ s.isDown f = false
  time : s.now + st.bound * 5 / 8 + 2000 ≤ s.hand.expiry

/-- Face f's step at place k of deck d has run: the deck is at the face's next step, and where it is over STATE is 2; no other face has
changed (R561). -/
structure StepOver (s : State) (f : Nat) (d : Deck) (k : Nat) (t : State) : Prop where
  deck : t.deck = some (d.advance f k)
  state : t.rd R.FLT_PROBE_STAT.STATE 0 = if (d.advance f k).over then 2 else s.rd R.FLT_PROBE_STAT.STATE 0
  others : ∀ g, g ≠ f → t.face g = s.face g

/-- Registers whose writes have a rule of their own: a range, a refusal, an effect, or a request. -/
def ruledRegs : List RegId :=
  requestRegs ++
  [.ARF_CFG, .ARF_PIN_CTL, .ARF_PROG_GRANT, .CAL_CFG, .CAL_DUP_CFG, .CAL_MON_CFG, .CAL_REQ, .DLR_CFG, .DLR_GRAM_CTL, .FCE_HAND_WARN, .FCE_HOST_CALL,
   .FCE_PROG_CTL, .FLT_CFG, .FLT_FATAL, .FLT_HOST_RING, .FLT_LOG_CFG, .HIF_PF2_APERTURE, .HKC_CTL, .HKC_SEQ, .KEY_ROT_CTL, .KEY_SESSION,
   .KEY_SESSION_CTL, .KEY_SWEEP_CFG, .LNK_BYP_CTL, .LNK_DEV_ADDR, .LNK_PORT_CTL, .MEM_SCRUB, .MEM_SREG, .MEM_STOCK_META, .MEM_WREG, .MSH_CFG,
   .MSH_PAIR_SHARE, .PLT_BOOT_CTL, .PLT_BUILD_CTL, .PLT_CUT_CTL, .PLT_DIGEST_CFG, .PLT_FACE_RESET, .PLT_PUT_CTL, .PLT_RESET_CTL, .PLT_WIMG_CTL,
   .PLT_WIMG_FLOOR] ++
  [.PWR_DROOP_CFG, .PWR_GOV, .PWR_LIMIT, .SPD_CACHE_CFG, .SPD_SCRUB, .SRV_ADMIT, .SRV_FACE_PAGES, .SRV_FACE_SEALS, .SRV_MODEL, .SRV_PAGE_CFG,
   .SRV_PFX_CTL, .SRV_RING_CTL, .SRV_STOCK_BASE, .SRV_STOCK_CFG, .SRV_STOCK_SLOTS, .SRV_VOCAB, .SYN_BATCH_CTL, .SYN_COMMIT_WINDOW, .SYN_CTR_NOTIFY,
   .SYN_DOMAIN_CFG, .SYN_JOIN_CTL, .SYN_MIRROR, .SYN_RETIRE_CTL, .SYN_ROLE_CAND, .SYN_TICK_LEAD, .SYN_TICK_PERIOD, .SYN_WIN_CFG, .SYN_WIN_EPOCH,
   .SYN_WIN_STATE]

/-- The word after a write of `v` through function fn: an RW field that fn may write takes the value, a W1C field that it may write is cleared
where v has a 1, and every other bit stays (R13). -/
def WordWritten (r : RegId) (fn : Nat) (old v new : Word) : Prop :=
  ∀ b < 64, new.getLsbD b =
    if ∃ g ∈ (regInfo r).fields, g.lo ≤ b ∧ b < g.lo + g.wd ∧ g.path.mayFn fn = true ∧ g.acc = .rw then v.getLsbD b
    else if ∃ g ∈ (regInfo r).fields, g.lo ≤ b ∧ b < g.lo + g.wd ∧ g.path.mayFn fn = true ∧ g.acc = .w1c then old.getLsbD b && !v.getLsbD b
    else old.getLsbD b

end Sys2Proof.Claims

open Sys2Proof.Claims

/-! ### The block as a machine -/

/-- A step runs the command at the front of the queue on the state with the queue's rest. -/
def Obligations.StepRunsTheFrontCommand : Prop :=
  ∀ (s : State) (c : Instr) (rest : List Instr), s.pending = c :: rest → step s = exec c { s with pending := rest }

/-- On an empty queue the block idles: device time goes on by 1 ns, and nothing else changes (the model's choice, log entry 9). -/
def Obligations.EmptyQueueIdles : Prop :=
  ∀ s : State, s.pending = [] → ∃ t, step s = .next t ∧ t.now = s.now + 1 ∧ { t with now := s.now } = s

/-- Every command is carried out in every state: none ends a run in a fault or a refusal. -/
def Obligations.EveryCommandGoesOn : Prop := ∀ (c : Instr) (s : State), goesOn (exec c s)

/-- A command's effect is on everything but the queue. -/
def Obligations.CommandsLeaveTheQueue : Prop := ∀ (c : Instr) (s t : State), exec c s = .next t → t.pending = s.pending

/-- Every step from a sound state leaves a sound state: canonical registers, faces and HBM, at most 64 queued and 16 non-volatile records
(R542, R548), two operator credentials (R512), eight image keys (R513), and the fuses as made. -/
def Obligations.StepKeepsSound : Prop := ∀ s t : State, s.Sound → step s = .next t → t.Sound

/-- The state after reset is sound. -/
def Obligations.ResetIsSound : Prop := State.reset.Sound

/-- No step takes the lifecycle state, the floor of image versions or the rollback fuse back (R507, R513, R599). -/
def Obligations.StepGoesOnward : Prop := ∀ s t : State, s.Sound → step s = .next t → s.Onward t

/-- The operator credentials change by ENROLL_OP and REVOKE_OP alone, and the image keys by ENROLL_IMGKEY and REVOKE_IMGKEY alone (R512,
R513). -/
def Obligations.CredentialsChangeByTheirCommands : Prop :=
  ∀ (c : Instr) (s t : State), exec c s = .next t →
    ((∀ i a k, c ≠ .enrollOp i a k ∧ c ≠ .revokeOp i a k) → t.mgmt.ops = s.mgmt.ops) ∧
    ((∀ i a k, c ≠ .revokeImgkey i a k) → (∀ i a k x y, c ≠ .enrollImgkey i a k x y) → t.imgKeys = s.imgKeys)

/-! ### Issue of Ifeom instructions -/

/-- An instruction whose guard is false has no effect but that issue goes on behind it (R258). -/
def Obligations.FalseGuardSkips : Prop :=
  ∀ (i : Instr) (f : Nat) (w : IWord) (m : Form) (s : State), ifeomForm i = some (f, w, m) →
    (s.face f).run = .issuing → (s.face f).pc < (s.face f).codeEnd → (s.face f).badWord (s.face f).pc (m.len + 1) = none →
    m.decodes w = true → guardTrue (s.face f) w = false →
    ∃ t, exec i s = .next t ∧ t.face f = { s.face f with pc := s.pcNext f m } ∧
      t.rd R.FCE_ISSUE_STAT.ISSUED f = s.rd R.FCE_ISSUE_STAT.ISSUED f ∧ s.Frame t [(R.FCE_STORE_ERR.CORRECTED, f)] [f]

/-- A face that issues nothing (no hand, END retired, or stalled) executes nothing (R242, R262). -/
def Obligations.OnlyIssuingFacesExecute : Prop :=
  ∀ (i : Instr) (f : Nat) (w : IWord) (m : Form) (s : State), ifeomForm i = some (f, w, m) → (s.face f).run ≠ .issuing → exec i s = .next s

/-- Words that no operation has, a CLASS or OP that is not assigned or a layout that is not met, raise the illegal-instruction trap with cause 1,
and an address at or beyond CODE_END with cause 4 (R242, R256, R257); of an instruction whose guard is false, a word that cannot be corrected
raises the uncorrectable-word trap with its address (R224, R251). -/
def Obligations.FetchAndDecodeTraps : Prop :=
  ∀ (i : Instr) (f : Nat) (w : IWord) (m : Form) (s : State), ifeomForm i = some (f, w, m) → (s.face f).run = .issuing →
    m.names w = true ∨ assigned w.cls w.op = false → (s.face f).handler ≠ .fault → Quiet s → ∀ target,
    ((s.face f).codeEnd ≤ (s.face f).pc → (s.face f).vector 8 = some target →
      ∃ t, exec i s = .next t ∧ FaultTrap s f 8 4#64 target t ∧ TrapRecord s f 8 4#64 t) ∧
    ((s.face f).pc < (s.face f).codeEnd → (s.face f).badWord (s.face f).pc (m.len + 1) = none → m.decodes w = false →
      (s.face f).vector 8 = some target →
      ∃ t, exec i s = .next t ∧ FaultTrap s f 8 1#64 target t ∧ TrapRecord s f 8 1#64 t) ∧
    (∀ a, (s.face f).pc < (s.face f).codeEnd → (s.face f).badWord (s.face f).pc (m.len + 1) = some a → m.decodes w = true →
      guardTrue (s.face f) w = false → (s.face f).vector 6 = some target →
      ∃ t, exec i s = .next t ∧ FaultTrap s f 6 (BitVec.ofNat 64 a) target t ∧
        t.rd R.FCE_STORE_ERR.UNCORRECTABLE f = min (s.rd R.FCE_STORE_ERR.UNCORRECTABLE f + 1) (2 ^ R.FCE_STORE_ERR.UNCORRECTABLE.wd - 1))

/-! ### The scalar class -/

/-- Scalar arithmetic: RD takes the operation's result on RA and RB, or on RA and the sign-extended IMM16, modulo 2^64; a write to s0 is
discarded and s0 reads 0 (R235, R264). -/
def Obligations.ScalarResults : Prop :=
  ∀ e ∈ scalarOps, ∀ (f : Nat) (w : IWord) (s : State),
    (Issues s f w (formRRR e.2.2.1) → ∃ t, exec (e.1 f w) s = .next t ∧
      setsRD s f w (formRRR e.2.2.1) (e.2.2.2 ((s.face f).sreg (fRA w)) ((s.face f).sreg (fRB w))) t) ∧
    (∀ c ∈ e.2.1, Issues s f w (formRRI (e.2.2.1 + 0x40)) → ∃ t, exec (c f w) s = .next t ∧
      setsRD s f w (formRRI (e.2.2.1 + 0x40)) (e.2.2.2 ((s.face f).sreg (fRA w)) ((w.ops.extractLsb' 16 16).signExtend 64)) t)

/-- The compares: PD takes the comparison of RA with RB, or with the sign-extended IMM16 (R264). -/
def Obligations.CompareResults : Prop :=
  ∀ e ∈ compareOps, ∀ (f : Nat) (w : IWord) (s : State),
    (Issues s f w (formPRR e.2.2.1) → ∃ t, exec (e.1 f w) s = .next t ∧
      setsPD s f w (formPRR e.2.2.1) (e.2.2.2 ((s.face f).sreg (fRA w)) ((s.face f).sreg (fRB w))) t) ∧
    (Issues s f w (formPRI (e.2.2.1 + 0x40)) → ∃ t, exec (e.2.1 f w) s = .next t ∧
      setsPD s f w (formPRI (e.2.2.1 + 0x40)) (e.2.2.2 ((s.face f).sreg (fRA w)) ((w.ops.extractLsb' 16 16).signExtend 64)) t)

/-- The predicate operations and TBIT: PAND, POR, PXOR and PNOT on predicates, and bit IMM16 mod 64 of RA. -/
def Obligations.PredicateResults : Prop :=
  ∀ (f : Nat) (w : IWord) (s : State),
    (Issues s f w (formPPP 0x0A0) → ∃ t, exec (.pand f w) s = .next t ∧
      setsPD s f w (formPPP 0x0A0) ((s.face f).preg (fPA w) && (s.face f).preg (fPB w)) t) ∧
    (Issues s f w (formPPP 0x0A1) → ∃ t, exec (.por f w) s = .next t ∧
      setsPD s f w (formPPP 0x0A1) ((s.face f).preg (fPA w) || (s.face f).preg (fPB w)) t) ∧
    (Issues s f w (formPPP 0x0A2) → ∃ t, exec (.pxor f w) s = .next t ∧
      setsPD s f w (formPPP 0x0A2) ((s.face f).preg (fPA w) != (s.face f).preg (fPB w)) t) ∧
    (Issues s f w (formPP 0x0A3) → ∃ t, exec (.pnot f w) s = .next t ∧
      setsPD s f w (formPP 0x0A3) (!(s.face f).preg (fPA w)) t) ∧
    (Issues s f w (formPRI 0x0A8) → ∃ t, exec (.tbit f w) s = .next t ∧
      setsPD s f w (formPRI 0x0A8) (((s.face f).sreg (fRA w)).getLsbD ((w.ops.extractLsb' 16 16).toNat % 64)) t)

/-- LI takes word 1, RRD the image of a range register, and RDS the special register SPEC; a SPEC of none of them raises the
illegal-instruction trap with cause 2 (R264). -/
def Obligations.ReadsIntoRD : Prop :=
  ∀ (f : Nat) (w : IWord) (s : State),
    (Issues s f w ⟨0x02, 0x080, 1, [(37, 5)], [(0, 64)], [], []⟩ → ∃ t, exec (.li f w) s = .next t ∧
      setsRD s f w ⟨0x02, 0x080, 1, [(37, 5)], [(0, 64)], [], []⟩ w.w1 t) ∧
    (Issues s f w ⟨0x03, 0x003, 0, [(37, 5), (28, 4)], [], [], []⟩ → ∃ t, exec (.rrd f w) s = .next t ∧
      setsRD s f w ⟨0x03, 0x003, 0, [(37, 5), (28, 4)], [], [], []⟩ ((s.face f).areg (opf w 28 4)) t) ∧
    (∀ v, (opf w 24 8, v) ∈ specialValue s f → Issues s f w ⟨0x02, 0x0B0, 0, [(37, 5), (24, 8)], [], [], []⟩ →
      ∃ t, exec (.rds f w) s = .next t ∧ setsRD s f w ⟨0x02, 0x0B0, 0, [(37, 5), (24, 8)], [], [], []⟩ v t) ∧
    (opf w 24 8 ∉ (specialValue s f).map (·.1) → Issues s f w ⟨0x02, 0x0B0, 0, [(37, 5), (24, 8)], [], [], []⟩ →
      (s.face f).handler ≠ .fault → ∀ target, (s.face f).vector 8 = some target →
      ∃ t, exec (.rds f w) s = .next t ∧ FaultTrap s f 8 2#64 target t)

/-- LD of a word with a valid code: RD takes the scratchpad word at RA + IMM16, and all of memory reads as before; a word stored poisoned is not
loaded but raises the uncorrectable-word trap with the address (R220, R265). -/
def Obligations.LoadResult : Prop :=
  ∀ (f : Nat) (w : IWord) (s : State), Issues s f w ldForm → WordClear s f w false →
    mget 0 (s.face f).fineLive ((wordAddr s f w).toNat / 128) = 0 →
    ((s.face f).padWord ((wordAddr s f w).toNat / 8)).flips = 0 →
    (((s.face f).padWord ((wordAddr s f w).toNat / 8)).poison = false → ∃ t, exec (.ld f w) s = .next t ∧
      AccessDone s f ldForm
        { (s.face f).setS (fRD w) ((s.face f).padWord ((wordAddr s f w).toNat / 8)).data with pc := s.pcNext f ldForm } [] t ∧
      (∀ j, (t.face f).padWord j = (s.face f).padWord j)) ∧
    (((s.face f).padWord ((wordAddr s f w).toNat / 8)).poison = true → (s.face f).handler ≠ .fault →
      ∀ target, (s.face f).vector 6 = some target → ∃ t, exec (.ld f w) s = .next t ∧ FaultTrap s f 6 (wordAddr s f w) target t ∧
        t.rd R.SPD_ERR.POISON_READ f = min (s.rd R.SPD_ERR.POISON_READ f + 1) (2 ^ R.SPD_ERR.POISON_READ.wd - 1))

/-- ST to a line that no slot of a window still awaits: the scratchpad word at RA + IMM16 takes RD with a valid code and no poison; every other
word reads as before (R265, R331). -/
def Obligations.StoreResult : Prop :=
  ∀ (f : Nat) (w : IWord) (s : State), Issues s f w stForm → WordClear s f w true → Unraced s f ((wordAddr s f w).toNat / 128) → s.injs = [] →
    ∃ t, exec (.st f w) s = .next t ∧
    AccessDone s f stForm
      { (s.face f).padPut ((wordAddr s f w).toNat / 8) ((s.face f).sreg (fRD w)) false with pc := s.pcNext f stForm } [] t ∧
    (t.face f).padWord ((wordAddr s f w).toNat / 8) = { data := (s.face f).sreg (fRD w), poison := false, flips := 0 } ∧
    ∀ j, j ≠ (wordAddr s f w).toNat / 8 → (t.face f).padWord j = (s.face f).padWord j

/-- LD and ST at an address that is not a multiple of 8, or is not populated, raise the range-fault trap with CHECK 8 or 2 (R265, R622). -/
def Obligations.WordAddressTraps : Prop :=
  ∀ (f : Nat) (w : IWord) (s : State) (target : Nat), (s.face f).handler ≠ .fault → (s.face f).vector 5 = some target →
    (2 ^ 25 ≤ (wordAddr s f w).toNat →
      (Issues s f w ldForm → ∃ t, exec (.ld f w) s = .next t ∧
        FaultTrap s f 5 (rangeInfo 2 5 0 ((wordAddr s f w).toNat % 2 ^ 48)) target t) ∧
      (Issues s f w stForm → ∃ t, exec (.st f w) s = .next t ∧
        FaultTrap s f 5 (rangeInfo 2 5 0 ((wordAddr s f w).toNat % 2 ^ 48)) target t)) ∧
    ((wordAddr s f w).toNat < 2 ^ 25 → (wordAddr s f w).toNat % 8 ≠ 0 →
      (Issues s f w ldForm → s.rangeCheck f (BitVec.ofNat 64 ((wordAddr s f w).toNat + 8 * 2 ^ 25)) 15 false = none →
        ∃ t, exec (.ld f w) s = .next t ∧ FaultTrap s f 5 (rangeInfo 8 5 0 (wordAddr s f w).toNat) target t) ∧
      (Issues s f w stForm → s.rangeCheck f (BitVec.ofNat 64 ((wordAddr s f w).toNat + 8 * 2 ^ 25)) 15 true = none →
        ∃ t, exec (.st f w) s = .next t ∧ FaultTrap s f 5 (rangeInfo 8 5 0 (wordAddr s f w).toNat) target t))

/-! ### Control flow -/

/-- NOP has no effect; BR goes to TARGET, JAL too with RD := pc + 1, JR to RA, below CODE_END; LSET sets a loop counter to RA + IMM32 modulo
2^32. -/
def Obligations.BranchResults : Prop :=
  ∀ (f : Nat) (w : IWord) (s : State),
    (Issues s f w (ctlForm 0 []) → ∃ t, exec (.nop f w) s = .next t ∧ goesTo s f (ctlForm 0 []) (s.pcNext f (ctlForm 0 [])) t) ∧
    (Issues s f w (ctlForm 1 [(0, 17)]) → fTarget w < (s.face f).codeEnd →
      ∃ t, exec (.br f w) s = .next t ∧ goesTo s f (ctlForm 1 [(0, 17)]) (fTarget w) t) ∧
    (Issues s f w (ctlForm 2 [(0, 17), (37, 5)]) → fTarget w < (s.face f).codeEnd → ∃ t, exec (.jal f w) s = .next t ∧
      Retires s f (ctlForm 2 [(0, 17), (37, 5)])
        { (s.face f).setS (fRD w) (BitVec.ofNat 64 ((s.face f).pc + 1)) with pc := fTarget w } t) ∧
    (Issues s f w (ctlForm 3 [(32, 5)]) → ((s.face f).sreg (fRA w)).toNat < (s.face f).codeEnd →
      ∃ t, exec (.jr f w) s = .next t ∧ goesTo s f (ctlForm 3 [(32, 5)]) ((s.face f).sreg (fRA w)).toNat t) ∧
    (Issues s f w (ctlForm 4 [(40, 2), (32, 5), (0, 32)]) → ∃ t, exec (.lset f w) s = .next t ∧
      Retires s f (ctlForm 4 [(40, 2), (32, 5), (0, 32)])
        { s.face f with l := mset 0 (s.face f).l (fL w) ((((s.face f).sreg (fRA w)).toNat + fIMM32 w) % 2 ^ 32)
                        pc := s.pcNext f (ctlForm 4 [(40, 2), (32, 5), (0, 32)]) } t)

/-- LBR decrements l_L and branches to TARGET if the result is not zero; if l_L is already 0 it neither decrements nor branches (R261). -/
def Obligations.LoopBranch : Prop :=
  ∀ (f : Nat) (w : IWord) (s : State), Issues s f w (ctlForm 5 [(40, 2), (0, 17)]) → fTarget w < (s.face f).codeEnd →
    (s.face f).lreg (fL w) < 2 ^ 32 →
    ∃ t, exec (.lbr f w) s = .next t ∧ Retires s f (ctlForm 5 [(40, 2), (0, 17)])
      (match (s.face f).lreg (fL w) with
       | 0 => { s.face f with pc := s.pcNext f (ctlForm 5 [(40, 2), (0, 17)]) }
       | 1 => { s.face f with l := mset 0 (s.face f).l (fL w) 0, pc := s.pcNext f (ctlForm 5 [(40, 2), (0, 17)]) }
       | n + 2 => { s.face f with l := mset 0 (s.face f).l (fL w) (n + 1), pc := fTarget w }) t

/-- BR, JAL and LBR with TARGET at or beyond CODE_END, and JR with such an RA, raise the illegal-instruction trap with cause 4 (R260). -/
def Obligations.BranchTraps : Prop :=
  ∀ (f : Nat) (w : IWord) (s : State) (target : Nat), (s.face f).handler ≠ .fault → (s.face f).vector 8 = some target →
    ((s.face f).codeEnd ≤ fTarget w →
      (Issues s f w (ctlForm 1 [(0, 17)]) → ∃ t, exec (.br f w) s = .next t ∧ FaultTrap s f 8 4#64 target t) ∧
      (Issues s f w (ctlForm 2 [(0, 17), (37, 5)]) → ∃ t, exec (.jal f w) s = .next t ∧ FaultTrap s f 8 4#64 target t) ∧
      (Issues s f w (ctlForm 5 [(40, 2), (0, 17)]) → ∃ t, exec (.lbr f w) s = .next t ∧ FaultTrap s f 8 4#64 target t)) ∧
    ((s.face f).codeEnd ≤ ((s.face f).sreg (fRA w)).toNat →
      Issues s f w (ctlForm 3 [(32, 5)]) → ∃ t, exec (.jr f w) s = .next t ∧ FaultTrap s f 8 4#64 target t)

/-- TWAIT stalls issue until device time min(RA, E), and does nothing when that is past; TWAIT_EXPIRY is that time's coming: issue goes on
behind the TWAIT (R262). -/
def Obligations.TimedWait : Prop :=
  ∀ (f : Nat) (w : IWord) (s : State),
    (Issues s f w (ctlForm 6 [(32, 5)]) →
      (s.now < min ((s.face f).sreg (fRA w)).toNat s.hand.expiry → ∃ t, exec (.twait f w) s = .next t ∧
        stallsAt s f (ctlForm 6 [(32, 5)]) (.twait (min ((s.face f).sreg (fRA w)).toNat s.hand.expiry)) t) ∧
      (min ((s.face f).sreg (fRA w)).toNat s.hand.expiry ≤ s.now → ∃ t, exec (.twait f w) s = .next t ∧
        goesTo s f (ctlForm 6 [(32, 5)]) ((s.face f).pc + 1) t)) ∧
    (∀ u, (s.face f).run = .stalled (.twait u) → ∃ t, exec (.twaitExpiry f) s = .next t ∧ t.now = max s.now u ∧
      t.face f = { s.face f with run := .issuing, pc := (s.face f).pc + 1 } ∧ s.Frame { t with now := s.now } [] [f])

/-- END with every operation of the hand completed retires, after the balance check outside a fault handler: the face issues nothing more,
and s31 is kept as the result; with operations outstanding it stalls; an RTE in a fault handler is executed as END, and neither then makes
the check (R23, R241, R242, R243, R249). -/
def Obligations.EndRetires : Prop :=
  ∀ (f : Nat) (w : IWord) (s : State),
    (Issues s f w (ctlForm 7 []) → (s.face f).drained = true → ((s.face f).handler = .fault ∨ s.imbalance f = none) →
      ∃ t, exec (.endProg f w) s = .next t ∧ Retires s f (ctlForm 7 [])
        { s.face f with run := .ended, endTime := some s.now, result := mget 0#64 (s.face f).s 31 } t) ∧
    (Issues s f w (ctlForm 7 []) → (s.face f).drained = false → ∃ t, exec (.endProg f w) s = .next t ∧ stallsAt s f (ctlForm 7 []) .ending t) ∧
    (Issues s f w (ctlForm 8 []) → (s.face f).drained = true → (s.face f).handler = .fault →
      ∃ t, exec (.rte f w) s = .next t ∧ Retires s f (ctlForm 8 [])
        { s.face f with run := .ended, endTime := some s.now, result := mget 0#64 (s.face f).s 31 } t)

/-- RTE in a warning or software handler resumes at TPC; a warning held during the handler is delivered instead, or else a software trap held
during it, with that TPC and its own TINFO (R249, R250); outside a handler RTE raises the illegal-instruction trap with cause 5 (R237). -/
def Obligations.HandlerReturn : Prop :=
  ∀ (f : Nat) (w : IWord) (s : State), Issues s f w (ctlForm 8 []) →
    (((s.face f).handler = .warning ∨ (s.face f).handler = .software) → (s.face f).heldWarn = false →
      ((s.face f).heldSoft = none → ∃ t, exec (.rte f w) s = .next t ∧
        Retires s f (ctlForm 8 []) { s.face f with handler := .none, pc := (s.face f).tpc } t) ∧
      (∀ v info target, (s.face f).heldSoft = some (v, info) → (s.face f).vector v = some target → ∃ t, exec (.rte f w) s = .next t ∧
        t.face f = { s.face f with heldSoft := none, tcause := v, tinfo := info, pc := target, handler := .software, run := .issuing } ∧
        t.rd R.FCE_TRAP_STAT.LAST_VECTOR f = v % 2 ^ 8 ∧ t.rd R.FCE_TRAP_STAT.VALID f = 1)) ∧
    (((s.face f).handler = .warning ∨ (s.face f).handler = .software) → (s.face f).heldWarn = true →
      ∀ target, (s.face f).vector 2 = some target → ∃ t, exec (.rte f w) s = .next t ∧
        t.face f = { s.face f with heldWarn := false, tcause := 2, tinfo := BitVec.ofNat 64 (s.hand.expiry - s.now), pc := target
                                   handler := .warning, run := .issuing }) ∧
    ((s.face f).handler = .none → ∀ target, (s.face f).vector 8 = some target →
      ∃ t, exec (.rte f w) s = .next t ∧ FaultTrap s f 8 5#64 target t)

/-- TRAP takes vector 32 + N as a software trap with TINFO IMM32 and TPC the next instruction; while a warning or software handler runs it is
held; with an invalid vector, or with one held already, it raises the illegal-instruction trap with cause 2 (R238, R250, R281). -/
def Obligations.SoftwareTrap : Prop :=
  ∀ (f : Nat) (w : IWord) (s : State), Issues s f w (sysForm 1 [(32, 5), (0, 32)]) →
    (∀ target, (s.face f).vector (32 + opf w 32 5) = some target → (s.face f).handler = .none → ∃ t, exec (.trap f w) s = .next t ∧
      t.face f = { s.face f with tcause := 32 + opf w 32 5, tinfo := BitVec.ofNat 64 (opf w 0 32), tpc := (s.face f).pc + 1, pc := target,
                                 handler := .software, run := .issuing } ∧
      t.rd R.FCE_TRAP_STAT.LAST_VECTOR f = 32 + opf w 32 5 ∧ t.rd R.FCE_TRAP_STAT.VALID f = 1 ∧
      s.Frame t (issueFields f ++ [(R.FCE_TRAP_STAT.LAST_VECTOR, f), (R.FCE_TRAP_STAT.LAST_PC, f), (R.FCE_TRAP_STAT.VALID, f)]) [f]) ∧
    (∀ target, (s.face f).vector (32 + opf w 32 5) = some target → (s.face f).handler ≠ .none → (s.face f).heldSoft = none →
      ∃ t, exec (.trap f w) s = .next t ∧ Retires s f (sysForm 1 [(32, 5), (0, 32)])
        { s.face f with heldSoft := some (32 + opf w 32 5, BitVec.ofNat 64 (opf w 0 32)), pc := (s.face f).pc + 1 } t) ∧
    (((s.face f).vector (32 + opf w 32 5) = none ∨ ((s.face f).handler ≠ .none ∧ (s.face f).heldSoft.isSome = true)) →
      (s.face f).handler ≠ .fault → ∀ target, (s.face f).vector 8 = some target →
      ∃ t, exec (.trap f w) s = .next t ∧ FaultTrap s f 8 2#64 target t)

/-- FENCE goes on when no operation issued before it to a queue of MASK (0: to any) is outstanding, and stalls until then (R280). -/
def Obligations.FenceResults : Prop :=
  ∀ (f : Nat) (w : IWord) (s : State), Issues s f w (sysForm 0 [(0, 6)]) → ∃ t, exec (.fence f w) s = .next t ∧
    if ((s.face f).queue ++ (s.face f).started).any
        (fun q => !q.discard && (decide (opf w 0 6 = 0) || (opf w 0 6).testBit q.eng.ctorIdx)) then
      stallsAt s f (sysForm 0 [(0, 6)]) (.fence (opf w 0 6)) t
    else goesTo s f (sysForm 0 [(0, 6)]) ((s.face f).pc + 1) t

/-! ### Range setup -/

/-- RSET, RSETI and RSLICE write the image of BASE, LEN and GROUPS into AD where the range is populated, at most 24 MiB long, and within the
groups named; a slice also lies within its source (R236, R266). -/
def Obligations.RangeResults : Prop :=
  ∀ (f : Nat) (w : IWord) (s : State),
    (∀ base len groups, base = ((s.face f).sreg (opf w 29 5)).toNat → len = ((s.face f).sreg (opf w 24 5)).toNat → groups = opf w 0 4 →
      Issues s f w rsetForm → RangeOk base len groups → ∃ t, exec (.rset f w) s = .next t ∧ setsRange s f w rsetForm base len groups t) ∧
    (∀ base len groups, base = fget w.w1 0 25 → len = fget w.w1 25 25 → groups = fget w.w1 50 4 → fget w.w1 54 10 = 0 →
      Issues s f w rsetiForm → RangeOk base len groups → ∃ t, exec (.rseti f w) s = .next t ∧ setsRange s f w rsetiForm base len groups t) ∧
    (∀ src base len groups, src = (s.face f).areg (opf w 34 4) → base = fget src 0 25 + ((s.face f).sreg (opf w 29 5)).toNat →
      len = ((s.face f).sreg (opf w 24 5)).toNat → groups = fget src 50 4 →
      ((s.face f).sreg (opf w 29 5)).toNat + len ≤ fget src 25 25 →
      Issues s f w rsliceForm → RangeOk base len groups → ∃ t, exec (.rslice f w) s = .next t ∧ setsRange s f w rsliceForm base len groups t)

/-- A length of 0 in RSET or RSETI, and a slice that leaves its source in RSLICE, raise the range-fault trap with CHECK 6 and leave AD
unchanged (R266, R622). -/
def Obligations.RangeTraps : Prop :=
  ∀ (f : Nat) (w : IWord) (s : State) (target : Nat), (s.face f).handler ≠ .fault → (s.face f).vector 5 = some target →
    (Issues s f w rsetForm → ((s.face f).sreg (opf w 24 5)).toNat = 0 →
      ∃ t, exec (.rset f w) s = .next t ∧ FaultTrap s f 5 (rangeInfo 6 1 (fAL w) 0) target t) ∧
    (Issues s f w rsetiForm → fget w.w1 25 25 = 0 →
      ∃ t, exec (.rseti f w) s = .next t ∧ FaultTrap s f 5 (rangeInfo 6 1 (fAL w) 0) target t) ∧
    (∀ src, src = (s.face f).areg (opf w 34 4) → Issues s f w rsliceForm →
      fget src 25 25 < ((s.face f).sreg (opf w 29 5)).toNat + ((s.face f).sreg (opf w 24 5)).toNat →
      fget src 0 25 + ((s.face f).sreg (opf w 29 5)).toNat + ((s.face f).sreg (opf w 24 5)).toNat ≤ 0x1800000 →
      ∃ t, exec (.rslice f w) s = .next t ∧ FaultTrap s f 5 (rangeInfo 6 1 (fAL w) 0) target t)

/-! ### Counters, tricks and signals -/

/-- SIG adds N = RA + IMM16 to counter K of its face and DEBIT takes it away; a value below 0 or above the ceiling is a revoke, which leaves
the counter, is counted, and traps with vector 3 and the image of R623 (R276, R312). -/
def Obligations.CounterResults : Prop :=
  ∀ e ∈ [(Instr.sig, 0x000, (1 : Int)), (Instr.debit, 0x004, -1)], ∀ (f : Nat) (w : IWord) (s : State) (n : Nat) (v : Int),
    Issues s f w (formKN e.2.1) → (s.face f).declares (fK w) = true →
    n = (((s.face f).sreg (opf w 27 5)).toNat + opf w 0 16) % 2 ^ 32 → v = ((mget {} (s.face f).ctr (fK w)).value : Int) + e.2.2 * n →
    (0 ≤ v ∧ v ≤ ((mget {} (s.face f).ctr (fK w)).ceil : Int) → ∃ t, exec (e.1 f w) s = .next t ∧
      Retires s f (formKN e.2.1) { s.face f with
        ctr := mset {} (s.face f).ctr (fK w) { mget {} (s.face f).ctr (fK w) with value := v.toNat }, pc := s.pcNext f (formKN e.2.1) } t) ∧
    (v < 0 ∨ ((mget {} (s.face f).ctr (fK w)).ceil : Int) < v → (s.face f).handler ≠ .fault → ∀ target, (s.face f).vector 3 = some target →
      ∃ t, exec (e.1 f w) s = .next t ∧ FaultTrap s f 3 (revokeImage (fK w) false 0 s.devAddr f (e.2.2 * n)) target t ∧
        t.rd R.SYN_FACE_STAT.REVOKES f = min (s.rd R.SYN_FACE_STAT.REVOKES f + 1) (2 ^ R.SYN_FACE_STAT.REVOKES.wd - 1))

/-- WAIT takes N from counter K when the counter holds it, and else stalls issue until it does (R276). -/
def Obligations.WaitResults : Prop :=
  ∀ (f : Nat) (w : IWord) (s : State) (n : Nat), Issues s f w (formKN 0x003) → (s.face f).declares (fK w) = true →
    n = (((s.face f).sreg (opf w 27 5)).toNat + opf w 0 16) % 2 ^ 32 → n ≤ (mget {} (s.face f).ctr (fK w)).ceil →
    (mget {} (s.face f).ctr (fK w)).value ≤ (mget {} (s.face f).ctr (fK w)).ceil →
    (n ≤ (mget {} (s.face f).ctr (fK w)).value → ∃ t, exec (.wait f w) s = .next t ∧ Retires s f (formKN 0x003)
      { s.face f with ctr := mset {} (s.face f).ctr (fK w)
                        { mget {} (s.face f).ctr (fK w) with value := (mget {} (s.face f).ctr (fK w)).value - n }
                      pc := (s.face f).pc + 1 } t) ∧
    ((mget {} (s.face f).ctr (fK w)).value < n → ∃ t, exec (.wait f w) s = .next t ∧ stallsAt s f (formKN 0x003) (.wait (fK w) n) t)

/-- A counter that the program does not declare, and a WAIT above the ceiling, raise the illegal-instruction trap with cause 2 (R276). -/
def Obligations.CounterTraps : Prop :=
  ∀ (f : Nat) (w : IWord) (s : State) (target : Nat), (s.face f).handler ≠ .fault → (s.face f).vector 8 = some target →
    ((s.face f).declares (fK w) = false →
      (∀ e ∈ [(Instr.sig, 0x000), (Instr.debit, 0x004), (Instr.wait, 0x003)], Issues s f w (formKN e.2) →
        ∃ t, exec (e.1 f w) s = .next t ∧ FaultTrap s f 8 2#64 target t) ∧
      (Issues s f w (syncForm 0x008 [(32, 10)]) → ∃ t, exec (.doorbell f w) s = .next t ∧ FaultTrap s f 8 2#64 target t)) ∧
    ((mget {} (s.face f).ctr (fK w)).ceil < (((s.face f).sreg (opf w 27 5)).toNat + opf w 0 16) % 2 ^ 32 → Issues s f w (formKN 0x003) →
      ∃ t, exec (.wait f w) s = .next t ∧ FaultTrap s f 8 2#64 target t)

/-- DOORBELL records the counter's value for publication (R278); BAL goes on where every checked counter holds its entry value and no play is
unreleased, and else takes the revoke trap with ORIGIN 5 (R243, R276); SIGF offers its signals to the call ring, one for each face of FMASK in
order, with the amount RA + IMM16 (R271, R276). -/
def Obligations.SignalResults : Prop :=
  ∀ (f : Nat) (w : IWord) (s : State),
    (Issues s f w (syncForm 0x008 [(32, 10)]) → (s.face f).declares (fK w) = true → ∃ t, exec (.doorbell f w) s = .next t ∧
      Retires s f (syncForm 0x008 [(32, 10)]) { s.face f with
        ctr := mset {} (s.face f).ctr (fK w) { mget {} (s.face f).ctr (fK w) with bell := some (mget {} (s.face f).ctr (fK w)).value }
        pc := s.pcNext f (syncForm 0x008 [(32, 10)]) } t) ∧
    (Issues s f w (syncForm 0x007 []) →
      ((∀ e ∈ (s.face f).ctr, e.2.declared = true → e.2.check = true → e.2.value = e.2.entry) →
        (∀ e ∈ (s.face f).handles, e.2.listed = true → e.2.play = none) →
        ∃ t, exec (.bal f w) s = .next t ∧ goesTo s f (syncForm 0x007 []) (s.pcNext f (syncForm 0x007 [])) t) ∧
      (∀ img target, s.imbalance f = some img → (s.face f).handler ≠ .fault → (s.face f).vector 3 = some target →
        ∃ t, exec (.bal f w) s = .next t ∧ FaultTrap s f 3 img target t)) ∧
    (Issues s f w sigfForm → opf w 16 8 < 2 ^ s.nFaces → ((opf w 16 8).testBit f = true → (s.face f).declares (fK w) = true) →
      ∃ t, exec (.sigf f w) s = .next t ∧ Counted s f sigfForm t ∧ t.face f = { s.face f with pc := s.pcNext f sigfForm } ∧
        t.ring = s.ring ++ ((List.range 8).filter (fun d => (opf w 16 8).testBit d)).map
          (fun d => .sig f d (fK w) ((((s.face f).sreg (opf w 27 5)).toNat + opf w 0 16) % 2 ^ 32)) ∧
        s.Frame { t with ring := s.ring } (issueFields f) [f])

/-- The face after a play on handle T: the play is the hand's, and unreleased (R319). -/
def played (s : State) (f : Nat) (w : IWord) : Face :=
  { s.face f with handles := mset {} (s.face f).handles (fT w) { mget {} (s.face f).handles (fT w) with play := some s.playHand, played := true, pc := (s.face f).pc }
                  pc := s.pcNext f (syncForm 0x005 [(34, 8)]) }

/-- PLAY on a die trick: with its home on another face the play goes over the call ring; at home it counts, short of PARTIES; on a domain trick
of another manager it goes to the manager with the hand number. A handle that the program does not list is illegal with cause 3, and a second
play on a trick before the release of the first, through whichever handle, a revoke (R319, R320, R322). -/
def Obligations.PlayResults : Prop :=
  ∀ (f : Nat) (w : IWord) (s : State) (h : Handle), Issues s f w (syncForm 0x005 [(34, 8)]) → h = mget {} (s.face f).handles (fT w) →
    (h.listed = true → (∀ g ∈ (s.face f).sameTrick h, g.play = none) → h.domain = false → s.rd R.SYN_TRICK_CFG.PARTIES h.trick ≠ 0 →
      (s.rd R.SYN_TRICK_CFG.HOME h.trick ≠ f → ∃ t, exec (.play f w) s = .next t ∧ Counted s f (syncForm 0x005 [(34, 8)]) t ∧
        t.face f = played s f w ∧ t.ring = s.ring ++ [.play f (s.rd R.SYN_TRICK_CFG.HOME h.trick) h.trick] ∧
        s.Frame { t with ring := s.ring } (issueFields f) [f]) ∧
      (s.rd R.SYN_TRICK_CFG.HOME h.trick = f → s.rd R.SYN_TRICK_CFG.COUNT h.trick + 1 < s.rd R.SYN_TRICK_CFG.PARTIES h.trick →
        ∃ t, exec (.play f w) s = .next t ∧ Counted s f (syncForm 0x005 [(34, 8)]) t ∧ t.face f = played s f w ∧
          t.rd R.SYN_TRICK_CFG.COUNT h.trick = s.rd R.SYN_TRICK_CFG.COUNT h.trick + 1 ∧
          t.plays = mset [] s.plays h.trick (mget [] s.plays h.trick ++ [f]) ∧
          s.Frame { t with plays := s.plays } (issueFields f ++ [(R.SYN_TRICK_CFG.COUNT, h.trick)]) [f])) ∧
    (h.listed = true → (∀ g ∈ (s.face f).sameTrick h, g.play = none) → h.domain = true → s.isManager = false →
      ∀ p d, s.route s.manager = some (p, d) → s.rd R.LNK_PORT_STATE.STATE p = 4 → ∃ t, exec (.play f w) s = .next t ∧
      Counted s f (syncForm 0x005 [(34, 8)]) t ∧ t.face f = played s f w ∧
      t.out = s.out ++ [.ctl p s.manager s.devAddr (.play h.trick s.playHand)] ∧
      s.Frame { t with out := s.out, ports := s.ports } (issueFields f) [f]) ∧
    (h.listed = false → (s.face f).handler ≠ .fault → ∀ target, (s.face f).vector 8 = some target →
      ∃ t, exec (.play f w) s = .next t ∧ FaultTrap s f 8 3#64 target t) ∧
    (h.listed = true → (∃ g ∈ (s.face f).sameTrick h, g.play ≠ none) → (s.face f).handler ≠ .fault → ∀ target, (s.face f).vector 3 = some target →
      ∃ t, exec (.play f w) s = .next t ∧ FaultTrap s f 3 (revokeImage (fT w) true 0 s.devAddr f 1) target t)

/-- WAITT goes on when no play of the face on its trick is unreleased, and else stalls; without a play in this hand it is a revoke of amount 0, and
with a handle that is not listed illegal with cause 3 (R319, R320). -/
def Obligations.TrickWaitResults : Prop :=
  ∀ (f : Nat) (w : IWord) (s : State) (h : Handle), Issues s f w (syncForm 0x006 [(34, 8)]) → h = mget {} (s.face f).handles (fT w) →
    (h.listed = true → (∃ g ∈ (s.face f).sameTrick h, g.played = true) →
      ((∀ g ∈ (s.face f).sameTrick h, g.play = none) → ∃ t, exec (.waitt f w) s = .next t ∧ goesTo s f (syncForm 0x006 [(34, 8)]) ((s.face f).pc + 1) t) ∧
      ((∃ g ∈ (s.face f).sameTrick h, g.play ≠ none) → ∃ t, exec (.waitt f w) s = .next t ∧ stallsAt s f (syncForm 0x006 [(34, 8)]) (.waitt (fT w)) t)) ∧
    (h.listed = true → (∀ g ∈ (s.face f).sameTrick h, g.played = false) → (s.face f).handler ≠ .fault → ∀ target, (s.face f).vector 3 = some target →
      ∃ t, exec (.waitt f w) s = .next t ∧ FaultTrap s f 3 (revokeImage (fT w) true 0 s.devAddr f 0) target t) ∧
    (h.listed = false → (s.face f).handler ≠ .fault → ∀ target, (s.face f).vector 8 = some target →
      ∃ t, exec (.waitt f w) s = .next t ∧ FaultTrap s f 8 3#64 target t)

/-! ### Operations enter their queues -/

/-- The moves within the die, to and from HBM and the stockpile, over a fabric port, and SIGR: with CTR in order and the checks of R267 to R274
and R277 passed, each takes its place in the mover's queue with its operands as they stand at issue. -/
def Obligations.MovesQueue : Prop :=
  ∀ (f : Nat) (w : IWord) (s : State) (x : Face) (al ar : Word) (a : Nat), x = s.face f → al = x.areg (opf w 38 4) → ar = x.areg (opf w 34 4) →
    a = (x.sreg (fget w.w1 48 5) + BitVec.ofNat 64 (fget w.w1 0 48)).toNat → (fCEN w = true → x.declares (opf w 24 10) = true) →
    (Issues s f w movlForm → rngLen al = rngLen ar → AllPass [portFail s f al 15 false 1 (fAL w), lineFail al 1 (fAL w),
        portFail s f ar 15 true 2 (fAR w), lineFail ar 2 (fAR w)] → Room s f .mover [(al, false), (ar, true)] →
      ∃ t, exec (.movl f w) s = .next t ∧ Queues s f movlForm (mkOp s x .mover 4 0 w) [(al, false), (ar, true)] t) ∧
    (∀ rows stride, Issues s f w movfForm → rows = max 1 (fget w.w1 0 16) → stride = fget w.w1 16 24 → opf w 14 8 < 2 ^ s.nFaces →
        stride % 128 = 0 → rngLen al % rows = 0 → rngLen al / rows % 128 = 0 → rngLen ar = (rows - 1) * stride + rngLen al / rows →
        AllPass [portFail s f al 15 false 1 (fAL w), lineFail al 1 (fAL w), lineFail ar 2 (fAR w)] →
        ((opf w 14 8).testBit f = true → portFail s f ar 15 true 2 (fAR w) = none) → remoteFail s f (opf w 14 8) ar 2 (fAR w) = none →
        Room s f .mover (if (opf w 14 8).testBit f then [(al, false), (ar, true)] else [(al, false)]) →
      ∃ t, exec (.movf f w) s = .next t ∧ Queues s f movfForm (mkOp s x .mover 4 1 w)
        (if (opf w 14 8).testBit f then [(al, false), (ar, true)] else [(al, false)]) t) ∧
    (s.stackOn (hStack a) = true → (if hStack a = s.home f then x.uses 6 else x.uses (8 + hStack a)) = true → a % 128 = 0 →
      (Issues s f w hrdForm → AllPass [portFail s f al 15 true 1 (fAL w), lineFail al 1 (fAL w)] → Room s f .mover [(al, true)] →
        ∃ t, exec (.hrd f w) s = .next t ∧ Queues s f hrdForm { mkOp s x .mover 4 2 w with sc := BitVec.ofNat 64 a } [(al, true)] t) ∧
      (Issues s f w hwrForm → AllPass [portFail s f al 15 false 1 (fAL w), lineFail al 1 (fAL w)] → Room s f .mover [(al, false)] →
        ∃ t, exec (.hwr f w) s = .next t ∧ Queues s f hwrForm { mkOp s x .mover 4 3 w with sc := BitVec.ofNat 64 a } [(al, false)] t) ∧
      (Issues s f w hgatherForm → fget w.w2 0 24 % 128 = 0 → rngLen al = rngLen ar / 4 * fget w.w2 0 24 →
        AllPass [portFail s f al 15 true 1 (fAL w), lineFail al 1 (fAL w), portFail s f ar 15 false 2 (fAR w), lineFail ar 2 (fAR w)] →
        Room s f .mover [(ar, false), (al, true)] →
        ∃ t, exec (.hgather f w) s = .next t ∧
          Queues s f hgatherForm { mkOp s x .mover 4 4 w with sc := BitVec.ofNat 64 a } [(ar, false), (al, true)] t)) ∧
    (x.uses 4 = true → s.domOn 29 = true → Room s f .mover [] →
      (Issues s f w (stockForm 5) → ∃ t, exec (.stkout f w) s = .next t ∧
        Queues s f (stockForm 5) { mkOp s x .mover 4 5 w with sc := x.sreg (fget w.w1 0 5) } [] t) ∧
      (Issues s f w (stockForm 6) → ∃ t, exec (.stkin f w) s = .next t ∧
        Queues s f (stockForm 6) { mkOp s x .mover 4 6 w with sc := x.sreg (fget w.w1 0 5) } [] t)) ∧
    (Issues s f w sendForm → PortOk s x (opf w 35 3) → fCEN w = true → fget w.w1 23 25 % 128 = 0 →
      AllPass [portFail s f al 15 false 1 (fAL w), lineFail al 1 (fAL w)] → Room s f .mover [(al, false)] →
      ∃ t, exec (.send f w) s = .next t ∧ Queues s f sendForm (mkOp s x .mover 4 16 w) [(al, false)] t) ∧
    (Issues s f w sigrForm → PortOk s x (fget w.w1 16 3) → Room s f .mover [] →
      ∃ t, exec (.sigr f w) s = .next t ∧ Queues s f sigrForm
        { mkOp s x .mover 0x10 2 w with sc := BitVec.ofNat 64 ((x.sreg (opf w 27 5)).toNat + opf w 0 16) } [] t)

/-- SLOT, PLIST and DEAL take their place in the serving queue, where the dealer is powered and declared and their ranges pass (R279). -/
def Obligations.ServingOpsQueue : Prop :=
  ∀ (f : Nat) (w : IWord) (s : State) (x : Face) (al ar : Word), x = s.face f → al = x.areg (opf w 38 4) → ar = x.areg (opf w 34 4) →
    (fCEN w = true → x.declares (opf w 24 10) = true) → x.uses 4 = true → s.domOn 29 = true →
    (Issues s f w (serveForm 0 [(0, 16)]) → portFail s f al 15 true 1 (fAL w) = none → Room s f .serving [(al, true)] →
      ∃ t, exec (.slot f w) s = .next t ∧ Queues s f (serveForm 0 [(0, 16)]) (mkOp s x .serving 0x11 0 w) [(al, true)] t) ∧
    (Issues s f w (serveForm 1 [(0, 16)]) → opf w 0 16 < 2 → 0xC00000 ≤ rngBase al → portFail s f al 15 true 1 (fAL w) = none →
      Room s f .serving [(al, true)] →
      ∃ t, exec (.plist f w) s = .next t ∧ Queues s f (serveForm 1 [(0, 16)]) (mkOp s x .serving 0x11 1 w) [(al, true)] t) ∧
    (Issues s f w (serveForm 2 [(34, 4), (0, 16)]) → portFail s f al 15 false 1 (fAL w) = none →
      portFail s f ar 15 false 2 (fAR w) = none → 128 ≤ rngLen ar → Room s f .serving [(al, false), (ar, false)] →
      ∃ t, exec (.deal f w) s = .next t ∧
        Queues s f (serveForm 2 [(34, 4), (0, 16)]) (mkOp s x .serving 0x11 2 w) [(al, false), (ar, false)] t)

/-- An engine instruction whose unit is not powered raises the absent-unit trap with the unit's code, and one whose unit the program does not
declare the illegal-instruction trap with cause 6 (R233, R237, R284). -/
def Obligations.EngineUnitTraps : Prop :=
  ∀ e ∈ engineOps, ∀ (f : Nat) (w : IWord) (s : State) (target : Nat), Issues s f w e.2.1 → (s.face f).handler ≠ .fault →
    (e.2.2.2.2 s f = false → (s.face f).vector 4 = some target →
      ∃ t, exec (e.1 f w) s = .next t ∧ FaultTrap s f 4 (BitVec.ofNat 64 e.2.2.1) target t) ∧
    (e.2.2.2.2 s f = true → (s.face f).uses e.2.2.2.1 = false → (s.face f).vector 8 = some target →
      ∃ t, exec (e.1 f w) s = .next t ∧ FaultTrap s f 8 6#64 target t)

/-- MVM, APROG and AREAD take their place in the array queue, with the map of the weight set, its arrays and the pins as they stand at issue, where the weight set, the
shape, the grant and the ranges pass their checks (R288, R294, R298). -/
def Obligations.ArrayOpsQueue : Prop :=
  ∀ (f : Nat) (w : IWord) (s : State) (x : Face) (al ar : Word) (ws : Nat), x = s.face f → al = x.areg (opf w 38 4) → ar = x.areg (opf w 34 4) →
    ws = fget w.w1 0 12 → UnitOk s f w 0 State.arrayOn →
    (∀ k n bl irec orec ist ost v live, Issues s f w mvmForm → k = s.ws R.ARF_WSMAP_LO.K f ws → n = s.ws R.ARF_WSMAP_LO.N f ws →
      bl = s.ws R.ARF_WSMAP_LO.BLOCKS f ws → irec = recordLen (tileLen k bl (s.ws R.ARF_WSMAP_LO.ROWS_LAST f ws)) →
      orec = outRowLen n (s.ws R.ARF_WSMAP_LO.COLS_LAST f ws) (if opf w 20 1 = 1 then 1 else 2) →
      ist = (if fget w.w2 20 12 = 0 then irec else fget w.w2 20 12 * 128) →
      ost = (if fget w.w2 32 12 = 0 then orec else fget w.w2 32 12 * 128) →
      v = fget w.w1 20 13 → live = s.ws R.ARF_WSMAP_LO.LIVE f ws →
      fget w.w1 12 8 ≤ 128 → 0 < v → v ≤ 4096 → opf w 18 2 < 2 → (opf w 20 1 = 1 → (ofBf16 (fget w.w1 33 16)).isFin = true) →
      irec ≤ ist → orec ≤ ost → x.lists ws = true → s.wsReady f ws = true →
      fget w.w2 0 7 = k → fget w.w2 7 7 = n → fget w.w2 14 6 = bl →
      (opf w 17 1 = 0 → 0 < s.rd R.ARF_SPALL.COUNT (spallIx f ws live) → s.rd R.ARF_SPALL.LOADED (spallIx f ws live) ≠ 0) →
      (v - 1) * ist + irec ≤ rngLen al → (v - 1) * ost + orec ≤ rngLen ar → sharesLine ar al = false →
      portFail s f al 3 false 1 (fAL w) = none → portFail s f ar 3 true 2 (fAR w) = none → Room s f .array [(al, false), (ar, true)] →
      ∃ t, exec (.mvm f w) s = .next t ∧ Queues s f mvmForm
        { mkOp s x .array 8 0 w with mapLo := s.reg .ARF_WSMAP_LO (ix 4096 f ws), mapHi := s.reg .ARF_WSMAP_HI (ix 4096 f ws)
                                     spall := s.reg .ARF_SPALL (spallIx f ws live), arrs := s.tileArrays f ws live
                                     pin := s.pinOf f (s.ws R.ARF_WSMAP_LO.LAYER f ws), pin3 := s.tilePinned f ws live }
        [(al, false), (ar, true)] t) ∧
    (Issues s f w aprogForm → s.granted f ws (fget w.w1 12 1) = true → fget w.w1 13 12 < s.copyArrays f ws → rngLen al = 33408 →
      rngBase ar % 128 = 0 → rngLen ar = 128 → sharesLine ar al = false → portFail s f al 3 false 1 (fAL w) = none →
      portFail s f ar 3 true 2 (fAR w) = none → Room s f .array [(al, false), (ar, true)] →
      ∃ t, exec (.aprog f w) s = .next t ∧ Queues s f aprogForm (mkOp s x .array 8 16 w) [(al, false), (ar, true)] t) ∧
    (∀ b, Issues s f w areadForm → s.ws R.ARF_WSMAP_LO.VALID f ws = 1 →
      (s.ws R.ARF_WSMAP_LO.LIVE f ws = fget w.w1 12 1 ∨
        (if fget w.w1 12 1 = 0 then s.ws R.ARF_WSMAP_LO.A_READY f ws else s.ws R.ARF_WSMAP_LO.B_READY f ws) = 1) →
      s.granted f ws (fget w.w1 12 1) = false → fget w.w1 13 12 < s.copyArrays f ws → rngLen al = (if opf w 22 1 = 1 then 128 else 32896) →
      portFail s f al 3 true 1 (fAL w) = none → Room s f .array [(al, true)] → b = s.copySlot f ws (fget w.w1 12 1) (fget w.w1 13 12) →
      ∃ t, exec (.aread f w) s = .next t ∧ Queues s f areadForm
        { mkOp s x .array 8 17 w with sc := BitVec.ofNat 64 (b.1 * 256 + (s.slotPhys f b.1 b.2).getD 255)
                                      mapLo := s.reg .ARF_WSMAP_LO (ix 4096 f ws) } [(al, true)] t)

/-- FINE, SCORE and APPEND take their place in their queues where the formats, dimensions, strides and ranges pass their checks (R300, R301,
R303, R304). -/
def Obligations.FineAndScoreQueue : Prop :=
  ∀ (f : Nat) (w : IWord) (s : State) (x : Face) (al ar : Word), x = s.face f → al = x.areg (opf w 38 4) → ar = x.areg (opf w 34 4) →
    (∀ fa fb fo m n k la lb lc c p, ∀ any : Bool, Issues s f w fineForm → UnitOk s f w 1 State.engOn → fa = opf w 21 2 → fb = opf w 19 2 →
      fo = opf w 17 2 → m = fget w.w1 8 16 → n = fget w.w1 24 17 → k = fget w.w1 41 17 → la = 128 * fget w.w2 0 16 →
      lb = 128 * fget w.w2 16 16 → lc = 128 * fget w.w2 32 16 → c = x.areg (fget w.w1 0 4) → p = x.areg (fget w.w1 4 4) →
      any = (decide (opf w 16 1 = 1) || decide (opf w 15 1 = 1) || decide (opf w 14 1 = 1)) →
      finePair fa fb = true → 0 < m → 0 < n → 0 < k → opf w 12 2 < 2 → (fget w.w1 4 4 ≠ 0 → any = true) →
      k * fineBytes fa ≤ la → n * fineBytes fb ≤ lb → n * fineOutBytes fo ≤ lc →
      (m - 1) * la + k * fineBytes fa ≤ rngLen al → (k - 1) * lb + n * fineBytes fb ≤ rngLen ar → (m - 1) * lc + n * fineOutBytes fo ≤ rngLen c →
      (any = true → (fineParams (decide (opf w 16 1 = 1)) (decide (opf w 15 1 = 1)) (decide (opf w 14 1 = 1)) m n).2.2.2 ≤ rngLen p ∧
        portFail s f p 6 false 4 (fget w.w1 4 4) = none ∧ sharesLine c p = false) →
      AllPass [portFail s f al 6 false 1 (fAL w), portFail s f ar 6 false 2 (fAR w), portFail s f c 6 true 3 (fget w.w1 0 4)] →
      sharesLine c al = false → sharesLine c ar = false →
      Room s f .fine ([(al, false), (ar, false)] ++ (if any then [(p, false)] else []) ++ [(c, true)]) →
      ∃ t, exec (.fine f w) s = .next t ∧ Queues s f fineForm { mkOp s x .fine 9 0 w with ra3 := c, ra4 := p }
        ([(al, false), (ar, false)] ++ (if any then [(p, false)] else []) ++ [(c, true)]) t) ∧
    (∀ rows o, Issues s f w scoreForm → UnitOk s f w 2 State.engOn → scoreBad w false = false →
      rows = fget w.w1 23 13 * fget w.w1 16 7 * 2 * (32 * (opf w 19 3 + 1)) → o = x.areg (opf w 8 4) → rows ≤ rngLen ar → rows ≤ rngLen o →
      rngLen al % 16 = 0 → AllPass [portFail s f al 12 false 1 (fAL w), portFail s f ar 12 false 2 (fAR w), portFail s f o 12 true 3 (opf w 8 4)] →
      sharesLine o al = false → sharesLine o ar = false → Room s f .score [(al, false), (ar, false), (o, true)] →
      ∃ t, exec (.score f w) s = .next t ∧
        Queues s f scoreForm { mkOp s x .score 10 0 w with ra3 := o } [(al, false), (ar, false), (o, true)] t) ∧
    (∀ rows o, Issues s f w appendForm → UnitOk s f w 2 State.engOn → scoreBad w true = false →
      rows = fget w.w1 23 13 * 2 * (32 * (opf w 19 3 + 1)) → o = x.areg (opf w 8 4) → rows ≤ rngLen ar → rows ≤ rngLen o → rngLen al % 16 = 0 →
      AllPass [portFail s f al 12 false 1 (fAL w), portFail s f ar 12 false 2 (fAR w), portFail s f o 12 false 3 (opf w 8 4)] →
      Room s f .score [(al, false), (ar, false), (o, false)] →
      ∃ t, exec (.append f w) s = .next t ∧
        Queues s f appendForm { mkOp s x .score 10 1 w with ra3 := o } [(al, false), (ar, false), (o, false)] t)

/-- Each of the twenty vector operations takes its place in the vector queue where its row of the table of R306 is met: formats, mode, rows,
columns, the operands it uses, their lengths, and the parameters (R305 to R308). -/
def Obligations.VectorOpsQueue : Prop :=
  ∀ e ∈ vopOps, ∀ (f : Nat) (w : IWord) (s : State) (x : Face) (a b z : Word) (r : VopRow) (fi fo mode rows cols kt : Nat),
    Issues s f w (vopForm e.2) → UnitOk s f w 3 State.engOn → x = s.face f → a = x.areg (opf w 38 4) → b = x.areg (opf w 34 4) →
    z = x.areg (opf w 19 4) → r = vopRow e.2 → fi = opf w 16 3 → fo = opf w 13 3 → mode = opf w 8 5 → rows = fget w.w1 0 16 →
    cols = fget w.w1 16 16 → kt = fget w.w2 32 5 → r.inOk fi = true → r.outOk fo = true → r.modeOk mode = true → 0 < rows → 0 < cols →
    (r.useX = false → opf w 38 4 = 0) → (r.useY = false → opf w 34 4 = 0) → (r.useZ = false → opf w 19 4 = 0) →
    (if e.2 = 16 then 0 < kt ∧ kt ≤ 16 ∧ cols ≤ 512 else kt = 0) → (e.2 = 17 ∨ e.2 = 18 → cols ≤ 4096) → (e.2 = 19 → rows = 1) →
    (e.2 = 15 → (mode = 0 → fi = 4) ∧ (mode = 1 → fi = 3)) →
    (r.params ≠ 0 → fget w.w1 32 14 + r.params * cols ≤ 16384) →
    (r.useX = true → vopReach fi rows cols ≤ rngLen a ∧ portFail s f a 15 false 1 (fAL w) = none) →
    (r.useY = true → vopReach fi rows cols ≤ rngLen b ∧ portFail s f b 15 false 2 (fAR w) = none) →
    (r.useZ = true → vopOutReach e.2 fo rows cols ≤ rngLen z ∧ portFail s f z 15 true 3 (opf w 19 4) = none) →
    (r.useX = true → r.useZ = true → sharesLine z a = false ∨ (r.inPlace = true ∧ vopBytes fi = vopBytes fo ∧
      rngBase a = rngBase z ∧ rngLen a = rngLen z)) →
    (r.useY = true → r.useZ = true → sharesLine z b = false ∨ (r.inPlace = true ∧ vopBytes fi = vopBytes fo ∧
      rngBase b = rngBase z ∧ rngLen b = rngLen z)) →
    ∀ rs, rs = (if r.useX then [(a, false)] else []) ++ (if r.useY then [(b, false)] else []) ++ (if r.useZ then [(z, true)] else []) →
    Room s f .vector rs →
    ∃ t, exec (e.1 f w) s = .next t ∧ Queues s f (vopForm e.2) { mkOp s x .vector 11 e.2 w with ra3 := z } rs t

/-! ### Resets -/

/-- A cold reset, whether by POWER_ON, by COLD_RESET or by COLD_RESET_REQ, leaves the fuses, the non-volatile values, the cells, the fault
history and the credentials, and resets all else (R592, R593); its boot stops at step 2 without firmware that verifies or can be read, at step
4 with a rail out of tolerance, and else ends READY (R598, R599, R621). After a thermal shutdown it is held while a comparator reads 105 °C or more, and ends with
THERMAL_COOL (R576). -/
def Obligations.ColdResets : Prop :=
  ∀ (s : State) (b : Boot),
    (∀ c ∈ [Instr.powerOn b, .coldReset b, .coldResetReq b],
      (s.dead = true → s.anyHot = true → ∃ t, exec c s = .next t ∧ t.coldHeld = true ∧ { t with coldHeld := s.coldHeld } = s) ∧
      ((s.dead = true → s.anyHot = false) →
        (NoFirmware s ∨ b.vioLate = true → s.Sound → ∃ t, exec c s = .next t ∧ t.rd R.PLT_BOOT_STATE.STEP 0 = 2 ∧
          t.now = 0 ∧ t.hbm = [] ∧ t.faultq = [] ∧ t.seats = [] ∧ t.antes = [] ∧ t.hand = {} ∧
          (∀ f < 8, t.face f = { wsets := (s.face f).wsets }) ∧ t.arrays = s.arrays ∧ t.hist = s.hist ∧ t.nvLog = s.nvLog ∧
          t.imgKeys = s.imgKeys ∧ t.mgmt.ops = s.mgmt.ops ∧ t.mgmt.fw = s.mgmt.fw ∧ t.mgmt.rollback = s.mgmt.rollback ∧
          t.fuses = s.fuses ∧ ∀ r i, r ∉ [.PLT_BOOT_STATE, .LNK_BYP_CTL, .PLT_CAP_FACES, .PLT_FACE_MAP] → t.reg r i = resetKeep r i (s.reg r i)) ∧
        (¬ NoFirmware s → b.vioLate = false → b.badRail = true → ∃ t, exec c s = .next t ∧ t.rd R.PLT_BOOT_STATE.STEP 0 = 4) ∧
        (¬ NoFirmware s → b.vioLate = false → b.badRail = false → ∃ t, exec c s = .next t ∧ Booted b t))) ∧
    (s.coldHeld = false → ∃ t, exec (.thermalCool b) s = .next t ∧ t.anyHot = false ∧ { t with power := s.power } = s) ∧
    (s.coldHeld = true → ¬ NoFirmware s → b.vioLate = false → b.badRail = false → ∃ t, exec (.thermalCool b) s = .next t ∧ Booted b t)

/-- WARM_RESET takes READY away, and drops the write-verifies that have not started; the array that a dropped re-dress was to leave stays
ACTIVE. Once what has started is done and nothing waits for a boundary, WARM_RESET_DRAINED leaves what R593 states: no hand, seat, ante or
program, the warm, function and face registers at their reset values, all else kept; and ends with READY and vector 4 of PF1 (R593, R595). -/
def Obligations.WarmResets : Prop :=
  ∀ s : State,
    (s.dead = false → s.hif.warm = false → ∃ t, exec .warmReset s = .next t ∧ t.rd R.PLT_BOOT_STATE.READY 0 = 0 ∧
      t.hif = { s.hif with warm := true } ∧ t.writes = s.writes.filter (fun j => j.started) ∧
      (∀ j ∈ s.writes, j.started = false → j.kind = 2 → t.aState j.face j.block j.src = 1) ∧
      s.Frame { t with hif := s.hif, writes := s.writes }
        ((R.PLT_BOOT_STATE.READY, 0) :: (s.writes.filter (fun j => !j.started && decide (j.kind = 2))).flatMap (fun j =>
          [(R.BLK_ARRAY_STATE.STATE, ixA j.face j.block j.src), (R.BLK_SPARE.FREE, ixB j.face j.block)])) []) ∧
    (s.hif.warm = true → (∀ j ∈ s.writes, j.started = false) → NothingWaits s → s.Sound →
      ∃ t, exec .warmResetDrained s = .next t ∧ WarmLeft s t)

/-- The resets of the host interface: an FLR of each function resets that function's registers and is counted, and PERST_N low is one of all
three, with the link down; its release trains the link and makes the interface ready, and a configuration request is answered by whether it is,
and then as R586 describes the function (R586, R594, R600). -/
def Obligations.HostResets : Prop :=
  ∀ s : State,
    (s.hif.perstLow = false → s.dead = false → s.Sound →
      (NothingOpen s → ∃ t, exec (.functionLevelReset 0) s = .next t ∧ Flr0 s t ∧
        t.rd R.HIF_RESET_STAT.FLR0 0 = min (s.rd R.HIF_RESET_STAT.FLR0 0 + 1) (2 ^ R.HIF_RESET_STAT.FLR0.wd - 1)) ∧
      (NothingOpen s → ∃ t, exec (.functionLevelReset 1) s = .next t ∧ s.Frame t [(R.HIF_RESET_STAT.FLR1, 0)] [] ∧
        t.rd R.HIF_RESET_STAT.FLR1 0 = min (s.rd R.HIF_RESET_STAT.FLR1 0 + 1) (2 ^ R.HIF_RESET_STAT.FLR1.wd - 1)) ∧
      (∃ t, exec (.functionLevelReset 2) s = .next t ∧ t.hostIrqAt = none ∧
        { t with regs := s.regs, hostIrqAt := s.hostIrqAt } = s ∧
        t.rd R.HIF_RESET_STAT.FLR2 0 = min (s.rd R.HIF_RESET_STAT.FLR2 0 + 1) (2 ^ R.HIF_RESET_STAT.FLR2.wd - 1) ∧
        ∀ r i, r ≠ .HIF_RESET_STAT → t.reg r i =
          if r = .FLT_HOST_RING ∨ r = .FLT_HOST_HEAD ∨ r = .HIF_PF2_APERTURE then resetKeep r i (s.reg r i) else s.reg r i) ∧
      (NothingOpen s → ∃ t, exec .hostReset s = .next t ∧ Flr0 s t ∧ t.hostIrqAt = none ∧ t.hif.perstLow = true ∧ t.hif.ready = false ∧
        t.rd R.HIF_LINK.RATE 0 = 0 ∧ t.rd R.HIF_LINK.WIDTH 0 = 0 ∧ t.rd R.HIF_LINK.FLIT 0 = 0 ∧
        t.rd R.HIF_RESET_STAT.HOST 0 = min (s.rd R.HIF_RESET_STAT.HOST 0 + 1) (2 ^ R.HIF_RESET_STAT.HOST.wd - 1)) ∧
      ∀ fn, ∃ t, exec (.configRequest fn) s = .next t ∧ t.out = s.out ++ [.pcie (if s.hif.ready then [0, fn, 1] ++ pcieFn fn else [0, fn, 0])] ∧
        { t with out := s.out } = s) ∧
    (s.hif.perstLow = true → s.domOn 28 = true → ∀ rate width flit, ∃ t, exec (.perstRelease rate width flit) s = .next t ∧
      t.hif = { s.hif with perstLow := false, ready := true } ∧ t.out = s.out ++ [.pcie [1]] ∧
      t.rd R.HIF_LINK.RATE 0 = rate % 2 ^ R.HIF_LINK.RATE.wd ∧ t.rd R.HIF_LINK.WIDTH 0 = width % 2 ^ R.HIF_LINK.WIDTH.wd ∧
      t.rd R.HIF_LINK.FLIT 0 = (if flit then 1 else 0) ∧
      s.Frame { t with hif := s.hif, out := s.out } [(R.HIF_LINK.RATE, 0), (R.HIF_LINK.WIDTH, 0), (R.HIF_LINK.FLIT, 0)] [])

/-- FACE_RESET begins the reset of the faces of its mask, and AUTO_FACE_RESET that of a face whose automatic reset is due; FACE_RESET_DONE, with
nothing started left, resets the sequencer, the queues, the scoreboard and the face's registers, and counts (R552, R596). Die tricks at home on the
face return to their creation state while no hand runs (R333). -/
def Obligations.FaceResets : Prop :=
  ∀ (s : State) (f : Nat),
    (MayReset s f → ∃ t, exec (.faceReset (2 ^ f)) s = .next t ∧ ResetBegun s f (s.face f) t ∧ HomeGone s f t ∧
      s.Frame { t with hand := s.hand, plays := s.plays } ([(R.PLT_CAP_FACES.DOWN, 0), (R.PLT_FACE_RESET.BUSY, 0)] ++ homeFields s f) [f]) ∧
    (∀ u, MayReset s f → (s.face f).autoReset = some u → ∃ t, exec (.autoFaceReset f) s = .next t ∧ t.now = max s.now u ∧
      ResetBegun s f { s.face f with autoReset := none, autoTimes := (s.face f).autoTimes ++ [s.rd R.FLT_HIST_STAT.POWERED 0] } t ∧
      HomeGone s f t ∧ s.Frame { t with hand := s.hand, now := s.now, plays := s.plays }
        ([(R.PLT_CAP_FACES.DOWN, 0), (R.PLT_FACE_RESET.BUSY, 0)] ++ homeFields s f) [f]) ∧
    ((s.face f).inReset = true → (s.face f).started = [] → s.ticking = true → s.Sound → ∃ t, exec (.faceResetDone f) s = .next t ∧
      (t.face f).pc = 0 ∧ (t.face f).s = [] ∧ (t.face f).a = [] ∧ (t.face f).p = [] ∧ (t.face f).l = [] ∧ (t.face f).queue = [] ∧
      (t.face f).started = [] ∧ (t.face f).sb = [] ∧ (t.face f).run = (if s.hand.running then .ended else .off) ∧
      (t.face f).handler = .none ∧ (t.face f).store = (s.face f).store ∧ (t.face f).wsets = (s.face f).wsets ∧
      (t.face f).inReset = false ∧ (t.face f).resetDone = true ∧ (∀ g, g ≠ f → t.face g = s.face g) ∧
      t.rd R.PLT_FACE_RESET.BUSY 0 = setBit (s.rd R.PLT_FACE_RESET.BUSY 0) f false % 2 ^ R.PLT_FACE_RESET.BUSY.wd ∧
      t.rd R.PLT_FACE_RESET.COUNT 0 = min (s.rd R.PLT_FACE_RESET.COUNT 0 + 1) (2 ^ R.PLT_FACE_RESET.COUNT.wd - 1))

/-! ### Ports, lanes and the control lane -/

/-- What the messages of the link layer do. TICK from the tree's parent is held for its due time, and one from elsewhere is counted as bad;
RELEASE to this device releases a domain trick's plays on every face; TRIM adds to the rows that leave a seat's cache; TIME answers its step 1,
and by step 2 moves device time towards the parent's, which is synchronised after two; TIME_SYNC_LOST takes that away; a good FLIT in
order moves the port's sequence on and returns credit, and another is discarded (R14, R319, R416, R426 to R428, R439, R442). The step of at most 100 ns is the model's reading
of R442. -/
def Obligations.ControlLaneResults : Prop :=
  ∀ (s : State) (p : Nat),
    (∀ hand due period, s.fromParent p = true → s.now ≤ due → (∀ e ∈ s.ringLost, e.1 ≠ .tick) → ∃ t, exec (.tick p hand due period) s = .next t ∧
      t.hand = { s.hand with ann := some (hand, due, period), stopped := false } ∧ t.regs = s.regs ∧ t.faces = s.faces) ∧
    (∀ hand due period, s.fromParent p = true → due < s.now → ∃ t, exec (.tick p hand due period) s = .next t ∧ t.hand = s.hand ∧
      t.regs = s.regs ∧ t.faces = s.faces) ∧
    (∀ hand due period, s.fromParent p = false → ∃ t, exec (.tick p hand due period) s = .next t ∧
      t.rd R.LNK_PORT_STAT.BAD_MSG p = min (s.rd R.LNK_PORT_STAT.BAD_MSG p + 1) (2 ^ R.LNK_PORT_STAT.BAD_MSG.wd - 1) ∧
      s.Frame t [(R.LNK_PORT_STAT.BAD_MSG, p)] []) ∧
    (∀ src trick hand, (∀ g < 8, ∀ k, (s.face g).run = .stalled k → ∃ h, k = .waitt h) →
      ∃ t, exec (.release p false s.devAddr src trick hand false) s = .next t ∧ (∀ g < 8, t.face g = released (s.face g) trick hand) ∧
        s.Frame t [] [0, 1, 2, 3, 4, 5, 6, 7]) ∧
    (∀ src hand handle count, ∃ t, exec (.trim p s.devAddr src hand handle count) s = .next t ∧
      t.cacheOf (handle % 2 ^ 14) = { s.cacheOf (handle % 2 ^ 14) with trim := (s.cacheOf (handle % 2 ^ 14)).trim + count } ∧
      (∀ i, i ≠ handle % 2 ^ 14 → t.cacheOf i = s.cacheOf i) ∧ { t with caches := s.caches } = s) ∧
    (∀ t1 t2 t3 t4, ∃ t, exec (.time p 1 t1 t2 t3 t4) s = .next t ∧ t.out = s.out ++ [.local_ p (.time 2 t1 t4 s.now)] ∧
      { t with out := s.out } = s) ∧
    (∀ t1 t2 t3 t4 : Nat, s.fromParent p = true → ∃ t, exec (.time p 2 t1 t2 t3 t4) s = .next t ∧
      (let ahead : Int := (t4 : Int) - (t3 + ((t4 : Int) - t1 - (t3 - t2)) / 2)
       t.now = (max 0 (if ahead > 100 then s.now - 100 else if ahead < -100 then s.now + 100 else s.now - ahead) : Int).toNat) ∧
      t.timeGood = s.timeGood + 1 ∧ (1 ≤ s.timeGood → t.rd R.LNK_TIME_STAT.SYNCED 0 = 1) ∧
      s.Frame { t with now := s.now, timeGood := s.timeGood, timeLast := s.timeLast }
        [(R.LNK_TIME_STAT.OFFSET, 0), (R.LNK_TIME_STAT.SYNCED, 0)] []) ∧
    (let q := s.rd R.LNK_TREE.PARENT (s.rd R.LNK_TIME_STAT.TREE 0)
     s.rd R.LNK_TREE.PARENT_VALID (s.rd R.LNK_TIME_STAT.TREE 0) = 1 →
      (s.rd R.LNK_PORT_STATE.STATE q = 4 → ∃ t, exec .timeExchange s = .next t ∧ t.out = s.out ++ [.local_ q (.time 1 s.now 0 0)] ∧
        { t with out := s.out } = s) ∧
      ∃ t, exec .timeSyncLost s = .next t ∧ t.now = max s.now (s.timeLast + 2000000) ∧ t.timeGood = 0 ∧
        t.rd R.LNK_TIME_STAT.SYNCED 0 = 0 ∧
        t.rd R.LNK_TIME_STAT.LOST 0 = min (s.rd R.LNK_TIME_STAT.LOST 0 + 1) (2 ^ R.LNK_TIME_STAT.LOST.wd - 1) ∧
        s.Frame { t with now := s.now, timeGood := s.timeGood } [(R.LNK_TIME_STAT.SYNCED, 0), (R.LNK_TIME_STAT.LOST, 0)] []) ∧
    (∀ ws h, s.rd R.LNK_PORT_STATE.STATE p = 4 → h = ws.headD 0#64 →
      (flitOk ws = true → fget h 0 12 = (s.port p).rxSeq → mget [] s.txq p = [] → ∃ t, exec (.flit p ws false) s = .next t ∧
        t.port p = { s.port p with
          rxSeq := (fget h 0 12 + 1) % 4096, acked := fget h 12 12
          cred0 := min 128 ((s.port p).cred0 + fget h 24 8), cred1 := min 128 ((s.port p).cred1 + fget h 32 8)
          unacked := (s.port p).unacked.filter (fun q => decide (2048 ≤ (fget h 12 12 + 4096 - q) % 4096)) } ∧
        (∀ q, q ≠ p → t.port q = s.port q) ∧ (∀ q, mget [] t.txq q = mget [] s.txq q) ∧ { t with ports := s.ports, txq := s.txq } = s) ∧
      ∀ replay, flitOk ws = false ∨ fget h 0 12 ≠ (s.port p).rxSeq → exec (.flit p ws replay) s = .next s)

/-- Ports and the bypass. A retrain, and the end of HOLDOFF, begin training; a training step with lanes through goes on to the next, and one
with none, or with too much skew, tries again; IDENT gives the width and, where ticks run, waits for the boundary. A lane that fails on a port that is not ACTIVE is
marked and recorded, an error window is counted, and a LANE proposal of the peer is agreed to. The bypass closes by BYPASS_CLOSE, BYP_FORCE and
the loss of VAON, which take XP and XN down, and opens by BYPASS_OPEN, not while forced (R421, R422, R424, R425, R443, R444, R597). -/
def Obligations.PortResults : Prop :=
  ∀ (s : State) (p : Nat),
    (p < 6 → s.Sound → s.portCan p = true → s.isPerm (unitId 12 p 0 0 0) = false →
      (∃ t, exec (.portRetrain p) s = .next t ∧ Trains s p t) ∧
      ((s.port p).holdoff = true → ∃ t, exec (.holdoffExpiry p) s = .next t ∧ Trains s p t)) ∧
    (∀ ok skew, s.injs = [] → (∀ i < 17, s.isPerm (unitId 11 p 0 0 i) = false) →
      (Nat.land (s.port p).good ok ≠ 0 →
        ((s.port p).step = 1 ∨ (s.port p).step = 2 → ∃ t, exec (.portTrainingStepEnd p ok skew) s = .next t ∧ (t.port p).step = 3 ∧
          t.rd R.LNK_PORT_STATE.RATE p = (if (s.port p).step = 1 then 1 else 0) ∧ t.rd R.LNK_PORT_STATE.STATE p = 2 ∧
          (t.port p).good = Nat.land (s.port p).good ok) ∧
        ((s.port p).step = 3 → ∃ t, exec (.portTrainingStepEnd p ok skew) s = .next t ∧ (t.port p).step = 4) ∧
        ((s.port p).step = 4 → skew ≤ 64 → ∃ t, exec (.portTrainingStepEnd p ok skew) s = .next t ∧ (t.port p).step = 5 ∧
          t.rd R.LNK_PORT_STATE.STATE p = 3 ∧ ∃ o m, t.out = o ++ [.local_ p m])) ∧
      (Nat.land (s.port p).good ok = 0 ∨ ((s.port p).step = 4 ∧ 64 < skew) → 2 ≤ (s.port p).step → (s.port p).step ≤ 4 → (s.port p).tries < 3 →
        ∃ t, exec (.portTrainingStepEnd p ok skew) s = .next t ∧ t.rd R.LNK_PORT_STATE.STATE p = 1 ∧ (t.port p).tries = (s.port p).tries + 1) ∧
      ∀ peer dev lanes w, (s.port p).step = 5 → s.ticking = true → p < 6 →
        s.widthFor p (lanesOutside p (2 ^ laneCount p - 1 - Nat.land (s.port p).good lanes)).length = some w →
        ∃ t, exec (.ident p peer dev lanes) s = .next t ∧ (t.port p).ready = some w ∧
          t.rd R.LNK_PORT_STATE.PEER_DEV p = dev % 2 ^ R.LNK_PORT_STATE.PEER_DEV.wd ∧
          t.rd R.LNK_PORT_STATE.PEER_PORT p = peer % 2 ^ R.LNK_PORT_STATE.PEER_PORT.wd) ∧
    (∀ i, p < 6 → i < laneCount p → bit (s.rd R.LNK_LANE_STATE.FAILED p) i = false →
      (s.rd R.LNK_PORT_STATE.STATE p ≠ 4 → Recordable s { det := .laneFail, unit := unitId 11 p 0 0 i, d0 := 1#64 } →
        ∃ t, exec (.laneFail p i) s = .next t ∧ Recorded s { det := .laneFail, unit := unitId 11 p 0 0 i, d0 := 1#64 } t ∧
          t.rd R.LNK_LANE_STATE.FAILED p = setBit (s.rd R.LNK_LANE_STATE.FAILED p) i true % 2 ^ R.LNK_LANE_STATE.FAILED.wd ∧
          s.Frame { t with faultq := s.faultq } [(R.LNK_LANE_STATE.FAILED, p), (R.FLT_STATUS.QUEUED, 0)] []) ∧
      ∀ corrected, s.injs = [] → corrected ≤ s.rd R.LNK_LANE_CFG.CORR_THRESH p →
        ∃ t, exec (.laneErrorWindow p i corrected 0) s = .next t ∧ mget 0 (t.port p).errs i = 0 ∧
          s.Frame { t with ports := s.ports } [(R.LNK_PORT_STAT.UNCORR, p)] []) ∧
    (∀ n hand w sp, s.rd R.LNK_PORT_STATE.STATE p = 4 → (s.port p).proposed = none →
      (∃ t, exec (.lane p n hand w sp true) s = .next t ∧ t.out = s.out ++ [.local_ p (.lane n hand w sp true)] ∧
        t.rd R.LNK_PORT_STATE.WIDTH p = w % 2 ^ R.LNK_PORT_STATE.WIDTH.wd ∧
        (sp < 31 → t.rd R.LNK_LANE_STATE.SPARED p = sp % 2 ^ R.LNK_LANE_STATE.SPARED.wd ∧ t.rd R.LNK_LANE_STATE.SPARE_USED p = 1)) ∧
      ∃ t, exec (.lane p n hand w sp false) s = .next t ∧ t.out = s.out ++ [.local_ p (.lane n hand w sp false)] ∧
        t.regs = s.regs ∧ (t.port p).remap = some (s.now + 10000, some (w, sp))) ∧
    (s.Sound →
      (∃ t, exec .bypassClose s = .next t ∧ BypassShut t ∧ t.bypOpen = false) ∧
      (∃ t, exec .bypForce s = .next t ∧ BypassShut t ∧ t.rd R.LNK_BYP_CTL.FORCE 0 = 1) ∧
      (∃ t, exec .vaonLoss s = .next t ∧ BypassShut t ∧ t.vaonLow = true)) ∧
    (∃ t, exec .bypForceRelease s = .next t ∧ t.rd R.LNK_BYP_CTL.FORCE 0 = 0 ∧ s.Frame t [(R.LNK_BYP_CTL.FORCE, 0)] []) ∧
    (s.rd R.LNK_BYP_CTL.AT_HAND 0 = 1 → ∃ t, exec .bypassOpen s = .next t ∧ t.bypOpen = true ∧ { t with bypOpen := s.bypOpen } = s) ∧
    (s.rd R.LNK_BYP_CTL.AT_HAND 0 ≠ 1 → s.rd R.LNK_BYP_CTL.FORCE 0 ≠ 1 → s.vaonLow = false → s.Sound →
      ∃ t, exec .bypassOpen s = .next t ∧ t.rd R.LNK_BYP_CTL.CLOSED 0 = 0 ∧ t.bypOpen = false) ∧
    (s.rd R.LNK_BYP_CTL.AT_HAND 0 ≠ 1 → s.rd R.LNK_BYP_CTL.FORCE 0 = 1 ∨ s.vaonLow = true → exec .bypassOpen s = .next s)

/-! ### Ticks and hands -/

/-- HAND_ENTRY. While a release or a warm reset is in progress the tick is missed; with a face down, a program not ACTIVE or the like the
device idles through it; and a hand in which the replica is held is entered on every face with an empty slot (R16, R19, R48, R239, R460, R500). -/
def Obligations.HandEntry : Prop :=
  ∀ (s : State) (desc : List SlotSeat) (told : List (Nat × Bool × Bool)) (h due period : Nat), FallsDue s h due period →
    (s.handsStopped = true → ∃ t, exec (.handEntry desc told) s = .next t ∧ TickPassed s h due period t ∧ t.hand.idle = true ∧
      t.hand.running = false ∧ t.faces = s.faces ∧
      t.rd R.SYN_HAND_COUNTS.MISSED 0 = min (s.rd R.SYN_HAND_COUNTS.MISSED 0 + 1) (2 ^ R.SYN_HAND_COUNTS.MISSED.wd - 1)) ∧
    (s.handsStopped = false → s.canRun = false → ∃ t, exec (.handEntry desc told) s = .next t ∧ TickPassed s h due period t ∧
      t.hand.idle = true ∧ t.hand.running = false ∧ t.faces = s.faces) ∧
    (s.handsStopped = false → s.canRun = true → s.heldIn h = true → (∀ f < s.nFaces, (s.face f).entryTraps = []) →
      ∃ t, exec (.handEntry desc told) s = .next t ∧ TickPassed s h due period t ∧
        t.hand.running = true ∧ t.hand.held = true ∧ t.hand.slotEmpty = true ∧
        ∀ f < s.nFaces, Entered (s.face f) (s.flag R.FCE_HOST_CALL.PENDING f && ((s.face f).vector 1).isSome)
          (s.reg .FCE_HOST_CALL_ARG f) h t.hand.expiry (t.face f))

/-- The other times of a hand. Each tick without an announcement counts as missed, takes the next hand number, and its abort notices fall due; the
third in a row stops the device's hands, and a worker tells the standby; the hand-budget warning enters vector 2 of a face that has not reached END;
the owed abort notices leave at the budget expiry of their tick; a hand whose faces have all retired END, with nothing failed, commits at its
budget expiry: its number becomes the committed one; any other counts as a misdeal and leaves the committed number; either way the hand is over; and
the manager holds the announcement of the next hand at least LEAD ahead, one period of the tick before it after that tick (R14, R18 to R20, R24,
R25, R33, R41). -/
def Obligations.HandTimes : Prop :=
  ∀ s : State,
    (s.dead = false → s.hand.ticked = true → s.hand.period ≠ 0 → s.hand.ann = none → s.hand.running = false →
      s.hand.idle = false → ∃ t, exec .missedTick s = .next t ∧
        t.now = max s.now (s.hand.lastDue + s.hand.period) ∧
        t.rd R.SYN_HAND_NUM.HAND 0 = (s.handNum + 1) % 2 ^ R.SYN_HAND_NUM.HAND.wd ∧
        t.rd R.SYN_HAND_COUNTS.MISSED 0 = min (s.rd R.SYN_HAND_COUNTS.MISSED 0 + 1) (2 ^ R.SYN_HAND_COUNTS.MISSED.wd - 1) ∧
        t.hand.missedRow = s.hand.missedRow + 1 ∧ t.hand.idle = true ∧ t.hand.running = false ∧ t.hand.abortOwed = some (s.handNum + 1) ∧
        t.hand.stopped = (s.hand.stopped || decide (2 ≤ s.hand.missedRow)) ∧ t.faces = s.faces ∧
        (∀ port standby, standby = s.rd R.SYN_ROLE.STANDBY 0 → 2 ≤ s.hand.missedRow → s.hand.stopped = false →
          s.rd R.SYN_ROLE.STANDBY_VALID 0 = 1 → s.isStandby = false → RoutedNow s standby port →
          Out.ctl port standby s.devAddr (.missed (s.handNum - 2)) ∈ t.out) ∧
        (s.hand.posted = none → s.hand.missedRow < 2 →
          s.Frame { t with now := s.now, hand := s.hand } [(R.SYN_HAND_NUM.HAND, 0), (R.SYN_HAND_COUNTS.MISSED, 0)] [])) ∧
    (∀ f tgt, s.dead = false → s.hand.running = true → s.rd R.FCE_HAND_WARN.MARGIN f ≠ 0 → (s.face f).warned = false →
      (s.face f).run = .issuing → (s.face f).handler = .none → (s.face f).vector 2 = some tgt →
      ∃ t, exec (.handBudgetWarning f) s = .next t ∧ t.now = max s.now (s.hand.expiry - s.rd R.FCE_HAND_WARN.MARGIN f) ∧
        t.face f = { s.face f with
          warned := true, tcause := 2, tinfo := BitVec.ofNat 64 (s.hand.expiry - t.now), tpc := (s.face f).pc, pc := tgt, handler := .warning } ∧
        t.rd R.FCE_TRAP_STAT.WARNINGS f = min (s.rd R.FCE_TRAP_STAT.WARNINGS f + 1) (2 ^ R.FCE_TRAP_STAT.WARNINGS.wd - 1) ∧
        s.Frame { t with now := s.now } [(R.FCE_TRAP_STAT.WARNINGS, f), (R.FCE_TRAP_STAT.LAST_VECTOR, f), (R.FCE_TRAP_STAT.LAST_PC, f),
          (R.FCE_TRAP_STAT.VALID, f)] [f]) ∧
    (∀ h, s.dead = false → s.hand.idle = true → s.hand.abortOwed = some h →
      ∃ t, exec .missedTickAbort s = .next t ∧ exec .budgetExpiry s = .next t ∧ HandOver t ∧
        t.rd R.SYN_HAND_COMMITTED.HAND 0 = s.rd R.SYN_HAND_COMMITTED.HAND 0 ∧
        t.rd R.SYN_HAND_COUNTS.MISDEALS 0 = s.rd R.SYN_HAND_COUNTS.MISDEALS 0 ∧
        ∀ d ∈ s.abortDevs, ∀ port, RoutedNow s d port → Out.ctl port d s.devAddr (.abort h) ∈ t.out) ∧
    (s.dead = false → s.hand.idle = false → s.hand.running = true → ∃ t, exec .budgetExpiry s = .next t ∧ HandOver t ∧
      (HandGood (atExpiry s) → t.rd R.SYN_HAND_COMMITTED.HAND 0 = s.handNum ∧
        t.rd R.SYN_HAND_COUNTS.MISDEALS 0 = s.rd R.SYN_HAND_COUNTS.MISDEALS 0) ∧
      (¬ HandGood (atExpiry s) → t.rd R.SYN_HAND_COMMITTED.HAND 0 = s.rd R.SYN_HAND_COMMITTED.HAND 0 ∧
        t.rd R.SYN_HAND_COUNTS.MISDEALS 0 = min (s.rd R.SYN_HAND_COUNTS.MISDEALS 0 + 1) (2 ^ R.SYN_HAND_COUNTS.MISDEALS.wd - 1))) ∧
    (s.isManager = true → s.rd R.SYN_TICK_PERIOD.PERIOD 0 ≠ 0 → s.waitAck = false → s.rd R.SYN_ROLE.STANDBY_VALID 0 = 0 →
      ∃ t due, exec .tickAnnounce s = .next t ∧ t.announced = max s.announced s.handNum + 1 ∧
        t.hand.ann = some (max s.announced s.handNum + 1, due, s.rd R.SYN_TICK_PERIOD.PERIOD 0) ∧ t.annDue = due ∧
        t.now + s.rd R.SYN_TICK_LEAD.LEAD 0 ≤ due ∧ (s.annDue ≠ 0 → s.annDue + s.hand.annPeriod ≤ due) ∧ t.waitAck = false)

/-! ### The domain -/

/-- Roles. A ROSTER along the tree, or the CLAIM of a higher term, is obeyed; a ROSTER of an older term is a bad message; the standby that takes
over becomes manager of the next term on the other tree; ROSTER_PUBLISH sends to every child; MISSED is kept by the standby; MIRROR_ACK is noted,
lets an announcement that waits for it leave, and names a candidate standby; and without it in time the manager announces, and drops its
standby (R454 to R458). -/
def Obligations.RoleResults : Prop :=
  ∀ (s : State) (port term src : Nat),
    (∀ m sb v tree, FromManager s port term → NoneLost s .role → ∃ t, exec (.roster port term m sb v tree) s = .next t ∧ RolesAre s m sb v term tree t ∧
      t.obeys = true) ∧
    (∀ m sb v tree, term < s.term → ∃ t, exec (.roster port term m sb v tree) s = .next t ∧
      t.rd R.LNK_PORT_STAT.BAD_MSG port = min (s.rd R.LNK_PORT_STAT.BAD_MSG port + 1) (2 ^ R.LNK_PORT_STAT.BAD_MSG.wd - 1) ∧
      s.Frame t [(R.LNK_PORT_STAT.BAD_MSG, port)] []) ∧
    (∀ tree first m, s.term < term → s.fromParentOf tree port = true → m ≠ s.devAddr → NoneLost s .role → ∃ t, exec (.claim port term tree first m) s = .next t ∧
      RolesAre s m 0 false term tree t ∧ t.obeys = true ∧ t.waitAck = false) ∧
    (s.isStandby = true → 3 ≤ s.hand.missedRow → s.manifest.length < 2 * (s.missedFrom.length + 1) → ∃ t, exec .takeover s = .next t ∧
      RolesAre s s.devAddr 0 false (s.term + 1) (1 - s.rd R.LNK_TIME_STAT.TREE 0) t ∧ t.claims ≠ none ∧ t.missedFrom = []) ∧
    (s.rd R.SYN_ROLE.ROLE 0 = 2 → ∃ t, exec .rosterPublish s = .next t ∧ s.Sends t ∧
      ∀ p < 6, bit (s.rd R.LNK_TREE.CHILDREN (s.rd R.LNK_TIME_STAT.TREE 0)) p = true → s.rd R.LNK_PORT_STATE.STATE p = 4 →
        Out.tree p (.role 2 [s.term, s.manager, s.rd R.SYN_ROLE.STANDBY 0, s.rd R.SYN_ROLE.STANDBY_VALID 0, s.rd R.LNK_TIME_STAT.TREE 0])
          ∈ t.out) ∧
    (∀ last, s.isStandby = true → s.missedFrom.contains src = false → ∃ t, exec (.missed port s.devAddr src last) s = .next t ∧
      t.missedFrom = s.missedFrom ++ [src] ∧ { t with missedFrom := s.missedFrom } = s) ∧
    (∀ hand, s.isManager = true → s.term ≤ term → NoneLost s .role →
      (s.copyTo ≠ some src → s.waitAck = false ∨ max s.acked hand < s.decided →
        ∃ t, exec (.mirrorAck port s.devAddr src term hand) s = .next t ∧ t.acked = max s.acked hand ∧ { t with acked := s.acked } = s) ∧
      (s.copyTo ≠ some src → s.waitAck = true → s.decided ≤ max s.acked hand →
        ∃ t due, exec (.mirrorAck port s.devAddr src term hand) s = .next t ∧ t.acked = max s.acked hand ∧ t.waitAck = false ∧
          t.announced = s.decided ∧ t.hand.ann = some (s.decided, due, s.rd R.SYN_TICK_PERIOD.PERIOD 0) ∧
          s.now + s.rd R.SYN_TICK_LEAD.LEAD 0 ≤ due) ∧
      (s.copyTo = some src → ∃ t, exec (.mirrorAck port s.devAddr src term hand) s = .next t ∧ t.copyTo = none ∧
        t.acked = max s.acked hand ∧ RolesAre s s.manager src true s.term (s.rd R.LNK_TIME_STAT.TREE 0) t)) ∧
    (s.isManager = true → s.waitAck = true →
      Recordable s { det := .mirrorLost, unit := unitId 21 0 0 0 0 + s.rd R.SYN_ROLE.STANDBY 0, d0 := BitVec.ofNat 64 (s.rd R.SYN_ROLE.STANDBY 0) } →
      ∃ t, exec .mirrorAckTimeout s = .next t ∧ t.rd R.SYN_ROLE.STANDBY_VALID 0 = 0 ∧ t.announced = s.decided ∧ t.waitAck = false ∧
        (∃ due, t.hand.ann = some (s.decided, due, s.rd R.SYN_TICK_PERIOD.PERIOD 0)) ∧
        Recorded s { det := .mirrorLost, unit := unitId 21 0 0 0 0 + s.rd R.SYN_ROLE.STANDBY 0
                     d0 := BitVec.ofNat 64 (s.rd R.SYN_ROLE.STANDBY 0) } t)

/-- Replicas. HOLD and REPLICA are kept by the stages of their replica; the manager takes state and hand reports, lowers a seat limit and
regrows it, and by
what its stages report holds a replica, lifts the hold or declares it DOWN; a join begins or is refused; a retirement is noted; and the standby
keeps what a MIRROR tells it: a seat, a limit, a domain trick and its plays, a replica (R45, R46, R455, R459 to R461, R463, R468, R469). -/
def Obligations.ReplicaResults : Prop :=
  ∀ (s : State) (port term r first src : Nat),
    (FromManager s port term → NoneLost s .role → OwnReplica s r →
      (∀ on, ∃ t, exec (.hold port term r on first) s = .next t ∧ TakesHold s on first t) ∧
      (∀ st ∈ [4, 5], ∃ t, exec (.replica port term r st first) s = .next t ∧ TakesHold s true first t) ∧
      ∃ t, exec (.replica port term r 2 first) s = .next t ∧ TakesHold s false first t) ∧
    (∀ hand version flags k, s.isManager = true → s.term ≤ term → s.stageOf src = some (k, r) → (s.rep r).join = none → NoneLost s .role →
      ∃ t, exec (.state port s.devAddr src term hand version flags) s = .next t ∧
        mget (0, 0, 0) (t.rep r).states src = (hand, version, flags + 16) ∧ { t with reps := s.reps } = s) ∧
    (∀ outcome hand slack widths rates backlog k cur sh, s.isManager = true → s.stageOf src = some (k, r) → badWidths widths = false →
      cur = (s.rep r).limit.getD s.seatMax → sh = s.rd R.SYN_BATCH_CTL.SHRINK 0 →
      (s.announced < hand + 2 → outcome = 0 ∨ outcome = 2 →
        ∃ t, exec (.report port s.devAddr src outcome hand slack widths rates backlog) s = .next t ∧
          mget 0 (t.rep r).seen k = hand + 1 ∧
          mget 0 (t.rep r).missing k = (if outcome = 2 then mget 0 (s.rep r).missing k + 1 else 0) ∧
          mget 0 (t.rep r).clean k = (if outcome = 0 then mget 0 (s.rep r).clean k + 1 else 0) ∧
          (t.rep r).limit = (s.rep r).limit ∧ { t with reps := s.reps } = s) ∧
      ∃ t, exec (.report port s.devAddr src 1 hand slack widths rates backlog) s = .next t ∧
        (t.rep r).limit = (if sh = 0 then (s.rep r).limit else some (min cur (max (s.rd R.SYN_BATCH_CTL.MIN_SEATS 0) (cur - max 1 (cur * sh / 16))))) ∧
        (t.rep r).emptyOwed = (s.rep r).emptyOwed + s.rd R.SYN_BATCH_CTL.EMPTY_EN 0) ∧
    (s.isManager = true → s.rd R.SYN_BATCH_CTL.REGROW 0 ≠ 0 → s.rd R.SYN_BATCH_CTL.REGROW 0 ≤ (s.rep r).cleanHands →
      ∃ t, exec (.seatLimitRegrow r) s = .next t ∧ (t.rep r).limit = (s.rep r).limit.map (fun l => min s.seatMax (l + 1)) ∧
        (t.rep r).cleanHands = (s.rep r).cleanHands - s.rd R.SYN_BATCH_CTL.REGROW 0 ∧ { t with reps := s.reps } = s) ∧
    (s.isManager = true → NotOwn s r →
      (s.repState r = 2 ∨ s.repState r = 6 → (stageOver (s.rep r).missing (s.rd R.SYN_DOMAIN_CFG.HOLD_HANDS 0)).isSome = true →
        ∃ t, exec (.replicaHold r) s = .next t ∧ t.repState r = 3 ∧
          t.rd R.SYN_DOMAIN_STAT.HOLDS 0 = min (s.rd R.SYN_DOMAIN_STAT.HOLDS 0 + 1) (2 ^ R.SYN_DOMAIN_STAT.HOLDS.wd - 1)) ∧
      (s.repState r = 3 → (∀ d ∈ s.stagesOf r, s.rd R.SYN_DOMAIN_CFG.HOLD_HANDS 0 ≤ mget 0 (s.rep r).clean d.2.1) →
        ∃ t, exec (.holdLift r) s = .next t ∧ t.repState r = (if (s.rep r).retire = none then 2 else 6)) ∧
      (∀ k, s.repState r = 2 ∨ s.repState r = 3 → stageOver (s.rep r).missing (s.rd R.SYN_DOMAIN_CFG.FAIL_HANDS 0) = some k →
        ∃ t, exec (.replicaDown r) s = .next t ∧ t.repState r = 4 ∧ t.rd R.SYN_REPLICA.CAUSE_VALID r = 1 ∧
          t.rd R.SYN_REPLICA.CAUSE r = k % 2 ^ R.SYN_REPLICA.CAUSE.wd ∧ (t.rep r).down = some (s.announced + 1))) ∧
    (s.isManager = true → r = s.rd R.SYN_JOIN_CTL.REPLICA 0 →
      (s.repState r = 2 → ∃ t, exec .join s = .next t ∧ t.rd R.SYN_JOIN_CTL.REFUSE 0 = 1 ∧ t.rd R.SYN_JOIN_CTL.CODE 0 = 1 ∧
        s.Frame t [(R.SYN_JOIN_CTL.REFUSE, 0), (R.SYN_JOIN_CTL.CODE, 0)] []) ∧
      (s.repState r = 0 → NotOwn s r → s.rd R.SYN_TICK_PERIOD.PERIOD 0 ≠ 0 → s.announced + 1 < s.rd R.SYN_JOIN_HAND.HAND 0 →
        ∃ t, exec .join s = .next t ∧ t.repState r = 1 ∧ (t.rep r).join = some (s.rd R.SYN_JOIN_HAND.HAND 0, false))) ∧
    (s.isManager = true → r = s.rd R.SYN_RETIRE_CTL.REPLICA 0 → s.repState r = 2 → s.ticking = true →
      ∃ t, exec .replicaRetire s = .next t ∧ { t with reps := s.reps } = s ∧
        (t.rep r).retire = some (decide (s.rd R.SYN_RETIRE_CTL.MODE 0 = 1),
          if s.rd R.SYN_RETIRE_CTL.TIMEOUT 0 = 0 then 0 else s.handNum + s.rd R.SYN_RETIRE_CTL.TIMEOUT 0)) ∧
    (∀ i w e, s.term ≤ term → NoneLost s .role →
      (∃ t, exec (.mirror port s.devAddr src term 0 i w e 0) s = .next t ∧ t.seat i = seatOf e ∧ ∀ j, j ≠ i → t.seat j = s.seat j) ∧
      (∃ t, exec (.mirror port s.devAddr src term 3 r w e 0) s = .next t ∧ (t.rep r).limit = some (fget w 0 12) ∧ { t with reps := s.reps } = s) ∧
      (∃ t, exec (.mirror port s.devAddr src term 4 i w e 0) s = .next t ∧ t.reg .SYN_DTRICK_CFG i = w ∧ s.Frame t [whole .SYN_DTRICK_CFG i] []) ∧
      (∃ t, exec (.mirror port s.devAddr src term 5 r w e 0) s = .next t ∧ t.reg .SYN_REPLICA r = w ∧ s.Frame t [whole .SYN_REPLICA r] []) ∧
      ∃ t, exec (.mirror port s.devAddr src term 6 i w e 0) s = .next t ∧ t.dtrickPlays i w.toNat = e.words.map BitVec.toNat ∧
        { t with dtricks := s.dtricks } = s)

/-! ### Power, heat and the housekeeping converter -/

/-- Power and heat. A comparator's trip stops every clock, leaves its record in the non-volatile store alone, and takes the ports and the PCIe link
down; a droop stretches the face's clock, is counted and recorded, and ends with its recovery; a domain request waits for the boundary, and a
change that completes is shown, counted and signalled; a self-calibration waits for the reference and leaves its factors; a round that reads
115 °C at a sensor that is not ignored stops the device, one before the self-calibration writes its results; and a loss of VPROG drops the write-verifies that have started (R566, R573, R576, R579 to R582, R601, R617). -/
def Obligations.PowerResults : Prop :=
  ∀ s : State,
    (∀ c, c < 64 → s.rd R.THM_SENSOR.IGNORED c = 0 → s.dead = false → ∃ t r, exec (.thermalTrip c) s = .next t ∧ t.dead = true ∧
      t.hand.running = false ∧ r.unit = unitId 19 0 0 0 c ∧ r.det = Det.thermtrip.row.1 ∧ r.detail0 = 920#64 ∧
      t.rd R.FLT_FATAL.OTHER 0 = setBit (s.rd R.FLT_FATAL.OTHER 0) 0 true % 2 ^ R.FLT_FATAL.OTHER.wd ∧ t.nvLog = (s.nvLog ++ [r]).drop (s.nvLog.length - 15) ∧ t.faultq = s.faultq ∧
      t.rd R.HIF_LINK.RATE 0 = 0 ∧ t.rd R.HIF_LINK.WIDTH 0 = 0 ∧ (s.Sound → ∀ p < 6, t.rd R.LNK_PORT_STATE.STATE p = 0)) ∧
    (∀ (p sag : Nat) (half : Bool) (e : Event) (g : Fld), p < 8 → s.rd R.PWR_DROOP_CFG.EN 0 = 1 → mget 0 s.power.stretch p = 0 →
      s.power.drooped.contains p = false → g = (if half then R.PWR_DROOP_STAT.HALF else R.PWR_DROOP_STAT.QUARTER) →
      e = { det := .droop, unit := unitId 20 p 0 0 0, d0 := if half then 2#64 else 1#64, d1 := BitVec.ofNat 64 sag } → Recordable s e →
      ∃ t, exec (.droop p half sag) s = .next t ∧ Recorded s e t ∧ mget 0 t.power.stretch p = (if half then 2 else 1) ∧
        t.rd g p = min (s.rd g p + 1) (2 ^ g.wd - 1) ∧
        s.Frame { t with power := s.power, faultq := s.faultq } [(g, p), (R.FLT_STATUS.QUEUED, 0)] []) ∧
    (∀ p us, mget 0 s.power.stretch p ≠ 0 → ∃ t, exec (.droopRecover p us) s = .next t ∧ mget 0 t.power.stretch p = 0 ∧
      t.rd R.PWR_DROOP_STAT.STRETCH_US p = min (s.rd R.PWR_DROOP_STAT.STRETCH_US p + us) (2 ^ R.PWR_DROOP_STAT.STRETCH_US.wd - 1) ∧
      s.Frame { t with power := s.power } [(R.PWR_DROOP_STAT.STRETCH_US, p)] []) ∧
    (∀ w mgmt d v, s.ticking = true → d < 30 → v = fget w (2 * d) 2 → v ≠ 3 → (d = 28 → mgmt = true) →
      (∀ k, k < 30 → k ≠ d → fget w (2 * k) 2 = 3) →
      ∃ t, exec (.pwrDomReq w mgmt) s = .next t ∧ t.rd (R.PWR_DOM_REQ.REQ d) 0 = v ∧
        mget none t.power.domReq d = (if s.domain d = v then none else some v) ∧
        s.Frame { t with power := s.power } [(R.PWR_DOM_REQ.REQ d, 0)] []) ∧
    (∀ d v rate width flit, s.power.domRun = [(d, v)] → s.power.domBusy = true → d < 30 → v < 4 →
      ∃ t, exec (.domainChangeDone rate width flit) s = .next t ∧ t.rd (R.PWR_DOM_STATE.STATE d) 0 = v ∧
        t.rd R.PWR_DOM_STAT.CHANGES 0 = min (s.rd R.PWR_DOM_STAT.CHANGES 0 + 1) (2 ^ R.PWR_DOM_STAT.CHANGES.wd - 1) ∧
        t.power.domRun = [] ∧ t.power.domBusy = false ∧ .msix 1 3 ∈ t.out ∧
        (d = 28 → v = 1 → t.rd R.HIF_LINK.RATE 0 = rate % 2 ^ R.HIF_LINK.RATE.wd ∧ t.rd R.HIF_LINK.WIDTH 0 = width % 2 ^ R.HIF_LINK.WIDTH.wd) ∧
        (v ≠ 1 ∨ (8 ≤ d ∧ d < 16) ∨ d = 24 ∨ d = 25 ∨ d = 29 → t.out = s.out ++ [.msix 1 3] ∧
          s.Frame { t with power := s.power, out := s.out } [(R.PWR_DOM_STATE.STATE d, 0), (R.PWR_DOM_STAT.CHANGES, 0)] [])) ∧
    (s.rd R.HKC_STAT.CAL_DONE 0 = 0 → s.rd R.HKC_STAT.CAL_BUSY 0 = 0 →
      (s.rd R.HKC_STAT.REF_READY 0 = 1 → ∃ t, exec .selfcal s = .next t ∧ t.rd R.HKC_STAT.CAL_BUSY 0 = 1 ∧ s.Frame t [(R.HKC_STAT.CAL_BUSY, 0)] []) ∧
      (s.rd R.HKC_STAT.REF_READY 0 = 0 → ∃ t, exec .selfcal s = .next t ∧ t.power.calWaits = true ∧ s.Frame { t with power := s.power } [] [])) ∧
    (s.rd R.HKC_CTL.REF_EN 0 ≠ 0 → ∃ t, exec .refReady s = .next t ∧ t.rd R.HKC_STAT.REF_READY 0 = 1 ∧ t.power.calWaits = false ∧
      (s.power.calWaits = true → t.rd R.HKC_STAT.CAL_BUSY 0 = 1) ∧
      s.Frame { t with power := s.power } [(R.HKC_STAT.REF_READY, 0), (R.HKC_STAT.CAL_BUSY, 0)] []) ∧
    (∀ factors, s.rd R.HKC_STAT.CAL_BUSY 0 ≠ 0 → ∃ t, exec (.selfcalDone factors) s = .next t ∧ t.rd R.HKC_STAT.CAL_BUSY 0 = 0 ∧
      t.rd R.HKC_STAT.CAL_DONE 0 = 1 ∧ ∀ g < 4, t.rd R.HKC_CAL.OFFSET g = (factors.getD g (0, 0)).1 % 2 ^ 24 ∧
        t.rd R.HKC_CAL.GAIN g = (factors.getD g (0, 0)).2 % 2 ^ 24) ∧
    (∀ took codes vals silent ports, s.rd R.HKC_CTL.RUN 0 ≠ 0 → s.rd R.HKC_STAT.REF_READY 0 ≠ 0 → s.rd R.HKC_STAT.CAL_BUSY 0 = 0 →
      s.rd R.HKC_STAT.CAL_DONE 0 = 1 → (∃ c ∈ s.sensors, s.rd R.THM_SENSOR.IGNORED c = 0 ∧ 920 ≤ roundVal vals c ∧ (c < 64 ∨ silent = [])) →
      ∃ t, exec (.housekeepingRound took codes vals silent ports) s = .next t ∧ t.dead = true) ∧
    (∀ took codes vals silent ports, s.rd R.HKC_CTL.RUN 0 ≠ 0 → s.rd R.HKC_STAT.REF_READY 0 ≠ 0 → s.rd R.HKC_STAT.CAL_BUSY 0 = 0 →
      s.rd R.HKC_STAT.CAL_DONE 0 = 0 → ∃ t, exec (.housekeepingRound took codes vals silent ports) s = .next t ∧
        t.power.round = s.power.round + 1 ∧
        t.rd R.HKC_STAT.ROUNDS 0 = min (s.rd R.HKC_STAT.ROUNDS 0 + 1) (2 ^ R.HKC_STAT.ROUNDS.wd - 1) ∧
        ∀ e < 128, if e < s.rd R.HKC_CTL.LENGTH 0 then
            t.rd R.HKC_RESULT.CODE e = (codes.getD e (0, false)).1 % 2 ^ 24 ∧ t.rd R.HKC_RESULT.VALID e = 1 ∧ t.rd R.HKC_RESULT.CAL e = 0 ∧
            t.rd R.HKC_RESULT.CLIP e = (if (codes.getD e (0, false)).2 then 1 else 0)
          else t.rd R.HKC_RESULT.VALID e = 0) ∧
    (s.discardWaits = false → ∃ t, exec .vprogLoss s = .next t ∧ t.writes = s.writes.filter (fun j => !j.started) ∧ t.arrays = s.arrays ∧
      ∀ i, t.rd R.BLK_ARRAY_STATE.STATE i = s.rd R.BLK_ARRAY_STATE.STATE i)

/-! ### Pins, write-verify, calibration, monitors and tours -/

/-- Calibration and what goes with it. Requests by software, by age and after a failure; the end of a gathering, with or without enough codes;
a fit that passes, those that fail for a level or a converter, and a lane's; windows of the monitors, one that flags columns among them; tours and their dwells; the end of a write-verify; and the
evaluation of the pins (R129, R130, R345, R346, R518, R520, R523, R526, R527, R530, R533, R534). -/
def Obligations.CalibrationResults : Prop :=
  ∀ (s : State) (f b : Nat),
    ((s.face f).pinHands + (if s.hand.running && !(s.face f).pinCounted then 1 else 0) ≥ s.rd R.ARF_PIN_CTL.WINDOW f →
      ∀ l, Escalates s f l → (∀ k, k < 256 → k ≠ l → s.rd R.ARF_LAYER_STAT.PASSES (ix 256 f k) = 0) →
        (s.pinOf f l < s.rd R.ARF_PIN_CTL.PIN_MAX f → Recordable s (pinEvent s f l (s.pinOf f l + 1) false) →
          ∃ t, exec (.pinEvaluation f) s = .next t ∧ Judged s f l t ∧ (t.face f).autoPins = (s.face f).autoPins ++ [(l, s.pinOf f l + 1)] ∧
            t.rd R.ARF_PIN_STAT.PINS f = min (s.rd R.ARF_PIN_STAT.PINS f + 1) (2 ^ R.ARF_PIN_STAT.PINS.wd - 1) ∧
            t.rd R.ARF_PIN_STAT.LAST_LAYER f = l % 2 ^ R.ARF_PIN_STAT.LAST_LAYER.wd ∧
            t.rd R.ARF_PIN_STAT.LAST_BENCH f = (s.pinOf f l + 1) % 2 ^ R.ARF_PIN_STAT.LAST_BENCH.wd ∧ t.rd R.ARF_PIN_STAT.VALID f = 1 ∧
            Recorded s (pinEvent s f l (s.pinOf f l + 1) false) t) ∧
        (s.rd R.ARF_PIN_CTL.PIN_MAX f ≤ s.pinOf f l → Recordable s (pinEvent s f l (s.pinOf f l) true) →
          ∃ t, exec (.pinEvaluation f) s = .next t ∧ Judged s f l t ∧ (t.face f).autoPins = (s.face f).autoPins ∧
            t.rd R.ARF_PIN_STAT.CAPPED f = 1 ∧ t.rd R.ARF_PIN_STAT.LAST_LAYER f = l % 2 ^ R.ARF_PIN_STAT.LAST_LAYER.wd ∧
            t.rd R.ARF_PIN_STAT.CAPS f = min (s.rd R.ARF_PIN_STAT.CAPS f + 1) (2 ^ R.ARF_PIN_STAT.CAPS.wd - 1) ∧
            Recorded s (pinEvent s f l (s.pinOf f l) true) t)) ∧
    (∀ a j, OnlyWrite s f b a j → 1 ≤ j.kind → j.kind ≤ 3 → s.ticking = true →
      (∃ t, exec (.writeVerifyDone f b a true []) s = .next t ∧ t.writes = [] ∧
        t.arr f b a = { (s.arr f b a).lay j.cells with sums := j.sums, expected := j.digest, current := j.digest } ∧ t.acts = s.acts ++ [.switch f b j.slot a j.src j.kind] ∧
        t.aState f b a = s.aState f b a ∧
        t.rd R.BLK_WEAR.CYCLES (ixA f b a) = s.rd R.BLK_WEAR.CYCLES (ixA f b a) + 1 ∧ t.rd R.PLT_PROG_STAT.SLOTS 0 = 0) ∧
      (j.again = false → ∃ t, exec (.writeVerifyDone f b a false []) s = .next t ∧ t.writes = [{ j with again := true }] ∧
        t.arrays = s.arrays ∧ t.acts = s.acts ∧
        t.rd R.BLK_WEAR.CYCLES (ixA f b a) = s.rd R.BLK_WEAR.CYCLES (ixA f b a) + 1 ∧ t.rd R.PLT_PROG_STAT.SLOTS 0 = 1) ∧
      (j.again = true → ∃ t, exec (.writeVerifyDone f b a false []) s = .next t ∧ t.aState f b a = 5 ∧
        t.rd R.BLK_WEAR.CYCLES (ixA f b a) = s.rd R.BLK_WEAR.CYCLES (ixA f b a) + 1)) ∧
    (∀ port, (f < s.nFaces → b < 64 → Unrequested s f b → ∃ t, exec (.calReq f b false port false) s = .next t ∧ Requested s f b 6 t) ∧
      (port < 6 → s.portPresent port = true → s.rd R.LNK_PORT_STATE.STATE port = 4 →
        ∃ t, exec (.calReq f b false port true) s = .next t ∧ t.rd R.CAL_LANE_STATE.PENDING port = 1 ∧
          s.Frame t [(R.CAL_REQ.FACE, 0), (R.CAL_REQ.BLOCK, 0), (R.CAL_REQ.ALL, 0), (R.CAL_REQ.PORT, 0), (R.CAL_REQ.LANES, 0),
            (R.CAL_LANE_STATE.PENDING, port)] [])) ∧
    ((∀ at_, (s.cal f b).passAt = some at_ → Unrequested s f b → ∃ t, exec (.calAge f b none) s = .next t ∧ Requested s f b 5 t ∧
        t.now = max s.now (at_ + s.rd R.CAL_CFG.MAX_AGE 0 * 1000000000)) ∧
      (∀ port, port < 6 → s.portPresent port = true → s.rd R.LNK_PORT_STATE.STATE port = 4 → ∃ t, exec (.calAge f b (some port)) s = .next t ∧
        t.rd R.CAL_LANE_STATE.PENDING port = 1 ∧ s.Frame t [(R.CAL_LANE_STATE.PENDING, port)] [])) ∧
    (∀ at_, (s.cal f b).retryAt = some at_ → Unrequested s f b → ∃ t, exec (.calRetry f b) s = .next t ∧ Requested s f b 4 t ∧
      (t.cal f b).retryAt = none ∧ t.now = max s.now at_) ∧
    ((s.cal f b).gather ≠ none → 32 ≤ s.fullConverters f b → ∃ t, exec (.gatherClose f b) s = .next t ∧ (t.cal f b).gather = none ∧
      (t.cal f b).fitting = some ((s.blockTemp f b).getD 0) ∧ { t with cals := s.cals } = s) ∧
    (∀ since, (s.cal f b).gather = some since → s.fullConverters f b < 32 → ∃ t, exec (.gatherTimeout f b) s = .next t ∧
      t.rd R.CAL_BLK_STATE.RESULT (ixB f b) = 3 ∧ (t.cal f b).idle = true ∧ (t.cal f b).req = (s.cal f b).req ∧
      t.now = max s.now (since + s.rd R.CAL_CFG.MAX_WAIT 0 * 1000000000) ∧
      t.rd R.CAL_STAT.IDLES 0 = min (s.rd R.CAL_STAT.IDLES 0 + 1) (2 ^ R.CAL_STAT.IDLES.wd - 1)) ∧
    (∀ tc, s.injs = [] → (s.cal f b).fitting = some tc → s.ticking = true → s.failedConvs f b = [] →
      ((levelTrims (s.cal f b).normal).2 = 0 → ∃ t, exec (.calFitDone f b none) s = .next t ∧
        (t.cal f b).next.level = (levelTrims (s.cal f b).normal).1 ∧ t.rd R.CAL_BLK_STATE.PENDING (ixB f b) = 0 ∧
        t.rd R.CAL_BLK_STATE.RESULT (ixB f b) = 1 ∧ (t.cal f b).req = none ∧ (t.cal f b).ready = some tc ∧
        (t.cal f b).count = (s.cal f b).count + 1 ∧ (t.cal f b).retryAt = none ∧
        t.rd R.CAL_STAT.PASSES 0 = min (s.rd R.CAL_STAT.PASSES 0 + 1) (2 ^ R.CAL_STAT.PASSES.wd - 1)) ∧
      (∀ levels e, levels = (levelTrims (s.cal f b).normal).2 → levels ≠ 0 → e = { det := .calFailLevel, unit := s.unitBlock f b, d0 := BitVec.ofNat 64 levels } → Recordable s e →
        ∃ t, exec (.calFitDone f b none) s = .next t ∧ t.rd R.CAL_BLK_STATE.PENDING (ixB f b) = 0 ∧
          t.rd R.CAL_BLK_STATE.RESULT (ixB f b) = 2 ∧ (t.cal f b).req = none ∧ (t.cal f b).ready = (s.cal f b).ready ∧
          (t.cal f b).retryAt = some (s.now + s.rd R.CAL_CFG.RETRY 0 * 1000000000) ∧
          t.rd R.CAL_STAT.FAILS 0 = min (s.rd R.CAL_STAT.FAILS 0 + 1) (2 ^ R.CAL_STAT.FAILS.wd - 1) ∧ Recorded s e t)) ∧
    (∀ tc c d e, s.injs = [] → (s.cal f b).fitting = some tc → s.failedConvs f b = [(c, d)] → (levelTrims (s.cal f b).normal).2 = 0 →
      e = { det := .calFailConv, unit := unitId 3 (s.phys f) b (c / 16) (c % 16), d0 := BitVec.ofNat 64 d } → Recordable s e →
      ∃ t, exec (.calFitDone f b none) s = .next t ∧ t.rd R.CAL_BLK_STATE.RESULT (ixB f b) = 2 ∧ (t.cal f b).req = none ∧
        c ∈ (t.cal f b).failed ∧ (t.cal f b).retryAt = some (s.now + s.rd R.CAL_CFG.RETRY 0 * 1000000000) ∧ Recorded s e t) ∧
    (∀ port lane mv, port < 6 → lane < 64 → s.injs = [] → s.rd R.CAL_LANE_STATE.PENDING port ≠ 0 → s.rd R.CAL_LANE_CFG.EYE_MIN 0 ≤ mv →
      ∃ t, exec (.calFitDone f b (some (port, [(lane, mv)]))) s = .next t ∧ t.rd R.CAL_LANE_STATE.PENDING port = 0 ∧
        t.rd R.CAL_LANE_STATE.PASS port = setBit (s.rd R.CAL_LANE_STATE.PASS port) lane true % 2 ^ R.CAL_LANE_STATE.PASS.wd ∧
        t.rd R.CAL_LANE_STATE.FAIL port = setBit (s.rd R.CAL_LANE_STATE.FAIL port) lane false % 2 ^ R.CAL_LANE_STATE.FAIL.wd) ∧
    (∀ a bench late, 32768 ≤ (mget {} s.monitors (ixA f b a * 4 + bench)).conv → late = true ∨ s.usedOf f b a = none →
      ∃ t, exec (.monitorWindowClose f b a bench late) s = .next t ∧ mget {} t.monitors (ixA f b a * 4 + bench) =
          { mget {} s.monitors (ixA f b a * 4 + bench) with conv := 0, krow := [], sums := [] } ∧
        (late = true → t.rd R.CAL_STAT.DISCARDED 0 = min (s.rd R.CAL_STAT.DISCARDED 0 + 1) (2 ^ R.CAL_STAT.DISCARDED.wd - 1)) ∧
        s.Frame { t with monitors := s.monitors } [(R.CAL_STAT.DISCARDED, 0)] []) ∧
    (∀ a bench m rows cols lsb, m = mget {} s.monitors (ixA f b a * 4 + bench) → 32768 ≤ m.conv → s.usedOf f b a = some (rows, cols) →
      lsb = (if bench = 0 then 16 else if bench = 1 then 8 else 2) →
      m.tested (s.arr f b a) rows cols lsb (s.rd R.CAL_MON_CFG.VAR_RATIO 0) ≠ [] →
      ∃ t, exec (.monitorWindowClose f b a bench false) s = .next t ∧ t.rd R.CAL_BLK_STATE.PENDING (ixB f b) = 1 ∧
        (mget {} t.monitors (ixA f b a * 4 + bench)).conv = 0 ∧
        ∀ e ∈ m.tested (s.arr f b a) rows cols lsb (s.rd R.CAL_MON_CFG.VAR_RATIO 0),
          (mget {} (mget {} t.monitors (ixA f b a * 4 + bench)).cols e.1).flag = true) ∧
    (∀ slot a, s.rd R.CAL_DUP_CFG.TOUR_EN 0 ≠ 0 → TourAt s f b slot a → ∃ t, exec .tourStart s = .next t ∧
      t.now = max s.now (s.tourAt + s.rd R.CAL_DUP_CFG.PERIOD 0 * 3600000000000) ∧ t.tourAt = t.now ∧
      t.rd R.CAL_BLK_STATE.TOURING (ixB f b) = 1 ∧ t.rd R.CAL_BLK_STATE.TOUR_SLOT (ixB f b) = slot ∧
      mget {} t.tours (ixB f b) = { step := 1, slot := slot }) ∧
    (s.injs = [] → (mget {} s.tours (ixB f b)).step = 3 → (mget {} s.tours (ixB f b)).fitted = false →
      1024 ≤ (mget {} s.tours (ixB f b)).sampled → s.ticking = true →
      (∃ t, exec (.dwellFit f b none) s = .next t ∧ t.acts = s.acts ++ [.fit f b] ∧ { t with acts := s.acts } = s) ∧
      ∀ c e, e = { det := .dwellFit, unit := s.unitArray f b (s.rd R.BLK_SPARE.CHECK (ixB f b)), d0 := BitVec.ofNat 64 c } → Recordable s e →
        ∃ t, exec (.dwellFit f b (some c)) s = .next t ∧ Recorded s e t ∧ t.rd R.BLK_SPARE.CHECK_VALID (ixB f b) = 0 ∧
          t.rd R.BLK_SPARE.UNDER_VALID (ixB f b) = 0 ∧ t.rd R.CAL_BLK_STATE.TOURING (ixB f b) = 0) ∧
    ((mget {} s.tours (ixB f b)).step = 3 → s.ticking = true → ∃ t, exec (.dwellEnd f b) s = .next t ∧
      t.now = max s.now (mget {} s.tours (ixB f b)).until_ ∧ (mget {} t.tours (ixB f b)).step = 4 ∧
      t.acts = s.acts ++ [.switch f b (mget {} s.tours (ixB f b)).slot (s.rd R.BLK_SPARE.CHECK (ixB f b)) (s.rd R.BLK_SPARE.UNDER (ixB f b)) 4] ∧
      { t with now := s.now, tours := s.tours, acts := s.acts } = s)

/-! ### Engines at work -/

/-- What happens to operations in their engines. An operation leaves its queue and starts; an AREAD completes with its digest line; vectors are
examined in order; a phase of a pass ends and the pass goes on, ends, repeats at a higher bench or stays unresolved; bench 3 takes its passes
and finishes them exactly; a packet is counted at every router of its way, or waits where its way is
busy; and a fine check agrees, differs, or is missed (R54, R56, R90, R121,
R124, R125, R245, R286, R298, R536, R537). -/
def Obligations.EngineEventResults : Prop :=
  ∀ (s : State) (f : Nat),
    (∀ q r i v drawn, Multiplies s f q r → i ≤ q.tile.blocks → v < fget q.w1 20 13 → r.pass i v = none →
      (v = 0 ∨ (r.pass i (v - 1)).isSome = true) →
      ∃ t p, exec (.vectorIssueCheck f i v drawn) s = .next t ∧ (t.face f).mvm = some { r with passes := p :: r.passes } ∧ p.block = i ∧
        p.vector = v ∧ max (q.f0 21 2) q.tile.pin ≤ p.floor ∧
        (q.tile.pin ≤ 3 → p.floor ≤ p.bench ∧ (p.uniform.all id = false → p.bench ≠ p.floor → p.escalated = true)) ∧
        t.rd R.ARF_VEC_STAT.VECTORS f = min (s.rd R.ARF_VEC_STAT.VECTORS f + q.tile.k * q.tile.n) (2 ^ R.ARF_VEC_STAT.VECTORS.wd - 1)) ∧
    (∀ q r i v p phase errs chk tally sat, Multiplies s f q r → r.pass i v = some p → p.st = .running phase → p.bench < 3 →
      ∃ t p', exec (.phaseEnd f i v errs chk tally sat) s = .next t ∧ (t.face f).mvm = some (MvmRun.with_ r p') ∧ p'.block = i ∧ p'.vector = v ∧
        ((sat = none ∧ p'.st = .running (phase + 1) ∧ phase + 1 ≠ benchPhases p.bench ∧ p'.bench = p.bench) ∨
         (sat = none ∧ phase + 1 = benchPhases p.bench ∧ (p'.st = .done ∨ (p'.st = .bench3 false ∧ p'.mismatch ≠ none)) ∧ p'.bench = p.bench) ∨
         (p'.repeated = true ∧ p.bench < p'.bench ∧ p'.st = (if p'.bench = 3 then .bench3 false else .running 0)))) ∧
    (∀ q r i p fine, Multiplies s f q r → s.engOn f = true → r.waiting i false = [p] → r.holdsFine = false →
      (∀ o ∈ r.passes, o.block < i → o.st ≠ .bench3 false) → fine = (s.face f).started.any (fun o => decide (o.eng = .fine)) →
      ∃ t, exec (.bench3Start f i) s = .next t ∧
        (t.face f).mvm = some { MvmRun.with_ r { p with st := .bench3 true } with preempted := r.preempted || fine } ∧
        t.rd R.FIN_OP_STAT.PREEMPT f = (if fine = true ∧ r.preempted = false then min (s.rd R.FIN_OP_STAT.PREEMPT f + 1) (2 ^ R.FIN_OP_STAT.PREEMPT.wd - 1)
          else s.rd R.FIN_OP_STAT.PREEMPT f)) ∧
    (∀ q r i p, Multiplies s f q r → s.injs = [] → r.waiting i true = [p] → p.mismatch = none → (s.bench3Sums f q.tile p).2 = none →
      ∃ t u, exec (.bench3Done f i [] none) s = .next t ∧ (t.face f).mvm = some u ∧
        u.passes = (MvmRun.with_ r { p with st := .done, exact := (s.bench3Sums f q.tile p).1 }).passes ∧ (u.preempted = true → u.wantsFine = true) ∧
        t.rd R.FIN_OP_STAT.BENCH3 f = min (s.rd R.FIN_OP_STAT.BENCH3 f + (p.uniform.filter (fun b => !b)).length * q.tile.n)
          (2 ^ R.FIN_OP_STAT.BENCH3.wd - 1)) ∧
    (∀ e q, MayStart s f e q → ∃ t, exec (.engineOpStart f e) s = .next t ∧
      (t.face f).queue = (s.face f).queue.filter (fun o => decide (o.id ≠ q.id)) ∧ (t.face f).started = (s.face f).started ++ [q] ∧
      (t.face f).mvm = (if q.eng = .array ∧ q.op = 0 then some { op := q.id, passes := [] } else (s.face f).mvm) ∧
      { t with faces := s.faces, hand := s.hand } = s) ∧
    (∀ q, ReadsDigest s f q → ∃ t, exec (.engineOpComplete f 0 none []) s = .next t ∧
      (t.face f).started = (s.face f).started.filter (fun o => decide (o.id ≠ q.id)) ∧
      (t.face f).sb = (s.face f).sb.filter (fun e => decide (e.op ≠ q.id)) ∧
      (t.face f).pad = (storeRun (s.face f) (rngBase q.al) ((digestLine s f q).map (fun v => (v, false))) 128).pad ∧
      { t with faces := s.faces } = s) ∧
    (∀ p : MPacket, Routable s p → s.injs = [] →
      (s.mesh = [] → ∃ t, exec (.meshPacket none p none [] [] none) s = .next t ∧ t.mesh = [] ∧
        (∀ r, t.rd R.MSH_ROUTER_STAT.BEATS r =
          if r ∈ packetRoute p then min (s.rd R.MSH_ROUTER_STAT.BEATS r + p.beats) (2 ^ R.MSH_ROUTER_STAT.BEATS.wd - 1)
          else s.rd R.MSH_ROUTER_STAT.BEATS r) ∧
        s.Frame t ((packetRoute p).map (fun r => (R.MSH_ROUTER_STAT.BEATS, r)) ++ [(R.MSH_ERR.CORRECTED, 0), (R.MSH_ERR.POISONED, 0)]) []) ∧
      ∀ k, k < (packetRoute p).length → isRsp p.kind = false → s.mesh = [] → ∃ t, exec (.meshPacket none p (some k) [] [] none) s = .next t ∧
        t.mesh = [⟨p, k, []⟩]) ∧
    (∀ c crc, AwaitsFine s f c →
      (crc = c.crc → ∃ t, exec (.fineCheckResult f crc) s = .next t ∧ t.fineChecks = s.fineChecks.erase c ∧
        t.rd R.CAL_DUP_STAT.FINE_SAMPLED 0 = min (s.rd R.CAL_DUP_STAT.FINE_SAMPLED 0 + 1) (2 ^ R.CAL_DUP_STAT.FINE_SAMPLED.wd - 1) ∧
        s.Frame { t with fineChecks := s.fineChecks } [(R.CAL_DUP_STAT.FINE_SAMPLED, 0)] []) ∧
      (crc ≠ c.crc → ∃ t, exec (.fineCheckResult f crc) s = .next t ∧ t.fineChecks = s.fineChecks.erase c ∧
        t.rd R.CAL_DUP_STAT.FINE_DIFF 0 = min (s.rd R.CAL_DUP_STAT.FINE_DIFF 0 + 1) (2 ^ R.CAL_DUP_STAT.FINE_DIFF.wd - 1) ∧
        t.face f = { s.face f with failed := true, recheck := some c.partner }))

/-! ### Programs, counters, tricks and the call ring -/

/-- Programs and what the host does to a face. A load begins, or is refused for its length; its end checks the program and makes it HELD or
refuses it; activation and hold wait for the boundary; an unload empties the face; each is refused in another state; a host call becomes
pending; a host's signal changes a counter at once where no hand runs and waits where one does (R225, R227, R232, R234, R241, R311, R314, R591).
Tricks: their registers wait for the boundary, and take effect at once where no ticks run; plays count, and the last of a round releases it, a
re-deal's alone where its round is over; a message of the call ring is counted and applied, or dropped and recorded where a flit is beyond correction
(R65 to R68, R73, R318, R319, R322, R602). -/
def Obligations.ProgramAndTrickResults : Prop :=
  ∀ (s : State) (f : Nat),
    ((s.progState f = 0 ∨ s.progState f = 2) →
      (16 ≤ s.rd R.FCE_PROG_CTL.WORDS f → s.rd R.FCE_PROG_CTL.WORDS f ≤ 131072 → ∃ t, exec (.programLoad f) s = .next t ∧ ProgramIs s f 1 0 t ∧
        (t.face f).loadWords = s.rd R.FCE_PROG_CTL.WORDS f ∧ (t.face f).progReq = none ∧ t.rd R.FCE_PROG_STATE.PENDING f = 0) ∧
      (s.rd R.FCE_PROG_CTL.WORDS f < 16 ∨ 131072 < s.rd R.FCE_PROG_CTL.WORDS f → ∃ t, exec (.programLoad f) s = .next t ∧
        t.rd R.FCE_PROG_STATE.STATE f = 0 ∧ t.rd R.FCE_PROG_STATE.REFUSE f = 2)) ∧
    (∀ words uncorr pcieErr, s.progState f = 1 → s.injs = [] →
      (∀ c, (loaded s f words).loadCheck f (s.face f).loadWords uncorr pcieErr = some c → c.1 < 16 →
        ∃ t, exec (.programLoadDone f words uncorr pcieErr) s = .next t ∧ ProgramIs s f 0 c.1 t ∧
          t.rd R.FCE_PROG_STATE.REFUSE_DETAIL f = min c.2 65535) ∧
      ((loaded s f words).loadCheck f (s.face f).loadWords uncorr pcieErr = none →
        ∃ t, exec (.programLoadDone f words uncorr pcieErr) s = .next t ∧ ProgramIs s f 2 (s.rd R.FCE_PROG_STATE.REFUSE f) t ∧
          t.face f = (loaded s f words).face f)) ∧
    (s.ticking = true →
      (s.progState f = 2 ∨ (s.progState f = 3 ∧ (s.face f).progReq ≠ none) → ∃ t, exec (.programActivate f) s = .next t ∧ requestWaits s f .activate t) ∧
      (s.progState f = 3 ∨ (s.progState f = 2 ∧ (s.face f).progReq ≠ none) → ∃ t, exec (.programHold f) s = .next t ∧ requestWaits s f .hold t)) ∧
    (s.progState f = 2 → ∃ t, exec (.programUnload f) s = .next t ∧ ProgramIs s f 0 (s.rd R.FCE_PROG_STATE.REFUSE f) t ∧
      (t.face f).progReq = none ∧ t.rd R.FCE_PROG_STATE.PENDING f = 0) ∧
    ((s.progState f ≠ 2 → s.progState f ≠ 3 ∨ (s.face f).progReq = none → ∃ t, exec (.programActivate f) s = .next t ∧ refusedState s f t) ∧
      (s.progState f ≠ 3 → s.progState f ≠ 2 ∨ (s.face f).progReq = none → ∃ t, exec (.programHold f) s = .next t ∧ refusedState s f t) ∧
      (s.progState f ≠ 2 → ∃ t, exec (.programUnload f) s = .next t ∧ refusedState s f t) ∧
      (s.progState f = 1 ∨ s.progState f = 3 → ∃ t, exec (.programLoad f) s = .next t ∧ refusedState s f t)) ∧
    (2 ≤ s.progState f → ((s.face f).vector 1).isSome = true → s.rd R.FCE_HOST_CALL.PENDING f = 0 → NoneLost s .hostCall →
      ∃ t, exec (.hostCall f) s = .next t ∧ t.rd R.FCE_HOST_CALL.PENDING f = 1 ∧ s.Frame t [(R.FCE_HOST_CALL.PENDING, f)] []) ∧
    (∀ k sub amount fn n, f < s.nFaces → k < 1024 → amount < 2 ^ 32 → n = (if sub then -(amount : Int) else (amount : Int)) →
      (s.hand.running = true → ∃ t, exec (.synCtrSig f k sub amount fn) s = .next t ∧
        t.face f = { s.face f with hostSigs := (s.face f).hostSigs ++ [(k, n, fn)] } ∧ s.Frame t [] [f]) ∧
      (s.hand.running = false → 0 ≤ ((mget {} (s.face f).ctr k).value : Int) + n →
        ((mget {} (s.face f).ctr k).value : Int) + n ≤ ((mget {} (s.face f).ctr k).ceil : Int) →
        ∃ t, exec (.synCtrSig f k sub amount fn) s = .next t ∧ ((mget {} (t.face f).ctr k).value : Int) = (mget {} (s.face f).ctr k).value + n ∧
          s.Frame t [] [f])) ∧
    (∀ i parties home, home < s.nFaces → home < 8 → parties ≤ 8 → i < 256 →
      (s.ticking = true → ∃ t, exec (.trickCfg i parties home) s = .next t ∧ mget none t.trickReq i = some (parties, home) ∧
        { t with trickReq := s.trickReq } = s) ∧
      (s.ticking = false → s.trickReq = [] → s.dtrickReq = [] → ∃ t, exec (.trickCfg i parties home) s = .next t ∧
        t.rd R.SYN_TRICK_CFG.PARTIES i = parties ∧ t.rd R.SYN_TRICK_CFG.HOME i = home ∧ t.rd R.SYN_TRICK_CFG.COUNT i = 0 ∧
        t.rd R.SYN_TRICK_CFG.ROUNDS i = 0 ∧ mget [] t.plays i = [])) ∧
    (∀ i parties, parties ≤ 32768 → i < 64 →
      (s.ticking = true → ∃ t, exec (.dtrickCfg i parties) s = .next t ∧ mget none t.dtrickReq i = some parties ∧
        { t with dtrickReq := s.dtrickReq } = s) ∧
      (s.ticking = false → s.trickReq = [] → s.dtrickReq = [] → ∃ t, exec (.dtrickCfg i parties) s = .next t ∧
        t.rd R.SYN_DTRICK_CFG.PARTIES i = parties ∧ t.rd R.SYN_DTRICK_CFG.COUNT i = 0 ∧ mget {} t.dtricks i = {})) ∧
    (∀ m : RingMsg, s.injs = [] → m.src < 12 → (∀ b, m.dst = some b → b < 12) → 0 < m.flits → m.flits ≤ 2 →
      (∀ k w c, k ∈ (ringRoutes m).flatten → c ∈ (ringRoutes m).flatten → ∃ t, exec (.callRingMessage none m [(k, w)] [c] none) s = .next t ∧
        t.rd R.MSH_RING_STAT.MESSAGES 0 = min (s.rd R.MSH_RING_STAT.MESSAGES 0 + 1) (2 ^ R.MSH_RING_STAT.MESSAGES.wd - 1) ∧
        t.rd R.MSH_RING_STAT.MAX_WAIT 0 = max (s.rd R.MSH_RING_STAT.MAX_WAIT 0) (min w 40) ∧
        t.rd R.MSH_RING_STAT.CORRECTED 0 = min (s.rd R.MSH_RING_STAT.CORRECTED 0 + 1) (2 ^ R.MSH_RING_STAT.CORRECTED.wd - 1) ∧
        s.Frame t [(R.MSH_RING_STAT.MESSAGES, 0), (R.MSH_RING_STAT.MAX_WAIT, 0), (R.MSH_RING_STAT.CORRECTED, 0)] []) ∧
      ∀ k b e, k ∈ (ringRoutes m).flatten → m.dst = some b → faceOfStop b = none →
        e = { det := .ringUncorr, unit := unitId 10 0 0 0 k, d0 := BitVec.ofNat 64 (ringClass m.kind), fatal := decide (ringClass m.kind = 0)
              d1 := 0xFF#64, lface := 0xFF } → Recordable s e →
        ∃ t, exec (.callRingMessage none m [] [] (some k)) s = .next t ∧ t.ringLost = s.ringLost ++ [(m.kind, b)] ∧ Recorded s e t ∧
          t.rd R.MSH_RING_STAT.MESSAGES 0 = s.rd R.MSH_RING_STAT.MESSAGES 0 ∧ (ringClass m.kind = 0 → t.rd R.FLT_FATAL.RING_CLASS0 0 = 1)) ∧
    (∀ m j src home i, s.injs = [] → s.ring[j]? = some (.play src home i) → (s.ring.take j).any (fun e => decide (e.ends = (src, home))) = false →
      s.rd R.SYN_TRICK_CFG.COUNT i + 1 < s.rd R.SYN_TRICK_CFG.PARTIES i →
      ∃ t, exec (.callRingMessage (some j) m [] [] none) s = .next t ∧ t.ring = s.ring.eraseIdx j ∧
        t.rd R.SYN_TRICK_CFG.COUNT i = s.rd R.SYN_TRICK_CFG.COUNT i + 1 ∧ mget [] t.plays i = mget [] s.plays i ++ [src] ∧
        t.rd R.MSH_RING_STAT.MESSAGES 0 = min (s.rd R.MSH_RING_STAT.MESSAGES 0 + 1) (2 ^ R.MSH_RING_STAT.MESSAGES.wd - 1)) ∧
    (∀ m j src home i, s.injs = [] → s.ring[j]? = some (.play src home i) → (s.ring.take j).any (fun e => decide (e.ends = (src, home))) = false →
      src ≠ home → mget [] s.plays i = [] → s.rd R.SYN_TRICK_CFG.PARTIES i = 1 → s.rd R.SYN_TRICK_CFG.COUNT i = 0 →
      ∃ t, exec (.callRingMessage (some j) m [] [] none) s = .next t ∧ t.ring = s.ring.eraseIdx j ++ [.release home src i] ∧
        t.rd R.SYN_TRICK_CFG.COUNT i = 0 ∧ t.rd R.SYN_TRICK_CFG.ROUNDS i = (s.rd R.SYN_TRICK_CFG.ROUNDS i + 1) % 2 ^ R.SYN_TRICK_CFG.ROUNDS.wd ∧
        mget [] t.plays i = []) ∧
    (∀ src i h hn, s.isManager = true → hn = s.rd R.SYN_HAND_NUM.HAND 0 → s.rd R.SYN_DTRICK_CFG.PARTIES i ≠ 0 →
      ((mget {} s.dtricks i).released.contains h = false ∨ hn ≤ h → (s.dtrickPlays i h).length + 1 < s.rd R.SYN_DTRICK_CFG.PARTIES i →
        ∃ t, exec (.domainTrickPlay src i h) s = .next t ∧ t.dtrickPlays i h = s.dtrickPlays i h ++ [src] ∧
          (mget {} t.dtricks i).released = (mget {} s.dtricks i).released ∧
          t.rd R.SYN_DTRICK_CFG.COUNT i = (t.dtrickPlays i hn).length % 2 ^ R.SYN_DTRICK_CFG.COUNT.wd ∧
          s.Frame { t with dtricks := s.dtricks } [(R.SYN_DTRICK_CFG.COUNT, i)] []) ∧
      ((mget {} s.dtricks i).released.contains h = false ∨ hn ≤ h → s.rd R.SYN_DTRICK_CFG.PARTIES i ≤ (s.dtrickPlays i h).length + 1 →
        ∃ t, exec (.domainTrickPlay src i h) s = .next t ∧ t.dtrickPlays i h = [] ∧ (mget {} t.dtricks i).released.contains h = true) ∧
      (∀ port, (mget {} s.dtricks i).released.contains h = true → h < hn → src ≠ s.devAddr → RoutedNow s src port →
        ∃ t, exec (.domainTrickPlay src i h) s = .next t ∧ t.dtricks = s.dtricks ∧ Out.ctl port src s.devAddr (.release i h false) ∈ t.out))

/-! ### Receive windows, notices and answers -/

/-- Windows, parcels and notices. An open waits for the boundary and a closing window opens again; a close makes an OPEN window CLOSING and undoes
an open that waits; a DATA parcel takes its slot and is answered ACK, or is answered CLOSED, and one of a carried seat's history is kept for the serving unit; a SIGR is held with its hand; a commit
notice makes a complete slot ready; an abort notice drops the hand's SIGRs and parts; and an answer completes a SEND or takes its parcels off
(R29, R37, R275, R324 to R326, R328, R330, R433, R440, R466, R624). -/
def Obligations.WindowResults : Prop :=
  ∀ s : State,
    (∀ f w i, f < s.nFaces → w < 256 → i = ix 256 f w →
      (s.winState f w = 0 → s.ticking = true → ∃ t, exec (.windowOpen f w) s = .next t ∧ t.winState f w = 1 ∧
        t.win f w = { s.win f w with openReq := true, live := true } ∧ s.Frame t [(R.SYN_WIN_STATE.STATE, i)] [f]) ∧
      (s.winState f w = 3 → ∃ t, exec (.windowOpen f w) s = .next t ∧ t.winState f w = 2 ∧ s.Frame t [(R.SYN_WIN_STATE.STATE, i)] []) ∧
      (s.winState f w = 1 → ∃ t, exec (.windowClose f w) s = .next t ∧ t.winState f w = 0 ∧
        t.win f w = { s.win f w with openReq := false, live := false } ∧ s.Frame t [(R.SYN_WIN_STATE.STATE, i)] [f]) ∧
      (s.winState f w = 2 → s.ticking = true → ∃ t, exec (.windowClose f w) s = .next t ∧ t.winState f w = 3 ∧
        s.Frame t [(R.SYN_WIN_STATE.STATE, i)] [])) ∧
    (∀ port p k, Lands s p k → ∃ u t, exec (.dataParcel port p) s = .next t ∧ Answered u port p 0 t ∧ CountsParcel s port u ∧
      mget {} (u.win p.face p.win).slots k = { mget {} (s.win p.face p.win).slots k with
        st := .staged, hand := p.hand, bytes := (mget {} (s.win p.face p.win).slots k).bytes + p.lines * 128, number := p.slot
        parcels := (mget {} (s.win p.face p.win).slots k).parcels ++ [⟨p.offset, p.lines, p.seq, port, crc32c (wordBytes p.data)⟩] }) ∧
    (∀ port p i, p.dst = s.devAddr → p.epoch = s.rd R.KEY_SESSION.EPOCH 0 → p.face < s.nFaces → p.win < 256 → s.winState p.face p.win ≠ 2 →
      NoneLost s .arrival → ¬ (p.face = 0 ∧ p.win = 255 ∧ 2 ≤ s.rd R.SRV_MODE.MODE 0) → i = ix 256 p.face p.win → ∃ u t, exec (.dataParcel port p) s = .next t ∧ Answered u port p 1 t ∧ CountsParcel s port u ∧
        u.rd R.SYN_WIN_STAT.CLOSED i = min (s.rd R.SYN_WIN_STAT.CLOSED i + 1) (2 ^ R.SYN_WIN_STAT.CLOSED.wd - 1) ∧
        s.Frame u [(R.LNK_PARCEL_STAT.PARCELS, port), (R.SYN_WIN_STAT.CLOSED, i)] []) ∧
    (∀ port p, p.dst = s.devAddr → p.epoch = s.rd R.KEY_SESSION.EPOCH 0 → p.face = 0 → p.win = 255 → 2 ≤ s.rd R.SRV_MODE.MODE 0 → p.sealOk = true →
      NoneLost s .arrival → ∃ u t, exec (.dataParcel port p) s = .next t ∧ Answered u port p 0 t ∧ CountsParcel s port u ∧
        mget [] u.histIn p.src = (mget [] s.histIn p.src).take (p.offset / 8) ++ p.data ∧
        s.Frame { u with histIn := s.histIn } [(R.LNK_PARCEL_STAT.PARCELS, port)] []) ∧
    (∀ port p, p.dst = s.devAddr → p.epoch = s.rd R.KEY_SESSION.EPOCH 0 → s.aborts.contains (p.src, p.hand) = false →
      s.commits.contains (p.src, p.hand) = false → p.face < s.nFaces → p.sealOk = true →
      ∃ u t, exec (.sigrParcel port p) s = .next t ∧ Answered u port p 0 t ∧ CountsParcel s port u ∧
        u.sigrs = s.sigrs ++ [⟨p.src, p.hand, p.face, p.ctr, p.amount, false⟩] ∧
        s.Frame { u with sigrs := s.sigrs } [(R.LNK_PARCEL_STAT.PARCELS, port)] []) ∧
    (∀ port src hand wins, NoneLost s .commit → ∃ t, exec (.commit port s.devAddr src hand wins true) s = .next t ∧
      t.partials = s.partials ++ [(src, hand, wins)] ∧ { t with partials := s.partials } = s) ∧
    (∀ port src hand e k n, Completes s src hand e k n → ∃ t, exec (.commit port s.devAddr src hand [e] false) s = .next t ∧
      t.commits = s.commits ++ [(src, hand)] ∧
      t.sigrs = s.sigrs.map (fun g => if g.src = src ∧ g.hand = hand then { g with committed := true } else g) ∧
      mget {} (t.win e.face e.win).slots k =
        { mget {} (s.win e.face e.win).slots k with st := .ready, number := n, stampLo := e.stampLo, stampHi := e.stampHi }) ∧
    (∀ port src hand, NoneLost s .abort → s.commits.contains (src, hand) = false → s.aborts.contains (src, hand) = false →
      ∃ t, exec (.abort port s.devAddr src hand) s = .next t ∧ t.aborts = s.aborts ++ [(src, hand)] ∧
        t.sigrs = s.sigrs.filter (fun g => !decide (g.src = src ∧ g.hand = hand)) ∧
        t.partials = s.partials.filter (fun e => !decide (e.1 = src ∧ e.2.1 = hand))) ∧
    (∀ port src seq count f x q, OneSend s f x q src → 0 < seqOverlap q.seq0 q.sendParcels seq count →
      (seqOverlap q.seq0 q.sendParcels seq count < q.left → ∃ t, exec (.answer port s.devAddr src 0 seq count) s = .next t ∧
        (t.face f).started = [{ q with left := q.left - seqOverlap q.seq0 q.sendParcels seq count }]) ∧
      (q.left ≤ seqOverlap q.seq0 q.sendParcels seq count → ∃ t, exec (.answer port s.devAddr src 0 seq count) s = .next t ∧
        (t.face f).started = [] ∧ (t.face f).sb = x.sb.filter (fun e => decide (e.op ≠ q.id))))

/-! ### Weight images -/

/-- Weight images. An image that passes its checks opens, and while a build runs the request is refused with code 15; a section that arrives whole
with its digest is stored and staged, the manifest is taken, and the last one makes the image STAGED; one with another digest refuses the image
with code 9; DISCARD frees the staging region, or waits for a restore; load parcels of the open image are stored, and those of another image or
with a failed seal dropped and counted; a put begins, is refused, and stores what was read. A build of nothing ends at once, and one of a weight
set gives its map entry the copy's place and the image's version; a cut request is held for its boundary; the background reader leaves an array
whole, orders a re-dress for its margin, finds a live copy's array LOST or takes a ready copy's READY away; a tally that is not complete is kept,
and one of two that differ expels the replica whose own digest is not the expected one; a snapshot reports the one layer of a device; and RESTORE
begins, is refused, and ends with the fine blocks in HBM (R337 to R343, R347, R349 to R351, R353, R361 to R364, R431, R604). -/
def Obligations.ImageResults : Prop :=
  ∀ s : State,
    (∀ o l, l = laySections s.devAddr o.base o.secs → s.rd R.PLT_BUILD_CTL.BUSY 0 = 0 → s.rd R.PLT_LIFECYCLE.STATE 0 ≠ 3 →
      MayOpen s o l.2 → s.rd R.PLT_WIMG_CTL.LOADER 0 = 0 → (∃ e ∈ l.1, e.mine = true) →
      ∃ t, exec (.wimgOpen o) s = .next t ∧ ImageState s 1 t ∧ t.discardWaits = false ∧
        t.img = some { version := o.fld 8 4, model := o.fld 16 8, own := true, base := o.base, room := o.room, secs := l.1
                       devs := (manifestOf o.manifest).map Prod.fst }) ∧
    (∀ o e, s.rd R.PLT_BUILD_CTL.BUSY 0 = 1 → e = { det := .imageRefused, unit := unitId 18 0 0 0 0, d0 := 15#64, d1 := 0#64 } → Recordable s e →
      ∃ t, exec (.wimgOpen o) s = .next t ∧ t.rd R.PLT_WIMG_STATE.REFUSE 0 = 15 ∧ t.img = s.img ∧ Recorded s e t) ∧
    ((∀ j ∈ s.writes, j.kind ≠ 3) → ∃ t, exec .wimgDiscard s = .next t ∧ t.img = none ∧ ImageState s 0 t) ∧
    ((∃ j ∈ s.writes, j.kind = 3) → ∃ t, exec .wimgDiscard s = .next t ∧ t.discardWaits = true ∧ { t with discardWaits := s.discardWaits } = s) ∧
    (∀ x i e words ws data, Arrives s x i e words ws → digestWords ((wordBytes ws).take e.ent.len) = e.ent.digest →
      ∃ t, exec (.sectionStaged i words data) s = .next t ∧ t.img = some (withStaged x i (secHolds e.ent.typ ws data)) ∧
        (x.own = true → HbmHolds t e.addr words) ∧
        (∀ devs n, e.ent.typ = 0 → data = .manifest devs n → t.manifest = manifestOf ws ∧ t.seatMax = n) ∧
        ((∀ k y, k ≠ i → x.secs[k]? = some y → y.mine = true → y.staged = true) → t.rd R.PLT_WIMG_STATE.STATE 0 = 2) ∧
        ((∃ k y, k ≠ i ∧ x.secs[k]? = some y ∧ y.mine = true ∧ y.staged = false) →
          t.rd R.PLT_WIMG_STATE.STATE 0 = s.rd R.PLT_WIMG_STATE.STATE 0)) ∧
    (∀ x i e words ws data, Arrives s x i e words ws → digestWords ((wordBytes ws).take e.ent.len) ≠ e.ent.digest →
      ∃ t, exec (.sectionStaged i words data) s = .next t ∧ t.img = none ∧ t.rd R.PLT_WIMG_STATE.STATE 0 = 3 ∧
        t.rd R.PLT_WIMG_STATE.REFUSE 0 = 9 ∧ t.rd R.PLT_WIMG_STATE.DETAIL 0 = min i (2 ^ 20 - 1)) ∧
    (∀ port p open_, p.dst = s.devAddr →
      (p.sealOk = false → ∃ t, exec (.loadParcel port p open_) s = .next t ∧
        t.rd R.LNK_PARCEL_STAT.SEAL_FAIL port = min (s.rd R.LNK_PARCEL_STAT.SEAL_FAIL port + 1) (2 ^ R.LNK_PARCEL_STAT.SEAL_FAIL.wd - 1) ∧
        s.Frame t [(R.LNK_PARCEL_STAT.PARCELS, port), (R.LNK_PARCEL_STAT.SEAL_FAIL, port)] []) ∧
      ∀ x, s.img = some x → p.sealOk = true →
        (x.model ≠ p.model ∨ x.version ≠ p.amount → ∃ t, exec (.loadParcel port p open_) s = .next t ∧
          t.rd R.PLT_WIMG_STATE.DROPPED 0 = min (s.rd R.PLT_WIMG_STATE.DROPPED 0 + 1) (2 ^ R.PLT_WIMG_STATE.DROPPED.wd - 1) ∧
          s.Frame t [(R.LNK_PARCEL_STAT.PARCELS, port), (R.PLT_WIMG_STATE.DROPPED, 0)] []) ∧
        ∀ e, x.model = p.model → x.version = p.amount → x.secs[p.offset]? = some e → e.mine = true → e.staged = false →
          Storable s (e.addr + p.slot) p.data.length → ∃ t, exec (.loadParcel port p open_) s = .next t ∧
            HbmHolds t (e.addr + p.slot) p.data ∧
            t.img = some { x with secs := x.secs.modify p.offset (fun y => { y with got := y.got ++ [p.slot] }) }) ∧
    (∀ d n, MayPut s d n → ∃ t, exec .put s = .next t ∧ t.put = some (d, n) ∧ t.rd R.PLT_PUT_CTL.BUSY 0 = 1 ∧
      s.Frame { t with put := s.put } [(R.PLT_PUT_CTL.BUSY, 0)] []) ∧
    (s.rd R.PLT_PUT_CTL.LEN 0 % 128 ≠ 0 ∨ s.rd R.PLT_PUT_CTL.LEN 0 = 0 → ∃ t, exec .put s = .next t ∧ t.rd R.PLT_PUT_CTL.REFUSE 0 = 1 ∧
      t.rd R.PLT_PUT_CTL.REASON 0 = 1 ∧ t.put = s.put ∧ t.out = s.out ++ [.msix 1 5]) ∧
    (∀ d n words, s.put = some (d, n) → n % 128 = 0 → words.length = n / 8 → Storable s d words.length → ∃ t, exec (.putDone words) s = .next t ∧
      t.put = none ∧ t.rd R.PLT_PUT_CTL.BUSY 0 = 0 ∧ t.rd R.PLT_PUT_CTL.DONE 0 = 1 ∧ t.out = s.out ++ [.msix 1 5] ∧ HbmHolds t d words) ∧
    (∀ x group, MayBuild s x → group = (if s.rd R.PLT_BUILD_CTL.ALL 0 = 1 then none else some (s.rd R.PLT_BUILD_CTL.GROUP 0)) →
      (∀ g < s.nFaces, x.fineOf g = ([], [])) →
      (s.buildSets x group = [] → (∀ j ∈ s.writes, j.started = true ∧ j.host = false) → s.acts = [] →
        ∃ t, exec .build s = .next t ∧ t.rd R.PLT_BUILD_CTL.BUSY 0 = 0 ∧ t.out = s.out ++ [.msix 1 1] ∧ t.writes = s.writes) ∧
      ∀ f i m c, c = s.rd R.PLT_BUILD_CTL.COPY 0 → s.buildSets x group = [(f, i, m)] → s.buildCheck x c [(f, i, m)] = none →
        s.targetLive f c m = false →
        ∃ t, exec .build s = .next t ∧ t.rd (verFld c) (ix 4096 f m.w) = x.version % 2 ^ (verFld c).wd ∧
          t.rd R.ARF_WSMAP_LO.VALID (ix 4096 f m.w) = 1 ∧
          t.rd (if c = 0 then R.ARF_WSMAP_HI.A_BLOCK else R.ARF_WSMAP_HI.B_BLOCK) (ix 4096 f m.w) = (m.at_ c).1 ∧
          t.rd (if c = 0 then R.ARF_WSMAP_HI.A_SLOT else R.ARF_WSMAP_HI.B_SLOT) (ix 4096 f m.w) = (m.at_ c).2) ∧
    (∃ t, exec .cutReq s = .next t ∧ t.rd R.PLT_CUT_CTL.REQ 0 = 1 ∧ s.Frame t [(R.PLT_CUT_CTL.REQ, 0)] []) ∧
    (∀ f b a cells drift slot w c idx d n, Serves s f b a slot w c idx → d = (drifted s f b a cells).cellDigest f b a w idx →
      n = (drift.filter (fun v => decide (100 * s.rd R.PLT_DIGEST_CFG.REDRESS 0 < v))).length → s.ticking = true →
      ∃ t, exec (.backgroundRead f b a cells drift) s = .next t ∧ (t.arr f b a).current = d ∧
        t.rd R.BLK_WEAR.MARGIN (ixA f b a) = min 65535 n ∧
        (d = (s.arr f b a).expected → n = 0 → t.acts = s.acts) ∧
        (d = (s.arr f b a).expected → n ≠ 0 → s.writes = [] → t.acts = s.acts ++ [.redress f b a]) ∧
        (d ≠ (s.arr f b a).expected → s.wsLive f w = c → t.acts = s.acts ++ [.lost f b a]) ∧
        (d ≠ (s.arr f b a).expected → s.wsLive f w ≠ c → c < 2 → t.copyIsReady f w c = false ∧ t.acts = s.acts)) ∧
    (∀ port src k r other q layer hand version digest expected, TwoPeers s k src r other q →
      ((∀ u ∈ s.tallies, u.layer ≠ layer) → ∃ t, exec (.tally port s.devAddr src layer hand version digest expected) s = .next t ∧
        t.tallies = s.tallies ++ [⟨src, layer, hand, version, digest, expected⟩] ∧ { t with tallies := s.tallies } = s) ∧
      (∀ good e, s.tallies = [⟨other, layer, hand, version, good, good⟩] → good ≠ [] → expected = good → digest ≠ good →
        e = { det := .tallyExpel, unit := unitId 21 0 0 0 0 + src, d0 := BitVec.ofNat 64 r, d1 := BitVec.ofNat 64 layer } → Recordable s e →
        NotOwn s r → ∃ t, exec (.tally port s.devAddr src layer hand version digest expected) s = .next t ∧ t.tallies = [] ∧ t.repState r = 5 ∧
          t.rd R.PLT_TALLY_STAT.EXPELLED 0 = min (s.rd R.PLT_TALLY_STAT.EXPELLED 0 + 1) (2 ^ R.PLT_TALLY_STAT.EXPELLED.wd - 1) ∧ Recorded s e t)) ∧
    (s.hand.running = false → s.rd R.PLT_DIGEST_CFG.INTERVAL 0 ≠ 0 → s.rd R.SYN_HAND_NUM.HAND 0 ≠ 0 →
      s.rd R.SYN_HAND_NUM.HAND 0 % s.rd R.PLT_DIGEST_CFG.INTERVAL 0 = 0 →
      ((∀ l < 256, s.layerDigest l = none) → ∃ t, exec .tallySnapshot s = .next t ∧ t.digestBad = false ∧ { t with digestBad := s.digestBad } = s) ∧
      ∀ l d v port m, l < 256 → s.layerDigest l = some (d, v) → (∀ k < 256, k ≠ l → s.layerDigest k = none) → s.img = none →
        s.isManager = false → m = .tally l (s.rd R.SYN_HAND_NUM.HAND 0) v d → RoutedNow s s.manager port →
        ∃ t, exec .tallySnapshot s = .next t ∧ t.digestBad = false ∧ t.out = s.out ++ [.ctl port s.manager s.devAddr m] ∧
          t.rd R.PLT_TALLY_STAT.TALLIES 0 = min (s.rd R.PLT_TALLY_STAT.TALLIES 0 + 1) (2 ^ R.PLT_TALLY_STAT.TALLIES.wd - 1)) ∧
    (∀ x, s.img = some x → s.rd R.PLT_WIMG_STATE.STATE 0 = 2 →
      (∀ f < s.nFaces, ∀ w < 4096, s.wsValid f w = true → s.copyVer f w (s.wsLive f w) = x.version) → s.rd R.PLT_BUILD_CTL.BUSY 0 = 0 →
        s.rd R.PLT_BOOT_CTL.BUSY 0 = 0 → ∃ t, exec .restore s = .next t ∧ t.rd R.PLT_BOOT_CTL.BUSY 0 = 1 ∧ s.Frame t [(R.PLT_BOOT_CTL.BUSY, 0)] []) ∧
    (s.rd R.PLT_WIMG_STATE.STATE 0 ≠ 2 → ∃ t, exec .restore s = .next t ∧ t.rd R.PLT_BOOT_CTL.REFUSE 0 = 1 ∧ t.rd R.PLT_BOOT_CTL.REASON 0 = 1 ∧
      s.Frame t [(R.PLT_BOOT_CTL.REFUSE, 0), (R.PLT_BOOT_CTL.REASON, 0)] []) ∧
    (s.rd R.PLT_BOOT_CTL.BUSY 0 = 1 → ∃ t, exec .restoreDone s = .next t ∧ t.rd R.PLT_BOOT_CTL.BUSY 0 = 0 ∧ t.rd R.PLT_BOOT_CTL.DONE 0 = 1 ∧
      ∀ x f b, f < s.nFaces → s.img = some x → s.rd R.PLT_WIMG_STATE.STATE 0 = 2 → x.fineOf f = ([b], []) → b.resident = false →
        (∀ g < s.nFaces, (g ≠ f → x.fineOf g = ([], [])) ∧ (s.face g).fineLines = [] ∧
          ∀ w < 4096, s.built g w (s.wsLive g w) = true → s.copyVer g w (s.wsLive g w) ≠ x.version) →
        Storable s b.addr b.words.length → HbmHolds t b.addr b.words)

/-! ### Serving -/

/-- Serving. Doorbells move a ring's indices, or are counted as malformed or disabled; the front reads an ante or a fold and the manager holds it; a
mode waits for the boundary; prefix sets and grammars are installed, refused and taken away; times to live and deadlines end seats; tokens
reach a seat and its ring; a seat record is held by the dealer, or ends its seat with SEAL; and the rows of a slot are drawn once its shares are
in, or the seat without a record ends (R365 to R368, R370, R379, R387,
R388, R391, R393, R395, R402, R405, R410, R590). -/
def Obligations.ServingResults : Prop :=
  ∀ s : State,
    (∀ r v, r < 16384 →
      (s.rd R.SRV_RING_CTL.EN r = 0 →
        (∃ t, exec (.sqDoorbell r v) s = .next t ∧ s.Frame t [(R.HIF_DB_STAT.DISABLED, 0)] [] ∧
          t.rd R.HIF_DB_STAT.DISABLED 0 = min (s.rd R.HIF_DB_STAT.DISABLED 0 + 1) (2 ^ R.HIF_DB_STAT.DISABLED.wd - 1)) ∧
        ∃ t, exec (.cqDoorbell r v) s = .next t ∧ s.Frame t [(R.HIF_DB_STAT.DISABLED, 0)] [] ∧
          t.rd R.HIF_DB_STAT.DISABLED 0 = min (s.rd R.HIF_DB_STAT.DISABLED 0 + 1) (2 ^ R.HIF_DB_STAT.DISABLED.wd - 1)) ∧
      (s.rd R.SRV_RING_CTL.EN r = 1 →
        (v < ringSize s R.SRV_RING_SQ.SIZE r → NoneLost s .doorbell → ∃ t, exec (.sqDoorbell r v) s = .next t ∧ t.ring_ r = { s.ring_ r with tail := v } ∧
          t.rd R.HIF_DB_STAT.WRITES 0 = min (s.rd R.HIF_DB_STAT.WRITES 0 + 1) (2 ^ R.HIF_DB_STAT.WRITES.wd - 1) ∧
          s.Frame { t with rings := s.rings } [(R.SRV_RING_STAT.BACKLOG, r), (R.HIF_DB_STAT.WRITES, 0)] []) ∧
        (ringSize s R.SRV_RING_SQ.SIZE r ≤ v → ∃ t, exec (.sqDoorbell r v) s = .next t ∧ s.Frame t [(R.HIF_DB_STAT.BAD, 0)] [] ∧
          t.rd R.HIF_DB_STAT.BAD 0 = min (s.rd R.HIF_DB_STAT.BAD 0 + 1) (2 ^ R.HIF_DB_STAT.BAD.wd - 1)) ∧
        ∀ n d, n = ringSize s R.SRV_RING_CQ.SIZE r → v < n → d = (v + n - (s.ring_ r).head % n) % n →
          d ≤ (s.ring_ r).written - (s.ring_ r).head → (s.ring_ r).backlog = [] → NoneLost s .doorbell → s.hand.posted = none →
          ∃ t, exec (.cqDoorbell r v) s = .next t ∧ t.ring_ r = { s.ring_ r with head := (s.ring_ r).head + d } ∧
            t.irqs = s.irqs.filter s.irqDone.contains ∧
            t.out = s.out ++ (s.irqs.filter (fun x => !s.irqDone.contains x)).map (fun x => .msix 0 x))) ∧
    (∀ r e copy a, Submitted s r →
      a = heldAnte e copy r s.devAddr (s.rd R.SRV_STOCK_CFG.TTL_DEFAULT 0) (s.rd R.SRV_VOCAB.VOCAB 0) →
      (s.isManager = true → s.antes.length < 16384 → ∃ t, exec (.ante r e copy) s = .next t ∧ HeadMoves s r t ∧
        t.antes = s.antes ++ [a] ∧ s.Frame { t with antes := s.antes } [(R.SRV_RING_STAT.SQ_HEAD, r)] []) ∧
      (s.isManager = false → ∃ t, exec (.ante r e copy) s = .next t ∧ HeadMoves s r t ∧
        t.out = s.out ++ [.serve s.manager (2 :: r :: entFld e 0 32 32 :: a.bad :: entFld e 1 0 32 :: e.prompt.take (entFld e 1 32 32))] ∧
        s.Frame { t with out := s.out } [(R.SRV_RING_STAT.SQ_HEAD, r)] [])) ∧
    (∀ r e, Submitted s r →
      (entFoldOk e = true → s.isManager = true → ∃ t, exec (.fold r e) s = .next t ∧ HeadMoves s r t ∧
        t.folds = s.folds ++ [(entFld e 1 0 32, s.devAddr * 16384 + r, entFld e 0 32 32)] ∧
        s.Frame { t with folds := s.folds } [(R.SRV_RING_STAT.SQ_HEAD, r)] []) ∧
      (entFoldOk e = true → s.isManager = false → ∃ t, exec (.fold r e) s = .next t ∧ HeadMoves s r t ∧
        t.out = s.out ++ [.serve s.manager [3, r, entFld e 0 32 32, entFld e 1 0 32]] ∧ t.folds = s.folds) ∧
      (entFoldOk e = false → s.hif.flrFold = false → ∃ t q, exec (.fold r e) s = .next t ∧ HeadMoves s r t ∧ t.recs = s.recs ++ [q] ∧
        t.folds = s.folds ∧ q.ring = r ∧ q.ws = mkRecord (entFld e 0 32 32) (entFld e 1 0 32) 6 3 0 0 s.handNum 0 [])) ∧
    (∀ src r e copy vocab ttl,
      (s.isManager = true →
        (∃ t, exec (.forwardedAnte src r true e copy vocab ttl) s = .next t ∧
          t.folds = s.folds ++ [(entFld e 1 0 32, src * 16384 + r, entFld e 0 32 32)] ∧ { t with folds := s.folds } = s) ∧
        (s.antes.length < 16384 → ∃ t, exec (.forwardedAnte src r false e copy vocab ttl) s = .next t ∧
          t.antes = s.antes ++ [heldAnte e copy r src ttl vocab] ∧ { t with antes := s.antes } = s)) ∧
      (s.isManager = false → ∀ fold, exec (.forwardedAnte src r fold e copy vocab ttl) s = .next s)) ∧
    (∀ m, m ≤ 4 → 2 ≤ m ∨ ((∀ x ∈ s.seats, x.2.st ≠ .free → x.2.front ≠ s.devAddr) ∧ ∀ a ∈ s.antes, a.front ≠ s.devAddr) →
      s.ticking = true → ∃ t, exec (.srvMode m) s = .next t ∧ t.modeReq = some m ∧ { t with modeReq := s.modeReq } = s) ∧
    (∀ m, 4 < m ∨ (m ≤ 1 ∧ ∃ a ∈ s.antes, a.front = s.devAddr) → exec (.srvMode m) s = .next s) ∧
    (∀ p n, MayInstall s p n → ∃ t, exec .pfxInstall s = .next t ∧ t.rd R.SRV_PFX_STATE.STATE p = 1 ∧ t.rd R.SRV_PFX_STATE.PAGES p = n ∧
      (mget {} t.prefixes p).frames.length = n ∧ (mget {} t.prefixes p).ready = false ∧ ∀ q, q ≠ p → mget {} t.prefixes q = mget {} s.prefixes q) ∧
    (s.rd R.SRV_PFX_CTL.PAGES 0 = 0 ∨ 64 < s.rd R.SRV_PFX_CTL.PAGES 0 → ∃ t, exec .pfxInstall s = .next t ∧
      t.rd R.SRV_PFX_STATE.FAILED (s.rd R.SRV_PFX_CTL.SET 0) = 1 ∧ s.Frame t [(R.SRV_PFX_STATE.FAILED, s.rd R.SRV_PFX_CTL.SET 0)] []) ∧
    (∀ p shares, s.ticking = true →
      (s.rd R.SRV_PFX_STATE.STATE p = 1 → ∃ t, exec (.prefixInstalled p shares) s = .next t ∧
        mget {} t.prefixes p = { mget {} s.prefixes p with ready := true } ∧ (∀ q, q ≠ p → mget {} t.prefixes q = mget {} s.prefixes q) ∧
        t.rd R.SRV_PFX_STATE.STATE p = 1) ∧
      (s.rd R.SRV_PFX_STATE.STATE p ≠ 1 → exec (.prefixInstalled p shares) s = .next s)) ∧
    (∀ p, p = s.rd R.SRV_PFX_CTL.SET 0 → s.ticking = true →
      (s.rd R.SRV_PFX_STATE.STATE p = 2 → ∃ t, exec .pfxRemove s = .next t ∧ t.rd R.SRV_PFX_STATE.STATE p = 3 ∧
        s.Frame t [(R.SRV_PFX_STATE.STATE, p)] []) ∧
      (s.rd R.SRV_PFX_STATE.STATE p ≠ 2 → exec .pfxRemove s = .next s)) ∧
    (∀ i, (s.seat i).st = .stocking ∨ (s.seat i).st = .stocked → (s.seat i).freeing = false → (s.seat i).expires ≤ s.now →
      ∃ t, exec (.ttlExpiry i) s = .next t ∧ t.seat i = { s.seat i with endCode := 255, freeing := true } ∧
        (∀ j, j ≠ i → t.seat j = s.seat j) ∧ { t with seats := s.seats } = s) ∧
    (∀ i a, s.antes[i]? = some a → a.deadline ≠ 0 → a.deadline < s.now → ∃ t, exec (.deadline true i) s = .next t ∧
      t.antes = s.antes.eraseIdx i ∧ t.rd R.SRV_STAT.REFUSED 0 = min (s.rd R.SRV_STAT.REFUSED 0 + 1) (2 ^ R.SRV_STAT.REFUSED.wd - 1)) ∧
    (∀ i, (s.seat i).deadline ≠ 0 → (s.seat i).deadline < s.now → (s.seat i).freeing = false →
      ((s.seat i).st = .recall ∨ (s.seat i).st = .decode → ∃ t, exec (.deadline false i) s = .next t ∧
        t.seat i = { s.seat i with endCode := 8, freeing := true } ∧ (∀ j, j ≠ i → t.seat j = s.seat j) ∧ { t with seats := s.seats } = s) ∧
      ((s.seat i).st = .prefill → s.mode = 2 → ∃ t, exec (.deadline false i) s = .next t ∧
        t.seat i = { s.seat i with st := .drain, endCode := 8 } ∧ (∀ j, j ≠ i → t.seat j = s.seat j) ∧ { t with seats := s.seats } = s)) ∧
    (∀ g, g = s.rd R.DLR_GRAM_CTL.SLOT 0 →
      (s.rd R.DLR_GRAM_STATE.STATE g = 0 → 0 < s.rd R.DLR_GRAM_CTL.STATES 0 → s.rd R.DLR_GRAM_CTL.STATES 0 ≤ 16384 →
        s.rd R.DLR_GRAM_CTL.TRANS 0 ≤ 2 ^ 20 → ∃ t, exec .grammarLoad s = .next t ∧ t.rd R.DLR_GRAM_STATE.STATE g = 1 ∧
          s.Frame t [(R.DLR_GRAM_STATE.STATE, g)] []) ∧
      (s.rd R.DLR_GRAM_STATE.STATE g ≠ 0 → ∃ t, exec .grammarLoad s = .next t ∧ t.rd R.DLR_GRAM_STATE.FAILED g = 1 ∧
        t.rd R.DLR_GRAM_STATE.REASON g = 1 ∧ s.Frame t [(R.DLR_GRAM_STATE.FAILED, g), (R.DLR_GRAM_STATE.REASON, g)] []) ∧
      (s.rd R.DLR_GRAM_STATE.STATE g = 2 → s.ticking = true → ∃ t, exec .grammarUnload s = .next t ∧ t.rd R.DLR_GRAM_STATE.STATE g = 3 ∧
        s.Frame t [(R.DLR_GRAM_STATE.STATE, g)] []) ∧
      (s.rd R.DLR_GRAM_STATE.STATE g ≠ 2 → exec .grammarUnload s = .next s)) ∧
    (∀ g states trans, s.rd R.DLR_GRAM_STATE.STATE g = 1 →
      (gramBad states trans = 0 → s.ticking = true → ∃ t, exec (.grammarLoadDone g states trans) s = .next t ∧
        mget {} t.grams g = automaton states trans true ∧ { t with grams := s.grams } = s) ∧
      (gramBad states trans ≠ 0 → ∃ t, exec (.grammarLoadDone g states trans) s = .next t ∧ t.rd R.DLR_GRAM_STATE.STATE g = 0 ∧
        t.rd R.DLR_GRAM_STATE.FAILED g = 1 ∧ t.rd R.DLR_GRAM_STATE.REASON g = gramBad states trans ∧ t.grams = s.grams)) ∧
    (∀ port src hand handle pos toks drafts flags stampHi i x, i = handleIx handle →
      x = (s.seat i).seeStamp (if bit flags 0 then 0 else stampHi) stampHi →
      (s.current handle = true → x.st = .decode ∨ x.st = .prefill → Recording s x → toks ≠ [] →
        ∃ t, exec (.tokens port s.devAddr src hand handle pos toks drafts 0 flags stampHi) s = .next t ∧
          t.seat i = { x with toks := x.toks ++ toks, drafts := drafts, inFlight := [], st := .decode, endCode := 0 } ∧
          (∀ j, j ≠ i → t.seat j = s.seat j) ∧ (t.ring_ x.ring).written = (s.ring_ x.ring).written + 1 ∧
          t.rd R.SRV_RING_STAT.CQ_TAIL x.ring = ((s.ring_ x.ring).written + 1) % 65536) ∧
      (s.current handle = false → ∀ code, exec (.tokens port s.devAddr src hand handle pos toks drafts code flags stampHi) s = .next s)) ∧
    (∀ r copy, recSeal copy = recSeal r → r.grammar = 255 →
      (r.front = s.devAddr ∨ s.isManager = true → s.current r.handle = true → ∃ t, exec (.seatRecordLoad r copy) s = .next t ∧
        mget {} t.drecs (handleIx r.handle) = { held := true, r := r, hist := r.hist } ∧
        t.seat (handleIx r.handle) = { s.seat (handleIx r.handle) with acked := true } ∧ { t with drecs := s.drecs, seats := s.seats } = s) ∧
      (r.front ≠ s.devAddr → s.isManager = false → ∃ t, exec (.seatRecordLoad r copy) s = .next t ∧
        mget {} t.drecs (handleIx r.handle) = { held := true, r := r, hist := r.hist } ∧ t.out = s.out ++ [.serve s.manager [4, r.handle]] ∧
        { t with drecs := s.drecs, out := s.out } = s)) ∧
    (∀ r copy i, recSeal copy ≠ recSeal r → i = handleIx r.handle → s.current r.handle = true →
      (s.seat i).st = .decode ∨ (s.seat i).st = .prefill → ∃ t, exec (.seatRecordLoad r copy) s = .next t ∧
        (s.mode = 2 → t.seat i = { s.seat i with st := .drain, endCode := 9 }) ∧
        (s.mode ≠ 2 → t.seat i = { s.seat i with endCode := 9, freeing := true }) ∧ ∀ j, j ≠ i → t.seat j = s.seat j) ∧
    (∀ stream shares, SharesIn s stream shares →
      (s.hand.desc = [] → ∃ t, exec .dealerRowsDrawn s = .next t ∧ t.hand.draws = some [] ∧ { t with hand := s.hand } = s) ∧
      ∀ d vocab, s.hand.desc = [d] → vocab = s.rd R.DLR_CFG.VOCAB stream → seatRows d ≠ 0 →
        ((mget {} s.drecs d.seat).held = true → (∀ r < seatRows d, (slotRow shares vocab r).2 = false) →
          ∃ t w, exec .dealerRowsDrawn s = .next t ∧ t.hand.draws = some [w] ∧ Drawn s d vocab w ∧
            t.rd R.DLR_STAT.ROWS 0 = min (s.rd R.DLR_STAT.ROWS 0 + seatRows d) (2 ^ R.DLR_STAT.ROWS.wd - 1)) ∧
        ((mget {} s.drecs d.seat).held = false → ∃ t w, exec .dealerRowsDrawn s = .next t ∧ t.hand.draws = some [w] ∧ w.seat = d.seat ∧
          w.toks = [] ∧ w.code = 9 ∧ t.hand.noRecord = s.hand.noRecord ++ [d.seat]))

/-! ### Memory protection and sessions -/

/-- Patrol, keys and sessions. The patrol of a scratchpad line and of a row segment leave clean words, correct and count a correctable one, and the
first reports an uncorrectable one once; a rotation waits for the boundary, or is refused; the sweep re-encrypts a segment's granules under
the current set and counts what waited for its lock; an open and a release wait for the boundary, or are refused with their reason; and the
end of the scrub makes the session CLEAN (R221, R484, R485, R486, R497, R499, R502, R504, R507). -/
def Obligations.KeyResults : Prop :=
  ∀ s : State,
    (∀ f line, Patrols s f line →
      (CleanBut s f line 16 → (∃ t, exec (.spPatrol f line [] false) s = .next t ∧ s.Frame t [] []) ∧
        ∃ t, exec (.spPatrol f line [] true) s = .next t ∧ t.rd R.SPD_SCRUB.LAP f = 1 ∧ s.Frame t [(R.SPD_SCRUB.LAP, f)] []) ∧
      (∀ k w p, k < 16 → w = line * 16 + k → p = (s.face f).padWord w → CleanBut s f line k →
        (∀ r, checkCode p.flips = .fixed r → ∃ t, exec (.spPatrol f line [] false) s = .next t ∧
          t.face f = { s.face f with pad := mset {} (s.face f).pad w { p.flip r with flips := 0 } } ∧
          t.rd R.SPD_ERR.CORRECTED f = min (s.rd R.SPD_ERR.CORRECTED f + 1) (2 ^ R.SPD_ERR.CORRECTED.wd - 1) ∧
          s.Frame t [(R.SPD_ERR.CORRECTED, f)] [f]) ∧
        (∀ e, checkCode p.flips = .bad → p.seen = false →
          e = { det := .spUncorr, unit := s.unitBank f (w * 8), addr := w * 8, d0 := BitVec.ofNat 64 k, lface := f } → Recordable s e →
          ∃ t, exec (.spPatrol f line [] false) s = .next t ∧
            t.face f = { s.face f with pad := mset {} (s.face f).pad w { p with seen := true } } ∧
            t.rd R.SPD_ERR.UNCORRECTABLE f = min (s.rd R.SPD_ERR.UNCORRECTABLE f + 1) (2 ^ R.SPD_ERR.UNCORRECTABLE.wd - 1) ∧
            Recorded s e t) ∧
        (checkCode p.flips = .bad → p.seen = true → ∃ t, exec (.spPatrol f line [] false) s = .next t ∧ s.Frame t [] []))) ∧
    (∀ p seg, StackPatrols s p seg →
      ((∀ i < 12, GranClean s (segGran p seg + i)) → exec (.hbmPatrol p seg [] [] false) s = .next s ∧
        ∃ t, exec (.hbmPatrol p seg [] [] true) s = .next t ∧ t.rd R.MEM_SCRUB.LAP 0 = 1 ∧ s.Frame t [(R.MEM_SCRUB.LAP, 0)] []) ∧
      ∀ k w g x y r, k < 12 → w < 16 → g = segGran p seg + k → (∀ i < 12, i ≠ k → GranClean s (segGran p seg + i)) → x = s.gran g →
        y = mget {} x.words w → (∀ i < 16, i ≠ w → checkCode (mget {} x.words i).flips = .clean) → checkCode y.flips = .fixed r →
        ∃ t, exec (.hbmPatrol p seg [] [] false) s = .next t ∧
          t.gran g = { x with words := mset {} x.words w { y.flip r with flips := 0 }
                              tagBad := x.tagBad || decide (r / 2 ^ 14 % 2 ^ 64 ≠ 0) } ∧
          (∀ h, h ≠ g → t.gran h = s.gran h) ∧
          t.rd R.MEM_ERR.CORRECTED p = min (s.rd R.MEM_ERR.CORRECTED p + 1) (2 ^ R.MEM_ERR.CORRECTED.wd - 1) ∧
          s.Frame { t with hbm := s.hbm } [(R.MEM_ERR.CORRECTED, p)] []) ∧
    (∀ st, st = s.rd R.KEY_SESSION.STATE 0 →
      (st = 2 → s.rd R.KEY_STATE.PREV_VALID 0 ≠ 1 → s.ticking = true → ∃ t, exec .rotate s = .next t ∧
        t.key = { s.key with rotate := true } ∧ { t with key := s.key } = s) ∧
      (st = 2 → s.rd R.KEY_STATE.PREV_VALID 0 = 1 → ∃ t, exec .rotate s = .next t ∧
        KeyRefused s R.KEY_ROT_CTL.REFUSE R.KEY_ROT_CTL.REASON 2 t) ∧
      (st < 2 → ∃ t, exec .rotate s = .next t ∧ KeyRefused s R.KEY_ROT_CTL.REFUSE R.KEY_ROT_CTL.REASON 1 t) ∧
      (st = 3 ∨ st = 4 → ∃ t, exec .rotate s = .next t ∧ KeyRefused s R.KEY_ROT_CTL.REFUSE R.KEY_ROT_CTL.REASON 3 t)) ∧
    (∀ p n wait, Sweeps s p n → ∃ t, exec (.sweepSegment p wait none) s = .next t ∧ mget 0 t.key.sweep p = n + 1 ∧
      t.rd R.KEY_SWEEP_STAT.LOCK_WAIT 0 = min (s.rd R.KEY_SWEEP_STAT.LOCK_WAIT 0 + wait) (2 ^ R.KEY_SWEEP_STAT.LOCK_WAIT.wd - 1) ∧
      t.rd R.KEY_SWEEP_STAT.STACKS_DONE 0 =
        (if n + 1 = segments then setBit (s.rd R.KEY_SWEEP_STAT.STACKS_DONE 0) p true % 2 ^ R.KEY_SWEEP_STAT.STACKS_DONE.wd
         else s.rd R.KEY_SWEEP_STAT.STACKS_DONE 0) ∧
      ∀ g, (segGran p n ≤ g ∧ g < segGran p n + 12 ∧ s.inWreg (g * 128) = false → Resealed s g t) ∧
        (¬ (segGran p n ≤ g ∧ g < segGran p n + 12 ∧ s.inWreg (g * 128) = false) → t.gran g = s.gran g)) ∧
    (∀ st life, st = s.rd R.KEY_SESSION.STATE 0 → life = s.rd R.PLT_LIFECYCLE.STATE 0 →
      (st = 0 → life = 1 ∨ life = 2 → s.rd R.KEY_STATE.PLATFORM_VALID 0 ≠ 0 → s.ticking = true → ∃ t, exec .sessionOpen s = .next t ∧
        t.key = { s.key with open_ := true } ∧ t.rd R.KEY_SESSION.STATE 0 = 1 ∧ s.Frame { t with key := s.key } [(R.KEY_SESSION.STATE, 0)] []) ∧
      (st = 0 → (life ≠ 1 ∧ life ≠ 2) ∨ s.rd R.KEY_STATE.PLATFORM_VALID 0 = 0 → ∃ t, exec .sessionOpen s = .next t ∧
        KeyRefused s R.KEY_SESSION_CTL.REFUSE R.KEY_SESSION_CTL.REASON 2 t) ∧
      (st = 1 ∨ st = 2 → ∃ t, exec .sessionOpen s = .next t ∧ KeyRefused s R.KEY_SESSION_CTL.REFUSE R.KEY_SESSION_CTL.REASON 3 t) ∧
      (3 ≤ st → ∃ t, exec .sessionOpen s = .next t ∧ KeyRefused s R.KEY_SESSION_CTL.REFUSE R.KEY_SESSION_CTL.REASON 1 t)) ∧
    (∀ st, st = s.rd R.KEY_SESSION.STATE 0 →
      (st ≤ 2 → (s.rd R.KEY_SESSION_CTL.AT_HAND 0 = 1 → s.boundaryPast (releaseHand s) = false) → s.ticking = true →
        ∃ t, exec .sessionRelease s = .next t ∧ { t with key := s.key } = s ∧
          (s.key.release = none → t.key = { s.key with release := some (releaseHand s) }) ∧
          ∀ k, s.key.release = some k → t.key = { s.key with release := some (min k (releaseHand s)) }) ∧
      (st ≤ 2 → s.rd R.KEY_SESSION_CTL.AT_HAND 0 = 1 → s.boundaryPast (releaseHand s) = true → s.ticking = true →
        ∃ t, exec .sessionRelease s = .next t ∧ KeyRefused s R.KEY_SESSION_CTL.REFUSE R.KEY_SESSION_CTL.REASON 4 t) ∧
      (st = 3 ∨ st = 4 → ∃ t, exec .sessionRelease s = .next t ∧
        KeyRefused s R.KEY_SESSION_CTL.REFUSE R.KEY_SESSION_CTL.REASON 3 t)) ∧
    (Scrubbing s →
      (s.key.after = none → ∃ t, exec (.releaseScrubDone []) s = .next t ∧ Scrubbed s t ∧ t.key = s.key ∧
        t.rd R.PLT_LIFECYCLE.STATE 0 = s.rd R.PLT_LIFECYCLE.STATE 0) ∧
      ∀ v, s.key.after = some v → ∃ t, exec (.releaseScrubDone []) s = .next t ∧ Scrubbed s t ∧ t.key = { s.key with after := none } ∧
        t.rd R.PLT_LIFECYCLE.STATE 0 = v % 2 ^ R.PLT_LIFECYCLE.STATE.wd) ∧
    (s.rd R.KEY_SESSION.STATE 0 ≠ 4 → ∀ failed, exec (.releaseScrubDone failed) s = .next s)

/-! ### Management and attestation -/

/-- The management network. A handshake opens a session, with a credential where one signed the client's certificate; a fifth is refused, and one
that TLS or a missing credential fails counts in AUTH_FAIL. An unacknowledged datagram is repeated eight times, after which, as after 300 s of
silence, the session closes. Each operation answers its code and 0 with what it reports, or 1 where it is refused: READ_REG reads a register,
clearing what reading clears; WRITE_REG changes only fields written through management; READ_LOG reads a record or a history entry; the floor
only rises; RELEASE waits for the boundary; DEPLOY deploys a device without a session, and releases one that is OPEN first; FIRMWARE fills the slot that
does not run; a deck waits for the boundary, or is refused; INJECT writes a slot. Attestation answers over a session or a DOE mailbox, with no
credential (R507, R508, R510, R511, R513, R514, R516, R558, R560). -/
def Obligations.ManagementResults : Prop :=
  ∀ (s : State) (i acks : Nat),
    (∀ (client : Option Nat) (proto : Bool) (n : Nat), n = (s.mgmt.sessions.filter (fun e => e.2.live)).length → (s.msess i).live = false →
      (4 ≤ n → exec (.mgmtHandshake i client proto) s = .next s) ∧
      (n < 4 → proto = true → (∃ c ∈ s.mgmt.ops, client = some c) → ∃ t, exec (.mgmtHandshake i client proto) s = .next t ∧
        OnlySession s i { live := true, cred := true, last := s.now } t) ∧
      (n < 4 → proto = true → s.mgmt.ops = [] → ∃ t, exec (.mgmtHandshake i client proto) s = .next t ∧
        OnlySession s i { live := true, cred := false, last := s.now } t) ∧
      (n < 4 → proto = false ∨ (s.mgmt.ops ≠ [] ∧ ∀ c ∈ s.mgmt.ops, client ≠ some c) → ∃ t, exec (.mgmtHandshake i client proto) s = .next t ∧
        t.rd R.PLT_LIFECYCLE.AUTH_FAIL 0 = min (s.rd R.PLT_LIFECYCLE.AUTH_FAIL 0 + 1) (2 ^ R.PLT_LIFECYCLE.AUTH_FAIL.wd - 1) ∧
        s.Frame t [(R.PLT_LIFECYCLE.AUTH_FAIL, 0)] [])) ∧
    ((s.msess i).live = true →
      (∀ x d rest, x = s.msess i → x.out = d :: rest →
        (x.repeats < 8 → ∃ t, exec (.mgmtRetransmit i) s = .next t ∧ t.out = s.out ++ [.mgmt i d.2] ∧
          OnlySession s i { x with repeats := x.repeats + 1 } { t with out := s.out }) ∧
        (8 ≤ x.repeats → ∃ t, exec (.mgmtRetransmit i) s = .next t ∧ OnlySession s i {} t)) ∧
      ∃ t, exec (.mgmtIdleTimeout i) s = .next t ∧ t.now = max s.now ((s.msess i).last + 300000000000) ∧
        OnlySession s i {} { t with now := s.now }) ∧
    (∀ c code lives, Operates i acks c code lives →
      ((s.msess i).live = true → ((s.msess i).cred = false ∨ s.rd R.PLT_LIFECYCLE.STATE 0 ∉ lives) →
        ∃ t, exec c s = .next t ∧ Replies s s i acks [code, 1] t) ∧
      ((s.msess i).live = false → exec c s = .next s)) ∧
    (Operator s i [1, 2, 3] →
      (∀ off, regAt off = none → ∃ t, exec (.readReg i acks off) s = .next t ∧ Replies s s i acks [2, 0, 0] t) ∧
      (∀ off r j, regAt off = some (r, j) → r ≠ .HIF_PF2_APERTURE → r ≠ .PLT_LIFECYCLE →
        (s.noFace r j = true → ∃ t, exec (.readReg i acks off) s = .next t ∧ Replies s s i acks [2, 0, 0] t) ∧
        (s.noFace r j = false → ∃ t, exec (.readReg i acks off) s = .next t ∧
          Replies s (s.setReg r j (afterRead r (s.reg r j))) i acks [2, 0, (readImage r (s.freshReg r j)).toNat] t)) ∧
      (∀ n x, x = mget {} s.hist n → ∃ t, exec (.readLog i acks 1 n) s = .next t ∧
        Replies s s i acks [4, 0, if n ∈ s.hist.map Prod.fst then 1 else 0, if x.perm then 1 else 0, x.count, x.t1, x.t2] t) ∧
      (∀ n r, s.nvLog[n]? = some r → ∃ t, exec (.readLog i acks 2 n) s = .next t ∧
        Replies s s i acks (4 :: 0 :: (r.words 0).map BitVec.toNat) t) ∧
      (∀ n ws, ReadsClean s (s.logSlot n / 128) ws → ∃ t, exec (.readLog i acks 0 n) s = .next t ∧
        Replies s s i acks (4 :: 0 :: (List.range 8).map (fun k => (ws.getD (s.logSlot n / 8 % 16 + k) 0#64).toNat)) t)) ∧
    (Operator s i [1, 2] →
      (∀ off v, regAt off = none → ∃ t, exec (.writeReg i acks off v) s = .next t ∧ Replies s s i acks [3, 0] t) ∧
      (∀ off v r j, regAt off = some (r, j) → r ∉ requestRegs → (∀ g ∈ (regInfo r).fields, g.path.mayFn 7 = false) →
        ∃ t, exec (.writeReg i acks off v) s = .next t ∧ Replies s s i acks [3, 0] t) ∧
      (∀ off v j n, regAt off = some (.PLT_WIMG_FLOOR, j) → n = v.toNat % 2 ^ 32 → ∃ t, exec (.writeReg i acks off v) s = .next t ∧
        Replies s (if n < s.rd R.PLT_WIMG_FLOOR.FLOOR j then s else s.wr R.PLT_WIMG_FLOOR.FLOOR j n) i acks [3, 0] t) ∧
      (∀ v, s.rd R.PLT_WIMG_FLOOR.FLOOR 0 ≤ v → v < 2 ^ 32 → ∃ t, exec (.setFloor i acks v) s = .next t ∧
        Replies s (s.wr R.PLT_WIMG_FLOOR.FLOOR 0 v) i acks [7, 0] t) ∧
      (∀ v, v < s.rd R.PLT_WIMG_FLOOR.FLOOR 0 ∨ 2 ^ 32 ≤ v → ∃ t, exec (.setFloor i acks v) s = .next t ∧ Replies s s i acks [7, 1] t) ∧
      (∀ u, s.rd R.KEY_SESSION.STATE 0 ≤ 2 → s.rd R.KEY_SESSION_CTL.AT_HAND 0 = 0 → s.ticking = true →
        u = { s with key := { s.key with release := some 0 } } → ∃ t, exec (.mgmtRelease i acks) s = .next t ∧ Replies s u i acks [8, 0] t) ∧
      (∀ st, st = s.rd R.KEY_SESSION.STATE 0 → st = 3 ∨ st = 4 → ∃ t u, exec (.mgmtRelease i acks) s = .next t ∧ Replies s u i acks [8, 1] t ∧
        KeyRefused s R.KEY_SESSION_CTL.REFUSE R.KEY_SESSION_CTL.REASON 3 u) ∧
      (∀ version image key sig u slot, slot = 1 - s.rd R.PLT_BOOT_STATE.FW_SLOT 0 →
        u = { s with mgmt := { s.mgmt with
          fw := mset {} s.mgmt.fw slot ⟨version, digestWords (wordBytes image), fwVerifies image key sig⟩ } } →
        ∃ t, exec (.firmware i acks version image key sig) s = .next t ∧ Replies s u i acks [10, 0] t) ∧
      (∀ deck, wordsFld deck 0 4 ≠ 0x5650524B ∨ wordsFld deck 4 2 ≠ 1 → ∃ t, exec (.probeDeck i acks deck) s = .next t ∧
        Replies s ((s.wr R.FLT_PROBE_STAT.STATE 0 3).wr R.FLT_PROBE_STAT.REFUSE 0 1) i acks [11, 0] t) ∧
      (∀ deck, s.deckRefusal deck = 0 → s.ticking = true → ∃ t, exec (.probeDeck i acks deck) s = .next t ∧
        Replies s (({ s with deckWaits := some (deckOf deck) } : State).wr R.FLT_PROBE_STAT.DECK_ID 0 (deckOf deck).id |>.wr R.FLT_PROBE_STAT.REFUSE 0 0)
          i acks [11, 0] t) ∧
      ∀ n ctl unit, n < 8 → s.ticking = true → s.rd R.PLT_LIFECYCLE.STATE 0 = 1 ∨ s.rd R.SRV_MODE.MODE 0 = 3 →
        ∃ t u, exec (.inject i acks n ctl unit) s = .next t ∧ SlotWritten s n ctl unit u ∧ Replies s u i acks [11, 0] t) ∧
    (Operator s i [1] →
      (s.mgmt.ops = [] → ∃ t, exec (.deploy i acks) s = .next t ∧ Replies s s i acks [9, 1] t) ∧
      (s.mgmt.ops ≠ [] → s.rd R.KEY_SESSION.STATE 0 = 0 → ∃ t u, exec (.deploy i acks) s = .next t ∧ Deployed s u ∧ Replies s u i acks [9, 0] t) ∧
      (∀ u st, st = s.rd R.KEY_SESSION.STATE 0 → s.mgmt.ops ≠ [] → st ≠ 0 → s.ticking = true →
        u = { s with key := { s.key with
          after := some (max 2 (s.key.after.getD 0)), release := if st < 3 then some 0 else s.key.release } } →
        ∃ t, exec (.deploy i acks) s = .next t ∧ Replies s u i acks [9, 0] t)) ∧
    ∀ c body signed, Attests s i acks c body signed → ∃ sign, (signed = false → sign = []) ∧
      (i < 8 → (s.msess i).live = true → ∃ t u, exec c s = .next t ∧ { u with freeCount := s.freeCount } = s ∧
        Replies s u i acks (1 :: 0 :: body ++ sign) t) ∧
      (i = 8 ∨ i = 10 → ∃ t, exec c s = .next t ∧ t.out = s.out ++ [.pcie ((i - 8) :: body ++ sign)] ∧
        { t with out := s.out, freeCount := s.freeCount } = s)

/-! ### Debug reads, fault records, history, injection, decks and register writes -/

/-- Debug reads, records and registers. DBG_READ copies a line of a face's scratchpad into PLT_DBG_DATA, in the open state only. The platform
controller logs the oldest queued record in its slot of the log ring, counts it in history where it counts, and keeps a FATAL one; where the queue's
storage fails, logging ends. History is queried and cleared, through WRITE_REG only, and a slot of the log ring is read. An injection slot is
written where the lifecycle allows the path. A probe step that passes, fails or is abandoned is counted, and a failure is recorded. A host's
64-bit write reaches the fields that its function may write; a narrower one, and one where there is nothing to write, is ignored (R7, R12, R13,
R516, R541, R542, R546, R553, R557, R558, R561, R563). -/
def Obligations.RegisterAndFaultResults : Prop :=
  ∀ s : State,
    (∀ f addr, (s.rd R.PLT_LIFECYCLE.STATE 0 ≠ 1 → exec (.dbgRead f addr) s = .next s) ∧
      (s.rd R.PLT_LIFECYCLE.STATE 0 = 1 → f < 8 → addr < 2 ^ 25 →
        (f < s.nFaces → CleanBut s f (addr / 128) 16 → (∀ k < 16, ((s.face f).padWord (addr / 128 * 16 + k)).poison = false) →
          ∃ t, exec (.dbgRead f addr) s = .next t ∧ (∀ k < 16, t.reg .PLT_DBG_DATA k = ((s.face f).padWord (addr / 128 * 16 + k)).data) ∧
            s.Frame t ([(R.PLT_DBG_CTL.ADDR, 0), (R.PLT_DBG_CTL.FACE, 0)] ++ (List.range 16).map (whole .PLT_DBG_DATA)) []) ∧
        (s.nFaces ≤ f → ∃ t, exec (.dbgRead f addr) s = .next t ∧ (∀ k < 16, t.reg .PLT_DBG_DATA k = 0#64) ∧
          s.Frame t ([(R.PLT_DBG_CTL.ADDR, 0), (R.PLT_DBG_CTL.FACE, 0)] ++ (List.range 16).map (whole .PLT_DBG_DATA)) []))) ∧
    (∀ powered q h l o, s.faultq = [] ∨ s.rd R.FLT_FATAL.LOG_PATH 0 = 1 → exec (.faultRecordProcess powered q h l o) s = .next s) ∧
    (∀ r rest ws powered, Loggable s r rest ws →
      (r.counts = false → ∃ t temp rail, exec (.faultRecordProcess powered true true true true) s = .next t ∧
        Logged s { r with seq := s.rd R.FLT_LOG_NEXT.NEXT 0, temp := temp, rail := rail } ws t ∧ t.hist = s.hist ∧
        t.nvLog = if r.cls % 4 = 2
          then (s.nvLog ++ [{ r with seq := s.rd R.FLT_LOG_NEXT.NEXT 0, temp := temp, rail := rail }]).drop (s.nvLog.length + 1 - 16) else s.nvLog) ∧
      (∀ x now, x = mget {} s.hist r.unit → now = max powered (s.rd R.FLT_HIST_STAT.POWERED 0) → now < 2 ^ 32 → r.counts = true →
        known s r.unit ∨ s.hist.length < 65536 → x.perm = true ∨ (bit r.cls 2 = false ∧ (x.count < 2 ∨ x.t2 + 86400 < now)) →
        ∃ t temp rail, exec (.faultRecordProcess powered true true true true) s = .next t ∧
          Logged s { r with seq := s.rd R.FLT_LOG_NEXT.NEXT 0, temp := temp, rail := rail } ws t ∧
          mget {} t.hist r.unit = { perm := x.perm, count := min 65535 (x.count + 1), t1 := now, t2 := x.t1 } ∧
          ∀ u, u ≠ r.unit → mget {} t.hist u = mget {} s.hist u) ∧
      (unitKind r.unit = 0 ∨ 8 < unitKind r.unit → ∀ h l o, ∃ t, exec (.faultRecordProcess powered false h l o) s = .next t ∧
        t.logStop = true ∧ t.rd R.FLT_FATAL.LOG_PATH 0 = 1 ∧ t.faultq = rest)) ∧
    (∀ unit, exec (.histClear unit false) s = .next s) ∧ exec (.histClearAll false) s = .next s ∧
    (∀ unit, ∃ t, exec (.histClear unit true) s = .next t ∧ mget {} t.hist unit = {} ∧ (∀ u, u ≠ unit → mget {} t.hist u = mget {} s.hist u) ∧
      t.rd R.FLT_HIST_STAT.ENTRIES 0 = min t.hist.length 65536 ∧ (unitKind unit = 19 → t.rd R.THM_SENSOR.PERM (unit % 1024) = 0) ∧
      s.Frame { t with hist := s.hist } [(R.FLT_HIST_STAT.ENTRIES, 0), (R.FLT_HIST_STAT.PERMANENT, 0), (R.FLT_HIST_CLEAR.UNIT, 0),
        (R.THM_SENSOR.PERM, unit % 1024)] []) ∧
    (∃ t, exec (.histClearAll true) s = .next t ∧ t.hist = [] ∧ t.nvLog = [] ∧ t.rd R.FLT_HIST_STAT.ENTRIES 0 = 0 ∧
      t.rd R.FLT_HIST_STAT.PERMANENT 0 = 0 ∧ (∀ c < 72, t.rd R.THM_SENSOR.PERM c = 0) ∧
      s.Frame { t with hist := s.hist, nvLog := s.nvLog } ([(R.FLT_HIST_STAT.ENTRIES, 0), (R.FLT_HIST_STAT.PERMANENT, 0)] ++
        (List.range 72).map (fun c => (R.THM_SENSOR.PERM, c))) []) ∧
    (∀ unit, unit < 2 ^ 32 → ∃ t, exec (.histQuery unit) s = .next t ∧ t.rd R.FLT_HIST_QUERY.UNIT 0 = unit ∧
      (t.rd R.FLT_HIST_QUERY.FOUND 0 = 1 ↔ known s unit) ∧ (t.rd R.FLT_HIST_QUERY.PERM 0 = 1 ↔ (mget {} s.hist unit).perm = true) ∧
      t.rd R.FLT_HIST_QUERY.EVENTS 0 = (mget {} s.hist unit).count % 2 ^ R.FLT_HIST_QUERY.EVENTS.wd ∧
      s.Frame t [(R.FLT_HIST_QUERY.UNIT, 0), (R.FLT_HIST_QUERY.FOUND, 0), (R.FLT_HIST_QUERY.PERM, 0), (R.FLT_HIST_QUERY.EVENTS, 0)] []) ∧
    (∀ slot a, slot < 2 ^ 20 → a = s.logSlot slot →
      (s.stackOn (hStack a) = false → ∃ t, exec (.logRead slot) s = .next t ∧ t.rd R.FLT_LOG_READ.SLOT 0 = slot ∧
        s.Frame t [(R.FLT_LOG_READ.SLOT, 0)] []) ∧
      ∀ ws, ReadsClean s (a / 128) ws → ∃ t, exec (.logRead slot) s = .next t ∧ t.rd R.FLT_LOG_READ.SLOT 0 = slot ∧
        (∀ i < 8, t.reg .FLT_LOG_DATA i = ws.getD (a / 8 % 16 + i) 0#64) ∧
        s.Frame t ((R.FLT_LOG_READ.SLOT, 0) :: (List.range 8).map (whole .FLT_LOG_DATA)) []) ∧
    (∀ n ctl unit path, 8 ≤ n → exec (.injArm n ctl unit path) s = .next s) ∧
    (∀ n ctl unit path life, life = s.rd R.PLT_LIFECYCLE.STATE 0 → n < 8 → s.ticking = true →
      ((life = 1 ∧ (path = 1 ∨ path = 7)) ∨ (life = 2 ∧ path = 7 ∧ s.rd R.SRV_MODE.MODE 0 = 3) →
        ∃ t, exec (.injArm n ctl unit path) s = .next t ∧ SlotWritten s n ctl unit t) ∧
      ((life = 1 ∧ path ≠ 1 ∧ path ≠ 7) ∨ (life ≠ 1 ∧ ¬ (life = 2 ∧ path = 7 ∧ s.rd R.SRV_MODE.MODE 0 = 3)) →
        exec (.injArm n ctl unit path) s = .next s)) ∧
    (∀ f e left, s.deck = none → exec (.probeStep f e left) s = .next s) ∧
    (∀ f d k st left, RunsStep s f d k st → s.injs = [] →
      (st.holds left = true → ∃ t, exec (.probeStep f 0 left) s = .next t ∧ StepOver s f d k t ∧ t.probeRest = (s.probeRest + 1) % 100 ∧
        t.rd R.FLT_PROBE_STAT.PASSED 0 = min (s.rd R.FLT_PROBE_STAT.PASSED 0 + (s.probeRest + 1) / 100) (2 ^ R.FLT_PROBE_STAT.PASSED.wd - 1)) ∧
      (∀ end_ result e, (end_ = 0 ∧ st.holds left = false ∧ result = 1) ∨ (end_ = 2 ∧ result = 2) ∨ (end_ = 3 ∧ result = 3) →
        e = { det := .probeFail, unit := st.unit, lface := f, d0 := BitVec.ofNat 64 (d.id + k * 2 ^ 32 + result * 2 ^ 48) } → Recordable s e →
        ∃ t, exec (.probeStep f end_ left) s = .next t ∧ StepOver s f d k t ∧ Recorded s e t ∧
          t.rd R.FLT_PROBE_STAT.FAILED 0 = min (s.rd R.FLT_PROBE_STAT.FAILED 0 + 1) (2 ^ R.FLT_PROBE_STAT.FAILED.wd - 1)) ∧
      ∃ t, exec (.probeStep f 4 left) s = .next t ∧ s.Frame t [(R.FLT_PROBE_STAT.ABANDONED, 0)] [f] ∧
        t.rd R.FLT_PROBE_STAT.ABANDONED 0 = min (s.rd R.FLT_PROBE_STAT.ABANDONED 0 + 1) (2 ^ R.FLT_PROBE_STAT.ABANDONED.wd - 1)) ∧
    ∀ fn off width v,
      (width ≠ 8 ∨ off % 8 ≠ 0 → exec (.registerWrite fn off width v) s = .next s) ∧
      (hostOff fn off = none → exec (.registerWrite fn off width v) s = .next s) ∧
      ∀ o, hostOff fn off = some o →
        (s.hostReaches fn o true = false ∨ regAt o = none → exec (.registerWrite fn off width v) s = .next s) ∧
        ∀ r j, regAt o = some (r, j) → s.hostReaches fn o true = true → width = 8 → off % 8 = 0 →
          (s.noFace r j = true → exec (.registerWrite fn off width v) s = .next s) ∧
          (s.noFace r j = false → r ∉ ruledRegs → ∃ t, exec (.registerWrite fn off width v) s = .next t ∧
            WordWritten r fn (s.reg r j) v (t.reg r j) ∧ s.Frame t [whole r j] [])
end

