-- ==== Sys2Proof/Laws/Map.lean ====
section
/-! SUPPORT. Laws of the sparse maps: a read after a write, and the canonical form. -/
namespace Sys2Proof.Machine

@[simp] theorem mget_nil {α : Type} (d : α) (k : Nat) : mget d [] k = d := rfl

/-- A read at the key just written. -/
@[simp] theorem mget_mset_same {α : Type} [DecidableEq α] (d : α) (m : SMap α) (k : Nat) (v : α) :
    mget d (mset d m k v) k = v := by
  induction m with
  | nil => by_cases h : v = d <;> simp [mset, mget, h]
  | cons e m ih =>
    obtain ⟨a, w⟩ := e
    rcases Nat.lt_trichotomy k a with h | h | h
    · by_cases hv : v = d
      · simpa [mset, mget, h, hv, Nat.ne_of_lt h] using ih
      · simp [mset, mget, h, hv]
    · by_cases hv : v = d <;> simp [mset, mget, h, hv]
      subst h; simpa [hv] using ih
    · simp [mset, mget, Nat.lt_asymm h, Nat.ne_of_gt h, ih]

/-- A read at another key, whatever its default. -/
theorem mget_mset_other {α : Type} [DecidableEq α] (d d' : α) (m : SMap α) (k j : Nat) (v : α) (h : j ≠ k) :
    mget d' (mset d m k v) j = mget d' m j := by
  induction m with
  | nil => by_cases hv : v = d <;> simp [mset, mget, hv, h]
  | cons e m ih =>
    obtain ⟨a, w⟩ := e
    simp only [mset]
    split
    · split <;> simp [mget, h, ih]
    · split
      · rename_i hk; subst hk
        split <;> simp [mget, h, ih]
      · simp [mget, ih]

/-- A read after a write, at any key. -/
theorem mget_mset {α : Type} [DecidableEq α] (d : α) (m : SMap α) (k j : Nat) (v : α) :
    mget d (mset d m k v) j = if j = k then v else mget d m j := by
  split
  · next h => rw [h, mget_mset_same]
  · next h => exact mget_mset_other d d m k j v h

/-- What a write lists: the pair written, or what was listed before. -/
theorem mset_keys {α : Type} [DecidableEq α] (d : α) (m : SMap α) (k : Nat) (v : α) (e : Nat × α) (h : e ∈ mset d m k v) :
    e = (k, v) ∨ e ∈ m := by
  induction m with
  | nil => simp only [mset] at h; split at h <;> simp_all
  | cons x m ih =>
    obtain ⟨a, w⟩ := x
    simp only [mset] at h
    split at h
    · split at h
      · rcases List.mem_cons.1 h with h | h
        · exact Or.inr (by simp [h])
        · exact (ih h).imp id (List.mem_cons_of_mem _)
      · simpa using h
    · split at h
      · split at h
        · exact (ih h).imp id (List.mem_cons_of_mem _)
        · rcases List.mem_cons.1 h with h | h
          · exact Or.inl h
          · exact Or.inr (List.mem_cons_of_mem _ h)
      · rcases List.mem_cons.1 h with h | h
        · exact Or.inr (by simp [h])
        · exact (ih h).imp id (List.mem_cons_of_mem _)

/-- A write of the default lists nothing new. -/
theorem mset_ne {α : Type} [DecidableEq α] (d : α) (m : SMap α) (k : Nat) (v : α) (hv : v = d) (e : Nat × α) (h : e ∈ mset d m k v) :
    e ∈ m := by
  induction m with
  | nil => simp [mset, hv] at h
  | cons x m ih =>
    obtain ⟨a, w⟩ := x
    simp only [mset, hv, if_true] at h
    split at h
    · rcases List.mem_cons.1 h with h | h
      · simp [h]
      · exact List.mem_cons_of_mem _ (ih (hv ▸ h))
    · split at h
      · exact List.mem_cons_of_mem _ (ih (hv ▸ h))
      · rcases List.mem_cons.1 h with h | h
        · simp [h]
        · exact List.mem_cons_of_mem _ (ih (hv ▸ h))

/-- Strictly rising keys. -/
abbrev rising {α : Type} (m : SMap α) : Prop := m.Pairwise (fun x y => x.1 < y.1)

/-- A write keeps the keys rising. -/
theorem mset_rising {α : Type} [DecidableEq α] (d : α) (m : SMap α) (k : Nat) (v : α) (h : rising m) : rising (mset d m k v) := by
  induction m with
  | nil => simp only [mset]; split <;> simp [rising]
  | cons x m ih =>
    obtain ⟨a, w⟩ := x
    have h1 := List.pairwise_cons.1 h
    simp only [mset]
    split
    · next hk =>
      split
      · next hv =>
        refine List.pairwise_cons.2 ⟨fun e he => h1.1 e (mset_ne d m k v hv e he), ih h1.2⟩
      · refine List.pairwise_cons.2 ⟨?_, h⟩
        intro e he
        rcases List.mem_cons.1 he with rfl | he
        · exact hk
        · exact Nat.lt_trans hk (h1.1 e he)
    · split
      · next hk =>
        subst hk
        split
        · exact ih h1.2
        · exact List.pairwise_cons.2 ⟨h1.1, h1.2⟩
      · next hlt hne =>
        refine List.pairwise_cons.2 ⟨?_, ih h1.2⟩
        intro e he
        rcases mset_keys d m k v e he with rfl | he
        · show a < k; omega
        · exact h1.1 e he

/-- Canonical form, as two facts. -/
theorem mwf_iff {α : Type} [DecidableEq α] (d : Nat → α) (m : SMap α) :
    mwf d m = true ↔ (∀ e ∈ m, e.2 ≠ d e.1) ∧ rising m := by
  simp [mwf, rising]

/-- A write keeps the canonical form, with a default of each key. -/
theorem mset_wf {α : Type} [DecidableEq α] (d : Nat → α) (m : SMap α) (k : Nat) (v : α) (h : mwf d m = true) :
    mwf d (mset (d k) m k v) = true := by
  rw [mwf_iff] at h ⊢
  refine ⟨fun e he => ?_, mset_rising _ _ _ _ h.2⟩
  by_cases hv : v = d k
  · exact h.1 e (mset_ne _ _ _ _ hv e he)
  · rcases mset_keys _ _ _ _ e he with rfl | he
    · exact hv
    · exact h.1 e he

/-- Dropping entries keeps the canonical form. -/
theorem mdrop_wf {α : Type} [DecidableEq α] (d : Nat → α) (q : Nat → Bool) (m : SMap α) (h : mwf d m = true) :
    mwf d (mdrop q m) = true := by
  rw [mwf_iff] at h ⊢
  exact ⟨fun e he => h.1 e (List.mem_of_mem_filter he), h.2.filter _⟩

/-- A dropped key reads as its default, and another key as before. -/
theorem mget_mdrop {α : Type} (d : α) (q : Nat → Bool) (m : SMap α) (j : Nat) :
    mget d (mdrop q m) j = if q j then d else mget d m j := by
  induction m with
  | nil => simp [mdrop, mget]
  | cons e m ih =>
    obtain ⟨a, w⟩ := e
    simp only [mdrop, List.filter] at ih ⊢
    by_cases hq : q a = true
    · simp only [hq, Bool.not_true, ih]
      by_cases hj : j = a
      · subst hj; simp [hq]
      · simp [mget, hj]
    · simp only [Bool.not_eq_true] at hq
      simp only [hq, Bool.not_false, mget]
      by_cases hj : j = a
      · subst hj; simp [hq]
      · simp [hj, ih]

/-- Equal contents are equal data: two maps in canonical form that read alike at every key are equal. -/
theorem mget_ext {α : Type} [DecidableEq α] (d : Nat → α) (m n : SMap α) (hm : mwf d m = true) (hn : mwf d n = true)
    (h : ∀ k, mget (d k) m k = mget (d k) n k) : m = n := by
  rw [mwf_iff] at hm hn
  have key : ∀ (n : SMap α) (x : Nat × α), (∀ y ∈ n, x.1 < y.1) → (∀ dd, mget dd n x.1 = dd) := by
    intro n x hlt dd
    induction n with
    | nil => rfl
    | cons y n ih =>
      have hy := hlt y (by simp)
      obtain ⟨b, u⟩ := y
      simp only at hy
      simp only [mget, Nat.ne_of_lt hy, if_false]
      exact ih (fun z hz => hlt z (List.mem_cons_of_mem _ hz))
  induction m generalizing n with
  | nil =>
    cases n with
    | nil => rfl
    | cons y n =>
      have := h y.1
      simp [mget] at this
      exact absurd this.symm (hn.1 y (by simp))
  | cons x m ih =>
    cases n with
    | nil =>
      have := h x.1
      simp [mget] at this
      exact absurd this (hm.1 x (by simp))
    | cons y n =>
      have hm2 := List.pairwise_cons.1 hm.2
      have hn2 := List.pairwise_cons.1 hn.2
      rcases Nat.lt_trichotomy x.1 y.1 with hlt | heq | hlt
      · have h1 := h x.1
        have h2 : mget (d x.1) (y :: n) x.1 = d x.1 := key (y :: n) x (by
          intro z hz
          rcases List.mem_cons.1 hz with rfl | hz
          · exact hlt
          · exact Nat.lt_trans hlt (hn2.1 z hz)) _
        rw [h2] at h1
        simp [mget] at h1
        exact absurd h1 (hm.1 x (by simp))
      · have h1 := h x.1
        obtain ⟨a, v⟩ := x
        obtain ⟨b, u⟩ := y
        simp only at heq
        subst heq
        simp [mget] at h1
        subst h1
        congr 1
        refine ih n ⟨fun e he => hm.1 e (List.mem_cons_of_mem _ he), hm2.2⟩ ⟨fun e he => hn.1 e (List.mem_cons_of_mem _ he), hn2.2⟩ ?_
        intro k
        by_cases hk : k = a
        · subst hk
          rw [key m (k, v) hm2.1, key n (k, v) hn2.1]
        · have := h k
          simpa [mget, hk] using this
      · have h1 := h y.1
        have h2 : mget (d y.1) (x :: m) y.1 = d y.1 := key (x :: m) y (by
          intro z hz
          rcases List.mem_cons.1 hz with rfl | hz
          · exact hlt
          · exact Nat.lt_trans hlt (hm2.1 z hz)) _
        rw [h2] at h1
        simp [mget] at h1
        exact absurd h1.symm (hn.1 y (by simp))

end Sys2Proof.Machine
end

