-- ==== Sys2Proof/Laws/Fields.lean ====
section
/-! SUPPORT. Laws of registers and fields: what a read returns after a write, and the canonical form of the register map. -/
namespace Sys2Proof.Machine

/-! ### Bits of a field -/

/-- The bits of a word with a field replaced. -/
theorem getLsbD_fput (w : Word) (lo wd v i : Nat) (h : lo + wd ≤ 64) (hi : i < 64) :
    (fput w lo wd v).getLsbD i = if lo ≤ i ∧ i < lo + wd then v.testBit (i - lo) else w.getLsbD i := by
  have hm : ∀ j, (BitVec.ofNat 64 (2 ^ wd - 1) : Word).getLsbD j = (decide (j < 64) && decide (j < wd)) := by
    intro j; simp [BitVec.getLsbD_ofNat, Nat.testBit_two_pow_sub_one]
  simp only [fput, BitVec.getLsbD_or, BitVec.getLsbD_and, BitVec.getLsbD_not, BitVec.getLsbD_shiftLeft, hm, BitVec.getLsbD_ofNat, hi]
  by_cases h1 : lo ≤ i
  · by_cases h2 : i < lo + wd
    · have : i - lo < wd := by omega
      have : i - lo < 64 := by omega
      simp [*, Nat.not_lt.2 h1]
    · have : ¬ (i - lo < wd) := by omega
      simp [*, Nat.not_lt.2 h1]
  · have : i < lo := by omega
    simp [h1, this]

/-- A field just written. -/
theorem fget_fput_same (w : Word) (lo wd v : Nat) (h : lo + wd ≤ 64) : fget (fput w lo wd v) lo wd = v % 2 ^ wd := by
  apply Nat.eq_of_testBit_eq
  intro i
  simp only [fget, BitVec.testBit_toNat, BitVec.getLsbD_extractLsb', Nat.testBit_mod_two_pow]
  by_cases hi : i < wd
  · rw [getLsbD_fput _ _ _ _ _ h (by omega)]
    simp [hi]
  · simp [hi]

/-- A field that a write does not touch. -/
theorem fget_fput_other (w : Word) (lo wd v lo' wd' : Nat) (h : lo + wd ≤ 64) (h' : lo' + wd' ≤ 64)
    (hd : lo' + wd' ≤ lo ∨ lo + wd ≤ lo') : fget (fput w lo wd v) lo' wd' = fget w lo' wd' := by
  apply Nat.eq_of_testBit_eq
  intro i
  simp only [fget, BitVec.testBit_toNat, BitVec.getLsbD_extractLsb']
  by_cases hi : i < wd'
  · rw [getLsbD_fput _ _ _ _ _ h (by omega)]
    have : ¬ (lo ≤ lo' + i ∧ lo' + i < lo + wd) := by omega
    simp [this]
  · simp [hi]

/-- A field is smaller than its width allows. -/
theorem fget_lt (w : Word) (lo wd : Nat) : fget w lo wd < 2 ^ wd := by
  simpa [fget] using (w.extractLsb' lo wd).isLt

/-- The second of two writes of a field stands. -/
theorem fput_fput (w : Word) (lo wd a b : Nat) (h : lo + wd ≤ 64) : fput (fput w lo wd a) lo wd b = fput w lo wd b := by
  apply BitVec.eq_of_getLsbD_eq
  intro i hi
  rw [getLsbD_fput _ _ _ _ _ h hi, getLsbD_fput _ _ _ _ _ h hi, getLsbD_fput _ _ _ _ _ h hi]
  split <;> rfl

/-- Writing a field's own value changes nothing. -/
theorem fput_fget (w : Word) (lo wd : Nat) (h : lo + wd ≤ 64) : fput w lo wd (fget w lo wd) = w := by
  apply BitVec.eq_of_getLsbD_eq
  intro i hi
  rw [getLsbD_fput _ _ _ _ _ h hi]
  split
  · next hb =>
    have : lo + (i - lo) = i := by omega
    simp [fget, BitVec.testBit_toNat, this]
    omega
  · rfl

/-! ### Register instances -/

theorem ctorIdx_lt (r : RegId) : r.ctorIdx < 256 := by cases r <;> decide

theorem ctorIdx_inj {r q : RegId} (h : r.ctorIdx = q.ctorIdx) : r = q := by
  rw [← RegId.ofNat_ctorIdx r, ← RegId.ofNat_ctorIdx q, h]

/-- Two instances have one key only if they are one. -/
theorem regKey_inj {r q : RegId} {i j : Nat} (h : regKey r i = regKey q j) : r = q ∧ i = j := by
  have hr := ctorIdx_lt r
  have hq := ctorIdx_lt q
  simp only [regKey] at h
  have : r.ctorIdx = q.ctorIdx := by omega
  exact ⟨ctorIdx_inj this, by omega⟩

@[simp] theorem reg_setReg_same (s : State) (r : RegId) (i : Nat) (v : Word) : (s.setReg r i v).reg r i = v := by
  simp [State.reg, State.setReg]

theorem reg_setReg_other (s : State) (r q : RegId) (i j : Nat) (v : Word) (h : q ≠ r ∨ j ≠ i) :
    (s.setReg r i v).reg q j = s.reg q j := by
  have : regKey q j ≠ regKey r i := fun e => by
    have := regKey_inj e
    rcases h with h | h
    · exact h this.1
    · exact h this.2
  simp only [State.reg, State.setReg]
  rw [mget_mset_other _ _ _ _ _ _ this]

/-- A register other than the one written. -/
theorem reg_setReg_ne (s : State) (r q : RegId) (i j : Nat) (v : Word) (h : q ≠ r) : (s.setReg r i v).reg q j = s.reg q j :=
  reg_setReg_other s r q i j v (Or.inl h)

theorem reg_setReg (s : State) (r q : RegId) (i j : Nat) (v : Word) :
    (s.setReg r i v).reg q j = if q = r ∧ j = i then v else s.reg q j := by
  split
  · next h => rw [h.1, h.2, reg_setReg_same]
  · next h => exact reg_setReg_other s r q i j v (by tauto)

/-! ### Fields of the state -/

/-- The field written, where it lies within 64 bits. -/
theorem rd_wr_same (s : State) (f : Fld) (i v : Nat) (h : f.lo + f.wd ≤ 64) : (s.wr f i v).rd f i = v % 2 ^ f.wd := by
  simp [State.rd, State.wr, fget_fput_same _ _ _ _ h]

/-- A field of another register. -/
theorem rd_wr_reg (s : State) (f g : Fld) (i j v : Nat) (h : g.reg ≠ f.reg) : (s.wr f i v).rd g j = s.rd g j := by
  simp [State.rd, State.wr, reg_setReg_ne _ _ _ _ _ _ h]

/-- A field of another instance. -/
theorem rd_wr_ix (s : State) (f g : Fld) (i j v : Nat) (h : j ≠ i) : (s.wr f i v).rd g j = s.rd g j := by
  simp [State.rd, State.wr, reg_setReg_other _ _ _ _ _ _ (Or.inr h)]

/-- Another field of the register written. -/
theorem rd_wr_fld (s : State) (f g : Fld) (i j v : Nat) (hf : f.lo + f.wd ≤ 64) (hg : g.lo + g.wd ≤ 64)
    (h : g.lo + g.wd ≤ f.lo ∨ f.lo + f.wd ≤ g.lo) : (s.wr f i v).rd g j = s.rd g j := by
  by_cases hr : g.reg = f.reg ∧ j = i
  · simp [State.rd, State.wr, hr.1, hr.2, fget_fput_other _ _ _ _ _ _ hf hg h]
  · simp [State.rd, State.wr, reg_setReg, hr]

/-- A word of another register. -/
theorem reg_wr_ne (s : State) (f : Fld) (r : RegId) (i j v : Nat) (h : r ≠ f.reg) : (s.wr f i v).reg r j = s.reg r j :=
  reg_setReg_ne _ _ _ _ _ _ h

/-- A word of any register. -/
theorem reg_wr (s : State) (f : Fld) (r : RegId) (i j v : Nat) :
    (s.wr f i v).reg r j = if r = f.reg ∧ j = i then fput (s.reg f.reg i) f.lo f.wd v else s.reg r j := by
  simp [State.wr, reg_setReg]

/-- A field's value is within its width. -/
theorem rd_lt (s : State) (f : Fld) (i : Nat) : s.rd f i < 2 ^ f.wd := fget_lt _ _ _

theorem reg_reset (r : RegId) (i : Nat) : State.reset.reg r i = resetWord r i := rfl

/-! ### Canonical form of the register map -/

theorem allRegs_ctorIdx (r : RegId) : allRegs[r.ctorIdx]? = some r := by cases r <;> rfl

theorem resetAt_regKey (r : RegId) (i : Nat) : resetAt (regKey r i) = resetWord r i := by
  have h := ctorIdx_lt r
  have h1 : regKey r i % 256 = r.ctorIdx := by simp only [regKey]; omega
  have h2 : regKey r i / 256 = i := by simp only [regKey]; omega
  simp [resetAt, h1, h2, allRegs_ctorIdx]

end Sys2Proof.Machine
end

