-- ==== Sys2Proof/Laws/State.lean ====
section
/-! SUPPORT. What each basic update of the state leaves: one lemma per field and update, by unfolding, so that no later proof unfolds a
record update; and what a read of a register or a face finds after it. -/
namespace Sys2Proof.Machine

/-! ### `setReg` -/

@[simp] theorem State.setReg_pending (s : State) (r : RegId) (i : Nat) (v : Word) : (s.setReg r i v).pending = s.pending := rfl
@[simp] theorem State.setReg_now (s : State) (r : RegId) (i : Nat) (v : Word) : (s.setReg r i v).now = s.now := rfl
@[simp] theorem State.setReg_freeCount (s : State) (r : RegId) (i : Nat) (v : Word) : (s.setReg r i v).freeCount = s.freeCount := rfl
@[simp] theorem State.setReg_faces (s : State) (r : RegId) (i : Nat) (v : Word) : (s.setReg r i v).faces = s.faces := rfl
@[simp] theorem State.setReg_arrays (s : State) (r : RegId) (i : Nat) (v : Word) : (s.setReg r i v).arrays = s.arrays := rfl
@[simp] theorem State.setReg_writes (s : State) (r : RegId) (i : Nat) (v : Word) : (s.setReg r i v).writes = s.writes := rfl
@[simp] theorem State.setReg_acts (s : State) (r : RegId) (i : Nat) (v : Word) : (s.setReg r i v).acts = s.acts := rfl
@[simp] theorem State.setReg_monitors (s : State) (r : RegId) (i : Nat) (v : Word) : (s.setReg r i v).monitors = s.monitors := rfl
@[simp] theorem State.setReg_cals (s : State) (r : RegId) (i : Nat) (v : Word) : (s.setReg r i v).cals = s.cals := rfl
@[simp] theorem State.setReg_calOrder (s : State) (r : RegId) (i : Nat) (v : Word) : (s.setReg r i v).calOrder = s.calOrder := rfl
@[simp] theorem State.setReg_tours (s : State) (r : RegId) (i : Nat) (v : Word) : (s.setReg r i v).tours = s.tours := rfl
@[simp] theorem State.setReg_tourAt (s : State) (r : RegId) (i : Nat) (v : Word) : (s.setReg r i v).tourAt = s.tourAt := rfl
@[simp] theorem State.setReg_dupRest (s : State) (r : RegId) (i : Nat) (v : Word) : (s.setReg r i v).dupRest = s.dupRest := rfl
@[simp] theorem State.setReg_fineChecks (s : State) (r : RegId) (i : Nat) (v : Word) : (s.setReg r i v).fineChecks = s.fineChecks := rfl
@[simp] theorem State.setReg_hand (s : State) (r : RegId) (i : Nat) (v : Word) : (s.setReg r i v).hand = s.hand := rfl
@[simp] theorem State.setReg_opId (s : State) (r : RegId) (i : Nat) (v : Word) : (s.setReg r i v).opId = s.opId := rfl
@[simp] theorem State.setReg_sigrs (s : State) (r : RegId) (i : Nat) (v : Word) : (s.setReg r i v).sigrs = s.sigrs := rfl
@[simp] theorem State.setReg_commits (s : State) (r : RegId) (i : Nat) (v : Word) : (s.setReg r i v).commits = s.commits := rfl
@[simp] theorem State.setReg_aborts (s : State) (r : RegId) (i : Nat) (v : Word) : (s.setReg r i v).aborts = s.aborts := rfl
@[simp] theorem State.setReg_partials (s : State) (r : RegId) (i : Nat) (v : Word) : (s.setReg r i v).partials = s.partials := rfl
@[simp] theorem State.setReg_seqs (s : State) (r : RegId) (i : Nat) (v : Word) : (s.setReg r i v).seqs = s.seqs := rfl
@[simp] theorem State.setReg_hbm (s : State) (r : RegId) (i : Nat) (v : Word) : (s.setReg r i v).hbm = s.hbm := rfl
@[simp] theorem State.setReg_hbmMeta (s : State) (r : RegId) (i : Nat) (v : Word) : (s.setReg r i v).hbmMeta = s.hbmMeta := rfl
@[simp] theorem State.setReg_keyGen (s : State) (r : RegId) (i : Nat) (v : Word) : (s.setReg r i v).keyGen = s.keyGen := rfl
@[simp] theorem State.setReg_ring (s : State) (r : RegId) (i : Nat) (v : Word) : (s.setReg r i v).ring = s.ring := rfl
@[simp] theorem State.setReg_ringLost (s : State) (r : RegId) (i : Nat) (v : Word) : (s.setReg r i v).ringLost = s.ringLost := rfl
@[simp] theorem State.setReg_mesh (s : State) (r : RegId) (i : Nat) (v : Word) : (s.setReg r i v).mesh = s.mesh := rfl
@[simp] theorem State.setReg_plays (s : State) (r : RegId) (i : Nat) (v : Word) : (s.setReg r i v).plays = s.plays := rfl
@[simp] theorem State.setReg_dtricks (s : State) (r : RegId) (i : Nat) (v : Word) : (s.setReg r i v).dtricks = s.dtricks := rfl
@[simp] theorem State.setReg_trickReq (s : State) (r : RegId) (i : Nat) (v : Word) : (s.setReg r i v).trickReq = s.trickReq := rfl
@[simp] theorem State.setReg_dtrickReq (s : State) (r : RegId) (i : Nat) (v : Word) : (s.setReg r i v).dtrickReq = s.dtrickReq := rfl
@[simp] theorem State.setReg_txq (s : State) (r : RegId) (i : Nat) (v : Word) : (s.setReg r i v).txq = s.txq := rfl
@[simp] theorem State.setReg_ports (s : State) (r : RegId) (i : Nat) (v : Word) : (s.setReg r i v).ports = s.ports := rfl
@[simp] theorem State.setReg_timeGood (s : State) (r : RegId) (i : Nat) (v : Word) : (s.setReg r i v).timeGood = s.timeGood := rfl
@[simp] theorem State.setReg_timeLast (s : State) (r : RegId) (i : Nat) (v : Word) : (s.setReg r i v).timeLast = s.timeLast := rfl
@[simp] theorem State.setReg_bypOpen (s : State) (r : RegId) (i : Nat) (v : Word) : (s.setReg r i v).bypOpen = s.bypOpen := rfl
@[simp] theorem State.setReg_vaonLow (s : State) (r : RegId) (i : Nat) (v : Word) : (s.setReg r i v).vaonLow = s.vaonLow := rfl
@[simp] theorem State.setReg_place (s : State) (r : RegId) (i : Nat) (v : Word) : (s.setReg r i v).place = s.place := rfl
@[simp] theorem State.setReg_manifest (s : State) (r : RegId) (i : Nat) (v : Word) : (s.setReg r i v).manifest = s.manifest := rfl
@[simp] theorem State.setReg_seatMax (s : State) (r : RegId) (i : Nat) (v : Word) : (s.setReg r i v).seatMax = s.seatMax := rfl
@[simp] theorem State.setReg_rings (s : State) (r : RegId) (i : Nat) (v : Word) : (s.setReg r i v).rings = s.rings := rfl
@[simp] theorem State.setReg_antes (s : State) (r : RegId) (i : Nat) (v : Word) : (s.setReg r i v).antes = s.antes := rfl
@[simp] theorem State.setReg_folds (s : State) (r : RegId) (i : Nat) (v : Word) : (s.setReg r i v).folds = s.folds := rfl
@[simp] theorem State.setReg_lastRing (s : State) (r : RegId) (i : Nat) (v : Word) : (s.setReg r i v).lastRing = s.lastRing := rfl
@[simp] theorem State.setReg_admitted (s : State) (r : RegId) (i : Nat) (v : Word) : (s.setReg r i v).admitted = s.admitted := rfl
@[simp] theorem State.setReg_seats (s : State) (r : RegId) (i : Nat) (v : Word) : (s.setReg r i v).seats = s.seats := rfl
@[simp] theorem State.setReg_caches (s : State) (r : RegId) (i : Nat) (v : Word) : (s.setReg r i v).caches = s.caches := rfl
@[simp] theorem State.setReg_limbo (s : State) (r : RegId) (i : Nat) (v : Word) : (s.setReg r i v).limbo = s.limbo := rfl
@[simp] theorem State.setReg_cmpRest (s : State) (r : RegId) (i : Nat) (v : Word) : (s.setReg r i v).cmpRest = s.cmpRest := rfl
@[simp] theorem State.setReg_usedFrames (s : State) (r : RegId) (i : Nat) (v : Word) : (s.setReg r i v).usedFrames = s.usedFrames := rfl
@[simp] theorem State.setReg_usedStock (s : State) (r : RegId) (i : Nat) (v : Word) : (s.setReg r i v).usedStock = s.usedStock := rfl
@[simp] theorem State.setReg_irqs (s : State) (r : RegId) (i : Nat) (v : Word) : (s.setReg r i v).irqs = s.irqs := rfl
@[simp] theorem State.setReg_irqDone (s : State) (r : RegId) (i : Nat) (v : Word) : (s.setReg r i v).irqDone = s.irqDone := rfl
@[simp] theorem State.setReg_histIn (s : State) (r : RegId) (i : Nat) (v : Word) : (s.setReg r i v).histIn = s.histIn := rfl
@[simp] theorem State.setReg_prefixes (s : State) (r : RegId) (i : Nat) (v : Word) : (s.setReg r i v).prefixes = s.prefixes := rfl
@[simp] theorem State.setReg_slots (s : State) (r : RegId) (i : Nat) (v : Word) : (s.setReg r i v).slots = s.slots := rfl
@[simp] theorem State.setReg_headQ (s : State) (r : RegId) (i : Nat) (v : Word) : (s.setReg r i v).headQ = s.headQ := rfl
@[simp] theorem State.setReg_recs (s : State) (r : RegId) (i : Nat) (v : Word) : (s.setReg r i v).recs = s.recs := rfl
@[simp] theorem State.setReg_unitDown (s : State) (r : RegId) (i : Nat) (v : Word) : (s.setReg r i v).unitDown = s.unitDown := rfl
@[simp] theorem State.setReg_drecs (s : State) (r : RegId) (i : Nat) (v : Word) : (s.setReg r i v).drecs = s.drecs := rfl
@[simp] theorem State.setReg_grams (s : State) (r : RegId) (i : Nat) (v : Word) : (s.setReg r i v).grams = s.grams := rfl
@[simp] theorem State.setReg_nanRest (s : State) (r : RegId) (i : Nat) (v : Word) : (s.setReg r i v).nanRest = s.nanRest := rfl
@[simp] theorem State.setReg_modeReq (s : State) (r : RegId) (i : Nat) (v : Word) : (s.setReg r i v).modeReq = s.modeReq := rfl
@[simp] theorem State.setReg_reps (s : State) (r : RegId) (i : Nat) (v : Word) : (s.setReg r i v).reps = s.reps := rfl
@[simp] theorem State.setReg_missedFrom (s : State) (r : RegId) (i : Nat) (v : Word) : (s.setReg r i v).missedFrom = s.missedFrom := rfl
@[simp] theorem State.setReg_obeys (s : State) (r : RegId) (i : Nat) (v : Word) : (s.setReg r i v).obeys = s.obeys := rfl
@[simp] theorem State.setReg_claims (s : State) (r : RegId) (i : Nat) (v : Word) : (s.setReg r i v).claims = s.claims := rfl
@[simp] theorem State.setReg_acked (s : State) (r : RegId) (i : Nat) (v : Word) : (s.setReg r i v).acked = s.acked := rfl
@[simp] theorem State.setReg_decided (s : State) (r : RegId) (i : Nat) (v : Word) : (s.setReg r i v).decided = s.decided := rfl
@[simp] theorem State.setReg_announced (s : State) (r : RegId) (i : Nat) (v : Word) : (s.setReg r i v).announced = s.announced := rfl
@[simp] theorem State.setReg_annDue (s : State) (r : RegId) (i : Nat) (v : Word) : (s.setReg r i v).annDue = s.annDue := rfl
@[simp] theorem State.setReg_waitAck (s : State) (r : RegId) (i : Nat) (v : Word) : (s.setReg r i v).waitAck = s.waitAck := rfl
@[simp] theorem State.setReg_copyTo (s : State) (r : RegId) (i : Nat) (v : Word) : (s.setReg r i v).copyTo = s.copyTo := rfl
@[simp] theorem State.setReg_digestBad (s : State) (r : RegId) (i : Nat) (v : Word) : (s.setReg r i v).digestBad = s.digestBad := rfl
@[simp] theorem State.setReg_holds (s : State) (r : RegId) (i : Nat) (v : Word) : (s.setReg r i v).holds = s.holds := rfl
@[simp] theorem State.setReg_faultq (s : State) (r : RegId) (i : Nat) (v : Word) : (s.setReg r i v).faultq = s.faultq := rfl
@[simp] theorem State.setReg_hist (s : State) (r : RegId) (i : Nat) (v : Word) : (s.setReg r i v).hist = s.hist := rfl
@[simp] theorem State.setReg_logStop (s : State) (r : RegId) (i : Nat) (v : Word) : (s.setReg r i v).logStop = s.logStop := rfl
@[simp] theorem State.setReg_hostIrqAt (s : State) (r : RegId) (i : Nat) (v : Word) : (s.setReg r i v).hostIrqAt = s.hostIrqAt := rfl
@[simp] theorem State.setReg_injs (s : State) (r : RegId) (i : Nat) (v : Word) : (s.setReg r i v).injs = s.injs := rfl
@[simp] theorem State.setReg_injLive (s : State) (r : RegId) (i : Nat) (v : Word) : (s.setReg r i v).injLive = s.injLive := rfl
@[simp] theorem State.setReg_injOff (s : State) (r : RegId) (i : Nat) (v : Word) : (s.setReg r i v).injOff = s.injOff := rfl
@[simp] theorem State.setReg_deck (s : State) (r : RegId) (i : Nat) (v : Word) : (s.setReg r i v).deck = s.deck := rfl
@[simp] theorem State.setReg_deckWaits (s : State) (r : RegId) (i : Nat) (v : Word) : (s.setReg r i v).deckWaits = s.deckWaits := rfl
@[simp] theorem State.setReg_probeRest (s : State) (r : RegId) (i : Nat) (v : Word) : (s.setReg r i v).probeRest = s.probeRest := rfl
@[simp] theorem State.setReg_nvLog (s : State) (r : RegId) (i : Nat) (v : Word) : (s.setReg r i v).nvLog = s.nvLog := rfl
@[simp] theorem State.setReg_img (s : State) (r : RegId) (i : Nat) (v : Word) : (s.setReg r i v).img = s.img := rfl
@[simp] theorem State.setReg_discardWaits (s : State) (r : RegId) (i : Nat) (v : Word) : (s.setReg r i v).discardWaits = s.discardWaits := rfl
@[simp] theorem State.setReg_lastImg (s : State) (r : RegId) (i : Nat) (v : Word) : (s.setReg r i v).lastImg = s.lastImg := rfl
@[simp] theorem State.setReg_imgKeys (s : State) (r : RegId) (i : Nat) (v : Word) : (s.setReg r i v).imgKeys = s.imgKeys := rfl
@[simp] theorem State.setReg_lastVer (s : State) (r : RegId) (i : Nat) (v : Word) : (s.setReg r i v).lastVer = s.lastVer := rfl
@[simp] theorem State.setReg_put (s : State) (r : RegId) (i : Nat) (v : Word) : (s.setReg r i v).put = s.put := rfl
@[simp] theorem State.setReg_tallies (s : State) (r : RegId) (i : Nat) (v : Word) : (s.setReg r i v).tallies = s.tallies := rfl
@[simp] theorem State.setReg_power (s : State) (r : RegId) (i : Nat) (v : Word) : (s.setReg r i v).power = s.power := rfl
@[simp] theorem State.setReg_key (s : State) (r : RegId) (i : Nat) (v : Word) : (s.setReg r i v).key = s.key := rfl
@[simp] theorem State.setReg_mgmt (s : State) (r : RegId) (i : Nat) (v : Word) : (s.setReg r i v).mgmt = s.mgmt := rfl
@[simp] theorem State.setReg_hif (s : State) (r : RegId) (i : Nat) (v : Word) : (s.setReg r i v).hif = s.hif := rfl
@[simp] theorem State.setReg_dead (s : State) (r : RegId) (i : Nat) (v : Word) : (s.setReg r i v).dead = s.dead := rfl
@[simp] theorem State.setReg_coldHeld (s : State) (r : RegId) (i : Nat) (v : Word) : (s.setReg r i v).coldHeld = s.coldHeld := rfl
@[simp] theorem State.setReg_out (s : State) (r : RegId) (i : Nat) (v : Word) : (s.setReg r i v).out = s.out := rfl

/-! ### `wr` -/

@[simp] theorem State.wr_pending (s : State) (f : Fld) (i v : Nat) : (s.wr f i v).pending = s.pending := rfl
@[simp] theorem State.wr_now (s : State) (f : Fld) (i v : Nat) : (s.wr f i v).now = s.now := rfl
@[simp] theorem State.wr_freeCount (s : State) (f : Fld) (i v : Nat) : (s.wr f i v).freeCount = s.freeCount := rfl
@[simp] theorem State.wr_faces (s : State) (f : Fld) (i v : Nat) : (s.wr f i v).faces = s.faces := rfl
@[simp] theorem State.wr_arrays (s : State) (f : Fld) (i v : Nat) : (s.wr f i v).arrays = s.arrays := rfl
@[simp] theorem State.wr_writes (s : State) (f : Fld) (i v : Nat) : (s.wr f i v).writes = s.writes := rfl
@[simp] theorem State.wr_acts (s : State) (f : Fld) (i v : Nat) : (s.wr f i v).acts = s.acts := rfl
@[simp] theorem State.wr_monitors (s : State) (f : Fld) (i v : Nat) : (s.wr f i v).monitors = s.monitors := rfl
@[simp] theorem State.wr_cals (s : State) (f : Fld) (i v : Nat) : (s.wr f i v).cals = s.cals := rfl
@[simp] theorem State.wr_calOrder (s : State) (f : Fld) (i v : Nat) : (s.wr f i v).calOrder = s.calOrder := rfl
@[simp] theorem State.wr_tours (s : State) (f : Fld) (i v : Nat) : (s.wr f i v).tours = s.tours := rfl
@[simp] theorem State.wr_tourAt (s : State) (f : Fld) (i v : Nat) : (s.wr f i v).tourAt = s.tourAt := rfl
@[simp] theorem State.wr_dupRest (s : State) (f : Fld) (i v : Nat) : (s.wr f i v).dupRest = s.dupRest := rfl
@[simp] theorem State.wr_fineChecks (s : State) (f : Fld) (i v : Nat) : (s.wr f i v).fineChecks = s.fineChecks := rfl
@[simp] theorem State.wr_hand (s : State) (f : Fld) (i v : Nat) : (s.wr f i v).hand = s.hand := rfl
@[simp] theorem State.wr_opId (s : State) (f : Fld) (i v : Nat) : (s.wr f i v).opId = s.opId := rfl
@[simp] theorem State.wr_sigrs (s : State) (f : Fld) (i v : Nat) : (s.wr f i v).sigrs = s.sigrs := rfl
@[simp] theorem State.wr_commits (s : State) (f : Fld) (i v : Nat) : (s.wr f i v).commits = s.commits := rfl
@[simp] theorem State.wr_aborts (s : State) (f : Fld) (i v : Nat) : (s.wr f i v).aborts = s.aborts := rfl
@[simp] theorem State.wr_partials (s : State) (f : Fld) (i v : Nat) : (s.wr f i v).partials = s.partials := rfl
@[simp] theorem State.wr_seqs (s : State) (f : Fld) (i v : Nat) : (s.wr f i v).seqs = s.seqs := rfl
@[simp] theorem State.wr_hbm (s : State) (f : Fld) (i v : Nat) : (s.wr f i v).hbm = s.hbm := rfl
@[simp] theorem State.wr_hbmMeta (s : State) (f : Fld) (i v : Nat) : (s.wr f i v).hbmMeta = s.hbmMeta := rfl
@[simp] theorem State.wr_keyGen (s : State) (f : Fld) (i v : Nat) : (s.wr f i v).keyGen = s.keyGen := rfl
@[simp] theorem State.wr_ring (s : State) (f : Fld) (i v : Nat) : (s.wr f i v).ring = s.ring := rfl
@[simp] theorem State.wr_ringLost (s : State) (f : Fld) (i v : Nat) : (s.wr f i v).ringLost = s.ringLost := rfl
@[simp] theorem State.wr_mesh (s : State) (f : Fld) (i v : Nat) : (s.wr f i v).mesh = s.mesh := rfl
@[simp] theorem State.wr_plays (s : State) (f : Fld) (i v : Nat) : (s.wr f i v).plays = s.plays := rfl
@[simp] theorem State.wr_dtricks (s : State) (f : Fld) (i v : Nat) : (s.wr f i v).dtricks = s.dtricks := rfl
@[simp] theorem State.wr_trickReq (s : State) (f : Fld) (i v : Nat) : (s.wr f i v).trickReq = s.trickReq := rfl
@[simp] theorem State.wr_dtrickReq (s : State) (f : Fld) (i v : Nat) : (s.wr f i v).dtrickReq = s.dtrickReq := rfl
@[simp] theorem State.wr_txq (s : State) (f : Fld) (i v : Nat) : (s.wr f i v).txq = s.txq := rfl
@[simp] theorem State.wr_ports (s : State) (f : Fld) (i v : Nat) : (s.wr f i v).ports = s.ports := rfl
@[simp] theorem State.wr_timeGood (s : State) (f : Fld) (i v : Nat) : (s.wr f i v).timeGood = s.timeGood := rfl
@[simp] theorem State.wr_timeLast (s : State) (f : Fld) (i v : Nat) : (s.wr f i v).timeLast = s.timeLast := rfl
@[simp] theorem State.wr_bypOpen (s : State) (f : Fld) (i v : Nat) : (s.wr f i v).bypOpen = s.bypOpen := rfl
@[simp] theorem State.wr_vaonLow (s : State) (f : Fld) (i v : Nat) : (s.wr f i v).vaonLow = s.vaonLow := rfl
@[simp] theorem State.wr_place (s : State) (f : Fld) (i v : Nat) : (s.wr f i v).place = s.place := rfl
@[simp] theorem State.wr_manifest (s : State) (f : Fld) (i v : Nat) : (s.wr f i v).manifest = s.manifest := rfl
@[simp] theorem State.wr_seatMax (s : State) (f : Fld) (i v : Nat) : (s.wr f i v).seatMax = s.seatMax := rfl
@[simp] theorem State.wr_rings (s : State) (f : Fld) (i v : Nat) : (s.wr f i v).rings = s.rings := rfl
@[simp] theorem State.wr_antes (s : State) (f : Fld) (i v : Nat) : (s.wr f i v).antes = s.antes := rfl
@[simp] theorem State.wr_folds (s : State) (f : Fld) (i v : Nat) : (s.wr f i v).folds = s.folds := rfl
@[simp] theorem State.wr_lastRing (s : State) (f : Fld) (i v : Nat) : (s.wr f i v).lastRing = s.lastRing := rfl
@[simp] theorem State.wr_admitted (s : State) (f : Fld) (i v : Nat) : (s.wr f i v).admitted = s.admitted := rfl
@[simp] theorem State.wr_seats (s : State) (f : Fld) (i v : Nat) : (s.wr f i v).seats = s.seats := rfl
@[simp] theorem State.wr_caches (s : State) (f : Fld) (i v : Nat) : (s.wr f i v).caches = s.caches := rfl
@[simp] theorem State.wr_limbo (s : State) (f : Fld) (i v : Nat) : (s.wr f i v).limbo = s.limbo := rfl
@[simp] theorem State.wr_cmpRest (s : State) (f : Fld) (i v : Nat) : (s.wr f i v).cmpRest = s.cmpRest := rfl
@[simp] theorem State.wr_usedFrames (s : State) (f : Fld) (i v : Nat) : (s.wr f i v).usedFrames = s.usedFrames := rfl
@[simp] theorem State.wr_usedStock (s : State) (f : Fld) (i v : Nat) : (s.wr f i v).usedStock = s.usedStock := rfl
@[simp] theorem State.wr_irqs (s : State) (f : Fld) (i v : Nat) : (s.wr f i v).irqs = s.irqs := rfl
@[simp] theorem State.wr_irqDone (s : State) (f : Fld) (i v : Nat) : (s.wr f i v).irqDone = s.irqDone := rfl
@[simp] theorem State.wr_histIn (s : State) (f : Fld) (i v : Nat) : (s.wr f i v).histIn = s.histIn := rfl
@[simp] theorem State.wr_prefixes (s : State) (f : Fld) (i v : Nat) : (s.wr f i v).prefixes = s.prefixes := rfl
@[simp] theorem State.wr_slots (s : State) (f : Fld) (i v : Nat) : (s.wr f i v).slots = s.slots := rfl
@[simp] theorem State.wr_headQ (s : State) (f : Fld) (i v : Nat) : (s.wr f i v).headQ = s.headQ := rfl
@[simp] theorem State.wr_recs (s : State) (f : Fld) (i v : Nat) : (s.wr f i v).recs = s.recs := rfl
@[simp] theorem State.wr_unitDown (s : State) (f : Fld) (i v : Nat) : (s.wr f i v).unitDown = s.unitDown := rfl
@[simp] theorem State.wr_drecs (s : State) (f : Fld) (i v : Nat) : (s.wr f i v).drecs = s.drecs := rfl
@[simp] theorem State.wr_grams (s : State) (f : Fld) (i v : Nat) : (s.wr f i v).grams = s.grams := rfl
@[simp] theorem State.wr_nanRest (s : State) (f : Fld) (i v : Nat) : (s.wr f i v).nanRest = s.nanRest := rfl
@[simp] theorem State.wr_modeReq (s : State) (f : Fld) (i v : Nat) : (s.wr f i v).modeReq = s.modeReq := rfl
@[simp] theorem State.wr_reps (s : State) (f : Fld) (i v : Nat) : (s.wr f i v).reps = s.reps := rfl
@[simp] theorem State.wr_missedFrom (s : State) (f : Fld) (i v : Nat) : (s.wr f i v).missedFrom = s.missedFrom := rfl
@[simp] theorem State.wr_obeys (s : State) (f : Fld) (i v : Nat) : (s.wr f i v).obeys = s.obeys := rfl
@[simp] theorem State.wr_claims (s : State) (f : Fld) (i v : Nat) : (s.wr f i v).claims = s.claims := rfl
@[simp] theorem State.wr_acked (s : State) (f : Fld) (i v : Nat) : (s.wr f i v).acked = s.acked := rfl
@[simp] theorem State.wr_decided (s : State) (f : Fld) (i v : Nat) : (s.wr f i v).decided = s.decided := rfl
@[simp] theorem State.wr_announced (s : State) (f : Fld) (i v : Nat) : (s.wr f i v).announced = s.announced := rfl
@[simp] theorem State.wr_annDue (s : State) (f : Fld) (i v : Nat) : (s.wr f i v).annDue = s.annDue := rfl
@[simp] theorem State.wr_waitAck (s : State) (f : Fld) (i v : Nat) : (s.wr f i v).waitAck = s.waitAck := rfl
@[simp] theorem State.wr_copyTo (s : State) (f : Fld) (i v : Nat) : (s.wr f i v).copyTo = s.copyTo := rfl
@[simp] theorem State.wr_digestBad (s : State) (f : Fld) (i v : Nat) : (s.wr f i v).digestBad = s.digestBad := rfl
@[simp] theorem State.wr_holds (s : State) (f : Fld) (i v : Nat) : (s.wr f i v).holds = s.holds := rfl
@[simp] theorem State.wr_faultq (s : State) (f : Fld) (i v : Nat) : (s.wr f i v).faultq = s.faultq := rfl
@[simp] theorem State.wr_hist (s : State) (f : Fld) (i v : Nat) : (s.wr f i v).hist = s.hist := rfl
@[simp] theorem State.wr_logStop (s : State) (f : Fld) (i v : Nat) : (s.wr f i v).logStop = s.logStop := rfl
@[simp] theorem State.wr_hostIrqAt (s : State) (f : Fld) (i v : Nat) : (s.wr f i v).hostIrqAt = s.hostIrqAt := rfl
@[simp] theorem State.wr_injs (s : State) (f : Fld) (i v : Nat) : (s.wr f i v).injs = s.injs := rfl
@[simp] theorem State.wr_injLive (s : State) (f : Fld) (i v : Nat) : (s.wr f i v).injLive = s.injLive := rfl
@[simp] theorem State.wr_injOff (s : State) (f : Fld) (i v : Nat) : (s.wr f i v).injOff = s.injOff := rfl
@[simp] theorem State.wr_deck (s : State) (f : Fld) (i v : Nat) : (s.wr f i v).deck = s.deck := rfl
@[simp] theorem State.wr_deckWaits (s : State) (f : Fld) (i v : Nat) : (s.wr f i v).deckWaits = s.deckWaits := rfl
@[simp] theorem State.wr_probeRest (s : State) (f : Fld) (i v : Nat) : (s.wr f i v).probeRest = s.probeRest := rfl
@[simp] theorem State.wr_nvLog (s : State) (f : Fld) (i v : Nat) : (s.wr f i v).nvLog = s.nvLog := rfl
@[simp] theorem State.wr_img (s : State) (f : Fld) (i v : Nat) : (s.wr f i v).img = s.img := rfl
@[simp] theorem State.wr_discardWaits (s : State) (f : Fld) (i v : Nat) : (s.wr f i v).discardWaits = s.discardWaits := rfl
@[simp] theorem State.wr_lastImg (s : State) (f : Fld) (i v : Nat) : (s.wr f i v).lastImg = s.lastImg := rfl
@[simp] theorem State.wr_imgKeys (s : State) (f : Fld) (i v : Nat) : (s.wr f i v).imgKeys = s.imgKeys := rfl
@[simp] theorem State.wr_lastVer (s : State) (f : Fld) (i v : Nat) : (s.wr f i v).lastVer = s.lastVer := rfl
@[simp] theorem State.wr_put (s : State) (f : Fld) (i v : Nat) : (s.wr f i v).put = s.put := rfl
@[simp] theorem State.wr_tallies (s : State) (f : Fld) (i v : Nat) : (s.wr f i v).tallies = s.tallies := rfl
@[simp] theorem State.wr_power (s : State) (f : Fld) (i v : Nat) : (s.wr f i v).power = s.power := rfl
@[simp] theorem State.wr_key (s : State) (f : Fld) (i v : Nat) : (s.wr f i v).key = s.key := rfl
@[simp] theorem State.wr_mgmt (s : State) (f : Fld) (i v : Nat) : (s.wr f i v).mgmt = s.mgmt := rfl
@[simp] theorem State.wr_hif (s : State) (f : Fld) (i v : Nat) : (s.wr f i v).hif = s.hif := rfl
@[simp] theorem State.wr_dead (s : State) (f : Fld) (i v : Nat) : (s.wr f i v).dead = s.dead := rfl
@[simp] theorem State.wr_coldHeld (s : State) (f : Fld) (i v : Nat) : (s.wr f i v).coldHeld = s.coldHeld := rfl
@[simp] theorem State.wr_out (s : State) (f : Fld) (i v : Nat) : (s.wr f i v).out = s.out := rfl

/-! ### `wrB` -/

@[simp] theorem State.wrB_pending (s : State) (f : Fld) (i : Nat) (b : Bool) : (s.wrB f i b).pending = s.pending := rfl
@[simp] theorem State.wrB_now (s : State) (f : Fld) (i : Nat) (b : Bool) : (s.wrB f i b).now = s.now := rfl
@[simp] theorem State.wrB_freeCount (s : State) (f : Fld) (i : Nat) (b : Bool) : (s.wrB f i b).freeCount = s.freeCount := rfl
@[simp] theorem State.wrB_faces (s : State) (f : Fld) (i : Nat) (b : Bool) : (s.wrB f i b).faces = s.faces := rfl
@[simp] theorem State.wrB_arrays (s : State) (f : Fld) (i : Nat) (b : Bool) : (s.wrB f i b).arrays = s.arrays := rfl
@[simp] theorem State.wrB_writes (s : State) (f : Fld) (i : Nat) (b : Bool) : (s.wrB f i b).writes = s.writes := rfl
@[simp] theorem State.wrB_acts (s : State) (f : Fld) (i : Nat) (b : Bool) : (s.wrB f i b).acts = s.acts := rfl
@[simp] theorem State.wrB_monitors (s : State) (f : Fld) (i : Nat) (b : Bool) : (s.wrB f i b).monitors = s.monitors := rfl
@[simp] theorem State.wrB_cals (s : State) (f : Fld) (i : Nat) (b : Bool) : (s.wrB f i b).cals = s.cals := rfl
@[simp] theorem State.wrB_calOrder (s : State) (f : Fld) (i : Nat) (b : Bool) : (s.wrB f i b).calOrder = s.calOrder := rfl
@[simp] theorem State.wrB_tours (s : State) (f : Fld) (i : Nat) (b : Bool) : (s.wrB f i b).tours = s.tours := rfl
@[simp] theorem State.wrB_tourAt (s : State) (f : Fld) (i : Nat) (b : Bool) : (s.wrB f i b).tourAt = s.tourAt := rfl
@[simp] theorem State.wrB_dupRest (s : State) (f : Fld) (i : Nat) (b : Bool) : (s.wrB f i b).dupRest = s.dupRest := rfl
@[simp] theorem State.wrB_fineChecks (s : State) (f : Fld) (i : Nat) (b : Bool) : (s.wrB f i b).fineChecks = s.fineChecks := rfl
@[simp] theorem State.wrB_hand (s : State) (f : Fld) (i : Nat) (b : Bool) : (s.wrB f i b).hand = s.hand := rfl
@[simp] theorem State.wrB_opId (s : State) (f : Fld) (i : Nat) (b : Bool) : (s.wrB f i b).opId = s.opId := rfl
@[simp] theorem State.wrB_sigrs (s : State) (f : Fld) (i : Nat) (b : Bool) : (s.wrB f i b).sigrs = s.sigrs := rfl
@[simp] theorem State.wrB_commits (s : State) (f : Fld) (i : Nat) (b : Bool) : (s.wrB f i b).commits = s.commits := rfl
@[simp] theorem State.wrB_aborts (s : State) (f : Fld) (i : Nat) (b : Bool) : (s.wrB f i b).aborts = s.aborts := rfl
@[simp] theorem State.wrB_partials (s : State) (f : Fld) (i : Nat) (b : Bool) : (s.wrB f i b).partials = s.partials := rfl
@[simp] theorem State.wrB_seqs (s : State) (f : Fld) (i : Nat) (b : Bool) : (s.wrB f i b).seqs = s.seqs := rfl
@[simp] theorem State.wrB_hbm (s : State) (f : Fld) (i : Nat) (b : Bool) : (s.wrB f i b).hbm = s.hbm := rfl
@[simp] theorem State.wrB_hbmMeta (s : State) (f : Fld) (i : Nat) (b : Bool) : (s.wrB f i b).hbmMeta = s.hbmMeta := rfl
@[simp] theorem State.wrB_keyGen (s : State) (f : Fld) (i : Nat) (b : Bool) : (s.wrB f i b).keyGen = s.keyGen := rfl
@[simp] theorem State.wrB_ring (s : State) (f : Fld) (i : Nat) (b : Bool) : (s.wrB f i b).ring = s.ring := rfl
@[simp] theorem State.wrB_ringLost (s : State) (f : Fld) (i : Nat) (b : Bool) : (s.wrB f i b).ringLost = s.ringLost := rfl
@[simp] theorem State.wrB_mesh (s : State) (f : Fld) (i : Nat) (b : Bool) : (s.wrB f i b).mesh = s.mesh := rfl
@[simp] theorem State.wrB_plays (s : State) (f : Fld) (i : Nat) (b : Bool) : (s.wrB f i b).plays = s.plays := rfl
@[simp] theorem State.wrB_dtricks (s : State) (f : Fld) (i : Nat) (b : Bool) : (s.wrB f i b).dtricks = s.dtricks := rfl
@[simp] theorem State.wrB_trickReq (s : State) (f : Fld) (i : Nat) (b : Bool) : (s.wrB f i b).trickReq = s.trickReq := rfl
@[simp] theorem State.wrB_dtrickReq (s : State) (f : Fld) (i : Nat) (b : Bool) : (s.wrB f i b).dtrickReq = s.dtrickReq := rfl
@[simp] theorem State.wrB_txq (s : State) (f : Fld) (i : Nat) (b : Bool) : (s.wrB f i b).txq = s.txq := rfl
@[simp] theorem State.wrB_ports (s : State) (f : Fld) (i : Nat) (b : Bool) : (s.wrB f i b).ports = s.ports := rfl
@[simp] theorem State.wrB_timeGood (s : State) (f : Fld) (i : Nat) (b : Bool) : (s.wrB f i b).timeGood = s.timeGood := rfl
@[simp] theorem State.wrB_timeLast (s : State) (f : Fld) (i : Nat) (b : Bool) : (s.wrB f i b).timeLast = s.timeLast := rfl
@[simp] theorem State.wrB_bypOpen (s : State) (f : Fld) (i : Nat) (b : Bool) : (s.wrB f i b).bypOpen = s.bypOpen := rfl
@[simp] theorem State.wrB_vaonLow (s : State) (f : Fld) (i : Nat) (b : Bool) : (s.wrB f i b).vaonLow = s.vaonLow := rfl
@[simp] theorem State.wrB_place (s : State) (f : Fld) (i : Nat) (b : Bool) : (s.wrB f i b).place = s.place := rfl
@[simp] theorem State.wrB_manifest (s : State) (f : Fld) (i : Nat) (b : Bool) : (s.wrB f i b).manifest = s.manifest := rfl
@[simp] theorem State.wrB_seatMax (s : State) (f : Fld) (i : Nat) (b : Bool) : (s.wrB f i b).seatMax = s.seatMax := rfl
@[simp] theorem State.wrB_rings (s : State) (f : Fld) (i : Nat) (b : Bool) : (s.wrB f i b).rings = s.rings := rfl
@[simp] theorem State.wrB_antes (s : State) (f : Fld) (i : Nat) (b : Bool) : (s.wrB f i b).antes = s.antes := rfl
@[simp] theorem State.wrB_folds (s : State) (f : Fld) (i : Nat) (b : Bool) : (s.wrB f i b).folds = s.folds := rfl
@[simp] theorem State.wrB_lastRing (s : State) (f : Fld) (i : Nat) (b : Bool) : (s.wrB f i b).lastRing = s.lastRing := rfl
@[simp] theorem State.wrB_admitted (s : State) (f : Fld) (i : Nat) (b : Bool) : (s.wrB f i b).admitted = s.admitted := rfl
@[simp] theorem State.wrB_seats (s : State) (f : Fld) (i : Nat) (b : Bool) : (s.wrB f i b).seats = s.seats := rfl
@[simp] theorem State.wrB_caches (s : State) (f : Fld) (i : Nat) (b : Bool) : (s.wrB f i b).caches = s.caches := rfl
@[simp] theorem State.wrB_limbo (s : State) (f : Fld) (i : Nat) (b : Bool) : (s.wrB f i b).limbo = s.limbo := rfl
@[simp] theorem State.wrB_cmpRest (s : State) (f : Fld) (i : Nat) (b : Bool) : (s.wrB f i b).cmpRest = s.cmpRest := rfl
@[simp] theorem State.wrB_usedFrames (s : State) (f : Fld) (i : Nat) (b : Bool) : (s.wrB f i b).usedFrames = s.usedFrames := rfl
@[simp] theorem State.wrB_usedStock (s : State) (f : Fld) (i : Nat) (b : Bool) : (s.wrB f i b).usedStock = s.usedStock := rfl
@[simp] theorem State.wrB_irqs (s : State) (f : Fld) (i : Nat) (b : Bool) : (s.wrB f i b).irqs = s.irqs := rfl
@[simp] theorem State.wrB_irqDone (s : State) (f : Fld) (i : Nat) (b : Bool) : (s.wrB f i b).irqDone = s.irqDone := rfl
@[simp] theorem State.wrB_histIn (s : State) (f : Fld) (i : Nat) (b : Bool) : (s.wrB f i b).histIn = s.histIn := rfl
@[simp] theorem State.wrB_prefixes (s : State) (f : Fld) (i : Nat) (b : Bool) : (s.wrB f i b).prefixes = s.prefixes := rfl
@[simp] theorem State.wrB_slots (s : State) (f : Fld) (i : Nat) (b : Bool) : (s.wrB f i b).slots = s.slots := rfl
@[simp] theorem State.wrB_headQ (s : State) (f : Fld) (i : Nat) (b : Bool) : (s.wrB f i b).headQ = s.headQ := rfl
@[simp] theorem State.wrB_recs (s : State) (f : Fld) (i : Nat) (b : Bool) : (s.wrB f i b).recs = s.recs := rfl
@[simp] theorem State.wrB_unitDown (s : State) (f : Fld) (i : Nat) (b : Bool) : (s.wrB f i b).unitDown = s.unitDown := rfl
@[simp] theorem State.wrB_drecs (s : State) (f : Fld) (i : Nat) (b : Bool) : (s.wrB f i b).drecs = s.drecs := rfl
@[simp] theorem State.wrB_grams (s : State) (f : Fld) (i : Nat) (b : Bool) : (s.wrB f i b).grams = s.grams := rfl
@[simp] theorem State.wrB_nanRest (s : State) (f : Fld) (i : Nat) (b : Bool) : (s.wrB f i b).nanRest = s.nanRest := rfl
@[simp] theorem State.wrB_modeReq (s : State) (f : Fld) (i : Nat) (b : Bool) : (s.wrB f i b).modeReq = s.modeReq := rfl
@[simp] theorem State.wrB_reps (s : State) (f : Fld) (i : Nat) (b : Bool) : (s.wrB f i b).reps = s.reps := rfl
@[simp] theorem State.wrB_missedFrom (s : State) (f : Fld) (i : Nat) (b : Bool) : (s.wrB f i b).missedFrom = s.missedFrom := rfl
@[simp] theorem State.wrB_obeys (s : State) (f : Fld) (i : Nat) (b : Bool) : (s.wrB f i b).obeys = s.obeys := rfl
@[simp] theorem State.wrB_claims (s : State) (f : Fld) (i : Nat) (b : Bool) : (s.wrB f i b).claims = s.claims := rfl
@[simp] theorem State.wrB_acked (s : State) (f : Fld) (i : Nat) (b : Bool) : (s.wrB f i b).acked = s.acked := rfl
@[simp] theorem State.wrB_decided (s : State) (f : Fld) (i : Nat) (b : Bool) : (s.wrB f i b).decided = s.decided := rfl
@[simp] theorem State.wrB_announced (s : State) (f : Fld) (i : Nat) (b : Bool) : (s.wrB f i b).announced = s.announced := rfl
@[simp] theorem State.wrB_annDue (s : State) (f : Fld) (i : Nat) (b : Bool) : (s.wrB f i b).annDue = s.annDue := rfl
@[simp] theorem State.wrB_waitAck (s : State) (f : Fld) (i : Nat) (b : Bool) : (s.wrB f i b).waitAck = s.waitAck := rfl
@[simp] theorem State.wrB_copyTo (s : State) (f : Fld) (i : Nat) (b : Bool) : (s.wrB f i b).copyTo = s.copyTo := rfl
@[simp] theorem State.wrB_digestBad (s : State) (f : Fld) (i : Nat) (b : Bool) : (s.wrB f i b).digestBad = s.digestBad := rfl
@[simp] theorem State.wrB_holds (s : State) (f : Fld) (i : Nat) (b : Bool) : (s.wrB f i b).holds = s.holds := rfl
@[simp] theorem State.wrB_faultq (s : State) (f : Fld) (i : Nat) (b : Bool) : (s.wrB f i b).faultq = s.faultq := rfl
@[simp] theorem State.wrB_hist (s : State) (f : Fld) (i : Nat) (b : Bool) : (s.wrB f i b).hist = s.hist := rfl
@[simp] theorem State.wrB_logStop (s : State) (f : Fld) (i : Nat) (b : Bool) : (s.wrB f i b).logStop = s.logStop := rfl
@[simp] theorem State.wrB_hostIrqAt (s : State) (f : Fld) (i : Nat) (b : Bool) : (s.wrB f i b).hostIrqAt = s.hostIrqAt := rfl
@[simp] theorem State.wrB_injs (s : State) (f : Fld) (i : Nat) (b : Bool) : (s.wrB f i b).injs = s.injs := rfl
@[simp] theorem State.wrB_injLive (s : State) (f : Fld) (i : Nat) (b : Bool) : (s.wrB f i b).injLive = s.injLive := rfl
@[simp] theorem State.wrB_injOff (s : State) (f : Fld) (i : Nat) (b : Bool) : (s.wrB f i b).injOff = s.injOff := rfl
@[simp] theorem State.wrB_deck (s : State) (f : Fld) (i : Nat) (b : Bool) : (s.wrB f i b).deck = s.deck := rfl
@[simp] theorem State.wrB_deckWaits (s : State) (f : Fld) (i : Nat) (b : Bool) : (s.wrB f i b).deckWaits = s.deckWaits := rfl
@[simp] theorem State.wrB_probeRest (s : State) (f : Fld) (i : Nat) (b : Bool) : (s.wrB f i b).probeRest = s.probeRest := rfl
@[simp] theorem State.wrB_nvLog (s : State) (f : Fld) (i : Nat) (b : Bool) : (s.wrB f i b).nvLog = s.nvLog := rfl
@[simp] theorem State.wrB_img (s : State) (f : Fld) (i : Nat) (b : Bool) : (s.wrB f i b).img = s.img := rfl
@[simp] theorem State.wrB_discardWaits (s : State) (f : Fld) (i : Nat) (b : Bool) : (s.wrB f i b).discardWaits = s.discardWaits := rfl
@[simp] theorem State.wrB_lastImg (s : State) (f : Fld) (i : Nat) (b : Bool) : (s.wrB f i b).lastImg = s.lastImg := rfl
@[simp] theorem State.wrB_imgKeys (s : State) (f : Fld) (i : Nat) (b : Bool) : (s.wrB f i b).imgKeys = s.imgKeys := rfl
@[simp] theorem State.wrB_lastVer (s : State) (f : Fld) (i : Nat) (b : Bool) : (s.wrB f i b).lastVer = s.lastVer := rfl
@[simp] theorem State.wrB_put (s : State) (f : Fld) (i : Nat) (b : Bool) : (s.wrB f i b).put = s.put := rfl
@[simp] theorem State.wrB_tallies (s : State) (f : Fld) (i : Nat) (b : Bool) : (s.wrB f i b).tallies = s.tallies := rfl
@[simp] theorem State.wrB_power (s : State) (f : Fld) (i : Nat) (b : Bool) : (s.wrB f i b).power = s.power := rfl
@[simp] theorem State.wrB_key (s : State) (f : Fld) (i : Nat) (b : Bool) : (s.wrB f i b).key = s.key := rfl
@[simp] theorem State.wrB_mgmt (s : State) (f : Fld) (i : Nat) (b : Bool) : (s.wrB f i b).mgmt = s.mgmt := rfl
@[simp] theorem State.wrB_hif (s : State) (f : Fld) (i : Nat) (b : Bool) : (s.wrB f i b).hif = s.hif := rfl
@[simp] theorem State.wrB_dead (s : State) (f : Fld) (i : Nat) (b : Bool) : (s.wrB f i b).dead = s.dead := rfl
@[simp] theorem State.wrB_coldHeld (s : State) (f : Fld) (i : Nat) (b : Bool) : (s.wrB f i b).coldHeld = s.coldHeld := rfl
@[simp] theorem State.wrB_out (s : State) (f : Fld) (i : Nat) (b : Bool) : (s.wrB f i b).out = s.out := rfl

/-! ### `bumpBy` -/

@[simp] theorem State.bumpBy_pending (s : State) (f : Fld) (i n : Nat) : (s.bumpBy f i n).pending = s.pending := rfl
@[simp] theorem State.bumpBy_now (s : State) (f : Fld) (i n : Nat) : (s.bumpBy f i n).now = s.now := rfl
@[simp] theorem State.bumpBy_freeCount (s : State) (f : Fld) (i n : Nat) : (s.bumpBy f i n).freeCount = s.freeCount := rfl
@[simp] theorem State.bumpBy_faces (s : State) (f : Fld) (i n : Nat) : (s.bumpBy f i n).faces = s.faces := rfl
@[simp] theorem State.bumpBy_arrays (s : State) (f : Fld) (i n : Nat) : (s.bumpBy f i n).arrays = s.arrays := rfl
@[simp] theorem State.bumpBy_writes (s : State) (f : Fld) (i n : Nat) : (s.bumpBy f i n).writes = s.writes := rfl
@[simp] theorem State.bumpBy_acts (s : State) (f : Fld) (i n : Nat) : (s.bumpBy f i n).acts = s.acts := rfl
@[simp] theorem State.bumpBy_monitors (s : State) (f : Fld) (i n : Nat) : (s.bumpBy f i n).monitors = s.monitors := rfl
@[simp] theorem State.bumpBy_cals (s : State) (f : Fld) (i n : Nat) : (s.bumpBy f i n).cals = s.cals := rfl
@[simp] theorem State.bumpBy_calOrder (s : State) (f : Fld) (i n : Nat) : (s.bumpBy f i n).calOrder = s.calOrder := rfl
@[simp] theorem State.bumpBy_tours (s : State) (f : Fld) (i n : Nat) : (s.bumpBy f i n).tours = s.tours := rfl
@[simp] theorem State.bumpBy_tourAt (s : State) (f : Fld) (i n : Nat) : (s.bumpBy f i n).tourAt = s.tourAt := rfl
@[simp] theorem State.bumpBy_dupRest (s : State) (f : Fld) (i n : Nat) : (s.bumpBy f i n).dupRest = s.dupRest := rfl
@[simp] theorem State.bumpBy_fineChecks (s : State) (f : Fld) (i n : Nat) : (s.bumpBy f i n).fineChecks = s.fineChecks := rfl
@[simp] theorem State.bumpBy_hand (s : State) (f : Fld) (i n : Nat) : (s.bumpBy f i n).hand = s.hand := rfl
@[simp] theorem State.bumpBy_opId (s : State) (f : Fld) (i n : Nat) : (s.bumpBy f i n).opId = s.opId := rfl
@[simp] theorem State.bumpBy_sigrs (s : State) (f : Fld) (i n : Nat) : (s.bumpBy f i n).sigrs = s.sigrs := rfl
@[simp] theorem State.bumpBy_commits (s : State) (f : Fld) (i n : Nat) : (s.bumpBy f i n).commits = s.commits := rfl
@[simp] theorem State.bumpBy_aborts (s : State) (f : Fld) (i n : Nat) : (s.bumpBy f i n).aborts = s.aborts := rfl
@[simp] theorem State.bumpBy_partials (s : State) (f : Fld) (i n : Nat) : (s.bumpBy f i n).partials = s.partials := rfl
@[simp] theorem State.bumpBy_seqs (s : State) (f : Fld) (i n : Nat) : (s.bumpBy f i n).seqs = s.seqs := rfl
@[simp] theorem State.bumpBy_hbm (s : State) (f : Fld) (i n : Nat) : (s.bumpBy f i n).hbm = s.hbm := rfl
@[simp] theorem State.bumpBy_hbmMeta (s : State) (f : Fld) (i n : Nat) : (s.bumpBy f i n).hbmMeta = s.hbmMeta := rfl
@[simp] theorem State.bumpBy_keyGen (s : State) (f : Fld) (i n : Nat) : (s.bumpBy f i n).keyGen = s.keyGen := rfl
@[simp] theorem State.bumpBy_ring (s : State) (f : Fld) (i n : Nat) : (s.bumpBy f i n).ring = s.ring := rfl
@[simp] theorem State.bumpBy_ringLost (s : State) (f : Fld) (i n : Nat) : (s.bumpBy f i n).ringLost = s.ringLost := rfl
@[simp] theorem State.bumpBy_mesh (s : State) (f : Fld) (i n : Nat) : (s.bumpBy f i n).mesh = s.mesh := rfl
@[simp] theorem State.bumpBy_plays (s : State) (f : Fld) (i n : Nat) : (s.bumpBy f i n).plays = s.plays := rfl
@[simp] theorem State.bumpBy_dtricks (s : State) (f : Fld) (i n : Nat) : (s.bumpBy f i n).dtricks = s.dtricks := rfl
@[simp] theorem State.bumpBy_trickReq (s : State) (f : Fld) (i n : Nat) : (s.bumpBy f i n).trickReq = s.trickReq := rfl
@[simp] theorem State.bumpBy_dtrickReq (s : State) (f : Fld) (i n : Nat) : (s.bumpBy f i n).dtrickReq = s.dtrickReq := rfl
@[simp] theorem State.bumpBy_txq (s : State) (f : Fld) (i n : Nat) : (s.bumpBy f i n).txq = s.txq := rfl
@[simp] theorem State.bumpBy_ports (s : State) (f : Fld) (i n : Nat) : (s.bumpBy f i n).ports = s.ports := rfl
@[simp] theorem State.bumpBy_timeGood (s : State) (f : Fld) (i n : Nat) : (s.bumpBy f i n).timeGood = s.timeGood := rfl
@[simp] theorem State.bumpBy_timeLast (s : State) (f : Fld) (i n : Nat) : (s.bumpBy f i n).timeLast = s.timeLast := rfl
@[simp] theorem State.bumpBy_bypOpen (s : State) (f : Fld) (i n : Nat) : (s.bumpBy f i n).bypOpen = s.bypOpen := rfl
@[simp] theorem State.bumpBy_vaonLow (s : State) (f : Fld) (i n : Nat) : (s.bumpBy f i n).vaonLow = s.vaonLow := rfl
@[simp] theorem State.bumpBy_place (s : State) (f : Fld) (i n : Nat) : (s.bumpBy f i n).place = s.place := rfl
@[simp] theorem State.bumpBy_manifest (s : State) (f : Fld) (i n : Nat) : (s.bumpBy f i n).manifest = s.manifest := rfl
@[simp] theorem State.bumpBy_seatMax (s : State) (f : Fld) (i n : Nat) : (s.bumpBy f i n).seatMax = s.seatMax := rfl
@[simp] theorem State.bumpBy_rings (s : State) (f : Fld) (i n : Nat) : (s.bumpBy f i n).rings = s.rings := rfl
@[simp] theorem State.bumpBy_antes (s : State) (f : Fld) (i n : Nat) : (s.bumpBy f i n).antes = s.antes := rfl
@[simp] theorem State.bumpBy_folds (s : State) (f : Fld) (i n : Nat) : (s.bumpBy f i n).folds = s.folds := rfl
@[simp] theorem State.bumpBy_lastRing (s : State) (f : Fld) (i n : Nat) : (s.bumpBy f i n).lastRing = s.lastRing := rfl
@[simp] theorem State.bumpBy_admitted (s : State) (f : Fld) (i n : Nat) : (s.bumpBy f i n).admitted = s.admitted := rfl
@[simp] theorem State.bumpBy_seats (s : State) (f : Fld) (i n : Nat) : (s.bumpBy f i n).seats = s.seats := rfl
@[simp] theorem State.bumpBy_caches (s : State) (f : Fld) (i n : Nat) : (s.bumpBy f i n).caches = s.caches := rfl
@[simp] theorem State.bumpBy_limbo (s : State) (f : Fld) (i n : Nat) : (s.bumpBy f i n).limbo = s.limbo := rfl
@[simp] theorem State.bumpBy_cmpRest (s : State) (f : Fld) (i n : Nat) : (s.bumpBy f i n).cmpRest = s.cmpRest := rfl
@[simp] theorem State.bumpBy_usedFrames (s : State) (f : Fld) (i n : Nat) : (s.bumpBy f i n).usedFrames = s.usedFrames := rfl
@[simp] theorem State.bumpBy_usedStock (s : State) (f : Fld) (i n : Nat) : (s.bumpBy f i n).usedStock = s.usedStock := rfl
@[simp] theorem State.bumpBy_irqs (s : State) (f : Fld) (i n : Nat) : (s.bumpBy f i n).irqs = s.irqs := rfl
@[simp] theorem State.bumpBy_irqDone (s : State) (f : Fld) (i n : Nat) : (s.bumpBy f i n).irqDone = s.irqDone := rfl
@[simp] theorem State.bumpBy_histIn (s : State) (f : Fld) (i n : Nat) : (s.bumpBy f i n).histIn = s.histIn := rfl
@[simp] theorem State.bumpBy_prefixes (s : State) (f : Fld) (i n : Nat) : (s.bumpBy f i n).prefixes = s.prefixes := rfl
@[simp] theorem State.bumpBy_slots (s : State) (f : Fld) (i n : Nat) : (s.bumpBy f i n).slots = s.slots := rfl
@[simp] theorem State.bumpBy_headQ (s : State) (f : Fld) (i n : Nat) : (s.bumpBy f i n).headQ = s.headQ := rfl
@[simp] theorem State.bumpBy_recs (s : State) (f : Fld) (i n : Nat) : (s.bumpBy f i n).recs = s.recs := rfl
@[simp] theorem State.bumpBy_unitDown (s : State) (f : Fld) (i n : Nat) : (s.bumpBy f i n).unitDown = s.unitDown := rfl
@[simp] theorem State.bumpBy_drecs (s : State) (f : Fld) (i n : Nat) : (s.bumpBy f i n).drecs = s.drecs := rfl
@[simp] theorem State.bumpBy_grams (s : State) (f : Fld) (i n : Nat) : (s.bumpBy f i n).grams = s.grams := rfl
@[simp] theorem State.bumpBy_nanRest (s : State) (f : Fld) (i n : Nat) : (s.bumpBy f i n).nanRest = s.nanRest := rfl
@[simp] theorem State.bumpBy_modeReq (s : State) (f : Fld) (i n : Nat) : (s.bumpBy f i n).modeReq = s.modeReq := rfl
@[simp] theorem State.bumpBy_reps (s : State) (f : Fld) (i n : Nat) : (s.bumpBy f i n).reps = s.reps := rfl
@[simp] theorem State.bumpBy_missedFrom (s : State) (f : Fld) (i n : Nat) : (s.bumpBy f i n).missedFrom = s.missedFrom := rfl
@[simp] theorem State.bumpBy_obeys (s : State) (f : Fld) (i n : Nat) : (s.bumpBy f i n).obeys = s.obeys := rfl
@[simp] theorem State.bumpBy_claims (s : State) (f : Fld) (i n : Nat) : (s.bumpBy f i n).claims = s.claims := rfl
@[simp] theorem State.bumpBy_acked (s : State) (f : Fld) (i n : Nat) : (s.bumpBy f i n).acked = s.acked := rfl
@[simp] theorem State.bumpBy_decided (s : State) (f : Fld) (i n : Nat) : (s.bumpBy f i n).decided = s.decided := rfl
@[simp] theorem State.bumpBy_announced (s : State) (f : Fld) (i n : Nat) : (s.bumpBy f i n).announced = s.announced := rfl
@[simp] theorem State.bumpBy_annDue (s : State) (f : Fld) (i n : Nat) : (s.bumpBy f i n).annDue = s.annDue := rfl
@[simp] theorem State.bumpBy_waitAck (s : State) (f : Fld) (i n : Nat) : (s.bumpBy f i n).waitAck = s.waitAck := rfl
@[simp] theorem State.bumpBy_copyTo (s : State) (f : Fld) (i n : Nat) : (s.bumpBy f i n).copyTo = s.copyTo := rfl
@[simp] theorem State.bumpBy_digestBad (s : State) (f : Fld) (i n : Nat) : (s.bumpBy f i n).digestBad = s.digestBad := rfl
@[simp] theorem State.bumpBy_holds (s : State) (f : Fld) (i n : Nat) : (s.bumpBy f i n).holds = s.holds := rfl
@[simp] theorem State.bumpBy_faultq (s : State) (f : Fld) (i n : Nat) : (s.bumpBy f i n).faultq = s.faultq := rfl
@[simp] theorem State.bumpBy_hist (s : State) (f : Fld) (i n : Nat) : (s.bumpBy f i n).hist = s.hist := rfl
@[simp] theorem State.bumpBy_logStop (s : State) (f : Fld) (i n : Nat) : (s.bumpBy f i n).logStop = s.logStop := rfl
@[simp] theorem State.bumpBy_hostIrqAt (s : State) (f : Fld) (i n : Nat) : (s.bumpBy f i n).hostIrqAt = s.hostIrqAt := rfl
@[simp] theorem State.bumpBy_injs (s : State) (f : Fld) (i n : Nat) : (s.bumpBy f i n).injs = s.injs := rfl
@[simp] theorem State.bumpBy_injLive (s : State) (f : Fld) (i n : Nat) : (s.bumpBy f i n).injLive = s.injLive := rfl
@[simp] theorem State.bumpBy_injOff (s : State) (f : Fld) (i n : Nat) : (s.bumpBy f i n).injOff = s.injOff := rfl
@[simp] theorem State.bumpBy_deck (s : State) (f : Fld) (i n : Nat) : (s.bumpBy f i n).deck = s.deck := rfl
@[simp] theorem State.bumpBy_deckWaits (s : State) (f : Fld) (i n : Nat) : (s.bumpBy f i n).deckWaits = s.deckWaits := rfl
@[simp] theorem State.bumpBy_probeRest (s : State) (f : Fld) (i n : Nat) : (s.bumpBy f i n).probeRest = s.probeRest := rfl
@[simp] theorem State.bumpBy_nvLog (s : State) (f : Fld) (i n : Nat) : (s.bumpBy f i n).nvLog = s.nvLog := rfl
@[simp] theorem State.bumpBy_img (s : State) (f : Fld) (i n : Nat) : (s.bumpBy f i n).img = s.img := rfl
@[simp] theorem State.bumpBy_discardWaits (s : State) (f : Fld) (i n : Nat) : (s.bumpBy f i n).discardWaits = s.discardWaits := rfl
@[simp] theorem State.bumpBy_lastImg (s : State) (f : Fld) (i n : Nat) : (s.bumpBy f i n).lastImg = s.lastImg := rfl
@[simp] theorem State.bumpBy_imgKeys (s : State) (f : Fld) (i n : Nat) : (s.bumpBy f i n).imgKeys = s.imgKeys := rfl
@[simp] theorem State.bumpBy_lastVer (s : State) (f : Fld) (i n : Nat) : (s.bumpBy f i n).lastVer = s.lastVer := rfl
@[simp] theorem State.bumpBy_put (s : State) (f : Fld) (i n : Nat) : (s.bumpBy f i n).put = s.put := rfl
@[simp] theorem State.bumpBy_tallies (s : State) (f : Fld) (i n : Nat) : (s.bumpBy f i n).tallies = s.tallies := rfl
@[simp] theorem State.bumpBy_power (s : State) (f : Fld) (i n : Nat) : (s.bumpBy f i n).power = s.power := rfl
@[simp] theorem State.bumpBy_key (s : State) (f : Fld) (i n : Nat) : (s.bumpBy f i n).key = s.key := rfl
@[simp] theorem State.bumpBy_mgmt (s : State) (f : Fld) (i n : Nat) : (s.bumpBy f i n).mgmt = s.mgmt := rfl
@[simp] theorem State.bumpBy_hif (s : State) (f : Fld) (i n : Nat) : (s.bumpBy f i n).hif = s.hif := rfl
@[simp] theorem State.bumpBy_dead (s : State) (f : Fld) (i n : Nat) : (s.bumpBy f i n).dead = s.dead := rfl
@[simp] theorem State.bumpBy_coldHeld (s : State) (f : Fld) (i n : Nat) : (s.bumpBy f i n).coldHeld = s.coldHeld := rfl
@[simp] theorem State.bumpBy_out (s : State) (f : Fld) (i n : Nat) : (s.bumpBy f i n).out = s.out := rfl

/-! ### `bump` -/

@[simp] theorem State.bump_pending (s : State) (f : Fld) (i : Nat) : (s.bump f i).pending = s.pending := rfl
@[simp] theorem State.bump_now (s : State) (f : Fld) (i : Nat) : (s.bump f i).now = s.now := rfl
@[simp] theorem State.bump_freeCount (s : State) (f : Fld) (i : Nat) : (s.bump f i).freeCount = s.freeCount := rfl
@[simp] theorem State.bump_faces (s : State) (f : Fld) (i : Nat) : (s.bump f i).faces = s.faces := rfl
@[simp] theorem State.bump_arrays (s : State) (f : Fld) (i : Nat) : (s.bump f i).arrays = s.arrays := rfl
@[simp] theorem State.bump_writes (s : State) (f : Fld) (i : Nat) : (s.bump f i).writes = s.writes := rfl
@[simp] theorem State.bump_acts (s : State) (f : Fld) (i : Nat) : (s.bump f i).acts = s.acts := rfl
@[simp] theorem State.bump_monitors (s : State) (f : Fld) (i : Nat) : (s.bump f i).monitors = s.monitors := rfl
@[simp] theorem State.bump_cals (s : State) (f : Fld) (i : Nat) : (s.bump f i).cals = s.cals := rfl
@[simp] theorem State.bump_calOrder (s : State) (f : Fld) (i : Nat) : (s.bump f i).calOrder = s.calOrder := rfl
@[simp] theorem State.bump_tours (s : State) (f : Fld) (i : Nat) : (s.bump f i).tours = s.tours := rfl
@[simp] theorem State.bump_tourAt (s : State) (f : Fld) (i : Nat) : (s.bump f i).tourAt = s.tourAt := rfl
@[simp] theorem State.bump_dupRest (s : State) (f : Fld) (i : Nat) : (s.bump f i).dupRest = s.dupRest := rfl
@[simp] theorem State.bump_fineChecks (s : State) (f : Fld) (i : Nat) : (s.bump f i).fineChecks = s.fineChecks := rfl
@[simp] theorem State.bump_hand (s : State) (f : Fld) (i : Nat) : (s.bump f i).hand = s.hand := rfl
@[simp] theorem State.bump_opId (s : State) (f : Fld) (i : Nat) : (s.bump f i).opId = s.opId := rfl
@[simp] theorem State.bump_sigrs (s : State) (f : Fld) (i : Nat) : (s.bump f i).sigrs = s.sigrs := rfl
@[simp] theorem State.bump_commits (s : State) (f : Fld) (i : Nat) : (s.bump f i).commits = s.commits := rfl
@[simp] theorem State.bump_aborts (s : State) (f : Fld) (i : Nat) : (s.bump f i).aborts = s.aborts := rfl
@[simp] theorem State.bump_partials (s : State) (f : Fld) (i : Nat) : (s.bump f i).partials = s.partials := rfl
@[simp] theorem State.bump_seqs (s : State) (f : Fld) (i : Nat) : (s.bump f i).seqs = s.seqs := rfl
@[simp] theorem State.bump_hbm (s : State) (f : Fld) (i : Nat) : (s.bump f i).hbm = s.hbm := rfl
@[simp] theorem State.bump_hbmMeta (s : State) (f : Fld) (i : Nat) : (s.bump f i).hbmMeta = s.hbmMeta := rfl
@[simp] theorem State.bump_keyGen (s : State) (f : Fld) (i : Nat) : (s.bump f i).keyGen = s.keyGen := rfl
@[simp] theorem State.bump_ring (s : State) (f : Fld) (i : Nat) : (s.bump f i).ring = s.ring := rfl
@[simp] theorem State.bump_ringLost (s : State) (f : Fld) (i : Nat) : (s.bump f i).ringLost = s.ringLost := rfl
@[simp] theorem State.bump_mesh (s : State) (f : Fld) (i : Nat) : (s.bump f i).mesh = s.mesh := rfl
@[simp] theorem State.bump_plays (s : State) (f : Fld) (i : Nat) : (s.bump f i).plays = s.plays := rfl
@[simp] theorem State.bump_dtricks (s : State) (f : Fld) (i : Nat) : (s.bump f i).dtricks = s.dtricks := rfl
@[simp] theorem State.bump_trickReq (s : State) (f : Fld) (i : Nat) : (s.bump f i).trickReq = s.trickReq := rfl
@[simp] theorem State.bump_dtrickReq (s : State) (f : Fld) (i : Nat) : (s.bump f i).dtrickReq = s.dtrickReq := rfl
@[simp] theorem State.bump_txq (s : State) (f : Fld) (i : Nat) : (s.bump f i).txq = s.txq := rfl
@[simp] theorem State.bump_ports (s : State) (f : Fld) (i : Nat) : (s.bump f i).ports = s.ports := rfl
@[simp] theorem State.bump_timeGood (s : State) (f : Fld) (i : Nat) : (s.bump f i).timeGood = s.timeGood := rfl
@[simp] theorem State.bump_timeLast (s : State) (f : Fld) (i : Nat) : (s.bump f i).timeLast = s.timeLast := rfl
@[simp] theorem State.bump_bypOpen (s : State) (f : Fld) (i : Nat) : (s.bump f i).bypOpen = s.bypOpen := rfl
@[simp] theorem State.bump_vaonLow (s : State) (f : Fld) (i : Nat) : (s.bump f i).vaonLow = s.vaonLow := rfl
@[simp] theorem State.bump_place (s : State) (f : Fld) (i : Nat) : (s.bump f i).place = s.place := rfl
@[simp] theorem State.bump_manifest (s : State) (f : Fld) (i : Nat) : (s.bump f i).manifest = s.manifest := rfl
@[simp] theorem State.bump_seatMax (s : State) (f : Fld) (i : Nat) : (s.bump f i).seatMax = s.seatMax := rfl
@[simp] theorem State.bump_rings (s : State) (f : Fld) (i : Nat) : (s.bump f i).rings = s.rings := rfl
@[simp] theorem State.bump_antes (s : State) (f : Fld) (i : Nat) : (s.bump f i).antes = s.antes := rfl
@[simp] theorem State.bump_folds (s : State) (f : Fld) (i : Nat) : (s.bump f i).folds = s.folds := rfl
@[simp] theorem State.bump_lastRing (s : State) (f : Fld) (i : Nat) : (s.bump f i).lastRing = s.lastRing := rfl
@[simp] theorem State.bump_admitted (s : State) (f : Fld) (i : Nat) : (s.bump f i).admitted = s.admitted := rfl
@[simp] theorem State.bump_seats (s : State) (f : Fld) (i : Nat) : (s.bump f i).seats = s.seats := rfl
@[simp] theorem State.bump_caches (s : State) (f : Fld) (i : Nat) : (s.bump f i).caches = s.caches := rfl
@[simp] theorem State.bump_limbo (s : State) (f : Fld) (i : Nat) : (s.bump f i).limbo = s.limbo := rfl
@[simp] theorem State.bump_cmpRest (s : State) (f : Fld) (i : Nat) : (s.bump f i).cmpRest = s.cmpRest := rfl
@[simp] theorem State.bump_usedFrames (s : State) (f : Fld) (i : Nat) : (s.bump f i).usedFrames = s.usedFrames := rfl
@[simp] theorem State.bump_usedStock (s : State) (f : Fld) (i : Nat) : (s.bump f i).usedStock = s.usedStock := rfl
@[simp] theorem State.bump_irqs (s : State) (f : Fld) (i : Nat) : (s.bump f i).irqs = s.irqs := rfl
@[simp] theorem State.bump_irqDone (s : State) (f : Fld) (i : Nat) : (s.bump f i).irqDone = s.irqDone := rfl
@[simp] theorem State.bump_histIn (s : State) (f : Fld) (i : Nat) : (s.bump f i).histIn = s.histIn := rfl
@[simp] theorem State.bump_prefixes (s : State) (f : Fld) (i : Nat) : (s.bump f i).prefixes = s.prefixes := rfl
@[simp] theorem State.bump_slots (s : State) (f : Fld) (i : Nat) : (s.bump f i).slots = s.slots := rfl
@[simp] theorem State.bump_headQ (s : State) (f : Fld) (i : Nat) : (s.bump f i).headQ = s.headQ := rfl
@[simp] theorem State.bump_recs (s : State) (f : Fld) (i : Nat) : (s.bump f i).recs = s.recs := rfl
@[simp] theorem State.bump_unitDown (s : State) (f : Fld) (i : Nat) : (s.bump f i).unitDown = s.unitDown := rfl
@[simp] theorem State.bump_drecs (s : State) (f : Fld) (i : Nat) : (s.bump f i).drecs = s.drecs := rfl
@[simp] theorem State.bump_grams (s : State) (f : Fld) (i : Nat) : (s.bump f i).grams = s.grams := rfl
@[simp] theorem State.bump_nanRest (s : State) (f : Fld) (i : Nat) : (s.bump f i).nanRest = s.nanRest := rfl
@[simp] theorem State.bump_modeReq (s : State) (f : Fld) (i : Nat) : (s.bump f i).modeReq = s.modeReq := rfl
@[simp] theorem State.bump_reps (s : State) (f : Fld) (i : Nat) : (s.bump f i).reps = s.reps := rfl
@[simp] theorem State.bump_missedFrom (s : State) (f : Fld) (i : Nat) : (s.bump f i).missedFrom = s.missedFrom := rfl
@[simp] theorem State.bump_obeys (s : State) (f : Fld) (i : Nat) : (s.bump f i).obeys = s.obeys := rfl
@[simp] theorem State.bump_claims (s : State) (f : Fld) (i : Nat) : (s.bump f i).claims = s.claims := rfl
@[simp] theorem State.bump_acked (s : State) (f : Fld) (i : Nat) : (s.bump f i).acked = s.acked := rfl
@[simp] theorem State.bump_decided (s : State) (f : Fld) (i : Nat) : (s.bump f i).decided = s.decided := rfl
@[simp] theorem State.bump_announced (s : State) (f : Fld) (i : Nat) : (s.bump f i).announced = s.announced := rfl
@[simp] theorem State.bump_annDue (s : State) (f : Fld) (i : Nat) : (s.bump f i).annDue = s.annDue := rfl
@[simp] theorem State.bump_waitAck (s : State) (f : Fld) (i : Nat) : (s.bump f i).waitAck = s.waitAck := rfl
@[simp] theorem State.bump_copyTo (s : State) (f : Fld) (i : Nat) : (s.bump f i).copyTo = s.copyTo := rfl
@[simp] theorem State.bump_digestBad (s : State) (f : Fld) (i : Nat) : (s.bump f i).digestBad = s.digestBad := rfl
@[simp] theorem State.bump_holds (s : State) (f : Fld) (i : Nat) : (s.bump f i).holds = s.holds := rfl
@[simp] theorem State.bump_faultq (s : State) (f : Fld) (i : Nat) : (s.bump f i).faultq = s.faultq := rfl
@[simp] theorem State.bump_hist (s : State) (f : Fld) (i : Nat) : (s.bump f i).hist = s.hist := rfl
@[simp] theorem State.bump_logStop (s : State) (f : Fld) (i : Nat) : (s.bump f i).logStop = s.logStop := rfl
@[simp] theorem State.bump_hostIrqAt (s : State) (f : Fld) (i : Nat) : (s.bump f i).hostIrqAt = s.hostIrqAt := rfl
@[simp] theorem State.bump_injs (s : State) (f : Fld) (i : Nat) : (s.bump f i).injs = s.injs := rfl
@[simp] theorem State.bump_injLive (s : State) (f : Fld) (i : Nat) : (s.bump f i).injLive = s.injLive := rfl
@[simp] theorem State.bump_injOff (s : State) (f : Fld) (i : Nat) : (s.bump f i).injOff = s.injOff := rfl
@[simp] theorem State.bump_deck (s : State) (f : Fld) (i : Nat) : (s.bump f i).deck = s.deck := rfl
@[simp] theorem State.bump_deckWaits (s : State) (f : Fld) (i : Nat) : (s.bump f i).deckWaits = s.deckWaits := rfl
@[simp] theorem State.bump_probeRest (s : State) (f : Fld) (i : Nat) : (s.bump f i).probeRest = s.probeRest := rfl
@[simp] theorem State.bump_nvLog (s : State) (f : Fld) (i : Nat) : (s.bump f i).nvLog = s.nvLog := rfl
@[simp] theorem State.bump_img (s : State) (f : Fld) (i : Nat) : (s.bump f i).img = s.img := rfl
@[simp] theorem State.bump_discardWaits (s : State) (f : Fld) (i : Nat) : (s.bump f i).discardWaits = s.discardWaits := rfl
@[simp] theorem State.bump_lastImg (s : State) (f : Fld) (i : Nat) : (s.bump f i).lastImg = s.lastImg := rfl
@[simp] theorem State.bump_imgKeys (s : State) (f : Fld) (i : Nat) : (s.bump f i).imgKeys = s.imgKeys := rfl
@[simp] theorem State.bump_lastVer (s : State) (f : Fld) (i : Nat) : (s.bump f i).lastVer = s.lastVer := rfl
@[simp] theorem State.bump_put (s : State) (f : Fld) (i : Nat) : (s.bump f i).put = s.put := rfl
@[simp] theorem State.bump_tallies (s : State) (f : Fld) (i : Nat) : (s.bump f i).tallies = s.tallies := rfl
@[simp] theorem State.bump_power (s : State) (f : Fld) (i : Nat) : (s.bump f i).power = s.power := rfl
@[simp] theorem State.bump_key (s : State) (f : Fld) (i : Nat) : (s.bump f i).key = s.key := rfl
@[simp] theorem State.bump_mgmt (s : State) (f : Fld) (i : Nat) : (s.bump f i).mgmt = s.mgmt := rfl
@[simp] theorem State.bump_hif (s : State) (f : Fld) (i : Nat) : (s.bump f i).hif = s.hif := rfl
@[simp] theorem State.bump_dead (s : State) (f : Fld) (i : Nat) : (s.bump f i).dead = s.dead := rfl
@[simp] theorem State.bump_coldHeld (s : State) (f : Fld) (i : Nat) : (s.bump f i).coldHeld = s.coldHeld := rfl
@[simp] theorem State.bump_out (s : State) (f : Fld) (i : Nat) : (s.bump f i).out = s.out := rfl

/-! ### `setFace` -/

@[simp] theorem State.setFace_pending (s : State) (f : Nat) (x : Face) : (s.setFace f x).pending = s.pending := rfl
@[simp] theorem State.setFace_now (s : State) (f : Nat) (x : Face) : (s.setFace f x).now = s.now := rfl
@[simp] theorem State.setFace_freeCount (s : State) (f : Nat) (x : Face) : (s.setFace f x).freeCount = s.freeCount := rfl
@[simp] theorem State.setFace_regs (s : State) (f : Nat) (x : Face) : (s.setFace f x).regs = s.regs := rfl
@[simp] theorem State.setFace_arrays (s : State) (f : Nat) (x : Face) : (s.setFace f x).arrays = s.arrays := rfl
@[simp] theorem State.setFace_writes (s : State) (f : Nat) (x : Face) : (s.setFace f x).writes = s.writes := rfl
@[simp] theorem State.setFace_acts (s : State) (f : Nat) (x : Face) : (s.setFace f x).acts = s.acts := rfl
@[simp] theorem State.setFace_monitors (s : State) (f : Nat) (x : Face) : (s.setFace f x).monitors = s.monitors := rfl
@[simp] theorem State.setFace_cals (s : State) (f : Nat) (x : Face) : (s.setFace f x).cals = s.cals := rfl
@[simp] theorem State.setFace_calOrder (s : State) (f : Nat) (x : Face) : (s.setFace f x).calOrder = s.calOrder := rfl
@[simp] theorem State.setFace_tours (s : State) (f : Nat) (x : Face) : (s.setFace f x).tours = s.tours := rfl
@[simp] theorem State.setFace_tourAt (s : State) (f : Nat) (x : Face) : (s.setFace f x).tourAt = s.tourAt := rfl
@[simp] theorem State.setFace_dupRest (s : State) (f : Nat) (x : Face) : (s.setFace f x).dupRest = s.dupRest := rfl
@[simp] theorem State.setFace_fineChecks (s : State) (f : Nat) (x : Face) : (s.setFace f x).fineChecks = s.fineChecks := rfl
@[simp] theorem State.setFace_hand (s : State) (f : Nat) (x : Face) : (s.setFace f x).hand = s.hand := rfl
@[simp] theorem State.setFace_opId (s : State) (f : Nat) (x : Face) : (s.setFace f x).opId = s.opId := rfl
@[simp] theorem State.setFace_sigrs (s : State) (f : Nat) (x : Face) : (s.setFace f x).sigrs = s.sigrs := rfl
@[simp] theorem State.setFace_commits (s : State) (f : Nat) (x : Face) : (s.setFace f x).commits = s.commits := rfl
@[simp] theorem State.setFace_aborts (s : State) (f : Nat) (x : Face) : (s.setFace f x).aborts = s.aborts := rfl
@[simp] theorem State.setFace_partials (s : State) (f : Nat) (x : Face) : (s.setFace f x).partials = s.partials := rfl
@[simp] theorem State.setFace_seqs (s : State) (f : Nat) (x : Face) : (s.setFace f x).seqs = s.seqs := rfl
@[simp] theorem State.setFace_hbm (s : State) (f : Nat) (x : Face) : (s.setFace f x).hbm = s.hbm := rfl
@[simp] theorem State.setFace_hbmMeta (s : State) (f : Nat) (x : Face) : (s.setFace f x).hbmMeta = s.hbmMeta := rfl
@[simp] theorem State.setFace_keyGen (s : State) (f : Nat) (x : Face) : (s.setFace f x).keyGen = s.keyGen := rfl
@[simp] theorem State.setFace_ring (s : State) (f : Nat) (x : Face) : (s.setFace f x).ring = s.ring := rfl
@[simp] theorem State.setFace_ringLost (s : State) (f : Nat) (x : Face) : (s.setFace f x).ringLost = s.ringLost := rfl
@[simp] theorem State.setFace_mesh (s : State) (f : Nat) (x : Face) : (s.setFace f x).mesh = s.mesh := rfl
@[simp] theorem State.setFace_plays (s : State) (f : Nat) (x : Face) : (s.setFace f x).plays = s.plays := rfl
@[simp] theorem State.setFace_dtricks (s : State) (f : Nat) (x : Face) : (s.setFace f x).dtricks = s.dtricks := rfl
@[simp] theorem State.setFace_trickReq (s : State) (f : Nat) (x : Face) : (s.setFace f x).trickReq = s.trickReq := rfl
@[simp] theorem State.setFace_dtrickReq (s : State) (f : Nat) (x : Face) : (s.setFace f x).dtrickReq = s.dtrickReq := rfl
@[simp] theorem State.setFace_txq (s : State) (f : Nat) (x : Face) : (s.setFace f x).txq = s.txq := rfl
@[simp] theorem State.setFace_ports (s : State) (f : Nat) (x : Face) : (s.setFace f x).ports = s.ports := rfl
@[simp] theorem State.setFace_timeGood (s : State) (f : Nat) (x : Face) : (s.setFace f x).timeGood = s.timeGood := rfl
@[simp] theorem State.setFace_timeLast (s : State) (f : Nat) (x : Face) : (s.setFace f x).timeLast = s.timeLast := rfl
@[simp] theorem State.setFace_bypOpen (s : State) (f : Nat) (x : Face) : (s.setFace f x).bypOpen = s.bypOpen := rfl
@[simp] theorem State.setFace_vaonLow (s : State) (f : Nat) (x : Face) : (s.setFace f x).vaonLow = s.vaonLow := rfl
@[simp] theorem State.setFace_place (s : State) (f : Nat) (x : Face) : (s.setFace f x).place = s.place := rfl
@[simp] theorem State.setFace_manifest (s : State) (f : Nat) (x : Face) : (s.setFace f x).manifest = s.manifest := rfl
@[simp] theorem State.setFace_seatMax (s : State) (f : Nat) (x : Face) : (s.setFace f x).seatMax = s.seatMax := rfl
@[simp] theorem State.setFace_rings (s : State) (f : Nat) (x : Face) : (s.setFace f x).rings = s.rings := rfl
@[simp] theorem State.setFace_antes (s : State) (f : Nat) (x : Face) : (s.setFace f x).antes = s.antes := rfl
@[simp] theorem State.setFace_folds (s : State) (f : Nat) (x : Face) : (s.setFace f x).folds = s.folds := rfl
@[simp] theorem State.setFace_lastRing (s : State) (f : Nat) (x : Face) : (s.setFace f x).lastRing = s.lastRing := rfl
@[simp] theorem State.setFace_admitted (s : State) (f : Nat) (x : Face) : (s.setFace f x).admitted = s.admitted := rfl
@[simp] theorem State.setFace_seats (s : State) (f : Nat) (x : Face) : (s.setFace f x).seats = s.seats := rfl
@[simp] theorem State.setFace_caches (s : State) (f : Nat) (x : Face) : (s.setFace f x).caches = s.caches := rfl
@[simp] theorem State.setFace_limbo (s : State) (f : Nat) (x : Face) : (s.setFace f x).limbo = s.limbo := rfl
@[simp] theorem State.setFace_cmpRest (s : State) (f : Nat) (x : Face) : (s.setFace f x).cmpRest = s.cmpRest := rfl
@[simp] theorem State.setFace_usedFrames (s : State) (f : Nat) (x : Face) : (s.setFace f x).usedFrames = s.usedFrames := rfl
@[simp] theorem State.setFace_usedStock (s : State) (f : Nat) (x : Face) : (s.setFace f x).usedStock = s.usedStock := rfl
@[simp] theorem State.setFace_irqs (s : State) (f : Nat) (x : Face) : (s.setFace f x).irqs = s.irqs := rfl
@[simp] theorem State.setFace_irqDone (s : State) (f : Nat) (x : Face) : (s.setFace f x).irqDone = s.irqDone := rfl
@[simp] theorem State.setFace_histIn (s : State) (f : Nat) (x : Face) : (s.setFace f x).histIn = s.histIn := rfl
@[simp] theorem State.setFace_prefixes (s : State) (f : Nat) (x : Face) : (s.setFace f x).prefixes = s.prefixes := rfl
@[simp] theorem State.setFace_slots (s : State) (f : Nat) (x : Face) : (s.setFace f x).slots = s.slots := rfl
@[simp] theorem State.setFace_headQ (s : State) (f : Nat) (x : Face) : (s.setFace f x).headQ = s.headQ := rfl
@[simp] theorem State.setFace_recs (s : State) (f : Nat) (x : Face) : (s.setFace f x).recs = s.recs := rfl
@[simp] theorem State.setFace_unitDown (s : State) (f : Nat) (x : Face) : (s.setFace f x).unitDown = s.unitDown := rfl
@[simp] theorem State.setFace_drecs (s : State) (f : Nat) (x : Face) : (s.setFace f x).drecs = s.drecs := rfl
@[simp] theorem State.setFace_grams (s : State) (f : Nat) (x : Face) : (s.setFace f x).grams = s.grams := rfl
@[simp] theorem State.setFace_nanRest (s : State) (f : Nat) (x : Face) : (s.setFace f x).nanRest = s.nanRest := rfl
@[simp] theorem State.setFace_modeReq (s : State) (f : Nat) (x : Face) : (s.setFace f x).modeReq = s.modeReq := rfl
@[simp] theorem State.setFace_reps (s : State) (f : Nat) (x : Face) : (s.setFace f x).reps = s.reps := rfl
@[simp] theorem State.setFace_missedFrom (s : State) (f : Nat) (x : Face) : (s.setFace f x).missedFrom = s.missedFrom := rfl
@[simp] theorem State.setFace_obeys (s : State) (f : Nat) (x : Face) : (s.setFace f x).obeys = s.obeys := rfl
@[simp] theorem State.setFace_claims (s : State) (f : Nat) (x : Face) : (s.setFace f x).claims = s.claims := rfl
@[simp] theorem State.setFace_acked (s : State) (f : Nat) (x : Face) : (s.setFace f x).acked = s.acked := rfl
@[simp] theorem State.setFace_decided (s : State) (f : Nat) (x : Face) : (s.setFace f x).decided = s.decided := rfl
@[simp] theorem State.setFace_announced (s : State) (f : Nat) (x : Face) : (s.setFace f x).announced = s.announced := rfl
@[simp] theorem State.setFace_annDue (s : State) (f : Nat) (x : Face) : (s.setFace f x).annDue = s.annDue := rfl
@[simp] theorem State.setFace_waitAck (s : State) (f : Nat) (x : Face) : (s.setFace f x).waitAck = s.waitAck := rfl
@[simp] theorem State.setFace_copyTo (s : State) (f : Nat) (x : Face) : (s.setFace f x).copyTo = s.copyTo := rfl
@[simp] theorem State.setFace_digestBad (s : State) (f : Nat) (x : Face) : (s.setFace f x).digestBad = s.digestBad := rfl
@[simp] theorem State.setFace_holds (s : State) (f : Nat) (x : Face) : (s.setFace f x).holds = s.holds := rfl
@[simp] theorem State.setFace_faultq (s : State) (f : Nat) (x : Face) : (s.setFace f x).faultq = s.faultq := rfl
@[simp] theorem State.setFace_hist (s : State) (f : Nat) (x : Face) : (s.setFace f x).hist = s.hist := rfl
@[simp] theorem State.setFace_logStop (s : State) (f : Nat) (x : Face) : (s.setFace f x).logStop = s.logStop := rfl
@[simp] theorem State.setFace_hostIrqAt (s : State) (f : Nat) (x : Face) : (s.setFace f x).hostIrqAt = s.hostIrqAt := rfl
@[simp] theorem State.setFace_injs (s : State) (f : Nat) (x : Face) : (s.setFace f x).injs = s.injs := rfl
@[simp] theorem State.setFace_injLive (s : State) (f : Nat) (x : Face) : (s.setFace f x).injLive = s.injLive := rfl
@[simp] theorem State.setFace_injOff (s : State) (f : Nat) (x : Face) : (s.setFace f x).injOff = s.injOff := rfl
@[simp] theorem State.setFace_deck (s : State) (f : Nat) (x : Face) : (s.setFace f x).deck = s.deck := rfl
@[simp] theorem State.setFace_deckWaits (s : State) (f : Nat) (x : Face) : (s.setFace f x).deckWaits = s.deckWaits := rfl
@[simp] theorem State.setFace_probeRest (s : State) (f : Nat) (x : Face) : (s.setFace f x).probeRest = s.probeRest := rfl
@[simp] theorem State.setFace_nvLog (s : State) (f : Nat) (x : Face) : (s.setFace f x).nvLog = s.nvLog := rfl
@[simp] theorem State.setFace_img (s : State) (f : Nat) (x : Face) : (s.setFace f x).img = s.img := rfl
@[simp] theorem State.setFace_discardWaits (s : State) (f : Nat) (x : Face) : (s.setFace f x).discardWaits = s.discardWaits := rfl
@[simp] theorem State.setFace_lastImg (s : State) (f : Nat) (x : Face) : (s.setFace f x).lastImg = s.lastImg := rfl
@[simp] theorem State.setFace_imgKeys (s : State) (f : Nat) (x : Face) : (s.setFace f x).imgKeys = s.imgKeys := rfl
@[simp] theorem State.setFace_lastVer (s : State) (f : Nat) (x : Face) : (s.setFace f x).lastVer = s.lastVer := rfl
@[simp] theorem State.setFace_put (s : State) (f : Nat) (x : Face) : (s.setFace f x).put = s.put := rfl
@[simp] theorem State.setFace_tallies (s : State) (f : Nat) (x : Face) : (s.setFace f x).tallies = s.tallies := rfl
@[simp] theorem State.setFace_power (s : State) (f : Nat) (x : Face) : (s.setFace f x).power = s.power := rfl
@[simp] theorem State.setFace_key (s : State) (f : Nat) (x : Face) : (s.setFace f x).key = s.key := rfl
@[simp] theorem State.setFace_mgmt (s : State) (f : Nat) (x : Face) : (s.setFace f x).mgmt = s.mgmt := rfl
@[simp] theorem State.setFace_hif (s : State) (f : Nat) (x : Face) : (s.setFace f x).hif = s.hif := rfl
@[simp] theorem State.setFace_dead (s : State) (f : Nat) (x : Face) : (s.setFace f x).dead = s.dead := rfl
@[simp] theorem State.setFace_coldHeld (s : State) (f : Nat) (x : Face) : (s.setFace f x).coldHeld = s.coldHeld := rfl
@[simp] theorem State.setFace_out (s : State) (f : Nat) (x : Face) : (s.setFace f x).out = s.out := rfl

/-! ### `modFace` -/

@[simp] theorem State.modFace_pending (s : State) (f : Nat) (g : Face → Face) : (s.modFace f g).pending = s.pending := rfl
@[simp] theorem State.modFace_now (s : State) (f : Nat) (g : Face → Face) : (s.modFace f g).now = s.now := rfl
@[simp] theorem State.modFace_freeCount (s : State) (f : Nat) (g : Face → Face) : (s.modFace f g).freeCount = s.freeCount := rfl
@[simp] theorem State.modFace_regs (s : State) (f : Nat) (g : Face → Face) : (s.modFace f g).regs = s.regs := rfl
@[simp] theorem State.modFace_arrays (s : State) (f : Nat) (g : Face → Face) : (s.modFace f g).arrays = s.arrays := rfl
@[simp] theorem State.modFace_writes (s : State) (f : Nat) (g : Face → Face) : (s.modFace f g).writes = s.writes := rfl
@[simp] theorem State.modFace_acts (s : State) (f : Nat) (g : Face → Face) : (s.modFace f g).acts = s.acts := rfl
@[simp] theorem State.modFace_monitors (s : State) (f : Nat) (g : Face → Face) : (s.modFace f g).monitors = s.monitors := rfl
@[simp] theorem State.modFace_cals (s : State) (f : Nat) (g : Face → Face) : (s.modFace f g).cals = s.cals := rfl
@[simp] theorem State.modFace_calOrder (s : State) (f : Nat) (g : Face → Face) : (s.modFace f g).calOrder = s.calOrder := rfl
@[simp] theorem State.modFace_tours (s : State) (f : Nat) (g : Face → Face) : (s.modFace f g).tours = s.tours := rfl
@[simp] theorem State.modFace_tourAt (s : State) (f : Nat) (g : Face → Face) : (s.modFace f g).tourAt = s.tourAt := rfl
@[simp] theorem State.modFace_dupRest (s : State) (f : Nat) (g : Face → Face) : (s.modFace f g).dupRest = s.dupRest := rfl
@[simp] theorem State.modFace_fineChecks (s : State) (f : Nat) (g : Face → Face) : (s.modFace f g).fineChecks = s.fineChecks := rfl
@[simp] theorem State.modFace_hand (s : State) (f : Nat) (g : Face → Face) : (s.modFace f g).hand = s.hand := rfl
@[simp] theorem State.modFace_opId (s : State) (f : Nat) (g : Face → Face) : (s.modFace f g).opId = s.opId := rfl
@[simp] theorem State.modFace_sigrs (s : State) (f : Nat) (g : Face → Face) : (s.modFace f g).sigrs = s.sigrs := rfl
@[simp] theorem State.modFace_commits (s : State) (f : Nat) (g : Face → Face) : (s.modFace f g).commits = s.commits := rfl
@[simp] theorem State.modFace_aborts (s : State) (f : Nat) (g : Face → Face) : (s.modFace f g).aborts = s.aborts := rfl
@[simp] theorem State.modFace_partials (s : State) (f : Nat) (g : Face → Face) : (s.modFace f g).partials = s.partials := rfl
@[simp] theorem State.modFace_seqs (s : State) (f : Nat) (g : Face → Face) : (s.modFace f g).seqs = s.seqs := rfl
@[simp] theorem State.modFace_hbm (s : State) (f : Nat) (g : Face → Face) : (s.modFace f g).hbm = s.hbm := rfl
@[simp] theorem State.modFace_hbmMeta (s : State) (f : Nat) (g : Face → Face) : (s.modFace f g).hbmMeta = s.hbmMeta := rfl
@[simp] theorem State.modFace_keyGen (s : State) (f : Nat) (g : Face → Face) : (s.modFace f g).keyGen = s.keyGen := rfl
@[simp] theorem State.modFace_ring (s : State) (f : Nat) (g : Face → Face) : (s.modFace f g).ring = s.ring := rfl
@[simp] theorem State.modFace_ringLost (s : State) (f : Nat) (g : Face → Face) : (s.modFace f g).ringLost = s.ringLost := rfl
@[simp] theorem State.modFace_mesh (s : State) (f : Nat) (g : Face → Face) : (s.modFace f g).mesh = s.mesh := rfl
@[simp] theorem State.modFace_plays (s : State) (f : Nat) (g : Face → Face) : (s.modFace f g).plays = s.plays := rfl
@[simp] theorem State.modFace_dtricks (s : State) (f : Nat) (g : Face → Face) : (s.modFace f g).dtricks = s.dtricks := rfl
@[simp] theorem State.modFace_trickReq (s : State) (f : Nat) (g : Face → Face) : (s.modFace f g).trickReq = s.trickReq := rfl
@[simp] theorem State.modFace_dtrickReq (s : State) (f : Nat) (g : Face → Face) : (s.modFace f g).dtrickReq = s.dtrickReq := rfl
@[simp] theorem State.modFace_txq (s : State) (f : Nat) (g : Face → Face) : (s.modFace f g).txq = s.txq := rfl
@[simp] theorem State.modFace_ports (s : State) (f : Nat) (g : Face → Face) : (s.modFace f g).ports = s.ports := rfl
@[simp] theorem State.modFace_timeGood (s : State) (f : Nat) (g : Face → Face) : (s.modFace f g).timeGood = s.timeGood := rfl
@[simp] theorem State.modFace_timeLast (s : State) (f : Nat) (g : Face → Face) : (s.modFace f g).timeLast = s.timeLast := rfl
@[simp] theorem State.modFace_bypOpen (s : State) (f : Nat) (g : Face → Face) : (s.modFace f g).bypOpen = s.bypOpen := rfl
@[simp] theorem State.modFace_vaonLow (s : State) (f : Nat) (g : Face → Face) : (s.modFace f g).vaonLow = s.vaonLow := rfl
@[simp] theorem State.modFace_place (s : State) (f : Nat) (g : Face → Face) : (s.modFace f g).place = s.place := rfl
@[simp] theorem State.modFace_manifest (s : State) (f : Nat) (g : Face → Face) : (s.modFace f g).manifest = s.manifest := rfl
@[simp] theorem State.modFace_seatMax (s : State) (f : Nat) (g : Face → Face) : (s.modFace f g).seatMax = s.seatMax := rfl
@[simp] theorem State.modFace_rings (s : State) (f : Nat) (g : Face → Face) : (s.modFace f g).rings = s.rings := rfl
@[simp] theorem State.modFace_antes (s : State) (f : Nat) (g : Face → Face) : (s.modFace f g).antes = s.antes := rfl
@[simp] theorem State.modFace_folds (s : State) (f : Nat) (g : Face → Face) : (s.modFace f g).folds = s.folds := rfl
@[simp] theorem State.modFace_lastRing (s : State) (f : Nat) (g : Face → Face) : (s.modFace f g).lastRing = s.lastRing := rfl
@[simp] theorem State.modFace_admitted (s : State) (f : Nat) (g : Face → Face) : (s.modFace f g).admitted = s.admitted := rfl
@[simp] theorem State.modFace_seats (s : State) (f : Nat) (g : Face → Face) : (s.modFace f g).seats = s.seats := rfl
@[simp] theorem State.modFace_caches (s : State) (f : Nat) (g : Face → Face) : (s.modFace f g).caches = s.caches := rfl
@[simp] theorem State.modFace_limbo (s : State) (f : Nat) (g : Face → Face) : (s.modFace f g).limbo = s.limbo := rfl
@[simp] theorem State.modFace_cmpRest (s : State) (f : Nat) (g : Face → Face) : (s.modFace f g).cmpRest = s.cmpRest := rfl
@[simp] theorem State.modFace_usedFrames (s : State) (f : Nat) (g : Face → Face) : (s.modFace f g).usedFrames = s.usedFrames := rfl
@[simp] theorem State.modFace_usedStock (s : State) (f : Nat) (g : Face → Face) : (s.modFace f g).usedStock = s.usedStock := rfl
@[simp] theorem State.modFace_irqs (s : State) (f : Nat) (g : Face → Face) : (s.modFace f g).irqs = s.irqs := rfl
@[simp] theorem State.modFace_irqDone (s : State) (f : Nat) (g : Face → Face) : (s.modFace f g).irqDone = s.irqDone := rfl
@[simp] theorem State.modFace_histIn (s : State) (f : Nat) (g : Face → Face) : (s.modFace f g).histIn = s.histIn := rfl
@[simp] theorem State.modFace_prefixes (s : State) (f : Nat) (g : Face → Face) : (s.modFace f g).prefixes = s.prefixes := rfl
@[simp] theorem State.modFace_slots (s : State) (f : Nat) (g : Face → Face) : (s.modFace f g).slots = s.slots := rfl
@[simp] theorem State.modFace_headQ (s : State) (f : Nat) (g : Face → Face) : (s.modFace f g).headQ = s.headQ := rfl
@[simp] theorem State.modFace_recs (s : State) (f : Nat) (g : Face → Face) : (s.modFace f g).recs = s.recs := rfl
@[simp] theorem State.modFace_unitDown (s : State) (f : Nat) (g : Face → Face) : (s.modFace f g).unitDown = s.unitDown := rfl
@[simp] theorem State.modFace_drecs (s : State) (f : Nat) (g : Face → Face) : (s.modFace f g).drecs = s.drecs := rfl
@[simp] theorem State.modFace_grams (s : State) (f : Nat) (g : Face → Face) : (s.modFace f g).grams = s.grams := rfl
@[simp] theorem State.modFace_nanRest (s : State) (f : Nat) (g : Face → Face) : (s.modFace f g).nanRest = s.nanRest := rfl
@[simp] theorem State.modFace_modeReq (s : State) (f : Nat) (g : Face → Face) : (s.modFace f g).modeReq = s.modeReq := rfl
@[simp] theorem State.modFace_reps (s : State) (f : Nat) (g : Face → Face) : (s.modFace f g).reps = s.reps := rfl
@[simp] theorem State.modFace_missedFrom (s : State) (f : Nat) (g : Face → Face) : (s.modFace f g).missedFrom = s.missedFrom := rfl
@[simp] theorem State.modFace_obeys (s : State) (f : Nat) (g : Face → Face) : (s.modFace f g).obeys = s.obeys := rfl
@[simp] theorem State.modFace_claims (s : State) (f : Nat) (g : Face → Face) : (s.modFace f g).claims = s.claims := rfl
@[simp] theorem State.modFace_acked (s : State) (f : Nat) (g : Face → Face) : (s.modFace f g).acked = s.acked := rfl
@[simp] theorem State.modFace_decided (s : State) (f : Nat) (g : Face → Face) : (s.modFace f g).decided = s.decided := rfl
@[simp] theorem State.modFace_announced (s : State) (f : Nat) (g : Face → Face) : (s.modFace f g).announced = s.announced := rfl
@[simp] theorem State.modFace_annDue (s : State) (f : Nat) (g : Face → Face) : (s.modFace f g).annDue = s.annDue := rfl
@[simp] theorem State.modFace_waitAck (s : State) (f : Nat) (g : Face → Face) : (s.modFace f g).waitAck = s.waitAck := rfl
@[simp] theorem State.modFace_copyTo (s : State) (f : Nat) (g : Face → Face) : (s.modFace f g).copyTo = s.copyTo := rfl
@[simp] theorem State.modFace_digestBad (s : State) (f : Nat) (g : Face → Face) : (s.modFace f g).digestBad = s.digestBad := rfl
@[simp] theorem State.modFace_holds (s : State) (f : Nat) (g : Face → Face) : (s.modFace f g).holds = s.holds := rfl
@[simp] theorem State.modFace_faultq (s : State) (f : Nat) (g : Face → Face) : (s.modFace f g).faultq = s.faultq := rfl
@[simp] theorem State.modFace_hist (s : State) (f : Nat) (g : Face → Face) : (s.modFace f g).hist = s.hist := rfl
@[simp] theorem State.modFace_logStop (s : State) (f : Nat) (g : Face → Face) : (s.modFace f g).logStop = s.logStop := rfl
@[simp] theorem State.modFace_hostIrqAt (s : State) (f : Nat) (g : Face → Face) : (s.modFace f g).hostIrqAt = s.hostIrqAt := rfl
@[simp] theorem State.modFace_injs (s : State) (f : Nat) (g : Face → Face) : (s.modFace f g).injs = s.injs := rfl
@[simp] theorem State.modFace_injLive (s : State) (f : Nat) (g : Face → Face) : (s.modFace f g).injLive = s.injLive := rfl
@[simp] theorem State.modFace_injOff (s : State) (f : Nat) (g : Face → Face) : (s.modFace f g).injOff = s.injOff := rfl
@[simp] theorem State.modFace_deck (s : State) (f : Nat) (g : Face → Face) : (s.modFace f g).deck = s.deck := rfl
@[simp] theorem State.modFace_deckWaits (s : State) (f : Nat) (g : Face → Face) : (s.modFace f g).deckWaits = s.deckWaits := rfl
@[simp] theorem State.modFace_probeRest (s : State) (f : Nat) (g : Face → Face) : (s.modFace f g).probeRest = s.probeRest := rfl
@[simp] theorem State.modFace_nvLog (s : State) (f : Nat) (g : Face → Face) : (s.modFace f g).nvLog = s.nvLog := rfl
@[simp] theorem State.modFace_img (s : State) (f : Nat) (g : Face → Face) : (s.modFace f g).img = s.img := rfl
@[simp] theorem State.modFace_discardWaits (s : State) (f : Nat) (g : Face → Face) : (s.modFace f g).discardWaits = s.discardWaits := rfl
@[simp] theorem State.modFace_lastImg (s : State) (f : Nat) (g : Face → Face) : (s.modFace f g).lastImg = s.lastImg := rfl
@[simp] theorem State.modFace_imgKeys (s : State) (f : Nat) (g : Face → Face) : (s.modFace f g).imgKeys = s.imgKeys := rfl
@[simp] theorem State.modFace_lastVer (s : State) (f : Nat) (g : Face → Face) : (s.modFace f g).lastVer = s.lastVer := rfl
@[simp] theorem State.modFace_put (s : State) (f : Nat) (g : Face → Face) : (s.modFace f g).put = s.put := rfl
@[simp] theorem State.modFace_tallies (s : State) (f : Nat) (g : Face → Face) : (s.modFace f g).tallies = s.tallies := rfl
@[simp] theorem State.modFace_power (s : State) (f : Nat) (g : Face → Face) : (s.modFace f g).power = s.power := rfl
@[simp] theorem State.modFace_key (s : State) (f : Nat) (g : Face → Face) : (s.modFace f g).key = s.key := rfl
@[simp] theorem State.modFace_mgmt (s : State) (f : Nat) (g : Face → Face) : (s.modFace f g).mgmt = s.mgmt := rfl
@[simp] theorem State.modFace_hif (s : State) (f : Nat) (g : Face → Face) : (s.modFace f g).hif = s.hif := rfl
@[simp] theorem State.modFace_dead (s : State) (f : Nat) (g : Face → Face) : (s.modFace f g).dead = s.dead := rfl
@[simp] theorem State.modFace_coldHeld (s : State) (f : Nat) (g : Face → Face) : (s.modFace f g).coldHeld = s.coldHeld := rfl
@[simp] theorem State.modFace_out (s : State) (f : Nat) (g : Face → Face) : (s.modFace f g).out = s.out := rfl

/-! ### `setGran` -/

@[simp] theorem State.setGran_pending (s : State) (g : Nat) (x : Gran) : (s.setGran g x).pending = s.pending := rfl
@[simp] theorem State.setGran_now (s : State) (g : Nat) (x : Gran) : (s.setGran g x).now = s.now := rfl
@[simp] theorem State.setGran_freeCount (s : State) (g : Nat) (x : Gran) : (s.setGran g x).freeCount = s.freeCount := rfl
@[simp] theorem State.setGran_regs (s : State) (g : Nat) (x : Gran) : (s.setGran g x).regs = s.regs := rfl
@[simp] theorem State.setGran_faces (s : State) (g : Nat) (x : Gran) : (s.setGran g x).faces = s.faces := rfl
@[simp] theorem State.setGran_arrays (s : State) (g : Nat) (x : Gran) : (s.setGran g x).arrays = s.arrays := rfl
@[simp] theorem State.setGran_writes (s : State) (g : Nat) (x : Gran) : (s.setGran g x).writes = s.writes := rfl
@[simp] theorem State.setGran_acts (s : State) (g : Nat) (x : Gran) : (s.setGran g x).acts = s.acts := rfl
@[simp] theorem State.setGran_monitors (s : State) (g : Nat) (x : Gran) : (s.setGran g x).monitors = s.monitors := rfl
@[simp] theorem State.setGran_cals (s : State) (g : Nat) (x : Gran) : (s.setGran g x).cals = s.cals := rfl
@[simp] theorem State.setGran_calOrder (s : State) (g : Nat) (x : Gran) : (s.setGran g x).calOrder = s.calOrder := rfl
@[simp] theorem State.setGran_tours (s : State) (g : Nat) (x : Gran) : (s.setGran g x).tours = s.tours := rfl
@[simp] theorem State.setGran_tourAt (s : State) (g : Nat) (x : Gran) : (s.setGran g x).tourAt = s.tourAt := rfl
@[simp] theorem State.setGran_dupRest (s : State) (g : Nat) (x : Gran) : (s.setGran g x).dupRest = s.dupRest := rfl
@[simp] theorem State.setGran_fineChecks (s : State) (g : Nat) (x : Gran) : (s.setGran g x).fineChecks = s.fineChecks := rfl
@[simp] theorem State.setGran_hand (s : State) (g : Nat) (x : Gran) : (s.setGran g x).hand = s.hand := rfl
@[simp] theorem State.setGran_opId (s : State) (g : Nat) (x : Gran) : (s.setGran g x).opId = s.opId := rfl
@[simp] theorem State.setGran_sigrs (s : State) (g : Nat) (x : Gran) : (s.setGran g x).sigrs = s.sigrs := rfl
@[simp] theorem State.setGran_commits (s : State) (g : Nat) (x : Gran) : (s.setGran g x).commits = s.commits := rfl
@[simp] theorem State.setGran_aborts (s : State) (g : Nat) (x : Gran) : (s.setGran g x).aborts = s.aborts := rfl
@[simp] theorem State.setGran_partials (s : State) (g : Nat) (x : Gran) : (s.setGran g x).partials = s.partials := rfl
@[simp] theorem State.setGran_seqs (s : State) (g : Nat) (x : Gran) : (s.setGran g x).seqs = s.seqs := rfl
@[simp] theorem State.setGran_hbmMeta (s : State) (g : Nat) (x : Gran) : (s.setGran g x).hbmMeta = s.hbmMeta := rfl
@[simp] theorem State.setGran_keyGen (s : State) (g : Nat) (x : Gran) : (s.setGran g x).keyGen = s.keyGen := rfl
@[simp] theorem State.setGran_ring (s : State) (g : Nat) (x : Gran) : (s.setGran g x).ring = s.ring := rfl
@[simp] theorem State.setGran_ringLost (s : State) (g : Nat) (x : Gran) : (s.setGran g x).ringLost = s.ringLost := rfl
@[simp] theorem State.setGran_mesh (s : State) (g : Nat) (x : Gran) : (s.setGran g x).mesh = s.mesh := rfl
@[simp] theorem State.setGran_plays (s : State) (g : Nat) (x : Gran) : (s.setGran g x).plays = s.plays := rfl
@[simp] theorem State.setGran_dtricks (s : State) (g : Nat) (x : Gran) : (s.setGran g x).dtricks = s.dtricks := rfl
@[simp] theorem State.setGran_trickReq (s : State) (g : Nat) (x : Gran) : (s.setGran g x).trickReq = s.trickReq := rfl
@[simp] theorem State.setGran_dtrickReq (s : State) (g : Nat) (x : Gran) : (s.setGran g x).dtrickReq = s.dtrickReq := rfl
@[simp] theorem State.setGran_txq (s : State) (g : Nat) (x : Gran) : (s.setGran g x).txq = s.txq := rfl
@[simp] theorem State.setGran_ports (s : State) (g : Nat) (x : Gran) : (s.setGran g x).ports = s.ports := rfl
@[simp] theorem State.setGran_timeGood (s : State) (g : Nat) (x : Gran) : (s.setGran g x).timeGood = s.timeGood := rfl
@[simp] theorem State.setGran_timeLast (s : State) (g : Nat) (x : Gran) : (s.setGran g x).timeLast = s.timeLast := rfl
@[simp] theorem State.setGran_bypOpen (s : State) (g : Nat) (x : Gran) : (s.setGran g x).bypOpen = s.bypOpen := rfl
@[simp] theorem State.setGran_vaonLow (s : State) (g : Nat) (x : Gran) : (s.setGran g x).vaonLow = s.vaonLow := rfl
@[simp] theorem State.setGran_place (s : State) (g : Nat) (x : Gran) : (s.setGran g x).place = s.place := rfl
@[simp] theorem State.setGran_manifest (s : State) (g : Nat) (x : Gran) : (s.setGran g x).manifest = s.manifest := rfl
@[simp] theorem State.setGran_seatMax (s : State) (g : Nat) (x : Gran) : (s.setGran g x).seatMax = s.seatMax := rfl
@[simp] theorem State.setGran_rings (s : State) (g : Nat) (x : Gran) : (s.setGran g x).rings = s.rings := rfl
@[simp] theorem State.setGran_antes (s : State) (g : Nat) (x : Gran) : (s.setGran g x).antes = s.antes := rfl
@[simp] theorem State.setGran_folds (s : State) (g : Nat) (x : Gran) : (s.setGran g x).folds = s.folds := rfl
@[simp] theorem State.setGran_lastRing (s : State) (g : Nat) (x : Gran) : (s.setGran g x).lastRing = s.lastRing := rfl
@[simp] theorem State.setGran_admitted (s : State) (g : Nat) (x : Gran) : (s.setGran g x).admitted = s.admitted := rfl
@[simp] theorem State.setGran_seats (s : State) (g : Nat) (x : Gran) : (s.setGran g x).seats = s.seats := rfl
@[simp] theorem State.setGran_caches (s : State) (g : Nat) (x : Gran) : (s.setGran g x).caches = s.caches := rfl
@[simp] theorem State.setGran_limbo (s : State) (g : Nat) (x : Gran) : (s.setGran g x).limbo = s.limbo := rfl
@[simp] theorem State.setGran_cmpRest (s : State) (g : Nat) (x : Gran) : (s.setGran g x).cmpRest = s.cmpRest := rfl
@[simp] theorem State.setGran_usedFrames (s : State) (g : Nat) (x : Gran) : (s.setGran g x).usedFrames = s.usedFrames := rfl
@[simp] theorem State.setGran_usedStock (s : State) (g : Nat) (x : Gran) : (s.setGran g x).usedStock = s.usedStock := rfl
@[simp] theorem State.setGran_irqs (s : State) (g : Nat) (x : Gran) : (s.setGran g x).irqs = s.irqs := rfl
@[simp] theorem State.setGran_irqDone (s : State) (g : Nat) (x : Gran) : (s.setGran g x).irqDone = s.irqDone := rfl
@[simp] theorem State.setGran_histIn (s : State) (g : Nat) (x : Gran) : (s.setGran g x).histIn = s.histIn := rfl
@[simp] theorem State.setGran_prefixes (s : State) (g : Nat) (x : Gran) : (s.setGran g x).prefixes = s.prefixes := rfl
@[simp] theorem State.setGran_slots (s : State) (g : Nat) (x : Gran) : (s.setGran g x).slots = s.slots := rfl
@[simp] theorem State.setGran_headQ (s : State) (g : Nat) (x : Gran) : (s.setGran g x).headQ = s.headQ := rfl
@[simp] theorem State.setGran_recs (s : State) (g : Nat) (x : Gran) : (s.setGran g x).recs = s.recs := rfl
@[simp] theorem State.setGran_unitDown (s : State) (g : Nat) (x : Gran) : (s.setGran g x).unitDown = s.unitDown := rfl
@[simp] theorem State.setGran_drecs (s : State) (g : Nat) (x : Gran) : (s.setGran g x).drecs = s.drecs := rfl
@[simp] theorem State.setGran_grams (s : State) (g : Nat) (x : Gran) : (s.setGran g x).grams = s.grams := rfl
@[simp] theorem State.setGran_nanRest (s : State) (g : Nat) (x : Gran) : (s.setGran g x).nanRest = s.nanRest := rfl
@[simp] theorem State.setGran_modeReq (s : State) (g : Nat) (x : Gran) : (s.setGran g x).modeReq = s.modeReq := rfl
@[simp] theorem State.setGran_reps (s : State) (g : Nat) (x : Gran) : (s.setGran g x).reps = s.reps := rfl
@[simp] theorem State.setGran_missedFrom (s : State) (g : Nat) (x : Gran) : (s.setGran g x).missedFrom = s.missedFrom := rfl
@[simp] theorem State.setGran_obeys (s : State) (g : Nat) (x : Gran) : (s.setGran g x).obeys = s.obeys := rfl
@[simp] theorem State.setGran_claims (s : State) (g : Nat) (x : Gran) : (s.setGran g x).claims = s.claims := rfl
@[simp] theorem State.setGran_acked (s : State) (g : Nat) (x : Gran) : (s.setGran g x).acked = s.acked := rfl
@[simp] theorem State.setGran_decided (s : State) (g : Nat) (x : Gran) : (s.setGran g x).decided = s.decided := rfl
@[simp] theorem State.setGran_announced (s : State) (g : Nat) (x : Gran) : (s.setGran g x).announced = s.announced := rfl
@[simp] theorem State.setGran_annDue (s : State) (g : Nat) (x : Gran) : (s.setGran g x).annDue = s.annDue := rfl
@[simp] theorem State.setGran_waitAck (s : State) (g : Nat) (x : Gran) : (s.setGran g x).waitAck = s.waitAck := rfl
@[simp] theorem State.setGran_copyTo (s : State) (g : Nat) (x : Gran) : (s.setGran g x).copyTo = s.copyTo := rfl
@[simp] theorem State.setGran_digestBad (s : State) (g : Nat) (x : Gran) : (s.setGran g x).digestBad = s.digestBad := rfl
@[simp] theorem State.setGran_holds (s : State) (g : Nat) (x : Gran) : (s.setGran g x).holds = s.holds := rfl
@[simp] theorem State.setGran_faultq (s : State) (g : Nat) (x : Gran) : (s.setGran g x).faultq = s.faultq := rfl
@[simp] theorem State.setGran_hist (s : State) (g : Nat) (x : Gran) : (s.setGran g x).hist = s.hist := rfl
@[simp] theorem State.setGran_logStop (s : State) (g : Nat) (x : Gran) : (s.setGran g x).logStop = s.logStop := rfl
@[simp] theorem State.setGran_hostIrqAt (s : State) (g : Nat) (x : Gran) : (s.setGran g x).hostIrqAt = s.hostIrqAt := rfl
@[simp] theorem State.setGran_injs (s : State) (g : Nat) (x : Gran) : (s.setGran g x).injs = s.injs := rfl
@[simp] theorem State.setGran_injLive (s : State) (g : Nat) (x : Gran) : (s.setGran g x).injLive = s.injLive := rfl
@[simp] theorem State.setGran_injOff (s : State) (g : Nat) (x : Gran) : (s.setGran g x).injOff = s.injOff := rfl
@[simp] theorem State.setGran_deck (s : State) (g : Nat) (x : Gran) : (s.setGran g x).deck = s.deck := rfl
@[simp] theorem State.setGran_deckWaits (s : State) (g : Nat) (x : Gran) : (s.setGran g x).deckWaits = s.deckWaits := rfl
@[simp] theorem State.setGran_probeRest (s : State) (g : Nat) (x : Gran) : (s.setGran g x).probeRest = s.probeRest := rfl
@[simp] theorem State.setGran_nvLog (s : State) (g : Nat) (x : Gran) : (s.setGran g x).nvLog = s.nvLog := rfl
@[simp] theorem State.setGran_img (s : State) (g : Nat) (x : Gran) : (s.setGran g x).img = s.img := rfl
@[simp] theorem State.setGran_discardWaits (s : State) (g : Nat) (x : Gran) : (s.setGran g x).discardWaits = s.discardWaits := rfl
@[simp] theorem State.setGran_lastImg (s : State) (g : Nat) (x : Gran) : (s.setGran g x).lastImg = s.lastImg := rfl
@[simp] theorem State.setGran_imgKeys (s : State) (g : Nat) (x : Gran) : (s.setGran g x).imgKeys = s.imgKeys := rfl
@[simp] theorem State.setGran_lastVer (s : State) (g : Nat) (x : Gran) : (s.setGran g x).lastVer = s.lastVer := rfl
@[simp] theorem State.setGran_put (s : State) (g : Nat) (x : Gran) : (s.setGran g x).put = s.put := rfl
@[simp] theorem State.setGran_tallies (s : State) (g : Nat) (x : Gran) : (s.setGran g x).tallies = s.tallies := rfl
@[simp] theorem State.setGran_power (s : State) (g : Nat) (x : Gran) : (s.setGran g x).power = s.power := rfl
@[simp] theorem State.setGran_key (s : State) (g : Nat) (x : Gran) : (s.setGran g x).key = s.key := rfl
@[simp] theorem State.setGran_mgmt (s : State) (g : Nat) (x : Gran) : (s.setGran g x).mgmt = s.mgmt := rfl
@[simp] theorem State.setGran_hif (s : State) (g : Nat) (x : Gran) : (s.setGran g x).hif = s.hif := rfl
@[simp] theorem State.setGran_dead (s : State) (g : Nat) (x : Gran) : (s.setGran g x).dead = s.dead := rfl
@[simp] theorem State.setGran_coldHeld (s : State) (g : Nat) (x : Gran) : (s.setGran g x).coldHeld = s.coldHeld := rfl
@[simp] theorem State.setGran_out (s : State) (g : Nat) (x : Gran) : (s.setGran g x).out = s.out := rfl

/-! ### `emit` -/

@[simp] theorem State.emit_pending (s : State) (o : Out) : (s.emit o).pending = s.pending := rfl
@[simp] theorem State.emit_now (s : State) (o : Out) : (s.emit o).now = s.now := rfl
@[simp] theorem State.emit_freeCount (s : State) (o : Out) : (s.emit o).freeCount = s.freeCount := rfl
@[simp] theorem State.emit_regs (s : State) (o : Out) : (s.emit o).regs = s.regs := rfl
@[simp] theorem State.emit_faces (s : State) (o : Out) : (s.emit o).faces = s.faces := rfl
@[simp] theorem State.emit_arrays (s : State) (o : Out) : (s.emit o).arrays = s.arrays := rfl
@[simp] theorem State.emit_writes (s : State) (o : Out) : (s.emit o).writes = s.writes := rfl
@[simp] theorem State.emit_acts (s : State) (o : Out) : (s.emit o).acts = s.acts := rfl
@[simp] theorem State.emit_monitors (s : State) (o : Out) : (s.emit o).monitors = s.monitors := rfl
@[simp] theorem State.emit_cals (s : State) (o : Out) : (s.emit o).cals = s.cals := rfl
@[simp] theorem State.emit_calOrder (s : State) (o : Out) : (s.emit o).calOrder = s.calOrder := rfl
@[simp] theorem State.emit_tours (s : State) (o : Out) : (s.emit o).tours = s.tours := rfl
@[simp] theorem State.emit_tourAt (s : State) (o : Out) : (s.emit o).tourAt = s.tourAt := rfl
@[simp] theorem State.emit_dupRest (s : State) (o : Out) : (s.emit o).dupRest = s.dupRest := rfl
@[simp] theorem State.emit_fineChecks (s : State) (o : Out) : (s.emit o).fineChecks = s.fineChecks := rfl
@[simp] theorem State.emit_hand (s : State) (o : Out) : (s.emit o).hand = s.hand := rfl
@[simp] theorem State.emit_opId (s : State) (o : Out) : (s.emit o).opId = s.opId := rfl
@[simp] theorem State.emit_sigrs (s : State) (o : Out) : (s.emit o).sigrs = s.sigrs := rfl
@[simp] theorem State.emit_commits (s : State) (o : Out) : (s.emit o).commits = s.commits := rfl
@[simp] theorem State.emit_aborts (s : State) (o : Out) : (s.emit o).aborts = s.aborts := rfl
@[simp] theorem State.emit_partials (s : State) (o : Out) : (s.emit o).partials = s.partials := rfl
@[simp] theorem State.emit_seqs (s : State) (o : Out) : (s.emit o).seqs = s.seqs := rfl
@[simp] theorem State.emit_hbm (s : State) (o : Out) : (s.emit o).hbm = s.hbm := rfl
@[simp] theorem State.emit_hbmMeta (s : State) (o : Out) : (s.emit o).hbmMeta = s.hbmMeta := rfl
@[simp] theorem State.emit_keyGen (s : State) (o : Out) : (s.emit o).keyGen = s.keyGen := rfl
@[simp] theorem State.emit_ring (s : State) (o : Out) : (s.emit o).ring = s.ring := rfl
@[simp] theorem State.emit_ringLost (s : State) (o : Out) : (s.emit o).ringLost = s.ringLost := rfl
@[simp] theorem State.emit_mesh (s : State) (o : Out) : (s.emit o).mesh = s.mesh := rfl
@[simp] theorem State.emit_plays (s : State) (o : Out) : (s.emit o).plays = s.plays := rfl
@[simp] theorem State.emit_dtricks (s : State) (o : Out) : (s.emit o).dtricks = s.dtricks := rfl
@[simp] theorem State.emit_trickReq (s : State) (o : Out) : (s.emit o).trickReq = s.trickReq := rfl
@[simp] theorem State.emit_dtrickReq (s : State) (o : Out) : (s.emit o).dtrickReq = s.dtrickReq := rfl
@[simp] theorem State.emit_txq (s : State) (o : Out) : (s.emit o).txq = s.txq := rfl
@[simp] theorem State.emit_ports (s : State) (o : Out) : (s.emit o).ports = s.ports := rfl
@[simp] theorem State.emit_timeGood (s : State) (o : Out) : (s.emit o).timeGood = s.timeGood := rfl
@[simp] theorem State.emit_timeLast (s : State) (o : Out) : (s.emit o).timeLast = s.timeLast := rfl
@[simp] theorem State.emit_bypOpen (s : State) (o : Out) : (s.emit o).bypOpen = s.bypOpen := rfl
@[simp] theorem State.emit_vaonLow (s : State) (o : Out) : (s.emit o).vaonLow = s.vaonLow := rfl
@[simp] theorem State.emit_place (s : State) (o : Out) : (s.emit o).place = s.place := rfl
@[simp] theorem State.emit_manifest (s : State) (o : Out) : (s.emit o).manifest = s.manifest := rfl
@[simp] theorem State.emit_seatMax (s : State) (o : Out) : (s.emit o).seatMax = s.seatMax := rfl
@[simp] theorem State.emit_rings (s : State) (o : Out) : (s.emit o).rings = s.rings := rfl
@[simp] theorem State.emit_antes (s : State) (o : Out) : (s.emit o).antes = s.antes := rfl
@[simp] theorem State.emit_folds (s : State) (o : Out) : (s.emit o).folds = s.folds := rfl
@[simp] theorem State.emit_lastRing (s : State) (o : Out) : (s.emit o).lastRing = s.lastRing := rfl
@[simp] theorem State.emit_admitted (s : State) (o : Out) : (s.emit o).admitted = s.admitted := rfl
@[simp] theorem State.emit_seats (s : State) (o : Out) : (s.emit o).seats = s.seats := rfl
@[simp] theorem State.emit_caches (s : State) (o : Out) : (s.emit o).caches = s.caches := rfl
@[simp] theorem State.emit_limbo (s : State) (o : Out) : (s.emit o).limbo = s.limbo := rfl
@[simp] theorem State.emit_cmpRest (s : State) (o : Out) : (s.emit o).cmpRest = s.cmpRest := rfl
@[simp] theorem State.emit_usedFrames (s : State) (o : Out) : (s.emit o).usedFrames = s.usedFrames := rfl
@[simp] theorem State.emit_usedStock (s : State) (o : Out) : (s.emit o).usedStock = s.usedStock := rfl
@[simp] theorem State.emit_irqs (s : State) (o : Out) : (s.emit o).irqs = s.irqs := rfl
@[simp] theorem State.emit_irqDone (s : State) (o : Out) : (s.emit o).irqDone = s.irqDone := rfl
@[simp] theorem State.emit_histIn (s : State) (o : Out) : (s.emit o).histIn = s.histIn := rfl
@[simp] theorem State.emit_prefixes (s : State) (o : Out) : (s.emit o).prefixes = s.prefixes := rfl
@[simp] theorem State.emit_slots (s : State) (o : Out) : (s.emit o).slots = s.slots := rfl
@[simp] theorem State.emit_headQ (s : State) (o : Out) : (s.emit o).headQ = s.headQ := rfl
@[simp] theorem State.emit_recs (s : State) (o : Out) : (s.emit o).recs = s.recs := rfl
@[simp] theorem State.emit_unitDown (s : State) (o : Out) : (s.emit o).unitDown = s.unitDown := rfl
@[simp] theorem State.emit_drecs (s : State) (o : Out) : (s.emit o).drecs = s.drecs := rfl
@[simp] theorem State.emit_grams (s : State) (o : Out) : (s.emit o).grams = s.grams := rfl
@[simp] theorem State.emit_nanRest (s : State) (o : Out) : (s.emit o).nanRest = s.nanRest := rfl
@[simp] theorem State.emit_modeReq (s : State) (o : Out) : (s.emit o).modeReq = s.modeReq := rfl
@[simp] theorem State.emit_reps (s : State) (o : Out) : (s.emit o).reps = s.reps := rfl
@[simp] theorem State.emit_missedFrom (s : State) (o : Out) : (s.emit o).missedFrom = s.missedFrom := rfl
@[simp] theorem State.emit_obeys (s : State) (o : Out) : (s.emit o).obeys = s.obeys := rfl
@[simp] theorem State.emit_claims (s : State) (o : Out) : (s.emit o).claims = s.claims := rfl
@[simp] theorem State.emit_acked (s : State) (o : Out) : (s.emit o).acked = s.acked := rfl
@[simp] theorem State.emit_decided (s : State) (o : Out) : (s.emit o).decided = s.decided := rfl
@[simp] theorem State.emit_announced (s : State) (o : Out) : (s.emit o).announced = s.announced := rfl
@[simp] theorem State.emit_annDue (s : State) (o : Out) : (s.emit o).annDue = s.annDue := rfl
@[simp] theorem State.emit_waitAck (s : State) (o : Out) : (s.emit o).waitAck = s.waitAck := rfl
@[simp] theorem State.emit_copyTo (s : State) (o : Out) : (s.emit o).copyTo = s.copyTo := rfl
@[simp] theorem State.emit_digestBad (s : State) (o : Out) : (s.emit o).digestBad = s.digestBad := rfl
@[simp] theorem State.emit_holds (s : State) (o : Out) : (s.emit o).holds = s.holds := rfl
@[simp] theorem State.emit_faultq (s : State) (o : Out) : (s.emit o).faultq = s.faultq := rfl
@[simp] theorem State.emit_hist (s : State) (o : Out) : (s.emit o).hist = s.hist := rfl
@[simp] theorem State.emit_logStop (s : State) (o : Out) : (s.emit o).logStop = s.logStop := rfl
@[simp] theorem State.emit_hostIrqAt (s : State) (o : Out) : (s.emit o).hostIrqAt = s.hostIrqAt := rfl
@[simp] theorem State.emit_injs (s : State) (o : Out) : (s.emit o).injs = s.injs := rfl
@[simp] theorem State.emit_injLive (s : State) (o : Out) : (s.emit o).injLive = s.injLive := rfl
@[simp] theorem State.emit_injOff (s : State) (o : Out) : (s.emit o).injOff = s.injOff := rfl
@[simp] theorem State.emit_deck (s : State) (o : Out) : (s.emit o).deck = s.deck := rfl
@[simp] theorem State.emit_deckWaits (s : State) (o : Out) : (s.emit o).deckWaits = s.deckWaits := rfl
@[simp] theorem State.emit_probeRest (s : State) (o : Out) : (s.emit o).probeRest = s.probeRest := rfl
@[simp] theorem State.emit_nvLog (s : State) (o : Out) : (s.emit o).nvLog = s.nvLog := rfl
@[simp] theorem State.emit_img (s : State) (o : Out) : (s.emit o).img = s.img := rfl
@[simp] theorem State.emit_discardWaits (s : State) (o : Out) : (s.emit o).discardWaits = s.discardWaits := rfl
@[simp] theorem State.emit_lastImg (s : State) (o : Out) : (s.emit o).lastImg = s.lastImg := rfl
@[simp] theorem State.emit_imgKeys (s : State) (o : Out) : (s.emit o).imgKeys = s.imgKeys := rfl
@[simp] theorem State.emit_lastVer (s : State) (o : Out) : (s.emit o).lastVer = s.lastVer := rfl
@[simp] theorem State.emit_put (s : State) (o : Out) : (s.emit o).put = s.put := rfl
@[simp] theorem State.emit_tallies (s : State) (o : Out) : (s.emit o).tallies = s.tallies := rfl
@[simp] theorem State.emit_power (s : State) (o : Out) : (s.emit o).power = s.power := rfl
@[simp] theorem State.emit_key (s : State) (o : Out) : (s.emit o).key = s.key := rfl
@[simp] theorem State.emit_mgmt (s : State) (o : Out) : (s.emit o).mgmt = s.mgmt := rfl
@[simp] theorem State.emit_hif (s : State) (o : Out) : (s.emit o).hif = s.hif := rfl
@[simp] theorem State.emit_dead (s : State) (o : Out) : (s.emit o).dead = s.dead := rfl
@[simp] theorem State.emit_coldHeld (s : State) (o : Out) : (s.emit o).coldHeld = s.coldHeld := rfl

/-! ### Faces -/

@[simp] theorem face_setFace_same (s : State) (f : Nat) (x : Face) : (s.setFace f x).face f = x := by
  simp [State.face, State.setFace]

theorem face_setFace_other (s : State) (f g : Nat) (x : Face) (h : g ≠ f) : (s.setFace f x).face g = s.face g := by
  simp only [State.face, State.setFace]
  rw [mget_mset_other _ _ _ _ _ _ h]

@[simp] theorem face_modFace_same (s : State) (f : Nat) (g : Face → Face) : (s.modFace f g).face f = g (s.face f) :=
  face_setFace_same _ _ _

theorem face_modFace_other (s : State) (f k : Nat) (g : Face → Face) (h : k ≠ f) : (s.modFace f g).face k = s.face k :=
  face_setFace_other _ _ _ _ h

@[simp] theorem face_setReg (s : State) (r : RegId) (i : Nat) (v : Word) (f : Nat) : (s.setReg r i v).face f = s.face f := rfl
@[simp] theorem face_wr (s : State) (f : Fld) (i v g : Nat) : (s.wr f i v).face g = s.face g := rfl
@[simp] theorem face_wrB (s : State) (f : Fld) (i : Nat) (b : Bool) (g : Nat) : (s.wrB f i b).face g = s.face g := rfl
@[simp] theorem face_bumpBy (s : State) (f : Fld) (i n g : Nat) : (s.bumpBy f i n).face g = s.face g := rfl
@[simp] theorem face_bump (s : State) (f : Fld) (i g : Nat) : (s.bump f i).face g = s.face g := rfl
@[simp] theorem face_setGran (s : State) (k : Nat) (x : Gran) (g : Nat) : (s.setGran k x).face g = s.face g := rfl
@[simp] theorem face_emit (s : State) (o : Out) (g : Nat) : (s.emit o).face g = s.face g := rfl

/-! ### Registers -/

@[simp] theorem reg_setFace (s : State) (f : Nat) (x : Face) (r : RegId) (i : Nat) : (s.setFace f x).reg r i = s.reg r i := rfl
@[simp] theorem reg_modFace (s : State) (f : Nat) (g : Face → Face) (r : RegId) (i : Nat) : (s.modFace f g).reg r i = s.reg r i := rfl
@[simp] theorem reg_setGran (s : State) (k : Nat) (x : Gran) (r : RegId) (i : Nat) : (s.setGran k x).reg r i = s.reg r i := rfl
@[simp] theorem reg_emit (s : State) (o : Out) (r : RegId) (i : Nat) : (s.emit o).reg r i = s.reg r i := rfl
@[simp] theorem rd_setFace (s : State) (f : Nat) (x : Face) (g : Fld) (i : Nat) : (s.setFace f x).rd g i = s.rd g i := rfl
@[simp] theorem rd_modFace (s : State) (f : Nat) (h : Face → Face) (g : Fld) (i : Nat) : (s.modFace f h).rd g i = s.rd g i := rfl
@[simp] theorem rd_setGran (s : State) (k : Nat) (x : Gran) (g : Fld) (i : Nat) : (s.setGran k x).rd g i = s.rd g i := rfl
@[simp] theorem rd_emit (s : State) (o : Out) (g : Fld) (i : Nat) : (s.emit o).rd g i = s.rd g i := rfl

/-- A saturating count after an addition. -/
theorem rd_bumpBy_same (s : State) (f : Fld) (i n : Nat) (h : f.lo + f.wd ≤ 64) :
    (s.bumpBy f i n).rd f i = min (s.rd f i + n) (2 ^ f.wd - 1) := by
  rw [State.bumpBy, rd_wr_same _ _ _ _ h]
  have := Nat.two_pow_pos f.wd
  exact Nat.mod_eq_of_lt (by omega)

theorem rd_wrB_same (s : State) (f : Fld) (i : Nat) (b : Bool) (h : f.lo + f.wd ≤ 64) (hw : 0 < f.wd) :
    (s.wrB f i b).rd f i = if b then 1 else 0 := by
  rw [State.wrB, rd_wr_same _ _ _ _ h]
  have : 2 ≤ 2 ^ f.wd := by
    calc 2 = 2 ^ 1 := rfl
      _ ≤ 2 ^ f.wd := Nat.pow_le_pow_right (by decide) hw
  cases b <;> exact Nat.mod_eq_of_lt (by simp <;> omega)

theorem rd_bump_same (s : State) (f : Fld) (i : Nat) (h : f.lo + f.wd ≤ 64) : (s.bump f i).rd f i = min (s.rd f i + 1) (2 ^ f.wd - 1) :=
  rd_bumpBy_same s f i 1 h

/-- Two fields have no bit in common, and lie within a register. -/
def Fld.apart (f g : Fld) : Bool :=
  decide (f.lo + f.wd ≤ 64) && decide (g.lo + g.wd ≤ 64) && (decide (g.reg ≠ f.reg) || decide (g.lo + g.wd ≤ f.lo ∨ f.lo + f.wd ≤ g.lo))

theorem rd_wr_apart (s : State) (f g : Fld) (i j v : Nat) (h : f.apart g = true) : (s.wr f i v).rd g j = s.rd g j := by
  simp only [Fld.apart, Bool.and_eq_true, Bool.or_eq_true, decide_eq_true_eq] at h
  rcases h.2 with k | k
  · exact rd_wr_reg _ _ _ _ _ _ k
  · exact rd_wr_fld _ _ _ _ _ _ h.1.1 h.1.2 k

theorem rd_wrB_apart (s : State) (f g : Fld) (i j : Nat) (b : Bool) (h : f.apart g = true) : (s.wrB f i b).rd g j = s.rd g j :=
  rd_wr_apart _ _ _ _ _ _ h

theorem rd_bumpBy_apart (s : State) (f g : Fld) (i j n : Nat) (h : f.apart g = true) : (s.bumpBy f i n).rd g j = s.rd g j :=
  rd_wr_apart _ _ _ _ _ _ h

theorem rd_bump_apart (s : State) (f g : Fld) (i j : Nat) (h : f.apart g = true) : (s.bump f i).rd g j = s.rd g j :=
  rd_wr_apart _ _ _ _ _ _ h

theorem rd_wrB_ix (s : State) (f g : Fld) (i j : Nat) (b : Bool) (h : j ≠ i) : (s.wrB f i b).rd g j = s.rd g j := rd_wr_ix _ _ _ _ _ _ h
theorem rd_bumpBy_ix (s : State) (f g : Fld) (i j n : Nat) (h : j ≠ i) : (s.bumpBy f i n).rd g j = s.rd g j := rd_wr_ix _ _ _ _ _ _ h
theorem rd_bump_ix (s : State) (f g : Fld) (i j : Nat) (h : j ≠ i) : (s.bump f i).rd g j = s.rd g j := rd_wr_ix _ _ _ _ _ _ h

theorem reg_wrB_ne (s : State) (f : Fld) (r : RegId) (i j : Nat) (b : Bool) (h : r ≠ f.reg) : (s.wrB f i b).reg r j = s.reg r j :=
  reg_wr_ne _ _ _ _ _ _ h
theorem reg_bumpBy_ne (s : State) (f : Fld) (r : RegId) (i j n : Nat) (h : r ≠ f.reg) : (s.bumpBy f i n).reg r j = s.reg r j :=
  reg_wr_ne _ _ _ _ _ _ h
theorem reg_bump_ne (s : State) (f : Fld) (r : RegId) (i j : Nat) (h : r ≠ f.reg) : (s.bump f i).reg r j = s.reg r j :=
  reg_wr_ne _ _ _ _ _ _ h

/-- A register's fields after the register is set. -/
theorem rd_setReg_ne (s : State) (r : RegId) (i j : Nat) (v : Word) (g : Fld) (h : g.reg ≠ r) : (s.setReg r i v).rd g j = s.rd g j := by
  simp only [State.rd, reg_setReg_ne _ _ _ _ _ _ h]

end Sys2Proof.Machine
end

