-- ==== Sys2Proof/Laws/Memory.lean ====
section
/-! SUPPORT. The addressed memories: every operation on a scratchpad keeps its canonical form, and a write changes the words it covers and
no others; the same of HBM's granules. -/
namespace Sys2Proof.Machine

/-- The canonical form of a face's scratchpad: words and written bits. -/
def Face.padWf (x : Face) : Bool := mwf (fun _ => ({} : PWord)) x.pad && mwf (fun _ => false) x.written

theorem Face.padWf_iff (x : Face) :
    x.padWf = true ↔ mwf (fun _ => ({} : PWord)) x.pad = true ∧ mwf (fun _ => false) x.written = true := by
  simp [Face.padWf]

theorem padOpen_wf (x : Face) (l : Nat) (h : x.padWf = true) : (x.padOpen l).padWf = true := by
  unfold Face.padOpen
  split
  · exact h
  · rw [Face.padWf_iff] at h ⊢
    exact ⟨by dsimp only; exact mdrop_wf _ _ _ h.1, mset_wf (fun _ => false) _ _ _ h.2⟩

theorem padPut_wf (x : Face) (w : Nat) (v : Word) (p : Bool) (h : x.padWf = true) : (x.padPut w v p).padWf = true := by
  have k := padOpen_wf x (w / 16) h
  rw [Face.padWf_iff] at k ⊢
  exact ⟨mset_wf (fun _ => ({} : PWord)) _ _ _ k.1, k.2⟩

theorem padMerge_wf (x : Face) (w k : Nat) (bs : List Nat) (p : Bool) (h : x.padWf = true) : (x.padMerge w k bs p).padWf = true := by
  have y := padOpen_wf x (w / 16) h
  rw [Face.padWf_iff] at y ⊢
  exact ⟨mset_wf (fun _ => ({} : PWord)) _ _ _ y.1, y.2⟩

theorem padRun_wf (n : Nat) (x : Face) (a : Nat) (bs : List Nat) (p : Bool) (h : x.padWf = true) : (padRun x a bs p n).padWf = true := by
  induction n generalizing x a bs with
  | zero => exact h
  | succ n ih =>
    unfold padRun
    split
    · exact h
    · exact ih _ _ _ (padMerge_wf _ _ _ _ _ h)

/-- A write of bytes keeps the canonical form. -/
theorem padBytes_wf (x : Face) (a : Nat) (bs : List Nat) (p : Bool) (h : x.padWf = true) : (x.padBytes a bs p).padWf = true :=
  padRun_wf _ _ _ _ _ h

theorem dropLines_wf (x : Face) (q : Nat → Bool) (h : x.padWf = true) : (x.dropLines q).padWf = true := by
  rw [Face.padWf_iff] at h ⊢
  dsimp only [Face.dropLines]
  exact ⟨mdrop_wf _ _ _ h.1, mdrop_wf _ _ _ h.2⟩

theorem warm_wf (x : Face) (keep : Nat → Bool) (h : x.padWf = true) : (x.warm keep).padWf = true := by
  rw [Face.padWf_iff] at h ⊢
  dsimp only [Face.warm]
  exact ⟨mdrop_wf _ _ _ h.1, mdrop_wf _ _ _ h.2⟩

/-- Opening a line changes no word as it reads: the line's words read zero before and after. -/
theorem padWord_padOpen (x : Face) (l w : Nat) : (x.padOpen l).padWord w = x.padWord w := by
  unfold Face.padOpen
  split
  · rfl
  · next h =>
    simp only [Face.padWord, mget_mset, mget_mdrop]
    by_cases e : w / 16 = l <;> simp [e, h]

theorem written_padOpen (x : Face) (l : Nat) : mget false (x.padOpen l).written l = true := by
  unfold Face.padOpen
  split
  · assumption
  · simp

theorem written_padOpen_mono (x : Face) (l k : Nat) (h : mget false x.written k = true) : mget false (x.padOpen l).written k = true := by
  unfold Face.padOpen
  split
  · exact h
  · simp only [mget_mset]; split <;> simp_all

/-- A word just written, with the poison bit given and a valid code. -/
theorem padWord_padPut_same (x : Face) (w : Nat) (v : Word) (p : Bool) :
    (x.padPut w v p).padWord w = { data := v, poison := p, flips := 0 } := by
  simp [Face.padPut, Face.padWord, written_padOpen]

/-- A word other than the one written. -/
theorem padWord_padPut_other (x : Face) (w j : Nat) (v : Word) (p : Bool) (h : j ≠ w) : (x.padPut w v p).padWord j = x.padWord j := by
  rw [← padWord_padOpen x (w / 16) j]
  simp only [Face.padPut, Face.padWord, mget_mset, h, if_false]

theorem padWord_padMerge_other (x : Face) (w k j : Nat) (bs : List Nat) (p : Bool) (h : j ≠ w) :
    (x.padMerge w k bs p).padWord j = x.padWord j := by
  rw [← padWord_padOpen x (w / 16) j]
  simp only [Face.padMerge, Face.padWord, mget_mset, h, if_false]

theorem padWord_padRun_other (n : Nat) (x : Face) (a : Nat) (bs : List Nat) (p : Bool) (j : Nat)
    (h : 8 * j + 8 ≤ a ∨ a + bs.length ≤ 8 * j) : (padRun x a bs p n).padWord j = x.padWord j := by
  induction n generalizing x a bs with
  | zero => rfl
  | succ n ih =>
    unfold padRun
    split
    · rfl
    · next hb =>
      have hl : 0 < bs.length := List.length_pos_iff.mpr hb
      rw [ih]
      · exact padWord_padMerge_other _ _ _ _ _ _ (by omega)
      · rw [List.length_drop]; omega

/-- A word of which no byte is written. -/
theorem padWord_padBytes_other (x : Face) (a : Nat) (bs : List Nat) (p : Bool) (j : Nat)
    (h : 8 * j + 8 ≤ a ∨ a + bs.length ≤ 8 * j) : (x.padBytes a bs p).padWord j = x.padWord j :=
  padWord_padRun_other _ _ _ _ _ _ h

@[simp] theorem gran_setGran_same (s : State) (g : Nat) (x : Gran) : (s.setGran g x).gran g = x := by
  simp [State.gran, State.setGran]

theorem gran_setGran_other (s : State) (g k : Nat) (x : Gran) (h : k ≠ g) : (s.setGran g x).gran k = s.gran k := by
  simp only [State.gran, State.setGran]
  rw [mget_mset_other _ _ _ _ _ _ h]

/-- The words of a granule as written are in canonical form. -/
theorem wordsOf_wf (ws : List (Word × Bool)) : mwf (fun _ => ({} : PWord)) (wordsOf ws) = true := by
  have key : ∀ (ws : List (Word × Bool)) (a : SMap PWord × Nat), mwf (fun _ => ({} : PWord)) a.1 = true →
      mwf (fun _ => ({} : PWord)) (ws.foldl (fun (a : SMap PWord × Nat) w =>
        (mset {} a.1 a.2 { data := w.1, poison := w.2, flips := 0 }, a.2 + 1)) a).1 = true := by
    intro ws
    induction ws with
    | nil => intro a h; exact h
    | cons w ws ih => intro a h; exact ih _ (mset_wf (fun _ => ({} : PWord)) _ _ _ h)
  exact key ws _ rfl

end Sys2Proof.Machine
end

