-- ==== Sys2Proof/Laws/Frame.lean ====
section
/-! SUPPORT. Frames: each basic update changes the field or face it names and nothing else; and what the issue of an instruction comes to. -/
namespace Sys2Proof.Machine

/-- The bits of a register after a field is written. -/
theorem getLsbD_reg_wr (s : State) (f : Fld) (i v : Nat) (r : RegId) (j b : Nat) (hf : f.lo + f.wd ≤ 64)
    (h : ¬ (r = f.reg ∧ j = i ∧ f.lo ≤ b ∧ b < f.lo + f.wd)) : ((s.wr f i v).reg r j).getLsbD b = (s.reg r j).getLsbD b := by
  rw [reg_wr]
  split
  · next e =>
    rw [e.1, e.2]
    by_cases hb : b < 64
    · rw [getLsbD_fput _ _ _ _ _ hf hb, if_neg (fun k => h ⟨e.1, e.2, k.1, k.2⟩)]
    · rw [BitVec.getLsbD_of_ge _ _ (by omega), BitVec.getLsbD_of_ge _ _ (by omega)]
  · rfl

theorem RegsBut.refl (s : State) (fs : List (Fld × Nat)) : s.RegsBut s fs := fun _ _ _ _ => rfl

theorem RegsBut.wr {s t : State} {fs : List (Fld × Nat)} {f : Fld} {i v : Nat} (h : s.RegsBut t fs) (hm : (f, i) ∈ fs)
    (hf : f.lo + f.wd ≤ 64 := by decide) : s.RegsBut (t.wr f i v) fs := fun r j b hb => by
  rw [getLsbD_reg_wr _ _ _ _ _ _ _ hf (hb _ hm)]
  exact h r j b hb

theorem RegsBut.setReg {s t : State} {fs : List (Fld × Nat)} {r : RegId} {i : Nat} {v : Word} (h : s.RegsBut t fs) (hm : whole r i ∈ fs) :
    s.RegsBut (t.setReg r i v) fs := fun q j b hb => by
  by_cases e : q = r ∧ j = i
  · by_cases b64 : b < 64
    · exact absurd ⟨e.1, e.2, Nat.zero_le b, Nat.lt_of_lt_of_le b64 (by simp [whole])⟩ (hb _ hm)
    · rw [BitVec.getLsbD_of_ge _ _ (by omega), BitVec.getLsbD_of_ge _ _ (by omega)]
  · rw [reg_setReg, if_neg e]; exact h q j b hb

theorem Frame.refl (s : State) (fs : List (Fld × Nat)) (gs : List Nat) : s.Frame s fs gs := ⟨RegsBut.refl s fs, fun _ _ => rfl, rfl⟩

theorem Frame.wr {s t : State} {fs : List (Fld × Nat)} {gs : List Nat} {f : Fld} {i v : Nat} (h : s.Frame t fs gs) (hm : (f, i) ∈ fs)
    (hf : f.lo + f.wd ≤ 64 := by decide) : s.Frame (t.wr f i v) fs gs := ⟨RegsBut.wr h.regs hm hf, h.faces, h.rest⟩

theorem Frame.wrB {s t : State} {fs : List (Fld × Nat)} {gs : List Nat} {f : Fld} {i : Nat} {b : Bool} (h : s.Frame t fs gs)
    (hm : (f, i) ∈ fs) (hf : f.lo + f.wd ≤ 64 := by decide) : s.Frame (t.wrB f i b) fs gs := Frame.wr h hm hf

theorem Frame.bumpBy {s t : State} {fs : List (Fld × Nat)} {gs : List Nat} {f : Fld} {i n : Nat} (h : s.Frame t fs gs)
    (hm : (f, i) ∈ fs) (hf : f.lo + f.wd ≤ 64 := by decide) : s.Frame (t.bumpBy f i n) fs gs := Frame.wr h hm hf

theorem Frame.bump {s t : State} {fs : List (Fld × Nat)} {gs : List Nat} {f : Fld} {i : Nat} (h : s.Frame t fs gs)
    (hm : (f, i) ∈ fs) (hf : f.lo + f.wd ≤ 64 := by decide) : s.Frame (t.bump f i) fs gs := Frame.wr h hm hf

theorem Frame.setReg {s t : State} {fs : List (Fld × Nat)} {gs : List Nat} {r : RegId} {i : Nat} {v : Word} (h : s.Frame t fs gs)
    (hm : whole r i ∈ fs) : s.Frame (t.setReg r i v) fs gs := ⟨RegsBut.setReg h.regs hm, h.faces, h.rest⟩

theorem Frame.setFace {s t : State} {fs : List (Fld × Nat)} {gs : List Nat} {f : Nat} {x : Face} (h : s.Frame t fs gs)
    (hm : f ∈ gs) : s.Frame (t.setFace f x) fs gs :=
  ⟨h.regs, fun g hg => (face_setFace_other t f g x (fun e => hg (e.symm ▸ hm))).trans (h.faces g hg), h.rest⟩

theorem Frame.modFace {s t : State} {fs : List (Fld × Nat)} {gs : List Nat} {f : Nat} {g : Face → Face} (h : s.Frame t fs gs)
    (hm : f ∈ gs) : s.Frame (t.modFace f g) fs gs := Frame.setFace h hm

theorem Frame.ite {s t u : State} {fs : List (Fld × Nat)} {gs : List Nat} {c : Prop} [Decidable c] (h : s.Frame t fs gs)
    (k : s.Frame u fs gs) : s.Frame (if c then t else u) fs gs := by split <;> assumption

/-- More fields and faces may have changed. -/
theorem Frame.mono {s t : State} {fs fs' : List (Fld × Nat)} {gs gs' : List Nat} (h : s.Frame t fs gs) (hf : ∀ e ∈ fs, e ∈ fs')
    (hg : ∀ e ∈ gs, e ∈ gs') : s.Frame t fs' gs' :=
  ⟨fun r i b hb => h.regs r i b (fun e he => hb e (hf e he)), fun g k => h.faces g (fun m => k (hg g m)), h.rest⟩

theorem Frame.trans {s t u : State} {fs : List (Fld × Nat)} {gs : List Nat} (h : s.Frame t fs gs) (k : t.Frame u fs gs) :
    s.Frame u fs gs :=
  ⟨fun r i b hb => (k.regs r i b hb).trans (h.regs r i b hb), fun g hg => (k.faces g hg).trans (h.faces g hg), by
    have e := h.rest
    rw [← k.rest] at e
    exact e⟩

/-! ### Issue -/

/-- The state in which an instruction's own effect begins: the fetch has counted the words it corrected. -/
def State.fetched (s : State) (f : Nat) (m : Form) : State :=
  s.bumpBy R.FCE_STORE_ERR.CORRECTED f ((s.face f).fixedWords (s.face f).pc (m.len + 1))

/-- An instruction that issues has its own effect, and then what `Done` says follows. -/
theorem issue_eq {s : State} {f : Nat} {w : IWord} {m : Form} {body : State → Face → Done} (h : Issues s f w m) :
    issue s f w m body = match body (s.fetched f m) (s.face f) with
      | .next t => (t.bump R.FCE_ISSUE_STAT.ISSUED f).modFace f (fun y => { y with pc := y.pc + m.len + 1 })
      | .jump t a => (t.bump R.FCE_ISSUE_STAT.ISSUED f).modFace f (fun y => { y with pc := a })
      | .trap v i => (s.fetched f m).trapFault f v i (s.face f).pc
      | .traps v i rest => (s.fetched f m).takeTraps f (s.face f).pc ((v, i) :: rest)
      | .trapIn t v i => t.trapFault f v i (s.face f).pc
      | .hold t => t
      | .stall t why => ((t.bump R.FCE_ISSUE_STAT.ISSUED f).modFace f (fun y => { y with run := .stalled why })).wake f
      | .whole t => t.bump R.FCE_ISSUE_STAT.ISSUED f := by
  unfold issue
  dsimp only
  have n : m.names w = true := by
    have d := h.decodes
    simp only [Form.decodes, Bool.and_eq_true] at d
    exact d.1.1.1.1.1
  rw [if_neg (by simp [h.run, n]), if_neg (Nat.not_le.mpr h.code), h.words]
  dsimp only
  rw [if_neg (by simp [h.decodes]), if_neg (by simp [h.guard])]
  rfl

theorem fetched_face (s : State) (f g : Nat) (m : Form) : (s.fetched f m).face g = s.face g := rfl

theorem Counted.of {s t u : State} {f : Nat} {m : Form} (hi : u.rd R.FCE_ISSUE_STAT.ISSUED f = s.rd R.FCE_ISSUE_STAT.ISSUED f)
    (hc : u.rd R.FCE_STORE_ERR.CORRECTED f = (s.fetched f m).rd R.FCE_STORE_ERR.CORRECTED f)
    (ht : ∀ g i, t.rd g i = (u.bump R.FCE_ISSUE_STAT.ISSUED f).rd g i) : Counted s f m t := by
  constructor
  · rw [ht, State.bump, rd_bumpBy_same _ _ _ _ (by decide), hi]
  · rw [ht, State.bump, State.bumpBy, rd_wr_reg _ _ _ _ _ _ (by decide), hc, State.fetched, rd_bumpBy_same _ _ _ _ (by decide)]

/-- An instruction whose own effect is on its face alone. -/
theorem retires_of {s : State} {f : Nat} {m : Form} (g : Face → Face) (p : Face → Face)
    (x : Face) (hx : x = p (g (s.face f))) :
    Retires s f m x ((((s.fetched f m).modFace f g).bump R.FCE_ISSUE_STAT.ISSUED f).modFace f p) := by
  refine ⟨Counted.of (u := (s.fetched f m).modFace f g) ?_ rfl (fun _ _ => rfl), ?_, ?_⟩
  · exact rd_wr_reg _ _ _ _ _ _ (by decide)
  · rw [face_modFace_same, face_bump, face_modFace_same, hx]
    rfl
  · refine Frame.modFace (Frame.bump (Frame.modFace (Frame.bumpBy (Frame.refl _ _ _) ?_) ?_) ?_) ?_ <;> simp [issueFields]

/-- The same where the own effect leaves all but the counts. -/
theorem retires_none {s : State} {f : Nat} {m : Form} (p : Face → Face) (x : Face) (hx : x = p (s.face f)) :
    Retires s f m x (((s.fetched f m).bump R.FCE_ISSUE_STAT.ISSUED f).modFace f p) := by
  refine ⟨Counted.of (u := s.fetched f m) ?_ rfl (fun _ _ => rfl), ?_, ?_⟩
  · exact rd_wr_reg _ _ _ _ _ _ (by decide)
  · rw [face_modFace_same, hx]; rfl
  · refine Frame.modFace (Frame.bump (Frame.bumpBy (Frame.refl _ _ _) ?_) ?_) ?_ <;> simp [issueFields]

end Sys2Proof.Machine
end

