-- ==== Sys2Proof/Laws/Traps.lean ====
section
/-! SUPPORT. Raising a record and taking a fault-class trap: what each comes to. -/
namespace Sys2Proof.Machine

theorem injSlot_nil {s : State} (h : s.injs = []) (d : Det) (u : Nat) : s.injSlot d u = none := by
  simp [State.injSlot, h]

/-- With no slot armed and none waiting, an event is as its detector reports it. -/
theorem marked_quiet {s : State} (hi : s.injs = []) (hl : s.injLive = []) (e : Event) : s.marked e = (s, e) := by
  simp [State.marked, hl, injSlot_nil hi]

/-- A record joins the queue, where no slot is armed, logging works, nothing merges and there is room (R542, R544, R545). -/
theorem raise_append {s : State} {e : Event} (hi : s.injs = []) (hl : s.injLive = []) (hp : s.rd R.FLT_FATAL.LOG_PATH 0 = 0)
    (hm : mergeRec s.now (e.record s) s.faultq = none) (hr : s.faultq.length < 64) :
    s.raise e = ({ s with faultq := s.faultq ++ [e.record s] }).wr R.FLT_STATUS.QUEUED 0 (s.faultq.length + 1) := by
  unfold State.raise
  rw [marked_quiet hi hl]
  simp [State.flag, hp, hm, hr]

/-- Raising an event touches the queue, the non-volatile store, the injection slots and their registers and counts, and nothing else. -/
theorem inject_faces {s : State} {d : Det} {u : Nat} {q : Nat → Bool} {r : Nat × State} (h : s.inject d u q = some r) :
    r.2.faces = s.faces := by
  unfold State.inject at h
  split at h
  · cases h
  · dsimp only at h
    injection h with h; subst h
    dsimp only
    split <;> split <;> rfl

theorem inject_reg {s : State} {d : Det} {u : Nat} {q : Nat → Bool} {r : Nat × State} (h : s.inject d u q = some r) (k : RegId) (i : Nat)
    (hk : k ≠ .FLT_INJ_CTL) : r.2.reg k i = s.reg k i := by
  unfold State.inject at h
  split at h
  · cases h
  · dsimp only at h
    injection h with h; subst h
    have e (t : State) (f : Fld) (j v : Nat) (hf : f.reg = .FLT_INJ_CTL) : (t.wr f j v).reg k i = t.reg k i :=
      reg_wr_ne _ _ _ _ _ _ (hf ▸ hk)
    dsimp only
    split <;> split <;> simp only [State.bump, State.bumpBy] <;> repeat rw [e _ _ _ _ rfl]
    all_goals rfl

theorem marked_faces (s : State) (e : Event) : (s.marked e).1.faces = s.faces := by
  unfold State.marked
  split
  · rfl
  · split
    · next h => exact inject_faces h
    · rfl

theorem marked_reg (s : State) (e : Event) (k : RegId) (i : Nat) (hk : k ≠ .FLT_INJ_CTL) : (s.marked e).1.reg k i = s.reg k i := by
  unfold State.marked
  split
  · rfl
  · split
    · next h => exact inject_reg h k i hk
    · rfl

theorem raise_faces (s : State) (e : Event) : (s.raise e).faces = s.faces := by
  have h := marked_faces s e
  unfold State.raise
  dsimp only
  split
  · exact h
  · split
    · exact h
    · split
      · exact h
      · split <;> exact h

theorem raise_face (s : State) (e : Event) (f : Nat) : (s.raise e).face f = s.face f := by simp only [State.face, raise_faces]

theorem raise_reg (s : State) (e : Event) (k : RegId) (i : Nat) (hk : k ≠ .FLT_INJ_CTL) (hs : k ≠ .FLT_STATUS) :
    (s.raise e).reg k i = s.reg k i := by
  have h := marked_reg s e k i hk
  have w (t : State) (f : Fld) (j v : Nat) (hf : f.reg = .FLT_STATUS) : (t.wr f j v).reg k i = t.reg k i :=
    reg_wr_ne _ _ _ _ _ _ (hf ▸ hs)
  unfold State.raise
  dsimp only
  split
  · simp only [State.bump, State.bumpBy]; rw [w _ _ _ _ rfl]; exact h
  · split
    · exact h
    · split
      · rw [w _ _ _ _ rfl]; exact h
      · rw [w _ _ _ _ rfl]; simp only [State.bump, State.bumpBy]; rw [w _ _ _ _ rfl]; split <;> exact h

theorem raise_rd (s : State) (e : Event) (g : Fld) (i : Nat) (hk : g.reg ≠ .FLT_INJ_CTL := by decide) (hs : g.reg ≠ .FLT_STATUS := by decide) :
    (s.raise e).rd g i = s.rd g i := by simp only [State.rd, raise_reg _ _ _ _ hk hs]

/-- The face in a fault handler. -/
def Face.trapped (x : Face) (v tpc target : Nat) (info : Word) : Face :=
  { x with failed := true, tcause := v, tinfo := info, tpc := tpc, pc := target, handler := .fault, run := .issuing }

/-- A fault-class trap on a face that issues outside a fault handler, with a valid vector: the counts, the record, and the branch. -/
theorem trapFault_eq {s : State} {f v : Nat} {info : Word} {tpc target : Nat} (hr : (s.face f).run = .issuing)
    (hh : (s.face f).handler ≠ .fault) (hv : (s.face f).vector v = some target) :
    s.trapFault f v info tpc =
      ((((s.trapStat f v tpc).bump R.FCE_TRAP_STAT.FAULTS f).modFace f (fun y => { y with failed := true })).raise
        { det := .trap, unit := s.unitFace f, addr := tpc, d0 := BitVec.ofNat 64 v, d1 := info, lface := f }).modFace f
          (fun y => y.enter .fault v tpc target info) := by
  have k : s.takeFault f v info tpc =
      ((((s.trapStat f v tpc).bump R.FCE_TRAP_STAT.FAULTS f).modFace f (fun y => { y with failed := true })).raise
        { det := .trap, unit := s.unitFace f, addr := tpc, d0 := BitVec.ofNat 64 v, d1 := info, lface := f }).modFace f
          (fun y => y.enter .fault v tpc target info) := by
    have p : (s.face f).trapPc tpc = tpc := by unfold Face.trapPc; rw [hr]
    unfold State.takeFault
    dsimp only
    rw [p, hr]
    dsimp only
    rw [if_neg hh, hv]
    have q : ((((s.trapStat f v tpc).bump R.FCE_TRAP_STAT.FAULTS f).modFace f (fun y => { y with failed := true })).unitFace f) = s.unitFace f := by
      have k (u : State) (g : Fld) (i n : Nat) (e : g.reg = .FCE_TRAP_STAT) :
          (u.wr g i n).rd (R.PLT_FACE_MAP.PHYS f) 0 = u.rd (R.PLT_FACE_MAP.PHYS f) 0 := rd_wr_reg _ _ _ _ _ _ (e ▸ nofun)
      exact congrArg (unitId 1 · 0 0 0) ((k _ _ _ _ rfl).trans ((k _ _ _ _ rfl).trans ((k _ _ _ _ rfl).trans (k _ _ _ _ rfl))))
    dsimp only [State.trapRecord]
    rw [q]
  unfold State.trapFault
  rw [k]
  unfold State.wake
  dsimp only
  rw [face_modFace_same]
  rfl

end Sys2Proof.Machine
end

