-- ==== Sys2Proof/Laws/Issue.lean ====
section
/-! SUPPORT. The issue of instructions: what the fetch leaves as it was, the queues, the waits, and stored words with no injection armed. -/
namespace Sys2Proof.Machine

theorem bit_eq_testBit (n i : Nat) : bit n i = n.testBit i := (Nat.testBit_eq_decide_div_mod_eq).symm

/-! ### The fetch counts and does nothing else -/

@[simp] theorem fetched_rd (s : State) (f : Nat) (m : Form) (g : Fld) (i : Nat) (h : g.reg ≠ .FCE_STORE_ERR) :
    (s.fetched f m).rd g i = s.rd g i := rd_wr_reg _ _ _ _ _ _ h

@[simp] theorem fetched_reg (s : State) (f : Nat) (m : Form) (r : RegId) (i : Nat) (h : r ≠ .FCE_STORE_ERR) :
    (s.fetched f m).reg r i = s.reg r i := reg_wr_ne _ _ _ _ _ _ h

@[simp] theorem fetched_faces (s : State) (f : Nat) (m : Form) : (s.fetched f m).faces = s.faces := rfl

theorem fetched_rangeCheck (s : State) (f g : Nat) (m : Form) (r : Word) (n : Nat) (b : Bool) :
    (s.fetched f m).rangeCheck g r n b = s.rangeCheck g r n b := by
  have h1 : (s.fetched f m).cacheLines g = s.cacheLines g := by
    simp (disch := decide) only [State.cacheLines, fetched_rd]
  have h2 : (s.fetched f m).releasedLines g = s.releasedLines g := by
    simp (disch := decide) only [State.releasedLines, State.winGeom, fetched_rd, fetched_faces]
  have h3 : (s.fetched f m).residentLines g = s.residentLines g := by
    simp (disch := decide) only [State.residentLines, fetched_rd]
  unfold State.rangeCheck
  rw [h1, h2, h3]

@[simp] theorem fetched_portFail (s : State) (f g : Nat) (m : Form) (r : Word) (n : Nat) (b : Bool) (o k : Nat) :
    portFail (s.fetched f m) g r n b o k = portFail s g r n b o k := by
  unfold portFail; rw [fetched_rangeCheck]

@[simp] theorem fetched_domOn (s : State) (f : Nat) (m : Form) (d : Nat) : (s.fetched f m).domOn d = s.domOn d := by
  have h : (s.fetched f m).rd (R.PWR_DOM_STATE.STATE d) 0 = s.rd (R.PWR_DOM_STATE.STATE d) 0 := fetched_rd _ _ _ _ _ nofun
  unfold State.domOn State.domain; rw [h]

@[simp] theorem fetched_stackOn (s : State) (f : Nat) (m : Form) (p : Nat) : (s.fetched f m).stackOn p = s.stackOn p := by
  simp (disch := decide) only [State.stackOn, State.stackPresent, fetched_domOn, fetched_rd]

@[simp] theorem fetched_home (s : State) (f g : Nat) (m : Form) : (s.fetched f m).home g = s.home g := fetched_rd _ _ _ _ _ nofun

@[simp] theorem fetched_phys (s : State) (f g : Nat) (m : Form) : (s.fetched f m).phys g = s.phys g := fetched_rd _ _ _ _ _ nofun

@[simp] theorem fetched_hbmUnit (s : State) (f g : Nat) (m : Form) (x : Face) (a : Nat) :
    hbmUnit (s.fetched f m) g x a = hbmUnit s g x a := by
  simp only [hbmUnit, hbmAbsent, hbmUndeclared, fetched_stackOn, fetched_home]

@[simp] theorem fetched_portUse (s : State) (f : Nat) (m : Form) (x : Face) (p : Nat) : portUse (s.fetched f m) x p = portUse s x p := by
  have h : (s.fetched f m).portPresent p = s.portPresent p := by simp (disch := decide) only [State.portPresent, fetched_rd]
  have o : (s.fetched f m).portOn p = s.portOn p := by simp (disch := decide) only [State.portOn, fetched_domOn]
  unfold portUse portAbsent; rw [h, o]

@[simp] theorem fetched_nFaces (s : State) (f : Nat) (m : Form) : (s.fetched f m).nFaces = s.nFaces := by
  simp (disch := decide) only [State.nFaces, fetched_rd]

@[simp] theorem fetched_devAddr (s : State) (f : Nat) (m : Form) : (s.fetched f m).devAddr = s.devAddr := by
  simp (disch := decide) only [State.devAddr, fetched_rd]

@[simp] theorem fetched_arrayOn (s : State) (f g : Nat) (m : Form) : (s.fetched f m).arrayOn g = s.arrayOn g := by
  simp only [State.arrayOn, fetched_phys, fetched_domOn]

@[simp] theorem fetched_engOn (s : State) (f g : Nat) (m : Form) : (s.fetched f m).engOn g = s.engOn g := by
  simp only [State.engOn, fetched_phys, fetched_domOn]

@[simp] theorem fetched_mkOp (s : State) (f : Nat) (m : Form) (x : Face) (e : Eng) (c o : Nat) (w : IWord) :
    mkOp (s.fetched f m) x e c o w = mkOp s x e c o w := by
  simp (disch := decide) only [mkOp, fetched_rd]
  rfl

@[simp] theorem fetched_ws (s : State) (f : Nat) (m : Form) (g : Fld) (i w : Nat) (h : g.reg ≠ .FCE_STORE_ERR) :
    (s.fetched f m).ws g i w = s.ws g i w := fetched_rd _ _ _ _ _ h

@[simp] theorem fetched_wsReady (s : State) (f g w : Nat) (m : Form) : (s.fetched f m).wsReady g w = s.wsReady g w := by
  simp (disch := decide) only [State.wsReady, fetched_ws]

@[simp] theorem fetched_granted (s : State) (f g w c : Nat) (m : Form) : (s.fetched f m).granted g w c = s.granted g w c := by
  simp (disch := decide) only [State.granted, fetched_rd]

@[simp] theorem fetched_copyArrays (s : State) (f g w : Nat) (m : Form) : (s.fetched f m).copyArrays g w = s.copyArrays g w := by
  simp (disch := decide) only [State.copyArrays, fetched_ws]

@[simp] theorem fetched_copySlot (s : State) (f g w c a : Nat) (m : Form) : (s.fetched f m).copySlot g w c a = s.copySlot g w c a := by
  simp (disch := decide) only [State.copySlot, fetched_ws]

@[simp] theorem fetched_slotPhys (s : State) (f g b n : Nat) (m : Form) : (s.fetched f m).slotPhys g b n = s.slotPhys g b n := by
  have h (e : Fld) (i : Nat) (he : e.reg ≠ .FCE_STORE_ERR) := fetched_rd s f m e i he
  unfold State.slotPhys
  dsimp only
  rw [h (R.BLK_ARRAY_MAP.VALID (n % 8)) _ nofun, h (R.BLK_ARRAY_MAP.PHYS (n % 8)) _ nofun]

theorem ite_none {α : Type} {c : Prop} [Decidable c] {a b : α} (h : (if c then some a else none) = none) : (if c then some b else none) = none := by
  split at h
  · cases h
  · exact if_neg ‹_›

/-- A range that no hazard holds before the fetch is not held after it. -/
theorem fetched_sbStall {s : State} {f g : Nat} {m : Form} {rs : List (Word × Bool)} (h : s.sbStall g rs = none) :
    (s.fetched f m).sbStall g rs = none := by
  unfold State.sbStall at h ⊢
  rw [fetched_face]
  dsimp only at h ⊢
  split at h
  · cases h
  · next h0 =>
    rw [if_neg h0]
    split at h
    · cases h
    · next h1 =>
      rw [if_neg h1]
      exact ite_none h

/-! ### Queues -/

/-- With no hazard and a place free, the operation takes its place (R284, steps 5 and 6). -/
theorem enqueue_eq {s : State} {f : Nat} {q : QOp} {rs : List (Word × Bool)} (h : s.sbStall f rs = none)
    (r : (s.face f).stillRuns q.eng = false) (n : (s.face f).inQueue q.eng < 32) : enqueue s f q rs = .next (s.queueOp f q rs) := by
  unfold enqueue
  rw [h, if_neg (by simp [r]), if_neg (Nat.not_le.mpr n)]
  rfl

theorem lowFail_none {cs : List (Option RFail)} (h : ∀ c ∈ cs, c = none) : lowFail cs = none := by
  unfold lowFail
  induction cs with
  | nil => rfl
  | cons c cs ih =>
    rw [List.foldl_cons, h c (by simp)]
    exact ih (fun d hd => h d (by simp [hd]))

theorem firstFail_none {cs : List (Option RFail)} (h : ∀ c ∈ cs, c = none) : firstFail cs = none := by
  unfold firstFail
  rw [List.findSome?_eq_none_iff]
  intro c hc
  exact h c hc

/-! ### Waits -/

/-- END with every operation completed, in a fault handler or with the balance in order: it retires. -/
theorem wake_ending {t : State} {f : Nat} (e : (t.face f).run = .stalled .ending) (hd : (t.face f).drained = true)
    (hb : (t.face f).handler = .fault ∨ t.imbalance f = none) : t.wake f = t.retireEnd f := by
  have k : t.tryEnd f = t.retireEnd f := by
    unfold State.tryEnd; dsimp only; rw [hd, if_neg (by simp)]
    rcases hb with hb | hb
    · rw [if_pos hb]
    · rw [hb]; split <;> rfl
  unfold State.wake; dsimp only; rw [e]; dsimp only; rw [k]
  unfold State.retireEnd; rw [face_modFace_same]

theorem wake_undrained {t : State} {f : Nat} (e : (t.face f).run = .stalled .ending) (hd : (t.face f).drained = false) : t.wake f = t := by
  have k : t.tryEnd f = t := by
    unfold State.tryEnd; dsimp only; rw [hd, if_pos (by simp)]
  unfold State.wake; dsimp only; rw [e]; dsimp only; rw [k, e]; dsimp only
  split
  · exact k
  · rfl

theorem imbalance_congr {s t : State} {f : Nat} (hc : (t.face f).ctr = (s.face f).ctr)
    (hh : (t.face f).handles = (s.face f).handles) (hd : t.devAddr = s.devAddr) : t.imbalance f = s.imbalance f := by
  unfold State.imbalance; dsimp only; rw [hc, hh, hd]

/-- An instruction whose own effect is two changes of its face. -/
theorem retires_twice {s : State} {f : Nat} {m : Form} (p q : Face → Face) (x : Face) (hx : x = q (p (s.face f))) :
    Retires s f m x ((((s.fetched f m).bump R.FCE_ISSUE_STAT.ISSUED f).modFace f p).modFace f q) := by
  have h := retires_none (s := s) (f := f) (m := m) p _ rfl
  refine ⟨⟨h.issued, h.fixed⟩, ?_, Frame.modFace h.frame (by simp)⟩
  rw [face_modFace_same, h.face, hx]

/-! ### Stored words -/

theorem loop_same {α : Type} {g : α → Nat → α} {s : α} (h : ∀ i, g s i = s) (n : Nat) : loop n s g = s := by
  unfold loop
  generalize List.range n = l
  induction l with
  | nil => rfl
  | cons a l ih => rw [List.foldl_cons, h a]; exact ih

/-- With no injection armed, words stored are stored with valid codes. -/
theorem injStored_nil {s : State} (h : s.injs = []) (f w n : Nat) : s.injStored f w n = s := by
  refine loop_same (fun i => ?_) 8
  dsimp only
  rw [if_pos (by simp [h])]

end Sys2Proof.Machine
end

