-- ==== Sys2Proof/Laws/Keep.lean ====
section
/-! SUPPORT. What every operation of the model keeps: the queue, the credentials and image keys, the rollback fuse going up only, and, from a
sound state, soundness, the fuses, and the one way of the lifecycle state and the image floor.  `Keeps a t` says it of the state `t` reached
from `a`; each operation has one lemma, so that a proof about a step never unfolds one. -/
namespace Sys2Proof.Machine

/-- `t`, reached from `a`, has the queue, credentials and image keys of `a`; from a sound state it is sound, with the same fuses and a
lifecycle state, an image floor and a rollback fuse that have not gone back. -/
def Keeps (a t : State) : Prop :=
  t.pending = a.pending ∧ t.mgmt.ops = a.mgmt.ops ∧ t.imgKeys = a.imgKeys ∧
  (a.Sound → t.Sound ∧ a.Onward t)

theorem Keeps.rfl' {s : State} : Keeps s s := ⟨rfl, rfl, rfl, fun h => ⟨h, ⟨Nat.le_refl _, Nat.le_refl _, Nat.le_refl _⟩⟩⟩

theorem Keeps.trans {a s t : State} (h : Keeps a s) (k : Keeps s t) : Keeps a t :=
  ⟨k.1.trans h.1, k.2.1.trans h.2.1, k.2.2.1.trans h.2.2.1, fun x =>
    let y := h.2.2.2 x
    let z := k.2.2.2 y.1
    ⟨z.1, ⟨Nat.le_trans y.2.1 z.2.1, Nat.le_trans y.2.2 z.2.2, Nat.le_trans y.2.3 z.2.3⟩⟩⟩

theorem Keeps.ite {a x y : State} {c : Prop} [Decidable c] (h : Keeps a x) (k : Keeps a y) : Keeps a (if c then x else y) := by
  split <;> assumption

theorem Keeps.ite_fst {β : Type} {a : State} {x y : State × β} {c : Prop} [Decidable c] (h : Keeps a x.1) (k : Keeps a y.1) :
    Keeps a (if c then x else y).1 := by
  split <;> assumption

theorem Keeps.foldl {α : Type} {a s : State} {xs : List α} {f : State → α → State} (h : Keeps a s)
    (hf : ∀ t e, Keeps a t → Keeps a (f t e)) : Keeps a (xs.foldl f s) := by
  induction xs generalizing s with
  | nil => exact h
  | cons x xs ih => exact ih (hf _ _ h)

theorem Keeps.loop {n : Nat} {a s : State} {f : State → Nat → State} (h : Keeps a s)
    (hf : ∀ t e, Keeps a t → Keeps a (f t e)) : Keeps a (loop n s f) := Keeps.foldl h hf

theorem Keeps.foldl_fst {α β : Type} {a : State} {s : State × β} {xs : List α} {f : State × β → α → State × β} (h : Keeps a s.1)
    (hf : ∀ t e, Keeps a t.1 → Keeps a (f t e).1) : Keeps a (xs.foldl f s).1 := by
  induction xs generalizing s with
  | nil => exact h
  | cons x xs ih => exact ih (hf _ _ h)

theorem Keeps.loop_fst {n : Nat} {β : Type} {a : State} {s : State × β} {f : State × β → Nat → State × β} (h : Keeps a s.1)
    (hf : ∀ t e, Keeps a t.1 → Keeps a (f t e).1) : Keeps a (Machine.loop n s f).1 := Keeps.foldl_fst h hf

theorem Keeps.foldl_snd {α β : Type} {a : State} {s : β × State} {xs : List α} {f : β × State → α → β × State} (h : Keeps a s.2)
    (hf : ∀ t e, Keeps a t.2 → Keeps a (f t e).2) : Keeps a (xs.foldl f s).2 := by
  induction xs generalizing s with
  | nil => exact h
  | cons x xs ih => exact ih (hf _ _ h)

/-- Fields that none of these facts speaks of may take any value. -/
theorem Keeps.mk {a s : State}
    {x_now : Nat} {x_freeCount : Nat} {x_arrays : SMap ArrMem} {x_writes : List WJob} {x_acts : List BAct} {x_monitors : SMap Mon}
    {x_cals : SMap CalBlk} {x_calOrder : Nat} {x_tours : SMap Tour} {x_tourAt : Nat} {x_dupRest : Nat} {x_fineChecks : List FineChk}
    {x_hand : HandSt} {x_opId : Nat} {x_sigrs : List HeldSigr} {x_commits : List (Nat × Nat)} {x_aborts : List (Nat × Nat)}
    {x_partials : List (Nat × Nat × List WinEntry)} {x_seqs : SMap Nat} {x_hbmMeta : SMap Nat} {x_keyGen : Nat} {x_ring : List RMsg}
    {x_ringLost : List (RKind × Nat)} {x_mesh : List MWait} {x_plays : SMap (List Nat)} {x_dtricks : SMap DTrick}
    {x_trickReq : SMap (Option (Nat × Nat))} {x_dtrickReq : SMap (Option Nat)} {x_txq : SMap (List Out)} {x_ports : SMap Port} {x_timeGood : Nat}
    {x_timeLast : Nat} {x_bypOpen : Bool} {x_vaonLow : Bool} {x_place : Option (Nat × Nat × Nat)} {x_manifest : List (Nat × Nat × Nat)}
    {x_seatMax : Nat} {x_rings : SMap Ring} {x_antes : List Ante} {x_folds : List (Nat × Nat × Nat)} {x_lastRing : Nat} {x_admitted : Nat}
    {x_seats : SMap Seat} {x_caches : SMap Cache} {x_limbo : List Cache} {x_cmpRest : Nat} {x_usedFrames : SMap Bool} {x_usedStock : SMap Bool}
    {x_irqs : List Nat} {x_irqDone : List Nat} {x_histIn : SMap (List Word)} {x_prefixes : SMap Prefix} {x_slots : SMap (List SlotSeat)}
    {x_headQ : List (Nat × Bool)} {x_recs : List QRec} {x_unitDown : Bool} {x_drecs : SMap Drec} {x_grams : SMap Gram} {x_nanRest : Nat}
    {x_modeReq : Option Nat} {x_reps : SMap Rep} {x_missedFrom : List Nat} {x_obeys : Bool} {x_claims : Option Nat} {x_acked : Nat} {x_decided : Nat}
    {x_announced : Nat} {x_annDue : Nat} {x_waitAck : Bool} {x_copyTo : Option Nat} {x_digestBad : Bool} {x_holds : List (Nat × Bool)}
    {x_hist : SMap HEnt} {x_logStop : Bool} {x_hostIrqAt : Option Nat} {x_injs : SMap Inj} {x_injLive : List (Nat × Nat × Bool)}
    {x_injOff : List (Nat × Int × Nat)} {x_deck : Option Deck} {x_deckWaits : Option Deck} {x_probeRest : Nat} {x_img : Option Img}
    {x_discardWaits : Bool} {x_lastImg : Option (Nat × List Word)} {x_lastVer : Nat} {x_put : Option (Nat × Nat)} {x_tallies : List Tally}
    {x_power : Power} {x_key : KeyWork} {x_mgmt : Mgmt} {x_hif : Hif} {x_dead : Bool} {x_coldHeld : Bool} {x_out : List Out}
    (h : Keeps a s) (hm : x_mgmt.ops = s.mgmt.ops) (hr : x_mgmt.rollback = s.mgmt.rollback) (hk : x_key.after = s.key.after) :
    Keeps a {
      pending := s.pending, now := x_now, freeCount := x_freeCount, regs := s.regs, faces := s.faces, arrays := x_arrays, writes := x_writes,
      acts := x_acts, monitors := x_monitors, cals := x_cals, calOrder := x_calOrder, tours := x_tours, tourAt := x_tourAt, dupRest := x_dupRest,
      fineChecks := x_fineChecks, hand := x_hand, opId := x_opId, sigrs := x_sigrs, commits := x_commits, aborts := x_aborts, partials := x_partials,
      seqs := x_seqs, hbm := s.hbm, hbmMeta := x_hbmMeta, keyGen := x_keyGen, ring := x_ring, ringLost := x_ringLost, mesh := x_mesh,
      plays := x_plays, dtricks := x_dtricks, trickReq := x_trickReq, dtrickReq := x_dtrickReq, txq := x_txq, ports := x_ports,
      timeGood := x_timeGood, timeLast := x_timeLast, bypOpen := x_bypOpen, vaonLow := x_vaonLow, place := x_place, manifest := x_manifest,
      seatMax := x_seatMax, rings := x_rings, antes := x_antes, folds := x_folds, lastRing := x_lastRing, admitted := x_admitted, seats := x_seats,
      caches := x_caches, limbo := x_limbo, cmpRest := x_cmpRest, usedFrames := x_usedFrames, usedStock := x_usedStock, irqs := x_irqs,
      irqDone := x_irqDone, histIn := x_histIn, prefixes := x_prefixes, slots := x_slots, headQ := x_headQ, recs := x_recs, unitDown := x_unitDown,
      drecs := x_drecs, grams := x_grams, nanRest := x_nanRest, modeReq := x_modeReq, reps := x_reps, missedFrom := x_missedFrom, obeys := x_obeys,
      claims := x_claims, acked := x_acked, decided := x_decided, announced := x_announced, annDue := x_annDue, waitAck := x_waitAck,
      copyTo := x_copyTo, digestBad := x_digestBad, holds := x_holds, faultq := s.faultq, hist := x_hist, logStop := x_logStop,
      hostIrqAt := x_hostIrqAt, injs := x_injs, injLive := x_injLive, injOff := x_injOff, deck := x_deck, deckWaits := x_deckWaits,
      probeRest := x_probeRest, nvLog := s.nvLog, img := x_img, discardWaits := x_discardWaits, lastImg := x_lastImg, imgKeys := s.imgKeys,
      lastVer := x_lastVer, put := x_put, tallies := x_tallies, power := x_power, key := x_key, mgmt := x_mgmt, hif := x_hif, dead := x_dead,
      coldHeld := x_coldHeld, out := x_out } := by
  refine ⟨h.1, hm.trans h.2.1, h.2.2.1, fun x => ?_⟩
  have y := h.2.2.2 x
  exact ⟨⟨y.1.regs, y.1.faces, y.1.hbm, y.1.faultq, y.1.nvLog, hm ▸ y.1.ops, y.1.keys, y.1.fuses, by
      intro v hv
      exact y.1.life v (hk ▸ hv)⟩,
    ⟨y.2.life, y.2.floor, Nat.le_trans y.2.rollback (Nat.le_of_eq hr.symm)⟩⟩

/-! ### Registers -/

/-- Registers that hold fuses or values that move one way. -/
def RegId.held : RegId → Bool
  | .PLT_FACE_MAP | .PLT_CAP_UNITS | .PLT_CAP_FACES | .PLT_LIFECYCLE | .PLT_WIMG_FLOOR => true
  | _ => false

/-- A field outside what is held. -/
def Fld.free (f : Fld) : Bool :=
  match f.reg with
  | .PLT_FACE_MAP => false
  | .PLT_CAP_UNITS => false
  | .PLT_CAP_FACES => decide (24 ≤ f.lo ∧ f.lo + f.wd ≤ 64)
  | .PLT_LIFECYCLE => decide (2 ≤ f.lo ∧ f.lo + f.wd ≤ 64)
  | .PLT_WIMG_FLOOR => decide (32 ≤ f.lo ∧ f.lo + f.wd ≤ 64)
  | _ => true

/-- A register map in canonical form whose held fields are those of `s` leaves a state kept. -/
theorem Keeps.regs {a s : State} (h : Keeps a s) (m : SMap Word) (hm : mwf resetAt s.regs = true → mwf resetAt m = true)
    (hf : s.Sound → ({ s with regs := m } : State).fuses = s.fuses) (hl : s.Sound → ({ s with regs := m } : State).life = s.life)
    (hv : s.Sound → s.floor ≤ ({ s with regs := m } : State).floor) : Keeps a { s with regs := m } := by
  refine h.trans ⟨rfl, rfl, rfl, fun x => ?_⟩
  refine ⟨⟨hm x.regs, x.faces, x.hbm, x.faultq, x.nvLog, x.ops, x.keys, hf x ▸ x.fuses, ?_⟩,
    ⟨Nat.le_of_eq (hl x).symm, hv x, Nat.le_refl _⟩⟩
  intro v hk
  rw [hl x]
  exact x.life v hk

theorem setReg_wf {s : State} (r : RegId) (i : Nat) (v : Word) (h : mwf resetAt s.regs = true) :
    mwf resetAt (mset (resetWord r i) s.regs (regKey r i) v) = true := by
  rw [← resetAt_regKey]; exact mset_wf resetAt _ _ _ h

theorem setReg_keeps {a s : State} {r : RegId} {i : Nat} {v : Word} (h : Keeps a s) (hr : r.held = false := by rfl) :
    Keeps a (s.setReg r i v) := by
  have ne : ∀ q : RegId, q.held = true → q ≠ r := by intro q hq e; subst e; simp [hq] at hr
  have rg : ∀ q : RegId, q.held = true → ∀ j, (s.setReg r i v).reg q j = s.reg q j := fun q hq j => reg_setReg_ne _ _ _ _ _ _ (ne q hq)
  refine h.regs _ (setReg_wf r i v) (fun _ => ?_) (fun _ => ?_) (fun _ => ?_)
  · show (s.setReg r i v).fuses = _
    simp only [State.fuses, rg _ (rfl : RegId.held .PLT_FACE_MAP = true), rg _ (rfl : RegId.held .PLT_CAP_UNITS = true), rg _ (rfl : RegId.held .PLT_CAP_FACES = true)]
  · show (s.setReg r i v).life = _
    simp only [State.life, State.rd]; rw [rg _ rfl]
  · show _ ≤ (s.setReg r i v).floor
    refine Nat.le_of_eq (Eq.symm ?_)
    simp only [State.floor, State.rd]; rw [rg _ rfl]

theorem wr_keeps {a s : State} {f : Fld} {i v : Nat} (h : Keeps a s) (hf : f.free = true := by rfl) : Keeps a (s.wr f i v) := by
  obtain ⟨r, lo, wd⟩ := f
  by_cases hr : r.held = false
  · exact setReg_keeps h hr
  · have other : ∀ (q : RegId) (j : Nat), q ≠ r → (s.wr ⟨r, lo, wd⟩ i v).reg q j = s.reg q j := fun q j hq => reg_wr_ne s _ q i j v hq
    have same : ∀ j lo' wd', lo + wd ≤ 64 → lo' + wd' ≤ lo → fget ((s.wr ⟨r, lo, wd⟩ i v).reg r j) lo' wd' = fget (s.reg r j) lo' wd' := by
      intro j lo' wd' h1 h2
      rw [reg_wr]; split
      · next e => rw [fget_fput_other _ _ _ _ _ _ h1 (by omega) (Or.inl h2), e.2]
      · rfl
    have f1 : r = .PLT_CAP_FACES ∧ 24 ≤ lo ∧ lo + wd ≤ 64 ∨ r = .PLT_LIFECYCLE ∧ 2 ≤ lo ∧ lo + wd ≤ 64 ∨
        r = .PLT_WIMG_FLOOR ∧ 32 ≤ lo ∧ lo + wd ≤ 64 := by
      revert hf hr; cases r <;> simp [Fld.free, RegId.held]
    refine h.regs _ (setReg_wf r i _) (fun _ => ?_) (fun _ => ?_) (fun _ => ?_)
    · show (s.wr ⟨r, lo, wd⟩ i v).fuses = _
      rcases f1 with ⟨rfl, h1, h2⟩ | ⟨rfl, h1, h2⟩ | ⟨rfl, h1, h2⟩ <;> simp only [State.fuses]
      · rw [other _ _ (by decide), other _ _ (by decide), same 0 0 20 h2 (by omega)]
      · rw [other _ _ (by decide), other _ _ (by decide), other _ _ (by decide)]
      · rw [other _ _ (by decide), other _ _ (by decide), other _ _ (by decide)]
    · show (s.wr ⟨r, lo, wd⟩ i v).life = _
      rcases f1 with ⟨rfl, h1, h2⟩ | ⟨rfl, h1, h2⟩ | ⟨rfl, h1, h2⟩ <;> simp only [State.life, State.rd]
      · rw [other _ _ (by decide)]
      · exact same 0 0 2 h2 h1
      · rw [other _ _ (by decide)]
    · show _ ≤ (s.wr ⟨r, lo, wd⟩ i v).floor
      refine Nat.le_of_eq (Eq.symm ?_)
      rcases f1 with ⟨rfl, h1, h2⟩ | ⟨rfl, h1, h2⟩ | ⟨rfl, h1, h2⟩ <;> simp only [State.floor, State.rd]
      · rw [other _ _ (by decide)]
      · rw [other _ _ (by decide)]
      · exact same 0 0 32 h2 h1

theorem free_ite {c : Prop} [Decidable c] {f g : Fld} (hf : f.free = true) (hg : g.free = true) : (if c then f else g).free = true := by
  split <;> assumption

theorem wrB_keeps {a s : State} {f : Fld} {i : Nat} {b : Bool} (h : Keeps a s) (hf : f.free = true := by rfl) : Keeps a (s.wrB f i b) :=
  wr_keeps h hf

theorem bumpBy_keeps {a s : State} {f : Fld} {i n : Nat} (h : Keeps a s) (hf : f.free = true := by rfl) : Keeps a (s.bumpBy f i n) :=
  wr_keeps h hf

theorem bump_keeps {a s : State} {f : Fld} {i : Nat} (h : Keeps a s) (hf : f.free = true := by rfl) : Keeps a (s.bump f i) :=
  wr_keeps h hf

/-! ### Resets of registers -/

theorem mget_find {α : Type} (d : α) (m : SMap α) (k : Nat) :
    mget d m k = ((m.find? (fun e => decide (e.1 = k))).map Prod.snd).getD d := by
  induction m with
  | nil => rfl
  | cons e m ih =>
    obtain ⟨b, v⟩ := e
    by_cases h : k = b
    · subst h; simp [mget]
    · simp [mget, h, ih, Ne.symm h]

/-- A map changed entry by entry, each keeping its key or going. -/
theorem mget_filterMap {α : Type} (d : α) (m : SMap α) (g : Nat × α → Option (Nat × α)) (hm : rising m)
    (hg : ∀ e e', g e = some e' → e'.1 = e.1) (k : Nat) :
    mget d (m.filterMap g) k = (((m.find? (fun e => decide (e.1 = k))).bind g).map Prod.snd).getD d := by
  induction m with
  | nil => rfl
  | cons e m ih =>
    have h1 := List.pairwise_cons.1 hm
    have ih := ih h1.2
    have gone : e.1 = k → m.find? (fun e => decide (e.1 = k)) = none := by
      intro he
      simp only [List.find?_eq_none, decide_eq_true_eq]
      intro x hx hk
      have := h1.1 x hx
      omega
    cases hge : g e with
    | none =>
      rw [List.filterMap_cons_none hge, ih]
      by_cases hk : e.1 = k
      · simp [hk, gone hk, hge]
      · simp [hk]
    | some e' =>
      have hk' := hg e e' hge
      rw [List.filterMap_cons_some hge]
      obtain ⟨b, v⟩ := e'
      by_cases hk : e.1 = k
      · simp at hk'
        subst hk
        simp [mget, hk', hge]
      · have : k ≠ b := by simp at hk'; omega
        simp [mget, this, ih, hk]

theorem filterMap_rising {α : Type} (m : SMap α) (g : Nat × α → Option (Nat × α)) (hm : rising m)
    (hg : ∀ e e', g e = some e' → e'.1 = e.1) : rising (m.filterMap g) := by
  refine List.Pairwise.filterMap g (S := fun x y => x.1 < y.1) ?_ hm
  intro x y h x' hx y' hy
  rw [hg x x' hx, hg y y' hy]
  exact h

theorem resetKeep_self (r : RegId) (i : Nat) : resetKeep r i (resetWord r i) = resetWord r i := by
  apply BitVec.eq_of_getLsbD_eq
  intro j hj
  simp only [resetKeep, BitVec.getLsbD_or, BitVec.getLsbD_and, BitVec.getLsbD_not, hj]
  cases (resetWord r i).getLsbD j <;> cases (keepMask r).getLsbD j <;> rfl

/-- Bits that no reset touches. -/
theorem resetKeep_kept (r : RegId) (i lo wd : Nat) (w : Word) (h : ∀ j < wd, (keepMask r).getLsbD (lo + j) = true) (h64 : lo + wd ≤ 64) :
    fget (resetKeep r i w) lo wd = fget w lo wd := by
  apply Nat.eq_of_testBit_eq
  intro j
  simp only [fget, BitVec.testBit_toNat, BitVec.getLsbD_extractLsb']
  by_cases hj : j < wd
  · have : lo + j < 64 := by omega
    simp only [resetKeep, BitVec.getLsbD_or, BitVec.getLsbD_and, BitVec.getLsbD_not, h j hj, this, hj]
    simp
  · simp [hj]

/-- The word of an instance after `resetWhere`. -/
theorem reg_resetWhere (s : State) (q : RegId → Nat → Bool) (hs : rising s.regs) (r : RegId) (i : Nat) :
    (s.resetWhere q).reg r i = if q r i then resetKeep r i (s.reg r i) else s.reg r i := by
  have hk := ctorIdx_lt r
  have h1 : regKey r i % 256 = r.ctorIdx := by simp only [regKey]; omega
  have h2 : regKey r i / 256 = i := by simp only [regKey]; omega
  simp only [State.reg, State.resetWhere]
  rw [mget_filterMap _ _ _ hs, mget_find]
  · cases hf : s.regs.find? (fun e => decide (e.1 = regKey r i)) with
    | none => simp [resetKeep_self]
    | some e =>
      have he : e.1 = regKey r i := by simpa using List.find?_some hf
      simp only [Option.bind_some, he, h1, h2, allRegs_ctorIdx, Option.map_some, Option.getD_some]
      by_cases hq : q r i = true
      · simp only [hq, if_true]
        split
        · next hv => simp [hv]
        · simp
      · simp [hq]
  · intro e e' h
    cases hr : allRegs[e.1 % 256]? with
    | none => simp [hr] at h; rw [← h]
    | some r' =>
      simp only [hr] at h
      split at h
      · split at h
        · simp at h
        · simp at h; rw [← h]
      · simp at h; rw [← h]

theorem resetWhere_wf (s : State) (q : RegId → Nat → Bool) (h : mwf resetAt s.regs = true) : mwf resetAt (s.resetWhere q).regs = true := by
  rw [mwf_iff] at h ⊢
  constructor
  · intro e he
    simp only [State.resetWhere, List.mem_filterMap] at he
    obtain ⟨x, hx, hg⟩ := he
    cases hr : allRegs[x.1 % 256]? with
    | none => simp [hr] at hg; rw [← hg]; exact h.1 x hx
    | some r =>
      simp only [hr] at hg
      split at hg
      · split at hg
        · simp at hg
        · next hv =>
          simp at hg; rw [← hg]
          simpa [resetAt, hr] using hv
      · simp at hg; rw [← hg]; exact h.1 x hx
  · refine filterMap_rising _ _ h.2 ?_
    intro e e' hg
    cases hr : allRegs[e.1 % 256]? with
    | none => simp [hr] at hg; rw [← hg]
    | some r =>
      simp only [hr] at hg
      split at hg
      · split at hg
        · simp at hg
        · simp at hg; rw [← hg]
      · simp at hg; rw [← hg]

theorem keepMask_all (r : RegId) (h : keepMask r = BitVec.allOnes 64) (i : Nat) (w : Word) : resetKeep r i w = w := by
  apply BitVec.eq_of_getLsbD_eq
  intro j hj
  simp only [resetKeep, h, BitVec.getLsbD_or, BitVec.getLsbD_and, BitVec.getLsbD_not, BitVec.getLsbD_allOnes, hj]
  simp

theorem resetWhere_keeps {a s : State} {q : RegId → Nat → Bool} (h : Keeps a s) : Keeps a (s.resetWhere q) := by
  refine h.regs _ (resetWhere_wf s q) (fun x => ?_) (fun x => ?_) (fun x => ?_)
  all_goals have hs := ((mwf_iff _ _).1 x.regs).2
  · show (s.resetWhere q).fuses = s.fuses
    simp only [State.fuses, reg_resetWhere s q hs]
    have e1 : resetKeep .PLT_FACE_MAP 0 (s.reg .PLT_FACE_MAP 0) = s.reg .PLT_FACE_MAP 0 := keepMask_all _ rfl _ _
    have e2 : resetKeep .PLT_CAP_UNITS 0 (s.reg .PLT_CAP_UNITS 0) = s.reg .PLT_CAP_UNITS 0 := keepMask_all _ rfl _ _
    have e3 : fget (resetKeep .PLT_CAP_FACES 0 (s.reg .PLT_CAP_FACES 0)) 0 20 = fget (s.reg .PLT_CAP_FACES 0) 0 20 :=
      resetKeep_kept _ _ 0 20 _ (by decide) (by decide)
    refine Prod.ext ?_ (Prod.ext ?_ ?_)
    · simp only; split <;> [exact e1; rfl]
    · simp only; split <;> [exact e2; rfl]
    · simp only; split <;> [exact e3; rfl]
  · show (s.resetWhere q).life = s.life
    simp only [State.life, State.rd, reg_resetWhere s q hs]
    split
    · exact resetKeep_kept _ _ 0 2 _ (by decide) (by decide)
    · rfl
  · show s.floor ≤ (s.resetWhere q).floor
    refine Nat.le_of_eq (Eq.symm ?_)
    simp only [State.floor, State.rd, reg_resetWhere s q hs]
    split
    · exact resetKeep_kept _ _ 0 32 _ (by decide) (by decide)
    · rfl

theorem resetDomain_keeps {a s : State} {d : Dom} {q : RegId → Nat → Bool} (h : Keeps a s) : Keeps a (s.resetDomain d q) := resetWhere_keeps h

/-! ### Numbering the faces -/

theorem goodFaces_length (n : Nat) : (goodFaces n).length ≤ 8 := by
  simpa [goodFaces] using List.length_filter_le (fun p => decide (n / 2 ^ p % 2 = 0)) (List.range 8)

theorem facesWord_toNat (fused : Nat) (h : fused < 256) :
    (facesWord fused).toNat = 2 ^ (goodFaces fused).length - 1 + fused * 2 ^ 8 + (goodFaces fused).length * 2 ^ 16 := by
  have a := goodFaces_length fused
  have b : 2 ^ (goodFaces fused).length ≤ 2 ^ 8 := Nat.pow_le_pow_right (by decide) a
  simp only [facesWord, BitVec.toNat_ofNat]
  omega

theorem fget_toNat (w : Word) (lo wd : Nat) : fget w lo wd = w.toNat / 2 ^ lo % 2 ^ wd := by
  simp [fget, BitVec.extractLsb', Nat.shiftRight_eq_div_pow]

/-- The fuses of a device say again what numbering its faces gives. -/
theorem numberFaces_fuses (s : State) (m : Made) (hm : m.legal = true) (h : s.fuses = m.words) : s.numberFaces.fuses = s.fuses := by
  simp only [Made.legal, Bool.and_eq_true, decide_eq_true_eq] at hm
  have a := goodFaces_length m.fused
  have b : 2 ^ (goodFaces m.fused).length ≤ 2 ^ 8 := Nat.pow_le_pow_right (by decide) a
  have b1 := Nat.two_pow_pos (goodFaces m.fused).length
  simp only [State.fuses, Made.words, Prod.mk.injEq] at h
  obtain ⟨h1, h2, h3⟩ := h
  have w3 : (s.reg .PLT_CAP_FACES 0).toNat % 2 ^ 20 = 2 ^ (goodFaces m.fused).length - 1 + m.fused * 2 ^ 8 + (goodFaces m.fused).length * 2 ^ 16 := by
    have := h3
    rw [fget_toNat, fget_toNat, facesWord_toNat _ hm.1] at this
    omega
  have hf : s.rd R.PLT_CAP_FACES.FUSED 0 = m.fused := by
    show fget (s.reg .PLT_CAP_FACES 0) 8 8 = _
    rw [fget_toNat]; omega
  have hs : s.flag R.PLT_CAP_UNITS.HBM_SECOND 0 = decide (m.part.has.hbms = 8) := by
    show decide (fget (s.reg .PLT_CAP_UNITS 0) 1 1 = 1) = _
    rw [h2]; cases m.part <;> decide
  have hl : ∀ n, n = (goodFaces m.fused).length →
      ((s.wr R.PLT_CAP_FACES.LOGICAL 0 (2 ^ n - 1)).wr R.PLT_CAP_FACES.COUNT 0 n).reg .PLT_CAP_FACES 0 = s.reg .PLT_CAP_FACES 0 := by
    rintro _ rfl
    have l : 2 ^ (goodFaces m.fused).length - 1 = fget (s.reg .PLT_CAP_FACES 0) 0 8 := by rw [fget_toNat]; omega
    have c : (goodFaces m.fused).length = fget (s.reg .PLT_CAP_FACES 0) 16 4 := by rw [fget_toNat]; omega
    have e : (s.wr R.PLT_CAP_FACES.LOGICAL 0 (2 ^ (goodFaces m.fused).length - 1)).reg .PLT_CAP_FACES 0 = s.reg .PLT_CAP_FACES 0 := by
      rw [l]
      exact (reg_setReg_same ..).trans (fput_fget _ _ _ (by decide))
    refine (reg_setReg_same ..).trans ?_
    show fput (State.reg _ .PLT_CAP_FACES 0) 16 4 _ = _
    rw [e, c]
    exact fput_fget _ _ _ (by decide)
  simp only [State.numberFaces, hf, hs, State.fuses]
  refine Prod.ext ?_ (Prod.ext ?_ ?_)
  · exact (reg_setReg_same ..).trans h1.symm
  · show (State.setReg _ _ _ _).reg .PLT_CAP_UNITS 0 = _
    rw [reg_setReg_ne _ _ _ _ _ _ (by decide), reg_wr_ne _ _ _ _ _ _ (by decide), reg_wr_ne _ _ _ _ _ _ (by decide)]
  · show fget ((State.setReg _ _ _ _).reg .PLT_CAP_FACES 0) 0 20 = _
    rw [reg_setReg_ne _ _ _ _ _ _ (by decide), hl _ rfl]

theorem numberFaces_keeps {a s : State} (h : Keeps a s) : Keeps a s.numberFaces := by
  have other : ∀ r : RegId, r ≠ .PLT_CAP_FACES → r ≠ .PLT_FACE_MAP → s.numberFaces.reg r 0 = s.reg r 0 := by
    intro r h1 h2
    rw [State.numberFaces, reg_setReg_ne _ _ _ _ _ _ h2, reg_wr_ne _ _ _ _ _ _ h1, reg_wr_ne _ _ _ _ _ _ h1]
  have life : s.numberFaces.life = s.life := by simp only [State.life, State.rd]; rw [other _ (by decide) (by decide)]
  have floor : s.numberFaces.floor = s.floor := by simp only [State.floor, State.rd]; rw [other _ (by decide) (by decide)]
  refine h.trans ⟨rfl, rfl, rfl, fun x => ⟨⟨?_, x.faces, x.hbm, x.faultq, x.nvLog, x.ops, x.keys, ?_, ?_⟩,
    ⟨Nat.le_of_eq life.symm, Nat.le_of_eq floor.symm, Nat.le_refl _⟩⟩⟩
  · exact setReg_wf _ _ _ (setReg_wf _ _ _ (setReg_wf _ _ _ x.regs))
  · obtain ⟨m, hm, e⟩ := x.fuses
    exact ⟨m, hm, (numberFaces_fuses s m hm e).trans e⟩
  · intro v hv
    rw [life]
    exact x.life v hv
/-! ### Faces, HBM, the fault queue and the non-volatile store -/

theorem setFace_keeps {a s : State} {f : Nat} {x : Face} (h : Keeps a s) : Keeps a (s.setFace f x) := by
  refine h.trans ⟨rfl, rfl, rfl, fun y => ⟨⟨y.regs, mset_wf (fun _ => ({} : Face)) _ _ _ y.faces, y.hbm, y.faultq, y.nvLog, y.ops, y.keys, y.fuses, y.life⟩,
    ⟨Nat.le_refl _, Nat.le_refl _, Nat.le_refl _⟩⟩⟩

theorem modFace_keeps {a s : State} {f : Nat} {g : Face → Face} (h : Keeps a s) : Keeps a (s.modFace f g) := setFace_keeps h

/-- HBM replaced by another map in canonical form. -/
theorem Keeps.hbm {a s : State} (h : Keeps a s) (m : SMap Gran) (hm : mwf (fun _ => {}) s.hbm = true → mwf (fun _ => {}) m = true) :
    Keeps a { s with hbm := m } := by
  refine h.trans ⟨rfl, rfl, rfl, fun y => ⟨⟨y.regs, y.faces, hm y.hbm, y.faultq, y.nvLog, y.ops, y.keys, y.fuses, y.life⟩,
    ⟨Nat.le_refl _, Nat.le_refl _, Nat.le_refl _⟩⟩⟩

theorem setGran_keeps {a s : State} {g : Nat} {x : Gran} (h : Keeps a s) : Keeps a (s.setGran g x) :=
  h.hbm _ (mset_wf (fun _ => ({} : Gran)) _ _ _)

/-- The fault queue replaced by one within its bound. -/
theorem Keeps.faultq {a s : State} (h : Keeps a s) (q : List FRec) (hq : s.faultq.length ≤ 64 → q.length ≤ 64) :
    Keeps a { s with faultq := q } := by
  refine h.trans ⟨rfl, rfl, rfl, fun y => ⟨⟨y.regs, y.faces, y.hbm, hq y.faultq, y.nvLog, y.ops, y.keys, y.fuses, y.life⟩,
    ⟨Nat.le_refl _, Nat.le_refl _, Nat.le_refl _⟩⟩⟩

/-- The non-volatile store replaced by one within its bound. -/
theorem Keeps.nvLog {a s : State} (h : Keeps a s) (q : List FRec) (hq : s.nvLog.length ≤ 16 → q.length ≤ 16) :
    Keeps a { s with nvLog := q } := by
  refine h.trans ⟨rfl, rfl, rfl, fun y => ⟨⟨y.regs, y.faces, y.hbm, y.faultq, hq y.nvLog, y.ops, y.keys, y.fuses, y.life⟩,
    ⟨Nat.le_refl _, Nat.le_refl _, Nat.le_refl _⟩⟩⟩

theorem nvPut_keeps {a s : State} {r : FRec} (h : Keeps a s) : Keeps a (s.nvPut r) :=
  h.nvLog _ (fun _ => by simp; omega)

theorem mergeRec_length (now : Nat) (r : FRec) (q q' : List FRec) (h : mergeRec now r q = some q') : q'.length = q.length := by
  induction q generalizing q' with
  | nil => simp [mergeRec] at h
  | cons x q ih =>
    simp only [mergeRec] at h
    split at h
    · simp at h; rw [← h]; rfl
    · cases hm : mergeRec now r q with
      | none => simp [hm] at h
      | some y => simp [hm] at h; rw [← h]; simp [ih y hm]

theorem markOverflow_length (q : List FRec) : (markOverflow q).length = q.length := by
  induction q with
  | nil => rfl
  | cons x q ih => cases q <;> simp_all [markOverflow]

end Sys2Proof.Machine
end

