-- ==== Sys2Proof/Laws/Reset.lean ====
section
/-! SUPPORT. Resets of registers by domain, and what they leave. -/
namespace Sys2Proof.Machine

/-- The reset of a domain leaves the other domains' registers, and of its own those that `q` spares (R593). -/
theorem reg_resetDomain {s : State} (h : mwf resetAt s.regs = true) (d : Dom) (q : RegId → Nat → Bool) (r : RegId) (i : Nat) :
    (s.resetDomain d q).reg r i = if (regInfo r).dom = d ∧ q r i = true then resetKeep r i (s.reg r i) else s.reg r i := by
  unfold State.resetDomain
  rw [reg_resetWhere _ _ ((mwf_iff _ _).mp h).2]
  simp

/-- A register outside the domain reads as before. -/
theorem reg_resetDomain_ne (s : State) (h : mwf resetAt s.regs = true) (d : Dom) (q : RegId → Nat → Bool) (r : RegId) (i : Nat)
    (hd : (regInfo r).dom ≠ d) : (s.resetDomain d q).reg r i = s.reg r i := by
  rw [reg_resetDomain h, if_neg (fun k => hd k.1)]

end Sys2Proof.Machine
end

