-- ==== Sys2Proof/Laws/Events.lean ====
section
/-! SUPPORT. What the shared operations of the commands from outside the programs leave. -/
namespace Sys2Proof.Machine

/-- What holds before a loop and is kept by each of its rounds holds after it. -/
theorem loop_ind {α : Type} {P : α → Prop} (n : Nat) (s : α) (g : α → Nat → α) (h : P s) (hg : ∀ t i, i < n → P t → P (g t i)) :
    P (loop n s g) := by
  unfold loop
  have : ∀ l : List Nat, (∀ i ∈ l, i < n) → ∀ s, P s → P (l.foldl g s) := by
    intro l
    induction l with
    | nil => intro _ s h; exact h
    | cons a l ih => intro hl s h; exact ih (fun i hi => hl i (List.mem_cons_of_mem _ hi)) _ (hg _ _ (hl a (List.mem_cons_self)) h)
  exact this _ (fun i hi => List.mem_range.mp hi) s h

/-- A loop that acts on one index alone: `g` at `i` where `i` is below the bound, nothing where every other round does nothing. -/
theorem loop_one {α : Type} (n i : Nat) (s : α) (g : α → Nat → α) (hi : i < n) (h : ∀ t j, j < n → j ≠ i → g t j = t) :
    loop n s g = g s i := by
  unfold loop
  have key : ∀ l : List Nat, l.Nodup → (∀ j ∈ l, j < n) → ∀ s, l.foldl g s = if i ∈ l then g s i else s := by
    intro l
    induction l with
    | nil => intro _ _ s; simp
    | cons a l ih =>
      intro hn hl s
      obtain ⟨ha, hn⟩ := List.nodup_cons.mp hn
      rw [List.foldl_cons, ih hn (fun j hj => hl j (List.mem_cons_of_mem _ hj))]
      by_cases e : a = i
      · rw [if_neg (e ▸ ha), if_pos (by simp [e]), e]
      · rw [h s a (hl a List.mem_cons_self) e]
        simp [Ne.symm e]
  rw [key _ List.nodup_range (fun j hj => List.mem_range.mp hj), if_pos (List.mem_range.mpr hi)]

theorem wr_regs_wf {s : State} {f : Fld} {i v : Nat} (h : mwf resetAt s.regs = true) : mwf resetAt (s.wr f i v).regs = true := by
  have := mset_wf resetAt s.regs (regKey f.reg i) (fput (s.reg f.reg i) f.lo f.wd v) h
  rw [resetAt_regKey] at this
  exact this

/-- A queued record of another unit or detector does not merge (R544). -/
theorem mergeRec_none {now : Nat} {r : FRec} {q : List FRec} (h : ∀ x ∈ q, ¬ (x.unit = r.unit ∧ x.det = r.det)) :
    mergeRec now r q = none := by
  induction q with
  | nil => rfl
  | cons x q ih =>
    unfold mergeRec
    rw [if_neg (fun k => h x List.mem_cons_self ⟨k.1, k.2.1⟩), ih (fun y hy => h y (List.mem_cons_of_mem _ hy))]
    rfl

theorem raise_frame {s : State} {e : Event} (hi : s.injs = []) (hl : s.injLive = []) (hp : s.rd R.FLT_FATAL.LOG_PATH 0 = 0)
    (hm : ∀ x ∈ s.faultq, ¬ (x.unit = e.unit ∧ x.det = e.det.row.1)) (hr : s.faultq.length < 64) :
    s.raise e = ({ s with faultq := s.faultq ++ [e.record s] }).wr R.FLT_STATUS.QUEUED 0 (s.faultq.length + 1) :=
  raise_append hi hl hp (mergeRec_none hm) hr

/-! ### What is sent leaves all else as it was -/

theorem Sends.refl (s : State) : s.Sends s := rfl

theorem Sends.trans {s t u : State} (h : s.Sends t) (k : t.Sends u) : s.Sends u := by
  have e : ({ ({ u with out := t.out, txq := t.txq, ports := t.ports } : State) with out := s.out, txq := s.txq, ports := s.ports } : State) = s := by
    rw [show ({ u with out := t.out, txq := t.txq, ports := t.ports } : State) = t from k]; exact h
  exact e

/-- A field that is not of what leaves. -/
theorem Sends.same {α : Type} (p : State → α) (hp : ∀ (t : State) o x q, p { t with out := o, txq := x, ports := q } = p t) {s t : State}
    (h : s.Sends t) : p t = p s := by
  rw [← hp t s.out s.txq s.ports, show ({ t with out := s.out, txq := s.txq, ports := s.ports } : State) = s from h]

theorem Sends.regs {s t : State} (h : s.Sends t) : t.regs = s.regs := Sends.same (h := h) (p := State.regs) (fun _ _ _ _ => rfl)
theorem Sends.faces {s t : State} (h : s.Sends t) : t.faces = s.faces := Sends.same (h := h) (p := State.faces) (fun _ _ _ _ => rfl)
theorem Sends.hand {s t : State} (h : s.Sends t) : t.hand = s.hand := Sends.same (h := h) (p := State.hand) (fun _ _ _ _ => rfl)
theorem Sends.now {s t : State} (h : s.Sends t) : t.now = s.now := Sends.same (h := h) (p := State.now) (fun _ _ _ _ => rfl)
theorem Sends.rd {s t : State} (h : s.Sends t) (g : Fld) (i : Nat) : t.rd g i = s.rd g i := by
  unfold State.rd State.reg; rw [Sends.regs h]

theorem Sends.portOut (s : State) (p : Nat) (o : Out) : s.Sends (s.portOut p o) := by
  unfold State.portOut
  dsimp only
  split <;> rfl

theorem Sends.sendCtl (s : State) (d : Nat) (m : Msg) : s.Sends (s.sendCtl d m) := by
  unfold State.sendCtl
  split
  · exact Sends.portOut _ _ _
  · rfl

theorem Sends.sendTree (s : State) (m : Msg) : s.Sends (s.sendTree m) := by
  unfold State.sendTree
  dsimp only
  refine loop_ind (P := fun (t : State) => s.Sends t) _ _ _ rfl (fun t p _ h => ?_)
  split
  · exact Sends.trans h (Sends.portOut _ _ _)
  · exact h

end Sys2Proof.Machine
end

