-- ==== Sys2Proof/Laws/KeepOps.lean ====
section
/-! SUPPORT. What the operations of Machine/Ops.lean, Machine/Operands.lean, Machine/Control.lean, Machine/Sync.lean, Machine/Hbm.lean, Machine/Queue.lean, Machine/Movement.lean, Machine/Engines.lean keep: one lemma per operation. -/
namespace Sys2Proof.Machine

theorem draw_keeps {a : State} {z0 : State} (h : Keeps a z0) :
    Keeps a (State.draw z0).2 := by
  unfold State.draw
  repeat' first
    | with_reducible assumption
    | fail_if_no_progress with_reducible refine Keeps.mk ?_ rfl rfl rfl

theorem setDown_keeps {a : State} {z0 : State} {z1 : Nat} {z2 : Bool} (h : Keeps a z0) :
    Keeps a (State.setDown z0 z1 z2) := by
  unfold State.setDown
  repeat' first
    | with_reducible assumption
    | exact rfl
    | with_reducible refine wr_keeps ?_ ?_

theorem emit_keeps {a : State} {z0 : State} {z1 : Out} (h : Keeps a z0) :
    Keeps a (State.emit z0 z1) := by
  unfold State.emit
  repeat' first
    | with_reducible assumption
    | fail_if_no_progress with_reducible refine Keeps.mk ?_ rfl rfl rfl

theorem msix_keeps {a : State} {z0 : State} {z1 : Nat} {z2 : Nat} (h : Keeps a z0) :
    Keeps a (State.msix z0 z1 z2) := by
  unfold State.msix
  repeat' first
    | with_reducible assumption
    | with_reducible refine emit_keeps ?_

theorem hostWrite_keeps {a : State} {z0 : State} {z1 : Nat} {z2 : Nat} {z3 : List Word} (h : Keeps a z0) :
    Keeps a (State.hostWrite z0 z1 z2 z3) := by
  unfold State.hostWrite
  repeat' first
    | with_reducible assumption
    | with_reducible refine emit_keeps ?_

theorem portOut_keeps {a : State} {z0 : State} {z1 : Nat} {z2 : Out} (h : Keeps a z0) :
    Keeps a (State.portOut z0 z1 z2) := by
  unfold State.portOut
  repeat' first
    | with_reducible assumption
    | with_reducible refine emit_keeps ?_
    | with_reducible refine Keeps.ite ?_ ?_
    | fail_if_no_progress with_reducible refine Keeps.mk ?_ rfl rfl rfl

theorem portFlush_keeps {a : State} {z0 : State} {z1 : Nat} (h : Keeps a z0) :
    Keeps a (State.portFlush z0 z1) := by
  unfold State.portFlush
  repeat' first
    | with_reducible assumption
    | intro _
    | with_reducible refine portOut_keeps ?_
    | with_reducible refine Keeps.foldl ?_ ?_
    | fail_if_no_progress with_reducible refine Keeps.mk ?_ rfl rfl rfl

theorem sendCtl_keeps {a : State} {z0 : State} {z1 : Nat} {z2 : Msg} (h : Keeps a z0) :
    Keeps a (State.sendCtl z0 z1 z2) := by
  unfold State.sendCtl
  repeat' first
    | with_reducible assumption
    | with_reducible refine portOut_keeps ?_
    | split

theorem forwardCtl_keeps {a : State} {z0 : State} {z1 : Nat} {z2 : Nat} {z3 : Nat} {z4 : Msg} (h : Keeps a z0) :
    Keeps a (State.forwardCtl z0 z1 z2 z3 z4) := by
  unfold State.forwardCtl
  repeat' first
    | with_reducible assumption
    | exact rfl
    | with_reducible refine portOut_keeps ?_
    | with_reducible refine bump_keeps ?_ ?_
    | split

theorem sendTree_keeps {a : State} {z0 : State} {z1 : Msg} (h : Keeps a z0) :
    Keeps a (State.sendTree z0 z1) := by
  unfold State.sendTree
  repeat' first
    | with_reducible assumption
    | intro _
    | with_reducible refine portOut_keeps ?_
    | with_reducible refine Keeps.loop ?_ ?_
    | with_reducible refine Keeps.ite ?_ ?_

theorem badMsg_keeps {a : State} {z0 : State} {z1 : Nat} (h : Keeps a z0) :
    Keeps a (State.badMsg z0 z1) := by
  unfold State.badMsg
  repeat' first
    | with_reducible assumption
    | exact rfl
    | with_reducible refine bump_keeps ?_ ?_

theorem advance_keeps {a : State} {z0 : State} {z1 : Nat} (h : Keeps a z0) :
    Keeps a (State.advance z0 z1) := by
  unfold State.advance
  repeat' first
    | with_reducible assumption
    | fail_if_no_progress with_reducible refine Keeps.mk ?_ rfl rfl rfl

theorem faultN_keeps {a : State} {z0 : State} (h : Keeps a z0) :
    Keeps a (State.faultN z0) := by
  unfold State.faultN
  repeat' first
    | with_reducible assumption
    | exact rfl
    | with_reducible refine wrB_keeps ?_ ?_

theorem inject_keeps {a : State} {z0 : State} {z1 : Det} {z2 : Nat} {z3 : Nat → Bool} {u : Nat × State} (e : State.inject z0 z1 z2 z3 = some u) (h : Keeps a z0) :
    Keeps a u.2 := by
  unfold State.inject at e
  try dsimp only at e
  repeat' split at e
  all_goals first | (injection e with e; subst e) | (injection e)
  repeat' first
    | with_reducible assumption
    | exact rfl
    | with_reducible refine bump_keeps ?_ ?_
    | with_reducible refine wr_keeps ?_ ?_
    | fail_if_no_progress with_reducible refine Keeps.mk ?_ rfl rfl rfl

theorem forced_keeps {a : State} {z0 : State} {z1 : Det} {z2 : Nat} (h : Keeps a z0) :
    Keeps a (State.forced z0 z1 z2).2 := by
  unfold State.forced
  repeat' first
    | with_reducible assumption
    | with_reducible refine inject_keeps (by assumption) ?_
    | split

theorem marked_keeps {a : State} {z0 : State} {z1 : Event} (h : Keeps a z0) :
    Keeps a (State.marked z0 z1).1 := by
  unfold State.marked
  repeat' first
    | with_reducible assumption
    | with_reducible refine inject_keeps (by assumption) ?_
    | fail_if_no_progress with_reducible refine Keeps.mk ?_ rfl rfl rfl
    | split

theorem raise_keeps {a : State} {z0 : State} {z1 : Event} (h : Keeps a z0) : Keeps a (State.raise z0 z1) := by
  have hm : Keeps a (z0.marked z1).1 := marked_keeps h
  unfold State.raise
  dsimp only
  split
  · exact bump_keeps hm
  · split
    · next q hq => exact hm.faultq _ (fun hl => by rw [mergeRec_length _ _ _ _ hq]; exact hl)
    · split
      · next hl => exact wr_keeps (hm.faultq _ (fun _ => by simp; omega))
      · refine wr_keeps (bump_keeps ?_)
        have hq := hm.faultq (markOverflow (z0.marked z1).1.faultq) (fun hl => by rw [markOverflow_length]; exact hl)
        split
        · exact nvPut_keeps hq
        · exact hq

theorem homeLost_keeps {a : State} {z0 : State} {z1 : Nat} (h : Keeps a z0) :
    Keeps a (State.homeLost z0 z1) := by
  unfold State.homeLost State.trickGone
  repeat' first
    | with_reducible assumption
    | intro _
    | exact rfl
    | with_reducible refine wr_keeps ?_ ?_
    | with_reducible refine Keeps.loop ?_ ?_
    | with_reducible refine Keeps.ite ?_ ?_
    | fail_if_no_progress with_reducible refine Keeps.mk ?_ rfl rfl rfl

theorem faceFault_keeps {a : State} {z0 : State} {z1 : Nat} {z2 : Nat} (h : Keeps a z0) :
    Keeps a (State.faceFault z0 z1 z2) := by
  unfold State.faceFault
  repeat' first
    | with_reducible assumption
    | with_reducible refine modFace_keeps ?_
    | with_reducible refine raise_keeps ?_
    | with_reducible refine homeLost_keeps ?_
    | with_reducible refine setDown_keeps ?_
    | with_reducible refine Keeps.ite ?_ ?_

theorem padTouch_keeps {a : State} {z0 : State} {z1 : Nat} {z2 : Nat} (h : Keeps a z0) :
    Keeps a (State.padTouch z0 z1 z2) := by
  unfold State.padTouch
  repeat' first
    | with_reducible assumption
    | exact rfl
    | with_reducible refine bump_keeps ?_ ?_
    | with_reducible refine modFace_keeps ?_
    | with_reducible refine raise_keeps ?_
    | with_reducible refine Keeps.ite ?_ ?_
    | dsimp only
    | split

theorem padTouchRange_keeps {a : State} {z0 : State} {z1 : Nat} {z2 : Nat} {z3 : Nat} (h : Keeps a z0) :
    Keeps a (State.padTouchRange z0 z1 z2 z3) := by
  unfold State.padTouchRange
  repeat' first
    | with_reducible assumption
    | intro _
    | with_reducible refine padTouch_keeps ?_
    | with_reducible refine Keeps.loop ?_ ?_
    | with_reducible refine Keeps.ite ?_ ?_

theorem injStored_keeps {a : State} {z0 : State} {z1 : Nat} {z2 : Nat} {z3 : Nat} (h : Keeps a z0) :
    Keeps a (State.injStored z0 z1 z2 z3) := by
  unfold State.injStored
  repeat' first
    | with_reducible assumption
    | intro _
    | with_reducible refine inject_keeps (by assumption) ?_
    | with_reducible refine modFace_keeps ?_
    | with_reducible refine Keeps.loop ?_ ?_
    | with_reducible refine Keeps.ite ?_ ?_
    | dsimp only
    | split

theorem injBytes_keeps {a : State} {z0 : State} {z1 : Nat} {z2 : Nat} {z3 : Nat} (h : Keeps a z0) :
    Keeps a (State.injBytes z0 z1 z2 z3) := by
  unfold State.injBytes
  repeat' first
    | with_reducible assumption
    | with_reducible refine injStored_keeps ?_
    | with_reducible refine Keeps.ite ?_ ?_

theorem padWrite_keeps {a : State} {z0 : State} {z1 : Nat} {z2 : Nat} {z3 : List Nat} {z4 : Bool} (h : Keeps a z0) :
    Keeps a (State.padWrite z0 z1 z2 z3 z4) := by
  unfold State.padWrite
  repeat' first
    | with_reducible assumption
    | with_reducible refine padTouch_keeps ?_
    | with_reducible refine injBytes_keeps ?_
    | with_reducible refine modFace_keeps ?_
    | with_reducible refine Keeps.ite ?_ ?_

theorem padStore_keeps {a : State} {z0 : State} {z1 : Nat} {z2 : Nat} {z3 : List (Nat × Bool)} (h : Keeps a z0) :
    Keeps a (State.padStore z0 z1 z2 z3) := by
  unfold State.padStore
  repeat' first
    | with_reducible assumption
    | with_reducible refine padTouch_keeps ?_
    | with_reducible refine injBytes_keeps ?_
    | with_reducible refine modFace_keeps ?_
    | with_reducible refine Keeps.ite ?_ ?_

theorem stampWith_keeps {a : State} {z0 : State} {z1 : Nat} (h : Keeps a z0) :
    Keeps a (State.stampWith z0 z1) := by
  unfold State.stampWith
  repeat' first
    | with_reducible assumption
    | fail_if_no_progress with_reducible refine Keeps.mk ?_ rfl rfl rfl

theorem raceWrite_keeps {a : State} {z0 : State} {z1 : Face} {z2 : Nat} {z3 : Nat} {z4 : Nat} (h : Keeps a z0) :
    Keeps a (State.raceWrite z0 z1 z2 z3 z4) := by
  unfold State.raceWrite
  repeat' first
    | with_reducible assumption
    | intro _
    | with_reducible refine modFace_keeps ?_
    | with_reducible refine draw_keeps ?_
    | with_reducible refine Keeps.foldl ?_ ?_
    | with_reducible refine Keeps.loop ?_ ?_
    | with_reducible refine Keeps.ite ?_ ?_

theorem progStore_keeps {a : State} {z0 : State} {z1 : Nat} {z2 : Nat} {z3 : List (Nat × Bool)} (h : Keeps a z0) :
    Keeps a (State.progStore z0 z1 z2 z3) := by
  unfold State.progStore
  repeat' first
    | with_reducible assumption
    | with_reducible refine raceWrite_keeps ?_
    | with_reducible refine padStore_keeps ?_
    | with_reducible refine Keeps.ite ?_ ?_

theorem putArrival_keeps {a : State} {z0 : State} {z1 : Nat} {z2 : Nat} {z3 : List (Word × Bool)} (h : Keeps a z0) :
    Keeps a (State.putArrival z0 z1 z2 z3) := by
  unfold State.putArrival
  repeat' first
    | with_reducible assumption
    | exact rfl
    | with_reducible refine bump_keeps ?_ ?_
    | with_reducible refine modFace_keeps ?_
    | split

theorem ctrAdd_keeps {a : State} {z0 : State} {z1 : Nat} {z2 : Nat} {z3 : Int} {u : State} (e : State.ctrAdd z0 z1 z2 z3 = some u) (h : Keeps a z0) :
    Keeps a u := by
  unfold State.ctrAdd at e
  try dsimp only at e
  repeat' split at e
  all_goals first | (injection e with e; subst e) | (injection e)
  repeat' first
    | with_reducible assumption
    | with_reducible refine modFace_keeps ?_

theorem revokeRecord_keeps {a : State} {z0 : State} {z1 : Nat} {z2 : Word} (h : Keeps a z0) :
    Keeps a (State.revokeRecord z0 z1 z2) := by
  unfold State.revokeRecord
  repeat' first
    | with_reducible assumption
    | exact rfl
    | with_reducible refine raise_keeps ?_
    | with_reducible refine bump_keeps ?_ ?_

theorem retireEnd_keeps {a : State} {z0 : State} {z1 : Nat} (h : Keeps a z0) :
    Keeps a (State.retireEnd z0 z1) := by
  unfold State.retireEnd
  repeat' first
    | with_reducible assumption
    | with_reducible refine modFace_keeps ?_

theorem trapStat_keeps {a : State} {z0 : State} {z1 : Nat} {z2 : Nat} {z3 : Nat} (h : Keeps a z0) :
    Keeps a (State.trapStat z0 z1 z2 z3) := by
  unfold State.trapStat
  repeat' first
    | with_reducible assumption
    | exact rfl
    | with_reducible refine wr_keeps ?_ ?_

theorem trapRecord_keeps {a : State} {z0 : State} {z1 : Nat} {z2 : Nat} {z3 : Word} {z4 : Nat} (h : Keeps a z0) :
    Keeps a (State.trapRecord z0 z1 z2 z3 z4) := by
  unfold State.trapRecord
  repeat' first
    | with_reducible assumption
    | with_reducible refine raise_keeps ?_

theorem takeFault_keeps {a : State} {z0 : State} {z1 : Nat} {z2 : Nat} {z3 : Word} {z4 : Nat} (h : Keeps a z0) :
    Keeps a (State.takeFault z0 z1 z2 z3 z4) := by
  unfold State.takeFault
  repeat' first
    | with_reducible assumption
    | exact rfl
    | with_reducible refine modFace_keeps ?_
    | with_reducible refine bump_keeps ?_ ?_
    | with_reducible refine trapStat_keeps ?_
    | with_reducible refine trapRecord_keeps ?_
    | with_reducible refine faceFault_keeps ?_
    | with_reducible refine wr_keeps ?_ ?_
    | with_reducible refine Keeps.ite ?_ ?_
    | dsimp only
    | split

theorem takeWarning_keeps {a : State} {z0 : State} {z1 : Nat} {z2 : Nat} (h : Keeps a z0) :
    Keeps a (State.takeWarning z0 z1 z2) := by
  unfold State.takeWarning
  repeat' first
    | with_reducible assumption
    | exact rfl
    | with_reducible refine modFace_keeps ?_
    | with_reducible refine bump_keeps ?_ ?_
    | with_reducible refine trapStat_keeps ?_
    | with_reducible refine Keeps.ite ?_ ?_
    | dsimp only
    | split

theorem tryEnd_keeps {a : State} {z0 : State} {z1 : Nat} (h : Keeps a z0) :
    Keeps a (State.tryEnd z0 z1) := by
  unfold State.tryEnd
  repeat' first
    | with_reducible assumption
    | with_reducible refine retireEnd_keeps ?_
    | with_reducible refine takeFault_keeps ?_
    | with_reducible refine revokeRecord_keeps ?_
    | with_reducible refine Keeps.ite ?_ ?_
    | split

theorem wake_keeps {a : State} {z0 : State} {z1 : Nat} (h : Keeps a z0) :
    Keeps a (State.wake z0 z1) := by
  unfold State.wake
  repeat' first
    | with_reducible assumption
    | with_reducible refine ctrAdd_keeps (by assumption) ?_
    | with_reducible refine modFace_keeps ?_
    | with_reducible refine tryEnd_keeps ?_
    | with_reducible refine Keeps.ite ?_ ?_
    | dsimp only
    | split

theorem trapFault_keeps {a : State} {z0 : State} {z1 : Nat} {z2 : Nat} {z3 : Word} {z4 : Nat} (h : Keeps a z0) :
    Keeps a (State.trapFault z0 z1 z2 z3 z4) := by
  unfold State.trapFault
  repeat' first
    | with_reducible assumption
    | with_reducible refine wake_keeps ?_
    | with_reducible refine takeFault_keeps ?_

theorem signal_keeps {a : State} {z0 : State} {z1 : Nat} {z2 : Nat} {z3 : Int} {z4 : Nat} {z5 : Nat} {z6 : Nat} {z7 : Nat} (h : Keeps a z0) :
    Keeps a (State.signal z0 z1 z2 z3 z4 z5 z6 z7) := by
  unfold State.signal
  repeat' first
    | with_reducible assumption
    | with_reducible refine ctrAdd_keeps (by assumption) ?_
    | with_reducible refine wake_keeps ?_
    | with_reducible refine trapFault_keeps ?_
    | with_reducible refine revokeRecord_keeps ?_
    | dsimp only
    | split

theorem setErr_keeps {a : State} {z0 : State} {z1 : Nat} {z2 : Nat} (h : Keeps a z0) :
    Keeps a (State.setErr z0 z1 z2) := by
  unfold State.setErr
  repeat' first
    | with_reducible assumption
    | exact rfl
    | with_reducible refine bump_keeps ?_ ?_
    | with_reducible refine modFace_keeps ?_

theorem takeTraps_keeps {a : State} {z0 : State} {z1 : Nat} {z2 : Nat} {z3 : List (Nat × Word)} (h : Keeps a z0) :
    Keeps a (State.takeTraps z0 z1 z2 z3) := by
  cases z3 with
  | nil => exact h
  | cons t ts => exact trapFault_keeps (Keeps.foldl h (fun _ _ k => trapRecord_keeps k))

/-- What an instruction's execution answers keeps what `Keeps` says. -/
def Done.Keeps (a : State) : Done → Prop
  | .next t => Machine.Keeps a t
  | .jump t _ => Machine.Keeps a t
  | .trap _ _ => True
  | .traps _ _ _ => True
  | .trapIn t _ _ => Machine.Keeps a t
  | .hold t => Machine.Keeps a t
  | .stall t _ => Machine.Keeps a t
  | .whole t => Machine.Keeps a t

theorem Done.keeps_next {a t : State} (h : Machine.Keeps a t) : Done.Keeps a (.next t) := h
theorem Done.keeps_jump {a t : State} {n : Nat} (h : Machine.Keeps a t) : Done.Keeps a (.jump t n) := h
theorem Done.keeps_trapIn {a t : State} {n : Nat} {w : Word} (h : Machine.Keeps a t) : Done.Keeps a (.trapIn t n w) := h
theorem Done.keeps_hold {a t : State} (h : Machine.Keeps a t) : Done.Keeps a (.hold t) := h
theorem Done.keeps_stall {a t : State} {y : Stall} (h : Machine.Keeps a t) : Done.Keeps a (.stall t y) := h
theorem Done.keeps_whole {a t : State} (h : Machine.Keeps a t) : Done.Keeps a (.whole t) := h
theorem Done.keeps_ite {a : State} {c : Prop} [Decidable c] {x y : Done} (h : Done.Keeps a x) (k : Done.Keeps a y) :
    Done.Keeps a (if c then x else y) := by split <;> assumption
theorem Done.keeps_orElse {a : State} {o : Option Done} {x : Done} (h : ∀ d, o = some d → Done.Keeps a d) (k : Done.Keeps a x) :
    Done.Keeps a (.orElse o x) := by
  cases o with
  | some d => exact h d rfl
  | none => exact k
theorem Done.keeps_orHold {a : State} {o : Option State} {x : Done} (h : ∀ d, o = some d → Machine.Keeps a d) (k : Done.Keeps a x) :
    Done.Keeps a (.orHold o x) := by
  cases o with
  | some d => exact h d rfl
  | none => exact k
theorem Done.keeps_orTraps {a : State} {ts : List (Option (Nat × Word))} {x : Done} (k : Done.Keeps a x) : Done.Keeps a (.orTraps ts x) := by
  unfold Done.orTraps
  split
  · exact k
  · trivial
theorem Done.keeps_checked {a : State} {b : Option (Nat × Word)} {cs : List (Bool × Nat)} {r : Option RFail} {x : Done} (k : Done.Keeps a x) :
    Done.Keeps a (checked b cs r x) := Done.keeps_orTraps k

theorem issue_keeps {a s : State} {f : Nat} {w : IWord} {m : Form} {body : State → Face → Done} (h : Keeps a s)
    (hb : ∀ t x, Keeps a t → Done.Keeps a (body t x)) : Keeps a (issue s f w m body) := by
  unfold issue
  dsimp only
  split
  · exact h
  · split
    · exact trapFault_keeps h
    · split
      · exact takeTraps_keeps (raise_keeps (bump_keeps h))
      · have h1 : Keeps a (s.bumpBy R.FCE_STORE_ERR.CORRECTED f ((s.face f).fixedWords (s.face f).pc (m.len + 1))) := bumpBy_keeps h
        split
        · exact trapFault_keeps h1
        · split
          · exact modFace_keeps h1
          · have hd := hb _ (s.face f) h1
            split
            · next t e => rw [e] at hd; exact modFace_keeps (bump_keeps hd)
            · next t n e => rw [e] at hd; exact modFace_keeps (bump_keeps hd)
            · next v i e => exact trapFault_keeps h1
            · next v i r e => exact takeTraps_keeps h1
            · next t v i e => rw [e] at hd; exact trapFault_keeps hd
            · next t e => rw [e] at hd; exact hd
            · next t y e => rw [e] at hd; exact wake_keeps (modFace_keeps (bump_keeps hd))
            · next t e => rw [e] at hd; exact bump_keeps hd
/-- A check whose every answer is a trap without a state. -/
theorem wordFault_done {a s : State} {f : Nat} {w : Word} {b : Bool} {d : Done} (e : wordFault s f w b = some d) : Done.Keeps a d := by
  unfold wordFault at e
  dsimp only at e
  repeat' split at e
  all_goals first | (injection e with e; subst e; trivial) | injection e

theorem issueRD_keeps {a : State} {z0 : State} {z1 : Nat} {z2 : IWord} {z3 : Form} {z4 : Face → Word} (h : Keeps a z0) :
    Keeps a (issueRD z0 z1 z2 z3 z4) := by
  unfold issueRD
  repeat' first
    | with_reducible assumption
    | intro _
    | with_reducible refine issue_keeps ?_ ?_
    | with_reducible refine modFace_keeps ?_
    | with_reducible refine Done.keeps_next ?_

theorem issuePD_keeps {a : State} {z0 : State} {z1 : Nat} {z2 : IWord} {z3 : Form} {z4 : Face → Bool} (h : Keeps a z0) :
    Keeps a (issuePD z0 z1 z2 z3 z4) := by
  unfold issuePD
  repeat' first
    | with_reducible assumption
    | intro _
    | with_reducible refine issue_keeps ?_ ?_
    | with_reducible refine modFace_keeps ?_
    | with_reducible refine Done.keeps_next ?_

theorem sbStall_keeps {a : State} {z0 : State} {z1 : Nat} {z2 : List (Word × Bool)} {u : State} (e : State.sbStall z0 z1 z2 = some u) (h : Keeps a z0) :
    Keeps a u := by
  unfold State.sbStall at e
  try dsimp only at e
  repeat' split at e
  all_goals first | (injection e with e; subst e) | (injection e)
  repeat' first
    | with_reducible assumption
    | exact rfl
    | with_reducible refine bump_keeps ?_ ?_

theorem sbNote_keeps {a : State} {z0 : State} {z1 : Nat} {z2 : Nat} (h : Keeps a z0) :
    Keeps a (State.sbNote z0 z1 z2) := by
  unfold State.sbNote
  repeat' first
    | with_reducible assumption
    | exact rfl
    | with_reducible refine wr_keeps ?_ ?_

theorem branchTo_keeps {a : State} {z0 : State} {z1 : Face} {z2 : Nat} (h : Keeps a z0) :
    Done.Keeps a (branchTo z0 z1 z2) := by
  unfold branchTo
  repeat' first
    | with_reducible assumption
    | exact trivial
    | with_reducible refine Done.keeps_jump ?_
    | with_reducible refine Done.keeps_ite ?_ ?_

theorem rteResume_keeps {a : State} {z0 : State} {z1 : Nat} (h : Keeps a z0) :
    Keeps a (State.rteResume z0 z1) := by
  unfold State.rteResume
  repeat' first
    | with_reducible assumption
    | exact rfl
    | with_reducible refine bump_keeps ?_ ?_
    | with_reducible refine setFace_keeps ?_
    | with_reducible refine trapStat_keeps ?_
    | with_reducible refine Keeps.ite ?_ ?_
    | dsimp only
    | split

theorem setRange_keeps {a : State} {z0 : State} {z1 : Nat} {z2 : Nat} {z3 : Nat} {z4 : Nat} {z5 : Nat} {z6 : Bool} (h : Keeps a z0) :
    Done.Keeps a (setRange z0 z1 z2 z3 z4 z5 z6) := by
  unfold setRange
  repeat' first
    | with_reducible assumption
    | with_reducible refine modFace_keeps ?_
    | exact trivial
    | with_reducible refine Done.keeps_next ?_
    | with_reducible refine Done.keeps_ite ?_ ?_

theorem ownChange_keeps {a : State} {z0 : State} {z1 : Nat} {z2 : Nat} {z3 : Int} (h : Keeps a z0) :
    Done.Keeps a (ownChange z0 z1 z2 z3) := by
  unfold ownChange
  repeat' first
    | with_reducible assumption
    | with_reducible refine ctrAdd_keeps (by assumption) ?_
    | with_reducible refine revokeRecord_keeps ?_
    | with_reducible refine Done.keeps_next ?_
    | with_reducible refine Done.keeps_trapIn ?_
    | dsimp only
    | split

theorem ringGuard_keeps {a : State} {z0 : State} {z1 : RKind} {z2 : Nat → Bool} {z3 : State → State} (h : Keeps a z0) (hg3 : ∀ t, Keeps a t → Keeps a (z3 t)) :
    Keeps a (State.ringGuard z0 z1 z2 z3) := by
  unfold State.ringGuard
  repeat' first
    | with_reducible assumption
    | with_reducible refine hg3 _ ?_
    | fail_if_no_progress with_reducible refine Keeps.mk ?_ rfl rfl rfl
    | split

theorem trickReleased_keeps {a : State} {z0 : State} {z1 : Nat} {z2 : Nat} (h : Keeps a z0) :
    Keeps a (State.trickReleased z0 z1 z2) := by
  unfold State.trickReleased
  repeat' first
    | with_reducible assumption
    | with_reducible refine wake_keeps ?_
    | with_reducible refine modFace_keeps ?_

theorem trickPlay_keeps {a : State} {z0 : State} {z1 : Nat} {z2 : Nat} {z3 : Nat} (h : Keeps a z0) :
    Keeps a (State.trickPlay z0 z1 z2 z3) := by
  unfold State.trickPlay
  repeat' first
    | with_reducible assumption
    | exact rfl
    | with_reducible refine wr_keeps ?_ ?_
    | with_reducible refine trickReleased_keeps ?_
    | with_reducible refine Keeps.ite ?_ ?_
    | fail_if_no_progress with_reducible refine Keeps.mk ?_ rfl rfl rfl

theorem dtrickShow_keeps {a : State} {z0 : State} {z1 : Nat} (h : Keeps a z0) :
    Keeps a (State.dtrickShow z0 z1) := by
  unfold State.dtrickShow
  repeat' first
    | with_reducible assumption
    | exact rfl
    | with_reducible refine wr_keeps ?_ ?_

theorem dtrickShows_keeps {a : State} {z0 : State} (h : Keeps a z0) :
    Keeps a (State.dtrickShows z0) := by
  unfold State.dtrickShows
  repeat' first
    | with_reducible assumption
    | intro _
    | with_reducible refine dtrickShow_keeps ?_
    | with_reducible refine Keeps.foldl ?_ ?_

theorem dtrickReleased_keeps {a : State} {z0 : State} {z1 : Nat} {z2 : Nat} (h : Keeps a z0) :
    Keeps a (State.dtrickReleased z0 z1 z2) := by
  unfold State.dtrickReleased
  repeat' first
    | with_reducible assumption
    | intro _
    | with_reducible refine wake_keeps ?_
    | with_reducible refine modFace_keeps ?_
    | with_reducible refine Keeps.loop ?_ ?_

theorem dtrickRefused_keeps {a : State} {z0 : State} {z1 : Nat} {z2 : Nat} {z3 : Nat} (h : Keeps a z0) :
    Keeps a (State.dtrickRefused z0 z1 z2 z3) := by
  unfold State.dtrickRefused
  repeat' first
    | with_reducible assumption
    | intro _
    | with_reducible refine trapFault_keeps ?_
    | with_reducible refine revokeRecord_keeps ?_
    | with_reducible refine modFace_keeps ?_
    | with_reducible refine Keeps.loop ?_ ?_
    | dsimp only
    | split

theorem dtrickPlay_keeps {a : State} {z0 : State} {z1 : Nat} {z2 : Nat} {z3 : Nat} (h : Keeps a z0) :
    Keeps a (State.dtrickPlay z0 z1 z2 z3) := by
  unfold State.dtrickPlay
  repeat' first
    | with_reducible assumption
    | with_reducible refine dtrickRefused_keeps ?_
    | with_reducible refine sendCtl_keeps ?_
    | with_reducible refine dtrickReleased_keeps ?_
    | with_reducible refine sendTree_keeps ?_
    | with_reducible refine dtrickShow_keeps ?_
    | with_reducible refine Keeps.ite ?_ ?_
    | fail_if_no_progress with_reducible refine Keeps.mk ?_ rfl rfl rfl

theorem withdrawPlays_keeps {a : State} {z0 : State} {z1 : Nat} (h : Keeps a z0) :
    Keeps a (State.withdrawPlays z0 z1) := by
  unfold State.withdrawPlays
  repeat' first
    | with_reducible assumption
    | intro _
    | with_reducible refine dtrickShow_keeps ?_
    | with_reducible refine Keeps.foldl ?_ ?_
    | with_reducible refine Keeps.ite ?_ ?_
    | fail_if_no_progress with_reducible refine Keeps.mk ?_ rfl rfl rfl

theorem trickRevoke_keeps {a : State} {z0 : State} {z1 : Nat} {z2 : Nat} {z3 : Int} (h : Keeps a z0) :
    Done.Keeps a (trickRevoke z0 z1 z2 z3) := by
  unfold trickRevoke
  repeat' first
    | with_reducible assumption
    | with_reducible refine revokeRecord_keeps ?_
    | with_reducible refine Done.keeps_trapIn ?_

theorem managerRevoke_keeps {a : State} {z0 : State} {z1 : Nat} {z2 : Nat} (h : Keeps a z0) :
    Done.Keeps a (managerRevoke z0 z1 z2) := by
  unfold managerRevoke
  repeat' first
    | with_reducible assumption
    | with_reducible refine revokeRecord_keeps ?_
    | with_reducible refine Done.keeps_trapIn ?_

theorem bdyTricks_keeps {a : State} {z0 : State} (h : Keeps a z0) :
    Keeps a (State.bdyTricks z0) := by
  unfold State.bdyTricks
  repeat' first
    | with_reducible assumption
    | intro _
    | exact rfl
    | with_reducible refine wr_keeps ?_ ?_
    | with_reducible refine Keeps.foldl ?_ ?_
    | fail_if_no_progress with_reducible refine Keeps.mk ?_ rfl rfl rfl
    | dsimp only
    | split

theorem orNow_keeps {a : State} {z0 : State} {z1 : State → State} (h : Keeps a z0) (hg1 : ∀ t, Keeps a t → Keeps a (z1 t)) :
    Keeps a (State.orNow z0 z1) := by
  unfold State.orNow
  repeat' first
    | with_reducible assumption
    | with_reducible refine hg1 _ ?_
    | with_reducible refine Keeps.ite ?_ ?_

theorem ringApply_keeps {a : State} {z0 : State} {z1 : RMsg} (h : Keeps a z0) :
    Keeps a (State.ringApply z0 z1) := by
  unfold State.ringApply
  repeat' first
    | with_reducible assumption
    | with_reducible refine signal_keeps ?_
    | with_reducible refine trickPlay_keeps ?_
    | with_reducible refine trickReleased_keeps ?_
    | split

theorem ringDrain_keeps {a : State} {z0 : State} (h : Keeps a z0) :
    Keeps a (State.ringDrain z0) := by
  unfold State.ringDrain
  repeat' first
    | with_reducible assumption
    | intro _
    | with_reducible refine ringApply_keeps ?_
    | with_reducible refine Keeps.foldl ?_ ?_
    | fail_if_no_progress with_reducible refine Keeps.mk ?_ rfl rfl rfl

theorem ringBad_keeps {a : State} {z0 : State} {z1 : RingMsg} {z2 : Nat} (h : Keeps a z0) :
    Keeps a (State.ringBad z0 z1 z2) := by
  unfold State.ringBad
  repeat' first
    | with_reducible assumption
    | intro _
    | exact rfl
    | with_reducible refine raise_keeps ?_
    | with_reducible refine faultN_keeps ?_
    | with_reducible refine wr_keeps ?_ ?_
    | with_reducible refine faceFault_keeps ?_
    | with_reducible refine Keeps.foldl ?_ ?_
    | with_reducible refine Keeps.ite ?_ ?_

theorem ringChecks_keeps {a : State} {z0 : State} {z1 : RingMsg} {z2 : List Nat} {z3 : Option Nat} (h : Keeps a z0) :
    Keeps a (State.ringChecks z0 z1 z2 z3).1 := by
  unfold State.ringChecks
  repeat' first
    | with_reducible assumption
    | intro _
    | exact rfl
    | with_reducible refine bump_keeps ?_ ?_
    | with_reducible refine inject_keeps (by assumption) ?_
    | with_reducible refine Keeps.foldl ?_ ?_
    | with_reducible refine Keeps.foldl_fst ?_ ?_
    | split

theorem hostSignal_keeps {a : State} {z0 : State} {z1 : Nat} {z2 : Nat} {z3 : Int} {z4 : Nat} (h : Keeps a z0) :
    Keeps a (State.hostSignal z0 z1 z2 z3 z4) := by
  unfold State.hostSignal
  repeat' first
    | with_reducible assumption
    | exact rfl
    | with_reducible refine ctrAdd_keeps (by assumption) ?_
    | with_reducible refine raise_keeps ?_
    | with_reducible refine bump_keeps ?_ ?_
    | split

theorem metaPoison_keeps {a : State} {z0 : State} {z1 : Nat} (h : Keeps a z0) :
    Keeps a (State.metaPoison z0 z1) := by
  unfold State.metaPoison
  repeat' first
    | with_reducible assumption
    | intro _
    | with_reducible refine setGran_keeps ?_
    | with_reducible refine Keeps.loop ?_ ?_
    | fail_if_no_progress with_reducible refine Keeps.mk ?_ rfl rfl rfl

theorem hbmRead_keeps {a : State} {z0 : State} {z1 : Nat} (h : Keeps a z0) :
    Keeps a (State.hbmRead z0 z1).1 := by
  unfold State.hbmRead
  repeat' first
    | with_reducible assumption
    | exact rfl
    | with_reducible refine bumpBy_keeps ?_ ?_
    | with_reducible refine setGran_keeps ?_
    | with_reducible refine metaPoison_keeps ?_
    | with_reducible refine raise_keeps ?_
    | with_reducible refine bump_keeps ?_ ?_
    | with_reducible refine forced_keeps ?_
    | with_reducible refine Keeps.ite ?_ ?_
    | fail_if_no_progress with_reducible refine Keeps.mk ?_ rfl rfl rfl
    | dsimp only
    | split

theorem hbmPut_keeps {a : State} {z0 : State} {z1 : Nat} {z2 : List (Word × Bool)} (h : Keeps a z0) :
    Keeps a (State.hbmPut z0 z1 z2) := by
  unfold State.hbmPut
  repeat' first
    | with_reducible assumption
    | with_reducible refine metaPoison_keeps ?_
    | with_reducible refine inject_keeps (by assumption) ?_
    | with_reducible refine setGran_keeps ?_
    | with_reducible refine Keeps.ite ?_ ?_
    | fail_if_no_progress with_reducible refine Keeps.mk ?_ rfl rfl rfl
    | dsimp only
    | split

theorem hbmWrite_keeps {a : State} {z0 : State} {z1 : Nat} {z2 : List (Word × Bool)} (h : Keeps a z0) :
    Keeps a (State.hbmWrite z0 z1 z2) := by
  unfold State.hbmWrite
  repeat' first
    | with_reducible assumption
    | exact rfl
    | with_reducible refine hbmPut_keeps ?_
    | with_reducible refine bump_keeps ?_ ?_
    | with_reducible refine Keeps.ite ?_ ?_

theorem hbmReadRun_keeps {a : State} {z0 : State} {z1 : Nat} {z2 : Nat} (h : Keeps a z0) :
    Keeps a (State.hbmReadRun z0 z1 z2).1 := by
  unfold State.hbmReadRun
  repeat' first
    | with_reducible assumption
    | intro _
    | with_reducible refine hbmRead_keeps ?_
    | with_reducible refine Keeps.loop_fst ?_ ?_

theorem cacheRead_keeps {a : State} {z0 : State} {z1 : Nat} {z2 : Nat} (h : Keeps a z0) :
    Keeps a (State.cacheRead z0 z1 z2).1 := by
  unfold State.cacheRead
  repeat' first
    | with_reducible assumption
    | exact rfl
    | with_reducible refine hbmRead_keeps ?_
    | with_reducible refine bump_keeps ?_ ?_
    | with_reducible refine modFace_keeps ?_
    | with_reducible refine draw_keeps ?_
    | dsimp only
    | split

theorem invalidated_keeps {a : State} {z0 : State} {z1 : Nat} {z2 : Nat} (h : Keeps a z0) :
    Keeps a (State.invalidated z0 z1 z2) := by
  unfold State.invalidated
  repeat' first
    | with_reducible assumption
    | exact rfl
    | with_reducible refine bumpBy_keeps ?_ ?_
    | with_reducible refine modFace_keeps ?_

theorem cacheEmpty_keeps {a : State} {z0 : State} {z1 : Nat} (h : Keeps a z0) :
    Keeps a (State.cacheEmpty z0 z1) := by
  unfold State.cacheEmpty
  repeat' first
    | with_reducible assumption
    | with_reducible refine modFace_keeps ?_

theorem cacheClear_keeps {a : State} {z0 : State} {z1 : Nat} (h : Keeps a z0) :
    Keeps a (State.cacheClear z0 z1) := by
  unfold State.cacheClear
  repeat' first
    | with_reducible assumption
    | with_reducible refine invalidated_keeps ?_
    | with_reducible refine modFace_keeps ?_

theorem cacheDrop_keeps {a : State} {z0 : State} {z1 : Nat} {z2 : Nat} (h : Keeps a z0) :
    Keeps a (State.cacheDrop z0 z1 z2) := by
  unfold State.cacheDrop
  repeat' first
    | with_reducible assumption
    | with_reducible refine invalidated_keeps ?_
    | with_reducible refine modFace_keeps ?_
    | with_reducible refine Keeps.ite ?_ ?_

theorem hbmProgWrite_keeps {a : State} {z0 : State} {z1 : Nat} {z2 : Nat} {z3 : List (Word × Bool)} (h : Keeps a z0) :
    Keeps a (State.hbmProgWrite z0 z1 z2 z3) := by
  unfold State.hbmProgWrite
  repeat' first
    | with_reducible assumption
    | with_reducible refine hbmPut_keeps ?_
    | with_reducible refine cacheDrop_keeps ?_

theorem bdyCacheCfg_keeps {a : State} {z0 : State} {z1 : Nat} (h : Keeps a z0) :
    Keeps a (State.bdyCacheCfg z0 z1) := by
  unfold State.bdyCacheCfg
  repeat' first
    | with_reducible assumption
    | exact rfl
    | with_reducible refine modFace_keeps ?_
    | with_reducible refine wr_keeps ?_ ?_
    | with_reducible refine cacheEmpty_keeps ?_
    | with_reducible refine Keeps.ite ?_ ?_

theorem cacheSettle_keeps {a : State} {z0 : State} {z1 : Nat} (h : Keeps a z0) :
    Keeps a (State.cacheSettle z0 z1) := by
  unfold State.cacheSettle
  repeat' first
    | with_reducible assumption
    | with_reducible refine bdyCacheCfg_keeps ?_
    | with_reducible refine Keeps.ite ?_ ?_

theorem queueOp_keeps {a : State} {z0 : State} {z1 : Nat} {z2 : QOp} {z3 : List (Word × Bool)} (h : Keeps a z0) :
    Keeps a (State.queueOp z0 z1 z2 z3) := by
  unfold State.queueOp
  repeat' first
    | with_reducible assumption
    | with_reducible refine modFace_keeps ?_
    | with_reducible refine sbNote_keeps ?_
    | fail_if_no_progress with_reducible refine Keeps.mk ?_ rfl rfl rfl

theorem enqueue_keeps {a : State} {z0 : State} {z1 : Nat} {z2 : QOp} {z3 : List (Word × Bool)} (h : Keeps a z0) :
    Done.Keeps a (enqueue z0 z1 z2 z3) := by
  unfold enqueue
  repeat' first
    | with_reducible assumption
    | intro _
    | exact rfl
    | with_reducible refine sbStall_keeps (by assumption) ?_
    | with_reducible refine bump_keeps ?_ ?_
    | with_reducible refine queueOp_keeps ?_
    | with_reducible refine Done.keeps_next ?_
    | with_reducible refine Done.keeps_hold ?_
    | with_reducible refine Done.keeps_ite ?_ ?_
    | with_reducible refine Done.keeps_orHold ?_ ?_

theorem stockIssue_keeps {a : State} {z0 : Nat} {z1 : IWord} {z2 : Nat} {z3 : State} (h : Keeps a z3) :
    Keeps a (stockIssue z0 z1 z2 z3) := by
  unfold stockIssue
  repeat' first
    | with_reducible assumption
    | intro _
    | with_reducible refine issue_keeps ?_ ?_
    | with_reducible refine enqueue_keeps ?_
    | with_reducible refine Done.keeps_checked ?_

theorem engineIssue_keeps {a : State} {z0 : State} {z1 : Nat} {z2 : Face} {z3 : IWord} {z4 : Nat} {z5 : Bool} {z6 : Nat} {z7 : Bool} {z8 : Option RFail} {z9 : QOp} {z10 : List (Word × Bool)} (h : Keeps a z0) :
    Done.Keeps a (engineIssue z0 z1 z2 z3 z4 z5 z6 z7 z8 z9 z10) := by
  unfold engineIssue
  repeat' first
    | with_reducible assumption
    | with_reducible refine enqueue_keeps ?_
    | with_reducible refine Done.keeps_checked ?_

theorem vopIssue_keeps {a : State} {z0 : Nat} {z1 : Nat} {z2 : IWord} {z3 : State} (h : Keeps a z3) :
    Keeps a (vopIssue z0 z1 z2 z3) := by
  unfold vopIssue
  repeat' first
    | with_reducible assumption
    | intro _
    | with_reducible refine issue_keeps ?_ ?_
    | with_reducible refine engineIssue_keeps ?_

end Sys2Proof.Machine
end

