-- ==== Sys2Proof/Laws/KeepServing.lean ====
section
/-! SUPPORT. What the operations of Machine/VectorRun.lean, Machine/Windows.lean, Machine/Finish.lean, Machine/Rings.lean, Machine/Serving.lean, Machine/Dealer.lean keep: one lemma per operation. -/
namespace Sys2Proof.Machine

theorem winSync_keeps {a : State} {z0 : State} {z1 : Nat} {z2 : Nat} (h : Keeps a z0) :
    Keeps a (State.winSync z0 z1 z2) := by
  unfold State.winSync
  repeat' first
    | with_reducible assumption
    | exact rfl
    | with_reducible refine wr_keeps ?_ ?_

theorem setWin_keeps {a : State} {z0 : State} {z1 : Nat} {z2 : Nat} {z3 : Win} (h : Keeps a z0) :
    Keeps a (State.setWin z0 z1 z2 z3) := by
  unfold State.setWin
  repeat' first
    | with_reducible assumption
    | with_reducible refine winSync_keeps ?_
    | with_reducible refine modFace_keeps ?_

theorem freeSlot_keeps {a : State} {z0 : State} {z1 : Nat} {z2 : Nat} {z3 : Nat} (h : Keeps a z0) :
    Keeps a (State.freeSlot z0 z1 z2 z3) := by
  unfold State.freeSlot
  repeat' first
    | with_reducible assumption
    | intro _
    | with_reducible refine modFace_keeps ?_
    | with_reducible refine setWin_keeps ?_
    | with_reducible refine Keeps.loop ?_ ?_
    | with_reducible refine Keeps.ite ?_ ?_

theorem dropSlots_keeps {a : State} {z0 : State} {z1 : Nat} {z2 : Nat} (h : Keeps a z0) :
    Keeps a (State.dropSlots z0 z1 z2) := by
  unfold State.dropSlots
  repeat' first
    | with_reducible assumption
    | exact rfl
    | with_reducible refine bumpBy_keeps ?_ ?_
    | with_reducible refine setWin_keeps ?_

theorem bdyWindow_keeps {a : State} {z0 : State} {z1 : Nat} {z2 : Nat} (h : Keeps a z0) :
    Keeps a (State.bdyWindow z0 z1 z2) := by
  unfold State.bdyWindow
  repeat' first
    | with_reducible assumption
    | exact rfl
    | with_reducible refine modFace_keeps ?_
    | with_reducible refine wr_keeps ?_ ?_
    | with_reducible refine dropSlots_keeps ?_
    | with_reducible refine setWin_keeps ?_
    | with_reducible refine Keeps.ite ?_ ?_

theorem bdyWindows_keeps {a : State} {z0 : State} (h : Keeps a z0) :
    Keeps a (State.bdyWindows z0) := by
  unfold State.bdyWindows
  repeat' first
    | with_reducible assumption
    | intro _
    | with_reducible refine bdyWindow_keeps ?_
    | with_reducible refine Keeps.foldl ?_ ?_

theorem putParcel_keeps {a : State} {z0 : State} {z1 : Nat} {z2 : Parcel} (h : Keeps a z0) :
    Keeps a (State.putParcel z0 z1 z2) := by
  unfold State.putParcel
  repeat' first
    | with_reducible assumption
    | with_reducible refine portOut_keeps ?_
    | fail_if_no_progress with_reducible refine Keeps.mk ?_ rfl rfl rfl

theorem answer_keeps {a : State} {z0 : State} {z1 : Nat} {z2 : Nat} {z3 : Nat} {z4 : Nat} (h : Keeps a z0) :
    Keeps a (State.answer z0 z1 z2 z3 z4) := by
  unfold State.answer
  repeat' first
    | with_reducible assumption
    | with_reducible refine forwardCtl_keeps ?_

theorem landParcel_keeps {a : State} {z0 : State} {z1 : Nat} {z2 : Nat} {z3 : Nat} {z4 : Parcel} (h : Keeps a z0) :
    Keeps a (State.landParcel z0 z1 z2 z3 z4) := by
  unfold State.landParcel
  repeat' first
    | with_reducible assumption
    | intro _
    | with_reducible refine draw_keeps ?_
    | with_reducible refine putArrival_keeps ?_
    | with_reducible refine Keeps.loop ?_ ?_
    | with_reducible refine Keeps.ite ?_ ?_

theorem windowParcel_keeps {a : State} {z0 : State} {z1 : Nat} {z2 : Parcel} (h : Keeps a z0) :
    Keeps a (State.windowParcel z0 z1 z2) := by
  unfold State.windowParcel
  repeat' first
    | with_reducible assumption
    | exact rfl
    | with_reducible refine bump_keeps ?_ ?_
    | with_reducible refine answer_keeps ?_
    | with_reducible refine setWin_keeps ?_
    | with_reducible refine landParcel_keeps ?_
    | with_reducible refine Keeps.ite ?_ ?_
    | dsimp only
    | split

theorem sigrParcel_keeps {a : State} {z0 : State} {z1 : Nat} {z2 : Parcel} (h : Keeps a z0) :
    Keeps a (State.sigrParcel z0 z1 z2) := by
  unfold State.sigrParcel
  repeat' first
    | with_reducible assumption
    | exact rfl
    | with_reducible refine bump_keeps ?_ ?_
    | with_reducible refine answer_keeps ?_
    | with_reducible refine Keeps.ite ?_ ?_
    | fail_if_no_progress with_reducible refine Keeps.mk ?_ rfl rfl rfl

theorem forwardParcel_keeps {a : State} {z0 : State} {z1 : Nat} {z2 : Parcel} (h : Keeps a z0) :
    Keeps a (State.forwardParcel z0 z1 z2) := by
  unfold State.forwardParcel
  repeat' first
    | with_reducible assumption
    | exact rfl
    | with_reducible refine portOut_keeps ?_
    | with_reducible refine bump_keeps ?_ ?_
    | with_reducible refine answer_keeps ?_
    | with_reducible refine Keeps.ite ?_ ?_
    | dsimp only
    | split

theorem historyParcel_keeps {a : State} {z0 : State} {z1 : Nat} {z2 : Parcel} (h : Keeps a z0) :
    Keeps a (State.historyParcel z0 z1 z2) := by
  unfold State.historyParcel
  repeat' first
    | with_reducible assumption
    | exact rfl
    | with_reducible refine bump_keeps ?_ ?_
    | with_reducible refine answer_keeps ?_
    | with_reducible refine Keeps.ite ?_ ?_
    | fail_if_no_progress with_reducible refine Keeps.mk ?_ rfl rfl rfl

theorem noticeEntry_keeps {a : State} {z0 : State} {z1 : Nat} {z2 : Nat} {z3 : WinEntry} (h : Keeps a z0) :
    Keeps a (State.noticeEntry z0 z1 z2 z3) := by
  unfold State.noticeEntry
  repeat' first
    | with_reducible assumption
    | exact rfl
    | with_reducible refine draw_keeps ?_
    | with_reducible refine bump_keeps ?_ ?_
    | with_reducible refine raise_keeps ?_
    | with_reducible refine forced_keeps ?_
    | with_reducible refine setWin_keeps ?_
    | with_reducible refine freeSlot_keeps ?_
    | with_reducible refine Keeps.ite ?_ ?_
    | dsimp only
    | split

theorem commitNotice_keeps {a : State} {z0 : State} {z1 : Nat} {z2 : Nat} {z3 : Nat} {z4 : List WinEntry} (h : Keeps a z0) :
    Keeps a (State.commitNotice z0 z1 z2 z3 z4) := by
  unfold State.commitNotice
  repeat' first
    | with_reducible assumption
    | intro _
    | exact rfl
    | with_reducible refine raise_keeps ?_
    | with_reducible refine noticeEntry_keeps ?_
    | with_reducible refine bump_keeps ?_ ?_
    | with_reducible refine Keeps.foldl ?_ ?_
    | with_reducible refine Keeps.ite ?_ ?_
    | fail_if_no_progress with_reducible refine Keeps.mk ?_ rfl rfl rfl

theorem bdySigrs_keeps {a : State} {z0 : State} (h : Keeps a z0) : Keeps a (State.bdySigrs z0) := by
  unfold State.bdySigrs
  refine Keeps.foldl (Keeps.mk h rfl rfl rfl) (fun t g ht => Keeps.ite ?_ ht)
  dsimp only
  split
  · next u e =>
    split at e
    · exact ctrAdd_keeps e ht
    · cases e
  · exact modFace_keeps (revokeRecord_keeps ht)

theorem dropHand_keeps {a : State} {z0 : State} {z1 : Nat} {z2 : Nat} (h : Keeps a z0) :
    Keeps a (State.dropHand z0 z1 z2) := by
  unfold State.dropHand
  repeat' first
    | with_reducible assumption
    | intro _
    | with_reducible refine setWin_keeps ?_
    | with_reducible refine freeSlot_keeps ?_
    | with_reducible refine Keeps.foldl ?_ ?_
    | with_reducible refine Keeps.ite ?_ ?_
    | dsimp only
    | split

theorem abortNotice_keeps {a : State} {z0 : State} {z1 : Nat} {z2 : Nat} {z3 : Nat} (h : Keeps a z0) :
    Keeps a (State.abortNotice z0 z1 z2 z3) := by
  unfold State.abortNotice
  repeat' first
    | with_reducible assumption
    | with_reducible refine raise_keeps ?_
    | with_reducible refine dropHand_keeps ?_
    | with_reducible refine Keeps.ite ?_ ?_
    | fail_if_no_progress with_reducible refine Keeps.mk ?_ rfl rfl rfl

theorem sealCheck_keeps {a : State} {z0 : State} {z1 : Nat} {z2 : Nat} {z3 : Nat} {z4 : PRec} (h : Keeps a z0) :
    Keeps a (State.sealCheck z0 z1 z2 z3 z4) := by
  unfold State.sealCheck
  repeat' first
    | with_reducible assumption
    | intro _
    | exact rfl
    | with_reducible refine forced_keeps ?_
    | with_reducible refine modFace_keeps ?_
    | with_reducible refine raise_keeps ?_
    | with_reducible refine bump_keeps ?_ ?_
    | with_reducible refine Keeps.loop ?_ ?_
    | with_reducible refine Keeps.ite ?_ ?_

theorem skipEmpty_keeps {a : State} {z0 : State} {z1 : Nat} {z2 : Nat} {z3 : Nat} (h : Keeps a z0) :
    Keeps a (State.skipEmpty z0 z1 z2 z3) := by
  induction z3 generalizing z0 z1 z2 with
  | zero =>
    unfold State.skipEmpty
    first | exact h | (repeat' first | with_reducible assumption | split)
  | succ n ih =>
    unfold State.skipEmpty
    repeat' first
      | with_reducible assumption
      | with_reducible refine ih ?_
      | with_reducible refine freeSlot_keeps ?_
      | with_reducible refine Keeps.ite ?_ ?_
      | dsimp only
      | split

theorem signalLost_keeps {a : State} {z0 : State} {z1 : Nat} {z2 : Nat} {z3 : Nat} {z4 : Nat} (h : Keeps a z0) :
    Keeps a (State.signalLost z0 z1 z2 z3 z4) := by
  unfold State.signalLost
  repeat' first
    | with_reducible assumption
    | with_reducible refine modFace_keeps ?_

theorem arrivalSignal_keeps {a : State} {z0 : State} {z1 : Nat} {z2 : Nat} {z3 : Nat} (h : Keeps a z0) :
    Keeps a (State.arrivalSignal z0 z1 z2 z3) := by
  unfold State.arrivalSignal
  repeat' first
    | with_reducible assumption
    | intro _
    | with_reducible refine ctrAdd_keeps (by assumption) ?_
    | with_reducible refine signalLost_keeps ?_
    | with_reducible refine modFace_keeps ?_
    | with_reducible refine revokeRecord_keeps ?_
    | with_reducible refine Keeps.loop ?_ ?_
    | with_reducible refine Keeps.ite ?_ ?_
    | dsimp only
    | split

theorem releaseWindow_keeps {a : State} {z0 : State} {z1 : Bool} {z2 : Nat} {z3 : Nat} (h : Keeps a z0) :
    Keeps a (State.releaseWindow z0 z1 z2 z3) := by
  unfold State.releaseWindow
  repeat' first
    | with_reducible assumption
    | intro _
    | with_reducible refine arrivalSignal_keeps ?_
    | with_reducible refine skipEmpty_keeps ?_
    | with_reducible refine setWin_keeps ?_
    | with_reducible refine sealCheck_keeps ?_
    | with_reducible refine Keeps.foldl ?_ ?_
    | with_reducible refine Keeps.loop ?_ ?_
    | with_reducible refine Keeps.ite ?_ ?_
    | dsimp only
    | split

theorem releaseWindows_keeps {a : State} {z0 : State} {z1 : Bool} (h : Keeps a z0) :
    Keeps a (State.releaseWindows z0 z1) := by
  unfold State.releaseWindows
  repeat' first
    | with_reducible assumption
    | intro _
    | with_reducible refine releaseWindow_keeps ?_
    | with_reducible refine Keeps.foldl ?_ ?_

theorem consumeSlots_keeps {a : State} {z0 : State} (h : Keeps a z0) :
    Keeps a (State.consumeSlots z0) := by
  unfold State.consumeSlots
  repeat' first
    | with_reducible assumption
    | intro _
    | with_reducible refine freeSlot_keeps ?_
    | with_reducible refine Keeps.foldl ?_ ?_
    | split

theorem setRing_keeps {a : State} {z0 : State} {z1 : Nat} {z2 : Ring} (h : Keeps a z0) :
    Keeps a (State.setRing z0 z1 z2) := by
  unfold State.setRing
  repeat' first
    | with_reducible assumption
    | exact rfl
    | with_reducible refine wr_keeps ?_ ?_
    | fail_if_no_progress with_reducible refine Keeps.mk ?_ rfl rfl rfl

theorem cqWrite_keeps {a : State} {z0 : State} {z1 : Nat} {z2 : List Word} (h : Keeps a z0) :
    Keeps a (State.cqWrite z0 z1 z2) := by
  unfold State.cqWrite
  repeat' first
    | with_reducible assumption
    | exact rfl
    | with_reducible refine setRing_keeps ?_
    | with_reducible refine hostWrite_keeps ?_
    | with_reducible refine wr_keeps ?_ ?_
    | with_reducible refine Keeps.ite ?_ ?_
    | fail_if_no_progress with_reducible refine Keeps.mk ?_ rfl rfl rfl

theorem cqPut_keeps {a : State} {z0 : State} {z1 : Nat} {z2 : List Word} (h : Keeps a z0) :
    Keeps a (State.cqPut z0 z1 z2) := by
  unfold State.cqPut
  repeat' first
    | with_reducible assumption
    | exact rfl
    | with_reducible refine cqWrite_keeps ?_
    | with_reducible refine setRing_keeps ?_
    | with_reducible refine wr_keeps ?_ ?_
    | with_reducible refine Keeps.ite ?_ ?_

theorem cqDrain_keeps {a : State} {z0 : State} {z1 : Nat} {z2 : Nat} (h : Keeps a z0) :
    Keeps a (State.cqDrain z0 z1 z2) := by
  induction z2 generalizing z0 z1 with
  | zero =>
    unfold State.cqDrain
    first | exact h | (repeat' first | with_reducible assumption | split)
  | succ n ih =>
    unfold State.cqDrain
    repeat' first
      | with_reducible assumption
      | with_reducible refine ih ?_
      | with_reducible refine setRing_keeps ?_
      | with_reducible refine cqWrite_keeps ?_
      | with_reducible refine Keeps.ite ?_ ?_
      | dsimp only
      | split

theorem ringIrqs_keeps {a : State} {z0 : State} (h : Keeps a z0) :
    Keeps a (State.ringIrqs z0) := by
  unfold State.ringIrqs
  repeat' first
    | with_reducible assumption
    | intro _
    | with_reducible refine msix_keeps ?_
    | with_reducible refine Keeps.foldl ?_ ?_
    | fail_if_no_progress with_reducible refine Keeps.mk ?_ rfl rfl rfl

theorem irqsDue_keeps {a : State} {z0 : State} (h : Keeps a z0) :
    Keeps a (State.irqsDue z0) := by
  unfold State.irqsDue
  repeat' first
    | with_reducible assumption
    | with_reducible refine ringIrqs_keeps ?_
    | with_reducible refine Keeps.ite ?_ ?_

theorem flushPosted_keeps {a : State} {z0 : State} (h : Keeps a z0) :
    Keeps a (State.flushPosted z0) := by
  unfold State.flushPosted
  repeat' first
    | with_reducible assumption
    | intro _
    | with_reducible refine ringIrqs_keeps ?_
    | with_reducible refine emit_keeps ?_
    | with_reducible refine Keeps.foldl ?_ ?_
    | fail_if_no_progress with_reducible refine Keeps.mk ?_ rfl rfl rfl
    | dsimp only
    | split

theorem record_keeps {a : State} {z0 : State} {z1 : Nat} {z2 : Nat} {z3 : List Word} (h : Keeps a z0) :
    Keeps a (State.record z0 z1 z2 z3) := by
  unfold State.record
  repeat' first
    | with_reducible assumption
    | with_reducible refine emit_keeps ?_
    | with_reducible refine Keeps.ite ?_ ?_
    | fail_if_no_progress with_reducible refine Keeps.mk ?_ rfl rfl rfl

theorem writeRecs_keeps {a : State} {z0 : State} {z1 : Nat} {z2 : Nat} (h : Keeps a z0) :
    Keeps a (State.writeRecs z0 z1 z2) := by
  unfold State.writeRecs
  repeat' first
    | with_reducible assumption
    | intro _
    | with_reducible refine cqPut_keeps ?_
    | with_reducible refine Keeps.foldl ?_ ?_
    | fail_if_no_progress with_reducible refine Keeps.mk ?_ rfl rfl rfl

theorem sqNext_keeps {a : State} {z0 : State} {z1 : Nat} {u : State} (e : State.sqNext z0 z1 = some u) (h : Keeps a z0) :
    Keeps a u := by
  unfold State.sqNext at e
  try dsimp only at e
  repeat' split at e
  all_goals first | (injection e with e; subst e) | (injection e)
  repeat' first
    | with_reducible assumption
    | exact rfl
    | with_reducible refine wr_keeps ?_ ?_

theorem hold__keeps {a : State} {z0 : State} {z1 : Ante} (h : Keeps a z0) :
    Keeps a (State.hold_ z0 z1) := by
  unfold State.hold_
  repeat' first
    | with_reducible assumption
    | with_reducible refine Keeps.ite ?_ ?_
    | fail_if_no_progress with_reducible refine Keeps.mk ?_ rfl rfl rfl

theorem foldReq_keeps {a : State} {z0 : State} {z1 : Nat} {z2 : Nat} {z3 : Nat} (h : Keeps a z0) :
    Keeps a (State.foldReq z0 z1 z2 z3) := by
  unfold State.foldReq
  repeat' first
    | with_reducible assumption
    | fail_if_no_progress with_reducible refine Keeps.mk ?_ rfl rfl rfl

theorem setSeat_keeps {a : State} {z0 : State} {z1 : Nat} {z2 : Seat} (h : Keeps a z0) :
    Keeps a (State.setSeat z0 z1 z2) := by
  unfold State.setSeat
  repeat' first
    | with_reducible assumption
    | fail_if_no_progress with_reducible refine Keeps.mk ?_ rfl rfl rfl

theorem modSeat_keeps {a : State} {z0 : State} {z1 : Nat} {z2 : Seat → Seat} (h : Keeps a z0) :
    Keeps a (State.modSeat z0 z1 z2) := by
  unfold State.modSeat
  repeat' first
    | with_reducible assumption
    | with_reducible refine setSeat_keeps ?_

theorem setCache_keeps {a : State} {z0 : State} {z1 : Nat} {z2 : Cache} (h : Keeps a z0) :
    Keeps a (State.setCache z0 z1 z2) := by
  unfold State.setCache
  repeat' first
    | with_reducible assumption
    | fail_if_no_progress with_reducible refine Keeps.mk ?_ rfl rfl rfl

theorem seatReg_keeps {a : State} {z0 : State} {z1 : Nat} (h : Keeps a z0) :
    Keeps a (State.seatReg z0 z1) := by
  unfold State.seatReg
  repeat' first
    | with_reducible assumption
    | exact rfl
    | with_reducible refine wr_keeps ?_ ?_

theorem seatRegs_keeps {a : State} {z0 : State} (h : Keeps a z0) :
    Keeps a (State.seatRegs z0) := by
  unfold State.seatRegs
  repeat' first
    | with_reducible assumption
    | intro _
    | exact rfl
    | with_reducible refine seatReg_keeps ?_
    | with_reducible refine wr_keeps ?_ ?_
    | with_reducible refine Keeps.foldl ?_ ?_

theorem freeSeat_keeps {a : State} {z0 : State} {u : Nat × State} (e : State.freeSeat z0 = some u) (h : Keeps a z0) :
    Keeps a u.2 := by
  unfold State.freeSeat at e
  try dsimp only at e
  repeat' split at e
  all_goals first | (injection e with e; subst e) | (injection e)
  repeat' first
    | with_reducible assumption
    | with_reducible refine draw_keeps ?_

theorem sendRecord_keeps {a : State} {z0 : State} {z1 : Seat} (h : Keeps a z0) :
    Keeps a (State.sendRecord z0 z1) := by
  unfold State.sendRecord
  repeat' first
    | with_reducible assumption
    | with_reducible refine emit_keeps ?_
    | with_reducible refine Keeps.ite ?_ ?_

theorem admitSeat_keeps {a : State} {z0 : State} {z1 : Ante} {z2 : Nat} {z3 : Nat} {z4 : Nat} (h : Keeps a z0) :
    Keeps a (State.admitSeat z0 z1 z2 z3 z4) := by
  unfold State.admitSeat
  repeat' first
    | with_reducible assumption
    | exact rfl
    | with_reducible refine setSeat_keeps ?_
    | with_reducible refine bump_keeps ?_ ?_
    | with_reducible refine record_keeps ?_
    | with_reducible refine sendRecord_keeps ?_
    | with_reducible refine setCache_keeps ?_
    | with_reducible refine freeSeat_keeps (by assumption) ?_
    | fail_if_no_progress with_reducible refine Keeps.mk ?_ rfl rfl rfl
    | dsimp only
    | split

theorem dropAnte_keeps {a : State} {z0 : State} {z1 : Nat} (h : Keeps a z0) :
    Keeps a (State.dropAnte z0 z1) := by
  unfold State.dropAnte
  repeat' first
    | with_reducible assumption
    | fail_if_no_progress with_reducible refine Keeps.mk ?_ rfl rfl rfl

theorem freeCarried_keeps {a : State} {z0 : State} {z1 : Ante} (h : Keeps a z0) :
    Keeps a (State.freeCarried z0 z1) := by
  unfold State.freeCarried
  repeat' first
    | with_reducible assumption
    | with_reducible refine modSeat_keeps ?_
    | split

theorem refuse_keeps {a : State} {z0 : State} {z1 : Nat} {z2 : Nat} {z3 : Nat} (h : Keeps a z0) :
    Keeps a (State.refuse z0 z1 z2 z3) := by
  unfold State.refuse
  repeat' first
    | with_reducible assumption
    | exact rfl
    | with_reducible refine record_keeps ?_
    | with_reducible refine bump_keeps ?_ ?_
    | with_reducible refine freeCarried_keeps ?_
    | with_reducible refine dropAnte_keeps ?_
    | split

theorem screenAntes_keeps {a : State} {z0 : State} {z1 : Nat} {z2 : Nat} {z3 : Nat} (h : Keeps a z0) :
    Keeps a (State.screenAntes z0 z1 z2 z3) := by
  induction z3 generalizing z0 z1 z2 with
  | zero =>
    unfold State.screenAntes
    first | exact h | (repeat' first | with_reducible assumption | split)
  | succ n ih =>
    unfold State.screenAntes
    repeat' first
      | with_reducible assumption
      | with_reducible refine ih ?_
      | with_reducible refine refuse_keeps ?_
      | with_reducible refine Keeps.ite ?_ ?_
      | dsimp only
      | split

theorem admitLoop_keeps {a : State} {z0 : State} {z1 : Nat} {z2 : List Nat} {z3 : Nat} {z4 : Nat} {z5 : Nat} (h : Keeps a z0) :
    Keeps a (State.admitLoop z0 z1 z2 z3 z4 z5) := by
  induction z5 generalizing z0 z1 z2 z3 z4 with
  | zero =>
    unfold State.admitLoop
    first | exact h | (repeat' first | with_reducible assumption | split)
  | succ n ih =>
    unfold State.admitLoop
    repeat' first
      | with_reducible assumption
      | with_reducible refine ih ?_
      | with_reducible refine dropAnte_keeps ?_
      | with_reducible refine admitSeat_keeps ?_
      | with_reducible refine Keeps.ite ?_ ?_
      | dsimp only
      | split

theorem heldRecords_keeps {a : State} {z0 : State} {z1 : Nat} {z2 : Nat} {z3 : Nat} (h : Keeps a z0) :
    Keeps a (State.heldRecords z0 z1 z2 z3) := by
  induction z3 generalizing z0 z1 z2 with
  | zero =>
    unfold State.heldRecords
    first | exact h | (repeat' first | with_reducible assumption | split)
  | succ n ih =>
    unfold State.heldRecords
    repeat' first
      | with_reducible assumption
      | with_reducible refine ih ?_
      | exact rfl
      | with_reducible refine refuse_keeps ?_
      | with_reducible refine bump_keeps ?_ ?_
      | with_reducible refine record_keeps ?_
      | with_reducible refine Keeps.ite ?_ ?_
      | fail_if_no_progress with_reducible refine Keeps.mk ?_ rfl rfl rfl
      | dsimp only
      | split

theorem heldReg_keeps {a : State} {z0 : State} {z1 : Nat} (h : Keeps a z0) :
    Keeps a (State.heldReg z0 z1) := by
  unfold State.heldReg
  repeat' first
    | with_reducible assumption
    | exact rfl
    | with_reducible refine wr_keeps ?_ ?_

theorem admission_keeps {a : State} {z0 : State} {z1 : Nat} (h : Keeps a z0) :
    Keeps a (State.admission z0 z1) := by
  unfold State.admission
  repeat' first
    | with_reducible assumption
    | with_reducible refine screenAntes_keeps ?_
    | with_reducible refine admitLoop_keeps ?_
    | with_reducible refine heldRecords_keeps ?_

theorem formSlot_keeps {a : State} {z0 : State} {z1 : Nat} {z2 : Nat} {z3 : Nat} (h : Keeps a z0) :
    Keeps a (State.formSlot z0 z1 z2 z3) := by
  unfold State.formSlot
  repeat' first
    | with_reducible assumption
    | intro _
    | with_reducible refine modSeat_keeps ?_
    | with_reducible refine Keeps.foldl ?_ ?_
    | with_reducible refine Keeps.foldl_fst ?_ ?_
    | fail_if_no_progress with_reducible refine Keeps.mk ?_ rfl rfl rfl
    | dsimp only
    | split

theorem freeCache_keeps {a : State} {z0 : State} {z1 : Cache} (h : Keeps a z0) :
    Keeps a (State.freeCache z0 z1) := by
  unfold State.freeCache
  repeat' first
    | with_reducible assumption
    | intro _
    | with_reducible refine Keeps.foldl ?_ ?_
    | with_reducible refine Keeps.ite ?_ ?_
    | fail_if_no_progress with_reducible refine Keeps.mk ?_ rfl rfl rfl

theorem freePages_keeps {a : State} {z0 : State} {z1 : Nat} (h : Keeps a z0) :
    Keeps a (State.freePages z0 z1) := by
  unfold State.freePages
  repeat' first
    | with_reducible assumption
    | with_reducible refine setCache_keeps ?_
    | with_reducible refine freeCache_keeps ?_

theorem endRecord_keeps {a : State} {z0 : State} {z1 : Nat} {z2 : Nat} {z3 : Nat} (h : Keeps a z0) :
    Keeps a (State.endRecord z0 z1 z2 z3) := by
  unfold State.endRecord
  repeat' first
    | with_reducible assumption
    | with_reducible refine record_keeps ?_

theorem freeSeatNow_keeps {a : State} {z0 : State} {z1 : Nat} (h : Keeps a z0) :
    Keeps a (State.freeSeatNow z0 z1) := by
  unfold State.freeSeatNow
  repeat' first
    | with_reducible assumption
    | with_reducible refine freePages_keeps ?_
    | with_reducible refine setSeat_keeps ?_
    | fail_if_no_progress with_reducible refine Keeps.mk ?_ rfl rfl rfl

theorem freeDue_keeps {a : State} {z0 : State} (h : Keeps a z0) :
    Keeps a (State.freeDue z0) := by
  unfold State.freeDue
  repeat' first
    | with_reducible assumption
    | intro _
    | exact rfl
    | with_reducible refine endRecord_keeps ?_
    | with_reducible refine bump_keeps ?_ ?_
    | with_reducible refine freeSeatNow_keeps ?_
    | with_reducible refine freeCache_keeps ?_
    | with_reducible refine Keeps.foldl ?_ ?_
    | with_reducible refine Keeps.ite ?_ ?_
    | fail_if_no_progress with_reducible refine Keeps.mk ?_ rfl rfl rfl

theorem drainDue_keeps {a : State} {z0 : State} (h : Keeps a z0) :
    Keeps a (State.drainDue z0) := by
  unfold State.drainDue
  repeat' first
    | with_reducible assumption
    | intro _
    | with_reducible refine modSeat_keeps ?_
    | with_reducible refine Keeps.foldl ?_ ?_
    | with_reducible refine Keeps.ite ?_ ?_

theorem voidSeat_keeps {a : State} {z0 : State} {z1 : Nat} (h : Keeps a z0) :
    Keeps a (State.voidSeat z0 z1) := by
  unfold State.voidSeat
  repeat' first
    | with_reducible assumption
    | fail_if_no_progress with_reducible refine Keeps.mk ?_ rfl rfl rfl

theorem cancelSeat_keeps {a : State} {z0 : State} {z1 : Nat} {z2 : Nat} (h : Keeps a z0) :
    Keeps a (State.cancelSeat z0 z1 z2) := by
  unfold State.cancelSeat
  repeat' first
    | with_reducible assumption
    | with_reducible refine modSeat_keeps ?_
    | with_reducible refine voidSeat_keeps ?_
    | with_reducible refine Keeps.ite ?_ ?_
    | dsimp only
    | split

theorem foldNow_keeps {a : State} {z0 : State} {z1 : Nat × Nat × Nat} (h : Keeps a z0) :
    Keeps a (State.foldNow z0 z1) := by
  unfold State.foldNow
  repeat' first
    | with_reducible assumption
    | with_reducible refine record_keeps ?_
    | with_reducible refine freeCarried_keeps ?_
    | with_reducible refine dropAnte_keeps ?_
    | with_reducible refine cancelSeat_keeps ?_
    | with_reducible refine Keeps.ite ?_ ?_
    | split

theorem bdyFolds_keeps {a : State} {z0 : State} (h : Keeps a z0) :
    Keeps a (State.bdyFolds z0) := by
  unfold State.bdyFolds
  repeat' first
    | with_reducible assumption
    | intro _
    | with_reducible refine foldNow_keeps ?_
    | with_reducible refine Keeps.foldl ?_ ?_
    | fail_if_no_progress with_reducible refine Keeps.mk ?_ rfl rfl rfl

theorem bdyTtl_keeps {a : State} {z0 : State} {z1 : Nat} (h : Keeps a z0) :
    Keeps a (State.bdyTtl z0 z1) := by
  unfold State.bdyTtl
  repeat' first
    | with_reducible assumption
    | intro _
    | with_reducible refine modSeat_keeps ?_
    | with_reducible refine Keeps.foldl ?_ ?_
    | with_reducible refine Keeps.ite ?_ ?_

theorem heldLate_keeps {a : State} {z0 : State} {z1 : Nat} {z2 : Nat} {z3 : Nat} (h : Keeps a z0) :
    Keeps a (State.heldLate z0 z1 z2 z3) := by
  induction z3 generalizing z0 z1 z2 with
  | zero =>
    unfold State.heldLate
    first | exact h | (repeat' first | with_reducible assumption | split)
  | succ n ih =>
    unfold State.heldLate
    repeat' first
      | with_reducible assumption
      | with_reducible refine ih ?_
      | with_reducible refine refuse_keeps ?_
      | with_reducible refine Keeps.ite ?_ ?_
      | split

theorem deadlines_keeps {a : State} {z0 : State} {z1 : Nat} (h : Keeps a z0) :
    Keeps a (State.deadlines z0 z1) := by
  unfold State.deadlines
  repeat' first
    | with_reducible assumption
    | intro _
    | with_reducible refine heldLate_keeps ?_
    | with_reducible refine cancelSeat_keeps ?_
    | with_reducible refine modSeat_keeps ?_
    | with_reducible refine Keeps.foldl ?_ ?_
    | with_reducible refine Keeps.ite ?_ ?_
    | split

theorem bdyMode_keeps {a : State} {z0 : State} (h : Keeps a z0) :
    Keeps a (State.bdyMode z0) := by
  unfold State.bdyMode
  repeat' first
    | with_reducible assumption
    | intro _
    | exact rfl
    | with_reducible refine wr_keeps ?_ ?_
    | with_reducible refine modSeat_keeps ?_
    | with_reducible refine Keeps.foldl ?_ ?_
    | with_reducible refine Keeps.ite ?_ ?_
    | fail_if_no_progress with_reducible refine Keeps.mk ?_ rfl rfl rfl
    | dsimp only
    | split

theorem takeFrames_keeps {a : State} {z0 : State} {z1 : Nat} (h : Keeps a z0) :
    Keeps a (State.takeFrames z0 z1).1 := by
  induction z1 generalizing z0 with
  | zero =>
    unfold State.takeFrames
    first | exact h | (repeat' first | with_reducible assumption | split)
  | succ n ih =>
    unfold State.takeFrames
    repeat' first
      | with_reducible assumption
      | with_reducible refine ih ?_
      | with_reducible refine draw_keeps ?_
      | fail_if_no_progress with_reducible refine Keeps.mk ?_ rfl rfl rfl

theorem bdyPrefix_keeps {a : State} {z0 : State} (h : Keeps a z0) :
    Keeps a (State.bdyPrefix z0) := by
  unfold State.bdyPrefix
  repeat' first
    | with_reducible assumption
    | intro _
    | exact rfl
    | with_reducible refine wr_keeps ?_ ?_
    | with_reducible refine Keeps.foldl ?_ ?_
    | with_reducible refine Keeps.ite ?_ ?_
    | fail_if_no_progress with_reducible refine Keeps.mk ?_ rfl rfl rfl

theorem commitPrefix_keeps {a : State} {z0 : State} (h : Keeps a z0) :
    Keeps a (State.commitPrefix z0) := by
  unfold State.commitPrefix
  repeat' first
    | with_reducible assumption
    | intro _
    | exact rfl
    | with_reducible refine wr_keeps ?_ ?_
    | with_reducible refine Keeps.foldl ?_ ?_
    | with_reducible refine Keeps.ite ?_ ?_
    | fail_if_no_progress with_reducible refine Keeps.mk ?_ rfl rfl rfl

theorem hbmPatch_keeps {a : State} {z0 : State} {z1 : Nat} {z2 : Word} (h : Keeps a z0) :
    Keeps a (State.hbmPatch z0 z1 z2) := by
  unfold State.hbmPatch
  repeat' first
    | with_reducible assumption
    | with_reducible refine hbmRead_keeps ?_
    | with_reducible refine hbmWrite_keeps ?_

theorem putShare_keeps {a : State} {z0 : State} {z1 : Nat} {z2 : Nat} {z3 : List Word} {z4 : List Word} {z5 : Nat → Bool} (h : Keeps a z0) :
    Keeps a (State.putShare z0 z1 z2 z3 z4 z5) := by
  unfold State.putShare
  repeat' first
    | with_reducible assumption
    | intro _
    | with_reducible refine hbmWrite_keeps ?_
    | with_reducible refine hbmPatch_keeps ?_
    | with_reducible refine Keeps.loop ?_ ?_

theorem vecCount_keeps {a : State} {z0 : State} {z1 : Nat} {z2 : List Conv} (h : Keeps a z0) :
    Keeps a (State.vecCount z0 z1 z2) := by
  unfold State.vecCount
  repeat' first
    | with_reducible assumption
    | exact rfl
    | with_reducible refine bumpBy_keeps ?_ ?_

theorem vecRow_keeps {a : State} {z0 : State} {z1 : Nat} {z2 : Nat} {z3 : Nat} {z4 : List VO} (h : Keeps a z0) :
    Keeps a (State.vecRow z0 z1 z2 z3 z4) := by
  unfold State.vecRow
  repeat' first
    | with_reducible assumption
    | with_reducible refine vecCount_keeps ?_
    | with_reducible refine progStore_keeps ?_

theorem vopRun_keeps {a : State} {z0 : State} {z1 : Nat} {z2 : QOp} (h : Keeps a z0) :
    Keeps a (State.vopRun z0 z1 z2) := by
  unfold State.vopRun
  repeat' first
    | with_reducible assumption
    | intro _
    | exact rfl
    | with_reducible refine padTouchRange_keeps ?_
    | with_reducible refine vecRow_keeps ?_
    | with_reducible refine bumpBy_keeps ?_ ?_
    | with_reducible refine progStore_keeps ?_
    | with_reducible refine vecCount_keeps ?_
    | with_reducible refine modFace_keeps ?_
    | with_reducible refine Keeps.loop ?_ ?_
    | with_reducible refine Keeps.ite ?_ ?_

theorem nanCount_keeps {a : State} {z0 : State} {z1 : Nat} (h : Keeps a z0) :
    Keeps a (State.nanCount z0 z1) := by
  unfold State.nanCount
  repeat' first
    | with_reducible assumption
    | exact rfl
    | with_reducible refine bumpBy_keeps ?_ ?_
    | fail_if_no_progress with_reducible refine Keeps.mk ?_ rfl rfl rfl

theorem dealSeat_keeps {a : State} {z0 : State} {z1 : Nat} {z2 : Nat} {z3 : Nat} {z4 : Nat} {z5 : SlotSeat} (h : Keeps a z0) :
    Keeps a (State.dealSeat z0 z1 z2 z3 z4 z5) := by
  unfold State.dealSeat
  repeat' first
    | with_reducible assumption
    | exact rfl
    | with_reducible refine bumpBy_keeps ?_ ?_
    | with_reducible refine nanCount_keeps ?_
    | with_reducible refine Keeps.ite ?_ ?_
    | fail_if_no_progress with_reducible refine Keeps.mk ?_ rfl rfl rfl

theorem dealAll_keeps {a : State} {z0 : State} (h : Keeps a z0) :
    Keeps a (State.dealAll z0) := by
  unfold State.dealAll
  repeat' first
    | with_reducible assumption
    | intro _
    | with_reducible refine raise_keeps ?_
    | with_reducible refine dealSeat_keeps ?_
    | with_reducible refine Keeps.foldl_fst ?_ ?_
    | with_reducible refine Keeps.ite ?_ ?_
    | fail_if_no_progress with_reducible refine Keeps.mk ?_ rfl rfl rfl
    | dsimp only
    | split

theorem tokensIn_keeps {a : State} {z0 : State} {z1 : Nat} {z2 : Nat} {z3 : Nat} {z4 : List Nat} {z5 : List Nat} {z6 : Nat} {z7 : Nat} (h : Keeps a z0) :
    Keeps a (State.tokensIn z0 z1 z2 z3 z4 z5 z6 z7) := by
  unfold State.tokensIn
  repeat' first
    | with_reducible assumption
    | with_reducible refine modSeat_keeps ?_
    | with_reducible refine record_keeps ?_
    | with_reducible refine setSeat_keeps ?_
    | with_reducible refine Keeps.ite ?_ ?_

theorem releaseSeat_keeps {a : State} {z0 : State} {z1 : Nat} {z2 : Draw} (h : Keeps a z0) :
    Keeps a (State.releaseSeat z0 z1 z2) := by
  unfold State.releaseSeat
  repeat' first
    | with_reducible assumption
    | intro _
    | exact rfl
    | with_reducible refine bumpBy_keeps ?_ ?_
    | with_reducible refine raise_keeps ?_
    | with_reducible refine tokensIn_keeps ?_
    | with_reducible refine modSeat_keeps ?_
    | with_reducible refine sendCtl_keeps ?_
    | with_reducible refine bump_keeps ?_ ?_
    | with_reducible refine setCache_keeps ?_
    | with_reducible refine Keeps.foldl ?_ ?_
    | with_reducible refine Keeps.ite ?_ ?_
    | fail_if_no_progress with_reducible refine Keeps.mk ?_ rfl rfl rfl

theorem dealerCommit_keeps {a : State} {z0 : State} {z1 : Nat} (h : Keeps a z0) :
    Keeps a (State.dealerCommit z0 z1) := by
  unfold State.dealerCommit
  repeat' first
    | with_reducible assumption
    | intro _
    | with_reducible refine releaseSeat_keeps ?_
    | with_reducible refine Keeps.foldl ?_ ?_

theorem dealerMisdeal_keeps {a : State} {z0 : State} (h : Keeps a z0) :
    Keeps a (State.dealerMisdeal z0) := by
  unfold State.dealerMisdeal
  repeat' first
    | with_reducible assumption
    | intro _
    | with_reducible refine Keeps.foldl ?_ ?_
    | fail_if_no_progress with_reducible refine Keeps.mk ?_ rfl rfl rfl

theorem bdyGrams_keeps {a : State} {z0 : State} (h : Keeps a z0) :
    Keeps a (State.bdyGrams z0) := by
  unfold State.bdyGrams
  repeat' first
    | with_reducible assumption
    | intro _
    | exact rfl
    | with_reducible refine wr_keeps ?_ ?_
    | with_reducible refine Keeps.foldl ?_ ?_
    | with_reducible refine Keeps.ite ?_ ?_
    | fail_if_no_progress with_reducible refine Keeps.mk ?_ rfl rfl rfl

theorem commitGrams_keeps {a : State} {z0 : State} (h : Keeps a z0) :
    Keeps a (State.commitGrams z0) := by
  unfold State.commitGrams
  repeat' first
    | with_reducible assumption
    | intro _
    | exact rfl
    | with_reducible refine wr_keeps ?_ ?_
    | with_reducible refine Keeps.loop ?_ ?_
    | with_reducible refine Keeps.ite ?_ ?_
    | fail_if_no_progress with_reducible refine Keeps.mk ?_ rfl rfl rfl

theorem gramRefuse_keeps {a : State} {z0 : State} {z1 : Nat} {z2 : Nat} (h : Keeps a z0) :
    Keeps a (State.gramRefuse z0 z1 z2) := by
  unfold State.gramRefuse
  repeat' first
    | with_reducible assumption
    | exact rfl
    | with_reducible refine wr_keeps ?_ ?_

theorem opLeave_keeps {a : State} {z0 : State} {z1 : Nat} {z2 : QOp} (h : Keeps a z0) :
    Keeps a (State.opLeave z0 z1 z2) := by
  unfold State.opLeave
  repeat' first
    | with_reducible assumption
    | with_reducible refine modFace_keeps ?_

theorem opDone_keeps {a : State} {z0 : State} {z1 : Nat} {z2 : QOp} (h : Keeps a z0) :
    Keeps a (State.opDone z0 z1 z2) := by
  unfold State.opDone
  repeat' first
    | with_reducible assumption
    | with_reducible refine opLeave_keeps ?_
    | with_reducible refine signal_keeps ?_
    | with_reducible refine cacheSettle_keeps ?_
    | with_reducible refine wake_keeps ?_
    | with_reducible refine Keeps.ite ?_ ?_

theorem setOp_keeps {a : State} {z0 : State} {z1 : Nat} {z2 : QOp} (h : Keeps a z0) :
    Keeps a (State.setOp z0 z1 z2) := by
  unfold State.setOp
  repeat' first
    | with_reducible assumption
    | with_reducible refine modFace_keeps ?_

theorem sendAnswer_keeps {a : State} {z0 : State} {z1 : Nat} {z2 : QOp} {z3 : Nat} {z4 : Nat} (h : Keeps a z0) :
    Keeps a (State.sendAnswer z0 z1 z2 z3 z4) := by
  unfold State.sendAnswer
  repeat' first
    | with_reducible assumption
    | exact rfl
    | with_reducible refine setOp_keeps ?_
    | with_reducible refine bump_keeps ?_ ?_
    | with_reducible refine setErr_keeps ?_
    | with_reducible refine trapRecord_keeps ?_
    | with_reducible refine trapFault_keeps ?_
    | with_reducible refine opDone_keeps ?_
    | with_reducible refine Keeps.ite ?_ ?_
    | fail_if_no_progress with_reducible refine Keeps.mk ?_ rfl rfl rfl

theorem answerTo_keeps {a : State} {z0 : State} {z1 : Nat} {z2 : Nat} {z3 : Nat} {z4 : Nat} (h : Keeps a z0) :
    Keeps a (State.answerTo z0 z1 z2 z3 z4) := by
  unfold State.answerTo
  repeat' first
    | with_reducible assumption
    | intro _
    | with_reducible refine sendAnswer_keeps ?_
    | with_reducible refine opLeave_keeps ?_
    | with_reducible refine setOp_keeps ?_
    | with_reducible refine Keeps.foldl ?_ ?_
    | with_reducible refine Keeps.ite ?_ ?_

end Sys2Proof.Machine
end

