-- ==== Sys2Proof/Laws/KeepLinks.lean ====
section
/-! SUPPORT. What the operations of Machine/Links.lean, Machine/Domain.lean, Machine/Runs.lean, Machine/MoveRun.lean, Machine/ServingRun.lean keep: one lemma per operation. -/
namespace Sys2Proof.Machine

theorem setPort_keeps {a : State} {z0 : State} {z1 : Nat} {z2 : Port} (h : Keeps a z0) :
    Keeps a (State.setPort z0 z1 z2) := by
  unfold State.setPort
  repeat' first
    | with_reducible assumption
    | fail_if_no_progress with_reducible refine Keeps.mk ?_ rfl rfl rfl

theorem modPort_keeps {a : State} {z0 : State} {z1 : Nat} {z2 : Port → Port} (h : Keeps a z0) :
    Keeps a (State.modPort z0 z1 z2) := by
  unfold State.modPort
  repeat' first
    | with_reducible assumption
    | with_reducible refine setPort_keeps ?_

theorem spareReg_keeps {a : State} {z0 : State} {z1 : Nat} {z2 : Nat} (h : Keeps a z0) :
    Keeps a (State.spareReg z0 z1 z2) := by
  unfold State.spareReg
  repeat' first
    | with_reducible assumption
    | exact rfl
    | with_reducible refine wr_keeps ?_ ?_
    | with_reducible refine Keeps.ite ?_ ?_

theorem portDown_keeps {a : State} {z0 : State} {z1 : Nat} {z2 : Bool} (h : Keeps a z0) :
    Keeps a (State.portDown z0 z1 z2) := by
  unfold State.portDown
  repeat' first
    | with_reducible assumption
    | exact rfl
    | with_reducible refine resetDomain_keeps ?_
    | with_reducible refine wr_keeps ?_ ?_
    | with_reducible refine modPort_keeps ?_
    | with_reducible refine Keeps.ite ?_ ?_
    | fail_if_no_progress with_reducible refine Keeps.mk ?_ rfl rfl rfl

theorem trainStart_keeps {a : State} {z0 : State} {z1 : Nat} (h : Keeps a z0) :
    Keeps a (State.trainStart z0 z1) := by
  unfold State.trainStart
  repeat' first
    | with_reducible assumption
    | exact rfl
    | with_reducible refine portDown_keeps ?_
    | with_reducible refine wr_keeps ?_ ?_
    | with_reducible refine setPort_keeps ?_
    | with_reducible refine bump_keeps ?_ ?_
    | with_reducible refine Keeps.ite ?_ ?_

theorem trainFail_keeps {a : State} {z0 : State} {z1 : Nat} {z2 : Nat} (h : Keeps a z0) :
    Keeps a (State.trainFail z0 z1 z2) := by
  unfold State.trainFail
  repeat' first
    | with_reducible assumption
    | exact rfl
    | with_reducible refine setPort_keeps ?_
    | with_reducible refine wr_keeps ?_ ?_
    | with_reducible refine raise_keeps ?_
    | with_reducible refine Keeps.ite ?_ ?_

theorem trainLanes_keeps {a : State} {z0 : State} {z1 : Nat} {z2 : Nat} (h : Keeps a z0) :
    Keeps a (State.trainLanes z0 z1 z2) := by
  unfold State.trainLanes
  repeat' first
    | with_reducible assumption
    | exact rfl
    | with_reducible refine setPort_keeps ?_
    | with_reducible refine wr_keeps ?_ ?_

theorem activate_keeps {a : State} {z0 : State} {z1 : Nat} {z2 : Nat} (h : Keeps a z0) :
    Keeps a (State.activate z0 z1 z2) := by
  unfold State.activate
  repeat' first
    | with_reducible assumption
    | exact rfl
    | with_reducible refine wr_keeps ?_ ?_
    | with_reducible refine spareReg_keeps ?_
    | with_reducible refine bumpBy_keeps ?_ ?_
    | with_reducible refine portFlush_keeps ?_
    | with_reducible refine setPort_keeps ?_
    | with_reducible refine Keeps.ite ?_ ?_

theorem remapNow_keeps {a : State} {z0 : State} {z1 : Nat} (h : Keeps a z0) :
    Keeps a (State.remapNow z0 z1) := by
  unfold State.remapNow
  repeat' first
    | with_reducible assumption
    | exact rfl
    | with_reducible refine modPort_keeps ?_
    | with_reducible refine portDown_keeps ?_
    | with_reducible refine wr_keeps ?_ ?_
    | with_reducible refine bump_keeps ?_ ?_
    | with_reducible refine spareReg_keeps ?_
    | with_reducible refine Keeps.ite ?_ ?_
    | split

theorem propose__keeps {a : State} {z0 : State} {z1 : Nat} {z2 : Bool} (h : Keeps a z0) :
    Keeps a (State.propose_ z0 z1 z2) := by
  unfold State.propose_
  repeat' first
    | with_reducible assumption
    | with_reducible refine portOut_keeps ?_
    | with_reducible refine modPort_keeps ?_
    | with_reducible refine Keeps.ite ?_ ?_

theorem failLane_keeps {a : State} {z0 : State} {z1 : Nat} {z2 : Nat} {z3 : Bool} {z4 : Nat} (h : Keeps a z0) :
    Keeps a (State.failLane z0 z1 z2 z3 z4) := by
  unfold State.failLane
  repeat' first
    | with_reducible assumption
    | exact rfl
    | with_reducible refine raise_keeps ?_
    | with_reducible refine wr_keeps ?_ ?_
    | with_reducible refine remapNow_keeps ?_
    | with_reducible refine propose__keeps ?_
    | with_reducible refine modPort_keeps ?_
    | with_reducible refine Keeps.ite ?_ ?_

theorem peerRemap_keeps {a : State} {z0 : State} {z1 : Nat} {z2 : Nat} {z3 : Nat} (h : Keeps a z0) :
    Keeps a (State.peerRemap z0 z1 z2 z3) := by
  unfold State.peerRemap
  repeat' first
    | with_reducible assumption
    | exact rfl
    | with_reducible refine modPort_keeps ?_
    | with_reducible refine wr_keeps ?_ ?_
    | with_reducible refine bump_keeps ?_ ?_
    | with_reducible refine Keeps.ite ?_ ?_

theorem bypClose_keeps {a : State} {z0 : State} (h : Keeps a z0) :
    Keeps a (State.bypClose z0) := by
  unfold State.bypClose
  repeat' first
    | with_reducible assumption
    | exact rfl
    | with_reducible refine portDown_keeps ?_
    | with_reducible refine wr_keeps ?_ ?_

theorem bypOpenNow_keeps {a : State} {z0 : State} (h : Keeps a z0) :
    Keeps a (State.bypOpenNow z0) := by
  unfold State.bypOpenNow
  repeat' first
    | with_reducible assumption
    | exact rfl
    | with_reducible refine wr_keeps ?_ ?_
    | with_reducible refine trainStart_keeps ?_
    | fail_if_no_progress with_reducible refine Keeps.mk ?_ rfl rfl rfl

theorem bdyBypass_keeps {a : State} {z0 : State} (h : Keeps a z0) :
    Keeps a (State.bdyBypass z0) := by
  unfold State.bdyBypass
  repeat' first
    | with_reducible assumption
    | with_reducible refine bypOpenNow_keeps ?_
    | with_reducible refine Keeps.ite ?_ ?_
    | fail_if_no_progress with_reducible refine Keeps.mk ?_ rfl rfl rfl

theorem bdyPorts_keeps {a : State} {z0 : State} (h : Keeps a z0) :
    Keeps a (State.bdyPorts z0) := by
  unfold State.bdyPorts
  repeat' first
    | with_reducible assumption
    | intro _
    | with_reducible refine activate_keeps ?_
    | with_reducible refine peerRemap_keeps ?_
    | with_reducible refine remapNow_keeps ?_
    | with_reducible refine Keeps.loop ?_ ?_
    | with_reducible refine Keeps.ite ?_ ?_
    | dsimp only
    | split

theorem sendTreeOf_keeps {a : State} {z0 : State} {z1 : Nat} {z2 : Msg} (h : Keeps a z0) :
    Keeps a (State.sendTreeOf z0 z1 z2) := by
  unfold State.sendTreeOf
  repeat' first
    | with_reducible assumption
    | intro _
    | with_reducible refine portOut_keeps ?_
    | with_reducible refine Keeps.loop ?_ ?_
    | with_reducible refine Keeps.ite ?_ ?_

theorem setRoles_keeps {a : State} {z0 : State} {z1 : Nat} {z2 : Nat} {z3 : Bool} {z4 : Nat} {z5 : Nat} (h : Keeps a z0) :
    Keeps a (State.setRoles z0 z1 z2 z3 z4 z5) := by
  unfold State.setRoles
  repeat' first
    | with_reducible assumption
    | exact rfl
    | with_reducible refine bump_keeps ?_ ?_
    | with_reducible refine wr_keeps ?_ ?_
    | with_reducible refine wrB_keeps ?_ ?_
    | with_reducible refine Keeps.ite ?_ ?_

theorem domainStart_keeps {a : State} {z0 : State} (h : Keeps a z0) :
    Keeps a (State.domainStart z0) := by
  unfold State.domainStart
  repeat' first
    | with_reducible assumption
    | exact rfl
    | with_reducible refine wr_keeps ?_ ?_
    | with_reducible refine setRoles_keeps ?_
    | with_reducible refine Keeps.ite ?_ ?_
    | split

theorem sendRoster_keeps {a : State} {z0 : State} (h : Keeps a z0) :
    Keeps a (State.sendRoster z0) := by
  unfold State.sendRoster
  repeat' first
    | with_reducible assumption
    | with_reducible refine sendTree_keeps ?_

theorem modRep_keeps {a : State} {z0 : State} {z1 : Nat} {z2 : Rep → Rep} (h : Keeps a z0) :
    Keeps a (State.modRep z0 z1 z2) := by
  unfold State.modRep
  repeat' first
    | with_reducible assumption
    | fail_if_no_progress with_reducible refine Keeps.mk ?_ rfl rfl rfl

theorem joinRefuse_keeps {a : State} {z0 : State} {z1 : Nat} (h : Keeps a z0) :
    Keeps a (State.joinRefuse z0 z1) := by
  unfold State.joinRefuse
  repeat' first
    | with_reducible assumption
    | exact rfl
    | with_reducible refine wr_keeps ?_ ?_

theorem joinCheck_keeps {a : State} {z0 : State} {z1 : Nat} (h : Keeps a z0) :
    Keeps a (State.joinCheck z0 z1) := by
  unfold State.joinCheck
  repeat' first
    | with_reducible assumption
    | exact rfl
    | with_reducible refine modRep_keeps ?_
    | with_reducible refine wr_keeps ?_ ?_
    | with_reducible refine joinRefuse_keeps ?_
    | with_reducible refine Keeps.ite ?_ ?_
    | dsimp only
    | split

theorem stateReport_keeps {a : State} {z0 : State} {z1 : Nat} {z2 : Nat} {z3 : Nat} {z4 : Nat} (h : Keeps a z0) :
    Keeps a (State.stateReport z0 z1 z2 z3 z4) := by
  unfold State.stateReport
  repeat' first
    | with_reducible assumption
    | with_reducible refine joinCheck_keeps ?_
    | with_reducible refine modRep_keeps ?_
    | split

theorem sendState_keeps {a : State} {z0 : State} (h : Keeps a z0) :
    Keeps a (State.sendState z0) := by
  unfold State.sendState
  repeat' first
    | with_reducible assumption
    | with_reducible refine stateReport_keeps ?_
    | with_reducible refine sendCtl_keeps ?_
    | with_reducible refine Keeps.ite ?_ ?_

theorem takeHold_keeps {a : State} {z0 : State} {z1 : Nat} {z2 : Bool} {z3 : Nat} (h : Keeps a z0) :
    Keeps a (State.takeHold z0 z1 z2 z3) := by
  unfold State.takeHold
  repeat' first
    | with_reducible assumption
    | with_reducible refine Keeps.ite ?_ ?_
    | fail_if_no_progress with_reducible refine Keeps.mk ?_ rfl rfl rfl
    | split

theorem takeReplica_keeps {a : State} {z0 : State} {z1 : Nat} {z2 : Nat} {z3 : Nat} (h : Keeps a z0) :
    Keeps a (State.takeReplica z0 z1 z2 z3) := by
  unfold State.takeReplica
  repeat' first
    | with_reducible assumption
    | with_reducible refine sendState_keeps ?_
    | with_reducible refine takeHold_keeps ?_
    | with_reducible refine Keeps.ite ?_ ?_
    | split

theorem sayReplica_keeps {a : State} {z0 : State} {z1 : Nat} {z2 : Nat} {z3 : Nat} (h : Keeps a z0) :
    Keeps a (State.sayReplica z0 z1 z2 z3) := by
  unfold State.sayReplica
  repeat' first
    | with_reducible assumption
    | exact rfl
    | with_reducible refine takeReplica_keeps ?_
    | with_reducible refine sendTree_keeps ?_
    | with_reducible refine wr_keeps ?_ ?_

theorem managerReport_keeps {a : State} {z0 : State} {z1 : Nat} {z2 : Nat} {z3 : Nat} (h : Keeps a z0) :
    Keeps a (State.managerReport z0 z1 z2 z3) := by
  unfold State.managerReport
  repeat' first
    | with_reducible assumption
    | with_reducible refine modRep_keeps ?_
    | with_reducible refine withdrawPlays_keeps ?_
    | with_reducible refine Keeps.ite ?_ ?_
    | dsimp only
    | split

theorem declare_keeps {a : State} {z0 : State} {z1 : Nat} {z2 : Nat} {z3 : Nat} (h : Keeps a z0) :
    Keeps a (State.declare z0 z1 z2 z3) := by
  unfold State.declare
  repeat' first
    | with_reducible assumption
    | exact rfl
    | with_reducible refine wr_keeps ?_ ?_
    | with_reducible refine bump_keeps ?_ ?_
    | with_reducible refine sayReplica_keeps ?_
    | with_reducible refine modRep_keeps ?_

theorem fates_keeps {a : State} {z0 : State} {z1 : Nat} (h : Keeps a z0) :
    Keeps a (State.fates z0 z1) := by
  unfold State.fates
  repeat' first
    | with_reducible assumption
    | intro _
    | exact rfl
    | with_reducible refine bump_keeps ?_ ?_
    | with_reducible refine modSeat_keeps ?_
    | with_reducible refine freeCarried_keeps ?_
    | with_reducible refine modRep_keeps ?_
    | with_reducible refine bumpBy_keeps ?_ ?_
    | with_reducible refine Keeps.foldl ?_ ?_
    | with_reducible refine Keeps.ite ?_ ?_
    | fail_if_no_progress with_reducible refine Keeps.mk ?_ rfl rfl rfl
    | split

theorem holdFirst_keeps {a : State} {z0 : State} {z1 : Ante} (h : Keeps a z0) :
    Keeps a (State.holdFirst z0 z1) := by
  unfold State.holdFirst
  repeat' first
    | with_reducible assumption
    | fail_if_no_progress with_reducible refine Keeps.mk ?_ rfl rfl rfl

theorem sendHistory_keeps {a : State} {z0 : State} {z1 : Nat} {z2 : List Nat} (h : Keeps a z0) :
    Keeps a (State.sendHistory z0 z1 z2) := by
  unfold State.sendHistory
  repeat' first
    | with_reducible assumption
    | intro _
    | with_reducible refine putParcel_keeps ?_
    | with_reducible refine Keeps.loop ?_ ?_
    | dsimp only
    | split

theorem carrySeat_keeps {a : State} {z0 : State} {z1 : Nat} (h : Keeps a z0) :
    Keeps a (State.carrySeat z0 z1) := by
  unfold State.carrySeat
  repeat' first
    | with_reducible assumption
    | exact rfl
    | with_reducible refine holdFirst_keeps ?_
    | with_reducible refine bump_keeps ?_ ?_
    | with_reducible refine setSeat_keeps ?_
    | with_reducible refine setCache_keeps ?_
    | with_reducible refine sendHistory_keeps ?_
    | with_reducible refine Keeps.ite ?_ ?_
    | fail_if_no_progress with_reducible refine Keeps.mk ?_ rfl rfl rfl
    | dsimp only
    | split

theorem bdyCarry_keeps {a : State} {z0 : State} (h : Keeps a z0) :
    Keeps a (State.bdyCarry z0) := by
  unfold State.bdyCarry
  repeat' first
    | with_reducible assumption
    | intro _
    | with_reducible refine carrySeat_keeps ?_
    | with_reducible refine Keeps.foldl ?_ ?_

theorem bdyRetire_keeps {a : State} {z0 : State} {z1 : Nat} (h : Keeps a z0) :
    Keeps a (State.bdyRetire z0 z1) := by
  unfold State.bdyRetire
  repeat' first
    | with_reducible assumption
    | exact rfl
    | with_reducible refine sayReplica_keeps ?_
    | with_reducible refine wr_keeps ?_ ?_
    | with_reducible refine modRep_keeps ?_
    | with_reducible refine Keeps.ite ?_ ?_
    | dsimp only
    | split

theorem bdyJoin_keeps {a : State} {z0 : State} {z1 : Nat} (h : Keeps a z0) :
    Keeps a (State.bdyJoin z0 z1) := by
  unfold State.bdyJoin
  repeat' first
    | with_reducible assumption
    | exact rfl
    | with_reducible refine sayReplica_keeps ?_
    | with_reducible refine wr_keeps ?_ ?_
    | with_reducible refine modRep_keeps ?_
    | with_reducible refine Keeps.ite ?_ ?_
    | dsimp only
    | split

theorem bdyDomain_keeps {a : State} {z0 : State} (h : Keeps a z0) :
    Keeps a (State.bdyDomain z0) := by
  unfold State.bdyDomain
  repeat' first
    | with_reducible assumption
    | intro _
    | with_reducible refine fates_keeps ?_
    | with_reducible refine bdyRetire_keeps ?_
    | with_reducible refine bdyJoin_keeps ?_
    | with_reducible refine bdyCarry_keeps ?_
    | with_reducible refine Keeps.foldl ?_ ?_
    | with_reducible refine Keeps.ite ?_ ?_
    | split

theorem mirror_keeps {a : State} {z0 : State} {z1 : Nat} {z2 : Nat} {z3 : Nat} {z4 : List Nat} (h : Keeps a z0) :
    Keeps a (State.mirror z0 z1 z2 z3 z4) := by
  unfold State.mirror
  repeat' first
    | with_reducible assumption
    | with_reducible refine sendCtl_keeps ?_

theorem mirrorDiff_keeps {a : State} {z0 : State} {z1 : State} {z2 : Nat} (h : Keeps a z0) :
    Keeps a (State.mirrorDiff z0 z1 z2) := by
  unfold State.mirrorDiff
  repeat' first
    | with_reducible assumption
    | intro _
    | with_reducible refine mirror_keeps ?_
    | with_reducible refine Keeps.foldl ?_ ?_
    | with_reducible refine Keeps.loop ?_ ?_
    | with_reducible refine Keeps.ite ?_ ?_

theorem mirrorAnte_keeps {a : State} {z0 : State} {z1 : Nat} {z2 : Word} {z3 : Entry} (h : Keeps a z0) :
    Keeps a (State.mirrorAnte z0 z1 z2 z3) := by
  unfold State.mirrorAnte
  repeat' first
    | with_reducible assumption
    | with_reducible refine dropAnte_keeps ?_
    | with_reducible refine holdFirst_keeps ?_
    | with_reducible refine hold__keeps ?_
    | with_reducible refine Keeps.ite ?_ ?_
    | split

theorem announce_keeps {a : State} {z0 : State} (h : Keeps a z0) :
    Keeps a (State.announce z0) := by
  unfold State.announce
  repeat' first
    | with_reducible assumption
    | with_reducible refine sendTree_keeps ?_
    | fail_if_no_progress with_reducible refine Keeps.mk ?_ rfl rfl rfl

theorem copyState_keeps {a : State} {z0 : State} {z1 : Nat} (h : Keeps a z0) :
    Keeps a (State.copyState z0 z1) := by
  unfold State.copyState
  repeat' first
    | with_reducible assumption
    | with_reducible refine mirrorDiff_keeps ?_
    | fail_if_no_progress with_reducible refine Keeps.mk ?_ rfl rfl rfl
    | split

theorem judge_keeps {a : State} {z0 : State} {z1 : Nat} (h : Keeps a z0) :
    Keeps a (State.judge z0 z1) := by
  unfold State.judge
  repeat' first
    | with_reducible assumption
    | intro _
    | with_reducible refine modRep_keeps ?_
    | with_reducible refine Keeps.foldl ?_ ?_
    | with_reducible refine Keeps.ite ?_ ?_

theorem decideSlot_keeps {a : State} {z0 : State} {z1 : Nat} (h : Keeps a z0) :
    Keeps a (State.decideSlot z0 z1) := by
  unfold State.decideSlot
  repeat' first
    | with_reducible assumption
    | with_reducible refine modRep_keeps ?_

theorem headSlot_keeps {a : State} {z0 : State} {z1 : Nat} {z2 : Nat} (h : Keeps a z0) :
    Keeps a (State.headSlot z0 z1 z2) := by
  unfold State.headSlot
  repeat' first
    | with_reducible assumption
    | with_reducible refine emit_keeps ?_
    | with_reducible refine formSlot_keeps ?_
    | with_reducible refine Keeps.ite ?_ ?_
    | fail_if_no_progress with_reducible refine Keeps.mk ?_ rfl rfl rfl

theorem formSlots_keeps {a : State} {z0 : State} {z1 : Nat} (h : Keeps a z0) :
    Keeps a (State.formSlots z0 z1) := by
  unfold State.formSlots
  repeat' first
    | with_reducible assumption
    | intro _
    | with_reducible refine headSlot_keeps ?_
    | with_reducible refine Keeps.foldl ?_ ?_
    | with_reducible refine Keeps.ite ?_ ?_

theorem decide__keeps {a : State} {z0 : State} {z1 : Nat} (h : Keeps a z0) :
    Keeps a (State.decide_ z0 z1) := by
  unfold State.decide_
  repeat' first
    | with_reducible assumption
    | intro _
    | with_reducible refine judge_keeps ?_
    | with_reducible refine admission_keeps ?_
    | with_reducible refine decideSlot_keeps ?_
    | with_reducible refine Keeps.foldl ?_ ?_
    | with_reducible refine Keeps.ite ?_ ?_
    | fail_if_no_progress with_reducible refine Keeps.mk ?_ rfl rfl rfl

theorem hbmBytes_keeps {a : State} {z0 : State} {z1 : Nat} {z2 : Nat} (h : Keeps a z0) :
    Keeps a (State.hbmBytes z0 z1 z2).1 := by
  unfold State.hbmBytes
  repeat' first
    | with_reducible assumption
    | with_reducible refine hbmReadRun_keeps ?_
    | dsimp only
    | split

theorem hbmStore_keeps {a : State} {z0 : State} {z1 : Nat} {z2 : Nat} {z3 : List (Nat × Bool)} {z4 : Nat} (h : Keeps a z0) :
    Keeps a (State.hbmStore z0 z1 z2 z3 z4) := by
  induction z4 generalizing z0 z1 z2 z3 with
  | zero =>
    unfold State.hbmStore
    first | exact h | (repeat' first | with_reducible assumption | split)
  | succ n ih =>
    unfold State.hbmStore
    repeat' first
      | with_reducible assumption
      | with_reducible refine ih ?_
      | with_reducible refine hbmRead_keeps ?_
      | with_reducible refine hbmProgWrite_keeps ?_
      | dsimp only
      | split

theorem runSeal_keeps {a : State} {z0 : State} {z1 : RunShape} {z2 : Nat} {z3 : Nat} (h : Keeps a z0) :
    Keeps a (State.runSeal z0 z1 z2 z3).1 := by
  unfold State.runSeal
  repeat' first
    | with_reducible assumption
    | with_reducible refine hbmBytes_keeps ?_

theorem sealSlots_keeps {a : State} {z0 : State} {z1 : Nat} (h : Keeps a z0) :
    Keeps a (State.sealSlots z0 z1).1 := by
  unfold State.sealSlots
  repeat' first
    | with_reducible assumption
    | with_reducible refine hbmRead_keeps ?_

theorem trimPage_keeps {a : State} {z0 : State} {z1 : Nat} {z2 : Nat} {z3 : Nat} {z4 : Nat} (h : Keeps a z0) :
    Keeps a (State.trimPage z0 z1 z2 z3 z4) := by
  unfold State.trimPage
  repeat' first
    | with_reducible assumption
    | intro _
    | with_reducible refine sealSlots_keeps ?_
    | with_reducible refine runSeal_keeps ?_
    | with_reducible refine hbmPatch_keeps ?_
    | with_reducible refine Keeps.loop ?_ ?_
    | dsimp only
    | split

theorem bdyTrim_keeps {a : State} {z0 : State} (h : Keeps a z0) :
    Keeps a (State.bdyTrim z0) := by
  unfold State.bdyTrim
  repeat' first
    | with_reducible assumption
    | intro _
    | with_reducible refine trimPage_keeps ?_
    | with_reducible refine setCache_keeps ?_
    | with_reducible refine Keeps.foldl ?_ ?_
    | with_reducible refine Keeps.loop ?_ ?_
    | with_reducible refine Keeps.ite ?_ ?_
    | fail_if_no_progress with_reducible refine Keeps.mk ?_ rfl rfl rfl

theorem opTrap_keeps {a : State} {z0 : State} {z1 : Nat} {z2 : QOp} {z3 : Nat} {z4 : Word} (h : Keeps a z0) :
    Keeps a (State.opTrap z0 z1 z2 z3 z4) := by
  unfold State.opTrap
  repeat' first
    | with_reducible assumption
    | with_reducible refine trapFault_keeps ?_
    | with_reducible refine opDone_keeps ?_
    | with_reducible refine opLeave_keeps ?_
    | with_reducible refine Keeps.ite ?_ ?_

theorem putWords_keeps {a : State} {z0 : State} {z1 : Nat} {z2 : Nat} {z3 : List (Word × Bool)} (h : Keeps a z0) :
    Keeps a (State.putWords z0 z1 z2 z3) := by
  unfold State.putWords
  repeat' first
    | with_reducible assumption
    | with_reducible refine modFace_keeps ?_
    | with_reducible refine raceWrite_keeps ?_
    | with_reducible refine injBytes_keeps ?_
    | with_reducible refine Keeps.ite ?_ ?_

theorem takeWords_keeps {a : State} {z0 : State} {z1 : Nat} {z2 : Nat} {z3 : Nat} (h : Keeps a z0) :
    Keeps a (State.takeWords z0 z1 z2 z3).1 := by
  unfold State.takeWords
  repeat' first
    | with_reducible assumption
    | with_reducible refine padTouchRange_keeps ?_

theorem putBytes_keeps {a : State} {z0 : State} {z1 : Nat} {z2 : Nat} {z3 : List (Nat × Bool)} (h : Keeps a z0) :
    Keeps a (State.putBytes z0 z1 z2 z3) := by
  unfold State.putBytes
  repeat' first
    | with_reducible assumption
    | with_reducible refine progStore_keeps ?_

theorem countHbm_keeps {a : State} {z0 : State} {z1 : Nat} {z2 : Nat} (h : Keeps a z0) :
    Keeps a (State.countHbm z0 z1 z2) := by
  unfold State.countHbm
  repeat' first
    | with_reducible assumption
    | exact rfl
    | with_reducible refine bumpBy_keeps ?_ ?_
    | with_reducible refine modFace_keeps ?_

theorem countMesh_keeps {a : State} {z0 : State} {z1 : Nat} {z2 : Nat} (h : Keeps a z0) :
    Keeps a (State.countMesh z0 z1 z2) := by
  unfold State.countMesh
  repeat' first
    | with_reducible assumption
    | exact rfl
    | with_reducible refine bumpBy_keeps ?_ ?_
    | with_reducible refine modFace_keeps ?_

theorem movlDone_keeps {a : State} {z0 : State} {z1 : Nat} {z2 : QOp} (h : Keeps a z0) :
    Keeps a (State.movlDone z0 z1 z2) := by
  unfold State.movlDone
  repeat' first
    | with_reducible assumption
    | with_reducible refine takeWords_keeps ?_
    | with_reducible refine putWords_keeps ?_

theorem movfCopy_keeps {a : State} {z0 : State} {z1 : Nat} {z2 : Nat} {z3 : QOp} {z4 : List (Word × Bool)} (h : Keeps a z0) :
    Keeps a (State.movfCopy z0 z1 z2 z3 z4) := by
  unfold State.movfCopy
  repeat' first
    | with_reducible assumption
    | intro _
    | with_reducible refine putWords_keeps ?_
    | with_reducible refine putArrival_keeps ?_
    | with_reducible refine Keeps.loop ?_ ?_
    | with_reducible refine Keeps.ite ?_ ?_

theorem movfSignal_keeps {a : State} {z0 : State} {z1 : Nat} {z2 : Nat} {z3 : QOp} (h : Keeps a z0) :
    Keeps a (State.movfSignal z0 z1 z2 z3) := by
  unfold State.movfSignal
  repeat' first
    | with_reducible assumption
    | with_reducible refine signal_keeps ?_
    | with_reducible refine Keeps.ite ?_ ?_

theorem movfDone_keeps {a : State} {z0 : State} {z1 : Nat} {z2 : QOp} (h : Keeps a z0) :
    Keeps a (State.movfDone z0 z1 z2) := by
  unfold State.movfDone
  repeat' first
    | with_reducible assumption
    | intro _
    | with_reducible refine takeWords_keeps ?_
    | with_reducible refine movfSignal_keeps ?_
    | with_reducible refine movfCopy_keeps ?_
    | with_reducible refine countMesh_keeps ?_
    | with_reducible refine Keeps.foldl ?_ ?_
    | with_reducible refine Keeps.ite ?_ ?_

theorem hrdDone_keeps {a : State} {z0 : State} {z1 : Nat} {z2 : QOp} (h : Keeps a z0) :
    Keeps a (State.hrdDone z0 z1 z2) := by
  unfold State.hrdDone
  repeat' first
    | with_reducible assumption
    | intro _
    | with_reducible refine cacheRead_keeps ?_
    | with_reducible refine hbmReadRun_keeps ?_
    | with_reducible refine countHbm_keeps ?_
    | with_reducible refine putWords_keeps ?_
    | with_reducible refine Keeps.loop_fst ?_ ?_
    | dsimp only
    | split

theorem hwrDone_keeps {a : State} {z0 : State} {z1 : Nat} {z2 : QOp} (h : Keeps a z0) :
    Keeps a (State.hwrDone z0 z1 z2) := by
  unfold State.hwrDone
  repeat' first
    | with_reducible assumption
    | intro _
    | with_reducible refine takeWords_keeps ?_
    | with_reducible refine countHbm_keeps ?_
    | with_reducible refine hbmProgWrite_keeps ?_
    | with_reducible refine Keeps.loop ?_ ?_

theorem gatherDone_keeps {a : State} {z0 : State} {z1 : Nat} {z2 : QOp} {z3 : Nat} (h : Keeps a z0) :
    Keeps a (State.gatherDone z0 z1 z2 z3) := by
  unfold State.gatherDone
  repeat' first
    | with_reducible assumption
    | intro _
    | with_reducible refine padTouchRange_keeps ?_
    | with_reducible refine countHbm_keeps ?_
    | with_reducible refine hbmReadRun_keeps ?_
    | with_reducible refine putWords_keeps ?_
    | with_reducible refine Keeps.loop ?_ ?_

theorem noteSent_keeps {a : State} {z0 : State} {z1 : Nat} {z2 : Nat} {z3 : Nat} {z4 : Nat} (h : Keeps a z0) :
    Keeps a (State.noteSent z0 z1 z2 z3 z4) := by
  unfold State.noteSent
  repeat' first
    | with_reducible assumption
    | fail_if_no_progress with_reducible refine Keeps.mk ?_ rfl rfl rfl

theorem sendStart_keeps {a : State} {z0 : State} {z1 : Nat} {z2 : QOp} (h : Keeps a z0) :
    Keeps a (State.sendStart z0 z1 z2) := by
  unfold State.sendStart
  repeat' first
    | with_reducible assumption
    | intro _
    | with_reducible refine takeWords_keeps ?_
    | with_reducible refine modFace_keeps ?_
    | with_reducible refine setOp_keeps ?_
    | with_reducible refine noteSent_keeps ?_
    | with_reducible refine putParcel_keeps ?_
    | with_reducible refine Keeps.loop ?_ ?_

theorem sigrStart_keeps {a : State} {z0 : State} {z1 : Nat} {z2 : QOp} (h : Keeps a z0) :
    Keeps a (State.sigrStart z0 z1 z2) := by
  unfold State.sigrStart
  repeat' first
    | with_reducible assumption
    | with_reducible refine putParcel_keeps ?_
    | with_reducible refine wake_keeps ?_
    | with_reducible refine opLeave_keeps ?_
    | fail_if_no_progress with_reducible refine Keeps.mk ?_ rfl rfl rfl

theorem stockWrite_keeps {a : State} {z0 : State} {z1 : KeySet} {z2 : Nat} {z3 : Nat} {z4 : Nat} {z5 : List Word} {z6 : List Word} {z7 : List Word} (h : Keeps a z0) :
    Keeps a (State.stockWrite z0 z1 z2 z3 z4 z5 z6 z7) := by
  unfold State.stockWrite
  repeat' first
    | with_reducible assumption
    | with_reducible refine hostWrite_keeps ?_

theorem committedSeals_keeps {a : State} {z0 : State} {z1 : Nat} {z2 : Nat} {z3 : Nat} (h : Keeps a z0) :
    Keeps a (State.committedSeals z0 z1 z2 z3).1 := by
  unfold State.committedSeals
  repeat' first
    | with_reducible assumption
    | intro _
    | with_reducible refine sealSlots_keeps ?_
    | with_reducible refine Keeps.loop_fst ?_ ?_

theorem noteMoved_keeps {a : State} {z0 : State} {z1 : Nat} {z2 : Nat} (h : Keeps a z0) :
    Keeps a (State.noteMoved z0 z1 z2) := by
  unfold State.noteMoved
  repeat' first
    | with_reducible assumption
    | fail_if_no_progress with_reducible refine Keeps.mk ?_ rfl rfl rfl

theorem stkoutDone_keeps {a : State} {z0 : State} {z1 : Nat} {z2 : QOp} (h : Keeps a z0) :
    Keeps a (State.stkoutDone z0 z1 z2) := by
  unfold State.stkoutDone
  repeat' first
    | with_reducible assumption
    | exact rfl
    | with_reducible refine hbmReadRun_keeps ?_
    | with_reducible refine committedSeals_keeps ?_
    | with_reducible refine countHbm_keeps ?_
    | with_reducible refine noteMoved_keeps ?_
    | with_reducible refine bump_keeps ?_ ?_
    | with_reducible refine stockWrite_keeps ?_
    | with_reducible refine bumpBy_keeps ?_ ?_
    | with_reducible refine Keeps.ite ?_ ?_
    | fail_if_no_progress with_reducible refine Keeps.mk ?_ rfl rfl rfl
    | dsimp only
    | split

theorem dropShare_keeps {a : State} {z0 : State} {z1 : Nat} {z2 : Nat} (h : Keeps a z0) :
    Keeps a (State.dropShare z0 z1 z2) := by
  unfold State.dropShare
  repeat' first
    | with_reducible assumption
    | intro _
    | with_reducible refine cacheDrop_keeps ?_
    | with_reducible refine Keeps.loop ?_ ?_
    | with_reducible refine Keeps.ite ?_ ?_

theorem stkinDone_keeps {a : State} {z0 : State} {z1 : Nat} {z2 : QOp} {z3 : Share} (h : Keeps a z0) :
    Keeps a (State.stkinDone z0 z1 z2 z3) := by
  unfold State.stkinDone
  repeat' first
    | with_reducible assumption
    | exact rfl
    | with_reducible refine forced_keeps ?_
    | with_reducible refine raise_keeps ?_
    | with_reducible refine bump_keeps ?_ ?_
    | with_reducible refine noteMoved_keeps ?_
    | with_reducible refine countHbm_keeps ?_
    | with_reducible refine dropShare_keeps ?_
    | with_reducible refine putShare_keeps ?_
    | with_reducible refine Keeps.ite ?_ ?_
    | fail_if_no_progress with_reducible refine Keeps.mk ?_ rfl rfl rfl
    | split

theorem moverStart_keeps {a : State} {z0 : State} {z1 : Nat} {z2 : QOp} (h : Keeps a z0) :
    Keeps a (State.moverStart z0 z1 z2) := by
  unfold State.moverStart
  repeat' first
    | with_reducible assumption
    | with_reducible refine opTrap_keeps ?_
    | with_reducible refine sigrStart_keeps ?_
    | with_reducible refine trapFault_keeps ?_
    | with_reducible refine setOp_keeps ?_
    | with_reducible refine sendStart_keeps ?_
    | with_reducible refine Keeps.ite ?_ ?_
    | split

theorem moverDone_keeps {a : State} {z0 : State} {z1 : Nat} {z2 : QOp} {z3 : Option Share} (h : Keeps a z0) :
    Keeps a (State.moverDone z0 z1 z2 z3) := by
  unfold State.moverDone
  repeat' first
    | with_reducible assumption
    | with_reducible refine movlDone_keeps ?_
    | with_reducible refine movfDone_keeps ?_
    | with_reducible refine hrdDone_keeps ?_
    | with_reducible refine hwrDone_keeps ?_
    | with_reducible refine gatherDone_keeps ?_
    | with_reducible refine stkoutDone_keeps ?_
    | with_reducible refine stkinDone_keeps ?_
    | with_reducible refine Keeps.ite ?_ ?_
    | split

theorem allocPage_keeps {a : State} {z0 : State} {z1 : Nat} {z2 : Nat} (h : Keeps a z0) :
    Keeps a (State.allocPage z0 z1 z2) := by
  unfold State.allocPage
  repeat' first
    | with_reducible assumption
    | intro _
    | with_reducible refine raise_keeps ?_
    | with_reducible refine takeFrames_keeps ?_
    | with_reducible refine hbmPatch_keeps ?_
    | with_reducible refine Keeps.loop ?_ ?_
    | with_reducible refine Keeps.ite ?_ ?_
    | fail_if_no_progress with_reducible refine Keeps.mk ?_ rfl rfl rfl

theorem allocPages_keeps {a : State} {z0 : State} (h : Keeps a z0) :
    Keeps a (State.allocPages z0) := by
  unfold State.allocPages
  repeat' first
    | with_reducible assumption
    | intro _
    | with_reducible refine allocPage_keeps ?_
    | with_reducible refine Keeps.foldl ?_ ?_
    | with_reducible refine Keeps.loop ?_ ?_
    | with_reducible refine Keeps.ite ?_ ?_

theorem dealDone_keeps {a : State} {z0 : State} {z1 : Nat} {z2 : QOp} (h : Keeps a z0) :
    Keeps a (State.dealDone z0 z1 z2) := by
  unfold State.dealDone
  repeat' first
    | with_reducible assumption
    | with_reducible refine padTouchRange_keeps ?_
    | with_reducible refine raise_keeps ?_
    | with_reducible refine Keeps.ite ?_ ?_
    | fail_if_no_progress with_reducible refine Keeps.mk ?_ rfl rfl rfl

theorem servingStart_keeps {a : State} {z0 : State} {z1 : Nat} {z2 : QOp} (h : Keeps a z0) :
    Keeps a (State.servingStart z0 z1 z2) := by
  unfold State.servingStart
  repeat' first
    | with_reducible assumption
    | with_reducible refine opTrap_keeps ?_
    | with_reducible refine Keeps.ite ?_ ?_
    | fail_if_no_progress with_reducible refine Keeps.mk ?_ rfl rfl rfl
    | dsimp only
    | split

theorem servingDone_keeps {a : State} {z0 : State} {z1 : Nat} {z2 : QOp} {z3 : List Nat} (h : Keeps a z0) :
    Keeps a (State.servingDone z0 z1 z2 z3) := by
  unfold State.servingDone
  repeat' first
    | with_reducible assumption
    | with_reducible refine putBytes_keeps ?_
    | with_reducible refine allocPages_keeps ?_
    | with_reducible refine draw_keeps ?_
    | with_reducible refine dealDone_keeps ?_
    | with_reducible refine Keeps.ite ?_ ?_
    | fail_if_no_progress with_reducible refine Keeps.mk ?_ rfl rfl rfl

theorem takeStock_keeps {a : State} {z0 : State} {u : Nat × State} (e : State.takeStock z0 = some u) (h : Keeps a z0) :
    Keeps a u.2 := by
  unfold State.takeStock at e
  try dsimp only at e
  repeat' split at e
  all_goals first | (injection e with e; subst e) | (injection e)
  repeat' first
    | with_reducible assumption
    | fail_if_no_progress with_reducible refine Keeps.mk ?_ rfl rfl rfl

theorem setPte_keeps {a : State} {z0 : State} {z1 : Nat} {z2 : Nat} {z3 : Pte} (h : Keeps a z0) :
    Keeps a (State.setPte z0 z1 z2 z3) := by
  unfold State.setPte
  repeat' first
    | with_reducible assumption
    | with_reducible refine setCache_keeps ?_

theorem issueTicket_keeps {a : State} {z0 : State} {z1 : Nat} {z2 : Nat} {z3 : Nat} {z4 : Bool} {z5 : Bool} (h : Keeps a z0) :
    Keeps a (State.issueTicket z0 z1 z2 z3 z4 z5) := by
  unfold State.issueTicket
  repeat' first
    | with_reducible assumption
    | fail_if_no_progress with_reducible refine Keeps.mk ?_ rfl rfl rfl

theorem ticketsOut_keeps {a : State} {z0 : State} {z1 : Nat} {z2 : Bool} {z3 : Nat} (h : Keeps a z0) :
    Keeps a (State.ticketsOut z0 z1 z2 z3).1 := by
  unfold State.ticketsOut
  repeat' first
    | with_reducible assumption
    | intro _
    | with_reducible refine takeStock_keeps (by assumption) ?_
    | with_reducible refine issueTicket_keeps ?_
    | with_reducible refine setPte_keeps ?_
    | with_reducible refine Keeps.foldl_fst ?_ ?_
    | dsimp only
    | split

theorem ticketsIn_keeps {a : State} {z0 : State} {z1 : Nat} {z2 : Nat} (h : Keeps a z0) :
    Keeps a (State.ticketsIn z0 z1 z2).1 := by
  unfold State.ticketsIn
  repeat' first
    | with_reducible assumption
    | intro _
    | with_reducible refine takeFrames_keeps ?_
    | with_reducible refine issueTicket_keeps ?_
    | with_reducible refine setPte_keeps ?_
    | with_reducible refine Keeps.foldl_fst ?_ ?_
    | fail_if_no_progress with_reducible refine Keeps.mk ?_ rfl rfl rfl
    | dsimp only
    | split

theorem issueTickets_keeps {a : State} {z0 : State} {z1 : List (Nat × Bool × Bool)} (h : Keeps a z0) :
    Keeps a (State.issueTickets z0 z1) := by
  unfold State.issueTickets
  repeat' first
    | with_reducible assumption
    | intro _
    | with_reducible refine ticketsOut_keeps ?_
    | with_reducible refine ticketsIn_keeps ?_
    | with_reducible refine Keeps.foldl_fst ?_ ?_

theorem ticketEnd_keeps {a : State} {z0 : State} {z1 : Bool} {z2 : Nat} (h : Keeps a z0) :
    Keeps a (State.ticketEnd z0 z1 z2) := by
  unfold State.ticketEnd
  repeat' first
    | with_reducible assumption
    | with_reducible refine setPte_keeps ?_
    | with_reducible refine Keeps.ite ?_ ?_
    | fail_if_no_progress with_reducible refine Keeps.mk ?_ rfl rfl rfl
    | dsimp only
    | split

theorem seatsMoved_keeps {a : State} {z0 : State} (h : Keeps a z0) :
    Keeps a (State.seatsMoved z0) := by
  unfold State.seatsMoved
  repeat' first
    | with_reducible assumption
    | intro _
    | with_reducible refine modSeat_keeps ?_
    | with_reducible refine Keeps.foldl ?_ ?_
    | with_reducible refine Keeps.ite ?_ ?_

theorem advanceLens_keeps {a : State} {z0 : State} (h : Keeps a z0) :
    Keeps a (State.advanceLens z0) := by
  unfold State.advanceLens
  repeat' first
    | with_reducible assumption
    | intro _
    | with_reducible refine setCache_keeps ?_
    | with_reducible refine modSeat_keeps ?_
    | with_reducible refine Keeps.foldl ?_ ?_
    | with_reducible refine Keeps.ite ?_ ?_

theorem commitPages_keeps {a : State} {z0 : State} (h : Keeps a z0) :
    Keeps a (State.commitPages z0) := by
  unfold State.commitPages
  repeat' first
    | with_reducible assumption
    | intro _
    | with_reducible refine setPte_keeps ?_
    | with_reducible refine ticketEnd_keeps ?_
    | with_reducible refine modSeat_keeps ?_
    | with_reducible refine emit_keeps ?_
    | with_reducible refine seatsMoved_keeps ?_
    | with_reducible refine Keeps.foldl ?_ ?_
    | with_reducible refine Keeps.ite ?_ ?_

theorem misdealPages_keeps {a : State} {z0 : State} (h : Keeps a z0) :
    Keeps a (State.misdealPages z0) := by
  unfold State.misdealPages
  repeat' first
    | with_reducible assumption
    | intro _
    | with_reducible refine ticketEnd_keeps ?_
    | with_reducible refine Keeps.foldl ?_ ?_
    | fail_if_no_progress with_reducible refine Keeps.mk ?_ rfl rfl rfl

end Sys2Proof.Machine
end

