-- ==== Sys2Proof/Laws/KeepArray.lean ====
section
/-! SUPPORT. What the operations of Machine/ScoreRun.lean, Machine/Blocks.lean, Machine/Records.lean, Machine/Calibration.lean, Machine/Faults.lean, Machine/ArrayRun.lean, Machine/FineRun.lean, Machine/EngineOps.lean, Machine/Mesh.lean keep: one lemma per operation. -/
namespace Sys2Proof.Machine

theorem setArr_keeps {a : State} {z0 : State} {z1 : Nat} {z2 : Nat} {z3 : Nat} {z4 : ArrMem} (h : Keeps a z0) :
    Keeps a (State.setArr z0 z1 z2 z3 z4) := by
  unfold State.setArr
  repeat' first
    | with_reducible assumption
    | fail_if_no_progress with_reducible refine Keeps.mk ?_ rfl rfl rfl

theorem modArr_keeps {a : State} {z0 : State} {z1 : Nat} {z2 : Nat} {z3 : Nat} {z4 : ArrMem → ArrMem} (h : Keeps a z0) :
    Keeps a (State.modArr z0 z1 z2 z3 z4) := by
  unfold State.modArr
  repeat' first
    | with_reducible assumption
    | with_reducible refine setArr_keeps ?_

theorem setAState_keeps {a : State} {z0 : State} {z1 : Nat} {z2 : Nat} {z3 : Nat} {z4 : Nat} (h : Keeps a z0) :
    Keeps a (State.setAState z0 z1 z2 z3 z4) := by
  unfold State.setAState
  repeat' first
    | with_reducible assumption
    | exact rfl
    | with_reducible refine wr_keeps ?_ ?_

theorem setReady_keeps {a : State} {z0 : State} {z1 : Nat} {z2 : Nat} {z3 : Nat} {z4 : Bool} (h : Keeps a z0) :
    Keeps a (State.setReady z0 z1 z2 z3 z4) := wrB_keeps h (free_ite rfl rfl)

theorem mapSlot_keeps {a : State} {z0 : State} {z1 : Nat} {z2 : Nat} {z3 : Nat} {z4 : Nat} (h : Keeps a z0) :
    Keeps a (State.mapSlot z0 z1 z2 z3 z4) := by
  unfold State.mapSlot
  repeat' first
    | with_reducible assumption
    | exact rfl
    | with_reducible refine wr_keeps ?_ ?_

theorem modCopy_keeps {a : State} {z0 : State} {z1 : Nat} {z2 : Nat} {z3 : Nat} {z4 : WsCopy → WsCopy} (h : Keeps a z0) :
    Keeps a (State.modCopy z0 z1 z2 z3 z4) := by
  unfold State.modCopy
  repeat' first
    | with_reducible assumption
    | with_reducible refine modFace_keeps ?_

theorem digestNow_keeps {a : State} {z0 : State} {z1 : Nat} {z2 : Nat} {z3 : Nat} {z4 : Nat} {z5 : Nat} (h : Keeps a z0) :
    Keeps a (State.digestNow z0 z1 z2 z3 z4 z5).2 := by
  unfold State.digestNow
  repeat' first
    | with_reducible assumption
    | with_reducible refine forced_keeps ?_

theorem checkReady_keeps {a : State} {z0 : State} {z1 : Nat} {z2 : Nat} {z3 : Nat} (h : Keeps a z0) :
    Keeps a (State.checkReady z0 z1 z2 z3) := by
  unfold State.checkReady
  repeat' first
    | with_reducible assumption
    | with_reducible refine setReady_keeps ?_
    | with_reducible refine Keeps.ite ?_ ?_

theorem noteSlots_keeps {a : State} {z0 : State} (h : Keeps a z0) :
    Keeps a (State.noteSlots z0) := by
  unfold State.noteSlots
  repeat' first
    | with_reducible assumption
    | exact rfl
    | with_reducible refine wr_keeps ?_ ?_

theorem startJob_keeps {a : State} {z0 : State} {z1 : WJob} (h : Keeps a z0) :
    Keeps a (State.startJob z0 z1) := by
  unfold State.startJob
  repeat' first
    | with_reducible assumption
    | exact rfl
    | with_reducible refine modArr_keeps ?_
    | with_reducible refine wr_keeps ?_ ?_
    | with_reducible refine setAState_keeps ?_
    | fail_if_no_progress with_reducible refine Keeps.mk ?_ rfl rfl rfl

theorem grantWrites_keeps {a : State} {z0 : State} (h : Keeps a z0) :
    Keeps a (State.grantWrites z0) := by
  unfold State.grantWrites
  repeat' first
    | with_reducible assumption
    | intro _
    | with_reducible refine noteSlots_keeps ?_
    | with_reducible refine startJob_keeps ?_
    | with_reducible refine Keeps.loop ?_ ?_
    | with_reducible refine Keeps.ite ?_ ?_
    | dsimp only
    | split

theorem queueWrite_keeps {a : State} {z0 : State} {z1 : WJob} (h : Keeps a z0) :
    Keeps a (State.queueWrite z0 z1) := by
  unfold State.queueWrite
  repeat' first
    | with_reducible assumption
    | with_reducible refine grantWrites_keeps ?_
    | fail_if_no_progress with_reducible refine Keeps.mk ?_ rfl rfl rfl

theorem wear_keeps {a : State} {z0 : State} {z1 : Nat} {z2 : Nat} {z3 : Nat} (h : Keeps a z0) :
    Keeps a (State.wear z0 z1 z2 z3) := by
  unfold State.wear
  repeat' first
    | with_reducible assumption
    | exact rfl
    | with_reducible refine wr_keeps ?_ ?_
    | with_reducible refine Keeps.ite ?_ ?_

theorem clearMon_keeps {a : State} {z0 : State} {z1 : Nat} {z2 : Nat} {z3 : Nat} (h : Keeps a z0) :
    Keeps a (State.clearMon z0 z1 z2 z3) := by
  unfold State.clearMon
  repeat' first
    | with_reducible assumption
    | fail_if_no_progress with_reducible refine Keeps.mk ?_ rfl rfl rfl

theorem noteFlags_keeps {a : State} {z0 : State} {z1 : Nat} {z2 : Nat} (h : Keeps a z0) :
    Keeps a (State.noteFlags z0 z1 z2) := by
  unfold State.noteFlags
  repeat' first
    | with_reducible assumption
    | exact rfl
    | with_reducible refine wr_keeps ?_ ?_

theorem modCal_keeps {a : State} {z0 : State} {z1 : Nat} {z2 : Nat} {z3 : CalBlk → CalBlk} (h : Keeps a z0) :
    Keeps a (State.modCal z0 z1 z2 z3) := by
  unfold State.modCal
  repeat' first
    | with_reducible assumption
    | fail_if_no_progress with_reducible refine Keeps.mk ?_ rfl rfl rfl

theorem calPick_keeps {a : State} {z0 : State} {z1 : Nat} (h : Keeps a z0) :
    Keeps a (State.calPick z0 z1) := by
  unfold State.calPick
  repeat' first
    | with_reducible assumption
    | with_reducible refine modCal_keeps ?_
    | with_reducible refine Keeps.ite ?_ ?_
    | dsimp only
    | split

theorem calRequest_keeps {a : State} {z0 : State} {z1 : Nat} {z2 : Nat} {z3 : Nat} (h : Keeps a z0) :
    Keeps a (State.calRequest z0 z1 z2 z3) := by
  unfold State.calRequest
  repeat' first
    | with_reducible assumption
    | exact rfl
    | with_reducible refine wr_keeps ?_ ?_
    | with_reducible refine modCal_keeps ?_
    | with_reducible refine calPick_keeps ?_
    | with_reducible refine Keeps.ite ?_ ?_
    | fail_if_no_progress with_reducible refine Keeps.mk ?_ rfl rfl rfl
    | split

theorem dropCheck_keeps {a : State} {z0 : State} {z1 : Nat} {z2 : Nat} (h : Keeps a z0) :
    Keeps a (State.dropCheck z0 z1 z2) := by
  unfold State.dropCheck
  repeat' first
    | with_reducible assumption
    | exact rfl
    | with_reducible refine wr_keeps ?_ ?_
    | fail_if_no_progress with_reducible refine Keeps.mk ?_ rfl rfl rfl

theorem spareFor_keeps {a : State} {z0 : State} {z1 : Nat} {z2 : Nat} (h : Keeps a z0) :
    Keeps a (State.spareFor z0 z1 z2).1 := by
  unfold State.spareFor
  repeat' first
    | with_reducible assumption
    | exact rfl
    | with_reducible refine setAState_keeps ?_
    | with_reducible refine dropCheck_keeps ?_
    | with_reducible refine raise_keeps ?_
    | with_reducible refine wr_keeps ?_ ?_
    | fail_if_no_progress with_reducible refine Keeps.mk ?_ rfl rfl rfl
    | dsimp only
    | split

theorem loseArray_keeps {a : State} {z0 : State} {z1 : Nat} {z2 : Nat} {z3 : Nat} {z4 : Option WJob} (h : Keeps a z0) :
    Keeps a (State.loseArray z0 z1 z2 z3 z4) := by
  unfold State.loseArray
  repeat' first
    | with_reducible assumption
    | with_reducible refine faceFault_keeps ?_
    | with_reducible refine raise_keeps ?_
    | with_reducible refine setAState_keeps ?_
    | with_reducible refine spareFor_keeps ?_
    | with_reducible refine queueWrite_keeps ?_
    | dsimp only
    | split

theorem startRetire_keeps {a : State} {z0 : State} {z1 : Nat} {z2 : Nat} {z3 : Nat} {z4 : Bool} (h : Keeps a z0) :
    Keeps a (State.startRetire z0 z1 z2 z3 z4) := by
  unfold State.startRetire
  repeat' first
    | with_reducible assumption
    | exact rfl
    | with_reducible refine dropCheck_keeps ?_
    | with_reducible refine raise_keeps ?_
    | with_reducible refine setAState_keeps ?_
    | with_reducible refine wrB_keeps ?_ ?_
    | with_reducible refine digestNow_keeps ?_
    | with_reducible refine modArr_keeps ?_
    | with_reducible refine queueWrite_keeps ?_
    | with_reducible refine spareFor_keeps ?_
    | with_reducible refine Keeps.ite ?_ ?_
    | fail_if_no_progress with_reducible refine Keeps.mk ?_ rfl rfl rfl
    | dsimp only
    | split

theorem stuckArray_keeps {a : State} {z0 : State} {z1 : Nat} {z2 : Nat} {z3 : Nat} (h : Keeps a z0) :
    Keeps a (State.stuckArray z0 z1 z2 z3) := by
  unfold State.stuckArray
  repeat' first
    | with_reducible assumption
    | exact rfl
    | with_reducible refine raise_keeps ?_
    | with_reducible refine wr_keeps ?_ ?_
    | with_reducible refine setAState_keeps ?_
    | with_reducible refine Keeps.ite ?_ ?_
    | fail_if_no_progress with_reducible refine Keeps.mk ?_ rfl rfl rfl

theorem switchSlot_keeps {a : State} {z0 : State} {z1 : Nat} {z2 : Nat} {z3 : Nat} {z4 : Nat} {z5 : Nat} {z6 : Nat} (h : Keeps a z0) :
    Keeps a (State.switchSlot z0 z1 z2 z3 z4 z5 z6) := by
  unfold State.switchSlot
  repeat' first
    | with_reducible assumption
    | exact rfl
    | with_reducible refine setAState_keeps ?_
    | with_reducible refine mapSlot_keeps ?_
    | with_reducible refine noteFlags_keeps ?_
    | with_reducible refine clearMon_keeps ?_
    | with_reducible refine wr_keeps ?_ ?_
    | with_reducible refine raise_keeps ?_
    | with_reducible refine bump_keeps ?_ ?_
    | with_reducible refine modFace_keeps ?_
    | with_reducible refine setDown_keeps ?_
    | with_reducible refine Keeps.ite ?_ ?_

theorem swapConv_keeps {a : State} {z0 : State} {z1 : Nat} {z2 : Nat} {z3 : Nat} {z4 : Nat} (h : Keeps a z0) :
    Keeps a (State.swapConv z0 z1 z2 z3 z4) := by
  unfold State.swapConv
  repeat' first
    | with_reducible assumption
    | exact rfl
    | with_reducible refine startRetire_keeps ?_
    | with_reducible refine wr_keeps ?_ ?_
    | with_reducible refine Keeps.ite ?_ ?_

theorem schedule_keeps {a : State} {z0 : State} {z1 : BAct} {z2 : State → State} (h : Keeps a z0) (hg2 : ∀ t, Keeps a t → Keeps a (z2 t)) :
    Keeps a (State.schedule z0 z1 z2) := by
  unfold State.schedule
  repeat' first
    | with_reducible assumption
    | with_reducible refine hg2 _ ?_
    | with_reducible refine Keeps.ite ?_ ?_
    | fail_if_no_progress with_reducible refine Keeps.mk ?_ rfl rfl rfl

theorem startDwell_keeps {a : State} {z0 : State} {z1 : Nat} {z2 : Nat} {z3 : Nat} (h : Keeps a z0) :
    Keeps a (State.startDwell z0 z1 z2 z3) := by
  unfold State.startDwell
  repeat' first
    | with_reducible assumption
    | exact rfl
    | with_reducible refine wr_keeps ?_ ?_
    | with_reducible refine Keeps.ite ?_ ?_
    | fail_if_no_progress with_reducible refine Keeps.mk ?_ rfl rfl rfl

theorem repair_keeps {a : State} {z0 : State} {z1 : Nat} {z2 : Nat} {z3 : Nat} {z4 : Nat} {z5 : Nat} (h : Keeps a z0) :
    Keeps a (State.repair z0 z1 z2 z3 z4 z5).1 := by
  unfold State.repair
  repeat' first
    | with_reducible assumption
    | exact rfl
    | with_reducible refine raise_keeps ?_
    | with_reducible refine wr_keeps ?_ ?_
    | with_reducible refine modArr_keeps ?_
    | dsimp only
    | split

theorem moveUnit_keeps {a : State} {z0 : State} {z1 : Nat} {z2 : Nat} {z3 : Nat} {z4 : Nat} {z5 : Nat} (h : Keeps a z0) :
    Keeps a (State.moveUnit z0 z1 z2 z3 z4 z5).1 := by
  unfold State.moveUnit
  repeat' first
    | with_reducible assumption
    | exact rfl
    | with_reducible refine wr_keeps ?_ ?_
    | with_reducible refine setArr_keeps ?_
    | dsimp only
    | split

theorem repairs_keeps {a : State} {z0 : State} {z1 : Nat} {z2 : Nat} {z3 : Nat} {z4 : List (Nat × Nat)} (h : Keeps a z0) :
    Keeps a (State.repairs z0 z1 z2 z3 z4).1 := by
  unfold State.repairs
  repeat' first
    | with_reducible assumption
    | intro _
    | with_reducible refine repair_keeps ?_
    | with_reducible refine Keeps.foldl_fst ?_ ?_
    | split

theorem storeJob_keeps {a : State} {z0 : State} {z1 : WJob} (h : Keeps a z0) :
    Keeps a (State.storeJob z0 z1) := by
  unfold State.storeJob
  repeat' first
    | with_reducible assumption
    | exact rfl
    | with_reducible refine setReg_keeps ?_ ?_
    | with_reducible refine modArr_keeps ?_

theorem buildEnd_keeps {a : State} {z0 : State} (h : Keeps a z0) :
    Keeps a (State.buildEnd z0) := by
  unfold State.buildEnd
  repeat' first
    | with_reducible assumption
    | exact rfl
    | with_reducible refine msix_keeps ?_
    | with_reducible refine wr_keeps ?_ ?_
    | with_reducible refine Keeps.ite ?_ ?_

theorem jobGood_keeps {a : State} {z0 : State} {z1 : WJob} (h : Keeps a z0) :
    Keeps a (State.jobGood z0 z1) := by
  unfold State.jobGood
  repeat' first
    | with_reducible assumption
    | intro _
    | with_reducible refine noteFlags_keeps ?_
    | with_reducible refine clearMon_keeps ?_
    | with_reducible refine storeJob_keeps ?_
    | with_reducible refine setAState_keeps ?_
    | with_reducible refine schedule_keeps ?_ ?_
    | with_reducible refine switchSlot_keeps ?_
    | with_reducible refine checkReady_keeps ?_
    | with_reducible refine modCopy_keeps ?_
    | with_reducible refine startDwell_keeps ?_
    | with_reducible refine Keeps.ite ?_ ?_
    | fail_if_no_progress with_reducible refine Keeps.mk ?_ rfl rfl rfl

theorem respare_keeps {a : State} {z0 : State} {z1 : WJob} (h : Keeps a z0) :
    Keeps a (State.respare z0 z1) := by
  unfold State.respare
  repeat' first
    | with_reducible assumption
    | with_reducible refine spareFor_keeps ?_
    | with_reducible refine queueWrite_keeps ?_
    | dsimp only
    | split

theorem jobBad_keeps {a : State} {z0 : State} {z1 : WJob} (h : Keeps a z0) :
    Keeps a (State.jobBad z0 z1) := by
  unfold State.jobBad
  repeat' first
    | with_reducible assumption
    | intro _
    | with_reducible refine raise_keeps ?_
    | with_reducible refine setAState_keeps ?_
    | with_reducible refine dropCheck_keeps ?_
    | with_reducible refine respare_keeps ?_
    | with_reducible refine schedule_keeps ?_ ?_
    | with_reducible refine Keeps.ite ?_ ?_

theorem lose_keeps {a : State} {z0 : State} {z1 : Nat} {z2 : Nat} {z3 : Nat} (h : Keeps a z0) :
    Keeps a (State.lose z0 z1 z2 z3) := by
  unfold State.lose
  repeat' first
    | with_reducible assumption
    | with_reducible refine loseArray_keeps ?_

theorem wimgState_keeps {a : State} {z0 : State} {z1 : Nat} (h : Keeps a z0) :
    Keeps a (State.wimgState z0 z1) := by
  unfold State.wimgState
  repeat' first
    | with_reducible assumption
    | exact rfl
    | with_reducible refine msix_keeps ?_
    | with_reducible refine wr_keeps ?_ ?_
    | with_reducible refine Keeps.ite ?_ ?_

theorem discard_keeps {a : State} {z0 : State} (h : Keeps a z0) :
    Keeps a (State.discard z0) := by
  unfold State.discard
  repeat' first
    | with_reducible assumption
    | with_reducible refine wimgState_keeps ?_
    | fail_if_no_progress with_reducible refine Keeps.mk ?_ rfl rfl rfl

theorem discardEnd_keeps {a : State} {z0 : State} (h : Keeps a z0) :
    Keeps a (State.discardEnd z0) := by
  unfold State.discardEnd
  repeat' first
    | with_reducible assumption
    | with_reducible refine discard_keeps ?_
    | with_reducible refine Keeps.ite ?_ ?_

theorem wideSat_keeps {a : State} {z0 : State} {z1 : Nat} {z2 : Nat} {z3 : Nat} (h : Keeps a z0) :
    Keeps a (State.wideSat z0 z1 z2 z3) := by
  unfold State.wideSat
  repeat' first
    | with_reducible assumption
    | exact rfl
    | with_reducible refine raise_keeps ?_
    | with_reducible refine wr_keeps ?_ ?_

theorem layerCount_keeps {a : State} {z0 : State} {z1 : Nat} {z2 : Nat} {z3 : Bool} {z4 : Bool} (h : Keeps a z0) :
    Keeps a (State.layerCount z0 z1 z2 z3 z4) := by
  unfold State.layerCount
  repeat' first
    | with_reducible assumption
    | exact rfl
    | with_reducible refine bump_keeps ?_ ?_
    | with_reducible refine Keeps.ite ?_ ?_

theorem putPass_keeps {a : State} {z0 : State} {z1 : Nat} {z2 : Pass} (h : Keeps a z0) :
    Keeps a (State.putPass z0 z1 z2) := by
  unfold State.putPass
  repeat' first
    | with_reducible assumption
    | with_reducible refine modFace_keeps ?_

theorem unresolved_keeps {a : State} {z0 : State} {z1 : Nat} {z2 : QOp} {z3 : Pass} (h : Keeps a z0) :
    Keeps a (State.unresolved z0 z1 z2 z3) := by
  unfold State.unresolved
  repeat' first
    | with_reducible assumption
    | exact rfl
    | with_reducible refine bump_keeps ?_ ?_
    | with_reducible refine putPass_keeps ?_
    | with_reducible refine modFace_keeps ?_
    | with_reducible refine Keeps.ite ?_ ?_
    | fail_if_no_progress with_reducible refine Keeps.mk ?_ rfl rfl rfl

theorem issueCheck_keeps {a : State} {z0 : State} {z1 : Nat} {z2 : QOp} {z3 : MvmRun} {z4 : Nat} {z5 : Nat} {z6 : Bool} (h : Keeps a z0) :
    Keeps a (State.issueCheck z0 z1 z2 z3 z4 z5 z6) := by
  unfold State.issueCheck
  repeat' first
    | with_reducible assumption
    | intro _
    | exact rfl
    | with_reducible refine bumpBy_keeps ?_ ?_
    | with_reducible refine bump_keeps ?_ ?_
    | with_reducible refine padTouchRange_keeps ?_
    | with_reducible refine layerCount_keeps ?_
    | with_reducible refine modFace_keeps ?_
    | with_reducible refine unresolved_keeps ?_
    | with_reducible refine wideSat_keeps ?_
    | with_reducible refine Keeps.foldl ?_ ?_
    | with_reducible refine Keeps.loop ?_ ?_
    | with_reducible refine Keeps.ite ?_ ?_
    | with_reducible refine free_ite ?_ ?_
    | fail_if_no_progress with_reducible refine Keeps.mk ?_ rfl rfl rfl
    | dsimp only
    | split

theorem gatherCodes_keeps {a : State} {z0 : State} {z1 : Nat} {z2 : Nat} {z3 : Nat} {z4 : Nat} {z5 : Nat} {z6 : List (Nat × Nat)} {z7 : List Int} {z8 : List Int} (h : Keeps a z0) :
    Keeps a (State.gatherCodes z0 z1 z2 z3 z4 z5 z6 z7 z8) := by
  unfold State.gatherCodes
  repeat' first
    | with_reducible assumption
    | with_reducible refine calPick_keeps ?_
    | with_reducible refine modCal_keeps ?_
    | with_reducible refine Keeps.ite ?_ ?_

theorem fireConv_keeps {a : State} {z0 : State} {z1 : Nat} {z2 : Nat} {z3 : Nat} (h : Keeps a z0) :
    Keeps a (State.fireConv z0 z1 z2 z3) := by
  unfold State.fireConv
  repeat' first
    | with_reducible assumption
    | intro _
    | with_reducible refine inject_keeps (by assumption) ?_
    | with_reducible refine Keeps.foldl ?_ ?_
    | with_reducible refine Keeps.ite ?_ ?_
    | fail_if_no_progress with_reducible refine Keeps.mk ?_ rfl rfl rfl
    | dsimp only
    | split

theorem convSpent_keeps {a : State} {z0 : State} {z1 : Nat} {z2 : Nat} {z3 : Nat} (h : Keeps a z0) :
    Keeps a (State.convSpent z0 z1 z2 z3) := by
  unfold State.convSpent
  repeat' first
    | with_reducible assumption
    | with_reducible refine Keeps.ite ?_ ?_
    | fail_if_no_progress with_reducible refine Keeps.mk ?_ rfl rfl rfl

theorem phaseArrays_keeps {a : State} {z0 : State} {z1 : Nat} {z2 : Tile} {z3 : Pass} {z4 : Nat} {z5 : SMap Int} {z6 : List (Nat × Nat)} (h : Keeps a z0) :
    Keeps a (State.phaseArrays z0 z1 z2 z3 z4 z5 z6).1 := by
  unfold State.phaseArrays
  repeat' first
    | with_reducible assumption
    | intro _
    | exact rfl
    | with_reducible refine fireConv_keeps ?_
    | with_reducible refine bumpBy_keeps ?_ ?_
    | with_reducible refine gatherCodes_keeps ?_
    | with_reducible refine calRequest_keeps ?_
    | with_reducible refine convSpent_keeps ?_
    | with_reducible refine Keeps.loop_fst ?_ ?_
    | with_reducible refine Keeps.ite ?_ ?_
    | fail_if_no_progress with_reducible refine Keeps.mk ?_ rfl rfl rfl
    | dsimp only
    | split

theorem repeatPass_keeps {a : State} {z0 : State} {z1 : Nat} {z2 : QOp} {z3 : Pass} (h : Keeps a z0) :
    Keeps a (State.repeatPass z0 z1 z2 z3) := by
  unfold State.repeatPass
  repeat' first
    | with_reducible assumption
    | exact rfl
    | with_reducible refine bump_keeps ?_ ?_
    | with_reducible refine putPass_keeps ?_
    | with_reducible refine layerCount_keeps ?_
    | with_reducible refine Keeps.ite ?_ ?_
    | with_reducible refine free_ite ?_ ?_

theorem passEnd_keeps {a : State} {z0 : State} {z1 : Nat} {z2 : QOp} {z3 : Pass} (h : Keeps a z0) :
    Keeps a (State.passEnd z0 z1 z2 z3) := by
  unfold State.passEnd
  repeat' first
    | with_reducible assumption
    | exact rfl
    | with_reducible refine putPass_keeps ?_
    | with_reducible refine bumpBy_keeps ?_ ?_
    | with_reducible refine bump_keeps ?_ ?_
    | with_reducible refine Keeps.ite ?_ ?_
    | fail_if_no_progress with_reducible refine Keeps.mk ?_ rfl rfl rfl
    | dsimp only
    | split

theorem phaseEnd_keeps {a : State} {z0 : State} {z1 : Nat} {z2 : QOp} {z3 : Pass} {z4 : Nat} {z5 : SMap Int} {z6 : SMap Int} {z7 : List (Nat × Nat)} {z8 : Option Nat} (h : Keeps a z0) :
    Keeps a (State.phaseEnd z0 z1 z2 z3 z4 z5 z6 z7 z8) := by
  unfold State.phaseEnd
  repeat' first
    | with_reducible assumption
    | with_reducible refine phaseArrays_keeps ?_
    | with_reducible refine fireConv_keeps ?_
    | with_reducible refine convSpent_keeps ?_
    | with_reducible refine forced_keeps ?_
    | with_reducible refine draw_keeps ?_
    | with_reducible refine repeatPass_keeps ?_
    | with_reducible refine wideSat_keeps ?_
    | with_reducible refine passEnd_keeps ?_
    | with_reducible refine putPass_keeps ?_
    | with_reducible refine Keeps.ite ?_ ?_
    | dsimp only
    | split

theorem fineResume_keeps {a : State} {z0 : State} {z1 : Nat} (h : Keeps a z0) :
    Keeps a (State.fineResume z0 z1) := by
  unfold State.fineResume
  repeat' first
    | with_reducible assumption
    | with_reducible refine modFace_keeps ?_

theorem decideDup_keeps {a : State} {z0 : State} {z1 : Nat} {z2 : QOp} {z3 : Pass} {z4 : Nat} (h : Keeps a z0) :
    Keeps a (State.decideDup z0 z1 z2 z3 z4) := by
  unfold State.decideDup
  repeat' first
    | with_reducible assumption
    | exact rfl
    | with_reducible refine raise_keeps ?_
    | with_reducible refine bump_keeps ?_ ?_
    | with_reducible refine putPass_keeps ?_
    | with_reducible refine Keeps.ite ?_ ?_

theorem mvmRow_keeps {a : State} {z0 : State} {z1 : Nat} {z2 : QOp} {z3 : MvmRun} {z4 : Nat} (h : Keeps a z0) :
    Keeps a (State.mvmRow z0 z1 z2 z3 z4) := by
  unfold State.mvmRow
  repeat' first
    | with_reducible assumption
    | exact rfl
    | with_reducible refine putBytes_keeps ?_
    | with_reducible refine bumpBy_keeps ?_ ?_
    | with_reducible refine wideSat_keeps ?_
    | with_reducible refine modFace_keeps ?_
    | with_reducible refine bump_keeps ?_ ?_
    | with_reducible refine Keeps.ite ?_ ?_
    | fail_if_no_progress with_reducible refine Keeps.mk ?_ rfl rfl rfl
    | dsimp only
    | split

theorem mvmDone_keeps {a : State} {z0 : State} {z1 : Nat} {z2 : QOp} (h : Keeps a z0) :
    Keeps a (State.mvmDone z0 z1 z2) := by
  unfold State.mvmDone
  repeat' first
    | with_reducible assumption
    | intro _
    | with_reducible refine mvmRow_keeps ?_
    | with_reducible refine Keeps.loop ?_ ?_
    | split

theorem aprogDone_keeps {a : State} {z0 : State} {z1 : Nat} {z2 : QOp} (h : Keeps a z0) :
    Keeps a (State.aprogDone z0 z1 z2) := by
  unfold State.aprogDone
  repeat' first
    | with_reducible assumption
    | exact rfl
    | with_reducible refine putBytes_keeps ?_
    | with_reducible refine padTouchRange_keeps ?_
    | with_reducible refine queueWrite_keeps ?_
    | with_reducible refine bump_keeps ?_ ?_
    | with_reducible refine free_ite ?_ ?_
    | split

theorem areadDone_keeps {a : State} {z0 : State} {z1 : Nat} {z2 : QOp} (h : Keeps a z0) :
    Keeps a (State.areadDone z0 z1 z2) := by
  unfold State.areadDone
  repeat' first
    | with_reducible assumption
    | with_reducible refine putBytes_keeps ?_

theorem arrayDone_keeps {a : State} {z0 : State} {z1 : Nat} {z2 : QOp} (h : Keeps a z0) :
    Keeps a (State.arrayDone z0 z1 z2) := by
  unfold State.arrayDone
  repeat' first
    | with_reducible assumption
    | with_reducible refine mvmDone_keeps ?_
    | with_reducible refine aprogDone_keeps ?_
    | with_reducible refine areadDone_keeps ?_
    | with_reducible refine Keeps.ite ?_ ?_

theorem fineSample_keeps {a : State} {z0 : State} {z1 : Nat} {z2 : QOp} {z3 : List (List FineOut)} {z4 : List Nat} (h : Keeps a z0) :
    Keeps a (State.fineSample z0 z1 z2 z3 z4) := by
  unfold State.fineSample
  repeat' first
    | with_reducible assumption
    | exact rfl
    | with_reducible refine bump_keeps ?_ ?_
    | with_reducible refine Keeps.ite ?_ ?_
    | fail_if_no_progress with_reducible refine Keeps.mk ?_ rfl rfl rfl
    | split

theorem fineDone_keeps {a : State} {z0 : State} {z1 : Nat} {z2 : QOp} {z3 : List Nat} (h : Keeps a z0) :
    Keeps a (State.fineDone z0 z1 z2 z3) := by
  unfold State.fineDone
  repeat' first
    | with_reducible assumption
    | intro _
    | exact rfl
    | with_reducible refine padTouchRange_keeps ?_
    | with_reducible refine putBytes_keeps ?_
    | with_reducible refine bumpBy_keeps ?_ ?_
    | with_reducible refine bump_keeps ?_ ?_
    | with_reducible refine fineSample_keeps ?_
    | with_reducible refine Keeps.foldl ?_ ?_
    | with_reducible refine Keeps.loop ?_ ?_
    | with_reducible refine Keeps.ite ?_ ?_

theorem dropChecks_keeps {a : State} {z0 : State} (h : Keeps a z0) :
    Keeps a (State.dropChecks z0) := by
  unfold State.dropChecks
  repeat' first
    | with_reducible assumption
    | exact rfl
    | with_reducible refine bumpBy_keeps ?_ ?_
    | fail_if_no_progress with_reducible refine Keeps.mk ?_ rfl rfl rfl

theorem runStore_keeps {a : State} {z0 : State} {z1 : Nat} {z2 : Nat} {z3 : List (Nat × Bool)} (h : Keeps a z0) :
    Keeps a (State.runStore z0 z1 z2 z3) := by
  unfold State.runStore
  repeat' first
    | with_reducible assumption
    | with_reducible refine hbmStore_keeps ?_

theorem appendToken_keeps {a : State} {z0 : State} {z1 : Nat} {z2 : QOp} {z3 : List PEnt} {z4 : Bool} {z5 : Nat} (h : Keeps a z0) :
    Keeps a (State.appendToken z0 z1 z2 z3 z4 z5) := by
  unfold State.appendToken
  repeat' first
    | with_reducible assumption
    | exact rfl
    | with_reducible refine runStore_keeps ?_
    | with_reducible refine bumpBy_keeps ?_ ?_
    | with_reducible refine bump_keeps ?_ ?_
    | with_reducible refine Keeps.ite ?_ ?_
    | with_reducible refine free_ite ?_ ?_

theorem appendSeal_keeps {a : State} {z0 : State} {z1 : Nat} {z2 : QOp} {z3 : PEnt} {z4 : Nat} (h : Keeps a z0) :
    Keeps a (State.appendSeal z0 z1 z2 z3 z4) := by
  unfold State.appendSeal
  repeat' first
    | with_reducible assumption
    | with_reducible refine sealSlots_keeps ?_
    | with_reducible refine runSeal_keeps ?_
    | with_reducible refine hbmStore_keeps ?_

theorem appendDone_keeps {a : State} {z0 : State} {z1 : Nat} {z2 : QOp} (h : Keeps a z0) :
    Keeps a (State.appendDone z0 z1 z2) := by
  unfold State.appendDone
  repeat' first
    | with_reducible assumption
    | intro _
    | exact rfl
    | with_reducible refine padTouchRange_keeps ?_
    | with_reducible refine appendToken_keeps ?_
    | with_reducible refine appendSeal_keeps ?_
    | with_reducible refine bump_keeps ?_ ?_
    | with_reducible refine modFace_keeps ?_
    | with_reducible refine Keeps.loop ?_ ?_

theorem gatherBytes_keeps {a : State} {z0 : State} {z1 : Nat} {z2 : Bool} {z3 : Nat} {z4 : Nat} (h : Keeps a z0) :
    Keeps a (State.gatherBytes z0 z1 z2 z3 z4).1 := by
  unfold State.gatherBytes
  repeat' first
    | with_reducible assumption
    | intro _
    | with_reducible refine cacheRead_keeps ?_
    | with_reducible refine hbmRead_keeps ?_
    | with_reducible refine Keeps.loop_fst ?_ ?_
    | dsimp only
    | split

theorem gatherRun_keeps {a : State} {z0 : State} {z1 : Nat} {z2 : RunShape} {z3 : Bool} {z4 : Nat} {z5 : Nat} (h : Keeps a z0) :
    Keeps a (State.gatherRun z0 z1 z2 z3 z4 z5).1 := by
  unfold State.gatherRun
  repeat' first
    | with_reducible assumption
    | with_reducible refine gatherBytes_keeps ?_

theorem gatherEntry_keeps {a : State} {z0 : State} {z1 : Nat} {z2 : QOp} {z3 : PEnt} {z4 : Nat} {z5 : Nat} {z6 : Gathered} (h : Keeps a z0) :
    Keeps a (State.gatherEntry z0 z1 z2 z3 z4 z5 z6).1 := by
  unfold State.gatherEntry
  dsimp only
  have h1 := fun x y u d => forced_keeps (z1 := d) (z2 := u) (gatherRun_keeps (z1 := z1) (z2 := z2.shape) (z3 := z3.cache) (z4 := x) (z5 := y)
    (sealSlots_keeps (z1 := z3.sealAt z2.runIx) h))
  with_reducible refine Keeps.ite ?_ (raise_keeps (bump_keeps ?_ (free_ite ?_ ?_)))
  · with_reducible refine bumpBy_keeps (bumpBy_keeps (bumpBy_keeps (modFace_keeps ?_) ?_) ?_) ?_
    · exact h1 _ _ _ _
    all_goals rfl
  · with_reducible refine bumpBy_keeps (bumpBy_keeps (bumpBy_keeps (modFace_keeps ?_) ?_) ?_) ?_
    · exact h1 _ _ _ _
    all_goals rfl
  all_goals rfl

theorem gatherAll_keeps {a : State} {z0 : State} {z1 : Nat} {z2 : QOp} {z3 : List PEnt} (h : Keeps a z0) :
    Keeps a (State.gatherAll z0 z1 z2 z3).1 := by
  unfold State.gatherAll
  repeat' first
    | with_reducible assumption
    | intro _
    | with_reducible refine gatherEntry_keeps ?_
    | with_reducible refine Keeps.foldl_fst ?_ ?_
    | dsimp only
    | split

theorem scoreRow_keeps {a : State} {z0 : State} {z1 : Nat} {z2 : QOp} {z3 : Face} {z4 : Nat} {z5 : Nat} {z6 : Bool} {z7 : Gathered} {z8 : Nat} {z9 : Nat} (h : Keeps a z0) :
    Keeps a (State.scoreRow z0 z1 z2 z3 z4 z5 z6 z7 z8 z9) := by
  unfold State.scoreRow
  repeat' first
    | with_reducible assumption
    | exact rfl
    | with_reducible refine putBytes_keeps ?_
    | with_reducible refine bump_keeps ?_ ?_
    | with_reducible refine Keeps.ite ?_ ?_

theorem scoreDone_keeps {a : State} {z0 : State} {z1 : Nat} {z2 : QOp} (h : Keeps a z0) :
    Keeps a (State.scoreDone z0 z1 z2) := by
  unfold State.scoreDone
  repeat' first
    | with_reducible assumption
    | intro _
    | exact rfl
    | with_reducible refine padTouchRange_keeps ?_
    | with_reducible refine gatherAll_keeps ?_
    | with_reducible refine scoreRow_keeps ?_
    | with_reducible refine bump_keeps ?_ ?_
    | with_reducible refine Keeps.loop ?_ ?_

theorem scoreStart_keeps {a : State} {z0 : State} {z1 : Nat} {z2 : QOp} (h : Keeps a z0) :
    Keeps a (State.scoreStart z0 z1 z2) := by
  unfold State.scoreStart
  repeat' first
    | with_reducible assumption
    | with_reducible refine opTrap_keeps ?_
    | split

theorem scoreRunDone_keeps {a : State} {z0 : State} {z1 : Nat} {z2 : QOp} (h : Keeps a z0) :
    Keeps a (State.scoreRunDone z0 z1 z2) := by
  unfold State.scoreRunDone
  repeat' first
    | with_reducible assumption
    | with_reducible refine appendDone_keeps ?_
    | with_reducible refine scoreDone_keeps ?_
    | with_reducible refine Keeps.ite ?_ ?_

theorem mvmStart_keeps {a : State} {z0 : State} {z1 : Nat} {z2 : QOp} (h : Keeps a z0) :
    Keeps a (State.mvmStart z0 z1 z2) := by
  unfold State.mvmStart
  repeat' first
    | with_reducible assumption
    | with_reducible refine stampWith_keeps ?_
    | with_reducible refine modFace_keeps ?_

theorem opStart_keeps {a : State} {z0 : State} {z1 : Nat} {z2 : QOp} (h : Keeps a z0) :
    Keeps a (State.opStart z0 z1 z2) := by
  unfold State.opStart
  repeat' first
    | with_reducible assumption
    | with_reducible refine opTrap_keeps ?_
    | with_reducible refine mvmStart_keeps ?_
    | with_reducible refine scoreStart_keeps ?_
    | with_reducible refine moverStart_keeps ?_
    | with_reducible refine servingStart_keeps ?_
    | with_reducible refine Keeps.ite ?_ ?_
    | split

theorem opEffect_keeps {a : State} {z0 : State} {z1 : Nat} {z2 : QOp} {z3 : Option Share} {z4 : List Nat} (h : Keeps a z0) :
    Keeps a (State.opEffect z0 z1 z2 z3 z4) := by
  unfold State.opEffect
  repeat' first
    | with_reducible assumption
    | with_reducible refine arrayDone_keeps ?_
    | with_reducible refine fineDone_keeps ?_
    | with_reducible refine scoreRunDone_keeps ?_
    | with_reducible refine vopRun_keeps ?_
    | with_reducible refine moverDone_keeps ?_
    | with_reducible refine servingDone_keeps ?_
    | split

theorem inject_getD_keeps {a s : State} {d : Det} {u : Nat} {p : Nat → Bool} (h : Keeps a s) :
    Keeps a (((s.inject d u p).map Prod.snd).getD s) := by
  cases e : s.inject d u p with
  | none => exact h
  | some r => exact inject_keeps e h

theorem meshCheck_keeps {a : State} {z0 : State} {z1 : MPacket} {z2 : List (Nat × Nat × Nat)} {z3 : List Nat} {z4 : Nat} (h : Keeps a z0) :
    Keeps a (State.meshCheck z0 z1 z2 z3 z4).1 :=
  Keeps.foldl (bumpBy_keeps (bumpBy_keeps (inject_getD_keeps h))) (fun _ _ k => raise_keeps (wr_keeps (wr_keeps (bump_keeps k))))

theorem meshMove_keeps {a : State} {z0 : State} {z1 : MPacket} {z2 : Option Nat} {z3 : List Nat} {z4 : List MWait} {z5 : Option Nat} {z6 : List (Nat × Nat)} {z7 : List (Nat × Nat × Nat)} (h : Keeps a z0) :
    Keeps a (State.meshMove z0 z1 z2 z3 z4 z5 z6 z7).1 := by
  unfold State.meshMove
  repeat' first
    | with_reducible assumption
    | intro _
    | exact rfl
    | with_reducible refine bumpBy_keeps ?_ ?_
    | with_reducible refine meshCheck_keeps ?_
    | with_reducible refine Keeps.foldl ?_ ?_
    | with_reducible refine Keeps.foldl_fst ?_ ?_

theorem meshMark_keeps {a : State} {z0 : State} {z1 : List Nat} {z2 : Option (Nat × Nat × Nat × Nat)} (h : Keeps a z0) :
    Keeps a (State.meshMark z0 z1 z2) := by
  unfold State.meshMark
  repeat' first
    | with_reducible assumption
    | with_reducible refine modFace_keeps ?_
    | dsimp only
    | split

theorem noteStale_keeps {a : State} {z0 : State} {z1 : Nat} {z2 : Nat} (h : Keeps a z0) :
    Keeps a (State.noteStale z0 z1 z2) := by
  unfold State.noteStale
  repeat' first
    | with_reducible assumption
    | exact rfl
    | with_reducible refine wrB_keeps ?_ ?_

theorem laneCalStart_keeps {a : State} {z0 : State} {z1 : Nat} (h : Keeps a z0) :
    Keeps a (State.laneCalStart z0 z1) := by
  unfold State.laneCalStart
  repeat' first
    | with_reducible assumption
    | exact rfl
    | with_reducible refine wr_keeps ?_ ?_
    | with_reducible refine Keeps.ite ?_ ?_

theorem restartMons_keeps {a : State} {z0 : State} {z1 : Nat} {z2 : Nat} (h : Keeps a z0) :
    Keeps a (State.restartMons z0 z1 z2) := by
  unfold State.restartMons
  repeat' first
    | with_reducible assumption
    | with_reducible refine noteFlags_keeps ?_
    | fail_if_no_progress with_reducible refine Keeps.mk ?_ rfl rfl rfl

theorem calApply_keeps {a : State} {z0 : State} {z1 : Nat} {z2 : Nat} (h : Keeps a z0) :
    Keeps a (State.calApply z0 z1 z2) := by
  unfold State.calApply
  repeat' first
    | with_reducible assumption
    | exact rfl
    | with_reducible refine modCal_keeps ?_
    | with_reducible refine noteStale_keeps ?_
    | with_reducible refine restartMons_keeps ?_
    | with_reducible refine wr_keeps ?_ ?_
    | dsimp only
    | split

theorem commitCal_keeps {a : State} {z0 : State} (h : Keeps a z0) :
    Keeps a (State.commitCal z0) := by
  unfold State.commitCal
  repeat' first
    | with_reducible assumption
    | intro _
    | with_reducible refine calApply_keeps ?_
    | with_reducible refine Keeps.foldl ?_ ?_

theorem laneCalDone_keeps {a : State} {z0 : State} {z1 : Nat} {z2 : List (Nat × Nat)} (h : Keeps a z0) :
    Keeps a (State.laneCalDone z0 z1 z2) := by
  unfold State.laneCalDone
  repeat' first
    | with_reducible assumption
    | intro _
    | exact rfl
    | with_reducible refine wr_keeps ?_ ?_
    | with_reducible refine raise_keeps ?_
    | with_reducible refine Keeps.foldl ?_ ?_
    | with_reducible refine Keeps.ite ?_ ?_

theorem newCheck_keeps {a : State} {z0 : State} {z1 : Nat} {z2 : Nat} (h : Keeps a z0) :
    Keeps a (State.newCheck z0 z1 z2) := by
  unfold State.newCheck
  repeat' first
    | with_reducible assumption
    | exact rfl
    | with_reducible refine wr_keeps ?_ ?_
    | with_reducible refine setAState_keeps ?_
    | dsimp only
    | split

theorem soundCheck_keeps {a : State} {z0 : State} {z1 : Nat} {z2 : Nat} (h : Keeps a z0) :
    Keeps a (State.soundCheck z0 z1 z2) := by
  unfold State.soundCheck
  repeat' first
    | with_reducible assumption
    | with_reducible refine newCheck_keeps ?_
    | with_reducible refine setAState_keeps ?_
    | with_reducible refine Keeps.ite ?_ ?_

theorem tourNext_keeps {a : State} {z0 : State} {z1 : Nat} {z2 : Nat} {z3 : Nat} {z4 : Bool} (h : Keeps a z0) :
    Keeps a (State.tourNext z0 z1 z2 z3 z4) := by
  unfold State.tourNext
  repeat' first
    | with_reducible assumption
    | exact rfl
    | with_reducible refine wr_keeps ?_ ?_
    | with_reducible refine soundCheck_keeps ?_
    | with_reducible refine queueWrite_keeps ?_
    | with_reducible refine Keeps.ite ?_ ?_
    | fail_if_no_progress with_reducible refine Keeps.mk ?_ rfl rfl rfl
    | dsimp only
    | split

theorem fitApply_keeps {a : State} {z0 : State} {z1 : Nat} {z2 : Nat} (h : Keeps a z0) :
    Keeps a (State.fitApply z0 z1 z2) := by
  unfold State.fitApply
  repeat' first
    | with_reducible assumption
    | with_reducible refine Keeps.ite ?_ ?_
    | fail_if_no_progress with_reducible refine Keeps.mk ?_ rfl rfl rfl

theorem tourSwitch_keeps {a : State} {z0 : State} {z1 : Nat} {z2 : Nat} {z3 : Nat} {z4 : Nat} {z5 : Nat} (h : Keeps a z0) :
    Keeps a (State.tourSwitch z0 z1 z2 z3 z4 z5) := by
  unfold State.tourSwitch
  repeat' first
    | with_reducible assumption
    | exact rfl
    | with_reducible refine tourNext_keeps ?_
    | with_reducible refine wr_keeps ?_ ?_
    | with_reducible refine switchSlot_keeps ?_
    | with_reducible refine newCheck_keeps ?_
    | with_reducible refine Keeps.ite ?_ ?_

theorem tourWritten_keeps {a : State} {z0 : State} {z1 : WJob} {z2 : Bool} (h : Keeps a z0) :
    Keeps a (State.tourWritten z0 z1 z2) := by
  unfold State.tourWritten
  repeat' first
    | with_reducible assumption
    | intro _
    | with_reducible refine tourNext_keeps ?_
    | with_reducible refine jobGood_keeps ?_
    | with_reducible refine digestNow_keeps ?_
    | with_reducible refine schedule_keeps ?_ ?_
    | with_reducible refine lose_keeps ?_
    | with_reducible refine Keeps.ite ?_ ?_

theorem setPin_keeps {a : State} {z0 : State} {z1 : Nat} {z2 : Nat} {z3 : Nat} (h : Keeps a z0) :
    Keeps a (State.setPin z0 z1 z2 z3) := by
  unfold State.setPin
  repeat' first
    | with_reducible assumption
    | exact rfl
    | with_reducible refine wr_keeps ?_ ?_

theorem bdyPins_keeps {a : State} {z0 : State} (h : Keeps a z0) :
    Keeps a (State.bdyPins z0) := by
  unfold State.bdyPins
  repeat' first
    | with_reducible assumption
    | intro _
    | exact rfl
    | with_reducible refine setPin_keeps ?_
    | with_reducible refine wr_keeps ?_ ?_
    | with_reducible refine modFace_keeps ?_
    | with_reducible refine Keeps.foldl ?_ ?_
    | with_reducible refine Keeps.loop ?_ ?_

theorem noteHist_keeps {a : State} {z0 : State} (h : Keeps a z0) :
    Keeps a (State.noteHist z0) := by
  unfold State.noteHist
  repeat' first
    | with_reducible assumption
    | exact rfl
    | with_reducible refine wr_keeps ?_ ?_

theorem history_keeps {a : State} {z0 : State} {z1 : FRec} (h : Keeps a z0) :
    Keeps a (State.history z0 z1).1 := by
  unfold State.history
  repeat' first
    | with_reducible assumption
    | exact rfl
    | with_reducible refine wr_keeps ?_ ?_
    | with_reducible refine noteHist_keeps ?_
    | fail_if_no_progress with_reducible refine Keeps.mk ?_ rfl rfl rfl
    | dsimp only
    | split

theorem replaceUnit_keeps {a : State} {z0 : State} (h : Keeps a z0) :
    Keeps a (State.replaceUnit z0) := by
  unfold State.replaceUnit
  repeat' first
    | with_reducible assumption
    | exact rfl
    | with_reducible refine wr_keeps ?_ ?_

theorem unitOther_keeps {a : State} {z0 : State} {z1 : Nat} {z2 : Nat} {z3 : Nat} (h : Keeps a z0) :
    Keeps a (State.unitOther z0 z1 z2 z3) := by
  unfold State.unitOther
  repeat' first
    | with_reducible assumption
    | exact rfl
    | with_reducible refine replaceUnit_keeps ?_
    | with_reducible refine wr_keeps ?_ ?_
    | with_reducible refine portDown_keeps ?_
    | with_reducible refine Keeps.ite ?_ ?_
    | fail_if_no_progress with_reducible refine Keeps.mk ?_ rfl rfl rfl

theorem unitAction_keeps {a : State} {z0 : State} {z1 : Nat} (h : Keeps a z0) :
    Keeps a (State.unitAction z0 z1) := by
  unfold State.unitAction
  repeat' first
    | with_reducible assumption
    | exact rfl
    | with_reducible refine startRetire_keeps ?_
    | with_reducible refine swapConv_keeps ?_
    | with_reducible refine raise_keeps ?_
    | with_reducible refine wr_keeps ?_ ?_
    | with_reducible refine moveUnit_keeps ?_
    | with_reducible refine faceFault_keeps ?_
    | with_reducible refine replaceUnit_keeps ?_
    | with_reducible refine unitOther_keeps ?_
    | with_reducible refine Keeps.ite ?_ ?_
    | dsimp only
    | split

theorem logWrite_keeps {a : State} {z0 : State} {z1 : Nat} {z2 : List Word} (h : Keeps a z0) : Keeps a (State.logWrite z0 z1 z2).1 := by
  unfold State.logWrite
  extract_lets x g
  clear_value x g
  refine Keeps.ite_fst h ?_
  extract_lets
  with_reducible exact hbmRead_keeps (hbmWrite_keeps (hbmRead_keeps h))

theorem hostRing_keeps {a : State} {z0 : State} {z1 : Nat} {z2 : FRec} {z3 : Bool} (h : Keeps a z0) :
    Keeps a (State.hostRing z0 z1 z2 z3) := by
  unfold State.hostRing
  repeat' first
    | with_reducible assumption
    | exact rfl
    | with_reducible refine bump_keeps ?_ ?_
    | with_reducible refine wr_keeps ?_ ?_
    | with_reducible refine hostWrite_keeps ?_
    | with_reducible refine msix_keeps ?_
    | with_reducible refine Keeps.ite ?_ ?_
    | fail_if_no_progress with_reducible refine Keeps.mk ?_ rfl rfl rfl

theorem logError_keeps {a : State} {z0 : State} {z1 : FRec} {z2 : Nat} (h : Keeps a z0) :
    Keeps a (State.logError z0 z1 z2) := by
  unfold State.logError
  repeat' first
    | with_reducible assumption
    | exact rfl
    | with_reducible refine faceFault_keeps ?_
    | with_reducible refine marked_keeps ?_
    | with_reducible refine faultN_keeps ?_
    | with_reducible refine wr_keeps ?_ ?_
    | with_reducible refine nvPut_keeps ?_
    | fail_if_no_progress with_reducible refine Keeps.mk ?_ rfl rfl rfl
    | split

theorem tempNear_keeps {a : State} {z0 : State} {z1 : Nat} (h : Keeps a z0) :
    Keeps a (State.tempNear z0 z1).1 := by
  unfold State.tempNear
  repeat' first
    | with_reducible assumption
    | with_reducible refine draw_keeps ?_
    | dsimp only
    | split

theorem armInj_keeps {a : State} {z0 : State} {z1 : Nat} (h : Keeps a z0) :
    Keeps a (State.armInj z0 z1) := by
  unfold State.armInj
  repeat' first
    | with_reducible assumption
    | with_reducible refine Keeps.ite ?_ ?_
    | fail_if_no_progress with_reducible refine Keeps.mk ?_ rfl rfl rfl

theorem bdyInj_keeps {a : State} {z0 : State} (h : Keeps a z0) :
    Keeps a (State.bdyInj z0) := by
  unfold State.bdyInj
  repeat' first
    | with_reducible assumption
    | intro _
    | with_reducible refine armInj_keeps ?_
    | with_reducible refine Keeps.loop ?_ ?_

theorem writeInj_keeps {a : State} {z0 : State} {z1 : Nat} {z2 : Word} {z3 : Word} {z4 : Nat} (h : Keeps a z0) :
    Keeps a (State.writeInj z0 z1 z2 z3 z4) := by
  unfold State.writeInj
  repeat' first
    | with_reducible assumption
    | intro _
    | exact rfl
    | with_reducible refine setReg_keeps ?_ ?_
    | with_reducible refine orNow_keeps ?_ ?_
    | with_reducible refine bdyInj_keeps ?_
    | with_reducible refine Keeps.ite ?_ ?_
    | fail_if_no_progress with_reducible refine Keeps.mk ?_ rfl rfl rfl

theorem bdyDeck_keeps {a : State} {z0 : State} (h : Keeps a z0) :
    Keeps a (State.bdyDeck z0) := by
  unfold State.bdyDeck
  repeat' first
    | with_reducible assumption
    | exact rfl
    | with_reducible refine wr_keeps ?_ ?_
    | fail_if_no_progress with_reducible refine Keeps.mk ?_ rfl rfl rfl
    | split

theorem loadDeck_keeps {a : State} {z0 : State} {z1 : List Word} (h : Keeps a z0) :
    Keeps a (State.loadDeck z0 z1) := by
  unfold State.loadDeck
  repeat' first
    | with_reducible assumption
    | intro _
    | exact rfl
    | with_reducible refine wr_keeps ?_ ?_
    | with_reducible refine orNow_keeps ?_ ?_
    | with_reducible refine bdyDeck_keeps ?_
    | with_reducible refine Keeps.ite ?_ ?_
    | fail_if_no_progress with_reducible refine Keeps.mk ?_ rfl rfl rfl

end Sys2Proof.Machine
end

