-- ==== Sys2Proof/Laws/KeepDevice.lean ====
section
/-! SUPPORT. What the operations of Machine/Images.lean, Machine/Programs.lean, Machine/Power.lean, Machine/Keys.lean, Machine/Mgmt.lean keep: one lemma per operation. -/
namespace Sys2Proof.Machine

theorem imageRefused_keeps {a : State} {z0 : State} {z1 : Nat} {z2 : Nat} (h : Keeps a z0) :
    Keeps a (State.imageRefused z0 z1 z2) := by
  unfold State.imageRefused
  repeat' first
    | with_reducible assumption
    | exact rfl
    | with_reducible refine raise_keeps ?_
    | with_reducible refine wr_keeps ?_ ?_

theorem openRefused_keeps {a : State} {z0 : State} {z1 : Nat} {z2 : Nat} (h : Keeps a z0) :
    Keeps a (State.openRefused z0 z1 z2) := by
  unfold State.openRefused
  repeat' first
    | with_reducible assumption
    | with_reducible refine wimgState_keeps ?_
    | with_reducible refine imageRefused_keeps ?_
    | fail_if_no_progress with_reducible refine Keeps.mk ?_ rfl rfl rfl

theorem stagedCheck_keeps {a : State} {z0 : State} (h : Keeps a z0) :
    Keeps a (State.stagedCheck z0) := by
  unfold State.stagedCheck
  repeat' first
    | with_reducible assumption
    | with_reducible refine wimgState_keeps ?_
    | with_reducible refine Keeps.ite ?_ ?_
    | split

theorem sendLoad_keeps {a : State} {z0 : State} {z1 : Img} {z2 : Nat} {z3 : Nat} {z4 : List Word} (h : Keeps a z0) :
    Keeps a (State.sendLoad z0 z1 z2 z3 z4) := by
  unfold State.sendLoad
  repeat' first
    | with_reducible assumption
    | intro _
    | exact rfl
    | with_reducible refine bump_keeps ?_ ?_
    | with_reducible refine portOut_keeps ?_
    | with_reducible refine Keeps.loop ?_ ?_
    | dsimp only
    | split

theorem openImage_keeps {a : State} {z0 : State} {z1 : ImgOpen} {z2 : Bool} (h : Keeps a z0) :
    Keeps a (State.openImage z0 z1 z2) := by
  unfold State.openImage
  repeat' first
    | with_reducible assumption
    | intro _
    | with_reducible refine openRefused_keeps ?_
    | with_reducible refine wimgState_keeps ?_
    | with_reducible refine sendLoad_keeps ?_
    | with_reducible refine stagedCheck_keeps ?_
    | with_reducible refine Keeps.foldl ?_ ?_
    | with_reducible refine Keeps.ite ?_ ?_
    | fail_if_no_progress with_reducible refine Keeps.mk ?_ rfl rfl rfl
    | dsimp only
    | split

theorem hbmWords_keeps {a : State} {z0 : State} {z1 : Nat} {z2 : List Word} (h : Keeps a z0) :
    Keeps a (State.hbmWords z0 z1 z2) := by
  unfold State.hbmWords
  repeat' first
    | with_reducible assumption
    | intro _
    | with_reducible refine hbmWrite_keeps ?_
    | with_reducible refine Keeps.loop ?_ ?_

theorem takeManifest_keeps {a : State} {z0 : State} {z1 : List (Nat × Nat × Nat)} {z2 : Nat} (h : Keeps a z0) :
    Keeps a (State.takeManifest z0 z1 z2) := by
  unfold State.takeManifest
  repeat' first
    | with_reducible assumption
    | fail_if_no_progress with_reducible refine Keeps.mk ?_ rfl rfl rfl

theorem stagedWords_keeps {a : State} {z0 : State} {z1 : ImgSec} (h : Keeps a z0) :
    Keeps a (State.stagedWords z0 z1).1 := by
  unfold State.stagedWords
  repeat' first
    | with_reducible assumption
    | with_reducible refine hbmReadRun_keeps ?_

theorem putResident_keeps {a : State} {z0 : State} {z1 : Nat} {z2 : Nat} {z3 : List Word} (h : Keeps a z0) :
    Keeps a (State.putResident z0 z1 z2 z3) := by
  unfold State.putResident
  repeat' first
    | with_reducible assumption
    | with_reducible refine draw_keeps ?_
    | with_reducible refine modFace_keeps ?_
    | with_reducible refine injBytes_keeps ?_
    | with_reducible refine Keeps.ite ?_ ?_

theorem bdyResident_keeps {a : State} {z0 : State} (h : Keeps a z0) :
    Keeps a (State.bdyResident z0) := by
  unfold State.bdyResident
  repeat' first
    | with_reducible assumption
    | intro _
    | with_reducible refine modFace_keeps ?_
    | with_reducible refine Keeps.loop ?_ ?_

theorem putResidentRun_keeps {a : State} {z0 : State} {z1 : Nat} {z2 : Nat} {z3 : List Word} (h : Keeps a z0) :
    Keeps a (State.putResidentRun z0 z1 z2 z3) := by
  unfold State.putResidentRun
  repeat' first
    | with_reducible assumption
    | intro _
    | with_reducible refine putResident_keeps ?_
    | with_reducible refine Keeps.loop ?_ ?_

theorem loadSpall_keeps {a : State} {z0 : State} {z1 : Img} {z2 : Nat} {z3 : Nat} {z4 : Nat} (h : Keeps a z0) :
    Keeps a (State.loadSpall z0 z1 z2 z3 z4) := by
  unfold State.loadSpall
  repeat' first
    | with_reducible assumption
    | intro _
    | exact rfl
    | with_reducible refine putResidentRun_keeps ?_
    | with_reducible refine wr_keeps ?_ ?_
    | with_reducible refine Keeps.foldl ?_ ?_
    | with_reducible refine Keeps.ite ?_ ?_
    | dsimp only
    | split

theorem clearReady_keeps {a : State} {z0 : State} {z1 : Nat} {z2 : Nat} {z3 : MapEnt} (h : Keeps a z0) :
    Keeps a (State.clearReady z0 z1 z2 z3) := by
  unfold State.clearReady
  repeat' first
    | with_reducible assumption
    | intro _
    | with_reducible refine modCopy_keeps ?_
    | with_reducible refine setReady_keeps ?_
    | with_reducible refine Keeps.foldl ?_ ?_
    | with_reducible refine Keeps.ite ?_ ?_

theorem verFld_free (c : Nat) : (verFld c).free = true := by unfold verFld; exact free_ite rfl rfl

theorem writeEntry_keeps {a : State} {z0 : State} {z1 z2 z3 : Nat} {z4 : MapEnt} (h : Keeps a z0) :
    Keeps a (State.writeEntry z0 z1 z2 z3 z4) := by
  unfold State.writeEntry
  repeat' first
    | with_reducible assumption
    | exact rfl
    | with_reducible refine wr_keeps ?_ ?_
    | with_reducible refine setReg_keeps ?_ ?_
    | with_reducible refine Keeps.ite ?_ ?_
    | exact verFld_free _

theorem buildSet_keeps {a : State} {z0 : State} {z1 : Img} {z2 : Nat} {z3 : Nat} {z4 : MapEnt} (h : Keeps a z0) :
    Keeps a (State.buildSet z0 z1 z2 z3 z4) := by
  unfold State.buildSet
  repeat' first
    | with_reducible assumption
    | intro _
    | with_reducible refine writeEntry_keeps ?_
    | with_reducible refine clearReady_keeps ?_
    | with_reducible refine modCopy_keeps ?_
    | with_reducible refine loadSpall_keeps ?_
    | with_reducible refine Keeps.foldl ?_ ?_
    | fail_if_no_progress with_reducible refine Keeps.mk ?_ rfl rfl rfl
    | dsimp only
    | split

theorem restoreLost_keeps {a : State} {z0 : State} {z1 : Nat} {z2 : Nat} {z3 : MapEnt} (h : Keeps a z0) :
    Keeps a (State.restoreLost z0 z1 z2 z3) := by
  unfold State.restoreLost
  repeat' first
    | with_reducible assumption
    | intro _
    | with_reducible refine spareFor_keeps ?_
    | with_reducible refine Keeps.foldl ?_ ?_
    | fail_if_no_progress with_reducible refine Keeps.mk ?_ rfl rfl rfl
    | dsimp only
    | split

theorem writeFine_keeps {a : State} {z0 : State} {z1 : Img} {z2 : Nat} {z3 : Nat → Bool} (h : Keeps a z0) :
    Keeps a (State.writeFine z0 z1 z2 z3) := by
  unfold State.writeFine
  repeat' first
    | with_reducible assumption
    | intro _
    | with_reducible refine modFace_keeps ?_
    | with_reducible refine putResidentRun_keeps ?_
    | with_reducible refine hbmWords_keeps ?_
    | with_reducible refine Keeps.foldl ?_ ?_
    | with_reducible refine Keeps.ite ?_ ?_

theorem writeLines_keeps {a : State} {z0 : State} {z1 : Nat} {z2 : Nat} {z3 : Nat} (h : Keeps a z0) :
    Keeps a (State.writeLines z0 z1 z2 z3) := by
  unfold State.writeLines
  repeat' first
    | with_reducible assumption
    | intro _
    | with_reducible refine modFace_keeps ?_
    | with_reducible refine putResident_keeps ?_
    | with_reducible refine Keeps.foldl ?_ ?_

theorem bdyCut_keeps {a : State} {z0 : State} (h : Keeps a z0) :
    Keeps a (State.bdyCut z0) := by
  unfold State.bdyCut
  repeat' first
    | with_reducible assumption
    | intro _
    | exact rfl
    | with_reducible refine msix_keeps ?_
    | with_reducible refine wr_keeps ?_ ?_
    | with_reducible refine writeLines_keeps ?_
    | with_reducible refine wrB_keeps ?_ ?_
    | with_reducible refine Keeps.foldl ?_ ?_
    | with_reducible refine Keeps.loop ?_ ?_
    | with_reducible refine Keeps.ite ?_ ?_

theorem expel_keeps {a : State} {z0 : State} {z1 : Nat} {z2 : Nat} {z3 : Nat} {z4 : Nat} (h : Keeps a z0) :
    Keeps a (State.expel z0 z1 z2 z3 z4) := by
  unfold State.expel
  repeat' first
    | with_reducible assumption
    | exact rfl
    | with_reducible refine raise_keeps ?_
    | with_reducible refine bump_keeps ?_ ?_
    | with_reducible refine declare_keeps ?_
    | with_reducible refine Keeps.ite ?_ ?_

theorem stopSeats_keeps {a : State} {z0 : State} {z1 : Nat} {z2 : Nat} {z3 : Nat} (h : Keeps a z0) :
    Keeps a (State.stopSeats z0 z1 z2 z3) := by
  unfold State.stopSeats
  repeat' first
    | with_reducible assumption
    | with_reducible refine raise_keeps ?_
    | with_reducible refine modRep_keeps ?_

theorem tallyJudge_keeps {a : State} {z0 : State} {z1 : List Tally} (h : Keeps a z0) :
    Keeps a (State.tallyJudge z0 z1) := by
  unfold State.tallyJudge
  repeat' first
    | with_reducible assumption
    | intro _
    | exact rfl
    | with_reducible refine expel_keeps ?_
    | with_reducible refine stopSeats_keeps ?_
    | with_reducible refine bump_keeps ?_ ?_
    | with_reducible refine Keeps.foldl ?_ ?_
    | with_reducible refine Keeps.ite ?_ ?_
    | dsimp only
    | split

theorem tallyReport_keeps {a : State} {z0 : State} {z1 : Tally} (h : Keeps a z0) :
    Keeps a (State.tallyReport z0 z1) := by
  unfold State.tallyReport
  repeat' first
    | with_reducible assumption
    | with_reducible refine tallyJudge_keeps ?_
    | with_reducible refine Keeps.ite ?_ ?_
    | fail_if_no_progress with_reducible refine Keeps.mk ?_ rfl rfl rfl
    | dsimp only
    | split

theorem tallyLayer_keeps {a : State} {z0 : State} {z1 : Nat} {z2 : Nat} (h : Keeps a z0) :
    Keeps a (State.tallyLayer z0 z1 z2) := by
  unfold State.tallyLayer
  repeat' first
    | with_reducible assumption
    | exact rfl
    | with_reducible refine bump_keeps ?_ ?_
    | with_reducible refine tallyReport_keeps ?_
    | with_reducible refine sendCtl_keeps ?_
    | with_reducible refine raise_keeps ?_
    | with_reducible refine Keeps.ite ?_ ?_
    | fail_if_no_progress with_reducible refine Keeps.mk ?_ rfl rfl rfl
    | dsimp only
    | split

theorem relines_keeps {a : State} {z0 : State} {z1 : Nat} (h : Keeps a z0) :
    Keeps a (State.relines z0 z1) := by
  unfold State.relines
  repeat' first
    | with_reducible assumption
    | intro _
    | with_reducible refine putResident_keeps ?_
    | with_reducible refine Keeps.foldl ?_ ?_
    | with_reducible refine Keeps.ite ?_ ?_
    | dsimp only
    | split

theorem putBack_keeps {a : State} {z0 : State} {z1 : Bool} (h : Keeps a z0) :
    Keeps a (State.putBack z0 z1) := by
  unfold State.putBack
  repeat' first
    | with_reducible assumption
    | intro _
    | with_reducible refine loadSpall_keeps ?_
    | with_reducible refine putResidentRun_keeps ?_
    | with_reducible refine hbmWords_keeps ?_
    | with_reducible refine relines_keeps ?_
    | with_reducible refine Keeps.foldl ?_ ?_
    | with_reducible refine Keeps.loop ?_ ?_
    | with_reducible refine Keeps.ite ?_ ?_
    | dsimp only
    | split

theorem setProg_keeps {a : State} {z0 : State} {z1 : Nat} {z2 : Nat} (h : Keeps a z0) :
    Keeps a (State.setProg z0 z1 z2) := by
  unfold State.setProg
  repeat' first
    | with_reducible assumption
    | exact rfl
    | with_reducible refine msix_keeps ?_
    | with_reducible refine wr_keeps ?_ ?_
    | with_reducible refine Keeps.ite ?_ ?_

theorem progRefuse_keeps {a : State} {z0 : State} {z1 : Nat} {z2 : Nat} {z3 : Nat} (h : Keeps a z0) :
    Keeps a (State.progRefuse z0 z1 z2 z3) := by
  unfold State.progRefuse
  repeat' first
    | with_reducible assumption
    | exact rfl
    | with_reducible refine wr_keeps ?_ ?_

theorem dropReq_keeps {a : State} {z0 : State} {z1 : Nat} (h : Keeps a z0) :
    Keeps a (State.dropReq z0 z1) := by
  unfold State.dropReq
  repeat' first
    | with_reducible assumption
    | exact rfl
    | with_reducible refine wr_keeps ?_ ?_
    | with_reducible refine modFace_keeps ?_

theorem bdyProg_keeps {a : State} {z0 : State} {z1 : Nat} (h : Keeps a z0) :
    Keeps a (State.bdyProg z0 z1) := by
  unfold State.bdyProg
  repeat' first
    | with_reducible assumption
    | exact rfl
    | with_reducible refine setProg_keeps ?_
    | with_reducible refine dropReq_keeps ?_
    | with_reducible refine progRefuse_keeps ?_
    | with_reducible refine wr_keeps ?_ ?_
    | with_reducible refine modFace_keeps ?_
    | with_reducible refine Keeps.ite ?_ ?_
    | fail_if_no_progress with_reducible refine Keeps.mk ?_ rfl rfl rfl
    | dsimp only
    | split

theorem bdyProgs_keeps {a : State} {z0 : State} (h : Keeps a z0) :
    Keeps a (State.bdyProgs z0) := by
  unfold State.bdyProgs
  repeat' first
    | with_reducible assumption
    | intro _
    | with_reducible refine bdyProg_keeps ?_
    | with_reducible refine Keeps.loop ?_ ?_

theorem progRequest_keeps {a : State} {z0 : State} {z1 : Nat} {z2 : ProgReq} (h : Keeps a z0) :
    Keeps a (State.progRequest z0 z1 z2) := by
  unfold State.progRequest
  repeat' first
    | with_reducible assumption
    | intro _
    | exact rfl
    | with_reducible refine orNow_keeps ?_ ?_
    | with_reducible refine wr_keeps ?_ ?_
    | with_reducible refine modFace_keeps ?_
    | with_reducible refine bdyProg_keeps ?_

theorem uncover_keeps {a : State} {z0 : State} {z1 : Nat} (h : Keeps a z0) :
    Keeps a (State.uncover z0 z1) := by
  unfold State.uncover
  repeat' first
    | with_reducible assumption
    | intro _
    | exact rfl
    | with_reducible refine wr_keeps ?_ ?_
    | with_reducible refine Keeps.foldl ?_ ?_
    | with_reducible refine Keeps.ite ?_ ?_

theorem unload_keeps {a : State} {z0 : State} {z1 : Nat} (h : Keeps a z0) :
    Keeps a (State.unload z0 z1) := by
  unfold State.unload
  repeat' first
    | with_reducible assumption
    | intro _
    | exact rfl
    | with_reducible refine wr_keeps ?_ ?_
    | with_reducible refine Keeps.foldl ?_ ?_
    | with_reducible refine Keeps.ite ?_ ?_

theorem bdyRegion_keeps {a : State} {z0 : State} {z1 : Nat} (h : Keeps a z0) :
    Keeps a (State.bdyRegion z0 z1) := by
  unfold State.bdyRegion
  repeat' first
    | with_reducible assumption
    | exact rfl
    | with_reducible refine uncover_keeps ?_
    | with_reducible refine modFace_keeps ?_
    | with_reducible refine setReg_keeps ?_ ?_
    | with_reducible refine bdyCacheCfg_keeps ?_
    | split

theorem bdyRegions_keeps {a : State} {z0 : State} (h : Keeps a z0) :
    Keeps a (State.bdyRegions z0) := by
  unfold State.bdyRegions
  repeat' first
    | with_reducible assumption
    | intro _
    | with_reducible refine bdyRegion_keeps ?_
    | with_reducible refine Keeps.loop ?_ ?_

theorem modPower_keeps {a : State} {z0 : State} {z1 : Power → Power} (h : Keeps a z0) :
    Keeps a (State.modPower z0 z1) := by
  unfold State.modPower
  repeat' first
    | with_reducible assumption
    | fail_if_no_progress with_reducible refine Keeps.mk ?_ rfl rfl rfl

theorem domRefuse_keeps {a : State} {z0 : State} {z1 : Nat} {z2 : Nat} (h : Keeps a z0) :
    Keeps a (State.domRefuse z0 z1 z2) := by
  unfold State.domRefuse
  repeat' first
    | with_reducible assumption
    | exact rfl
    | with_reducible refine msix_keeps ?_
    | with_reducible refine wr_keeps ?_ ?_

theorem loseStacks_keeps {a : State} {z0 : State} {z1 : Nat} (h : Keeps a z0) : Keeps a (State.loseStacks z0 z1) := by
  unfold State.loseStacks
  extract_lets gone t
  have ht : Keeps a t := Keeps.mk (s := { z0 with hbm := mdrop (fun g => gone (g / 2 ^ 29)) z0.hbm }) (h.hbm _ (mdrop_wf _ _ _)) rfl rfl rfl
  split
  · exact Keeps.ite (discard_keeps ht) ht
  · exact ht

theorem domOffEffects_keeps {a : State} {z0 : State} {z1 : Nat} {z2 : Nat} (h : Keeps a z0) :
    Keeps a (State.domOffEffects z0 z1 z2) := by
  unfold State.domOffEffects
  repeat' first
    | with_reducible assumption
    | intro _
    | exact rfl
    | with_reducible refine restartMons_keeps ?_
    | with_reducible refine noteStale_keeps ?_
    | with_reducible refine modCal_keeps ?_
    | with_reducible refine modFace_keeps ?_
    | with_reducible refine cacheEmpty_keeps ?_
    | with_reducible refine homeLost_keeps ?_
    | with_reducible refine unload_keeps ?_
    | with_reducible refine loseStacks_keeps ?_
    | with_reducible refine portDown_keeps ?_
    | with_reducible refine bypClose_keeps ?_
    | with_reducible refine wr_keeps ?_ ?_
    | with_reducible refine Keeps.loop ?_ ?_
    | with_reducible refine Keeps.ite ?_ ?_
    | dsimp only
    | split

theorem domOnEffects_keeps {a : State} {z0 : State} {z1 : Nat} {z2 : Nat} (h : Keeps a z0) :
    Keeps a (State.domOnEffects z0 z1 z2) := by
  unfold State.domOnEffects
  repeat' first
    | with_reducible assumption
    | intro _
    | with_reducible refine calRequest_keeps ?_
    | with_reducible refine modFace_keeps ?_
    | with_reducible refine trainStart_keeps ?_
    | with_reducible refine Keeps.loop ?_ ?_
    | with_reducible refine Keeps.ite ?_ ?_
    | split

theorem domStep_keeps {a : State} {z0 : State} {z1 : Nat} (h : Keeps a z0) :
    Keeps a (domStep z0 z1) := by
  induction z1 generalizing z0 with
  | zero =>
    unfold domStep
    first | exact h | (repeat' first | with_reducible assumption | split)
  | succ n ih =>
    unfold domStep
    repeat' first
      | with_reducible assumption
      | with_reducible refine ih ?_
      | exact rfl
      | with_reducible refine modPower_keeps ?_
      | with_reducible refine domRefuse_keeps ?_
      | with_reducible refine domOffEffects_keeps ?_
      | with_reducible refine wr_keeps ?_ ?_
      | with_reducible refine Keeps.ite ?_ ?_
      | dsimp only
      | split

theorem domNext_keeps {a : State} {z0 : State} (h : Keeps a z0) :
    Keeps a (State.domNext z0) := by
  unfold State.domNext
  repeat' first
    | with_reducible assumption
    | with_reducible refine domStep_keeps ?_

theorem bdyPower_keeps {a : State} {z0 : State} (h : Keeps a z0) :
    Keeps a (State.bdyPower z0) := by
  unfold State.bdyPower
  repeat' first
    | with_reducible assumption
    | with_reducible refine domNext_keeps ?_
    | with_reducible refine modPower_keeps ?_

theorem domWrite_keeps {a : State} {z0 : State} {z1 : Nat} {z2 : Nat} {z3 : Bool} (h : Keeps a z0) :
    Keeps a (State.domWrite z0 z1 z2 z3) := by
  unfold State.domWrite
  repeat' first
    | with_reducible assumption
    | exact rfl
    | with_reducible refine domRefuse_keeps ?_
    | with_reducible refine modPower_keeps ?_
    | with_reducible refine wr_keeps ?_ ?_
    | with_reducible refine Keeps.ite ?_ ?_

theorem noteVcore_keeps {a : State} {z0 : State} (h : Keeps a z0) :
    Keeps a (State.noteVcore z0) := by
  unfold State.noteVcore
  repeat' first
    | with_reducible assumption
    | exact rfl
    | with_reducible refine modPower_keeps ?_
    | with_reducible refine wr_keeps ?_ ?_
    | with_reducible refine Keeps.ite ?_ ?_

theorem bdyLevels_keeps {a : State} {z0 : State} (h : Keeps a z0) :
    Keeps a (State.bdyLevels z0) := by
  unfold State.bdyLevels
  repeat' first
    | with_reducible assumption
    | intro _
    | exact rfl
    | with_reducible refine noteVcore_keeps ?_
    | with_reducible refine wr_keeps ?_ ?_
    | with_reducible refine Keeps.foldl ?_ ?_
    | with_reducible refine Keeps.ite ?_ ?_

theorem thermTrip_keeps {a : State} {z0 : State} {z1 : Nat} {z2 : Int} (h : Keeps a z0) :
    Keeps a (State.thermTrip z0 z1 z2) := by
  unfold State.thermTrip
  repeat' first
    | with_reducible assumption
    | intro _
    | exact rfl
    | with_reducible refine faultN_keeps ?_
    | with_reducible refine wr_keeps ?_ ?_
    | with_reducible refine nvPut_keeps ?_
    | with_reducible refine portDown_keeps ?_
    | with_reducible refine Keeps.loop ?_ ?_
    | with_reducible refine Keeps.ite ?_ ?_
    | fail_if_no_progress with_reducible refine Keeps.mk ?_ rfl rfl rfl

theorem droopEntry_keeps {a : State} {z0 : State} {z1 : Nat} {z2 : Bool} {z3 : Nat} (h : Keeps a z0) : Keeps a (State.droopEntry z0 z1 z2 z3) := by
  unfold State.droopEntry
  extract_lets t e
  have ht : Keeps a t := modPower_keeps (Keeps.ite (bump_keeps h) (bump_keeps h))
  split
  · split
    · next q hq => exact ht.faultq _ (fun hl => by rw [mergeRec_length _ _ _ _ hq]; exact hl)
    · exact ht
  · exact modPower_keeps (raise_keeps ht)

theorem sensorRound_keeps {a : State} {z0 : State} {z1 : Nat → Int} {z2 : Nat → Int} {z3 : List Nat} {z4 : Nat} (h : Keeps a z0) :
    Keeps a (State.sensorRound z0 z1 z2 z3 z4) := by
  unfold State.sensorRound
  repeat' first
    | with_reducible assumption
    | exact rfl
    | with_reducible refine forced_keeps ?_
    | with_reducible refine modPower_keeps ?_
    | with_reducible refine wr_keeps ?_ ?_
    | with_reducible refine raise_keeps ?_
    | with_reducible refine Keeps.ite ?_ ?_

theorem warnIrq_keeps {a : State} {z0 : State} {z1 : Bool} {z2 : Bool} (h : Keeps a z0) :
    Keeps a (State.warnIrq z0 z1 z2) := by
  unfold State.warnIrq
  repeat' first
    | with_reducible assumption
    | with_reducible refine msix_keeps ?_
    | with_reducible refine Keeps.ite ?_ ?_

theorem faceHeat_keeps {a : State} {z0 : State} {z1 : Nat} {z2 : Nat} (h : Keeps a z0) :
    Keeps a (State.faceHeat z0 z1 z2) := by
  unfold State.faceHeat
  repeat' first
    | with_reducible assumption
    | exact rfl
    | with_reducible refine wr_keeps ?_ ?_
    | with_reducible refine warnIrq_keeps ?_
    | with_reducible refine modPower_keeps ?_
    | with_reducible refine bumpBy_keeps ?_ ?_
    | with_reducible refine Keeps.ite ?_ ?_
    | dsimp only
    | split

theorem stackHeat_keeps {a : State} {z0 : State} {z1 : Nat} (h : Keeps a z0) :
    Keeps a (State.stackHeat z0 z1) := by
  unfold State.stackHeat
  repeat' first
    | with_reducible assumption
    | exact rfl
    | with_reducible refine warnIrq_keeps ?_
    | with_reducible refine wr_keeps ?_ ?_
    | dsimp only
    | split

theorem heatRound_keeps {a : State} {z0 : State} {z1 : Nat} (h : Keeps a z0) :
    Keeps a (State.heatRound z0 z1) := by
  unfold State.heatRound
  repeat' first
    | with_reducible assumption
    | intro _
    | exact rfl
    | with_reducible refine faceHeat_keeps ?_
    | with_reducible refine stackHeat_keeps ?_
    | with_reducible refine wr_keeps ?_ ?_
    | with_reducible refine Keeps.foldl ?_ ?_
    | dsimp only
    | split

theorem govern_keeps {a : State} {z0 : State} {z1 : Nat → Int} (h : Keeps a z0) :
    Keeps a (State.govern z0 z1) := by
  unfold State.govern
  repeat' first
    | with_reducible assumption
    | exact rfl
    | with_reducible refine modPower_keeps ?_
    | with_reducible refine wrB_keeps ?_ ?_
    | with_reducible refine wr_keeps ?_ ?_
    | with_reducible refine bump_keeps ?_ ?_
    | with_reducible refine Keeps.ite ?_ ?_

theorem railRound_keeps {a : State} {z0 : State} {z1 : Nat → Int} (h : Keeps a z0) :
    Keeps a (State.railRound z0 z1) := by
  unfold State.railRound
  repeat' first
    | with_reducible assumption
    | exact rfl
    | with_reducible refine wrB_keeps ?_ ?_
    | with_reducible refine wr_keeps ?_ ?_
    | with_reducible refine grantWrites_keeps ?_
    | with_reducible refine bump_keeps ?_ ?_
    | with_reducible refine Keeps.ite ?_ ?_

theorem writeResults_keeps {a : State} {z0 : State} {z1 : List (Nat × Bool)} (h : Keeps a z0) :
    Keeps a (State.writeResults z0 z1) := by
  unfold State.writeResults
  repeat' first
    | with_reducible assumption
    | intro _
    | exact rfl
    | with_reducible refine wr_keeps ?_ ?_
    | with_reducible refine wrB_keeps ?_ ?_
    | with_reducible refine Keeps.loop ?_ ?_
    | with_reducible refine Keeps.ite ?_ ?_

theorem calTriggers_keeps {a : State} {z0 : State} {z1 : List Nat} (h : Keeps a z0) :
    Keeps a (State.calTriggers z0 z1) := by
  unfold State.calTriggers
  repeat' first
    | with_reducible assumption
    | intro _
    | with_reducible refine noteStale_keeps ?_
    | with_reducible refine calRequest_keeps ?_
    | with_reducible refine laneCalStart_keeps ?_
    | with_reducible refine Keeps.foldl ?_ ?_
    | with_reducible refine Keeps.loop ?_ ?_
    | with_reducible refine Keeps.ite ?_ ?_

theorem modKey_keeps {a : State} {z0 : State} {z1 : KeyWork → KeyWork} (h : Keeps a z0) (hg1 : ∀ x, (z1 x).after = x.after) :
    Keeps a (State.modKey z0 z1) := Keeps.mk h rfl rfl (hg1 _)

/-- A release that is to end in no other lifecycle state. -/
theorem modKey_none_keeps {a s : State} (h : Keeps a s) : Keeps a (s.modKey (fun x => { x with after := none })) :=
  h.trans ⟨rfl, rfl, rfl, fun x => ⟨⟨x.regs, x.faces, x.hbm, x.faultq, x.nvLog, x.ops, x.keys, x.fuses, fun v hv => by cases hv⟩,
    ⟨Nat.le_refl _, Nat.le_refl _, Nat.le_refl _⟩⟩⟩

/-- A release that is to end in lifecycle state v, which lies ahead. -/
theorem modKey_some_keeps {a s : State} {v : Nat} (h : Keeps a s) (hv : s.Sound → s.life ≤ v ∧ 2 ≤ v ∧ v ≤ 3) :
    Keeps a (s.modKey (fun x => { x with after := some (max v (x.after.getD 0)) })) :=
  h.trans ⟨rfl, rfl, rfl, fun x => ⟨⟨x.regs, x.faces, x.hbm, x.faultq, x.nvLog, x.ops, x.keys, x.fuses, fun w hw => by
      have h1 := hv x
      have hw : max v (s.key.after.getD 0) = w := by simpa [State.modKey] using hw
      show s.life ≤ w ∧ 2 ≤ w ∧ w ≤ 3
      cases ha : s.key.after with
      | none => simp [ha] at hw; omega
      | some u =>
        have h2 := x.life u ha
        simp [ha] at hw
        omega⟩,
    ⟨Nat.le_refl _, Nat.le_refl _, Nat.le_refl _⟩⟩⟩

theorem patrolGran_keeps {a : State} {z0 : State} {z1 : Nat} (h : Keeps a z0) :
    Keeps a (State.patrolGran z0 z1) := by
  unfold State.patrolGran
  repeat' first
    | with_reducible assumption
    | intro _
    | exact rfl
    | with_reducible refine bumpBy_keeps ?_ ?_
    | with_reducible refine setGran_keeps ?_
    | with_reducible refine raise_keeps ?_
    | with_reducible refine Keeps.loop ?_ ?_
    | with_reducible refine Keeps.ite ?_ ?_

theorem patrolMeta_keeps {a : State} {z0 : State} {z1 : Nat} (h : Keeps a z0) :
    Keeps a (State.patrolMeta z0 z1) := by
  unfold State.patrolMeta
  repeat' first
    | with_reducible assumption
    | intro _
    | exact rfl
    | with_reducible refine raise_keeps ?_
    | with_reducible refine modKey_keeps ?_ ?_
    | with_reducible refine bump_keeps ?_ ?_
    | with_reducible refine Keeps.ite ?_ ?_
    | fail_if_no_progress with_reducible refine Keeps.mk ?_ rfl rfl rfl

theorem bdyRotate_keeps {a : State} {z0 : State} (h : Keeps a z0) :
    Keeps a (State.bdyRotate z0) := by
  unfold State.bdyRotate
  repeat' first
    | with_reducible assumption
    | intro _
    | exact rfl
    | with_reducible refine modKey_keeps ?_ ?_
    | with_reducible refine wr_keeps ?_ ?_
    | with_reducible refine Keeps.ite ?_ ?_

theorem passPrune_keeps {a : State} {z0 : State} (h : Keeps a z0) :
    Keeps a (State.passPrune z0) := by
  unfold State.passPrune
  repeat' first
    | with_reducible assumption
    | intro _
    | exact rfl
    | with_reducible refine wr_keeps ?_ ?_
    | with_reducible refine modKey_keeps ?_ ?_

theorem bdySweepEnd_keeps {a : State} {z0 : State} (h : Keeps a z0) :
    Keeps a (State.bdySweepEnd z0) := by
  unfold State.bdySweepEnd
  repeat' first
    | with_reducible assumption
    | exact rfl
    | with_reducible refine passPrune_keeps ?_
    | with_reducible refine wr_keeps ?_ ?_
    | with_reducible refine Keeps.ite ?_ ?_

theorem poisonGran_keeps {a : State} {z0 : State} {z1 : Nat} (h : Keeps a z0) :
    Keeps a (State.poisonGran z0 z1) := by
  unfold State.poisonGran
  repeat' first
    | with_reducible assumption
    | with_reducible refine setGran_keeps ?_

theorem sweepGran_keeps {a : State} {z0 : State} {z1 : Nat} (h : Keeps a z0) :
    Keeps a (State.sweepGran z0 z1) := by
  unfold State.sweepGran
  repeat' first
    | with_reducible assumption
    | exact rfl
    | with_reducible refine bumpBy_keeps ?_ ?_
    | with_reducible refine setGran_keeps ?_
    | with_reducible refine metaPoison_keeps ?_
    | with_reducible refine raise_keeps ?_
    | with_reducible refine bump_keeps ?_ ?_
    | with_reducible refine poisonGran_keeps ?_
    | with_reducible refine Keeps.ite ?_ ?_
    | fail_if_no_progress with_reducible refine Keeps.mk ?_ rfl rfl rfl

theorem passShare_keeps {a : State} {z0 : State} {z1 : Nat} {z2 : Nat} {z3 : Nat} {z4 : Share} (h : Keeps a z0) :
    Keeps a (State.passShare z0 z1 z2 z3 z4) := by
  unfold State.passShare
  repeat' first
    | with_reducible assumption
    | intro _
    | exact rfl
    | with_reducible refine modKey_keeps ?_ ?_
    | with_reducible refine wr_keeps ?_ ?_
    | with_reducible refine raise_keeps ?_
    | with_reducible refine stockWrite_keeps ?_
    | with_reducible refine setPte_keeps ?_
    | with_reducible refine Keeps.ite ?_ ?_

theorem releaseSeats_keeps {a : State} {z0 : State} (h : Keeps a z0) :
    Keeps a (State.releaseSeats z0) := by
  unfold State.releaseSeats
  repeat' first
    | with_reducible assumption
    | intro _
    | exact rfl
    | with_reducible refine endRecord_keeps ?_
    | with_reducible refine setSeat_keeps ?_
    | with_reducible refine record_keeps ?_
    | with_reducible refine bump_keeps ?_ ?_
    | with_reducible refine wr_keeps ?_ ?_
    | with_reducible refine heldReg_keeps ?_
    | with_reducible refine seatRegs_keeps ?_
    | with_reducible refine ringIrqs_keeps ?_
    | with_reducible refine writeRecs_keeps ?_
    | with_reducible refine Keeps.foldl ?_ ?_
    | with_reducible refine Keeps.loop ?_ ?_
    | with_reducible refine Keeps.ite ?_ ?_
    | fail_if_no_progress with_reducible refine Keeps.mk ?_ rfl rfl rfl

theorem filter_wf {α : Type} [DecidableEq α] (d : Nat → α) (p : Nat × α → Bool) (m : SMap α) (h : mwf d m = true) :
    mwf d (m.filter p) = true := by
  rw [mwf_iff] at h ⊢
  exact ⟨fun e he => h.1 e (List.mem_of_mem_filter he), h.2.filter _⟩

theorem reg_resetRegs (s : State) (rs : List RegId) (r : RegId) (i : Nat) (hr : rs.contains r = false) :
    (s.resetRegs rs).reg r i = s.reg r i := by
  have hk := ctorIdx_lt r
  have h1 : regKey r i % 256 = r.ctorIdx := by simp only [regKey]; omega
  show mget _ (mdrop (fun k => rs.any (fun r => decide (r.ctorIdx = k % 256))) s.regs) _ = _
  rw [mget_mdrop]
  split
  · next h =>
    simp only [List.any_eq_true, decide_eq_true_eq, h1] at h
    obtain ⟨x, hx, he⟩ := h
    rw [ctorIdx_inj he] at hx
    simp [hx] at hr
  · rfl

theorem resetRegs_keeps {a : State} {z0 : State} {z1 : List RegId} (h : Keeps a z0) (hr : z1.all (fun r => !r.held) = true := by rfl) :
    Keeps a (State.resetRegs z0 z1) := by
  have hn : ∀ r : RegId, r.held = true → z1.contains r = false := by
    intro r hh
    simp only [List.contains_eq_mem, decide_eq_false_iff_not]
    intro hm
    have := List.all_eq_true.1 hr r hm
    simp [hh] at this
  refine h.regs _ (filter_wf resetAt _ _) (fun _ => ?_) (fun _ => ?_) (fun _ => ?_)
  · show (z0.resetRegs z1).fuses = _
    simp only [State.fuses, reg_resetRegs _ _ _ _ (hn .PLT_FACE_MAP rfl), reg_resetRegs _ _ _ _ (hn .PLT_CAP_UNITS rfl),
      reg_resetRegs _ _ _ _ (hn .PLT_CAP_FACES rfl)]
  · show (z0.resetRegs z1).life = _
    simp only [State.life, State.rd]; rw [reg_resetRegs _ _ _ _ (hn _ rfl)]
  · show _ ≤ (z0.resetRegs z1).floor
    simp only [State.floor, State.rd]; rw [reg_resetRegs _ _ _ _ (hn _ rfl)]

theorem releaseSync_keeps {a : State} {z0 : State} (h : Keeps a z0) :
    Keeps a (State.releaseSync z0) := by
  unfold State.releaseSync
  repeat' first
    | with_reducible assumption
    | intro _
    | exact rfl
    | with_reducible refine wr_keeps ?_ ?_
    | with_reducible refine setWin_keeps ?_
    | with_reducible refine dropSlots_keeps ?_
    | with_reducible refine modFace_keeps ?_
    | with_reducible refine resetRegs_keeps ?_ ?_
    | with_reducible refine Keeps.foldl ?_ ?_
    | with_reducible refine Keeps.loop ?_ ?_
    | fail_if_no_progress with_reducible refine Keeps.mk ?_ rfl rfl rfl

theorem releaseKeys_keeps {a : State} {z0 : State} (h : Keeps a z0) :
    Keeps a (State.releaseKeys z0) := by
  unfold State.releaseKeys
  repeat' first
    | with_reducible assumption
    | intro _
    | exact rfl
    | with_reducible refine modKey_keeps ?_ ?_
    | with_reducible refine wr_keeps ?_ ?_

theorem startRelease_keeps {a : State} {z0 : State} (h : Keeps a z0) :
    Keeps a (State.startRelease z0) := by
  unfold State.startRelease
  repeat' first
    | with_reducible assumption
    | intro _
    | exact rfl
    | with_reducible refine releaseSeats_keeps ?_
    | with_reducible refine wr_keeps ?_ ?_
    | with_reducible refine modFace_keeps ?_
    | with_reducible refine releaseKeys_keeps ?_
    | with_reducible refine releaseSync_keeps ?_
    | with_reducible refine Keeps.loop ?_ ?_

theorem openSession_keeps {a : State} {z0 : State} (h : Keeps a z0) :
    Keeps a (State.openSession z0) := by
  unfold State.openSession
  repeat' first
    | with_reducible assumption
    | intro _
    | exact rfl
    | with_reducible refine wr_keeps ?_ ?_
    | with_reducible refine modKey_keeps ?_ ?_

theorem bdySession_keeps {a : State} {z0 : State} (h : Keeps a z0) :
    Keeps a (State.bdySession z0) := by
  unfold State.bdySession
  repeat' first
    | with_reducible assumption
    | with_reducible refine openSession_keeps ?_
    | with_reducible refine startRelease_keeps ?_
    | with_reducible refine Keeps.ite ?_ ?_
    | dsimp only
    | split

theorem bdyKeys_keeps {a : State} {z0 : State} (h : Keeps a z0) :
    Keeps a (State.bdyKeys z0) := by
  unfold State.bdyKeys
  repeat' first
    | with_reducible assumption
    | with_reducible refine bdySession_keeps ?_
    | with_reducible refine bdyRotate_keeps ?_
    | with_reducible refine bdySweepEnd_keeps ?_

theorem sessionRefuse_keeps {a : State} {z0 : State} {z1 : Nat} (h : Keeps a z0) :
    Keeps a (State.sessionRefuse z0 z1) := by
  unfold State.sessionRefuse
  repeat' first
    | with_reducible assumption
    | exact rfl
    | with_reducible refine wr_keeps ?_ ?_

theorem requestRelease_keeps {a : State} {z0 : State} (h : Keeps a z0) :
    Keeps a (State.requestRelease z0) := by
  unfold State.requestRelease
  repeat' first
    | with_reducible assumption
    | intro _
    | exact rfl
    | with_reducible refine sessionRefuse_keeps ?_
    | with_reducible refine orNow_keeps ?_ ?_
    | with_reducible refine modKey_keeps ?_ ?_
    | with_reducible refine bdyKeys_keeps ?_
    | with_reducible refine Keeps.ite ?_ ?_

theorem scrubHbm_keeps {a : State} {z0 : State} (h : Keeps a z0) : Keeps a (State.scrubHbm z0) :=
  Keeps.mk (s := { z0 with hbm := z0.hbm.filter (fun e => z0.inWreg (e.1 * 128)) }) (h.hbm _ (filter_wf _ _ _)) rfl rfl rfl

theorem scrubFail_keeps {a : State} {z0 : State} {z1 : Nat} {z2 : Nat} (h : Keeps a z0) :
    Keeps a (State.scrubFail z0 z1 z2) := by
  unfold State.scrubFail
  repeat' first
    | with_reducible assumption
    | intro _
    | with_reducible refine raise_keeps ?_
    | with_reducible refine setGran_keeps ?_
    | with_reducible refine Keeps.loop ?_ ?_
    | with_reducible refine Keeps.ite ?_ ?_

theorem scrubInject_keeps {a : State} {z0 : State} (h : Keeps a z0) : Keeps a (State.scrubInject z0) :=
  Keeps.loop h (fun _ _ ht => Keeps.ite (inject_getD_keeps ht) ht)

theorem releaseFaces_keeps {a : State} {z0 : State} (h : Keeps a z0) :
    Keeps a (State.releaseFaces z0) := by
  unfold State.releaseFaces
  repeat' first
    | with_reducible assumption
    | intro _
    | with_reducible refine modFace_keeps ?_
    | with_reducible refine unload_keeps ?_
    | with_reducible refine cacheClear_keeps ?_
    | with_reducible refine putBack_keeps ?_
    | with_reducible refine Keeps.loop ?_ ?_

theorem setLife_keeps {a s : State} {v : Nat} (h : Keeps a s) (hv : s.Sound → s.life ≤ v ∧ v ≤ 3 ∧ ∀ w, s.key.after = some w → v ≤ w) :
    Keeps a (s.setLife v) := by
  refine resetRegs_keeps (wr_keeps (h.trans ⟨rfl, rfl, rfl, fun x => ?_⟩))
  have h1 := hv x
  have other : ∀ (q : RegId) (j : Nat), q ≠ .PLT_LIFECYCLE → (s.wr R.PLT_LIFECYCLE.STATE 0 v).reg q j = s.reg q j :=
    fun q j hq => reg_wr_ne s _ q 0 j v hq
  have hl : (s.wr R.PLT_LIFECYCLE.STATE 0 v).life = v := by
    simp only [State.life]
    rw [rd_wr_same _ _ _ _ (by decide)]
    exact Nat.mod_eq_of_lt (by show v < 2 ^ 2; omega)
  refine ⟨⟨setReg_wf _ _ _ x.regs, x.faces, x.hbm, x.faultq, x.nvLog, x.ops, x.keys, ?_, ?_⟩, ⟨by rw [hl]; exact h1.1, Nat.le_of_eq ?_, Nat.le_refl _⟩⟩
  · have hf : (s.wr R.PLT_LIFECYCLE.STATE 0 v).fuses = s.fuses := by
      simp only [State.fuses]
      rw [other _ _ (by decide), other _ _ (by decide), other _ _ (by decide)]
    exact hf ▸ x.fuses
  · intro w hw
    rw [hl]
    exact ⟨h1.2.2 w hw, (x.life w hw).2⟩
  · simp only [State.floor, State.rd]; rw [other _ _ (by decide)]

theorem releaseEnd_keeps {a : State} {z0 : State} (h : Keeps a z0) : Keeps a (State.releaseEnd z0) := by
  unfold State.releaseEnd
  extract_lets t u
  have hu : Keeps a u := Keeps.ite (msix_keeps (wr_keeps (wr_keeps (wr_keeps h)))) (wr_keeps (wr_keeps (wr_keeps h)))
  clear_value u
  split
  · next v e =>
    refine modKey_none_keeps (setLife_keeps hu (fun x => ?_))
    have := x.life v e
    exact ⟨this.1, this.2.2, fun w hw => by rw [e] at hw; cases hw; exact Nat.le_refl _⟩
  · exact hu

theorem setMsess_keeps {a : State} {z0 : State} {z1 : Nat} {z2 : MSess} (h : Keeps a z0) :
    Keeps a (State.setMsess z0 z1 z2) := by
  unfold State.setMsess
  repeat' first
    | with_reducible assumption
    | exact rfl
    | with_reducible refine wr_keeps ?_ ?_
    | fail_if_no_progress with_reducible refine Keeps.mk ?_ rfl rfl rfl

theorem mgmtSend_keeps {a : State} {z0 : State} {z1 : Nat} {z2 : List Nat} (h : Keeps a z0) :
    Keeps a (State.mgmtSend z0 z1 z2) := by
  unfold State.mgmtSend
  repeat' first
    | with_reducible assumption
    | with_reducible refine emit_keeps ?_
    | with_reducible refine setMsess_keeps ?_
    | with_reducible refine Keeps.ite ?_ ?_

theorem mgmtTake_keeps {a : State} {z0 : State} {z1 : Nat} {z2 : Nat} (h : Keeps a z0) :
    Keeps a (State.mgmtTake z0 z1 z2) := by
  unfold State.mgmtTake
  repeat' first
    | with_reducible assumption
    | with_reducible refine setMsess_keeps ?_
    | with_reducible refine Keeps.ite ?_ ?_

theorem mgmtTake_life (s : State) (i acks : Nat) : (s.mgmtTake i acks).life = s.life := by
  unfold State.mgmtTake
  dsimp only
  split
  · exact rd_wr_fld _ _ _ _ _ _ (by decide) (by decide) (by decide)
  · rfl

theorem mgmtOp_keeps {a s : State} {i acks code : Nat} {may : Bool} {g : State → Option (State × List Nat)} (h : Keeps a s)
    (hg : may = true → ∀ t r, Keeps a t → t.life = s.life → g t = some r → Keeps a r.1) : Keeps a (s.mgmtOp i acks code may g) := by
  unfold State.mgmtOp
  dsimp only
  have ht := mgmtTake_keeps (z1 := i) (z2 := acks) h
  split
  · next hm =>
    split
    · next r e => exact mgmtSend_keeps (hg hm _ r ht (mgmtTake_life s i acks) e)
    · exact mgmtSend_keeps ht
  · exact mgmtSend_keeps ht

theorem readLog_keeps {a : State} {z0 : State} {z1 : Nat} {z2 : Nat} (h : Keeps a z0) :
    Keeps a (State.readLog z0 z1 z2).1 := by
  unfold State.readLog
  repeat' first
    | with_reducible assumption
    | with_reducible refine hbmRead_keeps ?_
    | dsimp only
    | split



theorem releaseThen_keeps {a s : State} {v : Nat} (h : Keeps a s) (hv : s.Sound → s.life ≤ v ∧ 2 ≤ v ∧ v ≤ 3) :
    Keeps a (s.releaseThen v) := by
  unfold State.releaseThen
  dsimp only
  have h1 := modKey_some_keeps h hv
  exact Keeps.ite h1 (orNow_keeps (modKey_keeps h1 (fun _ => rfl)) (fun _ ht => bdyKeys_keeps ht))

theorem spdmAnswer_keeps {a : State} {z0 : State} {z1 : Nat} {z2 : List Nat} (h : Keeps a z0) :
    Keeps a (State.spdmAnswer z0 z1 z2) := by
  unfold State.spdmAnswer
  repeat' first
    | with_reducible assumption
    | with_reducible refine mgmtSend_keeps ?_
    | with_reducible refine emit_keeps ?_
    | with_reducible refine Keeps.ite ?_ ?_

theorem spdmTake_keeps {a : State} {z0 : State} {z1 : Nat} {z2 : Nat} (h : Keeps a z0) :
    Keeps a (State.spdmTake z0 z1 z2) := by
  unfold State.spdmTake
  repeat' first
    | with_reducible assumption
    | with_reducible refine mgmtTake_keeps ?_
    | with_reducible refine Keeps.ite ?_ ?_

theorem signed_keeps {a : State} {z0 : State} {z1 : List Nat} (h : Keeps a z0) :
    Keeps a (State.signed z0 z1).1 := by
  unfold State.signed
  repeat' first
    | with_reducible assumption
    | with_reducible refine draw_keeps ?_

end Sys2Proof.Machine
end

