-- ==== Sys2Proof/Laws/KeepHand.lean ====
section
/-! SUPPORT. What the operations of Machine/Resets.lean, Machine/Hand.lean keep: one lemma per operation. -/
namespace Sys2Proof.Machine

theorem modHif_keeps {a : State} {z0 : State} {z1 : Hif → Hif} (h : Keeps a z0) :
    Keeps a (State.modHif z0 z1) := by
  unfold State.modHif
  repeat' first
    | with_reducible assumption
    | fail_if_no_progress with_reducible refine Keeps.mk ?_ rfl rfl rfl

theorem startFaceReset_keeps {a : State} {z0 : State} {z1 : Nat} (h : Keeps a z0) :
    Keeps a (State.startFaceReset z0 z1) := by
  unfold State.startFaceReset
  repeat' first
    | with_reducible assumption
    | exact rfl
    | with_reducible refine modFace_keeps ?_
    | with_reducible refine homeLost_keeps ?_
    | with_reducible refine setDown_keeps ?_
    | with_reducible refine wr_keeps ?_ ?_
    | with_reducible refine Keeps.ite ?_ ?_
    | fail_if_no_progress with_reducible refine Keeps.mk ?_ rfl rfl rfl

theorem bdyDown_keeps {a : State} {z0 : State} (h : Keeps a z0) :
    Keeps a (State.bdyDown z0) := by
  unfold State.bdyDown
  repeat' first
    | with_reducible assumption
    | intro _
    | with_reducible refine modFace_keeps ?_
    | with_reducible refine setDown_keeps ?_
    | with_reducible refine Keeps.loop ?_ ?_
    | with_reducible refine Keeps.ite ?_ ?_

theorem endFaceReset_keeps {a : State} {z0 : State} {z1 : Nat} (h : Keeps a z0) :
    Keeps a (State.endFaceReset z0 z1) := by
  unfold State.endFaceReset
  repeat' first
    | with_reducible assumption
    | exact rfl
    | with_reducible refine modFace_keeps ?_
    | with_reducible refine cacheClear_keeps ?_
    | with_reducible refine resetDomain_keeps ?_
    | with_reducible refine bump_keeps ?_ ?_
    | with_reducible refine wr_keeps ?_ ?_

theorem bdyFlr_keeps {a : State} {z0 : State} (h : Keeps a z0) :
    Keeps a (State.bdyFlr z0) := by
  unfold State.bdyFlr
  repeat' first
    | with_reducible assumption
    | intro _
    | with_reducible refine emit_keeps ?_
    | with_reducible refine modHif_keeps ?_
    | with_reducible refine freeCarried_keeps ?_
    | with_reducible refine cancelSeat_keeps ?_
    | with_reducible refine modSeat_keeps ?_
    | with_reducible refine Keeps.foldl ?_ ?_
    | with_reducible refine Keeps.ite ?_ ?_
    | fail_if_no_progress with_reducible refine Keeps.mk ?_ rfl rfl rfl

theorem dropInstalls_keeps {a : State} {z0 : State} (h : Keeps a z0) :
    Keeps a (State.dropInstalls z0) := by
  unfold State.dropInstalls
  repeat' first
    | with_reducible assumption
    | intro _
    | exact rfl
    | with_reducible refine wr_keeps ?_ ?_
    | with_reducible refine gramRefuse_keeps ?_
    | with_reducible refine Keeps.foldl ?_ ?_
    | with_reducible refine Keeps.loop ?_ ?_
    | with_reducible refine Keeps.ite ?_ ?_
    | fail_if_no_progress with_reducible refine Keeps.mk ?_ rfl rfl rfl

theorem flr0_keeps {a : State} {z0 : State} (h : Keeps a z0) :
    Keeps a (State.flr0 z0) := by
  unfold State.flr0
  repeat' first
    | with_reducible assumption
    | intro _
    | exact rfl
    | with_reducible refine resetDomain_keeps ?_
    | with_reducible refine modFace_keeps ?_
    | with_reducible refine wr_keeps ?_ ?_
    | with_reducible refine orNow_keeps ?_ ?_
    | with_reducible refine modHif_keeps ?_
    | with_reducible refine dropInstalls_keeps ?_
    | with_reducible refine bdyFlr_keeps ?_
    | with_reducible refine Keeps.loop ?_ ?_
    | fail_if_no_progress with_reducible refine Keeps.mk ?_ rfl rfl rfl

theorem flr1_keeps {a : State} {z0 : State} (h : Keeps a z0) :
    Keeps a (State.flr1 z0) := by
  unfold State.flr1
  repeat' first
    | with_reducible assumption
    | intro _
    | with_reducible refine setProg_keeps ?_
    | with_reducible refine progRefuse_keeps ?_
    | with_reducible refine discard_keeps ?_
    | with_reducible refine Keeps.loop ?_ ?_
    | with_reducible refine Keeps.ite ?_ ?_

theorem flr2_keeps {a : State} {z0 : State} (h : Keeps a z0) :
    Keeps a (State.flr2 z0) := by
  unfold State.flr2
  repeat' first
    | with_reducible assumption
    | with_reducible refine resetDomain_keeps ?_
    | fail_if_no_progress with_reducible refine Keeps.mk ?_ rfl rfl rfl

theorem linkUp_keeps {a : State} {z0 : State} {z1 : Nat} {z2 : Nat} {z3 : Bool} (h : Keeps a z0) :
    Keeps a (State.linkUp z0 z1 z2 z3) := by
  unfold State.linkUp
  repeat' first
    | with_reducible assumption
    | exact rfl
    | with_reducible refine wrB_keeps ?_ ?_
    | with_reducible refine wr_keeps ?_ ?_
    | with_reducible refine emit_keeps ?_
    | with_reducible refine modHif_keeps ?_
    | with_reducible refine Keeps.ite ?_ ?_

theorem permAgain_keeps {a : State} {z0 : State} (h : Keeps a z0) :
    Keeps a (State.permAgain z0) := by
  unfold State.permAgain
  repeat' first
    | with_reducible assumption
    | intro _
    | with_reducible refine startRetire_keeps ?_
    | with_reducible refine modFace_keeps ?_
    | with_reducible refine setDown_keeps ?_
    | with_reducible refine unitOther_keeps ?_
    | with_reducible refine Keeps.foldl ?_ ?_
    | with_reducible refine Keeps.ite ?_ ?_
    | dsimp only
    | split

theorem doAct_keeps {a : State} {z0 : State} {z1 : BAct} (h : Keeps a z0) :
    Keeps a (State.doAct z0 z1) := by
  unfold State.doAct
  repeat' first
    | with_reducible assumption
    | with_reducible refine startRetire_keeps ?_
    | with_reducible refine stuckArray_keeps ?_
    | with_reducible refine respare_keeps ?_
    | with_reducible refine tourSwitch_keeps ?_
    | with_reducible refine switchSlot_keeps ?_
    | with_reducible refine lose_keeps ?_
    | with_reducible refine swapConv_keeps ?_
    | with_reducible refine startDwell_keeps ?_
    | with_reducible refine fitApply_keeps ?_
    | with_reducible refine unitAction_keeps ?_
    | with_reducible refine Keeps.ite ?_ ?_
    | split

theorem bdyActs_keeps {a : State} {z0 : State} (h : Keeps a z0) :
    Keeps a (State.bdyActs z0) := by
  unfold State.bdyActs
  repeat' first
    | with_reducible assumption
    | intro _
    | with_reducible refine doAct_keeps ?_
    | with_reducible refine Keeps.foldl ?_ ?_
    | fail_if_no_progress with_reducible refine Keeps.mk ?_ rfl rfl rfl

theorem foldl_mset_wf {α β : Type} [DecidableEq α] (d : α) (xs : List β) (k : β → Nat) (v : β → α) (m : SMap α)
    (h : mwf (fun _ => d) m = true) : mwf (fun _ => d) (xs.foldl (fun m x => mset d m (k x) (v x)) m) = true := by
  induction xs generalizing m with
  | nil => exact h
  | cons x xs ih => exact ih _ (mset_wf (fun _ => d) _ _ _ h)

/-- The faces replaced by a map in canonical form. -/
theorem Keeps.faces {a s : State} (h : Keeps a s) (m : SMap Face) (hm : mwf (fun _ => {}) m = true) : Keeps a { s with faces := m } :=
  h.trans ⟨rfl, rfl, rfl, fun y => ⟨⟨y.regs, hm, y.hbm, y.faultq, y.nvLog, y.ops, y.keys, y.fuses, y.life⟩,
    ⟨Nat.le_refl _, Nat.le_refl _, Nat.le_refl _⟩⟩⟩

/-- A state whose registers are those of a kept state `u`, and whose other kept parts are those of `z` or empty. -/
theorem Keeps.parts {a z u t : State} (h : Keeps a z) (k : Keeps z u) (hp : t.pending = z.pending) (ho : t.mgmt.ops = z.mgmt.ops)
    (hi : t.imgKeys = z.imgKeys) (hr : t.regs = u.regs) (hf : z.Sound → mwf (fun _ => {}) t.faces = true) (hh : t.hbm = z.hbm ∨ t.hbm = [])
    (hq : t.faultq = z.faultq ∨ t.faultq = []) (hn : t.nvLog = z.nvLog) (ha : t.key.after = z.key.after ∨ t.key.after = none)
    (hb : z.mgmt.rollback ≤ t.mgmt.rollback) (hu : u.key.after = z.key.after) : Keeps a t := by
  have rg : ∀ r i, t.reg r i = u.reg r i := fun r i => by simp only [State.reg, hr]
  have lf : t.life = u.life := by simp only [State.life, State.rd, rg]
  refine h.trans ⟨hp, ho, hi, fun x => ?_⟩
  have y := k.2.2.2 x
  refine ⟨⟨hr ▸ y.1.regs, hf x, ?_, ?_, hn ▸ x.nvLog, ho ▸ x.ops, hi ▸ x.keys, ?_, ?_⟩, ⟨?_, ?_, hb⟩⟩
  · rcases hh with e | e
    · rw [e]; exact x.hbm
    · rw [e]; rfl
  · rcases hq with e | e
    · rw [e]; exact x.faultq
    · rw [e]; exact Nat.zero_le _
  · have e : t.fuses = u.fuses := by simp only [State.fuses, rg]
    exact e ▸ y.1.fuses
  · intro v hv
    rcases ha with e | e
    · have w := x.life v (e ▸ hv)
      exact ⟨lf ▸ (y.1.life v (hu ▸ e ▸ hv)).1, w.2⟩
    · rw [e] at hv; cases hv
  · rw [lf]; exact y.2.life
  · simpa only [State.floor, State.rd, rg] using y.2.floor

theorem warmState_faces (s : State) : mwf (fun _ => {}) s.warmState.faces = true := by
  simp only [State.warmState]
  exact foldl_mset_wf ({} : Face) _ _ _ _ rfl

/-- The registers that a warm reset puts at their reset values. -/
def warmReset (r : RegId) (_ : Nat) : Bool :=
  decide ((regInfo r).dom = .warm ∨ (regInfo r).dom = .function ∨ (regInfo r).dom = .face) && decide (r ≠ .PWR_DOM_STATE)

theorem warmState_regs (s : State) : s.warmState.regs = (s.resetWhere warmReset).regs := by
  simp only [State.warmState]
  rfl

theorem warmState_keeps {a : State} {z0 : State} (h : Keeps a z0) : Keeps a (State.warmState z0) := by
  have k : Keeps z0 (z0.resetWhere warmReset) := resetWhere_keeps Keeps.rfl'
  have f := warmState_faces z0
  have r := warmState_regs z0
  have p : z0.warmState.pending = z0.pending := rfl
  have o : z0.warmState.mgmt = z0.mgmt := rfl
  have i : z0.warmState.imgKeys = z0.imgKeys := rfl
  have b : z0.warmState.hbm = z0.hbm := rfl
  have q : z0.warmState.faultq = z0.faultq := rfl
  have n : z0.warmState.nvLog = z0.nvLog := rfl
  have e : z0.warmState.key = z0.key := rfl
  generalize z0.warmState = t at *
  have u : (z0.resetWhere warmReset).key.after = z0.key.after := rfl
  generalize z0.resetWhere warmReset = w at *
  exact h.parts k p (congrArg _ o) i r (fun _ => f) (.inl b) (.inl q) n (.inl (congrArg _ e)) (Nat.le_of_eq (congrArg _ o.symm)) u

theorem warmEnd_keeps {a : State} {z0 : State} (h : Keeps a z0) :
    Keeps a (State.warmEnd z0) := by
  unfold State.warmEnd
  repeat' first
    | with_reducible assumption
    | intro _
    | exact rfl
    | with_reducible refine permAgain_keeps ?_
    | with_reducible refine wr_keeps ?_ ?_
    | with_reducible refine warmState_keeps ?_
    | with_reducible refine domNext_keeps ?_
    | with_reducible refine noteSlots_keeps ?_
    | with_reducible refine bdyDown_keeps ?_
    | with_reducible refine bdyKeys_keeps ?_
    | with_reducible refine bdyPorts_keeps ?_
    | with_reducible refine bdyActs_keeps ?_
    | with_reducible refine msix_keeps ?_
    | with_reducible refine Keeps.foldl ?_ ?_
    | with_reducible refine Keeps.ite ?_ ?_

theorem coldBase_faces (s : State) : mwf (fun _ => {}) s.coldBase.faces = true := by
  simp only [State.coldBase]
  exact foldl_mset_wf ({} : Face) _ _ _ _ rfl

theorem coldBase_regs (s : State) : s.coldBase.regs = (s.resetWhere (fun _ _ => true)).regs := by
  simp only [State.coldBase]

theorem coldBase_keeps {a : State} {z0 : State} (h : Keeps a z0) : Keeps a (State.coldBase z0) := by
  have k : Keeps z0 (z0.resetWhere (fun _ _ => true)) := resetWhere_keeps Keeps.rfl'
  have f := coldBase_faces z0
  have r := coldBase_regs z0
  have p : z0.coldBase.pending = z0.pending := rfl
  have o : z0.coldBase.mgmt.ops = z0.mgmt.ops := rfl
  have l : z0.coldBase.mgmt.rollback = z0.mgmt.rollback := rfl
  have i : z0.coldBase.imgKeys = z0.imgKeys := rfl
  have b : z0.coldBase.hbm = [] := rfl
  have q : z0.coldBase.faultq = [] := rfl
  have n : z0.coldBase.nvLog = z0.nvLog := rfl
  have e : z0.coldBase.key.after = none := rfl
  generalize z0.coldBase = t at *
  have u : (z0.resetWhere (fun _ _ => true)).key.after = z0.key.after := rfl
  generalize z0.resetWhere (fun _ _ => true) = w at *
  exact h.parts k p o i r (fun _ => f) (.inr b) (.inr q) n (.inr e) (Nat.le_of_eq l.symm) u

theorem coldState_keeps {a : State} {z0 : State} (h : Keeps a z0) : Keeps a (State.coldState z0) := by
  unfold State.coldState
  exact wr_keeps (numberFaces_keeps (coldBase_keeps h))

theorem bootStep_keeps {a : State} {z0 : State} {z1 : Nat} (h : Keeps a z0) :
    Keeps a (State.bootStep z0 z1) := by
  unfold State.bootStep
  repeat' first
    | with_reducible assumption
    | exact rfl
    | with_reducible refine wr_keeps ?_ ?_

theorem bootDomain_keeps {a : State} {z0 : State} {z1 : Nat} (h : Keeps a z0) :
    Keeps a (State.bootDomain z0 z1) := by
  unfold State.bootDomain
  repeat' first
    | with_reducible assumption
    | exact rfl
    | with_reducible refine wr_keeps ?_ ?_
    | with_reducible refine Keeps.ite ?_ ?_

theorem bootConverter_keeps {a : State} {z0 : State} {z1 : List (Nat × Nat)} (h : Keeps a z0) :
    Keeps a (State.bootConverter z0 z1) := by
  unfold State.bootConverter
  repeat' first
    | with_reducible assumption
    | intro _
    | exact rfl
    | with_reducible refine wr_keeps ?_ ?_
    | with_reducible refine Keeps.loop ?_ ?_

theorem bootArray_keeps {a : State} {z0 : State} {z1 : Nat} {z2 : Nat} {z3 : Nat} (h : Keeps a z0) :
    Keeps a (State.bootArray z0 z1 z2 z3) := by
  unfold State.bootArray
  repeat' first
    | with_reducible assumption
    | exact rfl
    | with_reducible refine digestNow_keeps ?_
    | with_reducible refine modArr_keeps ?_
    | with_reducible refine lose_keeps ?_
    | with_reducible refine bump_keeps ?_ ?_
    | with_reducible refine wr_keeps ?_ ?_
    | with_reducible refine Keeps.ite ?_ ?_
    | dsimp only
    | split

theorem bootWriting_keeps {a : State} {z0 : State} (h : Keeps a z0) :
    Keeps a (State.bootWriting z0) := by
  unfold State.bootWriting
  repeat' first
    | with_reducible assumption
    | intro _
    | with_reducible refine setReady_keeps ?_
    | with_reducible refine Keeps.loop ?_ ?_
    | with_reducible refine Keeps.ite ?_ ?_
    | split

theorem bootCopies_keeps {a : State} {z0 : State} {z1 : List (Nat × List (Nat × Nat))} (h : Keeps a z0) :
    Keeps a (State.bootCopies z0 z1) := by
  unfold State.bootCopies
  repeat' first
    | with_reducible assumption
    | intro _
    | exact rfl
    | with_reducible refine wr_keeps ?_ ?_
    | with_reducible refine bootWriting_keeps ?_
    | with_reducible refine bootArray_keeps ?_
    | with_reducible refine calRequest_keeps ?_
    | with_reducible refine Keeps.loop ?_ ?_
    | with_reducible refine Keeps.ite ?_ ?_
    | fail_if_no_progress with_reducible refine Keeps.mk ?_ rfl rfl rfl

theorem bootDomains_keeps {a : State} {z0 : State} {z1 : Boot} (h : Keeps a z0) :
    Keeps a (State.bootDomains z0 z1) := by
  unfold State.bootDomains
  repeat' first
    | with_reducible assumption
    | intro _
    | with_reducible refine bootDomain_keeps ?_
    | with_reducible refine linkUp_keeps ?_
    | with_reducible refine trainStart_keeps ?_
    | with_reducible refine Keeps.foldl ?_ ?_
    | with_reducible refine Keeps.ite ?_ ?_

theorem bootMemory_keeps {a : State} {z0 : State} (h : Keeps a z0) : Keeps a (State.bootMemory z0) := by
  unfold State.bootMemory
  extract_lets t u
  have ht : Keeps a t := bootDomain_keeps (bootDomain_keeps h)
  have hu : Keeps a u := Keeps.mk (ht.hbm [] (fun _ => rfl)) rfl rfl rfl
  exact wr_keeps (wr_keeps hu)

theorem bootEnd_keeps {a : State} {z0 : State} {z1 : Boot} (h : Keeps a z0) : Keeps a (State.bootEnd z0 z1) := by
  unfold State.bootEnd
  extract_lets v m t
  have ht : Keeps a t := h.parts (u := z0) Keeps.rfl' rfl rfl rfl rfl (fun x => x.faces) (.inl rfl) (.inl rfl) rfl (.inl rfl) (Nat.le_max_left _ _) rfl
  clear_value t
  exact msix_keeps (bootStep_keeps (wr_keeps (wr_keeps ht)))

theorem boot_keeps {a : State} {z0 : State} {z1 : Boot} (h : Keeps a z0) :
    Keeps a (State.boot z0 z1) := by
  unfold State.boot
  repeat' first
    | with_reducible assumption
    | exact rfl
    | with_reducible refine bootStep_keeps ?_
    | with_reducible refine wr_keeps ?_ ?_
    | with_reducible refine wrB_keeps ?_ ?_
    | with_reducible refine bootConverter_keeps ?_
    | with_reducible refine bootDomains_keeps ?_
    | with_reducible refine bootMemory_keeps ?_
    | with_reducible refine permAgain_keeps ?_
    | with_reducible refine bootCopies_keeps ?_
    | with_reducible refine bootEnd_keeps ?_
    | with_reducible refine Keeps.ite ?_ ?_
    | dsimp only
    | split

theorem coldReset_keeps {a : State} {z0 : State} {z1 : Boot} (h : Keeps a z0) :
    Keeps a (State.coldReset z0 z1) := by
  unfold State.coldReset
  repeat' first
    | with_reducible assumption
    | with_reducible refine boot_keeps ?_
    | with_reducible refine coldState_keeps ?_
    | with_reducible refine Keeps.ite ?_ ?_
    | fail_if_no_progress with_reducible refine Keeps.mk ?_ rfl rfl rfl

theorem modHand_keeps {a : State} {z0 : State} {z1 : HandSt → HandSt} (h : Keeps a z0) :
    Keeps a (State.modHand z0 z1) := by
  unfold State.modHand
  repeat' first
    | with_reducible assumption
    | fail_if_no_progress with_reducible refine Keeps.mk ?_ rfl rfl rfl

theorem sendAborts_keeps {a : State} {z0 : State} {z1 : Nat} (h : Keeps a z0) :
    Keeps a (State.sendAborts z0 z1) := by
  unfold State.sendAborts
  repeat' first
    | with_reducible assumption
    | intro _
    | with_reducible refine sendCtl_keeps ?_
    | with_reducible refine Keeps.foldl ?_ ?_

theorem missTick_keeps {a : State} {z0 : State} {z1 : Nat} (h : Keeps a z0) :
    Keeps a (State.missTick z0 z1) := by
  unfold State.missTick
  repeat' first
    | with_reducible assumption
    | exact rfl
    | with_reducible refine modHand_keeps ?_
    | with_reducible refine bump_keeps ?_ ?_

theorem headSkip_keeps {a : State} {z0 : State} {z1 : Nat} (h : Keeps a z0) :
    Keeps a (State.headSkip z0 z1) := by
  induction z1 generalizing z0 with
  | zero =>
    unfold State.headSkip
    first | exact h | (repeat' first | with_reducible assumption | split)
  | succ n ih =>
    unfold State.headSkip
    repeat' first
      | with_reducible assumption
      | with_reducible refine ih ?_
      | with_reducible refine Keeps.ite ?_ ?_
      | fail_if_no_progress with_reducible refine Keeps.mk ?_ rfl rfl rfl
      | split

theorem takeStamps_keeps {a : State} {z0 : State} (h : Keeps a z0) :
    Keeps a (State.takeStamps z0) := by
  unfold State.takeStamps
  repeat' first
    | with_reducible assumption
    | intro _
    | with_reducible refine stampWith_keeps ?_
    | with_reducible refine Keeps.foldl ?_ ?_
    | with_reducible refine Keeps.ite ?_ ?_

theorem takeSlot_keeps {a : State} {z0 : State} {z1 : Bool} {z2 : List SlotSeat} (h : Keeps a z0) :
    Keeps a (State.takeSlot z0 z1 z2) := by
  unfold State.takeSlot
  repeat' first
    | with_reducible assumption
    | with_reducible refine modHand_keeps ?_
    | with_reducible refine releaseWindows_keeps ?_
    | with_reducible refine headSkip_keeps ?_
    | with_reducible refine Keeps.ite ?_ ?_
    | dsimp only
    | split

theorem enterFace_keeps {a : State} {z0 : State} {z1 : Nat} {z2 : Nat} {z3 : Bool} (h : Keeps a z0) :
    Keeps a (State.enterFace z0 z1 z2 z3) := by
  unfold State.enterFace
  repeat' first
    | with_reducible assumption
    | with_reducible refine setFace_keeps ?_
    | with_reducible refine takeTraps_keeps ?_

theorem startHand_keeps {a : State} {z0 : State} {z1 : Nat} {z2 : Nat} {z3 : List SlotSeat} {z4 : List (Nat × Bool × Bool)} (h : Keeps a z0) :
    Keeps a (State.startHand z0 z1 z2 z3 z4) := by
  unfold State.startHand
  repeat' first
    | with_reducible assumption
    | intro _
    | with_reducible refine modHand_keeps ?_
    | with_reducible refine modFace_keeps ?_
    | with_reducible refine takeSlot_keeps ?_
    | with_reducible refine issueTickets_keeps ?_
    | with_reducible refine takeStamps_keeps ?_
    | with_reducible refine enterFace_keeps ?_
    | with_reducible refine Keeps.loop ?_ ?_
    | with_reducible refine Keeps.ite ?_ ?_

theorem sendReport_keeps {a : State} {z0 : State} {z1 : Nat} {z2 : Nat} {z3 : Nat} (h : Keeps a z0) :
    Keeps a (State.sendReport z0 z1 z2 z3) := by
  unfold State.sendReport
  repeat' first
    | with_reducible assumption
    | with_reducible refine managerReport_keeps ?_
    | with_reducible refine sendCtl_keeps ?_
    | with_reducible refine Keeps.ite ?_ ?_

theorem bdyHostSigs_keeps {a : State} {z0 : State} (h : Keeps a z0) :
    Keeps a (State.bdyHostSigs z0) := by
  unfold State.bdyHostSigs
  repeat' first
    | with_reducible assumption
    | intro _
    | with_reducible refine hostSignal_keeps ?_
    | with_reducible refine modFace_keeps ?_
    | with_reducible refine Keeps.foldl ?_ ?_
    | with_reducible refine Keeps.loop ?_ ?_

theorem boundary_keeps {a : State} {z0 : State} {z1 : Nat} (h : Keeps a z0) :
    Keeps a (State.boundary z0 z1) := by
  unfold State.boundary
  repeat' first
    | with_reducible assumption
    | with_reducible refine bdyTricks_keeps ?_
    | with_reducible refine bdyWindows_keeps ?_
    | with_reducible refine bdySigrs_keeps ?_
    | with_reducible refine bdyHostSigs_keeps ?_
    | with_reducible refine bdyResident_keeps ?_
    | with_reducible refine bdyTrim_keeps ?_
    | with_reducible refine bdyGrams_keeps ?_
    | with_reducible refine bdyPrefix_keeps ?_
    | with_reducible refine bdyMode_keeps ?_
    | with_reducible refine bdyTtl_keeps ?_
    | with_reducible refine bdyFolds_keeps ?_
    | with_reducible refine bdyActs_keeps ?_
    | with_reducible refine bdyDeck_keeps ?_
    | with_reducible refine bdyInj_keeps ?_
    | with_reducible refine bdyPins_keeps ?_
    | with_reducible refine bdyDomain_keeps ?_
    | with_reducible refine bdyBypass_keeps ?_
    | with_reducible refine bdyPorts_keeps ?_
    | with_reducible refine bdyRegions_keeps ?_
    | with_reducible refine bdyProgs_keeps ?_
    | with_reducible refine bdyCut_keeps ?_
    | with_reducible refine bdyLevels_keeps ?_
    | with_reducible refine bdyPower_keeps ?_
    | with_reducible refine bdyDown_keeps ?_
    | with_reducible refine bdyKeys_keeps ?_
    | with_reducible refine bdyFlr_keeps ?_

theorem endHand_keeps {a : State} {z0 : State} (h : Keeps a z0) :
    Keeps a (State.endHand z0) := by
  unfold State.endHand
  repeat' first
    | with_reducible assumption
    | intro _
    | with_reducible refine modHand_keeps ?_
    | with_reducible refine modFace_keeps ?_
    | with_reducible refine boundary_keeps ?_
    | with_reducible refine Keeps.loop ?_ ?_

theorem idleEnd_keeps {a : State} {z0 : State} (h : Keeps a z0) :
    Keeps a (State.idleEnd z0) := by
  unfold State.idleEnd
  repeat' first
    | with_reducible assumption
    | with_reducible refine advance_keeps ?_
    | with_reducible refine sendAborts_keeps ?_
    | with_reducible refine endHand_keeps ?_
    | with_reducible refine sendReport_keeps ?_
    | fail_if_no_progress with_reducible refine Keeps.mk ?_ rfl rfl rfl
    | split

theorem openTiles_keeps {a : State} {z0 : State} (h : Keeps a z0) :
    Keeps a (State.openTiles z0) := by
  unfold State.openTiles
  repeat' first
    | with_reducible assumption
    | intro _
    | exact rfl
    | with_reducible refine bumpBy_keeps ?_ ?_
    | with_reducible refine Keeps.loop ?_ ?_
    | with_reducible refine Keeps.ite ?_ ?_
    | dsimp only
    | split

theorem dropFreed_keeps {a : State} {z0 : State} {z1 : SMap Bool} (h : Keeps a z0) :
    Keeps a (State.dropFreed z0 z1) := by
  unfold State.dropFreed
  repeat' first
    | with_reducible assumption
    | intro _
    | with_reducible refine cacheDrop_keeps ?_
    | with_reducible refine Keeps.foldl ?_ ?_
    | with_reducible refine Keeps.loop ?_ ?_
    | with_reducible refine Keeps.ite ?_ ?_

theorem landed_keeps {a : State} {z0 : State} {z1 : Nat} (h : Keeps a z0) :
    Keeps a (State.landed z0 z1) := by
  unfold State.landed
  repeat' first
    | with_reducible assumption
    | intro _
    | with_reducible refine modSeat_keeps ?_
    | with_reducible refine Keeps.foldl ?_ ?_
    | with_reducible refine Keeps.ite ?_ ?_

theorem sendNotice_keeps {a : State} {z0 : State} {z1 : Nat} {z2 : Nat} {z3 : List WinEntry} {z4 : Nat} (h : Keeps a z0) :
    Keeps a (State.sendNotice z0 z1 z2 z3 z4) := by
  induction z4 generalizing z0 z1 z2 z3 with
  | zero =>
    unfold State.sendNotice
    first | exact h | (repeat' first | with_reducible assumption | split)
  | succ n ih =>
    unfold State.sendNotice
    repeat' first
      | with_reducible assumption
      | with_reducible refine ih ?_
      | with_reducible refine sendCtl_keeps ?_
      | with_reducible refine Keeps.ite ?_ ?_

theorem commitNotices_keeps {a : State} {z0 : State} {z1 : Nat} (h : Keeps a z0) :
    Keeps a (State.commitNotices z0 z1) := by
  unfold State.commitNotices
  repeat' first
    | with_reducible assumption
    | intro _
    | with_reducible refine sendNotice_keeps ?_
    | with_reducible refine modHand_keeps ?_
    | with_reducible refine Keeps.foldl ?_ ?_
    | with_reducible refine Keeps.ite ?_ ?_

theorem mirrorCtr_keeps {a : State} {z0 : State} {z1 : Nat} {z2 : Nat} {z3 : Nat} {z4 : Ctr} (h : Keeps a z0) :
    Keeps a (State.mirrorCtr z0 z1 z2 z3 z4) := by
  unfold State.mirrorCtr
  repeat' first
    | with_reducible assumption
    | exact rfl
    | with_reducible refine modFace_keeps ?_
    | with_reducible refine hostWrite_keeps ?_
    | with_reducible refine wr_keeps ?_ ?_
    | with_reducible refine msix_keeps ?_
    | with_reducible refine Keeps.ite ?_ ?_
    | dsimp only
    | split

theorem mirrors_keeps {a : State} {z0 : State} {z1 : Nat} (h : Keeps a z0) :
    Keeps a (State.mirrors z0 z1) := by
  unfold State.mirrors
  repeat' first
    | with_reducible assumption
    | intro _
    | with_reducible refine mirrorCtr_keeps ?_
    | with_reducible refine Keeps.foldl ?_ ?_
    | with_reducible refine Keeps.loop ?_ ?_
    | with_reducible refine Keeps.ite ?_ ?_

theorem commitFace_keeps {a : State} {z0 : State} {z1 : Nat} (h : Keeps a z0) :
    Keeps a (State.commitFace z0 z1) := by
  unfold State.commitFace
  repeat' first
    | with_reducible assumption
    | exact rfl
    | with_reducible refine bump_keeps ?_ ?_
    | with_reducible refine wr_keeps ?_ ?_
    | with_reducible refine modFace_keeps ?_
    | with_reducible refine setReg_keeps ?_ ?_
    | with_reducible refine Keeps.ite ?_ ?_

theorem publish_keeps {a : State} {z0 : State} {z1 : Nat} (h : Keeps a z0) :
    Keeps a (State.publish z0 z1) := by
  unfold State.publish
  repeat' first
    | with_reducible assumption
    | with_reducible refine mirrors_keeps ?_
    | with_reducible refine ringIrqs_keeps ?_
    | with_reducible refine Keeps.ite ?_ ?_
    | fail_if_no_progress with_reducible refine Keeps.mk ?_ rfl rfl rfl

theorem commitHand_keeps {a : State} {z0 : State} (h : Keeps a z0) :
    Keeps a (State.commitHand z0) := by
  unfold State.commitHand
  repeat' first
    | with_reducible assumption
    | intro _
    | exact rfl
    | with_reducible refine dealerCommit_keeps ?_
    | with_reducible refine advanceLens_keeps ?_
    | with_reducible refine writeRecs_keeps ?_
    | with_reducible refine drainDue_keeps ?_
    | with_reducible refine landed_keeps ?_
    | with_reducible refine deadlines_keeps ?_
    | with_reducible refine freeDue_keeps ?_
    | with_reducible refine dropFreed_keeps ?_
    | with_reducible refine commitGrams_keeps ?_
    | with_reducible refine commitPrefix_keeps ?_
    | with_reducible refine commitPages_keeps ?_
    | with_reducible refine bdyCut_keeps ?_
    | with_reducible refine commitCal_keeps ?_
    | with_reducible refine heldReg_keeps ?_
    | with_reducible refine seatRegs_keeps ?_
    | with_reducible refine publish_keeps ?_
    | with_reducible refine commitNotices_keeps ?_
    | with_reducible refine wr_keeps ?_ ?_
    | with_reducible refine consumeSlots_keeps ?_
    | with_reducible refine commitFace_keeps ?_
    | with_reducible refine sendReport_keeps ?_
    | with_reducible refine modHand_keeps ?_
    | with_reducible refine Keeps.loop ?_ ?_
    | with_reducible refine Keeps.ite ?_ ?_
    | fail_if_no_progress with_reducible refine Keeps.mk ?_ rfl rfl rfl

theorem resetTricks_keeps {a : State} {z0 : State} (h : Keeps a z0) :
    Keeps a (State.resetTricks z0) := by
  unfold State.resetTricks
  repeat' first
    | with_reducible assumption
    | intro _
    | exact rfl
    | with_reducible refine wr_keeps ?_ ?_
    | with_reducible refine Keeps.loop ?_ ?_
    | with_reducible refine Keeps.ite ?_ ?_
    | fail_if_no_progress with_reducible refine Keeps.mk ?_ rfl rfl rfl

theorem withdrawOwn_keeps {a : State} {z0 : State} (h : Keeps a z0) :
    Keeps a (State.withdrawOwn z0) := by
  unfold State.withdrawOwn
  repeat' first
    | with_reducible assumption
    | with_reducible refine withdrawPlays_keeps ?_
    | with_reducible refine Keeps.ite ?_ ?_

theorem misdealFace_keeps {a : State} {z0 : State} {z1 : Nat} {z2 : Bool} (h : Keeps a z0) :
    Keeps a (State.misdealFace z0 z1 z2) := by
  unfold State.misdealFace
  repeat' first
    | with_reducible assumption
    | exact rfl
    | with_reducible refine wrB_keeps ?_ ?_
    | with_reducible refine wr_keeps ?_ ?_
    | with_reducible refine modFace_keeps ?_
    | with_reducible refine bump_keeps ?_ ?_
    | with_reducible refine Keeps.ite ?_ ?_

theorem misdealHand_keeps {a : State} {z0 : State} (h : Keeps a z0) :
    Keeps a (State.misdealHand z0) := by
  unfold State.misdealHand
  repeat' first
    | with_reducible assumption
    | intro _
    | exact rfl
    | with_reducible refine bump_keeps ?_ ?_
    | with_reducible refine misdealFace_keeps ?_
    | with_reducible refine withdrawOwn_keeps ?_
    | with_reducible refine dealerMisdeal_keeps ?_
    | with_reducible refine misdealPages_keeps ?_
    | with_reducible refine resetTricks_keeps ?_
    | with_reducible refine faceFault_keeps ?_
    | with_reducible refine sendAborts_keeps ?_
    | with_reducible refine sendReport_keeps ?_
    | with_reducible refine modHand_keeps ?_
    | with_reducible refine Keeps.foldl ?_ ?_
    | with_reducible refine Keeps.loop ?_ ?_
    | with_reducible refine Keeps.ite ?_ ?_

end Sys2Proof.Machine
end

