-- ==== Sys2Proof/Laws/KeepExec.lean ====
section
/-! SUPPORT. What the operations of Machine/Scalar.lean, Machine/Ops.lean, Machine/Operands.lean, Machine/Control.lean, Machine/Sync.lean, Machine/Hbm.lean, Machine/Queue.lean, Machine/Movement.lean, Machine/Engines.lean, Machine/VectorRun.lean, Machine/Windows.lean, Machine/Finish.lean, Machine/Rings.lean, Machine/Serving.lean, Machine/Dealer.lean, Machine/Links.lean, Machine/Domain.lean, Machine/Runs.lean, Machine/MoveRun.lean, Machine/ServingRun.lean, Machine/ScoreRun.lean, Machine/Blocks.lean, Machine/Records.lean, Machine/Calibration.lean, Machine/Faults.lean, Machine/ArrayRun.lean, Machine/FineRun.lean, Machine/EngineOps.lean, Machine/Mesh.lean, Machine/Images.lean, Machine/Programs.lean, Machine/Power.lean, Machine/Keys.lean, Machine/Mgmt.lean, Machine/Resets.lean, Machine/Hand.lean keep: one lemma per operation. -/
namespace Sys2Proof.Machine

theorem ok_keeps {a : State} {z0 : State} {u : State} (e : ok z0 = .next u) (h : Keeps a z0) :
    Keeps a u := by
  unfold ok at e
  injection e with e; subst e
  repeat' with_reducible assumption

theorem execAdd_keeps {a : State} {z0 : Nat} {z1 : IWord} {z2 : State} {u : State} (e : execAdd z0 z1 z2 = .next u) (h : Keeps a z2) :
    Keeps a u := by
  unfold execAdd at e
  injection e with e; subst e
  repeat' first
    | with_reducible assumption
    | with_reducible refine issueRD_keeps ?_

theorem execAddi_keeps {a : State} {z0 : Nat} {z1 : IWord} {z2 : State} {u : State} (e : execAddi z0 z1 z2 = .next u) (h : Keeps a z2) :
    Keeps a u := by
  unfold execAddi at e
  injection e with e; subst e
  repeat' first
    | with_reducible assumption
    | with_reducible refine issueRD_keeps ?_

theorem execSub_keeps {a : State} {z0 : Nat} {z1 : IWord} {z2 : State} {u : State} (e : execSub z0 z1 z2 = .next u) (h : Keeps a z2) :
    Keeps a u := by
  unfold execSub at e
  injection e with e; subst e
  repeat' first
    | with_reducible assumption
    | with_reducible refine issueRD_keeps ?_

theorem execSubi_keeps {a : State} {z0 : Nat} {z1 : IWord} {z2 : State} {u : State} (e : execSubi z0 z1 z2 = .next u) (h : Keeps a z2) :
    Keeps a u := by
  unfold execSubi at e
  injection e with e; subst e
  repeat' first
    | with_reducible assumption
    | with_reducible refine issueRD_keeps ?_

theorem execAnd_keeps {a : State} {z0 : Nat} {z1 : IWord} {z2 : State} {u : State} (e : execAnd z0 z1 z2 = .next u) (h : Keeps a z2) :
    Keeps a u := by
  unfold execAnd at e
  injection e with e; subst e
  repeat' first
    | with_reducible assumption
    | with_reducible refine issueRD_keeps ?_

theorem execAndi_keeps {a : State} {z0 : Nat} {z1 : IWord} {z2 : State} {u : State} (e : execAndi z0 z1 z2 = .next u) (h : Keeps a z2) :
    Keeps a u := by
  unfold execAndi at e
  injection e with e; subst e
  repeat' first
    | with_reducible assumption
    | with_reducible refine issueRD_keeps ?_

theorem execOr_keeps {a : State} {z0 : Nat} {z1 : IWord} {z2 : State} {u : State} (e : execOr z0 z1 z2 = .next u) (h : Keeps a z2) :
    Keeps a u := by
  unfold execOr at e
  injection e with e; subst e
  repeat' first
    | with_reducible assumption
    | with_reducible refine issueRD_keeps ?_

theorem execOri_keeps {a : State} {z0 : Nat} {z1 : IWord} {z2 : State} {u : State} (e : execOri z0 z1 z2 = .next u) (h : Keeps a z2) :
    Keeps a u := by
  unfold execOri at e
  injection e with e; subst e
  repeat' first
    | with_reducible assumption
    | with_reducible refine issueRD_keeps ?_

theorem execXor_keeps {a : State} {z0 : Nat} {z1 : IWord} {z2 : State} {u : State} (e : execXor z0 z1 z2 = .next u) (h : Keeps a z2) :
    Keeps a u := by
  unfold execXor at e
  injection e with e; subst e
  repeat' first
    | with_reducible assumption
    | with_reducible refine issueRD_keeps ?_

theorem execXori_keeps {a : State} {z0 : Nat} {z1 : IWord} {z2 : State} {u : State} (e : execXori z0 z1 z2 = .next u) (h : Keeps a z2) :
    Keeps a u := by
  unfold execXori at e
  injection e with e; subst e
  repeat' first
    | with_reducible assumption
    | with_reducible refine issueRD_keeps ?_

theorem execShl_keeps {a : State} {z0 : Nat} {z1 : IWord} {z2 : State} {u : State} (e : execShl z0 z1 z2 = .next u) (h : Keeps a z2) :
    Keeps a u := by
  unfold execShl at e
  injection e with e; subst e
  repeat' first
    | with_reducible assumption
    | with_reducible refine issueRD_keeps ?_

theorem execShli_keeps {a : State} {z0 : Nat} {z1 : IWord} {z2 : State} {u : State} (e : execShli z0 z1 z2 = .next u) (h : Keeps a z2) :
    Keeps a u := by
  unfold execShli at e
  injection e with e; subst e
  repeat' first
    | with_reducible assumption
    | with_reducible refine issueRD_keeps ?_

theorem execShr_keeps {a : State} {z0 : Nat} {z1 : IWord} {z2 : State} {u : State} (e : execShr z0 z1 z2 = .next u) (h : Keeps a z2) :
    Keeps a u := by
  unfold execShr at e
  injection e with e; subst e
  repeat' first
    | with_reducible assumption
    | with_reducible refine issueRD_keeps ?_

theorem execShri_keeps {a : State} {z0 : Nat} {z1 : IWord} {z2 : State} {u : State} (e : execShri z0 z1 z2 = .next u) (h : Keeps a z2) :
    Keeps a u := by
  unfold execShri at e
  injection e with e; subst e
  repeat' first
    | with_reducible assumption
    | with_reducible refine issueRD_keeps ?_

theorem execSra_keeps {a : State} {z0 : Nat} {z1 : IWord} {z2 : State} {u : State} (e : execSra z0 z1 z2 = .next u) (h : Keeps a z2) :
    Keeps a u := by
  unfold execSra at e
  injection e with e; subst e
  repeat' first
    | with_reducible assumption
    | with_reducible refine issueRD_keeps ?_

theorem execSrai_keeps {a : State} {z0 : Nat} {z1 : IWord} {z2 : State} {u : State} (e : execSrai z0 z1 z2 = .next u) (h : Keeps a z2) :
    Keeps a u := by
  unfold execSrai at e
  injection e with e; subst e
  repeat' first
    | with_reducible assumption
    | with_reducible refine issueRD_keeps ?_

theorem execMul_keeps {a : State} {z0 : Nat} {z1 : IWord} {z2 : State} {u : State} (e : execMul z0 z1 z2 = .next u) (h : Keeps a z2) :
    Keeps a u := by
  unfold execMul at e
  injection e with e; subst e
  repeat' first
    | with_reducible assumption
    | with_reducible refine issueRD_keeps ?_

theorem execMuli_keeps {a : State} {z0 : Nat} {z1 : IWord} {z2 : State} {u : State} (e : execMuli z0 z1 z2 = .next u) (h : Keeps a z2) :
    Keeps a u := by
  unfold execMuli at e
  injection e with e; subst e
  repeat' first
    | with_reducible assumption
    | with_reducible refine issueRD_keeps ?_

theorem execMulhu_keeps {a : State} {z0 : Nat} {z1 : IWord} {z2 : State} {u : State} (e : execMulhu z0 z1 z2 = .next u) (h : Keeps a z2) :
    Keeps a u := by
  unfold execMulhu at e
  injection e with e; subst e
  repeat' first
    | with_reducible assumption
    | with_reducible refine issueRD_keeps ?_

theorem execMin_keeps {a : State} {z0 : Nat} {z1 : IWord} {z2 : State} {u : State} (e : execMin z0 z1 z2 = .next u) (h : Keeps a z2) :
    Keeps a u := by
  unfold execMin at e
  injection e with e; subst e
  repeat' first
    | with_reducible assumption
    | with_reducible refine issueRD_keeps ?_

theorem execMini_keeps {a : State} {z0 : Nat} {z1 : IWord} {z2 : State} {u : State} (e : execMini z0 z1 z2 = .next u) (h : Keeps a z2) :
    Keeps a u := by
  unfold execMini at e
  injection e with e; subst e
  repeat' first
    | with_reducible assumption
    | with_reducible refine issueRD_keeps ?_

theorem execMax_keeps {a : State} {z0 : Nat} {z1 : IWord} {z2 : State} {u : State} (e : execMax z0 z1 z2 = .next u) (h : Keeps a z2) :
    Keeps a u := by
  unfold execMax at e
  injection e with e; subst e
  repeat' first
    | with_reducible assumption
    | with_reducible refine issueRD_keeps ?_

theorem execMaxi_keeps {a : State} {z0 : Nat} {z1 : IWord} {z2 : State} {u : State} (e : execMaxi z0 z1 z2 = .next u) (h : Keeps a z2) :
    Keeps a u := by
  unfold execMaxi at e
  injection e with e; subst e
  repeat' first
    | with_reducible assumption
    | with_reducible refine issueRD_keeps ?_

theorem execMinu_keeps {a : State} {z0 : Nat} {z1 : IWord} {z2 : State} {u : State} (e : execMinu z0 z1 z2 = .next u) (h : Keeps a z2) :
    Keeps a u := by
  unfold execMinu at e
  injection e with e; subst e
  repeat' first
    | with_reducible assumption
    | with_reducible refine issueRD_keeps ?_

theorem execMinui_keeps {a : State} {z0 : Nat} {z1 : IWord} {z2 : State} {u : State} (e : execMinui z0 z1 z2 = .next u) (h : Keeps a z2) :
    Keeps a u := by
  unfold execMinui at e
  injection e with e; subst e
  repeat' first
    | with_reducible assumption
    | with_reducible refine issueRD_keeps ?_

theorem execMaxu_keeps {a : State} {z0 : Nat} {z1 : IWord} {z2 : State} {u : State} (e : execMaxu z0 z1 z2 = .next u) (h : Keeps a z2) :
    Keeps a u := by
  unfold execMaxu at e
  injection e with e; subst e
  repeat' first
    | with_reducible assumption
    | with_reducible refine issueRD_keeps ?_

theorem execMaxui_keeps {a : State} {z0 : Nat} {z1 : IWord} {z2 : State} {u : State} (e : execMaxui z0 z1 z2 = .next u) (h : Keeps a z2) :
    Keeps a u := by
  unfold execMaxui at e
  injection e with e; subst e
  repeat' first
    | with_reducible assumption
    | with_reducible refine issueRD_keeps ?_

theorem execCmpeq_keeps {a : State} {z0 : Nat} {z1 : IWord} {z2 : State} {u : State} (e : execCmpeq z0 z1 z2 = .next u) (h : Keeps a z2) :
    Keeps a u := by
  unfold execCmpeq at e
  injection e with e; subst e
  repeat' first
    | with_reducible assumption
    | with_reducible refine issuePD_keeps ?_

theorem execCmpeqi_keeps {a : State} {z0 : Nat} {z1 : IWord} {z2 : State} {u : State} (e : execCmpeqi z0 z1 z2 = .next u) (h : Keeps a z2) :
    Keeps a u := by
  unfold execCmpeqi at e
  injection e with e; subst e
  repeat' first
    | with_reducible assumption
    | with_reducible refine issuePD_keeps ?_

theorem execCmpne_keeps {a : State} {z0 : Nat} {z1 : IWord} {z2 : State} {u : State} (e : execCmpne z0 z1 z2 = .next u) (h : Keeps a z2) :
    Keeps a u := by
  unfold execCmpne at e
  injection e with e; subst e
  repeat' first
    | with_reducible assumption
    | with_reducible refine issuePD_keeps ?_

theorem execCmpnei_keeps {a : State} {z0 : Nat} {z1 : IWord} {z2 : State} {u : State} (e : execCmpnei z0 z1 z2 = .next u) (h : Keeps a z2) :
    Keeps a u := by
  unfold execCmpnei at e
  injection e with e; subst e
  repeat' first
    | with_reducible assumption
    | with_reducible refine issuePD_keeps ?_

theorem execCmplt_keeps {a : State} {z0 : Nat} {z1 : IWord} {z2 : State} {u : State} (e : execCmplt z0 z1 z2 = .next u) (h : Keeps a z2) :
    Keeps a u := by
  unfold execCmplt at e
  injection e with e; subst e
  repeat' first
    | with_reducible assumption
    | with_reducible refine issuePD_keeps ?_

theorem execCmplti_keeps {a : State} {z0 : Nat} {z1 : IWord} {z2 : State} {u : State} (e : execCmplti z0 z1 z2 = .next u) (h : Keeps a z2) :
    Keeps a u := by
  unfold execCmplti at e
  injection e with e; subst e
  repeat' first
    | with_reducible assumption
    | with_reducible refine issuePD_keeps ?_

theorem execCmpltu_keeps {a : State} {z0 : Nat} {z1 : IWord} {z2 : State} {u : State} (e : execCmpltu z0 z1 z2 = .next u) (h : Keeps a z2) :
    Keeps a u := by
  unfold execCmpltu at e
  injection e with e; subst e
  repeat' first
    | with_reducible assumption
    | with_reducible refine issuePD_keeps ?_

theorem execCmpltui_keeps {a : State} {z0 : Nat} {z1 : IWord} {z2 : State} {u : State} (e : execCmpltui z0 z1 z2 = .next u) (h : Keeps a z2) :
    Keeps a u := by
  unfold execCmpltui at e
  injection e with e; subst e
  repeat' first
    | with_reducible assumption
    | with_reducible refine issuePD_keeps ?_

theorem execCmple_keeps {a : State} {z0 : Nat} {z1 : IWord} {z2 : State} {u : State} (e : execCmple z0 z1 z2 = .next u) (h : Keeps a z2) :
    Keeps a u := by
  unfold execCmple at e
  injection e with e; subst e
  repeat' first
    | with_reducible assumption
    | with_reducible refine issuePD_keeps ?_

theorem execCmplei_keeps {a : State} {z0 : Nat} {z1 : IWord} {z2 : State} {u : State} (e : execCmplei z0 z1 z2 = .next u) (h : Keeps a z2) :
    Keeps a u := by
  unfold execCmplei at e
  injection e with e; subst e
  repeat' first
    | with_reducible assumption
    | with_reducible refine issuePD_keeps ?_

theorem execCmpleu_keeps {a : State} {z0 : Nat} {z1 : IWord} {z2 : State} {u : State} (e : execCmpleu z0 z1 z2 = .next u) (h : Keeps a z2) :
    Keeps a u := by
  unfold execCmpleu at e
  injection e with e; subst e
  repeat' first
    | with_reducible assumption
    | with_reducible refine issuePD_keeps ?_

theorem execCmpleui_keeps {a : State} {z0 : Nat} {z1 : IWord} {z2 : State} {u : State} (e : execCmpleui z0 z1 z2 = .next u) (h : Keeps a z2) :
    Keeps a u := by
  unfold execCmpleui at e
  injection e with e; subst e
  repeat' first
    | with_reducible assumption
    | with_reducible refine issuePD_keeps ?_

theorem execPand_keeps {a : State} {z0 : Nat} {z1 : IWord} {z2 : State} {u : State} (e : execPand z0 z1 z2 = .next u) (h : Keeps a z2) :
    Keeps a u := by
  unfold execPand at e
  injection e with e; subst e
  repeat' first
    | with_reducible assumption
    | with_reducible refine issuePD_keeps ?_

theorem execPor_keeps {a : State} {z0 : Nat} {z1 : IWord} {z2 : State} {u : State} (e : execPor z0 z1 z2 = .next u) (h : Keeps a z2) :
    Keeps a u := by
  unfold execPor at e
  injection e with e; subst e
  repeat' first
    | with_reducible assumption
    | with_reducible refine issuePD_keeps ?_

theorem execPxor_keeps {a : State} {z0 : Nat} {z1 : IWord} {z2 : State} {u : State} (e : execPxor z0 z1 z2 = .next u) (h : Keeps a z2) :
    Keeps a u := by
  unfold execPxor at e
  injection e with e; subst e
  repeat' first
    | with_reducible assumption
    | with_reducible refine issuePD_keeps ?_

theorem execPnot_keeps {a : State} {z0 : Nat} {z1 : IWord} {z2 : State} {u : State} (e : execPnot z0 z1 z2 = .next u) (h : Keeps a z2) :
    Keeps a u := by
  unfold execPnot at e
  injection e with e; subst e
  repeat' first
    | with_reducible assumption
    | with_reducible refine issuePD_keeps ?_

theorem execTbit_keeps {a : State} {z0 : Nat} {z1 : IWord} {z2 : State} {u : State} (e : execTbit z0 z1 z2 = .next u) (h : Keeps a z2) :
    Keeps a u := by
  unfold execTbit at e
  injection e with e; subst e
  repeat' first
    | with_reducible assumption
    | with_reducible refine issuePD_keeps ?_

theorem execLi_keeps {a : State} {z0 : Nat} {z1 : IWord} {z2 : State} {u : State} (e : execLi z0 z1 z2 = .next u) (h : Keeps a z2) :
    Keeps a u := by
  unfold execLi at e
  injection e with e; subst e
  repeat' first
    | with_reducible assumption
    | with_reducible refine issueRD_keeps ?_

theorem execRds_keeps {a : State} {z0 : Nat} {z1 : IWord} {z2 : State} {u : State} (e : execRds z0 z1 z2 = .next u) (h : Keeps a z2) :
    Keeps a u := by
  unfold execRds at e
  injection e with e; subst e
  repeat' first
    | with_reducible assumption
    | intro _
    | with_reducible refine issue_keeps ?_ ?_
    | with_reducible refine modFace_keeps ?_
    | exact trivial
    | with_reducible refine Done.keeps_next ?_
    | split

theorem loadWord_keeps {a : State} {z0 : Nat} {z1 : IWord} {z2 : Word} {z3 : State} {z4 : Face} (h : Keeps a z3) :
    Done.Keeps a (loadWord z0 z1 z2 z3 z4) := by
  unfold loadWord
  extract_lets d t0 v t1
  have h1 : Keeps a t1 := Keeps.ite (padTouch_keeps (sbNote_keeps h)) (stampWith_keeps (padTouch_keeps (sbNote_keeps h)))
  exact Done.keeps_ite h1 (modFace_keeps h1)
theorem execLd_keeps {a : State} {z0 : Nat} {z1 : IWord} {z2 : State} {u : State} (e : execLd z0 z1 z2 = .next u) (h : Keeps a z2) :
    Keeps a u := by
  unfold execLd at e
  injection e with e; subst e
  refine issue_keeps h (fun t x ht => ?_)
  exact Done.keeps_orElse (fun d e => wordFault_done e) (Done.keeps_orHold (fun u e => sbStall_keeps e ht) (loadWord_keeps ht))

theorem execSt_keeps {a : State} {z0 : Nat} {z1 : IWord} {z2 : State} {u : State} (e : execSt z0 z1 z2 = .next u) (h : Keeps a z2) :
    Keeps a u := by
  unfold execSt at e
  injection e with e; subst e
  refine issue_keeps h (fun t x ht => ?_)
  refine Done.keeps_orElse (fun d e => wordFault_done e) (Done.keeps_orHold (fun u e => sbStall_keeps e ht) ?_)
  exact raceWrite_keeps (injStored_keeps (modFace_keeps (sbNote_keeps ht)))

theorem execNop_keeps {a : State} {z0 : Nat} {z1 : IWord} {z2 : State} {u : State} (e : execNop z0 z1 z2 = .next u) (h : Keeps a z2) :
    Keeps a u := by
  unfold execNop at e
  injection e with e; subst e
  repeat' first
    | with_reducible assumption
    | intro _
    | with_reducible refine issue_keeps ?_ ?_
    | with_reducible refine Done.keeps_next ?_

theorem execBr_keeps {a : State} {z0 : Nat} {z1 : IWord} {z2 : State} {u : State} (e : execBr z0 z1 z2 = .next u) (h : Keeps a z2) :
    Keeps a u := by
  unfold execBr at e
  injection e with e; subst e
  repeat' first
    | with_reducible assumption
    | intro _
    | with_reducible refine issue_keeps ?_ ?_
    | with_reducible refine branchTo_keeps ?_

theorem execJal_keeps {a : State} {z0 : Nat} {z1 : IWord} {z2 : State} {u : State} (e : execJal z0 z1 z2 = .next u) (h : Keeps a z2) :
    Keeps a u := by
  unfold execJal at e
  injection e with e; subst e
  repeat' first
    | with_reducible assumption
    | intro _
    | with_reducible refine issue_keeps ?_ ?_
    | with_reducible refine branchTo_keeps ?_
    | with_reducible refine modFace_keeps ?_

theorem execJr_keeps {a : State} {z0 : Nat} {z1 : IWord} {z2 : State} {u : State} (e : execJr z0 z1 z2 = .next u) (h : Keeps a z2) :
    Keeps a u := by
  unfold execJr at e
  injection e with e; subst e
  repeat' first
    | with_reducible assumption
    | intro _
    | with_reducible refine issue_keeps ?_ ?_
    | with_reducible refine branchTo_keeps ?_

theorem execLset_keeps {a : State} {z0 : Nat} {z1 : IWord} {z2 : State} {u : State} (e : execLset z0 z1 z2 = .next u) (h : Keeps a z2) :
    Keeps a u := by
  unfold execLset at e
  injection e with e; subst e
  repeat' first
    | with_reducible assumption
    | intro _
    | with_reducible refine issue_keeps ?_ ?_
    | with_reducible refine modFace_keeps ?_
    | with_reducible refine Done.keeps_next ?_

theorem execLbr_keeps {a : State} {z0 : Nat} {z1 : IWord} {z2 : State} {u : State} (e : execLbr z0 z1 z2 = .next u) (h : Keeps a z2) :
    Keeps a u := by
  unfold execLbr at e
  injection e with e; subst e
  repeat' first
    | with_reducible assumption
    | intro _
    | with_reducible refine issue_keeps ?_ ?_
    | with_reducible refine modFace_keeps ?_
    | exact trivial
    | with_reducible refine Done.keeps_next ?_
    | with_reducible refine Done.keeps_jump ?_
    | with_reducible refine Done.keeps_ite ?_ ?_

theorem execTwait_keeps {a : State} {z0 : Nat} {z1 : IWord} {z2 : State} {u : State} (e : execTwait z0 z1 z2 = .next u) (h : Keeps a z2) :
    Keeps a u := by
  unfold execTwait at e
  injection e with e; subst e
  repeat' first
    | with_reducible assumption
    | intro _
    | with_reducible refine issue_keeps ?_ ?_
    | with_reducible refine Done.keeps_next ?_
    | with_reducible refine Done.keeps_stall ?_
    | with_reducible refine Done.keeps_ite ?_ ?_

theorem execTwaitExpiry_keeps {a : State} {z0 : Nat} {z1 : State} {u : State} (e : execTwaitExpiry z0 z1 = .next u) (h : Keeps a z1) :
    Keeps a u := by
  unfold execTwaitExpiry at e
  injection e with e; subst e
  repeat' first
    | with_reducible assumption
    | with_reducible refine modFace_keeps ?_
    | fail_if_no_progress with_reducible refine Keeps.mk ?_ rfl rfl rfl
    | split

theorem execEndProg_keeps {a : State} {z0 : Nat} {z1 : IWord} {z2 : State} {u : State} (e : execEndProg z0 z1 z2 = .next u) (h : Keeps a z2) :
    Keeps a u := by
  unfold execEndProg at e
  injection e with e; subst e
  repeat' first
    | with_reducible assumption
    | intro _
    | with_reducible refine issue_keeps ?_ ?_
    | with_reducible refine Done.keeps_stall ?_

theorem execRte_keeps {a : State} {z0 : Nat} {z1 : IWord} {z2 : State} {u : State} (e : execRte z0 z1 z2 = .next u) (h : Keeps a z2) :
    Keeps a u := by
  unfold execRte at e
  injection e with e; subst e
  repeat' first
    | with_reducible assumption
    | intro _
    | with_reducible refine issue_keeps ?_ ?_
    | with_reducible refine rteResume_keeps ?_
    | exact trivial
    | with_reducible refine Done.keeps_stall ?_
    | with_reducible refine Done.keeps_whole ?_
    | split

theorem execRset_keeps {a : State} {z0 : Nat} {z1 : IWord} {z2 : State} {u : State} (e : execRset z0 z1 z2 = .next u) (h : Keeps a z2) :
    Keeps a u := by
  unfold execRset at e
  injection e with e; subst e
  repeat' first
    | with_reducible assumption
    | intro _
    | with_reducible refine issue_keeps ?_ ?_
    | with_reducible refine setRange_keeps ?_

theorem execRseti_keeps {a : State} {z0 : Nat} {z1 : IWord} {z2 : State} {u : State} (e : execRseti z0 z1 z2 = .next u) (h : Keeps a z2) :
    Keeps a u := by
  unfold execRseti at e
  injection e with e; subst e
  repeat' first
    | with_reducible assumption
    | intro _
    | with_reducible refine issue_keeps ?_ ?_
    | with_reducible refine setRange_keeps ?_

theorem execRslice_keeps {a : State} {z0 : Nat} {z1 : IWord} {z2 : State} {u : State} (e : execRslice z0 z1 z2 = .next u) (h : Keeps a z2) :
    Keeps a u := by
  unfold execRslice at e
  injection e with e; subst e
  repeat' first
    | with_reducible assumption
    | intro _
    | with_reducible refine issue_keeps ?_ ?_
    | with_reducible refine setRange_keeps ?_

theorem execRrd_keeps {a : State} {z0 : Nat} {z1 : IWord} {z2 : State} {u : State} (e : execRrd z0 z1 z2 = .next u) (h : Keeps a z2) :
    Keeps a u := by
  unfold execRrd at e
  injection e with e; subst e
  repeat' first
    | with_reducible assumption
    | with_reducible refine issueRD_keeps ?_

theorem execFence_keeps {a : State} {z0 : Nat} {z1 : IWord} {z2 : State} {u : State} (e : execFence z0 z1 z2 = .next u) (h : Keeps a z2) :
    Keeps a u := by
  unfold execFence at e
  injection e with e; subst e
  repeat' first
    | with_reducible assumption
    | intro _
    | with_reducible refine issue_keeps ?_ ?_
    | with_reducible refine Done.keeps_stall ?_

theorem execTrap_keeps {a : State} {z0 : Nat} {z1 : IWord} {z2 : State} {u : State} (e : execTrap z0 z1 z2 = .next u) (h : Keeps a z2) :
    Keeps a u := by
  unfold execTrap at e
  injection e with e; subst e
  repeat' first
    | with_reducible assumption
    | intro _
    | with_reducible refine issue_keeps ?_ ?_
    | with_reducible refine modFace_keeps ?_
    | with_reducible refine trapStat_keeps ?_
    | exact trivial
    | with_reducible refine Done.keeps_next ?_
    | with_reducible refine Done.keeps_whole ?_
    | with_reducible refine Done.keeps_ite ?_ ?_
    | dsimp only
    | split

theorem execSig_keeps {a : State} {z0 : Nat} {z1 : IWord} {z2 : State} {u : State} (e : execSig z0 z1 z2 = .next u) (h : Keeps a z2) :
    Keeps a u := by
  unfold execSig at e
  injection e with e; subst e
  repeat' first
    | with_reducible assumption
    | intro _
    | with_reducible refine issue_keeps ?_ ?_
    | with_reducible refine ownChange_keeps ?_
    | exact trivial
    | with_reducible refine Done.keeps_ite ?_ ?_

theorem execDebit_keeps {a : State} {z0 : Nat} {z1 : IWord} {z2 : State} {u : State} (e : execDebit z0 z1 z2 = .next u) (h : Keeps a z2) :
    Keeps a u := by
  unfold execDebit at e
  injection e with e; subst e
  repeat' first
    | with_reducible assumption
    | intro _
    | with_reducible refine issue_keeps ?_ ?_
    | with_reducible refine ownChange_keeps ?_
    | exact trivial
    | with_reducible refine Done.keeps_ite ?_ ?_

theorem execWait_keeps {a : State} {z0 : Nat} {z1 : IWord} {z2 : State} {u : State} (e : execWait z0 z1 z2 = .next u) (h : Keeps a z2) :
    Keeps a u := by
  unfold execWait at e
  injection e with e; subst e
  repeat' first
    | with_reducible assumption
    | intro _
    | with_reducible refine issue_keeps ?_ ?_
    | exact trivial
    | with_reducible refine Done.keeps_stall ?_
    | with_reducible refine Done.keeps_ite ?_ ?_

theorem execSigf_keeps {a : State} {z0 : Nat} {z1 : IWord} {z2 : State} {u : State} (e : execSigf z0 z1 z2 = .next u) (h : Keeps a z2) :
    Keeps a u := by
  unfold execSigf at e
  injection e with e; subst e
  repeat' first
    | with_reducible assumption
    | intro _
    | with_reducible refine issue_keeps ?_ ?_
    | exact trivial
    | with_reducible refine Done.keeps_next ?_
    | with_reducible refine Done.keeps_ite ?_ ?_
    | fail_if_no_progress with_reducible refine Keeps.mk ?_ rfl rfl rfl

theorem execDoorbell_keeps {a : State} {z0 : Nat} {z1 : IWord} {z2 : State} {u : State} (e : execDoorbell z0 z1 z2 = .next u) (h : Keeps a z2) :
    Keeps a u := by
  unfold execDoorbell at e
  injection e with e; subst e
  repeat' first
    | with_reducible assumption
    | intro _
    | with_reducible refine issue_keeps ?_ ?_
    | with_reducible refine modFace_keeps ?_
    | exact trivial
    | with_reducible refine Done.keeps_next ?_
    | with_reducible refine Done.keeps_ite ?_ ?_

theorem execBal_keeps {a : State} {z0 : Nat} {z1 : IWord} {z2 : State} {u : State} (e : execBal z0 z1 z2 = .next u) (h : Keeps a z2) :
    Keeps a u := by
  unfold execBal at e
  injection e with e; subst e
  repeat' first
    | with_reducible assumption
    | intro _
    | with_reducible refine issue_keeps ?_ ?_
    | with_reducible refine revokeRecord_keeps ?_
    | with_reducible refine Done.keeps_next ?_
    | with_reducible refine Done.keeps_trapIn ?_
    | split

theorem execPlay_keeps {a : State} {z0 : Nat} {z1 : IWord} {z2 : State} {u : State} (e : execPlay z0 z1 z2 = .next u) (h : Keeps a z2) :
    Keeps a u := by
  unfold execPlay at e
  injection e with e; subst e
  repeat' first
    | with_reducible assumption
    | intro _
    | with_reducible refine issue_keeps ?_ ?_
    | with_reducible refine trickRevoke_keeps ?_
    | with_reducible refine modFace_keeps ?_
    | with_reducible refine managerRevoke_keeps ?_
    | with_reducible refine dtrickPlay_keeps ?_
    | with_reducible refine sendCtl_keeps ?_
    | with_reducible refine trickPlay_keeps ?_
    | exact trivial
    | with_reducible refine Done.keeps_next ?_
    | with_reducible refine Done.keeps_ite ?_ ?_
    | fail_if_no_progress with_reducible refine Keeps.mk ?_ rfl rfl rfl

theorem execWaitt_keeps {a : State} {z0 : Nat} {z1 : IWord} {z2 : State} {u : State} (e : execWaitt z0 z1 z2 = .next u) (h : Keeps a z2) :
    Keeps a u := by
  unfold execWaitt at e
  injection e with e; subst e
  repeat' first
    | with_reducible assumption
    | intro _
    | with_reducible refine issue_keeps ?_ ?_
    | with_reducible refine trickRevoke_keeps ?_
    | exact trivial
    | with_reducible refine Done.keeps_stall ?_
    | with_reducible refine Done.keeps_ite ?_ ?_

theorem execDomainTrickPlay_keeps {a : State} {z0 : Nat} {z1 : Nat} {z2 : Nat} {z3 : State} {u : State} (e : execDomainTrickPlay z0 z1 z2 z3 = .next u) (h : Keeps a z3) :
    Keeps a u := by
  unfold execDomainTrickPlay at e
  injection e with e; subst e
  repeat' first
    | with_reducible assumption
    | with_reducible refine dtrickPlay_keeps ?_
    | with_reducible refine Keeps.ite ?_ ?_

theorem execTrickCfg_keeps {a : State} {z0 : Nat} {z1 : Nat} {z2 : Nat} {z3 : State} {u : State} (e : execTrickCfg z0 z1 z2 z3 = .next u) (h : Keeps a z3) :
    Keeps a u := by
  unfold execTrickCfg at e
  injection e with e; subst e
  repeat' first
    | with_reducible assumption
    | intro _
    | with_reducible refine orNow_keeps ?_ ?_
    | with_reducible refine bdyTricks_keeps ?_
    | with_reducible refine Keeps.ite ?_ ?_
    | fail_if_no_progress with_reducible refine Keeps.mk ?_ rfl rfl rfl

theorem execDtrickCfg_keeps {a : State} {z0 : Nat} {z1 : Nat} {z2 : State} {u : State} (e : execDtrickCfg z0 z1 z2 = .next u) (h : Keeps a z2) :
    Keeps a u := by
  unfold execDtrickCfg at e
  injection e with e; subst e
  repeat' first
    | with_reducible assumption
    | intro _
    | with_reducible refine orNow_keeps ?_ ?_
    | with_reducible refine bdyTricks_keeps ?_
    | with_reducible refine Keeps.ite ?_ ?_
    | fail_if_no_progress with_reducible refine Keeps.mk ?_ rfl rfl rfl

theorem execCallRingMessage_keeps {a : State} {z0 : Option Nat} {z1 : RingMsg} {z2 : List (Nat × Nat)} {z3 : List Nat} {z4 : Option Nat} {z5 : State} {u : State} (e : execCallRingMessage z0 z1 z2 z3 z4 z5 = .next u) (h : Keeps a z5) :
    Keeps a u := by
  unfold execCallRingMessage at e
  injection e with e; subst e
  repeat' first
    | with_reducible assumption
    | intro _
    | exact rfl
    | with_reducible refine wr_keeps ?_ ?_
    | with_reducible refine ringChecks_keeps ?_
    | with_reducible refine ringBad_keeps ?_
    | with_reducible refine bump_keeps ?_ ?_
    | with_reducible refine ringApply_keeps ?_
    | with_reducible refine Keeps.foldl ?_ ?_
    | with_reducible refine Keeps.ite ?_ ?_
    | fail_if_no_progress with_reducible refine Keeps.mk ?_ rfl rfl rfl
    | dsimp only
    | split

theorem execSynCtrSig_keeps {a : State} {z0 : Nat} {z1 : Nat} {z2 : Bool} {z3 : Nat} {z4 : Nat} {z5 : State} {u : State} (e : execSynCtrSig z0 z1 z2 z3 z4 z5 = .next u) (h : Keeps a z5) :
    Keeps a u := by
  unfold execSynCtrSig at e
  injection e with e; subst e
  repeat' first
    | with_reducible assumption
    | with_reducible refine hostSignal_keeps ?_
    | with_reducible refine modFace_keeps ?_
    | with_reducible refine Keeps.ite ?_ ?_

theorem execMovl_keeps {a : State} {z0 : Nat} {z1 : IWord} {z2 : State} {u : State} (e : execMovl z0 z1 z2 = .next u) (h : Keeps a z2) :
    Keeps a u := by
  unfold execMovl at e
  injection e with e; subst e
  repeat' first
    | with_reducible assumption
    | intro _
    | with_reducible refine issue_keeps ?_ ?_
    | with_reducible refine enqueue_keeps ?_
    | with_reducible refine Done.keeps_checked ?_

theorem execMovf_keeps {a : State} {z0 : Nat} {z1 : IWord} {z2 : State} {u : State} (e : execMovf z0 z1 z2 = .next u) (h : Keeps a z2) :
    Keeps a u := by
  unfold execMovf at e
  injection e with e; subst e
  repeat' first
    | with_reducible assumption
    | intro _
    | with_reducible refine issue_keeps ?_ ?_
    | with_reducible refine enqueue_keeps ?_
    | with_reducible refine Done.keeps_checked ?_

theorem execHrd_keeps {a : State} {z0 : Nat} {z1 : IWord} {z2 : State} {u : State} (e : execHrd z0 z1 z2 = .next u) (h : Keeps a z2) :
    Keeps a u := by
  unfold execHrd at e
  injection e with e; subst e
  repeat' first
    | with_reducible assumption
    | intro _
    | with_reducible refine issue_keeps ?_ ?_
    | with_reducible refine enqueue_keeps ?_
    | with_reducible refine Done.keeps_checked ?_

theorem execHwr_keeps {a : State} {z0 : Nat} {z1 : IWord} {z2 : State} {u : State} (e : execHwr z0 z1 z2 = .next u) (h : Keeps a z2) :
    Keeps a u := by
  unfold execHwr at e
  injection e with e; subst e
  repeat' first
    | with_reducible assumption
    | intro _
    | with_reducible refine issue_keeps ?_ ?_
    | with_reducible refine enqueue_keeps ?_
    | with_reducible refine Done.keeps_checked ?_

theorem execHgather_keeps {a : State} {z0 : Nat} {z1 : IWord} {z2 : State} {u : State} (e : execHgather z0 z1 z2 = .next u) (h : Keeps a z2) :
    Keeps a u := by
  unfold execHgather at e
  injection e with e; subst e
  repeat' first
    | with_reducible assumption
    | intro _
    | with_reducible refine issue_keeps ?_ ?_
    | with_reducible refine enqueue_keeps ?_
    | with_reducible refine Done.keeps_checked ?_

theorem execStkout_keeps {a : State} {z0 : Nat} {z1 : IWord} {z2 : State} {u : State} (e : execStkout z0 z1 z2 = .next u) (h : Keeps a z2) :
    Keeps a u := by
  unfold execStkout at e
  injection e with e; subst e
  repeat' first
    | with_reducible assumption
    | with_reducible refine stockIssue_keeps ?_

theorem execStkin_keeps {a : State} {z0 : Nat} {z1 : IWord} {z2 : State} {u : State} (e : execStkin z0 z1 z2 = .next u) (h : Keeps a z2) :
    Keeps a u := by
  unfold execStkin at e
  injection e with e; subst e
  repeat' first
    | with_reducible assumption
    | with_reducible refine stockIssue_keeps ?_

theorem execSend_keeps {a : State} {z0 : Nat} {z1 : IWord} {z2 : State} {u : State} (e : execSend z0 z1 z2 = .next u) (h : Keeps a z2) :
    Keeps a u := by
  unfold execSend at e
  injection e with e; subst e
  repeat' first
    | with_reducible assumption
    | intro _
    | with_reducible refine issue_keeps ?_ ?_
    | with_reducible refine enqueue_keeps ?_
    | with_reducible refine Done.keeps_checked ?_

theorem execSigr_keeps {a : State} {z0 : Nat} {z1 : IWord} {z2 : State} {u : State} (e : execSigr z0 z1 z2 = .next u) (h : Keeps a z2) :
    Keeps a u := by
  unfold execSigr at e
  injection e with e; subst e
  repeat' first
    | with_reducible assumption
    | intro _
    | with_reducible refine issue_keeps ?_ ?_
    | with_reducible refine enqueue_keeps ?_
    | with_reducible refine Done.keeps_checked ?_

theorem execSlot_keeps {a : State} {z0 : Nat} {z1 : IWord} {z2 : State} {u : State} (e : execSlot z0 z1 z2 = .next u) (h : Keeps a z2) :
    Keeps a u := by
  unfold execSlot at e
  injection e with e; subst e
  repeat' first
    | with_reducible assumption
    | intro _
    | with_reducible refine issue_keeps ?_ ?_
    | with_reducible refine enqueue_keeps ?_
    | with_reducible refine Done.keeps_checked ?_

theorem execPlist_keeps {a : State} {z0 : Nat} {z1 : IWord} {z2 : State} {u : State} (e : execPlist z0 z1 z2 = .next u) (h : Keeps a z2) :
    Keeps a u := by
  unfold execPlist at e
  injection e with e; subst e
  repeat' first
    | with_reducible assumption
    | intro _
    | with_reducible refine issue_keeps ?_ ?_
    | with_reducible refine enqueue_keeps ?_
    | with_reducible refine Done.keeps_checked ?_

theorem execDeal_keeps {a : State} {z0 : Nat} {z1 : IWord} {z2 : State} {u : State} (e : execDeal z0 z1 z2 = .next u) (h : Keeps a z2) :
    Keeps a u := by
  unfold execDeal at e
  injection e with e; subst e
  repeat' first
    | with_reducible assumption
    | intro _
    | with_reducible refine issue_keeps ?_ ?_
    | with_reducible refine enqueue_keeps ?_
    | with_reducible refine Done.keeps_checked ?_

theorem execMvm_keeps {a : State} {z0 : Nat} {z1 : IWord} {z2 : State} {u : State} (e : execMvm z0 z1 z2 = .next u) (h : Keeps a z2) :
    Keeps a u := by
  unfold execMvm at e
  injection e with e; subst e
  repeat' first
    | with_reducible assumption
    | intro _
    | with_reducible refine issue_keeps ?_ ?_
    | with_reducible refine engineIssue_keeps ?_

theorem execAprog_keeps {a : State} {z0 : Nat} {z1 : IWord} {z2 : State} {u : State} (e : execAprog z0 z1 z2 = .next u) (h : Keeps a z2) :
    Keeps a u := by
  unfold execAprog at e
  injection e with e; subst e
  repeat' first
    | with_reducible assumption
    | intro _
    | with_reducible refine issue_keeps ?_ ?_
    | with_reducible refine engineIssue_keeps ?_

theorem execAread_keeps {a : State} {z0 : Nat} {z1 : IWord} {z2 : State} {u : State} (e : execAread z0 z1 z2 = .next u) (h : Keeps a z2) :
    Keeps a u := by
  unfold execAread at e
  injection e with e; subst e
  repeat' first
    | with_reducible assumption
    | intro _
    | with_reducible refine issue_keeps ?_ ?_
    | with_reducible refine engineIssue_keeps ?_

theorem execFine_keeps {a : State} {z0 : Nat} {z1 : IWord} {z2 : State} {u : State} (e : execFine z0 z1 z2 = .next u) (h : Keeps a z2) :
    Keeps a u := by
  unfold execFine at e
  injection e with e; subst e
  repeat' first
    | with_reducible assumption
    | intro _
    | with_reducible refine issue_keeps ?_ ?_
    | with_reducible refine engineIssue_keeps ?_

theorem execScore_keeps {a : State} {z0 : Nat} {z1 : IWord} {z2 : State} {u : State} (e : execScore z0 z1 z2 = .next u) (h : Keeps a z2) :
    Keeps a u := by
  unfold execScore at e
  injection e with e; subst e
  repeat' first
    | with_reducible assumption
    | intro _
    | with_reducible refine issue_keeps ?_ ?_
    | with_reducible refine engineIssue_keeps ?_

theorem execAppend_keeps {a : State} {z0 : Nat} {z1 : IWord} {z2 : State} {u : State} (e : execAppend z0 z1 z2 = .next u) (h : Keeps a z2) :
    Keeps a u := by
  unfold execAppend at e
  injection e with e; subst e
  repeat' first
    | with_reducible assumption
    | intro _
    | with_reducible refine issue_keeps ?_ ?_
    | with_reducible refine engineIssue_keeps ?_

theorem execVopAdd_keeps {a : State} {z0 : Nat} {z1 : IWord} {z2 : State} {u : State} (e : execVopAdd z0 z1 z2 = .next u) (h : Keeps a z2) :
    Keeps a u := by
  unfold execVopAdd at e
  injection e with e; subst e
  repeat' first
    | with_reducible assumption
    | with_reducible refine vopIssue_keeps ?_

theorem execVopSub_keeps {a : State} {z0 : Nat} {z1 : IWord} {z2 : State} {u : State} (e : execVopSub z0 z1 z2 = .next u) (h : Keeps a z2) :
    Keeps a u := by
  unfold execVopSub at e
  injection e with e; subst e
  repeat' first
    | with_reducible assumption
    | with_reducible refine vopIssue_keeps ?_

theorem execVopMul_keeps {a : State} {z0 : Nat} {z1 : IWord} {z2 : State} {u : State} (e : execVopMul z0 z1 z2 = .next u) (h : Keeps a z2) :
    Keeps a u := by
  unfold execVopMul at e
  injection e with e; subst e
  repeat' first
    | with_reducible assumption
    | with_reducible refine vopIssue_keeps ?_

theorem execScale_keeps {a : State} {z0 : Nat} {z1 : IWord} {z2 : State} {u : State} (e : execScale z0 z1 z2 = .next u) (h : Keeps a z2) :
    Keeps a u := by
  unfold execScale at e
  injection e with e; subst e
  repeat' first
    | with_reducible assumption
    | with_reducible refine vopIssue_keeps ?_

theorem execRmsnorm_keeps {a : State} {z0 : Nat} {z1 : IWord} {z2 : State} {u : State} (e : execRmsnorm z0 z1 z2 = .next u) (h : Keeps a z2) :
    Keeps a u := by
  unfold execRmsnorm at e
  injection e with e; subst e
  repeat' first
    | with_reducible assumption
    | with_reducible refine vopIssue_keeps ?_

theorem execLayernorm_keeps {a : State} {z0 : Nat} {z1 : IWord} {z2 : State} {u : State} (e : execLayernorm z0 z1 z2 = .next u) (h : Keeps a z2) :
    Keeps a u := by
  unfold execLayernorm at e
  injection e with e; subst e
  repeat' first
    | with_reducible assumption
    | with_reducible refine vopIssue_keeps ?_

theorem execSwiglu_keeps {a : State} {z0 : Nat} {z1 : IWord} {z2 : State} {u : State} (e : execSwiglu z0 z1 z2 = .next u) (h : Keeps a z2) :
    Keeps a u := by
  unfold execSwiglu at e
  injection e with e; subst e
  repeat' first
    | with_reducible assumption
    | with_reducible refine vopIssue_keeps ?_

theorem execGeglu_keeps {a : State} {z0 : Nat} {z1 : IWord} {z2 : State} {u : State} (e : execGeglu z0 z1 z2 = .next u) (h : Keeps a z2) :
    Keeps a u := by
  unfold execGeglu at e
  injection e with e; subst e
  repeat' first
    | with_reducible assumption
    | with_reducible refine vopIssue_keeps ?_

theorem execExp_keeps {a : State} {z0 : Nat} {z1 : IWord} {z2 : State} {u : State} (e : execExp z0 z1 z2 = .next u) (h : Keeps a z2) :
    Keeps a u := by
  unfold execExp at e
  injection e with e; subst e
  repeat' first
    | with_reducible assumption
    | with_reducible refine vopIssue_keeps ?_

theorem execRecip_keeps {a : State} {z0 : Nat} {z1 : IWord} {z2 : State} {u : State} (e : execRecip z0 z1 z2 = .next u) (h : Keeps a z2) :
    Keeps a u := by
  unfold execRecip at e
  injection e with e; subst e
  repeat' first
    | with_reducible assumption
    | with_reducible refine vopIssue_keeps ?_

theorem execRsqrt_keeps {a : State} {z0 : Nat} {z1 : IWord} {z2 : State} {u : State} (e : execRsqrt z0 z1 z2 = .next u) (h : Keeps a z2) :
    Keeps a u := by
  unfold execRsqrt at e
  injection e with e; subst e
  repeat' first
    | with_reducible assumption
    | with_reducible refine vopIssue_keeps ?_

theorem execSigmoid_keeps {a : State} {z0 : Nat} {z1 : IWord} {z2 : State} {u : State} (e : execSigmoid z0 z1 z2 = .next u) (h : Keeps a z2) :
    Keeps a u := by
  unfold execSigmoid at e
  injection e with e; subst e
  repeat' first
    | with_reducible assumption
    | with_reducible refine vopIssue_keeps ?_

theorem execReduce_keeps {a : State} {z0 : Nat} {z1 : IWord} {z2 : State} {u : State} (e : execReduce z0 z1 z2 = .next u) (h : Keeps a z2) :
    Keeps a u := by
  unfold execReduce at e
  injection e with e; subst e
  repeat' first
    | with_reducible assumption
    | with_reducible refine vopIssue_keeps ?_

theorem execConvert_keeps {a : State} {z0 : Nat} {z1 : IWord} {z2 : State} {u : State} (e : execConvert z0 z1 z2 = .next u) (h : Keeps a z2) :
    Keeps a u := by
  unfold execConvert at e
  injection e with e; subst e
  repeat' first
    | with_reducible assumption
    | with_reducible refine vopIssue_keeps ?_

theorem execQuant_keeps {a : State} {z0 : Nat} {z1 : IWord} {z2 : State} {u : State} (e : execQuant z0 z1 z2 = .next u) (h : Keeps a z2) :
    Keeps a u := by
  unfold execQuant at e
  injection e with e; subst e
  repeat' first
    | with_reducible assumption
    | with_reducible refine vopIssue_keeps ?_

theorem execDequant_keeps {a : State} {z0 : Nat} {z1 : IWord} {z2 : State} {u : State} (e : execDequant z0 z1 z2 = .next u) (h : Keeps a z2) :
    Keeps a u := by
  unfold execDequant at e
  injection e with e; subst e
  repeat' first
    | with_reducible assumption
    | with_reducible refine vopIssue_keeps ?_

theorem execTopk_keeps {a : State} {z0 : Nat} {z1 : IWord} {z2 : State} {u : State} (e : execTopk z0 z1 z2 = .next u) (h : Keeps a z2) :
    Keeps a u := by
  unfold execTopk at e
  injection e with e; subst e
  repeat' first
    | with_reducible assumption
    | with_reducible refine vopIssue_keeps ?_

theorem execStats_keeps {a : State} {z0 : Nat} {z1 : IWord} {z2 : State} {u : State} (e : execStats z0 z1 z2 = .next u) (h : Keeps a z2) :
    Keeps a u := by
  unfold execStats at e
  injection e with e; subst e
  repeat' first
    | with_reducible assumption
    | with_reducible refine vopIssue_keeps ?_

theorem execSdrain_keeps {a : State} {z0 : Nat} {z1 : IWord} {z2 : State} {u : State} (e : execSdrain z0 z1 z2 = .next u) (h : Keeps a z2) :
    Keeps a u := by
  unfold execSdrain at e
  injection e with e; subst e
  repeat' first
    | with_reducible assumption
    | with_reducible refine vopIssue_keeps ?_

theorem execPload_keeps {a : State} {z0 : Nat} {z1 : IWord} {z2 : State} {u : State} (e : execPload z0 z1 z2 = .next u) (h : Keeps a z2) :
    Keeps a u := by
  unfold execPload at e
  injection e with e; subst e
  repeat' first
    | with_reducible assumption
    | with_reducible refine vopIssue_keeps ?_

theorem execWindowOpen_keeps {a : State} {z0 : Nat} {z1 : Nat} {z2 : State} {u : State} (e : execWindowOpen z0 z1 z2 = .next u) (h : Keeps a z2) :
    Keeps a u := by
  unfold execWindowOpen at e
  injection e with e; subst e
  repeat' first
    | with_reducible assumption
    | intro _
    | exact rfl
    | with_reducible refine orNow_keeps ?_ ?_
    | with_reducible refine wr_keeps ?_ ?_
    | with_reducible refine modFace_keeps ?_
    | with_reducible refine bdyWindows_keeps ?_
    | with_reducible refine Keeps.ite ?_ ?_

theorem execWindowClose_keeps {a : State} {z0 : Nat} {z1 : Nat} {z2 : State} {u : State} (e : execWindowClose z0 z1 z2 = .next u) (h : Keeps a z2) :
    Keeps a u := by
  unfold execWindowClose at e
  injection e with e; subst e
  repeat' first
    | with_reducible assumption
    | intro _
    | exact rfl
    | with_reducible refine wr_keeps ?_ ?_
    | with_reducible refine modFace_keeps ?_
    | with_reducible refine orNow_keeps ?_ ?_
    | with_reducible refine bdyWindows_keeps ?_
    | with_reducible refine Keeps.ite ?_ ?_

theorem execDataParcel_keeps {a : State} {z0 : Nat} {z1 : Parcel} {z2 : State} {u : State} (e : execDataParcel z0 z1 z2 = .next u) (h : Keeps a z2) :
    Keeps a u := by
  unfold execDataParcel at e
  injection e with e; subst e
  repeat' first
    | with_reducible assumption
    | intro _
    | exact rfl
    | with_reducible refine bump_keeps ?_ ?_
    | with_reducible refine ringGuard_keeps ?_ ?_
    | with_reducible refine historyParcel_keeps ?_
    | with_reducible refine windowParcel_keeps ?_
    | with_reducible refine forwardParcel_keeps ?_
    | with_reducible refine Keeps.ite ?_ ?_

theorem execSigrParcel_keeps {a : State} {z0 : Nat} {z1 : Parcel} {z2 : State} {u : State} (e : execSigrParcel z0 z1 z2 = .next u) (h : Keeps a z2) :
    Keeps a u := by
  unfold execSigrParcel at e
  injection e with e; subst e
  repeat' first
    | with_reducible assumption
    | exact rfl
    | with_reducible refine bump_keeps ?_ ?_
    | with_reducible refine sigrParcel_keeps ?_
    | with_reducible refine forwardParcel_keeps ?_
    | with_reducible refine Keeps.ite ?_ ?_

theorem execCommit_keeps {a : State} {z0 : Nat} {z1 : Nat} {z2 : Nat} {z3 : Nat} {z4 : List WinEntry} {z5 : Bool} {z6 : State} {u : State} (e : execCommit z0 z1 z2 z3 z4 z5 z6 = .next u) (h : Keeps a z6) :
    Keeps a u := by
  unfold execCommit at e
  injection e with e; subst e
  repeat' first
    | with_reducible assumption
    | intro _
    | with_reducible refine forwardCtl_keeps ?_
    | with_reducible refine ringGuard_keeps ?_ ?_
    | with_reducible refine orNow_keeps ?_ ?_
    | with_reducible refine commitNotice_keeps ?_
    | with_reducible refine bdySigrs_keeps ?_
    | with_reducible refine Keeps.ite ?_ ?_
    | fail_if_no_progress with_reducible refine Keeps.mk ?_ rfl rfl rfl

theorem execAbort_keeps {a : State} {z0 : Nat} {z1 : Nat} {z2 : Nat} {z3 : Nat} {z4 : State} {u : State} (e : execAbort z0 z1 z2 z3 z4 = .next u) (h : Keeps a z4) :
    Keeps a u := by
  unfold execAbort at e
  injection e with e; subst e
  repeat' first
    | with_reducible assumption
    | intro _
    | with_reducible refine forwardCtl_keeps ?_
    | with_reducible refine ringGuard_keeps ?_ ?_
    | with_reducible refine abortNotice_keeps ?_
    | with_reducible refine Keeps.ite ?_ ?_

theorem execSqDoorbell_keeps {a : State} {z0 : Nat} {z1 : Nat} {z2 : State} {u : State} (e : execSqDoorbell z0 z1 z2 = .next u) (h : Keeps a z2) :
    Keeps a u := by
  unfold execSqDoorbell at e
  injection e with e; subst e
  repeat' first
    | with_reducible assumption
    | intro _
    | exact rfl
    | with_reducible refine bump_keeps ?_ ?_
    | with_reducible refine ringGuard_keeps ?_ ?_
    | with_reducible refine setRing_keeps ?_
    | with_reducible refine Keeps.ite ?_ ?_
    | dsimp only
    | split

theorem execCqDoorbell_keeps {a : State} {z0 : Nat} {z1 : Nat} {z2 : State} {u : State} (e : execCqDoorbell z0 z1 z2 = .next u) (h : Keeps a z2) :
    Keeps a u := by
  unfold execCqDoorbell at e
  injection e with e; subst e
  repeat' first
    | with_reducible assumption
    | intro _
    | exact rfl
    | with_reducible refine bump_keeps ?_ ?_
    | with_reducible refine ringGuard_keeps ?_ ?_
    | with_reducible refine irqsDue_keeps ?_
    | with_reducible refine cqDrain_keeps ?_
    | with_reducible refine setRing_keeps ?_
    | with_reducible refine Keeps.ite ?_ ?_
    | dsimp only
    | split

theorem execAnte_keeps {a : State} {z0 : Nat} {z1 : Entry} {z2 : Entry} {z3 : State} {u : State} (e : execAnte z0 z1 z2 z3 = .next u) (h : Keeps a z3) :
    Keeps a u := by
  unfold execAnte at e
  injection e with e; subst e
  repeat' first
    | with_reducible assumption
    | with_reducible refine sqNext_keeps (by assumption) ?_
    | with_reducible refine hold__keeps ?_
    | with_reducible refine emit_keeps ?_
    | with_reducible refine Keeps.ite ?_ ?_
    | dsimp only
    | split

theorem execFold_keeps {a : State} {z0 : Nat} {z1 : Entry} {z2 : State} {u : State} (e : execFold z0 z1 z2 = .next u) (h : Keeps a z2) :
    Keeps a u := by
  unfold execFold at e
  injection e with e; subst e
  repeat' first
    | with_reducible assumption
    | with_reducible refine sqNext_keeps (by assumption) ?_
    | with_reducible refine record_keeps ?_
    | with_reducible refine foldReq_keeps ?_
    | with_reducible refine emit_keeps ?_
    | with_reducible refine Keeps.ite ?_ ?_
    | split

theorem execForwardedAnte_keeps {a : State} {z0 : Nat} {z1 : Nat} {z2 : Bool} {z3 : Entry} {z4 : Entry} {z5 : Nat} {z6 : Nat} {z7 : State} {u : State} (e : execForwardedAnte z0 z1 z2 z3 z4 z5 z6 z7 = .next u) (h : Keeps a z7) :
    Keeps a u := by
  unfold execForwardedAnte at e
  injection e with e; subst e
  repeat' first
    | with_reducible assumption
    | with_reducible refine foldReq_keeps ?_
    | with_reducible refine hold__keeps ?_
    | with_reducible refine Keeps.ite ?_ ?_

theorem execTtlExpiry_keeps {a : State} {z0 : Nat} {z1 : State} {u : State} (e : execTtlExpiry z0 z1 = .next u) (h : Keeps a z1) :
    Keeps a u := by
  unfold execTtlExpiry at e
  injection e with e; subst e
  repeat' first
    | with_reducible assumption
    | with_reducible refine modSeat_keeps ?_
    | with_reducible refine Keeps.ite ?_ ?_

theorem execDeadline_keeps {a : State} {z0 : Bool} {z1 : Nat} {z2 : State} {u : State} (e : execDeadline z0 z1 z2 = .next u) (h : Keeps a z2) :
    Keeps a u := by
  unfold execDeadline at e
  injection e with e; subst e
  repeat' first
    | with_reducible assumption
    | with_reducible refine refuse_keeps ?_
    | with_reducible refine cancelSeat_keeps ?_
    | with_reducible refine modSeat_keeps ?_
    | with_reducible refine Keeps.ite ?_ ?_
    | split

theorem execSrvMode_keeps {a : State} {z0 : Nat} {z1 : State} {u : State} (e : execSrvMode z0 z1 = .next u) (h : Keeps a z1) :
    Keeps a u := by
  unfold execSrvMode at e
  injection e with e; subst e
  repeat' first
    | with_reducible assumption
    | intro _
    | with_reducible refine orNow_keeps ?_ ?_
    | with_reducible refine bdyMode_keeps ?_
    | with_reducible refine Keeps.ite ?_ ?_
    | fail_if_no_progress with_reducible refine Keeps.mk ?_ rfl rfl rfl

theorem execPfxInstall_keeps {a : State} {z0 : State} {u : State} (e : execPfxInstall z0 = .next u) (h : Keeps a z0) :
    Keeps a u := by
  unfold execPfxInstall at e
  injection e with e; subst e
  repeat' first
    | with_reducible assumption
    | exact rfl
    | with_reducible refine wr_keeps ?_ ?_
    | with_reducible refine takeFrames_keeps ?_
    | with_reducible refine Keeps.ite ?_ ?_
    | fail_if_no_progress with_reducible refine Keeps.mk ?_ rfl rfl rfl

theorem execPrefixInstalled_keeps {a : State} {z0 : Nat} {z1 : List (List Word × List Word)} {z2 : State} {u : State} (e : execPrefixInstalled z0 z1 z2 = .next u) (h : Keeps a z2) :
    Keeps a u := by
  unfold execPrefixInstalled at e
  injection e with e; subst e
  repeat' first
    | with_reducible assumption
    | intro _
    | with_reducible refine putShare_keeps ?_
    | with_reducible refine orNow_keeps ?_ ?_
    | with_reducible refine bdyPrefix_keeps ?_
    | with_reducible refine Keeps.foldl ?_ ?_
    | with_reducible refine Keeps.loop ?_ ?_
    | with_reducible refine Keeps.ite ?_ ?_
    | fail_if_no_progress with_reducible refine Keeps.mk ?_ rfl rfl rfl

theorem execPfxRemove_keeps {a : State} {z0 : State} {u : State} (e : execPfxRemove z0 = .next u) (h : Keeps a z0) :
    Keeps a u := by
  unfold execPfxRemove at e
  injection e with e; subst e
  repeat' first
    | with_reducible assumption
    | exact rfl
    | with_reducible refine wr_keeps ?_ ?_
    | with_reducible refine commitPrefix_keeps ?_
    | with_reducible refine Keeps.ite ?_ ?_

theorem execDealerRowsDrawn_keeps {a : State} {z0 : State} {u : State} (e : execDealerRowsDrawn z0 = .next u) (h : Keeps a z0) :
    Keeps a u := by
  unfold execDealerRowsDrawn at e
  injection e with e; subst e
  repeat' first
    | with_reducible assumption
    | with_reducible refine dealAll_keeps ?_
    | with_reducible refine Keeps.ite ?_ ?_

theorem execTokens_keeps {a : State} {z0 : Nat} {z1 : Nat} {z2 : Nat} {z3 : Nat} {z4 : Nat} {z5 : Nat} {z6 : List Nat} {z7 : List Nat} {z8 : Nat} {z9 : Nat} {z10 : Nat} {z11 : State} {u : State} (e : execTokens z0 z1 z2 z3 z4 z5 z6 z7 z8 z9 z10 z11 = .next u) (h : Keeps a z11) :
    Keeps a u := by
  unfold execTokens at e
  injection e with e; subst e
  repeat' first
    | with_reducible assumption
    | with_reducible refine forwardCtl_keeps ?_
    | with_reducible refine modSeat_keeps ?_
    | with_reducible refine flushPosted_keeps ?_
    | with_reducible refine irqsDue_keeps ?_
    | with_reducible refine writeRecs_keeps ?_
    | with_reducible refine tokensIn_keeps ?_
    | with_reducible refine Keeps.ite ?_ ?_

theorem execSeatRecordLoad_keeps {a : State} {z0 : SeatRec} {z1 : SeatRec} {z2 : State} {u : State} (e : execSeatRecordLoad z0 z1 z2 = .next u) (h : Keeps a z2) :
    Keeps a u := by
  unfold execSeatRecordLoad at e
  injection e with e; subst e
  repeat' first
    | with_reducible assumption
    | with_reducible refine cancelSeat_keeps ?_
    | with_reducible refine modSeat_keeps ?_
    | with_reducible refine emit_keeps ?_
    | with_reducible refine Keeps.ite ?_ ?_
    | fail_if_no_progress with_reducible refine Keeps.mk ?_ rfl rfl rfl

theorem execGrammarLoad_keeps {a : State} {z0 : State} {u : State} (e : execGrammarLoad z0 = .next u) (h : Keeps a z0) :
    Keeps a u := by
  unfold execGrammarLoad at e
  injection e with e; subst e
  repeat' first
    | with_reducible assumption
    | exact rfl
    | with_reducible refine gramRefuse_keeps ?_
    | with_reducible refine wr_keeps ?_ ?_
    | with_reducible refine Keeps.ite ?_ ?_

theorem execGrammarLoadDone_keeps {a : State} {z0 : Nat} {z1 : List Word} {z2 : List Word} {z3 : State} {u : State} (e : execGrammarLoadDone z0 z1 z2 z3 = .next u) (h : Keeps a z3) :
    Keeps a u := by
  unfold execGrammarLoadDone at e
  injection e with e; subst e
  repeat' first
    | with_reducible assumption
    | intro _
    | exact rfl
    | with_reducible refine gramRefuse_keeps ?_
    | with_reducible refine wr_keeps ?_ ?_
    | with_reducible refine orNow_keeps ?_ ?_
    | with_reducible refine bdyGrams_keeps ?_
    | with_reducible refine Keeps.ite ?_ ?_
    | fail_if_no_progress with_reducible refine Keeps.mk ?_ rfl rfl rfl

theorem execGrammarUnload_keeps {a : State} {z0 : State} {u : State} (e : execGrammarUnload z0 = .next u) (h : Keeps a z0) :
    Keeps a u := by
  unfold execGrammarUnload at e
  injection e with e; subst e
  repeat' first
    | with_reducible assumption
    | exact rfl
    | with_reducible refine wr_keeps ?_ ?_
    | with_reducible refine commitGrams_keeps ?_
    | with_reducible refine Keeps.ite ?_ ?_

theorem execAnswer_keeps {a : State} {z0 : Nat} {z1 : Nat} {z2 : Nat} {z3 : Nat} {z4 : Nat} {z5 : Nat} {z6 : State} {u : State} (e : execAnswer z0 z1 z2 z3 z4 z5 z6 = .next u) (h : Keeps a z6) :
    Keeps a u := by
  unfold execAnswer at e
  injection e with e; subst e
  repeat' first
    | with_reducible assumption
    | with_reducible refine forwardCtl_keeps ?_
    | with_reducible refine answerTo_keeps ?_
    | with_reducible refine Keeps.ite ?_ ?_

theorem execPortTrainingStepEnd_keeps {a : State} {z0 : Nat} {z1 : Nat} {z2 : Nat} {z3 : State} {u : State} (e : execPortTrainingStepEnd z0 z1 z2 z3 = .next u) (h : Keeps a z3) :
    Keeps a u := by
  unfold execPortTrainingStepEnd at e
  injection e with e; subst e
  repeat' first
    | with_reducible assumption
    | exact rfl
    | with_reducible refine modPort_keeps ?_
    | with_reducible refine wr_keeps ?_ ?_
    | with_reducible refine trainLanes_keeps ?_
    | with_reducible refine trainFail_keeps ?_
    | with_reducible refine emit_keeps ?_
    | with_reducible refine Keeps.ite ?_ ?_

theorem execIdent_keeps {a : State} {z0 : Nat} {z1 : Nat} {z2 : Nat} {z3 : Nat} {z4 : State} {u : State} (e : execIdent z0 z1 z2 z3 z4 = .next u) (h : Keeps a z4) :
    Keeps a u := by
  unfold execIdent at e
  injection e with e; subst e
  repeat' first
    | with_reducible assumption
    | exact rfl
    | with_reducible refine wr_keeps ?_ ?_
    | with_reducible refine trainLanes_keeps ?_
    | with_reducible refine modPort_keeps ?_
    | with_reducible refine activate_keeps ?_
    | with_reducible refine Keeps.ite ?_ ?_
    | dsimp only
    | split

theorem execHoldoffExpiry_keeps {a : State} {z0 : Nat} {z1 : State} {u : State} (e : execHoldoffExpiry z0 z1 = .next u) (h : Keeps a z1) :
    Keeps a u := by
  unfold execHoldoffExpiry at e
  injection e with e; subst e
  repeat' first
    | with_reducible assumption
    | with_reducible refine trainStart_keeps ?_
    | with_reducible refine Keeps.ite ?_ ?_

theorem execPortRetrain_keeps {a : State} {z0 : Nat} {z1 : State} {u : State} (e : execPortRetrain z0 z1 = .next u) (h : Keeps a z1) :
    Keeps a u := by
  unfold execPortRetrain at e
  injection e with e; subst e
  repeat' first
    | with_reducible assumption
    | with_reducible refine trainStart_keeps ?_
    | with_reducible refine resetDomain_keeps ?_
    | with_reducible refine Keeps.ite ?_ ?_

theorem execLaneFail_keeps {a : State} {z0 : Nat} {z1 : Nat} {z2 : State} {u : State} (e : execLaneFail z0 z1 z2 = .next u) (h : Keeps a z2) :
    Keeps a u := by
  unfold execLaneFail at e
  injection e with e; subst e
  repeat' first
    | with_reducible assumption
    | with_reducible refine failLane_keeps ?_

theorem execLaneErrorWindow_keeps {a : State} {z0 : Nat} {z1 : Nat} {z2 : Nat} {z3 : Nat} {z4 : State} {u : State} (e : execLaneErrorWindow z0 z1 z2 z3 z4 = .next u) (h : Keeps a z4) :
    Keeps a u := by
  unfold execLaneErrorWindow at e
  injection e with e; subst e
  repeat' first
    | with_reducible assumption
    | exact rfl
    | with_reducible refine modPort_keeps ?_
    | with_reducible refine bumpBy_keeps ?_ ?_
    | with_reducible refine failLane_keeps ?_
    | with_reducible refine Keeps.ite ?_ ?_

theorem execLane_keeps {a : State} {z0 : Nat} {z1 : Nat} {z2 : Nat} {z3 : Nat} {z4 : Nat} {z5 : Bool} {z6 : State} {u : State} (e : execLane z0 z1 z2 z3 z4 z5 z6 = .next u) (h : Keeps a z6) :
    Keeps a u := by
  unfold execLane at e
  injection e with e; subst e
  repeat' first
    | with_reducible assumption
    | with_reducible refine setPort_keeps ?_
    | with_reducible refine portOut_keeps ?_
    | with_reducible refine peerRemap_keeps ?_
    | with_reducible refine modPort_keeps ?_
    | with_reducible refine Keeps.ite ?_ ?_

theorem execFlit_keeps {a : State} {z0 : Nat} {z1 : List Word} {z2 : Bool} {z3 : State} {u : State} (e : execFlit z0 z1 z2 z3 = .next u) (h : Keeps a z3) :
    Keeps a u := by
  unfold execFlit at e
  injection e with e; subst e
  repeat' first
    | with_reducible assumption
    | exact rfl
    | with_reducible refine portFlush_keeps ?_
    | with_reducible refine setPort_keeps ?_
    | with_reducible refine modPort_keeps ?_
    | with_reducible refine bump_keeps ?_ ?_
    | with_reducible refine trainStart_keeps ?_
    | with_reducible refine Keeps.ite ?_ ?_

theorem execTick_keeps {a : State} {z0 : Nat} {z1 : Nat} {z2 : Nat} {z3 : Nat} {z4 : State} {u : State} (e : execTick z0 z1 z2 z3 z4 = .next u) (h : Keeps a z4) :
    Keeps a u := by
  unfold execTick at e
  injection e with e; subst e
  repeat' first
    | with_reducible assumption
    | intro _
    | with_reducible refine badMsg_keeps ?_
    | with_reducible refine sendTree_keeps ?_
    | with_reducible refine ringGuard_keeps ?_ ?_
    | with_reducible refine Keeps.ite ?_ ?_
    | fail_if_no_progress with_reducible refine Keeps.mk ?_ rfl rfl rfl

theorem execRelease_keeps {a : State} {z0 : Nat} {z1 : Bool} {z2 : Nat} {z3 : Nat} {z4 : Nat} {z5 : Nat} {z6 : Bool} {z7 : State} {u : State} (e : execRelease z0 z1 z2 z3 z4 z5 z6 z7 = .next u) (h : Keeps a z7) :
    Keeps a u := by
  unfold execRelease at e
  injection e with e; subst e
  repeat' first
    | with_reducible assumption
    | with_reducible refine dtrickReleased_keeps ?_
    | with_reducible refine sendTree_keeps ?_
    | with_reducible refine badMsg_keeps ?_
    | with_reducible refine forwardCtl_keeps ?_
    | with_reducible refine dtrickRefused_keeps ?_
    | with_reducible refine Keeps.ite ?_ ?_

theorem execTrim_keeps {a : State} {z0 : Nat} {z1 : Nat} {z2 : Nat} {z3 : Nat} {z4 : Nat} {z5 : Nat} {z6 : State} {u : State} (e : execTrim z0 z1 z2 z3 z4 z5 z6 = .next u) (h : Keeps a z6) :
    Keeps a u := by
  unfold execTrim at e
  injection e with e; subst e
  repeat' first
    | with_reducible assumption
    | with_reducible refine forwardCtl_keeps ?_
    | with_reducible refine setCache_keeps ?_
    | with_reducible refine Keeps.ite ?_ ?_

theorem execTimeExchange_keeps {a : State} {z0 : State} {u : State} (e : execTimeExchange z0 = .next u) (h : Keeps a z0) :
    Keeps a u := by
  unfold execTimeExchange at e
  injection e with e; subst e
  repeat' first
    | with_reducible assumption
    | with_reducible refine emit_keeps ?_
    | with_reducible refine Keeps.ite ?_ ?_

theorem execTime_keeps {a : State} {z0 : Nat} {z1 : Nat} {z2 : Nat} {z3 : Nat} {z4 : Nat} {z5 : Nat} {z6 : State} {u : State} (e : execTime z0 z1 z2 z3 z4 z5 z6 = .next u) (h : Keeps a z6) :
    Keeps a u := by
  unfold execTime at e
  injection e with e; subst e
  repeat' first
    | with_reducible assumption
    | exact rfl
    | with_reducible refine emit_keeps ?_
    | with_reducible refine wr_keeps ?_ ?_
    | with_reducible refine Keeps.ite ?_ ?_
    | fail_if_no_progress with_reducible refine Keeps.mk ?_ rfl rfl rfl

theorem execTimeSyncLost_keeps {a : State} {z0 : State} {u : State} (e : execTimeSyncLost z0 = .next u) (h : Keeps a z0) :
    Keeps a u := by
  unfold execTimeSyncLost at e
  injection e with e; subst e
  repeat' first
    | with_reducible assumption
    | exact rfl
    | with_reducible refine advance_keeps ?_
    | with_reducible refine bump_keeps ?_ ?_
    | with_reducible refine wr_keeps ?_ ?_
    | with_reducible refine Keeps.ite ?_ ?_
    | fail_if_no_progress with_reducible refine Keeps.mk ?_ rfl rfl rfl

theorem execBypassClose_keeps {a : State} {z0 : State} {u : State} (e : execBypassClose z0 = .next u) (h : Keeps a z0) :
    Keeps a u := by
  unfold execBypassClose at e
  injection e with e; subst e
  repeat' first
    | with_reducible assumption
    | with_reducible refine bypClose_keeps ?_
    | fail_if_no_progress with_reducible refine Keeps.mk ?_ rfl rfl rfl

theorem execBypassOpen_keeps {a : State} {z0 : State} {u : State} (e : execBypassOpen z0 = .next u) (h : Keeps a z0) :
    Keeps a u := by
  unfold execBypassOpen at e
  injection e with e; subst e
  repeat' first
    | with_reducible assumption
    | with_reducible refine bypOpenNow_keeps ?_
    | with_reducible refine Keeps.ite ?_ ?_
    | fail_if_no_progress with_reducible refine Keeps.mk ?_ rfl rfl rfl

theorem execBypForce_keeps {a : State} {z0 : State} {u : State} (e : execBypForce z0 = .next u) (h : Keeps a z0) :
    Keeps a u := by
  unfold execBypForce at e
  injection e with e; subst e
  repeat' first
    | with_reducible assumption
    | exact rfl
    | with_reducible refine bypClose_keeps ?_
    | with_reducible refine wr_keeps ?_ ?_

theorem execBypForceRelease_keeps {a : State} {z0 : State} {u : State} (e : execBypForceRelease z0 = .next u) (h : Keeps a z0) :
    Keeps a u := by
  unfold execBypForceRelease at e
  injection e with e; subst e
  repeat' first
    | with_reducible assumption
    | exact rfl
    | with_reducible refine wr_keeps ?_ ?_

theorem execVaonLoss_keeps {a : State} {z0 : State} {u : State} (e : execVaonLoss z0 = .next u) (h : Keeps a z0) :
    Keeps a u := by
  unfold execVaonLoss at e
  injection e with e; subst e
  repeat' first
    | with_reducible assumption
    | with_reducible refine bypClose_keeps ?_
    | fail_if_no_progress with_reducible refine Keeps.mk ?_ rfl rfl rfl

theorem execRoster_keeps {a : State} {z0 : Nat} {z1 : Nat} {z2 : Nat} {z3 : Nat} {z4 : Bool} {z5 : Nat} {z6 : State} {u : State} (e : execRoster z0 z1 z2 z3 z4 z5 z6 = .next u) (h : Keeps a z6) :
    Keeps a u := by
  unfold execRoster at e
  injection e with e; subst e
  repeat' first
    | with_reducible assumption
    | intro _
    | with_reducible refine badMsg_keeps ?_
    | with_reducible refine sendTree_keeps ?_
    | with_reducible refine ringGuard_keeps ?_ ?_
    | with_reducible refine setRoles_keeps ?_
    | with_reducible refine Keeps.ite ?_ ?_
    | fail_if_no_progress with_reducible refine Keeps.mk ?_ rfl rfl rfl

theorem execRosterPublish_keeps {a : State} {z0 : State} {u : State} (e : execRosterPublish z0 = .next u) (h : Keeps a z0) :
    Keeps a u := by
  unfold execRosterPublish at e
  injection e with e; subst e
  repeat' first
    | with_reducible assumption
    | with_reducible refine sendRoster_keeps ?_
    | with_reducible refine Keeps.ite ?_ ?_

theorem execState_keeps {a : State} {z0 : Nat} {z1 : Nat} {z2 : Nat} {z3 : Nat} {z4 : Nat} {z5 : Nat} {z6 : Nat} {z7 : State} {u : State} (e : execState z0 z1 z2 z3 z4 z5 z6 z7 = .next u) (h : Keeps a z7) :
    Keeps a u := by
  unfold execState at e
  injection e with e; subst e
  repeat' first
    | with_reducible assumption
    | intro _
    | with_reducible refine forwardCtl_keeps ?_
    | with_reducible refine badMsg_keeps ?_
    | with_reducible refine ringGuard_keeps ?_ ?_
    | with_reducible refine stateReport_keeps ?_
    | with_reducible refine Keeps.ite ?_ ?_

theorem execHold_keeps {a : State} {z0 : Nat} {z1 : Nat} {z2 : Nat} {z3 : Bool} {z4 : Nat} {z5 : State} {u : State} (e : execHold z0 z1 z2 z3 z4 z5 = .next u) (h : Keeps a z5) :
    Keeps a u := by
  unfold execHold at e
  injection e with e; subst e
  repeat' first
    | with_reducible assumption
    | intro _
    | with_reducible refine badMsg_keeps ?_
    | with_reducible refine ringGuard_keeps ?_ ?_
    | with_reducible refine sendTree_keeps ?_
    | with_reducible refine takeHold_keeps ?_
    | with_reducible refine Keeps.ite ?_ ?_
    | fail_if_no_progress with_reducible refine Keeps.mk ?_ rfl rfl rfl

theorem execReplica_keeps {a : State} {z0 : Nat} {z1 : Nat} {z2 : Nat} {z3 : Nat} {z4 : Nat} {z5 : State} {u : State} (e : execReplica z0 z1 z2 z3 z4 z5 = .next u) (h : Keeps a z5) :
    Keeps a u := by
  unfold execReplica at e
  injection e with e; subst e
  repeat' first
    | with_reducible assumption
    | intro _
    | with_reducible refine badMsg_keeps ?_
    | with_reducible refine ringGuard_keeps ?_ ?_
    | with_reducible refine sendTree_keeps ?_
    | with_reducible refine takeReplica_keeps ?_
    | with_reducible refine Keeps.ite ?_ ?_
    | fail_if_no_progress with_reducible refine Keeps.mk ?_ rfl rfl rfl

theorem execReport_keeps {a : State} {z0 : Nat} {z1 : Nat} {z2 : Nat} {z3 : Nat} {z4 : Nat} {z5 : Nat} {z6 : Nat} {z7 : Nat} {z8 : Nat} {z9 : State} {u : State} (e : execReport z0 z1 z2 z3 z4 z5 z6 z7 z8 z9 = .next u) (h : Keeps a z9) :
    Keeps a u := by
  unfold execReport at e
  injection e with e; subst e
  repeat' first
    | with_reducible assumption
    | with_reducible refine forwardCtl_keeps ?_
    | with_reducible refine badMsg_keeps ?_
    | with_reducible refine managerReport_keeps ?_
    | with_reducible refine Keeps.ite ?_ ?_

theorem execSeatLimitRegrow_keeps {a : State} {z0 : Nat} {z1 : State} {u : State} (e : execSeatLimitRegrow z0 z1 = .next u) (h : Keeps a z1) :
    Keeps a u := by
  unfold execSeatLimitRegrow at e
  injection e with e; subst e
  repeat' first
    | with_reducible assumption
    | with_reducible refine modRep_keeps ?_
    | with_reducible refine Keeps.ite ?_ ?_

theorem execReplicaHold_keeps {a : State} {z0 : Nat} {z1 : State} {u : State} (e : execReplicaHold z0 z1 = .next u) (h : Keeps a z1) :
    Keeps a u := by
  unfold execReplicaHold at e
  injection e with e; subst e
  repeat' first
    | with_reducible assumption
    | exact rfl
    | with_reducible refine takeHold_keeps ?_
    | with_reducible refine sendTree_keeps ?_
    | with_reducible refine bump_keeps ?_ ?_
    | with_reducible refine wr_keeps ?_ ?_
    | with_reducible refine Keeps.ite ?_ ?_
    | split

theorem execHoldLift_keeps {a : State} {z0 : Nat} {z1 : State} {u : State} (e : execHoldLift z0 z1 = .next u) (h : Keeps a z1) :
    Keeps a u := by
  unfold execHoldLift at e
  injection e with e; subst e
  repeat' first
    | with_reducible assumption
    | exact rfl
    | with_reducible refine takeHold_keeps ?_
    | with_reducible refine sendTree_keeps ?_
    | with_reducible refine wr_keeps ?_ ?_
    | with_reducible refine Keeps.ite ?_ ?_

theorem execReplicaDown_keeps {a : State} {z0 : Nat} {z1 : State} {u : State} (e : execReplicaDown z0 z1 = .next u) (h : Keeps a z1) :
    Keeps a u := by
  unfold execReplicaDown at e
  injection e with e; subst e
  repeat' first
    | with_reducible assumption
    | with_reducible refine declare_keeps ?_
    | with_reducible refine Keeps.ite ?_ ?_
    | split

theorem execJoin_keeps {a : State} {z0 : State} {u : State} (e : execJoin z0 = .next u) (h : Keeps a z0) :
    Keeps a u := by
  unfold execJoin at e
  injection e with e; subst e
  repeat' first
    | with_reducible assumption
    | intro _
    | with_reducible refine joinRefuse_keeps ?_
    | with_reducible refine modRep_keeps ?_
    | with_reducible refine orNow_keeps ?_ ?_
    | with_reducible refine sayReplica_keeps ?_
    | with_reducible refine bdyDomain_keeps ?_
    | with_reducible refine Keeps.ite ?_ ?_

theorem execReplicaRetire_keeps {a : State} {z0 : State} {u : State} (e : execReplicaRetire z0 = .next u) (h : Keeps a z0) :
    Keeps a u := by
  unfold execReplicaRetire at e
  injection e with e; subst e
  repeat' first
    | with_reducible assumption
    | intro _
    | with_reducible refine orNow_keeps ?_ ?_
    | with_reducible refine modRep_keeps ?_
    | with_reducible refine bdyDomain_keeps ?_
    | with_reducible refine Keeps.ite ?_ ?_

theorem execMirror_keeps {a : State} {z0 : Nat} {z1 : Nat} {z2 : Nat} {z3 : Nat} {z4 : Nat} {z5 : Nat} {z6 : Word} {z7 : Entry} {z8 : Nat} {z9 : State} {u : State} (e : execMirror z0 z1 z2 z3 z4 z5 z6 z7 z8 z9 = .next u) (h : Keeps a z9) :
    Keeps a u := by
  unfold execMirror at e
  injection e with e; subst e
  repeat' first
    | with_reducible assumption
    | intro _
    | exact rfl
    | with_reducible refine forwardCtl_keeps ?_
    | with_reducible refine badMsg_keeps ?_
    | with_reducible refine ringGuard_keeps ?_ ?_
    | with_reducible refine seatReg_keeps ?_
    | with_reducible refine setSeat_keeps ?_
    | with_reducible refine mirrorAnte_keeps ?_
    | with_reducible refine modRep_keeps ?_
    | with_reducible refine setReg_keeps ?_ ?_
    | with_reducible refine sendCtl_keeps ?_
    | with_reducible refine Keeps.ite ?_ ?_
    | fail_if_no_progress with_reducible refine Keeps.mk ?_ rfl rfl rfl

theorem execMirrorAck_keeps {a : State} {z0 : Nat} {z1 : Nat} {z2 : Nat} {z3 : Nat} {z4 : Nat} {z5 : State} {u : State} (e : execMirrorAck z0 z1 z2 z3 z4 z5 = .next u) (h : Keeps a z5) :
    Keeps a u := by
  unfold execMirrorAck at e
  injection e with e; subst e
  repeat' first
    | with_reducible assumption
    | intro _
    | with_reducible refine forwardCtl_keeps ?_
    | with_reducible refine badMsg_keeps ?_
    | with_reducible refine ringGuard_keeps ?_ ?_
    | with_reducible refine sendRoster_keeps ?_
    | with_reducible refine setRoles_keeps ?_
    | with_reducible refine announce_keeps ?_
    | with_reducible refine Keeps.ite ?_ ?_
    | fail_if_no_progress with_reducible refine Keeps.mk ?_ rfl rfl rfl

theorem execMirrorAckTimeout_keeps {a : State} {z0 : State} {u : State} (e : execMirrorAckTimeout z0 = .next u) (h : Keeps a z0) :
    Keeps a u := by
  unfold execMirrorAckTimeout at e
  injection e with e; subst e
  repeat' first
    | with_reducible assumption
    | with_reducible refine raise_keeps ?_
    | with_reducible refine setRoles_keeps ?_
    | with_reducible refine announce_keeps ?_
    | with_reducible refine copyState_keeps ?_
    | with_reducible refine sendRoster_keeps ?_
    | with_reducible refine Keeps.ite ?_ ?_

theorem execMissed_keeps {a : State} {z0 : Nat} {z1 : Nat} {z2 : Nat} {z3 : Nat} {z4 : State} {u : State} (e : execMissed z0 z1 z2 z3 z4 = .next u) (h : Keeps a z4) :
    Keeps a u := by
  unfold execMissed at e
  injection e with e; subst e
  repeat' first
    | with_reducible assumption
    | with_reducible refine forwardCtl_keeps ?_
    | with_reducible refine Keeps.ite ?_ ?_
    | fail_if_no_progress with_reducible refine Keeps.mk ?_ rfl rfl rfl

theorem execTakeover_keeps {a : State} {z0 : State} {u : State} (e : execTakeover z0 = .next u) (h : Keeps a z0) :
    Keeps a u := by
  unfold execTakeover at e
  injection e with e; subst e
  repeat' first
    | with_reducible assumption
    | with_reducible refine setRoles_keeps ?_
    | with_reducible refine copyState_keeps ?_
    | with_reducible refine sendTree_keeps ?_
    | with_reducible refine Keeps.ite ?_ ?_
    | fail_if_no_progress with_reducible refine Keeps.mk ?_ rfl rfl rfl

theorem execClaim_keeps {a : State} {z0 : Nat} {z1 : Nat} {z2 : Nat} {z3 : Nat} {z4 : Nat} {z5 : State} {u : State} (e : execClaim z0 z1 z2 z3 z4 z5 = .next u) (h : Keeps a z5) :
    Keeps a u := by
  unfold execClaim at e
  injection e with e; subst e
  repeat' first
    | with_reducible assumption
    | intro _
    | with_reducible refine badMsg_keeps ?_
    | with_reducible refine ringGuard_keeps ?_ ?_
    | with_reducible refine setRoles_keeps ?_
    | with_reducible refine sendState_keeps ?_
    | with_reducible refine sendTree_keeps ?_
    | with_reducible refine Keeps.ite ?_ ?_
    | fail_if_no_progress with_reducible refine Keeps.mk ?_ rfl rfl rfl

theorem execTickAnnounce_keeps {a : State} {z0 : State} {u : State} (e : execTickAnnounce z0 = .next u) (h : Keeps a z0) :
    Keeps a u := by
  unfold execTickAnnounce at e
  injection e with e; subst e
  repeat' first
    | with_reducible assumption
    | with_reducible refine advance_keeps ?_
    | with_reducible refine decide__keeps ?_
    | with_reducible refine announce_keeps ?_
    | with_reducible refine mirrorDiff_keeps ?_
    | with_reducible refine Keeps.ite ?_ ?_
    | fail_if_no_progress with_reducible refine Keeps.mk ?_ rfl rfl rfl

theorem execVectorIssueCheck_keeps {a : State} {z0 : Nat} {z1 : Nat} {z2 : Nat} {z3 : Bool} {z4 : State} {u : State} (e : execVectorIssueCheck z0 z1 z2 z3 z4 = .next u) (h : Keeps a z4) :
    Keeps a u := by
  unfold execVectorIssueCheck at e
  injection e with e; subst e
  repeat' first
    | with_reducible assumption
    | with_reducible refine issueCheck_keeps ?_
    | with_reducible refine Keeps.ite ?_ ?_
    | split

theorem execPhaseEnd_keeps {a : State} {z0 : Nat} {z1 : Nat} {z2 : Nat} {z3 : List (Nat × Int)} {z4 : List (Nat × Int)} {z5 : List (Nat × Nat)} {z6 : Option Nat} {z7 : State} {u : State} (e : execPhaseEnd z0 z1 z2 z3 z4 z5 z6 z7 = .next u) (h : Keeps a z7) :
    Keeps a u := by
  unfold execPhaseEnd at e
  injection e with e; subst e
  repeat' first
    | with_reducible assumption
    | with_reducible refine phaseEnd_keeps ?_
    | with_reducible refine Keeps.ite ?_ ?_
    | split

theorem execBench3Start_keeps {a : State} {z0 : Nat} {z1 : Nat} {z2 : State} {u : State} (e : execBench3Start z0 z1 z2 = .next u) (h : Keeps a z2) :
    Keeps a u := by
  unfold execBench3Start at e
  injection e with e; subst e
  repeat' first
    | with_reducible assumption
    | intro _
    | exact rfl
    | with_reducible refine unresolved_keeps ?_
    | with_reducible refine raise_keeps ?_
    | with_reducible refine bump_keeps ?_ ?_
    | with_reducible refine putPass_keeps ?_
    | with_reducible refine modFace_keeps ?_
    | with_reducible refine Keeps.foldl ?_ ?_
    | with_reducible refine Keeps.ite ?_ ?_
    | dsimp only
    | split

theorem execBench3Done_keeps {a : State} {z0 : Nat} {z1 : Nat} {z2 : List (Nat × Nat)} {z3 : Option Nat} {z4 : State} {u : State} (e : execBench3Done z0 z1 z2 z3 z4 = .next u) (h : Keeps a z4) :
    Keeps a u := by
  unfold execBench3Done at e
  injection e with e; subst e
  repeat' first
    | with_reducible assumption
    | intro _
    | exact rfl
    | with_reducible refine fineResume_keeps ?_
    | with_reducible refine draw_keeps ?_
    | with_reducible refine unresolved_keeps ?_
    | with_reducible refine raise_keeps ?_
    | with_reducible refine wideSat_keeps ?_
    | with_reducible refine decideDup_keeps ?_
    | with_reducible refine bumpBy_keeps ?_ ?_
    | with_reducible refine putPass_keeps ?_
    | with_reducible refine Keeps.foldl ?_ ?_
    | with_reducible refine Keeps.ite ?_ ?_
    | dsimp only
    | split

theorem execFineCheckResult_keeps {a : State} {z0 : Nat} {z1 : Word} {z2 : State} {u : State} (e : execFineCheckResult z0 z1 z2 = .next u) (h : Keeps a z2) :
    Keeps a u := by
  unfold execFineCheckResult at e
  injection e with e; subst e
  repeat' first
    | with_reducible assumption
    | exact rfl
    | with_reducible refine bump_keeps ?_ ?_
    | with_reducible refine forced_keeps ?_
    | with_reducible refine raise_keeps ?_
    | with_reducible refine modFace_keeps ?_
    | with_reducible refine Keeps.ite ?_ ?_
    | fail_if_no_progress with_reducible refine Keeps.mk ?_ rfl rfl rfl
    | dsimp only
    | split

theorem execEngineOpStart_keeps {a : State} {z0 : Nat} {z1 : Nat} {z2 : State} {u : State} (e : execEngineOpStart z0 z1 z2 = .next u) (h : Keeps a z2) :
    Keeps a u := by
  unfold execEngineOpStart at e
  injection e with e; subst e
  repeat' first
    | with_reducible assumption
    | with_reducible refine opStart_keeps ?_
    | with_reducible refine modFace_keeps ?_
    | with_reducible refine Keeps.ite ?_ ?_
    | split

theorem execEngineOpComplete_keeps {a : State} {z0 : Nat} {z1 : Nat} {z2 : Option Share} {z3 : List Nat} {z4 : State} {u : State} (e : execEngineOpComplete z0 z1 z2 z3 z4 = .next u) (h : Keeps a z4) :
    Keeps a u := by
  unfold execEngineOpComplete at e
  injection e with e; subst e
  repeat' first
    | with_reducible assumption
    | with_reducible refine opEffect_keeps ?_
    | with_reducible refine opDone_keeps ?_
    | with_reducible refine modFace_keeps ?_
    | with_reducible refine Keeps.ite ?_ ?_
    | dsimp only
    | split

theorem execMeshPacket_keeps {a : State} {z0 : Option Nat} {z1 : MPacket} {z2 : Option Nat} {z3 : List (Nat × Nat)} {z4 : List (Nat × Nat × Nat)}
    {z5 : Option (Nat × Nat × Nat × Nat)} {z6 : State} {u : State} (e : execMeshPacket z0 z1 z2 z3 z4 z5 z6 = .next u) (h : Keeps a z6) :
    Keeps a u := by
  unfold execMeshPacket at e
  injection e with e; subst e
  have moved : ∀ {p i bad ws t k}, z6.meshMove p i bad ws z2 z3 z4 = (t, k) → Keeps a t := by
    intro p i bad ws t k e
    have hm := meshMove_keeps (z1 := p) (z2 := i) (z3 := bad) (z4 := ws) (z5 := z2) (z6 := z3) (z7 := z4) h
    rw [e] at hm
    exact hm
  repeat' split
  all_goals first
    | exact h
    | (next e => exact Keeps.mk (moved e) rfl rfl rfl)
    | (next e => exact meshMark_keeps (moved e))
    | (next e => exact meshMark_keeps (Keeps.mk (moved e) rfl rfl rfl))

theorem execCalReq_keeps {a : State} {z0 : Nat} {z1 : Nat} {z2 : Bool} {z3 : Nat} {z4 : Bool} {z5 : State} {u : State} (e : execCalReq z0 z1 z2 z3 z4 z5 = .next u) (h : Keeps a z5) :
    Keeps a u := by
  unfold execCalReq at e
  injection e with e; subst e
  repeat' first
    | with_reducible assumption
    | intro _
    | exact rfl
    | with_reducible refine wrB_keeps ?_ ?_
    | with_reducible refine wr_keeps ?_ ?_
    | with_reducible refine laneCalStart_keeps ?_
    | with_reducible refine calRequest_keeps ?_
    | with_reducible refine Keeps.loop ?_ ?_
    | with_reducible refine Keeps.ite ?_ ?_

theorem execCalAge_keeps {a : State} {z0 : Nat} {z1 : Nat} {z2 : Option Nat} {z3 : State} {u : State} (e : execCalAge z0 z1 z2 z3 = .next u) (h : Keeps a z3) :
    Keeps a u := by
  unfold execCalAge at e
  injection e with e; subst e
  repeat' first
    | with_reducible assumption
    | with_reducible refine laneCalStart_keeps ?_
    | with_reducible refine calRequest_keeps ?_
    | with_reducible refine advance_keeps ?_
    | split

theorem execCalRetry_keeps {a : State} {z0 : Nat} {z1 : Nat} {z2 : State} {u : State} (e : execCalRetry z0 z1 z2 = .next u) (h : Keeps a z2) :
    Keeps a u := by
  unfold execCalRetry at e
  injection e with e; subst e
  repeat' first
    | with_reducible assumption
    | with_reducible refine calRequest_keeps ?_
    | with_reducible refine modCal_keeps ?_
    | with_reducible refine advance_keeps ?_
    | split

theorem execGatherClose_keeps {a : State} {z0 : Nat} {z1 : Nat} {z2 : State} {u : State} (e : execGatherClose z0 z1 z2 = .next u) (h : Keeps a z2) :
    Keeps a u := by
  unfold execGatherClose at e
  injection e with e; subst e
  repeat' first
    | with_reducible assumption
    | with_reducible refine modCal_keeps ?_
    | with_reducible refine Keeps.ite ?_ ?_

theorem execGatherTimeout_keeps {a : State} {z0 : Nat} {z1 : Nat} {z2 : State} {u : State} (e : execGatherTimeout z0 z1 z2 = .next u) (h : Keeps a z2) :
    Keeps a u := by
  unfold execGatherTimeout at e
  injection e with e; subst e
  repeat' first
    | with_reducible assumption
    | exact rfl
    | with_reducible refine modCal_keeps ?_
    | with_reducible refine advance_keeps ?_
    | with_reducible refine calPick_keeps ?_
    | with_reducible refine bump_keeps ?_ ?_
    | with_reducible refine wr_keeps ?_ ?_
    | with_reducible refine Keeps.ite ?_ ?_
    | dsimp only
    | split

theorem execCalFitDone_keeps {a : State} {z0 : Nat} {z1 : Nat} {z2 : Option (Nat × List (Nat × Nat))} {z3 : State} {u : State} (e : execCalFitDone z0 z1 z2 z3 = .next u) (h : Keeps a z3) :
    Keeps a u := by
  unfold execCalFitDone at e
  injection e with e; subst e
  repeat' first
    | with_reducible assumption
    | intro _
    | exact rfl
    | with_reducible refine laneCalDone_keeps ?_
    | with_reducible refine draw_keeps ?_
    | with_reducible refine modCal_keeps ?_
    | with_reducible refine wr_keeps ?_ ?_
    | with_reducible refine bump_keeps ?_ ?_
    | with_reducible refine raise_keeps ?_
    | with_reducible refine calApply_keeps ?_
    | with_reducible refine calPick_keeps ?_
    | with_reducible refine Keeps.foldl ?_ ?_
    | with_reducible refine Keeps.ite ?_ ?_
    | with_reducible refine free_ite ?_ ?_
    | dsimp only
    | split

theorem execMonitorWindowClose_keeps {a : State} {z0 : Nat} {z1 : Nat} {z2 : Nat} {z3 : Nat} {z4 : Bool} {z5 : State} {u : State} (e : execMonitorWindowClose z0 z1 z2 z3 z4 z5 = .next u) (h : Keeps a z5) :
    Keeps a u := by
  unfold execMonitorWindowClose at e
  injection e with e; subst e
  repeat' first
    | with_reducible assumption
    | intro _
    | exact rfl
    | with_reducible refine bump_keeps ?_ ?_
    | with_reducible refine noteFlags_keeps ?_
    | with_reducible refine raise_keeps ?_
    | with_reducible refine calRequest_keeps ?_
    | with_reducible refine Keeps.foldl ?_ ?_
    | with_reducible refine Keeps.ite ?_ ?_
    | fail_if_no_progress with_reducible refine Keeps.mk ?_ rfl rfl rfl
    | dsimp only
    | split

theorem execTourStart_keeps {a : State} {z0 : State} {u : State} (e : execTourStart z0 = .next u) (h : Keeps a z0) :
    Keeps a u := by
  unfold execTourStart at e
  injection e with e; subst e
  repeat' first
    | with_reducible assumption
    | intro _
    | with_reducible refine advance_keeps ?_
    | with_reducible refine tourNext_keeps ?_
    | with_reducible refine Keeps.loop ?_ ?_
    | with_reducible refine Keeps.ite ?_ ?_
    | fail_if_no_progress with_reducible refine Keeps.mk ?_ rfl rfl rfl

theorem execDwellFit_keeps {a : State} {z0 : Nat} {z1 : Nat} {z2 : Option Nat} {z3 : State} {u : State} (e : execDwellFit z0 z1 z2 z3 = .next u) (h : Keeps a z3) :
    Keeps a u := by
  unfold execDwellFit at e
  injection e with e; subst e
  repeat' first
    | with_reducible assumption
    | intro _
    | with_reducible refine schedule_keeps ?_ ?_
    | with_reducible refine fitApply_keeps ?_
    | with_reducible refine dropCheck_keeps ?_
    | with_reducible refine raise_keeps ?_
    | with_reducible refine Keeps.ite ?_ ?_
    | split

theorem execDwellEnd_keeps {a : State} {z0 : Nat} {z1 : Nat} {z2 : State} {u : State} (e : execDwellEnd z0 z1 z2 = .next u) (h : Keeps a z2) :
    Keeps a u := by
  unfold execDwellEnd at e
  injection e with e; subst e
  repeat' first
    | with_reducible assumption
    | intro _
    | with_reducible refine advance_keeps ?_
    | with_reducible refine schedule_keeps ?_ ?_
    | with_reducible refine tourSwitch_keeps ?_
    | with_reducible refine Keeps.ite ?_ ?_
    | fail_if_no_progress with_reducible refine Keeps.mk ?_ rfl rfl rfl

theorem execWriteVerifyDone_keeps {a : State} {z0 : Nat} {z1 : Nat} {z2 : Nat} {z3 : Bool} {z4 : List (Nat × Nat)} {z5 : State} {u : State} (e : execWriteVerifyDone z0 z1 z2 z3 z4 z5 = .next u) (h : Keeps a z5) :
    Keeps a u := by
  unfold execWriteVerifyDone at e
  injection e with e; subst e
  repeat' first
    | with_reducible assumption
    | with_reducible refine repairs_keeps ?_
    | with_reducible refine wear_keeps ?_
    | with_reducible refine tourWritten_keeps ?_
    | with_reducible refine jobGood_keeps ?_
    | with_reducible refine jobBad_keeps ?_
    | with_reducible refine discardEnd_keeps ?_
    | with_reducible refine buildEnd_keeps ?_
    | with_reducible refine grantWrites_keeps ?_
    | with_reducible refine Keeps.ite ?_ ?_
    | fail_if_no_progress with_reducible refine Keeps.mk ?_ rfl rfl rfl
    | dsimp only
    | split

theorem execPinEvaluation_keeps {a : State} {z0 : Nat} {z1 : State} {u : State} (e : execPinEvaluation z0 z1 = .next u) (h : Keeps a z1) :
    Keeps a u := by
  unfold execPinEvaluation at e
  injection e with e; subst e
  repeat' first
    | with_reducible assumption
    | intro _
    | exact rfl
    | with_reducible refine modFace_keeps ?_
    | with_reducible refine wr_keeps ?_ ?_
    | with_reducible refine raise_keeps ?_
    | with_reducible refine bump_keeps ?_ ?_
    | with_reducible refine Keeps.loop ?_ ?_
    | with_reducible refine Keeps.ite ?_ ?_

theorem execFaultRecordProcess_keeps {a : State} {z0 : Nat} {z3 z4 z5 z6 : Bool} {z7 : State} {u : State}
    (e : execFaultRecordProcess z0 z3 z4 z5 z6 z7 = .next u) (h : Keeps a z7) : Keeps a u := by
  unfold execFaultRecordProcess at e
  injection e with e; subst e
  split
  · exact h
  · next r rest hq =>
    have drop : ∀ {s : State}, Keeps a s → s.faultq = r :: rest → Keeps a { s with faultq := rest } := fun hs he =>
      hs.faultq rest (fun k => by rw [he] at k; exact Nat.le_of_succ_le k)
    split
    · exact h
    · split
      · exact ringGuard_keeps (wr_keeps (drop h hq)) (fun _ k => k)
      · extract_lets s t hit hh cls near v1 m x v w
        have hs : Keeps a s := wr_keeps h
        have ht : Keeps a t := wr_keeps (drop hs hq)
        clear_value t hit
        split
        · exact logError_keeps ht
        · have h1 : Keeps a hh.1 := by
            show Keeps a (if r.counts = true then t.history r else (t, false, false)).1
            exact Keeps.ite_fst (history_keeps ht) ht
          clear_value hh cls
          split
          · exact logError_keeps h1
          · have hn : Keeps a near.1 := tempNear_keeps h1
            have h2 : Keeps a v1 := Keeps.ite (schedule_keeps hn (fun _ k => unitAction_keeps k)) hn
            clear_value v1 m x
            have h3 : Keeps a v.1 := logWrite_keeps h2
            have h4 : Keeps a w := Keeps.ite (nvPut_keeps h3) h3
            clear_value w v
            exact Keeps.ite (logError_keeps h4) (wr_keeps (hostRing_keeps h4))

theorem execHistQuery_keeps {a : State} {z0 : Nat} {z1 : State} {u : State} (e : execHistQuery z0 z1 = .next u) (h : Keeps a z1) :
    Keeps a u := by
  unfold execHistQuery at e
  injection e with e; subst e
  repeat' first
    | with_reducible assumption
    | exact rfl
    | with_reducible refine wr_keeps ?_ ?_
    | with_reducible refine wrB_keeps ?_ ?_

theorem execHistClear_keeps {a : State} {z0 : Nat} {z1 : Bool} {z2 : State} {u : State} (e : execHistClear z0 z1 z2 = .next u) (h : Keeps a z2) :
    Keeps a u := by
  unfold execHistClear at e
  injection e with e; subst e
  repeat' first
    | with_reducible assumption
    | exact rfl
    | with_reducible refine wr_keeps ?_ ?_
    | with_reducible refine noteHist_keeps ?_
    | with_reducible refine Keeps.ite ?_ ?_
    | fail_if_no_progress with_reducible refine Keeps.mk ?_ rfl rfl rfl

theorem execHistClearAll_keeps {a : State} {z0 : Bool} {z1 : State} {u : State} (e : execHistClearAll z0 z1 = .next u) (h : Keeps a z1) :
    Keeps a u := by
  unfold execHistClearAll at e
  injection e with e; subst e
  split
  · have h1 : Keeps a { z1 with nvLog := [] } := h.nvLog [] (fun _ => Nat.zero_le _)
    have h2 : Keeps a { z1 with hist := [], nvLog := [] } := Keeps.mk h1 rfl rfl rfl
    exact Keeps.loop (noteHist_keeps h2) (fun _ _ k => wr_keeps k)
  · exact h

theorem execLogRead_keeps {a : State} {z0 : Nat} {z1 : State} {u : State} (e : execLogRead z0 z1 = .next u) (h : Keeps a z1) :
    Keeps a u := by
  unfold execLogRead at e
  injection e with e; subst e
  repeat' first
    | with_reducible assumption
    | intro _
    | exact rfl
    | with_reducible refine wr_keeps ?_ ?_
    | with_reducible refine hbmRead_keeps ?_
    | with_reducible refine setReg_keeps ?_ ?_
    | with_reducible refine Keeps.loop ?_ ?_
    | with_reducible refine Keeps.ite ?_ ?_

theorem execInjArm_keeps {a : State} {z0 : Nat} {z1 : Word} {z2 : Word} {z3 : Nat} {z4 : State} {u : State} (e : execInjArm z0 z1 z2 z3 z4 = .next u) (h : Keeps a z4) :
    Keeps a u := by
  unfold execInjArm at e
  injection e with e; subst e
  repeat' first
    | with_reducible assumption
    | with_reducible refine writeInj_keeps ?_

theorem execProbeStep_keeps {a : State} {z0 : Nat} {z1 : Nat} {z2 : List (Nat × List Word)} {z3 : State} {u : State} (e : execProbeStep z0 z1 z2 z3 = .next u) (h : Keeps a z3) :
    Keeps a u := by
  unfold execProbeStep at e
  injection e with e; subst e
  repeat' first
    | with_reducible assumption
    | exact rfl
    | with_reducible refine modFace_keeps ?_
    | with_reducible refine bump_keeps ?_ ?_
    | with_reducible refine wr_keeps ?_ ?_
    | with_reducible refine bumpBy_keeps ?_ ?_
    | with_reducible refine raise_keeps ?_
    | with_reducible refine Keeps.ite ?_ ?_
    | fail_if_no_progress with_reducible refine Keeps.mk ?_ rfl rfl rfl
    | dsimp only
    | split

theorem execWimgOpen_keeps {a : State} {z0 : ImgOpen} {z1 : State} {u : State} (e : execWimgOpen z0 z1 = .next u) (h : Keeps a z1) :
    Keeps a u := by
  unfold execWimgOpen at e
  injection e with e; subst e
  repeat' first
    | with_reducible assumption
    | with_reducible refine imageRefused_keeps ?_
    | with_reducible refine openImage_keeps ?_
    | with_reducible refine Keeps.ite ?_ ?_

theorem execWimgDiscard_keeps {a : State} {z0 : State} {u : State} (e : execWimgDiscard z0 = .next u) (h : Keeps a z0) :
    Keeps a u := by
  unfold execWimgDiscard at e
  injection e with e; subst e
  repeat' first
    | with_reducible assumption
    | with_reducible refine discard_keeps ?_
    | with_reducible refine Keeps.ite ?_ ?_
    | fail_if_no_progress with_reducible refine Keeps.mk ?_ rfl rfl rfl

theorem execSectionStaged_keeps {a : State} {z0 : Nat} {z1 : List Word} {z2 : SecData} {z3 : State} {u : State} (e : execSectionStaged z0 z1 z2 z3 = .next u) (h : Keeps a z3) :
    Keeps a u := by
  unfold execSectionStaged at e
  injection e with e; subst e
  repeat' first
    | with_reducible assumption
    | intro _
    | with_reducible refine sendLoad_keeps ?_
    | with_reducible refine hbmWords_keeps ?_
    | with_reducible refine stagedWords_keeps ?_
    | with_reducible refine openRefused_keeps ?_
    | with_reducible refine takeManifest_keeps ?_
    | with_reducible refine stagedCheck_keeps ?_
    | with_reducible refine Keeps.foldl ?_ ?_
    | with_reducible refine Keeps.ite ?_ ?_
    | fail_if_no_progress with_reducible refine Keeps.mk ?_ rfl rfl rfl
    | dsimp only
    | split

theorem execLoadParcel_keeps {a : State} {z0 : Nat} {z1 : Parcel} {z2 : Option ImgOpen} {z3 : State} {u : State} (e : execLoadParcel z0 z1 z2 z3 = .next u) (h : Keeps a z3) :
    Keeps a u := by
  unfold execLoadParcel at e
  injection e with e; subst e
  repeat' first
    | with_reducible assumption
    | exact rfl
    | with_reducible refine bump_keeps ?_ ?_
    | with_reducible refine forwardParcel_keeps ?_
    | with_reducible refine openImage_keeps ?_
    | with_reducible refine hbmWords_keeps ?_
    | with_reducible refine Keeps.ite ?_ ?_
    | fail_if_no_progress with_reducible refine Keeps.mk ?_ rfl rfl rfl
    | dsimp only
    | split

theorem execPut_keeps {a : State} {z0 : State} {u : State} (e : execPut z0 = .next u) (h : Keeps a z0) :
    Keeps a u := by
  unfold execPut at e
  injection e with e; subst e
  repeat' first
    | with_reducible assumption
    | exact rfl
    | with_reducible refine msix_keeps ?_
    | with_reducible refine wr_keeps ?_ ?_
    | fail_if_no_progress with_reducible refine Keeps.mk ?_ rfl rfl rfl
    | dsimp only
    | split

theorem execPutDone_keeps {a : State} {z0 : List Word} {z1 : State} {u : State} (e : execPutDone z0 z1 = .next u) (h : Keeps a z1) :
    Keeps a u := by
  unfold execPutDone at e
  injection e with e; subst e
  repeat' first
    | with_reducible assumption
    | exact rfl
    | with_reducible refine msix_keeps ?_
    | with_reducible refine wr_keeps ?_ ?_
    | with_reducible refine hbmWords_keeps ?_
    | fail_if_no_progress with_reducible refine Keeps.mk ?_ rfl rfl rfl
    | dsimp only
    | split

theorem execBuild_keeps {a : State} {z0 : State} {u : State} (e : execBuild z0 = .next u) (h : Keeps a z0) :
    Keeps a u := by
  unfold execBuild at e
  injection e with e; subst e
  repeat' first
    | with_reducible assumption
    | intro _
    | exact rfl
    | with_reducible refine imageRefused_keeps ?_
    | with_reducible refine restoreLost_keeps ?_
    | with_reducible refine buildSet_keeps ?_
    | with_reducible refine wr_keeps ?_ ?_
    | with_reducible refine writeFine_keeps ?_
    | with_reducible refine buildEnd_keeps ?_
    | with_reducible refine grantWrites_keeps ?_
    | with_reducible refine Keeps.foldl ?_ ?_
    | with_reducible refine Keeps.loop ?_ ?_
    | with_reducible refine Keeps.ite ?_ ?_
    | fail_if_no_progress with_reducible refine Keeps.mk ?_ rfl rfl rfl
    | dsimp only
    | split

theorem execCutReq_keeps {a : State} {z0 : State} {u : State} (e : execCutReq z0 = .next u) (h : Keeps a z0) :
    Keeps a u := by
  unfold execCutReq at e
  injection e with e; subst e
  repeat' first
    | with_reducible assumption
    | exact rfl
    | with_reducible refine wr_keeps ?_ ?_

theorem execBackgroundRead_keeps {a : State} {z0 : Nat} {z1 : Nat} {z2 : Nat} {z3 : List (Nat × Nat)} {z4 : List Nat} {z5 : State} {u : State} (e : execBackgroundRead z0 z1 z2 z3 z4 z5 = .next u) (h : Keeps a z5) :
    Keeps a u := by
  unfold execBackgroundRead at e
  injection e with e; subst e
  repeat' first
    | with_reducible assumption
    | intro _
    | exact rfl
    | with_reducible refine modArr_keeps ?_
    | with_reducible refine digestNow_keeps ?_
    | with_reducible refine wr_keeps ?_ ?_
    | with_reducible refine schedule_keeps ?_ ?_
    | with_reducible refine lose_keeps ?_
    | with_reducible refine setReady_keeps ?_
    | with_reducible refine startRetire_keeps ?_
    | with_reducible refine Keeps.ite ?_ ?_
    | dsimp only
    | split

theorem execTally_keeps {a : State} {z0 : Nat} {z1 : Nat} {z2 : Nat} {z3 : Nat} {z4 : Nat} {z5 : Nat} {z6 : List Word} {z7 : List Word} {z8 : State} {u : State} (e : execTally z0 z1 z2 z3 z4 z5 z6 z7 z8 = .next u) (h : Keeps a z8) :
    Keeps a u := by
  unfold execTally at e
  injection e with e; subst e
  repeat' first
    | with_reducible assumption
    | with_reducible refine forwardCtl_keeps ?_
    | with_reducible refine tallyReport_keeps ?_
    | with_reducible refine Keeps.ite ?_ ?_

theorem execTallySnapshot_keeps {a : State} {z0 : State} {u : State} (e : execTallySnapshot z0 = .next u) (h : Keeps a z0) :
    Keeps a u := by
  unfold execTallySnapshot at e
  injection e with e; subst e
  repeat' first
    | with_reducible assumption
    | intro _
    | with_reducible refine tallyLayer_keeps ?_
    | with_reducible refine Keeps.loop ?_ ?_
    | with_reducible refine Keeps.ite ?_ ?_
    | fail_if_no_progress with_reducible refine Keeps.mk ?_ rfl rfl rfl

theorem execRestore_keeps {a : State} {z0 : State} {u : State} (e : execRestore z0 = .next u) (h : Keeps a z0) :
    Keeps a u := by
  unfold execRestore at e
  injection e with e; subst e
  repeat' first
    | with_reducible assumption
    | exact rfl
    | with_reducible refine wr_keeps ?_ ?_
    | split

theorem execRestoreDone_keeps {a : State} {z0 : State} {u : State} (e : execRestoreDone z0 = .next u) (h : Keeps a z0) :
    Keeps a u := by
  unfold execRestoreDone at e
  injection e with e; subst e
  repeat' first
    | with_reducible assumption
    | exact rfl
    | with_reducible refine msix_keeps ?_
    | with_reducible refine wr_keeps ?_ ?_
    | with_reducible refine putBack_keeps ?_
    | with_reducible refine Keeps.ite ?_ ?_

theorem execProgramLoad_keeps {a : State} {z0 : Nat} {z1 : State} {u : State} (e : execProgramLoad z0 z1 = .next u) (h : Keeps a z1) :
    Keeps a u := by
  unfold execProgramLoad at e
  injection e with e; subst e
  repeat' first
    | with_reducible assumption
    | with_reducible refine progRefuse_keeps ?_
    | with_reducible refine modFace_keeps ?_
    | with_reducible refine setProg_keeps ?_
    | with_reducible refine dropReq_keeps ?_
    | with_reducible refine Keeps.ite ?_ ?_

theorem execProgramLoadDone_keeps {a : State} {z0 : Nat} {z1 : List Word} {z2 z3 : Bool} {z4 : State} {u : State}
    (e : execProgramLoadDone z0 z1 z2 z3 z4 = .next u) (h : Keeps a z4) : Keeps a u := by
  unfold execProgramLoadDone at e
  extract_lets n s0 inj t bad t1 at e
  injection e with e; subst e
  refine Keeps.ite h ?_
  have h1 : Keeps a t := inject_getD_keeps (modFace_keeps h)
  have h2 : Keeps a t1 := Keeps.ite (raise_keeps h1) h1
  clear_value t1
  split
  · exact setProg_keeps (progRefuse_keeps h2)
  · exact setProg_keeps h2

theorem execProgramActivate_keeps {a : State} {z0 : Nat} {z1 : State} {u : State} (e : execProgramActivate z0 z1 = .next u) (h : Keeps a z1) :
    Keeps a u := by
  unfold execProgramActivate at e
  injection e with e; subst e
  repeat' first
    | with_reducible assumption
    | with_reducible refine progRequest_keeps ?_
    | with_reducible refine progRefuse_keeps ?_
    | with_reducible refine Keeps.ite ?_ ?_

theorem execProgramHold_keeps {a : State} {z0 : Nat} {z1 : State} {u : State} (e : execProgramHold z0 z1 = .next u) (h : Keeps a z1) :
    Keeps a u := by
  unfold execProgramHold at e
  injection e with e; subst e
  repeat' first
    | with_reducible assumption
    | with_reducible refine progRequest_keeps ?_
    | with_reducible refine progRefuse_keeps ?_
    | with_reducible refine Keeps.ite ?_ ?_

theorem execProgramUnload_keeps {a : State} {z0 : Nat} {z1 : State} {u : State} (e : execProgramUnload z0 z1 = .next u) (h : Keeps a z1) :
    Keeps a u := by
  unfold execProgramUnload at e
  injection e with e; subst e
  repeat' first
    | with_reducible assumption
    | with_reducible refine setProg_keeps ?_
    | with_reducible refine dropReq_keeps ?_
    | with_reducible refine progRefuse_keeps ?_
    | with_reducible refine Keeps.ite ?_ ?_

theorem execHostCall_keeps {a : State} {z0 : Nat} {z1 : State} {u : State} (e : execHostCall z0 z1 = .next u) (h : Keeps a z1) :
    Keeps a u := by
  unfold execHostCall at e
  injection e with e; subst e
  repeat' first
    | with_reducible assumption
    | intro _
    | exact rfl
    | with_reducible refine ringGuard_keeps ?_ ?_
    | with_reducible refine wr_keeps ?_ ?_
    | with_reducible refine Keeps.ite ?_ ?_

theorem execPwrDomReq_keeps {a : State} {z0 : Word} {z1 : Bool} {z2 : State} {u : State} (e : execPwrDomReq z0 z1 z2 = .next u) (h : Keeps a z2) :
    Keeps a u := by
  unfold execPwrDomReq at e
  injection e with e; subst e
  repeat' first
    | with_reducible assumption
    | intro _
    | with_reducible refine orNow_keeps ?_ ?_
    | with_reducible refine domWrite_keeps ?_
    | with_reducible refine bdyPower_keeps ?_
    | with_reducible refine Keeps.loop ?_ ?_

theorem execDomainChangeDone_keeps {a : State} {z0 : Nat} {z1 : Nat} {z2 : Bool} {z3 : State} {u : State} (e : execDomainChangeDone z0 z1 z2 z3 = .next u) (h : Keeps a z3) :
    Keeps a u := by
  unfold execDomainChangeDone at e
  injection e with e; subst e
  repeat' first
    | with_reducible assumption
    | exact rfl
    | with_reducible refine domNext_keeps ?_
    | with_reducible refine modPower_keeps ?_
    | with_reducible refine bump_keeps ?_ ?_
    | with_reducible refine wr_keeps ?_ ?_
    | with_reducible refine domOnEffects_keeps ?_
    | with_reducible refine wrB_keeps ?_ ?_
    | with_reducible refine msix_keeps ?_
    | with_reducible refine Keeps.ite ?_ ?_
    | dsimp only
    | split

theorem execThermalTrip_keeps {a : State} {z0 : Nat} {z1 : State} {u : State} (e : execThermalTrip z0 z1 = .next u) (h : Keeps a z1) :
    Keeps a u := by
  unfold execThermalTrip at e
  injection e with e; subst e
  repeat' first
    | with_reducible assumption
    | with_reducible refine modPower_keeps ?_
    | with_reducible refine thermTrip_keeps ?_
    | with_reducible refine Keeps.ite ?_ ?_

theorem execDroop_keeps {a : State} {z0 : Nat} {z1 : Bool} {z2 : Nat} {z3 : State} {u : State} (e : execDroop z0 z1 z2 z3 = .next u) (h : Keeps a z3) :
    Keeps a u := by
  unfold execDroop at e
  injection e with e; subst e
  repeat' first
    | with_reducible assumption
    | with_reducible refine droopEntry_keeps ?_
    | with_reducible refine Keeps.ite ?_ ?_

theorem execDroopRecover_keeps {a : State} {z0 : Nat} {z1 : Nat} {z2 : State} {u : State} (e : execDroopRecover z0 z1 z2 = .next u) (h : Keeps a z2) :
    Keeps a u := by
  unfold execDroopRecover at e
  injection e with e; subst e
  repeat' first
    | with_reducible assumption
    | exact rfl
    | with_reducible refine modPower_keeps ?_
    | with_reducible refine bumpBy_keeps ?_ ?_
    | with_reducible refine Keeps.ite ?_ ?_

theorem execSelfcal_keeps {a : State} {z0 : State} {u : State} (e : execSelfcal z0 = .next u) (h : Keeps a z0) :
    Keeps a u := by
  unfold execSelfcal at e
  injection e with e; subst e
  repeat' first
    | with_reducible assumption
    | exact rfl
    | with_reducible refine wr_keeps ?_ ?_
    | with_reducible refine modPower_keeps ?_
    | with_reducible refine Keeps.ite ?_ ?_

theorem execRefReady_keeps {a : State} {z0 : State} {u : State} (e : execRefReady z0 = .next u) (h : Keeps a z0) :
    Keeps a u := by
  unfold execRefReady at e
  injection e with e; subst e
  repeat' first
    | with_reducible assumption
    | exact rfl
    | with_reducible refine wr_keeps ?_ ?_
    | with_reducible refine modPower_keeps ?_
    | with_reducible refine Keeps.ite ?_ ?_

theorem execSelfcalDone_keeps {a : State} {z0 : List (Nat × Nat)} {z1 : State} {u : State} (e : execSelfcalDone z0 z1 = .next u) (h : Keeps a z1) :
    Keeps a u := by
  unfold execSelfcalDone at e
  injection e with e; subst e
  repeat' first
    | with_reducible assumption
    | intro _
    | exact rfl
    | with_reducible refine wr_keeps ?_ ?_
    | with_reducible refine Keeps.loop ?_ ?_
    | with_reducible refine Keeps.ite ?_ ?_

theorem execHousekeepingRound_keeps {a : State} {z0 : Nat} {z1 : List (Nat × Bool)} {z2 : List (Nat × Int)} {z3 : List Nat} {z4 : List Nat} {z5 : State} {u : State} (e : execHousekeepingRound z0 z1 z2 z3 z4 z5 = .next u) (h : Keeps a z5) :
    Keeps a u := by
  unfold execHousekeepingRound at e
  injection e with e; subst e
  repeat' first
    | with_reducible assumption
    | intro _
    | exact rfl
    | with_reducible refine modPower_keeps ?_
    | with_reducible refine bump_keeps ?_ ?_
    | with_reducible refine railRound_keeps ?_
    | with_reducible refine writeResults_keeps ?_
    | with_reducible refine sensorRound_keeps ?_
    | with_reducible refine noteVcore_keeps ?_
    | with_reducible refine govern_keeps ?_
    | with_reducible refine heatRound_keeps ?_
    | with_reducible refine domNext_keeps ?_
    | with_reducible refine calTriggers_keeps ?_
    | with_reducible refine orNow_keeps ?_ ?_
    | with_reducible refine bdyLevels_keeps ?_
    | with_reducible refine grantWrites_keeps ?_
    | with_reducible refine thermTrip_keeps ?_
    | with_reducible refine Keeps.foldl ?_ ?_
    | with_reducible refine Keeps.ite ?_ ?_
    | dsimp only
    | split

theorem execVprogLoss_keeps {a : State} {z0 : State} {u : State} (e : execVprogLoss z0 = .next u) (h : Keeps a z0) :
    Keeps a u := by
  unfold execVprogLoss at e
  injection e with e; subst e
  repeat' first
    | with_reducible assumption
    | with_reducible refine discardEnd_keeps ?_
    | with_reducible refine buildEnd_keeps ?_
    | with_reducible refine noteSlots_keeps ?_
    | fail_if_no_progress with_reducible refine Keeps.mk ?_ rfl rfl rfl

theorem execSpPatrol_keeps {a : State} {z0 : Nat} {z1 : Nat} {z2 : List (Nat × Nat)} {z3 : Bool} {z4 : State} {u : State} (e : execSpPatrol z0 z1 z2 z3 z4 = .next u) (h : Keeps a z4) :
    Keeps a u := by
  unfold execSpPatrol at e
  injection e with e; subst e
  repeat' first
    | with_reducible assumption
    | intro _
    | exact rfl
    | with_reducible refine modFace_keeps ?_
    | with_reducible refine bump_keeps ?_ ?_
    | with_reducible refine raise_keeps ?_
    | with_reducible refine wr_keeps ?_ ?_
    | with_reducible refine Keeps.loop ?_ ?_
    | with_reducible refine Keeps.ite ?_ ?_

theorem execHbmPatrol_keeps {a : State} {z0 : Nat} {z1 : Nat} {z2 : List (Nat × Nat)} {z3 : List (Nat × Nat)} {z4 : Bool} {z5 : State} {u : State} (e : execHbmPatrol z0 z1 z2 z3 z4 z5 = .next u) (h : Keeps a z5) :
    Keeps a u := by
  unfold execHbmPatrol at e
  injection e with e; subst e
  repeat' first
    | with_reducible assumption
    | intro _
    | exact rfl
    | with_reducible refine setGran_keeps ?_
    | with_reducible refine patrolGran_keeps ?_
    | with_reducible refine patrolMeta_keeps ?_
    | with_reducible refine wr_keeps ?_ ?_
    | with_reducible refine Keeps.foldl ?_ ?_
    | with_reducible refine Keeps.loop ?_ ?_
    | with_reducible refine Keeps.ite ?_ ?_
    | fail_if_no_progress with_reducible refine Keeps.mk ?_ rfl rfl rfl

theorem execRotate_keeps {a : State} {z0 : State} {u : State} (e : execRotate z0 = .next u) (h : Keeps a z0) :
    Keeps a u := by
  unfold execRotate at e
  injection e with e; subst e
  repeat' first
    | with_reducible assumption
    | intro _
    | exact rfl
    | with_reducible refine wr_keeps ?_ ?_
    | with_reducible refine orNow_keeps ?_ ?_
    | with_reducible refine modKey_keeps ?_ ?_
    | with_reducible refine bdyRotate_keeps ?_
    | with_reducible refine Keeps.ite ?_ ?_

theorem execSweepSegment_keeps {a : State} {z0 : Nat} {z1 : Nat} {z2 : Option (Nat × Nat × Nat × Share)} {z3 : State} {u : State} (e : execSweepSegment z0 z1 z2 z3 = .next u) (h : Keeps a z3) :
    Keeps a u := by
  unfold execSweepSegment at e
  injection e with e; subst e
  repeat' first
    | with_reducible assumption
    | intro _
    | exact rfl
    | with_reducible refine bumpBy_keeps ?_ ?_
    | with_reducible refine sweepGran_keeps ?_
    | with_reducible refine modKey_keeps ?_ ?_
    | with_reducible refine wr_keeps ?_ ?_
    | with_reducible refine passShare_keeps ?_
    | with_reducible refine Keeps.loop ?_ ?_
    | with_reducible refine Keeps.ite ?_ ?_
    | dsimp only
    | split

theorem execSessionOpen_keeps {a : State} {z0 : State} {u : State} (e : execSessionOpen z0 = .next u) (h : Keeps a z0) :
    Keeps a u := by
  unfold execSessionOpen at e
  injection e with e; subst e
  repeat' first
    | with_reducible assumption
    | intro _
    | exact rfl
    | with_reducible refine sessionRefuse_keeps ?_
    | with_reducible refine orNow_keeps ?_ ?_
    | with_reducible refine modKey_keeps ?_ ?_
    | with_reducible refine wr_keeps ?_ ?_
    | with_reducible refine bdyKeys_keeps ?_
    | with_reducible refine Keeps.ite ?_ ?_

theorem execSessionRelease_keeps {a : State} {z0 : State} {u : State} (e : execSessionRelease z0 = .next u) (h : Keeps a z0) :
    Keeps a u := by
  unfold execSessionRelease at e
  injection e with e; subst e
  repeat' first
    | with_reducible assumption
    | with_reducible refine requestRelease_keeps ?_

theorem execReleaseScrubDone_keeps {a : State} {z0 : List (Nat × Nat)} {z1 : State} {u : State} (e : execReleaseScrubDone z0 z1 = .next u) (h : Keeps a z1) :
    Keeps a u := by
  unfold execReleaseScrubDone at e
  injection e with e; subst e
  repeat' first
    | with_reducible assumption
    | intro _
    | exact rfl
    | with_reducible refine scrubFail_keeps ?_
    | with_reducible refine scrubInject_keeps ?_
    | with_reducible refine scrubHbm_keeps ?_
    | with_reducible refine releaseEnd_keeps ?_
    | with_reducible refine wr_keeps ?_ ?_
    | with_reducible refine releaseFaces_keeps ?_
    | with_reducible refine Keeps.foldl ?_ ?_
    | with_reducible refine Keeps.ite ?_ ?_

theorem execMgmtHandshake_keeps {a : State} {z0 : Nat} {z1 : Option Nat} {z2 : Bool} {z3 : State} {u : State} (e : execMgmtHandshake z0 z1 z2 z3 = .next u) (h : Keeps a z3) :
    Keeps a u := by
  unfold execMgmtHandshake at e
  injection e with e; subst e
  repeat' first
    | with_reducible assumption
    | exact rfl
    | with_reducible refine bump_keeps ?_ ?_
    | with_reducible refine setMsess_keeps ?_
    | with_reducible refine Keeps.ite ?_ ?_

theorem execMgmtRetransmit_keeps {a : State} {z0 : Nat} {z1 : State} {u : State} (e : execMgmtRetransmit z0 z1 = .next u) (h : Keeps a z1) :
    Keeps a u := by
  unfold execMgmtRetransmit at e
  injection e with e; subst e
  repeat' first
    | with_reducible assumption
    | with_reducible refine setMsess_keeps ?_
    | with_reducible refine emit_keeps ?_
    | with_reducible refine Keeps.ite ?_ ?_
    | split

theorem execMgmtIdleTimeout_keeps {a : State} {z0 : Nat} {z1 : State} {u : State} (e : execMgmtIdleTimeout z0 z1 = .next u) (h : Keeps a z1) :
    Keeps a u := by
  unfold execMgmtIdleTimeout at e
  injection e with e; subst e
  repeat' first
    | with_reducible assumption
    | with_reducible refine setMsess_keeps ?_
    | with_reducible refine advance_keeps ?_
    | with_reducible refine Keeps.ite ?_ ?_

theorem execReadLog_keeps {a : State} {z0 : Nat} {z1 : Nat} {z2 : Nat} {z3 : Nat} {z4 : State} {u : State} (e : execReadLog z0 z1 z2 z3 z4 = .next u) (h : Keeps a z4) :
    Keeps a u := by
  unfold execReadLog at e
  injection e with e; subst e
  repeat' first
    | with_reducible assumption
    | (with_reducible refine mgmtOp_keeps (by assumption) ?_; intro _ _ _ _ _ e; (try dsimp only at e); (repeat' split at e) <;> first | (injection e with e; subst e) | injection e)
    | with_reducible refine readLog_keeps ?_

/-- `t`, reached from `a`, has its queue; from a sound state it is sound and has not gone back: what every command keeps. -/
def Goes (a t : State) : Prop := t.pending = a.pending ∧ (a.Sound → t.Sound ∧ a.Onward t)

theorem Keeps.goes {a t : State} (h : Keeps a t) : Goes a t := ⟨h.1, h.2.2.2⟩

theorem Goes.trans {a s t : State} (h : Goes a s) (k : Goes s t) : Goes a t :=
  ⟨k.1.trans h.1, fun x =>
    let y := h.2 x
    let z := k.2 y.1
    ⟨z.1, ⟨Nat.le_trans y.2.1 z.2.1, Nat.le_trans y.2.2 z.2.2, Nat.le_trans y.2.3 z.2.3⟩⟩⟩

theorem mgmtOp_goes {a s : State} {i acks code : Nat} {may : Bool} {g : State → Option (State × List Nat)} (h : Keeps a s)
    (hg : ∀ t r, Keeps a t → g t = some r → Goes a r.1) : Goes a (s.mgmtOp i acks code may g) := by
  unfold State.mgmtOp
  dsimp only
  have ht := mgmtTake_keeps (z1 := i) (z2 := acks) h
  split
  · split
    · next r e => exact (hg _ r ht e).trans (mgmtSend_keeps Keeps.rfl').goes
    · exact (mgmtSend_keeps ht).goes
  · exact (mgmtSend_keeps ht).goes

theorem setOps_goes {s : State} {xs : List Nat} (hx : s.Sound → xs.length ≤ 2) : Goes s (s.setOps xs) := by
  have h1 : Goes s { s with mgmt := { s.mgmt with ops := xs, used := true } } :=
    ⟨rfl, fun y => ⟨⟨y.regs, y.faces, y.hbm, y.faultq, y.nvLog, hx y, y.keys, y.fuses, y.life⟩, ⟨Nat.le_refl _, Nat.le_refl _, Nat.le_refl _⟩⟩⟩
  exact h1.trans (wrB_keeps Keeps.rfl').goes

theorem setImgKeys_goes {s : State} {xs : List ImgKey} (hx : s.Sound → xs.length ≤ 8) : Goes s (s.setImgKeys xs) := by
  have h1 : Goes s { s with imgKeys := xs } :=
    ⟨rfl, fun y => ⟨⟨y.regs, y.faces, y.hbm, y.faultq, y.nvLog, y.ops, hx y, y.fuses, y.life⟩, ⟨Nat.le_refl _, Nat.le_refl _, Nat.le_refl _⟩⟩⟩
  exact h1.trans (wr_keeps Keeps.rfl').goes

theorem execEnrollOp_goes {a s u : State} {i acks cred : Nat} (e : execEnrollOp i acks cred s = .next u) (h : Keeps a s) : Goes a u := by
  unfold execEnrollOp at e
  injection e with e; subst e
  refine mgmtOp_goes h (fun t r ht e => ?_)
  split at e
  · injection e
  · next hc =>
    injection e with e; subst e
    refine ht.goes.trans (setOps_goes (fun _ => ?_))
    simp only [List.length_append, List.length_cons, List.length_nil]
    omega

theorem execRevokeOp_goes {a s u : State} {i acks cred : Nat} (e : execRevokeOp i acks cred s = .next u) (h : Keeps a s) : Goes a u := by
  unfold execRevokeOp at e
  injection e with e; subst e
  refine mgmtOp_goes h (fun t r ht e => ?_)
  split at e
  · injection e
  · injection e with e; subst e
    exact ht.goes.trans (setOps_goes (fun x => Nat.le_trans List.length_erase_le x.ops))

theorem execEnrollImgkey_goes {a s u : State} {i acks key x y : Nat} (e : execEnrollImgkey i acks key x y s = .next u) (h : Keeps a s) :
    Goes a u := by
  unfold execEnrollImgkey at e
  injection e with e; subst e
  refine mgmtOp_goes h (fun t r ht e => ?_)
  split at e
  · injection e with e; subst e; exact ht.goes
  · split at e
    · injection e
    · next hc =>
      injection e with e; subst e
      refine ht.goes.trans (setImgKeys_goes (fun _ => ?_))
      simp only [List.length_append, List.length_cons, List.length_nil]
      omega

theorem execRevokeImgkey_goes {a s u : State} {i acks key : Nat} (e : execRevokeImgkey i acks key s = .next u) (h : Keeps a s) : Goes a u := by
  unfold execRevokeImgkey at e
  injection e with e; subst e
  refine mgmtOp_goes h (fun t r ht e => ?_)
  split at e
  · injection e with e; subst e
    exact ht.goes.trans (setImgKeys_goes (fun x => Nat.le_trans (List.length_filter_le _ _) x.keys))
  · injection e

theorem wrFloor_keeps {a s : State} {v : Nat} (h : Keeps a s) (hv : s.floor ≤ v) (hb : v < 2 ^ 32) :
    Keeps a (s.wr R.PLT_WIMG_FLOOR.FLOOR 0 v) := by
  have other : ∀ (q : RegId) (j : Nat), q ≠ .PLT_WIMG_FLOOR → (s.wr R.PLT_WIMG_FLOOR.FLOOR 0 v).reg q j = s.reg q j :=
    fun q j hq => reg_wr_ne s _ q 0 j v hq
  refine h.regs _ (setReg_wf _ _ _) (fun _ => ?_) (fun _ => ?_) (fun _ => ?_)
  · show (s.wr R.PLT_WIMG_FLOOR.FLOOR 0 v).fuses = _
    simp only [State.fuses]
    rw [other _ _ (by decide), other _ _ (by decide), other _ _ (by decide)]
  · show (s.wr R.PLT_WIMG_FLOOR.FLOOR 0 v).life = _
    simp only [State.life, State.rd]; rw [other _ _ (by decide)]
  · show _ ≤ (s.wr R.PLT_WIMG_FLOOR.FLOOR 0 v).floor
    simp only [State.floor] at hv ⊢
    rw [rd_wr_same _ _ _ _ (by decide)]
    exact Nat.le_trans hv (Nat.le_of_eq (Nat.mod_eq_of_lt hb).symm)

theorem execSetFloor_keeps {a s u : State} {i acks v : Nat} (e : execSetFloor i acks v s = .next u) (h : Keeps a s) : Keeps a u := by
  unfold execSetFloor at e
  injection e with e; subst e
  refine mgmtOp_keeps h (fun _ t r ht _ e => ?_)
  split at e
  · injection e
  · next hc =>
    injection e with e; subst e
    refine wrFloor_keeps ht (Nat.not_lt.mp (fun k => hc (Or.inl k))) (Nat.lt_of_not_le (fun k => hc (Or.inr k)))

theorem execMgmtRelease_keeps {a : State} {z0 : Nat} {z1 : Nat} {z2 : State} {u : State} (e : execMgmtRelease z0 z1 z2 = .next u) (h : Keeps a z2) :
    Keeps a u := by
  unfold execMgmtRelease at e
  injection e with e; subst e
  repeat' first
    | with_reducible assumption
    | with_reducible refine mgmtTake_keeps ?_
    | with_reducible refine mgmtSend_keeps ?_
    | with_reducible refine requestRelease_keeps ?_
    | with_reducible refine Keeps.ite ?_ ?_

theorem mayOp_life {s : State} {i : Nat} {xs : List Nat} (h : s.mayOp i xs = true) : s.life ∈ xs := by
  simp only [State.mayOp, Bool.and_eq_true] at h
  simpa using h.2

theorem execDeploy_keeps {a s u : State} {i acks : Nat} (e : execDeploy i acks s = .next u) (h : Keeps a s) : Keeps a u := by
  unfold execDeploy at e
  injection e with e; subst e
  refine mgmtOp_keeps h (fun hm t r ht hl e => ?_)
  have l1 : t.life = 1 := by have := mayOp_life hm; rw [hl]; simpa using this
  split at e
  · injection e
  · split at e
    · injection e with e; subst e
      exact setLife_keeps ht (fun x => ⟨by omega, by omega, fun w hw => (x.life w hw).2.1⟩)
    · injection e with e; subst e
      exact releaseThen_keeps ht (fun _ => ⟨by omega, by omega, by omega⟩)

theorem execRetire_keeps {a s u : State} {i acks : Nat} (e : execRetire i acks s = .next u) (h : Keeps a s) : Keeps a u := by
  unfold execRetire at e
  injection e with e; subst e
  refine mgmtOp_keeps h (fun hm t r ht hl e => ?_)
  have l1 : t.life ≤ 2 := by
    have := mayOp_life hm
    rw [hl]
    simp at this
    omega
  injection e with e; subst e
  exact releaseThen_keeps ht (fun _ => ⟨by omega, by omega, by omega⟩)

theorem execFirmware_keeps {a : State} {z0 : Nat} {z1 : Nat} {z2 : Nat} {z3 : List Word} {z4 : Nat × Nat} {z5 : Nat × Nat} {z6 : State} {u : State} (e : execFirmware z0 z1 z2 z3 z4 z5 z6 = .next u) (h : Keeps a z6) :
    Keeps a u := by
  unfold execFirmware at e
  injection e with e; subst e
  repeat' first
    | with_reducible assumption
    | (with_reducible refine mgmtOp_keeps (by assumption) ?_; intro _ _ _ _ _ e; (try dsimp only at e); (repeat' split at e) <;> first | (injection e with e; subst e) | injection e)
    | fail_if_no_progress with_reducible refine Keeps.mk ?_ rfl rfl rfl

theorem execProbeDeck_keeps {a : State} {z0 : Nat} {z1 : Nat} {z2 : List Word} {z3 : State} {u : State} (e : execProbeDeck z0 z1 z2 z3 = .next u) (h : Keeps a z3) :
    Keeps a u := by
  unfold execProbeDeck at e
  injection e with e; subst e
  repeat' first
    | with_reducible assumption
    | (with_reducible refine mgmtOp_keeps (by assumption) ?_; intro _ _ _ _ _ e; (try dsimp only at e); (repeat' split at e) <;> first | (injection e with e; subst e) | injection e)
    | with_reducible refine loadDeck_keeps ?_

theorem execInject_keeps {a : State} {z0 : Nat} {z1 : Nat} {z2 : Nat} {z3 : Word} {z4 : Word} {z5 : State} {u : State} (e : execInject z0 z1 z2 z3 z4 z5 = .next u) (h : Keeps a z5) :
    Keeps a u := by
  unfold execInject at e
  injection e with e; subst e
  repeat' first
    | with_reducible assumption
    | (with_reducible refine mgmtOp_keeps (by assumption) ?_; intro _ _ _ _ _ e; (try dsimp only at e); (repeat' split at e) <;> first | (injection e with e; subst e) | injection e)
    | with_reducible refine writeInj_keeps ?_

theorem execGetVersion_keeps {a : State} {z0 : Nat} {z1 : Nat} {z2 : State} {u : State} (e : execGetVersion z0 z1 z2 = .next u) (h : Keeps a z2) :
    Keeps a u := by
  unfold execGetVersion at e
  injection e with e; subst e
  repeat' first
    | with_reducible assumption
    | with_reducible refine spdmAnswer_keeps ?_
    | with_reducible refine spdmTake_keeps ?_

theorem execGetCapabilities_keeps {a : State} {z0 : Nat} {z1 : Nat} {z2 : State} {u : State} (e : execGetCapabilities z0 z1 z2 = .next u) (h : Keeps a z2) :
    Keeps a u := by
  unfold execGetCapabilities at e
  injection e with e; subst e
  repeat' first
    | with_reducible assumption
    | with_reducible refine spdmAnswer_keeps ?_
    | with_reducible refine spdmTake_keeps ?_

theorem execNegotiateAlgorithms_keeps {a : State} {z0 : Nat} {z1 : Nat} {z2 : Bool} {z3 : State} {u : State} (e : execNegotiateAlgorithms z0 z1 z2 z3 = .next u) (h : Keeps a z3) :
    Keeps a u := by
  unfold execNegotiateAlgorithms at e
  injection e with e; subst e
  repeat' first
    | with_reducible assumption
    | with_reducible refine spdmAnswer_keeps ?_
    | with_reducible refine spdmTake_keeps ?_

theorem execGetDigests_keeps {a : State} {z0 : Nat} {z1 : Nat} {z2 : State} {u : State} (e : execGetDigests z0 z1 z2 = .next u) (h : Keeps a z2) :
    Keeps a u := by
  unfold execGetDigests at e
  injection e with e; subst e
  repeat' first
    | with_reducible assumption
    | with_reducible refine spdmAnswer_keeps ?_
    | with_reducible refine spdmTake_keeps ?_

theorem execGetCertificate_keeps {a : State} {z0 : Nat} {z1 : Nat} {z2 : Nat} {z3 : Nat} {z4 : State} {u : State} (e : execGetCertificate z0 z1 z2 z3 z4 = .next u) (h : Keeps a z4) :
    Keeps a u := by
  unfold execGetCertificate at e
  injection e with e; subst e
  repeat' first
    | with_reducible assumption
    | with_reducible refine spdmAnswer_keeps ?_
    | with_reducible refine spdmTake_keeps ?_

theorem execChallenge_keeps {a : State} {z0 : Nat} {z1 : Nat} {z2 : List Nat} {z3 : State} {u : State} (e : execChallenge z0 z1 z2 z3 = .next u) (h : Keeps a z3) :
    Keeps a u := by
  unfold execChallenge at e
  injection e with e; subst e
  repeat' first
    | with_reducible assumption
    | with_reducible refine signed_keeps ?_
    | with_reducible refine spdmTake_keeps ?_
    | with_reducible refine spdmAnswer_keeps ?_

theorem execGetMeasurements_keeps {a : State} {z0 : Nat} {z1 : Nat} {z2 : Nat} {z3 : List Nat} {z4 : Bool} {z5 : State} {u : State} (e : execGetMeasurements z0 z1 z2 z3 z4 z5 = .next u) (h : Keeps a z5) :
    Keeps a u := by
  unfold execGetMeasurements at e
  injection e with e; subst e
  repeat' first
    | with_reducible assumption
    | with_reducible refine spdmTake_keeps ?_
    | with_reducible refine signed_keeps ?_
    | with_reducible refine spdmAnswer_keeps ?_
    | split

theorem execDbgRead_keeps {a : State} {z0 : Nat} {z1 : Nat} {z2 : State} {u : State} (e : execDbgRead z0 z1 z2 = .next u) (h : Keeps a z2) :
    Keeps a u := by
  unfold execDbgRead at e
  injection e with e; subst e
  repeat' first
    | with_reducible assumption
    | intro _
    | exact rfl
    | with_reducible refine wr_keeps ?_ ?_
    | with_reducible refine setReg_keeps ?_ ?_
    | with_reducible refine padTouchRange_keeps ?_
    | with_reducible refine Keeps.loop ?_ ?_
    | with_reducible refine Keeps.ite ?_ ?_

theorem execFaceReset_keeps {a : State} {z0 : Nat} {z1 : State} {u : State} (e : execFaceReset z0 z1 = .next u) (h : Keeps a z1) :
    Keeps a u := by
  unfold execFaceReset at e
  injection e with e; subst e
  repeat' first
    | with_reducible assumption
    | intro _
    | with_reducible refine startFaceReset_keeps ?_
    | with_reducible refine Keeps.loop ?_ ?_
    | with_reducible refine Keeps.ite ?_ ?_

theorem execFaceResetDone_keeps {a : State} {z0 : Nat} {z1 : State} {u : State} (e : execFaceResetDone z0 z1 = .next u) (h : Keeps a z1) :
    Keeps a u := by
  unfold execFaceResetDone at e
  injection e with e; subst e
  repeat' first
    | with_reducible assumption
    | intro _
    | with_reducible refine orNow_keeps ?_ ?_
    | with_reducible refine endFaceReset_keeps ?_
    | with_reducible refine bdyDown_keeps ?_
    | with_reducible refine Keeps.ite ?_ ?_

theorem execAutoFaceReset_keeps {a : State} {z0 : Nat} {z1 : State} {u : State} (e : execAutoFaceReset z0 z1 = .next u) (h : Keeps a z1) :
    Keeps a u := by
  unfold execAutoFaceReset at e
  injection e with e; subst e
  repeat' first
    | with_reducible assumption
    | with_reducible refine startFaceReset_keeps ?_
    | with_reducible refine modFace_keeps ?_
    | with_reducible refine advance_keeps ?_
    | split

theorem execFunctionLevelReset_keeps {a : State} {z0 : Nat} {z1 : State} {u : State} (e : execFunctionLevelReset z0 z1 = .next u) (h : Keeps a z1) :
    Keeps a u := by
  unfold execFunctionLevelReset at e
  injection e with e; subst e
  repeat' first
    | with_reducible assumption
    | exact rfl
    | with_reducible refine bump_keeps ?_ ?_
    | with_reducible refine flr0_keeps ?_
    | with_reducible refine flr1_keeps ?_
    | with_reducible refine flr2_keeps ?_
    | with_reducible refine Keeps.ite ?_ ?_

theorem execHostReset_keeps {a : State} {z0 : State} {u : State} (e : execHostReset z0 = .next u) (h : Keeps a z0) :
    Keeps a u := by
  unfold execHostReset at e
  injection e with e; subst e
  repeat' first
    | with_reducible assumption
    | exact rfl
    | with_reducible refine modHif_keeps ?_
    | with_reducible refine bump_keeps ?_ ?_
    | with_reducible refine flr2_keeps ?_
    | with_reducible refine flr1_keeps ?_
    | with_reducible refine flr0_keeps ?_
    | with_reducible refine wr_keeps ?_ ?_
    | with_reducible refine Keeps.ite ?_ ?_

theorem execPerstRelease_keeps {a : State} {z0 : Nat} {z1 : Nat} {z2 : Bool} {z3 : State} {u : State} (e : execPerstRelease z0 z1 z2 z3 = .next u) (h : Keeps a z3) :
    Keeps a u := by
  unfold execPerstRelease at e
  injection e with e; subst e
  repeat' first
    | with_reducible assumption
    | with_reducible refine linkUp_keeps ?_
    | with_reducible refine modHif_keeps ?_
    | with_reducible refine Keeps.ite ?_ ?_

theorem execConfigRequest_keeps {a : State} {z0 : Nat} {z1 : State} {u : State} (e : execConfigRequest z0 z1 = .next u) (h : Keeps a z1) :
    Keeps a u := by
  unfold execConfigRequest at e
  injection e with e; subst e
  repeat' first
    | with_reducible assumption
    | with_reducible refine emit_keeps ?_
    | with_reducible refine Keeps.ite ?_ ?_

theorem execWarmReset_keeps {a : State} {z0 : State} {u : State} (e : execWarmReset z0 = .next u) (h : Keeps a z0) :
    Keeps a u := by
  unfold execWarmReset at e
  injection e with e; subst e
  repeat' first
    | with_reducible assumption
    | intro _
    | exact rfl
    | with_reducible refine setAState_keeps ?_
    | with_reducible refine modHif_keeps ?_
    | with_reducible refine wr_keeps ?_ ?_
    | with_reducible refine Keeps.foldl ?_ ?_
    | with_reducible refine Keeps.ite ?_ ?_
    | fail_if_no_progress with_reducible refine Keeps.mk ?_ rfl rfl rfl

theorem execWarmResetDrained_keeps {a : State} {z0 : State} {u : State} (e : execWarmResetDrained z0 = .next u) (h : Keeps a z0) :
    Keeps a u := by
  unfold execWarmResetDrained at e
  injection e with e; subst e
  repeat' first
    | with_reducible assumption
    | with_reducible refine warmEnd_keeps ?_
    | with_reducible refine Keeps.ite ?_ ?_

theorem execPowerOn_keeps {a : State} {z0 : Boot} {z1 : State} {u : State} (e : execPowerOn z0 z1 = .next u) (h : Keeps a z1) :
    Keeps a u := by
  unfold execPowerOn at e
  injection e with e; subst e
  repeat' first
    | with_reducible assumption
    | with_reducible refine coldReset_keeps ?_

theorem execColdReset_keeps {a : State} {z0 : Boot} {z1 : State} {u : State} (e : execColdReset z0 z1 = .next u) (h : Keeps a z1) :
    Keeps a u := by
  unfold execColdReset at e
  injection e with e; subst e
  repeat' first
    | with_reducible assumption
    | with_reducible refine coldReset_keeps ?_

theorem execColdResetReq_keeps {a : State} {z0 : Boot} {z1 : State} {u : State} (e : execColdResetReq z0 z1 = .next u) (h : Keeps a z1) :
    Keeps a u := by
  unfold execColdResetReq at e
  injection e with e; subst e
  repeat' first
    | with_reducible assumption
    | with_reducible refine coldReset_keeps ?_

theorem execThermalCool_keeps {a : State} {z0 : Boot} {z1 : State} {u : State} (e : execThermalCool z0 z1 = .next u) (h : Keeps a z1) :
    Keeps a u := by
  unfold execThermalCool at e
  injection e with e; subst e
  repeat' first
    | with_reducible assumption
    | with_reducible refine modPower_keeps ?_
    | with_reducible refine boot_keeps ?_
    | with_reducible refine coldState_keeps ?_
    | with_reducible refine Keeps.ite ?_ ?_

theorem execHandEntry_keeps {a : State} {z0 : List SlotSeat} {z1 : List (Nat × Bool × Bool)} {z2 : State} {u : State} (e : execHandEntry z0 z1 z2 = .next u) (h : Keeps a z2) :
    Keeps a u := by
  unfold execHandEntry at e
  injection e with e; subst e
  repeat' first
    | with_reducible assumption
    | intro _
    | exact rfl
    | with_reducible refine modHand_keeps ?_
    | with_reducible refine wr_keeps ?_ ?_
    | with_reducible refine advance_keeps ?_
    | with_reducible refine flushPosted_keeps ?_
    | with_reducible refine modKey_keeps ?_ ?_
    | with_reducible refine formSlots_keeps ?_
    | with_reducible refine dtrickShows_keeps ?_
    | with_reducible refine missTick_keeps ?_
    | with_reducible refine startHand_keeps ?_
    | with_reducible refine sendAborts_keeps ?_
    | with_reducible refine Keeps.ite ?_ ?_
    | dsimp only
    | split

theorem execMissedTick_keeps {a : State} {z0 : State} {u : State} (e : execMissedTick z0 = .next u) (h : Keeps a z0) :
    Keeps a u := by
  unfold execMissedTick at e
  injection e with e; subst e
  repeat' first
    | with_reducible assumption
    | exact rfl
    | with_reducible refine modHand_keeps ?_
    | with_reducible refine wr_keeps ?_ ?_
    | with_reducible refine advance_keeps ?_
    | with_reducible refine flushPosted_keeps ?_
    | with_reducible refine missTick_keeps ?_
    | with_reducible refine sendCtl_keeps ?_
    | with_reducible refine Keeps.ite ?_ ?_

theorem execHandBudgetWarning_keeps {a : State} {z0 : Nat} {z1 : State} {u : State} (e : execHandBudgetWarning z0 z1 = .next u) (h : Keeps a z1) :
    Keeps a u := by
  unfold execHandBudgetWarning at e
  injection e with e; subst e
  repeat' first
    | with_reducible assumption
    | with_reducible refine advance_keeps ?_
    | with_reducible refine takeWarning_keeps ?_
    | with_reducible refine Keeps.ite ?_ ?_

theorem execMissedTickAbort_keeps {a : State} {z0 : State} {u : State} (e : execMissedTickAbort z0 = .next u) (h : Keeps a z0) :
    Keeps a u := by
  unfold execMissedTickAbort at e
  injection e with e; subst e
  repeat' first
    | with_reducible assumption
    | with_reducible refine idleEnd_keeps ?_
    | with_reducible refine Keeps.ite ?_ ?_

theorem execBudgetExpiry_keeps {a : State} {z0 : State} {u : State} (e : execBudgetExpiry z0 = .next u) (h : Keeps a z0) :
    Keeps a u := by
  unfold execBudgetExpiry at e
  injection e with e; subst e
  repeat' first
    | with_reducible assumption
    | with_reducible refine idleEnd_keeps ?_
    | with_reducible refine dropChecks_keeps ?_
    | with_reducible refine openTiles_keeps ?_
    | with_reducible refine ringDrain_keeps ?_
    | with_reducible refine advance_keeps ?_
    | with_reducible refine endHand_keeps ?_
    | with_reducible refine misdealHand_keeps ?_
    | with_reducible refine commitHand_keeps ?_
    | with_reducible refine Keeps.ite ?_ ?_
    | fail_if_no_progress with_reducible refine Keeps.mk ?_ rfl rfl rfl

end Sys2Proof.Machine
end

