-- ==== Sys2Proof/Laws/KeepRegs.lean ====
section
/-! SUPPORT. What the operations of Machine/RegWrite.lean keep: one lemma per operation. -/
namespace Sys2Proof.Machine

theorem legal_keeps {a : State} {z0 : State} {z1 : RegId} {z2 : Nat} {z3 : Word} (h : Keeps a z0) :
    Keeps a (State.legal z0 z1 z2 z3).1 := by
  unfold State.legal
  repeat' first
    | with_reducible assumption
    | intro _
    | with_reducible refine draw_keeps ?_
    | with_reducible refine Keeps.foldl_fst ?_ ?_
    | dsimp only
    | split

theorem andThen_keeps {a s : State} {c : Bool} {m : State → Host.Outcome State Fault Refusal} (h : Keeps a s)
    (hm : ∀ u, m s = .next u → Keeps a u) : Keeps a (s.andThen c m) := by
  unfold State.andThen after
  split
  · split
    · next t e => exact hm _ e
    · exact h
  · exact h

theorem writeEffects_keeps {a : State} {z0 : State} {z1 : Nat} {z2 : RegId} {z3 : Nat} {z4 : Word} {z5 : Word} (h : Keeps a z0) :
    Keeps a (State.writeEffects z0 z1 z2 z3 z4 z5) := by
  unfold State.writeEffects
  repeat' first
    | with_reducible assumption
    | intro _
    | exact rfl
    | with_reducible refine orNow_keeps ?_ ?_
    | with_reducible refine wrB_keeps ?_ ?_
    | with_reducible refine bdyCacheCfg_keeps ?_
    | with_reducible refine andThen_keeps ?_ ?_
    | with_reducible refine execProgramLoad_keeps (by assumption) ?_
    | with_reducible refine execProgramActivate_keeps (by assumption) ?_
    | with_reducible refine execProgramHold_keeps (by assumption) ?_
    | with_reducible refine execProgramUnload_keeps (by assumption) ?_
    | with_reducible refine execHostCall_keeps (by assumption) ?_
    | with_reducible refine checkReady_keeps ?_
    | with_reducible refine setReady_keeps ?_
    | with_reducible refine modFace_keeps ?_
    | with_reducible refine wr_keeps ?_ ?_
    | with_reducible refine execWindowOpen_keeps (by assumption) ?_
    | with_reducible refine execWindowClose_keeps (by assumption) ?_
    | with_reducible refine execWimgDiscard_keeps (by assumption) ?_
    | with_reducible refine execPut_keeps (by assumption) ?_
    | with_reducible refine execBuild_keeps (by assumption) ?_
    | with_reducible refine execCutReq_keeps (by assumption) ?_
    | with_reducible refine execPfxInstall_keeps (by assumption) ?_
    | with_reducible refine execPfxRemove_keeps (by assumption) ?_
    | with_reducible refine execGrammarLoad_keeps (by assumption) ?_
    | with_reducible refine execGrammarUnload_keeps (by assumption) ?_
    | with_reducible refine execBypassClose_keeps (by assumption) ?_
    | with_reducible refine execBypassOpen_keeps (by assumption) ?_
    | with_reducible refine trainStart_keeps ?_
    | with_reducible refine portDown_keeps ?_
    | with_reducible refine execPortRetrain_keeps (by assumption) ?_
    | with_reducible refine domainStart_keeps ?_
    | with_reducible refine execJoin_keeps (by assumption) ?_
    | with_reducible refine execReplicaRetire_keeps (by assumption) ?_
    | with_reducible refine execRotate_keeps (by assumption) ?_
    | with_reducible refine execSessionOpen_keeps (by assumption) ?_
    | with_reducible refine execSessionRelease_keeps (by assumption) ?_
    | with_reducible refine execCalReq_keeps (by assumption) ?_
    | with_reducible refine faultN_keeps ?_
    | with_reducible refine execSelfcal_keeps (by assumption) ?_
    | with_reducible refine execRestore_keeps (by assumption) ?_
    | with_reducible refine execWarmReset_keeps (by assumption) ?_
    | with_reducible refine execFaceReset_keeps (by assumption) ?_
    | with_reducible refine Keeps.ite ?_ ?_
    | dsimp only
    | split

theorem writeRequest_keeps {a : State} {z0 : State} {z1 : Nat} {z2 : RegId} {z3 : Nat} {z4 : Word} {u : State} (e : State.writeRequest z0 z1 z2 z3 z4 = some u) (h : Keeps a z0) :
    Keeps a u := by
  unfold State.writeRequest at e
  try dsimp only at e
  repeat' split at e
  all_goals first | (injection e with e; subst e) | (injection e)
  repeat' first
    | with_reducible assumption
    | intro _
    | exact rfl
    | with_reducible refine andThen_keeps ?_ ?_
    | with_reducible refine execSynCtrSig_keeps (by assumption) ?_
    | with_reducible refine execTrickCfg_keeps (by assumption) ?_
    | with_reducible refine execDtrickCfg_keeps (by assumption) ?_
    | with_reducible refine execSrvMode_keeps (by assumption) ?_
    | with_reducible refine orNow_keeps ?_ ?_
    | with_reducible refine modFace_keeps ?_
    | with_reducible refine bdyRegion_keeps ?_
    | with_reducible refine execDbgRead_keeps (by assumption) ?_
    | with_reducible refine execHistQuery_keeps (by assumption) ?_
    | with_reducible refine execLogRead_keeps (by assumption) ?_
    | with_reducible refine wr_keeps ?_ ?_
    | with_reducible refine execHistClear_keeps (by assumption) ?_
    | with_reducible refine execHistClearAll_keeps (by assumption) ?_
    | with_reducible refine bdyPins_keeps ?_
    | with_reducible refine writeInj_keeps ?_
    | with_reducible refine execPwrDomReq_keeps (by assumption) ?_

/-- A bit that no chosen field covers lies outside the mask of the chosen fields. -/
theorem fieldMask_bit (p : FieldInfo → Bool) (fs : List FieldInfo) (i : Nat) (h : ∀ f ∈ fs, i < f.lo ∨ f.lo + f.wd ≤ i ∨ p f = false) :
    (fieldMask p fs).getLsbD i = false := by
  have key : ∀ m : Word, m.getLsbD i = false →
      (fs.foldl (fun m f => if p f then m ||| ((BitVec.ofNat 64 (2 ^ f.wd - 1)) <<< f.lo) else m) m).getLsbD i = false := by
    induction fs with
    | nil => intro m hm; exact hm
    | cons f fs ih =>
      intro m hm
      refine ih (fun g hg => h g (List.mem_cons_of_mem _ hg)) _ ?_
      show (if p f = true then _ else _ : Word).getLsbD i = false
      split
      · next hp =>
        rw [BitVec.getLsbD_or, hm, Bool.false_or, BitVec.getLsbD_shiftLeft]
        rcases h f (List.mem_cons_self) with h | h | h
        · simp [h]
        · have : ¬ (i - f.lo < f.wd) := by omega
          simp [BitVec.getLsbD_ofNat, Nat.testBit_two_pow_sub_one, this]
        · simp [hp] at h
      · exact hm
  exact key 0#64 (by simp)

/-- The bits that a write image changes only where a field may be written. -/
theorem writeImage_bit (r : RegId) (q : FieldInfo → Bool) (old v : Word) (i : Nat)
    (h : ∀ f ∈ (regInfo r).fields, i < f.lo ∨ f.lo + f.wd ≤ i ∨ (f.acc ≠ .rw ∧ f.acc ≠ .w1c)) :
    (writeImage r q old v).getLsbD i = old.getLsbD i := by
  have mask : ∀ q' : FieldInfo → Bool, (∀ f, q' f = true → f.acc = .rw ∨ f.acc = .w1c) →
      (fieldMask q' (regInfo r).fields).getLsbD i = false := by
    intro q' hq
    refine fieldMask_bit q' _ _ (fun f hf => ?_)
    rcases h f hf with h | h | h
    · exact Or.inl h
    · exact Or.inr (Or.inl h)
    · refine Or.inr (Or.inr ?_)
      cases hb : q' f with
      | false => rfl
      | true => rcases hq f hb with e | e <;> simp [e] at h
  by_cases hi : i < 64
  · simp only [writeImage, BitVec.getLsbD_and, BitVec.getLsbD_or, BitVec.getLsbD_not, hi]
    rw [mask _ (by intro f hf; simp at hf; exact Or.inl hf.2), mask _ (by intro f hf; simp at hf; exact Or.inr hf.2)]
    simp
  · rw [BitVec.getLsbD_of_ge _ _ (by omega), BitVec.getLsbD_of_ge _ _ (by omega)]

/-- A word that holds what must be held of `old`. -/
def RegId.heldOk (r : RegId) (old w : Word) : Prop :=
  match r with
  | .PLT_FACE_MAP => w = old
  | .PLT_CAP_UNITS => w = old
  | .PLT_CAP_FACES => fget w 0 20 = fget old 0 20
  | .PLT_LIFECYCLE => fget w 0 2 = fget old 0 2
  | .PLT_WIMG_FLOOR => fget old 0 32 ≤ fget w 0 32
  | _ => True

theorem setReg_heldOk_keeps {a s : State} {r : RegId} {i : Nat} {w : Word} (h : Keeps a s) (hw : r.heldOk (s.reg r i) w) :
    Keeps a (s.setReg r i w) := by
  by_cases hr : r.held = false
  · exact setReg_keeps h hr
  · have other : ∀ (q : RegId) (j : Nat), q ≠ r → (s.setReg r i w).reg q j = s.reg q j := fun q j hq => reg_setReg_ne s _ q i j w hq
    have f1 : r = .PLT_FACE_MAP ∨ r = .PLT_CAP_UNITS ∨ r = .PLT_CAP_FACES ∨ r = .PLT_LIFECYCLE ∨ r = .PLT_WIMG_FLOOR := by
      revert hr; cases r <;> simp [RegId.held]
    refine h.regs _ (setReg_wf r i _) (fun _ => ?_) (fun _ => ?_) (fun _ => ?_)
    · show (s.setReg r i w).fuses = _
      rcases f1 with rfl | rfl | rfl | rfl | rfl <;> simp only [State.fuses, RegId.heldOk] at hw ⊢
      · rw [other .PLT_CAP_UNITS _ (by decide), other .PLT_CAP_FACES _ (by decide), reg_setReg]; split
        · next e => rw [hw, e.2]
        · rfl
      · rw [other .PLT_FACE_MAP _ (by decide), other .PLT_CAP_FACES _ (by decide), reg_setReg]; split
        · next e => rw [hw, e.2]
        · rfl
      · rw [other .PLT_FACE_MAP _ (by decide), other .PLT_CAP_UNITS _ (by decide), reg_setReg]; split
        · next e => rw [hw, e.2]
        · rfl
      · rw [other _ _ (by decide), other _ _ (by decide), other _ _ (by decide)]
      · rw [other _ _ (by decide), other _ _ (by decide), other _ _ (by decide)]
    · show (s.setReg r i w).life = _
      simp only [State.life, State.rd, reg_setReg]
      split
      · next e => obtain ⟨e1, e2⟩ := e; subst e2; subst e1; exact hw
      · rfl
    · show _ ≤ (s.setReg r i w).floor
      simp only [State.floor, State.rd, reg_setReg]
      split
      · next e => obtain ⟨e1, e2⟩ := e; subst e2; subst e1; exact hw
      · exact Nat.le_refl _


/-- A register without RW or W1C fields keeps its word. -/
theorem writeImage_ro (r : RegId) (q : FieldInfo → Bool) (old v : Word)
    (h : (regInfo r).fields.all (fun f => f.acc != .rw && f.acc != .w1c) = true := by rfl) : writeImage r q old v = old := by
  refine BitVec.eq_of_getLsbD_eq (fun i _ => writeImage_bit r q old v i (fun f hf => Or.inr (Or.inr ?_)))
  have := List.all_eq_true.mp h f hf
  simpa using this

theorem legal_held (s : State) (r : RegId) (i : Nat) (new : Word) (hr : r.held = true) :
    s.legal r i new = (s, if s.refusedWrite r i new then
      (new &&& ~~~ fieldMask (fun f => f.acc == .rw) (regInfo r).fields) ||| (s.reg r i &&& fieldMask (fun f => f.acc == .rw) (regInfo r).fields)
      else new) := by
  cases r <;> first | rfl | cases hr

theorem legal_heldOk (s : State) (r : RegId) (i : Nat) (q : FieldInfo → Bool) (v : Word) :
    r.heldOk ((s.legal r i (writeImage r q (s.reg r i) v)).1.reg r i) (s.legal r i (writeImage r q (s.reg r i) v)).2 := by
  cases hr : r.held with
  | false => cases r <;> first | trivial | cases hr
  | true =>
    rw [legal_held _ _ _ _ hr]
    have ro : ∀ r', r = r' → (regInfo r').fields.all (fun f => f.acc != .rw && f.acc != .w1c) = true → s.refusedWrite r' i = (fun _ => false) →
        (if s.refusedWrite r i (writeImage r q (s.reg r i) v) then
          (writeImage r q (s.reg r i) v &&& ~~~ fieldMask (fun f => f.acc == .rw) (regInfo r).fields) |||
            (s.reg r i &&& fieldMask (fun f => f.acc == .rw) (regInfo r).fields)
          else writeImage r q (s.reg r i) v) = s.reg r i := by
      intro r' e h k
      subst e
      rw [k, writeImage_ro _ _ _ _ h]
      rfl
    have hs : r = .PLT_FACE_MAP ∨ r = .PLT_CAP_UNITS ∨ r = .PLT_CAP_FACES ∨ r = .PLT_LIFECYCLE ∨ r = .PLT_WIMG_FLOOR := by
      revert hr; cases r <;> simp [RegId.held]
    rcases hs with e | e | e | e | e
    · have := ro _ e rfl rfl; subst e; exact this
    · have := ro _ e rfl rfl; subst e; exact this
    · have := ro _ e rfl rfl; subst e; exact congrArg (fget · 0 20) this
    · have := ro _ e rfl rfl; subst e; exact congrArg (fget · 0 2) this
    · subst e
      show fget (s.reg .PLT_WIMG_FLOOR i) 0 32 ≤ _
      generalize writeImage .PLT_WIMG_FLOOR q (s.reg .PLT_WIMG_FLOOR i) v = n
      have hm : fieldMask (fun f => f.acc == .rw) (regInfo .PLT_WIMG_FLOOR).fields = 0xFFFFFFFF#64 := by decide
      rw [hm]
      dsimp only
      split
      · refine Nat.le_of_eq (congrArg BitVec.toNat (BitVec.eq_of_getLsbD_eq (fun j hj => ?_)))
        simp only [BitVec.getLsbD_extractLsb', BitVec.getLsbD_or, BitVec.getLsbD_and, BitVec.getLsbD_not]
        have hb : (0xFFFFFFFF#64).getLsbD (0 + j) = true := by
          have : ∀ j < 32, (0xFFFFFFFF#64).getLsbD (0 + j) = true := by decide
          exact this j hj
        rw [hb]
        simp
      · next h =>
        exact Nat.not_lt.mp (fun k => h (decide_eq_true k))

/-- Read-and-clear fields, all or some of them, hold nothing that must be held. -/
theorem cleared_heldOk (r : RegId) (p : FieldInfo → Bool) (hp : ∀ f, p f = true → f.acc = .rc) (w : Word) :
    r.heldOk w (w &&& ~~~ fieldMask p (regInfo r).fields) := by
  have bits : ∀ n, n ≤ 64 → (∀ f ∈ (regInfo r).fields, f.acc = .rc → n ≤ f.lo) → ∀ i < n,
      (w &&& ~~~ fieldMask p (regInfo r).fields).getLsbD i = w.getLsbD i := by
    intro n hn hf i hi
    have := fieldMask_bit p (regInfo r).fields i (fun f h => by
      cases hb : p f with
      | false => exact Or.inr (Or.inr rfl)
      | true => exact Or.inl (Nat.lt_of_lt_of_le hi (hf f h (hp f hb))))
    simp only [BitVec.getLsbD_and, BitVec.getLsbD_not, this, show i < 64 by omega]
    simp
  have all : (∀ f ∈ (regInfo r).fields, f.acc = .rc → 64 ≤ f.lo) → w &&& ~~~ fieldMask p (regInfo r).fields = w := fun h =>
    BitVec.eq_of_getLsbD_eq (fun i hi => bits 64 (Nat.le_refl _) h i hi)
  have low : ∀ n, n ≤ 64 → (∀ f ∈ (regInfo r).fields, f.acc = .rc → n ≤ f.lo) →
      fget (w &&& ~~~ fieldMask p (regInfo r).fields) 0 n = fget w 0 n := fun n hn h =>
    congrArg BitVec.toNat (BitVec.eq_of_getLsbD_eq (fun j hj => by
      rw [BitVec.getLsbD_extractLsb', BitVec.getLsbD_extractLsb', Nat.zero_add, bits n hn h j hj]))
  cases hr : r.held with
  | false => cases r <;> first | trivial | cases hr
  | true =>
    have hs : r = .PLT_FACE_MAP ∨ r = .PLT_CAP_UNITS ∨ r = .PLT_CAP_FACES ∨ r = .PLT_LIFECYCLE ∨ r = .PLT_WIMG_FLOOR := by
      revert hr; cases r <;> simp [RegId.held]
    rcases hs with e | e | e | e | e <;> subst e
    · exact all (by decide)
    · exact all (by decide)
    · exact low 20 (by decide) (by decide)
    · exact low 2 (by decide) (by decide)
    · exact Nat.le_of_eq (low 32 (by decide) (by decide)).symm

theorem afterRead_heldOk (r : RegId) (w : Word) : r.heldOk w (afterRead r w) :=
  cleared_heldOk r _ (fun f h => by simpa using h) w

theorem writeReg_keeps {a : State} {z0 : State} {z1 : Nat} {z2 : RegId} {z3 : Nat} {z4 : Word} (h : Keeps a z0) :
    Keeps a (State.writeReg z0 z1 z2 z3 z4) := by
  unfold State.writeReg
  split
  · exact h
  · split
    · next e => exact writeRequest_keeps e h
    · dsimp only
      split
      · exact h
      · exact writeEffects_keeps (setReg_heldOk_keeps (legal_keeps h) (legal_heldOk _ _ _ _ _))

theorem execRegisterWrite_keeps {a : State} {z0 : Nat} {z1 : Nat} {z2 : Nat} {z3 : Word} {z4 : State} {u : State} (e : execRegisterWrite z0 z1 z2 z3 z4 = .next u) (h : Keeps a z4) :
    Keeps a u := by
  unfold execRegisterWrite at e
  injection e with e; subst e
  repeat' first
    | with_reducible assumption
    | with_reducible refine writeReg_keeps ?_
    | with_reducible refine Keeps.ite ?_ ?_
    | split

theorem execWriteReg_keeps {a : State} {z0 : Nat} {z1 : Nat} {z2 : Nat} {z3 : Word} {z4 : State} {u : State} (e : execWriteReg z0 z1 z2 z3 z4 = .next u) (h : Keeps a z4) :
    Keeps a u := by
  unfold execWriteReg at e
  injection e with e; subst e
  repeat' first
    | with_reducible assumption
    | (with_reducible refine mgmtOp_keeps (by assumption) ?_; intro _ _ _ _ _ e; (try dsimp only at e); (repeat' split at e) <;> first | (injection e with e; subst e) | injection e)
    | with_reducible refine writeReg_keeps ?_

theorem readReg_keeps {a : State} {z0 : State} {z1 : RegId} {z2 : Nat} (h : Keeps a z0) : Keeps a (State.readReg z0 z1 z2).1 := by
  unfold State.readReg
  split
  · exact h
  · exact setReg_heldOk_keeps h (afterRead_heldOk _ _)

theorem hostRead_keeps {a : State} {z0 : State} {z1 : Nat} {z2 : Nat} {z3 : Nat} (h : Keeps a z0) : Keeps a (State.hostRead z0 z1 z2 z3).1 := by
  unfold State.hostRead
  repeat' split
  all_goals first
    | exact h
    | exact setReg_heldOk_keeps h (cleared_heldOk _ _ (fun f k => by simp only [Bool.and_eq_true, beq_iff_eq] at k; exact k.1) _)

theorem execReadReg_keeps {a : State} {z0 : Nat} {z1 : Nat} {z2 : Nat} {z3 : State} {u : State} (e : execReadReg z0 z1 z2 z3 = .next u) (h : Keeps a z3) :
    Keeps a u := by
  unfold execReadReg at e
  injection e with e; subst e
  repeat' first
    | with_reducible assumption
    | (with_reducible refine mgmtOp_keeps (by assumption) ?_; intro _ _ _ _ _ e; (try dsimp only at e); (repeat' split at e) <;> first | (injection e with e; subst e) | injection e)
    | with_reducible refine readReg_keeps ?_

end Sys2Proof.Machine
end

