-- ==== Sys2Proof/Laws/Tricks.lean ====
section
/-! SUPPORT. What the loss of a home face does to the die tricks (11_synchronisation.md R333). -/
namespace Sys2Proof.Machine

/-- A die trick that goes with its home keeps its home. -/
theorem trickGone_home (s : State) (f i j : Nat) : (s.trickGone f i).rd R.SYN_TRICK_CFG.HOME j = s.rd R.SYN_TRICK_CFG.HOME j := by
  unfold State.trickGone
  split
  · show ((s.wr R.SYN_TRICK_CFG.COUNT i 0).wr R.SYN_TRICK_CFG.ROUNDS i 0).rd _ _ = _
    rw [rd_wr_fld _ _ _ _ _ _ (by decide) (by decide) (by decide), rd_wr_fld _ _ _ _ _ _ (by decide) (by decide) (by decide)]
  · rfl

/-- Its count and rounds are zero after. -/
theorem trickGone_zero (s : State) (f i : Nat) (h : s.rd R.SYN_TRICK_CFG.HOME i = f) :
    (s.trickGone f i).rd R.SYN_TRICK_CFG.COUNT i = 0 ∧ (s.trickGone f i).rd R.SYN_TRICK_CFG.ROUNDS i = 0 := by
  unfold State.trickGone
  split
  · constructor
    · show ((s.wr R.SYN_TRICK_CFG.COUNT i 0).wr R.SYN_TRICK_CFG.ROUNDS i 0).rd _ _ = _
      rw [rd_wr_fld _ _ _ _ _ _ (by decide) (by decide) (by decide), rd_wr_same _ _ _ _ (by decide), Nat.zero_mod]
    · show ((s.wr R.SYN_TRICK_CFG.COUNT i 0).wr R.SYN_TRICK_CFG.ROUNDS i 0).rd _ _ = _
      rw [rd_wr_same _ _ _ _ (by decide), Nat.zero_mod]
  · next k => simp only [h, true_and, not_or, ne_eq, Decidable.not_not] at k; exact k

/-- Another trick that was zero stays so. -/
theorem trickGone_stays (s : State) (f i j : Nat) (h : s.rd R.SYN_TRICK_CFG.COUNT j = 0 ∧ s.rd R.SYN_TRICK_CFG.ROUNDS j = 0) :
    (s.trickGone f i).rd R.SYN_TRICK_CFG.COUNT j = 0 ∧ (s.trickGone f i).rd R.SYN_TRICK_CFG.ROUNDS j = 0 := by
  by_cases e : j = i
  · subst e
    unfold State.trickGone
    rw [if_neg (by simp [h.1, h.2])]; exact h
  · unfold State.trickGone
    split
    · show ((s.wr R.SYN_TRICK_CFG.COUNT i 0).wr R.SYN_TRICK_CFG.ROUNDS i 0).rd _ _ = _ ∧ ((s.wr R.SYN_TRICK_CFG.COUNT i 0).wr R.SYN_TRICK_CFG.ROUNDS i 0).rd _ _ = _
      rw [rd_wr_ix _ _ _ _ _ _ e, rd_wr_ix _ _ _ _ _ _ e, rd_wr_ix _ _ _ _ _ _ e, rd_wr_ix _ _ _ _ _ _ e]; exact h
    · exact h

/-- What the loss of home face f changes: counts and rounds of the tricks whose home it is, their plays, and nothing else (R333). -/
theorem homeLost_frame (s : State) (f : Nat) (fs : List (Fld × Nat)) (gs : List Nat)
    (hf : ∀ i < 256, s.rd R.SYN_TRICK_CFG.HOME i = f → (R.SYN_TRICK_CFG.COUNT, i) ∈ fs ∧ (R.SYN_TRICK_CFG.ROUNDS, i) ∈ fs) :
    s.Frame { s.homeLost f with plays := s.plays } fs gs ∧ (s.homeLost f).faces = s.faces ∧
      (∀ i, s.rd R.SYN_TRICK_CFG.HOME i ≠ f → mget [] (s.homeLost f).plays i = mget [] s.plays i) := by
  have base : s.Frame { s with plays := s.plays } fs gs := Frame.refl _ _ _
  unfold State.homeLost
  split
  · exact ⟨base, rfl, fun _ _ => rfl⟩
  · refine (loop_ind (P := fun t : State => (s.Frame { t with plays := s.plays } fs gs ∧ t.faces = s.faces ∧
      (∀ i, s.rd R.SYN_TRICK_CFG.HOME i ≠ f → mget [] t.plays i = mget [] s.plays i)) ∧ ∀ j, t.rd R.SYN_TRICK_CFG.HOME j = s.rd R.SYN_TRICK_CFG.HOME j)
      256 s _ ⟨⟨base, rfl, fun _ _ => rfl⟩, fun _ => rfl⟩ (fun t i hi h => ?_)).1
    refine ⟨?_, fun j => (trickGone_home t f i j).trans (h.2 j)⟩
    unfold State.trickGone
    split
    · next k =>
      have hh := hf i hi ((h.2 i).symm.trans k.1)
      refine ⟨?_, h.1.2.1, fun j hj => ?_⟩
      · exact Frame.wr (Frame.wr h.1.1 hh.1) hh.2
      · have : j ≠ i := fun e => hj (by rw [e, ← h.2 i]; exact k.1)
        exact (mget_mset_other _ _ _ _ _ _ this).trans (h.1.2.2 j hj)
    · exact h.1

/-- A field of another register reads as before the loss of a home face. -/
theorem homeLost_rd (s : State) (f : Nat) (g : Fld) (i : Nat) (h : g.reg ≠ .SYN_TRICK_CFG) : (s.homeLost f).rd g i = s.rd g i := by
  unfold State.homeLost
  split
  · rfl
  · refine loop_ind (P := fun t : State => t.rd g i = s.rd g i) 256 s _ rfl (fun t k _ ht => ?_)
    unfold State.trickGone
    split
    · refine Eq.trans ?_ ht
      show ((t.wr R.SYN_TRICK_CFG.COUNT k 0).wr R.SYN_TRICK_CFG.ROUNDS k 0).rd _ _ = _
      rw [rd_wr_reg _ _ _ _ _ _ h, rd_wr_reg _ _ _ _ _ _ h]
    · exact ht

/-- The tricks at home on face f are in their creation state after. -/
theorem homeLost_zero (s : State) (f : Nat) (hr : s.hand.running = false) : ∀ i < 256, s.rd R.SYN_TRICK_CFG.HOME i = f →
    (s.homeLost f).rd R.SYN_TRICK_CFG.COUNT i = 0 ∧ (s.homeLost f).rd R.SYN_TRICK_CFG.ROUNDS i = 0 := by
  unfold State.homeLost
  rw [hr]
  have key : ∀ (l : List Nat) (t : State), (∀ j, t.rd R.SYN_TRICK_CFG.HOME j = s.rd R.SYN_TRICK_CFG.HOME j) → ∀ i, s.rd R.SYN_TRICK_CFG.HOME i = f →
      (i ∈ l ∨ (t.rd R.SYN_TRICK_CFG.COUNT i = 0 ∧ t.rd R.SYN_TRICK_CFG.ROUNDS i = 0)) →
      (l.foldl (fun t i => t.trickGone f i) t).rd R.SYN_TRICK_CFG.COUNT i = 0 ∧ (l.foldl (fun t i => t.trickGone f i) t).rd R.SYN_TRICK_CFG.ROUNDS i = 0 := by
    intro l
    induction l with
    | nil => intro t _ i _ h; rcases h with h | h; cases h; exact h
    | cons a l ih =>
      intro t ht i hi h
      refine ih _ (fun j => (trickGone_home _ _ _ _).trans (ht j)) i hi ?_
      rcases h with h | h
      · rcases List.mem_cons.mp h with rfl | h
        · exact .inr (trickGone_zero _ _ _ ((ht i).trans hi))
        · exact .inl h
      · exact .inr (trickGone_stays _ _ _ _ h)
  intro i hi h
  exact key _ _ (fun _ => rfl) i h (.inl (List.mem_range.mpr hi))
end Sys2Proof.Machine
end

