-- ==== Sys2Proof/WellFormed.lean ====
section
/-! DEFINITION. Which commands are well formed: every number lies within the field, the index range or the set of units that the spec
gives it.  A meaning is total all the same; this says which terms name something that can be sent to the device. -/
namespace Sys2Proof

/-- LEN has two bits, the guard's predicate three, and a word that LEN does not announce is zero (R255). -/
def IWord.wf (w : IWord) : Bool :=
  decide (w.cls < 64 ∧ w.op < 1024 ∧ w.len < 4 ∧ w.pred < 8) && (decide (1 ≤ w.len) || decide (w.w1 = 0#64)) && (decide (2 ≤ w.len) || decide (w.w2 = 0#64)) &&
  (decide (3 ≤ w.len) || decide (w.w3 = 0#64))

/-- Widths of a parcel's header fields, and sixteen data words to a line (R430). -/
def Parcel.wf (p : Parcel) : Bool :=
  decide (p.dst < 4096 ∧ p.src < 4096 ∧ p.face < 8 ∧ p.win < 256 ∧ p.hand < 2 ^ 64 ∧ p.seq < 2 ^ 32 ∧ p.lines ≤ 32 ∧ p.ctr < 1024 ∧ p.amount < 2 ^ 32) &&
  decide (p.data.length ≤ 16 * p.lines)

/-- A port of the haul mesh that some part has (R51). -/
def MPort.wellFormed : MPort → Bool
  | .face p | .stack p => decide (p < 8)
  | .fabric n => decide (n < 6)
  | .serving n => decide (n < 4)
  | .host => true

/-- A command's operands are in range. -/
def Instr.wf : Instr → Bool
  | .powerOn _ | .coldReset _ | .coldResetReq _ | .warmReset | .warmResetDrained | .hostReset => true
  | .functionLevelReset fn => decide (fn < 3)
  | .faceReset mask => decide (mask < 256)
  | .faceResetDone f | .autoFaceReset f => decide (f < 8)
  | .configRequest fn => decide (fn < 3)
  | .vaonLoss | .bypForce => true
  | .thermalTrip c => decide (c < 128)
  | .droop p _ _ | .droopRecover p _ => decide (p < 8)
  | .tickAnnounce => true
  | .seatLimitRegrow r => decide (r < 256)
  | .handEntry _ _ | .missedTick | .missedTickAbort => true
  | .handBudgetWarning f => decide (f < 8)
  | .budgetExpiry => true
  | .pinEvaluation f | .vectorIssueCheck f _ _ _ | .phaseEnd f _ _ _ _ _ _ | .bench3Start f _ => decide (f < 8)
  | .engineOpStart f e | .engineOpComplete f e _ _ => decide (f < 8 ∧ e < 6)
  | .fineCheckResult f _ => decide (f < 8)
  | .nop f w | .br f w | .jal f w | .jr f w | .lset f w | .lbr f w | .twait f w | .endProg f w | .rte f w | .add f w | .addi f w
  | .sub f w | .subi f w | .and f w | .andi f w | .or f w | .ori f w | .xor f w | .xori f w | .shl f w | .shli f w | .shr f w
  | .shri f w | .sra f w | .srai f w | .mul f w | .muli f w | .mulhu f w | .min f w | .mini f w | .max f w | .maxi f w | .minu f w
  | .minui f w | .maxu f w | .maxui f w | .li f w | .cmpeq f w | .cmpeqi f w | .cmpne f w | .cmpnei f w | .cmplt f w | .cmplti f w
  | .cmpltu f w | .cmpltui f w | .cmple f w | .cmplei f w | .cmpleu f w | .cmpleui f w | .pand f w | .por f w | .pxor f w
  | .pnot f w | .tbit f w | .rds f w | .ld f w | .st f w | .rset f w | .rseti f w | .rslice f w | .rrd f w | .movl f w | .movf f w
  | .hrd f w | .hwr f w | .hgather f w | .stkout f w | .stkin f w | .send f w | .sig f w | .sigf f w | .sigr f w | .wait f w
  | .debit f w | .play f w | .waitt f w | .bal f w | .doorbell f w | .slot f w | .plist f w | .deal f w | .fence f w | .trap f w
  | .mvm f w | .aprog f w | .aread f w | .fine f w | .score f w | .append f w | .vopAdd f w | .vopSub f w | .vopMul f w
  | .scale f w | .rmsnorm f w | .layernorm f w | .swiglu f w | .geglu f w | .exp f w | .recip f w | .rsqrt f w | .sigmoid f w
  | .reduce f w | .convert f w | .quant f w | .dequant f w | .topk f w | .stats f w | .sdrain f w | .pload f w => decide (f < 8) && w.wf
  | .programLoad f | .programLoadDone f _ _ _ | .programActivate f | .programHold f | .programUnload f | .hostCall f => decide (f < 8)
  | .synCtrSig f k _ amount fn => decide (f < 8 ∧ k < 1024 ∧ amount < 2 ^ 32 ∧ (fn = 0 ∨ fn = 1 ∨ fn = 7))
  | .windowOpen f w | .windowClose f w => decide (f < 8 ∧ w < 256)
  | .trickCfg i parties home => decide (i < 256 ∧ parties < 16 ∧ home < 8)
  | .dtrickCfg i parties => decide (i < 64 ∧ parties ≤ 32768)
  | .wimgOpen _ | .wimgDiscard | .sectionStaged _ _ _ | .put | .putDone _ | .build => true
  | .writeVerifyDone f b a _ _ => decide (f < 8 ∧ b < 64 ∧ a < 72)
  | .cutReq => true
  | .backgroundRead f b a _ _ => decide (f < 8 ∧ b < 64 ∧ a < 72)
  | .tallySnapshot | .restore | .restoreDone => true
  | .sqDoorbell r _ | .cqDoorbell r _ | .ante r _ _ | .fold r _ => decide (r < 16384)
  | .srvMode m => decide (m < 8)
  | .pfxInstall => true
  | .prefixInstalled p _ => decide (p < 4096)
  | .pfxRemove | .ttlExpiry _ | .deadline _ _ | .grammarLoad => true
  | .grammarLoadDone g _ _ => decide (g < 64)
  | .grammarUnload => true
  | .meshPacket _ p _ _ _ _ => p.src.wellFormed && p.dst.wellFormed && decide (1 ≤ p.beats ∧ p.beats ≤ 16)
  | .callRingMessage _ m _ _ _ => decide (m.src < 12 ∧ m.dst.getD 0 < 12 ∧ 1 ≤ m.flits ∧ m.flits ≤ 2)
  | .flit p ws _ => decide (p < 6 ∧ ws.length = 40)
  | .dataParcel port p | .sigrParcel port p | .loadParcel port p _ => decide (port < 6) && p.wf
  | .tick port hand _ _ => decide (port < 6 ∧ hand < 2 ^ 64)
  | .commit port dst src hand _ _ | .abort port dst src hand => decide (port < 6 ∧ dst < 4096 ∧ src < 4096 ∧ hand < 2 ^ 64)
  | .answer port dst src result seq _ => decide (port < 6 ∧ dst < 4096 ∧ src < 4096 ∧ result ≤ 6 ∧ seq < 2 ^ 32)
  | .tokens port dst src hand handle _ _ _ _ _ _ | .trim port dst src hand handle _ => decide (port < 6 ∧ dst < 4096 ∧ src < 4096 ∧ hand < 2 ^ 64 ∧ handle < 2 ^ 32)
  | .report port dst src _ hand _ _ _ _ => decide (port < 6 ∧ dst < 4096 ∧ src < 4096 ∧ hand < 2 ^ 64)
  | .missed port dst src lastHand => decide (port < 6 ∧ dst < 4096 ∧ src < 4096 ∧ lastHand < 2 ^ 64)
  | .tally port dst src _ hand _ _ _ => decide (port < 6 ∧ dst < 4096 ∧ src < 4096 ∧ hand < 2 ^ 64)
  | .release port _ dst src trick hand _ => decide (port < 6 ∧ dst < 4096 ∧ src < 4096 ∧ trick < 256 ∧ hand < 2 ^ 64)
  | .time port _ _ _ _ _ => decide (port < 6)
  | .timeExchange | .timeSyncLost => true
  | .ident p peerPort peerDev _ => decide (p < 6 ∧ peerPort < 6 ∧ peerDev < 4096)
  | .lane p _ hand _ _ _ => decide (p < 6 ∧ hand < 2 ^ 64)
  | .laneFail p _ | .laneErrorWindow p _ _ _ | .holdoffExpiry p | .portRetrain p => decide (p < 6)
  | .bypassClose | .bypassOpen => true
  | .claim port _ _ _ claimant => decide (port < 6 ∧ claimant < 4096)
  | .roster port _ manager standby _ _ => decide (port < 6 ∧ manager < 4096 ∧ standby < 4096)
  | .rosterPublish => true
  | .mirror port dst src _ _ _ _ _ hand | .mirrorAck port dst src _ hand => decide (port < 6 ∧ dst < 4096 ∧ src < 4096 ∧ hand < 2 ^ 64)
  | .mirrorAckTimeout | .takeover => true
  | .state port dst src _ hand _ _ => decide (port < 6 ∧ dst < 4096 ∧ src < 4096 ∧ hand < 2 ^ 64)
  | .hold port _ r _ _ | .replica port _ r _ _ => decide (port < 6 ∧ r < 256)
  | .replicaHold r | .holdLift r | .replicaDown r => decide (r < 256)
  | .join | .replicaRetire => true
  | .spPatrol f line _ _ => decide (f < 8 ∧ line < 196608)
  | .hbmPatrol p _ _ _ _ => decide (p < 8)
  | .rotate => true
  | .sweepSegment p _ _ => decide (p < 8)
  | .sessionOpen | .sessionRelease | .releaseScrubDone _ => true
  | .mgmtHandshake i _ _ | .mgmtRetransmit i | .mgmtIdleTimeout i => decide (i < 4)
  | .readReg i _ off | .writeReg i _ off _ => decide (i < 4 ∧ off < 0x4000000)
  | .readLog i _ _ _ | .enrollOp i _ _ | .revokeOp i _ _ | .enrollImgkey i _ _ _ _ | .revokeImgkey i _ _ | .setFloor i _ _
  | .mgmtRelease i _ | .deploy i _ | .retire i _ | .firmware i _ _ _ _ _ | .probeDeck i _ _ | .inject i _ _ _ _ => decide (i < 4)
  | .getVersion _ _ | .getCapabilities _ _ | .negotiateAlgorithms _ _ _ | .getDigests _ _ | .getCertificate _ _ _ _
  | .challenge _ _ _ | .getMeasurements _ _ _ _ _ => true
  | .dbgRead f addr => decide (f < 8 ∧ addr < 2 ^ 25)
  | .calReq f b _ port _ => decide (f < 8 ∧ b < 64 ∧ port < 8)
  | .calAge f b _ | .calRetry f b | .gatherClose f b | .gatherTimeout f b | .calFitDone f b _ => decide (f < 8 ∧ b < 64)
  | .monitorWindowClose f b a bench _ => decide (f < 8 ∧ b < 64 ∧ a < 72 ∧ bench < 4)
  | .tourStart => true
  | .dwellFit f b _ | .dwellEnd f b => decide (f < 8 ∧ b < 64)
  | .faultRecordProcess _ _ _ _ _ => true
  | .histClear unit _ => decide (unit < 2 ^ 32)
  | .histClearAll _ => true
  | .histQuery unit => decide (unit < 2 ^ 32)
  | .logRead n => decide (n < 2 ^ 20)
  | .injArm i _ _ path => decide (i < 8 ∧ (path = 0 ∨ path = 1 ∨ path = 2 ∨ path = 7))
  | .probeStep f _ _ => decide (f < 8)
  | .pwrDomReq _ _ | .domainChangeDone _ _ _ | .housekeepingRound _ _ _ _ _ | .selfcal | .selfcalDone _ | .refReady => true
  | .registerWrite fn off width _ => decide (fn < 3 ∧ off < 0x4000000 ∧ (width = 1 ∨ width = 2 ∨ width = 4 ∨ width = 8))
  | .portTrainingStepEnd p _ _ => decide (p < 6)
  | .perstRelease _ _ _ | .bypForceRelease => true
  | .twaitExpiry f => decide (f < 8)
  | .domainTrickPlay src trick hand => decide (src < 4096 ∧ trick < 64 ∧ hand < 2 ^ 64)
  | .forwardedAnte src r _ _ _ _ _ => decide (src < 4096 ∧ r < 16384)
  | .seatRecordLoad _ _ | .dealerRowsDrawn => true
  | .bench3Done f _ _ _ => decide (f < 8)
  | .vprogLoss | .thermalCool _ => true

end Sys2Proof
end

