-- ==== Sys2Proof/Tests/Slice0.lean ====
section
/-! SUPPORT. Tests: commands that WellFormed refuses, Ifeom words written out from the encoding tables of the spec, single steps whose result the
spec's tables give, and states that meet the hypotheses of the obligations. -/
namespace Sys2Proof.Tests

open Sys2Proof Sys2Proof.Machine Sys2Proof.Claims

/-- The outcome is a next state of which p holds. -/
def nextHas (o : Host.Outcome State Fault Refusal) (p : State → Bool) : Bool :=
  match o with
  | .next t => p t
  | _ => false

/-- After reset, with every power domain on. -/
def on : State := State.reset.setReg .PWR_DOM_STATE 0 0x555555555555555#64

/-- A program header: ENTRY 16 and CODE_END 64, every unit used (R228). -/
def header : SMap Word := [(1, BitVec.ofNat 64 (16 + 64 * 2 ^ 17)), (2, 0xFFFFFFFFFFFFFFFF#64)]

/-- Face 0 issues from a program with that header. -/
def runs (x : Face) : State := { on with faces := [(0, { x with run := .issuing, store := header ++ x.store })] }

/-- The entry point has a valid vector v, whose target is address 40 (R237). -/
def vectorAt (v : Nat) : SMap Word := [(16 + v, BitVec.ofNat 64 (2 ^ 63 + 40))]

/-! ### Commands that WellFormed refuses -/

theorem test_wf_accepts : (Instr.phaseEnd 7 0 0 [] [] [] none).wf = true ∧ (Instr.windowOpen 7 255).wf = true ∧ (Instr.synCtrSig 7 1023 true 1 7).wf = true := by
  decide

theorem test_wf_refuses_faces : (Instr.faceReset 256).wf = false ∧ (Instr.faceResetDone 8).wf = false ∧ (Instr.hostCall 8).wf = false ∧
    (Instr.spPatrol 8 0 [] false).wf = false ∧ (Instr.engineOpStart 8 0).wf = false ∧ (Instr.twaitExpiry 8).wf = false := by decide

theorem test_wf_refuses_indices : (Instr.functionLevelReset 3).wf = false ∧ (Instr.configRequest 3).wf = false ∧ (Instr.thermalTrip 128).wf = false ∧
    (Instr.seatLimitRegrow 256).wf = false ∧ (Instr.engineOpStart 0 6).wf = false ∧ (Instr.synCtrSig 0 1024 false 0 0).wf = false ∧
    (Instr.synCtrSig 0 0 false 0 2).wf = false ∧ (Instr.windowClose 0 256).wf = false ∧ (Instr.trickCfg 256 0 0).wf = false ∧
    (Instr.dtrickCfg 64 0).wf = false ∧ (Instr.writeVerifyDone 0 64 0 true []).wf = false ∧ (Instr.backgroundRead 0 0 72 [] []).wf = false := by decide

theorem test_wf_refuses_serving : (Instr.sqDoorbell 16384 0).wf = false ∧ (Instr.srvMode 8).wf = false ∧ (Instr.prefixInstalled 4096 []).wf = false ∧
    (Instr.grammarLoadDone 64 [] []).wf = false ∧ (Instr.replicaHold 256).wf = false ∧ (Instr.domainTrickPlay 0 64 0).wf = false := by decide

theorem test_wf_refuses_links : (Instr.tick 6 0 0 0).wf = false ∧ (Instr.answer 0 0 0 7 0 0).wf = false ∧ (Instr.flit 0 [] false).wf = false ∧
    (Instr.laneFail 6 0).wf = false ∧ (Instr.commit 0 4096 0 0 [] false).wf = false ∧ (Instr.release 0 false 0 0 256 0 false).wf = false ∧
    (Instr.time 6 0 0 0 0 0).wf = false ∧ (Instr.meshPacket none { src := .face 8, dst := .host, kind := .readRequest, beats := 1 } none [] [] none).wf = false := by decide

theorem test_wf_refuses_management : (Instr.mgmtHandshake 4 none true).wf = false ∧ (Instr.readReg 0 0 0x4000000).wf = false ∧
    (Instr.dbgRead 0 (2 ^ 25)).wf = false ∧ (Instr.injArm 8 0 0 1).wf = false ∧ (Instr.injArm 0 0 0 3).wf = false ∧ (Instr.logRead (2 ^ 20)).wf = false ∧
    (Instr.registerWrite 3 0 8 0).wf = false ∧ (Instr.registerWrite 0 0 3 0).wf = false ∧ (Instr.histClear (2 ^ 32) true).wf = false ∧
    (Instr.calReq 0 0 false 8 false).wf = false ∧ (Instr.monitorWindowClose 0 0 0 4 false).wf = false ∧ (Instr.hbmPatrol 8 0 [] [] false).wf = false := by decide

/-- A word of zeros. -/
def noWord : IWord := IWord.ofStore 0 0 0 0

theorem test_wf_refuses_words : (Instr.add 0 { noWord with cls := 64 }).wf = false ∧ (Instr.add 0 { noWord with op := 1024 }).wf = false ∧
    (Instr.add 0 { noWord with len := 4 }).wf = false ∧ (Instr.add 0 { noWord with pred := 8 }).wf = false ∧
    (Instr.add 0 { noWord with w1 := 1#64 }).wf = false ∧ (Instr.add 8 noWord).wf = false := by decide

/-! ### Words of the encoding tables (R255 to R283) -/

/-- ADD s1 := s2 + s3: CLASS 0x02, OP 0x000, LEN 0, PNEG 0, PRED 0, RD [41:37], RA [36:32], RB [31:27]. -/
def addWord : IWord := IWord.ofStore 0b000010_0000000000_00_0_000_00001_00010_00011_000000000000000000000000000#64 0 0 0

/-- ADDI s1 := s2 − 1: OP 0x040, IMM16 [31:16]. -/
def addiWord : IWord := IWord.ofStore 0b000010_0001000000_00_0_000_00001_00010_1111111111111111_0000000000000000#64 0 0 0

/-- SRAI s1 := s2 >> 4: OP 0x047. -/
def sraiWord : IWord := IWord.ofStore 0b000010_0001000111_00_0_000_00001_00010_0000000000000100_0000000000000000#64 0 0 0

/-- CMPLT p1 := s2 < s3 (OP 0x092): PD [41:39], RA [36:32], RB [31:27]. -/
def cmpltWord : IWord := IWord.ofStore 0b000010_0010010010_00_0_000_001_00_00010_00011_000000000000000000000000000#64 0 0 0

/-- BR 20: CLASS 0x01, OP 0x001, TARGET [16:0]; the same, guarded by p3. -/
def brWord : IWord := IWord.ofStore 0b000001_0000000001_00_0_000_0000000000000000000000000_00000000000010100#64 0 0 0
def brIfWord : IWord := IWord.ofStore 0b000001_0000000001_00_0_011_0000000000000000000000000_00000000000010100#64 0 0 0

/-- LI s5 := word 1 (OP 0x080, LEN 1); LD s1 from s2 + 8 (OP 0x0C0); ST s1 there (OP 0x0C1). -/
def liWord : IWord := IWord.ofStore 0b000010_0010000000_01_0_000_00101_0000000000000000000000000000000000000#64 7 0 0
def ldWord : IWord := IWord.ofStore 0b000010_0011000000_00_0_000_00001_00010_0000000000001000_0000000000000000#64 0 0 0
def stWord : IWord := IWord.ofStore 0b000010_0011000001_00_0_000_00001_00010_0000000000001000_0000000000000000#64 0 0 0

/-- RSETI a4 (CLASS 0x03, OP 0x001, LEN 1, AD [41:38]): BASE 128, LEN 256, GROUPS 1 in word 1. -/
def rsetiWord : IWord := IWord.ofStore 0b000011_0000000001_01_0_000_0100_00000000000000000000000000000000000000#64 (BitVec.ofNat 64 (128 + 256 * 2 ^ 25 + 2 ^ 50)) 0 0

/-- MOVL a1 to a2 (CLASS 0x04, OP 0x000): AL [41:38], AR [37:34], CTR [33:24], CEN [23]. -/
def movlWord : IWord := IWord.ofStore 0b000100_0000000000_00_0_000_0001_0010_0000000000_0_00000000000000000000000#64 0 0 0

/-- SIG k5 by s2 + 3 (CLASS 0x10, OP 0x000): K [41:32], RA [31:27], IMM16 [15:0]; WAIT k5 likewise (OP 0x003). -/
def sigWord : IWord := IWord.ofStore 0b010000_0000000000_00_0_000_0000000101_00010_00000000000_0000000000000011#64 0 0 0
def waitWord : IWord := IWord.ofStore 0b010000_0000000011_00_0_000_0000000101_00010_00000000000_0000000000000011#64 0 0 0

/-- FENCE of every queue (CLASS 0x3F, OP 0x000) and TRAP 2 with IMM32 9 (OP 0x001): N [36:32], IMM32 [31:0]. -/
def fenceWord : IWord := IWord.ofStore 0b111111_0000000000_00_0_000_000000000000000000000000000000000000_000000#64 0 0 0
def trapWord : IWord := IWord.ofStore 0b111111_0000000001_00_0_000_00000_00010_00000000000000000000000000001001#64 0 0 0

/-- END (CLASS 0x01, OP 0x007) and RTE (OP 0x008). -/
def endWord : IWord := IWord.ofStore 0b000001_0000000111_00_0_000_000000000000000000000000000000000000000000#64 0 0 0
def rteWord : IWord := IWord.ofStore 0b000001_0000001000_00_0_000_000000000000000000000000000000000000000000#64 0 0 0

/-- Each word is what its table's layout reads, and no other operation's (R256, R257). -/
theorem test_words_decode : (formRRR 0x000).decodes addWord = true ∧ (formRRI 0x040).decodes addiWord = true ∧ (formRRI 0x047).decodes sraiWord = true ∧
    (formPRR 0x092).decodes cmpltWord = true ∧ (ctlForm 1 [(0, 17)]).decodes brWord = true ∧ ldForm.decodes ldWord = true ∧ stForm.decodes stWord = true ∧
    rsetiForm.decodes rsetiWord = true ∧ movlForm.decodes movlWord = true ∧ (formKN 0x000).decodes sigWord = true ∧
    (sysForm 0 [(0, 6)]).decodes fenceWord = true ∧ (sysForm 1 [(32, 5), (0, 32)]).decodes trapWord = true ∧ (formRRR 0x001).decodes addWord = false := by decide

/-- A word of all zeros is undecodable (R256). -/
theorem test_zero_word_undecodable : assigned noWord.cls noWord.op = false := by decide

/-! ### Single steps of Ifeom instructions -/

theorem test_add_wraps : nextHas (exec (.add 0 addWord) (runs { s := [(2, 0xFFFFFFFFFFFFFFFF#64), (3, 2#64)] }))
    (fun t => (t.face 0).sreg 1 = 1#64 && (t.face 0).pc == 1) = true := by decide

theorem test_addi_sign_extends : nextHas (exec (.addi 0 addiWord) (runs { s := [(2, 5#64)] })) (fun t => (t.face 0).sreg 1 = 4#64) = true := by decide

theorem test_srai_keeps_sign : nextHas (exec (.srai 0 sraiWord) (runs { s := [(2, 0x8000000000000000#64)] }))
    (fun t => (t.face 0).sreg 1 = 0xF800000000000000#64) = true := by decide

theorem test_cmplt_signed : nextHas (exec (.cmplt 0 cmpltWord) (runs { s := [(2, 0xFFFFFFFFFFFFFFFF#64), (3, 1#64)] }))
    (fun t => (t.face 0).preg 1) = true := by decide

theorem test_br : nextHas (exec (.br 0 brWord) (runs {})) (fun t => (t.face 0).pc == 20) = true := by decide

theorem test_guard_skips : nextHas (exec (.br 0 brIfWord) (runs {})) (fun t => (t.face 0).pc == 1) = true := by decide

theorem test_li_two_words : nextHas (exec (.li 0 liWord) (runs {})) (fun t => (t.face 0).sreg 5 = 7#64 && (t.face 0).pc == 2) = true := by decide

theorem test_st_then_ld : nextHas (exec (.st 0 stWord) (runs { s := [(1, 9#64), (2, 120#64)] }))
    (fun t => ((t.face 0).padWord 16).data = 9#64 && nextHas (exec (.ld 0 ldWord) t) (fun u => (u.face 0).sreg 1 = 9#64)) = true := by decide

theorem test_ld_misaligned_traps : nextHas (exec (.ld 0 ldWord) (runs { s := [(2, 1#64)], store := vectorAt 5 }))
    (fun t => (t.face 0).pc == 40 && (t.face 0).tcause == 5 && (t.face 0).tpc == 0) = true := by decide

theorem test_rseti : nextHas (exec (.rseti 0 rsetiWord) (runs {})) (fun t => rngBase ((t.face 0).areg 4) == 128 && rngLen ((t.face 0).areg 4) == 256) = true := by
  decide

theorem test_movl_queues : nextHas (exec (.movl 0 movlWord) (runs { a := [(1, BitVec.ofNat 64 (128 * 2 ^ 25 + 15 * 2 ^ 50)), (2, BitVec.ofNat 64 (1024 + 128 * 2 ^ 25 + 15 * 2 ^ 50))] }))
    (fun t => (t.face 0).queue.length == 1 && (t.face 0).sb.length == 2) = true := by decide

theorem test_sig_adds : nextHas (exec (.sig 0 sigWord) (runs { s := [(2, 1#64)], ctr := [(5, { value := 2, ceil := 10, declared := true })] }))
    (fun t => (mget {} (t.face 0).ctr 5).value == 6) = true := by decide

theorem test_sig_above_ceiling_revokes : nextHas (exec (.sig 0 sigWord) (runs { ctr := [(5, { value := 2, ceil := 4, declared := true })], store := vectorAt 3 }))
    (fun t => (mget {} (t.face 0).ctr 5).value == 2 && (t.face 0).tcause == 3 && (t.face 0).pc == 40) = true := by decide

theorem test_wait_stalls : nextHas (exec (.wait 0 waitWord) (runs { ctr := [(5, { value := 2, ceil := 4, declared := true })] }))
    (fun t => decide ((t.face 0).run = .stalled (.wait 5 3))) = true := by decide

theorem test_trap_enters : nextHas (exec (.trap 0 trapWord) (runs { store := vectorAt 34 }))
    (fun t => (t.face 0).pc == 40 && (t.face 0).tpc == 1 && (t.face 0).tinfo = 9#64 && (t.face 0).tcause == 34) = true := by decide

theorem test_rte_resumes : nextHas (exec (.rte 0 rteWord) (runs { handler := .software, tpc := 7 }))
    (fun t => (t.face 0).pc == 7 && decide ((t.face 0).handler = .none)) = true := by decide

theorem test_end_retires : nextHas (exec (.endProg 0 endWord) (runs { s := [(31, 3#64)] }))
    (fun t => decide ((t.face 0).run = .ended) && (t.face 0).result = 3#64) = true := by decide

/-! ### Single steps of other commands -/

theorem test_step_takes_front : nextHas (step { on with pending := [.windowOpen 0 9, .warmReset] })
    (fun t => decide (t.pending = [.warmReset]) && t.rd R.SYN_WIN_STATE.REFUSE 9 == 1) = true := by decide

theorem test_idle_steps : nextHas (step State.reset) (fun t => t.now == 1) = true := by decide

theorem test_warm_reset_takes_ready : nextHas (exec .warmReset (on.wr R.PLT_BOOT_STATE.READY 0 1))
    (fun t => t.rd R.PLT_BOOT_STATE.READY 0 == 0 && t.hif.warm) = true := by decide

theorem test_narrow_write_ignored : nextHas (exec (.registerWrite 0 0x2000000 4 1) on) (fun t => decide (t.regs = on.regs)) = true := by decide

theorem test_handshake_fifth_refused : nextHas (exec (.mgmtHandshake 4 none true)
      { on with mgmt := { sessions := [(0, { live := true }), (1, { live := true }), (2, { live := true }), (3, { live := true })] } })
    (fun t => t.mgmt.sessions.length == 4) = true := by decide

theorem test_hist_clear_needs_management : nextHas (exec (.histClear 5 false) { on with hist := [(5, { count := 3 })] })
    (fun t => (mget {} t.hist 5).count == 3) = true := by decide

theorem test_abort_drops_signals : nextHas (exec (.abort 0 0 7 3) { on with sigrs := [⟨7, 3, 0, 1, 1, false⟩, ⟨7, 4, 0, 1, 1, false⟩] })
    (fun t => t.sigrs.length == 1 && decide (t.aborts = [(7, 3)])) = true := by decide

theorem test_rotate_refused_when_clean : nextHas (exec .rotate (on.wr R.KEY_SESSION.STATE 0 0))
    (fun t => t.rd R.KEY_ROT_CTL.REFUSE 0 == 1 && t.rd R.KEY_ROT_CTL.REASON 0 == 1) = true := by
  decide

/-! ### States that meet the hypotheses of the obligations -/

/-- A word with CLASS, OP, LEN and operand fields (position, value). -/
def ins (cls op len : Nat) (fs : List (Nat × Nat)) (w1 w2 w3 : Nat) : IWord :=
  IWord.ofStore (BitVec.ofNat 64 (cls * 2 ^ 58 + op * 2 ^ 48 + len * 2 ^ 46 + (fs.map (fun e => e.2 * 2 ^ e.1)).sum)) (BitVec.ofNat 64 w1)
    (BitVec.ofNat 64 w2) (BitVec.ofNat 64 w3)

/-- A range image with every group: base, length. -/
def rng (base len : Nat) : Word := BitVec.ofNat 64 (base + len * 2 ^ 25 + 15 * 2 ^ 50)

theorem witness_StepRunsTheFrontCommand : ({ on with pending := [.warmReset] } : State).pending = .warmReset :: [] := rfl
theorem witness_EmptyQueueIdles : on.pending = [] := rfl

theorem witness_FalseGuardSkips : (runs {}).face 0 = (runs {}).face 0 ∧ ((runs {}).face 0).run = .issuing ∧ ((runs {}).face 0).pc < ((runs {}).face 0).codeEnd ∧
    ((runs {}).face 0).badWord 0 1 = none ∧ (ctlForm 1 [(0, 17)]).decodes brIfWord = true ∧ guardTrue ((runs {}).face 0) brIfWord = false ∧
    ifeomForm (.br 0 brIfWord) = some (0, brIfWord, ctlForm 1 [(0, 17)]) := by decide

theorem witness_OnlyIssuingFacesExecute : (on.face 0).run ≠ .issuing ∧ ifeomForm (.add 0 addWord) = some (0, addWord, formRRR 0x000) := by decide

theorem witness_quiet : Quiet (runs {}) := ⟨rfl, rfl, by decide, rfl⟩

theorem witness_FetchAndDecodeTraps : ((runs { store := vectorAt 8 }).face 0).vector 8 = some 40 ∧ (formRRR 0x000).decodes (ins 2 0 1 [] 0 0 0) = false ∧
    (formRRR 0x000).names (ins 2 0 1 [] 0 0 0) = true ∧ 64 ≤ ((runs { pc := 64 }).face 0).pc := by decide

theorem witness_ScalarResults : Issues (runs {}) 0 addWord (formRRR 0x000) ∧ Issues (runs {}) 0 addiWord (formRRI 0x040) :=
  ⟨⟨by decide, by decide, by decide, by decide, by decide⟩, ⟨by decide, by decide, by decide, by decide, by decide⟩⟩

theorem witness_CompareResults : Issues (runs {}) 0 cmpltWord (formPRR 0x092) := ⟨by decide, by decide, by decide, by decide, by decide⟩

theorem witness_PredicateResults : Issues (runs {}) 0 (ins 2 0x0A0 0 [] 0 0 0) (formPPP 0x0A0) ∧ Issues (runs {}) 0 (ins 2 0x0A8 0 [(16, 63)] 0 0 0) (formPRI 0x0A8) :=
  ⟨⟨by decide, by decide, by decide, by decide, by decide⟩, ⟨by decide, by decide, by decide, by decide, by decide⟩⟩

theorem witness_ReadsIntoRD : Issues (runs {}) 0 liWord ⟨0x02, 0x080, 1, [(37, 5)], [(0, 64)], [], []⟩ ∧
    Issues (runs {}) 0 (ins 2 0x0B0 0 [(24, 11)] 0 0 0) ⟨0x02, 0x0B0, 0, [(37, 5), (24, 8)], [], [], []⟩ ∧
    (11, 0#64) ∈ specialValue (runs {}) 0 ∧ 7 ∉ (specialValue (runs {}) 0).map (·.1) :=
  ⟨⟨by decide, by decide, by decide, by decide, by decide⟩, ⟨by decide, by decide, by decide, by decide, by decide⟩, by decide, by decide⟩

/-- The last word of the 24 MiB is the boundary of a scalar access. -/
theorem witness_LoadResult : Issues (runs { s := [(2, 0x17FFFF0#64)] }) 0 ldWord ldForm ∧ WordClear (runs { s := [(2, 0x17FFFF0#64)] }) 0 ldWord false ∧
    wordAddr (runs { s := [(2, 0x17FFFF0#64)] }) 0 ldWord = 0x17FFFF8#64 :=
  ⟨⟨by decide, by decide, by decide, by decide, by decide⟩, ⟨by decide, by decide, by decide, by decide⟩, by decide⟩

theorem witness_StoreResult : Issues (runs {}) 0 stWord stForm ∧ WordClear (runs {}) 0 stWord true ∧ Unraced (runs {}) 0 0 :=
  ⟨⟨by decide, by decide, by decide, by decide, by decide⟩, ⟨by decide, by decide, by decide, by decide⟩,
    fun e he n hn => by
      have : e = ((runs {}).faces.headD (0, {})) := by simpa [runs, on] using he
      subst this
      exact absurd hn List.not_mem_nil⟩

theorem witness_WordAddressTraps : 2 ^ 25 ≤ (wordAddr (runs { s := [(2, 0x1FFFFF8#64)] }) 0 ldWord).toNat ∧
    (wordAddr (runs { s := [(2, 1#64)] }) 0 ldWord).toNat % 8 ≠ 0 ∧ ((runs { store := vectorAt 5 }).face 0).vector 5 = some 40 := by decide

theorem witness_BranchResults : Issues (runs {}) 0 brWord (ctlForm 1 [(0, 17)]) ∧ fTarget brWord < ((runs {}).face 0).codeEnd ∧
    Issues (runs {}) 0 (ins 1 3 0 [(32, 2)] 0 0 0) (ctlForm 3 [(32, 5)]) ∧ Issues (runs {}) 0 (ins 1 4 0 [(40, 3), (0, 7)] 0 0 0) (ctlForm 4 [(40, 2), (32, 5), (0, 32)]) :=
  ⟨⟨by decide, by decide, by decide, by decide, by decide⟩, by decide, ⟨by decide, by decide, by decide, by decide, by decide⟩,
    ⟨by decide, by decide, by decide, by decide, by decide⟩⟩

theorem witness_LoopBranch : Issues (runs { l := [(0, 0xFFFFFFFF)] }) 0 (ins 1 5 0 [(0, 20)] 0 0 0) (ctlForm 5 [(40, 2), (0, 17)]) ∧
    ((runs { l := [(0, 0xFFFFFFFF)] }).face 0).lreg 0 < 2 ^ 32 :=
  ⟨⟨by decide, by decide, by decide, by decide, by decide⟩, by decide⟩

theorem witness_BranchTraps : ((runs {}).face 0).codeEnd ≤ fTarget (ins 1 1 0 [(0, 64)] 0 0 0) ∧
    Issues (runs {}) 0 (ins 1 1 0 [(0, 64)] 0 0 0) (ctlForm 1 [(0, 17)]) :=
  ⟨by decide, ⟨by decide, by decide, by decide, by decide, by decide⟩⟩

theorem witness_TimedWait : Issues (runs { s := [(2, 5#64)] }) 0 (ins 1 6 0 [(32, 2)] 0 0 0) (ctlForm 6 [(32, 5)]) ∧
    ({ runs { s := [(2, 5#64)] } with hand := { expiry := 9 } } : State).now < min (((runs { s := [(2, 5#64)] }).face 0).sreg 2).toNat 9 :=
  ⟨⟨by decide, by decide, by decide, by decide, by decide⟩, by decide⟩

theorem witness_EndRetires : Issues (runs {}) 0 endWord (ctlForm 7 []) ∧ ((runs {}).face 0).drained = true ∧ (runs {}).imbalance 0 = none :=
  ⟨⟨by decide, by decide, by decide, by decide, by decide⟩, by decide, by decide⟩

theorem witness_HandlerReturn : Issues (runs { handler := .warning, heldWarn := true }) 0 rteWord (ctlForm 8 []) ∧
    ((runs { handler := .warning, heldWarn := true, store := vectorAt 2 }).face 0).vector 2 = some 40 :=
  ⟨⟨by decide, by decide, by decide, by decide, by decide⟩, by decide⟩

/-- TRAP's N is 0 to 31: the last vector is 63. -/
theorem witness_SoftwareTrap : Issues (runs { store := vectorAt 63 }) 0 (ins 63 1 0 [(32, 31)] 0 0 0) (sysForm 1 [(32, 5), (0, 32)]) ∧
    ((runs { store := vectorAt 63 }).face 0).vector (32 + opf (ins 63 1 0 [(32, 31)] 0 0 0) 32 5) = some 40 :=
  ⟨⟨by decide, by decide, by decide, by decide, by decide⟩, by decide⟩

theorem witness_FenceResults : Issues (runs {}) 0 fenceWord (sysForm 0 [(0, 6)]) := ⟨by decide, by decide, by decide, by decide, by decide⟩

/-- The longest range, and a range that ends with group 0. -/
theorem witness_RangeResults : RangeOk 0 25165824 15 ∧ RangeOk 128 (49152 * 128 - 128) 1 ∧ Issues (runs {}) 0 rsetiWord rsetiForm := by
  refine ⟨⟨by decide, by decide, by decide, by decide⟩, ⟨by decide, by decide, by decide, by decide⟩, ⟨by decide, by decide, by decide, by decide, by decide⟩⟩

theorem witness_RangeTraps : Issues (runs {}) 0 (ins 3 0 0 [] 0 0 0) rsetForm ∧ (((runs {}).face 0).sreg 0).toNat = 0 :=
  ⟨⟨by decide, by decide, by decide, by decide, by decide⟩, by decide⟩

/-- A counter at its ceiling. -/
def counting : State := runs { ctr := [(5, { value := 4, ceil := 7, declared := true })], s := [(2, 0#64)] }

theorem witness_CounterResults : Issues counting 0 sigWord (formKN 0x000) ∧ (counting.face 0).declares (fK sigWord) = true ∧
    (0 : Int) ≤ 4 + 3 ∧ (4 : Int) + 3 ≤ ((mget {} (counting.face 0).ctr 5).ceil : Int) :=
  ⟨⟨by decide, by decide, by decide, by decide, by decide⟩, by decide, by decide, by decide⟩

theorem witness_WaitResults : Issues counting 0 waitWord (formKN 0x003) ∧ (counting.face 0).declares (fK waitWord) = true :=
  ⟨⟨by decide, by decide, by decide, by decide, by decide⟩, by decide⟩

theorem witness_CounterTraps : ((runs {}).face 0).declares (fK sigWord) = false := by decide

theorem witness_SignalResults : Issues (runs {}) 0 (ins 16 1 0 [(16, 255)] 0 0 0) sigfForm ∧ opf (ins 16 1 0 [(16, 254)] 0 0 0) 16 8 < 2 ^ (runs {}).nFaces :=
  ⟨⟨by decide, by decide, by decide, by decide, by decide⟩, by decide⟩

/-- Face 0 plays trick 3, whose home is face 1, through handle 0. -/
def playing : State :=
  (runs { handles := [(0, { listed := true, trick := 3 })] }).wr R.SYN_TRICK_CFG.PARTIES 3 2 |>.wr R.SYN_TRICK_CFG.HOME 3 1

theorem witness_PlayResults : Issues playing 0 (ins 16 5 0 [] 0 0 0) (syncForm 0x005 [(34, 8)]) ∧
    (mget {} (playing.face 0).handles 0).listed = true ∧ playing.rd R.SYN_TRICK_CFG.PARTIES 3 ≠ 0 ∧ playing.rd R.SYN_TRICK_CFG.HOME 3 ≠ 0 :=
  ⟨⟨by decide, by decide, by decide, by decide, by decide⟩, by decide, by decide, by decide⟩

theorem witness_TrickWaitResults : Issues playing 0 (ins 16 6 0 [] 0 0 0) (syncForm 0x006 [(34, 8)]) ∧
    ∀ g ∈ (playing.face 0).sameTrick (mget {} (playing.face 0).handles 0), g.played = false :=
  ⟨⟨by decide, by decide, by decide, by decide, by decide⟩, by decide⟩

/-- Face 0 with two ranges of a line, and one in G3. -/
def ranged : State := runs { a := [(1, rng 0 128), (2, rng 1024 128), (3, rng 0xC00000 128)] }

theorem witness_MovesQueue : Issues ranged 0 movlWord movlForm ∧ Room ranged 0 .mover [(rng 0 128, false), (rng 1024 128, true)] ∧
    AllPass [portFail ranged 0 (rng 0 128) 15 false 1 1, lineFail (rng 0 128) 1 1, portFail ranged 0 (rng 1024 128) 15 true 2 2, lineFail (rng 1024 128) 2 2] ∧
    PortOk ranged (ranged.face 0) 5 ∧ ranged.stackOn 7 = true :=
  ⟨⟨by decide, by decide, by decide, by decide, by decide⟩, ⟨by decide, by decide, by decide⟩,
    by unfold AllPass; decide, ⟨by decide, by decide, by decide⟩, by decide⟩

theorem witness_ServingOpsQueue : Issues ranged 0 (ins 17 1 0 [(38, 3), (0, 1)] 0 0 0) (serveForm 1 [(0, 16)]) ∧ (ranged.face 0).uses 4 = true ∧
    ranged.domOn 29 = true ∧ 0xC00000 ≤ rngBase (rng 0xC00000 128) ∧ portFail ranged 0 (rng 0xC00000 128) 15 true 1 3 = none ∧
    Room ranged 0 .serving [(rng 0xC00000 128, true)] :=
  ⟨⟨by decide, by decide, by decide, by decide, by decide⟩, by decide, by decide, by decide, by decide, ⟨by decide, by decide, by decide⟩⟩

theorem witness_EngineUnitTraps : Issues (runs {}) 0 (ins 9 0 2 [] 0 0 0) fineForm ∧ ({ runs {} with regs := [] } : State).engOn 0 = false :=
  ⟨⟨by decide, by decide, by decide, by decide, by decide⟩, by decide⟩

/-- An APROG under a grant for weight set 4 of copy A, whose record comes from two blocks of ranges. -/
def granting : State :=
  (runs { a := [(1, rng 0 33408), (2, rng 34816 128)] }).wr R.ARF_PROG_GRANT.W 0 4 |>.wr R.ARF_PROG_GRANT.OPEN 0 1

theorem witness_ArrayOpsQueue : Issues granting 0 (ins 8 16 1 [(38, 1), (34, 2)] 4 0 0) aprogForm ∧ granting.granted 0 4 0 = true ∧
    UnitOk granting 0 (ins 8 16 1 [(38, 1), (34, 2)] 4 0 0) 0 State.arrayOn ∧ sharesLine (rng 34816 128) (rng 0 33408) = false ∧
    portFail granting 0 (rng 0 33408) 3 false 1 1 = none ∧ Room granting 0 .array [(rng 0 33408, false), (rng 34816 128, true)] :=
  ⟨⟨by decide, by decide, by decide, by decide, by decide⟩, by decide, ⟨by decide, by decide, by decide⟩, by decide, by decide,
    ⟨by decide, by decide, by decide⟩⟩

/-- A FINE of a 1 × 1 by 1 × 1 BF16 product. -/
def fineWord : IWord := ins 9 0 2 [(38, 1), (34, 2)] (3 + 2 ^ 8 + 2 ^ 24 + 2 ^ 41) (1 + 2 ^ 16 + 2 ^ 32) 0

theorem witness_FineAndScoreQueue : Issues (runs {}) 0 fineWord fineForm ∧ UnitOk (runs {}) 0 fineWord 1 State.engOn ∧ finePair 0 0 = true ∧
    fget fineWord.w1 8 16 = 1 ∧ fget fineWord.w1 24 17 = 1 ∧ fget fineWord.w1 41 17 = 1 ∧
    Room (runs {}) 0 .fine [(rng 0xC00000 128, false), (rng 0xC00080 128, false), (rng 0xC00100 128, true)] :=
  ⟨⟨by decide, by decide, by decide, by decide, by decide⟩, ⟨by decide, by decide, by decide⟩, by decide, by decide, by decide, by decide,
    ⟨by decide, by decide, by decide⟩⟩

/-- VADD of one BF16 element a row. -/
def vopWord : IWord := ins 11 0 2 [(38, 1), (34, 2), (19, 3)] (1 + 2 ^ 16) 0 0

theorem witness_VectorOpsQueue : Issues (runs {}) 0 vopWord (vopForm 0) ∧ UnitOk (runs {}) 0 vopWord 3 State.engOn ∧ (vopRow 0).inOk 0 = true ∧
    (vopRow 0).outOk 0 = true ∧ (vopRow 0).modeOk 0 = true ∧ Room (runs {}) 0 .vector [(rng 0 128, false), (rng 128 128, false), (rng 256 128, true)] :=
  ⟨⟨by decide, by decide, by decide, by decide, by decide⟩, ⟨by decide, by decide, by decide⟩, by decide, by decide, by decide,
    ⟨by decide, by decide, by decide⟩⟩

/-! Resets, ports and hands. -/

/-- Ticks run, one every 100 µs. -/
def tickingOn : State := on.wr R.SYN_TICK_PERIOD.PERIOD 0 100000

/-- The values of a boot that ends well, and a device whose firmware slots do not verify. -/
def goodBoot : Boot := ⟨0, [], false, false, 6, 16, true, [], 90⟩
def noFirmware : State := { on with mgmt := { fw := [(0, { good := false }), (1, { good := false })] } }

theorem sound_on : on.Sound :=
  ⟨by decide, by decide, by decide, by decide, by decide, by decide, by decide, ⟨⟨.vsn88X, 0⟩, by decide, by decide⟩, fun v h => absurd (show none = some v from h) (by simp)⟩

theorem witness_ColdResets : NoFirmware noFirmware ∧ on.dead = false ∧ ¬ NoFirmware on ∧ goodBoot.vioLate = false ∧ goodBoot.badRail = false ∧
    ({ on with dead := true, power := { sens := [(0, { hot := true })] } } : State).anyHot = true ∧
    ({ on with coldHeld := true } : State).coldHeld = true :=
  ⟨by unfold NoFirmware; decide, by decide, fun h => absurd (h 0 (by decide)) (by decide), rfl, rfl, by decide, rfl⟩

theorem witness_WarmResets : on.hif.warm = false ∧ NothingWaits { on with key := {}, hif := { warm := true } } ∧
    ∀ j ∈ on.writes, j.started = false :=
  ⟨rfl, ⟨rfl, by decide, by decide, by decide, rfl, by decide, by decide⟩, by decide⟩

theorem witness_HostResets : NothingOpen tickingOn ∧ tickingOn.hif.perstLow = false ∧
    ({ on with hif := { perstLow := true } } : State).domOn 28 = true :=
  ⟨⟨rfl, by decide, by decide, by decide, by decide⟩, rfl, by decide⟩

/-- Face 7 is the last; an automatic reset of it is due at 5. -/
theorem witness_FaceResets : MayReset on 7 ∧ MayReset { on with faces := [(7, { autoReset := some 5 })] } 7 ∧
    (({ tickingOn with faces := [(0, { inReset := true })] } : State).face 0).inReset = true :=
  ⟨⟨by decide, by decide, by decide, rfl⟩, ⟨by decide, by decide, by decide, rfl⟩, by decide⟩

/-- Port 2 leads to the tree's root and is ACTIVE. -/
def treed : State :=
  ((on.wr R.LNK_TREE.PARENT_VALID 0 1).wr R.LNK_TREE.PARENT 0 2).wr R.LNK_PORT_STATE.STATE 2 4

theorem witness_ControlLaneResults : treed.fromParent 2 = true ∧ treed.now ≤ 0 ∧ (∀ e ∈ treed.ringLost, e.1 ≠ .tick) ∧ ({ treed with now := 1 } : State).now > 0 ∧
    treed.fromParent 3 = false ∧ (∀ g < 8, ∀ k, (treed.face g).run = .stalled k → ∃ h, k = .waitt h) ∧
    treed.rd R.LNK_TREE.PARENT_VALID (treed.rd R.LNK_TIME_STAT.TREE 0) = 1 ∧ treed.rd R.LNK_PORT_STATE.STATE 2 = 4 ∧ mget [] treed.txq 2 = [] :=
  ⟨by decide, by decide, by decide, by decide, by decide, by
    intro g hg k hk
    have h0 : (treed.face g).run = .off := by
      have : ∀ i < 8, (treed.face i).run = .off := by decide
      exact this g hg
    rw [h0] at hk
    exact Run.noConfusion hk, by decide, by decide, by decide⟩

/-- A flit of zeros, with its check. -/
def zeroFlit : List Word := List.replicate 39 0#64 ++ [BitVec.ofNat 64 (crc64 (wordBytes (List.replicate 39 0#64)))]

theorem witness_ControlLaneResults_flit : flitOk zeroFlit = true ∧ fget (zeroFlit.headD 0#64) 0 12 = (treed.port 2).rxSeq ∧ flitOk [] = false := by
  refine ⟨?_, by decide, by decide⟩
  have h1 : zeroFlit.take 39 = List.replicate 39 0#64 := rfl
  have h2 : zeroFlit.getD 39 0#64 = BitVec.ofNat 64 (crc64 (wordBytes (List.replicate 39 0#64))) := rfl
  unfold flitOk
  rw [h1, h2]
  simp [zeroFlit]

/-- Port 2 is enabled, with every lane good and a peer that agrees to 16 lanes. -/
def enabled (step : Nat) : State :=
  { tickingOn.wr R.LNK_PORT_CTL.EN 2 1 with ports := [(2, { step := step, good := 0x1FFFF, holdoff := true })] }

theorem witness_PortResults : (enabled 0).portCan 2 = true ∧ (enabled 0).isPerm (unitId 12 2 0 0 0) = false ∧ ((enabled 0).port 2).holdoff = true ∧
    (∀ i < 17, (enabled 1).isPerm (unitId 11 2 0 0 i) = false) ∧ Nat.land ((enabled 1).port 2).good 1 ≠ 0 ∧ Nat.land ((enabled 4).port 2).good 0 = 0 ∧
    (enabled 5).ticking = true ∧ (enabled 5).widthFor 2 (lanesOutside 2 (2 ^ laneCount 2 - 1 - Nat.land ((enabled 5).port 2).good 0x1FFFF)).length = some 16 :=
  ⟨by decide, by decide, by decide, by decide, by decide, by decide, by decide, by decide⟩

theorem witness_PortResults_lanes : 16 < laneCount 2 ∧ bit (on.rd R.LNK_LANE_STATE.FAILED 2) 16 = false ∧ on.rd R.LNK_PORT_STATE.STATE 2 ≠ 4 ∧
    Recordable on { det := .laneFail, unit := unitId 11 2 0 0 16, d0 := 1#64 } ∧ on.rd R.LNK_LANE_CFG.CORR_THRESH 2 ≤ on.rd R.LNK_LANE_CFG.CORR_THRESH 2 ∧
    (treed.port 2).proposed = none ∧ on.rd R.LNK_BYP_CTL.AT_HAND 0 ≠ 1 ∧ on.rd R.LNK_BYP_CTL.FORCE 0 ≠ 1 ∧ on.vaonLow = false ∧
    (on.wr R.LNK_BYP_CTL.AT_HAND 0 1).rd R.LNK_BYP_CTL.AT_HAND 0 = 1 ∧ (on.wr R.LNK_BYP_CTL.FORCE 0 1).rd R.LNK_BYP_CTL.FORCE 0 = 1 :=
  ⟨by decide, by decide, by decide, ⟨rfl, rfl, by decide, by decide, by decide⟩, by decide, by decide, by decide, by decide, rfl, by decide, by decide⟩

/-- A worker with every program ACTIVE and a session OPEN, told of the tick of hand 3. -/
def worker : State :=
  { ((List.range 8).foldl (fun s f => s.wr R.FCE_PROG_STATE.STATE f 3) on).wr R.KEY_SESSION.STATE 0 2 |>.wr R.SYN_ROLE.ROLE 0 1 with
    hand := { ann := some (3, 100, 100000) } }

theorem witness_HandEntry : FallsDue worker 3 100 100000 ∧ worker.handsStopped = false ∧ worker.canRun = true ∧
    ({ worker with holds := [(3, true)] } : State).heldIn 3 = true ∧ (∀ f < worker.nFaces, (worker.face f).entryTraps = []) ∧
    (worker.wr R.FCE_PROG_STATE.STATE 7 2).canRun = false ∧ (worker.wr R.KEY_SESSION.STATE 0 4).handsStopped = true :=
  ⟨⟨rfl, by decide, rfl, by decide⟩, by decide, by decide, by decide, by decide, by decide, by decide⟩

/-- The hand of the worker runs, up to 500; all faces have retired END but for those listed. -/
def handRuns (xs : SMap Face) : State :=
  { worker with hand := { running := true, expiry := 500 }, faces := xs }

def allEnded : SMap Face := (List.range 8).map (fun f => (f, { run := .ended, endTime := some 400 }))

theorem witness_HandTimes : ({ worker with hand := { ticked := true, period := 5, missedRow := 2 } } : State).hand.period ≠ 0 ∧
    (worker.wr R.SYN_ROLE.STANDBY_VALID 0 1).isStandby = false ∧
    (worker.wr R.FCE_HAND_WARN.MARGIN 0 10).rd R.FCE_HAND_WARN.MARGIN 0 ≠ 0 ∧ ({ store := header ++ vectorAt 2 } : Face).vector 2 = some 40 ∧
    ({ worker with hand := { idle := true, abortOwed := some 3 } } : State).hand.abortOwed = some 3 ∧
    (handRuns allEnded).hand.running = true ∧ HandGood (atExpiry (handRuns allEnded)) ∧ ¬ HandGood (atExpiry (handRuns [])) ∧
    tickingOn.isManager = true ∧ tickingOn.waitAck = false ∧ tickingOn.rd R.SYN_ROLE.STANDBY_VALID 0 = 0 := by
  refine ⟨by decide, by decide, by decide, by decide, by decide, rfl, ⟨by decide, by decide⟩, fun h => absurd (h.2 0 (by decide)) (by decide), by decide,
    rfl, by decide⟩

/-- Where no message of the call ring has been lost, none of any kind has. -/
theorem noneLost {s : State} {k : RKind} (h : s.ringLost = []) : NoneLost s k := by simp [NoneLost, h]

/-- Device 1 is reached through port 2, which is ACTIVE. -/
def routed : State :=
  ((on.wr (R.LNK_ROUTE.PORT 1) 0 2).wr (R.LNK_ROUTE.VALID 1) 0 1).wr R.LNK_PORT_STATE.STATE 2 4

theorem witness_RoutedNow : RoutedNow routed 1 2 := ⟨⟨false, by decide⟩, by decide⟩

/-- A manager of two replicas of one stage: devices 0, itself, and 1. -/
def manages : State := { routed with manifest := [(0, 0, 0), (1, 0, 1)] }

theorem witness_RoleResults : FromManager treed 2 0 ∧ NoneLost on .role ∧ 0 < (on.wr R.SYN_ROLE.TERM 0 1).term ∧ on.term < 1 ∧
    on.fromParentOf 1 2 = false ∧ treed.fromParentOf 0 2 = true ∧ 1 ≠ on.devAddr ∧
    ({ on.wr R.SYN_ROLE.ROLE 0 3 with hand := { missedRow := 3 }, manifest := [(0, 0, 0)] } : State).isStandby = true ∧
    (on.wr R.SYN_ROLE.ROLE 0 2).rd R.SYN_ROLE.ROLE 0 = 2 ∧ on.missedFrom.contains 1 = false ∧ on.isManager = true ∧ on.copyTo ≠ some 1 ∧
    ({ on with copyTo := some 1 } : State).copyTo = some 1 ∧ ({ on with waitAck := true, decided := 4 } : State).decided ≤ max 0 4 ∧
    Recordable { on with waitAck := true } { det := .mirrorLost, unit := unitId 21 0 0 0 0 + on.rd R.SYN_ROLE.STANDBY 0, d0 := 0#64 } :=
  ⟨⟨by decide, by decide⟩, noneLost rfl, by decide, by decide, by decide, by decide, by decide, by decide, by decide, by decide, by decide,
    by decide, rfl, by decide, ⟨rfl, rfl, by decide, by decide, by decide⟩⟩

/-- A stage of replica 1. -/
def staged : State := { treed with place := some (0, 1, 1) }

theorem witness_ReplicaResults : FromManager staged 2 0 ∧ NoneLost staged .role ∧ OwnReplica staged 1 ∧ manages.isManager = true ∧
    manages.stageOf 1 = some (0, 1) ∧ (manages.rep 1).join = none ∧ badWidths 0 = false ∧ NotOwn manages 1 ∧
    manages.announced < 0 + 2 ∧ manages.rd R.SYN_TICK_PERIOD.PERIOD 0 = 0 ∧ manages.repState 1 = 0 :=
  ⟨⟨by decide, by decide⟩, noneLost rfl, ⟨0, 1, rfl⟩, by decide, by decide, rfl, by decide, (fun k n h => nomatch (show none = some (k, 1, n) from h)),
    by decide, by decide, by decide⟩

theorem witness_ReplicaResults_manager : (on.wr R.SYN_BATCH_CTL.REGROW 0 4).rd R.SYN_BATCH_CTL.REGROW 0 ≤ ({ cleanHands := 4 } : Rep).cleanHands ∧
    (manages.wr R.SYN_REPLICA.STATE 1 2).repState 1 = 2 ∧ (manages.wr R.SYN_REPLICA.STATE 1 3).repState 1 = 3 ∧
    (stageOver [(0, 5)] (manages.rd R.SYN_DOMAIN_CFG.HOLD_HANDS 0)).isSome = true ∧
    (stageOver [(0, 1000000)] (manages.rd R.SYN_DOMAIN_CFG.FAIL_HANDS 0)) = some 0 ∧
    (∀ d ∈ manages.stagesOf 1, (manages.wr R.SYN_DOMAIN_CFG.HOLD_HANDS 0 0).rd R.SYN_DOMAIN_CFG.HOLD_HANDS 0 ≤ mget 0 (manages.rep 1).clean d.2.1) ∧
    manages.announced + 1 < (manages.wr R.SYN_JOIN_HAND.HAND 0 9).rd R.SYN_JOIN_HAND.HAND 0 ∧ tickingOn.ticking = true := by
  decide

theorem witness_PowerResults : on.rd R.THM_SENSOR.IGNORED 63 = 0 ∧ (on.wr R.PWR_DROOP_CFG.EN 0 1).rd R.PWR_DROOP_CFG.EN 0 = 1 ∧
    Recordable on { det := .droop, unit := unitId 20 7 0 0 0, d0 := 2#64, d1 := 60#64 } ∧
    mget 0 ({ on with power := { stretch := [(7, 2)] } } : State).power.stretch 7 ≠ 0 ∧ fget (BitVec.ofNat 64 (2 ^ 58 - 1)) 58 2 ≠ 3 ∧
    (∀ k, k < 30 → k ≠ 29 → fget (BitVec.ofNat 64 (2 ^ 58 - 1)) (2 * k) 2 = 3) ∧
    ({ on with power := { domRun := [(29, 1)], domBusy := true } } : State).power.domRun = [(29, 1)] ∧
    on.rd R.HKC_STAT.CAL_DONE 0 = 0 ∧ on.rd R.HKC_STAT.CAL_BUSY 0 = 0 ∧ on.rd R.HKC_STAT.REF_READY 0 = 0 ∧
    (on.wr R.HKC_STAT.REF_READY 0 1).rd R.HKC_STAT.REF_READY 0 = 1 ∧ (on.wr R.HKC_CTL.REF_EN 0 1).rd R.HKC_CTL.REF_EN 0 ≠ 0 ∧
    (on.wr R.HKC_STAT.CAL_BUSY 0 1).rd R.HKC_STAT.CAL_BUSY 0 ≠ 0 ∧ on.discardWaits = false :=
  ⟨by decide, by decide, ⟨rfl, rfl, by decide, by decide, by decide⟩, by decide, by decide, by decide, rfl, by decide, by decide, by decide, by decide,
    by decide, by decide, rfl⟩

/-- The housekeeping rounds run; the self-calibration is done where `done` says so. -/
def housekeeps (done : Nat) : State :=
  ((on.wr R.HKC_CTL.RUN 0 1).wr R.HKC_STAT.REF_READY 0 1).wr R.HKC_STAT.CAL_DONE 0 done

theorem witness_PowerResults_rounds : (housekeeps 1).rd R.HKC_CTL.RUN 0 ≠ 0 ∧ (housekeeps 1).rd R.HKC_STAT.REF_READY 0 ≠ 0 ∧
    (housekeeps 1).rd R.HKC_STAT.CAL_BUSY 0 = 0 ∧ (housekeeps 1).rd R.HKC_STAT.CAL_DONE 0 = 1 ∧ (housekeeps 0).rd R.HKC_STAT.CAL_DONE 0 = 0 ∧
    (∃ c ∈ (housekeeps 1).sensors, (housekeeps 1).rd R.THM_SENSOR.IGNORED c = 0 ∧ 920 ≤ roundVal [(63, 920)] c ∧ (c < 64 ∨ ([] : List Nat) = [])) :=
  ⟨by decide, by decide, by decide, by decide, by decide, 63, by decide, by decide, by decide, by decide⟩

/-- Weight set 0 of face 0 is one array, at slot 0 of block 0, live in copy A, which an image of version 1 built. -/
def mapped : State :=
  let l := [(R.ARF_WSMAP_LO.VALID, 1), (R.ARF_WSMAP_LO.A_READY, 1), (R.ARF_WSMAP_LO.K, 1), (R.ARF_WSMAP_LO.N, 1), (R.ARF_WSMAP_LO.ROWS_LAST, 1),
    (R.ARF_WSMAP_LO.COLS_LAST, 1), (R.ARF_WSVER.A_VERSION, 1)]
  l.foldl (fun (s : State) e => s.wr e.1 0 e.2) tickingOn

/-- Layer 3 escalates in every pass. -/
def escalating : State :=
  ((((on.wr R.ARF_PIN_CTL.RATE 0 1).wr R.ARF_PIN_CTL.WINDOW 0 0).wr R.ARF_PIN_CTL.MIN_PASSES 0 2).wr R.ARF_LAYER_STAT.PASSES 3 2).wr R.ARF_LAYER_STAT.ESCALATIONS 3 2

theorem witness_CalibrationResults_pins : Escalates escalating 0 3 ∧ (∀ k, k < 256 → k ≠ 3 → escalating.rd R.ARF_LAYER_STAT.PASSES (ix 256 0 k) = 0) ∧
    (escalating.face 0).pinHands + 0 ≥ escalating.rd R.ARF_PIN_CTL.WINDOW 0 ∧ (escalating.wr R.ARF_PIN_CTL.PIN_MAX 0 0).rd R.ARF_PIN_CTL.PIN_MAX 0 ≤ (escalating.wr R.ARF_PIN_CTL.PIN_MAX 0 0).pinOf 0 3 ∧
    (escalating.wr R.ARF_PIN_CTL.PIN_MAX 0 1).pinOf 0 3 < (escalating.wr R.ARF_PIN_CTL.PIN_MAX 0 1).rd R.ARF_PIN_CTL.PIN_MAX 0 ∧
    Recordable escalating (pinEvent escalating 0 3 1 false) :=
  ⟨⟨by decide, by decide, by decide⟩, by decide +kernel, by decide, by decide, by decide, ⟨rfl, rfl, by decide, by decide, by decide⟩⟩

/-- A retirement copy that has started. -/
def job : WJob := { face := 0, block := 0, arr := 9, prio := 0, kind := 1, started := true }

theorem witness_CalibrationResults_writes : OnlyWrite { tickingOn with writes := [job] } 0 0 9 job ∧
    OnlyWrite { tickingOn with writes := [{ job with again := true }] } 0 0 9 { job with again := true } :=
  ⟨⟨rfl, rfl, ⟨rfl, rfl, rfl⟩, by decide, by decide⟩, ⟨rfl, rfl, ⟨rfl, rfl, rfl⟩, by decide, by decide⟩⟩

/-- Block 63 of face 7 with its calibration as given. -/
def calibrates (x : CalBlk) : State := { tickingOn with cals := [(ixB 7 63, x)] }

theorem witness_CalibrationResults : Unrequested on 7 63 ∧ on.portPresent 5 = true ∧ (on.wr R.LNK_PORT_STATE.STATE 5 4).rd R.LNK_PORT_STATE.STATE 5 = 4 ∧
    ((calibrates { passAt := some 0 }).cal 7 63).passAt = some 0 ∧ ((calibrates { retryAt := some 0 }).cal 7 63).retryAt = some 0 ∧
    ((calibrates { gather := some 0, hists := (List.range 32).map (fun i => (16 * i, [(128, 2 ^ 24)])) }).cal 7 63).gather ≠ none ∧
    32 ≤ (calibrates { gather := some 0, hists := (List.range 32).map (fun i => (16 * i, [(128, 2 ^ 24)])) }).fullConverters 7 63 ∧
    (calibrates { gather := some 0 }).fullConverters 7 63 < 32 ∧
    ((calibrates { fitting := some 200 }).cal 7 63).fitting = some 200 ∧ (calibrates { fitting := some 200 }).failedConvs 7 63 = [] ∧
    (levelTrims ((calibrates { fitting := some 200 }).cal 7 63).normal).2 = 0 ∧
    (levelTrims ((calibrates { normal := [(16, 1), (17, 1)] }).cal 7 63).normal).2 ≠ 0 ∧
    (calibrates { fitting := some 200, hists := [(0, [(128, 2 ^ 24)])] }).failedConvs 7 63 = [(0, 1024)] ∧
    (on.wr R.CAL_LANE_STATE.PENDING 5 1).rd R.CAL_LANE_STATE.PENDING 5 ≠ 0 := by
  refine ⟨rfl, by decide, by decide, by decide, by decide, by decide, by decide, by decide, by decide, by decide, by decide, by decide, by decide, by decide⟩

/-- The monitors of array 0 of block 0 at bench 3, at the end of a window in which column 0 read 7 where it should have read nothing. -/
def monitored : State := { mapped with monitors := [(3, { conv := 32768, sums := [(0, 40000)] })], arrays := [(0, { cells := [(0, 4)] })] }

theorem witness_CalibrationResults_monitors : 32768 ≤ (mget {} monitored.monitors (ixA 0 0 0 * 4 + 3)).conv ∧ on.usedOf 0 0 100 = none ∧
    monitored.usedOf 0 0 0 = some (1, 1) ∧
    (mget {} monitored.monitors (ixA 0 0 0 * 4 + 3)).tested (monitored.arr 0 0 0) 1 1 2 (monitored.rd R.CAL_MON_CFG.VAR_RATIO 0) ≠ [] := by
  refine ⟨by decide, ?_, ?_, by decide⟩ <;> decide +kernel

/-- A part of one face, each of whose other blocks is on tour. -/
def touring : State :=
  let s := (mapped.wr R.PLT_CAP_FACES.COUNT 0 1).wr R.BLK_SPARE.CHECK_VALID 0 1
  (List.range 63).foldl (fun s b => s.wr R.CAL_BLK_STATE.TOURING (b + 1) 1) (s.wr R.CAL_DUP_CFG.TOUR_EN 0 1)

theorem witness_CalibrationResults_tours : touring.rd R.CAL_DUP_CFG.TOUR_EN 0 ≠ 0 ∧ TourAt touring 0 0 0 0 ∧
    (mget {} ({ on with tours := [(0, { step := 3, sampled := 1024 })] } : State).tours (ixB 0 0)).step = 3 :=
  ⟨by decide, ⟨by decide, by decide, by
    have h : ∀ c < 64, c ≠ 0 → touring.rd R.CAL_BLK_STATE.TOURING (ixB 0 c) = 1 := by decide +kernel
    intro g c hg hc hn
    have h1 : touring.nFaces = 1 := by decide +kernel
    obtain rfl : g = 0 := by omega
    exact h c hc (fun hz => hn (by rw [hz])), by decide +kernel, by decide +kernel, by decide +kernel⟩, by decide⟩

/-- An operation of the array engine on face 0, of class 8 and OP `op`, with BATCH in word 1. -/
def arrayOp (op w0 : Nat) : QOp :=
  { id := 1, eng := .array, cls := 8, op := op, pc := 0, w0 := BitVec.ofNat 64 w0, w1 := BitVec.ofNat 64 (2 ^ 20), w2 := 0#64, w3 := 0#64, al := rng 0 128
    ar := 0#64, ra3 := 0#64, ra4 := 0#64, sc := 0#64, hand := 0, mapLo := 0#64, mapHi := 0#64, spall := 0#64, arrs := [0], pin := 0, pin3 := []
    discard := false, seq0 := 0, left := 0, nacked := false, bad := [] }

/-- A pass of block 0 and vector 0 in state `st` at a bench. -/
def passAt (st : PassSt) (bench : Nat) : Pass :=
  { block := 0, vector := 0, bench := bench, floor := 0, st := st, applied := [], uniform := [], admissible := [] }

/-- Face 0 runs an MVM of one vector with these passes. -/
def multiplying (ps : List Pass) : State := { on with faces := [(0, { started := [arrayOp 0 0], mvm := some ⟨1, ps, false⟩ })] }

/-- A packet from face 0 to the stack of faces 2 and 3. -/
def packet : MPacket := { src := .face 0, dst := .stack 2, kind := .readRequest, beats := 16 }

theorem witness_EngineEventResults : Multiplies (multiplying []) 0 (arrayOp 0 0) ⟨1, [], false⟩ ∧ 0 < fget (arrayOp 0 0).w1 20 13 ∧
    (MvmRun.mk 1 [] false).pass 0 0 = none ∧ (MvmRun.mk 1 [passAt (.running 0) 0] false).pass 0 0 = some (passAt (.running 0) 0) ∧
    (MvmRun.mk 1 [passAt (.bench3 false) 3] false).waiting 0 false = [passAt (.bench3 false) 3] ∧
    (MvmRun.mk 1 [passAt (.bench3 false) 3] false).holdsFine = false ∧
    (MvmRun.mk 1 [passAt (.bench3 true) 3] false).waiting 0 true = [passAt (.bench3 true) 3] ∧
    ((multiplying []).bench3Sums 0 (arrayOp 0 0).tile (passAt (.bench3 true) 3)).2 = none ∧ (multiplying []).engOn 0 = true :=
  ⟨⟨by decide, by decide, rfl⟩, by decide, by decide, by decide, by decide, by decide, by decide, by decide, by decide⟩

theorem witness_EngineEventResults_ops : MayStart { on with faces := [(0, { queue := [arrayOp 0 0] })] } 0 0 (arrayOp 0 0) ∧
    ReadsDigest { on with faces := [(0, { started := [arrayOp 17 (2 ^ 22)], run := .issuing })] } 0 (arrayOp 17 (2 ^ 22)) ∧
    Routable on packet ∧ 0 < (packetRoute packet).length ∧ isRsp packet.kind = false ∧
    AwaitsFine { on with fineChecks := [⟨0, 1, 5#64⟩] } 0 ⟨0, 1, 5#64⟩ :=
  ⟨⟨by decide, by decide, Or.inl ⟨rfl, by decide⟩⟩, ⟨by decide, ⟨rfl, rfl, by decide, rfl, rfl⟩, by decide, by decide, ⟨rfl, by decide, by decide⟩⟩,
    ⟨by decide, by decide, by decide⟩, by decide, rfl, ⟨by decide, ⟨1, by decide, by decide⟩, rfl⟩⟩

/-- Face 7 with its program in a state, a load of so many words asked for. -/
def program (st words : Nat) : State := (tickingOn.wr R.FCE_PROG_STATE.STATE 7 st).wr R.FCE_PROG_CTL.WORDS 7 words

/-- A program of 32 words: a header whose entry point is 16, and zeros. -/
def zeroProgram : List Word := List.replicate 32 0#64

theorem witness_ProgramAndTrickResults_programs : (program 0 16).progState 7 = 0 ∧ 16 ≤ (program 0 16).rd R.FCE_PROG_CTL.WORDS 7 ∧
    (program 2 131072).rd R.FCE_PROG_CTL.WORDS 7 = 131072 ∧ (program 0 15).rd R.FCE_PROG_CTL.WORDS 7 < 16 ∧ (program 1 32).progState 7 = 1 ∧
    ((loaded (program 1 32) 7 zeroProgram).loadCheck 7 32 false false).isSome = true ∧ (program 1 32).ticking = true ∧ (program 3 0).progState 7 = 3 ∧
    ({ program 2 0 with faces := [(7, { store := header ++ vectorAt 1 })] } : State).rd R.FCE_HOST_CALL.PENDING 7 = 0 ∧
    ((({ program 2 0 with faces := [(7, { store := header ++ vectorAt 1 })] } : State).face 7).vector 1).isSome = true ∧ NoneLost (program 2 0) .hostCall :=
  ⟨by decide, by decide, by decide, by decide, by decide, by decide, by decide, by decide, by decide, by decide, noneLost rfl⟩

theorem witness_ProgramAndTrickResults_counters : (0 : Int) ≤ ((mget {} (counting.face 0).ctr 5).value : Int) + 3 ∧
    ((mget {} (counting.face 0).ctr 5).value : Int) + 3 ≤ ((mget {} (counting.face 0).ctr 5).ceil : Int) ∧ counting.hand.running = false ∧
    (handRuns []).hand.running = true ∧ 7 < on.nFaces ∧ on.ticking = false ∧ on.trickReq = [] ∧ on.dtrickReq = [] := by
  decide

/-- A tick from the host interface's stop to stop 1, and a play of face 1's on trick 3 of face 0 in flight. -/
def ringTick : RingMsg := { kind := .tick, src := 0, dst := some 5, flits := 1 }
def playFlies (parties : Nat) : State := { on.wr R.SYN_TRICK_CFG.PARTIES 3 parties with ring := [.play 1 0 3] }

theorem witness_ProgramAndTrickResults_ring : ringTick.src < 12 ∧ 0 < ringTick.flits ∧ 1 ∈ (ringRoutes ringTick).flatten ∧ faceOfStop 5 = none ∧
    Recordable on { det := .ringUncorr, unit := unitId 10 0 0 0 1, d0 := 0#64, fatal := true, d1 := 0xFF#64, lface := 0xFF } ∧
    (playFlies 3).ring[0]? = some (.play 1 0 3) ∧ ((playFlies 3).ring.take 0).any (fun e => decide (e.ends = (1, 0))) = false ∧
    (playFlies 3).rd R.SYN_TRICK_CFG.COUNT 3 + 1 < (playFlies 3).rd R.SYN_TRICK_CFG.PARTIES 3 ∧ (playFlies 1).rd R.SYN_TRICK_CFG.PARTIES 3 = 1 ∧
    mget [] (playFlies 1).plays 3 = [] :=
  ⟨by decide, by decide, by decide, by decide, ⟨rfl, rfl, by decide, by decide, by decide⟩, rfl, rfl, by decide, by decide, rfl⟩

theorem witness_ProgramAndTrickResults_domain : (on.wr R.SYN_DTRICK_CFG.PARTIES 63 2).isManager = true ∧
    (on.wr R.SYN_DTRICK_CFG.PARTIES 63 2).rd R.SYN_DTRICK_CFG.PARTIES 63 = 2 ∧ (mget {} on.dtricks 63).released.contains 0 = false ∧
    (on.dtrickPlays 63 0).length + 1 < 2 ∧ 1 ≤ (on.dtrickPlays 63 0).length + 1 ∧
    ({ routed.wr R.SYN_HAND_NUM.HAND 0 4 with dtricks := [(63, { released := [3] })] } : State).rd R.SYN_HAND_NUM.HAND 0 = 4 ∧ 1 ≠ routed.devAddr := by
  decide

/-- Window 254 of face 7, of four slots of a line, OPEN for device 1, with the STATE given. -/
def windowed (st : Nat) : State :=
  let i := ix 256 7 254
  ((tickingOn.wr R.SYN_WIN_STATE.STATE i st).wr R.SYN_WIN_STATE.SRC i 1).wr R.SYN_WIN_CFG.SLOT_BYTES i 1 |>.wr R.SYN_WIN_CFG.DEPTH i 4

/-- A DATA parcel of one line for it, whose seal is good. -/
def parcel : Parcel :=
  let p : Parcel := { kind := 0, poison := false, vl1 := false, dst := 0, src := 1, face := 7, win := 254, offset := 0, lines := 1, hand := 0, seq := 0, epoch := 0
                      ctr := 0, amount := 0, slot := 0, model := 0, data := List.replicate 16 0#64 }
  { p with seal_ := p.crc }

theorem parcel_sealed : parcel.sealOk = true := by decide +kernel

/-- The window with a slot staged for hand 0, of `n` bytes. -/
def staging (n : Nat) : State :=
  { windowed 2 with faces := [(7, { wins := [(254, { live := true, slots := [(3, { st := .staged, hand := 0, bytes := n })] })] })] }

/-- Its commit notice: 128 bytes, slot number 0. -/
def entry : WinEntry := { face := 7, win := 254, bytes := 128, slotLo := 0, stampLo := 0, stampHi := 0 }

/-- A SEND of one parcel to device 1, under way on face 0. -/
def sending : QOp := { arrayOp 16 0 with eng := .mover, cls := 4, w1 := 1#64, left := 1 }

theorem witness_WindowResults : 7 < on.nFaces ∧ (windowed 0).winState 7 254 = 0 ∧ (windowed 0).ticking = true ∧ (windowed 3).winState 7 254 = 3 ∧
    (windowed 1).winState 7 254 = 1 ∧ (windowed 2).winState 7 254 = 2 ∧ NoneLost (windowed 2) .arrival ∧ NoneLost (windowed 2) .abort ∧
    (on.wr R.SRV_MODE.MODE 0 2).rd R.SRV_MODE.MODE 0 = 2 :=
  ⟨by decide, by decide, by decide, by decide, by decide, by decide, noneLost rfl, noneLost rfl, by decide⟩

theorem witness_WindowResults_parcels : Lands (windowed 2) parcel 0 ∧ Lands (staging 0) parcel 3 ∧ Completes (staging 128) 1 0 entry 3 0 :=
  ⟨⟨by decide, by decide, by decide, by decide, by decide, by decide, by decide, Or.inr (by decide), parcel_sealed, ⟨noneLost rfl, by decide⟩, by decide⟩,
    ⟨by decide, by decide, by decide, by decide, by decide, by decide, by decide, Or.inl (by decide), parcel_sealed, ⟨noneLost rfl, by decide⟩, by decide⟩,
    ⟨by decide, by decide, by decide, by decide, by decide, by decide, ⟨rfl, by decide, noneLost rfl⟩⟩⟩

theorem witness_WindowResults_answers :
    OneSend { on with faces := [(0, { started := [sending], run := .issuing })] } 0 { started := [sending], run := .issuing } sending 1 ∧
    0 < seqOverlap sending.seq0 { sending with al := rng 0 4096 }.sendParcels 0 1 ∧ sending.left ≤ seqOverlap sending.seq0 sending.sendParcels 0 1 :=
  ⟨⟨rfl, rfl, ⟨by decide, rfl, by decide, by decide⟩, rfl⟩, by decide, by decide⟩

/-- An image of one section, a MANIFEST of one word for every device, for eight faces and stacks and a domain of 1 × 1 × 1, which a key signed (r = s = its
SHA-384, computed outside the model as the key was). -/
def signedR : Nat := 0x15dbd75b51f4d1a76c90d2a76fd86e37257e4ed840480e96e5fa15400bef3fcc0b13f62ecea681ebd7713c6ce0cc832c
def image : ImgOpen :=
  { header := [0x157594e52#64, 1#64, 0#64, 0x1000100000808#64, 0x100000001#64] ++ List.replicate 11 0#64
    table := [0x8ffff0000#64, 0#64, 0xbce0e319db02d7c#64, 0x64e6c3e4860cd536#64, 0x2603fcd68c948416#64, 0xc3fb6c1ad90e0d2b#64, 0x5ff8c196d3ff5acd#64,
      0x194b3603b109a1d0#64]
    sig := leBytes 5 8 ++ [1] ++ leBytes signedR 48 ++ leBytes signedR 48, manifest := [0#64], cabled := (1, 1, 1), base := 0, room := 4096 }

/-- The key is enrolled, and stack 0 has a weight region of 2 MiB. -/
def enrolled : State :=
  { ((tickingOn.wr R.MEM_WREG.LIMIT 0 1).wr R.PLT_WIMG_FLOOR.FLOOR 0 1).wr R.KEY_STATE.PLATFORM_VALID 0 1 with
    imgKeys := [⟨5, 0x65ea68ff6dcf86848c3d4bd695d7cf3ce49d4b4feaabf39330ffdb8bc8a354d159063c78edd721a6f6bf9050dccfeade,
      0x578f8e000e4e7fe922a2745abfa45218744beef64426c0aa52fdc2bb64e7ad016fa1caed868cb3582764787b081d439c⟩] }

/-- The digest of eight zero bytes and the signature are those of the published algorithms. -/
theorem test_sha384 : digestWords (List.replicate 8 0) = (image.secs.headD ⟨0, 0, 0, 0, 0, []⟩).digest := by decide +kernel

theorem test_signature : enrolled.signedBy image = true := by decide +kernel

theorem witness_MayOpen : MayOpen enrolled image (laySections enrolled.devAddr image.base image.secs).2 ∧
    (∃ e ∈ (laySections enrolled.devAddr image.base image.secs).1, e.mine = true) :=
  ⟨⟨by decide, ⟨test_signature, by decide, by decide⟩, by decide, by decide, by decide, by decide⟩, by decide⟩

/-- A weight set of one array of one row and column at slot 1, whose record is all zeros, of the STAGED image of version 3. -/
def entry0 : MapEnt := ⟨0, BitVec.ofNat 64 (1 + 2 ^ 4 + 2 ^ 6 + 2 ^ 13 + 2 ^ 26 + 2 ^ 36), BitVec.ofNat 64 (2 ^ 6), 0#64, 0#64, 0⟩
def stagedSec (typ : Nat) (data : SecData) : ImgSec :=
  { ent := ⟨typ, 0, 0xFFFF, 8, 0, [0#64]⟩, addr := 0, mine := true, staged := true, data := some data }
def stagedImg (ws : List Word) : Img :=
  { version := 3, model := 0, own := true, base := 0, room := 4096, secs := [stagedSec 2 (.map [entry0]), stagedSec 3 (.arrays 0 [ws])] }
def builds (x : Img) : State := { enrolled.wr R.PLT_WIMG_STATE.STATE 0 2 with img := some x }

theorem zeros_getD (n i : Nat) : (List.replicate n (0#64)).toArray.getD i 0#64 = 0#64 := by
  by_cases h : i < n <;> simp [Array.getD, h]

theorem crc64_zeros (n : Nat) : crc64 (List.replicate n 0) = 0 := by
  induction n with
  | zero => rfl
  | succ n ih => rw [List.replicate_succ, crc64, List.foldl_cons, show crc64Byte 0 0 = 0 by decide +kernel]; exact ih

/-- A record of zeros has the CRC-64 that it holds, and obeys R77 and R78. -/
theorem zero_record (ws : List Word) (h : ∀ i, ws.toArray.getD i 0#64 = 0#64) : (stagedImg ws).recordsBad 0 entry0 = none := by
  have hb : ∀ i, byteOf (ws.toArray.getD (i / 8) 0#64) (i % 8) = 0 := by
    intro i; rw [h]; simp [byteOf]
  have hr : (stagedImg ws).recordsOf 0 entry0.w = [(1, ws)] := rfl
  have h1 : (recordOf ws).2.2.2.2.1 = 0#64 := h _
  have h2 : (recordOf ws).2.2.2.2.2 = 0#64 := by
    unfold recordOf
    simp only [hb]
    rw [List.map_const', crc64_zeros]
  have h3 : badPosition entry0.fmt (entry0.rows 0) (entry0.cols 0) (recordOf ws).1 = none := by
    unfold badPosition recordOf
    simp only [hb]
    rw [List.find?_eq_none]
    intro e _
    have : badCode entry0.fmt 0 = false := by decide
    simp [this]
  unfold Img.recordsBad
  simp only [hr]
  rw [if_neg (show ¬ [(1, ws)].length ≠ entry0.count from (by decide : ¬ (1 ≠ entry0.count)))]
  simp [h1, h2, h3, List.zip, List.range, List.range.loop]

/-- A record of zeros. -/
@[irreducible] def zeroRec : List Word := List.replicate 4176 0#64

theorem zeroRec_getD (i : Nat) : zeroRec.toArray.getD i 0#64 = 0#64 := by unfold zeroRec; exact zeros_getD _ _

def img0 : Img := stagedImg zeroRec

/-- No weight set is valid. -/
theorem sets_off (i : Nat) : enrolled.reg .ARF_WSMAP_LO i = 0#64 := by
  have h : ∀ (s : State) (ks : List ImgKey), ({ s with imgKeys := ks } : State).reg .ARF_WSMAP_LO i = s.reg .ARF_WSMAP_LO i := fun _ _ => rfl
  unfold enrolled
  rw [h]
  simp (disch := decide) only [reg_wr_ne, tickingOn, on, reg_setReg_ne]
  rfl

theorem no_sets (x : Img) (f w : Nat) : (builds x).wsValid f w = false := by
  have h : ∀ (s : State) i, ({ s with img := some x } : State).reg .ARF_WSMAP_LO i = s.reg .ARF_WSMAP_LO i := fun _ _ => rfl
  have h3 : ∀ i, (builds x).reg .ARF_WSMAP_LO i = 0#64 := fun i => by
    unfold builds
    rw [h, reg_wr_ne _ _ _ _ _ _ (by decide)]
    exact sets_off i
  simp [State.wsValid, State.ws, State.rd, h3, R.ARF_WSMAP_LO.VALID, fget]

/-- A build of that weight set, and of none. -/
theorem witness_ImageResults_build : MayBuild (builds img0) img0 ∧ (builds img0).buildSets img0 none = [(0, 0, entry0)] ∧
    (builds img0).buildCheck img0 0 [(0, 0, entry0)] = none ∧ (builds img0).targetLive 0 0 entry0 = false ∧
    (builds { img0 with secs := [] }).buildSets { img0 with secs := [] } none = [] ∧ (∀ g < (builds img0).nFaces, img0.fineOf g = ([], [])) := by
  have hl : ∀ b sl, (builds img0).slotLive 0 b sl = false := fun b sl => by simp [State.slotLive, State.built, no_sets]
  have hm : (builds img0).mapBad 0 0 entry0 = false := by
    unfold State.mapBad
    simp only [hl, Bool.false_or]
    decide +kernel
  have ht : (builds img0).targetLive 0 0 entry0 = false := by decide +kernel
  have h11 : img0.columnsBad 0 entry0 = none := by decide +kernel
  have h12 : (builds img0).spallBad img0 0 0 entry0 = none := by decide +kernel
  have h14 : (builds img0).wornAt 0 0 entry0 = none := by decide +kernel
  refine ⟨⟨rfl, by decide, by decide, by decide⟩, by decide +kernel, ?_, ht, by decide +kernel, by decide +kernel⟩
  simp [State.buildCheck, ht, hm, h11, h12, h14, show img0.recordsBad 0 entry0 = none from zero_record _ zeroRec_getD]

/-- The open image with section `data` words in the staging region at byte 0, opened by this device's host. -/
def opened (e : SecEnt) : Img := { version := 1, model := 0, own := true, base := 0, room := 4096, secs := [{ ent := e, addr := 0, mine := true }] }
def opens (x : Img) : State := { enrolled with img := some x }
def manifestEnt : SecEnt := image.secs.headD ⟨0, 0, 0, 0, 0, []⟩

theorem storable_enrolled : Storable enrolled 0 1 ∧ Storable enrolled 0 16 :=
  ⟨⟨by decide, by decide, by decide, rfl⟩, ⟨by decide, by decide, by decide, rfl⟩⟩

theorem witness_ImageResults_sections : Arrives (opens (opened manifestEnt)) (opened manifestEnt) 0 { ent := manifestEnt, addr := 0, mine := true } [0#64] [0#64] ∧
    digestWords ((wordBytes [0#64]).take manifestEnt.len) = manifestEnt.digest ∧
    digestWords ((wordBytes [1#64]).take manifestEnt.len) ≠ manifestEnt.digest ∧
    (∃ r, (opens (opened manifestEnt)).hbmReadRun 0 1 = (opens (opened manifestEnt), r) ∧ r.all (fun w => !w.2) = true) :=
  ⟨⟨rfl, rfl, ⟨rfl, rfl⟩, by decide, Or.inl ⟨rfl, by decide, ⟨by decide, by decide, by decide, rfl⟩⟩⟩, by decide +kernel, by decide +kernel,
    ⟨List.replicate 16 (0#64, false), by decide +kernel, by decide⟩⟩

theorem witness_ImageResults_parcels : ({ parcel with kind := 3 } : Parcel).sealOk = false ∧ parcel.sealOk = true ∧ parcel.dst = enrolled.devAddr ∧
    (opened manifestEnt).model = parcel.model ∧ (opened manifestEnt).version ≠ parcel.amount ∧
    (opened manifestEnt).version = ({ parcel with amount := 1 } : Parcel).amount ∧
    Storable enrolled (0 + parcel.slot) parcel.data.length :=
  ⟨by decide +kernel, parcel_sealed, by decide, rfl, by decide, rfl, ⟨by decide, by decide, by decide, rfl⟩⟩

/-- A put of 128 bytes to byte 2,097,152 of stack 0, clear of the staging region. -/
def putting : State :=
  (((on.wr R.MEM_WREG.LIMIT 0 2).wr R.PLT_PUT_DST.ADDR 0 2097152).wr R.PLT_PUT_CTL.LEN 0 128).wr R.FLT_LOG_CFG.STACK 0 1

theorem witness_ImageResults_puts : MayPut putting 2097152 128 ∧ on.rd R.PLT_PUT_CTL.LEN 0 = 0 ∧
    ({ enrolled with put := some (0, 128) } : State).put = some (0, 128) ∧ (List.replicate 16 (0#64)).length = 128 / 8 :=
  ⟨⟨by decide, by decide, by decide, by decide, ⟨(fun x h => nomatch (show none = some x from h)), by decide⟩, by decide⟩, by decide, rfl, rfl⟩

theorem witness_ImageResults_background : Serves mapped 0 0 0 0 0 0 0 := ⟨by decide +kernel, by decide +kernel, by decide, rfl⟩

theorem witness_ImageResults_tallies :
    TwoPeers { (manages.wr R.SYN_REPLICA.STATE 0 2).wr R.SYN_REPLICA.STATE 1 2 with manifest := [(1, 0, 1), (0, 0, 0)] } 0 1 1 0 0 ∧ NotOwn manages 1 :=
  ⟨⟨by decide, by decide, by decide, by decide⟩, fun k n h => nomatch (show none = some (k, 1, n) from h)⟩

/-- Weight set 0 of face 0 is the only one of `mapped`. -/
theorem mapped_valid (f w : Nat) (hw : w < 4096) : mapped.wsValid f w = decide (f = 0 ∧ w = 0) := by
  by_cases h : ix 4096 f w = 0
  · have : f = 0 ∧ w = 0 := by simp only [ix] at h; omega
    obtain ⟨rfl, rfl⟩ := this
    decide
  · have h1 : mapped.rd R.ARF_WSMAP_LO.VALID (ix 4096 f w) = 0 := by
      have h2 : tickingOn.reg .ARF_WSMAP_LO (ix 4096 f w) = 0#64 := by
        simp (disch := decide) only [reg_wr_ne, tickingOn, on, reg_setReg_ne]
        rfl
      simp only [mapped, List.foldl]
      repeat rw [rd_wr_ix _ _ _ _ _ _ h]
      simp [State.rd, h2, R.ARF_WSMAP_LO.VALID, fget]
    have h3 : ¬ (f = 0 ∧ w = 0) := by rintro ⟨rfl, rfl⟩; exact h rfl
    simp [State.wsValid, State.ws, h1, h3]

theorem witness_ImageResults_snapshot : (∃ d v, mapped.layerDigest 0 = some (d, v)) ∧ (∀ k < 256, k ≠ 0 → mapped.layerDigest k = none) ∧
    (mapped.wr R.PLT_DIGEST_CFG.INTERVAL 0 4).rd R.PLT_DIGEST_CFG.INTERVAL 0 = 4 ∧ (on.wr R.SYN_ROLE.ROLE 0 1).isManager = false := by
  have hs : ∀ l, mapped.layerSets l = if l = 0 then [(0, 0)] else [] := by
    intro l
    have h1 : ∀ f, ((List.range 4096).filter (fun w => mapped.built f w (mapped.wsLive f w) && decide (mapped.ws R.ARF_WSMAP_LO.LAYER f w = l))) =
        if f = 0 ∧ l = 0 then [0] else [] := by
      intro f
      have h2 : (List.range 4096).filter (fun w => mapped.built f w (mapped.wsLive f w) && decide (mapped.ws R.ARF_WSMAP_LO.LAYER f w = l)) =
          (List.range 4096).filter (fun w => decide (f = 0 ∧ l = 0) && decide (w = 0)) := by
        refine List.filter_congr (fun w hw => ?_)
        have hv := mapped_valid f w (List.mem_range.mp hw)
        by_cases h : f = 0 ∧ w = 0
        · obtain ⟨rfl, rfl⟩ := h
          rw [show mapped.built 0 0 (mapped.wsLive 0 0) = true by decide, show mapped.ws R.ARF_WSMAP_LO.LAYER 0 0 = 0 by decide]
          by_cases hl : l = 0 <;> simp [hl, eq_comm]
        · rw [show mapped.built f w (mapped.wsLive f w) = false by simp [State.built, hv, h]]
          by_cases hf : f = 0 <;> by_cases hw0 : w = 0 <;> simp_all
      rw [h2]
      by_cases h : f = 0 ∧ l = 0
      · simp only [h, decide_true, Bool.true_and, if_true, and_self]
        decide +kernel
      · simp [h]
    unfold State.layerSets
    simp only [h1]
    rw [show mapped.nFaces = 8 by decide]
    by_cases hl : l = 0 <;> simp [hl, List.range, List.range.loop]
  refine ⟨?_, ?_, by decide, by decide⟩
  · simp [State.layerDigest, hs]
  · intro k _ hk
    simp [State.layerDigest, hs, hk]

theorem witness_ImageResults_restore : (builds img0).rd R.PLT_WIMG_STATE.STATE 0 = 2 ∧
    (∀ f < (builds img0).nFaces, ∀ w < 4096, (builds img0).wsValid f w = true → (builds img0).copyVer f w ((builds img0).wsLive f w) = img0.version) ∧
    on.rd R.PLT_WIMG_STATE.STATE 0 ≠ 2 ∧ (on.wr R.PLT_BOOT_CTL.BUSY 0 1).rd R.PLT_BOOT_CTL.BUSY 0 = 1 :=
  ⟨by decide, fun f _ w _ hv => absurd hv (by rw [no_sets]; decide), by decide, by decide⟩

/-- The write-verify of a restore under way keeps DISCARD waiting. -/
theorem witness_ImageResults_discard : (∀ j ∈ on.writes, j.kind ≠ 3) ∧ (∃ j ∈ ({ on with writes := [{ job with kind := 3 }] } : State).writes, j.kind = 3) ∧
    Recordable (on.wr R.PLT_BUILD_CTL.BUSY 0 1) { det := .imageRefused, unit := unitId 18 0 0 0 0, d0 := 15#64, d1 := 0#64 } :=
  ⟨by decide, by decide, ⟨rfl, rfl, by decide, by decide, by decide⟩⟩

/-! Serving. -/

/-- Ring 16,383 is enabled, of 16 and 16 entries, with one entry submitted. -/
def ringed : State :=
  { ((tickingOn.wr R.SRV_RING_CTL.EN 16383 1).wr R.SRV_RING_SQ.SIZE 16383 4).wr R.SRV_RING_CQ.SIZE 16383 4 with rings := [(16383, { tail := 1, written := 2 })] }

def foldEntry (op : Nat) : Entry := ⟨[BitVec.ofNat 64 op, 5#64], [], [], []⟩

theorem witness_ServingResults_rings : ringed.rd R.SRV_RING_CTL.EN 16383 = 1 ∧ on.rd R.SRV_RING_CTL.EN 16383 = 0 ∧
    15 < ringSize ringed R.SRV_RING_SQ.SIZE 16383 ∧ ringSize ringed R.SRV_RING_SQ.SIZE 16383 ≤ 16 ∧ NoneLost ringed .doorbell ∧
    (1 + 16 - (ringed.ring_ 16383).head % 16) % 16 ≤ (ringed.ring_ 16383).written - (ringed.ring_ 16383).head ∧ (ringed.ring_ 16383).backlog = [] ∧
    Submitted ringed 16383 ∧ entFoldOk (foldEntry 2) = true ∧ entFoldOk (foldEntry 1) = false ∧ ringed.isManager = true ∧
    (ringed.wr R.SYN_ROLE.ROLE 0 1).isManager = false ∧ ringed.antes.length < 16384 :=
  ⟨by decide, by decide, by decide, by decide, noneLost rfl, by decide, by decide, ⟨by decide, by decide⟩, by decide, by decide, by decide, by decide, by decide⟩

/-- Seat 5 of generation 1 in a state. -/
def seated (x : Seat) : State := { tickingOn with seats := [(5, x)] }

theorem witness_ServingResults_sets : MayInstall ((on.wr R.SRV_PFX_CTL.PAGES 0 64).wr R.SRV_PAGE_CFG.FRAMES 0 64) 0 64 ∧
    on.rd R.SRV_PFX_CTL.PAGES 0 = 0 ∧ (on.wr R.SRV_PFX_STATE.STATE 4095 1).rd R.SRV_PFX_STATE.STATE 4095 = 1 ∧
    (on.wr R.SRV_PFX_STATE.STATE 0 2).rd R.SRV_PFX_STATE.STATE (on.rd R.SRV_PFX_CTL.SET 0) = 2 ∧
    on.rd R.DLR_GRAM_STATE.STATE 0 = 0 ∧ 0 < (on.wr R.DLR_GRAM_CTL.STATES 0 1).rd R.DLR_GRAM_CTL.STATES 0 ∧
    gramBad [BitVec.ofNat 64 (2 ^ 41)] [] = 0 ∧ gramBad [0#64] [] = 7 ∧ tickingOn.ticking = true :=
  ⟨⟨by decide, by decide, by decide, by decide⟩, by decide, by decide, by decide, by decide, by decide, by decide, by decide, by decide⟩

theorem witness_ServingResults_seats : ((seated { st := .stocked }).seat 5).expires ≤ (seated { st := .stocked }).now ∧
    ((({ seated { st := .decode, deadline := 1 } with now := 2 } : State).seat 5).deadline < 2) ∧
    ((({ seated { st := .prefill, deadline := 1 } with now := 2 } : State).wr R.SRV_MODE.MODE 0 2).mode = 2) ∧
    (seated { st := .decode, gen := 1 }).current (5 + 2 ^ 14) = true ∧ on.current 5 = false ∧
    Recording (seated { st := .decode, gen := 1 } |>.wr R.SRV_RING_CQ.SIZE 0 4) { st := .decode, gen := 1 } ∧
    (∀ a ∈ on.antes, a.front ≠ on.devAddr) ∧ ({} : SeatRec).grammar = 255 ∧ recSeal ({ seed := 1 } : SeatRec) ≠ recSeal {} :=
  ⟨by decide, by decide, by decide, by decide, by decide, ⟨⟨by decide, rfl⟩, ⟨rfl, rfl⟩, ⟨by decide, by decide, rfl⟩⟩, by decide, rfl, by decide +kernel⟩

/-- One share of a vocabulary of two, in a hand whose slot has one decoding seat. -/
def share : DealShare := ⟨0, 1, 0, 0, 2, [[(0, false), (0x3F80, false)]]⟩
def deals (void : Bool) : State :=
  { on.wr R.DLR_CFG.VOCAB 0 2 with
    hand := { running := true, shares := [share], desc := [⟨5, 0, 0, 1, 0, [1], 4096, void⟩] }, drecs := [(5, { held := true })] }

theorem witness_ServingResults_rows : SharesIn (deals false) 0 [share] ∧ seatRows ⟨5, 0, 0, 1, 0, [1], 4096, false⟩ = 1 ∧
    (mget {} (deals false).drecs 5).held = true ∧ (∀ r < 1, (slotRow [share] 2 r).2 = false) ∧ (mget {} (deals false).drecs 6).held = false :=
  ⟨⟨⟨rfl, rfl, rfl⟩, ⟨rfl, share, rfl, rfl, by decide⟩, by decide, rfl⟩, by decide, by decide, by decide, by decide⟩

/-! Memory protection. -/

/-- Word 0 of face 7's last line, and of the first granule of stack 7, with these bits flipped. -/
def padFlips (m : Nat) : State := { on.wr R.SPD_SCRUB.INTERVAL 7 1 with faces := [(7, { pad := [(196607 * 16, { flips := m })] })] }
def granFlips (m : Nat) : State :=
  { (on.wr R.MEM_SCRUB.INTERVAL 0 1).wr R.KEY_SESSION.STATE 0 2 with hbm := [(segGran 7 0, { words := [(0, { flips := m })] })] }

theorem witness_KeyResults : Patrols (padFlips 1) 7 196607 ∧ CleanBut (padFlips 0) 7 196607 16 ∧ CleanBut (padFlips 1) 7 196607 0 ∧
    checkCode 1 = .fixed 0 ∧ checkCode 7 = .bad ∧ StackPatrols (granFlips 1) 7 0 ∧ (∀ i < 12, i ≠ 0 → GranClean (granFlips 1) (segGran 7 0 + i)) ∧
    (∀ i < 12, GranClean (granFlips 0) (segGran 7 0 + i)) := by
  have hg : ∀ n, (∀ i < 12, ∀ j < 16, i ≠ 0 → checkCode (mget {} ((granFlips n).gran (segGran 7 0 + i)).words j).flips = .clean) →
      ∀ i < 12, i ≠ 0 → GranClean (granFlips n) (segGran 7 0 + i) := fun n h i hi h0 j hj => h i hi j hj h0
  refine ⟨⟨by decide, by decide, by decide⟩, by unfold CleanBut; decide, by unfold CleanBut; decide, by decide, by decide,
    ⟨⟨by decide, by decide⟩, by decide, by decide, by decide⟩, hg 1 (by decide), ?_⟩
  intro i hi j hj
  have h : ∀ i < 12, ∀ j < 16, checkCode (mget {} ((granFlips 0).gran (segGran 7 0 + i)).words j).flips = .clean := by decide
  exact h i hi j hj

/-- A sweep runs; granule 0 of stack 0 stands under the session's set of epoch 0, and the rest of the stack is weight region. -/
def sweeping : State :=
  { ((on.wr R.KEY_STATE.SWEEPING 0 1).wr R.KEY_STATE.EPOCH 0 1).wr R.MEM_WREG.LIMIT 0 1 with hbm := [(0, { present := true })] }

theorem witness_KeyResults_sweep : Sweeps sweeping 0 0 ∧ UnderPrev (sweeping.wr R.MEM_WREG.LIMIT 0 0) 0 :=
  ⟨⟨by decide, by decide, by decide, fun i hi => Or.inl (by have h : ∀ i < 12, sweeping.inWreg ((segGran 0 0 + i) * 128) = true := by decide
                                                            exact h i hi), rfl⟩,
    ⟨by decide, by decide, by decide, by decide, by decide, by decide⟩⟩

theorem witness_KeyResults_sessions : (tickingOn.wr R.KEY_SESSION.STATE 0 2).rd R.KEY_SESSION.STATE 0 = 2 ∧
    (tickingOn.wr R.KEY_STATE.PREV_VALID 0 1).rd R.KEY_STATE.PREV_VALID 0 = 1 ∧ on.rd R.PLT_LIFECYCLE.STATE 0 = 1 ∧
    (on.wr R.KEY_STATE.PLATFORM_VALID 0 1).rd R.KEY_STATE.PLATFORM_VALID 0 ≠ 0 ∧ on.rd R.KEY_STATE.PLATFORM_VALID 0 = 0 ∧ on.rd R.KEY_SESSION.STATE 0 = 4 ∧
    ((on.wr R.KEY_SESSION_CTL.AT_HAND 0 1).wr R.KEY_RELEASE_HAND.HAND 0 3).boundaryPast 3 = false ∧ on.boundaryPast 0 = true ∧
    Scrubbing on ∧ on.key.after = none ∧ ({ on with key := { after := some 2 } } : State).key.after = some 2 :=
  ⟨by decide, by decide, by decide, by decide, by decide, by decide, by decide, by decide, ⟨by decide, by decide, by decide⟩, rfl, rfl⟩

/-! Management. -/

/-- Session 3 is live under an operator's credential; its oldest datagram has been repeated `n` times. -/
def managed (n : Nat) (life : Nat) : State :=
  { tickingOn.wr R.PLT_LIFECYCLE.STATE 0 life with
    mgmt := { sessions := [(3, { live := true, cred := true, out := [(0, [1])], repeats := n })], ops := [9] }, hist := [(5, { count := 2 })], nvLog := [] }

/-- A probe deck of one step for face 0, a word of zeros, signed as the image above is. -/
def deckHash : Nat := 0x247f065c0c74cfbb3687ef8847835e5ddb6db634c49618e3e80748111d17d25771090619110101bc02a54f5ffe10ba21
def deckWords : List Word :=
  [0x15650524b#64, 0x100000001#64, 0x100000001#64, 0xc8#64, 0x0#64, 0x0#64, 0x0#64, 0x0#64, 0x1#64, 0x1000000c0#64, 0x0#64, 0x0#64, 0x0#64, 0x0#64,
    0x3e800000000#64, 0x0#64, 0xbce0e319db02d7c#64, 0x64e6c3e4860cd536#64, 0x2603fcd68c948416#64, 0xc3fb6c1ad90e0d2b#64, 0x5ff8c196d3ff5acd#64,
    0x194b3603b109a1d0#64, 0x0#64, 0x0#64, 0x0#64] ++
  bytesWords 14 (leBytes 7 8 ++ [1] ++ leBytes deckHash 48 ++ leBytes deckHash 48 ++ List.replicate 7 0)
def deckKeyed : State :=
  { managed 0 1 with imgKeys := [⟨7, 0x7f9b3508757d6d5e165e208879e154b60582dd4d246fe076e575b0ee8e9fd5ba6a2db715b021b63441008d0e9d3ae68c,
      0x7f2e81dc84f000e5253e56b6694e07a0c45e7a4c36d9ccb172ed9e03d24eb8ae27b6f415d294d0dedb20ba8d62bc399e⟩] }

theorem test_deck_accepted : deckKeyed.deckRefusal deckWords = 0 := by decide +kernel

theorem test_deck_altered_refused : deckKeyed.deckRefusal (deckWords.set 24 1#64) = 3 := by decide +kernel

/-- The log ring's first granule is whole, under the platform set. -/
def logs : State :=
  { (on.wr R.MEM_WREG.LIMIT 0 1).wr R.KEY_STATE.PLATFORM_VALID 0 1 with hbm := [(0, { present := true, plat := true })] }

theorem readsClean_logs : ReadsClean logs 0 [] :=
  ⟨by decide, by decide, by decide, by decide, by decide, by decide⟩

theorem witness_ManagementResults : Operator (managed 0 1) 3 [1, 2, 3] ∧ Operator (managed 0 2) 3 [1, 2] ∧ Operator (managed 0 1) 3 [1] ∧
    ((managed 7 1).msess 3).out = [(0, [1])] ∧ ((managed 8 1).msess 3).repeats = 8 ∧ Operates 3 0 (.deploy 3 0) 9 [1] ∧
    regAt 1 = none ∧ regAt 8 = some (.PLT_CAP_FACES, 0) ∧ (managed 0 1).noFace .PLT_CAP_FACES 0 = false ∧ RegId.PLT_CAP_FACES ∉ requestRegs ∧
    (∀ g ∈ (regInfo .PLT_CAP_FACES).fields, g.path.mayFn 7 = false) ∧ (managed 0 1).mgmt.ops ≠ [] ∧ on.mgmt.ops = [] ∧
    (on.msess 3).live = false ∧ (on.mgmt.sessions.filter (fun e => e.2.live)).length < 4 ∧ Attests on 8 0 (.getVersion 8 0) [1, 3] false :=
  ⟨⟨by decide, by decide, by decide⟩, ⟨by decide, by decide, by decide⟩, ⟨by decide, by decide, by decide⟩, by decide, by decide,
    by simp [Operates], by decide, by decide, by decide, by decide, by decide, by decide, by decide, by decide, by decide, Or.inl ⟨rfl, rfl, rfl⟩⟩

theorem witness_ManagementResults_registers : regAt 0x6050 = some (.PLT_WIMG_FLOOR, 0) ∧ on.rd R.PLT_WIMG_FLOOR.FLOOR 0 ≤ 7 ∧
    7 < (on.wr R.PLT_WIMG_FLOOR.FLOOR 0 8).rd R.PLT_WIMG_FLOOR.FLOOR 0 ∧ on.rd R.KEY_SESSION_CTL.AT_HAND 0 = 0 ∧
    wordsFld [0#64] 0 4 ≠ 0x5650524B ∧ ReadsClean logs (logs.logSlot 0 / 128) [] ∧ (managed 0 1).rd R.PLT_LIFECYCLE.STATE 0 = 1 ∧
    ((managed 0 1).wr R.KEY_SESSION.STATE 0 0).rd R.KEY_SESSION.STATE 0 = 0 :=
  ⟨by decide, by decide, by decide, by decide, by decide, readsClean_logs, by decide, by decide⟩

/-! Records, decks and registers. -/

def rec0 (cls : Nat) : FRec :=
  { time := 0, hand := 0, unit := unitId 2 0 0 0 0, det := 1, cls := cls, count := 1, opcode := 0, lface := 0, addr := 0, detail0 := 0#64, detail1 := 0#64, last := 0
    hist := true }

/-- A step for face 7, and the hand in which the face runs it. -/
def step0 : DeckStep := deckStep deckWords ((deckWords.drop 8).take 16)
def deck0 : Deck := { id := 1, mode := 1, steps := [{ step0 with faces := 128 }], repeats := some 1 }
def probing : State := { on with deck := some deck0, hand := { expiry := 10000 }, faces := [(7, { run := .ended, endTime := some 0, probeOk := true })] }

theorem witness_RegisterAndFaultResults : on.rd R.PLT_LIFECYCLE.STATE 0 = 1 ∧ CleanBut on 7 (0x1FFFFFF / 128) 16 ∧
    (∀ k < 16, ((on.face 7).padWord (0x1FFFFFF / 128 * 16 + k)).poison = false) ∧
    Loggable { logs with faultq := [rec0 1] } (rec0 1) [] [] ∧ (rec0 1).counts = true ∧ (rec0 0).counts = false ∧ on.hist.length < 65536 ∧
    unitKind (unitId 20 0 0 0 0) = 20 :=
  ⟨by decide, by unfold CleanBut; decide, by decide, ⟨by decide, by decide, ⟨by decide, by decide, by decide, by decide, by decide, by decide⟩, by decide⟩, by decide, by decide, by decide, by decide⟩

theorem witness_RegisterAndFaultResults_probes : RunsStep probing 7 deck0 0 { step0 with faces := 128 } ∧ ({ step0 with faces := 128 } : DeckStep).holds [] = true ∧
    ({ step0 with expect := 1#64 } : DeckStep).holds [] = false ∧ Recordable probing { det := .probeFail, unit := step0.unit, lface := 7, d0 := 1#64 } ∧
    on.deck = none :=
  ⟨⟨rfl, by decide, by decide, by decide, by decide, by decide⟩, by decide, by decide, ⟨rfl, rfl, by decide, by decide, by decide⟩, rfl⟩

theorem witness_RegisterAndFaultResults_writes : hostOff 0 0x9018 = some 0x9018 ∧ hostOff 1 0xFF000 = none ∧ regAt 0x9018 = some (.PWR_LIMIT, 0) ∧
    on.hostReaches 1 0x9018 true = true ∧ regAt 0x4010 = some (.MSH_ERR, 0) ∧ RegId.MSH_ERR ∉ ruledRegs ∧ on.noFace .MSH_ERR 0 = false ∧
    (on.wr R.PLT_CAP_FACES.COUNT 0 7).noFace .ARF_CFG 7 = true ∧ ({ on with dead := true } : State).hostReaches 0 8 true = false := by decide

end Sys2Proof.Tests
end

section
/-! What a read and a write of a granule of the weight region come to, where nothing is wrong with it (17_memory_protection.md R482, R483), and
what the platform controller's write into the log ring comes to (20_faults.md R546). -/
namespace Sys2Proof.Machine
open Sys2Proof.Claims

/-! ### Counts, maps and granules -/

/-- A value read is the default, or that of an entry. -/
theorem mget_default_or_mem {α : Type} (d : α) (m : SMap α) (k : Nat) : mget d m k = d ∨ (k, mget d m k) ∈ m := by
  induction m with
  | nil => exact .inl rfl
  | cons e m ih =>
    obtain ⟨a, v⟩ := e
    by_cases h : k = a
    · subst h; exact .inr (by simp [mget])
    · simp only [mget, if_neg h]
      exact ih.imp_right (List.mem_cons_of_mem _)

/-- Writing what is read changes nothing in a map in canonical form. -/
theorem mset_mget_self {α : Type} [DecidableEq α] (d : α) (m : SMap α) (k : Nat) (h : mwf (fun _ => d) m = true) :
    mset d m k (mget d m k) = m := by
  refine mget_ext (fun _ => d) _ _ (mset_wf (fun _ => d) _ _ _ h) h (fun j => ?_)
  rw [mget_mset]
  split
  · next e => rw [e]
  · rfl

theorem setGran_gran_self {s : State} (h : mwf (fun _ => {}) s.hbm = true) (g : Nat) : s.setGran g (s.gran g) = s := by
  show ({ s with hbm := mset {} s.hbm g (mget {} s.hbm g) } : State) = s
  rw [mset_mget_self _ _ _ h]

/-- Nothing added to a saturating count leaves every register as it reads. -/
theorem reg_bumpBy_zero (s : State) (f : Fld) (i : Nat) (r : RegId) (j : Nat) (hf : f.lo + f.wd ≤ 64 := by decide) :
    (s.bumpBy f i 0).reg r j = s.reg r j := by
  have hm : min (s.rd f i + 0) (2 ^ f.wd - 1) = s.rd f i := by
    have := rd_lt s f i
    omega
  rw [State.bumpBy, hm, reg_wr]
  split
  · next e => rw [State.rd, fput_fget _ _ _ hf, e.1, e.2]
  · rfl

theorem Frame.bumpBy_zero {s t : State} {fs : List (Fld × Nat)} {gs : List Nat} {f : Fld} {i : Nat} (h : s.Frame t fs gs)
    (hf : f.lo + f.wd ≤ 64 := by decide) : s.Frame (t.bumpBy f i 0) fs gs :=
  ⟨fun r j b hb => by rw [reg_bumpBy_zero _ _ _ _ _ hf]; exact h.regs r j b hb, h.faces, h.rest⟩

theorem checkCode_zero : checkCode 0 = .clean := rfl

/-- A granule without a wrong bit is not corrected. -/
theorem correct_clean {x : Gran} (h : ∀ e ∈ x.words, checkCode e.2.flips = .clean) : x.correct = (x, 0) := by
  refine loop_same (fun i => ?_) 16
  have hc : checkCode (mget {} x.words i).flips = .clean := by
    rcases mget_default_or_mem {} x.words i with k | k
    · rw [k]; exact checkCode_zero
    · exact h _ k
  dsimp only
  rw [hc]

/-! ### What the logging of a record leaves alone -/

/-- Of the registers, those of `rs` at most read otherwise in `t`. -/
def RegsBeside (rs : List RegId) (s t : State) : Prop := ∀ r, r ∉ rs → ∀ i, t.reg r i = s.reg r i

theorem RegsBeside.refl (rs : List RegId) (s : State) : RegsBeside rs s s := fun _ _ _ => rfl

theorem RegsBeside.trans {rs : List RegId} {s t u : State} (h : RegsBeside rs s t) (k : RegsBeside rs t u) : RegsBeside rs s u :=
  fun r hr i => (k r hr i).trans (h r hr i)

theorem RegsBeside.wr {rs : List RegId} {s t : State} {f : Fld} {i v : Nat} (h : RegsBeside rs s t) (hf : f.reg ∈ rs := by decide) :
    RegsBeside rs s (t.wr f i v) :=
  fun r hr j => (reg_wr_ne t f r i j v (fun e => hr (e ▸ hf))).trans (h r hr j)

theorem RegsBeside.rd {rs : List RegId} {s t : State} (h : RegsBeside rs s t) (g : Fld) (i : Nat) (hg : g.reg ∉ rs := by decide) :
    t.rd g i = s.rd g i := by rw [State.rd, State.rd, h _ hg]

/-- The registers that the logging of a record writes: none says how HBM is read, or where the log ring lies. -/
def logRegs : List RegId := [.FLT_STATUS, .FLT_HIST_STAT, .FLT_LOG_READ, .FLT_LOG_NEXT, .MEM_ERR]

/-- `t` reads HBM as `s` does. -/
structure SameStore (s t : State) : Prop where
  regs : RegsBeside logRegs s t
  hbm : t.hbm = s.hbm
  metas : t.hbmMeta = s.hbmMeta
  gen : t.keyGen = s.keyGen
  injs : t.injs = s.injs

theorem SameStore.refl (s : State) : SameStore s s := ⟨RegsBeside.refl _ _, rfl, rfl, rfl, rfl⟩

theorem SameStore.wr {s t : State} {f : Fld} {i v : Nat} (h : SameStore s t) (hf : f.reg ∈ logRegs := by decide) : SameStore s (t.wr f i v) :=
  ⟨h.regs.wr hf, h.hbm, h.metas, h.gen, h.injs⟩

theorem SameStore.gran {s t : State} (h : SameStore s t) (g : Nat) : t.gran g = s.gran g := by rw [State.gran, State.gran, h.hbm]

theorem inWreg_beside {s t : State} (h : RegsBeside logRegs s t) (a : Nat) : t.inWreg a = s.inWreg a := by
  simp only [State.inWreg, h.rd R.MEM_WREG.BASE, h.rd R.MEM_WREG.LIMIT]

theorem stackOn_beside {s t : State} (h : RegsBeside logRegs s t) (p : Nat) : t.stackOn p = s.stackOn p := by
  have hd (d : Nat) : t.domOn d = s.domOn d := by
    rw [State.domOn, State.domOn, State.domain, State.domain, h.rd (R.PWR_DOM_STATE.STATE d) 0 (by simp [logRegs, R.PWR_DOM_STATE.STATE])]
  simp only [State.stackOn, State.stackPresent, h.rd R.PLT_CAP_UNITS.STACKS, hd]

theorem logSlot_beside {s t : State} (h : RegsBeside logRegs s t) (m : Nat) : t.logSlot m = s.logSlot m := by
  simp only [State.logSlot, h.rd R.FLT_LOG_CFG.STACK, h.rd R.FLT_LOG_CFG.BASE, h.rd R.FLT_LOG_CFG.SIZE]

theorem readsClean_same {s t : State} {g : Nat} {ws : List Word} (h : ReadsClean s g ws) (k : SameStore s t) : ReadsClean t g ws := by
  obtain ⟨⟨hreg, hon⟩, ⟨hkey, hplat, hgen⟩, hhere, ⟨hmeta, hcl⟩, hwords, ⟨hinj, hwf⟩⟩ := h
  refine ⟨⟨?_, ?_⟩, ⟨?_, ?_, ?_⟩, ?_, ⟨?_, ?_⟩, ?_, ?_, ?_⟩
  · rw [inWreg_beside k.regs, hreg]
  · rw [stackOn_beside k.regs, hon]
  · rw [k.regs.rd R.KEY_STATE.PLATFORM_VALID, hkey]
  · rw [k.gran, hplat]
  · rw [k.gran, k.gen, hgen]
  · rw [k.gran]; exact hhere
  · rw [k.metas, hmeta]
  · rw [k.gran]; exact hcl
  · rw [k.gran]; exact hwords
  · rw [k.injs, hinj]
  · rw [k.hbm, hwf]

/-! ### Reads and writes -/

/-- With no slot armed, no check is forced to fail (R559). -/
theorem forced_quiet {s : State} (h : s.injs = []) (d : Det) (u : Nat) : s.forced d u = (false, s) := by
  simp [State.forced, State.inject, injSlot_nil h]

/-- The state that a read of a whole granule leaves: nothing is added to the count of corrections. -/
def State.readDone (s : State) (g : Nat) : State := s.bumpBy R.MEM_ERR.CORRECTED (stk g) 0

theorem SameStore.readDone {s t : State} (h : SameStore s t) (g : Nat) : SameStore s (t.readDone g) := h.wr

/-- A read of a whole granule of the weight region delivers its words and counts nothing (R482). -/
theorem hbmRead_clean {s : State} {g : Nat} {ws : List Word} (h : ReadsClean s g ws) : s.hbmRead g = (s.readDone g, (s.gran g).raw) := by
  obtain ⟨⟨hreg, -⟩, ⟨hkey, hplat, hgen⟩, ⟨hpres, hpois, htag⟩, ⟨hmeta, hcl⟩, -, ⟨hinj, hwf⟩⟩ := h
  unfold State.hbmRead
  extract_lets c mf mfix n src s1 x s2 fk s3 ft
  have hc : c = (s.gran g, 0) := correct_clean hcl
  have hx : x = s.gran g := congrArg Prod.fst hc
  have hmf : mf = 0 := hmeta
  have hfix : mfix = false := by simp [mfix, hmf]
  have hs1 : s1 = s.readDone g := by
    have hn : n = 0 := by simp [n, hc, hfix]
    have hz : ({ s.setGran g c.1 with hbmMeta := if mfix then mset 0 s.hbmMeta (metaKey g) 0 else s.hbmMeta } : State) = s := by
      rw [hfix, hc]
      exact setGran_gran_self hwf g
    show State.bumpBy _ _ _ n = _
    rw [hn]
    exact congrArg (fun t : State => t.bumpBy R.MEM_ERR.CORRECTED (stk g) 0) hz
  have same : SameStore s (s.readDone g) := (SameStore.refl s).readDone g
  have hany : (x.words.any (fun e => e.2.uncorr) || decide (checkCode mf = .bad)) = false := by
    rw [hmf, checkCode_zero, hx, Bool.or_eq_false_iff, List.any_eq_false]
    exact ⟨fun e he => by simp [PWord.uncorr, hcl e he], by simp⟩
  have hfk : fk.1 = false := by
    simp only [fk, hs1]
    split
    · rw [forced_quiet (same.injs.trans hinj)]
    · rfl
  have hset : s.platformSet = (s.gran g).set := by simp [Gran.set, State.platformSet, hplat, hgen]
  have hk : s1.keyFor g x = some (s.gran g).set := by
    rw [hs1, State.keyFor, inWreg_beside same.regs, if_pos hreg, State.flag, same.regs.rd R.KEY_STATE.PLATFORM_VALID, hkey, ← hset]
    rfl
  have htf : (x.tagFails g (s.gran g).set || ft.1) = false := by
    simp only [ft, hs1, forced_quiet (same.injs.trans hinj), hx, Gran.tagFails, htag]
    simp
  rw [hany, if_neg Bool.false_ne_true, hfk, if_neg Bool.false_ne_true, hk, hx, hpres, hpois, hs1]
  simp only [hx] at htf
  simp [htf, Gran.deliver, Gran.raw]

/-- The words that a list makes: those of the list, with valid codes. -/
theorem mget_wordsOf (ws : List (Word × Bool)) (i : Nat) :
    mget {} (wordsOf ws) i = { data := (ws.getD i (0#64, false)).1, poison := (ws.getD i (0#64, false)).2 } := by
  have key : ∀ (ws : List (Word × Bool)) (m : SMap PWord) (n : Nat), mget ({} : PWord) (ws.foldl (fun (a : SMap PWord × Nat) w =>
      (mset {} a.1 a.2 { data := w.1, poison := w.2, flips := 0 }, a.2 + 1)) (m, n)).1 i =
      if n ≤ i ∧ i < n + ws.length then { data := (ws.getD (i - n) (0#64, false)).1, poison := (ws.getD (i - n) (0#64, false)).2 }
      else mget {} m i := by
    intro ws
    induction ws with
    | nil => intro m n; simp
    | cons w ws ih =>
      intro m n
      rw [List.foldl_cons, ih, mget_mset]
      rcases Nat.lt_trichotomy i n with hi | rfl | hi
      · rw [if_neg (by omega), if_neg (by omega), if_neg (by omega)]
      · simp
      · have hsub : i - n = i - (n + 1) + 1 := by omega
        rw [if_neg (show ¬ i = n by omega), hsub, List.getD_cons_succ]
        simp only [List.length_cons]
        by_cases hl : i < n + 1 + ws.length
        · rw [if_pos ⟨by omega, hl⟩, if_pos ⟨by omega, by omega⟩]
        · rw [if_neg (by omega), if_neg (by omega)]
  rw [wordsOf, key]
  split
  · rfl
  · next h => rw [List.getD_eq_default _ _ (by omega)]; rfl

theorem wordsOf_flips (ws : List (Word × Bool)) : ∀ e ∈ wordsOf ws, e.2.flips = 0 := by
  have key : ∀ (ws : List (Word × Bool)) (a : SMap PWord × Nat), (∀ e ∈ a.1, e.2.flips = 0) →
      ∀ e ∈ (ws.foldl (fun (a : SMap PWord × Nat) w => (mset {} a.1 a.2 { data := w.1, poison := w.2, flips := 0 }, a.2 + 1)) a).1,
        e.2.flips = 0 := by
    intro ws
    induction ws with
    | nil => intro a h; exact h
    | cons w ws ih =>
      refine fun a h => ih _ (fun e he => ?_)
      rcases mset_keys _ _ _ _ e he with rfl | he
      · rfl
      · exact h e he
  exact key ws _ (by simp)

/-- A granule of the weight region as a write leaves it (R483). -/
def State.stored (s : State) (ws : List (Word × Bool)) : Gran := ⟨wordsOf ws, true, false, true, s.keyGen, 0, false⟩

/-- A write of a granule of the weight region whose metadata word is sound (R483). -/
theorem hbmWrite_wreg {s : State} {g : Nat} {ws : List (Word × Bool)} (hreg : s.inWreg (g * 128) = true)
    (hkey : s.rd R.KEY_STATE.PLATFORM_VALID 0 = 1) (hmeta : mget 0 s.hbmMeta (metaKey g) = 0) (hinj : s.injs = []) :
    s.hbmWrite g ws = ({ s with hbmMeta := mset 0 s.hbmMeta (metaKey g) 0 } : State).setGran g (s.stored ws) := by
  have hk : s.hasKey g = true := by simp [State.hasKey, hreg, State.flag, hkey]
  rw [State.hbmWrite, if_pos hk]
  unfold State.hbmPut
  extract_lets pl s0 e x
  have hs0 : s0 = { s with hbmMeta := mset 0 s.hbmMeta (metaKey g) 0 } := if_neg (by rw [hmeta, checkCode_zero]; nofun)
  have hx : x = s.stored ws := by simp [x, e, pl, hreg, State.stored]
  have hi : s0.inject .hbmUncorr (chanUnit g) (fun p => decide (p % 4 = 3)) = none := by
    rw [State.inject, injSlot_nil (hs0 ▸ hinj)]
  rw [hi, hs0, hx]

/-- A granule just written is whole, where no word of it was written poisoned. -/
theorem readsClean_stored {s : State} {g : Nat} {ws : List Word} {line : List (Word × Bool)} (h : ReadsClean s g ws)
    (hp : ∀ e ∈ line, e.2 = false) : ReadsClean (s.hbmWrite g line) g (line.map Prod.fst) := by
  obtain ⟨⟨hreg, hon⟩, ⟨hkey, -⟩, -, ⟨hmeta, -⟩, -, ⟨hinj, hwf⟩⟩ := h
  rw [hbmWrite_wreg hreg hkey hmeta hinj]
  have hg : (({ s with hbmMeta := mset 0 s.hbmMeta (metaKey g) 0 } : State).setGran g (s.stored line)).gran g = s.stored line :=
    gran_setGran_same _ _ _
  refine ⟨⟨hreg, hon⟩, ⟨hkey, ?_, ?_⟩, ?_, ⟨mget_mset_same _ _ _ _, ?_⟩, ?_, hinj, mset_wf (fun _ => ({} : Gran)) _ _ _ hwf⟩ <;> rw [hg]
  · rfl
  · rfl
  · exact ⟨rfl, rfl, rfl⟩
  · intro e he
    rw [wordsOf_flips line e he]
    rfl
  · intro i _
    rw [State.stored, mget_wordsOf]
    refine ⟨?_, ?_⟩
    · exact (List.getD_map line (0#64, false) Prod.fst).symm
    · show (line.getD i (0#64, false)).2 = false
      rcases Nat.lt_or_ge i line.length with k | k
      · rw [List.getD_eq_getElem _ _ k]; exact hp _ (List.getElem_mem k)
      · rw [List.getD_eq_default _ _ k]

/-- What a read of a whole granule delivers of a word. -/
theorem raw_getD {s : State} {g : Nat} {ws : List Word} (h : ReadsClean s g ws) {i : Nat} (hi : i < 16) :
    (s.gran g).raw.getD i (0#64, false) = (ws.getD i 0#64, false) := by
  obtain ⟨hd, hp⟩ := h.words i hi
  simp [Gran.raw, List.getD_eq_getElem?_getD, List.getElem?_range hi, hd, hp]

theorem raw_sound {s : State} {g : Nat} {ws : List Word} (h : ReadsClean s g ws) : ∀ e ∈ (s.gran g).raw, e.2 = false := by
  intro e he
  obtain ⟨i, hi, rfl⟩ := List.mem_map.mp he
  exact (h.words i (List.mem_range.mp hi)).2

/-! ### A slot of the log ring (R546) -/

/-- Sixteen words, of which the eight from place k on are those of `xs`, and the others those of `ws`. -/
def slotWords (k : Nat) (xs ws : List Word) : List Word :=
  (List.range 16).map (fun i => if k ≤ i ∧ i < k + 8 then xs.getD (i - k) 0#64 else ws.getD i 0#64)

theorem getD_slotWords (k : Nat) (xs ws : List Word) {i : Nat} (hi : i < 16) :
    (slotWords k xs ws).getD i 0#64 = if k ≤ i ∧ i < k + 8 then xs.getD (i - k) 0#64 else ws.getD i 0#64 := by
  simp [slotWords, List.getD_eq_getElem?_getD, List.getElem?_range hi]

/-- The line that is written into the log ring holds those words, none poisoned. -/
theorem slotLine_eq {k : Nat} (xs : List Word) {ws : List Word} {line : List (Word × Bool)}
    (h : ∀ i < 16, line.getD i (0#64, false) = (ws.getD i 0#64, false)) :
    (List.range 16).map (fun i => if k ≤ i ∧ i < k + 8 then (xs.getD (i - k) 0#64, false) else line.getD i (0#64, false)) =
      (slotWords k xs ws).map (·, false) := by
  rw [slotWords, List.map_map]
  refine List.map_congr_left (fun i hi => ?_)
  rw [h i (List.mem_range.mp hi), Function.comp_apply]
  split <;> rfl

/-- A slot of 64 bytes is one half of its granule. -/
theorem logSlot_half (s : State) (m : Nat) : s.logSlot m / 8 % 16 = 0 ∨ s.logSlot m / 8 % 16 = 8 := by
  simp only [State.logSlot]
  omega

/-- The granule and the stack of an address. -/
theorem hStack_gran (a : Nat) : hStack (a / 128 * 128) = hStack a := by
  simp only [hStack, nf]
  omega

/-- Granule g of `t` is whole and holds `ws`; of all else that `s` holds, only counts of HBM's reads and metadata may have changed. -/
structure Rewritten (s : State) (g : Nat) (ws : List Word) (t : State) : Prop where
  clean : ReadsClean t g ws
  others : ∀ k, k ≠ g → t.gran k = s.gran k
  regs : RegsBeside [.MEM_ERR] s t
  rest : { t with regs := s.regs, hbm := s.hbm, hbmMeta := s.hbmMeta } = s

/-- A record written into its slot of the log ring, whose granule is whole, stands there beside what the granule held (R546). -/
theorem logWrite_clean {s : State} {m : Nat} {ws : List Word} (xs : List Word) (h : ReadsClean s (s.logSlot m / 128) ws) :
    ∃ t, s.logWrite m xs = (t, true) ∧ Rewritten s (s.logSlot m / 128) (slotWords (s.logSlot m / 8 % 16) xs ws) t := by
  have hon : ¬ (s.stackOn (hStack (s.logSlot m)) = false ∨ s.hasKey (s.logSlot m / 128) = false) := by
    rw [← hStack_gran, h.place.2, State.hasKey, if_pos h.place.1, State.flag, h.key.1]
    simp
  unfold State.logWrite
  extract_lets a g r line t back
  rw [if_neg hon]
  have hr : r = (s.readDone g, (s.gran g).raw) := hbmRead_clean h
  have read : ReadsClean r.1 g ws := by rw [hr]; exact readsClean_same h ((SameStore.refl s).readDone g)
  have hline : line = (slotWords (a / 8 % 16) xs ws).map (·, false) := by
    refine slotLine_eq _ (fun i hi => ?_)
    rw [hr, raw_getD h hi]
  have written : ReadsClean t g (slotWords (a / 8 % 16) xs ws) := by
    have := readsClean_stored read (line := line) (by simp [hline])
    rwa [show line.map Prod.fst = slotWords (a / 8 % 16) xs ws by rw [hline, List.map_map]; exact List.map_id _] at this
  have hback : back = (t.readDone g, (t.gran g).raw) := hbmRead_clean written
  have ht : t = ({ r.1 with hbmMeta := mset 0 r.1.hbmMeta (metaKey g) 0 } : State).setGran g (r.1.stored line) :=
    hbmWrite_wreg read.place.1 read.key.1 read.clean.1 read.quiet.1
  refine ⟨t.readDone g, ?_, readsClean_same written ((SameStore.refl t).readDone g), ?_, ?_, ?_⟩
  · have hgood : ((back.2.drop (a / 8 % 16)).take 8).any Prod.snd = false := by
      rw [List.any_eq_false, hback]
      intro e he
      simp [raw_sound written e (List.mem_of_mem_drop (List.mem_of_mem_take he))]
    rw [hgood, hback]
    rfl
  · intro k hk
    rw [ht, hr]
    exact gran_setGran_other _ _ _ _ hk
  · rw [ht, hr]
    exact ((RegsBeside.refl [.MEM_ERR] s).wr (f := R.MEM_ERR.CORRECTED)).wr (f := R.MEM_ERR.CORRECTED)
  · rw [ht, hr]
    rfl
end Sys2Proof.Machine
end
section
/-! What a host's write of a register leaves, where the register has no rule of its own (00_scope.md R7, R12, R13). -/
namespace Sys2Proof.Machine
open Sys2Proof.Claims

/-! ### The word that a write leaves -/

/-- A field covers bit b. -/
def FieldInfo.covers (g : FieldInfo) (b : Nat) : Prop := g.lo ≤ b ∧ b < g.lo + g.wd

/-- The mask of the chosen fields has the bits that one of them covers. -/
theorem getLsbD_fieldMask (p : FieldInfo → Bool) (fs : List FieldInfo) {b : Nat} (hb : b < 64) :
    (fieldMask p fs).getLsbD b = true ↔ ∃ g ∈ fs, p g = true ∧ g.covers b := by
  have key : ∀ m : Word, (fs.foldl (fun m f => if p f then m ||| ((BitVec.ofNat 64 (2 ^ f.wd - 1)) <<< f.lo) else m) m).getLsbD b = true ↔
      m.getLsbD b = true ∨ ∃ g ∈ fs, p g = true ∧ g.covers b := by
    induction fs with
    | nil => intro m; simp
    | cons f fs ih =>
      intro m
      have hf : ((BitVec.ofNat 64 (2 ^ f.wd - 1) : Word) <<< f.lo).getLsbD b = true ↔ f.covers b := by
        simp only [BitVec.getLsbD_shiftLeft, BitVec.getLsbD_ofNat, Nat.testBit_two_pow_sub_one, Bool.and_eq_true, Bool.not_eq_true',
          decide_eq_true_eq, decide_eq_false_iff_not, FieldInfo.covers]
        omega
      rw [List.foldl_cons, ih, List.exists_mem_cons_iff]
      by_cases hp : p f = true
      · rw [if_pos hp, BitVec.getLsbD_or, Bool.or_eq_true, hf]
        simp only [hp, true_and, or_assoc]
      · rw [if_neg hp]
        simp [hp]
  rw [fieldMask, key]
  simp

/-- No bit of a register lies in an RW field and in a W1C field. -/
def RegId.accessApart (r : RegId) : Bool :=
  (regInfo r).fields.all (fun f => (regInfo r).fields.all (fun g =>
    !decide (f.acc = .rw ∧ g.acc = .w1c) || decide (f.lo + f.wd ≤ g.lo ∨ g.lo + g.wd ≤ f.lo)))

theorem accessApart_all : allRegs.all RegId.accessApart = true := by decide +kernel

theorem not_both_covered (r : RegId) {f g : FieldInfo} {b : Nat} (hf : f ∈ (regInfo r).fields) (hg : g ∈ (regInfo r).fields)
    (ha : f.acc = .rw) (hc : g.acc = .w1c) (h : f.covers b) : ¬ g.covers b := by
  have hr := List.all_eq_true.mp accessApart_all r (List.mem_of_getElem? (allRegs_ctorIdx r))
  have := List.all_eq_true.mp (List.all_eq_true.mp hr f hf) g hg
  simp only [ha, hc, and_self, decide_true, Bool.not_true, Bool.false_or, decide_eq_true_eq] at this
  simp only [FieldInfo.covers] at h ⊢
  omega

/-- The image of a write changes what `WordWritten` says (R13). -/
theorem wordWritten_writeImage (r : RegId) (fn : Nat) (old v : Word) :
    WordWritten r fn old v (writeImage r (fun f => f.path.mayFn fn) old v) := by
  intro b hb
  have mask (a : Acc) : (fieldMask (fun f => f.path.mayFn fn && f.acc == a) (regInfo r).fields).getLsbD b = true ↔
      ∃ g ∈ (regInfo r).fields, g.lo ≤ b ∧ b < g.lo + g.wd ∧ g.path.mayFn fn = true ∧ g.acc = a := by
    rw [getLsbD_fieldMask _ _ hb]
    refine exists_congr (fun g => and_congr_right (fun _ => ?_))
    simp only [FieldInfo.covers, Bool.and_eq_true, beq_iff_eq]
    tauto
  simp only [writeImage, BitVec.getLsbD_and, BitVec.getLsbD_or, BitVec.getLsbD_not, hb, decide_true, Bool.true_and]
  by_cases hrw : ∃ g ∈ (regInfo r).fields, g.lo ≤ b ∧ b < g.lo + g.wd ∧ g.path.mayFn fn = true ∧ g.acc = .rw
  · have hwc : (fieldMask (fun f => f.path.mayFn fn && f.acc == .w1c) (regInfo r).fields).getLsbD b = false := by
      rw [← Bool.not_eq_true, mask]
      rintro ⟨g, hg, hl, hh, -, hc⟩
      obtain ⟨f, hf, kl, kh, -, ka⟩ := hrw
      exact not_both_covered r hf hg ka hc ⟨kl, kh⟩ ⟨hl, hh⟩
    rw [if_pos hrw, (mask .rw).mpr hrw, hwc]
    simp
  · have hm := Bool.eq_false_iff.mpr (mt (mask .rw).mp hrw)
    rw [if_neg hrw, hm]
    split
    · next hwc => rw [(mask .w1c).mpr hwc]; simp
    · next hwc => rw [Bool.eq_false_iff.mpr (mt (mask .w1c).mp hwc)]; simp

/-- Where no field may be written, the word stays. -/
theorem wordWritten_self {r : RegId} {fn : Nat} {old v : Word} (h : (regInfo r).fields.all (fun f => !f.path.mayFn fn) = true) :
    WordWritten r fn old v old := by
  have no (a : Acc) (b : Nat) : ¬ ∃ g ∈ (regInfo r).fields, g.lo ≤ b ∧ b < g.lo + g.wd ∧ g.path.mayFn fn = true ∧ g.acc = a := by
    rintro ⟨g, hg, -, -, hm, -⟩
    simpa [hm] using List.all_eq_true.mp h g hg
  intro b _
  rw [if_neg (no _ _), if_neg (no _ _)]

/-! ### Registers without a rule of their own: each branch that these definitions name is that of a register of `ruledRegs` -/

section
variable {r : RegId} (h : r ∉ ruledRegs)
include h

theorem writeRequest_unruled (s : State) (fn i : Nat) (v : Word) : s.writeRequest fn r i v = none := by
  unfold State.writeRequest
  split <;> simp [ruledRegs, requestRegs] at h ⊢

theorem refusedWrite_unruled (s : State) (i : Nat) (new : Word) : s.refusedWrite r i new = false := by
  unfold State.refusedWrite
  extract_lets
  split <;> simp [ruledRegs, requestRegs] at h ⊢

theorem keepSome_unruled (s : State) (i : Nat) (new : Word) : s.keepSome r i new = new := by
  unfold State.keepSome
  extract_lets
  split <;> simp [ruledRegs, requestRegs] at h ⊢

theorem hardRange_unruled : hardRange r = [] := by
  unfold hardRange
  split <;> simp [ruledRegs, requestRegs] at h ⊢

theorem softRange_unruled : softRange r = [] := by
  unfold softRange
  split <;> simp [ruledRegs, requestRegs] at h ⊢

theorem writeEffects_unruled (s : State) (fn i : Nat) (old v : Word) : s.writeEffects fn r i old v = s := by
  unfold State.writeEffects
  extract_lets
  split <;> simp [ruledRegs, requestRegs] at h ⊢

/-- A write of such a register through function fn (R13). -/
theorem writeReg_unruled (s : State) (fn i : Nat) (v : Word) (hn : s.noFace r i = false) :
    WordWritten r fn (s.reg r i) v ((s.writeReg fn r i v).reg r i) ∧ s.Frame (s.writeReg fn r i v) [whole r i] [] := by
  have hl (new : Word) : s.legal r i new = (s, new) := by
    simp [State.legal, refusedWrite_unruled h, keepSome_unruled h, hardRange_unruled h, softRange_unruled h]
  rw [State.writeReg, hn, if_neg Bool.false_ne_true, writeRequest_unruled h]
  dsimp only
  split
  · next hall => exact ⟨wordWritten_self hall, Frame.refl _ _ _⟩
  · rw [hl, writeEffects_unruled h, reg_setReg_same]
    exact ⟨wordWritten_writeImage _ _ _ _, Frame.setReg (Frame.refl _ _ _) (by simp)⟩

end

/-! ### REGISTER_WRITE -/

/-- A 64-bit write whose place has a register that the function reaches. -/
theorem execRegisterWrite_at {s : State} {fn off o j : Nat} {v : Word} {r : RegId} (ho : hostOff fn off = some o)
    (hr : s.hostReaches fn o true = true) (ha : regAt o = some (r, j)) (hm : off % 8 = 0) :
    execRegisterWrite fn off 8 v s = .next (s.writeReg fn r j v) := by
  unfold execRegisterWrite
  rw [if_neg (by omega), ho]
  dsimp only
  rw [if_neg (by simp [hr]), ha]

/-- A write that is narrow or not aligned, that lies outside the function's BAR0 or where the host does not reach, or where no register lies, is
ignored (R12, R588, R589; that a misaligned one is dropped is the model's choice, log entry 71). -/
theorem execRegisterWrite_ignored {s : State} {fn off width : Nat} {v : Word}
    (h : (width ≠ 8 ∨ off % 8 ≠ 0) ∨ hostOff fn off = none ∨ ∃ o, hostOff fn off = some o ∧ (s.hostReaches fn o true = false ∨ regAt o = none)) :
    execRegisterWrite fn off width v s = .next s := by
  unfold execRegisterWrite
  rcases h with h | h | ⟨o, ho, h⟩
  · rw [if_pos h]
  · rw [h]; simp
  · rw [ho]
    dsimp only
    rcases h with h | h
    · simp [h]
    · simp [h]

end Sys2Proof.Machine
end
section
/-! What debug reads, the commands on history and the log ring, and writes of injection slots leave (18_tenancy_and_management.md R516,
20_faults.md R546, R553, R557, R558). -/
namespace Sys2Proof.Machine
open Sys2Proof.Claims

/-! ### Loops that write registers -/

theorem loop_succ {α : Type} (n : Nat) (s : α) (g : α → Nat → α) : loop (n + 1) s g = g (loop n s g) n := by
  simp [loop, List.range_succ]

theorem reg_loop_setReg (s : State) (r : RegId) (v : Nat → Word) {n k : Nat} (hk : k < n) :
    (loop n s (fun u i => u.setReg r i (v i))).reg r k = v k := by
  induction n with
  | zero => cases hk
  | succ n ih =>
    rw [loop_succ, reg_setReg]
    split
    · next e => rw [e.2]
    · next e => exact ih (by simp at e; omega)

theorem rd_loop_setReg_ne (n : Nat) (s : State) (r : RegId) (v : Nat → Word) (g : Fld) (j : Nat) (h : g.reg ≠ r) :
    (loop n s (fun u i => u.setReg r i (v i))).rd g j = s.rd g j :=
  loop_ind (P := fun t : State => t.rd g j = s.rd g j) n s _ rfl (fun t i _ ht => (rd_setReg_ne t r i j (v i) g h).trans ht)

theorem Frame.loop_setReg {s t : State} {fs : List (Fld × Nat)} {gs : List Nat} {r : RegId} {v : Nat → Word} {n : Nat} (h : s.Frame t fs gs)
    (hm : ∀ i < n, whole r i ∈ fs) : s.Frame (loop n t (fun u i => u.setReg r i (v i))) fs gs :=
  loop_ind (P := fun u => s.Frame u fs gs) n t _ h (fun _ i hi hu => Frame.setReg hu (hm i hi))

theorem mem_wholes {r : RegId} {n i : Nat} (hi : i < n) : whole r i ∈ (List.range n).map (whole r) :=
  List.mem_map_of_mem (List.mem_range.mpr hi)

/-! ### Debug reads (R516) -/

/-- A read of a clean word that is not poisoned counts nothing (R219). -/
theorem padTouch_clean {s : State} {f w : Nat} (hc : checkCode ((s.face f).padWord w).flips = .clean)
    (hp : ((s.face f).padWord w).poison = false) : s.padTouch f w = s := by
  simp [State.padTouch, hc, hp]

/-- A read of a line whose words are clean and not poisoned counts nothing. -/
theorem padTouchRange_clean {s : State} {f line : Nat} (hc : CleanBut s f line 16)
    (hp : ∀ k < 16, ((s.face f).padWord (line * 16 + k)).poison = false) : s.padTouchRange f (line * 128) 128 = s := by
  have hn : (line * 128 + 128 - 1) / 8 + 1 - line * 128 / 8 = 16 := by omega
  have hw : line * 128 / 8 = line * 16 := by omega
  rw [State.padTouchRange, if_neg (by decide), hn, hw]
  refine loop_ind (P := fun t => t = s) 16 s _ rfl (fun t i hi ht => ?_)
  rw [ht]
  exact padTouch_clean (hc i hi (by omega)) (hp i hi)

/-- The words of a clean line, as a read delivers them. -/
theorem padWords_clean {s : State} {f line k : Nat} (hc : CleanBut s f line 16) (hk : k < 16) :
    (((s.face f).padWords (line * 128) 128).getD k (0#64, false)).1 = ((s.face f).padWord (line * 16 + k)).data := by
  have hw : line * 128 / 8 = line * 16 := by omega
  simp [Face.padWords, hw, List.getD_eq_getElem?_getD, List.getElem?_range hk, PWord.deliver, hc k hk (by omega)]

theorem execDbgRead_closed {s : State} {f addr : Nat} (h : s.rd R.PLT_LIFECYCLE.STATE 0 ≠ 1) : execDbgRead f addr s = .next s := by
  rw [execDbgRead, State.life, if_pos h]

/-- The state in which a debug read begins: PLT_DBG_CTL names the line. -/
def State.dbgAsked (s : State) (f addr : Nat) : State := (s.wr R.PLT_DBG_CTL.ADDR 0 addr).wr R.PLT_DBG_CTL.FACE 0 f

/-- What a debug read may change. -/
def dbgFields : List (Fld × Nat) := [(R.PLT_DBG_CTL.ADDR, 0), (R.PLT_DBG_CTL.FACE, 0)] ++ (List.range 16).map (whole .PLT_DBG_DATA)

theorem Frame.dbgData (s : State) (f addr : Nat) (v : Nat → Word) :
    s.Frame (loop 16 (s.dbgAsked f addr) (fun u i => u.setReg .PLT_DBG_DATA i (v i))) dbgFields [] :=
  Frame.loop_setReg (Frame.wr (Frame.wr (Frame.refl _ _ _) (by simp [dbgFields])) (by simp [dbgFields]))
    (fun _ hi => List.mem_append_right _ (mem_wholes hi))

/-- A debug read in the open state. -/
theorem execDbgRead_open {s : State} {f addr : Nat} (h : s.rd R.PLT_LIFECYCLE.STATE 0 = 1) (hf : f < 8) (ha : addr < 2 ^ 25) :
    execDbgRead f addr s = .next (if f ≥ s.nFaces then loop 16 (s.dbgAsked f addr) (fun u i => u.setReg .PLT_DBG_DATA i 0#64)
      else loop 16 ((s.dbgAsked f addr).padTouchRange f (addr / 128 * 128) 128) (fun v i =>
        v.setReg .PLT_DBG_DATA i (((s.face f).padWords (addr / 128 * 128) 128).getD i (0#64, false)).1)) := by
  rw [execDbgRead, State.life, if_neg (not_not_intro h), Nat.mod_eq_of_lt hf, Nat.mod_eq_of_lt ha]
  rfl

/-! ### History (R553, R557) -/

theorem noteHist_entries (s : State) : s.noteHist.rd R.FLT_HIST_STAT.ENTRIES 0 = min s.hist.length 65536 := by
  rw [State.noteHist, rd_wr_apart _ _ _ _ _ _ (by decide), rd_wr_same _ _ _ _ (by decide)]
  exact Nat.mod_eq_of_lt (Nat.lt_of_le_of_lt (Nat.min_le_right _ _) (by decide))

theorem noteHist_permanent (s : State) :
    s.noteHist.rd R.FLT_HIST_STAT.PERMANENT 0 = min 32767 (s.hist.filter (fun e => e.2.perm)).length := by
  rw [State.noteHist, rd_wr_same _ _ _ _ (by decide)]
  exact Nat.mod_eq_of_lt (Nat.lt_of_le_of_lt (Nat.min_le_left _ _) (by decide))

/-- The state with another history store. -/
def State.withHist (s : State) (m : SMap HEnt) : State := { s with hist := m }

/-- The state in which HIST_CLEAR has removed a unit's entry. -/
def State.histCleared (s : State) (unit : Nat) : State :=
  ((s.withHist (mset {} s.hist unit {})).noteHist).wr R.FLT_HIST_CLEAR.UNIT 0 unit

theorem execHistClear_mgmt (s : State) (unit : Nat) :
    execHistClear unit true s = .next (if unitKind unit = 19 then (s.histCleared unit).wr R.THM_SENSOR.PERM (unit % 1024) 0
      else s.histCleared unit) := by
  have : nf unit 0 10 = unit % 1024 := by simp [nf]
  rw [execHistClear, this]
  rfl

/-- The state in which HIST_CLEAR_ALL has emptied both stores. -/
def State.allCleared (s : State) : State := ({ s with hist := [], nvLog := [] } : State).noteHist

/-- What HIST_QUERY reports of a unit (R553). -/
theorem execHistQuery_eq {s : State} {unit : Nat} (h : unit < 2 ^ 32) :
    execHistQuery unit s = .next ((((s.wr R.FLT_HIST_QUERY.UNIT 0 unit).wrB R.FLT_HIST_QUERY.FOUND 0
      (s.hist.any (fun e => decide (e.1 = unit)))).wrB R.FLT_HIST_QUERY.PERM 0 (mget {} s.hist unit).perm).wr R.FLT_HIST_QUERY.EVENTS 0
        (mget {} s.hist unit).count) := by
  rw [execHistQuery, Nat.mod_eq_of_lt h]

theorem any_known (s : State) (u : Nat) : s.hist.any (fun e => decide (e.1 = u)) = true ↔ known s u := by
  simp [known]

/-! ### The log ring (R546) -/

/-- A LOG_READ of a slot whose stack is off, and of one whose granule is whole. -/
theorem execLogRead_off {s : State} {slot : Nat} (hs : slot < 2 ^ 20) (h : s.stackOn (hStack (s.logSlot slot)) = false) :
    execLogRead slot s = .next (s.wr R.FLT_LOG_READ.SLOT 0 slot) := by
  rw [execLogRead, Nat.mod_eq_of_lt hs]
  simp [h]

theorem execLogRead_clean {s : State} {slot : Nat} {ws : List Word} (hs : slot < 2 ^ 20) (h : ReadsClean s (s.logSlot slot / 128) ws) :
    execLogRead slot s = .next (loop 8 ((s.wr R.FLT_LOG_READ.SLOT 0 slot).readDone (s.logSlot slot / 128)) (fun u i =>
      u.setReg .FLT_LOG_DATA i (((s.gran (s.logSlot slot / 128)).raw.getD (s.logSlot slot / 8 % 16 + i) (0#64, false)).1))) := by
  have hon : s.stackOn (hStack (s.logSlot slot)) = true := by rw [← hStack_gran]; exact h.place.2
  have hread := hbmRead_clean (readsClean_same h ((SameStore.refl s).wr (f := R.FLT_LOG_READ.SLOT) (i := 0) (v := slot)))
  rw [execLogRead, Nat.mod_eq_of_lt hs, hon, hread]
  rfl

/-! ### Injection slots (R558) -/

theorem writeInj_ignored {s : State} {n : Nat} {ctl unit : Word} {path : Nat} (h : 8 ≤ n ∨ s.injAllowed path = false) :
    s.writeInj n ctl unit path = s := if_pos h

/-- Where ticks run, a write of a slot is taken and waits for the boundary. -/
theorem writeInj_slotWritten {s : State} {n : Nat} {ctl unit : Word} {path : Nat} (hn : n < 8) (ha : s.injAllowed path = true)
    (ht : s.ticking = true) : SlotWritten s n ctl unit (s.writeInj n ctl unit path) := by
  unfold State.writeInj
  rw [if_neg (by simp [ha]; omega)]
  extract_lets t u
  have hu : u.ticking = true := by
    have hp : u.rd R.SYN_TICK_PERIOD.PERIOD 0 = s.rd R.SYN_TICK_PERIOD.PERIOD 0 :=
      (rd_setReg_ne _ _ _ _ _ _ (by decide)).trans (rd_setReg_ne _ _ _ _ _ _ (by decide))
    simp only [State.ticking, hp] at ht ⊢
    exact ht
  rw [State.orNow, if_pos hu]
  refine ⟨?_, reg_setReg_same _ _ _ _, mget_mset_same _ _ _ _, fun j hj => mget_mset_other _ _ _ _ _ _ hj, ?_⟩
  · exact (reg_setReg_ne _ _ _ _ _ _ (by decide)).trans (reg_setReg_same _ _ _ _)
  · exact Frame.setReg (Frame.setReg (Frame.refl _ _ _) (by simp)) (by simp)

end Sys2Proof.Machine
end
section
/-! What the platform controller makes of the oldest queued record (20_faults.md R542, R546, R549, R553). -/
namespace Sys2Proof.Machine
open Sys2Proof.Claims

theorem execFaultRecordProcess_idle {s : State} (powered : Nat) (q h l o : Bool) (hs : s.faultq = [] ∨ s.rd R.FLT_FATAL.LOG_PATH 0 = 1) :
    execFaultRecordProcess powered q h l o s = .next s := by
  unfold execFaultRecordProcess
  split
  · rfl
  · next r rest hq =>
    have hp : s.rd R.FLT_FATAL.LOG_PATH 0 = 1 := hs.resolve_left (by rw [hq]; nofun)
    rw [if_pos (by simp [State.flag, hp])]

/-! ### Taking a record -/

theorem RegsBeside.mono {rs rs' : List RegId} {s t : State} (h : RegsBeside rs s t) (hm : ∀ r ∈ rs, r ∈ rs') : RegsBeside rs' s t :=
  fun r hr i => h r (fun k => hr (hm r k)) i

/-- `u` is `s` with its oldest record taken and `rest` left: of all else, only powered time, history and the count of free values may have changed. -/
structure Taken (s : State) (rest : List FRec) (u : State) : Prop where
  queue : u.faultq = rest
  queued : u.rd R.FLT_STATUS.QUEUED 0 = rest.length
  regs : RegsBeside [.FLT_STATUS, .FLT_HIST_STAT] s u
  others : { u with regs := s.regs, faultq := s.faultq, hist := s.hist, freeCount := s.freeCount } = s

theorem Taken.same {s u : State} {rest : List FRec} (h : Taken s rest u) : SameStore s u :=
  ⟨h.regs.mono (by simp [logRegs]), (congrArg State.hbm h.others :), (congrArg State.hbmMeta h.others :), (congrArg State.keyGen h.others :),
    (congrArg State.injs h.others :)⟩

/-- The state in which the platform controller has taken the oldest record, at a powered time. -/
def State.taken (s : State) (powered : Nat) (rest : List FRec) : State :=
  ({ s.wr R.FLT_HIST_STAT.POWERED 0 (max powered (s.rd R.FLT_HIST_STAT.POWERED 0)) with faultq := rest } : State).wr
    R.FLT_STATUS.QUEUED 0 rest.length

theorem taken_taken (s : State) (powered : Nat) {rest : List FRec} (h : rest.length < 64) : Taken s rest (s.taken powered rest) := by
  refine ⟨rfl, ?_, ?_, rfl⟩
  · rw [State.taken, rd_wr_same _ _ _ _ (by decide)]
    exact Nat.mod_eq_of_lt (Nat.lt_trans h (by decide))
  · exact ((RegsBeside.refl [.FLT_STATUS, .FLT_HIST_STAT] s).wr (f := R.FLT_HIST_STAT.POWERED)).wr (f := R.FLT_STATUS.QUEUED)

theorem taken_powered (s : State) (powered : Nat) (rest : List FRec) :
    (s.taken powered rest).rd R.FLT_HIST_STAT.POWERED 0 = max powered (s.rd R.FLT_HIST_STAT.POWERED 0) % 2 ^ 32 := by
  rw [State.taken, rd_wr_apart _ _ _ _ _ _ (by decide)]
  exact rd_wr_same _ _ _ _ (by decide)

theorem taken_withHist {s u : State} {rest : List FRec} (h : Taken s rest u) (m : SMap HEnt) : Taken s rest (u.withHist m).noteHist := by
  refine ⟨h.queue, ?_, ?_, h.others⟩
  · have hr (t : State) (f : Fld) (v : Nat) (hf : f.reg = .FLT_HIST_STAT) : (t.wr f 0 v).rd R.FLT_STATUS.QUEUED 0 = t.rd R.FLT_STATUS.QUEUED 0 :=
      rd_wr_reg _ _ _ _ _ _ (hf ▸ nofun)
    rw [State.noteHist, hr _ _ _ rfl, hr _ _ _ rfl]
    exact h.queued
  · exact (h.regs.wr (f := R.FLT_HIST_STAT.ENTRIES)).wr (f := R.FLT_HIST_STAT.PERMANENT)

/-- The temperature near a unit draws at most a free value. -/
theorem tempNear_draws (s : State) (u : Nat) : ∃ n temp, s.tempNear u = ({ s with freeCount := n }, temp) := by
  unfold State.tempNear
  extract_lets k p d deg
  split
  · exact ⟨s.freeCount, _, rfl⟩
  split
  · exact ⟨s.freeCount, _, rfl⟩
  split
  · exact ⟨s.freeCount, _, rfl⟩
  split
  · exact ⟨s.freeCount + 1, _, rfl⟩
  · exact ⟨s.freeCount + 1, _, rfl⟩

/-! ### History -/

/-- A record that counts, and does not make its unit permanent: the entry of a unit that has one, or for which there is room (R553, R554). -/
theorem history_counted {s : State} {r : FRec} {x : HEnt} (hx : x = mget {} s.hist r.unit)
    (room : known s r.unit ∨ s.hist.length < 65536)
    (stays : x.perm = true ∨ (bit r.cls 2 = false ∧ (x.count < 2 ∨ x.t2 + 86400 < s.rd R.FLT_HIST_STAT.POWERED 0))) :
    s.history r = ((s.withHist (mset {} s.hist r.unit
      { perm := x.perm, count := min 65535 (x.count + 1), t1 := s.rd R.FLT_HIST_STAT.POWERED 0, t2 := x.t1 })).noteHist, false, false) := by
  have hroom : (s.hist.any (fun e => decide (e.1 = r.unit)) || decide (s.hist.length < 65536)) = true := by
    rw [Bool.or_eq_true, any_known, decide_eq_true_eq]
    exact room
  have hnew : (!x.perm && (bit r.cls 2 || decide (x.count ≥ 2 ∧ x.t2 + 86400 ≥ s.rd R.FLT_HIST_STAT.POWERED 0))) = false := by
    rcases stays with h | ⟨hb, h⟩
    · simp [h]
    · rw [hb, decide_eq_false (by omega)]
      simp
  unfold State.history
  extract_lets now isKnown store
  rw [show store = some s.hist from if_pos hroom]
  dsimp only [now]
  rw [← hx, hnew, Bool.or_false]
  rfl

/-! ### Logging -/

theorem hostRing_off {s : State} (h : s.rd R.FLT_HOST_RING.EN 0 = 0) (m : Nat) (r : FRec) (good : Bool) : s.hostRing m r good = s := if_pos h

/-- The non-volatile store once a record that is FATAL has been put into it. -/
def keptFatal (nv : List FRec) (x : FRec) : List FRec := if x.cls % 4 = 2 then (nv ++ [x]).drop (nv.length + 1 - 16) else nv

/-- A record taken and written into its slot is logged, whatever becomes of the non-volatile store. -/
theorem logged_of {s u a : State} {x r : FRec} {rest : List FRec} {ws : List Word} {nv : List FRec} (hq : s.faultq = r :: rest)
    (hu : Taken s rest u) (ha : Rewritten u (s.logSlot x.seq / 128) (slotWords (s.logSlot x.seq / 8 % 16) (x.words 0) ws) a) :
    Logged s x ws (({ a with nvLog := nv } : State).wr R.FLT_LOG_NEXT.NEXT 0 (x.seq + 1)) := by
  have half := logSlot_half s x.seq
  refine ⟨fun i hi => ?_, fun i hi hb => ?_, fun g hg => ?_, ?_, fun r' rest' hq' => ?_⟩
  · refine (ha.clean.words _ (by omega)).1.trans ?_
    rw [getD_slotWords _ _ _ (by omega), if_pos (by omega), Nat.add_sub_cancel_left]
  · refine (ha.clean.words i hi).1.trans ?_
    rw [getD_slotWords _ _ _ hi, if_neg (by omega)]
  · exact (ha.others g hg).trans (hu.same.gran g)
  · exact rd_wr_same _ _ _ _ (by decide)
  · obtain ⟨rfl, rfl⟩ := List.cons.inj (hq.symm.trans hq')
    refine ⟨(congrArg State.faultq ha.rest :).trans hu.queue, ?_⟩
    exact (rd_wr_reg _ _ _ _ _ _ (by decide)).trans ((ha.regs.rd R.FLT_STATUS.QUEUED 0).trans hu.queued)

/-- The record taken is logged, where history has not made its unit permanent: `u` is the state that history leaves. -/
theorem execFaultRecordProcess_logs {s u : State} {r : FRec} {rest : List FRec} {ws : List Word} {powered : Nat} (hl : Loggable s r rest ws)
    (hh : (if r.counts then (s.taken powered rest).history r else (s.taken powered rest, false, false)) = (u, false, false))
    (hu : Taken s rest u) :
    ∃ t temp rail, execFaultRecordProcess powered true true true true s = .next t ∧
      Logged s { r with seq := s.rd R.FLT_LOG_NEXT.NEXT 0, temp := temp, rail := rail } ws t ∧ t.hist = u.hist ∧
      t.nvLog = keptFatal s.nvLog { r with seq := s.rd R.FLT_LOG_NEXT.NEXT 0, temp := temp, rail := rail } := by
  obtain ⟨⟨hq, -⟩, ⟨hpath, hlost⟩, hclean, hhost⟩ := hl
  have hinj : s.injs = [] := hclean.quiet.1
  unfold execFaultRecordProcess
  split
  · next e => rw [e] at hq; cases hq
  · next r' rest' e =>
    obtain ⟨rfl, rfl⟩ := List.cons.inj (e.symm.trans hq)
    extract_lets z t hit h cls near y m x v w
    obtain ⟨n, temp, hn⟩ := tempNear_draws u r'.unit
    have hh' : h = (u, false, false) := hh
    have hnear : near = ({ u with freeCount := n }, temp) := by simp only [near, hh', hn]
    have hy : y = { u with freeCount := n } := by simp only [y, hh', hnear, Bool.false_eq_true, if_false]
    have hty : Taken s rest' y := by rw [hy]; exact ⟨hu.queue, hu.queued, hu.regs, hu.others⟩
    have hm : m = s.rd R.FLT_LOG_NEXT.NEXT 0 := hty.regs.rd _ _
    have hx : x = { r' with seq := s.rd R.FLT_LOG_NEXT.NEXT 0, temp := (temp % 256).toNat, rail := z.railOf r'.unit } := by
      simp only [x, cls, hh', hm, hnear, Bool.false_eq_true, if_false, Nat.add_zero]
    have hslot : y.logSlot m = s.logSlot (s.rd R.FLT_LOG_NEXT.NEXT 0) :=
      (logSlot_beside hty.same.regs m).trans (congrArg s.logSlot hm)
    obtain ⟨a, hv, ha⟩ := logWrite_clean (x.words 0) (s := y) (m := m) (by rw [hslot]; exact readsClean_same hclean hty.same)
    rw [hslot] at ha
    have hv : v = (a, true) := hv
    have hcls : x.cls = r'.cls := by rw [hx]
    have hw : w = { a with nvLog := keptFatal a.nvLog x } := by
      rw [keptFatal, hcls]
      simp only [w, hh', hv, Bool.false_eq_true, or_false]
      split <;> rfl
    have hunhit (q : State) (k : Nat) (hi : q.injs = []) : hit q k = false := by simp only [hit, injSlot_nil hi, Option.isSome_none]
    have hai : w.injs = [] := by
      rw [hw]
      exact (congrArg State.injs ha.rest :).trans (hty.same.injs.trans hinj)
    have hen : w.rd R.FLT_HOST_RING.EN 0 = 0 := by
      rw [hw]
      exact (ha.regs.rd R.FLT_HOST_RING.EN 0).trans ((hty.regs.rd R.FLT_HOST_RING.EN 0).trans hhost)
    rw [if_neg (by simp [State.flag, hpath]), if_neg (by simp [hlost]), if_neg (by simp [hunhit t 0 hinj]), if_neg (by simp [hunhit t 1 hinj]),
      if_neg (by simp [hv, hunhit w 2 hai]), hostRing_off hen]
    refine ⟨_, (temp % 256).toNat, z.railOf r'.unit, rfl, ?_, ?_, ?_⟩
    · rw [hm, hw, ← hx]
      have hseq : x.seq = s.rd R.FLT_LOG_NEXT.NEXT 0 := by rw [hx]
      rw [← hseq] at ha ⊢
      exact logged_of hq hty ha
    · rw [hw]
      exact (congrArg State.hist ha.rest :).trans (by rw [hy])
    · rw [hw, ← hx]
      have hnv : a.nvLog = s.nvLog := (congrArg State.nvLog ha.rest :).trans (congrArg State.nvLog hty.others :)
      show keptFatal a.nvLog x = _
      rw [hnv]

/-- A record that does not count in history leaves history as it is, and is logged (R542, R546). -/
theorem execFaultRecordProcess_uncounted {s : State} {r : FRec} {rest : List FRec} {ws : List Word} (powered : Nat) (hl : Loggable s r rest ws)
    (hc : r.counts = false) :
    ∃ t temp rail, execFaultRecordProcess powered true true true true s = .next t ∧
      Logged s { r with seq := s.rd R.FLT_LOG_NEXT.NEXT 0, temp := temp, rail := rail } ws t ∧ t.hist = s.hist ∧
      t.nvLog = keptFatal s.nvLog { r with seq := s.rd R.FLT_LOG_NEXT.NEXT 0, temp := temp, rail := rail } :=
  execFaultRecordProcess_logs (u := s.taken powered rest) hl (if_neg (by simp [hc])) (taken_taken s powered hl.queue.2)

/-- A record that counts, of a unit that stays as permanent or not as it was, is counted in history and logged (R546, R553). -/
theorem execFaultRecordProcess_counted {s : State} {r : FRec} {rest : List FRec} {ws : List Word} {powered now : Nat} {x : HEnt}
    (hl : Loggable s r rest ws) (hx : x = mget {} s.hist r.unit) (hn : now = max powered (s.rd R.FLT_HIST_STAT.POWERED 0)) (hnow : now < 2 ^ 32)
    (hc : r.counts = true) (room : known s r.unit ∨ s.hist.length < 65536)
    (stays : x.perm = true ∨ (bit r.cls 2 = false ∧ (x.count < 2 ∨ x.t2 + 86400 < now))) :
    ∃ t temp rail, execFaultRecordProcess powered true true true true s = .next t ∧
      Logged s { r with seq := s.rd R.FLT_LOG_NEXT.NEXT 0, temp := temp, rail := rail } ws t ∧
      mget {} t.hist r.unit = { perm := x.perm, count := min 65535 (x.count + 1), t1 := now, t2 := x.t1 } ∧
      ∀ u, u ≠ r.unit → mget {} t.hist u = mget {} s.hist u := by
  have hp : (s.taken powered rest).rd R.FLT_HIST_STAT.POWERED 0 = now := by rw [taken_powered, ← hn, Nat.mod_eq_of_lt hnow]
  have ht := taken_taken s powered hl.queue.2
  have hh := history_counted (s := s.taken powered rest) hx room (by rw [hp]; exact stays)
  rw [hp] at hh
  obtain ⟨t, temp, rail, e, hlog, hist, -⟩ := execFaultRecordProcess_logs hl ((if_pos hc).trans hh) (taken_withHist ht _)
  refine ⟨t, temp, rail, e, hlog, ?_, fun u hu => ?_⟩ <;> rw [hist]
  · exact mget_mset_same _ _ _ _
  · exact mget_mset_other _ _ _ _ _ _ hu

/-! ### A failure of the logging path (R549) -/

/-- With no slot armed, marking an event changes at most the list of firings whose record is to follow. -/
theorem marked_unarmed {s : State} (h : s.injs = []) (e : Event) : ∃ l, (s.marked e).1 = { s with injLive := l } := by
  unfold State.marked
  split
  · exact ⟨_, rfl⟩
  · rw [injSlot_nil h]
    exact ⟨s.injLive, rfl⟩

/-- A logging-path error that names no face: the device starts no hands, and nothing more is logged. -/
theorem logError_device {s : State} {r : FRec} {sub : Nat} (hi : s.injs = []) (hk : unitKind r.unit = 0 ∨ 8 < unitKind r.unit) :
    (s.logError r sub).logStop = true ∧ (s.logError r sub).rd R.FLT_FATAL.LOG_PATH 0 = 1 ∧ (s.logError r sub).faultq = s.faultq := by
  unfold State.logError
  extract_lets named t mk e
  have ht : t = { s with logStop := true } := by
    have hn : named = none := if_neg (by omega)
    simp only [t, hn]
  obtain ⟨l, hl⟩ := marked_unarmed (s := t) (by rw [ht]; exact hi) { det := .logPath, unit := unitId 18 0 0 0 sub }
  have hm : mk.1 = { s with logStop := true, injLive := l } := (show mk.1 = _ from hl).trans (by rw [ht])
  rw [hm]
  refine ⟨rfl, ?_, rfl⟩
  rw [State.faultN, rd_wrB_apart _ _ _ _ _ _ (by decide), rd_wr_same _ _ _ _ (by decide)]
  rfl

/-- Where the queue's storage fails, logging ends at the record. -/
theorem execFaultRecordProcess_queueFails {s : State} {r : FRec} {rest : List FRec} {ws : List Word} (powered : Nat) (h l o : Bool)
    (hl : Loggable s r rest ws) : execFaultRecordProcess powered false h l o s = .next ((s.taken powered rest).logError r 0) := by
  obtain ⟨⟨hq, -⟩, ⟨hpath, hlost⟩, -, -⟩ := hl
  unfold execFaultRecordProcess
  split
  · next e => rw [e] at hq; cases hq
  · next r' rest' e =>
    obtain ⟨rfl, rfl⟩ := List.cons.inj (e.symm.trans hq)
    rw [if_neg (by simp [State.flag, hpath]), if_neg (by simp [hlost])]
    rfl
end Sys2Proof.Machine
end
section
/-! What a probe step leaves (20_faults.md R561 to R563). -/
namespace Sys2Proof.Machine
open Sys2Proof.Claims

/-- The deck moves on to the face's next step, and is over where it was the last. -/
def State.deckMoved (s : State) (f : Nat) (d : Deck) (k : Nat) : State :=
  let u : State := { s with deck := some (d.advance f k) }
  if (d.advance f k).over then u.wr R.FLT_PROBE_STAT.STATE 0 2 else u

/-- What the deck's move leaves of `s`: all but the deck and its STATE. -/
theorem deckMoved_eq (s : State) (f : Nat) (d : Deck) (k : Nat) :
    ∃ m : SMap Word, s.deckMoved f d k = { s with deck := some (d.advance f k), regs := m } := by
  unfold State.deckMoved
  dsimp only
  split
  · exact ⟨_, rfl⟩
  · exact ⟨s.regs, rfl⟩

theorem deckMoved_state (s : State) (f : Nat) (d : Deck) (k : Nat) :
    (s.deckMoved f d k).rd R.FLT_PROBE_STAT.STATE 0 = if (d.advance f k).over then 2 else s.rd R.FLT_PROBE_STAT.STATE 0 := by
  unfold State.deckMoved
  dsimp only
  split
  · exact rd_wr_same _ _ _ _ (by decide)
  · rfl

theorem deckMoved_rd (s : State) (f : Nat) (d : Deck) (k : Nat) (g : Fld) (i : Nat) (h : Fld.apart R.FLT_PROBE_STAT.STATE g = true) :
    (s.deckMoved f d k).rd g i = s.rd g i := by
  unfold State.deckMoved
  dsimp only
  split
  · exact rd_wr_apart _ _ _ _ _ _ h
  · rfl

/-- The face once the lines that a step leaves are in its scratchpad, where they may lie there (R212, R562). -/
def State.stepFace (s : State) (f : Nat) (lines : List (Nat × List Word)) (y : Face) : Face :=
  (lines.filter (fun l => decide (s.arrival f l.1 = .stored))).foldl (fun z l =>
    (l.2.take 16).foldl (fun (c : Face × Nat) w => (c.1.padPut c.2 w false, c.2 + 1)) (z, l.1 * 16) |>.1) y

/-- The state once a step's lines are in face f's scratchpad. -/
def State.stepDone (s : State) (f : Nat) (lines : List (Nat × List Word)) : State := s.modFace f (s.stepFace f lines)

/-- A step that face f may run: what it leaves in the scratchpad, and what becomes of the deck and the counts.  Its result is 0 where it passes. -/
theorem execProbeStep_runs {s : State} {f : Nat} {d : Deck} {k : Nat} {st : DeckStep} {left : List (Nat × List Word)}
    {end_ result : Nat} (h : RunsStep s f d k st) (hi : s.injs = [])
    (hr : result = if end_ ≠ 0 then end_ else if st.holds left then 0 else 1) :
    execProbeStep f end_ left s = .next (
      if end_ ≥ 4 then (s.stepDone f (st.lines left)).bump R.FLT_PROBE_STAT.ABANDONED 0
      else if result = 0 then
        ({ (s.stepDone f (st.lines left)).deckMoved f d k with probeRest := (s.probeRest + 1) % 100 } : State).bumpBy
          R.FLT_PROBE_STAT.PASSED 0 ((s.probeRest + 1) / 100)
      else (((s.stepDone f (st.lines left)).deckMoved f d k).bump R.FLT_PROBE_STAT.FAILED 0).raise
        { det := .probeFail, unit := st.unit, lface := f, d0 := BitVec.ofNat 64 (d.id + k * 2 ^ 32 + result * 2 ^ 48) }) := by
  obtain ⟨hdeck, hstep, hleft, hmode, ⟨hrun, hend, hdown⟩, htime⟩ := h
  unfold execProbeStep
  extract_lets x
  split
  · next e => rw [hdeck] at e; cases e
  · next d' e =>
    obtain rfl := Option.some.inj (e.symm.trans hdeck)
    extract_lets fits
    split
    · next e' => rw [hstep] at e'; cases e'
    · next st' e' =>
      obtain rfl := Option.some.inj (e'.symm.trans hstep)
      extract_lets t result' d1 u v n
      have hfits : fits = true := by
        by_cases hm : d'.mode = 1
        · simp [fits, hm, x, hmode.1 hm]
        · simp [fits, hm, hmode.2 hm]
      have hres : result' = result := by
        rw [hr]
        simp only [result', injSlot_nil (show t.injs = [] from hi), Option.isSome_none, Bool.or_false]
        cases st.holds left <;> rfl
      have hv : v = t.deckMoved f d' k := rfl
      have hn : n = s.probeRest + 1 := by
        obtain ⟨m, hm⟩ := deckMoved_eq t f d' k
        simp only [n, hv, hm]
        rfl
      rw [if_neg (by simp [hfits, x, hrun, hend, hleft, hdown]), if_neg (Nat.not_lt.mpr htime), hres, hn, hv]
      rfl

/-- A step that has run: the deck has moved on, and no other face has changed. -/
theorem stepOver_moved {s t : State} {f k : Nat} {d : Deck} {lines : List (Nat × List Word)}
    (hd : t.deck = ((s.stepDone f lines).deckMoved f d k).deck) (hf : t.faces = ((s.stepDone f lines).deckMoved f d k).faces)
    (hs : t.rd R.FLT_PROBE_STAT.STATE 0 = ((s.stepDone f lines).deckMoved f d k).rd R.FLT_PROBE_STAT.STATE 0) : StepOver s f d k t := by
  obtain ⟨m, hm⟩ := deckMoved_eq (s.stepDone f lines) f d k
  refine ⟨?_, ?_, fun j hj => ?_⟩
  · rw [hd, hm]
  · exact hs.trans (deckMoved_state _ _ _ _)
  · rw [State.face, hf, hm]
    exact face_modFace_other _ _ _ _ hj

/-- A step that passes is counted, by hundreds. -/
theorem execProbeStep_passes {s : State} {f : Nat} {d : Deck} {k : Nat} {st : DeckStep} {left : List (Nat × List Word)}
    (h : RunsStep s f d k st) (hi : s.injs = []) (hh : st.holds left = true) :
    ∃ t, execProbeStep f 0 left s = .next t ∧ StepOver s f d k t ∧ t.probeRest = (s.probeRest + 1) % 100 ∧
      t.rd R.FLT_PROBE_STAT.PASSED 0 = min (s.rd R.FLT_PROBE_STAT.PASSED 0 + (s.probeRest + 1) / 100) (2 ^ R.FLT_PROBE_STAT.PASSED.wd - 1) := by
  refine ⟨_, (execProbeStep_runs (result := 0) h hi (by simp [hh])).trans rfl, stepOver_moved rfl rfl ?_, rfl, ?_⟩
  · exact rd_bumpBy_apart _ _ _ _ _ _ (by decide)
  · refine (rd_bumpBy_same _ _ _ _ (by decide)).trans (congrArg (fun n => min (n + _) _) ?_)
    exact deckMoved_rd (s.stepDone f (st.lines left)) f d k R.FLT_PROBE_STAT.PASSED 0 (by decide)

/-- A step that fails its check, traps or exceeds its bound is counted and recorded. -/
theorem execProbeStep_fails {s : State} {f : Nat} {d : Deck} {k : Nat} {st : DeckStep} {left : List (Nat × List Word)} {end_ result : Nat} {e : Event}
    (h : RunsStep s f d k st) (hi : s.injs = [])
    (hr : (end_ = 0 ∧ st.holds left = false ∧ result = 1) ∨ (end_ = 2 ∧ result = 2) ∨ (end_ = 3 ∧ result = 3))
    (he : e = { det := .probeFail, unit := st.unit, lface := f, d0 := BitVec.ofNat 64 (d.id + k * 2 ^ 32 + result * 2 ^ 48) })
    (hrec : Recordable s e) :
    ∃ t, execProbeStep f end_ left s = .next t ∧ StepOver s f d k t ∧ Recorded s e t ∧
      t.rd R.FLT_PROBE_STAT.FAILED 0 = min (s.rd R.FLT_PROBE_STAT.FAILED 0 + 1) (2 ^ R.FLT_PROBE_STAT.FAILED.wd - 1) := by
  have hres : result = if end_ ≠ 0 then end_ else if st.holds left then 0 else 1 := by
    rcases hr with ⟨rfl, hf, rfl⟩ | ⟨rfl, rfl⟩ | ⟨rfl, rfl⟩
    · simp [hf]
    · rfl
    · rfl
  have hex := execProbeStep_runs h hi hres
  rw [if_neg (by omega), if_neg (by omega), ← he] at hex
  obtain ⟨m, hm⟩ := deckMoved_eq (s.stepDone f (st.lines left)) f d k
  have hlog : (((s.stepDone f (st.lines left)).deckMoved f d k).bump R.FLT_PROBE_STAT.FAILED 0).rd R.FLT_FATAL.LOG_PATH 0 = 0 :=
    (rd_bump_apart _ _ _ _ _ (by decide)).trans ((deckMoved_rd _ _ _ _ _ _ (by decide)).trans hrec.path)
  have hhand : (((s.stepDone f (st.lines left)).deckMoved f d k).bump R.FLT_PROBE_STAT.FAILED 0).rd R.SYN_HAND_NUM.HAND 0 =
      s.rd R.SYN_HAND_NUM.HAND 0 := (rd_bump_apart _ _ _ _ _ (by decide)).trans (deckMoved_rd _ _ _ _ _ _ (by decide))
  have hq : ((s.stepDone f (st.lines left)).deckMoved f d k).faultq = s.faultq := by rw [hm]; rfl
  have hnow : ((s.stepDone f (st.lines left)).deckMoved f d k).now = s.now := by rw [hm]; rfl
  have hraise := raise_frame (s := ((s.stepDone f (st.lines left)).deckMoved f d k).bump R.FLT_PROBE_STAT.FAILED 0) (e := e)
    (by rw [hm]; exact hi) (by rw [hm]; exact hrec.live) hlog (by rw [State.bump_faultq, hq]; exact hrec.fresh)
    (by rw [State.bump_faultq, hq]; exact hrec.room)
  have hrecord : e.record (((s.stepDone f (st.lines left)).deckMoved f d k).bump R.FLT_PROBE_STAT.FAILED 0) = e.record s := by
    rw [Event.record, Event.record, hhand, State.bump_now, hnow]
  rw [hrecord, State.bump_faultq, hq] at hraise
  refine ⟨_, hex.trans (congrArg _ hraise), stepOver_moved rfl rfl ?_, ⟨rfl, rd_wr_same _ _ _ _ (by decide)⟩, ?_⟩
  · exact (rd_wr_reg _ _ _ _ _ _ (by decide)).trans (rd_bump_apart _ _ _ _ _ (by decide))
  · refine (rd_wr_reg _ _ _ _ _ _ (by decide)).trans ((rd_bump_same _ _ _ (by decide)).trans (congrArg (fun n => min (n + 1) _) ?_))
    exact deckMoved_rd (s.stepDone f (st.lines left)) f d k R.FLT_PROBE_STAT.FAILED 0 (by decide)

/-- A step that is not complete at E is abandoned, and counted; the deck stays where it is. -/
theorem execProbeStep_abandoned {s : State} {f : Nat} {d : Deck} {k : Nat} {st : DeckStep} (left : List (Nat × List Word))
    (h : RunsStep s f d k st) (hi : s.injs = []) :
    ∃ t, execProbeStep f 4 left s = .next t ∧ s.Frame t [(R.FLT_PROBE_STAT.ABANDONED, 0)] [f] ∧
      t.rd R.FLT_PROBE_STAT.ABANDONED 0 = min (s.rd R.FLT_PROBE_STAT.ABANDONED 0 + 1) (2 ^ R.FLT_PROBE_STAT.ABANDONED.wd - 1) := by
  refine ⟨_, (execProbeStep_runs h hi rfl).trans rfl, ?_, rd_bump_same (s.stepDone f (st.lines left)) _ _ (by decide)⟩
  exact Frame.bump (Frame.modFace (Frame.refl _ _ _) (by simp)) (by simp)

/-- With no deck there is no step. -/
theorem execProbeStep_idle {s : State} (f e : Nat) (left : List (Nat × List Word)) (h : s.deck = none) : execProbeStep f e left s = .next s := by
  unfold execProbeStep
  rw [h]

end Sys2Proof.Machine
end
section
/-! Register accesses and the path of a fault record, clause by clause (the obligation O60). -/
namespace Sys2Proof.Machine
open Sys2Proof.Claims

/-! ### What HIST_CLEAR, HIST_CLEAR_ALL, HIST_QUERY and LOG_READ leave -/

/-- What HIST_CLEAR of a unit may change of the registers. -/
def histClearFields (unit : Nat) : List (Fld × Nat) :=
  [(R.FLT_HIST_STAT.ENTRIES, 0), (R.FLT_HIST_STAT.PERMANENT, 0), (R.FLT_HIST_CLEAR.UNIT, 0), (R.THM_SENSOR.PERM, unit % 1024)]

theorem histCleared_entries (s : State) (unit : Nat) :
    (s.histCleared unit).rd R.FLT_HIST_STAT.ENTRIES 0 = min (mset {} s.hist unit {}).length 65536 :=
  (rd_wr_reg _ _ _ _ _ _ (by decide)).trans (noteHist_entries _)

theorem histCleared_frame (s : State) (unit : Nat) :
    s.Frame ((s.histCleared unit).withHist s.hist) (histClearFields unit) [] :=
  Frame.wr (f := R.FLT_HIST_CLEAR.UNIT) (Frame.wr (f := R.FLT_HIST_STAT.PERMANENT) (Frame.wr (f := R.FLT_HIST_STAT.ENTRIES) (Frame.refl s _ _)
    (by simp [histClearFields])) (by simp [histClearFields])) (by simp [histClearFields])

/-- HIST_CLEAR through WRITE_REG (R557). -/
theorem execHistClear_clears (s : State) (unit : Nat) : ∃ t, execHistClear unit true s = .next t ∧ mget {} t.hist unit = {} ∧
    (∀ u, u ≠ unit → mget {} t.hist u = mget {} s.hist u) ∧ t.rd R.FLT_HIST_STAT.ENTRIES 0 = min t.hist.length 65536 ∧
    (unitKind unit = 19 → t.rd R.THM_SENSOR.PERM (unit % 1024) = 0) ∧ s.Frame { t with hist := s.hist } (histClearFields unit) [] := by
  refine ⟨_, execHistClear_mgmt s unit, ?_⟩
  split
  · refine ⟨mget_mset_same _ _ _ _, fun u hu => mget_mset_other _ _ _ _ _ _ hu, ?_, fun _ => ?_, ?_⟩
    · exact (rd_wr_reg _ _ _ _ _ _ (by decide)).trans (histCleared_entries s unit)
    · exact (rd_wr_same _ _ _ _ (by decide)).trans (Nat.zero_mod _)
    · exact Frame.wr (f := R.THM_SENSOR.PERM) (histCleared_frame s unit) (by simp [histClearFields])
  · next hk =>
    exact ⟨mget_mset_same _ _ _ _, fun u hu => mget_mset_other _ _ _ _ _ _ hu, histCleared_entries s unit, fun h => absurd h hk,
      histCleared_frame s unit⟩

/-- What HIST_CLEAR_ALL may change of the registers. -/
def clearAllFields : List (Fld × Nat) :=
  [(R.FLT_HIST_STAT.ENTRIES, 0), (R.FLT_HIST_STAT.PERMANENT, 0)] ++ (List.range 72).map (fun c => (R.THM_SENSOR.PERM, c))

/-- Every sensor's PERM is cleared. -/
theorem loop_perm_zero (s : State) (n : Nat) : ∀ c < n, (loop n s (fun u c => u.wr R.THM_SENSOR.PERM c 0)).rd R.THM_SENSOR.PERM c = 0 := by
  induction n with
  | zero => nofun
  | succ n ih =>
    intro c hc
    rw [loop_succ]
    by_cases e : c = n
    · rw [e, rd_wr_same _ _ _ _ (by decide), Nat.zero_mod]
    · rw [rd_wr_ix _ _ _ _ _ _ e, ih c (by omega)]

/-- HIST_CLEAR_ALL through WRITE_REG (R557). -/
theorem execHistClearAll_clears (s : State) : ∃ t, execHistClearAll true s = .next t ∧ t.hist = [] ∧ t.nvLog = [] ∧
    t.rd R.FLT_HIST_STAT.ENTRIES 0 = 0 ∧ t.rd R.FLT_HIST_STAT.PERMANENT 0 = 0 ∧ (∀ c < 72, t.rd R.THM_SENSOR.PERM c = 0) ∧
    s.Frame { t with hist := s.hist, nvLog := s.nvLog } clearAllFields [] := by
  have base : s.Frame { s.allCleared with hist := s.hist, nvLog := s.nvLog } clearAllFields [] :=
    Frame.wr (f := R.FLT_HIST_STAT.PERMANENT) (Frame.wr (f := R.FLT_HIST_STAT.ENTRIES) (Frame.refl s _ _) (by simp [clearAllFields]))
      (by simp [clearAllFields])
  obtain ⟨hhist, hnv, hent, hperm, hframe⟩ := loop_ind (P := fun t : State => t.hist = [] ∧ t.nvLog = [] ∧ t.rd R.FLT_HIST_STAT.ENTRIES 0 = 0 ∧
      t.rd R.FLT_HIST_STAT.PERMANENT 0 = 0 ∧ s.Frame { t with hist := s.hist, nvLog := s.nvLog } clearAllFields []) 72 s.allCleared
    (fun u c => u.wr R.THM_SENSOR.PERM c 0) ⟨rfl, rfl, noteHist_entries _, noteHist_permanent _, base⟩
    (fun t c hc ⟨hhist, hnv, hent, hperm, hframe⟩ => ⟨hhist, hnv, (rd_wr_reg _ _ _ _ _ _ (by decide)).trans hent,
      (rd_wr_reg _ _ _ _ _ _ (by decide)).trans hperm, Frame.wr (f := R.THM_SENSOR.PERM) hframe (by simp [clearAllFields, hc])⟩)
  exact ⟨_, rfl, hhist, hnv, hent, hperm, loop_perm_zero _ _, hframe⟩

/-- HIST_QUERY (R553). -/
theorem execHistQuery_reports (s : State) {unit : Nat} (h : unit < 2 ^ 32) : ∃ t, execHistQuery unit s = .next t ∧
    t.rd R.FLT_HIST_QUERY.UNIT 0 = unit ∧ (t.rd R.FLT_HIST_QUERY.FOUND 0 = 1 ↔ known s unit) ∧
    (t.rd R.FLT_HIST_QUERY.PERM 0 = 1 ↔ (mget {} s.hist unit).perm = true) ∧
    t.rd R.FLT_HIST_QUERY.EVENTS 0 = (mget {} s.hist unit).count % 2 ^ R.FLT_HIST_QUERY.EVENTS.wd ∧
    s.Frame t [(R.FLT_HIST_QUERY.UNIT, 0), (R.FLT_HIST_QUERY.FOUND, 0), (R.FLT_HIST_QUERY.PERM, 0), (R.FLT_HIST_QUERY.EVENTS, 0)] [] := by
  have one (b : Bool) : (if b = true then 1 else 0) = 1 ↔ b = true := by cases b <;> simp
  refine ⟨_, execHistQuery_eq h, ?_, ?_, ?_, rd_wr_same _ _ _ _ (by decide), ?_⟩
  · rw [rd_wr_apart _ _ _ _ _ _ (by decide), rd_wrB_apart _ _ _ _ _ _ (by decide), rd_wrB_apart _ _ _ _ _ _ (by decide),
      rd_wr_same _ _ _ _ (by decide)]
    exact Nat.mod_eq_of_lt h
  · rw [rd_wr_apart _ _ _ _ _ _ (by decide), rd_wrB_apart _ _ _ _ _ _ (by decide), rd_wrB_same _ _ _ _ (by decide) (by decide), one, any_known]
  · rw [rd_wr_apart _ _ _ _ _ _ (by decide), rd_wrB_same _ _ _ _ (by decide) (by decide), one]
  · exact Frame.wr (Frame.wrB (Frame.wrB (Frame.wr (Frame.refl _ _ _) (by simp)) (by simp)) (by simp)) (by simp)

/-- LOG_READ of a slot whose stack is off (R546). -/
theorem execLogRead_asks {s : State} {slot : Nat} (hs : slot < 2 ^ 20) (h : s.stackOn (hStack (s.logSlot slot)) = false) :
    ∃ t, execLogRead slot s = .next t ∧ t.rd R.FLT_LOG_READ.SLOT 0 = slot ∧ s.Frame t [(R.FLT_LOG_READ.SLOT, 0)] [] :=
  ⟨_, execLogRead_off hs h, (rd_wr_same _ _ _ _ (by decide)).trans (Nat.mod_eq_of_lt hs), Frame.wr (Frame.refl _ _ _) (by simp)⟩

/-- LOG_READ of a slot whose granule is whole (R546). -/
theorem execLogRead_copies {s : State} {slot : Nat} {ws : List Word} (hs : slot < 2 ^ 20) (h : ReadsClean s (s.logSlot slot / 128) ws) :
    ∃ t, execLogRead slot s = .next t ∧ t.rd R.FLT_LOG_READ.SLOT 0 = slot ∧
      (∀ i < 8, t.reg .FLT_LOG_DATA i = ws.getD (s.logSlot slot / 8 % 16 + i) 0#64) ∧
      s.Frame t ((R.FLT_LOG_READ.SLOT, 0) :: (List.range 8).map (whole .FLT_LOG_DATA)) [] := by
  refine ⟨_, execLogRead_clean hs h, ?_, fun i hi => ?_, ?_⟩
  · rw [rd_loop_setReg_ne _ _ _ _ _ _ (by decide), State.readDone, rd_bumpBy_apart _ _ _ _ _ _ (by decide), rd_wr_same _ _ _ _ (by decide)]
    exact Nat.mod_eq_of_lt hs
  · have half := logSlot_half s slot
    rw [reg_loop_setReg _ _ _ hi, raw_getD h (by omega)]
  · exact Frame.loop_setReg (Frame.bumpBy_zero (Frame.wr (Frame.refl _ _ _) (by simp))) (fun _ hi => List.mem_cons_of_mem _ (mem_wholes hi))

/-! ### Injection slots -/

theorem injAllowed_open {s : State} (h : s.rd R.PLT_LIFECYCLE.STATE 0 = 1) (path : Nat) : s.injAllowed path = decide (path = 1 ∨ path = 7) := by
  simp [State.injAllowed, State.lifeOpen, h]

theorem injAllowed_closed {s : State} (h : s.rd R.PLT_LIFECYCLE.STATE 0 ≠ 1) (path : Nat) :
    s.injAllowed path = decide (s.rd R.PLT_LIFECYCLE.STATE 0 = 2 ∧ path = 7 ∧ s.rd R.SRV_MODE.MODE 0 = 3) := by
  simp [State.injAllowed, State.lifeOpen, h, Bool.and_assoc]

/-- A write of a slot is taken in the open state from PF1 and WRITE_REG, and in the deployed state from WRITE_REG in MAINT alone (R558). -/
theorem injAllowed_iff (s : State) (path : Nat) : s.injAllowed path = true ↔
    (s.rd R.PLT_LIFECYCLE.STATE 0 = 1 ∧ (path = 1 ∨ path = 7)) ∨
      (s.rd R.PLT_LIFECYCLE.STATE 0 = 2 ∧ path = 7 ∧ s.rd R.SRV_MODE.MODE 0 = 3) := by
  by_cases h : s.rd R.PLT_LIFECYCLE.STATE 0 = 1
  · simp [injAllowed_open h, h]
  · simp [injAllowed_closed h, h]

end Sys2Proof.Machine
end

section
open Sys2Proof Sys2Proof.Machine Sys2Proof.Claims

/-- Settles O60: each clause is the lemma of its command. Three choices of the model stand in it: a command whose event cannot occur leaves the
state as it is (log entry 11), a misaligned 64-bit write is dropped (log entry 71), and the reading nearest a unit is a free one where the spec
names none (log entry 83), so a record's `temp` and `rail` are only said to exist. -/
theorem registerAndFaultResults : Obligations.RegisterAndFaultResults := by
  unfold Obligations.RegisterAndFaultResults
  intro s
  refine ⟨fun f addr => ⟨execDbgRead_closed, fun hlife hf haddr => ⟨fun hn hc hp => ?_, fun hn => ?_⟩⟩,
    fun powered q h l o => execFaultRecordProcess_idle powered q h l o,
    fun r rest ws powered hl => ⟨execFaultRecordProcess_uncounted powered hl,
      fun x now hx hnow hlt hc room stays => execFaultRecordProcess_counted hl hx hnow hlt hc room stays, fun hk h l o => ?_⟩,
    fun _ => rfl, rfl, execHistClear_clears s, execHistClearAll_clears s, fun unit => execHistQuery_reports s,
    fun slot a hs ha => ?_,
    fun n ctl unit path hn => congrArg _ (writeInj_ignored (.inl hn)), fun n ctl unit path life hlife hn ht => ⟨fun ha => ?_, fun ha => ?_⟩,
    fun f e left => execProbeStep_idle f e left,
    fun f d k st left hr hi => ⟨execProbeStep_passes hr hi, fun end_ result e => execProbeStep_fails hr hi, execProbeStep_abandoned left hr hi⟩,
    fun fn off width v => ⟨fun hw => execRegisterWrite_ignored (.inl hw), fun ho => execRegisterWrite_ignored (.inr (.inl ho)),
      fun o ho => ⟨fun hr => execRegisterWrite_ignored (.inr (.inr ⟨o, ho, hr⟩)), fun r j ha hreach hw hoff => ?_⟩⟩⟩
  · refine ⟨_, (execDbgRead_open hlife hf haddr).trans (congrArg _ (if_neg (Nat.not_le.mpr hn))), fun k hk => ?_, ?_⟩
    · rw [reg_loop_setReg _ _ _ hk]
      exact padWords_clean hc hk
    · rw [padTouchRange_clean (s := s.dbgAsked f addr) hc hp]
      exact Frame.dbgData _ _ _ _
  · exact ⟨_, (execDbgRead_open hlife hf haddr).trans (congrArg _ (if_pos hn)), fun k hk => reg_loop_setReg _ _ _ hk, Frame.dbgData _ _ _ _⟩
  · obtain ⟨hstop, hpath, hq⟩ := logError_device (s := s.taken powered rest) (sub := 0) hl.slot.quiet.1 hk
    exact ⟨_, execFaultRecordProcess_queueFails powered h l o hl, hstop, hpath, hq⟩
  · rw [ha]
    exact ⟨execLogRead_asks hs, fun ws => execLogRead_copies hs⟩
  · exact ⟨_, rfl, writeInj_slotWritten hn ((injAllowed_iff s path).mpr (hlife ▸ ha)) ht⟩
  · refine congrArg _ (writeInj_ignored (.inr (Bool.eq_false_iff.mpr (fun k => ?_))))
    rw [injAllowed_iff, ← hlife] at k
    omega
  · subst hw
    have hex : exec (.registerWrite fn off 8 v) s = .next (s.writeReg fn r j v) := execRegisterWrite_at ho hreach ha hoff
    exact ⟨fun hn => hex.trans (congrArg _ (if_pos hn)), fun hn hr => ⟨_, hex, writeReg_unruled hr s fn j v hn⟩⟩
end
section
/-! END, and RTE executed as END (09_ifeom_control_and_movement.md R241 to R243, R249). -/
namespace Sys2Proof.Machine
open Sys2Proof.Claims

/-- The face's issue stalled at its END, counted as issued. -/
def State.atEnd (s : State) (f : Nat) (m : Form) : State :=
  ((s.fetched f m).bump R.FCE_ISSUE_STAT.ISSUED f).modFace f (fun y => { y with run := .stalled .ending })

theorem atEnd_face (s : State) (f : Nat) (m : Form) : (s.atEnd f m).face f = { s.face f with run := .stalled .ending } :=
  face_modFace_same _ _ _

theorem atEnd_devAddr (s : State) (f : Nat) (m : Form) : (s.atEnd f m).devAddr = s.devAddr :=
  (rd_bump_apart (s.fetched f m) _ R.LNK_DEV_ADDR.ADDR _ _ (by decide)).trans (fetched_devAddr s f m)

/-- The balance at END is that of the counters and handles before it. -/
theorem atEnd_imbalance (s : State) (f : Nat) (m : Form) : (s.atEnd f m).imbalance f = s.imbalance f :=
  imbalance_congr (by rw [atEnd_face]) (by rw [atEnd_face]) (atEnd_devAddr s f m)

theorem atEnd_drained (s : State) (f : Nat) (m : Form) : ((s.atEnd f m).face f).drained = (s.face f).drained := by rw [atEnd_face]; rfl

/-- With every operation completed, END retires: in a fault handler without the check, else with the counters in balance (R241 to R243). -/
theorem atEnd_wake_retires {s : State} {f : Nat} {m : Form} (hd : (s.face f).drained = true)
    (hb : (s.face f).handler = .fault ∨ s.imbalance f = none) :
    Retires s f m { s.face f with run := .ended, endTime := some s.now, result := mget 0#64 (s.face f).s 31 } ((s.atEnd f m).wake f) := by
  have hend : (s.atEnd f m).wake f = (s.atEnd f m).retireEnd f := by
    refine wake_ending (by rw [atEnd_face]) ((atEnd_drained s f m).trans hd) ?_
    rw [atEnd_imbalance, atEnd_face]
    exact hb
  rw [hend]
  exact retires_twice _ _ _ rfl

/-- With operations outstanding, issue stalls at END (R23). -/
theorem atEnd_wake_stalls {s : State} {f : Nat} {m : Form} (hd : (s.face f).drained = false) :
    stallsAt s f m .ending ((s.atEnd f m).wake f) := by
  rw [wake_undrained (by rw [atEnd_face]) ((atEnd_drained s f m).trans hd)]
  exact retires_none _ _ rfl

theorem execEndProg_issues {s : State} {f : Nat} {w : IWord} (h : Issues s f w (ctlForm 7 [])) :
    execEndProg f w s = .next ((s.atEnd f (ctlForm 7 [])).wake f) := congrArg Host.Outcome.next (issue_eq h)

/-- In a fault handler RTE is executed as END (R249). -/
theorem execRte_fault {s : State} {f : Nat} {w : IWord} (h : Issues s f w (ctlForm 8 [])) (hh : (s.face f).handler = .fault) :
    execRte f w s = .next ((s.atEnd f (ctlForm 8 [])).wake f) := by
  refine congrArg Host.Outcome.next ((issue_eq h).trans ?_)
  rw [hh]
  rfl

end Sys2Proof.Machine
end

section
open Sys2Proof Sys2Proof.Machine Sys2Proof.Claims

/-- Settles O23: END and the RTE of a fault handler stall at their END, which then retires, or waits for the operations outstanding. -/
theorem endRetires : Obligations.EndRetires := by
  unfold Obligations.EndRetires
  intro f w s
  refine ⟨fun h hd hb => ⟨_, execEndProg_issues h, atEnd_wake_retires hd hb⟩, fun h hd => ⟨_, execEndProg_issues h, atEnd_wake_stalls hd⟩,
    fun h hd hh => ⟨_, execRte_fault h hh, atEnd_wake_retires hd (.inl hh)⟩⟩
end
section
/-! What a message that brings a command comes to, and the messages of the link layer (15_links_and_lanes.md R426 to R428, R439, R442). -/
namespace Sys2Proof.Machine
open Sys2Proof.Claims

/-! ### Messages of the call ring -/

/-- Where no message of its kind is lost, a command does what it says (R73). -/
theorem ringGuard_noneLost {s : State} {k : RKind} (h : NoneLost s k) (here : Nat → Bool) (go : State → State) :
    s.ringGuard k here go = go s := by
  have hf : s.ringLost.findIdx? (fun e => decide (e.1 = k) && here e.2) = none := by
    rw [List.findIdx?_eq_none_iff]
    intro e he
    simp [h e he]
  rw [State.ringGuard, hf]

theorem noneLost_of {s t : State} {k : RKind} (h : NoneLost s k) (e : t.ringLost = s.ringLost) : NoneLost t k := by
  unfold NoneLost
  rw [e]
  exact h

theorem Sends.ringLost {s t : State} (h : s.Sends t) : t.ringLost = s.ringLost :=
  Sends.same (h := h) (p := State.ringLost) (fun _ _ _ _ => rfl)

/-! ### TICK, and messages from elsewhere than the parent -/

theorem badMsg_frame (s : State) (p : Nat) : s.Frame (s.badMsg p) [(R.LNK_PORT_STAT.BAD_MSG, p)] [] :=
  Frame.bump (Frame.refl _ _ _) (by simp)

theorem badMsg_rd (s : State) (p : Nat) : (s.badMsg p).rd R.LNK_PORT_STAT.BAD_MSG p =
    min (s.rd R.LNK_PORT_STAT.BAD_MSG p + 1) (2 ^ R.LNK_PORT_STAT.BAD_MSG.wd - 1) := rd_bump_same _ _ _ (by decide)

/-- A TICK from the parent, ahead of its due time, is held (R14, R16). -/
theorem execTick_held {s : State} {p hand due period : Nat} (hp : s.fromParent p = true) (hd : s.now ≤ due) (hl : NoneLost s .tick) :
    ∃ t, execTick p hand due period s = .next t ∧
      t.hand = { s.hand with ann := some (hand, due, period), stopped := false } ∧ t.regs = s.regs ∧ t.faces = s.faces := by
  have hs := Sends.sendTree s (.tick hand due period)
  unfold execTick
  rw [if_neg (by simp [hp])]
  dsimp only
  rw [if_neg (Nat.not_lt.mpr hd), ringGuard_noneLost (noneLost_of hl (Sends.ringLost hs))]
  exact ⟨_, rfl, by rw [← Sends.hand hs], (Sends.regs hs :), (Sends.faces hs :)⟩

/-- A TICK whose due time has passed is only relayed (R14). -/
theorem execTick_late {s : State} {p hand due period : Nat} (hp : s.fromParent p = true) (hd : due < s.now) :
    execTick p hand due period s = .next (s.sendTree (.tick hand due period)) := by
  unfold execTick
  rw [if_neg (by simp [hp])]
  extract_lets t
  rw [if_pos hd]

theorem execTick_elsewhere {s : State} {p hand due period : Nat} (hp : s.fromParent p = false) :
    execTick p hand due period s = .next (s.badMsg p) := congrArg Host.Outcome.next (if_pos hp)

/-! ### RELEASE of a domain trick (R319) -/

theorem releaseTrick_run (x : Face) (trick hand : Nat) : (x.releaseTrick true trick (some hand)).run = x.run := rfl

/-- The test of a WAITT at a wake, and that of the words of the statement, are one. -/
theorem all_played_iff (x : Face) (h : Handle) :
    x.handles.all (fun e => decide (¬(e.2.listed = true ∧ e.2.domain = h.domain ∧ e.2.trick = h.trick)) || decide (e.2.play = none)) = true ↔
      ∀ g ∈ x.sameTrick h, g.play = none := by
  simp only [List.all_eq_true, Face.sameTrick, List.mem_filter, List.mem_map, Bool.or_eq_true, decide_eq_true_eq, Bool.and_eq_true, beq_iff_eq]
  constructor
  · rintro hall g ⟨⟨e, he, rfl⟩, ⟨hl, hd⟩, ht⟩
    exact (hall e he).resolve_left (fun k => k ⟨hl, hd, ht⟩)
  · intro hall e he
    by_cases hk : e.2.listed = true ∧ e.2.domain = h.domain ∧ e.2.trick = h.trick
    · exact .inr (hall e.2 ⟨⟨e, he, rfl⟩, ⟨hk.1, hk.2.1⟩, hk.2.2⟩)
    · exact .inl hk

/-- A release on one face, which is stalled at most in a WAITT. -/
theorem releaseOn {s : State} {d : Nat} (trick hand : Nat) (hw : ∀ k, (s.face d).run = .stalled k → ∃ h, k = .waitt h) :
    ((s.modFace d (fun x => x.releaseTrick true trick (some hand))).wake d).face d = released (s.face d) trick hand ∧
      s.Frame ((s.modFace d (fun x => x.releaseTrick true trick (some hand))).wake d) [] [d] := by
  have hfr : s.Frame (s.modFace d (fun x => x.releaseTrick true trick (some hand))) [] [d] := Frame.modFace (Frame.refl _ _ _) (by simp)
  unfold State.wake released
  dsimp only
  rw [face_modFace_same, releaseTrick_run]
  cases hrun : (s.face d).run with
  | stalled k =>
    obtain ⟨t, rfl⟩ := hw k hrun
    dsimp only
    by_cases hall : ∀ g ∈ ((s.face d).releaseTrick true trick (some hand)).sameTrick
        (mget {} ((s.face d).releaseTrick true trick (some hand)).handles t), g.play = none
    · rw [if_pos ((all_played_iff _ _).mpr hall), if_pos hall]
      exact ⟨by rw [face_modFace_same, face_modFace_same], Frame.modFace hfr (by simp)⟩
    · rw [if_neg (mt (all_played_iff _ _).mp hall), if_neg hall]
      exact ⟨face_modFace_same _ _ _, hfr⟩
  | off => exact ⟨face_modFace_same _ _ _, hfr⟩
  | issuing => exact ⟨face_modFace_same _ _ _, hfr⟩
  | ended => exact ⟨face_modFace_same _ _ _, hfr⟩

/-- The release on the first n faces. -/
theorem loop_releaseOn {s : State} (trick hand n : Nat) (hw : ∀ g < n, ∀ k, (s.face g).run = .stalled k → ∃ h, k = .waitt h) :
    (∀ g, (loop n s (fun t d => (t.modFace d (fun x => x.releaseTrick true trick (some hand))).wake d)).face g =
      if g < n then released (s.face g) trick hand else s.face g) ∧
    s.Frame (loop n s (fun t d => (t.modFace d (fun x => x.releaseTrick true trick (some hand))).wake d)) [] (List.range n) := by
  induction n with
  | zero => exact ⟨fun g => rfl, Frame.refl _ _ _⟩
  | succ n ih =>
    obtain ⟨hf, hr⟩ := ih (fun g hg => hw g (by omega))
    rw [loop_succ]
    obtain ⟨hd, hfr⟩ := releaseOn (s := loop n s _) (d := n) trick hand (by rw [hf, if_neg (by omega)]; exact hw n (by omega))
    refine ⟨fun g => ?_, Frame.trans (Frame.mono hr (fun _ h => h) (by simp; omega)) (Frame.mono hfr (fun _ h => h) (by simp))⟩
    by_cases e : g = n
    · rw [e, hd, hf, if_neg (by omega), if_pos (by omega)]
    · rw [hfr.faces g (by simpa using e), hf]
      by_cases hg : g < n
      · rw [if_pos hg, if_pos (by omega)]
      · rw [if_neg hg, if_neg (by omega)]

/-! ### TIME (R442) -/

/-- Device time once a TIME of the parent, which is `off` behind, has steered it. -/
theorem steered_now (now : Nat) (off : Int) : ((now : Int) + clampInt (-100) 100 (-off)).toNat =
    (max 0 (if off > 100 then (now : Int) - 100 else if off < -100 then now + 100 else now - off)).toNat := by
  unfold clampInt
  split_ifs <;> omega

/-- The state in which a parent's TIME has arrived and device time and OFFSET are set. -/
def State.steered (s : State) (off : Int) : State :=
  ({ s with now := ((s.now : Int) + clampInt (-100) 100 (-off)).toNat, timeGood := s.timeGood + 1, timeLast := s.now } : State).wr
    R.LNK_TIME_STAT.OFFSET 0 (offset16 off)

theorem execTime_parent {s : State} {p : Nat} (t1 t2 t3 t4 : Nat) (hp : s.fromParent p = true) : execTime p 2 t1 t2 t3 t4 s = .next
    (if 2 ≤ s.timeGood + 1 then (s.steered ((t4 : Int) - (t3 + ((t4 : Int) - t1 - (t3 - t2)) / 2))).wr R.LNK_TIME_STAT.SYNCED 0 1
      else s.steered ((t4 : Int) - (t3 + ((t4 : Int) - t1 - (t3 - t2)) / 2))) := by
  unfold execTime
  rw [if_neg (by decide), if_neg (by simp [hp])]
  rfl

/-- Step 2 of TIME moves device time towards the parent's, which is synchronised after two. -/
theorem execTime_steers {s : State} {p : Nat} (t1 t2 t3 t4 : Nat) (hp : s.fromParent p = true) :
    ∃ t, execTime p 2 t1 t2 t3 t4 s = .next t ∧
      (let ahead : Int := (t4 : Int) - (t3 + ((t4 : Int) - t1 - (t3 - t2)) / 2)
       t.now = (max 0 (if ahead > 100 then s.now - 100 else if ahead < -100 then s.now + 100 else s.now - ahead) : Int).toNat) ∧
      t.timeGood = s.timeGood + 1 ∧ (1 ≤ s.timeGood → t.rd R.LNK_TIME_STAT.SYNCED 0 = 1) ∧
      s.Frame { t with now := s.now, timeGood := s.timeGood, timeLast := s.timeLast }
        [(R.LNK_TIME_STAT.OFFSET, 0), (R.LNK_TIME_STAT.SYNCED, 0)] [] := by
  have base : s.Frame { s.steered ((t4 : Int) - (t3 + ((t4 : Int) - t1 - (t3 - t2)) / 2)) with
      now := s.now, timeGood := s.timeGood, timeLast := s.timeLast } [(R.LNK_TIME_STAT.OFFSET, 0), (R.LNK_TIME_STAT.SYNCED, 0)] [] :=
    Frame.wr (f := R.LNK_TIME_STAT.OFFSET) (Frame.refl s _ _) (by simp)
  refine ⟨_, execTime_parent t1 t2 t3 t4 hp, ?_⟩
  split
  · exact ⟨steered_now _ _, rfl, fun _ => rd_wr_same _ _ _ _ (by decide), Frame.wr (f := R.LNK_TIME_STAT.SYNCED) base (by simp)⟩
  · exact ⟨steered_now _ _, rfl, fun h => by omega, base⟩

theorem execTimeExchange_asks {s : State} (hv : s.rd R.LNK_TREE.PARENT_VALID (s.rd R.LNK_TIME_STAT.TREE 0) = 1)
    (ha : s.rd R.LNK_PORT_STATE.STATE (s.rd R.LNK_TREE.PARENT (s.rd R.LNK_TIME_STAT.TREE 0)) = 4) :
    execTimeExchange s = .next (s.emit (.local_ (s.rd R.LNK_TREE.PARENT (s.rd R.LNK_TIME_STAT.TREE 0)) (.time 1 s.now 0 0))) :=
  congrArg Host.Outcome.next (if_pos ⟨hv, ha⟩)

/-- The state in which time has been lost. -/
def State.timeLost (s : State) : State :=
  (({ s.advance (s.timeLast + 2000000) with timeGood := 0 } : State).wr R.LNK_TIME_STAT.SYNCED 0 0).bump R.LNK_TIME_STAT.LOST 0

theorem execTimeSyncLost_eq {s : State} (hv : s.rd R.LNK_TREE.PARENT_VALID (s.rd R.LNK_TIME_STAT.TREE 0) = 1) :
    execTimeSyncLost s = .next s.timeLost := congrArg Host.Outcome.next (if_neg (by omega))

theorem timeLost_synced (s : State) : s.timeLost.rd R.LNK_TIME_STAT.SYNCED 0 = 0 :=
  (rd_bump_apart _ _ _ _ _ (by decide)).trans (rd_wr_same _ _ _ _ (by decide))

theorem timeLost_lost (s : State) : s.timeLost.rd R.LNK_TIME_STAT.LOST 0 =
    min (s.rd R.LNK_TIME_STAT.LOST 0 + 1) (2 ^ R.LNK_TIME_STAT.LOST.wd - 1) := by
  rw [State.timeLost, rd_bump_same _ _ _ (by decide), rd_wr_apart _ _ _ _ _ _ (by decide)]
  rfl

theorem timeLost_frame (s : State) : s.Frame { s.timeLost with now := s.now, timeGood := s.timeGood }
    [(R.LNK_TIME_STAT.SYNCED, 0), (R.LNK_TIME_STAT.LOST, 0)] [] :=
  Frame.bump (f := R.LNK_TIME_STAT.LOST) (Frame.wr (f := R.LNK_TIME_STAT.SYNCED) (Frame.refl s _ _) (by simp)) (by simp)

/-! ### Flits (R426 to R428) -/

/-- Nothing waits at the port: offering it again changes nothing that is read. -/
theorem portFlush_nil {s : State} {p : Nat} (h : mget [] s.txq p = []) : s.portFlush p = { s with txq := mset [] s.txq p [] } := by
  unfold State.portFlush
  rw [h]
  rfl

theorem port_setPort_same (s : State) (p : Nat) (x : Port) : (s.setPort p x).port p = x := mget_mset_same _ _ _ _

theorem port_setPort_other (s : State) (p q : Nat) (x : Port) (h : q ≠ p) : (s.setPort p x).port q = s.port q := mget_mset_other _ _ _ _ _ _ h

/-- A flit that is bad or out of order is discarded. -/
theorem execFlit_discards {s : State} {p : Nat} {ws : List Word} (replay : Bool)
    (h : flitOk ws = false ∨ (flitHead ws).seq ≠ (s.port p).rxSeq) : execFlit p ws replay s = .next s := by
  unfold execFlit
  extract_lets x h
  by_cases hp : s.rd R.LNK_PORT_STATE.STATE p ≠ 4
  · rw [if_pos hp]
  · rw [if_neg hp, if_pos (by assumption)]

theorem execFlit_taken {s : State} {p : Nat} {ws : List Word} (hp : s.rd R.LNK_PORT_STATE.STATE p = 4) (hok : flitOk ws = true)
    (hseq : (flitHead ws).seq = (s.port p).rxSeq) :
    execFlit p ws false s = .next ((s.setPort p ((s.port p).gotFlit (flitHead ws))).portFlush p) := by
  unfold execFlit
  extract_lets x h
  rw [if_neg (not_not_intro hp), if_neg (by simp [hok, hseq, h, x])]
  rfl

/-- The messages that a flit leaves unacknowledged. -/
theorem gotFlit_eq (x : Port) (ws : List Word) : x.gotFlit (flitHead ws) = { x with
    rxSeq := (fget (ws.headD 0#64) 0 12 + 1) % 4096, acked := fget (ws.headD 0#64) 12 12
    cred0 := min 128 (x.cred0 + fget (ws.headD 0#64) 24 8), cred1 := min 128 (x.cred1 + fget (ws.headD 0#64) 32 8)
    unacked := x.unacked.filter (fun q => decide (2048 ≤ (fget (ws.headD 0#64) 12 12 + 4096 - q) % 4096)) } := by
  have hf : (fun q => !ackedBy (flitHead ws).ack q) = fun q => decide (2048 ≤ (fget (ws.headD 0#64) 12 12 + 4096 - q) % 4096) := by
    funext q
    exact decide_not.symm.trans (decide_eq_decide.mpr Nat.not_lt)
  unfold Port.gotFlit
  rw [hf]
  rfl

end Sys2Proof.Machine
end

section
open Sys2Proof Sys2Proof.Machine Sys2Proof.Claims

/-- Settles O45: each clause is the lemma of its message. -/
theorem controlLaneResults : Obligations.ControlLaneResults := by
  unfold Obligations.ControlLaneResults
  intro s p
  refine ⟨fun _ _ _ hp hd hl => execTick_held hp hd hl, fun hand due period hp hd => ?_, fun hand due period hp => ?_, fun src trick hand hw => ?_,
    fun src hand handle count => ?_, fun _ _ _ _ => ⟨_, rfl, rfl, rfl⟩, fun t1 t2 t3 t4 hp => execTime_steers t1 t2 t3 t4 hp, ?_, ?_⟩
  · have hs := Sends.sendTree s (.tick hand due period)
    exact ⟨_, execTick_late hp hd, Sends.hand hs, Sends.regs hs, Sends.faces hs⟩
  · exact ⟨_, execTick_elsewhere hp, badMsg_rd s p, badMsg_frame s p⟩
  · obtain ⟨hf, hr⟩ := loop_releaseOn trick hand 8 hw
    exact ⟨s.dtrickReleased trick hand, congrArg Host.Outcome.next (if_neg (not_not_intro rfl)), fun g hg => (hf g).trans (if_pos hg), hr⟩
  · exact ⟨_, congrArg Host.Outcome.next (if_neg (not_not_intro rfl)), mget_mset_same _ _ _ _, fun i hi => mget_mset_other _ _ _ _ _ _ hi, rfl⟩
  · intro q hv
    exact ⟨fun ha => ⟨_, execTimeExchange_asks hv ha, rfl, rfl⟩,
      ⟨_, execTimeSyncLost_eq hv, rfl, rfl, timeLost_synced s, timeLost_lost s, timeLost_frame s⟩⟩
  · rintro ws h hp rfl
    refine ⟨fun hok hseq hq => ⟨_, execFlit_taken hp hok hseq, ?_⟩, fun replay hbad => execFlit_discards replay hbad⟩
    rw [portFlush_nil (by exact hq), gotFlit_eq]
    refine ⟨port_setPort_same _ _ _, fun q hq => port_setPort_other _ _ _ _ hq, fun q => ?_, rfl⟩
    refine (mget_mset [] s.txq p q []).trans ?_
    split
    · next e => rw [e, hq]
    · rfl
end
section
/-! A tick that falls due, and the hand of a held replica (01_ticks_and_hands.md R16, R19, R48, 08_ifeom_programming_model.md R239,
16_many_devices.md R460). -/
namespace Sys2Proof.Machine
open Sys2Proof.Claims

/-! ### What goes out with a tick -/

theorem foldl_emit_eq (s : State) (os : List Out) : os.foldl State.emit s = { s with out := s.out ++ os } := by
  induction os generalizing s with
  | nil => simp
  | cons o os ih => rw [List.foldl_cons, ih]; simp [State.emit, List.append_assoc]

theorem foldl_msix_eq (s : State) (vs : List Nat) : vs.foldl (fun t v => t.msix 0 v) s = { s with out := s.out ++ vs.map (Out.msix 0) } := by
  induction vs generalizing s with
  | nil => simp
  | cons v vs ih => rw [List.foldl_cons, ih]; simp [State.msix, State.emit, List.append_assoc]

/-- The vectors due go out (R372). -/
theorem ringIrqs_eq (s : State) : ∃ os irqs done, s.ringIrqs = { s with out := s.out ++ os, irqs := irqs, irqDone := done } :=
  ⟨_, _, _, foldl_msix_eq _ _⟩

/-- What waited behind a hand's records goes out (R35). -/
theorem flushPosted_eq (s : State) : ∃ os irqs done p,
    s.flushPosted = { s with out := s.out ++ os, irqs := irqs, irqDone := done, hand := { s.hand with posted := p } } := by
  unfold State.flushPosted
  cases hp : s.hand.posted with
  | none => exact ⟨[], s.irqs, s.irqDone, s.hand.posted, by rw [List.append_nil]⟩
  | some os =>
    dsimp only
    rw [foldl_emit_eq]
    obtain ⟨vs, irqs, done, h⟩ := ringIrqs_eq ({ s with hand := { s.hand with posted := none }, out := s.out ++ os } : State)
    exact ⟨os ++ vs, irqs, done, none, by rw [h, ← List.append_assoc]⟩

theorem foldl_dtrickShow_eq (s : State) (l : SMap DTrick) : ∃ m, l.foldl (fun t e => t.dtrickShow e.1) s = { s with regs := m } ∧
    RegsBeside [.SYN_DTRICK_CFG] s (l.foldl (fun t e => t.dtrickShow e.1) s) := by
  induction l generalizing s with
  | nil => exact ⟨s.regs, rfl, RegsBeside.refl _ _⟩
  | cons e l ih =>
    obtain ⟨m, hm, hr⟩ := ih (s.dtrickShow e.1)
    exact ⟨m, by rw [List.foldl_cons, hm]; rfl, RegsBeside.trans (RegsBeside.wr (RegsBeside.refl _ _)) hr⟩

/-- SYN_DTRICK_CFG shows the plays of the hand: nothing else changes. -/
theorem dtrickShows_eq (s : State) : ∃ m, s.dtrickShows = { s with regs := m } ∧ RegsBeside [.SYN_DTRICK_CFG] s s.dtrickShows :=
  foldl_dtrickShow_eq s s.dtricks

/-- What leaves is all that a send changes. -/
theorem Sends.eq {s t : State} (h : s.Sends t) : t = { s with out := t.out, txq := t.txq, ports := t.ports } := by
  have e : ({ t with out := s.out, txq := s.txq, ports := s.ports } : State) = s := h
  exact (congrArg (fun u : State => ({ u with out := t.out, txq := t.txq, ports := t.ports } : State)) e :)

theorem Sends.foldl_sendCtl {s t : State} (h : s.Sends t) (m : Msg) (ds : List Nat) : s.Sends (ds.foldl (fun u d => u.sendCtl d m) t) := by
  induction ds generalizing t with
  | nil => exact h
  | cons d ds ih => exact ih (Sends.trans h (Sends.sendCtl t d m))

theorem Sends.sendAborts (s : State) (h : Nat) : s.Sends (s.sendAborts h) := Sends.foldl_sendCtl (Sends.refl s) _ _

/-! ### The tick -/

/-- The registers that a tick falling due writes. -/
def tickRegs : List RegId := [.SYN_HAND_NUM, .SYN_TICK_PERIOD, .SYN_DTRICK_CFG]

/-- `u` is `s` with the announced tick taken: its number, time and period stand, and what waited for it has gone out. -/
structure TickTaken (s : State) (h due period : Nat) (u : State) : Prop where
  now : u.now = max s.now due
  hand : ∃ p, u.hand = { s.hand with
    ann := none, lastDue := due, period := period, ticked := true, missedRow := 0, due := due, sent := [], sigrDevs := [], posted := p }
  num : u.rd R.SYN_HAND_NUM.HAND 0 = h % 2 ^ R.SYN_HAND_NUM.HAND.wd
  period : u.rd R.SYN_TICK_PERIOD.PERIOD 0 = period % 2 ^ R.SYN_TICK_PERIOD.PERIOD.wd
  regs : RegsBeside tickRegs s u
  rest : { u with now := s.now, regs := s.regs, hand := s.hand, out := s.out, irqs := s.irqs, irqDone := s.irqDone, key := s.key } = s

/-- The state in which an announced tick has been taken. -/
def State.tickTaken (s : State) (h due period : Nat) : State :=
  (((((s.flushPosted.advance due).wr R.SYN_HAND_NUM.HAND 0 h).wr R.SYN_TICK_PERIOD.PERIOD 0 period).modKey (fun x => { x with passed := 0 })).modHand
    (fun x => { x with ann := none, lastDue := due, period := period, ticked := true, missedRow := 0, due := due, sent := [], sigrDevs := [] })).dtrickShows

theorem tickTaken_taken (s : State) (h due period : Nat) : TickTaken s h due period (s.tickTaken h due period) := by
  obtain ⟨os, irqs, done, p, hf⟩ := flushPosted_eq s
  unfold State.tickTaken
  rw [hf]
  generalize hu : State.modHand _ _ = u
  obtain ⟨m, hm, hr⟩ := dtrickShows_eq u
  refine ⟨?_, ⟨p, ?_⟩, ?_, ?_, ?_, ?_⟩
  · rw [hm, ← hu]; rfl
  · rw [hm, ← hu]; rfl
  · rw [hr.rd R.SYN_HAND_NUM.HAND 0, ← hu]
    exact (rd_wr_reg _ R.SYN_TICK_PERIOD.PERIOD _ _ _ _ (by decide)).trans (rd_wr_same _ _ _ _ (by decide))
  · rw [hr.rd R.SYN_TICK_PERIOD.PERIOD 0, ← hu]
    exact rd_wr_same _ R.SYN_TICK_PERIOD.PERIOD _ _ (by decide)
  · refine RegsBeside.trans ?_ (RegsBeside.mono hr (by simp [tickRegs]))
    rw [← hu]
    exact RegsBeside.wr (f := R.SYN_TICK_PERIOD.PERIOD) (RegsBeside.wr (f := R.SYN_HAND_NUM.HAND) (RegsBeside.refl tickRegs s))
  · rw [hm, ← hu]; rfl

/-- A tick that falls due on a device that is not the manager (R16, R48). -/
theorem execHandEntry_due {s : State} {h due period : Nat} (hd : FallsDue s h due period) (desc : List SlotSeat) (told : List (Nat × Bool × Bool)) :
    execHandEntry desc told s = .next
      (if (s.tickTaken h due period).handsStopped then (s.tickTaken h due period).missTick h
       else if (s.tickTaken h due period).canRun then (s.tickTaken h due period).startHand h due desc told
       else ((s.tickTaken h due period).sendAborts h).modHand (fun x =>
         { x with idle := true, expiry := (s.tickTaken h due period).expiryOf due })) := by
  obtain ⟨hann, ⟨hrun, hidle⟩, halive, hworker⟩ := hd
  have k := tickTaken_taken s h due period
  have hobeys : (s.tickTaken h due period).obeys = s.obeys := (congrArg State.obeys k.rest :)
  have hrole : (s.tickTaken h due period).isManager = s.isManager := by
    rw [State.isManager, State.isManager, k.regs.rd R.SYN_ROLE.ROLE 0, hobeys]
  unfold execHandEntry
  split
  · next e => rw [hann] at e; cases e
  · next h' due' period' e =>
    rw [hann] at e
    cases e
    extract_lets s0 s1 s2 s3
    have hs1 : s1 = s0.wr R.SYN_TICK_PERIOD.PERIOD 0 period := if_neg (by rw [hworker]; nofun)
    have hs2 : s2.dtrickShows = s.tickTaken h due period := by simp only [s2, hs1]; rfl
    have hs3 : s3 = s.tickTaken h due period := by
      simp only [s3, hs2]
      exact if_neg (by rw [hrole, hworker]; nofun)
    rw [if_neg (by simp [hrun, hidle, halive]), if_neg (by simp [hworker]), hs3]

theorem synced_taken {s u : State} {h due period : Nat} (k : TickTaken s h due period u) : u.handsStopped = s.handsStopped := by
  have hh : u.hif = s.hif := (congrArg State.hif k.rest :)
  simp only [State.handsStopped, State.synced, k.regs.rd R.KEY_SESSION.STATE 0, k.regs.rd R.LNK_TIME_STAT.TREE 0,
    k.regs.rd R.LNK_TREE.PARENT_VALID, k.regs.rd R.LNK_TIME_STAT.SYNCED 0, hh]

theorem canRun_taken {s u : State} {h due period : Nat} (k : TickTaken s h due period u) : u.canRun = s.canRun := by
  have hu : u.unitDown = s.unitDown := (congrArg State.unitDown k.rest :)
  have hl : u.logStop = s.logStop := (congrArg State.logStop k.rest :)
  simp only [State.canRun, State.nFaces, State.isDown, State.progState, k.regs.rd R.PLT_CAP_FACES.COUNT 0, k.regs.rd R.PLT_CAP_FACES.DOWN 0,
    k.regs.rd R.FCE_PROG_STATE.STATE, hu, hl]
  rfl

/-- What follows the tick leaves its time, number and period. -/
theorem TickTaken.passed {s u t : State} {h due period : Nat} (k : TickTaken s h due period u) (hn : t.now = u.now)
    (hh : t.hand.ann = none ∧ t.hand.lastDue = due) (hnum : t.rd R.SYN_HAND_NUM.HAND 0 = u.rd R.SYN_HAND_NUM.HAND 0)
    (hp : t.rd R.SYN_TICK_PERIOD.PERIOD 0 = u.rd R.SYN_TICK_PERIOD.PERIOD 0) : TickPassed s h due period t :=
  ⟨hn.trans k.now, hh.1, hh.2, hnum.trans k.num, hp.trans k.period⟩

theorem modHand_hand (s : State) (g : HandSt → HandSt) : (s.modHand g).hand = g s.hand := rfl

theorem missTick_hand (s : State) (h : Nat) : (s.missTick h).hand =
    { s.hand with idle := true, abortOwed := some h, sent := [], sigrDevs := [], expiry := s.expiryOf s.hand.lastDue } := rfl

/-- While hands are stopped the tick is missed (R19, R500). -/
theorem execHandEntry_missed {s : State} {h due period : Nat} (hd : FallsDue s h due period) (desc : List SlotSeat)
    (told : List (Nat × Bool × Bool)) (hs : s.handsStopped = true) :
    ∃ t, execHandEntry desc told s = .next t ∧ TickPassed s h due period t ∧ t.hand.idle = true ∧
      t.hand.running = false ∧ t.faces = s.faces ∧
      t.rd R.SYN_HAND_COUNTS.MISSED 0 = min (s.rd R.SYN_HAND_COUNTS.MISSED 0 + 1) (2 ^ R.SYN_HAND_COUNTS.MISSED.wd - 1) := by
  have k := tickTaken_taken s h due period
  obtain ⟨p, hp⟩ := k.hand
  refine ⟨_, (execHandEntry_due hd desc told).trans (congrArg _ (if_pos ((synced_taken k).trans hs))), ?_, rfl, ?_, ?_, ?_⟩
  · exact k.passed rfl (by rw [missTick_hand, hp]; exact ⟨rfl, rfl⟩)
      (rd_bump_apart _ _ _ _ _ (by decide)) (rd_bump_apart _ _ _ _ _ (by decide))
  · rw [missTick_hand, hp]
    exact hd.free.1
  · exact (congrArg State.faces k.rest :)
  · exact (rd_bump_same _ _ _ (by decide)).trans (by rw [k.regs.rd R.SYN_HAND_COUNTS.MISSED 0])

/-- A device that cannot run the hand idles through its tick (R48). -/
theorem execHandEntry_idles {s : State} {h due period : Nat} (hd : FallsDue s h due period) (desc : List SlotSeat)
    (told : List (Nat × Bool × Bool)) (hs : s.handsStopped = false) (hc : s.canRun = false) :
    ∃ t, execHandEntry desc told s = .next t ∧ TickPassed s h due period t ∧ t.hand.idle = true ∧ t.hand.running = false ∧
      t.faces = s.faces := by
  have k := tickTaken_taken s h due period
  obtain ⟨p, hp⟩ := k.hand
  have hsend := Sends.sendAborts (s.tickTaken h due period) h
  refine ⟨_, (execHandEntry_due hd desc told).trans (congrArg _ ((if_neg ?_).trans (if_neg ?_))), ?_, rfl, ?_, ?_⟩
  · rw [synced_taken k, hs]; nofun
  · rw [canRun_taken k, hc]; nofun
  · refine k.passed (Sends.now hsend :) ?_ (Sends.rd hsend _ _ :) (Sends.rd hsend _ _ :)
    rw [modHand_hand, Sends.hand hsend, hp]
    exact ⟨rfl, rfl⟩
  · rw [modHand_hand, Sends.hand hsend, hp]
    exact hd.free.1
  · exact (Sends.faces hsend).trans (congrArg State.faces k.rest :)

/-! ### The hand of a held replica (R460) -/

/-- Loops that change one face in each round, by what the face was. -/
theorem loop_setFace {s : State} {step : State → Nat → State} {g : Nat → Face → Face} (n : Nat)
    (hstep : ∀ m, ∀ f < n, ({ s with faces := m } : State).face f = s.face f →
      step { s with faces := m } f = ({ s with faces := m } : State).setFace f (g f (s.face f))) :
    ∃ m, loop n s step = { s with faces := m } ∧
      ∀ f, ({ s with faces := m } : State).face f = if f < n then g f (s.face f) else s.face f := by
  induction n with
  | zero => exact ⟨s.faces, rfl, fun f => rfl⟩
  | succ n ih =>
    obtain ⟨m, hm, hf⟩ := ih (fun m f hfn => hstep m f (by omega))
    have hn : ({ s with faces := m } : State).face n = s.face n := (hf n).trans (if_neg (by omega))
    refine ⟨_, by rw [loop_succ, hm, hstep m n (by omega) hn]; rfl, fun f => ?_⟩
    refine (mget_mset {} m n f (g n (s.face n))).trans ?_
    by_cases e : f = n
    · rw [if_pos e, if_pos (by omega), e]
    · rw [if_neg e]
      refine (hf f).trans ?_
      by_cases hl : f < n
      · rw [if_pos hl, if_pos (by omega)]
      · rw [if_neg hl, if_neg (by omega)]

/-- The registers that a face of a held replica enters a hand with (R239). -/
def heldRegs (call : Bool) (arg : Word) (expiry : Nat) : SMap Word :=
  mset 0#64 (mset 0#64 (mset 0#64 (mset 0#64 (mset 0#64 (mset 0#64 [] 1 0#64) 2 0#64) 3 (if call then 5#64 else 1#64)) 4 (if call then arg else 0#64))
    5 0#64) 6 (BitVec.ofNat 64 expiry)

/-- A face as it enters a hand in which the replica is held. -/
def Face.enterHeld (x : Face) (call : Bool) (arg : Word) (h expiry : Nat) : Face :=
  { x with pc := (x.vector (if call then 1 else 0)).getD 0, s := heldRegs call arg expiry, a := [], p := [], l := [], hn := h, tpc := 0, tcause := 0
           tinfo := if call then arg else 0#64, run := .issuing, handler := .none, heldWarn := false, heldSoft := none, warned := false
           failed := false, endTime := none, hostCall := call, result := 0#64, probeOk := true, entryTraps := [] }

/-- The hand that starts is held, with no slot and no re-deal. -/
structure HeldHand (u : State) : Prop where
  slotEmpty : u.hand.slotEmpty = true
  slotNum : u.hand.slotNum = 0
  redeal : u.hand.redeal = false

theorem enterFace_held {u : State} (hu : HeldHand u) {f : Nat} (h : Nat) (ht : (u.face f).entryTraps = []) :
    u.enterFace f h true = u.setFace f ((u.face f).enterHeld (u.flag R.FCE_HOST_CALL.PENDING f && ((u.face f).vector 1).isSome)
      (u.reg .FCE_HOST_CALL_ARG f) h u.hand.expiry) := by
  obtain ⟨he, hn, hr⟩ := hu
  unfold State.enterFace
  extract_lets x call arg slot empty data num s3 w regs traps t
  have ht' : traps = [] := ht
  have hs3 : w s3 = if call then 5#64 else 1#64 := by
    simp only [w, s3, empty, he, hr]
    cases call <;> rfl
  have hnum : w num = 0#64 := by
    have hz : num = 0 := by simp only [num, hn]; split <;> rfl
    rw [hz]
  have hregs : regs = heldRegs call arg u.hand.expiry := by
    simp only [regs, hs3, hnum]
    rfl
  rw [ht']
  show u.setFace f _ = _
  rw [hregs, show empty = true from he]
  rfl

theorem heldRegs_reads (call : Bool) (arg : Word) (expiry : Nat) (n : Nat) : mget 0#64 (heldRegs call arg expiry) n =
    if n = 6 then BitVec.ofNat 64 expiry else if n = 5 then 0#64 else if n = 4 then (if call then arg else 0#64)
    else if n = 3 then (if call then 5#64 else 1#64) else 0#64 := by
  simp only [heldRegs, mget_mset]
  by_cases h2 : n = 2
  · simp [h2]
  · by_cases h1 : n = 1
    · simp [h1]
    · rw [if_neg h2, if_neg h1]; rfl

/-- It is what the words of R239 say. -/
theorem enterHeld_entered (x : Face) (call : Bool) (arg : Word) (h expiry : Nat) :
    Entered x call arg h expiry (x.enterHeld call arg h expiry) := by
  have hs (n : Nat) (hn : n ≠ 0) : (x.enterHeld call arg h expiry).sreg n = mget 0#64 (heldRegs call arg expiry) n := if_neg hn
  refine ⟨rfl, rfl, rfl, ⟨?_, ?_, ?_, ?_, ?_, ?_⟩, fun n hn => ?_, rfl, rfl, rfl, rfl, rfl, rfl⟩
  iterate 6 exact (hs _ (by decide)).trans (heldRegs_reads ..)
  by_cases h0 : n = 0
  · exact if_pos h0
  · rw [hs n h0, heldRegs_reads, if_neg (by omega), if_neg (by omega), if_neg (by omega), if_neg (by omega)]

theorem Entered.of_snapshot {x y : Face} {call : Bool} {arg : Word} {h e : Nat} (k : Entered x.snapshot call arg h e y) :
    Entered x call arg h e y := ⟨k.pc, k.run, k.hn, k.sregs, k.others, k.clear⟩

/-- A hand in which the replica is held starts: every face has entered it, with no slot. -/
theorem startHand_held {u : State} {h due : Nat} (desc : List SlotSeat) (told : List (Nat × Bool × Bool)) (hh : u.heldIn h = true)
    (ht : ∀ f < u.nFaces, (u.face f).entryTraps = []) :
    ∃ m, u.startHand h due desc told = { u with
        faces := m
        hand := { u.hand.fresh due (u.expiryOf due) u.portsLost (u.rd R.PLT_CAP_FACES.DOWN 0) true with
          slotEmpty := true, slotNum := 0, desc := [] } } ∧
      ∀ f < u.nFaces, Entered (u.face f) (u.flag R.FCE_HOST_CALL.PENDING f && ((u.face f).vector 1).isSome)
        (u.reg .FCE_HOST_CALL_ARG f) h (u.expiryOf due) (({ u with faces := m } : State).face f) := by
  have hsnap (s : State) : ∃ m, loop s.nFaces s (fun t f => t.modFace f Face.snapshot) = { s with faces := m } ∧
      ∀ f, ({ s with faces := m } : State).face f = if f < s.nFaces then (s.face f).snapshot else s.face f :=
    loop_setFace (g := fun _ x => x.snapshot) s.nFaces (fun m f _ hf => by rw [State.modFace, hf])
  unfold State.startHand
  extract_lets held lost down s1 s2 s3 s4
  have hheld : held = true := hh
  obtain ⟨m1, h1, hf1⟩ := hsnap s1
  have hs2 : s2 = { s1 with faces := m1 } := h1
  have hs4 : s4 = { u with
      faces := m1
      hand := { u.hand.fresh due (u.expiryOf due) u.portsLost (u.rd R.PLT_CAP_FACES.DOWN 0) true with
        slotEmpty := true, slotNum := 0, desc := [] } } := by
    simp only [s4, s3, hheld, hs2, if_true, State.takeSlot]
    simp only [s1, hheld]
    rfl
  have hface (f : Nat) (hf : f < u.nFaces) : s4.face f = (u.face f).snapshot := by
    rw [hs4]
    exact (hf1 f).trans (if_pos hf)
  have hhand : HeldHand s4 := by rw [hs4]; exact ⟨rfl, rfl, Bool.and_false _⟩
  have hn4 : s4.nFaces = u.nFaces := by rw [hs4]; rfl
  have hexp : s4.hand.expiry = u.expiryOf due := by rw [hs4]; rfl
  obtain ⟨m2, h2, hf2⟩ := loop_setFace (s := s4) (step := fun t f => t.enterFace f h held)
    (g := fun f x => x.enterHeld (s4.flag R.FCE_HOST_CALL.PENDING f && (x.vector 1).isSome) (s4.reg .FCE_HOST_CALL_ARG f) h s4.hand.expiry)
    s4.nFaces (fun m f hf he => by
      have e := enterFace_held (u := { s4 with faces := m }) ⟨hhand.slotEmpty, hhand.slotNum, hhand.redeal⟩ (f := f) h
        (by rw [he, hface f (hn4 ▸ hf)]; exact ht f (hn4 ▸ hf))
      rw [he] at e
      rw [hheld]
      exact e)
  refine ⟨m2, ?_, fun f hf => ?_⟩
  · rw [h2, hs4]
  · refine Entered.of_snapshot ?_
    have e : ({ u with faces := m2 } : State).face f = _ := (hf2 f).trans (if_pos (hn4 ▸ hf))
    rw [e, hface f hf, hexp, show s4.flag R.FCE_HOST_CALL.PENDING f = u.flag R.FCE_HOST_CALL.PENDING f by rw [hs4]; rfl,
      show s4.reg .FCE_HOST_CALL_ARG f = u.reg .FCE_HOST_CALL_ARG f by rw [hs4]; rfl]
    exact enterHeld_entered _ _ _ _ _

/-- A hand in which the replica is held is entered on every face with an empty slot. -/
theorem execHandEntry_held {s : State} {h due period : Nat} (hd : FallsDue s h due period) (desc : List SlotSeat)
    (told : List (Nat × Bool × Bool)) (hs : s.handsStopped = false) (hc : s.canRun = true) (hh : s.heldIn h = true)
    (ht : ∀ f < s.nFaces, (s.face f).entryTraps = []) :
    ∃ t, execHandEntry desc told s = .next t ∧ TickPassed s h due period t ∧
      t.hand.running = true ∧ t.hand.held = true ∧ t.hand.slotEmpty = true ∧
      ∀ f < s.nFaces, Entered (s.face f) (s.flag R.FCE_HOST_CALL.PENDING f && ((s.face f).vector 1).isSome)
        (s.reg .FCE_HOST_CALL_ARG f) h t.hand.expiry (t.face f) := by
  have k := tickTaken_taken s h due period
  have hfaces : (s.tickTaken h due period).faces = s.faces := (congrArg State.faces k.rest :)
  have hholds : (s.tickTaken h due period).holds = s.holds := (congrArg State.holds k.rest :)
  have hface (f : Nat) : (s.tickTaken h due period).face f = s.face f := by rw [State.face, State.face, hfaces]
  have hn : (s.tickTaken h due period).nFaces = s.nFaces := k.regs.rd R.PLT_CAP_FACES.COUNT 0
  obtain ⟨m, hm, hf⟩ := startHand_held (due := due) desc told (show (s.tickTaken h due period).heldIn h = true by rw [State.heldIn, hholds]; exact hh)
    (fun f hfn => by rw [hface]; exact ht f (hn ▸ hfn))
  refine ⟨_, (execHandEntry_due hd desc told).trans (congrArg _ (((if_neg ?_).trans (if_pos ((canRun_taken k).trans hc))).trans hm)),
    k.passed rfl ⟨rfl, rfl⟩ rfl rfl, rfl, rfl, rfl, fun f hfn => ?_⟩
  · rw [synced_taken k, hs]; nofun
  · have e := hf f (hn.symm ▸ hfn)
    rw [hface, State.flag, k.regs.rd R.FCE_HOST_CALL.PENDING f, k.regs .FCE_HOST_CALL_ARG (by decide) f] at e
    exact e

end Sys2Proof.Machine
end

section
open Sys2Proof Sys2Proof.Machine Sys2Proof.Claims

/-- Settles O47: the tick is missed, idled through, or entered. -/
theorem handEntry : Obligations.HandEntry := by
  unfold Obligations.HandEntry
  intro s desc told h due period hd
  exact ⟨fun hs => execHandEntry_missed hd desc told hs, fun hs hc => execHandEntry_idles hd desc told hs hc,
    fun hs hc hh ht => execHandEntry_held hd desc told hs hc hh ht⟩
end
section
/-! What the windows, the parcels that land in them, the notices and the answers leave (11_synchronisation.md R324 to R330,
15_links_and_lanes.md R430 to R433, R440). -/
namespace Sys2Proof.Machine
open Sys2Proof.Claims

/-! ### Changes of registers and faces alone -/

/-- Of all that `s` holds, `t` has changed at most registers and faces. -/
def State.Local (s t : State) : Prop := { t with regs := s.regs, faces := s.faces } = s

theorem Local.refl (s : State) : s.Local s := rfl

theorem Local.trans {s t u : State} (h : s.Local t) (k : t.Local u) : s.Local u := by
  have e : ({ ({ u with regs := t.regs, faces := t.faces } : State) with regs := s.regs, faces := s.faces } : State) = s := by
    rw [show ({ u with regs := t.regs, faces := t.faces } : State) = t from k]
    exact h
  exact e

theorem Local.foldl {α : Type} {s t : State} {g : State → α → State} (h : s.Local t) (hg : ∀ (u : State) a, u.Local (g u a)) (l : List α) :
    s.Local (l.foldl g t) := by
  induction l generalizing t with
  | nil => exact h
  | cons a l ih => exact ih (Local.trans h (hg t a))

theorem Local.loop {s t : State} {g : State → Nat → State} (h : s.Local t) (hg : ∀ (u : State) i, u.Local (g u i)) (n : Nat) : s.Local (loop n t g) :=
  Local.foldl h hg _

theorem Local.setWin (s : State) (f w : Nat) (x : Win) : s.Local (s.setWin f w x) := rfl

theorem Local.freeSlot (s : State) (f w i : Nat) : s.Local (s.freeSlot f w i) := by
  refine Local.trans (Local.loop (Local.refl s) (fun u d => ?_) 8) (Local.setWin _ _ _ _)
  split
  · exact rfl
  · exact rfl

theorem Local.dropHand (s : State) (src hand : Nat) : s.Local (s.dropHand src hand) := by
  refine Local.foldl (Local.refl s) (fun t e => Local.foldl (Local.refl t) (fun u we => ?_) _) _
  dsimp only
  split
  · split
    · exact Local.trans (Local.setWin _ _ _ _) (Local.freeSlot _ _ _ _)
    · exact Local.setWin _ _ _ _
  · exact Local.refl _

/-! ### A window replaced -/

/-- The registers that the status bits of a window lie in. -/
theorem setWin_rd (s : State) (f w : Nat) (x : Win) (g : Fld) (i : Nat) (h : g.reg ≠ .SYN_WIN_STATE) : (s.setWin f w x).rd g i = s.rd g i := by
  rw [State.setWin, State.winSync]
  exact (rd_wr_reg _ _ _ _ _ _ h).trans ((rd_wr_reg _ _ _ _ _ _ h).trans rfl)

theorem setWin_face (s : State) (f w : Nat) (x : Win) (g : Nat) :
    (s.setWin f w x).face g = (s.modFace f (fun y => { y with wins := mset {} y.wins w x })).face g := rfl

theorem setWin_win (s : State) (f w : Nat) (x : Win) : (s.setWin f w x).win f w = x := by
  rw [State.win, setWin_face, face_modFace_same]
  exact mget_mset_same _ _ _ _

/-! ### Opening and closing (R324, R330) -/

theorem orNow_ticking {s : State} (h : s.ticking = true) (g : State → State) : s.orNow g = s := if_pos h

/-- The state of a window written, and a change of the window itself. -/
def State.winMarked (s : State) (f w v : Nat) (g : Win → Win) : State :=
  (s.modFace f (fun y => { y with wins := mset {} y.wins w (g (mget {} y.wins w)) })).wr R.SYN_WIN_STATE.STATE (ix 256 f w) v

theorem winMarked_state (s : State) (f w v : Nat) (g : Win → Win) : (s.winMarked f w v g).winState f w = v % 4 :=
  rd_wr_same _ _ _ _ (by decide)

theorem winMarked_win (s : State) (f w v : Nat) (g : Win → Win) : (s.winMarked f w v g).win f w = g (s.win f w) := by
  rw [State.winMarked, State.win, face_wr, face_modFace_same]
  exact mget_mset_same _ _ _ _

theorem winMarked_frame (s : State) (f w v : Nat) (g : Win → Win) :
    s.Frame (s.winMarked f w v g) [(R.SYN_WIN_STATE.STATE, ix 256 f w)] [f] :=
  Frame.wr (Frame.modFace (Frame.refl _ _ _) (by simp)) (by simp)

theorem winMarked_ticking {s : State} (h : s.ticking = true) (f w v : Nat) (g : Win → Win) : (s.winMarked f w v g).ticking = true := by
  have e : (s.winMarked f w v g).rd R.SYN_TICK_PERIOD.PERIOD 0 = s.rd R.SYN_TICK_PERIOD.PERIOD 0 := rd_wr_reg _ _ _ _ _ _ (by decide)
  rw [State.ticking, e]
  exact h

section
variable {s : State} {f w : Nat} (hf : f < s.nFaces) (hw : w < 256)
include hf hw

theorem execWindowOpen_waits (hc : s.winState f w = 0) (ht : s.ticking = true) :
    execWindowOpen f w s = .next (s.winMarked f w 1 (fun x => { x with openReq := true, live := true })) := by
  unfold execWindowOpen
  rw [if_neg (by omega), if_pos hc]
  exact congrArg _ (orNow_ticking (winMarked_ticking ht f w 1 (fun x => { x with openReq := true, live := true })) _)

theorem execWindowOpen_reopens (hc : s.winState f w = 3) :
    execWindowOpen f w s = .next (s.wr R.SYN_WIN_STATE.STATE (ix 256 f w) 2) := by
  unfold execWindowOpen
  rw [if_neg (by omega), if_neg (by omega), if_pos hc]

theorem execWindowClose_undoes (hc : s.winState f w = 1) :
    execWindowClose f w s = .next (s.winMarked f w 0 (fun x => { x with openReq := false, live := false })) := by
  unfold execWindowClose
  rw [if_neg (by omega), if_pos hc]
  rfl

theorem execWindowClose_closes (hc : s.winState f w = 2) (ht : s.ticking = true) :
    execWindowClose f w s = .next (s.wr R.SYN_WIN_STATE.STATE (ix 256 f w) 3) := by
  have hn : (s.wr R.SYN_WIN_STATE.STATE (ix 256 f w) 3).ticking = true := by
    have e : (s.wr R.SYN_WIN_STATE.STATE (ix 256 f w) 3).rd R.SYN_TICK_PERIOD.PERIOD 0 = s.rd R.SYN_TICK_PERIOD.PERIOD 0 :=
      rd_wr_reg _ _ _ _ _ _ (by decide)
    rw [State.ticking, e]
    exact ht
  unfold execWindowClose
  rw [if_neg (by omega), if_neg (by omega), if_pos hc]
  exact congrArg _ (orNow_ticking hn _)

/-- What opens and closes of a window do (R324, R330). -/
theorem windowOpenClose :
    (s.winState f w = 0 → s.ticking = true → ∃ t, execWindowOpen f w s = .next t ∧ t.winState f w = 1 ∧
      t.win f w = { s.win f w with openReq := true, live := true } ∧ s.Frame t [(R.SYN_WIN_STATE.STATE, ix 256 f w)] [f]) ∧
    (s.winState f w = 3 → ∃ t, execWindowOpen f w s = .next t ∧ t.winState f w = 2 ∧ s.Frame t [(R.SYN_WIN_STATE.STATE, ix 256 f w)] []) ∧
    (s.winState f w = 1 → ∃ t, execWindowClose f w s = .next t ∧ t.winState f w = 0 ∧
      t.win f w = { s.win f w with openReq := false, live := false } ∧ s.Frame t [(R.SYN_WIN_STATE.STATE, ix 256 f w)] [f]) ∧
    (s.winState f w = 2 → s.ticking = true → ∃ t, execWindowClose f w s = .next t ∧ t.winState f w = 3 ∧
      s.Frame t [(R.SYN_WIN_STATE.STATE, ix 256 f w)] []) :=
  ⟨fun hc ht => ⟨_, execWindowOpen_waits hf hw hc ht, winMarked_state .., winMarked_win .., winMarked_frame ..⟩,
    fun hc => ⟨_, execWindowOpen_reopens hf hw hc, rd_wr_same _ _ _ _ (by decide), Frame.wr (Frame.refl _ _ _) (by simp)⟩,
    fun hc => ⟨_, execWindowClose_undoes hf hw hc, winMarked_state .., winMarked_win .., winMarked_frame ..⟩,
    fun hc ht => ⟨_, execWindowClose_closes hf hw hc ht, rd_wr_same _ _ _ _ (by decide), Frame.wr (Frame.refl _ _ _) (by simp)⟩⟩

end

/-! ### Parcels (R326, R431, R433, R466, R624) -/

/-- A parcel received on a port has been counted. -/
def State.received (s : State) (port : Nat) : State := s.bump R.LNK_PARCEL_STAT.PARCELS port

theorem received_rd (s : State) (port : Nat) (g : Fld) (i : Nat) (h : g.reg ≠ .LNK_PARCEL_STAT) : (s.received port).rd g i = s.rd g i :=
  rd_wr_reg _ _ _ _ _ _ h

theorem received_counts {s u : State} {port : Nat}
    (h : u.rd R.LNK_PARCEL_STAT.PARCELS port = (s.received port).rd R.LNK_PARCEL_STAT.PARCELS port) : CountsParcel s port u :=
  h.trans (rd_bump_same _ _ _ (by decide))

theorem received_frame (s : State) (port : Nat) (fs : List (Fld × Nat)) (h : (R.LNK_PARCEL_STAT.PARCELS, port) ∈ fs) :
    s.Frame (s.received port) fs [] := Frame.bump (Frame.refl _ _ _) h

theorem received_nFaces (s : State) (port : Nat) : (s.received port).nFaces = s.nFaces := received_rd s port R.PLT_CAP_FACES.COUNT 0 (by decide)
theorem received_epoch (s : State) (port : Nat) : (s.received port).rd R.KEY_SESSION.EPOCH 0 = s.rd R.KEY_SESSION.EPOCH 0 :=
  received_rd s port _ 0 (by decide)
theorem received_winState (s : State) (port f w : Nat) : (s.received port).winState f w = s.winState f w := received_rd s port _ _ (by decide)
theorem received_win (s : State) (port f w : Nat) : (s.received port).win f w = s.win f w := rfl

theorem received_winGeom (s : State) (port f w : Nat) : (s.received port).winGeom f w = s.winGeom f w := by
  simp (disch := decide) only [State.winGeom, received_rd]

theorem received_arrival (s : State) (port f line : Nat) : (s.received port).arrival f line = s.arrival f line := by
  simp (disch := decide) only [State.arrival, State.cacheLines, State.residentLines, received_rd]
  rfl

/-- A DATA parcel for this device whose message is not lost goes to the serving unit, or to its window. -/
theorem execDataParcel_here {s : State} {port : Nat} {p : Parcel} (hd : p.dst = s.devAddr) (hl : NoneLost s .arrival) :
    execDataParcel port p s = .next (if p.face = 0 ∧ p.win = 255 ∧ 2 ≤ s.rd R.SRV_MODE.MODE 0 then (s.received port).historyParcel port p
      else (s.received port).windowParcel port p) := by
  unfold execDataParcel
  extract_lets s1
  rw [if_pos hd, ringGuard_noneLost (noneLost_of (t := s1) hl rfl)]
  exact congrArg (fun n => Host.Outcome.next (if p.face = 0 ∧ p.win = 255 ∧ 2 ≤ n then (s.received port).historyParcel port p
      else (s.received port).windowParcel port p)) (received_rd s port R.SRV_MODE.MODE 0 (by decide))

theorem padPut_wins (x : Face) (k : Nat) (v : Word) (b : Bool) : (x.padPut k v b).wins = x.wins := by
  simp only [Face.padPut, Face.padOpen]
  split <;> rfl

/-- A line that arrives leaves the windows. -/
theorem putArrival_wins (s : State) (d line : Nat) (ws : List (Word × Bool)) (g : Nat) :
    ((s.putArrival d line ws).face g).wins = (s.face g).wins := by
  have hput : ∀ (ws : List (Word × Bool)) (a : Face × Nat),
      (ws.foldl (fun (a : Face × Nat) v => (a.1.padPut a.2 v.1 v.2, a.2 + 1)) a).1.wins = a.1.wins := by
    intro ws
    induction ws with
    | nil => exact fun a => rfl
    | cons v ws ih => exact fun a => (ih _).trans (padPut_wins _ _ _ _)
  unfold State.putArrival
  split
  · rfl
  · rfl
  · by_cases e : g = d
    · rw [e, face_modFace_same]
      exact hput ws _
    · rw [face_modFace_other _ _ _ _ e]

theorem putArrival_parcels (s : State) (d line : Nat) (ws : List (Word × Bool)) (port : Nat) :
    (s.putArrival d line ws).rd R.LNK_PARCEL_STAT.PARCELS port = s.rd R.LNK_PARCEL_STAT.PARCELS port := by
  unfold State.putArrival
  split
  · exact rd_bump_apart _ _ _ _ _ (by decide)
  · exact rd_bump_apart _ _ _ _ _ (by decide)
  · rfl

/-- The windows and the count of parcels stand. -/
structure WinsKept (port : Nat) (s t : State) : Prop where
  wins : ∀ g, (t.face g).wins = (s.face g).wins
  parcels : t.rd R.LNK_PARCEL_STAT.PARCELS port = s.rd R.LNK_PARCEL_STAT.PARCELS port

theorem WinsKept.putArrival {port : Nat} {s t : State} (h : WinsKept port s t) (d line : Nat) (ws : List (Word × Bool)) :
    WinsKept port s (t.putArrival d line ws) :=
  ⟨fun g => (putArrival_wins t d line ws g).trans (h.wins g), (putArrival_parcels t d line ws port).trans h.parcels⟩

theorem landParcel_kept (port : Nat) (s : State) (f w i : Nat) (p : Parcel) : WinsKept port s (s.landParcel f w i p) := by
  unfold State.landParcel
  extract_lets g fan base
  refine loop_ind (P := WinsKept port s) 8 s _ ⟨fun _ => rfl, rfl⟩ (fun t d _ ht => ?_)
  split
  · refine loop_ind (P := WinsKept port s) _ t _ ht (fun u l _ hu => ?_)
    have hdraw : WinsKept port s u.draw.2 := ⟨hu.wins, hu.parcels⟩
    dsimp only
    split
    · split
      · exact hdraw.putArrival _ _ _
      · exact hdraw
    · exact hu.putArrival _ _ _
  · exact ht

/-- The slot that takes a parcel which lands (R325). -/
theorem lands_place {s : State} {p : Parcel} {k : Nat} (h : Lands s p k) :
    (match (s.win p.face p.win).ofHand p.hand with
      | some k => some k
      | none => if (s.win p.face p.win).pendEmpty.isEmpty then (s.win p.face p.win).freeIx (s.winGeom p.face p.win).2.2 else none) = some k := by
  rcases h.slot with hk | ⟨hn, hp, hk⟩
  · rw [hk]
  · rw [hn, hp]
    exact hk

/-- None of the lines of a parcel that lands is in a quarter in cache mode (R222). -/
theorem lands_mapped {s : State} {p : Parcel} {k : Nat} (h : Lands s p k) :
    (List.range 8).any (fun d => bit (s.rd R.SYN_WIN_CFG.FANOUT (ix 256 p.face p.win)) d && (List.range p.lines).any (fun l =>
      decide (s.arrival d ((s.winGeom p.face p.win).1 + k * (s.winGeom p.face p.win).2.1 + p.offset / 128 + l) = .unmapped))) = false := by
  rw [List.any_eq_false]
  intro d hd
  rw [Bool.and_eq_true, not_and, bit_eq_testBit, Bool.not_eq_true, List.any_eq_false]
  intro hb l hl
  simpa using h.mapped d (List.mem_range.mp hd) hb l (List.mem_range.mp hl)

/-- The record of a parcel in its slot. -/
def Win.takes (x : Win) (port k depth : Nat) (p : Parcel) : Win :=
  { x with
    slots := mset {} x.slots k { mget {} x.slots k with
      st := .staged, hand := p.hand, bytes := (mget {} x.slots k).bytes + p.lines * 128, number := p.slot
      parcels := (mget {} x.slots k).parcels ++ [⟨p.offset, p.lines, p.seq, port, crc32c (wordBytes p.data)⟩] }
    next := if (mget {} x.slots k).st = .free then (k + 1) % depth else x.next }

/-- A parcel that lands is written into its slot and answered ACK. -/
theorem windowParcel_lands {s : State} {port k : Nat} {p : Parcel} (h : Lands s p k) :
    s.windowParcel port p = ((s.setWin p.face p.win ((s.win p.face p.win).takes port k (s.winGeom p.face p.win).2.2 p)).landParcel
      p.face p.win k p).answer port p.src 0 p.seq := by
  have hplace := lands_place h
  have hmapped := lands_mapped h
  obtain ⟨-, hepoch, ⟨hface, hwin⟩, ⟨hopen, hhand⟩, hsrc, ⟨habort, hcommit⟩, hrange, -, hseal, -, -⟩ := h
  unfold State.windowParcel
  extract_lets f w i g x place
  rw [if_neg (not_not_intro hepoch), if_neg (by omega), if_neg (not_or.mpr ⟨not_not_intro hopen, Nat.not_lt.mpr hhand⟩), if_neg (not_not_intro hsrc),
    if_neg (ne_true_of_eq_false habort), if_neg (not_or.mpr ⟨Nat.not_lt.mpr hrange, ne_true_of_eq_false hcommit⟩)]
  rw [show place = some k from hplace]
  refine (if_neg (by rw [hseal]; nofun)).trans ?_
  extract_lets o fresh gone o1 s1
  have hgone : gone = false := hmapped
  have hs1 : s1 = s.setWin p.face p.win ((s.win p.face p.win).takes port k (s.winGeom p.face p.win).2.2 p) := by
    simp only [s1, o1, hgone, Bool.or_false, fresh, decide_eq_true_eq]
    rfl
  rw [hs1]

theorem lands_received {s : State} {p : Parcel} {k : Nat} (port : Nat) (h : Lands s p k) : Lands (s.received port) p k := by
  obtain ⟨hhere, hepoch, ⟨hface, hwin⟩, ⟨hopen, hhand⟩, hsrc, hnotice, hrange, hslot, hseal, ⟨hlost, hkept⟩, hmapped⟩ := h
  have hr := fun g i (hg : g.reg ≠ .LNK_PARCEL_STAT) => received_rd s port g i hg
  refine ⟨hhere.trans (hr R.LNK_DEV_ADDR.ADDR 0 (by decide)).symm, hepoch.trans (received_epoch s port).symm, ⟨?_, hwin⟩, ⟨?_, ?_⟩, ?_, hnotice, ?_, ?_,
    hseal, ⟨noneLost_of hlost rfl, ?_⟩, fun d hd hb l hl => ?_⟩
  · rw [received_nFaces]; exact hface
  · rw [received_winState]; exact hopen
  · rw [hr _ _ (by decide)]; exact hhand
  · rw [hr _ _ (by decide)]; exact hsrc
  · rw [received_winGeom]; exact hrange
  · rw [received_winGeom, received_win]; exact hslot
  · rw [hr _ _ (by decide)]; exact hkept
  · rw [received_arrival, received_winGeom]
    rw [hr _ _ (by decide)] at hb
    exact hmapped d hd hb l hl

/-- A DATA parcel that passes every check takes its slot and is answered ACK (R325, R326, R433). -/
theorem execDataParcel_lands {s : State} {port k : Nat} {p : Parcel} (h : Lands s p k) :
    ∃ u t, execDataParcel port p s = .next t ∧ Answered u port p 0 t ∧ CountsParcel s port u ∧
      mget {} (u.win p.face p.win).slots k = { mget {} (s.win p.face p.win).slots k with
        st := .staged, hand := p.hand, bytes := (mget {} (s.win p.face p.win).slots k).bytes + p.lines * 128, number := p.slot
        parcels := (mget {} (s.win p.face p.win).slots k).parcels ++ [⟨p.offset, p.lines, p.seq, port, crc32c (wordBytes p.data)⟩] } := by
  have kept := landParcel_kept port ((s.received port).setWin p.face p.win
    ((s.win p.face p.win).takes port k ((s.received port).winGeom p.face p.win).2.2 p)) p.face p.win k p
  refine ⟨_, _, (execDataParcel_here h.here h.kept.1).trans (congrArg _ ((if_neg h.kept.2).trans (windowParcel_lands (lands_received port h)))), rfl,
    received_counts (kept.parcels.trans (setWin_rd _ _ _ _ _ _ (by decide))), ?_⟩
  have hw := setWin_win (s.received port) p.face p.win ((s.win p.face p.win).takes port k ((s.received port).winGeom p.face p.win).2.2 p)
  rw [State.win, received_win, kept.wins]
  rw [State.win] at hw
  rw [hw]
  exact mget_mset_same _ _ _ _

/-- A parcel to a window that is not OPEN is answered CLOSED (R326; that the seal is checked behind checks 1 to 6 is log entry 53). -/
theorem windowParcel_closed {s : State} {port : Nat} {p : Parcel} (hepoch : p.epoch = s.rd R.KEY_SESSION.EPOCH 0) (hf : p.face < s.nFaces)
    (hw : p.win < 256) (hs : s.winState p.face p.win ≠ 2) :
    s.windowParcel port p = (s.bump R.SYN_WIN_STAT.CLOSED (ix 256 p.face p.win)).answer port p.src 1 p.seq := by
  unfold State.windowParcel
  dsimp only
  rw [if_neg (not_not_intro hepoch), if_neg (by omega), if_pos (.inl hs)]

theorem execDataParcel_closed {s : State} {port i : Nat} {p : Parcel} (hd : p.dst = s.devAddr) (hepoch : p.epoch = s.rd R.KEY_SESSION.EPOCH 0)
    (hf : p.face < s.nFaces) (hw : p.win < 256) (hs : s.winState p.face p.win ≠ 2) (hl : NoneLost s .arrival)
    (hk : ¬ (p.face = 0 ∧ p.win = 255 ∧ 2 ≤ s.rd R.SRV_MODE.MODE 0)) (hi : i = ix 256 p.face p.win) :
    ∃ u t, execDataParcel port p s = .next t ∧ Answered u port p 1 t ∧ CountsParcel s port u ∧
      u.rd R.SYN_WIN_STAT.CLOSED i = min (s.rd R.SYN_WIN_STAT.CLOSED i + 1) (2 ^ R.SYN_WIN_STAT.CLOSED.wd - 1) ∧
      s.Frame u [(R.LNK_PARCEL_STAT.PARCELS, port), (R.SYN_WIN_STAT.CLOSED, i)] [] := by
  subst hi
  refine ⟨_, _, (execDataParcel_here hd hl).trans (congrArg _ ((if_neg hk).trans (windowParcel_closed ?_ ?_ hw ?_))), rfl,
    received_counts (rd_bump_apart _ _ _ _ _ (by decide)), ?_, Frame.bump (received_frame s port _ (by simp)) (by simp)⟩
  · rw [received_epoch]; exact hepoch
  · rw [received_nFaces]; exact hf
  · rw [received_winState]; exact hs
  · rw [rd_bump_same _ _ _ (by decide), received_rd _ _ _ _ (by decide)]

/-- A parcel of a carried seat's history is kept for the serving unit (R466). -/
theorem execDataParcel_history {s : State} {port : Nat} {p : Parcel} (hd : p.dst = s.devAddr) (hepoch : p.epoch = s.rd R.KEY_SESSION.EPOCH 0)
    (hf : p.face = 0) (hw : p.win = 255) (hm : 2 ≤ s.rd R.SRV_MODE.MODE 0) (hseal : p.sealOk = true) (hl : NoneLost s .arrival) :
    ∃ u t, execDataParcel port p s = .next t ∧ Answered u port p 0 t ∧ CountsParcel s port u ∧
      mget [] u.histIn p.src = (mget [] s.histIn p.src).take (p.offset / 8) ++ p.data ∧
      s.Frame { u with histIn := s.histIn } [(R.LNK_PARCEL_STAT.PARCELS, port)] [] := by
  refine ⟨{ s.received port with histIn := mset [] s.histIn p.src ((mget [] s.histIn p.src).take (p.offset / 8) ++ p.data) }, _,
    (execDataParcel_here hd hl).trans (congrArg _ ((if_pos ⟨hf, hw, hm⟩).trans ?_)), rfl, received_counts rfl, mget_mset_same _ _ _ _,
    received_frame s port _ (by simp)⟩
  rw [State.historyParcel, if_neg (by rw [received_epoch]; exact not_not_intro hepoch), if_neg (by rw [hseal]; nofun)]
  rfl

/-- A SIGR is held with its hand (R37, R624). -/
theorem execSigrParcel_held {s : State} {port : Nat} {p : Parcel} (hd : p.dst = s.devAddr) (hepoch : p.epoch = s.rd R.KEY_SESSION.EPOCH 0)
    (ha : s.aborts.contains (p.src, p.hand) = false) (hc : s.commits.contains (p.src, p.hand) = false) (hf : p.face < s.nFaces)
    (hseal : p.sealOk = true) :
    ∃ u t, execSigrParcel port p s = .next t ∧ Answered u port p 0 t ∧ CountsParcel s port u ∧
      u.sigrs = s.sigrs ++ [⟨p.src, p.hand, p.face, p.ctr, p.amount, false⟩] ∧
      s.Frame { u with sigrs := s.sigrs } [(R.LNK_PARCEL_STAT.PARCELS, port)] [] := by
  refine ⟨{ s.received port with sigrs := s.sigrs ++ [⟨p.src, p.hand, p.face, p.ctr, p.amount, false⟩] }, _,
    congrArg Host.Outcome.next ((if_pos hd).trans ?_), rfl, received_counts rfl, rfl, received_frame s port _ (by simp)⟩
  show (s.received port).sigrParcel port p = _
  have hn : ¬ (p.face ≥ (s.received port).nFaces ∨ (s.received port).commits.contains (p.src, p.hand) = true) := by
    rw [received_nFaces]
    exact not_or.mpr ⟨Nat.not_le.mpr hf, ne_true_of_eq_false hc⟩
  rw [State.sigrParcel, if_neg (by rw [received_epoch]; exact not_not_intro hepoch),
    if_neg (ne_true_of_eq_false (show (s.received port).aborts.contains _ = _ from ha)), if_neg hn,
    if_neg (by rw [hseal]; nofun)]
  rfl

/-! ### Notices (R29, R328, R440) -/

theorem execCommit_part {s : State} (port src hand : Nat) (wins : List WinEntry) (hl : NoneLost s .commit) :
    execCommit port s.devAddr src hand wins true s = .next { s with partials := s.partials ++ [(src, hand, wins)] } := by
  unfold execCommit
  rw [if_neg (not_not_intro rfl), ringGuard_noneLost hl]
  rfl

/-- The entry of a notice that finds its slot complete makes it ready (R328). -/
theorem noticeEntry_completes {s : State} {src hand k n : Nat} {e : WinEntry} (hf : e.face < s.nFaces) (ho : s.winState e.face e.win = 2)
    (hsrc : s.rd R.SYN_WIN_STATE.SRC (ix 256 e.face e.win) = src) (hk : (s.win e.face e.win).ofHand hand = some k)
    (hb : (mget {} (s.win e.face e.win).slots k).bytes = e.bytes) (hn : slotNumber hand e.slotLo = some n) (hi : s.injs = []) :
    s.noticeEntry src hand e = s.setWin e.face e.win { s.win e.face e.win with
      slots := mset {} (s.win e.face e.win).slots k { mget {} (s.win e.face e.win).slots k with
        st := .ready, number := n, stampLo := e.stampLo, stampHi := e.stampHi } } := by
  unfold State.noticeEntry
  extract_lets f w i x num s0 mine short fx
  rw [if_neg (Nat.not_le.mpr hf), if_neg (not_not_intro ho)]
  have hs0 : s0 = s := by simp only [s0, hn]; rfl
  have hnum : num = n := by simp only [num, hn]; rfl
  have hmine : mine = some k := by
    simp only [mine]
    rw [if_pos hsrc]
    exact hk
  rw [hmine]
  have hfx : fx.1 = false := by simp only [fx, hs0, forced_quiet hi]
  refine (if_pos ⟨hb, hfx⟩).trans ?_
  rw [hs0, hnum]

/-- The state in which a hand's notice is known, before its windows (R37). -/
def State.noticed (s : State) (src hand : Nat) : State :=
  { s with
    partials := s.partials.filter (fun e => !decide (e.1 = src ∧ e.2.1 = hand)), commits := s.commits ++ [(src, hand)]
    sigrs := s.sigrs.map (fun g => if g.src = src ∧ g.hand = hand then { g with committed := true } else g) }

/-- A notice with one entry, neither aborted nor known: whatever is counted of its lateness. -/
theorem execCommit_one {s : State} {port src hand : Nat} {e : WinEntry} (hl : NoneLost s .commit) (ha : s.aborts.contains (src, hand) = false)
    (hc : s.commits.contains (src, hand) = false) (hp : s.partOf src hand = []) :
    ∃ b : Bool, execCommit port s.devAddr src hand [e] false s = .next (State.orNow
      (if b then ((s.noticed src hand).noticeEntry src hand e).bump R.SYN_HAND_COUNTS.LATE_NOTICE 0
       else (s.noticed src hand).noticeEntry src hand e) State.bdySigrs) := by
  refine ⟨decide (s.ticking = true ∧ s.rd R.SYN_HAND_NUM.HAND 0 > hand), ?_⟩
  unfold execCommit
  rw [if_neg (not_not_intro rfl), ringGuard_noneLost hl, if_neg Bool.false_ne_true]
  dsimp only
  rw [hp, State.commitNotice, if_neg (ne_true_of_eq_false ha), if_neg (ne_true_of_eq_false hc)]
  simp only [decide_eq_true_eq]
  rfl

/-- A commit notice makes a complete slot ready (R328). -/
theorem execCommit_completes {s : State} {port src hand k n : Nat} {e : WinEntry} (h : Completes s src hand e k n) :
    ∃ t, execCommit port s.devAddr src hand [e] false s = .next t ∧
      t.commits = s.commits ++ [(src, hand)] ∧
      t.sigrs = s.sigrs.map (fun g => if g.src = src ∧ g.hand = hand then { g with committed := true } else g) ∧
      mget {} (t.win e.face e.win).slots k =
        { mget {} (s.win e.face e.win).slots k with st := .ready, number := n, stampLo := e.stampLo, stampHi := e.stampHi } := by
  obtain ⟨⟨ha, hc, hp⟩, hf, ⟨ho, hsrc⟩, hk, hb, hn, ⟨hi, ht, hl⟩⟩ := h
  obtain ⟨b, hb'⟩ := execCommit_one (port := port) (e := e) hl ha hc hp
  rw [noticeEntry_completes (s := s.noticed src hand) hf ho hsrc hk hb hn hi] at hb'
  generalize hu : State.setWin (s.noticed src hand) e.face e.win _ = u at hb'
  have hlocal : (s.noticed src hand).Local u := hu ▸ Local.setWin _ _ _ _
  have hperiod : u.rd R.SYN_TICK_PERIOD.PERIOD 0 = s.rd R.SYN_TICK_PERIOD.PERIOD 0 := by
    rw [← hu, setWin_rd _ _ _ _ _ _ (by decide)]
    rfl
  have hwin : u.win e.face e.win = { s.win e.face e.win with
      slots := mset {} (s.win e.face e.win).slots k { mget {} (s.win e.face e.win).slots k with
        st := .ready, number := n, stampLo := e.stampLo, stampHi := e.stampHi } } := by
    rw [← hu]
    exact setWin_win _ _ _ _
  have hcommits : u.commits = s.commits ++ [(src, hand)] := (congrArg State.commits (show _ = s.noticed src hand from hlocal) :)
  have hsigrs : u.sigrs = s.sigrs.map (fun g => if g.src = src ∧ g.hand = hand then { g with committed := true } else g) :=
    (congrArg State.sigrs (show _ = s.noticed src hand from hlocal) :)
  have hhand : u.hand = s.hand := (congrArg State.hand (show _ = s.noticed src hand from hlocal) :)
  have htick (v : State) (hv : v.rd R.SYN_TICK_PERIOD.PERIOD 0 = u.rd R.SYN_TICK_PERIOD.PERIOD 0) (hh : v.hand = u.hand) : v.ticking = true := by
    rw [State.ticking, hv, hperiod, hh, hhand]
    exact ht
  have hslot : mget {} (u.win e.face e.win).slots k =
      { mget {} (s.win e.face e.win).slots k with st := .ready, number := n, stampLo := e.stampLo, stampHi := e.stampHi } := by
    rw [hwin]
    exact mget_mset_same _ _ _ _
  cases b with
  | false =>
    rw [if_neg Bool.false_ne_true, orNow_ticking (htick u rfl rfl)] at hb'
    exact ⟨u, hb', hcommits, hsigrs, hslot⟩
  | true =>
    rw [if_pos rfl, orNow_ticking (htick _ (rd_bump_apart _ _ _ _ _ (by decide)) rfl)] at hb'
    exact ⟨_, hb', hcommits, hsigrs, hslot⟩

/-- An abort notice drops the hand's SIGRs and parts (R29). -/
theorem execAbort_drops {s : State} (port src hand : Nat) (hl : NoneLost s .abort) (hc : s.commits.contains (src, hand) = false)
    (ha : s.aborts.contains (src, hand) = false) :
    ∃ t, execAbort port s.devAddr src hand s = .next t ∧ t.aborts = s.aborts ++ [(src, hand)] ∧
      t.sigrs = s.sigrs.filter (fun g => !decide (g.src = src ∧ g.hand = hand)) ∧
      t.partials = s.partials.filter (fun e => !decide (e.1 = src ∧ e.2.1 = hand)) := by
  have e : execAbort port s.devAddr src hand s = .next (State.dropHand
      { s with aborts := s.aborts ++ [(src, hand)], sigrs := s.sigrs.filter (fun g => !decide (g.src = src ∧ g.hand = hand))
               partials := s.partials.filter (fun e => !decide (e.1 = src ∧ e.2.1 = hand)) } src hand) := by
    unfold execAbort
    rw [if_neg (not_not_intro rfl), ringGuard_noneLost hl, State.abortNotice, if_neg (ne_true_of_eq_false hc),
      if_neg (ne_true_of_eq_false ha)]
  have hlocal := Local.dropHand
      { s with aborts := s.aborts ++ [(src, hand)], sigrs := s.sigrs.filter (fun g => !decide (g.src = src ∧ g.hand = hand))
               partials := s.partials.filter (fun e => !decide (e.1 = src ∧ e.2.1 = hand)) } src hand
  unfold State.Local at hlocal
  exact ⟨_, e, (congrArg State.aborts hlocal :), (congrArg State.sigrs hlocal :), (congrArg State.partials hlocal :)⟩

/-! ### Answers (R275, R433) -/

/-- A change of the cache's quarters leaves the operations and the scoreboard. -/
theorem cacheSettle_ops (s : State) (f : Nat) : ((s.cacheSettle f).face f).started = (s.face f).started ∧
    ((s.cacheSettle f).face f).sb = (s.face f).sb := by
  unfold State.cacheSettle
  split
  · unfold State.bdyCacheCfg
    extract_lets old new q
    split
    · rw [face_modFace_same]; exact ⟨rfl, rfl⟩
    · split
      · rw [face_modFace_same]; exact ⟨rfl, rfl⟩
      · rw [face_wr, face_wr, face_modFace_same, State.cacheEmpty, face_modFace_same]
        exact ⟨rfl, rfl⟩
  · exact ⟨rfl, rfl⟩

/-- The SEND with its answers taken off. -/
def QOp.answered (q : QOp) (n : Nat) : QOp := { q with left := q.left - n }

theorem answerTo_oneSend {s : State} {f src seq count : Nat} {x : Face} {q : QOp} (h : OneSend s f x q src)
    (hn : 0 < seqOverlap q.seq0 q.sendParcels seq count) :
    s.answerTo src 0 seq count = s.sendAnswer f q 0 (seqOverlap q.seq0 q.sendParcels seq count) := by
  obtain ⟨hfaces, hstarted, ⟨hsend, hdisc, -, hdst⟩, -⟩ := h
  unfold State.answerTo
  rw [hfaces, List.foldl_cons, List.foldl_nil, hstarted, List.foldl_cons, List.foldl_nil]
  exact if_pos (by simp [hsend, hdisc, hdst]; omega)

/-- The state in which the SEND has its answers taken off. -/
theorem oneSend_setOp {s : State} {f src : Nat} {x : Face} {q : QOp} (h : OneSend s f x q src) (n : Nat) :
    (s.setOp f (q.answered n)).face f = { x with started := [q.answered n] } := by
  have hx : s.face f = x := by rw [State.face, h.faces]; simp [mget]
  rw [State.setOp, face_modFace_same, hx, h.started]
  simp [QOp.answered]

theorem sendAnswer_ack (s : State) (f : Nat) (q : QOp) (n : Nat) : s.sendAnswer f q 0 n =
    if q.left - min n q.left = 0 then (s.setOp f (q.answered (min n q.left))).opDone f (q.answered (min n q.left))
    else s.setOp f (q.answered (min n q.left)) := by
  have e : ({ q with left := q.left - min n q.left, nacked := q.nacked || decide (0 ≠ 0) } : QOp) = q.answered (min n q.left) := by
    simp [QOp.answered]
  unfold State.sendAnswer
  dsimp only
  simp only [e, if_true]

/-- An answer takes its parcels off a SEND. -/
theorem execAnswer_counts {s : State} {port f src seq count : Nat} {x : Face} {q : QOp} (h : OneSend s f x q src)
    (hn : 0 < seqOverlap q.seq0 q.sendParcels seq count) (hl : seqOverlap q.seq0 q.sendParcels seq count < q.left) :
    ∃ t, execAnswer port s.devAddr src 0 seq count s = .next t ∧
      (t.face f).started = [{ q with left := q.left - seqOverlap q.seq0 q.sendParcels seq count }] := by
  refine ⟨_, congrArg Host.Outcome.next ((if_neg (not_not_intro rfl)).trans ((answerTo_oneSend h hn).trans
    ((sendAnswer_ack _ _ _ _).trans (if_neg (by omega))))), ?_⟩
  rw [Nat.min_eq_left (Nat.le_of_lt hl), oneSend_setOp h]
  rfl

/-- The last answer completes a SEND that signals nothing. -/
theorem execAnswer_completes {s : State} {port f src seq count : Nat} {x : Face} {q : QOp} (h : OneSend s f x q src)
    (hn : 0 < seqOverlap q.seq0 q.sendParcels seq count) (hl : q.left ≤ seqOverlap q.seq0 q.sendParcels seq count) :
    ∃ t, execAnswer port s.devAddr src 0 seq count s = .next t ∧
      (t.face f).started = [] ∧ (t.face f).sb = x.sb.filter (fun e => decide (e.op ≠ q.id)) := by
  refine ⟨_, congrArg Host.Outcome.next ((if_neg (not_not_intro rfl)).trans ((answerTo_oneSend h hn).trans
    ((sendAnswer_ack _ _ _ _).trans (if_pos (by omega))))), ?_⟩
  generalize hm : min (seqOverlap q.seq0 q.sendParcels seq count) q.left = m
  have hleave : ((s.setOp f (q.answered m)).opLeave f (q.answered m)).face f =
      { x with started := [], sb := x.sb.filter (fun e => decide (e.op ≠ q.id)) } := by
    rw [State.opLeave, face_modFace_same, oneSend_setOp h]
    simp only [QOp.answered, ne_eq, not_true_eq_false, decide_false, Bool.false_eq_true, if_false, List.filter_cons, List.filter_nil]
    rfl
  have hdone : (s.setOp f (q.answered m)).opDone f (q.answered m) =
      ((s.setOp f (q.answered m)).opLeave f (q.answered m)).cacheSettle f := by
    have hcen : ((q.answered m).discard || !(q.answered m).cen) = true := by
      rw [show (q.answered m).cen = q.cen from rfl, h.send.2.2.1]
      simp
    have hwake : ((s.setOp f (q.answered m)).opLeave f (q.answered m)).wake f = (s.setOp f (q.answered m)).opLeave f (q.answered m) := by
      unfold State.wake
      dsimp only
      rw [hleave]
      dsimp only
      rw [h.run]
    unfold State.opDone
    dsimp only
    rw [if_pos hcen, hwake]
  obtain ⟨hstarted, hsb⟩ := cacheSettle_ops ((s.setOp f (q.answered m)).opLeave f (q.answered m)) f
  rw [hdone, hstarted, hsb, hleave]
  exact ⟨rfl, rfl⟩

end Sys2Proof.Machine
end

section
open Sys2Proof Sys2Proof.Machine Sys2Proof.Claims

/-- Settles O55: each clause is the lemma of its command.  That the seal is checked behind checks 1 to 6 of R326, so that the CLOSED clause needs no
seal, is the model's choice (log entry 53). -/
theorem windowResults : Obligations.WindowResults := by
  unfold Obligations.WindowResults
  intro s
  refine ⟨fun f w i hf hw hi => hi ▸ windowOpenClose hf hw, fun port p k h => execDataParcel_lands h,
    fun port p i hd he hf hw hs hl hk hi => execDataParcel_closed hd he hf hw hs hl hk hi,
    fun port p hd he hf hw hm hseal hl => execDataParcel_history hd he hf hw hm hseal hl,
    fun port p hd he ha hc hf hseal => execSigrParcel_held hd he ha hc hf hseal,
    fun port src hand wins hl => ⟨_, execCommit_part port src hand wins hl, rfl, rfl⟩,
    fun port src hand e k n h => execCommit_completes h, fun port src hand hl hc ha => execAbort_drops port src hand hl hc ha,
    fun port src seq count f x q h hn => ⟨execAnswer_counts h hn, execAnswer_completes h hn⟩⟩
end
section
/-! Replicas: what the manager, the stages and the standby keep of them (16_many_devices.md R455 to R469, 01_ticks_and_hands.md R45, R46). -/
namespace Sys2Proof.Machine
open Sys2Proof.Claims

/-! ### The manager's record of a replica -/

theorem rep_modRep (s : State) (r : Nat) (g : Rep → Rep) : (s.modRep r g).rep r = g (s.rep r) := mget_mset_same _ _ _ _

theorem repState_wr (s : State) (r st : Nat) : (s.wr R.SYN_REPLICA.STATE r st).repState r = st % 2 ^ R.SYN_REPLICA.STATE.wd :=
  rd_wr_same _ R.SYN_REPLICA.STATE _ _ (by decide)

/-! ### Holds on this device (R460, R463) -/

theorem takeHold_own {s : State} {r : Nat} (h : OwnReplica s r) (on : Bool) (first : Nat) :
    s.takeHold r on first = { s with holds := s.holds ++ [(first, on)] } := by
  obtain ⟨k, n, hp⟩ := h
  rw [State.takeHold, hp]
  exact if_pos rfl

theorem takeHold_notOwn {s : State} {r : Nat} (h : NotOwn s r) (on : Bool) (first : Nat) : s.takeHold r on first = s := by
  unfold State.takeHold
  split
  · next k own n hp => exact if_neg (fun e : own = r => h k n (e ▸ hp))
  · rfl

theorem takeReplica_notOwn {s : State} {r : Nat} (h : NotOwn s r) (st first : Nat) : s.takeReplica r st first = s := by
  unfold State.takeReplica
  split
  · next k own n hp => exact if_pos (fun e : own = r => h k n (e ▸ hp))
  · rfl

theorem takeReplica_down {s : State} {r st : Nat} (h : OwnReplica s r) (hs : st ∈ [4, 5]) (first : Nat) :
    s.takeReplica r st first = s.takeHold r true first := by
  obtain ⟨k, n, hp⟩ := h
  have hst : st = 4 ∨ st = 5 := by simpa using hs
  rw [State.takeReplica, hp]
  dsimp only
  rw [if_neg (not_not_intro rfl), if_neg (by omega), if_pos hst]

theorem takeReplica_active {s : State} {r : Nat} (h : OwnReplica s r) (first : Nat) : s.takeReplica r 2 first = s.takeHold r false first := by
  obtain ⟨k, n, hp⟩ := h
  rw [State.takeReplica, hp]
  exact (if_neg (not_not_intro rfl)).trans ((if_neg (by decide)).trans ((if_neg (by decide)).trans (if_pos rfl)))

theorem Sends.place {s t : State} (h : s.Sends t) : t.place = s.place := Sends.same (h := h) (p := State.place) (fun _ _ _ _ => rfl)
theorem Sends.holds {s t : State} (h : s.Sends t) : t.holds = s.holds := Sends.same (h := h) (p := State.holds) (fun _ _ _ _ => rfl)
theorem Sends.reps {s t : State} (h : s.Sends t) : t.reps = s.reps := Sends.same (h := h) (p := State.reps) (fun _ _ _ _ => rfl)

theorem Sends.rep {s t : State} (h : s.Sends t) (r : Nat) : t.rep r = s.rep r := by rw [State.rep, State.rep, Sends.reps h]

theorem notOwn_of {s t : State} {r : Nat} (h : NotOwn s r) (e : t.place = s.place) : NotOwn t r := fun k n => e ▸ h k n

/-- A hold that reaches this device along the tree is kept. -/
theorem takesHold_sent {s t : State} {r : Nat} (ho : OwnReplica s r) (hs : s.Sends t) (on : Bool) (first : Nat) :
    TakesHold s on first (({ t with obeys := true } : State).takeHold r on first) := by
  have hown : OwnReplica ({ t with obeys := true } : State) r := by
    obtain ⟨k, n, hp⟩ := ho
    exact ⟨k, n, (Sends.place hs).trans hp⟩
  have hholds : t.holds = s.holds := Sends.holds hs
  rw [takeHold_own hown]
  refine ⟨congrArg (· ++ [(first, on)]) hholds, ?_⟩
  have hobeys : t.obeys = s.obeys := Sends.same (h := hs) (p := State.obeys) (fun _ _ _ _ => rfl)
  rw [← hobeys, ← hholds]
  exact hs

section
variable {s : State} {port term r : Nat} (hm : FromManager s port term) (hl : NoneLost s .role) (ho : OwnReplica s r)
include hm hl

theorem execHold_obeyed (on : Bool) (first : Nat) : execHold port term r on first s =
    .next (({ s.sendTree (.role 6 [term, r, if on then 1 else 0, first]) with obeys := true } : State).takeHold r on first) := by
  unfold execHold
  rw [if_neg (by simp [hm.parent, hm.term]), ringGuard_noneLost (noneLost_of hl (Sends.ringLost (Sends.sendTree _ _)))]

theorem execReplica_obeyed (st first : Nat) : execReplica port term r st first s =
    .next (({ s.sendTree (.role 7 [term, r, st, first]) with obeys := true } : State).takeReplica r st first) := by
  unfold execReplica
  rw [if_neg (by simp [hm.parent, hm.term]), ringGuard_noneLost (noneLost_of hl (Sends.ringLost (Sends.sendTree _ _)))]

include ho

/-- HOLD and REPLICA are kept by the stages of their replica. -/
theorem holdsKept (first : Nat) :
    (∀ on, ∃ t, execHold port term r on first s = .next t ∧ TakesHold s on first t) ∧
      (∀ st ∈ [4, 5], ∃ t, execReplica port term r st first s = .next t ∧ TakesHold s true first t) ∧
      ∃ t, execReplica port term r 2 first s = .next t ∧ TakesHold s false first t := by
  have hown (m : Msg) : OwnReplica ({ s.sendTree m with obeys := true } : State) r := by
    obtain ⟨k, n, hp⟩ := ho
    exact ⟨k, n, (Sends.place (Sends.sendTree s m)).trans hp⟩
  refine ⟨fun on => ⟨_, execHold_obeyed hm hl on first, takesHold_sent ho (Sends.sendTree _ _) on first⟩, fun st hst => ?_, ?_⟩
  · rw [execReplica_obeyed hm hl, takeReplica_down (hown _) hst]
    exact ⟨_, rfl, takesHold_sent ho (Sends.sendTree _ _) true first⟩
  · rw [execReplica_obeyed hm hl, takeReplica_active (hown _)]
    exact ⟨_, rfl, takesHold_sent ho (Sends.sendTree _ _) false first⟩

end

/-! ### Reports (R45, R459, R468) -/

/-- A state report of a device of a replica that does not join is kept. -/
theorem execState_kept {s : State} {term r src k : Nat} (port hand version flags : Nat) (hm : s.isManager = true) (ht : s.term ≤ term)
    (hs : s.stageOf src = some (k, r)) (hj : (s.rep r).join = none) (hl : NoneLost s .role) :
    execState port s.devAddr src term hand version flags s =
      .next (s.modRep r (fun x => { x with states := mset (0, 0, 0) x.states src (hand, version, flags + 16) })) := by
  unfold execState
  rw [if_neg (not_not_intro rfl), if_neg (Nat.not_lt.mpr ht), if_pos hm, ringGuard_noneLost hl, State.stateReport, hs]
  dsimp only
  unfold State.joinCheck
  extract_lets x devs
  have hx : x.join = none := (congrArg Rep.join (rep_modRep _ _ _)).trans hj
  rw [hx]

/-- What a report in time leaves of its stage (R459). -/
def Rep.reported (x : Rep) (k outcome hand : Nat) : Rep :=
  { x with
    seen := mset 0 x.seen k (hand + 1)
    missing := mset 0 x.missing k (if outcome = 2 then mget 0 x.missing k + 1 else 0)
    clean := mset 0 x.clean k (if outcome = 0 then mget 0 x.clean k + 1 else 0) }

theorem execReport_manager {s : State} {src widths : Nat} (port outcome hand slack rates backlog : Nat) (hm : s.isManager = true)
    (hw : badWidths widths = false) :
    execReport port s.devAddr src outcome hand slack widths rates backlog s = .next (s.managerReport src outcome hand) := by
  unfold execReport
  rw [if_neg (not_not_intro rfl), hw]
  exact congrArg _ (if_pos hm)

/-- A report in time that is no misdeal is counted of its stage. -/
theorem managerReport_counts {s : State} {src k r outcome hand : Nat} (hs : s.stageOf src = some (k, r)) (hh : s.announced < hand + 2)
    (ho : outcome = 0 ∨ outcome = 2) : s.managerReport src outcome hand = s.modRep r (fun x => x.reported k outcome hand) := by
  unfold State.managerReport
  rw [hs]
  dsimp only
  rw [if_pos (by omega), if_neg (by omega)]
  rfl

theorem withdrawPlays_reps (s : State) (src : Nat) : (s.withdrawPlays src).reps = s.reps := by
  have h (l : SMap DTrick) : ∀ t : State, (l.foldl (fun t e =>
      if e.2.counts.any (fun c => c.2.contains src) then
        let cs := (e.2.counts.map (fun c => (c.1, c.2.filter (fun d => decide (d ≠ src))))).filter (fun c => decide (c.2 ≠ []))
        ({ t with dtricks := mset {} t.dtricks e.1 { e.2 with counts := cs } }).dtrickShow e.1
      else t) t).reps = t.reps := by
    induction l with
    | nil => exact fun t => rfl
    | cons e l ih =>
      intro t
      rw [List.foldl_cons, ih]
      split <;> rfl
  exact h _ s

/-- On a misdeal the limit of the replica falls, and an empty slot is owed (R45). -/
theorem managerReport_misdeal {s : State} {src k r : Nat} (hand : Nat) (hs : s.stageOf src = some (k, r)) :
    ((s.managerReport src 1 hand).rep r).limit = (if s.rd R.SYN_BATCH_CTL.SHRINK 0 = 0 then (s.rep r).limit else
      some (min ((s.rep r).limit.getD s.seatMax) (max (s.rd R.SYN_BATCH_CTL.MIN_SEATS 0) ((s.rep r).limit.getD s.seatMax -
        max 1 ((s.rep r).limit.getD s.seatMax * s.rd R.SYN_BATCH_CTL.SHRINK 0 / 16))))) ∧
      ((s.managerReport src 1 hand).rep r).emptyOwed = (s.rep r).emptyOwed + s.rd R.SYN_BATCH_CTL.EMPTY_EN 0 := by
  unfold State.managerReport
  rw [hs]
  dsimp only
  rw [if_neg (not_not_intro rfl)]
  generalize hu : (if hand + 2 ≤ s.announced then s else _) = u
  have hrep : (u.rep r).limit = (s.rep r).limit ∧ (u.rep r).emptyOwed = (s.rep r).emptyOwed := by
    rw [← hu]
    split
    · exact ⟨rfl, rfl⟩
    · rw [rep_modRep]; exact ⟨rfl, rfl⟩
  obtain ⟨hlim, howed⟩ := hrep
  have hen : s.rd R.SYN_BATCH_CTL.EMPTY_EN 0 < 2 := rd_lt s R.SYN_BATCH_CTL.EMPTY_EN 0
  rw [State.rep, withdrawPlays_reps, ← State.rep, rep_modRep]
  dsimp only
  rw [hlim, howed]
  refine ⟨rfl, ?_⟩
  split <;> omega

/-! ### Holds, their lift and declarations by the manager (R459, R461, R463) -/

/-- A new state of a replica of which this device holds no stage. -/
theorem sayReplica_sends {s : State} {r : Nat} (hn : NotOwn s r) (st first : Nat) : (s.wr R.SYN_REPLICA.STATE r st).Sends (s.sayReplica r st first) := by
  have hs := Sends.sendTree (s.wr R.SYN_REPLICA.STATE r st) (.role 7 [s.term, r, st, first])
  rw [State.sayReplica, takeReplica_notOwn (notOwn_of hn (Sends.place hs :))]
  exact hs

section
variable {s : State} {r : Nat} (hm : s.isManager = true) (hn : NotOwn s r)
include hm hn

theorem execReplicaHold_holds (hr : s.repState r = 2 ∨ s.repState r = 6)
    (ho : (stageOver (s.rep r).missing (s.rd R.SYN_DOMAIN_CFG.HOLD_HANDS 0)).isSome = true) :
    ∃ t, execReplicaHold r s = .next t ∧ t.repState r = 3 ∧
      t.rd R.SYN_DOMAIN_STAT.HOLDS 0 = min (s.rd R.SYN_DOMAIN_STAT.HOLDS 0 + 1) (2 ^ R.SYN_DOMAIN_STAT.HOLDS.wd - 1) := by
  obtain ⟨k, hk⟩ := Option.isSome_iff_exists.mp ho
  have hs := Sends.sendTree ((s.wr R.SYN_REPLICA.STATE r 3).bump R.SYN_DOMAIN_STAT.HOLDS 0) (.role 6 [s.term, r, 1, s.announced + 1])
  unfold execReplicaHold
  dsimp only
  rw [if_neg (not_or.mpr ⟨by rw [hm]; nofun, by omega⟩), hk]
  dsimp only
  rw [takeHold_notOwn (notOwn_of hn (Sends.place hs :))]
  refine ⟨_, rfl, ?_, ?_⟩
  · exact (Sends.rd hs _ _).trans ((rd_bump_apart _ _ _ _ _ (by decide)).trans (repState_wr s r 3))
  · rw [Sends.rd hs, rd_bump_same _ _ _ (by decide), rd_wr_apart _ _ _ _ _ _ (by decide)]

theorem execHoldLift_lifts (hr : s.repState r = 3)
    (hc : ∀ d ∈ s.stagesOf r, s.rd R.SYN_DOMAIN_CFG.HOLD_HANDS 0 ≤ mget 0 (s.rep r).clean d.2.1) :
    ∃ t, execHoldLift r s = .next t ∧ t.repState r = (if (s.rep r).retire = none then 2 else 6) := by
  have hs := Sends.sendTree (s.wr R.SYN_REPLICA.STATE r (if (s.rep r).retire.isSome then 6 else 2)) (.role 6 [s.term, r, 0, s.announced + 1])
  unfold execHoldLift
  dsimp only
  rw [if_pos ⟨hm, hr, List.all_eq_true.mpr fun d hd => decide_eq_true (hc d hd)⟩, takeHold_notOwn (notOwn_of hn (Sends.place hs :))]
  refine ⟨_, rfl, (Sends.rd hs _ _).trans ((repState_wr s r _).trans ?_)⟩
  cases (s.rep r).retire <;> rfl

/-- A replica of which a stage has been unavailable for FAIL_HANDS hands is declared DOWN. -/
theorem execReplicaDown_declares {k : Nat} (hr : s.repState r = 2 ∨ s.repState r = 3)
    (ho : stageOver (s.rep r).missing (s.rd R.SYN_DOMAIN_CFG.FAIL_HANDS 0) = some k) :
    ∃ t, execReplicaDown r s = .next t ∧ t.repState r = 4 ∧ t.rd R.SYN_REPLICA.CAUSE_VALID r = 1 ∧
      t.rd R.SYN_REPLICA.CAUSE r = k % 2 ^ R.SYN_REPLICA.CAUSE.wd ∧ (t.rep r).down = some (s.announced + 1) := by
  unfold execReplicaDown
  rw [if_neg (not_or.mpr ⟨by rw [hm]; nofun, by omega⟩), ho]
  dsimp only
  unfold State.declare
  extract_lets first dev s1
  generalize hg : (fun x : Rep => ({ x with down := some first, lost := dev, retire := none, join := none } : Rep)) = g
  have hs := sayReplica_sends (s := s1.modRep r g) (r := r) (notOwn_of hn rfl) 4 first
  refine ⟨_, rfl, ?_, ?_, ?_, ?_⟩
  · exact (Sends.rd hs _ _).trans (repState_wr (s1.modRep r g) r 4)
  · exact (Sends.rd hs _ _).trans ((rd_wr_apart _ _ R.SYN_REPLICA.CAUSE_VALID _ _ _ (by decide)).trans
      (rd_wr_same _ R.SYN_REPLICA.CAUSE_VALID _ _ (by decide)))
  · exact (Sends.rd hs _ _).trans ((rd_wr_apart _ _ R.SYN_REPLICA.CAUSE _ _ _ (by decide)).trans
      ((rd_wr_apart _ R.SYN_REPLICA.CAUSE_VALID R.SYN_REPLICA.CAUSE _ _ _ (by decide)).trans (rd_wr_same _ R.SYN_REPLICA.CAUSE _ _ (by decide))))
  · rw [Sends.rep hs]
    refine (congrArg Rep.down (rep_modRep s1 r g)).trans ?_
    rw [← hg]

end

/-! ### Joins and retirement (R468, R469) -/

theorem execJoin_refuses {s : State} (hm : s.isManager = true) (hr : s.repState (s.rd R.SYN_JOIN_CTL.REPLICA 0) = 2) :
    execJoin s = .next (s.joinRefuse 1) := by
  unfold execJoin
  dsimp only
  rw [if_neg (by rw [hm]; nofun), if_pos (by omega)]

theorem joinRefuse_shows (s : State) : (s.joinRefuse 1).rd R.SYN_JOIN_CTL.REFUSE 0 = 1 ∧ (s.joinRefuse 1).rd R.SYN_JOIN_CTL.CODE 0 = 1 ∧
    s.Frame (s.joinRefuse 1) [(R.SYN_JOIN_CTL.REFUSE, 0), (R.SYN_JOIN_CTL.CODE, 0)] [] :=
  ⟨(rd_wr_apart _ _ _ _ _ _ (by decide)).trans (rd_wr_same _ R.SYN_JOIN_CTL.REFUSE _ _ (by decide)),
    rd_wr_same _ R.SYN_JOIN_CTL.CODE _ _ (by decide), Frame.wr (Frame.wr (Frame.refl _ _ _) (by simp)) (by simp)⟩

theorem ticking_of_period {s : State} (h : s.rd R.SYN_TICK_PERIOD.PERIOD 0 ≠ 0) : s.ticking = true := by simp [State.ticking, h]

/-- A join of a replica that is out, for a hand still ahead, begins. -/
theorem execJoin_begins {s : State} {r : Nat} (hm : s.isManager = true) (e : r = s.rd R.SYN_JOIN_CTL.REPLICA 0) (hr : s.repState r = 0)
    (hn : NotOwn s r) (hp : s.rd R.SYN_TICK_PERIOD.PERIOD 0 ≠ 0) (hh : s.announced + 1 < s.rd R.SYN_JOIN_HAND.HAND 0) :
    ∃ t, execJoin s = .next t ∧ t.repState r = 1 ∧ (t.rep r).join = some (s.rd R.SYN_JOIN_HAND.HAND 0, false) := by
  subst e
  unfold execJoin
  extract_lets r h st t
  have hs := sayReplica_sends (s := t) (r := r) (notOwn_of hn rfl) 1 (s.announced + 1)
  have htick : (t.sayReplica r 1 (s.announced + 1)).ticking = true := by
    refine ticking_of_period ?_
    rw [Sends.rd hs, rd_wr_reg _ _ _ _ _ _ (by decide)]
    exact hp
  have hst : st = 0 := hr
  have hh' : s.announced + 1 < h := hh
  rw [if_neg (by rw [hm]; nofun), if_neg (by omega), if_neg (by omega), State.orNow, if_pos htick]
  refine ⟨_, rfl, (Sends.rd hs _ _).trans (repState_wr t r 1), ?_⟩
  rw [Sends.rep hs]
  exact congrArg Rep.join (rep_modRep s r (fun x => { x with join := some (h, false), prior := st, states := [] }))

/-- A retirement of a replica that serves is noted for the boundary. -/
theorem execReplicaRetire_notes {s : State} (hm : s.isManager = true) (hr : s.repState (s.rd R.SYN_RETIRE_CTL.REPLICA 0) = 2)
    (ht : s.ticking = true) :
    execReplicaRetire s = .next (s.modRep (s.rd R.SYN_RETIRE_CTL.REPLICA 0) (fun x =>
      { x with retire := some (decide (s.rd R.SYN_RETIRE_CTL.MODE 0 = 1),
          if s.rd R.SYN_RETIRE_CTL.TIMEOUT 0 = 0 then 0 else s.handNum + s.rd R.SYN_RETIRE_CTL.TIMEOUT 0) })) := by
  unfold execReplicaRetire
  dsimp only
  rw [if_neg (not_or.mpr ⟨by rw [hm]; nofun, by omega⟩)]
  exact congrArg _ (if_pos ht)

/-! ### What the standby keeps of a MIRROR (R455) -/

theorem seat_setSeat_same (s : State) (i : Nat) (x : Seat) : (s.setSeat i x).seat i = x := mget_mset_same _ _ _ _
theorem seat_setSeat_other (s : State) (i j : Nat) (x : Seat) (h : j ≠ i) : (s.setSeat i x).seat j = s.seat j := mget_mset_other _ _ _ _ _ _ h

theorem seatReg_seat (s : State) (i j : Nat) : (s.seatReg i).seat j = s.seat j := by simp only [State.seatReg, State.seat, State.wr_seats]

/-- A MIRROR that reaches the standby and completes no hand is kept. -/
theorem execMirror_kept {s : State} {term : Nat} (port src kind i : Nat) (w : Word) (e : Entry) (ht : s.term ≤ term) (hl : NoneLost s .role) :
    execMirror port s.devAddr src term kind i w e 0 s = .next
      (if kind = 0 then
        { (s.setSeat i (seatOf e)).seatReg i with admitted := max ((s.setSeat i (seatOf e)).seatReg i).admitted ((seatOf e).order + 1) }
      else if kind = 1 then s.mirrorAnte i w e
      else if kind = 3 then s.modRep i (fun x => { x with limit := some (fget w 0 12) })
      else if kind = 4 then s.setReg .SYN_DTRICK_CFG i w
      else if kind = 5 then s.setReg .SYN_REPLICA i w
      else if kind = 6 then { s with dtricks := mset {} s.dtricks i { mget {} s.dtricks i with
        counts := mset [] (mget {} s.dtricks i).counts w.toNat (e.words.map BitVec.toNat) } }
      else s) := by
  unfold execMirror
  rw [if_neg (not_not_intro rfl), if_neg (Nat.not_lt.mpr ht), ringGuard_noneLost hl]
  rfl

/-- The standby keeps what a MIRROR tells it, by its kind. -/
theorem mirrorsKept {s : State} {term : Nat} (port src r i : Nat) (w : Word) (e : Entry) (ht : s.term ≤ term) (hl : NoneLost s .role) :
    (∃ t, execMirror port s.devAddr src term 0 i w e 0 s = .next t ∧ t.seat i = seatOf e ∧ ∀ j, j ≠ i → t.seat j = s.seat j) ∧
      (∃ t, execMirror port s.devAddr src term 3 r w e 0 s = .next t ∧ (t.rep r).limit = some (fget w 0 12) ∧ { t with reps := s.reps } = s) ∧
      (∃ t, execMirror port s.devAddr src term 4 i w e 0 s = .next t ∧ t.reg .SYN_DTRICK_CFG i = w ∧ s.Frame t [whole .SYN_DTRICK_CFG i] []) ∧
      (∃ t, execMirror port s.devAddr src term 5 r w e 0 s = .next t ∧ t.reg .SYN_REPLICA r = w ∧ s.Frame t [whole .SYN_REPLICA r] []) ∧
      ∃ t, execMirror port s.devAddr src term 6 i w e 0 s = .next t ∧ t.dtrickPlays i w.toNat = e.words.map BitVec.toNat ∧
        { t with dtricks := s.dtricks } = s := by
  refine ⟨⟨{ (s.setSeat i (seatOf e)).seatReg i with admitted := max ((s.setSeat i (seatOf e)).seatReg i).admitted ((seatOf e).order + 1) },
      execMirror_kept port src 0 i w e ht hl, ?_, fun j hj => ?_⟩,
    ⟨s.modRep r (fun x => { x with limit := some (fget w 0 12) }), execMirror_kept port src 3 r w e ht hl, congrArg Rep.limit (rep_modRep _ _ _), rfl⟩,
    ⟨s.setReg .SYN_DTRICK_CFG i w, execMirror_kept port src 4 i w e ht hl, mget_mset_same _ _ _ _, Frame.setReg (Frame.refl _ _ _) (by simp)⟩,
    ⟨s.setReg .SYN_REPLICA r w, execMirror_kept port src 5 r w e ht hl, mget_mset_same _ _ _ _, Frame.setReg (Frame.refl _ _ _) (by simp)⟩,
    ⟨{ s with dtricks := mset {} s.dtricks i { mget {} s.dtricks i with
        counts := mset [] (mget {} s.dtricks i).counts w.toNat (e.words.map BitVec.toNat) } }, execMirror_kept port src 6 i w e ht hl, ?_, rfl⟩⟩
  · exact (seatReg_seat _ i i).trans (seat_setSeat_same s i (seatOf e))
  · exact (seatReg_seat _ i j).trans (seat_setSeat_other s i j (seatOf e) hj)
  · refine (congrArg (fun d : DTrick => mget [] d.counts w.toNat) (mget_mset_same {} s.dtricks i { mget {} s.dtricks i with
      counts := mset [] (mget {} s.dtricks i).counts w.toNat (e.words.map BitVec.toNat) })).trans ?_
    exact mget_mset_same _ _ _ _

end Sys2Proof.Machine
end

section
open Sys2Proof Sys2Proof.Machine Sys2Proof.Claims

/-- Settles O50: each clause is the lemma of its command.  Choices of the model: the report of a missed tick leaves the seat limit (log entry 72), the
limit that falls never rises by MIN_SEATS (log entry 66), and the kinds and the layout of a MIRROR (log entries 76 and 81). -/
theorem replicaResults : Obligations.ReplicaResults := by
  unfold Obligations.ReplicaResults
  intro s port term r first src
  refine ⟨fun hm hl ho => holdsKept hm hl ho first, fun hand version flags k hm ht hs hj hl => ?_,
    fun outcome hand slack widths rates backlog k cur sh hm hs hw hcur hsh => ⟨fun hh ho => ?_, ?_⟩, fun hm hn hc => ?_,
    fun hm hn => ⟨execReplicaHold_holds hm hn, execHoldLift_lifts hm hn, fun k => execReplicaDown_declares hm hn⟩,
    fun hm hr => ⟨fun hs => ⟨_, execJoin_refuses hm (hr ▸ hs), joinRefuse_shows s⟩, execJoin_begins hm hr⟩, fun hm hr hs ht => ?_,
    fun i w e ht hl => mirrorsKept port src r i w e ht hl⟩
  · exact ⟨_, execState_kept port hand version flags hm ht hs hj hl, by rw [rep_modRep]; exact mget_mset_same _ _ _ _, rfl⟩
  · refine ⟨_, execReport_manager port outcome hand slack rates backlog hm hw, ?_⟩
    rw [managerReport_counts hs hh ho, rep_modRep]
    exact ⟨mget_mset_same _ _ _ _, mget_mset_same _ _ _ _, mget_mset_same _ _ _ _, rfl, rfl⟩
  · subst hcur hsh
    exact ⟨_, execReport_manager port 1 hand slack rates backlog hm hw, managerReport_misdeal hand hs⟩
  · exact ⟨_, congrArg Host.Outcome.next (if_pos ⟨hm, hn, hc⟩), congrArg Rep.limit (rep_modRep _ _ _), congrArg Rep.cleanHands (rep_modRep _ _ _), rfl⟩
  · subst hr
    exact ⟨_, execReplicaRetire_notes hm hs ht, rfl, congrArg Rep.retire (rep_modRep _ _ _)⟩
end
section
/-! SUPPORT. What the steps at the end of a hand leave alone: the registers that number and count the hands, device time and the plan of the
announcements, what has left the device and, once the hand is over, that it is over.  `Calm off a t` says it of the state `t` reached from `a`,
and each operation has one lemma, whose proof has the shape of the operation (01_ticks_and_hands.md R24, R33, R41). -/
namespace Sys2Proof.Machine
open Sys2Proof.Claims

/-! ### The relation -/

/-- The fields that number and count the hands, and those that plan the ticks. -/
def handFlds : List Fld := [R.SYN_HAND_COMMITTED.HAND, R.SYN_HAND_COUNTS.MISDEALS, R.SYN_HAND_NUM.HAND, R.PLT_CAP_FACES.COUNT,
  R.SYN_TICK_PERIOD.PERIOD, R.SYN_TICK_LEAD.LEAD]

/-- Registers that hold none of these fields. -/
def RegId.calm (r : RegId) : Bool := handFlds.all (fun g => decide (g.reg ≠ r))

/-- Fields apart from them. -/
def Fld.calm (f : Fld) : Bool := handFlds.all (fun g => decide (g.reg ≠ f.reg) || f.apart g)

/-- Neither a hand nor a tick without one is under way. -/
def HandSt.isOver (x : HandSt) : Prop := x.running = false ∧ x.idle = false ∧ x.abortOwed = none

/-- Device time, and what the next announcement is reckoned from. -/
def State.plan (s : State) : Nat × Nat × Nat := (s.now, s.annDue, s.hand.annPeriod)

/-- `t`, reached from `a`, has the numbers, counts and plan of `a`, and what had left the device has left it; and where `off` says that the hand is
over, it is so in `t`, on every face. -/
structure Calm (off : Prop) (a t : State) : Prop where
  rd : ∀ g ∈ handFlds, t.rd g 0 = a.rd g 0
  plan : t.plan = a.plan
  hand : off → t.hand.isOver
  faces : off → ∀ f < a.nFaces, (t.face f).run = .off
  out : ∀ o ∈ a.out, o ∈ t.out

variable {off : Prop} {a s t u : State}

theorem Calm.refl (s : State) : Calm False s s := ⟨fun _ _ => rfl, rfl, False.elim, False.elim, fun _ k => k⟩

/-! ### Changes of the state -/

/-- What `Calm` speaks of. -/
def State.calmPart (s : State) : SMap Word × SMap Face × (Nat × Nat × Nat) × (Bool × Bool × Option Nat) × List Out :=
  (s.regs, s.faces, s.plan, (s.hand.running, s.hand.idle, s.hand.abortOwed), s.out)

/-- A state with the registers, faces and plan of one that is reached. -/
theorem Calm.of_regs_faces (h : Calm off a s) (hr : t.regs = s.regs) (hf : t.faces = s.faces) (hp : t.plan = s.plan)
    (hh : s.hand.isOver → t.hand.isOver) (ho : ∀ o ∈ s.out, o ∈ t.out) : Calm off a t := by
  have hrd (g : Fld) (i : Nat) : t.rd g i = s.rd g i := by rw [State.rd, State.reg, hr]; rfl
  have hface (f : Nat) : t.face f = s.face f := by rw [State.face, hf]; rfl
  exact ⟨fun g hg => (hrd g 0).trans (h.rd g hg), hp.trans h.plan, fun k => hh (h.hand k), fun k f hn => by rw [hface]; exact h.faces k f hn,
    fun o hm => ho o (h.out o hm)⟩

theorem Calm.same (h : Calm off a s) (he : t.calmPart = s.calmPart) : Calm off a t := by
  simp only [State.calmPart, Prod.mk.injEq] at he
  obtain ⟨hr, hf, hp, ⟨hn, hi, hb⟩, ho⟩ := he
  exact h.of_regs_faces hr hf hp (by simp [HandSt.isOver, hn, hi, hb]) (fun o k => ho ▸ k)

/-- Registers changed beside the fields that are kept. -/
theorem Calm.regs (h : Calm off a s) (hr : ∀ g ∈ handFlds, t.rd g 0 = s.rd g 0) (he : { t with regs := s.regs } = s) : Calm off a t := by
  have hh : t.hand = s.hand := (congrArg State.hand he :)
  have hf : t.faces = s.faces := (congrArg State.faces he :)
  have ho : t.out = s.out := (congrArg State.out he :)
  refine ⟨fun g hg => (hr g hg).trans (h.rd g hg), Eq.trans (congrArg State.plan he :) h.plan, fun k => hh ▸ h.hand k, fun k f hn => ?_, fun o hm => ?_⟩
  · rw [State.face, hf]; exact h.faces k f hn
  · rw [ho]; exact h.out o hm

theorem Calm.setReg {r : RegId} {i : Nat} {v : Word} (h : Calm off a s) (hr : r.calm = true ) : Calm off a (s.setReg r i v) :=
  h.regs (fun g hg => rd_setReg_ne _ _ _ _ _ _ (by simpa using List.all_eq_true.mp hr g hg)) rfl

theorem Calm.wr {f : Fld} {i v : Nat} (h : Calm off a s) (hf : f.calm = true ) : Calm off a (s.wr f i v) := by
  refine h.regs (fun g hg => ?_) rfl
  rcases Bool.or_eq_true _ _ ▸ List.all_eq_true.mp hf g hg with hr | ha
  · exact rd_wr_reg _ _ _ _ _ _ (of_decide_eq_true hr)
  · exact rd_wr_apart _ _ _ _ _ _ ha

theorem Calm.bumpBy {f : Fld} {i n : Nat} (h : Calm off a s) (hf : f.calm = true ) : Calm off a (s.bumpBy f i n) := h.wr hf
theorem Calm.bump {f : Fld} {i : Nat} (h : Calm off a s) (hf : f.calm = true ) : Calm off a (s.bump f i) := h.bumpBy hf
theorem Calm.wrB {f : Fld} {i : Nat} {b : Bool} (h : Calm off a s) (hf : f.calm = true ) : Calm off a (s.wrB f i b) := h.wr hf

/-- A face changed: one that is off stays off. -/
theorem Calm.setFace {f : Nat} {x : Face} (h : Calm off a s) (hx : off → (s.face f).run = .off → x.run = .off) : Calm off a (s.setFace f x) := by
  refine ⟨h.rd, h.plan, h.hand, fun k g hn => ?_, h.out⟩
  by_cases e : g = f
  · rw [e, face_setFace_same]; exact hx k (h.faces k f (e ▸ hn))
  · rw [face_setFace_other _ _ _ _ e]; exact h.faces k g hn

theorem Calm.modFaceOff {f : Nat} {g : Face → Face} (h : Calm off a s) (hg : off → ∀ x, x.run = .off → (g x).run = .off) :
    Calm off a (s.modFace f g) := h.setFace (fun k => hg k _)

theorem Calm.modFace {f : Nat} {g : Face → Face} (h : Calm off a s) (hg : ∀ x, (g x).run = x.run) : Calm off a (s.modFace f g) :=
  h.modFaceOff fun _ x k => (hg x).trans k

theorem Calm.emit {o : Out} (h : Calm off a s) : Calm off a (s.emit o) := h.of_regs_faces rfl rfl rfl id fun _ k => List.mem_append_left _ k

/-! ### Branches and loops -/

theorem Calm.ite {c : Prop} [Decidable c] (h : Calm off a s) (k : Calm off a t) : Calm off a (if c then s else t) := by split <;> assumption

theorem Calm.ite_fst {β : Type} {x y : State × β} {c : Prop} [Decidable c] (h : Calm off a x.1) (k : Calm off a y.1) :
    Calm off a (if c then x else y).1 := by split <;> assumption

theorem Calm.foldl {α : Type} {l : List α} {g : State → α → State} (h : Calm off a s) (hg : ∀ u e, Calm off a u → Calm off a (g u e)) :
    Calm off a (l.foldl g s) := by
  induction l generalizing s with
  | nil => exact h
  | cons e l ih => exact ih (hg _ _ h)

theorem Calm.loop {n : Nat} {g : State → Nat → State} (h : Calm off a s) (hg : ∀ u i, Calm off a u → Calm off a (g u i)) :
    Calm off a (loop n s g) := h.foldl hg

theorem Calm.loop_fst {β : Type} {n : Nat} {x : State × β} {g : State × β → Nat → State × β} (h : Calm off a x.1)
    (hg : ∀ u i, Calm off a u.1 → Calm off a (g u i).1) : Calm off a (Machine.loop n x g).1 :=
  loop_ind (P := fun y : State × β => Calm off a y.1) n x g h (fun u i _ => hg u i)

/-! ### Registers that return to reset -/

/-- An entry whose key is kept, with its value, leaves what the map reads there. -/
theorem mget_filterMap_kept {α : Type} (d : α) {g : Nat × α → Option (Nat × α)} {k : Nat} (hk : ∀ e, e.1 = k → g e = some e)
    (ho : ∀ e e', e.1 ≠ k → g e = some e' → e'.1 ≠ k) (m : SMap α) : mget d (m.filterMap g) k = mget d m k := by
  induction m with
  | nil => rfl
  | cons e m ih =>
    by_cases he : e.1 = k
    · rw [List.filterMap_cons_some (hk e he)]
      simp [mget, he]
    · cases hg : g e with
      | none => rw [List.filterMap_cons_none hg, ih]; simp [mget, Ne.symm he]
      | some e' => rw [List.filterMap_cons_some hg]; simp [mget, Ne.symm he, Ne.symm (ho e e' he hg), ih]

/-- A register that no reset names stands. -/
theorem reg_resetWhere_kept (s : State) {q : RegId → Nat → Bool} {r : RegId} {i : Nat} (hq : q r i = false) : (s.resetWhere q).reg r i = s.reg r i := by
  have hk := ctorIdx_lt r
  have h1 : regKey r i % 256 = r.ctorIdx := by simp only [regKey]; omega
  have h2 : regKey r i / 256 = i := by simp only [regKey]; omega
  refine mget_filterMap_kept _ (fun e he => ?_) (fun e e' he hg => ?_) _
  · rw [he, h1, h2, allRegs_ctorIdx]
    simp [hq]
  · split at hg
    · cases hg; exact he
    · split at hg
      · dsimp only at hg
        split at hg
        · cases hg
        · cases hg; exact he
      · cases hg; exact he

theorem Calm.resetWhere {q : RegId → Nat → Bool} (h : Calm off a s) (hq : ∀ g ∈ handFlds, q g.reg 0 = false) : Calm off a (s.resetWhere q) :=
  h.regs (fun g hg => by rw [State.rd, reg_resetWhere_kept s (hq g hg)]; rfl) rfl

theorem Calm.resetDomain {d : Dom} {q : RegId → Nat → Bool} (h : Calm off a s) (hd : ∀ g ∈ handFlds, (regInfo g.reg).dom ≠ d) :
    Calm off a (s.resetDomain d q) := h.resetWhere (fun g hg => by simp [hd g hg])

theorem Calm.resetRegs {rs : List RegId} (h : Calm off a s) (hr : ∀ g ∈ handFlds, g.reg ∉ rs) : Calm off a (s.resetRegs rs) := by
  refine h.regs (fun g hg => ?_) rfl
  have hk := ctorIdx_lt g.reg
  have h1 : regKey g.reg 0 % 256 = g.reg.ctorIdx := by simp only [regKey]; omega
  rw [State.rd, State.reg, State.resetRegs, ← List.filterMap_eq_filter]
  refine congrArg (fun w => fget w g.lo g.wd) (mget_filterMap_kept _ (fun e he => ?_) (fun e e' he hg' => ?_) _)
  · have : rs.any (fun r => decide (r.ctorIdx = e.1 % 256)) = false := by
      rw [List.any_eq_false]
      intro r hm
      rw [he, h1, decide_eq_true_eq]
      exact fun k => hr g hg (ctorIdx_inj k ▸ hm)
    simp [Option.guard, this]
  · rw [Option.guard_eq_some_iff] at hg'
    exact hg'.1 ▸ he

end Sys2Proof.Machine
end
section
/-! SUPPORT. `Calm`, for the faults, the windows, the counters, the memory and the ports: the operations that the boundary's own steps call. -/
namespace Sys2Proof.Machine
open Sys2Proof.Claims

variable {off : Prop} {a s : State}

/-! ### Faults and injections (21_faults_and_recovery.md) -/

theorem Calm.inject {d : Det} {u : Nat} {p : Nat → Bool} {r : Nat × State} (h : Calm off a s) (hr : s.inject d u p = some r) : Calm off a r.2 := by
  unfold State.inject at hr
  split at hr
  · cases hr
  · cases hr
    have k {x y} : Calm off a { s with injs := x, injLive := y } := h.same rfl
    exact (Calm.ite (k.bump rfl |>.wr rfl) (k.bump rfl)).wr rfl |>.ite (k.bump rfl |>.wr rfl |>.ite (k.bump rfl))

theorem Calm.forced {d : Det} {u : Nat} (h : Calm off a s) : Calm off a (s.forced d u).2 := by
  unfold State.forced
  split
  · next hr => exact h.inject hr
  · exact h

theorem Calm.marked {e : Event} (h : Calm off a s) : Calm off a (s.marked e).1 := by
  unfold State.marked
  split
  · exact h.same rfl
  · split
    · next hr => exact h.inject hr
    · exact h

theorem Calm.nvPut {r : FRec} (h : Calm off a s) : Calm off a (s.nvPut r) := h.same rfl

theorem Calm.raise {e : Event} (h : Calm off a s) : Calm off a (s.raise e) := by
  have k : Calm off a (s.marked e).1 := h.marked
  unfold State.raise
  refine Calm.ite (k.bump rfl) ?_
  split
  · exact k.same rfl
  · exact Calm.ite (k.same (by rfl) |>.wr rfl) ((Calm.ite (Calm.nvPut (k.same (by rfl))) (k.same (by rfl))).bump rfl |>.wr rfl)

theorem Calm.draw (h : Calm off a s) : Calm off a s.draw.2 := h.same rfl

theorem Calm.setDown {f : Nat} {b : Bool} (h : Calm off a s) : Calm off a (s.setDown f b) := h.wr rfl

theorem Calm.trickGone {f i : Nat} (h : Calm off a s) : Calm off a (s.trickGone f i) :=
  Calm.ite (Calm.same (s := (s.wr R.SYN_TRICK_CFG.COUNT i 0).wr R.SYN_TRICK_CFG.ROUNDS i 0) (h.wr rfl |>.wr rfl) rfl) h

theorem Calm.homeLost {f : Nat} (h : Calm off a s) : Calm off a (s.homeLost f) := h.ite (h.loop fun _ _ k => k.trickGone)

theorem Calm.faceFault {f c : Nat} (h : Calm off a s) : Calm off a (s.faceFault f c) := by
  have k {g} (hg : ∀ x : Face, x.run = .off → (g x).run = .off) {e} : Calm off a ((((s.modFace f g).setDown f true).homeLost f).raise e) :=
    (h.modFaceOff fun _ => hg).setDown.homeLost.raise
  exact Calm.ite (Calm.ite ((k fun _ e => if_pos e).modFace (fun _ => rfl)) (k fun _ e => if_pos e)) (k fun _ e => if_pos e)

/-! ### Counters (R310, R312) -/

theorem Calm.ctrAdd {f k : Nat} {n : Int} {t : State} (h : Calm off a s) (ht : s.ctrAdd f k n = some t) : Calm off a t := by
  unfold State.ctrAdd at ht
  dsimp only at ht
  split at ht
  · cases ht; exact h.modFace fun _ => rfl
  · cases ht

theorem Calm.revokeRecord {o : Nat} {i : Word} (h : Calm off a s) : Calm off a (s.revokeRecord o i) := h.bump rfl |>.raise

theorem Calm.hostSignal {f k fn : Nat} {n : Int} (h : Calm off a s) : Calm off a (s.hostSignal f k n fn) := by
  unfold State.hostSignal
  split
  · next ht => exact h.ctrAdd ht
  · exact h.bump rfl |>.raise

/-! ### Windows (R324, R330) -/

theorem Calm.winSync {f w : Nat} (h : Calm off a s) : Calm off a (s.winSync f w) := h.wr rfl |>.wr rfl
theorem Calm.setWin {f w : Nat} {x : Win} (h : Calm off a s) : Calm off a (s.setWin f w x) := h.modFace (fun _ => by rfl) |>.winSync
theorem Calm.dropSlots {f w : Nat} (h : Calm off a s) : Calm off a (s.dropSlots f w) := h.setWin.bumpBy rfl

theorem Calm.bdyWindow {f w : Nat} (h : Calm off a s) : Calm off a (s.bdyWindow f w) :=
  Calm.ite (Calm.ite (h.modFace (fun _ => by rfl) |>.wr rfl |>.wr rfl) (h.modFace (fun _ => by rfl) |>.wr rfl)) (Calm.ite (h.dropSlots.wr rfl |>.setWin) h)

/-! ### Memory (14_memory.md) -/

theorem Calm.setGran {g : Nat} {x : Gran} (h : Calm off a s) : Calm off a (s.setGran g x) := h.same rfl

theorem Calm.metaPoison {g : Nat} (h : Calm off a s) : Calm off a (s.metaPoison g) := Calm.loop (h.same rfl) fun _ _ k => k.setGran

theorem Calm.hbmRead {g : Nat} (h : Calm off a s) : Calm off a (s.hbmRead g).1 := by
  unfold State.hbmRead
  extract_lets c mf mfix n src s1 x s2 fk s3 ft
  have k : Calm off a s1 := Calm.bumpBy (Calm.same (s := src) h.setGran rfl) rfl
  have k2 : Calm off a s2 := k.metaPoison.ite k
  refine Calm.ite_fst (k2.setGran.bump rfl |>.raise) (Calm.ite_fst k (Calm.ite_fst (k.bump rfl) ?_))
  have kf : Calm off a fk.2 := by simp only [fk]; split; exacts [k.forced, k]
  split
  · exact Calm.ite (kf.bump rfl |>.raise) (kf.bump rfl)
  · exact Calm.ite_fst (k.forced.setGran.bump rfl |>.raise) k

theorem Calm.hbmReadRun {g n : Nat} (h : Calm off a s) : Calm off a (s.hbmReadRun g n).1 := by
  unfold State.hbmReadRun
  refine Calm.loop_fst h fun _ _ k => ?_
  dsimp only
  exact k.hbmRead

theorem Calm.hbmBytes {i n : Nat} (h : Calm off a s) : Calm off a (s.hbmBytes i n).1 := by
  unfold State.hbmBytes
  refine Calm.ite_fst h ?_
  dsimp only
  exact h.hbmReadRun

theorem Calm.sealSlots {i : Nat} (h : Calm off a s) : Calm off a (s.sealSlots i).1 := by
  unfold State.sealSlots
  dsimp only
  exact h.hbmRead

theorem Calm.runSeal {r : RunShape} {i c : Nat} (h : Calm off a s) : Calm off a (s.runSeal r i c).1 := by
  unfold State.runSeal
  dsimp only
  exact h.hbmBytes.hbmBytes.hbmBytes.hbmBytes

theorem Calm.hbmPut {g : Nat} {ws : List (Word × Bool)} (h : Calm off a s) : Calm off a (s.hbmPut g ws) := by
  unfold State.hbmPut
  extract_lets pl s0
  have k : Calm off a s0 := Calm.ite h.metaPoison (h.same rfl)
  split
  · exact k.setGran
  · next hr => exact (k.inject hr).setGran

theorem Calm.hbmWrite {g : Nat} {ws : List (Word × Bool)} (h : Calm off a s) : Calm off a (s.hbmWrite g ws) := Calm.ite h.hbmPut (h.bump rfl)

theorem Calm.hbmPatch {i : Nat} {v : Word} (h : Calm off a s) : Calm off a (s.hbmPatch i v) := h.hbmRead.hbmWrite

theorem Calm.trimPage {f p o c : Nat} (h : Calm off a s) : Calm off a (s.trimPage f p o c) := by
  refine Calm.loop h fun t r k => ?_
  dsimp only
  split
  · exact k
  · exact k.sealSlots.runSeal.hbmPatch

/-! ### Words stored in a scratchpad (R212, R559) -/

theorem Calm.injStored {f w n : Nat} (h : Calm off a s) : Calm off a (s.injStored f w n) := by
  refine Calm.loop h fun t i k => Calm.ite k ?_
  split
  · exact k
  · split
    · exact k
    · next hr => exact (k.inject hr).modFace fun _ => rfl

theorem Calm.injBytes {f i n : Nat} (h : Calm off a s) : Calm off a (s.injBytes f i n) := Calm.ite h h.injStored

theorem resLine_run (x : Face) (line : Nat) (ws : List Word) : (x.resLine line ws).run = x.run := by
  have hput : ∀ (ws : List Word) (a : Face × Nat), (ws.foldl (fun (a : Face × Nat) v => (a.1.padPut a.2 v false, a.2 + 1)) a).1.run = a.1.run := by
    intro ws
    induction ws with
    | nil => exact fun a => rfl
    | cons v ws ih =>
      intro a
      refine (ih _).trans ?_
      simp only [Face.padPut, Face.padOpen]
      split <;> rfl
  exact hput _ _

theorem Calm.putResident {f line : Nat} {ws : List Word} (h : Calm off a s) : Calm off a (s.putResident f line ws) := by
  have k : Calm off a (if s.hand.running then s.draw.2 else s) := Calm.ite h.draw h
  exact Calm.ite (k.modFace fun _ => rfl) (Calm.injBytes (k.modFaceOff fun _ x e => (resLine_run x line ws).trans e))

theorem Calm.writeLines {f g c : Nat} (h : Calm off a s) : Calm off a (s.writeLines f g c) := h.foldl fun _ _ k => k.putResident.modFace fun _ => rfl

/-! ### Ports (15_links_and_lanes.md) -/

theorem Calm.msix {fn v : Nat} (h : Calm off a s) : Calm off a (s.msix fn v) := h.emit
theorem Calm.hostWrite {fn i : Nat} {ws : List Word} (h : Calm off a s) : Calm off a (s.hostWrite fn i ws) := h.emit

theorem Calm.portOut {p : Nat} {o : Out} (h : Calm off a s) : Calm off a (s.portOut p o) := Calm.ite (Calm.emit (h.same rfl)) (h.same rfl)

theorem Calm.sendCtl {d : Nat} {m : Msg} (h : Calm off a s) : Calm off a (s.sendCtl d m) := by
  unfold State.sendCtl
  split
  · exact h.portOut
  · exact h

theorem Calm.sendTree {m : Msg} (h : Calm off a s) : Calm off a (s.sendTree m) := h.loop fun _ _ k => Calm.ite k.portOut k

theorem Calm.putParcel {p : Nat} {q : Parcel} (h : Calm off a s) : Calm off a (s.putParcel p q) := Calm.portOut (h.same rfl)

theorem Calm.setPort {p : Nat} {x : Port} (h : Calm off a s) : Calm off a (s.setPort p x) := h.same rfl
theorem Calm.modPort {p : Nat} {g : Port → Port} (h : Calm off a s) : Calm off a (s.modPort p g) := h.setPort

theorem Calm.portDown {p : Nat} {b : Bool} (h : Calm off a s) : Calm off a (s.portDown p b) := by
  have k : Calm off a (if decide (s.rd R.LNK_PORT_STATE.STATE p = 4) = true then s.resetDomain .link (fun r i => decide (outerIx r i = p)) else s) :=
    Calm.ite (h.resetDomain (by decide)) h
  unfold State.portDown
  extract_lets was s0 s1 s2
  have k2 : Calm off a s2 := Calm.modPort (Calm.wr (Calm.wr k rfl) rfl)
  exact Calm.ite (k2.same rfl) k2

theorem Calm.spareReg {p w : Nat} (h : Calm off a s) : Calm off a (s.spareReg p w) := Calm.ite (Calm.ite h (h.wr rfl |>.wr rfl)) (h.wr rfl |>.wr rfl)

theorem Calm.portFlush {p : Nat} (h : Calm off a s) : Calm off a (s.portFlush p) := Calm.foldl (h.same rfl) fun _ _ k => k.portOut

theorem Calm.activate {p w : Nat} (h : Calm off a s) : Calm off a (s.activate p w) := by
  have k : Calm off a ((((s.wr R.LNK_PORT_STATE.STATE p 4).wr R.LNK_PORT_STATE.WIDTH p w).spareReg p w).wr R.CAL_LANE_STATE.PENDING p 1) :=
    h.wr rfl |>.wr rfl |>.spareReg.wr rfl
  exact (Calm.ite (k.bumpBy rfl) k).setPort.portFlush

theorem Calm.peerRemap {p w c : Nat} (h : Calm off a s) : Calm off a (s.peerRemap p w c) :=
  (Calm.ite (h.wr rfl |>.modPort.wr rfl |>.wr rfl) (h.wr rfl |>.modPort)).bump rfl

theorem Calm.remapNow {p : Nat} (h : Calm off a s) : Calm off a (s.remapNow p) := by
  refine Calm.ite h.modPort.portDown ?_
  split
  · exact h.modPort.portDown.wr rfl
  · exact h.modPort.wr rfl |>.spareReg.bump rfl

theorem Calm.trainStart {p : Nat} (h : Calm off a s) : Calm off a (s.trainStart p) := by
  have k {x} : Calm off a ((((((s.portDown p false).wr R.LNK_PORT_STATE.STATE p 1).wr R.LNK_LANE_STATE.FAILED p 0).wr R.LNK_LANE_STATE.SPARE_USED p 0).wr
    R.LNK_LANE_STATE.SPARED p 0).setPort p x) := h.portDown.wr rfl |>.wr rfl |>.wr rfl |>.wr rfl |>.setPort
  exact Calm.ite h.portDown (Calm.ite (h.portDown.wr rfl) (Calm.ite (k.bump rfl) k))

theorem Calm.bypOpenNow (h : Calm off a s) : Calm off a s.bypOpenNow :=
  Calm.trainStart (Calm.trainStart (Calm.same (s := s.wr R.LNK_BYP_CTL.CLOSED 0 0) (h.wr rfl) (by rfl)))

theorem Calm.bypClose (h : Calm off a s) : Calm off a s.bypClose := h.wr rfl |>.portDown.portDown

end Sys2Proof.Machine
end
section
/-! SUPPORT. `Calm`, for the steps of a hand boundary (R33, R41), in the order in which it takes them. -/
namespace Sys2Proof.Machine
open Sys2Proof.Claims

variable {off : Prop} {a s : State}

/-! ### Residents, counters, windows, tricks -/

theorem settleRes_run (x : Face) : x.settleRes.run = x.run := by
  have h : ∀ (l : List (Nat × List Word)) (y : Face), (l.foldl (fun y e => y.resLine e.1 e.2) y).run = y.run := by
    intro l
    induction l with
    | nil => exact fun y => rfl
    | cons e l ih => exact fun y => (ih _).trans (resLine_run _ _ _)
  exact h _ _

theorem Calm.bdyResident (h : Calm off a s) : Calm off a s.bdyResident :=
  h.loop fun _ _ k => k.modFaceOff fun _ x e => (settleRes_run x).trans e

theorem Calm.bdyHostSigs (h : Calm off a s) : Calm off a s.bdyHostSigs := h.loop fun _ _ k => k.modFace (fun _ => by rfl) |>.foldl fun _ _ k => k.hostSignal

theorem Calm.bdySigrs (h : Calm off a s) : Calm off a s.bdySigrs := by
  refine Calm.foldl (h.same rfl) fun t g k => Calm.ite ?_ k
  split
  · next ht =>
    split at ht
    · exact k.ctrAdd ht
    · cases ht
  · exact k.revokeRecord.modFace fun _ => rfl

theorem Calm.bdyWindows (h : Calm off a s) : Calm off a s.bdyWindows := h.foldl fun _ _ k => k.foldl fun _ _ k => k.bdyWindow

theorem Calm.bdyTricks (h : Calm off a s) : Calm off a s.bdyTricks := by
  refine Calm.same (s := (s.trickReq.foldl _ s).dtrickReq.foldl _ _) (Calm.foldl (Calm.foldl h fun t e k => ?_) fun t e k => ?_) rfl
  · split
    · exact Calm.same (s := (((t.wr R.SYN_TRICK_CFG.PARTIES e.1 _).wr R.SYN_TRICK_CFG.HOME e.1 _).wr R.SYN_TRICK_CFG.COUNT e.1 0).wr
        R.SYN_TRICK_CFG.ROUNDS e.1 0) (k.wr rfl |>.wr rfl |>.wr rfl |>.wr rfl) rfl
    · exact k
  · split
    · exact Calm.same (s := (t.wr R.SYN_DTRICK_CFG.PARTIES e.1 _).wr R.SYN_DTRICK_CFG.COUNT e.1 0) (k.wr rfl |>.wr rfl) rfl
    · exact k

/-! ### Seats (12_serving.md) -/

theorem Calm.setSeat {i : Nat} {x : Seat} (h : Calm off a s) : Calm off a (s.setSeat i x) := h.same rfl
theorem Calm.modSeat {i : Nat} {g : Seat → Seat} (h : Calm off a s) : Calm off a (s.modSeat i g) := h.setSeat
theorem Calm.setCache {i : Nat} {c : Cache} (h : Calm off a s) : Calm off a (s.setCache i c) := h.same rfl

theorem Calm.record {f r : Nat} {ws : List Word} (h : Calm off a s) : Calm off a (s.record f r ws) := Calm.ite h (Calm.ite (h.same rfl) h.emit)

theorem Calm.dropAnte {i : Nat} (h : Calm off a s) : Calm off a (s.dropAnte i) := h.same rfl

theorem Calm.freeCarried {x : Ante} (h : Calm off a s) : Calm off a (s.freeCarried x) := by
  unfold State.freeCarried
  split
  · exact h.modSeat
  · exact h

theorem Calm.voidSeat {i : Nat} (h : Calm off a s) : Calm off a (s.voidSeat i) := h.same rfl

theorem Calm.cancelSeat {i c : Nat} (h : Calm off a s) : Calm off a (s.cancelSeat i c) := by
  have k {g : Seat → Seat} : Calm off a (if s.mode = 2 then s.modSeat i (fun y => { y with st := .drain, endCode := c }) else (s.modSeat i g).voidSeat i) :=
    h.modSeat.ite h.modSeat.voidSeat
  unfold State.cancelSeat
  dsimp only
  split
  exacts [k, k, h.modSeat, h.modSeat, h.modSeat, h]

theorem Calm.foldNow {q : Nat × Nat × Nat} (h : Calm off a s) : Calm off a (s.foldNow q) := by
  unfold State.foldNow
  refine Calm.ite ?_ (Calm.ite h (Calm.ite h.cancelSeat ?_))
  · split
    · split
      · exact h.dropAnte.freeCarried.record
      · exact h
    · exact h
  · split
    · split
      · exact h.dropAnte.freeCarried.record
      · exact h
    · exact h

theorem Calm.bdyFolds (h : Calm off a s) : Calm off a s.bdyFolds :=
  Calm.same (s := s.folds.foldl _ { s with folds := [] }) (Calm.foldl (h.same rfl) fun _ _ k => k.foldNow) rfl

theorem Calm.bdyTtl {e : Nat} (h : Calm off a s) : Calm off a (s.bdyTtl e) := h.foldl fun _ _ k => Calm.ite k.modSeat k

theorem Calm.bdyMode (h : Calm off a s) : Calm off a s.bdyMode := by
  unfold State.bdyMode
  split
  · exact h
  · have k {v} : Calm off a (({ s with modeReq := none } : State).wr R.SRV_MODE.MODE 0 v) := Calm.wr (h.same rfl) rfl
    exact Calm.ite (k.foldl fun _ _ k => Calm.ite k.modSeat k) k

theorem Calm.bdyPrefix (h : Calm off a s) : Calm off a s.bdyPrefix := h.foldl fun _ _ k => Calm.ite (Calm.wr (k.same rfl) rfl) k
theorem Calm.bdyGrams (h : Calm off a s) : Calm off a s.bdyGrams := h.foldl fun _ _ k => Calm.ite (Calm.wr (k.same rfl) rfl) k

theorem Calm.bdyTrim (h : Calm off a s) : Calm off a s.bdyTrim :=
  h.foldl fun _ _ k => Calm.ite k (Calm.setCache (k.foldl fun _ _ k => Calm.ite k (Calm.ite (k.same rfl) (k.loop fun _ _ k => k.trimPage))))

/-! ### Ports and the domain (15_links_and_lanes.md, 16_many_devices.md) -/

theorem Calm.bdyPorts (h : Calm off a s) : Calm off a s.bdyPorts := by
  refine Calm.loop h fun t p k => ?_
  dsimp only
  split
  · exact k.activate
  · split
    · refine Calm.ite k ?_
      split
      · exact k.peerRemap
      · exact k.remapNow
    · exact k

theorem Calm.bdyBypass (h : Calm off a s) : Calm off a s.bdyBypass := Calm.ite (Calm.ite (h.same rfl) h.bypOpenNow) h

theorem Calm.modRep {r : Nat} {g : Rep → Rep} (h : Calm off a s) : Calm off a (s.modRep r g) := h.same rfl

theorem Calm.fates {r : Nat} (h : Calm off a s) : Calm off a (s.fates r) := by
  unfold State.fates
  extract_lets lost s1 gone s2
  have k1 : Calm off a s1 := by
    refine Calm.foldl h fun t e k => Calm.ite k (Calm.ite (k.modSeat.bump rfl) ?_)
    split
    exacts [k.modSeat, k.modSeat, k.modSeat, k]
  have k2 : Calm off a s2 := Calm.foldl (k1.same rfl) fun _ _ k => k.freeCarried
  exact Calm.modRep (Calm.bumpBy k2 rfl)

theorem Calm.joinRefuse {c : Nat} (h : Calm off a s) : Calm off a (s.joinRefuse c) := h.wr rfl |>.wr rfl

theorem Calm.joinCheck {r : Nat} (h : Calm off a s) : Calm off a (s.joinCheck r) := by
  unfold State.joinCheck
  dsimp only
  split
  · exact Calm.ite (Calm.ite h.modRep (h.joinRefuse.modRep.wr rfl)) h
  · exact h

theorem Calm.stateReport {src hand v fl : Nat} (h : Calm off a s) : Calm off a (s.stateReport src hand v fl) := by
  unfold State.stateReport
  split
  · exact h.modRep.joinCheck
  · exact h

theorem Calm.sendState (h : Calm off a s) : Calm off a s.sendState := Calm.ite h.stateReport h.sendCtl

theorem Calm.takeHold {r n : Nat} {on : Bool} (h : Calm off a s) : Calm off a (s.takeHold r on n) := by
  unfold State.takeHold
  split
  · exact Calm.ite (h.same rfl) h
  · exact h

theorem Calm.takeReplica {r st n : Nat} (h : Calm off a s) : Calm off a (s.takeReplica r st n) := by
  unfold State.takeReplica
  split
  · exact Calm.ite h (Calm.ite h.sendState (Calm.ite h.takeHold (Calm.ite h.takeHold h)))
  · exact h

theorem Calm.sayReplica {r st n : Nat} (h : Calm off a s) : Calm off a (s.sayReplica r st n) := h.wr rfl |>.sendTree.takeReplica

theorem Calm.bdyRetire {r : Nat} (h : Calm off a s) : Calm off a (s.bdyRetire r) := by
  unfold State.bdyRetire
  split
  · exact h
  · have k : Calm off a (if s.repState r = 2 then s.sayReplica r 6 (s.handNum + 1) else s) := h.sayReplica.ite h
    exact Calm.ite k (k.modRep.sayReplica.wr rfl)

theorem Calm.bdyJoin {r : Nat} (h : Calm off a s) : Calm off a (s.bdyJoin r) := by
  unfold State.bdyJoin
  split
  · exact Calm.ite (h.modRep.wr rfl |>.wr rfl |>.sayReplica) h
  · exact h

theorem Calm.holdFirst {x : Ante} (h : Calm off a s) : Calm off a (s.holdFirst x) := h.same rfl

theorem Calm.sendHistory {d : Nat} {ts : List Nat} (h : Calm off a s) : Calm off a (s.sendHistory d ts) := by
  unfold State.sendHistory
  split
  · exact h
  · exact h.loop fun _ _ k => k.putParcel

theorem Calm.carrySeat {i : Nat} (h : Calm off a s) : Calm off a (s.carrySeat i) := by
  unfold State.carrySeat
  extract_lets x home x' src s1 s2
  have k : Calm off a s2 := Calm.bump (Calm.setSeat (Calm.setCache (Calm.same (s := src) h.holdFirst rfl))) rfl
  split
  · exact Calm.ite k.sendHistory k
  · exact k

theorem Calm.bdyCarry (h : Calm off a s) : Calm off a s.bdyCarry := Calm.foldl h fun _ _ k => k.carrySeat

theorem Calm.bdyDomain (h : Calm off a s) : Calm off a s.bdyDomain := by
  refine Calm.ite h (Calm.bdyCarry (Calm.foldl h fun t r k => Calm.bdyRetire (Calm.bdyJoin ?_)))
  split
  · exact Calm.ite k.fates k
  · exact k

/-! ### Pins, injections and probes -/

theorem Calm.setPin {f l v : Nat} (h : Calm off a s) : Calm off a (s.setPin f l v) := h.wr rfl

theorem Calm.bdyPins (h : Calm off a s) : Calm off a s.bdyPins :=
  h.loop fun _ _ k => ((k.foldl fun _ _ k => k.setPin).foldl fun _ _ k => k.setPin.wr rfl |>.wr rfl).modFace fun _ => rfl

theorem Calm.armInj {i : Nat} (h : Calm off a s) : Calm off a (s.armInj i) := Calm.ite h (Calm.ite h (h.same rfl))

theorem Calm.bdyInj (h : Calm off a s) : Calm off a s.bdyInj := h.loop fun _ _ k => k.armInj

theorem Calm.bdyDeck (h : Calm off a s) : Calm off a s.bdyDeck := by
  unfold State.bdyDeck
  split
  · exact h
  · exact Calm.wr (h.same rfl) rfl

/-! ### Arrays: the actions due (07_arrays.md, 20_calibration.md) -/

theorem Calm.dropCheck {f b : Nat} (h : Calm off a s) : Calm off a (s.dropCheck f b) :=
  Calm.same (s := ((s.wr R.BLK_SPARE.CHECK_VALID (ixB f b) 0).wr R.BLK_SPARE.UNDER_VALID (ixB f b) 0).wr R.CAL_BLK_STATE.TOURING (ixB f b) 0)
    (h.wr rfl |>.wr rfl |>.wr rfl) rfl

theorem Calm.setAState {f b x v : Nat} (h : Calm off a s) : Calm off a (s.setAState f b x v) := h.wr rfl |>.wr rfl

theorem Calm.digestNow {f b x w i : Nat} (h : Calm off a s) : Calm off a (s.digestNow f b x w i).2 := by
  unfold State.digestNow
  exact h.forced

theorem Calm.setArr {f b x : Nat} {m : ArrMem} (h : Calm off a s) : Calm off a (s.setArr f b x m) := h.same rfl
theorem Calm.modArr {f b x : Nat} {g : ArrMem → ArrMem} (h : Calm off a s) : Calm off a (s.modArr f b x g) := h.setArr
theorem Calm.noteSlots (h : Calm off a s) : Calm off a s.noteSlots := h.wr rfl |>.wr rfl
theorem Calm.startJob {j : WJob} (h : Calm off a s) : Calm off a (s.startJob j) := Calm.wr (Calm.wr (Calm.setAState (Calm.modArr (h.same rfl))) rfl) rfl

theorem Calm.grantWrites (h : Calm off a s) : Calm off a s.grantWrites := by
  refine Calm.noteSlots (h.loop fun t _ k => Calm.ite ?_ k)
  dsimp only
  split
  · exact k.startJob
  · exact k

theorem Calm.queueWrite {j : WJob} (h : Calm off a s) : Calm off a (s.queueWrite j) := Calm.grantWrites (h.same rfl)

theorem Calm.spareFor {f b : Nat} (h : Calm off a s) : Calm off a (s.spareFor f b).1 := by
  unfold State.spareFor
  split
  · exact h
  · exact Calm.ite_fst (Calm.setAState (Calm.dropCheck (h.same rfl))) (h.wr rfl |>.raise)

theorem Calm.startRetire {f b x : Nat} {d : Bool} (h : Calm off a s) : Calm off a (s.startRetire f b x d) := by
  unfold State.startRetire
  refine Calm.ite h (Calm.ite (h.same rfl) ?_)
  split
  · exact Calm.ite h (Calm.raise (Calm.setAState (Calm.ite h.dropCheck h)))
  · refine Calm.ite h ?_
    extract_lets t0 o g u r
    have k : Calm off a u := Calm.modArr (Calm.digestNow (h.setAState.wrB rfl))
    refine Calm.ite (k.same rfl) (Calm.ite (k.same rfl) (Calm.ite ?_ ?_))
    · split
      · exact k.queueWrite
      · exact k
    · split
      · exact k.spareFor.queueWrite
      · exact Calm.same k.spareFor rfl

theorem Calm.stuckArray {f b x : Nat} (h : Calm off a s) : Calm off a (s.stuckArray f b x) := Calm.ite h (Calm.ite (h.same rfl) (h.setAState.wr rfl |>.raise))

theorem Calm.respare {j : WJob} (h : Calm off a s) : Calm off a (s.respare j) := by
  unfold State.respare
  dsimp only
  split
  · exact h.spareFor.queueWrite
  · exact h.spareFor

theorem Calm.newCheck {f b : Nat} (h : Calm off a s) : Calm off a (s.newCheck f b) := by
  unfold State.newCheck
  dsimp only
  split
  · exact h.setAState.wr rfl |>.wr rfl
  · exact h.wr rfl

theorem Calm.soundCheck {f b : Nat} (h : Calm off a s) : Calm off a (s.soundCheck f b) := Calm.ite h.newCheck (Calm.ite h.setAState.newCheck h)

theorem Calm.tourNext {f b lo : Nat} {x : Bool} (h : Calm off a s) : Calm off a (s.tourNext f b lo x) := by
  unfold State.tourNext
  extract_lets i stop
  have hstop {t : State} (k : Calm off a t) : Calm off a (stop t) :=
    Calm.same (s := (t.wr R.CAL_BLK_STATE.TOURING i 0).wr R.BLK_SPARE.UNDER_VALID i 0) (k.wr rfl |>.wr rfl) rfl
  split
  · exact hstop h
  · refine Calm.ite (hstop h.soundCheck) ?_
    split
    · exact hstop h.soundCheck
    · exact Calm.queueWrite (Calm.wr (Calm.wr (Calm.same (s := s.soundCheck f b) h.soundCheck rfl) rfl) rfl)

theorem Calm.mapSlot {f b l x : Nat} (h : Calm off a s) : Calm off a (s.mapSlot f b l x) := h.wr rfl |>.wr rfl
theorem Calm.noteFlags {f b : Nat} (h : Calm off a s) : Calm off a (s.noteFlags f b) := h.wr rfl
theorem Calm.clearMon {f b x : Nat} (h : Calm off a s) : Calm off a (s.clearMon f b x) := h.same rfl

theorem Calm.switchSlot {f b l x y c : Nat} (h : Calm off a s) : Calm off a (s.switchSlot f b l x y c) := by
  unfold State.switchSlot
  extract_lets t u v z
  have k : Calm off a u := Calm.noteFlags (Calm.clearMon (Calm.clearMon (Calm.wr (Calm.setAState (Calm.setAState h.mapSlot)) rfl)))
  exact Calm.ite k.raise (Calm.ite (k.bump rfl) (Calm.ite (Calm.ite (k.bump rfl)
    (Calm.ite (k.bump rfl |>.modFace (fun _ => by rfl) |>.setDown) (k.bump rfl |>.modFace (fun _ => rfl)))) k))

theorem Calm.tourSwitch {f b l x y : Nat} (h : Calm off a s) : Calm off a (s.tourSwitch f b l x y) :=
  Calm.ite h.tourNext (Calm.tourNext (Calm.ite (h.switchSlot.wr rfl |>.newCheck) (h.switchSlot.wr rfl |>.wr rfl)))

theorem Calm.loseArray {f b x : Nat} {j : Option WJob} (h : Calm off a s) : Calm off a (s.loseArray f b x j) := by
  unfold State.loseArray
  extract_lets y t
  have k : Calm off a t := h.setAState.raise.faceFault
  split
  · exact k
  · split
    · exact k.spareFor.queueWrite
    · exact k.spareFor

theorem Calm.lose {f b x : Nat} (h : Calm off a s) : Calm off a (s.lose f b x) := h.loseArray
theorem Calm.swapConv {f b x g : Nat} (h : Calm off a s) : Calm off a (s.swapConv f b x g) := Calm.ite h.startRetire (h.wr rfl |>.wr rfl)
theorem Calm.startDwell {f b x : Nat} (h : Calm off a s) : Calm off a (s.startDwell f b x) := Calm.ite h (Calm.wr (Calm.wr (h.same rfl) rfl) rfl)
theorem Calm.fitApply {f b : Nat} (h : Calm off a s) : Calm off a (s.fitApply f b) := Calm.ite (h.same rfl) h

theorem Calm.moveUnit {f b x k u : Nat} (h : Calm off a s) : Calm off a (s.moveUnit f b x k u).1 := by
  unfold State.moveUnit
  exact Calm.ite_fst (Calm.ite_fst (h.setArr.wr rfl) h) (Calm.ite_fst (h.setArr.wr rfl) h)

theorem Calm.replaceUnit (h : Calm off a s) : Calm off a s.replaceUnit := h.wr rfl

theorem Calm.unitOther {k p u : Nat} (h : Calm off a s) : Calm off a (s.unitOther k p u) :=
  Calm.ite (h.replaceUnit.same rfl) (Calm.ite (h.portDown.wr rfl) (Calm.ite (h.wr rfl |>.wr rfl) h))

theorem Calm.unitAction {u : Nat} (h : Calm off a s) : Calm off a (s.unitAction u) := by
  unfold State.unitAction
  dsimp only
  split
  · exact Calm.ite h.startRetire (Calm.ite (Calm.ite h (Calm.ite h.swapConv (Calm.ite h.startRetire (h.wr rfl |>.raise))))
      (Calm.ite (Calm.ite h (Calm.ite h.moveUnit.startRetire h.startRetire)) (Calm.ite h.replaceUnit.faceFault h.unitOther)))
  · exact h.unitOther

theorem Calm.doAct {x : BAct} (h : Calm off a s) : Calm off a (s.doAct x) := by
  cases x with
  | retire f b x => exact h.startRetire
  | redress f b x => exact h.startRetire
  | stuck f b x => exact h.stuckArray
  | respare j => exact h.respare
  | switch f b slot new old kind => exact Calm.ite h.tourSwitch h.switchSlot
  | lost f b x => exact h.lose
  | converter f b x g => exact h.swapConv
  | dwell f b x => exact h.startDwell
  | fit f b => exact h.fitApply
  | unit u => exact h.unitAction

theorem Calm.bdyActs (h : Calm off a s) : Calm off a s.bdyActs := Calm.foldl (h.same rfl) fun _ _ k => k.doAct

end Sys2Proof.Machine
end
section
/-! SUPPORT. `Calm`, for the later steps of a hand boundary: power, images, programs, keys and resets; the boundary itself, and the end of a hand. -/
namespace Sys2Proof.Machine
open Sys2Proof.Claims

variable {off : Prop} {a s : State}

/-! ### Power domains (22_power.md) -/

theorem Calm.modPower {g : Power → Power} (h : Calm off a s) : Calm off a (s.modPower g) := h.same rfl

theorem Calm.domRefuse {d r : Nat} (h : Calm off a s) : Calm off a (s.domRefuse d r) := h.wr rfl |>.wr rfl |>.wr rfl |>.msix

theorem Calm.modCal {f b : Nat} {g : CalBlk → CalBlk} (h : Calm off a s) : Calm off a (s.modCal f b g) := h.same rfl
theorem Calm.noteStale {f b : Nat} (h : Calm off a s) : Calm off a (s.noteStale f b) := h.wrB rfl
theorem Calm.restartMons {f b : Nat} (h : Calm off a s) : Calm off a (s.restartMons f b) := Calm.noteFlags (h.same rfl)

theorem Calm.unload {f : Nat} (h : Calm off a s) : Calm off a (s.unload f) := h.foldl fun _ _ k => Calm.ite (k.wr rfl) k

theorem Calm.wimgState {v : Nat} (h : Calm off a s) : Calm off a (s.wimgState v) := Calm.ite h (h.wr rfl |>.msix)
theorem Calm.discard (h : Calm off a s) : Calm off a s.discard := Calm.wimgState (h.same rfl)

theorem Calm.loseStacks {n : Nat} (h : Calm off a s) : Calm off a (s.loseStacks n) := by
  unfold State.loseStacks
  dsimp only
  split
  · exact Calm.ite (Calm.discard (h.same rfl)) (h.same rfl)
  · exact h.same rfl

theorem Calm.cacheEmpty {f : Nat} (h : Calm off a s) : Calm off a (s.cacheEmpty f) := h.modFace fun _ => rfl

theorem Calm.domOffEffects {d v : Nat} (h : Calm off a s) : Calm off a (s.domOffEffects d v) := by
  unfold State.domOffEffects
  refine Calm.ite ?_ (Calm.ite ?_ (Calm.ite ?_ (Calm.ite h.loseStacks (Calm.ite h.loseStacks (Calm.ite h.bypClose.portDown.portDown
    (Calm.ite h.portDown.portDown (Calm.ite (h.wr rfl |>.wr rfl |>.wr rfl) h)))))))
  · split
    · exact h.loop fun _ _ k => k.modCal.noteStale.restartMons
    · exact h
  · split
    · exact h.modFace fun _ => rfl
    · exact h
  · split
    · exact Calm.homeLost (Calm.ite (h.cacheEmpty.modFace (fun _ => by rfl) |>.unload) (h.cacheEmpty.modFace fun _ => rfl))
    · exact h

theorem Calm.domStep {n : Nat} (h : Calm off a s) : Calm off a (domStep s n) := by
  induction n generalizing s with
  | zero => exact h
  | succ n ih =>
    unfold Machine.domStep
    split
    · exact h
    · refine Calm.ite h ?_
      dsimp only
      split
      · exact ih h.modPower.domRefuse
      · exact Calm.ite (ih h.modPower) (Calm.ite h (Calm.modPower (Calm.wr (Calm.ite h.domOffEffects h) rfl)))

theorem Calm.domNext (h : Calm off a s) : Calm off a s.domNext := h.domStep
theorem Calm.bdyPower (h : Calm off a s) : Calm off a s.bdyPower := h.modPower.domNext

theorem Calm.noteVcore (h : Calm off a s) : Calm off a s.noteVcore := Calm.ite h (h.wr rfl |>.modPower)

theorem Calm.bdyLevels (h : Calm off a s) : Calm off a s.bdyLevels := (h.noteVcore.foldl fun _ _ k => Calm.ite (k.wr rfl) k).noteVcore

/-! ### Images, programs and regions (13_weight_images.md) -/

theorem Calm.bdyCut (h : Calm off a s) : Calm off a s.bdyCut := by
  unfold State.bdyCut
  refine Calm.ite h ?_
  extract_lets s0 all group sets
  have k : Calm off a s0 := h.wr rfl |>.msix
  exact Calm.ite (k.wr rfl) (Calm.wrB (Calm.wr (Calm.wr (Calm.loop (k.foldl fun _ _ k => k.wr rfl) fun _ _ k => k.foldl fun _ _ k => k.writeLines) rfl) rfl) rfl)

theorem Calm.setProg {f v : Nat} (h : Calm off a s) : Calm off a (s.setProg f v) := Calm.ite h (h.wr rfl |>.msix)
theorem Calm.dropReq {f : Nat} (h : Calm off a s) : Calm off a (s.dropReq f) := h.modFace (fun _ => by rfl) |>.wr rfl
theorem Calm.progRefuse {f c d : Nat} (h : Calm off a s) : Calm off a (s.progRefuse f c d) := h.wr rfl |>.wr rfl

theorem Calm.bdyProg {f : Nat} (h : Calm off a s) : Calm off a (s.bdyProg f) := by
  unfold State.bdyProg
  split
  · exact h
  · exact Calm.ite h.dropReq.setProg h.dropReq
  · refine Calm.ite h.dropReq ?_
    split
    · exact h.dropReq.progRefuse
    · exact Calm.same (s := State.setProg (((s.dropReq f).modFace f (fun x => x.activate)).wr R.FCE_PROG_STATE.HANDS f 0) f 3)
        (h.dropReq.modFace (fun _ => by rfl) |>.wr rfl |>.setProg) rfl

theorem Calm.bdyProgs (h : Calm off a s) : Calm off a s.bdyProgs := h.loop fun _ _ k => k.bdyProg

theorem Calm.uncover {f : Nat} (h : Calm off a s) : Calm off a (s.uncover f) := h.foldl fun _ _ k => Calm.ite (k.wr rfl) k

theorem Calm.bdyCacheCfg {f : Nat} (h : Calm off a s) : Calm off a (s.bdyCacheCfg f) :=
  Calm.ite (h.wr rfl |>.modFace (fun _ => rfl)) (Calm.ite (h.modFace fun _ => rfl) (h.cacheEmpty.modFace (fun _ => by rfl) |>.wr rfl |>.wr rfl))

theorem Calm.bdyRegion {f : Nat} (h : Calm off a s) : Calm off a (s.bdyRegion f) := by
  unfold State.bdyRegion
  refine Calm.bdyCacheCfg ?_
  split
  · exact h.setReg rfl |>.setReg rfl |>.modFace (fun _ => by rfl) |>.uncover
  · exact h

theorem Calm.bdyRegions (h : Calm off a s) : Calm off a s.bdyRegions := h.loop fun _ _ k => k.bdyRegion

/-! ### Records of seats (R370 to R373) -/

theorem Calm.endRecord {i k c : Nat} (h : Calm off a s) : Calm off a (s.endRecord i k c) := h.record
theorem Calm.heldReg {n : Nat} (h : Calm off a s) : Calm off a (s.heldReg n) := h.wr rfl |>.wr rfl
theorem Calm.seatReg {i : Nat} (h : Calm off a s) : Calm off a (s.seatReg i) := h.wr rfl |>.wr rfl |>.wr rfl |>.wr rfl |>.wr rfl
theorem Calm.seatRegs (h : Calm off a s) : Calm off a s.seatRegs := (h.foldl fun _ _ k => k.seatReg).wr rfl |>.wr rfl
theorem Calm.ringIrqs (h : Calm off a s) : Calm off a s.ringIrqs := Calm.foldl (h.same rfl) fun _ _ k => k.msix
theorem Calm.setRing {r : Nat} {x : Ring} (h : Calm off a s) : Calm off a (s.setRing r x) := Calm.wr (h.same rfl) rfl

theorem Calm.cqWrite {r : Nat} {ws : List Word} (h : Calm off a s) : Calm off a (s.cqWrite r ws) := by
  unfold State.cqWrite
  extract_lets x size i s1 s2
  have k : Calm off a s2 := Calm.wr (Calm.setRing h.hostWrite) rfl
  exact Calm.ite (k.same rfl) k

theorem Calm.cqPut {r : Nat} {ws : List Word} (h : Calm off a s) : Calm off a (s.cqPut r ws) :=
  Calm.ite h (Calm.ite h.cqWrite (Calm.ite (h.setRing.wr rfl) h.setRing))

theorem Calm.writeRecs {u n : Nat} (h : Calm off a s) : Calm off a (s.writeRecs u n) :=
  Calm.foldl (h.same rfl) fun _ _ k => Calm.foldl k fun _ _ k => k.cqPut

/-! ### Keys and sessions (14_memory.md, 17_sessions.md) -/

theorem Calm.modKey {g : KeyWork → KeyWork} (h : Calm off a s) : Calm off a (s.modKey g) := h.same rfl
theorem Calm.openSession (h : Calm off a s) : Calm off a s.openSession := h.modKey.wr rfl |>.wr rfl |>.wr rfl

theorem Calm.releaseSeats (h : Calm off a s) : Calm off a s.releaseSeats := by
  unfold State.releaseSeats
  extract_lets s1 s2 s3 s4 s5 s6
  have k1 : Calm off a s1 := h.foldl fun _ _ k => Calm.ite k (Calm.setSeat (Calm.ite k.endRecord k))
  have k2 : Calm off a s2 := k1.foldl fun _ _ k => Calm.ite (k.bump rfl |>.record) k
  have k3 : Calm off a s3 := k2.foldl fun _ _ k => k.wr rfl |>.wr rfl |>.wr rfl
  have k4 : Calm off a s4 := k3.loop fun _ _ k => k.wr rfl |>.wr rfl
  have k5 : Calm off a s5 := k4.loop fun _ _ k => k.wr rfl
  exact Calm.heldReg (Calm.seatRegs (Calm.ringIrqs (Calm.writeRecs (k5.of_regs_faces rfl rfl rfl (fun k => ⟨rfl, k.2⟩) fun _ k => k))))

theorem Calm.releaseKeys (h : Calm off a s) : Calm off a s.releaseKeys := h.modKey.wr rfl |>.wr rfl |>.wr rfl |>.wr rfl

theorem Calm.releaseSync (h : Calm off a s) : Calm off a s.releaseSync := by
  unfold State.releaseSync
  extract_lets s1 s2 s3 s4
  have k2 : Calm off a s2 := Calm.foldl (h.wr rfl) fun _ _ k => k.foldl fun _ _ k => k.dropSlots.setWin.wr rfl
  have k3 : Calm off a s3 := k2.loop fun _ _ k => k.modFace fun _ => rfl
  have k4 : Calm off a s4 := k3.resetRegs (by decide)
  exact k4.same rfl

theorem Calm.startRelease (h : Calm off a s) : Calm off a s.startRelease :=
  (h.wr rfl |>.releaseSeats.loop fun _ _ k => k.modFaceOff fun _ _ _ => rfl).releaseSync.releaseKeys.wr rfl |>.wr rfl

theorem Calm.bdySession (h : Calm off a s) : Calm off a s.bdySession := by
  have k : Calm off a (if s.key.open_ then s.openSession else s) := Calm.ite h.openSession h
  unfold State.bdySession
  dsimp only
  split
  · exact Calm.ite k.startRelease k
  · exact k

theorem Calm.bdyRotate (h : Calm off a s) : Calm off a s.bdyRotate := Calm.ite h (h.modKey.wr rfl |>.wr rfl |>.wr rfl |>.wr rfl |>.wr rfl |>.wr rfl)
theorem Calm.passPrune (h : Calm off a s) : Calm off a s.passPrune := h.modKey.wr rfl
theorem Calm.bdySweepEnd (h : Calm off a s) : Calm off a s.bdySweepEnd := Calm.ite h (Calm.ite (h.passPrune.wr rfl |>.wr rfl |>.wr rfl) h.passPrune)
theorem Calm.bdyKeys (h : Calm off a s) : Calm off a s.bdyKeys := h.bdySweepEnd.bdyRotate.bdySession

/-! ### Resets (23_resets.md) -/

theorem Calm.modHif {g : Hif → Hif} (h : Calm off a s) : Calm off a (s.modHif g) := h.same rfl

theorem Calm.bdyFlr (h : Calm off a s) : Calm off a s.bdyFlr := by
  unfold State.bdyFlr
  refine Calm.ite h (Calm.ite h.modHif.emit ?_)
  extract_lets own s1 s2 s3
  have k1 : Calm off a s1 := h.foldl fun _ _ k => k.freeCarried
  have k3 : Calm off a s3 := Calm.foldl (k1.same rfl) fun _ _ k => Calm.ite k.modSeat.cancelSeat k
  exact k3.modHif

theorem Calm.bdyDown (h : Calm off a s) : Calm off a s.bdyDown :=
  h.loop fun _ _ k => Calm.ite (Calm.ite (k.modFace (fun _ => by rfl) |>.setDown) (k.modFace fun _ => rfl)) k

/-! ### The boundary, and the end of a hand -/

/-- Nothing of a boundary starts a hand, runs a face or changes how the hands are numbered. -/
theorem Calm.boundary {e : Nat} (h : Calm off a s) : Calm off a (s.boundary e) :=
  h.bdyResident.bdyHostSigs.bdySigrs.bdyWindows.bdyTricks
    |>.bdyFolds.bdyTtl.bdyMode.bdyPrefix.bdyGrams.bdyTrim
    |>.bdyPorts.bdyBypass.bdyDomain.bdyPins.bdyInj.bdyDeck.bdyActs
    |>.bdyPower.bdyLevels.bdyCut.bdyProgs.bdyRegions
    |>.bdyFlr.bdyKeys.bdyDown

end Sys2Proof.Machine
end
section
/-! SUPPORT. `Calm`, for what is decided at the budget expiry before the boundary: the call ring's last messages, the steps of a commit and those of a
misdeal (R24, R33, R41), and for what the manager decides of the next hand (R375). -/
namespace Sys2Proof.Machine
open Sys2Proof.Claims

variable {off : Prop} {a s : State}

/-! ### The call ring at E (R68): faces wake, and traps are taken -/

theorem Calm.trapStat {f v p : Nat} (h : Calm off a s) : Calm off a (s.trapStat f v p) := h.wr rfl |>.wr rfl |>.wr rfl
theorem Calm.trapRecord {f v p : Nat} {i : Word} (h : Calm off a s) : Calm off a (s.trapRecord f v i p) := h.raise
theorem Calm.retireEnd {f : Nat} (h : Calm False a s) : Calm False a (s.retireEnd f) := h.modFaceOff nofun

theorem Calm.takeFault {f v p : Nat} {i : Word} (h : Calm False a s) : Calm False a (s.takeFault f v i p) := by
  have k {j : Nat} {q : Nat} : Calm False a ((((s.trapStat f v q).bump R.FCE_TRAP_STAT.FAULTS f).modFace f (fun y => { y with failed := true })).trapRecord
      f v i j) := h.trapStat.bump rfl |>.modFace (fun _ => by rfl) |>.trapRecord
  unfold State.takeFault
  dsimp only
  split
  · exact k
  · exact k
  · refine Calm.ite (k.wr rfl |>.faceFault) ?_
    split
    · exact k.modFaceOff nofun
    · exact k.modFaceOff nofun

theorem Calm.tryEnd {f : Nat} (h : Calm False a s) : Calm False a (s.tryEnd f) := by
  unfold State.tryEnd
  refine Calm.ite h (Calm.ite h.retireEnd ?_)
  split
  · exact h.revokeRecord.takeFault
  · exact h.retireEnd

theorem Calm.wake {f : Nat} (h : Calm False a s) : Calm False a (s.wake f) := by
  unfold State.wake
  dsimp only
  split
  · refine Calm.ite ?_ h
    split
    · next ht => exact (h.ctrAdd ht).modFaceOff nofun
    · exact h
  · exact Calm.ite (h.modFaceOff nofun) h
  · exact Calm.ite h (h.modFaceOff nofun)
  · split
    · exact Calm.ite h.tryEnd.tryEnd h.tryEnd
    · exact h.tryEnd
  · exact h

theorem Calm.trapFault {f v p : Nat} {i : Word} (h : Calm False a s) : Calm False a (s.trapFault f v i p) := h.takeFault.wake

theorem Calm.signal {f k o d i p : Nat} {n : Int} (h : Calm False a s) : Calm False a (s.signal f k n o d i p) := by
  unfold State.signal
  split
  · next ht => exact (h.ctrAdd ht).wake
  · exact h.revokeRecord.trapFault

theorem Calm.trickReleased {d i : Nat} (h : Calm False a s) : Calm False a (s.trickReleased d i) := h.modFace (fun _ => by rfl) |>.wake

theorem Calm.counted {p : SMap (List Nat)} (h : Calm off a s) : Calm off a { s with plays := p } := h.same rfl
theorem Calm.sent {r : List RMsg} (h : Calm off a s) : Calm off a { s with ring := r } := h.same rfl

theorem Calm.trickPlay {f g i : Nat} (h : Calm False a s) : Calm False a (s.trickPlay f g i) := by
  unfold State.trickPlay
  extract_lets r c who src s1 s2
  have k : Calm False a src := h.wr rfl |>.wr rfl
  have k2 : Calm False a s2 := Calm.sent (Calm.counted k)
  exact Calm.ite (Calm.ite k2.trickReleased k2) (Calm.counted (h.wr rfl))

theorem Calm.ringApply {m : RMsg} (h : Calm False a s) : Calm False a (s.ringApply m) := by
  cases m with
  | sig src dst k n => exact h.signal
  | play src home i => exact h.trickPlay
  | release src dst i => exact h.trickReleased

theorem Calm.ringDrain (h : Calm False a s) : Calm False a s.ringDrain := by
  unfold State.ringDrain
  extract_lets s1
  have k : Calm False a s1 := Calm.foldl (h.same rfl) fun _ _ k => k.ringApply
  exact Calm.foldl (k.same rfl) fun _ _ k => k.ringApply

theorem Calm.openTiles (h : Calm off a s) : Calm off a s.openTiles := by
  refine h.loop fun t f k => ?_
  dsimp only
  split
  · exact k
  · exact Calm.ite (k.bumpBy rfl) k

theorem Calm.dropChecks (h : Calm off a s) : Calm off a s.dropChecks :=
  Calm.same (s := s.bumpBy R.CAL_DUP_STAT.MISSED 0 s.fineChecks.length) (h.bumpBy rfl) rfl

/-! ### Steps C2 and C3: lengths, tokens, seats (R33) -/

theorem Calm.advanceLens (h : Calm off a s) : Calm off a s.advanceLens := h.foldl fun _ _ k => Calm.ite k (Calm.ite k.setCache.modSeat k.setCache)

theorem Calm.tokensIn {c n p x y : Nat} {ts ds : List Nat} (h : Calm off a s) : Calm off a (s.tokensIn c n p ts ds x y) :=
  Calm.ite h (Calm.ite h.modSeat (Calm.ite (Calm.setSeat (Calm.ite h h.record)).record (Calm.setSeat (Calm.ite h h.record))))

theorem Calm.releaseSeat {e : Nat} {w : Draw} (h : Calm off a s) : Calm off a (s.releaseSeat e w) := by
  unfold State.releaseSeat
  extract_lets d late toks code q hist d1 drafts s1 s2 x handle front s3 hi marked s4 cut stages s5
  have k2 : Calm off a s2 := Calm.bumpBy (Calm.bumpBy (Calm.same (s := s) h rfl) rfl) rfl
  have k3 : Calm off a s3 := Calm.ite k2.raise k2
  have k4 : Calm off a s4 := Calm.ite k3.modSeat.tokensIn k3.sendCtl
  have k5 : Calm off a s5 := Calm.foldl (k4.bump rfl) fun _ _ k => k.sendCtl
  exact Calm.ite k4 k5.setCache

theorem Calm.dealerCommit {e : Nat} (h : Calm off a s) : Calm off a (s.dealerCommit e) := Calm.foldl h fun _ _ k => k.releaseSeat

theorem Calm.freeCache {c : Cache} (h : Calm off a s) : Calm off a (s.freeCache c) := by
  refine Calm.foldl h fun t e k => ?_
  have k1 : Calm off a (if e.2.kind = 1 ∨ e.2.kind = 4 then { t with usedFrames := mset false t.usedFrames e.2.frame false } else t) := Calm.ite (k.same rfl) k
  exact Calm.ite (k1.same rfl) k1

theorem Calm.freePages {i : Nat} (h : Calm off a s) : Calm off a (s.freePages i) := h.freeCache.setCache

theorem Calm.freeSeatNow {i : Nat} (h : Calm off a s) : Calm off a (s.freeSeatNow i) :=
  Calm.same (s := (s.freePages i).setSeat i { gen := (s.seat i).gen + 1 }) h.freePages.setSeat rfl

theorem Calm.freeDue (h : Calm off a s) : Calm off a s.freeDue := by
  refine Calm.foldl (Calm.same (s := s.limbo.foldl (fun t c => t.freeCache c) s) (h.foldl fun _ _ k => k.freeCache) rfl) fun t e k => Calm.ite ?_ k
  exact Calm.freeSeatNow (Calm.ite k (Calm.ite (k.bump rfl |>.endRecord) (Calm.ite k k.endRecord)))

theorem Calm.refuse {i c n : Nat} (h : Calm off a s) : Calm off a (s.refuse i c n) := by
  unfold State.refuse
  split
  · exact h
  · exact h.dropAnte.freeCarried.bump rfl |>.record

theorem Calm.heldLate {e i n : Nat} (h : Calm off a s) : Calm off a (s.heldLate e i n) := by
  induction n generalizing s i with
  | zero => exact h
  | succ n ih =>
    unfold State.heldLate
    split
    · exact h
    · exact Calm.ite (ih h.refuse) (ih h)

theorem Calm.deadlines {e : Nat} (h : Calm off a s) : Calm off a (s.deadlines e) := by
  refine Calm.foldl h.heldLate fun t x k => Calm.ite ?_ k
  split
  exacts [k.cancelSeat, k.modSeat, k]

theorem Calm.landed {n : Nat} (h : Calm off a s) : Calm off a (s.landed n) := h.foldl fun _ _ k => Calm.ite k.modSeat k
theorem Calm.drainDue (h : Calm off a s) : Calm off a s.drainDue := h.foldl fun _ _ k => Calm.ite k.modSeat k

/-! ### Steps C4 and C5: pages, shared beginnings, grammars, trims -/

theorem Calm.setPte {i p : Nat} {e : Pte} (h : Calm off a s) : Calm off a (s.setPte i p e) := h.setCache

theorem Calm.ticketEnd {d : Bool} {i : Nat} (h : Calm off a s) : Calm off a (s.ticketEnd d i) := by
  unfold State.ticketEnd
  extract_lets seat page e frame freeF freeS
  have hF {t : State} {x : Nat} (k : Calm off a t) : Calm off a (freeF t x) := k.same rfl
  have hS {t : State} {x : Nat} (k : Calm off a t) : Calm off a (freeS t x) := k.same rfl
  refine Calm.ite (Calm.ite (hF h.setPte) (hS h.setPte)) (Calm.ite ?_ h)
  clear_value frame
  split
  · exact Calm.ite (hS h.setPte) (hF h.setPte)
  · exact h

theorem Calm.seatsMoved (h : Calm off a s) : Calm off a s.seatsMoved := h.foldl fun _ _ k => Calm.ite k.modSeat (Calm.ite k.modSeat k)

theorem Calm.commitPages (h : Calm off a s) : Calm off a s.commitPages :=
  Calm.seatsMoved (Calm.foldl (Calm.foldl (Calm.foldl h fun _ _ k => k.setPte) fun _ _ k => k.ticketEnd) fun _ _ k => Calm.ite k.modSeat k.emit)

theorem Calm.commitPrefix (h : Calm off a s) : Calm off a s.commitPrefix := by
  refine h.foldl fun t e k => ?_
  have k1 {n : Nat} : Calm off a (t.wr R.SRV_PFX_STATE.REFS e.1 n) := k.wr rfl
  exact Calm.ite (Calm.same (s := ((t.wr R.SRV_PFX_STATE.REFS e.1 _).wr R.SRV_PFX_STATE.STATE e.1 0).wr R.SRV_PFX_STATE.PAGES e.1 0) (k1.wr rfl |>.wr rfl) rfl) k1

theorem Calm.commitGrams (h : Calm off a s) : Calm off a s.commitGrams := by
  refine h.loop fun t g k => ?_
  have k1 {n : Nat} : Calm off a (t.wr R.DLR_GRAM_STATE.REFS g n) := k.wr rfl
  exact Calm.ite (Calm.wr (k1.same rfl) rfl) k1

theorem Calm.invalidated {f n : Nat} (h : Calm off a s) : Calm off a (s.invalidated f n) := h.modFace (fun _ => by rfl) |>.bumpBy rfl
theorem Calm.cacheDrop {f g : Nat} (h : Calm off a s) : Calm off a (s.cacheDrop f g) := Calm.ite h (Calm.ite (h.modFace (fun _ => by rfl) |>.invalidated) h)

theorem Calm.dropFreed {m : SMap Bool} (h : Calm off a s) : Calm off a (s.dropFreed m) :=
  Calm.ite h (Calm.loop h fun _ _ k => Calm.foldl k fun _ _ k => k.cacheDrop)

theorem Calm.calApply {f b : Nat} (h : Calm off a s) : Calm off a (s.calApply f b) := by
  unfold State.calApply
  split
  · exact h
  · exact h.modCal.wr rfl |>.restartMons.noteStale

theorem Calm.commitCal (h : Calm off a s) : Calm off a s.commitCal := h.foldl fun _ _ k => k.calApply

/-! ### Step C6: notices, mirrors, slots, faces and the report -/

theorem Calm.sendNotice {d i n : Nat} {ws : List WinEntry} (h : Calm off a s) : Calm off a (s.sendNotice d i ws n) := by
  induction n generalizing s ws with
  | zero => exact h
  | succ n ih => exact Calm.ite h.sendCtl (ih h.sendCtl)

theorem Calm.modHand {g : HandSt → HandSt} (h : Calm off a s) (hp : (g s.hand).annPeriod = s.hand.annPeriod)
    (hg : s.hand.isOver → (g s.hand).isOver) : Calm off a (s.modHand g) :=
  h.of_regs_faces rfl rfl (by rw [State.plan, State.plan, modHand_hand, hp]; rfl) hg fun _ k => k

theorem Calm.commitNotices {n : Nat} (h : Calm off a s) : Calm off a (s.commitNotices n) := by
  unfold State.commitNotices
  extract_lets devs t
  have k : Calm off a t := h.foldl fun _ _ k => k.sendNotice
  exact Calm.ite k (k.modHand rfl id)

theorem Calm.mirrorCtr {f n i : Nat} {c : Ctr} (h : Calm off a s) : Calm off a (s.mirrorCtr f n i c) := by
  unfold State.mirrorCtr
  extract_lets j addr go
  have hgo (v : Nat) : Calm off a (go v) := Calm.ite (h.hostWrite.modFace (fun _ => by rfl) |>.msix.wr rfl) (h.hostWrite.modFace fun _ => rfl)
  split
  · exact hgo _
  · exact Calm.ite (hgo _) h

theorem Calm.mirrors {n : Nat} (h : Calm off a s) : Calm off a (s.mirrors n) :=
  h.loop fun _ _ k => Calm.ite (k.foldl fun _ _ k => k.mirrorCtr) k

/-- Mirrors that wait for the records of the hand are set aside, and what had left stays. -/
theorem Calm.publish {n : Nat} (h : Calm off a s) : Calm off a (s.publish n) := by
  have aside : Calm off { a with out := [] } { s with out := [] } := ⟨h.rd, h.plan, h.hand, h.faces, nofun⟩
  have k := aside.mirrors (n := n)
  exact Calm.ite ⟨k.rd, k.plan, k.hand, k.faces, h.out⟩ h.mirrors.ringIrqs

theorem Calm.freeSlot {f w i : Nat} (h : Calm off a s) : Calm off a (s.freeSlot f w i) :=
  Calm.setWin (h.loop fun _ _ k => Calm.ite (k.modFace fun _ => rfl) k)

theorem Calm.consumeSlots (h : Calm off a s) : Calm off a s.consumeSlots := by
  refine h.foldl fun _ _ k => k.foldl fun _ _ k => ?_
  split
  · exact k.freeSlot
  · exact k

theorem Calm.commitFace {f : Nat} (h : Calm off a s) : Calm off a (s.commitFace f) :=
  Calm.ite (h.wr rfl |>.wr rfl |>.wr rfl |>.bump rfl |>.modFace (fun _ => by rfl) |>.setReg rfl |>.wr rfl |>.wr rfl)
    (h.wr rfl |>.wr rfl |>.wr rfl |>.bump rfl |>.modFace (fun _ => rfl))

theorem Calm.dtrickShow {i : Nat} (h : Calm off a s) : Calm off a (s.dtrickShow i) := h.wr rfl
theorem Calm.withdrawPlays {d : Nat} (h : Calm off a s) : Calm off a (s.withdrawPlays d) := h.foldl fun _ _ k => Calm.ite (Calm.dtrickShow (k.same rfl)) k

theorem Calm.managerReport {d o n : Nat} (h : Calm off a s) : Calm off a (s.managerReport d o n) := by
  unfold State.managerReport
  split
  · exact h
  · exact Calm.ite (Calm.ite h h.modRep) (Calm.withdrawPlays (Calm.modRep (Calm.ite h h.modRep)))

theorem Calm.sendReport {o n l : Nat} (h : Calm off a s) : Calm off a (s.sendReport o n l) := Calm.ite h.managerReport (Calm.ite h h.sendCtl)

theorem Calm.sendAborts {n : Nat} (h : Calm off a s) : Calm off a (s.sendAborts n) := Calm.foldl h fun _ _ k => k.sendCtl

/-! ### A misdeal (R41) -/

theorem Calm.misdealFace {f : Nat} {b : Bool} (h : Calm off a s) : Calm off a (s.misdealFace f b) := by
  unfold State.misdealFace
  extract_lets bad slack t
  have k : Calm off a t := h.wr rfl |>.wrB rfl |>.wrB rfl
  exact Calm.modFace (Calm.ite (k.bump rfl) k) (fun _ => rfl)

theorem Calm.resetTricks (h : Calm off a s) : Calm off a s.resetTricks := Calm.loop (h.same rfl) fun _ _ k => Calm.ite (k.wr rfl |>.wr rfl) k

theorem Calm.misdealPages (h : Calm off a s) : Calm off a s.misdealPages := Calm.foldl (Calm.foldl h fun _ _ k => k.same rfl) fun _ _ k => k.ticketEnd

theorem Calm.dealerMisdeal (h : Calm off a s) : Calm off a s.dealerMisdeal := h.foldl fun _ _ k => k.same rfl
theorem Calm.withdrawOwn (h : Calm off a s) : Calm off a s.withdrawOwn := Calm.ite h.withdrawPlays h

/-! ### What the manager decides of the next hand (R375, R459, R45) -/

theorem Calm.judge {n : Nat} (h : Calm off a s) : Calm off a (s.judge n) := h.foldl fun _ _ k => Calm.foldl k.modRep fun _ _ k => Calm.ite k.modRep k
theorem Calm.decideSlot {r : Nat} (h : Calm off a s) : Calm off a (s.decideSlot r) := h.modRep

theorem Calm.screenAntes {n i m : Nat} (h : Calm off a s) : Calm off a (s.screenAntes n i m) := by
  induction m generalizing s i with
  | zero => exact h
  | succ m ih =>
    unfold State.screenAntes
    split
    · exact h
    · exact Calm.ite (ih h.refuse) (ih h)

theorem Calm.sendRecord {x : Seat} (h : Calm off a s) : Calm off a (s.sendRecord x) := Calm.ite h.emit h

theorem Calm.freeSeat {r : Nat × State} (h : Calm off a s) (hr : s.freeSeat = some r) : Calm off a r.2 := by
  unfold State.freeSeat at hr
  dsimp only at hr
  split at hr
  · cases hr
  · cases hr; exact h.draw

theorem Calm.admitSeat {x : Ante} {n r l : Nat} (h : Calm off a s) : Calm off a (s.admitSeat x n r l) := by
  unfold State.admitSeat
  extract_lets c m mk go
  have hgo {t : State} (k : Calm off a t) (i : Nat) (y : Seat) : Calm off a (go t i y) :=
    Calm.record (Calm.sendRecord (Calm.bump (Calm.setSeat (k.same rfl)) rfl))
  split
  · exact hgo h.setCache _ _
  · split
    · exact hgo h _ _
    · split
      · next hr => exact hgo (h.freeSeat hr) _ _
      · exact h

theorem Calm.admitLoop {n v d m : Nat} {rs : List Nat} (h : Calm off a s) : Calm off a (s.admitLoop n rs v d m) := by
  induction m generalizing s rs v d with
  | zero => exact h
  | succ m ih =>
    unfold State.admitLoop
    split
    · exact h
    · refine Calm.ite h ?_
      split
      · exact ih h
      · split
        · exact h
        · split
          · exact ih h.dropAnte.admitSeat
          · exact ih h

theorem Calm.heldRecords {n i m : Nat} (h : Calm off a s) : Calm off a (s.heldRecords n i m) := by
  induction m generalizing s i with
  | zero => exact h
  | succ m ih =>
    unfold State.heldRecords
    split
    · exact h
    · exact Calm.ite (ih h) (Calm.ite (ih h.refuse) (ih (Calm.ite (h.same rfl) (Calm.record (Calm.bump (h.same rfl) rfl)))))

theorem Calm.admission {n : Nat} (h : Calm off a s) : Calm off a (s.admission n) := h.screenAntes.admitLoop.heldRecords

theorem Calm.decide_ {n : Nat} (h : Calm off a s) : Calm off a (s.decide_ n) := by
  unfold State.decide_
  extract_lets s1 s2 s3
  have k1 : Calm off a s1 := h.judge.ite h
  have k3 : Calm off a s3 := k1.admission.foldl fun _ _ k => k.decideSlot
  exact k3.same rfl

end Sys2Proof.Machine
end
section
/-! SUPPORT. What lands at the budget expiry does not depend on the interrupts signalled in the hand (R68, R372): `Twin s t` says that `t` is `s` with none
signalled, and each operation of the call ring's last messages keeps it. -/
namespace Sys2Proof.Machine
open Sys2Proof.Claims

/-- The state with no interrupt vector signalled in this hand. -/
def State.irqsFresh (s : State) : State := { s with irqDone := [] }

/-- `t` is `s`, but for the vectors signalled. -/
def Twin (s t : State) : Prop := t = s.irqsFresh

variable {s t u v : State}

theorem Twin.wr {f : Fld} {i n : Nat} (h : Twin s t) : Twin (s.wr f i n) (t.wr f i n) := by cases h; rfl
theorem Twin.bump {f : Fld} {i : Nat} (h : Twin s t) : Twin (s.bump f i) (t.bump f i) := by cases h; rfl
theorem Twin.modFace {f : Nat} {g : Face → Face} (h : Twin s t) : Twin (s.modFace f g) (t.modFace f g) := by cases h; rfl

theorem Twin.ite {c : Prop} [Decidable c] (h : Twin s t) (k : Twin u v) : Twin (if c then s else u) (if c then t else v) := by split <;> assumption

theorem Twin.foldl {α : Type} {g : State → α → State} (h : Twin s t) (hg : ∀ u e, Twin (g u e) (g u.irqsFresh e)) (l : List α) :
    Twin (l.foldl g s) (l.foldl g t) := by
  induction l generalizing s t with
  | nil => exact h
  | cons e l ih => cases h; exact ih (hg _ _)

theorem Twin.loop {g : State → Nat → State} (h : Twin s t) (hg : ∀ u i, Twin (g u i) (g u.irqsFresh i)) (n : Nat) : Twin (loop n s g) (loop n t g) :=
  h.foldl hg _

/-! ### Records, face faults and counters -/

theorem inject_irqsFresh (s : State) (d : Det) (u : Nat) (p : Nat → Bool) :
    s.irqsFresh.inject d u p = (s.inject d u p).map (fun r => (r.1, r.2.irqsFresh)) := by
  unfold State.inject
  rw [show s.irqsFresh.injSlot d u = s.injSlot d u from rfl]
  cases s.injSlot d u with
  | none => rfl
  | some i => exact congrArg (fun t => some (s.rd R.FLT_INJ_UNIT.PARAM i, t)) (Twin.ite (Twin.wr (Twin.ite rfl rfl)) (Twin.ite rfl rfl))

theorem marked_irqsFresh (s : State) (e : Event) : s.irqsFresh.marked e = ((s.marked e).1.irqsFresh, (s.marked e).2) := by
  unfold State.marked
  rw [inject_irqsFresh, show s.irqsFresh.injLive = s.injLive from rfl, show s.irqsFresh.injSlot e.det e.unit = s.injSlot e.det e.unit from rfl]
  cases s.injLive.find? (fun i => decide (i.1 = e.det.row.1 ∧ i.2.1 = e.unit)) with
  | some i => rfl
  | none => cases s.injSlot e.det e.unit <;> cases s.inject e.det e.unit (fun _ => false) <;> rfl

theorem Twin.raise {e : Event} (h : Twin s t) : Twin (s.raise e) (t.raise e) := by
  cases h
  unfold State.raise
  rw [marked_irqsFresh]
  generalize s.marked e = m
  refine Twin.ite rfl ?_
  dsimp only
  rw [show m.2.record m.1.irqsFresh = m.2.record m.1 from rfl, show m.1.irqsFresh.now = m.1.now from rfl, show m.1.irqsFresh.faultq = m.1.faultq from rfl]
  cases mergeRec m.1.now (m.2.record m.1) m.1.faultq with
  | some q => rfl
  | none => exact Twin.ite rfl (Twin.wr (Twin.bump (Twin.ite rfl rfl)))

theorem Twin.trickGone {f i : Nat} (h : Twin s t) : Twin (s.trickGone f i) (t.trickGone f i) := by
  cases h
  exact Twin.ite rfl rfl

theorem Twin.homeLost {f : Nat} (h : Twin s t) : Twin (s.homeLost f) (t.homeLost f) := by
  cases h
  exact Twin.ite rfl (Twin.loop (g := fun t i => t.trickGone f i) rfl (fun _ _ => Twin.trickGone rfl) 256)

theorem Twin.faceFault {f c : Nat} (h : Twin s t) : Twin (s.faceFault f c) (t.faceFault f c) := by
  cases h
  have k {g e} : Twin ((((s.modFace f g).setDown f true).homeLost f).raise e) ((((s.irqsFresh.modFace f g).setDown f true).homeLost f).raise e) :=
    Twin.raise (Twin.homeLost rfl)
  exact Twin.ite (Twin.ite k.modFace k) k

theorem ctrAdd_irqsFresh (s : State) (f k : Nat) (n : Int) : s.irqsFresh.ctrAdd f k n = (s.ctrAdd f k n).map State.irqsFresh := by
  unfold State.ctrAdd
  rw [apply_ite (Option.map State.irqsFresh)]
  rfl

theorem Twin.revokeRecord {o : Nat} {i : Word} (h : Twin s t) : Twin (s.revokeRecord o i) (t.revokeRecord o i) := by
  cases h
  exact Twin.raise rfl

/-! ### Traps, and faces that wake -/

theorem Twin.face (h : Twin s t) (f : Nat) : t.face f = s.face f := by cases h; rfl

theorem Twin.takeFault {f n p : Nat} {i : Word} (h : Twin s t) : Twin (s.takeFault f n i p) (t.takeFault f n i p) := by
  cases h
  have k {q j} : Twin ((((s.trapStat f n q).bump R.FCE_TRAP_STAT.FAULTS f).modFace f (fun y => { y with failed := true })).trapRecord f n i j)
      ((((s.irqsFresh.trapStat f n q).bump R.FCE_TRAP_STAT.FAULTS f).modFace f (fun y => { y with failed := true })).trapRecord f n i j) := Twin.raise rfl
  unfold State.takeFault
  rw [show s.irqsFresh.face f = s.face f from rfl]
  dsimp only
  split
  · exact k
  · exact k
  · refine Twin.ite k.wr.faceFault ?_
    split
    · exact k.modFace
    · exact k.modFace

theorem Twin.tryEnd {f : Nat} (h : Twin s t) : Twin (s.tryEnd f) (t.tryEnd f) := by
  cases h
  refine Twin.ite rfl (Twin.ite rfl ?_)
  rw [show s.irqsFresh.imbalance f = s.imbalance f from rfl]
  split
  · exact Twin.takeFault (Twin.revokeRecord rfl)
  · rfl

theorem Twin.wake {f : Nat} (h : Twin s t) : Twin (s.wake f) (t.wake f) := by
  cases h
  have ke : Twin (s.tryEnd f) (s.irqsFresh.tryEnd f) := Twin.tryEnd rfl
  unfold State.wake
  rw [show s.irqsFresh.face f = s.face f from rfl]
  simp only [ctrAdd_irqsFresh, ke.face f]
  split
  · next k n _ =>
    refine Twin.ite ?_ rfl
    cases s.ctrAdd f k (-(n : Int)) <;> rfl
  · exact Twin.ite rfl rfl
  · exact Twin.ite rfl rfl
  · split
    · exact Twin.ite ke.tryEnd ke
    · exact ke
  · rfl

theorem Twin.signal {f k o d i p : Nat} {n : Int} (h : Twin s t) : Twin (s.signal f k n o d i p) (t.signal f k n o d i p) := by
  cases h
  unfold State.signal
  rw [ctrAdd_irqsFresh]
  cases s.ctrAdd f k n with
  | some u => exact Twin.wake rfl
  | none => exact Twin.wake (Twin.takeFault (Twin.revokeRecord rfl))

/-! ### The call ring, tiles and checks -/

theorem Twin.ringApply {m : RMsg} (h : Twin s t) : Twin (s.ringApply m) (t.ringApply m) := by
  cases h
  cases m with
  | sig src dst k n => exact Twin.signal rfl
  | play src home i => exact Twin.ite (Twin.ite (Twin.wake rfl) rfl) rfl
  | release src dst i => exact Twin.wake rfl

theorem Twin.ringDrain (h : Twin s t) : Twin s.ringDrain t.ringDrain := by
  cases h
  unfold State.ringDrain
  extract_lets s1 t1
  have k : Twin s1 t1 := Twin.foldl (g := fun t m => t.ringApply m) rfl (fun _ _ => Twin.ringApply rfl) s.ring
  clear_value s1 t1
  cases k
  exact Twin.foldl (g := fun t m => t.ringApply m) rfl (fun _ _ => Twin.ringApply rfl) s1.ring

theorem Twin.openTiles (h : Twin s t) : Twin s.openTiles t.openTiles := by
  cases h
  refine Twin.loop rfl (fun u f => ?_) s.nFaces
  rw [show u.irqsFresh.face f = u.face f from rfl]
  dsimp only
  split
  · rfl
  · exact Twin.ite rfl rfl

theorem Twin.dropChecks (h : Twin s t) : Twin s.dropChecks t.dropChecks := by cases h; rfl

end Sys2Proof.Machine
end
section
/-! The times of a hand: missed ticks, the warning, the budget expiry and the announcement (01_ticks_and_hands.md R14, R18 to R20, R24, R25, R33, R41). -/
namespace Sys2Proof.Machine
open Sys2Proof.Claims

/-! ### The end of a hand (R33, R41) -/

theorem endHand_ends (s : State) : HandOver s.endHand ∧ (∀ g ∈ handFlds, s.endHand.rd g 0 = s.rd g 0) ∧ ∀ o ∈ s.out, o ∈ s.endHand.out := by
  unfold State.endHand
  extract_lets run s1 s2
  obtain ⟨m, hm, hf⟩ := loop_setFace (s := s1) (step := fun t f => t.modFace f (fun x =>
    { x with run := .off, handler := .none, pinHands := if run && !x.pinCounted then x.pinHands + 1 else x.pinHands, pinCounted := false }))
    (g := fun _ x => { x with run := .off, handler := .none, pinHands := if run && !x.pinCounted then x.pinHands + 1 else x.pinHands, pinCounted := false })
    s1.nFaces (fun m f _ he => by rw [State.modFace, he])
  have h2 : s2 = { s1 with faces := m } := hm
  have base : Calm True s2 s2 := by
    rw [h2]
    exact ⟨fun _ _ => rfl, rfl, fun _ => ⟨rfl, rfl, rfl⟩, fun _ f hn => congrArg Face.run ((hf f).trans (if_pos hn)), fun _ k => k⟩
  obtain ⟨hrd, -, hand, faces, out⟩ := base.boundary (e := s.hand.expiry + s.hand.period)
  obtain ⟨hrun, hidle, howed⟩ := hand trivial
  have hrd2 (g : Fld) (i : Nat) : s2.rd g i = s.rd g i := by rw [h2]; rfl
  refine ⟨⟨hrun, hidle, howed, fun f hn => faces trivial f ?_⟩, fun g hg => (hrd g hg).trans (hrd2 g 0), fun o ho => out o (by rw [h2]; exact ho)⟩
  rw [State.nFaces, hrd R.PLT_CAP_FACES.COUNT (by decide)] at hn
  exact hn

/-! ### A tick without a hand (R19) -/

theorem portOut_emits {s : State} {port dst : Nat} (m : Msg) (h : s.rd R.LNK_PORT_STATE.STATE port = 4) :
    Out.ctl port dst s.devAddr m ∈ (s.portOut port (.ctl port dst s.devAddr m)).out := by
  unfold State.portOut
  rw [if_pos ⟨h, rfl, rfl⟩]
  exact List.mem_append_right _ (List.mem_singleton.mpr rfl)

/-- A message of this device to a device whose port is ACTIVE leaves at once. -/
theorem sendCtl_emits {s : State} {dst port : Nat} (m : Msg) (h : RoutedNow s dst port) : Out.ctl port dst s.devAddr m ∈ (s.sendCtl dst m).out := by
  obtain ⟨⟨d, hr⟩, ha⟩ := h
  rw [State.sendCtl, hr]
  exact portOut_emits m ha

theorem routedNow_beside {s t : State} {dst port : Nat} {rs : List RegId} (h : RoutedNow s dst port) (hb : RegsBeside rs s t)
    (hr : .LNK_ROUTE ∉ rs := by decide) (hu : .PLT_CAP_UNITS ∉ rs := by decide) (hp : .LNK_PORT_STATE ∉ rs := by decide) : RoutedNow t dst port := by
  have hroute (j i : Nat) : t.rd (R.LNK_ROUTE.PORT j) i = s.rd (R.LNK_ROUTE.PORT j) i ∧ t.rd (R.LNK_ROUTE.VALID j) i = s.rd (R.LNK_ROUTE.VALID j) i ∧
      t.rd (R.LNK_ROUTE.DATELINE j) i = s.rd (R.LNK_ROUTE.DATELINE j) i := ⟨hb.rd _ _ hr, hb.rd _ _ hr, hb.rd _ _ hr⟩
  obtain ⟨⟨d, hd⟩, ha⟩ := h
  refine ⟨⟨d, ?_⟩, (hb.rd _ _ hp).trans ha⟩
  simp only [State.route, State.portPresent, hroute, hb.rd R.PLT_CAP_UNITS.PORTS 0 hu, hb.rd R.LNK_PORT_STATE.STATE _ hp] at hd ⊢
  exact hd

theorem routedNow_of_regs {s t : State} {dst port : Nat} (h : RoutedNow s dst port) (e : t.regs = s.regs) : RoutedNow t dst port :=
  routedNow_beside (rs := []) h fun _ _ _ => by rw [State.reg, e]; rfl

theorem foldl_sendCtl_emits {s : State} {dst port : Nat} (m : Msg) (h : RoutedNow s dst port) {ds : List Nat} (hd : dst ∈ ds) :
    Out.ctl port dst s.devAddr m ∈ (ds.foldl (fun u d => u.sendCtl d m) s).out := by
  induction ds generalizing s with
  | nil => cases hd
  | cons d ds ih =>
    have hs := Sends.sendCtl s d m
    rcases List.mem_cons.mp hd with rfl | hm
    · exact (Calm.foldl (Calm.refl (s.sendCtl dst m)) fun _ _ k => k.sendCtl).out _ (sendCtl_emits m h)
    · have k := ih (routedNow_of_regs h (Sends.regs hs)) hm
      rw [show (s.sendCtl d m).devAddr = s.devAddr from Sends.rd hs _ _] at k
      exact k

/-- The tick of hand h, which was missed, is over at E: its abort notices have left. -/
theorem idleEnd_ends {s : State} {h : Nat} (ho : s.hand.abortOwed = some h) : HandOver s.idleEnd ∧
    s.idleEnd.rd R.SYN_HAND_COMMITTED.HAND 0 = s.rd R.SYN_HAND_COMMITTED.HAND 0 ∧
    s.idleEnd.rd R.SYN_HAND_COUNTS.MISDEALS 0 = s.rd R.SYN_HAND_COUNTS.MISDEALS 0 ∧
    ∀ d ∈ s.abortDevs, ∀ port, RoutedNow s d port → Out.ctl port d s.devAddr (.abort h) ∈ s.idleEnd.out := by
  have he : s.idleEnd = (((s.irqsFresh.advance s.hand.expiry).sendAborts h).sendReport 2 s.handNum 0).endHand := by
    unfold State.idleEnd
    rw [ho]
    rfl
  have ka := (Calm.refl (s.irqsFresh.advance s.hand.expiry)).sendAborts (n := h)
  have kr := (Calm.refl ((s.irqsFresh.advance s.hand.expiry).sendAborts h)).sendReport (o := 2) (n := s.handNum) (l := 0)
  rw [he]
  obtain ⟨hover, hrd, hout⟩ := endHand_ends (((s.irqsFresh.advance s.hand.expiry).sendAborts h).sendReport 2 s.handNum 0)
  have hsame (g : Fld) (hg : g ∈ handFlds) := (hrd g hg).trans ((kr.rd g hg).trans (ka.rd g hg))
  exact ⟨hover, hsame _ (by decide), hsame _ (by decide), fun d hd port hp => hout _ (kr.out _
    (foldl_sendCtl_emits (s := s.irqsFresh.advance s.hand.expiry) (.abort h) (routedNow_of_regs hp rfl) hd))⟩

/-! ### The budget expiry (R24, R33, R41) -/

/-- A commit takes the number of its hand as the committed one. -/
theorem commitHand_numbers (s : State) : s.commitHand.rd R.SYN_HAND_COMMITTED.HAND 0 = s.handNum ∧
    s.commitHand.rd R.SYN_HAND_COUNTS.MISDEALS 0 = s.rd R.SYN_HAND_COUNTS.MISDEALS 0 := by
  unfold State.commitHand
  extract_lets h e old s2 s3 s4 s5 s6 s7 s8 s9
  have k2 : Calm False s s2 := (Calm.refl s).advanceLens.dealerCommit
  have k3 : Calm False s s3 := k2.freeDue.deadlines.landed.drainDue.writeRecs
  have k4 : Calm False s s4 := k3.commitPages.commitPrefix.commitGrams.dropFreed
  have k5 : Calm False s s5 := k4.seatRegs.heldReg.commitCal.bdyCut
  have k6 : Calm False (s5.wr R.SYN_HAND_COMMITTED.HAND 0 h) s6 := Calm.publish (Calm.commitNotices (Calm.refl _))
  have k7 : Calm False (s5.wr R.SYN_HAND_COMMITTED.HAND 0 h) s7 := k6.ite k6.consumeSlots
  have k8 : Calm False (s5.wr R.SYN_HAND_COMMITTED.HAND 0 h) s8 := Calm.ite (k7.same rfl) k7
  have k9 : Calm False (s5.wr R.SYN_HAND_COMMITTED.HAND 0 h) s9 := k8.loop fun _ _ k => k.commitFace
  have kt := (k9.modHand (g := fun x => if s.hand.held then x else { x with redealNext := false, redealReset := false, failedBefore := [] })
    (by split <;> rfl) (fun k => by split <;> exact k)).sendReport (o := 0) (n := h) (l := s.slackMin)
  refine ⟨(kt.rd _ (by decide)).trans ((rd_wr_same _ R.SYN_HAND_COMMITTED.HAND _ _ (by decide)).trans (Nat.mod_eq_of_lt (rd_lt s R.SYN_HAND_NUM.HAND 0))),
    (kt.rd _ (by decide)).trans ((rd_wr_reg _ _ _ _ _ _ (by decide)).trans (k5.rd _ (by decide)))⟩

/-- A misdeal is counted, and leaves the committed number. -/
theorem misdealHand_numbers (s : State) : s.misdealHand.rd R.SYN_HAND_COMMITTED.HAND 0 = s.rd R.SYN_HAND_COMMITTED.HAND 0 ∧
    s.misdealHand.rd R.SYN_HAND_COUNTS.MISDEALS 0 =
      min (s.rd R.SYN_HAND_COUNTS.MISDEALS 0 + 1) (2 ^ R.SYN_HAND_COUNTS.MISDEALS.wd - 1) := by
  unfold State.misdealHand
  extract_lets h reset bad exempt counted twice s1 s2 s3 s4 s5 again
  have k1 : Calm False s s1 := Calm.ite ((Calm.refl s).bump rfl) (Calm.refl s)
  have k2 : Calm False (s1.bump R.SYN_HAND_COUNTS.MISDEALS 0) s2 := (Calm.refl _).loop fun _ _ k => k.misdealFace
  have k3 : Calm False (s1.bump R.SYN_HAND_COUNTS.MISDEALS 0) s3 := k2.resetTricks.misdealPages.dealerMisdeal.withdrawOwn
  have k4 : Calm False (s1.bump R.SYN_HAND_COUNTS.MISDEALS 0) s4 := k3.foldl fun _ _ k => k.faceFault
  have k5 : Calm False (s1.bump R.SYN_HAND_COUNTS.MISDEALS 0) s5 := k4.sendAborts
  have kt {g o n l} (hp) (hg) := (k5.modHand (g := g) hp hg).sendReport (o := o) (n := n) (l := l)
  refine ⟨((kt rfl fun k => k).rd _ (by decide)).trans ((rd_wr_reg _ _ _ _ _ _ (by decide)).trans (k1.rd _ (by decide))),
    ((kt rfl fun k => k).rd _ (by decide)).trans ((rd_bump_same _ _ _ (by decide)).trans ?_)⟩
  rw [k1.rd R.SYN_HAND_COUNTS.MISDEALS (by decide)]

/-- Whether the hand is good does not depend on the vectors signalled in it. -/
theorem handGood_twin {s t : State} (h : Twin s t) : HandGood t ↔ HandGood s := by cases h; exact Iff.rfl

theorem handGood_iff (t : State) : HandGood t ↔ ((List.range t.nFaces).any (fun f => t.fails f) || t.blocked) = false := by
  simp only [HandGood, Bool.or_eq_false_iff, List.any_eq_false, List.mem_range, State.fails, Bool.or_eq_true, Option.isNone_iff_eq_none, not_or,
    Bool.not_eq_true, and_comm, ne_eq]

/-- The hand at its budget expiry, every message in flight landed. -/
def State.atE (s : State) : State := (s.irqsFresh.advance s.hand.expiry).ringDrain.openTiles.dropChecks

theorem atE_twin (s : State) : Twin (atExpiry s) s.atE := by
  have k : Twin (s.advance s.hand.expiry) (s.irqsFresh.advance s.hand.expiry) := rfl
  unfold atExpiry State.atE
  exact k.ringDrain.openTiles.dropChecks

theorem atE_rd (s : State) (g : Fld) (hg : g ∈ handFlds) : s.atE.rd g 0 = s.rd g 0 :=
  (Calm.refl (s.irqsFresh.advance s.hand.expiry)).ringDrain.openTiles.dropChecks.rd g hg

theorem execBudgetExpiry_runs {s : State} (hd : s.dead = false) (hi : s.hand.idle = false) (hr : s.hand.running = true) :
    execBudgetExpiry s = .next (if (List.range s.atE.nFaces).any (fun f => s.atE.fails f) || s.atE.blocked then s.atE.misdealHand
      else s.atE.commitHand).endHand := by
  unfold execBudgetExpiry
  rw [if_neg (ne_true_of_eq_false hd), if_neg (ne_true_of_eq_false hi), if_neg (by rw [hr]; nofun)]
  rfl

/-- A good hand commits, any other misdeals, and either is over. -/
theorem execBudgetExpiry_decides {s : State} (hd : s.dead = false) (hi : s.hand.idle = false) (hr : s.hand.running = true) :
    ∃ t, execBudgetExpiry s = .next t ∧ HandOver t ∧
      (HandGood (atExpiry s) → t.rd R.SYN_HAND_COMMITTED.HAND 0 = s.handNum ∧
        t.rd R.SYN_HAND_COUNTS.MISDEALS 0 = s.rd R.SYN_HAND_COUNTS.MISDEALS 0) ∧
      (¬ HandGood (atExpiry s) → t.rd R.SYN_HAND_COMMITTED.HAND 0 = s.rd R.SYN_HAND_COMMITTED.HAND 0 ∧
        t.rd R.SYN_HAND_COUNTS.MISDEALS 0 = min (s.rd R.SYN_HAND_COUNTS.MISDEALS 0 + 1) (2 ^ R.SYN_HAND_COUNTS.MISDEALS.wd - 1)) := by
  have hgood : HandGood (atExpiry s) ↔ _ := (handGood_twin (atE_twin s)).symm.trans (handGood_iff s.atE)
  refine ⟨_, execBudgetExpiry_runs hd hi hr, (endHand_ends _).1, fun hg => ?_, fun hg => ?_⟩
  · rw [hgood.mp hg, if_neg Bool.false_ne_true]
    obtain ⟨-, hrd, -⟩ := endHand_ends s.atE.commitHand
    obtain ⟨hc, hm⟩ := commitHand_numbers s.atE
    rw [hrd _ (by decide), hrd _ (by decide), hc, hm]
    exact ⟨atE_rd s R.SYN_HAND_NUM.HAND (by decide), atE_rd s _ (by decide)⟩
  · rw [if_pos (Bool.eq_true_of_not_eq_false fun e => hg (hgood.mpr e))]
    obtain ⟨-, hrd, -⟩ := endHand_ends s.atE.misdealHand
    obtain ⟨hc, hm⟩ := misdealHand_numbers s.atE
    rw [hrd _ (by decide), hrd _ (by decide), hc, hm, atE_rd s _ (by decide), atE_rd s _ (by decide)]
    exact ⟨rfl, rfl⟩

end Sys2Proof.Machine
end
section
/-! Missed ticks, the warning and the announcement of the next hand (01_ticks_and_hands.md R14, R18 to R20, R25). -/
namespace Sys2Proof.Machine
open Sys2Proof.Claims

/-! ### A missed tick (R19, R20) -/

/-- The state in which a tick without an announcement has been counted. -/
def State.tickMissed (s : State) : State :=
  (((s.flushPosted.advance (s.hand.lastDue + s.hand.period)).wr R.SYN_HAND_NUM.HAND 0 (s.handNum + 1)).modHand (fun y =>
    { y with lastDue := s.hand.lastDue + s.hand.period, due := s.hand.lastDue + s.hand.period, missedRow := y.missedRow + 1, redeal := false })).missTick
      (s.handNum + 1)

/-- Of `s`, the counted miss `t` keeps what the hand's own fields and two registers do not hold. -/
structure MissCounted (s t : State) : Prop where
  now : t.now = max s.now (s.hand.lastDue + s.hand.period)
  num : t.rd R.SYN_HAND_NUM.HAND 0 = (s.handNum + 1) % 2 ^ R.SYN_HAND_NUM.HAND.wd
  missed : t.rd R.SYN_HAND_COUNTS.MISSED 0 = min (s.rd R.SYN_HAND_COUNTS.MISSED 0 + 1) (2 ^ R.SYN_HAND_COUNTS.MISSED.wd - 1)
  hand : ∃ p e, t.hand = { s.hand with
    posted := p, lastDue := s.hand.lastDue + s.hand.period, due := s.hand.lastDue + s.hand.period, missedRow := s.hand.missedRow + 1, redeal := false
    idle := true, abortOwed := some (s.handNum + 1), sent := [], sigrDevs := [], expiry := e }
  faces : t.faces = s.faces
  regs : RegsBeside [.SYN_HAND_NUM, .SYN_HAND_COUNTS] s t

theorem tickMissed_counted (s : State) : MissCounted s s.tickMissed := by
  obtain ⟨os, irqs, done, p, hu⟩ := flushPosted_eq s
  unfold State.tickMissed
  rw [hu]
  refine ⟨rfl, ?_, ?_, ⟨p, _, rfl⟩, rfl, ?_⟩
  · exact (rd_bump_apart _ _ _ _ _ (by decide)).trans (rd_wr_same _ R.SYN_HAND_NUM.HAND _ _ (by decide))
  · exact (rd_bump_same _ _ _ (by decide)).trans (congrArg (fun n => min (n + 1) (2 ^ R.SYN_HAND_COUNTS.MISSED.wd - 1))
      (rd_wr_reg _ R.SYN_HAND_NUM.HAND R.SYN_HAND_COUNTS.MISSED _ _ _ (by decide)))
  · exact RegsBeside.wr (f := R.SYN_HAND_COUNTS.MISSED) (RegsBeside.wr (f := R.SYN_HAND_NUM.HAND) (RegsBeside.refl _ s))

/-- Where nothing waited behind a hand's records, nothing else has changed. -/
theorem tickMissed_frame {s : State} (hp : s.hand.posted = none) :
    s.Frame { s.tickMissed with now := s.now, hand := s.hand } [(R.SYN_HAND_NUM.HAND, 0), (R.SYN_HAND_COUNTS.MISSED, 0)] [] := by
  have hu : s.flushPosted = s := by rw [State.flushPosted, hp]
  unfold State.tickMissed
  rw [hu]
  exact Frame.bump (f := R.SYN_HAND_COUNTS.MISSED) (Frame.wr (f := R.SYN_HAND_NUM.HAND) (Frame.refl s _ _) (by simp)) (by simp)

/-- A tick without an announcement is missed; the third in a row stops the hands, and a worker tells the standby. -/
theorem execMissedTick_counts {s : State} (hd : s.dead = false) (ht : s.hand.ticked = true) (hp : s.hand.period ≠ 0) (ha : s.hand.ann = none)
    (hr : s.hand.running = false) (hi : s.hand.idle = false) : execMissedTick s = .next
      (if s.hand.missedRow + 1 < 3 ∨ s.hand.stopped = true then s.tickMissed
       else if s.flag R.SYN_ROLE.STANDBY_VALID 0 = true ∧ s.isStandby = false then
         (s.tickMissed.modHand (fun y => { y with stopped := true })).sendCtl (s.rd R.SYN_ROLE.STANDBY 0) (.missed (s.handNum + 1 - 3))
       else s.tickMissed.modHand (fun y => { y with stopped := true })) := by
  unfold execMissedTick
  dsimp only
  rw [if_neg (by simp [hd, ht, hp, ha, hr, hi])]
  rfl

/-- What a missed tick leaves; `stopped` says whether hands are stopped behind it. -/
structure TickGone (s : State) (stopped : Bool) (t : State) : Prop where
  now : t.now = max s.now (s.hand.lastDue + s.hand.period)
  num : t.rd R.SYN_HAND_NUM.HAND 0 = (s.handNum + 1) % 2 ^ R.SYN_HAND_NUM.HAND.wd
  missed : t.rd R.SYN_HAND_COUNTS.MISSED 0 = min (s.rd R.SYN_HAND_COUNTS.MISSED 0 + 1) (2 ^ R.SYN_HAND_COUNTS.MISSED.wd - 1)
  row : t.hand.missedRow = s.hand.missedRow + 1
  idle : t.hand.idle = true
  running : t.hand.running = s.hand.running
  owed : t.hand.abortOwed = some (s.handNum + 1)
  stop : t.hand.stopped = stopped
  faces : t.faces = s.faces

/-- Whatever follows the counted miss only stops the hands, and sends. -/
theorem tickGone_of {s t : State} {b : Bool} (hh : t.hand = { s.tickMissed.hand with stopped := b }) (hn : t.now = s.tickMissed.now)
    (hr : t.regs = s.tickMissed.regs) (hf : t.faces = s.tickMissed.faces) : TickGone s b t := by
  have k := tickMissed_counted s
  obtain ⟨p, e, hp⟩ := k.hand
  have hrd (g : Fld) (i : Nat) : t.rd g i = s.tickMissed.rd g i := by rw [State.rd, State.reg, hr]; rfl
  rw [hp] at hh
  exact ⟨hn.trans k.now, (hrd _ _).trans k.num, (hrd _ _).trans k.missed, by rw [hh], by rw [hh], by rw [hh], by rw [hh], by rw [hh], hf.trans k.faces⟩

section
variable {s : State} (hd : s.dead = false) (ht : s.hand.ticked = true) (hp : s.hand.period ≠ 0) (ha : s.hand.ann = none)
  (hr : s.hand.running = false) (hi : s.hand.idle = false)
include hd ht hp ha hr hi

/-- The first two misses in a row, and those behind the third, stop nothing. -/
theorem execMissedTick_goesOn (hc : s.hand.missedRow + 1 < 3 ∨ s.hand.stopped = true) :
    execMissedTick s = .next s.tickMissed ∧ TickGone s s.hand.stopped s.tickMissed := by
  obtain ⟨p, e, hh⟩ := (tickMissed_counted s).hand
  exact ⟨(execMissedTick_counts hd ht hp ha hr hi).trans (congrArg _ (if_pos hc)), tickGone_of (by rw [hh]) rfl rfl rfl⟩

/-- The third miss in a row stops the device's hands, and a worker tells the standby. -/
theorem execMissedTick_stops (hc : 2 ≤ s.hand.missedRow) (hs : s.hand.stopped = false) :
    ∃ t, execMissedTick s = .next t ∧ TickGone s true t ∧
      ∀ port, s.rd R.SYN_ROLE.STANDBY_VALID 0 = 1 → s.isStandby = false → RoutedNow s (s.rd R.SYN_ROLE.STANDBY 0) port →
        Out.ctl port (s.rd R.SYN_ROLE.STANDBY 0) s.devAddr (.missed (s.handNum - 2)) ∈ t.out := by
  have he := (execMissedTick_counts hd ht hp ha hr hi).trans (congrArg _ (if_neg (not_or.mpr ⟨by omega, by rw [hs]; nofun⟩)))
  have k : RegsBeside [.SYN_HAND_NUM, .SYN_HAND_COUNTS] s (s.tickMissed.modHand (fun y => { y with stopped := true })) := (tickMissed_counted s).regs
  by_cases hv : s.flag R.SYN_ROLE.STANDBY_VALID 0 = true ∧ s.isStandby = false
  · have hsend := Sends.sendCtl (s.tickMissed.modHand (fun y => { y with stopped := true })) (s.rd R.SYN_ROLE.STANDBY 0) (.missed (s.handNum + 1 - 3))
    rw [if_pos hv] at he
    refine ⟨_, he, tickGone_of (Sends.hand hsend) (Sends.now hsend :) (Sends.regs hsend :) (Sends.faces hsend :), fun port _ _ hroute => ?_⟩
    have ho := sendCtl_emits (.missed (s.handNum + 1 - 3)) (routedNow_beside hroute k)
    rw [show State.devAddr _ = s.devAddr from k.rd R.LNK_DEV_ADDR.ADDR 0, show s.handNum + 1 - 3 = s.handNum - 2 by omega] at ho
    exact ho
  · rw [if_neg hv] at he
    exact ⟨_, he, tickGone_of rfl rfl rfl rfl, fun port h1 h2 _ => absurd ⟨decide_eq_true h1, h2⟩ hv⟩

end

/-! ### The hand-budget warning (R25) -/

/-- The warning of a face that issues, and has a vector for it. -/
theorem takeWarning_enters {s : State} {f left tgt : Nat} (hr : (s.face f).run = .issuing) (hh : (s.face f).handler = .none)
    (hv : (s.face f).vector 2 = some tgt) : s.takeWarning f left =
      ((((s.modFace f (fun y => { y with warned := true })).bump R.FCE_TRAP_STAT.WARNINGS f).trapStat f 2 (s.face f).pc).modFace f (fun y =>
        y.enter .warning 2 (s.face f).pc tgt (BitVec.ofNat 64 left))) := by
  unfold State.takeWarning
  dsimp only
  rw [hr]
  dsimp only
  rw [if_neg (not_not_intro hh), hv]

theorem takeWarning_face {s : State} {f left tgt : Nat} (hr : (s.face f).run = .issuing) (hh : (s.face f).handler = .none)
    (hv : (s.face f).vector 2 = some tgt) : (s.takeWarning f left).face f = { s.face f with
      warned := true, tcause := 2, tinfo := BitVec.ofNat 64 left, tpc := (s.face f).pc, pc := tgt, handler := .warning } := by
  rw [takeWarning_enters hr hh hv, face_modFace_same, State.trapStat, face_wr, face_wr, face_wr, face_bump, face_modFace_same]
  simp only [Face.enter, hr]

theorem takeWarning_rd {s : State} {f left tgt : Nat} (hr : (s.face f).run = .issuing) (hh : (s.face f).handler = .none)
    (hv : (s.face f).vector 2 = some tgt) : (s.takeWarning f left).rd R.FCE_TRAP_STAT.WARNINGS f =
      min (s.rd R.FCE_TRAP_STAT.WARNINGS f + 1) (2 ^ R.FCE_TRAP_STAT.WARNINGS.wd - 1) := by
  rw [takeWarning_enters hr hh hv, rd_modFace, State.trapStat, rd_wr_apart _ _ _ _ _ _ (by decide), rd_wr_apart _ _ _ _ _ _ (by decide),
    rd_wr_apart _ _ _ _ _ _ (by decide), rd_bump_same _ _ _ (by decide), rd_modFace]

theorem takeWarning_frame {s : State} {f left tgt : Nat} (hr : (s.face f).run = .issuing) (hh : (s.face f).handler = .none)
    (hv : (s.face f).vector 2 = some tgt) : s.Frame (s.takeWarning f left) [(R.FCE_TRAP_STAT.WARNINGS, f), (R.FCE_TRAP_STAT.LAST_VECTOR, f),
      (R.FCE_TRAP_STAT.LAST_PC, f), (R.FCE_TRAP_STAT.VALID, f)] [f] := by
  rw [takeWarning_enters hr hh hv]
  exact Frame.modFace (Frame.wr (Frame.wr (Frame.wr (Frame.bump (Frame.modFace (Frame.refl _ _ _) (by simp)) (by simp)) (by simp)) (by simp)) (by simp))
    (by simp)

/-- Device time that a step has moved on stands beside what the step changes. -/
theorem Frame.ofAdvance {s t : State} {n : Nat} {fs : List (Fld × Nat)} {gs : List Nat} (h : (s.advance n).Frame t fs gs) :
    s.Frame { t with now := s.now } fs gs := by
  obtain ⟨hregs, hfaces, hrest⟩ := h
  exact ⟨hregs, hfaces, congrArg (fun u : State => { u with now := s.now }) hrest⟩

/-- The hand-budget warning enters vector 2 of a face that issues. -/
theorem execHandBudgetWarning_enters {s : State} {f tgt : Nat} (hd : s.dead = false) (hr : s.hand.running = true)
    (hm : s.rd R.FCE_HAND_WARN.MARGIN f ≠ 0) (hw : (s.face f).warned = false) (hi : (s.face f).run = .issuing) (hh : (s.face f).handler = .none)
    (hv : (s.face f).vector 2 = some tgt) :
    ∃ t, execHandBudgetWarning f s = .next t ∧ t.now = max s.now (s.hand.expiry - s.rd R.FCE_HAND_WARN.MARGIN f) ∧
      t.face f = { s.face f with
        warned := true, tcause := 2, tinfo := BitVec.ofNat 64 (s.hand.expiry - t.now), tpc := (s.face f).pc, pc := tgt, handler := .warning } ∧
      t.rd R.FCE_TRAP_STAT.WARNINGS f = min (s.rd R.FCE_TRAP_STAT.WARNINGS f + 1) (2 ^ R.FCE_TRAP_STAT.WARNINGS.wd - 1) ∧
      s.Frame { t with now := s.now } [(R.FCE_TRAP_STAT.WARNINGS, f), (R.FCE_TRAP_STAT.LAST_VECTOR, f), (R.FCE_TRAP_STAT.LAST_PC, f),
        (R.FCE_TRAP_STAT.VALID, f)] [f] := by
  generalize he : s.hand.expiry - s.rd R.FCE_HAND_WARN.MARGIN f = e
  have hx : execHandBudgetWarning f s = .next ((s.advance e).takeWarning f (s.hand.expiry - (s.advance e).now)) :=
    he ▸ congrArg Host.Outcome.next (if_neg (by simp [hr, hm, hw, hd]))
  have hfr := takeWarning_frame (s := s.advance e) (left := s.hand.expiry - (s.advance e).now) hi hh hv
  have hnow : ((s.advance e).takeWarning f (s.hand.expiry - (s.advance e).now)).now = (s.advance e).now := (congrArg State.now hfr.rest :)
  refine ⟨_, hx, hnow, ?_, takeWarning_rd (s := s.advance e) hi hh hv, Frame.ofAdvance hfr⟩
  rw [hnow]
  exact takeWarning_face (s := s.advance e) hi hh hv

/-! ### The announcement (R14, R18) -/

theorem announce_sends (s : State) : ∃ u : State, u.Sends s.announce ∧ u.regs = s.regs ∧ u.now = s.now ∧ u.announced = s.decided ∧ u.waitAck = false ∧
    u.annDue = (if s.annDue = 0 then s.now + s.rd R.SYN_TICK_LEAD.LEAD 0 else
      max (s.annDue + s.hand.annPeriod) (s.now + s.rd R.SYN_TICK_LEAD.LEAD 0)) ∧
    u.hand.ann = some (s.decided, u.annDue, s.rd R.SYN_TICK_PERIOD.PERIOD 0) :=
  ⟨_, Sends.sendTree _ _, rfl, rfl, rfl, rfl, rfl, rfl⟩

theorem Sends.announced {s t : State} (h : s.Sends t) : t.announced = s.announced := Sends.same (h := h) (p := State.announced) (fun _ _ _ _ => rfl)
theorem Sends.annDue {s t : State} (h : s.Sends t) : t.annDue = s.annDue := Sends.same (h := h) (p := State.annDue) (fun _ _ _ _ => rfl)
theorem Sends.waitAck {s t : State} (h : s.Sends t) : t.waitAck = s.waitAck := Sends.same (h := h) (p := State.waitAck) (fun _ _ _ _ => rfl)

/-- The state in which the manager decides the next hand. -/
def State.atDecision (s : State) : State :=
  if s.annDue = 0 then s else s.advance (s.annDue + s.hand.annPeriod - s.rd R.SYN_TICK_LEAD.LEAD 0)

theorem atDecision_eq (s : State) : ∃ n, s.atDecision = { s with now := n } := by
  unfold State.atDecision
  split
  · exact ⟨s.now, rfl⟩
  · exact ⟨_, rfl⟩

theorem execTickAnnounce_announces {s : State} (hm : s.isManager = true) (hp : s.rd R.SYN_TICK_PERIOD.PERIOD 0 ≠ 0) (hw : s.waitAck = false)
    (hv : s.rd R.SYN_ROLE.STANDBY_VALID 0 = 0) :
    execTickAnnounce s = .next (s.atDecision.decide_ (max s.atDecision.announced s.atDecision.handNum + 1)).announce := by
  unfold execTickAnnounce
  dsimp only
  rw [if_neg (by simp [hm, hp, hw]), if_pos hv]
  rfl

/-- With no standby the manager announces the next hand at least LEAD ahead. -/
theorem execTickAnnounce_leads {s : State} (hm : s.isManager = true) (hp : s.rd R.SYN_TICK_PERIOD.PERIOD 0 ≠ 0) (hw : s.waitAck = false)
    (hv : s.rd R.SYN_ROLE.STANDBY_VALID 0 = 0) :
    ∃ t due, execTickAnnounce s = .next t ∧ t.announced = max s.announced s.handNum + 1 ∧
      t.hand.ann = some (max s.announced s.handNum + 1, due, s.rd R.SYN_TICK_PERIOD.PERIOD 0) ∧ t.annDue = due ∧
      t.now + s.rd R.SYN_TICK_LEAD.LEAD 0 ≤ due ∧ (s.annDue ≠ 0 → s.annDue + s.hand.annPeriod ≤ due) ∧ t.waitAck = false := by
  obtain ⟨n, hn⟩ := atDecision_eq s
  have hex := execTickAnnounce_announces hm hp hw hv
  rw [hn] at hex
  have k := (Calm.refl ({ s with now := n } : State)).decide_ (n := max s.announced s.handNum + 1)
  have hdec : (State.decide_ { s with now := n } (max s.announced s.handNum + 1)).decided = max s.announced s.handNum + 1 := rfl
  generalize hu : State.decide_ { s with now := n } (max s.announced s.handNum + 1) = u at k hdec
  have hx : execTickAnnounce s = .next u.announce := hu ▸ hex
  obtain ⟨v, hs, -, hnow, hannd, hwait, hdue, hann⟩ := announce_sends u
  obtain ⟨hnow', hdue', hper'⟩ : u.now = n ∧ u.annDue = s.annDue ∧ u.hand.annPeriod = s.hand.annPeriod := by
    simpa only [State.plan, Prod.mk.injEq] using k.plan
  have hlead : u.rd R.SYN_TICK_LEAD.LEAD 0 = s.rd R.SYN_TICK_LEAD.LEAD 0 := k.rd _ (by decide)
  have hperiod : u.rd R.SYN_TICK_PERIOD.PERIOD 0 = s.rd R.SYN_TICK_PERIOD.PERIOD 0 := k.rd _ (by decide)
  rw [hdue', hlead, hper', hnow'] at hdue
  rw [hdec, hperiod] at hann
  refine ⟨u.announce, v.annDue, hx, (Sends.announced hs).trans (hannd.trans hdec), ?_, Sends.annDue hs, ?_, fun h0 => ?_, (Sends.waitAck hs).trans hwait⟩
  · rw [Sends.hand hs, hann]
  · rw [Sends.now hs, hnow, hnow', hdue]
    split <;> omega
  · rw [hdue, if_neg h0]
    omega

end Sys2Proof.Machine
end

section
open Sys2Proof Sys2Proof.Machine Sys2Proof.Claims

/-- Settles O48: each clause is the lemma of its event.  Choices of the model: MISSED carries the number three hands back (log entry 27), the tick announced
takes the number behind the highest announced or run (log entry 32), and its due time is one period of the tick before it behind that tick (log entry
26). -/
theorem handTimes : Obligations.HandTimes := by
  unfold Obligations.HandTimes
  intro s
  refine ⟨fun hd ht hp ha hr hi => ?_, fun f tgt hd hr hm hw hi hh hv => ?_, fun h hd hi ho => ?_, fun hd hi hr => execBudgetExpiry_decides hd hi hr,
    fun hm hp hw hv => execTickAnnounce_leads hm hp hw hv⟩
  · by_cases hc : s.hand.missedRow + 1 < 3 ∨ s.hand.stopped = true
    · obtain ⟨he, k⟩ := execMissedTick_goesOn hd ht hp ha hr hi hc
      refine ⟨_, he, k.now, k.num, k.missed, k.row, k.idle, k.running.trans hr, k.owed, k.stop.trans ?_, k.faces,
        fun port standby _ h2 h3 => ?_, fun hp _ => tickMissed_frame hp⟩
      · rcases hc with hlt | hs
        · rw [decide_eq_false (by omega), Bool.or_false]
        · rw [hs, Bool.true_or]
      · rw [h3] at hc
        exact absurd hc (by simp; omega)
    · obtain ⟨hlt, hs⟩ := not_or.mp hc
      have h2 : 2 ≤ s.hand.missedRow := by omega
      obtain ⟨t, he, k, hout⟩ := execMissedTick_stops hd ht hp ha hr hi h2 (Bool.eq_false_of_not_eq_true hs)
      refine ⟨t, he, k.now, k.num, k.missed, k.row, k.idle, k.running.trans hr, k.owed, k.stop.trans ?_, k.faces,
        fun port standby e _ _ h1 hw hroute => ?_, fun _ h => absurd h2 (by omega)⟩
      · rw [decide_eq_true h2, Bool.or_true]
      · subst e
        exact hout port h1 hw hroute
  · exact execHandBudgetWarning_enters hd hr hm hw hi hh hv
  · obtain ⟨hover, hc, hm, hout⟩ := idleEnd_ends ho
    refine ⟨s.idleEnd, congrArg Host.Outcome.next (if_pos ⟨hd, hi, by rw [ho]; nofun⟩),
      congrArg Host.Outcome.next ((if_neg (ne_true_of_eq_false hd)).trans (if_pos hi)), hover, hc, hm, hout⟩
end
section
/-! SUPPORT. What the array field's work leaves of the MVM in progress on a face (03_array_field.md R90, 04_precision_ladder.md R110 to R127): `SameRun f a t`
says of the state `t` reached from `a` that the run stands as it stood, and each operation that puts no pass has one lemma, whose proof has the shape
of the operation. -/
namespace Sys2Proof.Machine

/-! ### The relation -/

/-- `t`, reached from `a`, has the MVM in progress on face f as `a` has it, and the count of the vectors examined there. -/
structure SameRun (f : Nat) (a t : State) : Prop where
  mvm : (t.face f).mvm = (a.face f).mvm
  count : t.rd R.ARF_VEC_STAT.VECTORS f = a.rd R.ARF_VEC_STAT.VECTORS f

/-- A field has no bit in common with the count of the vectors examined. -/
abbrev Fld.offCount (g : Fld) : Prop := g.apart R.ARF_VEC_STAT.VECTORS = true

theorem Fld.offCount_ite {c : Prop} [Decidable c] {g h : Fld} (hg : g.offCount) (hh : h.offCount) : (if c then g else h).offCount := by
  split <;> assumption

variable {f : Nat} {a s t : State}

theorem SameRun.refl (f : Nat) (s : State) : SameRun f s s := ⟨rfl, rfl⟩

theorem SameRun.same (h : SameRun f a s) (hr : t.regs = s.regs) (hf : t.faces = s.faces) : SameRun f a t := by
  refine ⟨?_, ?_⟩
  · rw [State.face, hf]; exact h.mvm
  · rw [State.rd, State.reg, hr]; exact h.count

theorem SameRun.wr {g : Fld} {i v : Nat} (h : SameRun f a s) (hg : g.offCount) : SameRun f a (s.wr g i v) :=
  ⟨h.mvm, (rd_wr_apart _ _ _ _ _ _ hg).trans h.count⟩

theorem SameRun.bumpBy {g : Fld} {i n : Nat} (h : SameRun f a s) (hg : g.offCount) : SameRun f a (s.bumpBy g i n) := h.wr hg
theorem SameRun.bump {g : Fld} {i : Nat} (h : SameRun f a s) (hg : g.offCount) : SameRun f a (s.bump g i) := h.wr hg

theorem SameRun.modFace {k : Nat} {g : Face → Face} (h : SameRun f a s) (hg : ∀ x, (g x).mvm = x.mvm) : SameRun f a (s.modFace k g) := by
  refine ⟨?_, h.count⟩
  by_cases e : f = k
  · rw [e, face_modFace_same, hg, ← e]; exact h.mvm
  · rw [face_modFace_other _ _ _ _ e]; exact h.mvm

theorem SameRun.ite {c : Prop} [Decidable c] (h : SameRun f a s) (k : SameRun f a t) : SameRun f a (if c then s else t) := by split <;> assumption

theorem SameRun.foldl {α : Type} {l : List α} {g : State → α → State} (h : SameRun f a s) (hg : ∀ u e, SameRun f a u → SameRun f a (g u e)) :
    SameRun f a (l.foldl g s) := by
  induction l generalizing s with
  | nil => exact h
  | cons e l ih => exact ih (hg _ _ h)

theorem SameRun.loop {n : Nat} {g : State → Nat → State} (h : SameRun f a s) (hg : ∀ u i, SameRun f a u → SameRun f a (g u i)) :
    SameRun f a (loop n s g) := h.foldl hg

/-! ### Records and injections (20_faults.md) -/

theorem SameRun.inject {d : Det} {u : Nat} {p : Nat → Bool} {r : Nat × State} (h : SameRun f a s) (hr : s.inject d u p = some r) :
    SameRun f a r.2 := by
  refine ⟨?_, ?_⟩
  · rw [State.face, inject_faces hr]; exact h.mvm
  · rw [State.rd, inject_reg hr _ _ (by decide)]; exact h.count

theorem SameRun.forced {d : Det} {u : Nat} (h : SameRun f a s) : SameRun f a (s.forced d u).2 := by
  unfold State.forced
  split
  · next hr => exact h.inject hr
  · exact h

theorem SameRun.raise {e : Event} (h : SameRun f a s) : SameRun f a (s.raise e) :=
  ⟨by rw [raise_face]; exact h.mvm, (raise_rd _ _ _ _).trans h.count⟩

theorem SameRun.draw (h : SameRun f a s) : SameRun f a s.draw.2 := h.same rfl rfl

theorem SameRun.wideSat {k b c : Nat} (h : SameRun f a s) : SameRun f a (s.wideSat k b c) := h.wr rfl |>.raise

/-! ### Words of a record read (R219), and the counts of a layer (R128) -/

theorem SameRun.padTouch {k w : Nat} (h : SameRun f a s) : SameRun f a (s.padTouch k w) := by
  unfold State.padTouch
  dsimp only
  split
  · exact (h.bump rfl).ite h
  · have hfixed {g : Face → Face} (hg : ∀ x, (g x).mvm = x.mvm) : SameRun f a ((s.modFace k g).bump R.SPD_ERR.CORRECTED k) :=
      (h.modFace hg).bump rfl
    exact ((hfixed fun _ => by rfl).bump rfl).ite (hfixed fun _ => by rfl)
  · exact h.bump rfl |>.raise

theorem SameRun.padTouchRange {k base len : Nat} (h : SameRun f a s) : SameRun f a (s.padTouchRange k base len) :=
  SameRun.ite h (h.loop fun _ _ k => k.padTouch)

theorem SameRun.layerCount {k layer : Nat} {pass esc : Bool} (h : SameRun f a s) : SameRun f a (s.layerCount k layer pass esc) := by
  have k := (h.bump (i := ix 256 k layer) (g := R.ARF_LAYER_STAT.PASSES) rfl).ite (c := pass = true) h
  exact (k.bump rfl).ite k

/-! ### Calibration (R518, R520) -/

theorem SameRun.modCal {k b : Nat} {g : CalBlk → CalBlk} (h : SameRun f a s) : SameRun f a (s.modCal k b g) := h.same rfl rfl

theorem SameRun.calPick {k : Nat} (h : SameRun f a s) : SameRun f a (s.calPick k) := by
  refine SameRun.ite h ?_
  dsimp only
  split
  · exact h.modCal
  · exact h

theorem SameRun.calRequest {k b trig : Nat} (h : SameRun f a s) : SameRun f a (s.calRequest k b trig) := by
  unfold State.calRequest
  extract_lets x p u
  refine SameRun.calPick (SameRun.wr ?_ rfl)
  simp only [u]
  split
  · exact (h.modCal.wr rfl).ite h
  · exact SameRun.wr (SameRun.modCal (h.same rfl rfl)) rfl

theorem SameRun.gatherCodes {k b c cols lsb : Nat} {pieces : List (Nat × Nat)} {codes spare : List Int} (h : SameRun f a s) :
    SameRun f a (s.gatherCodes k b c cols lsb pieces codes spare) := by
  unfold State.gatherCodes
  extract_lets u
  have hu : SameRun f a u := h.modCal.calPick.ite h
  exact SameRun.ite hu hu.modCal

/-! ### The conversions of a phase (R87 to R89) -/

theorem SameRun.fireConv {k b c : Nat} (h : SameRun f a s) : SameRun f a (s.fireConv k b c) := by
  refine SameRun.ite h (h.foldl fun u e k => ?_)
  split
  · exact k
  · next hr => exact (k.inject hr).same rfl rfl

theorem SameRun.convSpent {k b c : Nat} (h : SameRun f a s) : SameRun f a (s.convSpent k b c) := SameRun.ite h (h.same rfl rfl)

/-- What names a pass, and the bench it runs at. -/
def Pass.place (p : Pass) : Nat × Nat × Nat := (p.block, p.vector, p.bench)

theorem phaseArrays_result {q : Tile} {p : Pass} {phase : Nat} {errs : SMap Int} {tally : List (Nat × Nat)} (h : SameRun f a s) (k : Nat) :
    SameRun f a (s.phaseArrays k q p phase errs tally).1 ∧ (s.phaseArrays k q p phase errs tally).2.place = p.place := by
  unfold State.phaseArrays
  refine loop_ind (P := fun y : State × Pass => SameRun f a y.1 ∧ y.2.place = p.place) _ _ _ ⟨h, rfl⟩ (fun y e _ hy => ?_)
  obtain ⟨hrun, hplace⟩ := hy
  extract_lets d n c s0 key pieces r mass late s1 g spare s2 s3
  split
  · exact ⟨hrun, hplace⟩
  · have h0 : SameRun f a s0 := hrun.fireConv
    have h1 : SameRun f a s1 := SameRun.bumpBy (SameRun.same h0 rfl rfl) rfl
    have h2 : SameRun f a s2 := SameRun.bumpBy h1.gatherCodes rfl
    have h3 : SameRun f a s3 := SameRun.ite h2 h2.calRequest
    refine ⟨h3.convSpent, ?_⟩
    unfold Pass.place at hplace ⊢
    exact hplace

theorem phaseCheck_place (s : State) (f : Nat) (q : Tile) (p : Pass) (phase : Nat) (chk : SMap Int) :
    (s.phaseCheck f q p phase chk).place = p.place := by
  unfold State.phaseCheck
  split <;> rfl

theorem promote_place (p : Pass) : p.promote.place = p.place := rfl

theorem Pass.place_ite {c : Prop} [Decidable c] {o u p : Pass} (ho : o.place = p.place) (hu : u.place = p.place) :
    (if c then o else u).place = p.place := by split <;> assumption

theorem groupEnd_place (p : Pass) (q : Tile) (int : Nat) : (p.groupEnd q int).place = p.place := by
  refine loop_ind (P := fun o : Pass => o.place = p.place) _ _ _ rfl (fun _ _ _ ho => ?_)
  exact Pass.place_ite ho (Pass.place_ite ho ho)

theorem notePartials_place (p : Pass) (q : Tile) (kn : Nat × Nat) (g : Nat) : (p.notePartials q kn g).place = p.place :=
  loop_ind (P := fun o : Pass => o.place = p.place) _ _ _ rfl (fun _ _ _ ho => ho)

theorem phaseAdd_place (s : State) (f : Nat) (q : QOp) (p : Pass) (phase : Nat) : (s.phaseAdd f q p phase).place = p.place := by
  unfold State.phaseAdd
  extract_lets t o p1
  have ho : o.place = p.place := by
    simp only [o]
    split
    · exact notePartials_place _ _ _ _
    · rfl
  have h1 : p1.place = p.place := by
    simp only [p1]
    split
    · exact (groupEnd_place _ _ _).trans ho
    · rfl
  split
  · exact (promote_place p1).trans h1
  · exact h1

end Sys2Proof.Machine
end

section
/-! The passes of an MVM: their examination at issue, the end of a phase, and bench 3 (03_array_field.md R90 to R98, 04_precision_ladder.md R120 to R125). -/
namespace Sys2Proof.Machine
open Sys2Proof.Claims

variable {f : Nat} {s : State} {q : QOp} {r : MvmRun}

/-! ### A pass put in place of another -/

theorem putPass_mvm (hr : (s.face f).mvm = some r) (p : Pass) : ((s.putPass f p).face f).mvm = some (MvmRun.with_ r p) := by
  rw [State.putPass, face_modFace_same, hr]
  rfl

theorem rd_putPass (s : State) (f : Nat) (p : Pass) (g : Fld) (i : Nat) : (s.putPass f p).rd g i = s.rd g i := rfl

/-- The pass of a block and vector not examined before, put behind its examination. -/
theorem with_cons_new {o p : Pass} (hn : r.pass p.block p.vector = none) (hb : o.block = p.block) (hv : o.vector = p.vector) :
    MvmRun.with_ { r with passes := o :: r.passes } p = { r with passes := p :: r.passes } := by
  have hold : r.passes.map (fun (e : Pass) => if e.block = p.block ∧ e.vector = p.vector then p else e) = r.passes := by
    refine (List.map_congr_left (g := id) fun e he => if_neg ?_).trans (List.map_id _)
    simpa using List.find?_eq_none.mp hn e he
  simp only [MvmRun.with_, List.map_cons, hold, if_pos (And.intro hb hv)]

/-- A pass that leaves trouble unresolved stands so in the run (R125). -/
theorem unresolved_run (hr : (s.face f).mvm = some r) (p : Pass) :
    ((s.unresolved f q p).face f).mvm = some (MvmRun.with_ r { p with st := .unresolved }) ∧
      (s.unresolved f q p).rd R.ARF_VEC_STAT.VECTORS f = s.rd R.ARF_VEC_STAT.VECTORS f := by
  have hput := putPass_mvm hr { p with st := .unresolved }
  have h : SameRun f (s.putPass f { p with st := .unresolved }) (s.unresolved f q p) := by
    have k := (SameRun.refl f (s.putPass f { p with st := .unresolved })).bump (g := R.ARF_REPEAT_STAT.UNRESOLVED) (i := f) rfl
    exact SameRun.ite k (SameRun.modFace (k.same rfl rfl) (fun _ => by rfl))
  exact ⟨h.mvm.trans hput, h.count⟩

/-! ### The examination at issue (R90) -/

/-- The bench taken is at least the one asked for, where that is one of the four. -/
theorem le_lowestBench (adm : List Bool) {lo : Nat} (h : lo ≤ 3) : lo ≤ lowestBench adm lo := by
  unfold lowestBench
  cases hf : (List.range 3).find? (fun b => decide (lo ≤ b) && adm.getD b false) with
  | none => exact h
  | some b =>
    have := List.find?_some hf
    simp only [Bool.and_eq_true, decide_eq_true_eq] at this
    exact this.1

/-- What the examination of R90 settles of a pass beside its contents: the vector and block examined, a floor at or above the instruction's and the
layer's pin, a bench that is not below it, and an escalation counted where it is above it. -/
structure Examined (q : QOp) (i v : Nat) (p : Pass) : Prop where
  block : p.block = i
  vector : p.vector = v
  floor : max (q.f0 21 2) q.tile.pin ≤ p.floor
  bench : q.tile.pin ≤ 3 → p.floor ≤ p.bench ∧ (p.uniform.all id = false → p.bench ≠ p.floor → p.escalated = true)

theorem issueCheck_pass {i v : Nat} {drawn : Bool} (hn : r.pass i v = none) :
    ∃ p : Pass, ((s.issueCheck f q r i v drawn).face f).mvm = some { r with passes := p :: r.passes } ∧ Examined q i v p ∧
      (s.issueCheck f q r i v drawn).rd R.ARF_VEC_STAT.VECTORS f =
        min (s.rd R.ARF_VEC_STAT.VECTORS f + q.tile.k * q.tile.n) (2 ^ R.ARF_VEC_STAT.VECTORS.wd - 1) := by
  unfold State.issueCheck
  extract_lets x t a z spl thr table slices step1 ds c step2 clips cancel applied uni adm b floor_ bench allUni esc poison ex tr under want skip
    sampled p s1 s2 s3 s4 s4a s5 s6 s7
  have hp : Examined q i v p := by
    refine ⟨rfl, rfl, Nat.le_max_left _ _, fun hpin => ?_⟩
    have hfloor : floor_ ≤ 3 := by
      have : q.f0 21 2 < 2 ^ 2 := fget_lt _ _ _
      simp only [floor_, t]
      split <;> omega
    have hbench : floor_ ≤ bench := by
      simp only [bench]
      split
      · split
        · exact hfloor
        · exact Nat.le_of_succ_le (le_lowestBench _ (by omega))
      · split
        · exact le_lowestBench _ hfloor
        · exact Nat.le_refl _
    refine ⟨?_, fun huni hne => ?_⟩
    · show floor_ ≤ if (allUni && !cancel) = true then floor_ else bench
      split
      · exact Nat.le_refl _
      · exact hbench
    · have hall : allUni = false := huni
      have hne' : bench ≠ floor_ := by simpa [p, hall] using hne
      show esc = true
      simp only [esc, hall, Bool.not_false, Bool.true_and, Bool.or_eq_true, decide_eq_true_eq]
      exact .inr (by omega)
  have hs1 : s1.rd R.ARF_VEC_STAT.VECTORS f = min (s.rd R.ARF_VEC_STAT.VECTORS f + t.k * t.n) (2 ^ R.ARF_VEC_STAT.VECTORS.wd - 1) :=
    (rd_bumpBy_apart _ _ _ _ _ _ rfl).trans (rd_bumpBy_same _ _ _ _ (by decide))
  have h2 : SameRun f s1 s2 := (SameRun.refl f s1).bumpBy rfl |>.bumpBy rfl
  have h3 : SameRun f s1 s3 := SameRun.ite (h2.bump rfl) (SameRun.ite h2 (h2.bump (Fld.offCount_ite rfl (Fld.offCount_ite rfl rfl))))
  have h4 : SameRun f s1 s4 := h3.layerCount.padTouchRange
  have h4a : SameRun f s1 s4a := SameRun.ite (SameRun.foldl h4.padTouchRange fun _ _ k => k.padTouchRange) h4
  have h5 : SameRun f s1 s5 := SameRun.loop h4a fun _ _ k => k.padTouchRange
  have h6 : (s6.face f).mvm = some { r with passes := p :: r.passes } := by simp only [s6, face_modFace_same]
  have h7 : SameRun f s6 s7 := SameRun.ite ((SameRun.refl f s6).same rfl rfl) (SameRun.refl f s6)
  have hcount : s7.rd R.ARF_VEC_STAT.VECTORS f = _ := h7.count.trans (h5.count.trans hs1)
  have hrun : (s7.face f).mvm = some { r with passes := p :: r.passes } := h7.mvm.trans h6
  split
  · next w _ =>
    have hw : SameRun f s7 (s7.wideSat f b w) := (SameRun.refl f s7).wideSat
    obtain ⟨hmvm, hrd⟩ := unresolved_run (q := q) (hw.mvm.trans hrun) p
    rw [with_cons_new (o := p) (p := { p with st := .unresolved }) hn rfl rfl] at hmvm
    exact ⟨{ p with st := .unresolved }, hmvm, ⟨hp.block, hp.vector, hp.floor, hp.bench⟩, hrd.trans (hw.count.trans hcount)⟩
  · exact ⟨p, hrun, hp, hcount⟩

theorem execVectorIssueCheck_examines {i v : Nat} (drawn : Bool) (h : Multiplies s f q r) (hi : i ≤ q.tile.blocks) (hv : v < fget q.w1 20 13)
    (hn : r.pass i v = none) (hprev : v = 0 ∨ (r.pass i (v - 1)).isSome = true) :
    execVectorIssueCheck f i v drawn s = .next (s.issueCheck f q r i v drawn) := by
  unfold execVectorIssueCheck
  rw [h.op, h.run]
  exact congrArg Host.Outcome.next (if_pos ⟨h.same, hi, hv, by rw [hn]; rfl, hprev⟩)

/-! ### The end of a phase (R124, R125) -/

/-- A pass starts again at a higher bench (R124). -/
theorem repeatPass_result (hr : (s.face f).mvm = some r) {p : Pass} (hb : p.bench < 3) :
    ∃ p' : Pass, ((s.repeatPass f q p).face f).mvm = some (MvmRun.with_ r p') ∧ p'.block = p.block ∧ p'.vector = p.vector ∧
      p'.repeated = true ∧ p.bench < p'.bench ∧ p'.st = (if p'.bench = 3 then .bench3 false else .running 0) := by
  unfold State.repeatPass
  extract_lets t nb s1 s2 s3 s4 s5
  have h1 : SameRun f s s1 := ((SameRun.refl f s).bump (Fld.offCount_ite rfl (Fld.offCount_ite rfl rfl))).bump rfl
  have h2 : SameRun f s s2 := SameRun.ite (h1.bump rfl) h1
  have h3 : SameRun f s s3 := SameRun.ite (h2.bump rfl) h2
  have h4 : SameRun f s s4 := SameRun.ite (h3.bump rfl) h3
  have h5 : SameRun f s s5 := SameRun.ite (h4.bump rfl) h4
  have h6 : SameRun f s (if p.escalated then s5 else s5.layerCount f t.layer false true) := h5.ite h5.layerCount
  exact ⟨_, putPass_mvm (h6.mvm.trans hr) _, rfl, rfl, rfl, le_lowestBench _ (by omega), rfl⟩

/-- The last phase of a pass ends it, or leaves it to bench 3 to decide between two arrays (R122, R127). -/
theorem passEnd_result (hr : (s.face f).mvm = some r) (p : Pass) :
    ∃ p' : Pass, ((s.passEnd f q p).face f).mvm = some (MvmRun.with_ r p') ∧ p'.place = p.place ∧
      (p'.st = .done ∨ (p'.st = .bench3 false ∧ p'.mismatch ≠ none)) := by
  have hdone {u : State} (hu : SameRun f s u) : ∃ p' : Pass, ((u.putPass f { p with st := .done }).face f).mvm = some (MvmRun.with_ r p') ∧
      p'.place = p.place ∧ (p'.st = .done ∨ (p'.st = .bench3 false ∧ p'.mismatch ≠ none)) :=
    ⟨_, putPass_mvm (hu.mvm.trans hr) _, rfl, .inl rfl⟩
  unfold State.passEnd
  extract_lets t i x s1 n s2
  split
  · have h1 : SameRun f s s1 := (SameRun.refl f s).same rfl rfl
    have h2 : SameRun f s s2 := SameRun.bumpBy (h1.same rfl rfl) rfl
    split
    · exact hdone h1
    · split
      · exact ⟨_, putPass_mvm (((h2.bump rfl).bump rfl).mvm.trans hr) _, rfl, .inr ⟨rfl, nofun⟩⟩
      · exact hdone h2
  · exact hdone (SameRun.refl f s)

/-- What becomes of pass p as its phase ends, a saturation told or not: it goes on, ends at its bench or waits there for the duplicate decision, or is
repeated higher (R122, R124). -/
def AfterPhase (p : Pass) (phase : Nat) (sat : Option Nat) (p' : Pass) : Prop :=
  (sat = none ∧ p'.st = .running (phase + 1) ∧ phase + 1 ≠ benchPhases p.bench ∧ p'.bench = p.bench) ∨
  (sat = none ∧ phase + 1 = benchPhases p.bench ∧ (p'.st = .done ∨ (p'.st = .bench3 false ∧ p'.mismatch ≠ none)) ∧ p'.bench = p.bench) ∨
  (p'.repeated = true ∧ p.bench < p'.bench ∧ p'.st = (if p'.bench = 3 then .bench3 false else .running 0))

theorem Pass.of_place_eq {o p : Pass} (h : o.place = p.place) : o.block = p.block ∧ o.vector = p.vector ∧ o.bench = p.bench := by
  simpa [Pass.place] using h

theorem phaseEnd_result {phase : Nat} {p : Pass} {errs chk : SMap Int} {tally : List (Nat × Nat)} {sat : Option Nat}
    (hr : (s.face f).mvm = some r) (hb : p.bench < 3) :
    ∃ p' : Pass, ((s.phaseEnd f q p phase errs chk tally sat).face f).mvm = some (MvmRun.with_ r p') ∧ p'.block = p.block ∧
      p'.vector = p.vector ∧ AfterPhase p phase sat p' := by
  unfold State.phaseEnd
  extract_lets t b r0 ca c0 p1 s1 bad p2 fx col s2
  obtain ⟨h0, hp0⟩ : SameRun f s r0.1 ∧ r0.2.place = p.place := phaseArrays_result (SameRun.refl f s) f
  have hc : SameRun f s c0 := SameRun.ite h0.fireConv h0
  have h1 : SameRun f s s1 := SameRun.ite hc.convSpent hc
  have hfx : SameRun f s fx.2 := by
    simp only [fx]
    split
    · exact h1.forced
    · exact h1
  have h2 : SameRun f s s2 := SameRun.ite hfx.draw h1
  have hp1 : p1.place = p.place := (phaseCheck_place _ _ _ _ _ _).trans hp0
  have hp2 : p2.place = p.place := Pass.place_ite hp1 ((phaseAdd_place _ _ _ _ _).trans hp1)
  obtain ⟨hblock, hvector, hbench⟩ := Pass.of_place_eq hp1
  have hrepeat {u : State} (hu : SameRun f s u) : ∃ p' : Pass, ((u.repeatPass f q p1).face f).mvm = some (MvmRun.with_ r p') ∧
      p'.block = p.block ∧ p'.vector = p.vector ∧ AfterPhase p phase sat p' := by
    obtain ⟨p', hmvm, hbl, hve, hrep, hlt, hst⟩ := repeatPass_result (q := q) (hu.mvm.trans hr) (hbench ▸ hb)
    exact ⟨p', hmvm, hbl.trans hblock, hve.trans hvector, .inr (.inr ⟨hrep, hbench ▸ hlt, hst⟩)⟩
  have hsat : col = none → sat = none := by
    cases sat with
    | none => exact fun _ => rfl
    | some c => exact fun hcol => absurd hcol nofun
  clear_value col
  cases col with
  | some c => exact hrepeat h2.wideSat
  | none =>
    dsimp only
    split
    · exact hrepeat h2
    · split
      · next hlast =>
        obtain ⟨p', hmvm, hplace, hst⟩ := passEnd_result (q := q) (h2.mvm.trans hr) p2
        obtain ⟨hbl, hve, hbe⟩ := Pass.of_place_eq (hplace.trans hp2)
        exact ⟨p', hmvm, hbl, hve, .inr (.inl ⟨hsat rfl, hlast, hst, hbe⟩)⟩
      · next hlast =>
        obtain ⟨hbl, hve, hbe⟩ := Pass.of_place_eq hp2
        exact ⟨_, putPass_mvm (h2.mvm.trans hr) _, hbl, hve, .inl ⟨hsat rfl, rfl, hlast, hbe⟩⟩

theorem execPhaseEnd_ends {i v phase : Nat} {p : Pass} (errs chk : SMap Int) (tally : List (Nat × Nat)) (sat : Option Nat)
    (h : Multiplies s f q r) (hp : r.pass i v = some p) (hst : p.st = .running phase) :
    execPhaseEnd f i v errs chk tally sat s = .next (s.phaseEnd f q p phase errs chk tally sat) := by
  unfold execPhaseEnd
  rw [h.op, h.run]
  dsimp only
  rw [hp]
  dsimp only
  rw [hst]
  exact congrArg Host.Outcome.next (if_pos h.same)

/-- The pass that a run lists for a block and vector is of them. -/
theorem pass_place {i v : Nat} {p : Pass} (hp : r.pass i v = some p) : p.block = i ∧ p.vector = v := by
  simpa using List.find?_some hp

end Sys2Proof.Machine
end

section
/-! Bench 3: its work takes the fine engine, and ends with exact sums (04_precision_ladder.md R120, R121, 05_fine_engine_and_spall.md R148). -/
namespace Sys2Proof.Machine
open Sys2Proof.Claims

variable {f : Nat} {s : State} {q : QOp} {r : MvmRun}

/-! ### BENCH3_START (R121, R148) -/

/-- Bench-3 work takes the fine engine from the FINE in progress, where there is one (R148). -/
def State.preempt (s : State) (f : Nat) (fine before : Bool) : State :=
  (if fine && !before then s.bump R.FIN_OP_STAT.PREEMPT f else s).modFace f
    (fun x => { x with mvm := x.mvm.map (fun (m : MvmRun) => { m with preempted := m.preempted || fine }) })

theorem preempt_mvm (hr : (s.face f).mvm = some r) (fine before : Bool) :
    ((s.preempt f fine before).face f).mvm = some { r with preempted := r.preempted || fine } := by
  rw [State.preempt, face_modFace_same, apply_ite (State.face · f), face_bump, ite_self, hr]
  rfl

theorem rd_preempt (s : State) (f : Nat) (fine before : Bool) : (s.preempt f fine before).rd R.FIN_OP_STAT.PREEMPT f =
    if fine = true ∧ before = false then min (s.rd R.FIN_OP_STAT.PREEMPT f + 1) (2 ^ R.FIN_OP_STAT.PREEMPT.wd - 1)
    else s.rd R.FIN_OP_STAT.PREEMPT f := by
  have hc : (fine && !before) = true ↔ fine = true ∧ before = false := by simp
  rw [State.preempt, rd_modFace, apply_ite (State.rd · _ _), rd_bump_same _ _ _ (by decide)]
  simp only [hc]

/-- The one pass of block i that waits for bench 3 is taken, where nothing holds the fine engine and no lower block waits for it. -/
theorem execBench3Start_takes {i : Nat} {p : Pass} (h : Multiplies s f q r) (hon : s.engOn f = true) (hw : r.waiting i false = [p])
    (hh : r.holdsFine = false) (hlow : ∀ o ∈ r.passes, o.block < i → o.st ≠ .bench3 false) :
    execBench3Start f i s = .next ((s.preempt f ((s.face f).started.any (fun o => decide (o.eng = .fine))) r.preempted).putPass f
      { p with st := .bench3 true }) := by
  have hfree : ¬ (r.holdsFine = true ∨ r.passes.any (fun p => decide (p.block < i ∧ p.st = .bench3 false)) = true) := by
    rw [hh, List.any_eq_true]
    rintro (hf | ⟨o, ho, hd⟩)
    · cases hf
    · obtain ⟨hlt, hst⟩ := of_decide_eq_true hd
      exact hlow o ho hlt hst
  unfold execBench3Start
  rw [h.op, h.run]
  dsimp only
  rw [hw, if_neg (List.cons_ne_nil _ _), hon, if_neg nofun, if_neg hfree]
  rfl

/-! ### BENCH3_DONE (R120) -/

/-- The run goes on without bench 3 once none of its work is left (R148). -/
def MvmRun.resumed (r : MvmRun) : MvmRun := { r with preempted := r.preempted && r.wantsFine }

theorem fineResume_mvm (hr : (s.face f).mvm = some r) : ((s.fineResume f).face f).mvm = some r.resumed := by
  rw [State.fineResume, face_modFace_same, hr]
  rfl

theorem resumed_wantsFine (hp : r.resumed.preempted = true) : r.resumed.wantsFine = true := (Bool.and_eq_true _ _ ▸ hp).2

/-- The one pass in bench 3, with no readback lost and nothing to decide, has its exact sums. -/
theorem execBench3Done_exact {i : Nat} {p : Pass} (h : Multiplies s f q r) (hi : s.injs = []) (hw : r.waiting i true = [p]) (hm : p.mismatch = none)
    (hs : (s.bench3Sums f q.tile p).2 = none) :
    execBench3Done f i [] none s = .next (((s.putPass f { p with st := .done, exact := (s.bench3Sums f q.tile p).1 }).bumpBy R.FIN_OP_STAT.BENCH3 f
      ((p.uniform.filter (fun b => !b)).length * q.tile.n)).fineResume f) := by
  unfold execBench3Done
  rw [h.op, h.run]
  dsimp only
  simp only [hw, List.foldl_cons, List.foldl_nil, injSlot_nil hi, Option.isSome_none, List.filter_false, List.filter_nil, List.map_nil, List.append_nil,
    ne_eq, not_true_eq_false, if_true, if_false, hm, hs]

end Sys2Proof.Machine
end

section
/-! Operations leave their queues, and an AREAD completes (08_ifeom_programming_model.md R245, 10_ifeom_engine_instructions.md R286, R298). -/
namespace Sys2Proof.Machine
open Sys2Proof.Claims

variable {f : Nat} {s : State} {q : QOp}

/-! ### ENGINE_OP_START (R245) -/

theorem opStart_array (he : q.eng = .array) (hon : s.arrayOn f = true) : s.opStart f q = if q.op = 0 then s.mvmStart f q else s := by
  simp only [State.opStart, State.engPower, he, hon]

theorem opStart_engine (he : q.eng = .fine ∨ q.eng = .vector) (hon : s.engOn f = true) : s.opStart f q = s := by
  rcases he with he | he <;> simp only [State.opStart, State.engPower, he, hon]

theorem mvmStart_face (s : State) (f : Nat) (q : QOp) :
    (s.mvmStart f q).face f = { s.face f with mvm := some { op := q.id, passes := [] } } :=
  face_modFace_same s f (fun x => { x with mvm := some { op := q.id, passes := [] } })

/-- The face whose operation q has left its queue for its engine. -/
def Face.starts (x : Face) (q : QOp) : Face :=
  { x with queue := x.queue.filter (fun o => decide (o.id ≠ q.id)), started := x.started ++ [q] }

/-- The oldest operation of a free engine that is on has started. -/
theorem execEngineOpStart_starts {e : Nat} (h : MayStart s f e q) : ∃ t, execEngineOpStart f e s = .next t ∧
    (t.face f).queue = (s.face f).queue.filter (fun o => decide (o.id ≠ q.id)) ∧ (t.face f).started = (s.face f).started ++ [q] ∧
    (t.face f).mvm = (if q.eng = .array ∧ q.op = 0 then some { op := q.id, passes := [] } else (s.face f).mvm) ∧
    { t with faces := s.faces, hand := s.hand } = s := by
  have hx : execEngineOpStart f e s = .next ((s.modFace f (fun x => x.starts q)).opStart f q) := by
    unfold execEngineOpStart
    dsimp only
    rw [h.oldest]
    exact congrArg Host.Outcome.next (if_neg (ne_true_of_eq_false h.free))
  have hface : (s.modFace f (fun x => x.starts q)).face f = (s.face f).starts q := face_modFace_same _ _ _
  refine ⟨_, hx, ?_⟩
  rcases h.powered with ⟨he, hon⟩ | ⟨he, hon⟩
  · rw [opStart_array he (by exact hon)]
    by_cases ho : q.op = 0
    · rw [if_pos ho, if_pos ⟨he, ho⟩, mvmStart_face, hface]
      exact ⟨rfl, rfl, rfl, rfl⟩
    · rw [if_neg ho, if_neg (fun k => ho k.2), hface]
      exact ⟨rfl, rfl, rfl, rfl⟩
  · have hne : q.eng ≠ .array := by rcases he with he | he <;> rw [he] <;> decide
    rw [opStart_engine he (by exact hon), if_neg (fun k => hne k.1), hface]
    exact ⟨rfl, rfl, rfl, rfl⟩

/-! ### Stores by a program on a device with no window open (R219, R331) -/

/-- A store of bytes changes the scratchpad of its face and nothing else there. -/
theorem storeRun_frame (n : Nat) (x : Face) (a : Nat) (bs : List (Nat × Bool)) :
    { storeRun x a bs n with pad := x.pad, written := x.written } = x := by
  induction n generalizing x a bs with
  | zero => rfl
  | succ n ih =>
    unfold storeRun
    split
    · rfl
    · have hm (w k : Nat) (l : List Nat) (p : Bool) : { x.padMerge w k l p with pad := x.pad, written := x.written } = x := by
        unfold Face.padMerge Face.padOpen
        split <;> rfl
      exact (congrArg (fun y : Face => { y with pad := x.pad, written := x.written }) (ih _ _ _)).trans (hm _ _ _ _)

/-- With no window on the device, a program's store races with nothing (R331). -/
theorem raceWrite_noWindow (h : ∀ e ∈ s.faces, e.2.wins = []) (before : Face) (f lo hi : Nat) : s.raceWrite before f lo hi = s := by
  unfold State.raceWrite
  refine List.foldlRecOn (motive := fun t : State => t = s) s.faces _ rfl (fun t ht e he => ?_)
  rw [h e he]
  exact ht

/-- A store of whole words, with no slot armed. -/
theorem padStore_words (hi : s.injs = []) {a : Nat} {bs : List (Nat × Bool)} (ha : a % 8 = 0) (hb : bs.length % 8 = 0) :
    s.padStore f a bs = s.modFace f (fun x => storeRun x a bs bs.length) := by
  unfold State.padStore
  extract_lets e touch s1 s2
  have h1 : s1 = s := if_neg (not_not_intro ha)
  have h2 : s2 = s := (if_neg fun k => k.1 (by simp only [e]; omega)).trans h1
  rw [h2, State.injBytes, injStored_nil (by exact hi), ite_self]

theorem progStore_words (hi : s.injs = []) (hw : ∀ e ∈ s.faces, e.2.wins = []) {a : Nat} {bs : List (Nat × Bool)} (ha : a % 8 = 0)
    (hb : bs.length % 8 = 0) (hne : bs ≠ []) : s.progStore f a bs = s.modFace f (fun x => storeRun x a bs bs.length) := by
  rw [State.progStore, if_neg hne, padStore_words hi ha hb]
  refine raceWrite_noWindow (fun e he => ?_) _ _ _ _
  rcases mset_keys _ _ _ _ e he with rfl | he
  · have hface : (s.face f).wins = [] := by
      rcases mget_default_or_mem {} s.faces f with hd | hm
      · exact congrArg Face.wins hd
      · exact hw _ hm
    exact (congrArg Face.wins (storeRun_frame bs.length (s.face f) a bs) :).trans hface
  · exact hw e he

/-! ### ENGINE_OP_COMPLETE of an AREAD (R286, R298) -/

/-- An operation that signals no counter leaves its engine, and nothing waits for it (R268, R283). -/
theorem opDone_leaves (hc : q.cen = false) (hr : (s.face f).run = .issuing) (hd : (s.face f).cacheDue = false) :
    s.opDone f q = s.opLeave f q := by
  have hwake : (s.opLeave f q).wake f = s.opLeave f q := by
    unfold State.wake State.opLeave
    dsimp only
    rw [face_modFace_same]
    dsimp only
    rw [hr]
  have hsettle : (s.opLeave f q).cacheSettle f = s.opLeave f q := by
    unfold State.cacheSettle State.opLeave
    rw [face_modFace_same]
    exact if_neg (ne_true_of_eq_false hd)
  unfold State.opDone
  dsimp only
  rw [hc, Bool.not_false, Bool.or_true, if_pos rfl, hwake, hsettle]

theorem leBytes_length (v n : Nat) : (leBytes v n).length = n := by simp [leBytes]

theorem digestLine_length (s : State) (f : Nat) (q : QOp) : (digestLine s f q).length = 128 := by
  simp [digestLine, leBytes_length]

/-- An AREAD with DIG set writes its digest line alone (R298). -/
theorem arrayDone_digest (ho : q.op = 17) (hd : q.f0 22 1 = 1) :
    s.arrayDone f q = s.progStore f (rngBase q.al) ((digestLine s f q).map (fun v => (v, false))) := by
  rw [State.arrayDone, ho, if_neg (by decide), if_neg (by decide), State.areadDone]
  rw [if_pos hd, List.nil_append]
  rfl

theorem execEngineOpComplete_digest (h : ReadsDigest s f q) : ∃ t, execEngineOpComplete f 0 none [] s = .next t ∧
    (t.face f).started = (s.face f).started.filter (fun o => decide (o.id ≠ q.id)) ∧
    (t.face f).sb = (s.face f).sb.filter (fun e => decide (e.op ≠ q.id)) ∧
    (t.face f).pad = (storeRun (s.face f) (rngBase q.al) ((digestLine s f q).map (fun v => (v, false))) 128).pad ∧
    { t with faces := s.faces } = s := by
  obtain ⟨holdest, ⟨heng, hop, hdig, hcen, hdis⟩, hword, hrun, hinj, hwins, hdue⟩ := h
  have hlen : ((digestLine s f q).map (fun v => (v, false))).length = 128 := by rw [List.length_map, digestLine_length]
  have hstore : s.opEffect f q none [] = s.modFace f (fun x => storeRun x (rngBase q.al) ((digestLine s f q).map (fun v => (v, false))) 128) := by
    rw [State.opEffect, heng]
    dsimp only
    rw [arrayDone_digest hop hdig, progStore_words hinj hwins hword (by rw [hlen]) (List.ne_nil_of_length_pos (by rw [hlen]; decide)), hlen]
  have hframe := storeRun_frame 128 (s.face f) (rngBase q.al) ((digestLine s f q).map (fun v => (v, false)))
  generalize hline : (digestLine s f q).map (fun v => (v, false)) = line at hstore hframe ⊢
  have hface : (s.modFace f (fun x => storeRun x (rngBase q.al) line 128)).face f = storeRun (s.face f) (rngBase q.al) line 128 :=
    face_modFace_same _ _ _
  unfold execEngineOpComplete
  dsimp only
  rw [holdest]
  dsimp only
  rw [hdis, if_neg nofun, hstore, opDone_leaves hcen]
  · refine ⟨_, rfl, ?_, ?_, ?_, rfl⟩ <;> rw [State.opLeave, face_modFace_same, face_modFace_same, hface]
    · exact congrArg (List.filter _) (congrArg Face.started hframe :)
    · exact congrArg (List.filter _) (congrArg Face.sb hframe :)
  · rw [face_modFace_same, hface]
    exact (congrArg Face.run hframe :).trans hrun
  · rw [face_modFace_same, hface]
    exact (congrArg Face.cacheDue hframe :).trans hdue

end Sys2Proof.Machine
end

section
/-! Packets of the haul mesh, and the answer to a fine check (02_faces_and_networks.md R54 to R57, R72, 19_calibration_and_monitoring.md R536, R537). -/
namespace Sys2Proof.Machine
open Sys2Proof.Claims

variable {s : State}

/-! ### The way of a packet (R55, R56) -/

/-- A route passes each of its routers once. -/
theorem meshPath_nodup (p q : Nat) : (meshPath p q).Nodup := by
  unfold meshPath
  extract_lets c d cols row
  have hlt : ∀ k ∈ cols, k < 4 := by
    simp only [cols]
    split <;> simp only [List.mem_map, List.mem_range] <;> rintro k ⟨i, hi, rfl⟩ <;> omega
  have hcols : cols.Nodup := by
    simp only [cols]
    split
    · exact List.Nodup.map (fun i j (e : c + i = c + j) => by omega) List.nodup_range
    · refine List.Nodup.map_on (fun i hi j hj (e : c - i = c - j) => ?_) List.nodup_range
      rw [List.mem_range] at hi hj
      omega
  have hrow : row.Nodup := hcols.map (fun i j (e : i + 4 * (p / 4) = j + 4 * (p / 4)) => by omega)
  split
  · exact hrow
  · next hne =>
    refine List.nodup_append.mpr ⟨hrow, List.nodup_singleton _, fun a ha b hb => ?_⟩
    obtain ⟨k, hk, rfl⟩ := List.mem_map.mp ha
    rw [List.mem_singleton.mp hb]
    have := hlt k hk
    omega

/-- The routers at the places of a route are the route. -/
theorem packetAt_route (p : MPacket) : (List.range (packetRoute p).length).map (fun i => (packetAt p i).1) = packetRoute p := by
  have h (i : Nat) : (packetAt p i).1 = (packetRoute p).getD i 0 := by unfold packetAt; dsimp only; split <;> rfl
  simp only [h]
  refine List.ext_getElem (by simp) (fun i h1 h2 => ?_)
  rw [List.getElem_map, List.getElem_range, List.getD_eq_getElem _ _ h2]

/-- A packet stays at the first place where it must wait. -/
theorem meshGo_stop (waits : Nat → Bool) (l : List Nat) : (meshGo waits l).2 = l.find? waits := by
  induction l with
  | nil => rfl
  | cons i l ih =>
    unfold meshGo
    by_cases h : waits i = true
    · rw [if_pos h, List.find?_cons_of_pos h]
    · rw [if_neg h, List.find?_cons_of_neg h]; exact ih

/-- Where it waits nowhere it passes every place. -/
theorem meshGo_through {waits : Nat → Bool} {l : List Nat} (h : ∀ i ∈ l, waits i = false) : meshGo waits l = (l, none) := by
  induction l with
  | nil => rfl
  | cons i l ih =>
    unfold meshGo
    rw [if_neg (ne_true_of_eq_false (h i List.mem_cons_self)), ih (fun j hj => h j (List.mem_cons_of_mem _ hj))]

/-! ### The counts of the routers (R54, R72) -/

/-- A count raised once at each of several places. -/
theorem rd_foldl_bumpBy {g : Fld} (hg : g.lo + g.wd ≤ 64) (n : Nat) (k : Nat → Nat) {l : List Nat} (hl : (l.map k).Nodup) (s : State) (r : Nat) :
    (l.foldl (fun t i => t.bumpBy g (k i) n) s).rd g r = if r ∈ l.map k then min (s.rd g r + n) (2 ^ g.wd - 1) else s.rd g r := by
  induction l generalizing s with
  | nil => rfl
  | cons i l ih =>
    obtain ⟨hi, hl⟩ := List.nodup_cons.mp hl
    rw [List.foldl_cons, ih hl, List.map_cons]
    by_cases h : r = k i
    · subst h
      rw [if_neg hi, if_pos List.mem_cons_self, rd_bumpBy_same _ _ _ _ hg]
    · rw [rd_bumpBy_ix _ _ _ _ _ _ h]
      simp only [List.mem_cons, h, false_or]

theorem Frame.foldl_bumpBy {t : State} {fs : List (Fld × Nat)} {gs : List Nat} {g : Fld} {k : Nat → Nat} {n : Nat} (h : s.Frame t fs gs)
    {l : List Nat} (hl : ∀ i ∈ l, (g, k i) ∈ fs) (hg : g.lo + g.wd ≤ 64 := by decide) :
    s.Frame (l.foldl (fun u i => u.bumpBy g (k i) n) t) fs gs := by
  induction l generalizing t with
  | nil => exact h
  | cons i l ih => exact ih (Frame.bumpBy h (hl i List.mem_cons_self) hg) (fun j hj => hl j (List.mem_cons_of_mem _ hj))

/-- A router that finds no error, with no slot armed, counts nothing. -/
theorem meshCheck_quiet (hi : s.injs = []) (p : MPacket) (i : Nat) :
    s.meshCheck p [] [] i = ((s.bumpBy R.MSH_ERR.CORRECTED 0 0).bumpBy R.MSH_ERR.POISONED 0 0, []) := by
  simp [State.meshCheck, State.inject, injSlot_nil hi]

/-- The routers of a way find nothing: no word is poisoned, and every register reads as before. -/
theorem foldl_meshCheck_quiet (hi : s.injs = []) (p : MPacket) (l : List Nat) :
    (l.foldl (fun (a : State × List Nat) i => a.1.meshCheck p [] a.2 i) (s, [])).2 = [] ∧
      s.Frame (l.foldl (fun (a : State × List Nat) i => a.1.meshCheck p [] a.2 i) (s, [])).1 [] [] := by
  refine List.foldlRecOn (motive := fun a : State × List Nat => a.2 = [] ∧ s.Frame a.1 [] []) l _ ⟨rfl, Frame.refl _ _ _⟩ (fun a ha i _ => ?_)
  obtain ⟨hbad, hframe⟩ := ha
  have hinj : a.1.injs = [] := (congrArg State.injs hframe.rest :).trans hi
  rw [hbad, meshCheck_quiet hinj]
  exact ⟨rfl, Frame.bumpBy_zero (Frame.bumpBy_zero hframe)⟩

/-- The state in which the beats of a packet have passed the places given. -/
def State.beatsSent (s : State) (p : MPacket) (l : List Nat) : State :=
  l.foldl (fun t i => t.bumpBy R.MSH_ROUTER_STAT.BEATS (packetAt p i).1 p.beats) s

theorem beatsSent_local (s : State) (p : MPacket) (l : List Nat) : s.Local (s.beatsSent p l) :=
  Local.foldl (Local.refl s) (fun u i => (rfl : u.Local (u.bumpBy R.MSH_ROUTER_STAT.BEATS (packetAt p i).1 p.beats))) l

/-- With no field and no face left out, every field reads as before. -/
theorem Frame.rd_nil {t : State} (h : s.Frame t [] []) (g : Fld) (i : Nat) : t.rd g i = s.rd g i := by
  have hreg : t.reg g.reg i = s.reg g.reg i := BitVec.eq_of_getLsbD_eq fun b _ => h.regs _ _ _ (fun _ he => absurd he List.not_mem_nil)
  rw [State.rd, hreg, State.rd]

/-- The places that a new packet enters on a mesh that holds no other, and the one where it stays: an output that is busy, but for RSP traffic at its
destination (R55). -/
def meshWay (p : MPacket) (stop : Option Nat) : List Nat × Option Nat :=
  meshGo (fun i => decide (stop = some i) && !(isRsp p.kind && decide (i + 1 = (packetRoute p).length))) (List.range (packetRoute p).length)

/-- The places whose routers send a new packet on. -/
def meshSent (p : MPacket) (stop : Option Nat) : List Nat := (meshWay p stop).1.filter (fun i => decide ((meshWay p stop).2 ≠ some i))

theorem meshMove_new (hi : s.injs = []) (p : MPacket) (stop : Option Nat) :
    ∃ t, s.meshMove p none [] [] stop [] [] = (t, (meshWay p stop).2, []) ∧ (s.beatsSent p (meshSent p stop)).Frame t [] [] := by
  have hlocal := beatsSent_local s p (meshSent p stop)
  obtain ⟨hbad, hframe⟩ := foldl_meshCheck_quiet (s := s.beatsSent p (meshSent p stop)) ((congrArg State.injs hlocal :).trans hi) p (meshWay p stop).1
  have hmove : s.meshMove p none [] [] stop [] [] =
      (((meshWay p stop).1.foldl (fun (a : State × List Nat) i => a.1.meshCheck p [] a.2 i) (s.beatsSent p (meshSent p stop), [])).1, (meshWay p stop).2,
        ((meshWay p stop).1.foldl (fun (a : State × List Nat) i => a.1.meshCheck p [] a.2 i) (s.beatsSent p (meshSent p stop), [])).2) := by
    have hplaces : (List.range ((packetRoute p).length - 0)).map (fun i => 0 + i) = List.range (packetRoute p).length := by simp
    unfold State.meshMove
    dsimp only
    rw [hplaces]
    rfl
  rw [hmove, hbad]
  exact ⟨_, rfl, hframe⟩

/-! ### MESH_PACKET (R54, R55) -/

/-- The state t behind the move of packet p, with the packet in the buffer where it stays. -/
def State.meshLeft (t : State) (p : MPacket) : Option Nat → State
  | some k => { t with mesh := t.mesh ++ [⟨p, k, []⟩] }
  | none => t

theorem execMeshPacket_new {p : MPacket} (h : Routable s p) (hm : s.mesh = []) {stop o : Option Nat} {t : State}
    (hmove : s.meshMove p none [] [] stop [] [] = (t, o, [])) : execMeshPacket none p stop [] [] none s = .next (t.meshLeft p o) := by
  obtain ⟨⟨hsrc, hdst⟩, hhome, hlo, hhi⟩ := h
  have hgo : ¬ (s.meshPort p.src = false ∨ s.meshPort p.dst = false ∨ s.homePath p.src p.dst = true ∨ p.beats = 0 ∨ p.beats > 16) := by
    rw [hsrc, hdst, hhome]
    simp only [Bool.true_eq_false, Bool.false_eq_true, false_or]
    omega
  unfold execMeshPacket
  dsimp only
  rw [if_neg hgo, hm, hmove]
  cases o <;> rfl

/-- A packet that no output stops is counted at every router of its way. -/
theorem execMeshPacket_delivers {p : MPacket} (h : Routable s p) (hi : s.injs = []) (hm : s.mesh = []) :
    ∃ t, execMeshPacket none p none [] [] none s = .next t ∧ t.mesh = [] ∧
      (∀ r, t.rd R.MSH_ROUTER_STAT.BEATS r = if r ∈ packetRoute p then min (s.rd R.MSH_ROUTER_STAT.BEATS r + p.beats) (2 ^ R.MSH_ROUTER_STAT.BEATS.wd - 1)
        else s.rd R.MSH_ROUTER_STAT.BEATS r) ∧
      s.Frame t ((packetRoute p).map (fun r => (R.MSH_ROUTER_STAT.BEATS, r)) ++ [(R.MSH_ERR.CORRECTED, 0), (R.MSH_ERR.POISONED, 0)]) [] := by
  have hway : meshWay p none = (List.range (packetRoute p).length, none) := meshGo_through (fun i _ => by simp)
  have hsent : meshSent p none = List.range (packetRoute p).length := by simp [meshSent, hway]
  obtain ⟨t, hmove, hframe⟩ := meshMove_new hi p none
  rw [hsent] at hframe
  rw [hway] at hmove
  have hlocal := beatsSent_local s p (List.range (packetRoute p).length)
  have hnodup : ((List.range (packetRoute p).length).map (fun i => (packetAt p i).1)).Nodup := by
    rw [packetAt_route]
    exact meshPath_nodup _ _
  refine ⟨t, execMeshPacket_new h hm hmove, ?_, fun r => ?_, ?_⟩
  · exact (congrArg State.mesh hframe.rest :).trans ((congrArg State.mesh hlocal :).trans hm)
  · rw [Frame.rd_nil hframe, State.beatsSent, rd_foldl_bumpBy (by decide) _ _ hnodup, packetAt_route]
  · refine Frame.trans (Frame.foldl_bumpBy (Frame.refl s _ _) (fun i hi => ?_)) (Frame.mono hframe (fun _ he => absurd he List.not_mem_nil) (fun _ he => he))
    refine List.mem_append_left _ (List.mem_map_of_mem (f := fun r => (R.MSH_ROUTER_STAT.BEATS, r)) ?_)
    rw [← packetAt_route p]
    exact List.mem_map_of_mem (f := fun i => (packetAt p i).1) hi

/-- A packet of REQ traffic stays where its output is busy. -/
theorem execMeshPacket_stays {p : MPacket} (h : Routable s p) (hi : s.injs = []) (hm : s.mesh = []) {k : Nat} (hk : k < (packetRoute p).length)
    (hreq : isRsp p.kind = false) : ∃ t, execMeshPacket none p (some k) [] [] none s = .next t ∧ t.mesh = [⟨p, k, []⟩] := by
  have hwaits (i : Nat) : (decide (some k = some i) && !(isRsp p.kind && decide (i + 1 = (packetRoute p).length))) = true ↔ i = k := by
    simp [hreq, eq_comm]
  have hway : (meshWay p (some k)).2 = some k := by
    rw [meshWay, meshGo_stop]
    generalize hw : (fun i => decide (some k = some i) && !(isRsp p.kind && decide (i + 1 = (packetRoute p).length))) = waits
    have hiff (i : Nat) : waits i = true ↔ i = k := hw ▸ hwaits i
    obtain ⟨i, hfound⟩ := Option.isSome_iff_exists.mp (List.find?_isSome.mpr ⟨k, List.mem_range.mpr hk, (hiff k).mpr rfl⟩)
    rw [hfound, (hiff i).mp (List.find?_some hfound)]
  obtain ⟨t, hmove, hframe⟩ := meshMove_new hi p (some k)
  have hlocal := beatsSent_local s p (meshSent p (some k))
  have hmesh : t.mesh = [] := (congrArg State.mesh hframe.rest :).trans ((congrArg State.mesh hlocal :).trans hm)
  rw [hway] at hmove
  refine ⟨_, execMeshPacket_new h hm hmove, ?_⟩
  rw [State.meshLeft, hmesh, List.nil_append]

/-! ### FINE_CHECK_RESULT (R536, R537) -/

theorem inject_fineChecks {d : Det} {u : Nat} {p : Nat → Bool} {r : Nat × State} (h : s.inject d u p = some r) : r.2.fineChecks = s.fineChecks := by
  unfold State.inject at h
  split at h
  · cases h
  · cases h
    dsimp only
    split <;> split <;> rfl

/-- A record leaves the checks that wait. -/
theorem raise_fineChecks (s : State) (e : Event) : (s.raise e).fineChecks = s.fineChecks := by
  have hmarked : (s.marked e).1.fineChecks = s.fineChecks := by
    unfold State.marked
    split
    · rfl
    · split
      · next hr => exact inject_fineChecks hr
      · rfl
  unfold State.raise
  dsimp only
  split
  · exact hmarked
  · split
    · exact hmarked
    · split
      · exact hmarked
      · split <;> exact hmarked

/-- The state in which the answer on check c is counted. -/
def State.checkAnswered (s : State) (c : FineChk) : State :=
  ({ s with fineChecks := s.fineChecks.erase c } : State).bump R.CAL_DUP_STAT.FINE_SAMPLED 0

/-- The record of a difference, for the face of physical number p (R537). -/
def fineDiffEvent (f p : Nat) (c : FineChk) (crc : Word) : Event :=
  { det := .fineDiff, unit := unitId 7 p 0 0 0, d0 := c.crc, d1 := crc, lface := f, opcode := 0x2400 }

/-- The answer of a partner that is up: the check agrees, or it differs and the face has failed. -/
theorem execFineCheckResult_answered {f : Nat} {c : FineChk} (crc : Word) (h : AwaitsFine s f c) : execFineCheckResult f crc s =
    .next (if crc = c.crc then s.checkAnswered c
      else (((((s.checkAnswered c).bump R.CAL_DUP_STAT.FINE_DIFF 0).raise (fineDiffEvent f (s.phys f) c crc)).raise
        (fineDiffEvent f c.partner c crc)).modFace f (fun x => { x with failed := true, recheck := some c.partner }))) := by
  obtain ⟨hcheck, ⟨g, hlog, hup⟩, hinj⟩ := h
  unfold execFineCheckResult
  rw [hcheck]
  dsimp -zeta only
  extract_lets t gone u fa fb rec_
  have hgone : gone = false := by simp only [gone, hlog, hup]
  have hu : u.injs = [] := hinj
  have hfa : fa = (false, u) := forced_quiet hu _ _
  have hfb : fb = (false, u) := by
    simp only [fb, hfa]
    exact forced_quiet hu _ _
  rw [hgone, if_neg Bool.false_ne_true, hfa, hfb]
  by_cases hc : crc = c.crc
  · rw [if_pos ⟨hc, rfl, rfl⟩, if_pos hc]
    rfl
  · rw [if_neg fun k => hc k.1, if_neg hc]
    rfl

theorem execFineCheckResult_agrees {f : Nat} {c : FineChk} (h : AwaitsFine s f c) : ∃ t, execFineCheckResult f c.crc s = .next t ∧
    t.fineChecks = s.fineChecks.erase c ∧
    t.rd R.CAL_DUP_STAT.FINE_SAMPLED 0 = min (s.rd R.CAL_DUP_STAT.FINE_SAMPLED 0 + 1) (2 ^ R.CAL_DUP_STAT.FINE_SAMPLED.wd - 1) ∧
    s.Frame { t with fineChecks := s.fineChecks } [(R.CAL_DUP_STAT.FINE_SAMPLED, 0)] [] :=
  ⟨_, (execFineCheckResult_answered c.crc h).trans (congrArg Host.Outcome.next (if_pos rfl)), rfl, rd_bump_same _ _ _ (by decide),
    Frame.bump (Frame.refl s _ _) List.mem_cons_self⟩

theorem execFineCheckResult_differs {f : Nat} {c : FineChk} {crc : Word} (h : AwaitsFine s f c) (hne : crc ≠ c.crc) :
    ∃ t, execFineCheckResult f crc s = .next t ∧ t.fineChecks = s.fineChecks.erase c ∧
      t.rd R.CAL_DUP_STAT.FINE_DIFF 0 = min (s.rd R.CAL_DUP_STAT.FINE_DIFF 0 + 1) (2 ^ R.CAL_DUP_STAT.FINE_DIFF.wd - 1) ∧
      t.face f = { s.face f with failed := true, recheck := some c.partner } := by
  refine ⟨_, (execFineCheckResult_answered crc h).trans (congrArg Host.Outcome.next (if_neg hne)), ?_, ?_, ?_⟩
  · rw [State.modFace_fineChecks, raise_fineChecks, raise_fineChecks]
    rfl
  · rw [rd_modFace, raise_rd _ _ _ _, raise_rd _ _ _ _, rd_bump_same _ _ _ (by decide)]
    exact congrArg (fun n => min (n + 1) _) (rd_bump_apart _ _ _ _ _ rfl)
  · rw [face_modFace_same, raise_face, raise_face]
    rfl

end Sys2Proof.Machine
end

section
open Sys2Proof Sys2Proof.Machine Sys2Proof.Claims

/-- Settles O53: each clause is the lemma of its event.  That a saturation is repeated like any other trouble of R122, as the third outcome of a phase
has it, is the model's choice (log entry 44). -/
theorem engineEventResults : Obligations.EngineEventResults := by
  unfold Obligations.EngineEventResults
  intro s f
  refine ⟨fun q r i v drawn h hi hv hn hprev => ?_, fun q r i v p phase errs chk tally sat h hp hst hb => ?_,
    fun q r i p fine h hon hw hh hlow hfine => ?_, fun q r i p h hi hw hm hs => ?_, fun e q h => execEngineOpStart_starts h,
    fun q h => execEngineOpComplete_digest h,
    fun p h hi => ⟨fun hm => execMeshPacket_delivers h hi hm, fun k hk hreq hm => execMeshPacket_stays h hi hm hk hreq⟩,
    fun c crc h => ⟨fun hc => hc ▸ execFineCheckResult_agrees h, fun hne => execFineCheckResult_differs h hne⟩⟩
  · obtain ⟨p, hmvm, hp, hcount⟩ := issueCheck_pass (s := s) (f := f) (q := q) (drawn := drawn) hn
    exact ⟨_, p, execVectorIssueCheck_examines drawn h hi hv hn hprev, hmvm, hp.block, hp.vector, hp.floor, hp.bench, hcount⟩
  · obtain ⟨hblock, hvector⟩ := pass_place hp
    obtain ⟨p', hmvm, hbl, hve, hafter⟩ := phaseEnd_result (q := q) (phase := phase) (errs := errs) (chk := chk) (tally := tally) (sat := sat) h.run hb
    exact ⟨_, p', execPhaseEnd_ends errs chk tally sat h hp hst, hmvm, hbl.trans hblock, hve.trans hvector, hafter⟩
  · subst hfine
    exact ⟨_, execBench3Start_takes h hon hw hh hlow, putPass_mvm (preempt_mvm h.run _ _) _, (rd_putPass _ _ _ _ _).trans (rd_preempt _ _ _ _)⟩
  · exact ⟨_, _, execBench3Done_exact h hi hw hm hs, fineResume_mvm (putPass_mvm h.run _), rfl, resumed_wantsFine,
      rd_bumpBy_same _ _ _ _ (by decide)⟩
end
section
/-! SUPPORT. What the raising of a record leaves of the work on arrays (20_faults.md R541 to R545), and what it comes to in a state that differs from
that of the record's time and hand in nothing that logging reads. -/
namespace Sys2Proof.Machine
open Sys2Proof.Claims

/-! ### What a record leaves -/

/-- `t` has the write-verifies, the monitors and the hand of `s`. -/
structure SameWork (s t : State) : Prop where
  writes : t.writes = s.writes
  monitors : t.monitors = s.monitors
  hand : t.hand = s.hand

theorem inject_work {s : State} {d : Det} {u : Nat} {q : Nat → Bool} {r : Nat × State} (h : s.inject d u q = some r) : SameWork s r.2 := by
  unfold State.inject at h
  split at h
  · cases h
  · cases h
    dsimp only
    split <;> split <;> exact ⟨rfl, rfl, rfl⟩

theorem marked_work (s : State) (e : Event) : SameWork s (s.marked e).1 := by
  unfold State.marked
  split
  · exact ⟨rfl, rfl, rfl⟩
  · split
    · next hr => exact inject_work hr
    · exact ⟨rfl, rfl, rfl⟩

theorem SameWork.wr {s t : State} {g : Fld} {i v : Nat} (h : SameWork s t) : SameWork s (t.wr g i v) := ⟨h.writes, h.monitors, h.hand⟩
theorem SameWork.nvPut {s t : State} {r : FRec} (h : SameWork s t) : SameWork s (t.nvPut r) := ⟨h.writes, h.monitors, h.hand⟩

theorem SameWork.ite {s t u : State} {c : Prop} [Decidable c] (h : SameWork s t) (k : SameWork s u) : SameWork s (if c then t else u) := by
  split <;> assumption

theorem raise_work (s : State) (e : Event) : SameWork s (s.raise e) := by
  have k := marked_work s e
  have hqueue (q : List FRec) : SameWork s { (s.marked e).1 with faultq := q } := ⟨k.writes, k.monitors, k.hand⟩
  unfold State.raise
  refine SameWork.ite k.wr ?_
  split
  · exact hqueue _
  · exact SameWork.ite (hqueue _).wr (SameWork.ite (hqueue _).nvPut (hqueue _)).wr.wr

theorem ticking_congr {s t : State} (hr : t.rd R.SYN_TICK_PERIOD.PERIOD 0 = s.rd R.SYN_TICK_PERIOD.PERIOD 0) (hh : t.hand = s.hand) :
    t.ticking = s.ticking := by rw [State.ticking, State.ticking, hr, hh]

/-! ### A record of a state's time and hand, raised in a later one -/

/-- Logging finds in `t` what it finds in `s`. -/
structure LogsAlike (s t : State) : Prop where
  slots : t.injs = s.injs
  live : t.injLive = s.injLive
  queue : t.faultq = s.faultq
  now : t.now = s.now
  path : t.rd R.FLT_FATAL.LOG_PATH 0 = s.rd R.FLT_FATAL.LOG_PATH 0
  hand : t.rd R.SYN_HAND_NUM.HAND 0 = s.rd R.SYN_HAND_NUM.HAND 0

theorem LogsAlike.refl (s : State) : LogsAlike s s := ⟨rfl, rfl, rfl, rfl, rfl, rfl⟩

theorem LogsAlike.wr {s t : State} {g : Fld} {i v : Nat} (k : LogsAlike s t) (hp : .FLT_FATAL ≠ g.reg := by decide)
    (hh : .SYN_HAND_NUM ≠ g.reg := by decide) : LogsAlike s (t.wr g i v) :=
  ⟨k.slots, k.live, k.queue, k.now, (rd_wr_reg _ _ _ _ _ _ hp).trans k.path, (rd_wr_reg _ _ _ _ _ _ hh).trans k.hand⟩

theorem LogsAlike.bump {s t : State} {g : Fld} {i : Nat} (k : LogsAlike s t) (hp : .FLT_FATAL ≠ g.reg := by decide)
    (hh : .SYN_HAND_NUM ≠ g.reg := by decide) : LogsAlike s (t.bump g i) := k.wr hp hh

theorem LogsAlike.modFace {s t : State} {f : Nat} {g : Face → Face} (k : LogsAlike s t) : LogsAlike s (t.modFace f g) :=
  ⟨k.slots, k.live, k.queue, k.now, k.path, k.hand⟩

/-- A record joins the queue of t. -/
def State.queued (t : State) (r : FRec) : State :=
  ({ t with faultq := t.faultq ++ [r] } : State).wr R.FLT_STATUS.QUEUED 0 (t.faultq.length + 1)

theorem raise_queued {s t : State} {e : Event} (h : Recordable s e) (k : LogsAlike s t) : t.raise e = t.queued (e.record s) := by
  have hrecord : e.record t = e.record s := by rw [Event.record, Event.record, k.now, k.hand]
  rw [raise_frame (k.slots.trans h.slots) (k.live.trans h.live) (k.path.trans h.path) (k.queue ▸ h.fresh) (k.queue ▸ h.room), hrecord]
  rfl

/-- A state that keeps the queue and the count of one in which the record was queued. -/
theorem LogsAlike.recorded {s t u : State} {e : Event} (k : LogsAlike s t) (hq : u.faultq = t.faultq ++ [e.record s])
    (hc : u.rd R.FLT_STATUS.QUEUED 0 = (t.queued (e.record s)).rd R.FLT_STATUS.QUEUED 0) : Recorded s e u :=
  ⟨hq.trans (by rw [k.queue]), hc.trans ((rd_wr_same _ _ _ _ (by decide)).trans (by rw [k.queue]))⟩

theorem face_queued (t : State) (r : FRec) (f : Nat) : (t.queued r).face f = t.face f := rfl

theorem rd_queued (t : State) (r : FRec) (g : Fld) (i : Nat) (h : g.reg ≠ .FLT_STATUS := by decide) : (t.queued r).rd g i = t.rd g i :=
  rd_wr_reg _ _ _ _ _ _ h

theorem regsBeside_queued {rs : List RegId} {s t : State} {r : FRec} (h : RegsBeside rs s t) (hr : RegId.FLT_STATUS ∈ rs := by decide) :
    RegsBeside rs s (t.queued r) := RegsBeside.wr (t := { t with faultq := t.faultq ++ [r] }) h hr

end Sys2Proof.Machine
end
section
/-! Calibration (19_calibration_and_monitoring.md R518 to R527): what a request, a gathering and a fit leave. -/
namespace Sys2Proof.Machine
open Sys2Proof.Claims

variable {s t : State} {f b : Nat}

/-! ### The fitter's choice of a block (R520) -/

theorem cal_modCal (s : State) (f b : Nat) (g : CalBlk → CalBlk) : (s.modCal f b g).cal f b = g (s.cal f b) := mget_mset_same _ _ _ _

theorem calPick_cases (s : State) (f : Nat) : s.calPick f = s ∨
    ∃ b, s.calPick f = s.modCal f b (fun x => { x with gather := some s.now, hists := [], normal := [] }) := by
  unfold State.calPick
  split
  · exact .inl rfl
  · dsimp only
    split
    · exact .inr ⟨_, rfl⟩
    · exact .inl rfl

/-- What is no part of the calibrations is left by the choice. -/
theorem calPick_same {α : Type} (p : State → α) (hp : ∀ (t : State) m, p { t with cals := m } = p t) (s : State) (f : Nat) : p (s.calPick f) = p s := by
  rcases calPick_cases s f with h | ⟨b, h⟩
  · rw [h]
  · rw [h]
    exact hp _ _

/-- What is no part of the gathering is left of each block's calibration. -/
theorem calPick_part {α : Type} (p : CalBlk → α) (hp : ∀ x g, p { x with gather := g, hists := [], normal := [] } = p x) (s : State) (f g b : Nat) :
    p ((s.calPick f).cal g b) = p (s.cal g b) := by
  rcases calPick_cases s f with h | ⟨c, h⟩
  · rw [h]
  · rw [h]
    simp only [State.cal, State.modCal, mget_mset]
    split
    · next e => exact (hp _ _).trans (by rw [e])
    · rfl

theorem calPick_rd (s : State) (f : Nat) (g : Fld) (i : Nat) : (s.calPick f).rd g i = s.rd g i := calPick_same (State.rd · g i) (fun _ _ => rfl) s f
theorem calPick_now (s : State) (f : Nat) : (s.calPick f).now = s.now := calPick_same State.now (fun _ _ => rfl) s f
theorem calPick_faultq (s : State) (f : Nat) : (s.calPick f).faultq = s.faultq := calPick_same State.faultq (fun _ _ => rfl) s f
theorem calPick_monitors (s : State) (f : Nat) : (s.calPick f).monitors = s.monitors := calPick_same State.monitors (fun _ _ => rfl) s f
theorem calPick_req (s : State) (f g b : Nat) : ((s.calPick f).cal g b).req = (s.cal g b).req := calPick_part CalBlk.req (fun _ _ => rfl) s f g b
theorem calPick_failed (s : State) (f g b : Nat) : ((s.calPick f).cal g b).failed = (s.cal g b).failed :=
  calPick_part CalBlk.failed (fun _ _ => rfl) s f g b
theorem calPick_next (s : State) (f g b : Nat) : ((s.calPick f).cal g b).next = (s.cal g b).next := calPick_part CalBlk.next (fun _ _ => rfl) s f g b
theorem calPick_ready (s : State) (f g b : Nat) : ((s.calPick f).cal g b).ready = (s.cal g b).ready := calPick_part CalBlk.ready (fun _ _ => rfl) s f g b
theorem calPick_retryAt (s : State) (f g b : Nat) : ((s.calPick f).cal g b).retryAt = (s.cal g b).retryAt :=
  calPick_part CalBlk.retryAt (fun _ _ => rfl) s f g b
theorem calPick_count (s : State) (f g b : Nat) : ((s.calPick f).cal g b).count = (s.cal g b).count := calPick_part CalBlk.count (fun _ _ => rfl) s f g b
theorem calPick_idle (s : State) (f g b : Nat) : ((s.calPick f).cal g b).idle = (s.cal g b).idle := calPick_part CalBlk.idle (fun _ _ => rfl) s f g b

/-! ### Requests (R518, R526) -/

/-- The block's request stands in the order, before a fitter chooses. -/
def State.calAsked (s : State) (f b trig : Nat) : State :=
  ((({ s with calOrder := s.calOrder + 1 } : State).modCal f b (fun y => { y with req := some (trig, calPriority trig, s.calOrder) })).wr
    R.CAL_BLK_STATE.TRIGGER (ixB f b) trig).wr R.CAL_BLK_STATE.PENDING (ixB f b) 1

theorem calRequest_unrequested (trig : Nat) (h : Unrequested s f b) : s.calRequest f b trig = (s.calAsked f b trig).calPick f := by
  unfold State.calRequest
  dsimp only
  rw [show (s.cal f b).req = none from h]
  rfl

theorem cal_calAsked (s : State) (f b trig : Nat) : (s.calAsked f b trig).cal f b = { s.cal f b with req := some (trig, calPriority trig, s.calOrder) } :=
  mget_mset_same _ _ _ _

theorem calRequest_requested (trig : Nat) (h : Unrequested s f b) : Requested s f b trig (s.calRequest f b trig) := by
  rw [calRequest_unrequested trig h]
  refine ⟨?_, ?_, ?_⟩
  · rw [calPick_req, cal_calAsked]
  · rw [calPick_rd]
    exact rd_wr_same _ _ _ _ (by decide)
  · rw [calPick_rd]
    exact (rd_wr_apart _ _ _ _ _ _ (by decide)).trans (rd_wr_same _ _ _ _ (by decide))

/-- A request, whether new, raised or merged, is pending. -/
theorem calRequest_pending (s : State) (f b trig : Nat) : (s.calRequest f b trig).rd R.CAL_BLK_STATE.PENDING (ixB f b) = 1 :=
  (calPick_rd _ _ _ _).trans (rd_wr_same _ _ _ _ (by decide))

theorem calRequest_monitors (s : State) (f b trig : Nat) : (s.calRequest f b trig).monitors = s.monitors := by
  unfold State.calRequest
  dsimp only
  rw [calPick_monitors, State.wr_monitors]
  split
  · split <;> rfl
  · rfl

/-- The write of CAL_REQ that asks for one block, or for the lanes of a port. -/
def State.calReqWritten (s : State) (f b port : Nat) (lanes : Bool) : State :=
  ((((s.wr R.CAL_REQ.FACE 0 (f % 8)).wr R.CAL_REQ.BLOCK 0 (b % 64)).wrB R.CAL_REQ.ALL 0 false).wr R.CAL_REQ.PORT 0 (port % 8)).wrB R.CAL_REQ.LANES 0 lanes

theorem calReqWritten_beside (s : State) (f b port : Nat) (lanes : Bool) : RegsBeside [.CAL_REQ] s (s.calReqWritten f b port lanes) :=
  ((((RegsBeside.refl _ s).wr).wr).wr.wr).wr

theorem execCalReq_block (port : Nat) (hf : f < s.nFaces) (hb : b < 64) (h : Unrequested s f b) :
    ∃ t, execCalReq f b false port false s = .next t ∧ Requested s f b 6 t := by
  have hfaces : f < (s.calReqWritten f b port false).nFaces := by
    rw [State.nFaces, (calReqWritten_beside s f b port false).rd _ _]
    exact hf
  have hex : execCalReq f b false port false s = .next ((s.calReqWritten f b port false).calRequest f b 6) :=
    congrArg Host.Outcome.next ((if_neg Bool.false_ne_true).trans ((if_neg Bool.false_ne_true).trans
      ((if_pos hfaces).trans (congrArg (fun n => State.calRequest _ f n 6) (Nat.mod_eq_of_lt hb)))))
  obtain ⟨hreq, hpending, htrigger⟩ := calRequest_requested (s := s.calReqWritten f b port false) 6 h
  exact ⟨_, hex, hreq, hpending, htrigger⟩

/-- A lane calibration of an ACTIVE port that is present is in progress. -/
theorem laneCalStart_active {p : Nat} (hp : p < 6) (hpres : s.portPresent p = true) (hst : s.rd R.LNK_PORT_STATE.STATE p = 4) :
    s.laneCalStart p = s.wr R.CAL_LANE_STATE.PENDING p 1 := if_pos ⟨hp, hpres, hst⟩

/-- The fields of CAL_REQ, and what shows a port's lane calibration. -/
def laneReqFields (port : Nat) : List (Fld × Nat) :=
  [(R.CAL_REQ.FACE, 0), (R.CAL_REQ.BLOCK, 0), (R.CAL_REQ.ALL, 0), (R.CAL_REQ.PORT, 0), (R.CAL_REQ.LANES, 0), (R.CAL_LANE_STATE.PENDING, port)]

theorem execCalReq_lanes (f b : Nat) {port : Nat} (hp : port < 6) (hpres : s.portPresent port = true) (hst : s.rd R.LNK_PORT_STATE.STATE port = 4) :
    ∃ t, execCalReq f b false port true s = .next t ∧ t.rd R.CAL_LANE_STATE.PENDING port = 1 ∧ s.Frame t (laneReqFields port) [] := by
  have k := calReqWritten_beside s f b port true
  have hstart : (s.calReqWritten f b port true).laneCalStart (port % 8) = (s.calReqWritten f b port true).wr R.CAL_LANE_STATE.PENDING port 1 := by
    rw [Nat.mod_eq_of_lt (by omega)]
    exact laneCalStart_active hp ((congrArg (bit · port) (k.rd _ _)).trans hpres) ((k.rd _ _).trans hst)
  refine ⟨_, congrArg Host.Outcome.next ((if_pos rfl).trans hstart), rd_wr_same _ _ _ _ (by decide), ?_⟩
  refine Frame.wr (Frame.wrB (Frame.wr (Frame.wrB (Frame.wr (Frame.wr (Frame.refl s _ _) ?_) ?_) ?_) ?_) ?_) ?_ <;> simp [laneReqFields]

theorem execCalAge_block {at_ : Nat} (hp : (s.cal f b).passAt = some at_) (h : Unrequested s f b) :
    ∃ t, execCalAge f b none s = .next t ∧ Requested s f b 5 t ∧ t.now = max s.now (at_ + s.rd R.CAL_CFG.MAX_AGE 0 * 1000000000) := by
  have hu : Unrequested (s.advance (at_ + s.rd R.CAL_CFG.MAX_AGE 0 * 1000000000)) f b := h
  obtain ⟨hreq, hpending, htrigger⟩ := calRequest_requested 5 hu
  refine ⟨_, ?_, ⟨hreq, hpending, htrigger⟩, ?_⟩
  · unfold execCalAge
    dsimp only
    rw [hp]
  · rw [calRequest_unrequested 5 hu, calPick_now]
    rfl

theorem execCalAge_lanes (f b : Nat) {port : Nat} (hp : port < 6) (hpres : s.portPresent port = true) (hst : s.rd R.LNK_PORT_STATE.STATE port = 4) :
    ∃ t, execCalAge f b (some port) s = .next t ∧ t.rd R.CAL_LANE_STATE.PENDING port = 1 ∧ s.Frame t [(R.CAL_LANE_STATE.PENDING, port)] [] :=
  ⟨_, congrArg Host.Outcome.next (laneCalStart_active hp hpres hst), rd_wr_same _ _ _ _ (by decide), Frame.wr (Frame.refl s _ _) List.mem_cons_self⟩

/-- The time of a RETRY has come, and is no longer due. -/
def State.retryDue (s : State) (f b at_ : Nat) : State := (s.advance at_).modCal f b (fun x => { x with retryAt := none })

theorem cal_retryDue (s : State) (f b at_ : Nat) : (s.retryDue f b at_).cal f b = { s.cal f b with retryAt := none } := cal_modCal _ _ _ _

theorem execCalRetry_requests {at_ : Nat} (hr : (s.cal f b).retryAt = some at_) (h : Unrequested s f b) :
    ∃ t, execCalRetry f b s = .next t ∧ Requested s f b 4 t ∧ (t.cal f b).retryAt = none ∧ t.now = max s.now at_ := by
  have hu : Unrequested (s.retryDue f b at_) f b := (congrArg CalBlk.req (cal_retryDue s f b at_)).trans h
  obtain ⟨hreq, hpending, htrigger⟩ := calRequest_requested 4 hu
  refine ⟨_, ?_, ⟨hreq, hpending, htrigger⟩, ?_, ?_⟩
  · unfold execCalRetry
    rw [hr]
    rfl
  · rw [calRequest_unrequested 4 hu, calPick_retryAt, cal_calAsked, cal_retryDue]
  · rw [calRequest_unrequested 4 hu, calPick_now]
    rfl

/-! ### The end of a gathering (R520) -/

theorem execGatherClose_fits (hg : (s.cal f b).gather ≠ none) (hn : 32 ≤ s.fullConverters f b) :
    ∃ t, execGatherClose f b s = .next t ∧ (t.cal f b).gather = none ∧ (t.cal f b).fitting = some ((s.blockTemp f b).getD 0) ∧
      { t with cals := s.cals } = s :=
  ⟨_, congrArg Host.Outcome.next (if_pos ⟨Option.isSome_iff_ne_none.mpr hg, hn⟩), congrArg CalBlk.gather (cal_modCal _ _ _ _),
    congrArg CalBlk.fitting (cal_modCal _ _ _ _), rfl⟩

/-- MAX_WAIT has gone by: the block is idle, with what it gathered dropped. -/
def State.gatherGivenUp (s : State) (f b since : Nat) : State :=
  (((s.advance (since + s.rd R.CAL_CFG.MAX_WAIT 0 * 1000000000)).modCal f b
    (fun x => { x with gather := none, hists := [], normal := [], idle := true })).wr R.CAL_BLK_STATE.RESULT (ixB f b) 3).bump R.CAL_STAT.IDLES 0

theorem execGatherTimeout_idles {since : Nat} (hg : (s.cal f b).gather = some since) (hn : s.fullConverters f b < 32) :
    ∃ t, execGatherTimeout f b s = .next t ∧ t.rd R.CAL_BLK_STATE.RESULT (ixB f b) = 3 ∧ (t.cal f b).idle = true ∧
      (t.cal f b).req = (s.cal f b).req ∧ t.now = max s.now (since + s.rd R.CAL_CFG.MAX_WAIT 0 * 1000000000) ∧
      t.rd R.CAL_STAT.IDLES 0 = min (s.rd R.CAL_STAT.IDLES 0 + 1) (2 ^ R.CAL_STAT.IDLES.wd - 1) := by
  have hcal : (s.gatherGivenUp f b since).cal f b = { s.cal f b with gather := none, hists := [], normal := [], idle := true } := mget_mset_same _ _ _ _
  refine ⟨(s.gatherGivenUp f b since).calPick f, ?_, ?_, ?_, ?_, ?_, ?_⟩
  · unfold execGatherTimeout
    rw [hg]
    exact congrArg Host.Outcome.next (if_neg (by omega))
  · rw [calPick_rd]
    exact (rd_bump_apart _ _ _ _ _ (by decide)).trans (rd_wr_same _ _ _ _ (by decide))
  · rw [calPick_idle, hcal]
  · rw [calPick_req, hcal]
  · rw [calPick_now]
    rfl
  · rw [calPick_rd]
    exact (rd_bump_same _ _ _ (by decide)).trans (congrArg (fun n => min (n + 1) _) (rd_wr_apart _ _ _ _ _ _ (by decide)))

/-! ### The end of a fit (R521 to R523) -/

/-- The fit of a block has ended, and `pass` says how: what the device notes of it before the faults are recorded. -/
def State.fitNoted (s : State) (f b : Nat) (tc : Int) (pass : Bool) : State :=
  ((((s.modCal f b (fun x =>
    { x with req := none, fitting := none, hists := [], normal := [], count := x.count + 1
             failed := x.failed.filter (fun j => !(s.blockFits f b).any (fun e => decide (e.1 = j))) ++ (s.failedConvs f b).map Prod.fst
             next := if pass then ⟨(s.blockFits f b).foldl (fun m e => mset {} m e.1 e.2.1) x.trims.conv, (levelTrims (s.cal f b).normal).1⟩ else x.next
             ready := if pass then some tc else x.ready
             retryAt := if pass then none else some (s.now + s.rd R.CAL_CFG.RETRY 0 * 1000000000) })).wr
    R.CAL_BLK_STATE.PENDING (ixB f b) 0).wr R.CAL_BLK_STATE.TRIGGER (ixB f b) 0).wr R.CAL_BLK_STATE.RESULT (ixB f b) (if pass then 1 else 2)).bump
    (if pass then R.CAL_STAT.PASSES else R.CAL_STAT.FAILS) 0

/-- The records of the converters and levels of the block's fit that fail, raised in `t`. -/
def State.fitFaults (s : State) (f b : Nat) (t : State) : State :=
  let u := (s.failedConvs f b).foldl (fun t c => t.raise
    { det := .calFailConv, unit := unitId 3 (s.phys f) b (c.1 / 16) (c.1 % 16), d0 := BitVec.ofNat 64 c.2 }) t
  if (levelTrims (s.cal f b).normal).2 = 0 then u
  else u.raise { det := .calFailLevel, unit := s.unitBlock f b, d0 := BitVec.ofNat 64 (levelTrims (s.cal f b).normal).2 }

/-- The end of a fit with no injection slot armed; with `h`, the trims of a PASS wait for the boundary. -/
theorem execCalFitDone_fit {tc : Int} (hi : s.injs = []) (hf : (s.cal f b).fitting = some tc) {pass : Bool}
    (hp : pass = decide (s.failedConvs f b = [] ∧ (levelTrims (s.cal f b).normal).2 = 0)) (h : pass = false ∨ s.ticking = true) :
    execCalFitDone f b none s = .next ((s.fitFaults f b (s.fitNoted f b tc pass)).calPick f) := by
  unfold execCalFitDone
  dsimp -zeta only
  rw [hf]
  dsimp -zeta only
  extract_lets i fits convs0 wl extra lev convs levels u p s1 s2 s3 s4 s5 s6
  have hextra : extra = [] := by simp [extra, injSlot_nil hi]
  have hlev : lev = false := by simp [lev, injSlot_nil hi]
  have hu : u = s := if_pos ⟨hextra, hlev⟩
  have hconvs : convs = s.failedConvs f b := by simp [convs, hextra, convs0]
  have hlevels : levels = (levelTrims (s.cal f b).normal).2 := by simp [levels, hlev, wl]
  have hpass : p = pass := by simp only [p, hconvs, hlevels, hp]
  have h6 : s6 = s5 := if_neg (by rw [hu, hpass]; rcases h with h | h <;> simp [h])
  have h3 : s3 = s.fitNoted f b tc pass := by
    simp only [s3, s2, s1, hu, hconvs, hpass]
    rfl
  rw [h6]
  simp only [s5, s4, hconvs, hlevels, h3, hu]
  rfl

/-! ### What a fit leaves, by its result -/

theorem cal_fitNoted (s : State) (f b : Nat) (tc : Int) (pass : Bool) : (s.fitNoted f b tc pass).cal f b =
    { s.cal f b with
      req := none, fitting := none, hists := [], normal := [], count := (s.cal f b).count + 1
      failed := (s.cal f b).failed.filter (fun j => !(s.blockFits f b).any (fun e => decide (e.1 = j))) ++ (s.failedConvs f b).map Prod.fst
      next := if pass then ⟨(s.blockFits f b).foldl (fun m e => mset {} m e.1 e.2.1) (s.cal f b).trims.conv, (levelTrims (s.cal f b).normal).1⟩
        else (s.cal f b).next
      ready := if pass then some tc else (s.cal f b).ready
      retryAt := if pass then none else some (s.now + s.rd R.CAL_CFG.RETRY 0 * 1000000000) } :=
  mget_mset_same _ _ _ _

theorem fitNoted_ready (s : State) (f b : Nat) (tc : Int) (pass : Bool) :
    ((s.fitNoted f b tc pass).cal f b).ready = if pass then some tc else (s.cal f b).ready := by rw [cal_fitNoted]

theorem fitNoted_retryAt (s : State) (f b : Nat) (tc : Int) (pass : Bool) :
    ((s.fitNoted f b tc pass).cal f b).retryAt = if pass then none else some (s.now + s.rd R.CAL_CFG.RETRY 0 * 1000000000) := by rw [cal_fitNoted]

/-- What CAL_BLK_STATE and CAL_STAT show of a fit that has ended with `result`, which `g` counts. -/
structure FitShown (s : State) (f b result : Nat) (g : Fld) (t : State) : Prop where
  pending : t.rd R.CAL_BLK_STATE.PENDING (ixB f b) = 0
  result : t.rd R.CAL_BLK_STATE.RESULT (ixB f b) = result
  count : t.rd g 0 = min (s.rd g 0 + 1) (2 ^ g.wd - 1)

theorem fitNoted_shown (s : State) (f b : Nat) (tc : Int) (pass : Bool) :
    FitShown s f b (if pass then 1 else 2) (if pass then R.CAL_STAT.PASSES else R.CAL_STAT.FAILS) (s.fitNoted f b tc pass) := by
  have hg : (if pass then R.CAL_STAT.PASSES else R.CAL_STAT.FAILS).reg = .CAL_STAT := by cases pass <;> rfl
  have hwd : (if pass then R.CAL_STAT.PASSES else R.CAL_STAT.FAILS).lo + (if pass then R.CAL_STAT.PASSES else R.CAL_STAT.FAILS).wd ≤ 64 := by
    cases pass <;> decide
  have hstat (u : State) (g : Fld) (i v : Nat) (h : g.reg = .CAL_BLK_STATE) :
      (u.wr g i v).rd (if pass then R.CAL_STAT.PASSES else R.CAL_STAT.FAILS) 0 = u.rd (if pass then R.CAL_STAT.PASSES else R.CAL_STAT.FAILS) 0 :=
    rd_wr_reg _ _ _ _ _ _ (by rw [hg, h]; decide)
  have hblk (u : State) (g : Fld) (i : Nat) (h : g.reg = .CAL_BLK_STATE) :
      (u.bump (if pass then R.CAL_STAT.PASSES else R.CAL_STAT.FAILS) 0).rd g i = u.rd g i := rd_wr_reg _ _ _ _ _ _ (by rw [hg, h]; decide)
  refine ⟨?_, ?_, ?_⟩
  · refine (hblk _ _ _ rfl).trans ((rd_wr_apart _ _ _ _ _ _ (by decide)).trans ((rd_wr_apart _ _ _ _ _ _ (by decide)).trans ?_))
    exact rd_wr_same _ _ _ _ (by decide)
  · refine (hblk _ _ _ rfl).trans ((rd_wr_same _ _ _ _ (by decide)).trans ?_)
    cases pass <;> rfl
  · refine (rd_bump_same _ _ _ hwd).trans (congrArg (fun n => min (n + 1) _) ?_)
    exact (hstat _ _ _ _ rfl).trans ((hstat _ _ _ _ rfl).trans (hstat _ _ _ _ rfl))

theorem FitShown.of_rd {result : Nat} {g : Fld} {u : State} (h : FitShown s f b result g t) (hg : g.reg = .CAL_STAT)
    (hr : ∀ k : Fld, k.reg ≠ .FLT_STATUS → ∀ i, u.rd k i = t.rd k i) : FitShown s f b result g u :=
  ⟨(hr _ (by decide) _).trans h.pending, (hr _ (by decide) _).trans h.result, (hr _ (by rw [hg]; decide) _).trans h.count⟩

theorem fitNoted_beside (s : State) (f b : Nat) (tc : Int) (pass : Bool) : RegsBeside [.CAL_BLK_STATE, .CAL_STAT] s (s.fitNoted f b tc pass) := by
  cases pass <;> exact ((((RegsBeside.refl _ s).wr).wr).wr).wr

theorem fitNoted_logsAlike (s : State) (f b : Nat) (tc : Int) (pass : Bool) : LogsAlike s (s.fitNoted f b tc pass) :=
  ⟨rfl, rfl, rfl, rfl, (fitNoted_beside s f b tc pass).rd _ _, (fitNoted_beside s f b tc pass).rd _ _⟩

theorem execCalFitDone_passes {tc : Int} (hi : s.injs = []) (hf : (s.cal f b).fitting = some tc) (ht : s.ticking = true)
    (hc : s.failedConvs f b = []) (hl : (levelTrims (s.cal f b).normal).2 = 0) :
    ∃ t, execCalFitDone f b none s = .next t ∧ (t.cal f b).next.level = (levelTrims (s.cal f b).normal).1 ∧ FitShown s f b 1 R.CAL_STAT.PASSES t ∧
      (t.cal f b).req = none ∧ (t.cal f b).ready = some tc ∧ (t.cal f b).count = (s.cal f b).count + 1 ∧ (t.cal f b).retryAt = none := by
  have hex := execCalFitDone_fit hi hf (pass := true) (by simp [hc, hl]) (.inr ht)
  have hfaults : s.fitFaults f b (s.fitNoted f b tc true) = s.fitNoted f b tc true := by simp [State.fitFaults, hc, hl]
  rw [hfaults] at hex
  refine ⟨_, hex, ?_, (fitNoted_shown s f b tc true).of_rd rfl fun _ _ _ => calPick_rd _ _ _ _, ?_, ?_, ?_, ?_⟩
  · rw [calPick_next, cal_fitNoted, if_pos rfl]
  · rw [calPick_req, cal_fitNoted]
  · rw [calPick_ready, fitNoted_ready, if_pos rfl]
  · rw [calPick_count, cal_fitNoted]
  · rw [calPick_retryAt, fitNoted_retryAt, if_pos rfl]

/-- A fit has failed with one fault, which is recorded: the block's request is gone, and RETRY is due. -/
structure FitFailed (s : State) (f b : Nat) (e : Event) (t : State) : Prop where
  shown : FitShown s f b 2 R.CAL_STAT.FAILS t
  req : (t.cal f b).req = none
  ready : (t.cal f b).ready = (s.cal f b).ready
  failed : ∀ c ∈ s.failedConvs f b, c.1 ∈ (t.cal f b).failed
  retry : (t.cal f b).retryAt = some (s.now + s.rd R.CAL_CFG.RETRY 0 * 1000000000)
  recorded : Recorded s e t

theorem execCalFitDone_fails {tc : Int} {e : Event} (hi : s.injs = []) (hf : (s.cal f b).fitting = some tc)
    (hbad : ¬ (s.failedConvs f b = [] ∧ (levelTrims (s.cal f b).normal).2 = 0))
    (hfaults : ∀ t, s.fitFaults f b t = t.raise e) (hrec : Recordable s e) :
    ∃ t, execCalFitDone f b none s = .next t ∧ FitFailed s f b e t := by
  have k := fitNoted_logsAlike s f b tc false
  have hcal : ((s.fitNoted f b tc false).queued (e.record s)).cal f b = (s.fitNoted f b tc false).cal f b := rfl
  have hex := execCalFitDone_fit hi hf (pass := false) (decide_eq_false hbad).symm (.inl rfl)
  rw [hfaults, raise_queued hrec k] at hex
  refine ⟨_, hex, (fitNoted_shown s f b tc false).of_rd rfl (fun g hg i => (calPick_rd _ _ _ _).trans (rd_queued _ _ _ _ hg)), ?_, ?_, fun c hc => ?_, ?_,
    k.recorded (calPick_faultq _ _) (calPick_rd _ _ _ _)⟩
  · rw [calPick_req, hcal, cal_fitNoted]
  · rw [calPick_ready, hcal, fitNoted_ready, if_neg Bool.false_ne_true]
  · rw [calPick_failed, hcal, cal_fitNoted]
    exact List.mem_append_right _ (List.mem_map_of_mem hc)
  · rw [calPick_retryAt, hcal, fitNoted_retryAt, if_neg Bool.false_ne_true]

/-- A port's lane calibration has ended, and found the lane open wide enough. -/
def State.laneOpen (s : State) (port lane : Nat) : State :=
  let u := s.wr R.CAL_LANE_STATE.PENDING port 0
  (u.wr R.CAL_LANE_STATE.PASS port (setBit (u.rd R.CAL_LANE_STATE.PASS port) lane true)).wr R.CAL_LANE_STATE.FAIL port
    (setBit (u.rd R.CAL_LANE_STATE.FAIL port) lane false)

/-- A lane that opens wide enough passes (R527). -/
theorem execCalFitDone_lane (f b : Nat) {port mv : Nat} (lane : Nat) (hi : s.injs = []) (hp : s.rd R.CAL_LANE_STATE.PENDING port ≠ 0)
    (hm : s.rd R.CAL_LANE_CFG.EYE_MIN 0 ≤ mv) :
    ∃ t, execCalFitDone f b (some (port, [(lane, mv)])) s = .next t ∧ t.rd R.CAL_LANE_STATE.PENDING port = 0 ∧
      t.rd R.CAL_LANE_STATE.PASS port = setBit (s.rd R.CAL_LANE_STATE.PASS port) lane true % 2 ^ R.CAL_LANE_STATE.PASS.wd ∧
      t.rd R.CAL_LANE_STATE.FAIL port = setBit (s.rd R.CAL_LANE_STATE.FAIL port) lane false % 2 ^ R.CAL_LANE_STATE.FAIL.wd := by
  have hgood : (decide (mv ≥ s.rd R.CAL_LANE_CFG.EYE_MIN 0) &&
      ((s.wr R.CAL_LANE_STATE.PENDING port 0).injSlot .laneCal (unitId 11 port 0 0 lane)).isNone) = true := by
    rw [injSlot_nil (s := s.wr _ _ _) hi, decide_eq_true hm]
    rfl
  have hex : execCalFitDone f b (some (port, [(lane, mv)])) s = .next (s.laneOpen port lane) := by
    refine congrArg Host.Outcome.next ((if_neg hp).trans ?_)
    simp only [List.foldl_cons, List.foldl_nil]
    rw [hgood]
    rfl
  refine ⟨_, hex, ?_, ?_, ?_⟩
  · exact (rd_wr_apart _ _ _ _ _ _ (by decide)).trans ((rd_wr_apart _ _ _ _ _ _ (by decide)).trans (rd_wr_same _ _ _ _ (by decide)))
  · refine (rd_wr_apart _ _ _ _ _ _ (by decide)).trans ((rd_wr_same _ _ _ _ (by decide)).trans ?_)
    rw [rd_wr_apart _ _ R.CAL_LANE_STATE.PASS _ _ _ (by decide)]
  · refine (rd_wr_same _ _ _ _ (by decide)).trans ?_
    rw [rd_wr_apart _ _ R.CAL_LANE_STATE.FAIL _ _ _ (by decide)]

end Sys2Proof.Machine
end
section
/-! Monitor windows, and the dwell of a tour (19_calibration_and_monitoring.md R530, R533, R534). -/
namespace Sys2Proof.Machine
open Sys2Proof.Claims

variable {s : State} {f b : Nat}

/-! ### The end of a monitor's window (R530) -/

/-- The monitor of a key as its next window begins, with the columns `flags` flagged. -/
def Mon.restarted (m : Mon) (flags : List Nat) : Mon :=
  { m with conv := 0, krow := [], sums := [], cols := flags.foldl (fun cs c => mset {} cs c { mget {} cs c with flag := true }) m.cols }

def State.monRestarted (s : State) (key : Nat) (flags : List Nat) : State :=
  { s with monitors := mset {} s.monitors key ((mget {} s.monitors key).restarted flags) }

theorem mget_monRestarted (s : State) (key : Nat) (flags : List Nat) :
    mget {} (s.monRestarted key flags).monitors key = (mget {} s.monitors key).restarted flags := mget_mset_same _ _ _ _

theorem flag_foldl {flags : List Nat} {cs : SMap MonCol} {c : Nat} (h : c ∈ flags ∨ (mget {} cs c).flag = true) :
    (mget {} (flags.foldl (fun cs c => mset {} cs c { mget {} cs c with flag := true }) cs) c).flag = true := by
  induction flags generalizing cs with
  | nil => exact h.resolve_left List.not_mem_nil
  | cons a flags ih =>
    refine ih ?_
    by_cases e : c = a
    · rw [e, mget_mset_same]
      exact .inr rfl
    · rw [mget_mset_other _ _ _ _ _ _ e]
      exact h.imp_left fun hc => (List.mem_cons.mp hc).resolve_left e

/-- Each of the columns is flagged. -/
theorem restarted_flag (m : Mon) {flags : List Nat} {c : Nat} (hc : c ∈ flags) : (mget {} (m.restarted flags).cols c).flag = true :=
  flag_foldl (.inl hc)

theorem execMonitorWindowClose_untested {a bench : Nat} {late : Bool} (hn : 32768 ≤ (mget {} s.monitors (ixA f b a * 4 + bench)).conv)
    (h : late = true ∨ s.usedOf f b a = none) :
    ∃ t, execMonitorWindowClose f b a bench late s = .next t ∧
      mget {} t.monitors (ixA f b a * 4 + bench) = (mget {} s.monitors (ixA f b a * 4 + bench)).restarted [] ∧
      (late = true → t.rd R.CAL_STAT.DISCARDED 0 = min (s.rd R.CAL_STAT.DISCARDED 0 + 1) (2 ^ R.CAL_STAT.DISCARDED.wd - 1)) ∧
      s.Frame { t with monitors := s.monitors } [(R.CAL_STAT.DISCARDED, 0)] [] := by
  cases late with
  | true =>
    exact ⟨_, congrArg Host.Outcome.next ((if_neg (by omega)).trans (if_pos rfl)), mget_monRestarted s _ [], fun _ => rd_bump_same _ _ _ (by decide),
      Frame.bump (Frame.refl s _ _) List.mem_cons_self⟩
  | false =>
    have hu : s.usedOf f b a = none := h.resolve_left Bool.false_ne_true
    refine ⟨s.monRestarted (ixA f b a * 4 + bench) [], ?_, mget_monRestarted s _ [], nofun, Frame.refl s _ _⟩
    unfold execMonitorWindowClose
    dsimp only
    rw [if_neg (by omega), if_neg Bool.false_ne_true, hu]
    rfl

/-- Columns found outside R530 are flagged, recorded by group, and call for a calibration of the block. -/
theorem execMonitorWindowClose_flags {a bench rows cols lsb : Nat} (hn : 32768 ≤ (mget {} s.monitors (ixA f b a * 4 + bench)).conv)
    (hu : s.usedOf f b a = some (rows, cols)) (hlsb : lsb = if bench = 0 then 16 else if bench = 1 then 8 else 2) {bad : List (Nat × Int × Int)}
    (hbad : (mget {} s.monitors (ixA f b a * 4 + bench)).tested (s.arr f b a) rows cols lsb (s.rd R.CAL_MON_CFG.VAR_RATIO 0) = bad) (hne : bad ≠ []) :
    ∃ t, execMonitorWindowClose f b a bench false s = .next t ∧ t.rd R.CAL_BLK_STATE.PENDING (ixB f b) = 1 ∧
      mget {} t.monitors (ixA f b a * 4 + bench) = (mget {} s.monitors (ixA f b a * 4 + bench)).restarted (bad.map Prod.fst) := by
  unfold execMonitorWindowClose
  dsimp only
  rw [if_neg (by omega), if_neg Bool.false_ne_true, hu]
  dsimp only
  rw [← hlsb, hbad, if_neg hne]
  refine ⟨_, rfl, calRequest_pending _ _ _ _, ?_⟩
  rw [calRequest_monitors]
  refine List.foldlRecOn (motive := fun v : State => mget {} v.monitors _ = _) _ _ (mget_monRestarted s _ _) fun v hv k _ => ?_
  split
  · exact hv
  · rw [(raise_work _ _).monitors]
    exact hv

/-! ### The dwell (R533, R534) -/

theorem dropCheck_beside (s : State) (f b : Nat) : RegsBeside [.BLK_SPARE, .CAL_BLK_STATE] s (s.dropCheck f b) := ((RegsBeside.refl _ s).wr.wr).wr

theorem execDwellFit_applies (hi : s.injs = []) (hs : (mget {} s.tours (ixB f b)).step = 3) (hf : (mget {} s.tours (ixB f b)).fitted = false)
    (hn : 1024 ≤ (mget {} s.tours (ixB f b)).sampled) (ht : s.ticking = true) :
    execDwellFit f b none s = .next { s with acts := s.acts ++ [.fit f b] } := by
  unfold execDwellFit
  dsimp only
  rw [if_neg (by simp [hs, hf, hn]), injSlot_nil hi]
  exact congrArg Host.Outcome.next (if_pos ht)

theorem execDwellFit_fails {c : Nat} {e : Event} (hs : (mget {} s.tours (ixB f b)).step = 3) (hf : (mget {} s.tours (ixB f b)).fitted = false)
    (hn : 1024 ≤ (mget {} s.tours (ixB f b)).sampled)
    (he : e = { det := .dwellFit, unit := s.unitArray f b (s.rd R.BLK_SPARE.CHECK (ixB f b)), d0 := BitVec.ofNat 64 c }) (hrec : Recordable s e) :
    ∃ t, execDwellFit f b (some c) s = .next t ∧ Recorded s e t ∧ t.rd R.BLK_SPARE.CHECK_VALID (ixB f b) = 0 ∧
      t.rd R.BLK_SPARE.UNDER_VALID (ixB f b) = 0 ∧ t.rd R.CAL_BLK_STATE.TOURING (ixB f b) = 0 := by
  have k := LogsAlike.refl s
  refine ⟨(s.queued (e.record s)).dropCheck f b, ?_, k.recorded rfl ((dropCheck_beside _ _ _).rd _ _), ?_, ?_, rd_wr_same _ _ _ _ (by decide)⟩
  · rw [← raise_queued hrec k, he]
    unfold execDwellFit
    dsimp only
    rw [if_neg (by simp [hs, hf, hn]), injSlot_nil hrec.slots]
    rfl
  · exact (rd_wr_apart _ _ _ _ _ _ (by decide)).trans ((rd_wr_apart _ _ _ _ _ _ (by decide)).trans (rd_wr_same _ _ _ _ (by decide)))
  · exact (rd_wr_apart _ _ _ _ _ _ (by decide)).trans (rd_wr_same _ _ _ _ (by decide))

theorem execDwellEnd_switches {x : Tour} (hx : x = mget {} s.tours (ixB f b)) (hs : x.step = 3) (ht : s.ticking = true) :
    ∃ t, execDwellEnd f b s = .next t ∧ t.now = max s.now x.until_ ∧ (mget {} t.tours (ixB f b)).step = 4 ∧
      t.acts = s.acts ++ [.switch f b x.slot (s.rd R.BLK_SPARE.CHECK (ixB f b)) (s.rd R.BLK_SPARE.UNDER (ixB f b)) 4] ∧
      { t with now := s.now, tours := s.tours, acts := s.acts } = s := by
  subst hx
  refine ⟨_, congrArg Host.Outcome.next ((if_neg (not_not.mpr hs)).trans (if_pos ht)), rfl, ?_, rfl, rfl⟩
  exact congrArg Tour.step (mget_mset_same _ _ _ _)

end Sys2Proof.Machine
end
section
/-! The write slots and the end of a write-verify (12_weights.md R344 to R346, 19_calibration_and_monitoring.md R534). -/
namespace Sys2Proof.Machine
open Sys2Proof.Claims

variable {s t u : State} {f b a : Nat} {j : WJob}

theorem RegsBeside.setReg {rs : List RegId} {r : RegId} {i : Nat} {v : Word} (h : RegsBeside rs s t) (hr : r ∈ rs := by decide) :
    RegsBeside rs s (t.setReg r i v) :=
  fun q hq k => (reg_setReg_ne t r q i k v (fun e => hq (e ▸ hr))).trans (h q hq k)

/-! ### The grant of write slots (R344) -/

/-- What holds and is kept by the start of any job that waits holds when the slots have been granted. -/
theorem grantWrites_rounds {P : State → Prop} (h : P s) (hstart : ∀ t j, P t → j ∈ t.writes → j.started = false → P (t.startJob j)) :
    ∃ t, P t ∧ s.grantWrites = t.noteSlots := by
  refine ⟨_, loop_ind (P := P) _ _ _ h (fun t _ _ ht => ?_), rfl⟩
  split
  · dsimp only
    split
    · next j hj =>
      obtain ⟨o, ho, hoj⟩ := List.exists_of_findSome?_eq_some hj
      have hfound : ∃ p, t.writes.find? (fun j => !j.started && decide (j.prio = p) && !t.blockBusy j.face j.block) = some j := by
        simp only [List.mem_cons, List.not_mem_nil, or_false] at ho
        rcases ho with rfl | rfl | rfl <;> exact ⟨_, hoj⟩
      obtain ⟨p, hp⟩ := hfound
      have hwaits := List.find?_some hp
      simp only [Bool.and_eq_true, Bool.not_eq_true'] at hwaits
      exact hstart t j ht (List.mem_of_find?_eq_some hp) hwaits.1.1
    · exact ht
  · exact ht

/-- Where every job has started, the grant starts none. -/
theorem grantWrites_started (h : ∀ j ∈ s.writes, j.started = true) : s.grantWrites = s.noteSlots := by
  obtain ⟨t, rfl, ht⟩ := grantWrites_rounds (P := (· = s)) rfl fun t j e hj hn => absurd (h j (e ▸ hj)) (ne_true_of_eq_false hn)
  exact ht

theorem startJob_beside (s : State) (j : WJob) : RegsBeside [.BLK_ARRAY_STATE, .BLK_SPARE] s (s.startJob j) := (((RegsBeside.refl _ s).wr).wr.wr).wr

/-- Of what a tour is told by, `t` has all as `s` has it. -/
structure ToursKept (s t : State) : Prop where
  regs : RegsBeside [.BLK_ARRAY_STATE, .BLK_SPARE, .PLT_PROG_STAT] s t
  tours : t.tours = s.tours
  now : t.now = s.now
  tourAt : t.tourAt = s.tourAt

theorem queueWrite_toursKept (s : State) (j : WJob) : ToursKept s (s.queueWrite j) := by
  obtain ⟨t, ⟨hregs, htours, hnow, hat⟩, ht⟩ := grantWrites_rounds (s := { s with writes := s.writes ++ [j] }) (P := ToursKept s)
    ⟨RegsBeside.refl _ s, rfl, rfl, rfl⟩
    fun t j ⟨hregs, htours, hnow, hat⟩ _ _ => ⟨hregs.trans ((startJob_beside t j).mono (by decide)), htours, hnow, hat⟩
  rw [State.queueWrite, ht]
  exact ⟨hregs.wr.wr, htours, hnow, hat⟩

/-! ### An array that is given up -/

/-- Array i is RETIRED after `n` writes, and no job is to write it. -/
structure GivenUp (i n : Nat) (t : State) : Prop where
  jobs : ∀ k ∈ t.writes, ixA k.face k.block k.arr ≠ i
  state : t.rd R.BLK_ARRAY_STATE.STATE i = 5
  cycles : t.rd R.BLK_WEAR.CYCLES i = n

theorem GivenUp.startJob {i n : Nat} (h : GivenUp i n t) (hj : j ∈ t.writes) : GivenUp i n (t.startJob j) := by
  refine ⟨fun k hk => ?_, ?_, ((startJob_beside t j).rd _ _).trans h.cycles⟩
  · obtain ⟨o, ho, rfl⟩ := List.mem_map.mp (show k ∈ t.writes.map _ from hk)
    have := h.jobs o ho
    split <;> exact this
  · refine (rd_wr_apart _ _ _ _ _ _ (by decide)).trans ((rd_wr_apart _ _ _ _ _ _ (by decide)).trans ((rd_wr_apart _ _ _ _ _ _ (by decide)).trans ?_))
    exact (rd_wr_ix _ _ _ _ _ _ (h.jobs j hj).symm).trans h.state

theorem GivenUp.grantWrites {i n : Nat} (h : GivenUp i n s) : GivenUp i n s.grantWrites := by
  obtain ⟨t, ⟨hjobs, hstate, hcycles⟩, ht⟩ := grantWrites_rounds (P := GivenUp i n) h fun t j k hj _ => k.startJob hj
  have hbeside : RegsBeside [.PLT_PROG_STAT] t t.noteSlots := (RegsBeside.refl _ t).wr.wr
  rw [ht]
  exact ⟨hjobs, (hbeside.rd _ _).trans hstate, (hbeside.rd _ _).trans hcycles⟩

/-- A free spare is another array than one that is RETIRED. -/
theorem GivenUp.freeSpare {n d : Nat} (h : GivenUp (ixA f b a) n t) (hd : t.freeSpare f b = some d) : ixA f b d ≠ ixA f b a := by
  have hfree := List.find?_some hd
  simp only [Bool.and_eq_true, decide_eq_true_eq] at hfree
  intro e
  have hzero : t.rd R.BLK_ARRAY_STATE.STATE (ixA f b d) = 0 := hfree.1.1
  rw [e, h.state] at hzero
  cases hzero

/-- A job whose array is given up goes to another array, at once or at the boundary (R345, R99). -/
theorem GivenUp.respares {n : Nat} (h : GivenUp (ixA j.face j.block a) n t) (ht : t.ticking = true) :
    GivenUp (ixA j.face j.block a) n
      (if (t.freeSpare j.face j.block).isSome then t.respare j else t.schedule (.respare j) (fun u => u.respare j)) := by
  obtain ⟨hjobs, hstate, hcycles⟩ := h
  cases hd : t.freeSpare j.face j.block with
  | none =>
    rw [if_neg (by simp), State.schedule, if_pos ht]
    exact ⟨hjobs, hstate, hcycles⟩
  | some d =>
    rw [if_pos Option.isSome_some]
    have hspare : t.respare j = t.queueWrite { j with arr := d, src := if j.kind = 0 then j.arr else j.src, started := false, again := false } := by
      rw [State.respare, State.spareFor, hd]
    rw [hspare]
    refine GivenUp.grantWrites ⟨fun k hk => ?_, hstate, hcycles⟩
    rcases List.mem_append.mp hk with hk | hk
    · exact hjobs k hk
    · rw [List.mem_singleton.mp hk]
      exact GivenUp.freeSpare ⟨hjobs, hstate, hcycles⟩ hd

theorem buildEnd_beside (s : State) : RegsBeside [.PLT_BUILD_CTL] s s.buildEnd := by
  unfold State.buildEnd
  split
  · exact (RegsBeside.refl _ s).wr
  · exact RegsBeside.refl _ s

theorem discardEnd_beside (s : State) : RegsBeside [.PLT_WIMG_STATE] s s.discardEnd := by
  unfold State.discardEnd
  split
  · unfold State.discard State.wimgState
    split
    · exact RegsBeside.refl _ s
    · exact (RegsBeside.refl _ s).wr
  · exact RegsBeside.refl _ s

theorem buildEnd_idle (h : s.rd R.PLT_BUILD_CTL.BUSY 0 = 0) : s.buildEnd = s := by simp [State.buildEnd, State.flag, h]
theorem discardEnd_idle (h : s.discardWaits = false) : s.discardEnd = s := by simp [State.discardEnd, h]

/-! ### The end of a write-verify (R345, R346) -/

theorem cycles_fit {n : Nat} (h : n < 9999) : (n + 1) % 2 ^ R.BLK_WEAR.CYCLES.wd = n + 1 := Nat.mod_eq_of_lt (show n + 1 < 2 ^ 14 by omega)

/-- A write-verify of an array whose endurance it does not use up counts one cycle. -/
theorem wear_counts (h : s.rd R.BLK_WEAR.CYCLES (ixA f b a) < 9999) :
    s.wear f b a = s.wr R.BLK_WEAR.CYCLES (ixA f b a) (s.rd R.BLK_WEAR.CYCLES (ixA f b a) + 1) := by
  unfold State.wear
  dsimp only
  rw [Nat.min_eq_right (by omega), if_neg]
  rw [rd_wr_same _ _ _ _ (by decide), cycles_fit h]
  omega

theorem wear_cycles (h : s.rd R.BLK_WEAR.CYCLES (ixA f b a) < 9999) :
    (s.wear f b a).rd R.BLK_WEAR.CYCLES (ixA f b a) = s.rd R.BLK_WEAR.CYCLES (ixA f b a) + 1 := by
  rw [wear_counts h, rd_wr_same _ _ _ _ (by decide), cycles_fit h]

theorem wear_beside (h : s.rd R.BLK_WEAR.CYCLES (ixA f b a) < 9999) : RegsBeside [.BLK_WEAR] s (s.wear f b a) := by
  rw [wear_counts h]
  exact (RegsBeside.refl _ s).wr

/-- It changes registers alone. -/
theorem wear_same {α : Type} (p : State → α) (hp : ∀ (t : State) m, p { t with regs := m } = p t) (s : State) (f b a : Nat) :
    p (s.wear f b a) = p s := by
  unfold State.wear
  dsimp only
  split
  · exact (hp _ _).trans (hp _ _)
  · exact hp _ _

/-- The array has been written once more, and these write-verifies are left. -/
def State.writeOver (s : State) (f b a : Nat) (left : List WJob) : State := { s.wear f b a with writes := left }

theorem writeOver_same {α : Type} (p : State → α) (hp : ∀ (t : State) m w, p { t with regs := m, writes := w } = p t) (s : State) (f b a : Nat)
    (left : List WJob) : p (s.writeOver f b a left) = p s :=
  (hp (s.wear f b a) (s.wear f b a).regs left).trans (wear_same p (fun t m => hp t m t.writes) s f b a)

theorem writeOver_beside (left : List WJob) (h : s.rd R.BLK_WEAR.CYCLES (ixA f b a) < 9999) : RegsBeside [.BLK_WEAR] s (s.writeOver f b a left) :=
  wear_beside h

theorem writeOver_cycles (left : List WJob) (h : s.rd R.BLK_WEAR.CYCLES (ixA f b a) < 9999) :
    (s.writeOver f b a left).rd R.BLK_WEAR.CYCLES (ixA f b a) = s.rd R.BLK_WEAR.CYCLES (ixA f b a) + 1 := wear_cycles h

theorem writeOver_ticking (left : List WJob) (h : s.rd R.BLK_WEAR.CYCLES (ixA f b a) < 9999) : (s.writeOver f b a left).ticking = s.ticking :=
  ticking_congr ((writeOver_beside left h).rd _ _) (writeOver_same State.hand (fun _ _ _ => rfl) s f b a left)

theorem same_self (j : WJob) : j.same j = true := decide_eq_true ⟨rfl, rfl, rfl⟩

/-- The end of the only write-verify: how it goes on, and what follows for others. -/
theorem execWriteVerifyDone_only (h : OnlyWrite s f b a j) (hk : j.kind ≠ 4) (good : Bool) :
    execWriteVerifyDone f b a good [] s = .next (State.discardEnd (State.buildEnd (State.grantWrites
      (if good = true then (s.writeOver f b a []).jobGood j
        else if j.again = true then (s.writeOver f b a []).jobBad j else s.writeOver f b a [{ j with again := true }])))) := by
  obtain ⟨honly, hstarted, hplace, _, hcycles, hworn⟩ := h
  have hfind : s.writes.find? (fun j => j.started && decide (j.face = f ∧ j.block = b ∧ j.arr = a)) = some j := by
    rw [honly]
    exact List.find?_cons_of_pos (by simp [hstarted, hplace])
  have hwrites : (s.wear f b a).writes = [j] := (wear_same State.writes (fun _ _ => rfl) s f b a).trans honly
  have hsound : (s.wear f b a).worn f b a = false := by
    rw [wear_counts hcycles]
    exact decide_eq_false (by rw [rd_wr_apart _ _ _ _ _ _ (by decide), hworn]; decide)
  have hover : ({ s.wear f b a with writes := (s.wear f b a).writes.filter (fun (k : WJob) => !k.same j) } : State) = s.writeOver f b a [] := by
    rw [hwrites, List.filter_cons_of_neg (by simp [same_self])]
    rfl
  unfold execWriteVerifyDone
  rw [hfind]
  dsimp only [State.repairs, List.foldl_nil]
  rw [hover, if_neg (fun k => hk k.1), hsound, hwrites]
  cases good <;> cases hagain : j.again <;> simp [same_self, State.writeOver]

theorem storeJob_beside (s : State) (j : WJob) : RegsBeside [.BLK_MASS_A, .BLK_MASS_B] s (s.storeJob j) := ((RegsBeside.refl _ s).setReg).setReg

/-- A spare of a retirement, a re-dress or a restore holds its record, and its slot's switch to it waits for the boundary. -/
def State.switchDue (s : State) (j : WJob) : State :=
  { ((s.storeJob j).clearMon j.face j.block j.arr).noteFlags j.face j.block with
    acts := s.acts ++ [.switch j.face j.block j.slot j.arr j.src j.kind] }

theorem switchDue_beside (s : State) (j : WJob) : RegsBeside [.BLK_MASS_A, .BLK_MASS_B, .CAL_BLK_STATE] s (s.switchDue j) :=
  RegsBeside.wr (t := (s.storeJob j).clearMon j.face j.block j.arr) ((storeJob_beside s j).mono (by decide))

theorem switchDue_arr (s : State) (j : WJob) : (s.switchDue j).arr j.face j.block j.arr =
    { (s.arr j.face j.block j.arr).lay j.cells with sums := j.sums, expected := j.digest, current := j.digest } := mget_mset_same _ _ _ _

theorem switchDue_acts (s : State) (j : WJob) : (s.switchDue j).acts = s.acts ++ [.switch j.face j.block j.slot j.arr j.src j.kind] := rfl
theorem switchDue_discardWaits (s : State) (j : WJob) : (s.switchDue j).discardWaits = s.discardWaits := rfl

theorem jobGood_switchDue (h0 : j.kind ≠ 0) (h4 : j.kind ≠ 4) (ht : s.ticking = true) : s.jobGood j = s.switchDue j := by
  have hticking : (((s.storeJob j).clearMon j.face j.block j.arr).noteFlags j.face j.block).ticking = true :=
    (ticking_congr ((switchDue_beside s j).rd _ _) rfl).trans ht
  unfold State.jobGood
  dsimp only
  rw [if_neg h0, if_neg h4, State.schedule, if_pos hticking]
  rfl

theorem noteSlots_beside (s : State) : RegsBeside [.PLT_PROG_STAT] s s.noteSlots := (RegsBeside.refl _ s).wr.wr

theorem noteSlots_acts (s : State) : s.noteSlots.acts = s.acts := rfl
theorem noteSlots_arr (s : State) (f b a : Nat) : s.noteSlots.arr f b a = s.arr f b a := rfl

theorem noteSlots_slots (s : State) : s.noteSlots.rd R.PLT_PROG_STAT.SLOTS 0 = s.slotsHeld % 2 ^ R.PLT_PROG_STAT.SLOTS.wd :=
  (rd_wr_apart _ _ _ _ _ _ (by decide)).trans (rd_wr_same _ _ _ _ (by decide))

/-- What a write-verify's end leaves of the write slots, where no host waits for it and no job waits for a slot. -/
theorem onlyWrite_ends (h : OnlyWrite s f b a j) (hu : u.discardWaits = s.discardWaits) (hr : u.rd R.PLT_BUILD_CTL.BUSY 0 = s.rd R.PLT_BUILD_CTL.BUSY 0)
    (hw : ∀ k ∈ u.writes, k.started = true) : u.grantWrites.buildEnd.discardEnd = u.noteSlots := by
  rw [grantWrites_started hw, buildEnd_idle (((noteSlots_beside u).rd _ _).trans (hr.trans h.idle.1))]
  exact discardEnd_idle (hu.trans h.idle.2)

/-- The array reads back with its record's digest: it holds the record, and the slot's switch waits for the boundary. -/
theorem execWriteVerifyDone_good (h : OnlyWrite s f b a j) (h0 : j.kind ≠ 0) (h4 : j.kind ≠ 4) (ht : s.ticking = true) :
    ∃ t, execWriteVerifyDone f b a true [] s = .next t ∧ t.writes = [] ∧
      t.arr f b a = { (s.arr f b a).lay j.cells with sums := j.sums, expected := j.digest, current := j.digest } ∧
      t.acts = s.acts ++ [.switch f b j.slot a j.src j.kind] ∧ t.aState f b a = s.aState f b a ∧
      t.rd R.BLK_WEAR.CYCLES (ixA f b a) = s.rd R.BLK_WEAR.CYCLES (ixA f b a) + 1 ∧ t.rd R.PLT_PROG_STAT.SLOTS 0 = 0 := by
  obtain ⟨rfl, rfl, rfl⟩ := h.place
  have hfew := h.sound.1
  have hover := writeOver_beside [] hfew
  have hdue := switchDue_beside (s.writeOver j.face j.block j.arr []) j
  have hnoted := noteSlots_beside ((s.writeOver j.face j.block j.arr []).switchDue j)
  have hheld : ((s.writeOver j.face j.block j.arr []).switchDue j).slotsHeld = 0 := rfl
  have hends := onlyWrite_ends (u := (s.writeOver j.face j.block j.arr []).switchDue j) h
    ((switchDue_discardWaits _ _).trans (writeOver_same State.discardWaits (fun _ _ _ => rfl) _ _ _ _ []))
    ((hdue.rd _ _).trans (hover.rd _ _)) (List.forall_mem_nil _)
  have hex := execWriteVerifyDone_only h h4 true
  rw [if_pos rfl, jobGood_switchDue h0 h4 ((writeOver_ticking _ hfew).trans ht), hends] at hex
  refine ⟨_, hex, rfl, ?_, ?_, ?_, ?_, ?_⟩
  · rw [noteSlots_arr, switchDue_arr, writeOver_same (State.arr · j.face j.block j.arr) (fun _ _ _ => rfl)]
  · rw [noteSlots_acts, switchDue_acts, writeOver_same State.acts (fun _ _ _ => rfl)]
  · exact (hnoted.rd _ _).trans ((hdue.rd _ _).trans (hover.rd _ _))
  · exact (hnoted.rd _ _).trans ((hdue.rd _ _).trans (writeOver_cycles _ hfew))
  · rw [noteSlots_slots, hheld]
    rfl

/-- The digest differs for the first time: the write-verify runs once more. -/
theorem execWriteVerifyDone_again (h : OnlyWrite s f b a j) (h4 : j.kind ≠ 4) (ha : j.again = false) :
    ∃ t, execWriteVerifyDone f b a false [] s = .next t ∧ t.writes = [{ j with again := true }] ∧ t.arrays = s.arrays ∧ t.acts = s.acts ∧
      t.rd R.BLK_WEAR.CYCLES (ixA f b a) = s.rd R.BLK_WEAR.CYCLES (ixA f b a) + 1 ∧ t.rd R.PLT_PROG_STAT.SLOTS 0 = 1 := by
  have hfew := h.sound.1
  have hstarted : ∀ k ∈ [{ j with again := true }], k.started = true := List.forall_mem_singleton.mpr h.started
  have hex := execWriteVerifyDone_only h h4 false
  have hends := onlyWrite_ends (u := s.writeOver f b a [{ j with again := true }]) h (writeOver_same State.discardWaits (fun _ _ _ => rfl) _ _ _ _ _)
    ((writeOver_beside _ hfew).rd _ _) hstarted
  have hheld : (s.writeOver f b a [{ j with again := true }]).slotsHeld = 1 := by
    rw [State.slotsHeld, State.writeOver, List.filter_eq_self.mpr hstarted]
    rfl
  rw [if_neg Bool.false_ne_true, if_neg (ne_true_of_eq_false ha), hends] at hex
  refine ⟨_, hex, rfl, writeOver_same State.arrays (fun _ _ _ => rfl) _ _ _ _ [{ j with again := true }],
    writeOver_same State.acts (fun _ _ _ => rfl) _ _ _ _ [{ j with again := true }], ((noteSlots_beside _).rd _ _).trans (writeOver_cycles _ hfew), ?_⟩
  rw [noteSlots_slots, hheld]
  rfl

/-- The digest differs again: the array is given up. -/
theorem execWriteVerifyDone_retires (h : OnlyWrite s f b a j) (h4 : j.kind ≠ 4) (ht : s.ticking = true) (ha : j.again = true) :
    ∃ t, execWriteVerifyDone f b a false [] s = .next t ∧ t.aState f b a = 5 ∧
      t.rd R.BLK_WEAR.CYCLES (ixA f b a) = s.rd R.BLK_WEAR.CYCLES (ixA f b a) + 1 := by
  obtain ⟨rfl, rfl, rfl⟩ := h.place
  have hfew := h.sound.1
  have hstate : RegsBeside [.BLK_ARRAY_STATE, .BLK_SPARE] (s.writeOver j.face j.block j.arr [])
      ((s.writeOver j.face j.block j.arr []).setAState j.face j.block j.arr 5) := ((RegsBeside.refl _ _).wr).wr
  have hticking : ((s.writeOver j.face j.block j.arr []).setAState j.face j.block j.arr 5).ticking = true :=
    (ticking_congr (hstate.rd _ _) rfl).trans ((writeOver_ticking _ hfew).trans ht)
  have hex := execWriteVerifyDone_only h h4 false
  rw [if_neg Bool.false_ne_true, if_pos ha, State.jobBad, if_neg h4] at hex
  generalize ({ det := .retired, unit := (s.writeOver j.face j.block j.arr []).unitArray j.face j.block j.arr } : Event) = e at hex
  have hraise := raise_work ((s.writeOver j.face j.block j.arr []).setAState j.face j.block j.arr 5) e
  have hgiven : GivenUp (ixA j.face j.block j.arr) (s.rd R.BLK_WEAR.CYCLES (ixA j.face j.block j.arr) + 1)
      (((s.writeOver j.face j.block j.arr []).setAState j.face j.block j.arr 5).raise e) := by
    refine ⟨?_, ?_, (raise_rd _ _ _ _).trans ((hstate.rd _ _).trans (wear_cycles hfew))⟩
    · rw [hraise.writes]
      exact nofun
    · exact (raise_rd _ _ _ _).trans ((rd_wr_apart _ _ _ _ _ _ (by decide)).trans (rd_wr_same _ _ _ _ (by decide)))
  obtain ⟨_, hfive, hcycles⟩ := (hgiven.respares ((ticking_congr (raise_rd _ _ _ _) hraise.hand).trans hticking)).grantWrites
  have hlast (v : State) : RegsBeside [.PLT_BUILD_CTL, .PLT_WIMG_STATE] v v.buildEnd.discardEnd :=
    ((buildEnd_beside v).mono (by decide)).trans ((discardEnd_beside _).mono (by decide))
  exact ⟨_, hex, ((hlast _).rd _ _).trans hfive, ((hlast _).rd _ _).trans hcycles⟩

end Sys2Proof.Machine
end
section
/-! The start of a tour (19_calibration_and_monitoring.md R534) and the evaluation of the pins (04_precision_ladder.md R129, R130): loops over blocks and
layers of which one alone is acted on. -/
namespace Sys2Proof.Machine
open Sys2Proof.Claims

variable {s : State} {f b l : Nat}

/-! ### Loops that act once -/

/-- A loop whose rounds below the bound change nothing. -/
theorem loop_idle {α : Type} {n : Nat} {s : α} {g : α → Nat → α} (h : ∀ i < n, g s i = s) : loop n s g = s :=
  loop_ind (P := (· = s)) n s g rfl fun t i hi e => by rw [e, h i hi]

/-- A loop that takes s to t in round i, where no other round changes s or t. -/
theorem loop_once {α : Type} {n i : Nat} {s t : α} {g : α → Nat → α} (hi : i < n) (hst : g s i = t) (hs : ∀ j < n, j ≠ i → g s j = s)
    (ht : ∀ j < n, j ≠ i → g t j = t) : loop n s g = t := by
  have key (k : Nat) (hk : k ≤ n) : loop k s g = if i < k then t else s := by
    induction k with
    | zero => rfl
    | succ k ih =>
      rw [loop_succ, ih (by omega)]
      rcases Nat.lt_trichotomy i k with h | h | h
      · rw [if_pos h, if_pos (by omega), ht k (by omega) (by omega)]
      · rw [if_neg (by omega), if_pos (by omega), ← h, hst]
      · rw [if_neg (by omega), if_neg (by omega), hs k (by omega) (by omega)]
  rw [key n (le_refl n), if_pos hi]

/-! ### The start of a tour (R534) -/

/-- The time of a tour's start has come. -/
def State.tourDue (s : State) : State :=
  { s.advance (s.tourAt + s.rd R.CAL_DUP_CFG.PERIOD 0 * 3600000000000) with
    tourAt := max s.now (s.tourAt + s.rd R.CAL_DUP_CFG.PERIOD 0 * 3600000000000) }

/-- The block is on tour, at step 1 with `slot`. -/
def State.tourBegun (s : State) (f b slot : Nat) : State :=
  (({ s with tours := mset {} s.tours (ixB f b) { step := 1, slot := slot } } : State).wr R.CAL_BLK_STATE.TOURING (ixB f b) 1).wr
    R.CAL_BLK_STATE.TOUR_SLOT (ixB f b) slot

/-- A tour that can start with a slot and a sound check array asks for a write of the check array. -/
theorem tourNext_begins {slot a : Nat} (h : TourAt s f b slot a) : ∃ j, s.tourDue.tourNext f b 0 false = (s.tourDue.tourBegun f b slot).queueWrite j := by
  have hnext : (List.range 64).find? (fun sl => decide (0 ≤ sl) && s.tourDue.slotLive f b sl && (s.tourDue.slotPhys f b sl).isSome) = some slot := h.next
  have hvalid : s.tourDue.rd R.BLK_SPARE.CHECK_VALID (ixB f b) = 1 := h.check.1
  have hworn : s.tourDue.worn f b (s.tourDue.rd R.BLK_SPARE.CHECK (ixB f b)) = false := h.check.2
  have hsound : s.tourDue.soundCheck f b = s.tourDue := by
    unfold State.soundCheck
    dsimp only
    rw [if_neg (by omega), if_neg (ne_true_of_eq_false hworn)]
  have harray : s.tourDue.slotPhys f b slot = some a := h.array
  unfold State.tourNext
  dsimp only
  rw [hnext]
  dsimp only
  rw [hsound, if_neg (by omega), harray]
  exact ⟨_, rfl⟩

theorem execTourStart_begins {slot a : Nat} (hen : s.rd R.CAL_DUP_CFG.TOUR_EN 0 ≠ 0) (h : TourAt s f b slot a) : ∃ t, execTourStart s = .next t ∧
    t.now = max s.now (s.tourAt + s.rd R.CAL_DUP_CFG.PERIOD 0 * 3600000000000) ∧ t.tourAt = t.now ∧
    t.rd R.CAL_BLK_STATE.TOURING (ixB f b) = 1 ∧ t.rd R.CAL_BLK_STATE.TOUR_SLOT (ixB f b) = slot ∧
    mget {} t.tours (ixB f b) = { step := 1, slot := slot } := by
  obtain ⟨j, hj⟩ := tourNext_begins h
  obtain ⟨hregs, htours, hnow, hat⟩ := queueWrite_toursKept (s.tourDue.tourBegun f b slot) j
  set t := (s.tourDue.tourBegun f b slot).queueWrite j
  have hslot : slot < 64 := List.mem_range.mp (List.mem_of_find?_eq_some h.next)
  have hon : t.rd R.CAL_BLK_STATE.TOURING (ixB f b) = 1 :=
    (hregs.rd _ _).trans ((rd_wr_apart _ _ _ _ _ _ (by decide)).trans (rd_wr_same _ _ _ _ (by decide)))
  have hall : ∀ g c, g < s.nFaces → c < 64 → t.rd R.CAL_BLK_STATE.TOURING (ixB g c) = 1 := by
    intro g c hg hc
    by_cases e : ixB g c = ixB f b
    · rw [e, hon]
    · exact (hregs.rd _ _).trans ((rd_wr_apart _ _ _ _ _ _ (by decide)).trans ((rd_wr_ix _ _ _ _ _ _ e).trans (h.others g c hg hc e)))
  have hother : ∀ g c, g < s.nFaces → c < 64 → g ≠ f ∨ c ≠ b → s.tourDue.rd R.CAL_BLK_STATE.TOURING (ixB g c) = 1 := by
    intro g c hg hc hne
    refine h.others g c hg hc fun e => ?_
    have hb := h.place.2
    unfold ixB at e
    omega
  have hface : s.tourDue.rd R.CAL_BLK_STATE.TOURING (ixB f b) ≠ 1 := by
    have : s.tourDue.rd R.CAL_BLK_STATE.TOURING (ixB f b) = 0 := h.idle
    omega
  refine ⟨t, ?_, hnow, hat.trans hnow.symm, hon, ?_, ?_⟩
  · refine congrArg Host.Outcome.next ((if_neg hen).trans ?_)
    refine loop_once (s := s.tourDue) h.place.1 ?_ (fun g hg hne => loop_idle fun c hc => if_pos (hother g c hg hc (.inl hne)))
      (fun g hg _ => loop_idle fun c hc => if_pos (hall g c hg hc))
    exact loop_once h.place.2 ((if_neg hface).trans hj) (fun c hc hne => if_pos (hother f c h.place.1 hc (.inr hne)))
      (fun c hc _ => if_pos (hall f c h.place.1 hc))
  · exact (hregs.rd _ _).trans ((rd_wr_same _ _ _ _ (by decide)).trans (Nat.mod_eq_of_lt hslot))
  · rw [htours]
    exact mget_mset_same _ _ _ _

/-! ### The evaluation of the pins (R129, R130) -/

/-- A window of the pins is over on the face. -/
def State.windowOver (s : State) (f : Nat) : State := s.modFace f (fun x => { x with pinHands := 0, pinCounted := s.hand.running })

/-- A layer is judged: its counts start over. -/
def State.layerJudged (s : State) (f l : Nat) : State :=
  ((s.windowOver f).wr R.ARF_LAYER_STAT.PASSES (ix 256 f l) 0).wr R.ARF_LAYER_STAT.ESCALATIONS (ix 256 f l) 0

/-- ARF_PIN_STAT shows that the layer is pinned one bench higher than its pin in effect; the pin waits for the boundary. -/
def State.pinShown (s : State) (f l : Nat) : State :=
  ((((s.layerJudged f l).wr R.ARF_PIN_STAT.LAST_LAYER f l).wr R.ARF_PIN_STAT.LAST_BENCH f (s.pinOf f l + 1)).wr R.ARF_PIN_STAT.VALID f 1).bump
    R.ARF_PIN_STAT.PINS f
def State.layerPinned (s : State) (f l : Nat) : State :=
  (s.pinShown f l).modFace f (fun x => { x with autoPins := x.autoPins ++ [(l, s.pinOf f l + 1)] })

/-- The layer's pin is capped. -/
def State.layerCapped (s : State) (f l : Nat) : State :=
  (((s.layerJudged f l).wr R.ARF_PIN_STAT.LAST_LAYER f l).wr R.ARF_PIN_STAT.CAPPED f 1).bump R.ARF_PIN_STAT.CAPS f

/-- What the judgement of a layer leaves of the registers besides its counts. -/
theorem layerJudged_beside (s : State) (f l : Nat) : RegsBeside [.ARF_LAYER_STAT] s (s.layerJudged f l) :=
  RegsBeside.wr (RegsBeside.wr (t := s.windowOver f) (RegsBeside.refl _ s))

theorem pinShown_beside (s : State) (f l : Nat) : RegsBeside [.ARF_PIN_STAT] (s.layerJudged f l) (s.pinShown f l) :=
  ((((RegsBeside.refl _ (s.layerJudged f l)).wr).wr).wr).wr
theorem layerCapped_beside (s : State) (f l : Nat) : RegsBeside [.ARF_PIN_STAT] (s.layerJudged f l) (s.layerCapped f l) :=
  (((RegsBeside.refl _ (s.layerJudged f l)).wr).wr).wr

theorem layerPinned_reg (s : State) (f l : Nat) (r : RegId) (i : Nat) : (s.layerPinned f l).reg r i = (s.pinShown f l).reg r i :=
  reg_modFace _ _ _ _ _
theorem layerPinned_rd (s : State) (f l : Nat) (g : Fld) (i : Nat) : (s.layerPinned f l).rd g i = (s.pinShown f l).rd g i := rd_modFace _ _ _ _ _
theorem layerPinned_beside (s : State) (f l : Nat) : RegsBeside [.ARF_PIN_STAT] (s.layerJudged f l) (s.layerPinned f l) :=
  fun r hr i => (layerPinned_reg s f l r i).trans (pinShown_beside s f l r hr i)

theorem layerJudged_passes (s : State) (f l : Nat) : (s.layerJudged f l).rd R.ARF_LAYER_STAT.PASSES (ix 256 f l) = 0 :=
  (rd_wr_apart _ _ _ _ _ _ (by decide)).trans (rd_wr_same _ _ _ _ (by decide))

theorem layerJudged_others {k : Nat} (h : k ≠ l) :
    (s.layerJudged f l).rd R.ARF_LAYER_STAT.PASSES (ix 256 f k) = s.rd R.ARF_LAYER_STAT.PASSES (ix 256 f k) :=
  (rd_wr_apart _ _ _ _ _ _ (by decide)).trans (rd_wr_ix _ _ _ _ _ _ (by unfold ix; omega))

/-- What ARF_PIN_STAT shows of a layer that is pinned. -/
structure PinShown (s : State) (f l : Nat) (t : State) : Prop where
  pins : t.rd R.ARF_PIN_STAT.PINS f = min (s.rd R.ARF_PIN_STAT.PINS f + 1) (2 ^ R.ARF_PIN_STAT.PINS.wd - 1)
  layer : t.rd R.ARF_PIN_STAT.LAST_LAYER f = l % 2 ^ R.ARF_PIN_STAT.LAST_LAYER.wd
  bench : t.rd R.ARF_PIN_STAT.LAST_BENCH f = (s.pinOf f l + 1) % 2 ^ R.ARF_PIN_STAT.LAST_BENCH.wd
  valid : t.rd R.ARF_PIN_STAT.VALID f = 1

theorem pinShown_pinShown (s : State) (f l : Nat) : PinShown s f l (s.pinShown f l) := by
  refine ⟨?_, ?_, ?_, ?_⟩
  · refine (rd_bump_same _ _ _ (by decide)).trans (congrArg (fun n => min (n + 1) _) ?_)
    refine (rd_wr_apart _ _ _ _ _ _ (by decide)).trans ((rd_wr_apart _ _ _ _ _ _ (by decide)).trans ((rd_wr_apart _ _ _ _ _ _ (by decide)).trans ?_))
    exact (layerJudged_beside s f l).rd _ _
  · refine (rd_bump_apart _ _ _ _ _ (by decide)).trans ((rd_wr_apart _ _ _ _ _ _ (by decide)).trans ?_)
    exact (rd_wr_apart _ _ _ _ _ _ (by decide)).trans (rd_wr_same _ _ _ _ (by decide))
  · refine (rd_bump_apart _ _ _ _ _ (by decide)).trans ((rd_wr_apart _ _ _ _ _ _ (by decide)).trans ?_)
    exact rd_wr_same _ _ _ _ (by decide)
  · exact (rd_bump_apart _ _ _ _ _ (by decide)).trans (rd_wr_same _ _ _ _ (by decide))

theorem layerPinned_queued_rd (s : State) (f l : Nat) (r : FRec) (g : Fld) (i : Nat) (h : g.reg ≠ .FLT_STATUS := by decide) :
    ((s.layerPinned f l).queued r).rd g i = (s.pinShown f l).rd g i := (rd_queued _ _ _ _ h).trans (layerPinned_rd s f l g i)

theorem layerPinned_face (s : State) (f l : Nat) : (s.layerPinned f l).face f =
    { s.face f with pinHands := 0, pinCounted := s.hand.running, autoPins := (s.face f).autoPins ++ [(l, s.pinOf f l + 1)] } := by
  simp only [State.layerPinned, State.pinShown, State.layerJudged, State.windowOver, face_modFace_same, face_bump, face_wr]

theorem layerCapped_face (s : State) (f l : Nat) : (s.layerCapped f l).face f = { s.face f with pinHands := 0, pinCounted := s.hand.running } := by
  simp only [State.layerCapped, State.layerJudged, State.windowOver, face_modFace_same, face_bump, face_wr]

theorem layerJudged_logsAlike (s : State) (f l : Nat) : LogsAlike s (s.layerJudged f l) := (LogsAlike.refl s).modFace.wr.wr
theorem pinShown_logsAlike (s : State) (f l : Nat) : LogsAlike s (s.pinShown f l) := (layerJudged_logsAlike s f l).wr.wr.wr.bump
theorem layerPinned_logsAlike (s : State) (f l : Nat) : LogsAlike s (s.layerPinned f l) := (pinShown_logsAlike s f l).modFace
theorem layerCapped_logsAlike (s : State) (f l : Nat) : LogsAlike s (s.layerCapped f l) := (layerJudged_logsAlike s f l).wr.wr.bump

/-- What ARF_LAYER_STAT shows of the layer that has been judged, and of the layers that ran no pass. -/
structure LayerShown (s : State) (f l : Nat) (t : State) : Prop where
  passes : t.rd R.ARF_LAYER_STAT.PASSES (ix 256 f l) = 0
  escalations : t.rd R.ARF_LAYER_STAT.ESCALATIONS (ix 256 f l) = 0
  others : ∀ k, k ≠ l → t.rd R.ARF_LAYER_STAT.PASSES (ix 256 f k) = s.rd R.ARF_LAYER_STAT.PASSES (ix 256 f k)

theorem layerShown_beside {t : State} (h : RegsBeside [.ARF_PIN_STAT, .FLT_STATUS] (s.layerJudged f l) t) : LayerShown s f l t :=
  ⟨(h.rd _ _).trans (layerJudged_passes s f l), (h.rd _ _).trans (rd_wr_same _ _ _ _ (by decide)), fun _ hk => (h.rd _ _).trans (layerJudged_others hk)⟩

/-- The evaluation, where one layer alone has run passes: `t` is what it makes of that layer. -/
theorem execPinEvaluation_layer {t : State}
    (hw : (s.face f).pinHands + (if s.hand.running && !(s.face f).pinCounted then 1 else 0) ≥ s.rd R.ARF_PIN_CTL.WINDOW f) (h : Escalates s f l)
    (hz : ∀ k, k < 256 → k ≠ l → s.rd R.ARF_LAYER_STAT.PASSES (ix 256 f k) = 0) (hs : LayerShown s f l t)
    (ht : t = if s.pinOf f l < s.rd R.ARF_PIN_CTL.PIN_MAX f then (s.layerPinned f l).raise (pinEvent s f l (s.pinOf f l + 1) false)
      else (s.layerCapped f l).raise (pinEvent s f l (s.pinOf f l) true)) : execPinEvaluation f s = .next t := by
  obtain ⟨hl, ⟨henough, hsome⟩, hrate, hmany⟩ := h
  refine congrArg Host.Outcome.next ((if_neg (by omega)).trans ?_)
  refine loop_once (s := s.windowOver f) hl ?_ (fun k hk hne => if_pos (.inr (hz k hk hne)))
    (fun k hk hne => if_pos (.inr ((hs.others k hne).trans (hz k hk hne))))
  refine (if_neg (not_or.mpr ⟨Nat.not_lt.mpr henough, hsome⟩)).trans ((if_neg (not_or.mpr ⟨hrate, Nat.not_le.mpr hmany⟩)).trans ?_)
  rw [ht]
  rfl

theorem execPinEvaluation_pins
    (hw : (s.face f).pinHands + (if s.hand.running && !(s.face f).pinCounted then 1 else 0) ≥ s.rd R.ARF_PIN_CTL.WINDOW f) (h : Escalates s f l)
    (hz : ∀ k, k < 256 → k ≠ l → s.rd R.ARF_LAYER_STAT.PASSES (ix 256 f k) = 0) (hp : s.pinOf f l < s.rd R.ARF_PIN_CTL.PIN_MAX f)
    (hrec : Recordable s (pinEvent s f l (s.pinOf f l + 1) false)) :
    ∃ t, execPinEvaluation f s = .next t ∧ Judged s f l t ∧ (t.face f).autoPins = (s.face f).autoPins ++ [(l, s.pinOf f l + 1)] ∧
      t.rd R.ARF_PIN_STAT.PINS f = min (s.rd R.ARF_PIN_STAT.PINS f + 1) (2 ^ R.ARF_PIN_STAT.PINS.wd - 1) ∧
      t.rd R.ARF_PIN_STAT.LAST_LAYER f = l % 2 ^ R.ARF_PIN_STAT.LAST_LAYER.wd ∧
      t.rd R.ARF_PIN_STAT.LAST_BENCH f = (s.pinOf f l + 1) % 2 ^ R.ARF_PIN_STAT.LAST_BENCH.wd ∧ t.rd R.ARF_PIN_STAT.VALID f = 1 ∧
      Recorded s (pinEvent s f l (s.pinOf f l + 1) false) t := by
  obtain ⟨hpins, hlayer, hbench, hvalid⟩ := pinShown_pinShown s f l
  have k := layerPinned_logsAlike s f l
  set r := (pinEvent s f l (s.pinOf f l + 1) false).record s
  have hshown : LayerShown s f l ((s.layerPinned f l).queued r) :=
    layerShown_beside (regsBeside_queued ((layerPinned_beside s f l).mono (by decide)))
  refine ⟨(s.layerPinned f l).queued r, execPinEvaluation_layer hw h hz hshown ?_, ⟨?_, hshown.passes, hshown.escalations⟩, ?_,
    (layerPinned_queued_rd _ _ _ _ _ _).trans hpins, (layerPinned_queued_rd _ _ _ _ _ _).trans hlayer, (layerPinned_queued_rd _ _ _ _ _ _).trans hbench,
    (layerPinned_queued_rd _ _ _ _ _ _).trans hvalid, k.recorded rfl rfl⟩
  · rw [if_pos hp, raise_queued hrec k]
  · rw [face_queued, layerPinned_face]
    exact ⟨rfl, rfl⟩
  · rw [face_queued, layerPinned_face]

theorem execPinEvaluation_caps
    (hw : (s.face f).pinHands + (if s.hand.running && !(s.face f).pinCounted then 1 else 0) ≥ s.rd R.ARF_PIN_CTL.WINDOW f) (h : Escalates s f l)
    (hz : ∀ k, k < 256 → k ≠ l → s.rd R.ARF_LAYER_STAT.PASSES (ix 256 f k) = 0) (hp : s.rd R.ARF_PIN_CTL.PIN_MAX f ≤ s.pinOf f l)
    (hrec : Recordable s (pinEvent s f l (s.pinOf f l) true)) :
    ∃ t, execPinEvaluation f s = .next t ∧ Judged s f l t ∧ (t.face f).autoPins = (s.face f).autoPins ∧
      t.rd R.ARF_PIN_STAT.CAPPED f = 1 ∧ t.rd R.ARF_PIN_STAT.LAST_LAYER f = l % 2 ^ R.ARF_PIN_STAT.LAST_LAYER.wd ∧
      t.rd R.ARF_PIN_STAT.CAPS f = min (s.rd R.ARF_PIN_STAT.CAPS f + 1) (2 ^ R.ARF_PIN_STAT.CAPS.wd - 1) ∧
      Recorded s (pinEvent s f l (s.pinOf f l) true) t := by
  have k := layerCapped_logsAlike s f l
  set r := (pinEvent s f l (s.pinOf f l) true).record s
  have hshown : LayerShown s f l ((s.layerCapped f l).queued r) :=
    layerShown_beside (regsBeside_queued ((layerCapped_beside s f l).mono (by decide)))
  refine ⟨(s.layerCapped f l).queued r, execPinEvaluation_layer hw h hz hshown ?_, ⟨?_, hshown.passes, hshown.escalations⟩, ?_, ?_, ?_, ?_,
    k.recorded rfl rfl⟩
  · rw [if_neg (by omega), raise_queued hrec k]
  · rw [face_queued, layerCapped_face]
    exact ⟨rfl, rfl⟩
  · rw [face_queued, layerCapped_face]
  · exact (rd_queued _ _ _ _).trans ((rd_bump_apart _ _ _ _ _ (by decide)).trans (rd_wr_same _ _ _ _ (by decide)))
  · refine (rd_queued _ _ _ _).trans ((rd_bump_apart _ _ _ _ _ (by decide)).trans ((rd_wr_apart _ _ _ _ _ _ (by decide)).trans ?_))
    exact rd_wr_same _ _ _ _ (by decide)
  · refine (rd_queued _ _ _ _).trans ((rd_bump_same _ _ _ (by decide)).trans (congrArg (fun n => min (n + 1) _) ?_))
    exact (rd_wr_apart _ _ _ _ _ _ (by decide)).trans ((rd_wr_apart _ _ _ _ _ _ (by decide)).trans ((layerJudged_beside s f l).rd _ _))

end Sys2Proof.Machine
end
section
open Sys2Proof Sys2Proof.Machine Sys2Proof.Claims

/-- Settles O52: each clause is the lemma of its event.  Choices of the model: a block that is IDLE releases the fitter (log entry 67), the fit of a block's
converters is computed, and a level's trim is the negative of its error (log entry 77). -/
theorem calibrationResults : Obligations.CalibrationResults := by
  unfold Obligations.CalibrationResults
  intro s f b
  refine ⟨fun hw l h hz => ⟨execPinEvaluation_pins hw h hz, execPinEvaluation_caps hw h hz⟩,
    fun a j h h1 h3 ht => ⟨execWriteVerifyDone_good h (by omega) (by omega) ht, execWriteVerifyDone_again h (by omega),
      execWriteVerifyDone_retires h (by omega) ht⟩,
    fun port => ⟨fun hf hb h => execCalReq_block port hf hb h, fun hp hpres hst => execCalReq_lanes f b hp hpres hst⟩,
    ⟨fun at_ hp h => execCalAge_block hp h, fun port hp hpres hst => execCalAge_lanes f b hp hpres hst⟩,
    fun at_ hr h => execCalRetry_requests hr h, execGatherClose_fits, fun since hg hn => execGatherTimeout_idles hg hn,
    fun tc hi hf ht hc => ⟨fun hl => ?_, fun levels e hlevels hne he hrec => ?_⟩, fun tc c d e hi hf hc hl he hrec => ?_,
    fun port lane mv _ _ hi hp hm => execCalFitDone_lane f b lane hi hp hm, fun a bench late hn h => execMonitorWindowClose_untested hn h,
    fun a bench m rows cols lsb hm hn hu hlsb hne => ?_, fun slot a hen h => execTourStart_begins hen h,
    fun hi hs hf hn ht => ⟨⟨_, execDwellFit_applies hi hs hf hn ht, rfl, rfl⟩, fun c e he hrec => execDwellFit_fails hs hf hn he hrec⟩,
    fun hs ht => execDwellEnd_switches rfl hs ht⟩
  · obtain ⟨t, hex, hlevel, ⟨hpending, hresult, hcount⟩, hreq, hready, hn, hretry⟩ := execCalFitDone_passes hi hf ht hc hl
    exact ⟨t, hex, hlevel, hpending, hresult, hreq, hready, hn, hretry, hcount⟩
  · have hfaults : ∀ t, s.fitFaults f b t = t.raise e := fun t => by
      simp only [State.fitFaults, hc, List.foldl_nil, ← hlevels, if_neg hne, he]
    obtain ⟨t, hex, ⟨⟨hpending, hresult, hcount⟩, hreq, hready, _, hretry, hrecorded⟩⟩ :=
      execCalFitDone_fails hi hf (fun k => hne (hlevels.trans k.2)) hfaults hrec
    exact ⟨t, hex, hpending, hresult, hreq, hready, hretry, hcount, hrecorded⟩
  · have hfaults : ∀ t, s.fitFaults f b t = t.raise e := fun t => by
      simp only [State.fitFaults, hc, List.foldl_cons, List.foldl_nil, if_pos hl, he]
    obtain ⟨t, hex, ⟨⟨_, hresult, _⟩, hreq, _, hfailed, hretry, hrecorded⟩⟩ := execCalFitDone_fails hi hf (by simp [hc]) hfaults hrec
    exact ⟨t, hex, hresult, hreq, hfailed (c, d) (by simp [hc]), hretry, hrecorded⟩
  · subst hm
    obtain ⟨t, hex, hpending, hmon⟩ := execMonitorWindowClose_flags hn hu hlsb rfl hne
    refine ⟨t, hex, hpending, by rw [hmon]; rfl, fun e he => ?_⟩
    rw [hmon]
    exact restarted_flag _ (List.mem_map_of_mem he)
end
section
/-! LD (09_ifeom_control_and_movement.md R265): what a load of a clean word leaves, and the trap on a poisoned one (07_scratchpad.md R220, R246, R248). -/
namespace Sys2Proof.Machine
open Sys2Proof.Claims

/-! ### A fault-class trap with a valid vector -/

theorem trapStat_beside (s : State) (f v pc : Nat) : RegsBeside [.FCE_TRAP_STAT] s (s.trapStat f v pc) :=
  ((RegsBeside.refl _ s).wr.wr).wr

/-- A trap on a face that issues outside a fault handler counts in FCE_TRAP_STAT and in what logging writes, and nowhere else. -/
theorem trapFault_rd {u : State} {f v tpc target : Nat} {info : Word} (hr : (u.face f).run = .issuing) (hh : (u.face f).handler ≠ .fault)
    (hv : (u.face f).vector v = some target) (g : Fld) (i : Nat) (hg : g.reg ≠ .FCE_TRAP_STAT := by decide) (hk : g.reg ≠ .FLT_INJ_CTL := by decide)
    (hs : g.reg ≠ .FLT_STATUS := by decide) : (u.trapFault f v info tpc).rd g i = u.rd g i := by
  rw [trapFault_eq hr hh hv, rd_modFace, raise_rd _ _ _ _ hk hs, rd_modFace]
  exact (rd_wr_reg _ _ _ _ _ _ hg).trans ((trapStat_beside u f v tpc).rd g i (by simpa using hg))

/-- A trap is taken in a state with the faces of s, and in which s's count of trapped faults stands. -/
theorem faultTrap_trapFault {s u : State} {f v target : Nat} {info : Word} (hf : u.faces = s.faces)
    (hc : u.rd R.FCE_TRAP_STAT.FAULTS f = s.rd R.FCE_TRAP_STAT.FAULTS f) (hr : (s.face f).run = .issuing) (hh : (s.face f).handler ≠ .fault)
    (hv : (s.face f).vector v = some target) : FaultTrap s f v info target (u.trapFault f v info (s.face f).pc) := by
  have hface (g : Nat) : u.face g = s.face g := by rw [State.face, State.face, hf]
  rw [← hface f] at hr hh hv
  rw [trapFault_eq hr hh hv]
  constructor
  case face => rw [face_modFace_same, raise_face, face_modFace_same, face_bump, ← hface f]; rfl
  case others =>
    intro g hg
    rw [face_modFace_other _ _ _ _ hg, raise_face, face_modFace_other _ _ _ _ hg, face_bump, ← hface g]
    rfl
  all_goals rw [rd_modFace, raise_rd _ _ _ _ (by decide) (by decide), rd_modFace]
  case vector =>
    rw [rd_bump_apart _ _ _ _ _ (by decide), State.trapStat, rd_wr_apart _ _ _ _ _ _ (by decide), rd_wr_apart _ _ _ _ _ _ (by decide)]
    exact rd_wr_same _ _ _ _ (by decide)
  case pc =>
    rw [rd_bump_apart _ _ _ _ _ (by decide), State.trapStat, rd_wr_apart _ _ _ _ _ _ (by decide)]
    exact rd_wr_same _ _ _ _ (by decide)
  case valid =>
    rw [rd_bump_apart _ _ _ _ _ (by decide)]
    exact rd_wr_same _ _ _ _ (by decide)
  case faults =>
    rw [rd_bump_same _ _ _ (by decide), State.trapStat, rd_wr_apart _ _ _ _ _ _ (by decide), rd_wr_apart _ _ _ _ _ _ (by decide),
      rd_wr_apart _ _ _ _ _ _ (by decide), hc]

/-! ### LD -/

variable {s t : State} {f : Nat} {w : IWord}

/-- An instruction whose effect is done retires. -/
theorem issue_next {m : Form} {body : State → Face → Done} (h : Issues s f w m) (hb : body (s.fetched f m) (s.face f) = .next t) :
    issue s f w m body = (t.bump R.FCE_ISSUE_STAT.ISSUED f).modFace f (fun y => { y with pc := y.pc + m.len + 1 }) := by rw [issue_eq h, hb]

/-- An instruction that traps takes the trap in the state it has come to. -/
theorem issue_trapIn {m : Form} {body : State → Face → Done} {v : Nat} {i : Word} (h : Issues s f w m)
    (hb : body (s.fetched f m) (s.face f) = .trapIn t v i) : issue s f w m body = t.trapFault f v i (s.face f).pc := by rw [issue_eq h, hb]

/-- The checks of a scalar access to a range that is clear pass, and no hazard holds it (R198, R201, R265). -/
theorem wordChecks_clear {write : Bool} (h : WordClear s f w write) (m : Form) (d : Done) :
    Done.orElse (wordFault (s.fetched f m) f (wordAddr s f w) write)
      (.orHold ((s.fetched f m).sbStall f [(wordRange (wordAddr s f w), write)]) d) = d := by
  obtain ⟨hpop, halign, hrange, hidle⟩ := h
  have hfault : wordFault (s.fetched f m) f (wordAddr s f w) write = none := by
    unfold wordFault
    dsimp only
    rw [fetched_rangeCheck, hrange]
    dsimp only
    rw [if_neg (Nat.not_le.mpr hpop), if_neg (not_not_intro halign)]
  rw [hfault, fetched_sbStall hidle]
  rfl

/-- LD of a clear range whose load is done retires (R265). -/
theorem execLd_loads (h : Issues s f w ldForm) (hw : WordClear s f w false)
    (hl : loadWord f w (wordAddr s f w) (s.fetched f ldForm) (s.face f) = .next t) :
    execLd f w s = .next ((t.bump R.FCE_ISSUE_STAT.ISSUED f).modFace f (fun y => { y with pc := y.pc + ldForm.len + 1 })) :=
  congrArg Host.Outcome.next (issue_next h ((wordChecks_clear hw ldForm _).trans hl))

/-- LD of a clear range whose load raises a trap takes it (R220, R265). -/
theorem execLd_traps {v : Nat} {i : Word} (h : Issues s f w ldForm) (hw : WordClear s f w false)
    (hl : loadWord f w (wordAddr s f w) (s.fetched f ldForm) (s.face f) = .trapIn t v i) :
    execLd f w s = .next (t.trapFault f v i (s.face f).pc) :=
  congrArg Host.Outcome.next (issue_trapIn h ((wordChecks_clear hw ldForm _).trans hl))

/-- A word without a flipped bit is delivered as it is stored (R219). -/
theorem deliver_clean {p : PWord} (h : checkCode p.flips = .clean) : p.deliver = (p.data, p.poison) := by rw [PWord.deliver, h]

/-- The load of a clean word that is not poisoned, outside the fine tables. -/
theorem loadWord_clean {a : Word} {x : Face} (hx : t.face f = x) (hfine : mget 0 x.fineLive (a.toNat / 128) = 0)
    (hc : checkCode (x.padWord (a.toNat / 8)).flips = .clean) (hp : (x.padWord (a.toNat / 8)).poison = false) :
    loadWord f w a t x = .next ((t.sbNote f 1).modFace f (fun y => y.setS (fRD w) (x.padWord (a.toNat / 8)).data)) := by
  have htouch : (t.sbNote f 1).padTouch f (a.toNat / 8) = t.sbNote f 1 := by subst hx; exact padTouch_clean hc hp
  rw [loadWord, deliver_clean hc, hfine, htouch, hp]
  rfl

/-- The load of a clean word that is poisoned: the read is counted, and the trap raised with the address (R220). -/
theorem loadWord_poisoned {a : Word} {x : Face} (hx : t.face f = x) (hfine : mget 0 x.fineLive (a.toNat / 128) = 0)
    (hc : checkCode (x.padWord (a.toNat / 8)).flips = .clean) (hp : (x.padWord (a.toNat / 8)).poison = true) :
    loadWord f w a t x = .trapIn ((t.sbNote f 1).bump R.SPD_ERR.POISON_READ f) 6 a := by
  have htouch : (t.sbNote f 1).padTouch f (a.toNat / 8) = (t.sbNote f 1).bump R.SPD_ERR.POISON_READ f := by
    subst hx
    have hsame : (t.sbNote f 1).face f = t.face f := rfl
    rw [State.padTouch, hsame, hc]
    exact if_pos hp
  rw [loadWord, deliver_clean hc, hfine, htouch, hp]
  rfl

/-- A register written leaves the scratchpad as it reads. -/
theorem padWord_setS (x : Face) (i : Nat) (v : Word) (j : Nat) : (x.setS i v).padWord j = x.padWord j := by
  unfold Face.setS
  split <;> rfl

/-- A scalar access that changes its face alone, and notes its use of the scoreboard. -/
theorem accessDone_of {m : Form} (g p : Face → Face) (x : Face) (hx : x = p (g (s.face f))) :
    AccessDone s f m x [] (((((s.fetched f m).sbNote f 1).modFace f g).bump R.FCE_ISSUE_STAT.ISSUED f).modFace f p) := by
  refine ⟨Counted.of (u := ((s.fetched f m).sbNote f 1).modFace f g) ?_ ?_ (fun _ _ => rfl), ?_, ?_, ?_⟩
  · exact (rd_wr_apart _ _ _ _ _ _ (by decide)).trans (rd_wr_apart _ _ _ _ _ _ (by decide))
  · exact rd_wr_apart _ _ _ _ _ _ (by decide)
  · rw [face_modFace_same, face_bump, face_modFace_same, hx]
    rfl
  · rw [rd_modFace, rd_bump_apart _ _ _ _ _ (by decide), rd_modFace, State.sbNote, rd_wr_same _ _ _ _ (by decide),
      fetched_rd _ _ _ _ _ (by decide)]
    rfl
  · refine Frame.modFace (Frame.bump (Frame.modFace (Frame.wr (Frame.bumpBy (Frame.refl _ _ _) ?_) ?_) ?_) ?_) ?_ <;> simp [issueFields]

/-- LD of a clean word that is not poisoned. -/
theorem execLd_clean (h : Issues s f w ldForm) (hw : WordClear s f w false) (hfine : mget 0 (s.face f).fineLive ((wordAddr s f w).toNat / 128) = 0)
    (hc : checkCode ((s.face f).padWord ((wordAddr s f w).toNat / 8)).flips = .clean)
    (hp : ((s.face f).padWord ((wordAddr s f w).toNat / 8)).poison = false) : ∃ t, execLd f w s = .next t ∧
      AccessDone s f ldForm
        { (s.face f).setS (fRD w) ((s.face f).padWord ((wordAddr s f w).toNat / 8)).data with pc := s.pcNext f ldForm } [] t ∧
      ∀ j, (t.face f).padWord j = (s.face f).padWord j := by
  refine ⟨_, execLd_loads h hw (loadWord_clean rfl hfine hc hp), ?done, fun j => ?_⟩
  case done =>
    refine accessDone_of _ _ _ ?_
    generalize ((s.face f).padWord ((wordAddr s f w).toNat / 8)).data = v
    unfold Face.setS
    split <;> rfl
  rw [face_modFace_same, face_bump, face_modFace_same]
  exact padWord_setS _ _ _ _

/-- LD of a poisoned word: the trap on an uncorrectable word, with the address (R220, R246). -/
theorem execLd_poisoned {target : Nat} (h : Issues s f w ldForm) (hw : WordClear s f w false)
    (hfine : mget 0 (s.face f).fineLive ((wordAddr s f w).toNat / 128) = 0)
    (hc : checkCode ((s.face f).padWord ((wordAddr s f w).toNat / 8)).flips = .clean)
    (hp : ((s.face f).padWord ((wordAddr s f w).toNat / 8)).poison = true) (hh : (s.face f).handler ≠ .fault)
    (hv : (s.face f).vector 6 = some target) : ∃ t, execLd f w s = .next t ∧ FaultTrap s f 6 (wordAddr s f w) target t ∧
      t.rd R.SPD_ERR.POISON_READ f = min (s.rd R.SPD_ERR.POISON_READ f + 1) (2 ^ R.SPD_ERR.POISON_READ.wd - 1) := by
  have hrd (g : Fld) (i : Nat) (hf : g.reg ≠ .FCE_STORE_ERR) (hs : R.SPD_SB_STAT.MAX_USED.apart g = true) :
      ((s.fetched f ldForm).sbNote f 1).rd g i = s.rd g i := (rd_wr_apart _ _ _ _ _ _ hs).trans (fetched_rd s f ldForm g i hf)
  refine ⟨_, execLd_traps h hw (loadWord_poisoned rfl hfine hc hp), faultTrap_trapFault rfl ?_ h.run hh hv, ?_⟩
  · rw [rd_bump_apart _ _ _ _ _ (by decide), hrd _ _ (by decide) (by decide)]
  · rw [trapFault_rd (by exact h.run) (by exact hh) (by exact hv) R.SPD_ERR.POISON_READ, rd_bump_same _ _ _ (by decide), hrd _ _ (by decide) (by decide)]

end Sys2Proof.Machine
end

section
open Sys2Proof Sys2Proof.Machine Sys2Proof.Claims

/-- Settles O16: a word without a flipped bit is clean, and LD of it is done, or traps where it is poisoned. -/
theorem loadResult : Obligations.LoadResult := by
  unfold Obligations.LoadResult
  intro f w s h hw hfine hflips
  have hc : checkCode ((s.face f).padWord ((wordAddr s f w).toNat / 8)).flips = .clean := by rw [hflips]; exact checkCode_zero
  exact ⟨execLd_clean h hw hfine hc, fun hp hh target hv => execLd_poisoned h hw hfine hc hp hh hv⟩
end
section
/-! The patrol scrubs (07_scratchpad.md R221, 17_memory_protection.md R484): a round on a clean word changes nothing, so that a patrol that finds one
wrong word comes to the round on that word. -/
namespace Sys2Proof.Machine
open Sys2Proof.Claims

variable {s t : State} {f line k r : Nat}

/-! ### A line of a scratchpad (R221) -/

/-- The state in which a patrol that brings no new errors meets a line: every face reads as before. -/
def State.padMet (s : State) (f line : Nat) : State :=
  if mget false (s.face f).written line = false then s else s.modFace f (fun x => x)

theorem padMet_face (s : State) (f line g : Nat) : (s.padMet f line).face g = s.face g := by
  unfold State.padMet
  split
  · rfl
  · by_cases h : g = f
    · rw [h, face_modFace_same]
    · exact face_modFace_other _ _ _ _ h

theorem padMet_frame (s : State) (f line : Nat) (fs : List (Fld × Nat)) (gs : List Nat) : s.Frame (s.padMet f line) fs gs := by
  refine ⟨fun r i b _ => ?_, fun g _ => padMet_face s f line g, ?_⟩ <;> unfold State.padMet <;> split <;> rfl

theorem padMet_rd (s : State) (f line : Nat) (g : Fld) (i : Nat) : (s.padMet f line).rd g i = s.rd g i := by
  unfold State.padMet
  split <;> rfl

theorem padMet_logsAlike (s : State) (f line : Nat) : LogsAlike s (s.padMet f line) := by
  unfold State.padMet
  split
  · exact LogsAlike.refl s
  · exact (LogsAlike.refl s).modFace

/-- A stored word of face f replaced. -/
def State.padSet (t : State) (f w : Nat) (p : PWord) : State := t.modFace f (fun x => { x with pad := mset {} x.pad w p })

theorem padSet_face (t : State) (f w : Nat) (p : PWord) : (t.padSet f w p).face f = { t.face f with pad := mset {} (t.face f).pad w p } :=
  face_modFace_same _ _ _

theorem padSet_word_other (t : State) (f w : Nat) (p : PWord) {j : Nat} (h : j ≠ w) :
    ((t.padSet f w p).face f).padWord j = (t.face f).padWord j := by
  rw [padSet_face]
  simp only [Face.padWord, mget_mset_other _ _ _ _ _ _ h]

/-- The record of an uncorrectable word that the patrol finds (R221). -/
def patrolEvent (s : State) (f line i : Nat) : Event :=
  { det := .spUncorr, unit := s.unitBank f ((line * 16 + i) * 8), addr := (line * 16 + i) * 8, d0 := BitVec.ofNat 64 i, lface := f }

/-- The patrol's round on word i of a line. -/
def State.patrolPad (f line : Nat) (t : State) (i : Nat) : State :=
  let p := ((t.face f).padWord (line * 16 + i)).patrol
  if p.2.1 then (t.padSet f (line * 16 + i) p.1).bump R.SPD_ERR.CORRECTED f
  else if p.2.2 then ((t.padSet f (line * 16 + i) p.1).bump R.SPD_ERR.UNCORRECTABLE f).raise (patrolEvent t f line i)
  else t

/-- A patrol that brings no new errors is its sixteen rounds. -/
theorem execSpPatrol_rounds (h : Patrols s f line) (last : Bool) : execSpPatrol f line [] last s = .next
    (if last then (loop 16 (s.padMet f line) (State.patrolPad f line)).wr R.SPD_SCRUB.LAP f 1
     else loop 16 (s.padMet f line) (State.patrolPad f line)) := by
  obtain ⟨⟨hf, hl⟩, hon, hdue⟩ := h
  refine congrArg Host.Outcome.next ((if_neg ?_).trans (if_neg hdue))
  simp [Nat.not_le.mpr hf, Nat.not_le.mpr hl, hon]

theorem patrolPad_clean {i : Nat} (h : checkCode ((t.face f).padWord (line * 16 + i)).flips = .clean) : t.patrolPad f line i = t := by
  simp [State.patrolPad, PWord.patrol, h]

theorem patrolPad_fixed {i : Nat} (h : checkCode ((t.face f).padWord (line * 16 + i)).flips = .fixed r) : t.patrolPad f line i =
    (t.padSet f (line * 16 + i) { ((t.face f).padWord (line * 16 + i)).flip r with flips := 0 }).bump R.SPD_ERR.CORRECTED f := by
  simp [State.patrolPad, PWord.patrol, h]

theorem patrolPad_bad {i : Nat} (h : checkCode ((t.face f).padWord (line * 16 + i)).flips = .bad)
    (hs : ((t.face f).padWord (line * 16 + i)).seen = false) : t.patrolPad f line i =
    ((t.padSet f (line * 16 + i) { (t.face f).padWord (line * 16 + i) with seen := true }).bump R.SPD_ERR.UNCORRECTABLE f).raise
      (patrolEvent t f line i) := by
  simp [State.patrolPad, PWord.patrol, h, hs]

/-- An uncorrectable word is reported once. -/
theorem patrolPad_seen {i : Nat} (h : checkCode ((t.face f).padWord (line * 16 + i)).flips = .bad)
    (hs : ((t.face f).padWord (line * 16 + i)).seen = true) : t.patrolPad f line i = t := by
  simp [State.patrolPad, PWord.patrol, h, hs]

theorem cleanBut_padMet (h : CleanBut s f line k) : CleanBut (s.padMet f line) f line k := fun i hi hk => by
  rw [padMet_face]; exact h i hi hk

/-- The rounds on a line of which only word k may be wrong come to the round on word k, where that leaves the other words. -/
theorem patrolPad_loop (hk : k < 16) (h : CleanBut s f line k) (hst : s.patrolPad f line k = t)
    (hw : ∀ j, j ≠ line * 16 + k → (t.face f).padWord j = (s.face f).padWord j) : loop 16 s (State.patrolPad f line) = t := by
  refine loop_once hk hst (fun i hi hne => patrolPad_clean (h i hi hne)) (fun i hi hne => patrolPad_clean ?_)
  rw [hw _ (by omega)]
  exact h i hi hne

/-- The patrol of a clean line. -/
theorem patrolPad_loop_clean (h : CleanBut s f line 16) : loop 16 s (State.patrolPad f line) = s :=
  loop_idle fun i hi => patrolPad_clean (h i hi (by omega))

theorem execSpPatrol_clean (h : Patrols s f line) (hc : CleanBut s f line 16) :
    (∃ t, execSpPatrol f line [] false s = .next t ∧ s.Frame t [] []) ∧
    ∃ t, execSpPatrol f line [] true s = .next t ∧ t.rd R.SPD_SCRUB.LAP f = 1 ∧ s.Frame t [(R.SPD_SCRUB.LAP, f)] [] := by
  have hloop := patrolPad_loop_clean (cleanBut_padMet hc)
  refine ⟨⟨_, execSpPatrol_rounds h false, ?_⟩, ⟨_, execSpPatrol_rounds h true, ?_, ?_⟩⟩
  · rw [if_neg Bool.false_ne_true, hloop]
    exact padMet_frame s f line [] []
  · exact rd_wr_same _ _ _ _ (by decide)
  · rw [hloop]
    exact Frame.wr (padMet_frame s f line _ _) (by simp)

/-- A correctable word is corrected and counted. -/
theorem execSpPatrol_fixed {p : PWord} (h : Patrols s f line) (hk : k < 16) (hc : CleanBut s f line k) (hp : p = (s.face f).padWord (line * 16 + k))
    (hr : checkCode p.flips = .fixed r) : ∃ t, execSpPatrol f line [] false s = .next t ∧
      t.face f = { s.face f with pad := mset {} (s.face f).pad (line * 16 + k) { p.flip r with flips := 0 } } ∧
      t.rd R.SPD_ERR.CORRECTED f = min (s.rd R.SPD_ERR.CORRECTED f + 1) (2 ^ R.SPD_ERR.CORRECTED.wd - 1) ∧
      s.Frame t [(R.SPD_ERR.CORRECTED, f)] [f] := by
  have hround := patrolPad_fixed (t := s.padMet f line) (f := f) (line := line) (i := k) (by rw [padMet_face, ← hp]; exact hr)
  rw [padMet_face, ← hp] at hround
  have hloop := patrolPad_loop hk (cleanBut_padMet hc) hround (fun j hj => padSet_word_other _ _ _ _ hj)
  refine ⟨_, execSpPatrol_rounds h false, ?_, ?_, ?_⟩ <;> rw [if_neg Bool.false_ne_true, hloop]
  · rw [face_bump, padSet_face, padMet_face]
  · rw [rd_bump_same _ _ _ (by decide)]
    exact congrArg (fun n => min (n + 1) _) (padMet_rd s f line _ _)
  · exact Frame.bump (Frame.modFace (padMet_frame s f line _ _) (by simp)) (by simp)

/-- An uncorrectable word is marked, counted and reported. -/
theorem execSpPatrol_bad {p : PWord} {e : Event} (h : Patrols s f line) (hk : k < 16) (hc : CleanBut s f line k)
    (hp : p = (s.face f).padWord (line * 16 + k)) (hr : checkCode p.flips = .bad) (hs : p.seen = false) (he : e = patrolEvent s f line k)
    (hrec : Recordable s e) : ∃ t, execSpPatrol f line [] false s = .next t ∧
      t.face f = { s.face f with pad := mset {} (s.face f).pad (line * 16 + k) { p with seen := true } } ∧
      t.rd R.SPD_ERR.UNCORRECTABLE f = min (s.rd R.SPD_ERR.UNCORRECTABLE f + 1) (2 ^ R.SPD_ERR.UNCORRECTABLE.wd - 1) ∧ Recorded s e t := by
  have hround := patrolPad_bad (t := s.padMet f line) (f := f) (line := line) (i := k) (by rw [padMet_face, ← hp]; exact hr)
    (by rw [padMet_face, ← hp]; exact hs)
  have hevent : patrolEvent (s.padMet f line) f line k = e := by
    rw [he, patrolEvent, patrolEvent, State.unitBank, State.unitBank, State.phys, State.phys, padMet_rd]
  have halike : LogsAlike s (((s.padMet f line).padSet f (line * 16 + k) { p with seen := true }).bump R.SPD_ERR.UNCORRECTABLE f) :=
    (padMet_logsAlike s f line).modFace.bump
  rw [padMet_face, ← hp, hevent, raise_queued hrec halike] at hround
  have hloop := patrolPad_loop hk (cleanBut_padMet hc) hround (fun j hj => padSet_word_other _ _ _ _ hj)
  refine ⟨_, execSpPatrol_rounds h false, ?_, ?_, ?_⟩ <;> rw [if_neg Bool.false_ne_true, hloop]
  · rw [face_queued, face_bump, padSet_face, padMet_face]
  · rw [rd_queued _ _ R.SPD_ERR.UNCORRECTABLE, rd_bump_same _ _ _ (by decide)]
    exact congrArg (fun n => min (n + 1) _) (padMet_rd s f line _ _)
  · exact halike.recorded rfl rfl

theorem execSpPatrol_seen (h : Patrols s f line) (hk : k < 16) (hc : CleanBut s f line k)
    (hr : checkCode ((s.face f).padWord (line * 16 + k)).flips = .bad) (hs : ((s.face f).padWord (line * 16 + k)).seen = true) :
    ∃ t, execSpPatrol f line [] false s = .next t ∧ s.Frame t [] [] := by
  have hloop := patrolPad_loop hk (cleanBut_padMet hc) (patrolPad_seen (by rwa [padMet_face]) (by rwa [padMet_face])) (fun _ _ => rfl)
  refine ⟨_, execSpPatrol_rounds h false, ?_⟩
  rw [if_neg Bool.false_ne_true, hloop]
  exact padMet_frame s f line [] []

/-! ### A row segment of a stack (R484) -/

variable {p seg g w : Nat} {x : Gran}

/-- The rounds of a patrol of a row segment: its granules, and then its metadata words. -/
def State.patrolSeg (s : State) (p seg : Nat) : State :=
  loop 3 (loop 12 s (fun t i => t.patrolGran (segGran p seg + i))) (fun t i => t.patrolMeta (segGran p seg + 4 * i))

theorem execHbmPatrol_rounds (h : StackPatrols s p seg) (last : Bool) : execHbmPatrol p seg [] [] last s = .next
    (if last then (s.patrolSeg p seg).wr R.MEM_SCRUB.LAP 0 1 else s.patrolSeg p seg) := by
  obtain ⟨⟨hp, hseg⟩, hon, hdue, -⟩ := h
  refine congrArg Host.Outcome.next ((if_neg ?_).trans (if_neg (not_or.mpr hdue)))
  simp [hon, Nat.not_le.mpr hp, Nat.not_le.mpr hseg]

/-- The patrol's round on word i of granule g. -/
def State.patrolWord (g : Nat) (t : State) (i : Nat) : State :=
  let p := (mget {} (t.gran g).words i).patrol
  if p.2.1 then (t.setGran g (t.gran g).correct.1).bumpBy R.MEM_ERR.CORRECTED (stk g) (t.gran g).correct.2
  else if p.2.2 then
    (t.setGran g { t.gran g with words := mset {} (t.gran g).words i p.1 }).raise
      { det := .hbmUncorr, unit := chanUnit g, addr := g * 128, d0 := BitVec.ofNat 64 i }
  else t

theorem patrolGran_rounds (s : State) (g : Nat) : s.patrolGran g = loop 16 s (State.patrolWord g) := rfl

theorem patrolWord_clean {i : Nat} (h : checkCode (mget {} (t.gran g).words i).flips = .clean) : t.patrolWord g i = t := by
  simp [State.patrolWord, PWord.patrol, h]

theorem patrolWord_fixed {i : Nat} (h : checkCode (mget {} (t.gran g).words i).flips = .fixed r) : t.patrolWord g i =
    (t.setGran g (t.gran g).correct.1).bumpBy R.MEM_ERR.CORRECTED (stk g) (t.gran g).correct.2 := by
  simp [State.patrolWord, PWord.patrol, h]

theorem patrolGran_clean (h : GranClean s g) : s.patrolGran g = s := loop_idle fun i hi => patrolWord_clean (h i hi)

theorem patrolMeta_clean (h : mget 0 s.hbmMeta (metaKey g) = 0) : s.patrolMeta g = s := if_pos h

/-- The granule with its word w, which the checker corrects to what r leaves wrong of it, corrected (R477, R482). -/
def Gran.fixed (x : Gran) (w r : Nat) : Gran :=
  { x with words := mset {} x.words w { (mget {} x.words w).flip r with flips := 0 }
           tagBad := x.tagBad || decide (r / 2 ^ 14 % 2 ^ 64 ≠ 0) }

theorem fixed_word_other (x : Gran) {j : Nat} (h : j ≠ w) : mget {} (x.fixed w r).words j = mget {} x.words j := mget_mset_other _ _ _ _ _ _ h

theorem fixed_word_clean (x : Gran) (hc : ∀ i < 16, i ≠ w → checkCode (mget {} x.words i).flips = .clean) {i : Nat} (hi : i < 16) :
    checkCode (mget {} (x.fixed w r).words i).flips = .clean := by
  by_cases e : i = w
  · rw [e, show mget {} (x.fixed w r).words w = _ from mget_mset_same _ _ _ _]
    exact checkCode_zero
  · rw [fixed_word_other x e]
    exact hc i hi e

/-- A granule of which one word is wrong is corrected in that word. -/
theorem correct_fixed (hw : w < 16) (hc : ∀ i < 16, i ≠ w → checkCode (mget {} x.words i).flips = .clean)
    (hr : checkCode (mget {} x.words w).flips = .fixed r) : x.correct = (x.fixed w r, 1) := by
  refine loop_once hw ?_ (fun j hj hne => ?_) (fun j hj hne => ?_) <;> dsimp only
  · rw [hr]
    rfl
  · rw [hc j hj hne]
  · rw [fixed_word_clean x hc hj]

/-- The patrol of a granule of which one word is wrong, and can be corrected. -/
theorem patrolGran_fixed (hw : w < 16) (hc : ∀ i < 16, i ≠ w → checkCode (mget {} (s.gran g).words i).flips = .clean)
    (hr : checkCode (mget {} (s.gran g).words w).flips = .fixed r) :
    s.patrolGran g = (s.setGran g ((s.gran g).fixed w r)).bump R.MEM_ERR.CORRECTED (stk g) := by
  rw [patrolGran_rounds]
  refine loop_once hw ?_ (fun j hj hne => patrolWord_clean (hc j hj hne)) (fun j hj _ => patrolWord_clean ?_)
  · rw [patrolWord_fixed hr, correct_fixed hw hc hr]
    rfl
  · rw [show ((s.setGran g ((s.gran g).fixed w r)).bump R.MEM_ERR.CORRECTED (stk g)).gran g = _ from gran_setGran_same _ _ _]
    exact fixed_word_clean _ hc hj

/-- The rounds on metadata words without a wrong bit change nothing. -/
theorem patrolSeg_metas (hm : ∀ i < 3, mget 0 t.hbmMeta (metaKey (segGran p seg + 4 * i)) = 0)
    (hl : loop 12 s (fun t i => t.patrolGran (segGran p seg + i)) = t) : s.patrolSeg p seg = t := by
  rw [State.patrolSeg, hl]
  exact loop_idle fun i hi => patrolMeta_clean (hm i hi)

theorem patrolSeg_clean (h : StackPatrols s p seg) (hc : ∀ i < 12, GranClean s (segGran p seg + i)) : s.patrolSeg p seg = s :=
  patrolSeg_metas h.metas (loop_idle fun i hi => patrolGran_clean (hc i hi))

theorem execHbmPatrol_clean (h : StackPatrols s p seg) (hc : ∀ i < 12, GranClean s (segGran p seg + i)) :
    execHbmPatrol p seg [] [] false s = .next s ∧
    ∃ t, execHbmPatrol p seg [] [] true s = .next t ∧ t.rd R.MEM_SCRUB.LAP 0 = 1 ∧ s.Frame t [(R.MEM_SCRUB.LAP, 0)] [] := by
  refine ⟨(execHbmPatrol_rounds h false).trans (congrArg _ (patrolSeg_clean h hc)), _, execHbmPatrol_rounds h true, ?_, ?_⟩
  · exact rd_wr_same _ _ _ _ (by decide)
  · rw [patrolSeg_clean h hc]
    exact Frame.wr (Frame.refl s _ _) (by simp)

/-- The granules of a row segment lie in its stack. -/
theorem stk_segGran (hseg : seg < segments) (hk : k < 12) : stk (segGran p seg + k) = p := by
  simp only [stk, segGran, segments] at *
  omega

/-- A correctable word of a row segment is corrected and counted. -/
theorem execHbmPatrol_fixed (h : StackPatrols s p seg) (hk : k < 12) (hw : w < 16) (hg : g = segGran p seg + k)
    (hc : ∀ i < 12, i ≠ k → GranClean s (segGran p seg + i)) (hx : ∀ i < 16, i ≠ w → checkCode (mget {} (s.gran g).words i).flips = .clean)
    (hr : checkCode (mget {} (s.gran g).words w).flips = .fixed r) : ∃ t, execHbmPatrol p seg [] [] false s = .next t ∧
      t.gran g = (s.gran g).fixed w r ∧ (∀ h, h ≠ g → t.gran h = s.gran h) ∧
      t.rd R.MEM_ERR.CORRECTED p = min (s.rd R.MEM_ERR.CORRECTED p + 1) (2 ^ R.MEM_ERR.CORRECTED.wd - 1) ∧
      s.Frame { t with hbm := s.hbm } [(R.MEM_ERR.CORRECTED, p)] [] := by
  have hstk : stk g = p := by rw [hg, stk_segGran h.row.2 hk]
  have hround := patrolGran_fixed hw hx hr
  rw [hstk] at hround
  have hother (j : Nat) (hj : j ≠ g) : ((s.setGran g ((s.gran g).fixed w r)).bump R.MEM_ERR.CORRECTED p).gran j = s.gran j :=
    gran_setGran_other _ _ _ _ hj
  have hloop : s.patrolSeg p seg = (s.setGran g ((s.gran g).fixed w r)).bump R.MEM_ERR.CORRECTED p := by
    refine patrolSeg_metas h.metas (loop_once hk (hg ▸ hround) (fun i hi hne => patrolGran_clean (hc i hi hne))
      (fun i hi hne => patrolGran_clean (fun j hj => ?_)))
    rw [hother _ (by omega)]
    exact hc i hi hne j hj
  refine ⟨_, (execHbmPatrol_rounds h false).trans (congrArg _ hloop), gran_setGran_same _ _ _, hother, rd_bump_same _ _ _ (by decide), ?_⟩
  exact (Frame.bump (Frame.refl s _ _) (by simp))

end Sys2Proof.Machine
end
section
/-! Rotation, the sweep and sessions (17_memory_protection.md R485, R486, 18_tenancy_and_management.md R497, R499): requests wait for the boundary or
are refused, and the sweep writes a segment's granules under the current set. -/
namespace Sys2Proof.Machine
open Sys2Proof.Claims

variable {s t : State}

/-! ### Requests to the key unit -/

/-- A refusal writes its bit and its reason. -/
theorem keyRefused_wr (s : State) (refuse reason : Fld) (v : Nat) (ha : reason.apart refuse = true := by decide)
    (h1 : 1 % 2 ^ refuse.wd = 1 := by decide) (hv : v % 2 ^ reason.wd = v := by decide) :
    KeyRefused s refuse reason v ((s.wr refuse 0 1).wr reason 0 v) := by
  have hin : reason.lo + reason.wd ≤ 64 ∧ refuse.lo + refuse.wd ≤ 64 := by
    simp only [Fld.apart, Bool.and_eq_true, decide_eq_true_eq] at ha
    exact ha.1
  obtain ⟨hreason, hrefuse⟩ := hin
  refine ⟨?_, ?_, Frame.wr (Frame.wr (Frame.refl s _ _) (by simp) hrefuse) (by simp) hreason⟩
  · rw [rd_wr_apart _ _ _ _ _ _ ha, rd_wr_same _ _ _ _ hrefuse, h1]
  · rw [rd_wr_same _ _ _ _ hreason, hv]

/-! ### Rotation (R485) -/

theorem execRotate_waits (hst : s.rd R.KEY_SESSION.STATE 0 = 2) (hp : s.rd R.KEY_STATE.PREV_VALID 0 ≠ 1) (ht : s.ticking = true) :
    execRotate s = .next (s.modKey (fun x => { x with rotate := true })) := by
  refine congrArg Host.Outcome.next ?_
  rw [if_neg (by rw [hst]; decide), if_neg (not_not_intro hst), if_neg hp]
  exact orNow_ticking (by exact ht) _

theorem execRotate_busy (hst : s.rd R.KEY_SESSION.STATE 0 = 2) (hp : s.rd R.KEY_STATE.PREV_VALID 0 = 1) :
    ∃ t, execRotate s = .next t ∧ KeyRefused s R.KEY_ROT_CTL.REFUSE R.KEY_ROT_CTL.REASON 2 t := by
  refine ⟨_, congrArg Host.Outcome.next ?_, keyRefused_wr s _ _ 2⟩
  rw [if_neg (by rw [hst]; decide), if_neg (not_not_intro hst), if_pos hp]

theorem execRotate_closed (hst : s.rd R.KEY_SESSION.STATE 0 < 2) :
    ∃ t, execRotate s = .next t ∧ KeyRefused s R.KEY_ROT_CTL.REFUSE R.KEY_ROT_CTL.REASON 1 t := by
  refine ⟨_, congrArg Host.Outcome.next ?_, keyRefused_wr s _ _ 1⟩
  rw [if_neg (by omega), if_pos (by omega)]

theorem execRotate_releasing (hst : s.rd R.KEY_SESSION.STATE 0 = 3 ∨ s.rd R.KEY_SESSION.STATE 0 = 4) :
    ∃ t, execRotate s = .next t ∧ KeyRefused s R.KEY_ROT_CTL.REFUSE R.KEY_ROT_CTL.REASON 3 t :=
  ⟨_, congrArg Host.Outcome.next (if_pos hst), keyRefused_wr s _ _ 3⟩

/-! ### Opening a session (R497) -/

theorem execSessionOpen_waits (hst : s.rd R.KEY_SESSION.STATE 0 = 0) (hlife : s.rd R.PLT_LIFECYCLE.STATE 0 = 1 ∨ s.rd R.PLT_LIFECYCLE.STATE 0 = 2)
    (hp : s.rd R.KEY_STATE.PLATFORM_VALID 0 ≠ 0) (ht : s.ticking = true) : ∃ t, execSessionOpen s = .next t ∧
      t.key = { s.key with open_ := true } ∧ t.rd R.KEY_SESSION.STATE 0 = 1 ∧ s.Frame { t with key := s.key } [(R.KEY_SESSION.STATE, 0)] [] := by
  have hticks : (s.wr R.KEY_SESSION.STATE 0 1).ticking = true := (ticking_congr (rd_wr_reg _ _ _ _ _ _ (by decide)) rfl).trans ht
  refine ⟨(s.wr R.KEY_SESSION.STATE 0 1).modKey (fun x => { x with open_ := true }), congrArg Host.Outcome.next ?_, rfl, ?_, ?_⟩
  · rw [if_neg (by omega), if_neg (not_not_intro hst), if_neg (by omega)]
    exact orNow_ticking (by exact hticks) _
  · exact rd_wr_same _ _ _ _ (by decide)
  · exact Frame.wr (Frame.refl s _ _) (by simp)

theorem execSessionOpen_unfit (hst : s.rd R.KEY_SESSION.STATE 0 = 0)
    (h : (s.rd R.PLT_LIFECYCLE.STATE 0 ≠ 1 ∧ s.rd R.PLT_LIFECYCLE.STATE 0 ≠ 2) ∨ s.rd R.KEY_STATE.PLATFORM_VALID 0 = 0) :
    ∃ t, execSessionOpen s = .next t ∧ KeyRefused s R.KEY_SESSION_CTL.REFUSE R.KEY_SESSION_CTL.REASON 2 t := by
  refine ⟨_, congrArg Host.Outcome.next ?_, keyRefused_wr s _ _ 2⟩
  rw [if_neg (by omega), if_neg (not_not_intro hst), if_pos h]
  rfl

theorem execSessionOpen_open (hst : s.rd R.KEY_SESSION.STATE 0 = 1 ∨ s.rd R.KEY_SESSION.STATE 0 = 2) :
    ∃ t, execSessionOpen s = .next t ∧ KeyRefused s R.KEY_SESSION_CTL.REFUSE R.KEY_SESSION_CTL.REASON 3 t :=
  ⟨_, congrArg Host.Outcome.next (if_pos hst), keyRefused_wr s _ _ 3⟩

theorem execSessionOpen_releasing (hst : 3 ≤ s.rd R.KEY_SESSION.STATE 0) :
    ∃ t, execSessionOpen s = .next t ∧ KeyRefused s R.KEY_SESSION_CTL.REFUSE R.KEY_SESSION_CTL.REASON 1 t := by
  refine ⟨_, congrArg Host.Outcome.next ?_, keyRefused_wr s _ _ 1⟩
  rw [if_neg (by omega), if_pos (by omega)]
  rfl

/-! ### The request for a release (R499) -/

/-- The request as the key unit keeps it: of two that wait, the earlier hand stands. -/
def KeyWork.releaseAt (x : KeyWork) (h : Nat) : KeyWork :=
  { x with release := some (match x.release with
    | some k => min k h
    | none => h) }

theorem execSessionRelease_waits (hr : s.releaseReason = 0) (ht : s.ticking = true) :
    execSessionRelease s = .next (s.modKey (fun x => x.releaseAt (releaseHand s))) :=
  congrArg Host.Outcome.next ((if_neg (not_not_intro hr)).trans (orNow_ticking (by exact ht) _))

theorem execSessionRelease_refused {v : Nat} (hr : s.releaseReason = v) (hv : v ≠ 0) : execSessionRelease s = .next (s.sessionRefuse v) :=
  congrArg Host.Outcome.next ((if_pos (by rwa [hr])).trans (by rw [hr]))

/-- A release is allowed while no other is in progress and its hand, where it names one, has not passed. -/
theorem releaseReason_allowed (hst : s.rd R.KEY_SESSION.STATE 0 ≤ 2)
    (hh : s.rd R.KEY_SESSION_CTL.AT_HAND 0 = 1 → s.boundaryPast (releaseHand s) = false) : s.releaseReason = 0 := by
  refine (if_neg (by omega)).trans (if_neg fun ⟨hat, _, hpast⟩ => ?_)
  have h := hh hat
  rw [releaseHand, if_pos hat, hpast] at h
  cases h

theorem releaseReason_past (hst : s.rd R.KEY_SESSION.STATE 0 ≤ 2) (hat : s.rd R.KEY_SESSION_CTL.AT_HAND 0 = 1)
    (hh : s.boundaryPast (releaseHand s) = true) (ht : s.ticking = true) : s.releaseReason = 4 := by
  rw [releaseHand, if_pos hat] at hh
  exact (if_neg (by omega)).trans (if_pos ⟨hat, ht, hh⟩)

theorem releaseReason_releasing (hst : s.rd R.KEY_SESSION.STATE 0 = 3 ∨ s.rd R.KEY_SESSION.STATE 0 = 4) : s.releaseReason = 3 := if_pos hst

/-! ### The sweep (R486) -/

variable {g a k p n wait : Nat}

/-- The granule under the current set of the session, with the words it had (R486). -/
def State.resealed (s : State) (g : Nat) : Gran :=
  { s.gran g with plat := false, gen := s.keyGen, epoch := s.rd R.KEY_STATE.EPOCH 0, words := wordsOf (s.gran g).raw }

theorem resealed_of_gran (h : UnderPrev s g) (ht : t.gran g = s.resealed g) : Resealed s g t := by
  obtain ⟨-, -, -, hhere, ⟨hbad, -, -⟩, -⟩ := h
  refine ⟨?_, ?_, ?_, fun i hi => ?_⟩ <;> rw [ht, State.resealed]
  · exact hhere
  · exact ⟨hbad, rfl, rfl⟩
  · rw [mget_wordsOf]
    simp [Gran.raw, List.getD_eq_getElem?_getD, List.getElem?_range hi]

/-- The sweep leaves a granule of the weight region. -/
theorem sweepGran_wreg (h : s.inWreg (g * 128) = true) : s.sweepGran g = s := if_pos h

/-- The state in which the sweep has read a whole granule: it has corrected nothing. -/
def State.sweepRead (s : State) (g : Nat) : State := (s.setGran g (s.gran g)).bumpBy R.MEM_ERR.CORRECTED (stk g) 0

/-- A granule that is whole under the previous set is sealed under the current one. -/
theorem sweepGran_prev (h : UnderPrev s g) (hi : s.injs = []) : s.sweepGran g = (s.sweepRead g).setGran g (s.resealed g) := by
  obtain ⟨hout, hclean, hmeta, ⟨hpres, hpois⟩, ⟨hbad, hplat, hgen⟩, hepoch⟩ := h
  have hset : s.sessionSet (s.rd R.KEY_STATE.EPOCH 0 - 1) = (s.gran g).set := by
    simp [State.sessionSet, Gran.set, hplat, hgen, ← hepoch]
  have hfield : (s.gran g).epochField = (s.rd R.KEY_STATE.EPOCH 0 + 3) % 4 := by
    simp only [Gran.epochField, hplat, Bool.false_eq_true, if_false]
    omega
  have hwords : (s.gran g).words.any (fun w => w.2.uncorr) = false := List.any_eq_false.mpr fun e he => by simp [PWord.uncorr, hclean e he]
  unfold State.sweepGran
  extract_lets c x e m fixM src s1 s2
  have hc : c = (s.gran g, 0) := correct_clean hclean
  have hx : x = s.gran g := congrArg Prod.fst hc
  have hm : m = 0 := hmeta
  have hfix : fixM = false := by simp [fixM, hm]
  have hs1 : s1 = s.sweepRead g := by
    simp only [s1, src, hfix, hx, hc]
    rfl
  have hinj : s1.injSlot .tagFail (chanUnit g) = none := injSlot_nil (by rw [hs1]; exact hi) _ _
  have hwrong : (x.words.any (fun w => w.2.uncorr) || decide (checkCode m = .bad)) = false := by
    rw [hx, hwords, hm, checkCode_zero]
    rfl
  have htag : (x.tagFails g (s.sessionSet (e - 1)) || (s1.injSlot .tagFail (chanUnit g)).isSome) = false := by
    rw [hinj, hx, hset, Gran.tagFails, hbad]
    simp
  rw [if_neg (by rw [hout]; decide), if_neg (by rw [hwrong]; decide), if_neg (by rw [hx, hpres]; simp [hfield, e]),
    if_neg (by rw [hx, hpois]; decide), if_neg (by rw [htag]; decide), hs1, hx, hset, Gran.deliver, if_pos rfl]
  rfl

/-- Of `k` granules from `a` on, those outside the weight region have been sealed again; nothing else of what the sweep reads has changed. -/
structure Swept (s : State) (a k : Nat) (t : State) : Prop where
  regs : RegsBeside [] s t
  rest : { t with regs := s.regs, hbm := s.hbm } = s
  done : ∀ g, a ≤ g → g < a + k → s.inWreg (g * 128) = false → t.gran g = s.resealed g
  others : ∀ g, ¬ (a ≤ g ∧ g < a + k ∧ s.inWreg (g * 128) = false) → t.gran g = s.gran g

theorem Swept.refl (s : State) (a : Nat) : Swept s a 0 s := ⟨RegsBeside.refl _ _, rfl, fun _ _ _ => by omega, fun _ _ => rfl⟩

theorem Swept.inWreg (h : Swept s a k t) (b : Nat) : t.inWreg b = s.inWreg b := inWreg_beside (h.regs.mono (by simp)) b

theorem Swept.rd (h : Swept s a k t) (g : Fld) (i : Nat) : t.rd g i = s.rd g i := h.regs.rd g i (by simp)

theorem sweepRead_regs (s : State) (g : Nat) : RegsBeside [] s (s.sweepRead g) :=
  fun r _ i => reg_bumpBy_zero (s.setGran g (s.gran g)) R.MEM_ERR.CORRECTED (stk g) r i

/-- The next granule. -/
theorem Swept.step (h : Swept s a k t) (hi : s.injs = []) (hg : s.inWreg ((a + k) * 128) = true ∨ UnderPrev s (a + k)) :
    Swept s a (k + 1) (t.sweepGran (a + k)) := by
  rcases hg with hreg | hprev
  · rw [sweepGran_wreg ((h.inWreg _).trans hreg)]
    refine ⟨h.regs, h.rest, fun g hlo hhi hout => ?_, fun g hne => h.others g fun ⟨hlo, hhi, hout⟩ => hne ⟨hlo, by omega, hout⟩⟩
    have hne : g ≠ a + k := fun e => by rw [e, hreg] at hout; cases hout
    exact h.done g hlo (by omega) hout
  have hgran : t.gran (a + k) = s.gran (a + k) := h.others _ (by omega)
  have hgen : t.keyGen = s.keyGen := (congrArg State.keyGen h.rest :)
  have hprevt : UnderPrev t (a + k) := by
    obtain ⟨hout, hclean, hmeta, hhere, ⟨hbad, hplat, hkey⟩, hepoch⟩ := hprev
    have hmetas : t.hbmMeta = s.hbmMeta := (congrArg State.hbmMeta h.rest :)
    refine ⟨(h.inWreg _).trans hout, ?_, hmetas ▸ hmeta, ?_, ⟨?_, ?_, ?_⟩, ?_⟩ <;> rw [hgran]
    · exact hclean
    · exact hhere
    · exact hbad
    · exact hplat
    · exact hkey.trans hgen.symm
    · exact hepoch.trans (h.rd _ _).symm
  have hseal : t.resealed (a + k) = s.resealed (a + k) := by rw [State.resealed, State.resealed, hgran, hgen, h.rd]
  rw [sweepGran_prev hprevt ((congrArg State.injs h.rest :).trans hi), hseal]
  have hother (g : Nat) (hne : g ≠ a + k) : ((t.sweepRead (a + k)).setGran (a + k) (s.resealed (a + k))).gran g = t.gran g :=
    (gran_setGran_other _ _ _ _ hne).trans (gran_setGran_other _ _ _ _ hne)
  refine ⟨h.regs.trans (sweepRead_regs t (a + k)), h.rest, fun g hlo hhi hout => ?_, fun g hne => ?_⟩
  · by_cases e : g = a + k
    · rw [e]
      exact gran_setGran_same _ _ _
    · rw [hother g e]
      exact h.done g hlo (by omega) hout
  · have e : g ≠ a + k := fun e => hne ⟨by omega, by omega, e ▸ hprev.out⟩
    rw [hother g e]
    exact h.others g fun ⟨hlo, hhi, hout⟩ => hne ⟨hlo, by omega, hout⟩

theorem sweepGran_loop (hi : s.injs = []) (hg : ∀ i < k, s.inWreg ((a + i) * 128) = true ∨ UnderPrev s (a + i)) :
    Swept s a k (loop k s (fun t i => t.sweepGran (a + i))) := by
  induction k with
  | zero => exact Swept.refl s a
  | succ k ih =>
    rw [loop_succ]
    exact (ih fun i hk => hg i (by omega)).step hi (hg k (by omega))

/-- The state after stack p's sweep of segment n, where the granules have come to `t`. -/
def State.sweepCounted (t : State) (p n wait : Nat) : State :=
  let u := (t.bumpBy R.KEY_SWEEP_STAT.LOCK_WAIT 0 wait).modKey (fun x => { x with sweep := mset 0 x.sweep p (n + 1) })
  if n + 1 = segments then u.wr R.KEY_SWEEP_STAT.STACKS_DONE 0 (setBit (u.rd R.KEY_SWEEP_STAT.STACKS_DONE 0) p true) else u

theorem execSweepSegment_sweeps (h : Sweeps s p n) : execSweepSegment p wait none s =
    .next ((loop 12 s (fun t i => t.sweepGran (segGran p n + i))).sweepCounted p n wait) := by
  obtain ⟨hbusy, ⟨hp, hon⟩, ⟨hn, hlt⟩, -, -⟩ := h
  unfold execSweepSegment
  rw [hn]
  refine congrArg Host.Outcome.next ((if_neg (by rw [hbusy]; decide)).trans (if_neg ?_))
  simp [Nat.not_le.mpr hp, hon, Nat.not_le.mpr hlt]

theorem sweepCounted_gran (t : State) (p n wait g : Nat) : (t.sweepCounted p n wait).gran g = t.gran g := by
  unfold State.sweepCounted
  dsimp only
  split <;> rfl

theorem sweepCounted_sweep (t : State) (p n wait : Nat) : mget 0 (t.sweepCounted p n wait).key.sweep p = n + 1 := by
  unfold State.sweepCounted
  dsimp only
  split <;> exact mget_mset_same _ _ _ _

theorem sweepCounted_lockWait (t : State) (p n wait : Nat) : (t.sweepCounted p n wait).rd R.KEY_SWEEP_STAT.LOCK_WAIT 0 =
    min (t.rd R.KEY_SWEEP_STAT.LOCK_WAIT 0 + wait) (2 ^ R.KEY_SWEEP_STAT.LOCK_WAIT.wd - 1) := by
  have h := rd_bumpBy_same t R.KEY_SWEEP_STAT.LOCK_WAIT 0 wait (by decide)
  unfold State.sweepCounted
  dsimp only
  split
  · rw [rd_wr_apart _ _ _ _ _ _ (by decide)]
    exact h
  · exact h

theorem sweepCounted_stacksDone (t : State) (p n wait : Nat) : (t.sweepCounted p n wait).rd R.KEY_SWEEP_STAT.STACKS_DONE 0 =
    if n + 1 = segments then setBit (t.rd R.KEY_SWEEP_STAT.STACKS_DONE 0) p true % 2 ^ R.KEY_SWEEP_STAT.STACKS_DONE.wd
    else t.rd R.KEY_SWEEP_STAT.STACKS_DONE 0 := by
  have h : (t.bumpBy R.KEY_SWEEP_STAT.LOCK_WAIT 0 wait).rd R.KEY_SWEEP_STAT.STACKS_DONE 0 = t.rd R.KEY_SWEEP_STAT.STACKS_DONE 0 :=
    rd_bumpBy_apart _ _ _ _ _ _ (by decide)
  unfold State.sweepCounted
  dsimp only
  split
  · rw [rd_wr_same _ _ _ _ (by decide)]
    exact congrArg (fun m => setBit m p true % _) h
  · exact h

/-- A sweep of a segment: its granules stand under the current set, and the waits for its lock are counted. -/
theorem execSweepSegment_seals (h : Sweeps s p n) : ∃ t, execSweepSegment p wait none s = .next t ∧ mget 0 t.key.sweep p = n + 1 ∧
    t.rd R.KEY_SWEEP_STAT.LOCK_WAIT 0 = min (s.rd R.KEY_SWEEP_STAT.LOCK_WAIT 0 + wait) (2 ^ R.KEY_SWEEP_STAT.LOCK_WAIT.wd - 1) ∧
    t.rd R.KEY_SWEEP_STAT.STACKS_DONE 0 =
      (if n + 1 = segments then setBit (s.rd R.KEY_SWEEP_STAT.STACKS_DONE 0) p true % 2 ^ R.KEY_SWEEP_STAT.STACKS_DONE.wd
       else s.rd R.KEY_SWEEP_STAT.STACKS_DONE 0) ∧
    ∀ g, (segGran p n ≤ g ∧ g < segGran p n + 12 ∧ s.inWreg (g * 128) = false → Resealed s g t) ∧
      (¬ (segGran p n ≤ g ∧ g < segGran p n + 12 ∧ s.inWreg (g * 128) = false) → t.gran g = s.gran g) := by
  have k := sweepGran_loop h.slots h.grans
  refine ⟨_, execSweepSegment_sweeps h, sweepCounted_sweep _ _ _ _, ?_, ?_, fun g => ⟨fun ⟨hlo, hhi, hout⟩ => ?_, fun hne => ?_⟩⟩
  · rw [sweepCounted_lockWait, k.rd]
  · rw [sweepCounted_stacksDone, k.rd]
  · have hprev : UnderPrev s g := by
      obtain ⟨i, rfl⟩ := Nat.exists_eq_add_of_le hlo
      rcases h.grans i (by omega) with hreg | hprev
      · rw [hreg] at hout; cases hout
      · exact hprev
    exact resealed_of_gran hprev ((sweepCounted_gran _ _ _ _ _).trans (k.done g hlo hhi hout))
  · rw [sweepCounted_gran]
    exact k.others g hne

end Sys2Proof.Machine
end
section
/-! The end of a release's scrub (18_tenancy_and_management.md R502, R504, R507): every face's memories are empty, HBM holds only the weight region, and
the session is CLEAN. -/
namespace Sys2Proof.Machine
open Sys2Proof.Claims

variable {s t u : State} {f k v : Nat}

/-! ### The faces (R502 step 6) -/

/-- A face's scratchpad, caches and STATS hold nothing. -/
def Face.emptied (x : Face) : Prop := x.pad = [] ∧ x.written = [] ∧ x.cache = [] ∧ x.stats = []

/-- Of all that `s` holds, `t` has changed at most the faces, and registers of `rs`. -/
structure FacesBeside (rs : List RegId) (s t : State) : Prop where
  regs : RegsBeside rs s t
  rest : { t with regs := s.regs, faces := s.faces } = s

theorem FacesBeside.refl (rs : List RegId) (s : State) : FacesBeside rs s s := ⟨RegsBeside.refl _ _, rfl⟩

theorem FacesBeside.trans {rs : List RegId} (h : FacesBeside rs s t) (k : FacesBeside rs t u) : FacesBeside rs s u :=
  ⟨h.regs.trans k.regs, by
    have e := h.rest
    rw [← k.rest] at e
    exact e⟩

theorem FacesBeside.of_regs {rs : List RegId} (h : RegsBeside rs s t) (hr : { t with regs := s.regs } = s) : FacesBeside rs s t :=
  ⟨h, (congrArg (fun u : State => { u with faces := s.faces }) hr :)⟩

theorem FacesBeside.wr {rs : List RegId} {g : Fld} {i : Nat} (h : FacesBeside rs s t) (hg : g.reg ∈ rs := by decide) :
    FacesBeside rs s (t.wr g i v) := ⟨h.regs.wr hg, h.rest⟩

theorem FacesBeside.modFace {rs : List RegId} {g : Face → Face} (h : FacesBeside rs s t) : FacesBeside rs s (t.modFace f g) := ⟨h.regs, h.rest⟩

theorem face_of_rest (h : { t with regs := s.regs } = s) (g : Nat) : t.face g = s.face g := (congrArg (fun u : State => u.face g) h :)

/-- The registers that the clearing of a face writes: counts of invalidated lines, and what its fine engine holds. -/
def clearRegs : List RegId := [.SPD_CACHE_STAT, .ARF_SPALL]

theorem unload_beside (s : State) (f : Nat) : RegsBeside [.ARF_SPALL] s (s.unload f) ∧ { s.unload f with regs := s.regs } = s := by
  unfold State.unload
  refine List.foldlRecOn (motive := fun t : State => RegsBeside [.ARF_SPALL] s t ∧ { t with regs := s.regs } = s) _ _ ⟨RegsBeside.refl _ _, rfl⟩
    fun t ⟨hregs, hrest⟩ e _ => ?_
  dsimp only
  split
  · exact ⟨hregs.wr, hrest⟩
  · exact ⟨hregs, hrest⟩

theorem unload_face (s : State) (f g : Nat) : (s.unload f).face g = s.face g := face_of_rest (unload_beside s f).2 g

/-- What a release leaves of a face's memories: nothing, and of the tables of its fine engine what `keep` says. -/
def Face.wiped (x : Face) (keep : Bool) : Face :=
  { x.dropLines (fun _ => true) with stats := [], fineLive := if keep then x.fineLive else [] }

/-- Step 6 of a release on face f. -/
def State.clearFace (keep : Bool) (u : State) (f : Nat) : State := ((u.cacheClear f).unload f).modFace f (fun x => x.wiped keep)

theorem clearFace_emptied (keep : Bool) (u : State) (f : Nat) : ((u.clearFace keep f).face f).emptied := by
  have hdrop {α : Type} (m : SMap α) : mdrop (fun _ => true) m = [] := by simp [mdrop]
  have hcache : ((u.cacheClear f).face f).cache = [] := by
    rw [State.cacheClear, State.invalidated, face_bumpBy, face_modFace_same, face_modFace_same]
  rw [State.clearFace, face_modFace_same, unload_face]
  exact ⟨hdrop _, hdrop _, hcache, rfl⟩

theorem clearFace_other (keep : Bool) (u : State) (f : Nat) {g : Nat} (h : g ≠ f) : (u.clearFace keep f).face g = u.face g := by
  rw [State.clearFace, face_modFace_other _ _ _ _ h, unload_face, State.cacheClear, State.invalidated, face_bumpBy, face_modFace_other _ _ _ _ h,
    face_modFace_other _ _ _ _ h]

theorem clearFace_beside (keep : Bool) (u : State) (f : Nat) : FacesBeside clearRegs u (u.clearFace keep f) := by
  have hcache : FacesBeside clearRegs u (u.cacheClear f) := (FacesBeside.refl _ u).modFace.modFace.wr
  obtain ⟨hregs, hrest⟩ := unload_beside (u.cacheClear f) f
  exact (hcache.trans (.of_regs (hregs.mono (by decide)) hrest)).modFace

/-- Clearing faces 0 to k - 1 leaves them empty. -/
theorem clearFace_loop (keep : Bool) (s : State) (k : Nat) :
    FacesBeside clearRegs s (loop k s (State.clearFace keep)) ∧ ∀ f < k, ((loop k s (State.clearFace keep)).face f).emptied := by
  induction k with
  | zero => exact ⟨FacesBeside.refl _ s, fun _ h => by omega⟩
  | succ k ih =>
    rw [loop_succ]
    refine ⟨ih.1.trans (clearFace_beside keep _ k), fun f hf => ?_⟩
    by_cases e : f = k
    · rw [e]
      exact clearFace_emptied _ _ _
    · rw [clearFace_other _ _ _ e]
      exact ih.2 f (by omega)

theorem putBack_unstaged {b : Bool} (h : s.rd R.PLT_WIMG_STATE.STATE 0 ≠ 2) : s.putBack b = s := by
  unfold State.putBack
  split
  · rfl
  · exact if_pos h

/-- With no image STAGED every face is empty after step 6 (R505). -/
theorem releaseFaces_empty (h : s.rd R.PLT_WIMG_STATE.STATE 0 ≠ 2) :
    FacesBeside clearRegs s s.releaseFaces ∧ ∀ f < s.nFaces, (s.releaseFaces.face f).emptied := by
  have hall := clearFace_loop (decide (s.rd R.PLT_WIMG_STATE.STATE 0 = 2)) s s.nFaces
  have heq : s.releaseFaces = loop s.nFaces s (State.clearFace (decide (s.rd R.PLT_WIMG_STATE.STATE 0 = 2))) :=
    putBack_unstaged (fun e => h ((hall.1.regs.rd R.PLT_WIMG_STATE.STATE 0).symm.trans e))
  rw [heq]
  exact hall

/-! ### The session is CLEAN (R502 step 7) -/

/-- The state and step that the end of a release shows. -/
def State.sessionClean (s : State) : State := ((s.wr R.KEY_SESSION.STATE 0 0).wr R.KEY_SESSION.DONE 0 1).wr R.KEY_SESSION.STEP 0 7

/-- What the end of a release tells the host (R502). -/
def State.releaseTold (s : State) : List Out := if s.rd R.KEY_SESSION_CTL.IRQ 0 = 1 then [.msix 0 (s.rd R.KEY_SESSION_CTL.VECTOR 0)] else []

/-- The end of a release, but for a move of the lifecycle that waited for it. -/
def State.releaseShown (s : State) : State := { s.sessionClean with out := s.out ++ s.releaseTold }

theorem sessionClean_rest (s : State) : { s.sessionClean with regs := s.regs } = s := by
  unfold State.sessionClean State.wr State.setReg
  rfl

theorem releaseShown_rest (s : State) : { s.releaseShown with regs := s.regs, key := s.key, out := s.out } = s :=
  (congrArg (fun t : State => { t with key := s.key, out := s.out }) (sessionClean_rest s) :)

theorem sessionClean_beside (s : State) : RegsBeside [.KEY_SESSION] s s.sessionClean := ((RegsBeside.refl _ s).wr.wr).wr

theorem releaseShown_eq (s : State) : (if s.sessionClean.rd R.KEY_SESSION_CTL.IRQ 0 = 1 then
    s.sessionClean.msix 0 (s.sessionClean.rd R.KEY_SESSION_CTL.VECTOR 0) else s.sessionClean) = s.releaseShown := by
  rw [(sessionClean_beside s).rd R.KEY_SESSION_CTL.IRQ, (sessionClean_beside s).rd R.KEY_SESSION_CTL.VECTOR, State.releaseShown, State.releaseTold]
  split
  · rfl
  · rw [List.append_nil]
    rfl

theorem releaseEnd_none (h : s.key.after = none) : s.releaseEnd = s.releaseShown := by
  have hk : s.releaseShown.key.after = none := h
  unfold State.releaseEnd
  simp only [← State.sessionClean.eq_1, releaseShown_eq, hk]

theorem releaseEnd_some (h : s.key.after = some v) :
    s.releaseEnd = (s.releaseShown.setLife v).modKey (fun x => { x with after := none }) := by
  have hk : s.releaseShown.key.after = some v := h
  unfold State.releaseEnd
  simp only [← State.sessionClean.eq_1, releaseShown_eq, hk]

theorem modKey_rd (s : State) (h : KeyWork → KeyWork) (g : Fld) (i : Nat) : (s.modKey h).rd g i = s.rd g i := rfl

theorem setLife_rest (s : State) (v : Nat) : { s.setLife v with regs := s.regs } = s := by
  unfold State.setLife State.resetRegs State.wr State.setReg
  rfl

theorem setLife_rd (s : State) (v : Nat) (g : Fld) (i : Nat) (h : g.reg ∉ [RegId.PLT_LIFECYCLE, .PLT_DBG_DATA] := by decide) :
    (s.setLife v).rd g i = s.rd g i := by
  obtain ⟨hlife, hdata⟩ : g.reg ≠ .PLT_LIFECYCLE ∧ g.reg ≠ .PLT_DBG_DATA := by simpa using h
  rw [State.setLife, State.rd, reg_resetRegs _ _ _ _ (by simpa using hdata)]
  exact ((RegsBeside.refl [.PLT_LIFECYCLE] s).wr.wr).rd g i (by simpa using hlife)

theorem setLife_state (s : State) (v : Nat) : (s.setLife v).rd R.PLT_LIFECYCLE.STATE 0 = v % 2 ^ R.PLT_LIFECYCLE.STATE.wd := by
  rw [State.setLife, State.rd, reg_resetRegs _ _ _ _ (by decide)]
  exact (rd_wr_apart _ _ _ _ _ _ (by decide)).trans (rd_wr_same _ _ _ _ (by decide))

/-! ### RELEASE_SCRUB_DONE -/

theorem scrubInject_idle (h : ∀ i < 8, s.rd R.FLT_INJ_CTL.DETECTOR i ≠ Det.scrubFail.row.1) : s.scrubInject = s :=
  loop_idle fun i hi => if_neg (h i hi)

/-- The state before step 7, where every segment's read-back was good. -/
def State.scrubbed (s : State) : State := ((s.scrubHbm.wr R.KEY_SESSION.STEP 0 5).releaseFaces).wr R.KEY_SESSION.STEP 0 6

theorem execReleaseScrubDone_ends (h : Scrubbing s) : execReleaseScrubDone [] s = .next s.scrubbed.releaseEnd := by
  refine congrArg Host.Outcome.next ((if_neg (not_not_intro h.state)).trans ?_)
  rw [List.foldl_nil, scrubInject_idle (s := s.scrubHbm) h.slots]
  rfl

/-- Before step 7 the faces are empty, HBM holds only its weight region, and only steps of the session and counts of the faces have changed beside. -/
structure ScrubDone (s t : State) : Prop where
  faces : ∀ f < s.nFaces, (t.face f).emptied
  hbm : t.hbm = s.hbm.filter (fun e => s.inWreg (e.1 * 128))
  regs : RegsBeside (.KEY_SESSION :: clearRegs) s t
  key : t.key = s.key
  out : t.out = s.out

theorem scrubDone_scrubbed (h : Scrubbing s) : ScrubDone s s.scrubbed := by
  have hstart : RegsBeside [.KEY_SESSION] s (s.scrubHbm.wr R.KEY_SESSION.STEP 0 5) := (RegsBeside.refl _ s).wr
  have himage : (s.scrubHbm.wr R.KEY_SESSION.STEP 0 5).rd R.PLT_WIMG_STATE.STATE 0 ≠ 2 := by rw [hstart.rd R.PLT_WIMG_STATE.STATE]; exact h.image
  obtain ⟨⟨hregs, hrest⟩, hempty⟩ := releaseFaces_empty himage
  rw [State.nFaces, hstart.rd R.PLT_CAP_FACES.COUNT] at hempty
  exact ⟨hempty, (congrArg State.hbm hrest :), ((hstart.mono (by decide)).trans (hregs.mono (by decide))).wr, (congrArg State.key hrest :),
    (congrArg State.out hrest :)⟩

/-- A state with the faces, HBM, session and outputs of the end of a release. -/
theorem scrubbed_of (h : ScrubDone s u) (he : { t with regs := u.regs, key := u.key, out := u.out } = u) (ho : t.out = u.releaseShown.out)
    (hr : ∀ g : Fld, g.reg = .KEY_SESSION → t.rd g 0 = u.releaseShown.rd g 0) : Scrubbed s t := by
  refine ⟨⟨?_, ?_, ?_⟩, fun f hlt => ?_, Eq.trans (congrArg State.hbm he :) h.hbm, ?_⟩
  · refine (hr _ rfl).trans ((rd_wr_apart _ _ _ _ _ _ (by decide)).trans ((rd_wr_apart _ _ _ _ _ _ (by decide)).trans ?_))
    exact rd_wr_same _ _ _ _ (by decide)
  · exact (hr _ rfl).trans ((rd_wr_apart _ _ _ _ _ _ (by decide)).trans (rd_wr_same _ _ _ _ (by decide)))
  · exact (hr _ rfl).trans (rd_wr_same _ _ _ _ (by decide))
  · rw [show t.face f = u.face f from (congrArg (fun x : State => x.face f) he :)]
    exact h.faces f hlt
  · rw [ho, State.releaseShown, State.releaseTold, h.out, h.regs.rd R.KEY_SESSION_CTL.IRQ, h.regs.rd R.KEY_SESSION_CTL.VECTOR]

theorem execReleaseScrubDone_none (h : Scrubbing s) (hk : s.key.after = none) : ∃ t, execReleaseScrubDone [] s = .next t ∧ Scrubbed s t ∧
    t.key = s.key ∧ t.rd R.PLT_LIFECYCLE.STATE 0 = s.rd R.PLT_LIFECYCLE.STATE 0 := by
  have hd := scrubDone_scrubbed h
  have hends := execReleaseScrubDone_ends h
  generalize s.scrubbed = u at hd hends
  rw [releaseEnd_none (hd.key ▸ hk)] at hends
  exact ⟨_, hends, scrubbed_of hd (releaseShown_rest u) rfl (fun _ _ => rfl), hd.key, ((sessionClean_beside u).rd _ _).trans (hd.regs.rd _ _)⟩

/-- A move of the lifecycle that waited for the release follows it (R507). -/
theorem execReleaseScrubDone_some (h : Scrubbing s) (hk : s.key.after = some v) : ∃ t, execReleaseScrubDone [] s = .next t ∧ Scrubbed s t ∧
    t.key = { s.key with after := none } ∧ t.rd R.PLT_LIFECYCLE.STATE 0 = v % 2 ^ R.PLT_LIFECYCLE.STATE.wd := by
  have hd := scrubDone_scrubbed h
  have hends := execReleaseScrubDone_ends h
  generalize s.scrubbed = u at hd hends
  rw [releaseEnd_some (hd.key ▸ hk)] at hends
  have hlife := setLife_rest u.releaseShown v
  refine ⟨_, hends, scrubbed_of hd ?_ ?_ fun g hg => ?_, ?_, ?_⟩
  · exact Eq.trans (congrArg (fun x : State => { x with regs := u.regs, key := u.key, out := u.out }) hlife :) (releaseShown_rest u)
  · exact (congrArg State.out hlife :)
  · rw [modKey_rd]
    exact setLife_rd _ v g 0 (by rw [hg]; decide)
  · have hkey : (u.releaseShown.setLife v).key = u.key := (congrArg State.key hlife :)
    rw [State.modKey, hkey, hd.key]
  · rw [modKey_rd]
    exact setLife_state _ v

theorem execReleaseScrubDone_idle (h : s.rd R.KEY_SESSION.STATE 0 ≠ 4) (failed : List (Nat × Nat)) :
    execReleaseScrubDone failed s = .next s := congrArg Host.Outcome.next (if_pos h)

end Sys2Proof.Machine
end

section
open Sys2Proof Sys2Proof.Machine Sys2Proof.Claims

/-- Settles O58: each clause is the lemma of its command.  Choices of the model: a release may be asked for while the session is CLEAN (log entry 61), and
the end of a scrub that is not running leaves the state as it is (log entry 11). -/
theorem keyResults : Obligations.KeyResults := by
  unfold Obligations.KeyResults
  intro s
  refine ⟨fun f line h => ⟨execSpPatrol_clean h, fun k w p hk hw hp hc => ?_⟩,
    fun p seg h => ⟨execHbmPatrol_clean h, fun k w g x y r hk hw hg hc hx hy hwords hr => ?_⟩,
    fun st hst => ?_, fun p n wait h => execSweepSegment_seals h, fun st life hst hlife => ?_, fun st hst => ?_,
    fun h => ⟨execReleaseScrubDone_none h, fun v hv => execReleaseScrubDone_some h hv⟩, execReleaseScrubDone_idle⟩
  · subst hw
    exact ⟨fun r hr => execSpPatrol_fixed h hk hc hp hr, fun e hr hs he hrec => execSpPatrol_bad h hk hc hp hr hs he hrec,
      fun hr hs => execSpPatrol_seen h hk hc (hp ▸ hr) (hp ▸ hs)⟩
  · subst hx hy
    exact execHbmPatrol_fixed h hk hw hg hc hwords hr
  · subst hst
    exact ⟨fun h hp ht => ⟨_, execRotate_waits h hp ht, rfl, rfl⟩, execRotate_busy, execRotate_closed, execRotate_releasing⟩
  · subst hst hlife
    exact ⟨execSessionOpen_waits, execSessionOpen_unfit, execSessionOpen_open, execSessionOpen_releasing⟩
  · subst hst
    refine ⟨fun h hpast ht => ⟨_, execSessionRelease_waits (releaseReason_allowed h hpast) ht, rfl, fun hn => ?_, fun k hk => ?_⟩,
      fun h hat hpast ht => ⟨_, execSessionRelease_refused (releaseReason_past h hat hpast ht) (by decide), keyRefused_wr s _ _ 4⟩,
      fun h => ⟨_, execSessionRelease_refused (releaseReason_releasing h) (by decide), keyRefused_wr s _ _ 3⟩⟩
    · rw [State.modKey, KeyWork.releaseAt, hn]
    · rw [State.modKey, KeyWork.releaseAt, hk]
end
section
/-! Instructions of the programming model (08_ifeom_programming_model.md, 09_ifeom_control_and_movement.md R264, R266): what issues at all, the scalar
results, the range registers, the return from a handler, and the traps of an engine instruction at its unit. -/
namespace Sys2Proof.Machine
open Sys2Proof.Claims

variable {s t : State} {f : Nat} {w : IWord} {m : Form} {body : State → Face → Done}

/-! ### What issues -/

/-- Every Ifeom instruction is the issue of its words on its face. -/
theorem exec_issue {i : Instr} (h : ifeomForm i = some (f, w, m)) : ∃ body, exec i s = .next (issue s f w m body) := by
  cases i <;> cases h <;> exact ⟨_, rfl⟩

theorem issue_idle (h : (s.face f).run ≠ .issuing) (w : IWord) (m : Form) (body : State → Face → Done) : issue s f w m body = s := if_pos (.inl h)

/-- An instruction that traps before any effect takes the trap at its address. -/
theorem issue_faultTrap {v target : Nat} {info : Word} (h : Issues s f w m) (hb : body (s.fetched f m) (s.face f) = .trap v info)
    (hh : (s.face f).handler ≠ .fault) (hv : (s.face f).vector v = some target) : FaultTrap s f v info target (issue s f w m body) := by
  rw [issue_eq h, hb]
  exact faultTrap_trapFault rfl (fetched_rd _ _ _ _ _ (by decide)) h.run hh hv

/-- Recording traps that are not taken leaves the faces, and every field but those of logging. -/
theorem foldl_trapRecord (u : State) (f pc : Nat) (rest : List (Nat × Word)) :
    (rest.foldl (fun u r => u.trapRecord f r.1 r.2 pc) u).faces = u.faces ∧
      ∀ g i, g.reg ≠ .FLT_INJ_CTL → g.reg ≠ .FLT_STATUS → (rest.foldl (fun u r => u.trapRecord f r.1 r.2 pc) u).rd g i = u.rd g i := by
  induction rest generalizing u with
  | nil => exact ⟨rfl, fun _ _ _ _ => rfl⟩
  | cons r rest ih =>
    obtain ⟨hfaces, hrd⟩ := ih (u.trapRecord f r.1 r.2 pc)
    exact ⟨hfaces.trans (raise_faces _ _), fun g i hi hs => (hrd g i hi hs).trans (raise_rd _ _ _ _ hi hs)⟩

/-- Of several traps of an instruction the first is taken (R251). -/
theorem issue_faultTraps {v target : Nat} {info : Word} {rest : List (Nat × Word)} (h : Issues s f w m)
    (hb : body (s.fetched f m) (s.face f) = .traps v info rest) (hh : (s.face f).handler ≠ .fault) (hv : (s.face f).vector v = some target) :
    FaultTrap s f v info target (issue s f w m body) := by
  obtain ⟨hfaces, hrd⟩ := foldl_trapRecord (s.fetched f m) f (s.face f).pc rest
  rw [issue_eq h, hb]
  exact faultTrap_trapFault hfaces ((hrd _ _ (by decide) (by decide)).trans (fetched_rd _ _ _ _ _ (by decide))) h.run hh hv

/-- An instruction that leaves its face as `x` and does no more. -/
theorem retires_setFace (s : State) (f : Nat) (m : Form) (x : Face) :
    Retires s f m x (((s.fetched f m).setFace f x).bump R.FCE_ISSUE_STAT.ISSUED f) := by
  refine ⟨Counted.of (u := (s.fetched f m).setFace f x) ?_ rfl (fun _ _ => rfl), ?_, ?_⟩
  · exact rd_wr_reg _ _ _ _ _ _ (by decide)
  · rw [face_bump, face_setFace_same]
  · refine Frame.bump (Frame.setFace (Frame.bumpBy (Frame.refl _ _ _) ?_) ?_) ?_ <;> simp [issueFields]

/-! ### Scalar arithmetic (R264) -/

/-- A write of a scalar register leaves the program counter, and commutes with a change of it. -/
theorem setS_pc (x : Face) (i : Nat) (v : Word) (n : Nat) : { x.setS i v with pc := (x.setS i v).pc + n } = { x.setS i v with pc := x.pc + n } := by
  unfold Face.setS
  split <;> rfl

theorem issueRD_setsRD (h : Issues s f w m) (v : Face → Word) : setsRD s f w m (v (s.face f)) (issueRD s f w m v) := by
  rw [issueRD, issue_next h rfl]
  exact retires_of _ _ _ (setS_pc _ _ _ (m.len + 1)).symm

theorem add_eq_ofNat (a b : Word) : a + b = BitVec.ofNat 64 (a.toNat + b.toNat) := by
  rw [BitVec.ofNat_add, BitVec.ofNat_toNat, BitVec.ofNat_toNat, BitVec.setWidth_eq, BitVec.setWidth_eq]

theorem mul_eq_ofNat (a b : Word) : a * b = BitVec.ofNat 64 (a.toNat * b.toNat) := by
  rw [BitVec.ofNat_mul, BitVec.ofNat_toNat, BitVec.ofNat_toNat, BitVec.setWidth_eq, BitVec.setWidth_eq]

theorem sub_eq_ofInt (a b : Word) : a - b = BitVec.ofInt 64 (a.toNat - b.toNat) := by
  refine BitVec.eq_of_toNat_eq ?_
  rw [BitVec.toNat_sub, BitVec.toNat_ofInt]
  omega

theorem opShl_eq (a b : Word) : opShl a b = BitVec.ofNat 64 (a.toNat * 2 ^ (b.toNat % 64)) := by
  refine BitVec.eq_of_toNat_eq ?_
  rw [opShl, BitVec.toNat_shiftLeft, Nat.shiftLeft_eq, BitVec.toNat_ofNat]

theorem opShr_eq (a b : Word) : opShr a b = BitVec.ofNat 64 (a.toNat / 2 ^ (b.toNat % 64)) := by
  refine BitVec.eq_of_toNat_eq ?_
  rw [opShr, BitVec.toNat_ushiftRight, Nat.shiftRight_eq_div_pow, BitVec.toNat_ofNat,
    Nat.mod_eq_of_lt (Nat.lt_of_le_of_lt (Nat.div_le_self _ _) a.isLt)]

theorem opSra_eq (a b : Word) : opSra a b = BitVec.ofInt 64 (a.toInt / 2 ^ (b.toNat % 64)) := by
  rw [opSra, BitVec.sshiftRight, Int.shiftRight_eq_div_pow]
  norm_cast

/-- A choice by `<` and one by `≤` differ for equal keys alone, where they choose between equals. -/
theorem ite_lt_eq_ite_le {α β : Type} [LinearOrder β] {x y : β} {p q : α} (h : x = y → p = q) :
    (if x < y then p else q) = if x ≤ y then p else q := by
  rcases lt_trichotomy x y with hlt | heq | hgt
  · rw [if_pos hlt, if_pos hlt.le]
  · rw [if_neg heq.not_lt, if_pos heq.le, h heq]
  · rw [if_neg hgt.not_gt, if_neg hgt.not_ge]

theorem opMin_eq (a b : Word) : opMin a b = if a.toInt ≤ b.toInt then a else b := by
  simp only [opMin, BitVec.slt_eq_decide, decide_eq_true_eq]
  exact ite_lt_eq_ite_le BitVec.eq_of_toInt_eq

theorem opMax_eq (a b : Word) : opMax a b = if a.toInt ≤ b.toInt then b else a := by
  simp only [opMax, BitVec.slt_eq_decide, decide_eq_true_eq]
  exact ite_lt_eq_ite_le fun h => (BitVec.eq_of_toInt_eq h).symm

theorem opMinu_eq (a b : Word) : opMinu a b = if a.toNat ≤ b.toNat then a else b := by
  simp only [opMinu, BitVec.ult_eq_decide, decide_eq_true_eq]
  exact ite_lt_eq_ite_le BitVec.eq_of_toNat_eq

theorem opMaxu_eq (a b : Word) : opMaxu a b = if a.toNat ≤ b.toNat then b else a := by
  simp only [opMaxu, BitVec.ult_eq_decide, decide_eq_true_eq]
  exact ite_lt_eq_ite_le fun h => (BitVec.eq_of_toNat_eq h).symm

/-- A row of the table of R264: where the register form and the immediate form, if there is one, compute `g`, and `g` is the row's result, both have
that result. -/
theorem scalarRow_of {reg : Nat → IWord → Instr} {imm : Option (Nat → IWord → Instr)} {op : Nat} {g result : Word → Word → Word}
    (hreg : ∀ f w s, exec (reg f w) s = .next (issueRD s f w (formRRR op) (fun x => g (vRA x w) (vRB x w))))
    (himm : ∀ c ∈ imm, ∀ f w s, exec (c f w) s = .next (issueRD s f w (formRRI (op + 0x40)) (fun x => g (vRA x w) (imm16 w))))
    (hg : ∀ a b, g a b = result a b) (f : Nat) (w : IWord) (s : State) :
    (Issues s f w (formRRR op) → ∃ t, exec (reg f w) s = .next t ∧
      setsRD s f w (formRRR op) (result ((s.face f).sreg (fRA w)) ((s.face f).sreg (fRB w))) t) ∧
    (∀ c ∈ imm, Issues s f w (formRRI (op + 0x40)) → ∃ t, exec (c f w) s = .next t ∧
      setsRD s f w (formRRI (op + 0x40)) (result ((s.face f).sreg (fRA w)) ((w.ops.extractLsb' 16 16).signExtend 64)) t) := by
  simp only [← hg]
  exact ⟨fun h => ⟨_, hreg f w s, issueRD_setsRD h fun x => g (vRA x w) (vRB x w)⟩,
    fun c hc h => ⟨_, himm c hc f w s, issueRD_setsRD h fun x => g (vRA x w) (imm16 w)⟩⟩

/-- A row with both forms. -/
theorem scalarRow {reg imm : Nat → IWord → Instr} {op : Nat} {g result : Word → Word → Word}
    (hreg : ∀ f w s, exec (reg f w) s = .next (issueRD s f w (formRRR op) (fun x => g (vRA x w) (vRB x w))))
    (himm : ∀ f w s, exec (imm f w) s = .next (issueRD s f w (formRRI (op + 0x40)) (fun x => g (vRA x w) (imm16 w))))
    (hg : ∀ a b, g a b = result a b) (f : Nat) (w : IWord) (s : State) :
    (Issues s f w (formRRR op) → ∃ t, exec (reg f w) s = .next t ∧
      setsRD s f w (formRRR op) (result ((s.face f).sreg (fRA w)) ((s.face f).sreg (fRB w))) t) ∧
    (∀ c ∈ some imm, Issues s f w (formRRI (op + 0x40)) → ∃ t, exec (c f w) s = .next t ∧
      setsRD s f w (formRRI (op + 0x40)) (result ((s.face f).sreg (fRA w)) ((w.ops.extractLsb' 16 16).signExtend 64)) t) :=
  scalarRow_of hreg (fun _ hc => Option.some.inj hc ▸ himm) hg f w s

/-! ### Range setup (R236, R266) -/

/-- A range within the limits of R266 is written. -/
theorem setRange_ok {base len groups : Nat} (h : RangeOk base len groups) (u : State) (f ad : Nat) :
    setRange u f ad base len groups false = .next (u.modFace f (fun y => y.setA ad (rangeImage base len groups))) := by
  obtain ⟨hpos, hlen, hend, hgroups⟩ := h
  have hlimit : rangeLimitFault base len = false := by
    rw [rangeLimitFault, decide_eq_false_iff_not]
    omega
  have hgroup : rangeGroupFault base len groups = false := by
    rw [rangeGroupFault, List.any_eq_false]
    intro g hg hbad
    rw [Bool.and_eq_true, Bool.not_eq_true', bit_eq_testBit, meet, groupLo, groupHi] at hbad
    have hout := hgroups g (List.mem_range.mp hg) hbad.1
    rw [if_neg (by omega)] at hbad
    exact absurd hbad.2 (by simp)
  rw [setRange, if_neg (by omega), hlimit, hgroup]
  rfl

theorem issue_setsRange {base len groups : Nat} (h : Issues s f w m)
    (hb : body (s.fetched f m) (s.face f) = setRange (s.fetched f m) f (fAL w) base len groups false) (hr : RangeOk base len groups) :
    setsRange s f w m base len groups (issue s f w m body) := by
  rw [issue_next h (hb.trans (setRange_ok hr _ _ _))]
  exact retires_of _ _ _ rfl

/-! ### RTE (R249, R250) -/

theorem issue_whole (h : Issues s f w m) (hb : body (s.fetched f m) (s.face f) = .whole t) :
    issue s f w m body = t.bump R.FCE_ISSUE_STAT.ISSUED f := by rw [issue_eq h, hb]

theorem execRte_resumes (h : Issues s f w (ctlForm 8 [])) (hh : (s.face f).handler = .warning ∨ (s.face f).handler = .software) :
    execRte f w s = .next (((s.fetched f (ctlForm 8 [])).rteResume f).bump R.FCE_ISSUE_STAT.ISSUED f) := by
  refine congrArg Host.Outcome.next (issue_whole h ?_)
  rcases hh with hh | hh <;> (rw [hh]; rfl)

/-- With nothing held, issue resumes at TPC. -/
theorem rteResume_nothing (hw : (s.face f).heldWarn = false) (hs : (s.face f).heldSoft = none) :
    s.rteResume f = s.setFace f { s.face f with handler := .none, pc := (s.face f).tpc } := by
  unfold State.rteResume
  dsimp only
  rw [hw, if_neg Bool.false_ne_true, if_neg Bool.false_ne_true, hs]

/-- A software trap that was held is delivered, where its vector is valid. -/
theorem rteResume_software {v target : Nat} {info : Word} (hw : (s.face f).heldWarn = false) (hs : (s.face f).heldSoft = some (v, info))
    (hv : (s.face f).vector v = some target) : s.rteResume f = (s.trapStat f v (s.face f).tpc).setFace f
      ({ s.face f with heldSoft := none }.enter .software v (s.face f).tpc target info) := by
  unfold State.rteResume
  dsimp only
  rw [hw, if_neg Bool.false_ne_true, if_neg Bool.false_ne_true, hs]
  dsimp only
  split
  · next u hu => rw [Option.some.inj (hu.symm.trans hv)]
  · next hu => exact nomatch hu.symm.trans hv

/-- A warning that was held is delivered first, where vector 2 is valid. -/
theorem rteResume_warning {target : Nat} (hw : (s.face f).heldWarn = true) (hv : (s.face f).vector 2 = some target) :
    s.rteResume f = ((s.bump R.FCE_TRAP_STAT.WARNINGS f).trapStat f 2 (s.face f).tpc).setFace f
      ({ s.face f with heldWarn := false }.enter .warning 2 (s.face f).tpc target (BitVec.ofNat 64 (s.hand.expiry - s.now))) := by
  unfold State.rteResume
  dsimp only
  rw [hw, if_pos rfl, if_pos rfl, hv]

theorem execRte_outside {target : Nat} (h : Issues s f w (ctlForm 8 [])) (hh : (s.face f).handler = .none) (hv : (s.face f).vector 8 = some target) :
    ∃ t, execRte f w s = .next t ∧ FaultTrap s f 8 5#64 target t :=
  ⟨_, rfl, issue_faultTrap h (by rw [hh]; rfl) (by rw [hh]; nofun) hv⟩

/-! ### The unit of an engine instruction (R233, R237, R284) -/

theorem checked_absent {unit : Nat} (causes : List (Bool × Nat)) (fail : Option RFail) (d : Done) :
    ∃ rest, checked (absentIf true unit 0) causes fail d = .traps 4 (BitVec.ofNat 64 unit) rest := ⟨_, rfl⟩

theorem checked_undeclared {cause unit : Nat} (causes : List (Bool × Nat)) (fail : Option RFail) (d : Done) :
    ∃ rest, checked (absentIf false unit 0) ((true, cause) :: causes) fail d = .traps 8 (BitVec.ofNat 64 cause) rest := ⟨_, rfl⟩

/-- An instruction whose body is the engine issue of `unit` and `need` traps where the unit is not powered or not declared.  The absent unit is tested
first, then the declaration, and the field values behind both (log entry 41). -/
theorem engineRow {i : Nat → IWord → Instr} {m : Form} {unit need : Nat} {on : State → Nat → Bool} (hon : ∀ s f, on (s.fetched f m) f = on s f)
    (hi : ∀ f w s, ∃ body, exec (i f w) s = .next (issue s f w m body) ∧ ∀ t x, ∃ bad fail q rs,
      body t x = engineIssue t f x w unit (on t f) need bad fail q rs) (f : Nat) (w : IWord) (s : State) (target : Nat)
    (h : Issues s f w m) (hh : (s.face f).handler ≠ .fault) :
    (on s f = false → (s.face f).vector 4 = some target → ∃ t, exec (i f w) s = .next t ∧ FaultTrap s f 4 (BitVec.ofNat 64 unit) target t) ∧
    (on s f = true → (s.face f).uses need = false → (s.face f).vector 8 = some target →
      ∃ t, exec (i f w) s = .next t ∧ FaultTrap s f 8 6#64 target t) := by
  obtain ⟨body, hexec, hbody⟩ := hi f w s
  obtain ⟨bad, fail, q, rs, hb⟩ := hbody (s.fetched f m) (s.face f)
  rw [engineIssue, hon] at hb
  refine ⟨fun hoff hv => ⟨_, hexec, ?_⟩, fun hoff hu hv => ⟨_, hexec, ?_⟩⟩
  · rw [hoff] at hb
    obtain ⟨rest, hrest⟩ := checked_absent _ fail _
    exact issue_faultTraps h (hb.trans hrest) hh hv
  · rw [hoff, hu] at hb
    obtain ⟨rest, hrest⟩ := checked_undeclared _ fail _
    exact issue_faultTraps h (hb.trans hrest) hh hv

/-- Each VOP is the issue of its operation code. -/
theorem exec_vop {e : (Nat → IWord → Instr) × Nat} (h : e ∈ vopOps) (f : Nat) (w : IWord) (s : State) : exec (e.1 f w) s = .next (vopIssue e.2 f w s) := by
  simp only [vopOps, List.mem_cons, List.not_mem_nil, or_false] at h
  rcases h with rfl | rfl | rfl | rfl | rfl | rfl | rfl | rfl | rfl | rfl | rfl | rfl | rfl | rfl | rfl | rfl | rfl | rfl | rfl | rfl <;> rfl

end Sys2Proof.Machine
end

section
open Sys2Proof Sys2Proof.Machine Sys2Proof.Claims

/-- Settles O10: every Ifeom instruction is an issue, which a face that is not issuing leaves undone. That its command then leaves the state as it is
is the model's choice (log entry 11). -/
theorem onlyIssuingFacesExecute : Obligations.OnlyIssuingFacesExecute := by
  unfold Obligations.OnlyIssuingFacesExecute
  intro i f w m s hi hr
  obtain ⟨body, hexec⟩ := exec_issue (s := s) hi
  rw [hexec, issue_idle hr]

/-- Settles O12, row by row of the table of R264. -/
theorem scalarResults : Obligations.ScalarResults := by
  unfold Obligations.ScalarResults scalarOps
  simp only [List.forall_mem_cons]
  refine ⟨?_, ?_, ?_, ?_, ?_, ?_, ?_, ?_, ?_, ?_, ?_, ?_, ?_, ?_, List.forall_mem_nil _⟩
  · exact scalarRow (fun _ _ _ => rfl) (fun _ _ _ => rfl) add_eq_ofNat
  · exact scalarRow (fun _ _ _ => rfl) (fun _ _ _ => rfl) sub_eq_ofInt
  · exact scalarRow (fun _ _ _ => rfl) (fun _ _ _ => rfl) (fun _ _ => rfl)
  · exact scalarRow (fun _ _ _ => rfl) (fun _ _ _ => rfl) (fun _ _ => rfl)
  · exact scalarRow (fun _ _ _ => rfl) (fun _ _ _ => rfl) (fun _ _ => rfl)
  · exact scalarRow (fun _ _ _ => rfl) (fun _ _ _ => rfl) opShl_eq
  · exact scalarRow (fun _ _ _ => rfl) (fun _ _ _ => rfl) opShr_eq
  · exact scalarRow (fun _ _ _ => rfl) (fun _ _ _ => rfl) opSra_eq
  · exact scalarRow (fun _ _ _ => rfl) (fun _ _ _ => rfl) mul_eq_ofNat
  · exact scalarRow_of (g := opMulhu) (fun _ _ _ => rfl) (fun _ h => absurd h (Option.not_mem_none _)) (fun _ _ => rfl)
  · exact scalarRow (fun _ _ _ => rfl) (fun _ _ _ => rfl) opMin_eq
  · exact scalarRow (fun _ _ _ => rfl) (fun _ _ _ => rfl) opMax_eq
  · exact scalarRow (fun _ _ _ => rfl) (fun _ _ _ => rfl) opMinu_eq
  · exact scalarRow (fun _ _ _ => rfl) (fun _ _ _ => rfl) opMaxu_eq

/-- Settles O24: what RTE comes to with nothing held, with a software trap held, with a warning held, and outside a handler. -/
theorem handlerReturn : Obligations.HandlerReturn := by
  unfold Obligations.HandlerReturn
  intro f w s h
  refine ⟨fun hh hw => ⟨fun hs => ⟨_, execRte_resumes h hh, ?_⟩, fun v info target hs hv => ⟨_, execRte_resumes h hh, ?_⟩⟩,
    fun hh hw target hv => ⟨_, execRte_resumes h hh, ?_⟩, fun hh target hv => execRte_outside h hh hv⟩
  · rw [rteResume_nothing (s := s.fetched f (ctlForm 8 [])) hw hs]
    exact retires_setFace _ _ _ _
  · rw [rteResume_software (s := s.fetched f (ctlForm 8 [])) hw hs hv]
    refine ⟨by rw [face_bump, face_setFace_same]; rfl, ?_, ?_⟩
    · rw [rd_bump_apart _ _ _ _ _ (by decide), rd_setFace, State.trapStat, rd_wr_apart _ _ _ _ _ _ (by decide), rd_wr_apart _ _ _ _ _ _ (by decide)]
      exact rd_wr_same _ _ _ _ (by decide)
    · rw [rd_bump_apart _ _ _ _ _ (by decide), rd_setFace]
      exact rd_wr_same _ _ _ _ (by decide)
  · rw [rteResume_warning (s := s.fetched f (ctlForm 8 [])) hw hv, face_bump, face_setFace_same]
    rfl

/-- Settles O27: each instruction writes the range register that its operands give. -/
theorem rangeResults : Obligations.RangeResults := by
  unfold Obligations.RangeResults
  intro f w s
  refine ⟨fun base len groups hbase hlen hgroups h hr => ⟨_, rfl, issue_setsRange h ?_ hr⟩,
    fun base len groups hbase hlen hgroups hrest h hr => ⟨_, rfl, issue_setsRange h ?_ hr⟩,
    fun src base len groups hsrc hbase hlen hgroups hfit h hr => ⟨_, rfl, issue_setsRange h ?_ hr⟩⟩
  · subst hbase hlen hgroups
    rfl
  · subst hbase hlen hgroups
    exact congrArg (setRange _ _ _ _ _ _) (decide_eq_false (not_not.mpr hrest))
  · subst hbase hlen hgroups hsrc
    exact congrArg (setRange _ _ _ _ _ _) (decide_eq_false (Nat.not_lt.mpr hfit))

/-- Settles O37: each engine instruction is an engine issue of its unit.  That cause 6 is tested before cause 2 is the model's choice (log entry 41). -/
theorem engineUnitTraps : Obligations.EngineUnitTraps := by
  unfold Obligations.EngineUnitTraps engineOps
  simp only [List.forall_mem_append, List.forall_mem_cons, List.forall_mem_map]
  refine ⟨⟨?_, ?_, ?_, ?_, ?_, ?_, List.forall_mem_nil _⟩, fun e he => ?_⟩
  · exact engineRow (fun s f => fetched_arrayOn s f f _) (fun _ _ _ => ⟨_, rfl, fun _ _ => ⟨_, _, _, _, rfl⟩⟩)
  · exact engineRow (fun s f => fetched_arrayOn s f f _) (fun _ _ _ => ⟨_, rfl, fun _ _ => ⟨_, _, _, _, rfl⟩⟩)
  · exact engineRow (fun s f => fetched_arrayOn s f f _) (fun _ _ _ => ⟨_, rfl, fun _ _ => ⟨_, _, _, _, rfl⟩⟩)
  · exact engineRow (fun s f => fetched_engOn s f f _) (fun _ _ _ => ⟨_, rfl, fun _ _ => ⟨_, _, _, _, rfl⟩⟩)
  · exact engineRow (fun s f => fetched_engOn s f f _) (fun _ _ _ => ⟨_, rfl, fun _ _ => ⟨_, _, _, _, rfl⟩⟩)
  · exact engineRow (fun s f => fetched_engOn s f f _) (fun _ _ _ => ⟨_, rfl, fun _ _ => ⟨_, _, _, _, rfl⟩⟩)
  · exact engineRow (fun s f => fetched_engOn s f f _) (fun f w s => ⟨_, exec_vop he f w s, fun _ _ => ⟨_, _, _, _, rfl⟩⟩)
end
section
/-! Programs of the faces, host calls and host signals (08_ifeom_programming_model.md R225, R227, R232, R241; 11_synchronisation.md R311): the requests
on a program and what each comes to. -/
namespace Sys2Proof.Machine
open Sys2Proof.Claims

variable {s u : State} {f : Nat}

/-! ### The state of a program (R225) -/

theorem dropReq_rd (s : State) (f : Nat) (g : Fld) (i : Nat) (h : R.FCE_PROG_STATE.PENDING.apart g = true := by decide) :
    (s.dropReq f).rd g i = s.rd g i := rd_wr_apart _ _ _ _ _ _ h

theorem progRefuse_rd (s : State) (f code detail : Nat) (g : Fld) (i : Nat) (h : R.FCE_PROG_STATE.REFUSE.apart g = true := by decide)
    (k : R.FCE_PROG_STATE.REFUSE_DETAIL.apart g = true := by decide) : (s.progRefuse f code detail).rd g i = s.rd g i := by
  rw [State.progRefuse, rd_wr_apart _ _ _ _ _ _ k, rd_wr_apart _ _ _ _ _ _ h]

theorem progRefuse_refuse (s : State) (f detail : Nat) {code : Nat} (h : code < 16) :
    (s.progRefuse f code detail).rd R.FCE_PROG_STATE.REFUSE f = code := by
  rw [State.progRefuse, rd_wr_apart _ _ _ _ _ _ (by decide), rd_wr_same _ _ _ _ (by decide)]
  exact Nat.mod_eq_of_lt h

theorem progRefuse_detail (s : State) (f code detail : Nat) :
    (s.progRefuse f code detail).rd R.FCE_PROG_STATE.REFUSE_DETAIL f = min detail 65535 :=
  (rd_wr_same _ _ _ _ (by decide)).trans (Nat.mod_eq_of_lt (Nat.lt_of_le_of_lt (Nat.min_le_right _ _) (by decide)))

theorem setProg_changes {v : Nat} (h : s.progState f ≠ v) : s.setProg f v = (s.wr R.FCE_PROG_STATE.STATE f v).msix 1 (8 + f) := if_neg h

theorem setProg_rd (s : State) (f v : Nat) (g : Fld) (i : Nat) (h : R.FCE_PROG_STATE.STATE.apart g = true := by decide) :
    (s.setProg f v).rd g i = s.rd g i := by
  unfold State.setProg
  split
  · rfl
  · exact rd_wr_apart _ _ _ _ _ _ h

theorem setProg_face (s : State) (f v g : Nat) : (s.setProg f v).face g = s.face g := by
  unfold State.setProg
  split <;> rfl

theorem setProg_state (s : State) (f : Nat) {v : Nat} (h : v < 8) : (s.setProg f v).rd R.FCE_PROG_STATE.STATE f = v := by
  unfold State.setProg
  split
  · assumption
  · exact (rd_wr_same _ _ _ _ (by decide)).trans (Nat.mod_eq_of_lt h)

/-- A program that changes state, in a state that has put out no more than `s`. -/
theorem programIs_setProg {v code : Nat} (ho : u.out = s.out) (h : u.progState f ≠ v) (hv : v < 8) (hr : u.rd R.FCE_PROG_STATE.REFUSE f = code) :
    ProgramIs s f v code (u.setProg f v) := by
  refine ⟨setProg_state u f hv, (setProg_rd _ _ _ _ _).trans hr, ?_⟩
  rw [setProg_changes h, ← ho]
  rfl

/-- A request that is refused (R225). -/
theorem refusedState_progRefuse (s : State) (f : Nat) : refusedState s f (s.progRefuse f 13 0) :=
  ⟨progRefuse_refuse s f 0 (by decide), by
    refine Frame.wr (Frame.wr (Frame.refl _ _ _) ?_) ?_ <;> simp⟩

/-! ### Loading (R227, R232) -/

/-- The state in which a load has begun. -/
def State.loading (s : State) (f : Nat) : State :=
  (((s.dropReq f).progRefuse f 0 0).setProg f 1).modFace f (fun x => { x with loadWords := s.rd R.FCE_PROG_CTL.WORDS f })

theorem execProgramLoad_begins (h : s.progState f = 0 ∨ s.progState f = 2) (hlo : 16 ≤ s.rd R.FCE_PROG_CTL.WORDS f)
    (hhi : s.rd R.FCE_PROG_CTL.WORDS f ≤ 131072) : execProgramLoad f s = .next (s.loading f) :=
  congrArg Host.Outcome.next ((if_neg (by omega)).trans (if_neg (by omega)))

theorem execProgramLoad_unfit (h : s.progState f = 0 ∨ s.progState f = 2)
    (hw : s.rd R.FCE_PROG_CTL.WORDS f < 16 ∨ 131072 < s.rd R.FCE_PROG_CTL.WORDS f) :
    execProgramLoad f s = .next (((s.loading f).progRefuse f 2 0).setProg f 0) :=
  congrArg Host.Outcome.next ((if_neg (by omega)).trans (if_pos hw))

theorem loading_is (h : s.progState f ≠ 1) : ProgramIs s f 1 0 (s.loading f) := by
  have hstate : ((s.dropReq f).progRefuse f 0 0).progState f = s.progState f := (progRefuse_rd _ _ _ _ _ _).trans (dropReq_rd _ _ _ _)
  have his := programIs_setProg (s := s) (u := (s.dropReq f).progRefuse f 0 0) rfl (hstate ▸ h) (by decide) (progRefuse_refuse _ _ _ (by decide))
  exact ⟨his.state, his.refuse, his.signal⟩

theorem loading_face (s : State) (f : Nat) :
    (s.loading f).face f = { s.face f with progReq := none, loadWords := s.rd R.FCE_PROG_CTL.WORDS f } := by
  rw [State.loading, face_modFace_same, setProg_face]
  simp only [State.progRefuse, State.dropReq, face_wr, face_modFace_same]

theorem loading_pending (s : State) (f : Nat) : (s.loading f).rd R.FCE_PROG_STATE.PENDING f = 0 := by
  rw [State.loading, rd_modFace, setProg_rd _ _ _ R.FCE_PROG_STATE.PENDING, progRefuse_rd _ _ _ _ R.FCE_PROG_STATE.PENDING]
  exact rd_wr_same _ _ _ _ (by decide)

/-- The end of a load, with no slot armed, finds a check that fails. -/
theorem execProgramLoadDone_refused {words : List Word} {uncorr pcieErr : Bool} {c : Nat × Nat} (h : s.progState f = 1) (hi : s.injs = [])
    (hc : (loaded s f words).loadCheck f (s.face f).loadWords uncorr pcieErr = some c) :
    execProgramLoadDone f words uncorr pcieErr s = .next (((loaded s f words).progRefuse f c.1 c.2).setProg f 0) := by
  simp only [loaded] at hc ⊢
  simp [execProgramLoadDone, h, State.inject, injSlot_nil, hi, hc]

/-- The end of a load, with no slot armed, finds every check passed. -/
theorem execProgramLoadDone_held {words : List Word} {uncorr pcieErr : Bool} (h : s.progState f = 1) (hi : s.injs = [])
    (hc : (loaded s f words).loadCheck f (s.face f).loadWords uncorr pcieErr = none) :
    execProgramLoadDone f words uncorr pcieErr s = .next ((loaded s f words).setProg f 2) := by
  simp only [loaded] at hc ⊢
  simp [execProgramLoadDone, h, State.inject, injSlot_nil, hi, hc]

theorem unfit_is (s : State) (f : Nat) : (((s.loading f).progRefuse f 2 0).setProg f 0).rd R.FCE_PROG_STATE.STATE f = 0 ∧
    (((s.loading f).progRefuse f 2 0).setProg f 0).rd R.FCE_PROG_STATE.REFUSE f = 2 :=
  ⟨setProg_state _ _ (by decide), (setProg_rd _ _ _ _ _).trans (progRefuse_refuse _ _ _ (by decide))⟩

theorem loadRefused_is {words : List Word} {code : Nat} (h : s.progState f = 1) (hc : code < 16) (detail : Nat) :
    ProgramIs s f 0 code (((loaded s f words).progRefuse f code detail).setProg f 0) ∧
      (((loaded s f words).progRefuse f code detail).setProg f 0).rd R.FCE_PROG_STATE.REFUSE_DETAIL f = min detail 65535 := by
  have hstate : ((loaded s f words).progRefuse f code detail).progState f = 1 := (progRefuse_rd _ _ _ _ R.FCE_PROG_STATE.STATE _).trans h
  exact ⟨programIs_setProg rfl (by omega) (by decide) (progRefuse_refuse _ _ _ hc), (setProg_rd _ _ _ _ _).trans (progRefuse_detail _ _ _ _)⟩

theorem loadHeld_is {words : List Word} (h : s.progState f = 1) :
    ProgramIs s f 2 (s.rd R.FCE_PROG_STATE.REFUSE f) ((loaded s f words).setProg f 2) :=
  have hstate : (loaded s f words).progState f = 1 := h
  programIs_setProg rfl (by omega) (by decide) rfl

/-! ### Activation, hold and unload (R225) -/

theorem progRequest_waits (h : s.ticking = true) (r : ProgReq) : requestWaits s f r (s.progRequest f r) := by
  have hticks : ((s.modFace f (fun x => { x with progReq := some r })).wr R.FCE_PROG_STATE.PENDING f 1).ticking = true :=
    (ticking_congr (rd_wr_reg _ _ _ _ _ _ (by decide)) rfl).trans h
  rw [State.progRequest, orNow_ticking hticks]
  refine ⟨?_, rd_wr_same _ _ _ _ (by decide), Frame.wr (Frame.modFace (Frame.refl _ _ _) (by simp)) (by simp), ?_⟩ <;> rw [face_wr, face_modFace_same]

theorem unload_is (h : s.progState f = 2) : ProgramIs s f 0 (s.rd R.FCE_PROG_STATE.REFUSE f) ((s.dropReq f).setProg f 0) :=
  have hstate : (s.dropReq f).progState f = 2 := (dropReq_rd s f R.FCE_PROG_STATE.STATE f).trans h
  programIs_setProg rfl (by omega) (by decide) (dropReq_rd _ _ _ _)

theorem unload_drops (s : State) (f : Nat) : (((s.dropReq f).setProg f 0).face f).progReq = none ∧
    ((s.dropReq f).setProg f 0).rd R.FCE_PROG_STATE.PENDING f = 0 := by
  refine ⟨?_, (setProg_rd _ _ _ _ _).trans (rd_wr_same _ _ _ _ (by decide))⟩
  rw [setProg_face, State.dropReq, face_wr, face_modFace_same]

/-! ### Signals of the host (R311, R314) -/

/-- A signal of the host while no hand runs, within the counter's range. -/
theorem hostSignal_counts {k fn : Nat} {n : Int} (h0 : 0 ≤ ((mget {} (s.face f).ctr k).value : Int) + n)
    (h1 : ((mget {} (s.face f).ctr k).value : Int) + n ≤ ((mget {} (s.face f).ctr k).ceil : Int)) :
    ((mget {} ((s.hostSignal f k n fn).face f).ctr k).value : Int) = (mget {} (s.face f).ctr k).value + n ∧ s.Frame (s.hostSignal f k n fn) [] [f] := by
  have hadd : s.ctrAdd f k n = some _ := if_pos ⟨h0, h1⟩
  rw [State.hostSignal, hadd]
  refine ⟨?_, Frame.modFace (Frame.refl _ _ _) (by simp)⟩
  rw [face_modFace_same, mget_mset_same]
  exact Int.toNat_of_nonneg h0

theorem execSynCtrSig_eq {k amount fn : Nat} {sub : Bool} {n : Int} (hf : f < s.nFaces) (hk : k < 1024) (ha : amount < 2 ^ 32)
    (hn : n = if sub then -(amount : Int) else (amount : Int)) : execSynCtrSig f k sub amount fn s =
      .next (if s.hand.running = false then s.hostSignal f k n fn else s.modFace f (fun x => { x with hostSigs := x.hostSigs ++ [(k, n, fn)] })) := by
  unfold execSynCtrSig
  rw [Nat.mod_eq_of_lt ha, ← hn]
  exact congrArg Host.Outcome.next (if_neg (by omega))

end Sys2Proof.Machine
end
section
/-! Tricks and the call ring (02_faces_and_networks.md R65 to R68, R73; 11_synchronisation.md R318, R319, R322): the registers of the tricks, the messages of
the ring, and the plays that they bring to a home and to the manager. -/
namespace Sys2Proof.Machine
open Sys2Proof.Claims

variable {s t : State}

/-! ### The registers of the tricks (R318, R602) -/

/-- Where no ticks run a change takes effect at once. -/
theorem orNow_still (h : s.ticking = false) (g : State → State) : s.orNow g = g s := if_neg (ne_true_of_eq_false h)

/-- The state in which die trick i has these registers and its rounds begin anew, and no change waits. -/
def State.trickSet (s : State) (i parties home : Nat) : State :=
  { (((s.wr R.SYN_TRICK_CFG.PARTIES i parties).wr R.SYN_TRICK_CFG.HOME i home).wr R.SYN_TRICK_CFG.COUNT i 0).wr R.SYN_TRICK_CFG.ROUNDS i 0 with
    plays := mset [] s.plays i [], trickReq := [], dtrickReq := [] }

/-- The same of domain trick i. -/
def State.dtrickSet (s : State) (i parties : Nat) : State :=
  { (s.wr R.SYN_DTRICK_CFG.PARTIES i parties).wr R.SYN_DTRICK_CFG.COUNT i 0 with dtricks := mset {} s.dtricks i {}, trickReq := [], dtrickReq := [] }

theorem bdyTricks_die {i parties home : Nat} (hr : s.trickReq = [(i, some (parties, home))]) (hd : s.dtrickReq = []) :
    s.bdyTricks = s.trickSet i parties home := by
  simp only [State.bdyTricks, hr, hd, List.foldl_cons, List.foldl_nil, State.wr_dtrickReq]
  rfl

theorem bdyTricks_domain {i parties : Nat} (hr : s.trickReq = []) (hd : s.dtrickReq = [(i, some parties)]) :
    s.bdyTricks = s.dtrickSet i parties := by
  simp only [State.bdyTricks, hr, hd, List.foldl_cons, List.foldl_nil]
  rfl

/-- The state in which a change of die trick i is marked for the boundary. -/
def State.trickAsked (s : State) (i parties home : Nat) : State := { s with trickReq := mset none s.trickReq i (some (parties, home)) }

/-- The same of domain trick i. -/
def State.dtrickAsked (s : State) (i parties : Nat) : State := { s with dtrickReq := mset none s.dtrickReq i (some parties) }

theorem execTrickCfg_asks {i parties home : Nat} (hh : home < s.nFaces) (hp : parties ≤ 8) (hi : i < 256) :
    execTrickCfg i parties home s = .next ((s.trickAsked i parties home).orNow State.bdyTricks) := congrArg Host.Outcome.next (if_neg (by omega))

theorem execDtrickCfg_asks {i parties : Nat} (hp : parties ≤ 32768) (hi : i < 64) :
    execDtrickCfg i parties s = .next ((s.dtrickAsked i parties).orNow State.bdyTricks) := congrArg Host.Outcome.next (if_neg (by omega))

theorem trickAsked_waits (i parties home : Nat) (h : s.ticking = true) :
    (s.trickAsked i parties home).orNow State.bdyTricks = s.trickAsked i parties home := orNow_ticking (by exact h) _

theorem trickAsked_sets (i parties home : Nat) (h : s.ticking = false) (hr : s.trickReq = []) (hd : s.dtrickReq = []) :
    (s.trickAsked i parties home).orNow State.bdyTricks = s.trickSet i parties home := by
  rw [orNow_still (by exact h)]
  exact bdyTricks_die (by rw [State.trickAsked, hr]; rfl) hd

theorem dtrickAsked_waits (i parties : Nat) (h : s.ticking = true) :
    (s.dtrickAsked i parties).orNow State.bdyTricks = s.dtrickAsked i parties := orNow_ticking (by exact h) _

theorem dtrickAsked_sets (i parties : Nat) (h : s.ticking = false) (hr : s.trickReq = []) (hd : s.dtrickReq = []) :
    (s.dtrickAsked i parties).orNow State.bdyTricks = s.dtrickSet i parties := by
  rw [orNow_still (by exact h)]
  exact bdyTricks_domain hr (by rw [State.dtrickAsked, hd]; rfl)

/-- The registers of die trick i read as they have been set. -/
theorem trickSet_regs (s : State) (i : Nat) {parties home : Nat} (hp : parties ≤ 8) (hh : home < 8) :
    (s.trickSet i parties home).rd R.SYN_TRICK_CFG.PARTIES i = parties ∧ (s.trickSet i parties home).rd R.SYN_TRICK_CFG.HOME i = home ∧
      (s.trickSet i parties home).rd R.SYN_TRICK_CFG.COUNT i = 0 ∧ (s.trickSet i parties home).rd R.SYN_TRICK_CFG.ROUNDS i = 0 := by
  have hrd (g : Fld) (v : Nat) (h : (((s.wr R.SYN_TRICK_CFG.PARTIES i parties).wr R.SYN_TRICK_CFG.HOME i home).wr R.SYN_TRICK_CFG.COUNT i 0 |>.wr
      R.SYN_TRICK_CFG.ROUNDS i 0).rd g i = v) : (s.trickSet i parties home).rd g i = v := h
  refine ⟨hrd _ _ ?_, hrd _ _ ?_, hrd _ _ ?_, hrd _ _ (rd_wr_same _ _ _ _ (by decide))⟩
  · rw [rd_wr_apart _ _ _ _ _ _ (by decide), rd_wr_apart _ _ _ _ _ _ (by decide), rd_wr_apart _ _ _ _ _ _ (by decide), rd_wr_same _ _ _ _ (by decide)]
    exact Nat.mod_eq_of_lt (Nat.lt_of_le_of_lt hp (by decide))
  · rw [rd_wr_apart _ _ _ _ _ _ (by decide), rd_wr_apart _ _ _ _ _ _ (by decide), rd_wr_same _ _ _ _ (by decide)]
    exact Nat.mod_eq_of_lt hh
  · rw [rd_wr_apart _ _ _ _ _ _ (by decide), rd_wr_same _ _ _ _ (by decide)]
    rfl

theorem dtrickSet_regs (s : State) (i : Nat) {parties : Nat} (hp : parties ≤ 32768) :
    (s.dtrickSet i parties).rd R.SYN_DTRICK_CFG.PARTIES i = parties ∧ (s.dtrickSet i parties).rd R.SYN_DTRICK_CFG.COUNT i = 0 := by
  have hrd (g : Fld) (v : Nat) (h : ((s.wr R.SYN_DTRICK_CFG.PARTIES i parties).wr R.SYN_DTRICK_CFG.COUNT i 0).rd g i = v) :
      (s.dtrickSet i parties).rd g i = v := h
  refine ⟨hrd _ _ ?_, hrd _ _ (rd_wr_same _ _ _ _ (by decide))⟩
  rw [rd_wr_apart _ _ _ _ _ _ (by decide), rd_wr_same _ _ _ _ (by decide)]
  exact Nat.mod_eq_of_lt (Nat.lt_of_le_of_lt hp (by decide))

/-! ### The call ring (R65 to R68, R73) -/

/-- With no slot armed, the stops of a route find the errors that the command names on it, and no others. -/
theorem ringChecks_quiet (hi : s.injs = []) (m : RingMsg) (fixed : List Nat) (bad : Option Nat) : s.ringChecks m fixed bad =
    ((fixed.filter (fun k => (ringRoutes m).flatten.eraseDups.contains k)).foldl (fun t _ => t.bump R.MSH_RING_STAT.CORRECTED 0) s,
      bad.filter (fun k => (ringRoutes m).flatten.eraseDups.contains k)) := by
  have hinj (l : List Nat) : (l.foldl (fun t _ => t.bump R.MSH_RING_STAT.CORRECTED 0) s).injs = [] :=
    List.foldlRecOn (motive := fun u : State => u.injs = []) l _ hi fun _ h _ _ => h
  unfold State.ringChecks
  refine List.foldl_fixed' (fun k => ?_) _
  dsimp only
  split
  · rfl
  · rw [State.inject, injSlot_nil (hinj _)]

theorem contains_route {m : RingMsg} {k : Nat} (h : k ∈ (ringRoutes m).flatten) : (ringRoutes m).flatten.eraseDups.contains k = true :=
  List.contains_iff_mem.mpr (List.mem_eraseDups.mpr h)

/-- A message of the ring as R65 to R68 give one: stops below 12, and one or two flits. -/
structure OnRing (m : RingMsg) : Prop where
  src : m.src < 12
  dst : ∀ b, m.dst = some b → b < 12
  flits : 0 < m.flits ∧ m.flits ≤ 2

theorem onRing_dst {m : RingMsg} (h : OnRing m) : m.dst.getD 0 < 12 := by
  cases hd : m.dst with
  | none => decide
  | some b => exact h.dst b hd

/-- The state in which a message has waited `w` at a stop (R68). -/
def State.ringWaited (s : State) (w : Nat) : State := s.wr R.MSH_RING_STAT.MAX_WAIT 0 (max (s.rd R.MSH_RING_STAT.MAX_WAIT 0) (min w 40))

/-- A message is carried: its wait at a stop is noted, a flit that a stop corrects is counted, and so is the message. -/
theorem execCallRingMessage_carried {m : RingMsg} {k w c : Nat} (hm : OnRing m) (hi : s.injs = []) (hk : k ∈ (ringRoutes m).flatten)
    (hc : c ∈ (ringRoutes m).flatten) : execCallRingMessage none m [(k, w)] [c] none s = .next
      (((s.ringWaited w).bump R.MSH_RING_STAT.CORRECTED 0).bump R.MSH_RING_STAT.MESSAGES 0) := by
  unfold execCallRingMessage
  extract_lets flying n route s0 found
  have hwaits : s0 = s.ringWaited w := by
    simp only [s0, route, n, flying, Option.bind_none, Option.map_none, Option.getD_none, List.filter_cons, List.contains_iff_mem.mpr hk, if_true,
      List.filter_nil, List.foldl_cons, List.foldl_nil, State.ringWaited]
  have hfound : found = ((s.ringWaited w).bump R.MSH_RING_STAT.CORRECTED 0, none) := by
    rw [show found = s0.ringChecks m [c] none from rfl, hwaits, ringChecks_quiet (by exact hi), List.filter_cons_of_pos (contains_route hc)]
    rfl
  have hdst := onRing_dst hm
  obtain ⟨hsrc, -, hflits⟩ := hm
  rw [hfound]
  exact congrArg Host.Outcome.next (if_neg (by simp only [n, flying, Option.bind_none, Option.map_none, Option.getD_none]; omega))

/-- A stop that finds a flit beyond correction drops the message, whose command has no effect then. -/
theorem execCallRingMessage_dropped {m : RingMsg} {k b : Nat} (hm : OnRing m) (hi : s.injs = []) (hk : k ∈ (ringRoutes m).flatten)
    (hb : m.dst = some b) : execCallRingMessage none m [] [] (some k) s =
      .next (({ s with ringLost := s.ringLost ++ [(m.kind, b)] } : State).ringBad m k) := by
  have hfound : s.ringChecks m [] (some k) = (s, some k) := by
    rw [ringChecks_quiet hi, Option.filter_some, if_pos (contains_route hk)]
    rfl
  have hdst := onRing_dst hm
  obtain ⟨hsrc, -, hflits⟩ := hm
  simp only [execCallRingMessage, Option.bind_none, Option.map_none, Option.getD_none, List.filter_nil, List.foldl_nil, hfound, hb, Option.getD_some]
  rw [hb] at hdst
  exact congrArg Host.Outcome.next (if_neg (by simp only [Option.getD_some] at hdst; omega))

/-- A message in flight that overtakes none arrives. -/
theorem execCallRingMessage_arrives (m : RingMsg) {j : Nat} {e : RMsg} (hi : s.injs = []) (hj : s.ring[j]? = some e)
    (ho : (s.ring.take j).any (fun x => decide (x.ends = e.ends)) = false) : execCallRingMessage (some j) m [] [] none s =
      .next ((({ s with ring := s.ring.eraseIdx j } : State).bump R.MSH_RING_STAT.MESSAGES 0).ringApply e) := by
  have hfound (n : RingMsg) : s.ringChecks n [] none = (s, none) := ringChecks_quiet hi n [] none
  simp only [execCallRingMessage, Option.bind_some, hj, Option.map_some, Option.getD_some, List.filter_nil, List.foldl_nil, hfound, ho]
  rfl

/-! ### A message that is dropped (R73) -/

/-- The record of an uncorrectable flit of a message to a stop that is no face. -/
def ringEvent (m : RingMsg) (k : Nat) : Event :=
  { det := .ringUncorr, unit := unitId 10 0 0 0 k, d0 := BitVec.ofNat 64 (ringClass m.kind), fatal := decide (ringClass m.kind = 0)
    d1 := 0xFF#64, lface := 0xFF }

/-- A class 0 message that is dropped raises FAULT_N. -/
def State.ringFatal (s : State) (m : RingMsg) : State := if ringClass m.kind = 0 then (s.wr R.FLT_FATAL.RING_CLASS0 0 1).faultN else s

theorem ringBad_noFace {m : RingMsg} {b : Nat} (k : Nat) (hb : m.dst = some b) (hf : faceOfStop b = none) :
    s.ringBad m k = (s.raise (ringEvent m k)).ringFatal m := by
  have hnone : m.dst.bind faceOfStop = none := by rw [hb]; exact hf
  have hmissed : s.ringMissed m k = [] := by simp only [State.ringMissed, hb, List.filterMap_cons_none hf, List.filterMap_nil]
  rw [State.ringBad, hnone, hmissed]
  rfl

theorem ringFatal_rd (s : State) (m : RingMsg) (g : Fld) (i : Nat) (h : g.reg ≠ .FLT_FATAL := by decide) : (s.ringFatal m).rd g i = s.rd g i := by
  unfold State.ringFatal
  split
  · exact (rd_wr_reg _ _ _ _ _ _ h).trans (rd_wr_reg _ _ _ _ _ _ h)
  · rfl

theorem ringFatal_faultq (s : State) (m : RingMsg) : (s.ringFatal m).faultq = s.faultq := by
  unfold State.ringFatal
  split <;> rfl

theorem ringFatal_ringLost (s : State) (m : RingMsg) : (s.ringFatal m).ringLost = s.ringLost := by
  unfold State.ringFatal
  split <;> rfl

theorem ringFatal_class0 {m : RingMsg} (h : ringClass m.kind = 0) (s : State) : (s.ringFatal m).rd R.FLT_FATAL.RING_CLASS0 0 = 1 := by
  rw [State.ringFatal, if_pos h]
  exact (rd_wrB_apart _ _ _ _ _ _ (by decide)).trans (rd_wr_same _ _ _ _ (by decide))

/-- What is left of a message that is dropped on its way to a stop that is no face: the loss of its command, and the record. -/
theorem execCallRingMessage_lost {m : RingMsg} {k b : Nat} (hm : OnRing m) (hk : k ∈ (ringRoutes m).flatten) (hb : m.dst = some b)
    (hf : faceOfStop b = none) (hr : Recordable s (ringEvent m k)) :
    ∃ t, execCallRingMessage none m [] [] (some k) s = .next t ∧ t.ringLost = s.ringLost ++ [(m.kind, b)] ∧ Recorded s (ringEvent m k) t ∧
      t.rd R.MSH_RING_STAT.MESSAGES 0 = s.rd R.MSH_RING_STAT.MESSAGES 0 ∧ (ringClass m.kind = 0 → t.rd R.FLT_FATAL.RING_CLASS0 0 = 1) := by
  have halike : LogsAlike s { s with ringLost := s.ringLost ++ [(m.kind, b)] } := ⟨rfl, rfl, rfl, rfl, rfl, rfl⟩
  have hbad := ringBad_noFace (s := { s with ringLost := s.ringLost ++ [(m.kind, b)] }) k hb hf
  rw [raise_queued hr halike] at hbad
  refine ⟨_, (execCallRingMessage_dropped hm hr.slots hk hb).trans (congrArg Host.Outcome.next hbad), ?_,
    halike.recorded (ringFatal_faultq _ _) (ringFatal_rd _ _ _ _), ?_, fun h => ringFatal_class0 h _⟩
  · rw [ringFatal_ringLost]
    rfl
  · rw [ringFatal_rd _ _ R.MSH_RING_STAT.MESSAGES, rd_queued _ _ R.MSH_RING_STAT.MESSAGES]
    rfl

/-- What a message that is carried leaves in the ring's statistics (R68). -/
theorem ringCarried_stat (s : State) (w : Nat) {t : State}
    (ht : t = ((s.ringWaited w).bump R.MSH_RING_STAT.CORRECTED 0).bump R.MSH_RING_STAT.MESSAGES 0) :
    t.rd R.MSH_RING_STAT.MESSAGES 0 = min (s.rd R.MSH_RING_STAT.MESSAGES 0 + 1) (2 ^ R.MSH_RING_STAT.MESSAGES.wd - 1) ∧
    t.rd R.MSH_RING_STAT.MAX_WAIT 0 = max (s.rd R.MSH_RING_STAT.MAX_WAIT 0) (min w 40) ∧
    t.rd R.MSH_RING_STAT.CORRECTED 0 = min (s.rd R.MSH_RING_STAT.CORRECTED 0 + 1) (2 ^ R.MSH_RING_STAT.CORRECTED.wd - 1) ∧
    s.Frame t [(R.MSH_RING_STAT.MESSAGES, 0), (R.MSH_RING_STAT.MAX_WAIT, 0), (R.MSH_RING_STAT.CORRECTED, 0)] [] := by
  have hwait : max (s.rd R.MSH_RING_STAT.MAX_WAIT 0) (min w 40) < 2 ^ R.MSH_RING_STAT.MAX_WAIT.wd := by
    have := rd_lt s R.MSH_RING_STAT.MAX_WAIT 0
    simp only [show 2 ^ R.MSH_RING_STAT.MAX_WAIT.wd = 64 from rfl] at this ⊢
    omega
  subst ht
  refine ⟨?_, ?_, ?_, Frame.bump (Frame.bump (Frame.wr (Frame.refl _ _ _) (by simp)) (by simp)) (by simp)⟩
  · rw [rd_bump_same _ _ _ (by decide), rd_bump_apart _ _ _ _ _ (by decide), State.ringWaited, rd_wr_apart _ _ _ _ _ _ (by decide)]
  · rw [rd_bump_apart _ _ _ _ _ (by decide), rd_bump_apart _ _ _ _ _ (by decide), State.ringWaited, rd_wr_same _ _ _ _ (by decide),
      Nat.mod_eq_of_lt hwait]
  · rw [rd_bump_apart _ _ _ _ _ (by decide), rd_bump_same _ _ _ (by decide), State.ringWaited, rd_wr_apart _ _ _ _ _ _ (by decide)]

/-! ### Plays on a die trick (R319) -/

/-- A play short of PARTIES counts. -/
theorem trickPlay_counts {src home i : Nat} (h : s.rd R.SYN_TRICK_CFG.COUNT i + 1 < s.rd R.SYN_TRICK_CFG.PARTIES i) : s.trickPlay src home i =
    { s.wr R.SYN_TRICK_CFG.COUNT i (s.rd R.SYN_TRICK_CFG.COUNT i + 1) with plays := mset [] s.plays i (mget [] s.plays i ++ [src]) } :=
  if_neg (by omega)

/-- The one play that a trick of one party waits for releases the round. -/
theorem trickPlay_releases {src home i : Nat} (hne : src ≠ home) (hplays : mget [] s.plays i = []) (hp : s.rd R.SYN_TRICK_CFG.PARTIES i = 1)
    (hc : s.rd R.SYN_TRICK_CFG.COUNT i = 0) : s.trickPlay src home i =
      { (s.wr R.SYN_TRICK_CFG.COUNT i 0).wr R.SYN_TRICK_CFG.ROUNDS i (s.rd R.SYN_TRICK_CFG.ROUNDS i + 1) with
        plays := mset [] s.plays i [], ring := s.ring ++ [.release home src i] } := by
  have hhome : [src].contains home = false := by simp [Ne.symm hne]
  have hothers : [src].filter (fun d => decide (d ≠ home)) = [src] := List.filter_cons_of_pos (decide_eq_true hne)
  simp only [State.trickPlay, hplays, hp, hc, List.nil_append, hhome, hothers, ge_iff_le, Nat.zero_add, le_refl, if_true, Bool.false_eq_true, if_false]
  rfl

/-- The state in which message j has landed, and is counted. -/
def State.ringLanded (s : State) (j : Nat) : State := ({ s with ring := s.ring.eraseIdx j } : State).bump R.MSH_RING_STAT.MESSAGES 0

theorem rd_ringLanded (s : State) (j : Nat) (g : Fld) (i : Nat) (h : R.MSH_RING_STAT.MESSAGES.apart g = true := by decide) :
    (s.ringLanded j).rd g i = s.rd g i := rd_bump_apart _ _ _ _ _ h

theorem ringLanded_messages (s : State) (j : Nat) : (s.ringLanded j).rd R.MSH_RING_STAT.MESSAGES 0 =
    min (s.rd R.MSH_RING_STAT.MESSAGES 0 + 1) (2 ^ R.MSH_RING_STAT.MESSAGES.wd - 1) := rd_bump_same _ _ _ (by decide)

theorem playArrives_counts (m : RingMsg) {j src home i : Nat} (hi : s.injs = []) (hj : s.ring[j]? = some (.play src home i))
    (ho : (s.ring.take j).any (fun e => decide (e.ends = (src, home))) = false)
    (h : s.rd R.SYN_TRICK_CFG.COUNT i + 1 < s.rd R.SYN_TRICK_CFG.PARTIES i) :
    ∃ t, execCallRingMessage (some j) m [] [] none s = .next t ∧ t.ring = s.ring.eraseIdx j ∧
      t.rd R.SYN_TRICK_CFG.COUNT i = s.rd R.SYN_TRICK_CFG.COUNT i + 1 ∧ mget [] t.plays i = mget [] s.plays i ++ [src] ∧
      t.rd R.MSH_RING_STAT.MESSAGES 0 = min (s.rd R.MSH_RING_STAT.MESSAGES 0 + 1) (2 ^ R.MSH_RING_STAT.MESSAGES.wd - 1) := by
  have hparties := rd_lt s R.SYN_TRICK_CFG.PARTIES i
  have hplay := trickPlay_counts (s := s.ringLanded j) (src := src) (home := home) (i := i) (by
    rw [rd_ringLanded s j R.SYN_TRICK_CFG.COUNT, rd_ringLanded s j R.SYN_TRICK_CFG.PARTIES]
    exact h)
  refine ⟨_, (execCallRingMessage_arrives m hi hj ho).trans (congrArg Host.Outcome.next hplay), rfl, ?_, mget_mset_same _ _ _ _, ?_⟩
  · refine (rd_wr_same _ _ _ _ (by decide)).trans ?_
    rw [rd_ringLanded s j R.SYN_TRICK_CFG.COUNT]
    exact Nat.mod_eq_of_lt (h.trans hparties)
  · exact (rd_wr_reg _ _ _ _ _ _ (by decide)).trans (ringLanded_messages s j)

theorem playArrives_releases (m : RingMsg) {j src home i : Nat} (hi : s.injs = []) (hj : s.ring[j]? = some (.play src home i))
    (ho : (s.ring.take j).any (fun e => decide (e.ends = (src, home))) = false) (hne : src ≠ home) (hplays : mget [] s.plays i = [])
    (hp : s.rd R.SYN_TRICK_CFG.PARTIES i = 1) (hc : s.rd R.SYN_TRICK_CFG.COUNT i = 0) :
    ∃ t, execCallRingMessage (some j) m [] [] none s = .next t ∧ t.ring = s.ring.eraseIdx j ++ [.release home src i] ∧
      t.rd R.SYN_TRICK_CFG.COUNT i = 0 ∧ t.rd R.SYN_TRICK_CFG.ROUNDS i = (s.rd R.SYN_TRICK_CFG.ROUNDS i + 1) % 2 ^ R.SYN_TRICK_CFG.ROUNDS.wd ∧
      mget [] t.plays i = [] := by
  have hplay := trickPlay_releases (s := s.ringLanded j) hne hplays ((rd_ringLanded _ _ _ _).trans hp) ((rd_ringLanded _ _ _ _).trans hc)
  refine ⟨_, (execCallRingMessage_arrives m hi hj ho).trans (congrArg Host.Outcome.next hplay), rfl, ?_, ?_, mget_mset_same _ _ _ _⟩
  · exact (rd_wr_apart _ _ _ _ _ _ (by decide)).trans (rd_wr_same _ _ _ _ (by decide))
  · exact (rd_wr_same _ _ _ _ (by decide)).trans (by rw [rd_ringLanded s j R.SYN_TRICK_CFG.ROUNDS])

/-! ### What a release leaves of the manager's counts -/

theorem inject_dtricks {d : Det} {u : Nat} {p : Nat → Bool} {r : Nat × State} (h : s.inject d u p = some r) : r.2.dtricks = s.dtricks := by
  unfold State.inject at h
  split at h
  · cases h
  · cases h
    dsimp only
    split <;> split <;> rfl

theorem raise_dtricks (s : State) (e : Event) : (s.raise e).dtricks = s.dtricks := by
  have hmarked : (s.marked e).1.dtricks = s.dtricks := by
    unfold State.marked
    split
    · rfl
    · split
      · next hr => exact inject_dtricks hr
      · rfl
  unfold State.raise
  dsimp only
  split
  · exact hmarked
  · split
    · exact hmarked
    · split
      · exact hmarked
      · split <;> exact hmarked

theorem trickGone_dtricks (s : State) (f i : Nat) : (s.trickGone f i).dtricks = s.dtricks := by
  unfold State.trickGone
  split <;> rfl

theorem homeLost_dtricks (s : State) (f : Nat) : (s.homeLost f).dtricks = s.dtricks := by
  unfold State.homeLost
  split
  · rfl
  · exact loop_ind (P := fun t : State => t.dtricks = s.dtricks) _ _ _ rfl fun t i _ h => (trickGone_dtricks t f i).trans h

theorem faceFault_dtricks (s : State) (f cause : Nat) : (s.faceFault f cause).dtricks = s.dtricks := by
  have hfault (g : Face → Face) (e : Event) : ((((s.modFace f g).setDown f true).homeLost f).raise e).dtricks = s.dtricks :=
    (raise_dtricks _ _).trans (homeLost_dtricks _ _)
  unfold State.faceFault
  dsimp only
  split
  · split <;> exact hfault _ _
  · exact hfault _ _

theorem ctrAdd_dtricks {f k : Nat} {n : Int} (h : s.ctrAdd f k n = some t) : t.dtricks = s.dtricks := by
  unfold State.ctrAdd at h
  dsimp only at h
  split at h
  · cases h; rfl
  · cases h

theorem takeFault_dtricks (s : State) (f vec : Nat) (info : Word) (pc : Nat) : (s.takeFault f vec info pc).dtricks = s.dtricks := by
  have hrecord (g : Face → Face) (q : Nat) :
      ((((s.trapStat f vec q).bump R.FCE_TRAP_STAT.FAULTS f).modFace f g).trapRecord f vec info q).dtricks = s.dtricks := raise_dtricks _ _
  unfold State.takeFault
  dsimp only
  split
  · exact hrecord _ _
  · exact hrecord _ _
  · split
    · exact (faceFault_dtricks _ _ _).trans (hrecord _ _)
    · split <;> exact hrecord _ _

theorem tryEnd_dtricks (s : State) (f : Nat) : (s.tryEnd f).dtricks = s.dtricks := by
  unfold State.tryEnd
  dsimp only
  split
  · rfl
  · split
    · rfl
    · split
      · exact (takeFault_dtricks _ _ _ _ _).trans (raise_dtricks _ _)
      · rfl

theorem wake_dtricks (s : State) (f : Nat) : (s.wake f).dtricks = s.dtricks := by
  unfold State.wake
  dsimp only
  split
  · split
    · split
      · next h => exact (ctrAdd_dtricks h :)
      · rfl
    · rfl
  · split <;> rfl
  · split <;> rfl
  · split
    · split
      · exact (tryEnd_dtricks _ _).trans (tryEnd_dtricks _ _)
      · exact tryEnd_dtricks _ _
    · exact tryEnd_dtricks _ _
  · rfl

theorem dtrickReleased_dtricks (s : State) (i h : Nat) : (s.dtrickReleased i h).dtricks = s.dtricks :=
  loop_ind (P := fun t : State => t.dtricks = s.dtricks) _ _ _ rfl fun t d _ k => (wake_dtricks (t.modFace d _) d).trans k

theorem Sends.dtricks (h : s.Sends t) : t.dtricks = s.dtricks := Sends.same (h := h) (p := State.dtricks) (fun _ _ _ _ => rfl)

/-! ### Plays on a domain trick (R319, R322) -/

/-- The manager's book of a domain trick after a play of hand h that leaves the round open, `who` having played. -/
def DTrick.played (d : DTrick) (h : Nat) (who : List Nat) : DTrick := { d with counts := mset [] d.counts h who }

/-- The same after the release of the round of hand h. -/
def DTrick.closed (d : DTrick) (h : Nat) : DTrick :=
  { counts := mset [] d.counts h [], released := if d.released.contains h then d.released else d.released ++ [h] }

theorem closed_released (d : DTrick) (h : Nat) : (d.closed h).released.contains h = true := by
  unfold DTrick.closed
  split
  · assumption
  · exact List.contains_iff_mem.mpr (List.mem_append_right _ List.mem_cons_self)

/-- The state in which the book of domain trick i is `d`. -/
def State.setDTrick (s : State) (i : Nat) (d : DTrick) : State := { s with dtricks := mset {} s.dtricks i d }

theorem setDTrick_book (s : State) (i : Nat) (d : DTrick) : mget {} (s.setDTrick i d).dtricks i = d := mget_mset_same _ _ _ _

section
variable {src i h : Nat} (hp : s.rd R.SYN_DTRICK_CFG.PARTIES i ≠ 0)
include hp

/-- A play short of PARTIES counts for its hand number. -/
theorem dtrickPlay_counts (ho : (mget {} s.dtricks i).released.contains h = false ∨ s.rd R.SYN_HAND_NUM.HAND 0 ≤ h)
    (hw : (s.dtrickPlays i h).length + 1 < s.rd R.SYN_DTRICK_CFG.PARTIES i) :
    s.dtrickPlay src i h = (s.setDTrick i ((mget {} s.dtricks i).played h (s.dtrickPlays i h ++ [src]))).dtrickShow i := by
  have hopen : ¬ ((mget {} s.dtricks i).released.contains h = true ∧ h < s.rd R.SYN_HAND_NUM.HAND 0) := by
    rintro ⟨hr, hlt⟩
    exact ho.elim (fun k => absurd (hr.symm.trans k) (by decide)) (fun k => by omega)
  have hshort : ¬ (s.dtrickPlays i h ++ [src]).length ≥ s.rd R.SYN_DTRICK_CFG.PARTIES i := by rw [List.length_append]; exact Nat.not_le.mpr hw
  exact (if_neg hp).trans ((if_neg hopen).trans (if_neg hshort))

/-- The play that makes PARTIES releases the round, over the tree and here. -/
theorem dtrickPlay_releases (ho : (mget {} s.dtricks i).released.contains h = false ∨ s.rd R.SYN_HAND_NUM.HAND 0 ≤ h)
    (hw : s.rd R.SYN_DTRICK_CFG.PARTIES i ≤ (s.dtrickPlays i h).length + 1) : s.dtrickPlay src i h =
      (((s.setDTrick i ((mget {} s.dtricks i).closed h)).dtrickShow i).sendTree (.release i h false)).dtrickReleased i h := by
  have hopen : ¬ ((mget {} s.dtricks i).released.contains h = true ∧ h < s.rd R.SYN_HAND_NUM.HAND 0) := by
    rintro ⟨hr, hlt⟩
    exact ho.elim (fun k => absurd (hr.symm.trans k) (by decide)) (fun k => by omega)
  have hfull : (s.dtrickPlays i h ++ [src]).length ≥ s.rd R.SYN_DTRICK_CFG.PARTIES i := by rw [List.length_append]; exact hw
  exact (if_neg hp).trans ((if_neg hopen).trans (if_pos hfull))

/-- A play of another device for a hand that lies behind, whose round has released, is released at once, alone. -/
theorem dtrickPlay_late (hr : (mget {} s.dtricks i).released.contains h = true) (hlt : h < s.rd R.SYN_HAND_NUM.HAND 0) (hsrc : src ≠ s.devAddr) :
    s.dtrickPlay src i h = s.sendCtl src (.release i h false) :=
  (if_neg hp).trans ((if_pos ⟨hr, hlt⟩).trans (if_neg hsrc))

end

theorem execDomainTrickPlay_manager (h : s.isManager = true) (src i hand : Nat) :
    execDomainTrickPlay src i hand s = .next (s.dtrickPlay src i hand) := congrArg Host.Outcome.next (if_pos h)

/-- What a play that counts leaves. -/
theorem dtrickCounted_leaves (s : State) (src i h : Nat) {t : State}
    (ht : t = (s.setDTrick i ((mget {} s.dtricks i).played h (s.dtrickPlays i h ++ [src]))).dtrickShow i) :
    t.dtrickPlays i h = s.dtrickPlays i h ++ [src] ∧ (mget {} t.dtricks i).released = (mget {} s.dtricks i).released ∧
      t.rd R.SYN_DTRICK_CFG.COUNT i = (t.dtrickPlays i (s.rd R.SYN_HAND_NUM.HAND 0)).length % 2 ^ R.SYN_DTRICK_CFG.COUNT.wd ∧
      s.Frame { t with dtricks := s.dtricks } [(R.SYN_DTRICK_CFG.COUNT, i)] [] := by
  have hbook : mget {} t.dtricks i = (mget {} s.dtricks i).played h (s.dtrickPlays i h ++ [src]) := by rw [ht]; exact setDTrick_book _ _ _
  refine ⟨?_, by rw [hbook]; rfl, ?_, ?_⟩
  · rw [State.dtrickPlays, hbook]
    exact mget_mset_same _ _ _ _
  · rw [ht]
    exact rd_wr_same _ _ _ _ (by decide)
  · rw [ht]
    exact Frame.wr (Frame.refl s _ _) List.mem_cons_self

/-- What a play that releases leaves of the manager's book. -/
theorem dtrickClosed_leaves (s : State) (i h : Nat) {t : State}
    (ht : t = (((s.setDTrick i ((mget {} s.dtricks i).closed h)).dtrickShow i).sendTree (.release i h false)).dtrickReleased i h) :
    t.dtrickPlays i h = [] ∧ (mget {} t.dtricks i).released.contains h = true := by
  have hbook : mget {} t.dtricks i = (mget {} s.dtricks i).closed h := by
    rw [ht, dtrickReleased_dtricks, Sends.dtricks (Sends.sendTree _ _)]
    exact setDTrick_book _ _ _
  refine ⟨?_, by rw [hbook]; exact closed_released _ _⟩
  rw [State.dtrickPlays, hbook]
  exact mget_mset_same _ _ _ _

end Sys2Proof.Machine
end
section
open Sys2Proof Sys2Proof.Machine Sys2Proof.Claims

/-- Settles O54: each clause is the lemma of its command. The state that the words call HELD is state 2 of R225. That the record of a message to a stop
that is no face reads 0xFF for the face is the model's choice (log entry 75), and so is that a play of a re-deal is told by its hand number (log
entry 76). -/
theorem programAndTrickResults : Obligations.ProgramAndTrickResults := by
  unfold Obligations.ProgramAndTrickResults
  intro s f
  refine ⟨fun h => ⟨fun hlo hhi => ?_, fun hw => ⟨_, execProgramLoad_unfit h hw, unfit_is s f⟩⟩,
    fun words uncorr pcieErr h hi => ⟨fun c hc hlt => ⟨_, execProgramLoadDone_refused h hi hc, loadRefused_is h hlt _⟩,
      fun hc => ⟨_, execProgramLoadDone_held h hi hc, loadHeld_is h, setProg_face _ _ _ _⟩⟩,
    fun ht => ⟨fun h => ⟨_, congrArg Host.Outcome.next (if_pos h), progRequest_waits ht _⟩,
      fun h => ⟨_, congrArg Host.Outcome.next (if_pos h), progRequest_waits ht _⟩⟩,
    fun h => ⟨_, congrArg Host.Outcome.next (if_pos h), unload_is h, unload_drops s f⟩, ⟨fun h k => ?_, fun h k => ?_, fun h => ?_, fun h => ?_⟩,
    fun h hv hp hn => ⟨_, congrArg Host.Outcome.next ((if_pos ⟨h, hv, hp⟩).trans (ringGuard_noneLost hn _ _)), rd_wr_same _ _ _ _ (by decide),
      Frame.wr (Frame.refl _ _ _) List.mem_cons_self⟩,
    fun k sub amount fn n hf hk ha hn => ⟨fun hrun => ?_, fun hrun h0 h1 => ?_⟩,
    fun i parties home hh h8 hp hi => ⟨fun ht => ?_, fun ht hr hd => ?_⟩, fun i parties hp hi => ⟨fun ht => ?_, fun ht hr hd => ?_⟩,
    fun m hi hsrc hdst hpos hmax => ⟨fun k w c hk hc => ?_, fun k b e hk hb hf he hr => ?_⟩,
    fun m j src home i hi hj ho h => playArrives_counts m hi hj ho h,
    fun m j src home i hi hj ho hne hplays hp hc => playArrives_releases m hi hj ho hne hplays hp hc,
    fun src i h hn hman hhn hp => ⟨fun ho hw => ?_, fun ho hw => ?_, fun port hr hlt hsrc hroute => ?_⟩⟩
  · exact ⟨_, execProgramLoad_begins h hlo hhi, loading_is (by omega), by rw [loading_face], by rw [loading_face], loading_pending s f⟩
  · exact ⟨_, congrArg Host.Outcome.next (if_neg (not_or.mpr ⟨h, fun ⟨h3, hq⟩ => k.elim (· h3) hq⟩)), refusedState_progRefuse s f⟩
  · exact ⟨_, congrArg Host.Outcome.next (if_neg (not_or.mpr ⟨h, fun ⟨h2, hq⟩ => k.elim (· h2) hq⟩)), refusedState_progRefuse s f⟩
  · exact ⟨_, congrArg Host.Outcome.next (if_neg h), refusedState_progRefuse s f⟩
  · exact ⟨_, congrArg Host.Outcome.next (if_pos (by omega)), refusedState_progRefuse s f⟩
  · refine ⟨_, (execSynCtrSig_eq hf hk ha hn).trans (congrArg Host.Outcome.next (if_neg (by rw [hrun]; decide))), ?_,
      Frame.modFace (Frame.refl _ _ _) List.mem_cons_self⟩
    rw [face_modFace_same]
  · exact ⟨_, (execSynCtrSig_eq hf hk ha hn).trans (congrArg Host.Outcome.next (if_pos hrun)), hostSignal_counts h0 h1⟩
  · exact ⟨_, (execTrickCfg_asks hh hp hi).trans (congrArg Host.Outcome.next (trickAsked_waits i parties home ht)), mget_mset_same _ _ _ _, rfl⟩
  · obtain ⟨hparties, hhome, hcount, hrounds⟩ := trickSet_regs s i hp h8
    exact ⟨_, (execTrickCfg_asks hh hp hi).trans (congrArg Host.Outcome.next (trickAsked_sets i parties home ht hr hd)), hparties, hhome, hcount, hrounds,
      mget_mset_same _ _ _ _⟩
  · exact ⟨_, (execDtrickCfg_asks hp hi).trans (congrArg Host.Outcome.next (dtrickAsked_waits i parties ht)), mget_mset_same _ _ _ _, rfl⟩
  · obtain ⟨hparties, hcount⟩ := dtrickSet_regs s i hp
    exact ⟨_, (execDtrickCfg_asks hp hi).trans (congrArg Host.Outcome.next (dtrickAsked_sets i parties ht hr hd)), hparties, hcount, mget_mset_same _ _ _ _⟩
  · exact ⟨_, execCallRingMessage_carried ⟨hsrc, hdst, hpos, hmax⟩ hi hk hc, ringCarried_stat s w rfl⟩
  · subst he
    exact execCallRingMessage_lost ⟨hsrc, hdst, hpos, hmax⟩ hk hb hf hr
  · subst hhn
    exact ⟨_, (execDomainTrickPlay_manager hman src i h).trans (congrArg Host.Outcome.next (dtrickPlay_counts hp ho hw)), dtrickCounted_leaves s src i h rfl⟩
  · subst hhn
    exact ⟨_, (execDomainTrickPlay_manager hman src i h).trans (congrArg Host.Outcome.next (dtrickPlay_releases hp ho hw)), dtrickClosed_leaves s i h rfl⟩
  · subst hhn
    exact ⟨_, (execDomainTrickPlay_manager hman src i h).trans (congrArg Host.Outcome.next (dtrickPlay_late hp hr hlt hsrc)),
      Sends.dtricks (Sends.sendCtl _ _ _), sendCtl_emits _ hroute⟩
end
section
/-! The issue of instructions (08_ifeom_programming_model.md R258, 09_ifeom_control_and_movement.md R260 to R264, R280, R281): a false guard, the
compares and predicates, reads into RD, branches, waits and software traps. -/
namespace Sys2Proof.Machine
open Sys2Proof.Claims

variable {s t : State} {f : Nat} {w : IWord} {m : Form} {body : State → Face → Done}

/-! ### What issue comes to -/

theorem names_of_decodes (h : m.decodes w = true) : m.names w = true := by
  unfold Form.decodes at h
  simp only [Bool.and_eq_true] at h
  obtain ⟨⟨⟨⟨⟨hnames, -⟩, -⟩, -⟩, -⟩, -⟩ := h
  exact hnames

/-- The instruction is passed over: its corrected words are counted, and issue goes on behind it. -/
def State.skipped (s : State) (f : Nat) (m : Form) : State := (s.fetched f m).modFace f (fun y => { y with pc := y.pc + m.len + 1 })

/-- An instruction whose guard is false is passed over (R258). -/
theorem issue_skips (hr : (s.face f).run = .issuing) (hc : (s.face f).pc < (s.face f).codeEnd)
    (hw : (s.face f).badWord (s.face f).pc (m.len + 1) = none) (hd : m.decodes w = true) (hg : guardTrue (s.face f) w = false)
    (body : State → Face → Done) : issue s f w m body = s.skipped f m := by
  unfold issue
  dsimp only
  rw [if_neg (by simp [hr, names_of_decodes hd]), if_neg (Nat.not_le.mpr hc), hw]
  dsimp only
  rw [if_neg (by simp [hd]), if_pos hg]
  rfl

theorem skipped_is (s : State) (f : Nat) (m : Form) : (s.skipped f m).face f = { s.face f with pc := s.pcNext f m } ∧
    (s.skipped f m).rd R.FCE_ISSUE_STAT.ISSUED f = s.rd R.FCE_ISSUE_STAT.ISSUED f ∧ s.Frame (s.skipped f m) [(R.FCE_STORE_ERR.CORRECTED, f)] [f] :=
  ⟨face_modFace_same _ _ _, fetched_rd _ _ _ _ _ (by decide),
    Frame.modFace (Frame.bumpBy (Frame.refl _ _ _) List.mem_cons_self) List.mem_cons_self⟩

theorem issue_jump {a : Nat} (h : Issues s f w m) (hb : body (s.fetched f m) (s.face f) = .jump t a) :
    issue s f w m body = (t.bump R.FCE_ISSUE_STAT.ISSUED f).modFace f (fun y => { y with pc := a }) := by rw [issue_eq h, hb]

/-- An instruction with no effect of its own retires. -/
theorem issue_passes (h : Issues s f w m) (hb : body (s.fetched f m) (s.face f) = .next (s.fetched f m)) :
    goesTo s f m (s.pcNext f m) (issue s f w m body) := by
  rw [issue_next h hb]
  exact retires_none _ _ rfl

/-- A jump with no other effect. -/
theorem issue_goesTo {a : Nat} (h : Issues s f w m) (hb : body (s.fetched f m) (s.face f) = .jump (s.fetched f m) a) :
    goesTo s f m a (issue s f w m body) := by
  rw [issue_jump h hb]
  exact retires_none _ _ rfl

/-- An instruction that changes its face and goes on behind it. -/
theorem issue_retires {g : Face → Face} (h : Issues s f w m) (hb : body (s.fetched f m) (s.face f) = .next ((s.fetched f m).modFace f g)) :
    Retires s f m { g (s.face f) with pc := (g (s.face f)).pc + m.len + 1 } (issue s f w m body) := by
  rw [issue_next h hb]
  exact retires_of _ _ _ rfl

/-- An instruction that changes its face and goes on elsewhere. -/
theorem issue_retiresAt {g : Face → Face} {a : Nat} (h : Issues s f w m)
    (hb : body (s.fetched f m) (s.face f) = .jump ((s.fetched f m).modFace f g) a) :
    Retires s f m { g (s.face f) with pc := a } (issue s f w m body) := by
  rw [issue_jump h hb]
  exact retires_of _ _ _ rfl

/-! ### Compares and predicates (R264) -/

/-- A write of a predicate leaves the program counter, and commutes with a change of it. -/
theorem setP_pc (x : Face) (i : Nat) (b : Bool) (n : Nat) : { x.setP i b with pc := (x.setP i b).pc + n } = { x.setP i b with pc := x.pc + n } := by
  unfold Face.setP
  split <;> rfl

theorem issuePD_setsPD (h : Issues s f w m) (v : Face → Bool) : setsPD s f w m (v (s.face f)) (issuePD s f w m v) := by
  rw [issuePD, issue_next h rfl]
  exact retires_of _ _ _ (setP_pc _ _ _ (m.len + 1)).symm

theorem decide_eq_toNat (a b : Word) : decide (a = b) = decide (a.toNat = b.toNat) := decide_eq_decide.mpr BitVec.toNat_inj.symm

theorem decide_ne_toNat (a b : Word) : decide (a ≠ b) = decide (a.toNat ≠ b.toNat) := decide_eq_decide.mpr (not_congr BitVec.toNat_inj.symm)

/-- The sign of IMM16 lies above the bits that name a bit of RA. -/
theorem imm16_mod (w : IWord) : (imm16 w).toNat % 64 = (w.ops.extractLsb' 16 16).toNat % 64 := by
  rw [imm16, BitVec.toNat_signExtend, BitVec.toNat_setWidth]
  have hlt := (w.ops.extractLsb' 16 16).isLt
  split <;> omega

/-- A compare: where both forms compute `g`, and `g` is the row's comparison, both have that truth value. -/
theorem compareRow {reg imm : Nat → IWord → Instr} {op : Nat} {g result : Word → Word → Bool}
    (hreg : ∀ f w s, exec (reg f w) s = .next (issuePD s f w (formPRR op) (fun x => g (vRA x w) (vRB x w))))
    (himm : ∀ f w s, exec (imm f w) s = .next (issuePD s f w (formPRI (op + 0x40)) (fun x => g (vRA x w) (imm16 w))))
    (hg : ∀ a b, g a b = result a b) (f : Nat) (w : IWord) (s : State) :
    (Issues s f w (formPRR op) → ∃ t, exec (reg f w) s = .next t ∧
      setsPD s f w (formPRR op) (result ((s.face f).sreg (fRA w)) ((s.face f).sreg (fRB w))) t) ∧
    (Issues s f w (formPRI (op + 0x40)) → ∃ t, exec (imm f w) s = .next t ∧
      setsPD s f w (formPRI (op + 0x40)) (result ((s.face f).sreg (fRA w)) ((w.ops.extractLsb' 16 16).signExtend 64)) t) := by
  simp only [← hg]
  exact ⟨fun h => ⟨_, hreg f w s, issuePD_setsPD h fun x => g (vRA x w) (vRB x w)⟩,
    fun h => ⟨_, himm f w s, issuePD_setsPD h fun x => g (vRA x w) (imm16 w)⟩⟩

/-! ### RDS (R264) -/

/-- RDS knows the special registers of R264, and no other. -/
theorem special_iff (s : State) (f i : Nat) (v : Word) : special s f (s.face f) i = some v ↔ (i, v) ∈ specialValue s f := by
  unfold special specialValue
  split <;> simp_all [eq_comm]

theorem special_none (h : i ∉ (specialValue s f).map (·.1)) : special s f (s.face f) i = none := by
  rw [Option.eq_none_iff_forall_ne_some]
  exact fun v hv => h (List.mem_map_of_mem ((special_iff s f i v).mp hv))

theorem fetched_special (s : State) (f : Nat) (m : Form) (i : Nat) : special (s.fetched f m) f (s.face f) i = special s f (s.face f) i := by
  unfold special
  rw [fetched_devAddr]
  rfl

/-- An instruction that writes RD alone. -/
theorem issue_setsRD {v : Word} (h : Issues s f w m)
    (hb : body (s.fetched f m) (s.face f) = .next ((s.fetched f m).modFace f (fun y => y.setS (fRD w) v))) :
    setsRD s f w m v (issue s f w m body) := by
  rw [issue_next h hb]
  exact retires_of _ _ _ (setS_pc _ _ _ (m.len + 1)).symm

/-! ### Branches (R260, R261) -/

theorem branchTo_within (t : State) {x : Face} {a : Nat} (h : a < x.codeEnd) : branchTo t x a = .jump t a := if_neg (Nat.not_le.mpr h)

theorem branchTo_beyond (t : State) {x : Face} {a : Nat} (h : x.codeEnd ≤ a) : branchTo t x a = illegal 4 := if_pos h

theorem setL_of_lt {v : Nat} (h : v < 2 ^ 32) (x : Face) (i : Nat) : x.setL i v = { x with l := mset 0 x.l i v } := by
  rw [Face.setL, Nat.mod_eq_of_lt h]

/-! ### Waits (R262, R276, R280) -/

/-- Face f's issue stalled, with the instruction counted as issued. -/
def State.waiting (s : State) (f : Nat) (m : Form) (why : Stall) : State :=
  ((s.fetched f m).bump R.FCE_ISSUE_STAT.ISSUED f).modFace f (fun y => { y with run := .stalled why })

/-- An instruction that stalls goes on at once where its wait is over already. -/
theorem issue_stall {why : Stall} (h : Issues s f w m) (hb : body (s.fetched f m) (s.face f) = .stall (s.fetched f m) why) :
    issue s f w m body = (s.waiting f m why).wake f := by
  rw [issue_eq h, hb]
  rfl

theorem waiting_face (s : State) (f : Nat) (m : Form) (why : Stall) : (s.waiting f m why).face f = { s.face f with run := .stalled why } :=
  face_modFace_same _ _ _

theorem waiting_stallsAt (s : State) (f : Nat) (m : Form) (why : Stall) : stallsAt s f m why (s.waiting f m why) := retires_none _ _ rfl

/-- A further change of the face. -/
theorem Retires.modFace {x : Face} (h : Retires s f m x t) (g : Face → Face) : Retires s f m (g x) (t.modFace f g) :=
  ⟨⟨h.issued, h.fixed⟩, by rw [face_modFace_same, h.face], Frame.modFace h.frame List.mem_cons_self⟩

/-- A wait that is over: issue goes on behind the instruction. -/
def Face.resumed (x : Face) : Face := { x with run := .issuing, pc := x.pc + 1 }

/-- A face that stalls and goes on at once is as if it had not stalled. -/
theorem resumed_stalled {x : Face} (hr : x.run = .issuing) (why : Stall) : Face.resumed { x with run := .stalled why } = { x with pc := x.pc + 1 } := by
  rw [Face.resumed, ← hr]

/-- A stalled instruction of one word that goes on at once has no effect. -/
theorem waiting_resumes (hr : (s.face f).run = .issuing) (m : Form) (why : Stall) :
    goesTo s f m ((s.face f).pc + 1) ((s.waiting f m why).modFace f Face.resumed) := by
  have hret := (waiting_stallsAt s f m why).modFace Face.resumed
  rw [resumed_stalled hr] at hret
  exact hret

theorem wake_twait {u : Nat} (h : (t.face f).run = .stalled (.twait u)) : t.wake f = t := by
  unfold State.wake
  dsimp only
  rw [h]

theorem wake_fence {k : Nat} (h : (t.face f).run = .stalled (.fence k)) : t.wake f =
    if ((t.face f).queue ++ (t.face f).started).any (fun q => !q.discard && (decide (k = 0) || bit k q.eng.ctorIdx)) then t
    else t.modFace f Face.resumed := by
  unfold State.wake
  dsimp only
  rw [h]
  rfl

theorem wake_waitShort {k n : Nat} (h : (t.face f).run = .stalled (.wait k n)) (hn : (mget {} (t.face f).ctr k).value < n) : t.wake f = t := by
  unfold State.wake
  dsimp only
  rw [h]
  exact if_neg (Nat.not_le.mpr hn)

/-- Counter k of the face at another value. -/
def Face.withCtr (x : Face) (k v : Nat) : Face := { x with ctr := mset {} x.ctr k { mget {} x.ctr k with value := v } }

theorem ctrAdd_within {k : Nat} {n v : Int} (hv : v = ((mget {} (s.face f).ctr k).value : Int) + n)
    (h : 0 ≤ v ∧ v ≤ ((mget {} (s.face f).ctr k).ceil : Int)) : s.ctrAdd f k n = some (s.modFace f (fun x => x.withCtr k v.toNat)) := by
  subst hv
  exact if_pos h

/-- A wait that the counter satisfies takes its amount (R276). -/
theorem wake_waitTakes {k n : Nat} (h : (t.face f).run = .stalled (.wait k n)) (hn : n ≤ (mget {} (t.face f).ctr k).value)
    (hc : (mget {} (t.face f).ctr k).value ≤ (mget {} (t.face f).ctr k).ceil) :
    t.wake f = (t.modFace f (fun x => x.withCtr k ((mget {} (t.face f).ctr k).value - n))).modFace f Face.resumed := by
  have hadd := ctrAdd_within (s := t) (f := f) (k := k) (n := -(n : Int)) rfl (by omega)
  rw [show ((mget {} (t.face f).ctr k).value + -(n : Int)).toNat = (mget {} (t.face f).ctr k).value - n by omega] at hadd
  unfold State.wake
  dsimp only
  rw [h]
  dsimp only
  rw [if_pos hn, hadd]
  rfl

/-- WAIT with a counter that holds its amount takes it and goes on. -/
theorem waiting_takes {k n : Nat} (hr : (s.face f).run = .issuing) (m : Form) (hn : n ≤ (mget {} (s.face f).ctr k).value)
    (hc : (mget {} (s.face f).ctr k).value ≤ (mget {} (s.face f).ctr k).ceil) :
    Retires s f m { (s.face f).withCtr k ((mget {} (s.face f).ctr k).value - n) with pc := (s.face f).pc + 1 } ((s.waiting f m (.wait k n)).wake f) := by
  have hface := waiting_face s f m (.wait k n)
  rw [wake_waitTakes (congrArg Face.run hface) (by rw [hface]; exact hn) (by rw [hface]; exact hc), hface]
  have hret := ((waiting_stallsAt s f m (.wait k n)).modFace (fun x => x.withCtr k ((mget {} (s.face f).ctr k).value - n))).modFace Face.resumed
  rw [show Face.withCtr { s.face f with run := .stalled (.wait k n) } k _ = { (s.face f).withCtr k _ with run := .stalled (.wait k n) } from rfl,
    resumed_stalled (x := (s.face f).withCtr k _) hr] at hret
  exact hret

/-- TWAIT_EXPIRY moves device time on to the instant awaited, and issue goes on (R262). -/
theorem execTwaitExpiry_resumes {u : Nat} (h : (s.face f).run = .stalled (.twait u)) : ∃ t, execTwaitExpiry f s = .next t ∧ t.now = max s.now u ∧
    t.face f = { s.face f with run := .issuing, pc := (s.face f).pc + 1 } ∧ s.Frame { t with now := s.now } [] [f] := by
  refine ⟨({ s with now := max s.now u }).modFace f Face.resumed, ?_, rfl, face_modFace_same _ _ _,
    Frame.modFace (Frame.refl s _ _) List.mem_cons_self⟩
  unfold execTwaitExpiry
  rw [h]
  rfl

/-! ### TRAP (R250, R281) -/

theorem opf_lt (w : IWord) (lo wd : Nat) : opf w lo wd < 2 ^ wd := BitVec.isLt _

/-- A software trap that is taken. -/
theorem softTrap_taken {v target tpc : Nat} {info : Word} (h : Issues s f w m) (hv : v < 2 ^ 8)
    (hb : body (s.fetched f m) (s.face f) = .whole (((s.fetched f m).trapStat f v tpc).modFace f (fun y => y.enter .software v tpc target info))) :
    (issue s f w m body).face f = (s.face f).enter .software v tpc target info ∧ (issue s f w m body).rd R.FCE_TRAP_STAT.LAST_VECTOR f = v ∧
      (issue s f w m body).rd R.FCE_TRAP_STAT.VALID f = 1 ∧
      s.Frame (issue s f w m body)
        (issueFields f ++ [(R.FCE_TRAP_STAT.LAST_VECTOR, f), (R.FCE_TRAP_STAT.LAST_PC, f), (R.FCE_TRAP_STAT.VALID, f)]) [f] := by
  rw [issue_whole h hb]
  refine ⟨?_, ?_, ?_, ?_⟩
  · rw [face_bump, face_modFace_same]
    rfl
  · rw [rd_bump_apart _ _ _ _ _ (by decide), rd_modFace, State.trapStat, rd_wr_apart _ _ _ _ _ _ (by decide), rd_wr_apart _ _ _ _ _ _ (by decide)]
    exact (rd_wr_same _ _ _ _ (by decide)).trans (Nat.mod_eq_of_lt hv)
  · rw [rd_bump_apart _ _ _ _ _ (by decide), rd_modFace]
    exact rd_wr_same _ _ _ _ (by decide)
  · refine Frame.bump (Frame.modFace (Frame.wr (Frame.wr (Frame.wr (Frame.bumpBy (Frame.refl _ _ _) ?_) ?_) ?_) ?_) ?_) ?_ <;> simp [issueFields]

end Sys2Proof.Machine
end

section
open Sys2Proof Sys2Proof.Machine Sys2Proof.Claims

/-- Settles O9: issue passes over the instruction.  That only an instruction whose guard is true counts in ISSUED is the model's choice (log
entry 40). -/
theorem falseGuardSkips : Obligations.FalseGuardSkips := by
  unfold Obligations.FalseGuardSkips
  intro i f w m s hi hr hc hw hd hg
  obtain ⟨body, hexec⟩ := exec_issue (s := s) hi
  exact ⟨_, hexec.trans (congrArg Host.Outcome.next (issue_skips hr hc hw hd hg body)), skipped_is s f m⟩

/-- Settles O13, row by row of the compares. -/
theorem compareResults : Obligations.CompareResults := by
  unfold Obligations.CompareResults compareOps
  simp only [List.forall_mem_cons]
  refine ⟨?_, ?_, ?_, ?_, ?_, ?_, List.forall_mem_nil _⟩
  · exact compareRow (fun _ _ _ => rfl) (fun _ _ _ => rfl) decide_eq_toNat
  · exact compareRow (fun _ _ _ => rfl) (fun _ _ _ => rfl) decide_ne_toNat
  · exact compareRow (g := BitVec.slt) (fun _ _ _ => rfl) (fun _ _ _ => rfl) (fun _ _ => BitVec.slt_eq_decide)
  · exact compareRow (g := BitVec.ult) (fun _ _ _ => rfl) (fun _ _ _ => rfl) (fun _ _ => BitVec.ult_eq_decide)
  · exact compareRow (g := BitVec.sle) (fun _ _ _ => rfl) (fun _ _ _ => rfl) (fun _ _ => BitVec.sle_eq_decide)
  · exact compareRow (g := BitVec.ule) (fun _ _ _ => rfl) (fun _ _ _ => rfl) (fun _ _ => BitVec.ule_eq_decide)

/-- Settles O14: each operation is the issue of its truth value. -/
theorem predicateResults : Obligations.PredicateResults := by
  unfold Obligations.PredicateResults
  intro f w s
  refine ⟨fun h => ⟨_, rfl, issuePD_setsPD h fun x => x.preg (fPA w) && x.preg (fPB w)⟩,
    fun h => ⟨_, rfl, issuePD_setsPD h fun x => x.preg (fPA w) || x.preg (fPB w)⟩,
    fun h => ⟨_, rfl, issuePD_setsPD h fun x => xor (x.preg (fPA w)) (x.preg (fPB w))⟩,
    fun h => ⟨_, rfl, issuePD_setsPD h fun x => !x.preg (fPA w)⟩,
    fun h => ⟨_, rfl, ?_⟩⟩
  rw [← imm16_mod]
  exact issuePD_setsPD h fun x => (vRA x w).getLsbD ((imm16 w).toNat % 64)

/-- Settles O15: LI and RRD are issues of their value, and RDS reads the special registers of R264 alone. -/
theorem readsIntoRD : Obligations.ReadsIntoRD := by
  unfold Obligations.ReadsIntoRD
  intro f w s
  refine ⟨fun h => ⟨_, rfl, issueRD_setsRD h fun _ => w.w1⟩, fun h => ⟨_, rfl, issueRD_setsRD h fun x => x.areg (opf w 28 4)⟩,
    fun v hv h => ⟨_, rfl, issue_setsRD h ?_⟩, fun hn h hh target ht => ⟨_, rfl, issue_faultTrap h ?_ hh ht⟩⟩
  · rw [fetched_special, fSPEC, (special_iff s f _ v).mpr hv]
  · rw [fetched_special, fSPEC, special_none hn]
    rfl

/-- Settles O19: each is the issue of its jump, or of its change of the face. -/
theorem branchResults : Obligations.BranchResults := by
  unfold Obligations.BranchResults
  intro f w s
  exact ⟨fun h => ⟨_, rfl, issue_passes h rfl⟩, fun h hc => ⟨_, rfl, issue_goesTo h (branchTo_within _ hc)⟩,
    fun h hc => ⟨_, rfl, issue_retiresAt (g := fun y => y.setS (fRD w) (BitVec.ofNat 64 ((s.face f).pc + 1))) h (branchTo_within _ hc)⟩,
    fun h hc => ⟨_, rfl, issue_goesTo h (branchTo_within _ hc)⟩,
    fun h => ⟨_, rfl, issue_retires (g := fun y => y.setL (fL w) (((s.face f).sreg (fRA w)).toNat + fIMM32 w)) h rfl⟩⟩

/-- Settles O20: LBR at a counter of 0, of 1, and above. -/
theorem loopBranch : Obligations.LoopBranch := by
  unfold Obligations.LoopBranch
  intro f w s h hc hl
  have hwithin : ¬ fTarget w ≥ (s.face f).codeEnd := Nat.not_le.mpr hc
  refine ⟨_, rfl, ?_⟩
  split
  · next hn => exact issue_passes h (by simp only [hn, if_neg hwithin, if_true])
  · next hn =>
    refine issue_retires (g := fun y => y.setL (fL w) 0) h ?_
    simp only [hn, if_neg hwithin, one_ne_zero, Nat.sub_self, if_false, if_true]
  · next n hn =>
    refine issue_retiresAt (g := fun y => { y with l := mset 0 y.l (fL w) (n + 1) }) h ?_
    simp [hn, hwithin, setL_of_lt (by omega : n + 1 < 2 ^ 32)]

/-- Settles O21: the target is tested before any effect. -/
theorem branchTraps : Obligations.BranchTraps := by
  unfold Obligations.BranchTraps
  exact fun f w s target hh hv => ⟨fun hc => ⟨fun h => ⟨_, rfl, issue_faultTrap h (branchTo_beyond _ hc) hh hv⟩,
      fun h => ⟨_, rfl, issue_faultTrap h (branchTo_beyond _ hc) hh hv⟩, fun h => ⟨_, rfl, issue_faultTrap h (if_pos hc) hh hv⟩⟩,
    fun hc h => ⟨_, rfl, issue_faultTrap h (branchTo_beyond _ hc) hh hv⟩⟩

/-- Settles O22: TWAIT stalls, or passes where its instant is past, and TWAIT_EXPIRY resumes. -/
theorem timedWait : Obligations.TimedWait := by
  unfold Obligations.TimedWait
  intro f w s
  refine ⟨fun h => ⟨fun hlt => ⟨_, congrArg Host.Outcome.next (issue_stall h (if_neg (Nat.not_le.mpr hlt))), ?_⟩,
      fun hle => ⟨_, rfl, issue_passes h (if_pos hle)⟩⟩,
    fun u hu => execTwaitExpiry_resumes hu⟩
  rw [wake_twait (congrArg Face.run (waiting_face _ _ _ _))]
  exact waiting_stallsAt _ _ _ _

/-- Settles O25: TRAP outside a handler, TRAP in a handler with nothing held, and TRAP refused. -/
theorem softwareTrap : Obligations.SoftwareTrap := by
  unfold Obligations.SoftwareTrap
  intro f w s h
  refine ⟨fun target hv hh => ⟨_, rfl, softTrap_taken h ?_ ?_⟩, fun target hv hh hs => ⟨_, rfl, ?_⟩,
    fun hbad hh target ht => ⟨_, rfl, issue_faultTrap h ?_ hh ht⟩⟩
  · have := opf_lt w 32 5
    omega
  · dsimp only [fRA]
    rw [hv]
    exact if_pos hh
  · refine issue_retires (g := fun y => { y with heldSoft := some (32 + opf w 32 5, BitVec.ofNat 64 (opf w 0 32)) }) h ?_
    dsimp only [fRA]
    rw [hv]
    dsimp only
    rw [if_neg hh, hs]
    rfl
  · dsimp only [fRA]
    rcases hbad with hnone | ⟨hin, hheld⟩
    · rw [hnone]
      rfl
    · split
      · rfl
      · rw [if_neg hin, if_pos hheld]
        rfl

/-- Settles O26: FENCE stalls, and goes on at once where no operation that it waits for is outstanding. -/
theorem fenceResults : Obligations.FenceResults := by
  unfold Obligations.FenceResults
  intro f w s h
  refine ⟨_, congrArg Host.Outcome.next (issue_stall h rfl), ?_⟩
  rw [wake_fence (congrArg Face.run (waiting_face _ _ _ _))]
  simp only [waiting_face, bit_eq_testBit]
  split
  · exact waiting_stallsAt _ _ _ _
  · exact waiting_resumes h.run _ _
end
section
/-! ST and the refusals of range setup (09_ifeom_control_and_movement.md R265, R266, R622; 11_synchronisation.md R331). -/
namespace Sys2Proof.Machine
open Sys2Proof.Claims

variable {s t : State} {f line : Nat} {w : IWord} {m : Form} {body : State → Face → Done}

/-! ### ST -/

/-- A store to a line that no unreleased slot holds races with nothing (R331). -/
theorem raceWrite_unraced (h : Unraced s f line) (before : Face) : s.raceWrite before f line line = s := by
  unfold State.raceWrite
  refine List.foldlRecOn (motive := fun u : State => u = s) s.faces _ rfl (fun u hu e he => ?_)
  refine List.foldlRecOn (motive := fun v : State => v = s) e.2.wins _ hu (fun v hv n hn => ?_)
  subst hv
  dsimp only
  split
  · next hopen =>
    obtain ⟨hstate, hfan⟩ := hopen
    rw [bit_eq_testBit] at hfan
    refine loop_idle (fun k hk => if_pos ?_)
    rcases h e he n hn with hclosed | hout | hslots
    · exact absurd hclosed (Nat.not_lt.mpr hstate)
    · exact absurd (hfan.symm.trans hout) (by decide)
    · exact hslots k hk
  · rfl

/-- What races depends on the windows and their registers alone. -/
theorem unraced_congr (h : Unraced s f line) (hstate : ∀ i, t.reg .SYN_WIN_STATE i = s.reg .SYN_WIN_STATE i)
    (hcfg : ∀ i, t.reg .SYN_WIN_CFG i = s.reg .SYN_WIN_CFG i)
    (hwins : ∀ e ∈ t.faces, ∀ n ∈ e.2.wins, ∃ x : Face, (e.1, x) ∈ s.faces ∧ n ∈ x.wins) : Unraced t f line := by
  intro e he n hn
  obtain ⟨x, hx, hnx⟩ := hwins e he n hn
  have hs (g : Fld) (i : Nat) (hg : g.reg = .SYN_WIN_STATE) : t.rd g i = s.rd g i := by rw [State.rd, State.rd, hg, hstate]
  have hc (g : Fld) (i : Nat) (hg : g.reg = .SYN_WIN_CFG) : t.rd g i = s.rd g i := by rw [State.rd, State.rd, hg, hcfg]
  have hgeom : t.winGeom e.1 n.1 = s.winGeom e.1 n.1 := by
    rw [State.winGeom, State.winGeom, hc _ _ rfl, hc _ _ rfl, hc _ _ rfl]
  rw [State.winState, hs _ _ rfl, hc _ _ rfl, hgeom]
  exact h _ hx n hnx

/-- A change of a face that keeps its windows opens none. -/
theorem modFace_wins {g : Face → Face} (hg : (g (t.face f)).wins = (t.face f).wins) :
    ∀ e ∈ (t.modFace f g).faces, ∀ n ∈ e.2.wins, ∃ x : Face, (e.1, x) ∈ t.faces ∧ n ∈ x.wins := by
  intro e he n hn
  rcases mset_keys _ _ _ _ e he with rfl | he
  · have hn : n ∈ (t.face f).wins := hg ▸ hn
    rcases mget_default_or_mem {} t.faces f with hd | hm
    · rw [State.face, hd] at hn
      exact absurd hn List.not_mem_nil
    · exact ⟨_, hm, hn⟩
  · exact ⟨_, he, hn⟩

/-- The word stored: the fetch counted, the use of the scoreboard noted, and the word in its place. -/
def State.wordStored (s : State) (f : Nat) (w : IWord) : State :=
  ((s.fetched f stForm).sbNote f 1).modFace f (fun y => y.padPut ((wordAddr s f w).toNat / 8) ((s.face f).sreg (fRD w)) false)

theorem wordStored_unraced (h : Unraced s f line) (w : IWord) : Unraced (s.wordStored f w) f line := by
  refine unraced_congr h (fun i => ?_) (fun i => ?_) (modFace_wins (padPut_wins _ _ _ _))
  · exact (reg_wr_ne _ _ _ _ _ _ (by decide)).trans (fetched_reg _ _ _ _ _ (by decide))
  · exact (reg_wr_ne _ _ _ _ _ _ (by decide)).trans (fetched_reg _ _ _ _ _ (by decide))

/-- ST of a clear word with no slot armed. -/
theorem execSt_stores (h : Issues s f w stForm) (hw : WordClear s f w true) (hr : Unraced s f ((wordAddr s f w).toNat / 128)) (hi : s.injs = []) :
    execSt f w s = .next (((s.wordStored f w).bump R.FCE_ISSUE_STAT.ISSUED f).modFace f (fun y => { y with pc := y.pc + stForm.len + 1 })) := by
  have hinj : (s.wordStored f w).injStored f ((wordAddr s f w).toNat / 8) 1 = s.wordStored f w := injStored_nil (by exact hi) _ _ _
  have hrace : ((s.wordStored f w).injStored f ((wordAddr s f w).toNat / 8) 1).raceWrite ((s.fetched f stForm).face f) f ((wordAddr s f w).toNat / 128)
      ((wordAddr s f w).toNat / 128) = s.wordStored f w := by rw [hinj, raceWrite_unraced (wordStored_unraced hr w)]
  exact congrArg Host.Outcome.next (issue_next h ((wordChecks_clear hw stForm _).trans (congrArg Done.next hrace)))

theorem padPut_pc (x : Face) (i : Nat) (v : Word) (b : Bool) : (x.padPut i v b).pc = x.pc := by
  unfold Face.padPut Face.padOpen
  split <;> rfl

/-! ### Range setup that is refused (R266, R622) -/

theorem setRange_empty (t : State) (f ad base groups : Nat) (bad : Bool) : setRange t f ad base 0 groups bad = rangeFault 6 1 ad 0 := by
  rw [setRange, if_neg (fun k => k.1 rfl), if_pos (by simp [rangeLimitFault])]

/-- A populated range with a further fault of CHECK 6. -/
theorem setRange_bad {base len : Nat} (h : base + len ≤ 25165824) (t : State) (f ad groups : Nat) :
    setRange t f ad base len groups true = rangeFault 6 1 ad 0 := by
  rw [setRange, if_neg (by omega), Bool.true_or, Bool.true_or, if_pos rfl]

end Sys2Proof.Machine
end

section
open Sys2Proof Sys2Proof.Machine Sys2Proof.Claims

/-- Settles O17: ST leaves the face with the word put, and races with nothing. -/
theorem storeResult : Obligations.StoreResult := by
  unfold Obligations.StoreResult
  intro f w s h hw hr hi
  have hdone : AccessDone s f stForm _ [] _ := accessDone_of
    (fun y => y.padPut ((wordAddr s f w).toNat / 8) ((s.face f).sreg (fRD w)) false) (fun y => { y with pc := y.pc + stForm.len + 1 })
    { (s.face f).padPut ((wordAddr s f w).toNat / 8) ((s.face f).sreg (fRD w)) false with pc := s.pcNext f stForm } (by rw [padPut_pc]; rfl)
  refine ⟨_, execSt_stores h hw hr hi, hdone, ?_, fun j hj => ?_⟩
  · exact (congrArg (Face.padWord · _) hdone.face).trans (padWord_padPut_same _ _ _ _)
  · exact (congrArg (Face.padWord · _) hdone.face).trans (padWord_padPut_other _ _ _ _ _ hj)

/-- Settles O28: CHECK 6 is raised before AD is written. -/
theorem rangeTraps : Obligations.RangeTraps := by
  unfold Obligations.RangeTraps
  intro f w s target hh hv
  refine ⟨fun h hlen => ⟨_, rfl, issue_faultTrap h ?_ hh hv⟩, fun h hlen => ⟨_, rfl, issue_faultTrap h ?_ hh hv⟩,
    fun src hsrc h hout hfit => ⟨_, rfl, issue_faultTrap h ?_ hh hv⟩⟩
  · rw [hlen]
    exact setRange_empty _ _ _ _ _ _
  · dsimp only [rngLen]
    rw [hlen]
    exact setRange_empty _ _ _ _ _ _
  · subst hsrc
    exact (congrArg (setRange _ _ _ _ _ _) (decide_eq_true hout)).trans (setRange_bad hfit _ _ _ _)
end
section
/-! Counters and signals at issue (11_synchronisation.md R276, R278, R312; 02_faces_and_networks.md R271). -/
namespace Sys2Proof.Machine
open Sys2Proof.Claims

variable {s t : State} {f : Nat} {w : IWord} {m : Form} {body : State → Face → Done}

/-! ### Changes of a counter, and revokes (R276, R312) -/

/-- A revoke of the issuing face: the trap of vector 3 with the revoke's image, and the count (R312). -/
theorem issue_revokes {img : Word} {target : Nat} (h : Issues s f w m)
    (hb : body (s.fetched f m) (s.face f) = .trapIn ((s.fetched f m).revokeRecord f img) 3 img) (hh : (s.face f).handler ≠ .fault)
    (hv : (s.face f).vector 3 = some target) : FaultTrap s f 3 img target (issue s f w m body) ∧
      (issue s f w m body).rd R.SYN_FACE_STAT.REVOKES f = min (s.rd R.SYN_FACE_STAT.REVOKES f + 1) (2 ^ R.SYN_FACE_STAT.REVOKES.wd - 1) := by
  have hfaces : ((s.fetched f m).revokeRecord f img).faces = s.faces := raise_faces _ _
  have hface : ((s.fetched f m).revokeRecord f img).face f = s.face f := by rw [State.face, hfaces, State.face]
  rw [issue_trapIn h hb]
  refine ⟨faultTrap_trapFault hfaces ?_ h.run hh hv, ?_⟩
  · rw [State.revokeRecord, raise_rd _ _ _ _, rd_bump_apart _ _ _ _ _ (by decide), fetched_rd _ _ _ _ _ (by decide)]
  · rw [trapFault_rd (hface ▸ h.run) (hface ▸ hh) (hface ▸ hv) R.SYN_FACE_STAT.REVOKES, State.revokeRecord, raise_rd _ _ _ _,
      rd_bump_same _ _ _ (by decide), fetched_rd _ _ _ _ _ (by decide)]

theorem ctrAdd_beyond {k : Nat} {n v : Int} (hv : v = ((mget {} (s.face f).ctr k).value : Int) + n)
    (h : v < 0 ∨ ((mget {} (s.face f).ctr k).ceil : Int) < v) : s.ctrAdd f k n = none := by
  subst hv
  exact if_neg (by omega)

/-- SIG and DEBIT: an instruction that changes its face's counter by `c` times N. -/
theorem counterRow {i : Nat → IWord → Instr} {op : Nat} {c : Int}
    (hi : ∀ f w s, exec (i f w) s = .next (issue s f w (formKN op) (fun t x =>
      if x.declares (fK w) = false then illegal 2 else ownChange t f (fK w) (c * amountN x w))))
    (f : Nat) (w : IWord) (s : State) (n : Nat) (v : Int) (h : Issues s f w (formKN op)) (hd : (s.face f).declares (fK w) = true)
    (hn : n = (((s.face f).sreg (opf w 27 5)).toNat + opf w 0 16) % 2 ^ 32) (hv : v = ((mget {} (s.face f).ctr (fK w)).value : Int) + c * n) :
    (0 ≤ v ∧ v ≤ ((mget {} (s.face f).ctr (fK w)).ceil : Int) → ∃ t, exec (i f w) s = .next t ∧
      Retires s f (formKN op) { s.face f with
        ctr := mset {} (s.face f).ctr (fK w) { mget {} (s.face f).ctr (fK w) with value := v.toNat }, pc := s.pcNext f (formKN op) } t) ∧
    (v < 0 ∨ ((mget {} (s.face f).ctr (fK w)).ceil : Int) < v → (s.face f).handler ≠ .fault → ∀ target, (s.face f).vector 3 = some target →
      ∃ t, exec (i f w) s = .next t ∧ FaultTrap s f 3 (revokeImage (fK w) false 0 s.devAddr f (c * n)) target t ∧
        t.rd R.SYN_FACE_STAT.REVOKES f = min (s.rd R.SYN_FACE_STAT.REVOKES f + 1) (2 ^ R.SYN_FACE_STAT.REVOKES.wd - 1)) := by
  have hbody : (if (s.face f).declares (fK w) = false then illegal 2 else ownChange (s.fetched f (formKN op)) f (fK w) (c * amountN (s.face f) w)) =
      ownChange (s.fetched f (formKN op)) f (fK w) (c * n) := by
    rw [if_neg (by rw [hd]; decide), amountN, ← hn]
  refine ⟨fun hin => ⟨_, hi f w s, ?_⟩, fun hout hh target ht => ⟨_, hi f w s, issue_revokes h (hbody.trans ?_) hh ht⟩⟩
  · refine issue_retires (g := fun x => x.withCtr (fK w) v.toNat) h (hbody.trans ?_)
    rw [ownChange, ctrAdd_within (s := s.fetched f (formKN op)) hv hin]
  · rw [ownChange, ctrAdd_beyond (s := s.fetched f (formKN op)) hv hout]
    dsimp only
    rw [fetched_devAddr]

theorem execWait_waits {n : Nat} (h : Issues s f w (formKN 0x003)) (hd : (s.face f).declares (fK w) = true)
    (hn : n = (((s.face f).sreg (opf w 27 5)).toNat + opf w 0 16) % 2 ^ 32) (hc : n ≤ (mget {} (s.face f).ctr (fK w)).ceil) :
    execWait f w s = .next ((s.waiting f (formKN 0x003) (.wait (fK w) n)).wake f) := by
  subst hn
  exact congrArg Host.Outcome.next (issue_stall h ((if_neg (by rw [hd]; decide)).trans (if_neg (Nat.not_lt.mpr hc))))

/-! ### BAL (R243) -/

/-- The check finds no difference where counters and handles are in order. -/
theorem imbalance_none (hc : ∀ e ∈ (s.face f).ctr, e.2.declared = true → e.2.check = true → e.2.value = e.2.entry)
    (hh : ∀ e ∈ (s.face f).handles, e.2.listed = true → e.2.play = none) : s.imbalance f = none := by
  have hctr : (s.face f).ctr.find? (fun e => e.2.declared && e.2.check && decide (e.2.value ≠ e.2.entry)) = none := by
    rw [List.find?_eq_none]
    intro e he hbad
    simp only [Bool.and_eq_true, decide_eq_true_eq] at hbad
    obtain ⟨⟨hdecl, hcheck⟩, hne⟩ := hbad
    exact hne (hc e he hdecl hcheck)
  have hhandles : (s.face f).handles.find? (fun e => e.2.listed && decide (e.2.play ≠ none)) = none := by
    rw [List.find?_eq_none]
    intro e he hbad
    simp only [Bool.and_eq_true, decide_eq_true_eq] at hbad
    obtain ⟨hlisted, hplay⟩ := hbad
    exact hplay (hh e he hlisted)
  rw [State.imbalance]
  rw [hctr, hhandles]

theorem fetched_imbalance (s : State) (f : Nat) (m : Form) : (s.fetched f m).imbalance f = s.imbalance f :=
  imbalance_congr rfl rfl (fetched_devAddr s f m)

/-! ### SIGF (R271) -/

/-- An instruction that offers messages to the call ring and does no more. -/
theorem issue_offers {ms : List RMsg} (h : Issues s f w m)
    (hb : body (s.fetched f m) (s.face f) = .next { s.fetched f m with ring := (s.fetched f m).ring ++ ms }) :
    Counted s f m (issue s f w m body) ∧ (issue s f w m body).face f = { s.face f with pc := s.pcNext f m } ∧
      (issue s f w m body).ring = s.ring ++ ms ∧ s.Frame { issue s f w m body with ring := s.ring } (issueFields f) [f] := by
  rw [issue_next h hb]
  refine ⟨Counted.of (u := s.fetched f m) ?_ rfl (fun _ _ => rfl), face_modFace_same _ _ _, rfl, ?_⟩
  · exact fetched_rd _ _ _ _ _ (by decide)
  · have h := (retires_none (s := s) (f := f) (m := m) (fun y => { y with pc := y.pc + m.len + 1 }) _ rfl).frame
    exact h

end Sys2Proof.Machine
end

section
open Sys2Proof Sys2Proof.Machine Sys2Proof.Claims

/-- Settles O29: SIG adds N, and DEBIT adds -N. -/
theorem counterResults : Obligations.CounterResults := by
  unfold Obligations.CounterResults
  simp only [List.forall_mem_cons]
  refine ⟨?_, ?_, List.forall_mem_nil _⟩
  · exact counterRow (fun _ _ _ => by simp only [one_mul]; rfl)
  · exact counterRow (fun _ _ _ => by simp only [neg_one_mul]; rfl)

/-- Settles O30: WAIT stalls, and is woken at once where the counter holds its amount. -/
theorem waitResults : Obligations.WaitResults := by
  unfold Obligations.WaitResults
  intro f w s n h hd hn hc hle
  have hface := waiting_face s f (formKN 0x003) (.wait (fK w) n)
  refine ⟨fun hhas => ⟨_, execWait_waits h hd hn hc, waiting_takes h.run _ hhas hle⟩, fun hshort => ⟨_, execWait_waits h hd hn hc, ?_⟩⟩
  rw [wake_waitShort (congrArg Face.run hface) (by rw [hface]; exact hshort)]
  exact waiting_stallsAt _ _ _ _

/-- Settles O31: the declaration is tested first, then WAIT's amount. -/
theorem counterTraps : Obligations.CounterTraps := by
  unfold Obligations.CounterTraps
  intro f w s target hh hv
  simp only [List.forall_mem_cons]
  refine ⟨fun hd => ⟨⟨?_, ?_, ?_, List.forall_mem_nil _⟩, ?_⟩, fun hceil h => ?_⟩
  · exact fun h => ⟨_, rfl, issue_faultTrap h (if_pos hd) hh hv⟩
  · exact fun h => ⟨_, rfl, issue_faultTrap h (if_pos hd) hh hv⟩
  · exact fun h => ⟨_, rfl, issue_faultTrap h (if_pos hd) hh hv⟩
  · exact fun h => ⟨_, rfl, issue_faultTrap h (if_pos hd) hh hv⟩
  · refine ⟨_, rfl, issue_faultTrap h ?_ hh hv⟩
    split
    · rfl
    · exact if_pos hceil

/-- Settles O32: DOORBELL changes its counter's record, BAL makes the check of R243, and SIGF offers its signals. -/
theorem signalResults : Obligations.SignalResults := by
  unfold Obligations.SignalResults
  intro f w s
  refine ⟨fun h hd => ⟨_, rfl, ?_⟩, fun h => ⟨fun hc hp => ⟨_, rfl, issue_passes h ?_⟩, fun img target hi hh hv => ⟨_, rfl, ?_⟩⟩,
    fun h hmask hd => ⟨_, rfl, ?_⟩⟩
  · exact issue_retires (g := fun y => { y with
      ctr := mset {} y.ctr (fK w) { mget {} (s.face f).ctr (fK w) with bell := some (mget {} (s.face f).ctr (fK w)).value } }) h
      (if_neg (Bool.eq_false_iff.not_left.mpr hd))
  · rw [fetched_imbalance, imbalance_none hc hp]
  · refine (issue_revokes h ?_ hh hv).1
    rw [fetched_imbalance, hi]
  · have hbits : (fun d => (opf w 16 8).testBit d) = bit (opf w 16 8) := funext fun d => (bit_eq_testBit _ d).symm
    have hdecl : ¬ (bit (opf w 16 8) f && !(s.face f).declares (fK w)) = true := by
      rw [bit_eq_testBit, Bool.and_eq_true, Bool.not_eq_true']
      exact fun k => absurd (hd k.1) (Bool.eq_false_iff.mp k.2)
    rw [hbits]
    refine issue_offers h ?_
    dsimp only
    rw [fetched_nFaces, if_neg (Nat.not_le.mpr hmask), if_neg hdecl]
    rfl
end
section
/-! Operations enter their queues (08_ifeom_programming_model.md R244, 10_ifeom_engine_instructions.md R284;
09_ifeom_control_and_movement.md R267 to R274, R277): what an instruction whose checks pass leaves, and the checks of the mover's instructions. -/
namespace Sys2Proof.Machine
open Sys2Proof.Claims

variable {s t : State} {f : Nat} {w : IWord} {m : Form} {body : State → Face → Done}

/-! ### The queue (R244, R284) -/

theorem queueOp_face (s : State) (f : Nat) (q : QOp) (rs : List (Word × Bool)) :
    (s.queueOp f q rs).face f = { s.face f with queue := (s.face f).queue ++ [q], sb := (s.face f).sb ++ sbEntries q.id rs } :=
  face_modFace_same (s.sbNote f (sbEntries q.id rs).length) f (fun y => { y with queue := y.queue ++ [q], sb := y.sb ++ sbEntries q.id rs })

/-- An operation with room takes its place and its scoreboard entries, and issue goes on (R200, R244). -/
theorem issue_queues {q : QOp} {rs : List (Word × Bool)} (h : Issues s f w m) (hr : Room s f q.eng rs)
    (hb : body (s.fetched f m) (s.face f) = enqueue (s.fetched f m) f q rs) : Queues s f m q rs (issue s f w m body) := by
  have henq : enqueue (s.fetched f m) f q rs = .next ((s.fetched f m).queueOp f q rs) := enqueue_eq (fetched_sbStall hr.clear) hr.done hr.place
  rw [issue_next h (hb.trans henq)]
  refine ⟨Counted.of (u := (s.fetched f m).queueOp f q rs) ?_ ?_ (fun _ _ => rfl), ?_, ?_, rfl, ?_⟩
  · exact (rd_wr_apart _ _ _ _ _ _ (by decide)).trans (rd_wr_apart _ _ _ _ _ _ (by decide))
  · exact rd_wr_apart _ _ _ _ _ _ (by decide)
  · rw [face_modFace_same, face_bump]
    rw [queueOp_face]
    rfl
  · rw [rd_modFace, rd_bump_apart _ _ _ _ _ (by decide)]
    refine (rd_wr_same _ _ _ _ (by decide)).trans ?_
    rw [fetched_rd _ _ _ _ _ (by decide)]
    rfl
  · have hframe : s.Frame (((((s.fetched f m).sbNote f (sbEntries q.id rs).length).modFace f
        (fun y => { y with queue := y.queue ++ [q], sb := y.sb ++ sbEntries q.id rs })).bump R.FCE_ISSUE_STAT.ISSUED f).modFace f
        (fun y => { y with pc := y.pc + m.len + 1 })) (issueFields f ++ [(R.SPD_SB_STAT.MAX_USED, f)]) [f] := by
      refine Frame.modFace (Frame.bump (Frame.modFace (Frame.wr (Frame.bumpBy (Frame.refl _ _ _) ?_) ?_) ?_) ?_) ?_ <;> simp [issueFields]
    exact hframe

/-- With its unit powered, no cause of an illegal instruction and its ranges in order, an instruction passes its checks (R251). -/
theorem checked_passes {absent : Option (Nat × Word)} {causes : List (Bool × Nat)} {fail : Option RFail} (ha : absent = none)
    (hc : ∀ c ∈ causes, c.1 = false) (hf : fail = none) (d : Done) : checked absent causes fail d = d := by
  have hill : illegalIf causes = none := by
    rw [illegalIf, Option.map_eq_none_iff, List.find?_eq_none]
    exact fun c hmem => Bool.eq_false_iff.mp (hc c hmem)
  rw [checked, ha, hill, hf]
  rfl

/-- An instruction that passes its checks queues its operation, as it stands before the fetch has counted. -/
theorem issue_queuesChecked {q p : QOp} {rs us : List (Word × Bool)} {absent : Option (Nat × Word)} {causes : List (Bool × Nat)} {fail : Option RFail}
    (h : Issues s f w m) (hr : Room s f q.eng rs)
    (hb : body (s.fetched f m) (s.face f) = checked absent causes fail (enqueue (s.fetched f m) f p us)) (hq : p = q) (hrs : us = rs)
    (ha : absent = none) (hc : ∀ c ∈ causes, c.1 = false) (hf : fail = none) : Queues s f m q rs (issue s f w m body) := by
  subst hq hrs
  exact issue_queues h hr (hb.trans (checked_passes ha hc hf _))

theorem lowFail_allPass {cs : List (Option RFail)} (h : AllPass cs) : lowFail cs = none := lowFail_none h

/-! ### The checks of the mover's instructions -/

theorem ctrBad_of_declares {x : Face} (h : fCEN w = true → x.declares (opf w 24 10) = true) : ctrBad x w = false := by
  rw [ctrBad, Bool.and_eq_false_iff, Bool.not_eq_false']
  rcases hcen : fCEN w with _ | _
  · exact .inl rfl
  · exact .inr (h hcen)

theorem fetched_remoteFail (s : State) (f g k o n : Nat) (m : Form) (r : Word) : remoteFail (s.fetched f m) g k r o n = remoteFail s g k r o n := by
  have hlines (d : Nat) : (s.fetched f m).releasedLines d = s.releasedLines d := by
    simp (disch := decide) only [State.releasedLines, State.winGeom, fetched_rd, fetched_faces]
  simp only [remoteFail, hlines, fetched_nFaces]

theorem movfRows_eq (w1 : Word) : movfRows w1 = max 1 (fget w1 0 16) := by
  unfold movfRows
  split <;> omega

/-- The stack of an HBM move is on and declared, and its address is that of a line (R233, R270). -/
theorem hbmAbsent_on {a : Nat} (h : s.stackOn (hStack a) = true) (f : Nat) (m : Form) : hbmAbsent (s.fetched f m) a = none := by
  rw [hbmAbsent, fetched_stackOn, h]
  rfl

theorem hbmUndeclared_of_uses {x : Face} {a : Nat} (h : (if hStack a = s.home f then x.uses 6 else x.uses (8 + hStack a)) = true) (m : Form) :
    hbmUndeclared (s.fetched f m) f x a = false := by
  rw [hbmUndeclared, fetched_home, h]
  rfl

theorem hbmAlso_on {a : Nat} (h : s.stackOn (hStack a) = true) (f len : Nat) (m : Form) (write : Bool) : hbmAlso (s.fetched f m) a len write = none := by
  rw [hbmAlso, fetched_stackOn, if_pos h]

theorem dealerAbsent_on (h : s.domOn 29 = true) (f : Nat) (m : Form) : dealerAbsent (s.fetched f m) = none := by
  rw [dealerAbsent, fetched_domOn, h]
  rfl

theorem portAbsent_on {x : Face} {p : Nat} (h : PortOk s x p) (f : Nat) (m : Form) : portAbsent (s.fetched f m) p = none := by
  obtain ⟨hpresent, hon⟩ := h.there
  have hp : (s.fetched f m).portPresent p = true := by simp (disch := decide) only [State.portPresent, fetched_rd]; exact hpresent
  have ho : (s.fetched f m).portOn p = true := by rw [State.portOn, fetched_domOn]; exact hon
  rw [portAbsent, hp, ho, Bool.and_self, Bool.not_true, Bool.and_false]
  rfl

theorem portCauses_none {x : Face} {p : Nat} (h : PortOk s x p) : ∀ c ∈ portCauses x p, c.1 = false := by
  simp [portCauses, h.declared, h.number]

end Sys2Proof.Machine
end

section
open Sys2Proof Sys2Proof.Machine Sys2Proof.Claims

/-- Settles O35: each instruction passes its checks, in the state that the fetch leaves as in the state before it, and queues its operation.  That SIGR
takes its place in the mover's queue is the model's choice (log entry 8). -/
theorem movesQueue : Obligations.MovesQueue := by
  unfold Obligations.MovesQueue
  intro f w s x al ar a hx hal har ha hctr
  subst hx
  change al = (s.face f).areg (fAL w) at hal
  change ar = (s.face f).areg (fAR w) at har
  change a = hbmAddr (s.face f) w.w1 at ha
  subst hal har ha
  have hbad : ctrBad (s.face f) w = false := ctrBad_of_declares hctr
  refine ⟨fun h hlen hpass hroom => ⟨_, rfl, ?_⟩,
    fun rows stride h hrows hstride hmask h128 hrow hrow128 hlen hpass hown hremote hroom => ⟨_, rfl, ?_⟩,
    fun hon hdecl haddr => ⟨fun h hpass hroom => ⟨_, rfl, ?_⟩, fun h hpass hroom => ⟨_, rfl, ?_⟩,
      fun h hrb hlen hpass hroom => ⟨_, rfl, ?_⟩⟩,
    fun huse hdom hroom => ⟨fun h => ⟨_, rfl, ?_⟩, fun h => ⟨_, rfl, ?_⟩⟩, fun h hport hcen hoff hpass hroom => ⟨_, rfl, ?_⟩,
    fun h hport hroom => ⟨_, rfl, ?_⟩⟩
  · refine issue_queuesChecked h hroom rfl (fetched_mkOp _ _ _ _ _ _ _ _) rfl rfl ?_ (lowFail_allPass ?_)
    · simp [hbad, hlen]
    · simpa only [fetched_portFail] using hpass
  · subst hrows hstride
    refine issue_queuesChecked h hroom rfl (fetched_mkOp _ _ _ _ _ _ _ _) (by rw [bit_eq_testBit]) rfl ?_ (lowFail_allPass ?_)
    · simp [hbad, fetched_nFaces, hmask, movfRows_eq, h128, hrow, hrow128, hlen]
    · simp only [AllPass, List.forall_mem_cons] at hpass
      simpa [AllPass, bit_eq_testBit, fetched_remoteFail, hremote, hpass] using hown
  · refine issue_queuesChecked h hroom rfl (by rw [fetched_mkOp]) rfl (hbmAbsent_on hon f _) ?_ (lowFail_allPass ?_)
    · simp [hbad, haddr, hbmUndeclared_of_uses hdecl]
    · simpa [AllPass, hbmAlso_on hon] using hpass
  · refine issue_queuesChecked h hroom rfl (by rw [fetched_mkOp]) rfl (hbmAbsent_on hon f _) ?_ (lowFail_allPass ?_)
    · simp [hbad, haddr, hbmUndeclared_of_uses hdecl]
    · simpa [AllPass, hbmAlso_on hon] using hpass
  · refine issue_queuesChecked h hroom rfl (by rw [fetched_mkOp]) rfl (hbmAbsent_on hon f _) ?_ (lowFail_allPass ?_)
    · simp [hbad, haddr, hbmUndeclared_of_uses hdecl, hrb, hlen]
    · simpa only [fetched_portFail] using hpass
  · refine issue_queuesChecked h hroom rfl (by rw [fetched_mkOp]) rfl (dealerAbsent_on hdom f _) ?_ rfl
    simp [hbad, huse]
  · refine issue_queuesChecked h hroom rfl (by rw [fetched_mkOp]) rfl (dealerAbsent_on hdom f _) ?_ rfl
    simp [hbad, huse]
  · refine issue_queuesChecked h hroom rfl (fetched_mkOp _ _ _ _ _ _ _ _) rfl (portAbsent_on hport f _)
      (List.forall_mem_append.mpr ⟨portCauses_none hport, by simp [hbad, hcen, hoff]⟩) (lowFail_allPass ?_)
    simpa only [fetched_portFail] using hpass
  · exact issue_queuesChecked h hroom rfl (by rw [fetched_mkOp]) rfl (portAbsent_on hport f _) (portCauses_none hport) rfl
end
section
/-! Engine instructions enter their queues (10_ifeom_engine_instructions.md R284, R285, R288, R294, R298, R300 to R308): an instruction whose unit, field
values and ranges pass, and the checks of its rows. -/
namespace Sys2Proof.Machine
open Sys2Proof.Claims

variable {s : State} {f : Nat} {w : IWord} {m : Form} {body : State → Face → Done}

/-! ### What the fetch leaves of a weight set and its pins (R106, R109, R136) -/

@[simp] theorem fetched_tileArrays (s : State) (f g w c : Nat) (m : Form) : (s.fetched f m).tileArrays g w c = s.tileArrays g w c := by
  simp only [State.tileArrays, fetched_copyArrays, fetched_copySlot, fetched_slotPhys]

@[simp] theorem fetched_tilePinned (s : State) (f g w c : Nat) (m : Form) : (s.fetched f m).tilePinned g w c = s.tilePinned g w c := by
  simp (disch := decide) only [State.tilePinned, State.flag, fetched_ws, fetched_tileArrays, fetched_copySlot, fetched_rd]

@[simp] theorem fetched_pinOf (s : State) (f g l : Nat) (m : Form) : (s.fetched f m).pinOf g l = s.pinOf g l := fetched_rd _ _ _ _ _ nofun

/-! ### The issue of an engine instruction (R284) -/

/-- An engine instruction with its unit in order, values that its layout allows and ranges that pass takes its place in the queue. -/
theorem issue_queuesEngine {q p : QOp} {rs us : List (Word × Bool)} {unit need : Nat} {on : State → Nat → Bool} {bad : Bool} {fail : Option RFail}
    (h : Issues s f w m) (hu : UnitOk s f w need on) (hr : Room s f q.eng rs) (hon : on (s.fetched f m) f = on s f)
    (hb : body (s.fetched f m) (s.face f) = engineIssue (s.fetched f m) f (s.face f) w unit (on (s.fetched f m) f) need bad fail p us)
    (hq : p = q) (hrs : us = rs) (hbad : bad = false) (hf : fail = none) : Queues s f m q rs (issue s f w m body) := by
  refine issue_queuesChecked h hr hb hq hrs ?_ ?_ hf
  · rw [hon, hu.on]
    rfl
  · simp [hu.uses, hu.ctr, hbad]

/-! ### Range checks that pass (R285, R622) -/

theorem shortFail_none {bad : Bool} (h : bad = false) (operand reg : Nat) : shortFail bad operand reg = none := by
  rw [shortFail, h]
  rfl

/-- A range of the length that is asked for is not short. -/
theorem shortFail_le {need len : Nat} (h : need ≤ len) (operand reg : Nat) : shortFail (decide (len < need)) operand reg = none :=
  shortFail_none (decide_eq_false (Nat.not_lt.mpr h)) _ _

/-- The length of an operand is examined only where the operand is used. -/
theorem shortFail_used {used : Bool} {need len : Nat} (h : used = true → need ≤ len) (operand reg : Nat) :
    shortFail (used && decide (len < need)) operand reg = none :=
  shortFail_none (Bool.and_eq_false_imp.mpr fun k => decide_eq_false (Nat.not_lt.mpr (h k))) _ _

theorem overlapFail_none {wr rd : Word} (h : sharesLine wr rd = false) (operand reg : Nat) : overlapFail wr rd operand reg = none := by
  rw [overlapFail, h]
  rfl

/-- A check that is made only of an operand in use. -/
theorem usedFail_none {used : Bool} {c : Option RFail} (h : used = true → c = none) : (if used then c else none) = none :=
  ite_eq_right_iff.mpr h

/-- An operand and the output share no line, or are one range that the operation works on in place (R305). -/
theorem inPlaceFail_none {r : VopRow} {used : Bool} {i z : Word} {fi fo : Nat}
    (h : used = true → r.useZ = true → sharesLine z i = false ∨
      (r.inPlace = true ∧ vopBytes fi = vopBytes fo ∧ rngBase i = rngBase z ∧ rngLen i = rngLen z)) (operand reg : Nat) :
    (if used && r.useZ && !(r.inPlace && decide (vopBytes fi = vopBytes fo) && decide (rngBase i = rngBase z ∧ rngLen i = rngLen z))
      then overlapFail z i operand reg else none) = none := by
  refine usedFail_none fun k => ?_
  simp only [Bool.and_eq_true, Bool.not_eq_true'] at k
  obtain ⟨⟨hused, hz⟩, hsame⟩ := k
  rcases h hused hz with hshare | ⟨hplace, hbytes, hrange⟩
  · exact overlapFail_none hshare _ _
  · simp [hplace, hbytes, hrange] at hsame

/-! ### The field values of the rows -/

/-- A stride that holds the packed row is 0, or not below it (R288). -/
theorem strideOf_allows {fld packed : Nat} (h : packed ≤ strideOf fld packed) : ¬ (fld ≠ 0 ∧ fld * 128 < packed) := by
  rintro ⟨hfld, hlt⟩
  rw [strideOf, if_neg hfld] at h
  omega

/-- The number of candidates of TOPK, and 0 of any other vector operation (R306). -/
theorem topkBad_false {op kt cols : Nat} (h : if op = 16 then 0 < kt ∧ kt ≤ 16 ∧ cols ≤ 512 else kt = 0) :
    (if op = 16 then decide (kt = 0 ∨ kt > 16 ∨ cols > 512) else decide (kt ≠ 0)) = false := by
  split at h
  · rw [if_pos ‹_›, decide_eq_false_iff_not]
    omega
  · rw [if_neg ‹_›, decide_eq_false_iff_not]
    omega

end Sys2Proof.Machine
end

section
open Sys2Proof Sys2Proof.Machine Sys2Proof.Claims

/-- Settles O38: each instruction passes its checks, and its operation keeps the map, the arrays and the pins, which the fetch leaves as they were. -/
theorem arrayOpsQueue : Obligations.ArrayOpsQueue := by
  unfold Obligations.ArrayOpsQueue
  intro f w s x al ar ws hx hal har hws hu
  subst hx
  change al = (s.face f).areg (fAL w) at hal
  change ar = (s.face f).areg (fAR w) at har
  subst hal har hws
  refine ⟨fun k n bl irec orec ist ost v live h hk hn hbl hirec horec hist host hv hlive hacts hv0 hv1 hround hscale hi ho hlists hready
      hshapeK hshapeN hshapeB hspall hlenl hlenr hshare hpl hpr hroom => ⟨_, rfl, ?_⟩,
    fun h hgrant haidx hlenl hbase hlenr hshare hpl hpr hroom => ⟨_, rfl, ?_⟩,
    fun b h hvalid hcopy hgrant haidx hlen hport hroom hb => ⟨_, rfl, ?_⟩⟩
  · change ist = strideOf (fget w.w2 20 12) irec at hist
    change ost = strideOf (fget w.w2 32 12) orec at host
    subst hist host
    have histride := strideOf_allows hi
    have hostride := strideOf_allows ho
    subst hirec horec hk hn hbl hv hlive
    refine issue_queuesEngine h hu hroom (fetched_arrayOn _ _ _ _) rfl ?_ rfl ?_ (firstFail_none ?_)
    · simp (disch := decide) only [fetched_mkOp, fetched_reg, fetched_ws, fetched_tileArrays, fetched_tilePinned, fetched_pinOf]
    · simp (disch := decide) only [fetched_ws, Bool.or_eq_false_iff, Bool.and_eq_false_imp, decide_eq_false_iff_not, decide_eq_true_eq,
        Bool.not_eq_false']
      exact ⟨⟨⟨by omega, hscale⟩, not_or.mpr ⟨histride, hostride⟩⟩, hlists⟩
    · simp (disch := decide) only [List.forall_mem_cons, fetched_ws, fetched_rd, fetched_wsReady, fetched_portFail]
      exact ⟨if_pos hready, if_pos ⟨hshapeK, hshapeN, hshapeB⟩, if_neg fun k => hspall k.1 k.2.1 k.2.2, shortFail_le hlenl _ _,
        shortFail_le hlenr _ _, lowFail_none (by simp [hpl, hpr]), overlapFail_none hshare _ _, List.forall_mem_nil _⟩
  · refine issue_queuesEngine h hu hroom (fetched_arrayOn _ _ _ _) rfl (fetched_mkOp _ _ _ _ _ _ _ _) rfl rfl (firstFail_none ?_)
    simp only [List.forall_mem_cons, fetched_granted, fetched_copyArrays, fetched_portFail]
    exact ⟨if_pos hgrant, if_neg (Nat.not_le.mpr haidx), shortFail_none (by simp [hlenl]) _ _, shortFail_none (by simp [hbase, hlenr]) _ _,
      lowFail_none (by simp [hpl, hpr]), overlapFail_none hshare _ _, List.forall_mem_nil _⟩
  · subst hb
    refine issue_queuesEngine h hu hroom (fetched_arrayOn _ _ _ _) rfl ?_ rfl rfl (firstFail_none ?_)
    · simp (disch := decide) only [fetched_mkOp, fetched_reg, fetched_copySlot, fetched_slotPhys]
    · simp (disch := decide) only [List.forall_mem_cons, fetched_ws, fetched_granted, fetched_copyArrays, fetched_portFail]
      exact ⟨if_pos (by simpa [hvalid, hgrant] using hcopy), if_neg (Nat.not_le.mpr haidx), shortFail_none (by simp [hlen]) _ _, hport,
        List.forall_mem_nil _⟩

/-- Settles O39: FINE with its parameters examined where it reads any, SCORE, and APPEND, which reads the range that SCORE writes. -/
theorem fineAndScoreQueue : Obligations.FineAndScoreQueue := by
  unfold Obligations.FineAndScoreQueue
  intro f w s x al ar hx hal har
  subst hx
  change al = (s.face f).areg (fAL w) at hal
  change ar = (s.face f).areg (fAR w) at har
  subst hal har
  refine ⟨fun fa fb fo m n k la lb lc c p any h hu hfa hfb hfo hm hn hk hla hlb hlc hc hp hany hpair hm0 hn0 hk0 hround hpr hsa hsb hsc hra hrb
      hrc hparams hpass hca hcb hroom => ⟨_, rfl, ?_⟩,
    fun rows o h hu hbad hrows ho hlenr hleno hlenl hpass hol hor hroom => ⟨_, rfl, ?_⟩,
    fun rows o h hu hbad hrows ho hlenr hleno hlenl hpass hroom => ⟨_, rfl, ?_⟩⟩
  · subst hfa hfb hfo hm hn hk hla hlb hlc hc hp hany
    simp only [AllPass, List.forall_mem_cons] at hpass
    obtain ⟨hpa, hpb, hpc, -⟩ := hpass
    refine issue_queuesEngine h hu hroom (fetched_engOn _ _ _ _) rfl (by rw [fetched_mkOp]) rfl ?_ (firstFail_none ?_)
    · simp only [Bool.or_eq_false_iff, Bool.and_eq_false_imp, decide_eq_false_iff_not, decide_eq_true_eq, Bool.not_eq_false']
      exact ⟨⟨⟨hpair, by omega⟩, by omega⟩, hpr⟩
    · simp only [List.forall_mem_cons, fetched_portFail]
      refine ⟨firstFail_none ?_, lowFail_none ?_, firstFail_none ?_, List.forall_mem_nil _⟩
      · simp only [List.forall_mem_cons]
        exact ⟨shortFail_le hra _ _, shortFail_le hrb _ _, shortFail_le hrc _ _, shortFail_used (fun k => (hparams k).1) _ _,
          List.forall_mem_nil _⟩
      · simp only [List.forall_mem_cons]
        exact ⟨hpa, hpb, hpc, usedFail_none fun k => (hparams k).2.1, List.forall_mem_nil _⟩
      · simp only [List.forall_mem_cons]
        exact ⟨overlapFail_none hca _ _, overlapFail_none hcb _ _, usedFail_none fun k => overlapFail_none (hparams k).2.2 _ _,
          List.forall_mem_nil _⟩
  · subst hrows ho
    refine issue_queuesEngine h hu hroom (fetched_engOn _ _ _ _) rfl (by rw [fetched_mkOp]) rfl hbad (firstFail_none ?_)
    simp only [List.forall_mem_cons, fetched_portFail]
    exact ⟨shortFail_le hlenr _ _, shortFail_le hleno _ _, shortFail_none (by simp [hlenl]) _ _, lowFail_allPass hpass, overlapFail_none hol _ _,
      overlapFail_none hor _ _, List.forall_mem_nil _⟩
  · subst hrows ho
    refine issue_queuesEngine h hu hroom (fetched_engOn _ _ _ _) rfl (by rw [fetched_mkOp]) rfl hbad (firstFail_none ?_)
    simp only [List.forall_mem_cons, fetched_portFail]
    exact ⟨shortFail_le hlenr _ _, shortFail_le hleno _ _, shortFail_none (by simp [hlenl]) _ _, lowFail_allPass hpass, List.forall_mem_nil _⟩

/-- Settles O40: each vector operation is the issue of its row (`exec_vop`), and each check of the row passes by the premise on it. -/
theorem vectorOpsQueue : Obligations.VectorOpsQueue := by
  unfold Obligations.VectorOpsQueue
  intro e he f w s x a b z r fi fo mode rows cols kt h hu hx ha hb hz hr hfi hfo hmode hrows hcols hkt hin hout hm hrows0 hcols0 hnox hnoy hnoz
    htopk hwide hpload hdequant hparams hX hY hZ hza hzb rs hrs hroom
  subst hx
  change a = (s.face f).areg (fAL w) at ha
  change b = (s.face f).areg (fAR w) at hb
  subst ha hb hz hr hfi hfo hmode hrows hcols hkt hrs
  refine ⟨_, exec_vop he f w s, ?_⟩
  refine issue_queuesEngine h hu hroom (fetched_engOn _ _ _ _) rfl (by rw [fetched_mkOp]) rfl ?_ (firstFail_none ?_)
  · simp only [Bool.or_eq_false_iff, Bool.and_eq_false_imp, decide_eq_false_iff_not, decide_eq_true_eq, Bool.not_eq_false', Bool.not_eq_true']
    exact ⟨⟨⟨⟨⟨⟨⟨⟨⟨⟨hin, hout⟩, hm⟩, by omega⟩, fun k => not_not.mpr (hnox k)⟩, fun k => not_not.mpr (hnoy k)⟩,
      fun k => not_not.mpr (hnoz k)⟩, topkBad_false htopk⟩, fun k => Nat.not_lt.mpr (hwide k)⟩, fun k => not_not.mpr (hpload k)⟩,
      fun k => by have := hdequant k; omega⟩
  · simp only [List.forall_mem_cons, fetched_portFail]
    refine ⟨usedFail_none fun k => ?_, shortFail_used (fun k => (hX k).1) _ _, shortFail_used (fun k => (hY k).1) _ _,
      shortFail_used (fun k => (hZ k).1) _ _, lowFail_none ?_, inPlaceFail_none hza _ _, inPlaceFail_none hzb _ _, List.forall_mem_nil _⟩
    · simp only [Bool.and_eq_true, decide_eq_true_eq] at k
      exact absurd (hparams k.1) (Nat.not_le.mpr k.2)
    · simp only [List.forall_mem_cons]
      exact ⟨usedFail_none fun k => (hX k).2, usedFail_none fun k => (hY k).2, usedFail_none fun k => (hZ k).2, List.forall_mem_nil _⟩

end
section
/-! PLAY and WAITT at issue (11_synchronisation.md R319, R320, R322). -/
namespace Sys2Proof.Machine
open Sys2Proof.Claims

variable {s t : State} {f : Nat} {w : IWord} {m : Form} {x : Face} {h : Handle}

/-! ### The handles of a trick (R230, R320) -/

theorem mem_sameTrick {g : Handle} : g ∈ x.sameTrick h ↔ ∃ e ∈ x.handles, e.2 = g ∧ g.listed = true ∧ g.domain = h.domain ∧ g.trick = h.trick := by
  simp only [Face.sameTrick, List.mem_filter, List.mem_map, Bool.and_eq_true, beq_iff_eq, decide_eq_true_eq, and_assoc]
  exact ⟨fun ⟨⟨e, he, hg⟩, k⟩ => ⟨e, he, hg, k⟩, fun ⟨e, he, hg, k⟩ => ⟨⟨e, he, hg⟩, k⟩⟩

/-- No play of the face on the trick of `h` is unreleased. -/
theorem sameTrick_free (hfree : ∀ g ∈ x.sameTrick h, g.play = none) : (x.sameTrick h).any (fun g => g.play.isSome) = false := by
  rw [List.any_eq_false]
  exact fun g hg k => by rw [hfree g hg] at k; cases k

/-- A play of the face on the trick of `h` is unreleased. -/
theorem sameTrick_held (hheld : ∃ g ∈ x.sameTrick h, g.play ≠ none) : (x.sameTrick h).any (fun g => g.play.isSome) = true := by
  obtain ⟨g, hg, hplay⟩ := hheld
  exact List.any_eq_true.mpr ⟨g, hg, Option.isSome_iff_ne_none.mpr hplay⟩

/-- What ends a WAITT is that no handle of its trick holds a play. -/
theorem waittOver_iff : x.handles.all (fun e => decide (¬ (e.2.listed = true ∧ e.2.domain = h.domain ∧ e.2.trick = h.trick)) ||
    decide (e.2.play = none)) = true ↔ ∀ g ∈ x.sameTrick h, g.play = none := by
  simp only [List.all_eq_true, Bool.or_eq_true, decide_eq_true_eq, ← imp_iff_not_or]
  constructor
  · rintro hall g hg
    obtain ⟨e, he, rfl, hsame⟩ := mem_sameTrick.mp hg
    exact hall e he hsame
  · exact fun hfree e he hsame => hfree _ (mem_sameTrick.mpr ⟨e, he, rfl, hsame⟩)

/-! ### What traps (R320) -/

/-- The revoke of a PLAY or WAITT is that of the state before the fetch. -/
theorem fetched_trickRevoke (s : State) (f k : Nat) (m : Form) (n : Int) : trickRevoke (s.fetched f m) f k n =
    .trapIn ((s.fetched f m).revokeRecord f (revokeImage k true 0 s.devAddr f n)) 3 (revokeImage k true 0 s.devAddr f n) := by
  unfold trickRevoke
  rw [fetched_devAddr]

/-! ### WAITT -/

theorem wake_waitt {k : Nat} (hrun : (t.face f).run = .stalled (.waitt k)) : t.wake f =
    if ((t.face f).handles.all fun e => decide (¬ (e.2.listed = true ∧ e.2.domain = (mget {} (t.face f).handles k).domain ∧
      e.2.trick = (mget {} (t.face f).handles k).trick)) || decide (e.2.play = none)) = true then t.modFace f Face.resumed else t := by
  unfold State.wake
  dsimp only
  rw [hrun]
  rfl

/-- WAITT through a listed handle stalls where the face has played the trick in this hand. -/
theorem execWaitt_waits (hi : Issues s f w (syncForm 0x006 [(34, 8)])) (hl : (mget {} (s.face f).handles (fT w)).listed = true)
    (hp : ∃ g ∈ (s.face f).sameTrick (mget {} (s.face f).handles (fT w)), g.played = true) :
    execWaitt f w s = .next ((s.waiting f (syncForm 0x006 [(34, 8)]) (.waitt (fT w))).wake f) := by
  obtain ⟨g, hg, hplayed⟩ := hp
  have hall : ¬ (((s.face f).sameTrick (mget {} (s.face f).handles (fT w))).all fun g => !g.played) = true := fun k => by
    have := List.all_eq_true.mp k g hg
    rw [hplayed] at this
    cases this
  exact congrArg Host.Outcome.next (issue_stall hi ((if_neg (by rw [hl]; decide)).trans (if_neg hall)))

/-- A WAITT whose trick is free goes on at once. -/
theorem waitt_resumes (hrun : (s.face f).run = .issuing)
    (hfree : ∀ g ∈ (s.face f).sameTrick (mget {} (s.face f).handles (fT w)), g.play = none) :
    goesTo s f m ((s.face f).pc + 1) ((s.waiting f m (.waitt (fT w))).wake f) := by
  have hface := waiting_face s f m (.waitt (fT w))
  rw [wake_waitt (congrArg Face.run hface), hface, if_pos (waittOver_iff.mpr hfree)]
  exact waiting_resumes hrun _ _

/-- A WAITT whose trick holds a play of the face stays. -/
theorem waitt_stays (hheld : ∃ g ∈ (s.face f).sameTrick (mget {} (s.face f).handles (fT w)), g.play ≠ none) :
    stallsAt s f m (.waitt (fT w)) ((s.waiting f m (.waitt (fT w))).wake f) := by
  obtain ⟨g, hg, hplay⟩ := hheld
  have hface := waiting_face s f m (.waitt (fT w))
  rw [wake_waitt (congrArg Face.run hface), hface, if_neg fun k => hplay (waittOver_iff.mp k g hg)]
  exact waiting_stallsAt _ _ _ _

/-! ### PLAY -/

theorem fetched_playHand (s : State) (f : Nat) (m : Form) : (s.fetched f m).playHand = s.playHand := by
  unfold State.playHand
  rw [fetched_rd _ _ _ _ _ (by decide)]
  rfl

theorem fetched_isManager (s : State) (f : Nat) (m : Form) : (s.fetched f m).isManager = s.isManager := by
  unfold State.isManager
  rw [fetched_rd _ _ _ _ _ (by decide)]
  rfl

theorem fetched_manager (s : State) (f : Nat) (m : Form) : (s.fetched f m).manager = s.manager := fetched_rd _ _ _ _ _ (by decide)

/-- Face f's play is made: its handle holds it, and it is not yet sent or counted (R319). -/
def State.playMade (s : State) (f : Nat) (w : IWord) : State :=
  (s.fetched f (syncForm 0x005 [(34, 8)])).modFace f (fun y => { y with
    handles := mset {} y.handles (fT w) { mget {} (s.face f).handles (fT w) with play := some s.playHand, played := true, pc := (s.face f).pc } })

theorem playMade_beside (s : State) (f : Nat) (w : IWord) : RegsBeside [.FCE_STORE_ERR] s (s.playMade f w) :=
  (RegsBeside.refl [.FCE_STORE_ERR] s).wr (f := R.FCE_STORE_ERR.CORRECTED)

/-- Issue goes on behind a PLAY that has come to `u`. -/
def State.playDone (u : State) (f : Nat) : State :=
  (u.bump R.FCE_ISSUE_STAT.ISSUED f).modFace f (fun y => { y with pc := y.pc + (syncForm 0x005 [(34, 8)]).len + 1 })

theorem playMade_retires (s : State) (f : Nat) (w : IWord) :
    Retires s f (syncForm 0x005 [(34, 8)]) (played s f w) ((s.playMade f w).playDone f) := retires_of _ _ _ rfl

/-- A message of the control lane to an ACTIVE port leaves at once (R427, R428). -/
theorem portOut_ctl {p d a : Nat} {c : Msg} (hact : s.rd R.LNK_PORT_STATE.STATE p = 4) : s.portOut p (.ctl p d a c) =
    { s with ports := mset {} s.ports p ((mget {} s.ports p).take (.ctl p d a c)), out := s.out ++ [.ctl p d a c] } := if_pos ⟨hact, rfl, rfl⟩

/-- The play of a domain trick leaves for the manager. -/
theorem playMade_sendCtl {p : Nat} (c : Msg) (hroute : RoutedNow s s.manager p) : (s.playMade f w).sendCtl s.manager c =
    { s.playMade f w with
      ports := mset {} s.ports p ((mget {} s.ports p).take (.ctl p s.manager s.devAddr c)), out := s.out ++ [.ctl p s.manager s.devAddr c] } := by
  have hbeside := playMade_beside s f w
  obtain ⟨⟨d, hr⟩, hact⟩ := routedNow_beside hroute hbeside
  have hdev : (s.playMade f w).devAddr = s.devAddr := hbeside.rd _ _
  rw [State.sendCtl, hr]
  dsimp only
  rw [portOut_ctl hact, hdev]
  rfl

/-- The play of a die trick that is short of PARTIES counts at its home. -/
theorem playMade_counts (i : Nat) (hshort : s.rd R.SYN_TRICK_CFG.COUNT i + 1 < s.rd R.SYN_TRICK_CFG.PARTIES i) : (s.playMade f w).trickPlay f f i =
    { (s.playMade f w).wr R.SYN_TRICK_CFG.COUNT i (s.rd R.SYN_TRICK_CFG.COUNT i + 1) with
      plays := mset [] s.plays i (mget [] s.plays i ++ [f]) } := by
  have hcount := (playMade_beside s f w).rd R.SYN_TRICK_CFG.COUNT i
  have hparties := (playMade_beside s f w).rd R.SYN_TRICK_CFG.PARTIES i
  rw [trickPlay_counts (by rw [hcount, hparties]; exact hshort), hcount]
  rfl

/-- A play that has counted at its home. -/
theorem playCounted_is (i : Nat) (hshort : s.rd R.SYN_TRICK_CFG.COUNT i + 1 < s.rd R.SYN_TRICK_CFG.PARTIES i) {t : State}
    (ht : t = ((s.playMade f w).trickPlay f f i).playDone f) :
    Counted s f (syncForm 0x005 [(34, 8)]) t ∧ t.face f = played s f w ∧ t.rd R.SYN_TRICK_CFG.COUNT i = s.rd R.SYN_TRICK_CFG.COUNT i + 1 ∧
      t.plays = mset [] s.plays i (mget [] s.plays i ++ [f]) ∧
      s.Frame { t with plays := s.plays } (issueFields f ++ [(R.SYN_TRICK_CFG.COUNT, i)]) [f] := by
  rw [playMade_counts i hshort] at ht
  subst ht
  refine ⟨Counted.of (u := (s.playMade f w).wr R.SYN_TRICK_CFG.COUNT i (s.rd R.SYN_TRICK_CFG.COUNT i + 1)) ?_ ?_ (fun _ _ => rfl),
    (playMade_retires s f w).face, ?_, rfl, ?_⟩
  · rw [rd_wr_apart _ _ _ _ _ _ (by decide)]
    exact (playMade_beside s f w).rd _ _
  · exact rd_wr_apart _ _ _ _ _ _ (by decide)
  · refine (rd_bump_apart _ _ _ _ _ (by decide)).trans ((rd_wr_same _ _ _ _ (by decide)).trans (Nat.mod_eq_of_lt ?_))
    exact hshort.trans (rd_lt s R.SYN_TRICK_CFG.PARTIES i)
  · have hframe : s.Frame (((s.playMade f w).wr R.SYN_TRICK_CFG.COUNT i (s.rd R.SYN_TRICK_CFG.COUNT i + 1)).playDone f)
        (issueFields f ++ [(R.SYN_TRICK_CFG.COUNT, i)]) [f] := by
      refine Frame.modFace (Frame.bump (Frame.wr (Frame.modFace (Frame.bumpBy (Frame.refl _ _ _) ?_) ?_) ?_) ?_) ?_ <;> simp [issueFields]
    exact hframe

section
/-! A play through a listed handle, on a trick on which the face has none unreleased, is made, and goes where its trick is counted (R319, R322). -/
variable (hi : Issues s f w (syncForm 0x005 [(34, 8)])) (hh : h = mget {} (s.face f).handles (fT w)) (hl : h.listed = true)
  (hfree : ∀ g ∈ (s.face f).sameTrick h, g.play = none)
include hi hh hl hfree

theorem execPlay_sends (hd : h.domain = true) (hman : s.isManager = false) :
    execPlay f w s = .next (((s.playMade f w).sendCtl s.manager (.play h.trick s.playHand)).playDone f) := by
  subst hh
  refine congrArg Host.Outcome.next (issue_next hi ?_)
  dsimp only
  rw [if_neg (by rw [hl]; decide), if_neg (by rw [sameTrick_free hfree]; decide), if_pos hd, fetched_isManager, fetched_manager, fetched_playHand,
    if_neg (by rw [hman]; decide)]
  rfl

theorem execPlay_toHome (hd : h.domain = false) (hp : s.rd R.SYN_TRICK_CFG.PARTIES h.trick ≠ 0) :
    execPlay f w s = .next ((if s.rd R.SYN_TRICK_CFG.HOME h.trick = f then (s.playMade f w).trickPlay f f h.trick
      else { s.playMade f w with ring := s.ring ++ [.play f (s.rd R.SYN_TRICK_CFG.HOME h.trick) h.trick] }).playDone f) := by
  subst hh
  refine congrArg Host.Outcome.next (issue_next hi ?_)
  dsimp only
  rw [if_neg (by rw [hl]; decide), if_neg (by rw [sameTrick_free hfree]; decide), if_neg (by rw [hd]; decide), fetched_playHand,
    fetched_rd _ _ _ R.SYN_TRICK_CFG.PARTIES _ (by decide), fetched_rd _ _ _ R.SYN_TRICK_CFG.HOME _ (by decide), if_neg hp]
  split
  · next hhome =>
    rw [hhome]
    rfl
  · rfl

end

end Sys2Proof.Machine
end

section
open Sys2Proof Sys2Proof.Machine Sys2Proof.Claims

/-- Settles O33: a play is made, and then offered to the ring, counted, or sent to the manager; an unlisted handle and a second play trap before
that. -/
theorem playResults : Obligations.PlayResults := by
  unfold Obligations.PlayResults
  intro f w s h hi hh
  refine ⟨fun hl hfree hd hp => ⟨fun hhome => ?_, fun hhome hshort => ?_⟩, fun hl hfree hd hman p d hroute hact => ?_,
    fun hl hn target hv => ⟨_, rfl, ?_⟩, fun hl hheld hn target hv => ⟨_, rfl, ?_⟩⟩
  · refine ⟨_, (execPlay_toHome hi hh hl hfree hd hp).trans (congrArg Host.Outcome.next (by rw [if_neg hhome])), ?_⟩
    obtain ⟨⟨hissued, hfixed⟩, hface, hframe⟩ := playMade_retires s f w
    exact ⟨⟨hissued, hfixed⟩, hface, rfl, hframe⟩
  · refine ⟨_, (execPlay_toHome hi hh hl hfree hd hp).trans (congrArg Host.Outcome.next (by rw [if_pos hhome])), ?_⟩
    exact playCounted_is _ hshort rfl
  · refine ⟨_, (execPlay_sends hi hh hl hfree hd hman).trans
      (congrArg Host.Outcome.next (by rw [playMade_sendCtl _ ⟨⟨d, hroute⟩, hact⟩])), ?_⟩
    obtain ⟨⟨hissued, hfixed⟩, hface, hframe⟩ := playMade_retires s f w
    exact ⟨⟨hissued, hfixed⟩, hface, rfl, hframe⟩
  · subst hh
    exact issue_faultTrap hi (if_pos hl) hn hv
  · subst hh
    refine (issue_revokes hi ?_ hn hv).1
    rw [← fetched_trickRevoke]
    exact (if_neg (by rw [hl]; decide)).trans (if_pos (sameTrick_held hheld))

/-- Settles O34: WAITT stalls, and is woken at once where its trick is free; without a play, and with an unlisted handle, it traps. -/
theorem trickWaitResults : Obligations.TrickWaitResults := by
  unfold Obligations.TrickWaitResults
  intro f w s h hi hh
  subst hh
  refine ⟨fun hl hp => ⟨fun hfree => ⟨_, execWaitt_waits hi hl hp, waitt_resumes hi.run hfree⟩,
      fun hheld => ⟨_, execWaitt_waits hi hl hp, waitt_stays hheld⟩⟩,
    fun hl hnone hn target hv => ⟨_, rfl, (issue_revokes hi ?_ hn hv).1⟩, fun hl hn target hv => ⟨_, rfl, issue_faultTrap hi (if_pos hl) hn hv⟩⟩
  rw [← fetched_trickRevoke]
  exact (if_neg (by rw [hl]; decide)).trans (if_pos (List.all_eq_true.mpr fun g hg => by rw [hnone g hg]; rfl))
end
section
/-! Words that the device stores in HBM, line after line (17_memory_protection.md R483), and what a record that is raised leaves. -/
namespace Sys2Proof.Machine
open Sys2Proof.Claims

variable {s t : State} {g n : Nat} {ws : List Word}

/-- Line k of a list of words, the last line filled up with zeros. -/
def lineOf (ws : List Word) (k : Nat) : List (Word × Bool) :=
  let d := (ws.drop (16 * k)).take 16
  (d ++ List.replicate (16 - d.length) 0#64).map (fun w => (w, false))

theorem hbmWords_eq (s : State) (a : Nat) (ws : List Word) :
    s.hbmWords a ws = loop (cdiv ws.length 16) s (fun t k => t.hbmWrite (a / 128 + k) (lineOf ws k)) := rfl

/-- Word j of a list stands in line j / 16, in place j % 16. -/
theorem mget_lineOf {j : Nat} {w : Word} (h : ws[j]? = some w) :
    mget {} (wordsOf (lineOf ws (j / 16))) (j % 16) = { data := w, poison := false, flips := 0 } := by
  have hplace : ((ws.drop (16 * (j / 16))).take 16)[j % 16]? = some w := by
    rw [List.getElem?_take_of_lt (by omega), List.getElem?_drop, Nat.div_add_mod, h]
  have hword : (lineOf ws (j / 16))[j % 16]? = some (w, false) := by
    rw [lineOf, List.getElem?_map, List.getElem?_append_left (List.getElem?_eq_some_iff.mp hplace).1, hplace]
    rfl
  rw [mget_wordsOf, List.getD_eq_getElem?_getD, hword]
  rfl

/-- A write of a granule of the weight region whose metadata word can be read (R483). -/
theorem hbmWrite_stores {line : List (Word × Bool)} (hreg : s.inWreg (g * 128) = true) (hkey : s.rd R.KEY_STATE.PLATFORM_VALID 0 = 1)
    (hmeta : checkCode (mget 0 s.hbmMeta (metaKey g)) ≠ .bad) (hinj : s.injs = []) :
    s.hbmWrite g line = ({ s with hbmMeta := mset 0 s.hbmMeta (metaKey g) 0 } : State).setGran g (s.stored line) := by
  have hfound : s.hasKey g = true := by simp [State.hasKey, hreg, State.flag, hkey]
  rw [State.hbmWrite, if_pos hfound]
  unfold State.hbmPut
  extract_lets plat s0 e x
  have hs0 : s0 = { s with hbmMeta := mset 0 s.hbmMeta (metaKey g) 0 } := if_neg hmeta
  have hx : x = s.stored line := by simp [x, e, plat, hreg, State.stored]
  have hnone : s0.inject .hbmUncorr (chanUnit g) (fun p => decide (p % 4 = 3)) = none := by
    rw [State.inject, injSlot_nil (hs0 ▸ hinj)]
  rw [hnone, hs0, hx]

/-- Of the lines of `ws` from granule g on, `t` holds the first n as `s` stores them; of all else that `s` holds it has changed metadata words alone,
which it has written anew. -/
structure LinesStored (s : State) (g : Nat) (ws : List Word) (n : Nat) (t : State) : Prop where
  rest : { t with hbm := s.hbm, hbmMeta := s.hbmMeta } = s
  lines : ∀ k < n, t.gran (g + k) = s.stored (lineOf ws k)
  metas : ∀ k, mget 0 t.hbmMeta k = 0 ∨ mget 0 t.hbmMeta k = mget 0 s.hbmMeta k

theorem LinesStored.next (h : LinesStored s g ws n t) (hreg : s.inWreg ((g + n) * 128) = true) (hkey : s.rd R.KEY_STATE.PLATFORM_VALID 0 = 1)
    (hmeta : checkCode (mget 0 s.hbmMeta (metaKey (g + n))) ≠ .bad) (hinj : s.injs = []) :
    LinesStored s g ws (n + 1) (t.hbmWrite (g + n) (lineOf ws n)) := by
  obtain ⟨hrest, hlines, hmetas⟩ := h
  have hstored : t.stored (lineOf ws n) = s.stored (lineOf ws n) := (congrArg (fun u : State => u.stored (lineOf ws n)) hrest :)
  have hclean : checkCode (mget 0 t.hbmMeta (metaKey (g + n))) ≠ .bad := by
    rcases hmetas (metaKey (g + n)) with e | e <;> rw [e]
    · rw [checkCode_zero]; nofun
    · exact hmeta
  have hreg' : t.inWreg ((g + n) * 128) = true := (congrArg (fun u : State => u.inWreg ((g + n) * 128)) hrest :).trans hreg
  have hkey' : t.rd R.KEY_STATE.PLATFORM_VALID 0 = 1 := (congrArg (fun u : State => u.rd R.KEY_STATE.PLATFORM_VALID 0) hrest :).trans hkey
  have hinj' : t.injs = [] := (congrArg State.injs hrest :).trans hinj
  rw [hbmWrite_stores hreg' hkey' hclean hinj', hstored]
  refine ⟨hrest, fun k hk => ?_, fun k => ?_⟩
  · by_cases e : k = n
    · rw [e, gran_setGran_same]
    · rw [gran_setGran_other _ _ _ _ (by omega)]
      exact hlines k (by omega)
  · show mget 0 (mset 0 t.hbmMeta (metaKey (g + n)) 0) k = 0 ∨ mget 0 (mset 0 t.hbmMeta (metaKey (g + n)) 0) k = _
    rw [mget_mset]
    split
    · exact .inl rfl
    · exact hmetas k

/-- Words that can be stored stand in HBM afterwards, and nothing but HBM has changed. -/
theorem hbmWords_stores {a : Nat} (h : Storable s a ws.length) :
    HbmHolds (s.hbmWords a ws) a ws ∧ { s.hbmWords a ws with hbm := s.hbm, hbmMeta := s.hbmMeta } = s := by
  obtain ⟨hreg, hkey, hmetas, hinj⟩ := h
  have hall : ∀ n ≤ cdiv ws.length 16,
      LinesStored s (a / 128) ws n (loop n s (fun t k => t.hbmWrite (a / 128 + k) (lineOf ws k))) := by
    intro n
    induction n with
    | zero => exact fun _ => ⟨rfl, fun k hk => by omega, fun k => .inr rfl⟩
    | succ n ih =>
      intro hn
      rw [loop_succ]
      exact (ih (by omega)).next (hreg n hn) hkey (hmetas n hn) hinj
  obtain ⟨hrest, hlines, -⟩ := hall _ le_rfl
  rw [hbmWords_eq]
  refine ⟨fun j w hw => ?_, hrest⟩
  have hj : j < ws.length := (List.getElem?_eq_some_iff.mp hw).1
  rw [hlines (j / 16) (by unfold cdiv; omega)]
  exact ⟨rfl, rfl, mget_lineOf hw⟩

/-! ### What a record leaves -/

/-- Of all that `s` holds, `t` has changed at most registers and what the path of fault records keeps. -/
def LogOnly (s t : State) : Prop :=
  { t with regs := s.regs, faultq := s.faultq, nvLog := s.nvLog, injs := s.injs, injLive := s.injLive } = s

theorem inject_logOnly {d : Det} {u : Nat} {q : Nat → Bool} {r : Nat × State} (h : s.inject d u q = some r) : LogOnly s r.2 := by
  unfold State.inject at h
  split at h
  · cases h
  · cases h
    dsimp only
    split <;> split <;> rfl

theorem marked_logOnly (s : State) (e : Event) : LogOnly s (s.marked e).1 := by
  unfold State.marked
  split
  · rfl
  · split
    · next hr => exact inject_logOnly hr
    · rfl

theorem LogOnly.wr {f : Fld} {i v : Nat} (h : LogOnly s t) : LogOnly s (t.wr f i v) := h
theorem LogOnly.queue {q : List FRec} (h : LogOnly s t) : LogOnly s { t with faultq := q } := h
theorem LogOnly.nvPut {r : FRec} (h : LogOnly s t) : LogOnly s (t.nvPut r) := h

theorem raise_logOnly (s : State) (e : Event) : LogOnly s (s.raise e) := by
  have hmarked := marked_logOnly s e
  unfold State.raise
  dsimp only
  split
  · exact hmarked.wr
  · split
    · exact hmarked.queue
    · split
      · exact hmarked.queue.wr
      · split
        · exact hmarked.queue.nvPut.wr.wr
        · exact hmarked.queue.wr.wr

end Sys2Proof.Machine
end
section
/-! STATE of the image, and the open checks (12_weights.md R337, R338, R342). -/
namespace Sys2Proof.Machine
open Sys2Proof.Claims

variable {s t : State} {x : Img} {o : ImgOpen}

/-! ### STATE (R342, R591) -/

theorem wimgState_rest (s : State) (v : Nat) : { s.wimgState v with regs := s.regs, out := s.out } = s := by
  unfold State.wimgState
  split <;> rfl

theorem wimgState_beside (s : State) (v : Nat) : RegsBeside [.PLT_WIMG_STATE] s (s.wimgState v) := by
  unfold State.wimgState
  split
  · exact RegsBeside.refl _ s
  · exact (RegsBeside.refl _ s).wr

/-- A change of STATE from what `s` has is signalled. -/
theorem wimgState_imageState {v : Nat} (hr : t.rd R.PLT_WIMG_STATE.STATE 0 = s.rd R.PLT_WIMG_STATE.STATE 0) (ho : t.out = s.out)
    (hv : v < 2 ^ R.PLT_WIMG_STATE.STATE.wd := by decide) : ImageState s v (t.wimgState v) := by
  unfold State.wimgState
  split
  · next h => exact ⟨h, by rw [if_pos (hr ▸ h), ho]⟩
  · next h =>
    refine ⟨(rd_wr_same t R.PLT_WIMG_STATE.STATE _ _ (by decide)).trans (Nat.mod_eq_of_lt hv), ?_⟩
    rw [if_neg (hr ▸ h), ← ho]
    rfl

theorem wimgState_rd (s : State) (v : Nat) (hv : v < 2 ^ R.PLT_WIMG_STATE.STATE.wd := by decide) :
    (s.wimgState v).rd R.PLT_WIMG_STATE.STATE 0 = v := (wimgState_imageState (s := s) rfl rfl hv).state

/-! ### STAGED (R342) -/

theorem stagedCheck_rest (s : State) : { s.stagedCheck with regs := s.regs, out := s.out } = s := by
  unfold State.stagedCheck
  split
  · split
    · exact wimgState_rest s 2
    · rfl
  · rfl

/-- A section of this device that is not staged keeps the image as it is. -/
theorem stagedCheck_waits {e : ImgSec} (h : s.img = some x) (he : e ∈ x.secs) (hm : e.mine = true) (hs : e.staged = false) : s.stagedCheck = s := by
  rw [State.stagedCheck, h]
  exact if_neg fun hall => by simpa [hm, hs] using List.all_eq_true.mp hall e he

theorem stagedCheck_done (h : s.img = some x) (hall : ∀ e ∈ x.secs, e.mine = true → e.staged = true) : s.stagedCheck = s.wimgState 2 := by
  rw [State.stagedCheck, h]
  refine if_pos (List.all_eq_true.mpr fun e he => ?_)
  cases hm : e.mine
  · rfl
  · simpa using hall e he hm

/-! ### Refusals (R337) -/

/-- What a refusal reports, before its record is raised. -/
def State.refusalShown (s : State) (code detail : Nat) : State :=
  (s.wr R.PLT_WIMG_STATE.REFUSE 0 code).wr R.PLT_WIMG_STATE.DETAIL 0 (min detail (2 ^ 20 - 1))

theorem refusalShown_refuse (s : State) (code detail : Nat) (hc : code < 2 ^ R.PLT_WIMG_STATE.REFUSE.wd := by decide) :
    (s.refusalShown code detail).rd R.PLT_WIMG_STATE.REFUSE 0 = code :=
  (rd_wr_apart _ _ _ _ _ _ (by decide)).trans ((rd_wr_same _ _ _ _ (by decide)).trans (Nat.mod_eq_of_lt hc))

theorem refusalShown_detail (s : State) (code detail : Nat) :
    (s.refusalShown code detail).rd R.PLT_WIMG_STATE.DETAIL 0 = min detail (2 ^ 20 - 1) :=
  (rd_wr_same _ R.PLT_WIMG_STATE.DETAIL _ _ (by decide)).trans
    (Nat.mod_eq_of_lt (show min detail (2 ^ 20 - 1) < 2 ^ 20 by omega))

theorem openRefused_reports (s : State) (i : Nat) : (s.openRefused 9 i).img = none ∧ (s.openRefused 9 i).rd R.PLT_WIMG_STATE.STATE 0 = 3 ∧
    (s.openRefused 9 i).rd R.PLT_WIMG_STATE.REFUSE 0 = 9 ∧ (s.openRefused 9 i).rd R.PLT_WIMG_STATE.DETAIL 0 = min i (2 ^ 20 - 1) := by
  generalize hu : State.imageRefused { s with img := none } 9 i = u
  have hlog : LogOnly (State.refusalShown { s with img := none } 9 i) u := hu ▸ raise_logOnly _ _
  have hrd (g : Fld) (hk : g.reg ≠ .FLT_INJ_CTL) (hs : g.reg ≠ .FLT_STATUS) :
      u.rd g 0 = (State.refusalShown { s with img := none } 9 i).rd g 0 := hu ▸ raise_rd _ _ g 0 hk hs
  have himg : u.img = none := (congrArg State.img hlog :)
  rw [State.openRefused, hu]
  refine ⟨(congrArg State.img (wimgState_rest u 3) :).trans himg, wimgState_rd u 3, ?_, ?_⟩
  · rw [← refusalShown_refuse { s with img := none } 9 i, ← hrd _ (by decide) (by decide), State.wimgState]
    split
    · rfl
    · exact rd_wr_apart _ _ _ _ _ _ (by decide)
  · rw [← refusalShown_detail { s with img := none } 9 i, ← hrd _ (by decide) (by decide), State.wimgState]
    split
    · rfl
    · exact rd_wr_apart _ _ _ _ _ _ (by decide)

/-! ### WIMG_OPEN (R338) -/

/-- The sections that are laid out are not staged. -/
theorem laySections_fresh (dev addr : Nat) (es : List SecEnt) : ∀ e ∈ (laySections dev addr es).1, e.staged = false := by
  induction es generalizing addr with
  | nil => exact fun e he => absurd he List.not_mem_nil
  | cons d es ih =>
    intro e he
    rw [laySections] at he
    rcases List.mem_cons.mp he with rfl | he
    · rfl
    · exact ih _ e he

theorem openChecks_pass {stop : Nat} (h : MayOpen s o stop) : firstCode (s.openChecks o stop) = none := by
  obtain ⟨hformat, ⟨hsigned, htyp, hzeros⟩, hfloor, ⟨hfaces, hstacks, hreach⟩, hdomain, hroom, hbase, hend⟩ := h
  have hbad : o.secs.findIdx? (fun e => decide (e.typ > 8)) = none :=
    List.findIdx?_eq_none_iff.mpr fun e he => by simpa using htyp e he
  unfold firstCode State.openChecks
  rw [hbad, List.find?_eq_none.mpr]
  · rfl
  · intro c hc
    simp only [List.mem_cons, List.not_mem_nil, or_false] at hc
    rcases hc with rfl | rfl | rfl | rfl | rfl | rfl | rfl | rfl <;> simp [*]

/-- The image that its own host opens on this device, with sections `secs`. -/
def hostImage (o : ImgOpen) (secs : List ImgSec) : Img :=
  { version := o.fld 8 4, model := o.fld 16 8, own := true, base := o.base, room := o.room, secs := secs, devs := (manifestOf o.manifest).map Prod.fst }

/-- The state in which an image is open, before STATE tells it. -/
def State.withImage (s : State) (x : Img) (o : ImgOpen) : State :=
  { s with img := some x, discardWaits := false, lastImg := some (o.fld 16 8, sha384 o.message) }

theorem openImage_passes {l : List ImgSec × Nat} (hl : l = laySections s.devAddr o.base o.secs) (h : MayOpen s o l.2)
    (hload : s.rd R.PLT_WIMG_CTL.LOADER 0 = 0) (hmine : ∃ e ∈ l.1, e.mine = true) :
    s.openImage o true = (s.withImage (hostImage o l.1) o).wimgState 1 := by
  subst hl
  have hstays : (((s.withImage (hostImage o (laySections s.devAddr o.base o.secs).1) o).wimgState 1)).stagedCheck =
      (s.withImage (hostImage o (laySections s.devAddr o.base o.secs).1) o).wimgState 1 := by
    obtain ⟨e, he, hm⟩ := hmine
    exact stagedCheck_waits (congrArg State.img (wimgState_rest _ 1) :) he hm (laySections_fresh _ _ _ e he)
  unfold State.openImage
  dsimp only
  rw [openChecks_pass h]
  dsimp only
  rw [if_neg (by rw [hload]; rintro ⟨-, ⟨⟩⟩)]
  exact hstays

theorem execWimgOpen_opens {l : List ImgSec × Nat} (hl : l = laySections s.devAddr o.base o.secs) (hbusy : s.rd R.PLT_BUILD_CTL.BUSY 0 = 0)
    (hlife : s.rd R.PLT_LIFECYCLE.STATE 0 ≠ 3) (h : MayOpen s o l.2) (hload : s.rd R.PLT_WIMG_CTL.LOADER 0 = 0) (hmine : ∃ e ∈ l.1, e.mine = true) :
    ∃ t, execWimgOpen o s = .next t ∧ ImageState s 1 t ∧ t.discardWaits = false ∧ t.img = some (hostImage o l.1) := by
  have hrest := wimgState_rest (s.withImage (hostImage o l.1) o) 1
  refine ⟨(s.withImage (hostImage o l.1) o).wimgState 1, congrArg Host.Outcome.next ?_, wimgState_imageState rfl rfl,
    (congrArg State.discardWaits hrest :), (congrArg State.img hrest :)⟩
  rw [if_neg (by simp [State.building, State.flag, hbusy, hlife]), openImage_passes hl h hload hmine]

/-- While a build runs the request is refused with code 15, and the image is kept (log entry 58). -/
theorem execWimgOpen_busy {e : Event} (o : ImgOpen) (hbusy : s.rd R.PLT_BUILD_CTL.BUSY 0 = 1)
    (he : e = { det := .imageRefused, unit := unitId 18 0 0 0 0, d0 := 15#64, d1 := 0#64 }) (hrec : Recordable s e) :
    ∃ t, execWimgOpen o s = .next t ∧ t.rd R.PLT_WIMG_STATE.REFUSE 0 = 15 ∧ t.img = s.img ∧ Recorded s e t := by
  have hlogs : LogsAlike s (s.refusalShown 15 0) := (LogsAlike.refl s).wr.wr
  refine ⟨(s.refusalShown 15 0).queued (e.record s), congrArg Host.Outcome.next ?_, (rd_queued _ _ _ _).trans (refusalShown_refuse s 15 0), rfl,
    hlogs.recorded rfl rfl⟩
  rw [if_pos (.inl (by simp [State.building, State.flag, hbusy])), ← raise_queued hrec hlogs, he]
  rfl

/-! ### WIMG_DISCARD (R342, R364) -/

theorem execWimgDiscard_frees (h : ∀ j ∈ s.writes, j.kind ≠ 3) : ∃ t, execWimgDiscard s = .next t ∧ t.img = none ∧ ImageState s 0 t := by
  refine ⟨s.discard, congrArg Host.Outcome.next (if_neg ?_), (congrArg State.img (wimgState_rest _ 0) :), wimgState_imageState rfl rfl⟩
  simpa [State.restoring] using h

theorem execWimgDiscard_waits (h : ∃ j ∈ s.writes, j.kind = 3) :
    ∃ t, execWimgDiscard s = .next t ∧ t.discardWaits = true ∧ { t with discardWaits := s.discardWaits } = s :=
  ⟨{ s with discardWaits := true }, congrArg Host.Outcome.next (if_pos (by simpa [State.restoring] using h)), rfl, rfl⟩

end Sys2Proof.Machine
end
section
/-! Sections, load parcels and puts: what the device stores of them (12_weights.md R339, R340, R342, R343, R431). -/
namespace Sys2Proof.Machine
open Sys2Proof.Claims

variable {s t : State} {x : Img} {i : Nat} {e : ImgSec} {words ws : List Word} {data : SecData} {p : Parcel} {port a n : Nat}

theorem hbmHolds_of_hbm (h : HbmHolds s a ws) (k : t.hbm = s.hbm) : HbmHolds t a ws := by
  have hgran (g : Nat) : t.gran g = s.gran g := by rw [State.gran, k]; rfl
  intro j w hw
  rw [hgran]
  exact h j w hw

/-- Whether words can be stored depends on the map of memory, the key set, the metadata words and the armed slots alone. -/
theorem storable_beside {rs : List RegId} (h : Storable s a n) (hb : RegsBeside rs s t) (hm : t.hbmMeta = s.hbmMeta) (hi : t.injs = s.injs)
    (hreg : .MEM_WREG ∉ rs := by decide) (hkey : .KEY_STATE ∉ rs := by decide) : Storable t a n := by
  obtain ⟨hregion, hvalid, hmetas, hquiet⟩ := h
  refine ⟨fun k hk => ?_, (hb.rd R.KEY_STATE.PLATFORM_VALID 0 hkey).trans hvalid, fun k hk => hm ▸ hmetas k hk, hi.trans hquiet⟩
  rw [State.inWreg, hb.rd R.MEM_WREG.BASE _ hreg, hb.rd R.MEM_WREG.LIMIT _ hreg]
  exact hregion k hk

/-! ### SECTION_STAGED (R339, R342) -/

/-- What a section that is held tells the device: a manifest its place, and no other anything. -/
def State.told (s : State) (held : Option SecData) : State :=
  match held with
  | some (.manifest devs n) => s.takeManifest devs n
  | _ => s

theorem told_keeps {α : Type} (p : State → α) (hp : ∀ (u : State) m n q, p { u with manifest := m, seatMax := n, place := q } = p u) (s : State)
    (held : Option SecData) : p (s.told held) = p s := by
  unfold State.told
  split
  · exact hp _ _ _ _
  · rfl

/-- The state in which a section's words have been read, and the words. -/
def State.sectionRead (s : State) (x : Img) (e : ImgSec) (words : List Word) : State × List Word :=
  if x.own then (s.hbmWords e.addr words, words) else s.stagedWords e

/-- Words that can be read back are those that stand in the staging region. -/
theorem stagedWords_clean {r : List (Word × Bool)} (hr : s.hbmReadRun (e.addr / 128) (cdiv e.ent.len 128) = (s, r))
    (hgood : r.all (fun w => !w.2) = true) : s.stagedWords e = (s, r.map Prod.fst) := by
  unfold State.stagedWords
  rw [hr]
  refine Prod.ext rfl (List.map_congr_left fun w hw => if_neg ?_)
  simpa using List.all_eq_true.mp hgood w hw

/-- A section that has arrived leaves its words, and no more than HBM has changed. -/
theorem sectionRead_arrived (h : Arrives s x i e words ws) : (s.sectionRead x e words).2.take (cdiv e.ent.len 8) = ws ∧
    (x.own = true → HbmHolds (s.sectionRead x e words).1 e.addr words) ∧
    { (s.sectionRead x e words).1 with hbm := s.hbm, hbmMeta := s.hbmMeta } = s := by
  rcases h.arrived with ⟨hown, rfl, hstore⟩ | ⟨hown, -, r, hr, hgood, rfl⟩
  · obtain ⟨hholds, hrest⟩ := hbmWords_stores hstore
    rw [State.sectionRead, if_pos hown]
    exact ⟨rfl, fun _ => hholds, hrest⟩
  · rw [State.sectionRead, if_neg (by simp [hown]), stagedWords_clean hr hgood]
    exact ⟨rfl, fun k => absurd (hown.symm.trans k) nofun, rfl⟩

/-- A section that is whole is checked in the state `u` in which its words have been read: it is staged, or the image is refused. -/
theorem execSectionStaged_reads (h : Arrives s x i e words ws) (data : SecData) :
    ∃ u, (x.own = true → HbmHolds u e.addr words) ∧ { u with hbm := s.hbm, hbmMeta := s.hbmMeta } = s ∧
      execSectionStaged i words data s = .next (if e.ent.proven ws = false then u.openRefused 9 i else
        ({ u.told (secHolds e.ent.typ ws data) with img := some (withStaged x i (secHolds e.ent.typ ws data)) } : State).stagedCheck) := by
  obtain ⟨himg, hsec, ⟨hfresh, hmine⟩, hload, harr⟩ := id h
  have hloads : s.loads x = false := by simp [State.loads, hload]
  have hopen : ({ s with img := some x } : State) = s := by rw [← himg]
  have hgoes : ¬ (e.staged = true ∨ (s.loads x = true ∧ i ≠ x.worked) ∨ (x.own = false ∧ (e.mine && e.whole) = false)) := by
    rcases harr with ⟨hown, -⟩ | ⟨-, hwhole, -⟩ <;> simp_all
  obtain ⟨hwords, hholds, hrest⟩ := sectionRead_arrived h
  refine ⟨_, hholds, hrest, ?_⟩
  unfold execSectionStaged
  rw [himg]
  dsimp only
  rw [hsec]
  dsimp only
  rw [if_neg hgoes, hloads]
  simp only [Bool.false_eq_true, if_false, hopen, hloads, hmine]
  rw [← hwords]
  rfl

theorem withStaged_other {held : Option SecData} {k : Nat} (h : k ≠ i) : (withStaged x i held).secs[k]? = x.secs[k]? := by
  simp [withStaged, Ne.symm h]

theorem execSectionStaged_stages (h : Arrives s x i e words ws) (hd : digestWords ((wordBytes ws).take e.ent.len) = e.ent.digest) :
    ∃ t, execSectionStaged i words data s = .next t ∧ t.img = some (withStaged x i (secHolds e.ent.typ ws data)) ∧
      (x.own = true → HbmHolds t e.addr words) ∧
      (∀ devs n, e.ent.typ = 0 → data = .manifest devs n → t.manifest = manifestOf ws ∧ t.seatMax = n) ∧
      ((∀ k y, k ≠ i → x.secs[k]? = some y → y.mine = true → y.staged = true) → t.rd R.PLT_WIMG_STATE.STATE 0 = 2) ∧
      ((∃ k y, k ≠ i ∧ x.secs[k]? = some y ∧ y.mine = true ∧ y.staged = false) →
        t.rd R.PLT_WIMG_STATE.STATE 0 = s.rd R.PLT_WIMG_STATE.STATE 0) := by
  obtain ⟨u, hholds, hrest, hex⟩ := execSectionStaged_reads h data
  have hproven : e.ent.proven ws = true := decide_eq_true hd
  rw [hproven, if_neg (by simp)] at hex
  generalize hheld : secHolds e.ent.typ ws data = held at hex ⊢
  have hcheck := stagedCheck_rest { u.told held with img := some (withStaged x i held) }
  have hstate : (u.told held).rd R.PLT_WIMG_STATE.STATE 0 = s.rd R.PLT_WIMG_STATE.STATE 0 :=
    (told_keeps (·.rd R.PLT_WIMG_STATE.STATE 0) (fun _ _ _ _ => rfl) u held).trans (congrArg (fun v : State => v.rd R.PLT_WIMG_STATE.STATE 0) hrest :)
  refine ⟨_, hex, (congrArg State.img hcheck :), fun hown => hbmHolds_of_hbm (hholds hown) ?_, fun devs n htyp hdata => ?_, fun hall => ?_, ?_⟩
  · exact (congrArg State.hbm hcheck :).trans (told_keeps State.hbm (fun _ _ _ _ => rfl) u held)
  · have hm : held = some (.manifest (manifestOf ws) n) := by rw [← hheld, hdata, secHolds, if_pos htyp]
    subst hm
    exact ⟨(congrArg State.manifest hcheck :), (congrArg State.seatMax hcheck :)⟩
  · refine (congrArg (fun v : State => v.rd R.PLT_WIMG_STATE.STATE 0) (stagedCheck_done (x := withStaged x i held) rfl ?_)).trans (wimgState_rd _ 2)
    intro y hy hmine
    obtain ⟨k, hk⟩ := List.mem_iff_getElem?.mp hy
    by_cases e : k = i
    · rw [e, withStaged, List.getElem?_modify_eq] at hk
      obtain ⟨z, -, rfl⟩ := Option.map_eq_some_iff.mp hk
      rfl
    · exact hall k y e ((withStaged_other e).symm.trans hk) hmine
  · rintro ⟨k, y, hk, hy, hmine, hwait⟩
    rw [stagedCheck_waits (x := withStaged x i held) rfl (List.mem_of_getElem? ((withStaged_other hk).trans hy)) hmine hwait]
    exact hstate

theorem execSectionStaged_refuses (h : Arrives s x i e words ws) (hd : digestWords ((wordBytes ws).take e.ent.len) ≠ e.ent.digest) :
    ∃ t, execSectionStaged i words data s = .next t ∧ t.img = none ∧ t.rd R.PLT_WIMG_STATE.STATE 0 = 3 ∧
      t.rd R.PLT_WIMG_STATE.REFUSE 0 = 9 ∧ t.rd R.PLT_WIMG_STATE.DETAIL 0 = min i (2 ^ 20 - 1) := by
  obtain ⟨u, -, -, hex⟩ := execSectionStaged_reads h data
  have hproven : e.ent.proven ws = false := decide_eq_false hd
  rw [if_pos hproven] at hex
  exact ⟨_, hex, openRefused_reports u i⟩

/-! ### LOAD_PARCEL (R340, R431) -/

/-- The state in which a parcel at a port has been counted. -/
def State.parcelCame (s : State) (port : Nat) : State := s.bump R.LNK_PARCEL_STAT.PARCELS port

theorem parcelCame_beside (s : State) (port : Nat) : RegsBeside [.LNK_PARCEL_STAT] s (s.parcelCame port) := (RegsBeside.refl _ s).wr

theorem parcelCame_devAddr (s : State) (port : Nat) : (s.parcelCame port).devAddr = s.devAddr := (parcelCame_beside s port).rd _ _

theorem execLoadParcel_unsealed (open_ : Option ImgOpen) (hd : p.dst = s.devAddr) (hs : p.sealOk = false) :
    ∃ t, execLoadParcel port p open_ s = .next t ∧
      t.rd R.LNK_PARCEL_STAT.SEAL_FAIL port = min (s.rd R.LNK_PARCEL_STAT.SEAL_FAIL port + 1) (2 ^ R.LNK_PARCEL_STAT.SEAL_FAIL.wd - 1) ∧
      s.Frame t [(R.LNK_PARCEL_STAT.PARCELS, port), (R.LNK_PARCEL_STAT.SEAL_FAIL, port)] [] := by
  refine ⟨(s.parcelCame port).bump R.LNK_PARCEL_STAT.SEAL_FAIL port, congrArg Host.Outcome.next ?_, ?_,
    Frame.bump (Frame.bump (Frame.refl s _ _) List.mem_cons_self) (List.mem_cons_of_mem _ List.mem_cons_self)⟩
  · exact (if_neg (not_not_intro (hd.trans (parcelCame_devAddr s port).symm))).trans (if_pos hs)
  · rw [rd_bump_same _ _ _ (by decide), State.parcelCame, rd_bump_apart _ _ _ _ _ (by decide)]

theorem execLoadParcel_drops (open_ : Option ImgOpen) (hd : p.dst = s.devAddr) (hs : p.sealOk = true) (hx : s.img = some x)
    (hother : x.model ≠ p.model ∨ x.version ≠ p.amount) : ∃ t, execLoadParcel port p open_ s = .next t ∧
      t.rd R.PLT_WIMG_STATE.DROPPED 0 = min (s.rd R.PLT_WIMG_STATE.DROPPED 0 + 1) (2 ^ R.PLT_WIMG_STATE.DROPPED.wd - 1) ∧
      s.Frame t [(R.LNK_PARCEL_STAT.PARCELS, port), (R.PLT_WIMG_STATE.DROPPED, 0)] [] := by
  refine ⟨(s.parcelCame port).bump R.PLT_WIMG_STATE.DROPPED 0, congrArg Host.Outcome.next
    ((if_neg (not_not_intro (hd.trans (parcelCame_devAddr s port).symm))).trans ((if_neg (by simp [hs])).trans ?_)), ?_,
    Frame.bump (Frame.bump (Frame.refl s _ _) List.mem_cons_self) (List.mem_cons_of_mem _ List.mem_cons_self)⟩
  · rw [show (State.bump s R.LNK_PARCEL_STAT.PARCELS port).img = some x from hx]
    exact if_pos hother
  · rw [rd_bump_same _ _ _ (by decide), (parcelCame_beside s port).rd R.PLT_WIMG_STATE.DROPPED 0]

theorem execLoadParcel_stores (open_ : Option ImgOpen) (hd : p.dst = s.devAddr) (hs : p.sealOk = true) (hx : s.img = some x)
    (hmodel : x.model = p.model) (hver : x.version = p.amount) (he : x.secs[p.offset]? = some e) (hmine : e.mine = true) (hwait : e.staged = false)
    (hstore : Storable s (e.addr + p.slot) p.data.length) : ∃ t, execLoadParcel port p open_ s = .next t ∧
      HbmHolds t (e.addr + p.slot) p.data ∧
      t.img = some { x with secs := x.secs.modify p.offset (fun y => { y with got := y.got ++ [p.slot] }) } := by
  refine ⟨{ (s.parcelCame port).hbmWords (e.addr + p.slot) p.data with
    img := some (x.modSec p.offset (fun y => { y with got := y.got ++ [p.slot] })) }, congrArg Host.Outcome.next
    ((if_neg (not_not_intro (hd.trans (parcelCame_devAddr s port).symm))).trans ((if_neg (by simp [hs])).trans ?_)),
    (hbmWords_stores (storable_beside hstore (parcelCame_beside s port) rfl rfl)).1, rfl⟩
  rw [show (State.bump s R.LNK_PARCEL_STAT.PARCELS port).img = some x from hx]
  dsimp only
  rw [if_neg (by simp [hmodel, hver]), he]
  exact if_pos ⟨hmine, hwait⟩

/-! ### PUT and PUT_DONE (R343) -/

theorem putReason_none {d n : Nat} (h : MayPut s d n) : s.putReason = none := by
  obtain ⟨rfl, rfl, ⟨hdst, hsrc, hlen, hpos⟩, ⟨hstack, husable, hbase, hend⟩, ⟨hstaging, hlog⟩, hfree⟩ := h
  have hclear : (match s.img with
      | some x => rangesMeet (s.rd R.PLT_PUT_DST.ADDR 0) (s.rd R.PLT_PUT_CTL.LEN 0) x.base x.room
      | none => false) = false := by
    split
    · next x hx => exact hstaging x hx
    · rfl
  unfold State.putReason
  extract_lets d n p staging
  have hfar : (staging || rangesMeet d n (s.logSlot 0) (64 * 2 ^ s.rd R.FLT_LOG_CFG.SIZE 0)) = false := by rw [hlog, Bool.or_false]; exact hclear
  rw [if_neg (by omega), if_neg (by simp [d, n, p, hstack, husable, hbase, hend]), hfar, if_neg Bool.false_ne_true, if_neg (by omega)]

theorem execPut_begins {d n : Nat} (h : MayPut s d n) : ∃ t, execPut s = .next t ∧ t.put = some (d, n) ∧ t.rd R.PLT_PUT_CTL.BUSY 0 = 1 ∧
    s.Frame { t with put := s.put } [(R.PLT_PUT_CTL.BUSY, 0)] [] := by
  refine ⟨{ s.wr R.PLT_PUT_CTL.BUSY 0 1 with put := some (d, n) }, congrArg Host.Outcome.next ?_, rfl,
    rd_wr_same s R.PLT_PUT_CTL.BUSY _ _ (by decide), Frame.wr (Frame.refl s _ _) List.mem_cons_self⟩
  rw [putReason_none h, ← h.dst, ← h.len]

theorem execPut_refused (h : s.rd R.PLT_PUT_CTL.LEN 0 % 128 ≠ 0 ∨ s.rd R.PLT_PUT_CTL.LEN 0 = 0) : ∃ t, execPut s = .next t ∧
    t.rd R.PLT_PUT_CTL.REFUSE 0 = 1 ∧ t.rd R.PLT_PUT_CTL.REASON 0 = 1 ∧ t.put = s.put ∧ t.out = s.out ++ [.msix 1 5] := by
  have hreason : s.putReason = some 1 := if_pos (by omega)
  refine ⟨((s.wr R.PLT_PUT_CTL.REFUSE 0 1).wr R.PLT_PUT_CTL.REASON 0 1).msix 1 5, congrArg Host.Outcome.next (by rw [hreason]), ?_, ?_, rfl, rfl⟩
  · exact (rd_wr_apart _ _ _ _ _ _ (by decide)).trans (rd_wr_same _ _ _ _ (by decide))
  · exact rd_wr_same _ R.PLT_PUT_CTL.REASON _ _ (by decide)

theorem execPutDone_stores {d n : Nat} (hput : s.put = some (d, n)) (hlen : words.length = n / 8) (hstore : Storable s d words.length) :
    ∃ t, execPutDone words s = .next t ∧ t.put = none ∧ t.rd R.PLT_PUT_CTL.BUSY 0 = 0 ∧ t.rd R.PLT_PUT_CTL.DONE 0 = 1 ∧
      t.out = s.out ++ [.msix 1 5] ∧ HbmHolds t d words := by
  obtain ⟨hholds, hrest⟩ := hbmWords_stores (s := { s with put := none }) (storable_beside (rs := []) hstore (RegsBeside.refl _ s) rfl rfl)
  have hwords : (words ++ List.replicate (n / 8 - words.length) 0#64).take (n / 8) = words := by simp [hlen.symm]
  generalize hu : State.hbmWords { s with put := none } d words = u at hholds hrest
  refine ⟨((u.wr R.PLT_PUT_CTL.BUSY 0 0).wr R.PLT_PUT_CTL.DONE 0 1).msix 1 5, ?_, (congrArg State.put hrest :), ?_, ?_, ?_, hholds⟩
  · unfold execPutDone
    rw [hput]
    dsimp only
    rw [hwords, hu]
  · exact (rd_wr_apart _ _ _ _ _ _ (by decide)).trans (rd_wr_same _ _ _ _ (by decide))
  · exact rd_wr_same _ R.PLT_PUT_CTL.DONE _ _ (by decide)
  · exact (congrArg (fun v : State => v.out ++ [Out.msix 1 5]) hrest :)

end Sys2Proof.Machine
end
section
/-! Builds and cuts (12_weights.md R347, R348, R353): what a build leaves in the map, and when it is over. -/
namespace Sys2Proof.Machine
open Sys2Proof.Claims

variable {rs : List RegId} {s t : State} {x : Img} {f c : Nat} {m : MapEnt} {group : Option Nat}

/-! ### Registers that stay through loops and through lines of the resident region -/

theorem RegsBeside.modFace {g : Face → Face} (h : RegsBeside rs s t) : RegsBeside rs s (t.modFace f g) := h

theorem RegsBeside.foldl {α : Type} {l : List α} {g : State → α → State} (h : RegsBeside rs s t)
    (hg : ∀ u e, RegsBeside rs s u → RegsBeside rs s (g u e)) : RegsBeside rs s (l.foldl g t) :=
  List.foldlRecOn (motive := RegsBeside rs s) l g h fun u k e _ => hg u e k

theorem RegsBeside.loop {n : Nat} {g : State → Nat → State} (h : RegsBeside rs s t)
    (hg : ∀ u i, RegsBeside rs s u → RegsBeside rs s (g u i)) : RegsBeside rs s (Machine.loop n t g) :=
  loop_ind (P := RegsBeside rs s) n t g h fun u i _ => hg u i

theorem inject_beside {d : Det} {u : Nat} {q : Nat → Bool} {r : Nat × State} (h : s.inject d u q = some r) : RegsBeside [.FLT_INJ_CTL] s r.2 :=
  fun k hk j => inject_reg h k j (fun e => hk (List.mem_singleton.mpr e))

theorem injStored_beside (s : State) (f w n : Nat) : RegsBeside [.FLT_INJ_CTL] s (s.injStored f w n) := by
  refine RegsBeside.loop (RegsBeside.refl _ s) fun u i h => ?_
  dsimp only
  split
  · exact h
  · split
    · exact h
    · split
      · exact h
      · next hr => exact (h.trans (inject_beside hr)).modFace

theorem putResident_beside (s : State) (f line : Nat) (ws : List Word) : RegsBeside [.FLT_INJ_CTL] s (s.putResident f line ws) := by
  have hdrawn : RegsBeside [.FLT_INJ_CTL] s (if s.hand.running then s.draw.2 else s) := by split <;> exact RegsBeside.refl _ s
  unfold State.putResident
  extract_lets late u
  split
  · exact RegsBeside.modFace (t := u) hdrawn
  · unfold State.injBytes
    split
    · exact RegsBeside.modFace (t := u) hdrawn
    · exact (RegsBeside.modFace (t := u) hdrawn).trans (injStored_beside _ _ _ _)

theorem putResidentRun_beside (s : State) (f line : Nat) (ws : List Word) : RegsBeside [.FLT_INJ_CTL] s (s.putResidentRun f line ws) :=
  RegsBeside.loop (RegsBeside.refl _ s) fun _ _ h => h.trans (putResident_beside _ _ _ _)

theorem loadSpall_beside (s : State) (x : Img) (f w c : Nat) : RegsBeside [.ARF_SPALL, .FLT_INJ_CTL] s (s.loadSpall x f w c) := by
  have hrun (u : State) (line : Nat) (ws : List Word) : RegsBeside [.ARF_SPALL, .FLT_INJ_CTL] u (u.putResidentRun f line ws) :=
    (putResidentRun_beside u f line ws).mono (by decide)
  unfold State.loadSpall
  dsimp only
  split
  · exact RegsBeside.refl _ s
  · split
    · exact RegsBeside.refl _ s
    · exact ((hrun s _ _).foldl fun u _ h => h.trans (hrun u _ _)).wr

/-! ### One weight set (R347) -/

/-- After the map entry is written, a build changes the resident region, its spall entry, the copy's face and the jobs. -/
theorem buildSet_beside (s : State) (x : Img) (c f : Nat) (m : MapEnt) :
    RegsBeside [.ARF_SPALL, .FLT_INJ_CTL] ((s.clearReady f c m).writeEntry f c x.version m) (s.buildSet x c f m) := by
  unfold State.buildSet
  dsimp only
  refine RegsBeside.foldl ?_ fun u i h => ?_
  · exact (RegsBeside.refl _ _).modFace.trans (loadSpall_beside _ _ _ _ _)
  · split
    · split <;> exact h
    · exact h

theorem fw_lt (w : Word) (d : Fld) : fw w d < 2 ^ d.wd := by
  rw [fw, fget_toNat]
  exact Nat.mod_lt _ (Nat.two_pow_pos _)

/-- The fields of a map entry that hold a copy's first block and slot (R105). -/
def blockFld (c : Nat) : Fld := if c = 0 then R.ARF_WSMAP_HI.A_BLOCK else R.ARF_WSMAP_HI.B_BLOCK
def slotFld (c : Nat) : Fld := if c = 0 then R.ARF_WSMAP_HI.A_SLOT else R.ARF_WSMAP_HI.B_SLOT

theorem at_eq (m : MapEnt) (c : Nat) : m.at_ c = (fw m.hi (blockFld c), fw m.hi (slotFld c)) := by
  unfold MapEnt.at_ blockFld slotFld
  split <;> rfl

theorem blockFld_reg (c : Nat) : (blockFld c).reg = .ARF_WSMAP_HI := by unfold blockFld; split <;> rfl
theorem slotFld_reg (c : Nat) : (slotFld c).reg = .ARF_WSMAP_HI := by unfold slotFld; split <;> rfl
theorem verFld_reg (c : Nat) : (verFld c).reg = .ARF_WSVER := by unfold verFld; split <;> rfl

/-- The map entry of a weight set has the copy's place and its version. -/
structure CopyPlaced (c f version : Nat) (m : MapEnt) (t : State) : Prop where
  version : t.rd (verFld c) (ix 4096 f m.w) = version % 2 ^ (verFld c).wd
  valid : t.rd R.ARF_WSMAP_LO.VALID (ix 4096 f m.w) = 1
  block : t.rd (blockFld c) (ix 4096 f m.w) = (m.at_ c).1
  slot : t.rd (slotFld c) (ix 4096 f m.w) = (m.at_ c).2

theorem CopyPlaced.beside {version : Nat} (h : CopyPlaced c f version m s) (hb : RegsBeside rs s t) (hlo : .ARF_WSMAP_LO ∉ rs := by decide)
    (hhi : .ARF_WSMAP_HI ∉ rs := by decide) (hver : .ARF_WSVER ∉ rs := by decide) : CopyPlaced c f version m t :=
  ⟨(hb.rd _ _ (verFld_reg c ▸ hver)).trans h.version, (hb.rd _ _ hlo).trans h.valid, (hb.rd _ _ (blockFld_reg c ▸ hhi)).trans h.block,
    (hb.rd _ _ (slotFld_reg c ▸ hhi)).trans h.slot⟩

/-- Two fields of a word, written one after the other into fields of a register. -/
theorem rd_wr_pair (s : State) (d e : Fld) (i : Nat) (w : Word) (h : e.apart d = true) (hd : d.lo + d.wd ≤ 64) (he : e.lo + e.wd ≤ 64) :
    ((s.wr d i (fw w d)).wr e i (fw w e)).rd d i = fw w d ∧ ((s.wr d i (fw w d)).wr e i (fw w e)).rd e i = fw w e := by
  rw [rd_wr_apart _ _ _ _ _ _ h, rd_wr_same _ _ _ _ hd, rd_wr_same _ _ _ _ he]
  exact ⟨Nat.mod_eq_of_lt (fw_lt w d), Nat.mod_eq_of_lt (fw_lt w e)⟩

theorem writeEntry_placed (s : State) (f c version : Nat) (m : MapEnt) : CopyPlaced c f version m (s.writeEntry f c version m) := by
  unfold State.writeEntry
  extract_lets i p fresh keep live s1 s2
  have hrd (g : Fld) (hs : g.reg ≠ .ARF_SPALL) (hv : g.reg ≠ .ARF_WSVER) :
      (((s2.setReg .ARF_SPALL (spallIx f m.w c) (m.spall c)).wr R.ARF_SPALL.LOADED (spallIx f m.w c) 0).wr (verFld c) i version).rd g i = s2.rd g i := by
    rw [rd_wr_reg _ _ _ _ _ _ (verFld_reg c ▸ hv), rd_wr_reg _ _ _ _ _ _ hs, rd_setReg_ne _ _ _ _ _ _ hs]
  have hvalid : s1.rd R.ARF_WSMAP_LO.VALID i = 1 := (rd_wr_apart _ _ _ _ _ _ (by decide)).trans (rd_wr_same _ _ _ _ (by decide))
  have hs2 : s2 = (s1.wr (blockFld c) i (fw m.hi (blockFld c))).wr (slotFld c) i (fw m.hi (slotFld c)) := by
    simp only [s2, p, at_eq]
    unfold blockFld slotFld
    split <;> rfl
  obtain ⟨hblock, hslot⟩ := rd_wr_pair s1 (blockFld c) (slotFld c) i m.hi (by unfold blockFld slotFld; split <;> decide)
    (by unfold blockFld; split <;> decide) (by unfold slotFld; split <;> decide)
  rw [← hs2] at hblock hslot
  refine ⟨rd_wr_same _ _ _ _ (by unfold verFld; split <;> decide), (hrd _ (by decide) (by decide)).trans ?_, ?_, ?_⟩
  · rw [hs2, rd_wr_reg _ _ _ _ _ _ (slotFld_reg c ▸ by decide), rd_wr_reg _ _ _ _ _ _ (blockFld_reg c ▸ by decide)]
    exact hvalid
  · rw [hrd _ (blockFld_reg c ▸ by decide) (blockFld_reg c ▸ by decide), hblock, at_eq]
  · rw [hrd _ (slotFld_reg c ▸ by decide) (slotFld_reg c ▸ by decide), hslot, at_eq]

/-! ### A build (R347) -/

/-- An image without fine blocks of a face writes none there. -/
theorem writeFine_nothing {q : Nat → Bool} (h : x.fineOf f = ([], [])) : ∃ g, s.writeFine x f q = s.modFace f g := by
  unfold State.writeFine
  rw [h]
  exact ⟨_, rfl⟩

/-- The state in which the weight sets of a build have been taken up. -/
def State.setsBuilt (s : State) (x : Img) (c : Nat) (sets : List (Nat × Nat × MapEnt)) : State :=
  sets.foldl (fun t e => if s.targetLive e.1 c e.2.2 then t.restoreLost c e.1 e.2.2 else t.buildSet x c e.1 e.2.2) (s.wr R.PLT_BUILD_CTL.BUSY 0 1)

/-- The state in which the fine blocks of a build have been written. -/
def State.fineBuilt (s u : State) (x : Img) (group : Option Nat) : State :=
  loop s.nFaces { u with lastVer := x.version } (fun t f => t.writeFine x f (fun g => decide (group = none ∨ group = some g)))

theorem execBuild_passes (h : MayBuild s x) (hg : group = (if s.rd R.PLT_BUILD_CTL.ALL 0 = 1 then none else some (s.rd R.PLT_BUILD_CTL.GROUP 0)))
    (hc : c = s.rd R.PLT_BUILD_CTL.COPY 0) (hcheck : s.buildCheck x c (s.buildSets x group) = none) :
    execBuild s = .next (s.fineBuilt (s.setsBuilt x c (s.buildSets x group)) x group).grantWrites.buildEnd := by
  obtain ⟨himg, hstaged, ⟨hbusy, hboot⟩, hlive⟩ := h
  subst hg hc
  unfold execBuild
  dsimp only
  rw [himg]
  dsimp only
  rw [if_neg (by simp [hstaged, State.building, State.flag, hbusy, hboot, hlive]), hcheck]
  rfl

/-- Without fine blocks in the image, only faces change once the sets have been taken up. -/
theorem fineBuilt_nothing (u : State) (group : Option Nat) (hfine : ∀ g < s.nFaces, x.fineOf g = ([], [])) :
    { s.fineBuilt u x group with faces := u.faces } = { u with lastVer := x.version } := by
  refine loop_ind (P := fun t : State => ({ t with faces := u.faces } : State) = { u with lastVer := x.version }) _ _ _ rfl fun t f hf ht => ?_
  obtain ⟨g, hw⟩ := writeFine_nothing (s := t) (q := fun g => decide (group = none ∨ group = some g)) (hfine f hf)
  rw [hw]
  exact ht

/-- The end of a build of nothing (R347). -/
theorem execBuild_empty (h : MayBuild s x) (hg : group = (if s.rd R.PLT_BUILD_CTL.ALL 0 = 1 then none else some (s.rd R.PLT_BUILD_CTL.GROUP 0)))
    (hfine : ∀ g < s.nFaces, x.fineOf g = ([], [])) (hsets : s.buildSets x group = [])
    (hjobs : ∀ j ∈ s.writes, j.started = true ∧ j.host = false) (hacts : s.acts = []) :
    ∃ t, execBuild s = .next t ∧ t.rd R.PLT_BUILD_CTL.BUSY 0 = 0 ∧ t.out = s.out ++ [.msix 1 1] ∧ t.writes = s.writes := by
  have hcheck : s.buildCheck x (s.rd R.PLT_BUILD_CTL.COPY 0) (s.buildSets x group) = none := by
    rw [hsets]
    rfl
  have hfaces := fineBuilt_nothing (s := s) (s.wr R.PLT_BUILD_CTL.BUSY 0 1) group hfine
  generalize hu : s.fineBuilt (s.wr R.PLT_BUILD_CTL.BUSY 0 1) x group = u at hfaces
  have hwrites : u.writes = s.writes := (congrArg State.writes hfaces :)
  have hbusy : u.rd R.PLT_BUILD_CTL.BUSY 0 = 1 :=
    (congrArg (fun v : State => v.rd R.PLT_BUILD_CTL.BUSY 0) hfaces :).trans (rd_wr_same s R.PLT_BUILD_CTL.BUSY 0 1 (by decide))
  refine ⟨(u.noteSlots.wr R.PLT_BUILD_CTL.BUSY 0 0).msix 1 1, (execBuild_passes h hg rfl hcheck).trans (congrArg Host.Outcome.next ?_),
    rd_wr_same u.noteSlots R.PLT_BUILD_CTL.BUSY 0 0 (by decide), (congrArg (fun v : State => v.out ++ [Out.msix 1 1]) hfaces :), hwrites⟩
  rw [hsets, show s.setsBuilt x (s.rd R.PLT_BUILD_CTL.COPY 0) [] = s.wr R.PLT_BUILD_CTL.BUSY 0 1 from rfl, hu,
    grantWrites_started (fun j hj => (hjobs j (hwrites ▸ hj)).1)]
  refine if_pos ?_
  have hflag : u.noteSlots.flag R.PLT_BUILD_CTL.BUSY 0 = true := decide_eq_true (((noteSlots_beside u).rd _ _).trans hbusy)
  have hhost : u.noteSlots.writes.any (fun j => j.host) = false := List.any_eq_false.mpr fun j hj => by simp [(hjobs j (hwrites ▸ hj)).2]
  have hnone : u.noteSlots.acts = [] := (congrArg State.acts hfaces :).trans hacts
  rw [hflag, hhost, hnone]
  rfl

/-- The jobs of a build are granted write slots and the build may end: registers of arrays and of progress change. -/
theorem buildGranted_beside (s : State) : RegsBeside [.BLK_ARRAY_STATE, .BLK_SPARE, .PLT_PROG_STAT, .PLT_BUILD_CTL] s s.grantWrites.buildEnd := by
  obtain ⟨t, hstarted, ht⟩ := grantWrites_rounds (P := RegsBeside [.BLK_ARRAY_STATE, .BLK_SPARE] s) (RegsBeside.refl _ s)
    fun u j h _ _ => h.trans (startJob_beside u j)
  rw [ht]
  exact ((hstarted.mono (by decide)).trans ((noteSlots_beside t).mono (by decide))).trans ((buildEnd_beside t.noteSlots).mono (by decide))

theorem execBuild_places {i : Nat} (h : MayBuild s x)
    (hg : group = (if s.rd R.PLT_BUILD_CTL.ALL 0 = 1 then none else some (s.rd R.PLT_BUILD_CTL.GROUP 0)))
    (hfine : ∀ g < s.nFaces, x.fineOf g = ([], [])) (hc : c = s.rd R.PLT_BUILD_CTL.COPY 0) (hsets : s.buildSets x group = [(f, i, m)])
    (hcheck : s.buildCheck x c [(f, i, m)] = none) (hlive : s.targetLive f c m = false) :
    ∃ t, execBuild s = .next t ∧ CopyPlaced c f x.version m t := by
  refine ⟨_, execBuild_passes h hg hc (hsets ▸ hcheck), ?_⟩
  have hbuilt : s.setsBuilt x c (s.buildSets x group) = (s.wr R.PLT_BUILD_CTL.BUSY 0 1).buildSet x c f m := by
    rw [hsets]
    exact if_neg (by simp [hlive])
  have hfaces := fineBuilt_nothing (s := s) (x := x) (s.setsBuilt x c (s.buildSets x group)) group hfine
  rw [hbuilt] at hfaces ⊢
  have hplaced := (writeEntry_placed (State.clearReady (s.wr R.PLT_BUILD_CTL.BUSY 0 1) f c m) f c x.version m).beside
    (buildSet_beside (s.wr R.PLT_BUILD_CTL.BUSY 0 1) x c f m)
  have hregs : RegsBeside [] ((s.wr R.PLT_BUILD_CTL.BUSY 0 1).buildSet x c f m)
      (s.fineBuilt ((s.wr R.PLT_BUILD_CTL.BUSY 0 1).buildSet x c f m) x group) := fun r _ j => (congrArg (fun v : State => v.reg r j) hfaces :)
  exact (hplaced.beside hregs).beside (buildGranted_beside _)

/-! ### CUT_REQ (R353) -/

theorem execCutReq_waits (s : State) : ∃ t, execCutReq s = .next t ∧ t.rd R.PLT_CUT_CTL.REQ 0 = 1 ∧ s.Frame t [(R.PLT_CUT_CTL.REQ, 0)] [] :=
  ⟨_, rfl, rd_wr_same s R.PLT_CUT_CTL.REQ 0 1 (by decide), Frame.wr (Frame.refl s _ _) List.mem_cons_self⟩

end Sys2Proof.Machine
end
section
/-! The background reader (12_weights.md R349 to R351, R360). -/
namespace Sys2Proof.Machine
open Sys2Proof.Claims

variable {s : State} {f b a slot w c idx n : Nat} {d : Word} {cells : List (Nat × Nat)} {drift : List Nat}

@[simp] theorem arr_modArr_same (s : State) (f b a : Nat) (g : ArrMem → ArrMem) : (s.modArr f b a g).arr f b a = g (s.arr f b a) :=
  mget_mset_same _ _ _ _

/-- The state in which the digest d and the margin of an array have been noted. -/
def State.readBack (s : State) (f b a n : Nat) (d : Word) : State :=
  (s.modArr f b a (fun x => { x with current := d })).wr R.BLK_WEAR.MARGIN (ixA f b a) (min 65535 n)

theorem readBack_current (s : State) (f b a n : Nat) (d : Word) : ((s.readBack f b a n d).arr f b a).current = d :=
  (congrArg ArrMem.current (arr_modArr_same s f b a (fun x => { x with current := d })) :)

theorem readBack_margin (s : State) (f b a n : Nat) (d : Word) : (s.readBack f b a n d).rd R.BLK_WEAR.MARGIN (ixA f b a) = min 65535 n :=
  (rd_wr_same (s.modArr f b a _) R.BLK_WEAR.MARGIN _ _ (by decide)).trans (Nat.mod_eq_of_lt (show min 65535 n < 2 ^ 16 by omega))

theorem readBack_ticking (s : State) (f b a n : Nat) (d : Word) : (s.readBack f b a n d).ticking = s.ticking :=
  ticking_congr (rd_wr_reg (s.modArr f b a _) _ R.SYN_TICK_PERIOD.PERIOD _ _ _ (by decide)) rfl

/-- What the background reader does with what it has read back. -/
def State.judgeRead (s u : State) (f b a w c n : Nat) (d : Word) : State :=
  if d ≠ (s.arr f b a).expected then
    if s.wsLive f w = c then u.schedule (.lost f b a) (fun t => t.lose f b a) else u.setReady f w c false
  else if n ≠ 0 ∧ s.writes.any (fun j => decide (j.face = f ∧ j.block = b ∧ j.src = a ∧ (j.kind = 1 ∨ j.kind = 2))) = false then
    u.schedule (.redress f b a) (fun t => t.startRetire f b a true)
  else u

theorem execBackgroundRead_serves (h : Serves s f b a slot w c idx) (hd : d = (drifted s f b a cells).cellDigest f b a w idx)
    (hn : n = (drift.filter (fun v => decide (100 * s.rd R.PLT_DIGEST_CFG.REDRESS 0 < v))).length) :
    execBackgroundRead f b a cells drift s = .next (s.judgeRead ((drifted s f b a cells).readBack f b a n d) f b a w c n d) := by
  obtain ⟨hserves, howner, hstands, hquiet⟩ := h
  have hdigest : (drifted s f b a cells).digestNow f b a w idx = (d, drifted s f b a cells) := by
    rw [State.digestNow, forced_quiet (show (drifted s f b a cells).injs = [] from hquiet), hd]
    rfl
  have hexpected : ((drifted s f b a cells).arr f b a).expected = (s.arr f b a).expected :=
    (congrArg ArrMem.expected (arr_modArr_same s f b a (fun x => { x with cells := cells.foldl (fun m c => mset 0 m c.1 c.2) x.cells })) :)
  have hgoes : ¬ ((!decide (s.wsLive f w = c) && !s.copyIsReady f w c) = true) := by
    rcases hstands with k | k <;> simp [k]
  unfold execBackgroundRead
  extract_lets margin u
  have hslot : u.slotOf f b a = some slot := hserves
  have hown : u.slotOwner f b slot = some (w, c, idx) := howner
  have hu : u = drifted s f b a cells := rfl
  rw [hslot]
  dsimp only
  rw [hown]
  dsimp only
  rw [if_neg (show ¬ ((!decide (u.wsLive f w = c) && !u.copyIsReady f w c) = true) from hgoes), hu, hdigest, hexpected,
    show margin = n from hn.symm]
  simp only [decide_eq_true_eq]
  rfl

theorem judgeRead_notes (s u : State) (f b a w c n : Nat) (d : Word) (hcur : (u.arr f b a).current = d)
    (hmar : u.rd R.BLK_WEAR.MARGIN (ixA f b a) = min 65535 n) (ht : u.ticking = true) :
    ((s.judgeRead u f b a w c n d).arr f b a).current = d ∧
      (s.judgeRead u f b a w c n d).rd R.BLK_WEAR.MARGIN (ixA f b a) = min 65535 n := by
  unfold State.judgeRead State.schedule
  rw [if_pos ht, if_pos ht]
  split
  · split
    · exact ⟨hcur, hmar⟩
    · refine ⟨hcur, (rd_wr_reg _ _ _ _ _ _ ?_).trans hmar⟩
      unfold readyFld
      split <;> decide
  · split <;> exact ⟨hcur, hmar⟩

theorem execBackgroundRead_results (h : Serves s f b a slot w c idx) (hd : d = (drifted s f b a cells).cellDigest f b a w idx)
    (hn : n = (drift.filter (fun v => decide (100 * s.rd R.PLT_DIGEST_CFG.REDRESS 0 < v))).length) (ht : s.ticking = true) :
    ∃ t, execBackgroundRead f b a cells drift s = .next t ∧ (t.arr f b a).current = d ∧
      t.rd R.BLK_WEAR.MARGIN (ixA f b a) = min 65535 n ∧
      (d = (s.arr f b a).expected → n = 0 → t.acts = s.acts) ∧
      (d = (s.arr f b a).expected → n ≠ 0 → s.writes = [] → t.acts = s.acts ++ [.redress f b a]) ∧
      (d ≠ (s.arr f b a).expected → s.wsLive f w = c → t.acts = s.acts ++ [.lost f b a]) ∧
      (d ≠ (s.arr f b a).expected → s.wsLive f w ≠ c → c < 2 → t.copyIsReady f w c = false ∧ t.acts = s.acts) := by
  have hex := execBackgroundRead_serves h hd hn
  generalize hu : (drifted s f b a cells).readBack f b a n d = u at hex
  have htick : u.ticking = true := hu ▸ (readBack_ticking (drifted s f b a cells) f b a n d).trans ht
  have hacts : u.acts = s.acts := hu ▸ rfl
  obtain ⟨hcur, hmar⟩ := judgeRead_notes s u f b a w c n d (hu ▸ readBack_current _ _ _ _ _ _) (hu ▸ readBack_margin _ _ _ _ _ _) htick
  refine ⟨_, hex, hcur, hmar, fun he h0 => ?_, fun he h0 hw => ?_, fun he hl => ?_, fun he hl _ => ?_⟩
  · rw [State.judgeRead, if_neg (not_not_intro he), if_neg (fun k => k.1 h0), hacts]
  · rw [State.judgeRead, if_neg (not_not_intro he), if_pos ⟨h0, by rw [hw]; rfl⟩, State.schedule, if_pos htick, hacts]
  · rw [State.judgeRead, if_pos he, if_pos hl, State.schedule, if_pos htick, hacts]
  · rw [State.judgeRead, if_pos he, if_neg hl]
    refine ⟨decide_eq_false ?_, hacts⟩
    rw [State.ws, State.setReady, rd_wrB_same _ _ _ _ (by unfold readyFld; split <;> decide) (by unfold readyFld; split <;> decide)]
    simp

end Sys2Proof.Machine
end
section
/-! Tallies (12_weights.md R361 to R363). -/
namespace Sys2Proof.Machine
open Sys2Proof.Claims

variable {s : State} {k src r other q layer hand version port : Nat} {digest expected good : List Word}

/-! ### TALLY (R363) -/

theorem execTally_manager (h : s.isManager = true) : execTally port s.devAddr src layer hand version digest expected s =
    .next (s.tallyReport ⟨src, layer, hand, version, digest, expected⟩) :=
  congrArg Host.Outcome.next ((if_neg (not_not_intro rfl)).trans (if_pos h))

/-- The devices whose reports on a stage's layer are awaited. -/
theorem twoPeers_awaited (h : TwoPeers s k src r other q) : s.manifest.filter (fun d => decide (d.2.1 = k) &&
    (decide (s.repState d.2.2 = 2 ∨ s.repState d.2.2 = 3 ∨ s.repState d.2.2 = 6))) = [(src, k, r), (other, k, q)] := by
  obtain ⟨-, -, hpeers, hr, hq⟩ := h
  have hsplit : s.manifest.filter (fun d => decide (d.2.1 = k) && (decide (s.repState d.2.2 = 2 ∨ s.repState d.2.2 = 3 ∨ s.repState d.2.2 = 6))) =
      (s.manifest.filter (fun d => decide (d.2.1 = k))).filter
        (fun d => decide (s.repState d.2.2 = 2 ∨ s.repState d.2.2 = 3 ∨ s.repState d.2.2 = 6)) := by
    rw [List.filter_filter]
    exact List.filter_congr fun d _ => Bool.and_comm _ _
  rw [hsplit, hpeers]
  simp [hr, hq]

/-- Whether a report is of the layer, from a device of the stage. -/
def State.tallyOf (s : State) (k layer : Nat) (u : Tally) : Bool := decide (u.layer = layer) && decide ((s.stageOf u.dev).map Prod.fst = some k)

/-- The reports kept, with `t` as its device's last on the layer. -/
def State.talliesWith (s : State) (t : Tally) : List Tally := s.tallies.filter (fun u => !decide (u.dev = t.dev ∧ u.layer = t.layer)) ++ [t]

/-- A report that finds no report of another hand joins those that are kept, and the stage is judged once every peer has reported. -/
theorem tallyReport_joins {t : Tally} {peers : List (Nat × Nat × Nat)} (hstage : s.stageOf t.dev = some (k, r))
    (hhand : ∀ u ∈ s.tallies, s.tallyOf k t.layer u = true → u.hand = t.hand)
    (hpeers : s.manifest.filter (fun d => decide (d.2.1 = k) &&
      (decide (s.repState d.2.2 = 2 ∨ s.repState d.2.2 = 3 ∨ s.repState d.2.2 = 6))) = peers) :
    s.tallyReport t =
      let mine := (s.talliesWith t).filter (s.tallyOf k t.layer)
      if peers.all (fun d => mine.any (fun u => decide (u.dev = d.1))) then
        ({ s with tallies := (s.talliesWith t).filter (fun u => !mine.contains u) } : State).tallyJudge mine
      else { s with tallies := s.talliesWith t } := by
  have hold : s.tallies.filter (fun u => s.tallyOf k t.layer u && decide (u.hand ≠ t.hand)) = [] :=
    List.filter_eq_nil_iff.mpr fun u hu => by
      by_cases ho : s.tallyOf k t.layer u = true
      · simp [hhand u hu ho]
      · simp [ho]
  have hsame : ({ s with tallies := s.tallies.filter (fun u => !([] : List Tally).contains u) } : State) = s := by simp
  subst hpeers
  unfold State.tallyReport
  rw [hstage]
  dsimp only
  rw [show s.tallies.filter (fun u => (decide (u.layer = t.layer) && decide ((s.stageOf u.dev).map Prod.fst = some k)) && decide (u.hand ≠ t.hand)) = []
    from hold, State.tallyJudge, hsame]
  rfl

/-- A report on a layer of which no other report is kept waits for its peer's. -/
theorem tallyReport_waits (h : TwoPeers s k src r other q) (hnone : ∀ u ∈ s.tallies, u.layer ≠ layer) :
    s.tallyReport ⟨src, layer, hand, version, digest, expected⟩ =
      { s with tallies := s.tallies ++ [⟨src, layer, hand, version, digest, expected⟩] } := by
  have hawaited := twoPeers_awaited h
  obtain ⟨-, ⟨hsrc, hother, hne⟩, -, -⟩ := h
  generalize ht : (⟨src, layer, hand, version, digest, expected⟩ : Tally) = t
  have hdev : t.dev = src := ht ▸ rfl
  have hlayer : t.layer = layer := ht ▸ rfl
  have hours : ∀ u ∈ s.tallies, s.tallyOf k t.layer u = false := fun u hu => by simp [State.tallyOf, hlayer, hnone u hu]
  have hkept : s.talliesWith t = s.tallies ++ [t] :=
    congrArg (· ++ [t]) (List.filter_eq_self.mpr fun u hu => by simp [hlayer, hnone u hu])
  have hmine : (s.talliesWith t).filter (s.tallyOf k t.layer) = [t] := by
    rw [hkept, List.filter_append, List.filter_eq_nil_iff.mpr fun u hu => by simp [hours u hu]]
    simp [State.tallyOf, hdev, hsrc]
  rw [tallyReport_joins (hdev ▸ hsrc) (fun u hu ho => absurd ho (by simp [hours u hu])) hawaited]
  dsimp only
  rw [hmine, if_neg (by simp [hdev, hne]), hkept]

/-- Of two reports of one version the one that alone differs from what is expected expels its replica. -/
theorem tallyJudge_expels {o t : Tally} (hv : t.version = o.version) (hd : t.digest ≠ o.digest) (ho : o.off = false) (ht : t.off = true)
    (hstage : s.stageOf t.dev = some (k, r)) : s.tallyJudge [o, t] = s.expel t.dev k r t.layer := by
  unfold State.tallyJudge
  simp [hv, hd, ho, ht, hstage]

theorem tallyReport_expels (h : TwoPeers s k src r other q) (htallies : s.tallies = [⟨other, layer, hand, version, good, good⟩]) (hgood : good ≠ [])
    (hd : digest ≠ good) : s.tallyReport ⟨src, layer, hand, version, digest, good⟩ = ({ s with tallies := [] } : State).expel src k r layer := by
  have hawaited := twoPeers_awaited h
  obtain ⟨-, ⟨hsrc, hother, hne⟩, -, -⟩ := h
  have hkept : s.talliesWith ⟨src, layer, hand, version, digest, good⟩ =
      [⟨other, layer, hand, version, good, good⟩, ⟨src, layer, hand, version, digest, good⟩] := by
    simp [State.talliesWith, htallies, Ne.symm hne]
  have hmine : (s.talliesWith ⟨src, layer, hand, version, digest, good⟩).filter (s.tallyOf k layer) =
      s.talliesWith ⟨src, layer, hand, version, digest, good⟩ := by
    simp [hkept, State.tallyOf, hsrc, hother]
  rw [tallyReport_joins (t := ⟨src, layer, hand, version, digest, good⟩) hsrc (by simp [htallies]) hawaited]
  dsimp only
  rw [hmine, hkept, if_pos (by simp)]
  have hnone (l : List Tally) : l.filter (fun u => !l.contains u) = [] := List.filter_eq_nil_iff.mpr fun u hu => by simp [hu]
  rw [hnone]
  exact tallyJudge_expels rfl hd (by simp [Tally.off]) (by simp [Tally.off, hgood, hd]) hsrc

/-! ### The replica that is expelled (R363, R463) -/

/-- A declaration of a replica of which this device holds no stage: its state, and what is not of replicas or of what leaves the device. -/
theorem declare_notOwn (hn : NotOwn s r) {st : Nat} (stage : Nat) (hst : st < 2 ^ R.SYN_REPLICA.STATE.wd) :
    (s.declare r st stage).repState r = st ∧ RegsBeside [.SYN_DOMAIN_STAT, .SYN_REPLICA] s (s.declare r st stage) ∧
    LogsAlike s (s.declare r st stage) ∧ (s.declare r st stage).tallies = s.tallies := by
  unfold State.declare
  extract_lets first dev s1
  generalize (fun x : Rep => ({ x with down := some first, lost := dev, retire := none, join := none } : Rep)) = g
  have hsends := sayReplica_sends (s := s1.modRep r g) (r := r) (notOwn_of hn rfl) st first
  have hregs : RegsBeside [.SYN_DOMAIN_STAT, .SYN_REPLICA] s ((s1.modRep r g).wr R.SYN_REPLICA.STATE r st) :=
    (((RegsBeside.refl _ s).wr.wr).wr).wr
  have hsent : RegsBeside [.SYN_DOMAIN_STAT, .SYN_REPLICA] s ((s1.modRep r g).sayReplica r st first) := fun k hk j => by
    rw [State.reg, Sends.regs hsends]
    exact hregs k hk j
  refine ⟨(Sends.rd hsends _ _).trans ((repState_wr (s1.modRep r g) r st).trans (Nat.mod_eq_of_lt hst)), hsent, ?_, ?_⟩
  · exact ⟨(Sends.same State.injs (fun _ _ _ _ => rfl) hsends :), (Sends.same State.injLive (fun _ _ _ _ => rfl) hsends :),
      (Sends.same State.faultq (fun _ _ _ _ => rfl) hsends :), (Sends.now hsends :), hsent.rd _ _, hsent.rd _ _⟩
  · exact (Sends.same State.tallies (fun _ _ _ _ => rfl) hsends :)

theorem execTally_waits (h : TwoPeers s k src r other q) (hnone : ∀ u ∈ s.tallies, u.layer ≠ layer) :
    ∃ t, execTally port s.devAddr src layer hand version digest expected s = .next t ∧
      t.tallies = s.tallies ++ [⟨src, layer, hand, version, digest, expected⟩] ∧ { t with tallies := s.tallies } = s :=
  ⟨_, (execTally_manager h.manager).trans (congrArg Host.Outcome.next (tallyReport_waits h hnone)), rfl, rfl⟩

theorem execTally_expels {e : Event} (h : TwoPeers s k src r other q) (htallies : s.tallies = [⟨other, layer, hand, version, good, good⟩])
    (hgood : good ≠ []) (hd : digest ≠ good)
    (he : e = { det := .tallyExpel, unit := unitId 21 0 0 0 0 + src, d0 := BitVec.ofNat 64 r, d1 := BitVec.ofNat 64 layer })
    (hrec : Recordable s e) (hn : NotOwn s r) :
    ∃ t, execTally port s.devAddr src layer hand version digest good s = .next t ∧ t.tallies = [] ∧ t.repState r = 5 ∧
      t.rd R.PLT_TALLY_STAT.EXPELLED 0 = min (s.rd R.PLT_TALLY_STAT.EXPELLED 0 + 1) (2 ^ R.PLT_TALLY_STAT.EXPELLED.wd - 1) ∧ Recorded s e t := by
  obtain ⟨hstate, hregs, hlogs, hkept⟩ := declare_notOwn (s := { s with tallies := [] }) (r := r) hn (st := 5) k (by decide)
  generalize hu : State.declare { s with tallies := [] } r 5 k = u at hstate hregs hlogs hkept
  have hin : ¬ State.repState { s with tallies := [] } r = 5 := fun e => absurd (h.states.1.symm.trans e) (by decide)
  have halike : LogsAlike s (u.bump R.PLT_TALLY_STAT.EXPELLED 0) :=
    LogsAlike.bump ⟨hlogs.slots, hlogs.live, hlogs.queue, hlogs.now, hlogs.path, hlogs.hand⟩
  refine ⟨(u.bump R.PLT_TALLY_STAT.EXPELLED 0).queued (e.record s), (execTally_manager h.manager).trans (congrArg Host.Outcome.next ?_), hkept, ?_, ?_,
    halike.recorded rfl rfl⟩
  · rw [tallyReport_expels h htallies hgood hd, State.expel, if_neg hin, hu,
      ← raise_queued hrec halike, he]
  · exact (rd_queued _ _ _ _).trans ((rd_wr_reg _ _ _ _ _ _ (by decide)).trans hstate)
  · exact (rd_queued _ _ _ _).trans ((rd_bump_same u R.PLT_TALLY_STAT.EXPELLED 0 (by decide)).trans (by rw [hregs.rd R.PLT_TALLY_STAT.EXPELLED 0]; rfl))

end Sys2Proof.Machine
end
section
/-! Snapshots of the layers (12_weights.md R361, R362) and RESTORE (22_host_reset_startup.md R604, 18_tenancy_and_management.md R505). -/
namespace Sys2Proof.Machine
open Sys2Proof.Claims

variable {s t : State} {f l v port : Nat} {d : List Word} {x : Img} {b : FineBlk}

/-- A loop of which one round alone changes anything. -/
theorem loop_acts_once {α : Type} {n i : Nat} {s u : α} {g : α → Nat → α} (hi : i < n) (hbefore : ∀ j < i, g s j = s) (hacts : g s i = u)
    (hafter : ∀ j, i < j → j < n → g u j = u) : loop n s g = u := by
  have key : ∀ m ≤ n, loop m s g = if m ≤ i then s else u := by
    intro m
    induction m with
    | zero => exact fun _ => rfl
    | succ m ih =>
      intro hm
      rw [loop_succ, ih (by omega)]
      rcases Nat.lt_trichotomy m i with h | h | h
      · rw [if_pos (by omega), if_pos (by omega), hbefore m h]
      · rw [if_pos (by omega), if_neg (by omega), h, hacts]
      · rw [if_neg (by omega), if_neg (by omega), hafter m h (by omega)]
  rw [key n le_rfl, if_neg (by omega)]

/-! ### What a layer's digest depends on (R361) -/

section
variable (hb : RegsBeside [.PLT_TALLY_STAT] s t)
include hb

theorem ws_beside_tally (g : Fld) (f w : Nat) (hg : g.reg ∉ [RegId.PLT_TALLY_STAT] := by decide) : t.ws g f w = s.ws g f w := hb.rd g _ hg

theorem copyVer_beside_tally (f w c : Nat) : t.copyVer f w c = s.copyVer f w c := hb.rd _ _ (by rw [verFld_reg]; decide)

theorem built_beside_tally (f w c : Nat) : t.built f w c = s.built f w c := by
  have hready : t.ws (readyFld c) f w = s.ws (readyFld c) f w := ws_beside_tally hb _ f w (by unfold readyFld; split <;> decide)
  rw [State.built, State.wsValid, State.copyIsReady, copyVer_beside_tally hb, hready, ws_beside_tally hb R.ARF_WSMAP_LO.VALID]
  rfl

theorem layerSets_beside_tally (l : Nat) : t.layerSets l = s.layerSets l := by
  simp only [State.layerSets, State.nFaces, State.wsLive, hb.rd R.PLT_CAP_FACES.COUNT 0, built_beside_tally hb,
    ws_beside_tally hb R.ARF_WSMAP_LO.LIVE, ws_beside_tally hb R.ARF_WSMAP_LO.LAYER]

theorem copySlot_beside_tally (f w c i : Nat) : t.copySlot f w c i = s.copySlot f w c i := by
  simp only [State.copySlot, ws_beside_tally hb R.ARF_WSMAP_LO.K, ws_beside_tally hb R.ARF_WSMAP_LO.N, ws_beside_tally hb R.ARF_WSMAP_HI.A_BLOCK,
    ws_beside_tally hb R.ARF_WSMAP_HI.B_BLOCK, ws_beside_tally hb R.ARF_WSMAP_HI.A_SLOT, ws_beside_tally hb R.ARF_WSMAP_HI.B_SLOT]

theorem slotPhys_beside_tally (f b n : Nat) : t.slotPhys f b n = s.slotPhys f b n := by
  have hmap : RegId.BLK_ARRAY_MAP ∉ [RegId.PLT_TALLY_STAT] := by decide
  rw [State.slotPhys, hb.rd (R.BLK_ARRAY_MAP.VALID (n % 8)) _ hmap, hb.rd (R.BLK_ARRAY_MAP.PHYS (n % 8)) _ hmap]
  rfl

theorem layerDigest_beside_tally (ha : t.arrays = s.arrays) (l : Nat) : t.layerDigest l = s.layerDigest l := by
  have harr (f b a : Nat) : t.arr f b a = s.arr f b a := by rw [State.arr, ha]; rfl
  simp only [State.layerDigest, layerSets_beside_tally hb, State.copyArrays, State.wsLive, ws_beside_tally hb R.ARF_WSMAP_LO.LIVE,
    ws_beside_tally hb R.ARF_WSMAP_LO.BLOCKS, ws_beside_tally hb R.ARF_WSMAP_LO.K, ws_beside_tally hb R.ARF_WSMAP_LO.N,
    copySlot_beside_tally hb, slotPhys_beside_tally hb, copyVer_beside_tally hb, harr]

end

/-! ### TALLY_SNAPSHOT (R362) -/

theorem tallyLayer_none (hand : Nat) (h : s.layerDigest l = none) : s.tallyLayer hand l = s := by rw [State.tallyLayer, h]

/-- The boundary after a hand that INTERVAL divides. -/
structure SnapshotDue (s : State) : Prop where
  still : s.hand.running = false
  interval : s.rd R.PLT_DIGEST_CFG.INTERVAL 0 ≠ 0
  hand : s.rd R.SYN_HAND_NUM.HAND 0 ≠ 0
  divides : s.rd R.SYN_HAND_NUM.HAND 0 % s.rd R.PLT_DIGEST_CFG.INTERVAL 0 = 0

theorem execTallySnapshot_due (h : SnapshotDue s) : execTallySnapshot s =
    .next (loop 256 { s with digestBad := false } (fun t l => t.tallyLayer (s.rd R.SYN_HAND_NUM.HAND 0) l)) :=
  congrArg Host.Outcome.next (if_neg (by simp [h.still, h.interval, h.hand, h.divides]))

theorem execTallySnapshot_empty (h : SnapshotDue s) (hnone : ∀ l < 256, s.layerDigest l = none) :
    ∃ t, execTallySnapshot s = .next t ∧ t.digestBad = false ∧ { t with digestBad := s.digestBad } = s := by
  refine ⟨{ s with digestBad := false }, (execTallySnapshot_due h).trans (congrArg Host.Outcome.next ?_), rfl, rfl⟩
  refine loop_ind (P := (· = ({ s with digestBad := false } : State))) _ _ _ rfl fun t l hl ht => ?_
  rw [ht]
  exact tallyLayer_none _ (hnone l hl)

/-- The state in which a layer's report has left for the manager. -/
def State.layerTold (s : State) (port : Nat) (m : Msg) : State :=
  { s.bump R.PLT_TALLY_STAT.TALLIES 0 with
    digestBad := false
    ports := mset {} s.ports port ((mget {} s.ports port).take (.ctl port s.manager s.devAddr m))
    out := s.out ++ [.ctl port s.manager s.devAddr m] }

theorem layerTold_beside (s : State) (port : Nat) (m : Msg) : RegsBeside [.PLT_TALLY_STAT] s (s.layerTold port m) :=
  RegsBeside.wr (f := R.PLT_TALLY_STAT.TALLIES) (RegsBeside.refl _ s)

/-- A layer's report, at a device that is not the manager and knows no expected digest. -/
theorem tallyLayer_sends {hand : Nat} (hlayer : s.layerDigest l = some (d, v)) (himg : s.img = none) (hman : s.isManager = false)
    (hroute : RoutedNow s s.manager port) :
    State.tallyLayer { s with digestBad := false } hand l = s.layerTold port (.tally l hand v d) := by
  have hbump : RegsBeside [.PLT_TALLY_STAT] s (State.bump { s with digestBad := false } R.PLT_TALLY_STAT.TALLIES 0) :=
    RegsBeside.wr (f := R.PLT_TALLY_STAT.TALLIES) (RegsBeside.refl _ s)
  obtain ⟨⟨e, hr⟩, hact⟩ := routedNow_beside hroute hbump
  have hworker : (State.bump { s with digestBad := false } R.PLT_TALLY_STAT.TALLIES 0).isManager = false := by
    rw [State.isManager, hbump.rd R.SYN_ROLE.ROLE 0]
    exact hman
  have hmanager : (State.bump { s with digestBad := false } R.PLT_TALLY_STAT.TALLIES 0).manager = s.manager := hbump.rd _ _
  have hdev : (State.bump { s with digestBad := false } R.PLT_TALLY_STAT.TALLIES 0).devAddr = s.devAddr := hbump.rd _ _
  have hexpected : State.expectedDigest { s with digestBad := false } l = none := by
    unfold State.expectedDigest
    rw [show State.img { s with digestBad := false } = none from himg]
  unfold State.tallyLayer
  rw [show State.layerDigest { s with digestBad := false } l = some (d, v) from hlayer]
  dsimp only
  rw [hexpected]
  dsimp only
  rw [hworker, if_neg Bool.false_ne_true, hmanager, State.sendCtl, hr]
  dsimp only
  rw [portOut_ctl hact, hdev]
  rfl

theorem execTallySnapshot_reports {m : Msg} (h : SnapshotDue s) (hl : l < 256) (hlayer : s.layerDigest l = some (d, v))
    (hothers : ∀ k < 256, k ≠ l → s.layerDigest k = none) (himg : s.img = none) (hman : s.isManager = false)
    (hm : m = .tally l (s.rd R.SYN_HAND_NUM.HAND 0) v d) (hroute : RoutedNow s s.manager port) :
    ∃ t, execTallySnapshot s = .next t ∧ t.digestBad = false ∧ t.out = s.out ++ [.ctl port s.manager s.devAddr m] ∧
      t.rd R.PLT_TALLY_STAT.TALLIES 0 = min (s.rd R.PLT_TALLY_STAT.TALLIES 0 + 1) (2 ^ R.PLT_TALLY_STAT.TALLIES.wd - 1) := by
  subst hm
  refine ⟨s.layerTold port _, (execTallySnapshot_due h).trans (congrArg Host.Outcome.next (loop_acts_once hl (fun j hj => ?_)
    (tallyLayer_sends hlayer himg hman hroute) fun j hlj hj => ?_)), rfl, rfl, rd_bump_same s R.PLT_TALLY_STAT.TALLIES 0 (by decide)⟩
  · exact tallyLayer_none _ (hothers j (by omega) (by omega))
  · exact tallyLayer_none _ ((layerDigest_beside_tally (layerTold_beside s port _) rfl j).trans (hothers j hj (by omega)))

/-! ### RESTORE (R604) -/

theorem restoreReason_none (himg : s.img = some x) (hstaged : s.rd R.PLT_WIMG_STATE.STATE 0 = 2)
    (hver : ∀ f < s.nFaces, ∀ w < 4096, s.wsValid f w = true → s.copyVer f w (s.wsLive f w) = x.version)
    (hbuild : s.rd R.PLT_BUILD_CTL.BUSY 0 = 0) (hboot : s.rd R.PLT_BOOT_CTL.BUSY 0 = 0) : s.restoreReason = none := by
  have hsame : (List.range s.nFaces).any (fun f => (List.range 4096).any (fun w =>
      s.wsValid f w && decide (s.copyVer f w (s.wsLive f w) ≠ x.version))) = false := by
    refine List.any_eq_false.mpr fun f hf => ?_
    rw [Bool.not_eq_true, List.any_eq_false]
    intro w hw
    by_cases hv : s.wsValid f w = true
    · simp [hver f (List.mem_range.mp hf) w (List.mem_range.mp hw) hv]
    · simp [hv]
  unfold State.restoreReason
  rw [himg]
  dsimp only [Option.map_some, Option.getD_some]
  rw [if_neg (not_not_intro hstaged), hsame, if_neg Bool.false_ne_true, if_neg (by simp [State.building, State.flag, hbuild, hboot])]

theorem execRestore_begins (himg : s.img = some x) (hstaged : s.rd R.PLT_WIMG_STATE.STATE 0 = 2)
    (hver : ∀ f < s.nFaces, ∀ w < 4096, s.wsValid f w = true → s.copyVer f w (s.wsLive f w) = x.version)
    (hbuild : s.rd R.PLT_BUILD_CTL.BUSY 0 = 0) (hboot : s.rd R.PLT_BOOT_CTL.BUSY 0 = 0) :
    ∃ t, execRestore s = .next t ∧ t.rd R.PLT_BOOT_CTL.BUSY 0 = 1 ∧ s.Frame t [(R.PLT_BOOT_CTL.BUSY, 0)] [] := by
  refine ⟨s.wr R.PLT_BOOT_CTL.BUSY 0 1, congrArg Host.Outcome.next ?_, rd_wr_same s R.PLT_BOOT_CTL.BUSY 0 1 (by decide),
    Frame.wr (Frame.refl s _ _) List.mem_cons_self⟩
  rw [restoreReason_none himg hstaged hver hbuild hboot]

theorem execRestore_refused (h : s.rd R.PLT_WIMG_STATE.STATE 0 ≠ 2) : ∃ t, execRestore s = .next t ∧ t.rd R.PLT_BOOT_CTL.REFUSE 0 = 1 ∧
    t.rd R.PLT_BOOT_CTL.REASON 0 = 1 ∧ s.Frame t [(R.PLT_BOOT_CTL.REFUSE, 0), (R.PLT_BOOT_CTL.REASON, 0)] [] := by
  have hreason : s.restoreReason = some 1 := if_pos h
  refine ⟨(s.wr R.PLT_BOOT_CTL.REFUSE 0 1).wr R.PLT_BOOT_CTL.REASON 0 1, congrArg Host.Outcome.next (by rw [hreason]), ?_, ?_,
    Frame.wr (Frame.wr (Frame.refl s _ _) List.mem_cons_self) (List.mem_cons_of_mem _ List.mem_cons_self)⟩
  · exact (rd_wr_apart _ _ _ _ _ _ (by decide)).trans (rd_wr_same _ _ _ _ (by decide))
  · exact rd_wr_same _ R.PLT_BOOT_CTL.REASON _ _ (by decide)

/-! ### RESTORE_DONE (R604) -/

/-- Spall data of the live copies of a face that the image built goes back. -/
def State.spallBack (s : State) (x : Img) (f : Nat) : State :=
  (List.range 4096).foldl (fun u w =>
    if u.built f w (u.wsLive f w) = true ∧ u.copyVer f w (u.wsLive f w) = x.version then u.loadSpall x f w (u.wsLive f w) else u) s

/-- What a restore puts back on a face. -/
def State.faceBack (s : State) (x : Img) (f : Nat) : State :=
  ((x.fineOf f).1.foldl (fun u b => if b.resident then u.putResidentRun f (b.addr / 128) b.words else u.hbmWords b.addr b.words)
    (s.spallBack x f)).relines f

theorem putBack_staged (himg : s.img = some x) (hstaged : s.rd R.PLT_WIMG_STATE.STATE 0 = 2) :
    s.putBack true = loop s.nFaces s (fun t f => t.faceBack x f) := by
  unfold State.putBack
  rw [himg]
  exact if_neg (not_not_intro hstaged)

/-- Face f has no fine-table lines, and no live copy that the image built. -/
structure NoneBuilt (s : State) (x : Img) (f : Nat) : Prop where
  lines : (s.face f).fineLines = []
  copies : ∀ w < 4096, s.built f w (s.wsLive f w) = true → s.copyVer f w (s.wsLive f w) ≠ x.version

theorem NoneBuilt.spallBack (h : NoneBuilt s x f) : s.spallBack x f = s := by
  refine List.foldlRecOn (motive := (· = s)) _ _ rfl fun t ht w hw => ?_
  rw [ht]
  exact if_neg fun k => h.copies w (List.mem_range.mp hw) k.1 k.2

theorem relines_none (h : (s.face f).fineLines = []) : s.relines f = s := by simp [State.relines, h]

theorem NoneBuilt.faceBack (h : NoneBuilt s x f) (hfine : x.fineOf f = ([], [])) : s.faceBack x f = s := by
  rw [State.faceBack, hfine, h.spallBack]
  exact relines_none h.lines

/-- HBM has no part in what a restore finds built. -/
theorem NoneBuilt.of_rest (h : NoneBuilt s x f) (hrest : { t with hbm := s.hbm, hbmMeta := s.hbmMeta } = s) : NoneBuilt t x f :=
  ⟨(congrArg (fun u : State => (u.face f).fineLines) hrest :).trans h.lines, fun w hw hb => by
    have hbuilt : t.built f w (t.wsLive f w) = s.built f w (s.wsLive f w) := (congrArg (fun u : State => u.built f w (u.wsLive f w)) hrest :)
    have hver : t.copyVer f w (t.wsLive f w) = s.copyVer f w (s.wsLive f w) := (congrArg (fun u : State => u.copyVer f w (u.wsLive f w)) hrest :)
    rw [hver]
    exact h.copies w hw (hbuilt.symm.trans hb)⟩

/-- A restore of one fine block in HBM, and of nothing else. -/
theorem putBack_block (hf : f < s.nFaces) (himg : s.img = some x) (hstaged : s.rd R.PLT_WIMG_STATE.STATE 0 = 2) (hblock : x.fineOf f = ([b], []))
    (hres : b.resident = false) (hnone : ∀ g < s.nFaces, NoneBuilt s x g) (hfine : ∀ g < s.nFaces, g ≠ f → x.fineOf g = ([], []))
    (hstore : Storable s b.addr b.words.length) : s.putBack true = s.hbmWords b.addr b.words := by
  have hrest := (hbmWords_stores hstore).2
  rw [putBack_staged himg hstaged]
  refine loop_acts_once hf (fun j hj => (hnone j (by omega)).faceBack (hfine j (by omega) (by omega))) ?_
    fun j hfj hj => ((hnone j hj).of_rest hrest).faceBack (hfine j hj (by omega))
  rw [State.faceBack, hblock, (hnone f hf).spallBack]
  dsimp only [List.foldl_cons, List.foldl_nil]
  rw [if_neg (by simp [hres])]
  exact relines_none ((hnone f hf).of_rest hrest).lines

theorem execRestoreDone_ends (hboot : s.rd R.PLT_BOOT_CTL.BUSY 0 = 1) :
    ∃ t, execRestoreDone s = .next t ∧ t.rd R.PLT_BOOT_CTL.BUSY 0 = 0 ∧ t.rd R.PLT_BOOT_CTL.DONE 0 = 1 ∧ t.hbm = (s.putBack true).hbm := by
  refine ⟨(((s.putBack true).wr R.PLT_BOOT_CTL.BUSY 0 0).wr R.PLT_BOOT_CTL.DONE 0 1).msix 1 4, congrArg Host.Outcome.next (if_neg ?_), ?_, ?_, rfl⟩
  · rw [hboot]
    decide
  · exact (rd_wr_apart _ _ _ _ _ _ (by decide)).trans (rd_wr_same _ _ _ _ (by decide))
  · exact rd_wr_same _ R.PLT_BOOT_CTL.DONE _ _ (by decide)

end Sys2Proof.Machine
end
section
open Sys2Proof Sys2Proof.Machine Sys2Proof.Claims

/-- Settles O56: each command's result, one after the other.  A refusal with code 15 keeps the open image, and a tally is taken when its stage's
devices have reported, by log entry 58; the base, room and shape that are operands of WIMG_OPEN, the signature block and the groups of a cut are the
model's choices of log entries 59, 78 and 79. -/
theorem imageResults : Obligations.ImageResults := by
  unfold Obligations.ImageResults
  intro s
  refine ⟨fun o l hl hbusy hlife h hload hmine => execWimgOpen_opens hl hbusy hlife h hload hmine,
    fun o e hbusy he hrec => execWimgOpen_busy o hbusy he hrec, execWimgDiscard_frees, execWimgDiscard_waits,
    fun x i e words ws data h hd => execSectionStaged_stages h hd, fun x i e words ws data h hd => execSectionStaged_refuses h hd,
    fun port p open_ hdst => ⟨execLoadParcel_unsealed open_ hdst, fun x hx hs => ⟨execLoadParcel_drops open_ hdst hs hx,
      fun e hmodel hver he hmine hwait hstore => execLoadParcel_stores open_ hdst hs hx hmodel hver he hmine hwait hstore⟩⟩,
    fun d n h => execPut_begins h, execPut_refused, fun d n words hput _ hlen hstore => execPutDone_stores hput hlen hstore,
    fun x group h hg hfine => ⟨execBuild_empty h hg hfine, fun f i m c hc hsets hcheck hlive => ?_⟩, execCutReq_waits s,
    fun f b a cells drift slot w c idx d n h hd hn ht => ?_,
    fun port src k r other q layer hand version digest expected h => ⟨execTally_waits h, fun good e htallies hgood hexp hd he hrec hn => ?_⟩,
    fun hover hint hhand hdiv => ⟨execTallySnapshot_empty ⟨hover, hint, hhand, hdiv⟩,
      fun l d v port m hl hlayer hothers himg hman hm hroute =>
        execTallySnapshot_reports ⟨hover, hint, hhand, hdiv⟩ hl hlayer hothers himg hman hm hroute⟩,
    fun x himg hstaged hver hbuild hboot => execRestore_begins himg hstaged hver hbuild hboot, execRestore_refused, fun hboot => ?_⟩
  · obtain ⟨t, hex, hversion, hvalid, hblock, hslot⟩ := execBuild_places h hg hfine hc hsets hcheck hlive
    exact ⟨t, hex, hversion, hvalid, hblock, hslot⟩
  · obtain ⟨t, hex, hresults⟩ := execBackgroundRead_results h hd hn ht
    exact ⟨t, hex, hresults⟩
  · subst hexp
    exact execTally_expels h htallies hgood hd he hrec hn
  · obtain ⟨t, hex, hbusy, hdone, hhbm⟩ := execRestoreDone_ends hboot
    refine ⟨t, hex, hbusy, hdone, fun x f b hf himg hstaged hblock hres hrest hstore => hbmHolds_of_hbm (hbmWords_stores hstore).1 ?_⟩
    rw [hhbm, putBack_block hf himg hstaged hblock hres (fun g hg => ⟨(hrest g hg).2.1, (hrest g hg).2.2⟩) (fun g hg => (hrest g hg).1) hstore]
end
section
/-! Doorbells, and what the front reads from a submission queue (13_requests_and_pages.md R365 to R367, R393, 22_host_reset_startup.md R590). -/
namespace Sys2Proof.Machine
open Sys2Proof.Claims

variable {s : State} {r v : Nat} {e copy : Entry}

/-! ### Doorbells (R365, R590) -/

/-- A count of one, and nothing else. -/
theorem bump_counts (s : State) (g : Fld) (i : Nat) (hg : g.lo + g.wd ≤ 64 := by decide) :
    s.Frame (s.bump g i) [(g, i)] [] ∧ (s.bump g i).rd g i = min (s.rd g i + 1) (2 ^ g.wd - 1) :=
  ⟨Frame.bump (Frame.refl s _ _) List.mem_cons_self hg, rd_bump_same s g i hg⟩

theorem dbIndex_within {n : Nat} (h : v < n) : dbIndex v n = some v := if_pos h
theorem dbIndex_beyond {n : Nat} (h : n ≤ v) : dbIndex v n = none := if_neg (Nat.not_lt.mpr h)

@[simp] theorem ring_setRing (s : State) (r : Nat) (x : Ring) : (s.setRing r x).ring_ r = x := mget_mset_same _ _ _ _

theorem execSqDoorbell_disabled (v : Nat) (hr : r < 16384) (hen : s.rd R.SRV_RING_CTL.EN r = 0) :
    execSqDoorbell r v s = .next (s.bump R.HIF_DB_STAT.DISABLED 0) :=
  congrArg Host.Outcome.next ((if_neg (Nat.not_le.mpr hr)).trans (if_pos hen))

theorem execCqDoorbell_disabled (v : Nat) (hr : r < 16384) (hen : s.rd R.SRV_RING_CTL.EN r = 0) :
    execCqDoorbell r v s = .next (s.bump R.HIF_DB_STAT.DISABLED 0) :=
  congrArg Host.Outcome.next ((if_neg (Nat.not_le.mpr hr)).trans (if_pos hen))

theorem execSqDoorbell_bad (hr : r < 16384) (hen : s.rd R.SRV_RING_CTL.EN r = 1) (hv : ringSize s R.SRV_RING_SQ.SIZE r ≤ v) :
    execSqDoorbell r v s = .next (s.bump R.HIF_DB_STAT.BAD 0) := by
  refine congrArg Host.Outcome.next ((if_neg (Nat.not_le.mpr hr)).trans ((if_neg (by omega)).trans ?_))
  rw [dbIndex_beyond (show queueSize _ ≤ v from hv)]

/-- The new submission tail of ring r. -/
def State.sqTold (s : State) (r v : Nat) : State := (s.setRing r { s.ring_ r with tail := v }).bump R.HIF_DB_STAT.WRITES 0

theorem execSqDoorbell_taken (hr : r < 16384) (hen : s.rd R.SRV_RING_CTL.EN r = 1) (hv : v < ringSize s R.SRV_RING_SQ.SIZE r)
    (hl : NoneLost s .doorbell) : execSqDoorbell r v s = .next (s.sqTold r v) := by
  refine congrArg Host.Outcome.next ((if_neg (Nat.not_le.mpr hr)).trans ((if_neg (by omega)).trans ?_))
  rw [dbIndex_within (show v < queueSize _ from hv)]
  exact ringGuard_noneLost hl _ _

theorem sqTold_ring (s : State) (r v : Nat) : (s.sqTold r v).ring_ r = { s.ring_ r with tail := v } := ring_setRing s r _

theorem sqTold_writes (s : State) (r v : Nat) : (s.sqTold r v).rd R.HIF_DB_STAT.WRITES 0 =
    min (s.rd R.HIF_DB_STAT.WRITES 0 + 1) (2 ^ R.HIF_DB_STAT.WRITES.wd - 1) := by
  have hback : (s.setRing r { s.ring_ r with tail := v }).rd R.HIF_DB_STAT.WRITES 0 = s.rd R.HIF_DB_STAT.WRITES 0 :=
    rd_wr_apart _ _ _ _ _ _ (by decide)
  rw [State.sqTold, rd_bump_same _ _ _ (by decide), hback]

theorem sqTold_frame (s : State) (r v : Nat) :
    s.Frame { s.sqTold r v with rings := s.rings } [(R.SRV_RING_STAT.BACKLOG, r), (R.HIF_DB_STAT.WRITES, 0)] [] :=
  Frame.bump (Frame.wr (Frame.refl s _ _) List.mem_cons_self) (List.mem_cons_of_mem _ List.mem_cons_self)

/-- The vectors due of a hand, none of them waiting behind records (R372). -/
theorem irqsDue_eq (h : s.hand.posted = none) : s.irqsDue = { s with
    out := s.out ++ (s.irqs.filter (fun v => !s.irqDone.contains v)).map (Out.msix 0), irqs := s.irqs.filter s.irqDone.contains
    irqDone := s.irqDone ++ s.irqs.filter (fun v => !s.irqDone.contains v) } := by
  rw [State.irqsDue, h]
  exact foldl_msix_eq _ _

/-- Space returned in ring r, before the vectors due go out. -/
def State.cqTold (s : State) (r d : Nat) : State :=
  (s.bump R.HIF_DB_STAT.WRITES 0).setRing r { s.ring_ r with head := (s.ring_ r).head + d }

theorem execCqDoorbell_taken {n d : Nat} (hr : r < 16384) (hen : s.rd R.SRV_RING_CTL.EN r = 1) (hn : n = ringSize s R.SRV_RING_CQ.SIZE r)
    (hv : v < n) (hd : d = (v + n - (s.ring_ r).head % n) % n) (hroom : d ≤ (s.ring_ r).written - (s.ring_ r).head)
    (hback : (s.ring_ r).backlog = []) (hl : NoneLost s .doorbell) : execCqDoorbell r v s = .next (s.cqTold r d).irqsDue := by
  refine congrArg Host.Outcome.next ((if_neg (Nat.not_le.mpr hr)).trans ((if_neg (by omega)).trans ?_))
  subst hn hd
  have hnone : (s.ring_ r).backlog.length = 0 := List.length_eq_zero_iff.mpr hback
  rw [dbIndex_within (show v < queueSize _ from hv)]
  refine (ringGuard_noneLost hl _ _).trans ((if_neg (Nat.not_lt.mpr hroom)).trans ?_)
  rw [hnone]
  rfl

theorem execCqDoorbell_results {n d : Nat} (hr : r < 16384) (hen : s.rd R.SRV_RING_CTL.EN r = 1) (hn : n = ringSize s R.SRV_RING_CQ.SIZE r)
    (hv : v < n) (hd : d = (v + n - (s.ring_ r).head % n) % n) (hroom : d ≤ (s.ring_ r).written - (s.ring_ r).head)
    (hback : (s.ring_ r).backlog = []) (hl : NoneLost s .doorbell) (hp : s.hand.posted = none) :
    ∃ t, execCqDoorbell r v s = .next t ∧ t.ring_ r = { s.ring_ r with head := (s.ring_ r).head + d } ∧
      t.irqs = s.irqs.filter s.irqDone.contains ∧
      t.out = s.out ++ (s.irqs.filter (fun x => !s.irqDone.contains x)).map (fun x => .msix 0 x) := by
  refine ⟨_, execCqDoorbell_taken hr hen hn hv hd hroom hback hl, ?_⟩
  rw [irqsDue_eq (s := s.cqTold r d) hp]
  exact ⟨ring_setRing _ _ _, rfl, rfl⟩

/-! ### The next entry of a submission queue (R367) -/

/-- The front has read one entry of ring r. -/
def State.entryRead (s : State) (r : Nat) : State := s.wr R.SRV_RING_STAT.SQ_HEAD r ((s.rd R.SRV_RING_STAT.SQ_HEAD r + 1) % 65536)

theorem sqNext_submitted (h : Submitted s r) : s.sqNext r = some (s.entryRead r) := by
  obtain ⟨⟨hr, hen⟩, hentry⟩ := h
  refine if_neg fun k => ?_
  rcases k with k | k | k
  · omega
  · omega
  · exact hentry k

theorem entryRead_moves (s : State) (r : Nat) : HeadMoves s r (s.entryRead r) :=
  (rd_wr_same _ _ _ _ (by decide)).trans (Nat.mod_mod _ _)

theorem entryRead_frame (s : State) (r : Nat) : s.Frame (s.entryRead r) [(R.SRV_RING_STAT.SQ_HEAD, r)] [] :=
  Frame.wr (Frame.refl s _ _) List.mem_cons_self

theorem rd_entryRead (s : State) (r : Nat) (g : Fld) (i : Nat) (hg : g.reg ≠ .SRV_RING_STAT := by decide) : (s.entryRead r).rd g i = s.rd g i :=
  rd_wr_reg _ _ _ _ _ _ hg

/-! ### Antes (R366, R367, R378) -/

theorem hold_joins {a : Ante} (h : s.antes.length < 16384) : s.hold_ a = { s with antes := s.antes ++ [a] } :=
  if_neg fun k => Nat.not_le.mpr h k.1

theorem execAnte_held {a : Ante} (h : Submitted s r)
    (ha : a = heldAnte e copy r s.devAddr (s.rd R.SRV_STOCK_CFG.TTL_DEFAULT 0) (s.rd R.SRV_VOCAB.VOCAB 0)) (hm : s.isManager = true)
    (hroom : s.antes.length < 16384) : ∃ t, execAnte r e copy s = .next t ∧ HeadMoves s r t ∧
      t.antes = s.antes ++ [a] ∧ s.Frame { t with antes := s.antes } [(R.SRV_RING_STAT.SQ_HEAD, r)] [] := by
  refine ⟨{ s.entryRead r with antes := s.antes ++ [a] }, congrArg Host.Outcome.next ?_, entryRead_moves s r, rfl, entryRead_frame s r⟩
  rw [sqNext_submitted h]
  refine (if_pos hm).trans ?_
  rw [ha]
  exact hold_joins hroom

theorem execAnte_forwarded {a : Ante} (h : Submitted s r)
    (ha : a = heldAnte e copy r s.devAddr (s.rd R.SRV_STOCK_CFG.TTL_DEFAULT 0) (s.rd R.SRV_VOCAB.VOCAB 0)) (hm : s.isManager = false) :
    ∃ t, execAnte r e copy s = .next t ∧ HeadMoves s r t ∧
      t.out = s.out ++ [.serve s.manager (2 :: r :: entFld e 0 32 32 :: a.bad :: entFld e 1 0 32 :: e.prompt.take (entFld e 1 32 32))] ∧
      s.Frame { t with out := s.out } [(R.SRV_RING_STAT.SQ_HEAD, r)] [] := by
  refine ⟨(s.entryRead r).emit (.serve s.manager (2 :: r :: entFld e 0 32 32 :: a.bad :: entFld e 1 0 32 :: e.prompt.take (entFld e 1 32 32))),
    congrArg Host.Outcome.next ?_, entryRead_moves s r, rfl, entryRead_frame s r⟩
  rw [sqNext_submitted h, ha]
  exact if_neg (ne_true_of_eq_false hm)

/-! ### Folds (R366, R393) -/

theorem execFold_held (h : Submitted s r) (hok : entFoldOk e = true) (hm : s.isManager = true) :
    ∃ t, execFold r e s = .next t ∧ HeadMoves s r t ∧
      t.folds = s.folds ++ [(entFld e 1 0 32, s.devAddr * 16384 + r, entFld e 0 32 32)] ∧
      s.Frame { t with folds := s.folds } [(R.SRV_RING_STAT.SQ_HEAD, r)] [] := by
  refine ⟨(s.entryRead r).foldReq (entFld e 1 0 32) (ringKey s.devAddr r) (entFld e 0 32 32), congrArg Host.Outcome.next ?_,
    entryRead_moves s r, rfl, entryRead_frame s r⟩
  rw [sqNext_submitted h]
  exact (if_neg (by rw [hok]; decide)).trans (if_pos hm)

theorem execFold_forwarded (h : Submitted s r) (hok : entFoldOk e = true) (hm : s.isManager = false) :
    ∃ t, execFold r e s = .next t ∧ HeadMoves s r t ∧
      t.out = s.out ++ [.serve s.manager [3, r, entFld e 0 32 32, entFld e 1 0 32]] ∧ t.folds = s.folds := by
  refine ⟨(s.entryRead r).emit (.serve s.manager [3, r, entFld e 0 32 32, entFld e 1 0 32]), congrArg Host.Outcome.next ?_,
    entryRead_moves s r, rfl, rfl⟩
  rw [sqNext_submitted h]
  exact (if_neg (by rw [hok]; decide)).trans (if_neg (ne_true_of_eq_false hm))

/-- The place within its ring of a record for the handle that it names (R370). -/
def State.recKey (s : State) (ws : List Word) : Nat :=
  if fget (ws.headD 0#64) 32 32 = 0xFFFFFFFF then 0 else (mget {} s.seats (handleIx (fget (ws.headD 0#64) 32 32))).order + 1

/-- A record of this device's own ring (R368, R594). -/
theorem record_own {f : Nat} (ws : List Word) (hf : f = s.devAddr) (hflr : s.hif.flrFold = false) :
    s.record f r ws = { s with recs := s.recs ++ [{ ring := r, key := s.recKey ws, hand := (ws.getD 2 0#64).toNat, ws := ws }] } :=
  (if_neg fun k => Bool.false_ne_true (hflr.symm.trans k.2)).trans (if_pos hf)

theorem execFold_refused (h : Submitted s r) (hok : entFoldOk e = false) (hflr : s.hif.flrFold = false) :
    ∃ t q, execFold r e s = .next t ∧ HeadMoves s r t ∧ t.recs = s.recs ++ [q] ∧ t.folds = s.folds ∧ q.ring = r ∧
      q.ws = mkRecord (entFld e 0 32 32) (entFld e 1 0 32) 6 3 0 0 s.handNum 0 [] := by
  have hanswer := record_own (s := s.entryRead r) (r := r) (mkRecord (entFld e 0 32 32) (entFld e 1 0 32) 6 3 0 0 s.handNum 0 [])
    (rd_entryRead s r R.LNK_DEV_ADDR.ADDR 0).symm hflr
  refine ⟨_, _, congrArg Host.Outcome.next (Eq.trans ?_ hanswer), entryRead_moves s r, rfl, rfl, rfl, rfl⟩
  rw [sqNext_submitted h]
  exact if_pos hok

/-! ### What another front forwards (R367, R393) -/

theorem execForwardedAnte_fold (src r : Nat) (e copy : Entry) (vocab ttl : Nat) (hm : s.isManager = true) :
    ∃ t, execForwardedAnte src r true e copy vocab ttl s = .next t ∧
      t.folds = s.folds ++ [(entFld e 1 0 32, src * 16384 + r, entFld e 0 32 32)] ∧ { t with folds := s.folds } = s :=
  ⟨s.foldReq (entFld e 1 0 32) (ringKey src r) (entFld e 0 32 32),
    congrArg Host.Outcome.next (if_neg (by rw [hm]; decide)), rfl, rfl⟩

theorem execForwardedAnte_ante (src r : Nat) (e copy : Entry) (vocab ttl : Nat) (hm : s.isManager = true) (hroom : s.antes.length < 16384) :
    ∃ t, execForwardedAnte src r false e copy vocab ttl s = .next t ∧
      t.antes = s.antes ++ [heldAnte e copy r src ttl vocab] ∧ { t with antes := s.antes } = s :=
  ⟨{ s with antes := s.antes ++ [heldAnte e copy r src ttl vocab] },
    congrArg Host.Outcome.next ((if_neg (by rw [hm]; decide)).trans (hold_joins hroom)), rfl, rfl⟩

theorem execForwardedAnte_elsewhere (src r : Nat) (e copy : Entry) (vocab ttl : Nat) (hm : s.isManager = false) (fold : Bool) :
    execForwardedAnte src r fold e copy vocab ttl s = .next s := congrArg Host.Outcome.next (if_pos hm)

end Sys2Proof.Machine
end
section
/-! Serving modes, and the sets of SRV_PFX_STATE (13_requests_and_pages.md R379, R387, R388): what the reading of a set's shares into HBM leaves alone. -/
namespace Sys2Proof.Machine
open Sys2Proof.Claims

variable {a s t : State} {m p g n : Nat}

/-! ### Serving modes (R379) -/

/-- A seat of a ring of this device is not FREE, or an ante of one is held. -/
def State.ownWork (s : State) : Bool :=
  s.seats.any (fun e => decide (e.2.st ≠ .free ∧ e.2.front = s.devAddr)) || s.antes.any (fun a => decide (a.front = s.devAddr))

theorem ownWork_none (hseats : ∀ x ∈ s.seats, x.2.st ≠ .free → x.2.front ≠ s.devAddr) (hantes : ∀ a ∈ s.antes, a.front ≠ s.devAddr) :
    s.ownWork = false := by
  rw [State.ownWork, Bool.or_eq_false_iff, List.any_eq_false, List.any_eq_false]
  exact ⟨fun e he => by simpa using hseats e he, fun a ha => by simpa using hantes a ha⟩

theorem ownWork_ante (h : ∃ a ∈ s.antes, a.front = s.devAddr) : s.ownWork = true := by
  obtain ⟨a, ha, hfront⟩ := h
  exact Bool.or_eq_true_iff.mpr (.inr (List.any_eq_true.mpr ⟨a, ha, decide_eq_true hfront⟩))

theorem execSrvMode_waits (hm : m ≤ 4)
    (h : 2 ≤ m ∨ ((∀ x ∈ s.seats, x.2.st ≠ .free → x.2.front ≠ s.devAddr) ∧ ∀ a ∈ s.antes, a.front ≠ s.devAddr)) (ht : s.ticking = true) :
    ∃ t, execSrvMode m s = .next t ∧ t.modeReq = some m ∧ { t with modeReq := s.modeReq } = s := by
  have hpass : ¬ (m > 4 ∨ (m ≤ 1 ∧ s.ownWork = true)) := by
    rintro (hbig | ⟨hlow, hwork⟩)
    · omega
    · rcases h with hhigh | ⟨hseats, hantes⟩
      · omega
      · exact Bool.false_ne_true ((ownWork_none hseats hantes).symm.trans hwork)
  have hwaits := orNow_ticking (s := { s with modeReq := some m }) ht State.bdyMode
  exact ⟨{ s with modeReq := some m }, congrArg Host.Outcome.next ((if_neg hpass).trans hwaits), rfl, rfl⟩

theorem execSrvMode_refused (h : 4 < m ∨ (m ≤ 1 ∧ ∃ a ∈ s.antes, a.front = s.devAddr)) : execSrvMode m s = .next s :=
  congrArg Host.Outcome.next (if_pos (h.imp id (And.imp_right ownWork_ante)))

/-! ### What the writing of shares leaves (R482, R483) -/

/-- Of all that `s` holds, `t` has changed at most HBM, the counts of its errors, and what the path of fault records keeps. -/
structure StoreOnly (s t : State) : Prop where
  regs : RegsBeside [.MEM_ERR, .FLT_INJ_CTL, .FLT_STATUS] s t
  rest : { t with regs := s.regs, hbm := s.hbm, hbmMeta := s.hbmMeta, faultq := s.faultq, nvLog := s.nvLog, injs := s.injs
                  injLive := s.injLive } = s

theorem StoreOnly.refl (s : State) : StoreOnly s s := ⟨RegsBeside.refl _ s, rfl⟩

theorem StoreOnly.trans (h : StoreOnly a s) (k : StoreOnly s t) : StoreOnly a t :=
  ⟨h.regs.trans k.regs, by
    have e := h.rest
    rw [← k.rest] at e
    exact e⟩

theorem StoreOnly.setGran {x : Gran} (h : StoreOnly a s) : StoreOnly a (s.setGran g x) := ⟨h.regs, h.rest⟩
theorem StoreOnly.metas {q : SMap Nat} (h : StoreOnly a s) : StoreOnly a { s with hbmMeta := q } := ⟨h.regs, h.rest⟩
theorem StoreOnly.bumpBy {f : Fld} {i : Nat} (h : StoreOnly a s) (hf : f.reg = .MEM_ERR := by rfl) : StoreOnly a (s.bumpBy f i n) :=
  ⟨h.regs.wr (by simp [hf]), h.rest⟩
theorem StoreOnly.bump {f : Fld} {i : Nat} (h : StoreOnly a s) (hf : f.reg = .MEM_ERR := by rfl) : StoreOnly a (s.bump f i) := h.bumpBy hf

theorem StoreOnly.ite {c : Prop} [Decidable c] (h : StoreOnly a s) (k : StoreOnly a t) : StoreOnly a (if c then s else t) := by
  split <;> assumption

theorem StoreOnly.ite_fst {β : Type} {x y : State × β} {c : Prop} [Decidable c] (h : StoreOnly a x.1) (k : StoreOnly a y.1) :
    StoreOnly a (if c then x else y).1 := by split <;> assumption

theorem StoreOnly.foldl {α : Type} {l : List α} {f : State → α → State} (h : StoreOnly a s) (hf : ∀ u e, StoreOnly a u → StoreOnly a (f u e)) :
    StoreOnly a (l.foldl f s) := List.foldlRecOn (motive := StoreOnly a) l f h fun u k e _ => hf u e k

theorem StoreOnly.loop {f : State → Nat → State} (h : StoreOnly a s) (hf : ∀ u i, StoreOnly a u → StoreOnly a (f u i)) :
    StoreOnly a (Machine.loop n s f) := h.foldl hf

theorem LogOnly.storeOnly (h : LogOnly s t) (hr : RegsBeside [.MEM_ERR, .FLT_INJ_CTL, .FLT_STATUS] s t) : StoreOnly s t :=
  ⟨hr, congrArg (fun u : State => { u with hbm := s.hbm, hbmMeta := s.hbmMeta }) h⟩

theorem StoreOnly.raise {e : Event} (h : StoreOnly a s) : StoreOnly a (s.raise e) :=
  h.trans ((raise_logOnly s e).storeOnly fun r hr i => raise_reg s e r i (fun k => hr (by simp [k])) (fun k => hr (by simp [k])))

theorem StoreOnly.inject {d : Det} {u : Nat} {q : Nat → Bool} {r : Nat × State} (h : StoreOnly a s) (hr : s.inject d u q = some r) :
    StoreOnly a r.2 := h.trans ((inject_logOnly hr).storeOnly ((inject_beside hr).mono (by decide)))

theorem StoreOnly.forced {d : Det} {u : Nat} (h : StoreOnly a s) : StoreOnly a (s.forced d u).2 := by
  unfold State.forced
  split
  · next hr => exact h.inject hr
  · exact h

theorem StoreOnly.metaPoison (h : StoreOnly a s) : StoreOnly a (s.metaPoison g) := StoreOnly.loop h.metas fun _ _ k => k.setGran

theorem StoreOnly.hbmRead (h : StoreOnly a s) : StoreOnly a (s.hbmRead g).1 := by
  unfold State.hbmRead
  extract_lets c mf mfix n src s1 x s2 fk s3 ft
  have hcorrected : StoreOnly a s1 := StoreOnly.bumpBy (h.setGran.metas)
  have hpoisoned : StoreOnly a s2 := hcorrected.metaPoison.ite hcorrected
  have hforced : StoreOnly a fk.2 := by
    simp only [fk]
    split
    exacts [hcorrected.forced, hcorrected]
  refine StoreOnly.ite_fst (hpoisoned.setGran.bump.raise) (StoreOnly.ite_fst hcorrected (StoreOnly.ite_fst hcorrected.bump ?_))
  split
  · exact StoreOnly.ite hforced.bump.raise hforced.bump
  · exact StoreOnly.ite_fst (hcorrected.forced.setGran.bump.raise) hcorrected

theorem StoreOnly.hbmPut {ws : List (Word × Bool)} (h : StoreOnly a s) : StoreOnly a (s.hbmPut g ws) := by
  unfold State.hbmPut
  extract_lets pl s0
  have hmeta : StoreOnly a s0 := StoreOnly.ite h.metaPoison h.metas
  split
  · exact hmeta.setGran
  · next hr => exact (hmeta.inject hr).setGran

theorem StoreOnly.hbmWrite {ws : List (Word × Bool)} (h : StoreOnly a s) : StoreOnly a (s.hbmWrite g ws) := StoreOnly.ite h.hbmPut h.bump

theorem StoreOnly.hbmPatch {i : Nat} {v : Word} (h : StoreOnly a s) : StoreOnly a (s.hbmPatch i v) := h.hbmRead.hbmWrite

theorem StoreOnly.putShare {f x : Nat} {body seals : List Word} {bad : Nat → Bool} (h : StoreOnly a s) :
    StoreOnly a (s.putShare f x body seals bad) :=
  StoreOnly.loop (StoreOnly.loop h fun _ _ k => k.hbmWrite) fun _ _ k => k.hbmPatch.hbmPatch

theorem StoreOnly.ticking (h : StoreOnly s t) : t.ticking = s.ticking :=
  ticking_congr (h.regs.rd R.SYN_TICK_PERIOD.PERIOD 0) (congrArg State.hand h.rest :)

/-! ### PREFIX_INSTALLED (R387) -/

/-- The shares of a set have been written into its frames, by page, then face. -/
def State.sharesPut (s : State) (frames : List Nat) (shares : List (List Word × List Word)) : State :=
  (frames.zip (List.range frames.length)).foldl (fun t e => loop s.nFaces t (fun u f =>
    u.putShare f e.1 (shares.getD (e.2 * s.nFaces + f) ([], [])).1 (shares.getD (e.2 * s.nFaces + f) ([], [])).2 (fun _ => false))) s

theorem sharesPut_stores (s : State) (frames : List Nat) (shares : List (List Word × List Word)) : StoreOnly s (s.sharesPut frames shares) :=
  (StoreOnly.refl s).foldl fun _ _ h => h.loop fun _ _ k => k.putShare

/-- Set p has been read, and waits for the boundary. -/
def State.prefixRead (s : State) (p : Nat) (u : State) : State :=
  { u with prefixes := mset {} u.prefixes p { mget {} s.prefixes p with ready := true } }

theorem prefixRead_ticking (s u : State) (p : Nat) : (s.prefixRead p u).ticking = u.ticking := rfl
theorem rd_prefixRead (s u : State) (p : Nat) (f : Fld) (i : Nat) : (s.prefixRead p u).rd f i = u.rd f i := rfl
theorem prefixRead_same (s u : State) (p : Nat) : mget {} (s.prefixRead p u).prefixes p = { mget {} s.prefixes p with ready := true } :=
  mget_mset_same _ _ _ _
theorem prefixRead_other (s u : State) {p q : Nat} (h : q ≠ p) : mget {} (s.prefixRead p u).prefixes q = mget {} u.prefixes q :=
  mget_mset_other _ _ _ _ _ _ h

theorem execPrefixInstalled_installing (shares : List (List Word × List Word)) (h : s.rd R.SRV_PFX_STATE.STATE p = 1) :
    execPrefixInstalled p shares s =
      .next ((s.prefixRead p (s.sharesPut (mget {} s.prefixes p).frames shares)).orNow State.bdyPrefix) := by
  unfold execPrefixInstalled
  dsimp only
  rw [if_neg (not_not_intro h)]
  rfl

theorem execPrefixInstalled_reads (shares : List (List Word × List Word)) (ht : s.ticking = true) (hst : s.rd R.SRV_PFX_STATE.STATE p = 1) :
    ∃ t, execPrefixInstalled p shares s = .next t ∧ mget {} t.prefixes p = { mget {} s.prefixes p with ready := true } ∧
      (∀ q, q ≠ p → mget {} t.prefixes q = mget {} s.prefixes q) ∧ t.rd R.SRV_PFX_STATE.STATE p = 1 := by
  have hput := sharesPut_stores s (mget {} s.prefixes p).frames shares
  have hprefixes := congrArg State.prefixes hput.rest
  refine ⟨_, ?_, prefixRead_same _ _ _, fun q hq => (prefixRead_other _ _ hq).trans (congrArg (mget {} · q) hprefixes),
    (rd_prefixRead _ _ _ _ _).trans ((hput.regs.rd R.SRV_PFX_STATE.STATE p).trans hst)⟩
  rw [execPrefixInstalled_installing shares hst, orNow_ticking ((prefixRead_ticking _ _ _).trans (hput.ticking.trans ht))]

theorem execPrefixInstalled_idle (shares : List (List Word × List Word)) (h : s.rd R.SRV_PFX_STATE.STATE p ≠ 1) :
    execPrefixInstalled p shares s = .next s := congrArg Host.Outcome.next (if_pos h)

/-! ### PFX_INSTALL and PFX_REMOVE (R387, R388) -/

/-- The free frame that a draw names. -/
def State.frameDrawn (s : State) : Nat :=
  kthFree (s.usedFrames.map Prod.fst) (s.draw.1 % (s.rd R.SRV_PAGE_CFG.FRAMES 0 - (s.usedFrames.map Prod.fst).length))

/-- Taking n frames gives n, and counts draws and marks frames alone. -/
theorem takeFrames_takes (s : State) (n : Nat) : (s.takeFrames n).2.length = n ∧
    { (s.takeFrames n).1 with freeCount := s.freeCount, usedFrames := s.usedFrames } = s := by
  induction n generalizing s with
  | zero => exact ⟨rfl, rfl⟩
  | succ n ih =>
    unfold State.takeFrames
    dsimp only
    obtain ⟨hlen, hrest⟩ := ih { s.draw.2 with usedFrames := mset false s.draw.2.usedFrames s.frameDrawn true }
    exact ⟨congrArg (· + 1) hlen, congrArg (fun u : State => { u with freeCount := s.freeCount, usedFrames := s.usedFrames }) hrest⟩

/-- Set p is INSTALLING with n pages. -/
def State.pfxTaken (s : State) (p n : Nat) : State :=
  (({ (s.takeFrames n).1 with prefixes := mset {} (s.takeFrames n).1.prefixes p { frames := (s.takeFrames n).2, ready := false } } : State).wr
    R.SRV_PFX_STATE.STATE p 1).wr R.SRV_PFX_STATE.PAGES p n

theorem execPfxInstall_installs (h : MayInstall s p n) : ∃ t, execPfxInstall s = .next t ∧ t.rd R.SRV_PFX_STATE.STATE p = 1 ∧
    t.rd R.SRV_PFX_STATE.PAGES p = n ∧ (mget {} t.prefixes p).frames.length = n ∧ (mget {} t.prefixes p).ready = false ∧
    ∀ q, q ≠ p → mget {} t.prefixes q = mget {} s.prefixes q := by
  obtain ⟨rfl, ⟨rfl, hpos, hmax⟩, habsent, hfree, hroom⟩ := h
  obtain ⟨hlen, hrest⟩ := takeFrames_takes s (s.rd R.SRV_PFX_CTL.PAGES 0)
  have hprefixes : (s.takeFrames (s.rd R.SRV_PFX_CTL.PAGES 0)).1.prefixes = s.prefixes := (congrArg State.prefixes hrest :)
  have hset : mget {} (s.pfxTaken (s.rd R.SRV_PFX_CTL.SET 0) (s.rd R.SRV_PFX_CTL.PAGES 0)).prefixes (s.rd R.SRV_PFX_CTL.SET 0) =
    { frames := (s.takeFrames (s.rd R.SRV_PFX_CTL.PAGES 0)).2, ready := false } := mget_mset_same _ _ _ _
  refine ⟨s.pfxTaken (s.rd R.SRV_PFX_CTL.SET 0) (s.rd R.SRV_PFX_CTL.PAGES 0), congrArg Host.Outcome.next (if_neg ?_), ?_, ?_, ?_, ?_,
    fun q hq => (mget_mset_other _ _ _ _ _ _ hq).trans (by rw [hprefixes])⟩
  · omega
  · exact (rd_wr_apart _ _ _ _ _ _ (by decide)).trans (rd_wr_same _ _ _ _ (by decide))
  · exact (rd_wr_same _ _ _ _ (by decide)).trans (Nat.mod_eq_of_lt (Nat.lt_of_le_of_lt hmax (by decide)))
  · rw [hset, hlen]
  · rw [hset]

theorem execPfxInstall_refused (h : s.rd R.SRV_PFX_CTL.PAGES 0 = 0 ∨ 64 < s.rd R.SRV_PFX_CTL.PAGES 0) : ∃ t, execPfxInstall s = .next t ∧
    t.rd R.SRV_PFX_STATE.FAILED (s.rd R.SRV_PFX_CTL.SET 0) = 1 ∧ s.Frame t [(R.SRV_PFX_STATE.FAILED, s.rd R.SRV_PFX_CTL.SET 0)] [] :=
  ⟨s.wr R.SRV_PFX_STATE.FAILED (s.rd R.SRV_PFX_CTL.SET 0) 1, congrArg Host.Outcome.next (if_pos (by omega)), rd_wr_same _ _ _ _ (by decide),
    Frame.wr (Frame.refl s _ _) List.mem_cons_self⟩

theorem execPfxRemove_removes (hp : p = s.rd R.SRV_PFX_CTL.SET 0) (ht : s.ticking = true) (hst : s.rd R.SRV_PFX_STATE.STATE p = 2) :
    ∃ t, execPfxRemove s = .next t ∧ t.rd R.SRV_PFX_STATE.STATE p = 3 ∧ s.Frame t [(R.SRV_PFX_STATE.STATE, p)] [] := by
  subst hp
  have hticking : (s.wr R.SRV_PFX_STATE.STATE (s.rd R.SRV_PFX_CTL.SET 0) 3).ticking = true :=
    (ticking_congr (rd_wr_apart _ _ _ _ _ _ (by decide)) rfl).trans ht
  exact ⟨_, congrArg Host.Outcome.next ((if_neg (not_not_intro hst)).trans (if_pos hticking)), rd_wr_same _ _ _ _ (by decide),
    Frame.wr (Frame.refl s _ _) List.mem_cons_self⟩

theorem execPfxRemove_idle (hp : p = s.rd R.SRV_PFX_CTL.SET 0) (h : s.rd R.SRV_PFX_STATE.STATE p ≠ 2) : execPfxRemove s = .next s := by
  subst hp
  exact congrArg Host.Outcome.next (if_pos h)

end Sys2Proof.Machine
end
section
/-! Times to live, deadlines and grammars (13_requests_and_pages.md R391, R395, 14_the_dealer.md R410). -/
namespace Sys2Proof.Machine
open Sys2Proof.Claims

variable {s : State} {i g : Nat}

/-! ### Seats (R391, R395) -/

/-- A seat replaced, and nothing else. -/
theorem setSeat_only (s : State) (i : Nat) (x : Seat) :
    (s.setSeat i x).seat i = x ∧ (∀ j, j ≠ i → (s.setSeat i x).seat j = s.seat j) ∧ { s.setSeat i x with seats := s.seats } = s :=
  ⟨seat_setSeat_same s i x, fun j hj => seat_setSeat_other s i j x hj, rfl⟩

theorem execTtlExpiry_expires (hst : (s.seat i).st = .stocking ∨ (s.seat i).st = .stocked) (hfree : (s.seat i).freeing = false)
    (hexp : (s.seat i).expires ≤ s.now) : ∃ t, execTtlExpiry i s = .next t ∧ t.seat i = { s.seat i with endCode := 255, freeing := true } ∧
      (∀ j, j ≠ i → t.seat j = s.seat j) ∧ { t with seats := s.seats } = s :=
  ⟨s.setSeat i { s.seat i with endCode := 255, freeing := true }, congrArg Host.Outcome.next (if_pos ⟨hst, hfree, hexp⟩), setSeat_only s i _⟩

/-- The deadline of seat i has passed, and it is not yet being freed. -/
structure SeatLate (s : State) (i : Nat) : Prop where
  due : (s.seat i).deadline ≠ 0 ∧ (s.seat i).deadline < s.now
  live : (s.seat i).freeing = false

/-- The deadline of a seat in RECALL or DECODE frees it at the next commit; one in PREFILL is cancelled. -/
theorem SeatLate.exec (h : SeatLate s i) (hst : (s.seat i).st = .recall ∨ (s.seat i).st = .decode ∨ (s.seat i).st = .prefill) :
    execDeadline false i s = .next (if (s.seat i).st = .prefill then s.cancelSeat i 8
      else s.modSeat i (fun y => { y with endCode := 8, freeing := true })) := by
  obtain ⟨⟨hset, hpast⟩, hlive⟩ := h
  have hdue : ¬ ((s.seat i).deadline = 0 ∨ s.now ≤ (s.seat i).deadline ∨ (s.seat i).freeing = true) := by
    rintro (h | h | h)
    · exact hset h
    · omega
    · exact Bool.false_ne_true (hlive.symm.trans h)
  refine congrArg Host.Outcome.next ((if_neg (by decide)).trans ((if_neg hdue).trans ?_))
  rcases hst with hst | hst | hst <;> simp only [hst, reduceCtorEq, if_true, if_false]

theorem execDeadline_frees (h : SeatLate s i) (hst : (s.seat i).st = .recall ∨ (s.seat i).st = .decode) :
    ∃ t, execDeadline false i s = .next t ∧ t.seat i = { s.seat i with endCode := 8, freeing := true } ∧
      (∀ j, j ≠ i → t.seat j = s.seat j) ∧ { t with seats := s.seats } = s := by
  have hstate : (s.seat i).st ≠ .prefill := by rcases hst with hst | hst <;> (rw [hst]; decide)
  exact ⟨_, (h.exec (hst.imp id .inl)).trans (congrArg Host.Outcome.next (if_neg hstate)), setSeat_only s i _⟩

/-- A seat in PREFILL or DECODE that is cancelled drains in SERVE; in another mode it is freed at the next commit, and its places in slots
already formed become VOID (R394). -/
theorem cancelSeat_running (code : Nat) (hst : (s.seat i).st = .decode ∨ (s.seat i).st = .prefill) : s.cancelSeat i code =
    if s.mode = 2 then s.modSeat i (fun y => { y with st := .drain, endCode := code })
    else (s.modSeat i (fun y => { y with endCode := code, freeing := true })).voidSeat i := by
  unfold State.cancelSeat
  rcases hst with hst | hst <;> simp only [hst]

theorem execDeadline_drains (h : SeatLate s i) (hst : (s.seat i).st = .prefill) (hmode : s.mode = 2) :
    ∃ t, execDeadline false i s = .next t ∧ t.seat i = { s.seat i with st := .drain, endCode := 8 } ∧
      (∀ j, j ≠ i → t.seat j = s.seat j) ∧ { t with seats := s.seats } = s :=
  ⟨_, (h.exec (.inr (.inr hst))).trans (congrArg Host.Outcome.next ((if_pos hst).trans ((cancelSeat_running 8 (.inr hst)).trans (if_pos hmode)))),
    setSeat_only s i _⟩

/-! ### Held antes (R378, R395) -/

theorem freeCarried_rest (s : State) (a : Ante) : { s.freeCarried a with seats := s.seats } = s := by
  unfold State.freeCarried
  split <;> rfl

theorem record_rest (s : State) (f r : Nat) (ws : List Word) : { s.record f r ws with recs := s.recs, out := s.out } = s := by
  unfold State.record
  dsimp only
  split
  · rfl
  · split <;> rfl

/-- A refusal takes the ante from the queue, and is counted. -/
theorem refuse_drops {a : Ante} (h : s.antes[i]? = some a) (code hand : Nat) : (s.refuse i code hand).antes = s.antes.eraseIdx i ∧
    (s.refuse i code hand).rd R.SRV_STAT.REFUSED 0 = min (s.rd R.SRV_STAT.REFUSED 0 + 1) (2 ^ R.SRV_STAT.REFUSED.wd - 1) := by
  have hfreed := freeCarried_rest (s.dropAnte i) a
  have hantes : ((s.dropAnte i).freeCarried a).antes = s.antes.eraseIdx i := (congrArg State.antes hfreed :)
  have hcount : ((s.dropAnte i).freeCarried a).rd R.SRV_STAT.REFUSED 0 = s.rd R.SRV_STAT.REFUSED 0 :=
    (congrArg (fun u : State => u.rd R.SRV_STAT.REFUSED 0) hfreed :)
  have hrec := record_rest (((s.dropAnte i).freeCarried a).bump R.SRV_STAT.REFUSED 0) a.front a.ring
    (mkRecord a.tag 0xFFFFFFFF 6 code 0 0 hand 0 [])
  unfold State.refuse
  rw [h]
  refine ⟨(congrArg State.antes hrec :).trans hantes, (congrArg (fun u : State => u.rd R.SRV_STAT.REFUSED 0) hrec :).trans ?_⟩
  rw [rd_bump_same _ _ _ (by decide), hcount]

theorem execDeadline_refuses {a : Ante} (h : s.antes[i]? = some a) (hset : a.deadline ≠ 0) (hpast : a.deadline < s.now) :
    ∃ t, execDeadline true i s = .next t ∧ t.antes = s.antes.eraseIdx i ∧
      t.rd R.SRV_STAT.REFUSED 0 = min (s.rd R.SRV_STAT.REFUSED 0 + 1) (2 ^ R.SRV_STAT.REFUSED.wd - 1) := by
  refine ⟨s.refuse i 13 s.handNum, congrArg Host.Outcome.next ((if_pos rfl).trans ?_), refuse_drops h 13 s.handNum⟩
  rw [h]
  exact if_pos ⟨hset, hpast⟩

/-! ### Grammars (R410) -/

theorem execGrammarLoad_begins (hg : g = s.rd R.DLR_GRAM_CTL.SLOT 0) (hst : s.rd R.DLR_GRAM_STATE.STATE g = 0)
    (hpos : 0 < s.rd R.DLR_GRAM_CTL.STATES 0) (hmax : s.rd R.DLR_GRAM_CTL.STATES 0 ≤ 16384) (htrans : s.rd R.DLR_GRAM_CTL.TRANS 0 ≤ 2 ^ 20) :
    ∃ t, execGrammarLoad s = .next t ∧ t.rd R.DLR_GRAM_STATE.STATE g = 1 ∧ s.Frame t [(R.DLR_GRAM_STATE.STATE, g)] [] := by
  subst hg
  exact ⟨_, congrArg Host.Outcome.next ((if_neg (not_not_intro hst)).trans (if_neg (by omega))), rd_wr_same _ _ _ _ (by decide),
    Frame.wr (Frame.refl s _ _) List.mem_cons_self⟩

theorem gramRefuse_failed (s : State) (g reason : Nat) : (s.gramRefuse g reason).rd R.DLR_GRAM_STATE.FAILED g = 1 :=
  (rd_wr_apart _ _ _ _ _ _ (by decide)).trans (rd_wr_same _ _ _ _ (by decide))

theorem gramRefuse_reason (s : State) (g : Nat) {reason : Nat} (h : reason < 16) :
    (s.gramRefuse g reason).rd R.DLR_GRAM_STATE.REASON g = reason := (rd_wr_same _ _ _ _ (by decide)).trans (Nat.mod_eq_of_lt h)

theorem execGrammarLoad_refused (hg : g = s.rd R.DLR_GRAM_CTL.SLOT 0) (hst : s.rd R.DLR_GRAM_STATE.STATE g ≠ 0) :
    ∃ t, execGrammarLoad s = .next t ∧ t.rd R.DLR_GRAM_STATE.FAILED g = 1 ∧ t.rd R.DLR_GRAM_STATE.REASON g = 1 ∧
      s.Frame t [(R.DLR_GRAM_STATE.FAILED, g), (R.DLR_GRAM_STATE.REASON, g)] [] := by
  subst hg
  exact ⟨_, congrArg Host.Outcome.next (if_pos hst), gramRefuse_failed s _ 1, gramRefuse_reason s _ (by decide),
    Frame.wr (Frame.wr (Frame.refl s _ _) List.mem_cons_self) (List.mem_cons_of_mem _ List.mem_cons_self)⟩

theorem execGrammarUnload_unloads (hg : g = s.rd R.DLR_GRAM_CTL.SLOT 0) (hst : s.rd R.DLR_GRAM_STATE.STATE g = 2) (ht : s.ticking = true) :
    ∃ t, execGrammarUnload s = .next t ∧ t.rd R.DLR_GRAM_STATE.STATE g = 3 ∧ s.Frame t [(R.DLR_GRAM_STATE.STATE, g)] [] := by
  subst hg
  have hticking : (s.wr R.DLR_GRAM_STATE.STATE (s.rd R.DLR_GRAM_CTL.SLOT 0) 3).ticking = true :=
    (ticking_congr (rd_wr_apart _ _ _ _ _ _ (by decide)) rfl).trans ht
  exact ⟨_, congrArg Host.Outcome.next ((if_neg (not_not_intro hst)).trans (if_pos hticking)), rd_wr_same _ _ _ _ (by decide),
    Frame.wr (Frame.refl s _ _) List.mem_cons_self⟩

theorem execGrammarUnload_idle (hg : g = s.rd R.DLR_GRAM_CTL.SLOT 0) (h : s.rd R.DLR_GRAM_STATE.STATE g ≠ 2) : execGrammarUnload s = .next s := by
  subst hg
  exact congrArg Host.Outcome.next (if_pos h)

/-- The failures of an automaton are numbered 3 to 7. -/
theorem gramBad_le (states trans : List Word) : gramBad states trans ≤ 7 := by
  unfold gramBad
  dsimp only
  repeat' split
  all_goals decide

/-- The automaton of slot g has been read, and waits for the boundary. -/
def State.gramRead (s : State) (g : Nat) (states trans : List Word) : State :=
  { s with grams := mset {} s.grams g (automaton states trans true) }

theorem execGrammarLoadDone_read {states trans : List Word} (hst : s.rd R.DLR_GRAM_STATE.STATE g = 1) (hgood : gramBad states trans = 0)
    (ht : s.ticking = true) : ∃ t, execGrammarLoadDone g states trans s = .next t ∧ mget {} t.grams g = automaton states trans true ∧
      { t with grams := s.grams } = s := by
  refine ⟨s.gramRead g states trans, congrArg Host.Outcome.next ?_, mget_mset_same _ _ _ _, rfl⟩
  have hwaits := orNow_ticking (s := s.gramRead g states trans) ht State.bdyGrams
  exact (if_neg (not_not_intro hst)).trans ((if_neg (not_not_intro hgood)).trans hwaits)

theorem execGrammarLoadDone_refused {states trans : List Word} (hst : s.rd R.DLR_GRAM_STATE.STATE g = 1) (hbad : gramBad states trans ≠ 0) :
    ∃ t, execGrammarLoadDone g states trans s = .next t ∧ t.rd R.DLR_GRAM_STATE.STATE g = 0 ∧ t.rd R.DLR_GRAM_STATE.FAILED g = 1 ∧
      t.rd R.DLR_GRAM_STATE.REASON g = gramBad states trans ∧ t.grams = s.grams := by
  refine ⟨(s.wr R.DLR_GRAM_STATE.STATE g 0).gramRefuse g (gramBad states trans), congrArg Host.Outcome.next
    ((if_neg (not_not_intro hst)).trans (if_pos hbad)), ?_, gramRefuse_failed _ g _,
    gramRefuse_reason _ g (Nat.lt_of_le_of_lt (gramBad_le states trans) (by decide)), rfl⟩
  exact (rd_wr_apart _ _ _ _ _ _ (by decide)).trans ((rd_wr_apart _ _ _ _ _ _ (by decide)).trans (rd_wr_same _ _ _ _ (by decide)))

end Sys2Proof.Machine
end
section
/-! Tokens that reach their front (13_requests_and_pages.md R368, R370, R371), and seat records (14_the_dealer.md R402). -/
namespace Sys2Proof.Machine
open Sys2Proof.Claims

variable {s : State} {r : Nat}

/-! ### Records written at once (R368, R370, R371) -/

theorem cqWrite_rest (s : State) (r : Nat) (ws : List Word) :
    { s.cqWrite r ws with regs := s.regs, rings := s.rings, irqs := s.irqs, out := s.out } = s := by
  unfold State.cqWrite
  dsimp only
  split <;> rfl

theorem cqWrite_seat (s : State) (r : Nat) (ws : List Word) (i : Nat) : (s.cqWrite r ws).seat i = s.seat i :=
  (congrArg (fun u : State => u.seat i) (cqWrite_rest s r ws) :)

theorem cqWrite_hand (s : State) (r : Nat) (ws : List Word) : (s.cqWrite r ws).hand = s.hand := (congrArg State.hand (cqWrite_rest s r ws) :)

theorem cqWrite_ring (s : State) (r : Nat) (ws : List Word) :
    (s.cqWrite r ws).ring_ r = { s.ring_ r with written := (s.ring_ r).written + 1 } := by
  unfold State.cqWrite
  dsimp only
  split <;> exact ring_setRing _ _ _

theorem cqWrite_tail (s : State) (r : Nat) (ws : List Word) :
    (s.cqWrite r ws).rd R.SRV_RING_STAT.CQ_TAIL r = ((s.ring_ r).written + 1) % 65536 := by
  unfold State.cqWrite
  dsimp only
  split <;> exact (rd_wr_same _ _ _ _ (by decide)).trans (Nat.mod_mod _ _)

/-- Ring r takes a record at once: its completion queue is set up and has space, and nothing waits before it. -/
structure TakesRecord (s : State) (r : Nat) : Prop where
  size : s.rd R.SRV_RING_CQ.SIZE r ≠ 0
  space : s.cqSpace r = true
  backlog : (s.ring_ r).backlog = []

theorem TakesRecord.cqPut (h : TakesRecord s r) (ws : List Word) : s.cqPut r ws = s.cqWrite r ws :=
  (if_neg h.size).trans (if_pos (by rw [h.backlog, h.space]; rfl))

/-- The only record decided is written, where it is due. -/
theorem writeRecs_only {q : QRec} {upTo h : Nat} (hrecs : s.recs = [q]) (hdue : q.hand ≤ upTo) :
    s.writeRecs upTo h = ({ s with recs := [] } : State).cqPut q.ring (q.atCommit h) := by
  have hkeep : [q].filter (fun x => decide (x.hand ≤ upTo)) = [q] := List.filter_cons_of_pos (decide_eq_true hdue)
  have hnone : [q].filter (fun x => decide (x.hand > upTo)) = [] := List.filter_cons_of_neg (by simp only [decide_eq_true_eq]; omega)
  unfold State.writeRecs
  dsimp only
  rw [hrecs, hkeep, hnone]
  simp [List.eraseDups_cons]

/-! ### TOKENS (R35, R370) -/

/-- A seat whose tokens, the last of which does not end it, have reached its front. -/
def Seat.took (x : Seat) (toks drafts : List Nat) : Seat :=
  { x with toks := x.toks ++ toks, drafts := drafts, inFlight := [], st := .decode, endCode := 0 }

theorem tokensIn_took {handle hand pos stampHi : Nat} {toks drafts : List Nat} {x : Seat} (hx : s.seat (handleIx handle) = x)
    (hc : s.current handle = true) (hst : x.st = .decode ∨ x.st = .prefill) (hne : toks ≠ []) :
    s.tokensIn handle hand pos toks drafts 0 stampHi =
      (s.record x.front x.ring (mkRecord x.tag handle 3 0 x.recFlags stampHi hand pos toks)).setSeat (handleIx handle) (x.took toks drafts) := by
  subst hx
  have hlive : (s.seat (handleIx handle)).st ≠ .drain := by rcases hst with k | k <;> (rw [k]; decide)
  have hnext : (if (s.seat (handleIx handle)).st = .prefill then SeatSt.decode else (s.seat (handleIx handle)).st) = .decode := by
    rcases hst with k | k <;> (rw [k]; rfl)
  have hsome : toks.isEmpty = false := by simpa using hne
  unfold State.tokensIn
  dsimp only
  rw [if_neg (by rw [hc]; decide), if_neg hlive, hsome]
  simp only [Seat.took, ne_eq, not_true_eq_false, false_and, decide_false, Bool.and_false, Bool.false_and, Bool.or_false, if_false,
    Bool.false_eq_true, hnext]

theorem current_stamped (s : State) (handle lo hi : Nat) :
    (s.setSeat (handleIx handle) ((s.seat (handleIx handle)).seeStamp lo hi)).current handle = s.current handle := by
  simp only [State.current, seat_setSeat_same, Seat.seeStamp]

/-- The TOKENS record of seat x (R368, R370). -/
def State.tokensRecord (s : State) (x : Seat) (handle hand pos stampHi : Nat) (toks : List Nat) : QRec :=
  let ws := mkRecord x.tag handle 3 0 x.recFlags stampHi hand pos toks
  { ring := x.ring, key := s.recKey ws, hand := (ws.getD 2 0#64).toNat, ws := ws }

theorem tokensRecord_due (s : State) (x : Seat) (handle hand pos stampHi : Nat) (toks : List Nat) :
    (s.tokensRecord x handle hand pos stampHi toks).hand ≤ hand :=
  Nat.le_trans (Nat.le_of_eq (BitVec.toNat_ofNat hand 64)) (Nat.mod_le _ _)

/-- Seat i, which is x with the stamp seen, has taken its tokens, and no record is left to write. -/
def State.seatTook (s : State) (i : Nat) (x : Seat) (toks drafts : List Nat) : State :=
  { (s.setSeat i x).setSeat i (x.took toks drafts) with recs := [] }

theorem seatTook_seat (s : State) (i : Nat) (x : Seat) (toks drafts : List Nat) : (s.seatTook i x toks drafts).seat i = x.took toks drafts :=
  seat_setSeat_same _ _ _

theorem seatTook_other (s : State) (i : Nat) (x : Seat) (toks drafts : List Nat) {j : Nat} (h : j ≠ i) :
    (s.seatTook i x toks drafts).seat j = s.seat j :=
  (seat_setSeat_other (s.setSeat i x) i j (x.took toks drafts) h).trans (seat_setSeat_other s i j x h)

theorem execTokens_lands {port src hand handle pos flags stampHi i : Nat} {toks drafts : List Nat} {x : Seat} (hi : i = handleIx handle)
    (hx : x = (s.seat i).seeStamp (if bit flags 0 then 0 else stampHi) stampHi) (hc : s.current handle = true)
    (hst : x.st = .decode ∨ x.st = .prefill) (hrec : Recording s x) (hne : toks ≠ []) :
    execTokens port s.devAddr src hand handle pos toks drafts 0 flags stampHi s = .next ((s.seatTook i x toks drafts).cqWrite x.ring
      (((s.setSeat i x).tokensRecord x handle hand pos stampHi toks).atCommit hand)).irqsDue := by
  obtain ⟨⟨hfront, hflr⟩, ⟨hrecs, hposted⟩, hsize, hspace, hback⟩ := hrec
  have htakes : TakesRecord (s.seatTook i x toks drafts) x.ring := ⟨hsize, hspace, hback⟩
  have hstamp : s.modSeat i (fun y => y.seeStamp (if bit flags 0 then 0 else stampHi) stampHi) = s.setSeat i x := congrArg (s.setSeat i) hx.symm
  have hcur : (s.setSeat i x).current handle = true := by rw [hx, hi, current_stamped, hc]
  have hrecord := record_own (s := s.setSeat i x) (r := x.ring) (mkRecord x.tag handle 3 0 x.recFlags stampHi hand pos toks) hfront hflr
  have hnew : ((s.setSeat i x).recs ++ [(s.setSeat i x).tokensRecord x handle hand pos stampHi toks]) =
      [(s.setSeat i x).tokensRecord x handle hand pos stampHi toks] := congrArg (· ++ _) hrecs
  have hput := htakes.cqPut (((s.setSeat i x).tokensRecord x handle hand pos stampHi toks).atCommit hand)
  have hflush : (s.setSeat i x).flushPosted = s.setSeat i x := by
    rw [State.flushPosted, show (s.setSeat i x).hand.posted = none from hposted]
  have hland : ((s.setSeat i x).tokensIn handle hand pos toks drafts 0 stampHi).writeRecs hand hand = (s.seatTook i x toks drafts).cqWrite x.ring
      (((s.setSeat i x).tokensRecord x handle hand pos stampHi toks).atCommit hand) := by
    rw [tokensIn_took (by rw [← hi, seat_setSeat_same]) hcur hst hne, hrecord, ← hi]
    exact (writeRecs_only hnew (tokensRecord_due _ _ _ _ _ _ _)).trans hput
  rw [← hland]
  unfold execTokens
  dsimp only
  rw [if_neg (not_not_intro rfl), if_pos hc, ← hi]
  rw [hstamp, hflush, ite_self]

theorem execTokens_takes {port src hand handle pos flags stampHi i : Nat} {toks drafts : List Nat} {x : Seat} (hi : i = handleIx handle)
    (hx : x = (s.seat i).seeStamp (if bit flags 0 then 0 else stampHi) stampHi) (hc : s.current handle = true)
    (hst : x.st = .decode ∨ x.st = .prefill) (hrec : Recording s x) (hne : toks ≠ []) :
    ∃ t, execTokens port s.devAddr src hand handle pos toks drafts 0 flags stampHi s = .next t ∧ t.seat i = x.took toks drafts ∧
      (∀ j, j ≠ i → t.seat j = s.seat j) ∧ (t.ring_ x.ring).written = (s.ring_ x.ring).written + 1 ∧
      t.rd R.SRV_RING_STAT.CQ_TAIL x.ring = ((s.ring_ x.ring).written + 1) % 65536 := by
  refine ⟨_, execTokens_lands hi hx hc hst hrec hne, ?_⟩
  generalize ((s.setSeat i x).tokensRecord x handle hand pos stampHi toks).atCommit hand = ws
  rw [irqsDue_eq ((congrArg HandSt.posted (cqWrite_hand (s.seatTook i x toks drafts) x.ring ws)).trans hrec.first.2)]
  exact ⟨(cqWrite_seat _ _ ws i).trans (seatTook_seat s i x toks drafts),
    fun j hj => (cqWrite_seat _ _ ws j).trans (seatTook_other s i x toks drafts hj),
    congrArg Ring.written (cqWrite_ring _ x.ring ws), cqWrite_tail _ x.ring ws⟩

theorem execTokens_stale (port src hand : Nat) {handle : Nat} (pos : Nat) (toks drafts : List Nat) (code flags stampHi : Nat)
    (h : s.current handle = false) : execTokens port s.devAddr src hand handle pos toks drafts code flags stampHi s = .next s :=
  congrArg Host.Outcome.next ((if_neg (not_not_intro rfl)).trans (if_neg (ne_true_of_eq_false h)))

/-! ### Seat records (R402) -/

section
variable {r copy : SeatRec} {i : Nat}

/-- The dealer holds the record r. -/
def State.recordHeld (s : State) (r : SeatRec) : State :=
  { s with drecs := mset {} s.drecs (handleIx r.handle) { held := true, r := r, hist := r.hist } }

theorem recordHeld_drec (s : State) (r : SeatRec) :
    mget {} (s.recordHeld r).drecs (handleIx r.handle) = { held := true, r := r, hist := r.hist } := mget_mset_same _ _ _ _

/-- A record whose seal agrees and which names no grammar is held, and acknowledged. -/
theorem execSeatRecordLoad_sealed (hseal : recSeal copy = recSeal r) (hgram : r.grammar = 255) : execSeatRecordLoad r copy s =
    .next (if r.front = s.devAddr ∨ s.isManager then
        (if s.current r.handle then (s.recordHeld r).modSeat (handleIx r.handle) (fun x => { x with acked := true }) else s.recordHeld r)
      else (s.recordHeld r).emit (.serve s.manager [4, r.handle])) := by
  refine congrArg Host.Outcome.next ((if_neg (not_not_intro hseal)).trans ?_)
  dsimp only
  rw [if_neg (show ¬ r.grammar < 64 by omega)]
  rfl

theorem execSeatRecordLoad_acknowledges (hseal : recSeal copy = recSeal r) (hgram : r.grammar = 255)
    (hmine : r.front = s.devAddr ∨ s.isManager = true) (hc : s.current r.handle = true) : ∃ t, execSeatRecordLoad r copy s = .next t ∧
      mget {} t.drecs (handleIx r.handle) = { held := true, r := r, hist := r.hist } ∧
      t.seat (handleIx r.handle) = { s.seat (handleIx r.handle) with acked := true } ∧ { t with drecs := s.drecs, seats := s.seats } = s :=
  ⟨_, (execSeatRecordLoad_sealed hseal hgram).trans (congrArg Host.Outcome.next ((if_pos hmine).trans (if_pos hc))), recordHeld_drec s r,
    seat_setSeat_same _ _ _, rfl⟩

theorem execSeatRecordLoad_tells (hseal : recSeal copy = recSeal r) (hgram : r.grammar = 255) (hfront : r.front ≠ s.devAddr)
    (hman : s.isManager = false) : ∃ t, execSeatRecordLoad r copy s = .next t ∧
      mget {} t.drecs (handleIx r.handle) = { held := true, r := r, hist := r.hist } ∧ t.out = s.out ++ [.serve s.manager [4, r.handle]] ∧
      { t with drecs := s.drecs, out := s.out } = s :=
  ⟨_, (execSeatRecordLoad_sealed hseal hgram).trans (congrArg Host.Outcome.next
    (if_neg (by simp [hfront, hman]))), recordHeld_drec s r, rfl, rfl⟩

theorem execSeatRecordLoad_ends (hseal : recSeal copy ≠ recSeal r) (hi : i = handleIx r.handle) (hc : s.current r.handle = true)
    (hst : (s.seat i).st = .decode ∨ (s.seat i).st = .prefill) : ∃ t, execSeatRecordLoad r copy s = .next t ∧
      (s.mode = 2 → t.seat i = { s.seat i with st := .drain, endCode := 9 }) ∧
      (s.mode ≠ 2 → t.seat i = { s.seat i with endCode := 9, freeing := true }) ∧ ∀ j, j ≠ i → t.seat j = s.seat j := by
  subst hi
  refine ⟨_, congrArg Host.Outcome.next ((if_pos hseal).trans ((if_pos hc).trans (cancelSeat_running 9 hst))), fun hmode => ?_, fun hmode => ?_,
    fun j hj => ?_⟩
  · rw [if_pos hmode]
    exact seat_setSeat_same _ _ _
  · rw [if_neg hmode]
    exact seat_setSeat_same s _ _
  · split
    · exact seat_setSeat_other _ _ _ _ hj
    · exact seat_setSeat_other s _ _ _ hj

end

end Sys2Proof.Machine
end
section
/-! The rows of a slot (14_the_dealer.md R399, R400, R405, R412, R413, R415). -/
namespace Sys2Proof.Machine
open Sys2Proof.Claims

variable {s : State} {vocab n : Nat}

/-! ### The token of a row (R405, R406) -/

theorem pickBy_mem {t acc : FV} {l : List (FV × Nat)} {v : Nat} (h : pickBy t acc l = some v) : ∃ e ∈ l, e.2 = v := by
  induction l generalizing acc with
  | nil => cases h
  | cons e rest ih =>
    cases rest with
    | nil => exact ⟨e, List.mem_cons_self, Option.some.inj h⟩
    | cons e' rest =>
      unfold pickBy at h
      dsimp only at h
      split at h
      · exact ⟨e, List.mem_cons_self, Option.some.inj h⟩
      · obtain ⟨x, hx, hv⟩ := ih h
        exact ⟨x, List.mem_cons_of_mem _ hx, hv⟩

theorem keepTopP_subset (topP acc : FV) (l : List (FV × FV × Nat)) : keepTopP topP acc l ⊆ l := by
  induction l generalizing acc with
  | nil => exact List.Subset.refl _
  | cons e rest ih =>
    unfold keepTopP
    dsimp only
    refine List.cons_subset_cons _ ?_
    split
    · exact ih _
    · exact List.nil_subset _

/-- A token that is drawn from a row is the number of one of its logits. -/
theorem drawRow_lt {c : RowCtx} {u : FV} {row : List Nat} {v : Nat} (h : drawRow c u row = some v) : v < row.length := by
  unfold drawRow at h
  extract_lets gs temp hs k cand at h
  have hgs : ∀ e ∈ gs, e.2 < row.length := by
    intro e he
    obtain ⟨x, hx, rfl⟩ := List.mem_map.mp (List.mem_of_mem_filter he)
    exact List.mem_range.mp (List.of_mem_zip hx).2
  split at h
  · obtain ⟨e, he, rfl⟩ := Option.map_eq_some_iff.mp h
    exact hgs e (List.mem_mergeSort.mp (List.mem_of_mem_head? he))
  · have hcand : ∀ e ∈ cand, e.2 < row.length := by
      intro e he
      obtain ⟨x, hx, rfl⟩ := List.mem_map.mp (List.mem_of_mem_filter (List.mem_mergeSort.mp (List.mem_of_mem_take he)))
      exact hgs x hx
    clear_value cand
    split at h
    · cases h
    · next h0 rest =>
      extract_lets ws z ps kept p0 lim kept1 z2 t at h
      have hkept : ∀ e ∈ kept, e.2.2 < row.length := by
        intro e he
        obtain ⟨x, hx, rfl⟩ := List.mem_map.mp (keepTopP_subset _ _ _ he)
        obtain ⟨y, hy, rfl⟩ := List.mem_map.mp hx
        dsimp only
        split <;> exact hcand y hy
      have hkept1 : kept1 ⊆ kept := by
        clear_value kept
        simp only [kept1]
        split
        · exact List.nil_subset _
        · exact List.cons_subset_cons _ (List.filter_subset_self _)
      obtain ⟨e, he, rfl⟩ := pickBy_mem h
      obtain ⟨x, hx, rfl⟩ := List.mem_map.mp he
      exact hkept x (hkept1 hx)

/-! ### The walk over a seat's rows (R412, R415) -/

/-- What a walk over `rows` from row n on gives: released tokens, rows examined, and the end code. -/
structure Walked (vocab n : Nat) (rows : List (List Nat)) (drafts : List Nat) (w : List Nat × Nat × Nat) : Prop where
  rows : n ≤ w.2.1 ∧ w.2.1 ≤ n + rows.length ∧ (rows ≠ [] → n < w.2.1)
  tokens : (∀ v ∈ w.1, v < vocab) ∧ w.1.length ≤ w.2.1 - n
  accepted : w.1.take (w.2.1 - 1 - n) = drafts.take (w.2.1 - 1 - n)
  code : w.2.2 ≤ 5 ∧ (w.2.2 = 0 → w.1.length = w.2.1 - n)

/-- A walk that ends at its first row. -/
theorem Walked.ends {row : List Nat} {rest : List (List Nat)} {drafts toks : List Nat} {code : Nat} (hlen : toks.length ≤ 1)
    (hlt : ∀ v ∈ toks, v < vocab) (hcode : code ≤ 5) (hgoes : code = 0 → toks.length = 1) :
    Walked vocab n (row :: rest) drafts (toks, n + 1, code) := by
  refine ⟨⟨by simp, by simp, by simp⟩, ⟨hlt, by simpa using hlen⟩, ?_, hcode, fun h => (hgoes h).trans (by simp)⟩
  simp

/-- A walk that goes on behind an accepted draft. -/
theorem Walked.accepts {row : List Nat} {rest : List (List Nat)} {drafts : List Nat} {w : List Nat × Nat × Nat} {v : Nat}
    (h : Walked vocab (n + 1) rest drafts w) (hv : v < vocab) : Walked vocab n (row :: rest) (v :: drafts) (v :: w.1, w.2) := by
  obtain ⟨⟨hge, hle, -⟩, ⟨hlt, hlen⟩, hacc, hcode, hgoes⟩ := h
  refine ⟨⟨?_, ?_, fun _ => ?_⟩, ⟨List.forall_mem_cons.mpr ⟨hv, hlt⟩, ?_⟩, ?_, hcode, fun h0 => ?_⟩
  · exact Nat.le_of_succ_le hge
  · rw [List.length_cons]
    dsimp only
    omega
  · exact hge
  · rw [List.length_cons]
    dsimp only
    omega
  · dsimp only
    rcases Nat.eq_or_lt_of_le hge with heq | hgt
    · rw [← heq]
      simp
    · rw [show w.2.1 - 1 - n = (w.2.1 - 1 - (n + 1)) + 1 by omega, List.take_succ_cons, List.take_succ_cons, hacc]
  · rw [List.length_cons, hgoes h0]
    dsimp only
    omega

theorem endOf_le (s : State) (d : Drec) (stream v q count : Nat) (gen : List Nat) : s.endOf d stream v q count gen ≤ 4 := by
  unfold State.endOf
  repeat' split
  all_goals decide

theorem walkRows_walked (s : State) (d : Drec) (stream pos : Nat) {rows : List (List Nat)} (hrows : ∀ row ∈ rows, row.length = vocab)
    (drafts more : List Nat) (q n : Nat) : Walked vocab n rows drafts (s.walkRows d stream pos rows drafts more q n) := by
  induction rows generalizing drafts more q n with
  | nil =>
    exact ⟨⟨Nat.le_refl _, Nat.le_refl _, fun h => absurd rfl h⟩, ⟨nofun, Nat.zero_le _⟩, by simp [State.walkRows], by simp [State.walkRows]⟩
  | cons row rest ih =>
    obtain ⟨hrow, hrest⟩ := List.forall_mem_cons.mp hrows
    unfold State.walkRows
    split
    · exact Walked.ends (by simp) nofun (Nat.le_refl 5) (by simp)
    · next v hdraw =>
      have hv : v < vocab := hrow ▸ drawRow_lt hdraw
      have hone : ∀ x ∈ [v], x < vocab := by simpa using hv
      extract_lets q1 code
      have hcode : code ≤ 5 := Nat.le_succ_of_le (endOf_le _ _ _ _ _ _ _)
      split
      · exact Walked.ends (by simp) nofun (by decide) (by decide)
      · split
        · exact Walked.ends (by simp) hone hcode (fun _ => rfl)
        · split
          · split
            · next hdr =>
              subst hdr
              exact (ih hrest _ _ _ _).accepts hv
            · exact Walked.ends (by simp) hone (by decide) (fun _ => rfl)
          · exact Walked.ends (by simp) hone (by decide) (fun _ => rfl)

/-! ### A slot of one seat (R399, R400, R413) -/

theorem slotRow_length (shares : List DealShare) (vocab r : Nat) : (slotRow shares vocab r).1.length = vocab := by simp [slotRow]

/-- The rows of a seat whose first row in the slot is row 0. -/
def seatRowsOf (shares : List DealShare) (vocab n : Nat) : List (List Nat × Bool) := (List.range n).map (fun i => slotRow shares vocab (0 + i))

theorem seatRowsOf_length {shares : List DealShare} : ∀ row ∈ (seatRowsOf shares vocab n).map Prod.fst, row.length = vocab := by
  intro row hrow
  obtain ⟨x, hx, rfl⟩ := List.mem_map.mp hrow
  obtain ⟨i, -, rfl⟩ := List.mem_map.mp hx
  exact slotRow_length _ _ _

theorem seatRowsOf_clean {shares : List DealShare} (h : ∀ r < n, (slotRow shares vocab r).2 = false) :
    (seatRowsOf shares vocab n).any Prod.snd = false := by
  refine List.any_eq_false.mpr fun x hx => ?_
  obtain ⟨i, hi, rfl⟩ := List.mem_map.mp hx
  simpa using h i (List.mem_range.mp hi)

/-- Rows drawn have been counted, and the NaN logits among them. -/
def State.rowsCounted (s : State) (n nans : Nat) : State := (s.bumpBy R.DLR_STAT.ROWS 0 n).nanCount nans

theorem rowsCounted_rows (s : State) (n nans : Nat) :
    (s.rowsCounted n nans).rd R.DLR_STAT.ROWS 0 = min (s.rd R.DLR_STAT.ROWS 0 + n) (2 ^ R.DLR_STAT.ROWS.wd - 1) :=
  (rd_bumpBy_apart _ _ _ _ _ _ (by decide)).trans (rd_bumpBy_same _ _ _ _ (by decide))

theorem rowsCounted_hand (s : State) (n nans : Nat) : (s.rowsCounted n nans).hand = s.hand := rfl

/-- NaN logits of rows. -/
def nanLogits (rows : List (List Nat × Bool)) : Nat := rows.foldl (fun a r => a + (r.1.filter (fun c => (ofBf16 c).isNan)).length) 0

/-- The dealer's draw for a seat joins those of the slot. -/
def State.drawn (t : State) (w : Draw) : State := { t with hand := { t.hand with draws := some (t.hand.draws.getD [] ++ [w]) } }

theorem drawn_first {t : State} (w : Draw) (h : t.hand.draws = some []) : (t.drawn w).hand.draws = some [w] := by
  unfold State.drawn
  rw [h]
  rfl

/-- Place of the first token that a seat's rows give. -/
def State.drawPos (s : State) (d : SlotSeat) : Nat := s.lenOf d + if d.kind = 2 then d.ntok else 1

/-- A seat without a record ends (R413). -/
theorem dealSeat_noRecord {stream slot : Nat} {d : SlotSeat} (hn : seatRows d ≠ 0) (hheld : (mget {} s.drecs d.seat).held = false) :
    ∃ k, s.dealSeat stream vocab slot 0 d =
      ({ s.rowsCounted (seatRows d) k with hand := { s.hand with noRecord := s.hand.noRecord ++ [d.seat] } } : State).drawn
        ⟨d.seat, s.drawPos d, [], 9, d.drafts, d.drafts⟩ :=
  ⟨nanLogits (seatRowsOf s.hand.shares vocab (seatRows d)), (if_neg hn).trans (if_pos hheld)⟩

/-- A seat with a record whose rows are whole is drawn by the walk over them (R405, R415). -/
theorem dealSeat_walks {stream slot : Nat} {d : SlotSeat} (hn : seatRows d ≠ 0) (hheld : (mget {} s.drecs d.seat).held = true)
    (hclean : ∀ r < seatRows d, (slotRow s.hand.shares vocab r).2 = false) :
    ∃ k r, Walked vocab 0 ((seatRowsOf s.hand.shares vocab (seatRows d)).map Prod.fst) (if d.kind = 0 then d.toks.drop 1 else []) r ∧
      s.dealSeat stream vocab slot 0 d =
        (s.rowsCounted (seatRows d) k).drawn ⟨d.seat, s.drawPos d, r.1, r.2.2, d.drafts, r.2.1 - 1⟩ := by
  have hwhole : ¬ ((List.range (seatRows d)).map (fun i => slotRow s.hand.shares vocab (0 + i))).any Prod.snd = true :=
    ne_true_of_eq_false (seatRowsOf_clean hclean)
  refine ⟨nanLogits (seatRowsOf s.hand.shares vocab (seatRows d)), _, walkRows_walked _ _ stream (s.drawPos d) seatRowsOf_length _ _ _ _,
    (if_neg hn).trans ((if_neg (by rw [hheld]; decide)).trans ((if_neg hwhole).trans rfl))⟩

/-! ### DEALER_ROWS_DRAWN -/

/-- The hand's draws begin. -/
def State.dealing (s : State) : State := { s with hand := { s.hand with draws := some [] } }

theorem execDealerRowsDrawn_deals {stream : Nat} {shares : List DealShare} (h : SharesIn s stream shares) : execDealerRowsDrawn s =
    .next (s.hand.desc.foldl (fun (acc : State × Nat) d =>
      (acc.1.dealSeat stream (s.rd R.DLR_CFG.VOCAB stream) s.hand.slotNum acc.2 d, acc.2 + seatRows d)) (s.dealing, 0)).1 := by
  obtain ⟨⟨hrun, hdraws, hbad⟩, ⟨rfl, a, hhead, rfl, hall⟩, hagree, hinj⟩ := h
  have hquiet : s.injSlot .dealShares (unitId 15 0 0 0 1) = none := injSlot_nil hinj _ _
  have hgood : ¬ (s.hand.shareBad || !sharesOk s.hand.shares (s.rd R.DLR_CFG.VOCAB a.sel) ||
      (s.injSlot .dealShares (unitId 15 0 0 0 1)).isSome) = true := by rw [hbad, hagree, hquiet]; decide
  have hin : s.sharesIn = true := by
    unfold State.sharesIn
    split
    · next hnil => rw [hnil] at hhead; cases hhead
    · next hcons =>
      rw [hcons] at hhead
      cases hhead
      exact decide_eq_true hall
  refine congrArg Host.Outcome.next ((if_pos (by rw [hrun, hdraws, hin, hbad]; rfl)).trans ?_)
  unfold State.dealAll
  split
  · next hnil => rw [hnil] at hhead; cases hhead
  · next hcons =>
    have ha := hhead
    rw [hcons] at ha
    cases ha
    exact if_neg hgood

theorem execDealerRowsDrawn_empty {stream : Nat} {shares : List DealShare} (h : SharesIn s stream shares) (hdesc : s.hand.desc = []) :
    ∃ t, execDealerRowsDrawn s = .next t ∧ t.hand.draws = some [] ∧ { t with hand := s.hand } = s :=
  ⟨s.dealing, (execDealerRowsDrawn_deals h).trans (by rw [hdesc]; rfl), rfl, rfl⟩

theorem execDealerRowsDrawn_one {stream : Nat} {shares : List DealShare} {d : SlotSeat} (h : SharesIn s stream shares) (hdesc : s.hand.desc = [d]) :
    execDealerRowsDrawn s = .next (s.dealing.dealSeat stream (s.rd R.DLR_CFG.VOCAB stream) s.hand.slotNum 0 d) :=
  (execDealerRowsDrawn_deals h).trans (by rw [hdesc]; rfl)

/-- What the walk gives a seat is drawn for it. -/
theorem Walked.drawn {d : SlotSeat} {shares : List DealShare} {r : List Nat × Nat × Nat} (hn : seatRows d ≠ 0)
    (h : Walked vocab 0 ((seatRowsOf shares vocab (seatRows d)).map Prod.fst) (if d.kind = 0 then d.toks.drop 1 else []) r) :
    Drawn s d vocab ⟨d.seat, s.drawPos d, r.1, r.2.2, d.drafts, r.2.1 - 1⟩ := by
  obtain ⟨⟨-, hle, hpos⟩, ⟨hlt, hlen⟩, hacc, hcode, hgoes⟩ := h
  have hrows : ((seatRowsOf shares vocab (seatRows d)).map Prod.fst).length = seatRows d := by simp [seatRowsOf]
  have hsome : 0 < r.2.1 := hpos (List.ne_nil_of_length_pos (by omega))
  refine ⟨⟨rfl, rfl⟩, rfl, ⟨hlt, ?_, ?_⟩, hacc, hcode, fun h0 => ?_⟩
  · dsimp only
    omega
  · dsimp only
    omega
  · have := hgoes h0
    dsimp only
    omega

theorem execDealerRowsDrawn_draws {stream : Nat} {shares : List DealShare} {d : SlotSeat} (h : SharesIn s stream shares)
    (hdesc : s.hand.desc = [d]) (hvocab : vocab = s.rd R.DLR_CFG.VOCAB stream) (hn : seatRows d ≠ 0)
    (hheld : (mget {} s.drecs d.seat).held = true) (hclean : ∀ r < seatRows d, (slotRow shares vocab r).2 = false) :
    ∃ t w, execDealerRowsDrawn s = .next t ∧ t.hand.draws = some [w] ∧ Drawn s d vocab w ∧
      t.rd R.DLR_STAT.ROWS 0 = min (s.rd R.DLR_STAT.ROWS 0 + seatRows d) (2 ^ R.DLR_STAT.ROWS.wd - 1) := by
  subst hvocab
  obtain ⟨k, r, hwalk, hdeal⟩ := dealSeat_walks (s := s.dealing) (stream := stream) (slot := s.hand.slotNum) hn hheld
    (fun i hi => (congrArg (fun l => (slotRow l _ i).2) h.taken.1).trans (hclean i hi))
  exact ⟨_, _, (execDealerRowsDrawn_one h hdesc).trans (congrArg Host.Outcome.next hdeal), drawn_first _ rfl,
    Walked.drawn (s := s) hn hwalk, rowsCounted_rows s.dealing _ _⟩

theorem execDealerRowsDrawn_noRecord {stream : Nat} {shares : List DealShare} {d : SlotSeat} (h : SharesIn s stream shares)
    (hdesc : s.hand.desc = [d]) (hn : seatRows d ≠ 0) (hheld : (mget {} s.drecs d.seat).held = false) :
    ∃ t w, execDealerRowsDrawn s = .next t ∧ t.hand.draws = some [w] ∧ w.seat = d.seat ∧ w.toks = [] ∧ w.code = 9 ∧
      t.hand.noRecord = s.hand.noRecord ++ [d.seat] := by
  obtain ⟨k, hdeal⟩ := dealSeat_noRecord (s := s.dealing) (vocab := s.rd R.DLR_CFG.VOCAB stream) (stream := stream)
    (slot := s.hand.slotNum) hn hheld
  exact ⟨_, _, (execDealerRowsDrawn_one h hdesc).trans (congrArg Host.Outcome.next hdeal), drawn_first _ rfl, rfl, rfl, rfl, rfl⟩

end Sys2Proof.Machine
end
section
open Sys2Proof Sys2Proof.Machine Sys2Proof.Claims

/-- Settles O57: each command's result, one after the other.  By the model's choices of log entries 11, 22 and 80, a command whose event
cannot occur leaves the state as it is, what fronts, dealer and manager tell each other is `Out.serve`, a vector is signalled once in a hand, and the
copy of an ante and the seat record have their seals checked apart. -/
theorem servingResults : Obligations.ServingResults := by
  unfold Obligations.ServingResults
  intro s
  refine ⟨fun r v hr => ⟨fun hen => ⟨⟨_, execSqDoorbell_disabled v hr hen, bump_counts s _ 0⟩,
        ⟨_, execCqDoorbell_disabled v hr hen, bump_counts s _ 0⟩⟩,
      fun hen => ⟨fun hv hl => ⟨_, execSqDoorbell_taken hr hen hv hl, sqTold_ring s r v, sqTold_writes s r v, sqTold_frame s r v⟩,
        fun hv => ⟨_, execSqDoorbell_bad hr hen hv, bump_counts s _ 0⟩,
        fun n d hn hv hd hroom hback hl hp => execCqDoorbell_results hr hen hn hv hd hroom hback hl hp⟩⟩,
    fun r e copy a h ha => ⟨execAnte_held h ha, execAnte_forwarded h ha⟩,
    fun r e h => ⟨execFold_held h, execFold_forwarded h, execFold_refused h⟩,
    fun src r e copy vocab ttl => ⟨fun hm => ⟨execForwardedAnte_fold src r e copy vocab ttl hm,
        execForwardedAnte_ante src r e copy vocab ttl hm⟩,
      fun hm fold => execForwardedAnte_elsewhere src r e copy vocab ttl hm fold⟩,
    fun m hm h ht => execSrvMode_waits hm h ht, fun m h => execSrvMode_refused h,
    fun p n h => execPfxInstall_installs h, execPfxInstall_refused,
    fun p shares ht => ⟨execPrefixInstalled_reads shares ht, execPrefixInstalled_idle shares⟩,
    fun p hp ht => ⟨execPfxRemove_removes hp ht, execPfxRemove_idle hp⟩,
    fun i hst hfree hexp => execTtlExpiry_expires hst hfree hexp,
    fun i a h hset hpast => execDeadline_refuses h hset hpast,
    fun i hset hpast hlive => ⟨execDeadline_frees ⟨⟨hset, hpast⟩, hlive⟩, execDeadline_drains ⟨⟨hset, hpast⟩, hlive⟩⟩,
    fun g hg => ⟨execGrammarLoad_begins hg, execGrammarLoad_refused hg, execGrammarUnload_unloads hg, execGrammarUnload_idle hg⟩,
    fun g states trans hst => ⟨execGrammarLoadDone_read hst, execGrammarLoadDone_refused hst⟩,
    fun port src hand handle pos toks drafts flags stampHi i x hi hx => ⟨execTokens_takes hi hx,
      fun hc code => execTokens_stale port src hand pos toks drafts code flags stampHi hc⟩,
    fun r copy hseal hgram => ⟨execSeatRecordLoad_acknowledges hseal hgram, execSeatRecordLoad_tells hseal hgram⟩,
    fun r copy i hseal hi hc hst => execSeatRecordLoad_ends hseal hi hc hst,
    fun stream shares h => ⟨execDealerRowsDrawn_empty h, fun d vocab hdesc hvocab hn =>
      ⟨execDealerRowsDrawn_draws h hdesc hvocab hn, execDealerRowsDrawn_noRecord h hdesc hn⟩⟩⟩
end
section
/-! The block as a machine: what every command keeps, and what follows of a step (00_scope.md). -/
namespace Sys2Proof.Machine

/-- The four commands that enroll and revoke: operator credentials (R512) and image keys (R513). -/
def Enrolls (c : Instr) : Prop :=
  (∃ i a k, c = .enrollOp i a k ∨ c = .revokeOp i a k) ∨ (∃ i a k, c = .revokeImgkey i a k) ∨ ∃ i a k x y, c = .enrollImgkey i a k x y

theorem exec_backgroundRead (f b a : Nat) (cells : List (Nat × Nat)) (margin : List Nat) (s : State) :
    exec (.backgroundRead f b a cells margin) s = execBackgroundRead f b a cells margin s := rfl

/-- Every other command keeps the queue, credentials and image keys, and from a sound state soundness: the lemma of its row. -/
theorem exec_keeps {c : Instr} {s t : State} (hc : ¬ Enrolls c) (e : exec c s = .next t) : Keeps s t := by
  cases c with
  | powerOn => exact execPowerOn_keeps e .rfl'
  | coldReset => exact execColdReset_keeps e .rfl'
  | coldResetReq => exact execColdResetReq_keeps e .rfl'
  | warmReset => exact execWarmReset_keeps e .rfl'
  | warmResetDrained => exact execWarmResetDrained_keeps e .rfl'
  | hostReset => exact execHostReset_keeps e .rfl'
  | functionLevelReset => exact execFunctionLevelReset_keeps e .rfl'
  | faceReset => exact execFaceReset_keeps e .rfl'
  | faceResetDone => exact execFaceResetDone_keeps e .rfl'
  | autoFaceReset => exact execAutoFaceReset_keeps e .rfl'
  | configRequest => exact execConfigRequest_keeps e .rfl'
  | vaonLoss => exact execVaonLoss_keeps e .rfl'
  | bypForce => exact execBypForce_keeps e .rfl'
  | thermalTrip => exact execThermalTrip_keeps e .rfl'
  | droop => exact execDroop_keeps e .rfl'
  | droopRecover => exact execDroopRecover_keeps e .rfl'
  | tickAnnounce => exact execTickAnnounce_keeps e .rfl'
  | seatLimitRegrow => exact execSeatLimitRegrow_keeps e .rfl'
  | handEntry => exact execHandEntry_keeps e .rfl'
  | missedTick => exact execMissedTick_keeps e .rfl'
  | missedTickAbort => exact execMissedTickAbort_keeps e .rfl'
  | handBudgetWarning => exact execHandBudgetWarning_keeps e .rfl'
  | budgetExpiry => exact execBudgetExpiry_keeps e .rfl'
  | pinEvaluation => exact execPinEvaluation_keeps e .rfl'
  | vectorIssueCheck => exact execVectorIssueCheck_keeps e .rfl'
  | phaseEnd => exact execPhaseEnd_keeps e .rfl'
  | bench3Start => exact execBench3Start_keeps e .rfl'
  | engineOpStart => exact execEngineOpStart_keeps e .rfl'
  | engineOpComplete => exact execEngineOpComplete_keeps e .rfl'
  | fineCheckResult => exact execFineCheckResult_keeps e .rfl'
  | nop => exact execNop_keeps e .rfl'
  | br => exact execBr_keeps e .rfl'
  | jal => exact execJal_keeps e .rfl'
  | jr => exact execJr_keeps e .rfl'
  | lset => exact execLset_keeps e .rfl'
  | lbr => exact execLbr_keeps e .rfl'
  | twait => exact execTwait_keeps e .rfl'
  | endProg => exact execEndProg_keeps e .rfl'
  | rte => exact execRte_keeps e .rfl'
  | add => exact execAdd_keeps e .rfl'
  | addi => exact execAddi_keeps e .rfl'
  | sub => exact execSub_keeps e .rfl'
  | subi => exact execSubi_keeps e .rfl'
  | and => exact execAnd_keeps e .rfl'
  | andi => exact execAndi_keeps e .rfl'
  | or => exact execOr_keeps e .rfl'
  | ori => exact execOri_keeps e .rfl'
  | xor => exact execXor_keeps e .rfl'
  | xori => exact execXori_keeps e .rfl'
  | shl => exact execShl_keeps e .rfl'
  | shli => exact execShli_keeps e .rfl'
  | shr => exact execShr_keeps e .rfl'
  | shri => exact execShri_keeps e .rfl'
  | sra => exact execSra_keeps e .rfl'
  | srai => exact execSrai_keeps e .rfl'
  | mul => exact execMul_keeps e .rfl'
  | muli => exact execMuli_keeps e .rfl'
  | mulhu => exact execMulhu_keeps e .rfl'
  | min => exact execMin_keeps e .rfl'
  | mini => exact execMini_keeps e .rfl'
  | max => exact execMax_keeps e .rfl'
  | maxi => exact execMaxi_keeps e .rfl'
  | minu => exact execMinu_keeps e .rfl'
  | minui => exact execMinui_keeps e .rfl'
  | maxu => exact execMaxu_keeps e .rfl'
  | maxui => exact execMaxui_keeps e .rfl'
  | li => exact execLi_keeps e .rfl'
  | cmpeq => exact execCmpeq_keeps e .rfl'
  | cmpeqi => exact execCmpeqi_keeps e .rfl'
  | cmpne => exact execCmpne_keeps e .rfl'
  | cmpnei => exact execCmpnei_keeps e .rfl'
  | cmplt => exact execCmplt_keeps e .rfl'
  | cmplti => exact execCmplti_keeps e .rfl'
  | cmpltu => exact execCmpltu_keeps e .rfl'
  | cmpltui => exact execCmpltui_keeps e .rfl'
  | cmple => exact execCmple_keeps e .rfl'
  | cmplei => exact execCmplei_keeps e .rfl'
  | cmpleu => exact execCmpleu_keeps e .rfl'
  | cmpleui => exact execCmpleui_keeps e .rfl'
  | pand => exact execPand_keeps e .rfl'
  | por => exact execPor_keeps e .rfl'
  | pxor => exact execPxor_keeps e .rfl'
  | pnot => exact execPnot_keeps e .rfl'
  | tbit => exact execTbit_keeps e .rfl'
  | rds => exact execRds_keeps e .rfl'
  | ld => exact execLd_keeps e .rfl'
  | st => exact execSt_keeps e .rfl'
  | rset => exact execRset_keeps e .rfl'
  | rseti => exact execRseti_keeps e .rfl'
  | rslice => exact execRslice_keeps e .rfl'
  | rrd => exact execRrd_keeps e .rfl'
  | movl => exact execMovl_keeps e .rfl'
  | movf => exact execMovf_keeps e .rfl'
  | hrd => exact execHrd_keeps e .rfl'
  | hwr => exact execHwr_keeps e .rfl'
  | hgather => exact execHgather_keeps e .rfl'
  | stkout => exact execStkout_keeps e .rfl'
  | stkin => exact execStkin_keeps e .rfl'
  | send => exact execSend_keeps e .rfl'
  | sig => exact execSig_keeps e .rfl'
  | sigf => exact execSigf_keeps e .rfl'
  | sigr => exact execSigr_keeps e .rfl'
  | wait => exact execWait_keeps e .rfl'
  | debit => exact execDebit_keeps e .rfl'
  | play => exact execPlay_keeps e .rfl'
  | waitt => exact execWaitt_keeps e .rfl'
  | bal => exact execBal_keeps e .rfl'
  | doorbell => exact execDoorbell_keeps e .rfl'
  | slot => exact execSlot_keeps e .rfl'
  | plist => exact execPlist_keeps e .rfl'
  | deal => exact execDeal_keeps e .rfl'
  | fence => exact execFence_keeps e .rfl'
  | trap => exact execTrap_keeps e .rfl'
  | mvm => exact execMvm_keeps e .rfl'
  | aprog => exact execAprog_keeps e .rfl'
  | aread => exact execAread_keeps e .rfl'
  | fine => exact execFine_keeps e .rfl'
  | score => exact execScore_keeps e .rfl'
  | append => exact execAppend_keeps e .rfl'
  | vopAdd => exact execVopAdd_keeps e .rfl'
  | vopSub => exact execVopSub_keeps e .rfl'
  | vopMul => exact execVopMul_keeps e .rfl'
  | scale => exact execScale_keeps e .rfl'
  | rmsnorm => exact execRmsnorm_keeps e .rfl'
  | layernorm => exact execLayernorm_keeps e .rfl'
  | swiglu => exact execSwiglu_keeps e .rfl'
  | geglu => exact execGeglu_keeps e .rfl'
  | exp => exact execExp_keeps e .rfl'
  | recip => exact execRecip_keeps e .rfl'
  | rsqrt => exact execRsqrt_keeps e .rfl'
  | sigmoid => exact execSigmoid_keeps e .rfl'
  | reduce => exact execReduce_keeps e .rfl'
  | convert => exact execConvert_keeps e .rfl'
  | quant => exact execQuant_keeps e .rfl'
  | dequant => exact execDequant_keeps e .rfl'
  | topk => exact execTopk_keeps e .rfl'
  | stats => exact execStats_keeps e .rfl'
  | sdrain => exact execSdrain_keeps e .rfl'
  | pload => exact execPload_keeps e .rfl'
  | programLoad => exact execProgramLoad_keeps e .rfl'
  | programLoadDone => exact execProgramLoadDone_keeps e .rfl'
  | programActivate => exact execProgramActivate_keeps e .rfl'
  | programHold => exact execProgramHold_keeps e .rfl'
  | programUnload => exact execProgramUnload_keeps e .rfl'
  | hostCall => exact execHostCall_keeps e .rfl'
  | synCtrSig => exact execSynCtrSig_keeps e .rfl'
  | windowOpen => exact execWindowOpen_keeps e .rfl'
  | windowClose => exact execWindowClose_keeps e .rfl'
  | trickCfg => exact execTrickCfg_keeps e .rfl'
  | dtrickCfg => exact execDtrickCfg_keeps e .rfl'
  | wimgOpen => exact execWimgOpen_keeps e .rfl'
  | wimgDiscard => exact execWimgDiscard_keeps e .rfl'
  | sectionStaged => exact execSectionStaged_keeps e .rfl'
  | put => exact execPut_keeps e .rfl'
  | putDone => exact execPutDone_keeps e .rfl'
  | build => exact execBuild_keeps e .rfl'
  | writeVerifyDone => exact execWriteVerifyDone_keeps e .rfl'
  | cutReq => exact execCutReq_keeps e .rfl'
  | backgroundRead f b a cells margin => exact execBackgroundRead_keeps ((exec_backgroundRead ..).symm.trans e) .rfl'
  | tallySnapshot => exact execTallySnapshot_keeps e .rfl'
  | restore => exact execRestore_keeps e .rfl'
  | restoreDone => exact execRestoreDone_keeps e .rfl'
  | sqDoorbell => exact execSqDoorbell_keeps e .rfl'
  | cqDoorbell => exact execCqDoorbell_keeps e .rfl'
  | ante => exact execAnte_keeps e .rfl'
  | fold => exact execFold_keeps e .rfl'
  | srvMode => exact execSrvMode_keeps e .rfl'
  | pfxInstall => exact execPfxInstall_keeps e .rfl'
  | prefixInstalled => exact execPrefixInstalled_keeps e .rfl'
  | pfxRemove => exact execPfxRemove_keeps e .rfl'
  | ttlExpiry => exact execTtlExpiry_keeps e .rfl'
  | deadline => exact execDeadline_keeps e .rfl'
  | grammarLoad => exact execGrammarLoad_keeps e .rfl'
  | grammarLoadDone => exact execGrammarLoadDone_keeps e .rfl'
  | grammarUnload => exact execGrammarUnload_keeps e .rfl'
  | meshPacket => exact execMeshPacket_keeps e .rfl'
  | callRingMessage => exact execCallRingMessage_keeps e .rfl'
  | flit => exact execFlit_keeps e .rfl'
  | dataParcel => exact execDataParcel_keeps e .rfl'
  | sigrParcel => exact execSigrParcel_keeps e .rfl'
  | loadParcel => exact execLoadParcel_keeps e .rfl'
  | tick => exact execTick_keeps e .rfl'
  | commit => exact execCommit_keeps e .rfl'
  | abort => exact execAbort_keeps e .rfl'
  | answer => exact execAnswer_keeps e .rfl'
  | tokens => exact execTokens_keeps e .rfl'
  | trim => exact execTrim_keeps e .rfl'
  | report => exact execReport_keeps e .rfl'
  | missed => exact execMissed_keeps e .rfl'
  | tally => exact execTally_keeps e .rfl'
  | release => exact execRelease_keeps e .rfl'
  | time => exact execTime_keeps e .rfl'
  | timeExchange => exact execTimeExchange_keeps e .rfl'
  | timeSyncLost => exact execTimeSyncLost_keeps e .rfl'
  | ident => exact execIdent_keeps e .rfl'
  | lane => exact execLane_keeps e .rfl'
  | laneFail => exact execLaneFail_keeps e .rfl'
  | laneErrorWindow => exact execLaneErrorWindow_keeps e .rfl'
  | holdoffExpiry => exact execHoldoffExpiry_keeps e .rfl'
  | portRetrain => exact execPortRetrain_keeps e .rfl'
  | bypassClose => exact execBypassClose_keeps e .rfl'
  | bypassOpen => exact execBypassOpen_keeps e .rfl'
  | claim => exact execClaim_keeps e .rfl'
  | roster => exact execRoster_keeps e .rfl'
  | rosterPublish => exact execRosterPublish_keeps e .rfl'
  | mirror => exact execMirror_keeps e .rfl'
  | mirrorAck => exact execMirrorAck_keeps e .rfl'
  | mirrorAckTimeout => exact execMirrorAckTimeout_keeps e .rfl'
  | takeover => exact execTakeover_keeps e .rfl'
  | state => exact execState_keeps e .rfl'
  | hold => exact execHold_keeps e .rfl'
  | replica => exact execReplica_keeps e .rfl'
  | replicaHold => exact execReplicaHold_keeps e .rfl'
  | holdLift => exact execHoldLift_keeps e .rfl'
  | replicaDown => exact execReplicaDown_keeps e .rfl'
  | join => exact execJoin_keeps e .rfl'
  | replicaRetire => exact execReplicaRetire_keeps e .rfl'
  | spPatrol => exact execSpPatrol_keeps e .rfl'
  | hbmPatrol => exact execHbmPatrol_keeps e .rfl'
  | rotate => exact execRotate_keeps e .rfl'
  | sweepSegment => exact execSweepSegment_keeps e .rfl'
  | sessionOpen => exact execSessionOpen_keeps e .rfl'
  | sessionRelease => exact execSessionRelease_keeps e .rfl'
  | releaseScrubDone => exact execReleaseScrubDone_keeps e .rfl'
  | mgmtHandshake => exact execMgmtHandshake_keeps e .rfl'
  | mgmtRetransmit => exact execMgmtRetransmit_keeps e .rfl'
  | mgmtIdleTimeout => exact execMgmtIdleTimeout_keeps e .rfl'
  | readReg => exact execReadReg_keeps e .rfl'
  | writeReg => exact execWriteReg_keeps e .rfl'
  | readLog => exact execReadLog_keeps e .rfl'
  | enrollOp i a k => exact absurd (.inl ⟨i, a, k, .inl rfl⟩) hc
  | revokeOp i a k => exact absurd (.inl ⟨i, a, k, .inr rfl⟩) hc
  | enrollImgkey i a k x y => exact absurd (.inr (.inr ⟨i, a, k, x, y, rfl⟩)) hc
  | revokeImgkey i a k => exact absurd (.inr (.inl ⟨i, a, k, rfl⟩)) hc
  | setFloor => exact execSetFloor_keeps e .rfl'
  | mgmtRelease => exact execMgmtRelease_keeps e .rfl'
  | deploy => exact execDeploy_keeps e .rfl'
  | retire => exact execRetire_keeps e .rfl'
  | firmware => exact execFirmware_keeps e .rfl'
  | probeDeck => exact execProbeDeck_keeps e .rfl'
  | inject => exact execInject_keeps e .rfl'
  | getVersion => exact execGetVersion_keeps e .rfl'
  | getCapabilities => exact execGetCapabilities_keeps e .rfl'
  | negotiateAlgorithms => exact execNegotiateAlgorithms_keeps e .rfl'
  | getDigests => exact execGetDigests_keeps e .rfl'
  | getCertificate => exact execGetCertificate_keeps e .rfl'
  | challenge => exact execChallenge_keeps e .rfl'
  | getMeasurements => exact execGetMeasurements_keeps e .rfl'
  | dbgRead => exact execDbgRead_keeps e .rfl'
  | calReq => exact execCalReq_keeps e .rfl'
  | calAge => exact execCalAge_keeps e .rfl'
  | calRetry => exact execCalRetry_keeps e .rfl'
  | gatherClose => exact execGatherClose_keeps e .rfl'
  | gatherTimeout => exact execGatherTimeout_keeps e .rfl'
  | calFitDone => exact execCalFitDone_keeps e .rfl'
  | monitorWindowClose => exact execMonitorWindowClose_keeps e .rfl'
  | tourStart => exact execTourStart_keeps e .rfl'
  | dwellFit => exact execDwellFit_keeps e .rfl'
  | dwellEnd => exact execDwellEnd_keeps e .rfl'
  | faultRecordProcess => exact execFaultRecordProcess_keeps e .rfl'
  | histClear => exact execHistClear_keeps e .rfl'
  | histClearAll => exact execHistClearAll_keeps e .rfl'
  | histQuery => exact execHistQuery_keeps e .rfl'
  | logRead => exact execLogRead_keeps e .rfl'
  | injArm => exact execInjArm_keeps e .rfl'
  | probeStep => exact execProbeStep_keeps e .rfl'
  | pwrDomReq => exact execPwrDomReq_keeps e .rfl'
  | domainChangeDone => exact execDomainChangeDone_keeps e .rfl'
  | housekeepingRound => exact execHousekeepingRound_keeps e .rfl'
  | selfcal => exact execSelfcal_keeps e .rfl'
  | selfcalDone => exact execSelfcalDone_keeps e .rfl'
  | refReady => exact execRefReady_keeps e .rfl'
  | registerWrite => exact execRegisterWrite_keeps e .rfl'
  | portTrainingStepEnd => exact execPortTrainingStepEnd_keeps e .rfl'
  | perstRelease => exact execPerstRelease_keeps e .rfl'
  | bypForceRelease => exact execBypForceRelease_keeps e .rfl'
  | twaitExpiry => exact execTwaitExpiry_keeps e .rfl'
  | domainTrickPlay => exact execDomainTrickPlay_keeps e .rfl'
  | forwardedAnte => exact execForwardedAnte_keeps e .rfl'
  | seatRecordLoad => exact execSeatRecordLoad_keeps e .rfl'
  | dealerRowsDrawn => exact execDealerRowsDrawn_keeps e .rfl'
  | bench3Done => exact execBench3Done_keeps e .rfl'
  | vprogLoss => exact execVprogLoss_keeps e .rfl'
  | thermalCool => exact execThermalCool_keeps e .rfl'
/-- What every command keeps: the queue, and from a sound state soundness and the ways that go onward only. -/
theorem exec_goes {c : Instr} {s t : State} (e : exec c s = .next t) : Goes s t := by
  by_cases hc : Enrolls c
  · rcases hc with ⟨i, a, k, rfl | rfl⟩ | ⟨i, a, k, rfl⟩ | ⟨i, a, k, x, y, rfl⟩
    · exact execEnrollOp_goes e .rfl'
    · exact execRevokeOp_goes e .rfl'
    · exact execRevokeImgkey_goes e .rfl'
    · exact execEnrollImgkey_goes e .rfl'
  · exact (exec_keeps hc e).goes

/-- A management operation whose effect leaves what `p` reads, leaves it: the datagrams that it takes and sends change sessions alone. -/
theorem mgmtOp_same {α : Type} (p : State → α) {s : State} {i acks code : Nat} {may : Bool} {g : State → Option (State × List Nat)}
    (hp : ∀ {a t : State}, Keeps a t → p t = p a) (hg : ∀ t r, g t = some r → p r.1 = p t) : p (s.mgmtOp i acks code may g) = p s := by
  have hsend (t : State) (body : List Nat) : p (t.mgmtSend i body) = p t := hp (mgmtSend_keeps .rfl')
  have htake : p (s.mgmtTake i acks) = p s := hp (mgmtTake_keeps .rfl')
  unfold State.mgmtOp
  dsimp only
  split
  · split
    · next r e => exact (hsend _ _).trans ((hg _ r e).trans htake)
    · exact (hsend _ _).trans htake
  · exact (hsend _ _).trans htake

theorem execEnrollOp_imgKeys {i a k : Nat} {s t : State} (e : execEnrollOp i a k s = .next t) : t.imgKeys = s.imgKeys := by
  injection e with e
  subst e
  refine mgmtOp_same State.imgKeys (fun h => h.2.2.1) (fun t r h => ?_)
  split at h <;> cases h
  rfl

theorem execRevokeOp_imgKeys {i a k : Nat} {s t : State} (e : execRevokeOp i a k s = .next t) : t.imgKeys = s.imgKeys := by
  injection e with e
  subst e
  refine mgmtOp_same State.imgKeys (fun h => h.2.2.1) (fun t r h => ?_)
  split at h <;> cases h
  rfl

theorem execEnrollImgkey_ops {i a k x y : Nat} {s t : State} (e : execEnrollImgkey i a k x y s = .next t) : t.mgmt.ops = s.mgmt.ops := by
  injection e with e
  subst e
  refine mgmtOp_same (fun u => u.mgmt.ops) (fun h => h.2.1) (fun t r h => ?_)
  split at h
  · cases h
    rfl
  · split at h <;> cases h
    rfl

theorem execRevokeImgkey_ops {i a k : Nat} {s t : State} (e : execRevokeImgkey i a k s = .next t) : t.mgmt.ops = s.mgmt.ops := by
  injection e with e
  subst e
  refine mgmtOp_same (fun u => u.mgmt.ops) (fun h => h.2.1) (fun t r h => ?_)
  split at h <;> cases h
  rfl

theorem exec_ops {c : Instr} {s t : State} (e : exec c s = .next t) (hc : ∀ i a k, c ≠ .enrollOp i a k ∧ c ≠ .revokeOp i a k) :
    t.mgmt.ops = s.mgmt.ops := by
  by_cases hk : Enrolls c
  · rcases hk with ⟨i, a, k, rfl | rfl⟩ | ⟨i, a, k, rfl⟩ | ⟨i, a, k, x, y, rfl⟩
    · exact absurd rfl (hc i a k).1
    · exact absurd rfl (hc i a k).2
    · exact execRevokeImgkey_ops e
    · exact execEnrollImgkey_ops e
  · exact (exec_keeps hk e).2.1

theorem exec_imgKeys {c : Instr} {s t : State} (e : exec c s = .next t) (hr : ∀ i a k, c ≠ .revokeImgkey i a k)
    (he : ∀ i a k x y, c ≠ .enrollImgkey i a k x y) : t.imgKeys = s.imgKeys := by
  by_cases hk : Enrolls c
  · rcases hk with ⟨i, a, k, rfl | rfl⟩ | ⟨i, a, k, rfl⟩ | ⟨i, a, k, x, y, rfl⟩
    · exact execEnrollOp_imgKeys e
    · exact execRevokeOp_imgKeys e
    · exact absurd rfl (hr i a k)
    · exact absurd rfl (he i a k x y)
  · exact (exec_keeps hk e).2.2.1

/-! ### A step -/

theorem step_cons {s : State} {c : Instr} {rest : List Instr} (h : s.pending = c :: rest) : step s = exec c { s with pending := rest } := by
  unfold step
  rw [h]

theorem step_nil {s : State} (h : s.pending = []) : step s = .next { s with now := s.now + 1 } := by
  unfold step
  rw [h]

/-- The commands that wait are no part of what soundness speaks of. -/
theorem Sound.pending {s : State} (h : s.Sound) (rest : List Instr) : ({ s with pending := rest } : State).Sound :=
  ⟨h.regs, h.faces, h.hbm, h.faultq, h.nvLog, h.ops, h.keys, h.fuses, h.life⟩

/-- A step from a sound state is sound and goes onward: it idles, or the command at the queue's front keeps it so. -/
theorem step_sound_onward {s t : State} (h : s.Sound) (e : step s = .next t) : t.Sound ∧ s.Onward t := by
  cases hq : s.pending with
  | nil =>
    rw [step_nil hq] at e
    cases e
    exact (Keeps.mk (Keeps.rfl' (s := s)) rfl rfl rfl).2.2.2 h
  | cons c rest =>
    rw [step_cons hq] at e
    obtain ⟨hs, ho⟩ := (exec_goes e).2 (Sound.pending h rest)
    exact ⟨hs, ho.life, ho.floor, ho.rollback⟩

/-- The device as made, of a part with all its faces: the reset values of the fuses (log entry 1). -/
theorem reset_fuses : ∃ m : Made, m.legal = true ∧ State.reset.fuses = m.words := ⟨⟨.vsn88X, 0⟩, by decide, by decide⟩

end Sys2Proof.Machine
end
section
open Sys2Proof Sys2Proof.Machine

/-- Settles O1, by the definition of a step. -/
theorem stepRunsTheFrontCommand : Obligations.StepRunsTheFrontCommand := fun _ _ _ h => step_cons h

/-- Settles O2: the state after is the state before at the next nanosecond. -/
theorem emptyQueueIdles : Obligations.EmptyQueueIdles := fun _ h => ⟨_, step_nil h, rfl, rfl⟩

/-- Settles O3: each command's meaning answers a next state.  That one whose event cannot occur in the present state leaves the state as it is, and
so goes on too, is the model's choice (log entry 11). -/
theorem everyCommandGoesOn : Obligations.EveryCommandGoesOn := by
  unfold Obligations.EveryCommandGoesOn
  intro c s
  cases c <;> exact ⟨_, rfl⟩

/-- Settles O4: the queue is among what each command keeps. -/
theorem commandsLeaveTheQueue : Obligations.CommandsLeaveTheQueue := fun _ _ _ e => (exec_goes e).1

/-- Settles O5: soundness is among what each command keeps. -/
theorem stepKeepsSound : Obligations.StepKeepsSound := fun _ _ h e => (step_sound_onward h e).1

/-- Settles O6: nothing is in the maps, the queue and the stores, and the fuses are those of the device as made. -/
theorem resetIsSound : Obligations.ResetIsSound := by
  refine ⟨by decide, by decide, by decide, by decide, by decide, by decide, by decide, reset_fuses, ?_⟩
  intro v hv
  cases hv

/-- Settles O7: no command takes the lifecycle state, the floor or the rollback fuse back. -/
theorem stepGoesOnward : Obligations.StepGoesOnward := fun _ _ h e => (step_sound_onward h e).2

/-- Settles O8: the other commands keep the credentials and the image keys, and of the four each changes its own. -/
theorem credentialsChangeByTheirCommands : Obligations.CredentialsChangeByTheirCommands := fun _ _ _ e =>
  ⟨fun hc => exec_ops e hc, fun hr he => exec_imgKeys e hr he⟩
end
section
/-! Face resets (22_host_reset_startup.md R596, 20_faults.md R552, 11_synchronisation.md R333). -/
namespace Sys2Proof.Machine
open Sys2Proof.Claims

variable {s : State} {f : Nat}

/-! ### The beginning of a face reset -/

/-- Face x of a device on which a hand runs, or none, once its reset has begun: steps 1 and 2 of R596. -/
def Face.resetBegun (x : Face) (running : Bool) : Face :=
  { x.dropQueued with
    started := x.dropQueued.started.map (fun q => { q with discard := true }), run := if running then .ended else .off
    failed := x.failed || running, inReset := true, resetDone := false, autoReset := none }

/-- Face f is DOWN, its tricks have gone with it, and it is reset; a hand that runs is to misdeal. -/
def State.faceStopped (s : State) (f : Nat) : State :=
  let t := ((s.setDown f true).homeLost f).modFace f (fun x => x.resetBegun s.hand.running)
  if s.hand.running then { t with hand := { t.hand with resetMisdeal := true } } else t

theorem startFaceReset_may (h : MayReset s f) : s.startFaceReset f =
    (s.faceStopped f).wr R.PLT_FACE_RESET.BUSY 0 (setBit ((s.faceStopped f).rd R.PLT_FACE_RESET.BUSY 0) f true) := by
  have hno : ¬ (f ≥ s.nFaces ∨ (s.face f).inReset = true ∨ s.domOn (16 + s.phys f) = false ∨ s.hif.warm = true) := by
    simp [h.face.2, h.not, h.powered, h.warm]
  unfold State.startFaceReset
  rw [if_neg hno]
  rfl

theorem faceStopped_rd (g : Fld) (i : Nat) : (s.faceStopped f).rd g i = ((s.setDown f true).homeLost f).rd g i := by
  unfold State.faceStopped
  split <;> rfl

theorem faceStopped_faces : (s.faceStopped f).faces = (((s.setDown f true).homeLost f).modFace f (fun x => x.resetBegun s.hand.running)).faces := by
  unfold State.faceStopped
  split <;> rfl

theorem faceStopped_plays : (s.faceStopped f).plays = ((s.setDown f true).homeLost f).plays := by
  unfold State.faceStopped
  split <;> rfl

theorem setDown_home (i : Nat) : (s.setDown f true).rd R.SYN_TRICK_CFG.HOME i = s.rd R.SYN_TRICK_CFG.HOME i :=
  rd_wr_reg _ _ _ _ _ _ (by decide)

/-- The loss of the face as a home changes nothing but what `homeFields` lists, where no hand runs, and the plays of its tricks. -/
theorem homeLost_homeFields (s : State) (f : Nat) : s.Frame { s.homeLost f with plays := s.plays } (homeFields s f) [] ∧
    (s.homeLost f).faces = s.faces ∧
    ∀ i, s.hand.running = true ∨ s.rd R.SYN_TRICK_CFG.HOME i ≠ f → mget [] (s.homeLost f).plays i = mget [] s.plays i := by
  cases hr : s.hand.running with
  | true =>
    have hs : s.homeLost f = s := by rw [State.homeLost, hr]; rfl
    rw [hs]
    exact ⟨Frame.refl _ _ _, rfl, fun _ _ => rfl⟩
  | false =>
    obtain ⟨hframe, hfaces, hplays⟩ := homeLost_frame s f (homeFields s f) [] fun i hi hh => by
      have hm : i ∈ (List.range 256).filter (fun i => decide (s.rd R.SYN_TRICK_CFG.HOME i = f)) :=
        List.mem_filter.mpr ⟨List.mem_range.mpr hi, decide_eq_true hh⟩
      simp only [homeFields, hr, Bool.false_eq_true, if_false, List.mem_flatMap]
      exact ⟨⟨i, hm, by simp⟩, i, hm, by simp⟩
    exact ⟨hframe, hfaces, fun i hi => hplays i (hi.resolve_left (by simp))⟩

theorem homeFields_setDown : homeFields (s.setDown f true) f = homeFields s f := by
  simp only [homeFields, setDown_home]
  rfl

/-- The fields that a face reset changes as it begins. -/
def beginFields (s : State) (f : Nat) : List (Fld × Nat) := [(R.PLT_CAP_FACES.DOWN, 0), (R.PLT_FACE_RESET.BUSY, 0)] ++ homeFields s f

theorem startFaceReset_begins (h : MayReset s f) :
    ResetBegun s f (s.face f) (s.startFaceReset f) ∧ HomeGone s f (s.startFaceReset f) ∧
      s.Frame { s.startFaceReset f with hand := s.hand, plays := s.plays } (beginFields s f) [f] := by
  obtain ⟨hframe, hfaces, hplays⟩ := homeLost_homeFields (s.setDown f true) f
  rw [homeFields_setDown] at hframe
  have hrd (g : Fld) (i : Nat) (hg : g.reg ≠ .PLT_FACE_RESET) : (s.startFaceReset f).rd g i = ((s.setDown f true).homeLost f).rd g i := by
    rw [startFaceReset_may h, rd_wr_reg _ _ _ _ _ _ hg, faceStopped_rd]
  refine ⟨⟨?_, ?_, ?_, ?_⟩, ⟨fun hr i hi hh => ?_, fun i hi => ?_⟩, ?_⟩
  · rw [startFaceReset_may h, face_wr, State.face, faceStopped_faces]
    exact (face_modFace_same _ _ _).trans (congrArg (fun m => (mget {} m f).resetBegun s.hand.running) hfaces)
  · rw [hrd _ _ (by decide), homeLost_rd _ _ _ _ (by decide)]
    exact rd_wr_same _ _ _ _ (by decide)
  · rw [startFaceReset_may h, rd_wr_same _ _ _ _ (by decide), faceStopped_rd, homeLost_rd _ _ _ _ (by decide), State.setDown,
      rd_wr_reg _ _ _ _ _ _ (by decide)]
  · intro hr
    rw [startFaceReset_may h, State.wr_hand, State.faceStopped, if_pos hr]
  · obtain ⟨hcount, hrounds⟩ := homeLost_zero (s.setDown f true) f hr i hi ((setDown_home i).trans hh)
    exact ⟨(hrd _ _ (by decide)).trans hcount, (hrd _ _ (by decide)).trans hrounds⟩
  · rw [startFaceReset_may h, State.wr_plays, faceStopped_plays]
    exact hplays i (hi.imp_right fun k => by rwa [setDown_home])
  · have hdown : s.Frame (s.setDown f true) (beginFields s f) [f] := Frame.wr (Frame.refl _ _ _) (by simp [beginFields])
    have hlost := Frame.trans hdown (Frame.mono (fs' := beginFields s f) (gs' := [f]) hframe (fun e he => List.mem_append_right _ he) (by simp))
    have hstop : s.Frame { s.faceStopped f with hand := s.hand, plays := s.plays } (beginFields s f) [f] := by
      have hk := Frame.modFace (f := f) (g := fun x => x.resetBegun s.hand.running) hlost (by simp)
      unfold State.faceStopped
      split <;> exact ⟨hk.regs, hk.faces, (congrArg (fun (v : State) => { v with hand := s.hand }) hk.rest :)⟩
    rw [startFaceReset_may h]
    exact Frame.wr hstop (by simp [beginFields])

theorem bit_two_pow (f g : Nat) : bit (2 ^ f) g = decide (f = g) := by rw [bit_eq_testBit, Nat.testBit_two_pow]

theorem execFaceReset_one (hf : f < 8) : execFaceReset (2 ^ f) s = .next (s.startFaceReset f) := by
  refine congrArg Host.Outcome.next ((loop_one 8 f s _ hf fun t j _ hj => ?_).trans ?_)
  · simp [bit_two_pow, Ne.symm hj]
  · simp [bit_two_pow]

/-! ### AUTO_FACE_RESET (R552) -/

/-- A face notes that its automatic reset was due when the device had been powered for p hours. -/
def Face.autoNoted (x : Face) (p : Nat) : Face := { x with autoReset := none, autoTimes := x.autoTimes ++ [p] }

/-- Device time is at the instant `u` at which the automatic reset of face f was due, and the face has noted when. -/
def State.autoDue (s : State) (f u : Nat) : State :=
  (s.advance u).modFace f (fun x => x.autoNoted (s.rd R.FLT_HIST_STAT.POWERED 0))

theorem autoDue_face (s : State) (f u : Nat) : (s.autoDue f u).face f = (s.face f).autoNoted (s.rd R.FLT_HIST_STAT.POWERED 0) := face_modFace_same _ _ _

theorem autoDue_frame (s : State) (f u : Nat) (fs : List (Fld × Nat)) : s.Frame { s.autoDue f u with now := s.now } fs [f] :=
  ⟨RegsBut.refl s fs, fun g hg => face_modFace_other s f g (fun x => x.autoNoted (s.rd R.FLT_HIST_STAT.POWERED 0)) (fun e => hg (List.mem_singleton.mpr e)), rfl⟩

theorem mayReset_autoDue (h : MayReset s f) (u : Nat) : MayReset (s.autoDue f u) f :=
  ⟨h.face, by rw [autoDue_face]; exact h.not, h.powered, h.warm⟩

theorem execAutoFaceReset_due {u : Nat} (h : (s.face f).autoReset = some u) :
    execAutoFaceReset f s = .next ((s.autoDue f u).startFaceReset f) := by
  unfold execAutoFaceReset
  rw [h]
  rfl

theorem startFaceReset_now (h : MayReset s f) : (s.startFaceReset f).now = s.now := by
  obtain ⟨-, -, hframe⟩ := startFaceReset_begins h
  exact (congrArg State.now hframe.rest :)

theorem execAutoFaceReset_begins {u : Nat} (h : MayReset s f) (hu : (s.face f).autoReset = some u) :
    ∃ t, execAutoFaceReset f s = .next t ∧ t.now = max s.now u ∧
      ResetBegun s f { s.face f with autoReset := none, autoTimes := (s.face f).autoTimes ++ [s.rd R.FLT_HIST_STAT.POWERED 0] } t ∧
      HomeGone s f t ∧ s.Frame { t with hand := s.hand, now := s.now, plays := s.plays } (beginFields s f) [f] := by
  have hmay := mayReset_autoDue h u
  obtain ⟨⟨hface, hdown, hbusy, hmis⟩, ⟨hreset, hplays⟩, hframe⟩ := startFaceReset_begins hmay
  rw [autoDue_face] at hface
  have hdue := autoDue_frame s f u (beginFields s f)
  refine ⟨_, execAutoFaceReset_due hu, startFaceReset_now hmay, ⟨hface, hdown, hbusy, hmis⟩, ⟨hreset, hplays⟩, ?_⟩
  exact ⟨fun r i b hb => (hframe.regs r i b hb).trans (hdue.regs r i b hb), fun g hg => (hframe.faces g hg).trans (hdue.faces g hg),
    (congrArg (fun (v : State) => { v with now := s.now, faces := s.faces }) hframe.rest).trans hdue.rest⟩

/-! ### FACE_RESET_DONE (R596) -/

/-- A face whose reset is done: its sequencer is reset, and its counters and plays too where a hand runs, which it has failed as before. -/
def Face.resetEnded (x : Face) (running : Bool) : Face :=
  { (if running then x.rollback else x).resetSeq running with failed := x.failed, inReset := false, resetDone := true, endTime := none }

/-- The registers of face f are reset, and its cache is empty. -/
def State.faceCleared (s : State) (f : Nat) : State :=
  ((s.modFace f (fun x => x.resetEnded s.hand.running)).resetDomain .face (fun r i => decide (outerIx r i = f))).cacheClear f

theorem endFaceReset_eq (s : State) (f : Nat) : s.endFaceReset f =
    ((s.faceCleared f).wr R.PLT_FACE_RESET.BUSY 0 (setBit ((s.faceCleared f).rd R.PLT_FACE_RESET.BUSY 0) f false)).bump R.PLT_FACE_RESET.COUNT 0 :=
  rfl

theorem faceCleared_rd (hs : mwf resetAt s.regs = true) (g : Fld) (i : Nat) (hd : (regInfo g.reg).dom ≠ .face) (hg : g.reg ≠ .SPD_CACHE_STAT) :
    (s.faceCleared f).rd g i = s.rd g i :=
  (rd_wr_reg _ _ _ _ _ _ hg).trans (congrArg (fun w => fget w g.lo g.wd)
    (reg_resetDomain_ne (s.modFace f (fun x => x.resetEnded s.hand.running)) hs .face (fun r i => decide (outerIx r i = f)) g.reg i hd))

/-- The face as its reset leaves it, but for its cache, which is empty, and the lines that its emptying has counted. -/
theorem faceCleared_face (s : State) (f : Nat) : ∃ n, (s.faceCleared f).face f =
    { (s.face f).resetEnded s.hand.running with cache := [], invLines := n } := by
  have hreset : ((s.modFace f (fun x => x.resetEnded s.hand.running)).resetDomain .face (fun r i => decide (outerIx r i = f))).face f =
      (s.face f).resetEnded s.hand.running := face_modFace_same s f (fun x => x.resetEnded s.hand.running)
  unfold State.faceCleared State.cacheClear State.invalidated
  dsimp only
  rw [face_bumpBy, face_modFace_same, face_modFace_same, hreset]
  exact ⟨_, rfl⟩

theorem faceCleared_others (s : State) {f g : Nat} (hg : g ≠ f) : (s.faceCleared f).face g = s.face g := by
  have hreset : ((s.modFace f (fun x => x.resetEnded s.hand.running)).resetDomain .face (fun r i => decide (outerIx r i = f))).face g =
      s.face g := face_modFace_other s f g (fun x => x.resetEnded s.hand.running) hg
  unfold State.faceCleared State.cacheClear State.invalidated
  dsimp only
  rw [face_bumpBy, face_modFace_other _ _ _ _ hg, face_modFace_other _ _ _ _ hg, hreset]

theorem execFaceResetDone_ends (hin : (s.face f).inReset = true) (hst : (s.face f).started = []) (ht : s.ticking = true) (hs : s.Sound) :
    execFaceResetDone f s = .next (s.endFaceReset f) := by
  have hp : (s.endFaceReset f).rd R.SYN_TICK_PERIOD.PERIOD 0 = s.rd R.SYN_TICK_PERIOD.PERIOD 0 := by
    rw [endFaceReset_eq, rd_bump_apart _ _ _ _ _ (by decide), rd_wr_reg _ _ _ _ _ _ (by decide), faceCleared_rd hs.regs _ _ (by decide) (by decide)]
  have htick : (s.endFaceReset f).ticking = true := (ticking_congr hp rfl).trans ht
  refine congrArg Host.Outcome.next ((if_pos ⟨hin, hst⟩).trans (if_pos htick))

end Sys2Proof.Machine
end
section
open Sys2Proof Sys2Proof.Machine Sys2Proof.Claims

/-- Settles O44: FACE_RESET and AUTO_FACE_RESET begin the reset, and FACE_RESET_DONE ends it. -/
theorem faceResets : Obligations.FaceResets := by
  unfold Obligations.FaceResets
  intro s f
  refine ⟨fun h => ?_, fun u h hu => execAutoFaceReset_begins h hu, fun hin hst ht hs => ?_⟩
  · obtain ⟨hbegun, hhome, hframe⟩ := startFaceReset_begins h
    exact ⟨_, execFaceReset_one h.face.1, hbegun, hhome, hframe⟩
  · obtain ⟨n, hface⟩ := faceCleared_face s f
    have hend : (s.endFaceReset f).face f = { (s.face f).resetEnded s.hand.running with cache := [], invLines := n } := hface
    refine ⟨_, execFaceResetDone_ends hin hst ht hs, ?_⟩
    rw [hend]
    refine ⟨rfl, rfl, rfl, rfl, rfl, rfl, rfl, rfl, rfl, rfl, ?_, ?_, rfl, rfl, fun g hg => faceCleared_others s hg, ?_, ?_⟩
    · unfold Face.resetEnded; split <;> rfl
    · unfold Face.resetEnded; split <;> rfl
    · rw [endFaceReset_eq, rd_bump_apart _ _ _ _ _ (by decide), rd_wr_same _ _ _ _ (by decide), faceCleared_rd hs.regs _ _ (by decide) (by decide)]
    · rw [endFaceReset_eq, rd_bump_same _ _ _ (by decide), rd_wr_apart _ _ _ _ _ _ (by decide), faceCleared_rd hs.regs _ _ (by decide) (by decide)]
end

section
/-! Function-level resets, PERST_N and configuration requests (22_host_reset_startup.md R586, R594, R600). -/
namespace Sys2Proof.Machine
open Sys2Proof.Claims

variable {s : State}

/-! ### A function-level reset of PF0 -/

/-- The rings, the signals and the records of PF0 are gone, and its registers are at their reset values. -/
def State.pf0Reset (s : State) : State :=
  ({ s with rings := [], irqs := [], recs := [] } : State).resetDomain .function (fun r _ => regOfFn 0 r)

/-- No face's window is mirrored any more, and the stock moves in progress fail. -/
def State.mirrorsOff (s : State) : State := loop 8 s (fun t f => (t.wr R.SYN_MIRROR.EN f 0).modFace f Face.failMoves)

theorem mirrorsOff_beside (s : State) : RegsBeside [.SYN_MIRROR] s s.mirrorsOff :=
  loop_ind (P := RegsBeside [.SYN_MIRROR] s) _ _ _ (RegsBeside.refl _ _) fun _ _ _ h => h.wr

/-- What a change of registers and faces leaves of the work of PF0. -/
structure SamePf0Work (s t : State) : Prop where
  rings : t.rings = s.rings
  irqs : t.irqs = s.irqs
  recs : t.recs = s.recs
  prefixes : t.prefixes = s.prefixes

theorem mirrorsOff_work (s : State) : SamePf0Work s s.mirrorsOff :=
  loop_ind (P := SamePf0Work s) _ _ _ ⟨rfl, rfl, rfl, rfl⟩ fun _ _ _ h => ⟨h.rings, h.irqs, h.recs, h.prefixes⟩

theorem mirrorsOff_hif (s : State) : s.mirrorsOff.hif = s.hif :=
  loop_ind (P := fun t : State => t.hif = s.hif) _ _ _ rfl fun _ _ _ h => h

theorem mirrorsOff_en (s : State) : ∀ f < 8, s.mirrorsOff.rd R.SYN_MIRROR.EN f = 0 := by
  have hall (n : Nat) : ∀ f < n, (loop n s (fun t f => (t.wr R.SYN_MIRROR.EN f 0).modFace f Face.failMoves)).rd R.SYN_MIRROR.EN f = 0 := by
    induction n with
    | zero => intro f hf; omega
    | succ n ih =>
      intro f hf
      rw [loop_succ, rd_modFace]
      by_cases e : f = n
      · rw [e]; exact rd_wr_same _ _ _ _ (by decide)
      · rw [rd_wr_ix _ _ _ _ _ _ e]; exact ih f (by omega)
  exact hall 8

theorem reg_pf0Reset (hs : mwf resetAt s.regs = true) (r : RegId) (i : Nat) :
    s.pf0Reset.reg r i = if (regInfo r).dom = .function ∧ regOfFn 0 r = true then resetKeep r i (s.reg r i) else s.reg r i :=
  reg_resetDomain (s := { s with rings := [], irqs := [], recs := [] }) hs _ _ _ _

/-- The state that a function-level reset of PF0 leaves where it cuts nothing short and ticks run. -/
def State.pf0Gone (s : State) : State := s.pf0Reset.mirrorsOff.modHif (fun x => { x with flrFold := true })

theorem reg_pf0Gone (hs : mwf resetAt s.regs = true) {r : RegId} (i : Nat) (hr : r ≠ .SYN_MIRROR) :
    s.pf0Gone.reg r i = if (regInfo r).dom = .function ∧ regOfFn 0 r = true then resetKeep r i (s.reg r i) else s.reg r i :=
  (mirrorsOff_beside s.pf0Reset r (by simpa using hr) i).trans (reg_pf0Reset hs r i)

/-- A register of another domain stands. -/
theorem rd_pf0Gone (hs : mwf resetAt s.regs = true) (g : Fld) (i : Nat) (hg : g.reg ≠ .SYN_MIRROR) (hd : (regInfo g.reg).dom ≠ .function) :
    s.pf0Gone.rd g i = s.rd g i := by
  rw [State.rd, reg_pf0Gone hs i hg, if_neg (fun k => hd k.1)]
  rfl

theorem pf0Gone_work (s : State) : s.pf0Gone.rings = [] ∧ s.pf0Gone.irqs = [] ∧ s.pf0Gone.recs = [] :=
  ⟨(mirrorsOff_work s.pf0Reset).rings, (mirrorsOff_work s.pf0Reset).irqs, (mirrorsOff_work s.pf0Reset).recs⟩

theorem pf0Gone_mirror (s : State) (f : Nat) (hf : f < 8) : s.pf0Gone.rd R.SYN_MIRROR.EN f = 0 := mirrorsOff_en s.pf0Reset f hf

theorem dropInstalls_none (hp : s.prefixes = []) (hg : ∀ g < 64, s.rd R.DLR_GRAM_STATE.STATE g ≠ 1) : s.dropInstalls = s := by
  unfold State.dropInstalls
  rw [hp]
  exact loop_idle fun g hlt => if_neg (hg g hlt)

theorem flr0_nothingOpen (hs : mwf resetAt s.regs = true) (h : NothingOpen s) : s.flr0 = s.pf0Gone := by
  have hprefixes : s.pf0Reset.mirrorsOff.prefixes = [] := (mirrorsOff_work s.pf0Reset).prefixes.trans h.prefixes
  have hdrop : s.pf0Reset.mirrorsOff.dropInstalls = s.pf0Reset.mirrorsOff :=
    dropInstalls_none hprefixes fun g hg => (rd_pf0Gone hs R.DLR_GRAM_STATE.STATE g (by decide) (by decide)).symm ▸ h.grams g hg
  have hticks : s.pf0Gone.ticking = true := by
    simp [State.ticking, rd_pf0Gone hs R.SYN_TICK_PERIOD.PERIOD 0 (by decide) (by decide), h.ticks]
  have heq : s.flr0 = (s.pf0Reset.mirrorsOff.dropInstalls.modHif (fun x => { x with flrFold := true })).orNow State.bdyFlr := rfl
  rw [heq, hdrop]
  exact if_pos hticks

theorem regOfFn_zero {r : RegId} (h1 : r ≠ .FLT_HOST_RING) (h2 : r ≠ .FLT_HOST_HEAD) (h3 : r ≠ .HIF_PF2_APERTURE) : regOfFn 0 r = true := by
  simp [regOfFn, h1, h2, h3]

/-- A reset of PF0 is told by its rings, its signals, its mirrors and its registers, which a change of other registers leaves. -/
theorem flr0_pf0Gone {t : State} (hs : mwf resetAt s.regs = true) (hr : t.rings = s.pf0Gone.rings) (hi : t.irqs = s.pf0Gone.irqs)
    (hq : t.recs = s.pf0Gone.recs) (hf : t.hif.flrFold = true) (hm : ∀ i, t.reg .SYN_MIRROR i = s.pf0Gone.reg .SYN_MIRROR i)
    (hreg : ∀ r i, (regInfo r).dom = .function → regOfFn 0 r = true → t.reg r i = s.pf0Gone.reg r i) : Flr0 s t := by
  obtain ⟨hrings, hirqs, hrecs⟩ := pf0Gone_work s
  refine ⟨hr.trans hrings, hi.trans hirqs, hq.trans hrecs, hf, fun f hlt => ?_, fun r i hd h1 h2 h3 => ?_⟩
  · have hword := hm f
    rw [State.rd, show t.reg R.SYN_MIRROR.EN.reg f = _ from hword]
    exact pf0Gone_mirror s f hlt
  · have hfn := regOfFn_zero h1 h2 h3
    rw [hreg r i hd hfn, reg_pf0Gone hs i (fun e => by subst e; cases hd), if_pos ⟨hd, hfn⟩]

/-! ### FUNCTION_LEVEL_RESET (R594) -/

theorem execFunctionLevelReset_pf0 (hs : s.Sound) (hp : s.hif.perstLow = false) (hd : s.dead = false) (h : NothingOpen s) :
    ∃ t, execFunctionLevelReset 0 s = .next t ∧ Flr0 s t ∧
      t.rd R.HIF_RESET_STAT.FLR0 0 = min (s.rd R.HIF_RESET_STAT.FLR0 0 + 1) (2 ^ R.HIF_RESET_STAT.FLR0.wd - 1) := by
  refine ⟨s.pf0Gone.bump R.HIF_RESET_STAT.FLR0 0, ?_, flr0_pf0Gone hs.regs rfl rfl rfl rfl (fun i => ?_) (fun r i hdom _ => ?_), ?_⟩
  · rw [← flr0_nothingOpen hs.regs h]
    exact congrArg Host.Outcome.next ((if_neg (by simp [hp, hd])).trans (if_pos rfl))
  · exact reg_bump_ne _ _ _ _ _ (by decide)
  · exact reg_bump_ne _ _ _ _ _ (fun e => by subst e; cases hdom)
  · rw [rd_bump_same _ _ _ (by decide), rd_pf0Gone hs.regs _ _ (by decide) (by decide)]

/-- A function-level reset of PF1 has nothing to end where no program is LOADING and no image is open. -/
theorem flr1_idle (hprog : ∀ f < s.nFaces, s.rd R.FCE_PROG_STATE.STATE f ≠ 1) (himg : s.rd R.PLT_WIMG_STATE.STATE 0 ≠ 1) : s.flr1 = s := by
  have hloop : loop s.nFaces s (fun u f => if u.progState f = 1 then (u.progRefuse f 12 0).setProg f 0 else u) = s :=
    loop_idle fun f hf => if_neg (hprog f hf)
  unfold State.flr1
  rw [hloop]
  exact if_neg himg

theorem execFunctionLevelReset_pf1 (hp : s.hif.perstLow = false) (hd : s.dead = false) (h : NothingOpen s) :
    execFunctionLevelReset 1 s = .next (s.bump R.HIF_RESET_STAT.FLR1 0) := by
  refine congrArg Host.Outcome.next (((if_neg (by simp [hp, hd])).trans (if_neg (by decide))).trans ((if_pos rfl).trans ?_))
  rw [flr1_idle h.programs h.image]

theorem regOfFn_two (r : RegId) : regOfFn 2 r = decide (r = .FLT_HOST_RING ∨ r = .FLT_HOST_HEAD ∨ r = .HIF_PF2_APERTURE) := by
  simp [regOfFn]

/-- The registers of PF2 are those that its reset names. -/
theorem reg_flr2 (hs : mwf resetAt s.regs = true) (r : RegId) (i : Nat) : s.flr2.reg r i =
    if r = .FLT_HOST_RING ∨ r = .FLT_HOST_HEAD ∨ r = .HIF_PF2_APERTURE then resetKeep r i (s.reg r i) else s.reg r i := by
  have hdom : ((regInfo r).dom = .function ∧ regOfFn 2 r = true) ↔ (r = .FLT_HOST_RING ∨ r = .FLT_HOST_HEAD ∨ r = .HIF_PF2_APERTURE) := by
    rw [regOfFn_two, decide_eq_true_eq]
    refine ⟨And.right, fun h => ⟨?_, h⟩⟩
    rcases h with rfl | rfl | rfl <;> rfl
  refine (reg_resetDomain (s := { s with hostIrqAt := none }) hs .function (fun r _ => regOfFn 2 r) r i).trans ?_
  simp only [hdom]
  rfl

theorem execFunctionLevelReset_pf2 (hp : s.hif.perstLow = false) (hd : s.dead = false) :
    execFunctionLevelReset 2 s = .next (s.flr2.bump R.HIF_RESET_STAT.FLR2 0) :=
  congrArg Host.Outcome.next ((if_neg (by simp [hp, hd])).trans ((if_neg (by decide)).trans ((if_neg (by decide)).trans (if_pos rfl))))

/-! ### HOST_RESET (R594) -/

/-- PERST_N is low, and the link is down. -/
def State.linkDown (s : State) : State :=
  (((s.modHif (fun x => { x with perstLow := true, ready := false })).wr R.HIF_LINK.RATE 0 0).wr R.HIF_LINK.WIDTH 0 0).wr R.HIF_LINK.FLIT 0 0

theorem linkDown_beside (s : State) : RegsBeside [.HIF_LINK] s s.linkDown :=
  (((RegsBeside.refl [.HIF_LINK] (s.modHif (fun x => { x with perstLow := true, ready := false }))).wr).wr).wr

theorem linkDown_rate (s : State) : s.linkDown.rd R.HIF_LINK.RATE 0 = 0 :=
  (rd_wr_apart _ _ _ _ _ _ (by decide)).trans ((rd_wr_apart _ _ _ _ _ _ (by decide)).trans (rd_wr_same _ _ _ _ (by decide)))

theorem linkDown_width (s : State) : s.linkDown.rd R.HIF_LINK.WIDTH 0 = 0 :=
  (rd_wr_apart _ _ _ _ _ _ (by decide)).trans (rd_wr_same _ _ _ _ (by decide))

theorem linkDown_flit (s : State) : s.linkDown.rd R.HIF_LINK.FLIT 0 = 0 := rd_wr_same _ _ _ _ (by decide)

theorem nothingOpen_linkDown (h : NothingOpen s) : NothingOpen s.linkDown := by
  have hb := linkDown_beside s
  have hn : s.linkDown.nFaces = s.nFaces := hb.rd R.PLT_CAP_FACES.COUNT 0
  refine ⟨h.prefixes, fun g hg => ?_, fun f hf => ?_, ?_, ?_⟩
  · exact (hb.rd R.DLR_GRAM_STATE.STATE g).symm ▸ h.grams g hg
  · exact (hb.rd R.FCE_PROG_STATE.STATE f).symm ▸ h.programs f (hn ▸ hf)
  · exact (hb.rd R.PLT_WIMG_STATE.STATE 0).symm ▸ h.image
  · exact (hb.rd R.SYN_TICK_PERIOD.PERIOD 0).symm ▸ h.ticks

theorem linkDown_regs_wf (hs : mwf resetAt s.regs = true) : mwf resetAt s.linkDown.regs = true :=
  wr_regs_wf (wr_regs_wf (wr_regs_wf (s := s.modHif (fun x => { x with perstLow := true, ready := false })) hs))

theorem execHostReset_resets (hs : s.Sound) (hp : s.hif.perstLow = false) (h : NothingOpen s) :
    execHostReset s = .next (s.linkDown.pf0Gone.flr2.bump R.HIF_RESET_STAT.HOST 0) := by
  have hwf := linkDown_regs_wf hs.regs
  have hopen := nothingOpen_linkDown h
  have hrd (g : Fld) (i : Nat) (hg : g.reg ≠ .SYN_MIRROR) (hdom : (regInfo g.reg).dom ≠ .function) : s.linkDown.pf0Gone.rd g i = s.linkDown.rd g i :=
    rd_pf0Gone hwf g i hg hdom
  have hn : s.linkDown.pf0Gone.nFaces = s.linkDown.nFaces := hrd _ _ (by decide) (by decide)
  have hflr1 : s.linkDown.pf0Gone.flr1 = s.linkDown.pf0Gone := by
    refine flr1_idle (fun f hf => ?_) ?_
    · rw [hrd _ _ (by decide) (by decide)]; exact hopen.programs f (hn ▸ hf)
    · rw [hrd _ _ (by decide) (by decide)]; exact hopen.image
  have heq : execHostReset s = .next (if s.hif.perstLow then s else s.linkDown.flr0.flr1.flr2.bump R.HIF_RESET_STAT.HOST 0) := rfl
  rw [heq, hp, flr0_nothingOpen hwf hopen, hflr1]
  rfl

/-- A register that PF2's reset does not name stands. -/
theorem reg_flr2_kept (r : RegId) (i : Nat) (h : (regInfo r).dom ≠ .function ∨ regOfFn 2 r = false) : s.flr2.reg r i = s.reg r i := by
  refine reg_resetWhere_kept ({ s with hostIrqAt := none } : State) ?_
  rcases h with h | h
  · simp [h]
  · simp [h]

/-- The registers of none of the three functions stand as they did with the link down. -/
theorem rd_hostReset (hs : s.Sound) (g : Fld) (i : Nat) (hg : g.reg ≠ .SYN_MIRROR) (hdom : (regInfo g.reg).dom ≠ .function) :
    s.linkDown.pf0Gone.flr2.rd g i = s.linkDown.rd g i :=
  Eq.trans (congrArg (fun w => fget w g.lo g.wd) (reg_flr2_kept g.reg i (.inl hdom))) (rd_pf0Gone (linkDown_regs_wf hs.regs) g i hg hdom)

theorem regOfFn_disjoint {r : RegId} (h : regOfFn 0 r = true) : regOfFn 2 r = false := by
  rw [regOfFn_two]
  simpa [regOfFn] using h

/-- PF0's part of HOST_RESET (R594). -/
theorem flr0_hostReset (hs : s.Sound) : Flr0 s (s.linkDown.pf0Gone.flr2.bump R.HIF_RESET_STAT.HOST 0) := by
  have hwf := linkDown_regs_wf hs.regs
  have hflr : Flr0 s.linkDown (s.linkDown.pf0Gone.flr2.bump R.HIF_RESET_STAT.HOST 0) := by
    refine flr0_pf0Gone hwf rfl rfl rfl rfl (fun i => ?_) (fun r i hdom hfn => ?_)
    · exact (reg_bump_ne _ _ _ _ _ (by decide)).trans (reg_flr2_kept _ _ (.inl (by decide)))
    · exact (reg_bump_ne _ _ _ _ _ (fun e => by subst e; cases hdom)).trans (reg_flr2_kept _ _ (.inr (regOfFn_disjoint hfn)))
  refine ⟨hflr.rings, hflr.irqs, hflr.recs, hflr.fold, hflr.mirror, fun r i hdom h1 h2 h3 => (hflr.regs r i hdom h1 h2 h3).trans ?_⟩
  rw [linkDown_beside s r (fun e => by simp at e; subst e; cases hdom) i]

/-! ### PERST_RELEASE and CONFIG_REQUEST (R586, R600) -/

theorem execConfigRequest_answers (fn : Nat) (hp : s.hif.perstLow = false) (hd : s.dead = false) :
    execConfigRequest fn s = .next (s.emit (.pcie (if s.hif.ready then [0, fn, 1] ++ pcieFn fn else [0, fn, 0]))) := by
  refine congrArg Host.Outcome.next ((if_neg (by simp [hp, hd])).trans ?_)
  split <;> rfl

/-- PERST_N is high, and the link has trained to a rate, a width and a mode. -/
def State.linkTrained (s : State) (rate width : Nat) (flit : Bool) : State :=
  ((((s.modHif (fun x => { x with perstLow := false })).wr R.HIF_LINK.RATE 0 rate).wr R.HIF_LINK.WIDTH 0 width).wrB R.HIF_LINK.FLIT 0 flit).modHif
    (fun x => { x with ready := true })

theorem execPerstRelease_trains (hp : s.hif.perstLow = true) (hd : s.domOn 28 = true) (rate width : Nat) (flit : Bool) :
    execPerstRelease rate width flit s = .next ((s.linkTrained rate width flit).emit (.pcie [1])) := by
  have hon : (s.modHif (fun x => { x with perstLow := false })).domOn 28 = true := hd
  refine congrArg Host.Outcome.next ((if_pos hp).trans (if_neg ?_))
  rintro (k | k)
  · cases k
  · rw [hon] at k; cases k

/-- What HOST_RESET leaves (R594). -/
theorem execHostReset_leaves (hs : s.Sound) (hp : s.hif.perstLow = false) (h : NothingOpen s) :
    ∃ t, execHostReset s = .next t ∧ Flr0 s t ∧ t.hostIrqAt = none ∧ t.hif.perstLow = true ∧ t.hif.ready = false ∧
      t.rd R.HIF_LINK.RATE 0 = 0 ∧ t.rd R.HIF_LINK.WIDTH 0 = 0 ∧ t.rd R.HIF_LINK.FLIT 0 = 0 ∧
      t.rd R.HIF_RESET_STAT.HOST 0 = min (s.rd R.HIF_RESET_STAT.HOST 0 + 1) (2 ^ R.HIF_RESET_STAT.HOST.wd - 1) := by
  have hhif : s.linkDown.pf0Gone.flr2.hif = { s.linkDown.pf0Reset.mirrorsOff.hif with flrFold := true } := rfl
  have hkept : s.linkDown.pf0Reset.mirrorsOff.hif = s.linkDown.hif := mirrorsOff_hif s.linkDown.pf0Reset
  have hlink (g : Fld) (hg : g.reg = .HIF_LINK) : (s.linkDown.pf0Gone.flr2.bump R.HIF_RESET_STAT.HOST 0).rd g 0 = s.linkDown.rd g 0 := by
    rw [State.rd, reg_bump_ne _ _ _ _ _ (by rw [hg]; decide), ← State.rd, rd_hostReset hs g 0 (by rw [hg]; decide) (by rw [hg]; decide)]
  refine ⟨_, execHostReset_resets hs hp h, flr0_hostReset hs, rfl, ?_, ?_, ?_, ?_, ?_, ?_⟩
  · exact (congrArg Hif.perstLow (hhif.trans (by rw [hkept])) :)
  · exact (congrArg Hif.ready (hhif.trans (by rw [hkept])) :)
  · rw [hlink _ rfl]; exact linkDown_rate s
  · rw [hlink _ rfl]; exact linkDown_width s
  · rw [hlink _ rfl]; exact linkDown_flit s
  · rw [rd_bump_same _ _ _ (by decide), rd_hostReset hs _ _ (by decide) (by decide), (linkDown_beside s).rd R.HIF_RESET_STAT.HOST 0]

/-- What the release of PERST_N leaves (R586). -/
theorem linkTrained_frame (rate width : Nat) (flit : Bool) :
    s.Frame { (s.linkTrained rate width flit).emit (.pcie [1]) with hif := s.hif, out := s.out }
      [(R.HIF_LINK.RATE, 0), (R.HIF_LINK.WIDTH, 0), (R.HIF_LINK.FLIT, 0)] [] := by
  have h : (s.modHif (fun x => { x with perstLow := false })).Frame
      ((((s.modHif (fun x => { x with perstLow := false })).wr R.HIF_LINK.RATE 0 rate).wr R.HIF_LINK.WIDTH 0 width).wrB R.HIF_LINK.FLIT 0 flit)
      [(R.HIF_LINK.RATE, 0), (R.HIF_LINK.WIDTH, 0), (R.HIF_LINK.FLIT, 0)] [] :=
    Frame.wrB (Frame.wr (Frame.wr (Frame.refl _ _ _) (by simp)) (by simp)) (by simp)
  exact ⟨h.regs, h.faces, congrArg (fun v : State => { v with hif := s.hif, out := s.out }) h.rest⟩

theorem linkTrained_reads (rate width : Nat) (flit : Bool) :
    (s.linkTrained rate width flit).rd R.HIF_LINK.RATE 0 = rate % 2 ^ R.HIF_LINK.RATE.wd ∧
    (s.linkTrained rate width flit).rd R.HIF_LINK.WIDTH 0 = width % 2 ^ R.HIF_LINK.WIDTH.wd ∧
    (s.linkTrained rate width flit).rd R.HIF_LINK.FLIT 0 = (if flit then 1 else 0) := by
  refine ⟨?_, ?_, rd_wrB_same _ _ _ _ (by decide) (by decide)⟩
  · exact (rd_wrB_apart _ _ _ _ _ _ (by decide)).trans ((rd_wr_apart _ _ _ _ _ _ (by decide)).trans (rd_wr_same _ _ _ _ (by decide)))
  · exact (rd_wrB_apart _ _ _ _ _ _ (by decide)).trans (rd_wr_same _ _ _ _ (by decide))

/-- What a function-level reset of PF2 leaves (R594). -/
theorem execFunctionLevelReset_pf2_leaves (hs : s.Sound) (hp : s.hif.perstLow = false) (hd : s.dead = false) :
    ∃ t, execFunctionLevelReset 2 s = .next t ∧ t.hostIrqAt = none ∧ { t with regs := s.regs, hostIrqAt := s.hostIrqAt } = s ∧
      t.rd R.HIF_RESET_STAT.FLR2 0 = min (s.rd R.HIF_RESET_STAT.FLR2 0 + 1) (2 ^ R.HIF_RESET_STAT.FLR2.wd - 1) ∧
      ∀ r i, r ≠ .HIF_RESET_STAT → t.reg r i =
        if r = .FLT_HOST_RING ∨ r = .FLT_HOST_HEAD ∨ r = .HIF_PF2_APERTURE then resetKeep r i (s.reg r i) else s.reg r i := by
  refine ⟨_, execFunctionLevelReset_pf2 hp hd, rfl, rfl, ?_, fun r i hr => ?_⟩
  · rw [rd_bump_same _ _ _ (by decide)]
    have hkept : s.flr2.rd R.HIF_RESET_STAT.FLR2 0 = s.rd R.HIF_RESET_STAT.FLR2 0 :=
      congrArg (fun w => fget w R.HIF_RESET_STAT.FLR2.lo R.HIF_RESET_STAT.FLR2.wd) (reg_flr2_kept R.HIF_RESET_STAT.FLR2.reg 0 (.inl (by decide)))
    rw [hkept]
  · exact (reg_bump_ne _ _ _ _ _ hr).trans (reg_flr2 hs.regs r i)

end Sys2Proof.Machine
end

section
open Sys2Proof Sys2Proof.Machine Sys2Proof.Claims

/-- Settles O43, from what each reset of the host interface leaves: the registers of its functions by their domain, the mirrors by the loop that
ends them, and nothing else, since nothing open is cut short. -/
theorem hostResets : Obligations.HostResets := by
  unfold Obligations.HostResets
  intro s
  refine ⟨fun hp hd hs => ⟨fun ho => execFunctionLevelReset_pf0 hs hp hd ho, fun ho => ⟨_, execFunctionLevelReset_pf1 hp hd ho, ?_, ?_⟩,
    execFunctionLevelReset_pf2_leaves hs hp hd, fun ho => execHostReset_leaves hs hp ho,
    fun fn => ⟨_, execConfigRequest_answers fn hp hd, rfl, rfl⟩⟩, fun hp hd rate width flit => ?_⟩
  · exact Frame.bump (Frame.refl _ _ _) (by simp)
  · exact rd_bump_same _ _ _ (by decide)
  · obtain ⟨hrate, hwidth, hflit⟩ := linkTrained_reads (s := s) rate width flit
    exact ⟨_, execPerstRelease_trains hp hd rate width flit, rfl, rfl, hrate, hwidth, hflit, linkTrained_frame rate width flit⟩

end

section
/-! Cold resets and the boot (22_host_reset_startup.md R592, R593, R598, R599, R621; 21_power_thermal_housekeeping.md R576). -/
namespace Sys2Proof.Machine
open Sys2Proof.Claims

variable {s : State} {b : Boot}

/-! ### The boot (R598, R599, R621) -/

/-- Firmware slot i holds an image that the ROM starts (R599). -/
def State.fwGood (s : State) (i : Nat) : Bool :=
  (mget {} s.mgmt.fw i).good && decide ((mget {} s.mgmt.fw i).version ≥ s.mgmt.rollback)

/-- The slot that the ROM tries first. -/
def State.fwFirst (s : State) : Nat := if (mget {} s.mgmt.fw 1).version > (mget {} s.mgmt.fw 0).version then 1 else 0

theorem fwPick_eq (s : State) : s.fwPick =
    if s.fwGood s.fwFirst then some (s.fwFirst, false) else if s.fwGood (1 - s.fwFirst) then some (1 - s.fwFirst, true) else none := rfl

theorem noFirmware_iff (s : State) : NoFirmware s ↔ s.fwGood 0 = false ∧ s.fwGood 1 = false := by
  simp only [NoFirmware, State.fwGood, Bool.and_eq_false_iff, decide_eq_false_iff_not, ge_iff_le, not_le]
  constructor
  · intro h
    have hslot : ∀ i < 2, (mget {} s.mgmt.fw i).good = false ∨ (mget {} s.mgmt.fw i).version < s.mgmt.rollback := fun i hi => by
      cases hg : (mget {} s.mgmt.fw i).good with
      | false => exact .inl rfl
      | true => exact .inr (h i hi hg)
    exact ⟨hslot 0 (by decide), hslot 1 (by decide)⟩
  · rintro ⟨h0, h1⟩ i hi hg
    obtain rfl | rfl : i = 0 ∨ i = 1 := by omega
    · exact h0.resolve_left (by simp [hg])
    · exact h1.resolve_left (by simp [hg])

theorem fwPick_none_iff (s : State) : s.fwPick = none ↔ NoFirmware s := by
  rw [fwPick_eq, noFirmware_iff]
  have hfirst : s.fwFirst = 0 ∨ s.fwFirst = 1 := by unfold State.fwFirst; split <;> simp
  rcases hfirst with e | e <;> rw [e] <;> cases s.fwGood 0 <;> cases s.fwGood 1 <;> simp

/-- Firmware and fuse decide alone whether a slot starts. -/
theorem noFirmware_congr {t : State} (hf : t.mgmt.fw = s.mgmt.fw) (hr : t.mgmt.rollback = s.mgmt.rollback) : NoFirmware t ↔ NoFirmware s := by
  rw [NoFirmware, NoFirmware, hf, hr]

theorem boot_stops (h : NoFirmware s ∨ b.vioLate = true) : s.boot b = s.bootStep 2 := by
  have hnone : (if b.vioLate then none else (s.bootStep 2).fwPick) = none := by
    cases hv : b.vioLate with
    | true => rfl
    | false =>
      have hno := h.resolve_right (by simp [hv])
      exact (fwPick_none_iff _).mpr ((noFirmware_congr rfl rfl).mpr hno)
  simp only [State.boot, hnone]

/-- The state at step 4 of a boot, with firmware from slot `slot` (R598 B3, B4). -/
def State.bootFour (s : State) (b : Boot) (slot : Nat) (fb : Bool) : State :=
  ((((((s.bootStep 2).wr R.PLT_BOOT_STATE.FW_SLOT 0 slot).wrB R.PLT_BOOT_STATE.FALLBACK 0 fb).wr R.LNK_DEV_ADDR.ADDR 0 b.addr).bootStep 3).bootConverter
    b.factors).bootStep 4

/-- The state at the end of step 8 of a boot that goes on after step 4 (R598 B5 to B8). -/
def State.bootEight (s : State) (b : Boot) : State :=
  ((((((s.bootStep 5).bootDomains b).bootStep 6).bootMemory.bootStep 7).bootCopies b.drift).permAgain).bootStep 8

/-- With firmware that starts and VIO on time the boot reaches step 4, and goes on where every rail is in tolerance. -/
theorem boot_goesOn (h : ¬ NoFirmware s) (hv : b.vioLate = false) :
    ∃ slot fb, s.boot b = if b.badRail then s.bootFour b slot fb else ((s.bootFour b slot fb).bootEight b).bootEnd b := by
  obtain ⟨p, hp⟩ := Option.ne_none_iff_exists'.mp (fun e => h ((noFirmware_congr rfl rfl).mp ((fwPick_none_iff (s.bootStep 2)).mp e)))
  refine ⟨p.1, p.2, ?_⟩
  simp only [State.boot, hv, hp]
  rfl

theorem bootEnd_booted : Booted b (s.bootEnd b) where
  step := rd_wr_same _ _ _ _ (by decide)
  ready := (rd_wr_apart _ _ _ _ _ _ (by decide)).trans (rd_wr_same _ _ _ _ (by decide))
  took := (rd_wr_apart _ _ _ _ _ _ (by decide)).trans ((rd_wr_apart _ _ _ _ _ _ (by decide)).trans (rd_wr_same _ _ _ _ (by decide)))
  told := ⟨s.out, rfl⟩

theorem boot_badRail (h : ¬ NoFirmware s) (hv : b.vioLate = false) (hr : b.badRail = true) : (s.boot b).rd R.PLT_BOOT_STATE.STEP 0 = 4 := by
  obtain ⟨slot, fb, e⟩ := boot_goesOn h hv
  rw [e, if_pos hr]
  exact rd_wr_same _ _ _ _ (by decide)

theorem boot_booted (h : ¬ NoFirmware s) (hv : b.vioLate = false) (hr : b.badRail = false) : Booted b (s.boot b) := by
  obtain ⟨slot, fb, e⟩ := boot_goesOn h hv
  rw [e, if_neg (by simp [hr])]
  exact bootEnd_booted

/-! ### The state after a cold reset (R593) -/

/-- A map built over 0 to n-1 holds at each of them what it was built from, and nothing else. -/
theorem mget_foldl_range {α : Type} [DecidableEq α] (d : α) (g : Nat → α) (n k : Nat) :
    mget d ((List.range n).foldl (fun m f => mset d m f (g f)) []) k = if k < n then g k else d := by
  induction n with
  | zero => rfl
  | succ n ih =>
    rw [List.range_succ, List.foldl_append, List.foldl_cons, List.foldl_nil]
    by_cases e : k = n
    · rw [e, mget_mset_same, if_pos (Nat.lt_succ_self n)]
    · rw [mget_mset_other _ _ _ _ _ _ e, ih]
      simp only [show k < n + 1 ↔ k < n by omega]

theorem coldBase_face (s : State) {f : Nat} (hf : f < 8) : s.coldBase.face f = { wsets := (s.face f).wsets } := by
  simp only [State.coldBase, State.face]
  exact (mget_foldl_range ({} : Face) (fun f => ({ wsets := (s.face f).wsets } : Face)) 8 f).trans (if_pos hf)

theorem coldBase_reg (hs : s.Sound) (r : RegId) (i : Nat) : s.coldBase.reg r i = resetKeep r i (s.reg r i) := by
  have hwhere := reg_resetWhere s (fun _ _ => true) ((mwf_iff _ _).mp hs.regs).2 r i
  rw [if_pos rfl] at hwhere
  exact (congrArg (fun m => mget (resetWord r i) m (regKey r i)) (coldBase_regs s)).trans hwhere

/-- Numbering the faces anew writes the two registers that say how they are numbered. -/
theorem coldState_reg (hs : s.Sound) {r : RegId} (i : Nat) (h1 : r ≠ .LNK_BYP_CTL) (h2 : r ≠ .PLT_CAP_FACES) (h3 : r ≠ .PLT_FACE_MAP) :
    s.coldState.reg r i = resetKeep r i (s.reg r i) := by
  rw [State.coldState, reg_wr_ne _ _ _ _ _ _ h1, State.numberFaces, reg_setReg_ne _ _ _ _ _ _ h3, reg_wr_ne _ _ _ _ _ _ h2, reg_wr_ne _ _ _ _ _ _ h2,
    coldBase_reg hs]

theorem coldBase_fuses (hs : s.Sound) : s.coldBase.fuses = s.fuses := by
  have hmap : s.coldBase.reg .PLT_FACE_MAP 0 = s.reg .PLT_FACE_MAP 0 := (coldBase_reg hs _ _).trans (keepMask_all _ rfl _ _)
  have hunits : s.coldBase.reg .PLT_CAP_UNITS 0 = s.reg .PLT_CAP_UNITS 0 := (coldBase_reg hs _ _).trans (keepMask_all _ rfl _ _)
  have hfaces : fget (s.coldBase.reg .PLT_CAP_FACES 0) 0 20 = fget (s.reg .PLT_CAP_FACES 0) 0 20 :=
    (congrArg (fun w => fget w 0 20) (coldBase_reg hs _ _)).trans (resetKeep_kept _ _ 0 20 _ (by decide) (by decide))
  rw [State.fuses, hmap, hunits, hfaces]
  rfl

theorem coldState_fuses (hs : s.Sound) : s.coldState.fuses = s.fuses := by
  obtain ⟨m, hm, e⟩ := hs.fuses
  have hbase := coldBase_fuses hs
  have hnumbered : s.coldBase.numberFaces.fuses = s.coldBase.fuses := numberFaces_fuses _ m hm (hbase.trans e)
  refine Eq.trans ?_ (hnumbered.trans hbase)
  simp only [State.coldState, State.fuses]
  rw [reg_wr_ne _ _ _ _ _ _ (by decide), reg_wr_ne _ _ _ _ _ _ (by decide), reg_wr_ne _ _ _ _ _ _ (by decide)]

theorem bootStep_fuses (s : State) (n : Nat) : (s.bootStep n).fuses = s.fuses := by
  simp only [State.bootStep, State.fuses]
  rw [reg_wr_ne _ _ _ _ _ _ (by decide), reg_wr_ne _ _ _ _ _ _ (by decide), reg_wr_ne _ _ _ _ _ _ (by decide)]

/-- The state at which a boot stops that finds no firmware: what R593 says a cold reset leaves. -/
structure ColdLeft (s t : State) : Prop where
  work : t.now = 0 ∧ t.hbm = [] ∧ t.faultq = [] ∧ t.seats = [] ∧ t.antes = [] ∧ t.hand = {}
  faces : ∀ f < 8, t.face f = { wsets := (s.face f).wsets }
  kept : t.arrays = s.arrays ∧ t.hist = s.hist ∧ t.nvLog = s.nvLog ∧ t.imgKeys = s.imgKeys
  mgmt : t.mgmt.ops = s.mgmt.ops ∧ t.mgmt.fw = s.mgmt.fw ∧ t.mgmt.rollback = s.mgmt.rollback
  fuses : t.fuses = s.fuses
  regs : ∀ r i, r ∉ [.PLT_BOOT_STATE, .LNK_BYP_CTL, .PLT_CAP_FACES, .PLT_FACE_MAP] → t.reg r i = resetKeep r i (s.reg r i)

theorem coldState_work (s : State) : (s.coldState.bootStep 2).now = 0 ∧ (s.coldState.bootStep 2).hbm = [] ∧ (s.coldState.bootStep 2).faultq = [] ∧
    (s.coldState.bootStep 2).seats = [] ∧ (s.coldState.bootStep 2).antes = [] ∧ (s.coldState.bootStep 2).hand = {} := ⟨rfl, rfl, rfl, rfl, rfl, rfl⟩

theorem coldState_kept (s : State) : (s.coldState.bootStep 2).arrays = s.arrays ∧ (s.coldState.bootStep 2).hist = s.hist ∧
    (s.coldState.bootStep 2).nvLog = s.nvLog ∧ (s.coldState.bootStep 2).imgKeys = s.imgKeys := ⟨rfl, rfl, rfl, rfl⟩

theorem coldState_mgmt (s : State) : (s.coldState.bootStep 2).mgmt.ops = s.mgmt.ops ∧ (s.coldState.bootStep 2).mgmt.fw = s.mgmt.fw ∧
    (s.coldState.bootStep 2).mgmt.rollback = s.mgmt.rollback := ⟨rfl, rfl, rfl⟩

theorem numberFaces_face (s : State) (f : Nat) : s.numberFaces.face f = s.face f := rfl

theorem coldState_face (s : State) {f : Nat} (hf : f < 8) : (s.coldState.bootStep 2).face f = { wsets := (s.face f).wsets } := by
  rw [State.bootStep, face_wr, State.coldState, face_wr, numberFaces_face, coldBase_face s hf]

theorem coldState_left (hs : s.Sound) : ColdLeft s (s.coldState.bootStep 2) where
  work := coldState_work s
  faces _ hf := coldState_face s hf
  kept := coldState_kept s
  mgmt := coldState_mgmt s
  fuses := (bootStep_fuses _ _).trans (coldState_fuses hs)
  regs r i h := by
    simp only [List.mem_cons, List.not_mem_nil, or_false, not_or] at h
    obtain ⟨h1, h2, h3, h4⟩ := h
    exact (reg_wr_ne _ _ _ _ _ _ h1).trans (coldState_reg hs i h2 h3 h4)

theorem noFirmware_coldState (s : State) : NoFirmware s.coldState ↔ NoFirmware s := noFirmware_congr rfl rfl

/-! ### COLD_RESET and THERMAL_COOL (R576, R592) -/

theorem coldReset_held (hd : s.dead = true) (hh : s.anyHot = true) : s.coldReset b = { s with coldHeld := true } := if_pos ⟨hd, hh⟩

theorem coldReset_boots (h : s.dead = true → s.anyHot = false) : s.coldReset b = s.coldState.boot b :=
  if_neg fun k => absurd k.2 (by simp [h k.1])

/-- The three cold resets are one (R592). -/
theorem exec_coldReset {c : Instr} (hc : c ∈ [Instr.powerOn b, .coldReset b, .coldResetReq b]) : exec c s = .next (s.coldReset b) := by
  simp only [List.mem_cons, List.not_mem_nil, or_false] at hc
  rcases hc with rfl | rfl | rfl <;> rfl

/-- No comparator reads 105 °C. -/
def State.cooled (s : State) : State :=
  s.modPower (fun x => { x with sens := x.sens.foldl (fun m e => mset {} m e.1 { e.2 with hot := false }) [] })

/-- A sensor that is not hot, set among such, leaves only such. -/
theorem mset_cool {m : SMap Sens} {k : Nat} {v : Sens} (hm : ∀ e ∈ m, e.2.hot = false) (hv : v.hot = false) : ∀ e ∈ mset {} m k v, e.2.hot = false := by
  intro e he
  rcases mset_keys _ _ _ _ e he with h | h
  · rw [h]; exact hv
  · exact hm e h

theorem cooled_sens (xs m : SMap Sens) (hm : ∀ e ∈ m, e.2.hot = false) :
    ∀ e ∈ xs.foldl (fun m e => mset {} m e.1 { e.2 with hot := false }) m, e.2.hot = false := by
  induction xs generalizing m with
  | nil => exact hm
  | cons x xs ih => exact ih _ (mset_cool hm rfl)

theorem cooled_anyHot (s : State) : s.cooled.anyHot = false := by
  have h := cooled_sens s.power.sens [] (by simp)
  simpa [State.anyHot, State.cooled, State.modPower] using fun k v hk => h (k, v) hk

theorem execThermalCool_eq : execThermalCool b s = .next (if s.coldHeld then s.cooled.coldState.boot b else s.cooled) := rfl

end Sys2Proof.Machine
end

section
open Sys2Proof Sys2Proof.Machine Sys2Proof.Claims

/-- Settles O41: the three cold resets and the end of a held one are one boot from the state of R593, and where that boot ends is decided by the
firmware, by VIO and by the rails. -/
theorem coldResets : Obligations.ColdResets := by
  unfold Obligations.ColdResets
  intro s b
  refine ⟨fun c hc => ⟨fun hd hh => ?_, fun hcool => ⟨fun hstop hs => ?_, fun hf hv hr => ?_, fun hf hv hr => ?_⟩⟩, fun hheld => ?_, fun hheld hf hv hr => ?_⟩
  · exact ⟨_, (exec_coldReset hc).trans (congrArg _ (coldReset_held hd hh)), rfl, rfl⟩
  · have hstop' : NoFirmware s.coldState ∨ b.vioLate = true := hstop.imp_left (noFirmware_coldState s).mpr
    obtain ⟨⟨hnow, hhbm, hq, hseats, hantes, hhand⟩, hfaces, ⟨harr, hhist, hnv, hkeys⟩, ⟨hops, hfw, hroll⟩, hfuses, hregs⟩ := coldState_left hs
    exact ⟨_, (exec_coldReset hc).trans (congrArg _ ((coldReset_boots hcool).trans (boot_stops hstop'))), rd_wr_same _ _ _ _ (by decide), hnow, hhbm, hq,
      hseats, hantes, hhand, hfaces, harr, hhist, hnv, hkeys, hops, hfw, hroll, hfuses, hregs⟩
  · exact ⟨_, (exec_coldReset hc).trans (congrArg _ (coldReset_boots hcool)), boot_badRail (mt (noFirmware_coldState s).mp hf) hv hr⟩
  · exact ⟨_, (exec_coldReset hc).trans (congrArg _ (coldReset_boots hcool)), boot_booted (mt (noFirmware_coldState s).mp hf) hv hr⟩
  · exact ⟨s.cooled, execThermalCool_eq.trans (congrArg _ (if_neg (by simp [hheld]))), cooled_anyHot s, rfl⟩
  · have hf' : ¬ NoFirmware s.cooled.coldState := mt ((noFirmware_coldState _).trans (noFirmware_congr rfl rfl)).mp hf
    exact ⟨_, execThermalCool_eq.trans (congrArg _ (if_pos hheld)), boot_booted hf' hv hr⟩

end

section
/-! Warm reset and its end (22_host_reset_startup.md R593, R595, R602). -/
namespace Sys2Proof.Machine
open Sys2Proof.Claims

variable {s : State}

/-! ### WARM_RESET -/

/-- The arrays that the dropped re-dresses of `js` were to leave are ACTIVE. -/
def State.allActive (s : State) (js : List WJob) : State := js.foldl (fun u j => u.setAState j.face j.block j.src 1) s

/-- Fields that the dropped re-dresses of `js` write. -/
def activeFields (js : List WJob) : List (Fld × Nat) :=
  js.flatMap (fun j => [(R.BLK_ARRAY_STATE.STATE, ixA j.face j.block j.src), (R.BLK_SPARE.FREE, ixB j.face j.block)])

theorem setAState_aState (s : State) (f b a v g c d : Nat) : (s.setAState f b a v).aState g c d =
    if ixA g c d = ixA f b a then v % 2 ^ R.BLK_ARRAY_STATE.STATE.wd else s.aState g c d := by
  refine (rd_wr_apart _ _ _ _ _ _ (by decide)).trans ?_
  split
  · next e => rw [e]; exact rd_wr_same _ _ _ _ (by decide)
  · next e => exact rd_wr_ix _ _ _ _ _ _ e

/-- An array that is ACTIVE stays so, whatever others are made ACTIVE. -/
theorem allActive_keeps {f b a : Nat} (js : List WJob) (h : s.aState f b a = 1) : (s.allActive js).aState f b a = 1 := by
  induction js generalizing s with
  | nil => exact h
  | cons j js ih =>
    refine ih ?_
    rw [setAState_aState]
    split
    · rfl
    · exact h

theorem allActive_aState (js : List WJob) : ∀ j ∈ js, (s.allActive js).aState j.face j.block j.src = 1 := by
  induction js generalizing s with
  | nil => simp
  | cons i js ih =>
    intro j hj
    rcases List.mem_cons.mp hj with rfl | hj
    · refine allActive_keeps js ?_
      rw [setAState_aState, if_pos rfl]
      rfl
    · exact ih j hj

theorem allActive_frame (js : List WJob) {t : State} {fs : List (Fld × Nat)} (h : s.Frame t fs []) (hfs : ∀ e ∈ activeFields js, e ∈ fs) :
    s.Frame (t.allActive js) fs [] := by
  induction js generalizing t with
  | nil => exact h
  | cons j js ih =>
    simp only [activeFields, List.flatMap_cons, List.mem_append] at hfs
    exact ih (Frame.wr (Frame.wr h (hfs _ (.inl (by simp)))) (hfs _ (.inl (by simp)))) fun e he => hfs e (.inr he)

/-- The re-dresses that a warm reset drops. -/
def State.dropped (s : State) : List WJob := s.writes.filter (fun j => !j.started && decide (j.kind = 2))

theorem execWarmReset_eq (hd : s.dead = false) (hw : s.hif.warm = false) : execWarmReset s =
    .next (({ (s.allActive s.dropped).wr R.PLT_BOOT_STATE.READY 0 0 with writes := s.writes.filter (fun j => j.started) } : State).modHif
      (fun x => { x with warm := true })) := congrArg Host.Outcome.next (if_neg (by simp [hd, hw]))

theorem warmReset_frame (s : State) : s.Frame ((s.allActive s.dropped).wr R.PLT_BOOT_STATE.READY 0 0)
    ((R.PLT_BOOT_STATE.READY, 0) :: activeFields s.dropped) [] :=
  Frame.wr (allActive_frame s.dropped (Frame.refl _ _ _) fun _ he => List.mem_cons_of_mem _ he) (by simp)

theorem allActive_hif (s : State) (js : List WJob) : (s.allActive js).hif = s.hif := by
  induction js generalizing s with
  | nil => rfl
  | cons j js ih => exact ih _

/-! ### WARM_RESET_DRAINED, where nothing waits for a boundary -/

theorem resLine_wsets (x : Face) (line : Nat) (ws : List Word) : (x.resLine line ws).wsets = x.wsets ∧
    (x.resLine line ws).resetDone = x.resetDone ∧ (x.resLine line ws).inReset = x.inReset := by
  have hput : ∀ (ws : List Word) (a : Face × Nat), (ws.foldl (fun (a : Face × Nat) v => (a.1.padPut a.2 v false, a.2 + 1)) a).1.wsets = a.1.wsets ∧
      (ws.foldl (fun (a : Face × Nat) v => (a.1.padPut a.2 v false, a.2 + 1)) a).1.resetDone = a.1.resetDone ∧
      (ws.foldl (fun (a : Face × Nat) v => (a.1.padPut a.2 v false, a.2 + 1)) a).1.inReset = a.1.inReset := by
    intro ws
    induction ws with
    | nil => exact fun a => ⟨rfl, rfl, rfl⟩
    | cons v ws ih =>
      intro a
      obtain ⟨h1, h2, h3⟩ := ih (a.1.padPut a.2 v false, a.2 + 1)
      refine ⟨h1.trans ?_, h2.trans ?_, h3.trans ?_⟩ <;> (simp only [Face.padPut, Face.padOpen]; split <;> rfl)
  exact hput _ _

theorem settleRes_wsets (x : Face) : x.settleRes.wsets = x.wsets ∧ x.settleRes.resetDone = x.resetDone ∧ x.settleRes.inReset = x.inReset := by
  have h : ∀ (l : List (Nat × List Word)) (y : Face), (l.foldl (fun y e => y.resLine e.1 e.2) y).wsets = y.wsets ∧
      (l.foldl (fun y e => y.resLine e.1 e.2) y).resetDone = y.resetDone ∧ (l.foldl (fun y e => y.resLine e.1 e.2) y).inReset = y.inReset := by
    intro l
    induction l with
    | nil => exact fun y => ⟨rfl, rfl, rfl⟩
    | cons e l ih =>
      intro y
      obtain ⟨h1, h2, h3⟩ := ih (y.resLine e.1 e.2)
      obtain ⟨k1, k2, k3⟩ := resLine_wsets y e.1 e.2
      exact ⟨h1.trans k1, h2.trans k2, h3.trans k3⟩
  exact h _ _

theorem warmState_face (s : State) (f : Nat) : s.warmState.face f =
    if f < 8 then (s.face f).settleRes.warm (fun l => (s.residentLines f).any (fun i => decide (i.1 ≤ l ∧ l ≤ i.2))) else {} := by
  simp only [State.warmState, State.face]
  exact mget_foldl_range ({} : Face) _ 8 f

theorem warmState_reg (hs : s.Sound) (r : RegId) (i : Nat) : s.warmState.reg r i =
    if ((regInfo r).dom = .warm ∨ (regInfo r).dom = .function ∨ (regInfo r).dom = .face) ∧ r ≠ .PWR_DOM_STATE then resetKeep r i (s.reg r i)
    else s.reg r i := by
  refine (congrArg (fun m => mget (resetWord r i) m (regKey r i)) (warmState_regs s)).trans ?_
  refine (reg_resetWhere s warmReset ((mwf_iff _ _).mp hs.regs).2 r i).trans ?_
  simp only [warmReset, Bool.and_eq_true, decide_eq_true_eq]

theorem foldl_idle {α β : Type} {l : List α} {x : β} {g : β → α → β} (h : ∀ e ∈ l, g x e = x) : l.foldl g x = x := by
  induction l with
  | nil => rfl
  | cons e l ih => rw [List.foldl_cons, h e (by simp), ih fun e he => h e (by simp [he])]

/-- No unit is permanent in the history: none is treated as permanent again. -/
theorem permAgain_idle (h : ∀ e ∈ s.hist, e.2.perm = false) : s.permAgain = s := by
  unfold State.permAgain
  exact foldl_idle fun e he => if_neg (by simp [h e he])

/-- Nothing of what a boundary acts on waits in the state. -/
structure Waitless (s : State) : Prop where
  acts : s.acts = []
  ports : ∀ p < 6, (s.port p).ready = none ∧ (s.port p).remap = none
  sweep : s.rd R.KEY_STATE.SWEEPING 0 = 0
  keys : s.key.rotate = false ∧ s.key.open_ = false ∧ s.key.release = none
  faces : ∀ f, (s.face f).resetDone = false
  domains : s.power.domRun = []

theorem bdyActs_idle (h : Waitless s) : s.bdyActs = s := by
  unfold State.bdyActs
  rw [h.acts, List.foldl_nil, ← h.acts]

theorem bdyPorts_idle (h : Waitless s) : s.bdyPorts = s := by
  unfold State.bdyPorts
  refine loop_idle fun p hp => ?_
  obtain ⟨hready, hremap⟩ := h.ports p hp
  simp only [hready, hremap]

theorem bdyKeys_idle (h : Waitless s) : s.bdyKeys = s := by
  obtain ⟨hrotate, hopen, hrelease⟩ := h.keys
  have hsweep : s.bdySweepEnd = s := if_pos h.sweep
  have hrot : s.bdyRotate = s := if_pos hrotate
  have hsession : s.bdySession = s := by simp only [State.bdySession, hopen, Bool.false_eq_true, ↓reduceIte, hrelease]
  rw [State.bdyKeys, hsweep, hrot, hsession]

theorem bdyDown_idle (h : Waitless s) : s.bdyDown = s := by
  unfold State.bdyDown
  exact loop_idle fun f _ => if_neg (by simp [h.faces f])

theorem domNext_idle (h : s.power.domRun = []) : s.domNext = s := by
  unfold State.domNext
  rw [h]
  simp only [domStep, h]

/-- Where nothing waits, the boundary that the end of a warm reset stands for only counts the work of the programmer. -/
theorem boundary_idle (h : Waitless s) : s.bdyActs.bdyPorts.bdyKeys.bdyDown.noteSlots.domNext = s.noteSlots := by
  rw [bdyActs_idle h, bdyPorts_idle h, bdyKeys_idle h, bdyDown_idle h]
  exact domNext_idle h.domains

/-- The state of R593 with the fault queue counted. -/
def State.warmCounted (s : State) : State := s.warmState.wr R.FLT_STATUS.QUEUED 0 s.faultq.length

theorem warmCounted_waitless (hs : s.Sound) (h : NothingWaits s) : Waitless s.warmCounted := by
  obtain ⟨hacts, hports, ⟨hsweep, hkeys⟩, hfaces, hdom, -, -⟩ := h
  refine ⟨hacts, hports, ?_, hkeys, fun f => ?_, hdom⟩
  · refine (rd_wr_apart _ _ _ _ _ _ (by decide)).trans ?_
    rw [State.rd, warmState_reg hs]
    exact hsweep
  · rw [State.warmCounted, face_wr, warmState_face]
    split
    · next hf =>
      obtain ⟨-, hdone, hin⟩ := settleRes_wsets (s.face f)
      obtain ⟨hd, hi⟩ := hfaces f hf
      simp only [Face.warm, hdone, hin, hd, hi, Bool.or_self]
    · rfl

theorem execWarmResetDrained_eq (hw : s.hif.warm = true) (hj : ∀ j ∈ s.writes, j.started = false) (hn : NothingWaits s) (hs : s.Sound) :
    execWarmResetDrained s = .next ((s.warmCounted.noteSlots.wr R.PLT_BOOT_STATE.READY 0 1).msix 1 4) := by
  have hend : s.warmEnd = (s.warmCounted.noteSlots.wr R.PLT_BOOT_STATE.READY 0 1).msix 1 4 := by
    have hperm : s.warmCounted.permAgain = s.warmCounted := permAgain_idle hn.units
    have htours : s.tours.foldl (fun v e => if e.2.step ≥ 2 then v.wr R.CAL_BLK_STATE.TOURING e.1 1 else v) s.warmCounted = s.warmCounted :=
      foldl_idle fun e he => if_neg (by have := hn.tours e he; omega)
    unfold State.warmEnd
    rw [← State.warmCounted, hperm]
    simp only [htours]
    rw [boundary_idle (warmCounted_waitless hs hn)]
  have hnone : s.writes.any (fun j => j.started) = false := by simpa using hj
  exact congrArg Host.Outcome.next ((if_neg (by simp [hw, hnone])).trans hend)

theorem noteSlots_reg (s : State) {r : RegId} (i : Nat) (hr : r ≠ .PLT_PROG_STAT) : s.noteSlots.reg r i = s.reg r i :=
  (reg_wr_ne _ _ _ _ _ _ hr).trans (reg_wr_ne _ _ _ _ _ _ hr)

/-- The state in which a warm reset ends, where nothing waits for a boundary. -/
def State.warmOver (s : State) : State := (s.warmCounted.noteSlots.wr R.PLT_BOOT_STATE.READY 0 1).msix 1 4

/-- What the end of a warm reset writes leaves all but the registers that it counts in, and says. -/
structure SameWarm (s t : State) : Prop where
  ended : t.hif = s.hif
  work : t.hand = s.hand ∧ t.seats = s.seats ∧ t.antes = s.antes ∧ t.rings = s.rings ∧ t.irqs = s.irqs ∧ t.recs = s.recs ∧ t.writes = s.writes
  faces : ∀ f, t.face f = s.face f
  kept : t.now = s.now ∧ t.arrays = s.arrays ∧ t.hbm = s.hbm ∧ t.key = s.key ∧ t.mgmt = s.mgmt ∧ t.hist = s.hist ∧ t.nvLog = s.nvLog ∧
    t.faultq = s.faultq ∧ t.ports = s.ports
  regs : ∀ r i, r ∉ [.PLT_BOOT_STATE, .FLT_STATUS, .PLT_PROG_STAT] → t.reg r i = s.reg r i
  ready : t.rd R.PLT_BOOT_STATE.READY 0 = 1
  out : t.out = s.out ++ [.msix 1 4]

theorem warmEnds_reg (s : State) (n i : Nat) {r : RegId} (hr : r ∉ [.PLT_BOOT_STATE, .FLT_STATUS, .PLT_PROG_STAT]) :
    ((s.wr R.FLT_STATUS.QUEUED 0 n).noteSlots.wr R.PLT_BOOT_STATE.READY 0 1).reg r i = s.reg r i := by
  simp only [List.mem_cons, List.not_mem_nil, or_false, not_or] at hr
  obtain ⟨hboot, hstatus, hprog⟩ := hr
  exact (reg_wr_ne _ _ _ _ _ _ hboot).trans ((noteSlots_reg _ i hprog).trans (reg_wr_ne _ _ _ _ _ _ hstatus))

theorem warmEnds_same (s : State) (n : Nat) : SameWarm s (((s.wr R.FLT_STATUS.QUEUED 0 n).noteSlots.wr R.PLT_BOOT_STATE.READY 0 1).msix 1 4) :=
  ⟨rfl, ⟨rfl, rfl, rfl, rfl, rfl, rfl, rfl⟩, fun _ => rfl, ⟨rfl, rfl, rfl, rfl, rfl, rfl, rfl, rfl, rfl⟩, fun _ i hr => warmEnds_reg s n i hr,
    rd_wr_same _ _ _ _ (by decide), rfl⟩

theorem warmState_work (s : State) : s.warmState.hand = {} ∧ s.warmState.seats = [] ∧ s.warmState.antes = [] ∧ s.warmState.rings = [] ∧
    s.warmState.irqs = [] ∧ s.warmState.recs = [] ∧ s.warmState.writes = s.writes.filter (fun j => j.started) := ⟨rfl, rfl, rfl, rfl, rfl, rfl, rfl⟩

theorem warmState_kept (s : State) : s.warmState.now = s.now ∧ s.warmState.arrays = s.arrays ∧ s.warmState.hbm = s.hbm ∧ s.warmState.key = s.key ∧
    s.warmState.mgmt = s.mgmt ∧ s.warmState.hist = s.hist ∧ s.warmState.nvLog = s.nvLog ∧ s.warmState.faultq = s.faultq ∧
    s.warmState.ports = s.ports := ⟨rfl, rfl, rfl, rfl, rfl, rfl, rfl, rfl, rfl⟩

theorem warmState_hif (s : State) : s.warmState.hif = { s.hif with warm := false, flrFold := false } := rfl

theorem warmState_out (s : State) : s.warmState.out = s.out := rfl

theorem warmOver_left (hj : ∀ j ∈ s.writes, j.started = false) (hs : s.Sound) : WarmLeft s s.warmOver := by
  obtain ⟨hended, ⟨hhand, hseats, hantes, hrings, hirqs, hrecs, hwrites⟩, hfaces, ⟨hnow, harr, hhbm, hkey, hmgmt, hhist, hnv, hq, hports⟩, hregs, hready, hout⟩ :=
    warmEnds_same s.warmState s.faultq.length
  obtain ⟨khand, kseats, kantes, krings, kirqs, krecs, kwrites⟩ := warmState_work s
  obtain ⟨know, karr, khbm, kkey, kmgmt, khist, knv, kq, kports⟩ := warmState_kept s
  have hnone : s.writes.filter (fun j => j.started) = [] := by rw [List.filter_eq_nil_iff]; simpa using hj
  refine ⟨hended.trans (warmState_hif s), ⟨hhand.trans khand, hseats.trans kseats, hantes.trans kantes, hrings.trans krings, hirqs.trans kirqs,
    hrecs.trans krecs, hwrites.trans (kwrites.trans hnone)⟩, fun f hf => ?_, ⟨hnow.trans know, harr.trans karr, hhbm.trans khbm, hkey.trans kkey,
    hmgmt.trans kmgmt, hhist.trans khist, hnv.trans knv, hq.trans kq, hports.trans kports⟩, hready,
    fun r i hr => (hregs r i hr).trans (warmState_reg hs r i), hout.trans (by rw [warmState_out])⟩
  obtain ⟨hwsets, -, -⟩ := settleRes_wsets (s.face f)
  have hface : s.warmOver.face f = s.warmState.face f := hfaces f
  rw [hface, warmState_face, if_pos hf]
  exact ⟨rfl, rfl, rfl, rfl, hwsets⟩

end Sys2Proof.Machine
end

section
open Sys2Proof Sys2Proof.Machine Sys2Proof.Claims

/-- Settles O42, from what WARM_RESET writes and, since nothing waits, from the state of R593 itself.  Two of its clauses are choices of the model:
the array of a dropped re-dress stays ACTIVE (assumption log, entry 73), and PWR_DOM_STATE is kept by a warm reset (entry 63). -/
theorem warmResets : Obligations.WarmResets := by
  unfold Obligations.WarmResets
  intro s
  refine ⟨fun hd hw => ?_, fun hw hj hn hs => ⟨_, execWarmResetDrained_eq hw hj hn hs, warmOver_left hj hs⟩⟩
  have hframe := warmReset_frame s
  have hhif : ((s.allActive s.dropped).wr R.PLT_BOOT_STATE.READY 0 0).hif = s.hif := allActive_hif s _
  refine ⟨_, execWarmReset_eq hd hw, rd_wr_same _ _ _ _ (by decide), congrArg (fun x => { x with warm := true }) hhif, rfl, fun j hj hstart hkind => ?_, ?_⟩
  · have hmem : j ∈ s.dropped := by simp [State.dropped, hj, hstart, hkind]
    exact (rd_wr_apart _ _ _ _ _ _ (by decide)).trans (allActive_aState _ j hmem)
  · exact ⟨hframe.regs, hframe.faces, congrArg (fun v : State => { v with hif := s.hif, writes := s.writes }) hframe.rest⟩

end

section
/-! Power domains, droop, heat and the housekeeping converter (21_power_thermal_housekeeping.md R566, R573, R576, R579 to R582, R601, R617). -/
namespace Sys2Proof.Machine
open Sys2Proof.Claims

variable {s t : State}

/-- In a loop whose round i does `Q i` and keeps the others, all are done at its end. -/
theorem loop_each {α : Type} {n : Nat} {x : α} {g : α → Nat → α} {Q : Nat → α → Prop} (hdo : ∀ y i, i < n → Q i (g y i))
    (hkeep : ∀ y i j, j ≠ i → Q j y → Q j (g y i)) : ∀ i < n, Q i (loop n x g) := by
  have hall (k : Nat) (hk : k ≤ n) : ∀ i < k, Q i (loop k x g) := by
    induction k with
    | zero => intro i hi; omega
    | succ k ih =>
      intro i hi
      rw [loop_succ]
      by_cases e : i = k
      · rw [e]; exact hdo _ k (by omega)
      · exact hkeep _ _ _ e (ih (by omega) i (by omega))
  exact hall n (Nat.le_refl n)

/-! ### The loss of a port (R425), and shutdown (R576) -/

/-- The registers of a port that goes down from ACTIVE are reset. -/
def State.portReset (s : State) (p : Nat) : State :=
  if s.rd R.LNK_PORT_STATE.STATE p = 4 then s.resetDomain .link (fun r i => decide (outerIx r i = p)) else s

theorem portReset_reg {p i : Nat} {r : RegId} (h : (regInfo r).dom ≠ .link ∨ outerIx r i ≠ p) : (s.portReset p).reg r i = s.reg r i := by
  unfold State.portReset
  split
  · refine reg_resetWhere_kept s ?_
    rcases h with h | h <;> simp [h]
  · rfl

theorem portDown_reg (p : Nat) (b : Bool) (r : RegId) (i : Nat) :
    (s.portDown p b).reg r i = (((s.portReset p).wr R.LNK_PORT_STATE.STATE p 0).wr R.LNK_PORT_STATE.WIDTH p 0).reg r i := by
  simp only [State.portDown, State.portReset, decide_eq_true_eq]
  split <;> rfl

theorem portDown_rd {p : Nat} {b : Bool} (g : Fld) (i : Nat) (hd : (regInfo g.reg).dom ≠ .link := by decide)
    (hp : g.reg ≠ .LNK_PORT_STATE := by decide) : (s.portDown p b).rd g i = s.rd g i := by
  rw [State.rd, portDown_reg, reg_wr_ne _ _ _ _ _ _ hp, reg_wr_ne _ _ _ _ _ _ hp, portReset_reg (.inl hd)]
  rfl

theorem portDown_state_same (p : Nat) (b : Bool) : (s.portDown p b).rd R.LNK_PORT_STATE.STATE p = 0 := by
  rw [State.rd, portDown_reg]
  exact (rd_wr_apart _ _ _ _ _ _ (by decide)).trans (rd_wr_same _ _ _ _ (by decide))

theorem outerIx_portState (i : Nat) : outerIx .LNK_PORT_STATE i = i := Nat.div_one i

theorem portDown_state_other {p q : Nat} (b : Bool) (h : q ≠ p) : (s.portDown p b).rd R.LNK_PORT_STATE.STATE q = s.rd R.LNK_PORT_STATE.STATE q := by
  rw [State.rd, portDown_reg]
  refine (rd_wr_ix _ _ _ _ _ _ h).trans ((rd_wr_ix _ _ _ _ _ _ h).trans ?_)
  rw [State.rd, portReset_reg (.inr (by rw [show R.LNK_PORT_STATE.STATE.reg = .LNK_PORT_STATE from rfl, outerIx_portState]; exact h))]
  rfl

/-- What the loss of ports leaves of logging. -/
structure SameLogs (s t : State) : Prop where
  nvLog : t.nvLog = s.nvLog
  faultq : t.faultq = s.faultq
  fatal : t.rd R.FLT_FATAL.OTHER 0 = s.rd R.FLT_FATAL.OTHER 0

theorem portDown_logs (p : Nat) (b : Bool) : SameLogs s (s.portDown p b) := by
  refine ⟨?_, ?_, portDown_rd _ _⟩ <;> (simp only [State.portDown]; split <;> rfl)

/-- Every port is down. -/
def State.portsDown (s : State) : State := loop 6 s (fun x p => x.portDown p false)

theorem portsDown_logs (s : State) : SameLogs s s.portsDown :=
  loop_ind (P := SameLogs s) _ _ _ ⟨rfl, rfl, rfl⟩ fun t p _ h =>
    have k := portDown_logs (s := t) p false
    ⟨k.nvLog.trans h.nvLog, k.faultq.trans h.faultq, k.fatal.trans h.fatal⟩

theorem portsDown_state (s : State) : ∀ p < 6, s.portsDown.rd R.LNK_PORT_STATE.STATE p = 0 :=
  loop_each (Q := fun p (t : State) => t.rd R.LNK_PORT_STATE.STATE p = 0) (fun _ p _ => portDown_state_same p false)
    fun _ _ _ h k => (portDown_state_other false h).trans k

/-- The record of a shutdown. -/
def tripEvent (c : Nat) (temp : Int) : Event := { det := .thermtrip, unit := unitId 19 0 0 0 c, d0 := BitVec.ofInt 64 temp }

/-- THERMTRIP and FAULT_N. -/
def State.tripShown (s : State) : State := (s.wr R.FLT_FATAL.OTHER 0 (setBit (s.rd R.FLT_FATAL.OTHER 0) 0 true)).faultN

/-- Every clock outside the platform domain stops, and the PCIe link is down. -/
def State.clocksStopped (s : State) : State :=
  { (((s.wr R.HIF_LINK.RATE 0 0).wr R.HIF_LINK.WIDTH 0 0).wr R.HIF_LINK.FLIT 0 0) with dead := true, hand := { s.hand with running := false } }

theorem thermTrip_eq (c : Nat) (temp : Int) (hd : s.dead = false) :
    s.thermTrip c temp = ((s.tripShown.nvPut ((tripEvent c temp).record s.tripShown)).portsDown).clocksStopped := by
  unfold State.thermTrip State.clocksStopped State.portsDown State.tripShown tripEvent
  exact if_neg (by simp [hd])

theorem tripShown_fatal (s : State) : s.tripShown.rd R.FLT_FATAL.OTHER 0 = setBit (s.rd R.FLT_FATAL.OTHER 0) 0 true % 2 ^ R.FLT_FATAL.OTHER.wd :=
  (rd_wrB_apart _ _ _ _ _ _ (by decide)).trans (rd_wr_same _ _ _ _ (by decide))

/-- What a shutdown leaves, `r` being its record (R576). -/
structure ShutDown (s : State) (r : FRec) (t : State) : Prop where
  dead : t.dead = true
  hand : t.hand.running = false
  fatal : t.rd R.FLT_FATAL.OTHER 0 = setBit (s.rd R.FLT_FATAL.OTHER 0) 0 true % 2 ^ R.FLT_FATAL.OTHER.wd
  nvLog : t.nvLog = (s.nvLog ++ [r]).drop (s.nvLog.length - 15)
  faultq : t.faultq = s.faultq
  rate : t.rd R.HIF_LINK.RATE 0 = 0
  width : t.rd R.HIF_LINK.WIDTH 0 = 0
  ports : ∀ p < 6, t.rd R.LNK_PORT_STATE.STATE p = 0

theorem clocksStopped_rd (g : Fld) (i : Nat) (hg : g.reg ≠ .HIF_LINK := by decide) : s.clocksStopped.rd g i = s.rd g i :=
  (rd_wr_reg _ _ _ _ _ _ hg).trans ((rd_wr_reg _ _ _ _ _ _ hg).trans (rd_wr_reg _ _ _ _ _ _ hg))

theorem clocksStopped_rate (s : State) : s.clocksStopped.rd R.HIF_LINK.RATE 0 = 0 :=
  (rd_wr_apart _ _ _ _ _ _ (by decide)).trans ((rd_wr_apart _ _ _ _ _ _ (by decide)).trans (rd_wr_same _ _ _ _ (by decide)))

theorem clocksStopped_width (s : State) : s.clocksStopped.rd R.HIF_LINK.WIDTH 0 = 0 :=
  (rd_wr_apart _ _ _ _ _ _ (by decide)).trans (rd_wr_same _ _ _ _ (by decide))

theorem clocksStopped_logs (s : State) : s.clocksStopped.nvLog = s.nvLog ∧ s.clocksStopped.faultq = s.faultq := ⟨rfl, rfl⟩

theorem clocksStopped_stops (s : State) : s.clocksStopped.dead = true ∧ s.clocksStopped.hand.running = false := ⟨rfl, rfl⟩

theorem nvPut_nvLog (s : State) (r : FRec) : (s.nvPut r).nvLog = (s.nvLog ++ [r]).drop (s.nvLog.length - 15) := by
  rw [State.nvPut]
  congr 1

theorem thermTrip_shuts (c : Nat) (temp : Int) (hd : s.dead = false) :
    ShutDown s ((tripEvent c temp).record s.tripShown) (s.thermTrip c temp) := by
  rw [thermTrip_eq c temp hd]
  obtain ⟨hnv, hq, hfatal⟩ := portsDown_logs (s.tripShown.nvPut ((tripEvent c temp).record s.tripShown))
  obtain ⟨hdead, hhand⟩ := clocksStopped_stops (s.tripShown.nvPut ((tripEvent c temp).record s.tripShown)).portsDown
  obtain ⟨knv, kq⟩ := clocksStopped_logs (s.tripShown.nvPut ((tripEvent c temp).record s.tripShown)).portsDown
  refine ⟨hdead, hhand, ?_, knv.trans (hnv.trans (nvPut_nvLog _ _)), kq.trans hq, clocksStopped_rate _, clocksStopped_width _, fun p hp => ?_⟩
  · rw [clocksStopped_rd _ _, hfatal]
    exact tripShown_fatal s
  · rw [clocksStopped_rd _ _, portsDown_state _ p hp]

theorem thermTrip_dead (c : Nat) (temp : Int) : (s.thermTrip c temp).dead = true := by
  unfold State.thermTrip
  split
  · assumption
  · rfl

theorem ShutDown.modPower {r : FRec} {g : Power → Power} (h : ShutDown s r t) : ShutDown s r (t.modPower g) :=
  ⟨h.dead, h.hand, h.fatal, h.nvLog, h.faultq, h.rate, h.width, h.ports⟩

theorem execThermalTrip_shuts {c : Nat} (hc : c < 64) (hi : s.rd R.THM_SENSOR.IGNORED c = 0) (hd : s.dead = false) :
    ∃ t, execThermalTrip c s = .next t ∧ ShutDown s ((tripEvent c 920).record s.tripShown) t := by
  refine ⟨_, congrArg Host.Outcome.next (if_neg ?_), (thermTrip_shuts c 920 hd).modPower⟩
  simp [State.flag, hi]
  omega

/-! ### Droop (R573) -/

/-- The count of the stretches of one kind. -/
def droopFld (half : Bool) : Fld := if half then R.PWR_DROOP_STAT.HALF else R.PWR_DROOP_STAT.QUARTER

def droopEvent (p : Nat) (half : Bool) (sag : Nat) : Event :=
  { det := .droop, unit := unitId 20 p 0 0 0, d0 := if half then 2#64 else 1#64, d1 := BitVec.ofNat 64 sag }

theorem droopFld_reg (half : Bool) : (droopFld half).reg = .PWR_DROOP_STAT := by cases half <;> rfl

theorem droopFld_fits (half : Bool) : (droopFld half).lo + (droopFld half).wd ≤ 64 := by cases half <;> decide

/-- A stretch that is the first of its round: counted, kept and recorded. -/
def State.drooped (s : State) (p : Nat) (half : Bool) (sag : Nat) : State :=
  (((s.bump (droopFld half) p).modPower (fun x => { x with stretch := mset 0 x.stretch p (if half then 2 else 1) })).queued
    ((droopEvent p half sag).record s)).modPower (fun x => { x with drooped := p :: x.drooped })

theorem execDroop_stretches {p sag : Nat} {half : Bool} (hp : p < 8) (hen : s.rd R.PWR_DROOP_CFG.EN 0 = 1) (hs : mget 0 s.power.stretch p = 0)
    (hd : s.power.drooped.contains p = false) (hr : Recordable s (droopEvent p half sag)) :
    execDroop p half sag s = .next (s.drooped p half sag) := by
  have hif : p < 8 ∧ s.rd R.PWR_DROOP_CFG.EN 0 = 1 ∧ mget 0 s.power.stretch p < (if half then 2 else 1) := by
    rw [hs]; exact ⟨hp, hen, by split <;> decide⟩
  have hcount : (if half then s.bump R.PWR_DROOP_STAT.HALF p else s.bump R.PWR_DROOP_STAT.QUARTER p) = s.bump (droopFld half) p := by cases half <;> rfl
  have hlogs : LogsAlike s (s.bump (droopFld half) p) :=
    LogsAlike.bump (LogsAlike.refl s) (by rw [droopFld_reg]; decide) (by rw [droopFld_reg]; decide)
  refine congrArg Host.Outcome.next ((if_pos hif).trans ?_)
  unfold State.droopEntry
  simp only [hd, hcount, Bool.false_eq_true, if_false]
  refine congrArg (fun u : State => u.modPower (fun x => { x with drooped := p :: x.drooped })) (raise_queued hr ?_)
  exact ⟨hlogs.slots, hlogs.live, hlogs.queue, hlogs.now, hlogs.path, hlogs.hand⟩

theorem drooped_frame (s : State) (p : Nat) (half : Bool) (sag : Nat) :
    s.Frame { s.drooped p half sag with power := s.power, faultq := s.faultq } [(droopFld half, p), (R.FLT_STATUS.QUEUED, 0)] [] := by
  have h : s.Frame ((s.bump (droopFld half) p).wr R.FLT_STATUS.QUEUED 0 (s.faultq.length + 1)) [(droopFld half, p), (R.FLT_STATUS.QUEUED, 0)] [] :=
    Frame.wr (Frame.bump (Frame.refl _ _ _) (by simp) (droopFld_fits half)) (by simp)
  exact ⟨h.regs, h.faces, h.rest⟩

theorem drooped_recorded (s : State) (p : Nat) (half : Bool) (sag : Nat) : Recorded s (droopEvent p half sag) (s.drooped p half sag) :=
  ⟨rfl, rd_wr_same _ _ _ _ (by decide)⟩

theorem drooped_stretch (s : State) (p : Nat) (half : Bool) (sag : Nat) :
    mget 0 (s.drooped p half sag).power.stretch p = if half then 2 else 1 := mget_mset_same _ _ _ _

theorem drooped_count (s : State) (p : Nat) (half : Bool) (sag : Nat) :
    (s.drooped p half sag).rd (droopFld half) p = min (s.rd (droopFld half) p + 1) (2 ^ (droopFld half).wd - 1) :=
  (rd_wr_reg _ _ _ _ _ _ (by rw [droopFld_reg]; decide)).trans (rd_bump_same _ _ _ (droopFld_fits half))

theorem execDroopRecover_ends {p us : Nat} (h : mget 0 s.power.stretch p ≠ 0) : execDroopRecover p us s =
    .next ((s.bumpBy R.PWR_DROOP_STAT.STRETCH_US p us).modPower (fun x => { x with stretch := mset 0 x.stretch p 0 })) :=
  congrArg Host.Outcome.next (if_neg h)

end Sys2Proof.Machine
end

section
/-! Changes of power domains (21_power_thermal_housekeeping.md R566, R568). -/
namespace Sys2Proof.Machine
open Sys2Proof.Claims

variable {s t : State}

/-! ### PWR_DOM_REQ -/

/-- Domain d is asked to take state v at the boundary. -/
def State.domAsked (s : State) (d v : Nat) : State :=
  (s.wr (R.PWR_DOM_REQ.REQ d) 0 v).modPower (fun x => { x with domReq := mset none x.domReq d (if s.domain d = v then none else some v) })

theorem domWrite_ignored {d v : Nat} {mgmt : Bool} (h : v = 3) : s.domWrite d v mgmt = s := if_pos h

theorem domWrite_taken {d v : Nat} {mgmt : Bool} (hv : v ≠ 3) (hm : d = 28 → mgmt = true) : s.domWrite d v mgmt = s.domAsked d v :=
  (if_neg hv).trans (if_neg fun k => absurd (hm k.1) (by simp [k.2.1]))

theorem execPwrDomReq_asks {w : Word} {mgmt : Bool} {d v : Nat} (ht : s.ticking = true) (hd : d < 30) (hv : v = fget w (2 * d) 2) (hv3 : v ≠ 3)
    (hm : d = 28 → mgmt = true) (ho : ∀ k, k < 30 → k ≠ d → fget w (2 * k) 2 = 3) : execPwrDomReq w mgmt s = .next (s.domAsked d v) := by
  have hloop : loop 30 s (fun t d => t.domWrite d (fget w (2 * d) 2) mgmt) = s.domAsked d v :=
    loop_once hd (hv ▸ domWrite_taken (hv ▸ hv3) hm) (fun k hk hkd => domWrite_ignored (ho k hk hkd)) fun k hk hkd => domWrite_ignored (ho k hk hkd)
  have hticks : (s.domAsked d v).ticking = s.ticking := ticking_congr (rd_wr_reg _ _ _ _ _ _ (fun e => by cases e)) rfl
  refine congrArg Host.Outcome.next ?_
  rw [hloop]
  exact if_pos (hticks.trans ht)

theorem domReq_fits {d : Nat} (hd : d < 30) : (R.PWR_DOM_REQ.REQ d).lo + (R.PWR_DOM_REQ.REQ d).wd ≤ 64 := by
  simp only [R.PWR_DOM_REQ.REQ]; omega

theorem domAsked_frame {d : Nat} (v : Nat) (hd : d < 30) : s.Frame { s.domAsked d v with power := s.power } [(R.PWR_DOM_REQ.REQ d, 0)] [] := by
  have h : s.Frame (s.wr (R.PWR_DOM_REQ.REQ d) 0 v) [(R.PWR_DOM_REQ.REQ d, 0)] [] := Frame.wr (Frame.refl _ _ _) (by simp) (domReq_fits hd)
  exact ⟨h.regs, h.faces, h.rest⟩

theorem domAsked_req {d : Nat} (v : Nat) : mget none (s.domAsked d v).power.domReq d = if s.domain d = v then none else some v := mget_mset_same _ _ _ _

/-! ### DOMAIN_CHANGE_DONE -/

/-- What a change of domain is told by stands: the states of the domains, the count of changes, the list and whether one is under way. -/
structure DomKept (s t : State) : Prop where
  state : ∀ i, t.reg .PWR_DOM_STATE i = s.reg .PWR_DOM_STATE i
  stat : ∀ i, t.reg .PWR_DOM_STAT i = s.reg .PWR_DOM_STAT i
  power : t.power = s.power

theorem DomKept.refl (s : State) : DomKept s s := ⟨fun _ => rfl, fun _ => rfl, rfl⟩

theorem DomKept.trans {u : State} (h : DomKept s t) (k : DomKept t u) : DomKept s u :=
  ⟨fun i => (k.state i).trans (h.state i), fun i => (k.stat i).trans (h.stat i), k.power.trans h.power⟩

theorem DomKept.same {u : State} (h : DomKept s t) (hr : u.regs = t.regs) (hp : u.power = t.power) : DomKept s u :=
  h.trans ⟨fun _ => by rw [State.reg, hr]; rfl, fun _ => by rw [State.reg, hr]; rfl, hp⟩

theorem DomKept.wr {g : Fld} {i v : Nat} (h : DomKept s t) (h1 : .PWR_DOM_STATE ≠ g.reg := by decide) (h2 : .PWR_DOM_STAT ≠ g.reg := by decide) :
    DomKept s (t.wr g i v) :=
  h.trans ⟨fun _ => reg_wr_ne _ _ _ _ _ _ h1, fun _ => reg_wr_ne _ _ _ _ _ _ h2, rfl⟩

theorem DomKept.loop {n : Nat} {g : State → Nat → State} (h : DomKept s t) (hg : ∀ u i, DomKept s u → DomKept s (g u i)) :
    DomKept s (Machine.loop n t g) := loop_ind (P := DomKept s) _ _ _ h fun u i _ => hg u i

theorem DomKept.calRequest {f b trig : Nat} (h : DomKept s t) : DomKept s (t.calRequest f b trig) := by
  have hpick (u : State) : DomKept u (u.calPick f) := by
    unfold State.calPick
    split
    · exact DomKept.refl _
    · dsimp only
      split
      · exact (DomKept.refl _).same rfl rfl
      · exact DomKept.refl _
  unfold State.calRequest
  extract_lets x p u
  refine DomKept.trans ?_ (hpick _)
  refine DomKept.wr ?_
  simp only [u]
  split
  · split
    · refine DomKept.wr ?_
      exact h.same rfl rfl
    · exact h
  · refine DomKept.wr ?_
    exact h.same rfl rfl

theorem DomKept.portDown {p : Nat} {b : Bool} (h : DomKept s t) : DomKept s (t.portDown p b) := by
  refine h.trans ⟨fun i => ?_, fun i => ?_, ?_⟩
  · rw [portDown_reg, reg_wr_ne _ _ _ _ _ _ (by decide), reg_wr_ne _ _ _ _ _ _ (by decide), portReset_reg (.inl (by decide))]
  · rw [portDown_reg, reg_wr_ne _ _ _ _ _ _ (by decide), reg_wr_ne _ _ _ _ _ _ (by decide), portReset_reg (.inl (by decide))]
  · simp only [State.portDown]; split <;> rfl

theorem DomKept.trainStart {p : Nat} (h : DomKept s t) : DomKept s (t.trainStart p) := by
  unfold State.trainStart
  extract_lets s0 x s1 s2
  have h0 : DomKept s s0 := h.portDown
  have h2 : DomKept s s2 := DomKept.same (DomKept.wr (DomKept.wr (DomKept.wr (DomKept.wr h0)))) rfl rfl
  split
  · exact h0
  · split
    · exact h0.wr
    · split
      · exact DomKept.wr h2
      · exact h2

theorem domOnEffects_kept (s : State) (d v : Nat) : DomKept s (s.domOnEffects d v) := by
  have h := DomKept.refl s
  unfold State.domOnEffects
  split
  · split
    · exact h.loop fun _ _ k => k.calRequest
    · exact h
  split
  · split
    · exact h.same rfl rfl
    · exact h
  split
  · exact h.loop fun _ _ k => k.trainStart
  split
  · exact h.trainStart.trainStart
  · exact h

/-- A domain whose coming on starts nothing. -/
theorem domOnEffects_quiet {d : Nat} (v : Nat) (h : (8 ≤ d ∧ d < 16) ∨ d = 24 ∨ d = 25 ∨ d = 28 ∨ d = 29) : s.domOnEffects d v = s := by
  unfold State.domOnEffects
  rw [if_neg (by omega), if_neg (by omega), if_neg (by omega), if_neg (by omega)]

/-- The change of domain d to v at the head of the list has completed, and is counted. -/
def State.domChanged (s : State) (d v : Nat) : State :=
  ((s.wr (R.PWR_DOM_STATE.STATE d) 0 v).bump R.PWR_DOM_STAT.CHANGES 0).modPower (fun x => { x with domRun := [], domBusy := false })

/-- The PCIe link that trained when HOST came on. -/
def State.hostTrained (s : State) (d v rate width : Nat) (flit : Bool) : State :=
  if d = 28 ∧ v = 1 then ((s.wr R.HIF_LINK.RATE 0 rate).wr R.HIF_LINK.WIDTH 0 width).wrB R.HIF_LINK.FLIT 0 flit else s

theorem hostTrained_kept (s : State) (d v rate width : Nat) (flit : Bool) : DomKept s (s.hostTrained d v rate width flit) := by
  unfold State.hostTrained
  split
  · exact DomKept.wr (DomKept.wr (DomKept.wr (DomKept.refl s)))
  · exact DomKept.refl s

/-- What the change of domain d to v starts. -/
def State.domStarted (s : State) (d v : Nat) : State := if v = 1 then (s.domChanged d v).domOnEffects d s.power.domFrom else s.domChanged d v

theorem domStarted_kept (s : State) (d v : Nat) : DomKept (s.domChanged d v) (s.domStarted d v) := by
  unfold State.domStarted
  split
  · exact domOnEffects_kept _ _ _
  · exact DomKept.refl _

/-- The state that the last change of the list leaves. -/
def State.domOver (s : State) (d v rate width : Nat) (flit : Bool) : State := ((s.domStarted d v).hostTrained d v rate width flit).msix 1 3

theorem domOver_kept (s : State) (d v rate width : Nat) (flit : Bool) : DomKept (s.domChanged d v) (s.domOver d v rate width flit) :=
  ((domStarted_kept s d v).trans (hostTrained_kept _ d v rate width flit)).same rfl rfl

theorem execDomainChangeDone_last {d v rate width : Nat} {flit : Bool} (hrun : s.power.domRun = [(d, v)]) (hbusy : s.power.domBusy = true) :
    execDomainChangeDone rate width flit s = .next (s.domOver d v rate width flit) := by
  have hnext : (s.domOver d v rate width flit).domNext = s.domOver d v rate width flit :=
    domNext_idle (congrArg Power.domRun (domOver_kept s d v rate width flit).power)
  refine Eq.trans ?_ (congrArg Host.Outcome.next hnext)
  unfold execDomainChangeDone
  simp only [hrun, hbusy, Bool.true_eq_false, if_false]
  rfl

theorem domState_fits {d : Nat} (hd : d < 30) : (R.PWR_DOM_STATE.STATE d).lo + (R.PWR_DOM_STATE.STATE d).wd ≤ 64 := by
  simp only [R.PWR_DOM_STATE.STATE]; omega

theorem domChanged_state {d v : Nat} (hd : d < 30) (hv : v < 4) : (s.domChanged d v).rd (R.PWR_DOM_STATE.STATE d) 0 = v :=
  (rd_wr_reg _ _ _ _ _ _ (fun e => by cases e)).trans ((rd_wr_same _ _ _ _ (domState_fits hd)).trans (Nat.mod_eq_of_lt hv))

theorem domChanged_count (s : State) (d v : Nat) : (s.domChanged d v).rd R.PWR_DOM_STAT.CHANGES 0 =
    min (s.rd R.PWR_DOM_STAT.CHANGES 0 + 1) (2 ^ R.PWR_DOM_STAT.CHANGES.wd - 1) := by
  refine (rd_bump_same _ _ _ (by decide)).trans ?_
  rw [rd_wr_reg _ _ _ _ _ _ (fun e => by cases e)]

theorem DomKept.rd_state (h : DomKept s t) (d : Nat) : t.rd (R.PWR_DOM_STATE.STATE d) 0 = s.rd (R.PWR_DOM_STATE.STATE d) 0 := by
  rw [State.rd, State.rd]
  exact congrArg (fun w => fget w _ _) (h.state 0)

theorem DomKept.rd_changes (h : DomKept s t) : t.rd R.PWR_DOM_STAT.CHANGES 0 = s.rd R.PWR_DOM_STAT.CHANGES 0 := by
  rw [State.rd, State.rd]
  exact congrArg (fun w => fget w _ _) (h.stat 0)

theorem domOver_host (s : State) (rate width : Nat) (flit : Bool) :
    (s.domOver 28 1 rate width flit).rd R.HIF_LINK.RATE 0 = rate % 2 ^ R.HIF_LINK.RATE.wd ∧
    (s.domOver 28 1 rate width flit).rd R.HIF_LINK.WIDTH 0 = width % 2 ^ R.HIF_LINK.WIDTH.wd := by
  constructor
  · exact (rd_wrB_apart _ _ _ _ _ _ (by decide)).trans ((rd_wr_apart _ _ _ _ _ _ (by decide)).trans (rd_wr_same _ _ _ _ (by decide)))
  · exact (rd_wrB_apart _ _ _ _ _ _ (by decide)).trans (rd_wr_same _ _ _ _ (by decide))

/-- A change that starts nothing leaves its state, its count and vector 3 alone. -/
theorem domOver_quiet {d v : Nat} (rate width : Nat) (flit : Bool) (h : v ≠ 1 ∨ (8 ≤ d ∧ d < 16) ∨ d = 24 ∨ d = 25 ∨ d = 29) :
    s.domOver d v rate width flit = (s.domChanged d v).msix 1 3 := by
  have hstarted : s.domStarted d v = s.domChanged d v := by
    unfold State.domStarted
    split
    · exact domOnEffects_quiet _ (by omega)
    · rfl
  have hhost : (s.domChanged d v).hostTrained d v rate width flit = s.domChanged d v := if_neg (by omega)
  rw [State.domOver, hstarted, hhost]

theorem domChanged_frame {d : Nat} (v : Nat) (hd : d < 30) :
    s.Frame { (s.domChanged d v).msix 1 3 with power := s.power, out := s.out } [(R.PWR_DOM_STATE.STATE d, 0), (R.PWR_DOM_STAT.CHANGES, 0)] [] := by
  have h : s.Frame ((s.wr (R.PWR_DOM_STATE.STATE d) 0 v).bump R.PWR_DOM_STAT.CHANGES 0) [(R.PWR_DOM_STATE.STATE d, 0), (R.PWR_DOM_STAT.CHANGES, 0)] [] :=
    Frame.bump (Frame.wr (Frame.refl _ _ _) (by simp) (domState_fits hd)) (by simp)
  exact ⟨h.regs, h.faces, h.rest⟩

end Sys2Proof.Machine
end

section
/-! The housekeeping converter and the loss of VPROG (21_power_thermal_housekeeping.md R579 to R582, R601, R617). -/
namespace Sys2Proof.Machine
open Sys2Proof.Claims

variable {s t : State}

/-! ### Self-calibration (R582) -/

theorem execSelfcal_starts (hdone : s.rd R.HKC_STAT.CAL_DONE 0 = 0) (hbusy : s.rd R.HKC_STAT.CAL_BUSY 0 = 0) (hr : s.rd R.HKC_STAT.REF_READY 0 = 1) :
    execSelfcal s = .next (s.wr R.HKC_STAT.CAL_BUSY 0 1) := congrArg Host.Outcome.next ((if_neg (by simp [hdone, hbusy])).trans (if_pos hr))

theorem execSelfcal_waits (hdone : s.rd R.HKC_STAT.CAL_DONE 0 = 0) (hbusy : s.rd R.HKC_STAT.CAL_BUSY 0 = 0) (hr : s.rd R.HKC_STAT.REF_READY 0 = 0) :
    execSelfcal s = .next (s.modPower (fun x => { x with calWaits := true })) :=
  congrArg Host.Outcome.next ((if_neg (by simp [hdone, hbusy])).trans (if_neg (by simp [hr])))

/-- What the reference leaves that has become ready. -/
theorem execRefReady_leaves (h : s.rd R.HKC_CTL.REF_EN 0 ≠ 0) : ∃ t, execRefReady s = .next t ∧ t.rd R.HKC_STAT.REF_READY 0 = 1 ∧
    t.power.calWaits = false ∧ (s.power.calWaits = true → t.rd R.HKC_STAT.CAL_BUSY 0 = 1) ∧
    s.Frame { t with power := s.power } [(R.HKC_STAT.REF_READY, 0), (R.HKC_STAT.CAL_BUSY, 0)] [] := by
  have hready : s.Frame (s.wr R.HKC_STAT.REF_READY 0 1) [(R.HKC_STAT.REF_READY, 0), (R.HKC_STAT.CAL_BUSY, 0)] [] :=
    Frame.wr (Frame.refl _ _ _) (by simp)
  have hrd : (s.wr R.HKC_STAT.REF_READY 0 1).rd R.HKC_STAT.REF_READY 0 = 1 := rd_wr_same _ _ _ _ (by decide)
  cases hw : s.power.calWaits with
  | true =>
    refine ⟨((s.wr R.HKC_STAT.REF_READY 0 1).wr R.HKC_STAT.CAL_BUSY 0 1).modPower (fun x => { x with calWaits := false }),
      congrArg Host.Outcome.next ((if_neg h).trans (if_pos hw)), (rd_wr_apart _ _ _ _ _ _ (by decide)).trans hrd, rfl,
      fun _ => rd_wr_same _ _ _ _ (by decide), ?_⟩
    have hbusy : s.Frame ((s.wr R.HKC_STAT.REF_READY 0 1).wr R.HKC_STAT.CAL_BUSY 0 1) [(R.HKC_STAT.REF_READY, 0), (R.HKC_STAT.CAL_BUSY, 0)] [] :=
      Frame.wr hready (by simp)
    exact ⟨hbusy.regs, hbusy.faces, hbusy.rest⟩
  | false =>
    refine ⟨s.wr R.HKC_STAT.REF_READY 0 1, congrArg Host.Outcome.next ((if_neg h).trans (if_neg (by simp [hw]))), hrd, hw, nofun, ?_⟩
    exact ⟨hready.regs, hready.faces, hready.rest⟩

/-- The factors of gain range g. -/
def State.factored (s : State) (g : Nat) (x : Nat × Nat) : State := (s.wr R.HKC_CAL.OFFSET g (x.1 % 2 ^ 24)).wr R.HKC_CAL.GAIN g (x.2 % 2 ^ 24)

/-- Gain range g has the factors x. -/
def Factored (x : Nat × Nat) (g : Nat) (t : State) : Prop := t.rd R.HKC_CAL.OFFSET g = x.1 % 2 ^ 24 ∧ t.rd R.HKC_CAL.GAIN g = x.2 % 2 ^ 24

theorem factored_same (s : State) (g : Nat) (x : Nat × Nat) : Factored x g (s.factored g x) := by
  constructor
  · exact (rd_wr_apart _ _ _ _ _ _ (by decide)).trans ((rd_wr_same _ _ _ _ (by decide)).trans (Nat.mod_mod _ _))
  · exact (rd_wr_same _ _ _ _ (by decide)).trans (Nat.mod_mod _ _)

theorem factored_other {g k : Nat} {x y : Nat × Nat} (h : k ≠ g) (hk : Factored y k s) : Factored y k (s.factored g x) := by
  constructor
  · exact (rd_wr_ix _ _ _ _ _ _ h).trans ((rd_wr_ix _ _ _ _ _ _ h).trans hk.1)
  · exact (rd_wr_ix _ _ _ _ _ _ h).trans ((rd_wr_ix _ _ _ _ _ _ h).trans hk.2)

theorem execSelfcalDone_leaves (factors : List (Nat × Nat)) (h : s.rd R.HKC_STAT.CAL_BUSY 0 ≠ 0) :
    ∃ t, execSelfcalDone factors s = .next t ∧ t.rd R.HKC_STAT.CAL_BUSY 0 = 0 ∧ t.rd R.HKC_STAT.CAL_DONE 0 = 1 ∧
      ∀ g < 4, Factored (factors.getD g (0, 0)) g t := by
  have hfactors := loop_each (n := 4) (x := s) (g := fun u g => u.factored g (factors.getD g (0, 0))) (Q := fun g => Factored (factors.getD g (0, 0)) g)
    (fun _ _ _ => factored_same _ _ _) (fun _ _ _ e k => factored_other e k)
  refine ⟨((loop 4 s (fun u g => u.factored g (factors.getD g (0, 0)))).wr R.HKC_STAT.CAL_BUSY 0 0).wr R.HKC_STAT.CAL_DONE 0 1,
    congrArg Host.Outcome.next (if_neg h), ?_, rd_wr_same _ _ _ _ (by decide), fun g hg => ?_⟩
  · exact (rd_wr_apart _ _ _ _ _ _ (by decide)).trans (rd_wr_same _ _ _ _ (by decide))
  · obtain ⟨hoffset, hgain⟩ := hfactors g hg
    exact ⟨(rd_wr_reg _ _ _ _ _ _ (by decide)).trans ((rd_wr_reg _ _ _ _ _ _ (by decide)).trans hoffset),
      (rd_wr_reg _ _ _ _ _ _ (by decide)).trans ((rd_wr_reg _ _ _ _ _ _ (by decide)).trans hgain)⟩

/-! ### A round (R579 to R581) -/

/-- The sensor of channel c takes part in the shutdown of R576, and its reading of this round calls for it. -/
def State.trips (s : State) (vals : List (Nat × Int)) (silent : List Nat) (c : Nat) : Bool :=
  !s.flag R.THM_SENSOR.IGNORED c && decide (roundVal vals c ≥ 920) && !(decide (c ≥ 64) && silent.contains (c - 64))

theorem trips_found {vals : List (Nat × Int)} {silent : List Nat}
    (h : ∃ c ∈ s.sensors, s.rd R.THM_SENSOR.IGNORED c = 0 ∧ 920 ≤ roundVal vals c ∧ (c < 64 ∨ silent = [])) :
    ∃ c, s.sensors.find? (s.trips vals silent) = some c := by
  obtain ⟨c, hc, hi, hv, hs⟩ := h
  refine Option.isSome_iff_exists.mp (List.find?_isSome.mpr ⟨c, hc, ?_⟩)
  rcases hs with hs | rfl
  · simp [State.trips, State.flag, hi, hv, hs]
  · simp [State.trips, State.flag, hi, hv]

/-- A round is counted, and so is one that took longer than its period. -/
def State.roundCounted (s : State) (took : Nat) : State :=
  let t := (s.bump R.HKC_STAT.ROUNDS 0).modPower (fun x => { x with round := x.round + 1, drooped := [] })
  if took > s.rd R.HKC_CTL.PERIOD 0 then t.bump R.HKC_STAT.OVERRUNS 0 else t

/-- A round has written its results, and the rails have been compared. -/
def State.roundRead (s : State) (took : Nat) (codes : List (Nat × Bool)) (vals : List (Nat × Int)) : State :=
  (((s.roundCounted took).writeResults codes).railRound (roundVal vals)).modPower (fun x =>
    { x with vcore := some (roundVal vals 72).toNat
             rails := [72, 73, 74, 75, 76, 77, 78, 79].foldl (fun m c => mset 0 m c (roundVal vals c)) [] })

/-- What a round after the self-calibration does but for a shutdown: sensors, heat, the governor, clocks, calibrations, domains and writes. -/
def State.roundActed (s : State) (took : Nat) (codes : List (Nat × Bool)) (vals : List (Nat × Int)) (silent ports : List Nat) : State :=
  let s4 := s.sensors.foldl (fun t c => t.sensorRound (roundVal vals) (s.channelCode codes) silent c) (s.roundRead took codes vals)
  let s5 := ((s4.heatRound (max took (s.rd R.HKC_CTL.PERIOD 0))).govern (roundVal vals)).noteVcore
  (((s5.orNow State.bdyLevels).calTriggers ports).domNext).grantWrites

/-- A round before the self-calibration ends with its results, and one after it with a shutdown where a sensor calls for one. -/
theorem execHousekeepingRound_eq (took : Nat) (codes : List (Nat × Bool)) (vals : List (Nat × Int)) (silent ports : List Nat)
    (hrun : s.rd R.HKC_CTL.RUN 0 ≠ 0) (href : s.rd R.HKC_STAT.REF_READY 0 ≠ 0) (hbusy : s.rd R.HKC_STAT.CAL_BUSY 0 = 0) :
    execHousekeepingRound took codes vals silent ports s = .next (if s.rd R.HKC_STAT.CAL_DONE 0 = 0 then s.roundRead took codes vals
      else (s.sensors.find? (s.trips vals silent)).elim (s.roundActed took codes vals silent ports)
        (fun c => (s.roundActed took codes vals silent ports).thermTrip c (roundVal vals c))) := by
  have hgo : ¬ (s.rd R.HKC_CTL.RUN 0 = 0 ∨ s.rd R.HKC_STAT.REF_READY 0 = 0 ∨ s.rd R.HKC_STAT.CAL_BUSY 0 = 1) := by simp [hrun, href, hbusy]
  refine congrArg Host.Outcome.next ((if_neg hgo).trans (if_congr Iff.rfl rfl ?_))
  change (match s.sensors.find? (s.trips vals silent) with
    | some c => (s.roundActed took codes vals silent ports).thermTrip c (roundVal vals c)
    | none => s.roundActed took codes vals silent ports) = _
  cases s.sensors.find? (s.trips vals silent) <;> rfl

theorem execHousekeepingRound_trips (took : Nat) (codes : List (Nat × Bool)) (vals : List (Nat × Int)) (silent ports : List Nat)
    (hrun : s.rd R.HKC_CTL.RUN 0 ≠ 0) (href : s.rd R.HKC_STAT.REF_READY 0 ≠ 0) (hbusy : s.rd R.HKC_STAT.CAL_BUSY 0 = 0)
    (hdone : s.rd R.HKC_STAT.CAL_DONE 0 = 1)
    (h : ∃ c ∈ s.sensors, s.rd R.THM_SENSOR.IGNORED c = 0 ∧ 920 ≤ roundVal vals c ∧ (c < 64 ∨ silent = [])) :
    ∃ t, execHousekeepingRound took codes vals silent ports s = .next t ∧ t.dead = true := by
  obtain ⟨c, hc⟩ := trips_found h
  have hu := execHousekeepingRound_eq took codes vals silent ports hrun href hbusy
  refine ⟨(s.roundActed took codes vals silent ports).thermTrip c (roundVal vals c), hu.trans ?_, thermTrip_dead _ _⟩
  rw [if_neg (by simp [hdone]), hc]
  rfl

/-- The result of entry e of a round of n entries. -/
def State.resultPut (s : State) (n cal round : Nat) (codes : List (Nat × Bool)) (e : Nat) : State :=
  if e < n then
    ((((s.wr R.HKC_RESULT.CODE e ((codes.getD e (0, false)).1 % 2 ^ 24)).wr R.HKC_RESULT.VALID e 1).wr R.HKC_RESULT.CAL e cal).wrB
      R.HKC_RESULT.CLIP e (codes.getD e (0, false)).2).wr R.HKC_RESULT.ROUND e (round % 2 ^ 32)
  else s.wr R.HKC_RESULT.VALID e 0

/-- Entry e of a round of n entries before the self-calibration has its result. -/
def ResultIs (n : Nat) (codes : List (Nat × Bool)) (e : Nat) (t : State) : Prop :=
  if e < n then
    t.rd R.HKC_RESULT.CODE e = (codes.getD e (0, false)).1 % 2 ^ 24 ∧ t.rd R.HKC_RESULT.VALID e = 1 ∧ t.rd R.HKC_RESULT.CAL e = 0 ∧
    t.rd R.HKC_RESULT.CLIP e = (if (codes.getD e (0, false)).2 then 1 else 0)
  else t.rd R.HKC_RESULT.VALID e = 0

theorem ResultIs.of_reg {n e : Nat} {codes : List (Nat × Bool)} (h : ResultIs n codes e s) (hr : t.reg .HKC_RESULT e = s.reg .HKC_RESULT e) :
    ResultIs n codes e t := by
  have hrd (g : Fld) (hg : g.reg = .HKC_RESULT) : t.rd g e = s.rd g e := by rw [State.rd, State.rd, hg, hr]
  unfold ResultIs at h ⊢
  rw [hrd _ rfl, hrd _ rfl, hrd _ rfl, hrd _ rfl]
  exact h

theorem resultPut_same (s : State) (n round : Nat) (codes : List (Nat × Bool)) (e : Nat) : ResultIs n codes e (s.resultPut n 0 round codes e) := by
  unfold ResultIs State.resultPut
  by_cases he : e < n
  · simp only [he, if_true]
    refine ⟨?_, ?_, ?_, (rd_wr_apart _ _ _ _ _ _ (by decide)).trans (rd_wrB_same _ _ _ _ (by decide) (by decide))⟩
    · exact (rd_wr_apart _ _ _ _ _ _ (by decide)).trans ((rd_wrB_apart _ _ _ _ _ _ (by decide)).trans ((rd_wr_apart _ _ _ _ _ _ (by decide)).trans
        ((rd_wr_apart _ _ _ _ _ _ (by decide)).trans ((rd_wr_same _ _ _ _ (by decide)).trans (Nat.mod_mod _ _)))))
    · exact (rd_wr_apart _ _ _ _ _ _ (by decide)).trans ((rd_wrB_apart _ _ _ _ _ _ (by decide)).trans ((rd_wr_apart _ _ _ _ _ _ (by decide)).trans
        (rd_wr_same _ _ _ _ (by decide))))
    · exact (rd_wr_apart _ _ _ _ _ _ (by decide)).trans ((rd_wrB_apart _ _ _ _ _ _ (by decide)).trans (rd_wr_same _ _ _ _ (by decide)))
  · simp only [he, if_false]
    exact rd_wr_same _ _ _ _ (by decide)

theorem resultPut_regs (s : State) (n cal round : Nat) (codes : List (Nat × Bool)) (e : Nat) {r : RegId} {i : Nat} (h : r ≠ .HKC_RESULT ∨ i ≠ e) :
    (s.resultPut n cal round codes e).reg r i = s.reg r i := by
  have hwr (u : State) (g : Fld) (v : Nat) (hg : g.reg = .HKC_RESULT) : (u.wr g e v).reg r i = u.reg r i := by
    rw [State.wr, reg_setReg, if_neg]
    rw [hg]
    rintro ⟨rfl, rfl⟩
    simp at h
  unfold State.resultPut
  split
  · rw [hwr _ _ _ rfl, State.wrB, hwr _ _ _ rfl, hwr _ _ _ rfl, hwr _ _ _ rfl, hwr _ _ _ rfl]
  · exact hwr _ _ _ rfl

theorem resultPut_power (s : State) (n cal round : Nat) (codes : List (Nat × Bool)) (e : Nat) : (s.resultPut n cal round codes e).power = s.power := by
  unfold State.resultPut
  split <;> rfl

theorem writeResults_eq (codes : List (Nat × Bool)) : s.writeResults codes =
    loop 128 s (fun t e => t.resultPut (s.rd R.HKC_CTL.LENGTH 0) (s.rd R.HKC_STAT.CAL_DONE 0) s.power.round codes e) := rfl

/-- The results of a round before the self-calibration (R582): nothing else changes. -/
theorem writeResults_leaves (codes : List (Nat × Bool)) (h : s.rd R.HKC_STAT.CAL_DONE 0 = 0) : RegsBeside [.HKC_RESULT] s (s.writeResults codes) ∧
    (s.writeResults codes).power = s.power ∧ ∀ e < 128, ResultIs (s.rd R.HKC_CTL.LENGTH 0) codes e (s.writeResults codes) := by
  rw [writeResults_eq, h]
  refine ⟨?_, ?_, ?_⟩
  · exact loop_ind (P := RegsBeside [.HKC_RESULT] s) _ _ _ (RegsBeside.refl _ _) fun u e _ k r hr i =>
      (resultPut_regs u _ _ _ _ e (.inl (by simpa using hr))).trans (k r hr i)
  · exact loop_ind (P := fun u : State => u.power = s.power) _ _ _ rfl fun u e _ k => (resultPut_power u _ _ _ _ e).trans k
  · exact loop_each (Q := ResultIs (s.rd R.HKC_CTL.LENGTH 0) codes) (fun u e _ => resultPut_same u _ _ _ e)
      fun u e k hk hr => hr.of_reg (resultPut_regs u _ _ _ _ e (.inr hk))

/-- A grant of write slots and a comparison of the rails write registers of the rails, of arrays and of progress. -/
theorem grantWrites_beside (s : State) : RegsBeside [.BLK_ARRAY_STATE, .BLK_SPARE, .PLT_PROG_STAT] s s.grantWrites ∧ s.grantWrites.power = s.power := by
  obtain ⟨t, ⟨hregs, hpower⟩, ht⟩ := grantWrites_rounds (P := fun u : State => RegsBeside [.BLK_ARRAY_STATE, .BLK_SPARE] s u ∧ u.power = s.power)
    ⟨RegsBeside.refl _ s, rfl⟩ fun u j h _ _ => ⟨h.1.trans (startJob_beside u j), h.2⟩
  rw [ht]
  exact ⟨(hregs.mono (by decide)).trans ((noteSlots_beside t).mono (by decide)), hpower⟩

/-- The rails of a round are shown. -/
def State.railsShown (s : State) (vals : Nat → Int) : State :=
  let out := (List.range 8).foldl (fun m k => if s.railOut vals k then m + 2 ^ k else m) 0
  let t := ((s.wr R.PLT_RAIL_STAT.OUT 0 out).wr R.PLT_RAIL_STAT.SEEN 0 (Nat.lor (s.rd R.PLT_RAIL_STAT.SEEN 0) out)).wrB R.PLT_RAIL_STAT.PROG_HELD 0 (bit out 2)
  if out ≠ 0 then t.bump R.PLT_RAIL_STAT.ROUNDS_OUT 0 else t

theorem railsShown_leaves (s : State) (vals : Nat → Int) : RegsBeside [.PLT_RAIL_STAT] s (s.railsShown vals) ∧ (s.railsShown vals).power = s.power := by
  unfold State.railsShown
  extract_lets out t
  have ht : RegsBeside [.PLT_RAIL_STAT] s t := ((RegsBeside.refl _ s).wr (f := R.PLT_RAIL_STAT.OUT)).wr (f := R.PLT_RAIL_STAT.SEEN) |>.wr (f := R.PLT_RAIL_STAT.PROG_HELD)
  split
  · exact ⟨ht.wr (f := R.PLT_RAIL_STAT.ROUNDS_OUT), rfl⟩
  · exact ⟨ht, rfl⟩

theorem railRound_leaves (s : State) (vals : Nat → Int) :
    RegsBeside [.PLT_RAIL_STAT, .BLK_ARRAY_STATE, .BLK_SPARE, .PLT_PROG_STAT] s (s.railRound vals) ∧ (s.railRound vals).power = s.power := by
  obtain ⟨hregs, hpower⟩ := railsShown_leaves s vals
  obtain ⟨kregs, kpower⟩ := grantWrites_beside (s.railsShown vals)
  exact ⟨(hregs.mono (by decide)).trans (kregs.mono (by decide)), kpower.trans hpower⟩

theorem roundCounted_leaves (s : State) (took : Nat) : RegsBeside [.HKC_STAT] s (s.roundCounted took) ∧
    (s.roundCounted took).power.round = s.power.round + 1 ∧
    (s.roundCounted took).rd R.HKC_STAT.ROUNDS 0 = min (s.rd R.HKC_STAT.ROUNDS 0 + 1) (2 ^ R.HKC_STAT.ROUNDS.wd - 1) ∧
    (s.roundCounted took).rd R.HKC_STAT.CAL_DONE 0 = s.rd R.HKC_STAT.CAL_DONE 0 := by
  have hregs : RegsBeside [.HKC_STAT] s (s.bump R.HKC_STAT.ROUNDS 0) := (RegsBeside.refl _ s).wr (f := R.HKC_STAT.ROUNDS)
  have hrounds := rd_bump_same s R.HKC_STAT.ROUNDS 0 (by decide)
  have hdone := rd_bump_apart s R.HKC_STAT.ROUNDS R.HKC_STAT.CAL_DONE 0 0 (by decide)
  unfold State.roundCounted
  extract_lets t
  split
  · exact ⟨RegsBeside.wr (t := t) hregs (by decide), rfl, (rd_bump_apart _ _ _ _ _ (by decide)).trans hrounds,
      (rd_bump_apart _ _ _ _ _ (by decide)).trans hdone⟩
  · exact ⟨hregs, rfl, hrounds, hdone⟩

theorem execHousekeepingRound_results (took : Nat) (codes : List (Nat × Bool)) (vals : List (Nat × Int)) (silent ports : List Nat)
    (hrun : s.rd R.HKC_CTL.RUN 0 ≠ 0) (href : s.rd R.HKC_STAT.REF_READY 0 ≠ 0) (hbusy : s.rd R.HKC_STAT.CAL_BUSY 0 = 0)
    (hdone : s.rd R.HKC_STAT.CAL_DONE 0 = 0) :
    ∃ t, execHousekeepingRound took codes vals silent ports s = .next t ∧ t.power.round = s.power.round + 1 ∧
      t.rd R.HKC_STAT.ROUNDS 0 = min (s.rd R.HKC_STAT.ROUNDS 0 + 1) (2 ^ R.HKC_STAT.ROUNDS.wd - 1) ∧
      ∀ e < 128, ResultIs (s.rd R.HKC_CTL.LENGTH 0) codes e t := by
  have hu := execHousekeepingRound_eq took codes vals silent ports hrun href hbusy
  obtain ⟨hregs, hround, hrounds, hcal⟩ := roundCounted_leaves s took
  obtain ⟨kregs, kpower, kresults⟩ := writeResults_leaves (s := s.roundCounted took) codes (hcal.trans hdone)
  obtain ⟨jregs, jpower⟩ := railRound_leaves ((s.roundCounted took).writeResults codes) (roundVal vals)
  refine ⟨s.roundRead took codes vals, hu.trans (congrArg _ (if_pos hdone)), ?_, ?_, fun e he => ?_⟩
  · exact (congrArg Power.round (jpower.trans kpower)).trans hround
  · exact (jregs.rd R.HKC_STAT.ROUNDS 0).trans ((kregs.rd R.HKC_STAT.ROUNDS 0).trans hrounds)
  · have hlength : (s.roundCounted took).rd R.HKC_CTL.LENGTH 0 = s.rd R.HKC_CTL.LENGTH 0 := hregs.rd R.HKC_CTL.LENGTH 0
    exact (hlength ▸ kresults e he).of_reg (jregs .HKC_RESULT (by decide) e)

/-! ### Loss of VPROG (R601, R617) -/

theorem execVprogLoss_drops (h : s.discardWaits = false) : ∃ t, execVprogLoss s = .next t ∧ t.writes = s.writes.filter (fun j => !j.started) ∧
    t.arrays = s.arrays ∧ ∀ i, t.rd R.BLK_ARRAY_STATE.STATE i = s.rd R.BLK_ARRAY_STATE.STATE i := by
  have hkept (u : State) : u.buildEnd.discardWaits = u.discardWaits ∧ u.buildEnd.writes = u.writes ∧ u.buildEnd.arrays = u.arrays := by
    unfold State.buildEnd
    split <;> exact ⟨rfl, rfl, rfl⟩
  obtain ⟨hwaits, hwrites, harrays⟩ := hkept ({ s with writes := s.writes.filter (fun j => !j.started) } : State).noteSlots
  refine ⟨_, congrArg Host.Outcome.next (discardEnd_idle (hwaits.trans h)), hwrites, harrays, fun i => ?_⟩
  exact ((buildEnd_beside _).rd R.BLK_ARRAY_STATE.STATE i).trans ((noteSlots_beside _).rd R.BLK_ARRAY_STATE.STATE i)

end Sys2Proof.Machine
end

section
open Sys2Proof Sys2Proof.Machine Sys2Proof.Claims

/-- Settles O51, clause by clause from what each event of power and heat leaves.  That the record of a shutdown stands in the non-volatile store
alone, and that a loss of VPROG drops the write-verifies that have started, are choices of the model (assumption log, entry 60). -/
theorem powerResults : Obligations.PowerResults := by
  unfold Obligations.PowerResults
  intro s
  refine ⟨fun c hc hi hd => ?_, fun p sag half e g hp hen hst hdr hg he hr => ?_, fun p us h => ?_, fun w mgmt d v ht hd hv hv3 hm ho => ?_,
    fun d v rate width flit hrun hbusy hd hv => ?_, fun hdone hbusy => ⟨fun hr => ?_, fun hr => ?_⟩, execRefReady_leaves, execSelfcalDone_leaves,
    fun took codes vals silent ports hrun href hbusy hdone h => execHousekeepingRound_trips took codes vals silent ports hrun href hbusy hdone h,
    fun took codes vals silent ports hrun href hbusy hdone => execHousekeepingRound_results took codes vals silent ports hrun href hbusy hdone,
    execVprogLoss_drops⟩
  · obtain ⟨t, ht, ⟨hdead, hhand, hfatal, hnv, hq, hrate, hwidth, hports⟩⟩ := execThermalTrip_shuts hc hi hd
    exact ⟨t, _, ht, hdead, hhand, rfl, rfl, rfl, hfatal, hnv, hq, hrate, hwidth, fun _ => hports⟩
  · subst he hg
    exact ⟨_, execDroop_stretches hp hen hst hdr hr, drooped_recorded s p half sag, drooped_stretch s p half sag, drooped_count s p half sag,
      drooped_frame s p half sag⟩
  · have hframe : s.Frame (s.bumpBy R.PWR_DROOP_STAT.STRETCH_US p us) [(R.PWR_DROOP_STAT.STRETCH_US, p)] [] := Frame.bumpBy (Frame.refl _ _ _) (by simp)
    exact ⟨_, execDroopRecover_ends h, mget_mset_same _ _ _ _, rd_bumpBy_same _ _ _ _ (by decide), hframe.regs, hframe.faces, hframe.rest⟩
  · have hmod : v < 2 ^ (R.PWR_DOM_REQ.REQ d).wd := hv ▸ fget_lt _ _ _
    exact ⟨_, execPwrDomReq_asks ht hd hv hv3 hm ho, (rd_wr_same _ _ _ _ (domReq_fits hd)).trans (Nat.mod_eq_of_lt hmod), domAsked_req v,
      domAsked_frame v hd⟩
  · have hkept := domOver_kept s d v rate width flit
    refine ⟨_, execDomainChangeDone_last hrun hbusy, (hkept.rd_state d).trans (domChanged_state hd hv), hkept.rd_changes.trans (domChanged_count s d v),
      congrArg Power.domRun hkept.power, congrArg Power.domBusy hkept.power, List.mem_append_right _ (by simp), ?_, fun hquiet => ?_⟩
    · rintro rfl rfl
      exact domOver_host s rate width flit
    · rw [domOver_quiet rate width flit hquiet]
      exact ⟨rfl, domChanged_frame v hd⟩
  · exact ⟨_, execSelfcal_starts hdone hbusy hr, rd_wr_same _ _ _ _ (by decide), Frame.wr (Frame.refl _ _ _) (by simp)⟩
  · exact ⟨_, execSelfcal_waits hdone hbusy hr, rfl, Frame.refl s [] []⟩

end

section
/-! Ports, lanes and the bypass (15_links_and_lanes.md R421 to R425, R443, R444; 22_host_reset_startup.md R597). -/
namespace Sys2Proof.Machine
open Sys2Proof.Claims

variable {s t : State} {p : Nat}

/-! ### A port that goes down -/

/-- Another port's word of LNK_PORT_STATE stands. -/
theorem portDown_rd_other {q : Nat} (b : Bool) {g : Fld} (hg : g.reg = .LNK_PORT_STATE) (h : q ≠ p) : (s.portDown p b).rd g q = s.rd g q := by
  rw [State.rd, portDown_reg]
  refine (rd_wr_ix _ _ _ _ _ _ h).trans ((rd_wr_ix _ _ _ _ _ _ h).trans ?_)
  rw [State.rd, hg, portReset_reg (.inr (by rw [outerIx_portState]; exact h)), State.rd, hg]

theorem portDown_width_same (p : Nat) (b : Bool) : (s.portDown p b).rd R.LNK_PORT_STATE.WIDTH p = 0 := by
  rw [State.rd, portDown_reg]
  exact rd_wr_same _ _ _ _ (by decide)

theorem portDown_bypass (s : State) (p : Nat) (b : Bool) : (s.portDown p b).bypOpen = s.bypOpen ∧ (s.portDown p b).vaonLow = s.vaonLow := by
  simp only [State.portDown]
  split <;> exact ⟨rfl, rfl⟩

/-! ### Training begins (R422, R424) -/

/-- Port p is in training at step 1 or 2, on every lane. -/
def State.trained (s : State) (p : Nat) : State :=
  (((((s.portDown p false).wr R.LNK_PORT_STATE.STATE p 1).wr R.LNK_LANE_STATE.FAILED p 0).wr R.LNK_LANE_STATE.SPARE_USED p 0).wr
    R.LNK_LANE_STATE.SPARED p 0).setPort p
    { (s.portDown p false).port p with
      step := if s.rd R.LNK_PORT_CTL.RATE_MAX p = 1 then 1 else 2, tries := 0, good := 2 ^ laneCount p - 1 }

theorem trainStart_eq (hc : s.portCan p = true) (hp : s.isPerm (unitId 12 p 0 0 0) = false) :
    s.trainStart p = if ((s.portDown p false).port p).linked then (s.trained p).bump R.LNK_PORT_STAT.RETRAINS p else s.trained p := by
  unfold State.trainStart
  rw [if_neg (by simp [hc]), if_neg (by simp [hp])]
  rfl

theorem trained_trains (s : State) (p : Nat) : Trains s p (s.trained p) := by
  have hport : (s.trained p).port p = { (s.portDown p false).port p with
      step := if s.rd R.LNK_PORT_CTL.RATE_MAX p = 1 then 1 else 2, tries := 0, good := 2 ^ laneCount p - 1 } := port_setPort_same _ _ _
  refine ⟨?_, ?_, ?_, ?_, by rw [hport], by rw [hport], by rw [hport]⟩
  · exact (rd_wr_apart _ _ _ _ _ _ (by decide)).trans ((rd_wr_apart _ _ _ _ _ _ (by decide)).trans ((rd_wr_apart _ _ _ _ _ _ (by decide)).trans
      (rd_wr_same _ _ _ _ (by decide))))
  · exact (rd_wr_apart _ _ _ _ _ _ (by decide)).trans ((rd_wr_apart _ _ _ _ _ _ (by decide)).trans ((rd_wr_apart _ _ _ _ _ _ (by decide)).trans
      ((rd_wr_apart _ _ _ _ _ _ (by decide)).trans (portDown_width_same p false))))
  · exact (rd_wr_apart _ _ _ _ _ _ (by decide)).trans ((rd_wr_apart _ _ _ _ _ _ (by decide)).trans (rd_wr_same _ _ _ _ (by decide)))
  · exact (rd_wr_apart _ _ _ _ _ _ (by decide)).trans (rd_wr_same _ _ _ _ (by decide))

theorem trains_bump {g : Fld} (h : Trains s p t) (hp : RegId.LNK_PORT_STATE ≠ g.reg) (hl : RegId.LNK_LANE_STATE ≠ g.reg) : Trains s p (t.bump g p) :=
  ⟨(rd_wr_reg _ _ _ _ _ _ hp).trans h.state, (rd_wr_reg _ _ _ _ _ _ hp).trans h.width, (rd_wr_reg _ _ _ _ _ _ hl).trans h.lanes,
    (rd_wr_reg _ _ _ _ _ _ hl).trans h.spare, h.step, h.tries, h.good⟩

theorem trainStart_trains (hc : s.portCan p = true) (hp : s.isPerm (unitId 12 p 0 0 0) = false) : Trains s p (s.trainStart p) := by
  rw [trainStart_eq hc hp]
  split
  · exact trains_bump (trained_trains s p) (by decide) (by decide)
  · exact trained_trains s p

theorem execHoldoffExpiry_trains (hc : s.portCan p = true) (hp : s.isPerm (unitId 12 p 0 0 0) = false) (h : (s.port p).holdoff = true) :
    ∃ t, execHoldoffExpiry p s = .next t ∧ Trains s p t := ⟨_, congrArg Host.Outcome.next (if_pos h), trainStart_trains hc hp⟩

/-- The link reset of a port. -/
def State.linkReset (s : State) (p : Nat) : State := s.resetDomain .link (fun r i => decide (outerIx r i = p))

theorem linkReset_rd (g : Fld) (i : Nat) (hd : (regInfo g.reg).dom ≠ .link := by decide) : (s.linkReset p).rd g i = s.rd g i :=
  congrArg (fun w => fget w g.lo g.wd) (reg_resetWhere_kept s (by simp [hd]))

theorem linkReset_portCan (s : State) (p : Nat) : (s.linkReset p).portCan p = s.portCan p := by
  have hon (d : Nat) : (s.linkReset p).domOn d = s.domOn d :=
    congrArg (fun n => decide (n = 1)) (linkReset_rd (R.PWR_DOM_STATE.STATE d) 0 (show (regInfo .PWR_DOM_STATE).dom ≠ .link by decide))
  unfold State.portCan State.portPresent
  rw [linkReset_rd R.PLT_CAP_UNITS.PORTS, hon, linkReset_rd R.LNK_PORT_CTL.EN, linkReset_rd R.LNK_BYP_CTL.CLOSED]

theorem execPortRetrain_trains (h6 : p < 6) (hc : s.portCan p = true) (hp : s.isPerm (unitId 12 p 0 0 0) = false) :
    ∃ t, execPortRetrain p s = .next t ∧ Trains s p t := by
  have h : Trains (s.linkReset p) p ((s.linkReset p).trainStart p) := trainStart_trains ((linkReset_portCan s p).trans hc) hp
  refine ⟨_, congrArg Host.Outcome.next (if_pos ⟨h6, hc⟩), h.state, h.width, h.lanes, h.spare, ?_, h.tries, h.good⟩
  rw [← linkReset_rd (s := s) (p := p) R.LNK_PORT_CTL.RATE_MAX p]
  exact h.step

/-! ### Training steps (R421, R422) -/

theorem laneCount_le (p : Nat) : laneCount p ≤ 17 := by unfold laneCount; split <;> decide

/-- With no lane permanent, the lanes through are those good before. -/
theorem trainLanes_eq (ok : Nat) (h : ∀ i < 17, s.isPerm (unitId 11 p 0 0 i) = false) : s.trainLanes p ok =
    (s.wr R.LNK_LANE_STATE.FAILED p (2 ^ laneCount p - 1 - Nat.land (s.port p).good ok)).setPort p
      { s.port p with good := Nat.land (s.port p).good ok } := by
  have hperm : loop (laneCount p) 0 (fun m i => if s.isPerm (unitId 11 p 0 0 i) then m + 2 ^ i else m) = 0 :=
    loop_idle fun i hi => if_neg (by simp [h i (Nat.lt_of_lt_of_le hi (laneCount_le p))])
  have hzero (n : Nat) : Nat.land n 0 = 0 := Nat.and_zero n
  simp only [State.trainLanes, hperm, hzero, Nat.sub_zero]

theorem trainLanes_failed (ok : Nat) (h : ∀ i < 17, s.isPerm (unitId 11 p 0 0 i) = false) :
    (s.trainLanes p ok).rd R.LNK_LANE_STATE.FAILED p = 2 ^ laneCount p - 1 - Nat.land (s.port p).good ok := by
  have hle : 2 ^ laneCount p ≤ 2 ^ 17 := Nat.pow_le_pow_right (by decide) (laneCount_le p)
  have hpos : 0 < 2 ^ laneCount p := Nat.two_pow_pos _
  rw [trainLanes_eq ok h]
  refine (rd_wr_same _ _ _ _ (by decide)).trans (Nat.mod_eq_of_lt ?_)
  exact Nat.lt_of_le_of_lt (Nat.sub_le _ _) (Nat.lt_of_lt_of_le (Nat.sub_lt hpos (by decide)) hle)

theorem trainLanes_good (ok : Nat) (h : ∀ i < 17, s.isPerm (unitId 11 p 0 0 i) = false) :
    ((s.trainLanes p ok).port p).good = Nat.land (s.port p).good ok := by
  rw [trainLanes_eq ok h]
  exact congrArg Port.good (port_setPort_same _ _ _)

/-- Some lane is through, and no slot fails the training: the condition under which a step goes on. -/
theorem through_iff (ok : Nat) (hi : s.injs = []) :
    (decide (Nat.land (s.port p).good ok ≠ 0) && (s.injSlot .portFailed (unitId 12 p 0 0 0)).isNone) = decide (Nat.land (s.port p).good ok ≠ 0) := by
  rw [injSlot_nil hi]
  exact Bool.and_true _

/-- The port runs its next training step. -/
def State.stepTo (s : State) (p n : Nat) : State := s.modPort p (fun y => { y with step := n })

theorem port_stepTo (s : State) (p n : Nat) : (s.stepTo p n).port p = { s.port p with step := n } := port_setPort_same _ _ _

/-- The speed of a port is found at step 1 or 2. -/
def State.rateFound (s : State) (p ok v : Nat) : State :=
  (((s.trainLanes p ok).wr R.LNK_PORT_STATE.RATE p v).stepTo p 3).wr R.LNK_PORT_STATE.STATE p 2

theorem execPortTrainingStepEnd_rate {ok : Nat} (skew : Nat) (hi : s.injs = []) (hl : Nat.land (s.port p).good ok ≠ 0)
    (hs : (s.port p).step = 1 ∨ (s.port p).step = 2) :
    execPortTrainingStepEnd p ok skew s = .next (s.rateFound p ok (if (s.port p).step = 1 then 1 else 0)) := by
  have hany := through_iff (s := s) (p := p) ok hi
  unfold execPortTrainingStepEnd
  dsimp only
  rw [hany, decide_eq_true hl]
  rcases hs with hs | hs <;> rw [hs] <;> rfl

theorem rateFound_leaves (ok v : Nat) (h : ∀ i < 17, s.isPerm (unitId 11 p 0 0 i) = false) : ((s.rateFound p ok v).port p).step = 3 ∧
    (s.rateFound p ok v).rd R.LNK_PORT_STATE.RATE p = v % 2 ∧ (s.rateFound p ok v).rd R.LNK_PORT_STATE.STATE p = 2 ∧
    ((s.rateFound p ok v).port p).good = Nat.land (s.port p).good ok := by
  have hport : (s.rateFound p ok v).port p = { (s.trainLanes p ok).port p with step := 3 } := port_stepTo _ _ _
  refine ⟨by rw [hport], ?_, rd_wr_same _ _ _ _ (by decide), ?_⟩
  · exact (rd_wr_apart _ _ _ _ _ _ (by decide)).trans (rd_wr_same _ _ _ _ (by decide))
  · rw [hport]; exact trainLanes_good ok h

theorem execPortTrainingStepEnd_three {ok : Nat} (skew : Nat) (hi : s.injs = []) (hl : Nat.land (s.port p).good ok ≠ 0) (hs : (s.port p).step = 3) :
    execPortTrainingStepEnd p ok skew s = .next ((s.trainLanes p ok).stepTo p 4) := by
  have hany := through_iff (s := s) (p := p) ok hi
  unfold execPortTrainingStepEnd
  dsimp only
  rw [hany, decide_eq_true hl, hs]
  rfl

/-- The lanes of a port are aligned. -/
def State.aligned (s : State) (p : Nat) : State := (s.stepTo p 5).wr R.LNK_PORT_STATE.STATE p 3

theorem execPortTrainingStepEnd_four {ok skew : Nat} (hi : s.injs = []) (hl : Nat.land (s.port p).good ok ≠ 0) (hs : (s.port p).step = 4)
    (hk : skew ≤ 64) : ∃ m, execPortTrainingStepEnd p ok skew s = .next ((s.aligned p).emit (.local_ p m)) := by
  have hany := through_iff (s := s) (p := p) ok hi
  refine ⟨.ident p s.devAddr ((s.aligned p).port p).good ((s.aligned p).rd R.LNK_PORT_STATE.RATE p) ((s.aligned p).rd R.KEY_SESSION.EPOCH 0), ?_⟩
  unfold execPortTrainingStepEnd
  dsimp only
  rw [hany, decide_eq_true hl, hs]
  exact congrArg Host.Outcome.next (if_pos (show true = true ∧ skew ≤ 64 from ⟨rfl, hk⟩))

/-- A training step that fails with tries left begins again (R422). -/
theorem trainFail_again (n : Nat) (h : (s.port p).tries < 3) :
    (s.trainFail p n).rd R.LNK_PORT_STATE.STATE p = 1 ∧ ((s.trainFail p n).port p).tries = (s.port p).tries + 1 := by
  unfold State.trainFail
  dsimp only
  rw [if_pos h]
  exact ⟨rd_wr_same _ _ _ _ (by decide), congrArg Port.tries (port_setPort_same _ _ _)⟩

theorem execPortTrainingStepEnd_fails {ok skew : Nat} (hi : s.injs = []) (h : Nat.land (s.port p).good ok = 0 ∨ ((s.port p).step = 4 ∧ 64 < skew))
    (h2 : 2 ≤ (s.port p).step) (h4 : (s.port p).step ≤ 4) : ∃ n, execPortTrainingStepEnd p ok skew s = .next (s.trainFail p n) := by
  have hany := through_iff (s := s) (p := p) ok hi
  unfold execPortTrainingStepEnd
  dsimp only
  rw [hany]
  obtain hs | hs | hs : (s.port p).step = 2 ∨ (s.port p).step = 3 ∨ (s.port p).step = 4 := by omega
  · have hl : Nat.land (s.port p).good ok = 0 := h.resolve_right (by omega)
    exact ⟨1, by rw [hs, hl]; rfl⟩
  · have hl : Nat.land (s.port p).good ok = 0 := h.resolve_right (by omega)
    exact ⟨2, by rw [hs, hl]; rfl⟩
  · refine ⟨3, ?_⟩
    have hnot : ¬ (decide (Nat.land (s.port p).good ok ≠ 0) = true ∧ skew ≤ 64) := by
      rw [decide_eq_true_eq]
      omega
    rw [hs]
    exact congrArg Host.Outcome.next (if_neg hnot)

/-- The peer is known by IDENT. -/
def State.peerKnown (s : State) (p peer dev lanes : Nat) : State :=
  ((s.trainLanes p lanes).wr R.LNK_PORT_STATE.PEER_DEV p dev).wr R.LNK_PORT_STATE.PEER_PORT p peer

theorem peerKnown_width (peer dev : Nat) {lanes n : Nat} : (s.peerKnown p peer dev lanes).widthFor p n = s.widthFor p n := by
  have hmin : (s.peerKnown p peer dev lanes).rd R.LNK_PORT_CTL.WIDTH_MIN p = s.rd R.LNK_PORT_CTL.WIDTH_MIN p :=
    (rd_wr_reg _ _ _ _ _ _ (by decide)).trans ((rd_wr_reg _ _ _ _ _ _ (by decide)).trans (rd_wr_reg _ _ _ _ _ _ (by decide)))
  unfold State.widthFor
  rw [hmin]

theorem peerKnown_failed (peer dev : Nat) {lanes : Nat} (h : ∀ i < 17, s.isPerm (unitId 11 p 0 0 i) = false) :
    (s.peerKnown p peer dev lanes).rd R.LNK_LANE_STATE.FAILED p = 2 ^ laneCount p - 1 - Nat.land (s.port p).good lanes :=
  (rd_wr_reg _ _ _ _ _ _ (by decide)).trans ((rd_wr_reg _ _ _ _ _ _ (by decide)).trans (trainLanes_failed lanes h))

theorem execIdent_waits {peer dev lanes w : Nat} (h : ∀ i < 17, s.isPerm (unitId 11 p 0 0 i) = false) (hs : (s.port p).step = 5)
    (ht : s.ticking = true) (hw : s.widthFor p (lanesOutside p (2 ^ laneCount p - 1 - Nat.land (s.port p).good lanes)).length = some w) :
    execIdent p peer dev lanes s = .next ((s.peerKnown p peer dev lanes).modPort p (fun y => { y with ready := some w })) := by
  have hwidth : (s.peerKnown p peer dev lanes).widthFor p (lanesOutside p ((s.peerKnown p peer dev lanes).rd R.LNK_LANE_STATE.FAILED p)).length =
      some w := by rw [peerKnown_failed peer dev h, peerKnown_width]; exact hw
  rw [State.peerKnown] at hwidth ⊢
  unfold execIdent
  simp only [hs, ne_eq, not_true_eq_false, if_false, hwidth, ht, if_true]

theorem execIdent_leaves {peer dev lanes w : Nat} (h : ∀ i < 17, s.isPerm (unitId 11 p 0 0 i) = false) (hs : (s.port p).step = 5)
    (ht : s.ticking = true) (hw : s.widthFor p (lanesOutside p (2 ^ laneCount p - 1 - Nat.land (s.port p).good lanes)).length = some w) :
    ∃ t, execIdent p peer dev lanes s = .next t ∧ (t.port p).ready = some w ∧
      t.rd R.LNK_PORT_STATE.PEER_DEV p = dev % 2 ^ R.LNK_PORT_STATE.PEER_DEV.wd ∧
      t.rd R.LNK_PORT_STATE.PEER_PORT p = peer % 2 ^ R.LNK_PORT_STATE.PEER_PORT.wd :=
  ⟨_, execIdent_waits h hs ht hw, congrArg Port.ready (port_setPort_same _ _ _),
    (rd_wr_apart _ _ _ _ _ _ (by decide)).trans (rd_wr_same _ _ _ _ (by decide)), rd_wr_same _ _ _ _ (by decide)⟩

/-! ### Failing lanes (R424, R425) -/

def laneEvent (p i : Nat) : Event := { det := .laneFail, unit := unitId 11 p 0 0 i, d0 := 1#64 }

/-- A lane of a port that is not ACTIVE is marked, and recorded with cause 1. -/
theorem execLaneFail_marks {i : Nat} (h6 : p < 6) (hi : i < laneCount p) (hf : bit (s.rd R.LNK_LANE_STATE.FAILED p) i = false)
    (hs : s.rd R.LNK_PORT_STATE.STATE p ≠ 4) (hr : Recordable s (laneEvent p i)) : execLaneFail p i s =
    .next ((s.wr R.LNK_LANE_STATE.FAILED p (setBit (s.rd R.LNK_LANE_STATE.FAILED p) i true)).queued ((laneEvent p i).record s)) := by
  have hgo : ¬ (p ≥ 6 ∨ i ≥ laneCount p ∨ bit (s.rd R.LNK_LANE_STATE.FAILED p) i = true) := by simp [hf]; omega
  have hactive : (decide (s.rd R.LNK_PORT_STATE.STATE p = 4) && (s.activeLanes p).contains i) = false := by simp [hs]
  have hraise : (s.wr R.LNK_LANE_STATE.FAILED p (setBit (s.rd R.LNK_LANE_STATE.FAILED p) i true)).raise (laneEvent p i) = _ :=
    raise_queued hr (LogsAlike.wr (LogsAlike.refl s))
  refine congrArg Host.Outcome.next ((if_neg hgo).trans ((if_pos hactive).trans ?_))
  exact hraise

/-- An error window without an uncorrectable codeword, and with few corrected symbols, is counted. -/
theorem execLaneErrorWindow_counts {i corrected : Nat} (h6 : p < 6) (hi : i < laneCount p) (hinj : s.injs = [])
    (hc : corrected ≤ s.rd R.LNK_LANE_CFG.CORR_THRESH p) : execLaneErrorWindow p i corrected 0 s =
    .next ((s.bumpBy R.LNK_PORT_STAT.UNCORR p 0).modPort p (fun x => { x with errs := mset 0 x.errs i 0 })) := by
  unfold execLaneErrorWindow
  dsimp only
  rw [injSlot_nil hinj, if_neg (by omega), if_neg (by simp), if_pos rfl, if_neg (by decide), if_neg (by omega)]

/-- A control-lane message of an ACTIVE port leaves at once. -/
theorem portOut_local (m : Msg) (h : s.rd R.LNK_PORT_STATE.STATE p = 4) : s.portOut p (.local_ p m) =
    { s with ports := mset {} s.ports p ((s.port p).take (.local_ p m)), out := s.out ++ [.local_ p m] } := if_pos ⟨h, rfl, rfl⟩

theorem execLane_agrees {n hand w sp : Nat} {hard : Bool} (h : s.rd R.LNK_PORT_STATE.STATE p = 4) (hp : (s.port p).proposed = none) :
    execLane p n hand w sp hard s = .next (if hard then (s.portOut p (.local_ p (.lane n hand w sp hard))).peerRemap p w sp
      else (s.portOut p (.local_ p (.lane n hand w sp hard))).modPort p (fun y => { y with remap := some (s.now + 10000, some (w, sp)) })) :=
  congrArg Host.Outcome.next ((if_neg (by simp [h])).trans (if_neg (by simp [hp])))

theorem peerRemap_leaves (s : State) (p w sp : Nat) : (s.peerRemap p w sp).out = s.out ∧
    (s.peerRemap p w sp).rd R.LNK_PORT_STATE.WIDTH p = w % 2 ^ R.LNK_PORT_STATE.WIDTH.wd ∧
    (sp < 31 → (s.peerRemap p w sp).rd R.LNK_LANE_STATE.SPARED p = sp % 2 ^ R.LNK_LANE_STATE.SPARED.wd ∧
      (s.peerRemap p w sp).rd R.LNK_LANE_STATE.SPARE_USED p = 1) := by
  unfold State.peerRemap
  extract_lets s1
  have hwidth : s1.rd R.LNK_PORT_STATE.WIDTH p = w % 2 ^ R.LNK_PORT_STATE.WIDTH.wd := rd_wr_same s R.LNK_PORT_STATE.WIDTH p w (by decide)
  split
  · refine ⟨rfl, ?_, fun _ => ⟨?_, ?_⟩⟩
    · exact (rd_bump_apart _ _ _ _ _ (by decide)).trans ((rd_wr_apart _ _ _ _ _ _ (by decide)).trans ((rd_wr_apart _ _ _ _ _ _ (by decide)).trans hwidth))
    · exact (rd_bump_apart _ _ _ _ _ (by decide)).trans ((rd_wr_apart _ _ _ _ _ _ (by decide)).trans (rd_wr_same _ _ _ _ (by decide)))
    · exact (rd_bump_apart _ _ _ _ _ (by decide)).trans (rd_wr_same _ _ _ _ (by decide))
  · next hsp => exact ⟨rfl, (rd_bump_apart _ _ _ _ _ (by decide)).trans hwidth, fun k => absurd k hsp⟩

theorem execLane_hard {n hand w sp : Nat} (h : s.rd R.LNK_PORT_STATE.STATE p = 4) (hp : (s.port p).proposed = none) :
    ∃ t, execLane p n hand w sp true s = .next t ∧ t.out = s.out ++ [.local_ p (.lane n hand w sp true)] ∧
      t.rd R.LNK_PORT_STATE.WIDTH p = w % 2 ^ R.LNK_PORT_STATE.WIDTH.wd ∧
      (sp < 31 → t.rd R.LNK_LANE_STATE.SPARED p = sp % 2 ^ R.LNK_LANE_STATE.SPARED.wd ∧ t.rd R.LNK_LANE_STATE.SPARE_USED p = 1) := by
  obtain ⟨hout, hwidth, hspare⟩ := peerRemap_leaves (s.portOut p (.local_ p (.lane n hand w sp true))) p w sp
  exact ⟨_, execLane_agrees h hp, hout.trans (by rw [portOut_local _ h]), hwidth, hspare⟩

theorem execLane_soft {n hand w sp : Nat} (h : s.rd R.LNK_PORT_STATE.STATE p = 4) (hp : (s.port p).proposed = none) :
    ∃ t, execLane p n hand w sp false s = .next t ∧ t.out = s.out ++ [.local_ p (.lane n hand w sp false)] ∧
      t.regs = s.regs ∧ (t.port p).remap = some (s.now + 10000, some (w, sp)) := by
  refine ⟨_, execLane_agrees h hp, ?_⟩
  rw [portOut_local _ h]
  exact ⟨rfl, rfl, congrArg Port.remap (port_setPort_same _ _ _)⟩

/-! ### The bypass (R443, R444) -/

theorem bypClose_shuts (s : State) : BypassShut s.bypClose where
  closed := (portDown_rd _ _).trans ((portDown_rd _ _).trans (rd_wr_same _ _ _ _ (by decide)))
  down q hq := by
    obtain rfl | rfl : q = 0 ∨ q = 1 := by omega
    · exact ⟨(portDown_rd_other _ rfl (by decide)).trans (portDown_state_same 0 false),
        (portDown_rd_other _ rfl (by decide)).trans (portDown_width_same 0 false)⟩
    · exact ⟨portDown_state_same 1 false, portDown_width_same 1 false⟩

theorem bypClose_kept (s : State) : s.bypClose.bypOpen = s.bypOpen ∧ s.bypClose.vaonLow = s.vaonLow := by
  obtain ⟨h1, h2⟩ := portDown_bypass ((s.wr R.LNK_BYP_CTL.CLOSED 0 1).portDown 0 false) 1 false
  obtain ⟨k1, k2⟩ := portDown_bypass (s.wr R.LNK_BYP_CTL.CLOSED 0 1) 0 false
  exact ⟨h1.trans k1, h2.trans k2⟩

theorem bypClose_force (s : State) : s.bypClose.rd R.LNK_BYP_CTL.FORCE 0 = s.rd R.LNK_BYP_CTL.FORCE 0 :=
  (portDown_rd _ _).trans ((portDown_rd _ _).trans (rd_wr_apart _ _ _ _ _ _ (by decide)))

/-- The start of training keeps the bypass. -/
structure BypassKept (s t : State) : Prop where
  closed : t.rd R.LNK_BYP_CTL.CLOSED 0 = s.rd R.LNK_BYP_CTL.CLOSED 0
  open_ : t.bypOpen = s.bypOpen

theorem BypassKept.wr {g : Fld} {i v : Nat} (h : BypassKept s t) (hg : RegId.LNK_BYP_CTL ≠ g.reg) : BypassKept s (t.wr g i v) :=
  ⟨(rd_wr_reg _ _ _ _ _ _ hg).trans h.closed, h.open_⟩

theorem trainStart_bypass (s : State) (p : Nat) : BypassKept s (s.trainStart p) := by
  have h0 : BypassKept s (s.portDown p false) := ⟨portDown_rd _ _, (portDown_bypass s p false).1⟩
  have h4 : BypassKept s ((((((s.portDown p false).wr R.LNK_PORT_STATE.STATE p 1).wr R.LNK_LANE_STATE.FAILED p 0).wr R.LNK_LANE_STATE.SPARE_USED p 0).wr
    R.LNK_LANE_STATE.SPARED p 0)) := (((h0.wr (by decide)).wr (by decide)).wr (by decide)).wr (by decide)
  have hdone : BypassKept s (s.trained p) := ⟨h4.closed, h4.open_⟩
  by_cases hc : s.portCan p = true
  · cases hp : s.isPerm (unitId 12 p 0 0 0) with
    | false =>
      rw [trainStart_eq hc hp]
      split
      · exact hdone.wr (by decide)
      · exact hdone
    | true =>
      have heq : s.trainStart p = (s.portDown p false).wr R.LNK_PORT_STATE.STATE p 5 := (if_neg (by simp [hc])).trans (if_pos hp)
      rw [heq]
      exact h0.wr (by decide)
  · have heq : s.trainStart p = s.portDown p false := if_pos (by simpa using hc)
    rw [heq]
    exact h0

theorem execBypassOpen_opens (ha : s.rd R.LNK_BYP_CTL.AT_HAND 0 ≠ 1) (hf : s.rd R.LNK_BYP_CTL.FORCE 0 ≠ 1) (hv : s.vaonLow = false) :
    ∃ t, execBypassOpen s = .next t ∧ t.rd R.LNK_BYP_CTL.CLOSED 0 = 0 ∧ t.bypOpen = false := by
  have h0 := trainStart_bypass ({ s.wr R.LNK_BYP_CTL.CLOSED 0 0 with bypOpen := false } : State) 0
  have h1 := trainStart_bypass (({ s.wr R.LNK_BYP_CTL.CLOSED 0 0 with bypOpen := false } : State).trainStart 0) 1
  refine ⟨_, congrArg Host.Outcome.next ((if_neg ha).trans (if_neg (by simp [hf, hv]))), ?_, h1.open_.trans h0.open_⟩
  exact h1.closed.trans (h0.closed.trans (rd_wr_same s R.LNK_BYP_CTL.CLOSED 0 0 (by decide)))

end Sys2Proof.Machine
end

section
open Sys2Proof Sys2Proof.Machine Sys2Proof.Claims

/-- Settles O46, clause by clause: the steps of training, the lanes and the bypass, from what each writes.  Cause 1 in the record of a lane that
fails is a choice of the model (assumption log, entry 51). -/
theorem portResults : Obligations.PortResults := by
  unfold Obligations.PortResults
  intro s p
  refine ⟨fun h6 _ hc hp => ⟨execPortRetrain_trains h6 hc hp, execHoldoffExpiry_trains hc hp⟩,
    fun ok skew hinj hperm => ⟨fun hl => ⟨fun hs => ?_, fun hs => ?_, fun hs hk => ?_⟩, fun hfail h2 h4 htries => ?_,
      fun peer dev lanes w hs ht _ hw => execIdent_leaves hperm hs ht hw⟩,
    fun i h6 hi hf => ⟨fun hs hr => ?_, fun corrected hinj hc => ?_⟩,
    fun n hand w sp hs hp => ⟨execLane_hard hs hp, execLane_soft hs hp⟩,
    fun _ => ⟨⟨_, rfl, bypClose_shuts _, (bypClose_kept _).1⟩, ⟨_, rfl, bypClose_shuts _, ?_⟩, ⟨_, rfl, bypClose_shuts _, (bypClose_kept _).2⟩⟩,
    ⟨_, rfl, rd_wr_same _ _ _ _ (by decide), Frame.wr (Frame.refl _ _ _) (by simp)⟩,
    fun ha => ⟨_, congrArg Host.Outcome.next (if_pos ha), rfl, rfl⟩,
    fun ha hf hv _ => execBypassOpen_opens ha hf hv,
    fun ha hfv => congrArg Host.Outcome.next ((if_neg ha).trans (if_pos hfv))⟩
  · obtain ⟨hstep, hrate, hstate, hgood⟩ := rateFound_leaves (s := s) (p := p) ok (if (s.port p).step = 1 then 1 else 0) hperm
    refine ⟨_, execPortTrainingStepEnd_rate skew hinj hl hs, hstep, hrate.trans ?_, hstate, hgood⟩
    split <;> rfl
  · exact ⟨_, execPortTrainingStepEnd_three skew hinj hl hs, congrArg Port.step (port_stepTo _ _ _)⟩
  · obtain ⟨m, hm⟩ := execPortTrainingStepEnd_four (p := p) hinj hl hs hk
    exact ⟨_, hm, congrArg Port.step (port_stepTo s p 5), rd_wr_same _ _ _ _ (by decide), _, m, rfl⟩
  · obtain ⟨n, hn⟩ := execPortTrainingStepEnd_fails hinj hfail h2 h4
    obtain ⟨hstate, hagain⟩ := trainFail_again (s := s) (p := p) n htries
    exact ⟨_, hn, hstate, hagain⟩
  · have hframe : s.Frame ((s.wr R.LNK_LANE_STATE.FAILED p (setBit (s.rd R.LNK_LANE_STATE.FAILED p) i true)).wr R.FLT_STATUS.QUEUED 0 (s.faultq.length + 1))
      [(R.LNK_LANE_STATE.FAILED, p), (R.FLT_STATUS.QUEUED, 0)] [] := Frame.wr (Frame.wr (Frame.refl _ _ _) (by simp)) (by simp)
    exact ⟨_, execLaneFail_marks h6 hi hf hs hr, ⟨rfl, rd_wr_same _ _ _ _ (by decide)⟩, (rd_queued _ _ _ _).trans (rd_wr_same _ _ _ _ (by decide)),
      hframe.regs, hframe.faces, hframe.rest⟩
  · have hframe : s.Frame (s.bumpBy R.LNK_PORT_STAT.UNCORR p 0) [(R.LNK_PORT_STAT.UNCORR, p)] [] := Frame.bumpBy (Frame.refl _ _ _) (by simp)
    refine ⟨_, execLaneErrorWindow_counts h6 hi hinj hc, ?_, hframe.regs, hframe.faces, hframe.rest⟩
    exact (congrArg (fun x : Port => mget 0 x.errs i) (port_setPort_same _ _ _)).trans (mget_mset_same _ _ _ _)
  · rw [bypClose_force]
    exact rd_wr_same _ _ _ _ (by decide)

end

section
/-! Roles, the announcement that waits, and the takeover (16_many_devices.md R454 to R458). -/
namespace Sys2Proof.Machine
open Sys2Proof.Claims

variable {s t : State}

/-! ### What is sent -/

theorem sends_foldl {α : Type} {l : List α} {g : State → α → State} (h : s.Sends t) (hg : ∀ u e, s.Sends u → s.Sends (g u e)) :
    s.Sends (l.foldl g t) := by
  induction l generalizing t with
  | nil => exact h
  | cons e l ih => exact ih (hg _ _ h)

theorem sends_mirror {dst kind i : Nat} {ws : List Nat} (h : s.Sends t) : s.Sends (t.mirror dst kind i ws) := Sends.trans h (Sends.sendCtl _ _ _)

theorem sends_mirrorIf {c : Prop} [Decidable c] {dst kind i : Nat} {ws : List Nat} (h : s.Sends t) :
    s.Sends (if c then t else t.mirror dst kind i ws) := by
  split
  · exact h
  · exact sends_mirror h

/-- A mirror of what has changed only sends (R455). -/
theorem mirrorDiff_sends (new old : State) (dst : Nat) : new.Sends (new.mirrorDiff old dst) := by
  unfold State.mirrorDiff
  extract_lets t1 t2 t2' t3 t5
  have h1 : new.Sends t1 := sends_foldl (Sends.refl _) fun _ _ h => sends_mirrorIf h
  have h2 : new.Sends t2 := sends_foldl h1 fun _ _ h => sends_mirror h
  have h2' : new.Sends t2' := sends_foldl h2 fun _ _ h => sends_mirror h
  have h3 : new.Sends t3 := sends_foldl h2' fun _ _ h => sends_foldl (sends_mirrorIf (sends_mirrorIf h)) fun _ _ k => sends_mirrorIf k
  have h5 : new.Sends t5 := sends_foldl h3 fun _ _ h => sends_mirrorIf h
  exact sends_foldl h5 fun _ _ h => sends_foldl h fun _ _ k => sends_mirrorIf k

/-- A copy of the state names whom it goes to, and only sends. -/
theorem copyState_sends (s : State) (n : Nat) : ∃ c, ({ s with copyTo := c } : State).Sends (s.copyState n) := by
  unfold State.copyState
  split
  · exact ⟨none, Sends.refl _⟩
  · next d _ => exact ⟨some d, mirrorDiff_sends _ _ _⟩

theorem portOut_out_mono {p : Nat} {o x : Out} (h : x ∈ s.out) : x ∈ (s.portOut p o).out := by
  unfold State.portOut
  dsimp only
  split
  · exact List.mem_append_left _ h
  · exact h

/-- A message along the tree leaves at once through every child port that is ACTIVE (R439, R441). -/
theorem sendTree_emits {p : Nat} (m : Msg) (hp : p < 6) (hc : bit (s.rd R.LNK_TREE.CHILDREN (s.rd R.LNK_TIME_STAT.TREE 0)) p = true)
    (ha : s.rd R.LNK_PORT_STATE.STATE p = 4) : Out.tree p m ∈ (s.sendTree m).out := by
  have hall (n : Nat) (hn : n ≤ 6) : s.Sends (loop n s (fun t p => if bit (s.rd R.LNK_TREE.CHILDREN (s.rd R.LNK_TIME_STAT.TREE 0)) p
      then t.portOut p (.tree p m) else t)) ∧ (p < n → Out.tree p m ∈ (loop n s (fun t p => if bit (s.rd R.LNK_TREE.CHILDREN
        (s.rd R.LNK_TIME_STAT.TREE 0)) p then t.portOut p (.tree p m) else t)).out) := by
    induction n with
    | zero => exact ⟨Sends.refl s, fun k => absurd k (by omega)⟩
    | succ n ih =>
      obtain ⟨hs, hin⟩ := ih (by omega)
      rw [loop_succ]
      split
      · refine ⟨Sends.trans hs (Sends.portOut _ _ _), fun k => ?_⟩
        by_cases e : p = n
        · have hact : State.rd _ R.LNK_PORT_STATE.STATE n = 4 := (Sends.rd hs R.LNK_PORT_STATE.STATE n).trans (e ▸ ha)
          rw [e, State.portOut]
          exact (congrArg (Out.tree n m ∈ State.out ·) (if_pos ⟨hact, rfl, rfl⟩)).mpr (List.mem_append_right _ (List.mem_singleton.mpr rfl))
        · exact portOut_out_mono (hin (by omega))
      · next hbit =>
        refine ⟨hs, fun k => hin ?_⟩
        have hne : p ≠ n := fun e => hbit (e ▸ hc)
        omega
  exact (hall 6 (Nat.le_refl 6)).2 hp

/-! ### Roles (R454) -/

/-- The role that a device takes. -/
def State.roleOf (s : State) (manager standby : Nat) (valid : Bool) : Nat :=
  if manager = s.devAddr then 2 else if valid = true ∧ standby = s.devAddr then 3 else 1

/-- The roles and the tree are recorded. -/
def State.rolesPut (s : State) (role manager standby : Nat) (valid : Bool) (term tree : Nat) : State :=
  (((((s.wr R.SYN_ROLE.ROLE 0 role).wr R.SYN_ROLE.MANAGER 0 manager).wr R.SYN_ROLE.STANDBY 0 standby).wrB R.SYN_ROLE.STANDBY_VALID 0
    valid).wr R.SYN_ROLE.TERM 0 term).wr R.LNK_TIME_STAT.TREE 0 tree

theorem setRoles_eq (s : State) (manager standby : Nat) (valid : Bool) (term tree : Nat) : s.setRoles manager standby valid term tree =
    (if s.rd R.SYN_ROLE.ROLE 0 ≠ 0 ∧ s.manager ≠ manager then s.bump R.SYN_DOMAIN_STAT.TAKEOVERS 0 else s).rolesPut (s.roleOf manager standby valid)
      manager standby valid term tree := rfl

theorem roleOf_lt (s : State) (manager standby : Nat) (valid : Bool) : s.roleOf manager standby valid < 4 := by
  unfold State.roleOf
  split <;> [decide; split <;> decide]

theorem rolesPut_rolesAre (s t : State) (manager standby : Nat) (valid : Bool) (term tree : Nat) :
    RolesAre s manager standby valid term tree (t.rolesPut (s.roleOf manager standby valid) manager standby valid term tree) := by
  refine ⟨?_, ?_, ?_, ?_, ?_, rd_wr_same _ _ _ _ (by decide)⟩
  · exact (rd_wr_apart _ _ _ _ _ _ (by decide)).trans ((rd_wr_apart _ _ _ _ _ _ (by decide)).trans ((rd_wrB_apart _ _ _ _ _ _ (by decide)).trans
      ((rd_wr_apart _ _ _ _ _ _ (by decide)).trans ((rd_wr_apart _ _ _ _ _ _ (by decide)).trans
        ((rd_wr_same _ _ _ _ (by decide)).trans (Nat.mod_eq_of_lt (roleOf_lt s manager standby valid)))))))
  · exact (rd_wr_apart _ _ _ _ _ _ (by decide)).trans ((rd_wr_apart _ _ _ _ _ _ (by decide)).trans ((rd_wrB_apart _ _ _ _ _ _ (by decide)).trans
      ((rd_wr_apart _ _ _ _ _ _ (by decide)).trans (rd_wr_same _ _ _ _ (by decide)))))
  · exact (rd_wr_apart _ _ _ _ _ _ (by decide)).trans ((rd_wr_apart _ _ _ _ _ _ (by decide)).trans ((rd_wrB_apart _ _ _ _ _ _ (by decide)).trans
      (rd_wr_same _ _ _ _ (by decide))))
  · exact (rd_wr_apart _ _ _ _ _ _ (by decide)).trans ((rd_wr_apart _ _ _ _ _ _ (by decide)).trans (rd_wrB_same _ _ _ _ (by decide) (by decide)))
  · exact (rd_wr_apart _ _ _ _ _ _ (by decide)).trans (rd_wr_same _ _ _ _ (by decide))

theorem setRoles_rolesAre (s : State) (manager standby : Nat) (valid : Bool) (term tree : Nat) :
    RolesAre s manager standby valid term tree (s.setRoles manager standby valid term tree) := by
  rw [setRoles_eq]
  exact rolesPut_rolesAre _ _ _ _ _ _ _

/-- Roles are told by registers alone. -/
theorem rolesAre_of {u v : State} {manager standby term tree : Nat} {valid : Bool} (h : RolesAre s manager standby valid term tree t)
    (hd : u.devAddr = s.devAddr) (hr : v.regs = t.regs) : RolesAre u manager standby valid term tree v := by
  have hrd (g : Fld) : v.rd g 0 = t.rd g 0 := by rw [State.rd, State.rd, State.reg, State.reg, hr]
  refine ⟨?_, ?_, ?_, ?_, ?_, ?_⟩
  · rw [hrd, hd]; exact h.role
  · rw [hrd]; exact h.manager
  · rw [hrd]; exact h.standby
  · rw [hrd]; exact h.valid
  · rw [hrd]; exact h.term
  · rw [hrd]; exact h.tree

theorem wr_rest {r : SMap Word} {g : Fld} {i v : Nat} (h : ({ t with regs := r } : State) = s) : ({ t.wr g i v with regs := r } : State) = s := h

/-- Beside registers, roles change nothing. -/
theorem setRoles_rest (s : State) (manager standby : Nat) (valid : Bool) (term tree : Nat) :
    { s.setRoles manager standby valid term tree with regs := s.regs } = s := by
  have hput (t : State) (h : ({ t with regs := s.regs } : State) = s) (role : Nat) :
      ({ t.rolesPut role manager standby valid term tree with regs := s.regs } : State) = s :=
    wr_rest (wr_rest (wr_rest (wr_rest (wr_rest (wr_rest h)))))
  rw [setRoles_eq]
  split
  · exact hput _ (wr_rest rfl) _
  · exact hput _ rfl _

theorem setRoles_beside (s : State) (manager standby : Nat) (valid : Bool) (term tree : Nat) :
    RegsBeside [.SYN_ROLE, .LNK_TIME_STAT, .SYN_DOMAIN_STAT] s (s.setRoles manager standby valid term tree) := by
  have hput (t : State) (h : RegsBeside [.SYN_ROLE, .LNK_TIME_STAT, .SYN_DOMAIN_STAT] s t) (role : Nat) :
      RegsBeside [.SYN_ROLE, .LNK_TIME_STAT, .SYN_DOMAIN_STAT] s (t.rolesPut role manager standby valid term tree) :=
    ((((((h.wr (f := R.SYN_ROLE.ROLE)).wr (f := R.SYN_ROLE.MANAGER)).wr (f := R.SYN_ROLE.STANDBY)).wr (f := R.SYN_ROLE.STANDBY_VALID)).wr
      (f := R.SYN_ROLE.TERM)).wr (f := R.LNK_TIME_STAT.TREE))
  rw [setRoles_eq]
  split
  · exact hput _ ((RegsBeside.refl _ s).wr (f := R.SYN_DOMAIN_STAT.TAKEOVERS)) _
  · exact hput _ (RegsBeside.refl _ s) _

theorem setRoles_same {α : Type} (q : State → α) (hq : ∀ (u : State) r, q { u with regs := r } = q u) (s : State) (manager standby : Nat) (valid : Bool)
    (term tree : Nat) : q (s.setRoles manager standby valid term tree) = q s := by
  rw [← hq _ s.regs, setRoles_rest]

theorem sends_devAddr (h : s.Sends t) : t.devAddr = s.devAddr := Sends.rd h _ _

/-! ### ROSTER, CLAIM and the takeover (R454, R456, R457) -/

section
variable {port term : Nat}

theorem execRoster_obeyed {m sb tree : Nat} {v : Bool} (hm : FromManager s port term) (hl : NoneLost s .role) :
    ∃ t, execRoster port term m sb v tree s = .next t ∧ RolesAre s m sb v term tree t ∧ t.obeys = true := by
  have hsent := Sends.sendTree s (.role 2 [term, m, sb, if v then 1 else 0, tree])
  refine ⟨_, congrArg Host.Outcome.next ((if_neg (by simp [hm.term, hm.parent])).trans
    (ringGuard_noneLost (noneLost_of hl (Sends.ringLost hsent)) _ _)), ?_, rfl⟩
  exact rolesAre_of (setRoles_rolesAre _ m sb v term tree) (sends_devAddr hsent).symm rfl

/-- A CLAIM of a higher term makes a worker of this device. -/
theorem execClaim_obeyed {tree first m : Nat} (ht : s.term < term) (hp : s.fromParentOf tree port = true) (hm : m ≠ s.devAddr)
    (hl : NoneLost s .role) : ∃ t, execClaim port term tree first m s = .next t ∧ RolesAre s m 0 false term tree t ∧ t.obeys = true ∧ t.waitAck = false := by
  have hroles := setRoles_rolesAre s m 0 false term tree
  have hsent := Sends.sendTree (s.setRoles m 0 false term tree) (.role 1 [term, tree, first, m])
  have hu (u : State) (hr : u.regs = ((s.setRoles m 0 false term tree).sendTree (.role 1 [term, tree, first, m])).regs) : u.isManager = false := by
    have hrole : u.rd R.SYN_ROLE.ROLE 0 = 1 := by
      rw [State.rd, State.reg, hr, (Sends.regs hsent)]
      exact hroles.role.trans ((if_neg hm).trans (if_neg (by simp)))
    simp [State.isManager, hrole]
  have hstate (u : State) (hr : u.regs = ((s.setRoles m 0 false term tree).sendTree (.role 1 [term, tree, first, m])).regs) : u.Sends u.sendState := by
    unfold State.sendState
    rw [hu u hr]
    exact Sends.sendCtl _ _ _
  have hlast := hstate { (s.setRoles m 0 false term tree).sendTree (.role 1 [term, tree, first, m]) with obeys := true, waitAck := false, copyTo := none } rfl
  refine ⟨_, congrArg Host.Outcome.next ((if_neg (by simp [hp]; omega)).trans ((if_neg (by omega)).trans (ringGuard_noneLost hl _ _))), ?_, ?_, ?_⟩
  · exact rolesAre_of hroles rfl ((Sends.regs hlast :).trans (Sends.regs hsent :))
  · exact Sends.same (h := hlast) (p := State.obeys) (fun _ _ _ _ => rfl)
  · exact Sends.waitAck hlast

end

theorem execTakeover_claims (hs : s.isStandby = true) (hr : 3 ≤ s.hand.missedRow) (hm : s.manifest.length < 2 * (s.missedFrom.length + 1)) :
    ∃ t, execTakeover s = .next t ∧ RolesAre s s.devAddr 0 false (s.term + 1) (1 - s.rd R.LNK_TIME_STAT.TREE 0) t ∧ t.claims ≠ none ∧ t.missedFrom = [] := by
  obtain ⟨u, m, hx, hregs, hclaims, hmissed⟩ : ∃ (u : State) (m : Msg), execTakeover s = .next ((u.sendTree m).copyState s.manager) ∧
      u.regs = (s.setRoles s.devAddr 0 false (s.term + 1) (1 - s.rd R.LNK_TIME_STAT.TREE 0)).regs ∧ u.claims ≠ none ∧ u.missedFrom = [] :=
    ⟨_, _, congrArg Host.Outcome.next (if_neg (by simp [hs]; omega)), rfl, Option.some_ne_none _, rfl⟩
  obtain ⟨c, hcopy⟩ := copyState_sends (u.sendTree m) s.manager
  have hsent := Sends.sendTree u m
  refine ⟨_, hx, rolesAre_of (setRoles_rolesAre _ _ _ _ _ _) rfl ((Sends.regs hcopy).trans ((Sends.regs hsent).trans hregs)), ?_, ?_⟩
  · have hkept : ((u.sendTree m).copyState s.manager).claims = u.claims :=
      Eq.trans (Sends.same (h := hcopy) (p := State.claims) (fun _ _ _ _ => rfl) :) (Sends.same (h := hsent) (p := State.claims) (fun _ _ _ _ => rfl) :)
    rw [hkept]
    exact hclaims
  · exact (Sends.same (h := hcopy) (p := State.missedFrom) (fun _ _ _ _ => rfl)).trans
      ((Sends.same (h := hsent) (p := State.missedFrom) (fun _ _ _ _ => rfl)).trans hmissed)

/-! ### MIRROR_ACK and its timeout (R455) -/

/-- The announcement of the hand decided, before it is sent (R14, R18). -/
def State.announcing (s : State) : State :=
  let due := if s.annDue = 0 then s.now + s.rd R.SYN_TICK_LEAD.LEAD 0 else max (s.annDue + s.hand.annPeriod) (s.now + s.rd R.SYN_TICK_LEAD.LEAD 0)
  { s with announced := s.decided, annDue := due, waitAck := false, claims := none
           hand := { s.hand with ann := some (s.decided, due, s.rd R.SYN_TICK_PERIOD.PERIOD 0), annPeriod := s.rd R.SYN_TICK_PERIOD.PERIOD 0
                                 stopped := false } }

theorem announcing_sends (s : State) : s.announcing.Sends s.announce := Sends.sendTree _ _

theorem announcing_due (s : State) : s.now + s.rd R.SYN_TICK_LEAD.LEAD 0 ≤ s.announcing.annDue := by
  unfold State.announcing
  dsimp only
  split
  · exact Nat.le_refl _
  · exact Nat.le_max_right _ _

section
variable {port src term hand : Nat}

theorem execMirrorAck_here (hm : s.isManager = true) (ht : s.term ≤ term) (hl : NoneLost s .role) : execMirrorAck port s.devAddr src term hand s =
    .next (if s.copyTo = some src then
        ({ s.setRoles s.manager src true s.term (s.rd R.LNK_TIME_STAT.TREE 0) with copyTo := none, acked := max s.acked hand } : State).sendRoster
      else if s.waitAck = true ∧ max s.acked hand ≥ s.decided then ({ s with acked := max s.acked hand } : State).announce
      else { s with acked := max s.acked hand }) := by
  unfold execMirrorAck
  rw [if_neg (by simp), if_neg (by omega), if_neg (by simp [hm]), ringGuard_noneLost hl]

theorem execMirrorAck_announces (hm : s.isManager = true) (ht : s.term ≤ term) (hl : NoneLost s .role) (hc : s.copyTo ≠ some src)
    (hw : s.waitAck = true) (hd : s.decided ≤ max s.acked hand) :
    ∃ t due, execMirrorAck port s.devAddr src term hand s = .next t ∧ t.acked = max s.acked hand ∧ t.waitAck = false ∧
      t.announced = s.decided ∧ t.hand.ann = some (s.decided, due, s.rd R.SYN_TICK_PERIOD.PERIOD 0) ∧
      s.now + s.rd R.SYN_TICK_LEAD.LEAD 0 ≤ due := by
  have hsent := announcing_sends { s with acked := max s.acked hand }
  refine ⟨_, (State.announcing { s with acked := max s.acked hand }).annDue, (execMirrorAck_here hm ht hl).trans
    (congrArg _ ((if_neg hc).trans (if_pos ⟨hw, hd⟩))), ?_, ?_, ?_, ?_, announcing_due _⟩
  · exact Sends.same (h := hsent) (p := State.acked) (fun _ _ _ _ => rfl)
  · exact Sends.waitAck hsent
  · exact Sends.announced hsent
  · exact congrArg HandSt.ann (Sends.hand hsent)

theorem execMirrorAck_names (hm : s.isManager = true) (ht : s.term ≤ term) (hl : NoneLost s .role) (hc : s.copyTo = some src) :
    ∃ t, execMirrorAck port s.devAddr src term hand s = .next t ∧ t.copyTo = none ∧ t.acked = max s.acked hand ∧
      RolesAre s s.manager src true s.term (s.rd R.LNK_TIME_STAT.TREE 0) t := by
  have hsent (u : State) : u.Sends u.sendRoster := Sends.sendTree _ _
  have hlast := hsent { s.setRoles s.manager src true s.term (s.rd R.LNK_TIME_STAT.TREE 0) with copyTo := none, acked := max s.acked hand }
  refine ⟨_, (execMirrorAck_here hm ht hl).trans (congrArg _ (if_pos hc)), ?_, ?_, ?_⟩
  · exact Sends.same (h := hlast) (p := State.copyTo) (fun _ _ _ _ => rfl)
  · exact Sends.same (h := hlast) (p := State.acked) (fun _ _ _ _ => rfl)
  · exact rolesAre_of (setRoles_rolesAre _ _ _ _ _ _) rfl (Sends.regs hlast :)

end

/-- The record of a standby that did not acknowledge in time. -/
def State.mirrorLost (s : State) : Event :=
  { det := .mirrorLost, unit := unitId 21 0 0 0 0 + s.rd R.SYN_ROLE.STANDBY 0, d0 := BitVec.ofNat 64 (s.rd R.SYN_ROLE.STANDBY 0) }

/-- The manager has announced, and has no standby. -/
def State.standbyDropped (s : State) : State :=
  s.announce.setRoles s.manager (s.rd R.SYN_ROLE.STANDBY 0) false s.term (s.rd R.LNK_TIME_STAT.TREE 0)

theorem standbyDropped_logs (s : State) : LogsAlike s s.standbyDropped := by
  have hsent := announcing_sends s
  have hregs : RegsBeside [.SYN_ROLE, .LNK_TIME_STAT, .SYN_DOMAIN_STAT] s.announce s.standbyDropped := setRoles_beside _ _ _ _ _ _
  have hsame {α : Type} (q : State → α) (hq : ∀ (u : State) r, q { u with regs := r } = q u)
      (hp : ∀ (u : State) o x w, q { u with out := o, txq := x, ports := w } = q u) : q s.standbyDropped = q s.announcing :=
    (setRoles_same q hq _ _ _ _ _ _).trans (Sends.same (h := hsent) (p := q) hp)
  exact ⟨hsame State.injs (fun _ _ => rfl) (fun _ _ _ _ => rfl), hsame State.injLive (fun _ _ => rfl) (fun _ _ _ _ => rfl),
    hsame State.faultq (fun _ _ => rfl) (fun _ _ _ _ => rfl), hsame State.now (fun _ _ => rfl) (fun _ _ _ _ => rfl),
    (hregs.rd R.FLT_FATAL.LOG_PATH 0).trans (Sends.rd hsent _ _), (hregs.rd R.SYN_HAND_NUM.HAND 0).trans (Sends.rd hsent _ _)⟩

theorem execMirrorAckTimeout_announces (hm : s.isManager = true) (hw : s.waitAck = true) (hr : Recordable s s.mirrorLost) :
    ∃ t, execMirrorAckTimeout s = .next t ∧ t.rd R.SYN_ROLE.STANDBY_VALID 0 = 0 ∧ t.announced = s.decided ∧ t.waitAck = false ∧
      (∃ due, t.hand.ann = some (s.decided, due, s.rd R.SYN_TICK_PERIOD.PERIOD 0)) ∧ Recorded s s.mirrorLost t := by
  have hlogs := standbyDropped_logs s
  have hx : execMirrorAckTimeout s = .next ((s.standbyDropped.queued (s.mirrorLost.record s)).sendRoster.copyState (s.rd R.SYN_ROLE.STANDBY 0)) := by
    rw [← raise_queued hr hlogs]
    exact congrArg Host.Outcome.next (if_neg (by simp [hm, hw]))
  obtain ⟨c, hcopy⟩ := copyState_sends (s.standbyDropped.queued (s.mirrorLost.record s)).sendRoster (s.rd R.SYN_ROLE.STANDBY 0)
  have hroster : (s.standbyDropped.queued (s.mirrorLost.record s)).Sends (s.standbyDropped.queued (s.mirrorLost.record s)).sendRoster := Sends.sendTree _ _
  have hsent := announcing_sends s
  have hsame {α : Type} (q : State → α) (hc : ∀ (u : State) x, q { u with copyTo := x } = q u) (hq : ∀ (u : State) r, q { u with regs := r } = q u)
      (hf : ∀ (u : State) x, q { u with faultq := x } = q u) (hp : ∀ (u : State) o x w, q { u with out := o, txq := x, ports := w } = q u) :
      q ((s.standbyDropped.queued (s.mirrorLost.record s)).sendRoster.copyState (s.rd R.SYN_ROLE.STANDBY 0)) = q s.announcing :=
    calc q ((s.standbyDropped.queued (s.mirrorLost.record s)).sendRoster.copyState (s.rd R.SYN_ROLE.STANDBY 0))
        _ = q (s.standbyDropped.queued (s.mirrorLost.record s)).sendRoster := (Sends.same (h := hcopy) (p := q) hp).trans (hc _ _)
        _ = q (s.standbyDropped.queued (s.mirrorLost.record s)) := Sends.same (h := hroster) (p := q) hp
        _ = q s.standbyDropped := (hq ({ s.standbyDropped with faultq := _ } : State) _).trans (hf _ _)
        _ = q s.announcing := (setRoles_same q hq _ _ _ _ _ _).trans (Sends.same (h := hsent) (p := q) hp)
  have hrd (g : Fld) : ((s.standbyDropped.queued (s.mirrorLost.record s)).sendRoster.copyState (s.rd R.SYN_ROLE.STANDBY 0)).rd g 0 =
      (s.standbyDropped.queued (s.mirrorLost.record s)).rd g 0 := (Sends.rd hcopy g 0).trans (Sends.rd hroster g 0)
  refine ⟨_, hx, ?_, hsame State.announced (fun _ _ => rfl) (fun _ _ => rfl) (fun _ _ => rfl) (fun _ _ _ _ => rfl),
    hsame State.waitAck (fun _ _ => rfl) (fun _ _ => rfl) (fun _ _ => rfl) (fun _ _ _ _ => rfl), ⟨s.announcing.annDue, ?_⟩, hlogs.recorded ?_ (hrd _)⟩
  · refine (hrd _).trans ((rd_queued _ _ R.SYN_ROLE.STANDBY_VALID 0).trans ?_)
    exact (setRoles_rolesAre s.announce s.manager (s.rd R.SYN_ROLE.STANDBY 0) false s.term (s.rd R.LNK_TIME_STAT.TREE 0)).valid
  · exact congrArg HandSt.ann (hsame State.hand (fun _ _ => rfl) (fun _ _ => rfl) (fun _ _ => rfl) (fun _ _ _ _ => rfl))
  · exact (Sends.same (h := hcopy) (p := State.faultq) (fun _ _ _ _ => rfl)).trans (Sends.same (h := hroster) (p := State.faultq) (fun _ _ _ _ => rfl))

end Sys2Proof.Machine
end

section
open Sys2Proof Sys2Proof.Machine Sys2Proof.Claims

/-- Settles O49, message by message: what is sent changes no role, and what the roles, the announcement and the record of a lost mirror write is
said once each. -/
theorem roleResults : Obligations.RoleResults := by
  unfold Obligations.RoleResults
  intro s port term src
  refine ⟨fun m sb v tree hm hl => execRoster_obeyed hm hl, fun m sb v tree ht => ?_, fun tree first m ht hp hm hl => execClaim_obeyed ht hp hm hl,
    execTakeover_claims, fun hrole => ?_, fun last hs hm => ?_, fun hand hm ht hl => ⟨fun hc hw => ?_, execMirrorAck_announces hm ht hl,
    execMirrorAck_names hm ht hl⟩, execMirrorAckTimeout_announces⟩
  · exact ⟨_, congrArg Host.Outcome.next (if_pos (.inl ht)), badMsg_rd s port, badMsg_frame s port⟩
  · exact ⟨_, congrArg Host.Outcome.next (if_pos hrole), Sends.sendTree _ _, fun p hp hc ha => sendTree_emits _ hp hc ha⟩
  · exact ⟨_, congrArg Host.Outcome.next ((if_neg (by simp)).trans (if_pos ⟨hs, hm⟩)), rfl, rfl⟩
  · refine ⟨_, (execMirrorAck_here hm ht hl).trans (congrArg _ ((if_neg hc).trans (if_neg ?_))), rfl, rfl⟩
    rintro ⟨hwait, hge⟩
    rcases hw with h | h
    · rw [hwait] at h; cases h
    · omega

end
section
/-! The management network (18_tenancy_and_management.md R510, R513): what a datagram changes of a session, and that an operation finds the device
as it was. -/
namespace Sys2Proof.Machine
open Sys2Proof.Claims

variable {s t u v : State} {i acks : Nat} {x y : MSess}

/-! ### A device beside another's session -/

/-- The one field that follows the sessions. -/
def sessionCount : List (Fld × Nat) := [(R.PLT_LIFECYCLE.SESSIONS, 0)]

/-- Of all that `u` holds, `v` has changed session i, to x, and at most the count of the sessions. -/
structure SessionOver (u : State) (i : Nat) (x : MSess) (v : State) : Prop where
  session : v.msess i = x
  others : ∀ j, j ≠ i → v.msess j = u.msess j
  creds : { v.mgmt with sessions := u.mgmt.sessions } = u.mgmt
  regs : u.RegsBut v sessionCount
  rest : { v with regs := u.regs, mgmt := u.mgmt } = u

theorem SessionOver.refl (s : State) (i : Nat) : SessionOver s i (s.msess i) s := ⟨rfl, fun _ _ => rfl, rfl, RegsBut.refl _ _, rfl⟩

/-- What neither the registers nor the management network hold is the same. -/
theorem SessionOver.same {α : Type} (h : SessionOver u i x v) (p : State → α) (hp : ∀ (w : State) r m, p { w with regs := r, mgmt := m } = p w) :
    p v = p u := (hp v u.regs u.mgmt).symm.trans (congrArg p h.rest)

/-- The bits of a register apart from the count of the sessions. -/
theorem SessionOver.bit (h : SessionOver u i x v) {r : RegId} (hr : r ≠ .PLT_LIFECYCLE) (j b : Nat) :
    (v.reg r j).getLsbD b = (u.reg r j).getLsbD b :=
  h.regs r j b fun _ he => by
    rw [List.mem_singleton.1 he]
    exact fun k => hr k.1

theorem SessionOver.reg (h : SessionOver u i x v) {r : RegId} (hr : r ≠ .PLT_LIFECYCLE) (j : Nat) : v.reg r j = u.reg r j :=
  BitVec.eq_of_getLsbD_eq fun b _ => h.bit hr j b

theorem SessionOver.rd (h : SessionOver u i x v) (g : Fld) (j : Nat) (hg : g.reg ≠ .PLT_LIFECYCLE := by decide) : v.rd g j = u.rd g j :=
  congrArg (fun w => fget w g.lo g.wd) (h.reg hg j)

/-- A field's bits determine it. -/
theorem fget_congr {a b : Word} {lo wd : Nat} (h : ∀ k, lo ≤ k → k < lo + wd → a.getLsbD k = b.getLsbD k) : fget a lo wd = fget b lo wd := by
  apply Nat.eq_of_testBit_eq
  intro k
  rw [fget_toNat, fget_toNat, Nat.testBit_mod_two_pow, Nat.testBit_mod_two_pow, Nat.testBit_div_two_pow, Nat.testBit_div_two_pow]
  by_cases hk : k < wd
  · have e := h (lo + k) (by omega) (by omega)
    rw [BitVec.getLsbD, BitVec.getLsbD] at e
    rw [Nat.add_comm k lo, e]
  · simp [hk]

theorem SessionOver.rd_apart (h : SessionOver u i x v) (g : Fld) (j : Nat) (hg : R.PLT_LIFECYCLE.SESSIONS.apart g = true := by decide) :
    v.rd g j = u.rd g j := by
  refine fget_congr fun b hlo hhi => h.regs _ _ _ fun e he k => ?_
  rw [List.mem_singleton.1 he] at k
  obtain ⟨hreg, -, hb, hb'⟩ := k
  simp only [Fld.apart, Bool.and_eq_true, Bool.or_eq_true, decide_eq_true_eq] at hg
  obtain ⟨-, ha⟩ := hg
  change R.PLT_LIFECYCLE.SESSIONS.lo ≤ b at hb
  change b < R.PLT_LIFECYCLE.SESSIONS.lo + R.PLT_LIFECYCLE.SESSIONS.wd at hb'
  rcases ha with ha | ha
  · exact absurd hreg ha
  · omega

/-- A register after some registers have been reset. -/
theorem reg_resetRegs_all (s : State) (rs : List RegId) (r : RegId) (j : Nat) : (s.resetRegs rs).reg r j =
    if rs.any (fun q => decide (q.ctorIdx = r.ctorIdx)) then resetWord r j else s.reg r j := by
  have hk : regKey r j % 256 = r.ctorIdx := by
    have := ctorIdx_lt r
    simp only [regKey]
    omega
  show mget _ (mdrop (fun k => rs.any (fun q => decide (q.ctorIdx = k % 256))) s.regs) _ = _
  rw [mget_mdrop, hk]
  rfl

/-! The same change on both sides keeps the two devices beside each other. -/

theorem SessionOver.setReg (h : SessionOver u i x v) (r : RegId) (j : Nat) (w : Word) :
    SessionOver (u.setReg r j w) i x (v.setReg r j w) where
  session := h.session
  others := h.others
  creds := h.creds
  regs q k b hb := by
    rw [reg_setReg, reg_setReg]
    split
    · rfl
    · exact h.regs q k b hb
  rest := congrArg (fun t : State => t.setReg r j w) h.rest

theorem SessionOver.wr (h : SessionOver u i x v) (g : Fld) (j n : Nat) (hg : g.lo + g.wd ≤ 64 := by decide) :
    SessionOver (u.wr g j n) i x (v.wr g j n) where
  session := h.session
  others := h.others
  creds := h.creds
  regs q k b hb := by
    rw [reg_wr, reg_wr]
    split
    · next e =>
      obtain ⟨rfl, rfl⟩ := e
      by_cases hlt : b < 64
      · rw [getLsbD_fput _ _ _ _ _ hg hlt, getLsbD_fput _ _ _ _ _ hg hlt, h.regs _ _ b hb]
      · rw [BitVec.getLsbD_of_ge _ _ (by omega), BitVec.getLsbD_of_ge _ _ (by omega)]
    · exact h.regs q k b hb
  rest := congrArg (fun t : State => t.wr g j n) h.rest

theorem SessionOver.resetRegs (h : SessionOver u i x v) (rs : List RegId) : SessionOver (u.resetRegs rs) i x (v.resetRegs rs) where
  session := h.session
  others := h.others
  creds := h.creds
  regs q k b hb := by
    rw [reg_resetRegs_all, reg_resetRegs_all]
    split
    · rfl
    · exact h.regs q k b hb
  rest := congrArg (fun t : State => t.resetRegs rs) h.rest

/-- So does a change that neither reads nor writes the registers and the management network. -/
theorem SessionOver.map (h : SessionOver u i x v) (g : State → State)
    (hg : ∀ (w : State) r m, g { w with regs := r, mgmt := m } = { g w with regs := r, mgmt := m }) : SessionOver (g u) i x (g v) := by
  have hu : { g u with regs := u.regs, mgmt := u.mgmt } = g u := (hg u u.regs u.mgmt).symm
  have hv : { g v with regs := v.regs, mgmt := v.mgmt } = g v := (hg v v.regs v.mgmt).symm
  have hr : { g v with regs := u.regs, mgmt := u.mgmt } = g u := (hg v u.regs u.mgmt).symm.trans (congrArg g h.rest)
  rw [← hu, ← hv]
  exact ⟨h.session, h.others, h.creds, h.regs, hr.trans hu.symm⟩

/-! ### Datagrams -/

/-- Changing session i leaves the others, and its count, as they should be. -/
theorem SessionOver.setMsess (h : SessionOver u i x v) (y : MSess) : SessionOver u i y (v.setMsess i y) where
  session := mget_mset_same _ _ _ _
  others j hj := (mget_mset_other _ _ _ _ _ _ hj).trans (h.others j hj)
  creds := h.creds
  regs := RegsBut.wr (f := R.PLT_LIFECYCLE.SESSIONS) h.regs (by simp [sessionCount])
  rest := h.rest

theorem setMsess_count (s : State) (i : Nat) (y : MSess) : (s.setMsess i y).rd R.PLT_LIFECYCLE.SESSIONS 0 =
    min 4 ((s.setMsess i y).mgmt.sessions.filter (fun e => e.2.live)).length := by
  refine (rd_wr_same _ _ _ _ (by decide)).trans (Nat.mod_eq_of_lt ?_)
  exact Nat.lt_of_le_of_lt (Nat.min_le_left _ _) (by decide)

theorem SessionOver.only (h : SessionOver u i x v) (y : MSess) : OnlySession u i y (v.setMsess i y) := by
  have k := h.setMsess y
  exact ⟨k.session, k.others, setMsess_count v i y, k.creds, k.regs, fun f _ => k.same (fun t => t.face f) fun _ _ _ => rfl,
     congrArg (fun t : State => { t with faces := u.faces }) k.rest⟩

theorem onlySession_setMsess (s : State) (i : Nat) (y : MSess) : OnlySession s i y (s.setMsess i y) := (SessionOver.refl s i).only y

/-- The session after its peer's datagram. -/
def MSess.taken (x : MSess) (now acks : Nat) : MSess :=
  { x with last := now, out := x.out.drop acks, repeats := if acks = 0 then x.repeats else 0 }

theorem mgmtTake_live (acks : Nat) (h : (s.msess i).live = true) : s.mgmtTake i acks = s.setMsess i ((s.msess i).taken s.now acks) := if_pos h

theorem mgmtTake_dead (acks : Nat) (h : (s.msess i).live = false) : s.mgmtTake i acks = s := if_neg (ne_true_of_eq_false h)

theorem mgmtSend_dead (body : List Nat) (h : (s.msess i).live = false) : s.mgmtSend i body = s := if_neg (ne_true_of_eq_false h)

/-- The device as a peer's datagram leaves it. -/
theorem sessionOver_take (acks : Nat) (h : (s.msess i).live = true) :
    SessionOver s i ((s.msess i).taken s.now acks) (s.mgmtTake i acks) := by
  rw [mgmtTake_live acks h]
  exact (SessionOver.refl s i).setMsess _

/-- An answer, on the device beside `u`, is the reply of `u`. -/
theorem SessionOver.replies (h : SessionOver u i ((s.msess i).taken s.now acks) v) (hl : (s.msess i).live = true) (body : List Nat) :
    Replies s u i acks body (v.mgmtSend i body) := by
  have hsend : v.mgmtSend i body = (v.setMsess i (replied (s.msess i) s.now acks body)).emit (.mgmt i body) := by
    rw [State.mgmtSend, h.session, if_pos (by exact hl)]
    rfl
  have hout : v.out = u.out := h.same State.out fun _ _ _ => rfl
  rw [hsend]
  refine ⟨congrArg (· ++ [Out.mgmt i body]) hout, ?_⟩
  rw [← hout]
  exact h.only _

end Sys2Proof.Machine
end
section
/-! Handshakes, timeouts and refusals on the management network (R510, R511, R513). -/
namespace Sys2Proof.Machine
open Sys2Proof.Claims

variable {s t u v : State} {i acks : Nat}

/-! ### Sessions -/

theorem execMgmtHandshake_ignored (client : Option Nat) (proto : Bool) (h : 4 ≤ (s.mgmt.sessions.filter (fun e => e.2.live)).length) :
    execMgmtHandshake i client proto s = .next s := congrArg Host.Outcome.next (if_pos (Or.inr h))

theorem execMgmtHandshake_known {c : Nat} (hl : (s.msess i).live = false) (hn : (s.mgmt.sessions.filter (fun e => e.2.live)).length < 4)
    (hc : c ∈ s.mgmt.ops) : execMgmtHandshake i (some c) true s = .next (s.setMsess i { live := true, cred := true, last := s.now }) := by
  refine congrArg Host.Outcome.next ?_
  rw [if_neg (by simp [hl, hn]), if_neg (by simp [hc])]
  simp [hc]

theorem execMgmtHandshake_first {client : Option Nat} (hl : (s.msess i).live = false)
    (hn : (s.mgmt.sessions.filter (fun e => e.2.live)).length < 4) (ho : s.mgmt.ops = []) :
    execMgmtHandshake i client true s = .next (s.setMsess i { live := true, cred := false, last := s.now }) := by
  refine congrArg Host.Outcome.next ?_
  rw [if_neg (by simp [hl, hn]), if_neg (by simp [ho])]
  cases client <;> simp [ho]

theorem execMgmtHandshake_fails {client : Option Nat} {proto : Bool} (hl : (s.msess i).live = false)
    (hn : (s.mgmt.sessions.filter (fun e => e.2.live)).length < 4)
    (hf : proto = false ∨ (s.mgmt.ops ≠ [] ∧ ∀ c ∈ s.mgmt.ops, client ≠ some c)) :
    execMgmtHandshake i client proto s = .next (s.bump R.PLT_LIFECYCLE.AUTH_FAIL 0) := by
  refine congrArg Host.Outcome.next ?_
  rw [if_neg (by simp [hl, hn]), if_pos]
  refine hf.imp id fun ⟨hne, hall⟩ => ⟨hne, ?_⟩
  cases client with
  | none => rfl
  | some c => exact Bool.eq_false_iff.2 fun hk => hall c (List.contains_iff_mem.1 hk) rfl

theorem execMgmtRetransmit_repeats {d : Nat × List Nat} {rest : List (Nat × List Nat)} (hl : (s.msess i).live = true)
    (ho : (s.msess i).out = d :: rest) (hr : (s.msess i).repeats < 8) : execMgmtRetransmit i s =
      .next ((s.setMsess i { s.msess i with repeats := (s.msess i).repeats + 1 }).emit (.mgmt i d.2)) := by
  unfold execMgmtRetransmit
  extract_lets x
  rw [show x.out = d :: rest from ho]
  exact congrArg Host.Outcome.next ((if_neg (by simp [x, hl])).trans (if_neg (Nat.not_le.2 hr)))

theorem execMgmtRetransmit_closes {d : Nat × List Nat} {rest : List (Nat × List Nat)} (hl : (s.msess i).live = true)
    (ho : (s.msess i).out = d :: rest) (hr : 8 ≤ (s.msess i).repeats) : execMgmtRetransmit i s = .next (s.setMsess i {}) := by
  unfold execMgmtRetransmit
  extract_lets x
  rw [show x.out = d :: rest from ho]
  exact congrArg Host.Outcome.next ((if_neg (by simp [x, hl])).trans (if_pos hr))

theorem execMgmtIdleTimeout_closes (hl : (s.msess i).live = true) :
    execMgmtIdleTimeout i s = .next ((s.advance ((s.msess i).last + 300000000000)).setMsess i {}) := congrArg Host.Outcome.next (if_pos hl)

/-! ### Operations -/

theorem mayOp_iff (s : State) (i : Nat) (lives : List Nat) : s.mayOp i lives = true ↔ Operator s i lives := by
  simp only [State.mayOp, State.life, Bool.and_eq_true, List.contains_iff_mem]
  exact ⟨fun ⟨⟨hl, hc⟩, hs⟩ => ⟨hl, hc, hs⟩, fun ⟨hl, hc, hs⟩ => ⟨⟨hl, hc⟩, hs⟩⟩

/-- An operation that its function carries out is answered with its code, 0 and what it reports. -/
theorem mgmtOp_replies {code : Nat} {may : Bool} {g : State → Option (State × List Nat)} {body : List Nat} (hl : (s.msess i).live = true)
    (hm : may = true) (hg : g (s.mgmtTake i acks) = some (v, body)) (h : SessionOver u i ((s.msess i).taken s.now acks) v) :
    Replies s u i acks (code :: 0 :: body) (s.mgmtOp i acks code may g) := by
  rw [State.mgmtOp, if_pos hm, hg]
  exact h.replies hl _

/-- An operation that its function refuses is answered with its code and 1. -/
theorem mgmtOp_none {code : Nat} {may : Bool} {g : State → Option (State × List Nat)} (hl : (s.msess i).live = true)
    (hg : may = false ∨ g (s.mgmtTake i acks) = none) : Replies s s i acks [code, 1] (s.mgmtOp i acks code may g) := by
  have hr := (sessionOver_take acks hl).replies hl [code, 1]
  unfold State.mgmtOp
  cases may with
  | false => exact hr
  | true => rw [if_pos rfl, hg.resolve_left (by decide)]; exact hr

theorem mgmtOp_dead {code : Nat} {g : State → Option (State × List Nat)} (hl : (s.msess i).live = false) :
    s.mgmtOp i acks code false g = s := by
  rw [State.mgmtOp, if_neg (by decide), mgmtTake_dead acks hl, mgmtSend_dead _ hl]

/-- Every operation that needs a credential is refused without one, and in another state of the lifecycle. -/
theorem exec_operates {c : Instr} {code : Nat} {lives : List Nat} (h : Operates i acks c code lives) (hm : s.mayOp i lives = false) :
    exec c s = .next (s.mgmtOp i acks code false (fun _ => none)) := by
  rcases h with ⟨_, rfl, rfl, rfl⟩ | ⟨_, _, rfl, rfl, rfl⟩ | ⟨_, _, rfl, rfl, rfl⟩ | ⟨_, rfl, rfl, rfl⟩ | ⟨_, _, _, rfl, rfl, rfl⟩ |
    ⟨_, rfl, rfl, rfl⟩ | ⟨_, rfl, rfl, rfl⟩ | ⟨rfl, rfl, rfl⟩ | ⟨rfl, rfl, rfl⟩ | ⟨rfl, rfl, rfl⟩ | ⟨_, _, _, _, rfl, rfl, rfl⟩ |
    ⟨_, rfl, rfl, rfl⟩ | ⟨_, _, _, rfl, rfl, rfl⟩
  case inr.inr.inr.inr.inr.inr.inr.inl => exact congrArg Host.Outcome.next (if_neg (ne_true_of_eq_false hm))
  all_goals exact congrArg (fun m => Host.Outcome.next (s.mgmtOp i acks _ m _)) hm

end Sys2Proof.Machine
end
section
/-! Reads over the management network (R513): registers, history and records. -/
namespace Sys2Proof.Machine
open Sys2Proof.Claims

variable {s t u v : State} {i acks : Nat} {x : MSess}

/-! ### What an operation finds -/

theorem SessionOver.life (h : SessionOver u i x v) : v.life = u.life := h.rd_apart R.PLT_LIFECYCLE.STATE 0

theorem SessionOver.ticking (h : SessionOver u i x v) : v.ticking = u.ticking :=
  ticking_congr (h.rd R.SYN_TICK_PERIOD.PERIOD 0) (h.same State.hand fun _ _ _ => rfl)

theorem SessionOver.ops (h : SessionOver u i x v) : v.mgmt.ops = u.mgmt.ops := (congrArg Mgmt.ops h.creds :)

theorem SessionOver.noFace (h : SessionOver u i x v) (r : RegId) (j : Nat) : v.noFace r j = u.noFace r j := by
  simp only [State.noFace, State.nFaces, h.rd R.PLT_CAP_FACES.COUNT 0]
  rfl

theorem SessionOver.freshReg (h : SessionOver u i x v) {r : RegId} (hr : r ≠ .PLT_LIFECYCLE) (j : Nat) : v.freshReg r j = u.freshReg r j := by
  have hface (f : Nat) : v.face f = u.face f := h.same (fun t => t.face f) fun _ _ _ => rfl
  have hcal (f b : Nat) : v.cal f b = u.cal f b := h.same (fun t => t.cal f b) fun _ _ _ => rfl
  have hnow : v.now = u.now := h.same State.now fun _ _ _ => rfl
  simp only [State.freshReg, h.reg hr, hface, hcal, hnow, State.lifeOpen, h.rd_apart R.PLT_LIFECYCLE.STATE 0]
  rfl

/-- What reads as before is as before. -/
theorem SessionOver.kept (h : SessionOver u i x v) (hr : ∀ r j, t.reg r j = v.reg r j) (ht : { t with regs := v.regs } = v) :
    SessionOver u i x t := by
  have hm : t.mgmt = v.mgmt := (congrArg State.mgmt ht :)
  refine ⟨?_, fun j hj => ?_, ?_, fun r j b hb => ?_, (congrArg (fun w : State => { w with regs := u.regs, mgmt := u.mgmt }) ht).trans h.rest⟩
  · rw [State.msess, hm]; exact h.session
  · rw [State.msess, hm]; exact h.others j hj
  · rw [hm]; exact h.creds
  · rw [hr]; exact h.regs r j b hb

theorem SessionOver.setReg_same (h : SessionOver u i x v) {r : RegId} {j : Nat} {w : Word} (hw : w = v.reg r j) :
    SessionOver u i x (v.setReg r j w) := by
  refine h.kept (fun q k => ?_) rfl
  rw [reg_setReg]
  split
  · next e => rw [hw, e.1, e.2]
  · rfl

/-! ### HBM -/

theorem SessionOver.logSlot (h : SessionOver u i x v) (n : Nat) : v.logSlot n = u.logSlot n := by
  simp only [State.logSlot, h.rd R.FLT_LOG_CFG.STACK, h.rd R.FLT_LOG_CFG.BASE, h.rd R.FLT_LOG_CFG.SIZE]

theorem SessionOver.readsClean (h : SessionOver u i x v) {g : Nat} {ws : List Word} (k : ReadsClean u g ws) : ReadsClean v g ws := by
  have hgran : v.gran g = u.gran g := h.same (fun t => t.gran g) fun _ _ _ => rfl
  have hmeta : v.hbmMeta = u.hbmMeta := h.same State.hbmMeta fun _ _ _ => rfl
  have hgen : v.keyGen = u.keyGen := h.same State.keyGen fun _ _ _ => rfl
  have hinj : v.injs = u.injs := h.same State.injs fun _ _ _ => rfl
  have hhbm : v.hbm = u.hbm := h.same State.hbm fun _ _ _ => rfl
  have hin (a : Nat) : v.inWreg a = u.inWreg a := by simp only [State.inWreg, h.rd R.MEM_WREG.BASE, h.rd R.MEM_WREG.LIMIT]
  have hon (p : Nat) : v.stackOn p = u.stackOn p := by
    simp only [State.stackOn, State.stackPresent, State.domOn, State.domain, h.rd R.PLT_CAP_UNITS.STACKS,
      h.rd (R.PWR_DOM_STATE.STATE _) 0 (by simp [R.PWR_DOM_STATE.STATE])]
    rfl
  refine ⟨?_, ?_, ?_, ?_, ?_, ?_⟩
  · rw [hin, hon]; exact k.place
  · rw [h.rd R.KEY_STATE.PLATFORM_VALID, hgran, hgen]; exact k.key
  · rw [hgran]; exact k.here
  · rw [hgran, hmeta]; exact k.clean
  · rw [hgran]; exact k.words
  · rw [hinj, hhbm]; exact k.quiet

theorem SessionOver.readDone (h : SessionOver u i x v) (g : Nat) : SessionOver u i x (v.readDone g) :=
  h.kept (fun r j => reg_bumpBy_zero _ _ _ _ _ (by decide)) rfl

/-- The eight words of a slot of the log ring whose granule is whole. -/
theorem readLog_slot {n : Nat} {ws : List Word} (h : ReadsClean s (s.logSlot n / 128) ws) : s.readLog 0 n =
    (s.readDone (s.logSlot n / 128), (List.range 8).map (fun k => (ws.getD (s.logSlot n / 8 % 16 + k) 0#64).toNat)) := by
  have hon : s.stackOn (hStack (s.logSlot n)) = true := by rw [← hStack_gran]; exact h.place.2
  have half := logSlot_half s n
  simp only [State.readLog, if_pos, hon, hbmRead_clean h]
  refine congrArg (Prod.mk _) (List.map_congr_left fun k hk => ?_)
  rw [raw_getD h (by have := List.mem_range.1 hk; omega)]

/-- The history of a unit. -/
theorem readLog_history (s : State) (n : Nat) : s.readLog 1 n = (s, [if n ∈ s.hist.map Prod.fst then 1 else 0,
    if (mget {} s.hist n).perm then 1 else 0, (mget {} s.hist n).count, (mget {} s.hist n).t1, (mget {} s.hist n).t2]) := by
  have hk : (s.hist.any (fun e => decide (e.1 = n)) = true) = (n ∈ s.hist.map Prod.fst) := propext ((any_known s n).trans List.mem_map.symm)
  unfold State.readLog
  simp only [hk]
  rfl

/-! ### READ_REG and READ_LOG -/

/-- An operator's operation reaches the device beside the answering session. -/
theorem operator_over {lives : List Nat} (h : Operator s i lives) (acks : Nat) :
    SessionOver s i ((s.msess i).taken s.now acks) (s.mgmtTake i acks) := sessionOver_take acks h.live

theorem operator_may {lives : List Nat} (h : Operator s i lives) : s.mayOp i lives = true := (mayOp_iff s i lives).2 h

section
variable (h : Operator s i [1, 2, 3])
include h

theorem execReadReg_none {off : Nat} (ho : regAt off = none) : ∃ t, execReadReg i acks off s = .next t ∧ Replies s s i acks [2, 0, 0] t :=
  ⟨_, rfl, mgmtOp_replies h.live (operator_may h) (by rw [ho]) (operator_over h acks)⟩

theorem execReadReg_noFace {off j : Nat} {r : RegId} (ho : regAt off = some (r, j)) (ha : r ≠ .HIF_PF2_APERTURE) (hn : s.noFace r j = true) :
    ∃ t, execReadReg i acks off s = .next t ∧ Replies s s i acks [2, 0, 0] t := by
  refine ⟨_, rfl, mgmtOp_replies (v := s.mgmtTake i acks) h.live (operator_may h) ?_ (operator_over h acks)⟩
  rw [ho]
  simp only [if_neg ha, State.readReg, (operator_over h acks).noFace, hn, if_pos]
  rfl

theorem execReadReg_reads {off j : Nat} {r : RegId} (ho : regAt off = some (r, j)) (ha : r ≠ .HIF_PF2_APERTURE) (hr : r ≠ .PLT_LIFECYCLE)
    (hn : s.noFace r j = false) : ∃ t, execReadReg i acks off s = .next t ∧
      Replies s (s.setReg r j (afterRead r (s.reg r j))) i acks [2, 0, (readImage r (s.freshReg r j)).toNat] t := by
  have k := operator_over h acks
  refine ⟨_, rfl, mgmtOp_replies h.live (operator_may h) ?_ (k.setReg r j (afterRead r (s.reg r j)))⟩
  rw [ho]
  simp only [if_neg ha, State.readReg, k.noFace, hn, k.reg hr, k.freshReg hr, Bool.false_eq_true, if_false]

theorem execReadLog_history (n : Nat) : ∃ t, execReadLog i acks 1 n s = .next t ∧
    Replies s s i acks [4, 0, if n ∈ s.hist.map Prod.fst then 1 else 0, if (mget {} s.hist n).perm then 1 else 0, (mget {} s.hist n).count,
      (mget {} s.hist n).t1, (mget {} s.hist n).t2] t := by
  have k := operator_over h acks
  have hh : (s.mgmtTake i acks).hist = s.hist := k.same State.hist fun _ _ _ => rfl
  refine ⟨_, rfl, mgmtOp_replies h.live (operator_may h) (congrArg some ?_) k⟩
  rw [readLog_history, hh]

theorem execReadLog_record {n : Nat} {r : FRec} (hn : s.nvLog[n]? = some r) : ∃ t, execReadLog i acks 2 n s = .next t ∧
    Replies s s i acks (4 :: 0 :: (r.words 0).map BitVec.toNat) t := by
  have k := operator_over h acks
  have hh : (s.mgmtTake i acks).nvLog = s.nvLog := k.same State.nvLog fun _ _ _ => rfl
  refine ⟨_, rfl, mgmtOp_replies h.live (operator_may h) (congrArg some ?_) k⟩
  simp [State.readLog, hh, hn]

theorem execReadLog_slot {n : Nat} {ws : List Word} (hc : ReadsClean s (s.logSlot n / 128) ws) : ∃ t, execReadLog i acks 0 n s = .next t ∧
    Replies s s i acks (4 :: 0 :: (List.range 8).map (fun k => (ws.getD (s.logSlot n / 8 % 16 + k) 0#64).toNat)) t := by
  have k := operator_over h acks
  have hs : ReadsClean (s.mgmtTake i acks) ((s.mgmtTake i acks).logSlot n / 128) ws := by
    rw [k.logSlot]
    exact k.readsClean hc
  refine ⟨_, rfl, mgmtOp_replies h.live (operator_may h) (congrArg some ?_) (k.readDone (s.logSlot n / 128))⟩
  rw [readLog_slot hs, k.logSlot]
end

end Sys2Proof.Machine
end
section
/-! Operations of the management network that change the device (R499, R507, R513, R558, R560). -/
namespace Sys2Proof.Machine
open Sys2Proof.Claims

variable {s t u v : State} {i acks : Nat} {x : MSess}

/-! ### Register writes -/

theorem writeRequest_stored {r : RegId} (h : r ∉ requestRegs) (s : State) (fn j : Nat) (w : Word) : s.writeRequest fn r j w = none := by
  unfold State.writeRequest
  split <;> simp [requestRegs] at h ⊢

/-- A register with no field that a function writes is left as it is. -/
theorem writeReg_unwritten {r : RegId} {fn : Nat} (h : r ∉ requestRegs) (hf : ∀ g ∈ (regInfo r).fields, g.path.mayFn fn = false) (s : State) (j : Nat)
    (w : Word) : s.writeReg fn r j w = s := by
  have hall : (regInfo r).fields.all (fun f => !f.path.mayFn fn) = true := List.all_eq_true.2 fun g hg => by rw [hf g hg]; rfl
  rw [State.writeReg, writeRequest_stored h]
  by_cases hn : s.noFace r j = true
  · exact if_pos hn
  · exact (if_neg hn).trans (if_pos hall)

/-- The low bits of a word, as a number. -/
theorem low_and_mask (w : Word) (n : Nat) :
    BitVec.ofNat 64 (w.toNat % 2 ^ n) &&& BitVec.ofNat 64 (2 ^ n - 1) = w &&& BitVec.ofNat 64 (2 ^ n - 1) := by
  refine BitVec.eq_of_getLsbD_eq fun b hb => ?_
  simp only [BitVec.getLsbD_and, BitVec.getLsbD_ofNat, Nat.testBit_mod_two_pow, Nat.testBit_two_pow_sub_one, hb, decide_true, Bool.true_and]
  by_cases h : b < n <;> simp [h, BitVec.getLsbD]

/-- The image of a management write of PLT_WIMG_FLOOR. -/
theorem writeImage_floor (old w : Word) : writeImage .PLT_WIMG_FLOOR (fun f => f.path.mayFn 7) old w = fput old 0 32 (w.toNat % 2 ^ 32) := by
  have hrw : fieldMask (fun f => f.path.mayFn 7 && f.acc == .rw) (regInfo .PLT_WIMG_FLOOR).fields = BitVec.ofNat 64 (2 ^ 32 - 1) := by decide
  have hwc : fieldMask (fun f => f.path.mayFn 7 && f.acc == .w1c) (regInfo .PLT_WIMG_FLOOR).fields = 0#64 := by decide
  simp only [writeImage, hrw, hwc, fput, low_and_mask, BitVec.shiftLeft_zero, BitVec.and_zero, BitVec.not_zero, BitVec.and_allOnes]

/-- A field put back is the word before. -/
theorem fput_masked (old : Word) (n : Nat) :
    (fput old 0 32 n &&& ~~~ BitVec.ofNat 64 (2 ^ 32 - 1)) ||| (old &&& BitVec.ofNat 64 (2 ^ 32 - 1)) = old := by
  refine BitVec.eq_of_getLsbD_eq fun b hb => ?_
  have hm : (BitVec.ofNat 64 (2 ^ 32 - 1)).getLsbD b = decide (b < 32) := by
    rw [BitVec.getLsbD_ofNat, Nat.testBit_two_pow_sub_one]
    simp [hb]
  simp only [BitVec.getLsbD_or, BitVec.getLsbD_and, BitVec.getLsbD_not, hm, getLsbD_fput _ _ _ _ _ (by decide : 0 + 32 ≤ 64) hb, hb]
  by_cases h : b < 32 <;> simp [h]

/-- WRITE_REG of the floor: a lower value is refused, and the register keeps its word. -/
theorem writeReg_floor (s : State) (j : Nat) (w : Word) : s.writeReg 7 .PLT_WIMG_FLOOR j w =
    if w.toNat % 2 ^ 32 < s.rd R.PLT_WIMG_FLOOR.FLOOR j then s.setReg .PLT_WIMG_FLOOR j (s.reg .PLT_WIMG_FLOOR j)
    else s.wr R.PLT_WIMG_FLOOR.FLOOR j (w.toNat % 2 ^ 32) := by
  have hrw : fieldMask (fun f => f.acc == .rw) (regInfo .PLT_WIMG_FLOOR).fields = BitVec.ofNat 64 (2 ^ 32 - 1) := by decide
  have hn : s.noFace .PLT_WIMG_FLOOR j = false := by simp [State.noFace, regInfo]
  have hfld : fw (fput (s.reg .PLT_WIMG_FLOOR j) 0 32 (w.toNat % 2 ^ 32)) R.PLT_WIMG_FLOOR.FLOOR = w.toNat % 2 ^ 32 :=
    (fget_fput_same _ _ _ _ (by decide)).trans (Nat.mod_mod _ _)
  have hstored : s.writeReg 7 .PLT_WIMG_FLOOR j w =
      s.setReg .PLT_WIMG_FLOOR j (s.legal .PLT_WIMG_FLOOR j (fput (s.reg .PLT_WIMG_FLOOR j) 0 32 (w.toNat % 2 ^ 32))).2 := by
    rw [← writeImage_floor]
    exact (if_neg (ne_true_of_eq_false hn)).trans (if_neg (by decide))
  rw [hstored]
  refine (congrArg (s.setReg .PLT_WIMG_FLOOR j) (?_ : _ = if w.toNat % 2 ^ 32 < s.rd R.PLT_WIMG_FLOOR.FLOOR j then s.reg .PLT_WIMG_FLOOR j
    else fput (s.reg .PLT_WIMG_FLOOR j) 0 32 (w.toNat % 2 ^ 32))).trans (apply_ite _ _ _ _)
  show (if decide (_ < s.rd R.PLT_WIMG_FLOOR.FLOOR j) = true then _ else _) = _
  simp only [hfld, decide_eq_true_eq, hrw, fput_masked]
  rfl

end Sys2Proof.Machine
end
section
/-! What a management operation leaves, beside its session (R499, R507, R513, R558, R560). -/
namespace Sys2Proof.Machine
open Sys2Proof.Claims

variable {s t u v : State} {i acks : Nat} {x : MSess}

/-! ### Writes and the floor -/

section
variable (h : Operator s i [1, 2])
include h

theorem execWriteReg_none {off : Nat} (w : Word) (ho : regAt off = none) :
    ∃ t, execWriteReg i acks off w s = .next t ∧ Replies s s i acks [3, 0] t :=
  ⟨_, rfl, mgmtOp_replies h.live (operator_may h) (by rw [ho]) (operator_over h acks)⟩

theorem execWriteReg_unwritten {off j : Nat} {r : RegId} (w : Word) (ho : regAt off = some (r, j)) (hr : r ∉ requestRegs)
    (hf : ∀ g ∈ (regInfo r).fields, g.path.mayFn 7 = false) : ∃ t, execWriteReg i acks off w s = .next t ∧ Replies s s i acks [3, 0] t := by
  refine ⟨_, rfl, mgmtOp_replies h.live (operator_may h) ?_ (operator_over h acks)⟩
  rw [ho]
  simp only [writeReg_unwritten hr hf, ite_self]

theorem execWriteReg_floor {off j : Nat} (w : Word) (ho : regAt off = some (.PLT_WIMG_FLOOR, j)) : ∃ t, execWriteReg i acks off w s = .next t ∧
    Replies s (if w.toNat % 2 ^ 32 < s.rd R.PLT_WIMG_FLOOR.FLOOR j then s else s.wr R.PLT_WIMG_FLOOR.FLOOR j (w.toNat % 2 ^ 32)) i acks [3, 0] t := by
  have k := operator_over h acks
  refine ⟨_, rfl, mgmtOp_replies (v := (s.mgmtTake i acks).writeReg 7 .PLT_WIMG_FLOOR j w) h.live (operator_may h) ?_ ?_⟩
  · rw [ho]
    rfl
  · rw [writeReg_floor, k.rd R.PLT_WIMG_FLOOR.FLOOR j]
    split
    · exact k.setReg_same rfl
    · exact k.wr R.PLT_WIMG_FLOOR.FLOOR j _

theorem execSetFloor_raises {n : Nat} (hlow : s.rd R.PLT_WIMG_FLOOR.FLOOR 0 ≤ n) (hn : n < 2 ^ 32) :
    ∃ t, execSetFloor i acks n s = .next t ∧ Replies s (s.wr R.PLT_WIMG_FLOOR.FLOOR 0 n) i acks [7, 0] t := by
  have k := operator_over h acks
  refine ⟨_, rfl, mgmtOp_replies h.live (operator_may h) ?_ (k.wr R.PLT_WIMG_FLOOR.FLOOR 0 n)⟩
  rw [k.rd R.PLT_WIMG_FLOOR.FLOOR, if_neg (by omega)]

theorem execSetFloor_refuses {n : Nat} (hn : n < s.rd R.PLT_WIMG_FLOOR.FLOOR 0 ∨ 2 ^ 32 ≤ n) :
    ∃ t, execSetFloor i acks n s = .next t ∧ Replies s s i acks [7, 1] t := by
  refine ⟨_, rfl, mgmtOp_none h.live (Or.inr ?_)⟩
  rw [(operator_over h acks).rd R.PLT_WIMG_FLOOR.FLOOR, if_pos hn]

/-! ### RELEASE -/

theorem execMgmtRelease_waits (hst : s.rd R.KEY_SESSION.STATE 0 ≤ 2) (hat : s.rd R.KEY_SESSION_CTL.AT_HAND 0 = 0) (ht : s.ticking = true) :
    ∃ t, execMgmtRelease i acks s = .next t ∧ Replies s (s.modKey (fun x => { x with release := some 0 })) i acks [8, 0] t := by
  have k := operator_over h acks
  have hr : (s.mgmtTake i acks).releaseReason = 0 :=
    releaseReason_allowed ((k.rd R.KEY_SESSION.STATE 0).trans_le hst) fun e => by
      rw [k.rd R.KEY_SESSION_CTL.AT_HAND, hat] at e
      cases e
  have hh : releaseHand (s.mgmtTake i acks) = 0 := if_neg (by rw [k.rd R.KEY_SESSION_CTL.AT_HAND, hat]; decide)
  have hreq : (s.mgmtTake i acks).requestRelease = (s.mgmtTake i acks).modKey (fun x => { x with release := some 0 }) := by
    have e := Host.Outcome.next.inj (execSessionRelease_waits hr (k.ticking.trans ht))
    rw [e, hh]
    refine congrArg (s.mgmtTake i acks).modKey (funext fun x => ?_)
    cases hx : x.release <;> simp [KeyWork.releaseAt, hx]
  refine ⟨_, congrArg Host.Outcome.next (if_pos (operator_may h)), ?_⟩
  rw [hr, hreq]
  exact (k.map (fun t => t.modKey (fun x => { x with release := some 0 })) fun _ _ _ => rfl).replies h.live _

theorem execMgmtRelease_refused (hst : s.rd R.KEY_SESSION.STATE 0 = 3 ∨ s.rd R.KEY_SESSION.STATE 0 = 4) :
    ∃ t u, execMgmtRelease i acks s = .next t ∧ Replies s u i acks [8, 1] t ∧
      KeyRefused s R.KEY_SESSION_CTL.REFUSE R.KEY_SESSION_CTL.REASON 3 u := by
  have k := operator_over h acks
  have hr : (s.mgmtTake i acks).releaseReason = 3 := releaseReason_releasing (by rw [k.rd R.KEY_SESSION.STATE]; exact hst)
  have hreq : (s.mgmtTake i acks).requestRelease = (s.mgmtTake i acks).sessionRefuse 3 :=
    Host.Outcome.next.inj (execSessionRelease_refused hr (by decide))
  refine ⟨_, s.sessionRefuse 3, congrArg Host.Outcome.next (if_pos (operator_may h)), ?_, keyRefused_wr s _ _ 3⟩
  rw [hr, hreq]
  exact ((k.wr R.KEY_SESSION_CTL.REFUSE 0 1).wr R.KEY_SESSION_CTL.REASON 0 3).replies h.live _

/-! ### FIRMWARE -/

omit h in
/-- A slot of the firmware store filled. -/
def State.firmed (s : State) (slot : Nat) (w : Firm) : State := { s with mgmt := { s.mgmt with fw := mset {} s.mgmt.fw slot w } }

omit h in
theorem SessionOver.firmed (k : SessionOver u i x v) (slot : Nat) (w : Firm) : SessionOver (u.firmed slot w) i x (v.firmed slot w) where
  session := k.session
  others := k.others
  creds := (congrArg (fun m : Mgmt => { m with fw := mset {} m.fw slot w }) k.creds :)
  regs := k.regs
  rest := (congrArg (fun t : State => { t with mgmt := { u.mgmt with fw := mset {} u.mgmt.fw slot w } }) k.rest :)

theorem execFirmware_fills (version : Nat) (image : List Word) (key sig : Nat × Nat) :
    ∃ t, execFirmware i acks version image key sig s = .next t ∧
      Replies s (s.firmed (1 - s.rd R.PLT_BOOT_STATE.FW_SLOT 0) ⟨version, digestWords (wordBytes image), fwVerifies image key sig⟩)
        i acks [10, 0] t := by
  have k := operator_over h acks
  refine ⟨_, rfl, mgmtOp_replies h.live (operator_may h) ?_ (k.firmed _ _)⟩
  rw [k.rd R.PLT_BOOT_STATE.FW_SLOT]
  rfl

/-! ### PROBE_DECK -/

omit h in
theorem SessionOver.deckRefusal (k : SessionOver u i x v) (ws : List Word) : v.deckRefusal ws = u.deckRefusal ws :=
  k.same (fun t => t.deckRefusal ws) fun _ _ _ => rfl

omit h in
/-- A deck that waits for the boundary, as FLT_PROBE_STAT shows it. -/
def State.deckTaken (s : State) (d : Deck) : State :=
  (({ s with deckWaits := some d } : State).wr R.FLT_PROBE_STAT.DECK_ID 0 d.id).wr R.FLT_PROBE_STAT.REFUSE 0 0

omit h in
theorem loadDeck_waits {deck : List Word} (hd : s.deckRefusal deck = 0) (ht : s.ticking = true) : s.loadDeck deck = s.deckTaken (deckOf deck) := by
  have hp : (s.deckTaken (deckOf deck)).rd R.SYN_TICK_PERIOD.PERIOD 0 = s.rd R.SYN_TICK_PERIOD.PERIOD 0 :=
    (rd_wr_reg _ R.FLT_PROBE_STAT.REFUSE _ _ _ _ (by decide)).trans (rd_wr_reg _ R.FLT_PROBE_STAT.DECK_ID _ _ _ _ (by decide))
  exact (if_neg (not_not_intro hd)).trans (orNow_ticking (by exact (ticking_congr hp rfl).trans ht) _)

omit h in
theorem SessionOver.deckTaken (k : SessionOver u i x v) (d : Deck) : SessionOver (u.deckTaken d) i x (v.deckTaken d) :=
  ((k.map (fun t => { t with deckWaits := some d }) fun _ _ _ => rfl).wr R.FLT_PROBE_STAT.DECK_ID 0 d.id).wr R.FLT_PROBE_STAT.REFUSE 0 0

theorem execProbeDeck_refused {deck : List Word} (hd : wordsFld deck 0 4 ≠ 0x5650524B ∨ wordsFld deck 4 2 ≠ 1) :
    ∃ t, execProbeDeck i acks deck s = .next t ∧
      Replies s ((s.wr R.FLT_PROBE_STAT.STATE 0 3).wr R.FLT_PROBE_STAT.REFUSE 0 1) i acks [11, 0] t := by
  have k := operator_over h acks
  have hr : (s.mgmtTake i acks).deckRefusal deck = 1 := if_pos hd
  refine ⟨_, rfl, mgmtOp_replies h.live (operator_may h) rfl ?_⟩
  rw [State.loadDeck, hr]
  exact (k.wr R.FLT_PROBE_STAT.STATE 0 3).wr R.FLT_PROBE_STAT.REFUSE 0 1

theorem execProbeDeck_waits {deck : List Word} (hd : s.deckRefusal deck = 0) (ht : s.ticking = true) :
    ∃ t, execProbeDeck i acks deck s = .next t ∧ Replies s (s.deckTaken (deckOf deck)) i acks [11, 0] t := by
  have k := operator_over h acks
  refine ⟨_, rfl, mgmtOp_replies h.live (operator_may h) rfl ?_⟩
  rw [loadDeck_waits ((k.deckRefusal deck).trans hd) (k.ticking.trans ht)]
  exact k.deckTaken _

/-! ### INJECT -/

omit h in
/-- The two registers of injection slot n as a write leaves them. -/
def State.slotStored (s : State) (n : Nat) (ctl unit : Word) : State :=
  (s.setReg .FLT_INJ_CTL n (writeImage .FLT_INJ_CTL (fun _ => true) (s.reg .FLT_INJ_CTL n) ctl)).setReg .FLT_INJ_UNIT n unit

omit h in
/-- A slot that waits for the boundary, where the write arms it. -/
def State.slotWaits (s : State) (n : Nat) (ctl unit : Word) : State :=
  { s.slotStored n ctl unit with
    injs := mset {} s.injs n (if (s.slotStored n ctl unit).rd R.FLT_INJ_CTL.ARM n = 1 then { waits := true } else {}) }

omit h in
theorem writeInj_waits {n : Nat} {ctl unit : Word} {path : Nat} (hn : n < 8) (ha : s.injAllowed path = true) (ht : s.ticking = true) :
    s.writeInj n ctl unit path = s.slotWaits n ctl unit := by
  have hp : (s.slotStored n ctl unit).rd R.SYN_TICK_PERIOD.PERIOD 0 = s.rd R.SYN_TICK_PERIOD.PERIOD 0 :=
    (rd_setReg_ne _ _ _ _ _ _ (by decide)).trans (rd_setReg_ne _ _ _ _ _ _ (by decide))
  refine (if_neg (by simp [ha]; omega)).trans (orNow_ticking (by exact (ticking_congr (t := s.slotWaits n ctl unit) hp rfl).trans ht) _)

omit h in
theorem SessionOver.slotWaits (k : SessionOver u i x v) (n : Nat) (ctl unit : Word) :
    SessionOver (u.slotWaits n ctl unit) i x (v.slotWaits n ctl unit) := by
  have ks : SessionOver (u.slotStored n ctl unit) i x (v.slotStored n ctl unit) := by
    rw [State.slotStored, State.slotStored, k.reg (by decide)]
    exact (k.setReg _ _ _).setReg _ _ _
  have hi : v.injs = u.injs := k.same State.injs fun _ _ _ => rfl
  rw [State.slotWaits, State.slotWaits, ks.rd R.FLT_INJ_CTL.ARM, hi]
  exact ks.map (fun t => { t with injs := _ }) fun _ _ _ => rfl

theorem execInject_writes {n : Nat} {ctl unit : Word} (hn : n < 8) (ht : s.ticking = true)
    (hm : s.rd R.PLT_LIFECYCLE.STATE 0 = 1 ∨ s.rd R.SRV_MODE.MODE 0 = 3) :
    ∃ t u, execInject i acks n ctl unit s = .next t ∧ SlotWritten s n ctl unit u ∧ Replies s u i acks [11, 0] t := by
  have k := operator_over h acks
  have hlife := h.life
  have ha : s.injAllowed 7 = true := by
    rw [injAllowed_iff]
    simp only [List.mem_cons, List.not_mem_nil, or_false] at hlife
    omega
  have ha' : (s.mgmtTake i acks).injAllowed 7 = true := by
    rw [injAllowed_iff, k.rd_apart R.PLT_LIFECYCLE.STATE, k.rd R.SRV_MODE.MODE, ← injAllowed_iff]
    exact ha
  refine ⟨_, s.slotWaits n ctl unit, rfl, ?_, mgmtOp_replies h.live (operator_may h) rfl ?_⟩
  · rw [← writeInj_waits hn ha ht]
    exact writeInj_slotWritten hn ha ht
  · rw [writeInj_waits hn ha' (k.ticking.trans ht)]
    exact k.slotWaits n ctl unit
end

/-! ### DEPLOY -/

theorem SessionOver.setLife (k : SessionOver u i x v) (n : Nat) : SessionOver (u.setLife n) i x (v.setLife n) :=
  ((k.wr R.PLT_LIFECYCLE.STATE 0 n).wr R.PLT_LIFECYCLE.DEBUG 0 0).resetRegs _

theorem deployed_setLife (s : State) : Deployed s (s.setLife 2) where
  state := setLife_state s 2
  debug := by
    refine ⟨?_, fun j _ => ?_⟩
    · rw [State.setLife, State.rd, reg_resetRegs _ _ _ _ (by decide)]
      exact rd_wr_same _ _ _ _ (by decide)
    · rw [State.setLife, reg_resetRegs_all]
      rfl
  regs r j hl hd := by
    rw [State.setLife, reg_resetRegs _ _ _ _ (by simpa using hd)]
    exact (reg_wr_ne _ _ _ _ _ _ hl).trans (reg_wr_ne _ _ _ _ _ _ hl)
  rest := setLife_rest s 2

/-- The key unit with a release asked for, and the lifecycle state that follows it. -/
def KeyWork.releaseThen (y : KeyWork) (n st : Nat) : KeyWork :=
  { y with after := some (max n (y.after.getD 0)), release := if st < 3 then some 0 else y.release }

theorem releaseThen_waits (n : Nat) (ht : s.ticking = true) :
    s.releaseThen n = s.modKey (fun y => y.releaseThen n (s.rd R.KEY_SESSION.STATE 0)) := by
  by_cases hst : s.rd R.KEY_SESSION.STATE 0 ≥ 3
  · refine (if_pos (by exact hst)).trans ?_
    simp [State.modKey, KeyWork.releaseThen, Nat.not_lt.2 hst]
  · refine ((if_neg (by exact hst)).trans (orNow_ticking (by exact ht) _)).trans ?_
    simp [State.modKey, KeyWork.releaseThen, Nat.not_le.1 hst]

section
variable (h : Operator s i [1])
include h

theorem execDeploy_refused (ho : s.mgmt.ops = []) : ∃ t, execDeploy i acks s = .next t ∧ Replies s s i acks [9, 1] t := by
  refine ⟨_, rfl, mgmtOp_none h.live (Or.inr ?_)⟩
  rw [(operator_over h acks).ops, if_pos ho]

theorem execDeploy_deploys (ho : s.mgmt.ops ≠ []) (hst : s.rd R.KEY_SESSION.STATE 0 = 0) :
    ∃ t u, execDeploy i acks s = .next t ∧ Deployed s u ∧ Replies s u i acks [9, 0] t := by
  have k := operator_over h acks
  refine ⟨_, _, rfl, deployed_setLife s, mgmtOp_replies h.live (operator_may h) ?_ (k.setLife 2)⟩
  rw [k.ops, if_neg ho, k.rd R.KEY_SESSION.STATE, if_pos hst]

theorem execDeploy_releases (ho : s.mgmt.ops ≠ []) (hst : s.rd R.KEY_SESSION.STATE 0 ≠ 0) (ht : s.ticking = true) :
    ∃ t, execDeploy i acks s = .next t ∧
      Replies s (s.modKey (fun y => y.releaseThen 2 (s.rd R.KEY_SESSION.STATE 0))) i acks [9, 0] t := by
  have k := operator_over h acks
  refine ⟨_, rfl, mgmtOp_replies h.live (operator_may h) ?_
    (k.map (fun t => t.modKey (fun y => y.releaseThen 2 (s.rd R.KEY_SESSION.STATE 0))) fun _ _ _ => rfl)⟩
  rw [k.ops, if_neg ho, k.rd R.KEY_SESSION.STATE, if_neg hst, releaseThen_waits 2 (k.ticking.trans ht), k.rd R.KEY_SESSION.STATE]
end

end Sys2Proof.Machine
end
section
/-! Attestation (R514). -/
namespace Sys2Proof.Machine
open Sys2Proof.Claims

variable {s t u v : State} {i acks : Nat} {x : MSess}

/-! ### Measurements -/

/-- A fold that passes over a key does not see a write at it. -/
theorem foldl_mset_passed {α β : Type} [DecidableEq α] (d : α) {k : Nat} (w : α) {g : β → Nat × α → β} (hg : ∀ b y, g b (k, y) = b)
    (m : SMap α) (b : β) : (mset d m k w).foldl g b = m.foldl g b := by
  induction m generalizing b with
  | nil =>
    rw [mset]
    split
    · rfl
    · exact hg b w
  | cons e m ih =>
    obtain ⟨a, y⟩ := e
    rw [mset]
    split
    · split
      · exact ih _
      · rw [List.foldl_cons, hg]
    · split
      · next hk =>
        subst hk
        split <;> simp only [List.foldl_cons, hg, ih]
      · exact ih _

theorem setMsess_regs (s : State) (i : Nat) (x : MSess) : ∃ w, (s.setMsess i x).regs = mset (resetWord .PLT_LIFECYCLE 0) s.regs (regKey .PLT_LIFECYCLE 0) w :=
  ⟨_, rfl⟩

/-- The versions of the image copies are as they were. -/
theorem setMsess_versions (s : State) (i : Nat) (x : MSess) :
    (s.setMsess i x).lowVersion = s.lowVersion ∧ (s.setMsess i x).liveVersion = s.liveVersion := by
  have k := (SessionOver.refl s i).setMsess x
  obtain ⟨w, hw⟩ := setMsess_regs s i x
  simp only [State.lowVersion, State.liveVersion, k.rd R.ARF_WSMAP_LO.VALID, k.rd R.ARF_WSMAP_LO.LIVE, k.rd R.ARF_WSVER.A_VERSION,
    k.rd R.ARF_WSVER.B_VERSION, hw]
  have hk : ¬ regKey .PLT_LIFECYCLE 0 % 256 = RegId.ctorIdx .ARF_WSMAP_LO := by decide
  exact ⟨congrArg (fun o => Option.getD o 0) (foldl_mset_passed _ w (fun _ _ => if_neg hk) _ _), foldl_mset_passed _ w (fun _ _ => if_neg hk) _ _⟩

theorem setMsess_measure (s : State) (i : Nat) (x : MSess) (n : Nat) : (s.setMsess i x).measure n = s.measure n := by
  have k := (SessionOver.refl s i).setMsess x
  obtain ⟨hlow, hlive⟩ := setMsess_versions s i x
  have himg : (s.setMsess i x).lastImg = s.lastImg := rfl
  have hfw : (s.setMsess i x).mgmt.fw = s.mgmt.fw := rfl
  have hkeys : (s.setMsess i x).imgKeys = s.imgKeys := rfl
  simp only [State.measure, hlow, hlive, himg, hfw, hkeys, k.life, k.reg (r := .PLT_CAP_FACES) (by decide), k.reg (r := .PLT_CAP_UNITS) (by decide),
    k.rd R.PLT_BOOT_STATE.FW_SLOT, k.rd R.PLT_WIMG_FLOOR.FLOOR, k.rd R.KEY_SESSION.STATE, k.rd R.KEY_SESSION.EPOCH, k.rd R.KEY_STATE.EPOCH]

/-- A request that arrives changes at most its session. -/
theorem spdmTake_cases (s : State) (via acks : Nat) : s.spdmTake via acks = s ∨ ∃ x, s.spdmTake via acks = s.setMsess via x := by
  by_cases hv : via < 8
  · by_cases hl : (s.msess via).live = true
    · exact Or.inr ⟨_, (if_pos hv).trans (mgmtTake_live acks hl)⟩
    · exact Or.inl ((if_pos hv).trans (mgmtTake_dead acks (Bool.eq_false_iff.2 hl)))
  · exact Or.inl (if_neg hv)

theorem spdmTake_measure (s : State) (via acks n : Nat) : (s.spdmTake via acks).measure n = s.measure n := by
  rcases spdmTake_cases s via acks with h | ⟨x, h⟩
  · rw [h]
  · rw [h, setMsess_measure]

theorem spdmTake_freeCount (s : State) (via acks : Nat) : (s.spdmTake via acks).freeCount = s.freeCount := by
  rcases spdmTake_cases s via acks with h | ⟨x, h⟩ <;> rw [h]
  rfl

/-! ### Answers -/

/-- The signature over an answer, where it is signed. -/
def State.signature (s : State) (body : List Nat) (signed : Bool) : List Nat :=
  if signed then Config.signature (Config.freeValue s.freeCount) body else []

/-- The draw that a signature takes. -/
def State.drawnFor (s : State) (signed : Bool) : State := if signed then { s with freeCount := s.freeCount + 1 } else s

theorem signed_eq (via acks : Nat) (body : List Nat) : (s.spdmTake via acks).signed body =
    ((s.spdmTake via acks).drawnFor true, body ++ s.signature body true) := by
  refine Prod.ext rfl ?_
  show body ++ Config.signature (Config.freeValue (s.spdmTake via acks).freeCount) body = _
  rw [spdmTake_freeCount]
  rfl

/-- The answer to every request: its body and, where it is signed, the signature, sent where the request came from. -/
theorem exec_attests {via : Nat} {c : Instr} {body : List Nat} {signed : Bool} (h : Attests s via acks c body signed) :
    exec c s = .next (((s.spdmTake via acks).drawnFor signed).spdmAnswer via (body ++ s.signature body signed)) := by
  rcases h with ⟨rfl, rfl, rfl⟩ | ⟨rfl, rfl, rfl⟩ | ⟨_, rfl, rfl, rfl⟩ | ⟨rfl, rfl, rfl⟩ | ⟨_, _, rfl, rfl, rfl⟩ | ⟨nonce, rfl, rfl, rfl⟩ |
    ⟨index, nonce, sign, rfl, rfl, rfl⟩
  case inr.inr.inr.inr.inr.inl =>
    show execChallenge via acks nonce s = _
    rw [execChallenge, signed_eq]
  case inr.inr.inr.inr.inr.inr =>
    show execGetMeasurements via acks index nonce signed s = _
    simp only [execGetMeasurements, spdmTake_measure]
    cases signed with
    | true =>
      simp only [if_pos, signed_eq]
    | false => simp [State.drawnFor, State.signature, ok]
  all_goals simp [State.drawnFor, State.signature]; rfl

theorem drawnFor_rest (s : State) (signed : Bool) : { s.drawnFor signed with freeCount := s.freeCount } = s := by cases signed <;> rfl

/-- An answer over a session, which needs no credential. -/
theorem attests_session {c : Instr} {body : List Nat} {signed : Bool} (h : Attests s i acks c body signed) (hi : i < 8)
    (hl : (s.msess i).live = true) : ∃ t u, exec c s = .next t ∧ { u with freeCount := s.freeCount } = s ∧
      Replies s u i acks (1 :: 0 :: body ++ s.signature body signed) t := by
  have k : SessionOver (s.drawnFor signed) i ((s.msess i).taken s.now acks) ((s.mgmtTake i acks).drawnFor signed) := by
    cases signed with
    | false => exact sessionOver_take acks hl
    | true => exact (sessionOver_take acks hl).map (fun t => t.drawnFor true) fun _ _ _ => rfl
  have ha : ((s.spdmTake i acks).drawnFor signed).spdmAnswer i (body ++ s.signature body signed) =
      ((s.mgmtTake i acks).drawnFor signed).mgmtSend i (1 :: 0 :: body ++ s.signature body signed) := by
    rw [State.spdmTake, if_pos hi, State.spdmAnswer, if_pos hi]
    rfl
  exact ⟨_, s.drawnFor signed, (exec_attests h).trans (congrArg Host.Outcome.next ha), drawnFor_rest s signed, k.replies hl _⟩

/-- An answer through a DOE mailbox. -/
theorem attests_mailbox {c : Instr} {body : List Nat} {signed : Bool} (h : Attests s i acks c body signed) (hi : i = 8 ∨ i = 10) :
    ∃ t, exec c s = .next t ∧ t.out = s.out ++ [.pcie ((i - 8) :: body ++ s.signature body signed)] ∧
      { t with out := s.out, freeCount := s.freeCount } = s := by
  have ha : ((s.spdmTake i acks).drawnFor signed).spdmAnswer i (body ++ s.signature body signed) =
      (s.drawnFor signed).emit (.pcie ((i - 8) :: body ++ s.signature body signed)) := by
    rw [State.spdmTake, if_neg (by omega), State.spdmAnswer, if_neg (by omega), if_pos hi]
    rfl
  refine ⟨_, (exec_attests h).trans (congrArg Host.Outcome.next ha), ?_, ?_⟩
  · cases signed <;> rfl
  · cases signed <;> rfl

end Sys2Proof.Machine
end
section
open Sys2Proof Sys2Proof.Machine Sys2Proof.Claims

/-- Settles O59: handshakes and timeouts (R510, R511); the thirteen operations under a credential, refused and carried out (R507, R513, R516, R558,
R560); and attestation, which needs none (R514). The model's choices: the shape of the answer lists (log entry 19), with log entries 11, 60 and 83. -/
theorem managementResults : Obligations.ManagementResults := by
  intro s i acks
  refine ⟨?handshake, ?silence, ?refusal, ?reads, ?writes, ?deploy, ?attestation⟩
  case handshake =>
    intro client proto n hn hl
    subst hn
    refine ⟨execMgmtHandshake_ignored client proto, fun h hp hc => ?_, fun h hp ho => ?_, fun h hf => ?_⟩
    · subst hp
      obtain ⟨c, hmem, rfl⟩ := hc
      exact ⟨_, execMgmtHandshake_known hl h hmem, onlySession_setMsess s i _⟩
    · subst hp
      exact ⟨_, execMgmtHandshake_first hl h ho, onlySession_setMsess s i _⟩
    · obtain ⟨hframe, hcount⟩ := bump_counts s R.PLT_LIFECYCLE.AUTH_FAIL 0
      exact ⟨_, execMgmtHandshake_fails hl h hf, hcount, hframe⟩
  case silence =>
    refine fun hl => ⟨fun x d rest hx ho => ?_, _, execMgmtIdleTimeout_closes hl, rfl, onlySession_setMsess s i {}⟩
    subst hx
    exact ⟨fun hr => ⟨_, execMgmtRetransmit_repeats hl ho hr, rfl, onlySession_setMsess s i _⟩,
      fun hr => ⟨_, execMgmtRetransmit_closes hl ho hr, onlySession_setMsess s i {}⟩⟩
  case refusal =>
    refine fun c code lives hc => ⟨fun hl hr => ?_, fun hl => ?_⟩
    · have hm : s.mayOp i lives = false := by
        refine Bool.eq_false_iff.2 fun hm => ?_
        obtain ⟨-, hcred, hlife⟩ := (mayOp_iff s i lives).1 hm
        exact hr.elim (fun e => by simp [hcred] at e) (fun e => e hlife)
      exact ⟨_, exec_operates hc hm, mgmtOp_none hl (Or.inl rfl)⟩
    · have hm : s.mayOp i lives = false := by simp [State.mayOp, hl]
      rw [exec_operates hc hm, mgmtOp_dead hl]
  case reads =>
    refine fun h => ⟨fun _ => execReadReg_none h, fun _ _ _ ho ha hr => ⟨execReadReg_noFace h ho ha, execReadReg_reads h ho ha hr⟩,
      fun n x hx => ?_, fun _ _ => execReadLog_record h, fun _ _ => execReadLog_slot h⟩
    subst hx
    exact execReadLog_history h n
  case writes =>
    refine fun h => ⟨fun _ w => execWriteReg_none h w, fun _ w _ _ => execWriteReg_unwritten h w, fun off w j n ho hn => ?_,
      fun _ => execSetFloor_raises h, fun _ => execSetFloor_refuses h, fun u hst hat ht hu => ?_, fun st hst hr => ?_,
      fun version image key sig u slot hs hu => ?_, fun _ => execProbeDeck_refused h, fun _ => execProbeDeck_waits h,
      fun _ _ _ => execInject_writes h⟩
    · subst hn
      exact execWriteReg_floor h w ho
    · subst hu
      exact execMgmtRelease_waits h hst hat ht
    · subst hst
      exact execMgmtRelease_refused h hr
    · subst hu hs
      exact execFirmware_fills h version image key sig
  case deploy =>
    refine fun h => ⟨execDeploy_refused h, execDeploy_deploys h, fun u st hst ho hne ht hu => ?_⟩
    subst hu hst
    exact execDeploy_releases h ho hne ht
  case attestation =>
    refine fun c body signed hc => ⟨s.signature body signed, fun hs => ?_, attests_session hc, attests_mailbox hc⟩
    rw [hs]
    rfl
end
